-- ==== Sys2Proof/Word.lean ====
section
/-!
DEFINITION. The machine's words, and the sparse tables that hold everything the device has many of.
-/

namespace Sys2Proof

/-- A byte of a frame, of host memory or of a record. -/
abbrev Byte := BitVec 8

/-- A 32-bit BAR0 register (R6). -/
abbrev Word := BitVec 32

/-- A 64-bit register pair (R9). -/
abbrev DWord := BitVec 64

/-- A sparse table: the entries that differ from what an unlisted key reads as, keys strictly rising. -/
abbrev Tab (α : Type) := List (Nat × α)

end Sys2Proof
end

