-- ==== Sys2Proof/Syntax.lean ====
section
/-!
DEFINITION. The commands of the block: one constructor for each row of spec/opcode_table.json, in the table's order. Each
docstring gives the rule and the row's summary; operands are what the command brings from outside.
-/

namespace Sys2Proof

/-- A port, named by its first lane (R11). -/
abbrev PortIx := Fin 512
abbrev LaneIx := Fin 512
abbrev ChipletIx := Fin 8
abbrev CageIx := Fin 128
abbrev TileIx := Fin 16
abbrev RingIx := Fin 1024
abbrev FnIx := Fin 4
abbrev ChIx := Fin 32
abbrev TrigIx := Fin 16
abbrev ClassIx := Fin 8
/-- A tile's queue: unicast VOQ 8e + c, or multicast queue 8d + c at 4096 + 8d + c (R250). -/
abbrev QueueIx := Fin 4224

/-- What the FEC decoders of a port are given while a frame comes in (R44). -/
inductive FecUnit where
  /-- An interleave block in the 425 lane format: the lane's index in the port, the decision on P for the UI before the block, and for each of
  its UI the detector's decision on P and its reliability. -/
  | block (lane : Fin 8) (p0 : Fin 4) (uis : List (Fin 4 × Nat))
  /-- A codeword of another FEC: the symbols the decoder corrects, or that it is uncorrectable. -/
  | word (corrected : Nat) (bad : Bool)
  deriving DecidableEq, Repr

/-- A coefficient request that the partner sends in its training frames (R51): a preset, or a step of c(−2), c(−1), c(0) or c(1). -/
inductive CoefReq where
  | preset (n : Fin 8)
  | step (tap : Fin 4) (up : Bool)
  deriving DecidableEq, Repr

/-- What a lane's training ends with (R51, R53): the partner's requests in order and whether it asks for precoding; and of the receive
direction the coefficients agreed for the partner's transmitter, the CTLE setting, the DFE taps and the CDR phase offset. -/
structure TrainLane where
  reqs : List CoefReq
  precode : Bool
  partner : Word
  ctle : BitVec 8
  taps : List (BitVec 8)
  cdr : BitVec 16
  deriving DecidableEq, Repr

/-- The commands. -/
inductive Instr where
  /-- R6: A BAR0 write to a register that has no row of its own sets its fields under the access codes. Operands: the writing function, the BAR0 offset and the value. -/
  | registerWrite (f : FnIx) (a : Fin 67108864) (v : Word)
  /-- R9: A read of the low word of a 64-bit register latches the high word, and a counter's OVF, for the reading function. -/
  | lowWordRead (f : FnIx) (a : Fin 67108864)
  /-- R9: A write of the low word of a 64-bit register is held for the writing function. -/
  | lowWordWrite (f : FnIx) (a : Fin 67108864) (v : Word)
  /-- R9: A write of the high word applies both halves together, or the high half alone when no low word is held. -/
  | highWordWrite (f : FnIx) (a : Fin 67108864) (v : Word)
  /-- R31: An aligned 8-byte BAR0 read or write acts on both halves of a 64-bit register at once. Operands: the length of the request, and a
  write of `v`, or a read. -/
  | eightByteAccess (f : FnIx) (bar : Fin 3) (a : Fin 67108864) (len : Nat) (write : Bool) (v : DWord)
  /-- R247: A 64-byte beat of a received frame reaches the owning tile and is written into cells. -/
  | beatArrival (p : PortIx) (bytes : List Byte)
  /-- R130: A frame's last beat arrives with the MAC's FCS verdict, so a waiting frame is metered and dispatched. Operands: the MAC's FCS verdict on what the partner sent, and what the FEC decoders were given for the frame. -/
  | lastBeatArrival (p : PortIx) (bytes : List Byte) (good : Bool) (fec : List FecUnit)
  /-- R97: The parser starts a packet once byte 255 or the last beat of a short frame has arrived, and stamps VERSION, SEQ and ARRIVAL. -/
  | parseStart (t : TileIx) (p : PortIx)
  /-- R145: A thread executes the microword its micro-PC names at its current stage. Operands: the packet, by its frame in the tile; 1 a corrected, 2 an uncorrectable error in the word. -/
  | microwordExecute (t : TileIx) (fid : Nat) (ecc : Fin 3)
  /-- R162: A recirculating thread re-enters stage 0 two cycles after stage 23 with its context kept. -/
  | threadReentry (t : TileIx) (fid : Nat)
  /-- R157: A table operation's match flag and result bytes arrive four cycles after issue. Operands: 0 good, 1 uncorrectable parity, 2 a relocation in progress, 3 uncorrectable parity in the member of a SELECT. -/
  | tableResultArrival (t : TileIx) (fid : Nat) (res : Fin 4)
  /-- R171: An abandoned thread re-enters stage 0 from its pristine PHV after its wait. -/
  | threadRestart (t : TileIx) (fid : Nat)
  /-- R166: A committed log with METER or COUNT is applied once the frame's last beat has arrived. -/
  | deferredLogApply (t : TileIx) (fid : Nat)
  /-- R17: The reorder stage releases a result once every earlier packet of its ingress port has been released. -/
  | reorderRelease (t : TileIx) (p : PortIx)
  /-- R175: The punt unit delivers the head packet of a reason class to its receive ring when an entry is free. Operands: the reason class. -/
  | excQueueDeliver (t : TileIx) (c : Fin 4)
  /-- R178: The tile rewrites a faulty control-store word from the kept image copy. -/
  | csWordRewrite (t : TileIx) (a : Fin 32768)
  /-- R180: CMD LOAD fetches an image and checks its header, signature, SVN and structure. Operands: the function that writes CMD, the bytes host memory returns, or a fetch error. -/
  | imgLoad (f : FnIx) (v : Word) (d : List Byte) (ok : Bool)
  /-- R180: The load ends, placing a verified image in the staging buffer or setting RESULT. -/
  | imgLoadDone
  /-- R181: CMD ACTIVATE starts installation of the staged image, or arms it for the next commit. Operands: value written to IMG_CTL. -/
  | imgActivate (v : Word)
  /-- R182: CMD DEACTIVATE clears the customer region's dispatch tables, profiles and marks. -/
  | imgDeactivate (v : Word)
  /-- R183: CANCEL ends an armed activation. -/
  | imgCancel
  /-- R181: Committed threads in the region have left, so the control-store write begins. -/
  | activationDrained
  /-- R181: The image becomes active, is measured, and held packets dispatch. -/
  | activationComplete
  /-- R197: CS_RD GO copies a control-store word and its marks into the read registers. Operands: value written to CS_RD_CTL, and whether the read corrects an error. -/
  | csRead (t : TileIx) (v : Word) (ecc : Bool)
  /-- R197: The control-store read completes and BUSY clears. -/
  | csReadDone (t : TileIx)
  /-- R140: A write of W7 of a state-table entry makes the whole entry take effect. Operands: the value written to W7. -/
  | stateEntryCommit (t : TileIx) (e : Fin 256) (v : Word)
  /-- R141: A write of W7 of a parser TCAM entry makes the whole entry take effect. -/
  | parserTcamCommit (t : TileIx) (b : Fin 2) (e : Fin 256) (v : Word)
  /-- R142: A write of W3 of a PTYPE TCAM entry makes the whole entry take effect. Operands: the value written to W3. -/
  | ptypeEntryCommit (t : TileIx) (b : Fin 2) (e : Fin 128) (v : Word)
  /-- R122: A write to a non-final word of a multi-word entry is held until the last word. Operands: 0 the state table, 1 and 2 the customer TCAM banks, 3 and 4 the PTYPE banks. -/
  | entryWordWrite (t : TileIx) (tab : Fin 5) (e : Fin 256) (w : Fin 8) (v : Word)
  /-- R132: POL_CMD OP 1 writes a policer's configuration and fills its buckets. -/
  | policerWriteConfig (t : TileIx)
  /-- R143: POL_CMD OP 2 reads a policer's configuration into POL_DATA. -/
  | policerReadConfig (t : TileIx)
  /-- R144: POL_CMD OP 3 reads a policer's bucket state into POL_DATA. -/
  | policerReadBucket (t : TileIx)
  /-- R143: A policer operation completes and BUSY clears. -/
  | policerCmdDone (t : TileIx)
  /-- R231: The table engine applies an INSERT, immediate or staged, with cuckoo placement for EM. Operands: the command register, or a table command ring. -/
  | insert (src : Option RingIx)
  /-- R221: The engine applies a MODIFY to a key, prefix or index. -/
  | modify (src : Option RingIx)
  /-- R221: The engine applies a DELETE to a key, prefix or index. -/
  | delete (src : Option RingIx)
  /-- R213: The engine reads an entry of the chosen parity and returns it. -/
  | read (src : Option RingIx)
  /-- R224: A COMMIT is accepted by the engine and waits for earlier operations and a quiet state. -/
  | commit (src : Option RingIx)
  /-- R224: The commit takes effect: every tile advances its version, parser bank and any armed activation. -/
  | versionChange
  /-- R226: A DISCARD in STAGED starts a sweep removing every staged copy. -/
  | discard (src : Option RingIx)
  /-- R213: SET_LIVE changes a member's EN bit in all tiles. -/
  | setLive (src : Option RingIx)
  /-- R210: MEMBER writes an ECMP or LAG member entry in all tiles at once. -/
  | member (src : Option RingIx)
  /-- R213: FLUSH walks a partition and removes matching learned entries. -/
  | flush (src : Option RingIx)
  /-- R225: The old version's in-flight counters reach 0 in all tiles and the sweep starts. -/
  | inflightDrained
  /-- R225: The retirement sweep ends with P0 equal to P1 everywhere and the state QUIET. -/
  | retireSweepEnd
  /-- R226: The discard sweep ends and the state returns to QUIET. -/
  | discardSweepEnd
  /-- R237: The engine applies a data-path table write immediately or discards it. -/
  | twriteApply
  /-- R234: The engine applies a LEARN effect under the learning limits. -/
  | learnApply
  /-- R238: An aging tick of AGE_TICK milliseconds advances AGE_NOW. -/
  | ageTick
  /-- R240: A write of AGE_TICK restarts the period and makes the next pass refresh all stamps. -/
  | ageTickWrite (v : Word)
  /-- R239: The aging scanner reads an entry's stamps and issues compare operations for candidates. Operands: the first slot. -/
  | ageScanVisit (slot : Fin 524288)
  /-- R239: The engine deletes an aged entry only if its stamps are unchanged. -/
  | ageCompareDelete
  /-- R239: The engine clamps a stamp older than 32,768 ticks unless hit. -/
  | ageStampRewrite
  /-- R205: The engine repairs a parity-failed word from another tile or deletes the entry. -/
  | tableWordRepair (t : TileIx)
  /-- R205: The spare bank finishes loading for a bank in safe state and serves it. -/
  | spareBankLoadDone (t : TileIx)
  /-- R203: A claimed bank's copy into the spare bank ends, and the spare serves it. -/
  | bankCopyOutDone (t : TileIx)
  /-- R203: The copy back at slice end completes and the spare is released. -/
  | bankCopyBackDone (t : TileIx)
  /-- R204: The scrubber checks a TCAM entry and treats a failing one as absent. Operands: whether the entry's parity fails. -/
  | tcamScrubVisit (t : TileIx) (e : Fin 16384) (err : Bool)
  /-- R243: A write of EM_SEED takes effect only when every EM partition is empty. -/
  | emSeedWrite (v : Word)
  /-- R244: A write of LPM_CFG takes effect only when the LPM is empty. -/
  | lpmCfgWrite (v : Word)
  /-- R245: A write of TBL_CFG word 0 changes geometry only when allowed, and always the flag bits. Operands: the value written to word 0. -/
  | tblCfgWrite (k : Fin 8) (v : Word)
  /-- R245: A write of TCAM_CFG is ignored while its range holds entries or would overlap. -/
  | tcamCfgWrite (k : Fin 4) (v : Word)
  /-- R36: PORT_CFG.EN going to 1 checks the configuration and starts the port. Operands: value written to PORT_CFG of the port with EN at 1. -/
  | portEnable (p : PortIx) (v : Word)
  /-- R37: PORT_CFG.EN going to 0 stops the port and squelches its transmitters. -/
  | portDisable (p : PortIx)
  /-- R77: A write of TXGRP_CFG sets group families except for groups with enabled ports. -/
  | txgrpCfgWrite (c : ChipletIx) (v : Word)
  /-- R48: A received negotiation page completes the exchange and the mode is resolved or not. Operands: the partner's standard abilities at the port's width, bit k rate code k, and its Dereagor ability word (0 none). -/
  | anPageReceived (p : PortIx) (base : BitVec 6) (ability : Word)
  /-- R48: One second after a failed resolution the port restarts negotiation. -/
  | anRetryTimer (p : PortIx)
  /-- R56: All lanes of the port finish training and the port goes to ALIGN. Operands: what each lane's training ends with. -/
  | trainComplete (p : PortIx) (lanes : List TrainLane)
  /-- R54: A port not UP by twice the first-use maximum returns to negotiation or retrains. -/
  | trainTimeout (p : PortIx)
  /-- R53: Training from history misses its maximum and restarts from presets. -/
  | histTrainTimeout (p : PortIx)
  /-- R56: Alignment and lock are reached and the port goes UP. Operands: the idle blocks sent since training ended (R42). -/
  | alignLock (p : PortIx) (idle : Nat)
  /-- R56: No lock within 10 ms returns the port to negotiation or training. -/
  | alignTimeout (p : PortIx)
  /-- R45: A marker message is found on a lane, locking the lane or resetting counts. Operands: bit differences from MARK_PATTERN, the codeword of the lane it stands in, counted from the last WAKE marker, the time of its arrival in tenths of a nanosecond, and its
  fields. -/
  | markerReceive (l : LaneIx) (diffs : Nat) (cw : Nat) (time : Nat) (laneIdx : Fin 8) (width : Fin 4) (ei : Bool) (wake : Bool) (seq : BitVec 16)
  /-- R45: A third consecutive missed marker takes the lane out of lock. -/
  | markerMiss (l : LaneIx)
  /-- R57: A lane without signal for 1 µs outside announced idle takes the port down. -/
  | lossOfSignal (l : LaneIx)
  /-- R57: The corrected-symbol count over a codeword window exceeds the limit and the port goes down. Operands: of the window's codewords that carried no frame, the symbols corrected, the codewords corrected and the uncorrectable ones. -/
  | hiSer (l : LaneIx) (syms : Nat) (cws : Nat) (bad : Nat)
  /-- R57: Received local or remote fault ordered sets stop frame transmission. Operands: 0 none received any more, 1 local fault, 2 remote fault. -/
  | faultOrderedSet (p : PortIx) (kind : Fin 3)
  /-- R58: After EI_HOLD idle the transmitter announces and enters electrical idle. Operands: the idle blocks sent from the last frame to the end of the announcing interleave block. -/
  | eiHoldExpire (p : PortIx) (idle : Nat)
  /-- R58: Loss of signal after EI_ANNOUNCE puts the receiver into electrical idle. -/
  | rxEiEntry (p : PortIx)
  /-- R59: A frame queued in electrical idle starts the wake burst and exit. -/
  | eiWake (p : PortIx)
  /-- R59: The receiver detects the WAKE marker and resumes data. -/
  | wakeMarker (p : PortIx)
  /-- R59: Signal without a WAKE marker for 2 µs takes the port down. -/
  | wakeTimeout (p : PortIx)
  /-- R60: DEEP_CMD enter sends low-power idle and moves the port to DEEP. -/
  | deepEnter (p : PortIx)
  /-- R60: DEEP_CMD wake retrains the port from history. -/
  | deepWake (p : PortIx)
  /-- R60: The partner's deep-entry sequence moves the port to DEEP. -/
  | partnerDeepEntry (p : PortIx)
  /-- R60: Signal from the partner in DEEP starts training from history. -/
  | deepSignalDetect (p : PortIx)
  /-- R87: EYE_CTL START begins an eye-scan point and clears EYE_RESULT. Operands: value written to EYE_CTL. -/
  | eyeStart (l : LaneIx) (v : Word)
  /-- R63: The scan point ends after its dwell with DONE and a status. Operands: the UI at which the two decisions differed. -/
  | eyePointDone (l : LaneIx) (errors : Nat)
  /-- R67: Enabling a loopback, generator or checker moves the port to TEST. Operands: the LOOP, GEN_EN and CHK_EN fields as written. -/
  | loopbackEnable (l : LaneIx) (loop : Fin 4) (gen : Bool) (chk : Bool)
  /-- R56: Turning off every test function returns the port to negotiation or training. -/
  | testExit (p : PortIx)
  /-- R65: INJ_GO injects one bit error. -/
  | prbsInject (l : LaneIx)
  /-- R65: The periodic injection count expires and one bit error is injected. -/
  | prbsPeriodicInject (l : LaneIx)
  /-- R64: The checker locks after 64 matching bits. Operands: the bits that reach the lane, in order. -/
  | prbsCheckLock (l : LaneIx) (rx : List Bool)
  /-- R64: 32 errors in 64 bits make the checker reseed and set LOCK_LOST. Operands: the bits that reach the lane, in order. -/
  | prbsLockLost (l : LaneIx) (rx : List Bool)
  /-- R70: CAGE_PRS_N falls and debounce starts. -/
  | cagePrsFall (k : CageIx)
  /-- R70: After 50 ms low the insert is posted and the module held in reset. -/
  | cageDebounceDone (k : CageIx)
  /-- R70: CAGE_RST_N is released 20 ms later. -/
  | cageResetRelease (k : CageIx)
  /-- R70: A 10 ms poll finds the module ready and the application is selected or refused. Operands: the module's state, its identifier byte, its applications as (rate code, width code) and its maximum power in 0.25 W. -/
  | modReadyPoll (k : CageIx) (ready : Bool) (ident : Byte) (apps : List (Nat × Nat)) (power : Nat)
  /-- R70: The module is not ready by MOD_READY_TMO. -/
  | modReadyTimeout (k : CageIx)
  /-- R70: The module data path activates and the port leaves WAIT_MODULE. -/
  | moduleDataPathActive (k : CageIx)
  /-- R71: Module removal squelches the cage, ends I2C and sends its ports to WAIT_MODULE. Operands: whether SDA is held low. -/
  | cagePrsRise (k : CageIx) (sdaLow : Bool)
  /-- R72: CAGE_INT_N falls and the latched flags are read, or EV_MOD_INT posted. Operands: the module's latched flags, each with its mask bit. -/
  | cageIntFall (k : CageIx) (flags : List (Bool × Bool))
  /-- R73: A mailbox GO with WRITE 0 reads a module page into the buffer. Operands: value written to MOD_ACC_CTL. -/
  | mailboxRead (m : Fin 4) (v : Word)
  /-- R73: A mailbox GO with WRITE 1 writes the buffer to a module page. Operands: value written to MOD_ACC_CTL. -/
  | mailboxWrite (m : Fin 4) (v : Word)
  /-- R94: The mailbox access ends and RESULT is set. Operands: how the bus access ended, the bytes read, and the level of the cage's CAGE_INT_N. -/
  | mailboxDone (m : Fin 4) (result : Fin 6) (data : List Byte) (intN : Bool)
  /-- R74: At the LED frame rate the stream shifts 2,048 bits and pulses LED_LATCH. Operands: the 2 Hz phase. -/
  | ledFrame (blink : Bool)
  /-- R296: Nimbus grants credit to a source of a class whose lead and staging allow it. -/
  | nimbusGrant (t : TileIx)
  /-- R252: A queue receives a grant and raises its balance. -/
  | grantReceive (t : TileIx) (q : QueueIx)
  /-- R252: A queue with positive balance starts its head frame across the crossbar. Operands: whether a cell read fails its check. -/
  | crossingStart (t : TileIx) (q : QueueIx) (err : Option (Fin 64))
  /-- R255: A frame's last beat has crossed into staging and its reference ends. -/
  | crossingComplete (t : TileIx) (q : QueueIx) (err : Option (Fin 64))
  /-- R301: The transmit stage chooses the next frame among candidate classes and starts it. -/
  | txDecision (p : PortIx)
  /-- R335: A frame's last byte leaves the MAC, feeding residence, histograms, Zenith taps and TX completions. Operands: the idle blocks sent since the frame before (R42). -/
  | txFrameEnd (p : PortIx) (idle : Nat)
  /-- R274: After QUANTA/2 quanta in XOFF the pause or PFC frame is sent again. -/
  | pauseResendTimer (p : PortIx)
  /-- R275: A received pause or PFC frame pauses the named egress classes. -/
  | pauseFrameReceive (p : PortIx) (bytes : List Byte) (good : Bool)
  /-- R275: A class's pause time counts down to 0 and it resumes. -/
  | pauseTimerExpire (p : PortIx) (c : ClassIx)
  /-- R278: A class paused for WD_MS posts EV_PFC_WD and may flush. -/
  | pfcWdExpire (p : PortIx) (c : ClassIx)
  /-- R278: A class unpaused for WD_RESTORE ends the watchdog. -/
  | pfcWdRestore (p : PortIx) (c : ClassIx)
  /-- R265: A frame due to spill is written to its segment when bandwidth and pages allow. -/
  | spillWriteStart (t : TileIx) (q : QueueIx) (limited : Bool)
  /-- R266: A spill write completes and the charge moves to ANV_USED. -/
  | spillWriteComplete (t : TileIx) (q : QueueIx) (retries : Fin 4)
  /-- R263: The tile issues a refill read of the segment's oldest record when allowed. -/
  | refillReadStart (t : TileIx) (q : QueueIx)
  /-- R264: A refilled record becomes a new buffer in the SRAM head. Operands: 0 good, 1 the record's CRC fails after its retries, 2 its page trailer's. -/
  | refillComplete (t : TileIx) (q : QueueIx) (verdict : Fin 3) (retries : Fin 4)
  /-- R261: A group's free-page cache below 1,024 is refilled from its ring. -/
  | freeCacheRefill (g : Fin 8)
  /-- R261: A group's free-page cache above 3,072 is written back to its ring. -/
  | freeCacheWriteback (g : Fin 8)
  /-- R269: ANVIL_CTL.EN going to 0 stops new spills. -/
  | anvilEnClear
  /-- R269: ANVIL_CTL.EN going to 1 allows spill again, powering Anvil up if needed. -/
  | anvilEnSet
  /-- R283: A multicast reference held MC_HOLD is granted for ready ports or skipped. Operands: ingress tile and multicast queue. -/
  | mcHoldExpire (t : TileIx) (q : Fin 128)
  /-- R285: A port down for DOWN_HOLD has its queues flushed with DROP_LINK_DOWN. -/
  | downHoldExpire (p : PortIx)
  /-- R290: VOQ_CTL OP 1 reads a queue's state into VOQ_DATA. Operands: value written to VOQ_CTL. -/
  | voqQuery (t : TileIx) (v : Word)
  /-- R287: VOQ_CTL OP 2 takes a queue out of its safe state. Operands: value written to VOQ_CTL. -/
  | voqLeaveSafe (t : TileIx) (v : Word)
  /-- R280: MC_CMD INSERT writes a multicast group slot. Operands: value written to MC_CMD. -/
  | mcInsert (v : Word)
  /-- R280: MC_CMD MODIFY rewrites a multicast group. -/
  | mcModify (v : Word)
  /-- R280: MC_CMD DELETE removes a multicast group. -/
  | mcDelete (v : Word)
  /-- R280: MC_CMD READ returns a group slot of the chosen parity. -/
  | mcRead (v : Word)
  /-- R280: MC_CMD member write sets a multicast member entry at once. -/
  | mcMemberWrite (v : Word)
  /-- R257: A HEADROOM write is ignored if it would exceed the reserved total. Operands: the word of PG_CFG and its value. -/
  | pgCfgWrite (p : PortIx) (pri : ClassIx) (w : Fin 4) (v : Word)
  /-- R257: A MODE or LOSSLESS write is ignored if it would exceed the reserved total. -/
  | pfcCfgWrite (p : PortIx) (v : Word)
  /-- R319: A gate list entry boundary changes the gate states. -/
  | gateEdge (p : PortIx)
  /-- R324: SWAP requests a list swap, immediate when GATE_EN is 0. -/
  | gateSwapRequest (p : PortIx)
  /-- R318: GATE_EN going to 1 opens every gate until the first firing. -/
  | gateEnable (p : PortIx)
  /-- R324: GATE_EN going to 0 opens every gate at once. -/
  | gateDisable (p : PortIx)
  /-- R313: A shaper register write fills the bucket between decisions. Operands: class 0 to 7 or 8 for the port; CIR, PIR, CBS, PBS. -/
  | shaperWrite (p : PortIx) (k : Fin 9) (r : Fin 4) (v : Word)
  /-- R327: At each aligned instant Nimbus samples depth and head sojourn of every class. -/
  | sampleInstant (t : TileIx)
  /-- R343: The egress tile's residence report updates PEAK_RES if the generation matches. Operands: the oldest report on its way to the tile. -/
  | residenceReport (t : TileIx)
  /-- R344: The flow scanner exports idle or active-timeout entries. Operands: the entry, four times its set plus its way. -/
  | flowScanVisit (t : TileIx) (k : Fin 65536)
  /-- R344: FLOW_CMD FLUSH starts exporting every valid flow entry. -/
  | flowFlush
  /-- R344: The flush finishes and EV_FLOW_FLUSHED is posted. -/
  | flowFlushDone
  /-- R340: HIST_CMD CLEAR zeroes the histograms and WRAP words. -/
  | histClear
  /-- R358: STAT_CMD GO clears a statistics counter pair and its sticky bits. Operands: INDEX, TILE and ALL_TILES. -/
  | statClear (ix : Fin 8192) (t : TileIx) (all : Bool)
  /-- R358: A performance counter configuration write takes effect at cycle end, clearing if asked. Operands: the writing function, the counter and the value. -/
  | pcCfgWrite (f : FnIx) (t : TileIx) (k : Fin 2048) (v : Word)
  /-- R361: A GRP_CTL write sets OWNER by PF0 or USER_EN by the owner. -/
  | grpCtlWrite (f : FnIx) (g : Fin 256) (v : Word)
  /-- R366: A FLOW_SEED write takes effect only when every flow cache is empty. -/
  | flowSeedWrite (v : Word)
  /-- R362: A BAR4 write completes normally, is discarded and counted. Operands: the function whose BAR4 is written. -/
  | bar4Write (f : FnIx) (off : Nat) (v : DWord)
  /-- R382: RING_CTL EN 1 checks the ring's configuration and makes it ACTIVE or ERROR. Operands: value written to RING_CTL with EN at 1. -/
  | ringEnable (r : RingIx) (v : Word)
  /-- R385: A doorbell write sets the ring tail or puts the ring in ERROR. Operands: the writing function and the value. -/
  | doorbellWrite (f : FnIx) (r : RingIx) (v : Word)
  /-- R389: An INVALIDATE write discards unstarted prefetched entries and records FIRST_FRESH. -/
  | invalidate (f : FnIx) (r : RingIx) (v : Word)
  /-- R389: The invalidate completes and DONE sets. -/
  | invalidateDone (r : RingIx)
  /-- R388: The device fetches posted entries after a doorbell. Operands: the entries host memory returns, or a host read error. -/
  | descriptorFetch (r : RingIx) (entries : List (List Byte)) (ok : Bool)
  /-- R388: The device starts the next fetched entry once a hold slot or channel is free. Operands: for a table command, the bytes at its DATA_ADDR. -/
  | descriptorStart (r : RingIx) (data : List Byte)
  /-- R393: A TX buffer has been read and the frame is injected or linked. Operands: the buffer host memory returns, or a host read error. -/
  | txBufferReadDone (r : RingIx) (data : List Byte) (ok : Bool)
  /-- R400: A held completion is written to its completion ring when an entry is free. -/
  | completionWrite (c : RingIx)
  /-- R396: A held event is written to its event ring. -/
  | eventWrite (r : RingIx)
  /-- R395: Queued telemetry records are packed into the current capture buffer. -/
  | telemRecordWrite (r : RingIx)
  /-- R395: A capture buffer closes when full or TELEM_TMO after its first record. -/
  | telemBufferClose (r : RingIx)
  /-- R403: An FLR of a function disables its rings, stops its channels and clears its freeze. -/
  | functionLevelReset (f : FnIx)
  /-- R403: The function-level reset's effects complete. -/
  | flrComplete (f : FnIx)
  /-- R405: MOD_US after an unsignalled flip the ring's vector is sent. -/
  | msixModerationExpire (r : RingIx)
  /-- R414: CH_CTL START runs a channel's program from CH_PROG. -/
  | dmaStart (n : ChIx)
  /-- R414: PAUSE stops issuing reads and moves toward PAUSED. -/
  | dmaPause (n : ChIx)
  /-- R414: Issued reads drain and the channel is PAUSED with exact state. -/
  | dmaPauseDrained (n : ChIx)
  /-- R414: RESUME continues a paused or faulted channel. -/
  | dmaResume (n : ChIx)
  /-- R414: ABORT returns a paused or faulted channel to IDLE. -/
  | dmaAbort (n : ChIx)
  /-- R408: A MOVE instruction copies LEN bytes with memmove semantics. Operands: the 32 bytes of the instruction as host memory returns them. -/
  | dmaMove (n : ChIx) (ins : List Byte)
  /-- R409: A LOOP instruction steps pointers and jumps back or exits. -/
  | dmaLoop (n : ChIx) (ins : List Byte)
  /-- R410: A WAIT instruction samples its request line. -/
  | dmaWait (n : ChIx) (ins : List Byte)
  /-- R410: A waiting channel's line reaches the state asked and the channel runs. -/
  | dmaWaitSatisfied (n : ChIx)
  /-- R415: A WAIT reaches its timeout and the channel faults. -/
  | dmaWaitTimeout (n : ChIx)
  /-- R411: A SIGNAL writes its value after all earlier writes. -/
  | dmaSignal (n : ChIx) (ins : List Byte)
  /-- R412: END pulses the channel line and its target after all writes complete. -/
  | dmaEnd (n : ChIx) (ins : List Byte)
  /-- R415: A reserved opcode faults the channel. -/
  | dmaIllegalOpcode (n : ChIx) (ins : List Byte)
  /-- R413: A beat slot serves the lowest-numbered channel with a beat ready. -/
  | dmaBeat
  /-- R415: A channel's read completion returns data or an error that faults it. -/
  | dmaReadCompletion (n : ChIx) (data : List Byte) (ok : Bool)
  /-- R423: A DMA_SWREQ write sets request lines 56 to 63 for channel owners. -/
  | dmaSwreqWrite (f : FnIx) (v : Word)
  /-- R426: At each CLK_TICK edge INCR is added to the PTP clock, or a pending step applied. -/
  | clockTick
  /-- R428: ADJ_CMD SET requests the clock be loaded from ADJ fields. -/
  | adjSet
  /-- R428: ADJ_CMD ADD requests the signed offset be added to the clock. -/
  | adjAdd
  /-- R431: A read of NOW_FRAC latches the clock's other fields from one edge. Operands: the reading function. -/
  | nowRead (f : FnIx)
  /-- R437: TRIG_CTL ARM 1 latches MODE, START and PERIOD and arms the trigger. -/
  | triggerArm (k : TrigIx) (mode : Fin 4)
  /-- R437: TRIG_CTL ARM 0 disarms the trigger at cycle end. -/
  | triggerDisarm (k : TrigIx)
  /-- R436: A trigger fires at a firing time and every consumer acts on that edge. -/
  | triggerFire (k : TrigIx)
  /-- R440: PPS_OUT falls after WIDTH_US. -/
  | ppsPulseEnd
  /-- R441: An edge on a capture input is stamped into the FIFO or lost. Operands: the edge's direction, whether it is on PPS_IN, and its distance from the last CLK_TICK edge in 0.25 ns. -/
  | captureEdge (k : Fin 4) (rising : Bool) (pps : Bool) (quarter : Fin 16)
  /-- R441: A read of CAP_FRAC pops the oldest stamp and latches its fields. -/
  | capturePop (f : FnIx) (k : Fin 4)
  /-- R455: At each control window end the controller predicts power and picks the target operating point. Operands: what the window measured: VIN_F in mV, input current in mA, P in W, input energy in microjoules. -/
  | powerWindowEnd (vin : Fin 65536) (iin : Fin 65536) (p : Fin 4096) (uj : Nat)
  /-- R456: The regulator reports the raised voltage and the settle time starts. -/
  | voltageReached
  /-- R456: After 10 µs settle the clock ratio rises and CUR_OP updates. -/
  | settleDone
  /-- R456: The voltage reaches the slower point's level and TRANSITION clears. -/
  | voltageLowered
  /-- R460: Input current above 44 A forces the clock to OP7 and starts the hold. -/
  | currentLimitCrossing (peak : Fin 65536)
  /-- R460: Current still above 44 A after 500 µs forces Horizon mode. -/
  | currentLimitStage2
  /-- R460: The 100 ms limiter hold ends. -/
  | limitHoldExpire
  /-- R457: 100 ms after step 7 step-ups are allowed and STARTUP clears. -/
  | startupHoldExpire
  /-- R459: The grace period ends with the cap unmet and UNMET_ACT acts. -/
  | capGraceExpire
  /-- R463: The 100 µs sensor read updates bands, throttling and critical state. Operands: the sensor and its two's complement reading in degrees Celsius. -/
  | sensorRead (sensor : Fin 73) (deg : Fin 256)
  /-- R463: A comparator at 112 °C for 10 µs forces OP7 and reports a trip. -/
  | thermalTrip (sensor : Fin 73)
  /-- R465: The triggered conversion latches its result and SEQ rises. -/
  | socConversionDone (vin : Fin 65536) (iin : Fin 65536)
  /-- R458: Anvil retrains and rebuilds its rings and READY returns. -/
  | anvilPowerUpDone
  /-- R487: Once a minute the powered-time count is written to the NVS. Operands: whether the record written has a good CRC. -/
  | poweredMinute (good : Bool)
  /-- R471: VIN valid for 2 ms starts Dawn at step 1. -/
  | vinValid
  /-- R471: VIN out of range for 10 µs squelches lanes and turns off rails. -/
  | vinInvalid
  /-- R571: The input capacitance finishes charging. -/
  | inrushDone
  /-- R472: RESET_BTN_N low for 20 ms counts as a press. -/
  | buttonPress
  /-- R472: A press held 5 s sets HZ_REQ. -/
  | buttonHold
  /-- R472: Release of a counted press starts a chip reset. -/
  | buttonRelease
  /-- R470: A missed service-core watchdog for 2 s starts a chip reset. -/
  | watchdogExpire
  /-- R474: RESET_CTL CMD 1 with KEY 0xA5 requests a chip reset. Operands: the writing function and KEY. -/
  | chipResetRequest (f : FnIx) (key : BitVec 8)
  /-- R474: RESET_CTL CMD 2 with KEY 0xA5 requests a chip reset into Horizon mode. -/
  | horizonResetRequest (f : FnIx) (key : BitVec 8)
  /-- R475: A chip reset squelches lanes, drops the link, discards volatile state and restarts Dawn at step 3. -/
  | chipReset
  /-- R473: PERST_N resets only the PCI Express interface. -/
  | perstAssert
  /-- R483: PERST_N release lets the functions answer configuration requests. -/
  | perstRelease
  /-- R477: Standby rails, REFCLK and the root PLL are ready and Dawn step 2 starts the host interface. -/
  | dawnStandbyReady
  /-- R481: Bennidan finishes checking boot slots and selects one or ROM firmware. -/
  | bootSlotCheck
  /-- R477: The service core starts from checked or ROM firmware and the watchdog arms. -/
  | serviceCoreStart
  /-- R477: BIST of the always-needed blocks finishes. Operands: the blocks that fail: 0 service core, 1 Bennidan, 2 Squall, 3 host ring engine, 4 DMA, 5 time unit, 6 power controller. -/
  | dawnBistDone (failed : Fin 128)
  /-- R477: Chiplet rails are up and lane circuits calibrated. Operands: the lanes that fail. -/
  | chipletCalibrated (bad : List LaneIx)
  /-- R477: Core rails, tile BIST, base image, defaults and Anvil training finish. Operands: VIN_F in mV, and the units that fail by class, tile and number. -/
  | coreBringupDone (vin : Fin 65536) (bad : List (Fin 11 × TileIx × Fin 65536))
  /-- R477: READY sets and DAWN_MS is latched. Operands: milliseconds from t0. -/
  | dawnReady (ms : Fin 65536)
  /-- R501: FLASH_CTL OP 1 reads 256 bytes into FLASH_DATA. -/
  | flashRead
  /-- R482: FLASH_CTL OP 2 programs a page, refused on the booted slot. -/
  | flashProgram
  /-- R482: FLASH_CTL OP 3 erases a sector, refused on the booted slot. -/
  | flashErase
  /-- R501: The flash operation ends and RESULT is set. Operands: whether the flash part reports no error. -/
  | flashOpDone (ok : Bool)
  /-- R509: A unit detects a fault, enters its safe state and sends a fault message. Operands: source code, kind and ADDR of the message. -/
  | faultDetect (src : Fin 4096) (kind : Fin 256) (addr : BitVec 48)
  /-- R506: Squall accepts a message, gives it SEQ and sets PEND. -/
  | squallAccept
  /-- R507: FIRST_CTL REARM clears FIRST_VALID and OVERFLOW. -/
  | firstRearm
  /-- R510: The tile's threads and crossings have drained and pre-commit threads are abandoned. -/
  | blockResetDrained (t : TileIx)
  /-- R510: The tile's logic is reset and parsing and dispatch resume. -/
  | blockResetDone (t : TileIx)
  /-- R512: A privileged source's block reset finishes. Operands: the source's place in REACT_CFG, and whether Bennidan's self-test passes. -/
  | privBlockResetDone (ix : Fin 6) (ok : Bool)
  /-- R516: A reaction's mask set ends 10 µs after its window. -/
  | maskSetExpire
  /-- R515: The root PLL locks again and a waiting Dawn continues. -/
  | rootPllRelock
  /-- R522: BIST_CTL RUN_PLAN walks every unit of the chosen classes in slices. Operands: value written to BIST_CTL. -/
  | bistRunPlan (v : Word)
  /-- R522: BIST_CTL RUN_ONE tests one named unit. -/
  | bistRunOne (v : Word)
  /-- R521: BIST_CTL STOP ends the running slices with ABORTED. -/
  | bistStop (v : Word)
  /-- R522: A domain starts its next slice after GAP_MS or on a trigger firing. Operands: the domain: 0 to 15 tiles, 16 Anvil, 17 to 24 chiplets. -/
  | bistSliceStart (d : Fin 25)
  /-- R519: A slice finishes its test and restores the unit with a result. Operands: whether it passes, the failing cell, word or page in the unit, and the words of a CSTORE unit whose
  single-bit errors it corrected. -/
  | bistSliceEnd (d : Fin 25) (ok : Bool) (loc : Nat) (fixed : List (Fin 1024))
  /-- R521: A slice still testing near 2 ms is stopped with TIMEOUT. -/
  | bistSliceTimeout (d : Fin 25)
  /-- R546: QUOTE samples the measurements and signs an attestation quote. -/
  | bnQuote
  /-- R544: EXTEND folds IN_BUF data into CFG_PCR. -/
  | bnExtend
  /-- R541: ENROLL checks and fuses a new owner key. -/
  | bnEnroll
  /-- R542: ARB raises an anti-rollback counter through the journal. -/
  | bnArb
  /-- R546: CERT returns the device identity certificate. -/
  | bnCert
  /-- R547: ZCERT returns Zenith's key certificate. -/
  | bnZcert
  /-- R558: ZCMD passes a command buffer to Zenith's verifier. -/
  | bnZcmd
  /-- R547: A Bennidan command completes with RESULT and output. -/
  | bnCommandDone
  /-- R550: Zenith receives a tap transmission of running totals and adds the differences. Operands: the chiplet whose front end sends, whether the CRC is good, and the ZCLK cycles since Zenith's last event. -/
  | zenTapTotals (c : Fin 8) (ok : Bool) (zclk : Nat)
  /-- R552: An interval edge closes the interval and applies pending commands. Operand: the ZCLK cycles since Zenith's last event. -/
  | zenEdge (zclk : Nat)
  /-- R552: No edge for MAX_S seconds closes the interval on Zenith's clock. Operand: the ZCLK cycles since Zenith's last event. -/
  | zenEdgeTimeout (zclk : Nat)
  /-- R555: The commit word is written and the signed record is complete. -/
  | zenRecordCommit
  /-- R558: Zenith verifies a command buffer and applies or refuses it. -/
  | zenCommand
  /-- R556: A tamper event appends a TAMPER record and drives ZSEAL low. Operands: the cause of R556; 0 is no event. -/
  | zenTamper (cause : Fin 6)
  /-- R556: Zenith powers up, self-tests and resumes from its checkpoint. Operands: whether the self-test passes. -/
  | zvddPowerUp (ok : Bool)
  /-- R559: A committed record is written to PF3's capture ring. -/
  | zenRecordDeliver
  /-- R555: ZVDD goes away, so Zenith stops counting, an append before its commit word is left absent, ZSEAL falls and the mirror reads 0. -/
  | zvddLoss
  /-- R57: At rates other than 425 Gb/s the IEEE 802.3 PCS loses block lock or alignment on a lane of an UP port, and the port goes down with DOWN_CAUSE 2. -/
  | lossOfLock (l : LaneIx)
  /-- R55: While a port is UP and not frozen or in receive electrical idle, the receiver moves one CTLE or DFE tap by one step, at most once per 2^20 UI. -/
  | adaptationUpdate (l : LaneIx) (tap : Fin 25) (up : Bool)
  deriving DecidableEq, Repr

end Sys2Proof
end

