-- ==== Sys2Proof/Decode.lean ====
section
/-!
DEFINITION. The command that a word of the table's bits spells. The table of this block gives no row any bits: its commands are events
and register accesses, so no word spells one.
-/

namespace Sys2Proof

/-- The command a word spells: none. -/
def decodeTableWord (_nbits _w : Nat) : Option Instr := none

end Sys2Proof
end

