-- ==== Sys2Proof/Config.lean ====
section
/-!
DEFINITION. What one part or one implementation fixes, and the free values: constants with no body, of which nothing can be
proved but what holds for every value. Each is named in a row of notes/assumptions.
-/

namespace Sys2Proof.Config

/-- A value the spec leaves undefined or does not state: the `n`-th one the model draws (`State.free` counts them). [log: DESIGN CHOICE 8] -/
opaque freeValue : Nat → BitVec 64

/-- Byte `k` of the SHAKE256 output for a byte string (FIPS 202, R537). The spec takes the function from the standard. [log: PRESUMED 9] -/
opaque shakeByte : List Byte → Nat → Byte

/-- The first `n` bytes of the SHAKE256 output. [log: PRESUMED 9] -/
def shake256 (m : List Byte) (n : Nat) : List Byte := (List.range n).map (shakeByte m)

/-- Falcon-1024 verification (R538): key, signed bytes and signature. [log: PRESUMED 9] -/
opaque falconVerify : List Byte → List Byte → List Byte → Bool

/-- Falcon-1024 signing with a key the device keeps (0 Bennidan's device key, 1 Zenith's key). [log: PRESUMED 9] -/
opaque falconSign : Nat → List Byte → List Byte

/-- The fused voltage table of R452: millivolts before the margin, by ageing column, band and operating point. [log: DESIGN CHOICE 10] -/
opaque vtab : Nat → Nat → Nat → BitVec 12

/-- AGE_MILESTONE of R454, in hours, fused at test; column 0 starts at 0 (R466). [log: DESIGN CHOICE 10] -/
opaque ageMilestone : Nat → BitVec 32

/-- P_LEAK of R455 by temperature band, fused at test. [log: DESIGN CHOICE 10] -/
opaque pLeak : Nat → BitVec 11

/-- The words of the base image's state table (0) and parser TCAM (1), which the spec leaves to the image (R99, R107).
[log: DESIGN CHOICE 11] -/
opaque baseWord : Nat → Nat → BitVec 32

/-- The state numbers of the base graph's headers but the first, by the model's own numbering of them: the spec leaves them to the base image (R99,
R106). [log: DESIGN CHOICE 11] -/
opaque baseState : Nat → BitVec 8

/-- The bank of a memory (0 exact match, 1 LPM, 2 TCAM, 3 ECMP) that holds a word, by its index: the spec gives the banks' number but not what each
holds (R198, R203). [log: DESIGN CHOICE 204] -/
opaque bankOf : Nat → Nat → Nat

/-- What a cell header holds in NEXT (0) and FRAME_LEN (1) while the frame's next cell or its end has not come, by cell (R248).
[log: DESIGN CHOICE 207] -/
opaque hdrOpen : Nat → Nat → BitVec 16

/-- Bytes that the spec states no value for: of a header field past the parse window or the data end (0), and of a PHV operand, key span or
effect argument past byte 511 (1), by place. [log: DESIGN CHOICE 17] -/
opaque pastByte : Nat → Nat → Byte

/-- GRAPH_ID of the base graph (R135), and the entry words the base image gives its packet types (R115). [log: DESIGN CHOICE 11] -/
opaque graphId : BitVec 16
opaque baseEntryAddr : Nat → BitVec 15

/-- The ROM image that tile 0's control store holds in Horizon mode: control-store words, marks, dispatch entries, key profiles, IMAGE_ID,
SVN and digest (R177, R179, R185). [log: DESIGN CHOICE 12] -/
opaque bootWord : Nat → BitVec 576
opaque bootEntry : Nat → Bool
opaque bootCallable : Nat → Bool
opaque bootDtab : Nat → BitVec 16
opaque bootKprof : Nat → BitVec 128
opaque bootImageId : BitVec 32
opaque bootSvn : BitVec 8
opaque bootDigest : List Byte

/-- The public keys of Dereagor's four slots, the device identity key, Zenith's key, and the certificates over the last two (R536, R546,
R548). [log: DESIGN CHOICE 13] -/
opaque dereagorKey : Nat → List Byte
opaque devKey : List Byte
opaque zenKey : List Byte
opaque devCert : List Byte
opaque zenCert : List Byte
opaque zenRomVer : BitVec 32

/-- The boot flash as the board delivers it, by address (R479). [log: DESIGN CHOICE 14] -/
opaque flashByte : Nat → Byte

/-- The Dereagor slots whose revocation a boot image requests (R539), and its board configuration block (R543), whose places in the image
the spec does not give; an empty image stands for the ROM firmware. [log: DESIGN CHOICE 14] -/
opaque revokes : List Byte → BitVec 4
opaque boardConfig : List Byte → List Byte

/-- What the ROM firmware's measurement is taken over (R543). [log: DESIGN CHOICE 14] -/
opaque romFirmware : List Byte

/-- The routine code with which the ROM image drops a frame whose source cannot be learned (R235, R491), which the spec does not give.
[log: DESIGN CHOICE 15] -/
opaque learnDropCode : BitVec 8

/-- The source address and QUANTA of pause frames in Horizon mode, which R493 does not give. [log: DESIGN CHOICE 16] -/
opaque horizonMac : BitVec 48
opaque horizonQuanta : BitVec 16

/-- The temperature that the GDDR7 device of a trained channel reads out at a CLK_TICK count (R260, R294). [log: DESIGN CHOICE 209] -/
opaque gddrTemp : Nat → Nat → BitVec 8

end Sys2Proof.Config
end

