-- ==== Sys2Proof/Machine/Tables.lean ====
section
/-!
DEFINITION. Operations on sparse tables (`Tab`) and on bit fields. A table stays in its one canonical form: keys strictly
rising and no entry equal to what an unlisted key reads as, so that equal contents are equal data.
-/

namespace Sys2Proof.Machine

/-- What key `k` holds; `d` is what an unlisted key reads as. [log: DESIGN CHOICE 1] -/
def tget {α : Type} (t : Tab α) (k : Nat) (d : α) : α :=
  match t with
  | [] => d
  | (k', v) :: r => if k' = k then v else tget r k d

/-- The table without key `k`. [log: DESIGN CHOICE 1] -/
def tdel {α : Type} (t : Tab α) (k : Nat) : Tab α :=
  match t with
  | [] => []
  | (k', v) :: r => if k' = k then tdel r k else (k', v) :: tdel r k

/-- The table with `v` listed at key `k`, in the order of the keys. -/
def tput {α : Type} (t : Tab α) (k : Nat) (v : α) : Tab α :=
  match t with
  | [] => [(k, v)]
  | (k', v') :: r =>
    if k < k' then (k, v) :: (k', v') :: r
    else if k' = k then (k, v) :: r
    else (k', v') :: tput r k v

/-- The table with `v` at key `k`; writing what an unlisted key reads as removes the entry. [log: DESIGN CHOICE 1] -/
def tset {α : Type} [DecidableEq α] (t : Tab α) (k : Nat) (d v : α) : Tab α :=
  if v = d then tdel t k else tput t k v

/-- The keys of a table rise strictly and lie above `lo`. -/
def tsorted {α : Type} (lo : Nat) (t : Tab α) : Bool :=
  match t with
  | [] => true
  | (k, _) :: r => decide (lo ≤ k) && tsorted (k + 1) r

/-- The canonical form: keys strictly rising, no entry equal to its default. [log: DESIGN CHOICE 1] -/
def twf {α : Type} [DecidableEq α] (d : Nat → α) (t : Tab α) : Bool :=
  tsorted 0 t && t.all (fun e => decide (e.2 ≠ d e.1))

/-- Bits `hi` down to `lo` of `v`. -/
def bits (v hi lo : Nat) : Nat := (v >>> lo) % 2 ^ (hi + 1 - lo)

/-- `v` with its bits `hi` down to `lo` replaced by those of `x`. -/
def setBits (v hi lo x : Nat) : Nat :=
  v - (bits v hi lo) <<< lo + (x % 2 ^ (hi + 1 - lo)) <<< lo

/-- A flag as a number. -/
def b2n (b : Bool) : Nat := if b then 1 else 0

/-- Bit `k` of `v`. -/
def bitAt (v k : Nat) : Bool := v.testBit k

/-- The number of little-endian bytes (R10). -/
def leNat (bs : List Byte) : Nat :=
  match bs with
  | [] => 0
  | b :: r => b.toNat + 256 * leNat r

/-- The number of big-endian (network order) bytes (R10). -/
def beNat (bs : List Byte) : Nat := leNat bs.reverse

/-- `n` little-endian bytes of `v`. -/
def leBytes (n v : Nat) : List Byte :=
  match n with
  | 0 => []
  | n + 1 => BitVec.ofNat 8 v :: leBytes n (v / 256)

/-- `n` big-endian bytes of `v`. -/
def beBytes (n v : Nat) : List Byte := (leBytes n v).reverse

/-- Bytes `off` to `off + n - 1`, zero beyond the end. -/
def bytesAt (bs : List Byte) (off n : Nat) : List Byte :=
  let r := (bs.drop off).take n
  r ++ List.replicate (n - r.length) 0

/-- `bs` with `v` written from byte `off` on; bytes past the end of `bs` are not written. -/
def bytesPut (bs : List Byte) (off : Nat) (v : List Byte) : List Byte :=
  bs.take off ++ (v.take (bs.length - off)) ++ bs.drop (off + v.length)

/-- A number of `w` bits read as two's complement. -/
def toSigned (w v : Nat) : Int := if v % 2 ^ w < 2 ^ (w - 1) then (v % 2 ^ w : Nat) else (v % 2 ^ w : Nat) - (2 ^ w : Nat)

/-- Division rounded up. -/
def ceilDiv (a b : Nat) : Nat := (a + b - 1) / b

/-- The element at place `i`, or `d`. -/
def nth {α : Type} (l : List α) (i : Nat) (d : α) : α := l.getD i d

/-- The list with place `i` replaced. -/
def putNth {α : Type} (l : List α) (i : Nat) (v : α) : List α := l.set i v

/-- `f` applied for `0` to `n - 1` in turn. -/
def forN {α : Type} (n : Nat) (f : Nat → α → α) (a : α) : α := (List.range n).foldl (fun x k => f k x) a

/-- Two's complement of an integer in `w` bits. -/
def ofSigned (w : Nat) (z : Int) : Nat := (z % (2 ^ w : Nat)).toNat

end Sys2Proof.Machine
end

