-- ==== Sys2Proof/Machine/Crc.lean ====
section
/-!
DEFINITION. The two checksums of R125 and the inner code of the 425 Gb/s lane mode (R41, R43), bit by bit as the spec gives them.
-/

namespace Sys2Proof.Machine

/-- One bit of CRC-32C in its reflected form: polynomial 0x1EDC_6F41 read from the least significant bit. -/
def crc32cBit (c : BitVec 32) : BitVec 32 :=
  if c.getLsbD 0 then (c >>> 1) ^^^ 0x82F63B78#32 else c >>> 1

/-- One byte of CRC-32C. -/
def crc32cByte (c : BitVec 32) (b : Byte) : BitVec 32 :=
  (List.range 8).foldl (fun c _ => crc32cBit c) (c ^^^ b.setWidth 32)

/-- CRC-32C of R125: initial value and final XOR 0xFFFF_FFFF, input and output reflected. -/
def crc32c (bs : List Byte) : BitVec 32 := bs.foldl crc32cByte 0xFFFFFFFF#32 ^^^ 0xFFFFFFFF#32

/-- One bit of CRC-16-CCITT: polynomial 0x1021, not reflected. -/
def crc16Bit (c : BitVec 16) : BitVec 16 :=
  if c.getLsbD 15 then (c <<< 1) ^^^ 0x1021#16 else c <<< 1

/-- One byte of CRC-16-CCITT. -/
def crc16Byte (c : BitVec 16) (b : Byte) : BitVec 16 :=
  (List.range 8).foldl (fun c _ => crc16Bit c) (c ^^^ (b.setWidth 16 <<< 8))

/-- CRC-16-CCITT of R125: initial value 0xFFFF, no final XOR. -/
def crc16 (bs : List Byte) : BitVec 16 := bs.foldl crc16Byte 0xFFFF#16

/-- One bit of the frame check sequence of IEEE 802.3 in its reflected form. -/
def fcsBit (c : BitVec 32) : BitVec 32 :=
  if c.getLsbD 0 then (c >>> 1) ^^^ 0xEDB88320#32 else c >>> 1

/-- The frame check sequence of IEEE 802.3 over the bytes from the destination address on. -/
def fcs (bs : List Byte) : BitVec 32 :=
  bs.foldl (fun c b => (List.range 8).foldl (fun c _ => fcsBit c) (c ^^^ b.setWidth 32)) 0xFFFFFFFF#32 ^^^ 0xFFFFFFFF#32

/-- The Gray map of R43 from G = 2s + f to T. -/
def grayMap (g : Nat) : Nat :=
  match g with
  | 0 => 0
  | 1 => 1
  | 3 => 2
  | _ => 3

/-- The inverse of the Gray map. -/
def grayInv (t : Nat) : Nat :=
  match t with
  | 0 => 0
  | 1 => 1
  | 2 => 3
  | _ => 2

/-- The inner code encoder of R43 over bit pairs G, from state `p`: P(j) = (T(j) − P(j − 1)) mod 4. -/
def innerEncode (p : Nat) (gs : List Nat) : List Nat :=
  match gs with
  | [] => []
  | g :: r => let q := (grayMap g + 4 - p % 4) % 4
    q :: innerEncode q r

/-- The inverse of R43: T(j) = (P(j) + P(j − 1)) mod 4. -/
def innerDecode (p : Nat) (ps : List Nat) : List Nat :=
  match ps with
  | [] => []
  | q :: r => grayInv ((q + p) % 4) :: innerDecode q r

/-- The bits of the marker message of R41 below FILL, as one number of 88 bits. -/
def markerHead (laneIdx width ei wake seq : Nat) : Nat :=
  0x3A5F0C96E17B42D8 + laneIdx % 8 * 2 ^ 64 + width % 4 * 2 ^ 67 + ei % 2 * 2 ^ 69 + wake % 2 * 2 ^ 70 + seq % 65536 * 2 ^ 72

/-- The number of bits in which a received pattern differs from MARK_PATTERN (R45). -/
def markDiff (pattern : Nat) : Nat :=
  (List.range 64).foldl (fun n k => if bitAt pattern k = bitAt 0x3A5F0C96E17B42D8 k then n else n + 1) 0

/-- The transmitter presets of R52, as TX_FFE shows them (R85): c(−2), c(−1), c(0) and c(1) in 1/64 units. -/
def presetFfe (n : Nat) : BitVec 32 :=
  let w (a b c d : Int) : BitVec 32 := BitVec.ofNat 32
    (ofSigned 7 a + ofSigned 7 b * 2 ^ 8 + ofSigned 7 c * 2 ^ 16 + ofSigned 7 d * 2 ^ 24)
  match n with
  | 2 => w 0 (-4) 56 (-4)
  | 3 => w 0 (-8) 52 (-4)
  | 4 => w 2 (-10) 50 (-2)
  | 5 => w 2 (-12) 46 (-4)
  | 6 => w 3 (-14) 43 (-4)
  | 7 => w 4 (-16) 40 (-4)
  | _ => w 0 0 64 0

end Sys2Proof.Machine
end

