-- ==== Sys2Proof/Machine/State.lean ====
section
/-!
DEFINITION. The state of the FG512X-C4: every register of BAR0 in two files, and the state the chapters name that no register
shows, one structure for each chapter. Plain data throughout. `State.reset` is the device when VIN has just become valid and
the status page reads for the first time (R485, R498).
-/

namespace Sys2Proof.Machine

/-- Why a command ends in a fault. The spec gives every command of its table an effect, so no meaning raises one: the type is
empty of reasons but for the form (safe). -/
inductive Fault where
  /-- Raised by no meaning: the block has no stop of its own (R5 keeps it going). Safe. -/
  | none
  deriving DecidableEq, Repr

/-- Why a command is refused. -/
inductive Refusal where
  /-- Raised by the arms of `exec` whose command has no meaning yet. Safe: nothing is claimed of the command. -/
  | notModelled (mnemonic : String)
  deriving DecidableEq, Repr

/-! ## Host interface and rings (09) -/

/-- A completion's slot in the hold buffer of its source ring (R400): the entry it belongs to and, once known, its outcome. -/
structure Slot where
  /-- Position of the source entry (R384). -/
  pos : Nat
  /-- A TX entry's buffer has been read. -/
  read : Bool := false
  /-- The 32 bytes of the entry as fetched. -/
  desc : List Byte
  /-- STATUS, TX_NS and INFO of R397 once the entry is finished. -/
  res : Option (Nat × Nat × Nat) := Option.none
  deriving DecidableEq, Repr

/-- A completion whose source entry is finished and that waits for its completion ring (R401). -/
structure Compl where
  src : Nat
  pos : Nat
  srcType : Nat
  status : Nat
  tag : Nat
  txNs : Nat
  info : Nat
  deriving DecidableEq, Repr

/-- An event in the hold of an event ring (R396). -/
structure Ev where
  code : Nat
  param : Nat
  timeNs : Nat
  /-- Events for the ring were lost before this one. -/
  lost : Bool := false
  deriving DecidableEq, Repr

/-- A ring beside its registers (R380–R401). [log: DESIGN CHOICE 3] -/
structure RingSt where
  /-- Prefetched copies not started: position and 32 bytes (R388). -/
  fetched : List (Nat × List Byte) := []
  /-- Entries started and not finished, oldest first, with their reserved hold slots (R400). -/
  started : List Slot := []
  /-- For a completion ring: completions ready for it, in the order they became ready (R400, R401). -/
  ready : List Compl := []
  /-- Times the ring has been cleared: completions of an earlier use are discarded (R378, R403). -/
  gen : Nat := 0
  /-- Events held for this event ring, oldest first (R396). -/
  events : List Ev := []
  /-- An event was lost since the last one written (LOST of R396). -/
  evLost : Bool := false
  /-- Sequence number of the next event entry, from 0 at enable (R396). -/
  evSeq : Nat := 0
  /-- Records packed into the open capture buffer: bytes, count and whether a loss is to be marked (R395). -/
  capBytes : Nat := 0
  capRecords : Nat := 0
  capLost : Bool := false
  /-- FIRST_FRESH of the last INVALIDATE and whether it is done (R389, R422). -/
  invPos : Nat := 0
  invBusy : Bool := false
  invDone : Bool := false
  /-- Entries flipped since the last interrupt message (R405). -/
  flips : Nat := 0
  deriving DecidableEq, Repr

/-- The host interface beside its registers (R9, R31, R372–R405). -/
structure HostSt where
  /-- Low words of 64-bit registers held for a writing function, by function and register (R9). -/
  lowHold : Tab (Option Word) := []
  /-- High words latched for a reading function, by function and register (R9, R431). -/
  latch : Tab (Option Word) := []
  /-- The value the last BAR read returned and whether the last request ended with Unsupported Request (R31). -/
  readData : DWord := 0
  unsupported : Bool := false
  rings : Tab RingSt := []
  /-- Host memory as the device has written it, by address. -/
  mem : Tab Byte := []
  /-- Interrupt messages sent, as (function, vector), oldest first (R405, R508, R513). [log: DESIGN CHOICE 182] -/
  msix : List (Nat × Nat) := []
  /-- The PCI Express link is up (R473, R475). -/
  linkUp : Bool := false
  /-- PERST_N asserted (R473). -/
  perst : Bool := false
  /-- What faults of the PCI Express interface have done (R504): how often the link went to Recovery for one, and the Uncorrectable Internal Error
  that Advanced Error Reporting has logged. [log: PRESUMED 210] -/
  recoveries : Nat := 0
  aerInternal : Bool := false
  deriving DecidableEq, Repr

/-! ## DMA (09) -/

/-- An instruction of a DMA program with its fields (R407). -/
inductive DmaOp where
  | move (ssp dsp : Nat) (load sinc dinc : Bool) (len src dst : Nat)
  | loop (level back count srcStep dstStep : Nat)
  | wait (line : Nat) (pol : Bool) (timeout : Nat)
  | signal (space : Nat) (size8 : Bool) (addr value : Nat)
  | endp (target ring dbval : Nat)
  | illegal
  deriving DecidableEq, Repr

/-- A DMA channel beside its registers (R406–R416). [log: DESIGN CHOICE 3] -/
structure DmaCh where
  /-- First instruction and its space, as accepted (R409, R414). -/
  progBase : Nat := 0
  space : Nat := 0
  /-- The instruction in progress: a MOVE under way or the WAIT it sleeps in. -/
  cur : Option DmaOp := Option.none
  /-- BACK of each active loop level (R409). -/
  backs : List Nat := [0, 0, 0, 0]
  /-- The channel's own copy of the pulse lines 0–63 (R410). -/
  lines : BitVec 64 := 0
  /-- Read data buffered, up to 8 KiB (R413). -/
  buf : List Byte := []
  /-- The channel's entry of VIOL_LOG: the kind and the address of its first violation, and how many came later (R379). -/
  viol : Option (Nat × Nat) := Option.none
  violCnt : Nat := 0
  deriving DecidableEq, Repr

structure DmaSt where
  ch : Tab DmaCh := []
  /-- The 4 MiB of local memory (R406). -/
  loc : Tab Byte := []
  deriving DecidableEq, Repr

/-! ## Time (10) -/

/-- A step of the clock that waits for its CLK_TICK edge (R428). -/
inductive ClkStep where
  | set (sec ns frac : Nat)
  | add (off : Nat)
  deriving DecidableEq, Repr

/-- A time trigger as armed (R436, R437): mode, START and PERIOD in ns of SEC × 10⁹ + NS, and the next firing time. -/
structure Trig where
  mode : Nat := 0
  start : Nat := 0
  period : Nat := 0
  next : Nat := 0
  /-- A one-shot that fires late (R437, R438). -/
  late : Bool := false
  deriving DecidableEq, Repr

/-- A stamp of a capture unit (R441). -/
structure Stamp where
  sec : Nat
  ns : Nat
  frac : Nat
  deriving DecidableEq, Repr

structure TimeSt where
  sec : BitVec 48 := 0
  ns : Nat := 0
  frac : BitVec 32 := 0
  /-- CLK_TICK edges since Dawn: elapsed time that no step of the clock changes. -/
  ticks : Nat := 0
  /-- CLK_CORE cycles of the running CLK_TICK cycle that are not whole, in 1/400 (R25, R355). -/
  corePhase : Nat := 0
  /-- Steps requested and not yet taken, oldest first (R428). -/
  steps : List ClkStep := []
  trigs : Tab Trig := []
  fifos : Tab (List Stamp) := []
  /-- The level of PPS_OUT (R440). -/
  pps : Bool := false
  /-- The high time of the pulse under way, in ns (R440). -/
  ppsNs : Nat := 0
  deriving DecidableEq, Repr

/-! ## Lanes, ports and the front panel (02) -/

/-- What a lane's transmitter is given to send (R46, R51, R56, R58–R60, R64). -/
inductive LineSig where
  | off
  /-- Pages of Clause 73. -/
  | pages
  /-- Training frames. -/
  | training
  /-- The port's encoded stream. -/
  | data
  /-- Local-fault ordered sets (R56, SAFE). -/
  | localFault
  /-- The pattern generator's bits. -/
  | pattern
  /-- PRBS31, during near-end parallel loopback (R66). -/
  | prbs31
  /-- The partner's own data, during far-end loopback (R66). -/
  | partner
  deriving DecidableEq, Repr

/-- A block of 64b/66b: a data block, or a control block with its type in the first byte (R38). -/
structure Blk where
  data : Bool
  body : BitVec 64
  deriving DecidableEq, Repr

/-- The transmitter of a lane in the 425 lane format (R39–R43). -/
structure LaneTx where
  /-- Codewords of the interleave block being filled, oldest first. -/
  cws : List (List (BitVec 10)) := []
  /-- Interleave blocks since the last marker message (R41): at 0 the next block begins with one. -/
  pos : Nat := 0
  /-- MARK_SEQ of the next marker. -/
  seq : BitVec 16 := 0
  /-- The next marker carries EI_ANNOUNCE, or WAKE (R58, R59). -/
  ei : Bool := false
  wake : Bool := false
  /-- The bits below FILL of the last marker sent. -/
  marker : Nat := 0
  /-- P of the last UI sent, and the symbols P of the last interleave block (R43). -/
  p : Nat := 0
  out : List Nat := []
  deriving DecidableEq, Repr

/-- The transmit stream of a port in the 425 lane format (R38, R42). -/
structure PortTx where
  /-- The last 58 bits scrambled, the newest lowest. -/
  scr : BitVec 58 := 0
  /-- 66-bit blocks not yet transcoded, fewer than four, and scrambled 257-bit blocks of the message being filled, fewer than 20. -/
  blks : List Blk := []
  msg : List (BitVec 257) := []
  /-- The lane that takes the next message. -/
  next : Nat := 0
  /-- Idle blocks still to delete for the marker messages sent (R42). -/
  debt : Nat := 0
  deriving DecidableEq, Repr

/-- The FEC a port runs (R32, R35). -/
inductive FecKind where
  | off
  | baseR
  | rs528
  | rs544
  /-- RS(544,514) with the 425 inner code. -/
  | inner
  deriving DecidableEq, Repr

/-- A pattern checker (R64): bits received since it seeded itself, newest first, matches in a row, the generator it runs from when
locked, and the errors among the last 64 bits, newest first. -/
structure Checker where
  hist : List Bool := []
  run : Nat := 0
  reg : Nat := 0
  errs : List Bool := []
  deriving DecidableEq, Repr

structure LaneSt where
  /-- What the transmitter is given to send; TX_SQUELCH and LOOP act on the pins (`State.pins`). -/
  line : LineSig := .off
  /-- Where a first marker was found, in codewords of the lane, and misses in a row (R45). -/
  markAt : Option Nat := Option.none
  missed : Nat := 0
  /-- The fields of the last marker, and when it arrived, in tenths of a nanosecond (R45). -/
  laneIdx : Nat := 0
  markSeq : Nat := 0
  markWidth : Nat := 0
  markTime : Nat := 0
  /-- CTLE setting, DFE taps and CDR phase offset as adapted (R53, R55). -/
  ctle : Nat := 0
  taps : List Int := []
  cdr : Nat := 0
  /-- The coefficients agreed for the partner's transmitter, as TX_FFE lays them out (R51, R53). -/
  partnerFfe : Word := 0x00400000
  /-- Precoding granted to the partner, and requested from it (R51). -/
  precodeTx : Bool := false
  precodeRx : Bool := false
  /-- The transmitter in the 425 lane format. -/
  tx : LaneTx := {}
  /-- Codewords and corrected symbols of the running window of 8,192 codewords (R57). -/
  serCws : Nat := 0
  serSyms : Nat := 0
  /-- The pattern generator's register, bits since the last periodic error, errors due in the next bits, errors injected (R64, R65). -/
  gen : Nat := 0
  genBits : Nat := 0
  injDue : Nat := 0
  injected : Nat := 0
  chk : Checker := {}
  /-- An eye-scan point is running (R63). -/
  eyeRun : Bool := false
  /-- The receiver saw EI_ANNOUNCE (R58). -/
  announced : Bool := false
  /-- The transmit PLL of the lane's group, kept at the group's lane 8g, has lost lock (R27, R504). [log: DESIGN CHOICE 211] -/
  pllLost : Bool := false
  deriving DecidableEq, Repr

structure PortSt where
  /-- Training runs from history (R53). -/
  fromHist : Bool := false
  /-- Waits 1 s after a failed resolution (R48). -/
  anWait : Bool := false
  /-- EV_AN_NO_HCD has been posted for the present partner (R48). -/
  anPosted : Bool := false
  /-- The partner's last base page abilities, by rate code (R46, R48). -/
  base : Nat := 0
  /-- The pages sent: the base page, the OUI-tagged message page and the unformatted page (R46, R47). -/
  pages : List (BitVec 48) := []
  /-- Received fault ordered sets stop transmission: 0 none, 1 local, 2 remote (R57). -/
  faultRx : Nat := 0
  /-- The FEC in use and the PCS lanes bit-multiplexed on each lane, 0 before the first training (R32, R35). -/
  fec : FecKind := .off
  pcsPerLane : Nat := 0
  /-- The transmit stream at 425 Gb/s. -/
  tx : PortTx := {}
  /-- Idle blocks inserted for the marker messages received (R42). -/
  rxIdle : Nat := 0
  /-- Low-power-idle sequences sent on the way to DEEP (R60). -/
  lpiSent : Nat := 0
  /-- CLK_TICK edge at which the last frame of the port ended, plus 1; 0 none (R74). -/
  lastFrame : Nat := 0
  deriving DecidableEq, Repr

structure CageSt where
  debouncing : Bool := false
  /-- Level of CAGE_RST_N and CAGE_LPM (R68, R70). -/
  rstN : Bool := false
  lpm : Bool := false
  /-- The identifier byte read (R70 step 4), advertised applications as (rate code, width code) and maximum power in 0.25 W. -/
  ident : Nat := 0
  apps : List (Nat × Nat) := []
  power : Nat := 0
  /-- The application selected and the lanes of the data paths told to activate, by lane of the cage (R69, R70 step 5). -/
  appSel : List (Nat × Nat) := []
  paths : Nat := 0
  /-- Data paths have been told to activate (R70 step 5). -/
  activating : Bool := false
  deriving DecidableEq, Repr

/-- An access of the device's own to a module (R69, R70, R72): the cage, and what it does. -/
inductive OwnAccess where
  /-- Module state, identifier, applications and power (R70 step 4). -/
  | poll (k : Nat) (ready : Bool) (ident : Nat) (apps : List (Nat × Nat)) (power : Nat)
  /-- Application select and data path control (R70 step 5). -/
  | select (k : Nat)
  /-- The latched flags with their mask bits (R72). -/
  | flags (k : Nat) (fs : List (Bool × Bool))
  deriving DecidableEq, Repr

structure I2cSt where
  /-- The running mailbox access: cage, write, bank, page, offset, length (R73). -/
  cage : Nat := 0
  write : Bool := false
  bank : Nat := 0
  page : Nat := 0
  offset : Nat := 0
  len : Nat := 0
  /-- STOP conditions and bus-recovery clocks sent for cut transactions (R71). -/
  stops : Nat := 0
  /-- The device's own transactions that wait for the mailbox's, oldest first (R73). -/
  own : List OwnAccess := []
  /-- The select bytes written: multiplexer address and byte (R69). -/
  mux : List (Nat × Nat) := []
  deriving DecidableEq, Repr

structure LinkSt where
  lanes : Tab LaneSt := []
  ports : Tab PortSt := []
  cages : Tab CageSt := []
  i2c : Tab I2cSt := []
  /-- Module pages as the mailbox and the device have written them: key ((cage × 2^8 + bank) × 2^8 + page) × 2^8 + offset. -/
  modMem : Tab Byte := []
  /-- The last frame of the LED stream and the pulses of LED_LATCH (R74). -/
  led : BitVec 2048 := 0
  latches : Nat := 0
  deriving DecidableEq, Repr

/-! ## Power (11) -/

structure PowerSt where
  /-- The operating point whose ratio CLK_CORE runs at (R25, R456). -/
  clkOp : Nat := 4
  /-- The faster point a step up moves to, and whether its voltage is reached (R456). -/
  up : Option Nat := Option.none
  settling : Bool := false
  /-- Milliseconds since the last step down, saturating at 100 (R455). -/
  sinceDown : Nat := 100
  /-- The grace period of R459 runs. -/
  grace : Bool := false
  /-- UNMET_ACT 1 has acted and the device stays at OP7 (R459). -/
  unmetStay : Bool := false
  /-- The 112 °C trip holds OP7 (R463). -/
  tripHold : Bool := false
  /-- OP7 is held until every sensor reads VALID, or by the controller's block reset (R512). -/
  resetHold : Bool := false
  /-- Input energy below one millijoule, in microjoules (R464). -/
  energyUj : Nat := 0
  /-- Powered minutes since first power, and the newest NVS records as (sequence, minutes) (R487). -/
  minutes : Nat := 0
  /-- The core rails, chiplet rails and GDDR7 rails are on. -/
  coreOn : Bool := false
  chipletOn : Bool := false
  gddrOn : Bool := false
  deriving DecidableEq, Repr

/-! ## Squall and BIST (13) -/

/-- A fault message (R502). -/
structure Msg where
  source : Nat
  kind : Nat
  sev : Nat
  addr : Nat
  stamp : Nat
  /-- The safe state was already taken by the unit (REACTION 1 of R502). -/
  safe : Bool := false
  /-- The mask set that its own safe state started: it does not tag this message (R516). -/
  own : Option Nat := Option.none
  deriving DecidableEq, Repr

/-- An active mask set (R516): the sources from `lo` to `hi`, of one kind or of every kind, and the reaction it belongs to. -/
structure Mask where
  id : Nat
  lo : Nat
  hi : Nat
  kind : Option Nat := Option.none
  /-- The source whose block reset still runs; 0 when the reaction window is over. -/
  held : Nat := 0
  deriving DecidableEq, Repr

/-- A running BIST slice (R519). -/
structure Slice where
  cls : Nat
  index : Nat
  /-- ROLE that a claimed pipe had. -/
  prior : Nat := 0
  /-- The claim waits: for committed threads of the pipe (R174), or for a copy back (R203). -/
  wait : Bool := false
  deriving DecidableEq, Repr

structure SquallSt where
  /-- Messages on their way, oldest first; at most four of one source (R506). -/
  flight : List Msg := []
  seq : Nat := 0
  /-- The source accepted last, for the round robin (R506). -/
  lastSrc : Nat := 0
  masks : List Mask := []
  maskNext : Nat := 0
  /-- Safe states and TILE_FATALs that count toward retirement: unit class, unit and tick (R526). -/
  acted : List (Nat × Nat × Nat) := []
  /-- Tiles under block reset and whether they have drained (R510). -/
  blockReset : Tab Nat := []
  /-- Tile and pipe that a TILE_FATAL named, plus 1; 0 none. -/
  blockPipe : Tab Nat := []
  /-- Privileged sources under block reset (R512). -/
  privReset : List Nat := []
  /-- The running slice and the units left of the plan, by BIST domain (0–15 tiles, 16 Anvil, 17–24 chiplets). -/
  slices : Tab (Option Slice) := []
  plan : Tab (List Slice) := []
  /-- Repair rows that macros have used since Dawn, by tile, class and macro (R524). -/
  repairs : Tab Nat := []
  deriving DecidableEq, Repr

/-! ## Buffers, queues and Anvil (06) -/

/-- What goes with a frame from arrival to transmission. -/
structure FMeta where
  iport : Nat := 0
  iclass : Nat := 0
  /-- Accounting priority (R249). -/
  ipri : Nat := 0
  /-- ARRIVAL in full: PTP nanoseconds (R112, R394). -/
  arrivalNs : Nat := 0
  seq : Nat := 0
  eport : Nat := 0
  cls : Nat := 0
  mc : Bool := false
  /-- Source TX entry: ring, use of the ring, position (R393), and whether its completion carries a stamp. -/
  tx : Option (Nat × Nat × Nat) := Option.none
  tsReq : Bool := false
  /-- The header vector as its routine left it (R168, R351). -/
  phv : List Byte := []
  /-- Flow cache entry and its generation, for the residence report (R343). -/
  flow : Option (Nat × Nat) := Option.none
  deriving DecidableEq, Repr

/-- A frame in a tile's cell buffer (R247–R256). -/
structure Frame where
  /-- The bytes the tile holds, destination address to FCS, after edits once it is linked. -/
  data : List Byte := []
  /-- Bytes received from the MAC (R272). -/
  rxLen : Nat := 0
  m : FMeta := {}
  /-- The last beat has arrived, with this verdict (R14, R272). -/
  done : Bool := false
  good : Bool := true
  /-- The MAC's receive stamp and verdict are in; the parser has taken it; its result is out. -/
  parsed : Bool := false
  released : Bool := false
  /-- Its cells in order, the first one's descriptor holding the reference count (R255). -/
  cells : List Nat := []
  refs : Nat := 1
  /-- Charged to the refill account instead of its PG (R263). -/
  refilled : Bool := false
  /-- Its crossing has started; forwarded cut-through; stomped (R270, R273). -/
  ct : Bool := false
  bad : Bool := false
  /-- It is in a queue or crossing. -/
  linked : Bool := false
  /-- Dropped, with this code, before its result was released (R258, R272). -/
  dead : Option Nat := Option.none
  /-- It waited for its last beat under R130 or R166 (R270). -/
  waited : Bool := false
  deriving DecidableEq, Repr

/-- A reference in a queue: a frame and, for multicast, its PORT_MASK (R248). -/
structure Ref where
  fid : Nat
  mask : Nat := 0
  /-- It has been counted as waiting to spill (R266). -/
  waited : Bool := false
  deriving DecidableEq, Repr

/-- A spill record in a segment (R265): its bytes, the frame's fields that the device keeps beside it, its PORT_MASK, and where it starts in the
stream. [log: DEDUCED 208] -/
structure Rec where
  raw : List Byte
  m : FMeta
  mask : Nat
  pos : Nat
  deriving DecidableEq, Repr

/-- A VOQ or multicast queue (R250–R264). -/
structure Voq where
  /-- SRAM head in link order. -/
  head : List Ref := []
  /-- Frames due to spill, still in SRAM, in queue order (R262, R266). -/
  due : List Ref := []
  /-- The spill write under way (R266). -/
  writing : Option Ref := Option.none
  /-- The segment's records, oldest first; the first may be under a refill read. -/
  seg : List Rec := []
  reading : Bool := false
  /-- SRAM tail behind the segment (R269). -/
  behind : List Ref := []
  /-- The bytes of the segment's last slot, still on chip (R262). -/
  tail : List Byte := []
  /-- Pages of the segment, oldest first, with the one taken in advance last, and its stream positions (R265). -/
  pages : List Nat := []
  wrPos : Nat := 0
  rdPos : Nat := 0
  /-- Pages of the segment already freed, and the next group of its rotation (R265). -/
  gone : Nat := 0
  rot : Nat := 0
  spill : Bool := false
  balance : Int := 0
  /-- Grants on their way (R253). -/
  inflight : List Nat := []
  /-- Grants not used up: bytes left to cross and bytes reserved in staging (R296); bytes crossed beyond them. -/
  res : List (Nat × Nat) := []
  debt : Nat := 0
  /-- Multicast: port slots marked ready for the head, and slots it is granted for (R282, R297). -/
  ready : Nat := 0
  granted : Nat := 0
  /-- The reference crossing now (R252). -/
  crossing : Option Ref := Option.none
  /-- The crossing frame's bytes use up grants at its end, and its FRAME_LEN, not known at its start, is deducted there (R252, R270, R296). -/
  uses : Bool := false
  owes : Bool := false
  safe : Bool := false
  deriving DecidableEq, Repr

/-- A tile's cell buffer and queues. -/
structure BufSt where
  frames : Tab Frame := []
  nextFid : Nat := 0
  /-- The frame each port is receiving, plus 1. -/
  rx : Tab Nat := []
  /-- The bytes of a pause or PFC frame that the MAC of each port is consuming (R275). -/
  rxCtl : Tab (List Byte) := []
  /-- Free list (R254): cells freed, newest first; first cell never taken; cells out of the list; and the cells whose state bit says in use. -/
  freed : List Nat := []
  fresh : Nat := 0
  withdrawn : List Nat := []
  inUse : List Nat := []
  /-- Unicast VOQ q at key q, multicast queue q at 4096 + q. -/
  voqs : Tab Voq := []
  /-- Cells of the refill account (R256, R263). -/
  refill : Nat := 0
  /-- Bytes of each PG's records in Anvil, by 8 × port + priority (R256). -/
  anvUsed : Tab Nat := []
  deriving DecidableEq, Repr

/-- A page of a free ring that has been written back: its own index and the indices it holds (R261). -/
structure RingPage where
  page : Nat
  idx : List Nat
  deriving DecidableEq, Repr

/-- A channel group's free pages (R261): the entries of the on-chip cache, of which those of the ring as first built are its places `lo` to
`hi` − 1; the ring pages written back, newest first; and the ring as first built from place `hi` on. [log: DESIGN CHOICE 79] -/
structure AnvGroup where
  cache : List Nat := []
  lo : Nat := 0
  hi : Nat := 0
  ring : List RingPage := []
  deriving DecidableEq, Repr

structure AnvilSt where
  groups : Tab AnvGroup := []
  /-- Pages out of the free rings until the next Dawn (R524). -/
  retired : List Nat := []
  deriving DecidableEq, Repr

/-! ## Nimbus (07) -/

/-- A frame in a class queue of an egress port's staging (R295). -/
structure Staged where
  /-- Ingress tile, queue and frame of the crossing it came by. -/
  tile : Nat
  fid : Nat
  data : List Byte
  m : FMeta
  /-- The last cell is staged (R298). -/
  last : Bool := false
  ct : Bool := false
  bad : Bool := false
  /-- Ls charged when chosen while its length was unknown, and the tag it was chosen with (R303). -/
  charged : Option Nat := Option.none
  /-- The headers of its cells, as they crossed (R248). -/
  hdrs : List (BitVec 160) := []
  deriving DecidableEq, Repr

/-- A token bucket (R310): level in 2⁻³² byte, and the CLK_TICK edge it was filled to. -/
structure Bucket where
  level : Int := 0
  edge : Nat := 0
  deriving DecidableEq, Repr

/-- One class of a port in Nimbus. -/
structure NClass where
  q : List Staged := []
  fLast : BitVec 64 := 0
  /-- Remainder of the last division by the weight (R304). -/
  rem : Nat := 0
  /-- The head's tag (R305). -/
  tag : Option (BitVec 64) := Option.none
  /-- Quanta left of the received pause (R275). -/
  paused : Nat := 0
  /-- The PFC watchdog is active (R278). -/
  wd : Bool := false
  /-- Turn of the sources (R297). -/
  rr : Nat := 0
  deriving DecidableEq, Repr

/-- Nimbus state of one port (R295–R327). -/
structure NPort where
  cls : Tab NClass := []
  v : BitVec 64 := 0
  /-- Buckets 2c committed and 2c + 1 peak of class c; 16 and 17 of the port; an unlisted one is full. -/
  buckets : Tab (Option Bucket) := []
  /-- The frame being sent, its transmit stamp and the bytes it is sent with. -/
  cur : Option Staged := Option.none
  curNs : Nat := 0
  /-- A pause or PFC frame is being sent. -/
  curCtl : Option (List Byte) := Option.none
  /-- Pause and PFC frames waiting at the MAC (R274). -/
  ctl : List (List Byte) := []
  /-- DOWN_HOLD has expired since the port was UP (R285). -/
  downHeld : Bool := false
  /-- Start of the running gate cycle in PTP nanoseconds (R318), and the period of its trigger as configured then, 0 for a one-shot (R320). -/
  cycle : Nat := 0
  cyclePer : Nat := 0
  /-- Turn of the classes in the grant stage (R297). -/
  rr : Nat := 0
  deriving DecidableEq, Repr

structure TmSt where
  tiles : Tab BufSt := []
  ports : Tab NPort := []
  /-- Turn of the ports of each tile in the grant stage (R297). -/
  rrPort : Tab Nat := []
  anvil : AnvilSt := {}
  deriving DecidableEq, Repr

/-! ## Halo (08) -/

/-- A flow cache entry (R342–R345). -/
structure Flow where
  valid : Bool := false
  /-- KIND, PROTO, IPORT, ports and addresses as R345 lays them out: bytes 5 to 47 of the record. -/
  key : List Byte := []
  mode : Nat := 0
  packets : Nat := 0
  bytes : Nat := 0
  firstNs : Nat := 0
  lastNs : Nat := 0
  /-- FIRST_NS waits for the next packet (reason ACTIVE of R344). -/
  fresh : Bool := false
  peakRes : Nat := 0
  dropPkts : Nat := 0
  haloTag : Nat := 0
  gen : Nat := 0
  deriving DecidableEq, Repr

/-- A mirror session in one tile: offers since its last capture, and the millisecond and records of its rate limit (R347, R348). -/
structure Session where
  offers : Nat := 0
  ms : Nat := 0
  recs : Nat := 0
  deriving DecidableEq, Repr

/-- Halo in one tile. -/
structure HaloTile where
  flows : Tab Flow := []
  /-- Export queue and capture queue, oldest first, each record with its ring (R346, R348). -/
  exports : List (Nat × List Byte) := []
  captures : List (Nat × List Byte) := []
  sessions : Tab Session := []
  /-- Residence reports on their way to this tile: way, generation and residence (R343). -/
  reports : List (Nat × Nat × Nat) := []
  deriving DecidableEq, Repr

structure HaloSt where
  tiles : Tab HaloTile := []
  /-- IPv6 frames since the last insertion, by port (R352). -/
  enc : Tab Nat := []
  /-- OVF of the last low word read, by function (R357). -/
  ovf : Tab Bool := []
  deriving DecidableEq, Repr

/-! ## Parsing and classification (03) -/

/-- A policer (R129–R132, R315): configuration words and buckets in 2⁻³² byte with the CLK_TICK edge they were filled to; an
unlisted one is off. -/
structure Policer where
  cfg : List Nat := [0, 0, 0, 0]
  tc : Nat := 0
  tp : Nat := 0
  edge : Nat := 0
  deriving DecidableEq, Repr

/-! ## Cirrus (04) -/

/-- An entry of the effect log (R160): code, the IMM16 field and the argument bytes captured. -/
structure Effect where
  op : Nat
  imm : Nat
  arg : List Byte
  deriving DecidableEq, Repr

/-- A table operation on its way (R156, R157). -/
structure TblOp where
  op : Nat
  tid : Nat
  key : List Byte
  rdst : Nat
  mf : Nat
  /-- Cycle of the thread before whose word the result is there. -/
  due : Nat
  deriving DecidableEq, Repr

/-- A thread in a pipe (R147). [log: DESIGN CHOICE 3] -/
structure Thread where
  pipe : Nat := 0
  stage : Nat := 0
  pass : Nat := 1
  /-- CLK_CORE cycles since its run began. -/
  cycle : Nat := 0
  phv : List Byte := []
  pc : Nat := 0
  stack : List Nat := []
  mf : BitVec 16 := 0
  fz : BitVec 4 := 0
  fc : BitVec 4 := 0
  log : List Effect := []
  committed : Bool := false
  dirty : BitVec 64 := 0
  ops : List TblOp := []
  /-- TID and key of the last PROBE_INS of the run, and the place it reserved (R156, R234). -/
  probe : Option (Nat × List Byte) := Option.none
  place : Option Nat := Option.none
  /-- It waits to re-enter stage 0 for its second pass (R162). -/
  reenter : Bool := false
  deriving DecidableEq, Repr

/-- What becomes of a packet (R160, R164, R175). -/
inductive Disp where
  | fwd (port cls : Nat)
  | fwdMc (group : Nat)
  /-- Horizon mode's flood to a member mask (R491, R492). -/
  | flood (mask cls : Nat)
  | drop (code : Nat)
  | punt (code : Nat)
  | exc (reason : Nat)
  deriving DecidableEq, Repr

/-- Where a packet stands between its parse start and its release. -/
inductive PStage where
  /-- Parsed; waits for its last beat to be metered and dispatched (R130). -/
  | waitLast
  /-- Classified; waits for a pipe slot, or held at dispatch (R181). -/
  | held
  | running
  /-- Abandoned, with the reason of R171; it restarts when its wait is over. -/
  | restart (why : Nat)
  /-- Committed; its log waits for the last beat (R166). -/
  | waitLog
  /-- Its result is in the reorder stage. -/
  | ready
  deriving DecidableEq, Repr

/-- What the parse found beside the PHV: for each group of R584 the header ID its offset belongs to, 0 where it is absent, and the last next-header
value of the outer and the inner IPv6 header (R113, R123). -/
structure ParseInfo where
  first : List Nat := [0, 0, 0, 0, 0, 0, 0, 0]
  nh : Option Nat := Option.none
  nhIn : Option Nat := Option.none
  deriving DecidableEq, Repr

/-- A packet from parse start to release (R110, R223). -/
structure Pkt where
  iport : Nat := 0
  seq : Nat := 0
  version : Nat := 0
  /-- The pristine PHV in the restart buffer (R147). -/
  phv : List Byte := []
  /-- Where each slot's field was extracted from: slot, bit of the frame, bits (R161). -/
  srcs : List (Nat × Nat × Nat) := []
  info : ParseInfo := {}
  /-- The classifier's reason for the exception path, as found at parse start (R114, R116). -/
  reason : Option Nat := Option.none
  stage : PStage := .waitLast
  thread : Thread := {}
  restarts : Nat := 0
  disp : Option Disp := Option.none
  /-- The working PHV when the thread ended, for Halo and a punt. -/
  outPhv : List Byte := []
  log : List Effect := []
  /-- The working PHV and its dirty slots at the commit, for EDIT (R161, R164). -/
  editPhv : List Byte := []
  dirty : BitVec 64 := 0
  /-- A committed log that waits for the last beat (R166). -/
  pend : Bool := false
  deriving DecidableEq, Repr

/-- A packet in a tile's exception queue (R175): its frame, reason class, reason code and metadata. -/
structure ExcItem where
  fid : Nat
  cls : Nat
  reason : Nat
  phv : List Byte
  seq : Nat
  deriving DecidableEq, Repr

/-- The parser, classifier, pipes and reorder stage of one tile. -/
structure PipeTile where
  nextSeq : Nat := 0
  /-- Next pipe of the round robin (R16). -/
  rr : Nat := 0
  pkts : Tab (Option Pkt) := []
  exc : List ExcItem := []
  policers : Tab Policer := []
  /-- Held words of multi-word entries, by register key (R122). -/
  held : Tab (Option Word) := []
  /-- Control-store words of this tile with an error: 1 corrected, 2 uncorrectable (R178). -/
  csErr : Tab Nat := []
  /-- Under block reset: parsing and dispatch stand still (R510). -/
  stopped : Bool := false
  deriving DecidableEq, Repr

/-- An image as verified and staged (R179, R180). -/
structure Image where
  base : Bool
  id : Nat
  svn : Nat
  entries : List Nat
  callable : List Nat
  /-- Dispatch entries and key profiles it carries, by index. -/
  dtab : Tab (BitVec 16)
  kprof : Tab (BitVec 128)
  words : List (BitVec 576)
  first : Nat
  digest : List Byte
  deriving DecidableEq, Repr

/-- A load in progress (R180): how it will end. -/
structure ImgLoad where
  result : Nat
  img : Option Image
  deriving DecidableEq, Repr

/-- Control store, dispatch tables, key profiles and images, alike in all tiles (R177). -/
structure CirrusSt where
  tiles : Tab PipeTile := []
  /-- The base region holds the image of the boot flash, or in Horizon mode the ROM image (R183, R185). -/
  bootBase : Bool := false
  cs : Tab (BitVec 576) := []
  entry : Tab Bool := []
  callable : Tab Bool := []
  dtab : Tab (BitVec 16) := []
  kprof : Tab (BitVec 128) := []
  stagedBase : Option Image := Option.none
  stagedCust : Option Image := Option.none
  load : Option ImgLoad := Option.none
  /-- The activation in steps 1 to 3: base or customer region, and whether it is a DEACTIVATE (R181, R182). -/
  act : Option (Bool × Bool) := Option.none
  drained : Bool := false
  /-- While IMG_STATUS.ARMED is 1: the armed activation is of the base class (R181, R183). -/
  armedBase : Bool := false
  /-- Customer image measurement inputs. -/
  custDigest : List Byte := []
  baseDigest : List Byte := []
  deriving DecidableEq, Repr

/-! ## Tables (05) -/

/-- An exact-match entry (R202); `stamps` are the hit stamps of tiles 0 to 15 (R238). -/
structure EmEntry where
  part : Nat
  p0 : Bool
  p1 : Bool
  learned : Bool := false
  static : Bool := false
  lport : Nat := 0
  key : List Byte
  action : List Byte
  stamps : List Nat
  deriving DecidableEq, Repr

/-- An LPM prefix (R207, R217). -/
structure LpmEntry where
  /-- The number by which an event names the prefix's place (R206). [log: DESIGN CHOICE 203] -/
  place : Nat := 0
  v6 : Bool
  vrf : Nat
  len : Nat
  addr : List Byte
  p0 : Bool
  p1 : Bool
  action : List Byte
  deriving DecidableEq, Repr

/-- A TCAM entry (R208). -/
structure AclEntry where
  p0 : Bool
  p1 : Bool
  key : List Byte
  mask : List Byte
  action : List Byte
  deriving DecidableEq, Repr

/-- An operation of the table engine (R213–R215). -/
structure TeOp where
  op : Nat
  stage : Bool
  par : Nat
  tid : Nat
  lport : Nat
  learned : Bool
  static : Bool
  index : Nat
  data : List Byte
  /-- Of a ring: host address for READ, use of the ring and position of its entry. -/
  addr : Nat := 0
  gen : Nat := 0
  pos : Nat := 0
  /-- For COMMIT: data-path effects and scanner operations accepted before it and not yet applied (R224). -/
  ahead : Nat := 0
  aheadAge : Nat := 0
  deriving DecidableEq, Repr

/-- Where an operation comes from: the command register, the MC registers, or a ring (R212, R280). -/
inductive TeSrc where
  | reg
  | mc
  | ring (r : Nat)
  deriving DecidableEq, Repr

/-- An effect in the data-path queue (R212): the ingress port, the argument block, and for LEARN the key and place of the last
PROBE_INS. -/
structure DpOp where
  learn : Bool
  iport : Nat
  arg : List Byte
  probe : Option (Nat × List Byte)
  place : Option Nat
  deriving DecidableEq, Repr

/-- How the engine's slots have been shared (R212): slots since the data-path queue's last and since the aging scanners' last, each counted
while that source holds work; and the other source served last, 0 the command register and r + 1 ring r. -/
structure TeArb where
  dp : Nat := 0
  age : Nat := 0
  last : Nat := 0
  deriving DecidableEq, Repr

structure TableSt where
  /-- Exact-match entries by first slot: (way × 32,768 + bucket) × 4 + slot. -/
  em : Tab (Option EmEntry) := []
  lpm : List LpmEntry := []
  acl : Tab (Option AclEntry) := []
  /-- ECMP groups: slot A at 2i, slot B at 2i + 1; members. -/
  groups : Tab (BitVec 64) := []
  members : Tab (BitVec 64) := []
  /-- Multicast groups and members, likewise (R279). -/
  mcGroups : Tab (BitVec 64) := []
  mcMembers : Tab (BitVec 64) := []
  /-- Operations accepted and not yet applied, in the order of their acceptance. -/
  ops : List (TeSrc × TeOp) := []
  dpq : List DpOp := []
  /-- The sources whose COMMIT the engine has taken and holds (R224, R227). -/
  commits : List TeSrc := []
  /-- The source of a DISCARD whose sweep runs. -/
  discard : Option TeSrc := Option.none
  /-- Candidates of the aging scanner with the stamps read, and stamps to rewrite as (slot, tile, stamp) (R239). -/
  cands : List (Nat × List Nat) := []
  rewrites : List (Nat × Nat × Nat) := []
  /-- First slots that the pass after a write of AGE_TICK has still to refresh (R240). -/
  refresh : List Nat := []
  /-- How the engine has shared its slots (R212). -/
  arb : TeArb := {}
  /-- Buckets on the path of the last relocation, as way × 32,768 + bucket (R233). -/
  busy : List Nat := []
  /-- Words with a parity error: tile, TID, index (R204, R205). -/
  bad : List (Nat × Nat × Nat) := []
  /-- Banks in safe state whose spare is still being loaded: tile, memory, bank; and banks the spare serves for good (R205). -/
  safeBanks : List (Nat × Nat × Nat) := []
  fixedBanks : List (Nat × Nat × Nat) := []
  /-- BIST claims of a bank by tile (R203): 0 none, 1 being copied out, 2 served by the spare, 3 being copied back. -/
  claims : Tab Nat := []
  deriving DecidableEq, Repr

/-! ## Reset and boot (12) -/

/-- An anti-rollback increment that Bennidan must finish: its phase-1 record stands (R486). -/
inductive Journal where
  | arb (cls value : Nat)
  deriving DecidableEq, Repr

/-- A flash operation under way (R501): OP, address, how it will end, and the page to program. -/
structure FlashOp where
  op : Nat
  addr : Nat
  result : Nat
  data : List Byte
  deriving DecidableEq, Repr

structure BootSt where
  vinValid : Bool := true
  /-- The input capacitance is charged (R571). -/
  inrush : Bool := false
  /-- Standby rails regulated, root PLL locked. -/
  rootLocked : Bool := false
  /-- RESET_BTN_N counted as pressed (R472). -/
  pressed : Bool := false
  /-- Cause of the next Horizon entry: 0 none (R488). -/
  hzNext : Nat := 0
  /-- A chip reset waits: requested by RESET_CTL, Squall, the watchdog or the controller. -/
  resetDue : Bool := false
  /-- Bits of the sources that fired for it (R476). -/
  dueCauses : Nat := 0
  /-- The service core runs and its watchdog is armed. -/
  serviceCore : Bool := false
  romFirmware : Bool := false
  /-- The step of Dawn that is done: 1 from t0 on, 8 when READY has set; 0 when Dawn has halted (R477, R478). -/
  stage : Nat := 1
  /-- Always-needed blocks that failed step 5, by bit, without halting Dawn (R477, R478). -/
  unusable : Nat := 0
  /-- The base image of the slot that passed, until step 7 installs it (R481, R183). -/
  image : Option Image := Option.none
  /-- What has been written to the boot flash; an unlisted byte is as the board delivers it. -/
  flash : Tab (Option Byte) := []
  /-- The running flash operation (R501). -/
  flashOp : Option FlashOp := Option.none
  /-- Phase-1 records in the NVS (R486). -/
  journal : List Journal := []
  /-- NVS record slots of powered minutes: sequence number and count (R487). -/
  nvs : List (Nat × Nat) := []
  /-- Bits retired by fuse: units by class and number (R526). -/
  fuses : List (Nat × Nat) := []
  deriving DecidableEq, Repr

/-! ## Bennidan and Zenith (14) -/

/-- A Bennidan command in progress (R547): its code, how it will end, and its output. -/
structure BnRun where
  cmd : Nat
  result : Nat
  reason : Nat := 0
  out : List Byte := []
  deriving DecidableEq, Repr

structure TrustSt where
  run : Option BnRun := Option.none
  /-- The owner key in the NVS, and the key an ENROLL in progress will make active (R541). -/
  owner : List Byte := []
  newOwner : List Byte := []
  /-- The owner slots consumed: the key measurement fused in each, and the one whose ACTIVE fuse is in force (R541). -/
  slots : List (List Byte) := []
  active : Option Nat := Option.none
  /-- Operations measured since the last commit (R545). -/
  tblRun : List Byte := []
  /-- The buffer passed to Zenith, and its answer: reason code, 0 applied (R558). -/
  zcmd : Option (List Byte) := Option.none
  zreply : Option Nat := Option.none
  deriving DecidableEq, Repr

/-- A firing of the metering trigger on the edge link (R552): its index, PTP time and the totals of the EDGE transmissions. -/
structure ZEdge where
  k : Nat
  ns : Nat
  totals : Tab Nat
  epochs : Tab Nat
  deriving DecidableEq, Repr

/-- A record that is being appended (R553–R555), with the counts its commit puts into the checkpoint. -/
structure ZRec where
  rkind : Nat
  startNs : Nat
  endNs : Nat
  ticks : Nat
  entries : List Byte
  n : Nat
  flags : Nat
  mapDigest : List Byte
  detail : List Byte
  bytes : Tab Nat
  frames : Tab Nat
  deriving DecidableEq, Repr

/-- Zenith (R548–R559) and the tap front ends. [log: DESIGN CHOICE 3] -/
structure ZenSt where
  /-- Running totals of the front ends by 3 × pair: frames, bytes, stomped frames; EPOCH by chiplet (R550). -/
  taps : Tab Nat := []
  epochs : Tab Nat := []
  present : Bool := false
  /-- ZVDD has been lost since the last power-up. -/
  lost : Bool := false
  /-- Zenith's own clock: ZCLK cycles since it was made (R28). [log: DESIGN CHOICE 212] -/
  zc : Nat := 0
  /-- The last good transmission of each front end, its EPOCH, and the ZCLK cycle it came at. -/
  seen : Tab Nat := []
  seenEpoch : Tab Nat := []
  seenTick : Tab Nat := []
  /-- Account of each pair, by pair; an unlisted pair has the identity. A map and interval setting wait for the next edge. -/
  map : Tab Nat := []
  pendMap : List (Nat × Nat) := []
  pendCfg : Option Nat := Option.none
  /-- Cumulative bytes and frames, bad frames of the interval, accounts changed in it. -/
  bytes : Tab Nat := []
  frames : Tab Nat := []
  bad : Tab Nat := []
  changed : List Nat := []
  /-- The open interval: its edge's PTP time and ZCLK cycle; flags gathered; PTP time last received. -/
  openAt : Option (Nat × Nat) := Option.none
  flags : Nat := 0
  lastNs : Nat := 0
  edges : List ZEdge := []
  /-- Records to append, oldest first; the journal's records with their RSEQ; RSEQ of the next one; digest of the last one. -/
  appends : List ZRec := []
  journal : List (Nat × List Byte) := []
  rseq : Nat := 0
  prev : List Byte := []
  /-- The committed checkpoint's counts. -/
  ckBytes : Tab Nat := []
  ckFrames : Tab Nat := []
  /-- The authority's key, slots used, last accepted sequence. -/
  auth : List Byte := []
  authSlots : Nat := 0
  seq : Nat := 0
  /-- ZEN_CFG as it acts: trigger, DIVIDE, MAX_S; edges ignored; the latch and last cause; self-test passed. -/
  cfg : Nat := 0x0E100010
  ignored : Nat := 0
  tamper : Bool := false
  lastTamper : Nat := 0
  selfTest : Bool := true
  /-- Next RSEQ to deliver, and whether a record was lost before it (R559). -/
  deliver : Nat := 0
  deriving DecidableEq, Repr

/-! ## The whole state -/

/-- The state of the block. -/
structure State where
  /-- Commands that wait, first in, first out. -/
  pending : List Instr := []
  /-- The model's own counter of free values drawn (`Config.freeValue`); not the spec's. -/
  free : Nat := 0
  /-- The 32-bit and 64-bit registers of BAR0 by register key; an unlisted one holds its reset value (`regReset`). -/
  r32 : Tab Word := []
  r64 : Tab DWord := []
  host : HostSt := {}
  dma : DmaSt := {}
  time : TimeSt := {}
  link : LinkSt := {}
  power : PowerSt := {}
  boot : BootSt := {}
  squall : SquallSt := {}
  tm : TmSt := {}
  halo : HaloSt := {}
  cirrus : CirrusSt := {}
  te : TableSt := {}
  trust : TrustSt := {}
  zen : ZenSt := {}
  deriving DecidableEq, Repr

/-- The block right after VIN has become valid at power-up: Dawn step 1 (R470, R478, R498). Registers hold their reset values,
and everything else is empty. [log: DESIGN CHOICE 3, 4] -/
def State.reset : State := {}

end Sys2Proof.Machine
end

