-- ==== Sys2Proof/Machine/Cells.lean ====
section
/-!
DEFINITION. What stands in a cell header, a spill record, a page trailer and a ring page, bit by bit (R248, R261, R265).
-/

namespace Sys2Proof.Machine

/-! ## The cell header (R248) -/

/-- The fields of a cell header. -/
structure CellHdr where
  next : Nat
  sof : Bool
  eof : Bool
  lastLen : Nat
  eport : Nat
  cls : Nat
  iport : Nat
  itile : Nat
  ipri : Nat
  mc : Bool
  ct : Bool
  bad : Bool
  refilled : Bool
  frameLen : Nat
  arrival : Nat
  mask : Nat
  deriving DecidableEq, Repr

/-- The 160 bits of a header; reserved bits are 0. -/
def CellHdr.pack (h : CellHdr) : BitVec 160 :=
  let f (v w lo : Nat) : Nat := v % 2 ^ w * 2 ^ lo
  BitVec.ofNat 160 (f h.next 16 0 + f (b2n h.sof) 1 16 + f (b2n h.eof) 1 17 + f h.lastLen 8 18 + f h.eport 9 26 + f h.cls 3 35 +
    f h.iport 9 38 + f h.itile 4 47 + f h.ipri 3 51 + f (b2n h.mc) 1 54 + f (b2n h.ct) 1 55 + f (b2n h.bad) 1 56 +
    f (b2n h.refilled) 1 57 + f h.frameLen 14 64 + f h.arrival 32 80 + f h.mask 32 128)

/-- The headers of a frame's cells in tile `t`, for the port mask of one reference. NEXT beyond the last cell that has come, and FRAME_LEN
before the frame's end is known, are free. [log: DESIGN CHOICE 207] -/
def cellHdrs (t : Nat) (f : Frame) (mask : Nat) : List (BitVec 160) :=
  let n := f.cells.length
  f.cells.zipIdx.map (fun c =>
    let last := decide (c.2 + 1 = n)
    let eof := last && f.done
    CellHdr.pack
      { next := nth f.cells (c.2 + 1) (Config.hdrOpen 0 c.1).toNat, sof := decide (c.2 = 0), eof := eof
        lastLen := if eof then f.data.length - 256 * c.2 else 0
        eport := if f.m.mc then 0 else f.m.eport, cls := f.m.cls, iport := f.m.iport, itile := t, ipri := f.m.ipri, mc := f.m.mc
        ct := f.ct, bad := f.bad && last, refilled := f.refilled
        frameLen := if f.done then f.data.length else (Config.hdrOpen 1 c.1).toNat
        arrival := f.m.arrivalNs, mask := mask })

/-! ## Segments (R265) -/

/-- Bytes of a spill record: 16 and the frame, padded to a multiple of 16. -/
def recBytes (len : Nat) : Nat := 16 + ceilDiv len 16 * 16

/-- A spill record: its header with the CRC-32C, and the padded frame. -/
def recordBytes (bs : List Byte) (m : FMeta) (mask : Nat) : List Byte :=
  let h := leBytes 2 (bs.length % 16384 + b2n m.mc * 16384) ++ leBytes 2 (m.iport % 512 + m.ipri % 8 * 512) ++
    leBytes 4 (m.arrivalNs % 2 ^ 32) ++ leBytes 4 mask
  h ++ leBytes 4 (crc32c (h ++ bs)).toNat ++ bytesAt bs 0 (ceilDiv bs.length 16 * 16)

/-- The frame in a spill record. -/
def recFrame (raw : List Byte) : List Byte := bytesAt raw 16 (leNat (bytesAt raw 0 2) % 16384)

/-- The CRC of a spill record holds. -/
def recGood (raw : List Byte) : Bool :=
  decide ((crc32c (bytesAt raw 0 12 ++ recFrame raw)).toNat = leNat (bytesAt raw 12 4))

/-- A page trailer: the next page, the owning queue and tile, and the CRC-32C over them. -/
def trailerBytes (next q t : Nat) : List Byte :=
  let h := leBytes 4 (next % 2 ^ 25) ++ leBytes 4 (q % 4096 + q / 4096 % 2 * 4096 + t % 16 * 2 ^ 16) ++ leBytes 4 0
  h ++ leBytes 4 (crc32c h).toNat

/-- The slot of the stream that holds a byte: 16 slots of 256 bytes to a page, of whose last the trailer takes 16 bytes. -/
def slotNo (pos : Nat) : Nat := pos / 4080 * 16 + pos % 4080 / 256

/-- Bytes of the slot that a stream position has begun: those in the tail assembly (R262). -/
def tailLen (pos : Nat) : Nat := pos % 4080 % 256

/-! ## Ring pages (R261) -/

/-- A ring page: 1,022 free page indices, the link, and the CRC-32C over them. [log: DESIGN CHOICE 79] -/
def ringPageBytes (idx : List Nat) (link : Nat) : List Byte :=
  let h := bytesAt (idx.flatMap (leBytes 4)) 0 4088 ++ leBytes 4 link
  h ++ leBytes 4 (crc32c h).toNat

end Sys2Proof.Machine
end

