-- ==== Sys2Proof/Machine/Regs.lean ====
section
/-!
DEFINITION. The BAR0 register map of R29, R30 and the register chapters: the name of every register, where it lies, its
reset value, which of its bits host software writes (RW, RWS and RWL fields) and which it clears by writing 1 (RW1C),
and the fields of each register as the field tables give them. A register array is one name with two indexes: `i` counts
its instances (tile, chiplet and port, ring, channel, function) and `j` the words of one instance.
-/

namespace Sys2Proof.Machine

/-- The registers of BAR0, in the order of the map of R29. -/
inductive RName where
  | devId
  | dawnStatus
  | bootSvn
  | bootSeq
  | dawnMs
  | resetCause
  | resetCtl
  | hzCfg
  | flashCtl
  | flashAddr
  | flashStatus
  | hzPort
  | flashData
  | sqStatus
  | sqCtl
  | firstMsg
  | firstCtl
  | cntMsg
  | cntConseq
  | cntMsgLost
  | sqIrq
  | errnStatus
  | reactCfg
  | retireCfg
  | pend
  | bistCtl
  | bistUnit
  | bistIndex
  | bistStatus
  | bistResult
  | bistResIndex
  | cntSlices
  | cntBistFail
  | cntBistSkip
  | spareTile
  | spareXlink
  | spareCells
  | spareLane
  | spareAnvil
  | pwrStatus
  | pwrCfg
  | pcap
  | pcapEff
  | vinMv
  | iinMa
  | pinW
  | energyMj
  | poweredHours
  | vcore
  | thermCfg
  | thermStatus
  | socCfg
  | socStatus
  | socVinMv
  | socIinMa
  | cntOpChange
  | cntLimit
  | cntCapUnmet
  | cntThermStep
  | ageMilestone
  | pLeak
  | temp
  | vtab
  | timeStatus
  | incr
  | nowFrac
  | nowNs
  | nowSecLo
  | nowSecHi
  | adjFrac
  | adjNs
  | adjSecLo
  | adjSecHi
  | adjOff
  | adjCmd
  | ppsCfg
  | trigCtl
  | trigStatus
  | startNs
  | startSec
  | periodNs
  | capCfg
  | capStatus
  | capFrac
  | capNs
  | capSecLo
  | capSecHi
  | ptpCfg
  | tsAdj
  | fnRights
  | fnCfg
  | fnStatus
  | violAddr
  | violCnt
  | evRoute
  | cntEvLost
  | cntEvDiscard
  | cntForeignWr
  | cntDbIgnored
  | hwinW0
  | hwinW1
  | hwinW2
  | hwinW3
  | ringOwner
  | ringBase
  | ringCtl
  | ringIrq
  | ringStatus
  | ringErr
  | ringHead
  | ringTail
  | cntCqFull
  | msixTable
  | msixPba
  | dmaStatus
  | dmaSwreq
  | chOwner
  | chCtl
  | chProg
  | chStatus
  | chPc
  | chSrc
  | chDst
  | chLen
  | chLoop
  | chFault
  | chWinW0
  | chWinW1
  | chWinW2
  | chWinW3
  | bnStatus
  | bnCmd
  | bnArg
  | bnResult
  | bnCfg
  | bnIgnored
  | nonce
  | bnMeas
  | arbCtr
  | ownerStatus
  | devKeyId
  | ownerKeyId
  | tblCommits
  | inBuf
  | outBuf
  | inBuf2
  | zenStatus
  | zenRseq
  | zenDelivered
  | zenCfg
  | zenKeyId
  | authKeyId
  | zcmdSeq
  | ignEdges
  | romVer
  | mapDigest
  | zenBytes
  | zenFrames
  | zenMap
  | parseStatus
  | clsCtl
  | cntTrunc
  | cntMalformed
  | cntLimitExc
  | cntNoPtype
  | cntNoEntry
  | hashCfg
  | hashSeed
  | polIdx
  | polCmd
  | polStatus
  | polData
  | portCls
  | pcpMap
  | dscpMap
  | stateTab
  | baseTcam
  | custTcam0
  | custTcam1
  | ptypeTcam0
  | ptypeTcam1
  | entryTab0
  | entryTab1
  | cirrusStatus
  | cirrusCtl
  | excRing
  | pipeStatus
  | cntRestart
  | cntExcCirrus
  | cntRecirc
  | cntViol
  | cntExcDrop
  | imgCtl
  | imgStatus
  | imgSrc
  | imgLen
  | baseImageId
  | custImageId
  | imgSvn
  | csRdCtl
  | csRdStatus
  | csRdData
  | csRdMark
  | dtabReg
  | kprofReg
  | robStatus
  | ttInflight
  | ttVersion
  | ttBank
  | ttParityCnt
  | ttRepairCnt
  | bpmStatus
  | bpmCtl
  | poolCfg
  | refillCfg
  | mcHold
  | voqCtl
  | voqData0
  | voqData1
  | bpmRsvd
  | dropCnt
  | dropUcode
  | cntStomp
  | cntMcSkip
  | cntDoubleFree
  | cntCt
  | pfcCfg
  | maxFrame
  | portMacLo
  | portMacHi
  | pfcTimer
  | pgCfg0
  | pgCfg1
  | pgCfg2
  | pgCfg3
  | pgStatus0
  | pgStatus1
  | pgStatus2
  | pgStatus3
  | voqProf0
  | voqProf1
  | voqSel
  | egrCfg0
  | egrCfg1
  | egrCfg2
  | mcCmd
  | mcIndex
  | mcStatus
  | mcData0
  | mcData1
  | nbStatus
  | sampleCfg
  | cntWts
  | cntGateTrunc
  | portSched
  | pshpCir
  | pshpPir
  | pshpCbs
  | pshpPbs
  | gateCfg
  | gateStatus
  | qsched
  | qshpCir
  | qshpPir
  | qshpCbs
  | qshpPbs
  | qstatus
  | maxwin
  | gcl
  | chipletId
  | txgrpCfg
  | portCfg
  | portStatus
  | portLps
  | anLocal
  | anPartner
  | fecCwCorr
  | fecCwUncorr
  | fecSymCorr
  | laneCtl
  | laneStatus
  | txFfe
  | adaptCtl
  | eyeCtl
  | eyeResult
  | prbsCtl
  | prbsStatus
  | prbsErr
  | eqHist
  | cageCfg
  | cageStatus
  | fpI2cCfg
  | modAccCtl
  | modAccBank
  | modAccStatus
  | modAccBuf
  | ledCfg
  | ledLocate
  | anvilCtl
  | anvilStatus
  | chActive
  | grpFree
  | anvChStatus
  | cntSpillBytes
  | cntRefillBytes
  | cntPagesAlloc
  | cntEdcRetry
  | cntDataErr
  | cntPageDoubleFree
  | cntSpillWait
  | pcVal
  | pcCfg
  | pcOvf
  | snapVal
  | snapOvf
  | statOvf
  | histClass
  | histPort
  | wrapClass
  | wrapPort
  | statCnt
  | haloStatus
  | flowCfg
  | flowTmo
  | flowSeed
  | flowCmd
  | epochCfg
  | epochNum
  | histCfg
  | histCmd
  | ovfLatch
  | statCmd
  | cntFlowExported
  | cntFlowLost
  | cntCapLost
  | cntHistLost
  | cntStatRange
  | cntIoamSkip
  | cntBar4Wr
  | mirrorCfg
  | mirrorN
  | mirrorRate
  | portMirror
  | ioam0
  | ioam1
  | ioam2
  | ioam3
  | grpCtl
  | teStatus
  | teCtl
  | verStatus
  | emSeed
  | ageTick
  | ageNow
  | lpmCfg
  | teCmd0
  | teIndex
  | teCmdStatus
  | teLen
  | teGo
  | lpmUsed
  | teData
  | tblCfg0
  | tblCfg1
  | tblCfg2
  | tcamCfg
  | learnCfg
  | learnCount
  | cntLearned
  | cntLearnDup
  | cntLearnLimit
  | cntLearnNospace
  | cntLearnConflict
  | cntDpDiscard
  | cntAged
  | cntCommits
  deriving DecidableEq, Repr

/-- What the register chapters say of one register array. `di` and `dj` are the (count, stride) pairs that place instance
`i` and word `j`; `ds` are the pairs of a register that is one register seen through several blocks (the IMG and MC
registers, R180 and R280). `rw` and `w1c` are the write masks. -/
structure RegInfo where
  base : Nat
  di : List (Nat × Nat) := []
  dj : List (Nat × Nat) := []
  ds : List (Nat × Nat) := []
  wide : Bool := false
  rw : Nat := 0
  w1c : Nat := 0
  rst : Nat := 0
  deriving DecidableEq, Repr

/-- The register map: one arm for each register, its rule and file of the spec above it. [log: DESIGN CHOICE 3] -/
def regInfo : RName → RegInfo
  -- 12_reset_boot_horizon.md R498
  | .devId => { base := 0x0, rst := 0xb05120 }
  | .dawnStatus => { base := 0x4, rst := 0x2 }
  -- 12_reset_boot_horizon.md R497
  | .bootSvn => { base := 0x8 }
  | .bootSeq => { base := 0xc }
  | .dawnMs => { base := 0x10 }
  -- 12_reset_boot_horizon.md R499
  | .resetCause => { base := 0x14, w1c := 0x7f, rst := 0x1 }
  | .resetCtl => { base := 0x18 }
  | .hzCfg => { base := 0x20, rw := 0xf, rst := 0x6 }
  -- 12_reset_boot_horizon.md R501
  | .flashCtl => { base := 0x40, rw := 0x3 }
  -- 12_reset_boot_horizon.md R497
  | .flashAddr => { base := 0x44, rw := 0x7fffff }
  -- 12_reset_boot_horizon.md R501
  | .flashStatus => { base := 0x48 }
  -- 12_reset_boot_horizon.md R500
  | .hzPort => { base := 0x200, di := [(64, 0x4)], rw := 0x7ffff, rst := 0x19001 }
  -- 12_reset_boot_horizon.md R497
  | .flashData => { base := 0x1000, di := [(64, 0x4)], rw := 0xffffffff }
  -- 13_faults_bist_lifetime.md R531
  | .sqStatus => { base := 0x100000 }
  | .sqCtl => { base := 0x100004, rw := 0x7, rst := 0x1 }
  -- 13_faults_bist_lifetime.md R530
  | .firstMsg => { base := 0x100010, di := [(4, 0x4)] }
  -- 13_faults_bist_lifetime.md R531
  | .firstCtl => { base := 0x100020 }
  -- 13_faults_bist_lifetime.md R530
  | .cntMsg => { base := 0x100028, wide := true }
  | .cntConseq => { base := 0x100030, wide := true }
  | .cntMsgLost => { base := 0x100038, wide := true }
  -- 13_faults_bist_lifetime.md R531
  | .sqIrq => { base := 0x100040, rw := 0x1ffff, w1c := 0x20000, rst := 0x200 }
  | .errnStatus => { base := 0x100044, w1c := 0x7f }
  -- 13_faults_bist_lifetime.md R532
  | .reactCfg => { base := 0x100100, di := [(6, 0x4)], rw := 0x8000001f }
  | .retireCfg => { base := 0x100200, rw := 0x3fff, rst := 0x3c7 }
  -- 13_faults_bist_lifetime.md R530
  | .pend => { base := 0x101000, di := [(128, 0x4)], w1c := 0xffffffff }
  -- 13_faults_bist_lifetime.md R533
  | .bistCtl => { base := 0x180000, rw := 0x1fffffc, rst := 0x50000 }
  | .bistUnit => { base := 0x180004, rw := 0xff }
  | .bistIndex => { base := 0x180008, rw := 0x1ffffff }
  | .bistStatus => { base := 0x18000c }
  | .bistResult => { base := 0x180010 }
  | .bistResIndex => { base := 0x180014 }
  | .cntSlices => { base := 0x180020, wide := true }
  | .cntBistFail => { base := 0x180028, wide := true }
  | .cntBistSkip => { base := 0x180030, wide := true }
  -- 13_faults_bist_lifetime.md R534
  | .spareTile => { base := 0x190000, di := [(16, 0x4)], rst := 0x4800 }
  | .spareXlink => { base := 0x190040, di := [(16, 0x4)] }
  | .spareCells => { base := 0x190080, di := [(16, 0x4)] }
  | .spareLane => { base := 0x190100, di := [(16, 0x4)] }
  | .spareAnvil => { base := 0x190200, di := [(32, 0x4)] }
  -- 11_power_operating_points.md R467
  | .pwrStatus => { base := 0x200000, rst := 0x4 }
  | .pwrCfg => { base := 0x200004, rw := 0x3fffffff, rst := 0xfa00a8 }
  | .pcap => { base := 0x200008, rw := 0x7ff, rst := 0x640 }
  -- 11_power_operating_points.md R466
  | .pcapEff => { base := 0x20000c }
  | .vinMv => { base := 0x200010 }
  | .iinMa => { base := 0x200014 }
  | .pinW => { base := 0x200018 }
  | .energyMj => { base := 0x200020, wide := true }
  | .poweredHours => { base := 0x200028 }
  -- 11_power_operating_points.md R467
  | .vcore => { base := 0x20002c }
  -- 11_power_operating_points.md R468
  | .thermCfg => { base := 0x200030, rw := 0xffff, rst := 0x6964 }
  | .thermStatus => { base := 0x200034, w1c := 0x20000 }
  | .socCfg => { base := 0x200038, rw := 0x1f }
  | .socStatus => { base := 0x20003c }
  -- 11_power_operating_points.md R466
  | .socVinMv => { base := 0x200040 }
  | .socIinMa => { base := 0x200044 }
  | .cntOpChange => { base := 0x200080, wide := true }
  | .cntLimit => { base := 0x200088, wide := true }
  | .cntCapUnmet => { base := 0x200090, wide := true }
  | .cntThermStep => { base := 0x200098, wide := true }
  | .ageMilestone => { base := 0x200100, di := [(5, 0x4)] }
  | .pLeak => { base := 0x200120, di := [(7, 0x4)] }
  -- 11_power_operating_points.md R468
  | .temp => { base := 0x200200, di := [(73, 0x4)] }
  -- 11_power_operating_points.md R466
  | .vtab => { base := 0x201000, di := [(280, 0x4)] }
  -- 10_time.md R444
  | .timeStatus => { base := 0x300000 }
  -- 10_time.md R443
  | .incr => { base := 0x300008, wide := true, rw := 0xffffffffffffffff, rst := 0x280000000 }
  | .nowFrac => { base := 0x300010 }
  | .nowNs => { base := 0x300014 }
  | .nowSecLo => { base := 0x300018 }
  | .nowSecHi => { base := 0x30001c }
  | .adjFrac => { base := 0x300020, rw := 0xffffffff }
  | .adjNs => { base := 0x300024, rw := 0x3fffffff }
  | .adjSecLo => { base := 0x300028, rw := 0xffffffff }
  | .adjSecHi => { base := 0x30002c, rw := 0xffff }
  | .adjOff => { base := 0x300030, wide := true, rw := 0xffffffffffffffff }
  -- 10_time.md R444
  | .adjCmd => { base := 0x300038 }
  | .ppsCfg => { base := 0x300040, rw := 0xffffffff, rst := 0x1000c80 }
  -- 10_time.md R445
  | .trigCtl => { base := 0x300080, di := [(16, 0x20)], rw := 0x7 }
  | .trigStatus => { base := 0x300084, di := [(16, 0x20)], w1c := 0x2 }
  | .startNs => { base := 0x300088, di := [(16, 0x20)], rw := 0x3fffffff }
  -- 10_time.md R443
  | .startSec => { base := 0x300090, di := [(16, 0x20)], wide := true, rw := 0xffffffffffff }
  -- 10_time.md R445
  | .periodNs => { base := 0x300098, di := [(16, 0x20)], rw := 0x3fffffff, rst := 0x3b9aca00 }
  -- 10_time.md R446
  | .capCfg => { base := 0x300400, di := [(4, 0x20)], rw := 0xf, rst := 0x2 }
  | .capStatus => { base := 0x300404, di := [(4, 0x20)], w1c := 0x20 }
  | .capFrac => { base := 0x300408, di := [(4, 0x20)] }
  | .capNs => { base := 0x30040c, di := [(4, 0x20)] }
  -- 10_time.md R443
  | .capSecLo => { base := 0x300410, di := [(4, 0x20)] }
  | .capSecHi => { base := 0x300414, di := [(4, 0x20)] }
  -- 10_time.md R446
  | .ptpCfg => { base := 0x310000, di := [(512, 0x10)], rw := 0x3 }
  | .tsAdj => { base := 0x310004, di := [(512, 0x10)], rw := 0xffffffff }
  -- 09_host_rings_dma.md R419
  | .fnRights => { base := 0x400000, di := [(4, 0x4)], rw := 0x1ff }
  | .fnCfg => { base := 0x400010, di := [(4, 0x4)], rw := 0x7ff }
  | .fnStatus => { base := 0x400020, di := [(4, 0x4)] }
  -- 09_host_rings_dma.md R418
  | .violAddr => { base := 0x400040, di := [(4, 0x10)], wide := true }
  | .violCnt => { base := 0x400048, di := [(4, 0x10)] }
  -- 09_host_rings_dma.md R419
  | .evRoute => { base := 0x400100, di := [(16, 0x4)], rw := 0x7ff }
  -- 09_host_rings_dma.md R418
  | .cntEvLost => { base := 0x400180, wide := true }
  | .cntEvDiscard => { base := 0x400188, wide := true }
  | .cntForeignWr => { base := 0x400190, wide := true }
  | .cntDbIgnored => { base := 0x400198, wide := true }
  -- 09_host_rings_dma.md R420
  | .hwinW0 => { base := 0x401000, di := [(4, 0x100)], dj := [(16, 0x10)], rw := 0xfffff000 }
  | .hwinW1 => { base := 0x401004, di := [(4, 0x100)], dj := [(16, 0x10)], rw := 0xffffffff }
  | .hwinW2 => { base := 0x401008, di := [(4, 0x100)], dj := [(16, 0x10)], rw := 0xffffffff }
  | .hwinW3 => { base := 0x40100c, di := [(4, 0x100)], dj := [(16, 0x10)], rw := 0x7 }
  -- 09_host_rings_dma.md R421
  | .ringOwner => { base := 0x420000, di := [(1024, 0x4)], rw := 0x1f }
  | .ringBase => { base := 0x440000, di := [(1024, 0x40)], wide := true, rw := 0xfffffffffffff000 }
  | .ringCtl => { base := 0x440008, di := [(1024, 0x40)], rw := 0x83ffffff, rst := 0x640006 }
  | .ringIrq => { base := 0x44000c, di := [(1024, 0x40)], rw := 0x3ffffff, rst := 0x80000 }
  | .ringStatus => { base := 0x440010, di := [(1024, 0x40)] }
  | .ringErr => { base := 0x440014, di := [(1024, 0x40)] }
  | .ringHead => { base := 0x440018, di := [(1024, 0x40)] }
  | .ringTail => { base := 0x44001c, di := [(1024, 0x40)] }
  -- 09_host_rings_dma.md R418
  | .cntCqFull => { base := 0x440020, di := [(1024, 0x40)], wide := true }
  | .msixTable => { base := 0x480000, di := [(4, 0x10000)], dj := [(1024, 0x4)], rw := 0xffffffff }
  | .msixPba => { base := 0x488000, di := [(4, 0x10000)], dj := [(8, 0x4)] }
  -- 09_host_rings_dma.md R423
  | .dmaStatus => { base := 0x500000 }
  | .dmaSwreq => { base := 0x500004, rw := 0xff }
  -- 09_host_rings_dma.md R424
  | .chOwner => { base := 0x501000, di := [(32, 0x100)], rw := 0x7 }
  | .chCtl => { base := 0x501004, di := [(32, 0x100)], rw := 0x18 }
  | .chProg => { base := 0x501008, di := [(32, 0x100)], wide := true, rw := 0xffffffffffffffe0 }
  | .chStatus => { base := 0x501010, di := [(32, 0x100)] }
  -- 09_host_rings_dma.md R423
  | .chPc => { base := 0x501018, di := [(32, 0x100)], wide := true }
  | .chSrc => { base := 0x501020, di := [(32, 0x100)], wide := true, rw := 0xffffffffffffffff }
  | .chDst => { base := 0x501028, di := [(32, 0x100)], wide := true, rw := 0xffffffffffffffff }
  -- 09_host_rings_dma.md R424
  | .chLen => { base := 0x501030, di := [(32, 0x100)], rw := 0xffffffff }
  | .chLoop => { base := 0x501034, di := [(32, 0x100)], dj := [(4, 0x4)] }
  | .chFault => { base := 0x501048, di := [(32, 0x100)] }
  | .chWinW0 => { base := 0x501080, di := [(32, 0x100)], dj := [(4, 0x10)], rw := 0xffffffff }
  | .chWinW1 => { base := 0x501084, di := [(32, 0x100)], dj := [(4, 0x10)], rw := 0xffffffff }
  | .chWinW2 => { base := 0x501088, di := [(32, 0x100)], dj := [(4, 0x10)], rw := 0xffffffff }
  | .chWinW3 => { base := 0x50108c, di := [(32, 0x100)], dj := [(4, 0x10)], rw := 0xf }
  -- 14_security_zenith.md R562
  | .bnStatus => { base := 0x600000 }
  | .bnCmd => { base := 0x600004 }
  -- 14_security_zenith.md R561
  | .bnArg => { base := 0x600008, rw := 0xffffffff }
  -- 14_security_zenith.md R562
  | .bnResult => { base := 0x60000c }
  | .bnCfg => { base := 0x600010, rw := 0x1 }
  -- 14_security_zenith.md R561
  | .bnIgnored => { base := 0x600018, wide := true }
  | .nonce => { base := 0x600020, di := [(8, 0x4)], rw := 0xffffffff }
  | .bnMeas => { base := 0x600100, di := [(5, 0x20)], dj := [(8, 0x4)] }
  | .arbCtr => { base := 0x600200 }
  -- 14_security_zenith.md R562
  | .ownerStatus => { base := 0x600204 }
  -- 14_security_zenith.md R561
  | .devKeyId => { base := 0x600208, wide := true }
  | .ownerKeyId => { base := 0x600210, wide := true }
  | .tblCommits => { base := 0x600218 }
  | .inBuf => { base := 0x601000, di := [(1024, 0x4)], rw := 0xffffffff }
  | .outBuf => { base := 0x602000, di := [(1024, 0x4)] }
  | .inBuf2 => { base := 0x603000, di := [(1024, 0x4)], rw := 0xffffffff }
  -- 14_security_zenith.md R563
  | .zenStatus => { base := 0x700000 }
  | .zenRseq => { base := 0x700008, wide := true }
  | .zenDelivered => { base := 0x700010, wide := true }
  | .zenCfg => { base := 0x700018, rst := 0xe100010 }
  | .zenKeyId => { base := 0x700020, wide := true }
  | .authKeyId => { base := 0x700028, wide := true }
  | .zcmdSeq => { base := 0x700030 }
  | .ignEdges => { base := 0x700034 }
  | .romVer => { base := 0x700038 }
  | .mapDigest => { base := 0x700040, di := [(8, 0x4)] }
  | .zenBytes => { base := 0x710000, di := [(4096, 0x10)], wide := true }
  | .zenFrames => { base := 0x710008, di := [(4096, 0x10)], wide := true }
  | .zenMap => { base := 0x720000, di := [(2048, 0x4)] }
  -- 03_parsing_classification.md R135
  | .parseStatus => { base := 0x1000000, di := [(16, 0x100000)] }
  -- 03_parsing_classification.md R136
  | .clsCtl => { base := 0x1000004, di := [(16, 0x100000)], rw := 0x1, rst := 0x1 }
  -- 03_parsing_classification.md R134
  | .cntTrunc => { base := 0x1000010, di := [(16, 0x100000)], wide := true }
  | .cntMalformed => { base := 0x1000018, di := [(16, 0x100000)], wide := true }
  | .cntLimitExc => { base := 0x1000020, di := [(16, 0x100000)], wide := true }
  | .cntNoPtype => { base := 0x1000028, di := [(16, 0x100000)], wide := true }
  | .cntNoEntry => { base := 0x1000030, di := [(16, 0x100000)], wide := true }
  -- 03_parsing_classification.md R137
  | .hashCfg => { base := 0x1000040, di := [(16, 0x100000)], rw := 0x3f, rst := 0x1 }
  -- 03_parsing_classification.md R134
  | .hashSeed => { base := 0x1000044, di := [(16, 0x100000)], rw := 0xffffffff }
  -- 03_parsing_classification.md R143
  | .polIdx => { base := 0x1000080, di := [(16, 0x100000)], rw := 0xffff }
  | .polCmd => { base := 0x1000084, di := [(16, 0x100000)] }
  | .polStatus => { base := 0x1000088, di := [(16, 0x100000)] }
  -- 03_parsing_classification.md R144
  | .polData => { base := 0x1000090, di := [(16, 0x100000)], dj := [(4, 0x4)], rw := 0xffffffff }
  -- 03_parsing_classification.md R138
  | .portCls => { base := 0x1000100, di := [(16, 0x100000), (32, 0x4)], rw := 0xffff7fff, rst := 0x8 }
  -- 03_parsing_classification.md R139
  | .pcpMap => { base := 0x1000180, di := [(16, 0x100000), (32, 0x4)], rw := 0xffffff, rst := 0xfac688 }
  | .dscpMap => { base := 0x1000200, di := [(16, 0x100000)], dj := [(16, 0x20), (8, 0x4)], rw := 0xffffff }
  -- 03_parsing_classification.md R140
  | .stateTab => { base := 0x1002000, di := [(16, 0x100000)], dj := [(256, 0x20), (8, 0x4)], rw := 0xffffffff }
  -- 03_parsing_classification.md R141
  | .baseTcam => { base := 0x1004000, di := [(16, 0x100000)], dj := [(768, 0x20), (8, 0x4)] }
  | .custTcam0 => { base := 0x100a000, di := [(16, 0x100000)], dj := [(256, 0x20), (8, 0x4)], rw := 0xffffffff }
  | .custTcam1 => { base := 0x100c000, di := [(16, 0x100000)], dj := [(256, 0x20), (8, 0x4)], rw := 0xffffffff }
  -- 03_parsing_classification.md R142
  | .ptypeTcam0 => { base := 0x100e000, di := [(16, 0x100000)], dj := [(128, 0x10), (4, 0x4)], rw := 0xffffffff }
  | .ptypeTcam1 => { base := 0x100e800, di := [(16, 0x100000)], dj := [(128, 0x10), (4, 0x4)], rw := 0xffffffff }
  | .entryTab0 => { base := 0x100f000, di := [(16, 0x100000)], dj := [(256, 0x4)], rw := 0x1ffff }
  | .entryTab1 => { base := 0x100f400, di := [(16, 0x100000)], dj := [(256, 0x4)], rw := 0x1ffff }
  -- 04_cirrus_microcode.md R191
  | .cirrusStatus => { base := 0x1020000, di := [(16, 0x100000)], rst := 0x2ff }
  -- 04_cirrus_microcode.md R192
  | .cirrusCtl => { base := 0x1020004, di := [(16, 0x100000)], rw := 0x1, rst := 0x1 }
  -- 04_cirrus_microcode.md R193
  | .excRing => { base := 0x1020010, di := [(16, 0x100000)], dj := [(4, 0x4)], rw := 0x83ff }
  -- 04_cirrus_microcode.md R194
  | .pipeStatus => { base := 0x1020040, di := [(16, 0x100000)], dj := [(9, 0x4)] }
  -- 04_cirrus_microcode.md R190
  | .cntRestart => { base := 0x1020080, di := [(16, 0x100000)], dj := [(5, 0x8)], wide := true }
  | .cntExcCirrus => { base := 0x10200a8, di := [(16, 0x100000)], wide := true }
  | .cntRecirc => { base := 0x10200b0, di := [(16, 0x100000)], wide := true }
  | .cntViol => { base := 0x10200b8, di := [(16, 0x100000)], wide := true }
  | .cntExcDrop => { base := 0x10200c0, di := [(16, 0x100000)], wide := true }
  -- 04_cirrus_microcode.md R195
  | .imgCtl => { base := 0x1020100, ds := [(16, 0x100000)], rw := 0xc, rst := 0x4 }
  -- 04_cirrus_microcode.md R196
  | .imgStatus => { base := 0x1020104, ds := [(16, 0x100000)] }
  -- 04_cirrus_microcode.md R189
  | .imgSrc => { base := 0x1020108, ds := [(16, 0x100000)], wide := true, rw := 0xffffffffffffffff }
  | .imgLen => { base := 0x1020110, ds := [(16, 0x100000)], rw := 0xffffffff }
  | .baseImageId => { base := 0x1020120, ds := [(16, 0x100000)] }
  | .custImageId => { base := 0x1020124, ds := [(16, 0x100000)] }
  | .imgSvn => { base := 0x1020128, ds := [(16, 0x100000)] }
  -- 04_cirrus_microcode.md R197
  | .csRdCtl => { base := 0x1020200, di := [(16, 0x100000)], rw := 0x7fff }
  | .csRdStatus => { base := 0x1020204, di := [(16, 0x100000)] }
  -- 04_cirrus_microcode.md R189
  | .csRdData => { base := 0x1020240, di := [(16, 0x100000)], dj := [(18, 0x4)] }
  | .csRdMark => { base := 0x1020290, di := [(16, 0x100000)] }
  | .dtabReg => { base := 0x1021000, di := [(16, 0x100000)], dj := [(4096, 0x4)] }
  | .kprofReg => { base := 0x1025000, di := [(16, 0x100000)], dj := [(64, 0x10), (4, 0x4)] }
  | .robStatus => { base := 0x1026000, di := [(16, 0x100000)] }
  -- 05_tables_versions_learning.md R246
  | .ttInflight => { base := 0x1040000, di := [(16, 0x100000)] }
  | .ttVersion => { base := 0x1040004, di := [(16, 0x100000)] }
  | .ttBank => { base := 0x1040008, di := [(16, 0x100000)] }
  | .ttParityCnt => { base := 0x1040010, di := [(16, 0x100000)], wide := true }
  | .ttRepairCnt => { base := 0x1040018, di := [(16, 0x100000)], wide := true }
  -- 06_buffering_anvil_backpressure.md R290
  | .bpmStatus => { base := 0x1060000, di := [(16, 0x100000)], rst := 0x10000 }
  | .bpmCtl => { base := 0x1060004, di := [(16, 0x100000)], rw := 0x3, rst := 0x3 }
  | .poolCfg => { base := 0x1060008, di := [(16, 0x100000)], rw := 0xfff0fff, rst := 0x1800100 }
  | .refillCfg => { base := 0x106000c, di := [(16, 0x100000)], rw := 0x1ffff, rst := 0x2000 }
  | .mcHold => { base := 0x1060010, di := [(16, 0x100000)], rw := 0x1ffff, rst := 0x3e8 }
  | .voqCtl => { base := 0x1060014, di := [(16, 0x100000)], rw := 0x7fff }
  | .voqData0 => { base := 0x1060018, di := [(16, 0x100000)] }
  -- 06_buffering_anvil_backpressure.md R289
  | .voqData1 => { base := 0x106001c, di := [(16, 0x100000)] }
  | .bpmRsvd => { base := 0x1060020, di := [(16, 0x100000)] }
  | .dropCnt => { base := 0x1060100, di := [(16, 0x100000)], dj := [(18, 0x8)], wide := true }
  | .dropUcode => { base := 0x1060200, di := [(16, 0x100000)], wide := true }
  | .cntStomp => { base := 0x1060208, di := [(16, 0x100000)], wide := true }
  | .cntMcSkip => { base := 0x1060210, di := [(16, 0x100000)], wide := true }
  | .cntDoubleFree => { base := 0x1060218, di := [(16, 0x100000)], wide := true }
  | .cntCt => { base := 0x1060220, di := [(16, 0x100000)], wide := true }
  -- 06_buffering_anvil_backpressure.md R291
  | .pfcCfg => { base := 0x1060400, di := [(16, 0x100000), (32, 0x20)], rw := 0x7ff }
  | .maxFrame => { base := 0x1060404, di := [(16, 0x100000), (32, 0x20)], rw := 0x3fff, rst := 0x2400 }
  | .portMacLo => { base := 0x1060408, di := [(16, 0x100000), (32, 0x20)], rw := 0xffffffff }
  | .portMacHi => { base := 0x106040c, di := [(16, 0x100000), (32, 0x20)], rw := 0xffff }
  | .pfcTimer => { base := 0x1060410, di := [(16, 0x100000), (32, 0x20)], rw := 0xffff, rst := 0xffff }
  | .pgCfg0 => { base := 0x1060800, di := [(16, 0x100000), (32, 0x80)], dj := [(8, 0x10)], rw := 0xffffffff, rst := 0x1800200 }
  | .pgCfg1 => { base := 0x1060804, di := [(16, 0x100000), (32, 0x80)], dj := [(8, 0x10)], rw := 0xffff }
  | .pgCfg2 => { base := 0x1060808, di := [(16, 0x100000), (32, 0x80)], dj := [(8, 0x10)], rw := 0x1ffff, rst := 0x1000 }
  | .pgCfg3 => { base := 0x106080c, di := [(16, 0x100000), (32, 0x80)], dj := [(8, 0x10)], rw := 0xffffffff, rst := 0x3000400 }
  | .pgStatus0 => { base := 0x1061800, di := [(16, 0x100000), (32, 0x80)], dj := [(8, 0x10)] }
  | .pgStatus1 => { base := 0x1061804, di := [(16, 0x100000), (32, 0x80)], dj := [(8, 0x10)] }
  | .pgStatus2 => { base := 0x1061808, di := [(16, 0x100000), (32, 0x80)], dj := [(8, 0x10)] }
  | .pgStatus3 => { base := 0x106180c, di := [(16, 0x100000), (32, 0x80)], dj := [(8, 0x10)] }
  -- 06_buffering_anvil_backpressure.md R292
  | .voqProf0 => { base := 0x1062800, di := [(16, 0x100000)], dj := [(16, 0x10)], rw := 0xffffffff, rst := 0x1000200 }
  | .voqProf1 => { base := 0x1062804, di := [(16, 0x100000)], dj := [(16, 0x10)], rw := 0x7ffffff, rst := 0x4004000 }
  | .voqSel => { base := 0x1062c00, di := [(16, 0x100000)], dj := [(512, 0x4)], rw := 0xffffffff }
  | .egrCfg0 => { base := 0x1063400, di := [(16, 0x100000), (32, 0x10)], rw := 0x3fff, rst := 0x64 }
  | .egrCfg1 => { base := 0x1063404, di := [(16, 0x100000), (32, 0x10)], rw := 0x1fff }
  | .egrCfg2 => { base := 0x1063408, di := [(16, 0x100000), (32, 0x10)], rw := 0x1fffff, rst := 0x32000 }
  | .mcCmd => { base := 0x1063800, ds := [(16, 0x100000)], rw := 0x3f }
  | .mcIndex => { base := 0x1063804, ds := [(16, 0x100000)], rw := 0x1ffff }
  | .mcStatus => { base := 0x1063808, ds := [(16, 0x100000)] }
  | .mcData0 => { base := 0x106380c, ds := [(16, 0x100000)], rw := 0xffffffff }
  | .mcData1 => { base := 0x1063810, ds := [(16, 0x100000)], rw := 0xffffffff }
  -- 07_egress_scheduling.md R330
  | .nbStatus => { base := 0x10a0000, di := [(16, 0x100000)], rst := 0x1000 }
  | .sampleCfg => { base := 0x10a0004, di := [(16, 0x100000)], rw := 0x1fffff, rst := 0x3e8 }
  -- 07_egress_scheduling.md R329
  | .cntWts => { base := 0x10a0010, di := [(16, 0x100000)], wide := true }
  | .cntGateTrunc => { base := 0x10a0018, di := [(16, 0x100000)], wide := true }
  -- 07_egress_scheduling.md R330
  | .portSched => { base := 0x10a0400, di := [(16, 0x100000), (32, 0x40)], rw := 0x3ffff, rst := 0x18014 }
  -- 07_egress_scheduling.md R331
  | .pshpCir => { base := 0x10a0404, di := [(16, 0x100000), (32, 0x40)], rw := 0x803fffff }
  | .pshpPir => { base := 0x10a0408, di := [(16, 0x100000), (32, 0x40)], rw := 0x803fffff }
  | .pshpCbs => { base := 0x10a040c, di := [(16, 0x100000), (32, 0x40)], rw := 0xffffff, rst := 0x4000 }
  | .pshpPbs => { base := 0x10a0410, di := [(16, 0x100000), (32, 0x40)], rw := 0xffffff, rst := 0x4000 }
  -- 07_egress_scheduling.md R332
  | .gateCfg => { base := 0x10a0414, di := [(16, 0x100000), (32, 0x40)], rw := 0xfffffdf, rst := 0x1900000 }
  | .gateStatus => { base := 0x10a0418, di := [(16, 0x100000), (32, 0x40)], rst := 0x3fc00 }
  -- 07_egress_scheduling.md R333
  | .qsched => { base := 0x10a1000, di := [(16, 0x100000), (32, 0x100)], dj := [(8, 0x20)], rw := 0x1ffff, rst := 0x1 }
  -- 07_egress_scheduling.md R331
  | .qshpCir => { base := 0x10a1004, di := [(16, 0x100000), (32, 0x100)], dj := [(8, 0x20)], rw := 0x803fffff }
  | .qshpPir => { base := 0x10a1008, di := [(16, 0x100000), (32, 0x100)], dj := [(8, 0x20)], rw := 0x803fffff }
  | .qshpCbs => { base := 0x10a100c, di := [(16, 0x100000), (32, 0x100)], dj := [(8, 0x20)], rw := 0xffffff, rst := 0x4000 }
  | .qshpPbs => { base := 0x10a1010, di := [(16, 0x100000), (32, 0x100)], dj := [(8, 0x20)], rw := 0xffffff, rst := 0x4000 }
  -- 07_egress_scheduling.md R333
  | .qstatus => { base := 0x10a1014, di := [(16, 0x100000), (32, 0x100)], dj := [(8, 0x20)], rst := 0xc }
  | .maxwin => { base := 0x10a1018, di := [(16, 0x100000), (32, 0x100)], dj := [(8, 0x20)] }
  | .gcl => { base := 0x10b0000, di := [(16, 0x100000), (32, 0x800)], dj := [(2, 0x400), (256, 0x4)], rw := 0xffffffff }
  -- 02_lanes_ports_links.md R76
  | .chipletId => { base := 0x2000000, di := [(8, 0x100000)] }
  -- 02_lanes_ports_links.md R77
  | .txgrpCfg => { base := 0x2000004, di := [(8, 0x100000)], rw := 0xff }
  -- 02_lanes_ports_links.md R79
  | .portCfg => { base := 0x2001000, di := [(8, 0x100000), (64, 0x40)], rw := 0xffffff, rst := 0xa29fc0 }
  -- 02_lanes_ports_links.md R80
  | .portStatus => { base := 0x2001004, di := [(8, 0x100000), (64, 0x40)] }
  -- 02_lanes_ports_links.md R81
  | .portLps => { base := 0x2001008, di := [(8, 0x100000), (64, 0x40)], rw := 0x7ff, rst := 0xc8 }
  -- 02_lanes_ports_links.md R78
  | .anLocal => { base := 0x200100c, di := [(8, 0x100000), (64, 0x40)] }
  | .anPartner => { base := 0x2001010, di := [(8, 0x100000), (64, 0x40)] }
  | .fecCwCorr => { base := 0x2001018, di := [(8, 0x100000), (64, 0x40)], wide := true }
  | .fecCwUncorr => { base := 0x2001020, di := [(8, 0x100000), (64, 0x40)], wide := true }
  | .fecSymCorr => { base := 0x2001028, di := [(8, 0x100000), (64, 0x40)], wide := true }
  -- 02_lanes_ports_links.md R83
  | .laneCtl => { base := 0x2010000, di := [(8, 0x100000), (64, 0x400)], rw := 0x3f }
  -- 02_lanes_ports_links.md R84
  | .laneStatus => { base := 0x2010004, di := [(8, 0x100000), (64, 0x400)] }
  -- 02_lanes_ports_links.md R85
  | .txFfe => { base := 0x2010008, di := [(8, 0x100000), (64, 0x400)], rst := 0x400000 }
  -- 02_lanes_ports_links.md R86
  | .adaptCtl => { base := 0x201000c, di := [(8, 0x100000), (64, 0x400)], rw := 0xf }
  -- 02_lanes_ports_links.md R87
  | .eyeCtl => { base := 0x2010020, di := [(8, 0x100000), (64, 0x400)], rw := 0x3ffffe, rst := 0x280000 }
  -- 02_lanes_ports_links.md R88
  | .eyeResult => { base := 0x2010024, di := [(8, 0x100000), (64, 0x400)] }
  -- 02_lanes_ports_links.md R89
  | .prbsCtl => { base := 0x2010030, di := [(8, 0x100000), (64, 0x400)], rw := 0x1f7f, rst := 0x1000 }
  | .prbsStatus => { base := 0x2010034, di := [(8, 0x100000), (64, 0x400)], w1c := 0x2 }
  -- 02_lanes_ports_links.md R82
  | .prbsErr => { base := 0x2010038, di := [(8, 0x100000), (64, 0x400)], wide := true }
  | .eqHist => { base := 0x2010100, di := [(8, 0x100000), (64, 0x400)], dj := [(32, 0x4)], rw := 0xffffffff }
  -- 02_lanes_ports_links.md R91
  | .cageCfg => { base := 0x2080000, di := [(128, 0x4)], rw := 0x3fffffff, rst := 0x100000 }
  -- 02_lanes_ports_links.md R92
  | .cageStatus => { base := 0x2080400, di := [(128, 0x4)] }
  -- 02_lanes_ports_links.md R93
  | .fpI2cCfg => { base := 0x2080800, di := [(4, 0x4)], rw := 0x3f3, rst := 0xa1 }
  -- 02_lanes_ports_links.md R94
  | .modAccCtl => { base := 0x2081000, di := [(4, 0x200)], rw := 0x7fffffff }
  -- 02_lanes_ports_links.md R90
  | .modAccBank => { base := 0x2081004, di := [(4, 0x200)], rw := 0xff }
  -- 02_lanes_ports_links.md R94
  | .modAccStatus => { base := 0x2081008, di := [(4, 0x200)] }
  -- 02_lanes_ports_links.md R90
  | .modAccBuf => { base := 0x2081100, di := [(4, 0x200)], dj := [(32, 0x4)], rw := 0xffffffff }
  -- 02_lanes_ports_links.md R95
  | .ledCfg => { base := 0x2082000, rw := 0x7fff, rst := 0x1b1a }
  -- 02_lanes_ports_links.md R90
  | .ledLocate => { base := 0x2082100, di := [(16, 0x4)], rw := 0xffffffff }
  -- 06_buffering_anvil_backpressure.md R294
  | .anvilCtl => { base := 0x2800000, rw := 0x1, rst := 0x1 }
  | .anvilStatus => { base := 0x2800004 }
  -- 06_buffering_anvil_backpressure.md R293
  | .chActive => { base := 0x2800008 }
  | .grpFree => { base := 0x2800010, di := [(8, 0x4)] }
  -- 06_buffering_anvil_backpressure.md R294
  | .anvChStatus => { base := 0x2800040, di := [(32, 0x4)] }
  -- 06_buffering_anvil_backpressure.md R293
  | .cntSpillBytes => { base := 0x2800100, wide := true }
  | .cntRefillBytes => { base := 0x2800108, wide := true }
  | .cntPagesAlloc => { base := 0x2800110, wide := true }
  | .cntEdcRetry => { base := 0x2800118, wide := true }
  | .cntDataErr => { base := 0x2800120, wide := true }
  | .cntPageDoubleFree => { base := 0x2800128, wide := true }
  | .cntSpillWait => { base := 0x2800130, wide := true }
  -- 08_halo_telemetry_counters.md R366
  | .pcVal => { base := 0x3000000, di := [(16, 0x60000)], dj := [(2048, 0x8)], wide := true }
  -- 08_halo_telemetry_counters.md R367
  | .pcCfg => { base := 0x3004000, di := [(16, 0x60000)], dj := [(2048, 0x4)], rw := 0xffffff }
  -- 08_halo_telemetry_counters.md R366
  | .pcOvf => { base := 0x3006000, di := [(16, 0x60000)], dj := [(64, 0x4)], w1c := 0xffffffff }
  | .snapVal => { base := 0x3008000, di := [(16, 0x60000)], dj := [(2048, 0x8)], wide := true }
  | .snapOvf => { base := 0x300c000, di := [(16, 0x60000)], dj := [(64, 0x4)] }
  | .statOvf => { base := 0x300d000, di := [(16, 0x60000)], dj := [(512, 0x4)], w1c := 0xffffffff }
  | .histClass => { base := 0x3010000, di := [(16, 0x60000), (32, 0x1000)], dj := [(8, 0x200), (4, 0x80), (32, 0x4)] }
  | .histPort => { base := 0x3030000, di := [(16, 0x60000), (32, 0x100)], dj := [(2, 0x80), (32, 0x4)] }
  | .wrapClass => { base := 0x3034000, di := [(16, 0x60000), (32, 0x80)], dj := [(8, 0x10), (4, 0x4)], w1c := 0xffffffff }
  | .wrapPort => { base := 0x3035000, di := [(16, 0x60000), (32, 0x8)], dj := [(2, 0x4)], w1c := 0xffffffff }
  | .statCnt => { base := 0x3040000, di := [(16, 0x60000)], dj := [(8192, 0x10), (2, 0x8)], wide := true }
  -- 08_halo_telemetry_counters.md R368
  | .haloStatus => { base := 0x3600000 }
  | .flowCfg => { base := 0x3600004, rw := 0x3fff, rst := 0x2 }
  | .flowTmo => { base := 0x3600008, rw := 0xffffffff, rst := 0x3c3a98 }
  -- 08_halo_telemetry_counters.md R366
  | .flowSeed => { base := 0x360000c, rw := 0xffffffff }
  -- 08_halo_telemetry_counters.md R368
  | .flowCmd => { base := 0x3600010 }
  | .epochCfg => { base := 0x3600014, rw := 0x1f }
  -- 08_halo_telemetry_counters.md R366
  | .epochNum => { base := 0x3600018, wide := true }
  -- 08_halo_telemetry_counters.md R368
  | .histCfg => { base := 0x3600020, rw := 0xfffff, rst := 0x280 }
  | .histCmd => { base := 0x3600024 }
  -- 08_halo_telemetry_counters.md R366
  | .ovfLatch => { base := 0x3600028 }
  -- 08_halo_telemetry_counters.md R367
  | .statCmd => { base := 0x360002c }
  -- 08_halo_telemetry_counters.md R366
  | .cntFlowExported => { base := 0x3600040, wide := true }
  | .cntFlowLost => { base := 0x3600048, wide := true }
  | .cntCapLost => { base := 0x3600050, wide := true }
  | .cntHistLost => { base := 0x3600058, wide := true }
  | .cntStatRange => { base := 0x3600060, wide := true }
  | .cntIoamSkip => { base := 0x3600068, wide := true }
  | .cntBar4Wr => { base := 0x3600070, wide := true }
  -- 08_halo_telemetry_counters.md R369
  | .mirrorCfg => { base := 0x3600100, di := [(64, 0x10)], rw := 0xfffff, rst := 0x80000 }
  | .mirrorN => { base := 0x3600104, di := [(64, 0x10)], rw := 0xffffff, rst := 0x1 }
  | .mirrorRate => { base := 0x3600108, di := [(64, 0x10)], rw := 0xffff }
  | .portMirror => { base := 0x3600800, di := [(512, 0x4)], rw := 0x3fff }
  | .ioam0 => { base := 0x3601000, di := [(512, 0x10)], rw := 0xffffffff, rst := 0x500000 }
  | .ioam1 => { base := 0x3601004, di := [(512, 0x10)], rw := 0xffffff }
  | .ioam2 => { base := 0x3601008, di := [(512, 0x10)], rw := 0xffffff }
  | .ioam3 => { base := 0x360100c, di := [(512, 0x10)], rw := 0xffffffff }
  | .grpCtl => { base := 0x3603000, di := [(256, 0x4)], rw := 0x7 }
  -- 05_tables_versions_learning.md R244
  | .teStatus => { base := 0x3800000, rst := 0x1 }
  | .teCtl => { base := 0x3800004, rw := 0x7, rst := 0x5 }
  | .verStatus => { base := 0x3800008 }
  -- 05_tables_versions_learning.md R243
  | .emSeed => { base := 0x3800010, rw := 0xffffffff }
  -- 05_tables_versions_learning.md R244
  | .ageTick => { base := 0x3800014, rw := 0xffff, rst := 0x3e8 }
  -- 05_tables_versions_learning.md R243
  | .ageNow => { base := 0x3800018 }
  -- 05_tables_versions_learning.md R244
  | .lpmCfg => { base := 0x380001c, rw := 0x3 }
  -- 05_tables_versions_learning.md R243
  | .teCmd0 => { base := 0x3800020, rw := 0x7ffff3f }
  | .teIndex => { base := 0x3800024, rw := 0xffffffff }
  -- 05_tables_versions_learning.md R244
  | .teCmdStatus => { base := 0x3800028 }
  -- 05_tables_versions_learning.md R243
  | .teLen => { base := 0x380002c, rw := 0x1ff }
  | .teGo => { base := 0x3800030 }
  | .lpmUsed => { base := 0x3800040 }
  | .teData => { base := 0x3800100, di := [(64, 0x4)], rw := 0xffffffff }
  -- 05_tables_versions_learning.md R245
  | .tblCfg0 => { base := 0x3800400, di := [(8, 0x10)], rw := 0x1fffff7f }
  | .tblCfg1 => { base := 0x3800404, di := [(8, 0x10)], rw := 0x7fff, rst := 0x12c }
  | .tblCfg2 => { base := 0x3800408, di := [(8, 0x10)] }
  | .tcamCfg => { base := 0x3800480, di := [(4, 0x4)], rw := 0x7f3f }
  | .learnCfg => { base := 0x3800800, di := [(512, 0x4)], rw := 0x3fffff }
  -- 05_tables_versions_learning.md R243
  | .learnCount => { base := 0x3801000, di := [(512, 0x4)] }
  | .cntLearned => { base := 0x3802000, wide := true }
  | .cntLearnDup => { base := 0x3802008, wide := true }
  | .cntLearnLimit => { base := 0x3802010, wide := true }
  | .cntLearnNospace => { base := 0x3802018, wide := true }
  | .cntLearnConflict => { base := 0x3802020, wide := true }
  | .cntDpDiscard => { base := 0x3802028, wide := true }
  | .cntAged => { base := 0x3802030, wide := true }
  | .cntCommits => { base := 0x3802038, wide := true }

/-- Every register name, for the search of the map. -/
def allRegs0 : List RName := [
  .devId, .dawnStatus, .bootSvn, .bootSeq, .dawnMs, .resetCause, .resetCtl, .hzCfg,
  .flashCtl, .flashAddr, .flashStatus, .hzPort, .flashData, .sqStatus, .sqCtl, .firstMsg,
  .firstCtl, .cntMsg, .cntConseq, .cntMsgLost, .sqIrq, .errnStatus, .reactCfg, .retireCfg,
  .pend, .bistCtl, .bistUnit, .bistIndex, .bistStatus, .bistResult, .bistResIndex, .cntSlices,
  .cntBistFail, .cntBistSkip, .spareTile, .spareXlink, .spareCells, .spareLane, .spareAnvil, .pwrStatus,
  .pwrCfg, .pcap, .pcapEff, .vinMv, .iinMa, .pinW, .energyMj, .poweredHours,
  .vcore, .thermCfg, .thermStatus, .socCfg, .socStatus, .socVinMv, .socIinMa, .cntOpChange,
  .cntLimit, .cntCapUnmet, .cntThermStep, .ageMilestone]
def allRegs1 : List RName := [
  .pLeak, .temp, .vtab, .timeStatus, .incr, .nowFrac, .nowNs, .nowSecLo,
  .nowSecHi, .adjFrac, .adjNs, .adjSecLo, .adjSecHi, .adjOff, .adjCmd, .ppsCfg,
  .trigCtl, .trigStatus, .startNs, .startSec, .periodNs, .capCfg, .capStatus, .capFrac,
  .capNs, .capSecLo, .capSecHi, .ptpCfg, .tsAdj, .fnRights, .fnCfg, .fnStatus,
  .violAddr, .violCnt, .evRoute, .cntEvLost, .cntEvDiscard, .cntForeignWr, .cntDbIgnored, .hwinW0,
  .hwinW1, .hwinW2, .hwinW3, .ringOwner, .ringBase, .ringCtl, .ringIrq, .ringStatus,
  .ringErr, .ringHead, .ringTail, .cntCqFull, .msixTable, .msixPba, .dmaStatus, .dmaSwreq,
  .chOwner, .chCtl, .chProg, .chStatus]
def allRegs2 : List RName := [
  .chPc, .chSrc, .chDst, .chLen, .chLoop, .chFault, .chWinW0, .chWinW1,
  .chWinW2, .chWinW3, .bnStatus, .bnCmd, .bnArg, .bnResult, .bnCfg, .bnIgnored,
  .nonce, .bnMeas, .arbCtr, .ownerStatus, .devKeyId, .ownerKeyId, .tblCommits, .inBuf,
  .outBuf, .inBuf2, .zenStatus, .zenRseq, .zenDelivered, .zenCfg, .zenKeyId, .authKeyId,
  .zcmdSeq, .ignEdges, .romVer, .mapDigest, .zenBytes, .zenFrames, .zenMap, .parseStatus,
  .clsCtl, .cntTrunc, .cntMalformed, .cntLimitExc, .cntNoPtype, .cntNoEntry, .hashCfg, .hashSeed,
  .polIdx, .polCmd, .polStatus, .polData, .portCls, .pcpMap, .dscpMap, .stateTab,
  .baseTcam, .custTcam0, .custTcam1, .ptypeTcam0]
def allRegs3 : List RName := [
  .ptypeTcam1, .entryTab0, .entryTab1, .cirrusStatus, .cirrusCtl, .excRing, .pipeStatus, .cntRestart,
  .cntExcCirrus, .cntRecirc, .cntViol, .cntExcDrop, .imgCtl, .imgStatus, .imgSrc, .imgLen,
  .baseImageId, .custImageId, .imgSvn, .csRdCtl, .csRdStatus, .csRdData, .csRdMark, .dtabReg,
  .kprofReg, .robStatus, .ttInflight, .ttVersion, .ttBank, .ttParityCnt, .ttRepairCnt, .bpmStatus,
  .bpmCtl, .poolCfg, .refillCfg, .mcHold, .voqCtl, .voqData0, .voqData1, .bpmRsvd,
  .dropCnt, .dropUcode, .cntStomp, .cntMcSkip, .cntDoubleFree, .cntCt, .pfcCfg, .maxFrame,
  .portMacLo, .portMacHi, .pfcTimer, .pgCfg0, .pgCfg1, .pgCfg2, .pgCfg3, .pgStatus0,
  .pgStatus1, .pgStatus2, .pgStatus3, .voqProf0]
def allRegs4 : List RName := [
  .voqProf1, .voqSel, .egrCfg0, .egrCfg1, .egrCfg2, .mcCmd, .mcIndex, .mcStatus,
  .mcData0, .mcData1, .nbStatus, .sampleCfg, .cntWts, .cntGateTrunc, .portSched, .pshpCir,
  .pshpPir, .pshpCbs, .pshpPbs, .gateCfg, .gateStatus, .qsched, .qshpCir, .qshpPir,
  .qshpCbs, .qshpPbs, .qstatus, .maxwin, .gcl, .chipletId, .txgrpCfg, .portCfg,
  .portStatus, .portLps, .anLocal, .anPartner, .fecCwCorr, .fecCwUncorr, .fecSymCorr, .laneCtl,
  .laneStatus, .txFfe, .adaptCtl, .eyeCtl, .eyeResult, .prbsCtl, .prbsStatus, .prbsErr,
  .eqHist, .cageCfg, .cageStatus, .fpI2cCfg, .modAccCtl, .modAccBank, .modAccStatus, .modAccBuf,
  .ledCfg, .ledLocate, .anvilCtl, .anvilStatus]
def allRegs5 : List RName := [
  .chActive, .grpFree, .anvChStatus, .cntSpillBytes, .cntRefillBytes, .cntPagesAlloc, .cntEdcRetry, .cntDataErr,
  .cntPageDoubleFree, .cntSpillWait, .pcVal, .pcCfg, .pcOvf, .snapVal, .snapOvf, .statOvf,
  .histClass, .histPort, .wrapClass, .wrapPort, .statCnt, .haloStatus, .flowCfg, .flowTmo,
  .flowSeed, .flowCmd, .epochCfg, .epochNum, .histCfg, .histCmd, .ovfLatch, .statCmd,
  .cntFlowExported, .cntFlowLost, .cntCapLost, .cntHistLost, .cntStatRange, .cntIoamSkip, .cntBar4Wr, .mirrorCfg,
  .mirrorN, .mirrorRate, .portMirror, .ioam0, .ioam1, .ioam2, .ioam3, .grpCtl,
  .teStatus, .teCtl, .verStatus, .emSeed, .ageTick, .ageNow, .lpmCfg, .teCmd0,
  .teIndex, .teCmdStatus, .teLen, .teGo]
def allRegs6 : List RName := [
  .lpmUsed, .teData, .tblCfg0, .tblCfg1, .tblCfg2, .tcamCfg, .learnCfg, .learnCount,
  .cntLearned, .cntLearnDup, .cntLearnLimit, .cntLearnNospace, .cntLearnConflict, .cntDpDiscard, .cntAged, .cntCommits]
/-- Every register name, for the search of the map. -/
def allRegs : List RName := allRegs0 ++ allRegs1 ++ allRegs2 ++ allRegs3 ++ allRegs4 ++ allRegs5 ++ allRegs6

/-- A field of a register: its register and its bits `hi` down to `lo`. -/
structure Fld where
  reg : RName
  hi : Nat
  lo : Nat
  deriving DecidableEq, Repr

namespace F
def devId_PART : Fld := ⟨.devId, 15, 0⟩
def devId_STEPPING : Fld := ⟨.devId, 23, 16⟩
def dawnStatus_STEP : Fld := ⟨.dawnStatus, 3, 0⟩
def dawnStatus_READY : Fld := ⟨.dawnStatus, 4, 4⟩
def dawnStatus_HORIZON : Fld := ⟨.dawnStatus, 5, 5⟩
def dawnStatus_HZ_CAUSE : Fld := ⟨.dawnStatus, 8, 6⟩
def dawnStatus_NOFWD : Fld := ⟨.dawnStatus, 9, 9⟩
def dawnStatus_SLOT : Fld := ⟨.dawnStatus, 10, 10⟩
def dawnStatus_SLOT_A_BAD : Fld := ⟨.dawnStatus, 11, 11⟩
def dawnStatus_SLOT_B_BAD : Fld := ⟨.dawnStatus, 12, 12⟩
def dawnStatus_HALT : Fld := ⟨.dawnStatus, 13, 13⟩
def bootSvn_V : Fld := ⟨.bootSvn, 7, 0⟩
def dawnMs_V : Fld := ⟨.dawnMs, 15, 0⟩
def resetCause_CAUSES : Fld := ⟨.resetCause, 6, 0⟩
def resetCause_LAST : Fld := ⟨.resetCause, 10, 8⟩
def resetCtl_CMD : Fld := ⟨.resetCtl, 1, 0⟩
def resetCtl_KEY : Fld := ⟨.resetCtl, 15, 8⟩
def hzCfg_LL_EN : Fld := ⟨.hzCfg, 0, 0⟩
def hzCfg_LL_PRI : Fld := ⟨.hzCfg, 3, 1⟩
def hzCfg_HZ_REQ : Fld := ⟨.hzCfg, 8, 8⟩
def flashCtl_OP : Fld := ⟨.flashCtl, 1, 0⟩
def flashCtl_GO : Fld := ⟨.flashCtl, 31, 31⟩
def flashAddr_V : Fld := ⟨.flashAddr, 22, 0⟩
def flashStatus_BUSY : Fld := ⟨.flashStatus, 0, 0⟩
def flashStatus_RESULT : Fld := ⟨.flashStatus, 3, 1⟩
def hzPort_PVID : Fld := ⟨.hzPort, 11, 0⟩
def hzPort_UNTAG_PVID : Fld := ⟨.hzPort, 12, 12⟩
def hzPort_PAUSE_MODE : Fld := ⟨.hzPort, 14, 13⟩
def hzPort_FWD_EN : Fld := ⟨.hzPort, 15, 15⟩
def hzPort_EN : Fld := ⟨.hzPort, 16, 16⟩
def hzPort_WIDTH : Fld := ⟨.hzPort, 18, 17⟩
def sqStatus_FIRST_VALID : Fld := ⟨.sqStatus, 0, 0⟩
def sqStatus_OVERFLOW : Fld := ⟨.sqStatus, 1, 1⟩
def sqStatus_FACTORY : Fld := ⟨.sqStatus, 2, 2⟩
def sqStatus_MASK_ACTIVE : Fld := ⟨.sqStatus, 3, 3⟩
def sqStatus_OSC_FALLBACK : Fld := ⟨.sqStatus, 4, 4⟩
def sqCtl_LATCH_SEV : Fld := ⟨.sqCtl, 2, 0⟩
def firstCtl_REARM : Fld := ⟨.firstCtl, 0, 0⟩
def sqIrq_VECTOR : Fld := ⟨.sqIrq, 7, 0⟩
def sqIrq_EN : Fld := ⟨.sqIrq, 8, 8⟩
def sqIrq_URG_VECTOR : Fld := ⟨.sqIrq, 16, 9⟩
def sqIrq_URG_PEND : Fld := ⟨.sqIrq, 17, 17⟩
def errnStatus_SRC : Fld := ⟨.errnStatus, 5, 0⟩
def errnStatus_HALT : Fld := ⟨.errnStatus, 6, 6⟩
def reactCfg_ACT : Fld := ⟨.reactCfg, 4, 0⟩
def reactCfg_LOCK : Fld := ⟨.reactCfg, 31, 31⟩
def retireCfg_RETIRE_EN : Fld := ⟨.retireCfg, 0, 0⟩
def retireCfg_RETIRE_N : Fld := ⟨.retireCfg, 3, 1⟩
def retireCfg_RETIRE_WIN_S : Fld := ⟨.retireCfg, 13, 4⟩
def bistCtl_CMD : Fld := ⟨.bistCtl, 1, 0⟩
def bistCtl_CLASS_MASK : Fld := ⟨.bistCtl, 9, 2⟩
def bistCtl_TRIG_EN : Fld := ⟨.bistCtl, 10, 10⟩
def bistCtl_TRIG : Fld := ⟨.bistCtl, 14, 11⟩
def bistCtl_GAP_MS : Fld := ⟨.bistCtl, 24, 15⟩
def bistUnit_CLASS : Fld := ⟨.bistUnit, 3, 0⟩
def bistUnit_DOMAIN : Fld := ⟨.bistUnit, 7, 4⟩
def bistIndex_INDEX : Fld := ⟨.bistIndex, 24, 0⟩
def bistStatus_TILE_BUSY : Fld := ⟨.bistStatus, 15, 0⟩
def bistStatus_ANVIL_BUSY : Fld := ⟨.bistStatus, 16, 16⟩
def bistStatus_CHIPLET_BUSY : Fld := ⟨.bistStatus, 24, 17⟩
def bistStatus_PLAN : Fld := ⟨.bistStatus, 25, 25⟩
def bistResult_RESULT : Fld := ⟨.bistResult, 2, 0⟩
def bistResult_CLASS : Fld := ⟨.bistResult, 6, 3⟩
def bistResult_DOMAIN : Fld := ⟨.bistResult, 10, 7⟩
def bistResIndex_V : Fld := ⟨.bistResIndex, 24, 0⟩
def spareTile_PIPE_RETIRED : Fld := ⟨.spareTile, 8, 0⟩
def spareTile_TILE_RETIRED : Fld := ⟨.spareTile, 9, 9⟩
def spareTile_XLINK_LEFT : Fld := ⟨.spareTile, 11, 10⟩
def spareTile_REPAIR_LEFT : Fld := ⟨.spareTile, 14, 12⟩
def spareTile_UNUSABLE : Fld := ⟨.spareTile, 15, 15⟩
def spareTile_PIPE_STANDIN : Fld := ⟨.spareTile, 16, 16⟩
def spareXlink_RETIRED : Fld := ⟨.spareXlink, 25, 0⟩
def spareCells_WITHDRAWN : Fld := ⟨.spareCells, 16, 0⟩
def spareLane_RETIRED : Fld := ⟨.spareLane, 31, 0⟩
def spareAnvil_PAGES_RETIRED : Fld := ⟨.spareAnvil, 14, 0⟩
def spareAnvil_CH_RETIRED : Fld := ⟨.spareAnvil, 15, 15⟩
def pwrStatus_CUR_OP : Fld := ⟨.pwrStatus, 2, 0⟩
def pwrStatus_THROTTLED : Fld := ⟨.pwrStatus, 3, 3⟩
def pwrStatus_CAP_UNMET : Fld := ⟨.pwrStatus, 4, 4⟩
def pwrStatus_STARTUP : Fld := ⟨.pwrStatus, 5, 5⟩
def pwrStatus_LIMIT_HOLD : Fld := ⟨.pwrStatus, 6, 6⟩
def pwrStatus_TRANSITION : Fld := ⟨.pwrStatus, 7, 7⟩
def pwrStatus_SLOW_CAUSE : Fld := ⟨.pwrStatus, 11, 8⟩
def pwrStatus_ANVIL_OFF : Fld := ⟨.pwrStatus, 12, 12⟩
def pwrStatus_HORIZON : Fld := ⟨.pwrStatus, 13, 13⟩
def pwrCfg_OP_MAX : Fld := ⟨.pwrCfg, 2, 0⟩
def pwrCfg_HYST_PCT : Fld := ⟨.pwrCfg, 6, 3⟩
def pwrCfg_WIN_MS : Fld := ⟨.pwrCfg, 13, 7⟩
def pwrCfg_GRACE_MS : Fld := ⟨.pwrCfg, 27, 14⟩
def pwrCfg_UNMET_ACT : Fld := ⟨.pwrCfg, 28, 28⟩
def pwrCfg_ANVIL_PD : Fld := ⟨.pwrCfg, 29, 29⟩
def pcap_WATTS : Fld := ⟨.pcap, 10, 0⟩
def pcapEff_V : Fld := ⟨.pcapEff, 10, 0⟩
def vinMv_V : Fld := ⟨.vinMv, 15, 0⟩
def iinMa_V : Fld := ⟨.iinMa, 15, 0⟩
def pinW_V : Fld := ⟨.pinW, 11, 0⟩
def vcore_MV : Fld := ⟨.vcore, 11, 0⟩
def vcore_BAND : Fld := ⟨.vcore, 14, 12⟩
def vcore_AGE_COL : Fld := ⟨.vcore, 17, 15⟩
def thermCfg_THROTTLE_C : Fld := ⟨.thermCfg, 7, 0⟩
def thermCfg_CRIT_C : Fld := ⟨.thermCfg, 15, 8⟩
def thermStatus_TJ_HOT : Fld := ⟨.thermStatus, 7, 0⟩
def thermStatus_SENSOR : Fld := ⟨.thermStatus, 14, 8⟩
def thermStatus_THROTTLING : Fld := ⟨.thermStatus, 15, 15⟩
def thermStatus_CRIT : Fld := ⟨.thermStatus, 16, 16⟩
def thermStatus_TRIP : Fld := ⟨.thermStatus, 17, 17⟩
def socCfg_EN : Fld := ⟨.socCfg, 0, 0⟩
def socCfg_TRIG : Fld := ⟨.socCfg, 4, 1⟩
def socStatus_SEQ : Fld := ⟨.socStatus, 15, 0⟩
def socStatus_BUSY : Fld := ⟨.socStatus, 16, 16⟩
def socVinMv_V : Fld := ⟨.socVinMv, 15, 0⟩
def socIinMa_V : Fld := ⟨.socIinMa, 15, 0⟩
def pLeak_V : Fld := ⟨.pLeak, 10, 0⟩
def temp_DEG_C : Fld := ⟨.temp, 7, 0⟩
def temp_VALID : Fld := ⟨.temp, 8, 8⟩
def vtab_V : Fld := ⟨.vtab, 11, 0⟩
def timeStatus_SET : Fld := ⟨.timeStatus, 0, 0⟩
def nowNs_V : Fld := ⟨.nowNs, 29, 0⟩
def nowSecHi_V : Fld := ⟨.nowSecHi, 15, 0⟩
def adjNs_V : Fld := ⟨.adjNs, 29, 0⟩
def adjSecHi_V : Fld := ⟨.adjSecHi, 15, 0⟩
def adjCmd_CMD : Fld := ⟨.adjCmd, 1, 0⟩
def ppsCfg_EN : Fld := ⟨.ppsCfg, 0, 0⟩
def ppsCfg_TRIG : Fld := ⟨.ppsCfg, 4, 1⟩
def ppsCfg_WIDTH_US : Fld := ⟨.ppsCfg, 20, 5⟩
def ppsCfg_PPS_DLY : Fld := ⟨.ppsCfg, 31, 21⟩
def trigCtl_MODE : Fld := ⟨.trigCtl, 1, 0⟩
def trigCtl_ARM : Fld := ⟨.trigCtl, 2, 2⟩
def trigStatus_ARMED : Fld := ⟨.trigStatus, 0, 0⟩
def trigStatus_LATE : Fld := ⟨.trigStatus, 1, 1⟩
def trigStatus_FIRED : Fld := ⟨.trigStatus, 15, 2⟩
def trigStatus_SKIPPED : Fld := ⟨.trigStatus, 31, 16⟩
def startNs_NS : Fld := ⟨.startNs, 29, 0⟩
def periodNs_PERIOD : Fld := ⟨.periodNs, 29, 0⟩
def capCfg_EN : Fld := ⟨.capCfg, 0, 0⟩
def capCfg_EDGE : Fld := ⟨.capCfg, 2, 1⟩
def capCfg_SRC : Fld := ⟨.capCfg, 3, 3⟩
def capStatus_LEVEL : Fld := ⟨.capStatus, 4, 0⟩
def capStatus_OVF : Fld := ⟨.capStatus, 5, 5⟩
def capFrac_FRAC : Fld := ⟨.capFrac, 1, 0⟩
def capFrac_VALID : Fld := ⟨.capFrac, 31, 31⟩
def capNs_NS : Fld := ⟨.capNs, 29, 0⟩
def capSecHi_V : Fld := ⟨.capSecHi, 15, 0⟩
def ptpCfg_ONESTEP_EN : Fld := ⟨.ptpCfg, 0, 0⟩
def ptpCfg_TC_EN : Fld := ⟨.ptpCfg, 1, 1⟩
def tsAdj_RX_ADJ : Fld := ⟨.tsAdj, 15, 0⟩
def tsAdj_TX_ADJ : Fld := ⟨.tsAdj, 31, 16⟩
def fnRights_V : Fld := ⟨.fnRights, 8, 0⟩
def fnCfg_EVENT_RING : Fld := ⟨.fnCfg, 9, 0⟩
def fnCfg_EVENT_EN : Fld := ⟨.fnCfg, 10, 10⟩
def fnStatus_FROZEN : Fld := ⟨.fnStatus, 0, 0⟩
def fnStatus_FLR_BUSY : Fld := ⟨.fnStatus, 1, 1⟩
def fnStatus_KIND : Fld := ⟨.fnStatus, 4, 2⟩
def evRoute_RING : Fld := ⟨.evRoute, 9, 0⟩
def evRoute_EN : Fld := ⟨.evRoute, 10, 10⟩
def hwinW3_V : Fld := ⟨.hwinW3, 2, 0⟩
def ringOwner_OWNER : Fld := ⟨.ringOwner, 1, 0⟩
def ringOwner_TYPE : Fld := ⟨.ringOwner, 4, 2⟩
def ringCtl_SIZE_LOG2 : Fld := ⟨.ringCtl, 4, 0⟩
def ringCtl_CQ : Fld := ⟨.ringCtl, 14, 5⟩
def ringCtl_META : Fld := ⟨.ringCtl, 15, 15⟩
def ringCtl_TELEM_TMO : Fld := ⟨.ringCtl, 25, 16⟩
def ringCtl_EN : Fld := ⟨.ringCtl, 31, 31⟩
def ringIrq_VECTOR : Fld := ⟨.ringIrq, 7, 0⟩
def ringIrq_EN : Fld := ⟨.ringIrq, 8, 8⟩
def ringIrq_MOD_US : Fld := ⟨.ringIrq, 18, 9⟩
def ringIrq_MOD_CNT : Fld := ⟨.ringIrq, 25, 19⟩
def ringStatus_STATE : Fld := ⟨.ringStatus, 1, 0⟩
def ringStatus_CQ_STALL : Fld := ⟨.ringStatus, 2, 2⟩
def ringStatus_HOLD : Fld := ⟨.ringStatus, 9, 3⟩
def ringStatus_PREFETCHED : Fld := ⟨.ringStatus, 15, 10⟩
def ringErr_INDEX : Fld := ⟨.ringErr, 15, 0⟩
def ringErr_WRAP : Fld := ⟨.ringErr, 16, 16⟩
def ringErr_CAUSE : Fld := ⟨.ringErr, 19, 17⟩
def ringHead_IDX : Fld := ⟨.ringHead, 15, 0⟩
def ringHead_WRAP : Fld := ⟨.ringHead, 16, 16⟩
def ringTail_IDX : Fld := ⟨.ringTail, 15, 0⟩
def ringTail_WRAP : Fld := ⟨.ringTail, 16, 16⟩
def dmaSwreq_V : Fld := ⟨.dmaSwreq, 7, 0⟩
def chOwner_OWNER : Fld := ⟨.chOwner, 1, 0⟩
def chOwner_VALID : Fld := ⟨.chOwner, 2, 2⟩
def chCtl_CMD : Fld := ⟨.chCtl, 2, 0⟩
def chCtl_PROG_SPACE : Fld := ⟨.chCtl, 4, 3⟩
def chStatus_STATE : Fld := ⟨.chStatus, 2, 0⟩
def chStatus_DOWN : Fld := ⟨.chStatus, 3, 3⟩
def chStatus_PREEMPTED : Fld := ⟨.chStatus, 4, 4⟩
def chStatus_BUFFERED : Fld := ⟨.chStatus, 18, 5⟩
def chLen_LEN : Fld := ⟨.chLen, 31, 0⟩
def chLoop_LC : Fld := ⟨.chLoop, 31, 0⟩
def chFault_CAUSE : Fld := ⟨.chFault, 2, 0⟩
def chFault_LOOP_ACTIVE : Fld := ⟨.chFault, 7, 4⟩
def chWinW3_V : Fld := ⟨.chWinW3, 3, 0⟩
def bnStatus_BUSY : Fld := ⟨.bnStatus, 0, 0⟩
def bnStatus_FAULT : Fld := ⟨.bnStatus, 1, 1⟩
def bnCmd_CMD : Fld := ⟨.bnCmd, 3, 0⟩
def bnResult_RESULT : Fld := ⟨.bnResult, 3, 0⟩
def bnResult_ZEN_REASON : Fld := ⟨.bnResult, 11, 4⟩
def bnResult_OUT_LEN : Fld := ⟨.bnResult, 27, 16⟩
def bnCfg_TBL_MEAS : Fld := ⟨.bnCfg, 0, 0⟩
def arbCtr_V : Fld := ⟨.arbCtr, 23, 0⟩
def ownerStatus_ENROLLMENTS : Fld := ⟨.ownerStatus, 2, 0⟩
def ownerStatus_ENROLLED : Fld := ⟨.ownerStatus, 3, 3⟩
def ownerStatus_DEREAGOR_REVOKED : Fld := ⟨.ownerStatus, 7, 4⟩
def zenStatus_V : Fld := ⟨.zenStatus, 15, 0⟩
def zenCfg_V : Fld := ⟨.zenCfg, 27, 0⟩
def zenMap_V : Fld := ⟨.zenMap, 27, 0⟩
def parseStatus_GRAPH_ID : Fld := ⟨.parseStatus, 15, 0⟩
def parseStatus_BASE_LOADED : Fld := ⟨.parseStatus, 16, 16⟩
def parseStatus_ACTIVE_BANK : Fld := ⟨.parseStatus, 17, 17⟩
def clsCtl_CSUM_EN : Fld := ⟨.clsCtl, 0, 0⟩
def hashCfg_SYM : Fld := ⟨.hashCfg, 0, 0⟩
def hashCfg_INNER : Fld := ⟨.hashCfg, 1, 1⟩
def hashCfg_USE_VID : Fld := ⟨.hashCfg, 2, 2⟩
def hashCfg_USE_IPORT : Fld := ⟨.hashCfg, 3, 3⟩
def hashCfg_USE_QP : Fld := ⟨.hashCfg, 4, 4⟩
def hashCfg_USE_FLOWLBL : Fld := ⟨.hashCfg, 5, 5⟩
def polIdx_IDX : Fld := ⟨.polIdx, 15, 0⟩
def polCmd_OP : Fld := ⟨.polCmd, 1, 0⟩
def polStatus_BUSY : Fld := ⟨.polStatus, 0, 0⟩
def portCls_DEF_CLASS : Fld := ⟨.portCls, 2, 0⟩
def portCls_TRUST : Fld := ⟨.portCls, 4, 3⟩
def portCls_DSCP_PROF : Fld := ⟨.portCls, 8, 5⟩
def portCls_DEI_YELLOW : Fld := ⟨.portCls, 9, 9⟩
def portCls_POL_EN : Fld := ⟨.portCls, 10, 10⟩
def portCls_PORT_PROF : Fld := ⟨.portCls, 14, 11⟩
def portCls_POL_BASE : Fld := ⟨.portCls, 31, 16⟩
def pcpMap_V : Fld := ⟨.pcpMap, 23, 0⟩
def dscpMap_V : Fld := ⟨.dscpMap, 23, 0⟩
def entryTab0_V : Fld := ⟨.entryTab0, 16, 0⟩
def entryTab1_V : Fld := ⟨.entryTab1, 16, 0⟩
def cirrusStatus_PIPE_ACTIVE : Fld := ⟨.cirrusStatus, 8, 0⟩
def cirrusStatus_SPARE_FREE : Fld := ⟨.cirrusStatus, 9, 9⟩
def cirrusStatus_RELOADING : Fld := ⟨.cirrusStatus, 10, 10⟩
def cirrusCtl_VIOL_REPORT : Fld := ⟨.cirrusCtl, 0, 0⟩
def excRing_RING : Fld := ⟨.excRing, 9, 0⟩
def excRing_EN : Fld := ⟨.excRing, 15, 15⟩
def pipeStatus_ROLE : Fld := ⟨.pipeStatus, 2, 0⟩
def pipeStatus_STANDIN : Fld := ⟨.pipeStatus, 6, 3⟩
def imgCtl_CMD : Fld := ⟨.imgCtl, 1, 0⟩
def imgCtl_CLASS : Fld := ⟨.imgCtl, 2, 2⟩
def imgCtl_WITH_COMMIT : Fld := ⟨.imgCtl, 3, 3⟩
def imgCtl_CANCEL : Fld := ⟨.imgCtl, 4, 4⟩
def imgStatus_BUSY : Fld := ⟨.imgStatus, 0, 0⟩
def imgStatus_RESULT : Fld := ⟨.imgStatus, 3, 1⟩
def imgStatus_STAGED_BASE : Fld := ⟨.imgStatus, 4, 4⟩
def imgStatus_STAGED_CUST : Fld := ⟨.imgStatus, 5, 5⟩
def imgStatus_CUST_ACTIVE : Fld := ⟨.imgStatus, 6, 6⟩
def imgStatus_ARMED : Fld := ⟨.imgStatus, 7, 7⟩
def imgSvn_V : Fld := ⟨.imgSvn, 15, 0⟩
def csRdCtl_ADDR : Fld := ⟨.csRdCtl, 14, 0⟩
def csRdCtl_GO : Fld := ⟨.csRdCtl, 31, 31⟩
def csRdStatus_BUSY : Fld := ⟨.csRdStatus, 0, 0⟩
def csRdStatus_ECC_FIXED : Fld := ⟨.csRdStatus, 1, 1⟩
def csRdMark_V : Fld := ⟨.csRdMark, 1, 0⟩
def dtabReg_V : Fld := ⟨.dtabReg, 15, 0⟩
def robStatus_V : Fld := ⟨.robStatus, 9, 0⟩
def ttInflight_INFLIGHT0 : Fld := ⟨.ttInflight, 10, 0⟩
def ttInflight_INFLIGHT1 : Fld := ⟨.ttInflight, 26, 16⟩
def ttVersion_VERSION : Fld := ⟨.ttVersion, 15, 0⟩
def ttBank_CLAIMED : Fld := ⟨.ttBank, 0, 0⟩
def ttBank_MEMORY : Fld := ⟨.ttBank, 2, 1⟩
def ttBank_BANK : Fld := ⟨.ttBank, 8, 3⟩
def ttBank_SPARE_FIXED : Fld := ⟨.ttBank, 12, 9⟩
def bpmStatus_FREE_CELLS : Fld := ⟨.bpmStatus, 16, 0⟩
def bpmStatus_POOL_LOW : Fld := ⟨.bpmStatus, 17, 17⟩
def bpmCtl_CT_EN : Fld := ⟨.bpmCtl, 0, 0⟩
def bpmCtl_DF_REPORT : Fld := ⟨.bpmCtl, 1, 1⟩
def poolCfg_POOL_XOFF_FREE : Fld := ⟨.poolCfg, 11, 0⟩
def poolCfg_POOL_XON_FREE : Fld := ⟨.poolCfg, 27, 16⟩
def refillCfg_REFILL_MAX : Fld := ⟨.refillCfg, 16, 0⟩
def mcHold_HOLD_US : Fld := ⟨.mcHold, 16, 0⟩
def voqCtl_INDEX : Fld := ⟨.voqCtl, 11, 0⟩
def voqCtl_MC : Fld := ⟨.voqCtl, 12, 12⟩
def voqCtl_OP : Fld := ⟨.voqCtl, 14, 13⟩
def voqCtl_GO : Fld := ⟨.voqCtl, 31, 31⟩
def voqData0_SRAM_CELLS : Fld := ⟨.voqData0, 16, 0⟩
def voqData0_SPILL : Fld := ⟨.voqData0, 17, 17⟩
def voqData0_SAFE : Fld := ⟨.voqData0, 18, 18⟩
def voqData0_BUSY : Fld := ⟨.voqData0, 31, 31⟩
def voqData1_V : Fld := ⟨.voqData1, 25, 0⟩
def bpmRsvd_V : Fld := ⟨.bpmRsvd, 16, 0⟩
def pfcCfg_MODE : Fld := ⟨.pfcCfg, 1, 0⟩
def pfcCfg_LOSSLESS : Fld := ⟨.pfcCfg, 9, 2⟩
def pfcCfg_RX_EN : Fld := ⟨.pfcCfg, 10, 10⟩
def maxFrame_BYTES : Fld := ⟨.maxFrame, 13, 0⟩
def portMacLo_MAC_LO : Fld := ⟨.portMacLo, 31, 0⟩
def portMacHi_MAC_HI : Fld := ⟨.portMacHi, 15, 0⟩
def pfcTimer_QUANTA : Fld := ⟨.pfcTimer, 15, 0⟩
def pgCfg0_XOFF : Fld := ⟨.pgCfg0, 15, 0⟩
def pgCfg0_XON : Fld := ⟨.pgCfg0, 31, 16⟩
def pgCfg1_HEADROOM : Fld := ⟨.pgCfg1, 15, 0⟩
def pgCfg2_LIMIT : Fld := ⟨.pgCfg2, 16, 0⟩
def pgCfg3_ANV_XOFF : Fld := ⟨.pgCfg3, 15, 0⟩
def pgCfg3_ANV_XON : Fld := ⟨.pgCfg3, 31, 16⟩
def pgStatus0_SHARED_USED : Fld := ⟨.pgStatus0, 16, 0⟩
def pgStatus1_HDRM_USED : Fld := ⟨.pgStatus1, 15, 0⟩
def pgStatus2_ANV_USED : Fld := ⟨.pgStatus2, 26, 0⟩
def pgStatus3_XOFF : Fld := ⟨.pgStatus3, 0, 0⟩
def pgStatus3_CAUSE : Fld := ⟨.pgStatus3, 3, 1⟩
def voqProf0_SPILL_THR : Fld := ⟨.voqProf0, 15, 0⟩
def voqProf0_KEEP : Fld := ⟨.voqProf0, 31, 16⟩
def voqProf1_VOQ_MAX : Fld := ⟨.voqProf1, 25, 0⟩
def voqProf1_SPILL_EN : Fld := ⟨.voqProf1, 26, 26⟩
def egrCfg0_DOWN_HOLD : Fld := ⟨.egrCfg0, 13, 0⟩
def egrCfg1_MC_VID : Fld := ⟨.egrCfg1, 11, 0⟩
def egrCfg1_MC_VID_EN : Fld := ⟨.egrCfg1, 12, 12⟩
def egrCfg2_WD_MS : Fld := ⟨.egrCfg2, 9, 0⟩
def egrCfg2_WD_DROP : Fld := ⟨.egrCfg2, 10, 10⟩
def egrCfg2_WD_RESTORE : Fld := ⟨.egrCfg2, 20, 11⟩
def mcCmd_OP : Fld := ⟨.mcCmd, 3, 0⟩
def mcCmd_STAGE : Fld := ⟨.mcCmd, 4, 4⟩
def mcCmd_PAR : Fld := ⟨.mcCmd, 5, 5⟩
def mcCmd_GO : Fld := ⟨.mcCmd, 31, 31⟩
def mcIndex_INDEX : Fld := ⟨.mcIndex, 16, 0⟩
def mcStatus_BUSY : Fld := ⟨.mcStatus, 0, 0⟩
def mcStatus_RESULT : Fld := ⟨.mcStatus, 4, 1⟩
def nbStatus_STG_FREE : Fld := ⟨.nbStatus, 12, 0⟩
def sampleCfg_PERIOD_US : Fld := ⟨.sampleCfg, 19, 0⟩
def sampleCfg_EN : Fld := ⟨.sampleCfg, 20, 20⟩
def portSched_OVH : Fld := ⟨.portSched, 7, 0⟩
def portSched_LEAD : Fld := ⟨.portSched, 14, 8⟩
def portSched_GRANT : Fld := ⟨.portSched, 17, 15⟩
def pshpCir_RATE : Fld := ⟨.pshpCir, 21, 0⟩
def pshpCir_EN : Fld := ⟨.pshpCir, 31, 31⟩
def pshpPir_RATE : Fld := ⟨.pshpPir, 21, 0⟩
def pshpPir_EN : Fld := ⟨.pshpPir, 31, 31⟩
def pshpCbs_BURST : Fld := ⟨.pshpCbs, 23, 0⟩
def pshpPbs_BURST : Fld := ⟨.pshpPbs, 23, 0⟩
def gateCfg_GATE_EN : Fld := ⟨.gateCfg, 0, 0⟩
def gateCfg_TRIG : Fld := ⟨.gateCfg, 4, 1⟩
def gateCfg_SWAP : Fld := ⟨.gateCfg, 5, 5⟩
def gateCfg_UNIT0 : Fld := ⟨.gateCfg, 6, 6⟩
def gateCfg_UNIT1 : Fld := ⟨.gateCfg, 7, 7⟩
def gateCfg_GUARD_NS : Fld := ⟨.gateCfg, 17, 8⟩
def gateCfg_LEAD_NS : Fld := ⟨.gateCfg, 27, 18⟩
def gateStatus_OPER : Fld := ⟨.gateStatus, 0, 0⟩
def gateStatus_PENDING : Fld := ⟨.gateStatus, 1, 1⟩
def gateStatus_CUR_ENTRY : Fld := ⟨.gateStatus, 9, 2⟩
def gateStatus_GATES : Fld := ⟨.gateStatus, 17, 10⟩
def gateStatus_STARTED : Fld := ⟨.gateStatus, 18, 18⟩
def qsched_WEIGHT : Fld := ⟨.qsched, 15, 0⟩
def qsched_STRICT : Fld := ⟨.qsched, 16, 16⟩
def qshpCir_RATE : Fld := ⟨.qshpCir, 21, 0⟩
def qshpCir_EN : Fld := ⟨.qshpCir, 31, 31⟩
def qshpPir_RATE : Fld := ⟨.qshpPir, 21, 0⟩
def qshpPir_EN : Fld := ⟨.qshpPir, 31, 31⟩
def qshpCbs_BURST : Fld := ⟨.qshpCbs, 23, 0⟩
def qshpPbs_BURST : Fld := ⟨.qshpPbs, 23, 0⟩
def qstatus_HEAD : Fld := ⟨.qstatus, 0, 0⟩
def qstatus_PAUSED : Fld := ⟨.qstatus, 1, 1⟩
def qstatus_OPEN : Fld := ⟨.qstatus, 2, 2⟩
def qstatus_PEAK_OK : Fld := ⟨.qstatus, 3, 3⟩
def qstatus_COMMIT_OK : Fld := ⟨.qstatus, 4, 4⟩
def qstatus_STAGED : Fld := ⟨.qstatus, 25, 5⟩
def maxwin_NS : Fld := ⟨.maxwin, 30, 0⟩
def txgrpCfg_FAMILY : Fld := ⟨.txgrpCfg, 7, 0⟩
def portCfg_EN : Fld := ⟨.portCfg, 0, 0⟩
def portCfg_WIDTH : Fld := ⟨.portCfg, 2, 1⟩
def portCfg_RATE : Fld := ⟨.portCfg, 5, 3⟩
def portCfg_AN : Fld := ⟨.portCfg, 6, 6⟩
def portCfg_ALLOW : Fld := ⟨.portCfg, 12, 7⟩
def portCfg_MEDIUM : Fld := ⟨.portCfg, 13, 13⟩
def portCfg_NRZ_FEC : Fld := ⟨.portCfg, 15, 14⟩
def portCfg_PRECODE_REQ : Fld := ⟨.portCfg, 16, 16⟩
def portCfg_ERASE_EN : Fld := ⟨.portCfg, 17, 17⟩
def portCfg_ERASE_MAX : Fld := ⟨.portCfg, 22, 18⟩
def portCfg_HIST_USE : Fld := ⟨.portCfg, 23, 23⟩
def portStatus_STATE : Fld := ⟨.portStatus, 3, 0⟩
def portStatus_LINK_UP : Fld := ⟨.portStatus, 4, 4⟩
def portStatus_RATE_RES : Fld := ⟨.portStatus, 7, 5⟩
def portStatus_LP_FUGRANUM : Fld := ⟨.portStatus, 8, 8⟩
def portStatus_FIRST_TRAIN : Fld := ⟨.portStatus, 9, 9⟩
def portStatus_TX_EI : Fld := ⟨.portStatus, 10, 10⟩
def portStatus_RX_EI : Fld := ⟨.portStatus, 11, 11⟩
def portStatus_HI_SER : Fld := ⟨.portStatus, 12, 12⟩
def portStatus_CFG_CAUSE : Fld := ⟨.portStatus, 15, 13⟩
def portStatus_DOWN_CAUSE : Fld := ⟨.portStatus, 19, 16⟩
def portLps_EI_EN : Fld := ⟨.portLps, 0, 0⟩
def portLps_EI_HOLD : Fld := ⟨.portLps, 10, 1⟩
def portLps_DEEP_CMD : Fld := ⟨.portLps, 12, 11⟩
def laneCtl_TX_SQUELCH : Fld := ⟨.laneCtl, 0, 0⟩
def laneCtl_HIST_VALID : Fld := ⟨.laneCtl, 1, 1⟩
def laneCtl_LOOP : Fld := ⟨.laneCtl, 3, 2⟩
def laneCtl_TX_POL : Fld := ⟨.laneCtl, 4, 4⟩
def laneCtl_RX_POL : Fld := ⟨.laneCtl, 5, 5⟩
def laneStatus_SIG_DET : Fld := ⟨.laneStatus, 0, 0⟩
def laneStatus_CDR_LOCK : Fld := ⟨.laneStatus, 1, 1⟩
def laneStatus_TX_PLL_LOCK : Fld := ⟨.laneStatus, 2, 2⟩
def laneStatus_MARK_LOCK : Fld := ⟨.laneStatus, 3, 3⟩
def laneStatus_ADAPT_ACTIVE : Fld := ⟨.laneStatus, 4, 4⟩
def txFfe_CM2 : Fld := ⟨.txFfe, 6, 0⟩
def txFfe_CM1 : Fld := ⟨.txFfe, 14, 8⟩
def txFfe_C0 : Fld := ⟨.txFfe, 22, 16⟩
def txFfe_CP1 : Fld := ⟨.txFfe, 30, 24⟩
def adaptCtl_FREEZE : Fld := ⟨.adaptCtl, 0, 0⟩
def adaptCtl_START_PRESET : Fld := ⟨.adaptCtl, 3, 1⟩
def eyeCtl_START : Fld := ⟨.eyeCtl, 0, 0⟩
def eyeCtl_EYE : Fld := ⟨.eyeCtl, 2, 1⟩
def eyeCtl_PHASE : Fld := ⟨.eyeCtl, 8, 3⟩
def eyeCtl_VOFF : Fld := ⟨.eyeCtl, 16, 9⟩
def eyeCtl_DWELL : Fld := ⟨.eyeCtl, 21, 17⟩
def eyeResult_DONE : Fld := ⟨.eyeResult, 0, 0⟩
def eyeResult_STATUS : Fld := ⟨.eyeResult, 2, 1⟩
def eyeResult_ERRORS : Fld := ⟨.eyeResult, 31, 3⟩
def prbsCtl_GEN_EN : Fld := ⟨.prbsCtl, 0, 0⟩
def prbsCtl_CHK_EN : Fld := ⟨.prbsCtl, 1, 1⟩
def prbsCtl_POLY : Fld := ⟨.prbsCtl, 3, 2⟩
def prbsCtl_INV : Fld := ⟨.prbsCtl, 4, 4⟩
def prbsCtl_INJ_MODE : Fld := ⟨.prbsCtl, 6, 5⟩
def prbsCtl_INJ_GO : Fld := ⟨.prbsCtl, 7, 7⟩
def prbsCtl_INJ_PERIOD : Fld := ⟨.prbsCtl, 12, 8⟩
def prbsStatus_CHK_LOCK : Fld := ⟨.prbsStatus, 0, 0⟩
def prbsStatus_LOCK_LOST : Fld := ⟨.prbsStatus, 1, 1⟩
def cageCfg_FIRST_LANE : Fld := ⟨.cageCfg, 8, 0⟩
def cageCfg_LANES : Fld := ⟨.cageCfg, 10, 9⟩
def cageCfg_MASTER : Fld := ⟨.cageCfg, 12, 11⟩
def cageCfg_MUX_ADDR : Fld := ⟨.cageCfg, 15, 13⟩
def cageCfg_MUX_CH : Fld := ⟨.cageCfg, 18, 16⟩
def cageCfg_MUX_NONE : Fld := ⟨.cageCfg, 19, 19⟩
def cageCfg_AUTO : Fld := ⟨.cageCfg, 20, 20⟩
def cageCfg_VALID : Fld := ⟨.cageCfg, 21, 21⟩
def cageCfg_PWR_MAX : Fld := ⟨.cageCfg, 29, 22⟩
def cageStatus_PRESENT : Fld := ⟨.cageStatus, 0, 0⟩
def cageStatus_INT : Fld := ⟨.cageStatus, 1, 1⟩
def cageStatus_MSTATE : Fld := ⟨.cageStatus, 4, 2⟩
def fpI2cCfg_SPEED : Fld := ⟨.fpI2cCfg, 1, 0⟩
def fpI2cCfg_MOD_READY_TMO : Fld := ⟨.fpI2cCfg, 9, 4⟩
def modAccCtl_CAGE : Fld := ⟨.modAccCtl, 6, 0⟩
def modAccCtl_WRITE : Fld := ⟨.modAccCtl, 7, 7⟩
def modAccCtl_PAGE : Fld := ⟨.modAccCtl, 15, 8⟩
def modAccCtl_OFFSET : Fld := ⟨.modAccCtl, 23, 16⟩
def modAccCtl_LEN : Fld := ⟨.modAccCtl, 30, 24⟩
def modAccCtl_GO : Fld := ⟨.modAccCtl, 31, 31⟩
def modAccBank_V : Fld := ⟨.modAccBank, 7, 0⟩
def modAccStatus_BUSY : Fld := ⟨.modAccStatus, 0, 0⟩
def modAccStatus_RESULT : Fld := ⟨.modAccStatus, 3, 1⟩
def ledCfg_SEL0 : Fld := ⟨.ledCfg, 2, 0⟩
def ledCfg_SEL1 : Fld := ⟨.ledCfg, 5, 3⟩
def ledCfg_SEL2 : Fld := ⟨.ledCfg, 8, 6⟩
def ledCfg_SEL3 : Fld := ⟨.ledCfg, 11, 9⟩
def ledCfg_RATE : Fld := ⟨.ledCfg, 13, 12⟩
def ledCfg_EN : Fld := ⟨.ledCfg, 14, 14⟩
def anvilCtl_EN : Fld := ⟨.anvilCtl, 0, 0⟩
def anvilStatus_READY : Fld := ⟨.anvilStatus, 0, 0⟩
def anvilStatus_DRAINED : Fld := ⟨.anvilStatus, 1, 1⟩
def anvilStatus_SPILL_LIMITED : Fld := ⟨.anvilStatus, 2, 2⟩
def grpFree_V : Fld := ⟨.grpFree, 21, 0⟩
def anvChStatus_TRAINED : Fld := ⟨.anvChStatus, 0, 0⟩
def anvChStatus_RETIRED : Fld := ⟨.anvChStatus, 1, 1⟩
def anvChStatus_SAFE : Fld := ⟨.anvChStatus, 2, 2⟩
def anvChStatus_OUTSTANDING : Fld := ⟨.anvChStatus, 14, 3⟩
def anvChStatus_TEMP : Fld := ⟨.anvChStatus, 22, 15⟩
def pcCfg_EVENT : Fld := ⟨.pcCfg, 4, 0⟩
def pcCfg_SLOT : Fld := ⟨.pcCfg, 9, 5⟩
def pcCfg_ALL_PORTS : Fld := ⟨.pcCfg, 10, 10⟩
def pcCfg_CLASS : Fld := ⟨.pcCfg, 13, 11⟩
def pcCfg_ALL_CLASSES : Fld := ⟨.pcCfg, 14, 14⟩
def pcCfg_CODE : Fld := ⟨.pcCfg, 22, 15⟩
def pcCfg_ALL_CODES : Fld := ⟨.pcCfg, 23, 23⟩
def pcCfg_CLEAR : Fld := ⟨.pcCfg, 31, 31⟩
def haloStatus_FLUSHING : Fld := ⟨.haloStatus, 0, 0⟩
def flowCfg_EN : Fld := ⟨.flowCfg, 0, 0⟩
def flowCfg_EXPORT : Fld := ⟨.flowCfg, 1, 1⟩
def flowCfg_KEY_MODE : Fld := ⟨.flowCfg, 3, 2⟩
def flowCfg_RING : Fld := ⟨.flowCfg, 13, 4⟩
def flowTmo_IDLE_MS : Fld := ⟨.flowTmo, 15, 0⟩
def flowTmo_ACTIVE_S : Fld := ⟨.flowTmo, 31, 16⟩
def flowCmd_FLUSH : Fld := ⟨.flowCmd, 0, 0⟩
def epochCfg_EN : Fld := ⟨.epochCfg, 0, 0⟩
def epochCfg_TRIG : Fld := ⟨.epochCfg, 4, 1⟩
def histCfg_LAT_SCALE : Fld := ⟨.histCfg, 3, 0⟩
def histCfg_DEPTH_SCALE : Fld := ⟨.histCfg, 7, 4⟩
def histCfg_EXPORT : Fld := ⟨.histCfg, 8, 8⟩
def histCfg_SKIP_ZERO : Fld := ⟨.histCfg, 9, 9⟩
def histCfg_RING : Fld := ⟨.histCfg, 19, 10⟩
def histCmd_CLEAR : Fld := ⟨.histCmd, 0, 0⟩
def ovfLatch_V : Fld := ⟨.ovfLatch, 0, 0⟩
def statCmd_INDEX : Fld := ⟨.statCmd, 12, 0⟩
def statCmd_TILE : Fld := ⟨.statCmd, 16, 13⟩
def statCmd_ALL_TILES : Fld := ⟨.statCmd, 17, 17⟩
def statCmd_GO : Fld := ⟨.statCmd, 31, 31⟩
def mirrorCfg_EN : Fld := ⟨.mirrorCfg, 0, 0⟩
def mirrorCfg_RANDOM : Fld := ⟨.mirrorCfg, 1, 1⟩
def mirrorCfg_RING : Fld := ⟨.mirrorCfg, 11, 2⟩
def mirrorCfg_SNAP : Fld := ⟨.mirrorCfg, 19, 12⟩
def mirrorN_N : Fld := ⟨.mirrorN, 23, 0⟩
def mirrorRate_PER_MS : Fld := ⟨.mirrorRate, 15, 0⟩
def portMirror_ING_EN : Fld := ⟨.portMirror, 0, 0⟩
def portMirror_ING_SESS : Fld := ⟨.portMirror, 6, 1⟩
def portMirror_EGR_EN : Fld := ⟨.portMirror, 7, 7⟩
def portMirror_EGR_SESS : Fld := ⟨.portMirror, 13, 8⟩
def ioam0_ROLE : Fld := ⟨.ioam0, 1, 0⟩
def ioam0_NS_ID : Fld := ⟨.ioam0, 17, 2⟩
def ioam0_HOPS : Fld := ⟨.ioam0, 21, 18⟩
def ioam0_ENC_N : Fld := ⟨.ioam0, 31, 22⟩
def ioam1_TRACE_TYPE : Fld := ⟨.ioam1, 23, 0⟩
def ioam2_NODE_ID : Fld := ⟨.ioam2, 23, 0⟩
def ioam3_NODE_ID_HI : Fld := ⟨.ioam3, 31, 0⟩
def grpCtl_OWNER : Fld := ⟨.grpCtl, 1, 0⟩
def grpCtl_USER_EN : Fld := ⟨.grpCtl, 2, 2⟩
def teStatus_IDLE : Fld := ⟨.teStatus, 0, 0⟩
def teStatus_DPQ_LEVEL : Fld := ⟨.teStatus, 13, 1⟩
def teCtl_DP_EN : Fld := ⟨.teCtl, 0, 0⟩
def teCtl_DP_LIVE_EN : Fld := ⟨.teCtl, 1, 1⟩
def teCtl_AGE_RUN : Fld := ⟨.teCtl, 2, 2⟩
def verStatus_CUR_VERSION : Fld := ⟨.verStatus, 15, 0⟩
def verStatus_VSTATE : Fld := ⟨.verStatus, 18, 16⟩
def verStatus_HELD : Fld := ⟨.verStatus, 19, 19⟩
def ageTick_TICK_MS : Fld := ⟨.ageTick, 15, 0⟩
def ageNow_V : Fld := ⟨.ageNow, 15, 0⟩
def lpmCfg_VRF4_EN : Fld := ⟨.lpmCfg, 0, 0⟩
def lpmCfg_VRF6_EN : Fld := ⟨.lpmCfg, 1, 1⟩
def teCmdStatus_BUSY : Fld := ⟨.teCmdStatus, 0, 0⟩
def teCmdStatus_RESULT : Fld := ⟨.teCmdStatus, 4, 1⟩
def teLen_V : Fld := ⟨.teLen, 8, 0⟩
def teGo_GO : Fld := ⟨.teGo, 0, 0⟩
def lpmUsed_V : Fld := ⟨.lpmUsed, 21, 0⟩
def tblCfg0_BASE : Fld := ⟨.tblCfg0, 6, 0⟩
def tblCfg0_SIZE : Fld := ⟨.tblCfg0, 15, 8⟩
def tblCfg0_WIDTH : Fld := ⟨.tblCfg0, 17, 16⟩
def tblCfg0_KEY_LEN : Fld := ⟨.tblCfg0, 24, 18⟩
def tblCfg0_LEARN_EN : Fld := ⟨.tblCfg0, 25, 25⟩
def tblCfg0_AGE_EN : Fld := ⟨.tblCfg0, 26, 26⟩
def tblCfg0_DP_WRITE : Fld := ⟨.tblCfg0, 27, 27⟩
def tblCfg0_AGE_NOTIFY : Fld := ⟨.tblCfg0, 28, 28⟩
def tblCfg1_AGE_LIMIT : Fld := ⟨.tblCfg1, 14, 0⟩
def tblCfg2_USED : Fld := ⟨.tblCfg2, 19, 0⟩
def tcamCfg_BASE : Fld := ⟨.tcamCfg, 5, 0⟩
def tcamCfg_SIZE : Fld := ⟨.tcamCfg, 14, 8⟩
def learnCfg_LIMIT : Fld := ⟨.learnCfg, 19, 0⟩
def learnCfg_LIMIT_EN : Fld := ⟨.learnCfg, 20, 20⟩
def learnCfg_ACT : Fld := ⟨.learnCfg, 21, 21⟩
def learnCount_V : Fld := ⟨.learnCount, 19, 0⟩
end F

end Sys2Proof.Machine
end

