-- ==== Sys2Proof/Machine/Ops.lean ====
section
/-!
DEFINITION. The operations every chapter uses: reading and writing registers and their fields, drawing a free value, the
device time, host windows, interrupt messages, events, fault messages.
-/

namespace Sys2Proof.Machine

/-! ## Registers -/

/-- What a register holds at reset: the register tables' value, and for the arrays with no one value the rule's own
(FN_RIGHTS R419, REACT_CFG R511, DSCP_MAP R139, HWIN R420, PIPE_STATUS R194, the Zenith map R563; the mask bit of an MSI-X
vector is set at reset, as PCI Express Base 5.0 has it). [log: DESIGN CHOICE 3, PRESUMED 20] -/
def regReset (n : RName) (i j : Nat) : Nat :=
  match n with
  | .fnRights => match i with
    | 0 => 0x1FF
    | 2 => 0x008
    | 3 => 0x100
    | _ => 0
  | .reactCfg => match i with
    | 0 => 0x11
    | 2 => 0x18
    | 5 => 0x05
    | _ => 0x12
  | .dscpMap => (j % 8) * 0x249249
  | .hwinW3 => if i = 0 ∧ j = 0 then 7 else 0
  | .pipeStatus => if j = 8 then 1 else 0
  | .msixTable => if j % 4 = 3 ∧ j < (if i = 0 then 1024 else 256) then 1 else 0
  | .chipletId => i
  | n => (regInfo n).rst

/-- The key of instance `i`, word `j` of a register in the register files; no register has 65,536 instances or words.
[log: DESIGN CHOICE 22] -/
def regKey (n : RName) (i j : Nat) : Nat := (n.ctorIdx * 65536 + i % 65536) * 65536 + j % 65536

/-- What the register word at a key holds at reset. -/
def keyReset (k : Nat) : Nat := regReset (RName.ofNat (k / 65536 / 65536)) (k / 65536 % 65536) (k % 65536)

/-- A 32-bit register. -/
def State.rd (s : State) (n : RName) (i : Nat := 0) (j : Nat := 0) : Word :=
  tget s.r32 (regKey n i j) (BitVec.ofNat 32 (keyReset (regKey n i j)))

/-- The state with a 32-bit register set. -/
def State.wr (s : State) (n : RName) (v : Word) (i : Nat := 0) (j : Nat := 0) : State :=
  { s with r32 := tset s.r32 (regKey n i j) (BitVec.ofNat 32 (keyReset (regKey n i j))) v }

/-- A 64-bit register. -/
def State.rdw (s : State) (n : RName) (i : Nat := 0) (j : Nat := 0) : DWord :=
  tget s.r64 (regKey n i j) (BitVec.ofNat 64 (keyReset (regKey n i j)))

/-- The state with a 64-bit register set. -/
def State.wrw (s : State) (n : RName) (v : DWord) (i : Nat := 0) (j : Nat := 0) : State :=
  { s with r64 := tset s.r64 (regKey n i j) (BitVec.ofNat 64 (keyReset (regKey n i j))) v }

/-- A field of a register. -/
def State.fget (s : State) (f : Fld) (i : Nat := 0) (j : Nat := 0) : Nat :=
  bits (s.rd f.reg i j).toNat f.hi f.lo

/-- The state with a field of a register set. -/
def State.fset (s : State) (f : Fld) (v : Nat) (i : Nat := 0) (j : Nat := 0) : State :=
  s.wr f.reg (BitVec.ofNat 32 (setBits (s.rd f.reg i j).toNat f.hi f.lo v)) i j

/-- A one-bit field as a flag. -/
def State.flag (s : State) (f : Fld) (i : Nat := 0) (j : Nat := 0) : Bool := s.fget f i j = 1

/-- A 64-bit counter goes up by `k` and wraps. -/
def State.bump (s : State) (n : RName) (i : Nat := 0) (j : Nat := 0) (k : Nat := 1) : State :=
  s.wrw n (s.rdw n i j + BitVec.ofNat 64 k) i j

/-- The next free value: one the spec does not state. [log: DESIGN CHOICE 8] -/
def State.draw (s : State) : BitVec 64 × State := (Config.freeValue s.free, { s with free := s.free + 1 })

/-- `f` applied when `c` holds. [log: DESIGN CHOICE 5] -/
def State.when (s : State) (c : Bool) (f : State → State) : State := if c then f s else s

/-- `f` applied to each element in turn. -/
def State.each {α : Type} (s : State) (l : List α) (f : α → State → State) : State := l.foldl (fun t a => f a t) s

/-! ## Time of the device -/

/-- SEC × 10⁹ + NS of the PTP clock (R426). -/
def State.ptpNs (s : State) : Nat := s.time.sec.toNat * 1000000000 + s.time.ns

/-- The short stamp of R112 and R432: the low 32 bits of it. -/
def State.stamp (s : State) : Nat := s.ptpNs % 2 ^ 32

/-- The 64-bit nanosecond count of ring entries and records. -/
def State.ns64 (s : State) : Nat := s.ptpNs % 2 ^ 64

/-- The full time a short stamp names, within 2³¹ ns of the reference (R432). -/
def rebuildNs (st ref : Nat) : Nat :=
  ((ref : Int) + toSigned 32 (st + 2 ^ 32 - ref % 2 ^ 32)).toNat

/-- Edges of CLK_TICK in a microsecond. -/
def ticksPerUs : Nat := 400

/-! ## What is clocked -/

/-- An always-needed block failed its self-test at Dawn step 5 and is unusable for this power cycle (R477, R523): 4 the DMA engine, 5 the time unit,
6 the power controller. [log: DEDUCED 137] -/
def State.unusableBlk (s : State) (b : Nat) : Bool := bitAt s.boot.unusable b

/-- Tile `t` is clocked: not retired or failed, and in Horizon mode only tile 0 (R15, R489, R490). -/
def State.tileOn (s : State) (t : Nat) : Bool :=
  (t = 0 || (!s.flag F.dawnStatus_HORIZON && !s.flag F.spareTile_TILE_RETIRED t)) && !s.flag F.spareTile_UNUSABLE t

/-- The tile that serves port `p`: its own, and in Horizon mode tile 0 for lanes 0 to 63 (R11, R15). -/
def State.tileOf (s : State) (p : Nat) : Nat := if s.flag F.dawnStatus_HORIZON then 0 else p / 32

/-! ## Functions, windows and host memory -/

/-- A function's rights (R373): PF0 and PF3 fixed. -/
def State.rights (s : State) (f : Nat) : Nat := s.fget F.fnRights_V f

/-- Function `f` holds right bit `b`. -/
def State.hasRight (s : State) (f b : Nat) : Bool := bitAt (s.rights f) b

/-- Function `f` is frozen or under function-level reset: no host access is made for it (R378, R403). -/
def State.blocked (s : State) (f : Nat) : Bool := s.flag F.fnStatus_FROZEN f || s.flag F.fnStatus_FLR_BUSY f

/-- Window `w` of function `f` holds the `n` bytes at `addr` for the direction (R375, R420). -/
def State.inWindow (s : State) (f w addr n : Nat) (write : Bool) : Bool :=
  let c := (s.rd .hwinW3 f w).toNat
  let base := (s.rd .hwinW1 f w).toNat * 2 ^ 32 + (s.rd .hwinW0 f w).toNat
  let pages := (s.rd .hwinW2 f w).toNat
  bitAt c (if write then 1 else 0) &&
    (bitAt c 2 || (decide (pages ≠ 0) && decide (base ≤ addr) && decide (addr + n ≤ base + pages * 4096)))

/-- A host access for function `f` lies wholly inside one window that allows it (R375). -/
def State.hostOk (s : State) (f addr n : Nat) (write : Bool) : Bool :=
  (List.range 16).any (fun w => s.inWindow f w addr n write)

/-- A byte memory is in its canonical form: addresses strictly rising, and no entry equal to 0, what an unlisted byte reads as.
[log: DESIGN CHOICE 1] -/
def Memory.wf (m : Tab Byte) : Bool := twf (fun _ => 0) m

/-- Bytes written to host memory. What a byte nothing has written reads as is 0. [log: DESIGN CHOICE 1, 21] -/
def memPut (m : Tab Byte) (addr : Nat) (bs : List Byte) : Tab Byte :=
  match bs with
  | [] => m
  | b :: r => memPut (tset m addr 0 b) (addr + 1) r

/-- `n` bytes of a memory from `addr` on. [log: DESIGN CHOICE 21] -/
def memGet (m : Tab Byte) (addr n : Nat) : List Byte := (List.range n).map (fun k => tget m (addr + k) 0)

/-- The state with bytes written to host memory. [log: DESIGN CHOICE 21] -/
def State.hostPut (s : State) (addr : Nat) (bs : List Byte) : State :=
  { s with host := { s.host with mem := memPut s.host.mem addr bs } }

/-! ## Interrupt messages -/

/-- MSI-X vectors of a function (R371). -/
def vectorsOf (f : Nat) : Nat := if f = 0 then 256 else 64

/-- A vector of a function is sent, or held pending while its mask bit is set (R405, R513). None is sent on behalf of a
blocked function (R378, R403). [log: PRESUMED 20] -/
def State.sendVec (s : State) (f v : Nat) : State :=
  if s.blocked f || !decide (v < vectorsOf f) then s
  else if bitAt (s.rd .msixTable f (4 * v + 3)).toNat 0 then
    s.wr .msixPba (s.rd .msixPba f (v / 32) ||| BitVec.ofNat 32 (2 ^ (v % 32))) f (v / 32)
  else { s with host := { s.host with msix := s.host.msix ++ [(f, v)] } }

/-! ## Rings -/

def State.ring (s : State) (r : Nat) : RingSt := tget s.host.rings r {}

def State.setRing (s : State) (r : Nat) (v : RingSt) : State :=
  { s with host := { s.host with rings := tset s.host.rings r {} v } }

/-- Owner, type and state of a ring (R380, R391). -/
def State.ringOwnerOf (s : State) (r : Nat) : Nat := s.fget F.ringOwner_OWNER r
def State.ringTypeOf (s : State) (r : Nat) : Nat := s.fget F.ringOwner_TYPE r
def State.ringState (s : State) (r : Nat) : Nat := s.fget F.ringStatus_STATE r
/-- S, the descriptors of a ring (R381). -/
def State.ringSize (s : State) (r : Nat) : Nat := 2 ^ s.fget F.ringCtl_SIZE_LOG2 r
/-- Positions H and T as numbers below 2S (R384). -/
def State.ringH (s : State) (r : Nat) : Nat := s.fget F.ringHead_IDX r + s.fget F.ringHead_WRAP r * s.ringSize r
def State.ringT (s : State) (r : Nat) : Nat := s.fget F.ringTail_IDX r + s.fget F.ringTail_WRAP r * s.ringSize r

/-- The register form of a position (R384). -/
def posWord (S p : Nat) : Word := BitVec.ofNat 32 (p % S + (p / S % 2) * 65536)

/-- n, the entries the device holds (R384). -/
def State.ringN (s : State) (r : Nat) : Nat := (s.ringT r + 2 * s.ringSize r - s.ringH r) % (2 * s.ringSize r)

/-! ## Events -/

/-- An event put into the hold of event ring `r`, or lost or discarded and counted (R396). -/
def State.eventTo (s : State) (r code param : Nat) : State :=
  if s.ringState r = 1 ∧ s.ringTypeOf r = 5 then
    let q := s.ring r
    if q.events.length < 64 then
      s.setRing r { q with events := q.events ++ [⟨code, param % 2 ^ 32, s.ns64, q.evLost⟩], evLost := false }
    else (s.setRing r { q with evLost := true }).bump .cntEvLost
  else s.bump .cntEvDiscard

/-- An event of a class other than 0x06 is posted on the ring EV_ROUTE names for its class (R396). [log: DEDUCED 106] -/
def State.post (s : State) (code param : Nat) : State :=
  let c := code / 256
  if s.flag F.evRoute_EN c then s.eventTo (s.fget F.evRoute_RING c) code param else s

/-- An event of class 0x06 goes to the event ring of the function it concerns (R396). -/
def State.postFn (s : State) (f code param : Nat) : State :=
  if s.flag F.fnCfg_EVENT_EN f then s.eventTo (s.fget F.fnCfg_EVENT_RING f) code param else s.bump .cntEvDiscard

/-! ## Fault messages -/

/-- Source codes of R504. -/
def srcLane (n : Nat) : Nat := n
def srcPort (p : Nat) : Nat := 0x200 + p
def srcVoq (t : Nat) : Nat := 0x400 + t
def srcBpm (t : Nat) : Nat := 0x410 + t
def srcTable (t : Nat) : Nat := 0x420 + t
def srcCirrus (t : Nat) : Nat := 0x430 + t
def srcTile (t : Nat) : Nat := 0x440 + t
def srcHalo (t : Nat) : Nat := 0x450 + t
def srcAnvilCh (n : Nat) : Nat := 0x460 + n
def srcRing (f : Nat) : Nat := 0x480 + f
def srcDma : Nat := 0x490
def srcPcie : Nat := 0x4A0
def srcBist : Nat := 0x4B0
def srcPwr : Nat := 0x800
def srcThermal : Nat := 0x801
def srcClkRoot : Nat := 0x802
def srcBennidan : Nat := 0x803
def srcZenith : Nat := 0x804
def srcAnvilCtl : Nat := 0x805

/-- The index of a privileged source in REACT_CFG (R511, R530). -/
def privIx (src : Nat) : Option Nat := if 0x800 ≤ src ∧ src ≤ 0x805 then some (src - 0x800) else none

/-- The severity of a kind (R505): PLL_UNLOCK is 4 from the root PLL and 2 from any other source. -/
def sevOf (src kind : Nat) : Nat :=
  match kind with
  | 0x01 => if src = srcClkRoot then 4 else 2
  | 0x02 => 0
  | 0x03 => 2
  | 0x04 => 0
  | 0x05 => 1
  | 0x06 => 2
  | 0x07 => 1
  | 0x08 => 0
  | 0x0A => 1
  | 0x0B => 1
  | 0x0C => 2
  | 0x0D => 1
  | 0x0E => 1
  | 0x0F => 2
  | 0x10 => 1
  | 0x11 => 2
  | 0x12 => 2
  | 0x13 => 2
  | 0x14 => 3
  | 0x16 => 1
  | 0x20 => 2
  | 0x21 => 0
  | 0x22 => 2
  | 0x30 => 1
  | 0x39 => 2
  | _ => 3

/-- A mask set covers a message (R516). -/
def Mask.covers (m : Mask) (src kind : Nat) : Bool :=
  decide (m.lo ≤ src) && decide (src ≤ m.hi) && (m.kind.isNone || decide (m.kind = some kind))

/-- PEND of a source is set (R508). -/
def State.setPend (s : State) (src : Nat) : State :=
  s.wr .pend (s.rd .pend (src / 32) ||| BitVec.ofNat 32 (2 ^ (src % 32))) (src / 32)

/-- Mask sets start under the next mask id (R516). -/
def State.startMask (s : State) (ms : List (Nat × Nat × Option Nat)) (held : Nat := 0) : State :=
  let id := s.squall.maskNext
  let new := ms.map (fun m => ({ id := id, lo := m.1, hi := m.2.1, kind := m.2.2, held := held } : Mask))
  ({ s with squall := { s.squall with masks := s.squall.masks ++ new, maskNext := id + 1 } }).fset F.sqStatus_MASK_ACTIVE 1

/-- The detectors a unit's safe state masks: the unit's own, for a lane its port's and the port's other lanes' (R516). -/
def safeMask (src kind : Nat) (port w : Nat) : List (Nat × Nat × Option Nat) :=
  if src < 0x200 then [(src, src, none), (srcPort port, srcPort port, none), (port, port + w - 1, none)]
  else if src < 0x400 then [(src, src, none)]
  else [(src, src, some kind)]

/-- The port that holds lane `l`: the enabled port, not in CFG_ERR, whose lanes include it (R36), with its lane count. [log: DEDUCED 183] -/
def State.portOfLane (s : State) (l : Nat) : Option (Nat × Nat) :=
  ((List.range 4).map (fun c => (l / 2 ^ c * 2 ^ c, 2 ^ c))).find? (fun pw =>
    s.flag F.portCfg_EN pw.1 && decide (s.fget F.portStatus_STATE pw.1 ≠ 9) &&
      decide (2 ^ s.fget F.portCfg_WIDTH pw.1 = pw.2))

/-- A unit reports a fault (R502, R506): a message of severity 2 from a source without privileged reactions starts the mask
set of the unit's safe state unless the unit is under one already (R516); a message that meets four of its source in flight
is lost, counted, and sets PEND. [log: DEDUCED 149] -/
def State.report (s : State) (src kind addr : Nat) : State :=
  let sev := sevOf src kind
  let masks := decide (sev = 2) && (privIx src).isNone && decide (src ≠ srcBist) &&
    !s.squall.masks.any (fun m => m.covers src kind)
  let id := s.squall.maskNext
  let pw := (s.portOfLane src).getD (src, 1)
  let s1 := s.when masks (fun s => s.startMask (safeMask src kind pw.1 pw.2))
  if (s1.squall.flight.filter (fun m => decide (m.source = src))).length < 4 then
    { s1 with squall := { s1.squall with flight := s1.squall.flight ++
        [{ source := src, kind := kind, sev := sev, addr := addr % 2 ^ 48, stamp := s.stamp,
           safe := decide (sev = 2), own := if masks then some id else none }] } }
  else (s1.bump .cntMsgLost).setPend src

/-- A function's or channel's violation log and freeze are in `Machine/Host.lean`; here is what every unit may post.
An event of the lanes chapter: number in bits 15:0 and cause in bits 23:16 (R75). -/
def State.postLane (s : State) (code num cause : Nat) : State := s.post code (num + cause * 65536)

end Sys2Proof.Machine
end

