-- ==== Sys2Proof/Machine/Counters.lean ====
section
/-!
DEFINITION. The performance counters of Halo (08_halo_telemetry_counters.md, R355–R358) as every unit feeds them, and the
discard counters of R286.
-/

namespace Sys2Proof.Machine

/-- Bit `k` of a sticky bit array is set. -/
def State.setBit (s : State) (n : RName) (i k : Nat) : State :=
  s.wr n (s.rd n i (k / 32) ||| BitVec.ofNat 32 (2 ^ (k % 32))) i (k / 32)

/-- A counter with a sticky overflow bit goes up by `n`: it wraps and sets the bit (R340, R356). -/
def State.addOvf (s : State) (c : RName) (i j : Nat) (ovf : RName) (bit n : Nat) : State :=
  let v := (s.rdw c i j).toNat
  let s1 := s.wrw c (BitVec.ofNat 64 (v + n)) i j
  if 2 ^ 64 ≤ v + n then s1.setBit ovf i bit else s1

/-- The port slot of port `p` in its tile (R134, R494). -/
def State.slotOf (s : State) (p : Nat) : Nat := if s.flag F.dawnStatus_HORIZON then p else p % 32

/-- A performance counter's configuration word counts an event of the tile (R355): slot, classes and drop code as the event
gives them; `none` where the event uses no such filter. -/
def pcMatches (w ev : Nat) (slot : Option Nat) (classes : Option (List Nat)) (code : Option Nat) : Bool :=
  decide (bits w 4 0 = ev) &&
    (bitAt w 10 || slot.isNone || decide (slot = some (bits w 9 5))) &&
    (bitAt w 14 || classes.isNone || (classes.getD []).contains (bits w 13 11)) &&
    (bitAt w 23 || code.isNone || decide (code = some (bits w 22 15 + 0x500)))

/-- The configured performance counters of tile `t` as (index, word): an unlisted word counts nothing (R355). -/
def State.pcList (s : State) (t : Nat) : List (Nat × Nat) :=
  (s.r32.filter (fun e => decide (regKey .pcCfg t 0 ≤ e.1) && decide (e.1 < regKey .pcCfg t 2048))).map
    (fun e => (e.1 - regKey .pcCfg t 0, e.2.toNat))

/-- An event of tile `t` is counted `n` times by every performance counter that it matches (R355, R356). [log: DEDUCED 98] -/
def State.perf (s : State) (t ev : Nat) (slot : Option Nat) (classes : Option (List Nat)) (code : Option Nat) (n : Nat) :
    State :=
  s.each (s.pcList t) (fun kw s =>
    if pcMatches kw.2 ev slot classes code then s.addOvf .pcVal t kw.1 .pcOvf kw.1 n else s)

/-- A discard with a code in the counter of its tile (R286, R289, R322): 0x0501 to 0x0512 each, 0x0513 in CNT_WTS, routine codes
together. -/
def State.dropCount (s : State) (t code slot cls : Nat) : State :=
  let s1 := if 0x0501 ≤ code ∧ code ≤ 0x0512 then s.bump .dropCnt t (code - 0x0501)
    else if code = 0x0513 then s.bump .cntWts t
    else s.bump .dropUcode t
  s1.perf t 5 (some slot) (some [cls]) (some code) 1

/-- CLK_CORE in MHz at an operating point (R22). -/
def coreMhz (op : Nat) : Nat :=
  match op with
  | 0 => 1600
  | 1 => 1400
  | 2 => 1200
  | 3 => 1000
  | 4 => 800
  | 5 => 700
  | 6 => 550
  | _ => 400

end Sys2Proof.Machine
end

