-- ==== Sys2Proof/Machine/Host.lean ====
section
/-!
DEFINITION. The ring engine of the host interface (09_host_rings_dma.md, R371–R405): master isolation, rings, descriptors,
completions, events, function-level reset, interrupt moderation; and the control side of the DMA channels (R410, R414–R416).
-/

namespace Sys2Proof.Machine

/-! ## Identity of the functions (R371) -/

/-- What PCI Express configuration space identifies function `f` by: vendor, device and class code. -/
def pciIdentity (f : Nat) : Nat × Nat × Nat := (0x1F5D, 0x5120 + f, 0x028000)

/-! ## Ring positions and status -/

/-- The ring beside its registers set, with PREFETCHED and HOLD showing it (R421). -/
def State.putRing (s : State) (r : Nat) (q : RingSt) : State :=
  (s.setRing r q).fset F.ringStatus_PREFETCHED q.fetched.length r

/-- H moves one entry on (R384). -/
def State.advanceH (s : State) (r : Nat) : State :=
  s.wr .ringHead (posWord (s.ringSize r) ((s.ringH r + 1) % (2 * s.ringSize r))) r

/-- Everything a ring holds is discarded (R378, R403); completions of its entries are discarded wherever they wait. -/
def State.clearRing (s : State) (r : Nat) : State :=
  let q := s.ring r
  let s1 := (s.putRing r { gen := q.gen + 1 }).fset F.ringStatus_HOLD 0 r
  let c := s.fget F.ringCtl_CQ r
  let qc := s1.ring c
  s1.setRing c { qc with ready := qc.ready.filter (fun e => decide (e.src ≠ r)) }

/-! ## Master isolation -/

/-- A DMA channel goes to FROZEN at its next beat (R378, R416). [log: DEDUCED 119] -/
def State.chFreeze (s : State) (n : Nat) : State := s.fset F.chStatus_STATE 6 n

/-- A channel is owned by function `f` (R406). -/
def State.chOwned (s : State) (f n : Nat) : Bool := s.flag F.chOwner_VALID n && decide (s.fget F.chOwner_OWNER n = f)

/-- A violation by a function (R377–R379): the first is logged, later ones are counted; the function is frozen with its rings
and channels, the freeze is reported under SRC_RING and posted on PF0's ring. -/
def State.violation (s : State) (f kind addr ring : Nat) : State :=
  if s.flag F.fnStatus_FROZEN f then s.wr .violCnt (s.rd .violCnt f + 1) f
  else
    let s1 := ((s.wrw .violAddr (BitVec.ofNat 64 addr) f).fset F.fnStatus_KIND kind f).fset F.fnStatus_FROZEN 1 f
    let s2 := forN 1024 (fun r s =>
      if s.ringOwnerOf r = f ∧ (s.ringState r = 1 ∨ s.ringState r = 2) then (s.clearRing r).fset F.ringStatus_STATE 3 r else s) s1
    let s3 := forN 32 (fun n s => if s.chOwned f n then s.chFreeze n else s) s2
    (s3.report (srcRing f) 0x11 (ring + kind * 65536)).postFn 0 0x0603 (f + kind * 256)


/-- A write that right `bit` opens, by function `f` at BAR0 offset `a` (R373, R374): discarded before READY (R484) and from a frozen function
(R378); without the right, a violation of kind 1. -/
def State.underRight (s : State) (f bit a : Nat) (act : State → State) : State :=
  if s.flag F.dawnStatus_READY = false ∨ s.flag F.fnStatus_FROZEN f = true then s
  else if s.hasRight f bit then act s else s.violation f 1 a 0

/-! ## Ring errors, write-back and interrupts -/

/-- A ring enters ERROR with a cause and a latched position (R391, R402). -/
def State.ringError (s : State) (r cause : Nat) (idx : Word) : State :=
  let s1 := ((s.wr .ringErr idx r).fset F.ringErr_CAUSE cause r).fset F.ringStatus_STATE 2 r
  (s1.postFn (s.ringOwnerOf r) 0x0601 (r + cause * 2 ^ 17)).report (srcRing (s.ringOwnerOf r)) 0x10 r

/-- An entry of a ring has flipped to the host: the vector is sent when MOD_CNT flips have gathered, at once when MOD_US is 0
(R405). -/
def State.ringFlip (s : State) (r : Nat) : State :=
  let q := s.ring r
  if s.flag F.ringIrq_EN r then
    if s.fget F.ringIrq_MOD_US r = 0 ∨ max 1 (s.fget F.ringIrq_MOD_CNT r) ≤ q.flips + 1 then
      (s.setRing r { q with flips := 0 }).sendVec (s.ringOwnerOf r) (s.fget F.ringIrq_VECTOR r)
    else s.setRing r { q with flips := q.flips + 1 }
  else s

/-- The address of the entry at a position (R381). -/
def State.entryAddr (s : State) (r pos : Nat) : Nat := (s.rdw .ringBase r).toNat + 32 * (pos % s.ringSize r)

/-- An entry is finished: one 32-byte write with OWN at 0 in its final byte, then H moves on (R383, R387). A descriptor area
outside the owner's windows is a violation of kind 4 (R377). [log: DEDUCED 145] -/
def State.finishEntry (s : State) (r pos : Nat) (entry : List Byte) : State :=
  let f := s.ringOwnerOf r
  let a := s.entryAddr r pos
  let bs := bytesAt entry 0 31 ++ [(nth entry 31 0) &&& 0x7F#8]
  if s.hostOk f a 32 true then ((s.hostPut a bs).advanceH r).ringFlip r else s.violation f 4 a r

/-- The next entry of a device-filled ring: its fetched copy at H with OWN at 1. A copy with OWN at 0 puts the ring in ERROR
with cause OWN (R386). -/
def State.takeEntry (s : State) (r : Nat) : Option (List Byte) × State :=
  let q := s.ring r
  if s.ringState r ≠ 1 ∨ s.blocked (s.ringOwnerOf r) = true then (none, s)
  else match q.fetched with
    | [] => (none, s)
    | (p, d) :: rest =>
      if bitAt (nth d 31 0).toNat 7 then (some d, s.putRing r { q with fetched := rest })
      else (none, s.ringError r 2 (posWord (s.ringSize r) p))

/-- Prefetched copies put back at the front: the entry was looked at and not started. -/
def State.untakeEntry (s : State) (r : Nat) (d : List Byte) : State :=
  let q := s.ring r
  s.putRing r { q with fetched := (s.ringH r, d) :: q.fetched }

/-! ## Enabling, doorbells and INVALIDATE -/

/-- The owner holds the right its ring's type needs (R380); PF3 may own types 4 and 5 alone. -/
def State.ringRightOk (s : State) (r : Nat) : Bool :=
  let f := s.ringOwnerOf r
  let ty := s.ringTypeOf r
  let need := match ty with
    | 1 => s.hasRight f 5
    | 2 => s.hasRight f 5
    | 3 => s.hasRight f 1
    | 4 => s.hasRight f 3 || (decide (f = 3) && s.hasRight f 8)
    | 5 => true
    | 6 => true
    | 7 => s.hasRight f 4
    | _ => false
  need && (decide (f ≠ 3) || decide (ty = 4) || decide (ty = 5))

/-- The configuration check at enable (R382). [log: DEDUCED 107] -/
def State.ringCfgOk (s : State) (r : Nat) : Bool :=
  let ty := s.ringTypeOf r
  let c := s.fget F.ringCtl_CQ r
  let z := s.fget F.ringCtl_SIZE_LOG2 r
  let active := ((List.range 1024).filter (fun q => decide (s.ringTypeOf q = 3) && decide (s.ringState q = 1))).length
  s.ringRightOk r && decide (6 ≤ z) && decide (z ≤ 16) &&
    (!(decide (ty = 1) || decide (ty = 3)) || (decide (s.ringTypeOf c = 6) && decide (s.ringOwnerOf c = s.ringOwnerOf r))) &&
    (decide (ty ≠ 3) || decide (active < 4))

/-- A write of RING_CTL (R382, R418): only while the ring is DISABLED; EN at 1 enables, EN at 0 is ignored. [log: DEDUCED 107] -/
def State.ringCtlWrite (s : State) (r : Nat) (v : Word) : State :=
  if s.ringState r ≠ 0 then s
  else if bitAt v.toNat 31 then
    let s1 := s.wr .ringCtl (v &&& 0x83FFFFFF#32) r
    let f := s1.ringOwnerOf r
    let base := (s1.rdw .ringBase r).toNat
    if !s1.ringCfgOk r then s1.ringError r 5 0
    else if s1.hostOk f base (32 * s1.ringSize r) false ∧ s1.hostOk f base (32 * s1.ringSize r) true = true then
      ((((s1.clearRing r).wr .ringHead 0 r).wr .ringTail 0 r).wr .ringErr 0 r).fset F.ringStatus_STATE 1 r
    else s1.violation f 4 base r
  else s.wr .ringCtl (v &&& 0x3FFFFFF#32) r

/-- The enable of a ring, written by its owner: discarded before READY (R484) and from a frozen owner (R378). -/
def execRingEnable (r : Nat) (v : Word) (s : State) : Host.Outcome State Fault Refusal :=
  .next (
    if s.flag F.dawnStatus_READY = false ∨ s.flag F.fnStatus_FROZEN (s.ringOwnerOf r) = true then s
    else s.ringCtlWrite r (v ||| 0x80000000#32))

/-- The doorbell of a ring that is ACTIVE sets T, or is bad (R385). -/
def State.setTail (s : State) (r : Nat) (v : Word) : State :=
  let S := s.ringSize r
  let idx := v.toNat % 65536
  let t := idx + bits v.toNat 16 16 * S
  let add := (t + 2 * S - s.ringT r) % (2 * S)
  if S ≤ idx ∨ S - s.ringN r < add then s.ringError r 3 (v &&& 0x1FFFF#32)
  else s.wr .ringTail (posWord S t) r

/-- A BAR2 write to a ring's page by a function (R377, R378, R390, R402): discarded before READY (R484) and for a frozen function, a violation by
one that does not own the ring, ignored and counted in DISABLED and ERROR. -/
def State.ringPageWrite (s : State) (f r : Nat) (act : State → State) : State :=
  if s.flag F.dawnStatus_READY = false ∨ s.flag F.fnStatus_FROZEN f = true then s
  else if s.ringOwnerOf r ≠ f then s.violation f 2 (r * 4096) r
  else if s.ringState r = 1 then act s
  else s.bump .cntDbIgnored

def execDoorbellWrite (f r : Nat) (v : Word) (s : State) : Host.Outcome State Fault Refusal :=
  .next (s.ringPageWrite f r (fun s => s.setTail r v))

/-- INVALIDATE discards every prefetched copy not started and records the head as FIRST_FRESH (R389, R390). [log: DEDUCED 108] -/
def State.invalidate (s : State) (r : Nat) : State :=
  s.putRing r { s.ring r with fetched := [], invPos := s.ringH r, invBusy := true, invDone := false }
def execInvalidate (f r : Nat) (_v : Word) (s : State) : Host.Outcome State Fault Refusal :=
  .next (s.ringPageWrite f r (fun s => s.invalidate r))

/-- A 4-byte write of a word of a ring's page (R422): DB, INVALIDATE, and words that ignore writes. -/
def State.pageWordWrite (s : State) (f r off : Nat) (v : Word) : State :=
  match off with
  | 0 => s.ringPageWrite f r (fun s => s.setTail r v)
  | 4 => s.ringPageWrite f r (fun s => s.invalidate r)
  | _ =>
    if s.flag F.dawnStatus_READY = false ∨ s.flag F.fnStatus_FROZEN f = true ∨ s.ringOwnerOf r = f then s
    else s.violation f 2 (r * 4096 + off) r

/-- The invalidate completes and DONE sets (R389). -/
def execInvalidateDone (r : Nat) (s : State) : Host.Outcome State Fault Refusal :=
  .next (let q := s.ring r
    if q.invBusy then s.setRing r { q with invBusy := false, invDone := true } else s)

/-- What a read of a ring's page returns (R422). -/
def State.ringPageRead (s : State) (r off : Nat) : Word :=
  match off with
  | 0 => s.rd .ringHead r ||| (if s.ringState r = 2 then 0x80000000#32 else 0)
  | 8 => posWord (s.ringSize r) (s.ring r).invPos ||| (if (s.ring r).invDone then 0x80000000#32 else 0)
  | _ => 0

/-- Posted entries not started are fetched, up to 32 (R388), each inside the owner's windows (R377). A read error puts the ring in ERROR
(R391). -/
def execDescriptorFetch (r : Nat) (entries : List (List Byte)) (ok : Bool) (s : State) : Host.Outcome State Fault Refusal :=
  .next (
    let q := s.ring r
    let f := s.ringOwnerOf r
    let S := s.ringSize r
    let ahead := q.started.length + q.fetched.length
    let can := min (32 - q.fetched.length) (s.ringN r - ahead)
    let first := s.ringH r + ahead
    if s.ringState r ≠ 1 ∨ s.blocked f = true ∨ can = 0 then s
    else
      let got := (entries.take can).map (fun e => bytesAt e 0 32)
      match (List.range (max 1 got.length)).find? (fun k => !s.hostOk f (s.entryAddr r (first + k)) 32 false) with
      | some k => s.violation f 4 (s.entryAddr r (first + k)) r
      | none =>
        if ok = false then s.ringError r 4 (posWord S first)
        else
      s.putRing r { q with fetched := q.fetched ++ got.zipIdx.map (fun e => ((first + e.2) % (2 * S), e.1)) })

/-! ## Completions -/

/-- A source whose 64 slots are all reserved while its completion ring holds no entry stops: counted, shown and posted once for
each stop (R401). -/
def State.stallCheck (s : State) (r : Nat) : State :=
  let c := s.fget F.ringCtl_CQ r
  if s.fget F.ringStatus_HOLD r = 64 ∧ s.ringN c = 0 ∧ s.flag F.ringStatus_CQ_STALL r = false ∧ s.ringState r = 1 then
    ((s.bump .cntCqFull r).fset F.ringStatus_CQ_STALL 1 r).postFn (s.ringOwnerOf r) 0x0602 (r + c * 65536)
  else s

/-- Starting an entry reserves a hold slot (R400). -/
def State.reserve (s : State) (r pos : Nat) (d : List Byte) : State :=
  let q := s.ring r
  ((s.setRing r { q with started := q.started ++ [{ pos := pos, desc := d }] }).fset F.ringStatus_HOLD
    (s.fget F.ringStatus_HOLD r + 1) r).stallCheck r

/-- TAG of a source descriptor: bytes 16–23 of a TX entry (R392), 20–27 of a table command (R215). -/
def tagOf (ty : Nat) (d : List Byte) : Nat := leNat (bytesAt d (if ty = 1 then 16 else 20) 8)

/-- Entries at the front of a ring whose outcome is known are finished in position order, and their completions become ready
for the completion ring in source order (R386, R400). -/
def State.finishStarted (s : State) (r n : Nat) : State :=
  match n with
  | 0 => s
  | n + 1 =>
    let q := s.ring r
    match q.started with
    | [] => s
    | e :: rest =>
      match e.res with
      | none => s
      | some (st, tx, info) =>
        let s1 := (s.setRing r { q with started := rest }).finishEntry r e.pos e.desc
        if s1.ringState r = 3 then s1
        else
          let c := s.fget F.ringCtl_CQ r
          let qc := s1.ring c
          let ty := s.ringTypeOf r
          (s1.setRing c { qc with ready := qc.ready ++ [⟨r, e.pos, ty, st, tagOf ty e.desc, tx, info⟩] }).finishStarted r n

/-- An entry of a TX or table command ring has its outcome: STATUS, TX_NS and INFO (R397). A completion of an earlier use of
the ring is discarded (R378, R403). -/
def State.complete (s : State) (r gen pos status txNs info : Nat) : State :=
  let q := s.ring r
  if q.gen ≠ gen then s
  else
    let mark (e : Slot) : Slot := if e.pos = pos then { e with res := some (status, txNs, info) } else e
    (s.setRing r { q with started := q.started.map mark }).finishStarted r q.started.length

/-- The 32 bytes of a completion entry (R397). -/
def complBytes (S : Nat) (c : Compl) : List Byte :=
  leBytes 2 c.src ++ leBytes 2 (c.pos % S) ++ leBytes 1 (c.pos / S % 2) ++ leBytes 1 c.srcType ++ leBytes 2 c.status ++
    leBytes 8 c.tag ++ leBytes 8 c.txNs ++ leBytes 4 c.info ++ leBytes 4 0

/-- A held completion is written to its completion ring when an entry is free; its slot is released and the source resumes
(R400, R401). -/
def execCompletionWrite (c : Nat) (s : State) : Host.Outcome State Fault Refusal :=
  .next (
    match (s.ring c).ready with
    | [] => s
    | e :: rest =>
      match s.takeEntry c with
      | (none, s1) => s1
      | (some _, s1) =>
        let s2 := (s1.setRing c { s1.ring c with ready := rest }).finishEntry c (s1.ringH c) (complBytes (s.ringSize e.src) e)
        let s3 := (s2.fset F.ringStatus_HOLD (s2.fget F.ringStatus_HOLD e.src - 1) e.src).fset F.ringStatus_CQ_STALL 0 e.src
        forN 1024 (fun r s => if s.fget F.ringCtl_CQ r = c ∧ (s.ringTypeOf r = 1 ∨ s.ringTypeOf r = 3) then s.stallCheck r else s) s3)

/-- A held event is written to its event ring (R396). -/
def execEventWrite (r : Nat) (s : State) : Host.Outcome State Fault Refusal :=
  .next (
    match (s.ring r).events with
    | [] => s
    | e :: rest =>
      match s.takeEntry r with
      | (none, s1) => s1
      | (some _, s1) =>
        let q := s1.ring r
        let bs := leBytes 2 e.code ++ leBytes 2 (b2n e.lost) ++ leBytes 4 e.param ++ leBytes 8 e.timeNs ++ leBytes 4 q.evSeq ++
          leBytes 12 0
        (s1.setRing r { q with events := rest, evSeq := (q.evSeq + 1) % 2 ^ 32 }).finishEntry r (s1.ringH r) bs)

/-- MOD_US after the first flip not yet signalled, the ring's vector is sent (R405). -/
def execMsixModerationExpire (r : Nat) (s : State) : Host.Outcome State Fault Refusal :=
  .next (
    let q := s.ring r
    if q.flips = 0 ∨ s.flag F.ringIrq_EN r = false then s
    else (s.setRing r { q with flips := 0 }).sendVec (s.ringOwnerOf r) (s.fget F.ringIrq_VECTOR r))

/-! ## Receive rings -/

/-- A frame offered to an RX ring (R394): what the written entry holds. -/
structure RxItem where
  frame : List Byte
  pmeta : List Byte
  iport : Nat
  iclass : Nat
  tile : Nat
  reason : Nat
  arrivalNs : Nat
  seq : Nat
  haloTag : Nat
  deriving DecidableEq, Repr

/-- The frame and the RX entry are written and OWN flips (R394). The answer says whether the frame was delivered. A malformed
entry puts the ring in ERROR (R399); a buffer outside the windows is a violation of kind 3 (R377). [log: DEDUCED 145] -/
def State.rxWrite (s : State) (r : Nat) (x : RxItem) : Bool × State :=
  match s.takeEntry r with
  | (none, s1) => (false, s1)
  | (some d, s1) =>
    let buf := leNat (bytesAt d 0 8)
    let len := leNat (bytesAt d 8 2)
    let f := s1.ringOwnerOf r
    let md := s1.flag F.ringCtl_META r
    let data := (if md then bytesAt x.pmeta 0 64 else []) ++ x.frame
    let out := data.take len
    if buf % 64 ≠ 0 ∨ len < 256 ∨ 16384 < len ∨ len % 64 ≠ 0 then (false, s1.ringError r 1 (s1.rd .ringHead r))
    else if s1.hostOk f buf out.length true = false then (false, s1.violation f 3 buf r)
    else
      let w0 := x.frame.length % 16384 + b2n (decide (len < data.length)) * 16384 + b2n md * 32768
      let w1 := x.iport % 512 + x.iclass % 8 * 512 + x.tile % 16 * 4096
      let e := leBytes 2 w0 ++ leBytes 2 w1 ++ leBytes 4 (x.reason % 65536) ++ leBytes 8 x.arrivalNs ++ leBytes 4 x.seq ++
        leBytes 8 x.haloTag ++ leBytes 4 0
      (true, (s1.hostPut buf out).finishEntry r (s1.ringH r) e)

/-! ## DMA channel control -/

def State.dmaCh (s : State) (n : Nat) : DmaCh := tget s.dma.ch n {}
def State.setDmaCh (s : State) (n : Nat) (v : DmaCh) : State :=
  { s with dma := { s.dma with ch := tset s.dma.ch n {} v } }

/-- A pulse line asserts in every channel's own copy (R410). -/
def State.dmaPulse (s : State) (line : Nat) : State :=
  forN 32 (fun n s => let c := s.dmaCh n
    s.setDmaCh n { c with lines := c.lines ||| BitVec.ofNat 64 (2 ^ line) }) s

/-- A violation by a DMA channel (R377–R379): it is frozen and reported, the first is logged and later ones are counted.
[log: DEDUCED 112, 119] -/
def State.chViolation (s : State) (n kind addr : Nat) : State :=
  let c := s.dmaCh n
  if c.viol.isSome then s.setDmaCh n { c with violCnt := c.violCnt + 1 }
  else (((s.setDmaCh n { c with viol := some (kind, addr) }).chFreeze n).report srcDma 0x11 n).postFn 0 0x0603 (n + 128 + kind * 256)

/-- A channel starts a program at an address of a space (R414, R398): its loops are inactive. [log: DEDUCED 111] -/
def State.chRun (s : State) (n addr space : Nat) : State :=
  let s1 := (s.wrw .chPc (BitVec.ofNat 64 addr) n).setDmaCh n
    { s.dmaCh n with progBase := addr, space := space, cur := none, backs := [0, 0, 0, 0], buf := [] }
  (((s1.fset F.chStatus_STATE 1 n).fset F.chStatus_DOWN 0 n).fset F.chStatus_BUFFERED 0 n).wr .chFault 0 n

/-- CH_CTL.CMD of a channel (R414): a command in any other state is ignored. -/
def State.chCmd (s : State) (n cmd : Nat) : State :=
  let st := s.fget F.chStatus_STATE n
  match cmd with
  | 1 => if st = 0 ∧ s.unusableBlk 4 = false then s.chRun n (s.rdw .chProg n).toNat (s.fget F.chCtl_PROG_SPACE n) else s
  | 2 => if st = 1 then s.fset F.chStatus_STATE 3 n else if st = 2 then s.fset F.chStatus_STATE 4 n else s
  | 3 => if st = 4 ∨ st = 5 then (s.fset F.chStatus_STATE 1 n).fset F.chFault_CAUSE 0 n else s
  | 4 =>
    if st = 4 ∨ st = 5 then
      let s1 := (s.setDmaCh n { s.dmaCh n with cur := none, backs := [0, 0, 0, 0], buf := [] }).fset F.chStatus_STATE 0 n
      (forN 4 (fun k s => s.wr .chLoop 0 n k) s1).wr .chFault 0 n
    else s
  | _ => s

def execDmaStart (n : Nat) (s : State) : Host.Outcome State Fault Refusal := .next (s.chCmd n 1)
def execDmaPause (n : Nat) (s : State) : Host.Outcome State Fault Refusal := .next (s.chCmd n 2)
def execDmaResume (n : Nat) (s : State) : Host.Outcome State Fault Refusal := .next (s.chCmd n 3)
def execDmaAbort (n : Nat) (s : State) : Host.Outcome State Fault Refusal := .next (s.chCmd n 4)

/-- A channel faults with a cause and is reported under SRC_DMA (R415). -/
def State.chFault (s : State) (n cause : Nat) : State :=
  ((s.fset F.chFault_CAUSE cause n).fset F.chStatus_STATE 5 n).report srcDma 0x12 n

/-- Bits 7:0 of DMA_SWREQ (R423): writable by a function that owns a channel; any other write of a function with the right is
a write to what it does not own (R374). -/
def State.swreqWrite (s : State) (f : Nat) (v : Word) : State :=
  if (List.range 32).any (s.chOwned f) then s.wr .dmaSwreq (v &&& 0xFF#32) else s.bump .cntForeignWr

def execDmaSwreqWrite (f : Nat) (v : Word) (s : State) : Host.Outcome State Fault Refusal :=
  .next (s.underRight f 4 0x500004 (fun s => s.swreqWrite f v))

/-! ## Function-level reset -/

/-- The effects of a function-level reset at its initiation (R403, R9): rings DISABLED with their registers' BASE and SIZE
kept, channels IDLE, held low words and latched high words discarded. The table and counter-group sides are added by their chapters.
[log: DESIGN CHOICE 201] -/
def State.flrRings (s : State) (f : Nat) : State :=
  let s1 := forN 1024 (fun r s => if s.ringOwnerOf r = f then
    (((((s.clearRing r).wr .ringStatus 0 r).wr .ringHead 0 r).wr .ringTail 0 r).wr .ringErr 0 r).fset F.ringCtl_EN 0 r else s) s
  let s2 := forN 32 (fun n s => if s.chOwned f n then
    (forN 4 (fun k s => s.wr .chLoop 0 n k) ((s.setDmaCh n { lines := (s.dmaCh n).lines }).wr .chStatus 0 n)).wr .chFault 0 n else s) s1
  let mine (k : Nat) : Bool := decide (k / 2 ^ 44 = f)
  { s2 with host := { s2.host with
      lowHold := s2.host.lowHold.filter (fun e => !mine e.1)
      latch := s2.host.latch.filter (fun e => !mine e.1) } }

/-- MSI-X table and pending bits of a function as PCI Express leaves them (R403). [log: PRESUMED 20] -/
def State.clearMsix (s : State) (f : Nat) : State :=
  let s1 := forN 1024 (fun j s => s.wr .msixTable (BitVec.ofNat 32 (regReset .msixTable f j)) f j) s
  forN 8 (fun j s => s.wr .msixPba 0 f j) s1

/-- The reset's effects are complete: the freeze and the violation log clear (R379, R403). -/
def State.flrDone (s : State) (f : Nat) : State :=
  ((s.wr .fnStatus 0 f).wrw .violAddr 0 f).wr .violCnt 0 f

def execFlrComplete (f : Nat) (s : State) : Host.Outcome State Fault Refusal :=
  .next (if s.flag F.fnStatus_FLR_BUSY f then s.flrDone f else s)

end Sys2Proof.Machine
end

