-- ==== Sys2Proof/Machine/Frames.lean ====
section
/-!
DEFINITION. The tile's buffers (06_buffering_anvil_backpressure.md): cells, priority groups, pause, virtual output queues, the
Anvil segments and refill. The class rule of R113 stands here because the accounting priority uses it (R249).
-/

namespace Sys2Proof.Machine

/-! ## The parts of the state this chapter reads -/

def State.buf (s : State) (t : Nat) : BufSt := tget s.tm.tiles t {}
def State.setBuf (s : State) (t : Nat) (v : BufSt) : State :=
  { s with tm := { s.tm with tiles := tset s.tm.tiles t {} v } }
def State.np (s : State) (p : Nat) : NPort := tget s.tm.ports p {}
def State.setNp (s : State) (p : Nat) (v : NPort) : State :=
  { s with tm := { s.tm with ports := tset s.tm.ports p {} v } }
def State.frame (s : State) (t fid : Nat) : Frame := tget (s.buf t).frames fid {}
def State.setFrame (s : State) (t fid : Nat) (v : Frame) : State :=
  s.setBuf t { s.buf t with frames := tset (s.buf t).frames fid {} v }
def State.voq (s : State) (t q : Nat) : Voq := tget (s.buf t).voqs q {}
def State.setVoq (s : State) (t q : Nat) (v : Voq) : State :=
  s.setBuf t { s.buf t with voqs := tset (s.buf t).voqs q {} v }
/-- Class `c` of port `p` in Nimbus. -/
def State.nc (s : State) (p c : Nat) : NClass := tget (s.np p).cls c {}
def State.setNc (s : State) (p c : Nat) (v : NClass) : State :=
  s.setNp p { s.np p with cls := tset (s.np p).cls c {} v }

/-- The ports a tile owns: the first lanes it serves (R14, R15, R494). -/
def State.tilePorts (s : State) (t : Nat) : List Nat :=
  if s.flag F.dawnStatus_HORIZON then (if t = 0 then List.range 64 else []) else List.range' (32 * t) 32

/-- The port is UP (R56). -/
def State.isUp (s : State) (p : Nat) : Bool := decide (s.fget F.portStatus_STATE p = 5)

/-- A port enabled and configured: EN at 1 and not in CFG_ERR (R36). -/
def State.portEnabled (s : State) (p : Nat) : Bool :=
  s.flag F.portCfg_EN p && decide (s.fget F.portStatus_STATE p ≠ 9)

/-- The lanes of a port. -/
def State.widthOf (s : State) (p : Nat) : Nat := 2 ^ s.fget F.portCfg_WIDTH p

/-- The payload rate of one lane by rate code, in Mb/s (R32). -/
def laneMbps (rate : Nat) : Nat :=
  match rate with
  | 0 => 400000
  | 1 => 200000
  | 2 => 100000
  | 3 => 50000
  | 4 => 25000
  | _ => 10000

/-- The MAC rate of a port in Mb/s at its resolved rate. -/
def State.portMbps (s : State) (p : Nat) : Nat := laneMbps (s.fget F.portStatus_RATE_RES p) * s.widthOf p

/-! ## Port settings: the registers, and the fixed profile in Horizon mode (R493) -/

def State.hz (s : State) : Bool := s.flag F.dawnStatus_HORIZON

def State.maxFrame (s : State) (p : Nat) : Nat := if s.hz then 9216 else max 64 (s.fget F.maxFrame_BYTES p)
def State.pauseMode (s : State) (p : Nat) : Nat :=
  let m := if s.hz then s.fget F.hzPort_PAUSE_MODE p else s.fget F.pfcCfg_MODE p
  if m = 3 then 0 else m
def State.losslessMask (s : State) (p : Nat) : Nat :=
  if s.hz then (if s.flag F.hzCfg_LL_EN then 2 ^ s.fget F.hzCfg_LL_PRI else 0) else s.fget F.pfcCfg_LOSSLESS p
def State.rxPauseEn (s : State) (p : Nat) : Bool := s.hz || s.flag F.pfcCfg_RX_EN p
def State.pgHeadroom (s : State) (p i : Nat) : Nat := if s.hz then 400 * s.widthOf p else s.fget F.pgCfg1_HEADROOM p i
def State.pgXoff (s : State) (p i : Nat) : Nat := if s.hz then 128 * s.widthOf p else s.fget F.pgCfg0_XOFF p i
def State.pgXon (s : State) (p i : Nat) : Nat := if s.hz then 96 * s.widthOf p else s.fget F.pgCfg0_XON p i
def State.pgLimit (s : State) (p i : Nat) : Nat := if s.hz then 2048 else s.fget F.pgCfg2_LIMIT p i
/-- QUANTA as it acts (R291); the spec gives none for Horizon mode. [log: DESIGN CHOICE 16] -/
def State.quanta (s : State) (p : Nat) : Nat := max 0x100 (if s.hz then Config.horizonQuanta.toNat else s.fget F.pfcTimer_QUANTA p)
/-- PORT_MAC as 48 bits (R291); the spec gives none for Horizon mode. [log: DESIGN CHOICE 16] -/
def State.portMac (s : State) (p : Nat) : Nat :=
  if s.hz then Config.horizonMac.toNat else s.fget F.portMacHi_MAC_HI p * 2 ^ 32 + s.fget F.portMacLo_MAC_LO p

/-- A PG is lossless (R257); in Horizon mode the priority HZ_CFG names, on ports that pause (R493). -/
def State.lossless (s : State) (p i : Nat) : Bool := decide (s.pauseMode p ≠ 0) && bitAt (s.losslessMask p) i

/-! ## The ingress class (R113) and the accounting priority (R249) -/

/-- The byte of a frame at an offset; 0 beyond its end. -/
def byteAt (bs : List Byte) (k : Nat) : Nat := (nth bs k 0).toNat
/-- The 16 bits at an offset, network order. -/
def half (bs : List Byte) (k : Nat) : Nat := byteAt bs k * 256 + byteAt bs (k + 1)

/-- Offset of the EtherType after the tags, from `k` on, with the number of tags (R107: at most two). -/
def skipTags (bs : List Byte) (k n : Nat) : Nat × Nat :=
  match n with
  | 0 => (k, 0)
  | n + 1 =>
    let e := half bs k
    if e = 0x8100 ∨ e = 0x88A8 then let r := skipTags bs (k + 4) n
      (r.1, r.2 + 1) else (k, 0)

/-- Offset of the byte after an MPLS label stack of at most `n` labels; none without a bottom of stack. -/
def skipLabels (bs : List Byte) (k n : Nat) : Option Nat :=
  match n with
  | 0 => none
  | n + 1 => if byteAt bs (k + 2) % 2 = 1 then some (k + 4) else skipLabels bs (k + 4) n

/-- The DSCP of the outermost IP header that the base graph finds (R106, R107). -/
def outerDscp (bs : List Byte) : Option Nat :=
  let e := (skipTags bs 12 2).1
  let at4 (k : Nat) : Option Nat := some (byteAt bs (k + 1) / 4)
  let at6 (k : Nat) : Option Nat := some (half bs k / 64 % 64)
  if half bs e = 0x0800 then at4 (e + 2)
  else if half bs e = 0x86DD then at6 (e + 2)
  else if half bs e = 0x8847 ∨ half bs e = 0x8848 then
    match skipLabels bs (e + 2) 8 with
    | some k => if byteAt bs k / 16 = 4 then at4 k else if byteAt bs k / 16 = 6 then at6 k else none
    | none => none
  else none

/-- The PCP of the outermost tag. -/
def outerPcp (bs : List Byte) : Option Nat :=
  if (skipTags bs 12 1).2 = 0 then none else some (byteAt bs 14 / 32)

/-- The class of a packet on port `p` by the rule of R113, from the PCP and DSCP found; in Horizon mode the PCP through the
identity map (R491, R493). -/
def State.classRule (s : State) (p : Nat) (pcp dscp : Option Nat) : Nat :=
  let t := s.tileOf p
  let c := (s.rd .portCls p).toNat
  let trust := if s.hz then 4 else s.fget F.portCls_TRUST p
  let byPcp := match pcp with
    | some v => bits (s.rd .pcpMap p).toNat (3 * v + 2) (3 * v)
    | none => s.fget F.portCls_DEF_CLASS p
  match trust with
  | 1 => byPcp
  | 4 => pcp.getD 0
  | 2 => match dscp with
    | some v => bits (s.rd .dscpMap t (s.fget F.portCls_DSCP_PROF p * 8 + v / 8)).toNat (3 * (v % 8) + 2) (3 * (v % 8))
    | none => byPcp
  | _ => bits c 2 0

/-- IPRI: the rule of R113 on the first 64 bytes with the base graph's headers (R249). -/
def State.ipriOf (s : State) (p : Nat) (bs : List Byte) : Nat :=
  let b := bs.take 64
  s.classRule p (outerPcp b) (outerDscp b)

/-! ## Cells and priority groups -/

def State.freeCells (s : State) (t : Nat) : Nat := s.fget F.bpmStatus_FREE_CELLS t
def State.sharedUsed (s : State) (p i : Nat) : Nat := s.fget F.pgStatus0_SHARED_USED p i
def State.hdrmUsed (s : State) (p i : Nat) : Nat := s.fget F.pgStatus1_HDRM_USED p i
def State.inXoff (s : State) (p i : Nat) : Bool := s.flag F.pgStatus3_XOFF p i
/-- Bytes of a PG's records in Anvil (R256). -/
def State.anvUsed (s : State) (t p i : Nat) : Nat := tget (s.buf t).anvUsed (8 * p + i) 0
def State.setAnvUsed (s : State) (t p i v : Nat) : State :=
  s.setBuf t { s.buf t with anvUsed := tset (s.buf t).anvUsed (8 * p + i) 0 v }

/-- The lossless PGs of a tile. -/
def State.losslessPgs (s : State) (t : Nat) : List (Nat × Nat) :=
  ((s.tilePorts t).filter (fun p => decide (s.pauseMode p ≠ 0))).flatMap
    (fun p => ((List.range 8).filter (s.lossless p)).map (fun i => (p, i)))

/-- The reserved total: HEADROOM over the lossless PGs (R257). -/
def State.reserved (s : State) (t : Nat) : Nat := ((s.losslessPgs t).map (fun pi => s.pgHeadroom pi.1 pi.2)).sum

/-- The shared free count (R257). -/
def State.sharedFree (s : State) (t : Nat) : Nat :=
  s.freeCells t - ((s.losslessPgs t).map (fun pi => s.pgHeadroom pi.1 pi.2 - s.hdrmUsed pi.1 pi.2)).sum

/-- POOL_LOW as BPM_STATUS shows it. -/
def State.poolLow (s : State) (t : Nat) : Bool := decide (s.sharedFree t < s.fget F.poolCfg_POOL_XOFF_FREE t * 16)

/-- The first cell of a list whose state bit says free, with those before it, which say in use, and the rest (R254). -/
def firstFree (inUse l : List Nat) : List Nat × Option Nat × List Nat :=
  match l with
  | [] => ([], none, [])
  | c :: r => if inUse.contains c then let x := firstFree inUse r
      (c :: x.1, x.2) else ([], some c, r)

/-- The cells never taken yet that may come next: those withdrawn are out of the list. -/
def BufSt.freshCells (b : BufSt) : List Nat :=
  ((List.range (min (b.withdrawn.length + b.inUse.length + 1) (65536 - b.fresh))).map (b.fresh + ·)).filter (fun c => !b.withdrawn.contains c)

/-- A cell is taken from the free list; cells of the list whose state bit says in use leave it and are reported (R254).
[log: DESIGN CHOICE 79] -/
def State.takeCell (s : State) (t : Nat) : Option Nat × State :=
  let b := s.buf t
  let x := firstFree b.inUse b.freed
  let y := if x.2.1.isSome then ([], none, []) else firstFree b.inUse b.freshCells
  let out := x.1 ++ y.1
  let s1 := s.each out (fun c s => s.report (srcBpm t) 0x0A c)
  match x.2.1, y.2.1 with
  | some c, _ => (some c, (s1.setBuf t { b with freed := x.2.2, inUse := c :: b.inUse }).fset F.bpmStatus_FREE_CELLS
      (s.freeCells t - out.length - 1) t)
  | none, some c => (some c, (s1.setBuf t { b with freed := [], fresh := c + 1, inUse := c :: b.inUse }).fset F.bpmStatus_FREE_CELLS
      (s.freeCells t - out.length - 1) t)
  | none, none => (none, (s1.setBuf t { b with freed := [] }).fset F.bpmStatus_FREE_CELLS (s.freeCells t - out.length) t)

/-- Cells go back to the free list; one whose state bit says free is ignored, counted and reported while DF_REPORT is 1 (R254). -/
def State.freeCellList (s : State) (t : Nat) (cs : List Nat) : State :=
  s.each cs (fun c s =>
    let b := s.buf t
    if b.inUse.contains c = false then
      let s1 := s.bump .cntDoubleFree t
      if s.flag F.bpmCtl_DF_REPORT t then s1.report (srcBpm t) 0x0B c else s1
    else if b.withdrawn.contains c then s.setBuf t { b with inUse := b.inUse.filter (fun x => decide (x ≠ c)) }
    else (s.setBuf t { b with freed := c :: b.freed, inUse := b.inUse.filter (fun x => decide (x ≠ c)) }).fset F.bpmStatus_FREE_CELLS
      (s.freeCells t + 1) t)

/-- A PG gives back `n` cells: HDRM_USED falls first, then SHARED_USED (R258). -/
def State.uncharge (s : State) (p i n : Nat) : State :=
  let h := s.hdrmUsed p i
  let a := min h n
  (s.fset F.pgStatus1_HDRM_USED (h - a) p i).fset F.pgStatus0_SHARED_USED (s.sharedUsed p i - (n - a)) p i

/-! ## Pause and priority flow control -/

/-- A frame padded to 60 bytes with its FCS (IEEE 802.3). -/
def withFcs (bs : List Byte) : List Byte :=
  let b := bytesAt bs 0 (max 60 bs.length)
  b ++ leBytes 4 (fcs b).toNat

/-- The PFC frame of R274: class-enable vector and time fields. -/
def State.pfcFrame (s : State) (p vec : Nat) (times : List Nat) : List Byte :=
  withFcs (beBytes 6 0x0180C2000001 ++ beBytes 6 (s.portMac p) ++ beBytes 2 0x8808 ++ beBytes 2 0x0101 ++ beBytes 2 vec ++
    times.flatMap (beBytes 2))

/-- The 802.3 pause frame of R274. -/
def State.pauseFrame (s : State) (p time : Nat) : List Byte :=
  withFcs (beBytes 6 0x0180C2000001 ++ beBytes 6 (s.portMac p) ++ beBytes 2 0x8808 ++ beBytes 2 0x0001 ++ beBytes 2 time)

/-- A control frame is queued at the MAC; a port that is not UP sends none (R274). -/
def State.queueCtl (s : State) (p : Nat) (f : List Byte) : State :=
  if s.isUp p then s.setNp p { s.np p with ctl := (s.np p).ctl ++ [f] } else s

/-- The lossless PGs of a port that are in XOFF. -/
def State.xoffPris (s : State) (p : Nat) : List Nat :=
  (List.range 8).filter (fun i => s.lossless p i && s.inXoff p i)

/-- The pause frame of the port's mode after its PGs changed from `before` (R274): in mode 2 every changed PG with QUANTA or 0, in
mode 1 only when the first enters or the last leaves. [log: DEDUCED 90] -/
def State.pauseChange (s : State) (p : Nat) (before : List Nat) : State :=
  let now := s.xoffPris p
  let changed := (List.range 8).filter (fun i => before.contains i != now.contains i)
  if changed.isEmpty then s
  else match s.pauseMode p with
    | 2 => s.queueCtl p (s.pfcFrame p (changed.map (fun i => 2 ^ i)).sum
        ((List.range 8).map (fun i => if changed.contains i && now.contains i then s.quanta p else 0)))
    | 1 => if before.isEmpty then s.queueCtl p (s.pauseFrame p (s.quanta p))
        else if now.isEmpty then s.queueCtl p (s.pauseFrame p 0) else s
    | _ => s

/-- The frame of the port's mode with QUANTA for each PG in XOFF: at UP, and every QUANTA / 2 quanta (R274). -/
def State.pauseAgain (s : State) (p : Nat) : State :=
  let now := s.xoffPris p
  if now.isEmpty then s
  else match s.pauseMode p with
    | 2 => s.queueCtl p (s.pfcFrame p (now.map (fun i => 2 ^ i)).sum
        ((List.range 8).map (fun i => if now.contains i then s.quanta p else 0)))
    | 1 => s.queueCtl p (s.pauseFrame p (s.quanta p))
    | _ => s

/-- What drives a lossless PG into XOFF now, as CAUSE shows it: XOFF reached, pool low, Anvil (R259, R291). [log: DEDUCED 80] -/
def State.xoffCause (s : State) (t p i : Nat) : Nat :=
  b2n (decide (s.pgXoff p i ≤ s.sharedUsed p i)) +
    2 * b2n (s.poolLow t && decide (0 < s.sharedUsed p i)) +
    4 * b2n (decide (s.fget F.pgCfg3_ANV_XOFF p i * 2 ^ 20 ≤ s.anvUsed t p i) && !s.hz)

/-- A lossless PG may leave XOFF (R259). [log: DEDUCED 81] -/
def State.xonOk (s : State) (t p i : Nat) : Bool :=
  decide (s.hdrmUsed p i = 0) && decide (s.sharedUsed p i ≤ s.pgXon p i) &&
    (decide (s.sharedUsed p i = 0) || decide (s.fget F.poolCfg_POOL_XON_FREE t * 16 ≤ s.sharedFree t)) &&
    (s.hz || decide (s.anvUsed t p i ≤ s.fget F.pgCfg3_ANV_XON p i * 2 ^ 20))

/-- A PG takes the XOFF state with a cause, or leaves it. [log: DEDUCED 80] -/
def State.setXoff (s : State) (p i cause : Nat) (on : Bool) : State :=
  (s.fset F.pgStatus3_XOFF (b2n on) p i).fset F.pgStatus3_CAUSE (if on then cause else 0) p i

/-- The XOFF rule of R259 applied to every PG of a tile, with one pause frame for each port that changed (R274). Lossy PGs are
never in XOFF. [log: DEDUCED 81, 90] -/
def State.pgScan (s : State) (t : Nat) : State :=
  s.each (s.tilePorts t) (fun p s =>
    let before := s.xoffPris p
    let s1 := forN 8 (fun i s =>
      if s.lossless p i then
        let c := s.xoffCause t p i
        if s.inXoff p i then (if c = 0 ∧ s.xonOk t p i = true then s.setXoff p i 0 false else s)
        else if c ≠ 0 then s.setXoff p i c true else s
      else if s.inXoff p i then s.setXoff p i 0 false else s) s
    s1.pauseChange p before)

/-! ## Admission of a cell (R258) -/

/-- A cell charged to a PG: from its headroom or from the shared pool; the code where the list has none. -/
def State.chargedCell (s : State) (t p i code : Nat) (hdrm : Bool) : Except Nat Nat × State :=
  match s.takeCell t with
  | (none, s1) => (.error code, s1)
  | (some c, s1) => (.ok c, if hdrm then s1.fset F.pgStatus1_HDRM_USED (s1.hdrmUsed p i + 1) p i
      else s1.fset F.pgStatus0_SHARED_USED (s1.sharedUsed p i + 1) p i)

/-- The rule of R258 for one arriving cell of PG (p, i): the cell or the drop code, and the state after. A PG that the rule puts into XOFF enters
it whether or not its cell finds room (R259, R274). -/
def State.admitCell (s : State) (t p i : Nat) : Except Nat Nat × State :=
  if s.lossless p i then
    if s.inXoff p i = false ∧ 0 < s.sharedFree t then s.chargedCell t p i 0x0503 false
    else
      let before := s.xoffPris p
      let s1 := if s.inXoff p i then s else (s.setXoff p i 2 true).pauseChange p before
      if s1.hdrmUsed p i < s1.pgHeadroom p i ∧ 0 < s1.freeCells t then s1.chargedCell t p i 0x0503 true
      else if 0 < s1.sharedFree t then s1.chargedCell t p i 0x0503 false
      else (.error 0x0503, s1)
  else if s.sharedFree t = 0 then (.error 0x0505, s)
  else if s.sharedUsed p i < s.pgLimit p i then s.chargedCell t p i 0x0505 false
  else (.error 0x0504, s)

/-! ## Frames in a tile -/

/-- The length of a frame as the tile holds it now. -/
def Frame.len (f : Frame) : Nat := f.data.length

/-- The cells of a frame go back: to the refill account or to its PG (R256, R258, R263). -/
def State.freeFrameCells (s : State) (t fid : Nat) : State :=
  let f := s.frame t fid
  let n := f.cells.length
  let s1 := (s.freeCellList t f.cells).setFrame t fid { f with cells := [] }
  let s2 := if f.refilled then s1.setBuf t { s1.buf t with refill := (s1.buf t).refill - n }
    else s1.uncharge f.m.iport f.m.ipri n
  s2.pgScan t

/-- The frame is gone from the tile. -/
def State.forget (s : State) (t fid : Nat) : State :=
  s.setBuf t { s.buf t with frames := tdel (s.buf t).frames fid }

/-- A frame whose cells are free and that nothing names any more is forgotten: its result is out, or it was never parsed, and its
last beat has come. -/
def State.sweep (s : State) (t fid : Nat) : State :=
  let f := s.frame t fid
  if f.cells.isEmpty ∧ f.done = true ∧ (f.released = true ∨ f.parsed = false) ∧ f.linked = false ∧
      (s.buf t).rx.all (fun e => decide (e.2 ≠ fid + 1)) = true then s.forget t fid else s

/-- One reference of a frame ends; the cells are freed when none is left (R255). -/
def State.endRef (s : State) (t fid : Nat) : State :=
  let f := s.frame t fid
  let s1 := s.setFrame t fid { f with refs := f.refs - 1, linked := decide (1 < f.refs) }
  if f.refs ≤ 1 then (s1.freeFrameCells t fid).sweep t fid else s1

/-- The port a discard of a frame is counted by: ingress cases at the ingress port, otherwise the egress port (R355). -/
def dropPort (code : Nat) (m : FMeta) : Nat := if code ≤ 0x0508 ∨ 0x0600 ≤ code ∨ m.mc = true then m.iport else m.eport

/-- The TX entry a frame of direct mode came from has its outcome (R393, R397): INFO of a frame that was not sent is a free value.
[log: DESIGN CHOICE 8, DEDUCED 93] -/
def State.txDrop (s : State) (code : Nat) (m : FMeta) : State :=
  match m.tx with
  | none => s
  | some (r, gen, pos) =>
    let d := s.draw
    d.2.complete r gen pos code 0 (d.1.toNat % 2 ^ 32)

/-- A frame is discarded with a code, counted once in the tile (R286). [log: DEDUCED 85] -/
def State.discard (s : State) (t code : Nat) (m : FMeta) : State :=
  (s.dropCount t code (s.slotOf (dropPort code m)) (if code ≤ 0x0508 ∨ 0x0600 ≤ code then m.ipri else m.cls)).txDrop code m

/-- A frame is discarded by the egress tile of port `p` (R299, R322). -/
def State.discardAt (s : State) (p code : Nat) (m : FMeta) : State :=
  (s.dropCount (s.tileOf p) code (s.slotOf p) m.cls).txDrop code m

/-- A dropped frame leaves the exception queue (R175). -/
def State.excForget (s : State) (t fid : Nat) : State :=
  let v := tget s.cirrus.tiles t {}
  { s with cirrus := { s.cirrus with
      tiles := tset s.cirrus.tiles t {} { v with exc := v.exc.filter (fun x => decide (x.fid ≠ fid)) } } }

/-- A frame is dropped whole while it waits, is in the pipes or is queued: its references leave their queues, its cells are freed, with the end of
a reference that is crossing or being written if there is one (R255), and its result, if still to come, is released without it (R258, R272).
[log: DEDUCED 65] -/
def State.killFrame (s : State) (t fid code : Nat) : State :=
  let f := s.frame t fid
  let out (v : Voq) : Voq := { v with
    ready := if (v.head.head?.map Ref.fid) = some fid then 0 else v.ready
    granted := if (v.head.head?.map Ref.fid) = some fid then 0 else v.granted
    head := v.head.filter (fun r => decide (r.fid ≠ fid))
    due := v.due.filter (fun r => decide (r.fid ≠ fid))
    behind := v.behind.filter (fun r => decide (r.fid ≠ fid)) }
  let s1 := (s.discard t code f.m).excForget t fid
  let s2 := s1.each ((s1.buf t).voqs.map (fun e => e.1)) (fun q s => s.setVoq t q (out (s.voq t q)))
  let held := ((s1.buf t).voqs.map (fun e => (e.2.crossing.toList ++ e.2.writing.toList).countP (fun r => decide (r.fid = fid)))).sum
  let s3 := s2.setFrame t fid { f with dead := some code, linked := decide (0 < held), refs := held }
  if held = 0 then (s3.freeFrameCells t fid).sweep t fid else s3

/-! ## Queues -/

/-- The cells of a list of references, and their bytes. [log: DEDUCED 82] -/
def State.refCells (s : State) (t : Nat) (l : List Ref) : Nat := (l.map (fun r => (s.frame t r.fid).cells.length)).sum
def State.refBytes (s : State) (t : Nat) (l : List Ref) : Nat := (l.map (fun r => (s.frame t r.fid).len)).sum

/-- The frame of a record, and the bytes it takes. -/
def Rec.data (r : Rec) : List Byte := recFrame r.raw

/-- The references of a queue whose frames it holds in SRAM, in order: the head, the one being written, those due and those behind. -/
def Voq.sram (v : Voq) : List Ref := v.head ++ v.writing.toList ++ v.due ++ v.behind

/-- Bytes a queue holds in Anvil, and in SRAM and Anvil together (R286). -/
def Voq.anvBytes (v : Voq) : Nat := (v.seg.map (fun r => r.data.length)).sum
def State.voqBytes (s : State) (t q : Nat) : Nat :=
  let v := s.voq t q
  s.refBytes t v.sram + v.anvBytes

/-- The queue holds nothing but perhaps the frame that crosses. -/
def Voq.isEmpty (v : Voq) : Bool := v.head.isEmpty && v.due.isEmpty && v.seg.isEmpty && v.behind.isEmpty && v.writing.isNone

/-- The profile of a queue (R292): multicast queues use profile 15. -/
def State.profOf (s : State) (t q : Nat) : Nat :=
  if 4096 ≤ q then 15 else bits (s.rd .voqSel t (q / 8)).toNat (4 * (q % 8) + 3) (4 * (q % 8))

/-- The destination of a queue: egress port or, for a multicast queue, destination tile; and its class (R250). -/
def destOf (q : Nat) : Nat := if 4096 ≤ q then (q - 4096) / 8 else q / 8

/-- Queues may enter SPILL and segments may be written (R262, R269). -/
def State.anvilOpen (s : State) : Bool :=
  s.flag F.anvilCtl_EN && s.flag F.anvilStatus_READY && !s.hz && !s.flag F.pwrStatus_ANVIL_OFF

/-- The frames of an SRAM head that begin fewer than `keep` cells from its start, and the rest (R262). -/
def State.splitHead (s : State) (t keep : Nat) (l : List Ref) : List Ref × List Ref :=
  match l with
  | [] => ([], [])
  | r :: rest => if keep = 0 then ([], r :: rest)
    else let x := s.splitHead t (keep - (s.frame t r.fid).cells.length) rest
      (r :: x.1, x.2)

/-- GRANT of a port in bytes (R330), in Horizon mode the reset value's. -/
def State.grantBytes (s : State) (p : Nat) : Nat := 256 * 2 ^ min 6 (if s.hz then 3 else s.fget F.portSched_GRANT p)

/-- An empty queue keeps at most one grant; the rest returns to Nimbus with its reservation (R252). -/
def Voq.capBalance (v : Voq) (grant : Nat) : Voq :=
  if v.isEmpty && v.crossing.isNone && decide ((grant : Int) < v.balance) then
    { v with balance := grant, res := (v.res.drop (v.res.length - 1)).map (fun r => (min r.1 grant, r.2)) }
  else v

/-- What a queue reports to its Nimbus (R252): none when it is empty, else its backlog band. -/
def State.report252 (s : State) (t q : Nat) : Option Nat :=
  let v := s.voq t q
  let n := s.voqBytes t q
  if v.isEmpty then none
  else some (if v.spill = true ∨ 2 ^ 20 ≤ n then 3 else if 65536 ≤ n then 2 else if 4096 ≤ n then 1 else 0)

/-- A queue leaves SPILL when its segment and tail assembly are empty and nothing is outstanding: what stands behind joins the head (R264, R269);
a queue outside SPILL whose head exceeds SPILL_THR enters it (R262). -/
def State.voqNorm (s : State) (t q : Nat) : State :=
  let v := s.voq t q
  let k := s.profOf t q
  let thr := s.fget F.voqProf0_SPILL_THR t k
  let keep := min thr (s.fget F.voqProf0_KEEP t k)
  let stuck := !s.anvilOpen || (v.head.isEmpty && v.due.any (fun r => r.waited))
  if v.spill then
    if v.seg.isEmpty && v.writing.isNone && !v.reading && v.tail.isEmpty && (v.due.isEmpty || stuck) then
      s.setVoq t q { v with spill := false, head := v.head ++ v.due ++ v.behind, due := [], behind := [] }
    else s
  else if s.flag F.voqProf1_SPILL_EN t k ∧ s.anvilOpen = true ∧ thr < s.refCells t v.head then
    let x := s.splitHead t keep v.head
    s.setVoq t q { v with spill := true, head := x.1, due := x.2 }
  else s

/-- The SPILL rule for every queue of a tile, and of every tile (R262, R269). -/
def State.normTile (s : State) (t : Nat) : State := s.each ((s.buf t).voqs.map (fun e => e.1)) (fun q s => s.voqNorm t q)
def State.normAll (s : State) : State := s.each (s.tm.tiles.map (fun b => b.1)) (fun t s => s.normTile t)

/-- A linked frame has grown by a cell: a queue it waits in may enter SPILL (R262). -/
def State.headGrew (s : State) (t fid : Nat) : State :=
  s.each (((s.buf t).voqs.filter (fun e => e.2.head.any (fun r => decide (r.fid = fid)))).map (fun e => e.1)) (fun q s => s.voqNorm t q)

/-! ## Receiving -/

/-- A frame that has started cut-through is stomped: it ends after `n` bytes with BAD on its last cell (R273). [log: DEDUCED 86] -/
def State.stomp (s : State) (t fid n : Nat) : State :=
  let f := s.frame t fid
  (s.setFrame t fid { f with data := f.data.take n, bad := true, done := true }).bump .cntStomp t

/-- The frame port `p` is receiving. -/
def State.rxFid (s : State) (t p : Nat) : Option Nat :=
  match tget (s.buf t).rx p 0 with
  | 0 => none
  | n + 1 => some n

def State.setRx (s : State) (t p n : Nat) : State := s.setBuf t { s.buf t with rx := tset (s.buf t).rx p 0 n }

/-- MAX_FRAME of R273 for a frame that is being cut through: its ingress port's, and its egress port's by R251. [log: DEDUCED 87] -/
def State.ctLimit (s : State) (m : FMeta) : Nat := min (s.maxFrame m.iport) (s.maxFrame m.eport)

/-- Bytes of a frame arrive and go to cells: a new cell at every 256th byte, admitted under R258. A refusal drops the frame
whole, or stomps it once its cut-through has started. -/
def State.rxBytes (s : State) (t fid : Nat) (bs : List Byte) : State :=
  let f := s.frame t fid
  let f1 : Frame := { f with rxLen := f.rxLen + bs.length }
  if f.dead.isSome ∨ f.bad = true then s.setFrame t fid f1
  else if f.data.length + bs.length ≤ 256 * f.cells.length then s.setFrame t fid { f1 with data := f.data ++ bs }
  else match s.admitCell t f.m.iport f.m.ipri with
    | (.ok c, s1) =>
      let s2 := s1.setFrame t fid { f1 with data := f.data ++ bs, cells := f.cells ++ [c] }
      let s3 := (s2.when f.linked (fun s => s.headGrew t fid)).pgScan t
      if f.ct = true ∧ s3.ctLimit f.m < f1.data.length + bs.length then s3.stomp t fid (s3.ctLimit f.m) else s3
    | (.error code, s1) =>
      if f.ct then (s1.setFrame t fid f1).stomp t fid f.data.length
      else (s1.setFrame t fid f1).killFrame t fid code

/-- The receive timestamp of port `p`: the PTP clock with RX_ADJ added (R112, R432). -/
def State.rxStamp (s : State) (p : Nat) : Nat := ((s.ptpNs : Int) + toSigned 16 (s.fget F.tsAdj_RX_ADJ p)).toNat

/-- A frame that the MAC consumes with RX_EN at 1: a pause or PFC frame (R275). [log: DEDUCED 89] -/
def isPause (bs : List Byte) : Bool :=
  decide (beNat (bytesAt bs 0 6) = 0x0180C2000001) && decide (half bs 12 = 0x8808) &&
    (decide (half bs 14 = 0x0001) || decide (half bs 14 = 0x0101))

/-- The bytes of the pause or PFC frame that the MAC of port `p` is consuming (R275). -/
def State.rxCtl (s : State) (p : Nat) : List Byte := tget (s.buf (s.tileOf p)).rxCtl p []
def State.setRxCtl (s : State) (p : Nat) (bs : List Byte) : State :=
  let t := s.tileOf p
  s.setBuf t { s.buf t with rxCtl := tset (s.buf t).rxCtl p [] bs }

/-- A beat of a frame of port `p`: the first one starts a frame, stamped and charged by its first 64 bytes (R247, R249). Beats of a
pause frame that the MAC consumes never reach the tile (R275), and a port that is not UP, or whose tile is not clocked, receives
nothing. [log: DEDUCED 89] -/
def State.rxBeat (s : State) (p : Nat) (bs : List Byte) : State :=
  let t := s.tileOf p
  if s.isUp p = false ∨ s.tileOn t = false then s
  else match s.rxFid t p with
    | some fid => s.rxBytes t fid bs
    | none =>
      if (s.rxCtl p).isEmpty = false ∨ (s.rxPauseEn p = true ∧ isPause bs = true) then s.setRxCtl p (s.rxCtl p ++ bs)
      else
        let b := s.buf t
        let f : Frame := { data := [], m := { iport := p, ipri := s.ipriOf p bs, arrivalNs := s.rxStamp p } }
        ((s.setBuf t { b with nextFid := b.nextFid + 1, rx := tset b.rx p 0 (b.nextFid + 1) }).setFrame t b.nextFid f).rxBytes
          t b.nextFid bs

/-- A beat of at most 64 bytes, not the frame's last. -/
def execBeatArrival (p : Nat) (bytes : List Byte) (s : State) : Host.Outcome State Fault Refusal :=
  .next (s.rxBeat p (bytes.take 64))

/-- The MAC's verdict on a whole frame of port `p`, with what R272 and R273 make of it. -/
def State.rxVerdict (s : State) (t fid : Nat) (good : Bool) : State :=
  let f := s.frame t fid
  let p := f.m.iport
  let ok := good && decide (64 ≤ f.rxLen)
  let s1 := s.setFrame t fid { f with done := true, good := ok }
  let s2 := if ok then ((s1.perf t 1 (some (s.slotOf p)) none none 1).perf t 2 (some (s.slotOf p)) none none f.rxLen) else s1
  if f.dead.isSome ∨ f.bad = true then s2.sweep t fid
  else if f.ct then
    if s.ctLimit f.m < f.data.length then s2.stomp t fid (s.ctLimit f.m)
    else if ok then s2 else s2.stomp t fid f.data.length
  else if s.maxFrame p < f.rxLen then s2.killFrame t fid 0x0502
  else if ok = false then s2.killFrame t fid 0x0501
  else if f.linked = true ∧ f.m.mc = false ∧ s.maxFrame f.m.eport < f.data.length then s2.killFrame t fid 0x050C
  else s2

/-- Loss of the ingress link in the middle of a frame: the frame ends there, with a bad verdict (R44, R273). -/
def State.ingressLinkLost (s : State) (p : Nat) : State :=
  let t := s.tileOf p
  match s.rxFid t p with
  | some fid => (s.setRx t p 0).rxVerdict t fid false
  | none => if (s.rxCtl p).isEmpty then s else s.setRxCtl p []

/-! ## Linking -/

/-- A reference joins a queue in link order (R250, R262, R269). -/
def State.enqueue (s : State) (t q : Nat) (r : Ref) : State :=
  let v := s.voq t q
  let v1 : Voq :=
    if v.spill then
      if s.anvilOpen && v.behind.isEmpty then { v with due := v.due ++ [r] } else { v with behind := v.behind ++ [r] }
    else { v with head := v.head ++ [r] }
  (s.setVoq t q v1).voqNorm t q

/-- A received-pause watchdog holds on a class with WD_DROP at 1 (R278). -/
def State.wdDrops (s : State) (p c : Nat) : Bool := (s.nc p c).wd && s.flag F.egrCfg2_WD_DROP p && !s.hz

/-- The first linking case of R286 that discards a unicast frame of `m` with length `len`. -/
def State.linkDrop (s : State) (t : Nat) (m : FMeta) (done : Bool) (len : Nat) : Option Nat :=
  let q := 8 * m.eport + m.cls
  if s.portEnabled m.eport = false then some 0x050A
  else if done = true ∧ s.maxFrame m.eport < len then some 0x050C
  else if (s.np m.eport).downHeld && !s.isUp m.eport then some 0x050B
  else if s.wdDrops m.eport m.cls then some 0x050E
  else if (s.voq t q).safe then some 0x0512
  else if s.lossless m.iport m.ipri = false ∧ s.fget F.voqProf1_VOQ_MAX t (s.profOf t q) * 1024 ≤ s.voqBytes t q then some 0x0509
  else none

/-- The page at a place of group `g`'s ring as first built, and the place of a page: the channels of the group take turns.
[log: DESIGN CHOICE 79] -/
def placePage (g k : Nat) : Nat := g * 3145728 + k % 4 * 786432 + k / 4
def pagePlace (p : Nat) : Nat := p % 786432 * 4 + p % 3145728 / 786432

/-- Entries of the on-chip cache (R261). -/
def AnvGroup.count (v : AnvGroup) : Nat := v.cache.length + (v.hi - v.lo)

/-- The state bit of a page says free: it is in the cache or in the ring (R261). -/
def AnvGroup.isFree (v : AnvGroup) (p : Nat) : Bool :=
  v.cache.contains p || v.ring.any (fun r => decide (r.page = p) || r.idx.contains p) || decide (v.lo ≤ pagePlace p)

/-- A ring page's 1,022 indices come into the cache, and the page itself, which is free (R261). -/
def AnvGroup.refill (v : AnvGroup) : AnvGroup :=
  match v.ring with
  | r :: rest => { v with cache := v.cache ++ r.page :: r.idx, ring := rest }
  | [] => { v with hi := min (v.hi + 1023) 3145728 }

/-- 1,022 entries of the cache go to a ring page, which is one more of them (R261). -/
def AnvGroup.writeback (v : AnvGroup) : AnvGroup :=
  if 1023 ≤ v.cache.length then { v with cache := v.cache.drop 1023, ring := ⟨v.cache.headD 0, (v.cache.drop 1).take 1022⟩ :: v.ring }
  else if v.lo + 1023 ≤ v.hi ∧ v.ring = [] then { v with hi := v.hi - 1023 }
  else v

/-- A freed page enters the cache, from which a ring page is written first when all its 4,096 entries are taken. -/
def AnvGroup.put (v : AnvGroup) (p : Nat) : AnvGroup :=
  let w := if 4096 ≤ v.count then v.writeback else v
  { w with cache := w.cache ++ [p] }

def State.group (s : State) (g : Nat) : AnvGroup := tget s.tm.anvil.groups g {}
def State.setGroup (s : State) (g : Nat) (v : AnvGroup) : State :=
  { s with tm := { s.tm with anvil := { s.tm.anvil with groups := tset s.tm.anvil.groups g {} v } } }

/-- The ring pages of a group as GDDR7 holds them, newest first: each links to the next. -/
def AnvGroup.ringImage (v : AnvGroup) : List (List Byte) :=
  v.ring.zipIdx.map (fun r => ringPageBytes r.1.idx ((v.ring[r.2 + 1]?.map RingPage.page).getD 0))

/-- Pages go back to their groups' free rings; a page that is free already is ignored, counted and reported (R261, R265). -/
def State.freePages (s : State) (ps : List Nat) : State :=
  s.each ps (fun p s =>
    let g := p / 3145728
    if (s.group g).isFree p then (s.bump .cntPageDoubleFree).report (srcAnvilCh (p / 786432)) 0x0B (p % 786432)
    else if s.tm.anvil.retired.contains p then s
    else (s.setGroup g ((s.group g).put p)).fset F.grpFree_V (s.fget F.grpFree_V 0 g + 1) 0 g)

/-- Every reference of a list ends, its frame discarded with a code. -/
def State.dropRefs (s : State) (t code : Nat) (l : List Ref) : State :=
  s.each l (fun r s => (s.discard t code (s.frame t r.fid).m).endRef t r.fid)

/-- Records of a segment are discarded with a code and their charge is returned (R256, R286). -/
def State.dropRecs (s : State) (t code : Nat) (l : List Rec) : State :=
  (s.each l (fun r s => (s.setAnvUsed t r.m.iport r.m.ipri (s.anvUsed t r.m.iport r.m.ipri - r.raw.length)).discard
    t code r.m)).pgScan t

/-- The controller powers Anvil down once it is drained, when ANVIL_PD asks for it (R458). -/
def State.anvilOff (s : State) : State :=
  if s.flag F.anvilStatus_DRAINED ∧ s.flag F.pwrCfg_ANVIL_PD = true ∧ s.flag F.anvilCtl_EN = false then
    { (s.fset F.pwrStatus_ANVIL_OFF 1).fset F.anvilStatus_READY 0 with power := { s.power with gddrOn := false } }
  else s

/-- Every segment is empty while EN is 0: DRAINED sets and EV_ANVIL_DRAINED is posted once (R269). -/
def State.drainCheck (s : State) : State :=
  if s.flag F.anvilCtl_EN = false ∧ s.flag F.anvilStatus_DRAINED = false ∧
      s.tm.tiles.all (fun b => b.2.voqs.all (fun v => v.2.seg.isEmpty && v.2.writing.isNone)) then
    ((s.fset F.anvilStatus_DRAINED 1).post 0x0304 0).anvilOff
  else s

/-- A queue is flushed: every frame in it and its records are discarded with a code, its balance is settled and the reservations
return to Nimbus (R252, R285, R287). The frame that crosses goes on. [log: DEDUCED 83, 88] -/
def State.flushQueue (s : State) (t q code : Nat) : State :=
  let v := s.voq t q
  let w : Voq := { crossing := v.crossing, safe := v.safe, rot := v.rot }
  ((((s.setVoq t q w).dropRefs t code v.sram).dropRecs t code v.seg).freePages v.pages).drainCheck

/-- The unicast queues of a port are flushed in every tile (R285, R299). -/
def State.flushVoqs (s : State) (p code : Nat) : State :=
  forN 16 (fun t s => forN 8 (fun c s => if s.voq t (8 * p + c) = {} then s else s.flushQueue t (8 * p + c) code) s) s

/-! ## Anvil pages, spill and refill -/

/-- Channel `n` is in service: trained, not retired, not in its safe state. -/
def State.chInService (s : State) (n : Nat) : Bool := bitAt (s.rd .chActive).toNat n

/-- Slots of stream slots `lo` to `hi` − 1 of a queue that lie in channel `n`. -/
def Voq.slotsIn (v : Voq) (lo hi n : Nat) : Nat :=
  (List.range (hi - lo)).countP (fun i => match v.pages[(lo + i) / 16 - v.gone]? with
    | some p => decide (p / 786432 = n)
    | none => false)

/-- Transactions of a queue outstanding in channel `n` (R265, R267): one for each slot that the write under way completes, and one for each slot
that the read under way takes from the pages. -/
def Voq.outstanding (v : Voq) (n len : Nat) : Nat :=
  (if v.writing.isSome then v.slotsIn (slotNo (v.wrPos - recBytes len)) (slotNo v.wrPos) n else 0) +
    (match v.reading, v.seg with
    | true, r :: _ => v.slotsIn (slotNo r.pos) (min (slotNo (r.pos + r.raw.length - 1) + 1) (slotNo v.wrPos)) n
    | _, _ => 0)

/-- OUTSTANDING of channel `n` (R267, R294). -/
def State.outstanding (s : State) (n : Nat) : Nat :=
  (s.tm.tiles.map (fun b => (b.2.voqs.map (fun e =>
    e.2.outstanding n ((e.2.writing.map (fun r => (s.frame b.1 r.fid).len)).getD 0))).sum)).sum

/-- A channel takes a new page: in service and below its limit (R267). -/
def State.chOpen (s : State) (n : Nat) : Bool := s.chInService n && decide (s.outstanding n < 2048)

/-- The channels that stream slots `lo` to `hi` − 1 of a queue touch have room for their transactions (R267). -/
def State.slotRoom (s : State) (v : Voq) (lo hi : Nat) : Bool :=
  (List.range 32).all (fun n => let k := v.slotsIn lo hi n
    decide (k = 0) || decide (s.outstanding n + k ≤ 2048))

/-- The next page of group `g` from its cache, on a channel that takes it (R261, R267); pages retired are not in the ring (R524).
[log: DESIGN CHOICE 79] -/
def State.groupPage (s : State) (g : Nat) : Option (Nat × AnvGroup) :=
  let v := s.group g
  let good (p : Nat) : Bool := s.chOpen (p / 786432) && !s.tm.anvil.retired.contains p
  match v.cache.find? good with
  | some p => some (p, { v with cache := v.cache.filter (fun x => decide (x ≠ p)) })
  | none => match (List.range (v.hi - v.lo)).find? (fun k => good (placePage g (v.lo + k))) with
    | some k => some (placePage g (v.lo + k), { v with
        lo := v.lo + k + 1
        cache := v.cache ++ ((List.range k).map (fun x => placePage g (v.lo + x))).filter (fun p => !s.tm.anvil.retired.contains p) })
    | none => none

/-- A page out of its group's ring; a ring page's indices go on in the first of them. -/
def AnvGroup.without (v : AnvGroup) (p : Nat) : AnvGroup :=
  { v with
    cache := v.cache.filter (fun x => decide (x ≠ p))
    ring := (v.ring.map (fun r => if r.page = p then ⟨r.idx.headD 0, r.idx.drop 1⟩
      else ({ r with idx := r.idx.filter (fun x => decide (x ≠ p)) } : RingPage))) }

/-- A page leaves the free ring until the next Dawn: the use of a spare is posted and reported (R524, R525). -/
def State.retirePage (s : State) (page : Nat) : State :=
  let n := page / 786432
  let g := page / 3145728
  let used := s.fget F.spareAnvil_PAGES_RETIRED n
  if s.tm.anvil.retired.contains page ∨ 16384 ≤ used then s
  else
    let s1 : State := { s with tm := { s.tm with anvil := { s.tm.anvil with retired := s.tm.anvil.retired ++ [page] } } }
    let s2 := (s1.setGroup g ((s.group g).without page)).when ((s.group g).isFree page)
      (fun s => s.fset F.grpFree_V (s.fget F.grpFree_V 0 g - 1) 0 g)
    ((s2.fset F.spareAnvil_PAGES_RETIRED (used + 1) n).post 0x0901 (4 + n * 256)).report srcBist 0x21 (4 * 2 ^ 44 + n)

/-- One page for a segment from the next group of its rotation that has one (R265). [log: DESIGN CHOICE 79] -/
def State.takePage (s : State) (rot : Nat) : Option (Nat × Nat × State) :=
  ((List.range 8).map (fun k => (rot + k) % 8)).findSome? (fun g =>
    if s.fget F.grpFree_V 0 g = 0 then none
    else (s.groupPage g).map (fun x =>
      (x.1, (g + 1) % 8, ((s.setGroup g x.2).fset F.grpFree_V (s.fget F.grpFree_V 0 g - 1) 0 g).bump .cntPagesAlloc)))

/-- Pages taken until a segment holds `n` and its next one in advance; none when the groups have none (R265, R266). -/
def State.takePages (s : State) (n : Nat) (v : Voq) (fuel : Nat) : Option (Voq × State) :=
  match fuel with
  | 0 => none
  | fuel + 1 =>
    if n ≤ v.gone + v.pages.length then some (v, s)
    else match s.takePage v.rot with
      | none => none
      | some (p, rot, s1) => s1.takePages n { v with pages := v.pages ++ [p], rot := rot } fuel

/-- Frames due to spill wait in SRAM, each counted once (R266). -/
def State.spillWaits (s : State) (t q : Nat) : State :=
  let v := s.voq t q
  ((s.setVoq t q { v with due := v.due.map (fun r => { r with waited := true }) }).bump .cntSpillWait 0 0
    (v.due.countP (fun r => !r.waited))).voqNorm t q

/-- Some queue has frames that wait to spill, as SPILL_LIMITED shows it (R266, R294). -/
def State.spillLimited (s : State) : Bool :=
  s.tm.tiles.any (fun b => b.2.voqs.any (fun e => e.2.due.any (fun r => r.waited)))

/-- The oldest frame due to spill starts its write (R262, R265, R267). It waits with those behind it when the tile's share of the rate is used up
(`limited`), when no page is free and when a channel is at its limit (R266). [log: DEDUCED 208] -/
def execSpillWriteStart (t q : Nat) (limited : Bool) (s : State) : Host.Outcome State Fault Refusal :=
  .next (
    let v := s.voq t q
    match v.due with
    | [] => s
    | r :: rest =>
      if s.anvilOpen = false ∨ v.writing.isSome = true ∨ (s.frame t r.fid).done = false then s
      else
        let v0 : Voq := if v.pages.isEmpty && v.seg.isEmpty then { v with rot := q % 8, wrPos := 0, rdPos := 0, gone := 0, tail := [] } else v
        let fin := v0.wrPos + recBytes (s.frame t r.fid).len
        match (if limited then none else s.takePages (ceilDiv fin 4080 + 1) v0 8) with
        | none => s.spillWaits t q
        | some (v1, s1) =>
          if s.slotRoom v1 (slotNo v0.wrPos) (slotNo fin) then s1.setVoq t q { v1 with due := rest, writing := some r, wrPos := fin }
          else s.spillWaits t q)

/-- The write completes after `retries` retries of its data (R260): the record is in the segment, what its last slot holds in the tail assembly
(R262), the charge moves to ANV_USED and the SRAM reference ends (R255, R266). [log: DEDUCED 83] -/
def execSpillWriteComplete (t q retries : Nat) (s : State) : Host.Outcome State Fault Refusal :=
  .next (
    let v := s.voq t q
    match v.writing with
    | none => s
    | some r =>
      let f := s.frame t r.fid
      let raw := recordBytes f.data f.m r.mask
      let n := recBytes f.len
      let all := v.tail ++ raw
      let s1 := s.setVoq t q { v with writing := none, seg := v.seg ++ [⟨raw, f.m, r.mask, v.wrPos - n⟩],
                                      tail := all.drop (all.length - tailLen v.wrPos) }
      let s2 := s1.setAnvUsed t f.m.iport f.m.ipri (s1.anvUsed t f.m.iport f.m.ipri + n)
      let s3 := (((s2.bump .cntSpillBytes 0 0 n).bump .cntEdcRetry 0 0 retries).perf t 9 none (some [q % 8]) none n).endRef t r.fid
      s3.pgScan t)

/-- The page `k` of a segment as GDDR7 holds it (R265): its part of the stream, and its trailer. -/
def State.pageImage (s : State) (t q k : Nat) : List Byte :=
  let v := s.voq t q
  let first := (v.seg.head?.map Rec.pos).getD 0
  bytesAt (List.replicate (first - (v.gone + k) * 4080) 0 ++ ((v.seg.flatMap Rec.raw).drop ((v.gone + k) * 4080 - first))) 0 4080 ++
    trailerBytes (nth v.pages (k + 1) 0) q t

/-- The cells that the frame of a record takes. -/
def Rec.cells (r : Rec) : Nat := ceilDiv r.data.length 256

/-- Refill is due: the head is below KEEP, the tile's refill does not wait, and the channels have room (R263, R267). -/
def State.refillOk (s : State) (t q : Nat) : Bool :=
  let v := s.voq t q
  let k := s.profOf t q
  let keep := min (s.fget F.voqProf0_SPILL_THR t k) (s.fget F.voqProf0_KEEP t k)
  v.spill && !v.reading && (decide (s.refCells t v.head < keep) || v.head.isEmpty) &&
    decide ((s.buf t).refill < s.fget F.refillCfg_REFILL_MAX t) && !s.poolLow t && match v.seg with
      | r :: _ => s.slotRoom v (slotNo r.pos) (min (slotNo (r.pos + r.raw.length - 1) + 1) (slotNo v.wrPos))
      | [] => false

/-- The read of the oldest record is issued (R263). -/
def execRefillReadStart (t q : Nat) (s : State) : Host.Outcome State Fault Refusal :=
  .next (if s.refillOk t q then s.setVoq t q { s.voq t q with reading := true } else s)

/-- Pages whose last record byte has been read are freed once the segment has moved on (R265); an empty segment frees the rest. -/
def State.settlePages (s : State) (t q : Nat) : State :=
  let v := s.voq t q
  if v.seg.isEmpty && v.writing.isNone then
    (s.setVoq t q { v with pages := [], wrPos := 0, rdPos := 0, gone := 0, tail := [] }).freePages v.pages
  else
    let n := v.rdPos / 4080 - v.gone
    (s.setVoq t q { v with pages := v.pages.drop n, gone := v.gone + n }).freePages (v.pages.take n)

/-- A segment ends at stream position `last`, the start of a page: the records that reach beyond it are lost, counted exactly, its pages from there
on are freed, a frame whose write is under way is due again, and what is written later goes to new pages (R268). -/
def State.loseFrom (s : State) (t q last : Nat) : State :=
  let v := s.voq t q
  let out (x : Rec) : Bool := decide (last < x.pos + x.raw.length)
  let lost := v.seg.filter out
  let keep := last / 4080 - v.gone
  let w : Voq := { v with seg := v.seg.filter (fun x => !out x), reading := v.reading && !(v.seg.head?.map out).getD true, writing := none
                          due := v.writing.toList ++ v.due, pages := v.pages.take keep, wrPos := last, tail := [] }
  let s1 := ((s.setVoq t q w).dropRecs t 0x0511 lost).freePages (v.pages.drop keep)
  if lost.isEmpty then s1 else s1.post 0x0305 (q % 4096 + q / 4096 * 4096 + t * 65536)

/-- `n` cells for a refilled frame. -/
def State.takeCells (s : State) (t n : Nat) : List Nat × State :=
  match n with
  | 0 => ([], s)
  | n + 1 => let r := s.takeCell t
    let x := r.2.takeCells t n
    (r.1.toList ++ x.1, x.2)

/-- The read ends (R263–R268) after `retries` retries of its data (R260), three before a CRC counts as failed: a good record becomes a new buffer
at the end of the SRAM head, once cells are free for it; a record with a bad CRC is dropped; a bad page trailer ends the segment, and the records
beyond that page are lost. [log: DEDUCED 208] -/
def execRefillComplete (t q verdict retries : Nat) (s : State) : Host.Outcome State Fault Refusal :=
  .next (
    let v := s.voq t q
    match v.reading, v.seg with
    | true, r :: rest =>
      if verdict = 0 ∧ s.freeCells t < r.cells then s
      else
      let page := nth v.pages (r.pos / 4080 - v.gone) 0
      let s0 := ((s.setAnvUsed t r.m.iport r.m.ipri (s.anvUsed t r.m.iport r.m.ipri - r.raw.length)).bump .cntRefillBytes 0 0 r.raw.length).bump
        .cntEdcRetry 0 0 (if verdict = 0 then retries else 3)
      let v1 : Voq := { v with seg := rest, reading := false, rdPos := r.pos + r.raw.length, tail := if rest.isEmpty then [] else v.tail }
      let s3 :=
        if verdict = 0 then
          let x := s0.takeCells t r.cells
          let b := x.2.buf t
          let f : Frame := { data := r.data, rxLen := r.data.length, m := r.m, done := true, parsed := true, released := true,
                             cells := x.1, refilled := true, linked := true }
          let s1 := x.2.setBuf t { b with nextFid := b.nextFid + 1, frames := tset b.frames b.nextFid {} f,
                                          refill := b.refill + x.1.length }
          s1.setVoq t q { v1 with head := v1.head ++ [{ fid := b.nextFid, mask := r.mask }] }
        else if verdict = 1 then
          ((((s0.setVoq t q v1).discard t 0x0510 r.m).bump .cntDataErr).report (srcAnvilCh (page / 786432)) 0x0D
            (page % 786432)).retirePage page
        else
          ((((s.bump .cntEdcRetry 0 0 3).loseFrom t q ((r.pos / 4080 + 1) * 4080)).bump .cntDataErr).report (srcAnvilCh (page / 786432)) 0x0E
            (page % 786432)).retirePage page
      (((s3.settlePages t q).voqNorm t q).pgScan t).drainCheck
    | _, _ => s)

/-- A group's cache below 1,024 entries takes a ring page's 1,022 indices (R261). -/
def execFreeCacheRefill (g : Nat) (s : State) : Host.Outcome State Fault Refusal :=
  .next (if (s.group g).count < 1024 then s.setGroup g (s.group g).refill else s)

/-- A cache above 3,072 entries writes a ring page's 1,022 indices back (R261). -/
def execFreeCacheWriteback (g : Nat) (s : State) : Host.Outcome State Fault Refusal :=
  .next (if 3072 < (s.group g).count then s.setGroup g (s.group g).writeback else s)

/-- EN of Anvil goes to 0 (R269): frames still due to spill stay in SRAM behind their segment. -/
def State.anvilStop (s : State) : State :=
  let f (v : Voq) : Voq := if v.spill then { v with due := [], behind := v.due ++ v.behind } else v
  let g (b : BufSt) : BufSt := { b with voqs := b.voqs.map (fun e => (e.1, f e.2)) }
  let s1 : State := { s with tm := { s.tm with tiles := s.tm.tiles.map (fun b => (b.1, g b.2)) } }
  ((s1.fset F.anvilCtl_EN 0).normAll).drainCheck

/-- EN returns to 1 (R269): queues with frames behind a segment write nothing more to it, others may enter SPILL. Anvil that was powered down
powers up; it is READY when its channels are trained (R458). -/
def State.anvilStart (s : State) : State :=
  let s1 := ((s.fset F.anvilCtl_EN 1).fset F.anvilStatus_DRAINED 0).fset F.pwrStatus_ANVIL_OFF 0
  State.normAll { s1 with power := { s1.power with gddrOn := s1.power.gddrOn || s.flag F.pwrStatus_ANVIL_OFF } }

/-- Free pages of a group with nothing allocated: the pages of its channels in service less the retired ones. -/
def State.groupPages (s : State) (g : Nat) : Nat :=
  786432 * ((List.range 4).filter (fun k => s.chInService (4 * g + k))).length -
    (s.tm.anvil.retired.filter (fun p => decide (p / 3145728 = g) && s.chInService (p / 786432))).length

/-- The free rings are built: every group's pages are free, and queues may spill (R261, R262, R458). [log: DESIGN CHOICE 79] -/
def State.anvilTrained (s : State) : State :=
  let s1 : State := { s with tm := { s.tm with anvil := { s.tm.anvil with
    groups := (List.range 8).map (fun g => (g, ({ hi := 3069 } : AnvGroup))) } } }
  ((forN 8 (fun g s => s.fset F.grpFree_V (s.groupPages g) 0 g) s1).fset F.anvilStatus_READY 1).normAll

/-- Channel `n` fails or is retired: it takes no new page, and every segment that holds one of its pages ends at the first such page
(R268, R509). -/
def State.channelLost (s : State) (n : Nat) : State :=
  let s1 := s.wr .chActive (s.rd .chActive &&& ~~~(BitVec.ofNat 32 (2 ^ n)))
  (s1.each s1.tm.tiles (fun b s => s.each (s.buf b.1).voqs (fun e s =>
    let v := s.voq b.1 e.1
    match v.pages.findIdx? (fun p => decide (p / 786432 = n)) with
    | some k => (((s.loseFrom b.1 e.1 ((v.gone + k) * 4080)).settlePages b.1 e.1).voqNorm b.1 e.1).pgScan b.1
    | none => s))).drainCheck

end Sys2Proof.Machine
end

