-- ==== Sys2Proof/Machine/Egress.lean ====
section
/-!
DEFINITION. Nimbus (07_egress_scheduling.md): grants and staging, the choice of the next frame, shapers, gates, received pause, and
what a port's link and enable do to its queues.
-/

namespace Sys2Proof.Machine

/-! ## Settings -/

def State.trig (s : State) (k : Nat) : Trig := tget s.time.trigs k {}
def State.setTrig (s : State) (k : Nat) (v : Trig) : State :=
  { s with time := { s.time with trigs := tset s.time.trigs k {} v } }

/-- LEAD of a class in bytes (R296, R330). -/
def State.leadBytes (s : State) (p : Nat) : Nat :=
  let l := if s.hz then 0 else s.fget F.portSched_LEAD p
  1024 * (if l = 0 then 4 * s.widthOf p else l)

/-- OVH of a port: signed, no less than −64 (R303, R330); 20 in Horizon mode. -/
def State.ovh (s : State) (p : Nat) : Int := if s.hz then 20 else max (-64) (toSigned 8 (s.fget F.portSched_OVH p))

def State.weight (s : State) (p c : Nat) : Nat := if s.hz then 1 else max 1 (s.fget F.qsched_WEIGHT p c)
def State.strict (s : State) (p c : Nat) : Bool := s.flag F.qsched_STRICT p c && !s.hz
def State.gateEn (s : State) (p : Nat) : Bool := s.flag F.gateCfg_GATE_EN p && !s.hz

/-- Ls of a frame of `len` bytes (R303). -/
def State.schedLen (s : State) (p len : Nat) : Nat := (max 1 ((len : Int) + s.ovh p)).toNat

/-- A class is paused by received pause frames (R275). -/
def State.isPaused (s : State) (p c : Nat) : Bool := decide (0 < (s.nc p c).paused)

/-! ## Gates -/

/-- The entries of gate list `b` of a port as (gates, nanoseconds), up to the one with INTERVAL 0 (R317). -/
def State.gateList (s : State) (p b : Nat) : List (Nat × Nat) :=
  let unit := if s.flag (if b = 0 then F.gateCfg_UNIT0 else F.gateCfg_UNIT1) p then 64 else 1
  ((List.range 256).map (fun e => (s.rd .gcl p (256 * b + e)).toNat)).takeWhile (fun w => decide (w / 256 ≠ 0)) |>.map
    (fun w => (w % 256, w / 256 * unit))

def State.operList (s : State) (p : Nat) : List (Nat × Nat) := s.gateList p (s.fget F.gateStatus_OPER p)

/-- The start of entry `k` after the start of its cycle (R318). -/
def entryStart (l : List (Nat × Nat)) (k : Nat) : Nat := ((l.take k).map (fun e => e.2)).sum

/-- The trigger a port's gates follow. -/
def State.gateTrig (s : State) (p : Nat) : Trig := s.trig (s.fget F.gateCfg_TRIG p)

/-- The time from a cycle's start to the next firing, for a periodic trigger: as configured at the start of the running cycle, and before the first
cycle as armed now (R320). [log: DEDUCED 94] -/
def State.cyclePeriod (s : State) (p : Nat) : Option Nat :=
  let per := if s.flag F.gateStatus_STARTED p then (s.np p).cyclePer
    else if (s.gateTrig p).mode = 2 then (s.gateTrig p).period else 0
  if per = 0 then none else some per

/-- The end of a run of entries that starts at entry `k` with bit `c` set, after the cycle start; none when it never closes: a run
that holds the last entry closes at the next firing of a periodic trigger, and never under a one-shot (R320). [log: DEDUCED 94] -/
def State.runEnd (s : State) (p c k : Nat) (l : List (Nat × Nat)) : Option Nat :=
  let n := ((l.drop k).takeWhile (fun e => bitAt e.1 c)).length
  if k + n < l.length then some (entryStart l (k + n))
  else s.cyclePeriod p

/-- MAXWIN[c] (R320): 0 with no window, 0x7FFF_FFFF for one that never closes or is that long. [log: DEDUCED 94] -/
def State.maxWin (s : State) (p c : Nat) : Nat :=
  let l := s.operList p
  ((List.range l.length).filter (fun k => bitAt (nth l k (0, 0)).1 c && (decide (k = 0) || !bitAt (nth l (k - 1) (0, 0)).1 c))).foldl
    (fun m k => max m (match s.runEnd p c k l with
      | none => 0x7FFFFFFF
      | some e => min 0x7FFFFFFF (e - entryStart l k))) 0

/-- The gate of a class is open now (R318, R324). -/
def State.gateOpen (s : State) (p c : Nat) : Bool := !s.gateEn p || bitAt (s.fget F.gateStatus_GATES p) c

/-- When the current window of an open class closes, in PTP nanoseconds; none when it does not (R320). -/
def State.windowClose (s : State) (p c : Nat) : Option Nat :=
  let l := s.operList p
  if s.gateEn p = false ∨ s.flag F.gateStatus_STARTED p = false ∨ l.isEmpty = true then none
  else (s.runEnd p c (s.fget F.gateStatus_CUR_ENTRY p) l).map (fun e => (s.np p).cycle + e)

/-- Bits of a frame on the wire against nanoseconds at a rate in Mb/s: (len + 20) × 8 / R + guard ≤ ns (R321, R322). -/
def fits (len mbps guard ns : Nat) : Bool := decide ((len + 20) * 8000 + guard * mbps ≤ ns * mbps)

/-- The gate admits a frame of `len` bytes chosen now (R321). -/
def State.gateAdmits (s : State) (p c len : Nat) : Bool :=
  s.gateOpen p c && match s.windowClose p c with
    | none => true
    | some t => decide (s.ptpNs ≤ t) && fits len (s.portMbps p) (s.fget F.gateCfg_GUARD_NS p) (t - s.ptpNs)

/-- The next time a closed class opens: a later entry of the cycle before the next periodic firing, or entry 0 at that firing (R325). -/
def State.nextOpen (s : State) (p c : Nat) : Option Nat :=
  let l := s.operList p
  let cur := s.fget F.gateStatus_CUR_ENTRY p
  let b := s.fget F.gateStatus_OPER p
  let l0 := if s.flag F.gateStatus_PENDING p then s.gateList p (1 - b) else l
  let fires := decide ((s.gateTrig p).mode = 2) && s.flag F.trigStatus_ARMED (s.fget F.gateCfg_TRIG p)
  let next := (s.gateTrig p).next
  let later := (List.range l.length).find? (fun k => decide (cur < k) && bitAt (nth l k (0, 0)).1 c)
  match later.map (fun k => (s.np p).cycle + entryStart l k) with
  | some t => if fires && decide (next < t) then (if l0.isEmpty || bitAt (nth l0 0 (0, 0)).1 c then some next else none) else some t
  | none => if fires && (l0.isEmpty || bitAt (nth l0 0 (0, 0)).1 c) then some next else none

/-- The class is gated closed for the grant stage (R325). -/
def State.gatedClosed (s : State) (p c : Nat) : Bool :=
  !s.gateOpen p c && match s.nextOpen p c with
    | none => true
    | some t => decide (s.ptpNs + s.fget F.gateCfg_LEAD_NS p < t)

/-- The comparison of R322 with the head of a class: a frame whose last cell is staged and that exceeds MAXWIN is discarded, and
the next one is compared. -/
def State.headCheck (s : State) (p c n : Nat) : State :=
  match n with
  | 0 => s
  | n + 1 =>
    let v := s.nc p c
    match v.q with
    | [] => s
    | x :: rest =>
      let w := s.maxWin p c
      if s.gateEn p = true ∧ s.isUp p = true ∧ x.last = true ∧ w ≠ 0 ∧ w ≠ 0x7FFFFFFF ∧
          fits x.data.length (s.portMbps p) (s.fget F.gateCfg_GUARD_NS p) w = false then
        ((s.setNc p c { v with q := rest, tag := none }).discardAt p 0x0513 x.m).headCheck p c n
      else s

/-- The comparison for every class of a port. -/
def State.headChecks (s : State) (p : Nat) : State := forN 8 (fun c s => s.headCheck p c (s.nc p c).q.length) s

/-- The other list becomes operational (R324): PENDING clears, EV_GATE_SWAPPED is posted, and heads are compared (R322). -/
def State.gateSwap (s : State) (p : Nat) : State :=
  let b := 1 - s.fget F.gateStatus_OPER p
  (((s.fset F.gateStatus_OPER b p).fset F.gateStatus_PENDING 0 p).post 0x0401 (p + b * 65536)).headChecks p

/-- A cycle of the operational list starts at a firing's time (R318, R324). -/
def State.cycleStart (s : State) (p t : Nat) : State :=
  let l := s.operList p
  let trunc := s.flag F.gateStatus_STARTED p && decide (t < (s.np p).cycle + entryStart l l.length)
  let s1 := s.when trunc (fun s => s.bump .cntGateTrunc (s.tileOf p))
  let s2 := s1.setNp p { s1.np p with cycle := t, cyclePer := if (s.gateTrig p).mode = 2 then (s.gateTrig p).period else 0 }
  let s3 := s2.when (s2.flag F.gateStatus_PENDING p) (fun s => s.gateSwap p)
  let l1 := s3.operList p
  ((s3.fset F.gateStatus_CUR_ENTRY 0 p).fset F.gateStatus_GATES (if l1.isEmpty then 0xFF else (nth l1 0 (0, 0)).1) p).fset
    F.gateStatus_STARTED 1 p

/-- The instances of a register array whose first word is not at its reset value. -/
def State.listed (s : State) (n : RName) : List Nat :=
  (s.r32.filter (fun e => decide (regKey n 0 0 ≤ e.1) && decide (e.1 < regKey n 0 0 + 65536 * 65536))).map
    (fun e => (e.1 - regKey n 0 0) / 65536)

/-- A firing of trigger `k` at time `t` starts a cycle on every port whose gates follow it (R318, R439). -/
def State.gateTrigger (s : State) (k t : Nat) : State :=
  s.each ((s.listed .gateCfg).filter (fun p => s.gateEn p && decide (s.fget F.gateCfg_TRIG p = k))) (fun p s => s.cycleStart p t)

/-- A gate list entry ends and the next one is in force; after the last the states hold (R318, R319). [log: DEDUCED 94] -/
def execGateEdge (p : Nat) (s : State) : Host.Outcome State Fault Refusal :=
  .next (
    let l := s.operList p
    let k := s.fget F.gateStatus_CUR_ENTRY p + 1
    if s.gateEn p = true ∧ s.flag F.gateStatus_STARTED p = true ∧ k < l.length ∧ (s.np p).cycle + entryStart l k ≤ s.ptpNs then
      (s.fset F.gateStatus_CUR_ENTRY k p).fset F.gateStatus_GATES (nth l k (0, 0)).1 p
    else s)

/-- SWAP (R324). -/
def State.swapRequest (s : State) (p : Nat) : State :=
  if s.gateEn p then s.fset F.gateStatus_PENDING 1 p else s.gateSwap p

/-- GATE_EN takes a value (R318, R324): a change opens every gate. -/
def State.gateEnable (s : State) (p : Nat) (on : Bool) : State :=
  if s.flag F.gateCfg_GATE_EN p = on then s
  else (((s.fset F.gateCfg_GATE_EN (b2n on) p).fset F.gateStatus_GATES 0xFF p).fset F.gateStatus_STARTED 0 p).fset
    F.gateStatus_CUR_ENTRY 0 p

def execGateSwapRequest (p : Nat) (s : State) : Host.Outcome State Fault Refusal :=
  .next (s.when (s.tileOn (s.tileOf p)) (fun s => s.swapRequest p))
def execGateEnable (p : Nat) (s : State) : Host.Outcome State Fault Refusal :=
  .next (s.when (s.tileOn (s.tileOf p)) (fun s => s.gateEnable p true))
def execGateDisable (p : Nat) (s : State) : Host.Outcome State Fault Refusal :=
  .next (s.when (s.tileOn (s.tileOf p)) (fun s => s.gateEnable p false))

/-- A write of GATE_CFG: its fields, GATE_EN, then SWAP (R324, R332). -/
def State.gateCfgWrite (s : State) (p : Nat) (v : Word) : State :=
  let s1 := s.wr .gateCfg ((v &&& 0xFFFFFDE#32) ||| (s.rd .gateCfg p &&& 1#32)) p
  let s2 := s1.gateEnable p (bitAt v.toNat 0)
  if bitAt v.toNat 5 then s2.swapRequest p else s2

/-! ## Shapers -/

/-- Rate register, burst register and their fields for bucket `b`: 2c and 2c + 1 of class c, 16 and 17 of the port. -/
def State.bucketCfg (s : State) (p b : Nat) : Nat × Nat × Bool :=
  let c := b / 2
  let r := if b < 16 then (if b % 2 = 0 then s.rd .qshpCir p c else s.rd .qshpPir p c)
    else if b = 16 then s.rd .pshpCir p else s.rd .pshpPir p
  let u := if b < 16 then (if b % 2 = 0 then s.rd .qshpCbs p c else s.rd .qshpPbs p c)
    else if b = 16 then s.rd .pshpCbs p else s.rd .pshpPbs p
  (max 1 (min 3200000 (bits r.toNat 21 0)), bits u.toNat 23 0, bitAt r.toNat 31 && !s.hz)

/-- The increment of a bucket in one CLK_TICK cycle, in 2⁻³² byte (R310, R314). -/
def tickTokens (mbps : Nat) : Nat := mbps * 2 ^ 32 / 3200

/-- The level of a bucket now: full where nothing was taken since it was filled (R310, R313). -/
def State.bucketLevel (s : State) (p b : Nat) : Int :=
  let c := s.bucketCfg p b
  let cap : Int := (c.2.1 * 2 ^ 32 : Nat)
  match tget (s.np p).buckets b none with
  | none => cap
  | some x => min cap (x.level + ((s.time.ticks - x.edge) * tickTokens c.1 : Nat))

/-- A bucket that is on is at 0 or above, or it is off. -/
def State.bucketOk (s : State) (p b : Nat) : Bool := !(s.bucketCfg p b).2.2 || decide (0 ≤ s.bucketLevel p b)

/-- Bytes taken from a bucket that is on, down to −(MAX_FRAME + OVH) (R310); negative bytes are given back (R303). -/
def State.bucketTake (s : State) (p b : Nat) (bytes : Int) : State :=
  if (s.bucketCfg p b).2.2 then
    let cap : Int := ((s.bucketCfg p b).2.1 * 2 ^ 32 : Nat)
    let low : Int := -((s.maxFrame p : Int) + s.ovh p) * (2 ^ 32 : Nat)
    let v := min cap (max low (s.bucketLevel p b - bytes * (2 ^ 32 : Nat)))
    s.setNp p { s.np p with buckets := tset (s.np p).buckets b none (some ⟨v, s.time.ticks⟩) }
  else s

/-- A bucket is full again (R313). -/
def State.bucketFill (s : State) (p b : Nat) : State :=
  s.setNp p { s.np p with buckets := tset (s.np p).buckets b none none }

/-- A shaper register takes a value and its bucket is full (R313): `k` the class, 8 for the port; `r` CIR, PIR, CBS or PBS. -/
def State.shaperWrite (s : State) (p k r : Nat) (v : Word) : State :=
  let rate := v &&& 0x803FFFFF#32
  let burst := v &&& 0xFFFFFF#32
  let s1 := if k < 8 then (match r with
      | 0 => s.wr .qshpCir rate p k
      | 1 => s.wr .qshpPir rate p k
      | 2 => s.wr .qshpCbs burst p k
      | _ => s.wr .qshpPbs burst p k)
    else (match r with
      | 0 => s.wr .pshpCir rate p
      | 1 => s.wr .pshpPir rate p
      | 2 => s.wr .pshpCbs burst p
      | _ => s.wr .pshpPbs burst p)
  s1.bucketFill p (2 * k + r % 2)

def execShaperWrite (p k r : Nat) (v : Word) (s : State) : Host.Outcome State Fault Refusal :=
  .next (s.when (s.tileOn (s.tileOf p)) (fun s => s.shaperWrite p k r v))

/-! ## Staging and grants -/

/-- Bytes a class has staged, and the 256-byte cells they take. -/
def NClass.bytes (v : NClass) : Nat := (v.q.map (fun x => x.data.length)).sum
def NClass.cells (v : NClass) : Nat := (v.q.map (fun x => ceilDiv x.data.length 256)).sum

/-- Cells in use in a tile's staging buffer: staged frames, and the frame each port sends. -/
def State.stgUsed (s : State) (t : Nat) : Nat :=
  ((s.tm.ports.filter (fun e => decide (s.tileOf e.1 = t))).map (fun e =>
    (e.2.cls.map (fun x => x.2.cells)).sum + (e.2.cur.map (fun x => ceilDiv x.data.length 256)).getD 0)).sum

/-- The ports that a mask names for multicast destination `d`: tile `d`, and in Horizon mode destinations 0 and 1 of tile 0 for
lanes 0 to 31 and 32 to 63 (R248, R492). -/
def maskPorts (d m : Nat) : List Nat := ((List.range 32).filter (fun j => bitAt m j)).map (fun j => 32 * d + j)

/-- Staging bytes reserved by outstanding grants toward tile `d` (R296): unicast grants, and granted multicast copies. -/
def State.reservedBytes (s : State) (d : Nat) : Nat :=
  (s.tm.tiles.map (fun b => (b.2.voqs.map (fun e =>
    if 4096 ≤ e.1 then
      (if s.tileOf ((e.1 - 4096) / 8 * 32) = d then (maskPorts ((e.1 - 4096) / 8) e.2.granted).length * s.refBytes b.1 (e.2.head.take 1) else 0)
    else if s.tileOf (e.1 / 8) = d then (e.2.res.map (fun r => r.2)).sum else 0)).sum)).sum

/-- The lead of a class (R296): staged bytes and the bytes granted to its sources and not yet crossed. -/
def State.lead (s : State) (p c : Nat) : Nat :=
  let d := p / 32
  (s.nc p c).bytes + (s.tm.tiles.map (fun b =>
    ((tget b.2.voqs (8 * p + c) {}).res.map (fun r => r.1)).sum +
      (let v := tget b.2.voqs (4096 + 8 * d + c) {}
       if (maskPorts d v.granted).contains p then s.refBytes b.1 (v.head.take 1) else 0))).sum

/-- A tile has staging space for `n` bytes beside its reservations. -/
def State.stgSpace (s : State) (d n : Nat) : Bool :=
  decide (n + s.reservedBytes d + 256 * s.stgUsed d ≤ 2 ^ 20)

/-- A class may be granted (R296): port UP (R285), lead below LEAD, not paused, not gated closed, staging space. -/
def State.grantable (s : State) (p c : Nat) : Bool :=
  s.isUp p && decide (s.lead p c < s.leadBytes p) && !s.isPaused p c && !s.gatedClosed p c &&
    s.stgSpace (s.tileOf p) (s.grantBytes p + s.maxFrame p)

/-- A port can take a multicast copy of a class (R282). -/
def State.canTake (s : State) (p c len : Nat) : Bool :=
  s.isUp p && !s.isPaused p c && !s.gatedClosed p c && s.stgSpace (s.tileOf p) len

/-- The tiles whose multicast queue of class `c` toward destination `d` has a head that still waits to be marked ready by port `p` (R297). -/
def State.mcWaiting (s : State) (d c p : Nat) : List Nat :=
  let q := 4096 + 8 * d + c
  (List.range 16).filter (fun t =>
    let v := s.voq t q
    match v.head with
    | r :: _ => decide (v.granted = 0) && v.crossing.isNone && (maskPorts d r.mask).contains p && !(maskPorts d v.ready).contains p
    | [] => false)

/-- The slot of port `p` as a mask bit. -/
def slotBit (p : Nat) : Nat := 2 ^ (p % 32)

/-- A unicast source has backlog: its queue reports itself non-empty (R252, R296). -/
def State.hasBacklog (s : State) (t q : Nat) : Bool := (s.report252 t q).isSome && !(s.voq t q).safe

/-- The sources of a class in turn from `rr`: tiles 0 to 15, then the multicast source at 16; the first with backlog. [log: DEDUCED 91] -/
def State.pickSource (s : State) (p c rr : Nat) : Option Nat :=
  ((List.range 17).map (fun k => (rr + k) % 17)).find? (fun x =>
    if x < 16 then s.hasBacklog x (8 * p + c) else !(s.mcWaiting (p / 32) c p).isEmpty)

/-- The classes of a port in the order the grant stage visits them (R297): those with an empty class queue first, each group in
turn from `rr`. [log: DEDUCED 91] -/
def State.classTurns (s : State) (p : Nat) : List Nat :=
  let turn := (List.range 8).map (fun k => ((s.np p).rr + k) % 8)
  turn.filter (fun c => (s.nc p c).q.isEmpty) ++ turn.filter (fun c => !(s.nc p c).q.isEmpty)

/-- The ports of a list that can take copies of `len` bytes together (R282): each has staging space beside the copies before it. -/
def State.takers (s : State) (c len : Nat) (ports : List Nat) : List Nat :=
  ports.foldl (fun l p => if s.canTake p c (len * (l.length + 1)) then l ++ [p] else l) []

/-- A multicast head becomes granted once every port of its mask is ready and can take the copy (R282, R297); a port that can no longer take it
is ready no more. -/
def State.mcGrant (s : State) (t q : Nat) : State :=
  let v := s.voq t q
  match v.head with
  | r :: _ =>
    if v.ready = r.mask then
      let ok := s.takers (q % 8) (s.frame t r.fid).len (maskPorts (destOf q) r.mask)
      let m := (ok.map slotBit).sum
      if m = r.mask then s.setVoq t q { v with granted := m, ready := 0 } else s.setVoq t q { v with ready := m }
    else s
  | [] => s

/-- One grant of class `c` of port `p` to its source `x`: a unicast VOQ gets GRANT bytes, with the reservation, on their way; the
multicast turn marks the port ready (R296, R297). -/
def State.grantTo (s : State) (p c x : Nat) : State :=
  let s1 := s.setNp p { s.np p with rr := (c + 1) % 8 }
  let s2 := s1.setNc p c { s1.nc p c with rr := (x + 1) % 17 }
  let q := 8 * p + c
  if x < 16 then
    let v := s2.voq x q
    let g := s.grantBytes p
    let left := g - v.debt
    s2.setVoq x q { v with inflight := v.inflight ++ [g], debt := v.debt - g,
                           res := if left = 0 then v.res else v.res ++ [(left, g + s.maxFrame p)] }
  else
    let d := p / 32
    match s.mcWaiting d c p with
    | t :: _ =>
      let v := s2.voq t (4096 + 8 * d + c)
      (s2.setVoq t (4096 + 8 * d + c) { v with ready := v.ready ||| slotBit p }).mcGrant t (4096 + 8 * d + c)
    | [] => s2

/-- One grant of tile `t`'s Nimbus (R297): ports in turn, then classes, then sources. [log: DEDUCED 91, 185] -/
def execNimbusGrant (t : Nat) (s : State) : Host.Outcome State Fault Refusal :=
  .next (
    let ports := s.tilePorts t
    let rr := tget s.tm.rrPort t 0
    let n := ports.length
    let turn := (List.range n).map (fun k => nth ports ((rr + k) % n) 0)
    let pick := turn.findSome? (fun p => (s.classTurns p).findSome? (fun c =>
      if s.grantable p c then (s.pickSource p c (s.nc p c).rr).map (fun x => (p, c, x)) else none))
    match pick with
    | some (p, c, x) =>
      let s1 := s.grantTo p c x
      { s1 with tm := { s1.tm with rrPort := tset s1.tm.rrPort t 0 ((s.slotOf p + 1) % n) } }
    | none => s)

/-- A grant reaches its queue (R252); in the safe state it returns to Nimbus at once (R287). -/
def execGrantReceive (t q : Nat) (s : State) : Host.Outcome State Fault Refusal :=
  .next (
    let v := s.voq t q
    match v.inflight with
    | [] => s
    | g :: rest =>
      if v.safe then s.setVoq t q { v with inflight := rest, res := v.res.drop 1 }
      else s.setVoq t q (({ v with inflight := rest, balance := v.balance + g } : Voq).capBalance g))

/-! ## Crossing -/

/-- The grants used up by a frame of `n` bytes that crossed (R296): the oldest first, bytes beyond them a debt. [log: DEDUCED 92] -/
def useRes (l : List (Nat × Nat)) (n : Nat) : List (Nat × Nat) × Nat :=
  match l with
  | [] => ([], n)
  | (g, r) :: rest => if g ≤ n then useRes rest (n - g) else ((g - n, r) :: rest, 0)

/-- The outer tag's VID rewritten (R282). -/
def setVid (bs : List Byte) (vid : Nat) : List Byte :=
  if (skipTags bs 12 1).2 = 0 then bs
  else bytesPut bs 14 (beBytes 2 (half bs 14 / 4096 * 4096 + vid))

/-- In Horizon mode a frame with its port's PVID leaves untagged when UNTAG_PVID is 1 (R491). [log: PRESUMED 69] -/
def State.hzUntag (s : State) (p : Nat) (bs : List Byte) : List Byte :=
  if s.hz && s.flag F.hzPort_UNTAG_PVID p && decide (half bs 12 = 0x8100) &&
      decide (half bs 14 % 4096 = s.fget F.hzPort_PVID p) then bs.take 12 ++ bs.drop 16
  else bs

/-- A frame enters the class queue of an egress port, or is dropped there when the port is disabled or has been down for
DOWN_HOLD (R285, R295, R299). Multicast copies take MC_VID when MC_VID_EN is 1 (R282). -/
def State.stage (s : State) (p : Nat) (x : Staged) : State :=
  if s.portEnabled p = false then s.discardAt p 0x050A x.m
  else if (s.np p).downHeld && !s.isUp p then s.discardAt p 0x050B x.m
  else
    let d := if x.m.mc && s.flag F.egrCfg1_MC_VID_EN p && !s.hz then setVid x.data (s.fget F.egrCfg1_MC_VID p)
      else s.hzUntag p x.data
    let v := s.nc p x.m.cls
    (s.setNc p x.m.cls { v with q := v.q ++ [{ x with data := d, m := { x.m with eport := p } }] }).headCheck p x.m.cls
      (if v.q.isEmpty then 1 else 0)

/-- The read of cell `k` of a frame that is cut through fails its check: the frame ends before it (R273). [log: DEDUCED 85] -/
def State.cellErr (s : State) (t fid : Nat) (err : Option (Fin 64)) : State :=
  match err with
  | some k =>
    let f := s.frame t fid
    if f.ct = true ∧ f.bad = false ∧ 0 < k.val ∧ 256 * k.val < f.data.length then s.stomp t fid (256 * k.val) else s
  | none => s

/-- A queue's head frame starts across the crossbar (R252, R282): balance above 0 for unicast, granted for multicast. A cell read
that fails before it starts drops it (R272); a frame cut through is stomped before the cell `err` whose read fails (R273), unless that is its first. Its
first cells are staged at the egress, with their headers (R248). None starts while the tile is under block reset (R510). [log: DEDUCED 85, 157] -/
def execCrossingStart (t q : Nat) (err : Option (Fin 64)) (s : State) : Host.Outcome State Fault Refusal :=
  .next (
    let v := s.voq t q
    match v.head with
    | [] => s
    | r :: rest =>
      let f := s.frame t r.fid
      let go := v.crossing.isNone && !v.safe && (f.done || f.ct) && decide (tget s.squall.blockReset t 0 = 0) &&
        (if 4096 ≤ q then decide (v.granted ≠ 0) else decide (0 < v.balance))
      if go = false then s
      else if err.isSome = true ∧ (f.ct = false ∨ err = some 0) then s.killFrame t r.fid 0x050F
      else
        let s1 := s.setVoq t q { v with
          head := rest, crossing := some (if 4096 ≤ q then { r with mask := v.granted } else r), granted := 0,
          balance := if 4096 ≤ q then v.balance else v.balance - (if f.done then f.len else 0),
          uses := decide (q < 4096), owes := decide (q < 4096) && !f.done }
        let s2 := s1.cellErr t r.fid err
        let f2 := s2.frame t r.fid
        let x : Staged := { tile := t, fid := r.fid, data := f2.data, m := f2.m, ct := f2.ct && !f2.done, bad := f2.bad
                            hdrs := cellHdrs t f2 (if 4096 ≤ q then v.granted else 0) }
        let ports := if 4096 ≤ q then maskPorts (destOf q) v.granted else [f.m.eport]
        s2.each ports (fun p s => s.stage p x))

/-- The difference of R303 for a frame chosen before its length was known: its buckets, its class's F_last and, while it still
equals the frame's tag, the port's V. [log: DEDUCED 84] -/
def State.correctLen (s : State) (p : Nat) (x : Staged) (len : Nat) : State :=
  match x.charged with
  | none => s
  | some ls =>
    let c := x.m.cls
    let diff : Int := (s.schedLen p len : Int) - ls
    let s1 := (((s.bucketTake p (2 * c) diff).bucketTake p (2 * c + 1) diff).bucketTake p 16 diff).bucketTake p 17 diff
    if s.strict p c then s1
    else
      let v := s1.nc p c
      let n : Int := diff * 65536 + v.rem
      let adj : BitVec 64 := BitVec.ofInt 64 (n / (s.weight p c : Int))
      let s2 := s1.setNc p c { v with fLast := v.fLast + adj, rem := (n % (s.weight p c : Int)).toNat }
      if (s1.np p).v = v.fLast then s2.setNp p { s2.np p with v := v.fLast + adj } else s2

/-- What the end of a crossing does at one egress port: the frame's last cell is staged, or its length becomes known while it is
being sent. [log: DEDUCED 84] -/
def State.finishStaged (s : State) (p t fid mask : Nat) (f : Frame) : State :=
  let done (x : Staged) : Staged :=
    if x.tile = t ∧ x.fid = fid ∧ x.last = false then
      { x with data := (if x.m.mc then x.data else s.hzUntag p f.data), last := true, bad := f.bad, hdrs := cellHdrs t f mask } else x
  let mine (x : Staged) : Bool := decide (x.tile = t) && decide (x.fid = fid) && !x.last
  let n := s.np p
  match n.cur.filter mine with
  | some x => (s.setNp p { n with cur := some { done x with charged := none } }).correctLen p x f.len
  | none =>
    let v := s.nc p f.m.cls
    (s.setNc p f.m.cls { v with q := v.q.map done }).headCheck p f.m.cls (if (v.q.head?.filter mine).isSome then v.q.length else 0)

/-- The frame's last beat has crossed (R252, R255, R296): it is staged whole, the balance and reservations are settled, its
reference ends. A frame cut through ends before the cell `err` whose read failed (R273). [log: DEDUCED 84] -/
def execCrossingComplete (t q : Nat) (err : Option (Fin 64)) (s0 : State) : Host.Outcome State Fault Refusal :=
  .next (
    match (s0.voq t q).crossing with
    | none => s0
    | some r =>
      let s := s0.cellErr t r.fid err
      let v := s.voq t q
      let f := s.frame t r.fid
      if f.done = false then s
      else
        let u := if v.uses then useRes v.res f.len else (v.res, 0)
        let v1 : Voq := { v with crossing := none, uses := false, owes := false, res := u.1, debt := v.debt + u.2,
                                 balance := v.balance - (if v.owes then (f.len : Int) else 0) }
        let s1 := s.setVoq t q (if 4096 ≤ q then v1 else v1.capBalance (s.grantBytes (q / 8)))
        let ports := if 4096 ≤ q then maskPorts (destOf q) r.mask else [f.m.eport]
        let s2 := s1.each ports (fun p s => s.finishStaged p t r.fid (if 4096 ≤ q then r.mask else 0) f)
        ((s2.endRef t r.fid).voqNorm t q).pgScan t)

/-- A multicast head has waited MC_HOLD (R283): it is granted for the ports that can take it, the others are skipped and counted
at the egress tile; with no port left the reference is skipped. [log: DESIGN CHOICE 6] -/
def execMcHoldExpire (t q : Nat) (s : State) : Host.Outcome State Fault Refusal :=
  .next (
    let k := 4096 + q
    let d := q / 8
    let v := s.voq t k
    match v.head with
    | [] => s
    | r :: rest =>
      if v.granted ≠ 0 ∨ v.crossing.isSome = true then s
      else
        let len := (s.frame t r.fid).len
        let ports := maskPorts d r.mask
        let ok := s.takers (q % 8) len ports
        let s1 := s.bump .cntMcSkip (s.tileOf (32 * d)) 0 (ports.length - ok.length)
        let m := (ok.map slotBit).sum
        if m = 0 then ((s1.setVoq t k { v with head := rest, ready := 0 }).endRef t r.fid).voqNorm t k
        else s1.setVoq t k { v with head := { r with mask := m } :: rest, granted := m, ready := 0 })

/-! ## The transmit stage -/

/-- The head of a class is eligible (R298): its first cell is staged, and with gates its last. -/
def State.eligible (s : State) (p c : Nat) : Option Staged :=
  match (s.nc p c).q with
  | x :: _ => if s.gateEn p && !x.last then none else some x
  | [] => none

/-- A class is a candidate for the next frame (R301). -/
def State.candidate (s : State) (p c : Nat) : Bool :=
  match s.eligible p c with
  | none => false
  | some x => !s.isPaused p c && s.gateAdmits p c x.data.length && s.bucketOk p (2 * c + 1) && s.bucketOk p 16 && s.bucketOk p 17

/-- `a` is later than `b` on the wrapping line of virtual time (R306). -/
def later (a b : BitVec 64) : Bool := decide (0 < (a - b).toInt)

/-- The Ls a frame is charged: by its length, or by MAX_FRAME while that is not known (R303). -/
def State.chargeOf (s : State) (p : Nat) (x : Staged) : Nat :=
  s.schedLen p (if x.last || !x.ct then x.data.length else s.maxFrame p)

/-- The tags before a decision (R304, R305): a non-strict candidate without a tag gets one; a class that holds a frame and is not
a candidate loses its. -/
def State.giveTags (s : State) (p : Nat) : State :=
  forN 8 (fun c s =>
    let v := s.nc p c
    match v.q with
    | [] => s
    | x :: _ =>
      if s.candidate p c = false then s.setNc p c { v with tag := none }
      else if v.tag.isSome ∨ s.strict p c = true then s
      else
        let n := s.chargeOf p x * 65536 + v.rem
        let w := s.weight p c
        let base := if later v.fLast (s.np p).v then v.fLast else (s.np p).v
        s.setNc p c { v with tag := some (base + BitVec.ofNat 64 (n / w)), rem := n % w }) s

/-- The class with the smallest tag; of equal tags the higher class (R302, R306). -/
def State.smallestTag (s : State) (p : Nat) (cs : List Nat) : Option Nat :=
  cs.foldl (fun best c => match best with
    | none => some c
    | some b => if later ((s.nc p c).tag.getD 0) ((s.nc p b).tag.getD 0) then some b else some c) none

/-- The choice of R302 among the candidates. -/
def State.choose (s : State) (p : Nat) : Option Nat :=
  let cand := (List.range 8).filter (s.candidate p)
  let strict := cand.filter (s.strict p)
  let rest := cand.filter (fun c => !s.strict p c)
  let committed := rest.filter (fun c => (s.bucketCfg p (2 * c)).2.2 && decide (0 ≤ s.bucketLevel p (2 * c)))
  match strict.getLast? with
  | some c => some c
  | none => if committed.isEmpty then s.smallestTag p rest else s.smallestTag p committed

/-- The port may send (R57, R58, R301): UP, no frame being sent, no received fault, out of electrical idle. -/
def State.txReady (s : State) (p : Nat) : Bool :=
  let l := tget s.link.ports p {}
  s.isUp p && (s.np p).cur.isNone && (s.np p).curCtl.isNone && decide (l.faultRx = 0) &&
    !s.flag F.portStatus_TX_EI p

/-- The transmit stamp of a frame that starts now (R433). -/
def State.txStamp (s : State) (p : Nat) : Nat := ((s.ptpNs : Int) + toSigned 16 (s.fget F.tsAdj_TX_ADJ p)).toNat

/-- Choosing the head of class `c`: V, F_last and buckets (R302–R304, R310); it is being sent from now on. -/
def State.sendHead (s : State) (p c : Nat) : State :=
  let v := s.nc p c
  match v.q with
  | [] => s
  | x :: rest =>
    let ls := s.chargeOf p x
    let tag := v.tag.getD 0
    let strict := s.strict p c
    let s1 := s.setNc p c { v with q := rest, tag := none, fLast := if strict then v.fLast else tag }
    let n := s1.np p
    let y : Staged := { x with charged := if x.last || !x.ct then none else some ls }
    let s2 := s1.setNp p { n with v := (if strict then n.v else tag), curNs := s.txStamp p, cur := some y }
    let s3 := (((s2.bucketTake p (2 * c) ls).bucketTake p (2 * c + 1) ls).bucketTake p 16 ls).bucketTake p 17 ls
    s3.headCheck p c rest.length

/-- The transmit stage decides (R274, R301, R302): a waiting pause frame goes first. -/
def State.txDecide (s : State) (p : Nat) : State :=
  if s.txReady p = false then s
  else match (s.np p).ctl with
    | f :: rest => s.setNp p { s.np p with ctl := rest, curCtl := some f }
    | [] =>
      let s1 := s.giveTags p
      match s1.choose p with
      | some c => s1.sendHead p c
      | none => s1

def execTxDecision (p : Nat) (s : State) : Host.Outcome State Fault Refusal := .next (s.txDecide p)

/-! ## Received pause and its watchdog -/

/-- The PFC watchdog of a class acts (R278). -/
def execPfcWdExpire (p c : Nat) (s : State) : Host.Outcome State Fault Refusal :=
  .next (
    if s.fget F.egrCfg2_WD_MS p = 0 ∨ s.isPaused p c = false ∨ (s.nc p c).wd = true then s
    else
      let s1 := (s.setNc p c { s.nc p c with wd := true }).post 0x0301 (p + c * 65536)
      if s.flag F.egrCfg2_WD_DROP p then forN 16 (fun t s => s.flushQueue t (8 * p + c) 0x050E) s1 else s1)

/-- The watchdog ends (R278). -/
def execPfcWdRestore (p c : Nat) (s : State) : Host.Outcome State Fault Refusal :=
  .next (
    if (s.nc p c).wd = true ∧ s.isPaused p c = false then (s.setNc p c { s.nc p c with wd := false }).post 0x0302 (p + c * 65536)
    else s)

/-- A class's pause time has run out (R275). [log: DESIGN CHOICE 6] -/
def execPauseTimerExpire (p c : Nat) (s : State) : Host.Outcome State Fault Refusal :=
  .next (s.setNc p c { s.nc p c with paused := 0 })

/-- The pause of PGs still in XOFF is sent again (R274). -/
def execPauseResendTimer (p : Nat) (s : State) : Host.Outcome State Fault Refusal := .next (s.pauseAgain p)

/-- The classes a received pause frame names, with its times (R275). -/
def pauseTimes (bs : List Byte) : List (Nat × Nat) :=
  if half bs 14 = 0x0001 then (List.range 8).map (fun c => (c, half bs 16))
  else ((List.range 8).filter (fun c => bitAt (half bs 16) c)).map (fun c => (c, half bs (18 + 2 * c)))

/-- A pause or PFC frame that the MAC consumes (R275): acted on, or with a bad verdict or too short counted as DROP_BAD_FCS. -/
def State.pauseReceive (s : State) (p : Nat) (bs : List Byte) (good : Bool) : State :=
  let t := s.tileOf p
  if good = true ∧ 64 ≤ bs.length then
    let l := pauseTimes bs
    let s1 := s.each l (fun ct s => s.setNc p ct.1 { s.nc p ct.1 with paused := ct.2 })
    s1.perf t 7 (some (s.slotOf p)) (some (l.map (fun x => x.1))) none 1
  else s.dropCount t 0x0501 (s.slotOf p) (s.ipriOf p bs)

/-! ## Links and enables -/

/-- The staged frames of a port are discarded with a code, counted by the egress tile (R299). -/
def State.flushStaged (s : State) (p code : Nat) : State :=
  forN 8 (fun c s =>
    let v := s.nc p c
    (s.each v.q (fun x s => s.discardAt p code x.m)).setNc p c { v with q := [], tag := none }) s

/-- Everything queued for a port is discarded with a code (R285, R299). -/
def State.flushPort (s : State) (p code : Nat) : State := (s.flushVoqs p code).flushStaged p code

/-- The queues of a port that has been down for DOWN_HOLD are flushed (R285). -/
def State.downFlush (s : State) (p : Nat) : State :=
  let s1 := s.setNp p { s.np p with downHeld := true }
  (s1.flushPort p 0x050B).post 0x0303 p

/-- DOWN_HOLD expires on an enabled port that is not UP (R285). -/
def execDownHoldExpire (p : Nat) (s : State) : Host.Outcome State Fault Refusal :=
  .next (if s.isUp p = true ∨ s.portEnabled p = false ∨ (s.np p).downHeld = true then s else s.downFlush p)

/-- What leaving UP does at the egress (R57, R285): the frame being sent ends there, which for a frame of direct mode is its end
(R393); a DOWN_HOLD of 0 flushes at once. [log: DEDUCED 93] -/
def State.egressDown (s : State) (p : Nat) : State :=
  let n := s.np p
  let s0 := match n.cur with
    | some x => match x.m.tx with
      | some (r, gen, pos) => s.complete r gen pos 0 (if x.m.tsReq then n.curNs % 2 ^ 64 else 0) x.data.length
      | none => s
    | none => s
  let s1 := s0.setNp p { s0.np p with cur := none, curCtl := none, ctl := [] }
  if s.fget F.egrCfg0_DOWN_HOLD p = 0 ∧ s.hz = false then s1.downFlush p else s1

/-- EN of a port goes from 0 to 1 (R309): virtual time and tags are 0, its buckets are full and its class queues empty; a DOWN_HOLD that had
expired counts no more. -/
def State.nimbusPortReset (s : State) (p : Nat) : State :=
  let n := s.np p
  forN 8 (fun c s => s.setNc p c { s.nc p c with q := [], fLast := 0, rem := 0, tag := none })
    (s.setNp p { n with v := 0, buckets := [], downHeld := false })

/-- A port reaches UP (R274, R285, R322). -/
def State.pauseAtUp (s : State) (p : Nat) : State :=
  ((s.setNp p { s.np p with downHeld := false }).pauseAgain p).headChecks p

/-- A queue holds a frame, in SRAM, in Anvil or crossing. -/
def Voq.holds (v : Voq) : Bool :=
  !v.head.isEmpty || !v.due.isEmpty || v.writing.isSome || !v.seg.isEmpty || !v.behind.isEmpty || v.crossing.isSome

/-- A multicast queue holds a frame for slot `b` of its tile: a reference or record whose PORT_MASK has the bit. -/
def Voq.holdsFor (v : Voq) (b : Nat) : Bool :=
  (v.head ++ v.due ++ v.writing.toList ++ v.behind ++ v.crossing.toList).any (fun r => bitAt r.mask b) ||
    v.seg.any (fun r => bitAt r.mask b)

/-- A port has something to send: a frame being sent, a pause frame, a staged frame, or a frame in a queue of any tile (R58, R59). -/
def State.portHasFrame (s : State) (p : Nat) : Bool :=
  let n := s.np p
  n.cur.isSome || n.curCtl.isSome || !n.ctl.isEmpty || n.cls.any (fun e => !e.2.q.isEmpty) ||
    s.tm.tiles.any (fun b => b.2.voqs.any (fun e =>
      if e.1 < 4096 then decide (e.1 / 8 = p) && e.2.holds
      else decide ((e.1 - 4096) / 8 = s.tileOf p) && e.2.holdsFor (s.slotOf p)))

/-! ## Register writes of 06 and 07 -/

/-- A write of PFC_CFG (R257): MODE and LOSSLESS stay when they would raise the reserved total above 61,440. A PG made lossy
leaves XOFF, with the frame of R274. -/
def State.pfcCfgWrite (s : State) (p : Nat) (v : Word) : State :=
  let t := s.tileOf p
  let s1 := s.wr .pfcCfg (v &&& 0x7FF#32) p
  if 61440 < s1.reserved t ∧ s.reserved t < s1.reserved t then s.fset F.pfcCfg_RX_EN (bits v.toNat 10 10) p
  else
    let before := s.xoffPris p
    let left := before.filter (fun i => !s1.lossless p i)
    ((s1.each left (fun i s => s.setXoff p i 0 false)).pauseChange p before).pgScan t

def execPfcCfgWrite (p : Nat) (v : Word) (s : State) : Host.Outcome State Fault Refusal :=
  .next (s.when (s.tileOn (s.tileOf p)) (fun s => s.pfcCfgWrite p v))

/-- A write of a word of PG_CFG (R257): HEADROOM stays when it would raise the reserved total above 61,440. -/
def State.pgCfgWrite (s : State) (p i w : Nat) (v : Word) : State :=
  let t := s.tileOf p
  match w with
  | 0 => (s.wr .pgCfg0 v p i).pgScan t
  | 1 =>
    let s1 := s.wr .pgCfg1 (v &&& 0xFFFF#32) p i
    if 61440 < s1.reserved t ∧ s.reserved t < s1.reserved t then s else s1.pgScan t
  | 2 => s.wr .pgCfg2 (v &&& 0x1FFFF#32) p i
  | _ => (s.wr .pgCfg3 v p i).pgScan t

def execPgCfgWrite (p i w : Nat) (v : Word) (s : State) : Host.Outcome State Fault Refusal :=
  .next (s.when (s.tileOn (s.tileOf p)) (fun s => s.pgCfgWrite p i w v))

/-- A write of VOQ_CTL (R287, R290): with GO, OP 1 answers the queue's state in VOQ_DATA, OP 2 ends its safe state. [log: DEDUCED 82] -/
def State.voqCtlWrite (s : State) (t : Nat) (v : Word) : State :=
  let n := v.toNat
  let q := bits n 11 0 % 4096 + (if bitAt n 12 then 4096 else 0)
  let q := if bitAt n 12 then 4096 + bits n 11 0 % 128 else q
  let s1 := s.wr .voqCtl (v &&& 0x7FFF#32) t
  if bitAt n 31 = false then s1
  else match bits n 14 13 with
    | 1 =>
      let x := s.voq t q
      let w := s.refCells t x.sram % 2 ^ 17 + b2n x.spill * 2 ^ 17 + b2n x.safe * 2 ^ 18
      (s1.wr .voqData0 (BitVec.ofNat 32 w) t).wr .voqData1 (BitVec.ofNat 32 (ceilDiv x.anvBytes 1024)) t
    | 2 => s1.setVoq t q { s1.voq t q with safe := false }
    | _ => s1

def execVoqQuery (t : Nat) (v : Word) (s : State) : Host.Outcome State Fault Refusal :=
  .next (s.when (s.tileOn t) (fun s => s.voqCtlWrite t ((v &&& 0x1FFF#32) ||| 0x80002000#32)))
def execVoqLeaveSafe (t : Nat) (v : Word) (s : State) : Host.Outcome State Fault Refusal :=
  .next (s.when (s.tileOn t) (fun s => s.voqCtlWrite t ((v &&& 0x1FFF#32) ||| 0x80004000#32)))

/-- QSTATUS of a class (R333). [log: DESIGN CHOICE 18] -/
def State.qstatusView (s : State) (p c : Nat) : Word :=
  BitVec.ofNat 32 (b2n (s.eligible p c).isSome + 2 * b2n (s.isPaused p c) + 4 * b2n (s.gateOpen p c) +
    8 * b2n (s.bucketOk p (2 * c + 1)) + 16 * b2n ((s.bucketCfg p (2 * c)).2.2 && s.bucketOk p (2 * c)) +
    32 * ((s.nc p c).bytes % 2 ^ 21))

end Sys2Proof.Machine
end

