-- ==== Sys2Proof/Machine/Parse.lean ====
section
/-!
DEFINITION. Parsing, classification and load spreading (03_parsing_classification.md): the parse graph, the packet header vector,
the hashes, the policers, and dispatch to the pipes.
-/

namespace Sys2Proof.Machine

/-! ## The parse -/

/-- A parse in progress (R101–R105). -/
structure Walk where
  ptr : Nat := 0
  st : Nat := 0
  steps : Nat := 0
  flags : Nat := 0
  hdr : Nat := 0
  /-- HDR_OFFSET bytes 28 to 35 (R584). -/
  offs : List Nat := [255, 255, 255, 255, 255, 255, 255, 255]
  /-- PHV bytes 64 to 447. -/
  slots : List Byte := []
  valid : Nat := 0
  /-- The pointer at which the first IPv4 header was marked (R104). -/
  ip4 : Option Nat := none
  srcs : List (Nat × Nat × Nat) := []
  extracts : Nat := 0
  info : ParseInfo := {}
  deriving DecidableEq, Repr

/-- The HDR_OFFSET group of a header ID (R584). -/
def hdrGroup (h : Nat) : Option Nat :=
  match h with
  | 1 => some 0
  | 2 => some 0
  | 4 => some 1
  | 5 => some 1
  | 11 => some 2
  | 12 => some 2
  | 13 => some 2
  | 14 => some 3
  | 15 => some 3
  | 16 => some 3
  | 17 => some 4
  | 19 => some 5
  | 20 => some 5
  | 21 => some 6
  | 22 => some 6
  | 23 => some 7
  | _ => none

/-- A header ID becomes present at a pointer, with its offset as the first of its group (R101, R584). A pointer of 255 or more lies outside the
window, where no entry marks a header (R109). [log: DEDUCED 51] -/
def Walk.mark (w : Walk) (h at_ : Nat) : Walk :=
  if 255 ≤ at_ then w
  else
    { w with
      hdr := w.hdr ||| 2 ^ h
      ip4 := if (h = 4 ∨ h = 19) ∧ w.ip4 = none then some at_ else w.ip4
      info := match hdrGroup h with
        | some g => if nth w.offs g 255 = 255 then { w.info with first := putNth w.info.first g h } else w.info
        | none => w.info
      offs := match hdrGroup h with
        | some g => if nth w.offs g 255 = 255 then putNth w.offs g at_ else w.offs
        | none => w.offs }

def Walk.flag (w : Walk) (k : Nat) : Walk := { w with flags := w.flags ||| 2 ^ k }

/-- The flag of a read of byte `k` that cannot be made: TRUNCATED past the window of a longer frame, MALFORMED past the data end
(R102). -/
def readFlag (k dend : Nat) (long : Bool) : Option Nat :=
  if 256 ≤ k ∧ long = true then some 0 else if dend ≤ k then some 1 else none

/-- The place and width of field slot `k` in the PHV (R108). -/
def slotAt (k : Nat) : Nat × Nat :=
  if k < 16 then (64 + 2 * k, 2)
  else if k < 40 then (96 + 4 * (k - 16), 4)
  else if k < 56 then (192 + 8 * (k - 40), 8)
  else (320 + 16 * (k - 56), 16)

/-- `n` bits of a byte string from bit `pos` on, in network bit order. -/
def netBits (bs : List Byte) (pos n : Nat) : Nat :=
  let first := pos / 8
  let last := (pos + n + 7) / 8
  beNat (bytesAt bs first (last - first)) >>> (last * 8 - pos - n) % 2 ^ n

/-- `bs` with `n` bits from bit `pos` on replaced by those of `v`. -/
def putNetBits (bs : List Byte) (pos n v : Nat) : List Byte :=
  let first := pos / 8
  let last := (pos + n + 7) / 8
  let sh := last * 8 - pos - n
  let old := beNat (bytesAt bs first (last - first))
  bytesPut bs first (beBytes (last - first) (setBits old (sh + n - 1) sh v))

/-- One extract operation at the pointer (R103): the walk after it, or the flag that ends the parse. -/
def Walk.extract (w : Walk) (win : List Byte) (dend : Nat) (long : Bool) (op : Nat) : Except Nat Walk :=
  let pos := w.ptr * 8 + bits op 10 0
  let n := bits op 17 11 + 1
  let slot := bits op 23 18
  if 64 ≤ w.extracts then .ok (w.flag 4)
  else match readFlag ((pos + n - 1) / 8) dend long with
    | some f => .error f
    | none =>
      let a := slotAt slot
      let v := netBits win pos n % 2 ^ (8 * a.2)
      .ok { w with slots := bytesPut w.slots (a.1 - 64) (beBytes a.2 v), valid := w.valid ||| 2 ^ slot,
                   srcs := w.srcs.filter (fun x => decide (x.1 ≠ slot)) ++ [(slot, pos, n)], extracts := w.extracts + 1 }

/-- The enabled extract operations in order; the ones before a failing one stand. -/
def Walk.extractAll (w : Walk) (win : List Byte) (dend : Nat) (long : Bool) (ops : List Nat) : Walk × Option Nat :=
  match ops with
  | [] => (w, none)
  | o :: r => match w.extract win dend long o with
    | .ok w1 => w1.extractAll win dend long r
    | .error f => (w, some f)

/-- A parser TCAM entry given by its words matches a state and its lookaheads (R101, R141). -/
def tcamMatch (e : Nat → Nat) (st : Nat) (la : List Nat) : Bool :=
  bitAt (e 7) 0 && decide ((st ^^^ bits (e 0) 7 0) &&& bits (e 0) 15 8 = 0) &&
    (List.range 4).all (fun k => decide ((nth la k 0 ^^^ bits (e (k + 1)) 15 0) &&& bits (e (k + 1)) 31 16 = 0))

/-- The advance of an entry (R101). -/
def advOf (e : Nat → Nat) (la : List Nat) : Nat :=
  bits (e 5) 15 8 + ((nth la (bits (e 5) 19 18) 0 >>> bits (e 5) 23 20) &&& bits (e 6) 7 0) * 2 ^ bits (e 5) 25 24

/-- The used lookaheads of a state's words at the pointer (R100, R101), or the flag of the first that cannot be read (R102). -/
def Walk.lookaheads (w : Walk) (win : List Byte) (dend : Nat) (long : Bool) (sw : Nat → Nat) : Except Nat (List Nat) :=
  let used (k : Nat) : Bool := bitAt (sw 1) k
  let off (k : Nat) : Nat := w.ptr + bits (sw 0) (8 * k + 7) (8 * k)
  match ((List.range 4).filter used).findSome? (fun k => readFlag (off k + 1) dend long) with
  | some f => .error f
  | none => .ok ((List.range 4).map (fun k => if used k then half win (off k) else 0))

/-- The enabled extract operations of a state's words. -/
def extOps (sw : Nat → Nat) : List Nat := ((List.range 4).filter (fun k => bitAt (sw 1) (4 + k))).map (fun k => bits (sw (2 + k)) 23 0)

/-- A matching entry applies (R101): the walk after it, and NEXT_STATE. -/
def Walk.apply (w : Walk) (e : Nat → Nat) (la : List Nat) : Walk × Nat :=
  let w1 := if bitAt (e 6) 13 then w.mark (bits (e 6) 12 8) w.ptr else w
  ({ w1 with ptr := w1.ptr + advOf e la, flags := w1.flags ||| bits (e 6) 23 16 * 256 }, bits (e 5) 7 0)

/-! ## The base graph by its headers (R106, R107) -/

/-- Where the base graph stands: before an Ethernet header, tag, label, IP header, extension header or upper header. -/
inductive BNode where
  | eth (inner : Bool)
  | tag (tpid n : Nat) (inner : Bool)
  | mpls (n : Nat)
  | ip4 (inner : Bool)
  | ip6 (inner : Bool)
  | ext (nh : Nat) (inner : Bool)
  | udp (inner : Bool)
  | gre
  | vxlan
  | geneve
  /-- A header that ends the parse. -/
  | leaf (id : Nat)
  deriving DecidableEq, Repr

/-- The nodes of the base graph, each a state of its own. -/
def baseNodes : List BNode :=
  [.eth false, .eth true, .tag 0x8100 1 false, .tag 0x8100 2 false, .tag 0x88A8 1 false, .tag 0x88A8 2 false, .tag 0x8100 1 true] ++
  (List.range 9).map (fun n => .mpls (n + 1)) ++
  [.ip4 false, .ip4 true, .ip6 false, .ip6 true, .ext 0 false, .ext 0 true, .ext 60 false, .ext 60 true, .ext 43 false, .ext 43 true,
   .ext 44 false, .ext 44 true, .udp false, .udp true, .gre, .vxlan, .geneve, .leaf 12, .leaf 13, .leaf 22, .leaf 23, .leaf 24, .leaf 25]

/-- The number of a node's state: 0 for the Ethernet state (R99); the others are the base image's. [log: DESIGN CHOICE 11] -/
def BNode.state (n : BNode) : Nat := if n = .eth false then 0 else (Config.baseState (baseNodes.idxOf n)).toNat % 192

/-- The node of a base state that a customer entry names. -/
def nodeOf (st : Nat) : Option BNode := if st < 192 then baseNodes.find? (fun n => decide (n.state = st)) else none

/-- What follows an EtherType. -/
def afterEtype (et : Nat) (inner : Bool) : Option BNode :=
  match et with
  | 0x8847 => if inner then none else some (.mpls 1)
  | 0x8848 => if inner then none else some (.mpls 1)
  | 0x0800 => some (.ip4 inner)
  | 0x86DD => some (.ip6 inner)
  | 0x0806 => if inner then none else some (.leaf 24)
  | 0x88F7 => if inner then none else some (.leaf 25)
  | _ => none

/-- What follows an IP protocol or next header; a hop-by-hop header stands directly after IPv6 only. -/
def afterProto (pr : Nat) (v6 afterIp inner : Bool) : Option BNode :=
  match pr with
  | 17 => some (.udp inner)
  | 6 => some (.leaf (if inner then 22 else 12))
  | 1 => if inner then none else some (.leaf 13)
  | 58 => if inner then none else some (.leaf 13)
  | 47 => if inner then none else some .gre
  | 0 => if v6 && afterIp then some (.ext 0 inner) else none
  | 60 => if v6 then some (.ext 60 inner) else none
  | 43 => if v6 then some (.ext 43 inner) else none
  | 44 => if v6 then some (.ext 44 inner) else none
  | _ => none

/-- The last next-header value of an IPv6 header's chain so far (R123). -/
def Walk.setNh (w : Walk) (inner : Bool) (nh : Nat) : Walk :=
  { w with info := if inner then { w.info with nhIn := some nh } else { w.info with nh := some nh } }

/-- One header of the base graph (R106, R107): the flag of a byte it looks at and cannot read (R102), or what it does with the bytes and the node
that follows. A header is looked at before it is marked, so it lies inside the window (R109). [log: DEDUCED 50, 51] -/
def Walk.baseStep (w : Walk) (win : List Byte) (dend : Nat) (long : Bool) (node : BNode) : Except Nat (Walk × Option BNode) :=
  let p := w.ptr
  let needs (l : List Nat) (k : Except Nat (Walk × Option BNode)) : Except Nat (Walk × Option BNode) :=
    match l.findSome? (fun o => readFlag (p + o + 1) dend long) with
    | some f => .error f
    | none => k
  let adv (w : Walk) (n : Nat) : Walk := { w with ptr := w.ptr + n }
  let isTag (e : Nat) : Bool := decide (e = 0x8100) || decide (e = 0x88A8)
  match node with
  | .eth inner =>
    let e := half win (p + 12)
    let w1 := w.mark (if inner then 17 else 0) p
    needs [12] (.ok (if inner then
        (if e = 0x8100 then (adv w1 12, some (.tag e 1 true)) else (adv w1 14, afterEtype e true))
      else if isTag e then (adv w1 12, some (.tag e 1 false)) else (adv w1 14, afterEtype e false)))
  | .tag tpid n inner =>
    let e := half win (p + 4)
    needs [4] (.ok (
      if inner then (adv (w.mark 18 p) 6, afterEtype e true)
      else if isTag e && decide (2 ≤ n) then (w.flag 3, none)
      else
        let w1 := w.mark (if tpid = 0x88A8 ∨ e = 0x8100 then 1 else 2) p
        if isTag e then (adv w1 4, some (.tag e (n + 1) false)) else (adv w1 6, afterEtype e false)))
  | .mpls n =>
    if 9 ≤ n then .ok (w.flag 10, none)
    else needs [2] (
      let w1 := adv (w.mark 3 p) 4
      if byteAt win (p + 2) % 2 = 0 then .ok (w1, some (.mpls (n + 1)))
      else needs [4] (.ok (w1, match byteAt win (p + 4) / 16 with
        | 4 => some (.ip4 false)
        | 6 => some (.ip6 false)
        | _ => none)))
  | .ip4 inner =>
    needs [0, 6, 8] (
      let ihl := byteAt win p % 16
      let fr := half win (p + 6)
      let w1 := w.mark (if inner then 19 else 4) p
      let w2 := if 5 < ihl then w1.flag 9 else w1
      let w3 := adv (if fr % 0x2000 ≠ 0 ∨ bitAt fr 13 = true then w2.flag 8 else w2) (ihl * 4)
      .ok (w3, if fr % 0x2000 ≠ 0 then none else afterProto (byteAt win (p + 9)) false true inner))
  | .ip6 inner =>
    let nh := byteAt win (p + 6)
    needs [6] (.ok (adv ((w.mark (if inner then 20 else 5) p).setNh inner nh) 40, afterProto nh true true inner))
  | .ext nh inner =>
    needs (if nh = 43 ∨ nh = 44 then [0, 2] else [0]) (
      let nx := byteAt win p
      let len := (byteAt win (p + 1) + 1) * 8
      let w0 := w.setNh inner nx
      .ok (match nh with
      | 44 =>
        let o := half win (p + 2)
        let w1 := adv (w0.mark 10 p) 8
        let w2 := if o / 8 ≠ 0 ∨ o % 2 = 1 then w1.flag 8 else w1
        (w2, if o / 8 ≠ 0 then none else afterProto nx true false inner)
      | 43 => (adv (w0.mark (if byteAt win (p + 2) = 4 then 9 else 8) p) len, afterProto nx true false inner)
      | 60 => (adv (w0.mark 7 p) len, afterProto nx true false inner)
      | _ => (adv (w0.mark 6 p) len, afterProto nx true false inner)))
  | .udp inner =>
    needs [2] (
      let w1 := adv (w.mark (if inner then 21 else 11) p) 8
      .ok (w1, match half win (p + 2) with
        | 4791 => some (.leaf 23)
        | 4789 => if inner then none else some .vxlan
        | 6081 => if inner then none else some .geneve
        | 319 => if inner then none else some (.leaf 25)
        | 320 => if inner then none else some (.leaf 25)
        | _ => none))
  | .gre =>
    needs [0, 2] (.ok (if bitAt (half win p) 13 && decide (half win (p + 2) = 0x6558) then
        (adv ((w.mark 16 p).flag 11) 8, some (.eth true)) else (w, none)))
  | .vxlan => needs [0] (.ok (adv ((w.mark 14 p).flag 11) 8, some (.eth true)))
  | .geneve =>
    needs [0, 2] (.ok (adv ((w.mark 15 p).flag 11) (8 + byteAt win p % 64 * 4), match half win (p + 2) with
      | 0x6558 => some (.eth true)
      | 0x0800 => some (.ip4 true)
      | 0x86DD => some (.ip6 true)
      | _ => none))
  | .leaf id => needs [0] (.ok (w.mark id p, none))

/-! ## The walk (R101, R102) -/

/-- What a parse is given: the words of the state table, the search of the customer bank and that of the base entries. -/
structure Graph where
  words : Nat → Nat → Nat
  cust : Nat → List Nat → Option (Nat → Nat)
  base : Nat → List Nat → Option (Nat → Nat)

/-- One step (R101, R102): lookaheads, extractions, the search of the customer bank and then of the base entries, and the entry found. In a state
that is a header of the base graph, the base entries do what R106 and R107 say of the header; in any other base state they are the base image's words.
The walk after the step, and the state it goes on in. [log: DESIGN CHOICE 11, 48] -/
def Walk.step (w : Walk) (win : List Byte) (dend : Nat) (long : Bool) (g : Graph) (node : Option BNode) :
    Walk × Option (Nat × Option BNode) :=
  let w0 := { w with steps := w.steps + 1 }
  let sw := g.words w.st
  let next (r : Walk × Nat) : Walk × Option (Nat × Option BNode) :=
    (r.1, if r.2 = 255 then none else some (r.2, nodeOf r.2))
  match w0.lookaheads win dend long sw, node.map (w0.baseStep win dend long) with
  | .error f, _ => (w0.flag f, none)
  | .ok _, some (.error f) => (w0.flag f, none)
  | .ok la, _ =>
    match w0.extractAll win dend long (extOps sw) with
    | (w1, some f) => (w1.flag f, none)
    | (w1, none) =>
      match g.cust w.st la, node with
      | some e, _ => next (w1.apply e la)
      | none, some nd =>
        match w1.baseStep win dend long nd with
        | .error f => (w1.flag f, none)
        | .ok r => (r.1, r.2.map (fun n => (n.state, some n)))
      | none, none =>
        match g.base w.st la with
        | some e => next (w1.apply e la)
        | none => (w1.flag 3, none)

/-- The parse (R101, R102), at most 32 steps; DEPTH when the 32nd step would go on. END_STATE is the state of the last step taken (R109). -/
def Walk.run (w : Walk) (win : List Byte) (dend : Nat) (long : Bool) (g : Graph) (node : Option BNode) (fuel : Nat) : Walk :=
  match fuel with
  | 0 => w.flag 2
  | n + 1 =>
    match w.step win dend long g node with
    | (w1, none) => w1
    | (w1, some nx) => if n = 0 then w1.flag 2 else { w1 with st := nx.1 }.run win dend long g nx.2 n

/-- The ones'-complement sum of an IPv4 header is 0xFFFF (R104). [log: DEDUCED 51] -/
def csumOk (win : List Byte) (p n : Nat) : Bool :=
  let fold (x : Nat) : Nat := x % 65536 + x / 65536
  decide (fold (fold ((List.range (n / 2)).foldl (fun a k => a + half win (p + 2 * k)) 0)) = 65535)

/-! ## Tables of the parser -/

def State.pipe (s : State) (t : Nat) : PipeTile := tget s.cirrus.tiles t {}
def State.setPipe (s : State) (t : Nat) (v : PipeTile) : State :=
  { s with cirrus := { s.cirrus with tiles := tset s.cirrus.tiles t {} v } }
def State.pkt (s : State) (t fid : Nat) : Option Pkt := tget (s.pipe t).pkts fid none
def State.setPkt (s : State) (t fid : Nat) (v : Option Pkt) : State :=
  s.setPipe t { s.pipe t with pkts := tset (s.pipe t).pkts fid none v }

/-- The entries of a table of `w`-word entries whose last word differs from its reset value, in rising order. -/
def State.listedRows (s : State) (n : RName) (i w : Nat) : List Nat :=
  let lo := regKey n i 0
  ((s.r32.filter (fun e => decide (lo ≤ e.1) && decide (e.1 < lo + 65536) && decide ((e.1 - lo) % w = w - 1))).map
    (fun e => (e.1 - lo) / w))

/-- The implemented bits of a state-table word (R140), a parser TCAM word (R141) and a PTYPE TCAM word (R142). [log: DEDUCED 53] -/
def stateMask (k : Nat) : Word :=
  match k with
  | 0 => 0xFFFFFFFF#32
  | 1 => 0xFF#32
  | 6 => 0#32
  | 7 => 0#32
  | _ => 0xFFFFFF#32
def tcamMask (k : Nat) : Word :=
  match k with
  | 0 => 0xFFFF#32
  | 5 => 0x3FCFFFF#32
  | 6 => 0xFF3FFF#32
  | 7 => 1#32
  | _ => 0xFFFFFFFF#32
def ptypeMask (k : Nat) : Word := if k = 3 then 0x3FFFF#32 else 0xFFFFFFFF#32

/-- Words of a state-table entry: the base image's for states 0 to 191 (R99, R140). [log: DEDUCED 146] -/
def State.stateWord (s : State) (t st w : Nat) : Nat :=
  if st < 192 then (if s.flag F.parseStatus_BASE_LOADED t then (Config.baseWord 0 (8 * st + w) &&& stateMask w).toNat else 0)
  else (s.rd .stateTab t (8 * st + w)).toNat

/-- Words of a base parser TCAM entry (R141). [log: DESIGN CHOICE 48] -/
def State.baseTcamWord (s : State) (t e w : Nat) : Nat :=
  if s.flag F.parseStatus_BASE_LOADED t then (Config.baseWord 1 (8 * e + w) &&& tcamMask w).toNat else 0

/-- The customer bank of a parity. -/
def custReg (b : Nat) : RName := if b = 0 then .custTcam0 else .custTcam1
def ptypeReg (b : Nat) : RName := if b = 0 then .ptypeTcam0 else .ptypeTcam1
def entryReg (b : Nat) : RName := if b = 0 then .entryTab0 else .entryTab1

/-- The tables that a packet of a parity is parsed by (R101, R120): the customer bank, which Horizon mode does not use (R133), and the 768 base
entries, each searched for the lowest index. -/
def State.graph (s : State) (t b : Nat) : Graph where
  words := s.stateWord t
  cust st la :=
    let e (k : Nat) : Nat → Nat := fun w => (s.rd (custReg b) t (8 * k + w)).toNat
    ((if s.hz then [] else s.listedRows (custReg b) t 8).find? (fun k => tcamMatch (e k) st la)).map e
  base st la :=
    let e (k : Nat) : Nat → Nat := fun w => s.baseTcamWord t k w
    ((List.range 768).find? (fun k => tcamMatch (e k) st la)).map e

/-- The whole parse of a window (R96–R105; the data end leaves out the FCS), from state 0. [log: DESIGN CHOICE 48] -/
def State.parseWin (s : State) (t b : Nat) (win : List Byte) (long : Bool) : Walk :=
  let dend := if long then 256 else win.length - 4
  let w0 : Walk := { slots := List.replicate 384 0 }
  let da := beNat (bytesAt win 0 6)
  let w1 := if 0x0180C2000000 ≤ da ∧ da ≤ 0x0180C200000F then w0.flag 7 else w0
  let w2 := if long then w1 else w1.flag 5
  let r := w2.run win dend long (s.graph t b) (some (.eth false)) 32
  match r.ip4 with
  | some p =>
    let n := byteAt win p % 16 * 4
    if s.flag F.clsCtl_CSUM_EN t && decide (p + n ≤ dend) && decide (p + n ≤ 256) && !csumOk win p n then r.flag 6 else r
  | none => r

/-! ## The hashes (R123–R125) and the fields they use -/

/-- The address, protocol and port fields of one layer of a packet. -/
structure KeyF where
  /-- 4, 6, or 0 without IP. -/
  kind : Nat := 0
  src : List Byte := []
  dst : List Byte := []
  proto : Nat := 0
  etype : Nat := 0
  sport : Nat := 0
  dport : Nat := 0
  flowlbl : Nat := 0
  deriving DecidableEq, Repr

/-- The fields of the outer or inner layer (R123): addresses and protocol at the IP header's offset, of the kind the parse marked there, ports at the
TCP or UDP header's unless FRAG is set; MAC addresses and EtherType without IP. Fields of a header that is absent are 0. [log: DEDUCED 55] -/
def keyFields (win : List Byte) (hdr flags : Nat) (offs : List Nat) (info : ParseInfo) (inner : Bool) : KeyF :=
  let l3 := nth offs (if inner then 5 else 1) 255
  let l4 := nth offs (if inner then 6 else 2) 255
  let l2 := if inner then nth offs 4 255 else 0
  let kind := nth info.first (if inner then 5 else 1) 0
  let tu := (bitAt hdr (if inner then 21 else 11) || bitAt hdr (if inner then 22 else 12)) && !bitAt flags 8
  let sp := if tu then half win l4 else 0
  let dp := if tu then half win (l4 + 2) else 0
  if kind = 4 ∨ kind = 19 then
    { kind := 4, src := bytesAt win (l3 + 12) 4, dst := bytesAt win (l3 + 16) 4, proto := byteAt win (l3 + 9), sport := sp, dport := dp }
  else if kind = 5 ∨ kind = 20 then
    { kind := 6, src := bytesAt win (l3 + 8) 16, dst := bytesAt win (l3 + 24) 16,
      proto := (if inner then info.nhIn else info.nh).getD (byteAt win (l3 + 6)), sport := sp, dport := dp
      flowlbl := beNat (bytesAt win (l3 + 1) 3) % 2 ^ 20 }
  else if l2 = 255 then { src := List.replicate 6 0, dst := List.replicate 6 0 }
  else
    { src := bytesAt win (l2 + 6) 6, dst := bytesAt win l2 6, etype := half win (skipTags win (l2 + 12) 2).1 }

/-- Two byte strings in unsigned network order. [log: DEDUCED 55] -/
def ordered (a b : List Byte) : List Byte × List Byte := if beNat a ≤ beNat b then (a, b) else (b, a)

/-- The data end of a frame: its last four bytes are the FCS, and a longer frame than the window has no data end in it (R96). -/
def dataEnd (len : Nat) (whole : Bool) : Nat := if 256 < len ∨ whole = false then 256 else len - 4

/-- The window with every byte past the data end or the window free: the spec states no value for a field that lies there.
[log: DESIGN CHOICE 17] -/
def freeTail (win : List Byte) (dend : Nat) : List Byte :=
  win.take dend ++ (List.range (512 - dend)).map (fun k => Config.pastByte 0 (dend + k))

/-- The hash key of R123 and R124. [log: DEDUCED 55] -/
def State.hashKey (s : State) (t p : Nat) (win : List Byte) (w : Walk) : List Byte :=
  let sym := s.flag F.hashCfg_SYM t
  let k := keyFields win w.hdr w.flags w.offs w.info (s.flag F.hashCfg_INNER t && bitAt w.flags 11)
  let ad := if sym then ordered k.src k.dst else (k.src, k.dst)
  let pt := if sym ∧ k.dport < k.sport then (k.dport, k.sport) else (k.sport, k.dport)
  let tag := nth w.offs 0 255
  let vid := if tag = 255 then 0 else half win (tag + 2) % 4096
  let bth := nth w.offs 7 255
  let qp := if bth = 255 then 0 else beNat (bytesAt win (bth + 5) 3)
  beBytes 4 (s.rd .hashSeed t).toNat ++ ad.1 ++ ad.2 ++
    (if k.kind = 0 then beBytes 2 k.etype else beBytes 1 k.proto ++ beBytes 2 pt.1 ++ beBytes 2 pt.2) ++
    (if s.flag F.hashCfg_USE_VID t then beBytes 2 vid else []) ++
    (if s.flag F.hashCfg_USE_IPORT t && !sym then beBytes 2 p else []) ++
    (if s.flag F.hashCfg_USE_QP t && !sym then beBytes 3 qp else []) ++
    (if s.flag F.hashCfg_USE_FLOWLBL t && !sym then beBytes 3 k.flowlbl else [])

/-! ## Policers (R129–R132, R315, R316) -/

def State.policer (s : State) (t k : Nat) : Policer := tget (s.pipe t).policers k {}
def State.setPolicer (s : State) (t k : Nat) (v : Policer) : State :=
  s.setPipe t { s.pipe t with policers := tset (s.pipe t).policers k {} v }

/-- The fields of a policer's configuration (R144): MODE with 3 as 0, CIR, peak or excess rate, CBS, PBS or EBS. -/
def Policer.mode (v : Policer) : Nat := let m := bits (nth v.cfg 0 0) 23 22
  if m = 3 then 0 else m
def Policer.aware (v : Policer) : Bool := bitAt (nth v.cfg 0 0) 24
def Policer.redDrop (v : Policer) : Bool := bitAt (nth v.cfg 0 0) 25
def Policer.cir (v : Policer) : Nat := max 1 (min 3200000 (bits (nth v.cfg 0 0) 21 0))
def Policer.pir (v : Policer) : Nat :=
  let r := max 1 (min 3200000 (bits (nth v.cfg 1 0) 21 0))
  if v.mode = 1 then max v.cir r else r
def Policer.cbs (v : Policer) : Nat := bits (nth v.cfg 2 0) 23 0
def Policer.pbs (v : Policer) : Nat := bits (nth v.cfg 3 0) 23 0

/-- The policer with both buckets filled up to now (R315). -/
def State.policerNow (s : State) (t k : Nat) : Policer :=
  let v := s.policer t k
  let n := s.time.ticks - v.edge
  { v with tc := min (v.cbs * 2 ^ 32) (v.tc + n * tickTokens v.cir), tp := min (v.pbs * 2 ^ 32) (v.tp + n * tickTokens v.pir),
           edge := s.time.ticks }

/-- The colour a policer gives `len` bytes with an input colour, and its buckets after (R316): 0 green, 1 yellow, 2 red. -/
def Policer.colour (v : Policer) (input len : Nat) : Nat × Policer :=
  let b := len * 2 ^ 32
  let c := if v.aware then input else 0
  if v.mode = 1 then
    if c = 2 ∨ v.tp < b then (2, v)
    else if c = 1 ∨ v.tc < b then (1, { v with tp := v.tp - b })
    else (0, { v with tp := v.tp - b, tc := v.tc - b })
  else
    if c = 0 ∧ b ≤ v.tc then (0, { v with tc := v.tc - b })
    else if c ≤ 1 ∧ b ≤ v.tp then (1, { v with tp := v.tp - b })
    else (2, v)

/-- A frame of `len` bytes is metered: its colour (R129–R131). MODE 0 meters nothing and keeps the input colour. [log: DEDUCED 52] -/
def State.meter (s : State) (t k input len : Nat) : Nat × State :=
  let v := s.policerNow t k
  if v.mode = 0 then (input, s)
  else let r := v.colour input len
    (r.1, s.setPolicer t k r.2)

/-! ## Marks of the control store -/

/-- The region of a control-store word: base below 0x6000 (R152). -/
def inCust (a : Nat) : Bool := decide (0x6000 ≤ a)

/-- A word is marked ENTRY in the base image or in the active customer image (R116). -/
def State.isEntry (s : State) (a : Nat) : Bool :=
  if inCust a then s.flag F.imgStatus_CUST_ACTIVE && tget s.cirrus.entry a false
  else if s.cirrus.bootBase then Config.bootEntry a else tget s.cirrus.entry a false

/-! ## The PHV (R108, R109) -/

/-- A metadata field of a PHV. [log: DESIGN CHOICE 17] -/
def phvGet (phv : List Byte) (off n : Nat) : Nat := leNat (bytesAt phv off n)
def phvPut (phv : List Byte) (off n v : Nat) : List Byte := bytesPut phv off (leBytes n v)

/-- HDR_OFFSET of a PHV. -/
def phvOffs (phv : List Byte) : List Nat := (List.range 8).map (fun k => byteAt phv (28 + k))

/-- The PHV of a parsed packet before metering (R109). -/
def buildPhv (p version arrival len flags ptype cls hdr valid hashA hashB st steps seq : Nat) (offs : List Nat) (slots : List Byte) :
    List Byte :=
  leBytes 2 p ++ leBytes 2 version ++ leBytes 4 arrival ++ leBytes 2 len ++ leBytes 2 flags ++ leBytes 1 ptype ++ leBytes 1 cls ++
    leBytes 2 0xFFFF ++ leBytes 4 hdr ++ leBytes 8 valid ++ offs.flatMap (leBytes 1) ++ leBytes 4 hashA ++ leBytes 2 hashB ++
    leBytes 2 (st + steps * 256) ++ leBytes 4 seq ++ leBytes 16 0 ++ bytesAt slots 0 384 ++ List.replicate 64 0

/-- The outermost tag's PCP and DEI, and the outer IP header's DSCP, at the offsets of the parse (R113). -/
def tagByte (win : List Byte) (offs : List Nat) : Option Nat :=
  if nth offs 0 255 = 255 then none else some (byteAt win (nth offs 0 255 + 2))
def dscpOf (win : List Byte) (info : ParseInfo) (offs : List Nat) : Option Nat :=
  let p := nth offs 1 255
  if p = 255 then none
  else if nth info.first 1 0 = 4 then some (byteAt win (p + 1) / 4)
  else some (half win p / 64 % 64)

/-- A PTYPE entry matches (R114, R142). -/
def ptypeMatch (e : Nat → Nat) (hdr flags prof : Nat) : Bool :=
  let key := bits (e 2) 15 0
  let mask := bits (e 2) 31 16
  bitAt (e 3) 16 && decide ((hdr ^^^ e 0) &&& e 1 = 0) && decide ((prof ^^^ bits (e 3) 3 0) &&& bits (e 3) 7 4 = 0) &&
    (if bitAt (e 3) 17 && decide (mask &&& key ≠ 0) then
      decide (flags &&& (mask &&& (key ^^^ 0xFFFF)) = 0) && decide (flags &&& (mask &&& key) ≠ 0)
    else decide ((flags ^^^ key) &&& mask = 0))

/-- The packet type of R114; in Horizon mode values above 0x7F are not used (R133). -/
def State.ptypeOf (s : State) (t b hdr flags prof : Nat) : Option Nat :=
  let e (k : Nat) : Nat → Nat := fun w => (s.rd (ptypeReg b) t (4 * k + w)).toNat
  (((s.listedRows (ptypeReg b) t 4).filter (fun k => !s.hz || decide (bits (e k 3) 15 8 < 0x80))).find?
    (fun k => ptypeMatch (e k) hdr flags prof)).map (fun k => bits (e k 3) 15 8)

/-- The classifier's reason for the exception path, if any (R114, R116, R117). -/
def State.clsReason (s : State) (t b flags : Nat) (ptype : Option Nat) : Option Nat :=
  match ptype with
  | none => some 0x0104
  | some y =>
    let w := (s.rd (entryReg b) t y).toNat
    if bitAt w 16 then
      some (if bitAt flags 0 then 0x0101 else if bitAt flags 1 then 0x0102
        else if bitAt flags 2 || bitAt flags 3 || bitAt flags 4 then 0x0103 else 0x0106)
    else if !bitAt w 15 || !s.isEntry (w % 32768) then some 0x0105
    else none

/-- The counter of a classifier reason (R134). -/
def State.countReason (s : State) (t reason : Nat) : State :=
  match reason with
  | 0x0101 => s.bump .cntTrunc t
  | 0x0102 => s.bump .cntMalformed t
  | 0x0103 => s.bump .cntLimitExc t
  | 0x0104 => s.bump .cntNoPtype t
  | 0x0105 => s.bump .cntNoEntry t
  | _ => s

/-! ## Dispatch -/

/-- An activation is between its steps 1 and 4 for the region of a word (R181). -/
def State.regionHeld (s : State) (a : Nat) : Bool :=
  match s.cirrus.act with
  | some (base, _) => if base then !inCust a else inCust a
  | none => false

/-- The active pipe that takes the next packet of a tile, in turn (R16). [log: DESIGN CHOICE 54] -/
def State.nextPipe (s : State) (t : Nat) : Option Nat :=
  ((List.range 9).map (fun k => ((s.pipe t).rr + k) % 9)).find? (fun k => bitAt (s.fget F.cirrusStatus_PIPE_ACTIVE t) k)

/-- A fresh thread of a routine (R148). -/
def freshThread (pipe entry : Nat) (phv : List Byte) : Thread :=
  { pipe := pipe, pc := entry, phv := phv.take 448 ++ List.replicate 64 0 }

/-- ENTRY of a PHV. -/
def phvEntry (phv : List Byte) : Nat := phvGet phv 48 2 % 32768

/-- A classified packet goes to a pipe (R16), unless dispatch stands still for its region or its tile (R181, R510). [log: DEDUCED 59] -/
def State.dispatch (s : State) (t fid : Nat) : State :=
  match s.pkt t fid with
  | none => s
  | some k =>
    let e := phvEntry k.phv
    if k.stage ≠ .held ∨ (s.pipe t).stopped = true ∨ s.regionHeld e = true then s
    else match s.nextPipe t with
      | none => s
      | some p =>
        (s.setPipe t { s.pipe t with rr := (p + 1) % 9 }).setPkt t fid
          (some { k with stage := .running, thread := freshThread p e k.phv })

/-- A packet's result is known: it waits in the reorder stage. -/
def State.finishPkt (s : State) (t fid : Nat) (k : Pkt) (d : Disp) : State :=
  s.setPkt t fid (some { k with stage := .ready, disp := some d, thread := {} })

/-- A packet goes to the exception path (R116, R175): nothing of its log applies. -/
def State.excPkt (s : State) (t fid : Nat) (k : Pkt) (reason : Nat) : State :=
  let s1 := (s.countReason t reason).perf t 13 (some (s.slotOf k.iport)) none none 1
  let s2 := if 0x0201 ≤ reason ∧ reason ≤ 0x020E then s1.bump .cntExcCirrus t else s1
  s2.finishPkt t fid { k with log := [], dirty := 0, outPhv := k.phv } (.exc reason)

/-- The classifier's end for a packet (R116, R129–R131): metering where the port asks for it, once the length is known; then the
exception path or dispatch. -/
def State.classifyEnd (s : State) (t fid : Nat) (k : Pkt) (reason : Option Nat) (known : Bool) (len : Nat) : State :=
  let p := k.iport
  let pol := s.flag F.portCls_POL_EN p && !s.hz
  if pol && !known then s.setPkt t fid (some { k with stage := .waitLast })
  else
    let go (s : State) (k : Pkt) : State := match reason with
      | some r => s.excPkt t fid k r
      | none => (s.setPkt t fid (some { k with stage := .held })).dispatch t fid
    if !pol then go s k
    else
      let idx := (s.fget F.portCls_POL_BASE p + byteAt k.phv 13 % 8) % 65536
      let v := s.policer t idx
      let dei := match tagByte ((s.frame t fid).data.take 256) (phvOffs k.phv) with
        | some b => bitAt b 4
        | none => false
      let pre := b2n (s.flag F.portCls_DEI_YELLOW p && v.aware && dei)
      let m := s.meter t idx pre len
      let phv := phvPut (phvPut k.phv 14 2 idx) 13 1 (byteAt k.phv 13 % 8 + m.1 * 8)
      let k1 := { k with phv := phv }
      if m.1 = 2 ∧ v.redDrop = true ∧ v.mode ≠ 0 then m.2.finishPkt t fid { k1 with outPhv := phv } (.drop 0x0506)
      else go m.2 k1

/-- FRAME_LEN and LEN_VALID set in a PHV (R109, R130). -/
def setLen (phv : List Byte) (len : Nat) : List Byte := phvPut phv 8 2 (len % 16384 + 16384)

/-- The oldest frame of port `p` that the parser may start: byte 255 or the last beat has arrived (R97). -/
def State.parseNext (s : State) (t p : Nat) : Option Nat :=
  ((s.buf t).frames.find? (fun e => decide (e.2.m.iport = p) && !e.2.parsed && e.2.dead.isNone &&
    (e.2.done || decide (256 ≤ e.2.rxLen)))).map (fun e => e.1)

/-- One in-flight count of a tile (R223). -/
def State.inflight (s : State) (t parity : Nat) : Nat :=
  if parity = 0 then s.fget F.ttInflight_INFLIGHT0 t else s.fget F.ttInflight_INFLIGHT1 t
def State.setInflight (s : State) (t parity v : Nat) : State :=
  if parity = 0 then s.fset F.ttInflight_INFLIGHT0 v t else s.fset F.ttInflight_INFLIGHT1 v t

/-- The parser takes a packet (R97, R98, R110–R117): VERSION and SEQ are stamped, the window is parsed and the packet is
classified. The reorder stage keeps a place for each packet from its parse start, so that it never holds more than 512 results (R17, R98). A frame whose
last beat is in already waits for nothing (R130). [log: DEDUCED 202] -/
def State.parseStart (s : State) (t p : Nat) : State :=
  if (s.pipe t).stopped = true ∨ s.tileOn t = false ∨ 512 ≤ (s.pipe t).pkts.length then s
  else match s.parseNext t p with
    | none => s
    | some fid =>
      let f := s.frame t fid
      let v := s.fget F.ttVersion_VERSION t
      let b := v % 2
      let win := f.data.take 256
      let long := decide (256 < f.rxLen) || !f.done
      let w := s.parseWin t b win long
      let dend := dataEnd f.rxLen f.done
      let rd := freeTail win dend
      let cls := s.classRule p ((tagByte rd w.offs).map (fun x => x / 32)) (dscpOf rd w.info w.offs)
      let prof := if s.hz then 0 else s.fget F.portCls_PORT_PROF p
      let pt := s.ptypeOf t b w.hdr w.flags prof
      let entry := match pt with
        | some y => (s.rd (entryReg b) t y).toNat % 32768
        | none => 0
      let key := s.hashKey t p rd w
      let seq := (s.pipe t).nextSeq
      let phv0 := buildPhv p v (f.m.arrivalNs % 2 ^ 32) 0 w.flags (pt.getD 0) cls w.hdr w.valid (crc32c key).toNat (crc16 key).toNat
        w.st w.steps seq w.offs w.slots
      let phv1 := phvPut phv0 48 2 entry
      let known := !long || (f.done && s.flag F.portCls_POL_EN p && !s.hz)
      let phv2 := if known then setLen phv1 f.rxLen else phv1
      let why := s.clsReason t b w.flags pt
      let k : Pkt := { iport := p, seq := seq, version := v, phv := phv2, srcs := w.srcs, info := w.info, reason := why }
      let s1 := s.setPipe t { s.pipe t with nextSeq := (seq + 1) % 2 ^ 32 }
      let s2 := (s1.setInflight t b (s1.inflight t b + 1)).setFrame t fid
        { f with parsed := true, m := { f.m with iclass := cls, seq := seq } }
      s2.classifyEnd t fid k why known f.rxLen

def execParseStart (t p : Nat) (s : State) : Host.Outcome State Fault Refusal := .next (s.parseStart t p)

/-- The last beat of a frame that waits for it is in: it is metered and dispatched as it was classified (R130). -/
def State.lastBeatFor (s : State) (t fid : Nat) : State :=
  match s.pkt t fid with
  | some k =>
    if k.stage = .waitLast then
      let f := s.frame t fid
      (s.setFrame t fid { f with waited := true }).classifyEnd t fid { k with phv := setLen k.phv f.rxLen } k.reason true f.rxLen
    else s
  | none => s

/-! ## Multi-word entries (R122) -/

/-- A held word of a multi-word entry. -/
def State.holdWord (s : State) (t : Nat) (n : RName) (j : Nat) (v : Word) : State :=
  s.setPipe t { s.pipe t with held := tset (s.pipe t).held (regKey n t j) none (some v) }

/-- The write of the last word makes the entry take effect whole: the held words and the last one (R122). -/
def State.commitEntry (s : State) (t : Nat) (n : RName) (w e : Nat) (mask : Nat → Word) (last : Word) : State :=
  let s1 := forN (w - 1) (fun k s =>
    let key := regKey n t (w * e + k)
    match tget (s.pipe t).held key none with
    | some v => (s.wr n (v &&& mask k) t (w * e + k)).setPipe t { s.pipe t with held := tset (s.pipe t).held key none none }
    | none => s) s
  s1.wr n (last &&& mask (w - 1)) t (w * e + w - 1)

/-- A write of a word of a state-table entry; base states are read-only (R99, R134). -/
def State.stateTabWrite (s : State) (t e w : Nat) (v : Word) : State :=
  if e < 192 ∨ 255 ≤ e then s
  else if w = 7 then s.commitEntry t .stateTab 8 e stateMask v else s.holdWord t .stateTab (8 * e + w) v

/-- A write of a word of a customer parser TCAM entry of bank `b`. -/
def State.tcamWrite (s : State) (t b e w : Nat) (v : Word) : State :=
  if w = 7 then s.commitEntry t (custReg b) 8 e tcamMask v else s.holdWord t (custReg b) (8 * e + w) v

/-- A write of a word of a PTYPE TCAM entry of bank `b`. -/
def State.ptypeWrite (s : State) (t b e w : Nat) (v : Word) : State :=
  if w = 3 then s.commitEntry t (ptypeReg b) 4 e ptypeMask v else s.holdWord t (ptypeReg b) (4 * e + w) v

def execStateEntryCommit (t e : Nat) (v : Word) (s : State) : Host.Outcome State Fault Refusal :=
  .next (s.when (s.tileOn t) (fun s => s.stateTabWrite t e 7 v))
def execParserTcamCommit (t b e : Nat) (v : Word) (s : State) : Host.Outcome State Fault Refusal :=
  .next (s.when (s.tileOn t) (fun s => s.tcamWrite t b e 7 v))
def execPtypeEntryCommit (t b e : Nat) (v : Word) (s : State) : Host.Outcome State Fault Refusal :=
  .next (s.when (s.tileOn t) (fun s => s.ptypeWrite t b e 3 v))

/-- A write of a word that is not an entry's last (R122): `tab` 0 the state table, 1 and 2 the customer TCAM banks, 3 and 4 the
PTYPE banks. The block of a tile that is not clocked ignores writes (R30). -/
def execEntryWordWrite (t tab e w : Nat) (v : Word) (s : State) : Host.Outcome State Fault Refusal :=
  .next (if s.tileOn t = false then s else match tab with
    | 0 => if w < 7 then s.stateTabWrite t e w v else s
    | 1 => if w < 7 then s.tcamWrite t 0 e w v else s
    | 2 => if w < 7 then s.tcamWrite t 1 e w v else s
    | 3 => if w < 3 then s.ptypeWrite t 0 (e % 128) w v else s
    | _ => if w < 3 then s.ptypeWrite t 1 (e % 128) w v else s)

/-! ## Policer commands (R143, R144) -/

/-- A write of POL_CMD with an operation: ignored while BUSY. [log: DEDUCED 53] -/
def State.polCmd (s : State) (t op : Nat) : State :=
  if s.flag F.polStatus_BUSY t then s
  else
    let k := s.fget F.polIdx_IDX t
    let d (j : Nat) : Nat := (s.rd .polData t j).toNat
    let put (s : State) (l : List Nat) : State := forN 4 (fun j s => s.wr .polData (BitVec.ofNat 32 (nth l j 0)) t j) s
    match op with
    | 1 =>
      let cfg := [d 0 % 2 ^ 26, d 1 % 2 ^ 22, d 2 % 2 ^ 24, d 3 % 2 ^ 24]
      (s.setPolicer t k { cfg := cfg, tc := nth cfg 2 0 * 2 ^ 32, tp := nth cfg 3 0 * 2 ^ 32, edge := s.time.ticks }).fset F.polStatus_BUSY 1 t
    | 2 => (put s (s.policer t k).cfg).fset F.polStatus_BUSY 1 t
    | 3 =>
      let v := s.policerNow t k
      (put s [v.tc / 2 ^ 32, v.tp / 2 ^ 32, 0, 0]).fset F.polStatus_BUSY 1 t
    | _ => s

def execPolicerWriteConfig (t : Nat) (s : State) : Host.Outcome State Fault Refusal :=
  .next (s.when (s.tileOn t) (fun s => s.polCmd t 1))
def execPolicerReadConfig (t : Nat) (s : State) : Host.Outcome State Fault Refusal :=
  .next (s.when (s.tileOn t) (fun s => s.polCmd t 2))
def execPolicerReadBucket (t : Nat) (s : State) : Host.Outcome State Fault Refusal :=
  .next (s.when (s.tileOn t) (fun s => s.polCmd t 3))

/-- A policer operation completes (R143). -/
def execPolicerCmdDone (t : Nat) (s : State) : Host.Outcome State Fault Refusal := .next (s.fset F.polStatus_BUSY 0 t)

end Sys2Proof.Machine
end

