-- ==== Sys2Proof/Machine/Halo.lean ====
section
/-!
DEFINITION. Halo (08_halo_telemetry_counters.md): the flow cache, histograms, mirror capture, in-situ OAM, statistics counters,
epochs and counter groups.
-/

namespace Sys2Proof.Machine

def State.ht (s : State) (t : Nat) : HaloTile := tget s.halo.tiles t {}
def State.setHt (s : State) (t : Nat) (v : HaloTile) : State :=
  { s with halo := { s.halo with tiles := tset s.halo.tiles t {} v } }
def State.flow (s : State) (t k : Nat) : Flow := tget (s.ht t).flows k {}
def State.setFlow (s : State) (t k : Nat) (v : Flow) : State :=
  s.setHt t { s.ht t with flows := tset (s.ht t).flows k {} v }

/-- Every word of a register array is at its reset value again. -/
def State.clearArr (s : State) (n : RName) : State :=
  let out (k : Nat) : Bool := decide (k < regKey n 0 0) || decide (regKey n 0 0 + 65536 * 65536 ≤ k)
  { s with r32 := s.r32.filter (fun e => out e.1), r64 := s.r64.filter (fun e => out e.1) }

/-! ## Export (R345, R346) -/

/-- A record bound for a telemetry ring has been lost: the ring's next buffer says so (LOST of R395). -/
def State.ringLost (s : State) (r : Nat) : State := s.setRing r { s.ring r with capLost := true }

/-- A record joins the tile's export queue of 1,024, or is lost and counted. [log: DEDUCED 101] -/
def State.exportRec (s : State) (t ring : Nat) (bs : List Byte) (lost : RName) : State :=
  let h := s.ht t
  if h.exports.length < 1024 then s.setHt t { h with exports := h.exports ++ [(ring, bs)] } else (s.bump lost).ringLost ring

/-- The 96 bytes of a flow record (R345). -/
def flowRec (t reason : Nat) (v : Flow) : List Byte :=
  leBytes 1 1 ++ leBytes 1 reason ++ leBytes 2 96 ++ leBytes 1 (t + v.mode * 16) ++ bytesAt v.key 0 43 ++ leBytes 8 v.bytes ++
    leBytes 8 v.packets ++ leBytes 8 v.firstNs ++ leBytes 8 v.lastNs ++ leBytes 4 v.peakRes ++ leBytes 4 v.dropPkts ++
    leBytes 8 v.haloTag

/-- An entry is exported with a reason (R344); with EXPORT at 0 there is no record (R346). [log: DEDUCED 101] -/
def State.flowExport (s : State) (t k reason : Nat) : State :=
  if s.flag F.flowCfg_EXPORT then
    let n := (s.ht t).exports.length
    (s.exportRec t (s.fget F.flowCfg_RING) (flowRec t reason (s.flow t k)) .cntFlowLost).when (decide (n < 1024))
      (fun s => s.bump .cntFlowExported)
  else s

/-- A way is freed; its generation stays. -/
def State.flowFree (s : State) (t k : Nat) : State := s.setFlow t k { gen := (s.flow t k).gen }

/-! ## The flow cache (R341–R343) -/

/-- KEY_MODE as it acts. -/
def State.keyMode (s : State) : Nat := let m := s.fget F.flowCfg_KEY_MODE
  if m = 3 then 0 else m

/-- Bytes 5 to 47 of the record of a packet, and the bytes of its key in the order R341 lists them. [log: DEDUCED 55] -/
def State.flowKey (s : State) (phv win : List Byte) (info : ParseInfo) (dend : Nat) : List Byte × List Byte :=
  let fl := phvGet phv 10 2
  let k := keyFields (freeTail win dend) (phvGet phv 16 4) fl (phvOffs phv) info (decide (s.keyMode = 1) && bitAt fl 11)
  let ip := if s.keyMode = 2 then phvGet phv 0 2 % 512 else 0
  let dport := if k.kind = 0 then k.etype else k.dport
  (leBytes 1 k.kind ++ leBytes 1 k.proto ++ leBytes 1 0 ++ leBytes 2 ip ++ leBytes 2 k.sport ++ leBytes 2 dport ++ leBytes 2 0 ++
      bytesAt k.src 0 16 ++ bytesAt k.dst 0 16,
    k.src ++ k.dst ++ (if k.kind = 0 then beBytes 2 k.etype else beBytes 1 k.proto ++ beBytes 2 k.sport ++ beBytes 2 k.dport) ++
      (if s.keyMode = 2 then beBytes 2 ip else []))

/-- The way of a set to replace: a free one, else the one with the oldest LAST_NS. -/
def State.flowWay (s : State) (t set : Nat) : Nat :=
  let ways := (List.range 4).map (fun w => 4 * set + w)
  match ways.find? (fun k => !(s.flow t k).valid) with
  | some k => k
  | none => ways.foldl (fun b k => if (s.flow t k).lastNs < (s.flow t b).lastNs then k else b) (4 * set)

/-- The release of a packet in the flow cache (R342): the entry and its generation, and the state after. [log: DEDUCED 102] -/
def State.flowRelease (s : State) (t : Nat) (phv win : List Byte) (info : ParseInfo) (dend arrival len tag : Nat) (lenKnown drop : Bool) :
    Option (Nat × Nat) × State :=
  if s.flag F.flowCfg_EN = false then (none, s)
  else
    let key := s.flowKey phv win info dend
    let set := (crc32c (beBytes 4 (s.rd .flowSeed).toNat ++ key.2)).toNat % 16384
    let add := if lenKnown then len else 0
    match ((List.range 4).map (fun w => 4 * set + w)).find? (fun k =>
        let v := s.flow t k
        v.valid && decide (v.key = key.1) && decide (v.mode = s.keyMode)) with
    | some k =>
      let v := s.flow t k
      (some (k, v.gen), s.setFlow t k { v with
        packets := v.packets + 1, bytes := v.bytes + add, lastNs := arrival, firstNs := if v.fresh then arrival else v.firstNs,
        fresh := false, dropPkts := v.dropPkts + b2n drop, haloTag := tag })
    | none =>
      let k := s.flowWay t set
      let s1 := s.when (s.flow t k).valid (fun s => s.flowExport t k 1)
      let gen := ((s.flow t k).gen + 1) % 65536
      (some (k, gen), s1.setFlow t k {
        valid := true, key := key.1, mode := s.keyMode, packets := 1, bytes := add, firstNs := arrival, lastNs := arrival
        dropPkts := b2n drop, haloTag := tag, gen := gen })

/-- Bytes that became known at a frame's last beat (R335). -/
def State.flowBytes (s : State) (t : Nat) (fl : Option (Nat × Nat)) (len : Nat) : State :=
  match fl with
  | some (k, gen) => let v := s.flow t k
    if v.valid = true ∧ v.gen = gen then s.setFlow t k { v with bytes := v.bytes + len } else s
  | none => s

/-- An egress tile reports a residence to the frame's ingress tile (R343). -/
def State.sendReport (s : State) (t : Nat) (fl : Option (Nat × Nat)) (res : Nat) : State :=
  match fl with
  | some (k, gen) => s.setHt t { s.ht t with reports := (s.ht t).reports ++ [(k, gen, res)] }
  | none => s

/-- A report arrives: PEAK_RES takes the larger value; a report of another generation is discarded (R343). [log: DEDUCED 102] -/
def execResidenceReport (t : Nat) (s : State) : Host.Outcome State Fault Refusal :=
  .next (
    let h := s.ht t
    match h.reports with
    | [] => s
    | (k, gen, res) :: rest =>
      let s1 := s.setHt t { h with reports := rest }
      let v := s1.flow t k
      if v.valid = true ∧ v.gen = gen ∧ s.flag F.flowCfg_EN = true then s1.setFlow t k { v with peakRes := max v.peakRes res } else s1)

/-- The scanner visits an entry (R344): a running flush exports it, then IDLE and ACTIVE. -/
def execFlowScanVisit (t k : Nat) (s : State) : Host.Outcome State Fault Refusal :=
  .next (
    let v := s.flow t k
    let idle := max 1 (s.fget F.flowTmo_IDLE_MS) * 1000000
    let active := max 1 (s.fget F.flowTmo_ACTIVE_S) * 1000000000
    if v.valid = false then s
    else if s.flag F.haloStatus_FLUSHING then (s.flowExport t k 3).flowFree t k
    else if v.lastNs + idle < s.ptpNs then (s.flowExport t k 0).flowFree t k
    else if v.fresh = false ∧ v.firstNs + active < s.ptpNs then
      (s.flowExport t k 2).setFlow t k { v with packets := 0, bytes := 0, peakRes := 0, dropPkts := 0, fresh := true }
    else s)

/-- FLOW_CMD FLUSH (R344, R368): ignored while one runs. -/
def State.flowFlush (s : State) : State := s.fset F.haloStatus_FLUSHING 1
def execFlowFlush (s : State) : Host.Outcome State Fault Refusal := .next s.flowFlush

/-- The flush ends: every entry still valid is exported with reason FLUSH and freed, and EV_FLOW_FLUSHED is posted (R344). -/
def execFlowFlushDone (s : State) : Host.Outcome State Fault Refusal :=
  .next (
    if s.flag F.haloStatus_FLUSHING then
      ((s.each s.halo.tiles (fun e s => s.each (e.2.flows.filter (fun f => f.2.valid)) (fun f s =>
        (s.flowExport e.1 f.1 3).flowFree e.1 f.1))).fset F.haloStatus_FLUSHING 0).post 0x0502 0
    else s)

/-- FLOW_SEED (R366). -/
def State.flowSeedWrite (s : State) (v : Word) : State :=
  if s.halo.tiles.any (fun e => e.2.flows.any (fun f => f.2.valid)) then s else s.wr .flowSeed v
def execFlowSeedWrite (v : Word) (s : State) : Host.Outcome State Fault Refusal := .next (s.flowSeedWrite v)

/-! ## Histograms (R338–R340) -/

/-- The bin of a value under a SCALE (R339). -/
def histBin (v scale : Nat) : Nat := let x := v / 2 ^ scale
  if x = 0 then 0 else min 31 (Nat.log2 x + 1)

/-- A value adds 1 to its bin, which wraps into the WRAP word (R340). -/
def State.histAdd (s : State) (n : RName) (p j : Nat) (w : RName) (wj v scale : Nat) : State :=
  let b := histBin v scale
  let old := s.rd n p (j + b)
  let s1 := s.wr n (old + 1) p (j + b)
  if old = 0xFFFFFFFF#32 then s1.wr w (s1.rd w p wj ||| BitVec.ofNat 32 (2 ^ b)) p wj else s1

/-- A value of class histogram `kind` (0 LAT, 1 DELAY, 2 DEPTH) and of port histogram `kind` (0 LAT, 1 DEPTH). -/
def State.histC (s : State) (p c kind v scale : Nat) : State :=
  s.histAdd .histClass p ((c * 4 + kind) * 32) .wrapClass (c * 4 + kind) v scale
def State.histP (s : State) (p kind v scale : Nat) : State := s.histAdd .histPort p (kind * 32) .wrapPort kind v scale

/-- A transmitted copy's residence (R337, R338). -/
def State.histLat (s : State) (p c res : Nat) : State :=
  let sc := s.fget F.histCfg_LAT_SCALE
  (s.histC p c 0 res sc).histP p 0 res sc

/-- The depth of a class (R327): its bytes in the VOQs of all 16 tiles and its staged bytes. -/
def State.depth (s : State) (p c : Nat) : Nat :=
  ((List.range 16).map (fun t => s.voqBytes t (8 * p + c))).sum + (s.nc p c).bytes

/-- The head sojourn of a class (R327): the age of the oldest frame among the heads of its queues. -/
def State.headSojourn (s : State) (p c : Nat) : Nat :=
  let heads := (List.range 16).filterMap (fun t =>
    let v := s.voq t (8 * p + c)
    match v.head, v.seg with
    | r :: _, _ => some (s.frame t r.fid).m.arrivalNs
    | [], r :: _ => some r.m.arrivalNs
    | [], [] => (v.sram.head?).map (fun r => (s.frame t r.fid).m.arrivalNs))
  match heads with
  | [] => 0
  | a :: l => s.ptpNs - l.foldl min a

/-- A sample instant of R327 in one tile: delay and depth of every class of its ports, and the port depth. -/
def execSampleInstant (t : Nat) (s : State) : Host.Outcome State Fault Refusal :=
  .next (
    if s.flag F.sampleCfg_EN t = false ∨ s.tileOn t = false then s
    else
      let ds := s.fget F.histCfg_DEPTH_SCALE
      let ls := s.fget F.histCfg_LAT_SCALE
      s.each (s.tilePorts t) (fun p s =>
        let s1 := forN 8 (fun c s => (s.histC p c 1 (s.headSojourn p c) ls).histC p c 2 (s.depth p c) ds) s
        s1.histP p 1 ((List.range 8).map (s1.depth p)).sum ds))

/-- HIST_CMD CLEAR (R340): the bins and WRAP words of all tiles. -/
def State.histClear (s : State) : State :=
  (((s.clearArr .histClass).clearArr .histPort).clearArr .wrapClass).clearArr .wrapPort
def execHistClear (s : State) : Host.Outcome State Fault Refusal := .next s.histClear

/-- A histogram record (R360). [log: DEDUCED 100] -/
def State.histRec (s : State) (n : RName) (p j : Nat) (w : RName) (wj kind cls epoch : Nat) : List Byte :=
  leBytes 1 3 ++ leBytes 1 kind ++ leBytes 2 (p + cls * 512) ++ leBytes 4 (s.rd w p wj).toNat ++ leBytes 8 epoch ++
    (List.range 32).flatMap (fun b => leBytes 4 (s.rd n p (j + b)).toNat)

/-- A histogram is exported, unless SKIP_ZERO skips it (R360). [log: DEDUCED 100] -/
def State.histExport (s : State) (t : Nat) (n : RName) (p j : Nat) (w : RName) (wj kind cls epoch : Nat) : State :=
  if s.flag F.histCfg_SKIP_ZERO && (List.range 32).all (fun b => decide (s.rd n p (j + b) = 0)) then s
  else s.exportRec t (s.fget F.histCfg_RING) (s.histRec n p j w wj kind cls epoch) .cntHistLost

/-- Every histogram of every tile is exported at an epoch's end: port by port, class by class, then the port's own (R360). -/
def State.histExports (s : State) (epoch : Nat) : State :=
  forN 16 (fun t s => s.each (if s.tileOn t then s.tilePorts t else []) (fun p s =>
    let s1 := forN 8 (fun c s => forN 3 (fun kind s =>
      s.histExport t .histClass p ((c * 4 + kind) * 32) .wrapClass (c * 4 + kind) kind c epoch) s) s
    forN 2 (fun kind s => s.histExport t .histPort p (kind * 32) .wrapPort kind (3 + kind) 0 epoch) s1)) s

/-! ## Epochs (R359) -/

/-- The listed words of a register array, with their offsets from its first key. -/
def listedOf {α : Type} (t : Tab α) (n : RName) : List (Nat × α) :=
  (t.filter (fun e => decide (regKey n 0 0 ≤ e.1) && decide (e.1 < regKey n 0 0 + 65536 * 65536))).map (fun e => (e.1 - regKey n 0 0, e.2))

/-- An epoch ends in all tiles (R359, R360): counters and OVF bits go to the snapshot bank, EPOCH_NUM rises, EV_CNT_EPOCH is
posted, and with EXPORT the histograms leave and start again. [log: DEDUCED 100] -/
def State.epochEdge (s : State) : State :=
  let old := (s.rdw .epochNum).toNat
  let s1 := (s.clearArr .snapVal).clearArr .snapOvf
  let s2 := s1.each (listedOf s.r64 .pcVal) (fun e s => s.wrw .snapVal e.2 (e.1 / 65536) (e.1 % 65536))
  let s3 := s2.each (listedOf s.r32 .pcOvf) (fun e s => s.wr .snapOvf e.2 (e.1 / 65536) (e.1 % 65536))
  let s4 := s3.bump .epochNum
  let s5 := s4.post 0x0501 ((old + 1) % 2 ^ 32)
  if s5.flag F.histCfg_EXPORT then (s5.histExports old).histClear else s5

/-! ## Statistics and performance counters (R354–R358, R361) -/

/-- A COUNT effect with an index and FRAME_LEN (R354). -/
def State.countEffect (s : State) (t idx len : Nat) : State :=
  if 8192 ≤ idx then s.bump .cntStatRange
  else (s.addOvf .statCnt t (2 * idx) .statOvf (2 * idx) 1).addOvf .statCnt t (2 * idx + 1) .statOvf (2 * idx + 1) len

/-- A sticky bit cleared. -/
def State.clearBit (s : State) (n : RName) (i k : Nat) : State :=
  s.wr n (s.rd n i (k / 32) &&& ~~~(BitVec.ofNat 32 (2 ^ (k % 32)))) i (k / 32)

/-- STAT_CMD (R358, R367): with GO, the pair and both sticky bits of a counter become 0, in one tile or in all. -/
def State.statCmd (s : State) (v : Word) : State :=
  let n := v.toNat
  let i := bits n 12 0
  if bitAt n 31 then
    s.each (if bitAt n 17 then List.range 16 else [bits n 16 13]) (fun t s =>
      (((s.wrw .statCnt 0 t (2 * i)).wrw .statCnt 0 t (2 * i + 1)).clearBit .statOvf t (2 * i)).clearBit .statOvf t (2 * i + 1))
  else s
def execStatClear (i t : Nat) (all : Bool) (s : State) : Host.Outcome State Fault Refusal :=
  .next (s.statCmd (BitVec.ofNat 32 (i + t * 2 ^ 13 + b2n all * 2 ^ 17 + 2 ^ 31)))

/-- The group of counter `k` of tile `t` (R361). -/
def groupOf (t k : Nat) : Nat := 16 * t + k / 128

/-- A write of PC_CFG (R358, R361): by the group's owner only, and another's is counted (R374); CLEAR zeroes the value and its OVF bit.
[log: DEDUCED 105] -/
def State.pcCfgWrite (s : State) (f t k : Nat) (v : Word) : State :=
  if s.fget F.grpCtl_OWNER (groupOf t k) ≠ f then s.bump .cntForeignWr
  else
    let s1 := s.wr .pcCfg (v &&& 0xFFFFFF#32) t k
    if bitAt v.toNat 31 then (s1.wrw .pcVal 0 t k).clearBit .pcOvf t k else s1
/-- Tile `t`'s Halo block starts at this BAR0 offset (R29, R366). -/
def haloBase (t : Nat) : Nat := 0x3000000 + t * 0x60000
def execPcCfgWrite (f t k : Nat) (v : Word) (s : State) : Host.Outcome State Fault Refusal :=
  .next (s.underRight f 3 (haloBase t + 0x4000 + 4 * k) (fun s => s.when (s.tileOn t) (fun s => s.pcCfgWrite f t k v)))

/-- A write of GRP_CTL (R361): PF0 writes OWNER, a change of which clears USER_EN; the owner writes USER_EN; any other's is counted (R374).
[log: DEDUCED 105] -/
def State.grpCtlWrite (s0 : State) (f g : Nat) (v : Word) : State :=
  let old := s0.fget F.grpCtl_OWNER g
  let s := if f ≠ 0 ∧ f ≠ old then s0.bump .cntForeignWr else s0
  let own := bits v.toNat 1 0
  let s1 := if f = 0 ∧ own ≠ old then (s.fset F.grpCtl_OWNER own g).fset F.grpCtl_USER_EN 0 g else s
  if f = old ∧ s1.fget F.grpCtl_OWNER g = old then s1.fset F.grpCtl_USER_EN (bits v.toNat 2 2) g else s1
def execGrpCtlWrite (f g : Nat) (v : Word) (s : State) : Host.Outcome State Fault Refusal :=
  .next (s.underRight f 3 (0x3603000 + 4 * g) (fun s => s.grpCtlWrite f g v))

/-- A BAR4 write completes, is discarded and counted (R362); before READY it is only discarded (R484). -/
def State.bar4Write (s : State) : State := s.when (s.flag F.dawnStatus_READY) (fun s => s.bump .cntBar4Wr)
def execBar4Write (_f _off : Nat) (_v : DWord) (s : State) : Host.Outcome State Fault Refusal := .next s.bar4Write

/-- What an aligned read of 8 bytes at offset `off` of page `g` returns to function `f` (R362). -/
def State.bar4Read (s : State) (f g off : Nat) : DWord :=
  if s.fget F.grpCtl_OWNER g ≠ f ∨ s.flag F.grpCtl_USER_EN g = false then 0
  else
    let t := g / 16
    let k := 128 * (g % 16)
    let two (n : RName) (j : Nat) : DWord := (s.rd n t (j + 1)).setWidth 64 <<< 32 ||| (s.rd n t j).setWidth 64
    if off < 0x400 then s.rdw .pcVal t (k + off / 8)
    else if off < 0x410 then two .pcOvf (k / 32 + (off - 0x400) / 8 * 2)
    else if 0x800 ≤ off ∧ off < 0xC00 then s.rdw .snapVal t (k + (off - 0x800) / 8)
    else if 0xC00 ≤ off ∧ off < 0xC10 then two .snapOvf (k / 32 + (off - 0xC00) / 8 * 2)
    else if off = 0xF00 then s.rdw .epochNum
    else 0

/-! ## Mirror capture (R347–R350) -/

/-- What is captured of a packet at a point. -/
structure CapItem where
  egress : Bool
  frame : List Byte
  len : Nat
  iport : Nat
  cls : Nat
  eport : Nat
  disp : Nat
  code : Nat
  ns : Nat
  tag : Nat
  deriving DecidableEq, Repr

/-- The 160 bytes of a capture record (R349). -/
def capRec (sess snap : Nat) (x : CapItem) : List Byte :=
  let n := min (min 128 snap) x.frame.length
  leBytes 1 2 ++ leBytes 1 (sess + b2n x.egress * 64) ++ leBytes 2 n ++ leBytes 2 (x.len % 16384) ++
    leBytes 2 (x.iport + x.cls * 512) ++ leBytes 2 (x.eport + x.disp * 512) ++ leBytes 2 x.code ++
    leBytes 4 (x.ns % 1000000000) ++ leBytes 6 (x.ns / 1000000000) ++ leBytes 2 0 ++ leBytes 8 x.tag ++
    bytesAt (x.frame.take n) 0 128

/-- A packet is offered to a session in a tile (R347, R348): every SAMPLE_N-th is captured, or each with probability 1 / SAMPLE_N
by a free draw; RATE and the queue of 4,096 bound the captures, and what goes beyond is counted. [log: DESIGN CHOICE 8, 99, DEDUCED 103] -/
def State.offer (s : State) (t k : Nat) (x : CapItem) : State :=
  if s.flag F.mirrorCfg_EN k = false then s
  else
    let n := max 1 (s.fget F.mirrorN_N k)
    let rnd := s.flag F.mirrorCfg_RANDOM k
    let d := s.draw
    let s0 := if rnd then d.2 else s
    let h := s0.ht t
    let v := tget h.sessions k {}
    let hit := if rnd then decide (d.1.toNat % n = 0) else decide (n ≤ v.offers + 1)
    let v1 : Session := { v with offers := if rnd then v.offers else if hit then 0 else v.offers + 1 }
    let put (v : Session) : Tab Session := tset h.sessions k {} v
    if hit = false then s0.setHt t { h with sessions := put v1 }
    else
      let ms := s.time.ticks / (ticksPerUs * 1000)
      let used := if v1.ms = ms then v1.recs else 0
      let rate := s.fget F.mirrorRate_PER_MS k
      if (rate ≠ 0 ∧ rate ≤ used) ∨ 4096 ≤ h.captures.length then
        ((s0.setHt t { h with sessions := put v1 }).bump .cntCapLost).ringLost (s.fget F.mirrorCfg_RING k)
      else
        let snap := s.fget F.mirrorCfg_SNAP k
        let snap := if snap = 0 ∨ 128 < snap then 128 else snap
        s0.setHt t { h with sessions := put { v1 with ms := ms, recs := used + 1 },
                            captures := h.captures ++ [(s.fget F.mirrorCfg_RING k, capRec k snap x)] }

/-- PORT_MIRROR offers a released packet of the port (R347). -/
def State.offerIngress (s : State) (t : Nat) (x : CapItem) : State :=
  if s.flag F.portMirror_ING_EN x.iport then s.offer t (s.fget F.portMirror_ING_SESS x.iport) x else s

/-- PORT_MIRROR offers a transmitted copy of port `p` (R347). -/
def State.offerEgress (s : State) (t p : Nat) (x : CapItem) : State :=
  if s.flag F.portMirror_EGR_EN p then s.offer t (s.fget F.portMirror_EGR_SESS p) x else s

/-! ## In-situ OAM (R351–R353) -/

/-- Bytes a trace bit's field takes in a node entry (RFC 9197): the wide forms 8, 9 and 10 take 8, every other 4. [log: PRESUMED 104] -/
def ioamBytes (b : Nat) : Nat := if b = 8 ∨ b = 9 ∨ b = 10 then 8 else 4

/-- The trace bits of a type, bit 0 the most significant of 24; bit 23 is reserved by RFC 9197. [log: PRESUMED 104] -/
def ioamBits (ty : Nat) : List Nat := (List.range 23).filter (fun b => bitAt ty (23 - b))

/-- What a node writes for a copy (R353). -/
structure IoamCtx where
  hop : Nat
  iport : Nat
  eport : Nat
  cls : Nat
  txNs : Nat
  res : Nat
  tag : Nat
  deriving DecidableEq, Repr

/-- The 56-bit NODE_ID of a port. -/
def State.nodeId (s : State) (p : Nat) : Nat := s.fget F.ioam3_NODE_ID_HI p * 2 ^ 24 + s.fget F.ioam2_NODE_ID p

/-- A data field of R353. -/
def State.ioamField (s : State) (x : IoamCtx) (b : Nat) : List Byte :=
  match b with
  | 0 => beBytes 4 (x.hop * 2 ^ 24 + s.nodeId x.eport % 2 ^ 24)
  | 1 => beBytes 4 (x.iport * 65536 + x.eport)
  | 2 => beBytes 4 (x.txNs / 1000000000)
  | 3 => beBytes 4 (x.txNs % 1000000000)
  | 4 => beBytes 4 (if 2 ^ 31 ≤ x.res then 2 ^ 31 + x.res % 2 ^ 31 else x.res)
  | 5 => beBytes 4 (s.fget F.pwrStatus_THROTTLED + s.fget F.pwrStatus_CUR_OP * 2 + b2n s.hz * 16 + b2n (s.isPaused x.eport x.cls) * 32 +
      x.tag % 65536 * 65536)
  | 6 => beBytes 4 (min 0xFFFFFFFF (s.depth x.eport x.cls / 256))
  | 8 => beBytes 8 (x.hop * 2 ^ 56 + s.nodeId x.eport)
  | 9 => beBytes 8 (x.iport * 2 ^ 32 + x.eport)
  | 11 => beBytes 4 (s.stgUsed (s.tileOf x.eport))
  | b => List.replicate (ioamBytes b) 0xFF#8

/-- A node entry of a trace type. [log: PRESUMED 104] -/
def State.ioamEntry (s : State) (x : IoamCtx) (ty : Nat) : List Byte := (ioamBits ty).flatMap (s.ioamField x)

/-- The place of a matching option of a namespace in the options from `k` to `e` (RFC 9486: option type 0x31, then IOAM-Opt-Type 0), and
whether everything else is padding. [log: PRESUMED 104] -/
def findTrace (bs : List Byte) (ns k e fuel : Nat) : Option Nat × Bool :=
  match fuel with
  | 0 => (none, false)
  | n + 1 =>
    if e ≤ k then (none, true)
    else if byteAt bs k = 0 then findTrace bs ns (k + 1) e n
    else
      let r := findTrace bs ns (k + 2 + byteAt bs (k + 1)) e n
      if byteAt bs k = 0x31 ∧ byteAt bs (k + 3) = 0 ∧ half bs (k + 4) = ns ∧ r.1 = none then (some k, r.2)
      else if byteAt bs k = 1 then r
      else (r.1, false)

/-- A frame with its FCS over the bytes before it. [log: DEDUCED 95] -/
def reFcs (bs : List Byte) : List Byte :=
  let b := bs.take (bs.length - 4)
  b ++ leBytes 4 (fcs b).toNat

/-- The node's data in a matching option at `k` (R352): the next entry while it fits, else the Overflow flag. [log: PRESUMED 104] -/
def State.ioamTransit (s : State) (x : IoamCtx) (bs : List Byte) (k : Nat) : List Byte :=
  let w := half bs (k + 6)
  let rem := w % 128
  let e := s.ioamEntry x (beNat (bytesAt bs (k + 8) 3))
  let n := e.length / 4
  if n ≤ rem then bytesPut (bytesPut bs (k + 6) (beBytes 2 (w - n))) (k + 12 + (rem - n) * 4) e
  else bytesPut bs (k + 6) (beBytes 2 (w ||| 0x400))

/-- The Hop-by-Hop header that role 1 inserts: padding to the option's alignment, the trace option with room for HOPS nodes, this
node's data in the last entry, padding to 8 bytes. [log: PRESUMED 104] -/
def State.ioamHeader (s : State) (x : IoamCtx) (nh ns ty hops : Nat) : List Byte :=
  let e := s.ioamEntry x ty
  let room := hops * e.length
  let opt := leBytes 1 0x31 ++ leBytes 1 (10 + room) ++ leBytes 1 0 ++ leBytes 1 0 ++ beBytes 2 ns ++
    beBytes 2 (e.length / 4 * 2048 + (hops - 1) * e.length / 4 % 128) ++ beBytes 3 ty ++ leBytes 1 0 ++
    List.replicate (room - e.length) 0 ++ e
  let body := leBytes 2 1 ++ opt
  let pad := (8 - (2 + body.length) % 8) % 8
  let fill := if pad = 0 then [] else if pad = 1 then [0#8] else leBytes 1 1 ++ leBytes 1 (pad - 2) ++ List.replicate (pad - 2) 0
  let all := body ++ fill
  leBytes 1 nh ++ leBytes 1 ((2 + all.length) / 8 - 1) ++ all

/-- A copy with the IOAM role of its port applied (R351, R352): the frame as sent, and the state after. Roles 1 and 3 are not applied in
Horizon mode (R365). -/
def State.ioam (s : State) (x : IoamCtx) (bs : List Byte) : List Byte × State :=
  let p := x.eport
  let role := s.fget F.ioam0_ROLE p
  let e := (skipTags bs 12 2).1
  let h := e + 2
  let x := { x with hop := byteAt bs (h + 7) }
  let ns := s.fget F.ioam0_NS_ID p
  if half bs e ≠ 0x86DD ∨ role = 0 ∨ (s.hz = true ∧ role ≠ 2) then (bs, s)
  else if byteAt bs (h + 6) = 0 then
    let hlen := (byteAt bs (h + 41) + 1) * 8
    let r := findTrace bs ns (h + 42) (h + 40 + hlen) 128
    match r.1 with
    | none => (bs, s)
    | some k =>
      if role = 1 then (bs, s)
      else if 256 < h + 40 + hlen then (bs, s.bump .cntIoamSkip)
      else
        let b1 := s.ioamTransit x bs k
        if role = 3 ∧ r.2 = true then
          let b2 := bytesPut (bytesPut b1 (h + 6) [nth b1 (h + 40) 0]) (h + 4) (beBytes 2 (half b1 (h + 4) - hlen))
          (reFcs (b2.take (h + 40) ++ b2.drop (h + 40 + hlen)), s)
        else (reFcs b1, s)
  else if role = 1 then
    let n := tget s.halo.enc p 0 + 1
    let turn := decide (max 1 (s.fget F.ioam0_ENC_N p) ≤ n)
    let s1 : State := { s with halo := { s.halo with enc := tset s.halo.enc p 0 (if turn then 0 else n) } }
    if turn = false then (bs, s1)
    else
      let hd := s.ioamHeader x (byteAt bs (h + 6)) ns (s.fget F.ioam1_TRACE_TYPE p) (max 1 (s.fget F.ioam0_HOPS p))
      if s.maxFrame p < bs.length + hd.length ∨ 256 < h + 40 + hd.length then (bs, s1.bump .cntIoamSkip)
      else
        let b1 := bytesPut (bytesPut bs (h + 6) [0#8]) (h + 4) (beBytes 2 (half bs (h + 4) + hd.length))
        (reFcs (b1.take (h + 40) ++ hd ++ b1.drop (h + 40)), s1)
  else (bs, s)

end Sys2Proof.Machine
end

