-- ==== Sys2Proof/Machine/Trust.lean ====
section
/-!
DEFINITION. Signature blocks, keys and measurements of Bennidan (14_security_zenith.md, R536–R545) as image loading, boot and the table
engine use them.
-/

namespace Sys2Proof.Machine

/-- Bytes of a signature block (R538). -/
def sigLen : Nat := 1376

/-- The key ID of a public key (R536). -/
def keyId (key : List Byte) : List Byte := Config.shake256 key 8

/-- A signature block over bytes under one of the admitted keys of a class (R538). -/
def sigOk (cls : Nat) (keys : List (List Byte)) (covered block : List Byte) : Bool :=
  decide (leNat (bytesAt block 0 4) = 0x4B424753) && decide (leNat (bytesAt block 4 2) = 1) && decide (byteN block 6 = cls) &&
    decide (bytesAt block 16 64 = Config.shake256 covered 64) &&
    keys.any (fun k => decide (bytesAt block 8 8 = keyId k) && Config.falconVerify k (bytesAt block 0 96) (bytesAt block 96 1280))
where
  byteN (bs : List Byte) (k : Nat) : Nat := (nth bs k 0).toNat

/-- A signature block that the device builds with a key it keeps. -/
def sigMake (cls key : Nat) (pub covered : List Byte) : List Byte :=
  let head := leBytes 4 0x4B424753 ++ leBytes 2 1 ++ leBytes 1 cls ++ leBytes 1 0 ++ keyId pub ++ Config.shake256 covered 64 ++
    List.replicate 16 0
  head ++ bytesAt (Config.falconSign key head) 0 1280

/-- The Dereagor keys whose slot is not revoked (R539). -/
def State.dereagorKeys (s : State) : List (List Byte) :=
  ((List.range 4).filter (fun k => !bitAt (s.fget F.ownerStatus_DEREAGOR_REVOKED) k)).map Config.dereagorKey

/-- The active owner key, if any. -/
def State.ownerKeys (s : State) : List (List Byte) := if s.flag F.ownerStatus_ENROLLED then [s.trust.owner] else []

/-- A measurement of R543: 0 BOOT_MEAS, 1 BASE_MEAS, 2 CUST_MEAS, 3 CFG_PCR, 4 TBL_PCR, as 32 bytes. -/
def State.meas (s : State) (m : Nat) : List Byte := (List.range 8).flatMap (fun j => leBytes 4 (s.rd .bnMeas m j).toNat)

/-- A measurement takes a value. -/
def State.setMeas (s : State) (m : Nat) (v : List Byte) : State :=
  forN 8 (fun j s => s.wr .bnMeas (BitVec.ofNat 32 (leNat (bytesAt v (4 * j) 4))) m j) s

/-- An anti-rollback counter: 0 boot, 1 base, 2 customer (R542). -/
def State.arbOf (s : State) (cls : Nat) : Nat := bits (s.rd .arbCtr).toNat (8 * cls + 7) (8 * cls)
def State.setArb (s : State) (cls v : Nat) : State :=
  s.wr .arbCtr (BitVec.ofNat 32 (setBits (s.rd .arbCtr).toNat (8 * cls + 7) (8 * cls) v))

/-- Zenith's read port answers: Zenith is supplied, and the core die's side is not under block reset (R512, R549). [log: DEDUCED 179] -/
def State.zenPort (s : State) : Bool := s.zen.present && !s.squall.privReset.contains srcZenith

/-- A staged operation is measured: bytes 0–7 of its descriptor and its data block (R545). -/
def State.measureOp (s : State) (o : TeOp) : State :=
  if s.flag F.bnCfg_TBL_MEAS then
    let w := o.op + b2n o.stage * 16 + o.par % 2 * 32 + o.tid % 256 * 2 ^ 8 + o.lport % 512 * 2 ^ 16 + b2n o.learned * 2 ^ 25 +
      b2n o.static * 2 ^ 26
    { s with trust := { s.trust with tblRun := s.trust.tblRun ++ leBytes 4 w ++ leBytes 4 o.index ++ o.data } }
  else s

/-- The running digest starts again. -/
def State.measureRestart (s : State) : State := { s with trust := { s.trust with tblRun := [] } }

/-- A commit to version `v` is measured (R545). -/
def State.measureCommit (s : State) (v : Nat) : State :=
  if s.flag F.bnCfg_TBL_MEAS then
    let d := Config.shake256 s.trust.tblRun 32
    ((s.setMeas 4 (Config.shake256 (s.meas 4 ++ leBytes 2 v ++ d) 32)).wr .tblCommits (s.rd .tblCommits + 1)).measureRestart
  else s

/-- TBL_MEAS takes a value, in QUIET alone (R545). -/
def State.bnCfgWrite (s : State) (v : Word) : State :=
  if s.fget F.verStatus_VSTATE = 0 then s.wr .bnCfg (v &&& 1#32) else s

end Sys2Proof.Machine
end

