-- ==== Sys2Proof/Machine/Engine.lean ====
section
/-!
DEFINITION. The table engine (05_tables_versions_learning.md): exact match, LPM, TCAM, ECMP and multicast tables, operations under
versions, cuckoo placement, learning and aging.
-/

namespace Sys2Proof.Machine

/-! ## Geometry (R200, R201, R208, R245) -/

/-- BASE and SIZE of exact-match partition `k` as they act: SIZE 0 disables. -/
def State.emRange (s : State) (k : Nat) : Nat × Nat :=
  let b := s.fget F.tblCfg0_BASE k
  let z := s.fget F.tblCfg0_SIZE k
  (b, if 128 < b + z then 0 else z)
def State.emWidth (s : State) (k : Nat) : Nat := let w := s.fget F.tblCfg0_WIDTH k
  if w = 3 then 0 else w
/-- Slots of an entry, its key space and its action bytes. -/
def widthSlots (w : Nat) : Nat := 2 ^ w
def widthKey (w : Nat) : Nat := if w = 0 then 16 else if w = 1 then 48 else 80
def widthAct (w : Nat) : Nat := if w = 2 then 44 else 12
def State.emKeyLen (s : State) (k : Nat) : Nat := min (widthKey (s.emWidth k)) (max 1 (s.fget F.tblCfg0_KEY_LEN k))
def State.emAct (s : State) (k : Nat) : Nat := widthAct (s.emWidth k)
/-- BASE and SIZE of TCAM range `k` in entries. -/
def State.aclRange (s : State) (k : Nat) : Nat × Nat :=
  let b := s.fget F.tcamCfg_BASE k
  let z := s.fget F.tcamCfg_SIZE k
  (b * 256, if 64 < b + z then 0 else z * 256)

/-- The current parity, and the next. -/
def State.cur (s : State) : Nat := s.fget F.verStatus_CUR_VERSION % 2
def State.next (s : State) : Nat := 1 - s.cur
def State.vstate (s : State) : Nat := s.fget F.verStatus_VSTATE

/-- A presence bit by parity. -/
def pbit (p0 p1 : Bool) (par : Nat) : Bool := if par % 2 = 0 then p0 else p1

/-! ## Exact match (R201, R202) -/

/-- The bucket of a key in a way (R201). [log: DESIGN CHOICE 70] -/
def State.emBucket (s : State) (k w : Nat) (key : List Byte) : Nat :=
  let r := s.emRange k
  let seed := (s.rd .emSeed).toNat + w
  r.1 * 256 + (crc32c (beBytes 4 seed ++ leBytes 1 (0x10 + k) ++ key)).toNat * (r.2 * 256) / 2 ^ 32

/-- The candidate places of a key: first slots in the order of R231. -/
def State.emCands (s : State) (k : Nat) (key : List Byte) : List Nat :=
  let st := widthSlots (s.emWidth k)
  (List.range 4).flatMap (fun w =>
    let b := w * 32768 + s.emBucket k w key
    (List.range (4 / st)).map (fun j => b * 4 + j * st))

def State.emAt (s : State) (i : Nat) : Option EmEntry := tget s.te.em i none
def State.emSet (s : State) (i : Nat) (e : Option EmEntry) : State :=
  { s with te := { s.te with em := tset s.te.em i none e } }

/-- The kind of table a TID names: 1 exact match, 2 LPM, 3 TCAM, 4 groups, 5 members; 0 reserved or not of the command form. -/
def tidKind (tid : Nat) : Nat :=
  if 0x10 ≤ tid ∧ tid < 0x18 then 1 else if tid = 0x20 ∨ tid = 0x21 then 2 else if 0x30 ≤ tid ∧ tid < 0x34 then 3
  else if tid = 0x40 then 4 else if tid = 0x41 then 5 else 0

/-- The TID under which a multicast member's word is kept; its events name TBL_MCAST (R206). [log: DEDUCED 205] -/
def mcMbrTid : Nat := 0x51

/-- Two TIDs name words of one memory. -/
def sameMem (a b : Nat) : Bool := decide (tidKind a = tidKind b) && (decide (tidKind a ≠ 0) || decide (a = b))

/-- A word is written anew, so no tile's copy of it is in error any longer (R204). -/
def State.mend (s : State) (tid i : Nat) : State :=
  { s with te := { s.te with bad := s.te.bad.filter (fun b => !(sameMem b.2.1 tid && decide (b.2.2 = i))) } }

/-- An exact-match entry is written at a place, or the place is freed. -/
def State.emPut (s : State) (i : Nat) (e : Option EmEntry) : State := (s.emSet i e).mend 0x10 i

/-- An entry that moves stays among those that a refresh pass has still to visit (R232, R240). -/
def State.ageFollows (s : State) (i d : Nat) : State :=
  if s.te.refresh.contains i then { s with te := { s.te with refresh := s.te.refresh ++ [d] } } else s

/-- A lookup key cut or zero-extended to KEY_LEN bytes (R201). -/
def State.emKey (s : State) (k : Nat) (key : List Byte) : List Byte := bytesAt key 0 (s.emKeyLen k)

/-- The places that hold a copy of a key. -/
def State.emCopies (s : State) (k : Nat) (key : List Byte) : List (Nat × EmEntry) :=
  (s.emCands k key).filterMap (fun i => match s.emAt i with
    | some e => if e.part = k ∧ e.key = key then some (i, e) else none
    | none => none)

/-- The first free place of a key. -/
def State.emFree (s : State) (k : Nat) (key : List Byte) : Option Nat := (s.emCands k key).find? (fun i => (s.emAt i).isNone)

/-- A path of moves found breadth-first (R231): places from the key's own to a free one, at most four moves. -/
def State.emPath (s : State) (fuel : Nat) (paths : List (List Nat)) : Option (List Nat) :=
  match fuel with
  | 0 => none
  | n + 1 =>
    let longer := paths.flatMap (fun p => match p with
      | i :: _ => match s.emAt i with
        | some e => ((s.emCands e.part e.key).filter (fun q => !p.contains q)).map (fun q => q :: p)
        | none => []
      | [] => [])
    match longer.find? (fun p => match p with
        | i :: _ => (s.emAt i).isNone
        | [] => false) with
    | some p => some p
    | none => s.emPath n longer

/-- The moves of a path, its last move first (R231, R232): the entry at the second place goes to the first. -/
def State.emMoves (s : State) (path : List Nat) : State :=
  match path with
  | d :: i :: rest => (((s.emPut d (s.emAt i)).emPut i none).ageFollows i d).emMoves (i :: rest)
  | _ => s

/-- A place for a key, with the relocation it takes, whose buckets are busy (R231, R233). -/
def State.emPlace (s : State) (k : Nat) (key : List Byte) : Option (Nat × State) :=
  match s.emFree k key with
  | some i => some (i, s)
  | none => match s.emPath 4 ((s.emCands k key).map (fun i => [i])) with
    | some p => let s1 := s.emMoves p
      some (p.getLastD 0, { s1 with te := { s1.te with busy := p.map (fun i => i / 4) } })
    | none => none

/-- AGE_NOW. -/
def State.ageNow (s : State) : Nat := s.fget F.ageNow_V
/-- Fresh stamps: AGE_NOW in every tile (R238). -/
def State.newStamps (s : State) : List Nat := List.replicate 16 s.ageNow

/-- LEARN_COUNT of a port (R236). [log: DEDUCED 76] -/
def State.learnCount (s : State) (p : Nat) : Nat :=
  (s.te.em.filter (fun e => match e.2 with
    | some e => e.learned && decide (e.lport = p)
    | none => false)).length
/-- The port has reached its enabled limit (R235). [log: DEDUCED 76] -/
def State.overLimit (s : State) (p : Nat) : Bool :=
  s.flag F.learnCfg_LIMIT_EN p && decide (s.fget F.learnCfg_LIMIT p ≤ s.learnCount p)
/-- The learning byte of a port (R235). -/
def State.learnByte (s : State) (p : Nat) : Nat := b2n (s.overLimit p) + s.fget F.learnCfg_ACT p * 2
/-- Entries of a partition present in either parity (USED). -/
def State.emUsed (s : State) (k : Nat) : Nat :=
  (s.te.em.filter (fun e => match e.2 with
    | some e => decide (e.part = k)
    | none => false)).length

/-! ## LPM (R207) -/

/-- The first `n` bits of two addresses agree. [log: DEDUCED 73] -/
def prefixEq (a b : List Byte) (n : Nat) : Bool :=
  decide (netBits a 0 n = netBits b 0 n)
/-- The units a prefix uses (R198). -/
def LpmEntry.units (e : LpmEntry) : Nat := if !e.v6 then 1 else if e.len ≤ 64 then 2 else 4
def State.lpmUsed (s : State) : Nat := (s.te.lpm.map LpmEntry.units).sum
/-- A prefix is the same as another. -/
def LpmEntry.same (e f : LpmEntry) : Bool :=
  decide (e.v6 = f.v6) && decide (e.vrf = f.vrf) && decide (e.len = f.len) && prefixEq e.addr f.addr e.len

/-- The longest prefix present in a parity for a lookup key (R207). [log: DESIGN CHOICE 70] -/
def State.lpmFind (s : State) (v6 : Bool) (par : Nat) (key : List Byte) : Option LpmEntry :=
  let en := if v6 then s.flag F.lpmCfg_VRF6_EN else s.flag F.lpmCfg_VRF4_EN
  let n := if v6 then 16 else 4
  let vrf := if en then beNat (bytesAt key 0 2) % 4096 else 0
  let addr := bytesAt key (if en then 2 else 0) n
  let hits := s.te.lpm.filter (fun e =>
    decide (e.v6 = v6) && decide (e.vrf = vrf) && pbit e.p0 e.p1 par && prefixEq e.addr addr e.len)
  hits.foldl (fun best e => match best with
    | none => some e
    | some b => if b.len < e.len then some e else some b) none

/-! ## Words in error (R203–R206) -/

/-- The memory of a TID as TT_BANK numbers it; none for the multicast memory. -/
def memOf (tid : Nat) : Option Nat :=
  match tidKind tid with
  | 1 => some 0
  | 2 => some 1
  | 3 => some 2
  | 4 => some 3
  | 5 => some 3
  | _ => none

/-- Tile `t`'s copy of a word reads with a parity error: it has one, or its bank is in safe state (R205). [log: DEDUCED 71] -/
def State.wordBad (s : State) (t tid i : Nat) : Bool :=
  s.te.bad.contains (t, tid, i) || s.te.safeBanks.any (fun b =>
    decide (b.1 = t) && decide (memOf tid = some b.2.1) && decide (Config.bankOf b.2.1 i = b.2.2))

/-! ## TCAM, groups and members (R208, R209) -/

/-- A TCAM key agrees with a search key in every masked bit. -/
def aclMatch (e : AclEntry) (key : List Byte) : Bool :=
  (List.range 80).all (fun k => decide ((nth e.key k 0 ^^^ nth key k 0) &&& nth e.mask k 0 = 0))

/-- The lowest-indexed entry of a range that matches, is present in the parity and is not failing in tile `t` (R204, R208).
[log: DESIGN CHOICE 70] -/
def State.aclFind (s : State) (t k par : Nat) (key : List Byte) : Option AclEntry :=
  let r := s.aclRange k
  (s.te.acl.findSome? (fun e => match e.2 with
    | some x => if r.1 ≤ e.1 ∧ e.1 < r.1 + r.2 ∧ pbit x.p0 x.p1 par = true ∧ aclMatch x key = true ∧
        s.wordBad t (0x30 + k) e.1 = false then some x else none
    | none => none))

/-- P0 and P1 of a group slot. -/
def grpBit (w : BitVec 64) (par : Nat) : Bool := w.getLsbD (par % 2)
/-- The group slot of an index present in a parity. [log: DEDUCED 74] -/
def grpSlot (tab : Tab (BitVec 64)) (i par : Nat) : Option (Nat × BitVec 64) :=
  ([2 * i, 2 * i + 1].map (fun k => (k, tget tab k 0))).find? (fun x => grpBit x.2 par)

/-- A member is live (R127). -/
def State.isLive (s : State) (track : Bool) (i : Nat) : Bool :=
  let m := tget s.te.members i 0
  m.getLsbD 9 && (!track || s.isUp (m.toNat % 512))

/-- The live members among `n` from `base` on, in order (R127). -/
def State.liveMembers (s : State) (base n : Nat) (track : Bool) : List Nat :=
  ((List.range n).map (fun k => base + k)).filter (s.isLive track)

/-- SELECT (R126, R127): the index of the chosen member; none is GRP_EMPTY. -/
def State.selectIx (s : State) (idx par hashA hashB : Nat) : Option Nat :=
  match grpSlot s.te.groups idx par with
  | none => none
  | some (_, g) =>
    let v := g.toNat
    let n := bits v 10 2 + 1
    let base := bits v 31 14
    let track := bitAt v 13
    let lo := hashA % 65536
    let hi := hashA / 65536
    let S := match bits v 12 11 with
      | 0 => lo
      | 1 => hi
      | 2 => hashB
      | _ => hashB ^^^ lo
    let T := match bits v 12 11 with
      | 0 => hi
      | 1 => lo
      | 2 => lo
      | _ => hi
    let live := s.liveMembers base n track
    if s.isLive track (base + S * n / 65536) then some (base + S * n / 65536)
    else live[T * live.length / 65536]?

/-- The chosen member's entry. -/
def State.selectMember (s : State) (idx par hashA hashB : Nat) : Option (BitVec 64) :=
  (s.selectIx idx par hashA hashB).map (fun i => tget s.te.members i 0)

/-! ## Reads of the table slots (R156, R200) -/

/-- A LOOKUP in tile `t` under a parity: the action data on a hit, and the exact-match place whose stamp is refreshed. [log: DEDUCED 60] -/
def State.tblLookup (s : State) (t par tid : Nat) (key : List Byte) : Option (List Byte × Option Nat) :=
  if 0x10 ≤ tid ∧ tid < 0x18 then
    let k := tid - 0x10
    if (s.emRange k).2 = 0 then none
    else ((s.emCopies k (s.emKey k key)).find? (fun e => pbit e.2.p0 e.2.p1 par)).map (fun e => (e.2.action, some e.1))
  else if tid = 0x20 then (s.lpmFind false par key).map (fun e => (e.action, none))
  else if tid = 0x21 then (s.lpmFind true par key).map (fun e => (e.action, none))
  else if 0x30 ≤ tid ∧ tid < 0x34 then (s.aclFind t (tid - 0x30) par key).map (fun e => (e.action, none))
  else none

/-- A hit stamp of tile `t` set to AGE_NOW (R238). -/
def State.touch (s : State) (t i : Nat) : State :=
  match s.emAt i with
  | some e => s.emSet i (some { e with stamps := putNth e.stamps t s.ageNow })
  | none => s

/-! ## Operations under versions (R221, R222) -/

/-- What an operation does to the copies of its target. -/
inductive VAct where
  | fresh
  | exist
  | missing
  | conflict
  /-- Rewritten in place. -/
  | rewrite (i : Nat)
  /-- A new copy with P[next] only, and P[next] of this one cleared. -/
  | split (i : Nat)
  | clearNext (i : Nat)
  | free (i : Nat)
  deriving DecidableEq, Repr

/-- The rule of R221 (staged) and R222 (immediate) over the copies as (place, P0, P1). -/
def verAct (op : Nat) (stage : Bool) (next : Nat) (copies : List (Nat × Bool × Bool)) : VAct :=
  if stage then
    match op, copies.find? (fun c => pbit c.2.1 c.2.2 next) with
    | 1, none => .fresh
    | 1, some _ => .exist
    | _, none => .missing
    | 2, some c => if pbit c.2.1 c.2.2 (1 - next) then .split c.1 else .rewrite c.1
    | _, some c => if pbit c.2.1 c.2.2 (1 - next) then .clearNext c.1 else .free c.1
  else if copies.any (fun c => c.2.1 != c.2.2) then .conflict
  else
    match op, copies with
    | 1, [] => .fresh
    | 1, _ :: _ => .exist
    | _, [] => .missing
    | 2, c :: _ => .rewrite c.1
    | _, c :: _ => .free c.1

/-- Presence bits of a new copy: P[next] alone when staged, both when immediate. -/
def newP (stage : Bool) (next par : Nat) : Bool := !stage || decide (par = next)

/-! ### Exact match -/

/-- An INSERT, MODIFY or DELETE of an exact-match key: RESULT and the state after. -/
def State.emOp (s : State) (o : TeOp) : Nat × State :=
  let k := o.tid - 0x10
  let key := bytesAt o.data 0 (s.emKeyLen k)
  let act := bytesAt o.data (s.emKeyLen k) (s.emAct k)
  let nx := s.next
  let copies := (s.emCopies k key).map (fun e => (e.1, e.2.p0, e.2.p1))
  let entry : EmEntry := { part := k, p0 := newP o.stage nx 0, p1 := newP o.stage nx 1, learned := o.learned, static := o.static,
                           lport := o.lport, key := key, action := act, stamps := s.newStamps }
  let clear (s : State) (i : Nat) : State := match s.emAt i with
    | some e => s.emSet i (some (if nx = 0 then { e with p0 := false } else { e with p1 := false }))
    | none => s
  match verAct o.op o.stage nx copies with
  | .exist => (1, s)
  | .missing => (2, s)
  | .conflict => (5, s)
  | .fresh => match s.emPlace k key with
    | some (i, s1) => (0, s1.emPut i (some entry))
    | none => (3, s)
  | .rewrite i => match s.emAt i with
    | some e => (0, s.emPut i (some { e with action := act }))
    | none => (2, s)
  | .split i => match s.emAt i with
    | some e => match (clear s i).emPlace k key with
      | some (j, s1) => (0, s1.emPut j (some { e with p0 := newP true nx 0, p1 := newP true nx 1, action := act }))
      | none => (3, s)
    | none => (2, s)
  | .clearNext i => (0, clear s i)
  | .free i => (0, s.emPut i none)

/-! ### LPM -/

/-- The prefix of a data block (R217). [log: DEDUCED 73] -/
def lpmOf (v6 : Bool) (d : List Byte) : LpmEntry :=
  let n := if v6 then 128 else 32
  { v6 := v6, vrf := beNat (bytesAt d 2 2) % 4096, len := min n (byteAt d 0), addr := bytesAt d 4 (n / 8), p0 := true, p1 := true,
    action := bytesAt d 20 4 }

def State.setLpm (s : State) (l : List LpmEntry) : State := { s with te := { s.te with lpm := l } }

/-- The lowest place number that no prefix has. [log: DESIGN CHOICE 203] -/
def State.lpmPlace (s : State) : Nat :=
  ((List.range (s.te.lpm.length + 1)).find? (fun n => s.te.lpm.all (fun e => decide (e.place ≠ n)))).getD 0

/-- The place of the prefix at a position of the list. -/
def State.lpmAt (s : State) (i : Nat) : Nat := (s.te.lpm[i]?.map LpmEntry.place).getD 0

/-- An INSERT, MODIFY or DELETE of a prefix. -/
def State.lpmOp (s : State) (o : TeOp) : Nat × State :=
  let x := lpmOf (decide (o.tid = 0x21)) o.data
  let nx := s.next
  let l := s.te.lpm
  let copies := (l.zipIdx.filter (fun e => e.1.same x)).map (fun e => (e.2, e.1.p0, e.1.p1))
  let entry : LpmEntry := { x with place := s.lpmPlace, p0 := newP o.stage nx 0, p1 := newP o.stage nx 1 }
  let clear (e : LpmEntry) : LpmEntry := if nx = 0 then { e with p0 := false } else { e with p1 := false }
  let room := decide (s.lpmUsed + x.units ≤ 2097152)
  match verAct o.op o.stage nx copies with
  | .exist => (1, s)
  | .missing => (2, s)
  | .conflict => (5, s)
  | .fresh => if room then (0, (s.setLpm (l ++ [entry])).mend 0x20 entry.place) else (3, s)
  | .rewrite i => (0, (s.setLpm (l.modify i (fun e => { e with action := x.action }))).mend 0x20 (s.lpmAt i))
  | .split i => if room then (0, (s.setLpm (l.modify i clear ++ [{ entry with p0 := newP true nx 0, p1 := newP true nx 1 }])).mend 0x20 entry.place) else (3, s)
  | .clearNext i => (0, s.setLpm (l.modify i clear))
  | .free i => (0, (s.setLpm (l.eraseIdx i)).mend 0x20 (s.lpmAt i))

/-! ### TCAM -/

def State.aclAt (s : State) (i : Nat) : Option AclEntry := tget s.te.acl i none
def State.aclSet (s : State) (i : Nat) (e : Option AclEntry) : State :=
  { s with te := { s.te with acl := tset s.te.acl i none e } }

/-- An INSERT or DELETE at a TCAM index. A staged INSERT at an index that a copy of the current version still holds finds no place.
[log: DEDUCED 72] -/
def State.aclOp (s : State) (o : TeOp) : Nat × State :=
  let r := s.aclRange (o.tid - 0x30)
  let i := o.index
  let nx := s.next
  if i < r.1 ∨ r.1 + r.2 ≤ i then (4, s)
  else
    let copies := match s.aclAt i with
      | some e => [(i, e.p0, e.p1)]
      | none => []
    match verAct o.op o.stage nx copies with
    | .exist => (1, s)
    | .missing => (2, s)
    | .conflict => (5, s)
    | .fresh =>
      if (s.aclAt i).isSome then (3, s)
      else (0, s.aclSet i (some { p0 := newP o.stage nx 0, p1 := newP o.stage nx 1, key := bytesAt o.data 0 80, mask := bytesAt o.data 80 80,
                                  action := bytesAt o.data 160 16 }) |>.mend 0x30 i)
    | .clearNext _ => match s.aclAt i with
      | some e => (0, s.aclSet i (some (if nx = 0 then { e with p0 := false } else { e with p1 := false })))
      | none => (2, s)
    | .free _ => (0, (s.aclSet i none).mend 0x30 i)
    | _ => (8, s)

/-! ### Groups -/

/-- A group word with presence bits set as given; reserved bits read 0. -/
def grpWord (d : List Byte) (mask : BitVec 64) (p0 p1 : Bool) : BitVec 64 :=
  (BitVec.ofNat 64 (leNat (bytesAt d 0 8)) &&& mask) ||| BitVec.ofNat 64 (b2n p0 + 2 * b2n p1)
/-- The implemented bits of a group above P1. -/
def grpMask : BitVec 64 := 0xFFFFFFFC#64
/-- A group word without P[par]. -/
def grpClear (w : BitVec 64) (par : Nat) : BitVec 64 := w &&& ~~~(BitVec.ofNat 64 (2 ^ par))

/-- An INSERT, MODIFY or DELETE of a group in a table of slots A and B: RESULT and the table after. [log: DEDUCED 74] -/
def grpOp (tab : Tab (BitVec 64)) (o : TeOp) (nx : Nat) : Nat × Tab (BitVec 64) :=
  let slots := [2 * o.index, 2 * o.index + 1]
  let at_ (i : Nat) : BitVec 64 := tget tab i 0
  let copies := (slots.filter (fun i => grpBit (at_ i) 0 || grpBit (at_ i) 1)).map (fun i => (i, grpBit (at_ i) 0, grpBit (at_ i) 1))
  let empty := slots.find? (fun i => !grpBit (at_ i) 0 && !grpBit (at_ i) 1)
  let entry := grpWord o.data grpMask (newP o.stage nx 0) (newP o.stage nx 1)
  match verAct o.op o.stage nx copies with
  | .exist => (1, tab)
  | .missing => (2, tab)
  | .conflict => (5, tab)
  | .fresh => match empty with
    | some i => (0, tset tab i 0 entry)
    | none => (3, tab)
  | .rewrite i => (0, tset tab i 0 (grpWord o.data grpMask (grpBit (at_ i) 0) (grpBit (at_ i) 1)))
  | .split i => match empty with
    | some j => (0, tset (tset tab i 0 (grpClear (at_ i) nx)) j 0 (grpWord o.data grpMask (newP true nx 0) (newP true nx 1)))
    | none => (3, tab)
  | .clearNext i => (0, tset tab i 0 (grpClear (at_ i) nx))
  | .free i => (0, tset tab i 0 0)

/-! ### Reads -/

/-- The clocked tiles. -/
def State.clocked (s : State) : List Nat := (List.range 16).filter s.tileOn

/-- A word has a parity error in the tile that the engine reads first (R204). [log: DEDUCED 71] -/
def State.badWord (s : State) (tid i : Nat) : Bool := s.wordBad (s.clocked.headD 0) tid i

/-- READ of a parity's copy: RESULT and the data block (R213, R217). -/
def State.teRead (s : State) (o : TeOp) : Nat × List Byte :=
  let out (i : Nat) (d : List Byte) : Nat × List Byte := if s.badWord o.tid i then (6, []) else (0, d)
  if 0x10 ≤ o.tid ∧ o.tid < 0x18 then
    let k := o.tid - 0x10
    match (s.emCopies k (bytesAt o.data 0 (s.emKeyLen k))).find? (fun e => pbit e.2.p0 e.2.p1 o.par) with
    | some (i, e) =>
      let w := b2n e.p0 + b2n e.p1 * 2 + b2n e.learned * 4 + b2n e.static * 8 + e.lport * 32 + o.tid * 2 ^ 24
      out i (leBytes 4 w ++ bytesAt e.key 0 (widthKey (s.emWidth k)) ++ e.action)
    | none => (2, [])
  else if o.tid = 0x20 ∨ o.tid = 0x21 then
    let x := lpmOf (decide (o.tid = 0x21)) o.data
    match s.te.lpm.find? (fun e => e.same x && pbit e.p0 e.p1 o.par) with
    | some e => out e.place (leBytes 1 e.len ++ leBytes 1 0 ++ beBytes 2 e.vrf ++ bytesAt e.addr 0 16 ++ e.action)
    | none => (2, [])
  else if 0x30 ≤ o.tid ∧ o.tid < 0x34 then
    let r := s.aclRange (o.tid - 0x30)
    if o.index < r.1 ∨ r.1 + r.2 ≤ o.index then (4, [])
    else match s.aclAt o.index with
      | some e => if pbit e.p0 e.p1 o.par then
          out o.index (e.key ++ e.mask ++ e.action ++ leBytes 2 (b2n e.p0 + 2 * b2n e.p1)) else (2, [])
      | none => (2, [])
  else if o.tid = 0x40 then
    if 16384 ≤ o.index then (4, [])
    else match grpSlot s.te.groups o.index o.par with
      | some (_, g) => out o.index (leBytes 8 g.toNat)
      | none => (2, [])
  else if 262144 ≤ o.index then (4, [])
  else out o.index (leBytes 8 (tget s.te.members o.index 0).toNat)

/-! ### Members and FLUSH -/

/-- The implemented bits of a member entry (R209). -/
def mbrMask : BitVec 64 := 0xFFFFFFFFFFFF03FF#64
def State.setMember (s : State) (i : Nat) (w : BitVec 64) : State :=
  { s with te := { s.te with members := tset s.te.members i 0 w } }

/-- Places that hold nothing any longer are not in error. -/
def State.badClean (s : State) : State :=
  { s with te := { s.te with bad := s.te.bad.filter (fun b => match tidKind b.2.1 with
    | 1 => (s.emAt b.2.2).isSome
    | 2 => s.te.lpm.any (fun e => decide (e.place = b.2.2))
    | 3 => (tget s.te.acl b.2.2 none).isSome
    | _ => true) } }

/-- SET_LIVE of a member (R210). -/
def State.setLive (s : State) (i : Nat) (en : Bool) : State :=
  let w := tget s.te.members i 0
  s.setMember i (if en then w ||| 0x200#64 else w &&& 0xFFFFFFFFFFFFFDFF#64)

/-- FLUSH of a partition (R213): learned entries of one port or of all, whose copies agree, are removed; RESULT tells whether one
was passed over. -/
def State.emFlush (s : State) (k index : Nat) : Nat × State :=
  let hit (e : EmEntry) : Bool := decide (e.part = k) && e.learned && (bitAt index 31 || decide (e.lport = index % 512))
  let left := s.te.em.any (fun x => match x.2 with
    | some e => hit e && (e.p0 != e.p1)
    | none => false)
  let em := s.te.em.filter (fun x => match x.2 with
    | some e => !(hit e && (e.p0 == e.p1))
    | none => true)
  (if left then 5 else 0, ({ s with te := { s.te with em := em } } : State).badClean)

/-! ## The checks of R216 and the table's permission -/

/-- R213 allows an operation on a kind of table. -/
def opAllowed (op kind : Nat) : Bool :=
  match kind with
  | 1 => decide (op = 1) || decide (op = 2) || decide (op = 3) || decide (op = 4) || decide (op = 9)
  | 2 => decide (op = 1) || decide (op = 2) || decide (op = 3) || decide (op = 4)
  | 3 => decide (op = 1) || decide (op = 3) || decide (op = 4)
  | 4 => decide (op = 1) || decide (op = 2) || decide (op = 3) || decide (op = 4)
  | 5 => decide (op = 4) || decide (op = 7) || decide (op = 8)
  | _ => false

/-- DATA_LEN of an operation (R217). -/
def State.teLen (s : State) (op tid : Nat) : Nat :=
  let k := tid - 0x10
  match tidKind tid with
  | 1 => if op = 9 then 0 else if op = 1 ∨ op = 2 then s.emKeyLen k + s.emAct k else s.emKeyLen k
  | 2 => 24
  | 3 => if op = 1 then 176 else 0
  | 4 => if op = 1 ∨ op = 2 then 8 else 0
  | 5 => if op = 8 then 8 else 0
  | _ => 0

/-- What is wrong with an operation: 8 BAD_OP, 9 BAD_LEN (R216). COMMIT and DISCARD name no table. [log: DEDUCED 71] -/
def State.teCheck (s : State) (op tid len : Nat) : Option Nat :=
  if op = 5 ∨ op = 6 then (if len = 0 then none else some 9)
  else if opAllowed op (tidKind tid) = false then some 8
  else if len ≠ s.teLen op tid then some 9 else none

/-- The table is disabled, or Horizon mode forbids the operation (R218, R242, R491). -/
def State.teDenied (s : State) (tid : Nat) : Bool :=
  let k := tid - 0x10
  match tidKind tid with
  | 1 => decide ((s.emRange k).2 = 0) || (s.hz && decide (2 ≤ k))
  | 3 => decide ((s.aclRange (tid - 0x30)).2 = 0)
  | _ => false

/-- An operation of the table family: RESULT, data returned, and the state after. -/
def State.teDo (s : State) (o : TeOp) : Nat × List Byte × State :=
  let pr (x : Nat × State) : Nat × List Byte × State := (x.1, [], x.2)
  if s.teDenied o.tid then (7, [], s)
  else if o.op = 4 then let r := s.teRead o
    (r.1, r.2, s)
  else match tidKind o.tid with
    | 1 => if o.op = 9 then pr (s.emFlush (o.tid - 0x10) o.index) else pr (s.emOp o)
    | 2 => pr (s.lpmOp o)
    | 3 => pr (s.aclOp o)
    | 4 =>
      let w := leNat (bytesAt o.data 0 8)
      if 16384 ≤ o.index ∨ (o.op ≠ 3 ∧ 262144 < bits w 31 14 + bits w 10 2 + 1) then (4, [], s)
      else let r := grpOp s.te.groups o s.next
        (r.1, [], if r.1 = 0 then ({ s with te := { s.te with groups := r.2 } } : State).mend 0x40 o.index else s)
    | _ =>
      if o.op = 7 then
        (if 262144 ≤ o.index % 2 ^ 31 then (4, [], s) else (0, [], s.setLive (o.index % 2 ^ 31) (bitAt o.index 31)))
      else if 262144 ≤ o.index then (4, [], s)
      else (0, [], (s.setMember o.index (BitVec.ofNat 64 (leNat (bytesAt o.data 0 8)) &&& mbrMask)).mend 0x41 o.index)

/-! ## Sources, acceptance and outcomes (R212–R216) -/

/-- The source of a command: the command register or a ring. -/
def srcOf (r : Option RingIx) : TeSrc := match r with
  | none => .reg
  | some r => .ring r

/-- An operation from bytes 0–3 and 4–7 of R215 and its data block. STAGE counts only where R213 allows it. -/
def teOpOf (w0 w1 : Nat) (data : List Byte) : TeOp :=
  let op := bits w0 3 0
  { op := op, stage := bitAt w0 4 && decide (op ≤ 3), par := bits w0 5 5, tid := bits w0 15 8, lport := bits w0 24 16, learned := bitAt w0 25,
    static := bitAt w0 26, index := w1, data := data }

/-- An operation joins the engine. -/
def State.teAccept (s : State) (src : TeSrc) (o : TeOp) : State :=
  let x : TeOp := { o with ahead := s.te.dpq.length, aheadAge := s.te.cands.length + s.te.rewrites.length }
  { s with te := { s.te with ops := s.te.ops ++ [(src, x)] } }

/-- The bytes of TE_DATA. -/
def State.teDataBytes (s : State) (n : Nat) : List Byte :=
  ((List.range 64).flatMap (fun i => leBytes 4 (s.rd .teData i).toNat)).take n

/-- TE_GO (R214, R216): ignored while BUSY; a malformed operation answers at once. -/
def State.teGo (s : State) : State :=
  if s.flag F.teCmdStatus_BUSY then s
  else
    let len := min 256 (s.fget F.teLen_V)
    let o := teOpOf (s.rd .teCmd0).toNat (s.rd .teIndex).toNat (s.teDataBytes len)
    match s.teCheck o.op o.tid len with
    | some r => s.fset F.teCmdStatus_RESULT r
    | none => (s.fset F.teCmdStatus_BUSY 1).teAccept .reg o

/-- A source of R212: the command register, with the MC registers in its order (R280), or a ring. -/
def srcCode (x : TeSrc) : Nat :=
  match x with
  | .ring r => r + 1
  | _ => 0

/-- The first operation of a source that waits, when it came by the registers named (R212, R280). -/
def State.teHead (s : State) (src : TeSrc) : Option TeOp :=
  match s.te.ops.find? (fun x => decide (srcCode x.1 = srcCode src)) with
  | some x => if x.1 = src then some x.2 else none
  | none => none

/-- The list without the first operation of a source. -/
def dropFirst (l : List (TeSrc × TeOp)) (src : TeSrc) : List (TeSrc × TeOp) :=
  match l with
  | [] => []
  | x :: r => if x.1 = src then r else x :: dropFirst r src

/-- The operation at a source's head has its RESULT: the register shows it, or the ring's entry completes, with READ data written
back (R214, R215). A COMMIT that an END entered in the register's order (R412, `gen` 1) shows in no register. [log: DEDUCED 118] -/
def State.teFinish (s : State) (src : TeSrc) (o : TeOp) (result : Nat) (data : List Byte) : State :=
  let s1 : State := { s with te := { s.te with ops := dropFirst s.te.ops src } }
  match src with
  | .reg =>
    let s2 := if data.isEmpty then s1 else forN 64 (fun i s => s.wr .teData (BitVec.ofNat 32 (leNat (bytesAt data (4 * i) 4))) i) s1
    if o.gen = 0 then (s2.fset F.teCmdStatus_BUSY 0).fset F.teCmdStatus_RESULT result else s2
  | .mc =>
    let s2 := if data.isEmpty then s1 else
      (s1.wr .mcData0 (BitVec.ofNat 32 (leNat (bytesAt data 0 4)))).wr .mcData1 (BitVec.ofNat 32 (leNat (bytesAt data 4 4)))
    (s2.fset F.mcStatus_BUSY 0).fset F.mcStatus_RESULT result
  | .ring r =>
    if data.isEmpty then s1.complete r o.gen o.pos result 0 0
    else if (s1.ring r).gen ≠ o.gen then s1
    else if s1.hostOk (s1.ringOwnerOf r) o.addr data.length true then
      (s1.hostPut o.addr data).complete r o.gen o.pos result 0 data.length
    else s1.violation (s1.ringOwnerOf r) 3 o.addr r

/-- A staged operation, COMMIT or DISCARD waits outside QUIET and STAGED (R227). -/
def State.teHolds (s : State) (o : TeOp) : Bool :=
  (o.stage || decide (o.op = 5) || decide (o.op = 6)) && !(decide (s.vstate = 0) || decide (s.vstate = 1))

/-- The first operation of every source that has one. -/
def headsOf (l : List (TeSrc × TeOp)) : List (TeSrc × TeOp) :=
  l.foldl (fun h x => if h.any (fun y => decide (srcCode y.1 = srcCode x.1)) then h else h ++ [x]) []

/-- HELD as VER_STATUS shows it: a COMMIT that the engine has taken waits, or an operation at its source's head is held (R224, R227). -/
def State.teHeld (s : State) : Bool :=
  !s.te.commits.isEmpty || (headsOf s.te.ops).any (fun x => s.teHolds x.2)

/-! ## The engine's slots (R212) -/

/-- Who may take a slot of the engine. -/
inductive TeSlot where
  | dp
  | age
  | src (code : Nat)
  deriving DecidableEq, Repr

/-- The data-path queue or the aging scanners when their share falls due: one slot of two, and one of eight. [log: DEDUCED 206] -/
def State.slotDue (s : State) : Option TeSlot :=
  if s.te.dpq.isEmpty = false ∧ 1 ≤ s.te.arb.dp then some .dp
  else if (s.te.cands.isEmpty && s.te.rewrites.isEmpty) = false ∧ 6 ≤ s.te.arb.age then some .age
  else none

/-- The source whose turn it is in the round robin: the next one whose head can be applied. A COMMIT and a DISCARD wait outside it. -/
def State.rrNext (s : State) : Option Nat :=
  let l := ((headsOf s.te.ops).filter (fun x => !s.teHolds x.2 && decide (x.2.op ≠ 5) && decide (x.2.op ≠ 6))).map (fun x => srcCode x.1)
  let above := l.filter (fun c => decide (s.te.arb.last < c))
  (if above.isEmpty then l else above).min?

/-- A source may take the engine's next slot (R212). -/
def State.teTurn (s : State) (x : TeSlot) : Bool :=
  match s.slotDue with
  | some y => decide (x = y)
  | none => match x with
    | .src c => decide (s.rrNext = some c)
    | _ => true

/-- A source takes a slot; no relocation of an earlier one is under way any longer (R233). -/
def State.slotTaken (s : State) (x : TeSlot) : State :=
  let a := s.te.arb
  { s with te := { s.te with busy := [], arb :=
    { dp := if x = .dp ∨ s.te.dpq.isEmpty = true then 0 else a.dp + 1
      age := if x = .age ∨ (s.te.cands.isEmpty && s.te.rewrites.isEmpty) = true then 0 else a.age + 1
      last := match x with
        | .src c => c
        | _ => a.last } } }

/-- A staged operation that is applied takes QUIET to STAGED (R227), and is measured (R545). -/
def State.teStaged (s : State) (o : TeOp) (result : Nat) : State :=
  if o.stage = true ∧ result = 0 then
    let s1 := s.measureOp o
    if s1.vstate = 0 then s1.fset F.verStatus_VSTATE 1 else s1
  else s

/-- The head operation of a source is applied when it has the code named, is not held, and the source has the engine's slot. -/
def State.teApply (s : State) (src : TeSrc) (op : Nat) : State :=
  match s.teHead src with
  | none => s
  | some o =>
    if o.op ≠ op ∨ s.teHolds o = true ∨ s.teTurn (.src (srcCode src)) = false then s
    else
      let r := (s.slotTaken (.src (srcCode src))).teDo o
      (r.2.2.teStaged o r.1).teFinish src o r.1 r.2.1

/-! ## Multicast groups and members through the MC registers (R279, R280) -/

/-- An operation of the MC registers: RESULT, the entry read, and the state after. -/
def State.mcDo (s : State) (o : TeOp) : Nat × List Byte × State :=
  let w := leNat (bytesAt o.data 0 8)
  match o.op with
  | 8 =>
    if 131072 ≤ o.index then (4, [], s)
    else (0, [], ({ s with te := { s.te with mcMembers := tset s.te.mcMembers o.index 0 (BitVec.ofNat 64 (w % 1024)) } } : State).mend mcMbrTid o.index)
  | 4 =>
    if 16384 ≤ o.index then (4, [], s)
    else match grpSlot s.te.mcGroups o.index o.par with
      | some (_, g) => if s.badWord 0x50 o.index then (6, [], s) else (0, leBytes 8 g.toNat, s)
      | none => (2, [], s)
  | _ =>
    if 16384 ≤ o.index ∨ (o.op ≠ 3 ∧ 131072 ≤ bits w 31 15 + bits w 10 2) then (4, [], s)
    else let r := grpOp s.te.mcGroups o s.next
      (r.1, [], if r.1 = 0 then ({ s with te := { s.te with mcGroups := r.2 } } : State).mend 0x50 o.index else s)

/-- The MC operation that waits is applied when no operation of the command register waits before it, it is not held and its source has the
engine's slot (R212, R280). -/
def State.mcRun (s : State) : State :=
  match s.teHead .mc with
  | some o =>
    if s.teHolds o = true ∨ s.teTurn (.src 0) = false then s
    else let r := (s.slotTaken (.src 0)).mcDo o
      (r.2.2.teStaged o r.1).teFinish .mc o r.1 r.2.1
  | none => s

/-- A write of MC_CMD (R280, R294): GO is ignored while BUSY; a reserved OP answers BAD_OP. -/
def State.mcCmdWrite (s : State) (v : Word) : State :=
  let s1 := s.wr .mcCmd (v &&& 0x3F#32)
  let op := bits v.toNat 3 0
  if bitAt v.toNat 31 = false ∨ s.flag F.mcStatus_BUSY = true then s1
  else if op ≠ 8 ∧ (op = 0 ∨ 4 < op) then s1.fset F.mcStatus_RESULT 8
  else
    let d := leBytes 4 (s.rd .mcData0).toNat ++ leBytes 4 (s.rd .mcData1).toNat
    let o : TeOp := { op := op, stage := bitAt v.toNat 4 && decide (op ≤ 3), par := bits v.toNat 5 5, tid := 0x50, lport := 0, learned := false,
                      static := false, index := s.fget F.mcIndex_INDEX, data := d }
    ((s1.fset F.mcStatus_BUSY 1).teAccept .mc o).mcRun

/-- MC_CMD written with GO and an operation. -/
def State.mcCmdOp (s : State) (op : Nat) (v : Word) : State :=
  s.mcCmdWrite ((v &&& 0x30#32) ||| 0x80000000#32 ||| BitVec.ofNat 32 op)
def execMcInsert (v : Word) (s : State) : Host.Outcome State Fault Refusal := .next (s.mcCmdOp 1 v)
def execMcModify (v : Word) (s : State) : Host.Outcome State Fault Refusal := .next (s.mcCmdOp 2 v)
def execMcDelete (v : Word) (s : State) : Host.Outcome State Fault Refusal := .next (s.mcCmdOp 3 v)
def execMcRead (v : Word) (s : State) : Host.Outcome State Fault Refusal := .next (s.mcCmdOp 4 v)
def execMcMemberWrite (v : Word) (s : State) : Host.Outcome State Fault Refusal := .next (s.mcCmdOp 8 v)

/-! ## The engine's commands -/

/-- INSERT, MODIFY, DELETE, READ, SET_LIVE, MEMBER and FLUSH: the operation at the source's head takes effect (R213). -/
def execInsert (src : Option RingIx) (s : State) : Host.Outcome State Fault Refusal := .next (s.teApply (srcOf src) 1).mcRun
def execModify (src : Option RingIx) (s : State) : Host.Outcome State Fault Refusal := .next (s.teApply (srcOf src) 2).mcRun
def execDelete (src : Option RingIx) (s : State) : Host.Outcome State Fault Refusal := .next (s.teApply (srcOf src) 3).mcRun
def execRead (src : Option RingIx) (s : State) : Host.Outcome State Fault Refusal := .next (s.teApply (srcOf src) 4).mcRun
def execSetLive (src : Option RingIx) (s : State) : Host.Outcome State Fault Refusal := .next (s.teApply (srcOf src) 7).mcRun
def execMember (src : Option RingIx) (s : State) : Host.Outcome State Fault Refusal := .next (s.teApply (srcOf src) 8).mcRun
def execFlush (src : Option RingIx) (s : State) : Host.Outcome State Fault Refusal := .next (s.teApply (srcOf src) 9).mcRun

/-- The engine takes a COMMIT at its source's head, which waits for its cycle (R224, R227). -/
def execCommit (src : Option RingIx) (s : State) : Host.Outcome State Fault Refusal :=
  .next (match s.teHead (srcOf src) with
    | some o => if o.op = 5 ∧ s.te.commits.contains (srcOf src) = false then
        { s with te := { s.te with commits := s.te.commits ++ [srcOf src] } } else s
    | none => s)

/-- The COMMIT that takes effect: every operation accepted before it has taken effect, and the state is QUIET or STAGED (R224). -/
def State.commitReady (s : State) : Option (TeSrc × TeOp) :=
  match s.te.ops with
  | (x, o) :: _ =>
    if s.te.commits.contains x = true ∧ o.op = 5 ∧ o.ahead = 0 ∧ o.aheadAge = 0 ∧ (s.vstate = 0 ∨ s.vstate = 1) then some (x, o) else none
  | [] => none

/-- The commit cycle (R224, R225): CUR_VERSION and every clocked tile's version rise, the state is DRAINING. -/
def State.commitNow (s : State) (src : TeSrc) (o : TeOp) : State :=
  let v := (s.fget F.verStatus_CUR_VERSION + 1) % 65536
  let s1 := ((s.fset F.verStatus_CUR_VERSION v).fset F.verStatus_VSTATE 2).bump .cntCommits
  let s2 := (s1.each s.clocked (fun t s => s.fset F.ttVersion_VERSION v t)).measureCommit v
  ({ s2 with te := { s2.te with commits := s2.te.commits.filter (fun x => decide (x ≠ src)) } }).teFinish src o 0 []

/-- A DISCARD (R226, R227): in STAGED its sweep starts, in QUIET it has no effect. -/
def execDiscard (src : Option RingIx) (s : State) : Host.Outcome State Fault Refusal :=
  .next (match s.teHead (srcOf src) with
    | some o =>
      if o.op ≠ 6 ∨ s.teHolds o = true ∨ s.te.discard.isSome = true then s
      else if s.vstate = 1 then
        (({ s with te := { s.te with discard := some (srcOf src) } }).fset F.verStatus_VSTATE 4).measureRestart
      else (s.teFinish (srcOf src) o 0 []).mcRun
    | none => s)

/-- INFLIGHT of the old parity is 0 in every clocked tile: the sweep starts (R225). The old parity is the next one of the new
version. -/
def execInflightDrained (s : State) : Host.Outcome State Fault Refusal :=
  .next (if s.vstate = 2 ∧ s.clocked.all (fun t => decide (s.inflight t s.next = 0)) = true then s.fset F.verStatus_VSTATE 3 else s)

/-- P[dst] := P[src] on every copy, and copies with both bits clear are freed (R225, R226). -/
def State.sweepCopies (s : State) (dst : Nat) : State :=
  let fixE (e : Option EmEntry) : Option EmEntry := e.map (fun x => if dst = 0 then { x with p0 := x.p1 } else { x with p1 := x.p0 })
  let fixA (e : Option AclEntry) : Option AclEntry := e.map (fun x => if dst = 0 then { x with p0 := x.p1 } else { x with p1 := x.p0 })
  let keepE (e : Option EmEntry) : Bool := match e with
    | some x => x.p0 || x.p1
    | none => false
  let keepA (e : Option AclEntry) : Bool := match e with
    | some x => x.p0 || x.p1
    | none => false
  let fixG (w : BitVec 64) : BitVec 64 :=
    let p := grpBit w (1 - dst)
    if p then w ||| 3#64 else 0
  let grp (t : Tab (BitVec 64)) : Tab (BitVec 64) := (t.map (fun e => (e.1, fixG e.2))).filter (fun e => decide (e.2 ≠ 0))
  State.badClean { s with te := { s.te with
      em := (s.te.em.map (fun e => (e.1, fixE e.2))).filter (fun e => keepE e.2)
      acl := (s.te.acl.map (fun e => (e.1, fixA e.2))).filter (fun e => keepA e.2)
      lpm := (s.te.lpm.map (fun x => if dst = 0 then { x with p0 := x.p1 } else { x with p1 := x.p0 })).filter (fun x => x.p0 || x.p1)
      groups := grp s.te.groups
      mcGroups := grp s.te.mcGroups } }

/-- The retirement sweep ends (R225). -/
def execRetireSweepEnd (s : State) : Host.Outcome State Fault Refusal :=
  .next (if s.vstate = 3 then
      (((s.sweepCopies s.next).fset F.verStatus_VSTATE 0).post 0x0201 (s.fget F.verStatus_CUR_VERSION)).mcRun
    else s)

/-- The discard sweep ends (R226). -/
def execDiscardSweepEnd (s : State) : Host.Outcome State Fault Refusal :=
  .next (
    if s.vstate ≠ 4 then s
    else
      let s1 := (s.sweepCopies s.next).fset F.verStatus_VSTATE 0
      match s.te.discard with
      | none => s1.mcRun
      | some src =>
        let s2 : State := { s1 with te := { s1.te with discard := none } }
        match s2.teHead src with
        | some o => (s2.teFinish src o 0 []).mcRun
        | none => s2.mcRun)

/-! ## The data-path queue (R212, R234, R237) -/

/-- An effect joins the data-path queue, or is discarded and counted (R212, R244). -/
def State.dpPush (s : State) (d : DpOp) : State :=
  if s.flag F.teCtl_DP_EN = false ∨ 4096 ≤ s.te.dpq.length then s.bump .cntDpDiscard
  else { s with te := { s.te with dpq := s.te.dpq ++ [d] } }

/-- The head of the data-path queue is taken: the waiting operations have one effect less before them. -/
def State.dpPop (s : State) : State :=
  { s with te := { s.te with dpq := s.te.dpq.drop 1, ops := s.te.ops.map (fun x => (x.1, { x.2 with ahead := x.2.ahead - 1 })) } }

/-- A TWRITE as an operation (R237); none where it breaks the limits. -/
def State.twriteOp (s : State) (arg : List Byte) : Option TeOp :=
  let op := byteAt arg 0
  let tid := byteAt arg 1
  let k := tid - 0x10
  let o : TeOp := { op := op, stage := false, par := 0, tid := tid, lport := 0, learned := false, static := false,
                    index := beNat (bytesAt arg 4 4), data := [] }
  if op = 7 then
    (if tid = 0x41 ∧ s.flag F.teCtl_DP_LIVE_EN then some { o with index := o.index % 2 ^ 18 + (o.index / 2 ^ 31) * 2 ^ 31 } else none)
  else if (op = 1 ∨ op = 2 ∨ op = 3) ∧ tidKind tid = 1 ∧ s.flag F.tblCfg0_DP_WRITE k ∧ s.emWidth k = 0 then
    some { o with data := bytesAt arg 8 (s.emKeyLen k) ++ bytesAt arg 24 12 }
  else none

/-- A TWRITE at the head of the data-path queue is applied, or discarded and counted (R237). -/
def execTwriteApply (s : State) : Host.Outcome State Fault Refusal :=
  .next (match s.te.dpq with
    | d :: _ =>
      if d.learn = true ∨ s.teTurn .dp = false then s
      else
        let s1 := (s.slotTaken .dp).dpPop
        (match s1.twriteOp d.arg with
        | none => s1.bump .cntDpDiscard
        | some o => let r := s1.teDo o
          if r.1 = 0 then r.2.2 else s1.bump .cntDpDiscard).mcRun
    | [] => s)

/-- The decision of R234 for a learning effect. -/
def State.learn (s : State) (d : DpOp) : State :=
  match d.probe with
  | none => s.bump .cntDpDiscard
  | some (tid, key0) =>
    let k := tid - 0x10
    let key := s.emKey k key0
    let act := bytesAt d.arg 0 12
    let fl := byteAt d.arg 12
    if tidKind tid ≠ 1 ∨ s.flag F.tblCfg0_LEARN_EN k = false ∨ s.emWidth k = 2 ∨ (s.emRange k).2 = 0 then s.bump .cntDpDiscard
    else
      let copies := s.emCopies k key
      if copies.any (fun e => e.2.p0 != e.2.p1) then s.bump .cntLearnConflict
      else match copies with
        | (i, e) :: _ =>
          if bitAt fl 0 = false then s.bump .cntLearnDup
          else if (e.learned && decide (e.lport = d.iport)) = false ∧ s.overLimit d.iport = true then s.bump .cntLearnLimit
          else (s.emPut i (some { e with action := act, lport := d.iport, learned := true })).bump .cntLearned
        | [] =>
          if s.overLimit d.iport then s.bump .cntLearnLimit
          else
            let held := d.place.filter (fun i => (s.emCands k key).contains i && (s.emAt i).isNone)
            match held.orElse (fun _ => s.emFree k key) with
            | none => s.bump .cntLearnNospace
            | some i =>
              let e : EmEntry := { part := k, p0 := true, p1 := true, learned := true, static := bitAt fl 1, lport := d.iport, key := key,
                                   action := act, stamps := s.newStamps }
              (s.emPut i (some e)).bump .cntLearned

/-- A LEARN at the head of the data-path queue is applied (R234). -/
def execLearnApply (s : State) : Host.Outcome State Fault Refusal :=
  .next (match s.te.dpq with
    | d :: _ => if d.learn = true ∧ s.teTurn .dp = true then ((s.slotTaken .dp).dpPop.learn d).mcRun else s
    | [] => s)

/-! ## Aging (R238–R240) -/

/-- An aging tick (R238). -/
def execAgeTick (s : State) : Host.Outcome State Fault Refusal := .next (s.fset F.ageNow_V (s.ageNow + 1))

/-- A partition ages. -/
def State.ages (s : State) (e : EmEntry) : Bool := s.flag F.tblCfg0_AGE_EN e.part

/-- AGE_TICK is written (R240): the following pass refreshes every stamp of every aging partition. -/
def State.ageTickWrite (s : State) (v : Word) : State :=
  let l := s.te.em.filterMap (fun x => match x.2 with
    | some e => if s.ages e then some x.1 else none
    | none => none)
  let s1 := s.wr .ageTick (v &&& 0xFFFF#32)
  { s1 with te := { s1.te with refresh := l } }
def execAgeTickWrite (v : Word) (s : State) : Host.Outcome State Fault Refusal := .next (s.ageTickWrite v)

/-- A refresh pass has still entries to visit (R240). -/
def State.refreshing (s : State) : Bool :=
  s.te.refresh.any (fun i => match s.emAt i with
    | some e => s.ages e
    | none => false)

/-- The age of a stamp (R238). -/
def State.age (s : State) (st : Nat) : Nat := (s.ageNow + 65536 - st) % 65536

/-- The scanner visits an entry (R239, R240), passing over one that a clocked tile reads with a parity error (R204): a refresh pass only sets
stamps; else a candidate's stamps go to a compare-and-delete, and a
stamp older than 32,768 ticks to a rewrite. -/
def execAgeScanVisit (i : Nat) (s : State) : Host.Outcome State Fault Refusal :=
  .next (match s.emAt i with
    | none => s
    | some e =>
      if s.flag F.teCtl_AGE_RUN = false ∨ s.ages e = false ∨ s.clocked.any (fun t => s.wordBad t (0x10 + e.part) i) = true then s
      else if s.te.refresh.contains i then
        let s1 := s.emSet i (some { e with stamps := s.newStamps })
        { s1 with te := { s1.te with refresh := s1.te.refresh.filter (fun j => decide (j ≠ i)) } }
      else
        let ts := s.clocked
        let limit := max 1 (s.fget F.tblCfg1_AGE_LIMIT e.part)
        let old := ts.filter (fun t => decide (32768 < s.age (nth e.stamps t 0)))
        let cand := !s.refreshing && e.p0 && e.p1 && !e.static && ts.all (fun t => decide (limit < s.age (nth e.stamps t 0)))
        { s with te := { s.te with
            cands := if cand then s.te.cands ++ [(i, e.stamps)] else s.te.cands
            rewrites := s.te.rewrites ++ old.map (fun t => (i, t, nth e.stamps t 0)) } })

/-- One scanner operation less stands before the waiting operations. -/
def State.agePop (s : State) : State :=
  { s with te := { s.te with ops := s.te.ops.map (fun x => (x.1, { x.2 with aheadAge := x.2.aheadAge - 1 })) } }

/-- The compare-and-delete of the oldest candidate (R239): deleted in all tiles only with every clocked tile's stamp unchanged, and not while a
refresh pass runs (R240). -/
def execAgeCompareDelete (s : State) : Host.Outcome State Fault Refusal :=
  .next (match s.te.cands with
    | [] => s
    | (i, st) :: rest =>
      if s.teTurn .age = false then s
      else
      let s0 := s.slotTaken .age
      let s1 := ({ s0 with te := { s0.te with cands := rest } }).agePop
      (match s1.emAt i with
      | none => s1
      | some e =>
        if s1.refreshing = false ∧ e.p0 = true ∧ e.p1 = true ∧ s1.clocked.all (fun t => decide (nth e.stamps t 0 = nth st t 0)) = true then
          let s2 := (s1.emPut i none).bump .cntAged
          if s2.flag F.tblCfg0_AGE_NOTIFY e.part then s2.post 0x0202 (i + e.part * 2 ^ 19) else s2
        else s1).mcRun)

/-- The rewrite of the oldest stamp found older than 32,768 ticks (R239). -/
def execAgeStampRewrite (s : State) : Host.Outcome State Fault Refusal :=
  .next (match s.te.rewrites with
    | [] => s
    | (i, t, st) :: rest =>
      if s.teTurn .age = false then s
      else
      let s0 := s.slotTaken .age
      let s1 := ({ s0 with te := { s0.te with rewrites := rest } }).agePop
      (match s1.emAt i with
      | some e => if nth e.stamps t 0 = st then s1.emSet i (some { e with stamps := putNth e.stamps t ((s1.ageNow + 32768) % 65536) }) else s1
      | none => s1).mcRun)

/-! ## Parity, scrubbing and banks (R203–R206) -/

/-- The address field of a table event (R206). -/
def tblAddr (t tid i : Nat) : Nat := t * 2 ^ 44 + (if tid = mcMbrTid then 0x50 else tid) * 2 ^ 36 + i % 2 ^ 32

/-- A read of tile `t` meets a parity error: counted and reported each time, and the word is repaired later (R172, R204, R205).
[log: DESIGN CHOICE 70] -/
def State.tblBad (s : State) (t tid i : Nat) : State :=
  let s1 := if s.wordBad t tid i then s else { s with te := { s.te with bad := s.te.bad ++ [(t, tid, i)] } }
  (s1.bump .ttParityCnt t).report (srcTable t) 0x04 (tblAddr t tid i)

/-- The word that a TID and an index of a message name: under TBL_MCAST the group where one stands at the index, else the member.
[log: DEDUCED 205] -/
def State.namedTid (s : State) (tid i : Nat) : Nat :=
  if tid = 0x50 ∧ (tget s.te.mcGroups (2 * i) 0).toNat = 0 ∧ (tget s.te.mcGroups (2 * i + 1) 0).toNat = 0 then mcMbrTid else tid

/-- Both slots of a group are emptied where their copies agree (R222). -/
def grpDrop (tab : Tab (BitVec 64)) (i : Nat) : Tab (BitVec 64) :=
  if [2 * i, 2 * i + 1].all (fun k => grpBit (tget tab k 0) 0 == grpBit (tget tab k 0) 1) then tset (tset tab (2 * i) 0 0) (2 * i + 1) 0 0
  else tab

/-- An entry is deleted in all tiles as an immediate DELETE, which leaves copies that differ, and with them the error (R205, R222); a member
word is cleared. -/
def State.tblDrop (s : State) (tid i : Nat) : State :=
  match tidKind tid with
  | 1 => match s.emAt i with
    | some e => if e.p0 = e.p1 then s.emPut i none else s
    | none => s.mend tid i
  | 2 => match s.te.lpm.find? (fun e => decide (e.place = i)) with
    | some e => if e.p0 = e.p1 then (s.setLpm (s.te.lpm.filter (fun x => decide (x.place ≠ i)))).mend tid i else s
    | none => s.mend tid i
  | 3 => match s.aclAt i with
    | some e => if e.p0 = e.p1 then (s.aclSet i none).mend tid i else s
    | none => s.mend tid i
  | 4 => let g := grpDrop s.te.groups i
    if g = s.te.groups then s else ({ s with te := { s.te with groups := g } } : State).mend tid i
  | 5 => (s.setMember i 0).mend tid i
  | _ =>
    if tid = mcMbrTid then ({ s with te := { s.te with mcMembers := tset s.te.mcMembers i 0 0 } } : State).mend tid i
    else
      let g := grpDrop s.te.mcGroups i
      if g = s.te.mcGroups then s else ({ s with te := { s.te with mcGroups := g } } : State).mend tid i

/-- The engine repairs the oldest failing word of tile `t` (R205): from tile t XOR 1 or another clocked tile with a good copy; with none
the entry is deleted, or the member word cleared, and TBL_NO_COPY is reported. -/
def execTableWordRepair (t : Nat) (s : State) : Host.Outcome State Fault Refusal :=
  .next (match s.te.bad.find? (fun b => decide (b.1 = t)) with
    | none => s
    | some (_, tid, i) =>
      let good := s.clocked.any (fun u => decide (u ≠ t) && !s.wordBad u tid i)
      if good then
        let s1 := ({ s with te := { s.te with bad := s.te.bad.filter (fun b => decide (b ≠ (t, tid, i))) } }).bump .ttRepairCnt t
        if tidKind tid = 1 then s1.touch t i else s1
      else (s.tblDrop tid i).report (srcTable t) 0x05 (tblAddr t tid i))

/-- The scrubber checks a TCAM entry of tile `t` (R204): a failing one is absent there until it is repaired. -/
def execTcamScrubVisit (t e : Nat) (err : Bool) (s : State) : Host.Outcome State Fault Refusal :=
  .next (
    let k := ((List.range 4).find? (fun k => decide ((s.aclRange k).1 ≤ e) && decide (e < (s.aclRange k).1 + (s.aclRange k).2))).getD 0
    if err = true ∧ (s.aclAt e).isSome = true then s.tblBad t (0x30 + k) e else s)

/-- A spare serves for a failed unit: posted, and reported under SRC_BIST (R525). -/
def State.spareUsed (s : State) (cls dom ix : Nat) : State :=
  (s.post 0x0901 (cls + dom * 16 + ix * 256)).report srcBist 0x21 (cls * 2 ^ 44 + dom * 2 ^ 40 + ix)

/-- The number by which BIST names a bank: 64 to a memory. [log: DEDUCED 77, 158] -/
def bankIx (mem bank : Nat) : Nat := mem * 64 + bank

/-- The spare bank of memory `mem` serves a bank of tile `t` for good (R205, R525). [log: DEDUCED 77, 78] -/
def State.bankFix (s : State) (t mem bank : Nat) : State :=
  let s1 : State := { s with te := { s.te with
      safeBanks := s.te.safeBanks.filter (fun x => decide (x ≠ (t, mem, bank)))
      fixedBanks := s.te.fixedBanks ++ [(t, mem, bank)] } }
  (s1.fset F.ttBank_SPARE_FIXED (s1.fget F.ttBank_SPARE_FIXED t ||| 2 ^ mem) t).spareUsed 1 t (bankIx mem bank)

/-- The words of a table bank that hold something, by TID and index (R206). -/
def State.bankWords (s : State) (mem bank : Nat) : List (Nat × Nat) :=
  let em : List (Nat × Nat) := s.te.em.filterMap (fun e => e.2.map (fun x => (0x10 + x.part, e.1)))
  let lpm : List (Nat × Nat) := s.te.lpm.map (fun e => (if e.v6 then 0x21 else 0x20, e.place))
  let acl : List (Nat × Nat) := s.te.acl.map (fun e => (0x30, e.1))
  let groups : List (Nat × Nat) := (s.te.groups.map (fun e => (0x40, e.1 / 2))).eraseDups
  let members : List (Nat × Nat) := s.te.members.map (fun e => (0x41, e.1))
  (em ++ lpm ++ acl ++ groups ++ members).filter (fun w => decide (memOf w.1 = some mem) && decide (Config.bankOf mem w.2 = bank))

/-- The spare bank takes each word from another clocked tile's good copy; with none the entry is deleted, or the member word cleared, and TBL_NO_COPY
is reported (R205). -/
def State.loadSpare (s : State) (t mem bank : Nat) : State :=
  s.each (s.bankWords mem bank) (fun w s =>
    if s.clocked.any (fun u => decide (u ≠ t) && !s.wordBad u w.1 w.2) then
      { s with te := { s.te with bad := s.te.bad.filter (fun b => !(decide (b.1 = t) && sameMem b.2.1 w.1 && decide (b.2.2 = w.2))) } }
    else (s.tblDrop w.1 w.2).report (srcTable t) 0x05 (tblAddr t w.1 w.2))

/-- The spare bank is loaded for a bank in safe state whose memory's spare is free, and serves it for good (R205). [log: DEDUCED 78] -/
def execSpareBankLoadDone (t : Nat) (s : State) : Host.Outcome State Fault Refusal :=
  .next (match s.te.safeBanks.find? (fun b => decide (b.1 = t) && !bitAt (s.fget F.ttBank_SPARE_FIXED t) b.2.1) with
    | none => s
    | some b => (s.loadSpare t b.2.1 b.2.2).bankFix t b.2.1 b.2.2)

/-- A claimed bank's copy into the spare ends: the spare serves it (R203). -/
def execBankCopyOutDone (t : Nat) (s : State) : Host.Outcome State Fault Refusal :=
  .next (if tget s.te.claims t 0 = 1 then { s with te := { s.te with claims := tset s.te.claims t 0 2 } } else s)

/-- The copy back ends and the spare is released (R203). -/
def execBankCopyBackDone (t : Nat) (s : State) : Host.Outcome State Fault Refusal :=
  .next (if tget s.te.claims t 0 = 3 then
    ({ s with te := { s.te with claims := tset s.te.claims t 0 0 } }).fset F.ttBank_CLAIMED 0 t else s)

/-! ## Configuration registers (R243–R245) -/

/-- EM_SEED: only while every partition is empty. -/
def State.emSeedWrite (s : State) (v : Word) : State := if s.te.em.isEmpty then s.wr .emSeed v else s
def execEmSeedWrite (v : Word) (s : State) : Host.Outcome State Fault Refusal := .next (s.emSeedWrite v)

/-- LPM_CFG: only while the LPM is empty. -/
def State.lpmCfgWrite (s : State) (v : Word) : State := if s.te.lpm.isEmpty then s.wr .lpmCfg (v &&& 3#32) else s
def execLpmCfgWrite (v : Word) (s : State) : Host.Outcome State Fault Refusal := .next (s.lpmCfgWrite v)

/-- Two ranges in units of 256 meet; a range of size 0 or beyond `top` is off. -/
def cfgMeet (top b z b' z' : Nat) : Bool :=
  decide (0 < z) && decide (b + z ≤ top) && decide (0 < z') && decide (b' + z' ≤ top) && decide (b < b' + z') && decide (b' < b + z)

/-- TBL_CFG word 0 (R245): geometry only for an empty partition and without overlap; the four flags always. -/
def State.tblCfgWrite (s : State) (k : Nat) (v : Word) : State :=
  let b := bits v.toNat 6 0
  let z := bits v.toNat 15 8
  let meets := (List.range 8).any (fun j => decide (j ≠ k) && cfgMeet 128 b z (s.fget F.tblCfg0_BASE j) (s.fget F.tblCfg0_SIZE j))
  let keep := decide (0 < s.emUsed k) || meets
  s.wr .tblCfg0 ((v &&& 0x1E000000#32) ||| (if keep then s.rd .tblCfg0 k &&& 0x01FFFF7F#32 else v &&& 0x01FFFF7F#32)) k
def execTblCfgWrite (k : Nat) (v : Word) (s : State) : Host.Outcome State Fault Refusal := .next (s.tblCfgWrite k v)

/-- TCAM_CFG (R245): ignored while the range holds an entry or the new one would overlap another. -/
def State.tcamCfgWrite (s : State) (k : Nat) (v : Word) : State :=
  let b := bits v.toNat 5 0
  let z := bits v.toNat 14 8
  let r := s.aclRange k
  let used := s.te.acl.any (fun e => decide (r.1 ≤ e.1) && decide (e.1 < r.1 + r.2))
  let meets := (List.range 4).any (fun j => decide (j ≠ k) && cfgMeet 64 b z (s.fget F.tcamCfg_BASE j) (s.fget F.tcamCfg_SIZE j))
  if used || meets then s else s.wr .tcamCfg (v &&& 0x7F3F#32) k
def execTcamCfgWrite (k : Nat) (v : Word) (s : State) : Host.Outcome State Fault Refusal := .next (s.tcamCfgWrite k v)

end Sys2Proof.Machine
end

