-- ==== Sys2Proof/Machine/Cirrus.lean ====
section
/-!
DEFINITION. Cirrus (04_cirrus_microcode.md): the microword, threads, the effect log and commit, restarts, the exception queue and
images; and the ROM image's routine of Horizon mode (12_reset_boot_horizon.md, R491).
-/

namespace Sys2Proof.Machine

/-! ## The control store as it reads -/

def State.csWord (s : State) (a : Nat) : BitVec 576 :=
  if !inCust a && s.cirrus.bootBase then Config.bootWord a else tget s.cirrus.cs a 0
def State.isCallable (s : State) (a : Nat) : Bool :=
  if !inCust a && s.cirrus.bootBase then Config.bootCallable a else tget s.cirrus.callable a false
/-- An entry of a dispatch table: address and VALID. -/
def State.dtabAt (s : State) (d k : Nat) : BitVec 16 :=
  if d < 8 ∧ s.cirrus.bootBase = true then Config.bootDtab (256 * d + k) else tget s.cirrus.dtab (256 * d + k) 0
def State.kprofAt (s : State) (p : Nat) : BitVec 128 :=
  if p < 32 ∧ s.cirrus.bootBase = true then Config.bootKprof p else tget s.cirrus.kprof p 0

/-- Both marks of a word as CS_RD_MARK shows them. -/
def State.marks (s : State) (a : Nat) : Nat :=
  b2n (if !inCust a && s.cirrus.bootBase then Config.bootEntry a else tget s.cirrus.entry a false) + 2 * b2n (s.isCallable a)

/-- The valid spans of a key profile as (offset, length) (R158). -/
def spansOf (w : Nat) : List (Nat × Nat) :=
  ((List.range 8).map (fun j => bits w (16 * j + 15) (16 * j))).filterMap (fun x =>
    if bitAt x 15 then some (bits x 8 0, bits x 14 9 + 1) else none)

/-- `n` bytes of a PHV from `off` on; past byte 511 they are free (the spec states none). [log: DESIGN CHOICE 17] -/
def phvBytes (phv : List Byte) (off n : Nat) : List Byte :=
  (List.range n).map (fun k => if off + k < 512 then nth phv (off + k) 0 else Config.pastByte 1 (off + k))

/-- The key of a profile over a PHV, at most 80 bytes (R158). -/
def State.profKey (s : State) (p : Nat) (phv : List Byte) : List Byte :=
  ((spansOf (s.kprofAt p).toNat).flatMap (fun x => phvBytes phv x.1 x.2)).take 80

/-! ## Operands, violations and dirty slots (R153, R155) -/

/-- The address field of a Cirrus event (R206). -/
def csAddr (t pipe a : Nat) : Nat := t * 2 ^ 44 + pipe * 2 ^ 40 + a % 32768

/-- `n` violations of a thread at a word (R155, R157, R168, R192). -/
def State.viol (s : State) (t pipe a n : Nat) : State :=
  forN n (fun _ s =>
    let s1 := s.bump .cntViol t
    if s1.flag F.cirrusCtl_VIOL_REPORT t then s1.report (srcCirrus t) 0x08 (csAddr t pipe a) else s1) s

/-- Offset and bytes of an operand. -/
def opAt (x : Nat) : Nat × Nat := (bits x 8 0, 2 ^ bits x 10 9)

/-- The slot that holds a byte of the PHV. -/
def slotOfByte (b : Nat) : Nat :=
  if b < 96 then (b - 64) / 2 else if b < 192 then 16 + (b - 96) / 4 else if b < 320 then 40 + (b - 192) / 8 else 56 + (b - 320) / 16

/-- The slots that a write of `n` bytes from `off` on makes dirty. -/
def dirtyOf (off n : Nat) : BitVec 64 :=
  ((List.range n).filter (fun k => decide (64 ≤ off + k) && decide (off + k < 448))).foldl
    (fun m k => m ||| BitVec.ofNat 64 (2 ^ slotOfByte (off + k))) 0

/-- A write to the working PHV from `off` on: bytes 0 to 63 keep their values, bytes past 511 are cut. -/
def phvWrite (phv : List Byte) (off : Nat) (v : List Byte) : List Byte :=
  if off < 64 then bytesPut phv 64 (v.drop (64 - off)) else bytesPut phv off v

/-- The result and C flag of an ALU operation into `w` bits (R154); no flag where C is unchanged. [log: DEDUCED 58] -/
def aluOp (opc a b w : Nat) (c : Bool) : Nat × Option Bool :=
  match opc with
  | 1 => (a, some false)
  | 2 => (a + b, some (decide (2 ^ w ≤ a + b)))
  | 3 => (a + 2 ^ 64 - b, some (decide (a < b)))
  | 4 => (a &&& b, some false)
  | 5 => (a ||| b, some false)
  | 6 => (a ^^^ b, some false)
  | 7 => (a <<< (b % 64), some false)
  | 8 => (a >>> (b % 64), some false)
  | 9 => (b2n (decide (a = b)), some (decide (a = b)))
  | 10 => (b2n (decide (a < b)), some (decide (a < b)))
  | 11 => (min a b, some false)
  | 12 => (max a b, some false)
  | 13 => let x := a % 65536 + b % 65536
    (x % 65536 + x / 65536, some false)
  | _ => (if c then a else b, none)

/-- An ALU slot's operation code, and its write as (offset, bytes) with the flags SETF writes (R153, R154). -/
structure AluOut where
  off : Nat
  val : List Byte
  setf : Option (Nat × Bool × Option Bool)
  reads : List (Nat × Nat)
  deriving DecidableEq, Repr

/-- What an ALU slot does over the PHV and flags as they stood; none for NOP. -/
def aluSlot (x : Nat) (phv : List Byte) (fc : BitVec 4) : Option AluOut :=
  let opc := bits x 5 0
  let d := opAt (bits x 17 6)
  let sa := opAt (bits x 29 18)
  let sb := opAt (bits x 41 30)
  let imm := bitAt x 42
  let fi := bits x 45 44
  let a := beNat (phvBytes phv sa.1 sa.2)
  let b := if imm then bits x 79 48 else beNat (phvBytes phv sb.1 sb.2)
  if opc = 0 then none
  else
    let w := 8 * d.2
    let r := aluOp opc a b w (fc.getLsbD fi)
    let v := r.1 % 2 ^ w
    some { off := d.1, val := beBytes d.2 v, setf := if bitAt x 43 && decide (opc ≠ 14) then some (fi, decide (v = 0), r.2) else none,
           reads := if imm then [sa] else [sa, sb] }

/-! ## Packets and threads -/

def State.setThread (s : State) (t fid : Nat) (k : Pkt) (th : Thread) : State := s.setPkt t fid (some { k with thread := th })

/-- Two byte ranges meet. -/
def meets (a n b m : Nat) : Bool := decide (0 < n) && decide (0 < m) && decide (a < b + m) && decide (b < a + n)

/-- The longest result of a table operation: the bytes an early read may touch (R157). -/
def State.resLen (s : State) (o : TblOp) : Nat :=
  match o.op with
  | 1 => (match tidKind o.tid with
    | 1 => s.emAct (o.tid - 0x10)
    | 2 => 4
    | 3 => 16
    | _ => 0)
  | 2 => 8
  | _ => 1 + max 1 (if tidKind o.tid = 1 then s.emAct (o.tid - 0x10) else 0)

/-- Reads that touch result bytes on their way, one violation for each (R157). -/
def State.earlyReads (s : State) (th : Thread) (reads : List (Nat × Nat)) : Nat :=
  (reads.filter (fun r => th.ops.any (fun o => meets r.1 r.2 o.rdst (s.resLen o)))).length

/-- A packet leaves its pipe with a result; a log that still waits keeps what a PROBE_INS found, for its LEARN (R166, R234). -/
def State.leavePipe (s : State) (t fid : Nat) : State :=
  match s.pkt t fid with
  | none => s
  | some k =>
    if k.pend then s.setPkt t fid (some { k with stage := .waitLog, outPhv := k.thread.phv,
                                                 thread := { probe := k.thread.probe, place := k.thread.place } })
    else match k.disp with
      | some d => s.finishPkt t fid { k with outPhv := k.thread.phv } d
      | none => s

/-- A failure of a thread (R150–R168): before commit the packet goes to the exception path with the reason; a committed thread leaves with
its disposition, and the failure is counted. -/
def State.threadFails (s : State) (t fid reason : Nat) : State :=
  match s.pkt t fid with
  | none => s
  | some k =>
    if k.thread.committed then (s.viol t k.thread.pipe k.thread.pc 1).leavePipe t fid
    else s.excPkt t fid k reason

/-- The packet's thread is abandoned (R171, R173): `why` 1 parity, 2 relocation, 3 reload, 4 BIST, 5 block reset. -/
def State.abandon (s : State) (t fid why : Nat) : State :=
  match s.pkt t fid with
  | none => s
  | some k =>
    if k.stage ≠ .running ∨ k.thread.committed = true then s
    else
      let s1 := (s.bump .cntRestart t (why - 1)).perf t 12 none none none 1
      if 3 ≤ k.restarts then s1.excPkt t fid k (0x0200 + why)
      else s1.setPkt t fid (some { k with stage := .restart why, restarts := k.restarts + 1, thread := { pipe := k.thread.pipe } })

/-- The running packets of a tile. -/
def State.runningIn (s : State) (t : Nat) : List (Nat × Pkt) :=
  (s.pipe t).pkts.filterMap (fun e => match e.2 with
    | some k => if k.stage = .running then some (e.1, k) else none
    | none => none)

/-- A thread touches a region by its ENTRY, micro-PC or stack (R171). -/
def touches (base : Bool) (k : Pkt) : Bool :=
  (phvEntry k.phv :: k.thread.pc :: k.thread.stack).any (fun a => inCust a != base)

/-! ## Table results (R156, R157) -/

/-- Result bytes and match flag of an operation enter a thread. -/
def putResult (th : Thread) (o : TblOp) (hit : Bool) (data : List Byte) : Thread × Nat :=
  let data := data.take (512 - o.rdst)
  let mf := if hit then th.mf ||| BitVec.ofNat 16 (2 ^ o.mf) else th.mf &&& ~~~(BitVec.ofNat 16 (2 ^ o.mf))
  ({ th with mf := mf, phv := phvWrite th.phv o.rdst data, dirty := th.dirty ||| dirtyOf o.rdst data.length },
    if o.rdst < 64 ∧ data ≠ [] then 1 else 0)

/-- The oldest table operation of a thread delivers a good result (R156, R200). [log: DEDUCED 60] -/
def State.deliver (s : State) (t fid : Nat) : State :=
  match s.pkt t fid with
  | none => s
  | some k =>
    match k.thread.ops with
    | [] => s
    | o :: rest =>
      let th := { k.thread with ops := rest }
      let par := k.version % 2
      let r : Bool × List Byte × Option Nat × Option Nat := match o.op with
        | 1 => (match s.tblLookup t par o.tid o.key with
          | some (d, i) => (true, d, i, none)
          | none => (false, [], none, none))
        | 2 =>
          if o.tid ≠ 0x40 then (false, [], none, none)
          else (match s.selectMember (beNat (bytesAt o.key 0 2)) par (phvGet k.phv 36 4) (phvGet k.phv 40 2) with
            | some m => (true, beBytes 2 (m.toNat % 512) ++ bytesAt (leBytes 8 m.toNat) 2 6, none, none)
            | none => (false, [], none, none))
        | _ =>
          let lb := leBytes 1 (s.learnByte k.iport)
          let em := o.tid - 0x10
          if tidKind o.tid ≠ 1 ∨ (s.emRange em).2 = 0 then (false, leBytes 1 2 ++ lb, none, none)
          else (match s.tblLookup t par o.tid o.key with
            | some (d, i) => (true, leBytes 1 0 ++ d, i, none)
            | none => (match s.emFree em (s.emKey em o.key) with
              | some i => (false, leBytes 1 1 ++ lb, none, some i)
              | none => (false, leBytes 1 2 ++ lb, none, none)))
      let x := putResult th o r.1 r.2.1
      let th1 := if o.op = 3 then { x.1 with place := r.2.2.2 } else x.1
      let s1 := match r.2.2.1 with
        | some i => s.touch t i
        | none => s
      (s1.setThread t fid k th1).viol t th.pipe th.pc x.2

/-- The words that a table operation of tile `t` reads, as TID and index: the exact-match slot that answers, else its candidates; the prefix
or TCAM entry that answers; the group and the chosen member (R204, R206). [log: DEDUCED 60] -/
def State.readWords (s : State) (t : Nat) (k : Pkt) (o : TblOp) : List (Nat × Nat) :=
  let par := k.version % 2
  match tidKind o.tid with
  | 1 => let m := o.tid - 0x10
    let key := s.emKey m o.key
    if (s.emRange m).2 = 0 ∨ o.op = 2 then []
    else match (s.emCopies m key).find? (fun e => pbit e.2.p0 e.2.p1 par) with
      | some e => [(o.tid, e.1)]
      | none => (s.emCands m key).map (fun i => (o.tid, i))
  | 2 => if o.op ≠ 1 then [] else match s.lpmFind (decide (o.tid = 0x21)) par o.key with
    | some e => [(o.tid, e.place)]
    | none => []
  | 3 => if o.op ≠ 1 then [] else match s.aclFind t (o.tid - 0x30) par o.key with
    | some e => ((s.te.acl.filter (fun x => decide (x.2 = some e))).map (fun x => (o.tid, x.1))).take 1
    | none => []
  | 4 => let i := beNat (bytesAt o.key 0 2)
    if o.op ≠ 2 then [] else (0x40, i) :: (match s.selectIx i par (phvGet k.phv 36 4) (phvGet k.phv 40 2) with
      | some m => [(0x41, m)]
      | none => [])
  | _ => []

/-- A result with uncorrectable parity on a word (R171, R172): it abandons a thread before commit and reads as a miss after it. -/
def State.resultBad (s : State) (t fid : Nat) (k : Pkt) (o : TblOp) (rest : List TblOp) (w : Nat × Nat) : State :=
  let s1 := s.tblBad t w.1 w.2
  if k.thread.committed then
    let x := putResult { k.thread with ops := rest } o false
      (if o.op = 3 then leBytes 1 2 ++ leBytes 1 (s.learnByte k.iport) else [])
    (s1.setThread t fid k x.1).viol t k.thread.pipe k.thread.pc x.2
  else s1.abandon t fid 1

/-- A PROBE_INS meets a relocation: its key is absent and one of its buckets is on the path (R233). -/
def State.relocMet (s : State) (k : Pkt) (o : TblOp) : Bool :=
  let m := o.tid - 0x10
  let key := s.emKey m o.key
  decide (o.op = 3) && decide (tidKind o.tid = 1) && (s.emCopies m key).all (fun e => !pbit e.2.p0 e.2.p1 (k.version % 2)) &&
    (s.emCands m key).any (fun i => s.te.busy.contains (i / 4))

/-- The result of a thread's oldest table operation arrives (R157, R171, R172, R204): `res` 0 good unless a word it read is in error; 1 with
uncorrectable parity in the first of its words, 3 in a SELECT's member; 2 while a relocation on its buckets runs. [log: DEDUCED 60] -/
def State.resultIn (s : State) (t fid res : Nat) : State :=
  match s.pkt t fid with
  | none => s
  | some k =>
    match k.thread.ops with
    | [] => s
    | o :: rest =>
      let ws := s.readWords t k o
      let first := ws.headD (o.tid, 0)
      let bad := if res = 1 then some first
        else if res = 3 ∧ o.op = 2 then some (ws.getD 1 first)
        else ws.find? (fun w => s.wordBad t w.1 w.2)
      match bad with
      | some w => s.resultBad t fid k o rest w
      | none =>
        if res = 2 ∧ s.relocMet k o = true then
          (if k.thread.committed then s.setThread t fid k { k.thread with ops := rest } else s.abandon t fid 2)
        else s.deliver t fid

/-- Results that are due before the thread's next word arrive. -/
def State.deliverDue (s : State) (t fid n : Nat) : State :=
  match n with
  | 0 => s
  | n + 1 => match s.pkt t fid with
    | some k => match k.thread.ops with
      | o :: _ => if o.due ≤ k.thread.cycle then (s.resultIn t fid 0).deliverDue t fid n else s
      | [] => s
    | none => s

/-- A table operation's result arrives (R157). -/
def execTableResultArrival (t fid res : Nat) (s : State) : Host.Outcome State Fault Refusal := .next (s.resultIn t fid res)

/-! ## The effect log and commit (R160–R166) -/

/-- Argument bytes of an effect. [log: DEDUCED 57] -/
def effLen (e : Nat) : Nat :=
  match e with
  | 1 => 2
  | 2 => 2
  | 6 => 4
  | 7 => 2
  | 8 => 36
  | 9 => 16
  | 10 => 4
  | _ => 0

/-- The disposition of one entry, if it names one (R160). -/
def effDisp (e : Effect) : Option Disp :=
  let v := beNat (bytesAt e.arg 0 2)
  match e.op with
  | 1 => some (.fwd (v % 512) (v / 512 % 8))
  | 2 => some (.fwdMc v)
  | 3 => some (.drop (0x0600 + e.imm % 256))
  | 4 => some (.punt (0x0400 + e.imm % 256))
  | _ => none

/-- METER entries in order (R164): the final colour, the disposition that a red one asked for, and the policers after.
[log: DEDUCED 49, 61] -/
def State.meterAll (s : State) (t len : Nat) (l : List Effect) (col : Nat) (red : Option Disp) : Nat × Option Disp × State :=
  match l with
  | [] => (col, red, s)
  | e :: r =>
    let m := s.meter t (beNat (bytesAt e.arg 0 2)) col len
    let red1 := if m.1 = 2 ∧ col ≠ 2 then (match e.imm % 4 with
        | 1 => some (Disp.drop 0x0507)
        | 2 => some (Disp.punt 0x04FF)
        | _ => red) else red
    m.2.meterAll t len r m.1 red1

/-- The log applies (R164, R165): meters, disposition, then every other entry in order. MIRROR acts at release and EDIT at delivery.
[log: DEDUCED 49] -/
def State.applyLog (s : State) (t fid : Nat) (k : Pkt) : State :=
  let len := phvGet k.phv 8 2 % 16384
  let m := s.meterAll t len (k.log.filter (fun e => decide (e.op = 7))) (byteAt k.phv 13 / 8 % 4) none
  let disp := ((k.log.filterMap effDisp).getLast?).getD (.exc 0x020C)
  let d := if m.1 = 2 then m.2.1.getD disp else disp
  let s1 := m.2.2.each k.log (fun e s => match e.op with
    | 6 => s.countEffect t (beNat (bytesAt e.arg 0 4)) len
    | 8 => s.dpPush { learn := false, iport := k.iport, arg := e.arg, probe := none, place := none }
    | 9 => s.dpPush { learn := true, iport := k.iport, arg := e.arg, probe := k.thread.probe, place := k.thread.place }
    | _ => s)
  let s2 := match d with
    | .exc _ => (s1.bump .cntExcCirrus t).perf t 13 (some (s1.slotOf k.iport)) none none 1
    | _ => s1
  s2.setPkt t fid (some { k with disp := some d, pend := false })

/-- A thread commits (R164, R166): its log applies, at once or with the frame's last beat. EDIT takes the working PHV and the dirty slots
of this moment. [log: DEDUCED 62] -/
def State.commitThread (s : State) (t fid : Nat) : State :=
  match s.pkt t fid with
  | none => s
  | some k =>
    let k1 := { k with log := k.thread.log, editPhv := k.thread.phv, dirty := k.thread.dirty,
                       thread := { k.thread with committed := true, log := [] } }
    if k1.log.any (fun e => decide (e.op = 6) || decide (e.op = 7)) && !bitAt (phvGet k.phv 8 2) 14 then
      (s.setPkt t fid (some { k1 with pend := true })).setFrame t fid { s.frame t fid with waited := true }
    else s.applyLog t fid k1

/-- The frame's last beat has arrived: FRAME_LEN is set and the deferred log applies (R166). -/
def State.deferred (s : State) (t fid : Nat) : State :=
  match s.pkt t fid with
  | none => s
  | some k =>
    let f := s.frame t fid
    if k.pend = false ∨ f.done = false then s
    else
      let s1 := s.applyLog t fid { k with phv := setLen k.phv f.rxLen, outPhv := setLen k.outPhv f.rxLen,
                                          thread := { k.thread with phv := setLen k.thread.phv f.rxLen } }
      match s1.pkt t fid with
      | some k1 => if k1.stage = .waitLog then (match k1.disp with
          | some d => s1.finishPkt t fid k1 d
          | none => s1) else s1
      | none => s1

def execDeferredLogApply (t fid : Nat) (s : State) : Host.Outcome State Fault Refusal := .next (s.deferred t fid)

/-! ## The sequencer (R150–R152) -/

/-- The condition of a branch with the flags as they stood, and whether it tests a match flag whose result has not arrived (R150, R157). -/
def condOf (w : Nat) (th : Thread) : Bool × Bool :=
  let c := bits w 38 33
  let early := decide (c < 16) && th.ops.any (fun o => decide (o.mf = c))
  let v := if c < 16 then !early && th.mf.getLsbD c
    else if c < 24 then (if c % 2 = 0 then th.fz.getLsbD ((c - 16) / 2) else th.fc.getLsbD ((c - 16) / 2))
    else decide (c = 63)
  (v != bitAt w 39, early)

/-- The next micro-PC and stack, or the reason of a failure. `a` is the word's own address. [log: DEDUCED 59] -/
def State.sequence (s : State) (a w : Nat) (k : Pkt) : Except Nat (Nat × List Nat) :=
  let th := k.thread
  let cust := inCust a
  let okTo (x : Nat) : Bool := decide (inCust x = cust) || (cust && s.isCallable x)
  let go (x : Nat) (st : List Nat) : Except Nat (Nat × List Nat) := if okTo x then .ok (x, st) else .error 0x020A
  let nx := bits w 14 0
  let alt := bits w 29 15
  match bits w 31 30 with
  | 0 =>
    if bitAt w 32 then
      (if 8 ≤ th.stack.length then .error 0x0208
       else if cust && !inCust alt && !s.isCallable alt then .error 0x020A
       else go nx (alt :: th.stack))
    else go nx th.stack
  | 1 => go (if (condOf w th).1 then alt else nx) th.stack
  | 2 =>
    let d := bits w 43 40
    let e := (s.dtabAt d (byteAt k.phv 12)).toNat
    if bitAt e 15 = false then .error 0x0209
    else if cust && !inCust (e % 32768) then .error 0x020A
    else .ok (e % 32768, th.stack)
  | _ => match th.stack with
    | x :: r => .ok (x, r)
    | [] => .error 0x0208

/-! ## Executing a word (R145–R168) -/

/-- The ALU, table and effect fields of a word. -/
def aluField (w i : Nat) : Nat := bits w (64 + 80 * i + 79) (64 + 80 * i)
def tblField (w i : Nat) : Nat := bits w (384 + 64 * i + 63) (384 + 64 * i)
def effField (w : Nat) : Nat := bits w 575 512

/-- A failure of the word's own (R585), in the order EXC_TAKE, reserved code, sequencer, full log. [log: DEDUCED 56] -/
def State.wordFails (s : State) (a w : Nat) (k : Pkt) : Option Nat :=
  let e := bits (effField w) 3 0
  if bitAt w 46 then some (0x0300 + bits w 55 48)
  else if (List.range 4).any (fun i => decide (15 ≤ bits (aluField w i) 5 0)) || (List.range 2).any (fun i => decide (4 ≤ bits (tblField w i) 3 0)) ||
      decide (11 ≤ e) then some 0x020B
  else match (if bitAt w 45 then none else match s.sequence a w k with
    | .error r => some r
    | .ok _ => none) with
    | some r => some r
    | none => if decide (e ≠ 0) && decide (16 ≤ k.thread.log.length) then some 0x0206 else none

/-- The writes of the ALU slots in slot order, with flags (R153): the thread after, and violations by writes to bytes 0 to 63. -/
def aluAll (outs : List AluOut) (th : Thread) : Thread × Nat :=
  outs.foldl (fun x o =>
    let th := x.1
    let fl := match o.setf with
      | some (fi, z, c) =>
        let set (v : BitVec 4) (b : Bool) : BitVec 4 := if b then v ||| BitVec.ofNat 4 (2 ^ fi) else v &&& ~~~(BitVec.ofNat 4 (2 ^ fi))
        (set th.fz z, (match c with
          | some b => set th.fc b
          | none => th.fc))
      | none => (th.fz, th.fc)
    ({ th with phv := phvWrite th.phv o.off o.val, dirty := th.dirty ||| dirtyOf o.off o.val.length, fz := fl.1, fc := fl.2 },
      x.2 + if o.off < 64 then 1 else 0)) (th, 0)

/-- ALU writes after commit (R168): only bytes 504 to 511 change, and every other write is discarded and counted. -/
def aluCommitted (outs : List AluOut) (th : Thread) : Thread × Nat :=
  outs.foldl (fun x o =>
    let th := x.1
    let keep := (o.val.zipIdx.filter (fun b => decide (504 ≤ o.off + b.2) && decide (o.off + b.2 < 512)))
    let phv := keep.foldl (fun p b => putNth p (o.off + b.2) b.1) th.phv
    let fl := aluAll [o] th
    ({ th with phv := phv, fz := fl.1.fz, fc := fl.1.fc }, x.2 + if keep.length < o.val.length then 1 else 0)) (th, 0)

/-- The effect-log entry of a word over the PHV after its ALU writes (R159, R160). [log: DEDUCED 57, 62] -/
def effOf (x : Nat) (phv : List Byte) : Option Effect :=
  let e := bits x 3 0
  if e = 0 then none
  else
    let imm := bits x 29 14
    let arg := if bitAt x 4 || decide (6 ≤ e) then phvBytes phv (bits x 13 5) (effLen e) else beBytes 2 imm
    some ⟨e, imm, if e = 3 ∨ e = 4 ∨ e = 5 then [] else arg⟩

/-- The stage after a word: the micro-PC moves on, and after stage 23 the thread recirculates or has run too long (R145, R162). -/
def State.advance (s : State) (t fid : Nat) (pc : Nat) (stack : List Nat) : State :=
  match s.pkt t fid with
  | none => s
  | some k =>
    let th := { k.thread with pc := pc, stack := stack, cycle := k.thread.cycle + 1, stage := k.thread.stage + 1 }
    if th.stage < 24 then s.setThread t fid k th
    else if th.pass = 1 then (s.setThread t fid k { th with reenter := true }).bump .cntRecirc t
    else (s.setThread t fid k th).threadFails t fid 0x0207

/-- A word without a failure of its own, before commit. -/
def State.runWord (s : State) (t fid a w : Nat) (k : Pkt) : State :=
  let th := k.thread
  let outs := (List.range 4).filterMap (fun i => aluSlot (aluField w i) th.phv th.fc)
  let tbls := ((List.range 2).map (tblField w)).filter (fun x => decide (bits x 3 0 ≠ 0))
  let spans := tbls.flatMap (fun x => spansOf (s.kprofAt (bits x 17 12)).toNat)
  let early := s.earlyReads th (outs.flatMap (fun o => o.reads) ++ spans) +
    (if bits w 31 30 = 1 ∧ bitAt w 45 = false then b2n (condOf w th).2 else 0)
  let x := aluAll outs th
  let issued : List TblOp := tbls.map (fun y => ⟨bits y 3 0, bits y 11 4, s.profKey (bits y 17 12) th.phv, bits y 26 18, bits y 30 27, th.cycle + 4⟩)
  let probe := issued.foldl (fun p o => if o.op = 3 then some (o.tid, o.key) else p) th.probe
  let place := if issued.any (fun o => decide (o.op = 3)) then none else th.place
  let log := th.log ++ (effOf (effField w) x.1.phv).toList
  let th1 := { x.1 with ops := th.ops ++ issued, probe := probe, place := place, log := log }
  let seq := (s.sequence a w k).toOption.getD (0, [])
  let s1 := (s.setThread t fid k th1).viol t th.pipe a (early + x.2)
  let s2 := if bitAt w 44 || bitAt w 45 then s1.commitThread t fid else s1
  if bitAt w 45 then s2.leavePipe t fid else s2.advance t fid seq.1 seq.2

/-- A word after commit (R168). -/
def State.runCommitted (s : State) (t fid a w : Nat) (k : Pkt) : State :=
  let th := k.thread
  let slots := (List.range 4).map (aluField w)
  let outs := (slots.filter (fun x => decide (bits x 5 0 < 15))).filterMap (fun x => aluSlot x th.phv th.fc)
  let other := (slots.filter (fun x => decide (15 ≤ bits x 5 0))).length +
    ((List.range 2).filter (fun i => decide (bits (tblField w i) 3 0 ≠ 0))).length + b2n (decide (bits (effField w) 3 0 ≠ 0)) + b2n (bitAt w 46)
  let early := s.earlyReads th (outs.flatMap (fun o => o.reads)) + (if bits w 31 30 = 1 ∧ bitAt w 45 = false then b2n (condOf w th).2 else 0)
  let x := aluCommitted outs th
  let s1 := (s.setThread t fid k x.1).viol t th.pipe a (x.2 + other + early)
  if bitAt w 45 then s1.leavePipe t fid
  else match s.sequence a w k with
    | .error r => s1.threadFails t fid r
    | .ok (pc, st) => s1.advance t fid pc st

/-! ## The ROM image's routine (R491) -/

/-- The port's HZ_PORT fields and the members of a VLAN. -/
def State.hzMembers (s : State) (par vid : Nat) : Option Nat :=
  (s.tblLookup 0 par 0x11 (beBytes 2 vid)).map (fun x => beNat (bytesAt x.1 0 8))

/-- The frame with its VID in a tag: a tag is inserted where there was none, and a priority tag takes the VID (R491). [log: PRESUMED 69] -/
def withTag (bs : List Byte) (vid : Nat) : List Byte :=
  if half bs 12 = 0x8100 then setVid bs vid else bs.take 12 ++ beBytes 2 0x8100 ++ beBytes 2 vid ++ bs.drop 12

/-- The VID of a frame of port `p`, and the frame as the bridge sends it, tagged with it (R491). [log: PRESUMED 69] -/
def State.hzVid (s : State) (p : Nat) (bs : List Byte) : Nat :=
  if half bs 12 = 0x8100 ∧ half bs 14 % 4096 ≠ 0 then half bs 14 % 4096 else s.fget F.hzPort_PVID p
def State.hzTag (s : State) (p : Nat) (bs : List Byte) : List Byte := withTag bs (s.hzVid p bs)

/-- The whole routine for a frame of port `p`: the disposition, and the state after its learning. [log: DESIGN CHOICE 12, PRESUMED 69] -/
def State.bridge (s : State) (p par : Nat) (bs : List Byte) : Disp × State :=
  let tag := half bs 12
  let vid := s.hzVid p bs
  let cls := if tag = 0x8100 then byteAt bs 14 / 32 else 0
  let da := bytesAt bs 0 6
  let sa := bytesAt bs 6 6
  let dan := beNat da
  let members := s.hzMembers par vid
  let m := members.getD 0
  if tag = 0x88A8 then (.drop 0x0605, s)
  else if s.flag F.hzPort_FWD_EN p = false then (.drop 0x0601, s)
  else if bitAt m p = false then (.drop 0x0602, s)
  else if 0x0180C2000000 ≤ dan ∧ dan ≤ 0x0180C200000F then (.punt 0x0401, s)
  else
    let skey := beBytes 2 vid ++ sa
    let src := s.tblLookup 0 par 0x10 skey
    let group := bitAt (byteAt sa 0) 0
    let s1 := match src with
      | some (_, some i) => s.touch 0 i
      | _ => s
    let known := match src with
      | some (d, _) => decide (beNat (bytesAt d 0 2) = p)
      | none => false
    let limited := src.isNone && s.overLimit p && decide (s.learnByte p / 2 = 0) && !group
    let s2 := if known || group then s1
      else s1.dpPush { learn := true, iport := p, arg := beBytes 2 p ++ List.replicate 10 0 ++ leBytes 1 1 ++ List.replicate 3 0,
                       probe := some (0x10, skey), place := s1.emFree 0 (s1.emKey 0 skey) }
    if limited then (.drop (0x0600 + Config.learnDropCode.toNat), s2)
    else
      let hit := if bitAt (byteAt da 0) 0 then none else s2.tblLookup 0 par 0x10 (beBytes 2 vid ++ da)
      let s3 := match hit with
        | some (_, some i) => s2.touch 0 i
        | _ => s2
      let flood := Disp.flood (m - (if bitAt m p then 2 ^ p else 0)) cls
      match hit with
      | some (d, _) =>
        let e := beNat (bytesAt d 0 2)
        if e = p then (.drop 0x0603, s3)
        else if e < 64 ∧ bitAt m e = true then (.fwd e cls, s3)
        else (flood, s3)
      | none => (flood, s3)

/-- The routine's effect on a running packet; the tag is written when the frame is linked. [log: DESIGN CHOICE 12] -/
def State.runRom (s : State) (t fid : Nat) (k : Pkt) : State :=
  let r := s.bridge k.iport (k.version % 2) (s.frame t fid).data
  r.2.finishPkt t fid { k with outPhv := k.thread.phv } r.1

/-- Pre-commit threads of a pipe run no further words (R174): its tile drains for a block reset, or a BIST claim of it waits. -/
def State.pipeHeld (s : State) (t p : Nat) : Bool :=
  (s.pipe t).stopped || (match tget s.squall.slices t none with
    | some x => x.wait && decide (x.cls = 0) && decide (x.index = p)
    | none => false)

/-- A thread that has not committed has come into a region under reload (R171, R181). -/
def State.inReload (s : State) (k : Pkt) : Bool :=
  match s.cirrus.act with
  | some (base, _) => !k.thread.committed && touches base k
  | none => false

/-- A thread executes the word its micro-PC names (R145–R168, R178): `ecc` 1 a corrected, 2 an uncorrectable error in the word. A thread
under abandon executes none (R171, R174). -/
def State.execWord (s : State) (t fid ecc : Nat) : State :=
  match s.pkt t fid with
  | none => s
  | some k0 =>
    if k0.stage ≠ .running ∨ k0.thread.reenter = true ∨ (k0.thread.committed = false ∧ s.pipeHeld t k0.thread.pipe = true) then s
    else if s.hz then s.runRom t fid k0
    else if s.inReload k0 then s.abandon t fid 3
    else
      let s0 := s.deliverDue t fid k0.thread.ops.length
      match s0.pkt t fid with
      | none => s0
      | some k =>
        if k.stage ≠ .running then s0
        else
        let a := k.thread.pc % 32768
        let w := (s0.csWord a).toNat
        let err := max ecc (tget (s0.pipe t).csErr a 0)
        let s1 := s0.setPipe t { s0.pipe t with csErr := tset (s0.pipe t).csErr a 0 err }
        let s2 := if err = 1 then s1.report (srcCirrus t) 0x02 (csAddr t k.thread.pipe a)
          else if err = 2 then s1.report (srcCirrus t) 0x07 (csAddr t k.thread.pipe a) else s1
        if err = 2 then s2.threadFails t fid 0x020E
        else if k.thread.committed then s2.runCommitted t fid a w k
        else match s2.wordFails a w k with
          | some r => s2.threadFails t fid r
          | none => s2.runWord t fid a w k

def execMicrowordExecute (t fid ecc : Nat) (s : State) : Host.Outcome State Fault Refusal := .next (s.execWord t fid ecc)

/-- A recirculating thread re-enters stage 0 (R162). -/
def execThreadReentry (t fid : Nat) (s : State) : Host.Outcome State Fault Refusal :=
  .next (match s.pkt t fid with
    | some k => if k.thread.reenter = true ∧ (k.thread.committed = true ∨ s.pipeHeld t k.thread.pipe = false) then
        s.setThread t fid k { k.thread with reenter := false, stage := 0, pass := 2, cycle := k.thread.cycle + 2 } else s
    | none => s)

/-- The pipe a restarting thread takes: its own while that is active, else the spare standing in for it, else the lowest active pipe
(R171, R186). -/
def State.restartPipe (s : State) (t p : Nat) : Nat :=
  let act := s.fget F.cirrusStatus_PIPE_ACTIVE t
  if bitAt act p then p
  else if s.fget F.pipeStatus_ROLE t 8 = 2 ∧ s.fget F.pipeStatus_STANDIN t 8 = p then 8
  else ((List.range 9).find? (fun k => bitAt act k)).getD p

/-- An abandoned thread re-enters stage 0 after its wait (R171, R184): a relocation's, a reload's when it has ended, a block reset's when the tile
is out of it. A restart whose entry is no longer one goes to the exception path. -/
def execThreadRestart (t fid : Nat) (s : State) : Host.Outcome State Fault Refusal :=
  .next (match s.pkt t fid with
    | none => s
    | some k => match k.stage with
      | .restart why =>
        let e := phvEntry k.phv
        let s := if why = 2 then { s with te := { s.te with busy := [] } } else s
        if (why = 3 ∧ s.cirrus.act.isSome = true) ∨ (s.pipe t).stopped = true ∨ s.regionHeld e = true then s
        else if s.hz = false ∧ s.isEntry e = false then s.excPkt t fid k 0x020D
        else s.setPkt t fid (some { k with stage := .running, thread := freshThread (s.restartPipe t k.thread.pipe) e k.phv })
      | _ => s)

/-! ## The exception queue (R175) -/

/-- The reason class of a code (R193). -/
def reasonClass (r : Nat) : Nat := min 3 (r / 256 - 1)

/-- A packet of the exception queue is dropped with DROP_EXC. [log: DEDUCED 68] -/
def State.excDrop (s : State) (t fid : Nat) : State := (s.bump .cntExcDrop t).killFrame t fid 0x0508

/-- A released packet enters the exception queue, or is dropped (R175). -/
def State.excEnqueue (s : State) (t : Nat) (x : ExcItem) : State :=
  if s.flag F.excRing_EN t x.cls = false ∨ 1024 ≤ (s.pipe t).exc.length then s.excDrop t x.fid
  else s.setPipe t { s.pipe t with exc := (s.pipe t).exc ++ [x] }

/-- The queue without the first packet of a class. -/
def dropExc (l : List ExcItem) (c : Nat) : List ExcItem :=
  match l with
  | [] => []
  | x :: r => if x.cls = c then r else x :: dropExc r c

/-- What the punt unit hands a packet receive ring for a packet of the exception queue (R175, R394). [log: DEDUCED 63] -/
def State.excRx (s : State) (t : Nat) (x : ExcItem) : RxItem :=
  let f := s.frame t x.fid
  { frame := f.data, pmeta := x.phv.take 64, iport := f.m.iport, iclass := f.m.iclass, tile := t, reason := x.reason,
    arrivalNs := f.m.arrivalNs, seq := x.seq, haloTag := leNat (bytesAt x.phv 504 8) }

/-- The punt unit takes the head packet of a class (R175, R394): dropped when the class is off or its ring is not ACTIVE, delivered when the
ring has an entry and the frame is whole, else it waits. [log: DEDUCED 68] -/
def execExcQueueDeliver (t c : Nat) (s : State) : Host.Outcome State Fault Refusal :=
  .next (match (s.pipe t).exc.find? (fun x => decide (x.cls = c)) with
    | none => s
    | some x =>
      let f := s.frame t x.fid
      let out (s : State) : State := s.setPipe t { s.pipe t with exc := dropExc (s.pipe t).exc c }
      let r := s.fget F.excRing_RING t c
      if f.dead.isSome then out s
      else if s.flag F.excRing_EN t c = false ∨ s.ringState r ≠ 1 ∨ s.ringTypeOf r ≠ 2 then (out s).excDrop t x.fid
      else if f.done = false then s
      else
        let w := s.rxWrite r (s.excRx t x)
        if w.1 then (out w.2).endRef t x.fid else w.2)

/-! ## Control-store words (R178, R197) -/

/-- The tile rewrites a faulty word (R178). -/
def execCsWordRewrite (t a : Nat) (s : State) : Host.Outcome State Fault Refusal :=
  .next (s.setPipe t { s.pipe t with csErr := tset (s.pipe t).csErr a 0 0 })

/-- CS_RD_CTL (R197): with GO the word and its marks are copied; ignored while BUSY. `ecc` tells that the read corrects an error. -/
def State.csRead (s : State) (t : Nat) (v : Word) (ecc : Bool) : State :=
  let s1 := s.wr .csRdCtl (v &&& 0x7FFF#32) t
  if bitAt v.toNat 31 = false then s1
  else if s.flag F.csRdStatus_BUSY t then s1
  else
    let a := v.toNat % 32768
    let w := (s.csWord a).toNat
    let err := ecc || decide (tget (s.pipe t).csErr a 0 = 1)
    let s2 := forN 18 (fun i s => s.wr .csRdData (BitVec.ofNat 32 (w >>> (32 * i))) t i) s1
    let s3 := ((s2.wr .csRdMark (BitVec.ofNat 32 (s.marks a)) t).fset F.csRdStatus_BUSY 1 t).fset F.csRdStatus_ECC_FIXED (b2n err) t
    if err then (s3.setPipe t { s3.pipe t with csErr := tset (s3.pipe t).csErr a 0 1 }).report (srcCirrus t) 0x02 (csAddr t 0xF a) else s3
def execCsRead (t : Nat) (v : Word) (ecc : Bool) (s : State) : Host.Outcome State Fault Refusal :=
  .next (s.when (s.tileOn t) (fun s => s.csRead t (v ||| 0x80000000#32) ecc))

/-- The read completes (R197). -/
def execCsReadDone (t : Nat) (s : State) : Host.Outcome State Fault Refusal := .next (s.fset F.csRdStatus_BUSY 0 t)

/-! ## Images (R179–R185) -/

/-- The number of set bits. -/
def popcount (v n : Nat) : Nat := ((List.range n).filter (bitAt v)).length

/-- The length an image's header gives, signature block included (R179, R180). -/
def imgLength (d : List Byte) : Nat :=
  let h (k : Nat) : Nat := leNat (bytesAt d k 2)
  64 + 2 * (h 18 + h 20) + 512 * popcount (h 22) 16 + 16 * (popcount (h 24) 16 + popcount (h 26) 16) + 72 * h 14 + sigLen

/-- The set bits of a mask with their rank. -/
def ranked (v n : Nat) : List (Nat × Nat) := ((List.range n).filter (bitAt v)).zipIdx

/-- An image with its parts in place (R179). -/
def imgParts (d : List Byte) : Image :=
  let h (k : Nat) : Nat := leNat (bytesAt d k 2)
  let base := decide (byteAt d 6 = 1)
  let ents := (List.range (h 18)).map (fun i => h (64 + 2 * i))
  let o1 := 64 + 2 * h 18
  let calls := (List.range (h 20)).map (fun i => h (o1 + 2 * i))
  let o2 := o1 + 2 * h 20
  let tabs := ranked (h 22) 16
  let o3 := o2 + 512 * tabs.length
  let profs := ranked (h 24 + h 26 * 65536) 32
  let o4 := o3 + 16 * profs.length
  { base := base, id := leNat (bytesAt d 8 4), svn := h 12, entries := ents, callable := calls
    dtab := tabs.flatMap (fun x => (List.range 256).map (fun k => (256 * x.1 + k, BitVec.ofNat 16 (h (o2 + 512 * x.2 + 2 * k)))))
    kprof := profs.map (fun x => (x.1 + (if base then 0 else 32), BitVec.ofNat 128 (leNat (bytesAt d (o3 + 16 * x.2) 16))))
    words := (List.range (h 14)).map (fun i => BitVec.ofNat 576 (leNat (bytesAt d (o4 + 72 * i) 72)))
    first := h 16, digest := Config.shake256 (d.take (d.length - sigLen)) 32 }

/-- The header check of step 1 (R180). -/
def imgHeaderOk (d : List Byte) (len : Nat) : Bool :=
  decide (64 + sigLen ≤ d.length) && decide (leNat (bytesAt d 0 4) = 0x52434746) && decide (leNat (bytesAt d 4 2) = 1) &&
    (decide (byteAt d 6 = 1) || decide (byteAt d 6 = 2)) && decide (len = imgLength d)

/-- The structure check of step 4 (R180). -/
def imgStructOk (x : Image) (mask : Nat) : Bool :=
  let lo := if x.base then 0 else 0x6000
  let hi := if x.base then 0x6000 else 0x8000
  let inR (a : Nat) : Bool := decide (lo ≤ a) && decide (a < hi)
  decide (x.first = lo) && decide (x.first + x.words.length ≤ hi) && x.entries.all inR && x.callable.all inR &&
    x.dtab.all (fun e => !e.2.getLsbD 15 || inR (e.2.toNat % 32768)) &&
    (if x.base then decide (mask / 256 = 0) else decide (mask % 256 = 0)) && (x.base || x.callable.isEmpty)

/-- How the load of fetched bytes ends (R180, R547): RESULT and the image to stage. -/
def State.imgCheck (s : State) (d : List Byte) (len : Nat) : ImgLoad :=
  if imgHeaderOk d len = false then ⟨3, none⟩
  else
    let x := imgParts d
    let keys := if x.base then s.dereagorKeys else s.ownerKeys
    let n := d.length - sigLen
    if s.flag F.bnStatus_FAULT = true ∨ sigOk (if x.base then 0 else 1) keys (d.take n) (d.drop n) = false then ⟨1, none⟩
    else if x.svn < s.arbOf (if x.base then 1 else 2) then ⟨2, none⟩
    else if imgStructOk x (leNat (bytesAt d 22 2)) = false then ⟨3, none⟩
    else ⟨0, some x⟩

/-- A refused image command (R183). -/
def State.imgRefuse (s : State) (r : Nat) : State := s.fset F.imgStatus_RESULT r

/-- IMG_CTL keeps CLASS and WITH_COMMIT whatever its CMD does (R195). -/
def State.imgFields (s : State) (v : Word) : State := s.wr .imgCtl (v &&& 0xC#32)

/-- BUSY: a LOAD or an activation is in progress (R181, R196). -/
def State.imgBusy (s : State) : State := s.fset F.imgStatus_BUSY (b2n (s.cirrus.load.isSome || s.cirrus.act.isSome))

/-- CMD LOAD of function `f` with the bytes that host memory returns (R180, R183). [log: DEDUCED 67] -/
def State.imgLoad (s0 : State) (f : Nat) (v : Word) (d : List Byte) (ok : Bool) : State :=
  let s := s0.imgFields v
  let len := (s.rd .imgLen).toNat
  let src := (s.rdw .imgSrc).toNat
  let armedClass := s.flag F.imgStatus_ARMED && decide (decide (byteAt d 6 = 1) = s.cirrus.armedBase)
  if s0.flag F.imgStatus_BUSY = true ∨ s0.hz = true then s0.imgRefuse 5
  else if len = 0 ∨ 0x400000 < len then
    ({ s with cirrus := { s.cirrus with load := some ⟨3, none⟩ } }).fset F.imgStatus_BUSY 1
  else if s.hostOk f src len false = false then s.violation f 3 src 0
  else if ok = false then ({ s with cirrus := { s.cirrus with load := some ⟨4, none⟩ } }).fset F.imgStatus_BUSY 1
  else if armedClass then s0.imgRefuse 5
  else ({ s with cirrus := { s.cirrus with load := some (s.imgCheck (d.take len) len) } }).fset F.imgStatus_BUSY 1

/-- LOAD by IMG_CTL of function `f`, which needs Cirrus image rights (R180); without them the write is a violation (R377). -/
def execImgLoad (f : Nat) (v : Word) (d : List Byte) (ok : Bool) (s : State) : Host.Outcome State Fault Refusal :=
  .next (if s.hasRight f 2 then s.imgLoad f v d ok else s.violation f 1 0x1020100 0)

/-- The load ends: RESULT is set and a verified image is staged (R180). -/
def execImgLoadDone (s : State) : Host.Outcome State Fault Refusal :=
  .next (match s.cirrus.load with
    | none => s
    | some l =>
      let s1 := (({ s with cirrus := { s.cirrus with load := none } } : State).imgBusy).fset F.imgStatus_RESULT l.result
      match l.img with
      | some x =>
        if x.base then ({ s1 with cirrus := { s1.cirrus with stagedBase := some x } }).fset F.imgStatus_STAGED_BASE 1
        else ({ s1 with cirrus := { s1.cirrus with stagedCust := some x } }).fset F.imgStatus_STAGED_CUST 1
      | none => s1)

/-- The threads of a tile in a region that have not committed are abandoned for its reload (R171). -/
def State.abandonIn (s : State) (t : Nat) (base : Bool) : State :=
  s.each (s.runningIn t) (fun e s => if touches base e.2 then s.abandon t e.1 3 else s)

/-- A committed thread is still in the region (R174). -/
def State.regionBusy (s : State) (base : Bool) : Bool :=
  s.clocked.any (fun t => (s.runningIn t).any (fun e => e.2.thread.committed && touches base e.2))

/-- Step 1 of an activation or a DEACTIVATE (R181, R182): BUSY and RELOADING set, and the threads in the region that have not committed
are abandoned. -/
def State.actStart (s : State) (base off : Bool) : State :=
  let s0 : State := { s with cirrus := { s.cirrus with act := some (base, off), drained := false } }
  let s1 := (s0.fset F.imgStatus_BUSY 1).fset F.imgStatus_ARMED 0
  s1.each s.clocked (fun t s => (s.fset F.cirrusStatus_RELOADING 1 t).abandonIn t base)

/-- CMD ACTIVATE with CLASS and WITH_COMMIT (R181, R183). [log: DEDUCED 66] -/
def State.imgActivate (s : State) (v : Word) : State :=
  let base := !bitAt v.toNat 2
  let staged := if base then s.cirrus.stagedBase.isSome else s.cirrus.stagedCust.isSome
  let s1 := s.imgFields v
  if s.flag F.imgStatus_BUSY = true ∨ s.hz = true ∨ s.flag F.imgStatus_ARMED = true then s.imgRefuse 5
  else if staged = false then s.imgRefuse 6
  else if bitAt v.toNat 3 then { s1.fset F.imgStatus_ARMED 1 with cirrus := { s1.cirrus with armedBase := base } }
  else s1.actStart base false
def execImgActivate (v : Word) (s : State) : Host.Outcome State Fault Refusal := .next (s.imgActivate v)

/-- CMD DEACTIVATE (R182, R183). [log: DEDUCED 66] -/
def State.imgDeactivate (s : State) (v : Word) : State :=
  if s.flag F.imgStatus_BUSY = true ∨ s.hz = true ∨ s.flag F.imgStatus_ARMED = true then s.imgRefuse 5
  else (s.imgFields v).actStart false true
def execImgDeactivate (v : Word) (s : State) : Host.Outcome State Fault Refusal := .next (s.imgDeactivate v)

/-- CANCEL (R183). -/
def State.imgCancel (s : State) : State := s.fset F.imgStatus_ARMED 0
def execImgCancel (s : State) : Host.Outcome State Fault Refusal := .next s.imgCancel

/-- No committed thread of the region is left in a pipe (R174, R181): the write may begin, and threads that have come into the region since
step 1 are abandoned. -/
def execActivationDrained (s : State) : Host.Outcome State Fault Refusal :=
  .next (match s.cirrus.act with
    | none => s
    | some (base, _) =>
      if s.regionBusy base then s
      else
        let s1 : State := { s with cirrus := { s.cirrus with drained := true } }
        s1.each s1.clocked (fun t s => s.abandonIn t base))

/-- The customer region is emptied of its tables, profiles and marks (R182). -/
def State.custClear (s : State) : State :=
  let c := s.cirrus
  ((({ s with cirrus := { c with
      entry := c.entry.filter (fun e => !inCust e.1)
      callable := c.callable.filter (fun e => !inCust e.1)
      dtab := c.dtab.filter (fun e => decide (e.1 < 2048))
      kprof := c.kprof.filter (fun e => decide (e.1 < 32))
      custDigest := [] } }).fset F.imgStatus_CUST_ACTIVE 0).wr .custImageId 0).wr .imgSvn (s.rd .imgSvn &&& 0xFF#32)
    |>.setMeas 2 (List.replicate 32 0)

/-- Entries of a table put in place one by one. -/
def tputs {α : Type} [DecidableEq α] (t : Tab α) (l : List (Nat × α)) (d : α) : Tab α := l.foldl (fun t e => tset t e.1 d e.2) t

/-- An image fills its class's whole range with good words (R181). -/
def State.install (s : State) (x : Image) : State :=
  let c := s.cirrus
  let mineA (a : Nat) : Bool := decide (inCust a = !x.base)
  let mineD (k : Nat) : Bool := decide (decide (k < 2048) = x.base)
  let mineP (p : Nat) : Bool := decide (decide (p < 32) = x.base)
  let words := x.words.zipIdx.map (fun w => (x.first + w.2, w.1))
  let s1 : State := { s with cirrus := { c with
      bootBase := c.bootBase && !x.base
      cs := tputs (c.cs.filter (fun e => !mineA e.1)) words 0
      entry := tputs (c.entry.filter (fun e => !mineA e.1)) (x.entries.map (fun a => (a, true))) false
      callable := tputs (c.callable.filter (fun e => !mineA e.1)) (x.callable.map (fun a => (a, true))) false
      dtab := tputs (c.dtab.filter (fun e => !mineD e.1)) x.dtab 0
      kprof := tputs (c.kprof.filter (fun e => !mineP e.1)) x.kprof 0 } }
  let s1 := s1.each s1.clocked (fun t s => s.setPipe t { s.pipe t with csErr := (s.pipe t).csErr.filter (fun e => !mineA e.1) })
  if x.base then
    ((s1.wr .baseImageId (BitVec.ofNat 32 x.id)).wr .imgSvn (BitVec.ofNat 32 (setBits (s1.rd .imgSvn).toNat 7 0 x.svn))).setMeas 1 x.digest
  else
    (((s1.wr .custImageId (BitVec.ofNat 32 x.id)).wr .imgSvn (BitVec.ofNat 32 (setBits (s1.rd .imgSvn).toNat 15 8 x.svn))).fset
      F.imgStatus_CUST_ACTIVE 1).setMeas 2 x.digest

/-- Packets held at dispatch are dispatched (R181, R510). -/
def State.dispatchHeld (s : State) (t : Nat) : State := s.each (s.pipe t).pkts (fun e s => s.dispatch t e.1)

/-- Step 4 of an activation (R181, R182): the image is active and measured, held packets dispatch. A committed thread that has come into the
region during the write ends first (R174). [log: DEDUCED 66] -/
def execActivationComplete (s : State) : Host.Outcome State Fault Refusal :=
  .next (match s.cirrus.act with
    | none => s
    | some (base, off) =>
      if s.cirrus.drained = false ∨ s.regionBusy base = true then s
      else
        let s0 : State := { s with cirrus := { s.cirrus with act := none, drained := false } }
        let s1 := if off then s0.custClear
          else match (if base then s0.cirrus.stagedBase else s0.cirrus.stagedCust) with
            | some x => s0.install x
            | none => s0
        let s2 := s1.imgBusy.fset F.imgStatus_RESULT 0
        s2.each s.clocked (fun t s => (s.fset F.cirrusStatus_RELOADING 0 t).dispatchHeld t))

/-- A waiting COMMIT takes effect (R224): versions rise in all tiles, and an armed activation starts in the same cycle (R181). -/
def execVersionChange (s : State) : Host.Outcome State Fault Refusal :=
  .next (match s.commitReady with
    | none => s
    | some o =>
      let s1 := s.commitNow o.1 o.2
      (if s1.flag F.imgStatus_ARMED then s1.actStart s1.cirrus.armedBase false else s1).mcRun)

end Sys2Proof.Machine
end

