-- ==== Sys2Proof/Machine/Power.lean ====
section
/-!
DEFINITION. Power input, operating points and caps (11_power_operating_points.md): the measurements, the cap, the control loop
and its transitions, the current limiter, the thermal rules, triggered conversions, Anvil's power and the powered-time count.
-/

namespace Sys2Proof.Machine

/-! ## Reset requests of the controller (R459, R460, R470) -/

/-- A chip reset is due for a reset source (R470); `hz` is the cause of a Horizon entry, 0 for a plain reset. One into Horizon mode wins
over a plain one (R476). -/
def State.requestReset (s : State) (bit hz : Nat) : State :=
  { s with boot := { s.boot with
      resetDue := true
      dueCauses := setBits s.boot.dueCauses bit bit 1
      hzNext := if hz = 0 then s.boot.hzNext else hz } }

/-! ## The voltage table (R452–R454) -/

/-- The core voltage of an operating point in steps of 2.5 mV: the fused value with the 8 % margin, rounded up. [log: DESIGN CHOICE 10] -/
def State.setSteps (s : State) (k : Nat) : Nat :=
  ceilDiv ((Config.vtab (s.fget F.vcore_AGE_COL) (s.fget F.vcore_BAND) k).toNat * 108) 250

/-- VCORE.MV of a set voltage. [log: DEDUCED 125] -/
def State.setMv (s : State) (k : Nat) : State := s.fset F.vcore_MV (s.setSteps k * 5 / 2)

/-- CUR_OP. -/
def State.curOp (s : State) : Nat := s.fget F.pwrStatus_CUR_OP

/-- The operating point whose voltage the regulator is set to: the target of a step up, or the current one. -/
def State.voltOp (s : State) : Nat := s.power.up.getD s.curOp

/-- The hottest sensor's temperature, and THROTTLE_C and CRIT_C as they act (R468). -/
def State.tjHot (s : State) : Int := toSigned 8 (s.fget F.thermStatus_TJ_HOT)
def State.critC (s : State) : Int := (min 105 (s.fget F.thermCfg_CRIT_C) : Nat)
def State.throttleC (s : State) : Int := min (s.fget F.thermCfg_THROTTLE_C : Int) s.critC

/-- The band of a temperature (R452). -/
def bandOf (t : Int) : Nat := if t < 15 then 0 else min 6 (t / 15).toNat

/-- The band after a reading (R453): up at once, down only from 3 °C below a band's lower edge. -/
def bandNext (t : Int) (b : Nat) : Nat :=
  match b with
  | 0 => bandOf t
  | b + 1 => if b + 1 ≤ bandOf t then bandOf t
    else if t ≤ (15 * (b + 1) : Nat) - 3 then bandNext t b else b + 1

/-! ## THROTTLED (R462) -/

/-- SLOW_CAUSE: the cap's demand as the last window decided it, then the limiter, thermal and start-up demands. -/
def State.slowCause (s : State) (cap : Bool) : Nat :=
  let m := s.fget F.pwrCfg_OP_MAX
  let c := s.curOp
  let hot := (s.flag F.thermStatus_THROTTLING && decide (m < min 7 (c + 1))) || (s.power.tripHold && decide (m < 7))
  b2n cap + b2n (s.flag F.pwrStatus_LIMIT_HOLD && decide (m < 7)) * 2 + b2n hot * 4 +
    b2n (s.flag F.pwrStatus_STARTUP && decide (m < max 4 c)) * 8

/-- SLOW_CAUSE and THROTTLED follow what changed; a change of THROTTLED is posted. [log: DEDUCED 125] -/
def State.throttle (s : State) (cap : Bool) : State :=
  let s1 := s.fset F.pwrStatus_SLOW_CAUSE (s.slowCause cap)
  let th := b2n (decide (s.fget F.pwrCfg_OP_MAX < s.curOp))
  if th = s.fget F.pwrStatus_THROTTLED then s1
  else (s1.fset F.pwrStatus_THROTTLED th).post 0x0801
    (th + s1.fget F.pwrStatus_SLOW_CAUSE * 2 + s.curOp * 256)

/-- The same with the cap's part as it stands. -/
def State.throttleNow (s : State) : State := s.throttle (bitAt (s.fget F.pwrStatus_SLOW_CAUSE) 0)

/-! ## Transitions (R456) -/

/-- Down 1: the clock ratio changes, and CUR_OP with it; the voltage follows. [log: DEDUCED 123, 130] -/
def State.stepDown (s : State) (k : Nat) : State :=
  let s1 : State := { s with power := { s.power with clkOp := k, up := none, settling := false, sinceDown := 0 } }
  ((s1.fset F.pwrStatus_CUR_OP k).fset F.pwrStatus_TRANSITION 1).bump .cntOpChange

/-- Up 1: the regulator's target rises. [log: DEDUCED 124] -/
def State.stepUp (s : State) (k : Nat) : State :=
  ({ s with power := { s.power with up := some k, settling := false } }.fset F.pwrStatus_TRANSITION 1).setMv k

/-- A step up in progress is abandoned: the clock ratio stays, the voltage goes back. [log: DEDUCED 123] -/
def State.abandonUp (s : State) : State :=
  { s with power := { s.power with up := none, settling := false } }

/-- The clock goes to OP7 whatever is in progress (R459, R460, R463). [log: DEDUCED 130] -/
def State.toOp7 (s : State) : State := if s.curOp = 7 ∧ s.power.up = none then s else s.stepDown 7

def execVoltageReached (s : State) : Host.Outcome State Fault Refusal :=
  .next (if s.power.up.isSome then { s with power := { s.power with settling := true } } else s)

/-- Up 3 and Up 4: the clock ratio rises, CUR_OP follows, TRANSITION clears. [log: DEDUCED 130] -/
def execSettleDone (s : State) : Host.Outcome State Fault Refusal :=
  .next (match s.power.up with
    | some k =>
      if s.power.settling then
        let s1 : State := { s with power := { s.power with clkOp := k, up := none, settling := false } }
        (((s1.fset F.pwrStatus_CUR_OP k).fset F.pwrStatus_TRANSITION 0).bump .cntOpChange).throttleNow
      else s
    | none => s)

/-- Down 2: the voltage is at the slower point's level. -/
def execVoltageLowered (s : State) : Host.Outcome State Fault Refusal :=
  .next (if s.flag F.pwrStatus_TRANSITION = true ∧ s.power.up = none then (s.setMv s.curOp).fset F.pwrStatus_TRANSITION 0 else s)

/-! ## The control window (R448–R455, R459) -/

/-- WIN_MS as it acts. -/
def State.winMs (s : State) : Nat := max 1 (min 100 (s.fget F.pwrCfg_WIN_MS))

/-- PCAP_EFF for a VIN_F in millivolts (R449). -/
def State.capEff (s : State) (vin : Nat) : Nat := min (max 1 (min 1600 (s.fget F.pcap_WATTS))) (min 1600 (vin * 40 / 1000))

/-- The predicted power of point `k` lies within `pct` % of the cap (R455): P_L + (P − P_L) × f_k V_k² / (f_c V_c²), exactly.
[log: DESIGN CHOICE 10] -/
def State.predicts (s : State) (p eff pct k : Nat) : Bool :=
  let c := s.curOp
  let pl : Int := (Config.pLeak (s.fget F.vcore_BAND)).toNat
  let w (x : Nat) : Int := (coreMhz x * s.setSteps x * s.setSteps x : Nat)
  decide (100 * (pl * w c + ((p : Int) - pl) * w k) ≤ (eff * pct : Nat) * w c)

/-- The cap's demand (R455). [log: DEDUCED 124] -/
def State.capDemand (s : State) (p eff : Nat) : Nat :=
  let c := s.curOp
  if eff < p then
    match (List.range 8).find? (fun k => decide (k ≠ c) && s.predicts p eff 100 k) with
    | some k => k
    | none => 7
  else if 0 < c ∧ s.power.sinceDown = 100 ∧ s.predicts p eff (100 - s.fget F.pwrCfg_HYST_PCT) (c - 1) = true then c - 1
  else c

/-- The demands that hold whatever the cap asks for: software limit, start-up, thermal, limiter, and OP7 held (R455, R459, R463, R512).
[log: DEDUCED 129] -/
def State.otherDemand (s : State) : Nat :=
  let c := s.curOp
  let start := if s.flag F.pwrStatus_STARTUP then max 4 c else 0
  let therm := if s.flag F.thermStatus_THROTTLING then min 7 (c + 1) else 0
  let held := s.flag F.pwrStatus_LIMIT_HOLD || s.power.tripHold || s.power.resetHold || s.power.unmetStay
  max (s.fget F.pwrCfg_OP_MAX) (max start (max therm (if held then 7 else 0)))

/-- The move to a target (R455, R456): a step down at once, a step up by one point and only outside a transition. [log: DEDUCED 123, 124] -/
def State.moveTo (s : State) (k : Nat) : State :=
  let c := s.curOp
  if c < k then s.stepDown k
  else if k = c then s.when s.power.up.isSome State.abandonUp
  else if s.flag F.pwrStatus_TRANSITION then s
  else s.stepUp (c - 1)

/-- What is measured over a window: VIN_F, input current, P and the input energy (R464, R466). -/
def State.measure (s : State) (vin iin p uj : Nat) : State :=
  let e := s.power.energyUj + uj
  let s1 := (((s.fset F.vinMv_V vin).fset F.iinMa_V iin).fset F.pinW_V p).fset F.pcapEff_V (s.capEff vin)
  { s1.bump .energyMj 0 0 (e / 1000) with power := { s.power with energyUj := e % 1000, sinceDown := min 100 (s.power.sinceDown + s.winMs) } }

/-- The cap cannot be met at OP7: below 520 W, or less than the power measured there (R459). [log: DEDUCED 126] -/
def State.unmet (s : State) (p eff : Nat) : Bool := decide (eff < 520) || (decide (s.curOp = 7) && decide (eff < p))

/-- CAP_UNMET is raised: OP7 at once, the event, the grace period (R459). [log: DEDUCED 126] -/
def State.raiseUnmet (s : State) (eff : Nat) : State :=
  let s1 := (((s.toOp7.fset F.pwrStatus_CAP_UNMET 1).bump .cntCapUnmet).post 0x0802 (1 + eff * 65536))
  { s1 with power := { s1.power with grace := true } }

/-- The grace period ends with the cap unmet (R459). [log: DEDUCED 126] -/
def State.graceEnd (s : State) : State :=
  let s1 : State := { s with power := { s.power with grace := false } }
  if s.flag F.pwrCfg_UNMET_ACT then { s1.report srcPwr 0x31 0 with power := { s1.power with unmetStay := true } }
  else s1.requestReset 5 2

/-- A window end (R449, R455, R459). Before the core rails are up, in Horizon mode and with the controller unusable only the measurements go on. -/
def State.windowEnd (s0 : State) (vin iin p uj : Nat) : State :=
  let s := s0.measure vin iin p uj
  let eff := s.capEff vin
  if s.hz = true ∨ s.power.coreOn = false ∨ s.unusableBlk 6 = true then s
  else if s.flag F.pwrStatus_CAP_UNMET then
    if s.power.grace = true ∧ s.unmet p eff = false then
      let s1 := (s.fset F.pwrStatus_CAP_UNMET 0).post 0x0802 (eff * 65536)
      { s1 with power := { s1.power with grace := false } }
    else (s.toOp7).throttle true
  else if s.unmet p eff then
    let s1 := (s.raiseUnmet eff).throttle true
    if s.fget F.pwrCfg_GRACE_MS = 0 then s1.graceEnd else s1
  else
    let cap := s.capDemand p eff
    let k := max cap s.otherDemand
    let hot := s.flag F.thermStatus_THROTTLING && decide (s.curOp < k) && decide (k = min 7 (s.curOp + 1)) && decide (cap < k)
    ((s.when hot (fun s => s.bump .cntThermStep)).moveTo k).throttle (decide (s.fget F.pwrCfg_OP_MAX < cap))

def execPowerWindowEnd (vin iin p uj : Nat) (s : State) : Host.Outcome State Fault Refusal := .next (s.windowEnd vin iin p uj)

/-- The grace period's end (R459). -/
def execCapGraceExpire (s : State) : Host.Outcome State Fault Refusal :=
  .next (if s.power.grace then s.graceEnd else s)

/-! ## The limiter and the holds (R457, R460) -/

/-- Input current above 44 A: OP7, the hold, the count, the message and the event (R460). -/
def execCurrentLimitCrossing (peak : Nat) (s : State) : Host.Outcome State Fault Refusal :=
  .next (
    let s1 := if s.hz || !s.power.coreOn then s else (s.toOp7.fset F.pwrStatus_LIMIT_HOLD 1).throttleNow
    ((s1.bump .cntLimit).report srcPwr 0x30 0).post 0x0803 (peak % 65536))

/-- Still above 44 A after 500 µs: Horizon mode for power shortfall (R460). -/
def execCurrentLimitStage2 (s : State) : Host.Outcome State Fault Refusal :=
  .next (if s.flag F.pwrStatus_LIMIT_HOLD then s.requestReset 5 2 else s)

def execLimitHoldExpire (s : State) : Host.Outcome State Fault Refusal :=
  .next ((s.fset F.pwrStatus_LIMIT_HOLD 0).throttleNow)

/-- 100 ms after step 7 (R457). [log: DEDUCED 129] -/
def execStartupHoldExpire (s : State) : Host.Outcome State Fault Refusal :=
  .next ((s.fset F.pwrStatus_STARTUP 0).throttleNow)

/-- The operating point of R451 for a VIN_F in millivolts, no faster than OP4 (R457). [log: DEDUCED 129] -/
def startOp (vin : Nat) : Nat := if vin < 15500 then 7 else if vin < 18500 then 6 else if vin < 20750 then 5 else 4

/-- The start of the loop (R457, R512): at OP4 or slower, or at OP7 while that is held. [log: DEDUCED 127] -/
def State.loopStart (s : State) (vin : Nat) : State :=
  let k := if s.flag F.pwrStatus_LIMIT_HOLD || s.power.tripHold || s.power.resetHold then 7 else startOp vin
  let s1 : State := { s with power := { s.power with clkOp := k, up := none, settling := false, sinceDown := 100, grace := false,
                                                     unmetStay := false } }
  ((((s1.fset F.pwrStatus_CUR_OP k).fset F.pwrStatus_STARTUP 1).fset F.pwrStatus_TRANSITION 0).setMv k).throttle false

/-! ## Thermal (R453, R463) -/

/-- TJ_HOT and its sensor: the hottest of the core-die and chiplet sensors read so far. -/
def State.hottest (s : State) : Option (Nat × Int) :=
  (List.range 72).foldl (fun b k =>
    if s.flag F.temp_VALID k then
      let t := toSigned 8 (s.fget F.temp_DEG_C k)
      match b with
      | some (_, u) => if u < t then some (k, t) else b
      | none => some (k, t)
    else b) none

/-- A change of band moves the set voltage only (R453). -/
def State.bandUpdate (s : State) : State :=
  let b := bandNext s.tjHot (s.fget F.vcore_BAND)
  if b = s.fget F.vcore_BAND then s else (s.fset F.vcore_BAND b).setMv s.voltOp

/-- EV_THERM (R469). -/
def State.evTherm (s : State) (on : Nat) : State :=
  s.post 0x0804 (on + s.fget F.thermStatus_SENSOR * 256 + s.fget F.thermStatus_TJ_HOT * 65536)

/-- The thermal conditions after a reading (R463). [log: DEDUCED 128] -/
def State.thermal (s : State) : State :=
  let cool := decide (s.tjHot < s.throttleC - 5)
  let s1 :=
    if s.throttleC ≤ s.tjHot ∧ s.flag F.thermStatus_THROTTLING = false then (s.fset F.thermStatus_THROTTLING 1).evTherm 1
    else if cool = true ∧ s.flag F.thermStatus_THROTTLING = true then (s.fset F.thermStatus_THROTTLING 0).evTherm 0
    else s
  let crit := decide (s.critC ≤ s.tjHot)
  let s2 := if crit && !s.flag F.thermStatus_CRIT then s1.report srcThermal 0x33 (s.fget F.thermStatus_SENSOR) else s1
  let s3 := s2.fset F.thermStatus_CRIT (b2n crit)
  ({ s3 with power := { s3.power with tripHold := s3.power.tripHold && !cool } }).throttleNow

/-- A sensor is read (R463): its value, TJ_HOT, the band and the thermal conditions; OP7 held for the sensor array ends when every sensor
reads VALID (R512). [log: DESIGN CHOICE 187] -/
def execSensorRead (sensor deg : Nat) (s : State) : Host.Outcome State Fault Refusal :=
  .next (
    let s1 := (s.fset F.temp_DEG_C deg sensor).fset F.temp_VALID 1 sensor
    let s2 := if (List.range 73).all (fun k => s1.flag F.temp_VALID k) && s1.power.resetHold && !s1.squall.privReset.contains srcThermal &&
        !s1.squall.privReset.contains srcPwr then
      { s1 with power := { s1.power with resetHold := false } } else s1
    match s2.hottest with
    | none => s2
    | some (k, t) =>
      ((s2.fset F.thermStatus_TJ_HOT (ofSigned 8 t)).fset F.thermStatus_SENSOR k).bandUpdate.thermal)

/-- A comparator at 112 °C for 10 µs (R463). -/
def execThermalTrip (sensor : Nat) (s : State) : Host.Outcome State Fault Refusal :=
  .next (
    let s1 := if s.hz || !s.power.coreOn then s else s.toOp7
    let s2 : State := { s1 with power := { s1.power with tripHold := true } }
    ((s2.fset F.thermStatus_TRIP 1).throttleNow).report srcThermal 0x34 sensor)

/-! ## Triggered conversions (R465) -/

/-- A firing starts a conversion. -/
def State.socStart (s : State) : State := s.fset F.socStatus_BUSY 1

def execSocConversionDone (vin iin : Nat) (s : State) : Host.Outcome State Fault Refusal :=
  .next (
    if s.flag F.socStatus_BUSY then
      (((s.fset F.socVinMv_V vin).fset F.socIinMa_V iin).fset F.socStatus_SEQ (s.fget F.socStatus_SEQ + 1)).fset F.socStatus_BUSY 0
    else s)

/-! ## Anvil's power (R458, R269) -/

def execAnvilPowerUpDone (s : State) : Host.Outcome State Fault Refusal :=
  .next (
    if s.flag F.anvilCtl_EN = true ∧ s.flag F.anvilStatus_READY = false ∧ s.power.gddrOn = true then s.anvilTrained else s)

/-- A write of ANVIL_CTL: only a change of EN acts (R269). -/
def State.anvilCtlWrite (s : State) (v : Word) : State :=
  if bitAt v.toNat 0 = s.flag F.anvilCtl_EN then s
  else if bitAt v.toNat 0 then s.anvilStart else s.anvilStop

def execAnvilEnClear (s : State) : Host.Outcome State Fault Refusal := .next (s.anvilCtlWrite 0)
def execAnvilEnSet (s : State) : Host.Outcome State Fault Refusal := .next (s.anvilCtlWrite 1)

/-- A write of PWR_CFG: OP_MAX shows in THROTTLED, ANVIL_PD may power Anvil down. -/
def State.pwrCfgWrite (s : State) (v : Word) : State :=
  ((s.wr .pwrCfg (v &&& 0x3FFFFFFF#32)).throttleNow).anvilOff

/-! ## Powered time (R454, R487) -/

/-- The ageing column of a count of minutes: columns only rise (R454). [log: DESIGN CHOICE 10] -/
def State.ageColumn (s : State) : Nat :=
  ((List.range 5).filter (fun a => decide (a = 0) || decide ((Config.ageMilestone a).toNat ≤ s.power.minutes / 60))).foldl max
    (s.fget F.vcore_AGE_COL)

/-- POWERED_HOURS and the column follow the count. -/
def State.showHours (s : State) : State :=
  let s1 := s.wr .poweredHours (BitVec.ofNat 32 (s.power.minutes / 60))
  let a := s1.ageColumn
  if a = s1.fget F.vcore_AGE_COL then s1 else (s1.fset F.vcore_AGE_COL a).setMv s1.voltOp

/-- The newest record of the NVS by serial-number arithmetic (R487). [log: PRESUMED 131] -/
def newestNvs (l : List (Nat × Nat)) : Option (Nat × Nat) :=
  l.foldl (fun b r => match b with
    | none => some r
    | some x => if (r.1 + 2 ^ 32 - x.1) % 2 ^ 32 < 2 ^ 31 then some r else b) none

/-- A minute of powered time: the count rises and its record goes to the oldest of the 4,096 slots; `good` is the record's CRC. -/
def execPoweredMinute (good : Bool) (s : State) : Host.Outcome State Fault Refusal :=
  .next (
    if s.boot.vinValid = false then s
    else
      let m := s.power.minutes + 1
      let seq := ((newestNvs s.boot.nvs).map (fun r => (r.1 + 1) % 2 ^ 32)).getD 0
      let slots := s.boot.nvs ++ (if good then [(seq, m)] else [])
      ({ s with power := { s.power with minutes := m }
                boot := { s.boot with nvs := slots.drop (slots.length - 4096) } }).showHours)

end Sys2Proof.Machine
end

