-- ==== Sys2Proof/Machine/Bennidan.lean ====
section
/-!
DEFINITION. Bennidan's commands (14_security_zenith.md, R536–R547): enrolment, anti-rollback, measurements, quotes, certificates and the
passage of Zenith commands. What a command answers is fixed when it starts; its effects come with its end.
-/

namespace Sys2Proof.Machine

/-! ## Buffers -/

/-- IN_BUF continued by IN_BUF2 (R540). -/
def State.inBytes (s : State) : List Byte :=
  (List.range 1024).flatMap (fun j => leBytes 4 (s.rd .inBuf j).toNat) ++
    (List.range 1024).flatMap (fun j => leBytes 4 (s.rd .inBuf2 j).toNat)

/-- OUT_BUF takes an output and OUT_LEN its length; words past it keep what they held. [log: DEDUCED 163] -/
def State.setOut (s : State) (bs : List Byte) : State :=
  (forN (ceilDiv bs.length 4) (fun j s => s.wr .outBuf (BitVec.ofNat 32 (leNat (bytesAt bs (4 * j) 4))) j) s).fset
    F.bnResult_OUT_LEN bs.length

/-! ## The answers -/

/-- The quote's 256 bytes (R546). -/
def State.quoteBody (s : State) : List Byte :=
  let flags := b2n s.hz + b2n (s.flag F.ownerStatus_ENROLLED) * 2 + b2n (s.flag F.bnCfg_TBL_MEAS) * 4 +
    b2n (s.flag F.sqStatus_FACTORY) * 8 + b2n s.boot.romFirmware * 16
  leBytes 4 0x51544F51 ++ leBytes 2 1 ++ leBytes 2 flags ++
    (List.range 8).flatMap (fun j => leBytes 4 (s.rd .nonce j).toNat) ++ keyId Config.devKey ++
    (match s.ownerKeys with
      | k :: _ => keyId k
      | [] => List.replicate 8 0) ++
    leBytes 1 (s.fget F.ownerStatus_ENROLLMENTS) ++ leBytes 3 (s.rd .arbCtr).toNat ++ leBytes 4 0 ++
    (List.range 5).flatMap s.meas ++ leBytes 2 (s.fget F.verStatus_CUR_VERSION) ++ leBytes 2 0 ++ leBytes 4 (s.rd .tblCommits).toNat ++
    leBytes 8 s.ns64 ++ leBytes 4 (s.rd .poweredHours).toNat ++ leBytes 4 (s.rd .bootSeq).toNat ++
    (if s.zenPort then keyId Config.zenKey else List.replicate 8 0)

/-- The parts of an enrolment request (R540). -/
def enrolKey (d : List Byte) : List Byte := bytesAt d 0 1793

/-- The checks of ENROLL (R540, R541): RESULT. [log: DEDUCED 166] -/
def State.enrolCheck (s : State) (d : List Byte) : Nat :=
  let k := enrolKey d
  if 4 ≤ s.fget F.ownerStatus_ENROLLMENTS then 2
  else if bytesAt d 1793 8 = keyId Config.devKey ∧ sigOk 1 [k] (d.take 1801) (bytesAt d 1801 sigLen) = true ∧
      (s.ownerKeys.isEmpty || sigOk 1 s.ownerKeys (d.take 3177) (bytesAt d 3177 sigLen)) = true then 0
  else 1

/-- The SVN that vouches for a new anti-rollback value of a class (R542): none where no image of the class runs. -/
def State.runningSvn (s : State) (cls : Nat) : Option Nat :=
  match cls with
  | 0 => some (s.rd .bootSvn).toNat
  | 1 => some (bits (s.rd .imgSvn).toNat 7 0)
  | 2 => if s.flag F.imgStatus_CUST_ACTIVE then some (bits (s.rd .imgSvn).toNat 15 8) else none
  | _ => none

/-- The check of ARB (R542): RESULT. -/
def State.arbCheck (s : State) (cls v : Nat) : Nat :=
  match s.runningSvn cls with
  | some n => if s.arbOf cls < v ∧ v ≤ n then 0 else 3
  | none => 3

/-! ## Starting a command (R547) -/

/-- A command starts: BUSY, and how it will end. -/
def State.bnRun (s : State) (r : BnRun) : State := ({ s with trust := { s.trust with run := some r } }).fset F.bnStatus_BUSY 1

/-- A write of BN_CMD with a command code: ignored and counted while one is in progress; with FAULT it ends with FAULT. [log: DEDUCED 164] -/
def State.bnStart (s : State) (cmd : Nat) (go : State → State) : State :=
  if s.flag F.bnStatus_BUSY then s.bump .bnIgnored
  else if s.flag F.bnStatus_FAULT then s.bnRun { cmd := cmd, result := 4 }
  else go s

/-- QUOTE (R546): every field is of this cycle. -/
def State.bnQuote (s : State) : State :=
  let q := s.quoteBody
  s.bnRun { cmd := 1, result := 0, out := q ++ sigMake 2 0 Config.devKey q }

/-- EXTEND (R544). For it `out` holds the new value of CFG_PCR. [log: DEDUCED 167] -/
def State.bnExtend (s : State) : State :=
  let n := (s.rd .bnArg).toNat % 8192
  if n = 0 ∨ 4096 < n then s.bnRun { cmd := 2, result := 3 }
  else s.bnRun { cmd := 2, result := 0, out := Config.shake256 (s.meas 3 ++ s.inBytes.take n) 32 }

/-- ENROLL (R540, R541): steps 1 and 2, the slot fused and the key in the NVS, stand from here on. [log: DEDUCED 184] -/
def State.bnEnroll (s : State) : State :=
  let d := s.inBytes
  let r := s.enrolCheck d
  let s1 := if r = 0 then
      ({ s with trust := { s.trust with newOwner := enrolKey d, slots := s.trust.slots ++ [Config.shake256 (enrolKey d) 32] } }).fset
        F.ownerStatus_ENROLLMENTS (s.fget F.ownerStatus_ENROLLMENTS + 1)
    else s
  s1.bnRun { cmd := 3, result := r }

/-- ARB (R542): the intent record of R486 stands from here on. [log: DEDUCED 184] -/
def State.bnArb (s : State) : State :=
  let a := (s.rd .bnArg).toNat
  let cls := bits a 1 0
  let v := bits a 15 8
  let r := s.arbCheck cls v
  let s1 : State := if r = 0 then { s with boot := { s.boot with journal := s.boot.journal ++ [.arb cls v] } } else s
  s1.bnRun { cmd := 4, result := r }

/-- CERT and ZCERT: the certificate of the device identity key, and of Zenith's key through the read port. [log: DEDUCED 168] -/
def State.bnCert (s : State) : State := s.bnRun { cmd := 5, result := 0, out := Config.devCert.take 4095 }
def State.bnZcert (s : State) : State :=
  if s.zenPort then s.bnRun { cmd := 6, result := 0, out := Config.zenCert.take 4095 } else s.bnRun { cmd := 6, result := 6 }

/-- ZCMD (R558): the buffer goes to Zenith's verifier. -/
def State.bnZcmd (s : State) : State :=
  if s.zenPort then
    ({ s with trust := { s.trust with zcmd := some s.inBytes, zreply := none } }).bnRun { cmd := 7, result := 0 }
  else s.bnRun { cmd := 7, result := 6 }

/-- A write of BN_CMD: other codes take no action (R562). -/
def State.bnCmdWrite (s : State) (v : Nat) : State :=
  match v % 16 with
  | 1 => s.bnStart 1 State.bnQuote
  | 2 => s.bnStart 2 State.bnExtend
  | 3 => s.bnStart 3 State.bnEnroll
  | 4 => s.bnStart 4 State.bnArb
  | 5 => s.bnStart 5 State.bnCert
  | 6 => s.bnStart 6 State.bnZcert
  | 7 => s.bnStart 7 State.bnZcmd
  | _ => s

def execBnQuote (s : State) : Host.Outcome State Fault Refusal := .next (s.bnCmdWrite 1)
def execBnExtend (s : State) : Host.Outcome State Fault Refusal := .next (s.bnCmdWrite 2)
def execBnEnroll (s : State) : Host.Outcome State Fault Refusal := .next (s.bnCmdWrite 3)
def execBnArb (s : State) : Host.Outcome State Fault Refusal := .next (s.bnCmdWrite 4)
def execBnCert (s : State) : Host.Outcome State Fault Refusal := .next (s.bnCmdWrite 5)
def execBnZcert (s : State) : Host.Outcome State Fault Refusal := .next (s.bnCmdWrite 6)
def execBnZcmd (s : State) : Host.Outcome State Fault Refusal := .next (s.bnCmdWrite 7)

/-! ## The end of a command -/

/-- The customer image of the previous owner goes (R541, R182): a deactivation starts, a staged image is discarded, and a check under way
of a customer image can only end in a refused signature. [log: DEDUCED 166] -/
def State.dropCustomer (s : State) : State :=
  let c := s.cirrus
  let load := c.load.map (fun l => match l.img with
    | some x => if x.base then l else ⟨1, none⟩
    | none => l)
  let s1 := ({ s with cirrus := { c with stagedCust := none, load := load } }).fset F.imgStatus_STAGED_CUST 0
  match c.act with
  | some (true, _) => s1.custClear
  | some (false, _) => { s1 with cirrus := { s1.cirrus with act := some (false, true) } }
  | none => if s1.flag F.imgStatus_CUST_ACTIVE then s1.actStart false true else s1

/-- Step 3 of an enrolment: the new slot's ACTIVE fuse, and the previous owner's revocation (R541). [log: DEDUCED 184] -/
def State.ownerActive (s : State) : State :=
  let s1 : State := { s with trust := { s.trust with owner := s.trust.newOwner, newOwner := [], active := some (s.trust.slots.length - 1) } }
  (s1.fset F.ownerStatus_ENROLLED 1).dropCustomer

/-- The fuses of an anti-rollback increment are blown and its record cleared (R486, R542). [log: DEDUCED 184] -/
def State.arbBlow (s : State) : State :=
  let s1 := s.each s.boot.journal (fun j s => match j with
    | .arb cls v => s.setArb cls (max v (s.arbOf cls)))
  { s1 with boot := { s1.boot with journal := [] } }

/-- What Zenith's reply leaves in OUT_BUF: the spec gives the reply no layout, so every word and OUT_LEN are free values.
[log: DESIGN CHOICE 8, 165] -/
def State.zenReplyOut (s : State) : State :=
  let n := s.draw
  (forN 1024 (fun j s => let v := s.draw
    v.2.wr .outBuf (v.1.setWidth 32) j) n.2).fset F.bnResult_OUT_LEN n.1.toNat

/-- The effects of a command that ends well. -/
def State.bnEffect (s : State) (r : BnRun) : State :=
  match r.cmd with
  | 2 => s.setMeas 3 r.out
  | 3 => s.ownerActive
  | 4 => s.arbBlow
  | 7 => s.zenReplyOut
  | _ => s.setOut r.out

/-- The result of ZCMD: what Zenith answered, or its absence. -/
def State.zcmdEnd (s : State) (r : BnRun) : Option BnRun :=
  if r.cmd ≠ 7 ∨ r.result ≠ 0 then some r
  else if s.zenPort = false then some { r with result := 6 }
  else match s.trust.zreply with
    | none => none
    | some 0 => some r
    | some why => some { r with result := 5, reason := why }

/-- The command in progress completes (R547): RESULT, ZEN_REASON, output, EV_BN_DONE. ZCMD waits for Zenith's reply. -/
def execBnCommandDone (s : State) : Host.Outcome State Fault Refusal :=
  .next (match s.trust.run with
    | none => s
    | some r0 => match s.zcmdEnd r0 with
      | none => s
      | some r =>
        let s1 : State := { s with trust := { s.trust with run := none, zcmd := none, zreply := none } }
        let s2 := (s1.wr .bnResult (BitVec.ofNat 32 (r.result + r.reason * 16))).fset F.bnStatus_BUSY 0
        let s3 := if r.result = 0 then s2.bnEffect r else if r.result = 5 then s2.zenReplyOut else s2
        s3.post 0x0A03 (r.cmd + r.result * 16))

end Sys2Proof.Machine
end

