-- ==== Sys2Proof/Machine/Fec.lean ====
section
/-!
DEFINITION. RS(544,514) of R39 and R44: the field GF(2¹⁰) and the generator polynomial of IEEE 802.3 Clause 91, the encoder, and the
decoder of errors and erasures. Symbols are listed in the order in which they are sent. [log: PRESUMED 190]
-/

namespace Sys2Proof.Machine

/-! ## The field -/

/-- Multiplication by α, a root of x¹⁰ + x³ + 1. [log: PRESUMED 190] -/
def gfAlpha (a : BitVec 10) : BitVec 10 := if a.getLsbD 9 then (a <<< 1) ^^^ 0x009#10 else a <<< 1

/-- The product of two field elements. -/
def gfMul (a b : BitVec 10) : BitVec 10 :=
  (List.range 10).foldr (fun k acc => gfAlpha acc ^^^ (if b.getLsbD k then a else 0#10)) 0#10

/-- α to a power. -/
def gfExp (n : Nat) : BitVec 10 := (List.range (n % 1023)).foldl (fun a _ => gfAlpha a) 1#10

/-- The inverse of an element: its power 1,022, the product of its powers 2, 4, …, 512. -/
def gfInv (a : BitVec 10) : BitVec 10 :=
  ((List.range 9).foldl (fun (x : BitVec 10 × BitVec 10) _ => let q := gfMul x.1 x.1
    (q, gfMul x.2 q)) (a, 1#10)).2

/-! ## Polynomials over the field, lowest coefficient first -/

/-- The sum of two polynomials. -/
def gfAdd : List (BitVec 10) → List (BitVec 10) → List (BitVec 10)
  | [], q => q
  | p, [] => p
  | a :: p, b :: q => (a ^^^ b) :: gfAdd p q

/-- A polynomial times a field element. -/
def gfScale (c : BitVec 10) (p : List (BitVec 10)) : List (BitVec 10) := p.map (gfMul c)

/-- The product of two polynomials. -/
def gfTimes (p q : List (BitVec 10)) : List (BitVec 10) := p.foldr (fun a acc => gfAdd (gfScale a q) (0#10 :: acc)) []

/-- The value of a polynomial at a point. -/
def gfEval (p : List (BitVec 10)) (x : BitVec 10) : BitVec 10 := p.foldr (fun a acc => gfMul acc x ^^^ a) 0#10

/-- A polynomial without its highest coefficients that are 0. -/
def gfTrim (p : List (BitVec 10)) : List (BitVec 10) := (p.reverse.dropWhile (fun a => decide (a = 0#10))).reverse

/-- The formal derivative: the odd coefficients, one place lower. -/
def gfDeriv (p : List (BitVec 10)) : List (BitVec 10) :=
  (List.range (p.length - 1)).map (fun k => if k % 2 = 0 then p.getD (k + 1) 0#10 else 0#10)

/-! ## The encoder -/

/-- The generator polynomial, the product of x − α^j for j from 0 to 29. [log: PRESUMED 190] -/
def rsGen : List (BitVec 10) := (List.range 30).foldl (fun g j => gfTimes g [gfExp j, 1#10]) [1#10]

/-- One message symbol enters the encoder's register, highest parity symbol first. -/
def rsShift (g : List (BitVec 10)) (reg : List (BitVec 10)) (m : BitVec 10) : List (BitVec 10) :=
  let f := m ^^^ reg.headD 0#10
  gfAdd (reg.drop 1 ++ [0#10]) (gfScale f g)

/-- The codeword of a message of 514 symbols: the message and 30 parity symbols (R39). -/
def rsEncode (msg : List (BitVec 10)) : List (BitVec 10) :=
  msg ++ msg.foldl (rsShift (rsGen.reverse.drop 1)) (List.replicate 30 0#10)

/-! ## The decoder -/

/-- The syndromes of a received word: its value at α^j for j from 0 to 29. -/
def rsSyndromes (w : List (BitVec 10)) : List (BitVec 10) :=
  (List.range 30).map (fun j => let x := gfExp j
    w.foldl (fun acc a => gfMul acc x ^^^ a) 0#10)

/-- The word is a codeword. -/
def rsGood (w : List (BitVec 10)) : Bool := (rsSyndromes w).all (fun a => decide (a = 0#10))

/-- The locator of the place `i` of a word of 544 symbols. -/
def rsLocator (i : Nat) : BitVec 10 := gfExp (543 - i)

/-- The remainder and quotient of a division by a polynomial whose highest coefficient is not 0. -/
def gfDivide (b : List (BitVec 10)) (fuel : Nat) (a q : List (BitVec 10)) : List (BitVec 10) × List (BitVec 10) :=
  match fuel with
  | 0 => (a, q)
  | fuel + 1 =>
    let r := gfTrim a
    if r.length < b.length then (r, q)
    else
      let c := gfMul (r.getLastD 0#10) (gfInv (b.getLastD 1#10))
      let t := List.replicate (r.length - b.length) 0#10 ++ [c]
      gfDivide b fuel (gfTrim (gfAdd r (gfTimes t b))) (gfAdd q t)

/-- Euclid's algorithm on two remainders with their multipliers, until the remainder has fewer than `bound` coefficients. -/
def rsEuclid (bound fuel : Nat) (r0 r1 t0 t1 : List (BitVec 10)) : List (BitVec 10) × List (BitVec 10) :=
  match fuel with
  | 0 => (r1, t1)
  | fuel + 1 =>
    if r1.length ≤ bound ∨ r1 = [] then (r1, t1)
    else
      let d := gfDivide r1 31 r0 []
      rsEuclid bound fuel r1 d.1 t1 (gfTrim (gfAdd t0 (gfTimes d.2 t1)))

/-- The word corrected for e errors and the given erasures, or none where no codeword lies within 2e + f ≤ 30 (R44). A result is
checked: it is a codeword, and it differs from the word in no more places than the bound admits. -/
def rsDecode (w : List (BitVec 10)) (erased : List Nat) : Option (List (BitVec 10)) :=
  let s := rsSyndromes w
  let gamma := erased.foldl (fun g i => gfTimes g [1#10, rsLocator i]) [1#10]
  let xi := gfTrim ((gfTimes s gamma).take 30)
  let x30 := List.replicate 30 0#10 ++ [1#10]
  let r := rsEuclid ((30 + erased.length) / 2) 31 x30 xi [] [1#10]
  let sigma := gfTimes gamma r.2
  let dsigma := gfDeriv sigma
  let fixed := (List.range 544).zipWith (fun i a =>
    let xinv := gfInv (rsLocator i)
    if gfEval sigma xinv = 0#10 then
      a ^^^ gfMul (rsLocator i) (gfMul (gfEval r.1 xinv) (gfInv (gfEval dsigma xinv)))
    else a) w
  let wrong := ((List.range 544).filter (fun i => decide (fixed.getD i 0#10 ≠ w.getD i 0#10) && !erased.contains i)).length
  if rsGood fixed = true ∧ 2 * wrong + erased.length ≤ 30 then some fixed else none

/-- The places of the least reliable symbols of a word, at most `n` of them, the earlier first among equals (R44).
[log: DESIGN CHOICE 191] -/
def leastReliable (n : Nat) (rel : List Nat) : List Nat :=
  match n with
  | 0 => []
  | n + 1 => match rel.min? with
    | none => []
    | some m =>
      let i := rel.idxOf m
      let rest := leastReliable n (rel.eraseIdx i)
      i :: rest.map (fun k => if k < i then k else k + 1)

/-- What a codeword's decode gives (R44): the symbols corrected, or none when it is uncorrectable; with erasures first when they are
enabled, then without. -/
def rsReceive (eraseEn : Bool) (eraseMax : Nat) (w : List (BitVec 10)) (rel : List Nat) : Option (List (BitVec 10)) :=
  let plain := rsDecode w []
  if eraseEn then
    match rsDecode w (leastReliable (min eraseMax 16) rel) with
    | some c => some c
    | none => plain
  else plain

end Sys2Proof.Machine
end

