-- ==== Sys2Proof/Machine/Pcs.lean ====
section
/-!
DEFINITION. What lies between the MAC and the lanes (02_lanes_ports_links.md): the 425 lane format of R38 to R44 in both directions, the
pattern generators and checkers of R64 and R65, and what the transmit pins carry (R66).
-/

namespace Sys2Proof.Machine

def State.lane (s : State) (l : Nat) : LaneSt := tget s.link.lanes l {}
def State.setLane (s : State) (l : Nat) (v : LaneSt) : State :=
  { s with link := { s.link with lanes := tset s.link.lanes l {} v } }
def State.port (s : State) (p : Nat) : PortSt := tget s.link.ports p {}
def State.setPort (s : State) (p : Nat) (v : PortSt) : State :=
  { s with link := { s.link with ports := tset s.link.ports p {} v } }

/-! ## 64b/66b and 256b/257b (R38) -/

/-- The block of eight idle characters. [log: PRESUMED 190] -/
def idleBlk : Blk := ⟨false, 0x1E#64⟩

/-- The control block that carries a local-fault ordered set. [log: PRESUMED 190] -/
def localFaultBlk : Blk := ⟨false, 0x0100004B#64⟩

/-- The type of the control block that ends a frame with `n` data bytes. [log: PRESUMED 190] -/
def termType (n : Nat) : Nat := [0x87, 0x99, 0xAA, 0xB4, 0xCC, 0xD2, 0xE1, 0xFF].getD n 0x87

/-- The blocks of the bytes after the start block: data blocks, and the block that ends the frame. -/
def bodyBlks (bs : List Byte) (fuel : Nat) : List Blk :=
  match fuel with
  | 0 => []
  | fuel + 1 =>
    if bs.length < 8 then [⟨false, BitVec.ofNat 64 (termType bs.length + 256 * leNat bs)⟩]
    else ⟨true, BitVec.ofNat 64 (leNat (bs.take 8))⟩ :: bodyBlks (bs.drop 8) fuel

/-- A frame, destination address to FCS, as 64b/66b blocks: start, preamble and delimiter, data, end (R38). [log: PRESUMED 190] -/
def frameBlks (bs : List Byte) : List Blk := ⟨false, 0xD555555555555578#64⟩ :: bodyBlks bs (bs.length / 8 + 1)

/-- Fields of the given widths laid one after the other, the first lowest. -/
def packBits (fs : List (Nat × Nat)) : Nat := fs.foldr (fun f acc => f.1 % 2 ^ f.2 + 2 ^ f.2 * acc) 0

/-- Four 66-bit blocks as one of 257 bits: a leading 1 and four data blocks, or a leading 0, the four kinds, and the blocks without the second
nibble of the first control block's type. [log: PRESUMED 190] -/
def transcode (bs : List Blk) : BitVec 257 :=
  BitVec.ofNat 257 (
    if bs.all (fun b => b.data) then packBits ((1, 1) :: bs.map (fun b => (b.body.toNat, 64)))
    else
      let c := bs.findIdx (fun b => !b.data)
      packBits ((0, 1) :: bs.map (fun b => (b2n b.data, 1)) ++ bs.zipIdx.flatMap (fun x =>
        if x.2 = c then [(x.1.body.toNat, 4), (x.1.body.toNat / 256, 56)] else [(x.1.body.toNat, 64)])))

/-- One bit through the scrambler 1 + x³⁹ + x⁵⁸. [log: PRESUMED 190] -/
def scrambleBit (st : BitVec 58) (d : Bool) : BitVec 58 × Bool :=
  let o := xor d (xor (st.getLsbD 38) (st.getLsbD 57))
  ((st <<< 1) ||| (if o then 1#58 else 0#58), o)

/-- A 257-bit block through the scrambler, bit 0 first. -/
def scramble (st : BitVec 58) (x : BitVec 257) : BitVec 58 × BitVec 257 :=
  (List.range 257).foldl (fun (a : BitVec 58 × BitVec 257) i =>
    let r := scrambleBit a.1 (x.getLsbD i)
    (r.1, if r.2 then a.2 ||| BitVec.ofNat 257 (2 ^ i) else a.2)) (st, 0#257)

/-! ## Markers and interleave blocks (R39–R41, R43) -/

/-- Symbols of ten bits of a message, the lowest first. -/
def symbolsOf (n k : Nat) : List (BitVec 10) := (List.range k).map (fun i => BitVec.ofNat 10 (n >>> (10 * i)))

/-- One step of a pattern register whose bit 0 is the newest bit: the next bit, and the register with it. -/
def prbsStep (taps : List Nat) (reg : Nat) : Bool × Nat :=
  let b := taps.foldl (fun b k => xor b (bitAt reg (k - 1))) false
  (b, (2 * reg + b2n b) % 2 ^ taps.headD 1)

/-- The next `n` bits of a pattern register. -/
def prbsBits (taps : List Nat) (reg n : Nat) : List Bool × Nat :=
  match n with
  | 0 => ([], reg)
  | n + 1 =>
    let x := prbsStep taps reg
    let r := prbsBits taps x.2 n
    (x.1 :: r.1, r.2)

/-- The powers of the polynomial of a POLY code (R64, R89), the highest first. -/
def prbsTaps (poly : Nat) : List Nat :=
  match poly with
  | 0 => [7, 6]
  | 1 => [13, 12, 2, 1]
  | 2 => [23, 18]
  | _ => [31, 28]

/-- The number whose bits are given, the first lowest. -/
def bitsNat (bs : List Bool) : Nat := bs.foldr (fun b n => b2n b + 2 * n) 0

/-- FILL of R41: the first 5,052 bits of PRBS31 from the all-ones state. [log: DEDUCED 213] -/
def markerFill : Nat := bitsNat (prbsBits (prbsTaps 3) (2 ^ 31 - 1) 5052).1

/-- The 5,140 bits of a marker message from those below FILL (R41). -/
def markerMessage (head : Nat) : Nat := head % 2 ^ 88 + 2 ^ 88 * markerFill

/-- The symbols of four codewords in the order of R40: A0, B0, C0, D0, A1 and so on. -/
def interleave (cws : List (List (BitVec 10))) : List (BitVec 10) :=
  (List.range 544).flatMap (fun i => cws.map (fun c => c.getD i 0#10))

/-- The bit pairs G = 2s + f of a symbol, in the order they are sent (R43). -/
def pairsOf (x : BitVec 10) : List Nat := (List.range 5).map (fun k => x.toNat / 4 ^ k % 4)

/-- The PAM4 level of P (R43). -/
def pamLevel (p : Nat) : Int := 2 * (p : Int) - 3

/-- A codeword enters a lane's interleave block; the fourth one completes it, and it is sent. A block that begins the count of 4,096 starts with
the marker message (R40, R41, R43). -/
def LaneTx.put (x : LaneTx) (idx wc : Nat) (cw : List (BitVec 10)) : LaneTx :=
  let x1 := if x.cws.isEmpty && x.pos = 0 then
      let h := markerHead idx wc (b2n x.ei) (b2n x.wake) x.seq.toNat
      { x with cws := [rsEncode (symbolsOf (markerMessage h) 514)], marker := h, seq := x.seq + 1, ei := false, wake := false }
    else x
  let cws := x1.cws ++ [cw]
  if cws.length < 4 then { x1 with cws := cws }
  else
    let out := innerEncode x1.p ((interleave cws).flatMap pairsOf)
    { x1 with cws := [], pos := (x1.pos + 1) % 4096, out := out, p := out.getLastD x1.p }

/-! ## The transmit stream of a port (R38, R42) -/

def LinkSt.lane (k : LinkSt) (l : Nat) : LaneSt := tget k.lanes l {}
def LinkSt.setLane (k : LinkSt) (l : Nat) (v : LaneSt) : LinkSt := { k with lanes := tset k.lanes l {} v }

/-- A message of 20 scrambled blocks goes to the lane whose turn it is, and a marker message that lane sends before it is owed 80 idle blocks. -/
def LinkSt.sendMessage (k : LinkSt) (p wc : Nat) (msg : List (BitVec 257)) : LinkSt :=
  let q := tget k.ports p {}
  let l := p + q.tx.next
  let x := (k.lane l).tx
  let owed := if x.cws.isEmpty && x.pos = 0 then 80 else 0
  let cw := rsEncode (symbolsOf (packBits (msg.map (fun b => (b.toNat, 257)))) 514)
  let k1 := k.setLane l { k.lane l with tx := x.put q.tx.next wc cw }
  { k1 with ports := tset k1.ports p {} { q with tx := { q.tx with
      msg := [], next := (q.tx.next + 1) % 2 ^ wc, debt := q.tx.debt + owed } } }

/-- A 66-bit block enters the stream: an idle block while some are owed is deleted; the fourth one is transcoded and scrambled, and the 20th
block of 257 bits completes a message. -/
def LinkSt.sendBlk (k : LinkSt) (p wc : Nat) (b : Blk) : LinkSt :=
  let q := tget k.ports p {}
  let put (t : PortTx) : LinkSt := { k with ports := tset k.ports p {} { q with tx := t } }
  if b = idleBlk ∧ 0 < q.tx.debt then put { q.tx with debt := q.tx.debt - 1 }
  else
    let blks := q.tx.blks ++ [b]
    if blks.length < 4 then put { q.tx with blks := blks }
    else
      let x := scramble q.tx.scr (transcode blks)
      let msg := q.tx.msg ++ [x.2]
      let k1 := put { q.tx with scr := x.1, blks := [], msg := msg }
      if msg.length < 20 then k1 else k1.sendMessage p wc msg

/-- Blocks enter the stream of a port that runs the 425 lane format. [log: DESIGN CHOICE 192] -/
def State.sendBlks (s : State) (p : Nat) (bs : List Blk) : State :=
  { s with link := if (tget s.link.ports p {}).fec = .inner then
      bs.foldl (fun k b => k.sendBlk p (s.fget F.portCfg_WIDTH p) b) s.link else s.link }

/-- What a port has sent since the frame before, and the frame: activity of its LED starts again (R38, R74). -/
def State.frameOut (s : State) (p idle : Nat) (bytes : List Byte) : State :=
  let s1 := s.sendBlks p (List.replicate idle idleBlk ++ frameBlks bytes)
  s1.setPort p { s1.port p with lastFrame := s.time.ticks + 1 }

/-- The streams of a port and its lanes as training leaves them: P is 0 (R43); the scrambler's state and MARK_SEQ are values the spec does not
state. [log: DESIGN CHOICE 8, 192] -/
def State.streamStart (s : State) (p : Nat) (ls : List Nat) : State :=
  let d := s.draw
  let e := d.2.draw
  let s1 := e.2.setPort p { e.2.port p with tx := { scr := d.1.setWidth 58 }, rxIdle := 0 }
  s1.each ls (fun l s => s.setLane l { s.lane l with tx := { seq := e.1.setWidth 16 } })

/-- The symbols T of the wake burst: 65,536 UI of PRBS13, Gray-mapped (R59). [log: DESIGN CHOICE 46] -/
def burstPairs (bs : List Bool) : List Nat :=
  match bs with
  | f :: r => match r with
    | x :: r => (b2n f + 2 * b2n x) :: burstPairs r
    | [] => []
  | [] => []

/-- The wake burst on a port's lanes: P is 0 at its first symbol, the marker count starts again and the next marker carries WAKE (R43, R59).
[log: DESIGN CHOICE 46] -/
def State.wakeBurst (s : State) (ls : List Nat) : State :=
  let d := s.draw
  let out := innerEncode 0 (burstPairs (prbsBits (prbsTaps 1) (d.1.toNat % 8191 + 1) 131072).1)
  d.2.each ls (fun l s => s.setLane l { s.lane l with tx := { (s.lane l).tx with
    cws := [], pos := 0, ei := false, wake := true, p := out.getLastD 0, out := out } })

/-! ## The receive direction (R44) -/

/-- The UI of an interleave block as (T, reliability): T(j) = (P(j) + P(j − 1)) mod 4 (R43). -/
def detectT (p : Nat) (uis : List (Nat × Nat)) : List (Nat × Nat) :=
  match uis with
  | [] => []
  | (q, r) :: rest => ((q + p) % 4, r) :: detectT q rest

/-- The symbols of an interleave block with their reliability, that of the least reliable of their five UI. -/
def rxSymbols (ts : List (Nat × Nat)) : List (BitVec 10 × Nat) :=
  (List.range 2176).map (fun i =>
    let u := (ts.drop (5 * i)).take 5
    (BitVec.ofNat 10 (u.foldr (fun x n => grayInv x.1 + 4 * n) 0), u.foldl (fun m x => min m x.2) (u.headD (0, 0)).2))

/-- What the decoders find in an interleave block: for each of its four codewords the symbols corrected, none for an uncorrectable one. -/
def rxBlock (eraseEn : Bool) (eraseMax p0 : Nat) (uis : List (Nat × Nat)) : List (Option Nat) :=
  let x := rxSymbols (detectT p0 uis)
  (List.range 4).map (fun c =>
    let w := (List.range 544).map (fun i => x.getD (4 * i + c) (0#10, 0))
    let syms := w.map (fun a => a.1)
    (rsReceive eraseEn eraseMax syms (w.map (fun a => a.2))).map (fun g =>
      ((g.zip syms).filter (fun a => decide (a.1 ≠ a.2))).length))

/-- A decoded codeword of a lane is counted (R44, R57, R78): corrected or uncorrectable, its symbols, and the lane's window. -/
def State.countCw (s : State) (p l : Nat) (r : Option Nat) : State :=
  let n := r.getD 0
  let s1 := if r = none then s.bump .fecCwUncorr p else if n = 0 then s else (s.bump .fecCwCorr p).bump .fecSymCorr p 0 n
  let x := s1.lane l
  s1.setLane l (if x.serCws + 1 < 8192 then { x with serCws := x.serCws + 1, serSyms := x.serSyms + n }
    else { x with serCws := 0, serSyms := 0 })

/-- What the decoders find in a unit: the lane's index and the codewords' outcomes; a unit that the port's FEC does not have is none. At the standard
rates the PCS of IEEE 802.3 brings its outcome. [log: DESIGN CHOICE 188] -/
def State.fecUnit (s : State) (p : Nat) (u : FecUnit) : Nat × List (Option Nat) :=
  match u, (s.port p).fec with
  | .block lane p0 uis, .inner =>
    (lane, rxBlock (s.flag F.portCfg_ERASE_EN p) (s.fget F.portCfg_ERASE_MAX p) p0 (uis.map (fun x => (x.1.val, x.2))))
  | .word n bad, .baseR => (0, [if bad then none else some n])
  | .word n bad, .rs528 => (0, [if bad then none else some n])
  | .word n bad, .rs544 => (0, [if bad then none else some n])
  | _, _ => (0, [])

/-- The codewords that carried a frame are decoded and counted (R44). -/
def State.fecReceive (s : State) (p : Nat) (us : List FecUnit) : State :=
  s.each us (fun u s => let r := s.fecUnit p u
    s.each r.2 (fun c s => s.countCw p (p + r.1) c))

/-- No codeword that carried the frame is uncorrectable: otherwise its blocks are marked as errored, and it reaches the MAC with a bad FCS. -/
def State.fecGood (s : State) (p : Nat) (us : List FecUnit) : Bool := us.all (fun u => (s.fecUnit p u).2.all (fun c => c.isSome))

/-! ## Test patterns (R64, R65, R89) -/

/-- The rate of the port that holds a lane is a PAM4 rate (R32). -/
def State.lanePam4 (s : State) (l : Nat) : Bool :=
  match s.portOfLane l with
  | some (p, _) => decide (s.fget F.portStatus_RATE_RES p < 4)
  | none => true

/-- Inverted polarity: every bit in NRZ; in PAM4 the levels are mirrored, which in the Gray map of R43 inverts the second bit of each pair. -/
def invertPol (pam4 : Bool) (bs : List Bool) : List Bool :=
  bs.zipIdx.map (fun x => if pam4 && x.2 % 2 = 0 then x.1 else !x.1)

/-- The generator of a lane begins from a state that is not all zeros and that the spec does not state. [log: DESIGN CHOICE 8] -/
def State.genStart (s : State) (l : Nat) : State :=
  let d := s.draw
  let n := (prbsTaps (s.fget F.prbsCtl_POLY l)).headD 7
  d.2.setLane l { d.2.lane l with gen := d.1.toNat % (2 ^ n - 1) + 1, genBits := 0, injDue := 0 }

/-- The period of injected errors in bits; smaller values act as 4 (R65, R89). -/
def State.injPeriod (s : State) (l : Nat) : Nat := 2 ^ max 4 (s.fget F.prbsCtl_INJ_PERIOD l)

/-- The next bit of a lane's generator, with the errors due (R64, R65). -/
def genBit (taps : List Nat) (inv periodic : Bool) (period : Nat) (x : LaneSt) : Bool × LaneSt :=
  let r := prbsStep taps x.gen
  let due := periodic && decide (period ≤ x.genBits + 1)
  let err := due || decide (0 < x.injDue)
  (xor (xor r.1 inv) err, { x with
    gen := r.2, genBits := if due then 0 else x.genBits + 1
    injDue := if due then x.injDue else x.injDue - 1, injected := if due then x.injected + 1 else x.injected })

/-- The next `n` bits of a lane's generator. -/
def genTake (taps : List Nat) (inv periodic : Bool) (period n : Nat) (x : LaneSt) : List Bool × LaneSt :=
  match n with
  | 0 => ([], x)
  | n + 1 =>
    let r := genBit taps inv periodic period x
    let q := genTake taps inv periodic period n r.2
    (r.1 :: q.1, q.2)

/-- The bit a pattern register predicts, from the bits before it, newest first. -/
def prbsPredict (taps : List Nat) (hist : List Bool) : Bool := taps.foldl (fun b k => xor b (hist.getD (k - 1) false)) false

/-- A bit reaches a checker (R64): it seeds itself, locks after 64 matches in a row, then runs on its own and notes each error; 32 errors within 64
bits lose the lock, and it seeds itself again. The answer: errors counted, and what becomes of the lock. -/
def Checker.bit (c : Checker) (taps : List Nat) (locked b : Bool) : Checker × Bool × Bool :=
  let n := taps.headD 7
  if locked then
    let r := prbsStep taps c.reg
    let err := decide (r.1 ≠ b)
    let errs := (err :: c.errs).take 64
    if 32 ≤ (errs.filter id).length then ({}, err, false) else ({ c with reg := r.2, errs := errs }, err, true)
  else if c.hist.length < n then ({ c with hist := b :: c.hist }, false, false)
  else
    let run := if prbsPredict taps c.hist = b then c.run + 1 else 0
    let hist := (b :: c.hist).take n
    if 64 ≤ run then ({ reg := bitsNat hist }, false, true) else ({ c with hist := hist, run := run }, false, false)

/-- A lane's checker takes a bit: PRBS_ERR, CHK_LOCK and LOCK_LOST (R64, R82, R89). -/
def State.checkBit (s : State) (l : Nat) (b : Bool) : State :=
  let locked := s.flag F.prbsStatus_CHK_LOCK l
  let r := (s.lane l).chk.bit (prbsTaps (s.fget F.prbsCtl_POLY l)) locked (xor b (s.flag F.prbsCtl_INV l))
  let n := (s.rdw .prbsErr l).toNat
  let s1 := (s.setLane l { s.lane l with chk := r.1 }).fset F.prbsStatus_CHK_LOCK (b2n r.2.2) l
  let s2 := if r.2.1 then s1.wrw .prbsErr (BitVec.ofNat 64 (min (n + 1) (2 ^ 64 - 1))) l else s1
  if locked && !r.2.2 then s2.fset F.prbsStatus_LOCK_LOST 1 l else s2

/-- The bits a lane's receiver is given when those in `rx` reach its pins: with LOOP at 1 or 2 its own generator's (R66). A loop through the
serial path keeps both polarities. -/
def State.rxBits (s : State) (l : Nat) (rx : List Bool) : List Bool × State :=
  let pam := s.lanePam4 l
  let own := s.flag F.prbsCtl_GEN_EN l && (decide (s.fget F.laneCtl_LOOP l = 1) || decide (s.fget F.laneCtl_LOOP l = 2))
  let g := genTake (prbsTaps (s.fget F.prbsCtl_POLY l)) (s.flag F.prbsCtl_INV l) (decide (s.fget F.prbsCtl_INJ_MODE l = 2)) (s.injPeriod l)
    rx.length (s.lane l)
  let bs := if own then (if s.fget F.laneCtl_LOOP l = 1 ∧ s.flag F.laneCtl_TX_POL l = true then invertPol pam g.1 else g.1) else rx
  (if s.flag F.laneCtl_RX_POL l && !(own && decide (s.fget F.laneCtl_LOOP l = 2)) then invertPol pam bs else bs,
    if own then s.setLane l g.2 else s)

/-- Bits reach a lane: its checker takes them while CHK_EN is 1 (R64). -/
def State.patternIn (s : State) (l : Nat) (rx : List Bool) : State :=
  if s.flag F.prbsCtl_CHK_EN l then let r := s.rxBits l rx
    r.2.each r.1 (fun b s => s.checkBit l b) else s

/-- What the transmit pins of a lane carry (R66, R83): nothing while TX_SQUELCH forces the transmitter off; in near-end parallel loopback PRBS31; in
far-end loopback the partner's data; otherwise what the transmitter is given. -/
def State.pins (s : State) (l : Nat) : LineSig :=
  if s.flag F.laneCtl_TX_SQUELCH l ∨ (s.lane l).line = .off then .off
  else match s.fget F.laneCtl_LOOP l with
    | 2 => .prbs31
    | 3 => .partner
    | _ => if s.flag F.prbsCtl_GEN_EN l ∧ (s.lane l).line = .data then .pattern else (s.lane l).line

end Sys2Proof.Machine
end

