-- ==== Sys2Proof/Machine/Lanes.lean ====
section
/-!
DEFINITION. Lanes, ports and the front panel (02_lanes_ports_links.md): the port state machine of R56, negotiation, training,
electrical idle and the deep state, eye scan, test patterns, cages, mailbox and LED stream.
-/

namespace Sys2Proof.Machine

/-! ## Shared operations -/

def State.cage (s : State) (k : Nat) : CageSt := tget s.link.cages k {}
def State.setCage (s : State) (k : Nat) (v : CageSt) : State :=
  { s with link := { s.link with cages := tset s.link.cages k {} v } }
def State.i2cOf (s : State) (m : Nat) : I2cSt := tget s.link.i2c m {}
def State.setI2c (s : State) (m : Nat) (v : I2cSt) : State :=
  { s with link := { s.link with i2c := tset s.link.i2c m {} v } }

/-- The lanes of port `p` at its width (R11, R35). -/
def State.portLanes (s : State) (p : Nat) : List Nat := List.range' p (2 ^ s.fget F.portCfg_WIDTH p)

/-- The family of a lane rate: 0 PAM4 for codes 0 to 3, 1 NRZ for 4 and 5 (R32). -/
def familyOf (rate : Nat) : Nat := if rate < 4 then 0 else 1

/-- The family of the transmit group that port `p` lies in (R33, R77). -/
def State.groupFamily (s : State) (p : Nat) : Nat :=
  b2n (bitAt (s.fget F.txgrpCfg_FAMILY (p / 64)) (p % 64 / 8))

/-- The pairs of rate and width that R35 marks "—": an NRZ rate on 2 or 8 lanes. -/
def badPair (rate width : Nat) : Bool := decide (4 ≤ rate) && (decide (width = 1) || decide (width = 3))

/-- The rates negotiation may use: those ALLOW names that lie in the group's family and form a valid pair (R36), and in
Horizon mode only 53.125 Gb/s and slower (R490). -/
def State.anRates (s : State) (p : Nat) : List Nat :=
  (List.range 6).filter (fun k => bitAt (s.fget F.portCfg_ALLOW p) k && decide (familyOf k = s.groupFamily p) &&
    !badPair k (s.fget F.portCfg_WIDTH p) && (!s.flag F.dawnStatus_HORIZON || decide (3 ≤ k)))

/-- Two lane ranges meet. -/
def rangesMeet (a n b m : Nat) : Bool := decide (a < b + m) && decide (b < a + n)

/-- The check of R36 for port `p` as configured: the first cause in the order listed, 0 when it passes. [log: DEDUCED 39] -/
def State.cfgCause (s : State) (p : Nat) : Nat :=
  let wc := s.fget F.portCfg_WIDTH p
  let w := 2 ^ wc
  let rate := s.fget F.portCfg_RATE p
  let an := s.flag F.portCfg_AN p
  let fam := s.groupFamily p
  let allowed := (List.range 6).filter (fun k => bitAt (s.fget F.portCfg_ALLOW p) k && decide (familyOf k = fam))
  let overlap := (List.range 512).any (fun q => decide (q ≠ p) && s.flag F.portCfg_EN q &&
    decide (s.fget F.portStatus_STATE q ≠ 9) && rangesMeet p w q (2 ^ s.fget F.portCfg_WIDTH q))
  if p % w ≠ 0 then 1
  else if overlap then 2
  else if (if an then allowed.isEmpty else decide (rate < 6) && decide (familyOf rate ≠ fam)) then 3
  else if 6 ≤ rate ∨ s.fget F.portCfg_NRZ_FEC p = 3 then 4
  else if (if an then allowed.all (fun k => badPair k wc) else badPair rate wc) then 5
  else 0

/-- What the transmitters of these lanes are given to send from now on. -/
def State.driveLanes (s : State) (ls : List Nat) (sig : LineSig) : State :=
  s.each ls (fun l s => s.setLane l { s.lane l with line := sig })

/-- The FEC of a rate, a width code and NRZ_FEC, as far as R32 and R35 permit: a choice they do not permit is none. [log: DEDUCED 193] -/
def fecOf (rate wc nrz : Nat) : FecKind :=
  match rate with
  | 0 => .inner
  | 1 => .rs544
  | 2 => .rs544
  | 3 => .rs544
  | 4 => if nrz = 2 then .rs528 else if nrz = 1 ∧ wc = 0 then .baseR else .off
  | _ => if nrz = 1 ∧ wc = 0 then .baseR else .off

/-- PCS or FEC lanes of the IEEE 802.3 PCS that each lane carries, bit-multiplexed (R35); 1 in the 425 lane format. [log: PRESUMED 214] -/
def pcsOf (rate wc : Nat) (fec : FecKind) : Nat :=
  match rate with
  | 0 => 1
  | 1 => if wc = 3 then 2 else 8
  | 2 => 4
  | 3 => 2
  | 4 => if wc = 2 ∧ fec = .off then 5 else 1
  | _ => 1

/-- A running eye-scan point of these lanes ends with ABORT (R63). -/
def State.abortEyes (s : State) (ls : List Nat) : State :=
  s.each ls (fun l s => if (s.lane l).eyeRun then
    ((s.setLane l { s.lane l with eyeRun := false }).fset F.eyeResult_DONE 1 l).fset F.eyeResult_STATUS 2 l else s)

/-- The port takes a state; LINK_UP reads 1 in UP (R80). -/
def State.portTo (s : State) (p st : Nat) : State :=
  (s.fset F.portStatus_STATE st p).fset F.portStatus_LINK_UP (b2n (decide (st = 5))) p

/-- Everything that ends when a port leaves UP: idle states, received faults, a frame being received (R57, R273). -/
def State.linkEnds (s : State) (p : Nat) : State :=
  let s1 := ((s.fset F.portStatus_TX_EI 0 p).fset F.portStatus_RX_EI 0 p).setPort p { s.port p with faultRx := 0 }
  ((s1.each (s.portLanes p) (fun l s => s.setLane l { s.lane l with
    announced := false, tx := { (s.lane l).tx with ei := false, wake := false } })).ingressLinkLost p).egressDown p

/-- An UP port goes down with a cause: DOWN_CAUSE and EV_LINK_DOWN (R57, R75). Only leaving UP posts. [log: DEDUCED 36] -/
def State.leaveUp (s : State) (p cause : Nat) : State :=
  if s.fget F.portStatus_STATE p = 5 then
    ((s.fset F.portStatus_DOWN_CAUSE cause p).postLane 0x0111 p cause).linkEnds p
  else s

/-- Bytes of EQ_HIST words 0 to 30 of a lane, each word least significant byte first (R82). -/
def State.histBytes (s : State) (l : Nat) : List Byte :=
  (List.range 31).flatMap (fun j => leBytes 4 (s.rd .eqHist l j).toNat)

/-- The format and CRC check of R53 on a lane's history. [log: DESIGN CHOICE 45] -/
def State.histGood (s : State) (l : Nat) : Bool :=
  decide (s.rd .eqHist l 0 = 2) && decide (s.rd .eqHist l 31 = crc32c (s.histBytes l))

/-- The rate and width a lane's history was taken at: word 1, rate in bits 2:0 and width code in bits 4:3. [log: DESIGN CHOICE 45] -/
def State.histMode (s : State) (l : Nat) : Nat × Nat :=
  let w := (s.rd .eqHist l 1).toNat
  (bits w 2 0, bits w 4 3)

/-- The preset each side starts the partner's transmitter from at a rate (R51). -/
def ratePreset (rate : Nat) : Nat := if rate = 0 then 5 else if rate = 1 then 4 else 2

/-- The preset that the device starts the partner's transmitter of lane `l` from (R51, R86). -/
def State.startPreset (s : State) (l rate : Nat) : Nat :=
  let n := s.fget F.adaptCtl_START_PRESET l
  if n = 0 then ratePreset rate else n

/-- Where a lane's training starts (R51–R54): from its history, words 2 to 29 of EQ_HIST, or from presets, with CTLE and DFE taps at zero. The
partner is taken to start the local transmitter from the preset of R51. [log: DESIGN CHOICE 45, DEDUCED 215] -/
def State.laneTrain (s : State) (l rate : Nat) (hist : Bool) : State :=
  let h (j : Nat) : Nat := (s.rd .eqHist l j).toNat
  let n := if rate = 0 then 24 else 12
  let q := s.lane l
  let q1 : LaneSt := { q with
    line := .training, markAt := none, missed := 0, serCws := 0, serSyms := 0, precodeTx := false
    precodeRx := (decide (rate = 1) || decide (rate = 2)) && ((s.portOfLane l).any (fun x => s.flag F.portCfg_PRECODE_REQ x.1)) }
  let s1 := if hist then
      (s.wr .txFfe (BitVec.ofNat 32 (h 2) &&& 0x7F7F7F7F#32) l).setLane l { q1 with
        partnerFfe := BitVec.ofNat 32 (h 3) &&& 0x7F7F7F7F#32, ctle := h 4 % 256
        taps := (List.range n).map (fun k => toSigned 8 (h (5 + k))), cdr := h 29 % 65536 }
    else
      (s.wr .txFfe (presetFfe (ratePreset rate)) l).setLane l { q1 with
        partnerFfe := presetFfe (s.startPreset l rate), ctle := 0, taps := List.replicate n 0, cdr := 0 }
  s1.fset F.laneStatus_MARK_LOCK 0 l

/-- Training of port `p` starts at the resolved rate on every lane in parallel, from history when R53 allows it and from presets otherwise. -/
def State.trainStart (s : State) (p rate : Nat) (allowHist : Bool) : State :=
  let ls := s.portLanes p
  let wc := s.fget F.portCfg_WIDTH p
  let want := allowHist && s.flag F.portCfg_HIST_USE p && ls.all (fun l => s.flag F.laneCtl_HIST_VALID l)
  let good := ls.all s.histGood
  let same := ls.all (fun l => decide (s.histMode l = (rate, wc)))
  let use := want && good && same
  let s1 := s.when want (fun s => s.each ls (fun l s => if s.histGood l then s else s.fset F.laneCtl_HIST_VALID 0 l))
  let s2 := s1.each ls (fun l s => if (s.histMode l).1 = rate then s else s.fset F.laneCtl_HIST_VALID 0 l)
  let s3 := s2.each ls (fun l s => s.laneTrain l rate use)
  let fec := fecOf rate wc (s.fget F.portCfg_NRZ_FEC p)
  let s4 := (((s3.portTo p 3).fset F.portStatus_RATE_RES rate p).fset F.portStatus_FIRST_TRAIN (b2n !use) p)
  (s4.setPort p { s4.port p with fromHist := use, fec := fec, pcsPerLane := pcsOf rate wc fec }).abortEyes ls

/-- The technology ability bit that IEEE 802.3 Clause 73 gives a rate and width code, on cable or backplane, as A0 to A22. [log: PRESUMED 195] -/
def techBit (rate wc : Nat) (cable : Bool) : Option Nat :=
  match rate, wc with
  | 1, 0 => some 20
  | 1, 1 => some 21
  | 1, 2 => some 22
  | 2, 0 => some 16
  | 2, 1 => some 17
  | 2, 2 => some 18
  | 2, 3 => some 19
  | 3, 0 => some 13
  | 3, 1 => some 14
  | 3, 2 => some 15
  | 4, 0 => some 10
  | 4, 2 => if cable then some 8 else some 7
  | 5, 0 => if cable then none else some 2
  | 5, 2 => if cable then some 4 else some 3
  | _, _ => none

/-- The base page (R46): the selector of IEEE 802.3, the nonce, next page, technology bits by MEDIUM, and for a 25.78125 Gb/s port the FEC ability
and request bits; the pause bits C0 and C1 are 0. [log: PRESUMED 195] -/
def State.basePage (s : State) (p nonce : Nat) : BitVec 48 :=
  let wc := s.fget F.portCfg_WIDTH p
  let tech := (s.anRates p).foldl (fun n r => match techBit r wc (s.flag F.portCfg_MEDIUM p) with
    | some a => n ||| 2 ^ (21 + a)
    | none => n) 0
  let nrz := s.fget F.portCfg_NRZ_FEC p
  let fec := if (s.anRates p).contains 4 ∧ wc = 0 then
      2 ^ 46 + (if nrz = 2 then 2 ^ 44 else if nrz = 1 then 2 ^ 45 else 0) else 0
  BitVec.ofNat 48 (1 + 2 ^ 15 + nonce % 32 * 2 ^ 16 + tech + fec)

/-- The pages a port sends (R46, R47): base page, OUI-tagged message page of code 5, and the unformatted page with the ability word.
[log: PRESUMED 195] -/
def State.anPages (s : State) (p nonce : Nat) (word : Nat) : List (BitVec 48) :=
  [s.basePage p nonce, BitVec.ofNat 48 (5 + 2 ^ 13 + 2 ^ 15 + 0x4CE193 * 2 ^ 16), BitVec.ofNat 48 (word * 2 ^ 16)]

/-- The Dereagor ability word that port `p` sends (R47). -/
def State.abilityWord (s : State) (p : Nat) : Nat :=
  2 + b2n ((s.anRates p).contains 0) * 2 ^ 4 + s.fget F.portCfg_WIDTH p * 2 ^ 5 + s.fget F.portLps_EI_EN p * 2 ^ 7 + 2 ^ 8

/-- AN, or TRAIN at the forced rate when AN is 0 (R50, R56). In AN the first lane alone drives (R46); its nonce is a value the spec does not
state. [log: DESIGN CHOICE 8] -/
def State.restart (s : State) (p : Nat) : State :=
  if s.flag F.portCfg_AN p then
    let d := s.draw
    let word := s.abilityWord p
    let s1 := ((d.2.portTo p 2).wr .anLocal (BitVec.ofNat 32 word) p).abortEyes (s.portLanes p)
    ((s1.setPort p { s1.port p with anWait := false, fromHist := false, pages := s.anPages p d.1.toNat word }).driveLanes
      (s.portLanes p) .off).driveLanes [p] .pages
  else ((s.wr .anLocal 0 p).wr .anPartner 0 p).trainStart p (s.fget F.portCfg_RATE p) true

/-- The slots whose cage is in use and holds all lanes of port `p` (R68). -/
def State.cagesOf (s : State) (p : Nat) : List Nat :=
  (List.range 128).filter (fun k => s.flag F.cageCfg_VALID k &&
    decide (s.fget F.cageCfg_FIRST_LANE k ≤ p) &&
    decide (p + 2 ^ s.fget F.portCfg_WIDTH p ≤ s.fget F.cageCfg_FIRST_LANE k + 2 ^ s.fget F.cageCfg_LANES k))

/-- The enabled ports whose lanes lie inside a cage's lanes (R68). -/
def State.cagePorts (s : State) (k : Nat) : List Nat :=
  (List.range' (s.fget F.cageCfg_FIRST_LANE k) (2 ^ s.fget F.cageCfg_LANES k)).filter
    (fun p => s.flag F.portCfg_EN p && (s.cagesOf p).contains k)

/-- The lanes of a cage. -/
def State.cageLanes (s : State) (k : Nat) : List Nat :=
  List.range' (s.fget F.cageCfg_FIRST_LANE k) (2 ^ s.fget F.cageCfg_LANES k)

/-- A lane is retired, or its tile or chiplet is out of service (R489, R490, R527). [log: DEDUCED 42] -/
def State.laneOut (s : State) (l : Nat) : Bool :=
  bitAt (s.rd .spareLane (l / 32)).toNat (l % 32) ||
    (if s.flag F.dawnStatus_HORIZON then decide (64 ≤ l) || s.flag F.dawnStatus_NOFWD else !s.tileOn (l / 32))

/-- The modes of a port that its module must advertise (R70 step 5): the forced rate, or the rates it may negotiate. -/
def State.portModes (s : State) (p : Nat) : List (Nat × Nat) :=
  (if s.flag F.portCfg_AN p then s.anRates p else [s.fget F.portCfg_RATE p]).map (fun r => (r, s.fget F.portCfg_WIDTH p))

/-- The key of a byte of a module's memory: the lower page below offset 128, a bank for pages from 10h on. [log: PRESUMED 196] -/
def cmisKey (k bank page off : Nat) : Nat :=
  ((k * 256 + if off < 128 ∨ page < 0x10 then 0 else bank % 256) * 256 + if off < 128 then 0 else page % 256) * 256 + off % 256

/-- Bytes written to a module's memory from an offset on. -/
def State.modPut (s : State) (k bank page off : Nat) (bs : List Byte) : State :=
  { s with link := { s.link with modMem := bs.zipIdx.foldl (fun m x => tset m (cmisKey k bank page (off + x.2)) 0 x.1) s.link.modMem } }

/-- The master selects the cage's multiplexer channel by one byte with only its bit set (R69). -/
def State.muxSelect (s : State) (k : Nat) : State :=
  let m := s.fget F.cageCfg_MASTER k
  if s.flag F.cageCfg_MUX_NONE k then s
  else s.setI2c m { s.i2cOf m with
    mux := tset (s.i2cOf m).mux (0x70 + s.fget F.cageCfg_MUX_ADDR k) 0 (2 ^ s.fget F.cageCfg_MUX_CH k) }

/-- The lanes of the cage, from 0, that its enabled ports use. -/
def State.cageUsed (s : State) (k : Nat) : List Nat :=
  (s.cagePorts k).flatMap (fun p => List.range' (p - s.fget F.cageCfg_FIRST_LANE k) (2 ^ s.fget F.portCfg_WIDTH p))

/-- The application, numbered from 1, that serves a port: the first advertised one among its modes. [log: DESIGN CHOICE 41] -/
def State.portApp (s : State) (k p : Nat) : Nat :=
  match (s.portModes p).findSome? (fun m => (s.cage k).apps.idxOf? m) with
  | some i => i + 1
  | none => 0

/-- Application select and data path control on page 10h (R69, R70): AppSel of each lane used, the lanes to apply it to, the lanes in use.
[log: PRESUMED 196] -/
def State.dataPaths (s : State) (k : Nat) : State :=
  let sel := (s.cagePorts k).flatMap (fun p =>
    (List.range' (p - s.fget F.cageCfg_FIRST_LANE k) (2 ^ s.fget F.portCfg_WIDTH p)).map (fun i => (i, s.portApp k p)))
  let mask := (s.cageUsed k).foldl (fun n i => n ||| 2 ^ i) 0
  let s1 := s.each sel (fun x s => s.modPut k 0 0x10 (145 + x.1) [BitVec.ofNat 8 (x.2 * 16)])
  let s2 := (s1.modPut k 0 0x10 143 [BitVec.ofNat 8 mask]).modPut k 0 0x10 128 [BitVec.ofNat 8 (255 - mask % 256)]
  s2.setCage k { s2.cage k with appSel := sel, paths := mask }

/-- Step 5 of R70: the application and power checks of a ready module, and its activation or refusal. Where both checks fail, the cause is 1 alone;
a port with AN at 1 passes when any of the modes it may negotiate is advertised. A module that is active already keeps its state: only its
applications and data paths follow the ports. [log: DESIGN CHOICE 41] -/
def State.moduleSelect (s0 : State) (k : Nat) : State :=
  let s := s0.muxSelect k
  let c := s.cage k
  let active := decide (s.fget F.cageStatus_MSTATE k = 5)
  let refuse (cause : Nat) : State := (if active then s else s.fset F.cageStatus_MSTATE 6 k).postLane 0x0105 k cause
  let appsOk := (s.cagePorts k).all (fun p => (s.portModes p).any (fun m => c.apps.contains m))
  if !appsOk then refuse 1
  else if s.fget F.cageCfg_PWR_MAX k < c.power then refuse 2
  else if active then s.dataPaths k
  else (((s.setCage k { c with lpm := false, activating := true }).dataPaths k)).fset F.cageStatus_MSTATE 4 k

/-- What an access of the device's own does when its turn has come (R70, R72). -/
def State.ownRun (s : State) (a : OwnAccess) : State :=
  match a with
  | .poll k ready ident apps power =>
    if ready = true ∧ s.fget F.cageStatus_MSTATE k = 3 then
      let s1 := (s.muxSelect k).setCage k { s.cage k with ident := ident, apps := apps, power := power }
      ((s1.fset F.cageStatus_MSTATE 4 k).postLane 0x0103 k 0).moduleSelect k
    else s.muxSelect k
  | .select k =>
    if 4 ≤ s.fget F.cageStatus_MSTATE k ∧ s.fget F.cageStatus_MSTATE k ≤ 6 then s.moduleSelect k else s
  | .flags k fs =>
    let s1 := (s.muxSelect k).fset F.cageStatus_INT 0 k
    if fs.any (fun f => f.1 && !f.2) then s1.postLane 0x0104 k 2 else s1

/-- An access of the device's own to cage `k` (R73): it waits for a mailbox access under way on its master; otherwise those that wait and then it
run. [log: DESIGN CHOICE 43] -/
def State.ownAccess (s : State) (k : Nat) (a : OwnAccess) : State :=
  let m := s.fget F.cageCfg_MASTER k
  let q := s.i2cOf m
  if s.flag F.modAccStatus_BUSY m then s.setI2c m { q with own := q.own ++ [a] }
  else (s.setI2c m { q with own := [] }).each (q.own ++ [a]) (fun a s => s.ownRun a)

/-- SAFE: the port sends local-fault ordered sets and goes down with cause 5 when it leaves UP (R56). [log: DEDUCED 36] -/
def State.portSafe (s : State) (p : Nat) : State :=
  let st := s.fget F.portStatus_STATE p
  if st = 0 ∨ st = 9 ∨ st = 8 then s
  else
    let s1 := ((s.leaveUp p 5).fset F.portStatus_DOWN_CAUSE 5 p).portTo p 8
    (s1.driveLanes (s.portLanes p) .localFault).abortEyes (s.portLanes p)

/-- The port that holds a lane goes to SAFE (R504). [log: DEDUCED 42, 183] -/
def State.laneSafe (s : State) (l : Nat) : State :=
  match s.portOfLane l with
  | some (p, _) => s.portSafe p
  | none => s

/-- TX_PLL_LOCK of lane `l` (R84): its chiplet's lane PLLs are calibrated (R477), and its group's has not lost lock since. -/
def State.txPllLock (s : State) (l : Nat) : Bool :=
  s.power.chipletOn && (!s.hz || decide (l < 64)) && !(s.lane (l / 8 * 8)).pllLost

/-- An UP port meets a link-down condition of R57 and negotiates or trains again. -/
def State.linkDown (s : State) (p cause : Nat) : State :=
  if s.fget F.portStatus_STATE p = 5 then (s.leaveUp p cause).restart p else s

/-- EN of a port goes to 1 with the configuration already written (R36, R37, R56). On a ready module it resumes at step 5 of R70: in WAIT_MODULE when
the module is ready in low power or mismatched, and from AN or TRAIN when it is active. [log: DEDUCED 35, 42, DESIGN CHOICE 41, 211] -/
def State.portStart (s : State) (p : Nat) : State :=
  let s0 := ((((s.wr .portStatus (s.rd .portStatus p &&& 0xF0000#32) p).wrw .fecCwCorr 0 p).wrw .fecCwUncorr 0 p).wrw .fecSymCorr 0 p).setPort p
    { lastFrame := (s.port p).lastFrame }
  let sL := s0.each (s0.portLanes p) (fun l s => s.setLane (l / 8 * 8) { s.lane (l / 8 * 8) with pllLost := false })
  let s1 := (sL.wr .anPartner 0 p).nimbusPortReset p
  let c := s1.cfgCause p
  let auto := (s1.cagesOf p).filter (fun k => s1.flag F.cageCfg_AUTO k)
  if c ≠ 0 then (s1.fset F.portStatus_CFG_CAUSE c p).portTo p 9
  else if (s1.portLanes p).any s1.laneOut then ((s1.portTo p 8).driveLanes (s1.portLanes p) .off)
  else
    let s2 := if auto.any (fun k => decide (s1.fget F.cageStatus_MSTATE k ≠ 5)) then s1.portTo p 1 else s1.restart p
    s2.each auto (fun k s => s.ownAccess k (.select k))

/-- EN of a port goes to 0: it leaves any state at once, its lanes are squelched and its queues flushed (R37, R285, R299). A port in CFG_ERR holds no
lanes (R36). -/
def State.portStop (s : State) (p : Nat) : State :=
  let s1 := if s.fget F.portStatus_STATE p = 9 then s
    else ((s.linkEnds p).abortEyes (s.portLanes p)).driveLanes (s.portLanes p) .off
  ((s1.fset F.portCfg_EN 0 p).portTo p 0).setPort p { lastFrame := (s.port p).lastFrame } |>.flushPort p 0x050A

/-- A write of PORT_CFG (R37): while EN is 1 only EN changes. -/
def State.portCfgWrite (s : State) (p : Nat) (v : Word) : State :=
  if s.flag F.portCfg_EN p then
    if bitAt v.toNat 0 then s else s.portStop p
  else
    let s1 := s.wr .portCfg (v &&& 0xFFFFFF#32) p
    if bitAt v.toNat 0 then s1.portStart p else s1

/-- A port's transmitter leaves electrical idle: the wake burst, and the WAKE marker in the interleave block after it (R59). -/
def State.eiExit (s : State) (p : Nat) : State :=
  if s.flag F.portStatus_TX_EI p then
    ((s.fset F.portStatus_TX_EI 0 p).wakeBurst (s.portLanes p)).driveLanes (s.portLanes p) .data
  else s

/-! ## Negotiation and training -/

/-- PORT_CFG.EN going to 1 (R36, R56). [log: DESIGN CHOICE 7] -/
def execPortEnable (p : Nat) (v : Word) (s : State) : Host.Outcome State Fault Refusal :=
  .next (s.portCfgWrite p (v ||| 1#32))

/-- PORT_CFG.EN going to 0 (R37). -/
def execPortDisable (p : Nat) (s : State) : Host.Outcome State Fault Refusal :=
  .next (s.portCfgWrite p (s.rd .portCfg p &&& 0xFFFFFFFE#32))

/-- TXGRP_CFG: a bit changes unless a port of its group has EN at 1 (R77). -/
def State.txgrpWrite (s : State) (c : Nat) (v : Word) : State :=
  let keep := (List.range 8).foldl (fun m g =>
    if (List.range 8).any (fun k => s.flag F.portCfg_EN (64 * c + 8 * g + k)) then m + 2 ^ g else m) 0
  let old := s.fget F.txgrpCfg_FAMILY c
  s.fset F.txgrpCfg_FAMILY ((v.toNat % 256) &&& (255 - keep) ||| (old &&& keep)) c

def execTxgrpCfgWrite (c : Nat) (v : Word) (s : State) : Host.Outcome State Fault Refusal := .next (s.txgrpWrite c v)

/-- The mode two ability sets resolve to (R48): 425 Gb/s when both words have R426 and equal WIDTH, else the fastest common
standard rate. -/
def State.resolveMode (s : State) (p base : Nat) (ability : Word) : Option Nat :=
  let mine := s.anRates p
  let a := ability.toNat
  if mine.contains 0 ∧ bitAt a 4 = true ∧ bits a 6 5 = s.fget F.portCfg_WIDTH p then some 0
  else (mine.filter (fun k => decide (k ≠ 0) && bitAt base k)).head?

/-- The exchange of pages completes (R48); during the wait after a failed resolution there is none. -/
def execAnPageReceived (p : Nat) (base : BitVec 6) (ability : Word) (s : State) : Host.Outcome State Fault Refusal :=
  .next (
    if s.fget F.portStatus_STATE p ≠ 2 ∨ (s.port p).anWait = true then s
    else
      let q := s.port p
      let changed := decide (q.base ≠ base.toNat) || decide (s.rd .anPartner p ≠ ability)
      let posted := q.anPosted && !changed
      let s1 := ((s.setPort p { q with base := base.toNat, anPosted := posted }).wr .anPartner ability p).fset
        F.portStatus_LP_FUGRANUM (b2n (decide (ability ≠ 0))) p
      match s1.resolveMode p base.toNat ability with
      | some r => (s1.setPort p { s1.port p with anPosted := false, anWait := false }).trainStart p r true
      | none =>
        let s2 := s1.setPort p { s1.port p with anPosted := true, anWait := true }
        if posted then s2 else s2.postLane 0x0112 p 0)

/-- One second after a failed resolution the port negotiates again (R48). -/
def execAnRetryTimer (p : Nat) (s : State) : Host.Outcome State Fault Refusal :=
  .next (if s.fget F.portStatus_STATE p = 2 ∧ (s.port p).anWait = true then s.restart p else s)

/-- A coefficient request of the partner (R51): a preset, or a step of one coefficient as far as the absolute values sum to at most 64.
[log: DESIGN CHOICE 194] -/
def coefApply (ffe : Word) (r : CoefReq) : Word :=
  match r with
  | .preset n => if n = 0 then ffe else presetFfe n
  | .step tap up =>
    let c (k : Nat) : Int := toSigned 7 (bits ffe.toNat (8 * k + 6) (8 * k)) + (if k = tap.val then (if up then 1 else -1) else 0)
    let sum := ((List.range 4).map (fun k => (c k).natAbs)).foldl (· + ·) 0
    if sum ≤ 64 ∧ -64 ≤ c tap ∧ c tap ≤ 63 then
      BitVec.ofNat 32 (setBits ffe.toNat (8 * tap + 6) (8 * tap) (ofSigned 7 (c tap)))
    else ffe

/-- A lane's training ends (R51, R53, R85): the partner's requests have set the transmitter, precoding is granted where it is asked for at 212.5 and
106.25 Gb/s, and the receiver holds what it has trained. -/
def State.laneTrained (s : State) (l rate : Nat) (x : TrainLane) : State :=
  let s1 := s.wr .txFfe (x.reqs.foldl coefApply (s.rd .txFfe l)) l
  let s2 := s1.setLane l { s1.lane l with
    line := .data, partnerFfe := x.partner &&& 0x7F7F7F7F#32, ctle := x.ctle.toNat
    taps := (List.range (if rate = 0 then 24 else 12)).map (fun k => toSigned 8 (x.taps.getD k 0#8).toNat), cdr := x.cdr.toNat
    precodeTx := x.precode && (decide (rate = 1) || decide (rate = 2)) }
  (s2.fset F.laneStatus_SIG_DET 1 l).fset F.laneStatus_CDR_LOCK 1 l

/-- All lanes of the port are trained (R56); at 425 Gb/s the lanes' streams start (R43). -/
def execTrainComplete (p : Nat) (lanes : List TrainLane) (s : State) : Host.Outcome State Fault Refusal :=
  .next (
    if s.fget F.portStatus_STATE p ≠ 3 then s
    else
      let rate := s.fget F.portStatus_RATE_RES p
      let s1 := s.each ((s.portLanes p).zip lanes) (fun lf s => s.laneTrained lf.1 rate lf.2)
      let s2 := if rate = 0 then s1.streamStart p (s1.portLanes p) else s1
      s2.portTo p 4)

/-- A port not UP by twice the first-use maximum (R54). [log: DESIGN CHOICE 6, DEDUCED 29] -/
def execTrainTimeout (p : Nat) (s : State) : Host.Outcome State Fault Refusal :=
  .next (if s.fget F.portStatus_STATE p = 3 ∨ s.fget F.portStatus_STATE p = 4 then (s.postLane 0x0113 p 0).restart p else s)

/-- Training from history misses its maximum and starts again from presets at once (R53). -/
def execHistTrainTimeout (p : Nat) (s : State) : Host.Outcome State Fault Refusal :=
  .next (if (s.fget F.portStatus_STATE p = 3 ∨ s.fget F.portStatus_STATE p = 4) ∧ (s.port p).fromHist = true then
    s.trainStart p (s.fget F.portStatus_RATE_RES p) false else s)

/-- The arrival of a lane's last marker less that of a reference lane's, in tenths of a nanosecond, when both carried the same MARK_SEQ: markers of
a lane are 209,715.2 ns apart (R41, R45). -/
def State.skew (s : State) (l ref : Nat) : Int :=
  let a := s.lane l
  let b := s.lane ref
  (a.markTime : Int) - b.markTime - toSigned 16 (a.markSeq + 65536 - b.markSeq % 65536) * 2097152

/-- The lanes of a 425 Gb/s port are locked, their indexes cover 0 to w − 1, and their skew lies within the 200 ns that MARK_SEQ can take out
(R45). [log: DEDUCED 197] -/
def State.aligned (s : State) (p : Nat) : Bool :=
  (s.portLanes p).all (fun l => s.flag F.laneStatus_MARK_LOCK l) &&
    (List.range (2 ^ s.fget F.portCfg_WIDTH p)).all (fun i => (s.portLanes p).any (fun l => decide ((s.lane l).laneIdx = i))) &&
    (s.portLanes p).all (fun l => (s.portLanes p).all (fun k => decide (s.skew l k ≤ 2000)))

/-- The 29 words of EQ_HIST after the rate and width: both transmitters' coefficients, CTLE, 24 places of DFE taps, CDR phase offset, and a word
that is 0. [log: DESIGN CHOICE 45] -/
def State.histWords (s : State) (l : Nat) : List Nat :=
  let q := s.lane l
  [(s.rd .txFfe l).toNat, q.partnerFfe.toNat, q.ctle] ++ (List.range 24).map (fun k => ofSigned 32 (nth q.taps k 0)) ++ [q.cdr, 0]

/-- The trained values are recorded in EQ_HIST of every lane and HIST_VALID is set (R53, R82). [log: DESIGN CHOICE 45] -/
def State.histRecord (s : State) (p : Nat) : State :=
  let mode := s.fget F.portStatus_RATE_RES p + s.fget F.portCfg_WIDTH p * 8
  s.each (s.portLanes p) (fun l s =>
    let s1 := (s.wr .eqHist 2 l 0).wr .eqHist (BitVec.ofNat 32 mode) l 1
    let s2 := s1.each (s1.histWords l).zipIdx (fun x s => s.wr .eqHist (BitVec.ofNat 32 x.1) l (2 + x.2))
    let s3 := s2.wr .eqHist (crc32c (s2.histBytes l)) l 31
    s3.fset F.laneCtl_HIST_VALID 1 l)

/-- Alignment and lock are reached: UP and EV_LINK_UP (R45, R56); the idle blocks sent since training ended have gone out (R42).
[log: DESIGN CHOICE 192] -/
def execAlignLock (p idle : Nat) (s : State) : Host.Outcome State Fault Refusal :=
  .next (
    if s.fget F.portStatus_STATE p = 4 ∧ (s.fget F.portStatus_RATE_RES p ≠ 0 ∨ s.aligned p = true) then
      let s1 := (((s.portTo p 5).fset F.portStatus_HI_SER 0 p).histRecord p).postLane 0x0110 p (s.fget F.portStatus_RATE_RES p)
      (s1.sendBlks p (List.replicate idle idleBlk)).pauseAtUp p
    else s)

/-- No lock within 10 ms (R56). -/
def execAlignTimeout (p : Nat) (s : State) : Host.Outcome State Fault Refusal :=
  .next (if s.fget F.portStatus_STATE p = 4 then s.restart p else s)

/-! ## Lock, signal and faults -/

/-- A marker message is received on a lane (R45): two markers 16,384 codewords apart lock it, a marker in lock ends a count of misses, a WAKE
marker resets the marker count on every lane of the port (R59). The receiver inserts the idles that made room for it (R42). [log: DEDUCED 47] -/
def execMarkerReceive (l diffs cw time laneIdx width : Nat) (ei wake : Bool) (seq : BitVec 16) (s : State) :
    Host.Outcome State Fault Refusal :=
  .next (
    if 6 < diffs then s
    else
      let q := s.lane l
      let locks := decide (q.markAt = some (cw - 16384)) && decide (16384 ≤ cw)
      let s1 := s.setLane l { q with markAt := some cw, missed := 0, laneIdx := laneIdx, markSeq := seq.toNat, markTime := time,
                                     markWidth := width, announced := q.announced || ei }
      let s2 := if locks then s1.fset F.laneStatus_MARK_LOCK 1 l else s1
      match s2.portOfLane l with
      | some (p, w) =>
        let s3 := s2.setPort p { s2.port p with rxIdle := (s2.port p).rxIdle + 80 }
        if wake then s3.each (List.range' p w) (fun k s => s.setLane k { s.lane k with markAt := some cw, missed := 0 }) else s3
      | none => s2)

/-- A missed marker; the third in a row takes the lane out of lock, and an UP port goes down (R45, R57). No marker is due in receive electrical
idle (R58). -/
def execMarkerMiss (l : Nat) (s : State) : Host.Outcome State Fault Refusal :=
  .next (
    let idle := (s.portOfLane l).any (fun x => s.flag F.portStatus_RX_EI x.1)
    if s.flag F.laneStatus_MARK_LOCK l ∧ idle = false then
      let n := (s.lane l).missed + 1
      let s1 := s.setLane l { s.lane l with missed := n }
      if n < 3 then s1
      else
        let s2 := (s1.fset F.laneStatus_MARK_LOCK 0 l).setLane l { s1.lane l with markAt := none, missed := 0 }
        match s2.portOfLane l with
        | some (p, _) => s2.linkDown p 2
        | none => s2
    else s)

/-- A lane without signal for 1 µs (R57); announced idle is no loss (R58). -/
def execLossOfSignal (l : Nat) (s : State) : Host.Outcome State Fault Refusal :=
  .next (
    let s1 := (s.fset F.laneStatus_SIG_DET 0 l).fset F.laneStatus_CDR_LOCK 0 l
    match s.portOfLane l with
    | some (p, _) => if s.flag F.portStatus_RX_EI p then s.fset F.laneStatus_SIG_DET 0 l else s1.linkDown p 1
    | none => s1)

/-- hi_ser on a lane of an UP port (R57): at 425 Gb/s more than 5,560 corrected symbols in the window of 8,192 codewords, those that carried frames
and the rest together. HI_SER reads 1 from then until the port is next UP or enabled. [log: DESIGN CHOICE 30, DEDUCED 34] -/
def execHiSer (l syms cws bad : Nat) (s : State) : Host.Outcome State Fault Refusal :=
  .next (
    match s.portOfLane l with
    | some (p, _) =>
      let total := (s.lane l).serSyms + syms
      let s1 := ((s.bump .fecSymCorr p 0 syms).bump .fecCwCorr p 0 cws).bump .fecCwUncorr p 0 bad
      let s2 := s1.setLane l { s1.lane l with serCws := 0, serSyms := 0 }
      if s.fget F.portStatus_STATE p = 5 ∧ (s.fget F.portStatus_RATE_RES p ≠ 0 ∨ 5560 < total) then
        (s2.linkDown p 3).fset F.portStatus_HI_SER 1 p
      else s2
    | none => s)

/-- Received local- or remote-fault ordered sets stop transmission and leave the port UP (R57). -/
def execFaultOrderedSet (p kind : Nat) (s : State) : Host.Outcome State Fault Refusal :=
  .next (if s.fget F.portStatus_STATE p = 5 then s.setPort p { s.port p with faultRx := kind } else s)

/-- At rates other than 425 Gb/s the PCS loses lock or alignment on a lane of an UP port (R57). -/
def execLossOfLock (l : Nat) (s : State) : Host.Outcome State Fault Refusal :=
  .next (
    match s.portOfLane l with
    | some (p, _) => if s.fget F.portStatus_RATE_RES p ≠ 0 then s.linkDown p 2 else s
    | none => s)

/-- Continuous adaptation of a lane runs: its port is UP, not frozen and not in receive idle (R55, R84). -/
def State.adapting (s : State) (l : Nat) : Bool :=
  match s.portOfLane l with
  | some (p, _) => decide (s.fget F.portStatus_STATE p = 5) && !s.flag F.adaptCtl_FREEZE l && !s.flag F.portStatus_RX_EI p
  | none => false

/-- An update moves the CTLE setting (place 0) or one DFE tap (places from 1) by one step (R55). -/
def execAdaptationUpdate (l tap : Nat) (up : Bool) (s : State) : Host.Outcome State Fault Refusal :=
  .next (
    if s.adapting l then
      let q := s.lane l
      let d : Int := if up then 1 else -1
      if tap = 0 then s.setLane l { q with ctle := ((q.ctle : Int) + d).toNat }
      else s.setLane l { q with taps := putNth q.taps (tap - 1) (nth q.taps (tap - 1) 0 + d) }
    else s)

/-! ## Low-power states -/

/-- Both sides sent EI in their ability words, at 425 Gb/s (R50, R58). -/
def State.eiAllowed (s : State) (p : Nat) : Bool :=
  decide (s.fget F.portStatus_RATE_RES p = 0) && bitAt (s.rd .anLocal p).toNat 7 && bitAt (s.rd .anPartner p).toNat 7

/-- EI_HOLD without anything to send: the next marker announces electrical idle, the rest of its interleave block goes out, and the transmitter
squelches (R58). [log: DESIGN CHOICE 192] -/
def execEiHoldExpire (p idle : Nat) (s : State) : Host.Outcome State Fault Refusal :=
  .next (
    if s.fget F.portStatus_STATE p = 5 ∧ s.flag F.portLps_EI_EN p = true ∧ s.eiAllowed p = true ∧
        s.flag F.portStatus_TX_EI p = false ∧ s.portHasFrame p = false then
      let s1 := s.each (s.portLanes p) (fun l s => s.setLane l { s.lane l with tx := { (s.lane l).tx with ei := true } })
      ((s1.sendBlks p (List.replicate idle idleBlk)).fset F.portStatus_TX_EI 1 p).driveLanes (s.portLanes p) .off
    else s)

/-- Loss of signal within 100 ns of EI_ANNOUNCE: receive electrical idle (R58). -/
def execRxEiEntry (p : Nat) (s : State) : Host.Outcome State Fault Refusal :=
  .next (
    if s.fget F.portStatus_STATE p = 5 ∧ (s.portLanes p).all (fun l => (s.lane l).announced) = true then
      (s.fset F.portStatus_RX_EI 1 p).each (s.portLanes p) (fun l s =>
        (s.fset F.laneStatus_SIG_DET 0 l).setLane l { s.lane l with announced := false })
    else s)

/-- A frame queued in electrical idle starts the wake burst (R59). -/
def execEiWake (p : Nat) (s : State) : Host.Outcome State Fault Refusal := .next (s.eiExit p)

/-- The receiver detects the WAKE marker and resumes data at its position (R59); it resets the marker count on every lane. [log: DEDUCED 47] -/
def execWakeMarker (p : Nat) (s : State) : Host.Outcome State Fault Refusal :=
  .next (
    if s.flag F.portStatus_RX_EI p then
      (s.fset F.portStatus_RX_EI 0 p).each (s.portLanes p) (fun l s =>
        (s.fset F.laneStatus_SIG_DET 1 l).setLane l { s.lane l with markAt := some 0, missed := 0 })
    else s)

/-- Signal without a WAKE marker for 2 µs takes the port down as a loss of lock (R57, R59). [log: DEDUCED 38] -/
def execWakeTimeout (p : Nat) (s : State) : Host.Outcome State Fault Refusal :=
  .next (if s.flag F.portStatus_RX_EI p then s.linkDown p 2 else s)

/-- The deep state is supported by both sides (R47, R50, R60). -/
def State.deepAllowed (s : State) (p : Nat) : Bool :=
  bitAt (s.rd .anLocal p).toNat 8 && bitAt (s.rd .anPartner p).toNat 8

/-- The port moves to DEEP: link reported down, transmitter, CDR and adaptation off (R56, R60). The side that enters sends the low-power-idle
sequence first. [log: DEDUCED 37] -/
def State.toDeep (s : State) (p : Nat) (enters : Bool) : State :=
  if s.fget F.portStatus_STATE p = 5 ∧ s.deepAllowed p = true then
    let s1 := (((s.linkEnds p).portTo p 6).abortEyes (s.portLanes p)).driveLanes (s.portLanes p) .off
    let s2 := s1.each (s.portLanes p) (fun l s => s.fset F.laneStatus_CDR_LOCK 0 l)
    if enters then s2.setPort p { s2.port p with lpiSent := (s2.port p).lpiSent + 1 } else s2
  else s

/-- Exit from DEEP: training from history without negotiation (R60). -/
def State.fromDeep (s : State) (p : Nat) : State :=
  if s.fget F.portStatus_STATE p = 6 then s.trainStart p (s.fget F.portStatus_RATE_RES p) true else s

def execDeepEnter (p : Nat) (s : State) : Host.Outcome State Fault Refusal := .next (s.toDeep p true)
def execDeepWake (p : Nat) (s : State) : Host.Outcome State Fault Refusal := .next (s.fromDeep p)
def execPartnerDeepEntry (p : Nat) (s : State) : Host.Outcome State Fault Refusal := .next (s.toDeep p false)
def execDeepSignalDetect (p : Nat) (s : State) : Host.Outcome State Fault Refusal := .next (s.fromDeep p)

/-- A write of PORT_LPS: EI_EN changes only while EN is 0 (R37); DEEP_CMD acts (R60, R81). -/
def State.portLpsWrite (s : State) (p : Nat) (v : Word) : State :=
  let n := v.toNat
  let s1 := s.fset F.portLps_EI_HOLD (bits n 10 1) p
  let s2 := if s.flag F.portCfg_EN p then s1 else s1.fset F.portLps_EI_EN (bits n 0 0) p
  match bits n 12 11 with
  | 1 => s2.toDeep p true
  | 2 => s2.fromDeep p
  | _ => s2

/-! ## Eye scan and test patterns -/

/-- EYE_CTL START begins a point and clears EYE_RESULT (R63, R87). -/
def State.eyeWrite (s : State) (l : Nat) (v : Word) : State :=
  let s1 := s.wr .eyeCtl (v &&& 0x3FFFFE#32) l
  if bitAt v.toNat 0 then
    let s2 := match s1.portOfLane l with
      | some (p, _) => s1.eiExit p
      | none => s1
    (s2.wr .eyeResult 0 l).setLane l { s2.lane l with eyeRun := true }
  else s1

def execEyeStart (l : Nat) (v : Word) (s : State) : Host.Outcome State Fault Refusal := .next (s.eyeWrite l (v ||| 1#32))

/-- The point ends after its dwell with the count, or with NOSIG when the lane is not UP or TEST or has no signal (R63).
[log: DESIGN CHOICE 187] -/
def execEyePointDone (l errors : Nat) (s : State) : Host.Outcome State Fault Refusal :=
  .next (
    if (s.lane l).eyeRun then
      let live := match s.portOfLane l with
        | some (p, _) => (decide (s.fget F.portStatus_STATE p = 5) || decide (s.fget F.portStatus_STATE p = 7)) &&
            s.flag F.laneStatus_SIG_DET l
        | none => false
      let s1 := (s.setLane l { s.lane l with eyeRun := false }).fset F.eyeResult_DONE 1 l
      if live then (s1.fset F.eyeResult_STATUS 0 l).fset F.eyeResult_ERRORS (min errors 0x1FFFFFFF) l
      else s1.fset F.eyeResult_STATUS 1 l
    else s)

/-- A lane's test functions as set now: loopback, generator or checker on. -/
def State.testOn (s : State) (l : Nat) : Bool :=
  decide (s.fget F.laneCtl_LOOP l ≠ 0) || s.flag F.prbsCtl_GEN_EN l || s.flag F.prbsCtl_CHK_EN l

/-- What a change of a lane's test functions does to its port: TEST while one is on, AN or TRAIN when all are off (R56, R67).
A running eye-scan point ends with ABORT, as the port leaves UP. [log: DEDUCED 37, 198] -/
def State.testUpdate (s : State) (l : Nat) : State :=
  match s.portOfLane l with
  | none => s
  | some (p, _) =>
    let st := s.fget F.portStatus_STATE p
    if (s.portLanes p).any s.testOn then
      if 2 ≤ st ∧ st ≤ 5 then ((((s.eiExit p).linkEnds p).portTo p 7).abortEyes (s.portLanes p)).driveLanes (s.portLanes p) .data else s
    else if st = 7 then s.restart p else s

/-- LOOP, GEN_EN and CHK_EN of a lane take values; a checker that starts seeds itself and counts from 0 (R64, R82), a generator that starts takes a
state of its own. -/
def State.testSet (s : State) (l loop : Nat) (gen chk : Bool) : State :=
  let start := chk && !s.flag F.prbsCtl_CHK_EN l
  let run := gen && !s.flag F.prbsCtl_GEN_EN l
  let s1 := ((s.fset F.laneCtl_LOOP loop l).fset F.prbsCtl_GEN_EN (b2n gen) l).fset F.prbsCtl_CHK_EN (b2n chk) l
  let s2 := if start then ((s1.wrw .prbsErr 0 l).fset F.prbsStatus_CHK_LOCK 0 l).setLane l { s1.lane l with chk := {} } else s1
  (s2.when run (fun s => s.genStart l)).testUpdate l

def execLoopbackEnable (l loop : Nat) (gen chk : Bool) (s : State) : Host.Outcome State Fault Refusal :=
  .next (s.testSet l loop gen chk)

/-- Turning off every test function of a port (R56). -/
def execTestExit (p : Nat) (s : State) : Host.Outcome State Fault Refusal :=
  .next (s.each (s.portLanes p) (fun l s => s.testSet l 0 false false))

/-- One bit error goes into the bits the generator makes next, while it runs in the mode named (R65): in PAM4 it changes one of a symbol's two
bits. [log: DESIGN CHOICE 33] -/
def State.injectOne (s : State) (l mode : Nat) : State :=
  if s.flag F.prbsCtl_GEN_EN l ∧ s.fget F.prbsCtl_INJ_MODE l = mode then
    let q := s.lane l
    s.setLane l { q with injDue := q.injDue + 1, injected := q.injected + 1, genBits := if mode = 2 then 0 else q.genBits }
  else s

def execPrbsInject (l : Nat) (s : State) : Host.Outcome State Fault Refusal := .next (s.injectOne l 1)
def execPrbsPeriodicInject (l : Nat) (s : State) : Host.Outcome State Fault Refusal := .next (s.injectOne l 2)

/-- Bits reach the checker, which locks after 64 matching ones (R64). -/
def execPrbsCheckLock (l : Nat) (rx : List Bool) (s : State) : Host.Outcome State Fault Refusal := .next (s.patternIn l rx)

/-- Bits reach the checker: it counts errors, and 32 of them within 64 bits make it reseed and set LOCK_LOST (R64, R82). -/
def execPrbsLockLost (l : Nat) (rx : List Bool) (s : State) : Host.Outcome State Fault Refusal := .next (s.patternIn l rx)

/-! ## Front panel -/

/-- CAGE_PRS_N falls: debounce starts (R70). Unused slots ignore their inputs (R91). -/
def execCagePrsFall (k : Nat) (s : State) : Host.Outcome State Fault Refusal :=
  .next (if s.flag F.cageCfg_VALID k then
    (s.setCage k { s.cage k with debouncing := true }).fset F.cageStatus_MSTATE 1 k else s)

/-- 50 ms low: inserted; with AUTO the module is held in reset, in low power (R70 step 2). Without AUTO the steps after it do not run: MSTATE shows
2, as CAGE_RST_N is not released. Unused slots ignore their inputs (R91). [log: DEDUCED 32, DESIGN CHOICE 199] -/
def execCageDebounceDone (k : Nat) (s : State) : Host.Outcome State Fault Refusal :=
  .next (
    if (s.cage k).debouncing = true ∧ s.flag F.cageCfg_VALID k = true then
      let s1 := (s.fset F.cageStatus_PRESENT 1 k).setCage k
        { s.cage k with debouncing := false, lpm := s.flag F.cageCfg_AUTO k || (s.cage k).lpm,
                        rstN := !s.flag F.cageCfg_AUTO k && (s.cage k).rstN }
      (s1.fset F.cageStatus_MSTATE 2 k).postLane 0x0101 k 0
    else s)

/-- 20 ms later CAGE_RST_N is released (R70 step 3). -/
def execCageResetRelease (k : Nat) (s : State) : Host.Outcome State Fault Refusal :=
  .next (
    if s.flag F.cageCfg_AUTO k ∧ s.flag F.cageCfg_VALID k = true ∧ s.fget F.cageStatus_MSTATE k = 2 then
      (s.setCage k { s.cage k with rstN := true }).fset F.cageStatus_MSTATE 3 k
    else s)

/-- A poll of the module (R70 steps 4 and 5): once it is ready EV_MOD_READY is posted, its identifier and applications are kept, and the application
is selected or refused. -/
def execModReadyPoll (k : Nat) (ready : Bool) (ident : Byte) (apps : List (Nat × Nat)) (power : Nat) (s : State) :
    Host.Outcome State Fault Refusal :=
  .next (
    if s.flag F.cageCfg_AUTO k = true ∧ s.flag F.cageCfg_VALID k = true ∧ s.fget F.cageStatus_MSTATE k = 3 then
      s.ownAccess k (.poll k ready ident.toNat apps power)
    else s)

/-- Not ready by MOD_READY_TMO (R70 step 4a). -/
def execModReadyTimeout (k : Nat) (s : State) : Host.Outcome State Fault Refusal :=
  .next (if s.flag F.cageCfg_VALID k = true ∧ s.fget F.cageStatus_MSTATE k = 3 then (s.fset F.cageStatus_MSTATE 7 k).postLane 0x0104 k 1 else s)

/-- The data path is activated: ports leave WAIT_MODULE (R56, R70 step 6). -/
def execModuleDataPathActive (k : Nat) (s : State) : Host.Outcome State Fault Refusal :=
  .next (
    if (s.cage k).activating = true ∧ s.flag F.cageCfg_VALID k = true then
      let s1 := (s.setCage k { s.cage k with activating := false }).fset F.cageStatus_MSTATE 5 k
      s1.each (s1.cagePorts k) (fun p s => if s.fget F.portStatus_STATE p = 1 then s.restart p else s)
    else s)

/-- The entries of a table whose keys lie outside a range. -/
def tdrop {α : Type} (t : Tab α) (lo hi : Nat) : Tab α := t.filter (fun e => decide (e.1 < lo) || decide (hi ≤ e.1))

/-- The cage of an access of the device's own. -/
def OwnAccess.cage (a : OwnAccess) : Nat :=
  match a with
  | .poll k _ _ _ _ => k
  | .select k => k
  | .flags k _ => k

/-- Module removal, at once (R71): the cage's transmitters are squelched, transactions to it end with a STOP and bus recovery when SDA is held low,
its ports go to WAIT_MODULE when AUTO is set (R56), HIST_VALID clears on its lanes, and EV_CAGE_REMOVE is posted. A port in SAFE stays there, as it
leaves SAFE only through EN (R56). [log: DEDUCED 31, 32, 36, DESIGN CHOICE 43] -/
def execCagePrsRise (k : Nat) (sdaLow : Bool) (s : State) : Host.Outcome State Fault Refusal :=
  .next (
    if s.flag F.cageCfg_VALID k then
      let m := s.fget F.cageCfg_MASTER k
      let cut := s.flag F.modAccStatus_BUSY m && decide ((s.i2cOf m).cage = k)
      let s1 := s.driveLanes (s.cageLanes k) .off
      let q := s1.i2cOf m
      let own := q.own.filter (fun a => decide (a.cage ≠ k))
      let ends := (if cut then 1 else 0) + (q.own.length - own.length)
      let s2 := (if cut then (s1.fset F.modAccStatus_BUSY 0 m).fset F.modAccStatus_RESULT 5 m else s1).setI2c m
        { q with own := own, stops := q.stops + ends + if sdaLow ∧ 0 < ends then 9 else 0 }
      let s3 := if s.flag F.cageCfg_AUTO k then
          s2.each (s2.cagePorts k) (fun p s =>
            let st := s.fget F.portStatus_STATE p
            if st = 0 ∨ st = 9 ∨ st = 8 then s else ((s.leaveUp p 4).portTo p 1).abortEyes (s.portLanes p))
        else s2
      let s4 := s3.each (s.cageLanes k) (fun l s => s.fset F.laneCtl_HIST_VALID 0 l)
      let s5 := (s4.setCage k {}).wr .cageStatus 0 k
      { s5 with link := { s5.link with modMem := tdrop s5.link.modMem (k * 2 ^ 24) ((k + 1) * 2 ^ 24) } }.postLane 0x0102 k 0
    else s)

/-- CAGE_INT_N falls (R72, R92): with AUTO the latched flags are read, which clears them and releases the pin, and a set, unmasked flag is a module
fault; without AUTO the interrupt is posted. [log: DEDUCED 40] -/
def execCageIntFall (k : Nat) (flags : List (Bool × Bool)) (s : State) : Host.Outcome State Fault Refusal :=
  .next (
    if s.flag F.cageCfg_VALID k then
      let s1 := s.fset F.cageStatus_INT 1 k
      if s.flag F.cageCfg_AUTO k then s1.ownAccess k (.flags k flags) else s1.postLane 0x0106 k 0
    else s)

/-- GO of mailbox `m` (R73, R94): an empty cage ends with NO_MODULE, a write to pages 10h and 11h of an AUTO cage with AUTO_OWNED; otherwise the
access starts, on this master whatever master the cage names. RESULT keeps the code of the access before until this one ends.
[log: DESIGN CHOICE 200] -/
def State.mailboxGo (s : State) (m : Nat) (v : Word) : State :=
  let n := v.toNat
  let s1 := s.wr .modAccCtl (v &&& 0x7FFFFFFF#32) m
  let k := bits n 6 0
  let wr := bitAt n 7
  let page := bits n 15 8
  let off := bits n 23 16
  if s.flag F.modAccStatus_BUSY m then s1
  else if s.flag F.cageStatus_PRESENT k = false then s1.fset F.modAccStatus_RESULT 1 m
  else if wr = true ∧ s.flag F.cageCfg_AUTO k = true ∧ (page = 0x10 ∨ page = 0x11) then s1.fset F.modAccStatus_RESULT 3 m
  else
    let s2 := s1.muxSelect k
    (s2.fset F.modAccStatus_BUSY 1 m).setI2c m { s2.i2cOf m with
      cage := k, write := wr, bank := (s.rd .modAccBank m).toNat % 256, page := page, offset := off
      len := min (bits n 30 24 + 1) (256 - off) }

def execMailboxRead (m : Nat) (v : Word) (s : State) : Host.Outcome State Fault Refusal :=
  .next (s.mailboxGo m (v &&& 0xFFFFFF7F#32))
def execMailboxWrite (m : Nat) (v : Word) (s : State) : Host.Outcome State Fault Refusal :=
  .next (s.mailboxGo m (v ||| 0x80#32))

/-- The 128-byte buffer of a mailbox. -/
def State.mailBytes (s : State) (m : Nat) : List Byte :=
  (List.range 32).flatMap (fun j => leBytes 4 (s.rd .modAccBuf m j).toNat)

/-- The buffer set from bytes. -/
def State.setMailBytes (s : State) (m : Nat) (bs : List Byte) : State :=
  forN 32 (fun j s => s.wr .modAccBuf (BitVec.ofNat 32 (leNat (bytesAt bs (4 * j) 4))) m j) s

/-- The access ends (R73, R94): a read fills the buffer, a write lands in the module; INT follows the pin; the oldest of the device's own
transactions that wait has its turn. [log: DESIGN CHOICE 43, 44, 187] -/
def execMailboxDone (m result : Nat) (data : List Byte) (intN : Bool) (s : State) : Host.Outcome State Fault Refusal :=
  .next (
    if s.flag F.modAccStatus_BUSY m then
      let q := s.i2cOf m
      let s1 := ((s.fset F.modAccStatus_BUSY 0 m).fset F.modAccStatus_RESULT result m).fset F.cageStatus_INT (b2n !intN) q.cage
      let s2 :=
        if result ≠ 0 then s1
        else if q.write then s1.modPut q.cage q.bank q.page q.offset ((s1.mailBytes m).take q.len)
        else s1.setMailBytes m (bytesPut (s1.mailBytes m) 0 (data.take q.len))
      match q.own with
      | a :: rest => (s2.setI2c m { q with own := rest }).ownRun a
      | [] => s2
    else s)

/-- What source `sel` shows for port `p` (R74): activity for 50 ms, 20,000,000 edges of CLK_TICK, after each frame. -/
def State.ledSource (s : State) (blink : Bool) (p sel : Nat) : Bool :=
  let st := s.fget F.portStatus_STATE p
  match sel with
  | 1 => true
  | 2 => decide (st = 5)
  | 3 => decide ((s.port p).lastFrame ≠ 0) && decide (s.time.ticks + 1 < (s.port p).lastFrame + 20000000)
  | 4 => decide (st = 5) && decide (s.fget F.portStatus_RATE_RES p = 0)
  | 5 => decide (st = 8) || decide (st = 9)
  | 6 => blink && bitAt (s.rd .ledLocate (p / 32)).toNat (p % 32)
  | 7 => (s.cagesOf p).any (fun k => s.flag F.cageStatus_PRESENT k)
  | _ => false

/-- The 2,048 bits of the LED stream: bit 4p + i is what SELi shows for port p (R74, R95). -/
def State.ledFrame (s : State) (blink : Bool) : BitVec 2048 :=
  let sel (i : Nat) : Nat := bits (s.rd .ledCfg).toNat (3 * i + 2) (3 * i)
  BitVec.ofNat 2048 ((List.range 2048).foldr (fun b n => 2 * n + b2n (s.ledSource blink (b / 4) (sel (b % 4)))) 0)

/-- One frame of the LED stream (R74). -/
def execLedFrame (blink : Bool) (s : State) : Host.Outcome State Fault Refusal :=
  .next (
    if s.flag F.ledCfg_EN then
      { s with link := { s.link with led := s.ledFrame blink, latches := s.link.latches + 1 } }
    else s)

end Sys2Proof.Machine
end

