-- ==== Sys2Proof/Machine/Release.lean ====
section
/-!
DEFINITION. From the reorder stage to the wire: release and its Halo contributions, EDIT, linking, multicast (R17, R161, R250,
R251, R270, R281, R342, R347), the last beat of a received frame and pause frames (R130, R272, R275), and the end of a
transmission (R335, R337, R433–R435, R550).
-/

namespace Sys2Proof.Machine

/-! ## EDIT (R161) -/

/-- The frame with the last EDIT of the log applied: dirty slots written back, bytes removed, bytes inserted. [log: DEDUCED 62, 63] -/
def editFrame (k : Pkt) (bs : List Byte) : List Byte :=
  match (k.log.filter (fun e => decide (e.op = 10))).getLast? with
  | none => bs
  | some e =>
    let grp := byteAt e.arg 0
    let n := min 64 (byteAt e.arg 1)
    let valid := phvGet k.editPhv 20 8
    let back (b : List Byte) (x : Nat × Nat × Nat) : List Byte :=
      if k.dirty.getLsbD x.1 && bitAt valid x.1 then
        let a := slotAt x.1
        putNetBits b x.2.1 x.2.2 (beNat (bytesAt k.editPhv a.1 a.2))
      else b
    let b1 := k.srcs.foldl back bs
    let h := if grp < 8 then nth (phvOffs k.editPhv) grp 255 else 255
    bytesAt k.editPhv (half e.arg 2) n ++ (if h = 255 then b1 else b1.drop h)

/-! ## Linking (R250, R251, R270, R281, R286) -/

/-- The frame takes one further cell when its edit makes it need one (R251), under the admission rule of R258; the code of a refusal, and the state
after. [log: DEDUCED 64] -/
def State.growCell (s : State) (t fid : Nat) : Option Nat × State :=
  let f := s.frame t fid
  if f.data.length ≤ 256 * f.cells.length then (none, s)
  else match s.admitCell t f.m.iport f.m.ipri with
    | (.ok c, s1) => (none, (s1.setFrame t fid { f with cells := f.cells ++ [c] }).pgScan t)
    | (.error code, s1) => (some code, s1)

/-- The conditions of R270 for cut-through. -/
def State.cutOk (s : State) (t q : Nat) (f : Frame) : Bool :=
  let v := s.voq t q
  s.flag F.bpmCtl_CT_EN t && v.isEmpty && v.crossing.isNone && !v.spill && decide (0 < v.balance) && !f.waited &&
    decide (s.portMbps f.m.eport ≤ s.portMbps f.m.iport)

/-- A unicast frame, edited, is checked and linked into the VOQ of its port and class. [log: DEDUCED 96] -/
def State.linkUnicast (s : State) (t fid : Nat) : State :=
  match s.growCell t fid with
  | (some code, s1) => s1.killFrame t fid code
  | (none, s1) =>
    let f := s1.frame t fid
    match s1.linkDrop t f.m f.done f.data.length with
    | some code => s1.killFrame t fid code
    | none =>
      let q := 8 * f.m.eport + f.m.cls
      let ct := s1.cutOk t q f
      let s2 := s1.setFrame t fid { f with linked := true, refs := 1, ct := ct }
      (s2.when ct (fun s => (s.bump .cntCt t).perf t 10 (some (s.slotOf f.m.iport)) none none 1)).enqueue t q { fid := fid }

/-- A frame with FWD of a port and class: the frame's fields set, then linked. -/
def State.linkFwd (s : State) (t fid p c : Nat) (data : List Byte) : State :=
  let f := s.frame t fid
  (s.setFrame t fid { f with data := data, m := { f.m with eport := p, cls := c } }).linkUnicast t fid

/-- A multicast frame: one reference for each destination tile with its PORT_MASK (R281); none left is DROP_MC_GROUP. [log: DEDUCED 63] -/
def State.linkMc (s : State) (t fid c : Nat) (ports : List Nat) (data : List Byte) : State :=
  let mask (d : Nat) : Nat := ((List.range 32).map (fun j => if ports.contains (32 * d + j) then 2 ^ j else 0)).sum
  let dests := (List.range 16).filter (fun d => decide (mask d ≠ 0))
  let f := s.frame t fid
  let m : FMeta := { f.m with cls := c, mc := true, eport := 0 }
  if dests.isEmpty then (s.setFrame t fid { f with m := m }).killFrame t fid 0x050D
  else
    match (s.setFrame t fid { f with data := data, m := m }).growCell t fid with
    | (some code, s1) => s1.killFrame t fid code
    | (none, s1) =>
      let s2 := s1.setFrame t fid { s1.frame t fid with linked := true, refs := dests.length }
      s2.each dests (fun d s =>
        let q := 4096 + 8 * d + c
        if (s.voq t q).safe then (s.discard t 0x0512 m).endRef t fid else s.enqueue t q { fid := fid, mask := mask d })

/-- The destination set of FWD_MC (R281): class and ports of the group present in the packet's parity. -/
def State.mcSet (s : State) (g par iport : Nat) : Nat × List Nat :=
  if 16384 ≤ g then (0, [])
  else match grpSlot s.te.mcGroups g par with
    | none => (0, [])
    | some (_, w) =>
      let v := w.toNat
      let mem := (List.range (bits v 10 2 + 1)).map (fun k => (tget s.te.mcMembers (bits v 31 15 + k) 0).toNat)
      let prune := bitAt v 14
      (bits v 13 11, ((mem.filter (bitAt · 9)).map (fun x => x % 512)).filter
        (fun p => s.portEnabled p && !(prune && decide (p = iport))))

/-! ## Release (R17, R163, R342, R347) -/

/-- What an ingress capture of a released packet holds (R349). -/
def ingressItem (f : Frame) (k : Pkt) (d : Disp) : CapItem :=
  let x : Nat × Nat × Nat := match d with
    | .fwd p _ => (p, 0, 0)
    | .fwdMc _ => (0, 1, 0)
    | .flood _ _ => (0, 1, 0)
    | .drop c => (0, 2, c)
    | .punt c => (0, 3, c)
    | .exc c => (0, 4, c)
  { egress := false, frame := f.data, len := if f.done then f.rxLen else 0, iport := k.iport, cls := f.m.iclass, eport := x.1,
    disp := x.2.1, code := x.2.2, ns := f.m.arrivalNs, tag := leNat (bytesAt k.outPhv 504 8) }

/-- A packet is delivered under its disposition (R160, R164, R175, R492). -/
def State.deliverDisp (s : State) (t fid : Nat) (k : Pkt) (d : Disp) : State :=
  let bs := (s.frame t fid).data
  let out := if s.hz then s.hzTag k.iport bs else editFrame k bs
  let exc (s : State) (r : Nat) (phv : List Byte) : State :=
    s.excEnqueue t { fid := fid, cls := reasonClass r, reason := r, phv := phv, seq := k.seq }
  match d with
  | .fwd p c => s.linkFwd t fid p c out
  | .fwdMc g => let x := s.mcSet g (k.version % 2) k.iport
    s.linkMc t fid x.1 x.2 out
  | .flood m c => s.linkMc t fid c (((List.range 64).filter (bitAt m)).filter s.portEnabled) out
  | .drop code => s.killFrame t fid code
  | .punt code =>
    let f := s.frame t fid
    exc (s.setFrame t fid { f with data := if s.hz then bs else out }) code k.outPhv
  | .exc r => exc s r k.phv

/-- The reorder stage releases a packet: it leaves the in-flight count, Halo takes its release contributions once, and it is
delivered unless its frame has been dropped meanwhile. [log: DEDUCED 65] -/
def State.release (s : State) (t fid : Nat) (k : Pkt) : State :=
  let f := s.frame t fid
  let d := k.disp.getD (.exc 0x020C)
  let par := k.version % 2
  let s1 := ((s.setPkt t fid none).setInflight t par (s.inflight t par - 1)).perf t 11 (some (s.slotOf k.iport)) none none 1
  let isDrop := match d with
    | .drop _ => true
    | _ => false
  let arr := rebuildNs (f.m.arrivalNs % 2 ^ 32) s.ptpNs
  let fl := s1.flowRelease t k.phv (f.data.take 256) k.info (dataEnd f.rxLen f.done) arr f.rxLen (leNat (bytesAt k.outPhv 504 8)) f.done isDrop
  let item := ingressItem f k d
  let s2 := fl.2.each (k.log.filter (fun e => decide (e.op = 5))) (fun e s => s.offer t (e.imm % 64) item)
  let s3 := s2.offerIngress t item
  let s4 := s3.setFrame t fid { s3.frame t fid with released := true, m := { f.m with phv := k.outPhv, flow := fl.1 } }
  if f.dead.isSome then s4.sweep t fid else s4.deliverDisp t fid k d

/-- The oldest packet of port `p` in tile `t`. -/
def State.oldestPkt (s : State) (t p : Nat) : Option (Nat × Pkt) :=
  (s.pipe t).pkts.findSome? (fun e => match e.2 with
    | some k => if k.iport = p then some (e.1, k) else none
    | none => none)

def execReorderRelease (t p : Nat) (s : State) : Host.Outcome State Fault Refusal :=
  .next (match s.oldestPkt t p with
    | some (fid, k) => if k.stage = .ready then s.release t fid k else s
    | none => s)

/-! ## The last beat (R130, R272, R275) -/

/-- Bytes cut into beats of 64, the last one of at most 64. -/
def beats (bs : List Byte) (fuel : Nat) : List (List Byte) :=
  match fuel with
  | 0 => []
  | n + 1 => if bs.length ≤ 64 then [bs] else bs.take 64 :: beats (bs.drop 64) n

/-- The whole of a frame has been received: the MAC's verdict, and everything that waited for the last beat. -/
def State.frameWhole (s : State) (t fid : Nat) (good : Bool) : State :=
  let f := s.frame t fid
  let s1 := ((s.rxVerdict t fid good).lastBeatFor t fid).deferred t fid
  if f.released then s1.flowBytes t f.m.flow f.rxLen else s1

/-- The last beat of a frame of port `p` with its FCS verdict. A pause frame is consumed by the MAC (R275). -/
def State.lastBeat (s : State) (p : Nat) (bs : List Byte) (good : Bool) : State :=
  let t := s.tileOf p
  if s.isUp p = false ∨ s.tileOn t = false then s
  else if (s.rxCtl p).isEmpty = false then (s.setRxCtl p []).pauseReceive p (s.rxCtl p ++ bs) good
  else if (s.rxFid t p).isNone ∧ s.rxPauseEn p = true ∧ isPause bs = true then s.pauseReceive p bs good
  else
    let s1 := s.rxBeat p bs
    match s1.rxFid t p with
    | some fid => (s1.setRx t p 0).frameWhole t fid good
    | none => s1

/-- A frame of the port has come in: its activity LED starts again (R74). -/
def State.frameIn (s : State) (p : Nat) : State := s.setPort p { s.port p with lastFrame := s.time.ticks + 1 }

/-- The FEC decodes what carried the frame first: an uncorrectable codeword makes its FCS bad (R44). -/
def execLastBeatArrival (p : Nat) (bytes : List Byte) (good : Bool) (fec : List FecUnit) (s : State) :
    Host.Outcome State Fault Refusal :=
  .next (
    if s.isUp p then ((s.fecReceive p fec).frameIn p).lastBeat p (bytes.take 64) (good && s.fecGood p fec) else s)

/-- A received pause or PFC frame (R275): with RX_EN at 0, or when it is none, it is an ordinary frame. [log: DEDUCED 89] -/
def execPauseFrameReceive (p : Nat) (bytes : List Byte) (good : Bool) (s : State) : Host.Outcome State Fault Refusal :=
  .next (
    if s.isUp p = false ∨ s.tileOn (s.tileOf p) = false then s
    else if s.rxPauseEn p = true ∧ isPause bytes = true then s.pauseReceive p bytes good
    else
      let b := beats bytes (bytes.length + 1)
      ((s.frameIn p).each b.dropLast (fun x s => s.rxBeat p x)).lastBeat p (b.getLastD []) good)

/-! ## One-step PTP at the egress MAC (R435) -/

/-- Where a PTP event message of version 2 lies in a frame: its first byte, and the UDP header's with IPv6 or not. -/
def ptpAt (bs : List Byte) : Option (Nat × Option (Nat × Bool)) :=
  let e := (skipTags bs 12 2).1
  let h := e + 2
  let at_ : Option (Nat × Option (Nat × Bool)) :=
    if half bs e = 0x88F7 then some (h, none)
    else if half bs e = 0x0800 ∧ byteAt bs (h + 9) = 17 ∧ half bs (h + 6) % 16384 = 0 then
      let u := h + byteAt bs h % 16 * 4
      if half bs (u + 2) = 319 then some (u + 8, some (u, false)) else none
    else if half bs e = 0x86DD ∧ byteAt bs (h + 6) = 17 then
      if half bs (h + 42) = 319 then some (h + 48, some (h + 40, true)) else none
    else none
  match at_ with
  | some (k, u) => if byteAt bs (k + 1) % 16 = 2 ∧ k + 44 ≤ bs.length then some (k, u) else none
  | none => none

/-- The ones' complement sum of the 16-bit words of a byte string. -/
def onesSum (bs : List Byte) (fuel : Nat) : Nat :=
  match fuel, bs with
  | n + 1, a :: b :: r => a.toNat * 256 + b.toNat + onesSum r n
  | _, _ => 0

/-- A UDP checksum corrected for bytes that changed from `a` to `b` (even offset from the header). -/
def fixSum (old : Nat) (a b : List Byte) : Nat :=
  let z := 65535 - old + onesSum b b.length + (65535 * a.length - onesSum a a.length)
  let r := z % 65535
  if r = 0 then 0xFFFF else 65535 - r

/-- The frame as one-step operation leaves it: the transmit stamp in originTimestamp, the residence in correctionField. `fwd` says
that it was forwarded through the device. [log: DEDUCED 97] -/
def State.oneStep (s : State) (p : Nat) (bs : List Byte) (txNs rxNs : Nat) (fwd : Bool) : List Byte :=
  match ptpAt bs with
  | none => bs
  | some (k, u) =>
    let ty := byteAt bs k % 16
    let one := s.flag F.ptpCfg_ONESTEP_EN p && decide (ty = 0) && !bitAt (byteAt bs (k + 6)) 1
    let tc := s.flag F.ptpCfg_TC_EN p && fwd && decide (ty ≤ 3)
    if !one && !tc then bs
    else
      let b1 := if one then bytesPut bs (k + 34) (beBytes 6 (txNs / 1000000000) ++ beBytes 4 (txNs % 1000000000)) else bs
      let b2 := if tc then bytesPut b1 (k + 8)
          (beBytes 8 (ofSigned 64 ((beNat (bytesAt b1 (k + 8) 8) : Int) + ((txNs : Int) - rxNs) * 65536))) else b1
      match u with
      | none => b2
      | some (h, false) => bytesPut b2 (h + 6) (beBytes 2 0)
      | some (h, true) => bytesPut b2 (h + 6) (beBytes 2 (fixSum (half bs (h + 6)) (bytesAt bs k 44) (bytesAt b2 k 44)))

/-! ## The end of a transmission (R335–R337, R393, R550) -/

/-- A tap front end adds a frame to the totals of its port and class, modulo 2⁴⁸ (R550). -/
def State.tapAdd (s : State) (p c len : Nat) (bad : Bool) : State :=
  let i := 3 * (8 * p + c)
  let add (t : Tab Nat) (k n : Nat) : Tab Nat := tset t k 0 ((tget t k 0 + n) % 2 ^ 48)
  { s with zen := { s.zen with
      taps := if bad then add s.zen.taps (i + 2) 1 else add (add s.zen.taps i 1) (i + 1) len } }

/-- The bytes of a frame as the MAC sends it, after IOAM and one-step PTP, with its FCS: the stomped one for a frame marked BAD (R273). A frame
of direct mode that brought its FCS and was not changed keeps it (R392). [log: DEDUCED 95] -/
def State.sentBytes (s : State) (p : Nat) (x : Staged) (txNs res : Nat) : List Byte × State :=
  let m := x.m
  let tag := if m.mc then 0 else leNat (bytesAt m.phv 504 8)
  let a := s.ioam { hop := 0, iport := m.iport, eport := p, cls := m.cls, txNs := txNs, res := res, tag := tag } x.data
  let b := s.oneStep p a.1 txNs m.arrivalNs m.tx.isNone
  let body := b.take (b.length - 4)
  let f := (fcs body).toNat
  (if m.tx.isSome && decide (b = x.data) then b else body ++ leBytes 4 (if x.bad then 0xFFFFFFFF - f else f), a.2)

/-- A data frame's last byte has left port `p`: the port's stream takes it after the idle blocks before it (R38). [log: DEDUCED 98] -/
def State.frameSent (s : State) (p idle : Nat) (x : Staged) (txNs : Nat) : State :=
  let t := s.tileOf p
  let m := x.m
  let slot := some (s.slotOf p)
  let res := (txNs % 2 ^ 32 + 2 ^ 32 - m.arrivalNs % 2 ^ 32) % 2 ^ 32
  let o := s.sentBytes p x txNs res
  let len := o.1.length
  let s1 := ((o.2.perf t 3 slot (some [m.cls]) none 1).perf t 4 slot (some [m.cls]) none len).when x.bad
    (fun s => s.perf t 15 slot none none 1)
  let s2 := (s1.histLat p m.cls res).sendReport x.tile m.flow res
  let s3 := s2.offerEgress t p {
    egress := true, frame := o.1, len := len, iport := m.iport, cls := m.cls, eport := if m.mc then 0 else p, disp := 0, code := 0,
    ns := txNs, tag := if m.mc then 0 else leNat (bytesAt m.phv 504 8) }
  let s4 := (s3.tapAdd p m.cls len x.bad).frameOut p idle o.1
  match m.tx with
  | some (r, gen, pos) => s4.complete r gen pos 0 (if m.tsReq then txNs % 2 ^ 64 else 0) len
  | none => s4

/-- The last byte of what port `p` sends leaves the MAC: a pause or PFC frame is counted, a data frame makes its transmission
contributions. A frame whose end has not crossed yet goes on. -/
def State.txEnd (s : State) (p idle : Nat) : State :=
  let n := s.np p
  match n.curCtl with
  | some f => ((s.setNp p { n with curCtl := none }).frameOut p idle f).perf (s.tileOf p) 6 (some (s.slotOf p))
      (some ((pauseTimes f).map (fun x => x.1))) none 1
  | none => match n.cur with
    | some x => if x.last then (s.setNp p { n with cur := none }).frameSent p idle x n.curNs else s
    | none => s

def execTxFrameEnd (p idle : Nat) (s : State) : Host.Outcome State Fault Refusal := .next (s.txEnd p idle)

end Sys2Proof.Machine
end

