-- ==== Sys2Proof/Machine/Squall.lean ====
section
/-!
DEFINITION. Squall (13_faults_bist_lifetime.md, R502–R518): detection and safe states, acceptance of messages with first-error capture and
reactions, block resets, mask sets, and retirement (R524–R527). BIST is in `Machine/Bist.lean`.
-/

namespace Sys2Proof.Machine

/-! ## Which kinds a source sends (R505) -/

/-- Kinds that the sources of a class send. -/
def kindsOf (src : Nat) : List Nat :=
  if src < 0x200 then [0x01, 0x02, 0x03]
  else if src < 0x400 then [0x02, 0x03]
  else match src / 16 with
    | 0x40 => [0x02, 0x0C]
    | 0x41 => [0x02, 0x0A, 0x0B]
    | 0x42 => [0x02, 0x04, 0x05, 0x06]
    | 0x43 => [0x02, 0x07, 0x08]
    | 0x44 => [0x02, 0x13, 0x14]
    | 0x45 => [0x02, 0x16]
    | 0x46 => [0x01, 0x02, 0x0B, 0x0D, 0x0E, 0x0F]
    | 0x47 => [0x01, 0x02, 0x0B, 0x0D, 0x0E, 0x0F]
    | 0x48 => if src < 0x484 then [0x02, 0x10, 0x11] else []
    | 0x49 => if src = srcDma then [0x02, 0x11, 0x12] else []
    | 0x4A => if src = srcPcie then [0x01, 0x02, 0x03] else []
    | 0x4B => if src = srcBist then [0x02, 0x20, 0x21, 0x22] else []
    | _ => match src with
      | 0x800 => [0x30, 0x31, 0x32]
      | 0x801 => [0x33, 0x34]
      | 0x802 => [0x01]
      | 0x803 => [0x36, 0x37]
      | 0x804 => [0x38, 0x39]
      | 0x805 => [0x3A]
      | _ => []

/-! ## Units that leave service (R524–R527) -/

/-- Domains of BIST slices: 0 to 15 tiles, 16 Anvil, 17 to 24 chiplets (R519). -/
def State.slice (s : State) (d : Nat) : Option Slice := tget s.squall.slices d none
def State.setSlice (s : State) (d : Nat) (v : Option Slice) : State :=
  (({ s with squall := { s.squall with slices := tset s.squall.slices d none v } })).wr .bistStatus
    (BitVec.ofNat 32 (setBits (s.rd .bistStatus).toNat d d (b2n v.isSome)))

/-- The role of a pipe changes (R194), and with it PIPE_ACTIVE and SPARE_FREE: active and standing-in pipes run. -/
def State.setRole (s : State) (t k role standin : Nat) : State :=
  let s1 := (s.fset F.pipeStatus_ROLE role t k).fset F.pipeStatus_STANDIN standin t k
  let act := setBits (s1.fget F.cirrusStatus_PIPE_ACTIVE t) k k (b2n (decide (role = 0) || decide (role = 2)))
  (s1.fset F.cirrusStatus_PIPE_ACTIVE act t).fset F.cirrusStatus_SPARE_FREE (b2n (decide (s1.fget F.pipeStatus_ROLE t 8 = 1))) t

/-- The spare of tile `t` is free. -/
def State.spareFree (s : State) (t : Nat) : Bool := decide (s.fget F.pipeStatus_ROLE t 8 = 1)

/-- A unit's fuse is blown (R526). -/
def State.blow (s : State) (cls unit : Nat) : State :=
  if s.boot.fuses.contains (cls, unit) then s else { s with boot := { s.boot with fuses := s.boot.fuses ++ [(cls, unit)] } }

/-- UNIT_RETIRED and EV_UNIT_RETIRED (R526, R535). -/
def State.sayRetired (s : State) (cls dom ix : Nat) : State :=
  (s.report srcBist 0x22 (cls * 2 ^ 44 + dom * 2 ^ 40 + ix)).post 0x0902 (cls + dom * 16 + ix * 256)

/-- A running slice's restore: the claimed unit returns (R520, R521), the spare to the pipe it stands in for since a TILE_FATAL (R510). -/
def State.restoreUnit (s : State) (d : Nat) (x : Slice) : State :=
  if x.wait then s
  else match x.cls with
  | 0 =>
    let for_ := if x.index = 8 ∧ x.prior = 2 then ((List.range 8).find? (fun k => decide (s.fget F.pipeStatus_ROLE d k = 5))).getD 0 else 0
    let s1 := s.setRole d x.index x.prior for_
    if x.prior = 0 ∧ s1.fget F.pipeStatus_ROLE d 8 = 2 ∧ s1.fget F.pipeStatus_STANDIN d 8 = x.index ∧ x.index ≠ 8 then s1.setRole d 8 1 0 else s1
  | 1 => if tget s.te.claims d 0 = 0 then s else { s with te := { s.te with claims := tset s.te.claims d 0 3 } }
  | 2 => (s.fset F.bpmStatus_FREE_CELLS (s.freeCells d + 1024) d).pgScan d
  | 4 => s.fset F.grpFree_V (s.fget F.grpFree_V 0 (x.index / 4) + 1024) 0 (x.index / 4)
  | _ => s

/-- The tile or chiplet of a domain. -/
def domUnit (d : Nat) : Nat := if d < 16 then d else if d = 16 then 0 else d - 17

/-- What BIST_RESULT shows of a slice. -/
def State.showSlice (s : State) (d : Nat) (x : Slice) (res : Nat) : State :=
  (s.wr .bistResult (BitVec.ofNat 32 (res + x.cls * 8 + domUnit d * 128))).wr .bistResIndex (BitVec.ofNat 32 x.index)

/-- EV_BIST_DONE when every domain has finished the plan (R522). -/
def State.planCheck (s : State) : State :=
  if s.flag F.bistStatus_PLAN = true ∧ s.squall.plan.isEmpty = true ∧ s.squall.slices.isEmpty = true then
    (s.fset F.bistStatus_PLAN 0).post 0x0903 (s.fget F.bistCtl_CLASS_MASK)
  else s

/-- A slice ends with a result, its unit restored (R519, R521). [log: DEDUCED 160] -/
def State.endSlice (s : State) (d res : Nat) : State :=
  match s.slice d with
  | none => s
  | some x => ((((s.restoreUnit d x).setSlice d none).showSlice d x res).bump .cntSlices).planCheck

/-- The slice of a domain ends with ABORTED when it tests a given unit. -/
def State.abortIf (s : State) (d : Nat) (p : Slice → Bool) : State :=
  match s.slice d with
  | some x => if p x then s.endSlice d 4 else s
  | none => s

/-- A pipe leaves service for good (R16, R527): the spare replaces it where it is free. The answer says whether a spare was left.
[log: DEDUCED 152] -/
def State.pipeOut (s : State) (t k : Nat) : Bool × State :=
  let s00 := s.fset F.spareTile_PIPE_RETIRED (s.fget F.spareTile_PIPE_RETIRED t ||| 2 ^ k) t
  let s0 := if k = 8 then s00.fset F.spareTile_PIPE_STANDIN 0 t else s00
  let mine := decide (s.fget F.pipeStatus_ROLE t 8 = 2) && decide (s.fget F.pipeStatus_STANDIN t 8 = k)
  let s1 := (s0.setRole t k 4 0).blow 0 (t * 16 + k)
  if k ≠ 8 ∧ (s.spareFree t || mine) = true then (true, ((s1.setRole t 8 0 0).fset F.spareTile_PIPE_STANDIN 0 t).spareUsed 0 t k) else (false, s1)

/-- A crossbar link fails (R510): a spare link replaces it, or with none left it is retired. [log: DEDUCED 151] -/
def State.linkOut (s : State) (t k : Nat) : State :=
  let left := s.fget F.spareTile_XLINK_LEFT t
  if 0 < left then ((s.fset F.spareTile_XLINK_LEFT (left - 1) t).blow 10 (t * 4 + left)).spareUsed 3 t k
  else if s.flag F.retireCfg_RETIRE_EN then
    ((s.wr .spareXlink (s.rd .spareXlink t ||| BitVec.ofNat 32 (2 ^ k)) t).blow 3 (t * 32 + k)).sayRetired 3 t k
  else s

/-- A lane leaves service (R527). -/
def State.laneRetire (s : State) (l : Nat) : State :=
  let s1 := (s.wr .spareLane (s.rd .spareLane (l / 32) ||| BitVec.ofNat 32 (2 ^ (l % 32))) (l / 32)).blow 6 l
  (s1.laneSafe l).sayRetired 6 (l / 64) (l % 64)

/-- An Anvil channel leaves service (R268, R527). -/
def State.chRetire (s : State) (n : Nat) : State :=
  (((s.fset F.spareAnvil_CH_RETIRED 1 n).fset F.anvChStatus_RETIRED 1 n).channelLost n).blow 8 n |>.sayRetired 8 0 n

/-- The queues of a tile are flushed and what else it buffers is dropped, with DROP_SAFE (R527). [log: DEDUCED 161] -/
def State.tileDrop (s : State) (t : Nat) : State :=
  let s1 := s.each (s.buf t).voqs (fun e s => s.flushQueue t e.1 0x0512)
  s1.each (s1.buf t).frames (fun e s => s.killFrame t e.1 0x0512)

/-- A tile leaves service (R489, R527): tile 0 by a chip reset, another at once. -/
def State.tileRetire (s : State) (t : Nat) : State :=
  if s.flag F.spareTile_TILE_RETIRED t then s
  else
    let s1 := s.blow 9 t
    let s2 := if t = 0 then (s1.fset F.spareTile_TILE_RETIRED 1 0).requestReset 3 0
      else
        let s3 := s1.each (s1.tilePorts t) (fun p s => s.portSafe p)
        ((s3.tileDrop t).abortIf t (fun _ => true)).fset F.spareTile_TILE_RETIRED 1 t
    s2.sayRetired 9 t 0

/-! ## Detection and the safe states of units (R504, R509) -/

/-- A queue enters its safe state (R287). [log: DEDUCED 88] -/
def State.voqSafe (s : State) (t q : Nat) : State :=
  ((s.setVoq t q { s.voq t q with safe := true }).flushQueue t q 0x0512).pgScan t

/-- A cell of the buffer is withdrawn until the next Dawn (R254). -/
def State.cellOut (s : State) (t c : Nat) : State :=
  let b := s.buf t
  if b.withdrawn.contains c then s
  else
    let free := b.freed.contains c || (decide (b.fresh ≤ c) && !b.inUse.contains c)
    let s1 := s.setBuf t { b with withdrawn := b.withdrawn ++ [c], freed := b.freed.filter (fun x => decide (x ≠ c)) }
    let s2 := s1.when free (fun s => s.fset F.bpmStatus_FREE_CELLS (s.freeCells t - 1) t)
    (s2.fset F.spareCells_WITHDRAWN (s.fget F.spareCells_WITHDRAWN t + 1) t).pgScan t

/-- A table bank enters its safe state: it serves nothing until the spare is loaded (R205); a claim of its memory's spare ends. -/
def State.bankSafe (s : State) (t mem bank : Nat) : State :=
  let s1 := s.abortIf t (fun x => decide (x.cls = 1) && decide (x.index / 64 = mem))
  let b := (t, mem, bank)
  if s1.te.safeBanks.contains b || s1.te.fixedBanks.contains b then s1
  else { s1 with te := { s1.te with safeBanks := s1.te.safeBanks ++ [b] } }

/-- A fault of the PCI Express interface (R504): the link goes to Recovery, and Advanced Error Reporting logs an Uncorrectable Internal Error. -/
def State.pcieFault (s : State) : State :=
  { s with host := { s.host with recoveries := s.host.recoveries + 1, aerInternal := true } }

/-- An Anvil channel enters its safe state until the next Dawn. -/
def State.chSafe (s : State) (n : Nat) : State :=
  ((s.fset F.anvChStatus_SAFE 1 n).abortIf 16 (fun x => decide (x.index = n))).channelLost n

/-- The oldest record that starts in page `k` of a queue's stream is dropped (R268). -/
def State.recLost (s : State) (t q k : Nat) : State :=
  let v := s.voq t q
  match v.seg.find? (fun r => decide (r.pos / 4080 = k)) with
  | none => s
  | some r =>
    let first := decide (v.seg.head? = some r)
    let rest := v.seg.erase r
    let w : Voq := { v with seg := rest, reading := v.reading && !first, rdPos := if first then r.pos + r.raw.length else v.rdPos
                            tail := if rest.isEmpty then [] else v.tail }
    ((s.setAnvUsed t r.m.iport r.m.ipri (s.anvUsed t r.m.iport r.m.ipri - r.raw.length)).setVoq t q w).discard t 0x0510 r.m

/-- A page whose record or trailer fails its CRC (R268, R524): that record is lost, or the segment ends after the page; the page is retired. -/
def State.pageFails (s : State) (n page kind : Nat) : State :=
  let pg := n * 786432 + page % 786432
  let s1 := s.each s.tm.tiles (fun b s => s.each (s.buf b.1).voqs (fun e s =>
    let v := s.voq b.1 e.1
    match v.pages.findIdx? (fun p => decide (p = pg)) with
    | none => s
    | some k =>
      let s1 := if kind = 0x0D then s.recLost b.1 e.1 (v.gone + k) else s.loseFrom b.1 e.1 ((v.gone + k + 1) * 4080)
      ((s1.settlePages b.1 e.1).voqNorm b.1 e.1).pgScan b.1))
  ((s1.bump .cntDataErr).retirePage pg).drainCheck

/-- What a unit does of itself on a fault, beside its message. [log: DEDUCED 147, 156] -/
def State.unitSafe (s : State) (src kind addr : Nat) : State :=
  let t := src % 16
  if src < 0x200 then
    if kind = 0x02 then s
    else
      let s1 := s.when (decide (kind = 0x01)) (fun s => s.setLane (src / 8 * 8) { s.lane (src / 8 * 8) with pllLost := true })
      (s1.laneSafe src).abortIf (17 + src / 64) (fun x => decide (x.cls = 6) && decide (x.index = src % 64))
  else if src < 0x400 then
    if kind = 0x02 then s else s.portSafe (src - 0x200)
  else match src / 16, kind with
    | 0x40, 0x0C => s.voqSafe t (if bitAt addr 12 then 4096 + addr % 128 else addr % 4096)
    | 0x41, 0x0A => s.cellOut t (addr % 65536)
    | 0x41, 0x0B => s.bump .cntDoubleFree t
    | 0x42, 0x05 => s.tblDrop (s.namedTid (bits addr 43 36) (addr % 2 ^ 32)) (addr % 2 ^ 32)
    | 0x42, 0x06 => s.bankSafe t (bits addr 37 36) (addr % 64)
    | 0x43, 0x07 => s.setPipe t { s.pipe t with csErr := tset (s.pipe t).csErr (addr % 32768) 0 2 }
    | 0x44, 0x13 => s.linkOut t (addr % 32)
    | 0x45, 0x16 => s.flowFree t (addr % 1048576)
    | 0x46, 0x01 => s.chSafe t
    | 0x46, 0x0F => s.chSafe t
    | 0x46, 0x0B => s.bump .cntPageDoubleFree
    | 0x46, 0x0D => s.pageFails t addr 0x0D
    | 0x46, 0x0E => s.pageFails t addr 0x0E
    | 0x47, 0x01 => s.chSafe (16 + t)
    | 0x47, 0x0F => s.chSafe (16 + t)
    | 0x47, 0x0B => s.bump .cntPageDoubleFree
    | 0x47, 0x0D => s.pageFails (16 + t) addr 0x0D
    | 0x47, 0x0E => s.pageFails (16 + t) addr 0x0E
    | 0x4A, 0x01 => s.pcieFault
    | 0x4A, 0x03 => s.pcieFault
    | 0x80, _ => match src with
      | 0x802 => { s.fset F.sqStatus_OSC_FALLBACK 1 with boot := { s.boot with rootLocked := false } }
      | 0x803 => s.fset F.bnStatus_FAULT 1
      | _ => s
    | _, _ => s

/-- A unit detects a fault (R502, R509): it enters its safe state and sends the message. A failing table word goes by the engine's rule
(R205). Kinds that another command of the block brings about are reported here without that command's effects. A source sends only the
kinds of R505. [log: DEDUCED 147, 183] -/
def execFaultDetect (src kind : Nat) (addr : BitVec 48) (s : State) : Host.Outcome State Fault Refusal :=
  .next (
    if !(kindsOf src).contains kind then s
    else if kind = 0x04 then s.tblBad (src % 16) (s.namedTid (bits addr.toNat 43 36) (addr.toNat % 2 ^ 32)) (addr.toNat % 2 ^ 32)
    else if src / 16 = 0x41 ∧ kind = 0x0B ∧ s.flag F.bpmCtl_DF_REPORT (src % 16) = false then s.unitSafe src kind addr.toNat
    else (s.report src kind addr.toNat).unitSafe src kind addr.toNat)

/-! ## The shortest line-rate frame (R22, R528) -/

/-- Frames of `l` bytes run at line rate on the 32 lanes of a tile with so many pipes and crossbar links: within its pipe rate, one packet to a pipe
and cycle, and within its crossbar beats, one to a link and cycle. Each takes 20 more bytes on its wire. -/
def lineRate (pipes links mhz l : Nat) : Bool :=
  decide (1600000 ≤ pipes * mhz * (l + 20)) && decide (ceilDiv l 64 * 1600000 ≤ links * mhz * (l + 20))

/-- The shortest length from which every length up to `n` runs at line rate; none where length `n` itself does not. -/
def shortestLineRate (pipes links mhz n : Nat) : Option Nat :=
  match (List.range (n + 1)).reverse.find? (fun l => !lineRate pipes links mhz l) with
  | none => some 0
  | some l => if l = n then none else some (l + 1)

/-! ## Reactions (R510–R516) -/

/-- ERR_N is asserted, driven low (R514): while any bit of ERRN_STATUS stands. With VIN absent it does not drive (R575). -/
def State.errN (s : State) : Bool := s.boot.vinValid && decide (s.rd .errnStatus ≠ 0)

/-- The mask set of a tile's block reset (R516): the tile's detectors, and the crossbar-port detectors of every tile for their links to it.
[log: DEDUCED 154] -/
def tileMask (t : Nat) : List (Nat × Nat × Option Nat) :=
  [srcVoq t, srcBpm t, srcTable t, srcCirrus t, srcTile t, srcHalo t].map (fun c => (c, c, none)) ++ [(srcTile 0, srcTile 15, some 0x13)]

/-- Step 1 of a block reset of tile `t` (R510). -/
def State.tileReset (s : State) (t addr : Nat) : State :=
  if s.tileOn t = false ∨ tget s.squall.blockReset t 0 ≠ 0 then s
  else
    let s1 := (s.abortIf t (fun _ => true)).startMask (tileMask t) (srcTile t)
    let pipe := if bits addr 35 32 = 1 then addr % 32 + 1 else 0
    ({ s1 with squall := { s1.squall with
        blockReset := tset s1.squall.blockReset t 0 1
        blockPipe := tset s1.squall.blockPipe t 0 pipe } }).setPipe t { s1.pipe t with stopped := true }

/-- Step 2 (R510, R174): committed threads and crossings have drained; the others are abandoned. -/
def execBlockResetDrained (t : Nat) (s : State) : Host.Outcome State Fault Refusal :=
  .next (
    let busy := (s.runningIn t).any (fun e => e.2.thread.committed) || (s.buf t).voqs.any (fun v => v.2.crossing.isSome)
    if tget s.squall.blockReset t 0 ≠ 1 ∨ busy = true then s
    else
      let s1 := s.each (s.runningIn t) (fun e s => s.abandon t e.1 5)
      { s1 with squall := { s1.squall with blockReset := tset s1.squall.blockReset t 0 2 } })

/-- The reaction window of a source's masks is over. -/
def State.release516 (s : State) (src : Nat) : State :=
  let f (m : Mask) : Mask := if m.held = src then { m with held := 0 } else m
  { s with squall := { s.squall with masks := s.squall.masks.map f } }

/-- The spare stands in for a pipe that a TILE_FATAL named, until the next Dawn (R510, R525). [log: DEDUCED 152] -/
def State.standIn (s : State) (t k : Nat) : State :=
  if s.spareFree t = true ∧ k < 8 ∧ s.fget F.pipeStatus_ROLE t k = 0 then
    ((s.setRole t k 5 0).setRole t 8 2 k).fset F.spareTile_PIPE_STANDIN 1 t
  else s

/-- Steps 3 and 4 (R510): parsing and dispatch resume. -/
def execBlockResetDone (t : Nat) (s : State) : Host.Outcome State Fault Refusal :=
  .next (
    if tget s.squall.blockReset t 0 ≠ 2 then s
    else
      let k := tget s.squall.blockPipe t 0
      let s1 : State := { s with squall := { s.squall with
        blockReset := tset s.squall.blockReset t 0 0, blockPipe := tset s.squall.blockPipe t 0 0 } }
      let s2 := (s1.setPipe t { s1.pipe t with stopped := false }).release516 (srcTile t)
      (s2.when (decide (k ≠ 0)) (fun s => s.standIn t (k - 1))).dispatchHeld t)

/-- Every segment ends, and the channels retrain (R268, R512). -/
def State.anvilReset (s : State) : State :=
  let s1 := s.fset F.anvilStatus_READY 0
  s1.each s1.tm.tiles (fun b s => (s.each (s.buf b.1).voqs (fun e s =>
    if e.2.pages.isEmpty then s else ((s.loseFrom b.1 e.1 (e.2.gone * 4080)).settlePages b.1 e.1).voqNorm b.1 e.1)).pgScan b.1)

/-- A block reset of a privileged source begins (R512, R516). [log: DEDUCED 127] -/
def State.privReset (s : State) (i : Nat) : State :=
  let src := 0x800 + i
  if s.squall.privReset.contains src then s
  else
    let ms := [(src, src, none)] ++ (if src = srcAnvilCtl then [(srcAnvilCh 0, srcAnvilCh 31, none)] else [])
    let s0 := s.startMask ms src
    let s1 : State := { s0 with squall := { s0.squall with privReset := s0.squall.privReset ++ [src] } }
    match i with
    | 0 => (({ s1.toOp7 with power := { s1.toOp7.power with resetHold := true, grace := false, unmetStay := false } }).fset
        F.pwrStatus_CAP_UNMET 0).throttleNow
    | 1 => forN 73 (fun k s => s.fset F.temp_VALID 0 k) ({ s1.toOp7 with power := { s1.toOp7.power with resetHold := true } }).throttleNow
    | 3 => { s1.fset F.bnStatus_BUSY 0 with trust := { s1.trust with run := none, newOwner := [], zcmd := none, zreply := none } }
    | 5 => s1.anvilReset
    | _ => s1

/-- A privileged source's block reset ends (R512); `ok` is Bennidan's self-test. [log: DEDUCED 127, 164] -/
def execPrivBlockResetDone (i : Nat) (ok : Bool) (s : State) : Host.Outcome State Fault Refusal :=
  .next (
    let src := 0x800 + i
    if !s.squall.privReset.contains src then s
    else
      let s0 := s.release516 src
      let s1 : State := { s0 with squall := { s0.squall with privReset := s0.squall.privReset.filter (fun x => decide (x ≠ src)) } }
      match i with
      | 0 =>
        let held := s1.squall.privReset.contains srcThermal || (List.range 73).any (fun k => !s1.flag F.temp_VALID k)
        ({ s1 with power := { s1.power with resetHold := held } }).loopStart (s1.fget F.vinMv_V)
      | 3 => s1.fset F.bnStatus_FAULT (b2n (!ok))
      | 5 => if s1.flag F.anvilCtl_EN = true ∧ s1.power.gddrOn = true then s1.anvilTrained else s1
      | _ => s1)

/-- The oldest mask set whose reaction window is over ends (R516). -/
def execMaskSetExpire (s : State) : Host.Outcome State Fault Refusal :=
  .next (match s.squall.masks.find? (fun m => decide (m.held = 0)) with
    | none => s
    | some m =>
      let rest := s.squall.masks.filter (fun x => decide (x.id ≠ m.id))
      ({ s with squall := { s.squall with masks := rest } }).fset F.sqStatus_MASK_ACTIVE (b2n (!rest.isEmpty)))

/-! ## Retirement by count (R526) -/

/-- The unit that a message's own safe state, or a TILE_FATAL naming it, concerns: its class and number. [log: DEDUCED 153] -/
def retireUnit (m : Msg) : Option (Nat × Nat) :=
  if m.kind = 0x14 then
    some (if bits m.addr 35 32 = 1 then (0, m.source % 16 * 16 + m.addr % 32) else (9, m.source % 16))
  else if m.sev ≠ 2 then none
  else if m.source < 0x200 then some (6, m.source)
  else if 0x460 ≤ m.source ∧ m.source < 0x480 then some (8, m.source - 0x460)
  else none

/-- A unit is retired. -/
def State.retire (s : State) (u : Nat × Nat) : State :=
  match u with
  | (0, k) => if bitAt (s.fget F.spareTile_PIPE_RETIRED (k / 16)) (k % 16) then s else ((s.pipeOut (k / 16) (k % 16)).2).sayRetired 0 (k / 16) (k % 16)
  | (6, l) => if bitAt (s.rd .spareLane (l / 32)).toNat (l % 32) then s else s.laneRetire l
  | (8, n) => if s.flag F.spareAnvil_CH_RETIRED n then s else s.chRetire n
  | (_, t) => s.tileRetire t

/-- An act counts, and the RETIRE_N-th within RETIRE_WIN_S retires the unit. [log: DEDUCED 153] -/
def State.countAct (s : State) (m : Msg) : State :=
  match retireUnit m with
  | none => s
  | some u =>
    let win := max 1 (s.fget F.retireCfg_RETIRE_WIN_S) * 400000000
    let acted := s.squall.acted.filter (fun a => decide (s.time.ticks - a.2.2 < win)) ++ [(u.1, u.2, s.time.ticks)]
    let s1 : State := { s with squall := { s.squall with acted := acted } }
    let n := (acted.filter (fun a => decide ((a.1, a.2.1) = u))).length
    if s.flag F.retireCfg_RETIRE_EN = true ∧ max 1 (s.fget F.retireCfg_RETIRE_N) ≤ n then s1.retire u else s1

/-! ## Acceptance (R506–R508, R511, R513, R517) -/

/-- The next message in round-robin order of the sources: the source after the last one accepted, its oldest message. [log: DEDUCED 148] -/
def State.nextMsg (s : State) : Option Msg :=
  let far (m : Msg) : Nat := (m.source + 4095 - s.squall.lastSrc) % 4096
  s.squall.flight.foldl (fun b m => match b with
    | none => some m
    | some x => if far m < far x then some m else b) none

/-- The message without its first occurrence. -/
def dropMsg (l : List Msg) (m : Msg) : List Msg := l.erase m

/-- A message lies in an active mask set other than the one its own safe state started. [log: DEDUCED 181] -/
def State.conseq (s : State) (m : Msg) : Bool :=
  s.squall.masks.any (fun k => decide (m.own ≠ some k.id) && k.covers m.source m.kind)

/-- The actions that a message takes as the bits of R532, with bit 5 for a tile's block reset. -/
def State.actions (s : State) (m : Msg) : Nat :=
  match privIx m.source with
  | some i =>
    let a := s.fget F.reactCfg_ACT i
    let a := if m.sev < 2 then a &&& 1 else a
    let a := if m.sev = 4 ∨ (i = 2 ∧ bitAt a 2 = true) then a ||| 8 else a
    if bitAt a 3 then setBits a 2 2 0 else a
  | none => if m.kind = 0x14 then 32 else 0

/-- REACTION of a message (R502). -/
def reactionOf (m : Msg) (a : Nat) : Nat :=
  if bitAt a 3 then 3 else if bitAt a 2 || bitAt a 5 then 2 else if m.safe then 1 else if bitAt a 0 || bitAt a 1 then 4 else 0

/-- The 128 bits of a message (R502). -/
def msgWord (m : Msg) (seq reaction : Nat) (conseq : Bool) : Nat :=
  m.source + m.kind * 2 ^ 12 + m.sev * 2 ^ 20 + b2n conseq * 2 ^ 23 + reaction * 2 ^ 24 + m.addr * 2 ^ 32 + m.stamp * 2 ^ 80 + seq * 2 ^ 112

/-- SQ_IRQ.VECTOR is sent when EN is 1. [log: DEDUCED 150] -/
def State.sqVector (s : State) : State := if s.flag F.sqIrq_EN then s.sendVec 0 (s.fget F.sqIrq_VECTOR) else s

/-- First-error capture (R507, R508). -/
def State.capture (s : State) (m : Msg) (w : Nat) : State :=
  if m.sev < s.fget F.sqCtl_LATCH_SEV then s
  else if s.flag F.sqStatus_FIRST_VALID then (s.fset F.sqStatus_OVERFLOW 1).bump .cntMsg
  else ((forN 4 (fun k s => s.wr .firstMsg (BitVec.ofNat 32 (w / 2 ^ (32 * k))) k) s).fset F.sqStatus_FIRST_VALID 1).sqVector

/-- The reactions to a message that is not CONSEQUENTIAL (R510, R511, R513). [log: DEDUCED 150] -/
def State.react (s : State) (m : Msg) (a : Nat) : State :=
  let i := m.source - 0x800
  let s1 := s.when (bitAt a 0) State.sqVector
  let s2 := s1.when (bitAt a 1) (fun s => (s.sendVec 0 (s.fget F.sqIrq_URG_VECTOR)).fset F.sqIrq_URG_PEND 1)
  let s3 := s2.when (bitAt a 4) (fun s => s.fset F.errnStatus_SRC (s.fget F.errnStatus_SRC ||| 2 ^ i))
  let s4 := s3.when (bitAt a 2) (fun s => s.privReset i)
  let s5 := s4.when (bitAt a 3) (fun s => s.requestReset 3 0)
  s5.when (bitAt a 5) (fun s => s.tileReset (m.source % 16) m.addr)

/-- Squall accepts the next message (R506): SEQ, PEND, tag, capture, reactions, the count toward retirement. [log: DEDUCED 148] -/
def execSquallAccept (s : State) : Host.Outcome State Fault Refusal :=
  .next (match s.nextMsg with
    | none => s
    | some m =>
      let seq := s.squall.seq
      let s1 := ({ s with squall := { s.squall with
        flight := dropMsg s.squall.flight m, seq := (seq + 1) % 65536, lastSrc := m.source } }).setPend m.source
      if s.conseq m then s1.bump .cntConseq
      else
        let a := s.actions m
        ((s1.capture m (msgWord m seq (reactionOf m a) false)).react m a).countAct m)

/-- FIRST_CTL.REARM (R507). -/
def State.rearm (s : State) (v : Nat) : State :=
  if bitAt v 0 then (s.fset F.sqStatus_FIRST_VALID 0).fset F.sqStatus_OVERFLOW 0 else s
def execFirstRearm (s : State) : Host.Outcome State Fault Refusal := .next (s.rearm 1)

/-- The root PLL locks again (R515): Squall leaves the on-die oscillator, and a Dawn that waits may go on. [log: DEDUCED 155] -/
def execRootPllRelock (s : State) : Host.Outcome State Fault Refusal :=
  .next { s.fset F.sqStatus_OSC_FALLBACK 0 with boot := { s.boot with rootLocked := true } }

end Sys2Proof.Machine
end

