-- ==== Sys2Proof/Machine/Bist.lean ====
section
/-!
DEFINITION. BIST under traffic (13_faults_bist_lifetime.md, R519–R525, R533): plans, slices with their claims and restores, results and
what a failure does.
-/

namespace Sys2Proof.Machine

/-! ## Units and plans (R520, R522) -/

/-- The domain of a class and unit: tiles 0–15, Anvil 16, chiplets 17–24. -/
def domOf (cls dom : Nat) : Nat := if cls = 4 then 16 else if 6 ≤ cls then 17 + dom % 8 else dom

/-- A unit of class `cls` in domain `d` can be tested: its domain is in use, its number names one, and Horizon mode has it.
[log: DEDUCED 158] -/
def State.unitOk (s : State) (d cls ix : Nat) : Bool :=
  let place := if d < 16 then s.tileOn d else if d = 16 then !s.hz else !s.hz || decide (d = 17)
  place && (match cls with
    | 0 => decide (ix < 9)
    | 1 => decide (ix % 64 < nth [64, 32, 16, 8] (ix / 64) 0)
    | 2 => decide (ix < 65536) && decide (ix % 1024 = 0)
    | 3 => decide (ix < 26)
    | 4 => decide (ix < 32)
    | 5 => decide (ix < 32768) && decide (ix % 1024 = 0)
    | 6 => decide (ix < 64)
    | 7 => true
    | _ => false)

/-- The numbers of the units of a class in one domain, ascending. [log: DEDUCED 158] -/
def unitsOf (cls : Nat) : List Nat :=
  match cls with
  | 0 => List.range 9
  | 1 => List.range 64 ++ (List.range 32).map (64 + ·) ++ (List.range 16).map (128 + ·) ++ (List.range 8).map (192 + ·)
  | 2 => (List.range 64).map (1024 * ·)
  | 3 => List.range 26
  | 4 => List.range 32
  | 5 => (List.range 32).map (1024 * ·)
  | 6 => List.range 64
  | 7 => [0]
  | _ => []

/-- The classes that a domain has. -/
def classesOf (d : Nat) : List Nat := if d < 16 then [0, 1, 2, 3, 5] else if d = 16 then [4] else [6, 7]

/-- The plan of a domain for a class mask. -/
def State.planOf (s : State) (d mask : Nat) : List Slice :=
  ((classesOf d).filter (bitAt mask)).flatMap (fun c =>
    ((unitsOf c).filter (s.unitOk d c)).map (fun i => { cls := c, index := i }))

/-! ## Starting a slice (R519, R520) -/

/-- The condition under which a slice is SKIPPED. -/
def State.skips (s : State) (d : Nat) (x : Slice) : Bool :=
  match x.cls with
  | 0 => decide (s.fget F.pipeStatus_ROLE d x.index = 4)
  | 1 => bitAt (s.fget F.ttBank_SPARE_FIXED d) (x.index / 64) ||
      s.te.safeBanks.any (fun b => decide (b.1 = d) && decide (b.2.1 = x.index / 64))
  | 2 => decide (s.sharedFree d < s.fget F.poolCfg_POOL_XOFF_FREE d * 16 + 1024)
  | 3 => decide (s.fget F.spareTile_XLINK_LEFT d = 0)
  | 4 => decide (s.fget F.grpFree_V 0 (x.index / 4) < 65536) || s.flag F.anvChStatus_SAFE x.index
  | 6 => match s.portOfLane ((d - 17) * 64 + x.index) with
    | some (p, _) => decide (s.fget F.portStatus_STATE p ≠ 7)
    | none => false
  | _ => false

/-- The claim must wait: committed threads of a pipe still run (R174), or the copy back of the claim before it (R203). -/
def State.mustWait (s : State) (d : Nat) (x : Slice) : Bool :=
  match x.cls with
  | 0 => (s.runningIn d).any (fun e => decide (e.2.thread.pipe = x.index) && e.2.thread.committed)
  | 1 => decide (tget s.te.claims d 0 ≠ 0)
  | _ => false

/-- The unit is claimed (R186, R203, R520). -/
def State.claimUnit (s : State) (d : Nat) (x : Slice) : State :=
  match x.cls with
  | 0 =>
    let free := s.spareFree d
    let role := s.fget F.pipeStatus_ROLE d x.index
    let s1 := s.each (s.runningIn d) (fun e s => if e.2.thread.pipe = x.index then s.abandon d e.1 4 else s)
    let s2 := s1.setRole d x.index 3 0
    if free = true ∧ x.index ≠ 8 ∧ role = 0 then s2.setRole d 8 2 x.index else s2
  | 1 =>
    let s1 : State := { s with te := { s.te with claims := tset s.te.claims d 0 1 } }
    ((s1.fset F.ttBank_CLAIMED 1 d).fset F.ttBank_MEMORY (x.index / 64) d).fset F.ttBank_BANK x.index d
  | 2 => (s.fset F.bpmStatus_FREE_CELLS (s.freeCells d - 1024) d).pgScan d
  | 4 => s.fset F.grpFree_V (s.fget F.grpFree_V 0 (x.index / 4) - 1024) 0 (x.index / 4)
  | _ => s

/-- The unit is claimed and its slice runs. -/
def State.claim (s : State) (d : Nat) (x : Slice) : State :=
  (s.claimUnit d x).setSlice d (some { x with prior := if x.cls = 0 then s.fget F.pipeStatus_ROLE d x.index else 0 })

/-- A domain that is idle takes a unit: SKIPPED at once, or a slice whose claim is made now or waits. `done` marks it as taken. -/
def State.takeUnit (s : State) (d : Nat) (x : Slice) (done : State → State) : State :=
  if s.skips d x then ((done ((s.showSlice d x 2).bump .cntBistSkip))).planCheck
  else if s.mustWait d x then (done s).setSlice d (some { x with wait := true })
  else (done s).claim d x

/-- An idle domain starts the next slice of its plan (R522). -/
def State.nextSlice (s : State) (d : Nat) : State :=
  match s.slice d, tget s.squall.plan d [] with
  | none, x :: rest => s.takeUnit d x (fun s => { s with squall := { s.squall with plan := tset s.squall.plan d [] rest } })
  | _, _ => s

/-- GAP_MS after its last slice an idle domain starts its next one, with TRIG_EN at 0; a slice whose claim waited takes its unit (R174, R203, R522).
[log: DEDUCED 162] -/
def execBistSliceStart (d : Nat) (s : State) : Host.Outcome State Fault Refusal :=
  .next (match s.slice d with
    | some x => if x.wait = true ∧ s.mustWait d x = false then s.claim d { x with wait := false } else s
    | none => if s.flag F.bistCtl_TRIG_EN then s else s.nextSlice d)

/-- A firing of trigger `k`: with TRIG_EN at 1 and TRIG naming it, every idle domain starts its next slice (R439, R522). -/
def State.bistFiring (s : State) (k : Nat) : State :=
  if s.flag F.bistCtl_TRIG_EN = true ∧ s.fget F.bistCtl_TRIG = k then forN 25 (fun d s => s.nextSlice d) s else s

/-! ## Commands (R521, R522, R533) -/

/-- RUN_PLAN: every unit of every class of the mask; ignored while a plan is in progress. [log: DEDUCED 159] -/
def State.runPlan (s : State) : State :=
  if s.flag F.bistStatus_PLAN then s
  else
    let m := s.fget F.bistCtl_CLASS_MASK
    let s1 := forN 25 (fun d t => { t with squall := { t.squall with plan := tset t.squall.plan d [] (s.planOf d m) } }) s
    (s1.fset F.bistStatus_PLAN 1).planCheck

/-- RUN_ONE: the unit of BIST_UNIT and BIST_INDEX; ignored where its domain runs a slice or no such unit can be tested. [log: DEDUCED 159] -/
def State.runOne (s : State) : State :=
  let c := s.fget F.bistUnit_CLASS
  let d := domOf c (s.fget F.bistUnit_DOMAIN)
  let ix := if c = 7 then 0 else s.fget F.bistIndex_INDEX
  if (s.slice d).isSome || !s.unitOk d c ix then s else s.takeUnit d { cls := c, index := ix } id

/-- STOP: the running slices end with ABORTED, and the plan with them. -/
def State.bistStop (s : State) : State :=
  let s1 : State := { s with squall := { s.squall with plan := [] } }
  forN 25 (fun d s => s.endSlice d 4) (s1.fset F.bistStatus_PLAN 0)

/-- A write of BIST_CTL. -/
def State.bistCtlWrite (s : State) (v : Word) : State :=
  let s1 := s.wr .bistCtl (v &&& 0x1FFFFFC#32)
  match v.toNat % 4 with
  | 1 => s1.runPlan
  | 2 => s1.runOne
  | 3 => s1.bistStop
  | _ => s1

def execBistRunPlan (v : Word) (s : State) : Host.Outcome State Fault Refusal := .next (s.bistCtlWrite ((v &&& 0xFFFFFFFC#32) ||| 1#32))
def execBistRunOne (v : Word) (s : State) : Host.Outcome State Fault Refusal := .next (s.bistCtlWrite ((v &&& 0xFFFFFFFC#32) ||| 2#32))
def execBistStop (v : Word) (s : State) : Host.Outcome State Fault Refusal := .next (s.bistCtlWrite ((v &&& 0xFFFFFFFC#32) ||| 3#32))

/-! ## Failures (R523–R526) -/

/-- A failing SRAM row of a tile takes one of the four repair rows of its macro (R524); REPAIR_LEFT shows the fewest left. The answer says whether
one was left. [log: DEDUCED 161] -/
def State.repairRow (s : State) (cls t mac ix : Nat) : Bool × State :=
  let key := (t * 16 + cls) * 65536 + mac
  let used := tget s.squall.repairs key 0
  if used < 4 then
    let s1 : State := { s with squall := { s.squall with repairs := tset s.squall.repairs key 0 (used + 1) } }
    (true, (s1.fset F.spareTile_REPAIR_LEFT (min (s.fget F.spareTile_REPAIR_LEFT t) (3 - used)) t).spareUsed cls t ix)
  else (false, s)

/-- The macro of a cell: 16 cells to a row, 1,024 rows to a macro (R524, R525). -/
def cellMacro (cell : Nat) : Nat := cell / 16384

/-- The 16 cells of a failing row of the cell buffer are withdrawn (R525). -/
def State.rowOut (s : State) (t cell : Nat) : State := forN 16 (fun k s => s.cellOut t (cell / 16 * 16 + k)) s

/-- What a failed unit's spare, repair or retirement does; `loc` is the failing cell, word or page within the unit. [log: DEDUCED 152, 161] -/
def State.unitFails (s : State) (d : Nat) (x : Slice) (loc : Nat) : State :=
  let en := s.flag F.retireCfg_RETIRE_EN
  match x.cls with
  | 0 =>
    let r := s.pipeOut d x.index
    if r.1 then r.2 else if en then r.2.sayRetired 0 d x.index else s
  | 1 =>
    let r := s.repairRow 1 d x.index x.index
    if r.1 then r.2
    else
      let s1 : State := { s with te := { s.te with claims := tset s.te.claims d 0 0 } }
      (s1.fset F.ttBank_CLAIMED 0 d).bankFix d (x.index / 64) (x.index % 64)
  | 2 =>
    let c := x.index + loc % 1024
    let r := s.repairRow 2 d (cellMacro c) x.index
    if r.1 then r.2 else s.rowOut d c
  | 3 => s.linkOut d x.index
  | 4 =>
    if s.fget F.spareAnvil_PAGES_RETIRED x.index < 16384 then s.retirePage (x.index * 786432 + loc % 786432)
    else if en then s.chRetire x.index else s
  | 5 =>
    let r := s.repairRow 5 d (x.index / 1024) x.index
    if r.1 then r.2 else if en then s.tileRetire d else s
  | 6 => if en then s.laneRetire ((d - 17) * 64 + x.index) else s
  | _ => s

/-- A CSTORE slice corrects a single-bit error of a control-store word: reported with no pipe named, and rewritten later (R178, R520). -/
def State.csFixed (s : State) (t a : Nat) : State :=
  (s.setPipe t { s.pipe t with csErr := tset (s.pipe t).csErr a 0 (max 1 (tget (s.pipe t).csErr a 0)) }).report (srcCirrus t) 0x02 (csAddr t 0xF a)

/-- A slice finishes its test (R519, R523): the unit is restored with PASS or FAIL; a failure is counted, reported and acted on. A bank's
copy into the spare must have ended (R203). [log: DEDUCED 160] -/
def execBistSliceEnd (d : Nat) (ok : Bool) (loc : Nat) (fixed : List (Fin 1024)) (s0 : State) : Host.Outcome State Fault Refusal :=
  .next (match s0.slice d with
    | none => s0
    | some x =>
      let s := if x.cls = 5 then s0.each fixed (fun k s => s.csFixed d (x.index + k)) else s0
      if x.wait = true ∨ (x.cls = 1 ∧ tget s.te.claims d 0 = 1) then s
      else if ok then s.endSlice d 0
      else
        let s1 := ((((s.restoreUnit d x).setSlice d none).showSlice d x 1).bump .cntSlices).bump .cntBistFail
        ((s1.report srcBist 0x20 (x.cls * 2 ^ 44 + domUnit d * 2 ^ 40 + x.index)).unitFails d x loc).planCheck)

/-- A slice still testing near 2 ms is stopped (R521). -/
def execBistSliceTimeout (d : Nat) (s : State) : Host.Outcome State Fault Refusal := .next (s.endSlice d 3)

end Sys2Proof.Machine
end

