-- ==== Sys2Proof/Machine/Rings.lean ====
section
/-!
DEFINITION. What the rings hand to the device and take from it (09_host_rings_dma.md): starting TX, table command and DMA program
entries, frames read from TX rings (R392, R393), telemetry capture buffers (R395), and function-level reset (R403).
-/

namespace Sys2Proof.Machine

/-! ## Starting entries (R386, R388, R399, R400) -/

/-- A TX descriptor is malformed (R392, R399). -/
def txMalformed (d : List Byte) : Bool :=
  let len := leNat (bytesAt d 8 2) % 16384
  let b := byteAt d 12
  decide (2 ≤ b / 8 % 4) || decide (len = 0) || (bitAt b 6 && decide (len < 64))

/-- The head copy of a host-filled ring is started: it leaves the prefetch buffer and holds a slot (R388, R400). -/
def State.startEntry (s : State) (r pos : Nat) (d : List Byte) : State :=
  let q := s.ring r
  (s.putRing r { q with fetched := q.fetched.drop 1 }).reserve r pos d

/-- A TX entry starts: its buffer is read (R393). -/
def State.startTx (s : State) (r pos : Nat) (d : List Byte) : State :=
  let a := leNat (bytesAt d 0 8)
  if 64 ≤ s.fget F.ringStatus_HOLD r then s
  else if txMalformed d then s.ringError r 1 (posWord (s.ringSize r) pos)
  else if s.hostOk (s.ringOwnerOf r) a (leNat (bytesAt d 8 2) % 16384) false = false then s.violation (s.ringOwnerOf r) 3 a r
  else s.startEntry r pos d

/-- A table command starts: it passes to the engine with its data block (R215, R216). -/
def State.startTable (s : State) (r pos : Nat) (d data : List Byte) : State :=
  let a := leNat (bytesAt d 8 8)
  let len := leNat (bytesAt d 16 2)
  let o := teOpOf (leNat (bytesAt d 0 4)) (leNat (bytesAt d 4 4)) (bytesAt data 0 len)
  if 64 ≤ s.fget F.ringStatus_HOLD r then s
  else if (s.teCheck o.op o.tid len).isSome then s.ringError r 1 (posWord (s.ringSize r) pos)
  else if len ≠ 0 ∧ s.hostOk (s.ringOwnerOf r) a len false = false then s.violation (s.ringOwnerOf r) 3 a r
  else (s.startEntry r pos d).teAccept (.ring r) { o with addr := a, gen := (s.ring r).gen, pos := pos }

/-- A DMA program descriptor: the ring waits at it until the channel is IDLE; the entry is finished when the channel accepts it
(R397, R398). -/
def State.startProg (s : State) (r pos : Nat) (d : List Byte) : State :=
  let n := byteAt d 8 % 32
  let sp := byteAt d 8 / 32 % 4
  if 2 ≤ sp ∨ s.chOwned (s.ringOwnerOf r) n = false then s.ringError r 1 (posWord (s.ringSize r) pos)
  else if s.fget F.chStatus_STATE n ≠ 0 ∨ s.unusableBlk 4 = true then s
  else
    let q := s.ring r
    ((s.putRing r { q with fetched := q.fetched.drop 1 }).chRun n (leNat (bytesAt d 0 8) / 32 * 32) sp).finishEntry r pos d

/-- The next fetched entry of a host-filled ring starts; `data` is what host memory holds at a table command's DATA_ADDR. -/
def execDescriptorStart (r : Nat) (data : List Byte) (s : State) : Host.Outcome State Fault Refusal :=
  .next (
    if s.ringState r ≠ 1 ∨ s.blocked (s.ringOwnerOf r) = true then s
    else match (s.ring r).fetched with
      | [] => s
      | (pos, d) :: _ =>
        let ty := s.ringTypeOf r
        if ty ≠ 1 ∧ ty ≠ 3 ∧ ty ≠ 7 then s
        else if bitAt (byteAt d 31) 7 = false then s.ringError r 2 (posWord (s.ringSize r) pos)
        else if ty = 1 then s.startTx r pos d
        else if ty = 3 then s.startTable r pos d data
        else s.startProg r pos d)

/-! ## Frames from TX rings (R392, R393) -/

/-- The frame of a TX descriptor: the buffer, padded and with its FCS unless it brings one. [log: DEDUCED 95] -/
def txFrame (d data : List Byte) : List Byte :=
  let b := bytesAt data 0 (leNat (bytesAt d 8 2) % 16384)
  if bitAt (byteAt d 12) 6 then b
  else
    let p := b ++ List.replicate (60 - b.length) 0
    p ++ leBytes 4 (fcs p).toNat

/-- The bytes of a whole frame arrive in a tile's cells. -/
def State.rxWhole (s : State) (t fid : Nat) (bs : List Byte) (fuel : Nat) : State :=
  match fuel with
  | 0 => s
  | n + 1 => if bs.isEmpty then s else (s.rxBytes t fid (bs.take 256)).rxWhole t fid (bs.drop 256) n

/-- A new frame in a tile, and its number. -/
def State.newFrame (s : State) (t : Nat) (f : Frame) : Nat × State :=
  let b := s.buf t
  (b.nextFid, (s.setBuf t { b with nextFid := b.nextFid + 1 }).setFrame t b.nextFid f)

/-- Direct mode: charged to PG (PORT, CLASS) of PORT's tile, linked after the checks, never cut through. ARRIVAL is a free value.
[log: DESIGN CHOICE 8, DEDUCED 96] -/
def State.txDirect (s : State) (r pos : Nat) (d bs : List Byte) : State :=
  let p := leNat (bytesAt d 10 2) % 512
  let c := byteAt d 12 % 8
  let t := s.tileOf p
  let a := s.draw
  let m : FMeta := { iport := p, iclass := c, ipri := c, arrivalNs := a.1.toNat, eport := p, cls := c,
                     tx := some (r, (s.ring r).gen, pos), tsReq := bitAt (byteAt d 12) 5 }
  if s.tileOn t = false then s.discard t 0x050A m
  else
    let x := a.2.newFrame t { m := m, done := true, parsed := true, released := true, waited := true }
    let s1 := x.2.rxWhole t x.1 bs (bs.length + 1)
    if (s1.frame t x.1).dead.isSome ∨ (s1.frame t x.1).cells.isEmpty then s1.sweep t x.1 else s1.linkUnicast t x.1

/-- Inject mode: the frame enters PORT's tile as if PORT had received it; the completion follows its admission or refusal.
[log: DEDUCED 96] -/
def State.txInject (s : State) (r pos : Nat) (d bs : List Byte) : State :=
  let p := leNat (bytesAt d 10 2) % 512
  let t := s.tileOf p
  let gen := (s.ring r).gen
  let i := s.ipriOf p bs
  let fail (s : State) (code : Nat) : State := let a := s.draw
    a.2.complete r gen pos code 0 (a.1.toNat % 2 ^ 32)
  if s.portEnabled p = false ∨ s.fget F.portStatus_STATE p = 8 ∨ s.tileOn t = false then
    fail (s.dropCount t 0x050A (s.slotOf p) i) 0x050A
  else
    let x := s.newFrame t { m := { iport := p, ipri := i, arrivalNs := s.ptpNs } }
    let s1 := x.2.rxWhole t x.1 bs (bs.length + 1)
    let good := decide (reFcs bs = bs)
    match (s1.frame t x.1).dead with
    | some code => fail (s1.frameWhole t x.1 good) code
    | none => (s1.frameWhole t x.1 good).complete r gen pos 0 0 bs.length

/-- A TX buffer has been read: the frame is injected or linked. A host read error puts the ring in ERROR (R391). -/
def execTxBufferReadDone (r : Nat) (data : List Byte) (ok : Bool) (s : State) : Host.Outcome State Fault Refusal :=
  .next (
    let q := s.ring r
    match if s.ringTypeOf r = 1 then q.started.find? (fun e => !e.read) else none with
    | none => s
    | some e =>
      if ok = false then
        ((s.setRing r { q with started := q.started.filter (fun x => decide (x.pos ≠ e.pos)) }).fset F.ringStatus_HOLD
          (s.fget F.ringStatus_HOLD r - 1) r).ringError r 4 (posWord (s.ringSize r) e.pos)
      else
        let mark (x : Slot) : Slot := if x.pos = e.pos then { x with read := true } else x
        let s1 := s.setRing r { q with started := q.started.map mark }
        let bs := txFrame e.desc data
        if byteAt e.desc 12 / 8 % 4 = 0 then s1.txDirect r e.pos e.desc bs else s1.txInject r e.pos e.desc bs)

/-! ## Telemetry capture buffers (R395) -/

/-- The first record of a list bound for ring `r`, and the list without it. [log: DESIGN CHOICE 110] -/
def pickRec (r : Nat) (l : List (Nat × List Byte)) : Option (List Byte × List (Nat × List Byte)) :=
  match l with
  | [] => none
  | x :: rest => if x.1 = r then some (x.2, rest) else (pickRec r rest).map (fun y => (y.1, x :: y.2))

/-- The next record for a ring among the tiles' export and capture queues, and the state with it taken. [log: DESIGN CHOICE 110] -/
def State.nextRec (s : State) (r : Nat) : Option (List Byte × State) :=
  (List.range 16).findSome? (fun t =>
    let h := s.ht t
    match pickRec r h.exports with
    | some x => some (x.1, s.setHt t { h with exports := x.2 })
    | none => (pickRec r h.captures).map (fun x => (x.1, s.setHt t { h with captures := x.2 })))

/-- The open buffer closes: its entry is written back (R395). -/
def State.telemClose (s : State) (r : Nat) : State :=
  let q := s.ring r
  match q.started with
  | [] => s
  | e :: rest =>
    let w := leBytes 4 q.capBytes ++ leBytes 4 q.capRecords ++ leBytes 8 s.ns64 ++ leBytes 1 (b2n q.capLost) ++ leBytes 15 0
    (s.setRing r { q with started := rest, capBytes := 0, capRecords := 0, capLost := false }).finishEntry r e.pos w

/-- A buffer is opened on the next entry: a malformed one puts the ring in ERROR, one outside the windows is a violation. -/
def State.telemOpen (s : State) (r : Nat) : State :=
  match s.takeEntry r with
  | (none, s1) => s1
  | (some d, s1) =>
    let a := leNat (bytesAt d 0 8)
    let n := leNat (bytesAt d 8 4)
    if a % 4096 ≠ 0 ∨ n % 4096 ≠ 0 ∨ n < 4096 ∨ 1048576 < n then s1.ringError r 1 (s1.rd .ringHead r)
    else if s1.hostOk (s1.ringOwnerOf r) a n true = false then s1.violation (s1.ringOwnerOf r) 3 a r
    else s1.setRing r { s1.ring r with started := [{ pos := s1.ringH r, desc := d }] }

/-- A record goes into the open buffer of a ring. The answer says whether it was packed: none when the ring holds no buffer for it. -/
def State.telemPack (s : State) (r : Nat) (rec : List Byte) : Bool × State :=
  let full (s : State) : Bool := match (s.ring r).started with
    | e :: _ => decide (leNat (bytesAt e.desc 8 4) < (s.ring r).capBytes + rec.length)
    | [] => false
  let s1 := if full s then s.telemClose r else s
  let s2 := if (s1.ring r).started.isEmpty then s1.telemOpen r else s1
  match (s2.ring r).started with
  | [] => (false, s2)
  | e :: _ =>
    let q := s2.ring r
    (true, (s2.hostPut (leNat (bytesAt e.desc 0 8) + q.capBytes) rec).setRing r
      { q with capBytes := q.capBytes + rec.length, capRecords := q.capRecords + 1 })

/-- A queued record is packed into the ring's capture buffer; while the ring has no entry it waits (R395). [log: DESIGN CHOICE 110] -/
def execTelemRecordWrite (r : Nat) (s : State) : Host.Outcome State Fault Refusal :=
  .next (
    if s.ringState r ≠ 1 ∨ s.ringTypeOf r ≠ 4 ∨ s.blocked (s.ringOwnerOf r) = true then s
    else match s.nextRec r with
      | none => s
      | some (rec, s1) =>
        let x := s1.telemPack r rec
        if x.1 then x.2 else (s.telemPack r rec).2)

/-- TELEM_TMO after the first record of the open buffer, it closes (R395). -/
def execTelemBufferClose (r : Nat) (s : State) : Host.Outcome State Fault Refusal :=
  .next (
    if s.ringState r ≠ 1 ∨ s.ringTypeOf r ≠ 4 ∨ (s.ring r).capRecords = 0 then s else s.telemClose r)

/-! ## Function-level reset (R230, R363, R403) -/

/-- No further operation of a function's rings is taken: those not applied go, but for an accepted COMMIT, which proceeds, and a DISCARD whose
sweep runs (R230). [log: DEDUCED 109] -/
def State.flrEngine (s : State) (f : Nat) : State :=
  let gone (e : TeSrc × TeOp) : Bool := match e.1 with
    | .ring r => decide (s.ringOwnerOf r = f) && decide (e.2.op ≠ 5) && !(decide (e.2.op = 6) && decide (s.te.discard = some e.1))
    | _ => false
  { s with te := { s.te with ops := s.te.ops.filter (fun e => !gone e) } }

/-- A function-level reset begins: everything R403 names, and USER_EN of its counter groups (R363). [log: DEDUCED 109] -/
def State.flr (s : State) (f : Nat) : State :=
  let s1 := ((s.flrEngine f).flrRings f).clearMsix f
  let s2 := forN 256 (fun g s => if s.fget F.grpCtl_OWNER g = f then s.fset F.grpCtl_USER_EN 0 g else s) s1
  s2.fset F.fnStatus_FLR_BUSY 1 f

def execFunctionLevelReset (f : Nat) (s : State) : Host.Outcome State Fault Refusal := .next (s.flr f)

end Sys2Proof.Machine
end

