-- ==== Sys2Proof/Machine/Boot.lean ====
section
/-!
DEFINITION. Resets, Dawn, the boot flash and the entry into Horizon mode (12_reset_boot_horizon.md, R470–R501). A command of a step of Dawn
acts when Dawn is at that step and leaves the state alone otherwise.
-/

namespace Sys2Proof.Machine

/-! ## The boot flash (R479, R480) -/

/-- A byte of the flash. -/
def State.flashAt (s : State) (a : Nat) : Byte := (tget s.boot.flash a none).getD (Config.flashByte a)

/-- Bytes of the flash. -/
def State.flashBytes (s : State) (a n : Nat) : List Byte := (List.range n).map (fun k => s.flashAt (a + k))

/-- Bytes put into the flash. -/
def flashPut (t : Tab (Option Byte)) (a : Nat) (bs : List Byte) : Tab (Option Byte) :=
  match bs with
  | [] => t
  | b :: r => flashPut (tset t a none (some b)) (a + 1) r

/-- Bytes of the flash whose contents the device leaves undefined (R485). [log: DESIGN CHOICE 8, DEDUCED 144] -/
def State.flashUndefined (s : State) (a n : Nat) : State :=
  { s with
    free := s.free + n
    boot := { s.boot with flash := flashPut s.boot.flash a ((List.range n).map (fun k => (Config.freeValue (s.free + k)).setWidth 8)) } }

/-- A boot image that has passed (R481): its header's values, the bytes its signature covers, and the base image in it. -/
structure BootPass where
  svn : Nat
  seq : Nat
  covered : List Byte
  dereagor : Bool
  img : Image

/-- The first byte of a slot, and its SEQ as the header reads. -/
def slotBase (slot : Nat) : Nat := slot * 0x400000
def State.slotSeq (s : State) (slot : Nat) : Nat := leNat (s.flashBytes (slotBase slot + 8) 4)

/-- The checks of R481 on a slot. [log: DEDUCED 135] -/
def State.slotCheck (s : State) (slot : Nat) : Option BootPass :=
  let h := s.flashBytes (slotBase slot) 64
  let len := leNat (bytesAt h 16 4)
  if leNat (bytesAt h 0 4) ≠ 0x4E574144 ∨ leNat (bytesAt h 4 2) ≠ 1 ∨ len < 64 + sigLen ∨ 0x400000 < len then none
  else
    let d := s.flashBytes (slotBase slot) len
    let covered := d.take (len - sigLen)
    let block := d.drop (len - sigLen)
    let byD := sigOk 0 s.dereagorKeys covered block
    let svn := leNat (bytesAt h 12 2)
    let off := leNat (bytesAt h 24 4)
    let n := imgLength (bytesAt d off 64)
    if (byD || sigOk 1 s.ownerKeys covered block) = false ∨ svn < s.arbOf 0 ∨ len - sigLen < off + n then none
    else match (s.imgCheck (bytesAt d off n) n).img with
      | some x => if x.base then some ⟨svn, leNat (bytesAt h 8 4), covered, byD, x⟩ else none
      | none => none

/-- The order of the slots: the later SEQ by serial-number arithmetic first, slot A when neither is later (R481).
[log: PRESUMED 131, DEDUCED 134] -/
def State.slotOrder (s : State) : List Nat :=
  let d := (s.slotSeq 1 + 2 ^ 32 - s.slotSeq 0) % 2 ^ 32
  if 0 < d ∧ d < 2 ^ 31 then [1, 0] else [0, 1]

/-- The slots tried in order: those that failed, and the one that passed. -/
def State.trySlots (s : State) (l : List Nat) : List Nat × Option (Nat × BootPass) :=
  match l with
  | [] => ([], none)
  | k :: r => match s.slotCheck k with
    | some x => ([], some (k, x))
    | none => let u := s.trySlots r
      (k :: u.1, u.2)

/-! ## The causes of Horizon mode (R488) -/

/-- The device is to come up in Horizon mode; of several causes the lowest-numbered one shows. [log: DEDUCED 136] -/
def State.horizonFor (s : State) (cause : Nat) : State :=
  let was := s.fget F.dawnStatus_HZ_CAUSE
  if cause = 0 then s
  else (s.fset F.dawnStatus_HORIZON 1).fset F.dawnStatus_HZ_CAUSE (if was = 0 then cause else min was cause)

/-! ## The steps of Dawn (R477) -/

/-- Dawn is at a step: the steps before it are done, and the standby domain is up. [log: DEDUCED 132] -/
def State.dawnAt (s : State) (k : Nat) : Bool := s.boot.vinValid && s.boot.rootLocked && decide (s.boot.stage = k)
def State.dawnTo (s : State) (k step : Nat) : State := ({ s with boot := { s.boot with stage := k } }).fset F.dawnStatus_STEP step

/-- The input capacitance is charged (R571). [log: DESIGN CHOICE 187] -/
def execInrushDone (s : State) : Host.Outcome State Fault Refusal :=
  .next (if s.boot.vinValid then { s with boot := { s.boot with inrush := true } } else s)

/-- The PCI Express interface starts, held while PERST_N is asserted (R473, R477). -/
def State.linkStart (s : State) : State := { s with host := { s.host with linkUp := !s.host.perst } }

/-- Step 2: the standby rails, REFCLK and the root PLL are ready, with the input capacitance charged. [log: DEDUCED 132] -/
def execDawnStandbyReady (s : State) : Host.Outcome State Fault Refusal :=
  .next (
    if s.boot.vinValid = true ∧ s.boot.inrush = true ∧ s.boot.stage = 1 then
      (({ s with boot := { s.boot with rootLocked := true } }).dawnTo 2 2).linkStart
    else s)

/-- HZ_REQ is consumed by the Dawn that follows the press (R472). -/
def State.takeHzReq (s : State) : State :=
  let s1 := s.horizonFor s.boot.hzNext
  let s2 := if s1.flag F.hzCfg_HZ_REQ then (s1.fset F.hzCfg_HZ_REQ 0).horizonFor 3 else s1
  { s2 with boot := { s2.boot with hzNext := 0 } }

/-- The slot that passed boots (R481, R539, R543). [log: DESIGN CHOICE 14] -/
def State.bootSlot (s : State) (slot : Nat) (x : BootPass) : State :=
  let s1 := ((s.fset F.dawnStatus_SLOT slot).fset F.bootSvn_V x.svn).wr .bootSeq (BitVec.ofNat 32 x.seq)
  let s2 := (s1.setMeas 0 (Config.shake256 x.covered 32)).setMeas 3 (Config.shake256 (Config.boardConfig x.covered) 32)
  let s3 := if x.dereagor then
      s2.fset F.ownerStatus_DEREAGOR_REVOKED (s2.fget F.ownerStatus_DEREAGOR_REVOKED ||| (Config.revokes x.covered).toNat)
    else s2
  { s3 with boot := { s3.boot with image := some x.img, romFirmware := false } }

/-- Both slots fail: ROM firmware, and Horizon mode with cause SIGNATURE. [log: DESIGN CHOICE 14] -/
def State.bootRom (s : State) : State :=
  let s1 := (s.setMeas 0 (Config.shake256 Config.romFirmware 32)).setMeas 3 (Config.shake256 (Config.boardConfig []) 32)
  ({ s1 with boot := { s1.boot with image := none, romFirmware := true } }).horizonFor 1

/-- Step 3: Bennidan finishes journaled fuses (R486), then tries the slots. [log: DEDUCED 184] -/
def execBootSlotCheck (s : State) : Host.Outcome State Fault Refusal :=
  .next (
    if s.dawnAt 2 = false then s
    else
      let s0 := s.arbBlow.takeHzReq
      let r := s0.trySlots s0.slotOrder
      let s1 := s0.each r.1 (fun k s => s.fset (if k = 0 then F.dawnStatus_SLOT_A_BAD else F.dawnStatus_SLOT_B_BAD) 1)
      let s2 := match r.2 with
        | some (k, x) => s1.bootSlot k x
        | none => s1.bootRom
      (s2.dawnTo 3 4).linkStart)

/-- Step 4: the service core starts and its watchdog arms. -/
def execServiceCoreStart (s : State) : Host.Outcome State Fault Refusal :=
  .next (if s.dawnAt 3 then ({ s with boot := { s.boot with serviceCore := true } }).dawnTo 4 5 else s)

/-- Step 5, with the blocks that fail by bit: 0 service core, 1 Bennidan, 2 Squall, 3 host ring engine, 4 DMA, 5 time unit, 6 power
controller. One of the first four halts Dawn (R478). [log: DEDUCED 137] -/
def execDawnBistDone (failed : Nat) (s : State) : Host.Outcome State Fault Refusal :=
  .next (
    if s.dawnAt 4 = false then s
    else if failed % 16 ≠ 0 then
      (({ s with boot := { s.boot with stage := 0 } }).fset F.dawnStatus_HALT 1).fset F.errnStatus_HALT 1
    else ({ s with boot := { s.boot with unusable := failed } }).dawnTo 5 6)

/-- A BIST failure of Dawn is reported as one of a slice is (R477, R523). [log: DEDUCED 138] -/
def State.dawnReport (s : State) (cls dom ix : Nat) : State := s.report srcBist 0x20 (cls * 2 ^ 44 + dom * 2 ^ 40 + ix)

/-- A unit with no spare that fails at Dawn is marked unusable, and retired where RETIRE_EN allows it (R523, R526). [log: DEDUCED 138] -/
def State.dawnOut (s : State) (cls dom ix fuse : Nat) : State :=
  if s.flag F.retireCfg_RETIRE_EN then (s.blow cls fuse).sayRetired cls dom ix else s

/-- A failed lane. -/
def State.dawnLane (s : State) (l : Nat) : State :=
  ((s.dawnReport 6 (l / 64) (l % 64)).wr .spareLane (s.rd .spareLane (l / 32) ||| BitVec.ofNat 32 (2 ^ (l % 32))) (l / 32)).dawnOut
    6 (l / 64) (l % 64) l

/-- Step 6: the rails of the chiplets in use are up and their circuits calibrated; the lanes given failed. A tap front end starts again at
0 with the next EPOCH (R550). -/
def execChipletCalibrated (bad : List LaneIx) (s : State) : Host.Outcome State Fault Refusal :=
  .next (
    if s.dawnAt 5 = false then s
    else
      let used (c : Nat) : Bool := !s.hz || decide (c = 0)
      let s1 : State := { s with
        power := { s.power with chipletOn := true }
        zen := { s.zen with
          taps := s.zen.taps.filter (fun e => !used (e.1 / 1536))
          epochs := forN 8 (fun c t => if used c then tset t c 0 (tget t c 0 + 1) else t) s.zen.epochs } }
      (s1.each bad (fun l s => if used (l.val / 64) then s.dawnLane l else s)).dawnTo 6 7)

/-! ## Step 7 -/

/-- A unit that fails step 7, by the class of R502: a unit with a spare uses it. Class 9 is the whole tile, and for tile 0 its parser,
reorder stage or cell buffer; class 10 is the grant arbiter of tile 0 (R489). [log: DEDUCED 138, 139] -/
def State.dawnUnit (s0 : State) (cls u ix : Nat) : State :=
  let s := s0.dawnReport (min cls 9) u ix
  match cls with
  | 0 =>
    if s.spareFree u || s.flag F.retireCfg_RETIRE_EN then
      let r := s.pipeOut u ix
      if r.1 then r.2 else r.2.sayRetired 0 u ix
    else (s.fset F.spareTile_PIPE_RETIRED (s.fget F.spareTile_PIPE_RETIRED u ||| 2 ^ ix) u).setRole u ix 4 0
  | 1 => let r := s.repairRow 1 u ix ix
    if r.1 then r.2
    else if bitAt (s.fget F.ttBank_SPARE_FIXED u) (ix / 64) then s.bankSafe u (ix / 64) (ix % 64)
    else s.bankFix u (ix / 64) (ix % 64)
  | 2 => let r := s.repairRow 2 u (cellMacro ix) ix
    if r.1 then r.2 else s.rowOut u ix
  | 3 =>
    if s.fget F.spareTile_XLINK_LEFT u ≠ 0 ∨ s.flag F.retireCfg_RETIRE_EN = true then s.linkOut u ix
    else s.wr .spareXlink (s.rd .spareXlink u ||| BitVec.ofNat 32 (2 ^ ix)) u
  | 5 => let r := s.repairRow 5 u (ix / 1024) ix
    if r.1 then r.2 else (s.fset F.spareTile_UNUSABLE 1 u).dawnOut 9 u 0 u
  | 8 => ((s.fset F.spareAnvil_CH_RETIRED 1 ix).fset F.anvChStatus_RETIRED 1 ix).dawnOut 8 0 ix ix
  | 9 => (s.fset F.spareTile_UNUSABLE 1 u).dawnOut 9 u 0 u
  | _ => s

/-- The unit exists. -/
def dawnUnitOk (cls ix : Nat) : Bool :=
  match cls with
  | 0 => decide (ix < 9)
  | 1 => decide (ix % 64 < nth [64, 32, 16, 8] (ix / 64) 0)
  | 3 => decide (ix < 26)
  | 8 => decide (ix < 32)
  | _ => true

/-- Tile 0 cannot forward at all (R489). [log: DEDUCED 139] -/
def State.noForward (s : State) : Bool :=
  s.flag F.spareTile_UNUSABLE 0 || s.flag F.spareTile_TILE_RETIRED 0 ||
    (List.range 9).all (fun k => decide (s.fget F.pipeStatus_ROLE 0 k = 4))

/-- The default PTYPE entries of R115: entry, packet type, FLAGS_KEY (and FLAGS_MASK), and bits of HDR_PRESENT. -/
def ptypeDefaults : List (Nat × Nat × Nat × Nat) :=
  [(0, 0x0E, 0x1F, 0), (116, 0x0C, 0, 2 ^ 25), (117, 0x03, 2 ^ 7, 0), (118, 0x02, 0, 2 ^ 24), (119, 0x07, 0, 2 ^ 14),
   (120, 0x08, 0, 2 ^ 15), (121, 0x09, 0, 2 ^ 16), (122, 0x0A, 0, 2 ^ 9), (123, 0x0B, 0, 2 ^ 23), (124, 0x06, 0, 2 ^ 3),
   (125, 0x04, 0, 2 ^ 4), (126, 0x05, 0, 2 ^ 5), (127, 0x01, 0, 2 ^ 0)]

/-- The base states and entries, GRAPH_ID, the default PTYPE entries and the default entry words of a tile (R99, R115). [log: DEDUCED 146] -/
def State.parserDefaults (s : State) (t : Nat) : State :=
  let s1 := (s.fset F.parseStatus_BASE_LOADED 1 t).fset F.parseStatus_GRAPH_ID Config.graphId.toNat t
  forN 2 (fun b s => s.each ptypeDefaults (fun e s =>
    let fl := e.2.2.1
    let s2 := ((s.wr (ptypeReg b) (BitVec.ofNat 32 e.2.2.2) t (4 * e.1)).wr (ptypeReg b) (BitVec.ofNat 32 e.2.2.2) t (4 * e.1 + 1)).wr
      (ptypeReg b) (BitVec.ofNat 32 (fl + fl * 65536)) t (4 * e.1 + 2)
    (s2.wr (ptypeReg b) (BitVec.ofNat 32 (e.2.1 * 256 + 2 ^ 16 + b2n (decide (fl = 0x1F)) * 2 ^ 17)) t (4 * e.1 + 3)).wr (entryReg b)
      (BitVec.ofNat 32 ((Config.baseEntryAddr e.2.1).toNat + 2 ^ 15 + b2n (decide (e.2.1 = 0x0E)) * 2 ^ 16)) t e.2.1)) s1

/-- Anvil's channels are trained and the free rings built (R260, R261). -/
def State.anvilDawn (s : State) : State :=
  let ok := (List.range 32).filter (fun n => !s.flag F.anvChStatus_RETIRED n)
  let s1 := s.each ok (fun n s => s.fset F.anvChStatus_TRAINED 1 n)
  (({ s1 with power := { s1.power with gddrOn := true } }).wr .chActive (BitVec.ofNat 32 ((ok.map (2 ^ ·)).sum))).anvilTrained

/-- Step 7 in full mode. -/
def State.fullMode (s : State) (vin : Nat) : State :=
  let s1 := s.loopStart vin
  let s2 := match s1.boot.image with
    | some x => s1.install x
    | none => s1
  (s2.each s2.clocked (fun t s => s.parserDefaults t)).anvilDawn

/-- The ROM image fills tile 0's control store (R185, R490). -/
def State.romImage (s : State) : State :=
  let s1 : State := { s with cirrus := { s.cirrus with bootBase := true } }
  ((s1.wr .baseImageId Config.bootImageId).wr .imgSvn (BitVec.ofNat 32 Config.bootSvn.toNat)).setMeas 1 Config.bootDigest

/-- HZ_PORT enables the port: entries that are not a multiple of their WIDTH are ignored (R495, R500). -/
def State.hzPortOn (s : State) (p : Nat) : Bool := s.flag F.hzPort_EN p && decide (p % 2 ^ s.fget F.hzPort_WIDTH p = 0)

/-- The geometry of the bridge's MAC and flood tables (R494). [log: DEDUCED 75] -/
def State.hzGeometry (s : State) : State :=
  (((((((s.fset F.tblCfg0_BASE 0 0).fset F.tblCfg0_SIZE 64 0).fset F.tblCfg0_KEY_LEN 8 0).fset F.tblCfg0_LEARN_EN 1 0).fset
    F.tblCfg0_AGE_EN 1 0).fset F.tblCfg0_BASE 64 1).fset F.tblCfg0_SIZE 64 1).fset F.tblCfg0_KEY_LEN 2 1

/-- An entry of the flood table whose key and action are given. [log: DEDUCED 75] -/
def State.hzFlood (s : State) (key act : List Byte) : State :=
  match s.emPlace 1 key with
  | some (i, s1) => s1.emPut i (some { part := 1, p0 := true, p1 := true, key := key, action := act, stamps := s1.newStamps })
  | none => s

/-- The two partitions of the bridge, and VID 1 with every enabled port (R491). [log: DEDUCED 75] -/
def State.hzTables (s : State) : State :=
  s.hzGeometry.hzFlood (beBytes 2 1)
    (beBytes 8 (((List.range 64).filter s.hzGeometry.hzPortOn).map (2 ^ ·)).sum ++ [0, 0, 0, 0])

/-- PORT_CFG of every enabled port from HZ_PORT (R495). -/
def State.hzPorts (s : State) : State :=
  s.each ((List.range 64).filter s.hzPortOn) (fun p s =>
    let v := setBits (setBits (setBits (setBits (regReset .portCfg p 0) 0 0 1) 2 1 (s.fget F.hzPort_WIDTH p)) 6 6 1) 12 7 0x38
    s.portCfgWrite p (BitVec.ofNat 32 v))

/-- Step 7 in Horizon mode: tile 0 at 400 MHz, the ROM image, the bridge's tables, and the ports unless nothing can be forwarded (R489–R495).
[log: DEDUCED 139] -/
def State.horizonMode (s : State) : State :=
  let s0 : State := { s with power := { s.power with clkOp := 7, up := none, settling := false } }
  let s1 := (((s0.fset F.pwrStatus_HORIZON 1).fset F.pwrStatus_CUR_OP 7).setMv 7).throttle false
  let s2 := ((s1.romImage.parserDefaults 0)).hzTables
  if s2.noForward then s2.fset F.dawnStatus_NOFWD 1 else s2.hzPorts

/-- Step 7 ends: VIN_F in millivolts, and the units that failed as class, tile and number within it. -/
def execCoreBringupDone (vin : Nat) (bad : List (Fin 11 × TileIx × Fin 65536)) (s : State) : Host.Outcome State Fault Refusal :=
  .next (
    if s.dawnAt 6 = false then s
    else
      let s1 := s.each bad (fun e s => if dawnUnitOk e.1 e.2.2 then s.dawnUnit e.1 e.2.1 e.2.2 else s)
      let s2 := if vin < 13000 then s1.horizonFor 2 else s1
      let t0 := s2.noForward || decide (s2.rd .spareXlink 0 ≠ 0) || bad.any (fun e => decide (e.1.val = 10))
      let s3 := if t0 then s2.horizonFor 4 else s2
      let s4 : State := { s3 with power := { s3.power with coreOn := true } }
      (if s4.hz then s4.horizonMode else s4.fullMode vin).dawnTo 7 7)

/-- Step 8: READY, with the milliseconds from t0. [log: DESIGN CHOICE 4] -/
def execDawnReady (ms : Nat) (s : State) : Host.Outcome State Fault Refusal :=
  .next (if s.dawnAt 7 then (((s.dawnTo 8 8).fset F.dawnStatus_READY 1).fset F.dawnMs_V ms) else s)

/-! ## Reset sources (R470–R476) -/

def execButtonPress (s : State) : Host.Outcome State Fault Refusal :=
  .next (if s.boot.vinValid then { s with boot := { s.boot with pressed := true } } else s)

/-- A press has lasted 5 s. -/
def execButtonHold (s : State) : Host.Outcome State Fault Refusal :=
  .next (if s.boot.pressed then s.fset F.hzCfg_HZ_REQ 1 else s)

def execButtonRelease (s : State) : Host.Outcome State Fault Refusal :=
  .next (if s.boot.pressed then ({ s with boot := { s.boot with pressed := false } }).requestReset 1 0 else s)

def execWatchdogExpire (s : State) : Host.Outcome State Fault Refusal :=
  .next (if s.boot.serviceCore then s.requestReset 2 0 else s)

/-- A write of RESET_CTL by a function (R474); the status page ignores writes before READY (R484). [log: DEDUCED 19] -/
def State.resetCtlWrite (s : State) (f : Nat) (v : Word) : State :=
  if s.flag F.dawnStatus_READY = false then s
  else if f = 0 then
    if bits v.toNat 15 8 ≠ 0xA5 then s
    else match bits v.toNat 1 0 with
      | 1 => s.requestReset 4 0
      | 2 => s.requestReset 4 5
      | _ => s
  else if s.flag F.fnStatus_FROZEN f then s
  else if s.hasRight f 0 then s.bump .cntForeignWr
  else s.violation f 1 0x18 0

def execChipResetRequest (f : Nat) (key : BitVec 8) (s : State) : Host.Outcome State Fault Refusal :=
  .next (s.resetCtlWrite f (BitVec.ofNat 32 (1 + key.toNat * 256)))
def execHorizonResetRequest (f : Nat) (key : BitVec 8) (s : State) : Host.Outcome State Fault Refusal :=
  .next (s.resetCtlWrite f (BitVec.ofNat 32 (2 + key.toNat * 256)))

/-- What the fuses show of units retired for good, and the spare links used up (R526, R534). -/
def State.applyFuses (s : State) : State :=
  s.each s.boot.fuses (fun e s =>
    let u := e.2
    match e.1 with
    | 0 =>
      let t := u / 16
      let k := u % 16
      let s1 := (s.fset F.spareTile_PIPE_RETIRED (s.fget F.spareTile_PIPE_RETIRED t ||| 2 ^ k) t).setRole t k 4 0
      if k ≠ 8 ∧ s1.spareFree t = true then s1.setRole t 8 0 0 else s1
    | 3 => s.wr .spareXlink (s.rd .spareXlink (u / 32) ||| BitVec.ofNat 32 (2 ^ (u % 32))) (u / 32)
    | 6 => s.wr .spareLane (s.rd .spareLane (u / 32) ||| BitVec.ofNat 32 (2 ^ (u % 32))) (u / 32)
    | 8 => (s.fset F.spareAnvil_CH_RETIRED 1 u).fset F.anvChStatus_RETIRED 1 u
    | 9 => s.fset F.spareTile_TILE_RETIRED 1 u
    | 10 => s.fset F.spareTile_XLINK_LEFT (s.fget F.spareTile_XLINK_LEFT (u / 4) - 1) (u / 4)
    | _ => s)

/-- The register at a key of the register files. -/
def keyIs (k : Nat) (n : RName) : Bool := decide (k / 2 ^ 32 = n.ctorIdx)

/-- The 32-bit registers that every warm reset keeps: RWS fields, what R507 and R514 name, locked REACT_CFG words (R7), and the fuses'
counters. [log: DEDUCED 141] -/
def State.warmKeeps (s : State) (k : Nat) : Bool :=
  [RName.resetCause, .hzCfg, .hzPort, .firstMsg, .errnStatus, .arbCtr, .ownerStatus, .poweredHours].any (keyIs k) ||
    (List.range 6).any (fun i => decide (k = regKey .reactCfg i 0) && s.flag F.reactCfg_LOCK i)

/-- The device as a reset leaves it before Dawn starts: what it keeps in any reset is what lies outside it, what is fused or in the NVS, and
Zenith (R475, R485). [log: DEDUCED 141, 145] -/
def State.afterReset (s : State) : State :=
  let b := s.boot
  let w : State := { State.reset with
    pending := s.pending, free := s.free
    host := { mem := s.host.mem, msix := s.host.msix, perst := s.host.perst }
    time := { ticks := s.time.ticks }
    link := { modMem := s.link.modMem }
    power := { minutes := s.power.minutes, energyUj := s.power.energyUj }
    boot := { vinValid := b.vinValid, inrush := b.inrush, rootLocked := b.rootLocked, pressed := b.pressed, hzNext := b.hzNext,
              stage := if b.stage = 1 then 1 else 2, flash := b.flash, journal := b.journal, nvs := b.nvs, fuses := b.fuses }
    trust := { owner := s.trust.owner, slots := s.trust.slots, active := s.trust.active }
    zen := s.zen }
  match b.flashOp with
  | some o => if o.result = 0 ∧ o.op = 2 then w.flashUndefined o.addr 256
    else if o.result = 0 ∧ o.op = 3 then w.flashUndefined o.addr 65536 else w
  | none => w

/-- The widest source of a chip reset (R476): one into Horizon mode before the others. [log: DEDUCED 140] -/
def lastSource (due hz : Nat) : Nat :=
  if bitAt due 5 then 5
  else if bitAt due 4 && decide (hz = 5) then 4
  else ((List.range 7).find? (bitAt due)).getD 0

/-- A chip reset (R475): volatile state goes, and Dawn starts again at step 3, or goes on where step 2 is still to come.
[log: DEDUCED 132, 133] -/
def State.chipReset (s : State) : State :=
  let w := s.afterReset
  let keep : State := { w with
    r32 := s.r32.filter (fun e => s.warmKeeps e.1)
    r64 := s.r64.filter (fun e => keyIs e.1 .energyMj) }
  let s1 := ((keep.fset F.sqStatus_FIRST_VALID (s.fget F.sqStatus_FIRST_VALID)).fset F.sqStatus_OVERFLOW
    (s.fget F.sqStatus_OVERFLOW)).fset F.sqStatus_OSC_FALLBACK (s.fget F.sqStatus_OSC_FALLBACK)
  let s2 := (s1.fset F.vcore_AGE_COL (s.fget F.vcore_AGE_COL)).applyFuses
  ((s2.fset F.resetCause_CAUSES (s2.fget F.resetCause_CAUSES ||| s.boot.dueCauses)).fset F.resetCause_LAST
    (lastSource s.boot.dueCauses s.boot.hzNext)).fset F.dawnStatus_STEP (if s.boot.stage = 1 then 2 else 3)

def execChipReset (s : State) : Host.Outcome State Fault Refusal := .next (if s.boot.resetDue && s.boot.vinValid then s.chipReset else s)

/-- VIN has become invalid (R471, R475): nothing volatile is kept, and the count of powered time is the newest valid record's (R487).
[log: DEDUCED 141] -/
def State.vinReset (s : State) : State :=
  let w := s.afterReset
  let keep : State := { w with
    r32 := s.r32.filter (fun e => keyIs e.1 .arbCtr || keyIs e.1 .ownerStatus)
    power := { minutes := ((newestNvs s.boot.nvs).map (fun r => r.2)).getD 0 }
    boot := { vinValid := false, stage := 1, flash := w.boot.flash, journal := w.boot.journal, nvs := w.boot.nvs, fuses := w.boot.fuses } }
  ((keep.fset F.vcore_AGE_COL (s.fget F.vcore_AGE_COL)).wr .poweredHours (BitVec.ofNat 32 (keep.power.minutes / 60))).applyFuses

def execVinInvalid (s : State) : Host.Outcome State Fault Refusal := .next (if s.boot.vinValid then s.vinReset else s)

/-- VIN has been valid for 2 ms: Dawn starts at step 1. -/
def execVinValid (s : State) : Host.Outcome State Fault Refusal :=
  .next (if s.boot.vinValid then s else { s with boot := { s.boot with vinValid := true } })

/-- PERST_N is asserted (R473): the PCI Express interface alone, and all that a function-level reset of each function names.
[log: DEDUCED 142] -/
def execPerstAssert (s : State) : Host.Outcome State Fault Refusal :=
  .next (
    let s1 := forN 4 (fun f s => (s.flr f).flrDone f) s
    let s2 := if s1.boot.vinValid then
        (s1.fset F.resetCause_CAUSES (s1.fget F.resetCause_CAUSES ||| 0x40)).fset F.resetCause_LAST 6 else s1
    { s2 with host := { s2.host with perst := true, linkUp := false, aerInternal := false } })

/-- PERST_N is released (R483): the functions answer once Dawn has reached step 2. -/
def execPerstRelease (s : State) : Host.Outcome State Fault Refusal :=
  .next { s with host := { s.host with perst := false, linkUp := s.boot.vinValid && decide (s.boot.stage ≠ 1) } }

/-- VAUX33 is on from Dawn step 2 until VIN becomes invalid, through every warm reset (R575). -/
def State.vaux33 (s : State) : Bool := s.boot.vinValid && decide (s.boot.stage ≠ 1)

/-! ## FLASH_CTL (R482, R501) -/

/-- An operation touches the slot that booted. -/
def State.hitsBooted (s : State) (addr n : Nat) : Bool :=
  let b := slotBase (s.fget F.dawnStatus_SLOT)
  !s.boot.romFirmware && decide (addr < b + 0x400000) && decide (b < addr + n)

/-- How an operation is refused: 2 not aligned to its size, 1 on the booted slot, 0 not. [log: DEDUCED 144] -/
def State.flashRefusal (s : State) (op addr : Nat) : Nat :=
  let n := if op = 3 then 65536 else 256
  if addr % n ≠ 0 then 2 else if op ≠ 1 ∧ s.hitsBooted addr n = true then 1 else 0

/-- FLASH_DATA as bytes. -/
def State.flashData (s : State) : List Byte := (List.range 64).flatMap (fun j => leBytes 4 (s.rd .flashData j).toNat)

/-- A write of FLASH_CTL: OP is stored, and GO starts it. -/
def State.flashCtlWrite (s : State) (v : Word) : State :=
  let op := bits v.toNat 1 0
  let s1 := s.wr .flashCtl (v &&& 3#32)
  if bitAt v.toNat 31 = false ∨ s.flag F.flashStatus_BUSY = true ∨ op = 0 then s1
  else
    let addr := s.fget F.flashAddr_V
    let r := s.flashRefusal op addr
    let s2 := s1.fset F.flashStatus_RESULT r
    if r ≠ 0 then s2
    else ({ s2 with boot := { s2.boot with flashOp := some ⟨op, addr, 0, s.flashData⟩ } }).fset F.flashStatus_BUSY 1

def execFlashRead (s : State) : Host.Outcome State Fault Refusal := .next (s.flashCtlWrite 0x80000001#32)
def execFlashProgram (s : State) : Host.Outcome State Fault Refusal := .next (s.flashCtlWrite 0x80000002#32)
def execFlashErase (s : State) : Host.Outcome State Fault Refusal := .next (s.flashCtlWrite 0x80000003#32)

/-- The operation ends; with an error what it was writing is undefined. [log: DEDUCED 144] -/
def execFlashOpDone (ok : Bool) (s : State) : Host.Outcome State Fault Refusal :=
  .next (match s.boot.flashOp with
    | none => s
    | some o =>
      let s1 : State := { s with boot := { s.boot with flashOp := none } }
      let s2 := (s1.fset F.flashStatus_BUSY 0).fset F.flashStatus_RESULT (if ok then 0 else 3)
      match o.op, ok with
      | 1, true => forN 64 (fun j s => s.wr .flashData (BitVec.ofNat 32 (leNat (s.flashBytes (o.addr + 4 * j) 4))) j) s2
      | 2, true => { s2 with boot := { s2.boot with flash := flashPut s2.boot.flash o.addr o.data } }
      | 3, true => { s2 with boot := { s2.boot with flash := flashPut s2.boot.flash o.addr (List.replicate 65536 0xFF#8) } }
      | 2, false => s2.flashUndefined o.addr 256
      | 3, false => s2.flashUndefined o.addr 65536
      | _, _ => s2)

end Sys2Proof.Machine
end

