-- ==== Sys2Proof/Machine/Time.lean ====
section
/-!
DEFINITION. Time, timestamps and triggers (10_time.md): the PTP clock and its steps, the 16 triggers and their consumers,
PPS_OUT and the capture units.
-/

namespace Sys2Proof.Machine

/-! ## What counts cycles -/

/-- The classes that are paused, as (port, class) (R275). -/
def State.pausedClasses (s : State) : List (Nat × Nat) :=
  s.tm.ports.flatMap (fun e => (e.2.cls.filter (fun x => decide (0 < x.2.paused))).map (fun x => (e.1, x.1)))

/-- A CLK_TICK cycle in the performance counters (R355): events 8 and 14. The cycles of CLK_CORE in it are whole ones, with
the remainder kept; in Horizon mode CLK_CORE runs at 400 MHz (R25). [log: DEDUCED 98] -/
def State.countCycle (s : State) : State :=
  let mhz := if s.hz then 400 else coreMhz s.power.clkOp
  let ph := s.time.corePhase + mhz
  let s1 : State := { s with time := { s.time with corePhase := ph % 400 } }
  let s2 := s1.each s.pausedClasses (fun pc s => s.perf (s.tileOf pc.1) 8 (some (s.slotOf pc.1)) (some [pc.2]) none 1)
  forN 16 (fun t s => s.when (s.tileOn t) (fun s => s.perf t 14 none none none (ph / 400))) s2

/-! ## The clock -/

/-- The clock loaded with SEC × 10⁹ + NS and a fraction (R426). -/
def State.setClock (s : State) (ns frac : Nat) : State :=
  { s with time := { s.time with sec := BitVec.ofNat 48 (ns / 1000000000), ns := ns % 1000000000, frac := BitVec.ofNat 32 frac } }

/-- INCR as it acts: held between 2.0 ns and just under 3.0 ns (R426). -/
def State.incrNow (s : State) : Nat := max 0x200000000 (min 0x2FFFFFFFF (s.rdw .incr).toNat)

/-- The clock's first nanosecond at or after its reading, for comparison with firing times (R437). -/
def State.ptpCeil (s : State) : Nat := s.ptpNs + if s.time.frac = 0 then 0 else 1

/-- The first firing time of a periodic trigger at or after `now` (R436, R437). -/
def firstFiring (start period now : Nat) : Nat :=
  if now ≤ start then start else start + ceilDiv (now - start) period * period

/-- What a step from `old` does to an armed trigger (R438): a periodic one fires next at the first firing time at or after the
new time, firing times passed over are counted and reported; a one-shot passed over will fire late. [log: DEDUCED 121] -/
def State.trigStep (s : State) (old k : Nat) : State :=
  if s.flag F.trigStatus_ARMED k then
    let t := s.trig k
    if t.mode = 2 then
      let n := firstFiring t.start t.period s.ptpCeil
      let skipped := (n - t.next) / t.period
      let s1 := s.setTrig k { t with next := n }
      if t.next < n then
        (s1.fset F.trigStatus_SKIPPED (min 0xFFFF (s1.fget F.trigStatus_SKIPPED k + skipped)) k).post 0x0702
          (k + min skipped 0xFFFF * 65536)
      else s1
    else if t.mode = 1 ∧ old ≤ t.start ∧ t.start < s.ptpCeil then s.setTrig k { t with late := true }
    else s
  else s

/-- A step takes effect (R428): SET loads the value, ADD adds the signed count; a result below zero gives 0. -/
def State.applyStep (s : State) (c : ClkStep) : State :=
  let old := s.ptpCeil
  let s1 := match c with
    | .set sec ns frac => s.setClock (sec * 1000000000 + ns) frac
    | .add off =>
      let t : Int := (s.ptpNs : Int) + toSigned 64 off
      if t < 0 then s.setClock 0 0 else s.setClock (t.toNat % (2 ^ 48 * 1000000000)) s.time.frac.toNat
  let s2 := (s1.fset F.timeStatus_SET 1).post 0x0701 (match c with
    | .set .. => 1
    | .add _ => 2)
  forN 16 (fun k s => s.trigStep old k) s2

/-- A CLK_TICK edge (R426, R428): INCR is added, or the oldest pending step replaces the increment. [log: DEDUCED 122] -/
def State.tick (s : State) : State :=
  let s := s.countCycle
  let s0 : State := { s with time := { s.time with ticks := s.time.ticks + 1 } }
  if s.unusableBlk 5 then s0
  else match s.time.steps with
  | c :: r => ({ s0 with time := { s0.time with steps := r } }).applyStep c
  | [] =>
    let total := s.time.ns * 2 ^ 32 + s.time.frac.toNat + s.incrNow
    let ns := total / 2 ^ 32
    { s0 with time := { s0.time with
        sec := s0.time.sec + (if 1000000000 ≤ ns then 1 else 0)
        ns := if 1000000000 ≤ ns then ns - 1000000000 else ns
        frac := BitVec.ofNat 32 total } }

def execClockTick (s : State) : Host.Outcome State Fault Refusal := .next s.tick

/-- ADJ_CMD (R428): the step is taken from the ADJ registers as they stand; later writes do not change it. [log: DEDUCED 122] -/
def State.adjCmd (s : State) (cmd : Nat) : State :=
  match cmd with
  | 1 =>
    let sec := (s.rd .adjSecHi).toNat % 65536 * 2 ^ 32 + (s.rd .adjSecLo).toNat
    { s with time := { s.time with steps := s.time.steps ++
        [.set sec (min 999999999 (s.rd .adjNs).toNat) (s.rd .adjFrac).toNat] } }
  | 2 => { s with time := { s.time with steps := s.time.steps ++ [.add (s.rdw .adjOff).toNat] } }
  | _ => s

def execAdjSet (s : State) : Host.Outcome State Fault Refusal := .next (s.adjCmd 1)
def execAdjAdd (s : State) : Host.Outcome State Fault Refusal := .next (s.adjCmd 2)

/-- The key of a function's latch or hold of a register. -/
def fnKey (f : Nat) (n : RName) (i j : Nat) : Nat := f * 2 ^ 44 + regKey n i j

/-- A latch of a function set. -/
def State.setLatch (s : State) (f : Nat) (n : RName) (i j : Nat) (v : Option Word) : State :=
  { s with host := { s.host with latch := tset s.host.latch (fnKey f n i j) none v } }

/-- A read of NOW_FRAC returns the fraction and latches the other fields from the same edge for the function (R431). -/
def State.nowRead (s : State) (f : Nat) : State :=
  let sec := s.time.sec.toNat
  let s1 := ((s.setLatch f .nowNs 0 0 (some (BitVec.ofNat 32 s.time.ns))).setLatch f .nowSecLo 0 0
    (some (BitVec.ofNat 32 sec))).setLatch f .nowSecHi 0 0 (some (BitVec.ofNat 32 (sec / 2 ^ 32)))
  { s1 with host := { s1.host with readData := s.time.frac.setWidth 64, unsupported := false } }

def execNowRead (f : Nat) (s : State) : Host.Outcome State Fault Refusal := .next (s.nowRead f)

/-! ## Triggers -/

/-- A firing of the metering trigger on the edge link (R552): its index, its PTP time and the totals of the tap front ends'
EDGE transmissions. -/
def State.zenFiring (s : State) (k at_ : Nat) (t : Trig) : State :=
  if s.zen.present = true ∧ s.zen.cfg % 16 = k then
    let ix := if t.mode = 2 then (t.next - t.start) / t.period else 0
    { s with zen := { s.zen with edges := s.zen.edges ++ [⟨ix, at_, s.zen.taps, s.zen.epochs⟩] } }
  else s

/-- The high time of PPS_OUT in nanoseconds: WIDTH_US, or half the trigger's period when it is not shorter (R440). -/
def State.ppsWidthNs (s : State) : Nat :=
  let w := max 1 (s.fget F.ppsCfg_WIDTH_US) * 1000
  let t := s.trig (s.fget F.ppsCfg_TRIG)
  if t.mode = 2 ∧ t.period ≤ w then t.period / 2 else w

/-- PPS_OUT rises for its high time (R440). -/
def State.ppsRise (s : State) : State := { s with time := { s.time with pps := true, ppsNs := s.ppsWidthNs } }

/-- A trigger fires (R436, R437): counted, a late one-shot is marked, a one-shot disarms; then every consumer that names the
trigger acts on the edge (R439): gate cycles, epochs, BIST slices, converters, PPS_OUT, Zenith, and last the DMA request line (R410).
[log: DEDUCED 185] -/
def State.fire (s : State) (k : Nat) : State :=
  let t := s.trig k
  let s1 := s.fset F.trigStatus_FIRED (s.fget F.trigStatus_FIRED k + 1) k
  let s2 := if t.late then s1.fset F.trigStatus_LATE 1 k else s1
  let s3 := if t.mode = 1 then (s2.fset F.trigStatus_ARMED 0 k).setTrig k { t with late := false }
    else s2.setTrig k { t with next := t.next + t.period }
  let s4 := s3.gateTrigger k (if t.late then s.ptpNs else t.next)
  let s5 := if s4.flag F.epochCfg_EN ∧ s4.fget F.epochCfg_TRIG = k then s4.epochEdge else s4
  let s5 := s5.bistFiring k
  let s6 := if s5.flag F.socCfg_EN ∧ s5.fget F.socCfg_TRIG = k then s5.socStart else s5
  let s7 := if s6.flag F.ppsCfg_EN ∧ s6.fget F.ppsCfg_TRIG = k then s6.ppsRise else s6
  (s7.zenFiring k (if t.late then s.ptpNs else t.next) t).dmaPulse k

/-- The trigger is armed, and the clock reads at or past its firing time or has passed it before (R436–R438). [log: DEDUCED 120] -/
def State.trigDue (s : State) (k : Nat) : Bool :=
  s.flag F.trigStatus_ARMED k && !s.unusableBlk 5 && (decide ((s.trig k).mode = 1) || decide ((s.trig k).mode = 2)) &&
    ((s.trig k).late || decide ((s.trig k).next ≤ s.ptpNs))

/-- A write of TRIG_CTL (R437): ARM 1 latches MODE, START and PERIOD and arms; ARM 0 disarms at the end of the cycle, so a
firing due in it still takes place. [log: DEDUCED 120] -/
def State.trigWrite (s : State) (k : Nat) (v : Word) : State :=
  let m := bits v.toNat 1 0
  if bitAt v.toNat 2 then
    let mode := if m = 3 then 0 else m
    let start := (s.rdw .startSec k).toNat % 2 ^ 48 * 1000000000 + (s.rd .startNs k).toNat % 2 ^ 30
    let period := max 1000 (min 1000000000 (s.fget F.periodNs_PERIOD k))
    let late := decide (mode = 1) && decide (start < s.ptpCeil)
    let next := if mode = 2 then firstFiring start period s.ptpCeil else start
    let s1 := ((s.fset F.trigCtl_MODE m k).fset F.trigCtl_ARM 1 k).setTrig k ⟨mode, start, period, next, late⟩
    ((s1.fset F.trigStatus_ARMED 1 k).fset F.trigStatus_FIRED 0 k).fset F.trigStatus_SKIPPED 0 k
  else
    let s1 := if s.trigDue k then s.fire k else s
    ((s1.fset F.trigCtl_MODE m k).fset F.trigCtl_ARM 0 k).fset F.trigStatus_ARMED 0 k

def execTriggerArm (k mode : Nat) (s : State) : Host.Outcome State Fault Refusal :=
  .next (s.trigWrite k (BitVec.ofNat 32 (4 + mode)))
def execTriggerDisarm (k : Nat) (s : State) : Host.Outcome State Fault Refusal :=
  .next (s.trigWrite k (BitVec.ofNat 32 (s.fget F.trigCtl_MODE k)))

/-- A trigger fires at a firing time (R436). -/
def execTriggerFire (k : Nat) (s : State) : Host.Outcome State Fault Refusal :=
  .next (if s.trigDue k then s.fire k else s)

/-- PPS_OUT falls after its high time (R440). -/
def execPpsPulseEnd (s : State) : Host.Outcome State Fault Refusal := .next { s with time := { s.time with pps := false, ppsNs := 0 } }

/-! ## Capture units -/

def State.fifo (s : State) (k : Nat) : List Stamp := tget s.time.fifos k []
def State.setFifo (s : State) (k : Nat) (v : List Stamp) : State :=
  ({ s with time := { s.time with fifos := tset s.time.fifos k [] v } }).fset F.capStatus_LEVEL v.length k

/-- The stamp of an edge `quarter` × 0.25 ns after the last CLK_TICK edge (R441). -/
def State.stampAt (s : State) (quarter : Nat) : Stamp :=
  let q := s.ptpNs * 4 + s.time.frac.toNat / 2 ^ 30 + quarter
  ⟨q / 4 / 1000000000 % 2 ^ 48, q / 4 % 1000000000, q % 4⟩

/-- An edge on a capture input is stamped, or lost when the FIFO is full (R441); a stamp pulses DMA line 16 + k (R410). -/
def execCaptureEdge (k : Nat) (rising pps : Bool) (quarter : Nat) (s : State) : Host.Outcome State Fault Refusal :=
  .next (
    let e := s.fget F.capCfg_EDGE k
    if s.flag F.capCfg_EN k ∧ s.flag F.capCfg_SRC k = pps ∧ bitAt e (if rising then 0 else 1) = true then
      let q := s.fifo k
      if q.length < 16 then (s.setFifo k (q ++ [s.stampAt quarter])).dmaPulse (16 + k)
      else (s.fset F.capStatus_OVF 1 k).post 0x0703 k
    else s)

/-- A read of CAP_FRAC pops the oldest stamp and latches its other fields for the function (R441). -/
def State.capRead (s : State) (f k : Nat) : State :=
  match s.fifo k with
  | [] => { s with host := { s.host with readData := 0, unsupported := false } }
  | st :: r =>
    let s1 := (((s.setFifo k r).setLatch f .capNs k 0 (some (BitVec.ofNat 32 st.ns))).setLatch f .capSecLo k 0
      (some (BitVec.ofNat 32 st.sec))).setLatch f .capSecHi k 0 (some (BitVec.ofNat 32 (st.sec / 2 ^ 32)))
    { s1 with host := { s1.host with readData := BitVec.ofNat 64 (st.frac % 4 + 2 ^ 31), unsupported := false } }

def execCapturePop (f k : Nat) (s : State) : Host.Outcome State Fault Refusal := .next (s.capRead f k)

end Sys2Proof.Machine
end

