-- ==== Sys2Proof/Machine/Zenith.lean ====
section
/-!
DEFINITION. The Zenith meter (14_security_zenith.md, R548–R559, R563): the counts it takes from the tap links, intervals and records, the
journal, tamper, the authority's commands, and delivery to PF3.
-/

namespace Sys2Proof.Machine

/-- Zenith's state changed. -/
def State.setZen (s : State) (z : ZenSt) : State := { s with zen := z }

/-- Zenith's clock has gone `n` cycles on, by ZCLK alone, while it is supplied (R28). [log: DESIGN CHOICE 212] -/
def State.zclkOn (s : State) (n : Nat) : State := if s.zen.present then s.setZen { s.zen with zc := s.zen.zc + n } else s

/-- The front end of chiplet `c` is supplied: the chiplet's rails are up (R550, R560). -/
def State.tapUp (s : State) (c : Nat) : Bool := s.power.chipletOn && (!s.hz || decide (c = 0))

/-! ## Counts (R550, R551) -/

/-- The account of a pair. -/
def ZenSt.acct (z : ZenSt) (i : Nat) : Nat := tget z.map i i

/-- A difference of a running total enters its account: kind 0 frames, 1 bytes, 2 bad frames. -/
def ZenSt.count (z : ZenSt) (k d : Nat) : ZenSt :=
  let a := z.acct (k / 3)
  if d = 0 then z
  else
    let ch := if z.changed.contains a then z.changed else z.changed ++ [a]
    match k % 3 with
    | 0 => { z with frames := tset z.frames a 0 ((tget z.frames a 0 + d) % 2 ^ 64), changed := ch }
    | 1 => { z with bytes := tset z.bytes a 0 ((tget z.bytes a 0 + d) % 2 ^ 64), changed := ch }
    | _ => { z with bad := tset z.bad a 0 (min (2 ^ 32 - 1) (tget z.bad a 0 + d)), changed := ch }

/-- Totals of chiplet `c` arrive: the differences from the last good transmission modulo 2^48, or the totals themselves when EPOCH has changed; a
link silent for 1 ms is marked. [log: DEDUCED 172, 178] -/
def ZenSt.absorb (z : ZenSt) (c : Nat) (totals epochs : Tab Nat) : ZenSt :=
  let mine (k : Nat) : Bool := decide (k / 1536 = c)
  let keys := ((totals ++ z.seen).map (fun e => e.1)).filter mine |>.eraseDups
  let e := tget epochs c 0
  let anew := decide (e ≠ tget z.seenEpoch c 0)
  let z1 := keys.foldl (fun z k =>
    let v := tget totals k 0
    let z2 := z.count k (if anew then v else (v + 2 ^ 48 - tget z.seen k 0) % 2 ^ 48)
    { z2 with seen := tset z2.seen k 0 v }) z
  let gap := decide (25000 ≤ z.zc - tget z.seenTick c 0)
  { z1 with
      flags := if gap then z1.flags ||| 2 else z1.flags
      seenEpoch := tset z1.seenEpoch c 0 e
      seenTick := tset z1.seenTick c 0 z.zc }

/-- A transmission of a front end arrives, `zclk` cycles after what Zenith took before it; one that fails its CRC is lost without loss of a count. One made after a firing comes behind the
firing's EDGE transmission on its link. [log: DEDUCED 178] -/
def execZenTapTotals (c : Nat) (ok : Bool) (zclk : Nat) (s0 : State) : Host.Outcome State Fault Refusal :=
  .next (let s := s0.zclkOn zclk
    if s.zen.present && ok && s.tapUp c && s.zen.edges.isEmpty then s.setZen (s.zen.absorb c s.zen.taps s.zen.epochs) else s)

/-! ## Records (R553–R555) -/

/-- The bytes of a map, as the mirror lists it: two bytes for each pair. [log: PRESUMED 169] -/
def ZenSt.mapBytes (z : ZenSt) : List Byte := (List.range 4096).flatMap (fun i => leBytes 2 (z.acct i))
def ZenSt.mapDigest (z : ZenSt) : List Byte := Config.shake256 z.mapBytes 32

/-- The entries of an interval record: accounts that changed, ascending (R554). -/
def ZenSt.entries (z : ZenSt) : List Byte :=
  ((List.range 4096).filter (fun a => z.changed.contains a)).flatMap (fun a =>
    leBytes 2 a ++ leBytes 2 0 ++ leBytes 4 (tget z.bad a 0) ++ leBytes 8 (tget z.bytes a 0) ++ leBytes 8 (tget z.frames a 0))

/-- A record without entries is appended: its times are the PTP time last received. -/
def ZenSt.note (z : ZenSt) (rkind : Nat) (detail : List Byte) : ZenSt :=
  { z with appends := z.appends ++ [{ rkind := rkind, startNs := z.lastNs, endNs := z.lastNs, ticks := 0, entries := [], n := 0, flags := 0,
                                      mapDigest := z.mapDigest, detail := bytesAt detail 0 16, bytes := z.bytes, frames := z.frames }] }

/-- PTP and ZCLK elapsed times differ by more than 0.1 %. -/
def clockMismatch (ns0 ns1 cycles : Nat) : Bool :=
  let z : Int := (cycles * 40 : Nat)
  decide (z < 1000 * ((((ns1 : Int) - ns0) - z).natAbs : Int))

/-- The map and interval setting that waited apply at an edge, and the next interval opens (R552, R558). [log: DEDUCED 170] -/
def ZenSt.openInterval (z : ZenSt) (ns : Nat) : ZenSt :=
  { z with
      map := z.pendMap.foldl (fun m e => tset m e.1 e.1 e.2) z.map
      cfg := z.pendCfg.getD z.cfg
      flags := if z.pendMap.isEmpty then 0 else 4
      pendMap := []
      pendCfg := none
      bad := []
      changed := []
      openAt := some (ns, z.zc) }

/-- The interval closes with a record (R553). -/
def ZenSt.close (z : ZenSt) (ns0 t0 ns1 more : Nat) : ZenSt :=
  let n := z.zc - t0
  let gap := (List.range 8).any (fun c => decide (25000 ≤ z.zc - tget z.seenTick c 0))
  let fl := z.flags ||| more ||| (if gap then 2 else 0) ||| (if clockMismatch ns0 ns1 n then 8 else 0)
  { z with appends := z.appends ++ [{ rkind := 0, startNs := ns0, endNs := ns1, ticks := n, entries := z.entries,
                                      n := z.changed.length, flags := fl, mapDigest := z.mapDigest, detail := List.replicate 16 0,
                                      bytes := z.bytes, frames := z.frames }] }

/-- DIVIDE and MAX_S as they act. -/
def ZenSt.divide (z : ZenSt) : Nat := max 1 (bits z.cfg 15 4)
def ZenSt.maxS (z : ZenSt) : Nat := bits z.cfg 27 16

/-- A firing of the metering trigger reaches Zenith (R552): an interval edge when its index is a multiple of DIVIDE; one within 1 s of
the edge before it is ignored and counted. [log: DEDUCED 170] -/
def State.zenEdge (s : State) (e : ZEdge) (rest : List ZEdge) : State :=
  let z0 : ZenSt := { s.zen with edges := rest, lastNs := e.ns }
  if e.k % z0.divide ≠ 0 then s.setZen z0
  else
    let z1 := ((List.range 8).filter s.tapUp).foldl (fun z c => z.absorb c e.totals e.epochs) z0
    match z0.openAt with
    | none => s.setZen (z1.openInterval e.ns)
    | some (ns0, t0) =>
      if z0.zc - t0 < 25000000 then s.setZen { z0 with ignored := (z0.ignored + 1) % 2 ^ 32 }
      else s.setZen ((z1.close ns0 t0 e.ns 0).openInterval e.ns)

def execZenEdge (zclk : Nat) (s0 : State) : Host.Outcome State Fault Refusal :=
  .next (let s := s0.zclkOn zclk
    match s.zen.edges with
    | [] => s
    | e :: rest => if s.zen.present then s.zenEdge e rest else s)

/-- No edge for MAX_S seconds (R552): the interval closes at START_NS plus the time that ZCLK measured. [log: DEDUCED 171] -/
def execZenEdgeTimeout (zclk : Nat) (s0 : State) : Host.Outcome State Fault Refusal :=
  .next (let s := s0.zclkOn zclk
    match s.zen.openAt with
    | none => s
    | some (ns0, t0) =>
      let n := s.zen.zc - t0
      if s.zen.present = false ∨ n < s.zen.maxS * 25000000 then s
      else
        let ns1 := ns0 + n * 40
        s.setZen ((s.zen.close ns0 t0 ns1 1).openInterval ns1))

/-- A record's bytes before its signature block. -/
def ZRec.body (r : ZRec) (rseq : Nat) (prev : List Byte) : List Byte :=
  leBytes 1 4 ++ leBytes 1 r.rkind ++ leBytes 2 0 ++ leBytes 4 (128 + r.entries.length + sigLen) ++ leBytes 8 rseq ++ leBytes 8 r.startNs ++
    leBytes 8 r.endNs ++ leBytes 8 r.ticks ++ leBytes 4 r.n ++ leBytes 4 r.flags ++ bytesAt prev 0 32 ++ bytesAt r.mapDigest 0 32 ++ r.detail ++
    r.entries

/-- The journal's ring of 1 MiB keeps the newest records that fit (R555). -/
def trimJournal (l : List (Nat × List Byte)) : List (Nat × List Byte) :=
  match l with
  | [] => []
  | x :: rest => if 1048576 < ((x :: rest).map (fun e => e.2.length)).sum then trimJournal rest else x :: rest

/-- The commit word is written: the oldest append is complete, its counts are the checkpoint (R555). [log: DEDUCED 174] -/
def execZenRecordCommit (s : State) : Host.Outcome State Fault Refusal :=
  .next (match s.zen.appends with
    | [] => s
    | r :: rest =>
      let z := s.zen
      let b := r.body z.rseq z.prev
      let bs := b ++ sigMake 3 1 Config.zenKey b
      s.setZen { z with
        appends := rest
        journal := trimJournal (z.journal ++ [(z.rseq, bs)])
        rseq := z.rseq + 1
        prev := Config.shake256 bs 32
        ckBytes := r.bytes
        ckFrames := r.frames })

/-! ## Tamper (R556) -/

/-- RSEQ of the last record before an event: of those that wait, the newest; a free value where there has been none. [log: DESIGN CHOICE 8] -/
def State.lastRseq (s : State) : Nat × State :=
  let n := s.zen.rseq + s.zen.appends.length
  if n = 0 then let v := s.draw
    (v.1.toNat, v.2) else (n - 1, s)

/-- A tamper event: the record, the latch, the message and the event. -/
def State.tamperEvent (s : State) (cause : Nat) : State :=
  let x := s.lastRseq
  let z := x.2.zen.note 1 (leBytes 1 cause ++ leBytes 7 0 ++ leBytes 8 x.1)
  ((x.2.setZen { z with tamper := true, lastTamper := cause }).report srcZenith 0x38 cause).post 0x0A01 cause

/-- ZSEAL (R556, R557). -/
def ZenSt.sealed (z : ZenSt) : Bool := z.present && z.selfTest && !z.auth.isEmpty && !z.tamper

def execZenTamper (cause : Nat) (s : State) : Host.Outcome State Fault Refusal :=
  .next (if s.zen.present = true ∧ cause ≠ 0 then s.tamperEvent cause else s)

/-! ## Supply (R555, R556) -/

/-- ZVDD goes away: an append before its commit word is absent, and the read port falls silent. [log: DEDUCED 172] -/
def State.zvddLoss (s : State) : State :=
  if s.zen.present then
    (s.setZen { s.zen with present := false, lost := true, appends := [], openAt := none, edges := [], pendMap := [], pendCfg := none,
                           flags := 0, bad := [], changed := [] }).report srcZenith 0x39 0
  else s
def execZvddLoss (s : State) : Host.Outcome State Fault Refusal := .next s.zvddLoss

/-- ZVDD comes up: Zenith resumes from its checkpoint, counts from here on, and marks a loss and a failed self-test as tamper.
[log: DEDUCED 172, 173] -/
def State.zvddUp (s : State) (ok : Bool) : State :=
  if s.zen.present then s
  else
    let z := s.zen
    let s1 := s.setZen { z with
      present := true, lost := false, selfTest := ok, bytes := z.ckBytes, frames := z.ckFrames, seen := z.taps, seenEpoch := z.epochs
      seenTick := (List.range 8).foldl (fun t c => tset t c 0 z.zc) [] }
    let s2 := if z.lost then s1.tamperEvent 1 else s1
    let s3 := if ok then s2 else s2.tamperEvent 4
    s3.setZen (s3.zen.note 3 (leBytes 4 Config.zenRomVer.toNat))
def execZvddPowerUp (ok : Bool) (s : State) : Host.Outcome State Fault Refusal := .next (s.zvddUp ok)

/-! ## Commands of the authority (R557, R558) -/

/-- PLEN of a command buffer and the keys that may sign it: the authority's, or for a first enrolment the new one. -/
def zPlen (d : List Byte) : Nat := leNat (bytesAt d 20 4)
def ZenSt.signers (z : ZenSt) (d : List Byte) : List (List Byte) :=
  if z.auth.isEmpty then [bytesAt d 24 1793] else [z.auth]

/-- The payload check of an operation. [log: DEDUCED 176] -/
def ZenSt.payloadOk (z : ZenSt) (d : List Byte) : Bool :=
  let n := zPlen d
  let h (k : Nat) : Nat := leNat (bytesAt d k 2)
  match byteAt d 4 with
  | 1 => decide (1 ≤ h 26) && decide (h 26 ≤ 1024) && decide (h 24 + h 26 ≤ 4096) && decide (n = 4 + 2 * h 26) &&
      (List.range (h 26)).all (fun k => decide (h (28 + 2 * k) < 4096))
  | 2 => decide (n = 6) && decide (byteAt d 24 < 16) && decide (1 ≤ h 26) && decide (h 26 ≤ 3600) && decide (1 ≤ h 28) && decide (h 28 ≤ 3600)
  | 3 => decide (n = 1793 + sigLen) && decide (z.authSlots < 2) &&
      sigOk 4 [bytesAt d 24 1793] (d.take 1817) (bytesAt d 1817 sigLen)
  | _ => decide (n = 0)

/-- The check that a command buffer fails first: 4 its structure, 5 no authority, 1 signature, 2 key ID, 3 sequence, 4 payload; 0 none.
[log: DEDUCED 175] -/
def ZenSt.refuses (z : ZenSt) (d : List Byte) : Nat :=
  let op := byteAt d 4
  let n := 24 + zPlen d
  if leNat (bytesAt d 0 4) ≠ 0x444D435A ∨ op = 0 ∨ 4 < op ∨ d.length < n + sigLen then 4
  else if z.auth.isEmpty = true ∧ op ≠ 3 then 5
  else if sigOk 4 (z.signers d) (d.take n) (bytesAt d n sigLen) = false then 1
  else if bytesAt d 8 8 ≠ keyId Config.zenKey then 2
  else if leNat (bytesAt d 16 4) ≤ z.seq then 3
  else if z.payloadOk d = false then 4
  else 0

/-- A verified command: SET_MAP and SET_INTERVAL wait for the next edge, ENROLL_AUTH and RESEAL apply at once; a CONFIG record.
[log: DEDUCED 174] -/
def ZenSt.apply (z : ZenSt) (d : List Byte) : ZenSt :=
  let h (k : Nat) : Nat := leNat (bytesAt d k 2)
  let sq := leNat (bytesAt d 16 4)
  let z1 := match byteAt d 4 with
    | 1 => { z with pendMap := z.pendMap ++ (List.range (h 26)).map (fun k => (h 24 + k, h (28 + 2 * k))) }
    | 2 => { z with pendCfg := some (byteAt d 24 + h 26 * 16 + h 28 * 65536) }
    | 3 => { z with auth := bytesAt d 24 1793, authSlots := z.authSlots + 1 }
    | _ => { z with tamper := false }
  ({ z1 with seq := sq }).note 2 (leBytes 1 (byteAt d 4) ++ leBytes 3 0 ++ leBytes 4 sq)

/-- Zenith's verifier takes the buffer passed to it, applies or refuses it, and answers (R558). -/
def execZenCommand (s : State) : Host.Outcome State Fault Refusal :=
  .next (match s.trust.zcmd with
    | none => s
    | some d =>
      if s.zenPort = false ∨ s.trust.zreply.isSome = true then s
      else
        let why := s.zen.refuses d
        let s1 := if why = 0 then s.setZen (s.zen.apply d) else s
        let s2 : State := { s1 with trust := { s1.trust with zreply := some why } }
        s2.post 0x0A02 (byteAt d 4 + b2n (decide (why = 0)) * 256 + why * 65536))

/-! ## Delivery (R559) -/

/-- The ring that records go to: the lowest-numbered ACTIVE telemetry ring of PF3. [log: DEDUCED 180] -/
def State.zenRing (s : State) : Option Nat :=
  (List.range 1024).find? (fun r => decide (s.ringOwnerOf r = 3) && decide (s.ringTypeOf r = 4) && decide (s.ringState r = 1))

/-- The record goes alone into the buffer just opened, and the buffer closes, with LOST where a record before it was overwritten. A buffer below
131,072 bytes goes back empty. -/
def State.zenPut (s : State) (r rseq : Nat) (rec : List Byte) : State :=
  match (s.ring r).started with
  | [] => s
  | e :: _ =>
    if leNat (bytesAt e.desc 8 4) < 131072 then s.telemClose r
    else
      let q := s.ring r
      let s1 := ((s.hostPut (leNat (bytesAt e.desc 0 8)) rec).setRing r
        { q with capBytes := rec.length, capRecords := 1, capLost := q.capLost || decide (s.zen.deliver < rseq) }).telemClose r
      if s1.ringState r = 1 then s1.setZen { s1.zen with deliver := rseq + 1 } else s1

/-- A committed record is written to PF3's ring in RSEQ order; one that the journal has overwritten is lost and marked. -/
def execZenRecordDeliver (s : State) : Host.Outcome State Fault Refusal :=
  .next (match s.zenRing, s.zen.journal.find? (fun e => decide (s.zen.deliver ≤ e.1)) with
    | some r, some (rseq, rec) =>
      if s.blocked 3 = true ∨ s.zenPort = false then s
      else
        let s0 := if (s.ring r).started.isEmpty then s else s.telemClose r
        (s0.telemOpen r).zenPut r rseq rec
    | _, _ => s)

/-! ## The mirror (R563) -/

/-- A word of the mirror by its register; 0 while Zenith is absent. [log: DESIGN CHOICE 18, DEDUCED 177] -/
def State.zenView (s : State) (n : RName) (i : Nat) : Nat :=
  let z := s.zen
  if z.present then
    match n with
    | .zenStatus => 1 + b2n z.sealed * 2 + b2n (!z.auth.isEmpty) * 4 + b2n z.tamper * 8 + z.lastTamper * 256
    | .zenRseq => z.rseq - 1
    | .zenDelivered => z.deliver - 1
    | .zenCfg => z.cfg
    | .zenKeyId => leNat (keyId Config.zenKey)
    | .authKeyId => if z.auth.isEmpty then 0 else leNat (keyId z.auth)
    | .zcmdSeq => z.seq
    | .ignEdges => z.ignored
    | .romVer => Config.zenRomVer.toNat
    | .mapDigest => leNat (bytesAt z.mapDigest (4 * i) 4)
    | .zenBytes => tget z.ckBytes i 0
    | .zenFrames => tget z.ckFrames i 0
    | .zenMap => z.acct (2 * i) + z.acct (2 * i + 1) * 65536
    | _ => 0
  else 0

end Sys2Proof.Machine
end

