-- ==== Sys2Proof/Machine/Bar0.lean ====
section
/-!
DEFINITION. BAR0 accesses (R6–R9, R29–R31, R373, R374, R377, R484): which register an offset names, who may write it, what a read
returns and what a write does.
-/

namespace Sys2Proof.Machine

/-! ## The map -/

/-- The index an offset has in a nest of (count, stride) pairs, and the offset within the innermost element. -/
def nestIx (l : List (Nat × Nat)) (off ix : Nat) : Option (Nat × Nat) :=
  match l with
  | [] => some (ix, off)
  | (c, st) :: r => if off / st < c then nestIx r (off % st) (ix * c + off / st) else none

/-- The instance and word of a register at an offset, and whether it is a high word. -/
def regHere (n : RName) (a : Nat) : Option (Nat × Nat × Bool) :=
  let x := regInfo n
  if a < x.base then none
  else match nestIx x.ds (a - x.base) 0 with
    | none => none
    | some (_, o) => match nestIx x.di o 0 with
      | none => none
      | some (i, o1) => match nestIx x.dj o1 0 with
        | none => none
        | some (j, o2) => if o2 = 0 then some (i, j, false) else if x.wide && decide (o2 = 4) then some (i, j, true) else none

/-- The register at a BAR0 offset (R29, R30): `none` where it is unmapped. [log: DEDUCED 23] -/
def locate (a : Nat) : Option (RName × Nat × Nat × Bool) :=
  allRegs.findSome? (fun n => (regHere n a).map (fun x => (n, x.1, x.2.1, x.2.2)))

/-- The offset lies in the block of a tile that is not clocked (R30). -/
def State.deadTile (s : State) (a : Nat) : Bool :=
  (decide (0x1000000 ≤ a) && decide (a < 0x2000000) && !s.tileOn ((a - 0x1000000) / 0x100000)) ||
    (decide (0x3000000 ≤ a) && decide (a < 0x3600000) && !s.tileOn ((a - 0x3000000) / 0x60000))

/-- The 4 bytes at an offset lie in BAR0 and are aligned (R31). -/
def okAddr (a n : Nat) : Bool := decide (a % n = 0) && decide (a < 0x4000000)

/-! ## Reads -/

/-- A 32-bit register as it reads now: what the chapters compute from the state, else the stored value. [log: DESIGN CHOICE 18, 27] -/
def State.view (s : State) (f : Nat) (n : RName) (i j : Nat) : Word :=
  match n with
  | .ageMilestone => if i = 0 then 0 else Config.ageMilestone i
  | .pLeak => (Config.pLeak i).setWidth 32
  | .vtab => (Config.vtab (i / 56) (i / 8 % 7) (i % 8)).setWidth 32
  | .dmaStatus => BitVec.ofNat 32 (((List.range 32).filter (fun k => decide (s.fget F.chStatus_STATE k ≠ 0))).map (2 ^ ·)).sum
  | .dtabReg => (s.dtabAt (j / 256) (j % 256)).setWidth 32
  | .kprofReg => BitVec.ofNat 32 ((s.kprofAt (j / 4)).toNat >>> (32 * (j % 4)))
  | .laneStatus => BitVec.ofNat 32 (setBits (setBits (s.rd n i j).toNat 4 4 (b2n (s.adapting i))) 2 2 (b2n (s.txPllLock i)))
  | .robStatus => BitVec.ofNat 32 (s.pipe i).pkts.length
  | .parseStatus => BitVec.ofNat 32 (setBits (s.rd n i j).toNat 17 17 (s.fget F.ttVersion_VERSION i % 2))
  | .bpmRsvd => BitVec.ofNat 32 (s.reserved i)
  | .pgStatus2 => BitVec.ofNat 32 (ceilDiv (s.anvUsed (s.tileOf i) i j) 1024)
  | .nbStatus => BitVec.ofNat 32 (4096 - s.stgUsed i)
  | .qstatus => s.qstatusView i j
  | .maxwin => BitVec.ofNat 32 (s.maxWin i j)
  | .chipletId => BitVec.ofNat 32 i
  | .anvilStatus => BitVec.ofNat 32 (setBits (s.rd n i j).toNat 2 2 (b2n s.spillLimited))
  | .anvChStatus => BitVec.ofNat 32 (setBits (setBits (s.rd n i j).toNat 14 3 (s.outstanding i)) 22 15
      (if s.flag F.anvChStatus_TRAINED i then (Config.gddrTemp i s.time.ticks).toNat else 0))
  | .ovfLatch => BitVec.ofNat 32 (b2n (tget s.halo.ovf f false))
  | .teStatus => BitVec.ofNat 32 (b2n (s.te.ops.isEmpty && s.te.dpq.isEmpty && s.te.cands.isEmpty && s.te.rewrites.isEmpty && decide (s.vstate < 3)) + 2 * s.te.dpq.length)
  | .verStatus => BitVec.ofNat 32 (setBits (s.rd n i j).toNat 19 19 (b2n s.teHeld))
  | .lpmUsed => BitVec.ofNat 32 s.lpmUsed
  | .tblCfg2 => BitVec.ofNat 32 (s.emUsed i)
  | .learnCount => BitVec.ofNat 32 (s.learnCount i)
  | .stateTab => BitVec.ofNat 32 (s.stateWord i (j / 8) (j % 8))
  | .baseTcam => BitVec.ofNat 32 (s.baseTcamWord i (j / 8) (j % 8))
  | .zenStatus => BitVec.ofNat 32 (s.zenView n i)
  | .zenCfg => BitVec.ofNat 32 (s.zenView n i)
  | .zcmdSeq => BitVec.ofNat 32 (s.zenView n i)
  | .ignEdges => BitVec.ofNat 32 (s.zenView n i)
  | .romVer => BitVec.ofNat 32 (s.zenView n i)
  | .mapDigest => BitVec.ofNat 32 (s.zenView n i)
  | .zenMap => BitVec.ofNat 32 (s.zenView n i)
  | n => s.rd n i j

/-- A 64-bit register as it reads now. [log: DESIGN CHOICE 18] -/
def State.viewWide (s : State) (n : RName) (i j : Nat) : DWord :=
  match n with
  | .devKeyId => BitVec.ofNat 64 (leNat (keyId Config.devKey))
  | .ownerKeyId => if s.flag F.ownerStatus_ENROLLED then BitVec.ofNat 64 (leNat (keyId s.trust.owner)) else 0
  | .zenRseq => BitVec.ofNat 64 (s.zenView n i)
  | .zenDelivered => BitVec.ofNat 64 (s.zenView n i)
  | .zenKeyId => BitVec.ofNat 64 (s.zenView n i)
  | .authKeyId => BitVec.ofNat 64 (s.zenView n i)
  | .zenBytes => BitVec.ofNat 64 (s.zenView n i)
  | .zenFrames => BitVec.ofNat 64 (s.zenView n i)
  | n => s.rdw n i j

/-- The OVF bit of a counter that has one (R357). [log: DEDUCED 28] -/
def State.ovfOf (s : State) (n : RName) (i j : Nat) : Option Bool :=
  match n with
  | .pcVal => some (bitAt (s.rd .pcOvf i (j / 32)).toNat (j % 32))
  | .snapVal => some (bitAt (s.rd .snapOvf i (j / 32)).toNat (j % 32))
  | .statCnt => some (bitAt (s.rd .statOvf i (j / 32)).toNat (j % 32))
  | _ => none

/-- What a read answers: the value, kept as the last one returned. -/
def State.answer (s : State) (v : Nat) : State :=
  { s with host := { s.host with readData := BitVec.ofNat 64 v, unsupported := false } }

/-- The request ends with Unsupported Request status (R31). -/
def State.unsupported (s : State) : State := { s with host := { s.host with unsupported := true } }

/-- Function `f` may not see the register at an offset: the windows that need a right, those whose unit is under block reset (R374, R512),
and before READY all but PF0's status page (R484). [log: DEDUCED 19, 24, 179] -/
def State.hidden (s : State) (f a : Nat) : Bool :=
  s.deadTile a || (!s.flag F.dawnStatus_READY && !(decide (f = 0) && decide (a < 0x1000))) ||
    (decide (a / 0x100000 = 6) && (!s.hasRight f 7 || s.squall.privReset.contains srcBennidan)) ||
    (decide (a / 0x100000 = 7) && (!s.hasRight f 8 || s.squall.privReset.contains srcZenith))

/-- The low word of a 64-bit register: its high word and OVF are latched for the function (R9, R357). -/
def State.lowRead (s : State) (f : Nat) (n : RName) (i j : Nat) : State :=
  let v := (s.viewWide n i j).toNat
  let s1 := s.setLatch f n i j (some (BitVec.ofNat 32 (v / 2 ^ 32)))
  let s2 : State := match s.ovfOf n i j with
    | some b => { s1 with halo := { s1.halo with ovf := tset s1.halo.ovf f false b } }
    | none => s1
  s2.answer (v % 2 ^ 32)

/-- The high word: the latched one, once, else the live one (R9). -/
def State.highRead (s : State) (f : Nat) (n : RName) (i j : Nat) : State :=
  match tget s.host.latch (fnKey f n i j) none with
  | some w => (s.setLatch f n i j none).answer w.toNat
  | none => s.answer ((s.viewWide n i j).toNat / 2 ^ 32)

/-- A word that a read of another word latches (R431, R441): 0 before the first such read. [log: DESIGN CHOICE 25] -/
def State.latched (s : State) (f : Nat) (n : RName) (i : Nat) : State :=
  s.answer ((tget s.host.latch (fnKey f n i 0) none).getD 0).toNat

/-- A 4-byte read of BAR0 by a function. -/
def State.bar0Read (s : State) (f a : Nat) : State :=
  if okAddr a 4 = false then s.unsupported
  else if s.hidden f a then s.answer 0
  else match locate a with
    | none => s.answer 0
    | some (n, i, j, hi) =>
      if (regInfo n).wide then (if hi then s.highRead f n i j else s.lowRead f n i j)
      else match n with
        | .nowFrac => s.nowRead f
        | .nowNs => s.latched f n i
        | .nowSecLo => s.latched f n i
        | .nowSecHi => s.latched f n i
        | .capFrac => s.capRead f i
        | .capNs => s.latched f n i
        | .capSecLo => s.latched f n i
        | .capSecHi => s.latched f n i
        | n => s.answer (s.view f n i j).toNat

/-! ## Who may write -/

/-- What becomes of a write: it applies, lands on a field of another function (R374), is an access violation (R377), or is ignored. -/
inductive Leave where
  | yes
  | foreign
  | violates
  | ignored
  deriving DecidableEq, Repr

/-- A write that needs a right. -/
def State.needs (s : State) (f bit : Nat) : Leave := if s.hasRight f bit then .yes else .violates

/-- The host ring engine's block (R374, R418). [log: DEDUCED 23] -/
def State.leaveRing (s : State) (f off : Nat) : Leave :=
  let other : Leave := if f = 3 then .violates else .foreign
  if 0x40000 ≤ off ∧ off < 0x50000 then (if s.ringOwnerOf ((off - 0x40000) / 0x40) = f then .yes else other)
  else if 0x80000 ≤ off ∧ off < 0xC0000 then (if (off - 0x80000) / 0x10000 = f then .yes else other)
  else if f = 0 then .yes
  else .violates

/-- The DMA block (R406, R423). [log: DEDUCED 23] -/
def State.leaveDma (s : State) (f off : Nat) : Leave :=
  if !s.hasRight f 4 then .violates
  else if 0x1000 ≤ off ∧ off < 0x3000 then
    let pf0 := decide (off % 0x100 < 4) || decide (0x80 ≤ off % 0x100)
    if (if pf0 then decide (f = 0) else s.chOwned f ((off - 0x1000) / 0x100)) then .yes else .foreign
  else .yes

/-- The rights of R373 by region. [log: DESIGN CHOICE 7, DEDUCED 23] -/
def State.leave (s : State) (f a : Nat) : Leave :=
  let blk := a / 0x100000
  let off := a % 0x100000
  if blk = 4 then s.leaveRing f off
  else if f = 3 then .violates
  else if blk = 0 then s.needs f 0
  else if blk = 1 then s.needs f 6
  else if blk < 4 then s.needs f 0
  else if blk = 5 then s.leaveDma f off
  else if blk = 6 then (if s.squall.privReset.contains srcBennidan then .ignored else s.needs f 7)
  else if blk = 7 then .violates
  else if blk < 16 then .ignored
  else if blk < 32 then
    if 0x20100 ≤ off ∧ off < 0x2012C then s.needs f 2
    else if off < 0x40000 then s.needs f 0
    else if off < 0x60000 then s.needs f 1
    else if 0x63800 ≤ off ∧ off < 0x63814 then s.needs f 1
    else if off < 0xC0000 then s.needs f 0
    else .ignored
  else if blk < 48 then s.needs f 0
  else if blk < 56 then s.needs f 3
  else s.needs f 1

/-! ## Writes -/

/-- The writable bits of a word of a register: the register tables', and for the arrays whose words differ the rule's own (R144). -/
def rwOf (n : RName) (j : Nat) : Nat :=
  match n with
  | .polData => match j with
    | 0 => 0x3FFFFFF
    | 1 => 0x3FFFFF
    | _ => 0xFFFFFF
  | n => (regInfo n).rw

/-- The field rules of R6 for a register with no action of its own: RW fields take the written value, RW1C bits clear. -/
def State.plainWrite (s : State) (n : RName) (i j : Nat) (v : Word) : State :=
  let x := regInfo n
  let rw := BitVec.ofNat 32 (rwOf n j)
  s.wr n (((s.rd n i j &&& ~~~rw) ||| (v &&& rw)) &&& ~~~(v &&& BitVec.ofNat 32 x.w1c)) i j

/-- IMG_CTL (R195): CANCEL, then the command; LOAD takes the bytes that host memory holds. [log: DESIGN CHOICE 21] -/
def State.imgCtlWrite (s0 : State) (f : Nat) (v : Word) : State :=
  let s := if bitAt v.toNat 4 then s0.imgCancel else s0
  match bits v.toNat 1 0 with
  | 1 => s.imgLoad f v (memGet s.host.mem (s.rdw .imgSrc).toNat (s.rd .imgLen).toNat) true
  | 2 => s.imgActivate v
  | 3 => s.imgDeactivate v
  | _ => s.wr .imgCtl (v &&& 0xC#32)

/-- CH_CTL (R424): PROG_SPACE, then the command. -/
def State.chCtlWrite (s : State) (n : Nat) (v : Word) : State := (s.fset F.chCtl_PROG_SPACE (bits v.toNat 4 3) n).chCmd n (bits v.toNat 2 0)

/-- CH_OWNER (R406, R423): only while the channel is IDLE, and only a function with the DMA right may own it. [log: DEDUCED 24] -/
def State.chOwnerWrite (s : State) (n : Nat) (v : Word) : State :=
  if s.fget F.chStatus_STATE n ≠ 0 ∨ (bitAt v.toNat 2 = true ∧ s.hasRight (bits v.toNat 1 0) 4 = false) then s
  else s.wr .chOwner (v &&& 7#32) n

/-- An MSI-X table word of a function; a vector whose mask bit clears while it is pending is sent (R405). [log: PRESUMED 20] -/
def State.msixWrite (s : State) (f j : Nat) (v : Word) : State :=
  let k := j / 4
  if vectorsOf f ≤ k then s
  else
    let s1 := s.wr .msixTable v f j
    if decide (j % 4 = 3) && !bitAt v.toNat 0 && bitAt (s1.rd .msixPba f (k / 32)).toNat (k % 32) then
      (s1.clearBit .msixPba f k).sendVec f k
    else s1

/-- LANE_CTL (R83): TX_SQUELCH and the polarities act on the pins (`State.pins`, `State.rxBits`), LOOP is a test function. -/
def State.laneCtlWrite (s : State) (l : Nat) (v : Word) : State :=
  let s1 := s.wr .laneCtl ((v &&& 0x33#32) ||| (s.rd .laneCtl l &&& 0xC#32)) l
  s1.testSet l (bits v.toNat 3 2) (s.flag F.prbsCtl_GEN_EN l) (s.flag F.prbsCtl_CHK_EN l)

/-- PRBS_CTL (R89): its settings, the generator and checker, and one injected error for INJ_GO. -/
def State.prbsCtlWrite (s : State) (l : Nat) (v : Word) : State :=
  let s1 := s.wr .prbsCtl ((v &&& 0x1F7C#32) ||| (s.rd .prbsCtl l &&& 3#32)) l
  let s2 := s1.testSet l (s.fget F.laneCtl_LOOP l) (bitAt v.toNat 0) (bitAt v.toNat 1)
  if bitAt v.toNat 7 then s2.injectOne l 1 else s2

/-- A word of a gate control list (R324): the operational list is not written while GATE_EN is 1. -/
def State.gclWrite (s : State) (p j : Nat) (v : Word) : State :=
  if s.flag F.gateCfg_GATE_EN p = true ∧ s.fget F.gateStatus_OPER p = j / 256 then s else s.wr .gcl v p j

/-- RING_OWNER (R421): OWNER changes only while the ring is DISABLED. [log: DEDUCED 24] -/
def State.ringOwnerWrite (s : State) (r : Nat) (v : Word) : State :=
  let own := if s.ringState r = 0 then bits v.toNat 1 0 else s.ringOwnerOf r
  s.wr .ringOwner (BitVec.ofNat 32 (own + bits v.toNat 4 2 * 4)) r

/-- PPS_CFG (R440): with EN at 0 the output is low. -/
def State.ppsCfgWrite (s : State) (v : Word) : State :=
  let s1 := s.wr .ppsCfg v
  if bitAt v.toNat 0 then s1 else { s1 with time := { s1.time with pps := false } }

/-- A write of a 32-bit register by a function that may write it. -/
def State.regWrite (s : State) (f : Nat) (n : RName) (i j : Nat) (v : Word) : State :=
  match n with
  | .resetCtl => s.resetCtlWrite f v
  | .flashCtl => s.flashCtlWrite v
  | .firstCtl => s.rearm (v.toNat % 2)
  | .reactCfg => if s.flag F.reactCfg_LOCK i then s else s.plainWrite n i j v
  | .bistCtl => s.bistCtlWrite v
  | .pwrCfg => s.pwrCfgWrite v
  | .adjCmd => s.adjCmd (bits v.toNat 1 0)
  | .ppsCfg => s.ppsCfgWrite v
  | .trigCtl => s.trigWrite i v
  | .fnRights => if i = 1 ∨ i = 2 then s.plainWrite n i j v else s
  | .ringOwner => s.ringOwnerWrite i v
  | .ringCtl => s.ringCtlWrite i v
  | .msixTable => s.msixWrite i j v
  | .dmaSwreq => s.swreqWrite f v
  | .chOwner => s.chOwnerWrite i v
  | .chCtl => s.chCtlWrite i v
  | .chLen => if s.fget F.chStatus_STATE i = 4 ∨ s.fget F.chStatus_STATE i = 5 then s.plainWrite n i j v else s
  | .bnCmd => s.bnCmdWrite (v.toNat % 16)
  | .bnCfg => s.bnCfgWrite v
  | .polCmd => s.polCmd i (bits v.toNat 1 0)
  | .stateTab => s.stateTabWrite i (j / 8) (j % 8) v
  | .custTcam0 => s.tcamWrite i 0 (j / 8) (j % 8) v
  | .custTcam1 => s.tcamWrite i 1 (j / 8) (j % 8) v
  | .ptypeTcam0 => s.ptypeWrite i 0 (j / 4) (j % 4) v
  | .ptypeTcam1 => s.ptypeWrite i 1 (j / 4) (j % 4) v
  | .imgCtl => s.imgCtlWrite f v
  | .csRdCtl => s.csRead i v false
  | .poolCfg => (s.plainWrite n i j v).pgScan i
  | .voqCtl => s.voqCtlWrite i v
  | .pfcCfg => s.pfcCfgWrite i v
  | .pgCfg0 => s.pgCfgWrite i j 0 v
  | .pgCfg1 => s.pgCfgWrite i j 1 v
  | .pgCfg2 => s.pgCfgWrite i j 2 v
  | .pgCfg3 => s.pgCfgWrite i j 3 v
  | .mcCmd => s.mcCmdWrite v
  | .pshpCir => s.shaperWrite i 8 0 v
  | .pshpPir => s.shaperWrite i 8 1 v
  | .pshpCbs => s.shaperWrite i 8 2 v
  | .pshpPbs => s.shaperWrite i 8 3 v
  | .qshpCir => s.shaperWrite i j 0 v
  | .qshpPir => s.shaperWrite i j 1 v
  | .qshpCbs => s.shaperWrite i j 2 v
  | .qshpPbs => s.shaperWrite i j 3 v
  | .gateCfg => s.gateCfgWrite i v
  | .gcl => s.gclWrite i j v
  | .txgrpCfg => s.txgrpWrite i v
  | .portCfg => s.portCfgWrite i v
  | .portLps => s.portLpsWrite i v
  | .laneCtl => s.laneCtlWrite i v
  | .eyeCtl => s.eyeWrite i v
  | .prbsCtl => s.prbsCtlWrite i v
  | .modAccCtl => if bitAt v.toNat 31 then s.mailboxGo i v else s.plainWrite n i j v
  | .anvilCtl => s.anvilCtlWrite v
  | .pcCfg => s.pcCfgWrite f i j v
  | .flowSeed => s.flowSeedWrite v
  | .flowCmd => if bitAt v.toNat 0 then s.flowFlush else s
  | .histCmd => if bitAt v.toNat 0 then s.histClear else s
  | .statCmd => s.statCmd v
  | .grpCtl => s.grpCtlWrite f i v
  | .emSeed => s.emSeedWrite v
  | .ageTick => s.ageTickWrite v
  | .lpmCfg => s.lpmCfgWrite v
  | .teGo => if bitAt v.toNat 0 then s.teGo else s
  | .tblCfg0 => s.tblCfgWrite i v
  | .tcamCfg => s.tcamCfgWrite i v
  | n => s.plainWrite n i j v

/-- Both halves of a 64-bit register take effect: RING_BASE only while the ring is DISABLED (R418), CH_SRC and CH_DST only in PAUSED and FAULT
(R423). -/
def State.wideWrite (s : State) (n : RName) (i j : Nat) (v : DWord) : State :=
  let ok := match n with
    | .ringBase => decide (s.ringState i = 0)
    | .chSrc => decide (s.fget F.chStatus_STATE i = 4) || decide (s.fget F.chStatus_STATE i = 5)
    | .chDst => decide (s.fget F.chStatus_STATE i = 4) || decide (s.fget F.chStatus_STATE i = 5)
    | _ => true
  let rw := BitVec.ofNat 64 (regInfo n).rw
  if ok then s.wrw n ((s.rdw n i j &&& ~~~rw) ||| (v &&& rw)) i j else s

/-- A low word held for a function, or none. -/
def State.setHold (s : State) (f : Nat) (n : RName) (i j : Nat) (v : Option Word) : State :=
  { s with host := { s.host with lowHold := tset s.host.lowHold (fnKey f n i j) none v } }

/-- The high word of a 64-bit register: with the low word that the function holds, else alone (R9). -/
def State.highWrite (s : State) (f : Nat) (n : RName) (i j : Nat) (v : Word) : State :=
  match tget s.host.lowHold (fnKey f n i j) none with
  | some lo => (s.setHold f n i j none).wideWrite n i j (BitVec.ofNat 64 (v.toNat * 2 ^ 32 + lo.toNat))
  | none => s.wideWrite n i j (BitVec.ofNat 64 (v.toNat * 2 ^ 32 + (s.rdw n i j).toNat % 2 ^ 32))

/-- A 4-byte write that its master may make. -/
def State.apply4 (s : State) (f a : Nat) (v : Word) : State :=
  if s.deadTile a then s
  else match locate a with
    | none => s
    | some (n, i, j, hi) =>
      if (regInfo n).wide then
        if (regInfo n).rw = 0 then s
        else if hi then s.highWrite f n i j v else s.setHold f n i j (some v)
      else s.regWrite f n i j v

/-- An 8-byte write that its master may make (R31): a 64-bit register at once, where a low word that the function holds stays held for its next
write of the high word; or two 32-bit registers in order. [log: DEDUCED 26, DESIGN CHOICE 201] -/
def State.apply8 (s : State) (f a : Nat) (v : DWord) : State :=
  match locate a with
  | some (n, i, j, false) =>
    if (regInfo n).wide then (if s.deadTile a then s else s.wideWrite n i j v)
    else (s.apply4 f a (v.setWidth 32)).apply4 f (a + 4) ((v >>> 32).setWidth 32)
  | _ => (s.apply4 f a (v.setWidth 32)).apply4 f (a + 4) ((v >>> 32).setWidth 32)

/-- One of the `n` bytes at an offset belongs to a register. -/
def mapped (a n : Nat) : Bool := (locate a).isSome || (decide (n = 8) && (locate (a + 4)).isSome)

/-- A write of `n` bytes by a function under its rights (R373, R374): ignored before READY (R484), from a frozen function (R378) and at an unmapped
offset (R8). RESET_CTL has its own rule (R474). [log: DEDUCED 19] -/
def State.writeUnder (s : State) (f a n : Nat) (act : State → State) : State :=
  if s.flag F.dawnStatus_READY = false ∨ s.flag F.fnStatus_FROZEN f = true then s
  else if a = 0x18 then act s
  else match s.leave f a with
    | .yes => act s
    | .foreign => if mapped a n then s.bump .cntForeignWr else s
    | .violates => if mapped a n then s.violation f 1 a 0 else s
    | .ignored => s

/-- A BAR0 write of 4 bytes by a function. -/
def State.bar0Write (s : State) (f a : Nat) (v : Word) : State :=
  if okAddr a 4 then (s.writeUnder f a 4 (fun s => s.apply4 f a v)).answer s.host.readData.toNat else s.unsupported

def execRegisterWrite (f a : Nat) (v : Word) (s : State) : Host.Outcome State Fault Refusal := .next (s.bar0Write f a v)
def execLowWordWrite (f a : Nat) (v : Word) (s : State) : Host.Outcome State Fault Refusal := .next (s.bar0Write f a v)
def execHighWordWrite (f a : Nat) (v : Word) (s : State) : Host.Outcome State Fault Refusal := .next (s.bar0Write f a v)
def execLowWordRead (f a : Nat) (s : State) : Host.Outcome State Fault Refusal := .next (s.bar0Read f a)

/-- An 8-byte read (R31): a 64-bit register as one value, which neither renews nor uses up the high word latched for the function; or two words in
order. [log: DEDUCED 26, DESIGN CHOICE 201] -/
def State.bar0Read8 (s : State) (f a : Nat) : State :=
  let two : State :=
    let s1 := s.bar0Read f a
    let s2 := s1.bar0Read f (a + 4)
    s2.answer (s1.host.readData.toNat + s2.host.readData.toNat * 2 ^ 32)
  if okAddr a 8 = false then s.unsupported
  else if s.hidden f a then two
  else match locate a with
    | some (n, i, j, false) => if (regInfo n).wide then s.answer (s.viewWide n i j).toNat else two
    | _ => two

/-- A BAR0 request of `len` bytes: 4, or 8 aligned to 8; any other ends with Unsupported Request status and has no effect (R31). -/
def State.bar0Access (s : State) (f a len : Nat) (write : Bool) (v : DWord) : State :=
  if len = 4 then (if write then s.bar0Write f a (v.setWidth 32) else s.bar0Read f a)
  else if len ≠ 8 ∨ okAddr a 8 = false then s.unsupported
  else if write then (s.writeUnder f a 8 (fun s => s.apply8 f a v)).answer s.host.readData.toNat
  else s.bar0Read8 f a

/-- A BAR2 request: 4 bytes aligned to 4, in the page of ring `a / 4096`; any other ends with Unsupported Request status (R372, R422). Before
READY a read gives 0 (R484). -/
def State.bar2Access (s : State) (f a len : Nat) (write : Bool) (v : DWord) : State :=
  if len ≠ 4 ∨ a % 4 ≠ 0 ∨ 0x400000 ≤ a then s.unsupported
  else if write then (s.pageWordWrite f (a / 4096) (a % 4096) (v.setWidth 32)).answer s.host.readData.toNat
  else s.answer (if s.flag F.dawnStatus_READY then (s.ringPageRead (a / 4096) (a % 4096)).toNat else 0)

/-- A BAR4 request: reads of 8 bytes aligned to 8, and of 4 aligned to 4, which return one half with no latch; writes of these lengths complete and
are discarded; any other ends with Unsupported Request status (R372, R362). Before READY a read gives 0 (R484). -/
def State.bar4Access (s : State) (f a len : Nat) (write : Bool) : State :=
  if ¬(len = 4 ∨ len = 8) ∨ a % len ≠ 0 ∨ 0x100000 ≤ a then s.unsupported
  else if write then s.bar4Write.answer s.host.readData.toNat
  else
    let v := (s.bar4Read f (a / 4096) (a % 4096 / 8 * 8)).toNat
    s.answer (if s.flag F.dawnStatus_READY = false then 0 else if len = 8 then v else if a % 8 = 0 then v % 2 ^ 32 else v / 2 ^ 32)

/-- A request to a BAR that has no row of its own: BAR0, BAR2 or BAR4 (R372), at an offset and of a length. [log: DESIGN CHOICE 189] -/
def execEightByteAccess (f : Nat) (bar : Fin 3) (a len : Nat) (write : Bool) (v : DWord) (s : State) : Host.Outcome State Fault Refusal :=
  .next (
    match bar with
    | 0 => s.bar0Access f a len write v
    | 1 => s.bar2Access f a len write v
    | 2 => s.bar4Access f a len write)

end Sys2Proof.Machine
end

