-- ==== Sys2Proof/Machine/Dma.lean ====
section
/-!
DEFINITION. DMA programs (09_host_rings_dma.md, R406–R416): the instructions a channel executes, its beats and its faults.
-/

namespace Sys2Proof.Machine

/-! ## Instructions (R407) -/

/-- The instruction that 32 bytes spell. -/
def dmaDecode (b : List Byte) : DmaOp :=
  let m := byteAt b 1
  let n (k w : Nat) : Nat := leNat (bytesAt b k w)
  match byteAt b 0 with
  | 1 => .move (bits m 1 0) (bits m 3 2) (bitAt m 4) (bitAt m 5) (bitAt m 6) (n 4 4) (n 8 8) (n 16 8)
  | 2 => .loop (bits m 1 0) (n 2 2) (n 4 4) (n 8 4) (n 12 4)
  | 3 => .wait (bits m 5 0) (bitAt m 6) (n 4 4)
  | 4 => .signal (bits m 1 0) (bitAt m 2) (n 8 8) (n 16 8)
  | 5 => .endp m (n 4 4 % 1024) (n 8 4 % 131072)
  | _ => .illegal

/-! ## Where a channel may go (R376, R377) -/

/-- The owner of a channel. -/
def State.chFn (s : State) (n : Nat) : Nat := s.fget F.chOwner_OWNER n

/-- The `len` bytes at `addr` lie inside window `w` of channel `n` with the direction allowed. -/
def State.chWinHas (s : State) (n w space addr len : Nat) (write : Bool) : Bool :=
  let c := (s.rd .chWinW3 n w).toNat
  let base := (s.rd .chWinW1 n w).toNat * 2 ^ 32 + (s.rd .chWinW0 n w).toNat
  let kb := (s.rd .chWinW2 n w).toNat
  decide (c % 4 = space) && bitAt c (if write then 3 else 2) && decide (kb ≠ 0) && decide (base ≤ addr) &&
    decide (addr + len ≤ base + kb * 1024)

/-- The violation a channel access would be: 0 none, 5 outside its windows or the owner's, 7 outside the owner's rights. Space 3 is reserved
and in no window; local memory ends at 4 MiB. [log: DEDUCED 112] -/
def State.chAccess (s : State) (n space addr len : Nat) (write : Bool) : Nat :=
  let f := s.chFn n
  if space = 3 ∨ (List.range 4).any (fun w => s.chWinHas n w space addr len write) = false then 5
  else if space = 0 then (if s.hostOk f addr len write then 0 else 5)
  else if space = 1 then (if addr + len ≤ 0x400000 then 0 else 5)
  else
    let blk := addr / 0x100000
    let seen := (decide (blk ≠ 6) || s.hasRight f 7) && (decide (blk ≠ 7) || s.hasRight f 8)
    if (if write then decide (s.leave f addr = .violates) else !seen) then 7 else 0

/-- A program word's fetch: from host memory inside the owner's windows, or from local memory (R375, R406). [log: DEDUCED 111] -/
def State.fetchOk (s : State) (n : Nat) : Bool :=
  let pc := (s.rdw .chPc n).toNat
  if (s.dmaCh n).space = 0 then s.hostOk (s.chFn n) pc 32 false else decide (pc + 32 ≤ 0x400000)

/-- The instruction at the channel's program counter; `ins` is what host memory returns. [log: DEDUCED 111, DESIGN CHOICE 186] -/
def State.insAt (s : State) (n : Nat) (ins : List Byte) : DmaOp :=
  dmaDecode (if (s.dmaCh n).space = 0 then ins else memGet s.dma.loc (s.rdw .chPc n).toNat 32)

/-- The channel can take an instruction: it runs, and no MOVE is under way. -/
def State.chIdle (s : State) (n : Nat) : Bool :=
  decide (s.fget F.chStatus_STATE n = 1) && (match (s.dmaCh n).cur with
    | some (.move ..) => false
    | _ => true)

/-- An instruction is executed: `f` acts when the channel is ready for it and its bytes are of that opcode; a fetch outside the windows is
a violation. [log: DEDUCED 112, DESIGN CHOICE 186] -/
def State.execIns (s : State) (n : Nat) (ins : List Byte) (f : DmaOp → State → Option State) : State :=
  if s.chIdle n = false then s
  else if s.fetchOk n = false then s.chViolation n 5 (s.rdw .chPc n).toNat
  else (f (s.insAt n ins) s).getD s

/-- The program counter takes an address, and no instruction is in progress. -/
def State.chGo (s : State) (n pc : Nat) : State :=
  (s.wrw .chPc (BitVec.ofNat 64 pc) n).setDmaCh n { s.dmaCh n with cur := none }
def State.chNext (s : State) (n : Nat) : State := s.chGo n ((s.rdw .chPc n).toNat + 32)

/-! ## MOVE (R408) -/

/-- The channel copies downward. -/
def copiesDown (ssp dsp : Nat) (sinc dinc : Bool) (src dst len : Nat) : Bool :=
  decide (ssp = dsp) && decide (ssp < 2) && sinc && dinc && decide (src < dst) && decide (dst < src + len)

def State.moveStart (s : State) (n ssp dsp : Nat) (load sinc dinc : Bool) (len src dst : Nat) : State :=
  let s1 := if load then (s.wrw .chSrc (BitVec.ofNat 64 src) n).wrw .chDst (BitVec.ofNat 64 dst) n else s
  let a := (s1.rdw .chSrc n).toNat
  let b := (s1.rdw .chDst n).toNat
  let s2 := (s1.fset F.chStatus_DOWN (b2n (copiesDown ssp dsp sinc dinc a b len)) n).wr .chLen (BitVec.ofNat 32 len) n
  if len = 0 then s2.chNext n
  else s2.setDmaCh n { s2.dmaCh n with cur := some (.move ssp dsp load sinc dinc len a b), buf := [] }

def execDmaMove (n : Nat) (ins : List Byte) (s : State) : Host.Outcome State Fault Refusal :=
  .next (s.execIns n ins (fun o s => match o with
    | .move ssp dsp load sinc dinc len src dst => some (s.moveStart n ssp dsp load sinc dinc len src dst)
    | _ => none))

/-- The MOVE is done: without SINC or DINC the register keeps the address the MOVE began with; copied downward, both advance by the whole
length at its end. [log: DEDUCED 113, 117] -/
def State.moveEnd (s : State) (n : Nat) (sinc dinc : Bool) (len src dst : Nat) : State :=
  let down := s.flag F.chStatus_DOWN n
  let at_ (r : RName) (inc : Bool) (a : Nat) : DWord :=
    if inc then (if down then s.rdw r n + BitVec.ofNat 64 len else s.rdw r n) else BitVec.ofNat 64 a
  (((s.wrw .chSrc (at_ .chSrc sinc src) n).wrw .chDst (at_ .chDst dinc dst) n).fset F.chStatus_DOWN 0 n).chNext n

/-- What is buffered shows in BUFFERED. -/
def State.setChBuf (s : State) (n : Nat) (b : List Byte) : State :=
  (s.setDmaCh n { s.dmaCh n with buf := b }).fset F.chStatus_BUFFERED b.length n

/-- Read data of host memory arrives for the MOVE under way, after what is buffered (R413); a completion with an error faults (R415). -/
def execDmaReadCompletion (n : Nat) (data : List Byte) (ok : Bool) (s : State) : Host.Outcome State Fault Refusal :=
  .next (
    let st := s.fget F.chStatus_STATE n
    let c := s.dmaCh n
    match c.cur with
    | some (.move 0 _ _ _ _ _ _ _) =>
      let left := (s.rd .chLen n).toNat - c.buf.length
      let k := min data.length (min left (8192 - c.buf.length))
      if ¬(st = 1 ∨ st = 3) ∨ k = 0 then s
      else
        let down := s.flag F.chStatus_DOWN n
        let a := (s.rdw .chSrc n).toNat + (if down then left - k else c.buf.length)
        if s.chAccess n 0 a k false ≠ 0 then s.chViolation n 5 a
        else if ok = false then s.chFault n 5
        else s.setChBuf n (if down then data.take k ++ c.buf else c.buf ++ data.take k)
    | _ => s)

/-- Bytes of the next beat: 64 at most, one access when a side is the register space. -/
def beatLen (ssp dsp src dst left : Nat) : Nat :=
  if ssp = 2 ∨ dsp = 2 then
    if left % 8 = 0 ∧ (ssp ≠ 2 ∨ src % 8 = 0) ∧ (dsp ≠ 2 ∨ dst % 8 = 0) then 8 else 4
  else min 64 left

/-- The beat a channel has ready: the spaces, the two addresses and the bytes. While PAUSING and in FAULT, when no further read is
issued, what is left of the read data makes a shorter beat (R414). [log: DEDUCED 116] -/
def State.beatOf (s : State) (n : Nat) : Option (Nat × Nat × Nat × Nat × Nat) :=
  let st := s.fget F.chStatus_STATE n
  let c := s.dmaCh n
  match c.cur with
  | some (.move ssp dsp _ _ _ _ _ _) =>
    let left := (s.rd .chLen n).toNat
    let src := (s.rdw .chSrc n).toNat
    let dst := (s.rdw .chDst n).toNat
    let whole := min left (beatLen ssp dsp src dst left)
    let k := if decide (ssp = 0) && decide (dsp ≠ 2) && decide (st ≠ 1) then min whole c.buf.length else whole
    let up := if s.flag F.chStatus_DOWN n then left - k else 0
    let have_ := if ssp = 0 then decide (k ≤ c.buf.length) && (decide (st = 1) || decide (st = 3) || decide (st = 5)) else decide (st = 1)
    if have_ && decide (0 < k) then some (ssp, dsp, src + up, dst + up, k) else none
  | _ => none

/-- A register read for a channel: the bytes, or none where the read ends with Unsupported Request. [log: DEDUCED 115] -/
def State.regFetch (s : State) (f a k : Nat) : Option (List Byte) × State :=
  let r := if k = 8 then s.bar0Read8 f a else s.bar0Read f a
  let back : State := { r with host := { r.host with readData := s.host.readData, unsupported := s.host.unsupported } }
  (if r.host.unsupported || decide (k % 4 ≠ 0) then none else some (leBytes k r.host.readData.toNat), back)

/-- A register write for a channel, under the owner's rights. -/
def State.regStore (s : State) (f a : Nat) (bs : List Byte) : State :=
  s.writeUnder f a bs.length (fun s => if bs.length = 8 then s.apply8 f a (BitVec.ofNat 64 (leNat bs)) else s.apply4 f a (BitVec.ofNat 32 (leNat bs)))

/-- The bytes of a beat at its source. -/
def State.beatRead (s : State) (n ssp a k : Nat) : Option (List Byte) × State :=
  let c := s.dmaCh n
  match ssp with
  | 0 =>
    if s.flag F.chStatus_DOWN n then
      (some (c.buf.drop (c.buf.length - k)), s.setChBuf n (c.buf.take (c.buf.length - k)))
    else (some (c.buf.take k), s.setChBuf n (c.buf.drop k))
  | 1 => (some (memGet s.dma.loc a k), s)
  | _ => s.regFetch (s.chFn n) a k

/-- Bytes written to a space for a channel. -/
def State.chStore (s : State) (n space a : Nat) (bs : List Byte) : State :=
  match space with
  | 0 => s.hostPut a bs
  | 1 => { s with dma := { s.dma with loc := memPut s.dma.loc a bs } }
  | _ => s.regStore (s.chFn n) a bs

/-- What a beat leaves of the MOVE: the remaining region, or its end. -/
def State.beatStep (s : State) (n k : Nat) : State :=
  let left := (s.rd .chLen n).toNat - k
  let s1 := s.wr .chLen (BitVec.ofNat 32 left) n
  let s2 := if s.flag F.chStatus_DOWN n then s1
    else (s1.wrw .chSrc (s1.rdw .chSrc n + BitVec.ofNat 64 k) n).wrw .chDst (s1.rdw .chDst n + BitVec.ofNat 64 k) n
  match (s.dmaCh n).cur with
  | some (.move _ _ _ sinc dinc len src dst) => if left = 0 then s2.moveEnd n sinc dinc len src dst else s2
  | _ => s2

/-- The channel's beat: read, checked, written. [log: DEDUCED 115] -/
def State.beat (s : State) (n : Nat) (b : Nat × Nat × Nat × Nat × Nat) : State :=
  let ssp := b.1
  let dsp := b.2.1
  let src := b.2.2.1
  let dst := b.2.2.2.1
  let k := b.2.2.2.2
  let v := if ssp = 0 then 0 else s.chAccess n ssp src k false
  let w := s.chAccess n dsp dst k true
  if v ≠ 0 then s.chViolation n v src
  else if w ≠ 0 then s.chViolation n w dst
  else
    let r := s.beatRead n ssp src k
    match r.1 with
    | none => r.2.chFault n 5
    | some bs => if dsp = 2 ∧ (k % 4 ≠ 0 ∨ dst % k ≠ 0) then r.2.chFault n 5 else (r.2.chStore n dsp dst bs).beatStep n k

/-- A beat slot goes to the lowest-numbered channel with a beat ready; the others with one ready are pre-empted (R413).
[log: DEDUCED 116, 185] -/
def execDmaBeat (s : State) : Host.Outcome State Fault Refusal :=
  .next (
    match (List.range 32).find? (fun n => (s.beatOf n).isSome) with
    | none => s
    | some n =>
      let s1 := forN 32 (fun k s =>
        let p := b2n (decide (k ≠ n) && (s.beatOf k).isSome)
        if s.fget F.chStatus_PREEMPTED k = p then s else s.fset F.chStatus_PREEMPTED p k) s
      match s.beatOf n with
      | some b => s1.beat n b
      | none => s1)

/-- PAUSING ends when no read data is left (R414, R416). [log: DEDUCED 116] -/
def execDmaPauseDrained (n : Nat) (s : State) : Host.Outcome State Fault Refusal :=
  .next (if s.fget F.chStatus_STATE n = 3 ∧ (s.dmaCh n).buf.isEmpty = true then s.fset F.chStatus_STATE 4 n else s)

/-! ## LOOP (R409) -/

/-- A signed step added to a 64-bit address. -/
def stepAddr (a : DWord) (step : Nat) : DWord := BitVec.ofInt 64 ((a.toNat : Int) + toSigned 32 step)

def State.loopDo (s : State) (n level back count ss ds : Nat) : State :=
  let c := s.dmaCh n
  let pc := (s.rdw .chPc n).toNat
  let act := s.fget F.chFault_LOOP_ACTIVE n
  let on := bitAt act level
  if back = 0 ∨ pc < c.progBase + 32 * back ∨ (on = true ∧ nth c.backs level 0 ≠ back) then s.chFault n 2
  else
    let lc := if on then (s.rd .chLoop n level).toNat else max 1 count - 1
    let s1 := s.setDmaCh n { c with backs := putNth c.backs level back }
    if 0 < lc then
      let s2 := ((s1.wr .chLoop (BitVec.ofNat 32 (lc - 1)) n level).fset F.chFault_LOOP_ACTIVE (setBits act level level 1) n)
      ((s2.wrw .chSrc (stepAddr (s2.rdw .chSrc n) ss) n).wrw .chDst (stepAddr (s2.rdw .chDst n) ds) n).chGo n (pc - 32 * back)
    else ((s1.wr .chLoop 0 n level).fset F.chFault_LOOP_ACTIVE (setBits act level level 0) n).chNext n

def execDmaLoop (n : Nat) (ins : List Byte) (s : State) : Host.Outcome State Fault Refusal :=
  .next (s.execIns n ins (fun o s => match o with
    | .loop level back count ss ds => some (s.loopDo n level back count ss ds)
    | _ => none))

/-! ## WAIT (R410) -/

/-- The state of a request line as a channel sees it. -/
def State.dmaLine (s : State) (n line : Nat) : Bool :=
  if line = 20 then decide (s.vstate = 0) && !s.flag F.teCmdStatus_BUSY
  else if line = 22 then s.flag F.anvilStatus_DRAINED
  else if line = 23 then false
  else if 56 ≤ line then bitAt (s.rd .dmaSwreq).toNat (line - 56)
  else (s.dmaCh n).lines.getLsbD line

/-- A WAIT whose line has the state asked for finishes; with POL 0 it clears a pulse line for this channel. -/
def State.waitEnd (s : State) (n line : Nat) (pol : Bool) : State :=
  let c := s.dmaCh n
  let s1 := if pol then s else s.setDmaCh n { c with lines := c.lines &&& ~~~(BitVec.ofNat 64 (2 ^ line)) }
  (s1.fset F.chStatus_STATE 1 n).chNext n

def execDmaWait (n : Nat) (ins : List Byte) (s : State) : Host.Outcome State Fault Refusal :=
  .next (s.execIns n ins (fun o s => match o with
    | .wait line pol tmo =>
      some (if s.dmaLine n line ≠ pol then s.waitEnd n line pol
        else (s.fset F.chStatus_STATE 2 n).setDmaCh n { s.dmaCh n with cur := some (.wait line pol tmo) })
    | _ => none))

def execDmaWaitSatisfied (n : Nat) (s : State) : Host.Outcome State Fault Refusal :=
  .next (match (s.dmaCh n).cur with
    | some (.wait line pol _) => if s.fget F.chStatus_STATE n = 2 ∧ s.dmaLine n line ≠ pol then s.waitEnd n line pol else s
    | _ => s)

def execDmaWaitTimeout (n : Nat) (s : State) : Host.Outcome State Fault Refusal :=
  .next (match (s.dmaCh n).cur with
    | some (.wait _ _ tmo) => if s.fget F.chStatus_STATE n = 2 ∧ tmo ≠ 0 then s.chFault n 3 else s
    | _ => s)

/-! ## SIGNAL and END (R411, R412) -/

def State.signalDo (s : State) (n space : Nat) (size8 : Bool) (addr value : Nat) : State :=
  let k := if size8 then 8 else 4
  if addr % k ≠ 0 then s.chFault n 4
  else
    let w := s.chAccess n space addr k true
    if w ≠ 0 then s.chViolation n w addr else (s.chStore n space addr (leBytes k value)).chNext n

def execDmaSignal (n : Nat) (ins : List Byte) (s : State) : Host.Outcome State Fault Refusal :=
  .next (s.execIns n ins (fun o s => match o with
    | .signal space size8 addr value => some (s.signalDo n space size8 addr value)
    | _ => none))

/-- END: the pulse line, then the target, which the owner must be allowed. [log: DEDUCED 114, 118] -/
def State.endDo (s : State) (n target ring dbval : Nat) : State :=
  let f := s.chFn n
  if (target = 1 ∧ s.hasRight f 1 = false) ∨ (target = 2 ∧ s.ringOwnerOf ring ≠ f) then s.chViolation n 6 (if target = 2 then ring * 4096 else 0)
  else
    let s1 := (s.dmaPulse (24 + n))
    let s2 := match target with
      | 1 => s1.teAccept .reg { teOpOf 5 0 [] with gen := 1 }
      | 2 => s1.ringPageWrite f ring (fun s => s.setTail ring (BitVec.ofNat 32 dbval))
      | _ => s1
    (s2.setDmaCh n { s2.dmaCh n with cur := none }).fset F.chStatus_STATE 0 n

def execDmaEnd (n : Nat) (ins : List Byte) (s : State) : Host.Outcome State Fault Refusal :=
  .next (s.execIns n ins (fun o s => match o with
    | .endp target ring dbval => some (s.endDo n target ring dbval)
    | _ => none))

/-- A reserved opcode faults (R415). -/
def execDmaIllegalOpcode (n : Nat) (ins : List Byte) (s : State) : Host.Outcome State Fault Refusal :=
  .next (s.execIns n ins (fun o s => match o with
    | .illegal => some (s.chFault n 1)
    | _ => none))

end Sys2Proof.Machine
end

