-- ==== Sys2Proof/Machine/Dispatch.lean ====
section
/-!
DEFINITION. The meaning of each command: one arm per constructor, each a direct call.
-/

namespace Sys2Proof.Machine

def exec (i : Instr) (s : State) : Host.Outcome State Fault Refusal :=
  match i with
  | .registerWrite f a v => Sys2Proof.Machine.execRegisterWrite f a v s
  | .lowWordRead f a => Sys2Proof.Machine.execLowWordRead f a s
  | .lowWordWrite f a v => Sys2Proof.Machine.execLowWordWrite f a v s
  | .highWordWrite f a v => Sys2Proof.Machine.execHighWordWrite f a v s
  | .eightByteAccess f bar a len write v => Sys2Proof.Machine.execEightByteAccess f bar a len write v s
  | .beatArrival p bytes => Sys2Proof.Machine.execBeatArrival p bytes s
  | .lastBeatArrival p bytes good fec => Sys2Proof.Machine.execLastBeatArrival p bytes good fec s
  | .parseStart t p => Sys2Proof.Machine.execParseStart t p s
  | .microwordExecute t fid ecc => Sys2Proof.Machine.execMicrowordExecute t fid ecc s
  | .threadReentry t fid => Sys2Proof.Machine.execThreadReentry t fid s
  | .tableResultArrival t fid res => Sys2Proof.Machine.execTableResultArrival t fid res s
  | .threadRestart t fid => Sys2Proof.Machine.execThreadRestart t fid s
  | .deferredLogApply t fid => Sys2Proof.Machine.execDeferredLogApply t fid s
  | .reorderRelease t p => Sys2Proof.Machine.execReorderRelease t p s
  | .excQueueDeliver t c => Sys2Proof.Machine.execExcQueueDeliver t c s
  | .csWordRewrite t a => Sys2Proof.Machine.execCsWordRewrite t a s
  | .imgLoad f v d ok => Sys2Proof.Machine.execImgLoad f v d ok s
  | .imgLoadDone => Sys2Proof.Machine.execImgLoadDone s
  | .imgActivate v => Sys2Proof.Machine.execImgActivate v s
  | .imgDeactivate v => Sys2Proof.Machine.execImgDeactivate v s
  | .imgCancel => Sys2Proof.Machine.execImgCancel s
  | .activationDrained => Sys2Proof.Machine.execActivationDrained s
  | .activationComplete => Sys2Proof.Machine.execActivationComplete s
  | .csRead t v ecc => Sys2Proof.Machine.execCsRead t v ecc s
  | .csReadDone t => Sys2Proof.Machine.execCsReadDone t s
  | .stateEntryCommit t e v => Sys2Proof.Machine.execStateEntryCommit t e v s
  | .parserTcamCommit t b e v => Sys2Proof.Machine.execParserTcamCommit t b e v s
  | .ptypeEntryCommit t b e v => Sys2Proof.Machine.execPtypeEntryCommit t b e v s
  | .entryWordWrite t tab e w v => Sys2Proof.Machine.execEntryWordWrite t tab e w v s
  | .policerWriteConfig t => Sys2Proof.Machine.execPolicerWriteConfig t s
  | .policerReadConfig t => Sys2Proof.Machine.execPolicerReadConfig t s
  | .policerReadBucket t => Sys2Proof.Machine.execPolicerReadBucket t s
  | .policerCmdDone t => Sys2Proof.Machine.execPolicerCmdDone t s
  | .insert src => Sys2Proof.Machine.execInsert src s
  | .modify src => Sys2Proof.Machine.execModify src s
  | .delete src => Sys2Proof.Machine.execDelete src s
  | .read src => Sys2Proof.Machine.execRead src s
  | .commit src => Sys2Proof.Machine.execCommit src s
  | .versionChange => Sys2Proof.Machine.execVersionChange s
  | .discard src => Sys2Proof.Machine.execDiscard src s
  | .setLive src => Sys2Proof.Machine.execSetLive src s
  | .member src => Sys2Proof.Machine.execMember src s
  | .flush src => Sys2Proof.Machine.execFlush src s
  | .inflightDrained => Sys2Proof.Machine.execInflightDrained s
  | .retireSweepEnd => Sys2Proof.Machine.execRetireSweepEnd s
  | .discardSweepEnd => Sys2Proof.Machine.execDiscardSweepEnd s
  | .twriteApply => Sys2Proof.Machine.execTwriteApply s
  | .learnApply => Sys2Proof.Machine.execLearnApply s
  | .ageTick => Sys2Proof.Machine.execAgeTick s
  | .ageTickWrite v => Sys2Proof.Machine.execAgeTickWrite v s
  | .ageScanVisit slot => Sys2Proof.Machine.execAgeScanVisit slot s
  | .ageCompareDelete => Sys2Proof.Machine.execAgeCompareDelete s
  | .ageStampRewrite => Sys2Proof.Machine.execAgeStampRewrite s
  | .tableWordRepair t => Sys2Proof.Machine.execTableWordRepair t s
  | .spareBankLoadDone t => Sys2Proof.Machine.execSpareBankLoadDone t s
  | .bankCopyOutDone t => Sys2Proof.Machine.execBankCopyOutDone t s
  | .bankCopyBackDone t => Sys2Proof.Machine.execBankCopyBackDone t s
  | .tcamScrubVisit t e err => Sys2Proof.Machine.execTcamScrubVisit t e err s
  | .emSeedWrite v => Sys2Proof.Machine.execEmSeedWrite v s
  | .lpmCfgWrite v => Sys2Proof.Machine.execLpmCfgWrite v s
  | .tblCfgWrite k v => Sys2Proof.Machine.execTblCfgWrite k v s
  | .tcamCfgWrite k v => Sys2Proof.Machine.execTcamCfgWrite k v s
  | .portEnable p v => Sys2Proof.Machine.execPortEnable p v s
  | .portDisable p => Sys2Proof.Machine.execPortDisable p s
  | .txgrpCfgWrite c v => Sys2Proof.Machine.execTxgrpCfgWrite c v s
  | .anPageReceived p base ability => Sys2Proof.Machine.execAnPageReceived p base ability s
  | .anRetryTimer p => Sys2Proof.Machine.execAnRetryTimer p s
  | .trainComplete p lanes => Sys2Proof.Machine.execTrainComplete p lanes s
  | .trainTimeout p => Sys2Proof.Machine.execTrainTimeout p s
  | .histTrainTimeout p => Sys2Proof.Machine.execHistTrainTimeout p s
  | .alignLock p idle => Sys2Proof.Machine.execAlignLock p idle s
  | .alignTimeout p => Sys2Proof.Machine.execAlignTimeout p s
  | .markerReceive l diffs cw time laneIdx width ei wake seq => Sys2Proof.Machine.execMarkerReceive l diffs cw time laneIdx width ei wake seq s
  | .markerMiss l => Sys2Proof.Machine.execMarkerMiss l s
  | .lossOfSignal l => Sys2Proof.Machine.execLossOfSignal l s
  | .hiSer l syms cws bad => Sys2Proof.Machine.execHiSer l syms cws bad s
  | .faultOrderedSet p kind => Sys2Proof.Machine.execFaultOrderedSet p kind s
  | .eiHoldExpire p idle => Sys2Proof.Machine.execEiHoldExpire p idle s
  | .rxEiEntry p => Sys2Proof.Machine.execRxEiEntry p s
  | .eiWake p => Sys2Proof.Machine.execEiWake p s
  | .wakeMarker p => Sys2Proof.Machine.execWakeMarker p s
  | .wakeTimeout p => Sys2Proof.Machine.execWakeTimeout p s
  | .deepEnter p => Sys2Proof.Machine.execDeepEnter p s
  | .deepWake p => Sys2Proof.Machine.execDeepWake p s
  | .partnerDeepEntry p => Sys2Proof.Machine.execPartnerDeepEntry p s
  | .deepSignalDetect p => Sys2Proof.Machine.execDeepSignalDetect p s
  | .eyeStart l v => Sys2Proof.Machine.execEyeStart l v s
  | .eyePointDone l errors => Sys2Proof.Machine.execEyePointDone l errors s
  | .loopbackEnable l loop gen chk => Sys2Proof.Machine.execLoopbackEnable l loop gen chk s
  | .testExit p => Sys2Proof.Machine.execTestExit p s
  | .prbsInject l => Sys2Proof.Machine.execPrbsInject l s
  | .prbsPeriodicInject l => Sys2Proof.Machine.execPrbsPeriodicInject l s
  | .prbsCheckLock l rx => Sys2Proof.Machine.execPrbsCheckLock l rx s
  | .prbsLockLost l rx => Sys2Proof.Machine.execPrbsLockLost l rx s
  | .cagePrsFall k => Sys2Proof.Machine.execCagePrsFall k s
  | .cageDebounceDone k => Sys2Proof.Machine.execCageDebounceDone k s
  | .cageResetRelease k => Sys2Proof.Machine.execCageResetRelease k s
  | .modReadyPoll k ready ident apps power => Sys2Proof.Machine.execModReadyPoll k ready ident apps power s
  | .modReadyTimeout k => Sys2Proof.Machine.execModReadyTimeout k s
  | .moduleDataPathActive k => Sys2Proof.Machine.execModuleDataPathActive k s
  | .cagePrsRise k sdaLow => Sys2Proof.Machine.execCagePrsRise k sdaLow s
  | .cageIntFall k flags => Sys2Proof.Machine.execCageIntFall k flags s
  | .mailboxRead m v => Sys2Proof.Machine.execMailboxRead m v s
  | .mailboxWrite m v => Sys2Proof.Machine.execMailboxWrite m v s
  | .mailboxDone m result data intN => Sys2Proof.Machine.execMailboxDone m result data intN s
  | .ledFrame blink => Sys2Proof.Machine.execLedFrame blink s
  | .nimbusGrant t => Sys2Proof.Machine.execNimbusGrant t s
  | .grantReceive t q => Sys2Proof.Machine.execGrantReceive t q s
  | .crossingStart t q err => Sys2Proof.Machine.execCrossingStart t q err s
  | .crossingComplete t q err => Sys2Proof.Machine.execCrossingComplete t q err s
  | .txDecision p => Sys2Proof.Machine.execTxDecision p s
  | .txFrameEnd p idle => Sys2Proof.Machine.execTxFrameEnd p idle s
  | .pauseResendTimer p => Sys2Proof.Machine.execPauseResendTimer p s
  | .pauseFrameReceive p bytes good => Sys2Proof.Machine.execPauseFrameReceive p bytes good s
  | .pauseTimerExpire p c => Sys2Proof.Machine.execPauseTimerExpire p c s
  | .pfcWdExpire p c => Sys2Proof.Machine.execPfcWdExpire p c s
  | .pfcWdRestore p c => Sys2Proof.Machine.execPfcWdRestore p c s
  | .spillWriteStart t q limited => Sys2Proof.Machine.execSpillWriteStart t q limited s
  | .spillWriteComplete t q retries => Sys2Proof.Machine.execSpillWriteComplete t q retries s
  | .refillReadStart t q => Sys2Proof.Machine.execRefillReadStart t q s
  | .refillComplete t q verdict retries => Sys2Proof.Machine.execRefillComplete t q verdict retries s
  | .freeCacheRefill g => Sys2Proof.Machine.execFreeCacheRefill g s
  | .freeCacheWriteback g => Sys2Proof.Machine.execFreeCacheWriteback g s
  | .anvilEnClear => Sys2Proof.Machine.execAnvilEnClear s
  | .anvilEnSet => Sys2Proof.Machine.execAnvilEnSet s
  | .mcHoldExpire t q => Sys2Proof.Machine.execMcHoldExpire t q s
  | .downHoldExpire p => Sys2Proof.Machine.execDownHoldExpire p s
  | .voqQuery t v => Sys2Proof.Machine.execVoqQuery t v s
  | .voqLeaveSafe t v => Sys2Proof.Machine.execVoqLeaveSafe t v s
  | .mcInsert v => Sys2Proof.Machine.execMcInsert v s
  | .mcModify v => Sys2Proof.Machine.execMcModify v s
  | .mcDelete v => Sys2Proof.Machine.execMcDelete v s
  | .mcRead v => Sys2Proof.Machine.execMcRead v s
  | .mcMemberWrite v => Sys2Proof.Machine.execMcMemberWrite v s
  | .pgCfgWrite p pri w v => Sys2Proof.Machine.execPgCfgWrite p pri w v s
  | .pfcCfgWrite p v => Sys2Proof.Machine.execPfcCfgWrite p v s
  | .gateEdge p => Sys2Proof.Machine.execGateEdge p s
  | .gateSwapRequest p => Sys2Proof.Machine.execGateSwapRequest p s
  | .gateEnable p => Sys2Proof.Machine.execGateEnable p s
  | .gateDisable p => Sys2Proof.Machine.execGateDisable p s
  | .shaperWrite p k r v => Sys2Proof.Machine.execShaperWrite p k r v s
  | .sampleInstant t => Sys2Proof.Machine.execSampleInstant t s
  | .residenceReport t => Sys2Proof.Machine.execResidenceReport t s
  | .flowScanVisit t k => Sys2Proof.Machine.execFlowScanVisit t k s
  | .flowFlush => Sys2Proof.Machine.execFlowFlush s
  | .flowFlushDone => Sys2Proof.Machine.execFlowFlushDone s
  | .histClear => Sys2Proof.Machine.execHistClear s
  | .statClear ix t all => Sys2Proof.Machine.execStatClear ix t all s
  | .pcCfgWrite f t k v => Sys2Proof.Machine.execPcCfgWrite f t k v s
  | .grpCtlWrite f g v => Sys2Proof.Machine.execGrpCtlWrite f g v s
  | .flowSeedWrite v => Sys2Proof.Machine.execFlowSeedWrite v s
  | .bar4Write f off v => Sys2Proof.Machine.execBar4Write f off v s
  | .ringEnable r v => Sys2Proof.Machine.execRingEnable r v s
  | .doorbellWrite f r v => Sys2Proof.Machine.execDoorbellWrite f r v s
  | .invalidate f r v => Sys2Proof.Machine.execInvalidate f r v s
  | .invalidateDone r => Sys2Proof.Machine.execInvalidateDone r s
  | .descriptorFetch r entries ok => Sys2Proof.Machine.execDescriptorFetch r entries ok s
  | .descriptorStart r data => Sys2Proof.Machine.execDescriptorStart r data s
  | .txBufferReadDone r data ok => Sys2Proof.Machine.execTxBufferReadDone r data ok s
  | .completionWrite c => Sys2Proof.Machine.execCompletionWrite c s
  | .eventWrite r => Sys2Proof.Machine.execEventWrite r s
  | .telemRecordWrite r => Sys2Proof.Machine.execTelemRecordWrite r s
  | .telemBufferClose r => Sys2Proof.Machine.execTelemBufferClose r s
  | .functionLevelReset f => Sys2Proof.Machine.execFunctionLevelReset f s
  | .flrComplete f => Sys2Proof.Machine.execFlrComplete f s
  | .msixModerationExpire r => Sys2Proof.Machine.execMsixModerationExpire r s
  | .dmaStart n => Sys2Proof.Machine.execDmaStart n s
  | .dmaPause n => Sys2Proof.Machine.execDmaPause n s
  | .dmaPauseDrained n => Sys2Proof.Machine.execDmaPauseDrained n s
  | .dmaResume n => Sys2Proof.Machine.execDmaResume n s
  | .dmaAbort n => Sys2Proof.Machine.execDmaAbort n s
  | .dmaMove n ins => Sys2Proof.Machine.execDmaMove n ins s
  | .dmaLoop n ins => Sys2Proof.Machine.execDmaLoop n ins s
  | .dmaWait n ins => Sys2Proof.Machine.execDmaWait n ins s
  | .dmaWaitSatisfied n => Sys2Proof.Machine.execDmaWaitSatisfied n s
  | .dmaWaitTimeout n => Sys2Proof.Machine.execDmaWaitTimeout n s
  | .dmaSignal n ins => Sys2Proof.Machine.execDmaSignal n ins s
  | .dmaEnd n ins => Sys2Proof.Machine.execDmaEnd n ins s
  | .dmaIllegalOpcode n ins => Sys2Proof.Machine.execDmaIllegalOpcode n ins s
  | .dmaBeat => Sys2Proof.Machine.execDmaBeat s
  | .dmaReadCompletion n data ok => Sys2Proof.Machine.execDmaReadCompletion n data ok s
  | .dmaSwreqWrite f v => Sys2Proof.Machine.execDmaSwreqWrite f v s
  | .clockTick => Sys2Proof.Machine.execClockTick s
  | .adjSet => Sys2Proof.Machine.execAdjSet s
  | .adjAdd => Sys2Proof.Machine.execAdjAdd s
  | .nowRead f => Sys2Proof.Machine.execNowRead f s
  | .triggerArm k mode => Sys2Proof.Machine.execTriggerArm k mode s
  | .triggerDisarm k => Sys2Proof.Machine.execTriggerDisarm k s
  | .triggerFire k => Sys2Proof.Machine.execTriggerFire k s
  | .ppsPulseEnd => Sys2Proof.Machine.execPpsPulseEnd s
  | .captureEdge k rising pps quarter => Sys2Proof.Machine.execCaptureEdge k rising pps quarter s
  | .capturePop f k => Sys2Proof.Machine.execCapturePop f k s
  | .powerWindowEnd vin iin p uj => Sys2Proof.Machine.execPowerWindowEnd vin iin p uj s
  | .voltageReached => Sys2Proof.Machine.execVoltageReached s
  | .settleDone => Sys2Proof.Machine.execSettleDone s
  | .voltageLowered => Sys2Proof.Machine.execVoltageLowered s
  | .currentLimitCrossing peak => Sys2Proof.Machine.execCurrentLimitCrossing peak s
  | .currentLimitStage2 => Sys2Proof.Machine.execCurrentLimitStage2 s
  | .limitHoldExpire => Sys2Proof.Machine.execLimitHoldExpire s
  | .startupHoldExpire => Sys2Proof.Machine.execStartupHoldExpire s
  | .capGraceExpire => Sys2Proof.Machine.execCapGraceExpire s
  | .sensorRead sensor deg => Sys2Proof.Machine.execSensorRead sensor deg s
  | .thermalTrip sensor => Sys2Proof.Machine.execThermalTrip sensor s
  | .socConversionDone vin iin => Sys2Proof.Machine.execSocConversionDone vin iin s
  | .anvilPowerUpDone => Sys2Proof.Machine.execAnvilPowerUpDone s
  | .poweredMinute good => Sys2Proof.Machine.execPoweredMinute good s
  | .vinValid => Sys2Proof.Machine.execVinValid s
  | .vinInvalid => Sys2Proof.Machine.execVinInvalid s
  | .inrushDone => Sys2Proof.Machine.execInrushDone s
  | .buttonPress => Sys2Proof.Machine.execButtonPress s
  | .buttonHold => Sys2Proof.Machine.execButtonHold s
  | .buttonRelease => Sys2Proof.Machine.execButtonRelease s
  | .watchdogExpire => Sys2Proof.Machine.execWatchdogExpire s
  | .chipResetRequest f key => Sys2Proof.Machine.execChipResetRequest f key s
  | .horizonResetRequest f key => Sys2Proof.Machine.execHorizonResetRequest f key s
  | .chipReset => Sys2Proof.Machine.execChipReset s
  | .perstAssert => Sys2Proof.Machine.execPerstAssert s
  | .perstRelease => Sys2Proof.Machine.execPerstRelease s
  | .dawnStandbyReady => Sys2Proof.Machine.execDawnStandbyReady s
  | .bootSlotCheck => Sys2Proof.Machine.execBootSlotCheck s
  | .serviceCoreStart => Sys2Proof.Machine.execServiceCoreStart s
  | .dawnBistDone failed => Sys2Proof.Machine.execDawnBistDone failed s
  | .chipletCalibrated bad => Sys2Proof.Machine.execChipletCalibrated bad s
  | .coreBringupDone vin bad => Sys2Proof.Machine.execCoreBringupDone vin bad s
  | .dawnReady ms => Sys2Proof.Machine.execDawnReady ms s
  | .flashRead => Sys2Proof.Machine.execFlashRead s
  | .flashProgram => Sys2Proof.Machine.execFlashProgram s
  | .flashErase => Sys2Proof.Machine.execFlashErase s
  | .flashOpDone ok => Sys2Proof.Machine.execFlashOpDone ok s
  | .faultDetect src kind addr => Sys2Proof.Machine.execFaultDetect src kind addr s
  | .squallAccept => Sys2Proof.Machine.execSquallAccept s
  | .firstRearm => Sys2Proof.Machine.execFirstRearm s
  | .blockResetDrained t => Sys2Proof.Machine.execBlockResetDrained t s
  | .blockResetDone t => Sys2Proof.Machine.execBlockResetDone t s
  | .privBlockResetDone ix ok => Sys2Proof.Machine.execPrivBlockResetDone ix ok s
  | .maskSetExpire => Sys2Proof.Machine.execMaskSetExpire s
  | .rootPllRelock => Sys2Proof.Machine.execRootPllRelock s
  | .bistRunPlan v => Sys2Proof.Machine.execBistRunPlan v s
  | .bistRunOne v => Sys2Proof.Machine.execBistRunOne v s
  | .bistStop v => Sys2Proof.Machine.execBistStop v s
  | .bistSliceStart d => Sys2Proof.Machine.execBistSliceStart d s
  | .bistSliceEnd d ok loc fixed => Sys2Proof.Machine.execBistSliceEnd d ok loc fixed s
  | .bistSliceTimeout d => Sys2Proof.Machine.execBistSliceTimeout d s
  | .bnQuote => Sys2Proof.Machine.execBnQuote s
  | .bnExtend => Sys2Proof.Machine.execBnExtend s
  | .bnEnroll => Sys2Proof.Machine.execBnEnroll s
  | .bnArb => Sys2Proof.Machine.execBnArb s
  | .bnCert => Sys2Proof.Machine.execBnCert s
  | .bnZcert => Sys2Proof.Machine.execBnZcert s
  | .bnZcmd => Sys2Proof.Machine.execBnZcmd s
  | .bnCommandDone => Sys2Proof.Machine.execBnCommandDone s
  | .zenTapTotals c ok zclk => Sys2Proof.Machine.execZenTapTotals c ok zclk s
  | .zenEdge zclk => Sys2Proof.Machine.execZenEdge zclk s
  | .zenEdgeTimeout zclk => Sys2Proof.Machine.execZenEdgeTimeout zclk s
  | .zenRecordCommit => Sys2Proof.Machine.execZenRecordCommit s
  | .zenCommand => Sys2Proof.Machine.execZenCommand s
  | .zenTamper cause => Sys2Proof.Machine.execZenTamper cause s
  | .zvddPowerUp ok => Sys2Proof.Machine.execZvddPowerUp ok s
  | .zenRecordDeliver => Sys2Proof.Machine.execZenRecordDeliver s
  | .zvddLoss => Sys2Proof.Machine.execZvddLoss s
  | .lossOfLock l => Sys2Proof.Machine.execLossOfLock l s
  | .adaptationUpdate l tap up => Sys2Proof.Machine.execAdaptationUpdate l tap up s

end Sys2Proof.Machine
end

