-- ==== Sys2Proof/Safety.lean ====
section
/-!
DEFINITION. What statements about the block are said in: the canonical form of the register files and memories, and what a command may change:
the parts of the state and the registers outside its footprint stay as they were.
-/

namespace Sys2Proof.Machine

/-- The register files and the byte memories are in their one canonical form: keys rise strictly, and no entry equals what an unlisted key
reads as. Equal contents are then equal data. -/
def State.canonical (s : State) : Prop :=
  twf (fun k => BitVec.ofNat 32 (keyReset k)) s.r32 = true ∧ twf (fun k => BitVec.ofNat 64 (keyReset k)) s.r64 = true ∧
    Memory.wf s.host.mem = true ∧ Memory.wf s.dma.loc = true

/-- Of the 32-bit registers only those of `l` may differ between two states. -/
def OnlyRegs (l : List RName) (s t : State) : Prop := ∀ n i j, n ∉ l → t.rd n i j = s.rd n i j

/-- Of the 64-bit registers only those of `l` may differ between two states. -/
def OnlyWide (l : List RName) (s t : State) : Prop := ∀ n i j, n ∉ l → t.rdw n i j = s.rdw n i j

/-- The command ends in a next state. -/
def Completes (c : Instr) (s : State) : Prop := ∃ t, exec c s = .next t

/-! ## Footprints -/

/-- The parts of the state beside the queue and the registers. -/
inductive Part where
  /-- The counter of free values. -/
  | free
  /-- Host memory. -/
  | mem
  /-- The host interface and the rings, but for host memory. -/
  | host
  /-- The local memory of the DMA engine. -/
  | loc
  /-- The DMA channels, but for their local memory. -/
  | dma
  /-- The clock, triggers and captures. -/
  | time
  /-- The lanes and the front panel. -/
  | link
  /-- The power controller. -/
  | power
  /-- The boot sequence, flash and fuses. -/
  | boot
  /-- The fault collector and BIST. -/
  | squall
  /-- The buffers, Anvil, Nimbus and the schedulers. -/
  | tm
  /-- Halo. -/
  | halo
  /-- The pipes and the parser. -/
  | cirrus
  /-- The tables. -/
  | te
  /-- Bennidan. -/
  | trust
  /-- Zenith. -/
  | zen
  deriving DecidableEq, Repr

/-- A part is the same in two states. -/
def Part.same (p : Part) (s t : State) : Prop :=
  match p with
  | .free => t.free = s.free
  | .mem => t.host.mem = s.host.mem
  | .host => { t.host with mem := s.host.mem } = s.host
  | .loc => t.dma.loc = s.dma.loc
  | .dma => { t.dma with loc := s.dma.loc } = s.dma
  | .time => t.time = s.time
  | .link => t.link = s.link
  | .power => t.power = s.power
  | .boot => t.boot = s.boot
  | .squall => t.squall = s.squall
  | .tm => t.tm = s.tm
  | .halo => t.halo = s.halo
  | .cirrus => t.cirrus = s.cirrus
  | .te => t.te = s.te
  | .trust => t.trust = s.trust
  | .zen => t.zen = s.zen

/-- The queue is as it was, and only the parts of `f.1` and the registers of `f.2`, 32-bit and 64-bit, may differ between two states. -/
def Only (f : List Part × List RName) (s t : State) : Prop :=
  t.pending = s.pending ∧ (∀ p, p ∉ f.1 → p.same s t) ∧ OnlyRegs f.2 s t ∧ OnlyWide f.2 s t

/-- An event: posted, lost or discarded (R396). -/
def eventRegs : List RName :=
  [.cntEvLost, .cntEvDiscard]

/-- A fault message sent, its safe state, or its loss (R502, R506, R516). -/
def faultRegs : List RName :=
  [.sqStatus, .cntMsgLost, .pend]

/-- A violation of a function: its log, and the freeze of its rings and channels (R377, R378). -/
def violRegs : List RName :=
  faultRegs ++ eventRegs ++ [.fnStatus, .violAddr, .violCnt, .ringStatus, .chStatus]

/-- An entry of a ring finished: H and its interrupt (R387, R405). -/
def ringRegs : List RName :=
  violRegs ++ [.ringHead, .msixPba]

/-- A frame dropped and counted, its transmit entry completed. -/
def dropRegs : List RName :=
  ringRegs ++ [.dropCnt, .dropUcode, .cntWts, .pcVal, .pcOvf]

/-- Cells and headroom given back. -/
def releaseRegs : List RName :=
  [.bpmStatus, .cntDoubleFree, .pgStatus0, .pgStatus1, .pgStatus3]

/-- A frame dropped with its cells. -/
def discardRegs : List RName :=
  dropRegs ++ releaseRegs

/-- A packet parsed, and an exception counted. -/
def parseRegs : List RName :=
  [.cntTrunc, .cntMalformed, .cntLimitExc, .cntNoPtype, .cntNoEntry, .cntExcCirrus, .pcVal, .pcOvf]

/-- A port trains again. -/
def trainRegs : List RName :=
  [.portStatus, .anLocal, .anPartner, .laneCtl, .laneStatus, .eyeResult, .txFfe]

/-- A port leaves UP: its frames go. -/
def leaveUpRegs : List RName :=
  discardRegs ++ [.cntStomp, .pwrStatus, .portStatus, .eyeResult, .anvilStatus, .grpFree, .cntPageDoubleFree]

/-- A table operation commits and answers. -/
def tableRegs : List RName :=
  ringRegs ++ [.mcStatus, .mcData0, .mcData1, .verStatus, .teCmdStatus, .teData]

/-- The forward error correction of a lane's stream counted (R44). -/
def fecRegs : List RName :=
  [.fecCwCorr, .fecCwUncorr, .fecSymCorr]

/-- BIST slices of a firing start (R537, R541). -/
def sliceRegs : List RName :=
  parseRegs ++ [.bistStatus, .bistResult, .bistResIndex, .cntBistSkip, .cirrusStatus, .pipeStatus, .cntRestart, .ttBank, .bpmStatus,
    .pgStatus3, .grpFree]

/-- Every part. -/
def everyPart : List Part :=
  [.free, .mem, .host, .loc, .dma, .time, .link, .power, .boot, .squall, .tm, .halo, .cirrus, .te, .trust, .zen]

/-- The footprint of a command: the parts of the state and the registers that it may change. A write of a register names every one. -/
def footprint (c : Instr) : List Part × List RName :=
  match c with
  | .registerWrite .. | .lowWordWrite .. | .highWordWrite .. | .eightByteAccess .. =>
    ([.free, .mem, .host, .dma, .time, .link, .power, .boot, .squall, .tm, .halo, .cirrus, .te, .trust, .zen], allRegs)
  | .lowWordRead .. =>
    ([.host, .time, .halo], [.capStatus])
  | .beatArrival .. | .crossingStart .. =>
    ([.free, .mem, .host, .squall, .tm, .cirrus], discardRegs ++ [.cntStomp])
  | .lastBeatArrival .. =>
    ([.free, .mem, .host, .link, .squall, .tm, .halo, .cirrus, .te], discardRegs ++ parseRegs ++ fecRegs ++ [.cntStomp, .statOvf,
      .statCnt, .cntStatRange, .cntDpDiscard])
  | .pauseFrameReceive .. =>
    ([.free, .mem, .host, .link, .squall, .tm, .halo, .cirrus, .te], discardRegs ++ parseRegs ++ [.cntStomp, .statOvf, .statCnt,
      .cntStatRange, .cntDpDiscard])
  | .parseStart .. =>
    ([.tm, .cirrus], parseRegs ++ [.ttInflight])
  | .microwordExecute .. =>
    ([.squall, .tm, .cirrus, .te], parseRegs ++ faultRegs ++ [.cntRecirc, .cntRestart, .cntViol, .ttParityCnt, .statOvf, .statCnt,
      .cntStatRange, .cntDpDiscard])
  | .threadReentry .. | .csWordRewrite .. =>
    ([.cirrus], [])
  | .activationDrained =>
    ([.cirrus], parseRegs ++ [.cntRestart])
  | .tableResultArrival .. =>
    ([.squall, .cirrus, .te], parseRegs ++ faultRegs ++ [.cntRestart, .cntViol, .ttParityCnt])
  | .threadRestart .. =>
    ([.cirrus, .te], parseRegs)
  | .deferredLogApply .. =>
    ([.cirrus, .te], [.cntExcCirrus, .pcVal, .pcOvf, .statOvf, .statCnt, .cntStatRange, .cntDpDiscard])
  | .reorderRelease .. =>
    ([.free, .mem, .host, .squall, .tm, .halo, .cirrus], discardRegs ++ [.cntExcDrop, .cntCt, .ttInflight, .cntFlowExported, .cntFlowLost,
      .cntCapLost])
  | .excQueueDeliver .. =>
    ([.free, .mem, .host, .squall, .tm, .cirrus], discardRegs ++ [.ringErr, .cntExcDrop])
  | .imgLoad .. =>
    ([.host, .squall, .cirrus], violRegs ++ [.imgCtl, .imgStatus])
  | .imgLoadDone =>
    ([.cirrus], [.imgStatus])
  | .imgActivate .. | .imgDeactivate .. =>
    ([.cirrus], parseRegs ++ [.cirrusStatus, .cntRestart, .imgCtl, .imgStatus])
  | .imgCancel =>
    ([], [.imgStatus])
  | .activationComplete =>
    ([.cirrus], [.bnMeas, .cirrusStatus, .imgStatus, .baseImageId, .custImageId, .imgSvn])
  | .csRead .. =>
    ([.squall, .cirrus], faultRegs ++ [.csRdCtl, .csRdStatus, .csRdData, .csRdMark])
  | .csReadDone .. =>
    ([], [.csRdStatus])
  | .stateEntryCommit .. =>
    ([.cirrus], [.stateTab])
  | .parserTcamCommit .. =>
    ([.cirrus], [.custTcam0, .custTcam1])
  | .ptypeEntryCommit .. =>
    ([.cirrus], [.ptypeTcam0, .ptypeTcam1])
  | .entryWordWrite .. =>
    ([.cirrus], [.stateTab, .custTcam0, .custTcam1, .ptypeTcam0, .ptypeTcam1])
  | .policerWriteConfig .. | .policerReadConfig .. | .policerReadBucket .. =>
    ([.cirrus], [.polStatus, .polData])
  | .policerCmdDone .. =>
    ([], [.polStatus])
  | .insert .. | .modify .. | .delete .. | .read .. | .discard .. | .setLive .. | .member .. | .flush .. | .retireSweepEnd |
    .discardSweepEnd =>
    ([.mem, .host, .squall, .te, .trust], tableRegs)
  | .commit .. | .ageScanVisit .. | .bankCopyOutDone .. =>
    ([.te], [])
  | .ageStampRewrite =>
    ([.mem, .host, .squall, .te, .trust], tableRegs)
  | .versionChange =>
    ([.mem, .host, .squall, .cirrus, .te, .trust], tableRegs ++ parseRegs ++ [.bnMeas, .tblCommits, .cirrusStatus, .cntRestart,
      .imgStatus, .ttVersion, .cntCommits])
  | .inflightDrained =>
    ([], [.verStatus])
  | .twriteApply =>
    ([.mem, .host, .squall, .te, .trust], tableRegs ++ [.cntDpDiscard])
  | .learnApply =>
    ([.mem, .host, .squall, .te, .trust], tableRegs ++ [.cntLearned, .cntLearnDup, .cntLearnLimit, .cntLearnNospace, .cntLearnConflict, .cntDpDiscard])
  | .ageTick =>
    ([], [.ageNow])
  | .ageTickWrite .. =>
    ([.te], [.ageTick])
  | .ageCompareDelete =>
    ([.mem, .host, .squall, .te, .trust], tableRegs ++ [.cntAged])
  | .tableWordRepair .. =>
    ([.squall, .te], faultRegs ++ [.ttRepairCnt])
  | .spareBankLoadDone .. =>
    ([.host, .squall, .te], faultRegs ++ eventRegs ++ [.ttBank])
  | .bankCopyBackDone .. =>
    ([.te], [.ttBank])
  | .tcamScrubVisit .. =>
    ([.squall, .te], faultRegs ++ [.ttParityCnt])
  | .emSeedWrite .. =>
    ([], [.emSeed])
  | .lpmCfgWrite .. =>
    ([], [.lpmCfg])
  | .tblCfgWrite .. =>
    ([], [.tblCfg0])
  | .tcamCfgWrite .. =>
    ([], [.tcamCfg])
  | .portEnable .. | .portDisable .. =>
    ([.free, .mem, .host, .link, .power, .squall, .tm, .cirrus], leaveUpRegs ++ trainRegs ++ [.portCfg, .fecCwCorr, .fecCwUncorr,
      .fecSymCorr, .cageStatus])
  | .txgrpCfgWrite .. =>
    ([], [.txgrpCfg])
  | .anPageReceived .. =>
    ([.host, .link], eventRegs ++ [.portStatus, .anPartner, .laneCtl, .laneStatus, .eyeResult, .txFfe])
  | .anRetryTimer .. | .alignTimeout .. =>
    ([.free, .link], trainRegs)
  | .trainComplete .. =>
    ([.free, .link], [.portStatus, .laneStatus, .txFfe])
  | .trainTimeout .. =>
    ([.free, .host, .link], trainRegs ++ eventRegs)
  | .histTrainTimeout .. | .deepWake .. | .deepSignalDetect .. =>
    ([.link], [.portStatus, .laneCtl, .laneStatus, .eyeResult, .txFfe])
  | .alignLock .. =>
    ([.free, .mem, .host, .link, .squall, .tm], dropRegs ++ [.portStatus, .laneCtl, .eqHist])
  | .markerReceive .. =>
    ([.link], [.laneStatus])
  | .markerMiss .. | .lossOfSignal .. | .wakeTimeout .. | .lossOfLock .. =>
    ([.free, .mem, .host, .link, .power, .squall, .tm, .cirrus], leaveUpRegs ++ trainRegs)
  | .hiSer .. =>
    ([.free, .mem, .host, .link, .power, .squall, .tm, .cirrus], leaveUpRegs ++ trainRegs ++ fecRegs)
  | .faultOrderedSet .. | .prbsInject .. | .prbsPeriodicInject .. | .ledFrame .. | .adaptationUpdate .. =>
    ([.link], [])
  | .eiHoldExpire .. =>
    ([.link], [.portStatus])
  | .eiWake .. =>
    ([.free, .link], [.portStatus])
  | .rxEiEntry .. | .wakeMarker .. =>
    ([.link], [.portStatus, .laneStatus])
  | .deepEnter .. | .partnerDeepEntry .. =>
    ([.free, .mem, .host, .link, .power, .squall, .tm, .cirrus], leaveUpRegs ++ [.laneStatus])
  | .eyeStart .. =>
    ([.free, .link], [.portStatus, .eyeCtl, .eyeResult])
  | .eyePointDone .. =>
    ([.link], [.eyeResult])
  | .loopbackEnable .. | .testExit .. =>
    ([.free, .mem, .host, .link, .power, .squall, .tm, .cirrus], leaveUpRegs ++ trainRegs ++ [.prbsCtl, .prbsStatus, .prbsErr])
  | .prbsCheckLock .. | .prbsLockLost .. =>
    ([.link], [.prbsStatus, .prbsErr])
  | .cagePrsFall .. | .cageResetRelease .. =>
    ([.link], [.cageStatus])
  | .cageDebounceDone .. | .modReadyPoll .. | .cageIntFall .. =>
    ([.host, .link], eventRegs ++ [.cageStatus])
  | .modReadyTimeout .. =>
    ([.host], eventRegs ++ [.cageStatus])
  | .moduleDataPathActive .. =>
    ([.free, .link], trainRegs ++ [.cageStatus])
  | .cagePrsRise .. =>
    ([.free, .mem, .host, .link, .power, .squall, .tm, .cirrus], leaveUpRegs ++ [.laneCtl, .cageStatus, .modAccStatus])
  | .mailboxRead .. | .mailboxWrite .. =>
    ([.link], [.modAccCtl, .modAccStatus])
  | .mailboxDone .. =>
    ([.host, .link], eventRegs ++ [.cageStatus, .modAccStatus, .modAccBuf])
  | .nimbusGrant .. | .grantReceive .. | .pauseResendTimer .. | .pauseTimerExpire .. | .refillReadStart .. | .freeCacheRefill .. |
    .freeCacheWriteback .. =>
    ([.tm], [])
  | .crossingComplete .. =>
    ([.free, .mem, .host, .squall, .tm], discardRegs ++ [.cntStomp])
  | .txDecision .. =>
    ([.free, .mem, .host, .squall, .tm], dropRegs)
  | .txFrameEnd .. =>
    ([.free, .mem, .host, .link, .squall, .tm, .halo, .zen], ringRegs ++ [.pcVal, .pcOvf, .histClass, .histPort, .wrapClass, .wrapPort,
      .cntCapLost, .cntIoamSkip])
  | .pfcWdExpire .. | .downHoldExpire .. =>
    ([.free, .mem, .host, .power, .squall, .tm], discardRegs ++ [.pwrStatus, .anvilStatus, .grpFree, .cntPageDoubleFree])
  | .pfcWdRestore .. =>
    ([.host, .tm], eventRegs)
  | .spillWriteStart .. =>
    ([.tm], [.grpFree, .cntPagesAlloc, .cntSpillWait])
  | .spillWriteComplete .. =>
    ([.squall, .tm], releaseRegs ++ faultRegs ++ [.cntSpillBytes, .cntEdcRetry, .pcVal, .pcOvf])
  | .refillComplete .. =>
    ([.free, .mem, .host, .power, .squall, .tm], dropRegs ++ [.spareAnvil, .pwrStatus, .bpmStatus, .pgStatus3, .anvilStatus, .grpFree,
      .cntRefillBytes, .cntEdcRetry, .cntDataErr, .cntPageDoubleFree])
  | .anvilEnClear | .anvilEnSet =>
    ([.host, .power, .tm], eventRegs ++ [.pwrStatus, .anvilCtl, .anvilStatus])
  | .mcHoldExpire .. =>
    ([.squall, .tm], releaseRegs ++ faultRegs ++ [.cntMcSkip])
  | .voqQuery .. | .voqLeaveSafe .. =>
    ([.tm], [.voqCtl, .voqData0, .voqData1])
  | .mcInsert .. | .mcModify .. | .mcDelete .. | .mcRead .. | .mcMemberWrite .. =>
    ([.mem, .host, .squall, .te, .trust], tableRegs ++ [.mcCmd])
  | .pgCfgWrite .. =>
    ([.tm], [.pgCfg0, .pgCfg1, .pgCfg2, .pgCfg3, .pgStatus3])
  | .pfcCfgWrite .. =>
    ([.tm], [.pfcCfg, .pgStatus3])
  | .gateEdge .. =>
    ([], [.gateStatus])
  | .gateSwapRequest .. =>
    ([.free, .mem, .host, .squall, .tm], dropRegs ++ [.gateStatus])
  | .gateEnable .. | .gateDisable .. =>
    ([], [.gateCfg, .gateStatus])
  | .shaperWrite .. =>
    ([.tm], [.pshpCir, .pshpPir, .pshpCbs, .pshpPbs, .qshpCir, .qshpPir, .qshpCbs, .qshpPbs])
  | .sampleInstant .. | .histClear =>
    ([], [.histClass, .histPort, .wrapClass, .wrapPort])
  | .residenceReport .. =>
    ([.halo], [])
  | .flowScanVisit .. =>
    ([.host, .halo], [.cntFlowExported, .cntFlowLost])
  | .flowFlush =>
    ([], [.haloStatus])
  | .flowFlushDone =>
    ([.host, .halo], eventRegs ++ [.haloStatus, .cntFlowExported, .cntFlowLost])
  | .statClear .. =>
    ([], [.statOvf, .statCnt])
  | .pcCfgWrite .. =>
    ([.host, .squall], violRegs ++ [.cntForeignWr, .pcVal, .pcCfg, .pcOvf])
  | .grpCtlWrite .. =>
    ([.host, .squall], violRegs ++ [.cntForeignWr, .grpCtl])
  | .flowSeedWrite .. =>
    ([], [.flowSeed])
  | .bar4Write .. =>
    ([], [.cntBar4Wr])
  | .ringEnable .. =>
    ([.host, .squall], violRegs ++ [.ringCtl, .ringErr, .ringHead, .ringTail])
  | .doorbellWrite .. =>
    ([.host, .squall], violRegs ++ [.cntDbIgnored, .ringErr, .ringTail])
  | .invalidate .. =>
    ([.host, .squall], violRegs ++ [.cntDbIgnored])
  | .invalidateDone .. | .nowRead .. | .perstRelease =>
    ([.host], [])
  | .descriptorFetch .. =>
    ([.host, .squall], violRegs ++ [.ringErr])
  | .descriptorStart .. =>
    ([.mem, .host, .dma, .squall, .te], ringRegs ++ [.ringErr, .cntCqFull, .chPc, .chFault])
  | .txBufferReadDone .. =>
    ([.free, .mem, .host, .squall, .tm, .halo, .cirrus, .te], discardRegs ++ parseRegs ++ [.ringErr, .cntStomp, .cntCt, .statOvf, .statCnt,
      .cntStatRange, .cntDpDiscard])
  | .completionWrite .. =>
    ([.mem, .host, .squall], ringRegs ++ [.ringErr, .cntCqFull])
  | .eventWrite .. =>
    ([.mem, .host, .squall], ringRegs ++ [.ringErr])
  | .telemRecordWrite .. =>
    ([.mem, .host, .squall, .halo], ringRegs ++ [.ringErr])
  | .telemBufferClose .. =>
    ([.mem, .host, .squall], ringRegs)
  | .functionLevelReset .. =>
    ([.host, .dma, .te], [.fnStatus, .ringCtl, .ringStatus, .ringErr, .ringHead, .ringTail, .msixTable, .msixPba, .chStatus, .chLoop,
      .chFault, .grpCtl])
  | .flrComplete .. =>
    ([], [.fnStatus, .violAddr, .violCnt])
  | .msixModerationExpire .. =>
    ([.host], [.msixPba])
  | .dmaStart .. | .dmaPause .. | .dmaResume .. | .dmaAbort .. =>
    ([.dma], [.chStatus, .chPc, .chLoop, .chFault])
  | .dmaPauseDrained .. =>
    ([], [.chStatus])
  | .dmaMove .. =>
    ([.host, .dma, .squall], faultRegs ++ eventRegs ++ [.chStatus, .chPc, .chSrc, .chDst, .chLen])
  | .dmaLoop .. =>
    ([.host, .dma, .squall], faultRegs ++ eventRegs ++ [.chStatus, .chPc, .chSrc, .chDst, .chLoop, .chFault])
  | .dmaWait .. =>
    ([.host, .dma, .squall], faultRegs ++ eventRegs ++ [.chStatus, .chPc])
  | .dmaWaitSatisfied .. =>
    ([.dma], [.chStatus, .chPc])
  | .dmaWaitTimeout .. =>
    ([.squall], faultRegs ++ [.chStatus, .chFault])
  | .dmaSignal .. | .dmaBeat | .vinInvalid | .chipReset =>
    (everyPart, allRegs)
  | .dmaEnd .. =>
    ([.host, .dma, .squall, .te], violRegs ++ [.cntDbIgnored, .ringErr, .ringTail])
  | .dmaIllegalOpcode .. =>
    ([.host, .dma, .squall], faultRegs ++ eventRegs ++ [.chStatus, .chFault])
  | .dmaReadCompletion .. =>
    ([.host, .dma, .squall], faultRegs ++ eventRegs ++ [.chStatus, .chFault])
  | .dmaSwreqWrite .. =>
    ([.host, .squall], violRegs ++ [.cntForeignWr, .dmaSwreq])
  | .clockTick =>
    ([.host, .time], eventRegs ++ [.timeStatus, .trigStatus, .pcVal, .pcOvf])
  | .adjSet | .adjAdd | .ppsPulseEnd =>
    ([.time], [])
  | .triggerArm .. | .triggerDisarm .. =>
    ([.free, .mem, .host, .dma, .time, .squall, .tm, .halo, .cirrus, .te, .zen], dropRegs ++ sliceRegs ++ [.socStatus, .trigCtl, .trigStatus, .cntGateTrunc,
      .gateStatus, .snapVal, .snapOvf, .histClass, .histPort, .wrapClass, .wrapPort, .epochNum, .cntHistLost])
  | .triggerFire .. =>
    ([.free, .mem, .host, .dma, .time, .squall, .tm, .halo, .cirrus, .te, .zen], dropRegs ++ sliceRegs ++ [.socStatus, .trigStatus, .cntGateTrunc, .gateStatus,
      .snapVal, .snapOvf, .histClass, .histPort, .wrapClass, .wrapPort, .epochNum, .cntHistLost])
  | .captureEdge .. =>
    ([.host, .dma, .time], eventRegs ++ [.capStatus])
  | .capturePop .. =>
    ([.host, .time], [.capStatus])
  | .powerWindowEnd .. =>
    ([.host, .power, .boot, .squall], faultRegs ++ eventRegs ++ [.pwrStatus, .pcapEff, .vinMv, .iinMa, .pinW, .energyMj, .vcore,
      .cntOpChange, .cntCapUnmet, .cntThermStep])
  | .voltageReached =>
    ([.power], [])
  | .settleDone =>
    ([.host, .power], eventRegs ++ [.pwrStatus, .cntOpChange])
  | .voltageLowered =>
    ([], [.pwrStatus, .vcore])
  | .currentLimitCrossing .. =>
    ([.host, .power, .squall], faultRegs ++ eventRegs ++ [.pwrStatus, .cntOpChange, .cntLimit])
  | .currentLimitStage2 | .vinValid | .inrushDone | .buttonPress | .buttonRelease | .watchdogExpire =>
    ([.boot], [])
  | .limitHoldExpire | .startupHoldExpire =>
    ([.host], eventRegs ++ [.pwrStatus])
  | .capGraceExpire =>
    ([.power, .boot, .squall], faultRegs)
  | .sensorRead .. =>
    ([.host, .power, .squall], faultRegs ++ eventRegs ++ [.pwrStatus, .vcore, .thermStatus, .temp])
  | .thermalTrip .. =>
    ([.host, .power, .squall], faultRegs ++ eventRegs ++ [.pwrStatus, .thermStatus, .cntOpChange])
  | .socConversionDone .. =>
    ([], [.socStatus, .socVinMv, .socIinMa])
  | .anvilPowerUpDone =>
    ([.tm], [.anvilStatus, .grpFree])
  | .poweredMinute .. =>
    ([.power, .boot], [.poweredHours, .vcore])
  | .buttonHold =>
    ([], [.hzCfg])
  | .chipResetRequest .. | .horizonResetRequest .. =>
    ([.host, .boot, .squall], violRegs ++ [.cntForeignWr])
  | .perstAssert =>
    ([.host, .dma, .te], [.resetCause, .fnStatus, .violAddr, .violCnt, .ringCtl, .ringStatus, .ringErr, .ringHead, .ringTail,
      .msixTable, .msixPba, .chStatus, .chLoop, .chFault, .grpCtl])
  | .dawnStandbyReady =>
    ([.host, .boot], [.dawnStatus])
  | .bootSlotCheck =>
    ([.host, .boot], [.dawnStatus, .bootSvn, .bootSeq, .hzCfg, .bnMeas, .arbCtr, .ownerStatus])
  | .serviceCoreStart =>
    ([.boot], [.dawnStatus])
  | .dawnBistDone .. =>
    ([.boot], [.dawnStatus, .errnStatus])
  | .chipletCalibrated .. =>
    ([.host, .power, .boot, .squall, .zen], faultRegs ++ eventRegs ++ [.dawnStatus, .spareLane])
  | .coreBringupDone .. =>
    ([.free, .mem, .host, .link, .power, .boot, .squall, .tm, .cirrus, .te], leaveUpRegs ++ trainRegs ++ [.dawnStatus, .spareTile,
      .spareXlink, .spareCells, .spareAnvil, .vcore, .bnMeas, .parseStatus, .ptypeTcam0, .ptypeTcam1, .entryTab0, .entryTab1,
      .cirrusStatus, .pipeStatus, .imgStatus, .baseImageId, .custImageId, .imgSvn, .ttBank, .portCfg, .fecCwCorr, .fecCwUncorr,
      .fecSymCorr, .cageStatus, .chActive, .anvChStatus, .tblCfg0, .bistStatus, .bistResult,
      .bistResIndex, .cntSlices])
  | .dawnReady .. =>
    ([.boot], [.dawnStatus, .dawnMs])
  | .flashRead | .flashProgram | .flashErase =>
    ([.boot], [.flashCtl, .flashStatus])
  | .flashOpDone .. =>
    ([.free, .boot], [.flashStatus, .flashData])
  | .faultDetect .. =>
    ([.free, .mem, .host, .link, .power, .boot, .squall, .tm, .halo, .cirrus, .te], leaveUpRegs ++ [.bistStatus, .bistResult,
      .bistResIndex, .cntSlices, .spareTile, .spareXlink, .spareCells, .spareAnvil, .cntDataErr, .bnStatus, .cirrusStatus, .pipeStatus, .ttParityCnt, .chActive,
      .anvChStatus])
  | .squallAccept =>
    ([.free, .mem, .host, .link, .power, .boot, .squall, .tm, .cirrus, .te, .trust], leaveUpRegs ++ [.firstMsg, .cntMsg, .cntConseq,
      .sqIrq, .errnStatus, .bistStatus, .bistResult, .bistResIndex, .cntSlices, .spareTile, .spareLane, .spareAnvil, .cntOpChange,
      .temp, .bnStatus, .cirrusStatus, .pipeStatus, .chActive, .anvChStatus])
  | .firstRearm =>
    ([], [.sqStatus])
  | .blockResetDrained .. =>
    ([.squall, .cirrus], parseRegs ++ [.cntRestart])
  | .blockResetDone .. =>
    ([.squall, .cirrus], [.spareTile, .cirrusStatus, .pipeStatus])
  | .privBlockResetDone .. =>
    ([.host, .power, .squall, .tm], eventRegs ++ [.pwrStatus, .vcore, .bnStatus, .anvilStatus, .grpFree])
  | .maskSetExpire =>
    ([.squall], [.sqStatus])
  | .rootPllRelock =>
    ([.boot], [.sqStatus])
  | .bistRunPlan .. | .bistRunOne .. | .bistStop .. =>
    ([.host, .squall, .tm, .cirrus, .te], sliceRegs ++ eventRegs ++ [.bistCtl, .cntSlices])
  | .bistSliceStart .. =>
    ([.host, .squall, .tm, .cirrus, .te], sliceRegs ++ eventRegs)
  | .bistSliceEnd .. =>
    ([.free, .mem, .host, .link, .power, .boot, .squall, .tm, .cirrus, .te], leaveUpRegs ++ [.bistStatus, .bistResult, .bistResIndex,
      .cntSlices, .cntBistFail, .spareTile, .spareXlink, .spareCells, .spareLane, .spareAnvil, .cirrusStatus, .pipeStatus, .chActive, .anvChStatus, .ttBank])
  | .bistSliceTimeout .. =>
    ([.host, .squall, .tm, .te], eventRegs ++ [.bistStatus, .bistResult, .bistResIndex, .cntSlices, .cirrusStatus, .pipeStatus,
      .bpmStatus, .pgStatus3, .grpFree])
  | .bnQuote | .bnExtend | .bnEnroll | .bnArb | .bnCert | .bnZcert | .bnZcmd =>
    ([.boot, .trust], [.bnStatus, .bnIgnored, .ownerStatus])
  | .bnCommandDone =>
    ([.free, .host, .boot, .cirrus, .trust], parseRegs ++ eventRegs ++ [.bnStatus, .bnResult, .bnMeas, .arbCtr, .ownerStatus, .outBuf,
      .cirrusStatus, .cntRestart, .imgStatus, .custImageId, .imgSvn])
  | .zenTapTotals .. | .zenEdge .. | .zenEdgeTimeout .. | .zenRecordCommit =>
    ([.zen], [])
  | .zenCommand =>
    ([.host, .trust, .zen], eventRegs)
  | .zenTamper .. | .zvddPowerUp .. =>
    ([.free, .host, .squall, .zen], faultRegs ++ eventRegs)
  | .zenRecordDeliver =>
    ([.mem, .host, .squall, .zen], ringRegs ++ [.ringErr])
  | .zvddLoss =>
    ([.squall, .zen], faultRegs)

end Sys2Proof.Machine
end

