-- ==== Sys2Proof/Certificates/Slice0/Obligations.lean ====
section
/-!
DEFINITION. The statements: what the commands of each family do and leave alone, what every command keeps, and what reset leaves. A statement
about a family gives, for every state, where each of its commands completes, the next state's values and, where no more may change, what may.
Where a statement has several subjects each is a proposition of its own under `Claims`, and the statement is their conjunction.
-/

open Sys2Proof Sys2Proof.Machine

/-! ### The queue, reset and what every command keeps -/

/-- A step takes the command at the front of the queue and runs it on the state with the queue's rest. On an empty queue the block idles:
that clause is the model's choice (assumption 2). -/
def Obligations.StepRunsTheFrontCommand : Prop :=
  (∀ (s : State) (c : Instr) (rest : List Instr), step { s with pending := c :: rest } = exec c { s with pending := rest }) ∧
    ∀ s : State, s.pending = [] → step s = .next s

/-- Reset: no command waits, the register files and memories are in their canonical form and list nothing, so that every register reads the
value of its reset column; among them those of each kind that the spec's tables give. -/
def Obligations.ResetState : Prop :=
  (let s := State.reset
   s.canonical ∧ s.pending = [] ∧ s.host.mem = [] ∧ s.dma.loc = [] ∧ (∀ n i j, s.rd n i j = BitVec.ofNat 32 (keyReset (regKey n i j))) ∧
     (∀ n i j, s.rdw n i j = BitVec.ofNat 64 (keyReset (regKey n i j))) ∧
     (∀ t : TileIx, s.flag F.clsCtl_CSUM_EN t = true ∧ s.flag F.cirrusCtl_VIOL_REPORT t = true ∧ s.fget F.spareTile_REPAIR_LEFT t = 4 ∧
       s.fget F.spareTile_XLINK_LEFT t = 2) ∧
     (∀ (p : PortIx) (c : ClassIx), s.fget F.qsched_WEIGHT p c = 1 ∧ s.fget F.gateCfg_LEAD_NS p = 0x64) ∧
     (∀ m : Fin 16, s.fget F.fpI2cCfg_SPEED m = 1 ∧ s.fget F.fpI2cCfg_MOD_READY_TMO m = 10) ∧
     s.fget F.sqCtl_LATCH_SEV = 1 ∧ s.flag F.retireCfg_RETIRE_EN = true ∧ s.rd .ageTick = 0x3E8#32 ∧ s.fget F.pwrCfg_OP_MAX = 0 ∧
     s.fget F.pcap_WATTS = 1600 ∧ s.rdw .incr = 0x280000000#64 ∧ s.zen.cfg = 0x0E100010)

/-- Every step keeps the canonical form of the register files and the byte memories, from any state that has it. -/
def Obligations.StepsKeepTheCanonicalForm : Prop := ∀ s t : State, s.canonical → step s = .next t → t.canonical

/-- Every command completes, whatever the state and its operands: the next state has the queue it was run with, and of the parts of the
state and the registers only those of the command's footprint may differ. -/
def Obligations.CommandsCompleteWithinTheirFootprint : Prop := ∀ (c : Instr) (s : State), ∃ t, exec c s = .next t ∧ Only (footprint c) s t

/-- The state of R148: the thread of a packet that starts, or restarts, its routine. -/
def Sys2Proof.Machine.StartsRoutine (k : Pkt) (th : Thread) : Prop :=
  th.pc = phvEntry k.phv ∧ th.phv = k.phv.take 448 ++ List.replicate 64 0 ∧ th.mf = 0 ∧ th.fz = 0 ∧ th.fc = 0 ∧ th.stack = [] ∧ th.log = [] ∧
    th.pass = 1 ∧ th.committed = false

/-- R148: a routine starts, at the dispatch of a packet that waits for it, and restarts, by a THREAD_RESTART whose wait is over, in one state. -/
def Obligations.RoutinesStartAndRestart : Prop :=
  ∀ (s : State) (ti : TileIx) (fid : Nat) (k : Pkt), s.pkt ti fid = some k → (s.pipe ti).stopped = false → s.regionHeld (phvEntry k.phv) = false →
    (∀ p, k.stage = .held → s.nextPipe ti = some p → ∃ k2, (s.dispatch ti fid).pkt ti fid = some k2 ∧ k2.stage = .running ∧
      k2.thread.pipe = p ∧ k2.phv = k.phv ∧ StartsRoutine k k2.thread) ∧
    (∀ why, k.stage = .restart why → (why = 3 → s.cirrus.act = none) → s.hz = true ∨ s.isEntry (phvEntry k.phv) = true →
      ∃ t k2, exec (.threadRestart ti fid) s = .next t ∧ t.pkt ti fid = some k2 ∧ k2.stage = .running ∧ k2.phv = k.phv ∧ StartsRoutine k k2.thread)

/-- R363: a function-level reset clears USER_EN of the groups the function owns, and leaves OWNER of every group, and every counter. -/
def Obligations.FunctionResetLeavesCounters : Prop :=
  ∀ (s : State) (f : FnIx), ∃ t, exec (.functionLevelReset f) s = .next t ∧
    (∀ g : Fin 256, (s.fget F.grpCtl_OWNER g = f → t.flag F.grpCtl_USER_EN g = false) ∧
      (s.fget F.grpCtl_OWNER g ≠ f → t.rd .grpCtl g = s.rd .grpCtl g) ∧ t.fget F.grpCtl_OWNER g = s.fget F.grpCtl_OWNER g) ∧
    OnlyWide [] s t ∧ t.halo = s.halo ∧ (∀ i j, t.rd .pcOvf i j = s.rd .pcOvf i j ∧ t.rd .statOvf i j = s.rd .statOvf i j)

/-! ### Lanes, ports and the front panel -/

/-- From R48, R53, R54 and R56: what the commands of negotiation and training do to a port in the state they are for. -/
def Obligations.PortNegotiationAndTraining : Prop :=
  ∀ (s : State) (p : PortIx),
    (∀ base ability r, s.fget F.portStatus_STATE p = 2 → (s.port p).anWait = false → s.resolveMode p base.toNat ability = some r →
      ∃ t, exec (.anPageReceived p base ability) s = .next t ∧ t.fget F.portStatus_STATE p = 3 ∧ t.fget F.portStatus_RATE_RES p = r) ∧
    (∀ base ability, s.fget F.portStatus_STATE p = 2 → (s.port p).anWait = false → s.resolveMode p base.toNat ability = none →
      ∃ t, exec (.anPageReceived p base ability) s = .next t ∧ t.fget F.portStatus_STATE p = 2 ∧ (t.port p).anWait = true) ∧
    (∀ base ability, (s.port p).anWait = true → exec (.anPageReceived p base ability) s = .next s) ∧
    (s.fget F.portStatus_STATE p = 2 → (s.port p).anWait = true → s.flag F.portCfg_AN p = true →
      ∃ t, exec (.anRetryTimer p) s = .next t ∧ t.fget F.portStatus_STATE p = 2 ∧ (t.port p).anWait = false) ∧
    (∀ lanes, s.fget F.portStatus_STATE p = 3 →
      ∃ t, exec (.trainComplete p lanes) s = .next t ∧ t.fget F.portStatus_STATE p = 4 ∧ OnlyRegs [.txFfe, .laneStatus, .portStatus] s t) ∧
    (s.fget F.portStatus_STATE p = 3 → s.flag F.portCfg_AN p = true →
      ∃ t, exec (.trainTimeout p) s = .next t ∧ t.fget F.portStatus_STATE p = 2) ∧
    (s.fget F.portStatus_STATE p = 3 → s.flag F.portCfg_AN p = false →
      ∃ t, exec (.trainTimeout p) s = .next t ∧ t.fget F.portStatus_STATE p = 3) ∧
    (s.fget F.portStatus_STATE p = 3 → (s.port p).fromHist = true →
      ∃ t, exec (.histTrainTimeout p) s = .next t ∧ t.fget F.portStatus_STATE p = 3 ∧ t.flag F.portStatus_FIRST_TRAIN p = true ∧
        t.fget F.portStatus_RATE_RES p = s.fget F.portStatus_RATE_RES p) ∧
    (∀ idle, s.fget F.portStatus_STATE p = 4 → (s.fget F.portStatus_RATE_RES p ≠ 0 ∨ s.aligned p = true) →
      ∃ t, exec (.alignLock p idle) s = .next t ∧ t.fget F.portStatus_STATE p = 5 ∧ t.flag F.portStatus_LINK_UP p = true) ∧
    (s.fget F.portStatus_STATE p = 4 →
      ∃ t, exec (.alignTimeout p) s = .next t ∧ t.fget F.portStatus_STATE p = if s.flag F.portCfg_AN p then 2 else 3)

/-- From R36 and R56: PORT_ENABLE of a port with EN at 0 checks the configuration it writes, and the port takes the first state of the table
whose condition holds; CFG_CAUSE names the first cause of R36. -/
def Sys2Proof.Machine.Claims.PortEnableFirstRow : Prop :=
  ∀ (s : State) (p : PortIx) (v : Word), s.flag F.portCfg_EN p = false →
    let a := s.wr .portCfg ((v ||| 1#32) &&& 0xFFFFFF#32) p
    ∃ t, exec (.portEnable p v) s = .next t ∧ t.rd .portCfg p = (v ||| 1#32) &&& 0xFFFFFF#32 ∧
      (a.cfgCause p ≠ 0 → t.fget F.portStatus_STATE p = 9 ∧ t.fget F.portStatus_CFG_CAUSE p = a.cfgCause p) ∧
      (a.cfgCause p = 0 → (a.portLanes p).any a.laneOut = true → t.fget F.portStatus_STATE p = 8) ∧
      (a.cfgCause p = 0 → (a.portLanes p).any a.laneOut = false → a.cagesOf p = [] →
        t.fget F.portStatus_STATE p = if a.flag F.portCfg_AN p then 2 else 3)

/-- From R36: the causes in the order listed, and R37: EN going to 0. -/
def Sys2Proof.Machine.Claims.PortConfigurationCauses : Prop :=
  ∀ (s : State) (p : PortIx),
    (s.flag F.portCfg_EN p = true → ∃ t, exec (.portDisable p) s = .next t ∧ t.fget F.portStatus_STATE p = 0 ∧
      t.flag F.portCfg_EN p = false ∧ (∀ v, exec (.portEnable p v) s = .next s)) ∧
    (p.val % 2 ^ s.fget F.portCfg_WIDTH p ≠ 0 → s.cfgCause p = 1) ∧
    (∀ q : PortIx, p.val % 2 ^ s.fget F.portCfg_WIDTH p = 0 → q ≠ p → s.flag F.portCfg_EN q = true → s.fget F.portStatus_STATE q ≠ 9 →
      p.val < q.val + 2 ^ s.fget F.portCfg_WIDTH q → q.val < p.val + 2 ^ s.fget F.portCfg_WIDTH p → s.cfgCause p = 2) ∧
    (s.cfgCause p = 0 → s.flag F.portCfg_AN p = false →
      s.fget F.portCfg_RATE p < 6 ∧ familyOf (s.fget F.portCfg_RATE p) = s.groupFamily p ∧
        badPair (s.fget F.portCfg_RATE p) (s.fget F.portCfg_WIDTH p) = false) ∧
    (s.cfgCause p = 0 → s.flag F.portCfg_AN p = true → s.flag F.dawnStatus_HORIZON = false → s.anRates p ≠ [])

/-- From R56: TEST ends when every test function of the port is off. R77: a bit of TXGRP_CFG changes unless a port of its group has EN at 1. -/
def Sys2Proof.Machine.Claims.TestExitAndGroupFamily : Prop :=
  (∀ (s : State) (p : PortIx), s.fget F.portStatus_STATE p = 7 → (∀ l ∈ s.portLanes p, ∃ w, s.portOfLane l = some (p.val, w)) →
    ∃ t, exec (.testExit p) s = .next t ∧ (t.fget F.portStatus_STATE p = if s.flag F.portCfg_AN p then 2 else 3) ∧
      ∀ l ∈ s.portLanes p, t.testOn l = false) ∧
  ∀ (s : State) (c : ChipletIx) (v : Word) (g : Fin 8), ∃ t, exec (.txgrpCfgWrite c v) s = .next t ∧
    bitAt (t.fget F.txgrpCfg_FAMILY c) g =
      (if ∃ k : Fin 8, s.flag F.portCfg_EN (64 * c + 8 * g + k) = true then bitAt (s.fget F.txgrpCfg_FAMILY c) g else bitAt v.toNat g) ∧
    OnlyRegs [.txgrpCfg] s t

/-- What enabling and disabling a port, leaving TEST and writing FAMILY do. -/
def Obligations.PortsEnableAndDisable : Prop :=
  Claims.PortEnableFirstRow ∧ Claims.PortConfigurationCauses ∧ Claims.TestExitAndGroupFamily

/-- From R57: a link-down condition takes an UP port to AN, or to TRAIN when AN is 0, with its DOWN_CAUSE. -/
def Sys2Proof.Machine.Claims.LinkDownConditions : Prop :=
  ∀ (s : State) (l : LaneIx) (p w : Nat), s.portOfLane l = some (p, w) → s.fget F.portStatus_STATE p = 5 →
    (s.flag F.portStatus_RX_EI p = false → ∃ t, exec (.lossOfSignal l) s = .next t ∧ t.fget F.portStatus_DOWN_CAUSE p = 1 ∧
      t.fget F.portStatus_STATE p = if s.flag F.portCfg_AN p then 2 else 3) ∧
    (s.flag F.laneStatus_MARK_LOCK l = true → s.flag F.portStatus_RX_EI p = false → (s.lane l).missed = 2 → ∃ t, exec (.markerMiss l) s = .next t ∧
      t.fget F.portStatus_DOWN_CAUSE p = 2 ∧ t.flag F.laneStatus_MARK_LOCK l = false ∧
      t.fget F.portStatus_STATE p = if s.flag F.portCfg_AN p then 2 else 3) ∧
    (s.fget F.portStatus_RATE_RES p ≠ 0 → ∃ t, exec (.lossOfLock l) s = .next t ∧ t.fget F.portStatus_DOWN_CAUSE p = 2 ∧
      t.fget F.portStatus_STATE p = if s.flag F.portCfg_AN p then 2 else 3) ∧
    (s.flag F.portStatus_RX_EI p = true → exec (.markerMiss l) s = .next s) ∧
    (∀ n cws bad, s.fget F.portStatus_RATE_RES p ≠ 0 ∨ 5560 < (s.lane l).serSyms + n → ∃ t, exec (.hiSer l n cws bad) s = .next t ∧
      t.fget F.portStatus_DOWN_CAUSE p = 3 ∧ t.flag F.portStatus_HI_SER p = true ∧
      t.fget F.portStatus_STATE p = if s.flag F.portCfg_AN p then 2 else 3) ∧
    (∀ n cws bad, s.fget F.portStatus_RATE_RES p = 0 → (s.lane l).serSyms + n ≤ 5560 → ∃ t, exec (.hiSer l n cws bad) s = .next t ∧
      t.fget F.portStatus_STATE p = 5 ∧ (t.lane l).serSyms = 0 ∧ t.rdw .fecSymCorr p = s.rdw .fecSymCorr p + BitVec.ofNat 64 n)

/-- From R45 and R57: a lane locks on two markers 16,384 codewords apart with at most 6 differences, and the first two missed markers leave it
locked. -/
def Sys2Proof.Machine.Claims.MarkerLock : Prop :=
  ∀ (s : State) (l : LaneIx),
    (∀ diffs cw time ix w ei seq, diffs ≤ 6 → 16384 ≤ cw → (s.lane l).markAt = some (cw - 16384) →
      ∃ t, exec (.markerReceive l diffs cw time ix w ei false seq) s = .next t ∧ t.flag F.laneStatus_MARK_LOCK l = true ∧
        (t.lane l).laneIdx = ix ∧ (t.lane l).markSeq = seq.toNat ∧ (t.lane l).markTime = time ∧ OnlyRegs [.laneStatus] s t) ∧
    (∀ diffs cw time ix w ei wake seq, 6 < diffs → exec (.markerReceive l diffs cw time ix w ei wake seq) s = .next s) ∧
    (s.flag F.laneStatus_MARK_LOCK l = true → (∀ p w, s.portOfLane l = some (p, w) → s.flag F.portStatus_RX_EI p = false) → (s.lane l).missed < 2 →
      exec (.markerMiss l) s = .next (s.setLane l { s.lane l with missed := (s.lane l).missed + 1 }))

/-- What takes a link down, and how lanes lock on markers. -/
def Obligations.LinksGoDownAndLanesLock : Prop :=
  Claims.LinkDownConditions ∧ Claims.MarkerLock

/-- From R58 to R60: electrical idle and the deep state, and R57: received fault ordered sets leave the port UP. -/
def Obligations.LowPowerStates : Prop :=
  ∀ (s : State) (p : PortIx), s.fget F.portStatus_STATE p = 5 →
    (∀ idle, s.flag F.portLps_EI_EN p = true → s.eiAllowed p = true → s.flag F.portStatus_TX_EI p = false → s.portHasFrame p = false →
      ∃ t, exec (.eiHoldExpire p idle) s = .next t ∧ t.flag F.portStatus_TX_EI p = true ∧ t.fget F.portStatus_STATE p = 5 ∧
        OnlyRegs [.portStatus] s t ∧ ∀ l ∈ s.portLanes p, (t.lane l).line = .off ∧ (idle = 0 → (t.lane l).tx.ei = true)) ∧
    (∀ idle, s.flag F.portLps_EI_EN p = false ∨ s.portHasFrame p = true → exec (.eiHoldExpire p idle) s = .next s) ∧
    ((s.portLanes p).all (fun l => (s.lane l).announced) = true → ∃ t, exec (.rxEiEntry p) s = .next t ∧
      t.flag F.portStatus_RX_EI p = true ∧ t.fget F.portStatus_STATE p = 5 ∧ OnlyRegs [.portStatus, .laneStatus] s t) ∧
    (s.flag F.portStatus_TX_EI p = true → ∃ t, exec (.eiWake p) s = .next t ∧ t.flag F.portStatus_TX_EI p = false ∧
      t.fget F.portStatus_STATE p = 5 ∧ OnlyRegs [.portStatus] s t ∧ ∀ l ∈ s.portLanes p, (t.lane l).line = .data ∧ (t.lane l).tx.wake = true) ∧
    (s.flag F.portStatus_RX_EI p = true → ∃ t, exec (.wakeMarker p) s = .next t ∧ t.flag F.portStatus_RX_EI p = false ∧
      t.fget F.portStatus_STATE p = 5 ∧ OnlyRegs [.portStatus, .laneStatus] s t) ∧
    (s.flag F.portStatus_RX_EI p = true → ∃ t, exec (.wakeTimeout p) s = .next t ∧
      t.fget F.portStatus_STATE p = if s.flag F.portCfg_AN p then 2 else 3) ∧
    (s.deepAllowed p = true → (∃ t, exec (.deepEnter p) s = .next t ∧ t.fget F.portStatus_STATE p = 6 ∧ t.flag F.portStatus_LINK_UP p = false) ∧
      ∃ t, exec (.partnerDeepEntry p) s = .next t ∧ t.fget F.portStatus_STATE p = 6 ∧ t.flag F.portStatus_LINK_UP p = false) ∧
    (∀ k, exec (.faultOrderedSet p k) s = .next (s.setPort p { s.port p with faultRx := k })) ∧
    ∀ u : State, u.fget F.portStatus_STATE p = 6 →
      (∃ t, exec (.deepWake p) u = .next t ∧ t.fget F.portStatus_STATE p = 3 ∧ t.fget F.portStatus_RATE_RES p = u.fget F.portStatus_RATE_RES p) ∧
      ∃ t, exec (.deepSignalDetect p) u = .next t ∧ t.fget F.portStatus_STATE p = 3 ∧
        t.fget F.portStatus_RATE_RES p = u.fget F.portStatus_RATE_RES p

/-- From R55, R63 to R67: eye scan, adaptation, pattern generator and checker, and the way into and out of TEST. -/
def Obligations.LaneTestsAndScans : Prop :=
  ∀ (s : State) (l : LaneIx) (p w : Nat), s.portOfLane l = some (p, w) →
    (∀ v, ∃ t, exec (.eyeStart l v) s = .next t ∧ t.rd .eyeResult l = 0 ∧ (t.lane l).eyeRun = true) ∧
    (∀ n, (s.lane l).eyeRun = true → (s.fget F.portStatus_STATE p = 5 ∨ s.fget F.portStatus_STATE p = 7) →
      s.flag F.laneStatus_SIG_DET l = true → ∃ t, exec (.eyePointDone l n) s = .next t ∧ t.flag F.eyeResult_DONE l = true ∧
        t.fget F.eyeResult_STATUS l = 0 ∧ t.fget F.eyeResult_ERRORS l = min n 0x1FFFFFFF ∧ OnlyRegs [.eyeResult] s t) ∧
    (∀ n, (s.lane l).eyeRun = true → s.flag F.laneStatus_SIG_DET l = false → ∃ t, exec (.eyePointDone l n) s = .next t ∧
        t.flag F.eyeResult_DONE l = true ∧ t.fget F.eyeResult_STATUS l = 1 ∧ OnlyRegs [.eyeResult] s t) ∧
    (∀ loop gen, 2 ≤ s.fget F.portStatus_STATE p → s.fget F.portStatus_STATE p ≤ 5 → l.val ∈ s.portLanes p →
      ∃ t, exec (.loopbackEnable l loop gen true) s = .next t ∧ t.fget F.portStatus_STATE p = 7 ∧ t.flag F.portStatus_LINK_UP p = false) ∧
    (s.flag F.prbsCtl_GEN_EN l = true → s.fget F.prbsCtl_INJ_MODE l = 1 →
      exec (.prbsInject l) s = .next (s.setLane l { s.lane l with
        injDue := (s.lane l).injDue + 1, injected := (s.lane l).injected + 1 })) ∧
    (s.flag F.prbsCtl_GEN_EN l = true → s.fget F.prbsCtl_INJ_MODE l = 2 →
      exec (.prbsPeriodicInject l) s = .next (s.setLane l { s.lane l with
        injDue := (s.lane l).injDue + 1, injected := (s.lane l).injected + 1, genBits := 0 })) ∧
    (s.flag F.prbsCtl_CHK_EN l = false → ∀ rx, exec (.prbsCheckLock l rx) s = .next s ∧ exec (.prbsLockLost l rx) s = .next s) ∧
    (∀ b : Bool, s.flag F.prbsCtl_CHK_EN l = true → s.fget F.laneCtl_LOOP l = 0 → s.flag F.laneCtl_RX_POL l = false →
      (let c := (s.lane l).chk
       let taps := prbsTaps (s.fget F.prbsCtl_POLY l)
       let x := xor b (s.flag F.prbsCtl_INV l)
       (s.flag F.prbsStatus_CHK_LOCK l = false → taps.headD 7 ≤ c.hist.length → prbsPredict taps c.hist = x → 63 ≤ c.run →
         ∃ t, exec (.prbsCheckLock l [b]) s = .next t ∧ t.flag F.prbsStatus_CHK_LOCK l = true ∧ OnlyRegs [.prbsStatus] s t ∧ OnlyWide [] s t) ∧
       (s.flag F.prbsStatus_CHK_LOCK l = true → (prbsStep taps c.reg).1 ≠ x →
         (31 ≤ ((c.errs.take 63).filter id).length → ∃ t, exec (.prbsLockLost l [b]) s = .next t ∧ t.flag F.prbsStatus_CHK_LOCK l = false ∧
           t.flag F.prbsStatus_LOCK_LOST l = true ∧ (t.rdw .prbsErr l).toNat = min ((s.rdw .prbsErr l).toNat + 1) (2 ^ 64 - 1) ∧
           OnlyRegs [.prbsStatus] s t ∧ OnlyWide [.prbsErr] s t) ∧
         (((c.errs.take 63).filter id).length < 31 → ∃ t, exec (.prbsLockLost l [b]) s = .next t ∧ t.flag F.prbsStatus_CHK_LOCK l = true ∧
           (t.rdw .prbsErr l).toNat = min ((s.rdw .prbsErr l).toNat + 1) (2 ^ 64 - 1))))) ∧
    (∀ (k : Fin 25) up, s.fget F.portStatus_STATE p = 5 → s.flag F.adaptCtl_FREEZE l = false → s.flag F.portStatus_RX_EI p = false →
      ∃ t, exec (.adaptationUpdate l k up) s = .next t ∧
        (k.val = 0 → (t.lane l).ctle = ((s.lane l).ctle + if up then 1 else -1 : Int).toNat ∧ (t.lane l).taps = (s.lane l).taps) ∧
        (k.val ≠ 0 → k.val ≤ (s.lane l).taps.length →
          (t.lane l).taps.getD (k.val - 1) 0 = (s.lane l).taps.getD (k.val - 1) 0 + if up then 1 else -1)) ∧
    (∀ k up, s.flag F.adaptCtl_FREEZE l = true → exec (.adaptationUpdate l k up) s = .next s)

/-- From R70 to R72: the bring-up of an inserted module and its removal. -/
def Sys2Proof.Machine.Claims.CageBringUp : Prop :=
  ∀ (s : State) (k : CageIx), s.flag F.cageCfg_VALID k = true →
    (∃ t, exec (.cagePrsFall k) s = .next t ∧ (t.cage k).debouncing = true ∧ t.fget F.cageStatus_MSTATE k = 1) ∧
    ((s.cage k).debouncing = true → s.flag F.cageCfg_AUTO k = true → ∃ t, exec (.cageDebounceDone k) s = .next t ∧
      t.flag F.cageStatus_PRESENT k = true ∧ t.fget F.cageStatus_MSTATE k = 2 ∧ (t.cage k).lpm = true ∧ (t.cage k).rstN = false) ∧
    (s.flag F.cageCfg_AUTO k = true → s.fget F.cageStatus_MSTATE k = 2 → ∃ t, exec (.cageResetRelease k) s = .next t ∧
      (t.cage k).rstN = true ∧ t.fget F.cageStatus_MSTATE k = 3) ∧
    (∀ ident apps power, s.flag F.cageCfg_AUTO k = true → s.fget F.cageStatus_MSTATE k = 3 → s.cagePorts k = [] →
      (let m := s.fget F.cageCfg_MASTER k
       s.flag F.modAccStatus_BUSY m = false → (s.i2cOf m).own = [] →
         (power ≤ s.fget F.cageCfg_PWR_MAX k → ∃ t, exec (.modReadyPoll k true ident apps power) s = .next t ∧
           t.fget F.cageStatus_MSTATE k = 4 ∧ (t.cage k).activating = true ∧ (t.cage k).lpm = false ∧ (t.cage k).apps = apps) ∧
         (s.fget F.cageCfg_PWR_MAX k < power → ∃ t, exec (.modReadyPoll k true ident apps power) s = .next t ∧
           t.fget F.cageStatus_MSTATE k = 6))) ∧
    (s.fget F.cageStatus_MSTATE k = 3 → ∃ t, exec (.modReadyTimeout k) s = .next t ∧ t.fget F.cageStatus_MSTATE k = 7) ∧
    ((s.cage k).activating = true → ∃ t, exec (.moduleDataPathActive k) s = .next t ∧ t.fget F.cageStatus_MSTATE k = 5 ∧
      (t.cage k).activating = false) ∧
    (∀ sda, ∃ t, exec (.cagePrsRise k sda) s = .next t ∧ t.rd .cageStatus k = 0 ∧ t.cage k = {} ∧
      ∀ l ∈ s.cageLanes k, t.flag F.laneCtl_HIST_VALID l = false) ∧
    (∀ flags, s.flag F.cageCfg_AUTO k = false → ∃ t, exec (.cageIntFall k flags) s = .next t ∧ t.flag F.cageStatus_INT k = true ∧
      OnlyRegs [.cageStatus] s t)

/-- From R73 and R94: the mailbox; R74: the LED stream. -/
def Sys2Proof.Machine.Claims.MailboxAndLedStream : Prop :=
  ∀ (s : State) (m : Fin 4), s.flag F.modAccStatus_BUSY m = false →
    (∀ (v : Word), s.flag F.cageStatus_PRESENT (bits v.toNat 6 0) = true → ∃ t, exec (.mailboxRead m v) s = .next t ∧
      t.flag F.modAccStatus_BUSY m = true ∧ (t.i2cOf m).write = false ∧ (t.i2cOf m).cage = bits v.toNat 6 0 ∧
      (t.i2cOf m).page = bits v.toNat 15 8 ∧ (t.i2cOf m).offset = bits v.toNat 23 16 ∧
      (t.i2cOf m).len = min (bits v.toNat 30 24 + 1) (256 - bits v.toNat 23 16)) ∧
    (∀ (v : Word), s.flag F.cageStatus_PRESENT (bits v.toNat 6 0) = true → s.flag F.cageCfg_AUTO (bits v.toNat 6 0) = false →
      ∃ t, exec (.mailboxWrite m v) s = .next t ∧ t.flag F.modAccStatus_BUSY m = true ∧ (t.i2cOf m).write = true) ∧
    (∀ (v : Word), s.flag F.cageStatus_PRESENT (bits v.toNat 6 0) = true → s.flag F.cageCfg_AUTO (bits v.toNat 6 0) = true →
      bits v.toNat 15 8 = 0x10 → ∃ t, exec (.mailboxWrite m v) s = .next t ∧ t.fget F.modAccStatus_RESULT m = 3 ∧
        t.flag F.modAccStatus_BUSY m = false ∧ t.link.modMem = s.link.modMem) ∧
    (∀ (v : Word), s.flag F.cageStatus_PRESENT (bits v.toNat 6 0) = false → ∃ t, exec (.mailboxRead m v) s = .next t ∧
      t.fget F.modAccStatus_RESULT m = 1 ∧ t.flag F.modAccStatus_BUSY m = false) ∧
    (∀ (u : State) (r : Fin 6) data pin, u.flag F.modAccStatus_BUSY m = true → ∃ t, exec (.mailboxDone m r data pin) u = .next t ∧
      t.flag F.modAccStatus_BUSY m = false ∧ t.fget F.modAccStatus_RESULT m = r) ∧
    (∀ blink, s.flag F.ledCfg_EN = true → ∃ t, exec (.ledFrame blink) s = .next t ∧
      t.link.led = s.ledFrame blink ∧ t.link.latches = s.link.latches + 1)

/-- Cages, module mailboxes and the LED stream. -/
def Obligations.FrontPanelCommands : Prop :=
  Claims.CageBringUp ∧ Claims.MailboxAndLedStream

/-! ### Parsing, classification and policers -/

/-- From R97, R110 and R111: the parser takes the oldest whole-windowed frame of a port; the packet carries the tile's sequence number and table
version, and counts as in flight for that version's parity. -/
def Sys2Proof.Machine.Claims.ParserTakesPacket : Prop :=
  ∀ (s : State) (ti : TileIx) (p : PortIx) (fid : Nat), (s.pipe ti).stopped = false → s.tileOn ti = true → (s.pipe ti).pkts.length < 512 →
    s.parseNext ti p = some fid →
    ∃ t k, exec (.parseStart ti p) s = .next t ∧ t.pkt ti fid = some k ∧ k.seq = (s.pipe ti).nextSeq ∧
      k.version = s.fget F.ttVersion_VERSION ti ∧ k.iport = p ∧ k.restarts = 0 ∧ (t.pipe ti).nextSeq = ((s.pipe ti).nextSeq + 1) % 2 ^ 32 ∧
      (t.frame ti fid).parsed = true ∧ t.inflight ti (k.version % 2) = (s.inflight ti (k.version % 2) + 1) % 2048

/-- From R116, R129 to R131: where a classified packet goes: it waits for its last beat when its port meters and its length is not known; else a
reason of R117 sends it to the exception path, and a packet without one is held for dispatch or dispatched. -/
def Sys2Proof.Machine.Claims.ClassifierSendsPacket : Prop :=
  ∀ (s : State) (ti : TileIx) (fid : Nat) (k : Pkt) (reason : Option Nat) (known : Bool) (len : Nat), s.hz = false →
    (s.flag F.portCls_POL_EN k.iport = true → known = false →
      ((s.classifyEnd ti fid k reason known len).pkt ti fid).map (fun x => x.stage) = some .waitLast) ∧
    (∀ r, reason = some r → s.flag F.portCls_POL_EN k.iport = false →
      ((s.classifyEnd ti fid k reason known len).pkt ti fid).bind (fun x => x.disp) = some (.exc r)) ∧
    (reason = none → s.flag F.portCls_POL_EN k.iport = false →
      ((s.classifyEnd ti fid k reason known len).pkt ti fid).map (fun x => x.stage) =
        some (if (s.pipe ti).stopped = true ∨ s.regionHeld (phvEntry k.phv) = true ∨ s.nextPipe ti = none then .held else .running))

/-- From R122: a write of a word of an entry other than its last one is held and shows in no register; the write of the last word makes the
entry take effect whole, with the held words. R99: base states are read-only. -/
def Sys2Proof.Machine.Claims.MultiWordEntries : Prop :=
  ∀ (s : State) (ti : TileIx),
    (∀ (tab : Fin 5) (e : Fin 256) (w : Fin 8) (v : Word), ∃ t, exec (.entryWordWrite ti tab e w v) s = .next t ∧ OnlyRegs [] s t ∧ OnlyWide [] s t) ∧
    (s.tileOn ti = false → ∀ (tab : Fin 5) (b : Fin 2) (e : Fin 256) (p : Fin 128) (w : Fin 8) (v : Word), exec (.entryWordWrite ti tab e w v) s = .next s ∧
      exec (.parserTcamCommit ti b e v) s = .next s ∧ exec (.ptypeEntryCommit ti b p v) s = .next s ∧ exec (.stateEntryCommit ti e v) s = .next s) ∧
    (∀ (b : Fin 2) (e : Fin 256) (v : Word), s.tileOn ti = true → ∃ t, exec (.parserTcamCommit ti b e v) s = .next t ∧
      t.rd (custReg b) ti (8 * e + 7) = v &&& 1#32 ∧
      (∀ k, k < 7 → t.rd (custReg b) ti (8 * e + k) = match tget (s.pipe ti).held (regKey (custReg b) ti (8 * e + k)) none with
        | some x => x &&& tcamMask k
        | none => s.rd (custReg b) ti (8 * e + k)) ∧
      OnlyRegs [custReg b] s t ∧
      (∀ (e2 : Fin 256) k, e2 ≠ e → k < 8 → t.rd (custReg b) ti (8 * e2 + k) = s.rd (custReg b) ti (8 * e2 + k))) ∧
    (∀ (b : Fin 2) (e : Fin 128) (v : Word), s.tileOn ti = true → ∃ t, exec (.ptypeEntryCommit ti b e v) s = .next t ∧
      t.rd (ptypeReg b) ti (4 * e + 3) = v &&& 0x3FFFF#32 ∧
      (∀ k, k < 3 → t.rd (ptypeReg b) ti (4 * e + k) = match tget (s.pipe ti).held (regKey (ptypeReg b) ti (4 * e + k)) none with
        | some x => x
        | none => s.rd (ptypeReg b) ti (4 * e + k)) ∧
      OnlyRegs [ptypeReg b] s t) ∧
    (∀ (e : Fin 256) (v : Word), s.tileOn ti = true → 192 ≤ e.val → e.val < 255 → ∃ t, exec (.stateEntryCommit ti e v) s = .next t ∧ t.rd .stateTab ti (8 * e + 7) = 0 ∧
      (∀ k, k < 7 → t.rd .stateTab ti (8 * e + k) = match tget (s.pipe ti).held (regKey .stateTab ti (8 * e + k)) none with
        | some x => x &&& stateMask k
        | none => s.rd .stateTab ti (8 * e + k)) ∧
      OnlyRegs [.stateTab] s t) ∧
    (∀ (e : Fin 256) (v : Word), (e.val < 192 ∨ e.val = 255) → exec (.stateEntryCommit ti e v) s = .next s)

/-- How packets enter the parser and leave the classifier, and how multi-word entries take effect. -/
def Obligations.ParserAndClassifier : Prop :=
  Claims.ParserTakesPacket ∧ Claims.ClassifierSendsPacket ∧ Claims.MultiWordEntries

/-- From R132, R143 and R144: policer access: a written configuration leaves both buckets full, a read returns it, and an operation is ignored
while BUSY. -/
def Sys2Proof.Machine.Claims.PolicerAccess : Prop :=
  ∀ (s : State) (ti : TileIx),
    (s.tileOn ti = true → s.flag F.polStatus_BUSY ti = false → ∃ t, exec (.policerWriteConfig ti) s = .next t ∧ t.flag F.polStatus_BUSY ti = true ∧
      (t.policer ti (s.fget F.polIdx_IDX ti)).mode = (if bits (s.rd .polData ti 0).toNat 23 22 = 3 then 0 else bits (s.rd .polData ti 0).toNat 23 22) ∧
      (t.policer ti (s.fget F.polIdx_IDX ti)).tc = (t.policer ti (s.fget F.polIdx_IDX ti)).cbs * 2 ^ 32 ∧
      (t.policer ti (s.fget F.polIdx_IDX ti)).tp = (t.policer ti (s.fget F.polIdx_IDX ti)).pbs * 2 ^ 32 ∧
      (∀ k, k ≠ s.fget F.polIdx_IDX ti → t.policer ti k = s.policer ti k) ∧ OnlyRegs [.polStatus] s t ∧
      ∃ u v, exec (.policerCmdDone ti) t = .next u ∧ exec (.policerReadConfig ti) u = .next v ∧
        v.rd .polData ti 0 = s.rd .polData ti 0 &&& 0x3FFFFFF#32 ∧ v.rd .polData ti 1 = s.rd .polData ti 1 &&& 0x3FFFFF#32 ∧
        v.rd .polData ti 2 = s.rd .polData ti 2 &&& 0xFFFFFF#32 ∧ v.rd .polData ti 3 = s.rd .polData ti 3 &&& 0xFFFFFF#32) ∧
    (s.tileOn ti = true → s.flag F.polStatus_BUSY ti = false → ∃ t, exec (.policerReadBucket ti) s = .next t ∧ t.flag F.polStatus_BUSY ti = true ∧
      t.rd .polData ti 0 = BitVec.ofNat 32 ((s.policerNow ti (s.fget F.polIdx_IDX ti)).tc / 2 ^ 32) ∧
      t.rd .polData ti 1 = BitVec.ofNat 32 ((s.policerNow ti (s.fget F.polIdx_IDX ti)).tp / 2 ^ 32) ∧
      t.rd .polData ti 2 = 0 ∧ t.rd .polData ti 3 = 0 ∧ OnlyRegs [.polStatus, .polData] s t) ∧
    (s.flag F.polStatus_BUSY ti = true ∨ s.tileOn ti = false → exec (.policerWriteConfig ti) s = .next s ∧ exec (.policerReadConfig ti) s = .next s ∧
      exec (.policerReadBucket ti) s = .next s) ∧
    ∃ t, exec (.policerCmdDone ti) s = .next t ∧ t.flag F.polStatus_BUSY ti = false ∧ OnlyRegs [.polStatus] s t

/-- R315 and R316 (rows of mode 1): an RFC 2698 policer of input colour green marks a frame red when Tp is short of it, else yellow when Tc is,
else green; red deducts nothing, yellow from Tp only, green from both. -/
def Sys2Proof.Machine.Claims.TwoRatePolicerColours : Prop :=
  ∀ (v : Policer) (len : Nat), v.mode = 1 →
    (v.tp < len * 2 ^ 32 → v.colour 0 len = (2, v)) ∧
    (len * 2 ^ 32 ≤ v.tp → v.tc < len * 2 ^ 32 → (v.colour 0 len).1 = 1 ∧ (v.colour 0 len).2.tp + len * 2 ^ 32 = v.tp ∧ (v.colour 0 len).2.tc = v.tc) ∧
    (len * 2 ^ 32 ≤ v.tp → len * 2 ^ 32 ≤ v.tc → (v.colour 0 len).1 = 0 ∧ (v.colour 0 len).2.tp + len * 2 ^ 32 = v.tp ∧
      (v.colour 0 len).2.tc + len * 2 ^ 32 = v.tc)

/-- Policer access and two-rate colouring. -/
def Obligations.PolicersAndColours : Prop :=
  Claims.PolicerAccess ∧ Claims.TwoRatePolicerColours

/-! ### Cirrus -/

/-- A thread that runs, with no table result on its way, whose next word has no error, in a pipe and a region that nothing holds
(R145, R157, R171, R174, R178). -/
def Sys2Proof.Machine.Runs (s : State) (ti fid : Nat) (k : Pkt) : Prop :=
  s.hz = false ∧ s.pkt ti fid = some k ∧ k.stage = .running ∧ k.thread.reenter = false ∧ k.thread.ops = [] ∧
    tget (s.pipe ti).csErr (k.thread.pc % 32768) 0 = 0 ∧ s.pipeHeld ti k.thread.pipe = false ∧ s.inReload k = false

/-- From R154: the arithmetic of the ALU operations into a destination of `w` bits, from the operands' numbers. -/
def Sys2Proof.Machine.Claims.AluArithmetic : Prop :=
  ∀ (a b w : Nat) (c : Bool), a < 2 ^ 64 → b < 2 ^ 64 → w ≤ 64 →
    BitVec.ofNat w (aluOp 2 a b w c).1 = BitVec.ofNat w a + BitVec.ofNat w b ∧
    BitVec.ofNat w (aluOp 3 a b w c).1 = BitVec.ofNat w a - BitVec.ofNat w b ∧ (aluOp 3 a b w c).2 = some (decide (a < b)) ∧
    BitVec.ofNat w (aluOp 7 a b w c).1 = BitVec.ofNat w a <<< (b % 64) ∧
    ((aluOp 13 a b w c).1 ≤ 65535 ∧ (aluOp 13 a b w c).1 % 65535 = (a % 65536 + b % 65536) % 65535) ∧
    ((aluOp 9 a b w c).1 = 1 ↔ a = b) ∧ ((aluOp 10 a b w c).1 = 1 ↔ a < b) ∧ (aluOp 14 a b w c) = (if c then a else b, none)

/-- From R150 to R152: the sequencer: where a word that names no failure leads, in one region of the control store. -/
def Sys2Proof.Machine.Claims.SequencerNextAddress : Prop :=
  ∀ (s : State) (a w : Nat) (k : Pkt),
    (∀ x, bits w 31 30 = 0 → bitAt w 32 = false → bits w 14 0 = x → inCust x = inCust a → s.sequence a w k = .ok (x, k.thread.stack)) ∧
    (∀ x y, bits w 31 30 = 0 → bitAt w 32 = true → bits w 14 0 = x → bits w 29 15 = y → inCust x = inCust a → inCust y = inCust a →
      s.sequence a w k = if 8 ≤ k.thread.stack.length then .error 0x0208 else .ok (x, y :: k.thread.stack)) ∧
    (∀ x, bits w 31 30 = 1 → bits w 38 33 = 63 → bitAt w 39 = false → bits w 29 15 = x → inCust x = inCust a →
      s.sequence a w k = .ok (x, k.thread.stack)) ∧
    (∀ x c, bits w 31 30 = 1 → bits w 38 33 = c → c < 16 → k.thread.ops = [] → k.thread.mf.getLsbD c = bitAt w 39 → bits w 14 0 = x →
      inCust x = inCust a → s.sequence a w k = .ok (x, k.thread.stack)) ∧
    (bits w 31 30 = 3 → s.sequence a w k = match k.thread.stack with
      | x :: r => .ok (x, r)
      | [] => .error 0x0208) ∧
    (inCust a = true → bits w 31 30 = 0 → bitAt w 32 = false → inCust (bits w 14 0) = false →
      s.sequence a w k = if s.isCallable (bits w 14 0) = true then .ok (bits w 14 0, k.thread.stack) else .error 0x020A) ∧
    (inCust a = false → bits w 31 30 = 0 → bitAt w 32 = false → inCust (bits w 14 0) = true → s.sequence a w k = .error 0x020A)

/-- From R145, R150, R155 and R163: a word without COMMIT, END or a failure of its own moves the thread one stage on to the sequencer's address,
adds its effect to the log, leaves bytes 0 to 63 of the PHV, and changes nothing outside the thread but violation reports. -/
def Sys2Proof.Machine.Claims.MicrowordStep : Prop :=
  ∀ (s : State) (ti : TileIx) (fid : Nat) (k : Pkt) (pc : Nat) (st : List Nat), Runs s ti fid k → k.thread.committed = false →
    k.thread.stage < 23 → k.thread.phv.length = 512 →
    (let w := (s.csWord (k.thread.pc % 32768)).toNat
     bitAt w 44 = false → bitAt w 45 = false → s.wordFails (k.thread.pc % 32768) w k = none →
     s.sequence (k.thread.pc % 32768) w k = .ok (pc, st) →
     ∃ t k2, exec (.microwordExecute ti fid 0) s = .next t ∧ t.pkt ti fid = some k2 ∧ k2.stage = .running ∧ k2.thread.pc = pc ∧
       k2.thread.stack = st ∧ k2.thread.stage = k.thread.stage + 1 ∧ k2.thread.committed = false ∧
       k2.thread.log.length = k.thread.log.length + (if bits (effField w) 3 0 = 0 then 0 else 1) ∧
       k2.thread.phv.take 64 = k.thread.phv.take 64 ∧ k2.thread.phv.length = 512 ∧ k2.phv = k.phv ∧ k2.disp = k.disp ∧
       t.te = s.te ∧ t.tm = s.tm ∧ t.halo = s.halo ∧ (t.pipe ti).policers = (s.pipe ti).policers)

/-- From R167, R173, R176, R178 and R585: a failure before commit sends the packet to the exception path with its reason at once, even in a word
with COMMIT set, and nothing of its log applies. -/
def Sys2Proof.Machine.Claims.MicrowordFailure : Prop :=
  ∀ (s : State) (ti : TileIx) (fid : Nat) (k : Pkt), Runs s ti fid k → k.thread.committed = false →
    (let w := (s.csWord (k.thread.pc % 32768)).toNat
     (∀ r, s.wordFails (k.thread.pc % 32768) w k = some r → ∃ t k2, exec (.microwordExecute ti fid 0) s = .next t ∧
       t.pkt ti fid = some k2 ∧ k2.stage = .ready ∧ k2.disp = some (.exc r) ∧ k2.log = [] ∧ t.te = s.te ∧ t.tm = s.tm ∧
       (t.pipe ti).policers = (s.pipe ti).policers) ∧
     (bitAt w 46 = true → s.wordFails (k.thread.pc % 32768) w k = some (0x0300 + bits w 55 48)) ∧
     (bitAt w 46 = false → 11 ≤ bits (effField w) 3 0 → s.wordFails (k.thread.pc % 32768) w k = some 0x020B)) ∧
    ∃ t k2, exec (.microwordExecute ti fid 2) s = .next t ∧ t.pkt ti fid = some k2 ∧ k2.stage = .ready ∧ k2.disp = some (.exc 0x020E) ∧
      k2.log = [] ∧ t.te = s.te ∧ t.tm = s.tm

/-- From R164 and R165: a word with END and no effect, in a thread that has not committed, commits it: the last disposition in the log is the
packet's, and a log without one sends it to the exception path with EXC_NO_DISPOSITION. -/
def Sys2Proof.Machine.Claims.CommitDisposition : Prop :=
  ∀ (s : State) (ti : TileIx) (fid : Nat) (k : Pkt), Runs s ti fid k → k.thread.committed = false →
    (let w := (s.csWord (k.thread.pc % 32768)).toNat
     bitAt w 45 = true → bits (effField w) 3 0 = 0 → s.wordFails (k.thread.pc % 32768) w k = none →
     k.thread.log.any (fun e => decide (e.op = 6) || decide (e.op = 7)) = false →
     ∃ t k2, exec (.microwordExecute ti fid 0) s = .next t ∧ t.pkt ti fid = some k2 ∧ k2.stage = .ready ∧ k2.log = k.thread.log ∧
       k2.disp = some (((k.thread.log.filterMap effDisp).getLast?).getD (.exc 0x020C)) ∧
       (k.thread.log.all (fun e => decide (e.op ≠ 8) && decide (e.op ≠ 9)) = true → t.te = s.te ∧ t.tm = s.tm))

/-- How a microword executes: ALU, sequencer, failure and commit. -/
def Obligations.MicrowordExecution : Prop :=
  Claims.AluArithmetic ∧ Claims.SequencerNextAddress ∧ Claims.MicrowordStep ∧ Claims.MicrowordFailure ∧ Claims.CommitDisposition

/-- From R157, R171 to R173, R184, R148, R162 and R166: table results, abandon and restart, recirculation, and a log that waits for the last
beat. -/
def Obligations.ThreadEvents : Prop :=
  ∀ (s : State) (ti : TileIx) (fid : Nat) (k : Pkt) (o : TblOp) (ops : List TblOp), s.pkt ti fid = some k →
    (k.thread.ops = o :: ops → (∀ w ∈ s.readWords ti k o, s.wordBad ti w.1 w.2 = false) → ∃ t k2, exec (.tableResultArrival ti fid 0) s = .next t ∧ t.pkt ti fid = some k2 ∧ k2.thread.ops = ops ∧
      k2.stage = k.stage ∧ k2.seq = k.seq) ∧
    (k.thread.ops = o :: ops → k.stage = .running → k.thread.committed = false → k.restarts < 3 → ∃ t k2,
      exec (.tableResultArrival ti fid 1) s = .next t ∧ t.pkt ti fid = some k2 ∧ k2.stage = .restart 1 ∧ k2.restarts = k.restarts + 1 ∧
      k2.seq = k.seq ∧ k2.version = k.version ∧ k2.phv = k.phv ∧ k2.thread.log = [] ∧ k2.thread.ops = []) ∧
    (k.thread.ops = o :: ops → k.stage = .running → k.thread.committed = false → 3 ≤ k.restarts → ∃ t k2,
      exec (.tableResultArrival ti fid 1) s = .next t ∧ t.pkt ti fid = some k2 ∧ k2.stage = .ready ∧ k2.disp = some (.exc 0x0201)) ∧
    (k.thread.ops = o :: ops → k.thread.committed = true → o.mf < 16 → ∃ t k2, exec (.tableResultArrival ti fid 1) s = .next t ∧
      t.pkt ti fid = some k2 ∧ k2.stage = k.stage ∧ k2.thread.mf.getLsbD o.mf = false ∧ k2.thread.committed = true) ∧
    (∀ why, k.stage = .restart why → (why = 3 → s.cirrus.act = none) → (s.pipe ti).stopped = false → s.regionHeld (phvEntry k.phv) = false →
      (s.isEntry (phvEntry k.phv) = true → ∃ t k2, exec (.threadRestart ti fid) s = .next t ∧ t.pkt ti fid = some k2 ∧ k2.stage = .running ∧
        k2.thread.pc = phvEntry k.phv ∧ k2.thread.phv = k.phv.take 448 ++ List.replicate 64 0 ∧ k2.thread.mf = 0 ∧ k2.thread.fz = 0 ∧
        k2.thread.fc = 0 ∧ k2.thread.stack = [] ∧ k2.thread.log = [] ∧ k2.thread.pass = 1 ∧ k2.thread.committed = false ∧
        k2.restarts = k.restarts ∧ OnlyRegs [] s t) ∧
      (s.hz = false → s.isEntry (phvEntry k.phv) = false → ∃ t k2, exec (.threadRestart ti fid) s = .next t ∧ t.pkt ti fid = some k2 ∧
        k2.stage = .ready ∧ k2.disp = some (.exc 0x020D))) ∧
    (k.thread.reenter = true → k.thread.committed = true ∨ s.pipeHeld ti k.thread.pipe = false → ∃ t k2, exec (.threadReentry ti fid) s = .next t ∧ t.pkt ti fid = some k2 ∧ k2.thread.reenter = false ∧
      k2.thread.stage = 0 ∧ k2.thread.pass = 2 ∧ k2.thread.pc = k.thread.pc ∧ k2.thread.stack = k.thread.stack ∧ k2.thread.phv = k.thread.phv ∧
      k2.thread.log = k.thread.log ∧ k2.thread.mf = k.thread.mf ∧ OnlyRegs [] s t) ∧
    (k.pend = true → (s.frame ti fid).done = true → ∃ t k2, exec (.deferredLogApply ti fid) s = .next t ∧ t.pkt ti fid = some k2 ∧
      k2.pend = false ∧ k2.disp.isSome = true)

/-- From R175: the punt unit takes the head packet of a reason class: it is dropped and counted when the class is off or its ring is not an
ACTIVE packet receive ring, and leaves the queue when the ring takes it. -/
def Sys2Proof.Machine.Claims.ExceptionDelivery : Prop :=
  ∀ (s : State) (ti : TileIx) (c : Fin 4) (x : ExcItem), (s.pipe ti).exc.find? (fun y => decide (y.cls = c.val)) = some x →
    (s.frame ti x.fid).dead = none →
    ((s.flag F.excRing_EN ti c = false ∨ s.ringState (s.fget F.excRing_RING ti c) ≠ 1) → ∃ t, exec (.excQueueDeliver ti c) s = .next t ∧
      t.rdw .cntExcDrop ti = s.rdw .cntExcDrop ti + 1#64 ∧ (∀ y ∈ (t.pipe ti).exc, y.fid ≠ x.fid) ∧ t.host.mem = s.host.mem) ∧
    (s.flag F.excRing_EN ti c = true → s.ringState (s.fget F.excRing_RING ti c) = 1 → s.ringTypeOf (s.fget F.excRing_RING ti c) = 2 →
      (s.frame ti x.fid).done = false → exec (.excQueueDeliver ti c) s = .next s) ∧
    (s.flag F.excRing_EN ti c = true → s.ringState (s.fget F.excRing_RING ti c) = 1 → s.ringTypeOf (s.fget F.excRing_RING ti c) = 2 →
      (s.frame ti x.fid).done = true →
      (s.takeEntry (s.fget F.excRing_RING ti c) = (none, s) → exec (.excQueueDeliver ti c) s = .next s) ∧
      ((s.rxWrite (s.fget F.excRing_RING ti c) (s.excRx ti x)).1 = true → ∃ t, exec (.excQueueDeliver ti c) s = .next t ∧
        (t.pipe ti).exc = dropExc (s.pipe ti).exc c))

/-- From R17, R18 and R164: the reorder stage releases the oldest packet of a port once it is ready, and delivers it under its disposition. -/
def Sys2Proof.Machine.Claims.ReorderRelease : Prop :=
  ∀ (s : State) (t : TileIx) (p : PortIx),
    (s.oldestPkt t p = none → exec (.reorderRelease t p) s = .next s) ∧
    ∀ (fid : Nat) (k : Pkt), s.oldestPkt t p = some (fid, k) →
      (k.stage ≠ .ready → exec (.reorderRelease t p) s = .next s) ∧
      (k.stage = .ready → ∃ u, exec (.reorderRelease t p) s = .next u ∧ u.pkt t fid = none ∧
        (∀ fid', fid' ≠ fid → u.pkt t fid' = s.pkt t fid') ∧
        (∀ code, k.disp = some (.drop code) → 0x0600 ≤ code → (s.frame t fid).dead = none →
          u.rdw .dropUcode t = s.rdw .dropUcode t + 1#64))

/-- Release from the reorder stage and delivery of exceptions. -/
def Obligations.ReleaseAndExceptions : Prop :=
  Claims.ExceptionDelivery ∧ Claims.ReorderRelease

/-- From R180 and R183: loads and refusals of the image commands. -/
def Sys2Proof.Machine.Claims.ImageCommands : Prop :=
  ∀ (s : State),
    ((s.flag F.imgStatus_BUSY = true ∨ s.hz = true) →
      (∀ (f : FnIx) v d ok, s.hasRight f 2 = true → exec (.imgLoad f v d ok) s = .next (s.fset F.imgStatus_RESULT 5)) ∧
      (∀ v, exec (.imgActivate v) s = .next (s.fset F.imgStatus_RESULT 5)) ∧ ∀ v, exec (.imgDeactivate v) s = .next (s.fset F.imgStatus_RESULT 5)) ∧
    (s.flag F.imgStatus_ARMED = true → (∀ v, exec (.imgActivate v) s = .next (s.fset F.imgStatus_RESULT 5)) ∧
      (∀ v, exec (.imgDeactivate v) s = .next (s.fset F.imgStatus_RESULT 5)) ∧
      ∃ t, exec .imgCancel s = .next t ∧ t.flag F.imgStatus_ARMED = false ∧ t.cirrus = s.cirrus ∧ OnlyRegs [.imgStatus] s t) ∧
    (∀ (f : FnIx) v d ok, s.hasRight f 2 = false → s.flag F.fnStatus_FROZEN f = false → ∃ t, exec (.imgLoad f v d ok) s = .next t ∧
      t.flag F.fnStatus_FROZEN f = true ∧ t.fget F.fnStatus_KIND f = 1 ∧ t.cirrus = s.cirrus) ∧
    (∀ (f : FnIx) v d ok, s.hasRight f 2 = true → s.flag F.imgStatus_BUSY = false → s.flag F.imgStatus_ARMED = false → s.hz = false →
      ((s.rd .imgLen).toNat = 0 ∨ 0x400000 < (s.rd .imgLen).toNat ∨ s.hostOk f (s.rdw .imgSrc).toNat (s.rd .imgLen).toNat false = true) →
      ∃ t, exec (.imgLoad f v d ok) s = .next t ∧ t.flag F.imgStatus_BUSY = true ∧ t.cirrus.load.isSome = true ∧
        t.cirrus.stagedBase = s.cirrus.stagedBase ∧ t.cirrus.stagedCust = s.cirrus.stagedCust ∧ t.rd .imgCtl = v &&& 0xC#32 ∧
        OnlyRegs [.imgCtl, .imgStatus] s t) ∧
    (∀ (f : FnIx) v d ok, s.hasRight f 2 = true → s.flag F.imgStatus_BUSY = false → s.hz = false → s.cirrus.act = none →
      (let len := (s.rd .imgLen).toNat
       let src := (s.rdw .imgSrc).toNat
       let staged (t : State) : Prop := t.cirrus.stagedBase = s.cirrus.stagedBase ∧ t.cirrus.stagedCust = s.cirrus.stagedCust
       let ends (result : Nat) : Prop := ∃ t u, exec (.imgLoad f v d ok) s = .next t ∧ t.flag F.imgStatus_BUSY = true ∧ staged t ∧
         t.rd .imgCtl = v &&& 0xC#32 ∧ OnlyRegs [.imgCtl, .imgStatus] s t ∧ exec .imgLoadDone t = .next u ∧ u.flag F.imgStatus_BUSY = false ∧
         u.fget F.imgStatus_RESULT = result ∧ (result ≠ 0 → staged u)
       (len = 0 ∨ 0x400000 < len → ends 3) ∧
       (0 < len → len ≤ 0x400000 → s.hostOk f src len false = true → ok = false → ends 4) ∧
       (0 < len → len ≤ 0x400000 → s.hostOk f src len false = true → ok = true → s.flag F.imgStatus_ARMED = false →
         (let x := imgParts (d.take len)
          let n := (d.take len).length - sigLen
          let keys := if x.base then s.dereagorKeys else s.ownerKeys
          let signed := s.flag F.bnStatus_FAULT = false ∧ sigOk (if x.base then 0 else 1) keys ((d.take len).take n) ((d.take len).drop n) = true
          let newer := s.arbOf (if x.base then 1 else 2) ≤ x.svn
          let formed := imgStructOk x (leNat (bytesAt (d.take len) 22 2)) = true
          (imgHeaderOk (d.take len) len = false → ends 3) ∧
          (imgHeaderOk (d.take len) len = true → ¬ signed → ends 1) ∧
          (imgHeaderOk (d.take len) len = true → signed → ¬ newer → ends 2) ∧
          (imgHeaderOk (d.take len) len = true → signed → newer → ¬ formed → ends 3) ∧
          (imgHeaderOk (d.take len) len = true → signed → newer → formed → ends 0 ∧
            ∃ t u, exec (.imgLoad f v d ok) s = .next t ∧ exec .imgLoadDone t = .next u ∧
              (if x.base then u.cirrus.stagedBase else u.cirrus.stagedCust) = some x))))) ∧
    (∀ r x, s.cirrus.load = some ⟨r, some x⟩ → r < 8 → ∃ t, exec .imgLoadDone s = .next t ∧ t.flag F.imgStatus_BUSY = s.cirrus.act.isSome ∧
      t.fget F.imgStatus_RESULT = r ∧ (x.base = true → t.cirrus.stagedBase = some x ∧ t.flag F.imgStatus_STAGED_BASE = true ∧
        t.cirrus.stagedCust = s.cirrus.stagedCust) ∧
      (x.base = false → t.cirrus.stagedCust = some x ∧ t.flag F.imgStatus_STAGED_CUST = true ∧ t.cirrus.stagedBase = s.cirrus.stagedBase) ∧
      OnlyRegs [.imgStatus] s t)

/-- From R178 and R197: reading a control-store word, and the rewrite of a faulty one. -/
def Sys2Proof.Machine.Claims.ControlStoreRead : Prop :=
  ∀ (s : State) (ti : TileIx) (v : Word),
    (s.tileOn ti = false → ∀ ecc, exec (.csRead ti v ecc) s = .next s) ∧
    (s.tileOn ti = true → s.flag F.csRdStatus_BUSY ti = false → tget (s.pipe ti).csErr (v.toNat % 32768) 0 = 0 → ∃ t, exec (.csRead ti v false) s = .next t ∧
      t.rd .csRdCtl ti = v &&& 0x7FFF#32 ∧ t.flag F.csRdStatus_BUSY ti = true ∧ t.flag F.csRdStatus_ECC_FIXED ti = false ∧
      (∀ i, i < 18 → t.rd .csRdData ti i = BitVec.ofNat 32 ((s.csWord (v.toNat % 32768)).toNat >>> (32 * i))) ∧
      t.rd .csRdMark ti = BitVec.ofNat 32 (s.marks (v.toNat % 32768)) ∧ OnlyRegs [.csRdCtl, .csRdStatus, .csRdData, .csRdMark] s t) ∧
    (s.tileOn ti = true → s.flag F.csRdStatus_BUSY ti = true → exec (.csRead ti v false) s = .next (s.wr .csRdCtl (v &&& 0x7FFF#32) ti)) ∧
    (∃ t, exec (.csReadDone ti) s = .next t ∧ t.flag F.csRdStatus_BUSY ti = false ∧ OnlyRegs [.csRdStatus] s t) ∧
    ∀ a : Fin 32768, ∃ t, exec (.csWordRewrite ti a) s = .next t ∧ tget (t.pipe ti).csErr a 0 = 0 ∧ OnlyRegs [] s t ∧
      ∀ b : Fin 32768, t.csWord b = s.csWord b

/-- Image commands and reads of the control store. -/
def Obligations.ImageCommands : Prop :=
  Claims.ImageCommands ∧ Claims.ControlStoreRead

/-- From R181, R182 and R184: activation and DEACTIVATE: an armed activation installs nothing, one that starts sets BUSY and RELOADING, its
write waits for committed threads, and at its end the region holds the image and nothing else. -/
def Obligations.ImageActivation : Prop :=
  ∀ (s : State),
    (∀ v : Word, s.flag F.imgStatus_BUSY = false → s.hz = false → s.flag F.imgStatus_ARMED = false →
      ((if bitAt v.toNat 2 then s.cirrus.stagedCust else s.cirrus.stagedBase).isSome = true) →
      (bitAt v.toNat 3 = true → ∃ t, exec (.imgActivate v) s = .next t ∧ t.flag F.imgStatus_ARMED = true ∧
        t.cirrus = { s.cirrus with armedBase := !bitAt v.toNat 2 } ∧
        OnlyRegs [.imgStatus, .imgCtl] s t) ∧
      (bitAt v.toNat 3 = false → ∃ t, exec (.imgActivate v) s = .next t ∧ t.cirrus.act = some (!bitAt v.toNat 2, false) ∧
        t.flag F.imgStatus_BUSY = true ∧ ∀ ti : TileIx, s.tileOn ti = true → t.flag F.cirrusStatus_RELOADING ti = true)) ∧
    (∀ v : Word, s.flag F.imgStatus_BUSY = false → s.hz = false → s.flag F.imgStatus_ARMED = false → ∃ t, exec (.imgDeactivate v) s = .next t ∧
      t.cirrus.act = some (false, true) ∧ t.flag F.imgStatus_BUSY = true) ∧
    (∀ b off, s.cirrus.act = some (b, off) → (s.regionBusy b = true → exec .activationDrained s = .next s) ∧
      (s.regionBusy b = false → ∃ t, exec .activationDrained s = .next t ∧ t.cirrus.drained = true ∧ t.cirrus.act = some (b, off) ∧
        OnlyRegs [.pcOvf] s t ∧ t.te = s.te)) ∧
    (∀ x : Image, s.cirrus.act = some (false, false) → s.cirrus.drained = true → s.regionBusy false = false → s.cirrus.load = none →
      s.cirrus.stagedCust = some x → x.base = false →
      x.first = 0x6000 → x.words.length ≤ 0x2000 → (x.entries.all (fun a => decide (0x6000 ≤ a) && decide (a < 0x8000)) = true) →
      ∃ t, exec .activationComplete s = .next t ∧ t.cirrus.act = none ∧ t.flag F.imgStatus_BUSY = false ∧ t.fget F.imgStatus_RESULT = 0 ∧
        t.flag F.imgStatus_CUST_ACTIVE = true ∧ t.rd .custImageId = BitVec.ofNat 32 x.id ∧ t.cirrus.stagedCust = some x ∧
        (∀ a, 0x6000 ≤ a → a < 0x8000 → t.csWord a = x.words.getD (a - 0x6000) 0 ∧ (t.isEntry a = true ↔ a ∈ x.entries)) ∧
        (∀ a, a < 0x6000 → t.csWord a = s.csWord a)) ∧
    (s.cirrus.act = some (false, true) → s.cirrus.drained = true → s.regionBusy false = false → ∃ t, exec .activationComplete s = .next t ∧
      t.flag F.imgStatus_CUST_ACTIVE = false ∧ t.rd .custImageId = 0 ∧ t.cirrus.stagedCust = s.cirrus.stagedCust ∧ t.cirrus.act = none ∧
      (∀ a, 0x6000 ≤ a → t.isEntry a = false) ∧ (∀ a, t.csWord a = s.csWord a))

/-! ### Tables -/

/-- The command register holds operation `o`, no other source's operation waits, and no share of the data path or of aging falls due first
(R212, R214). -/
def Sys2Proof.Machine.RegOp (s : State) (o : TeOp) : Prop := s.te.ops = [(.reg, o)] ∧ o.gen = 0 ∧ s.slotDue = none

/-- From R201, R213, R214, R218 and R222: immediate INSERT, MODIFY, DELETE and READ of an exact-match key, and FLUSH of a partition, through the
command register: what they leave in the table, what a LOOKUP then returns in every tile and version, and the RESULT. -/
def Obligations.ExactMatchOperations : Prop :=
  ∀ (s : State) (o : TeOp) (k : Fin 8) (key act : List Byte), RegOp s o → o.tid = 0x10 + k → o.stage = false → s.teDenied o.tid = false →
    key = bytesAt o.data 0 (s.emKeyLen k) → act = bytesAt o.data (s.emKeyLen k) (s.emAct k) →
    (∀ i, o.op = 1 → s.emCopies k key = [] → s.emFree k key = some i → ∃ t, exec (.insert none) s = .next t ∧
      t.flag F.teCmdStatus_BUSY = false ∧ t.fget F.teCmdStatus_RESULT = 0 ∧ (∀ j, j ≠ i → t.emAt j = s.emAt j) ∧
      (∀ ti par, (t.tblLookup ti par o.tid key).map (fun x => x.1) = some act) ∧ t.te.ops = []) ∧
    (∀ x r, o.op = 1 → s.emCopies k key = x :: r → (x :: r).any (fun c => c.2.p0 != c.2.p1) = false → ∃ t, exec (.insert none) s = .next t ∧
      t.flag F.teCmdStatus_BUSY = false ∧ t.fget F.teCmdStatus_RESULT = 1 ∧ t.te.em = s.te.em) ∧
    (∀ i e, o.op = 2 → s.emCopies k key = [(i, e)] → e.p0 = true → e.p1 = true → ∃ t, exec (.modify none) s = .next t ∧
      t.flag F.teCmdStatus_BUSY = false ∧ t.fget F.teCmdStatus_RESULT = 0 ∧ (∀ j, j ≠ i → t.emAt j = s.emAt j) ∧
      ∀ ti par, (t.tblLookup ti par o.tid key).map (fun x => x.1) = some act) ∧
    (∀ i e, o.op = 3 → s.emCopies k key = [(i, e)] → e.p0 = e.p1 → ∃ t, exec (.delete none) s = .next t ∧
      t.flag F.teCmdStatus_BUSY = false ∧ t.fget F.teCmdStatus_RESULT = 0 ∧ (∀ j, j ≠ i → t.emAt j = s.emAt j) ∧
      ∀ ti par, t.tblLookup ti par o.tid key = none) ∧
    (let hit (e : EmEntry) : Prop := e.part = k.val ∧ e.learned = true ∧ (bitAt o.index 31 = true ∨ e.lport = o.index % 512)
     o.op = 9 → ∃ t, exec (.flush none) s = .next t ∧ t.flag F.teCmdStatus_BUSY = false ∧ t.te.ops = [] ∧
      (∀ i e, (i, some e) ∈ t.te.em ↔ (i, some e) ∈ s.te.em ∧ ¬ (hit e ∧ e.p0 = e.p1)) ∧
      (t.fget F.teCmdStatus_RESULT = 0 ∨ t.fget F.teCmdStatus_RESULT = 5) ∧
      (t.fget F.teCmdStatus_RESULT = 5 ↔ ∃ i e, (i, some e) ∈ s.te.em ∧ hit e ∧ e.p0 ≠ e.p1)) ∧
    ((o.op = 2 ∨ o.op = 3) → s.emCopies k key = [] → ∃ t, (if o.op = 2 then exec (.modify none) s else exec (.delete none) s) = .next t ∧
      t.fget F.teCmdStatus_RESULT = 2 ∧ t.te.em = s.te.em) ∧
    ((o.op = 1 ∨ o.op = 2 ∨ o.op = 3) → (s.emCopies k key).any (fun c => c.2.p0 != c.2.p1) = true →
      ∃ t, (if o.op = 1 then exec (.insert none) s else if o.op = 2 then exec (.modify none) s else exec (.delete none) s) = .next t ∧
        t.fget F.teCmdStatus_RESULT = 5 ∧ t.te.em = s.te.em) ∧
    (∀ i e, o.op = 4 → s.emCopies k key = [(i, e)] → pbit e.p0 e.p1 o.par = true → s.badWord o.tid i = false → ∃ t,
      exec (.read none) s = .next t ∧ t.flag F.teCmdStatus_BUSY = false ∧ t.fget F.teCmdStatus_RESULT = 0 ∧ t.te.em = s.te.em ∧
      t.rd .teData 0 = BitVec.ofNat 32 (b2n e.p0 + b2n e.p1 * 2 + b2n e.learned * 4 + b2n e.static * 8 + e.lport * 32 + o.tid * 2 ^ 24))

/-- From R221 and R228: a staged operation on an ECMP group leaves every selection under the current version as it was; R210: SET_LIVE changes
only EN of a member, and MEMBER writes it whole. -/
def Sys2Proof.Machine.Claims.GroupsUnderVersions : Prop :=
  ∀ (s : State) (o : TeOp), RegOp s o → (s.vstate = 0 ∨ s.vstate = 1) →
    (o.tid = 0x40 → o.stage = true → o.index < 16384 → (o.op = 1 ∨ o.op = 2 ∨ o.op = 3) →
      ∃ t, (if o.op = 1 then exec (.insert none) s else if o.op = 2 then exec (.modify none) s else exec (.delete none) s) = .next t ∧
        t.flag F.teCmdStatus_BUSY = false ∧ t.fget F.verStatus_CUR_VERSION = s.fget F.verStatus_CUR_VERSION ∧
        (t.fget F.teCmdStatus_RESULT = 0 → t.vstate = 1) ∧
        ∀ idx hashA hashB, t.selectMember idx s.cur hashA hashB = s.selectMember idx s.cur hashA hashB) ∧
    (o.tid = 0x41 → o.stage = false → o.op = 7 → o.index % 2 ^ 31 < 262144 → ∃ t, exec (.setLive none) s = .next t ∧
      t.fget F.teCmdStatus_RESULT = 0 ∧ (tget t.te.members (o.index % 2 ^ 31) 0).getLsbD 9 = bitAt o.index 31 ∧
      (∀ b, b ≠ 9 → (tget t.te.members (o.index % 2 ^ 31) 0).getLsbD b = (tget s.te.members (o.index % 2 ^ 31) 0).getLsbD b) ∧
      (∀ j, j ≠ o.index % 2 ^ 31 → tget t.te.members j 0 = tget s.te.members j 0)) ∧
    (o.tid = 0x41 → o.stage = false → o.op = 8 → o.index < 262144 → ∃ t, exec (.member none) s = .next t ∧ t.fget F.teCmdStatus_RESULT = 0 ∧
      tget t.te.members o.index 0 = BitVec.ofNat 64 (leNat (bytesAt o.data 0 8)) &&& mbrMask ∧
      (∀ j, j ≠ o.index → tget t.te.members j 0 = tget s.te.members j 0))

/-- From R123 and R124: with SYM at 1 a packet and its reply, whose address and port pairs are swapped, have one hash key. -/
def Sys2Proof.Machine.Claims.SymmetricHash : Prop :=
  ∀ (s : State) (ti : TileIx) (p q : Nat) (win win2 : List Byte) (w w2 : Walk), s.flag F.hashCfg_SYM ti = true →
    s.flag F.hashCfg_INNER ti = false → s.flag F.hashCfg_USE_VID ti = false →
    (let a := keyFields win w.hdr w.flags w.offs w.info false
     let b := keyFields win2 w2.hdr w2.flags w2.offs w2.info false
     a.kind = b.kind ∧ a.proto = b.proto ∧ a.etype = b.etype ∧ a.src = b.dst ∧ a.dst = b.src ∧ a.sport = b.dport ∧ a.dport = b.sport) →
    s.hashKey ti p win w = s.hashKey ti q win2 w2

/-- From R126, R127 and R207: a selection returns the primary member whenever it is live, else a live one, and none only when none is live; an
LPM lookup returns a longest matching prefix. -/
def Sys2Proof.Machine.Claims.SelectionAndLongestPrefix : Prop :=
  (∀ (s : State) (idx par hashA hashB : Nat) (i : Nat) (g : BitVec 64), hashA < 2 ^ 32 → hashB < 2 ^ 16 →
    grpSlot s.te.groups idx par = some (i, g) →
    (let v := g.toNat
     let n := bits v 10 2 + 1
     let S := match bits v 12 11 with
       | 0 => hashA % 65536
       | 1 => hashA / 65536
       | 2 => hashB
       | _ => hashB ^^^ hashA % 65536
     let m := tget s.te.members (bits v 31 14 + S * n / 65536) 0
     let live (x : BitVec 64) : Prop := x.getLsbD 9 = true ∧ (bitAt v 13 = true → s.isUp (x.toNat % 512) = true)
     S * n / 65536 < n ∧ (live m → s.selectMember idx par hashA hashB = some m) ∧
     (∀ x, s.selectMember idx par hashA hashB = some x → live x ∧ ∃ j, j < n ∧ x = tget s.te.members (bits v 31 14 + j) 0) ∧
     (s.selectMember idx par hashA hashB = none → ∀ j, j < n → ¬ live (tget s.te.members (bits v 31 14 + j) 0)))) ∧
  ∀ (s : State) (v6 : Bool) (par : Nat) (key : List Byte),
    (let en := if v6 then s.flag F.lpmCfg_VRF6_EN else s.flag F.lpmCfg_VRF4_EN
     let hit (e : LpmEntry) : Prop := e ∈ s.te.lpm ∧ e.v6 = v6 ∧ e.vrf = (if en then beNat (bytesAt key 0 2) % 4096 else 0) ∧
       pbit e.p0 e.p1 par = true ∧ prefixEq e.addr (bytesAt key (if en then 2 else 0) (if v6 then 16 else 4)) e.len = true
     (∀ e, s.lpmFind v6 par key = some e → hit e ∧ ∀ f, hit f → f.len ≤ e.len) ∧
     (s.lpmFind v6 par key = none → ∀ f, ¬ hit f))

/-- Groups and members, the symmetric hash, member selection and longest prefix. -/
def Obligations.GroupsHashesAndSelection : Prop :=
  Claims.GroupsUnderVersions ∧ Claims.SymmetricHash ∧ Claims.SelectionAndLongestPrefix

/-- From R224 to R227: the course of a version: COMMIT waits for its cycle, the commit cycle, draining, the sweep and DISCARD. -/
def Obligations.VersionCourse : Prop :=
  ∀ (s : State),
    (∀ o, s.teHead .reg = some o → o.op = 5 → s.te.commits.contains .reg = false →
      exec (.commit none) s = .next { s with te := { s.te with commits := s.te.commits ++ [.reg] } }) ∧
    (s.te.commits ≠ [] → s.teHeld = true) ∧
    (∀ x, s.commitReady = some x → ∃ t, exec .versionChange s = .next t ∧
      t.fget F.verStatus_CUR_VERSION = (s.fget F.verStatus_CUR_VERSION + 1) % 65536 ∧ t.vstate = 2 ∧
      t.te.commits = s.te.commits.filter (fun y => decide (y ≠ x.1)) ∧
      t.rdw .cntCommits = s.rdw .cntCommits + 1#64 ∧
      (∀ ti : TileIx, s.tileOn ti = true → t.fget F.ttVersion_VERSION ti = (s.fget F.verStatus_CUR_VERSION + 1) % 65536) ∧
      t.te.em = s.te.em ∧ t.te.lpm = s.te.lpm ∧ t.te.acl = s.te.acl ∧ t.te.groups = s.te.groups) ∧
    (s.commitReady = none → exec .versionChange s = .next s) ∧
    (s.vstate = 2 → (∀ ti : TileIx, s.tileOn ti = true → s.inflight ti s.next = 0) → ∃ t, exec .inflightDrained s = .next t ∧ t.vstate = 3 ∧
      OnlyRegs [.verStatus] s t ∧ t.te = s.te) ∧
    (∀ ti : TileIx, s.tileOn ti = true → s.inflight ti s.next ≠ 0 → exec .inflightDrained s = .next s) ∧
    (s.vstate = 3 → s.te.ops = [] → ∃ t, exec .retireSweepEnd s = .next t ∧ t.vstate = 0 ∧
      (∀ i e, t.emAt i = some e → e.p0 = true ∧ e.p1 = true) ∧ (∀ e ∈ t.te.lpm, e.p0 = true ∧ e.p1 = true) ∧
      (∀ i e, t.aclAt i = some e → e.p0 = true ∧ e.p1 = true) ∧
      (∀ i e, s.emAt i = some e → pbit e.p0 e.p1 s.cur = true → (t.emAt i).map (fun x => (x.key, x.action)) = some (e.key, e.action)) ∧
      (∀ i e, s.aclAt i = some e → pbit e.p0 e.p1 s.cur = true → (t.aclAt i).map (fun x => (x.key, x.mask, x.action)) = some (e.key, e.mask, e.action))) ∧
    (∀ o, s.teHead .reg = some o → o.op = 6 → s.te.discard = none → s.vstate = 1 → ∃ t, exec (.discard none) s = .next t ∧ t.vstate = 4 ∧
      t.te.discard = some .reg ∧ t.te.em = s.te.em) ∧
    (∀ o, RegOp s o → o.op = 6 → s.te.discard = none → s.vstate = 0 → ∃ t, exec (.discard none) s = .next t ∧ t.vstate = 0 ∧
      t.flag F.teCmdStatus_BUSY = false ∧ t.fget F.teCmdStatus_RESULT = 0 ∧ t.te.em = s.te.em ∧ t.te.lpm = s.te.lpm) ∧
    (∀ o, RegOp s o → s.te.discard = some .reg → s.vstate = 4 → ∃ t, exec .discardSweepEnd s = .next t ∧ t.vstate = 0 ∧
      t.te.discard = none ∧ t.flag F.teCmdStatus_BUSY = false ∧ t.fget F.teCmdStatus_RESULT = 0 ∧
      (∀ i e, t.emAt i = some e → e.p0 = true ∧ e.p1 = true) ∧
      (∀ i e, s.emAt i = some e → pbit e.p0 e.p1 s.cur = true → (t.emAt i).map (fun x => (x.key, x.action)) = some (e.key, e.action)))

/-- From R234 to R237: what the engine does with a LEARN and a TWRITE at the head of the data-path queue. -/
def Sys2Proof.Machine.Claims.DataPathWrites : Prop :=
  ∀ (s : State) (d : DpOp) (q : List DpOp) (tid : Nat) (key : List Byte), s.te.dpq = d :: q → s.teTurn .dp = true →
    (d.learn = true → d.probe = none → ∃ t, exec .learnApply s = .next t ∧ t.te.dpq = q ∧ t.te.em = s.te.em ∧
      t.rdw .cntDpDiscard = s.rdw .cntDpDiscard + 1#64) ∧
    (d.learn = true → d.probe = some (tid, key) → tidKind tid = 1 → s.flag F.tblCfg0_LEARN_EN (tid - 0x10) = true → s.emWidth (tid - 0x10) ≠ 2 →
      (s.emRange (tid - 0x10)).2 ≠ 0 → s.emCopies (tid - 0x10) (s.emKey (tid - 0x10) key) = [] →
      (s.overLimit d.iport = true → ∃ t, exec .learnApply s = .next t ∧ t.te.em = s.te.em ∧
        t.rdw .cntLearnLimit = s.rdw .cntLearnLimit + 1#64) ∧
      (∀ i, s.overLimit d.iport = false → d.place = none → s.emFree (tid - 0x10) (s.emKey (tid - 0x10) key) = some i → ∃ t e,
        exec .learnApply s = .next t ∧ t.emAt i = some e ∧ e.key = s.emKey (tid - 0x10) key ∧ e.action = bytesAt d.arg 0 12 ∧ e.p0 = true ∧
        e.p1 = true ∧ e.learned = true ∧ e.lport = d.iport ∧ e.stamps = List.replicate 16 s.ageNow ∧ e.static = bitAt (byteAt d.arg 12) 1 ∧
        (∀ j, j ≠ i → t.emAt j = s.emAt j) ∧ t.rdw .cntLearned = s.rdw .cntLearned + 1#64) ∧
      (s.overLimit d.iport = false → d.place = none → s.emFree (tid - 0x10) (s.emKey (tid - 0x10) key) = none → ∃ t,
        exec .learnApply s = .next t ∧ t.te.em = s.te.em ∧ t.rdw .cntLearnNospace = s.rdw .cntLearnNospace + 1#64)) ∧
    (d.learn = false → byteAt d.arg 0 = 7 → byteAt d.arg 1 = 0x41 → s.flag F.teCtl_DP_LIVE_EN = true → ∃ t, exec .twriteApply s = .next t ∧
      t.te.dpq = q ∧ (tget t.te.members (beNat (bytesAt d.arg 4 4) % 2 ^ 18) 0).getLsbD 9 = bitAt (beNat (bytesAt d.arg 4 4)) 31) ∧
    (d.learn = false → (byteAt d.arg 0 = 0 ∨ 8 ≤ byteAt d.arg 0) → ∃ t, exec .twriteApply s = .next t ∧ t.te.dpq = q ∧ t.te.em = s.te.em ∧
      t.te.members = s.te.members ∧ t.rdw .cntDpDiscard = s.rdw .cntDpDiscard + 1#64)

/-- From R238 to R240: ticks, the scanner's visit, the compare-and-delete, which a changed stamp stops, and the rewrite of an old stamp. -/
def Sys2Proof.Machine.Claims.Aging : Prop :=
  ∀ (s : State) (i : Fin 524288) (e : EmEntry), s.emAt i = some e →
    (∃ t, exec .ageTick s = .next t ∧ t.ageNow = (s.ageNow + 1) % 65536 ∧ OnlyRegs [.ageNow] s t) ∧
    (∀ v, ∃ t, exec (.ageTickWrite v) s = .next t ∧ t.rd .ageTick = v &&& 0xFFFF#32 ∧ OnlyRegs [.ageTick] s t ∧ t.te.em = s.te.em) ∧
    (s.flag F.teCtl_AGE_RUN = true → s.ages e = true → s.te.refresh = [] →
      (∀ ti : TileIx, s.tileOn ti = true → s.wordBad ti (0x10 + e.part) i = false) →
      (e.static = true → ∃ t, exec (.ageScanVisit i) s = .next t ∧ t.te.cands = s.te.cands ∧ t.te.em = s.te.em) ∧
      (e.static = false → e.p0 = true → e.p1 = true → (∀ ti : TileIx, s.tileOn ti = true → max 1 (s.fget F.tblCfg1_AGE_LIMIT e.part) < s.age (nth e.stamps ti 0)) →
        ∃ t, exec (.ageScanVisit i) s = .next t ∧ t.te.cands = s.te.cands ++ [(i.val, e.stamps)] ∧ t.te.em = s.te.em)) ∧
    (∀ st r, s.te.cands = (i.val, st) :: r → s.teTurn .age = true → s.refreshing = false →
      (e.p0 = true → e.p1 = true → e.stamps = st → ∃ t, exec .ageCompareDelete s = .next t ∧ t.emAt i = none ∧ t.te.cands = r ∧
        t.rdw .cntAged = s.rdw .cntAged + 1#64 ∧ ∀ j, j ≠ i.val → t.emAt j = s.emAt j) ∧
      (∀ ti : TileIx, s.tileOn ti = true → nth e.stamps ti 0 ≠ nth st ti 0 → ∃ t, exec .ageCompareDelete s = .next t ∧ t.te.em = s.te.em ∧
        t.te.cands = r)) ∧
    (s.flag F.teCtl_AGE_RUN = true → s.ages e = true → i.val ∈ s.te.refresh →
      (∀ ti : TileIx, s.tileOn ti = true → s.wordBad ti (0x10 + e.part) i = false) → ∃ t, exec (.ageScanVisit i) s = .next t ∧
        (t.emAt i).map (fun x => x.stamps) = some s.newStamps ∧ i.val ∉ t.te.refresh ∧ t.te.cands = s.te.cands) ∧
    (∀ ti st r, s.te.rewrites = (i.val, ti, st) :: r → s.teTurn .age = true → ti < e.stamps.length → nth e.stamps ti 0 = st → ∃ t, exec .ageStampRewrite s = .next t ∧
      (t.emAt i).map (fun x => nth x.stamps ti 0) = some ((s.ageNow + 32768) % 65536) ∧ t.te.rewrites = r)

/-- Writes of the data path, learning and aging. -/
def Obligations.DataPathWritesAndAging : Prop :=
  Claims.DataPathWrites ∧ Claims.Aging

/-- From R203 to R206: repair of a word from a tile with a good copy, and its loss when none is left; the TCAM scrubber; spare banks. -/
def Obligations.ParityAndBanks : Prop :=
  ∀ (s : State) (ti : TileIx),
    (∀ tid i, s.te.bad.find? (fun b => decide (b.1 = ti.val)) = some (ti.val, tid, i) →
      ((∃ u, u < 16 ∧ s.tileOn u = true ∧ u ≠ ti.val ∧ s.wordBad u tid i = false) → ∃ t, exec (.tableWordRepair ti) s = .next t ∧
        (ti.val, tid, i) ∉ t.te.bad ∧ t.rdw .ttRepairCnt ti = s.rdw .ttRepairCnt ti + 1#64 ∧ t.te.members = s.te.members ∧
        t.te.groups = s.te.groups ∧ t.te.lpm = s.te.lpm) ∧
      ((∀ u, u < 16 → s.tileOn u = true → u ≠ ti.val → s.wordBad u tid i = true) → tid = 0x41 → ∃ t, exec (.tableWordRepair ti) s = .next t ∧
        tget t.te.members i 0 = 0 ∧ (∀ u, (u, tid, i) ∉ t.te.bad))) ∧
    (∀ (e : Fin 16384) (k : Fin 4) (x : AclEntry) par key, s.aclAt e = some x → (s.aclRange k).1 ≤ e.val → e.val < (s.aclRange k).1 + (s.aclRange k).2 →
      (∀ j : Fin 4, j < k → ¬ ((s.aclRange j).1 ≤ e.val ∧ e.val < (s.aclRange j).1 + (s.aclRange j).2)) → s.te.acl = [(e.val, some x)] →
      ∃ t, exec (.tcamScrubVisit ti e true) s = .next t ∧ t.te.acl = s.te.acl ∧ t.aclFind ti k par key = none) ∧
    (∀ e, exec (.tcamScrubVisit ti e false) s = .next s) ∧
    (tget s.te.claims ti 0 = 1 → ∃ t, exec (.bankCopyOutDone ti) s = .next t ∧ tget t.te.claims ti 0 = 2 ∧ OnlyRegs [] s t) ∧
    (tget s.te.claims ti 0 = 3 → ∃ t, exec (.bankCopyBackDone ti) s = .next t ∧ tget t.te.claims ti 0 = 0 ∧ t.flag F.ttBank_CLAIMED ti = false) ∧
    (∀ m b tid i, (ti.val, m, b) ∈ s.te.safeBanks → memOf tid = some m → Config.bankOf m i = b → s.wordBad ti tid i = true) ∧
    (∀ m b, s.te.safeBanks = [(ti.val, m, b)] → m < 4 → bitAt (s.fget F.ttBank_SPARE_FIXED ti) m = false → ∃ t,
      exec (.spareBankLoadDone ti) s = .next t ∧ t.te.safeBanks = [] ∧ (ti.val, m, b) ∈ t.te.fixedBanks ∧
      bitAt (t.fget F.ttBank_SPARE_FIXED ti) m = true ∧
      ((∀ w ∈ s.bankWords m b, ∃ u, u < 16 ∧ s.tileOn u = true ∧ u ≠ ti.val ∧ s.wordBad u w.1 w.2 = false) → t.te.em = s.te.em ∧
        t.te.lpm = s.te.lpm ∧ t.te.acl = s.te.acl ∧ t.te.groups = s.te.groups ∧ t.te.members = s.te.members)) ∧
    (∀ m b, s.te.safeBanks = [(ti.val, m, b)] → m = 3 → bitAt (s.fget F.ttBank_SPARE_FIXED ti) m = false →
      (∀ u, u < 16 → s.tileOn u = true → u = ti.val) → ∀ i, (0x41, i) ∈ s.bankWords 3 b → ∃ t, exec (.spareBankLoadDone ti) s = .next t ∧
        tget t.te.members i 0 = 0)

/-- From R243 to R245: when the configuration registers of the tables take a write. -/
def Sys2Proof.Machine.Claims.TableConfiguration : Prop :=
  ∀ (s : State) (v : Word),
    (s.te.em = [] → ∃ t, exec (.emSeedWrite v) s = .next t ∧ t.rd .emSeed = v ∧ OnlyRegs [.emSeed] s t) ∧
    (s.te.em ≠ [] → exec (.emSeedWrite v) s = .next s) ∧
    (s.te.lpm = [] → ∃ t, exec (.lpmCfgWrite v) s = .next t ∧ t.rd .lpmCfg = v &&& 3#32 ∧ OnlyRegs [.lpmCfg] s t) ∧
    (s.te.lpm ≠ [] → exec (.lpmCfgWrite v) s = .next s) ∧
    (∀ k : Fin 8, ∃ t, exec (.tblCfgWrite k v) s = .next t ∧ t.rd .tblCfg0 k &&& 0x1E000000#32 = v &&& 0x1E000000#32 ∧
      (s.emUsed k ≠ 0 → t.rd .tblCfg0 k &&& 0x01FFFF7F#32 = s.rd .tblCfg0 k &&& 0x01FFFF7F#32) ∧
      (s.emUsed k = 0 → bits v.toNat 15 8 = 0 → t.rd .tblCfg0 k &&& 0x01FFFF7F#32 = v &&& 0x01FFFF7F#32) ∧
      (∀ j : Fin 8, j ≠ k → t.rd .tblCfg0 j = s.rd .tblCfg0 j) ∧ OnlyRegs [.tblCfg0] s t) ∧
    (∀ k : Fin 4, (∀ j : Fin 4, j ≠ k → s.fget F.tcamCfg_SIZE j = 0) → (∀ e ∈ s.te.acl, ¬ ((s.aclRange k).1 ≤ e.1 ∧ e.1 < (s.aclRange k).1 + (s.aclRange k).2)) →
      ∃ t, exec (.tcamCfgWrite k v) s = .next t ∧ t.rd .tcamCfg k = v &&& 0x7F3F#32 ∧ OnlyRegs [.tcamCfg] s t) ∧
    (∀ (k : Fin 4) (e : Nat × Option AclEntry), e ∈ s.te.acl → (s.aclRange k).1 ≤ e.1 → e.1 < (s.aclRange k).1 + (s.aclRange k).2 →
      exec (.tcamCfgWrite k v) s = .next s)

/-- From R279, R280 and R294: the multicast registers with an idle engine: INSERT, MODIFY and DELETE of a group in both versions, READ, and a
member write. -/
def Sys2Proof.Machine.Claims.MulticastRegisters : Prop :=
  ∀ (s : State) (v : Word) (i : Nat), s.flag F.mcStatus_BUSY = false → s.te.ops = [] → s.slotDue = none → (s.vstate = 0 ∨ s.vstate = 1) →
    s.fget F.mcIndex_INDEX = i → bitAt v.toNat 4 = false →
    (i < 16384 → tget s.te.mcGroups (2 * i) 0 = 0 → tget s.te.mcGroups (2 * i + 1) 0 = 0 →
      bits ((s.rd .mcData0).toNat) 31 15 + bits ((s.rd .mcData0).toNat) 10 2 < 131072 →
      (∃ t, exec (.mcInsert v) s = .next t ∧ t.flag F.mcStatus_BUSY = false ∧ t.fget F.mcStatus_RESULT = 0 ∧
        (tget t.te.mcGroups (2 * i) 0).toNat % 2 ^ 32 = (s.rd .mcData0).toNat / 4 * 4 + 3 ∧ t.te.mcMembers = s.te.mcMembers) ∧
      (∃ t, exec (.mcModify v) s = .next t ∧ t.fget F.mcStatus_RESULT = 2 ∧ t.te.mcGroups = s.te.mcGroups) ∧
      (∃ t, exec (.mcDelete v) s = .next t ∧ t.fget F.mcStatus_RESULT = 2 ∧ t.te.mcGroups = s.te.mcGroups) ∧
      ∃ t, exec (.mcRead v) s = .next t ∧ t.fget F.mcStatus_RESULT = 2 ∧ t.te.mcGroups = s.te.mcGroups ∧
        t.te.mcMembers = s.te.mcMembers) ∧
    (∀ g, i < 16384 → tget s.te.mcGroups (2 * i) 0 = g → g.toNat % 4 = 3 → tget s.te.mcGroups (2 * i + 1) 0 = 0 →
      (∃ t, exec (.mcDelete v) s = .next t ∧ t.fget F.mcStatus_RESULT = 0 ∧ tget t.te.mcGroups (2 * i) 0 = 0) ∧
      (bits ((s.rd .mcData0).toNat) 31 15 + bits ((s.rd .mcData0).toNat) 10 2 < 131072 → ∃ t, exec (.mcModify v) s = .next t ∧
        t.fget F.mcStatus_RESULT = 0 ∧ (tget t.te.mcGroups (2 * i) 0).toNat % 2 ^ 32 = (s.rd .mcData0).toNat / 4 * 4 + 3) ∧
      (s.badWord 0x50 i = false → ∃ t, exec (.mcRead v) s = .next t ∧ t.fget F.mcStatus_RESULT = 0 ∧ t.rd .mcData0 = BitVec.ofNat 32 g.toNat)) ∧
    (i < 131072 → ∃ t, exec (.mcMemberWrite v) s = .next t ∧ t.fget F.mcStatus_RESULT = 0 ∧
      tget t.te.mcMembers i 0 = BitVec.ofNat 64 ((s.rd .mcData0).toNat % 1024) ∧ (∀ j, j ≠ i → tget t.te.mcMembers j 0 = tget s.te.mcMembers j 0) ∧
      t.te.mcGroups = s.te.mcGroups)

/-- Table configuration and the multicast registers. -/
def Obligations.TableAndMulticastRegisters : Prop :=
  Claims.TableConfiguration ∧ Claims.MulticastRegisters

/-! ### Buffers, crossbar and egress -/

/-- The tags of a port's classes lie in one range over which none wraps, from `b` on (R306). -/
def Sys2Proof.Machine.TagsFrom (b : BitVec 64) (s : State) (p : Nat) : Prop := ∀ c tag, c < 8 → (s.nc p c).tag = some tag → (tag - b).toNat < 2 ^ 62

/-- From R252, R287, R296 and R297: a grant goes only to a source with backlog of a class that may be granted; it raises the balance of its
queue, an empty queue keeps at most one grant, and a queue in its safe state returns it. -/
def Sys2Proof.Machine.Claims.GrantsAndBalances : Prop :=
  ∀ (s : State) (t : TileIx),
    (∃ u, exec (.nimbusGrant t) s = .next u ∧ OnlyRegs [] s u ∧
      (∀ x q, (u.voq x q).inflight ≠ (s.voq x q).inflight → ∃ p c, p ∈ s.tilePorts t ∧ s.grantable p c = true ∧ q = 8 * p + c ∧ x < 16 ∧
        s.hasBacklog x q = true ∧ (u.voq x q).inflight = (s.voq x q).inflight ++ [s.grantBytes p]) ∧
      (∀ x q, (u.voq x q).balance = (s.voq x q).balance ∧ (u.voq x q).head = (s.voq x q).head) ∧
      (∀ p c x, p ∈ s.tilePorts t → c < 8 → x < 16 → s.grantable p c = true → s.hasBacklog x (8 * p + c) = true →
        (∀ d k j, s.mcWaiting d k j = []) → ∃ y q, (u.voq y q).inflight ≠ (s.voq y q).inflight)) ∧
    (∀ q, s.report252 t q = if (s.voq t q).isEmpty = true then none else some (if (s.voq t q).spill = true ∨ 2 ^ 20 ≤ s.voqBytes t q then 3
      else if 2 ^ 16 ≤ s.voqBytes t q then 2 else if 2 ^ 12 ≤ s.voqBytes t q then 1 else 0)) ∧
    ∀ (q : QueueIx) (g : Nat) (rest : List Nat), (s.voq t q).inflight = g :: rest →
      ((s.voq t q).safe = true → ∃ u, exec (.grantReceive t q) s = .next u ∧ (u.voq t q).balance = (s.voq t q).balance ∧
        (u.voq t q).inflight = rest ∧ (u.voq t q).safe = true ∧ OnlyRegs [] s u ∧ u.host = s.host) ∧
      ((s.voq t q).safe = false → ∃ u, exec (.grantReceive t q) s = .next u ∧ (u.voq t q).inflight = rest ∧ OnlyRegs [] s u ∧ u.host = s.host ∧
        (u.voq t q).head = (s.voq t q).head ∧
        (u.voq t q).balance = if (s.voq t q).isEmpty = true ∧ (s.voq t q).crossing = none then min (g : Int) ((s.voq t q).balance + g)
          else (s.voq t q).balance + g)

/-- From R252, R272, R282 and R510: a queue's head frame starts only with its balance above 0, which then falls by FRAME_LEN, or, in a multicast
queue, once it is granted; a cell read that fails before the start drops the frame, and R273: one that fails in a frame cut through ends the frame
before that cell. -/
def Sys2Proof.Machine.Claims.CrossingStarts : Prop :=
  ∀ (s : State) (t : TileIx) (q : QueueIx) (r : Ref) (rest : List Ref), (s.voq t q).head = r :: rest →
    ((q.val < 4096 → (s.voq t q).balance ≤ 0) ∧ (4096 ≤ q.val → (s.voq t q).granted = 0) → ∀ err, exec (.crossingStart t q err) s = .next s) ∧
    (tget s.squall.blockReset t 0 ≠ 0 → ∀ err, exec (.crossingStart t q err) s = .next s) ∧
    ((s.voq t q).crossing = none → (s.voq t q).safe = false → (s.frame t r.fid).done = true → tget s.squall.blockReset t 0 = 0 →
      (q.val < 4096 → 0 < (s.voq t q).balance) → (4096 ≤ q.val → (s.voq t q).granted ≠ 0) →
      (∃ u x, exec (.crossingStart t q none) s = .next u ∧ (u.voq t q).head = rest ∧ (u.voq t q).crossing = some x ∧ x.fid = r.fid ∧
        (q.val < 4096 → (u.voq t q).balance = (s.voq t q).balance - (s.frame t r.fid).len) ∧
        (4096 ≤ q.val → (u.voq t q).balance = (s.voq t q).balance ∧ x.mask = (s.voq t q).granted) ∧
        (q.val < 4096 → s.portEnabled (s.frame t r.fid).m.eport = true → (s.np (s.frame t r.fid).m.eport).downHeld = false →
          s.gateEn (s.frame t r.fid).m.eport = false → (s.frame t r.fid).m.mc = false →
          ∃ y, (u.nc (s.frame t r.fid).m.eport (s.frame t r.fid).m.cls).q =
            (s.nc (s.frame t r.fid).m.eport (s.frame t r.fid).m.cls).q ++ [y] ∧ y.fid = r.fid ∧ y.last = false)) ∧
      (∀ k : Fin 64, ((s.frame t r.fid).ct = false ∨ k = 0) → ∃ u, exec (.crossingStart t q (some k)) s = .next u ∧
        u.rdw .dropCnt t 14 = s.rdw .dropCnt t 14 + 1#64 ∧ (u.voq t q).crossing = none ∧ ∀ x ∈ (u.voq t q).head, x.fid ≠ r.fid) ∧
      (∀ k : Fin 64, (s.frame t r.fid).ct = true → (s.frame t r.fid).bad = false → 0 < k.val → 256 * k.val < (s.frame t r.fid).data.length →
        ∃ u, exec (.crossingStart t q (some k)) s = .next u ∧ (u.frame t r.fid).data = (s.frame t r.fid).data.take (256 * k.val) ∧
          (u.frame t r.fid).bad = true ∧ u.rdw .cntStomp t = s.rdw .cntStomp t + 1#64 ∧ (u.voq t q).head = rest))

/-- From R252, R255 and R256: the last beat ends the reference; the frame's cells are freed exactly when no reference is left, and a length that
was not known at the start is deducted. R273: a cell read that fails while a frame cut through crosses ends the frame before that cell. -/
def Sys2Proof.Machine.Claims.CrossingCompletes : Prop :=
  ∀ (s : State) (t : TileIx) (q : QueueIx) (r : Ref), (s.voq t q).crossing = some r →
    ((s.frame t r.fid).done = false → exec (.crossingComplete t q none) s = .next s) ∧
    ((s.frame t r.fid).done = true → ∃ u, exec (.crossingComplete t q none) s = .next u ∧ (u.voq t q).crossing = none ∧
      ((s.voq t q).head ≠ [] → (u.voq t q).balance = (s.voq t q).balance - if (s.voq t q).owes then (s.frame t r.fid).len else 0) ∧
      ((s.frame t r.fid).refs ≤ 1 → (u.frame t r.fid).cells = []) ∧
      (1 < (s.frame t r.fid).refs → (u.frame t r.fid).cells = (s.frame t r.fid).cells ∧
        (u.frame t r.fid).refs = (s.frame t r.fid).refs - 1 ∧ u.freeCells t = s.freeCells t)) ∧
    (∀ k : Fin 64, (s.frame t r.fid).ct = true → (s.frame t r.fid).bad = false → 0 < k.val → 256 * k.val < (s.frame t r.fid).data.length →
      1 < (s.frame t r.fid).refs → ∃ u, exec (.crossingComplete t q (some k)) s = .next u ∧ (u.voq t q).crossing = none ∧
        (u.frame t r.fid).data = (s.frame t r.fid).data.take (256 * k.val) ∧ (u.frame t r.fid).bad = true ∧
        u.rdw .cntStomp t = s.rdw .cntStomp t + 1#64)

/-- Credits, grants and crossings of the crossbar. -/
def Obligations.GrantsAndCrossings : Prop :=
  Claims.GrantsAndBalances ∧ Claims.CrossingStarts ∧ Claims.CrossingCompletes

/-- From R274, R301, R302 and R304: a waiting pause frame goes first; the highest-numbered strict candidate goes next and leaves V; else the
smallest finish tag of the committed tier, or of the excess tier when that is empty, the higher class where tags are equal, and V becomes
it. -/
def Sys2Proof.Machine.Claims.TransmitChoice : Prop :=
  ∀ (s : State) (p : PortIx),
    (s.txReady p = false → exec (.txDecision p) s = .next s) ∧
    (s.txReady p = true → ∀ f r, (s.np p).ctl = f :: r → ∃ u, exec (.txDecision p) s = .next u ∧ (u.np p).curCtl = some f ∧
      (u.np p).ctl = r ∧ (u.np p).cur = none ∧ (∀ c, u.nc p c = s.nc p c) ∧ OnlyRegs [] s u) ∧
    (s.txReady p = true → (s.np p).ctl = [] → (∀ c, c < 8 → s.candidate p c = false) → ∃ u, exec (.txDecision p) s = .next u ∧
      (u.np p).cur = none ∧ (u.np p).v = (s.np p).v ∧ ∀ c, c < 8 → (u.nc p c).q = (s.nc p c).q ∧ ((s.nc p c).q ≠ [] → (u.nc p c).tag = none)) ∧
    (∀ c, s.txReady p = true → (s.np p).ctl = [] → c < 8 → s.candidate p c = true → s.strict p c = true →
      (∀ d, c < d → d < 8 → s.candidate p d = true → s.strict p d = false) → ∃ u x y, exec (.txDecision p) s = .next u ∧
        (s.nc p c).q.head? = some x ∧ (u.np p).cur = some y ∧ y.m = x.m ∧ y.data = x.data ∧ (u.np p).v = (s.np p).v ∧
        (u.nc p c).fLast = (s.nc p c).fLast) ∧
    (∀ b, s.txReady p = true → (s.np p).ctl = [] → (∀ c, c < 8 → s.candidate p c = true → s.strict p c = false) →
      TagsFrom b (s.giveTags p) p → (∃ c, c < 8 ∧ s.candidate p c = true) →
      (let g := s.giveTags p
       let committed (c : Nat) : Prop := (s.bucketCfg p (2 * c)).2.2 = true ∧ 0 ≤ s.bucketLevel p (2 * c)
       ∃ u c x y tag, exec (.txDecision p) s = .next u ∧ c < 8 ∧ s.candidate p c = true ∧ (s.nc p c).q.head? = some x ∧
         (u.np p).cur = some y ∧ y.m = x.m ∧ (g.nc p c).tag = some tag ∧ (u.np p).v = tag ∧ (u.nc p c).fLast = tag ∧
         ∀ d, d < 8 → d ≠ c → s.candidate p d = true →
           (committed d → committed c) ∧
           ((committed c → committed d) → ∃ td, (g.nc p d).tag = some td ∧ (0 < (td - tag).toInt ∨ (td = tag ∧ d < c)))))

/-- From R303, R304 and R305: the tag of a head without one is max(V, F_last) plus Ls × 65,536 / WEIGHT, with the division's remainder carried;
a tag that stands is kept, and a class that holds a frame without being a candidate loses its. -/
def Sys2Proof.Machine.Claims.FinishTags : Prop :=
  ∀ (s : State) (p c : Nat) (x : Staged) (r : List Staged), c < 8 → (s.nc p c).q = x :: r →
    (s.candidate p c = false → ((s.giveTags p).nc p c).tag = none) ∧
    (s.candidate p c = true → s.strict p c = false → (s.nc p c).tag = none →
      (let n := s.chargeOf p x * 65536 + (s.nc p c).rem
       let base := if 0 < ((s.nc p c).fLast - (s.np p).v).toInt then (s.nc p c).fLast else (s.np p).v
       ((s.giveTags p).nc p c).tag = some (base + BitVec.ofNat 64 (n / s.weight p c)) ∧ ((s.giveTags p).nc p c).rem = n % s.weight p c)) ∧
    (∀ tag, s.candidate p c = true → (s.nc p c).tag = some tag → ((s.giveTags p).nc p c).tag = some tag) ∧
    ((s.giveTags p).nc p c).fLast = (s.nc p c).fLast ∧ ((s.giveTags p).nc p c).q = (s.nc p c).q

/-- What the transmit stage chooses, and the finish tags. -/
def Obligations.TransmitChoice : Prop :=
  Claims.TransmitChoice ∧ Claims.FinishTags

/-- From R274, R275, R278 and R335: received pause, its end, resent pause, the watchdog, and the end of what a port sends. -/
def Obligations.PauseAndFrameEnd : Prop :=
  ∀ (s : State) (p : PortIx) (c : ClassIx),
    (∀ bs good, s.isUp p = true → s.tileOn (s.tileOf p) = true → s.rxPauseEn p = true → isPause bs = true →
      ((good = true ∧ 64 ≤ bs.length) → ∃ u, exec (.pauseFrameReceive p bs good) s = .next u ∧
        (u.nc p c).paused = (if half bs 14 = 1 then half bs 16 else if bitAt (half bs 16) c then half bs (18 + 2 * c) else (s.nc p c).paused) ∧
        (u.nc p c).q = (s.nc p c).q ∧ u.rdw .dropCnt (s.tileOf p) 0 = s.rdw .dropCnt (s.tileOf p) 0) ∧
      (¬ (good = true ∧ 64 ≤ bs.length) → ∃ u, exec (.pauseFrameReceive p bs good) s = .next u ∧ u.tm = s.tm ∧
        u.rdw .dropCnt (s.tileOf p) 0 = s.rdw .dropCnt (s.tileOf p) 0 + 1#64)) ∧
    (∃ u, exec (.pauseTimerExpire p c) s = .next u ∧ u.isPaused p c = false ∧ (u.nc p c).q = (s.nc p c).q ∧ OnlyRegs [] s u ∧ OnlyWide [] s u) ∧
    (s.isUp p = true → s.xoffPris p ≠ [] → s.pauseMode p = 1 ∨ s.pauseMode p = 2 → ∃ u f, exec (.pauseResendTimer p) s = .next u ∧
      (u.np p).ctl = (s.np p).ctl ++ [f] ∧ f.length = 64 ∧ isPause f = true ∧ (∀ c, u.nc p c = s.nc p c) ∧
      (s.pauseMode p = 1 → half f 14 = 1 ∧ half f 16 = s.quanta p) ∧
      (s.pauseMode p = 2 → half f 14 = 0x0101 ∧ ∀ i : ClassIx, bitAt (half f 16) i = (s.xoffPris p).contains i.val ∧
        half f (18 + 2 * i) = if (s.xoffPris p).contains i.val then s.quanta p else 0)) ∧
    ((s.isUp p = false ∨ s.xoffPris p = []) → exec (.pauseResendTimer p) s = .next s) ∧
    (s.fget F.egrCfg2_WD_MS p ≠ 0 → s.isPaused p c = true → (s.nc p c).wd = false → ∃ u, exec (.pfcWdExpire p c) s = .next u ∧
      (u.nc p c).wd = true ∧ (s.flag F.egrCfg2_WD_DROP p = true → ∀ t : TileIx, (u.voq t (8 * p + c)).head = [] ∧
        (u.voq t (8 * p + c)).seg = [] ∧ (u.voq t (8 * p + c)).behind = [] ∧ (u.voq t (8 * p + c)).balance = 0) ∧
      (s.flag F.egrCfg2_WD_DROP p = false → ∀ t q, u.voq t q = s.voq t q)) ∧
    ((s.nc p c).wd = true → s.isPaused p c = false → ∃ u, exec (.pfcWdRestore p c) s = .next u ∧ (u.nc p c).wd = false) ∧
    (∀ x, (s.np p).curCtl = none → (s.np p).cur = some x → x.last = false → ∀ idle, exec (.txFrameEnd p idle) s = .next s) ∧
    (∀ x, (s.np p).curCtl = none → (s.np p).cur = some x → x.last = true → ∀ idle, ∃ u, exec (.txFrameEnd p idle) s = .next u ∧ (u.np p).cur = none ∧
      (∀ c, u.nc p c = s.nc p c) ∧ tget u.zen.taps (3 * (8 * p + x.m.cls) + if x.bad then 2 else 0) 0 =
        (tget s.zen.taps (3 * (8 * p + x.m.cls) + if x.bad then 2 else 0) 0 + 1) % 2 ^ 48) ∧
    (∀ f idle, (s.np p).curCtl = some f → ∃ u, exec (.txFrameEnd p idle) s = .next u ∧ (u.np p).curCtl = none ∧ (u.np p).cur = (s.np p).cur ∧ u.zen = s.zen)

/-- From R262 to R268: spill and refill: a write starts only into pages and channels with room, else its frame waits; a record joins the segment at
its end, a refilled frame the SRAM head at its end, each with its charge; a record whose CRC fails is dropped, and a bad trailer ends the segment,
what lies beyond it counted exactly. -/
def Sys2Proof.Machine.Claims.SpillAndRefill : Prop :=
  ∀ (s : State) (t : TileIx) (q : QueueIx),
    (∀ r rest limited, (s.voq t q).due = r :: rest →
      (s.anvilOpen = false ∨ (s.voq t q).writing.isSome = true ∨ (s.frame t r.fid).done = false) →
      exec (.spillWriteStart t q limited) s = .next s) ∧
    (∀ r rest limited, (s.voq t q).due = r :: rest → s.anvilOpen = true → (s.voq t q).writing = none → (s.frame t r.fid).done = true →
      ∃ u, exec (.spillWriteStart t q limited) s = .next u ∧
        ((limited = false ∧ (u.voq t q).writing = some r ∧ (u.voq t q).due = rest ∧ u.rdw .cntSpillWait = s.rdw .cntSpillWait) ∨
          ((u.voq t q).writing = none ∧ (u.voq t q).seg = (s.voq t q).seg ∧ u.rdw .cntSpillWait = s.rdw .cntSpillWait +
            BitVec.ofNat 64 (((s.voq t q).due.filter (fun x => !x.waited)).length))) ∧
        (limited = false → (s.voq t q).pages ≠ [] →
          ceilDiv ((s.voq t q).wrPos + recBytes (s.frame t r.fid).len) 4080 + 1 ≤ (s.voq t q).gone + (s.voq t q).pages.length →
          s.slotRoom (s.voq t q) (slotNo (s.voq t q).wrPos) (slotNo ((s.voq t q).wrPos + recBytes (s.frame t r.fid).len)) = true →
          (u.voq t q).writing = some r ∧ (u.voq t q).pages = (s.voq t q).pages)) ∧
    (∀ r (n : Fin 4), (s.voq t q).writing = some r → (s.frame t r.fid).len < 2 ^ 14 → ∃ u x, exec (.spillWriteComplete t q n) s = .next u ∧
      (u.voq t q).writing = none ∧ (u.voq t q).seg = (s.voq t q).seg ++ [x] ∧ x.raw = recordBytes (s.frame t r.fid).data (s.frame t r.fid).m r.mask ∧
      x.data = (s.frame t r.fid).data ∧ x.mask = r.mask ∧ x.pos = (s.voq t q).wrPos - recBytes (s.frame t r.fid).len ∧
      (u.voq t q).head = (s.voq t q).head ∧ u.anvUsed t x.m.iport x.m.ipri = s.anvUsed t x.m.iport x.m.ipri + recBytes x.data.length ∧
      (u.voq t q).tail.length = min ((s.voq t q).tail.length + recBytes x.data.length) (tailLen (s.voq t q).wrPos) ∧
      u.rdw .cntSpillBytes = s.rdw .cntSpillBytes + BitVec.ofNat 64 (recBytes x.data.length) ∧
      u.rdw .cntEdcRetry = s.rdw .cntEdcRetry + BitVec.ofNat 64 n.val) ∧
    ((s.refillOk t q = true → ∃ u, exec (.refillReadStart t q) s = .next u ∧ (u.voq t q).reading = true ∧ (u.voq t q).seg = (s.voq t q).seg ∧
        OnlyRegs [] s u ∧ OnlyWide [] s u) ∧
      (s.refillOk t q = false → exec (.refillReadStart t q) s = .next s)) ∧
    (∀ r rest (n : Fin 4), (s.voq t q).reading = true → (s.voq t q).seg = r :: rest → (s.voq t q).spill = true →
      (s.freeCells t < r.cells → exec (.refillComplete t q 0 n) s = .next s) ∧
      (r.cells ≤ s.freeCells t → ∃ u x l, exec (.refillComplete t q 0 n) s = .next u ∧ (u.voq t q).reading = false ∧ (u.voq t q).seg = rest ∧
        (u.voq t q).head = (s.voq t q).head ++ x :: l ∧ x.mask = r.mask ∧ (u.frame t x.fid).data = r.data ∧ (u.frame t x.fid).refilled = true ∧
        (u.frame t x.fid).refs = 1 ∧ u.anvUsed t r.m.iport r.m.ipri = s.anvUsed t r.m.iport r.m.ipri - r.raw.length ∧
        u.rdw .cntRefillBytes = s.rdw .cntRefillBytes + BitVec.ofNat 64 r.raw.length) ∧
      (∃ u l, exec (.refillComplete t q 1 n) s = .next u ∧ (u.voq t q).seg = rest ∧ (u.voq t q).head = (s.voq t q).head ++ l ∧
        u.rdw .dropCnt t 15 = s.rdw .dropCnt t 15 + 1#64 ∧ u.rdw .cntDataErr = s.rdw .cntDataErr + 1#64) ∧
      (let last := (r.pos / 4080 + 1) * 4080
       ∃ u, exec (.refillComplete t q 2 n) s = .next u ∧ (last < r.pos + r.raw.length → (u.voq t q).reading = false) ∧
        u.rdw .cntDataErr = s.rdw .cntDataErr + 1#64 ∧ u.rdw .dropCnt t 16 = s.rdw .dropCnt t 16 +
          BitVec.ofNat 64 (((s.voq t q).seg.filter (fun x => decide (last < x.pos + x.raw.length))).length) ∧
        ∀ x, x ∈ (u.voq t q).seg ↔ x ∈ (s.voq t q).seg ∧ x.pos + x.raw.length ≤ last))

/-- From R261, R269 and R458: a group's cache below 1,024 entries takes a ring page's 1,022 indices, and the page, which is free with them, one above
3,072 gives back as many to a ring page; EN at 0 lets nothing more wait to spill, and EN at 1 allows it again; READY and the free rings come back
once Anvil is powered. -/
def Sys2Proof.Machine.Claims.AnvilControl : Prop :=
  (∀ (s : State) (g : Fin 8),
    (let v := s.group g
     (∀ x l, v.count < 1024 → v.ring = x :: l → ∃ u, exec (.freeCacheRefill g) s = .next u ∧ OnlyRegs [] s u ∧ OnlyWide [] s u ∧
       u.group g = { v with cache := v.cache ++ x.page :: x.idx, ring := l }) ∧
     (v.count < 1024 → v.ring = [] → ∃ u, exec (.freeCacheRefill g) s = .next u ∧ OnlyRegs [] s u ∧ OnlyWide [] s u ∧
       u.group g = { v with hi := min (v.hi + 1023) 3145728 }) ∧
     (1024 ≤ v.count → exec (.freeCacheRefill g) s = .next s) ∧
     (3072 < v.count → 1023 ≤ v.cache.length → ∃ u x, exec (.freeCacheWriteback g) s = .next u ∧ OnlyRegs [] s u ∧ OnlyWide [] s u ∧
       u.group g = { v with cache := v.cache.drop 1023, ring := x :: v.ring } ∧ v.cache = x.page :: x.idx ++ v.cache.drop 1023) ∧
     (3072 < v.count → v.cache.length < 1023 → v.ring = [] → ∃ u, exec (.freeCacheWriteback g) s = .next u ∧ OnlyRegs [] s u ∧
       u.group g = { v with hi := v.hi - 1023 }) ∧
     (v.count ≤ 3072 → exec (.freeCacheWriteback g) s = .next s))) ∧
  ∀ s : State,
    (s.flag F.anvilCtl_EN = true → exec .anvilEnSet s = .next s ∧ ∃ u, exec .anvilEnClear s = .next u ∧ u.flag F.anvilCtl_EN = false ∧
      (∀ t q, (s.voq t q).spill = true → (u.voq t q).due = [] ∧ (u.voq t q).seg = (s.voq t q).seg) ∧ ∀ t q, (s.voq t q).spill = false →
        (u.voq t q).spill = false) ∧
    (s.flag F.anvilCtl_EN = false → exec .anvilEnClear s = .next s ∧ ∃ u, exec .anvilEnSet s = .next u ∧ u.flag F.anvilCtl_EN = true ∧
      u.flag F.anvilStatus_DRAINED = false ∧ (∀ t q, (u.voq t q).seg = (s.voq t q).seg) ∧ u.tm.anvil = s.tm.anvil ∧
      OnlyRegs [.anvilCtl, .anvilStatus, .pwrStatus] s u) ∧
    (s.flag F.anvilCtl_EN = false ∨ s.flag F.anvilStatus_READY = true ∨ s.power.gddrOn = false → exec .anvilPowerUpDone s = .next s) ∧
    (s.flag F.anvilCtl_EN = true → s.flag F.anvilStatus_READY = false → s.power.gddrOn = true → ∃ u, exec .anvilPowerUpDone s = .next u ∧
      u.flag F.anvilStatus_READY = true ∧ OnlyRegs [.anvilStatus, .grpFree] s u ∧ OnlyWide [] s u ∧
      ∀ g : Fin 8, u.group g = { hi := 3069 } ∧ u.fget F.grpFree_V 0 g = s.groupPages g % 2 ^ 22)

/-- Spill to Anvil, refill, the free caches and ANVIL_CTL. -/
def Obligations.SpillRefillAndAnvilControl : Prop :=
  Claims.SpillAndRefill ∧ Claims.AnvilControl

/-- From R282, R283, R285, R287 and R290: a multicast head that has waited MC_HOLD goes to the ports that can take it and skips the others; a
port down for DOWN_HOLD has every queue flushed in every tile; VOQ_CTL queries a queue or ends its safe state. -/
def Obligations.HeldQueues : Prop :=
  ∀ (s : State) (t : TileIx),
    (∀ (q : Fin 128) (r : Ref) (rest : List Ref), (s.voq t (4096 + q.val)).head = r :: rest → (s.voq t (4096 + q.val)).granted = 0 →
      (s.voq t (4096 + q.val)).crossing = none →
      (let ports := maskPorts (q.val / 8) r.mask
       let ok := s.takers (q.val % 8) (s.frame t r.fid).len ports
       (∀ p ∈ ok, p ∈ ports ∧ s.canTake p (q.val % 8) (s.frame t r.fid).len = true) ∧
       (ok ≠ [] → ∃ u x, exec (.mcHoldExpire t q) s = .next u ∧ (u.voq t (4096 + q.val)).head = x :: rest ∧ x.fid = r.fid ∧
         (u.voq t (4096 + q.val)).granted ≠ 0 ∧ x.mask = (u.voq t (4096 + q.val)).granted ∧ (∀ p, p ∈ maskPorts (q.val / 8) x.mask ↔ p ∈ ok) ∧
         u.rdw .cntMcSkip (s.tileOf (32 * (q.val / 8))) = s.rdw .cntMcSkip (s.tileOf (32 * (q.val / 8))) + BitVec.ofNat 64 (ports.length - ok.length)) ∧
       (ok = [] → (s.voq t (4096 + q.val)).spill = false → s.anvilOpen = false → ∃ u, exec (.mcHoldExpire t q) s = .next u ∧
         (u.voq t (4096 + q.val)).head = rest ∧
         u.rdw .cntMcSkip (s.tileOf (32 * (q.val / 8))) = s.rdw .cntMcSkip (s.tileOf (32 * (q.val / 8))) + BitVec.ofNat 64 ports.length))) ∧
    (∀ p : PortIx, s.isUp p = false → s.portEnabled p = true → (s.np p).downHeld = false → ∃ u, exec (.downHoldExpire p) s = .next u ∧
      (u.np p).downHeld = true ∧ (∀ c : ClassIx, (u.nc p c).q = []) ∧ ∀ (x : TileIx) (c : ClassIx),
        (u.voq x (8 * p + c)).head = [] ∧ (u.voq x (8 * p + c)).due = [] ∧ (u.voq x (8 * p + c)).seg = [] ∧ (u.voq x (8 * p + c)).behind = []) ∧
    (∀ p : PortIx, s.isUp p = true → exec (.downHoldExpire p) s = .next s) ∧
    ∀ v : Word,
      (let q := if bitAt v.toNat 12 then 4096 + bits v.toNat 11 0 % 128 else bits v.toNat 11 0
       s.tileOn t = true → (∃ u, exec (.voqQuery t v) s = .next u ∧ u.fget F.voqData0_SPILL t = b2n (s.voq t q).spill ∧
         u.fget F.voqData0_SAFE t = b2n (s.voq t q).safe ∧ u.rd .voqData1 t = BitVec.ofNat 32 (ceilDiv (s.voq t q).anvBytes 1024) ∧
         u.tm = s.tm ∧ OnlyRegs [.voqCtl, .voqData0, .voqData1] s u) ∧
       (∃ u, exec (.voqLeaveSafe t v) s = .next u ∧ u.voq t q = { s.voq t q with safe := false } ∧
         (∀ x y, (x, y) ≠ (t.val, q) → u.voq x y = s.voq x y) ∧ OnlyRegs [.voqCtl] s u))

/-- The next cell of tile `t`'s free list has a state bit that says free (R254): the first of those freed, or with none the next one never taken. -/
def Sys2Proof.Machine.CellAtHand (s : State) (t : Nat) : Prop :=
  (∃ c l, (s.buf t).freed = c :: l ∧ (s.buf t).inUse.contains c = false) ∨
  ((s.buf t).freed = [] ∧ (s.buf t).fresh < 65536 ∧ (s.buf t).inUse.contains (s.buf t).fresh = false ∧
    (s.buf t).withdrawn.contains (s.buf t).fresh = false)

/-- From R44, R247, R254, R257, R258 and R272: the first cell of a frame of a lossy PG; a write of PG_CFG or PFC_CFG never raises the reserved total above
61,440; the MAC's verdict on the last beat. -/
def Obligations.CellsAndVerdicts : Prop :=
  ∀ (s : State) (p : PortIx),
    (∀ (bs : List Byte), s.isUp p = true → s.tileOn (s.tileOf p) = true → s.rxFid (s.tileOf p) p = none → (s.rxCtl p).isEmpty = true →
      (s.rxPauseEn p = false ∨ isPause bs = false) → CellAtHand s (s.tileOf p) → bs ≠ [] → bs.length ≤ 64 → s.lossless p (s.ipriOf p bs) = false →
      (let t := s.tileOf p
       let i := s.ipriOf p bs
       (0 < s.sharedFree t → s.sharedUsed p i < s.pgLimit p i → ∃ u fid, exec (.beatArrival p bs) s = .next u ∧ u.rxFid t p = some fid ∧
         (u.frame t fid).data = bs ∧ (u.frame t fid).m.iport = p ∧ (u.frame t fid).cells.length = 1 ∧
         u.sharedUsed p i = s.sharedUsed p i + 1 ∧ u.freeCells t + 1 = s.freeCells t) ∧
       (0 < s.sharedFree t → s.pgLimit p i ≤ s.sharedUsed p i → ∃ u, exec (.beatArrival p bs) s = .next u ∧
         u.rdw .dropCnt t 3 = s.rdw .dropCnt t 3 + 1#64 ∧ u.freeCells t = s.freeCells t) ∧
       (s.sharedFree t = 0 → ∃ u, exec (.beatArrival p bs) s = .next u ∧ u.rdw .dropCnt t 4 = s.rdw .dropCnt t 4 + 1#64 ∧
         u.freeCells t = s.freeCells t))) ∧
    ((∀ bs, s.isUp p = false → exec (.beatArrival p bs) s = .next s ∧ ∀ g l, exec (.lastBeatArrival p bs g l) s = .next s)) ∧
    (∀ bs, s.isUp p = true → s.tileOn (s.tileOf p) = true → s.rxFid (s.tileOf p) p = none → (s.rxCtl p).isEmpty = true → s.rxPauseEn p = true →
      isPause bs = true → bs.length ≤ 64 → ∃ u, exec (.beatArrival p bs) s = .next u ∧ u.rxCtl p = bs ∧ u.rxFid (s.tileOf p) p = none ∧
        OnlyRegs [] s u ∧ OnlyWide [] s u) ∧
    (∀ fid bs good fec, s.isUp p = true → s.tileOn (s.tileOf p) = true → s.rxFid (s.tileOf p) p = some fid → (s.rxCtl p).isEmpty = true →
      bs.length ≤ 64 → (s.frame (s.tileOf p) fid).dead = none → (s.frame (s.tileOf p) fid).bad = false → (s.frame (s.tileOf p) fid).ct = false →
      (s.frame (s.tileOf p) fid).m.iport = p → (s.frame (s.tileOf p) fid).data.length + bs.length ≤ 256 * (s.frame (s.tileOf p) fid).cells.length →
      (let t := s.tileOf p
       let n := (s.frame t fid).rxLen + bs.length
       (s.maxFrame p < n → ∃ u, exec (.lastBeatArrival p bs good fec) s = .next u ∧ u.rxFid t p = none ∧
         u.rdw .dropCnt t 1 = s.rdw .dropCnt t 1 + 1#64 ∧ u.rdw .dropCnt t 0 = s.rdw .dropCnt t 0) ∧
       (n ≤ s.maxFrame p → (good = false ∨ s.fecGood p fec = false ∨ n < 64) → ∃ u, exec (.lastBeatArrival p bs good fec) s = .next u ∧ u.rxFid t p = none ∧
         u.rdw .dropCnt t 0 = s.rdw .dropCnt t 0 + 1#64 ∧ u.rdw .dropCnt t 1 = s.rdw .dropCnt t 1) ∧
       (n ≤ s.maxFrame p → good = true → s.fecGood p fec = true → 64 ≤ n → ∃ u, exec (.lastBeatArrival p bs good fec) s = .next u ∧ u.rxFid t p = none ∧
         u.rdw .dropCnt t 0 = s.rdw .dropCnt t 0 ∧ u.rdw .dropCnt t 1 = s.rdw .dropCnt t 1))) ∧
    (s.tileOn (s.tileOf p) = false → (∀ i w v, exec (.pgCfgWrite p i w v) s = .next s) ∧ ∀ v, exec (.pfcCfgWrite p v) s = .next s) ∧
    (∀ (i : ClassIx) (w : Fin 4) (v : Word), s.tileOn (s.tileOf p) = true → ∃ u, exec (.pgCfgWrite p i w v) s = .next u ∧
      u.reserved (s.tileOf p) ≤ max 61440 (s.reserved (s.tileOf p)) ∧
      (w = 1 → (u.fget F.pgCfg1_HEADROOM p i = bits v.toNat 15 0 ∨ u = s)) ∧ (w = 0 → u.rd .pgCfg0 p i = v)) ∧
    ∀ v : Word, s.tileOn (s.tileOf p) = true → ∃ u, exec (.pfcCfgWrite p v) s = .next u ∧ u.reserved (s.tileOf p) ≤ max 61440 (s.reserved (s.tileOf p)) ∧
      u.fget F.pfcCfg_RX_EN p = bits v.toNat 10 10 ∧
      (u.fget F.pfcCfg_MODE p = bits v.toNat 1 0 ∨ u.fget F.pfcCfg_MODE p = s.fget F.pfcCfg_MODE p)

/-- From R313, R317, R318, R319 and R324: gates and shapers. -/
def Obligations.GatesAndShapers : Prop :=
  ∀ (s : State) (p : PortIx),
    (s.hz = false → s.flag F.gateCfg_GATE_EN p = true → s.flag F.gateStatus_STARTED p = true →
      (let k := s.fget F.gateStatus_CUR_ENTRY p + 1
       (k < (s.operList p).length → (s.np p).cycle + entryStart (s.operList p) k ≤ s.ptpNs → ∃ u, exec (.gateEdge p) s = .next u ∧
         u.fget F.gateStatus_CUR_ENTRY p = k ∧ u.fget F.gateStatus_GATES p = (nth (s.operList p) k (0, 0)).1 ∧ OnlyRegs [.gateStatus] s u ∧
         u.tm = s.tm) ∧
       ((s.operList p).length ≤ k → exec (.gateEdge p) s = .next s))) ∧
    (s.tileOn (s.tileOf p) = false → exec (.gateSwapRequest p) s = .next s ∧ exec (.gateEnable p) s = .next s ∧ exec (.gateDisable p) s = .next s ∧
      ∀ k r v, exec (.shaperWrite p k r v) s = .next s) ∧
    (s.tileOn (s.tileOf p) = true → s.hz = false → s.flag F.gateCfg_GATE_EN p = true → ∃ u, exec (.gateSwapRequest p) s = .next u ∧ u.flag F.gateStatus_PENDING p = true ∧
      u.fget F.gateStatus_OPER p = s.fget F.gateStatus_OPER p ∧ OnlyRegs [.gateStatus] s u ∧ u.tm = s.tm) ∧
    (s.tileOn (s.tileOf p) = true → s.flag F.gateCfg_GATE_EN p = false → ∃ u, exec (.gateSwapRequest p) s = .next u ∧ u.flag F.gateStatus_PENDING p = false ∧
      u.fget F.gateStatus_OPER p = 1 - s.fget F.gateStatus_OPER p) ∧
    (s.tileOn (s.tileOf p) = true → ∃ u, exec (.gateDisable p) s = .next u ∧ u.flag F.gateCfg_GATE_EN p = false ∧ (∀ c, u.gateOpen p c = true) ∧
      OnlyRegs [.gateCfg, .gateStatus] s u) ∧
    (s.tileOn (s.tileOf p) = true → ∃ u, exec (.gateEnable p) s = .next u ∧ u.flag F.gateCfg_GATE_EN p = true ∧ OnlyRegs [.gateCfg, .gateStatus] s u ∧
      (s.flag F.gateCfg_GATE_EN p = false → u.flag F.gateStatus_STARTED p = false ∧ ∀ c : ClassIx, u.gateOpen p c = true)) ∧
    ∀ (k : Fin 9) (r : Fin 4) (v : Word), s.tileOn (s.tileOf p) = true → ∃ u, exec (.shaperWrite p k r v) s = .next u ∧
      u.bucketLevel p (2 * k.val + r.val % 2) = ((u.bucketCfg p (2 * k.val + r.val % 2)).2.1 * 2 ^ 32 : Nat) ∧
      (∀ b, b < 18 → b ≠ 2 * k.val + r.val % 2 → u.bucketLevel p b = s.bucketLevel p b) ∧
      OnlyRegs [.qshpCir, .qshpPir, .qshpCbs, .qshpPbs, .pshpCir, .pshpPir, .pshpCbs, .pshpPbs] s u ∧
      (k.val < 8 → r.val = 0 → u.rd .qshpCir p k = v &&& 0x803FFFFF#32) ∧ (k.val = 8 → r.val = 3 → u.rd .pshpPbs p = v &&& 0xFFFFFF#32)

/-! ### Halo -/

/-- From R343 to R346, R366 and R368: residence reports, the scanner's visits, FLUSH and FLOW_SEED. -/
def Obligations.FlowCache : Prop :=
  ∀ (s : State) (t : TileIx) (k : Fin 65536),
    (∀ gen res rest, (s.ht t).reports = (k.val, gen, res) :: rest → ∃ u, exec (.residenceReport t) s = .next u ∧ (u.ht t).reports = rest ∧
      OnlyRegs [] s u ∧ (if (s.flow t k).valid = true ∧ (s.flow t k).gen = gen ∧ s.flag F.flowCfg_EN = true
        then u.flow t k = { s.flow t k with peakRes := max (s.flow t k).peakRes res } else u.flow t k = s.flow t k)) ∧
    ((s.flow t k).valid = false → exec (.flowScanVisit t k) s = .next s) ∧
    ((s.flow t k).valid = true →
      (let v := s.flow t k
       let idle := v.lastNs + max 1 (s.fget F.flowTmo_IDLE_MS) * 1000000 < s.ptpNs
       let active := v.firstNs + max 1 (s.fget F.flowTmo_ACTIVE_S) * 1000000000 < s.ptpNs ∧ v.fresh = false
       let sent (u : State) (reason : Nat) : Prop :=
         (s.flag F.flowCfg_EXPORT = false → (u.ht t).exports = (s.ht t).exports) ∧
         (s.flag F.flowCfg_EXPORT = true → (s.ht t).exports.length < 1024 →
           (u.ht t).exports = (s.ht t).exports ++ [(s.fget F.flowCfg_RING, flowRec t reason v)]) ∧
         (s.flag F.flowCfg_EXPORT = true → 1024 ≤ (s.ht t).exports.length → (u.ht t).exports = (s.ht t).exports ∧
           u.rdw .cntFlowLost = s.rdw .cntFlowLost + 1#64)
       (s.flag F.haloStatus_FLUSHING = true → ∃ u, exec (.flowScanVisit t k) s = .next u ∧ sent u 3 ∧ u.flow t k = { gen := v.gen }) ∧
       (s.flag F.haloStatus_FLUSHING = false → idle → ∃ u, exec (.flowScanVisit t k) s = .next u ∧ sent u 0 ∧ u.flow t k = { gen := v.gen }) ∧
       (s.flag F.haloStatus_FLUSHING = false → ¬ idle → active → ∃ u, exec (.flowScanVisit t k) s = .next u ∧ sent u 2 ∧
         u.flow t k = { v with packets := 0, bytes := 0, peakRes := 0, dropPkts := 0, fresh := true }) ∧
       (s.flag F.haloStatus_FLUSHING = false → ¬ idle → ¬ active → exec (.flowScanVisit t k) s = .next s))) ∧
    (∃ u, exec .flowFlush s = .next u ∧ u.flag F.haloStatus_FLUSHING = true ∧ u.halo = s.halo ∧ OnlyRegs [.haloStatus] s u) ∧
    (s.flag F.haloStatus_FLUSHING = false → exec .flowFlushDone s = .next s) ∧
    (s.flag F.haloStatus_FLUSHING = true → ∃ u, exec .flowFlushDone s = .next u ∧ u.flag F.haloStatus_FLUSHING = false ∧
      (∀ ti x, (u.flow ti x).valid = false) ∧ u.tm = s.tm ∧ u.te = s.te) ∧
    ∀ v : Word, ((∀ ti x, (s.flow ti x).valid = false) → twf (fun _ => ({} : HaloTile)) s.halo.tiles = true →
        (∀ e ∈ s.halo.tiles, twf (fun _ => ({} : Flow)) e.2.flows = true) → ∃ u, exec (.flowSeedWrite v) s = .next u ∧ u.rd .flowSeed = v ∧
          OnlyRegs [.flowSeed] s u ∧ u.halo = s.halo) ∧
      ((s.flow t k).valid = true → exec (.flowSeedWrite v) s = .next s)

/-- From R327 and R338 to R340: a sample instant adds each class's head sojourn and depth to its DELAY and DEPTH histograms, in the bin of R339,
and a bin that wraps sets its WRAP bit; HIST_CMD CLEAR zeroes every bin and WRAP word. -/
def Sys2Proof.Machine.Claims.SamplesAndHistograms : Prop :=
  (∀ v scale, (histBin v scale = 0 ↔ v < 2 ^ scale) ∧ histBin v scale ≤ 31 ∧
    ∀ b, 1 ≤ b → b ≤ 30 → (histBin v scale = b ↔ 2 ^ (b - 1) * 2 ^ scale ≤ v ∧ v < 2 ^ b * 2 ^ scale)) ∧
  ∀ (s : State) (t : TileIx),
    (s.flag F.sampleCfg_EN t = false ∨ s.tileOn t = false → exec (.sampleInstant t) s = .next s) ∧
    (s.flag F.sampleCfg_EN t = true → s.tileOn t = true → ∃ u, exec (.sampleInstant t) s = .next u ∧
      OnlyRegs [.histClass, .histPort, .wrapClass, .wrapPort] s u ∧ u.tm = s.tm ∧ ∀ (p : PortIx) (c : ClassIx), p.val ∈ s.tilePorts t →
        (let b := histBin (s.headSojourn p c) (s.fget F.histCfg_LAT_SCALE)
         let d := histBin (s.depth p c) (s.fget F.histCfg_DEPTH_SCALE)
         u.rd .histClass p ((c.val * 4 + 1) * 32 + b) = s.rd .histClass p ((c.val * 4 + 1) * 32 + b) + 1 ∧
         (s.rd .histClass p ((c.val * 4 + 1) * 32 + b) = 0xFFFFFFFF#32 → (u.rd .wrapClass p (c.val * 4 + 1)).getLsbD b = true) ∧
         u.rd .histClass p ((c.val * 4 + 2) * 32 + d) = s.rd .histClass p ((c.val * 4 + 2) * 32 + d) + 1 ∧
         (∀ j, j < 32 → j ≠ d → u.rd .histClass p ((c.val * 4 + 2) * 32 + j) = s.rd .histClass p ((c.val * 4 + 2) * 32 + j)) ∧
         ∀ j, j < 32 → u.rd .histClass p (c.val * 4 * 32 + j) = s.rd .histClass p (c.val * 4 * 32 + j))) ∧
    ∃ u, exec .histClear s = .next u ∧ (∀ p j, u.rd .histClass p j = 0 ∧ u.rd .histPort p j = 0 ∧ u.rd .wrapClass p j = 0 ∧ u.rd .wrapPort p j = 0) ∧
      OnlyRegs [.histClass, .histPort, .wrapClass, .wrapPort] s u ∧ OnlyWide [.histClass, .histPort, .wrapClass, .wrapPort] s u ∧ u.halo = s.halo

/-- Function `f` writes under a right (R373, R378, R484): READY is 1, it is not frozen, and it holds right `b`. -/
def Sys2Proof.Machine.MayWrite (s : State) (f b : Nat) : Prop :=
  s.flag F.dawnStatus_READY = true ∧ s.flag F.fnStatus_FROZEN f = false ∧ s.hasRight f b = true

/-- From R354, R358, R361, R362 and R373: STAT_CMD clears a pair and its sticky bits; PC_CFG belongs to its group's owner, with CLEAR; GRP_CTL's OWNER
to PF0 and USER_EN to the owner; BAR4 is read-only, and its page reads 0 to any but its owner while USER_EN is 1. A function without the telemetry right that writes PC_CFG or
GRP_CTL is frozen. -/
def Sys2Proof.Machine.Claims.CountersAndGroups : Prop :=
  ∀ (s : State) (f : FnIx),
    (∀ (i : Fin 8192) (t : TileIx) (all : Bool), ∃ u, exec (.statClear i t all) s = .next u ∧ OnlyRegs [.statOvf] s u ∧ OnlyWide [.statCnt] s u ∧
      ∀ x : TileIx, ((all = true ∨ x = t) → u.rdw .statCnt x (2 * i.val) = 0 ∧ u.rdw .statCnt x (2 * i.val + 1) = 0 ∧
          (u.rd .statOvf x (2 * i.val / 32)).getLsbD (2 * i.val % 32) = false ∧ (u.rd .statOvf x (2 * i.val / 32)).getLsbD (2 * i.val % 32 + 1) = false) ∧
        (all = false → x ≠ t → ∀ j, u.rdw .statCnt x j = s.rdw .statCnt x j ∧ u.rd .statOvf x j = s.rd .statOvf x j) ∧
        ∀ j : Fin 16384, j.val / 2 ≠ i.val → u.rdw .statCnt x j = s.rdw .statCnt x j) ∧
    (∀ (t : TileIx) (k : Fin 2048) (g : Fin 256) (v : Word),
      (s.flag F.dawnStatus_READY = false ∨ s.flag F.fnStatus_FROZEN f = true →
        exec (.pcCfgWrite f t k v) s = .next s ∧ exec (.grpCtlWrite f g v) s = .next s) ∧
      (s.flag F.dawnStatus_READY = true → s.flag F.fnStatus_FROZEN f = false → s.hasRight f 3 = false →
        (∃ u, exec (.pcCfgWrite f t k v) s = .next u ∧ u.flag F.fnStatus_FROZEN f = true ∧ u.fget F.fnStatus_KIND f = 1 ∧
          ∀ j, u.rd .pcCfg t j = s.rd .pcCfg t j) ∧
        ∃ u, exec (.grpCtlWrite f g v) s = .next u ∧ u.flag F.fnStatus_FROZEN f = true ∧ u.fget F.fnStatus_KIND f = 1 ∧
          u.rd .grpCtl g = s.rd .grpCtl g)) ∧
    (∀ (t : TileIx) (k : Fin 2048) (v : Word), MayWrite s f 3 →
      (s.tileOn t = false → exec (.pcCfgWrite f t k v) s = .next s) ∧
      (s.tileOn t = true → s.fget F.grpCtl_OWNER (16 * t.val + k.val / 128) = f → ∃ u, exec (.pcCfgWrite f t k v) s = .next u ∧ u.rd .pcCfg t k = v &&& 0xFFFFFF#32 ∧
        OnlyRegs [.pcCfg, .pcOvf] s u ∧ OnlyWide [.pcVal] s u ∧ (∀ j : Fin 2048, j ≠ k → u.rdw .pcVal t j = s.rdw .pcVal t j) ∧
        (v.getLsbD 31 = true → u.rdw .pcVal t k = 0 ∧ (u.rd .pcOvf t (k.val / 32)).getLsbD (k.val % 32) = false) ∧
        (v.getLsbD 31 = false → u.rdw .pcVal t k = s.rdw .pcVal t k ∧ ∀ j, u.rd .pcOvf t j = s.rd .pcOvf t j)) ∧
      (s.tileOn t = true → s.fget F.grpCtl_OWNER (16 * t.val + k.val / 128) ≠ f → exec (.pcCfgWrite f t k v) s = .next (s.bump .cntForeignWr))) ∧
    (∀ (g : Fin 256) (v : Word), MayWrite s f 3 →
      (let old := s.fget F.grpCtl_OWNER g
       let own := bits v.toNat 1 0
       ∃ u, exec (.grpCtlWrite f g v) s = .next u ∧ OnlyRegs [.grpCtl] s u ∧ (∀ x : Fin 256, x ≠ g → u.rd .grpCtl x = s.rd .grpCtl x) ∧
         (f = 0 → own ≠ old → u.fget F.grpCtl_OWNER g = own ∧ u.flag F.grpCtl_USER_EN g = false) ∧
         (f.val = old → (f = 0 → own = old) → u.fget F.grpCtl_OWNER g = old ∧ u.flag F.grpCtl_USER_EN g = bitAt v.toNat 2) ∧
         (f.val ≠ old → f ≠ 0 → u.rd .grpCtl g = s.rd .grpCtl g ∧ u.rdw .cntForeignWr = s.rdw .cntForeignWr + 1#64) ∧
         (f.val ≠ old → f = 0 → own = old → u.rd .grpCtl g = s.rd .grpCtl g))) ∧
    (∀ (off : Nat) (v : DWord), s.flag F.dawnStatus_READY = false → exec (.bar4Write f off v) s = .next s) ∧
    (∀ (off : Nat) (v : DWord), s.flag F.dawnStatus_READY = true → ∃ u, exec (.bar4Write f off v) s = .next u ∧ u.rdw .cntBar4Wr = s.rdw .cntBar4Wr + 1#64 ∧ OnlyRegs [] s u ∧
      OnlyWide [.cntBar4Wr] s u ∧ u.halo = s.halo ∧ u.host = s.host) ∧
    ∀ g off, (s.fget F.grpCtl_OWNER g ≠ f ∨ s.flag F.grpCtl_USER_EN g = false) → s.bar4Read f g off = 0

/-- Samples, histograms, counters and counter groups. -/
def Obligations.SamplesCountersAndGroups : Prop :=
  Claims.SamplesAndHistograms ∧ Claims.CountersAndGroups

/-! ### Host interface and DMA -/

/-- OWN of a fetched copy (R383). -/
@[reducible] def Sys2Proof.Machine.OwnSet (d : List Byte) : Prop := bitAt (byteAt d 31) 7 = true

/-- From R378, R380, R382, R391 and R484: the enable of a ring: the checks and their ERROR with cause CFG, the descriptor area outside the owner's windows
as a violation of kind 4, and ACTIVE with H and T at position 0. -/
def Sys2Proof.Machine.Claims.RingEnable : Prop :=
  ∀ (s : State) (r : RingIx) (v : Word),
    (s.ringState r ≠ 0 → exec (.ringEnable r v) s = .next s) ∧
    (s.flag F.dawnStatus_READY = false ∨ s.flag F.fnStatus_FROZEN (s.ringOwnerOf r) = true → exec (.ringEnable r v) s = .next s) ∧
    (s.ringState r = 0 → s.flag F.dawnStatus_READY = true → s.flag F.fnStatus_FROZEN (s.ringOwnerOf r) = false →
      (let f := s.ringOwnerOf r
       let ty := s.ringTypeOf r
       let z := bits v.toNat 4 0
       let c := bits v.toNat 14 5
       let base := (s.rdw .ringBase r).toNat
       let bad := s.ringRightOk r = false ∨ z < 6 ∨ 16 < z ∨ ((ty = 1 ∨ ty = 3) ∧ (s.ringTypeOf c ≠ 6 ∨ s.ringOwnerOf c ≠ f)) ∨
         (ty = 3 ∧ 4 ≤ ((List.range 1024).filter (fun q => decide (s.ringTypeOf q = 3) && decide (s.ringState q = 1))).length)
       let area := s.hostOk f base (32 * 2 ^ z) false = true ∧ s.hostOk f base (32 * 2 ^ z) true = true
       (bad → ∃ u, exec (.ringEnable r v) s = .next u ∧ u.ringState r = 2 ∧ u.fget F.ringErr_CAUSE r = 5 ∧ u.host.mem = s.host.mem) ∧
       (¬ bad → area → ∃ u, exec (.ringEnable r v) s = .next u ∧ u.ringState r = 1 ∧ u.ringH r = 0 ∧ u.ringT r = 0 ∧
         u.ringSize r = 2 ^ z ∧ (u.ring r).fetched = [] ∧ (u.ring r).started = [] ∧ u.host.mem = s.host.mem ∧
         OnlyRegs [.ringCtl, .ringStatus, .ringHead, .ringTail, .ringErr] s u) ∧
       (¬ bad → ¬ area → ∃ u, exec (.ringEnable r v) s = .next u ∧ u.ringState r = 0 ∧
         u.flag F.fnStatus_FROZEN f = true ∧ u.fget F.fnStatus_KIND f = 4 ∧ u.host.mem = s.host.mem)))

/-- From R377, R378, R384, R385, R389, R390, R402 and R484: doorbells and INVALIDATE: who may write them, what they set, and the bad doorbell. -/
def Sys2Proof.Machine.Claims.DoorbellAndInvalidate : Prop :=
  ∀ (s : State) (f : FnIx) (r : RingIx) (v : Word),
    (s.flag F.dawnStatus_READY = false ∨ s.flag F.fnStatus_FROZEN f = true → exec (.doorbellWrite f r v) s = .next s ∧ exec (.invalidate f r v) s = .next s) ∧
    (s.flag F.dawnStatus_READY = true → s.flag F.fnStatus_FROZEN f = false → s.ringOwnerOf r ≠ f → ∃ u, exec (.doorbellWrite f r v) s = .next u ∧
      u.flag F.fnStatus_FROZEN f = true ∧ u.fget F.fnStatus_KIND f = 2 ∧ u.rdw .violAddr f = BitVec.ofNat 64 (r * 4096) ∧
      (∀ q : RingIx, s.ringOwnerOf q = f → s.ringState q = 1 ∨ s.ringState q = 2 → u.ringState q = 3) ∧ u.rd .ringTail r = s.rd .ringTail r) ∧
    (s.flag F.dawnStatus_READY = true → s.flag F.fnStatus_FROZEN f = false → s.ringOwnerOf r = f → s.ringState r ≠ 1 →
      exec (.doorbellWrite f r v) s = .next (s.bump .cntDbIgnored) ∧ exec (.invalidate f r v) s = .next (s.bump .cntDbIgnored)) ∧
    (s.flag F.dawnStatus_READY = true → s.flag F.fnStatus_FROZEN f = false → s.ringOwnerOf r = f → s.ringState r = 1 →
      (let S := s.ringSize r
       let idx := v.toNat % 65536
       let t := idx + bits v.toNat 16 16 * S
       let add := (t + 2 * S - s.ringT r) % (2 * S)
       (idx < S → add ≤ S - s.ringN r → ∃ u, exec (.doorbellWrite f r v) s = .next u ∧ u.ringT r = t ∧ u.ringH r = s.ringH r ∧
         OnlyRegs [.ringTail] s u ∧ OnlyWide [] s u ∧ u.host = s.host) ∧
       ((S ≤ idx ∨ S - s.ringN r < add) → ∃ u, exec (.doorbellWrite f r v) s = .next u ∧ u.ringState r = 2 ∧
         u.fget F.ringErr_CAUSE r = 3 ∧ u.fget F.ringErr_INDEX r = idx ∧ u.ringT r = s.ringT r ∧ u.host.mem = s.host.mem) ∧
       ∃ u w, exec (.invalidate f r v) s = .next u ∧ (u.ring r).fetched = [] ∧ (u.ring r).started = (s.ring r).started ∧
         (u.ringPageRead r 8).getLsbD 31 = false ∧ u.ringH r = s.ringH r ∧ u.ringT r = s.ringT r ∧ exec (.invalidateDone r) u = .next w ∧
         w.ringPageRead r 8 = posWord S (s.ringH r) ||| 0x80000000#32)) ∧
    ((s.ring r).invBusy = false → exec (.invalidateDone r) s = .next s)

/-- Enabling rings, doorbells and INVALIDATE. -/
def Obligations.RingSetUpAndDoorbells : Prop :=
  Claims.RingEnable ∧ Claims.DoorbellAndInvalidate

/-- From R377, R386, R388, R391 and R399: fetching entries and starting them: 32 prefetched at most, OWN of the fetched copy, malformed descriptors,
and what a started entry of each type sets off. -/
def Obligations.DescriptorsStart : Prop :=
  ∀ (s : State) (r : RingIx), s.ringState r = 1 → s.blocked (s.ringOwnerOf r) = false →
    (∀ (es : List (List Byte)),
      (let q := s.ring r
       let ahead := q.started.length + q.fetched.length
       let can := min (32 - q.fetched.length) (s.ringN r - ahead)
       let first := s.ringH r + ahead
       let n := max 1 (min can es.length)
       let ok (k : Nat) : Prop := s.hostOk (s.ringOwnerOf r) (s.entryAddr r (first + k)) 32 false = true
       (can = 0 → ∀ good, exec (.descriptorFetch r es good) s = .next s) ∧
       (can ≠ 0 → (∀ k, k < n → ok k) → ∃ u, exec (.descriptorFetch r es true) s = .next u ∧
         (u.ring r).fetched.map Prod.snd = q.fetched.map Prod.snd ++ (es.take can).map (fun e => bytesAt e 0 32) ∧
         (q.fetched.length ≤ 32 → (u.ring r).fetched.length ≤ 32) ∧ OnlyRegs [.ringStatus] s u ∧ u.host.mem = s.host.mem) ∧
       (can ≠ 0 → (∀ k, k < n → ok k) → ∃ u, exec (.descriptorFetch r es false) s = .next u ∧ u.ringState r = 2 ∧
         u.fget F.ringErr_CAUSE r = 4) ∧
       (∀ k good, can ≠ 0 → k < n → ¬ ok k → (∀ j, j < k → ok j) → ∃ u, exec (.descriptorFetch r es good) s = .next u ∧
         u.flag F.fnStatus_FROZEN (s.ringOwnerOf r) = true ∧ u.fget F.fnStatus_KIND (s.ringOwnerOf r) = 4 ∧
         u.rdw .violAddr (s.ringOwnerOf r) = BitVec.ofNat 64 (s.entryAddr r (first + k)) ∧ u.host.mem = s.host.mem))) ∧
    ∀ (pos : Nat) (d data : List Byte) (rest : List (Nat × List Byte)), (s.ring r).fetched = (pos, d) :: rest →
      (¬ OwnSet d → s.ringTypeOf r = 1 ∨ s.ringTypeOf r = 3 ∨ s.ringTypeOf r = 7 → ∃ u, exec (.descriptorStart r data) s = .next u ∧
        u.ringState r = 2 ∧ u.fget F.ringErr_CAUSE r = 2 ∧ u.fget F.ringErr_INDEX r = pos % s.ringSize r % 65536) ∧
      (OwnSet d → s.ringTypeOf r = 1 → 64 ≤ s.fget F.ringStatus_HOLD r → exec (.descriptorStart r data) s = .next s) ∧
      (OwnSet d → s.ringTypeOf r = 1 → s.fget F.ringStatus_HOLD r < 64 →
        (let len := leNat (bytesAt d 8 2) % 16384
         let bad := 2 ≤ byteAt d 12 / 8 % 4 ∨ len = 0 ∨ (bitAt (byteAt d 12) 6 = true ∧ len < 64)
         (bad → ∃ u, exec (.descriptorStart r data) s = .next u ∧ u.ringState r = 2 ∧ u.fget F.ringErr_CAUSE r = 1) ∧
         (¬ bad → s.hostOk (s.ringOwnerOf r) (leNat (bytesAt d 0 8)) len false = true → ∃ u x, exec (.descriptorStart r data) s = .next u ∧
           (u.ring r).started = (s.ring r).started ++ [x] ∧ x.pos = pos ∧ x.desc = d ∧ x.res = none ∧ (u.ring r).fetched = rest ∧
           u.fget F.ringStatus_HOLD r = s.fget F.ringStatus_HOLD r + 1 ∧ u.host.mem = s.host.mem))) ∧
      (OwnSet d → s.ringTypeOf r = 3 → s.fget F.ringStatus_HOLD r < 64 →
        (let len := leNat (bytesAt d 16 2)
         let o := teOpOf (leNat (bytesAt d 0 4)) (leNat (bytesAt d 4 4)) (bytesAt data 0 len)
         ((s.teCheck o.op o.tid len).isSome = true → ∃ u, exec (.descriptorStart r data) s = .next u ∧ u.ringState r = 2 ∧
           u.fget F.ringErr_CAUSE r = 1) ∧
         (s.teCheck o.op o.tid len = none → len = 0 ∨ s.hostOk (s.ringOwnerOf r) (leNat (bytesAt d 8 8)) len false = true →
           ∃ u x y, exec (.descriptorStart r data) s = .next u ∧ (u.ring r).started = (s.ring r).started ++ [x] ∧ x.pos = pos ∧
             u.te.ops = s.te.ops ++ [(.ring r, y)] ∧ y.op = o.op ∧ y.tid = o.tid ∧ y.data = o.data))) ∧
      (OwnSet d → s.ringTypeOf r = 7 →
        (let n := byteAt d 8 % 32
         (2 ≤ byteAt d 8 / 32 % 4 ∨ s.chOwned (s.ringOwnerOf r) n = false → ∃ u, exec (.descriptorStart r data) s = .next u ∧
           u.ringState r = 2 ∧ u.fget F.ringErr_CAUSE r = 1) ∧
         (byteAt d 8 / 32 % 4 < 2 → s.chOwned (s.ringOwnerOf r) n = true →
           s.fget F.chStatus_STATE n ≠ 0 ∨ s.unusableBlk 4 = true → exec (.descriptorStart r data) s = .next s) ∧
         (byteAt d 8 / 32 % 4 < 2 → s.chOwned (s.ringOwnerOf r) n = true → s.fget F.chStatus_STATE n = 0 →
           s.unusableBlk 4 = false → s.ringSize r ≤ 65536 → s.hostOk (s.ringOwnerOf r) (s.entryAddr r pos) 32 true = true → ∃ u, exec (.descriptorStart r data) s = .next u ∧
             u.fget F.chStatus_STATE n = 1 ∧ u.rdw .chPc n = BitVec.ofNat 64 (leNat (bytesAt d 0 8) / 32 * 32) ∧
             u.ringH r = (s.ringH r + 1) % (2 * s.ringSize r) ∧ ¬ OwnSet (memGet u.host.mem (s.entryAddr r pos) 32) ∧
             ∀ a, (a < s.entryAddr r pos ∨ s.entryAddr r pos + 32 ≤ a) → tget u.host.mem a 0 = tget s.host.mem a 0)))

/-- From R391 and R393: the buffer of a TX entry has been read: a host read error, a frame that enters the tile as a new one, and an inject
entry for a port that takes none. -/
def Sys2Proof.Machine.Claims.TxBufferRead : Prop :=
  ∀ (s : State) (r : RingIx) (data : List Byte),
    (s.ringTypeOf r ≠ 1 ∨ (s.ring r).started.find? (fun x => !x.read) = none → ∀ ok, exec (.txBufferReadDone r data ok) s = .next s) ∧
    ∀ e, s.ringTypeOf r = 1 → (s.ring r).started.find? (fun x => !x.read) = some e →
      (∃ u, exec (.txBufferReadDone r data false) s = .next u ∧ u.ringState r = 2 ∧ u.fget F.ringErr_CAUSE r = 4 ∧ u.host.mem = s.host.mem) ∧
      (let p := leNat (bytesAt e.desc 10 2) % 512
       let t := s.tileOf p
       let mode := byteAt e.desc 12 / 8 % 4
       (s.tileOn t = true → (mode = 0 ∨ (s.portEnabled p = true ∧ s.fget F.portStatus_STATE p ≠ 8)) → ∃ u,
         exec (.txBufferReadDone r data true) s = .next u ∧ (u.buf t).nextFid = (s.buf t).nextFid + 1) ∧
       (mode ≠ 0 → (s.portEnabled p = false ∨ s.fget F.portStatus_STATE p = 8) → ∃ u, exec (.txBufferReadDone r data true) s = .next u ∧
         u.rdw .dropCnt t 9 = s.rdw .dropCnt t 9 + 1#64 ∧ u.tm = s.tm ∧ u.freeCells t = s.freeCells t))

/-- From R383, R387, R396, R397, R400 and R401: a completion or an event is written whole with OWN at 0, at the address of the ring's head entry
and nowhere else; while the ring holds no entry it waits. -/
def Sys2Proof.Machine.Claims.CompletionAndEventWrites : Prop :=
  ∀ (s : State) (c : RingIx),
    ((s.ring c).fetched = [] → exec (.completionWrite c) s = .next s ∧ exec (.eventWrite c) s = .next s) ∧
    ∀ (p : Nat) (d : List Byte) (more : List (Nat × List Byte)), s.ringState c = 1 → s.blocked (s.ringOwnerOf c) = false →
      (s.ring c).fetched = (p, d) :: more → OwnSet d → s.ringSize c ≤ 65536 → s.hostOk (s.ringOwnerOf c) (s.entryAddr c (s.ringH c)) 32 true = true →
      (let a0 := s.entryAddr c (s.ringH c)
       let frame (u : State) : Prop := u.ringH c = (s.ringH c + 1) % (2 * s.ringSize c) ∧ (u.ring c).fetched = more ∧
         (∀ a, (a < a0 ∨ a0 + 32 ≤ a) → tget u.host.mem a 0 = tget s.host.mem a 0)
       (∀ e rest, (s.ring c).ready = e :: rest → ∃ u, exec (.completionWrite c) s = .next u ∧ frame u ∧ (u.ring c).ready = rest ∧
         memGet u.host.mem a0 32 = complBytes (s.ringSize e.src) e ∧ u.fget F.ringStatus_HOLD e.src = s.fget F.ringStatus_HOLD e.src - 1 ∧
         (s.fget F.ringStatus_HOLD e.src ≤ 64 → u.flag F.ringStatus_CQ_STALL e.src = false)) ∧
       (∀ e rest, (s.ring c).events = e :: rest → ∃ u, exec (.eventWrite c) s = .next u ∧ frame u ∧ (u.ring c).events = rest ∧
         memGet u.host.mem a0 32 = leBytes 2 e.code ++ leBytes 2 (b2n e.lost) ++ leBytes 4 e.param ++ leBytes 8 e.timeNs ++
           leBytes 4 (s.ring c).evSeq ++ List.replicate 12 0 ∧ (u.ring c).evSeq = ((s.ring c).evSeq + 1) % 2 ^ 32))

/-- From R395: a telemetry record is packed after those of the open buffer, or waits while the ring holds no entry; a buffer that closes writes
its entry back. -/
def Sys2Proof.Machine.Claims.TelemetryBuffers : Prop :=
  ∀ (s : State) (r : RingIx), s.ringState r = 1 → s.ringTypeOf r = 4 → s.blocked (s.ringOwnerOf r) = false →
    (s.nextRec r = none → exec (.telemRecordWrite r) s = .next s) ∧
    ((s.ring r).started = [] → (s.ring r).fetched = [] → exec (.telemRecordWrite r) s = .next s) ∧
    (∀ rec v e more, s.nextRec r = some (rec, v) → (s.ring r).started = e :: more →
      (s.ring r).capBytes + rec.length ≤ leNat (bytesAt e.desc 8 4) →
      (let a0 := leNat (bytesAt e.desc 0 8) + (s.ring r).capBytes
       ∃ u, exec (.telemRecordWrite r) s = .next u ∧ memGet u.host.mem a0 rec.length = rec ∧ u.halo = v.halo ∧
         (u.ring r).capBytes = (s.ring r).capBytes + rec.length ∧ (u.ring r).capRecords = (s.ring r).capRecords + 1 ∧
         ∀ a, (a < a0 ∨ a0 + rec.length ≤ a) → tget u.host.mem a 0 = tget s.host.mem a 0)) ∧
    ((s.ring r).capRecords = 0 → exec (.telemBufferClose r) s = .next s) ∧
    (∀ e more, (s.ring r).capRecords ≠ 0 → (s.ring r).started = e :: more → s.hostOk (s.ringOwnerOf r) (s.entryAddr r e.pos) 32 true = true →
      ∃ u, exec (.telemBufferClose r) s = .next u ∧ (u.ring r).capRecords = 0 ∧ (u.ring r).capBytes = 0 ∧ (u.ring r).started = more ∧
        memGet u.host.mem (s.entryAddr r e.pos) 32 = leBytes 4 (s.ring r).capBytes ++ leBytes 4 (s.ring r).capRecords ++ leBytes 8 s.ns64 ++
          leBytes 1 (b2n (s.ring r).capLost) ++ List.replicate 15 0 ∧
        ∀ a, (a < s.entryAddr r e.pos ∨ s.entryAddr r e.pos + 32 ≤ a) → tget u.host.mem a 0 = tget s.host.mem a 0)

/-- Transmit buffers read; completions, events and telemetry records written. -/
def Obligations.EntriesAndBuffersWritten : Prop :=
  Claims.TxBufferRead ∧ Claims.CompletionAndEventWrites ∧ Claims.TelemetryBuffers

/-- From R363, R379, R403 and R405: a function-level reset, its end, and a moderated vector. -/
def Obligations.FunctionReset : Prop :=
  ∀ (s : State) (f : FnIx) (r : RingIx),
    (∃ u, exec (.functionLevelReset f) s = .next u ∧ u.flag F.fnStatus_FLR_BUSY f = true ∧ u.host.mem = s.host.mem ∧
      (s.ringOwnerOf r = f → u.ringState r = 0 ∧ u.ringH r = 0 ∧ u.ringT r = 0 ∧ u.rdw .ringBase r = s.rdw .ringBase r ∧
        u.ringOwnerOf r = f ∧ u.ringSize r = s.ringSize r ∧ (u.ring r).fetched = [] ∧ (u.ring r).started = []) ∧
      (s.ringOwnerOf r ≠ f → u.rd .ringStatus r = s.rd .ringStatus r ∧ u.rd .ringHead r = s.rd .ringHead r ∧ u.rd .ringCtl r = s.rd .ringCtl r) ∧
      (∀ n : ChIx, (s.chOwned f n = true → u.fget F.chStatus_STATE n = 0) ∧ (s.chOwned f n = false → u.rd .chStatus n = s.rd .chStatus n)) ∧
      (∀ g : Fin 256, (s.fget F.grpCtl_OWNER g = f → u.flag F.grpCtl_USER_EN g = false) ∧ u.fget F.grpCtl_OWNER g = s.fget F.grpCtl_OWNER g) ∧
      u.tm = s.tm) ∧
    (s.flag F.fnStatus_FLR_BUSY f = false → exec (.flrComplete f) s = .next s) ∧
    (s.flag F.fnStatus_FLR_BUSY f = true → ∃ u, exec (.flrComplete f) s = .next u ∧ u.flag F.fnStatus_FLR_BUSY f = false ∧
      u.flag F.fnStatus_FROZEN f = false ∧ u.rdw .violAddr f = 0 ∧ u.rd .violCnt f = 0 ∧ OnlyRegs [.fnStatus, .violCnt] s u ∧ u.host = s.host) ∧
    ((s.ring r).flips = 0 ∨ s.flag F.ringIrq_EN r = false → exec (.msixModerationExpire r) s = .next s) ∧
    ((s.ring r).flips ≠ 0 → s.flag F.ringIrq_EN r = true → s.blocked (s.ringOwnerOf r) = false →
      s.fget F.ringIrq_VECTOR r < vectorsOf (s.ringOwnerOf r) →
      (let o := s.ringOwnerOf r
       let vec := s.fget F.ringIrq_VECTOR r
       ((s.rd .msixTable o (4 * vec + 3)).getLsbD 0 = false → ∃ u, exec (.msixModerationExpire r) s = .next u ∧
         u.host.msix = s.host.msix ++ [(o, vec)] ∧ (u.ring r).flips = 0 ∧ OnlyRegs [] s u) ∧
       ((s.rd .msixTable o (4 * vec + 3)).getLsbD 0 = true → ∃ u, exec (.msixModerationExpire r) s = .next u ∧
         u.host.msix = s.host.msix ∧ (u.rd .msixPba o (vec / 32)).getLsbD (vec % 32) = true ∧ (u.ring r).flips = 0)))

/-- From R373, R414, R416 and R423: the channel commands, each in the states that accept it and ignored in any other, and the request bits. -/
def Obligations.ChannelCommands : Prop :=
  ∀ (s : State) (n : ChIx),
    (let st := s.fget F.chStatus_STATE n
     (st = 0 → s.unusableBlk 4 = false → ∃ u, exec (.dmaStart n) s = .next u ∧ u.fget F.chStatus_STATE n = 1 ∧ u.rdw .chPc n = s.rdw .chProg n ∧ u.fget F.chFault_LOOP_ACTIVE n = 0 ∧
       OnlyRegs [.chStatus, .chFault] s u ∧ OnlyWide [.chPc] s u ∧ u.host = s.host) ∧
     (st ≠ 0 ∨ s.unusableBlk 4 = true → exec (.dmaStart n) s = .next s) ∧
     (st = 1 → ∃ u, exec (.dmaPause n) s = .next u ∧ u.fget F.chStatus_STATE n = 3 ∧ OnlyRegs [.chStatus] s u ∧ u.dma = s.dma) ∧
     (st = 2 → ∃ u, exec (.dmaPause n) s = .next u ∧ u.fget F.chStatus_STATE n = 4 ∧ OnlyRegs [.chStatus] s u ∧ u.dma = s.dma) ∧
     (st ≠ 1 → st ≠ 2 → exec (.dmaPause n) s = .next s) ∧
     (st = 3 → (s.dmaCh n).buf = [] → ∃ u, exec (.dmaPauseDrained n) s = .next u ∧ u.fget F.chStatus_STATE n = 4 ∧
       OnlyRegs [.chStatus] s u ∧ u.dma = s.dma) ∧
     (st ≠ 3 ∨ (s.dmaCh n).buf ≠ [] → exec (.dmaPauseDrained n) s = .next s) ∧
     (st = 4 ∨ st = 5 → ∃ u w, exec (.dmaResume n) s = .next u ∧ u.fget F.chStatus_STATE n = 1 ∧ OnlyRegs [.chStatus, .chFault] s u ∧
       OnlyWide [] s u ∧ u.dma = s.dma ∧ exec (.dmaAbort n) s = .next w ∧ w.fget F.chStatus_STATE n = 0 ∧ w.rd .chFault n = 0 ∧
       (∀ k : Fin 4, w.rd .chLoop n k = 0) ∧ OnlyRegs [.chStatus, .chFault, .chLoop] s w ∧ w.host = s.host) ∧
     (st ≠ 4 → st ≠ 5 → exec (.dmaResume n) s = .next s ∧ exec (.dmaAbort n) s = .next s)) ∧
    ∀ (f : FnIx) (v : Word),
      (s.flag F.dawnStatus_READY = false ∨ s.flag F.fnStatus_FROZEN f = true → exec (.dmaSwreqWrite f v) s = .next s) ∧
      (s.flag F.dawnStatus_READY = true → s.flag F.fnStatus_FROZEN f = false → s.hasRight f 4 = false → ∃ u,
        exec (.dmaSwreqWrite f v) s = .next u ∧ u.flag F.fnStatus_FROZEN f = true ∧ u.fget F.fnStatus_KIND f = 1 ∧
        u.rd .dmaSwreq = s.rd .dmaSwreq) ∧
      (MayWrite s f 4 → (∃ k : ChIx, s.chOwned f k = true) → ∃ u, exec (.dmaSwreqWrite f v) s = .next u ∧ u.rd .dmaSwreq = v &&& 0xFF#32 ∧
        OnlyRegs [.dmaSwreq] s u ∧ OnlyWide [] s u) ∧
      (MayWrite s f 4 → (∀ k : ChIx, s.chOwned f k = false) → exec (.dmaSwreqWrite f v) s = .next (s.bump .cntForeignWr))

/-- From R407 to R412 and R415: what each instruction of a DMA program does when a channel that runs and has no MOVE under way reaches it. -/
def Obligations.ProgramInstructions : Prop :=
  ∀ (s : State) (n : ChIx) (ins : List Byte),
    (s.chIdle n = false → exec (.dmaMove n ins) s = .next s ∧ exec (.dmaLoop n ins) s = .next s ∧ exec (.dmaWait n ins) s = .next s ∧
      exec (.dmaSignal n ins) s = .next s ∧ exec (.dmaEnd n ins) s = .next s ∧ exec (.dmaIllegalOpcode n ins) s = .next s) ∧
    (s.chIdle n = true → s.fetchOk n = false → (s.dmaCh n).viol = none → ∃ u, exec (.dmaMove n ins) s = .next u ∧
      exec (.dmaLoop n ins) s = .next u ∧ exec (.dmaWait n ins) s = .next u ∧ exec (.dmaSignal n ins) s = .next u ∧
      exec (.dmaEnd n ins) s = .next u ∧ exec (.dmaIllegalOpcode n ins) s = .next u ∧ u.fget F.chStatus_STATE n = 6 ∧
      (u.dmaCh n).viol = some (5, (s.rdw .chPc n).toNat)) ∧
    (s.chIdle n = true → s.fetchOk n = true →
      (let pc := s.rdw .chPc n
       (∀ ssp dsp load sinc dinc len src dst, s.insAt n ins = .move ssp dsp load sinc dinc len src dst → ∃ u,
         exec (.dmaMove n ins) s = .next u ∧ u.rdw .chSrc n = (if load then BitVec.ofNat 64 src else s.rdw .chSrc n) ∧
         u.rdw .chDst n = (if load then BitVec.ofNat 64 dst else s.rdw .chDst n) ∧ u.rd .chLen n = BitVec.ofNat 32 len ∧ u.host = s.host ∧
         (len = 0 → u.rdw .chPc n = pc + 32#64 ∧ (u.dmaCh n).cur = none) ∧ (len ≠ 0 → u.rdw .chPc n = pc ∧ u.chIdle n = false)) ∧
       (∀ level back count ss ds, s.insAt n ins = .loop level back count ss ds → level < 4 →
         (let on := bitAt (s.fget F.chFault_LOOP_ACTIVE n) level
          let lc := if on then (s.rd .chLoop n level).toNat else max 1 count - 1
          let bad := back = 0 ∨ pc.toNat < (s.dmaCh n).progBase + 32 * back ∨ (on = true ∧ nth (s.dmaCh n).backs level 0 ≠ back)
          (bad → ∃ u, exec (.dmaLoop n ins) s = .next u ∧ u.fget F.chStatus_STATE n = 5 ∧ u.fget F.chFault_CAUSE n = 2) ∧
          (¬ bad → 0 < lc → ∃ u, exec (.dmaLoop n ins) s = .next u ∧ u.rdw .chPc n = BitVec.ofNat 64 (pc.toNat - 32 * back) ∧
            u.rd .chLoop n level = BitVec.ofNat 32 (lc - 1) ∧ bitAt (u.fget F.chFault_LOOP_ACTIVE n) level = true ∧
            u.rdw .chSrc n = BitVec.ofInt 64 (((s.rdw .chSrc n).toNat : Int) + toSigned 32 ss) ∧
            u.rdw .chDst n = BitVec.ofInt 64 (((s.rdw .chDst n).toNat : Int) + toSigned 32 ds) ∧ u.host = s.host) ∧
          (¬ bad → lc = 0 → ∃ u, exec (.dmaLoop n ins) s = .next u ∧ u.rdw .chPc n = pc + 32#64 ∧
            bitAt (u.fget F.chFault_LOOP_ACTIVE n) level = false ∧ u.rdw .chSrc n = s.rdw .chSrc n ∧ u.host = s.host))) ∧
       (∀ line pol tmo, s.insAt n ins = .wait line pol tmo →
         (s.dmaLine n line ≠ pol → ∃ u, exec (.dmaWait n ins) s = .next u ∧ u.fget F.chStatus_STATE n = 1 ∧ u.rdw .chPc n = pc + 32#64 ∧
           (pol = false → line < 64 → (u.dmaCh n).lines.getLsbD line = false)) ∧
         (s.dmaLine n line = pol → ∃ u, exec (.dmaWait n ins) s = .next u ∧ u.fget F.chStatus_STATE n = 2 ∧ u.rdw .chPc n = pc ∧
           (u.dmaCh n).cur = some (.wait line pol tmo))) ∧
       (∀ space size8 addr value, s.insAt n ins = .signal space size8 addr value →
         (let k := if size8 then 8 else 4
          (addr % k ≠ 0 → ∃ u, exec (.dmaSignal n ins) s = .next u ∧ u.fget F.chStatus_STATE n = 5 ∧ u.fget F.chFault_CAUSE n = 4 ∧
            u.host.mem = s.host.mem) ∧
          (addr % k = 0 → s.chAccess n space addr k true ≠ 0 → (s.dmaCh n).viol = none → ∃ u, exec (.dmaSignal n ins) s = .next u ∧
            u.fget F.chStatus_STATE n = 6 ∧ (u.dmaCh n).viol = some (s.chAccess n space addr k true, addr) ∧ u.host.mem = s.host.mem) ∧
          (addr % k = 0 → space = 0 → s.chAccess n 0 addr k true = 0 → ∃ u, exec (.dmaSignal n ins) s = .next u ∧
            memGet u.host.mem addr k = leBytes k value ∧ u.rdw .chPc n = pc + 32#64 ∧
            ∀ a, (a < addr ∨ addr + k ≤ a) → tget u.host.mem a 0 = tget s.host.mem a 0))) ∧
       (∀ target ring dbval, s.insAt n ins = .endp target ring dbval →
         (let refused := (target = 1 ∧ s.hasRight (s.chFn n) 1 = false) ∨ (target = 2 ∧ s.ringOwnerOf ring ≠ s.chFn n)
          (refused → (s.dmaCh n).viol = none → ∃ u, exec (.dmaEnd n ins) s = .next u ∧ u.fget F.chStatus_STATE n = 6 ∧
            (u.dmaCh n).viol.map Prod.fst = some 6 ∧ ∀ k : ChIx, (u.dmaCh k).lines = (s.dmaCh k).lines) ∧
          (¬ refused → ∃ u, exec (.dmaEnd n ins) s = .next u ∧ u.fget F.chStatus_STATE n = 0 ∧
            (∀ k : ChIx, (u.dmaCh k).lines.getLsbD (24 + n.val) = true) ∧ (target = 1 → u.te.ops.length = s.te.ops.length + 1)))) ∧
       (s.insAt n ins = .illegal → ∃ u, exec (.dmaIllegalOpcode n ins) s = .next u ∧ u.fget F.chStatus_STATE n = 5 ∧
         u.fget F.chFault_CAUSE n = 1))) ∧
    (∀ line pol tmo, (s.dmaCh n).cur = some (.wait line pol tmo) → s.fget F.chStatus_STATE n = 2 →
      (s.dmaLine n line ≠ pol → ∃ u, exec (.dmaWaitSatisfied n) s = .next u ∧ u.fget F.chStatus_STATE n = 1 ∧
        u.rdw .chPc n = s.rdw .chPc n + 32#64) ∧
      (s.dmaLine n line = pol → exec (.dmaWaitSatisfied n) s = .next s) ∧
      (tmo ≠ 0 → ∃ u, exec (.dmaWaitTimeout n) s = .next u ∧ u.fget F.chStatus_STATE n = 5 ∧ u.fget F.chFault_CAUSE n = 3) ∧
      (tmo = 0 → exec (.dmaWaitTimeout n) s = .next s))

/-- From R376, R377, R408, R413 and R415: read data joins the buffer, an error faults; a beat goes to the lowest-numbered channel that has one
ready, and from host to host writes the next bytes of the buffer at CH_DST and nothing else. -/
def Obligations.ReadsAndBeats : Prop :=
  ∀ (s : State) (n : ChIx) (dsp : Nat) (load sinc dinc : Bool) (len src dst : Nat), (s.dmaCh n).cur = some (.move 0 dsp load sinc dinc len src dst) →
    (∀ data, s.flag F.chStatus_DOWN n = false → s.fget F.chStatus_STATE n = 1 ∨ s.fget F.chStatus_STATE n = 3 →
      (let c := s.dmaCh n
       let k := min data.length (min ((s.rd .chLen n).toNat - c.buf.length) (8192 - c.buf.length))
       let a := (s.rdw .chSrc n).toNat + c.buf.length
       (k = 0 → ∀ ok, exec (.dmaReadCompletion n data ok) s = .next s) ∧
       (k ≠ 0 → s.chAccess n 0 a k false = 0 → ∃ u, exec (.dmaReadCompletion n data true) s = .next u ∧ (u.dmaCh n).buf = c.buf ++ data.take k ∧
         u.host = s.host ∧ OnlyRegs [.chStatus] s u) ∧
       (k ≠ 0 → s.chAccess n 0 a k false = 0 → ∃ u, exec (.dmaReadCompletion n data false) s = .next u ∧ u.fget F.chStatus_STATE n = 5 ∧
         u.fget F.chFault_CAUSE n = 5) ∧
       (k ≠ 0 → s.chAccess n 0 a k false ≠ 0 → c.viol = none → ∀ ok, ∃ u, exec (.dmaReadCompletion n data ok) s = .next u ∧ u.fget F.chStatus_STATE n = 6))) ∧
    ((∀ k : ChIx, s.beatOf k = none) → exec .dmaBeat s = .next s) ∧
    (∀ k, s.beatOf n = some (0, 0, (s.rdw .chSrc n).toNat, (s.rdw .chDst n).toNat, k) → (∀ m : ChIx, m < n → s.beatOf m = none) → dsp = 0 →
      s.flag F.chStatus_DOWN n = false → k ≤ (s.dmaCh n).buf.length →
      (let b := (s.rdw .chDst n).toNat
       let left := (s.rd .chLen n).toNat - k
       (s.chAccess n 0 b k true = 0 → ∃ u, exec .dmaBeat s = .next u ∧ memGet u.host.mem b k = (s.dmaCh n).buf.take k ∧
         (∀ a, (a < b ∨ b + k ≤ a) → tget u.host.mem a 0 = tget s.host.mem a 0) ∧ (u.dmaCh n).buf = (s.dmaCh n).buf.drop k ∧
         u.rd .chLen n = BitVec.ofNat 32 left ∧ (left ≠ 0 → u.rdw .chSrc n = s.rdw .chSrc n + BitVec.ofNat 64 k ∧
           u.rdw .chDst n = s.rdw .chDst n + BitVec.ofNat 64 k ∧ u.rdw .chPc n = s.rdw .chPc n) ∧
         (left = 0 → u.rdw .chPc n = s.rdw .chPc n + 32#64 ∧ (u.dmaCh n).cur = none ∧
           (sinc = false → u.rdw .chSrc n = BitVec.ofNat 64 src) ∧ (dinc = false → u.rdw .chDst n = BitVec.ofNat 64 dst))) ∧
       (s.chAccess n 0 b k true ≠ 0 → (s.dmaCh n).viol = none → ∃ u, exec .dmaBeat s = .next u ∧ u.fget F.chStatus_STATE n = 6 ∧ u.host.mem = s.host.mem)))

/-- From R8, R9, R31, R372, R373, R374, R378 and R484: BAR accesses: misaligned ones and those of other lengths, those of a function without the right or to another function's
registers, a 64-bit register read and written by halves and whole, and one 32-bit register written. -/
def Obligations.Bar0Accesses : Prop :=
  ∀ (s : State) (f : FnIx) (a b : Fin 67108864) (v lo hi : Word) (w : DWord),
    (a.val % 4 ≠ 0 → exec (.registerWrite f a v) s = .next s.unsupported ∧ exec (.lowWordRead f a) s = .next s.unsupported ∧
      exec (.lowWordWrite f a v) s = .next s.unsupported ∧ exec (.highWordWrite f a v) s = .next s.unsupported) ∧
    (a.val % 8 ≠ 0 → ∀ wr, exec (.eightByteAccess f 0 a 8 wr w) s = .next s.unsupported) ∧
    (∀ bar len wr, len ≠ 4 → len ≠ 8 → exec (.eightByteAccess f bar a len wr w) s = .next s.unsupported) ∧
    (∀ wr, exec (.eightByteAccess f 1 a 8 wr w) s = .next s.unsupported) ∧
    (∀ wr, a.val % 8 ≠ 0 → exec (.eightByteAccess f 2 a 8 wr w) s = .next s.unsupported) ∧
    (∀ v, a.val % 4 = 0 → exec (.eightByteAccess f 0 a 4 true (v.setWidth 64)) s = exec (.registerWrite f a v) s) ∧
    (a.val % 4 = 0 → s.flag F.dawnStatus_READY = true → s.flag F.fnStatus_FROZEN f = false → a.val ≠ 0x18 →
      (s.leave f a ≠ .yes → locate a = none → ∃ u, exec (.registerWrite f a v) s = .next u ∧ OnlyRegs [] s u ∧ OnlyWide [] s u ∧
        u.host.mem = s.host.mem) ∧
      (s.leave f a = .violates → (locate a).isSome = true → ∃ u, exec (.registerWrite f a v) s = .next u ∧ u.flag F.fnStatus_FROZEN f = true ∧
        u.fget F.fnStatus_KIND f = 1 ∧ u.rdw .violAddr f = BitVec.ofNat 64 a) ∧
      (s.leave f a = .foreign → (locate a).isSome = true → ∃ u, exec (.registerWrite f a v) s = .next u ∧ u.rdw .cntForeignWr = s.rdw .cntForeignWr + 1#64 ∧
        OnlyRegs [] s u ∧ OnlyWide [.cntForeignWr] s u)) ∧
    (a.val % 4 = 0 → (s.flag F.dawnStatus_READY = false ∨ s.flag F.fnStatus_FROZEN f = true) → ∃ u, exec (.registerWrite f a v) s = .next u ∧
      OnlyRegs [] s u ∧ OnlyWide [] s u ∧ u.host.mem = s.host.mem) ∧
    (s.flag F.dawnStatus_READY = true → s.flag F.fnStatus_FROZEN f = false → s.hasRight f 3 = true → f ≠ 3 → ∃ u,
      exec (.registerWrite f 0x3600008 v) s = .next u ∧ u.rd .flowTmo = v ∧ OnlyRegs [.flowTmo] s u ∧ OnlyWide [] s u ∧ u.host.mem = s.host.mem) ∧
    (∀ n i j, a.val % 8 = 0 → b.val = a.val + 4 → locate a = some (n, i, j, false) → locate b = some (n, i, j, true) → (regInfo n).wide = true →
      (s.hidden f a = false → s.hidden f b = false → ∃ u x y, exec (.lowWordRead f a) s = .next u ∧
        u.host.readData = BitVec.ofNat 64 ((s.viewWide n i j).toNat % 2 ^ 32) ∧ exec (.lowWordRead f b) u = .next x ∧
        x.host.readData = BitVec.ofNat 64 ((s.viewWide n i j).toNat / 2 ^ 32) ∧ exec (.eightByteAccess f 0 a 8 false 0) s = .next y ∧
        y.host.readData = s.viewWide n i j ∧ OnlyRegs [] s y) ∧
      (s.flag F.dawnStatus_READY = true → s.flag F.fnStatus_FROZEN f = false → s.leave f a = .yes → s.leave f b = .yes → s.deadTile a = false →
        s.deadTile b = false → (regInfo n).rw ≠ 0 → n ≠ .ringBase → n ≠ .chSrc → n ≠ .chDst →
        (let m := BitVec.ofNat 64 (regInfo n).rw
         ∃ u x y, exec (.lowWordWrite f a lo) s = .next u ∧ u.rdw n i j = s.rdw n i j ∧ exec (.highWordWrite f b hi) u = .next x ∧
           x.rdw n i j = (s.rdw n i j &&& ~~~m) ||| (BitVec.ofNat 64 (hi.toNat * 2 ^ 32 + lo.toNat) &&& m) ∧ OnlyWide [n] s x ∧ OnlyRegs [] s x ∧
           exec (.eightByteAccess f 0 a 8 true w) s = .next y ∧ y.rdw n i j = (s.rdw n i j &&& ~~~m) ||| (w &&& m) ∧ OnlyWide [n] s y)))

/-! ### Time -/

/-- The PTP clock's reading in units of 2⁻³² ns (R426). -/
def Sys2Proof.Machine.clockOf (s : State) : Nat := (s.time.sec.toNat * 1000000000 + s.time.ns) * 2 ^ 32 + s.time.frac.toNat

/-- From R426 to R428 and R431: an edge adds INCR, held between its bounds, with carry, or applies the oldest step in place of the increment;
ADJ_CMD takes the ADJ registers as they stand and queues behind earlier steps; a read of NOW_FRAC latches the other fields. -/
def Sys2Proof.Machine.Claims.ClockAndSteps : Prop :=
  ∀ (s : State) (f : FnIx),
    (s.time.ns < 1000000000 → s.unusableBlk 5 = false →
      (s.time.steps = [] → ∃ u, exec .clockTick s = .next u ∧ u.time.ns < 1000000000 ∧
        clockOf u = (clockOf s + max 0x200000000 (min 0x2FFFFFFFF (s.rdw .incr).toNat)) % (2 ^ 48 * 1000000000 * 2 ^ 32) ∧
        u.time.trigs = s.time.trigs ∧ OnlyRegs [.pcOvf] s u ∧ OnlyWide [.pcVal] s u ∧ u.host = s.host) ∧
      (∀ sec ns frac rest, s.time.steps = .set sec ns frac :: rest → sec < 2 ^ 48 → ns < 1000000000 → frac < 2 ^ 32 →
        ∃ u, exec .clockTick s = .next u ∧ u.time.sec.toNat = sec ∧ u.time.ns = ns ∧ u.time.frac.toNat = frac ∧ u.time.steps = rest ∧
          u.flag F.timeStatus_SET = true) ∧
      (∀ off rest, s.time.steps = .add off :: rest → ∃ u, exec .clockTick s = .next u ∧ u.time.steps = rest ∧ u.flag F.timeStatus_SET = true ∧
        (let z : Int := (s.ptpNs : Int) + toSigned 64 off
         (z < 0 → clockOf u = 0) ∧
         (0 ≤ z → z < 2 ^ 48 * 1000000000 → (clockOf u : Int) = z * 2 ^ 32 + s.time.frac.toNat)))) ∧
    (∃ u, exec .adjSet s = .next u ∧ u.time.steps = s.time.steps ++ [.set ((s.rd .adjSecHi).toNat % 65536 * 2 ^ 32 + (s.rd .adjSecLo).toNat)
        (min 999999999 (s.rd .adjNs).toNat) (s.rd .adjFrac).toNat] ∧ clockOf u = clockOf s ∧ OnlyRegs [] s u ∧ OnlyWide [] s u ∧ u.host = s.host) ∧
    (∃ u, exec .adjAdd s = .next u ∧ u.time.steps = s.time.steps ++ [.add (s.rdw .adjOff).toNat] ∧ clockOf u = clockOf s ∧ OnlyRegs [] s u ∧
      OnlyWide [] s u ∧ u.host = s.host) ∧
    (∃ u, exec (.nowRead f) s = .next u ∧ u.host.readData = s.time.frac.setWidth 64 ∧ u.time = s.time ∧ OnlyRegs [] s u ∧ OnlyWide [] s u ∧
      (s.hidden f 0x300014 = false → ∃ w, exec (.lowWordRead f 0x300014) u = .next w ∧ w.host.readData = BitVec.ofNat 64 (s.time.ns % 2 ^ 32)) ∧
      (s.hidden f 0x300018 = false → ∃ w, exec (.lowWordRead f 0x300018) u = .next w ∧
        w.host.readData = BitVec.ofNat 64 (s.time.sec.toNat % 2 ^ 32)) ∧
      (s.hidden f 0x30001C = false → ∃ w, exec (.lowWordRead f 0x30001C) u = .next w ∧
        w.host.readData = BitVec.ofNat 64 (s.time.sec.toNat / 2 ^ 32)))

/-- From R438: a step leaves an armed periodic trigger at the first of its firing times at or after the new time, and counts those passed over. -/
def Sys2Proof.Machine.Claims.StepsAndTriggers : Prop :=
  ∀ (s : State) (k : TrigIx) (c : ClkStep) (rest : List ClkStep), s.time.steps = c :: rest →
    s.unusableBlk 5 = false → ∃ u, exec .clockTick s = .next u ∧
    (s.flag F.trigStatus_ARMED k = false → u.trig k = s.trig k ∧ u.rd .trigStatus k = s.rd .trigStatus k) ∧
    (s.flag F.trigStatus_ARMED k = true → (s.trig k).mode = 2 → 0 < (s.trig k).period →
      (let x := s.trig k
       let y := u.trig k
       y.mode = 2 ∧ y.start = x.start ∧ y.period = x.period ∧ (∃ j, y.next = x.start + j * x.period) ∧ clockOf u ≤ y.next * 2 ^ 32 ∧
         (y.next ≠ x.start → (y.next - x.period) * 2 ^ 32 < clockOf u) ∧
         u.fget F.trigStatus_SKIPPED k = (if x.next < y.next then min 0xFFFF (s.fget F.trigStatus_SKIPPED k + (y.next - x.next) / x.period)
           else s.fget F.trigStatus_SKIPPED k) ∧
         u.fget F.trigStatus_FIRED k = s.fget F.trigStatus_FIRED k ∧ u.flag F.trigStatus_ARMED k = true)) ∧
    (s.flag F.trigStatus_ARMED k = true → (s.trig k).mode = 1 → clockOf s ≤ (s.trig k).start * 2 ^ 32 → (s.trig k).start * 2 ^ 32 < clockOf u →
      (u.trig k).late = true ∧ u.flag F.trigStatus_ARMED k = true)

/-- The clock, its steps and what they do to triggers. -/
def Obligations.ClockStepsAndTriggers : Prop :=
  Claims.ClockAndSteps ∧ Claims.StepsAndTriggers

/-- From R436, R437, R439 and R440: arming, disarming and firing a trigger: what is latched, the next firing, LATE, the count, and what its
consumers do. -/
def Obligations.TriggersFire : Prop :=
  ∀ (s : State) (k : TrigIx),
    (∀ mode : Fin 4, ∃ u, exec (.triggerArm k mode) s = .next u ∧ u.flag F.trigStatus_ARMED k = true ∧ u.fget F.trigStatus_FIRED k = 0 ∧
      u.fget F.trigStatus_SKIPPED k = 0 ∧ u.flag F.trigStatus_LATE k = s.flag F.trigStatus_LATE k ∧ OnlyRegs [.trigCtl, .trigStatus] s u ∧
      OnlyWide [] s u ∧ clockOf u = clockOf s ∧ u.host = s.host ∧
      (let x := u.trig k
       x.mode = (if mode = 3 then 0 else mode) ∧
       x.start = (s.rdw .startSec k).toNat % 2 ^ 48 * 1000000000 + (s.rd .startNs k).toNat % 2 ^ 30 ∧
       x.period = max 1000 (min 1000000000 (s.fget F.periodNs_PERIOD k)) ∧
       (mode.val = 1 → x.next = x.start ∧ (x.late = true ↔ x.start * 2 ^ 32 < clockOf s)) ∧
       (mode.val = 2 → x.late = false ∧ (∃ j, x.next = x.start + j * x.period) ∧ clockOf s ≤ x.next * 2 ^ 32 ∧
         (x.next ≠ x.start → (x.next - x.period) * 2 ^ 32 < clockOf s)))) ∧
    (∃ u, exec (.triggerDisarm k) s = .next u ∧ u.flag F.trigStatus_ARMED k = false ∧ u.flag F.trigCtl_ARM k = false ∧
      u.fget F.trigStatus_FIRED k = (s.fget F.trigStatus_FIRED k + b2n (s.trigDue k)) % 2 ^ 14 ∧
      (s.trigDue k = false → OnlyRegs [.trigCtl, .trigStatus] s u ∧ OnlyWide [] s u ∧ u.host = s.host)) ∧
    (s.trigDue k = true ↔ s.flag F.trigStatus_ARMED k = true ∧ s.unusableBlk 5 = false ∧ ((s.trig k).mode = 1 ∨ (s.trig k).mode = 2) ∧
      ((s.trig k).late = true ∨ (s.trig k).next * 2 ^ 32 ≤ clockOf s)) ∧
    (s.trigDue k = false → exec (.triggerFire k) s = .next s) ∧
    (s.trigDue k = true → ∃ u, exec (.triggerFire k) s = .next u ∧ u.fget F.trigStatus_FIRED k = (s.fget F.trigStatus_FIRED k + 1) % 2 ^ 14 ∧
      clockOf u = clockOf s ∧ (∀ j, j ≠ k.val → u.trig j = s.trig j) ∧
      ((s.trig k).mode = 1 → u.flag F.trigStatus_ARMED k = false ∧ u.flag F.trigStatus_LATE k = (s.flag F.trigStatus_LATE k || (s.trig k).late)) ∧
      ((s.trig k).mode = 2 → u.flag F.trigStatus_ARMED k = true ∧ (u.trig k).next = (s.trig k).next + (s.trig k).period) ∧
      (∀ n : ChIx, u.dmaLine n k = true) ∧
      (let named (en trig : Fld) : Prop := s.flag en = true ∧ s.fget trig = k
       (named F.ppsCfg_EN F.ppsCfg_TRIG → u.time.pps = true) ∧ (¬ named F.ppsCfg_EN F.ppsCfg_TRIG → u.time.pps = s.time.pps) ∧
       (named F.socCfg_EN F.socCfg_TRIG → u.flag F.socStatus_BUSY = true) ∧
       (¬ named F.socCfg_EN F.socCfg_TRIG → u.rd .socStatus = s.rd .socStatus) ∧
       (named F.epochCfg_EN F.epochCfg_TRIG → u.rdw .epochNum = s.rdw .epochNum + 1#64) ∧
       (¬ named F.epochCfg_EN F.epochCfg_TRIG → u.rdw .epochNum = s.rdw .epochNum)) ∧
      (s.zen.present = true ∧ s.zen.cfg % 16 = k → u.zen.edges.length = s.zen.edges.length + 1) ∧
      (¬ (s.zen.present = true ∧ s.zen.cfg % 16 = k) → u.zen = s.zen)) ∧
    ∃ u, exec .ppsPulseEnd s = .next u ∧ u.time.pps = false ∧ clockOf u = clockOf s ∧ OnlyRegs [] s u ∧ OnlyWide [] s u

/-- From R441: an edge that a capture unit selects is stamped in units of 0.25 ns, or lost when 16 stamps wait; a pop answers the oldest stamp. -/
def Obligations.CaptureUnits : Prop :=
  ∀ (s : State) (f : FnIx) (k : Fin 4),
    (∀ (rising pps : Bool) (quarter : Fin 16),
      (let taken : Prop := s.flag F.capCfg_EN k = true ∧ s.flag F.capCfg_SRC k = pps ∧
         bitAt (s.fget F.capCfg_EDGE k) (if rising then 0 else 1) = true
       (¬ taken → exec (.captureEdge k rising pps quarter) s = .next s) ∧
       (taken → (s.fifo k).length < 16 → ∃ u x, exec (.captureEdge k rising pps quarter) s = .next u ∧ u.fifo k = s.fifo k ++ [x] ∧
         ((x.sec * 1000000000 + x.ns) * 4 + x.frac) = (clockOf s / 2 ^ 30 + quarter) % (2 ^ 48 * 4000000000) ∧ x.ns < 1000000000 ∧ x.frac < 4 ∧
         u.fget F.capStatus_LEVEL k = (s.fifo k).length + 1 ∧ (∀ n : ChIx, u.dmaLine n (16 + k) = true) ∧ OnlyRegs [.capStatus] s u) ∧
       (taken → 16 ≤ (s.fifo k).length → ∃ u, exec (.captureEdge k rising pps quarter) s = .next u ∧ u.flag F.capStatus_OVF k = true ∧
         u.fifo k = s.fifo k ∧ OnlyRegs [.capStatus] s u))) ∧
    (s.fifo k = [] → ∃ u, exec (.capturePop f k) s = .next u ∧ u.host.readData = 0#64 ∧ u.time = s.time ∧ OnlyRegs [] s u) ∧
    (∀ x r, s.fifo k = x :: r → ∃ u, exec (.capturePop f k) s = .next u ∧ u.fifo k = r ∧ u.fget F.capStatus_LEVEL k = r.length % 32 ∧
      u.host.readData = BitVec.ofNat 64 (x.frac % 4 + 2 ^ 31) ∧ OnlyRegs [.capStatus] s u ∧ OnlyWide [] s u ∧
      tget u.host.latch (fnKey f .capNs k 0) none = some (BitVec.ofNat 32 x.ns) ∧
      tget u.host.latch (fnKey f .capSecLo k 0) none = some (BitVec.ofNat 32 x.sec) ∧
      tget u.host.latch (fnKey f .capSecHi k 0) none = some (BitVec.ofNat 32 (x.sec / 2 ^ 32)))

/-! ### Power -/

/-- From R449, R455, R456 and R464: a window end: the measurements, PCAP_EFF and the energy; then the slowest of the demands: a step down at
once, over any distance, a step up by one point, started only outside a transition. -/
def Obligations.PowerWindow : Prop :=
  ∀ (s : State) (vin iin : Fin 65536) (p : Fin 4096) (uj : Nat),
    (let eff := min (max 1 (min 1600 (s.fget F.pcap_WATTS))) (min 1600 (vin.val * 40 / 1000))
     let c := s.curOp
     ∃ u, exec (.powerWindowEnd vin iin p uj) s = .next u ∧ u.fget F.vinMv_V = vin ∧ u.fget F.iinMa_V = iin ∧ u.fget F.pinW_V = p ∧
       u.fget F.pcapEff_V = eff ∧ u.rdw .energyMj = s.rdw .energyMj + BitVec.ofNat 64 ((s.power.energyUj + uj) / 1000) ∧
       u.power.energyUj = (s.power.energyUj + uj) % 1000 ∧
       (s.hz = true ∨ s.power.coreOn = false ∨ s.unusableBlk 6 = true → OnlyRegs [.vinMv, .iinMa, .pinW, .pcapEff] s u ∧ OnlyWide [.energyMj] s u) ∧
       (s.hz = false → s.power.coreOn = true → s.unusableBlk 6 = false → s.flag F.pwrStatus_CAP_UNMET = false → 520 ≤ eff → (c = 7 → p.val ≤ eff) →
         OnlyRegs [.vinMv, .iinMa, .pinW, .pcapEff, .pwrStatus, .vcore] s u ∧ u.flag F.pwrStatus_CAP_UNMET = false ∧
         u.flag F.pwrStatus_THROTTLED = decide (s.fget F.pwrCfg_OP_MAX < u.curOp) ∧
         (∀ cap k, (p.val ≤ eff → cap = if 0 < c ∧ 100 ≤ s.power.sinceDown + s.winMs ∧
               s.predicts p eff (100 - s.fget F.pwrCfg_HYST_PCT) (c - 1) = true then c - 1 else c) →
             (eff < p.val → cap ≤ 7 ∧ cap ≠ c ∧ (cap = 7 ∨ s.predicts p eff 100 cap = true) ∧
               ∀ j, j < cap → j ≠ c → s.predicts p eff 100 j = false) →
             k = max cap s.otherDemand →
           (c < k → u.curOp = k ∧ u.power.clkOp = k ∧ u.flag F.pwrStatus_TRANSITION = true ∧ u.power.up = none ∧ u.rd .vcore = s.rd .vcore) ∧
           (k = c → u.curOp = c ∧ u.power.clkOp = s.power.clkOp ∧ u.power.up = none ∧ u.rd .vcore = s.rd .vcore) ∧
           (k < c → s.flag F.pwrStatus_TRANSITION = true → u.curOp = c ∧ u.power.up = s.power.up) ∧
           (k < c → s.flag F.pwrStatus_TRANSITION = false → u.curOp = c ∧ u.power.clkOp = s.power.clkOp ∧ u.power.up = some (c - 1) ∧
             u.flag F.pwrStatus_TRANSITION = true ∧ u.fget F.vcore_MV = s.setSteps (c - 1) * 5 / 2 % 4096))))

/-- From R456 and R462: the steps of a change of operating point: the clock rises only after the voltage and its settling, and after a step down
the voltage follows. -/
def Sys2Proof.Machine.Claims.Transitions : Prop :=
  ∀ (s : State),
    (s.power.up = none → exec .voltageReached s = .next s ∧ exec .settleDone s = .next s) ∧
    (∀ k, s.power.up = some k → k < 8 →
      (∃ u, exec .voltageReached s = .next u ∧ u.power.settling = true ∧ u.power.up = some k ∧ u.curOp = s.curOp ∧
        u.power.clkOp = s.power.clkOp ∧ OnlyRegs [] s u ∧ OnlyWide [] s u) ∧
      (s.power.settling = false → exec .settleDone s = .next s) ∧
      (s.power.settling = true → ∃ u, exec .settleDone s = .next u ∧ u.power.clkOp = k ∧ u.curOp = k ∧ u.power.up = none ∧
        u.flag F.pwrStatus_TRANSITION = false ∧ u.rdw .cntOpChange = s.rdw .cntOpChange + 1#64 ∧ OnlyRegs [.pwrStatus] s u ∧
        u.flag F.pwrStatus_THROTTLED = decide (s.fget F.pwrCfg_OP_MAX < k)) ∧
      exec .voltageLowered s = .next s) ∧
    (s.flag F.pwrStatus_TRANSITION = false → exec .voltageLowered s = .next s) ∧
    (s.flag F.pwrStatus_TRANSITION = true → s.power.up = none → ∃ u, exec .voltageLowered s = .next u ∧
      u.flag F.pwrStatus_TRANSITION = false ∧ u.curOp = s.curOp ∧ u.fget F.vcore_MV = s.setSteps s.curOp * 5 / 2 % 4096 ∧
      OnlyRegs [.pwrStatus, .vcore] s u ∧ OnlyWide [] s u)

/-- From R454, R464, R465 and R487: triggered conversions, and a minute of powered time with its record, the hours and the ageing column. -/
def Sys2Proof.Machine.Claims.ConversionsAndHours : Prop :=
  ∀ (s : State) (vin iin : Fin 65536) (good : Bool),
    (s.flag F.socStatus_BUSY = false → exec (.socConversionDone vin iin) s = .next s) ∧
    (s.flag F.socStatus_BUSY = true → ∃ u, exec (.socConversionDone vin iin) s = .next u ∧ u.fget F.socVinMv_V = vin ∧ u.fget F.socIinMa_V = iin ∧
      u.fget F.socStatus_SEQ = (s.fget F.socStatus_SEQ + 1) % 65536 ∧ u.flag F.socStatus_BUSY = false ∧
      OnlyRegs [.socVinMv, .socIinMa, .socStatus] s u ∧ OnlyWide [] s u) ∧
    (s.boot.vinValid = false → exec (.poweredMinute good) s = .next s) ∧
    (s.boot.vinValid = true → ∃ u, exec (.poweredMinute good) s = .next u ∧ u.power.minutes = s.power.minutes + 1 ∧
      u.rd .poweredHours = BitVec.ofNat 32 ((s.power.minutes + 1) / 60) ∧ OnlyRegs [.poweredHours, .vcore] s u ∧
      (good = true → ∃ q, (q, s.power.minutes + 1) ∈ u.boot.nvs) ∧ u.boot.nvs.length ≤ 4096 ∧
      (s.fget F.vcore_AGE_COL ≤ 4 → s.fget F.vcore_AGE_COL ≤ u.fget F.vcore_AGE_COL ∧ u.fget F.vcore_AGE_COL ≤ 4 ∧
        (∀ a, 1 ≤ a → a ≤ 4 → (Config.ageMilestone a).toNat ≤ (s.power.minutes + 1) / 60 → a ≤ u.fget F.vcore_AGE_COL)) ∧
      (u.fget F.vcore_AGE_COL ≠ s.fget F.vcore_AGE_COL → u.fget F.vcore_MV = u.setSteps s.voltOp * 5 / 2 % 4096))

/-- Operating-point transitions, conversions and powered hours. -/
def Obligations.TransitionsConversionsAndHours : Prop :=
  Claims.Transitions ∧ Claims.ConversionsAndHours

/-- From R459 and R460: a cap below what OP7 needs, its grace period and end, and the current limiter with its second stage and hold. -/
def Sys2Proof.Machine.Claims.CapUnmetAndLimiter : Prop :=
  ∀ (s : State) (vin iin peak : Fin 65536) (p : Fin 4096) (uj : Nat), s.hz = false → s.power.coreOn = true →
    (s.unusableBlk 6 = false → let eff := s.capEff vin
     (s.flag F.pwrStatus_CAP_UNMET = false → eff < 520 ∨ (s.curOp = 7 ∧ eff < p.val) → ∃ u, exec (.powerWindowEnd vin iin p uj) s = .next u ∧
       u.curOp = 7 ∧ u.flag F.pwrStatus_CAP_UNMET = true ∧ u.rdw .cntCapUnmet = s.rdw .cntCapUnmet + 1#64 ∧
       (s.fget F.pwrCfg_GRACE_MS ≠ 0 → u.power.grace = true ∧ u.boot = s.boot ∧ u.squall = s.squall) ∧
       (s.fget F.pwrCfg_GRACE_MS = 0 → s.flag F.pwrCfg_UNMET_ACT = false → u.boot.resetDue = true ∧ u.boot.hzNext = 2)) ∧
     (s.flag F.pwrStatus_CAP_UNMET = true → s.power.grace = true → 520 ≤ eff → (s.curOp = 7 → p.val ≤ eff) →
       ∃ u, exec (.powerWindowEnd vin iin p uj) s = .next u ∧ u.flag F.pwrStatus_CAP_UNMET = false ∧ u.power.grace = false ∧ u.curOp = s.curOp) ∧
     (s.flag F.pwrStatus_CAP_UNMET = true → s.power.grace = false → ∃ u, exec (.powerWindowEnd vin iin p uj) s = .next u ∧
       u.flag F.pwrStatus_CAP_UNMET = true ∧ u.curOp = 7)) ∧
    (s.power.grace = false → exec .capGraceExpire s = .next s) ∧
    (s.power.grace = true → ∃ u, exec .capGraceExpire s = .next u ∧ u.power.grace = false ∧
      u.rd .pwrStatus = s.rd .pwrStatus ∧
      (s.flag F.pwrCfg_UNMET_ACT = false → u.boot.resetDue = true ∧ u.boot.hzNext = 2 ∧ u.squall = s.squall) ∧
      (s.flag F.pwrCfg_UNMET_ACT = true → u.boot = s.boot ∧ u.power.unmetStay = true ∧
        ((s.squall.flight.filter (fun m => decide (m.source = srcPwr))).length < 4 → ∃ m, u.squall.flight = s.squall.flight ++ [m] ∧ m.source = srcPwr))) ∧
    (∃ u, exec (.currentLimitCrossing peak) s = .next u ∧ u.curOp = 7 ∧ u.power.up = none ∧
      u.flag F.pwrStatus_LIMIT_HOLD = true ∧ u.rdw .cntLimit = s.rdw .cntLimit + 1#64 ∧
      ((s.squall.flight.filter (fun m => decide (m.source = srcPwr))).length < 4 → ∃ m, u.squall.flight = s.squall.flight ++ [m] ∧ m.source = srcPwr)) ∧
    (s.flag F.pwrStatus_LIMIT_HOLD = false → exec .currentLimitStage2 s = .next s) ∧
    (s.flag F.pwrStatus_LIMIT_HOLD = true → ∃ u, exec .currentLimitStage2 s = .next u ∧ u.boot.resetDue = true ∧ u.boot.hzNext = 2) ∧
    (∃ u, exec .limitHoldExpire s = .next u ∧ u.flag F.pwrStatus_LIMIT_HOLD = false ∧ u.curOp = s.curOp ∧ OnlyRegs [.pwrStatus] s u) ∧
    (∃ u, exec .startupHoldExpire s = .next u ∧ u.flag F.pwrStatus_STARTUP = false ∧ u.curOp = s.curOp ∧ OnlyRegs [.pwrStatus] s u)

/-- From R453 and R463: a sensor reading: its register, TJ_HOT as the hottest valid core-die or chiplet sensor, the band, THROTTLING and CRIT;
and the 112 °C trip. -/
def Sys2Proof.Machine.Claims.SensorsAndTrip : Prop :=
  ∀ (s : State) (k : Fin 73) (deg : Fin 256),
    (∃ u, exec (.sensorRead k deg) s = .next u ∧ u.fget F.temp_DEG_C k = deg ∧ u.flag F.temp_VALID k = true ∧
      (∀ j : Fin 73, j ≠ k → u.rd .temp j = s.rd .temp j) ∧
      ((∃ j : Fin 72, u.flag F.temp_VALID j = true) →
        (∃ j : Fin 72, u.flag F.temp_VALID j = true ∧ u.fget F.thermStatus_SENSOR = j ∧
          u.fget F.thermStatus_TJ_HOT = u.fget F.temp_DEG_C j ∧
          ∀ i : Fin 72, u.flag F.temp_VALID i = true → toSigned 8 (u.fget F.temp_DEG_C i) ≤ toSigned 8 (u.fget F.temp_DEG_C j)) ∧
        (let t := toSigned 8 (u.fget F.thermStatus_TJ_HOT)
         let crit := min 105 (s.fget F.thermCfg_CRIT_C)
         let thr := min (s.fget F.thermCfg_THROTTLE_C) crit
         (u.flag F.thermStatus_CRIT = true ↔ (crit : Int) ≤ t) ∧
         ((thr : Int) ≤ t → u.flag F.thermStatus_THROTTLING = true) ∧ (t < (thr : Int) - 5 → u.flag F.thermStatus_THROTTLING = false ∧
           u.power.tripHold = false) ∧
         ((thr : Int) - 5 ≤ t → t < thr → u.flag F.thermStatus_THROTTLING = s.flag F.thermStatus_THROTTLING) ∧
         (let b := s.fget F.vcore_BAND
          let d := u.fget F.vcore_BAND
          (t < 15 * ((b : Int) + 1) ∨ b = 6 → d ≤ b) ∧ (b < 6 → 15 * ((b : Int) + 1) ≤ t → b < d) ∧
          (0 < b → b < 7 → (15 * (b : Int) - 3 < t → b ≤ d) ∧ (t ≤ 15 * (b : Int) - 3 → d < b)) ∧
          (d = b → u.fget F.vcore_MV = s.fget F.vcore_MV) ∧ (d ≠ b → u.fget F.vcore_MV = u.setSteps s.voltOp * 5 / 2 % 4096))))) ∧
    ∃ u, exec (.thermalTrip k) s = .next u ∧ u.flag F.thermStatus_TRIP = true ∧ u.power.tripHold = true ∧
      (s.hz = false → s.power.coreOn = true → u.curOp = 7 ∧ u.power.up = none) ∧
      ((s.squall.flight.filter (fun m => decide (m.source = srcThermal))).length < 4 → ∃ m, u.squall.flight = s.squall.flight ++ [m] ∧
        m.source = srcThermal ∧ m.addr = (k : Nat))

/-- A cap that cannot be met, the input limiter, sensors and the thermal trip. -/
def Obligations.CapsLimiterAndSensors : Prop :=
  Claims.CapUnmetAndLimiter ∧ Claims.SensorsAndTrip

/-! ### Reset, Dawn and flash -/

/-- From R470 to R474 and R484: what requests a chip reset and with which cause, and who may write RESET_CTL. -/
def Obligations.ResetRequests : Prop :=
  ∀ (s : State) (f : FnIx) (key : BitVec 8),
    (let due (u : State) (bit hz : Nat) : Prop := u.boot.resetDue = true ∧ bitAt u.boot.dueCauses bit = true ∧
       u.boot.hzNext = (if hz = 0 then s.boot.hzNext else hz) ∧ OnlyRegs [] s u ∧ OnlyWide [] s u
     (s.boot.vinValid = false → exec .buttonPress s = .next s) ∧
     (s.boot.vinValid = true → ∃ u, exec .buttonPress s = .next u ∧ u.boot.pressed = true ∧ u.boot.resetDue = s.boot.resetDue ∧
       OnlyRegs [] s u ∧ OnlyWide [] s u) ∧
     (s.boot.pressed = false → exec .buttonHold s = .next s ∧ exec .buttonRelease s = .next s) ∧
     (s.boot.pressed = true → (∃ u, exec .buttonHold s = .next u ∧ u.flag F.hzCfg_HZ_REQ = true ∧ u.boot = s.boot ∧ OnlyRegs [.hzCfg] s u) ∧
       ∃ u, exec .buttonRelease s = .next u ∧ due u 1 0 ∧ u.boot.pressed = false) ∧
     (s.boot.serviceCore = false → exec .watchdogExpire s = .next s) ∧
     (s.boot.serviceCore = true → ∃ u, exec .watchdogExpire s = .next u ∧ due u 2 0) ∧
     (s.flag F.dawnStatus_READY = false → exec (.chipResetRequest f key) s = .next s ∧ exec (.horizonResetRequest f key) s = .next s) ∧
     (s.flag F.dawnStatus_READY = true →
       (key ≠ 0xA5#8 → exec (.chipResetRequest 0 key) s = .next s ∧ exec (.horizonResetRequest 0 key) s = .next s) ∧
       (∃ u, exec (.chipResetRequest 0 0xA5#8) s = .next u ∧ due u 4 0) ∧ (∃ u, exec (.horizonResetRequest 0 0xA5#8) s = .next u ∧ due u 4 5) ∧
       (f ≠ 0 → s.flag F.fnStatus_FROZEN f = false →
         (s.hasRight f 0 = true → exec (.chipResetRequest f key) s = .next (s.bump .cntForeignWr) ∧
           exec (.horizonResetRequest f key) s = .next (s.bump .cntForeignWr)) ∧
         (s.hasRight f 0 = false → ∃ u w, exec (.chipResetRequest f key) s = .next u ∧ u.flag F.fnStatus_FROZEN f = true ∧
           u.fget F.fnStatus_KIND f = 1 ∧ u.boot = s.boot ∧ exec (.horizonResetRequest f key) s = .next w ∧
           w.flag F.fnStatus_FROZEN f = true ∧ w.boot = s.boot))))

/-- From R7, R364, R470, R471, R475, R476, R485 and R486: a chip reset and a VIN reset: what each keeps, and that everything else is as at
reset. -/
def Sys2Proof.Machine.Claims.ResetsKeepAndClear : Prop :=
  ∀ s : State,
    (let kept : List RName := [.resetCause, .hzCfg, .hzPort, .firstMsg, .errnStatus, .arbCtr, .ownerStatus, .poweredHours, .reactCfg, .sqStatus,
       .vcore, .dawnStatus]
     let fused : List RName := [.spareTile, .spareXlink, .spareLane, .spareAnvil, .anvChStatus, .pipeStatus, .cirrusStatus]
     let cleared (u : State) : Prop := u.host.rings = [] ∧ u.host.mem = s.host.mem ∧ u.host.linkUp = false ∧ u.dma = {} ∧ u.tm = {} ∧ u.te = {} ∧
       u.halo = {} ∧ clockOf u = 0 ∧ u.time.trigs = [] ∧ u.time.fifos = [] ∧ u.time.steps = [] ∧ u.squall.flight = [] ∧ u.squall.masks = [] ∧
       u.boot.nvs = s.boot.nvs ∧ u.boot.journal = s.boot.journal ∧ u.boot.fuses = s.boot.fuses ∧ u.zen = s.zen ∧
       u.power.coreOn = false ∧ u.power.chipletOn = false ∧ u.power.gddrOn = false ∧
       (∀ n i j, n ∉ kept → n ∉ fused → u.rd n i j = State.reset.rd n i j) ∧
       (∀ n i j, n ≠ .energyMj → u.rdw n i j = State.reset.rdw n i j) ∧ u.flag F.dawnStatus_READY = false
     (s.boot.resetDue = false ∨ s.boot.vinValid = false → exec .chipReset s = .next s) ∧
     (s.boot.resetDue = true → s.boot.vinValid = true → ∃ u, exec .chipReset s = .next u ∧ cleared u ∧ u.boot.resetDue = false ∧
       u.rdw .energyMj = s.rdw .energyMj ∧ u.rd .hzCfg = s.rd .hzCfg ∧ (∀ p, u.rd .hzPort p = s.rd .hzPort p) ∧
       (∀ k, u.rd .firstMsg k = s.rd .firstMsg k) ∧ u.rd .errnStatus = s.rd .errnStatus ∧ u.power.minutes = s.power.minutes ∧
       u.rd .poweredHours = s.rd .poweredHours ∧ u.fget F.vcore_AGE_COL = s.fget F.vcore_AGE_COL ∧
       (∀ i : Fin 6, s.flag F.reactCfg_LOCK i = true → u.rd .reactCfg i = s.rd .reactCfg i) ∧
       (∀ i : Fin 6, s.flag F.reactCfg_LOCK i = false → u.rd .reactCfg i = State.reset.rd .reactCfg i) ∧
       (∀ b, b < 7 → bitAt (u.fget F.resetCause_CAUSES) b = (bitAt (s.fget F.resetCause_CAUSES) b || bitAt s.boot.dueCauses b)) ∧
       (s.boot.stage ≠ 1 → u.fget F.dawnStatus_STEP = 3 ∧ u.boot.stage = 2) ∧ u.boot.rootLocked = s.boot.rootLocked) ∧
     (s.boot.vinValid = false → exec .vinInvalid s = .next s ∧ ∃ u, exec .vinValid s = .next u ∧ u.boot.vinValid = true ∧
       u.boot.stage = s.boot.stage ∧ OnlyRegs [] s u ∧ OnlyWide [] s u) ∧
     (s.boot.vinValid = true → exec .vinValid s = .next s ∧ ∃ u, exec .vinInvalid s = .next u ∧ cleared u ∧ u.boot.vinValid = false ∧
       u.boot.stage = 1 ∧ u.boot.rootLocked = false ∧ u.rdw .energyMj = 0#64 ∧ u.rd .resetCause = 1#32 ∧
       (∀ n i j, n ∈ [RName.hzCfg, .hzPort, .firstMsg, .errnStatus, .reactCfg, .sqStatus] → u.rd n i j = State.reset.rd n i j)))

/-- From R473, R483 and R484: PERST_N resets the PCI Express interface and each function, and nothing else. -/
def Sys2Proof.Machine.Claims.PerstScope : Prop :=
  ∀ s : State,
    (∃ u, exec .perstAssert s = .next u ∧ u.host.linkUp = false ∧ u.host.perst = true ∧ (∀ r : RingIx, u.ringState r = 0) ∧
      (∀ f : FnIx, u.flag F.fnStatus_FROZEN f = false ∧ ∀ v, v < 64 → (u.rd .msixTable f (4 * v + 3)).getLsbD 0 = true) ∧
      u.tm = s.tm ∧ u.time = s.time ∧ u.cirrus = s.cirrus ∧ u.zen = s.zen ∧ u.link = s.link ∧ u.power = s.power ∧ u.boot = s.boot ∧
      u.host.mem = s.host.mem ∧ (s.boot.vinValid = true → bitAt (u.fget F.resetCause_CAUSES) 6 = true)) ∧
    ∃ u, exec .perstRelease s = .next u ∧ u.host.perst = false ∧ u.host.linkUp = (s.boot.vinValid && decide (s.boot.stage ≠ 1)) ∧
      OnlyRegs [] s u ∧ OnlyWide [] s u

/-- What resets keep and clear. -/
def Obligations.ResetsKeepAndClear : Prop :=
  Claims.ResetsKeepAndClear ∧ Claims.PerstScope

/-- From R472, R477, R478, R481, R488 and R571: Dawn to step 5: each step acts only in its place; the first slot that passes, in the order of
SEQ, boots; with none the ROM firmware runs into Horizon mode; a failed block that Dawn needs halts it. -/
def Sys2Proof.Machine.Claims.DawnToStepFive : Prop :=
  ∀ (s : State) (failed : Fin 128),
    (s.boot.vinValid = false → exec .inrushDone s = .next s) ∧
    (s.boot.vinValid = true → ∃ u, exec .inrushDone s = .next u ∧ u.boot.inrush = true ∧ u.boot.stage = s.boot.stage ∧ OnlyRegs [] s u) ∧
    (s.boot.vinValid = false ∨ s.boot.inrush = false ∨ s.boot.stage ≠ 1 → exec .dawnStandbyReady s = .next s) ∧
    (s.boot.vinValid = true → s.boot.inrush = true → s.boot.stage = 1 → ∃ u, exec .dawnStandbyReady s = .next u ∧ u.fget F.dawnStatus_STEP = 2 ∧
      u.boot.stage = 2 ∧ u.boot.rootLocked = true ∧ u.host.linkUp = !s.host.perst ∧ OnlyRegs [.dawnStatus] s u) ∧
    (s.dawnAt 2 = false → exec .bootSlotCheck s = .next s) ∧
    (s.dawnAt 2 = true →
      (let b := s.arbBlow
       let k1 := if 0 < (s.slotSeq 1 + 2 ^ 32 - s.slotSeq 0) % 2 ^ 32 ∧ (s.slotSeq 1 + 2 ^ 32 - s.slotSeq 0) % 2 ^ 32 < 2 ^ 31 then 1 else 0
       let asked := s.boot.hzNext ≠ 0 ∨ s.flag F.hzCfg_HZ_REQ = true
       ∃ u, exec .bootSlotCheck s = .next u ∧ u.boot.stage = 3 ∧ u.flag F.hzCfg_HZ_REQ = false ∧ u.boot.journal = [] ∧
         (asked → u.flag F.dawnStatus_HORIZON = true) ∧
         match b.slotCheck k1, b.slotCheck (1 - k1) with
         | some x, _ => u.fget F.dawnStatus_SLOT = k1 ∧ u.fget F.bootSvn_V = x.svn % 256 ∧ u.boot.image = some x.img ∧
           u.boot.romFirmware = false ∧ u.flag F.dawnStatus_SLOT_A_BAD = s.flag F.dawnStatus_SLOT_A_BAD ∧
           u.flag F.dawnStatus_SLOT_B_BAD = s.flag F.dawnStatus_SLOT_B_BAD ∧
           (¬ asked → u.flag F.dawnStatus_HORIZON = s.flag F.dawnStatus_HORIZON)
         | none, some x => u.fget F.dawnStatus_SLOT = 1 - k1 ∧ u.boot.image = some x.img ∧ u.boot.romFirmware = false ∧
           u.flag (if k1 = 0 then F.dawnStatus_SLOT_A_BAD else F.dawnStatus_SLOT_B_BAD) = true
         | none, none => u.boot.romFirmware = true ∧ u.boot.image = none ∧ u.flag F.dawnStatus_SLOT_A_BAD = true ∧
           u.flag F.dawnStatus_SLOT_B_BAD = true ∧ u.flag F.dawnStatus_HORIZON = true ∧ u.fget F.dawnStatus_HZ_CAUSE = 1)) ∧
    (s.dawnAt 3 = false → exec .serviceCoreStart s = .next s) ∧
    (s.dawnAt 3 = true → ∃ u, exec .serviceCoreStart s = .next u ∧ u.boot.serviceCore = true ∧ u.boot.stage = 4 ∧ OnlyRegs [.dawnStatus] s u) ∧
    (s.dawnAt 4 = false → exec (.dawnBistDone failed) s = .next s) ∧
    (s.dawnAt 4 = true → failed.val % 16 ≠ 0 → ∃ u, exec (.dawnBistDone failed) s = .next u ∧ u.flag F.dawnStatus_HALT = true ∧
      u.flag F.errnStatus_HALT = true ∧ (∀ k, k ≠ 0 → u.dawnAt k = false) ∧ OnlyRegs [.dawnStatus, .errnStatus] s u) ∧
    (s.dawnAt 4 = true → failed.val % 16 = 0 → ∃ u, exec (.dawnBistDone failed) s = .next u ∧ u.boot.stage = 5 ∧
      u.flag F.dawnStatus_HALT = s.flag F.dawnStatus_HALT ∧ OnlyRegs [.dawnStatus] s u)

/-- From R450, R451, R457, R477, R488, R489 and R495: Dawn from step 6 on: failed lanes, the choice between full mode and Horizon mode at step
7, and READY. -/
def Sys2Proof.Machine.Claims.DawnToReady : Prop :=
  ∀ (s : State) (bad : List LaneIx) (vin ms : Fin 65536),
    (s.dawnAt 5 = false → exec (.chipletCalibrated bad) s = .next s) ∧
    (s.dawnAt 5 = true → ∃ u, exec (.chipletCalibrated bad) s = .next u ∧ u.boot.stage = 6 ∧ u.power.chipletOn = true ∧
      ∀ l ∈ bad, (s.hz = true → l.val / 64 = 0) → (u.rd .spareLane (l / 32)).getLsbD (l % 32) = true) ∧
    (∀ units, s.dawnAt 6 = false → exec (.coreBringupDone vin units) s = .next s) ∧
    (s.dawnAt 6 = true → s.noForward = false → s.rd .spareXlink 0 = 0#32 →
      (s.hz = false → 13000 ≤ vin.val → ∃ u, exec (.coreBringupDone vin []) s = .next u ∧ u.boot.stage = 7 ∧ u.power.coreOn = true ∧
        u.flag F.dawnStatus_HORIZON = false ∧ u.flag F.pwrStatus_STARTUP = true ∧
        u.flag F.pwrStatus_THROTTLED = decide (s.fget F.pwrCfg_OP_MAX < u.curOp) ∧
        u.curOp = (if s.flag F.pwrStatus_LIMIT_HOLD || s.power.tripHold || s.power.resetHold || decide (vin.val < 15500) then 7 else if vin.val < 18500 then 6 else if vin.val < 20750 then 5 else 4) ∧
        u.flag F.anvilStatus_READY = true ∧ ∀ t : TileIx, s.tileOn t = true → u.flag F.parseStatus_BASE_LOADED t = true) ∧
      (s.hz = true ∨ vin.val < 13000 → ∃ u, exec (.coreBringupDone vin []) s = .next u ∧ u.boot.stage = 7 ∧ u.flag F.dawnStatus_HORIZON = true ∧
        u.flag F.pwrStatus_HORIZON = true ∧ u.curOp = 7 ∧ u.flag F.dawnStatus_NOFWD = s.flag F.dawnStatus_NOFWD ∧
        (s.fget F.dawnStatus_HZ_CAUSE = 0 → vin.val < 13000 → u.fget F.dawnStatus_HZ_CAUSE = 2) ∧
        (13000 ≤ vin.val → u.fget F.dawnStatus_HZ_CAUSE = s.fget F.dawnStatus_HZ_CAUSE))) ∧
    (s.dawnAt 6 = true → ∃ u, exec (.coreBringupDone vin [(9, 0, 0)]) s = .next u ∧ u.flag F.dawnStatus_HORIZON = true ∧
      u.flag F.dawnStatus_NOFWD = true) ∧
    (s.dawnAt 7 = false → exec (.dawnReady ms) s = .next s) ∧
    (s.dawnAt 7 = true → ∃ u, exec (.dawnReady ms) s = .next u ∧ u.flag F.dawnStatus_READY = true ∧ u.fget F.dawnStatus_STEP = 8 ∧
      u.fget F.dawnMs_V = ms ∧ OnlyRegs [.dawnStatus, .dawnMs] s u ∧ OnlyWide [] s u)

/-- The steps of Dawn. -/
def Obligations.DawnSteps : Prop :=
  Claims.DawnToStepFive ∧ Claims.DawnToReady

/-- A flash operation starts: BUSY, with the operation and its address taken, and the flash as it was (R482, R501). -/
def Sys2Proof.Machine.FlashStarts (s u : State) (op : Nat) : Prop :=
  u.flag F.flashStatus_BUSY = true ∧ u.fget F.flashStatus_RESULT = 0 ∧
    (∃ o, u.boot.flashOp = some o ∧ o.op = op ∧ o.addr = s.fget F.flashAddr_V) ∧ u.boot.flash = s.boot.flash ∧
    OnlyRegs [.flashCtl, .flashStatus] s u ∧ OnlyWide [] s u

/-- From R482, R485 and R501: the flash operations: what is refused, what starts, and what ends in the flash. A FLASH_READ runs on any address
that is a multiple of 256; a FLASH_PROGRAM and a FLASH_ERASE on an address aligned to their size outside the slot that booted. -/
def Obligations.FlashOperations : Prop :=
  ∀ s : State,
    (let addr := s.fget F.flashAddr_V
     let refused (c : Instr) (result : Nat) : Prop := ∃ u, exec c s = .next u ∧ u.flag F.flashStatus_BUSY = false ∧
       u.fget F.flashStatus_RESULT = result ∧ u.boot = s.boot ∧ OnlyRegs [.flashCtl, .flashStatus] s u
     let booted (n : Nat) : Prop := s.boot.romFirmware = false ∧ addr < s.fget F.dawnStatus_SLOT * 0x400000 + 0x400000 ∧
       s.fget F.dawnStatus_SLOT * 0x400000 < addr + n
     (s.flag F.flashStatus_BUSY = true → ∀ c, c ∈ [Instr.flashRead, .flashProgram, .flashErase] → ∃ u, exec c s = .next u ∧ u.boot = s.boot ∧
       OnlyRegs [.flashCtl] s u) ∧
     (s.flag F.flashStatus_BUSY = false →
       (addr % 256 ≠ 0 → refused .flashRead 2 ∧ refused .flashProgram 2) ∧ (addr % 65536 ≠ 0 → refused .flashErase 2) ∧
       (addr % 256 = 0 → (∃ u, exec .flashRead s = .next u ∧ FlashStarts s u 1) ∧ (booted 256 → refused .flashProgram 1) ∧
         (¬ booted 256 → ∃ u, exec .flashProgram s = .next u ∧ FlashStarts s u 2)) ∧
       (addr % 65536 = 0 → (booted 65536 → refused .flashErase 1) ∧
         (¬ booted 65536 → ∃ u, exec .flashErase s = .next u ∧ FlashStarts s u 3)))) ∧
    (s.boot.flashOp = none → ∀ ok, exec (.flashOpDone ok) s = .next s) ∧
    (∀ o, s.boot.flashOp = some o → ∀ ok, ∃ u, exec (.flashOpDone ok) s = .next u ∧ u.flag F.flashStatus_BUSY = false ∧ u.boot.flashOp = none ∧
      u.fget F.flashStatus_RESULT = (if ok then 0 else 3) ∧ OnlyRegs [.flashStatus, .flashData] s u ∧
      (o.op = 1 → u.boot.flash = s.boot.flash ∧ (ok = true → ∀ j : Fin 64, u.rd .flashData j = BitVec.ofNat 32 (leNat (s.flashBytes (o.addr + 4 * j) 4)))) ∧
      (o.op = 2 → ∀ a, (a < o.addr ∨ o.addr + max 256 o.data.length ≤ a) → u.flashAt a = s.flashAt a) ∧
      (o.op = 2 → ok = true → ∀ k, k < o.data.length → u.flashAt (o.addr + k) = nth o.data k 0) ∧
      (o.op = 3 → ∀ a, (a < o.addr ∨ o.addr + 65536 ≤ a) → u.flashAt a = s.flashAt a) ∧
      (o.op = 3 → ok = true → ∀ k, k < 65536 → u.flashAt (o.addr + k) = 0xFF#8))

/-! ### Squall and BIST -/

/-- From R502, R504, R506 and R509: a detected fault sends a message of its kind's severity, or loses it with PEND set while four of its source
are in flight; the unit enters its safe state either way. -/
def Obligations.FaultDetection : Prop :=
  ∀ (s : State) (src : Fin 4096) (kind : Fin 256) (addr : BitVec 48),
    ((kindsOf src).contains kind = false → exec (.faultDetect src kind addr) s = .next s) ∧
    ((kindsOf src).contains kind = true → kind = 4 →
      (let t := src.val % 16
       let i := addr.toNat % 2 ^ 32
       let tid := s.namedTid (addr.toNat / 2 ^ 36 % 256) i
       ∃ u, exec (.faultDetect src kind addr) s = .next u ∧ u.wordBad t tid i = true ∧
         u.rdw .ttParityCnt t = s.rdw .ttParityCnt t + 1#64 ∧ u.te.em = s.te.em ∧
         ((s.squall.flight.filter (fun m => decide (m.source = srcTable t))).length < 4 → ∃ m, u.squall.flight = s.squall.flight ++ [m] ∧
           m.source = srcTable t ∧ m.kind = 4))) ∧
    ((kindsOf src).contains kind = true → src.val / 16 = 0x41 → kind = 0x0B → s.flag F.bpmCtl_DF_REPORT (src % 16) = false →
      ∃ u, exec (.faultDetect src kind addr) s = .next u ∧ u.rdw .cntDoubleFree (src % 16) = s.rdw .cntDoubleFree (src % 16) + 1#64 ∧
        u.squall = s.squall ∧ OnlyRegs [] s u ∧ OnlyWide [.cntDoubleFree] s u) ∧
    ((kindsOf src).contains kind = true → kind ≠ 4 →
      ¬ (src.val / 16 = 0x41 ∧ kind = 0x0B ∧ s.flag F.bpmCtl_DF_REPORT (src % 16) = false) → ∃ u, exec (.faultDetect src kind addr) s = .next u ∧
      ((s.squall.flight.filter (fun m => decide (m.source = src.val))).length < 4 → ∃ m more, u.squall.flight = s.squall.flight ++ m :: more ∧
        m.source = src.val ∧ m.kind = kind.val ∧ m.sev = sevOf src kind ∧ m.addr = addr.toNat ∧ m.stamp = s.stamp) ∧
      (4 ≤ (s.squall.flight.filter (fun m => decide (m.source = src.val))).length → (u.rd .pend (src / 32)).getLsbD (src % 32) = true ∧
        (kind = 2 → u.rdw .cntMsgLost = s.rdw .cntMsgLost + 1#64 ∧ u.squall.flight = s.squall.flight)) ∧
      (0x200 ≤ src.val → src.val < 0x400 → kind = 3 → (s.fget F.portStatus_STATE (src - 0x200) ∈ [0, 9] →
          u.fget F.portStatus_STATE (src - 0x200) = s.fget F.portStatus_STATE (src - 0x200)) ∧
        (s.fget F.portStatus_STATE (src - 0x200) ∉ [0, 9] → u.fget F.portStatus_STATE (src - 0x200) = 8)) ∧
      (∀ p w, src.val < 0x200 → kind ≠ 2 → s.portOfLane src = some (p, w) → s.fget F.portStatus_STATE p ≠ 0 → u.fget F.portStatus_STATE p = 8) ∧
      (src.val < 0x200 → kind = 1 → (u.lane (src / 8 * 8)).pllLost = true) ∧
      (src = 0x4A0 → kind = 1 ∨ kind = 3 → u.host.recoveries = s.host.recoveries + 1 ∧ u.host.aerInternal = true) ∧
      (src.val / 16 = 0x40 → kind = 0x0C →
        (let t := src.val % 16
         let q := if addr.getLsbD 12 then 4096 + addr.toNat % 128 else addr.toNat % 4096
         (u.voq t q).safe = true ∧ (u.voq t q).head = [] ∧ (u.voq t q).due = [] ∧ (u.voq t q).seg = [] ∧ (u.voq t q).behind = [])) ∧
      (src.val / 16 = 0x41 → kind = 0x0A → (u.buf (src.val % 16)).withdrawn.contains (addr.toNat % 65536) = true) ∧
      (src.val / 16 = 0x41 → kind = 0x0B → u.rdw .cntDoubleFree (src % 16) = s.rdw .cntDoubleFree (src % 16) + 1#64) ∧
      (src.val / 16 = 0x42 → kind = 5 → tidKind (s.namedTid (addr.toNat / 2 ^ 36 % 256) (addr.toNat % 2 ^ 32)) = 1 →
        ∀ e, s.emAt (addr.toNat % 2 ^ 32) = some e → e.p0 = e.p1 → u.emAt (addr.toNat % 2 ^ 32) = none) ∧
      (src.val / 16 = 0x42 → kind = 6 →
        (let b := (src.val % 16, addr.toNat / 2 ^ 36 % 4, addr.toNat % 64)
         b ∈ u.te.safeBanks ∨ b ∈ u.te.fixedBanks)) ∧
      (src.val / 16 = 0x43 → kind = 7 → tget (u.pipe (src.val % 16)).csErr (addr.toNat % 32768) 0 = 2) ∧
      (src.val / 16 = 0x46 ∨ src.val / 16 = 0x47 → kind = 0x0D ∨ kind = 0x0E →
        s.fget F.spareAnvil_PAGES_RETIRED (src - 0x460) < 16384 →
        u.tm.anvil.retired.contains ((src.val - 0x460) * 786432 + addr.toNat % 786432) = true) ∧
      (src.val / 16 = 0x46 ∨ src.val / 16 = 0x47 → kind = 1 ∨ kind = 0x0F → u.flag F.anvChStatus_SAFE (src - 0x460) = true ∧
        (u.rd .chActive).getLsbD (src - 0x460) = false) ∧
      (src.val / 16 = 0x44 → kind = 0x13 → s.fget F.spareTile_XLINK_LEFT (src.val % 16) ≠ 0 →
        u.fget F.spareTile_XLINK_LEFT (src.val % 16) = s.fget F.spareTile_XLINK_LEFT (src.val % 16) - 1 ∧ u.rd .spareXlink (src.val % 16) =
          s.rd .spareXlink (src.val % 16)) ∧
      (src = 0x802 → u.flag F.sqStatus_OSC_FALLBACK = true ∧ u.boot.rootLocked = false)) ∧
    ∃ u, exec .rootPllRelock s = .next u ∧ u.flag F.sqStatus_OSC_FALLBACK = false ∧ u.boot.rootLocked = true ∧ OnlyRegs [.sqStatus] s u

/-- From R502, R506 to R508, R511, R514 and R517: Squall accepts the next message of the round robin with the next SEQ, sets PEND, and counts
one that an active mask set covers; it latches the first of a severity at or above LATCH_SEV and takes the actions of its source. -/
def Obligations.SquallAcceptance : Prop :=
  (∀ s : State, (s.squall.flight = [] → exec .squallAccept s = .next s) ∧
    ∀ m, s.nextMsg = some m → m ∈ s.squall.flight ∧
      (∀ x ∈ s.squall.flight, (m.source + 4095 - s.squall.lastSrc) % 4096 ≤ (x.source + 4095 - s.squall.lastSrc) % 4096) ∧
      ∃ u, exec .squallAccept s = .next u ∧ u.squall.seq = (s.squall.seq + 1) % 65536 ∧ u.squall.lastSrc = m.source ∧
        (u.rd .pend (m.source / 32)).getLsbD (m.source % 32) = true ∧
        (let tagged := ∃ k ∈ s.squall.masks, m.own ≠ some k.id ∧ k.lo ≤ m.source ∧ m.source ≤ k.hi ∧ (k.kind = none ∨ k.kind = some m.kind)
         (tagged → u.rdw .cntConseq = s.rdw .cntConseq + 1#64 ∧ u.squall.flight = s.squall.flight.erase m ∧ OnlyRegs [.pend] s u ∧
           OnlyWide [.cntConseq] s u ∧ u.boot = s.boot ∧ u.host = s.host ∧ u.squall.masks = s.squall.masks) ∧
         (¬ tagged →
           (m.sev < s.fget F.sqCtl_LATCH_SEV → (∀ k, u.rd .firstMsg k = s.rd .firstMsg k) ∧
             u.flag F.sqStatus_FIRST_VALID = s.flag F.sqStatus_FIRST_VALID ∧ u.rdw .cntMsg = s.rdw .cntMsg) ∧
           (s.fget F.sqCtl_LATCH_SEV ≤ m.sev → s.flag F.sqStatus_FIRST_VALID = true → (∀ k, u.rd .firstMsg k = s.rd .firstMsg k) ∧
             u.flag F.sqStatus_FIRST_VALID = true ∧ u.flag F.sqStatus_OVERFLOW = true ∧ u.rdw .cntMsg = s.rdw .cntMsg + 1#64) ∧
           (s.fget F.sqCtl_LATCH_SEV ≤ m.sev → s.flag F.sqStatus_FIRST_VALID = false → u.flag F.sqStatus_FIRST_VALID = true ∧
             u.rdw .cntMsg = s.rdw .cntMsg ∧ ∃ reaction, ∀ k, k < 4 → u.rd .firstMsg k = BitVec.ofNat 32
               ((m.source + m.kind * 2 ^ 12 + m.sev * 2 ^ 20 + reaction * 2 ^ 24 + m.addr * 2 ^ 32 + m.stamp * 2 ^ 80 + s.squall.seq * 2 ^ 112) /
                 2 ^ (32 * k))) ∧
           (∀ i : Fin 6, m.source = 0x800 + i → m.kind ≠ 0x14 → 2 ≤ m.sev → m.sev < 4 →
             (let a := s.fget F.reactCfg_ACT i
              (bitAt a 4 = true → bitAt (u.fget F.errnStatus_SRC) i = true) ∧
              (bitAt a 4 = false → u.rd .errnStatus = s.rd .errnStatus) ∧
              (bitAt a 1 = true → u.flag F.sqIrq_URG_PEND = true) ∧
              (bitAt a 3 = true → u.boot.resetDue = true ∧ bitAt u.boot.dueCauses 3 = true ∧ u.squall.privReset = s.squall.privReset) ∧
              (bitAt a 3 = false → bitAt a 2 = true → i ≠ 2 → u.squall.privReset.contains (0x800 + i) = true ∧ u.boot = s.boot) ∧
              (bitAt a 3 = false → bitAt a 2 = false → u.boot = s.boot ∧ u.squall.privReset = s.squall.privReset))) ∧
           (m.source = 0x802 → m.sev = 4 → u.boot.resetDue = true ∧ bitAt u.boot.dueCauses 3 = true) ∧
           (m.source / 16 = 0x44 → m.kind = 0x14 → s.tileOn (m.source % 16) = true → tget s.squall.blockReset (m.source % 16) 0 = 0 →
             tget u.squall.blockReset (m.source % 16) 0 = 1 ∧ (u.pipe (m.source % 16)).stopped = true)))) ∧
  ∀ s : State, ∃ u, exec .firstRearm s = .next u ∧ u.flag F.sqStatus_FIRST_VALID = false ∧ u.flag F.sqStatus_OVERFLOW = false ∧
    (∀ k, u.rd .firstMsg k = s.rd .firstMsg k) ∧ OnlyRegs [.sqStatus] s u ∧ OnlyWide [] s u

/-- From R510, R512, R516 and R517: the steps of a tile's block reset, the end of a privileged source's, and the end of a mask set. -/
def Obligations.BlockResets : Prop :=
  ∀ (s : State) (t : TileIx) (i : Fin 6) (ok : Bool),
    (let busy := (s.runningIn t).any (fun e => e.2.thread.committed) || (s.buf t).voqs.any (fun v => v.2.crossing.isSome)
     (tget s.squall.blockReset t 0 ≠ 1 ∨ busy = true → exec (.blockResetDrained t) s = .next s) ∧
     (tget s.squall.blockReset t 0 = 1 → busy = false → ∃ u, exec (.blockResetDrained t) s = .next u ∧ tget u.squall.blockReset t 0 = 2 ∧
       ∀ fid k, u.pkt t fid = some k → k.stage ≠ .running)) ∧
    (tget s.squall.blockReset t 0 ≠ 2 → exec (.blockResetDone t) s = .next s) ∧
    (tget s.squall.blockReset t 0 = 2 → ∃ u, exec (.blockResetDone t) s = .next u ∧ tget u.squall.blockReset t 0 = 0 ∧
      (u.pipe t).stopped = false ∧ (∀ k ∈ u.squall.masks, k.held ≠ srcTile t) ∧
      (∀ k, tget s.squall.blockPipe t 0 = k + 1 → k < 8 → s.fget F.pipeStatus_ROLE t 8 = 1 → s.fget F.pipeStatus_ROLE t k = 0 →
        u.fget F.pipeStatus_ROLE t k = 5 ∧ u.fget F.pipeStatus_ROLE t 8 = 2 ∧ u.fget F.pipeStatus_STANDIN t 8 = k ∧
        u.flag F.spareTile_PIPE_STANDIN t = true)) ∧
    (s.squall.privReset.contains (0x800 + i.val) = false → exec (.privBlockResetDone i ok) s = .next s) ∧
    (s.squall.privReset.contains (0x800 + i.val) = true → ∃ u, exec (.privBlockResetDone i ok) s = .next u ∧
      u.squall.privReset.contains (0x800 + i.val) = false ∧ (∀ k ∈ u.squall.masks, k.held ≠ 0x800 + i.val) ∧
      (i = 0 → u.flag F.pwrStatus_STARTUP = true) ∧ (i = 3 → u.flag F.bnStatus_FAULT = !ok) ∧
      (i = 5 → s.flag F.anvilCtl_EN = true → s.power.gddrOn = true → u.flag F.anvilStatus_READY = true)) ∧
    ((∀ k ∈ s.squall.masks, k.held ≠ 0) → exec .maskSetExpire s = .next s) ∧
    ∀ pre k post, s.squall.masks = pre ++ k :: post → k.held = 0 → (∀ x ∈ pre, x.held ≠ 0) → ∃ u, exec .maskSetExpire s = .next u ∧
      u.squall.masks = s.squall.masks.filter (fun x => decide (x.id ≠ k.id)) ∧
      u.flag F.sqStatus_MASK_ACTIVE = decide (u.squall.masks ≠ []) ∧ OnlyRegs [.sqStatus] s u ∧ OnlyWide [] s u

/-- From R519 to R522 and R533: plans, single units, the start of a slice and its ends that neither pass nor fail. -/
def Sys2Proof.Machine.Claims.BistSlices : Prop :=
  ∀ (s : State) (v : Word) (d : Fin 25),
    (s.flag F.bistStatus_PLAN = true → ∃ u, exec (.bistRunPlan v) s = .next u ∧ u.squall = s.squall ∧ OnlyRegs [.bistCtl] s u) ∧
    (s.flag F.bistStatus_PLAN = false → ∃ u, exec (.bistRunPlan v) s = .next u ∧ u.fget F.bistCtl_CLASS_MASK = bits v.toNat 9 2 ∧
      tget u.squall.plan d [] = s.planOf d (bits v.toNat 9 2) ∧ u.squall.slices = s.squall.slices ∧
      ((∀ e : Fin 25, s.planOf e (bits v.toNat 9 2) = []) → s.squall.slices = [] → s.squall.plan = [] → u.flag F.bistStatus_PLAN = false)) ∧
    (let c := s.fget F.bistUnit_CLASS
     let e := domOf c (s.fget F.bistUnit_DOMAIN)
     let ix := if c = 7 then 0 else s.fget F.bistIndex_INDEX
     let n : Slice := { cls := c, index := ix }
     ((s.slice e).isSome = true ∨ s.unitOk e c ix = false → ∃ u, exec (.bistRunOne v) s = .next u ∧ u.squall = s.squall ∧ OnlyRegs [.bistCtl] s u) ∧
     (s.slice e = none → s.unitOk e c ix = true → s.skips e n = false →
       ∃ u x, exec (.bistRunOne v) s = .next u ∧ u.slice e = some x ∧ x.cls = c ∧ x.index = ix ∧ x.wait = s.mustWait e n ∧
         (u.rd .bistStatus).getLsbD e = true ∧ (s.mustWait e n = true → u.te = s.te ∧ OnlyRegs [.bistCtl, .bistStatus] s u)) ∧
     (s.slice e = none → s.unitOk e c ix = true → s.skips e n = true → ∃ u, exec (.bistRunOne v) s = .next u ∧
       u.fget F.bistResult_RESULT = 2 ∧ u.fget F.bistResult_CLASS = c ∧ u.rdw .cntBistSkip = s.rdw .cntBistSkip + 1#64 ∧ u.slice e = none)) ∧
    (∃ u, exec (.bistStop v) s = .next u ∧ u.squall.plan = [] ∧ (∀ e : Fin 25, u.slice e = none) ∧ u.flag F.bistStatus_PLAN = false) ∧
    (s.slice d = none → s.flag F.bistCtl_TRIG_EN = true ∨ tget s.squall.plan d [] = [] → exec (.bistSliceStart d) s = .next s) ∧
    (∀ x, s.slice d = some x → x.wait = false ∨ s.mustWait d x = true → exec (.bistSliceStart d) s = .next s) ∧
    (∀ x, s.slice d = some x → x.wait = true → s.mustWait d x = false → ∃ u y, exec (.bistSliceStart d) s = .next u ∧ u.slice d = some y ∧
      y.cls = x.cls ∧ y.index = x.index ∧ y.wait = false ∧ u.squall.plan = s.squall.plan) ∧
    (∀ x rest, s.slice d = none → s.flag F.bistCtl_TRIG_EN = false → tget s.squall.plan d [] = x :: rest → x.wait = false →
      (s.skips d x = true → ∃ u, exec (.bistSliceStart d) s = .next u ∧ u.slice d = none ∧ u.fget F.bistResult_RESULT = 2 ∧
        tget u.squall.plan d [] = rest ∧ u.rdw .cntBistSkip = s.rdw .cntBistSkip + 1#64) ∧
      (s.skips d x = false → ∃ u y, exec (.bistSliceStart d) s = .next u ∧ u.slice d = some y ∧ y.cls = x.cls ∧ y.index = x.index ∧
        y.wait = s.mustWait d x ∧ tget u.squall.plan d [] = rest ∧
        (s.mustWait d x = false → x.cls = 0 → s.fget F.pipeStatus_ROLE d 8 = 1 → s.fget F.pipeStatus_ROLE d x.index = 0 → x.index < 8 →
          u.fget F.pipeStatus_ROLE d x.index = 3 ∧ u.fget F.pipeStatus_ROLE d 8 = 2 ∧ u.fget F.pipeStatus_STANDIN d 8 = x.index))) ∧
    (s.slice d = none → exec (.bistSliceTimeout d) s = .next s) ∧
    (∀ x, s.slice d = some x → ∃ u, exec (.bistSliceTimeout d) s = .next u ∧ u.slice d = none ∧ u.fget F.bistResult_RESULT = 3 ∧
      u.fget F.bistResult_CLASS = x.cls % 16 ∧ u.rdw .cntSlices = s.rdw .cntSlices + 1#64 ∧ u.rdw .cntBistFail = s.rdw .cntBistFail ∧
      (x.cls = 0 → x.wait = false → x.prior = 0 → x.index < 8 → s.fget F.pipeStatus_ROLE d 8 = 2 →
        s.fget F.pipeStatus_STANDIN d 8 = x.index → u.fget F.pipeStatus_ROLE d x.index = 0 ∧ u.fget F.pipeStatus_ROLE d 8 = 1))

/-- Repair rows that the macro of a unit has used since Dawn (R524). -/
def Sys2Proof.Machine.rowsUsed (s : State) (cls t mac : Nat) : Nat := tget s.squall.repairs ((t * 16 + cls) * 65536 + mac) 0

/-- From R178, R519, R520, R523 to R527: a slice that ends with a result: PASS restores the unit; FAIL is counted and reported, and the
unit's repair row, its spare or retirement follows; a control-store slice reports the words it corrected. -/
def Sys2Proof.Machine.Claims.BistFailures : Prop :=
  ∀ (s : State) (d : Fin 25) (loc : Nat) (fixed : List (Fin 1024)),
    (s.slice d = none → ∀ ok, exec (.bistSliceEnd d ok loc fixed) s = .next s) ∧
    ∀ x, s.slice d = some x →
      (x.wait = true ∨ (x.cls = 1 ∧ tget s.te.claims d 0 = 1) → x.cls ≠ 5 ∨ fixed = [] → ∀ ok, exec (.bistSliceEnd d ok loc fixed) s = .next s) ∧
      (x.wait = false → x.cls ≠ 1 ∨ tget s.te.claims d 0 ≠ 1 →
        (∃ u, exec (.bistSliceEnd d true loc fixed) s = .next u ∧ u.slice d = none ∧ u.fget F.bistResult_RESULT = 0 ∧
          u.rdw .cntSlices = s.rdw .cntSlices + 1#64 ∧ u.rdw .cntBistFail = s.rdw .cntBistFail ∧
          (x.cls ≠ 5 ∨ fixed = [] → u.squall.flight = s.squall.flight) ∧ u.boot.fuses = s.boot.fuses ∧
          (x.cls = 5 → ∀ k ∈ fixed, tget (u.pipe d).csErr (x.index + k) 0 ≠ 0) ∧
          (∀ k, x.cls = 5 → fixed = [k] → (s.squall.flight.filter (fun m => decide (m.source = srcCirrus d))).length < 4 →
            ∃ m, u.squall.flight = s.squall.flight ++ [m] ∧ m.source = srcCirrus d ∧ m.kind = 2 ∧ bits m.addr 43 40 = 0xF)) ∧
        ∃ u, exec (.bistSliceEnd d false loc fixed) s = .next u ∧ u.slice d = none ∧ u.fget F.bistResult_RESULT = 1 ∧
          u.rdw .cntBistFail = s.rdw .cntBistFail + 1#64 ∧
          (x.cls ≠ 5 ∨ fixed = [] → (s.squall.flight.filter (fun m => decide (m.source = srcBist))).length < 4 →
            ∃ m more, u.squall.flight = s.squall.flight ++ m :: more ∧ m.source = srcBist ∧ m.kind = 0x20) ∧
          (x.cls = 0 → x.prior = 0 → x.index < 8 → d.val < 16 → s.fget F.pipeStatus_ROLE d 8 = 2 → s.fget F.pipeStatus_STANDIN d 8 = x.index →
            u.fget F.pipeStatus_ROLE d x.index = 4 ∧ u.fget F.pipeStatus_ROLE d 8 = 0 ∧ bitAt (u.fget F.spareTile_PIPE_RETIRED d) x.index = true ∧
            (0, d.val * 16 + x.index) ∈ u.boot.fuses) ∧
          (let left (n : Nat) : Prop := u.fget F.spareTile_REPAIR_LEFT d = min (s.fget F.spareTile_REPAIR_LEFT d) (3 - n)
           let used1 := rowsUsed s 1 d x.index
           let used2 := rowsUsed s 2 d ((x.index + loc % 1024) / 16384)
           let used5 := rowsUsed s 5 d (x.index / 1024)
           (x.cls = 1 → used1 < 4 → rowsUsed u 1 d x.index = used1 + 1 ∧ left used1 ∧
             u.fget F.ttBank_SPARE_FIXED d = s.fget F.ttBank_SPARE_FIXED d) ∧
           (x.cls = 1 → 4 ≤ used1 → (bitAt (u.fget F.ttBank_SPARE_FIXED d) (x.index / 64) = true ∨ 4 ≤ x.index / 64) ∧
             tget u.te.claims d 0 = 0) ∧
           (x.cls = 2 → used2 < 4 → rowsUsed u 2 d ((x.index + loc % 1024) / 16384) = used2 + 1 ∧ left used2 ∧
             u.fget F.spareCells_WITHDRAWN d = s.fget F.spareCells_WITHDRAWN d) ∧
           (x.cls = 2 → 4 ≤ used2 → ∀ k, k < 16 → (u.buf d).withdrawn.contains ((x.index + loc % 1024) / 16 * 16 + k) = true) ∧
           (x.cls = 5 → used5 < 4 → rowsUsed u 5 d (x.index / 1024) = used5 + 1 ∧ left used5) ∧
           (x.cls = 5 → 4 ≤ used5 → d.val < 16 → s.flag F.retireCfg_RETIRE_EN = true → u.flag F.spareTile_TILE_RETIRED d = true)) ∧
          (x.cls = 3 → s.fget F.spareTile_XLINK_LEFT d ≠ 0 → u.fget F.spareTile_XLINK_LEFT d = s.fget F.spareTile_XLINK_LEFT d - 1) ∧
          (x.cls = 4 → s.fget F.spareAnvil_PAGES_RETIRED x.index < 16384 →
            u.tm.anvil.retired.contains (x.index * 786432 + loc % 786432) = true) ∧
          (x.cls = 6 → s.flag F.retireCfg_RETIRE_EN = true → 17 ≤ d.val → x.index < 64 →
            (u.rd .spareLane (((d - 17) * 64 + x.index) / 32)).getLsbD (((d - 17) * 64 + x.index) % 32) = true ∧
            (6, (d.val - 17) * 64 + x.index) ∈ u.boot.fuses))

/-- BIST slices, their results and the spares. -/
def Obligations.BistCommands : Prop :=
  Claims.BistSlices ∧ Claims.BistFailures

/-! ### Bennidan and Zenith -/

/-- Bennidan's commands and their codes (R562). -/
def Sys2Proof.Machine.bnCommands : List (Instr × Nat) :=
  [(.bnQuote, 1), (.bnExtend, 2), (.bnEnroll, 3), (.bnArb, 4), (.bnCert, 5), (.bnZcert, 6), (.bnZcmd, 7)]

/-- What a transmission adds to the running total of a key (R550): the difference modulo 2⁴⁸, or the total itself under a new EPOCH. -/
def Sys2Proof.Machine.tapDiff (s : State) (c k : Nat) : Nat :=
  if tget s.zen.epochs c 0 = tget s.zen.seenEpoch c 0 then (tget s.zen.taps k 0 + 2 ^ 48 - tget s.zen.seen k 0) % 2 ^ 48 else tget s.zen.taps k 0

/-- A command of Bennidan starts, or is to end, with a result (R547). -/
def Sys2Proof.Machine.BnStarts (u : State) (r : BnRun) (code result : Nat) : Prop :=
  u.trust.run = some r ∧ r.cmd = code ∧ r.result = result ∧ u.flag F.bnStatus_BUSY = true

/-- From R540 to R542, R544, R546 and R547: a command starts, is ignored while one is in progress, or is to end with FAULT; what each fixes when
it starts. -/
def Sys2Proof.Machine.Claims.BennidanStarts : Prop :=
  ∀ (s : State),
    (s.flag F.bnStatus_BUSY = true → ∀ c ∈ bnCommands, exec c.1 s = .next (s.bump .bnIgnored)) ∧
    (s.flag F.bnStatus_BUSY = false → s.flag F.bnStatus_FAULT = true → ∀ c ∈ bnCommands, ∃ u r, exec c.1 s = .next u ∧ u.trust.run = some r ∧
      r.cmd = c.2 ∧ r.result = 4 ∧ u.flag F.bnStatus_BUSY = true ∧ OnlyRegs [.bnStatus] s u ∧ OnlyWide [] s u) ∧
    (s.flag F.bnStatus_BUSY = false → s.flag F.bnStatus_FAULT = false →
      (let a := (s.rd .bnArg).toNat
       (∃ u r, exec .bnQuote s = .next u ∧ BnStarts u r 1 0 ∧ r.out.length = 1632 ∧ leNat (bytesAt r.out 0 4) = 0x51544F51 ∧
         (∀ j, j < 8 → leNat (bytesAt r.out (8 + 4 * j) 4) = (s.rd .nonce j).toNat) ∧ (∀ m, m < 5 → bytesAt r.out (64 + 32 * m) 32 = s.meas m) ∧
         leNat (bytesAt r.out 224 2) = s.fget F.verStatus_CUR_VERSION ∧ leNat (bytesAt r.out 232 8) = s.ns64 ∧
         leNat (bytesAt r.out 256 4) = 0x4B424753 ∧ byteAt r.out 262 = 2 ∧ bytesAt r.out 272 64 = Config.shake256 (r.out.take 256) 64 ∧
         OnlyRegs [.bnStatus] s u ∧ OnlyWide [] s u) ∧
       (a % 8192 = 0 ∨ 4096 < a % 8192 → ∃ u r, exec .bnExtend s = .next u ∧ BnStarts u r 2 3 ∧ OnlyRegs [.bnStatus] s u) ∧
       (a % 8192 ≠ 0 → a % 8192 ≤ 4096 → ∃ u r, exec .bnExtend s = .next u ∧ BnStarts u r 2 0 ∧
         (r.out = Config.shake256 (s.meas 3 ++ s.inBytes.take (a % 8192)) 32 ∧ OnlyRegs [.bnStatus] s u)) ∧
       (let n := s.fget F.ownerStatus_ENROLLMENTS
        (4 ≤ n → ∃ u r, exec .bnEnroll s = .next u ∧ BnStarts u r 3 2 ∧ u.trust.slots = s.trust.slots ∧ OnlyRegs [.bnStatus] s u) ∧
        (n < 4 → bytesAt s.inBytes 1793 8 ≠ keyId Config.devKey → ∃ u r, exec .bnEnroll s = .next u ∧ BnStarts u r 3 1 ∧
          u.trust.slots = s.trust.slots ∧ OnlyRegs [.bnStatus] s u) ∧
        (∃ u r, exec .bnEnroll s = .next u ∧ BnStarts u r 3 (s.enrolCheck s.inBytes) ∧ u.trust.owner = s.trust.owner ∧
          u.flag F.ownerStatus_ENROLLED = s.flag F.ownerStatus_ENROLLED ∧
          u.fget F.ownerStatus_ENROLLMENTS = n + (if r.result = 0 then 1 else 0) ∧
          u.trust.slots = s.trust.slots ++ (if r.result = 0 then [Config.shake256 (bytesAt s.inBytes 0 1793) 32] else []))) ∧
       (let cls := a % 4
        let v := a / 256 % 256
        let ok := ∃ n, s.runningSvn cls = some n ∧ s.arbOf cls < v ∧ v ≤ n
        (ok → ∃ u r, exec .bnArb s = .next u ∧ BnStarts u r 4 0 ∧ u.boot.journal = s.boot.journal ++ [.arb cls v] ∧ u.rd .arbCtr = s.rd .arbCtr) ∧
        (¬ ok → ∃ u r, exec .bnArb s = .next u ∧ BnStarts u r 4 3 ∧ u.boot = s.boot ∧ u.rd .arbCtr = s.rd .arbCtr)) ∧
       (∃ u r, exec .bnCert s = .next u ∧ BnStarts u r 5 0 ∧ r.out = Config.devCert.take 4095 ∧ OnlyRegs [.bnStatus] s u) ∧
       (∃ u r, exec .bnZcert s = .next u ∧ BnStarts u r 6 (if s.zenPort then 0 else 6) ∧ OnlyRegs [.bnStatus] s u) ∧
       (∃ u r, exec .bnZcmd s = .next u ∧ BnStarts u r 7 (if s.zenPort then 0 else 6) ∧ (s.zenPort = true → u.trust.zcmd = some s.inBytes ∧ u.trust.zreply = none) ∧
         u.zen = s.zen ∧ OnlyRegs [.bnStatus] s u)))

/-- From R486, R541, R542, R544, R547 and R562: the end of a command: RESULT, the output, and its effect only when it ends with OK. -/
def Sys2Proof.Machine.Claims.BennidanEnds : Prop :=
  ∀ (s : State),
    (s.trust.run = none → exec .bnCommandDone s = .next s) ∧
    ∀ r, s.trust.run = some r → r.result < 16 →
      (r.cmd = 7 → r.result = 0 → s.zenPort = true → s.trust.zreply = none → exec .bnCommandDone s = .next s) ∧
      (r.result ≠ 0 → ∃ u, exec .bnCommandDone s = .next u ∧ u.trust.run = none ∧ u.flag F.bnStatus_BUSY = false ∧
        u.fget F.bnResult_RESULT = r.result ∧ (r.result ≠ 5 → OnlyRegs [.bnResult, .bnStatus] s u ∧ u.boot = s.boot)) ∧
      (r.result = 0 → r.out.length ≤ 4096 → r.cmd = 1 ∨ r.cmd = 5 ∨ r.cmd = 6 → ∃ u, exec .bnCommandDone s = .next u ∧ u.flag F.bnStatus_BUSY = false ∧
        u.fget F.bnResult_RESULT = 0 ∧ u.fget F.bnResult_OUT_LEN = r.out.length % 4096 ∧
        (∀ j, 4 * j < r.out.length → j < 1024 → u.rd .outBuf j = BitVec.ofNat 32 (leNat (bytesAt r.out (4 * j) 4))) ∧
        OnlyRegs [.bnResult, .bnStatus, .outBuf] s u) ∧
      (r.result = 0 → r.cmd = 2 → ∃ u, exec .bnCommandDone s = .next u ∧ u.fget F.bnResult_RESULT = 0 ∧
        (∀ j, j < 8 → u.rd .bnMeas 3 j = BitVec.ofNat 32 (leNat (bytesAt r.out (4 * j) 4))) ∧ (∀ m j, m < 5 → m ≠ 3 → u.rd .bnMeas m j = s.rd .bnMeas m j) ∧
        OnlyRegs [.bnResult, .bnStatus, .bnMeas] s u) ∧
      (r.result = 0 → r.cmd = 3 → ∃ u, exec .bnCommandDone s = .next u ∧ u.fget F.bnResult_RESULT = 0 ∧ u.flag F.ownerStatus_ENROLLED = true ∧
        u.trust.owner = s.trust.newOwner ∧ u.cirrus.stagedCust = none ∧ u.flag F.imgStatus_STAGED_CUST = false) ∧
      (r.result = 0 → r.cmd = 4 → ∀ cls v, cls < 3 → v < 256 → s.boot.journal = [.arb cls v] → ∃ u, exec .bnCommandDone s = .next u ∧
        u.fget F.bnResult_RESULT = 0 ∧ u.boot.journal = [] ∧ u.arbOf cls = max v (s.arbOf cls) ∧
        (∀ c, c < 3 → c ≠ cls → u.arbOf c = s.arbOf c) ∧ OnlyRegs [.bnResult, .bnStatus, .arbCtr] s u) ∧
      (r.result = 0 → r.cmd = 7 →
        (s.zenPort = false → ∃ u, exec .bnCommandDone s = .next u ∧ u.fget F.bnResult_RESULT = 6) ∧
        (∀ why, s.zenPort = true → s.trust.zreply = some why → why < 256 → ∃ u, exec .bnCommandDone s = .next u ∧
          u.fget F.bnResult_RESULT = (if why = 0 then 0 else 5) ∧ (why ≠ 0 → u.fget F.bnResult_ZEN_REASON = why) ∧ u.zen = s.zen ∧
          OnlyRegs [.bnResult, .bnStatus, .outBuf] s u))

/-- Bennidan's commands. -/
def Obligations.BennidanCommands : Prop :=
  Claims.BennidanStarts ∧ Claims.BennidanEnds

/-- From R550, R551, R554 and R560: a transmission that arrives adds its differences to the accounts of its chiplet's pairs, and a lost one adds
nothing; the cumulative counts wrap and the interval's bad frames saturate. -/
def Sys2Proof.Machine.Claims.ZenithCounting : Prop :=
  ∀ (s : State) (c : Fin 8) (cycles : Nat),
    (∀ ok, s.zen.present = false → exec (.zenTapTotals c ok cycles) s = .next s) ∧
    (∀ ok, s.zen.present = true → ok = false ∨ s.tapUp c = false ∨ s.zen.edges ≠ [] →
      exec (.zenTapTotals c ok cycles) s = .next { s with zen := { s.zen with zc := s.zen.zc + cycles } }) ∧
    (s.zen.present = true → s.tapUp c = true → s.zen.edges = [] → ∃ u, exec (.zenTapTotals c true cycles) s = .next u ∧
      u.zen.zc = s.zen.zc + cycles ∧
      (let added (a kind : Nat) : Nat := (((List.range 512).filter (fun i => decide (s.zen.acct (512 * c + i) = a))).map
         (fun i => tapDiff s c (3 * (512 * c + i) + kind))).sum
       (∀ a, tget u.zen.frames a 0 % 2 ^ 64 = (tget s.zen.frames a 0 + added a 0) % 2 ^ 64 ∧
         tget u.zen.bytes a 0 % 2 ^ 64 = (tget s.zen.bytes a 0 + added a 1) % 2 ^ 64 ∧
         (tget s.zen.bad a 0 < 2 ^ 32 → tget u.zen.bad a 0 = min (2 ^ 32 - 1) (tget s.zen.bad a 0 + added a 2)) ∧
         (added a 0 + added a 1 + added a 2 ≠ 0 → a ∈ u.zen.changed)) ∧
       (∀ k, k / 1536 = c → tget u.zen.seen k 0 = tget s.zen.taps k 0) ∧ (∀ k, k / 1536 ≠ c → tget u.zen.seen k 0 = tget s.zen.seen k 0) ∧
       u.zen.taps = s.zen.taps ∧ u.zen.openAt = s.zen.openAt ∧ u.zen.appends = s.zen.appends ∧ u.zen.ckBytes = s.zen.ckBytes ∧
       OnlyRegs [] s u ∧ OnlyWide [] s u ∧ u.host = s.host))

/-- From R552 and R553: a firing is an edge when DIVIDE divides its index; the first edge opens an interval, one within 1 s is ignored and
counted, and any other closes the interval with a record and opens the next; without an edge for MAX_S the interval closes on its own. -/
def Sys2Proof.Machine.Claims.ZenithIntervals : Prop :=
  ∀ (s : State) (cycles : Nat),
    (let now := s.zen.zc + cycles
     let on : State := { s with zen := { s.zen with zc := now } }
     (s.zen.present = false → exec (.zenEdge cycles) s = .next s ∧ exec (.zenEdgeTimeout cycles) s = .next s) ∧
     (s.zen.present = true → s.zen.edges = [] → exec (.zenEdge cycles) s = .next on) ∧
     (s.zen.present = true → ∀ e rest, s.zen.edges = e :: rest →
      (e.k % max 1 (bits s.zen.cfg 15 4) ≠ 0 → ∃ u, exec (.zenEdge cycles) s = .next u ∧
        u.zen = { s.zen with zc := now, edges := rest, lastNs := e.ns }) ∧
      (e.k % max 1 (bits s.zen.cfg 15 4) = 0 →
        (s.zen.openAt = none → ∃ u, exec (.zenEdge cycles) s = .next u ∧ u.zen.openAt = some (e.ns, now) ∧ u.zen.appends = s.zen.appends ∧
          u.zen.edges = rest ∧ u.zen.changed = [] ∧ u.zen.bad = []) ∧
        (∀ ns0 t0, s.zen.openAt = some (ns0, t0) →
          (now - t0 < 25000000 → ∃ u, exec (.zenEdge cycles) s = .next u ∧
            u.zen = { s.zen with zc := now, edges := rest, lastNs := e.ns, ignored := (s.zen.ignored + 1) % 2 ^ 32 }) ∧
          (25000000 ≤ now - t0 → ∃ u r, exec (.zenEdge cycles) s = .next u ∧ u.zen.appends = s.zen.appends ++ [r] ∧ r.rkind = 0 ∧
            r.startNs = ns0 ∧ r.endNs = e.ns ∧ r.ticks = now - t0 ∧ bitAt r.flags 0 = bitAt s.zen.flags 0 ∧
            bitAt r.flags 2 = bitAt s.zen.flags 2 ∧
            (bitAt s.zen.flags 3 = false → (bitAt r.flags 3 = true ↔
              (((now - t0) * 40 : Nat) : Int) < 1000 * ((((e.ns : Int) - ns0) - ((now - t0) * 40 : Nat)).natAbs : Int))) ∧
            r.bytes = u.zen.bytes ∧ r.frames = u.zen.frames ∧ r.mapDigest = s.zen.mapDigest ∧
            u.zen.openAt = some (e.ns, now) ∧ u.zen.changed = [] ∧ u.zen.bad = [] ∧ u.zen.edges = rest ∧ u.zen.pendMap = [] ∧
            (u.zen.cfg = s.zen.pendCfg.getD s.zen.cfg) ∧ (s.zen.pendMap = [] → u.zen.map = s.zen.map) ∧
            (bitAt u.zen.flags 2 = true ↔ s.zen.pendMap ≠ []))))) ∧
     (s.zen.present = true → s.zen.openAt = none → exec (.zenEdgeTimeout cycles) s = .next on) ∧
     (∀ ns0 t0, s.zen.present = true → s.zen.openAt = some (ns0, t0) →
      (let n := now - t0
       (n < bits s.zen.cfg 27 16 * 25000000 → exec (.zenEdgeTimeout cycles) s = .next on) ∧
       (bits s.zen.cfg 27 16 * 25000000 ≤ n → ∃ u r, exec (.zenEdgeTimeout cycles) s = .next u ∧ u.zen.appends = s.zen.appends ++ [r] ∧
         r.startNs = ns0 ∧ r.endNs = ns0 + n * 40 ∧ r.ticks = n ∧ bitAt r.flags 0 = true ∧ u.zen.openAt = some (ns0 + n * 40, now)))))

/-- Zenith's counts and intervals. -/
def Obligations.ZenithCountsAndIntervals : Prop :=
  Claims.ZenithCounting ∧ Claims.ZenithIntervals

/-- From R553, R555 and R556: the commit of a record, with its sequence number and the digest of the record before it; tamper; the loss of ZVDD
and power-up from the checkpoint. -/
def Obligations.ZenithRecords : Prop :=
  ∀ (s : State),
    (s.zen.appends = [] → exec .zenRecordCommit s = .next s) ∧
    (∀ r rest, s.zen.appends = r :: rest → ∃ u bs, exec .zenRecordCommit s = .next u ∧ u.zen.appends = rest ∧ u.zen.rseq = s.zen.rseq + 1 ∧
      u.zen.ckBytes = r.bytes ∧ u.zen.ckFrames = r.frames ∧ u.zen.prev = Config.shake256 bs 32 ∧ u.zen.openAt = s.zen.openAt ∧
      byteAt bs 0 = 4 ∧ byteAt bs 1 = r.rkind % 256 ∧ (s.zen.rseq < 2 ^ 64 → leNat (bytesAt bs 8 8) = s.zen.rseq) ∧
      (r.startNs < 2 ^ 64 → leNat (bytesAt bs 16 8) = r.startNs) ∧ (r.endNs < 2 ^ 64 → leNat (bytesAt bs 24 8) = r.endNs) ∧
      bytesAt bs 48 32 = bytesAt s.zen.prev 0 32 ∧
      (r.detail.length = 16 → r.entries.length ≤ 98304 → bs.length = 1504 + r.entries.length ∧ leNat (bytesAt bs 4 4) = bs.length ∧
        bytesAt bs 128 r.entries.length = r.entries ∧ byteAt bs (128 + r.entries.length + 6) = 3 ∧
        u.zen.journal.getLast? = some (s.zen.rseq, bs)) ∧ (u.zen.journal.map (fun e => e.2.length)).sum ≤ 1048576 ∧ OnlyRegs [] s u) ∧
    (∀ cause : Fin 6, (s.zen.present = false ∨ cause = 0 → exec (.zenTamper cause) s = .next s) ∧
      (s.zen.present = true → cause ≠ 0 → ∃ u r, exec (.zenTamper cause) s = .next u ∧ u.zen.tamper = true ∧ u.zen.lastTamper = cause ∧
        u.zen.sealed = false ∧ u.zen.appends = s.zen.appends ++ [r] ∧ r.rkind = 1 ∧ byteAt r.detail 0 = cause ∧
        u.zen.bytes = s.zen.bytes ∧ u.zen.frames = s.zen.frames ∧
        ((s.squall.flight.filter (fun m => decide (m.source = srcZenith))).length < 4 → ∃ m, u.squall.flight = s.squall.flight ++ [m] ∧
          m.source = srcZenith ∧ m.kind = 0x38 ∧ m.addr = (cause : Nat)))) ∧
    (s.zen.present = false → exec .zvddLoss s = .next s) ∧
    (s.zen.present = true → (∀ ok, exec (.zvddPowerUp ok) s = .next s) ∧ ∃ u, exec .zvddLoss s = .next u ∧ u.zen.present = false ∧ u.zen.lost = true ∧
      u.zen.appends = [] ∧ u.zen.rseq = s.zen.rseq ∧ u.zen.journal = s.zen.journal ∧ u.zen.ckBytes = s.zen.ckBytes ∧ u.zen.taps = s.zen.taps) ∧
    (s.zen.present = false → ∀ ok, ∃ u r more, exec (.zvddPowerUp ok) s = .next u ∧ u.zen.present = true ∧ u.zen.lost = false ∧
      u.zen.bytes = s.zen.ckBytes ∧ u.zen.frames = s.zen.ckFrames ∧ u.zen.selfTest = ok ∧ u.zen.appends = s.zen.appends ++ more ++ [r] ∧ r.rkind = 3 ∧
      u.zen.tamper = (s.zen.tamper || s.zen.lost || !ok) ∧ more.length = b2n s.zen.lost + b2n (!ok))

/-- From R557 and R558: Zenith takes a command buffer only once it has verified it, and changes nothing where it refuses one; what each
operation changes, at once or at the next edge, with a CONFIG record. -/
def Sys2Proof.Machine.Claims.ZenithCommands : Prop :=
  ∀ (s : State),
    (s.trust.zcmd = none ∨ s.zenPort = false ∨ s.trust.zreply.isSome = true → exec .zenCommand s = .next s) ∧
    ∀ d, s.trust.zcmd = some d → s.zenPort = true → s.trust.zreply = none →
      (let z := s.zen
       let op := byteAt d 4
       let n := 24 + leNat (bytesAt d 20 4)
       ∃ u why, exec .zenCommand s = .next u ∧ u.trust.zreply = some why ∧ OnlyRegs [] s u ∧
         (why = 0 ↔ leNat (bytesAt d 0 4) = 0x444D435A ∧ 1 ≤ op ∧ op ≤ 4 ∧ n + 1376 ≤ d.length ∧ (z.auth = [] → op = 3) ∧
            sigOk 4 (if z.auth = [] then [bytesAt d 24 1793] else [z.auth]) (d.take n) (bytesAt d n 1376) = true ∧
            bytesAt d 8 8 = keyId Config.zenKey ∧ z.seq < leNat (bytesAt d 16 4) ∧ z.payloadOk d = true) ∧
         (op = 3 → 2 ≤ z.authSlots → why ≠ 0) ∧
         (why ≠ 0 → u.zen = z) ∧
         (why = 0 → ∃ r, u.zen.seq = leNat (bytesAt d 16 4) ∧ u.zen.appends = z.appends ++ [r] ∧ r.rkind = 2 ∧ byteAt r.detail 0 = op ∧
           u.zen.map = z.map ∧ u.zen.cfg = z.cfg ∧ u.zen.bytes = z.bytes ∧ u.zen.frames = z.frames ∧
           (op ≠ 1 → u.zen.pendMap = z.pendMap) ∧ (op ≠ 2 → u.zen.pendCfg = z.pendCfg) ∧ (op ≠ 3 → u.zen.auth = z.auth) ∧
           (op ≠ 4 → u.zen.tamper = z.tamper) ∧ (op = 4 → u.zen.tamper = false) ∧
           (op = 3 → u.zen.auth = bytesAt d 24 1793 ∧ u.zen.authSlots = z.authSlots + 1) ∧
           (op = 2 → ∃ x, u.zen.pendCfg = some x ∧ x % 16 = byteAt d 24 ∧ x / 16 % 4096 = leNat (bytesAt d 26 2) ∧
             x / 65536 = leNat (bytesAt d 28 2)) ∧
           (op = 1 → ∃ l, u.zen.pendMap = z.pendMap ++ l ∧ l.length = leNat (bytesAt d 26 2) ∧
             ∀ k, k < l.length → l[k]? = some (leNat (bytesAt d 24 2) + k, leNat (bytesAt d (28 + 2 * k) 2)))))

/-- From R559: a committed record goes alone into the next buffer of PF3's lowest-numbered ACTIVE capture ring; one that does not fit stays, and
the short buffer goes back empty. -/
def Sys2Proof.Machine.Claims.ZenithDelivery : Prop :=
  ∀ (s : State),
    ((∀ r : RingIx, ¬ (s.ringOwnerOf r = 3 ∧ s.ringTypeOf r = 4 ∧ s.ringState r = 1)) ∨ s.blocked 3 = true ∨ s.zenPort = false ∨
      (∀ e ∈ s.zen.journal, e.1 < s.zen.deliver) → exec .zenRecordDeliver s = .next s) ∧
    ∀ (r : RingIx) (pre post : List (Nat × List Byte)) (rseq : Nat) (rec d : List Byte) (pos : Nat) (more : List (Nat × List Byte)),
      s.ringOwnerOf r = 3 → s.ringTypeOf r = 4 → s.ringState r = 1 → (∀ q : RingIx, q < r → ¬ (s.ringOwnerOf q = 3 ∧ s.ringTypeOf q = 4 ∧ s.ringState q = 1)) →
      s.blocked 3 = false → s.zenPort = true → s.zen.journal = pre ++ (rseq, rec) :: post → (∀ e ∈ pre, e.1 < s.zen.deliver) → s.zen.deliver ≤ rseq →
      (s.ring r).started = [] → (s.ring r).capBytes = 0 → (s.ring r).capRecords = 0 → (s.ring r).fetched = (pos, d) :: more → bitAt (byteAt d 31) 7 = true →
      s.hostOk 3 (s.entryAddr r (s.ringH r)) 32 true = true →
      (let a := leNat (bytesAt d 0 8)
       let n := leNat (bytesAt d 8 4)
       let e := s.entryAddr r (s.ringH r)
       a % 4096 = 0 → n % 4096 = 0 → 4096 ≤ n → n ≤ 1048576 → s.hostOk 3 a n true = true →
       (131072 ≤ n → a + rec.length ≤ e ∨ e + 32 ≤ a → ∃ u, exec .zenRecordDeliver s = .next u ∧ memGet u.host.mem a rec.length = rec ∧
         leNat (memGet u.host.mem e 4) = rec.length % 2 ^ 32 ∧ leNat (memGet u.host.mem (e + 4) 4) = 1 ∧ u.zen.deliver = rseq + 1 ∧
         byteAt (memGet u.host.mem e 32) 31 = 0 ∧ byteAt (memGet u.host.mem e 32) 16 = b2n (decide (s.zen.deliver < rseq) || (s.ring r).capLost) ∧
         ∀ x, (x < a ∨ a + rec.length ≤ x) → (x < e ∨ e + 32 ≤ x) → tget u.host.mem x 0 = tget s.host.mem x 0) ∧
       (n < 131072 → ∃ u, exec .zenRecordDeliver s = .next u ∧ leNat (memGet u.host.mem e 4) = 0 ∧ leNat (memGet u.host.mem (e + 4) 4) = 0 ∧
         byteAt (memGet u.host.mem e 32) 31 = 0 ∧ u.zen = s.zen ∧ ∀ x, (x < e ∨ e + 32 ≤ x) → tget u.host.mem x 0 = tget s.host.mem x 0))

/-- The authority's commands and the delivery of records. -/
def Obligations.ZenithCommandsAndDelivery : Prop :=
  Claims.ZenithCommands ∧ Claims.ZenithDelivery
end

