-- ==== Sys2Proof/Laws/Tables.lean ====
section
/-!
SUPPORT. What the operations on sparse tables and bit fields do: a read after a write, and the canonical form.
-/

set_option Elab.async false

namespace Sys2Proof.Machine

variable {α : Type}

/-! ## Sparse tables -/

@[simp] theorem tget_nil (k : Nat) (d : α) : tget [] k d = d := rfl

theorem tget_tput_same (t : Tab α) (k : Nat) (d v : α) : tget (tput t k v) k d = v := by
  induction t with
  | nil => simp [tput, tget]
  | cons e r ih =>
    simp only [tput]
    split
    · simp [tget]
    · split
      · simp [tget]
      · simp [tget, *]

theorem tget_tput_ne (t : Tab α) {k k' : Nat} (d v : α) (h : k' ≠ k) : tget (tput t k v) k' d = tget t k' d := by
  induction t with
  | nil => simp [tput, tget, h.symm]
  | cons e r ih =>
    simp only [tput]
    split
    · simp [tget, h.symm]
    · split
      · simp_all [tget, h.symm]
      · simp [tget, ih]

theorem tget_tdel_same (t : Tab α) (k : Nat) (d : α) : tget (tdel t k) k d = d := by
  induction t with
  | nil => rfl
  | cons e r ih =>
    simp only [tdel]
    split
    · exact ih
    · simp [tget, *]

theorem tget_tdel_ne (t : Tab α) {k k' : Nat} (d : α) (h : k' ≠ k) : tget (tdel t k) k' d = tget t k' d := by
  induction t with
  | nil => rfl
  | cons e r ih =>
    simp only [tdel]
    split
    · next he => simp [tget, ih, he, h.symm]
    · simp [tget, ih]

section
variable [DecidableEq α]

/-- A read after a write to the same key gives the value written. -/
@[simp] theorem tget_tset_same (t : Tab α) (k : Nat) (d v : α) : tget (tset t k d v) k d = v := by
  unfold tset
  split
  · next h => rw [tget_tdel_same, h]
  · exact tget_tput_same t k d v

/-- A write leaves every other key alone. -/
theorem tget_tset_ne (t : Tab α) {k k' : Nat} (d d' v : α) (h : k' ≠ k) : tget (tset t k d v) k' d' = tget t k' d' := by
  unfold tset
  split
  · exact tget_tdel_ne t d' h
  · exact tget_tput_ne t d' v h

/-- A read after a write, either way. -/
theorem tget_tset (t : Tab α) (k k' : Nat) (d v : α) :
    tget (tset t k d v) k' d = if k' = k then v else tget t k' d := by
  split
  · next h => rw [h, tget_tset_same]
  · next h => exact tget_tset_ne t d d v h

end

theorem tsorted_mono {lo lo' : Nat} {t : Tab α} (h : tsorted lo t = true) (hl : lo' ≤ lo) : tsorted lo' t = true := by
  cases t with
  | nil => rfl
  | cons e r => simp [tsorted] at h ⊢; exact ⟨by omega, h.2⟩

theorem tsorted_tput {lo : Nat} {t : Tab α} {k : Nat} (v : α) (h : tsorted lo t = true) (hk : lo ≤ k) :
    tsorted lo (tput t k v) = true := by
  induction t generalizing lo with
  | nil => simp [tput, tsorted, hk]
  | cons e r ih =>
    simp only [tsorted, Bool.and_eq_true, decide_eq_true_eq] at h
    simp only [tput]
    split
    · next hlt => simp [tsorted, hk, h.2]; omega
    · split
      · next he => subst he; simp [tsorted, h]
      · simp only [tsorted, Bool.and_eq_true, decide_eq_true_eq]
        exact ⟨h.1, ih h.2 (by omega)⟩

theorem tsorted_filter {lo : Nat} {t : Tab α} (p : Nat × α → Bool) (h : tsorted lo t = true) : tsorted lo (t.filter p) = true := by
  induction t generalizing lo with
  | nil => rfl
  | cons e r ih =>
    simp only [tsorted, Bool.and_eq_true, decide_eq_true_eq] at h
    simp only [List.filter_cons]
    split
    · simp only [tsorted, Bool.and_eq_true, decide_eq_true_eq]; exact ⟨h.1, ih h.2⟩
    · exact tsorted_mono (ih h.2) (by omega)

/-- Dropping entries of other keys. -/
theorem tget_filter {t : Tab α} {k : Nat} (d : α) (p : Nat × α → Bool) (h : ∀ v, p (k, v) = true) : tget (t.filter p) k d = tget t k d := by
  induction t with
  | nil => rfl
  | cons e r ih =>
    obtain ⟨k', v⟩ := e
    by_cases he : k' = k
    · subst he
      simp [h v, tget]
    · simp only [List.filter_cons]
      split
      · simp [tget, he, ih]
      · simp [tget, he, ih]

theorem tdel_eq_filter (t : Tab α) (k : Nat) : tdel t k = t.filter (fun e => decide (e.1 ≠ k)) := by
  induction t with
  | nil => rfl
  | cons e r ih =>
    simp only [tdel, List.filter_cons, ih]
    by_cases h : e.1 = k <;> simp [h]

theorem mem_tput {t : Tab α} {k : Nat} {v : α} {e : Nat × α} (h : e ∈ tput t k v) : e = (k, v) ∨ e ∈ t := by
  induction t with
  | nil => simpa [tput] using h
  | cons a r ih =>
    simp only [tput] at h
    split at h
    · simpa using h
    · split at h
      · simp at h ⊢; tauto
      · simp at h ⊢; tauto

section
variable [DecidableEq α]

/-- Dropping entries keeps the canonical form. -/
theorem twf_filter {d : Nat → α} {t : Tab α} (p : Nat × α → Bool) (h : twf d t = true) : twf d (t.filter p) = true := by
  simp only [twf, Bool.and_eq_true, List.all_eq_true] at h ⊢
  exact ⟨tsorted_filter p h.1, fun e he => h.2 e (List.mem_of_mem_filter he)⟩

/-- A write keeps the canonical form. -/
theorem twf_tset {d : Nat → α} {t : Tab α} (k : Nat) (v : α) (h : twf d t = true) : twf d (tset t k (d k) v) = true := by
  unfold tset
  split
  · rw [tdel_eq_filter]; exact twf_filter _ h
  · next hv =>
    simp only [twf, Bool.and_eq_true, List.all_eq_true, decide_eq_true_eq] at h ⊢
    refine ⟨tsorted_tput v h.1 (Nat.zero_le _), fun e he => ?_⟩
    rcases mem_tput he with rfl | he
    · exact hv
    · exact h.2 e he

@[simp] theorem twf_nil (d : Nat → α) : twf d [] = true := rfl

end

/-! ## Bit fields -/

theorem testBit_bits (v hi lo k : Nat) : (bits v hi lo).testBit k = (decide (k < hi + 1 - lo) && v.testBit (lo + k)) := by
  unfold bits
  rw [Nat.testBit_mod_two_pow, Nat.testBit_shiftRight]

theorem setBits_eq (v hi lo x : Nat) (h : lo ≤ hi) :
    setBits v hi lo x = (v / 2 ^ (hi + 1)) * 2 ^ (hi + 1) + (x % 2 ^ (hi + 1 - lo)) * 2 ^ lo + v % 2 ^ lo := by
  unfold setBits bits
  rw [Nat.shiftLeft_eq, Nat.shiftLeft_eq, Nat.shiftRight_eq_div_pow]
  have hp : 2 ^ (hi + 1) = 2 ^ lo * 2 ^ (hi + 1 - lo) := by rw [← Nat.pow_add]; congr 1; omega
  have h1 := Nat.div_add_mod v (2 ^ lo)
  have h2 := Nat.div_add_mod (v / 2 ^ lo) (2 ^ (hi + 1 - lo))
  rw [Nat.div_div_eq_div_mul, ← hp] at h2
  set a := v / 2 ^ (hi + 1)
  set b := (v / 2 ^ lo) % 2 ^ (hi + 1 - lo)
  have h3 : v = a * 2 ^ (hi + 1) + b * 2 ^ lo + v % 2 ^ lo := by
    rw [hp]
    calc v = 2 ^ lo * (v / 2 ^ lo) + v % 2 ^ lo := h1.symm
      _ = 2 ^ lo * (2 ^ (hi + 1 - lo) * a + b) + v % 2 ^ lo := by rw [h2]
      _ = _ := by ring
  have h4 : v - b * 2 ^ lo = a * 2 ^ (hi + 1) + v % 2 ^ lo := by omega
  rw [h4]; ring

theorem testBit_setBits (v hi lo x k : Nat) (h : lo ≤ hi) :
    (setBits v hi lo x).testBit k = if lo ≤ k ∧ k ≤ hi then x.testBit (k - lo) else v.testBit k := by
  rw [setBits_eq v hi lo x h]
  have hp : 2 ^ (hi + 1) = 2 ^ lo * 2 ^ (hi + 1 - lo) := by rw [← Nat.pow_add]; congr 1; omega
  have hx : x % 2 ^ (hi + 1 - lo) < 2 ^ (hi + 1 - lo) := Nat.mod_lt _ (Nat.two_pow_pos _)
  have hv : v % 2 ^ lo < 2 ^ lo := Nat.mod_lt _ (Nat.two_pow_pos _)
  have hlow : (x % 2 ^ (hi + 1 - lo)) * 2 ^ lo + v % 2 ^ lo < 2 ^ (hi + 1) := by
    rw [hp]
    have : x % 2 ^ (hi + 1 - lo) + 1 ≤ 2 ^ (hi + 1 - lo) := hx
    calc _ < (x % 2 ^ (hi + 1 - lo)) * 2 ^ lo + 2 ^ lo := by omega
      _ = (x % 2 ^ (hi + 1 - lo) + 1) * 2 ^ lo := by ring
      _ ≤ 2 ^ (hi + 1 - lo) * 2 ^ lo := Nat.mul_le_mul_right _ this
      _ = _ := by ring
  rw [Nat.add_assoc, Nat.mul_comm (v / _), Nat.testBit_two_pow_mul_add _ hlow, Nat.mul_comm (x % _),
    Nat.testBit_two_pow_mul_add _ hv]
  by_cases h1 : k < lo
  · have : ¬(lo ≤ k ∧ k ≤ hi) := by omega
    simp [h1, this, show k < hi + 1 by omega, Nat.testBit_mod_two_pow]
  · by_cases h2 : k ≤ hi
    · simp [h1, show k < hi + 1 by omega, show lo ≤ k by omega, h2, Nat.testBit_mod_two_pow, show k - lo < hi + 1 - lo by omega]
    · have : ¬(lo ≤ k ∧ k ≤ hi) := by omega
      simp only [show ¬ k < hi + 1 by omega, this, if_false, Nat.testBit_div_two_pow]
      congr 1; omega

/-- A field reads back what was written to it. -/
theorem bits_setBits_same (v hi lo x : Nat) (h : lo ≤ hi) : bits (setBits v hi lo x) hi lo = x % 2 ^ (hi + 1 - lo) := by
  apply Nat.eq_of_testBit_eq
  intro k
  rw [testBit_bits, testBit_setBits _ _ _ _ _ h, Nat.testBit_mod_two_pow]
  by_cases hk : k < hi + 1 - lo
  · simp [hk, show lo + k ≤ hi by omega]
  · simp [hk]

/-- A field apart from the one written keeps its value. -/
theorem bits_setBits_apart (v hi lo x hi' lo' : Nat) (h : lo ≤ hi) (ha : hi < lo' ∨ hi' < lo) :
    bits (setBits v hi lo x) hi' lo' = bits v hi' lo' := by
  apply Nat.eq_of_testBit_eq
  intro k
  rw [testBit_bits, testBit_bits, testBit_setBits _ _ _ _ _ h]
  by_cases hk : k < hi' + 1 - lo'
  · have : ¬(lo ≤ lo' + k ∧ lo' + k ≤ hi) := by omega
    simp [this]
  · simp [hk]

theorem setBits_lt (v hi lo x n : Nat) (h : lo ≤ hi) (hn : hi < n) (hv : v < 2 ^ n) : setBits v hi lo x < 2 ^ n := by
  apply Nat.lt_pow_two_of_testBit
  intro k hk
  rw [testBit_setBits _ _ _ _ _ h]
  have : ¬(lo ≤ k ∧ k ≤ hi) := by omega
  simp only [this, if_false]
  exact Nat.testBit_lt_two_pow (Nat.lt_of_lt_of_le hv (Nat.pow_le_pow_right (by omega) hk))

end Sys2Proof.Machine
end

