-- ==== Sys2Proof/Laws/Regs.lean ====
section
/-!
SUPPORT. What the registers read as after a write: the word written, and every other word as before; the field written, and every other
field as before.
-/

set_option Elab.async false

namespace Sys2Proof.Machine

theorem RName.ctorIdx_inj {n m : RName} (h : n.ctorIdx = m.ctorIdx) : n = m := by
  rw [← RName.ofNat_ctorIdx n, h, RName.ofNat_ctorIdx]

/-- Two register words have the same key only if they are the same word. -/
theorem regKey_inj {n m : RName} {i j k l : Nat} (h : regKey n i j = regKey m k l) :
    n = m ∧ i % 65536 = k % 65536 ∧ j % 65536 = l % 65536 := by
  unfold regKey at h
  have : n.ctorIdx = m.ctorIdx := by omega
  exact ⟨RName.ctorIdx_inj this, by omega, by omega⟩

/-! ## Words -/

@[simp] theorem rd_wr_same (s : State) (n : RName) (v : Word) (i j : Nat) : (s.wr n v i j).rd n i j = v := by
  simp [State.rd, State.wr]

@[simp] theorem rdw_wrw_same (s : State) (n : RName) (v : DWord) (i j : Nat) : (s.wrw n v i j).rdw n i j = v := by
  simp [State.rdw, State.wrw]

theorem rd_wr_key {n n' : RName} {i j i' j' : Nat} (s : State) (v : Word) (h : regKey n' i' j' ≠ regKey n i j) :
    (s.wr n v i j).rd n' i' j' = s.rd n' i' j' := by
  simp [State.rd, State.wr, tget_tset_ne _ _ _ _ h]

theorem rdw_wrw_key {n n' : RName} {i j i' j' : Nat} (s : State) (v : DWord) (h : regKey n' i' j' ≠ regKey n i j) :
    (s.wrw n v i j).rdw n' i' j' = s.rdw n' i' j' := by
  simp [State.rdw, State.wrw, tget_tset_ne _ _ _ _ h]

/-- A word of another register. -/
theorem rd_wr_reg {n n' : RName} (s : State) (v : Word) (i j i' j' : Nat) (h : n' ≠ n) : (s.wr n v i j).rd n' i' j' = s.rd n' i' j' :=
  rd_wr_key s v fun e => h (regKey_inj e).1

/-- A word of another instance of the register. -/
theorem rd_wr_inst {n : RName} (s : State) (v : Word) {i i' : Nat} (j j' : Nat) (h : i' % 65536 ≠ i % 65536) :
    (s.wr n v i j).rd n i' j' = s.rd n i' j' :=
  rd_wr_key s v fun e => h (regKey_inj e).2.1

/-- Another word of the register. -/
theorem rd_wr_word {n : RName} (s : State) (v : Word) (i i' : Nat) {j j' : Nat} (h : j' % 65536 ≠ j % 65536) :
    (s.wr n v i j).rd n i' j' = s.rd n i' j' :=
  rd_wr_key s v fun e => h (regKey_inj e).2.2

theorem rdw_wrw_reg {n n' : RName} (s : State) (v : DWord) (i j i' j' : Nat) (h : n' ≠ n) :
    (s.wrw n v i j).rdw n' i' j' = s.rdw n' i' j' :=
  rdw_wrw_key s v fun e => h (regKey_inj e).1

theorem rdw_wrw_inst {n : RName} (s : State) (v : DWord) {i i' : Nat} (j j' : Nat) (h : i' % 65536 ≠ i % 65536) :
    (s.wrw n v i j).rdw n i' j' = s.rdw n i' j' :=
  rdw_wrw_key s v fun e => h (regKey_inj e).2.1

theorem rdw_wrw_word {n : RName} (s : State) (v : DWord) (i i' : Nat) {j j' : Nat} (h : j' % 65536 ≠ j % 65536) :
    (s.wrw n v i j).rdw n i' j' = s.rdw n i' j' :=
  rdw_wrw_key s v fun e => h (regKey_inj e).2.2

@[simp] theorem rdw_wr (s : State) (n n' : RName) (v : Word) (i j i' j' : Nat) : (s.wr n v i j).rdw n' i' j' = s.rdw n' i' j' := rfl
@[simp] theorem rd_wrw (s : State) (n n' : RName) (v : DWord) (i j i' j' : Nat) : (s.wrw n v i j).rd n' i' j' = s.rd n' i' j' := rfl

/-! ## Fields -/

theorem fget_wr_same (s : State) (f : Fld) (v : Word) (i j : Nat) : (s.wr f.reg v i j).fget f i j = bits v.toNat f.hi f.lo := by
  simp [State.fget]

theorem fget_wr_reg {n : RName} (s : State) (f : Fld) (v : Word) (i j i' j' : Nat) (h : f.reg ≠ n) :
    (s.wr n v i j).fget f i' j' = s.fget f i' j' := by
  simp [State.fget, rd_wr_reg s v i j i' j' h]

theorem fget_wr_inst {n : RName} (s : State) (f : Fld) (v : Word) {i i' : Nat} (j j' : Nat) (h : i' % 65536 ≠ i % 65536) :
    (s.wr n v i j).fget f i' j' = s.fget f i' j' := by
  unfold State.fget
  rw [rd_wr_key s v fun e => h (regKey_inj e).2.1]

@[simp] theorem fget_wrw (s : State) (n : RName) (f : Fld) (v : DWord) (i j i' j' : Nat) :
    (s.wrw n v i j).fget f i' j' = s.fget f i' j' := rfl
@[simp] theorem flag_wrw (s : State) (n : RName) (f : Fld) (v : DWord) (i j i' j' : Nat) :
    (s.wrw n v i j).flag f i' j' = s.flag f i' j' := rfl

theorem fset_word (s : State) (f : Fld) (v i j : Nat) (h : f.lo ≤ f.hi) (h' : f.hi < 32) :
    ((s.fset f v i j).rd f.reg i j).toNat = setBits (s.rd f.reg i j).toNat f.hi f.lo v := by
  simp only [State.fset, rd_wr_same, BitVec.toNat_ofNat]
  exact Nat.mod_eq_of_lt (setBits_lt _ _ _ _ _ h h' (s.rd f.reg i j).isLt)

/-- A field reads as the value written, cut to its width. -/
theorem fget_fset_same (s : State) (f : Fld) (v i j : Nat) (h : f.lo ≤ f.hi) (h' : f.hi < 32) :
    (s.fset f v i j).fget f i j = v % 2 ^ (f.hi + 1 - f.lo) := by
  unfold State.fget
  rw [fset_word s f v i j h h', bits_setBits_same _ _ _ _ h]

/-- A field of another register. -/
theorem fget_fset_reg (s : State) {f g : Fld} (v i j i' j' : Nat) (h : g.reg ≠ f.reg) :
    (s.fset f v i j).fget g i' j' = s.fget g i' j' :=
  fget_wr_reg s g _ i j i' j' h

/-- A field of another instance. -/
theorem fget_fset_inst (s : State) {f g : Fld} (v : Nat) {i i' : Nat} (j j' : Nat) (h : i' % 65536 ≠ i % 65536) :
    (s.fset f v i j).fget g i' j' = s.fget g i' j' :=
  fget_wr_inst s g _ j j' h

/-- A field of the same word that lies apart. -/
theorem fget_fset_apart (s : State) {f g : Fld} (v i j : Nat) (hr : g.reg = f.reg) (h : f.lo ≤ f.hi) (h' : f.hi < 32)
    (ha : f.hi < g.lo ∨ g.hi < f.lo) : (s.fset f v i j).fget g i j = s.fget g i j := by
  unfold State.fget
  rw [hr, fset_word s f v i j h h', bits_setBits_apart _ _ _ _ _ _ h ha]

/-- A field that is not, or lies apart from, the one written, wherever it is. -/
theorem fget_fset_off (s : State) {f g : Fld} (v i j i' j' : Nat) (h : f.lo ≤ f.hi) (h' : f.hi < 32)
    (ha : g.reg = f.reg → f.hi < g.lo ∨ g.hi < f.lo) : (s.fset f v i j).fget g i' j' = s.fget g i' j' := by
  by_cases hr : g.reg = f.reg
  · by_cases hk : regKey g.reg i' j' = regKey f.reg i j
    · have hw : ∀ t : State, t.rd g.reg i' j' = t.rd f.reg i j := fun t => by unfold State.rd; rw [hk]
      unfold State.fget
      rw [hw, hw, fset_word s f v i j h h', bits_setBits_apart _ _ _ _ _ _ h (ha hr)]
    · unfold State.fget State.fset
      rw [rd_wr_key s _ hk]
  · exact fget_fset_reg s v i j i' j' hr

theorem flag_fset_off (s : State) {f g : Fld} (v i j i' j' : Nat) (h : f.lo ≤ f.hi) (h' : f.hi < 32)
    (ha : g.reg = f.reg → f.hi < g.lo ∨ g.hi < f.lo) : (s.fset f v i j).flag g i' j' = s.flag g i' j' := by
  unfold State.flag; rw [fget_fset_off s v i j i' j' h h' ha]

/-- A flag reads as the bit written. -/
theorem flag_fset_same (s : State) (f : Fld) (v i j : Nat) (h : f.lo = f.hi) (h' : f.hi < 32) :
    (s.fset f v i j).flag f i j = decide (v % 2 = 1) := by
  unfold State.flag
  rw [fget_fset_same s f v i j (Nat.le_of_eq h) h', h]
  simp

theorem flag_fset_reg (s : State) {f g : Fld} (v i j i' j' : Nat) (h : g.reg ≠ f.reg) :
    (s.fset f v i j).flag g i' j' = s.flag g i' j' := by
  unfold State.flag; rw [fget_fset_reg s v i j i' j' h]

theorem flag_fset_inst (s : State) {f g : Fld} (v : Nat) {i i' : Nat} (j j' : Nat) (h : i' % 65536 ≠ i % 65536) :
    (s.fset f v i j).flag g i' j' = s.flag g i' j' := by
  unfold State.flag; rw [fget_fset_inst s v j j' h]

theorem flag_fset_apart (s : State) {f g : Fld} (v i j : Nat) (hr : g.reg = f.reg) (h : f.lo ≤ f.hi) (h' : f.hi < 32)
    (ha : f.hi < g.lo ∨ g.hi < f.lo) : (s.fset f v i j).flag g i j = s.flag g i j := by
  unfold State.flag; rw [fget_fset_apart s v i j hr h h' ha]

theorem flag_wr_reg {n : RName} (s : State) (f : Fld) (v : Word) (i j i' j' : Nat) (h : f.reg ≠ n) :
    (s.wr n v i j).flag f i' j' = s.flag f i' j' := by
  unfold State.flag; rw [fget_wr_reg s f v i j i' j' h]

/-- A register other than the field's. -/
theorem rd_fset_reg (s : State) {f : Fld} {n : RName} (v i j i' j' : Nat) (h : n ≠ f.reg) :
    (s.fset f v i j).rd n i' j' = s.rd n i' j' :=
  rd_wr_reg s _ i j i' j' h

theorem rd_fset_inst (s : State) {f : Fld} {n : RName} (v : Nat) {i i' : Nat} (j j' : Nat) (h : i' % 65536 ≠ i % 65536) :
    (s.fset f v i j).rd n i' j' = s.rd n i' j' :=
  rd_wr_key s _ fun e => h (regKey_inj e).2.1

@[simp] theorem rdw_fset (s : State) (f : Fld) (v i j : Nat) (n : RName) (i' j' : Nat) : (s.fset f v i j).rdw n i' j' = s.rdw n i' j' := rfl

end Sys2Proof.Machine
end

