-- ==== Sys2Proof/Laws/Keeps.lean ====
section
/-!
SUPPORT. What the operations of the block leave alone: `Keeps L s t` says that `t` has the queue of `s`, that the register files and the
byte memories of `t` are in their canonical form when those of `s` are, and that of the parts of the state only those of `L` may differ.
The lemmas are written as chains: what is kept up to the state an operation starts from is kept up to the state it ends in.
-/

set_option Elab.async false

namespace Sys2Proof.Machine

/-- The parts of the state that may change. -/
structure Touch where
  /-- The 32-bit registers. -/
  r32 : Bool := false
  /-- The 64-bit registers. -/
  r64 : Bool := false
  /-- The counter of free values. -/
  free : Bool := false
  /-- Host memory. -/
  mem : Bool := false
  /-- The host interface but its memory. -/
  host : Bool := false
  /-- The local memory of the DMA engine. -/
  loc : Bool := false
  /-- The DMA channels. -/
  dma : Bool := false
  /-- The clock and triggers. -/
  time : Bool := false
  /-- The lanes and the front panel. -/
  link : Bool := false
  /-- The power controller. -/
  power : Bool := false
  /-- The boot sequence, flash and fuses. -/
  boot : Bool := false
  /-- The fault collector and BIST. -/
  squall : Bool := false
  /-- The buffers and Nimbus. -/
  tm : Bool := false
  /-- Halo. -/
  halo : Bool := false
  /-- The pipes and the parser. -/
  cirrus : Bool := false
  /-- The tables. -/
  te : Bool := false
  /-- Bennidan. -/
  trust : Bool := false
  /-- Zenith. -/
  zen : Bool := false
  /-- The registers, one bit for each name. -/
  regs : Nat := 0

/-- The bit of a register is set. -/
def Touch.has (L : Touch) (n : RName) : Bool := L.regs.testBit n.ctorIdx

/-- Every bit of `a` is a bit of `b`. -/
def within (a b : Nat) : Bool := Nat.beq (Nat.land a b) a

theorem within_bit {a b k : Nat} (h : within a b = true) (e : a.testBit k = true) : b.testBit k = true := by
  have h : a &&& b = a := Nat.eq_of_beq_eq_true h
  rw [← h, Nat.testBit_and, Bool.and_eq_true] at e
  exact e.2

theorem within_trans {a b c : Nat} (h : within b c = true) (e : within a b = true) : within a c = true := by
  have h : b &&& c = b := Nat.eq_of_beq_eq_true h
  have e : a &&& b = a := Nat.eq_of_beq_eq_true e
  show Nat.beq (a &&& c) a = true
  rw [Nat.beq_eq]
  calc a &&& c = a &&& b &&& c := by rw [e]
    _ = a := by rw [Nat.and_assoc, h, e]

theorem has_ok {L : Touch} {a : Nat} {n : RName} (h : within a L.regs = true) (e : a.testBit n.ctorIdx = true) : L.has n = true :=
  within_bit h e

/-- Every part and register. -/
abbrev everyReg : Nat := 0xffffffffffffffffffffffffffffffffffffffffffffffffffffffffffffffffffffffffffffffffffffffffffffff
def Touch.all : Touch := ⟨true, true, true, true, true, true, true, true, true, true, true, true, true, true, true, true, true, true, everyReg⟩

theorem has_all {L : Touch} (h : within everyReg L.regs = true) (n : RName) : L.has n = true :=
  has_ok h (by cases n <;> rfl)

/-- The queue is as it was, the canonical form is kept, and no part outside `L` has changed. -/
structure Keeps (L : Touch) (s t : State) : Prop where
  pending : t.pending = s.pending
  canon : s.canonical → t.canonical
  regs : ∀ n i j, L.has n = false → t.rd n i j = s.rd n i j ∧ t.rdw n i j = s.rdw n i j
  r32 : L.r32 = false → t.r32 = s.r32
  r64 : L.r64 = false → t.r64 = s.r64
  free : L.free = false → t.free = s.free
  mem : L.mem = false → t.host.mem = s.host.mem
  host : L.host = false → { t.host with mem := s.host.mem } = s.host
  loc : L.loc = false → t.dma.loc = s.dma.loc
  dma : L.dma = false → { t.dma with loc := s.dma.loc } = s.dma
  time : L.time = false → t.time = s.time
  link : L.link = false → t.link = s.link
  power : L.power = false → t.power = s.power
  boot : L.boot = false → t.boot = s.boot
  squall : L.squall = false → t.squall = s.squall
  tm : L.tm = false → t.tm = s.tm
  halo : L.halo = false → t.halo = s.halo
  cirrus : L.cirrus = false → t.cirrus = s.cirrus
  te : L.te = false → t.te = s.te
  trust : L.trust = false → t.trust = s.trust
  zen : L.zen = false → t.zen = s.zen

variable {L : Touch} {s0 s x : State}

theorem Keeps.rfl' (L : Touch) (s : State) : Keeps L s s where
  pending := rfl
  canon := id
  regs := fun _ _ _ _ => ⟨rfl, rfl⟩
  r32 := fun _ => rfl
  r64 := fun _ => rfl
  free := fun _ => rfl
  mem := fun _ => rfl
  host := fun _ => rfl
  loc := fun _ => rfl
  dma := fun _ => rfl
  time := fun _ => rfl
  link := fun _ => rfl
  power := fun _ => rfl
  boot := fun _ => rfl
  squall := fun _ => rfl
  tm := fun _ => rfl
  halo := fun _ => rfl
  cirrus := fun _ => rfl
  te := fun _ => rfl
  trust := fun _ => rfl
  zen := fun _ => rfl

/-- A step from `x` to `y` that changes only what `L` names. -/
theorem Keeps.step {x y : State} (h : Keeps L s0 x) (hp : y.pending = x.pending) (hc : x.canonical → y.canonical)
    (r32 : L.r32 = true ∨ y.r32 = x.r32)
    (r64 : L.r64 = true ∨ y.r64 = x.r64)
    (free : L.free = true ∨ y.free = x.free)
    (mem : L.mem = true ∨ y.host.mem = x.host.mem)
    (host : L.host = true ∨ { y.host with mem := x.host.mem } = x.host)
    (loc : L.loc = true ∨ y.dma.loc = x.dma.loc)
    (dma : L.dma = true ∨ { y.dma with loc := x.dma.loc } = x.dma)
    (time : L.time = true ∨ y.time = x.time)
    (link : L.link = true ∨ y.link = x.link)
    (power : L.power = true ∨ y.power = x.power)
    (boot : L.boot = true ∨ y.boot = x.boot)
    (squall : L.squall = true ∨ y.squall = x.squall)
    (tm : L.tm = true ∨ y.tm = x.tm)
    (halo : L.halo = true ∨ y.halo = x.halo)
    (cirrus : L.cirrus = true ∨ y.cirrus = x.cirrus)
    (te : L.te = true ∨ y.te = x.te)
    (trust : L.trust = true ∨ y.trust = x.trust)
    (zen : L.zen = true ∨ y.zen = x.zen)
    (regs : ∀ n i j, L.has n = true ∨ (y.rd n i j = x.rd n i j ∧ y.rdw n i j = x.rdw n i j)) : Keeps L s0 y where
  pending := hp.trans h.pending
  regs := fun n i j e => by
    have a := h.regs n i j e
    have b := (regs n i j).resolve_left (by simp [e])
    exact ⟨b.1.trans a.1, b.2.trans a.2⟩
  canon := fun c => hc (h.canon c)
  r32 := fun e => (r32.resolve_left (by simp [e])).trans (h.r32 e)
  r64 := fun e => (r64.resolve_left (by simp [e])).trans (h.r64 e)
  free := fun e => (free.resolve_left (by simp [e])).trans (h.free e)
  mem := fun e => (mem.resolve_left (by simp [e])).trans (h.mem e)
  host := fun e => by
    have a := h.host e
    have b := host.resolve_left (by simp [e])
    rw [← a, ← b]
  loc := fun e => (loc.resolve_left (by simp [e])).trans (h.loc e)
  dma := fun e => by
    have a := h.dma e
    have b := dma.resolve_left (by simp [e])
    rw [← a, ← b]
  time := fun e => (time.resolve_left (by simp [e])).trans (h.time e)
  link := fun e => (link.resolve_left (by simp [e])).trans (h.link e)
  power := fun e => (power.resolve_left (by simp [e])).trans (h.power e)
  boot := fun e => (boot.resolve_left (by simp [e])).trans (h.boot e)
  squall := fun e => (squall.resolve_left (by simp [e])).trans (h.squall e)
  tm := fun e => (tm.resolve_left (by simp [e])).trans (h.tm e)
  halo := fun e => (halo.resolve_left (by simp [e])).trans (h.halo e)
  cirrus := fun e => (cirrus.resolve_left (by simp [e])).trans (h.cirrus e)
  te := fun e => (te.resolve_left (by simp [e])).trans (h.te e)
  trust := fun e => (trust.resolve_left (by simp [e])).trans (h.trust e)
  zen := fun e => (zen.resolve_left (by simp [e])).trans (h.zen e)

/-- The same, with the canonical form argued from the start. -/
theorem Keeps.step' {x y : State} (h : Keeps L s0 x) (hp : y.pending = x.pending) (hc : s0.canonical → y.canonical)
    (r32 : L.r32 = true ∨ y.r32 = x.r32)
    (r64 : L.r64 = true ∨ y.r64 = x.r64)
    (free : L.free = true ∨ y.free = x.free)
    (mem : L.mem = true ∨ y.host.mem = x.host.mem)
    (host : L.host = true ∨ { y.host with mem := x.host.mem } = x.host)
    (loc : L.loc = true ∨ y.dma.loc = x.dma.loc)
    (dma : L.dma = true ∨ { y.dma with loc := x.dma.loc } = x.dma)
    (time : L.time = true ∨ y.time = x.time)
    (link : L.link = true ∨ y.link = x.link)
    (power : L.power = true ∨ y.power = x.power)
    (boot : L.boot = true ∨ y.boot = x.boot)
    (squall : L.squall = true ∨ y.squall = x.squall)
    (tm : L.tm = true ∨ y.tm = x.tm)
    (halo : L.halo = true ∨ y.halo = x.halo)
    (cirrus : L.cirrus = true ∨ y.cirrus = x.cirrus)
    (te : L.te = true ∨ y.te = x.te)
    (trust : L.trust = true ∨ y.trust = x.trust)
    (zen : L.zen = true ∨ y.zen = x.zen)
    (regs : ∀ n i j, L.has n = true ∨ (y.rd n i j = x.rd n i j ∧ y.rdw n i j = x.rdw n i j)) : Keeps L s0 y where
  pending := hp.trans h.pending
  regs := fun n i j e => by
    have a := h.regs n i j e
    have b := (regs n i j).resolve_left (by simp [e])
    exact ⟨b.1.trans a.1, b.2.trans a.2⟩
  canon := hc
  r32 := fun e => (r32.resolve_left (by simp [e])).trans (h.r32 e)
  r64 := fun e => (r64.resolve_left (by simp [e])).trans (h.r64 e)
  free := fun e => (free.resolve_left (by simp [e])).trans (h.free e)
  mem := fun e => (mem.resolve_left (by simp [e])).trans (h.mem e)
  host := fun e => by
    have a := h.host e
    have b := host.resolve_left (by simp [e])
    rw [← a, ← b]
  loc := fun e => (loc.resolve_left (by simp [e])).trans (h.loc e)
  dma := fun e => by
    have a := h.dma e
    have b := dma.resolve_left (by simp [e])
    rw [← a, ← b]
  time := fun e => (time.resolve_left (by simp [e])).trans (h.time e)
  link := fun e => (link.resolve_left (by simp [e])).trans (h.link e)
  power := fun e => (power.resolve_left (by simp [e])).trans (h.power e)
  boot := fun e => (boot.resolve_left (by simp [e])).trans (h.boot e)
  squall := fun e => (squall.resolve_left (by simp [e])).trans (h.squall e)
  tm := fun e => (tm.resolve_left (by simp [e])).trans (h.tm e)
  halo := fun e => (halo.resolve_left (by simp [e])).trans (h.halo e)
  cirrus := fun e => (cirrus.resolve_left (by simp [e])).trans (h.cirrus e)
  te := fun e => (te.resolve_left (by simp [e])).trans (h.te e)
  trust := fun e => (trust.resolve_left (by simp [e])).trans (h.trust e)
  zen := fun e => (zen.resolve_left (by simp [e])).trans (h.zen e)

/-- A record update that leaves the registers and the byte memories alone. -/
theorem keeps_mk (h : Keeps L s0 x) {free' : Nat} {host' : HostSt} {dma' : DmaSt} {time' : TimeSt} {link' : LinkSt} {power' : PowerSt} {boot' : BootSt} {squall' : SquallSt} {tm' : TmSt} {halo' : HaloSt} {cirrus' : CirrusSt} {te' : TableSt} {trust' : TrustSt} {zen' : ZenSt}
    (em : host'.mem = x.host.mem) (el : dma'.loc = x.dma.loc)
    (efree : L.free = true ∨ free' = x.free)
    (ehost : L.host = true ∨ host' = x.host)
    (edma : L.dma = true ∨ dma' = x.dma)
    (etime : L.time = true ∨ time' = x.time)
    (elink : L.link = true ∨ link' = x.link)
    (epower : L.power = true ∨ power' = x.power)
    (eboot : L.boot = true ∨ boot' = x.boot)
    (esquall : L.squall = true ∨ squall' = x.squall)
    (etm : L.tm = true ∨ tm' = x.tm)
    (ehalo : L.halo = true ∨ halo' = x.halo)
    (ecirrus : L.cirrus = true ∨ cirrus' = x.cirrus)
    (ete : L.te = true ∨ te' = x.te)
    (etrust : L.trust = true ∨ trust' = x.trust)
    (ezen : L.zen = true ∨ zen' = x.zen) :
    Keeps L s0 ⟨x.pending, free', x.r32, x.r64, host', dma', time', link', power', boot', squall', tm', halo', cirrus', te', trust', zen'⟩ := by
  refine h.step rfl (fun c => ⟨c.1, c.2.1, em ▸ c.2.2.1, el ▸ c.2.2.2⟩) (.inr rfl) (.inr rfl) efree (.inr em) ?_ (.inr el) ?_ etime elink epower
    eboot esquall etm ehalo ecirrus ete etrust ezen (fun _ _ _ => .inr ⟨rfl, rfl⟩)
  · exact ehost.imp id fun e => by rw [e]
  · exact edma.imp id fun e => by rw [e]

theorem keeps_ite {a b : State} {c : Prop} [Decidable c] (ha : Keeps L s0 a) (hb : Keeps L s0 b) : Keeps L s0 (if c then a else b) := by
  split <;> assumption

theorem keeps_snd_ite {β : Type} {a b : β × State} {c : Prop} [Decidable c] (ha : Keeps L s0 a.2) (hb : Keeps L s0 b.2) :
    Keeps L s0 (if c then a else b).2 := by
  split <;> assumption

/-- The state in an answer that comes with a value, and with two. -/
theorem keeps_of_eq {β : Type} {t : State} {p : β × State} {b : β} (e : p = (b, t)) (h : Keeps L s0 p.2) : Keeps L s0 t := by
  rw [e] at h; exact h

theorem keeps_of_eq2 {β γ : Type} {t : State} {p : β × γ × State} {b : β} {c : γ} (e : p = (b, c, t)) (h : Keeps L s0 p.2.2) :
    Keeps L s0 t := by
  rw [e] at h; exact h

theorem foldl_keeps {α : Type} {f : State → α → State} {l : List α} {s : State} (h : Keeps L s0 s)
    (hf : ∀ s a, Keeps L s0 s → Keeps L s0 (f s a)) : Keeps L s0 (l.foldl f s) := by
  induction l generalizing s with
  | nil => exact h
  | cons a r ih => exact ih (hf s a h)

theorem State.when_keeps (h : Keeps L s0 s) {c : Bool} {f : State → State} (hf : ∀ s, Keeps L s0 s → Keeps L s0 (f s)) :
    Keeps L s0 (s.when c f) := by
  unfold State.when
  split
  · exact hf s h
  · exact h

theorem State.each_keeps {α : Type} (h : Keeps L s0 s) {l : List α} {f : α → State → State}
    (hf : ∀ a s, Keeps L s0 s → Keeps L s0 (f a s)) : Keeps L s0 (s.each l f) :=
  foldl_keeps h (fun s a hs => hf a s hs)

theorem forN_keeps (h : Keeps L s0 s) {n : Nat} {f : Nat → State → State} (hf : ∀ k s, Keeps L s0 s → Keeps L s0 (f k s)) :
    Keeps L s0 (forN n f s) :=
  foldl_keeps h (fun s a hs => hf a s hs)

theorem State.wr_keeps (h : Keeps L s0 s) (n : RName) (v : Word) (i j : Nat) (l1 : L.r32 = true := by first | assumption | rfl)
    (l2 : L.has n = true := by first | with_reducible assumption | (refine has_ok (by assumption) ?_; exact rfl) | rfl) : Keeps L s0 (s.wr n v i j) := by
  refine h.step rfl (fun c => ⟨twf_tset (d := fun k => BitVec.ofNat 32 (keyReset k)) _ _ c.1, c.2⟩) (.inl l1) ?_ ?_ ?_ ?_ ?_ ?_ ?_ ?_ ?_ ?_ ?_
    ?_ ?_ ?_ ?_ ?_ ?_ (fun m k l => ?_)
  all_goals first | exact .inr rfl | skip
  by_cases e : m = n
  · exact .inl (e ▸ l2)
  · exact .inr ⟨rd_wr_reg s v i j k l e, rfl⟩

theorem State.wrw_keeps (h : Keeps L s0 s) (n : RName) (v : DWord) (i j : Nat) (l1 : L.r64 = true := by first | assumption | rfl)
    (l2 : L.has n = true := by first | with_reducible assumption | (refine has_ok (by assumption) ?_; exact rfl) | rfl) : Keeps L s0 (s.wrw n v i j) := by
  refine h.step rfl (fun c => ⟨c.1, twf_tset (d := fun k => BitVec.ofNat 64 (keyReset k)) _ _ c.2.1, c.2.2⟩) ?_ (.inl l1) ?_ ?_ ?_ ?_ ?_ ?_ ?_
    ?_ ?_ ?_ ?_ ?_ ?_ ?_ ?_ ?_ (fun m k l => ?_)
  all_goals first | exact .inr rfl | skip
  by_cases e : m = n
  · exact .inl (e ▸ l2)
  · exact .inr ⟨rfl, rdw_wrw_reg s v i j k l e⟩

/-- Every write of a byte memory keeps its canonical form. -/
theorem memPut_wf {m : Tab Byte} (addr : Nat) (bs : List Byte) (h : Memory.wf m = true) : Memory.wf (memPut m addr bs) = true := by
  induction bs generalizing m addr with
  | nil => exact h
  | cons b r ih => exact ih _ (twf_tset (d := fun _ => (0 : Byte)) _ _ h)

theorem State.hostPut_keeps (h : Keeps L s0 s) (a : Nat) (bs : List Byte) (l1 : L.mem = true := by first | assumption | rfl) : Keeps L s0 (s.hostPut a bs) := by
  refine h.step rfl (fun c => ⟨c.1, c.2.1, memPut_wf _ _ c.2.2.1, c.2.2.2⟩) ?_ ?_ ?_ (.inl l1) ?_ ?_ ?_ ?_ ?_ ?_ ?_ ?_ ?_ ?_ ?_ ?_ ?_ ?_ (fun _ _ _ => .inr ⟨rfl, rfl⟩) <;>
    exact .inr rfl

theorem keeps_loc (h : Keeps L s0 x) (a : Nat) (bs : List Byte) (l1 : L.loc = true := by first | assumption | rfl) :
    Keeps L s0 { x with dma := { x.dma with loc := memPut x.dma.loc a bs } } := by
  refine h.step rfl (fun c => ⟨c.1, c.2.1, c.2.2.1, memPut_wf _ _ c.2.2.2⟩) ?_ ?_ ?_ ?_ ?_ (.inl l1) ?_ ?_ ?_ ?_ ?_ ?_ ?_ ?_ ?_ ?_ ?_ ?_ (fun _ _ _ => .inr ⟨rfl, rfl⟩) <;>
    exact .inr rfl

theorem keeps_held (h : Keeps L s0 x) (a b : Tab (Option Word)) (l1 : L.host = true := by first | assumption | rfl) :
    Keeps L s0 { x with host := { x.host with lowHold := a, latch := b } } := by
  refine h.step rfl id ?_ ?_ ?_ ?_ (.inl l1) ?_ ?_ ?_ ?_ ?_ ?_ ?_ ?_ ?_ ?_ ?_ ?_ ?_
    (fun _ _ _ => .inr ⟨rfl, rfl⟩) <;> exact .inr rfl

theorem keeps_perst (h : Keeps L s0 x) (a b c : Bool) (l1 : L.host = true := by first | assumption | rfl) :
    Keeps L s0 { x with host := { x.host with perst := a, linkUp := b, aerInternal := c } } := by
  refine h.step rfl id ?_ ?_ ?_ ?_ (.inl l1) ?_ ?_ ?_ ?_ ?_ ?_ ?_ ?_ ?_ ?_ ?_ ?_ ?_
    (fun _ _ _ => .inr ⟨rfl, rfl⟩) <;> exact .inr rfl

/-- Dropping entries of one register: it holds its reset value again. -/
theorem keeps_filter (h : Keeps L s0 x) (p : Nat × Word → Bool) (q : Nat × DWord → Bool) (n : RName)
    (hp : ∀ m i j v, m ≠ n → p (regKey m i j, v) = true) (hq : ∀ m i j v, m ≠ n → q (regKey m i j, v) = true)
    (l1 : L.r32 = true := by first | assumption | rfl) (l2 : L.r64 = true := by first | assumption | rfl) (l3 : L.has n = true := by first | with_reducible assumption | (refine has_ok (by assumption) ?_; exact rfl) | rfl) :
    Keeps L s0 { x with r32 := x.r32.filter p, r64 := x.r64.filter q } := by
  refine h.step rfl (fun c => ⟨twf_filter _ c.1, twf_filter _ c.2.1, c.2.2⟩) (.inl l1) (.inl l2) ?_ ?_ ?_ ?_ ?_ ?_ ?_ ?_ ?_ ?_ ?_ ?_ ?_ ?_ ?_ ?_
    (fun m k l => ?_)
  all_goals first | exact .inr rfl | skip
  by_cases e : m = n
  · exact .inl (e ▸ l3)
  · exact .inr ⟨tget_filter _ _ (fun v => hp m k l v e), tget_filter _ _ (fun v => hq m k l v e)⟩

/-- Nothing is claimed of the parts. -/
theorem Keeps.ofAll {t : State} (hp : t.pending = s0.pending) (hc : s0.canonical → t.canonical) : Keeps .all s0 t where
  pending := hp
  canon := hc
  r32 := fun e => by cases e
  r64 := fun e => by cases e
  free := fun e => by cases e
  mem := fun e => by cases e
  host := fun e => by cases e
  loc := fun e => by cases e
  dma := fun e => by cases e
  time := fun e => by cases e
  link := fun e => by cases e
  power := fun e => by cases e
  boot := fun e => by cases e
  squall := fun e => by cases e
  tm := fun e => by cases e
  halo := fun e => by cases e
  cirrus := fun e => by cases e
  te := fun e => by cases e
  trust := fun e => by cases e
  zen := fun e => by cases e
  regs := fun n _ _ e => by rw [has_all rfl] at e; cases e

end Sys2Proof.Machine
end

