-- ==== Sys2Proof/Laws/Footprint.lean ====
section
/-!
SUPPORT. From what an operation keeps (`Keeps`) to what a footprint says (`Only`).
-/

set_option Elab.async false

namespace Sys2Proof.Machine

/-- The bits of a list of registers. -/
def regBits (l : List RName) : Nat := l.foldr (fun n m => Nat.lor (2 ^ n.ctorIdx) m) 0

theorem regBits_mem {l : List RName} {n : RName} (h : (regBits l).testBit n.ctorIdx = true) : n ∈ l := by
  induction l with
  | nil => simp [regBits] at h
  | cons a r ih =>
    have h : (2 ^ a.ctorIdx ||| regBits r).testBit n.ctorIdx = true := h
    rw [Nat.testBit_or, Nat.testBit_two_pow, Bool.or_eq_true, decide_eq_true_iff] at h
    rcases h with h | h
    · exact List.mem_cons.2 (.inl (RName.ctorIdx_inj h).symm)
    · exact List.mem_cons.2 (.inr (ih h))

/-- What a footprint allows, as `Keeps` takes it. -/
def touchOf (f : List Part × List RName) : Touch where
  r32 := true
  r64 := true
  free := f.1.contains .free
  mem := f.1.contains .mem
  host := f.1.contains .host
  loc := f.1.contains .loc
  dma := f.1.contains .dma
  time := f.1.contains .time
  link := f.1.contains .link
  power := f.1.contains .power
  boot := f.1.contains .boot
  squall := f.1.contains .squall
  tm := f.1.contains .tm
  halo := f.1.contains .halo
  cirrus := f.1.contains .cirrus
  te := f.1.contains .te
  trust := f.1.contains .trust
  zen := f.1.contains .zen
  regs := regBits f.2

theorem Keeps.only {f : List Part × List RName} {s t : State} (h : Keeps (touchOf f) s t) : Only f s t := by
  have out : ∀ {p : Part}, p ∉ f.1 → f.1.contains p = false := by
    intro p hp
    rw [Bool.eq_false_iff]
    exact fun e => hp (List.contains_iff_mem.1 e)
  have reg : ∀ {n : RName}, n ∉ f.2 → (touchOf f).has n = false := by
    intro n hn
    rw [Bool.eq_false_iff]
    exact fun e => hn (regBits_mem e)
  refine ⟨h.pending, fun p hp => ?_, fun n i j hn => (h.regs n i j (reg hn)).1, fun n i j hn => (h.regs n i j (reg hn)).2⟩
  have e := out hp
  cases p
  · exact h.free e
  · exact h.mem e
  · exact h.host e
  · exact h.loc e
  · exact h.dma e
  · exact h.time e
  · exact h.link e
  · exact h.power e
  · exact h.boot e
  · exact h.squall e
  · exact h.tm e
  · exact h.halo e
  · exact h.cirrus e
  · exact h.te e
  · exact h.trust e
  · exact h.zen e

end Sys2Proof.Machine
end

