-- ==== Sys2Proof/Laws/KeepsOps.lean ====
section
/-!
SUPPORT. What each operation and each command of `Machine/Ops.lean` (the shared operations) leaves alone, in the terms of `Laws/Keeps.lean`.
-/

set_option Elab.async false

set_option linter.unusedTactic false
set_option linter.unreachableTactic false
set_option linter.unusedVariables false
namespace Sys2Proof.Machine

variable {L : Touch} {s0 s : State}

theorem State.fset_keeps (h : Keeps L s0 s) (a2 : Fld) (a3 : ℕ) (a4 : ℕ) (a5 : ℕ) (lr32 : L.r32 = true := by first | assumption | rfl) (cp1 : L.has a2.reg = true := by first | with_reducible assumption | (refine has_ok (by assumption) ?_; exact rfl) | rfl) :
    Keeps L s0 (State.fset s a2 a3 a4 a5) := by
  unfold State.fset
  with_reducible repeat' first | assumption | intro _ | apply keeps_ite | apply State.wr_keeps | apply keeps_snd_ite | dsimp only | split

theorem State.bump_keeps (h : Keeps L s0 s) (a2 : RName) (a3 : ℕ) (a4 : ℕ) (a5 : ℕ) (lr64 : L.r64 = true := by first | assumption | rfl) (cp1 : L.has a2 = true := by first | with_reducible assumption | (refine has_ok (by assumption) ?_; exact rfl) | rfl) :
    Keeps L s0 (State.bump s a2 a3 a4 a5) := by
  unfold State.bump
  with_reducible repeat' first | assumption | intro _ | apply keeps_ite | apply State.wrw_keeps | apply keeps_snd_ite | dsimp only | split

theorem State.draw_keeps (h : Keeps L s0 s) (lfree : L.free = true := by first | assumption | rfl) :
    Keeps L s0 (State.draw s).2 := by
  unfold State.draw
  with_reducible repeat' first | assumption | intro _ | apply keeps_ite | apply keeps_snd_ite | dsimp only | split | exact Or.inl (by assumption) | exact Or.inr rfl | refine keeps_mk ?_ rfl rfl ?_ ?_ ?_ ?_ ?_ ?_ ?_ ?_ ?_ ?_ ?_ ?_ ?_ ?_

theorem State.sendVec_keeps (h : Keeps L s0 s) (a2 : ℕ) (a3 : ℕ) (lr32 : L.r32 = true := by first | assumption | rfl) (lhost : L.host = true := by first | assumption | rfl) (m : within 0x20000000000000000000000000000 L.regs = true := by first | with_reducible assumption | (refine within_trans (by assumption) ?_; exact rfl) | rfl) :
    Keeps L s0 (State.sendVec s a2 a3) := by
  unfold State.sendVec
  with_reducible repeat' first | assumption | intro _ | apply keeps_ite | exact has_ok m rfl | exact within_trans m rfl | apply State.wr_keeps | apply keeps_snd_ite | dsimp only | split | exact Or.inl (by assumption) | exact Or.inr rfl | refine keeps_mk ?_ rfl rfl ?_ ?_ ?_ ?_ ?_ ?_ ?_ ?_ ?_ ?_ ?_ ?_ ?_ ?_

theorem State.setRing_keeps (h : Keeps L s0 s) (a2 : ℕ) (a3 : RingSt) (lhost : L.host = true := by first | assumption | rfl) :
    Keeps L s0 (State.setRing s a2 a3) := by
  unfold State.setRing
  with_reducible repeat' first | assumption | intro _ | apply keeps_ite | apply keeps_snd_ite | dsimp only | split | exact Or.inl (by assumption) | exact Or.inr rfl | refine keeps_mk ?_ rfl rfl ?_ ?_ ?_ ?_ ?_ ?_ ?_ ?_ ?_ ?_ ?_ ?_ ?_ ?_

theorem State.eventTo_keeps (h : Keeps L s0 s) (a2 : ℕ) (a3 : ℕ) (a4 : ℕ) (lr64 : L.r64 = true := by first | assumption | rfl) (lhost : L.host = true := by first | assumption | rfl) (m : within 0x1800000000000000000000000 L.regs = true := by first | with_reducible assumption | (refine within_trans (by assumption) ?_; exact rfl) | rfl) :
    Keeps L s0 (State.eventTo s a2 a3 a4) := by
  unfold State.eventTo
  with_reducible repeat' first | assumption | intro _ | apply keeps_ite | exact has_ok m rfl | exact within_trans m rfl | apply State.setRing_keeps | apply State.bump_keeps | apply keeps_snd_ite | dsimp only | split

theorem State.post_keeps (h : Keeps L s0 s) (a2 : ℕ) (a3 : ℕ) (lr64 : L.r64 = true := by first | assumption | rfl) (lhost : L.host = true := by first | assumption | rfl) (m : within 0x1800000000000000000000000 L.regs = true := by first | with_reducible assumption | (refine within_trans (by assumption) ?_; exact rfl) | rfl) :
    Keeps L s0 (State.post s a2 a3) := by
  unfold State.post
  with_reducible repeat' first | assumption | intro _ | apply keeps_ite | exact has_ok m rfl | exact within_trans m rfl | apply State.eventTo_keeps | apply keeps_snd_ite | dsimp only | split

theorem State.postFn_keeps (h : Keeps L s0 s) (a2 : ℕ) (a3 : ℕ) (a4 : ℕ) (lr64 : L.r64 = true := by first | assumption | rfl) (lhost : L.host = true := by first | assumption | rfl) (m : within 0x1800000000000000000000000 L.regs = true := by first | with_reducible assumption | (refine within_trans (by assumption) ?_; exact rfl) | rfl) :
    Keeps L s0 (State.postFn s a2 a3 a4) := by
  unfold State.postFn
  with_reducible repeat' first | assumption | intro _ | apply keeps_ite | exact has_ok m rfl | exact within_trans m rfl | apply State.eventTo_keeps | apply State.bump_keeps | apply keeps_snd_ite | dsimp only | split

theorem State.setPend_keeps (h : Keeps L s0 s) (a2 : ℕ) (lr32 : L.r32 = true := by first | assumption | rfl) (m : within 0x1000000 L.regs = true := by first | with_reducible assumption | (refine within_trans (by assumption) ?_; exact rfl) | rfl) :
    Keeps L s0 (State.setPend s a2) := by
  unfold State.setPend
  with_reducible repeat' first | assumption | intro _ | apply keeps_ite | exact has_ok m rfl | exact within_trans m rfl | apply State.wr_keeps | apply keeps_snd_ite | dsimp only | split

theorem State.startMask_keeps (h : Keeps L s0 s) (a2 : List (ℕ × ℕ × Option ℕ)) (a3 : ℕ) (lr32 : L.r32 = true := by first | assumption | rfl) (lsquall : L.squall = true := by first | assumption | rfl) (m : within 0x2000 L.regs = true := by first | with_reducible assumption | (refine within_trans (by assumption) ?_; exact rfl) | rfl) :
    Keeps L s0 (State.startMask s a2 a3) := by
  unfold State.startMask
  with_reducible repeat' first | assumption | intro _ | apply keeps_ite | exact has_ok m rfl | exact within_trans m rfl | apply State.fset_keeps | apply keeps_snd_ite | dsimp only | split | exact Or.inl (by assumption) | exact Or.inr rfl | refine keeps_mk ?_ rfl rfl ?_ ?_ ?_ ?_ ?_ ?_ ?_ ?_ ?_ ?_ ?_ ?_ ?_ ?_

theorem State.report_keeps (h : Keeps L s0 s) (a2 : ℕ) (a3 : ℕ) (a4 : ℕ) (lr32 : L.r32 = true := by first | assumption | rfl) (lr64 : L.r64 = true := by first | assumption | rfl) (lsquall : L.squall = true := by first | assumption | rfl) (m : within 0x1082000 L.regs = true := by first | with_reducible assumption | (refine within_trans (by assumption) ?_; exact rfl) | rfl) :
    Keeps L s0 (State.report s a2 a3 a4) := by
  unfold State.report
  with_reducible repeat' first | assumption | intro _ | apply keeps_ite | exact has_ok m rfl | exact within_trans m rfl | apply State.when_keeps | apply State.startMask_keeps | apply State.setPend_keeps | apply State.bump_keeps | apply keeps_snd_ite | dsimp only | split | exact Or.inl (by assumption) | exact Or.inr rfl | refine keeps_mk ?_ rfl rfl ?_ ?_ ?_ ?_ ?_ ?_ ?_ ?_ ?_ ?_ ?_ ?_ ?_ ?_

theorem State.postLane_keeps (h : Keeps L s0 s) (a2 : ℕ) (a3 : ℕ) (a4 : ℕ) (lr64 : L.r64 = true := by first | assumption | rfl) (lhost : L.host = true := by first | assumption | rfl) (m : within 0x1800000000000000000000000 L.regs = true := by first | with_reducible assumption | (refine within_trans (by assumption) ?_; exact rfl) | rfl) :
    Keeps L s0 (State.postLane s a2 a3 a4) := by
  unfold State.postLane
  with_reducible repeat' first | assumption | intro _ | apply keeps_ite | exact has_ok m rfl | exact within_trans m rfl | apply State.post_keeps | apply keeps_snd_ite | dsimp only | split

end Sys2Proof.Machine
end

