-- ==== Sys2Proof/Laws/KeepsCounters.lean ====
section
/-!
SUPPORT. What each operation and each command of `Machine/Counters.lean` (the counters) leaves alone, in the terms of `Laws/Keeps.lean`.
-/

set_option Elab.async false

set_option linter.unusedTactic false
set_option linter.unreachableTactic false
set_option linter.unusedVariables false
namespace Sys2Proof.Machine

variable {L : Touch} {s0 s : State}

theorem State.setBit_keeps (h : Keeps L s0 s) (a2 : RName) (a3 : ℕ) (a4 : ℕ) (lr32 : L.r32 = true := by first | assumption | rfl) (cp1 : L.has a2 = true := by first | with_reducible assumption | (refine has_ok (by assumption) ?_; exact rfl) | rfl) :
    Keeps L s0 (State.setBit s a2 a3 a4) := by
  unfold State.setBit
  with_reducible repeat' first | assumption | intro _ | apply keeps_ite | apply State.wr_keeps | apply keeps_snd_ite | dsimp only | split

theorem State.addOvf_keeps (h : Keeps L s0 s) (a2 : RName) (a3 : ℕ) (a4 : ℕ) (a5 : RName) (a6 : ℕ) (a7 : ℕ) (lr32 : L.r32 = true := by first | assumption | rfl) (lr64 : L.r64 = true := by first | assumption | rfl) (cp1 : L.has a2 = true := by first | with_reducible assumption | (refine has_ok (by assumption) ?_; exact rfl) | rfl) (cp4 : L.has a5 = true := by first | with_reducible assumption | (refine has_ok (by assumption) ?_; exact rfl) | rfl) :
    Keeps L s0 (State.addOvf s a2 a3 a4 a5 a6 a7) := by
  unfold State.addOvf
  with_reducible repeat' first | assumption | intro _ | apply keeps_ite | apply State.wrw_keeps | apply State.setBit_keeps | apply keeps_snd_ite | dsimp only | split

theorem State.perf_keeps (h : Keeps L s0 s) (a2 : ℕ) (a3 : ℕ) (a4 : Option ℕ) (a5 : Option (List ℕ)) (a6 : Option ℕ) (a7 : ℕ) (lr32 : L.r32 = true := by first | assumption | rfl) (lr64 : L.r64 = true := by first | assumption | rfl) (m : within 0x1400000000000000000000000000000000000000000000000000000000000000000000000000000 L.regs = true := by first | with_reducible assumption | (refine within_trans (by assumption) ?_; exact rfl) | rfl) :
    Keeps L s0 (State.perf s a2 a3 a4 a5 a6 a7) := by
  unfold State.perf
  with_reducible repeat' first | assumption | intro _ | apply keeps_ite | exact has_ok m rfl | exact within_trans m rfl | apply State.each_keeps | apply State.addOvf_keeps | apply keeps_snd_ite | dsimp only | split

theorem State.dropCount_keeps (h : Keeps L s0 s) (a2 : ℕ) (a3 : ℕ) (a4 : ℕ) (a5 : ℕ) (lr32 : L.r32 = true := by first | assumption | rfl) (lr64 : L.r64 = true := by first | assumption | rfl) (m : within 0x1400000000000001000000030000000000000000000000000000000000000000000000000000000 L.regs = true := by first | with_reducible assumption | (refine within_trans (by assumption) ?_; exact rfl) | rfl) :
    Keeps L s0 (State.dropCount s a2 a3 a4 a5) := by
  unfold State.dropCount
  with_reducible repeat' first | assumption | intro _ | apply keeps_ite | exact has_ok m rfl | exact within_trans m rfl | apply State.bump_keeps | apply State.perf_keeps | apply keeps_snd_ite | dsimp only | split

end Sys2Proof.Machine
end

