-- ==== Sys2Proof/Laws/KeepsHost.lean ====
section
/-!
SUPPORT. What each operation and each command of `Machine/Host.lean` (rings and masters) leaves alone, in the terms of `Laws/Keeps.lean`.
-/

set_option Elab.async false

set_option linter.unusedTactic false
set_option linter.unreachableTactic false
set_option linter.unusedVariables false
namespace Sys2Proof.Machine

variable {L : Touch} {s0 s : State}

theorem State.putRing_keeps (h : Keeps L s0 s) (a2 : ℕ) (a3 : RingSt) (lr32 : L.r32 = true := by first | assumption | rfl) (lhost : L.host = true := by first | assumption | rfl) (m : within 0x800000000000000000000000000 L.regs = true := by first | with_reducible assumption | (refine within_trans (by assumption) ?_; exact rfl) | rfl) :
    Keeps L s0 (State.putRing s a2 a3) := by
  unfold State.putRing
  with_reducible repeat' first | assumption | intro _ | apply keeps_ite | exact has_ok m rfl | exact within_trans m rfl | apply State.fset_keeps | apply State.setRing_keeps | apply keeps_snd_ite | dsimp only | split

theorem State.advanceH_keeps (h : Keeps L s0 s) (a2 : ℕ) (lr32 : L.r32 = true := by first | assumption | rfl) (m : within 0x2000000000000000000000000000 L.regs = true := by first | with_reducible assumption | (refine within_trans (by assumption) ?_; exact rfl) | rfl) :
    Keeps L s0 (State.advanceH s a2) := by
  unfold State.advanceH
  with_reducible repeat' first | assumption | intro _ | apply keeps_ite | exact has_ok m rfl | exact within_trans m rfl | apply State.wr_keeps | apply keeps_snd_ite | dsimp only | split

theorem State.clearRing_keeps (h : Keeps L s0 s) (a2 : ℕ) (lr32 : L.r32 = true := by first | assumption | rfl) (lhost : L.host = true := by first | assumption | rfl) (m : within 0x800000000000000000000000000 L.regs = true := by first | with_reducible assumption | (refine within_trans (by assumption) ?_; exact rfl) | rfl) :
    Keeps L s0 (State.clearRing s a2) := by
  unfold State.clearRing
  with_reducible repeat' first | assumption | intro _ | apply keeps_ite | exact has_ok m rfl | exact within_trans m rfl | apply State.fset_keeps | apply State.putRing_keeps | apply State.setRing_keeps | apply keeps_snd_ite | dsimp only | split

theorem State.chFreeze_keeps (h : Keeps L s0 s) (a2 : ℕ) (lr32 : L.r32 = true := by first | assumption | rfl) (m : within 0x800000000000000000000000000000 L.regs = true := by first | with_reducible assumption | (refine within_trans (by assumption) ?_; exact rfl) | rfl) :
    Keeps L s0 (State.chFreeze s a2) := by
  unfold State.chFreeze
  with_reducible repeat' first | assumption | intro _ | apply keeps_ite | exact has_ok m rfl | exact within_trans m rfl | apply State.fset_keeps | apply keeps_snd_ite | dsimp only | split

theorem State.violation_keeps (h : Keeps L s0 s) (a2 : ℕ) (a3 : ℕ) (a4 : ℕ) (a5 : ℕ) (lr32 : L.r32 = true := by first | assumption | rfl) (lr64 : L.r64 = true := by first | assumption | rfl) (lhost : L.host = true := by first | assumption | rfl) (lsquall : L.squall = true := by first | assumption | rfl) (m : within 0x800801b80000000000000001082000 L.regs = true := by first | with_reducible assumption | (refine within_trans (by assumption) ?_; exact rfl) | rfl) :
    Keeps L s0 (State.violation s a2 a3 a4 a5) := by
  unfold State.violation
  with_reducible repeat' first | assumption | intro _ | apply keeps_ite | exact has_ok m rfl | exact within_trans m rfl | apply State.wr_keeps | apply State.fset_keeps | apply State.wrw_keeps | apply State.clearRing_keeps | apply State.chFreeze_keeps | apply State.postFn_keeps | apply State.report_keeps | apply forN_keeps | apply keeps_snd_ite | dsimp only | split

theorem State.underRight_keeps (h : Keeps L s0 s) (a2 : ℕ) (a3 : ℕ) (a4 : ℕ) {a5 : State → State} (ha5 : ∀ s, Keeps L s0 s → Keeps L s0 (a5 s)) (lr32 : L.r32 = true := by first | assumption | rfl) (lr64 : L.r64 = true := by first | assumption | rfl) (lhost : L.host = true := by first | assumption | rfl) (lsquall : L.squall = true := by first | assumption | rfl) (m : within 0x800801b80000000000000001082000 L.regs = true := by first | with_reducible assumption | (refine within_trans (by assumption) ?_; exact rfl) | rfl) :
    Keeps L s0 (State.underRight s a2 a3 a4 a5) := by
  unfold State.underRight
  with_reducible repeat' first | assumption | intro _ | apply keeps_ite | exact has_ok m rfl | exact within_trans m rfl | apply ha5 | apply State.violation_keeps | apply keeps_snd_ite | dsimp only | split

theorem State.ringError_keeps (h : Keeps L s0 s) (a2 : ℕ) (a3 : ℕ) (a4 : Word) (lr32 : L.r32 = true := by first | assumption | rfl) (lr64 : L.r64 = true := by first | assumption | rfl) (lhost : L.host = true := by first | assumption | rfl) (lsquall : L.squall = true := by first | assumption | rfl) (m : within 0x1801800000000000000001082000 L.regs = true := by first | with_reducible assumption | (refine within_trans (by assumption) ?_; exact rfl) | rfl) :
    Keeps L s0 (State.ringError s a2 a3 a4) := by
  unfold State.ringError
  with_reducible repeat' first | assumption | intro _ | apply keeps_ite | exact has_ok m rfl | exact within_trans m rfl | apply State.fset_keeps | apply State.wr_keeps | apply State.report_keeps | apply State.postFn_keeps | apply keeps_snd_ite | dsimp only | split

theorem State.ringFlip_keeps (h : Keeps L s0 s) (a2 : ℕ) (lr32 : L.r32 = true := by first | assumption | rfl) (lhost : L.host = true := by first | assumption | rfl) (m : within 0x20000000000000000000000000000 L.regs = true := by first | with_reducible assumption | (refine within_trans (by assumption) ?_; exact rfl) | rfl) :
    Keeps L s0 (State.ringFlip s a2) := by
  unfold State.ringFlip
  with_reducible repeat' first | assumption | intro _ | apply keeps_ite | exact has_ok m rfl | exact within_trans m rfl | apply State.sendVec_keeps | apply State.setRing_keeps | apply keeps_snd_ite | dsimp only | split

theorem State.finishEntry_keeps (h : Keeps L s0 s) (a2 : ℕ) (a3 : ℕ) (a4 : List Byte) (lr32 : L.r32 = true := by first | assumption | rfl) (lr64 : L.r64 = true := by first | assumption | rfl) (lmem : L.mem = true := by first | assumption | rfl) (lhost : L.host = true := by first | assumption | rfl) (lsquall : L.squall = true := by first | assumption | rfl) (m : within 0x822801b80000000000000001082000 L.regs = true := by first | with_reducible assumption | (refine within_trans (by assumption) ?_; exact rfl) | rfl) :
    Keeps L s0 (State.finishEntry s a2 a3 a4) := by
  unfold State.finishEntry
  with_reducible repeat' first | assumption | intro _ | apply keeps_ite | exact has_ok m rfl | exact within_trans m rfl | apply State.ringFlip_keeps | apply State.advanceH_keeps | apply State.hostPut_keeps | apply State.violation_keeps | apply keeps_snd_ite | dsimp only | split

theorem State.takeEntry_keeps (h : Keeps L s0 s) (a2 : ℕ) (lr32 : L.r32 = true := by first | assumption | rfl) (lr64 : L.r64 = true := by first | assumption | rfl) (lhost : L.host = true := by first | assumption | rfl) (lsquall : L.squall = true := by first | assumption | rfl) (m : within 0x1801800000000000000001082000 L.regs = true := by first | with_reducible assumption | (refine within_trans (by assumption) ?_; exact rfl) | rfl) :
    Keeps L s0 (State.takeEntry s a2).2 := by
  unfold State.takeEntry
  with_reducible repeat' first | assumption | intro _ | apply keeps_ite | exact has_ok m rfl | exact within_trans m rfl | apply State.putRing_keeps | apply State.ringError_keeps | apply keeps_snd_ite | dsimp only | split

theorem State.untakeEntry_keeps (h : Keeps L s0 s) (a2 : ℕ) (a3 : List Byte) (lr32 : L.r32 = true := by first | assumption | rfl) (lhost : L.host = true := by first | assumption | rfl) (m : within 0x800000000000000000000000000 L.regs = true := by first | with_reducible assumption | (refine within_trans (by assumption) ?_; exact rfl) | rfl) :
    Keeps L s0 (State.untakeEntry s a2 a3) := by
  unfold State.untakeEntry
  with_reducible repeat' first | assumption | intro _ | apply keeps_ite | exact has_ok m rfl | exact within_trans m rfl | apply State.putRing_keeps | apply keeps_snd_ite | dsimp only | split

theorem State.ringCtlWrite_keeps (h : Keeps L s0 s) (a2 : ℕ) (a3 : Word) (lr32 : L.r32 = true := by first | assumption | rfl) (lr64 : L.r64 = true := by first | assumption | rfl) (lhost : L.host = true := by first | assumption | rfl) (lsquall : L.squall = true := by first | assumption | rfl) (m : within 0x807a01b80000000000000001082000 L.regs = true := by first | with_reducible assumption | (refine within_trans (by assumption) ?_; exact rfl) | rfl) :
    Keeps L s0 (State.ringCtlWrite s a2 a3) := by
  unfold State.ringCtlWrite
  with_reducible repeat' first | assumption | intro _ | apply keeps_ite | exact has_ok m rfl | exact within_trans m rfl | apply State.wr_keeps | apply State.ringError_keeps | apply State.fset_keeps | apply State.clearRing_keeps | apply State.violation_keeps | apply keeps_snd_ite | dsimp only | split

theorem execRingEnable_keeps (h : Keeps L s0 s) (a1 : ℕ) (a2 : Word) (lr32 : L.r32 = true := by first | assumption | rfl) (lr64 : L.r64 = true := by first | assumption | rfl) (lhost : L.host = true := by first | assumption | rfl) (lsquall : L.squall = true := by first | assumption | rfl) (m : within 0x807a01b80000000000000001082000 L.regs = true := by first | with_reducible assumption | (refine within_trans (by assumption) ?_; exact rfl) | rfl) :
    ∃ t, execRingEnable a1 a2 s = .next t ∧ Keeps L s0 t := by
  unfold execRingEnable
  refine ⟨_, rfl, ?_⟩
  with_reducible repeat' first | assumption | intro _ | apply keeps_ite | exact has_ok m rfl | exact within_trans m rfl | apply State.ringCtlWrite_keeps | apply keeps_snd_ite | dsimp only | split

theorem State.setTail_keeps (h : Keeps L s0 s) (a2 : ℕ) (a3 : Word) (lr32 : L.r32 = true := by first | assumption | rfl) (lr64 : L.r64 = true := by first | assumption | rfl) (lhost : L.host = true := by first | assumption | rfl) (lsquall : L.squall = true := by first | assumption | rfl) (m : within 0x5801800000000000000001082000 L.regs = true := by first | with_reducible assumption | (refine within_trans (by assumption) ?_; exact rfl) | rfl) :
    Keeps L s0 (State.setTail s a2 a3) := by
  unfold State.setTail
  with_reducible repeat' first | assumption | intro _ | apply keeps_ite | exact has_ok m rfl | exact within_trans m rfl | apply State.ringError_keeps | apply State.wr_keeps | apply keeps_snd_ite | dsimp only | split

theorem State.ringPageWrite_keeps (h : Keeps L s0 s) (a2 : ℕ) (a3 : ℕ) {a4 : State → State} (ha4 : ∀ s, Keeps L s0 s → Keeps L s0 (a4 s)) (lr32 : L.r32 = true := by first | assumption | rfl) (lr64 : L.r64 = true := by first | assumption | rfl) (lhost : L.host = true := by first | assumption | rfl) (lsquall : L.squall = true := by first | assumption | rfl) (m : within 0x800805b80000000000000001082000 L.regs = true := by first | with_reducible assumption | (refine within_trans (by assumption) ?_; exact rfl) | rfl) :
    Keeps L s0 (State.ringPageWrite s a2 a3 a4) := by
  unfold State.ringPageWrite
  with_reducible repeat' first | assumption | intro _ | apply keeps_ite | exact has_ok m rfl | exact within_trans m rfl | apply ha4 | apply State.violation_keeps | apply State.bump_keeps | apply keeps_snd_ite | dsimp only | split

theorem execDoorbellWrite_keeps (h : Keeps L s0 s) (a1 : ℕ) (a2 : ℕ) (a3 : Word) (lr32 : L.r32 = true := by first | assumption | rfl) (lr64 : L.r64 = true := by first | assumption | rfl) (lhost : L.host = true := by first | assumption | rfl) (lsquall : L.squall = true := by first | assumption | rfl) (m : within 0x805805b80000000000000001082000 L.regs = true := by first | with_reducible assumption | (refine within_trans (by assumption) ?_; exact rfl) | rfl) :
    ∃ t, execDoorbellWrite a1 a2 a3 s = .next t ∧ Keeps L s0 t := by
  unfold execDoorbellWrite
  refine ⟨_, rfl, ?_⟩
  with_reducible repeat' first | assumption | intro _ | apply keeps_ite | exact has_ok m rfl | exact within_trans m rfl | apply State.ringPageWrite_keeps | apply State.setTail_keeps | apply keeps_snd_ite | dsimp only | split

theorem State.invalidate_keeps (h : Keeps L s0 s) (a2 : ℕ) (lr32 : L.r32 = true := by first | assumption | rfl) (lhost : L.host = true := by first | assumption | rfl) (m : within 0x800000000000000000000000000 L.regs = true := by first | with_reducible assumption | (refine within_trans (by assumption) ?_; exact rfl) | rfl) :
    Keeps L s0 (State.invalidate s a2) := by
  unfold State.invalidate
  with_reducible repeat' first | assumption | intro _ | apply keeps_ite | exact has_ok m rfl | exact within_trans m rfl | apply State.putRing_keeps | apply keeps_snd_ite | dsimp only | split

theorem execInvalidate_keeps (h : Keeps L s0 s) (a1 : ℕ) (a2 : ℕ) (a3 : Word) (lr32 : L.r32 = true := by first | assumption | rfl) (lr64 : L.r64 = true := by first | assumption | rfl) (lhost : L.host = true := by first | assumption | rfl) (lsquall : L.squall = true := by first | assumption | rfl) (m : within 0x800805b80000000000000001082000 L.regs = true := by first | with_reducible assumption | (refine within_trans (by assumption) ?_; exact rfl) | rfl) :
    ∃ t, execInvalidate a1 a2 a3 s = .next t ∧ Keeps L s0 t := by
  unfold execInvalidate
  refine ⟨_, rfl, ?_⟩
  with_reducible repeat' first | assumption | intro _ | apply keeps_ite | exact has_ok m rfl | exact within_trans m rfl | apply State.ringPageWrite_keeps | apply State.invalidate_keeps | apply keeps_snd_ite | dsimp only | split

theorem State.pageWordWrite_keeps (h : Keeps L s0 s) (a2 : ℕ) (a3 : ℕ) (a4 : ℕ) (a5 : Word) (lr32 : L.r32 = true := by first | assumption | rfl) (lr64 : L.r64 = true := by first | assumption | rfl) (lhost : L.host = true := by first | assumption | rfl) (lsquall : L.squall = true := by first | assumption | rfl) (m : within 0x805805b80000000000000001082000 L.regs = true := by first | with_reducible assumption | (refine within_trans (by assumption) ?_; exact rfl) | rfl) :
    Keeps L s0 (State.pageWordWrite s a2 a3 a4 a5) := by
  unfold State.pageWordWrite
  with_reducible repeat' first | assumption | intro _ | apply keeps_ite | exact has_ok m rfl | exact within_trans m rfl | apply State.ringPageWrite_keeps | apply State.setTail_keeps | apply State.invalidate_keeps | apply State.violation_keeps | apply keeps_snd_ite | dsimp only | split

theorem execInvalidateDone_keeps (h : Keeps L s0 s) (a1 : ℕ) (lhost : L.host = true := by first | assumption | rfl) :
    ∃ t, execInvalidateDone a1 s = .next t ∧ Keeps L s0 t := by
  unfold execInvalidateDone
  refine ⟨_, rfl, ?_⟩
  with_reducible repeat' first | assumption | intro _ | apply keeps_ite | apply State.setRing_keeps | apply keeps_snd_ite | dsimp only | split

theorem execDescriptorFetch_keeps (h : Keeps L s0 s) (a1 : ℕ) (a2 : List (List Byte)) (a3 : Bool) (lr32 : L.r32 = true := by first | assumption | rfl) (lr64 : L.r64 = true := by first | assumption | rfl) (lhost : L.host = true := by first | assumption | rfl) (lsquall : L.squall = true := by first | assumption | rfl) (m : within 0x801801b80000000000000001082000 L.regs = true := by first | with_reducible assumption | (refine within_trans (by assumption) ?_; exact rfl) | rfl) :
    ∃ t, execDescriptorFetch a1 a2 a3 s = .next t ∧ Keeps L s0 t := by
  unfold execDescriptorFetch
  refine ⟨_, rfl, ?_⟩
  with_reducible repeat' first | assumption | intro _ | apply keeps_ite | exact has_ok m rfl | exact within_trans m rfl | apply State.violation_keeps | apply State.ringError_keeps | apply State.putRing_keeps | apply keeps_snd_ite | dsimp only | split

theorem State.stallCheck_keeps (h : Keeps L s0 s) (a2 : ℕ) (lr32 : L.r32 = true := by first | assumption | rfl) (lr64 : L.r64 = true := by first | assumption | rfl) (lhost : L.host = true := by first | assumption | rfl) (m : within 0x8801800000000000000000000000 L.regs = true := by first | with_reducible assumption | (refine within_trans (by assumption) ?_; exact rfl) | rfl) :
    Keeps L s0 (State.stallCheck s a2) := by
  unfold State.stallCheck
  with_reducible repeat' first | assumption | intro _ | apply keeps_ite | exact has_ok m rfl | exact within_trans m rfl | apply State.postFn_keeps | apply State.fset_keeps | apply State.bump_keeps | apply keeps_snd_ite | dsimp only | split

theorem State.reserve_keeps (h : Keeps L s0 s) (a2 : ℕ) (a3 : ℕ) (a4 : List Byte) (lr32 : L.r32 = true := by first | assumption | rfl) (lr64 : L.r64 = true := by first | assumption | rfl) (lhost : L.host = true := by first | assumption | rfl) (m : within 0x8801800000000000000000000000 L.regs = true := by first | with_reducible assumption | (refine within_trans (by assumption) ?_; exact rfl) | rfl) :
    Keeps L s0 (State.reserve s a2 a3 a4) := by
  unfold State.reserve
  with_reducible repeat' first | assumption | intro _ | apply keeps_ite | exact has_ok m rfl | exact within_trans m rfl | apply State.stallCheck_keeps | apply State.fset_keeps | apply State.setRing_keeps | apply keeps_snd_ite | dsimp only | split

theorem State.finishStarted_keeps (h : Keeps L s0 s) (a2 a3 : ℕ) (lr32 : L.r32 = true := by first | assumption | rfl) (lr64 : L.r64 = true := by first | assumption | rfl) (lmem : L.mem = true := by first | assumption | rfl) (lhost : L.host = true := by first | assumption | rfl) (lsquall : L.squall = true := by first | assumption | rfl) (m : within 0x822801b80000000000000001082000 L.regs = true := by first | with_reducible assumption | (refine within_trans (by assumption) ?_; exact rfl) | rfl) : Keeps L s0 (State.finishStarted s a2 a3) := by
  induction a3 generalizing s with
  | zero => exact h
  | succ n ih =>
    simp only [State.finishStarted]
    split
    · exact h
    · split
      · exact h
      · have h1 := fun a b c d => State.finishEntry_keeps (State.setRing_keeps h a b) a c d
        split
        · exact h1 _ _ _ _
        · exact ih (State.setRing_keeps (h1 _ _ _ _) _ _)

theorem State.complete_keeps (h : Keeps L s0 s) (a2 : ℕ) (a3 : ℕ) (a4 : ℕ) (a5 : ℕ) (a6 : ℕ) (a7 : ℕ) (lr32 : L.r32 = true := by first | assumption | rfl) (lr64 : L.r64 = true := by first | assumption | rfl) (lmem : L.mem = true := by first | assumption | rfl) (lhost : L.host = true := by first | assumption | rfl) (lsquall : L.squall = true := by first | assumption | rfl) (m : within 0x822801b80000000000000001082000 L.regs = true := by first | with_reducible assumption | (refine within_trans (by assumption) ?_; exact rfl) | rfl) :
    Keeps L s0 (State.complete s a2 a3 a4 a5 a6 a7) := by
  unfold State.complete
  with_reducible repeat' first | assumption | intro _ | apply keeps_ite | exact has_ok m rfl | exact within_trans m rfl | apply State.finishStarted_keeps | apply State.setRing_keeps | apply keeps_snd_ite | dsimp only | split

theorem execCompletionWrite_keeps (h : Keeps L s0 s) (a1 : ℕ) (lr32 : L.r32 = true := by first | assumption | rfl) (lr64 : L.r64 = true := by first | assumption | rfl) (lmem : L.mem = true := by first | assumption | rfl) (lhost : L.host = true := by first | assumption | rfl) (lsquall : L.squall = true := by first | assumption | rfl) (m : within 0x82b801b80000000000000001082000 L.regs = true := by first | with_reducible assumption | (refine within_trans (by assumption) ?_; exact rfl) | rfl) :
    ∃ t, execCompletionWrite a1 s = .next t ∧ Keeps L s0 t := by
  unfold execCompletionWrite
  refine ⟨_, rfl, ?_⟩
  with_reducible repeat' first | assumption | intro _ | apply keeps_ite | exact has_ok m rfl | exact within_trans m rfl | apply State.takeEntry_keeps | apply State.finishEntry_keeps | apply State.setRing_keeps | apply State.fset_keeps | apply State.stallCheck_keeps | apply forN_keeps | apply keeps_snd_ite | (refine keeps_of_eq (by assumption) ?_) | dsimp only | split

theorem execEventWrite_keeps (h : Keeps L s0 s) (a1 : ℕ) (lr32 : L.r32 = true := by first | assumption | rfl) (lr64 : L.r64 = true := by first | assumption | rfl) (lmem : L.mem = true := by first | assumption | rfl) (lhost : L.host = true := by first | assumption | rfl) (lsquall : L.squall = true := by first | assumption | rfl) (m : within 0x823801b80000000000000001082000 L.regs = true := by first | with_reducible assumption | (refine within_trans (by assumption) ?_; exact rfl) | rfl) :
    ∃ t, execEventWrite a1 s = .next t ∧ Keeps L s0 t := by
  unfold execEventWrite
  refine ⟨_, rfl, ?_⟩
  with_reducible repeat' first | assumption | intro _ | apply keeps_ite | exact has_ok m rfl | exact within_trans m rfl | apply State.takeEntry_keeps | apply State.finishEntry_keeps | apply State.setRing_keeps | apply keeps_snd_ite | (refine keeps_of_eq (by assumption) ?_) | dsimp only | split

theorem execMsixModerationExpire_keeps (h : Keeps L s0 s) (a1 : ℕ) (lr32 : L.r32 = true := by first | assumption | rfl) (lhost : L.host = true := by first | assumption | rfl) (m : within 0x20000000000000000000000000000 L.regs = true := by first | with_reducible assumption | (refine within_trans (by assumption) ?_; exact rfl) | rfl) :
    ∃ t, execMsixModerationExpire a1 s = .next t ∧ Keeps L s0 t := by
  unfold execMsixModerationExpire
  refine ⟨_, rfl, ?_⟩
  with_reducible repeat' first | assumption | intro _ | apply keeps_ite | exact has_ok m rfl | exact within_trans m rfl | apply State.sendVec_keeps | apply State.setRing_keeps | apply keeps_snd_ite | dsimp only | split

theorem State.rxWrite_keeps (h : Keeps L s0 s) (a2 : ℕ) (a3 : RxItem) (lr32 : L.r32 = true := by first | assumption | rfl) (lr64 : L.r64 = true := by first | assumption | rfl) (lmem : L.mem = true := by first | assumption | rfl) (lhost : L.host = true := by first | assumption | rfl) (lsquall : L.squall = true := by first | assumption | rfl) (m : within 0x823801b80000000000000001082000 L.regs = true := by first | with_reducible assumption | (refine within_trans (by assumption) ?_; exact rfl) | rfl) :
    Keeps L s0 (State.rxWrite s a2 a3).2 := by
  unfold State.rxWrite
  with_reducible repeat' first | assumption | intro _ | apply keeps_ite | exact has_ok m rfl | exact within_trans m rfl | apply State.takeEntry_keeps | apply State.ringError_keeps | apply State.violation_keeps | apply State.finishEntry_keeps | apply State.hostPut_keeps | apply keeps_snd_ite | (refine keeps_of_eq (by assumption) ?_) | dsimp only | split

theorem State.setDmaCh_keeps (h : Keeps L s0 s) (a2 : ℕ) (a3 : DmaCh) (ldma : L.dma = true := by first | assumption | rfl) :
    Keeps L s0 (State.setDmaCh s a2 a3) := by
  unfold State.setDmaCh
  with_reducible repeat' first | assumption | intro _ | apply keeps_ite | apply keeps_snd_ite | dsimp only | split | exact Or.inl (by assumption) | exact Or.inr rfl | refine keeps_mk ?_ rfl rfl ?_ ?_ ?_ ?_ ?_ ?_ ?_ ?_ ?_ ?_ ?_ ?_ ?_ ?_

theorem State.dmaPulse_keeps (h : Keeps L s0 s) (a2 : ℕ) (ldma : L.dma = true := by first | assumption | rfl) :
    Keeps L s0 (State.dmaPulse s a2) := by
  unfold State.dmaPulse
  with_reducible repeat' first | assumption | intro _ | apply keeps_ite | apply State.setDmaCh_keeps | apply forN_keeps | apply keeps_snd_ite | dsimp only | split

theorem State.chViolation_keeps (h : Keeps L s0 s) (a2 : ℕ) (a3 : ℕ) (a4 : ℕ) (lr32 : L.r32 = true := by first | assumption | rfl) (lr64 : L.r64 = true := by first | assumption | rfl) (lhost : L.host = true := by first | assumption | rfl) (ldma : L.dma = true := by first | assumption | rfl) (lsquall : L.squall = true := by first | assumption | rfl) (m : within 0x800001800000000000000001082000 L.regs = true := by first | with_reducible assumption | (refine within_trans (by assumption) ?_; exact rfl) | rfl) :
    Keeps L s0 (State.chViolation s a2 a3 a4) := by
  unfold State.chViolation
  with_reducible repeat' first | assumption | intro _ | apply keeps_ite | exact has_ok m rfl | exact within_trans m rfl | apply State.setDmaCh_keeps | apply State.postFn_keeps | apply State.report_keeps | apply State.chFreeze_keeps | apply keeps_snd_ite | dsimp only | split

theorem State.chRun_keeps (h : Keeps L s0 s) (a2 : ℕ) (a3 : ℕ) (a4 : ℕ) (lr32 : L.r32 = true := by first | assumption | rfl) (lr64 : L.r64 = true := by first | assumption | rfl) (ldma : L.dma = true := by first | assumption | rfl) (m : within 0x21800000000000000000000000000000 L.regs = true := by first | with_reducible assumption | (refine within_trans (by assumption) ?_; exact rfl) | rfl) :
    Keeps L s0 (State.chRun s a2 a3 a4) := by
  unfold State.chRun
  with_reducible repeat' first | assumption | intro _ | apply keeps_ite | exact has_ok m rfl | exact within_trans m rfl | apply State.setDmaCh_keeps | apply State.wrw_keeps | apply State.wr_keeps | apply State.fset_keeps | apply keeps_snd_ite | dsimp only | split

theorem State.chCmd_keeps (h : Keeps L s0 s) (a2 : ℕ) (a3 : ℕ) (lr32 : L.r32 = true := by first | assumption | rfl) (lr64 : L.r64 = true := by first | assumption | rfl) (ldma : L.dma = true := by first | assumption | rfl) (m : within 0x31800000000000000000000000000000 L.regs = true := by first | with_reducible assumption | (refine within_trans (by assumption) ?_; exact rfl) | rfl) :
    Keeps L s0 (State.chCmd s a2 a3) := by
  unfold State.chCmd
  with_reducible repeat' first | assumption | intro _ | apply keeps_ite | exact has_ok m rfl | exact within_trans m rfl | apply State.chRun_keeps | apply State.fset_keeps | apply State.setDmaCh_keeps | apply State.wr_keeps | apply forN_keeps | apply keeps_snd_ite | dsimp only | split

theorem execDmaStart_keeps (h : Keeps L s0 s) (a1 : ℕ) (lr32 : L.r32 = true := by first | assumption | rfl) (lr64 : L.r64 = true := by first | assumption | rfl) (ldma : L.dma = true := by first | assumption | rfl) (m : within 0x31800000000000000000000000000000 L.regs = true := by first | with_reducible assumption | (refine within_trans (by assumption) ?_; exact rfl) | rfl) :
    ∃ t, execDmaStart a1 s = .next t ∧ Keeps L s0 t := by
  unfold execDmaStart
  refine ⟨_, rfl, ?_⟩
  with_reducible repeat' first | assumption | intro _ | apply keeps_ite | exact has_ok m rfl | exact within_trans m rfl | apply State.chCmd_keeps | apply keeps_snd_ite | dsimp only | split

theorem execDmaPause_keeps (h : Keeps L s0 s) (a1 : ℕ) (lr32 : L.r32 = true := by first | assumption | rfl) (lr64 : L.r64 = true := by first | assumption | rfl) (ldma : L.dma = true := by first | assumption | rfl) (m : within 0x31800000000000000000000000000000 L.regs = true := by first | with_reducible assumption | (refine within_trans (by assumption) ?_; exact rfl) | rfl) :
    ∃ t, execDmaPause a1 s = .next t ∧ Keeps L s0 t := by
  unfold execDmaPause
  refine ⟨_, rfl, ?_⟩
  with_reducible repeat' first | assumption | intro _ | apply keeps_ite | exact has_ok m rfl | exact within_trans m rfl | apply State.chCmd_keeps | apply keeps_snd_ite | dsimp only | split

theorem execDmaResume_keeps (h : Keeps L s0 s) (a1 : ℕ) (lr32 : L.r32 = true := by first | assumption | rfl) (lr64 : L.r64 = true := by first | assumption | rfl) (ldma : L.dma = true := by first | assumption | rfl) (m : within 0x31800000000000000000000000000000 L.regs = true := by first | with_reducible assumption | (refine within_trans (by assumption) ?_; exact rfl) | rfl) :
    ∃ t, execDmaResume a1 s = .next t ∧ Keeps L s0 t := by
  unfold execDmaResume
  refine ⟨_, rfl, ?_⟩
  with_reducible repeat' first | assumption | intro _ | apply keeps_ite | exact has_ok m rfl | exact within_trans m rfl | apply State.chCmd_keeps | apply keeps_snd_ite | dsimp only | split

theorem execDmaAbort_keeps (h : Keeps L s0 s) (a1 : ℕ) (lr32 : L.r32 = true := by first | assumption | rfl) (lr64 : L.r64 = true := by first | assumption | rfl) (ldma : L.dma = true := by first | assumption | rfl) (m : within 0x31800000000000000000000000000000 L.regs = true := by first | with_reducible assumption | (refine within_trans (by assumption) ?_; exact rfl) | rfl) :
    ∃ t, execDmaAbort a1 s = .next t ∧ Keeps L s0 t := by
  unfold execDmaAbort
  refine ⟨_, rfl, ?_⟩
  with_reducible repeat' first | assumption | intro _ | apply keeps_ite | exact has_ok m rfl | exact within_trans m rfl | apply State.chCmd_keeps | apply keeps_snd_ite | dsimp only | split

theorem State.chFault_keeps (h : Keeps L s0 s) (a2 : ℕ) (a3 : ℕ) (lr32 : L.r32 = true := by first | assumption | rfl) (lr64 : L.r64 = true := by first | assumption | rfl) (lsquall : L.squall = true := by first | assumption | rfl) (m : within 0x20800000000000000000000001082000 L.regs = true := by first | with_reducible assumption | (refine within_trans (by assumption) ?_; exact rfl) | rfl) :
    Keeps L s0 (State.chFault s a2 a3) := by
  unfold State.chFault
  with_reducible repeat' first | assumption | intro _ | apply keeps_ite | exact has_ok m rfl | exact within_trans m rfl | apply State.report_keeps | apply State.fset_keeps | apply keeps_snd_ite | dsimp only | split

theorem State.swreqWrite_keeps (h : Keeps L s0 s) (a2 : ℕ) (a3 : Word) (lr32 : L.r32 = true := by first | assumption | rfl) (lr64 : L.r64 = true := by first | assumption | rfl) (m : within 0x80002000000000000000000000000 L.regs = true := by first | with_reducible assumption | (refine within_trans (by assumption) ?_; exact rfl) | rfl) :
    Keeps L s0 (State.swreqWrite s a2 a3) := by
  unfold State.swreqWrite
  with_reducible repeat' first | assumption | intro _ | apply keeps_ite | exact has_ok m rfl | exact within_trans m rfl | apply State.wr_keeps | apply State.bump_keeps | apply keeps_snd_ite | dsimp only | split

theorem execDmaSwreqWrite_keeps (h : Keeps L s0 s) (a1 : ℕ) (a2 : Word) (lr32 : L.r32 = true := by first | assumption | rfl) (lr64 : L.r64 = true := by first | assumption | rfl) (lhost : L.host = true := by first | assumption | rfl) (lsquall : L.squall = true := by first | assumption | rfl) (m : within 0x880803b80000000000000001082000 L.regs = true := by first | with_reducible assumption | (refine within_trans (by assumption) ?_; exact rfl) | rfl) :
    ∃ t, execDmaSwreqWrite a1 a2 s = .next t ∧ Keeps L s0 t := by
  unfold execDmaSwreqWrite
  refine ⟨_, rfl, ?_⟩
  with_reducible repeat' first | assumption | intro _ | apply keeps_ite | exact has_ok m rfl | exact within_trans m rfl | apply State.underRight_keeps | apply State.swreqWrite_keeps | apply keeps_snd_ite | dsimp only | split

theorem State.flrRings_keeps (h : Keeps L s0 s) (a2 : ℕ) (lr32 : L.r32 = true := by first | assumption | rfl) (lhost : L.host = true := by first | assumption | rfl) (ldma : L.dma = true := by first | assumption | rfl) (m : within 0x30807a00000000000000000000000000 L.regs = true := by first | with_reducible assumption | (refine within_trans (by assumption) ?_; exact rfl) | rfl) : Keeps L s0 (State.flrRings s a2) := by
  unfold State.flrRings
  refine keeps_held ?_ _ _
  apply forN_keeps
  · apply forN_keeps h
    intro k s h
    split
    · exact State.fset_keeps (State.wr_keeps (State.wr_keeps (State.wr_keeps (State.wr_keeps (State.clearRing_keeps h _) _ _ _ _) _ _ _ _) _ _ _ _) _ _ _ _) _ _ _ _
    · exact h
  · intro k s h
    split
    · refine State.wr_keeps (forN_keeps ?_ fun _ _ h => State.wr_keeps h _ _ _ _) _ _ _ _
      exact State.wr_keeps (State.setDmaCh_keeps h _ _) _ _ _ _
    · exact h

theorem State.clearMsix_keeps (h : Keeps L s0 s) (a2 : ℕ) (lr32 : L.r32 = true := by first | assumption | rfl) (m : within 0x30000000000000000000000000000 L.regs = true := by first | with_reducible assumption | (refine within_trans (by assumption) ?_; exact rfl) | rfl) :
    Keeps L s0 (State.clearMsix s a2) := by
  unfold State.clearMsix
  with_reducible repeat' first | assumption | intro _ | apply keeps_ite | exact has_ok m rfl | exact within_trans m rfl | apply State.wr_keeps | apply forN_keeps | apply keeps_snd_ite | dsimp only | split

theorem State.flrDone_keeps (h : Keeps L s0 s) (a2 : ℕ) (lr32 : L.r32 = true := by first | assumption | rfl) (lr64 : L.r64 = true := by first | assumption | rfl) (m : within 0x380000000000000000000000 L.regs = true := by first | with_reducible assumption | (refine within_trans (by assumption) ?_; exact rfl) | rfl) :
    Keeps L s0 (State.flrDone s a2) := by
  unfold State.flrDone
  with_reducible repeat' first | assumption | intro _ | apply keeps_ite | exact has_ok m rfl | exact within_trans m rfl | apply State.wr_keeps | apply State.wrw_keeps | apply keeps_snd_ite | dsimp only | split

theorem execFlrComplete_keeps (h : Keeps L s0 s) (a1 : ℕ) (lr32 : L.r32 = true := by first | assumption | rfl) (lr64 : L.r64 = true := by first | assumption | rfl) (m : within 0x380000000000000000000000 L.regs = true := by first | with_reducible assumption | (refine within_trans (by assumption) ?_; exact rfl) | rfl) :
    ∃ t, execFlrComplete a1 s = .next t ∧ Keeps L s0 t := by
  unfold execFlrComplete
  refine ⟨_, rfl, ?_⟩
  with_reducible repeat' first | assumption | intro _ | apply keeps_ite | exact has_ok m rfl | exact within_trans m rfl | apply State.flrDone_keeps | apply keeps_snd_ite | dsimp only | split

end Sys2Proof.Machine
end

