-- ==== Sys2Proof/Laws/KeepsPcs.lean ====
section
/-!
SUPPORT. What each operation and each command of `Machine/Pcs.lean` (the lanes and their streams) leaves alone, in the terms of `Laws/Keeps.lean`.
-/

set_option Elab.async false

set_option linter.unusedTactic false
set_option linter.unreachableTactic false
set_option linter.unusedVariables false
namespace Sys2Proof.Machine

variable {L : Touch} {s0 s : State}

theorem State.setLane_keeps (h : Keeps L s0 s) (a2 : ℕ) (a3 : LaneSt) (llink : L.link = true := by first | assumption | rfl) :
    Keeps L s0 (State.setLane s a2 a3) := by
  unfold State.setLane
  with_reducible repeat' first | assumption | intro _ | apply keeps_ite | apply keeps_snd_ite | dsimp only | split | exact Or.inl (by assumption) | exact Or.inr rfl | refine keeps_mk ?_ rfl rfl ?_ ?_ ?_ ?_ ?_ ?_ ?_ ?_ ?_ ?_ ?_ ?_ ?_ ?_

theorem State.setPort_keeps (h : Keeps L s0 s) (a2 : ℕ) (a3 : PortSt) (llink : L.link = true := by first | assumption | rfl) :
    Keeps L s0 (State.setPort s a2 a3) := by
  unfold State.setPort
  with_reducible repeat' first | assumption | intro _ | apply keeps_ite | apply keeps_snd_ite | dsimp only | split | exact Or.inl (by assumption) | exact Or.inr rfl | refine keeps_mk ?_ rfl rfl ?_ ?_ ?_ ?_ ?_ ?_ ?_ ?_ ?_ ?_ ?_ ?_ ?_ ?_

theorem State.sendBlks_keeps (h : Keeps L s0 s) (a2 : ℕ) (a3 : List Blk) (llink : L.link = true := by first | assumption | rfl) :
    Keeps L s0 (State.sendBlks s a2 a3) := by
  unfold State.sendBlks
  with_reducible repeat' first | assumption | intro _ | apply keeps_ite | apply keeps_snd_ite | dsimp only | split | exact Or.inl (by assumption) | exact Or.inr rfl | refine keeps_mk ?_ rfl rfl ?_ ?_ ?_ ?_ ?_ ?_ ?_ ?_ ?_ ?_ ?_ ?_ ?_ ?_

theorem State.frameOut_keeps (h : Keeps L s0 s) (a2 : ℕ) (a3 : ℕ) (a4 : List Byte) (llink : L.link = true := by first | assumption | rfl) :
    Keeps L s0 (State.frameOut s a2 a3 a4) := by
  unfold State.frameOut
  with_reducible repeat' first | assumption | intro _ | apply keeps_ite | apply State.sendBlks_keeps | apply State.setPort_keeps | apply keeps_snd_ite | dsimp only | split

theorem State.streamStart_keeps (h : Keeps L s0 s) (a2 : ℕ) (a3 : List ℕ) (lfree : L.free = true := by first | assumption | rfl) (llink : L.link = true := by first | assumption | rfl) :
    Keeps L s0 (State.streamStart s a2 a3) := by
  unfold State.streamStart
  with_reducible repeat' first | assumption | intro _ | apply keeps_ite | apply State.draw_keeps | apply State.setPort_keeps | apply State.each_keeps | apply State.setLane_keeps | apply keeps_snd_ite | (refine keeps_of_eq (by assumption) ?_) | dsimp only | split

theorem State.wakeBurst_keeps (h : Keeps L s0 s) (a2 : List ℕ) (lfree : L.free = true := by first | assumption | rfl) (llink : L.link = true := by first | assumption | rfl) :
    Keeps L s0 (State.wakeBurst s a2) := by
  unfold State.wakeBurst
  with_reducible repeat' first | assumption | intro _ | apply keeps_ite | apply State.draw_keeps | apply State.each_keeps | apply State.setLane_keeps | apply keeps_snd_ite | (refine keeps_of_eq (by assumption) ?_) | dsimp only | split

theorem State.countCw_keeps (h : Keeps L s0 s) (a2 : ℕ) (a3 : ℕ) (a4 : Option ℕ) (lr64 : L.r64 = true := by first | assumption | rfl) (llink : L.link = true := by first | assumption | rfl) (m : within 0x7000000000000000000000000000000000000000000000000000000000000000000000 L.regs = true := by first | with_reducible assumption | (refine within_trans (by assumption) ?_; exact rfl) | rfl) :
    Keeps L s0 (State.countCw s a2 a3 a4) := by
  unfold State.countCw
  with_reducible repeat' first | assumption | intro _ | apply keeps_ite | exact has_ok m rfl | exact within_trans m rfl | apply State.bump_keeps | apply State.setLane_keeps | apply keeps_snd_ite | dsimp only | split

theorem State.fecReceive_keeps (h : Keeps L s0 s) (a2 : ℕ) (a3 : List FecUnit) (lr64 : L.r64 = true := by first | assumption | rfl) (llink : L.link = true := by first | assumption | rfl) (m : within 0x7000000000000000000000000000000000000000000000000000000000000000000000 L.regs = true := by first | with_reducible assumption | (refine within_trans (by assumption) ?_; exact rfl) | rfl) :
    Keeps L s0 (State.fecReceive s a2 a3) := by
  unfold State.fecReceive
  with_reducible repeat' first | assumption | intro _ | apply keeps_ite | exact has_ok m rfl | exact within_trans m rfl | apply State.each_keeps | apply State.countCw_keeps | apply keeps_snd_ite | dsimp only | split

theorem State.genStart_keeps (h : Keeps L s0 s) (a2 : ℕ) (lfree : L.free = true := by first | assumption | rfl) (llink : L.link = true := by first | assumption | rfl) :
    Keeps L s0 (State.genStart s a2) := by
  unfold State.genStart
  with_reducible repeat' first | assumption | intro _ | apply keeps_ite | apply State.setLane_keeps | apply State.draw_keeps | apply keeps_snd_ite | (refine keeps_of_eq (by assumption) ?_) | dsimp only | split

theorem State.checkBit_keeps (h : Keeps L s0 s) (a2 : ℕ) (a3 : Bool) (lr32 : L.r32 = true := by first | assumption | rfl) (lr64 : L.r64 = true := by first | assumption | rfl) (llink : L.link = true := by first | assumption | rfl) (m : within 0xc00000000000000000000000000000000000000000000000000000000000000000000000 L.regs = true := by first | with_reducible assumption | (refine within_trans (by assumption) ?_; exact rfl) | rfl) :
    Keeps L s0 (State.checkBit s a2 a3) := by
  unfold State.checkBit
  with_reducible repeat' first | assumption | intro _ | apply keeps_ite | exact has_ok m rfl | exact within_trans m rfl | apply State.fset_keeps | apply State.setLane_keeps | apply State.wrw_keeps | apply keeps_snd_ite | dsimp only | split

theorem State.rxBits_keeps (h : Keeps L s0 s) (a2 : ℕ) (a3 : List Bool) (llink : L.link = true := by first | assumption | rfl) :
    Keeps L s0 (State.rxBits s a2 a3).2 := by
  unfold State.rxBits
  with_reducible repeat' first | assumption | intro _ | apply keeps_ite | apply State.setLane_keeps | apply keeps_snd_ite | dsimp only | split

theorem State.patternIn_keeps (h : Keeps L s0 s) (a2 : ℕ) (a3 : List Bool) (lr32 : L.r32 = true := by first | assumption | rfl) (lr64 : L.r64 = true := by first | assumption | rfl) (llink : L.link = true := by first | assumption | rfl) (m : within 0xc00000000000000000000000000000000000000000000000000000000000000000000000 L.regs = true := by first | with_reducible assumption | (refine within_trans (by assumption) ?_; exact rfl) | rfl) :
    Keeps L s0 (State.patternIn s a2 a3) := by
  unfold State.patternIn
  with_reducible repeat' first | assumption | intro _ | apply keeps_ite | exact has_ok m rfl | exact within_trans m rfl | apply State.rxBits_keeps | apply State.each_keeps | apply State.checkBit_keeps | apply keeps_snd_ite | (refine keeps_of_eq (by assumption) ?_) | dsimp only | split

end Sys2Proof.Machine
end

