-- ==== Sys2Proof/Laws/KeepsFrames.lean ====
section
/-!
SUPPORT. What each operation and each command of `Machine/Frames.lean` (frames and buffers) leaves alone, in the terms of `Laws/Keeps.lean`.
-/

set_option Elab.async false

set_option linter.unusedTactic false
set_option linter.unreachableTactic false
set_option linter.unusedVariables false
namespace Sys2Proof.Machine

variable {L : Touch} {s0 s : State}

/-- What a choice between nothing and `x` gives when it gives something is what `x` gives. -/
theorem of_ite_none {α : Type} {c : Prop} [Decidable c] {x : Option α} {y : α} (e : (if c then none else x) = some y) : x = some y := by
  split at e
  · cases e
  · exact e


theorem State.setBuf_keeps (h : Keeps L s0 s) (a2 : ℕ) (a3 : BufSt) (ltm : L.tm = true := by first | assumption | rfl) :
    Keeps L s0 (State.setBuf s a2 a3) := by
  unfold State.setBuf
  with_reducible repeat' first | assumption | intro _ | apply keeps_ite | apply keeps_snd_ite | dsimp only | split | exact Or.inl (by assumption) | exact Or.inr rfl | refine keeps_mk ?_ rfl rfl ?_ ?_ ?_ ?_ ?_ ?_ ?_ ?_ ?_ ?_ ?_ ?_ ?_ ?_

theorem State.setNp_keeps (h : Keeps L s0 s) (a2 : ℕ) (a3 : NPort) (ltm : L.tm = true := by first | assumption | rfl) :
    Keeps L s0 (State.setNp s a2 a3) := by
  unfold State.setNp
  with_reducible repeat' first | assumption | intro _ | apply keeps_ite | apply keeps_snd_ite | dsimp only | split | exact Or.inl (by assumption) | exact Or.inr rfl | refine keeps_mk ?_ rfl rfl ?_ ?_ ?_ ?_ ?_ ?_ ?_ ?_ ?_ ?_ ?_ ?_ ?_ ?_

theorem State.setFrame_keeps (h : Keeps L s0 s) (a2 : ℕ) (a3 : ℕ) (a4 : Frame) (ltm : L.tm = true := by first | assumption | rfl) :
    Keeps L s0 (State.setFrame s a2 a3 a4) := by
  unfold State.setFrame
  with_reducible repeat' first | assumption | intro _ | apply keeps_ite | apply State.setBuf_keeps | apply keeps_snd_ite | dsimp only | split

theorem State.setVoq_keeps (h : Keeps L s0 s) (a2 : ℕ) (a3 : ℕ) (a4 : Voq) (ltm : L.tm = true := by first | assumption | rfl) :
    Keeps L s0 (State.setVoq s a2 a3 a4) := by
  unfold State.setVoq
  with_reducible repeat' first | assumption | intro _ | apply keeps_ite | apply State.setBuf_keeps | apply keeps_snd_ite | dsimp only | split

theorem State.setNc_keeps (h : Keeps L s0 s) (a2 : ℕ) (a3 : ℕ) (a4 : NClass) (ltm : L.tm = true := by first | assumption | rfl) :
    Keeps L s0 (State.setNc s a2 a3 a4) := by
  unfold State.setNc
  with_reducible repeat' first | assumption | intro _ | apply keeps_ite | apply State.setNp_keeps | apply keeps_snd_ite | dsimp only | split

theorem State.setAnvUsed_keeps (h : Keeps L s0 s) (a2 : ℕ) (a3 : ℕ) (a4 : ℕ) (a5 : ℕ) (ltm : L.tm = true := by first | assumption | rfl) :
    Keeps L s0 (State.setAnvUsed s a2 a3 a4 a5) := by
  unfold State.setAnvUsed
  with_reducible repeat' first | assumption | intro _ | apply keeps_ite | apply State.setBuf_keeps | apply keeps_snd_ite | dsimp only | split

theorem State.takeCell_keeps (h : Keeps L s0 s) (a2 : ℕ) (lr32 : L.r32 = true := by first | assumption | rfl) (lr64 : L.r64 = true := by first | assumption | rfl) (lsquall : L.squall = true := by first | assumption | rfl) (ltm : L.tm = true := by first | assumption | rfl) (m : within 0x80000000000000000000000000000000000000000000001082000 L.regs = true := by first | with_reducible assumption | (refine within_trans (by assumption) ?_; exact rfl) | rfl) :
    Keeps L s0 (State.takeCell s a2).2 := by
  unfold State.takeCell
  with_reducible repeat' first | assumption | intro _ | apply keeps_ite | exact has_ok m rfl | exact within_trans m rfl | apply State.each_keeps | apply State.report_keeps | apply State.fset_keeps | apply State.setBuf_keeps | apply keeps_snd_ite | dsimp only | split

theorem State.freeCellList_keeps (h : Keeps L s0 s) (a2 : ℕ) (a3 : List ℕ) (lr32 : L.r32 = true := by first | assumption | rfl) (lr64 : L.r64 = true := by first | assumption | rfl) (lsquall : L.squall = true := by first | assumption | rfl) (ltm : L.tm = true := by first | assumption | rfl) (m : within 0x100080000000000000000000000000000000000000000000001082000 L.regs = true := by first | with_reducible assumption | (refine within_trans (by assumption) ?_; exact rfl) | rfl) :
    Keeps L s0 (State.freeCellList s a2 a3) := by
  unfold State.freeCellList
  with_reducible repeat' first | assumption | intro _ | apply keeps_ite | exact has_ok m rfl | exact within_trans m rfl | apply State.each_keeps | apply State.bump_keeps | apply State.report_keeps | apply State.setBuf_keeps | apply State.fset_keeps | apply keeps_snd_ite | dsimp only | split

theorem State.uncharge_keeps (h : Keeps L s0 s) (a2 : ℕ) (a3 : ℕ) (a4 : ℕ) (lr32 : L.r32 = true := by first | assumption | rfl) (m : within 0x180000000000000000000000000000000000000000000000000000000000 L.regs = true := by first | with_reducible assumption | (refine within_trans (by assumption) ?_; exact rfl) | rfl) :
    Keeps L s0 (State.uncharge s a2 a3 a4) := by
  unfold State.uncharge
  with_reducible repeat' first | assumption | intro _ | apply keeps_ite | exact has_ok m rfl | exact within_trans m rfl | apply State.fset_keeps | apply keeps_snd_ite | dsimp only | split

theorem State.queueCtl_keeps (h : Keeps L s0 s) (a2 : ℕ) (a3 : List Byte) (ltm : L.tm = true := by first | assumption | rfl) :
    Keeps L s0 (State.queueCtl s a2 a3) := by
  unfold State.queueCtl
  with_reducible repeat' first | assumption | intro _ | apply keeps_ite | apply State.setNp_keeps | apply keeps_snd_ite | dsimp only | split

theorem State.pauseChange_keeps (h : Keeps L s0 s) (a2 : ℕ) (a3 : List ℕ) (ltm : L.tm = true := by first | assumption | rfl) :
    Keeps L s0 (State.pauseChange s a2 a3) := by
  unfold State.pauseChange
  with_reducible repeat' first | assumption | intro _ | apply keeps_ite | apply State.queueCtl_keeps | apply keeps_snd_ite | dsimp only | split

theorem State.pauseAgain_keeps (h : Keeps L s0 s) (a2 : ℕ) (ltm : L.tm = true := by first | assumption | rfl) :
    Keeps L s0 (State.pauseAgain s a2) := by
  unfold State.pauseAgain
  with_reducible repeat' first | assumption | intro _ | apply keeps_ite | apply State.queueCtl_keeps | apply keeps_snd_ite | dsimp only | split

theorem State.setXoff_keeps (h : Keeps L s0 s) (a2 : ℕ) (a3 : ℕ) (a4 : ℕ) (a5 : Bool) (lr32 : L.r32 = true := by first | assumption | rfl) (m : within 0x400000000000000000000000000000000000000000000000000000000000 L.regs = true := by first | with_reducible assumption | (refine within_trans (by assumption) ?_; exact rfl) | rfl) :
    Keeps L s0 (State.setXoff s a2 a3 a4 a5) := by
  unfold State.setXoff
  with_reducible repeat' first | assumption | intro _ | apply keeps_ite | exact has_ok m rfl | exact within_trans m rfl | apply State.fset_keeps | apply keeps_snd_ite | dsimp only | split

theorem State.pgScan_keeps (h : Keeps L s0 s) (a2 : ℕ) (lr32 : L.r32 = true := by first | assumption | rfl) (ltm : L.tm = true := by first | assumption | rfl) (m : within 0x400000000000000000000000000000000000000000000000000000000000 L.regs = true := by first | with_reducible assumption | (refine within_trans (by assumption) ?_; exact rfl) | rfl) :
    Keeps L s0 (State.pgScan s a2) := by
  unfold State.pgScan
  with_reducible repeat' first | assumption | intro _ | apply keeps_ite | exact has_ok m rfl | exact within_trans m rfl | apply State.each_keeps | apply State.setXoff_keeps | apply State.pauseChange_keeps | apply forN_keeps | apply keeps_snd_ite | dsimp only | split

theorem State.chargedCell_keeps (h : Keeps L s0 s) (a2 : ℕ) (a3 : ℕ) (a4 : ℕ) (a5 : ℕ) (a6 : Bool) (lr32 : L.r32 = true := by first | assumption | rfl) (lr64 : L.r64 = true := by first | assumption | rfl) (lsquall : L.squall = true := by first | assumption | rfl) (ltm : L.tm = true := by first | assumption | rfl) (m : within 0x180000080000000000000000000000000000000000000000000001082000 L.regs = true := by first | with_reducible assumption | (refine within_trans (by assumption) ?_; exact rfl) | rfl) :
    Keeps L s0 (State.chargedCell s a2 a3 a4 a5 a6).2 := by
  unfold State.chargedCell
  with_reducible repeat' first | assumption | intro _ | apply keeps_ite | exact has_ok m rfl | exact within_trans m rfl | apply State.takeCell_keeps | apply State.fset_keeps | apply keeps_snd_ite | (refine keeps_of_eq (by assumption) ?_) | dsimp only | split

theorem State.admitCell_keeps (h : Keeps L s0 s) (a2 : ℕ) (a3 : ℕ) (a4 : ℕ) (lr32 : L.r32 = true := by first | assumption | rfl) (lr64 : L.r64 = true := by first | assumption | rfl) (lsquall : L.squall = true := by first | assumption | rfl) (ltm : L.tm = true := by first | assumption | rfl) (m : within 0x580000080000000000000000000000000000000000000000000001082000 L.regs = true := by first | with_reducible assumption | (refine within_trans (by assumption) ?_; exact rfl) | rfl) :
    Keeps L s0 (State.admitCell s a2 a3 a4).2 := by
  unfold State.admitCell
  with_reducible repeat' first | assumption | intro _ | apply keeps_ite | exact has_ok m rfl | exact within_trans m rfl | apply State.chargedCell_keeps | apply State.pauseChange_keeps | apply State.setXoff_keeps | apply keeps_snd_ite | (refine keeps_of_eq (by assumption) ?_) | dsimp only | split

theorem State.freeFrameCells_keeps (h : Keeps L s0 s) (a2 : ℕ) (a3 : ℕ) (lr32 : L.r32 = true := by first | assumption | rfl) (lr64 : L.r64 = true := by first | assumption | rfl) (lsquall : L.squall = true := by first | assumption | rfl) (ltm : L.tm = true := by first | assumption | rfl) (m : within 0x580100080000000000000000000000000000000000000000000001082000 L.regs = true := by first | with_reducible assumption | (refine within_trans (by assumption) ?_; exact rfl) | rfl) :
    Keeps L s0 (State.freeFrameCells s a2 a3) := by
  unfold State.freeFrameCells
  with_reducible repeat' first | assumption | intro _ | apply keeps_ite | exact has_ok m rfl | exact within_trans m rfl | apply State.setFrame_keeps | apply State.freeCellList_keeps | apply State.setBuf_keeps | apply State.uncharge_keeps | apply State.pgScan_keeps | apply keeps_snd_ite | dsimp only | split

theorem State.forget_keeps (h : Keeps L s0 s) (a2 : ℕ) (a3 : ℕ) (ltm : L.tm = true := by first | assumption | rfl) :
    Keeps L s0 (State.forget s a2 a3) := by
  unfold State.forget
  with_reducible repeat' first | assumption | intro _ | apply keeps_ite | apply State.setBuf_keeps | apply keeps_snd_ite | dsimp only | split

theorem State.sweep_keeps (h : Keeps L s0 s) (a2 : ℕ) (a3 : ℕ) (ltm : L.tm = true := by first | assumption | rfl) :
    Keeps L s0 (State.sweep s a2 a3) := by
  unfold State.sweep
  with_reducible repeat' first | assumption | intro _ | apply keeps_ite | apply State.forget_keeps | apply keeps_snd_ite | dsimp only | split

theorem State.endRef_keeps (h : Keeps L s0 s) (a2 : ℕ) (a3 : ℕ) (lr32 : L.r32 = true := by first | assumption | rfl) (lr64 : L.r64 = true := by first | assumption | rfl) (lsquall : L.squall = true := by first | assumption | rfl) (ltm : L.tm = true := by first | assumption | rfl) (m : within 0x580100080000000000000000000000000000000000000000000001082000 L.regs = true := by first | with_reducible assumption | (refine within_trans (by assumption) ?_; exact rfl) | rfl) :
    Keeps L s0 (State.endRef s a2 a3) := by
  unfold State.endRef
  with_reducible repeat' first | assumption | intro _ | apply keeps_ite | exact has_ok m rfl | exact within_trans m rfl | apply State.setFrame_keeps | apply State.sweep_keeps | apply State.freeFrameCells_keeps | apply keeps_snd_ite | dsimp only | split

theorem State.txDrop_keeps (h : Keeps L s0 s) (a2 : ℕ) (a3 : FMeta) (lr32 : L.r32 = true := by first | assumption | rfl) (lr64 : L.r64 = true := by first | assumption | rfl) (lfree : L.free = true := by first | assumption | rfl) (lmem : L.mem = true := by first | assumption | rfl) (lhost : L.host = true := by first | assumption | rfl) (lsquall : L.squall = true := by first | assumption | rfl) (m : within 0x822801b80000000000000001082000 L.regs = true := by first | with_reducible assumption | (refine within_trans (by assumption) ?_; exact rfl) | rfl) :
    Keeps L s0 (State.txDrop s a2 a3) := by
  unfold State.txDrop
  with_reducible repeat' first | assumption | intro _ | apply keeps_ite | exact has_ok m rfl | exact within_trans m rfl | apply State.complete_keeps | apply State.draw_keeps | apply keeps_snd_ite | (refine keeps_of_eq (by assumption) ?_) | dsimp only | split

theorem State.discard_keeps (h : Keeps L s0 s) (a2 : ℕ) (a3 : ℕ) (a4 : FMeta) (lr32 : L.r32 = true := by first | assumption | rfl) (lr64 : L.r64 = true := by first | assumption | rfl) (lfree : L.free = true := by first | assumption | rfl) (lmem : L.mem = true := by first | assumption | rfl) (lhost : L.host = true := by first | assumption | rfl) (lsquall : L.squall = true := by first | assumption | rfl) (m : within 0x1400000000000001000000030000000000000000000000000822801b80000000000000001082000 L.regs = true := by first | with_reducible assumption | (refine within_trans (by assumption) ?_; exact rfl) | rfl) :
    Keeps L s0 (State.discard s a2 a3 a4) := by
  unfold State.discard
  with_reducible repeat' first | assumption | intro _ | apply keeps_ite | exact has_ok m rfl | exact within_trans m rfl | apply State.txDrop_keeps | apply State.dropCount_keeps | apply keeps_snd_ite | dsimp only | split

theorem State.discardAt_keeps (h : Keeps L s0 s) (a2 : ℕ) (a3 : ℕ) (a4 : FMeta) (lr32 : L.r32 = true := by first | assumption | rfl) (lr64 : L.r64 = true := by first | assumption | rfl) (lfree : L.free = true := by first | assumption | rfl) (lmem : L.mem = true := by first | assumption | rfl) (lhost : L.host = true := by first | assumption | rfl) (lsquall : L.squall = true := by first | assumption | rfl) (m : within 0x1400000000000001000000030000000000000000000000000822801b80000000000000001082000 L.regs = true := by first | with_reducible assumption | (refine within_trans (by assumption) ?_; exact rfl) | rfl) :
    Keeps L s0 (State.discardAt s a2 a3 a4) := by
  unfold State.discardAt
  with_reducible repeat' first | assumption | intro _ | apply keeps_ite | exact has_ok m rfl | exact within_trans m rfl | apply State.txDrop_keeps | apply State.dropCount_keeps | apply keeps_snd_ite | dsimp only | split

theorem State.excForget_keeps (h : Keeps L s0 s) (a2 : ℕ) (a3 : ℕ) (lcirrus : L.cirrus = true := by first | assumption | rfl) :
    Keeps L s0 (State.excForget s a2 a3) := by
  unfold State.excForget
  with_reducible repeat' first | assumption | intro _ | apply keeps_ite | apply keeps_snd_ite | dsimp only | split | exact Or.inl (by assumption) | exact Or.inr rfl | refine keeps_mk ?_ rfl rfl ?_ ?_ ?_ ?_ ?_ ?_ ?_ ?_ ?_ ?_ ?_ ?_ ?_ ?_

theorem State.killFrame_keeps (h : Keeps L s0 s) (a2 : ℕ) (a3 : ℕ) (a4 : ℕ) (lr32 : L.r32 = true := by first | assumption | rfl) (lr64 : L.r64 = true := by first | assumption | rfl) (lfree : L.free = true := by first | assumption | rfl) (lmem : L.mem = true := by first | assumption | rfl) (lhost : L.host = true := by first | assumption | rfl) (lsquall : L.squall = true := by first | assumption | rfl) (ltm : L.tm = true := by first | assumption | rfl) (lcirrus : L.cirrus = true := by first | assumption | rfl) (m : within 0x1400000000000001000580130080000000000000000000000822801b80000000000000001082000 L.regs = true := by first | with_reducible assumption | (refine within_trans (by assumption) ?_; exact rfl) | rfl) :
    Keeps L s0 (State.killFrame s a2 a3 a4) := by
  unfold State.killFrame
  with_reducible repeat' first | assumption | intro _ | apply keeps_ite | exact has_ok m rfl | exact within_trans m rfl | apply State.excForget_keeps | apply State.discard_keeps | apply State.each_keeps | apply State.setVoq_keeps | apply State.setFrame_keeps | apply State.sweep_keeps | apply State.freeFrameCells_keeps | apply keeps_snd_ite | dsimp only | split

theorem State.voqNorm_keeps (h : Keeps L s0 s) (a2 : ℕ) (a3 : ℕ) (ltm : L.tm = true := by first | assumption | rfl) :
    Keeps L s0 (State.voqNorm s a2 a3) := by
  unfold State.voqNorm
  with_reducible repeat' first | assumption | intro _ | apply keeps_ite | apply State.setVoq_keeps | apply keeps_snd_ite | dsimp only | split

theorem State.normTile_keeps (h : Keeps L s0 s) (a2 : ℕ) (ltm : L.tm = true := by first | assumption | rfl) :
    Keeps L s0 (State.normTile s a2) := by
  unfold State.normTile
  with_reducible repeat' first | assumption | intro _ | apply keeps_ite | apply State.each_keeps | apply State.voqNorm_keeps | apply keeps_snd_ite | dsimp only | split

theorem State.normAll_keeps (h : Keeps L s0 s) (ltm : L.tm = true := by first | assumption | rfl) :
    Keeps L s0 (State.normAll s) := by
  unfold State.normAll
  with_reducible repeat' first | assumption | intro _ | apply keeps_ite | apply State.each_keeps | apply State.normTile_keeps | apply keeps_snd_ite | dsimp only | split

theorem State.headGrew_keeps (h : Keeps L s0 s) (a2 : ℕ) (a3 : ℕ) (ltm : L.tm = true := by first | assumption | rfl) :
    Keeps L s0 (State.headGrew s a2 a3) := by
  unfold State.headGrew
  with_reducible repeat' first | assumption | intro _ | apply keeps_ite | apply State.each_keeps | apply State.voqNorm_keeps | apply keeps_snd_ite | dsimp only | split

theorem State.stomp_keeps (h : Keeps L s0 s) (a2 : ℕ) (a3 : ℕ) (a4 : ℕ) (lr64 : L.r64 = true := by first | assumption | rfl) (ltm : L.tm = true := by first | assumption | rfl) (m : within 0x40000000000000000000000000000000000000000000000000000000 L.regs = true := by first | with_reducible assumption | (refine within_trans (by assumption) ?_; exact rfl) | rfl) :
    Keeps L s0 (State.stomp s a2 a3 a4) := by
  unfold State.stomp
  with_reducible repeat' first | assumption | intro _ | apply keeps_ite | exact has_ok m rfl | exact within_trans m rfl | apply State.bump_keeps | apply State.setFrame_keeps | apply keeps_snd_ite | dsimp only | split

theorem State.setRx_keeps (h : Keeps L s0 s) (a2 : ℕ) (a3 : ℕ) (a4 : ℕ) (ltm : L.tm = true := by first | assumption | rfl) :
    Keeps L s0 (State.setRx s a2 a3 a4) := by
  unfold State.setRx
  with_reducible repeat' first | assumption | intro _ | apply keeps_ite | apply State.setBuf_keeps | apply keeps_snd_ite | dsimp only | split

theorem State.rxBytes_keeps (h : Keeps L s0 s) (a2 : ℕ) (a3 : ℕ) (a4 : List Byte) (lr32 : L.r32 = true := by first | assumption | rfl) (lr64 : L.r64 = true := by first | assumption | rfl) (lfree : L.free = true := by first | assumption | rfl) (lmem : L.mem = true := by first | assumption | rfl) (lhost : L.host = true := by first | assumption | rfl) (lsquall : L.squall = true := by first | assumption | rfl) (ltm : L.tm = true := by first | assumption | rfl) (lcirrus : L.cirrus = true := by first | assumption | rfl) (m : within 0x1400000000000001000580170080000000000000000000000822801b80000000000000001082000 L.regs = true := by first | with_reducible assumption | (refine within_trans (by assumption) ?_; exact rfl) | rfl) :
    Keeps L s0 (State.rxBytes s a2 a3 a4) := by
  unfold State.rxBytes
  with_reducible repeat' first | assumption | intro _ | apply keeps_ite | exact has_ok m rfl | exact within_trans m rfl | apply State.setFrame_keeps | apply State.admitCell_keeps | apply State.pgScan_keeps | apply State.when_keeps | apply State.headGrew_keeps | apply State.stomp_keeps | apply State.killFrame_keeps | apply keeps_snd_ite | (refine keeps_of_eq (by assumption) ?_) | dsimp only | split

theorem State.setRxCtl_keeps (h : Keeps L s0 s) (a2 : ℕ) (a3 : List Byte) (ltm : L.tm = true := by first | assumption | rfl) :
    Keeps L s0 (State.setRxCtl s a2 a3) := by
  unfold State.setRxCtl
  with_reducible repeat' first | assumption | intro _ | apply keeps_ite | apply State.setBuf_keeps | apply keeps_snd_ite | dsimp only | split

theorem State.rxBeat_keeps (h : Keeps L s0 s) (a2 : ℕ) (a3 : List Byte) (lr32 : L.r32 = true := by first | assumption | rfl) (lr64 : L.r64 = true := by first | assumption | rfl) (lfree : L.free = true := by first | assumption | rfl) (lmem : L.mem = true := by first | assumption | rfl) (lhost : L.host = true := by first | assumption | rfl) (lsquall : L.squall = true := by first | assumption | rfl) (ltm : L.tm = true := by first | assumption | rfl) (lcirrus : L.cirrus = true := by first | assumption | rfl) (m : within 0x1400000000000001000580170080000000000000000000000822801b80000000000000001082000 L.regs = true := by first | with_reducible assumption | (refine within_trans (by assumption) ?_; exact rfl) | rfl) :
    Keeps L s0 (State.rxBeat s a2 a3) := by
  unfold State.rxBeat
  with_reducible repeat' first | assumption | intro _ | apply keeps_ite | exact has_ok m rfl | exact within_trans m rfl | apply State.rxBytes_keeps | apply State.setRxCtl_keeps | apply State.setFrame_keeps | apply State.setBuf_keeps | apply keeps_snd_ite | dsimp only | split

theorem execBeatArrival_keeps (h : Keeps L s0 s) (a1 : ℕ) (a2 : List Byte) (lr32 : L.r32 = true := by first | assumption | rfl) (lr64 : L.r64 = true := by first | assumption | rfl) (lfree : L.free = true := by first | assumption | rfl) (lmem : L.mem = true := by first | assumption | rfl) (lhost : L.host = true := by first | assumption | rfl) (lsquall : L.squall = true := by first | assumption | rfl) (ltm : L.tm = true := by first | assumption | rfl) (lcirrus : L.cirrus = true := by first | assumption | rfl) (m : within 0x1400000000000001000580170080000000000000000000000822801b80000000000000001082000 L.regs = true := by first | with_reducible assumption | (refine within_trans (by assumption) ?_; exact rfl) | rfl) :
    ∃ t, execBeatArrival a1 a2 s = .next t ∧ Keeps L s0 t := by
  unfold execBeatArrival
  refine ⟨_, rfl, ?_⟩
  with_reducible repeat' first | assumption | intro _ | apply keeps_ite | exact has_ok m rfl | exact within_trans m rfl | apply State.rxBeat_keeps | apply keeps_snd_ite | dsimp only | split

theorem State.rxVerdict_keeps (h : Keeps L s0 s) (a2 : ℕ) (a3 : ℕ) (a4 : Bool) (lr32 : L.r32 = true := by first | assumption | rfl) (lr64 : L.r64 = true := by first | assumption | rfl) (lfree : L.free = true := by first | assumption | rfl) (lmem : L.mem = true := by first | assumption | rfl) (lhost : L.host = true := by first | assumption | rfl) (lsquall : L.squall = true := by first | assumption | rfl) (ltm : L.tm = true := by first | assumption | rfl) (lcirrus : L.cirrus = true := by first | assumption | rfl) (m : within 0x1400000000000001000580170080000000000000000000000822801b80000000000000001082000 L.regs = true := by first | with_reducible assumption | (refine within_trans (by assumption) ?_; exact rfl) | rfl) :
    Keeps L s0 (State.rxVerdict s a2 a3 a4) := by
  unfold State.rxVerdict
  with_reducible repeat' first | assumption | intro _ | apply keeps_ite | exact has_ok m rfl | exact within_trans m rfl | apply State.setFrame_keeps | apply State.perf_keeps | apply State.sweep_keeps | apply State.stomp_keeps | apply State.killFrame_keeps | apply keeps_snd_ite | dsimp only | split

theorem State.ingressLinkLost_keeps (h : Keeps L s0 s) (a2 : ℕ) (lr32 : L.r32 = true := by first | assumption | rfl) (lr64 : L.r64 = true := by first | assumption | rfl) (lfree : L.free = true := by first | assumption | rfl) (lmem : L.mem = true := by first | assumption | rfl) (lhost : L.host = true := by first | assumption | rfl) (lsquall : L.squall = true := by first | assumption | rfl) (ltm : L.tm = true := by first | assumption | rfl) (lcirrus : L.cirrus = true := by first | assumption | rfl) (m : within 0x1400000000000001000580170080000000000000000000000822801b80000000000000001082000 L.regs = true := by first | with_reducible assumption | (refine within_trans (by assumption) ?_; exact rfl) | rfl) :
    Keeps L s0 (State.ingressLinkLost s a2) := by
  unfold State.ingressLinkLost
  with_reducible repeat' first | assumption | intro _ | apply keeps_ite | exact has_ok m rfl | exact within_trans m rfl | apply State.rxVerdict_keeps | apply State.setRx_keeps | apply State.setRxCtl_keeps | apply keeps_snd_ite | dsimp only | split

theorem State.enqueue_keeps (h : Keeps L s0 s) (a2 : ℕ) (a3 : ℕ) (a4 : Ref) (ltm : L.tm = true := by first | assumption | rfl) :
    Keeps L s0 (State.enqueue s a2 a3 a4) := by
  unfold State.enqueue
  with_reducible repeat' first | assumption | intro _ | apply keeps_ite | apply State.voqNorm_keeps | apply State.setVoq_keeps | apply keeps_snd_ite | dsimp only | split

theorem State.setGroup_keeps (h : Keeps L s0 s) (a2 : ℕ) (a3 : AnvGroup) (ltm : L.tm = true := by first | assumption | rfl) :
    Keeps L s0 (State.setGroup s a2 a3) := by
  unfold State.setGroup
  with_reducible repeat' first | assumption | intro _ | apply keeps_ite | apply keeps_snd_ite | dsimp only | split | exact Or.inl (by assumption) | exact Or.inr rfl | refine keeps_mk ?_ rfl rfl ?_ ?_ ?_ ?_ ?_ ?_ ?_ ?_ ?_ ?_ ?_ ?_ ?_ ?_

theorem State.freePages_keeps (h : Keeps L s0 s) (a2 : List ℕ) (lr32 : L.r32 = true := by first | assumption | rfl) (lr64 : L.r64 = true := by first | assumption | rfl) (lsquall : L.squall = true := by first | assumption | rfl) (ltm : L.tm = true := by first | assumption | rfl) (m : within 0x102000000000000000000000000000000000000000000000000000000000000000000001082000 L.regs = true := by first | with_reducible assumption | (refine within_trans (by assumption) ?_; exact rfl) | rfl) :
    Keeps L s0 (State.freePages s a2) := by
  unfold State.freePages
  with_reducible repeat' first | assumption | intro _ | apply keeps_ite | exact has_ok m rfl | exact within_trans m rfl | apply State.each_keeps | apply State.report_keeps | apply State.bump_keeps | apply State.fset_keeps | apply State.setGroup_keeps | apply keeps_snd_ite | dsimp only | split

theorem State.dropRefs_keeps (h : Keeps L s0 s) (a2 : ℕ) (a3 : ℕ) (a4 : List Ref) (lr32 : L.r32 = true := by first | assumption | rfl) (lr64 : L.r64 = true := by first | assumption | rfl) (lfree : L.free = true := by first | assumption | rfl) (lmem : L.mem = true := by first | assumption | rfl) (lhost : L.host = true := by first | assumption | rfl) (lsquall : L.squall = true := by first | assumption | rfl) (ltm : L.tm = true := by first | assumption | rfl) (m : within 0x1400000000000001000580130080000000000000000000000822801b80000000000000001082000 L.regs = true := by first | with_reducible assumption | (refine within_trans (by assumption) ?_; exact rfl) | rfl) :
    Keeps L s0 (State.dropRefs s a2 a3 a4) := by
  unfold State.dropRefs
  with_reducible repeat' first | assumption | intro _ | apply keeps_ite | exact has_ok m rfl | exact within_trans m rfl | apply State.each_keeps | apply State.endRef_keeps | apply State.discard_keeps | apply keeps_snd_ite | dsimp only | split

theorem State.dropRecs_keeps (h : Keeps L s0 s) (a2 : ℕ) (a3 : ℕ) (a4 : List Rec) (lr32 : L.r32 = true := by first | assumption | rfl) (lr64 : L.r64 = true := by first | assumption | rfl) (lfree : L.free = true := by first | assumption | rfl) (lmem : L.mem = true := by first | assumption | rfl) (lhost : L.host = true := by first | assumption | rfl) (lsquall : L.squall = true := by first | assumption | rfl) (ltm : L.tm = true := by first | assumption | rfl) (m : within 0x1400000000000001000400030000000000000000000000000822801b80000000000000001082000 L.regs = true := by first | with_reducible assumption | (refine within_trans (by assumption) ?_; exact rfl) | rfl) :
    Keeps L s0 (State.dropRecs s a2 a3 a4) := by
  unfold State.dropRecs
  with_reducible repeat' first | assumption | intro _ | apply keeps_ite | exact has_ok m rfl | exact within_trans m rfl | apply State.pgScan_keeps | apply State.each_keeps | apply State.discard_keeps | apply State.setAnvUsed_keeps | apply keeps_snd_ite | dsimp only | split

theorem State.anvilOff_keeps (h : Keeps L s0 s) (lr32 : L.r32 = true := by first | assumption | rfl) (lpower : L.power = true := by first | assumption | rfl) (m : within 0x800000000000000000000000000000000000000000000000000000000000000008000000000 L.regs = true := by first | with_reducible assumption | (refine within_trans (by assumption) ?_; exact rfl) | rfl) :
    Keeps L s0 (State.anvilOff s) := by
  unfold State.anvilOff
  with_reducible repeat' first | assumption | intro _ | apply keeps_ite | exact has_ok m rfl | exact within_trans m rfl | apply State.fset_keeps | apply keeps_snd_ite | dsimp only | split | exact Or.inl (by assumption) | exact Or.inr rfl | refine keeps_mk ?_ rfl rfl ?_ ?_ ?_ ?_ ?_ ?_ ?_ ?_ ?_ ?_ ?_ ?_ ?_ ?_

theorem State.drainCheck_keeps (h : Keeps L s0 s) (lr32 : L.r32 = true := by first | assumption | rfl) (lr64 : L.r64 = true := by first | assumption | rfl) (lhost : L.host = true := by first | assumption | rfl) (lpower : L.power = true := by first | assumption | rfl) (m : within 0x800000000000000000000000000000000000000000000000001800000000000008000000000 L.regs = true := by first | with_reducible assumption | (refine within_trans (by assumption) ?_; exact rfl) | rfl) :
    Keeps L s0 (State.drainCheck s) := by
  unfold State.drainCheck
  with_reducible repeat' first | assumption | intro _ | apply keeps_ite | exact has_ok m rfl | exact within_trans m rfl | apply State.anvilOff_keeps | apply State.post_keeps | apply State.fset_keeps | apply keeps_snd_ite | dsimp only | split

theorem State.flushQueue_keeps (h : Keeps L s0 s) (a2 : ℕ) (a3 : ℕ) (a4 : ℕ) (lr32 : L.r32 = true := by first | assumption | rfl) (lr64 : L.r64 = true := by first | assumption | rfl) (lfree : L.free = true := by first | assumption | rfl) (lmem : L.mem = true := by first | assumption | rfl) (lhost : L.host = true := by first | assumption | rfl) (lpower : L.power = true := by first | assumption | rfl) (lsquall : L.squall = true := by first | assumption | rfl) (ltm : L.tm = true := by first | assumption | rfl) (m : within 0x1502800000000001000580130080000000000000000000000822801b80000000000008001082000 L.regs = true := by first | with_reducible assumption | (refine within_trans (by assumption) ?_; exact rfl) | rfl) :
    Keeps L s0 (State.flushQueue s a2 a3 a4) := by
  unfold State.flushQueue
  with_reducible repeat' first | assumption | intro _ | apply keeps_ite | exact has_ok m rfl | exact within_trans m rfl | apply State.drainCheck_keeps | apply State.freePages_keeps | apply State.dropRecs_keeps | apply State.dropRefs_keeps | apply State.setVoq_keeps | apply keeps_snd_ite | dsimp only | split

theorem State.flushVoqs_keeps (h : Keeps L s0 s) (a2 : ℕ) (a3 : ℕ) (lr32 : L.r32 = true := by first | assumption | rfl) (lr64 : L.r64 = true := by first | assumption | rfl) (lfree : L.free = true := by first | assumption | rfl) (lmem : L.mem = true := by first | assumption | rfl) (lhost : L.host = true := by first | assumption | rfl) (lpower : L.power = true := by first | assumption | rfl) (lsquall : L.squall = true := by first | assumption | rfl) (ltm : L.tm = true := by first | assumption | rfl) (m : within 0x1502800000000001000580130080000000000000000000000822801b80000000000008001082000 L.regs = true := by first | with_reducible assumption | (refine within_trans (by assumption) ?_; exact rfl) | rfl) :
    Keeps L s0 (State.flushVoqs s a2 a3) := by
  unfold State.flushVoqs
  with_reducible repeat' first | assumption | intro _ | apply keeps_ite | exact has_ok m rfl | exact within_trans m rfl | apply State.flushQueue_keeps | apply forN_keeps | apply keeps_snd_ite | dsimp only | split

theorem State.retirePage_keeps (h : Keeps L s0 s) (a2 : ℕ) (lr32 : L.r32 = true := by first | assumption | rfl) (lr64 : L.r64 = true := by first | assumption | rfl) (lhost : L.host = true := by first | assumption | rfl) (lsquall : L.squall = true := by first | assumption | rfl) (ltm : L.tm = true := by first | assumption | rfl) (m : within 0x2000000000000000000000000000000000000000000000000001800000000000004001082000 L.regs = true := by first | with_reducible assumption | (refine within_trans (by assumption) ?_; exact rfl) | rfl) :
    Keeps L s0 (State.retirePage s a2) := by
  unfold State.retirePage
  with_reducible repeat' first | assumption | intro _ | apply keeps_ite | exact has_ok m rfl | exact within_trans m rfl | apply State.when_keeps | apply State.setGroup_keeps | apply State.fset_keeps | apply State.report_keeps | apply State.post_keeps | apply keeps_snd_ite | dsimp only | split | exact Or.inl (by assumption) | exact Or.inr rfl | refine keeps_mk ?_ rfl rfl ?_ ?_ ?_ ?_ ?_ ?_ ?_ ?_ ?_ ?_ ?_ ?_ ?_ ?_

theorem State.takePage_keeps (h : Keeps L s0 s) (a2 : ℕ) {a b : ℕ} {t : State} (e : State.takePage s a2 = some (a, b, t)) (lr32 : L.r32 = true := by first | assumption | rfl) (lr64 : L.r64 = true := by first | assumption | rfl) (ltm : L.tm = true := by first | assumption | rfl) (m : within 0x22000000000000000000000000000000000000000000000000000000000000000000000000000 L.regs = true := by first | with_reducible assumption | (refine within_trans (by assumption) ?_; exact rfl) | rfl) :
    Keeps L s0 t := by
  unfold State.takePage at e
  obtain ⟨g, -, hg⟩ := List.exists_of_findSome?_eq_some e
  split at hg
  · cases hg
  · obtain ⟨x, -, hx⟩ := Option.map_eq_some_iff.1 hg
    cases hx
    refine State.bump_keeps (State.fset_keeps (keeps_mk h rfl rfl ?_ ?_ ?_ ?_ ?_ ?_ ?_ ?_ ?_ ?_ ?_ ?_ ?_ ?_) _ _ _ _) _ _ _ _ <;>
      first | exact Or.inl (by assumption) | exact Or.inr rfl

theorem State.takePages_keeps (h : Keeps L s0 s) (a2 : ℕ) (a3 : Voq) (a4 : ℕ) {a : Voq} {t : State}
    (e : State.takePages s a2 a3 a4 = some (a, t)) (lr32 : L.r32 = true := by first | assumption | rfl) (lr64 : L.r64 = true := by first | assumption | rfl) (ltm : L.tm = true := by first | assumption | rfl) (m : within 0x22000000000000000000000000000000000000000000000000000000000000000000000000000 L.regs = true := by first | with_reducible assumption | (refine within_trans (by assumption) ?_; exact rfl) | rfl) : Keeps L s0 t := by
  induction a4 generalizing s a3 with
  | zero => simp [State.takePages] at e
  | succ n ih =>
    simp only [State.takePages] at e
    split at e
    · cases e; exact h
    · split at e
      · cases e
      · next hp => exact ih (State.takePage_keeps h _ hp) _ e

theorem State.spillWaits_keeps (h : Keeps L s0 s) (a2 : ℕ) (a3 : ℕ) (lr64 : L.r64 = true := by first | assumption | rfl) (ltm : L.tm = true := by first | assumption | rfl) (m : within 0x200000000000000000000000000000000000000000000000000000000000000000000000000000 L.regs = true := by first | with_reducible assumption | (refine within_trans (by assumption) ?_; exact rfl) | rfl) :
    Keeps L s0 (State.spillWaits s a2 a3) := by
  unfold State.spillWaits
  with_reducible repeat' first | assumption | intro _ | apply keeps_ite | exact has_ok m rfl | exact within_trans m rfl | apply State.voqNorm_keeps | apply State.bump_keeps | apply State.setVoq_keeps | apply keeps_snd_ite | dsimp only | split

theorem execSpillWriteStart_keeps (h : Keeps L s0 s) (a1 : ℕ) (a2 : ℕ) (a3 : Bool) (lr32 : L.r32 = true := by first | assumption | rfl) (lr64 : L.r64 = true := by first | assumption | rfl) (ltm : L.tm = true := by first | assumption | rfl) (m : within 0x222000000000000000000000000000000000000000000000000000000000000000000000000000 L.regs = true := by first | with_reducible assumption | (refine within_trans (by assumption) ?_; exact rfl) | rfl) :
    ∃ t, execSpillWriteStart a1 a2 a3 s = .next t ∧ Keeps L s0 t := by
  unfold execSpillWriteStart
  refine ⟨_, rfl, ?_⟩
  with_reducible repeat' first | assumption | exact within_trans m rfl | apply State.spillWaits_keeps | apply State.setVoq_keeps | (refine State.takePages_keeps ?_ _ _ _ (of_ite_none (by assumption)) (m := within_trans m rfl)) | dsimp only | split


theorem execSpillWriteComplete_keeps (h : Keeps L s0 s) (a1 : ℕ) (a2 : ℕ) (a3 : ℕ) (lr32 : L.r32 = true := by first | assumption | rfl) (lr64 : L.r64 = true := by first | assumption | rfl) (lsquall : L.squall = true := by first | assumption | rfl) (ltm : L.tm = true := by first | assumption | rfl) (m : within 0x1448000000000000000580100080000000000000000000000000000000000000000000001082000 L.regs = true := by first | with_reducible assumption | (refine within_trans (by assumption) ?_; exact rfl) | rfl) :
    ∃ t, execSpillWriteComplete a1 a2 a3 s = .next t ∧ Keeps L s0 t := by
  unfold execSpillWriteComplete
  refine ⟨_, rfl, ?_⟩
  with_reducible repeat' first | assumption | intro _ | apply keeps_ite | exact has_ok m rfl | exact within_trans m rfl | apply State.setVoq_keeps | apply State.setAnvUsed_keeps | apply State.endRef_keeps | apply State.perf_keeps | apply State.bump_keeps | apply State.pgScan_keeps | apply keeps_snd_ite | dsimp only | split

theorem execRefillReadStart_keeps (h : Keeps L s0 s) (a1 : ℕ) (a2 : ℕ) (ltm : L.tm = true := by first | assumption | rfl) :
    ∃ t, execRefillReadStart a1 a2 s = .next t ∧ Keeps L s0 t := by
  unfold execRefillReadStart
  refine ⟨_, rfl, ?_⟩
  with_reducible repeat' first | assumption | intro _ | apply keeps_ite | apply State.setVoq_keeps | apply keeps_snd_ite | dsimp only | split

theorem State.settlePages_keeps (h : Keeps L s0 s) (a2 : ℕ) (a3 : ℕ) (lr32 : L.r32 = true := by first | assumption | rfl) (lr64 : L.r64 = true := by first | assumption | rfl) (lsquall : L.squall = true := by first | assumption | rfl) (ltm : L.tm = true := by first | assumption | rfl) (m : within 0x102000000000000000000000000000000000000000000000000000000000000000000001082000 L.regs = true := by first | with_reducible assumption | (refine within_trans (by assumption) ?_; exact rfl) | rfl) :
    Keeps L s0 (State.settlePages s a2 a3) := by
  unfold State.settlePages
  with_reducible repeat' first | assumption | intro _ | apply keeps_ite | exact has_ok m rfl | exact within_trans m rfl | apply State.freePages_keeps | apply State.setVoq_keeps | apply keeps_snd_ite | dsimp only | split

theorem State.loseFrom_keeps (h : Keeps L s0 s) (a2 : ℕ) (a3 : ℕ) (a4 : ℕ) (lr32 : L.r32 = true := by first | assumption | rfl) (lr64 : L.r64 = true := by first | assumption | rfl) (lfree : L.free = true := by first | assumption | rfl) (lmem : L.mem = true := by first | assumption | rfl) (lhost : L.host = true := by first | assumption | rfl) (lsquall : L.squall = true := by first | assumption | rfl) (ltm : L.tm = true := by first | assumption | rfl) (m : within 0x1502000000000001000400030000000000000000000000000822801b80000000000000001082000 L.regs = true := by first | with_reducible assumption | (refine within_trans (by assumption) ?_; exact rfl) | rfl) :
    Keeps L s0 (State.loseFrom s a2 a3 a4) := by
  unfold State.loseFrom
  with_reducible repeat' first | assumption | intro _ | apply keeps_ite | exact has_ok m rfl | exact within_trans m rfl | apply State.freePages_keeps | apply State.dropRecs_keeps | apply State.setVoq_keeps | apply State.post_keeps | apply keeps_snd_ite | dsimp only | split

theorem State.takeCells_keeps (h : Keeps L s0 s) (a2 a3 : ℕ) (lr32 : L.r32 = true := by first | assumption | rfl) (lr64 : L.r64 = true := by first | assumption | rfl) (lsquall : L.squall = true := by first | assumption | rfl) (ltm : L.tm = true := by first | assumption | rfl) (m : within 0x80000000000000000000000000000000000000000000001082000 L.regs = true := by first | with_reducible assumption | (refine within_trans (by assumption) ?_; exact rfl) | rfl) : Keeps L s0 (State.takeCells s a2 a3).2 := by
  induction a3 generalizing s with
  | zero => exact h
  | succ n ih => exact ih (State.takeCell_keeps h _)

theorem execRefillComplete_keeps (h : Keeps L s0 s) (a1 : ℕ) (a2 : ℕ) (a3 : ℕ) (a4 : ℕ) (lr32 : L.r32 = true := by first | assumption | rfl) (lr64 : L.r64 = true := by first | assumption | rfl) (lfree : L.free = true := by first | assumption | rfl) (lmem : L.mem = true := by first | assumption | rfl) (lhost : L.host = true := by first | assumption | rfl) (lpower : L.power = true := by first | assumption | rfl) (lsquall : L.squall = true := by first | assumption | rfl) (ltm : L.tm = true := by first | assumption | rfl) (m : within 0x15d2800000000001000400030080000000000000000000000822801b8000000000000c001082000 L.regs = true := by first | with_reducible assumption | (refine within_trans (by assumption) ?_; exact rfl) | rfl) :
    ∃ t, execRefillComplete a1 a2 a3 a4 s = .next t ∧ Keeps L s0 t := by
  unfold execRefillComplete
  refine ⟨_, rfl, ?_⟩
  with_reducible repeat' first | assumption | intro _ | apply keeps_ite | exact has_ok m rfl | exact within_trans m rfl | apply State.bump_keeps | apply State.setAnvUsed_keeps | apply State.takeCells_keeps | apply State.setBuf_keeps | apply State.setVoq_keeps | apply State.retirePage_keeps | apply State.report_keeps | apply State.discard_keeps | apply State.loseFrom_keeps | apply State.drainCheck_keeps | apply State.pgScan_keeps | apply State.voqNorm_keeps | apply State.settlePages_keeps | apply keeps_snd_ite | (refine keeps_of_eq (by assumption) ?_) | dsimp only | split

theorem execFreeCacheRefill_keeps (h : Keeps L s0 s) (a1 : ℕ) (ltm : L.tm = true := by first | assumption | rfl) :
    ∃ t, execFreeCacheRefill a1 s = .next t ∧ Keeps L s0 t := by
  unfold execFreeCacheRefill
  refine ⟨_, rfl, ?_⟩
  with_reducible repeat' first | assumption | intro _ | apply keeps_ite | apply State.setGroup_keeps | apply keeps_snd_ite | dsimp only | split

theorem execFreeCacheWriteback_keeps (h : Keeps L s0 s) (a1 : ℕ) (ltm : L.tm = true := by first | assumption | rfl) :
    ∃ t, execFreeCacheWriteback a1 s = .next t ∧ Keeps L s0 t := by
  unfold execFreeCacheWriteback
  refine ⟨_, rfl, ?_⟩
  with_reducible repeat' first | assumption | intro _ | apply keeps_ite | apply State.setGroup_keeps | apply keeps_snd_ite | dsimp only | split

theorem State.anvilStop_keeps (h : Keeps L s0 s) (lr32 : L.r32 = true := by first | assumption | rfl) (lr64 : L.r64 = true := by first | assumption | rfl) (lhost : L.host = true := by first | assumption | rfl) (lpower : L.power = true := by first | assumption | rfl) (ltm : L.tm = true := by first | assumption | rfl) (m : within 0xc00000000000000000000000000000000000000000000000001800000000000008000000000 L.regs = true := by first | with_reducible assumption | (refine within_trans (by assumption) ?_; exact rfl) | rfl) :
    Keeps L s0 (State.anvilStop s) := by
  unfold State.anvilStop
  with_reducible repeat' first | assumption | intro _ | apply keeps_ite | exact has_ok m rfl | exact within_trans m rfl | apply State.drainCheck_keeps | apply State.normAll_keeps | apply State.fset_keeps | apply keeps_snd_ite | dsimp only | split | exact Or.inl (by assumption) | exact Or.inr rfl | refine keeps_mk ?_ rfl rfl ?_ ?_ ?_ ?_ ?_ ?_ ?_ ?_ ?_ ?_ ?_ ?_ ?_ ?_

theorem State.anvilStart_keeps (h : Keeps L s0 s) (lr32 : L.r32 = true := by first | assumption | rfl) (lpower : L.power = true := by first | assumption | rfl) (ltm : L.tm = true := by first | assumption | rfl) (m : within 0xc00000000000000000000000000000000000000000000000000000000000000008000000000 L.regs = true := by first | with_reducible assumption | (refine within_trans (by assumption) ?_; exact rfl) | rfl) :
    Keeps L s0 (State.anvilStart s) := by
  unfold State.anvilStart
  with_reducible repeat' first | assumption | intro _ | apply keeps_ite | exact has_ok m rfl | exact within_trans m rfl | apply State.fset_keeps | apply State.normAll_keeps | apply keeps_snd_ite | dsimp only | split | exact Or.inl (by assumption) | exact Or.inr rfl | refine keeps_mk ?_ rfl rfl ?_ ?_ ?_ ?_ ?_ ?_ ?_ ?_ ?_ ?_ ?_ ?_ ?_ ?_

theorem State.anvilTrained_keeps (h : Keeps L s0 s) (lr32 : L.r32 = true := by first | assumption | rfl) (ltm : L.tm = true := by first | assumption | rfl) (m : within 0x2800000000000000000000000000000000000000000000000000000000000000000000000000 L.regs = true := by first | with_reducible assumption | (refine within_trans (by assumption) ?_; exact rfl) | rfl) :
    Keeps L s0 (State.anvilTrained s) := by
  unfold State.anvilTrained
  with_reducible repeat' first | assumption | intro _ | apply keeps_ite | exact has_ok m rfl | exact within_trans m rfl | apply State.normAll_keeps | apply State.fset_keeps | apply forN_keeps | apply keeps_snd_ite | dsimp only | split | exact Or.inl (by assumption) | exact Or.inr rfl | refine keeps_mk ?_ rfl rfl ?_ ?_ ?_ ?_ ?_ ?_ ?_ ?_ ?_ ?_ ?_ ?_ ?_ ?_

theorem State.channelLost_keeps (h : Keeps L s0 s) (a2 : ℕ) (lr32 : L.r32 = true := by first | assumption | rfl) (lr64 : L.r64 = true := by first | assumption | rfl) (lfree : L.free = true := by first | assumption | rfl) (lmem : L.mem = true := by first | assumption | rfl) (lhost : L.host = true := by first | assumption | rfl) (lpower : L.power = true := by first | assumption | rfl) (lsquall : L.squall = true := by first | assumption | rfl) (ltm : L.tm = true := by first | assumption | rfl) (m : within 0x1503800000000001000400030000000000000000000000000822801b80000000000008001082000 L.regs = true := by first | with_reducible assumption | (refine within_trans (by assumption) ?_; exact rfl) | rfl) :
    Keeps L s0 (State.channelLost s a2) := by
  unfold State.channelLost
  with_reducible repeat' first | assumption | intro _ | apply keeps_ite | exact has_ok m rfl | exact within_trans m rfl | apply State.wr_keeps | apply State.drainCheck_keeps | apply State.each_keeps | apply State.pgScan_keeps | apply State.voqNorm_keeps | apply State.settlePages_keeps | apply State.loseFrom_keeps | apply keeps_snd_ite | dsimp only | split

end Sys2Proof.Machine
end

