-- ==== Sys2Proof/Laws/KeepsEgress.lean ====
section
/-!
SUPPORT. What each operation and each command of `Machine/Egress.lean` (egress) leaves alone, in the terms of `Laws/Keeps.lean`.
-/

set_option Elab.async false

set_option linter.unusedTactic false
set_option linter.unreachableTactic false
set_option linter.unusedVariables false
namespace Sys2Proof.Machine

variable {L : Touch} {s0 s : State}

theorem State.setTrig_keeps (h : Keeps L s0 s) (a2 : ℕ) (a3 : Trig) (ltime : L.time = true := by first | assumption | rfl) :
    Keeps L s0 (State.setTrig s a2 a3) := by
  unfold State.setTrig
  with_reducible repeat' first | assumption | intro _ | apply keeps_ite | apply keeps_snd_ite | dsimp only | split | exact Or.inl (by assumption) | exact Or.inr rfl | refine keeps_mk ?_ rfl rfl ?_ ?_ ?_ ?_ ?_ ?_ ?_ ?_ ?_ ?_ ?_ ?_ ?_ ?_

theorem State.headCheck_keeps (h : Keeps L s0 s) (a2 a3 a4 : ℕ) (lr32 : L.r32 = true := by first | assumption | rfl) (lr64 : L.r64 = true := by first | assumption | rfl) (lfree : L.free = true := by first | assumption | rfl) (lmem : L.mem = true := by first | assumption | rfl) (lhost : L.host = true := by first | assumption | rfl) (lsquall : L.squall = true := by first | assumption | rfl) (ltm : L.tm = true := by first | assumption | rfl) (m : within 0x1400000000000001000000030000000000000000000000000822801b80000000000000001082000 L.regs = true := by first | with_reducible assumption | (refine within_trans (by assumption) ?_; exact rfl) | rfl) : Keeps L s0 (State.headCheck s a2 a3 a4) := by
  induction a4 generalizing s with
  | zero => exact h
  | succ n ih =>
    simp only [State.headCheck]
    split
    · exact h
    · split
      · exact ih (State.discardAt_keeps (State.setNc_keeps h _ _ _) _ _ _)
      · exact h

theorem State.headChecks_keeps (h : Keeps L s0 s) (a2 : ℕ) (lr32 : L.r32 = true := by first | assumption | rfl) (lr64 : L.r64 = true := by first | assumption | rfl) (lfree : L.free = true := by first | assumption | rfl) (lmem : L.mem = true := by first | assumption | rfl) (lhost : L.host = true := by first | assumption | rfl) (lsquall : L.squall = true := by first | assumption | rfl) (ltm : L.tm = true := by first | assumption | rfl) (m : within 0x1400000000000001000000030000000000000000000000000822801b80000000000000001082000 L.regs = true := by first | with_reducible assumption | (refine within_trans (by assumption) ?_; exact rfl) | rfl) :
    Keeps L s0 (State.headChecks s a2) := by
  unfold State.headChecks
  with_reducible repeat' first | assumption | intro _ | apply keeps_ite | exact has_ok m rfl | exact within_trans m rfl | apply State.headCheck_keeps | apply forN_keeps | apply keeps_snd_ite | dsimp only | split

theorem State.gateSwap_keeps (h : Keeps L s0 s) (a2 : ℕ) (lr32 : L.r32 = true := by first | assumption | rfl) (lr64 : L.r64 = true := by first | assumption | rfl) (lfree : L.free = true := by first | assumption | rfl) (lmem : L.mem = true := by first | assumption | rfl) (lhost : L.host = true := by first | assumption | rfl) (lsquall : L.squall = true := by first | assumption | rfl) (ltm : L.tm = true := by first | assumption | rfl) (m : within 0x1400000000000101000000030000000000000000000000000822801b80000000000000001082000 L.regs = true := by first | with_reducible assumption | (refine within_trans (by assumption) ?_; exact rfl) | rfl) :
    Keeps L s0 (State.gateSwap s a2) := by
  unfold State.gateSwap
  with_reducible repeat' first | assumption | intro _ | apply keeps_ite | exact has_ok m rfl | exact within_trans m rfl | apply State.headChecks_keeps | apply State.post_keeps | apply State.fset_keeps | apply keeps_snd_ite | dsimp only | split

theorem State.cycleStart_keeps (h : Keeps L s0 s) (a2 : ℕ) (a3 : ℕ) (lr32 : L.r32 = true := by first | assumption | rfl) (lr64 : L.r64 = true := by first | assumption | rfl) (lfree : L.free = true := by first | assumption | rfl) (lmem : L.mem = true := by first | assumption | rfl) (lhost : L.host = true := by first | assumption | rfl) (lsquall : L.squall = true := by first | assumption | rfl) (ltm : L.tm = true := by first | assumption | rfl) (m : within 0x1400000000000103000000030000000000000000000000000822801b80000000000000001082000 L.regs = true := by first | with_reducible assumption | (refine within_trans (by assumption) ?_; exact rfl) | rfl) :
    Keeps L s0 (State.cycleStart s a2 a3) := by
  unfold State.cycleStart
  with_reducible repeat' first | assumption | intro _ | apply keeps_ite | exact has_ok m rfl | exact within_trans m rfl | apply State.when_keeps | apply State.bump_keeps | apply State.setNp_keeps | apply State.gateSwap_keeps | apply State.fset_keeps | apply keeps_snd_ite | dsimp only | split

theorem State.gateTrigger_keeps (h : Keeps L s0 s) (a2 : ℕ) (a3 : ℕ) (lr32 : L.r32 = true := by first | assumption | rfl) (lr64 : L.r64 = true := by first | assumption | rfl) (lfree : L.free = true := by first | assumption | rfl) (lmem : L.mem = true := by first | assumption | rfl) (lhost : L.host = true := by first | assumption | rfl) (lsquall : L.squall = true := by first | assumption | rfl) (ltm : L.tm = true := by first | assumption | rfl) (m : within 0x1400000000000103000000030000000000000000000000000822801b80000000000000001082000 L.regs = true := by first | with_reducible assumption | (refine within_trans (by assumption) ?_; exact rfl) | rfl) :
    Keeps L s0 (State.gateTrigger s a2 a3) := by
  unfold State.gateTrigger
  with_reducible repeat' first | assumption | intro _ | apply keeps_ite | exact has_ok m rfl | exact within_trans m rfl | apply State.each_keeps | apply State.cycleStart_keeps | apply keeps_snd_ite | dsimp only | split

theorem execGateEdge_keeps (h : Keeps L s0 s) (a1 : ℕ) (lr32 : L.r32 = true := by first | assumption | rfl) (m : within 0x100000000000000000000000000000000000000000000000000000000000000000 L.regs = true := by first | with_reducible assumption | (refine within_trans (by assumption) ?_; exact rfl) | rfl) :
    ∃ t, execGateEdge a1 s = .next t ∧ Keeps L s0 t := by
  unfold execGateEdge
  refine ⟨_, rfl, ?_⟩
  with_reducible repeat' first | assumption | intro _ | apply keeps_ite | exact has_ok m rfl | exact within_trans m rfl | apply State.fset_keeps | apply keeps_snd_ite | dsimp only | split

theorem State.swapRequest_keeps (h : Keeps L s0 s) (a2 : ℕ) (lr32 : L.r32 = true := by first | assumption | rfl) (lr64 : L.r64 = true := by first | assumption | rfl) (lfree : L.free = true := by first | assumption | rfl) (lmem : L.mem = true := by first | assumption | rfl) (lhost : L.host = true := by first | assumption | rfl) (lsquall : L.squall = true := by first | assumption | rfl) (ltm : L.tm = true := by first | assumption | rfl) (m : within 0x1400000000000101000000030000000000000000000000000822801b80000000000000001082000 L.regs = true := by first | with_reducible assumption | (refine within_trans (by assumption) ?_; exact rfl) | rfl) :
    Keeps L s0 (State.swapRequest s a2) := by
  unfold State.swapRequest
  with_reducible repeat' first | assumption | intro _ | apply keeps_ite | exact has_ok m rfl | exact within_trans m rfl | apply State.fset_keeps | apply State.gateSwap_keeps | apply keeps_snd_ite | dsimp only | split

theorem State.gateEnable_keeps (h : Keeps L s0 s) (a2 : ℕ) (a3 : Bool) (lr32 : L.r32 = true := by first | assumption | rfl) (m : within 0x180000000000000000000000000000000000000000000000000000000000000000 L.regs = true := by first | with_reducible assumption | (refine within_trans (by assumption) ?_; exact rfl) | rfl) :
    Keeps L s0 (State.gateEnable s a2 a3) := by
  unfold State.gateEnable
  with_reducible repeat' first | assumption | intro _ | apply keeps_ite | exact has_ok m rfl | exact within_trans m rfl | apply State.fset_keeps | apply keeps_snd_ite | dsimp only | split

theorem execGateSwapRequest_keeps (h : Keeps L s0 s) (a1 : ℕ) (lr32 : L.r32 = true := by first | assumption | rfl) (lr64 : L.r64 = true := by first | assumption | rfl) (lfree : L.free = true := by first | assumption | rfl) (lmem : L.mem = true := by first | assumption | rfl) (lhost : L.host = true := by first | assumption | rfl) (lsquall : L.squall = true := by first | assumption | rfl) (ltm : L.tm = true := by first | assumption | rfl) (m : within 0x1400000000000101000000030000000000000000000000000822801b80000000000000001082000 L.regs = true := by first | with_reducible assumption | (refine within_trans (by assumption) ?_; exact rfl) | rfl) :
    ∃ t, execGateSwapRequest a1 s = .next t ∧ Keeps L s0 t := by
  unfold execGateSwapRequest
  refine ⟨_, rfl, ?_⟩
  with_reducible repeat' first | assumption | intro _ | apply keeps_ite | exact has_ok m rfl | exact within_trans m rfl | apply State.when_keeps | apply State.swapRequest_keeps | apply keeps_snd_ite | dsimp only | split

theorem execGateEnable_keeps (h : Keeps L s0 s) (a1 : ℕ) (lr32 : L.r32 = true := by first | assumption | rfl) (m : within 0x180000000000000000000000000000000000000000000000000000000000000000 L.regs = true := by first | with_reducible assumption | (refine within_trans (by assumption) ?_; exact rfl) | rfl) :
    ∃ t, execGateEnable a1 s = .next t ∧ Keeps L s0 t := by
  unfold execGateEnable
  refine ⟨_, rfl, ?_⟩
  with_reducible repeat' first | assumption | intro _ | apply keeps_ite | exact has_ok m rfl | exact within_trans m rfl | apply State.when_keeps | apply State.gateEnable_keeps | apply keeps_snd_ite | dsimp only | split

theorem execGateDisable_keeps (h : Keeps L s0 s) (a1 : ℕ) (lr32 : L.r32 = true := by first | assumption | rfl) (m : within 0x180000000000000000000000000000000000000000000000000000000000000000 L.regs = true := by first | with_reducible assumption | (refine within_trans (by assumption) ?_; exact rfl) | rfl) :
    ∃ t, execGateDisable a1 s = .next t ∧ Keeps L s0 t := by
  unfold execGateDisable
  refine ⟨_, rfl, ?_⟩
  with_reducible repeat' first | assumption | intro _ | apply keeps_ite | exact has_ok m rfl | exact within_trans m rfl | apply State.when_keeps | apply State.gateEnable_keeps | apply keeps_snd_ite | dsimp only | split

theorem State.gateCfgWrite_keeps (h : Keeps L s0 s) (a2 : ℕ) (a3 : Word) (lr32 : L.r32 = true := by first | assumption | rfl) (lr64 : L.r64 = true := by first | assumption | rfl) (lfree : L.free = true := by first | assumption | rfl) (lmem : L.mem = true := by first | assumption | rfl) (lhost : L.host = true := by first | assumption | rfl) (lsquall : L.squall = true := by first | assumption | rfl) (ltm : L.tm = true := by first | assumption | rfl) (m : within 0x1400000000000181000000030000000000000000000000000822801b80000000000000001082000 L.regs = true := by first | with_reducible assumption | (refine within_trans (by assumption) ?_; exact rfl) | rfl) :
    Keeps L s0 (State.gateCfgWrite s a2 a3) := by
  unfold State.gateCfgWrite
  with_reducible repeat' first | assumption | intro _ | apply keeps_ite | exact has_ok m rfl | exact within_trans m rfl | apply State.wr_keeps | apply State.gateEnable_keeps | apply State.swapRequest_keeps | apply keeps_snd_ite | dsimp only | split

theorem State.bucketTake_keeps (h : Keeps L s0 s) (a2 : ℕ) (a3 : ℕ) (a4 : ℤ) (ltm : L.tm = true := by first | assumption | rfl) :
    Keeps L s0 (State.bucketTake s a2 a3 a4) := by
  unfold State.bucketTake
  with_reducible repeat' first | assumption | intro _ | apply keeps_ite | apply State.setNp_keeps | apply keeps_snd_ite | dsimp only | split

theorem State.bucketFill_keeps (h : Keeps L s0 s) (a2 : ℕ) (a3 : ℕ) (ltm : L.tm = true := by first | assumption | rfl) :
    Keeps L s0 (State.bucketFill s a2 a3) := by
  unfold State.bucketFill
  with_reducible repeat' first | assumption | intro _ | apply keeps_ite | apply State.setNp_keeps | apply keeps_snd_ite | dsimp only | split

theorem State.shaperWrite_keeps (h : Keeps L s0 s) (a2 : ℕ) (a3 : ℕ) (a4 : ℕ) (a5 : Word) (lr32 : L.r32 = true := by first | assumption | rfl) (ltm : L.tm = true := by first | assumption | rfl) (m : within 0x3c78000000000000000000000000000000000000000000000000000000000000000 L.regs = true := by first | with_reducible assumption | (refine within_trans (by assumption) ?_; exact rfl) | rfl) :
    Keeps L s0 (State.shaperWrite s a2 a3 a4 a5) := by
  unfold State.shaperWrite
  with_reducible repeat' first | assumption | intro _ | apply keeps_ite | exact has_ok m rfl | exact within_trans m rfl | apply State.wr_keeps | apply State.bucketFill_keeps | apply keeps_snd_ite | dsimp only | split

theorem execShaperWrite_keeps (h : Keeps L s0 s) (a1 : ℕ) (a2 : ℕ) (a3 : ℕ) (a4 : Word) (lr32 : L.r32 = true := by first | assumption | rfl) (ltm : L.tm = true := by first | assumption | rfl) (m : within 0x3c78000000000000000000000000000000000000000000000000000000000000000 L.regs = true := by first | with_reducible assumption | (refine within_trans (by assumption) ?_; exact rfl) | rfl) :
    ∃ t, execShaperWrite a1 a2 a3 a4 s = .next t ∧ Keeps L s0 t := by
  unfold execShaperWrite
  refine ⟨_, rfl, ?_⟩
  with_reducible repeat' first | assumption | intro _ | apply keeps_ite | exact has_ok m rfl | exact within_trans m rfl | apply State.when_keeps | apply State.shaperWrite_keeps | apply keeps_snd_ite | dsimp only | split

theorem State.mcGrant_keeps (h : Keeps L s0 s) (a2 : ℕ) (a3 : ℕ) (ltm : L.tm = true := by first | assumption | rfl) :
    Keeps L s0 (State.mcGrant s a2 a3) := by
  unfold State.mcGrant
  with_reducible repeat' first | assumption | intro _ | apply keeps_ite | apply State.setVoq_keeps | apply keeps_snd_ite | dsimp only | split

theorem State.grantTo_keeps (h : Keeps L s0 s) (a2 : ℕ) (a3 : ℕ) (a4 : ℕ) (ltm : L.tm = true := by first | assumption | rfl) :
    Keeps L s0 (State.grantTo s a2 a3 a4) := by
  unfold State.grantTo
  with_reducible repeat' first | assumption | intro _ | apply keeps_ite | apply State.setNp_keeps | apply State.setNc_keeps | apply State.setVoq_keeps | apply State.mcGrant_keeps | apply keeps_snd_ite | dsimp only | split

theorem execNimbusGrant_keeps (h : Keeps L s0 s) (a1 : ℕ) (ltm : L.tm = true := by first | assumption | rfl) :
    ∃ t, execNimbusGrant a1 s = .next t ∧ Keeps L s0 t := by
  unfold execNimbusGrant
  refine ⟨_, rfl, ?_⟩
  with_reducible repeat' first | assumption | intro _ | apply keeps_ite | apply State.grantTo_keeps | apply keeps_snd_ite | dsimp only | split | exact Or.inl (by assumption) | exact Or.inr rfl | refine keeps_mk ?_ rfl rfl ?_ ?_ ?_ ?_ ?_ ?_ ?_ ?_ ?_ ?_ ?_ ?_ ?_ ?_

theorem execGrantReceive_keeps (h : Keeps L s0 s) (a1 : ℕ) (a2 : ℕ) (ltm : L.tm = true := by first | assumption | rfl) :
    ∃ t, execGrantReceive a1 a2 s = .next t ∧ Keeps L s0 t := by
  unfold execGrantReceive
  refine ⟨_, rfl, ?_⟩
  with_reducible repeat' first | assumption | intro _ | apply keeps_ite | apply State.setVoq_keeps | apply keeps_snd_ite | dsimp only | split

theorem State.stage_keeps (h : Keeps L s0 s) (a2 : ℕ) (a3 : Staged) (lr32 : L.r32 = true := by first | assumption | rfl) (lr64 : L.r64 = true := by first | assumption | rfl) (lfree : L.free = true := by first | assumption | rfl) (lmem : L.mem = true := by first | assumption | rfl) (lhost : L.host = true := by first | assumption | rfl) (lsquall : L.squall = true := by first | assumption | rfl) (ltm : L.tm = true := by first | assumption | rfl) (m : within 0x1400000000000001000000030000000000000000000000000822801b80000000000000001082000 L.regs = true := by first | with_reducible assumption | (refine within_trans (by assumption) ?_; exact rfl) | rfl) :
    Keeps L s0 (State.stage s a2 a3) := by
  unfold State.stage
  with_reducible repeat' first | assumption | intro _ | apply keeps_ite | exact has_ok m rfl | exact within_trans m rfl | apply State.discardAt_keeps | apply State.headCheck_keeps | apply State.setNc_keeps | apply keeps_snd_ite | dsimp only | split

theorem State.cellErr_keeps (h : Keeps L s0 s) (a2 : ℕ) (a3 : ℕ) (a4 : Option (Fin 64)) (lr64 : L.r64 = true := by first | assumption | rfl) (ltm : L.tm = true := by first | assumption | rfl) (m : within 0x40000000000000000000000000000000000000000000000000000000 L.regs = true := by first | with_reducible assumption | (refine within_trans (by assumption) ?_; exact rfl) | rfl) :
    Keeps L s0 (State.cellErr s a2 a3 a4) := by
  unfold State.cellErr
  with_reducible repeat' first | assumption | intro _ | apply keeps_ite | exact has_ok m rfl | exact within_trans m rfl | apply State.stomp_keeps | apply keeps_snd_ite | dsimp only | split

theorem execCrossingStart_keeps (h : Keeps L s0 s) (a1 : ℕ) (a2 : ℕ) (a3 : Option (Fin 64)) (lr32 : L.r32 = true := by first | assumption | rfl) (lr64 : L.r64 = true := by first | assumption | rfl) (lfree : L.free = true := by first | assumption | rfl) (lmem : L.mem = true := by first | assumption | rfl) (lhost : L.host = true := by first | assumption | rfl) (lsquall : L.squall = true := by first | assumption | rfl) (ltm : L.tm = true := by first | assumption | rfl) (lcirrus : L.cirrus = true := by first | assumption | rfl) (m : within 0x1400000000000001000580170080000000000000000000000822801b80000000000000001082000 L.regs = true := by first | with_reducible assumption | (refine within_trans (by assumption) ?_; exact rfl) | rfl) :
    ∃ t, execCrossingStart a1 a2 a3 s = .next t ∧ Keeps L s0 t := by
  unfold execCrossingStart
  refine ⟨_, rfl, ?_⟩
  with_reducible repeat' first | assumption | intro _ | apply keeps_ite | exact has_ok m rfl | exact within_trans m rfl | apply State.killFrame_keeps | apply State.setVoq_keeps | apply State.cellErr_keeps | apply State.each_keeps | apply State.stage_keeps | apply keeps_snd_ite | dsimp only | split

theorem State.correctLen_keeps (h : Keeps L s0 s) (a2 : ℕ) (a3 : Staged) (a4 : ℕ) (ltm : L.tm = true := by first | assumption | rfl) :
    Keeps L s0 (State.correctLen s a2 a3 a4) := by
  unfold State.correctLen
  with_reducible repeat' first | assumption | intro _ | apply keeps_ite | apply State.bucketTake_keeps | apply State.setNc_keeps | apply State.setNp_keeps | apply keeps_snd_ite | dsimp only | split

theorem State.finishStaged_keeps (h : Keeps L s0 s) (a2 : ℕ) (a3 : ℕ) (a4 : ℕ) (a5 : ℕ) (a6 : Frame) (lr32 : L.r32 = true := by first | assumption | rfl) (lr64 : L.r64 = true := by first | assumption | rfl) (lfree : L.free = true := by first | assumption | rfl) (lmem : L.mem = true := by first | assumption | rfl) (lhost : L.host = true := by first | assumption | rfl) (lsquall : L.squall = true := by first | assumption | rfl) (ltm : L.tm = true := by first | assumption | rfl) (m : within 0x1400000000000001000000030000000000000000000000000822801b80000000000000001082000 L.regs = true := by first | with_reducible assumption | (refine within_trans (by assumption) ?_; exact rfl) | rfl) :
    Keeps L s0 (State.finishStaged s a2 a3 a4 a5 a6) := by
  unfold State.finishStaged
  with_reducible repeat' first | assumption | intro _ | apply keeps_ite | exact has_ok m rfl | exact within_trans m rfl | apply State.correctLen_keeps | apply State.setNp_keeps | apply State.headCheck_keeps | apply State.setNc_keeps | apply keeps_snd_ite | dsimp only | split

theorem execCrossingComplete_keeps (h : Keeps L s0 s) (a1 : ℕ) (a2 : ℕ) (a3 : Option (Fin 64)) (lr32 : L.r32 = true := by first | assumption | rfl) (lr64 : L.r64 = true := by first | assumption | rfl) (lfree : L.free = true := by first | assumption | rfl) (lmem : L.mem = true := by first | assumption | rfl) (lhost : L.host = true := by first | assumption | rfl) (lsquall : L.squall = true := by first | assumption | rfl) (ltm : L.tm = true := by first | assumption | rfl) (m : within 0x1400000000000001000580170080000000000000000000000822801b80000000000000001082000 L.regs = true := by first | with_reducible assumption | (refine within_trans (by assumption) ?_; exact rfl) | rfl) :
    ∃ t, execCrossingComplete a1 a2 a3 s = .next t ∧ Keeps L s0 t := by
  unfold execCrossingComplete
  refine ⟨_, rfl, ?_⟩
  with_reducible repeat' first | assumption | intro _ | apply keeps_ite | exact has_ok m rfl | exact within_trans m rfl | apply State.cellErr_keeps | apply State.setVoq_keeps | apply State.each_keeps | apply State.finishStaged_keeps | apply State.pgScan_keeps | apply State.voqNorm_keeps | apply State.endRef_keeps | apply keeps_snd_ite | dsimp only | split

theorem execMcHoldExpire_keeps (h : Keeps L s0 s) (a1 : ℕ) (a2 : ℕ) (lr32 : L.r32 = true := by first | assumption | rfl) (lr64 : L.r64 = true := by first | assumption | rfl) (lsquall : L.squall = true := by first | assumption | rfl) (ltm : L.tm = true := by first | assumption | rfl) (m : within 0x580180080000000000000000000000000000000000000000000001082000 L.regs = true := by first | with_reducible assumption | (refine within_trans (by assumption) ?_; exact rfl) | rfl) :
    ∃ t, execMcHoldExpire a1 a2 s = .next t ∧ Keeps L s0 t := by
  unfold execMcHoldExpire
  refine ⟨_, rfl, ?_⟩
  with_reducible repeat' first | assumption | intro _ | apply keeps_ite | exact has_ok m rfl | exact within_trans m rfl | apply State.bump_keeps | apply State.voqNorm_keeps | apply State.endRef_keeps | apply State.setVoq_keeps | apply keeps_snd_ite | dsimp only | split

theorem State.giveTags_keeps (h : Keeps L s0 s) (a2 : ℕ) (ltm : L.tm = true := by first | assumption | rfl) :
    Keeps L s0 (State.giveTags s a2) := by
  unfold State.giveTags
  with_reducible repeat' first | assumption | intro _ | apply keeps_ite | apply State.setNc_keeps | apply forN_keeps | apply keeps_snd_ite | dsimp only | split

theorem State.sendHead_keeps (h : Keeps L s0 s) (a2 : ℕ) (a3 : ℕ) (lr32 : L.r32 = true := by first | assumption | rfl) (lr64 : L.r64 = true := by first | assumption | rfl) (lfree : L.free = true := by first | assumption | rfl) (lmem : L.mem = true := by first | assumption | rfl) (lhost : L.host = true := by first | assumption | rfl) (lsquall : L.squall = true := by first | assumption | rfl) (ltm : L.tm = true := by first | assumption | rfl) (m : within 0x1400000000000001000000030000000000000000000000000822801b80000000000000001082000 L.regs = true := by first | with_reducible assumption | (refine within_trans (by assumption) ?_; exact rfl) | rfl) :
    Keeps L s0 (State.sendHead s a2 a3) := by
  unfold State.sendHead
  with_reducible repeat' first | assumption | intro _ | apply keeps_ite | exact has_ok m rfl | exact within_trans m rfl | apply State.setNc_keeps | apply State.setNp_keeps | apply State.bucketTake_keeps | apply State.headCheck_keeps | apply keeps_snd_ite | dsimp only | split

theorem State.txDecide_keeps (h : Keeps L s0 s) (a2 : ℕ) (lr32 : L.r32 = true := by first | assumption | rfl) (lr64 : L.r64 = true := by first | assumption | rfl) (lfree : L.free = true := by first | assumption | rfl) (lmem : L.mem = true := by first | assumption | rfl) (lhost : L.host = true := by first | assumption | rfl) (lsquall : L.squall = true := by first | assumption | rfl) (ltm : L.tm = true := by first | assumption | rfl) (m : within 0x1400000000000001000000030000000000000000000000000822801b80000000000000001082000 L.regs = true := by first | with_reducible assumption | (refine within_trans (by assumption) ?_; exact rfl) | rfl) :
    Keeps L s0 (State.txDecide s a2) := by
  unfold State.txDecide
  with_reducible repeat' first | assumption | intro _ | apply keeps_ite | exact has_ok m rfl | exact within_trans m rfl | apply State.setNp_keeps | apply State.giveTags_keeps | apply State.sendHead_keeps | apply keeps_snd_ite | dsimp only | split

theorem execTxDecision_keeps (h : Keeps L s0 s) (a1 : ℕ) (lr32 : L.r32 = true := by first | assumption | rfl) (lr64 : L.r64 = true := by first | assumption | rfl) (lfree : L.free = true := by first | assumption | rfl) (lmem : L.mem = true := by first | assumption | rfl) (lhost : L.host = true := by first | assumption | rfl) (lsquall : L.squall = true := by first | assumption | rfl) (ltm : L.tm = true := by first | assumption | rfl) (m : within 0x1400000000000001000000030000000000000000000000000822801b80000000000000001082000 L.regs = true := by first | with_reducible assumption | (refine within_trans (by assumption) ?_; exact rfl) | rfl) :
    ∃ t, execTxDecision a1 s = .next t ∧ Keeps L s0 t := by
  unfold execTxDecision
  refine ⟨_, rfl, ?_⟩
  with_reducible repeat' first | assumption | intro _ | apply keeps_ite | exact has_ok m rfl | exact within_trans m rfl | apply State.txDecide_keeps | apply keeps_snd_ite | dsimp only | split

theorem execPfcWdExpire_keeps (h : Keeps L s0 s) (a1 : ℕ) (a2 : ℕ) (lr32 : L.r32 = true := by first | assumption | rfl) (lr64 : L.r64 = true := by first | assumption | rfl) (lfree : L.free = true := by first | assumption | rfl) (lmem : L.mem = true := by first | assumption | rfl) (lhost : L.host = true := by first | assumption | rfl) (lpower : L.power = true := by first | assumption | rfl) (lsquall : L.squall = true := by first | assumption | rfl) (ltm : L.tm = true := by first | assumption | rfl) (m : within 0x1502800000000001000580130080000000000000000000000822801b80000000000008001082000 L.regs = true := by first | with_reducible assumption | (refine within_trans (by assumption) ?_; exact rfl) | rfl) :
    ∃ t, execPfcWdExpire a1 a2 s = .next t ∧ Keeps L s0 t := by
  unfold execPfcWdExpire
  refine ⟨_, rfl, ?_⟩
  with_reducible repeat' first | assumption | intro _ | apply keeps_ite | exact has_ok m rfl | exact within_trans m rfl | apply State.post_keeps | apply State.setNc_keeps | apply State.flushQueue_keeps | apply forN_keeps | apply keeps_snd_ite | dsimp only | split

theorem execPfcWdRestore_keeps (h : Keeps L s0 s) (a1 : ℕ) (a2 : ℕ) (lr64 : L.r64 = true := by first | assumption | rfl) (lhost : L.host = true := by first | assumption | rfl) (ltm : L.tm = true := by first | assumption | rfl) (m : within 0x1800000000000000000000000 L.regs = true := by first | with_reducible assumption | (refine within_trans (by assumption) ?_; exact rfl) | rfl) :
    ∃ t, execPfcWdRestore a1 a2 s = .next t ∧ Keeps L s0 t := by
  unfold execPfcWdRestore
  refine ⟨_, rfl, ?_⟩
  with_reducible repeat' first | assumption | intro _ | apply keeps_ite | exact has_ok m rfl | exact within_trans m rfl | apply State.post_keeps | apply State.setNc_keeps | apply keeps_snd_ite | dsimp only | split

theorem execPauseTimerExpire_keeps (h : Keeps L s0 s) (a1 : ℕ) (a2 : ℕ) (ltm : L.tm = true := by first | assumption | rfl) :
    ∃ t, execPauseTimerExpire a1 a2 s = .next t ∧ Keeps L s0 t := by
  unfold execPauseTimerExpire
  refine ⟨_, rfl, ?_⟩
  with_reducible repeat' first | assumption | intro _ | apply keeps_ite | apply State.setNc_keeps | apply keeps_snd_ite | dsimp only | split

theorem execPauseResendTimer_keeps (h : Keeps L s0 s) (a1 : ℕ) (ltm : L.tm = true := by first | assumption | rfl) :
    ∃ t, execPauseResendTimer a1 s = .next t ∧ Keeps L s0 t := by
  unfold execPauseResendTimer
  refine ⟨_, rfl, ?_⟩
  with_reducible repeat' first | assumption | intro _ | apply keeps_ite | apply State.pauseAgain_keeps | apply keeps_snd_ite | dsimp only | split

theorem State.pauseReceive_keeps (h : Keeps L s0 s) (a2 : ℕ) (a3 : List Byte) (a4 : Bool) (lr32 : L.r32 = true := by first | assumption | rfl) (lr64 : L.r64 = true := by first | assumption | rfl) (ltm : L.tm = true := by first | assumption | rfl) (m : within 0x1400000000000001000000030000000000000000000000000000000000000000000000000000000 L.regs = true := by first | with_reducible assumption | (refine within_trans (by assumption) ?_; exact rfl) | rfl) :
    Keeps L s0 (State.pauseReceive s a2 a3 a4) := by
  unfold State.pauseReceive
  with_reducible repeat' first | assumption | intro _ | apply keeps_ite | exact has_ok m rfl | exact within_trans m rfl | apply State.each_keeps | apply State.setNc_keeps | apply State.perf_keeps | apply State.dropCount_keeps | apply keeps_snd_ite | dsimp only | split

theorem State.flushStaged_keeps (h : Keeps L s0 s) (a2 : ℕ) (a3 : ℕ) (lr32 : L.r32 = true := by first | assumption | rfl) (lr64 : L.r64 = true := by first | assumption | rfl) (lfree : L.free = true := by first | assumption | rfl) (lmem : L.mem = true := by first | assumption | rfl) (lhost : L.host = true := by first | assumption | rfl) (lsquall : L.squall = true := by first | assumption | rfl) (ltm : L.tm = true := by first | assumption | rfl) (m : within 0x1400000000000001000000030000000000000000000000000822801b80000000000000001082000 L.regs = true := by first | with_reducible assumption | (refine within_trans (by assumption) ?_; exact rfl) | rfl) :
    Keeps L s0 (State.flushStaged s a2 a3) := by
  unfold State.flushStaged
  with_reducible repeat' first | assumption | intro _ | apply keeps_ite | exact has_ok m rfl | exact within_trans m rfl | apply State.setNc_keeps | apply State.each_keeps | apply State.discardAt_keeps | apply forN_keeps | apply keeps_snd_ite | dsimp only | split

theorem State.flushPort_keeps (h : Keeps L s0 s) (a2 : ℕ) (a3 : ℕ) (lr32 : L.r32 = true := by first | assumption | rfl) (lr64 : L.r64 = true := by first | assumption | rfl) (lfree : L.free = true := by first | assumption | rfl) (lmem : L.mem = true := by first | assumption | rfl) (lhost : L.host = true := by first | assumption | rfl) (lpower : L.power = true := by first | assumption | rfl) (lsquall : L.squall = true := by first | assumption | rfl) (ltm : L.tm = true := by first | assumption | rfl) (m : within 0x1502800000000001000580130080000000000000000000000822801b80000000000008001082000 L.regs = true := by first | with_reducible assumption | (refine within_trans (by assumption) ?_; exact rfl) | rfl) :
    Keeps L s0 (State.flushPort s a2 a3) := by
  unfold State.flushPort
  with_reducible repeat' first | assumption | intro _ | apply keeps_ite | exact has_ok m rfl | exact within_trans m rfl | apply State.flushStaged_keeps | apply State.flushVoqs_keeps | apply keeps_snd_ite | dsimp only | split

theorem State.downFlush_keeps (h : Keeps L s0 s) (a2 : ℕ) (lr32 : L.r32 = true := by first | assumption | rfl) (lr64 : L.r64 = true := by first | assumption | rfl) (lfree : L.free = true := by first | assumption | rfl) (lmem : L.mem = true := by first | assumption | rfl) (lhost : L.host = true := by first | assumption | rfl) (lpower : L.power = true := by first | assumption | rfl) (lsquall : L.squall = true := by first | assumption | rfl) (ltm : L.tm = true := by first | assumption | rfl) (m : within 0x1502800000000001000580130080000000000000000000000822801b80000000000008001082000 L.regs = true := by first | with_reducible assumption | (refine within_trans (by assumption) ?_; exact rfl) | rfl) :
    Keeps L s0 (State.downFlush s a2) := by
  unfold State.downFlush
  with_reducible repeat' first | assumption | intro _ | apply keeps_ite | exact has_ok m rfl | exact within_trans m rfl | apply State.setNp_keeps | apply State.post_keeps | apply State.flushPort_keeps | apply keeps_snd_ite | dsimp only | split

theorem execDownHoldExpire_keeps (h : Keeps L s0 s) (a1 : ℕ) (lr32 : L.r32 = true := by first | assumption | rfl) (lr64 : L.r64 = true := by first | assumption | rfl) (lfree : L.free = true := by first | assumption | rfl) (lmem : L.mem = true := by first | assumption | rfl) (lhost : L.host = true := by first | assumption | rfl) (lpower : L.power = true := by first | assumption | rfl) (lsquall : L.squall = true := by first | assumption | rfl) (ltm : L.tm = true := by first | assumption | rfl) (m : within 0x1502800000000001000580130080000000000000000000000822801b80000000000008001082000 L.regs = true := by first | with_reducible assumption | (refine within_trans (by assumption) ?_; exact rfl) | rfl) :
    ∃ t, execDownHoldExpire a1 s = .next t ∧ Keeps L s0 t := by
  unfold execDownHoldExpire
  refine ⟨_, rfl, ?_⟩
  with_reducible repeat' first | assumption | intro _ | apply keeps_ite | exact has_ok m rfl | exact within_trans m rfl | apply State.downFlush_keeps | apply keeps_snd_ite | dsimp only | split

theorem State.egressDown_keeps (h : Keeps L s0 s) (a2 : ℕ) (lr32 : L.r32 = true := by first | assumption | rfl) (lr64 : L.r64 = true := by first | assumption | rfl) (lfree : L.free = true := by first | assumption | rfl) (lmem : L.mem = true := by first | assumption | rfl) (lhost : L.host = true := by first | assumption | rfl) (lpower : L.power = true := by first | assumption | rfl) (lsquall : L.squall = true := by first | assumption | rfl) (ltm : L.tm = true := by first | assumption | rfl) (m : within 0x1502800000000001000580130080000000000000000000000822801b80000000000008001082000 L.regs = true := by first | with_reducible assumption | (refine within_trans (by assumption) ?_; exact rfl) | rfl) :
    Keeps L s0 (State.egressDown s a2) := by
  unfold State.egressDown
  with_reducible repeat' first | assumption | intro _ | apply keeps_ite | exact has_ok m rfl | exact within_trans m rfl | apply State.complete_keeps | apply State.setNp_keeps | apply State.downFlush_keeps | apply keeps_snd_ite | dsimp only | split

theorem State.nimbusPortReset_keeps (h : Keeps L s0 s) (a2 : ℕ) (ltm : L.tm = true := by first | assumption | rfl) :
    Keeps L s0 (State.nimbusPortReset s a2) := by
  unfold State.nimbusPortReset
  with_reducible repeat' first | assumption | intro _ | apply keeps_ite | apply State.setNc_keeps | apply State.setNp_keeps | apply forN_keeps | apply keeps_snd_ite | dsimp only | split

theorem State.pauseAtUp_keeps (h : Keeps L s0 s) (a2 : ℕ) (lr32 : L.r32 = true := by first | assumption | rfl) (lr64 : L.r64 = true := by first | assumption | rfl) (lfree : L.free = true := by first | assumption | rfl) (lmem : L.mem = true := by first | assumption | rfl) (lhost : L.host = true := by first | assumption | rfl) (lsquall : L.squall = true := by first | assumption | rfl) (ltm : L.tm = true := by first | assumption | rfl) (m : within 0x1400000000000001000000030000000000000000000000000822801b80000000000000001082000 L.regs = true := by first | with_reducible assumption | (refine within_trans (by assumption) ?_; exact rfl) | rfl) :
    Keeps L s0 (State.pauseAtUp s a2) := by
  unfold State.pauseAtUp
  with_reducible repeat' first | assumption | intro _ | apply keeps_ite | exact has_ok m rfl | exact within_trans m rfl | apply State.headChecks_keeps | apply State.pauseAgain_keeps | apply State.setNp_keeps | apply keeps_snd_ite | dsimp only | split

theorem State.pfcCfgWrite_keeps (h : Keeps L s0 s) (a2 : ℕ) (a3 : Word) (lr32 : L.r32 = true := by first | assumption | rfl) (ltm : L.tm = true := by first | assumption | rfl) (m : within 0x400400000000000000000000000000000000000000000000000000000000 L.regs = true := by first | with_reducible assumption | (refine within_trans (by assumption) ?_; exact rfl) | rfl) :
    Keeps L s0 (State.pfcCfgWrite s a2 a3) := by
  unfold State.pfcCfgWrite
  with_reducible repeat' first | assumption | intro _ | apply keeps_ite | exact has_ok m rfl | exact within_trans m rfl | apply State.wr_keeps | apply State.fset_keeps | apply State.pgScan_keeps | apply State.pauseChange_keeps | apply State.each_keeps | apply State.setXoff_keeps | apply keeps_snd_ite | dsimp only | split

theorem execPfcCfgWrite_keeps (h : Keeps L s0 s) (a1 : ℕ) (a2 : Word) (lr32 : L.r32 = true := by first | assumption | rfl) (ltm : L.tm = true := by first | assumption | rfl) (m : within 0x400400000000000000000000000000000000000000000000000000000000 L.regs = true := by first | with_reducible assumption | (refine within_trans (by assumption) ?_; exact rfl) | rfl) :
    ∃ t, execPfcCfgWrite a1 a2 s = .next t ∧ Keeps L s0 t := by
  unfold execPfcCfgWrite
  refine ⟨_, rfl, ?_⟩
  with_reducible repeat' first | assumption | intro _ | apply keeps_ite | exact has_ok m rfl | exact within_trans m rfl | apply State.when_keeps | apply State.pfcCfgWrite_keeps | apply keeps_snd_ite | dsimp only | split

theorem State.pgCfgWrite_keeps (h : Keeps L s0 s) (a2 : ℕ) (a3 : ℕ) (a4 : ℕ) (a5 : Word) (lr32 : L.r32 = true := by first | assumption | rfl) (ltm : L.tm = true := by first | assumption | rfl) (m : within 0x478000000000000000000000000000000000000000000000000000000000 L.regs = true := by first | with_reducible assumption | (refine within_trans (by assumption) ?_; exact rfl) | rfl) :
    Keeps L s0 (State.pgCfgWrite s a2 a3 a4 a5) := by
  unfold State.pgCfgWrite
  with_reducible repeat' first | assumption | intro _ | apply keeps_ite | exact has_ok m rfl | exact within_trans m rfl | apply State.pgScan_keeps | apply State.wr_keeps | apply keeps_snd_ite | dsimp only | split

theorem execPgCfgWrite_keeps (h : Keeps L s0 s) (a1 : ℕ) (a2 : ℕ) (a3 : ℕ) (a4 : Word) (lr32 : L.r32 = true := by first | assumption | rfl) (ltm : L.tm = true := by first | assumption | rfl) (m : within 0x478000000000000000000000000000000000000000000000000000000000 L.regs = true := by first | with_reducible assumption | (refine within_trans (by assumption) ?_; exact rfl) | rfl) :
    ∃ t, execPgCfgWrite a1 a2 a3 a4 s = .next t ∧ Keeps L s0 t := by
  unfold execPgCfgWrite
  refine ⟨_, rfl, ?_⟩
  with_reducible repeat' first | assumption | intro _ | apply keeps_ite | exact has_ok m rfl | exact within_trans m rfl | apply State.when_keeps | apply State.pgCfgWrite_keeps | apply keeps_snd_ite | dsimp only | split

theorem State.voqCtlWrite_keeps (h : Keeps L s0 s) (a2 : ℕ) (a3 : Word) (lr32 : L.r32 = true := by first | assumption | rfl) (ltm : L.tm = true := by first | assumption | rfl) (m : within 0x7000000000000000000000000000000000000000000000000000000 L.regs = true := by first | with_reducible assumption | (refine within_trans (by assumption) ?_; exact rfl) | rfl) :
    Keeps L s0 (State.voqCtlWrite s a2 a3) := by
  unfold State.voqCtlWrite
  with_reducible repeat' first | assumption | intro _ | apply keeps_ite | exact has_ok m rfl | exact within_trans m rfl | apply State.wr_keeps | apply State.setVoq_keeps | apply keeps_snd_ite | dsimp only | split

theorem execVoqQuery_keeps (h : Keeps L s0 s) (a1 : ℕ) (a2 : Word) (lr32 : L.r32 = true := by first | assumption | rfl) (ltm : L.tm = true := by first | assumption | rfl) (m : within 0x7000000000000000000000000000000000000000000000000000000 L.regs = true := by first | with_reducible assumption | (refine within_trans (by assumption) ?_; exact rfl) | rfl) :
    ∃ t, execVoqQuery a1 a2 s = .next t ∧ Keeps L s0 t := by
  unfold execVoqQuery
  refine ⟨_, rfl, ?_⟩
  with_reducible repeat' first | assumption | intro _ | apply keeps_ite | exact has_ok m rfl | exact within_trans m rfl | apply State.when_keeps | apply State.voqCtlWrite_keeps | apply keeps_snd_ite | dsimp only | split

theorem execVoqLeaveSafe_keeps (h : Keeps L s0 s) (a1 : ℕ) (a2 : Word) (lr32 : L.r32 = true := by first | assumption | rfl) (ltm : L.tm = true := by first | assumption | rfl) (m : within 0x7000000000000000000000000000000000000000000000000000000 L.regs = true := by first | with_reducible assumption | (refine within_trans (by assumption) ?_; exact rfl) | rfl) :
    ∃ t, execVoqLeaveSafe a1 a2 s = .next t ∧ Keeps L s0 t := by
  unfold execVoqLeaveSafe
  refine ⟨_, rfl, ?_⟩
  with_reducible repeat' first | assumption | intro _ | apply keeps_ite | exact has_ok m rfl | exact within_trans m rfl | apply State.when_keeps | apply State.voqCtlWrite_keeps | apply keeps_snd_ite | dsimp only | split

end Sys2Proof.Machine
end

