-- ==== Sys2Proof/Laws/KeepsLanes.lean ====
section
/-!
SUPPORT. What each operation and each command of `Machine/Lanes.lean` (lanes and ports) leaves alone, in the terms of `Laws/Keeps.lean`.
-/

set_option Elab.async false

set_option linter.unusedTactic false
set_option linter.unreachableTactic false
set_option linter.unusedVariables false
namespace Sys2Proof.Machine

variable {L : Touch} {s0 s : State}

theorem State.setCage_keeps (h : Keeps L s0 s) (a2 : ℕ) (a3 : CageSt) (llink : L.link = true := by first | assumption | rfl) :
    Keeps L s0 (State.setCage s a2 a3) := by
  unfold State.setCage
  with_reducible repeat' first | assumption | intro _ | apply keeps_ite | apply keeps_snd_ite | dsimp only | split | exact Or.inl (by assumption) | exact Or.inr rfl | refine keeps_mk ?_ rfl rfl ?_ ?_ ?_ ?_ ?_ ?_ ?_ ?_ ?_ ?_ ?_ ?_ ?_ ?_

theorem State.setI2c_keeps (h : Keeps L s0 s) (a2 : ℕ) (a3 : I2cSt) (llink : L.link = true := by first | assumption | rfl) :
    Keeps L s0 (State.setI2c s a2 a3) := by
  unfold State.setI2c
  with_reducible repeat' first | assumption | intro _ | apply keeps_ite | apply keeps_snd_ite | dsimp only | split | exact Or.inl (by assumption) | exact Or.inr rfl | refine keeps_mk ?_ rfl rfl ?_ ?_ ?_ ?_ ?_ ?_ ?_ ?_ ?_ ?_ ?_ ?_ ?_ ?_

theorem State.driveLanes_keeps (h : Keeps L s0 s) (a2 : List ℕ) (a3 : LineSig) (llink : L.link = true := by first | assumption | rfl) :
    Keeps L s0 (State.driveLanes s a2 a3) := by
  unfold State.driveLanes
  with_reducible repeat' first | assumption | intro _ | apply keeps_ite | apply State.each_keeps | apply State.setLane_keeps | apply keeps_snd_ite | dsimp only | split

theorem State.abortEyes_keeps (h : Keeps L s0 s) (a2 : List ℕ) (lr32 : L.r32 = true := by first | assumption | rfl) (llink : L.link = true := by first | assumption | rfl) (m : within 0x100000000000000000000000000000000000000000000000000000000000000000000000 L.regs = true := by first | with_reducible assumption | (refine within_trans (by assumption) ?_; exact rfl) | rfl) :
    Keeps L s0 (State.abortEyes s a2) := by
  unfold State.abortEyes
  with_reducible repeat' first | assumption | intro _ | apply keeps_ite | exact has_ok m rfl | exact within_trans m rfl | apply State.each_keeps | apply State.fset_keeps | apply State.setLane_keeps | apply keeps_snd_ite | dsimp only | split

theorem State.portTo_keeps (h : Keeps L s0 s) (a2 : ℕ) (a3 : ℕ) (lr32 : L.r32 = true := by first | assumption | rfl) (m : within 0x100000000000000000000000000000000000000000000000000000000000000000000 L.regs = true := by first | with_reducible assumption | (refine within_trans (by assumption) ?_; exact rfl) | rfl) :
    Keeps L s0 (State.portTo s a2 a3) := by
  unfold State.portTo
  with_reducible repeat' first | assumption | intro _ | apply keeps_ite | exact has_ok m rfl | exact within_trans m rfl | apply State.fset_keeps | apply keeps_snd_ite | dsimp only | split

theorem State.linkEnds_keeps (h : Keeps L s0 s) (a2 : ℕ) (lr32 : L.r32 = true := by first | assumption | rfl) (lr64 : L.r64 = true := by first | assumption | rfl) (lfree : L.free = true := by first | assumption | rfl) (lmem : L.mem = true := by first | assumption | rfl) (lhost : L.host = true := by first | assumption | rfl) (llink : L.link = true := by first | assumption | rfl) (lpower : L.power = true := by first | assumption | rfl) (lsquall : L.squall = true := by first | assumption | rfl) (ltm : L.tm = true := by first | assumption | rfl) (lcirrus : L.cirrus = true := by first | assumption | rfl) (m : within 0x1502800000100001000580170080000000000000000000000822801b80000000000008001082000 L.regs = true := by first | with_reducible assumption | (refine within_trans (by assumption) ?_; exact rfl) | rfl) :
    Keeps L s0 (State.linkEnds s a2) := by
  unfold State.linkEnds
  with_reducible repeat' first | assumption | intro _ | apply keeps_ite | exact has_ok m rfl | exact within_trans m rfl | apply State.setPort_keeps | apply State.fset_keeps | apply State.egressDown_keeps | apply State.ingressLinkLost_keeps | apply State.each_keeps | apply State.setLane_keeps | apply keeps_snd_ite | dsimp only | split

theorem State.leaveUp_keeps (h : Keeps L s0 s) (a2 : ℕ) (a3 : ℕ) (lr32 : L.r32 = true := by first | assumption | rfl) (lr64 : L.r64 = true := by first | assumption | rfl) (lfree : L.free = true := by first | assumption | rfl) (lmem : L.mem = true := by first | assumption | rfl) (lhost : L.host = true := by first | assumption | rfl) (llink : L.link = true := by first | assumption | rfl) (lpower : L.power = true := by first | assumption | rfl) (lsquall : L.squall = true := by first | assumption | rfl) (ltm : L.tm = true := by first | assumption | rfl) (lcirrus : L.cirrus = true := by first | assumption | rfl) (m : within 0x1502800000100001000580170080000000000000000000000822801b80000000000008001082000 L.regs = true := by first | with_reducible assumption | (refine within_trans (by assumption) ?_; exact rfl) | rfl) :
    Keeps L s0 (State.leaveUp s a2 a3) := by
  unfold State.leaveUp
  with_reducible repeat' first | assumption | intro _ | apply keeps_ite | exact has_ok m rfl | exact within_trans m rfl | apply State.linkEnds_keeps | apply State.postLane_keeps | apply State.fset_keeps | apply keeps_snd_ite | dsimp only | split

theorem State.laneTrain_keeps (h : Keeps L s0 s) (a2 : ℕ) (a3 : ℕ) (a4 : Bool) (lr32 : L.r32 = true := by first | assumption | rfl) (llink : L.link = true := by first | assumption | rfl) (m : within 0x30000000000000000000000000000000000000000000000000000000000000000000000 L.regs = true := by first | with_reducible assumption | (refine within_trans (by assumption) ?_; exact rfl) | rfl) :
    Keeps L s0 (State.laneTrain s a2 a3 a4) := by
  unfold State.laneTrain
  with_reducible repeat' first | assumption | intro _ | apply keeps_ite | exact has_ok m rfl | exact within_trans m rfl | apply State.setLane_keeps | apply State.wr_keeps | apply State.fset_keeps | apply keeps_snd_ite | dsimp only | split

theorem State.trainStart_keeps (h : Keeps L s0 s) (a2 : ℕ) (a3 : ℕ) (a4 : Bool) (lr32 : L.r32 = true := by first | assumption | rfl) (llink : L.link = true := by first | assumption | rfl) (m : within 0x138100000000000000000000000000000000000000000000000000000000000000000000 L.regs = true := by first | with_reducible assumption | (refine within_trans (by assumption) ?_; exact rfl) | rfl) :
    Keeps L s0 (State.trainStart s a2 a3 a4) := by
  unfold State.trainStart
  with_reducible repeat' first | assumption | intro _ | apply keeps_ite | exact has_ok m rfl | exact within_trans m rfl | apply State.when_keeps | apply State.each_keeps | apply State.fset_keeps | apply State.laneTrain_keeps | apply State.portTo_keeps | apply State.abortEyes_keeps | apply State.setPort_keeps | apply keeps_snd_ite | dsimp only | split

theorem State.restart_keeps (h : Keeps L s0 s) (a2 : ℕ) (lr32 : L.r32 = true := by first | assumption | rfl) (lfree : L.free = true := by first | assumption | rfl) (llink : L.link = true := by first | assumption | rfl) (m : within 0x138d00000000000000000000000000000000000000000000000000000000000000000000 L.regs = true := by first | with_reducible assumption | (refine within_trans (by assumption) ?_; exact rfl) | rfl) :
    Keeps L s0 (State.restart s a2) := by
  unfold State.restart
  with_reducible repeat' first | assumption | intro _ | apply keeps_ite | exact has_ok m rfl | exact within_trans m rfl | apply State.abortEyes_keeps | apply State.wr_keeps | apply State.portTo_keeps | apply State.draw_keeps | apply State.driveLanes_keeps | apply State.setPort_keeps | apply State.trainStart_keeps | apply keeps_snd_ite | (refine keeps_of_eq (by assumption) ?_) | dsimp only | split

theorem State.modPut_keeps (h : Keeps L s0 s) (a2 : ℕ) (a3 : ℕ) (a4 : ℕ) (a5 : ℕ) (a6 : List Byte) (llink : L.link = true := by first | assumption | rfl) :
    Keeps L s0 (State.modPut s a2 a3 a4 a5 a6) := by
  unfold State.modPut
  with_reducible repeat' first | assumption | intro _ | apply keeps_ite | apply keeps_snd_ite | dsimp only | split | exact Or.inl (by assumption) | exact Or.inr rfl | refine keeps_mk ?_ rfl rfl ?_ ?_ ?_ ?_ ?_ ?_ ?_ ?_ ?_ ?_ ?_ ?_ ?_ ?_

theorem State.muxSelect_keeps (h : Keeps L s0 s) (a2 : ℕ) (llink : L.link = true := by first | assumption | rfl) :
    Keeps L s0 (State.muxSelect s a2) := by
  unfold State.muxSelect
  with_reducible repeat' first | assumption | intro _ | apply keeps_ite | apply State.setI2c_keeps | apply keeps_snd_ite | dsimp only | split

theorem State.dataPaths_keeps (h : Keeps L s0 s) (a2 : ℕ) (llink : L.link = true := by first | assumption | rfl) :
    Keeps L s0 (State.dataPaths s a2) := by
  unfold State.dataPaths
  with_reducible repeat' first | assumption | intro _ | apply keeps_ite | apply State.each_keeps | apply State.modPut_keeps | apply State.setCage_keeps | apply keeps_snd_ite | dsimp only | split

theorem State.moduleSelect_keeps (h : Keeps L s0 s) (a2 : ℕ) (lr32 : L.r32 = true := by first | assumption | rfl) (lr64 : L.r64 = true := by first | assumption | rfl) (lhost : L.host = true := by first | assumption | rfl) (llink : L.link = true := by first | assumption | rfl) (m : within 0x4000000000000000000000000000000000000000000000001800000000000000000000000 L.regs = true := by first | with_reducible assumption | (refine within_trans (by assumption) ?_; exact rfl) | rfl) :
    Keeps L s0 (State.moduleSelect s a2) := by
  unfold State.moduleSelect
  with_reducible repeat' first | assumption | intro _ | apply keeps_ite | exact has_ok m rfl | exact within_trans m rfl | apply State.muxSelect_keeps | apply State.postLane_keeps | apply State.fset_keeps | apply State.dataPaths_keeps | apply State.setCage_keeps | apply keeps_snd_ite | dsimp only | split

theorem State.ownRun_keeps (h : Keeps L s0 s) (a2 : OwnAccess) (lr32 : L.r32 = true := by first | assumption | rfl) (lr64 : L.r64 = true := by first | assumption | rfl) (lhost : L.host = true := by first | assumption | rfl) (llink : L.link = true := by first | assumption | rfl) (m : within 0x4000000000000000000000000000000000000000000000001800000000000000000000000 L.regs = true := by first | with_reducible assumption | (refine within_trans (by assumption) ?_; exact rfl) | rfl) :
    Keeps L s0 (State.ownRun s a2) := by
  unfold State.ownRun
  with_reducible repeat' first | assumption | intro _ | apply keeps_ite | exact has_ok m rfl | exact within_trans m rfl | apply State.setCage_keeps | apply State.muxSelect_keeps | apply State.moduleSelect_keeps | apply State.postLane_keeps | apply State.fset_keeps | apply keeps_snd_ite | dsimp only | split

theorem State.ownAccess_keeps (h : Keeps L s0 s) (a2 : ℕ) (a3 : OwnAccess) (lr32 : L.r32 = true := by first | assumption | rfl) (lr64 : L.r64 = true := by first | assumption | rfl) (lhost : L.host = true := by first | assumption | rfl) (llink : L.link = true := by first | assumption | rfl) (m : within 0x4000000000000000000000000000000000000000000000001800000000000000000000000 L.regs = true := by first | with_reducible assumption | (refine within_trans (by assumption) ?_; exact rfl) | rfl) :
    Keeps L s0 (State.ownAccess s a2 a3) := by
  unfold State.ownAccess
  with_reducible repeat' first | assumption | intro _ | apply keeps_ite | exact has_ok m rfl | exact within_trans m rfl | apply State.setI2c_keeps | apply State.each_keeps | apply State.ownRun_keeps | apply keeps_snd_ite | dsimp only | split

theorem State.portSafe_keeps (h : Keeps L s0 s) (a2 : ℕ) (lr32 : L.r32 = true := by first | assumption | rfl) (lr64 : L.r64 = true := by first | assumption | rfl) (lfree : L.free = true := by first | assumption | rfl) (lmem : L.mem = true := by first | assumption | rfl) (lhost : L.host = true := by first | assumption | rfl) (llink : L.link = true := by first | assumption | rfl) (lpower : L.power = true := by first | assumption | rfl) (lsquall : L.squall = true := by first | assumption | rfl) (ltm : L.tm = true := by first | assumption | rfl) (lcirrus : L.cirrus = true := by first | assumption | rfl) (m : within 0x1502800100100001000580170080000000000000000000000822801b80000000000008001082000 L.regs = true := by first | with_reducible assumption | (refine within_trans (by assumption) ?_; exact rfl) | rfl) :
    Keeps L s0 (State.portSafe s a2) := by
  unfold State.portSafe
  with_reducible repeat' first | assumption | intro _ | apply keeps_ite | exact has_ok m rfl | exact within_trans m rfl | apply State.portTo_keeps | apply State.fset_keeps | apply State.leaveUp_keeps | apply State.abortEyes_keeps | apply State.driveLanes_keeps | apply keeps_snd_ite | dsimp only | split

theorem State.laneSafe_keeps (h : Keeps L s0 s) (a2 : ℕ) (lr32 : L.r32 = true := by first | assumption | rfl) (lr64 : L.r64 = true := by first | assumption | rfl) (lfree : L.free = true := by first | assumption | rfl) (lmem : L.mem = true := by first | assumption | rfl) (lhost : L.host = true := by first | assumption | rfl) (llink : L.link = true := by first | assumption | rfl) (lpower : L.power = true := by first | assumption | rfl) (lsquall : L.squall = true := by first | assumption | rfl) (ltm : L.tm = true := by first | assumption | rfl) (lcirrus : L.cirrus = true := by first | assumption | rfl) (m : within 0x1502800100100001000580170080000000000000000000000822801b80000000000008001082000 L.regs = true := by first | with_reducible assumption | (refine within_trans (by assumption) ?_; exact rfl) | rfl) :
    Keeps L s0 (State.laneSafe s a2) := by
  unfold State.laneSafe
  with_reducible repeat' first | assumption | intro _ | apply keeps_ite | exact has_ok m rfl | exact within_trans m rfl | apply State.portSafe_keeps | apply keeps_snd_ite | dsimp only | split

theorem State.linkDown_keeps (h : Keeps L s0 s) (a2 : ℕ) (a3 : ℕ) (lr32 : L.r32 = true := by first | assumption | rfl) (lr64 : L.r64 = true := by first | assumption | rfl) (lfree : L.free = true := by first | assumption | rfl) (lmem : L.mem = true := by first | assumption | rfl) (lhost : L.host = true := by first | assumption | rfl) (llink : L.link = true := by first | assumption | rfl) (lpower : L.power = true := by first | assumption | rfl) (lsquall : L.squall = true := by first | assumption | rfl) (ltm : L.tm = true := by first | assumption | rfl) (lcirrus : L.cirrus = true := by first | assumption | rfl) (m : within 0x1502800138d00001000580170080000000000000000000000822801b80000000000008001082000 L.regs = true := by first | with_reducible assumption | (refine within_trans (by assumption) ?_; exact rfl) | rfl) :
    Keeps L s0 (State.linkDown s a2 a3) := by
  unfold State.linkDown
  with_reducible repeat' first | assumption | intro _ | apply keeps_ite | exact has_ok m rfl | exact within_trans m rfl | apply State.restart_keeps | apply State.leaveUp_keeps | apply keeps_snd_ite | dsimp only | split

theorem State.portStart_keeps (h : Keeps L s0 s) (a2 : ℕ) (lr32 : L.r32 = true := by first | assumption | rfl) (lr64 : L.r64 = true := by first | assumption | rfl) (lfree : L.free = true := by first | assumption | rfl) (lhost : L.host = true := by first | assumption | rfl) (llink : L.link = true := by first | assumption | rfl) (ltm : L.tm = true := by first | assumption | rfl) (m : within 0x413fd00000000000000000000000000000000000000000001800000000000000000000000 L.regs = true := by first | with_reducible assumption | (refine within_trans (by assumption) ?_; exact rfl) | rfl) :
    Keeps L s0 (State.portStart s a2) := by
  unfold State.portStart
  with_reducible repeat' first | assumption | intro _ | apply keeps_ite | exact has_ok m rfl | exact within_trans m rfl | apply State.setPort_keeps | apply State.wrw_keeps | apply State.wr_keeps | apply State.each_keeps | apply State.setLane_keeps | apply State.nimbusPortReset_keeps | apply State.portTo_keeps | apply State.fset_keeps | apply State.driveLanes_keeps | apply State.restart_keeps | apply State.ownAccess_keeps | apply keeps_snd_ite | dsimp only | split

theorem State.portStop_keeps (h : Keeps L s0 s) (a2 : ℕ) (lr32 : L.r32 = true := by first | assumption | rfl) (lr64 : L.r64 = true := by first | assumption | rfl) (lfree : L.free = true := by first | assumption | rfl) (lmem : L.mem = true := by first | assumption | rfl) (lhost : L.host = true := by first | assumption | rfl) (llink : L.link = true := by first | assumption | rfl) (lpower : L.power = true := by first | assumption | rfl) (lsquall : L.squall = true := by first | assumption | rfl) (ltm : L.tm = true := by first | assumption | rfl) (lcirrus : L.cirrus = true := by first | assumption | rfl) (m : within 0x1502800100180001000580170080000000000000000000000822801b80000000000008001082000 L.regs = true := by first | with_reducible assumption | (refine within_trans (by assumption) ?_; exact rfl) | rfl) :
    Keeps L s0 (State.portStop s a2) := by
  unfold State.portStop
  with_reducible repeat' first | assumption | intro _ | apply keeps_ite | exact has_ok m rfl | exact within_trans m rfl | apply State.driveLanes_keeps | apply State.abortEyes_keeps | apply State.linkEnds_keeps | apply State.flushPort_keeps | apply State.setPort_keeps | apply State.portTo_keeps | apply State.fset_keeps | apply keeps_snd_ite | dsimp only | split

theorem State.portCfgWrite_keeps (h : Keeps L s0 s) (a2 : ℕ) (a3 : Word) (lr32 : L.r32 = true := by first | assumption | rfl) (lr64 : L.r64 = true := by first | assumption | rfl) (lfree : L.free = true := by first | assumption | rfl) (lmem : L.mem = true := by first | assumption | rfl) (lhost : L.host = true := by first | assumption | rfl) (llink : L.link = true := by first | assumption | rfl) (lpower : L.power = true := by first | assumption | rfl) (lsquall : L.squall = true := by first | assumption | rfl) (ltm : L.tm = true := by first | assumption | rfl) (lcirrus : L.cirrus = true := by first | assumption | rfl) (m : within 0x150280413fd80001000580170080000000000000000000000822801b80000000000008001082000 L.regs = true := by first | with_reducible assumption | (refine within_trans (by assumption) ?_; exact rfl) | rfl) :
    Keeps L s0 (State.portCfgWrite s a2 a3) := by
  unfold State.portCfgWrite
  with_reducible repeat' first | assumption | intro _ | apply keeps_ite | exact has_ok m rfl | exact within_trans m rfl | apply State.portStop_keeps | apply State.wr_keeps | apply State.portStart_keeps | apply keeps_snd_ite | dsimp only | split

theorem State.eiExit_keeps (h : Keeps L s0 s) (a2 : ℕ) (lr32 : L.r32 = true := by first | assumption | rfl) (lfree : L.free = true := by first | assumption | rfl) (llink : L.link = true := by first | assumption | rfl) (m : within 0x100000000000000000000000000000000000000000000000000000000000000000000 L.regs = true := by first | with_reducible assumption | (refine within_trans (by assumption) ?_; exact rfl) | rfl) :
    Keeps L s0 (State.eiExit s a2) := by
  unfold State.eiExit
  with_reducible repeat' first | assumption | intro _ | apply keeps_ite | exact has_ok m rfl | exact within_trans m rfl | apply State.driveLanes_keeps | apply State.wakeBurst_keeps | apply State.fset_keeps | apply keeps_snd_ite | dsimp only | split

theorem execPortEnable_keeps (h : Keeps L s0 s) (a1 : ℕ) (a2 : Word) (lr32 : L.r32 = true := by first | assumption | rfl) (lr64 : L.r64 = true := by first | assumption | rfl) (lfree : L.free = true := by first | assumption | rfl) (lmem : L.mem = true := by first | assumption | rfl) (lhost : L.host = true := by first | assumption | rfl) (llink : L.link = true := by first | assumption | rfl) (lpower : L.power = true := by first | assumption | rfl) (lsquall : L.squall = true := by first | assumption | rfl) (ltm : L.tm = true := by first | assumption | rfl) (lcirrus : L.cirrus = true := by first | assumption | rfl) (m : within 0x150280413fd80001000580170080000000000000000000000822801b80000000000008001082000 L.regs = true := by first | with_reducible assumption | (refine within_trans (by assumption) ?_; exact rfl) | rfl) :
    ∃ t, execPortEnable a1 a2 s = .next t ∧ Keeps L s0 t := by
  unfold execPortEnable
  refine ⟨_, rfl, ?_⟩
  with_reducible repeat' first | assumption | intro _ | apply keeps_ite | exact has_ok m rfl | exact within_trans m rfl | apply State.portCfgWrite_keeps | apply keeps_snd_ite | dsimp only | split

theorem execPortDisable_keeps (h : Keeps L s0 s) (a1 : ℕ) (lr32 : L.r32 = true := by first | assumption | rfl) (lr64 : L.r64 = true := by first | assumption | rfl) (lfree : L.free = true := by first | assumption | rfl) (lmem : L.mem = true := by first | assumption | rfl) (lhost : L.host = true := by first | assumption | rfl) (llink : L.link = true := by first | assumption | rfl) (lpower : L.power = true := by first | assumption | rfl) (lsquall : L.squall = true := by first | assumption | rfl) (ltm : L.tm = true := by first | assumption | rfl) (lcirrus : L.cirrus = true := by first | assumption | rfl) (m : within 0x150280413fd80001000580170080000000000000000000000822801b80000000000008001082000 L.regs = true := by first | with_reducible assumption | (refine within_trans (by assumption) ?_; exact rfl) | rfl) :
    ∃ t, execPortDisable a1 s = .next t ∧ Keeps L s0 t := by
  unfold execPortDisable
  refine ⟨_, rfl, ?_⟩
  with_reducible repeat' first | assumption | intro _ | apply keeps_ite | exact has_ok m rfl | exact within_trans m rfl | apply State.portCfgWrite_keeps | apply keeps_snd_ite | dsimp only | split

theorem State.txgrpWrite_keeps (h : Keeps L s0 s) (a2 : ℕ) (a3 : Word) (lr32 : L.r32 = true := by first | assumption | rfl) (m : within 0x40000000000000000000000000000000000000000000000000000000000000000000 L.regs = true := by first | with_reducible assumption | (refine within_trans (by assumption) ?_; exact rfl) | rfl) :
    Keeps L s0 (State.txgrpWrite s a2 a3) := by
  unfold State.txgrpWrite
  with_reducible repeat' first | assumption | intro _ | apply keeps_ite | exact has_ok m rfl | exact within_trans m rfl | apply State.fset_keeps | apply keeps_snd_ite | dsimp only | split

theorem execTxgrpCfgWrite_keeps (h : Keeps L s0 s) (a1 : ℕ) (a2 : Word) (lr32 : L.r32 = true := by first | assumption | rfl) (m : within 0x40000000000000000000000000000000000000000000000000000000000000000000 L.regs = true := by first | with_reducible assumption | (refine within_trans (by assumption) ?_; exact rfl) | rfl) :
    ∃ t, execTxgrpCfgWrite a1 a2 s = .next t ∧ Keeps L s0 t := by
  unfold execTxgrpCfgWrite
  refine ⟨_, rfl, ?_⟩
  with_reducible repeat' first | assumption | intro _ | apply keeps_ite | exact has_ok m rfl | exact within_trans m rfl | apply State.txgrpWrite_keeps | apply keeps_snd_ite | dsimp only | split

theorem execAnPageReceived_keeps (h : Keeps L s0 s) (a1 : ℕ) (a2 : BitVec 6) (a3 : Word) (lr32 : L.r32 = true := by first | assumption | rfl) (lr64 : L.r64 = true := by first | assumption | rfl) (lhost : L.host = true := by first | assumption | rfl) (llink : L.link = true := by first | assumption | rfl) (m : within 0x138900000000000000000000000000000000000000000001800000000000000000000000 L.regs = true := by first | with_reducible assumption | (refine within_trans (by assumption) ?_; exact rfl) | rfl) :
    ∃ t, execAnPageReceived a1 a2 a3 s = .next t ∧ Keeps L s0 t := by
  unfold execAnPageReceived
  refine ⟨_, rfl, ?_⟩
  with_reducible repeat' first | assumption | intro _ | apply keeps_ite | exact has_ok m rfl | exact within_trans m rfl | apply State.fset_keeps | apply State.wr_keeps | apply State.setPort_keeps | apply State.trainStart_keeps | apply State.postLane_keeps | apply keeps_snd_ite | dsimp only | split

theorem execAnRetryTimer_keeps (h : Keeps L s0 s) (a1 : ℕ) (lr32 : L.r32 = true := by first | assumption | rfl) (lfree : L.free = true := by first | assumption | rfl) (llink : L.link = true := by first | assumption | rfl) (m : within 0x138d00000000000000000000000000000000000000000000000000000000000000000000 L.regs = true := by first | with_reducible assumption | (refine within_trans (by assumption) ?_; exact rfl) | rfl) :
    ∃ t, execAnRetryTimer a1 s = .next t ∧ Keeps L s0 t := by
  unfold execAnRetryTimer
  refine ⟨_, rfl, ?_⟩
  with_reducible repeat' first | assumption | intro _ | apply keeps_ite | exact has_ok m rfl | exact within_trans m rfl | apply State.restart_keeps | apply keeps_snd_ite | dsimp only | split

theorem State.laneTrained_keeps (h : Keeps L s0 s) (a2 : ℕ) (a3 : ℕ) (a4 : TrainLane) (lr32 : L.r32 = true := by first | assumption | rfl) (llink : L.link = true := by first | assumption | rfl) (m : within 0x30000000000000000000000000000000000000000000000000000000000000000000000 L.regs = true := by first | with_reducible assumption | (refine within_trans (by assumption) ?_; exact rfl) | rfl) :
    Keeps L s0 (State.laneTrained s a2 a3 a4) := by
  unfold State.laneTrained
  with_reducible repeat' first | assumption | intro _ | apply keeps_ite | exact has_ok m rfl | exact within_trans m rfl | apply State.wr_keeps | apply State.setLane_keeps | apply State.fset_keeps | apply keeps_snd_ite | dsimp only | split

theorem execTrainComplete_keeps (h : Keeps L s0 s) (a1 : ℕ) (a2 : List TrainLane) (lr32 : L.r32 = true := by first | assumption | rfl) (lfree : L.free = true := by first | assumption | rfl) (llink : L.link = true := by first | assumption | rfl) (m : within 0x30100000000000000000000000000000000000000000000000000000000000000000000 L.regs = true := by first | with_reducible assumption | (refine within_trans (by assumption) ?_; exact rfl) | rfl) :
    ∃ t, execTrainComplete a1 a2 s = .next t ∧ Keeps L s0 t := by
  unfold execTrainComplete
  refine ⟨_, rfl, ?_⟩
  with_reducible repeat' first | assumption | intro _ | apply keeps_ite | exact has_ok m rfl | exact within_trans m rfl | apply State.each_keeps | apply State.laneTrained_keeps | apply State.streamStart_keeps | apply State.portTo_keeps | apply keeps_snd_ite | dsimp only | split

theorem execTrainTimeout_keeps (h : Keeps L s0 s) (a1 : ℕ) (lr32 : L.r32 = true := by first | assumption | rfl) (lr64 : L.r64 = true := by first | assumption | rfl) (lfree : L.free = true := by first | assumption | rfl) (lhost : L.host = true := by first | assumption | rfl) (llink : L.link = true := by first | assumption | rfl) (m : within 0x138d00000000000000000000000000000000000000000001800000000000000000000000 L.regs = true := by first | with_reducible assumption | (refine within_trans (by assumption) ?_; exact rfl) | rfl) :
    ∃ t, execTrainTimeout a1 s = .next t ∧ Keeps L s0 t := by
  unfold execTrainTimeout
  refine ⟨_, rfl, ?_⟩
  with_reducible repeat' first | assumption | intro _ | apply keeps_ite | exact has_ok m rfl | exact within_trans m rfl | apply State.restart_keeps | apply State.postLane_keeps | apply keeps_snd_ite | dsimp only | split

theorem execHistTrainTimeout_keeps (h : Keeps L s0 s) (a1 : ℕ) (lr32 : L.r32 = true := by first | assumption | rfl) (llink : L.link = true := by first | assumption | rfl) (m : within 0x138100000000000000000000000000000000000000000000000000000000000000000000 L.regs = true := by first | with_reducible assumption | (refine within_trans (by assumption) ?_; exact rfl) | rfl) :
    ∃ t, execHistTrainTimeout a1 s = .next t ∧ Keeps L s0 t := by
  unfold execHistTrainTimeout
  refine ⟨_, rfl, ?_⟩
  with_reducible repeat' first | assumption | intro _ | apply keeps_ite | exact has_ok m rfl | exact within_trans m rfl | apply State.trainStart_keeps | apply keeps_snd_ite | dsimp only | split

theorem State.histRecord_keeps (h : Keeps L s0 s) (a2 : ℕ) (lr32 : L.r32 = true := by first | assumption | rfl) (m : within 0x1008000000000000000000000000000000000000000000000000000000000000000000000 L.regs = true := by first | with_reducible assumption | (refine within_trans (by assumption) ?_; exact rfl) | rfl) :
    Keeps L s0 (State.histRecord s a2) := by
  unfold State.histRecord
  with_reducible repeat' first | assumption | intro _ | apply keeps_ite | exact has_ok m rfl | exact within_trans m rfl | apply State.each_keeps | apply State.wr_keeps | apply State.fset_keeps | apply keeps_snd_ite | dsimp only | split

theorem execAlignLock_keeps (h : Keeps L s0 s) (a1 : ℕ) (a2 : ℕ) (lr32 : L.r32 = true := by first | assumption | rfl) (lr64 : L.r64 = true := by first | assumption | rfl) (lfree : L.free = true := by first | assumption | rfl) (lmem : L.mem = true := by first | assumption | rfl) (lhost : L.host = true := by first | assumption | rfl) (llink : L.link = true := by first | assumption | rfl) (lsquall : L.squall = true := by first | assumption | rfl) (ltm : L.tm = true := by first | assumption | rfl) (m : within 0x1400001008100001000000030000000000000000000000000822801b80000000000000001082000 L.regs = true := by first | with_reducible assumption | (refine within_trans (by assumption) ?_; exact rfl) | rfl) :
    ∃ t, execAlignLock a1 a2 s = .next t ∧ Keeps L s0 t := by
  unfold execAlignLock
  refine ⟨_, rfl, ?_⟩
  with_reducible repeat' first | assumption | intro _ | apply keeps_ite | exact has_ok m rfl | exact within_trans m rfl | apply State.postLane_keeps | apply State.histRecord_keeps | apply State.fset_keeps | apply State.portTo_keeps | apply State.pauseAtUp_keeps | apply State.sendBlks_keeps | apply keeps_snd_ite | dsimp only | split

theorem execAlignTimeout_keeps (h : Keeps L s0 s) (a1 : ℕ) (lr32 : L.r32 = true := by first | assumption | rfl) (lfree : L.free = true := by first | assumption | rfl) (llink : L.link = true := by first | assumption | rfl) (m : within 0x138d00000000000000000000000000000000000000000000000000000000000000000000 L.regs = true := by first | with_reducible assumption | (refine within_trans (by assumption) ?_; exact rfl) | rfl) :
    ∃ t, execAlignTimeout a1 s = .next t ∧ Keeps L s0 t := by
  unfold execAlignTimeout
  refine ⟨_, rfl, ?_⟩
  with_reducible repeat' first | assumption | intro _ | apply keeps_ite | exact has_ok m rfl | exact within_trans m rfl | apply State.restart_keeps | apply keeps_snd_ite | dsimp only | split

theorem execMarkerReceive_keeps (h : Keeps L s0 s) (a1 : ℕ) (a2 : ℕ) (a3 : ℕ) (a4 : ℕ) (a5 : ℕ) (a6 : ℕ) (a7 : Bool) (a8 : Bool) (a9 : BitVec 16) (lr32 : L.r32 = true := by first | assumption | rfl) (llink : L.link = true := by first | assumption | rfl) (m : within 0x10000000000000000000000000000000000000000000000000000000000000000000000 L.regs = true := by first | with_reducible assumption | (refine within_trans (by assumption) ?_; exact rfl) | rfl) :
    ∃ t, execMarkerReceive a1 a2 a3 a4 a5 a6 a7 a8 a9 s = .next t ∧ Keeps L s0 t := by
  unfold execMarkerReceive
  refine ⟨_, rfl, ?_⟩
  with_reducible repeat' first | assumption | intro _ | apply keeps_ite | exact has_ok m rfl | exact within_trans m rfl | apply State.setLane_keeps | apply State.fset_keeps | apply State.setPort_keeps | apply State.each_keeps | apply keeps_snd_ite | dsimp only | split

theorem execMarkerMiss_keeps (h : Keeps L s0 s) (a1 : ℕ) (lr32 : L.r32 = true := by first | assumption | rfl) (lr64 : L.r64 = true := by first | assumption | rfl) (lfree : L.free = true := by first | assumption | rfl) (lmem : L.mem = true := by first | assumption | rfl) (lhost : L.host = true := by first | assumption | rfl) (llink : L.link = true := by first | assumption | rfl) (lpower : L.power = true := by first | assumption | rfl) (lsquall : L.squall = true := by first | assumption | rfl) (ltm : L.tm = true := by first | assumption | rfl) (lcirrus : L.cirrus = true := by first | assumption | rfl) (m : within 0x1502800138d00001000580170080000000000000000000000822801b80000000000008001082000 L.regs = true := by first | with_reducible assumption | (refine within_trans (by assumption) ?_; exact rfl) | rfl) :
    ∃ t, execMarkerMiss a1 s = .next t ∧ Keeps L s0 t := by
  unfold execMarkerMiss
  refine ⟨_, rfl, ?_⟩
  with_reducible repeat' first | assumption | intro _ | apply keeps_ite | exact has_ok m rfl | exact within_trans m rfl | apply State.setLane_keeps | apply State.fset_keeps | apply State.linkDown_keeps | apply keeps_snd_ite | dsimp only | split

theorem execLossOfSignal_keeps (h : Keeps L s0 s) (a1 : ℕ) (lr32 : L.r32 = true := by first | assumption | rfl) (lr64 : L.r64 = true := by first | assumption | rfl) (lfree : L.free = true := by first | assumption | rfl) (lmem : L.mem = true := by first | assumption | rfl) (lhost : L.host = true := by first | assumption | rfl) (llink : L.link = true := by first | assumption | rfl) (lpower : L.power = true := by first | assumption | rfl) (lsquall : L.squall = true := by first | assumption | rfl) (ltm : L.tm = true := by first | assumption | rfl) (lcirrus : L.cirrus = true := by first | assumption | rfl) (m : within 0x1502800138d00001000580170080000000000000000000000822801b80000000000008001082000 L.regs = true := by first | with_reducible assumption | (refine within_trans (by assumption) ?_; exact rfl) | rfl) :
    ∃ t, execLossOfSignal a1 s = .next t ∧ Keeps L s0 t := by
  unfold execLossOfSignal
  refine ⟨_, rfl, ?_⟩
  with_reducible repeat' first | assumption | intro _ | apply keeps_ite | exact has_ok m rfl | exact within_trans m rfl | apply State.fset_keeps | apply State.linkDown_keeps | apply keeps_snd_ite | dsimp only | split

theorem execHiSer_keeps (h : Keeps L s0 s) (a1 : ℕ) (a2 : ℕ) (a3 : ℕ) (a4 : ℕ) (lr32 : L.r32 = true := by first | assumption | rfl) (lr64 : L.r64 = true := by first | assumption | rfl) (lfree : L.free = true := by first | assumption | rfl) (lmem : L.mem = true := by first | assumption | rfl) (lhost : L.host = true := by first | assumption | rfl) (llink : L.link = true := by first | assumption | rfl) (lpower : L.power = true := by first | assumption | rfl) (lsquall : L.squall = true := by first | assumption | rfl) (ltm : L.tm = true := by first | assumption | rfl) (lcirrus : L.cirrus = true := by first | assumption | rfl) (m : within 0x150280013fd00001000580170080000000000000000000000822801b80000000000008001082000 L.regs = true := by first | with_reducible assumption | (refine within_trans (by assumption) ?_; exact rfl) | rfl) :
    ∃ t, execHiSer a1 a2 a3 a4 s = .next t ∧ Keeps L s0 t := by
  unfold execHiSer
  refine ⟨_, rfl, ?_⟩
  with_reducible repeat' first | assumption | intro _ | apply keeps_ite | exact has_ok m rfl | exact within_trans m rfl | apply State.bump_keeps | apply State.setLane_keeps | apply State.fset_keeps | apply State.linkDown_keeps | apply keeps_snd_ite | dsimp only | split

theorem execFaultOrderedSet_keeps (h : Keeps L s0 s) (a1 : ℕ) (a2 : ℕ) (llink : L.link = true := by first | assumption | rfl) :
    ∃ t, execFaultOrderedSet a1 a2 s = .next t ∧ Keeps L s0 t := by
  unfold execFaultOrderedSet
  refine ⟨_, rfl, ?_⟩
  with_reducible repeat' first | assumption | intro _ | apply keeps_ite | apply State.setPort_keeps | apply keeps_snd_ite | dsimp only | split

theorem execLossOfLock_keeps (h : Keeps L s0 s) (a1 : ℕ) (lr32 : L.r32 = true := by first | assumption | rfl) (lr64 : L.r64 = true := by first | assumption | rfl) (lfree : L.free = true := by first | assumption | rfl) (lmem : L.mem = true := by first | assumption | rfl) (lhost : L.host = true := by first | assumption | rfl) (llink : L.link = true := by first | assumption | rfl) (lpower : L.power = true := by first | assumption | rfl) (lsquall : L.squall = true := by first | assumption | rfl) (ltm : L.tm = true := by first | assumption | rfl) (lcirrus : L.cirrus = true := by first | assumption | rfl) (m : within 0x1502800138d00001000580170080000000000000000000000822801b80000000000008001082000 L.regs = true := by first | with_reducible assumption | (refine within_trans (by assumption) ?_; exact rfl) | rfl) :
    ∃ t, execLossOfLock a1 s = .next t ∧ Keeps L s0 t := by
  unfold execLossOfLock
  refine ⟨_, rfl, ?_⟩
  with_reducible repeat' first | assumption | intro _ | apply keeps_ite | exact has_ok m rfl | exact within_trans m rfl | apply State.linkDown_keeps | apply keeps_snd_ite | dsimp only | split

theorem execAdaptationUpdate_keeps (h : Keeps L s0 s) (a1 : ℕ) (a2 : ℕ) (a3 : Bool) (llink : L.link = true := by first | assumption | rfl) :
    ∃ t, execAdaptationUpdate a1 a2 a3 s = .next t ∧ Keeps L s0 t := by
  unfold execAdaptationUpdate
  refine ⟨_, rfl, ?_⟩
  with_reducible repeat' first | assumption | intro _ | apply keeps_ite | apply State.setLane_keeps | apply keeps_snd_ite | dsimp only | split

theorem execEiHoldExpire_keeps (h : Keeps L s0 s) (a1 : ℕ) (a2 : ℕ) (lr32 : L.r32 = true := by first | assumption | rfl) (llink : L.link = true := by first | assumption | rfl) (m : within 0x100000000000000000000000000000000000000000000000000000000000000000000 L.regs = true := by first | with_reducible assumption | (refine within_trans (by assumption) ?_; exact rfl) | rfl) :
    ∃ t, execEiHoldExpire a1 a2 s = .next t ∧ Keeps L s0 t := by
  unfold execEiHoldExpire
  refine ⟨_, rfl, ?_⟩
  with_reducible repeat' first | assumption | intro _ | apply keeps_ite | exact has_ok m rfl | exact within_trans m rfl | apply State.each_keeps | apply State.setLane_keeps | apply State.driveLanes_keeps | apply State.fset_keeps | apply State.sendBlks_keeps | apply keeps_snd_ite | dsimp only | split

theorem execRxEiEntry_keeps (h : Keeps L s0 s) (a1 : ℕ) (lr32 : L.r32 = true := by first | assumption | rfl) (llink : L.link = true := by first | assumption | rfl) (m : within 0x10100000000000000000000000000000000000000000000000000000000000000000000 L.regs = true := by first | with_reducible assumption | (refine within_trans (by assumption) ?_; exact rfl) | rfl) :
    ∃ t, execRxEiEntry a1 s = .next t ∧ Keeps L s0 t := by
  unfold execRxEiEntry
  refine ⟨_, rfl, ?_⟩
  with_reducible repeat' first | assumption | intro _ | apply keeps_ite | exact has_ok m rfl | exact within_trans m rfl | apply State.each_keeps | apply State.fset_keeps | apply State.setLane_keeps | apply keeps_snd_ite | dsimp only | split

theorem execEiWake_keeps (h : Keeps L s0 s) (a1 : ℕ) (lr32 : L.r32 = true := by first | assumption | rfl) (lfree : L.free = true := by first | assumption | rfl) (llink : L.link = true := by first | assumption | rfl) (m : within 0x100000000000000000000000000000000000000000000000000000000000000000000 L.regs = true := by first | with_reducible assumption | (refine within_trans (by assumption) ?_; exact rfl) | rfl) :
    ∃ t, execEiWake a1 s = .next t ∧ Keeps L s0 t := by
  unfold execEiWake
  refine ⟨_, rfl, ?_⟩
  with_reducible repeat' first | assumption | intro _ | apply keeps_ite | exact has_ok m rfl | exact within_trans m rfl | apply State.eiExit_keeps | apply keeps_snd_ite | dsimp only | split

theorem execWakeMarker_keeps (h : Keeps L s0 s) (a1 : ℕ) (lr32 : L.r32 = true := by first | assumption | rfl) (llink : L.link = true := by first | assumption | rfl) (m : within 0x10100000000000000000000000000000000000000000000000000000000000000000000 L.regs = true := by first | with_reducible assumption | (refine within_trans (by assumption) ?_; exact rfl) | rfl) :
    ∃ t, execWakeMarker a1 s = .next t ∧ Keeps L s0 t := by
  unfold execWakeMarker
  refine ⟨_, rfl, ?_⟩
  with_reducible repeat' first | assumption | intro _ | apply keeps_ite | exact has_ok m rfl | exact within_trans m rfl | apply State.each_keeps | apply State.fset_keeps | apply State.setLane_keeps | apply keeps_snd_ite | dsimp only | split

theorem execWakeTimeout_keeps (h : Keeps L s0 s) (a1 : ℕ) (lr32 : L.r32 = true := by first | assumption | rfl) (lr64 : L.r64 = true := by first | assumption | rfl) (lfree : L.free = true := by first | assumption | rfl) (lmem : L.mem = true := by first | assumption | rfl) (lhost : L.host = true := by first | assumption | rfl) (llink : L.link = true := by first | assumption | rfl) (lpower : L.power = true := by first | assumption | rfl) (lsquall : L.squall = true := by first | assumption | rfl) (ltm : L.tm = true := by first | assumption | rfl) (lcirrus : L.cirrus = true := by first | assumption | rfl) (m : within 0x1502800138d00001000580170080000000000000000000000822801b80000000000008001082000 L.regs = true := by first | with_reducible assumption | (refine within_trans (by assumption) ?_; exact rfl) | rfl) :
    ∃ t, execWakeTimeout a1 s = .next t ∧ Keeps L s0 t := by
  unfold execWakeTimeout
  refine ⟨_, rfl, ?_⟩
  with_reducible repeat' first | assumption | intro _ | apply keeps_ite | exact has_ok m rfl | exact within_trans m rfl | apply State.linkDown_keeps | apply keeps_snd_ite | dsimp only | split

theorem State.toDeep_keeps (h : Keeps L s0 s) (a2 : ℕ) (a3 : Bool) (lr32 : L.r32 = true := by first | assumption | rfl) (lr64 : L.r64 = true := by first | assumption | rfl) (lfree : L.free = true := by first | assumption | rfl) (lmem : L.mem = true := by first | assumption | rfl) (lhost : L.host = true := by first | assumption | rfl) (llink : L.link = true := by first | assumption | rfl) (lpower : L.power = true := by first | assumption | rfl) (lsquall : L.squall = true := by first | assumption | rfl) (ltm : L.tm = true := by first | assumption | rfl) (lcirrus : L.cirrus = true := by first | assumption | rfl) (m : within 0x1502800110100001000580170080000000000000000000000822801b80000000000008001082000 L.regs = true := by first | with_reducible assumption | (refine within_trans (by assumption) ?_; exact rfl) | rfl) :
    Keeps L s0 (State.toDeep s a2 a3) := by
  unfold State.toDeep
  with_reducible repeat' first | assumption | intro _ | apply keeps_ite | exact has_ok m rfl | exact within_trans m rfl | apply State.driveLanes_keeps | apply State.abortEyes_keeps | apply State.portTo_keeps | apply State.linkEnds_keeps | apply State.each_keeps | apply State.fset_keeps | apply State.setPort_keeps | apply keeps_snd_ite | dsimp only | split

theorem State.fromDeep_keeps (h : Keeps L s0 s) (a2 : ℕ) (lr32 : L.r32 = true := by first | assumption | rfl) (llink : L.link = true := by first | assumption | rfl) (m : within 0x138100000000000000000000000000000000000000000000000000000000000000000000 L.regs = true := by first | with_reducible assumption | (refine within_trans (by assumption) ?_; exact rfl) | rfl) :
    Keeps L s0 (State.fromDeep s a2) := by
  unfold State.fromDeep
  with_reducible repeat' first | assumption | intro _ | apply keeps_ite | exact has_ok m rfl | exact within_trans m rfl | apply State.trainStart_keeps | apply keeps_snd_ite | dsimp only | split

theorem execDeepEnter_keeps (h : Keeps L s0 s) (a1 : ℕ) (lr32 : L.r32 = true := by first | assumption | rfl) (lr64 : L.r64 = true := by first | assumption | rfl) (lfree : L.free = true := by first | assumption | rfl) (lmem : L.mem = true := by first | assumption | rfl) (lhost : L.host = true := by first | assumption | rfl) (llink : L.link = true := by first | assumption | rfl) (lpower : L.power = true := by first | assumption | rfl) (lsquall : L.squall = true := by first | assumption | rfl) (ltm : L.tm = true := by first | assumption | rfl) (lcirrus : L.cirrus = true := by first | assumption | rfl) (m : within 0x1502800110100001000580170080000000000000000000000822801b80000000000008001082000 L.regs = true := by first | with_reducible assumption | (refine within_trans (by assumption) ?_; exact rfl) | rfl) :
    ∃ t, execDeepEnter a1 s = .next t ∧ Keeps L s0 t := by
  unfold execDeepEnter
  refine ⟨_, rfl, ?_⟩
  with_reducible repeat' first | assumption | intro _ | apply keeps_ite | exact has_ok m rfl | exact within_trans m rfl | apply State.toDeep_keeps | apply keeps_snd_ite | dsimp only | split

theorem execDeepWake_keeps (h : Keeps L s0 s) (a1 : ℕ) (lr32 : L.r32 = true := by first | assumption | rfl) (llink : L.link = true := by first | assumption | rfl) (m : within 0x138100000000000000000000000000000000000000000000000000000000000000000000 L.regs = true := by first | with_reducible assumption | (refine within_trans (by assumption) ?_; exact rfl) | rfl) :
    ∃ t, execDeepWake a1 s = .next t ∧ Keeps L s0 t := by
  unfold execDeepWake
  refine ⟨_, rfl, ?_⟩
  with_reducible repeat' first | assumption | intro _ | apply keeps_ite | exact has_ok m rfl | exact within_trans m rfl | apply State.fromDeep_keeps | apply keeps_snd_ite | dsimp only | split

theorem execPartnerDeepEntry_keeps (h : Keeps L s0 s) (a1 : ℕ) (lr32 : L.r32 = true := by first | assumption | rfl) (lr64 : L.r64 = true := by first | assumption | rfl) (lfree : L.free = true := by first | assumption | rfl) (lmem : L.mem = true := by first | assumption | rfl) (lhost : L.host = true := by first | assumption | rfl) (llink : L.link = true := by first | assumption | rfl) (lpower : L.power = true := by first | assumption | rfl) (lsquall : L.squall = true := by first | assumption | rfl) (ltm : L.tm = true := by first | assumption | rfl) (lcirrus : L.cirrus = true := by first | assumption | rfl) (m : within 0x1502800110100001000580170080000000000000000000000822801b80000000000008001082000 L.regs = true := by first | with_reducible assumption | (refine within_trans (by assumption) ?_; exact rfl) | rfl) :
    ∃ t, execPartnerDeepEntry a1 s = .next t ∧ Keeps L s0 t := by
  unfold execPartnerDeepEntry
  refine ⟨_, rfl, ?_⟩
  with_reducible repeat' first | assumption | intro _ | apply keeps_ite | exact has_ok m rfl | exact within_trans m rfl | apply State.toDeep_keeps | apply keeps_snd_ite | dsimp only | split

theorem execDeepSignalDetect_keeps (h : Keeps L s0 s) (a1 : ℕ) (lr32 : L.r32 = true := by first | assumption | rfl) (llink : L.link = true := by first | assumption | rfl) (m : within 0x138100000000000000000000000000000000000000000000000000000000000000000000 L.regs = true := by first | with_reducible assumption | (refine within_trans (by assumption) ?_; exact rfl) | rfl) :
    ∃ t, execDeepSignalDetect a1 s = .next t ∧ Keeps L s0 t := by
  unfold execDeepSignalDetect
  refine ⟨_, rfl, ?_⟩
  with_reducible repeat' first | assumption | intro _ | apply keeps_ite | exact has_ok m rfl | exact within_trans m rfl | apply State.fromDeep_keeps | apply keeps_snd_ite | dsimp only | split

theorem State.portLpsWrite_keeps (h : Keeps L s0 s) (a2 : ℕ) (a3 : Word) (lr32 : L.r32 = true := by first | assumption | rfl) (lr64 : L.r64 = true := by first | assumption | rfl) (lfree : L.free = true := by first | assumption | rfl) (lmem : L.mem = true := by first | assumption | rfl) (lhost : L.host = true := by first | assumption | rfl) (llink : L.link = true := by first | assumption | rfl) (lpower : L.power = true := by first | assumption | rfl) (lsquall : L.squall = true := by first | assumption | rfl) (ltm : L.tm = true := by first | assumption | rfl) (lcirrus : L.cirrus = true := by first | assumption | rfl) (m : within 0x1502800138300001000580170080000000000000000000000822801b80000000000008001082000 L.regs = true := by first | with_reducible assumption | (refine within_trans (by assumption) ?_; exact rfl) | rfl) :
    Keeps L s0 (State.portLpsWrite s a2 a3) := by
  unfold State.portLpsWrite
  with_reducible repeat' first | assumption | intro _ | apply keeps_ite | exact has_ok m rfl | exact within_trans m rfl | apply State.fset_keeps | apply State.toDeep_keeps | apply State.fromDeep_keeps | apply keeps_snd_ite | dsimp only | split

theorem State.eyeWrite_keeps (h : Keeps L s0 s) (a2 : ℕ) (a3 : Word) (lr32 : L.r32 = true := by first | assumption | rfl) (lfree : L.free = true := by first | assumption | rfl) (llink : L.link = true := by first | assumption | rfl) (m : within 0x180100000000000000000000000000000000000000000000000000000000000000000000 L.regs = true := by first | with_reducible assumption | (refine within_trans (by assumption) ?_; exact rfl) | rfl) :
    Keeps L s0 (State.eyeWrite s a2 a3) := by
  unfold State.eyeWrite
  with_reducible repeat' first | assumption | intro _ | apply keeps_ite | exact has_ok m rfl | exact within_trans m rfl | apply State.wr_keeps | apply State.eiExit_keeps | apply State.setLane_keeps | apply keeps_snd_ite | dsimp only | split

theorem execEyeStart_keeps (h : Keeps L s0 s) (a1 : ℕ) (a2 : Word) (lr32 : L.r32 = true := by first | assumption | rfl) (lfree : L.free = true := by first | assumption | rfl) (llink : L.link = true := by first | assumption | rfl) (m : within 0x180100000000000000000000000000000000000000000000000000000000000000000000 L.regs = true := by first | with_reducible assumption | (refine within_trans (by assumption) ?_; exact rfl) | rfl) :
    ∃ t, execEyeStart a1 a2 s = .next t ∧ Keeps L s0 t := by
  unfold execEyeStart
  refine ⟨_, rfl, ?_⟩
  with_reducible repeat' first | assumption | intro _ | apply keeps_ite | exact has_ok m rfl | exact within_trans m rfl | apply State.eyeWrite_keeps | apply keeps_snd_ite | dsimp only | split

theorem execEyePointDone_keeps (h : Keeps L s0 s) (a1 : ℕ) (a2 : ℕ) (lr32 : L.r32 = true := by first | assumption | rfl) (llink : L.link = true := by first | assumption | rfl) (m : within 0x100000000000000000000000000000000000000000000000000000000000000000000000 L.regs = true := by first | with_reducible assumption | (refine within_trans (by assumption) ?_; exact rfl) | rfl) :
    ∃ t, execEyePointDone a1 a2 s = .next t ∧ Keeps L s0 t := by
  unfold execEyePointDone
  refine ⟨_, rfl, ?_⟩
  with_reducible repeat' first | assumption | intro _ | apply keeps_ite | exact has_ok m rfl | exact within_trans m rfl | apply State.fset_keeps | apply State.setLane_keeps | apply keeps_snd_ite | dsimp only | split

theorem State.testUpdate_keeps (h : Keeps L s0 s) (a2 : ℕ) (lr32 : L.r32 = true := by first | assumption | rfl) (lr64 : L.r64 = true := by first | assumption | rfl) (lfree : L.free = true := by first | assumption | rfl) (lmem : L.mem = true := by first | assumption | rfl) (lhost : L.host = true := by first | assumption | rfl) (llink : L.link = true := by first | assumption | rfl) (lpower : L.power = true := by first | assumption | rfl) (lsquall : L.squall = true := by first | assumption | rfl) (ltm : L.tm = true := by first | assumption | rfl) (lcirrus : L.cirrus = true := by first | assumption | rfl) (m : within 0x1502800138d00001000580170080000000000000000000000822801b80000000000008001082000 L.regs = true := by first | with_reducible assumption | (refine within_trans (by assumption) ?_; exact rfl) | rfl) :
    Keeps L s0 (State.testUpdate s a2) := by
  unfold State.testUpdate
  with_reducible repeat' first | assumption | intro _ | apply keeps_ite | exact has_ok m rfl | exact within_trans m rfl | apply State.driveLanes_keeps | apply State.abortEyes_keeps | apply State.portTo_keeps | apply State.linkEnds_keeps | apply State.eiExit_keeps | apply State.restart_keeps | apply keeps_snd_ite | dsimp only | split

theorem State.testSet_keeps (h : Keeps L s0 s) (a2 : ℕ) (a3 : ℕ) (a4 : Bool) (a5 : Bool) (lr32 : L.r32 = true := by first | assumption | rfl) (lr64 : L.r64 = true := by first | assumption | rfl) (lfree : L.free = true := by first | assumption | rfl) (lmem : L.mem = true := by first | assumption | rfl) (lhost : L.host = true := by first | assumption | rfl) (llink : L.link = true := by first | assumption | rfl) (lpower : L.power = true := by first | assumption | rfl) (lsquall : L.squall = true := by first | assumption | rfl) (ltm : L.tm = true := by first | assumption | rfl) (lcirrus : L.cirrus = true := by first | assumption | rfl) (m : within 0x1502800f38d00001000580170080000000000000000000000822801b80000000000008001082000 L.regs = true := by first | with_reducible assumption | (refine within_trans (by assumption) ?_; exact rfl) | rfl) :
    Keeps L s0 (State.testSet s a2 a3 a4 a5) := by
  unfold State.testSet
  with_reducible repeat' first | assumption | intro _ | apply keeps_ite | exact has_ok m rfl | exact within_trans m rfl | apply State.fset_keeps | apply State.setLane_keeps | apply State.wrw_keeps | apply State.testUpdate_keeps | apply State.when_keeps | apply State.genStart_keeps | apply keeps_snd_ite | dsimp only | split

theorem execLoopbackEnable_keeps (h : Keeps L s0 s) (a1 : ℕ) (a2 : ℕ) (a3 : Bool) (a4 : Bool) (lr32 : L.r32 = true := by first | assumption | rfl) (lr64 : L.r64 = true := by first | assumption | rfl) (lfree : L.free = true := by first | assumption | rfl) (lmem : L.mem = true := by first | assumption | rfl) (lhost : L.host = true := by first | assumption | rfl) (llink : L.link = true := by first | assumption | rfl) (lpower : L.power = true := by first | assumption | rfl) (lsquall : L.squall = true := by first | assumption | rfl) (ltm : L.tm = true := by first | assumption | rfl) (lcirrus : L.cirrus = true := by first | assumption | rfl) (m : within 0x1502800f38d00001000580170080000000000000000000000822801b80000000000008001082000 L.regs = true := by first | with_reducible assumption | (refine within_trans (by assumption) ?_; exact rfl) | rfl) :
    ∃ t, execLoopbackEnable a1 a2 a3 a4 s = .next t ∧ Keeps L s0 t := by
  unfold execLoopbackEnable
  refine ⟨_, rfl, ?_⟩
  with_reducible repeat' first | assumption | intro _ | apply keeps_ite | exact has_ok m rfl | exact within_trans m rfl | apply State.testSet_keeps | apply keeps_snd_ite | dsimp only | split

theorem execTestExit_keeps (h : Keeps L s0 s) (a1 : ℕ) (lr32 : L.r32 = true := by first | assumption | rfl) (lr64 : L.r64 = true := by first | assumption | rfl) (lfree : L.free = true := by first | assumption | rfl) (lmem : L.mem = true := by first | assumption | rfl) (lhost : L.host = true := by first | assumption | rfl) (llink : L.link = true := by first | assumption | rfl) (lpower : L.power = true := by first | assumption | rfl) (lsquall : L.squall = true := by first | assumption | rfl) (ltm : L.tm = true := by first | assumption | rfl) (lcirrus : L.cirrus = true := by first | assumption | rfl) (m : within 0x1502800f38d00001000580170080000000000000000000000822801b80000000000008001082000 L.regs = true := by first | with_reducible assumption | (refine within_trans (by assumption) ?_; exact rfl) | rfl) :
    ∃ t, execTestExit a1 s = .next t ∧ Keeps L s0 t := by
  unfold execTestExit
  refine ⟨_, rfl, ?_⟩
  with_reducible repeat' first | assumption | intro _ | apply keeps_ite | exact has_ok m rfl | exact within_trans m rfl | apply State.each_keeps | apply State.testSet_keeps | apply keeps_snd_ite | dsimp only | split

theorem State.injectOne_keeps (h : Keeps L s0 s) (a2 : ℕ) (a3 : ℕ) (llink : L.link = true := by first | assumption | rfl) :
    Keeps L s0 (State.injectOne s a2 a3) := by
  unfold State.injectOne
  with_reducible repeat' first | assumption | intro _ | apply keeps_ite | apply State.setLane_keeps | apply keeps_snd_ite | dsimp only | split

theorem execPrbsInject_keeps (h : Keeps L s0 s) (a1 : ℕ) (llink : L.link = true := by first | assumption | rfl) :
    ∃ t, execPrbsInject a1 s = .next t ∧ Keeps L s0 t := by
  unfold execPrbsInject
  refine ⟨_, rfl, ?_⟩
  with_reducible repeat' first | assumption | intro _ | apply keeps_ite | apply State.injectOne_keeps | apply keeps_snd_ite | dsimp only | split

theorem execPrbsPeriodicInject_keeps (h : Keeps L s0 s) (a1 : ℕ) (llink : L.link = true := by first | assumption | rfl) :
    ∃ t, execPrbsPeriodicInject a1 s = .next t ∧ Keeps L s0 t := by
  unfold execPrbsPeriodicInject
  refine ⟨_, rfl, ?_⟩
  with_reducible repeat' first | assumption | intro _ | apply keeps_ite | apply State.injectOne_keeps | apply keeps_snd_ite | dsimp only | split

theorem execPrbsCheckLock_keeps (h : Keeps L s0 s) (a1 : ℕ) (a2 : List Bool) (lr32 : L.r32 = true := by first | assumption | rfl) (lr64 : L.r64 = true := by first | assumption | rfl) (llink : L.link = true := by first | assumption | rfl) (m : within 0xc00000000000000000000000000000000000000000000000000000000000000000000000 L.regs = true := by first | with_reducible assumption | (refine within_trans (by assumption) ?_; exact rfl) | rfl) :
    ∃ t, execPrbsCheckLock a1 a2 s = .next t ∧ Keeps L s0 t := by
  unfold execPrbsCheckLock
  refine ⟨_, rfl, ?_⟩
  with_reducible repeat' first | assumption | intro _ | apply keeps_ite | exact has_ok m rfl | exact within_trans m rfl | apply State.patternIn_keeps | apply keeps_snd_ite | dsimp only | split

theorem execPrbsLockLost_keeps (h : Keeps L s0 s) (a1 : ℕ) (a2 : List Bool) (lr32 : L.r32 = true := by first | assumption | rfl) (lr64 : L.r64 = true := by first | assumption | rfl) (llink : L.link = true := by first | assumption | rfl) (m : within 0xc00000000000000000000000000000000000000000000000000000000000000000000000 L.regs = true := by first | with_reducible assumption | (refine within_trans (by assumption) ?_; exact rfl) | rfl) :
    ∃ t, execPrbsLockLost a1 a2 s = .next t ∧ Keeps L s0 t := by
  unfold execPrbsLockLost
  refine ⟨_, rfl, ?_⟩
  with_reducible repeat' first | assumption | intro _ | apply keeps_ite | exact has_ok m rfl | exact within_trans m rfl | apply State.patternIn_keeps | apply keeps_snd_ite | dsimp only | split

theorem execCagePrsFall_keeps (h : Keeps L s0 s) (a1 : ℕ) (lr32 : L.r32 = true := by first | assumption | rfl) (llink : L.link = true := by first | assumption | rfl) (m : within 0x4000000000000000000000000000000000000000000000000000000000000000000000000 L.regs = true := by first | with_reducible assumption | (refine within_trans (by assumption) ?_; exact rfl) | rfl) :
    ∃ t, execCagePrsFall a1 s = .next t ∧ Keeps L s0 t := by
  unfold execCagePrsFall
  refine ⟨_, rfl, ?_⟩
  with_reducible repeat' first | assumption | intro _ | apply keeps_ite | exact has_ok m rfl | exact within_trans m rfl | apply State.fset_keeps | apply State.setCage_keeps | apply keeps_snd_ite | dsimp only | split

theorem execCageDebounceDone_keeps (h : Keeps L s0 s) (a1 : ℕ) (lr32 : L.r32 = true := by first | assumption | rfl) (lr64 : L.r64 = true := by first | assumption | rfl) (lhost : L.host = true := by first | assumption | rfl) (llink : L.link = true := by first | assumption | rfl) (m : within 0x4000000000000000000000000000000000000000000000001800000000000000000000000 L.regs = true := by first | with_reducible assumption | (refine within_trans (by assumption) ?_; exact rfl) | rfl) :
    ∃ t, execCageDebounceDone a1 s = .next t ∧ Keeps L s0 t := by
  unfold execCageDebounceDone
  refine ⟨_, rfl, ?_⟩
  with_reducible repeat' first | assumption | intro _ | apply keeps_ite | exact has_ok m rfl | exact within_trans m rfl | apply State.setCage_keeps | apply State.fset_keeps | apply State.postLane_keeps | apply keeps_snd_ite | dsimp only | split

theorem execCageResetRelease_keeps (h : Keeps L s0 s) (a1 : ℕ) (lr32 : L.r32 = true := by first | assumption | rfl) (llink : L.link = true := by first | assumption | rfl) (m : within 0x4000000000000000000000000000000000000000000000000000000000000000000000000 L.regs = true := by first | with_reducible assumption | (refine within_trans (by assumption) ?_; exact rfl) | rfl) :
    ∃ t, execCageResetRelease a1 s = .next t ∧ Keeps L s0 t := by
  unfold execCageResetRelease
  refine ⟨_, rfl, ?_⟩
  with_reducible repeat' first | assumption | intro _ | apply keeps_ite | exact has_ok m rfl | exact within_trans m rfl | apply State.fset_keeps | apply State.setCage_keeps | apply keeps_snd_ite | dsimp only | split

theorem execModReadyPoll_keeps (h : Keeps L s0 s) (a1 : ℕ) (a2 : Bool) (a3 : Byte) (a4 : List (ℕ × ℕ)) (a5 : ℕ) (lr32 : L.r32 = true := by first | assumption | rfl) (lr64 : L.r64 = true := by first | assumption | rfl) (lhost : L.host = true := by first | assumption | rfl) (llink : L.link = true := by first | assumption | rfl) (m : within 0x4000000000000000000000000000000000000000000000001800000000000000000000000 L.regs = true := by first | with_reducible assumption | (refine within_trans (by assumption) ?_; exact rfl) | rfl) :
    ∃ t, execModReadyPoll a1 a2 a3 a4 a5 s = .next t ∧ Keeps L s0 t := by
  unfold execModReadyPoll
  refine ⟨_, rfl, ?_⟩
  with_reducible repeat' first | assumption | intro _ | apply keeps_ite | exact has_ok m rfl | exact within_trans m rfl | apply State.ownAccess_keeps | apply keeps_snd_ite | dsimp only | split

theorem execModReadyTimeout_keeps (h : Keeps L s0 s) (a1 : ℕ) (lr32 : L.r32 = true := by first | assumption | rfl) (lr64 : L.r64 = true := by first | assumption | rfl) (lhost : L.host = true := by first | assumption | rfl) (m : within 0x4000000000000000000000000000000000000000000000001800000000000000000000000 L.regs = true := by first | with_reducible assumption | (refine within_trans (by assumption) ?_; exact rfl) | rfl) :
    ∃ t, execModReadyTimeout a1 s = .next t ∧ Keeps L s0 t := by
  unfold execModReadyTimeout
  refine ⟨_, rfl, ?_⟩
  with_reducible repeat' first | assumption | intro _ | apply keeps_ite | exact has_ok m rfl | exact within_trans m rfl | apply State.postLane_keeps | apply State.fset_keeps | apply keeps_snd_ite | dsimp only | split

theorem execModuleDataPathActive_keeps (h : Keeps L s0 s) (a1 : ℕ) (lr32 : L.r32 = true := by first | assumption | rfl) (lfree : L.free = true := by first | assumption | rfl) (llink : L.link = true := by first | assumption | rfl) (m : within 0x4138d00000000000000000000000000000000000000000000000000000000000000000000 L.regs = true := by first | with_reducible assumption | (refine within_trans (by assumption) ?_; exact rfl) | rfl) :
    ∃ t, execModuleDataPathActive a1 s = .next t ∧ Keeps L s0 t := by
  unfold execModuleDataPathActive
  refine ⟨_, rfl, ?_⟩
  with_reducible repeat' first | assumption | intro _ | apply keeps_ite | exact has_ok m rfl | exact within_trans m rfl | apply State.fset_keeps | apply State.setCage_keeps | apply State.each_keeps | apply State.restart_keeps | apply keeps_snd_ite | dsimp only | split

theorem execCagePrsRise_keeps (h : Keeps L s0 s) (a1 : ℕ) (a2 : Bool) (lr32 : L.r32 = true := by first | assumption | rfl) (lr64 : L.r64 = true := by first | assumption | rfl) (lfree : L.free = true := by first | assumption | rfl) (lmem : L.mem = true := by first | assumption | rfl) (lhost : L.host = true := by first | assumption | rfl) (llink : L.link = true := by first | assumption | rfl) (lpower : L.power = true := by first | assumption | rfl) (lsquall : L.squall = true := by first | assumption | rfl) (ltm : L.tm = true := by first | assumption | rfl) (lcirrus : L.cirrus = true := by first | assumption | rfl) (m : within 0x1502844108100001000580170080000000000000000000000822801b80000000000008001082000 L.regs = true := by first | with_reducible assumption | (refine within_trans (by assumption) ?_; exact rfl) | rfl) :
    ∃ t, execCagePrsRise a1 a2 s = .next t ∧ Keeps L s0 t := by
  unfold execCagePrsRise
  refine ⟨_, rfl, ?_⟩
  with_reducible repeat' first | assumption | intro _ | apply keeps_ite | exact has_ok m rfl | exact within_trans m rfl | apply State.driveLanes_keeps | apply State.setI2c_keeps | apply State.fset_keeps | apply State.each_keeps | apply State.abortEyes_keeps | apply State.portTo_keeps | apply State.leaveUp_keeps | apply State.wr_keeps | apply State.setCage_keeps | apply State.postLane_keeps | apply keeps_snd_ite | dsimp only | split | exact Or.inl (by assumption) | exact Or.inr rfl | refine keeps_mk ?_ rfl rfl ?_ ?_ ?_ ?_ ?_ ?_ ?_ ?_ ?_ ?_ ?_ ?_ ?_ ?_

theorem execCageIntFall_keeps (h : Keeps L s0 s) (a1 : ℕ) (a2 : List (Bool × Bool)) (lr32 : L.r32 = true := by first | assumption | rfl) (lr64 : L.r64 = true := by first | assumption | rfl) (lhost : L.host = true := by first | assumption | rfl) (llink : L.link = true := by first | assumption | rfl) (m : within 0x4000000000000000000000000000000000000000000000001800000000000000000000000 L.regs = true := by first | with_reducible assumption | (refine within_trans (by assumption) ?_; exact rfl) | rfl) :
    ∃ t, execCageIntFall a1 a2 s = .next t ∧ Keeps L s0 t := by
  unfold execCageIntFall
  refine ⟨_, rfl, ?_⟩
  with_reducible repeat' first | assumption | intro _ | apply keeps_ite | exact has_ok m rfl | exact within_trans m rfl | apply State.fset_keeps | apply State.ownAccess_keeps | apply State.postLane_keeps | apply keeps_snd_ite | dsimp only | split

theorem State.mailboxGo_keeps (h : Keeps L s0 s) (a2 : ℕ) (a3 : Word) (lr32 : L.r32 = true := by first | assumption | rfl) (llink : L.link = true := by first | assumption | rfl) (m : within 0x50000000000000000000000000000000000000000000000000000000000000000000000000 L.regs = true := by first | with_reducible assumption | (refine within_trans (by assumption) ?_; exact rfl) | rfl) :
    Keeps L s0 (State.mailboxGo s a2 a3) := by
  unfold State.mailboxGo
  with_reducible repeat' first | assumption | intro _ | apply keeps_ite | exact has_ok m rfl | exact within_trans m rfl | apply State.wr_keeps | apply State.fset_keeps | apply State.muxSelect_keeps | apply State.setI2c_keeps | apply keeps_snd_ite | dsimp only | split

theorem execMailboxRead_keeps (h : Keeps L s0 s) (a1 : ℕ) (a2 : Word) (lr32 : L.r32 = true := by first | assumption | rfl) (llink : L.link = true := by first | assumption | rfl) (m : within 0x50000000000000000000000000000000000000000000000000000000000000000000000000 L.regs = true := by first | with_reducible assumption | (refine within_trans (by assumption) ?_; exact rfl) | rfl) :
    ∃ t, execMailboxRead a1 a2 s = .next t ∧ Keeps L s0 t := by
  unfold execMailboxRead
  refine ⟨_, rfl, ?_⟩
  with_reducible repeat' first | assumption | intro _ | apply keeps_ite | exact has_ok m rfl | exact within_trans m rfl | apply State.mailboxGo_keeps | apply keeps_snd_ite | dsimp only | split

theorem execMailboxWrite_keeps (h : Keeps L s0 s) (a1 : ℕ) (a2 : Word) (lr32 : L.r32 = true := by first | assumption | rfl) (llink : L.link = true := by first | assumption | rfl) (m : within 0x50000000000000000000000000000000000000000000000000000000000000000000000000 L.regs = true := by first | with_reducible assumption | (refine within_trans (by assumption) ?_; exact rfl) | rfl) :
    ∃ t, execMailboxWrite a1 a2 s = .next t ∧ Keeps L s0 t := by
  unfold execMailboxWrite
  refine ⟨_, rfl, ?_⟩
  with_reducible repeat' first | assumption | intro _ | apply keeps_ite | exact has_ok m rfl | exact within_trans m rfl | apply State.mailboxGo_keeps | apply keeps_snd_ite | dsimp only | split

theorem State.setMailBytes_keeps (h : Keeps L s0 s) (a2 : ℕ) (a3 : List Byte) (lr32 : L.r32 = true := by first | assumption | rfl) (m : within 0x80000000000000000000000000000000000000000000000000000000000000000000000000 L.regs = true := by first | with_reducible assumption | (refine within_trans (by assumption) ?_; exact rfl) | rfl) :
    Keeps L s0 (State.setMailBytes s a2 a3) := by
  unfold State.setMailBytes
  with_reducible repeat' first | assumption | intro _ | apply keeps_ite | exact has_ok m rfl | exact within_trans m rfl | apply State.wr_keeps | apply forN_keeps | apply keeps_snd_ite | dsimp only | split

theorem execMailboxDone_keeps (h : Keeps L s0 s) (a1 : ℕ) (a2 : ℕ) (a3 : List Byte) (a4 : Bool) (lr32 : L.r32 = true := by first | assumption | rfl) (lr64 : L.r64 = true := by first | assumption | rfl) (lhost : L.host = true := by first | assumption | rfl) (llink : L.link = true := by first | assumption | rfl) (m : within 0xc4000000000000000000000000000000000000000000000001800000000000000000000000 L.regs = true := by first | with_reducible assumption | (refine within_trans (by assumption) ?_; exact rfl) | rfl) :
    ∃ t, execMailboxDone a1 a2 a3 a4 s = .next t ∧ Keeps L s0 t := by
  unfold execMailboxDone
  refine ⟨_, rfl, ?_⟩
  with_reducible repeat' first | assumption | intro _ | apply keeps_ite | exact has_ok m rfl | exact within_trans m rfl | apply State.fset_keeps | apply State.modPut_keeps | apply State.setMailBytes_keeps | apply State.ownRun_keeps | apply State.setI2c_keeps | apply keeps_snd_ite | dsimp only | split

theorem execLedFrame_keeps (h : Keeps L s0 s) (a1 : Bool) (llink : L.link = true := by first | assumption | rfl) :
    ∃ t, execLedFrame a1 s = .next t ∧ Keeps L s0 t := by
  unfold execLedFrame
  refine ⟨_, rfl, ?_⟩
  with_reducible repeat' first | assumption | intro _ | apply keeps_ite | apply keeps_snd_ite | dsimp only | split | exact Or.inl (by assumption) | exact Or.inr rfl | refine keeps_mk ?_ rfl rfl ?_ ?_ ?_ ?_ ?_ ?_ ?_ ?_ ?_ ?_ ?_ ?_ ?_ ?_

end Sys2Proof.Machine
end

