-- ==== Sys2Proof/Laws/KeepsParse.lean ====
section
/-!
SUPPORT. What each operation and each command of `Machine/Parse.lean` (parsing) leaves alone, in the terms of `Laws/Keeps.lean`.
-/

set_option Elab.async false

set_option linter.unusedTactic false
set_option linter.unreachableTactic false
set_option linter.unusedVariables false
namespace Sys2Proof.Machine

variable {L : Touch} {s0 s : State}

theorem custReg_has (a : L.has .custTcam0 = true) (c : L.has .custTcam1 = true) (b : Nat) : L.has (custReg b) = true := by
  unfold custReg; split
  · exact a
  · exact c

theorem ptypeReg_has (a : L.has .ptypeTcam0 = true) (c : L.has .ptypeTcam1 = true) (b : Nat) : L.has (ptypeReg b) = true := by
  unfold ptypeReg; split
  · exact a
  · exact c

theorem entryReg_has (a : L.has .entryTab0 = true) (c : L.has .entryTab1 = true) (b : Nat) : L.has (entryReg b) = true := by
  unfold entryReg; split
  · exact a
  · exact c

theorem State.setPipe_keeps (h : Keeps L s0 s) (a2 : ℕ) (a3 : PipeTile) (lcirrus : L.cirrus = true := by first | assumption | rfl) :
    Keeps L s0 (State.setPipe s a2 a3) := by
  unfold State.setPipe
  with_reducible repeat' first | assumption | intro _ | apply keeps_ite | apply keeps_snd_ite | dsimp only | split | exact Or.inl (by assumption) | exact Or.inr rfl | refine keeps_mk ?_ rfl rfl ?_ ?_ ?_ ?_ ?_ ?_ ?_ ?_ ?_ ?_ ?_ ?_ ?_ ?_

theorem State.setPkt_keeps (h : Keeps L s0 s) (a2 : ℕ) (a3 : ℕ) (a4 : Option Pkt) (lcirrus : L.cirrus = true := by first | assumption | rfl) :
    Keeps L s0 (State.setPkt s a2 a3 a4) := by
  unfold State.setPkt
  with_reducible repeat' first | assumption | intro _ | apply keeps_ite | apply State.setPipe_keeps | apply keeps_snd_ite | dsimp only | split

theorem State.setPolicer_keeps (h : Keeps L s0 s) (a2 : ℕ) (a3 : ℕ) (a4 : Policer) (lcirrus : L.cirrus = true := by first | assumption | rfl) :
    Keeps L s0 (State.setPolicer s a2 a3 a4) := by
  unfold State.setPolicer
  with_reducible repeat' first | assumption | intro _ | apply keeps_ite | apply State.setPipe_keeps | apply keeps_snd_ite | dsimp only | split

theorem State.meter_keeps (h : Keeps L s0 s) (a2 : ℕ) (a3 : ℕ) (a4 : ℕ) (a5 : ℕ) (lcirrus : L.cirrus = true := by first | assumption | rfl) :
    Keeps L s0 (State.meter s a2 a3 a4 a5).2 := by
  unfold State.meter
  with_reducible repeat' first | assumption | intro _ | apply keeps_ite | apply State.setPolicer_keeps | apply keeps_snd_ite | dsimp only | split

theorem State.countReason_keeps (h : Keeps L s0 s) (a2 : ℕ) (a3 : ℕ) (lr64 : L.r64 = true := by first | assumption | rfl) (m : within 0x3e0000000000000000000000000000000000000000 L.regs = true := by first | with_reducible assumption | (refine within_trans (by assumption) ?_; exact rfl) | rfl) :
    Keeps L s0 (State.countReason s a2 a3) := by
  unfold State.countReason
  with_reducible repeat' first | assumption | intro _ | apply keeps_ite | exact has_ok m rfl | exact within_trans m rfl | apply State.bump_keeps | apply keeps_snd_ite | dsimp only | split

theorem State.dispatch_keeps (h : Keeps L s0 s) (a2 : ℕ) (a3 : ℕ) (lcirrus : L.cirrus = true := by first | assumption | rfl) :
    Keeps L s0 (State.dispatch s a2 a3) := by
  unfold State.dispatch
  with_reducible repeat' first | assumption | intro _ | apply keeps_ite | apply State.setPkt_keeps | apply State.setPipe_keeps | apply keeps_snd_ite | dsimp only | split

theorem State.finishPkt_keeps (h : Keeps L s0 s) (a2 : ℕ) (a3 : ℕ) (a4 : Pkt) (a5 : Disp) (lcirrus : L.cirrus = true := by first | assumption | rfl) :
    Keeps L s0 (State.finishPkt s a2 a3 a4 a5) := by
  unfold State.finishPkt
  with_reducible repeat' first | assumption | intro _ | apply keeps_ite | apply State.setPkt_keeps | apply keeps_snd_ite | dsimp only | split

theorem State.excPkt_keeps (h : Keeps L s0 s) (a2 : ℕ) (a3 : ℕ) (a4 : Pkt) (a5 : ℕ) (lr32 : L.r32 = true := by first | assumption | rfl) (lr64 : L.r64 = true := by first | assumption | rfl) (lcirrus : L.cirrus = true := by first | assumption | rfl) (m : within 0x14000000000000000000000000000001000003e0000000000000000000000000000000000000000 L.regs = true := by first | with_reducible assumption | (refine within_trans (by assumption) ?_; exact rfl) | rfl) :
    Keeps L s0 (State.excPkt s a2 a3 a4 a5) := by
  unfold State.excPkt
  with_reducible repeat' first | assumption | intro _ | apply keeps_ite | exact has_ok m rfl | exact within_trans m rfl | apply State.perf_keeps | apply State.countReason_keeps | apply State.bump_keeps | apply State.finishPkt_keeps | apply keeps_snd_ite | dsimp only | split

theorem State.classifyEnd_keeps (h : Keeps L s0 s) (a2 : ℕ) (a3 : ℕ) (a4 : Pkt) (a5 : Option ℕ) (a6 : Bool) (a7 : ℕ) (lr32 : L.r32 = true := by first | assumption | rfl) (lr64 : L.r64 = true := by first | assumption | rfl) (lcirrus : L.cirrus = true := by first | assumption | rfl) (m : within 0x14000000000000000000000000000001000003e0000000000000000000000000000000000000000 L.regs = true := by first | with_reducible assumption | (refine within_trans (by assumption) ?_; exact rfl) | rfl) :
    Keeps L s0 (State.classifyEnd s a2 a3 a4 a5 a6 a7) := by
  unfold State.classifyEnd
  with_reducible repeat' first | assumption | intro _ | apply keeps_ite | exact has_ok m rfl | exact within_trans m rfl | apply State.setPkt_keeps | apply State.excPkt_keeps | apply State.dispatch_keeps | apply State.meter_keeps | apply State.finishPkt_keeps | apply keeps_snd_ite | (refine keeps_of_eq (by assumption) ?_) | dsimp only | split

theorem State.setInflight_keeps (h : Keeps L s0 s) (a2 : ℕ) (a3 : ℕ) (a4 : ℕ) (lr32 : L.r32 = true := by first | assumption | rfl) (m : within 0x4000000000000000000000000000000000000000000000000000 L.regs = true := by first | with_reducible assumption | (refine within_trans (by assumption) ?_; exact rfl) | rfl) :
    Keeps L s0 (State.setInflight s a2 a3 a4) := by
  unfold State.setInflight
  with_reducible repeat' first | assumption | intro _ | apply keeps_ite | exact has_ok m rfl | exact within_trans m rfl | apply State.fset_keeps | apply keeps_snd_ite | dsimp only | split

theorem State.parseStart_keeps (h : Keeps L s0 s) (a2 : ℕ) (a3 : ℕ) (lr32 : L.r32 = true := by first | assumption | rfl) (lr64 : L.r64 = true := by first | assumption | rfl) (ltm : L.tm = true := by first | assumption | rfl) (lcirrus : L.cirrus = true := by first | assumption | rfl) (m : within 0x14000000000000000000000000040001000003e0000000000000000000000000000000000000000 L.regs = true := by first | with_reducible assumption | (refine within_trans (by assumption) ?_; exact rfl) | rfl) :
    Keeps L s0 (State.parseStart s a2 a3) := by
  unfold State.parseStart
  with_reducible repeat' first | assumption | intro _ | apply keeps_ite | exact has_ok m rfl | exact within_trans m rfl | exact entryReg_has (has_ok m rfl) (has_ok m rfl) _ | apply State.setPipe_keeps | apply State.setFrame_keeps | apply State.setInflight_keeps | apply State.classifyEnd_keeps | apply keeps_snd_ite | dsimp only | split

theorem execParseStart_keeps (h : Keeps L s0 s) (a1 : ℕ) (a2 : ℕ) (lr32 : L.r32 = true := by first | assumption | rfl) (lr64 : L.r64 = true := by first | assumption | rfl) (ltm : L.tm = true := by first | assumption | rfl) (lcirrus : L.cirrus = true := by first | assumption | rfl) (m : within 0x14000000000000000000000000040001000003e0000000000000000000000000000000000000000 L.regs = true := by first | with_reducible assumption | (refine within_trans (by assumption) ?_; exact rfl) | rfl) :
    ∃ t, execParseStart a1 a2 s = .next t ∧ Keeps L s0 t := by
  unfold execParseStart
  refine ⟨_, rfl, ?_⟩
  with_reducible repeat' first | assumption | intro _ | apply keeps_ite | exact has_ok m rfl | exact within_trans m rfl | apply State.parseStart_keeps | apply keeps_snd_ite | dsimp only | split

theorem State.lastBeatFor_keeps (h : Keeps L s0 s) (a2 : ℕ) (a3 : ℕ) (lr32 : L.r32 = true := by first | assumption | rfl) (lr64 : L.r64 = true := by first | assumption | rfl) (ltm : L.tm = true := by first | assumption | rfl) (lcirrus : L.cirrus = true := by first | assumption | rfl) (m : within 0x14000000000000000000000000000001000003e0000000000000000000000000000000000000000 L.regs = true := by first | with_reducible assumption | (refine within_trans (by assumption) ?_; exact rfl) | rfl) :
    Keeps L s0 (State.lastBeatFor s a2 a3) := by
  unfold State.lastBeatFor
  with_reducible repeat' first | assumption | intro _ | apply keeps_ite | exact has_ok m rfl | exact within_trans m rfl | apply State.classifyEnd_keeps | apply State.setFrame_keeps | apply keeps_snd_ite | dsimp only | split

theorem State.holdWord_keeps (h : Keeps L s0 s) (a2 : ℕ) (a3 : RName) (a4 : ℕ) (a5 : Word) (lcirrus : L.cirrus = true := by first | assumption | rfl) :
    Keeps L s0 (State.holdWord s a2 a3 a4 a5) := by
  unfold State.holdWord
  with_reducible repeat' first | assumption | intro _ | apply keeps_ite | apply State.setPipe_keeps | apply keeps_snd_ite | dsimp only | split

theorem State.commitEntry_keeps (h : Keeps L s0 s) (a2 : ℕ) (a3 : RName) (a4 : ℕ) (a5 : ℕ) (a6 : ℕ → Word) (a7 : Word) (lr32 : L.r32 = true := by first | assumption | rfl) (lcirrus : L.cirrus = true := by first | assumption | rfl) (cp2 : L.has a3 = true := by first | with_reducible assumption | (refine has_ok (by assumption) ?_; exact rfl) | rfl) :
    Keeps L s0 (State.commitEntry s a2 a3 a4 a5 a6 a7) := by
  unfold State.commitEntry
  with_reducible repeat' first | assumption | intro _ | apply keeps_ite | apply State.setPipe_keeps | apply State.wr_keeps | apply forN_keeps | apply keeps_snd_ite | dsimp only | split

theorem State.stateTabWrite_keeps (h : Keeps L s0 s) (a2 : ℕ) (a3 : ℕ) (a4 : ℕ) (a5 : Word) (lr32 : L.r32 = true := by first | assumption | rfl) (lcirrus : L.cirrus = true := by first | assumption | rfl) (m : within 0x80000000000000000000000000000000000000000000 L.regs = true := by first | with_reducible assumption | (refine within_trans (by assumption) ?_; exact rfl) | rfl) :
    Keeps L s0 (State.stateTabWrite s a2 a3 a4 a5) := by
  unfold State.stateTabWrite
  with_reducible repeat' first | assumption | intro _ | apply keeps_ite | exact has_ok m rfl | exact within_trans m rfl | apply State.commitEntry_keeps | apply State.holdWord_keeps | apply keeps_snd_ite | dsimp only | split

theorem State.tcamWrite_keeps (h : Keeps L s0 s) (a2 : ℕ) (a3 : ℕ) (a4 : ℕ) (a5 : ℕ) (a6 : Word) (lr32 : L.r32 = true := by first | assumption | rfl) (lcirrus : L.cirrus = true := by first | assumption | rfl) (m : within 0x600000000000000000000000000000000000000000000 L.regs = true := by first | with_reducible assumption | (refine within_trans (by assumption) ?_; exact rfl) | rfl) :
    Keeps L s0 (State.tcamWrite s a2 a3 a4 a5 a6) := by
  unfold State.tcamWrite
  with_reducible repeat' first | assumption | intro _ | apply keeps_ite | exact has_ok m rfl | exact within_trans m rfl | exact custReg_has (has_ok m rfl) (has_ok m rfl) _ | apply State.commitEntry_keeps | apply State.holdWord_keeps | apply keeps_snd_ite | dsimp only | split

theorem State.ptypeWrite_keeps (h : Keeps L s0 s) (a2 : ℕ) (a3 : ℕ) (a4 : ℕ) (a5 : ℕ) (a6 : Word) (lr32 : L.r32 = true := by first | assumption | rfl) (lcirrus : L.cirrus = true := by first | assumption | rfl) (m : within 0x1800000000000000000000000000000000000000000000 L.regs = true := by first | with_reducible assumption | (refine within_trans (by assumption) ?_; exact rfl) | rfl) :
    Keeps L s0 (State.ptypeWrite s a2 a3 a4 a5 a6) := by
  unfold State.ptypeWrite
  with_reducible repeat' first | assumption | intro _ | apply keeps_ite | exact has_ok m rfl | exact within_trans m rfl | exact ptypeReg_has (has_ok m rfl) (has_ok m rfl) _ | apply State.commitEntry_keeps | apply State.holdWord_keeps | apply keeps_snd_ite | dsimp only | split

theorem execStateEntryCommit_keeps (h : Keeps L s0 s) (a1 : ℕ) (a2 : ℕ) (a3 : Word) (lr32 : L.r32 = true := by first | assumption | rfl) (lcirrus : L.cirrus = true := by first | assumption | rfl) (m : within 0x80000000000000000000000000000000000000000000 L.regs = true := by first | with_reducible assumption | (refine within_trans (by assumption) ?_; exact rfl) | rfl) :
    ∃ t, execStateEntryCommit a1 a2 a3 s = .next t ∧ Keeps L s0 t := by
  unfold execStateEntryCommit
  refine ⟨_, rfl, ?_⟩
  with_reducible repeat' first | assumption | intro _ | apply keeps_ite | exact has_ok m rfl | exact within_trans m rfl | apply State.when_keeps | apply State.stateTabWrite_keeps | apply keeps_snd_ite | dsimp only | split

theorem execParserTcamCommit_keeps (h : Keeps L s0 s) (a1 : ℕ) (a2 : ℕ) (a3 : ℕ) (a4 : Word) (lr32 : L.r32 = true := by first | assumption | rfl) (lcirrus : L.cirrus = true := by first | assumption | rfl) (m : within 0x600000000000000000000000000000000000000000000 L.regs = true := by first | with_reducible assumption | (refine within_trans (by assumption) ?_; exact rfl) | rfl) :
    ∃ t, execParserTcamCommit a1 a2 a3 a4 s = .next t ∧ Keeps L s0 t := by
  unfold execParserTcamCommit
  refine ⟨_, rfl, ?_⟩
  with_reducible repeat' first | assumption | intro _ | apply keeps_ite | exact has_ok m rfl | exact within_trans m rfl | apply State.when_keeps | apply State.tcamWrite_keeps | apply keeps_snd_ite | dsimp only | split

theorem execPtypeEntryCommit_keeps (h : Keeps L s0 s) (a1 : ℕ) (a2 : ℕ) (a3 : ℕ) (a4 : Word) (lr32 : L.r32 = true := by first | assumption | rfl) (lcirrus : L.cirrus = true := by first | assumption | rfl) (m : within 0x1800000000000000000000000000000000000000000000 L.regs = true := by first | with_reducible assumption | (refine within_trans (by assumption) ?_; exact rfl) | rfl) :
    ∃ t, execPtypeEntryCommit a1 a2 a3 a4 s = .next t ∧ Keeps L s0 t := by
  unfold execPtypeEntryCommit
  refine ⟨_, rfl, ?_⟩
  with_reducible repeat' first | assumption | intro _ | apply keeps_ite | exact has_ok m rfl | exact within_trans m rfl | apply State.when_keeps | apply State.ptypeWrite_keeps | apply keeps_snd_ite | dsimp only | split

theorem execEntryWordWrite_keeps (h : Keeps L s0 s) (a1 : ℕ) (a2 : ℕ) (a3 : ℕ) (a4 : ℕ) (a5 : Word) (lr32 : L.r32 = true := by first | assumption | rfl) (lcirrus : L.cirrus = true := by first | assumption | rfl) (m : within 0x1e80000000000000000000000000000000000000000000 L.regs = true := by first | with_reducible assumption | (refine within_trans (by assumption) ?_; exact rfl) | rfl) :
    ∃ t, execEntryWordWrite a1 a2 a3 a4 a5 s = .next t ∧ Keeps L s0 t := by
  unfold execEntryWordWrite
  refine ⟨_, rfl, ?_⟩
  with_reducible repeat' first | assumption | intro _ | apply keeps_ite | exact has_ok m rfl | exact within_trans m rfl | apply State.stateTabWrite_keeps | apply State.tcamWrite_keeps | apply State.ptypeWrite_keeps | apply keeps_snd_ite | dsimp only | split

theorem State.polCmd_keeps (h : Keeps L s0 s) (a2 : ℕ) (a3 : ℕ) (lr32 : L.r32 = true := by first | assumption | rfl) (lcirrus : L.cirrus = true := by first | assumption | rfl) (m : within 0xc000000000000000000000000000000000000000000 L.regs = true := by first | with_reducible assumption | (refine within_trans (by assumption) ?_; exact rfl) | rfl) :
    Keeps L s0 (State.polCmd s a2 a3) := by
  unfold State.polCmd
  with_reducible repeat' first | assumption | intro _ | apply keeps_ite | exact has_ok m rfl | exact within_trans m rfl | apply State.wr_keeps | apply State.fset_keeps | apply State.setPolicer_keeps | apply forN_keeps | apply keeps_snd_ite | dsimp only | split

theorem execPolicerWriteConfig_keeps (h : Keeps L s0 s) (a1 : ℕ) (lr32 : L.r32 = true := by first | assumption | rfl) (lcirrus : L.cirrus = true := by first | assumption | rfl) (m : within 0xc000000000000000000000000000000000000000000 L.regs = true := by first | with_reducible assumption | (refine within_trans (by assumption) ?_; exact rfl) | rfl) :
    ∃ t, execPolicerWriteConfig a1 s = .next t ∧ Keeps L s0 t := by
  unfold execPolicerWriteConfig
  refine ⟨_, rfl, ?_⟩
  with_reducible repeat' first | assumption | intro _ | apply keeps_ite | exact has_ok m rfl | exact within_trans m rfl | apply State.when_keeps | apply State.polCmd_keeps | apply keeps_snd_ite | dsimp only | split

theorem execPolicerReadConfig_keeps (h : Keeps L s0 s) (a1 : ℕ) (lr32 : L.r32 = true := by first | assumption | rfl) (lcirrus : L.cirrus = true := by first | assumption | rfl) (m : within 0xc000000000000000000000000000000000000000000 L.regs = true := by first | with_reducible assumption | (refine within_trans (by assumption) ?_; exact rfl) | rfl) :
    ∃ t, execPolicerReadConfig a1 s = .next t ∧ Keeps L s0 t := by
  unfold execPolicerReadConfig
  refine ⟨_, rfl, ?_⟩
  with_reducible repeat' first | assumption | intro _ | apply keeps_ite | exact has_ok m rfl | exact within_trans m rfl | apply State.when_keeps | apply State.polCmd_keeps | apply keeps_snd_ite | dsimp only | split

theorem execPolicerReadBucket_keeps (h : Keeps L s0 s) (a1 : ℕ) (lr32 : L.r32 = true := by first | assumption | rfl) (lcirrus : L.cirrus = true := by first | assumption | rfl) (m : within 0xc000000000000000000000000000000000000000000 L.regs = true := by first | with_reducible assumption | (refine within_trans (by assumption) ?_; exact rfl) | rfl) :
    ∃ t, execPolicerReadBucket a1 s = .next t ∧ Keeps L s0 t := by
  unfold execPolicerReadBucket
  refine ⟨_, rfl, ?_⟩
  with_reducible repeat' first | assumption | intro _ | apply keeps_ite | exact has_ok m rfl | exact within_trans m rfl | apply State.when_keeps | apply State.polCmd_keeps | apply keeps_snd_ite | dsimp only | split

theorem execPolicerCmdDone_keeps (h : Keeps L s0 s) (a1 : ℕ) (lr32 : L.r32 = true := by first | assumption | rfl) (m : within 0x4000000000000000000000000000000000000000000 L.regs = true := by first | with_reducible assumption | (refine within_trans (by assumption) ?_; exact rfl) | rfl) :
    ∃ t, execPolicerCmdDone a1 s = .next t ∧ Keeps L s0 t := by
  unfold execPolicerCmdDone
  refine ⟨_, rfl, ?_⟩
  with_reducible repeat' first | assumption | intro _ | apply keeps_ite | exact has_ok m rfl | exact within_trans m rfl | apply State.fset_keeps | apply keeps_snd_ite | dsimp only | split

end Sys2Proof.Machine
end

