-- ==== Sys2Proof/Laws/KeepsHalo.lean ====
section
/-!
SUPPORT. What each operation and each command of `Machine/Halo.lean` (Halo) leaves alone, in the terms of `Laws/Keeps.lean`.
-/

set_option Elab.async false

set_option linter.unusedTactic false
set_option linter.unreachableTactic false
set_option linter.unusedVariables false
namespace Sys2Proof.Machine

variable {L : Touch} {s0 s : State}

theorem State.setHt_keeps (h : Keeps L s0 s) (a2 : ℕ) (a3 : HaloTile) (lhalo : L.halo = true := by first | assumption | rfl) :
    Keeps L s0 (State.setHt s a2 a3) := by
  unfold State.setHt
  with_reducible repeat' first | assumption | intro _ | apply keeps_ite | apply keeps_snd_ite | dsimp only | split | exact Or.inl (by assumption) | exact Or.inr rfl | refine keeps_mk ?_ rfl rfl ?_ ?_ ?_ ?_ ?_ ?_ ?_ ?_ ?_ ?_ ?_ ?_ ?_ ?_

theorem State.setFlow_keeps (h : Keeps L s0 s) (a2 : ℕ) (a3 : ℕ) (a4 : Flow) (lhalo : L.halo = true := by first | assumption | rfl) :
    Keeps L s0 (State.setFlow s a2 a3 a4) := by
  unfold State.setFlow
  with_reducible repeat' first | assumption | intro _ | apply keeps_ite | apply State.setHt_keeps | apply keeps_snd_ite | dsimp only | split

theorem State.clearArr_keeps (h : Keeps L s0 s) (a2 : RName) (lr32 : L.r32 = true := by first | assumption | rfl) (lr64 : L.r64 = true := by first | assumption | rfl) (cp1 : L.has a2 = true := by first | with_reducible assumption | (refine has_ok (by assumption) ?_; exact rfl) | rfl) (cp1 : L.has a2 = true := by first | with_reducible assumption | (refine has_ok (by assumption) ?_; exact rfl) | rfl) : Keeps L s0 (State.clearArr s a2) := by
  have out : ∀ m i j, m ≠ a2 → (decide (regKey m i j < regKey a2 0 0) || decide (regKey a2 0 0 + 65536 * 65536 ≤ regKey m i j)) = true := by
    intro m i j e
    have : m.ctorIdx ≠ a2.ctorIdx := fun h => e (RName.ctorIdx_inj h)
    rw [Bool.or_eq_true, decide_eq_true_iff, decide_eq_true_iff]
    simp only [regKey]
    omega
  exact keeps_filter h _ _ a2 (fun m i j _ e => out m i j e) (fun m i j _ e => out m i j e)

theorem State.ringLost_keeps (h : Keeps L s0 s) (a2 : ℕ) (lhost : L.host = true := by first | assumption | rfl) :
    Keeps L s0 (State.ringLost s a2) := by
  unfold State.ringLost
  with_reducible repeat' first | assumption | intro _ | apply keeps_ite | apply State.setRing_keeps | apply keeps_snd_ite | dsimp only | split

theorem State.exportRec_keeps (h : Keeps L s0 s) (a2 : ℕ) (a3 : ℕ) (a4 : List Byte) (a5 : RName) (lr64 : L.r64 = true := by first | assumption | rfl) (lhost : L.host = true := by first | assumption | rfl) (lhalo : L.halo = true := by first | assumption | rfl) (cp4 : L.has a5 = true := by first | with_reducible assumption | (refine has_ok (by assumption) ?_; exact rfl) | rfl) :
    Keeps L s0 (State.exportRec s a2 a3 a4 a5) := by
  unfold State.exportRec
  with_reducible repeat' first | assumption | intro _ | apply keeps_ite | apply State.setHt_keeps | apply State.ringLost_keeps | apply State.bump_keeps | apply keeps_snd_ite | dsimp only | split

theorem State.flowExport_keeps (h : Keeps L s0 s) (a2 : ℕ) (a3 : ℕ) (a4 : ℕ) (lr64 : L.r64 = true := by first | assumption | rfl) (lhost : L.host = true := by first | assumption | rfl) (lhalo : L.halo = true := by first | assumption | rfl) (m : within 0x300000000000000000000000000000000000000000000000000000000000000000000000000000000000 L.regs = true := by first | with_reducible assumption | (refine within_trans (by assumption) ?_; exact rfl) | rfl) :
    Keeps L s0 (State.flowExport s a2 a3 a4) := by
  unfold State.flowExport
  with_reducible repeat' first | assumption | intro _ | apply keeps_ite | exact has_ok m rfl | exact within_trans m rfl | apply State.when_keeps | apply State.exportRec_keeps | apply State.bump_keeps | apply keeps_snd_ite | dsimp only | split

theorem State.flowFree_keeps (h : Keeps L s0 s) (a2 : ℕ) (a3 : ℕ) (lhalo : L.halo = true := by first | assumption | rfl) :
    Keeps L s0 (State.flowFree s a2 a3) := by
  unfold State.flowFree
  with_reducible repeat' first | assumption | intro _ | apply keeps_ite | apply State.setFlow_keeps | apply keeps_snd_ite | dsimp only | split

theorem State.flowRelease_keeps (h : Keeps L s0 s) (a2 : ℕ) (a3 : List Byte) (a4 : List Byte) (a5 : ParseInfo) (a6 : ℕ) (a7 : ℕ) (a8 : ℕ) (a9 : ℕ) (a10 : Bool) (a11 : Bool) (lr64 : L.r64 = true := by first | assumption | rfl) (lhost : L.host = true := by first | assumption | rfl) (lhalo : L.halo = true := by first | assumption | rfl) (m : within 0x300000000000000000000000000000000000000000000000000000000000000000000000000000000000 L.regs = true := by first | with_reducible assumption | (refine within_trans (by assumption) ?_; exact rfl) | rfl) :
    Keeps L s0 (State.flowRelease s a2 a3 a4 a5 a6 a7 a8 a9 a10 a11).2 := by
  unfold State.flowRelease
  with_reducible repeat' first | assumption | intro _ | apply keeps_ite | exact has_ok m rfl | exact within_trans m rfl | apply State.setFlow_keeps | apply State.when_keeps | apply State.flowExport_keeps | apply keeps_snd_ite | dsimp only | split

theorem State.flowBytes_keeps (h : Keeps L s0 s) (a2 : ℕ) (a3 : Option (ℕ × ℕ)) (a4 : ℕ) (lhalo : L.halo = true := by first | assumption | rfl) :
    Keeps L s0 (State.flowBytes s a2 a3 a4) := by
  unfold State.flowBytes
  with_reducible repeat' first | assumption | intro _ | apply keeps_ite | apply State.setFlow_keeps | apply keeps_snd_ite | dsimp only | split

theorem State.sendReport_keeps (h : Keeps L s0 s) (a2 : ℕ) (a3 : Option (ℕ × ℕ)) (a4 : ℕ) (lhalo : L.halo = true := by first | assumption | rfl) :
    Keeps L s0 (State.sendReport s a2 a3 a4) := by
  unfold State.sendReport
  with_reducible repeat' first | assumption | intro _ | apply keeps_ite | apply State.setHt_keeps | apply keeps_snd_ite | dsimp only | split

theorem execResidenceReport_keeps (h : Keeps L s0 s) (a1 : ℕ) (lhalo : L.halo = true := by first | assumption | rfl) :
    ∃ t, execResidenceReport a1 s = .next t ∧ Keeps L s0 t := by
  unfold execResidenceReport
  refine ⟨_, rfl, ?_⟩
  with_reducible repeat' first | assumption | intro _ | apply keeps_ite | apply State.setHt_keeps | apply State.setFlow_keeps | apply keeps_snd_ite | dsimp only | split

theorem execFlowScanVisit_keeps (h : Keeps L s0 s) (a1 : ℕ) (a2 : ℕ) (lr64 : L.r64 = true := by first | assumption | rfl) (lhost : L.host = true := by first | assumption | rfl) (lhalo : L.halo = true := by first | assumption | rfl) (m : within 0x300000000000000000000000000000000000000000000000000000000000000000000000000000000000 L.regs = true := by first | with_reducible assumption | (refine within_trans (by assumption) ?_; exact rfl) | rfl) :
    ∃ t, execFlowScanVisit a1 a2 s = .next t ∧ Keeps L s0 t := by
  unfold execFlowScanVisit
  refine ⟨_, rfl, ?_⟩
  with_reducible repeat' first | assumption | intro _ | apply keeps_ite | exact has_ok m rfl | exact within_trans m rfl | apply State.flowFree_keeps | apply State.flowExport_keeps | apply State.setFlow_keeps | apply keeps_snd_ite | dsimp only | split

theorem State.flowFlush_keeps (h : Keeps L s0 s) (lr32 : L.r32 = true := by first | assumption | rfl) (m : within 0x200000000000000000000000000000000000000000000000000000000000000000000000000000000 L.regs = true := by first | with_reducible assumption | (refine within_trans (by assumption) ?_; exact rfl) | rfl) :
    Keeps L s0 (State.flowFlush s) := by
  unfold State.flowFlush
  with_reducible repeat' first | assumption | intro _ | apply keeps_ite | exact has_ok m rfl | exact within_trans m rfl | apply State.fset_keeps | apply keeps_snd_ite | dsimp only | split

theorem execFlowFlush_keeps (h : Keeps L s0 s) (lr32 : L.r32 = true := by first | assumption | rfl) (m : within 0x200000000000000000000000000000000000000000000000000000000000000000000000000000000 L.regs = true := by first | with_reducible assumption | (refine within_trans (by assumption) ?_; exact rfl) | rfl) :
    ∃ t, execFlowFlush s = .next t ∧ Keeps L s0 t := by
  unfold execFlowFlush
  refine ⟨_, rfl, ?_⟩
  with_reducible repeat' first | assumption | intro _ | apply keeps_ite | exact has_ok m rfl | exact within_trans m rfl | apply State.flowFlush_keeps | apply keeps_snd_ite | dsimp only | split

theorem execFlowFlushDone_keeps (h : Keeps L s0 s) (lr32 : L.r32 = true := by first | assumption | rfl) (lr64 : L.r64 = true := by first | assumption | rfl) (lhost : L.host = true := by first | assumption | rfl) (lhalo : L.halo = true := by first | assumption | rfl) (m : within 0x300200000000000000000000000000000000000000000000000000000001800000000000000000000000 L.regs = true := by first | with_reducible assumption | (refine within_trans (by assumption) ?_; exact rfl) | rfl) :
    ∃ t, execFlowFlushDone s = .next t ∧ Keeps L s0 t := by
  unfold execFlowFlushDone
  refine ⟨_, rfl, ?_⟩
  with_reducible repeat' first | assumption | intro _ | apply keeps_ite | exact has_ok m rfl | exact within_trans m rfl | apply State.post_keeps | apply State.fset_keeps | apply State.each_keeps | apply State.flowFree_keeps | apply State.flowExport_keeps | apply keeps_snd_ite | dsimp only | split

theorem State.flowSeedWrite_keeps (h : Keeps L s0 s) (a2 : Word) (lr32 : L.r32 = true := by first | assumption | rfl) (m : within 0x1000000000000000000000000000000000000000000000000000000000000000000000000000000000 L.regs = true := by first | with_reducible assumption | (refine within_trans (by assumption) ?_; exact rfl) | rfl) :
    Keeps L s0 (State.flowSeedWrite s a2) := by
  unfold State.flowSeedWrite
  with_reducible repeat' first | assumption | intro _ | apply keeps_ite | exact has_ok m rfl | exact within_trans m rfl | apply State.wr_keeps | apply keeps_snd_ite | dsimp only | split

theorem execFlowSeedWrite_keeps (h : Keeps L s0 s) (a1 : Word) (lr32 : L.r32 = true := by first | assumption | rfl) (m : within 0x1000000000000000000000000000000000000000000000000000000000000000000000000000000000 L.regs = true := by first | with_reducible assumption | (refine within_trans (by assumption) ?_; exact rfl) | rfl) :
    ∃ t, execFlowSeedWrite a1 s = .next t ∧ Keeps L s0 t := by
  unfold execFlowSeedWrite
  refine ⟨_, rfl, ?_⟩
  with_reducible repeat' first | assumption | intro _ | apply keeps_ite | exact has_ok m rfl | exact within_trans m rfl | apply State.flowSeedWrite_keeps | apply keeps_snd_ite | dsimp only | split

theorem State.histAdd_keeps (h : Keeps L s0 s) (a2 : RName) (a3 : ℕ) (a4 : ℕ) (a5 : RName) (a6 : ℕ) (a7 : ℕ) (a8 : ℕ) (lr32 : L.r32 = true := by first | assumption | rfl) (cp1 : L.has a2 = true := by first | with_reducible assumption | (refine has_ok (by assumption) ?_; exact rfl) | rfl) (cp4 : L.has a5 = true := by first | with_reducible assumption | (refine has_ok (by assumption) ?_; exact rfl) | rfl) :
    Keeps L s0 (State.histAdd s a2 a3 a4 a5 a6 a7 a8) := by
  unfold State.histAdd
  with_reducible repeat' first | assumption | intro _ | apply keeps_ite | apply State.wr_keeps | apply keeps_snd_ite | dsimp only | split

theorem State.histC_keeps (h : Keeps L s0 s) (a2 : ℕ) (a3 : ℕ) (a4 : ℕ) (a5 : ℕ) (a6 : ℕ) (lr32 : L.r32 = true := by first | assumption | rfl) (m : within 0x50000000000000000000000000000000000000000000000000000000000000000000000000000000 L.regs = true := by first | with_reducible assumption | (refine within_trans (by assumption) ?_; exact rfl) | rfl) :
    Keeps L s0 (State.histC s a2 a3 a4 a5 a6) := by
  unfold State.histC
  with_reducible repeat' first | assumption | intro _ | apply keeps_ite | exact has_ok m rfl | exact within_trans m rfl | apply State.histAdd_keeps | apply keeps_snd_ite | dsimp only | split

theorem State.histP_keeps (h : Keeps L s0 s) (a2 : ℕ) (a3 : ℕ) (a4 : ℕ) (a5 : ℕ) (lr32 : L.r32 = true := by first | assumption | rfl) (m : within 0xa0000000000000000000000000000000000000000000000000000000000000000000000000000000 L.regs = true := by first | with_reducible assumption | (refine within_trans (by assumption) ?_; exact rfl) | rfl) :
    Keeps L s0 (State.histP s a2 a3 a4 a5) := by
  unfold State.histP
  with_reducible repeat' first | assumption | intro _ | apply keeps_ite | exact has_ok m rfl | exact within_trans m rfl | apply State.histAdd_keeps | apply keeps_snd_ite | dsimp only | split

theorem State.histLat_keeps (h : Keeps L s0 s) (a2 : ℕ) (a3 : ℕ) (a4 : ℕ) (lr32 : L.r32 = true := by first | assumption | rfl) (m : within 0xf0000000000000000000000000000000000000000000000000000000000000000000000000000000 L.regs = true := by first | with_reducible assumption | (refine within_trans (by assumption) ?_; exact rfl) | rfl) :
    Keeps L s0 (State.histLat s a2 a3 a4) := by
  unfold State.histLat
  with_reducible repeat' first | assumption | intro _ | apply keeps_ite | exact has_ok m rfl | exact within_trans m rfl | apply State.histP_keeps | apply State.histC_keeps | apply keeps_snd_ite | dsimp only | split

theorem execSampleInstant_keeps (h : Keeps L s0 s) (a1 : ℕ) (lr32 : L.r32 = true := by first | assumption | rfl) (m : within 0xf0000000000000000000000000000000000000000000000000000000000000000000000000000000 L.regs = true := by first | with_reducible assumption | (refine within_trans (by assumption) ?_; exact rfl) | rfl) :
    ∃ t, execSampleInstant a1 s = .next t ∧ Keeps L s0 t := by
  unfold execSampleInstant
  refine ⟨_, rfl, ?_⟩
  with_reducible repeat' first | assumption | intro _ | apply keeps_ite | exact has_ok m rfl | exact within_trans m rfl | apply State.each_keeps | apply State.histC_keeps | apply State.histP_keeps | apply forN_keeps | apply keeps_snd_ite | dsimp only | split

theorem State.histClear_keeps (h : Keeps L s0 s) (lr32 : L.r32 = true := by first | assumption | rfl) (lr64 : L.r64 = true := by first | assumption | rfl) (m : within 0xf0000000000000000000000000000000000000000000000000000000000000000000000000000000 L.regs = true := by first | with_reducible assumption | (refine within_trans (by assumption) ?_; exact rfl) | rfl) :
    Keeps L s0 (State.histClear s) := by
  unfold State.histClear
  with_reducible repeat' first | assumption | intro _ | apply keeps_ite | exact has_ok m rfl | exact within_trans m rfl | apply State.clearArr_keeps | apply keeps_snd_ite | dsimp only | split

theorem execHistClear_keeps (h : Keeps L s0 s) (lr32 : L.r32 = true := by first | assumption | rfl) (lr64 : L.r64 = true := by first | assumption | rfl) (m : within 0xf0000000000000000000000000000000000000000000000000000000000000000000000000000000 L.regs = true := by first | with_reducible assumption | (refine within_trans (by assumption) ?_; exact rfl) | rfl) :
    ∃ t, execHistClear s = .next t ∧ Keeps L s0 t := by
  unfold execHistClear
  refine ⟨_, rfl, ?_⟩
  with_reducible repeat' first | assumption | intro _ | apply keeps_ite | exact has_ok m rfl | exact within_trans m rfl | apply State.histClear_keeps | apply keeps_snd_ite | dsimp only | split

theorem State.histExport_keeps (h : Keeps L s0 s) (a2 : ℕ) (a3 : RName) (a4 : ℕ) (a5 : ℕ) (a6 : RName) (a7 : ℕ) (a8 : ℕ) (a9 : ℕ) (a10 : ℕ) (lr64 : L.r64 = true := by first | assumption | rfl) (lhost : L.host = true := by first | assumption | rfl) (lhalo : L.halo = true := by first | assumption | rfl) (m : within 0x800000000000000000000000000000000000000000000000000000000000000000000000000000000000 L.regs = true := by first | with_reducible assumption | (refine within_trans (by assumption) ?_; exact rfl) | rfl) :
    Keeps L s0 (State.histExport s a2 a3 a4 a5 a6 a7 a8 a9 a10) := by
  unfold State.histExport
  with_reducible repeat' first | assumption | intro _ | apply keeps_ite | exact has_ok m rfl | exact within_trans m rfl | apply State.exportRec_keeps | apply keeps_snd_ite | dsimp only | split

theorem State.histExports_keeps (h : Keeps L s0 s) (a2 : ℕ) (lr64 : L.r64 = true := by first | assumption | rfl) (lhost : L.host = true := by first | assumption | rfl) (lhalo : L.halo = true := by first | assumption | rfl) (m : within 0x800000000000000000000000000000000000000000000000000000000000000000000000000000000000 L.regs = true := by first | with_reducible assumption | (refine within_trans (by assumption) ?_; exact rfl) | rfl) :
    Keeps L s0 (State.histExports s a2) := by
  unfold State.histExports
  with_reducible repeat' first | assumption | intro _ | apply keeps_ite | exact has_ok m rfl | exact within_trans m rfl | apply State.each_keeps | apply State.histExport_keeps | apply forN_keeps | apply keeps_snd_ite | dsimp only | split

theorem State.epochEdge_keeps (h : Keeps L s0 s) (lr32 : L.r32 = true := by first | assumption | rfl) (lr64 : L.r64 = true := by first | assumption | rfl) (lhost : L.host = true := by first | assumption | rfl) (lhalo : L.halo = true := by first | assumption | rfl) (m : within 0x8080f6000000000000000000000000000000000000000000000000000001800000000000000000000000 L.regs = true := by first | with_reducible assumption | (refine within_trans (by assumption) ?_; exact rfl) | rfl) :
    Keeps L s0 (State.epochEdge s) := by
  unfold State.epochEdge
  with_reducible repeat' first | assumption | intro _ | apply keeps_ite | exact has_ok m rfl | exact within_trans m rfl | apply State.clearArr_keeps | apply State.each_keeps | apply State.wrw_keeps | apply State.wr_keeps | apply State.bump_keeps | apply State.post_keeps | apply State.histClear_keeps | apply State.histExports_keeps | apply keeps_snd_ite | dsimp only | split

theorem State.countEffect_keeps (h : Keeps L s0 s) (a2 : ℕ) (a3 : ℕ) (a4 : ℕ) (lr32 : L.r32 = true := by first | assumption | rfl) (lr64 : L.r64 = true := by first | assumption | rfl) (m : within 0x1000108000000000000000000000000000000000000000000000000000000000000000000000000000000 L.regs = true := by first | with_reducible assumption | (refine within_trans (by assumption) ?_; exact rfl) | rfl) :
    Keeps L s0 (State.countEffect s a2 a3 a4) := by
  unfold State.countEffect
  with_reducible repeat' first | assumption | intro _ | apply keeps_ite | exact has_ok m rfl | exact within_trans m rfl | apply State.bump_keeps | apply State.addOvf_keeps | apply keeps_snd_ite | dsimp only | split

theorem State.clearBit_keeps (h : Keeps L s0 s) (a2 : RName) (a3 : ℕ) (a4 : ℕ) (lr32 : L.r32 = true := by first | assumption | rfl) (cp1 : L.has a2 = true := by first | with_reducible assumption | (refine has_ok (by assumption) ?_; exact rfl) | rfl) :
    Keeps L s0 (State.clearBit s a2 a3 a4) := by
  unfold State.clearBit
  with_reducible repeat' first | assumption | intro _ | apply keeps_ite | apply State.wr_keeps | apply keeps_snd_ite | dsimp only | split

theorem State.statCmd_keeps (h : Keeps L s0 s) (a2 : Word) (lr32 : L.r32 = true := by first | assumption | rfl) (lr64 : L.r64 = true := by first | assumption | rfl) (m : within 0x108000000000000000000000000000000000000000000000000000000000000000000000000000000 L.regs = true := by first | with_reducible assumption | (refine within_trans (by assumption) ?_; exact rfl) | rfl) :
    Keeps L s0 (State.statCmd s a2) := by
  unfold State.statCmd
  with_reducible repeat' first | assumption | intro _ | apply keeps_ite | exact has_ok m rfl | exact within_trans m rfl | apply State.each_keeps | apply State.clearBit_keeps | apply State.wrw_keeps | apply keeps_snd_ite | dsimp only | split

theorem execStatClear_keeps (h : Keeps L s0 s) (a1 : ℕ) (a2 : ℕ) (a3 : Bool) (lr32 : L.r32 = true := by first | assumption | rfl) (lr64 : L.r64 = true := by first | assumption | rfl) (m : within 0x108000000000000000000000000000000000000000000000000000000000000000000000000000000 L.regs = true := by first | with_reducible assumption | (refine within_trans (by assumption) ?_; exact rfl) | rfl) :
    ∃ t, execStatClear a1 a2 a3 s = .next t ∧ Keeps L s0 t := by
  unfold execStatClear
  refine ⟨_, rfl, ?_⟩
  with_reducible repeat' first | assumption | intro _ | apply keeps_ite | exact has_ok m rfl | exact within_trans m rfl | apply State.statCmd_keeps | apply keeps_snd_ite | dsimp only | split

theorem State.pcCfgWrite_keeps (h : Keeps L s0 s) (a2 : ℕ) (a3 : ℕ) (a4 : ℕ) (a5 : Word) (lr32 : L.r32 = true := by first | assumption | rfl) (lr64 : L.r64 = true := by first | assumption | rfl) (m : within 0x1c00000000000000000000000000000000000000000000000000002000000000000000000000000 L.regs = true := by first | with_reducible assumption | (refine within_trans (by assumption) ?_; exact rfl) | rfl) :
    Keeps L s0 (State.pcCfgWrite s a2 a3 a4 a5) := by
  unfold State.pcCfgWrite
  with_reducible repeat' first | assumption | intro _ | apply keeps_ite | exact has_ok m rfl | exact within_trans m rfl | apply State.bump_keeps | apply State.wr_keeps | apply State.clearBit_keeps | apply State.wrw_keeps | apply keeps_snd_ite | dsimp only | split

theorem execPcCfgWrite_keeps (h : Keeps L s0 s) (a1 : ℕ) (a2 : ℕ) (a3 : ℕ) (a4 : Word) (lr32 : L.r32 = true := by first | assumption | rfl) (lr64 : L.r64 = true := by first | assumption | rfl) (lhost : L.host = true := by first | assumption | rfl) (lsquall : L.squall = true := by first | assumption | rfl) (m : within 0x1c00000000000000000000000000000000000000000000000800803b80000000000000001082000 L.regs = true := by first | with_reducible assumption | (refine within_trans (by assumption) ?_; exact rfl) | rfl) :
    ∃ t, execPcCfgWrite a1 a2 a3 a4 s = .next t ∧ Keeps L s0 t := by
  unfold execPcCfgWrite
  refine ⟨_, rfl, ?_⟩
  with_reducible repeat' first | assumption | intro _ | apply keeps_ite | exact has_ok m rfl | exact within_trans m rfl | apply State.underRight_keeps | apply State.when_keeps | apply State.pcCfgWrite_keeps | apply keeps_snd_ite | dsimp only | split

theorem State.grpCtlWrite_keeps (h : Keeps L s0 s) (a2 : ℕ) (a3 : ℕ) (a4 : Word) (lr32 : L.r32 = true := by first | assumption | rfl) (lr64 : L.r64 = true := by first | assumption | rfl) (m : within 0x800000000000000000000000000000000000000000000000000000000000002000000000000000000000000 L.regs = true := by first | with_reducible assumption | (refine within_trans (by assumption) ?_; exact rfl) | rfl) :
    Keeps L s0 (State.grpCtlWrite s a2 a3 a4) := by
  unfold State.grpCtlWrite
  with_reducible repeat' first | assumption | intro _ | apply keeps_ite | exact has_ok m rfl | exact within_trans m rfl | apply State.bump_keeps | apply State.fset_keeps | apply keeps_snd_ite | dsimp only | split

theorem execGrpCtlWrite_keeps (h : Keeps L s0 s) (a1 : ℕ) (a2 : ℕ) (a3 : Word) (lr32 : L.r32 = true := by first | assumption | rfl) (lr64 : L.r64 = true := by first | assumption | rfl) (lhost : L.host = true := by first | assumption | rfl) (lsquall : L.squall = true := by first | assumption | rfl) (m : within 0x800000000000000000000000000000000000000000000000000000000800803b80000000000000001082000 L.regs = true := by first | with_reducible assumption | (refine within_trans (by assumption) ?_; exact rfl) | rfl) :
    ∃ t, execGrpCtlWrite a1 a2 a3 s = .next t ∧ Keeps L s0 t := by
  unfold execGrpCtlWrite
  refine ⟨_, rfl, ?_⟩
  with_reducible repeat' first | assumption | intro _ | apply keeps_ite | exact has_ok m rfl | exact within_trans m rfl | apply State.underRight_keeps | apply State.grpCtlWrite_keeps | apply keeps_snd_ite | dsimp only | split

theorem State.bar4Write_keeps (h : Keeps L s0 s) (lr64 : L.r64 = true := by first | assumption | rfl) (m : within 0x4000000000000000000000000000000000000000000000000000000000000000000000000000000000000 L.regs = true := by first | with_reducible assumption | (refine within_trans (by assumption) ?_; exact rfl) | rfl) :
    Keeps L s0 (State.bar4Write s) := by
  unfold State.bar4Write
  with_reducible repeat' first | assumption | intro _ | apply keeps_ite | exact has_ok m rfl | exact within_trans m rfl | apply State.when_keeps | apply State.bump_keeps | apply keeps_snd_ite | dsimp only | split

theorem execBar4Write_keeps (h : Keeps L s0 s) (a1 : ℕ) (a2 : ℕ) (a3 : DWord) (lr64 : L.r64 = true := by first | assumption | rfl) (m : within 0x4000000000000000000000000000000000000000000000000000000000000000000000000000000000000 L.regs = true := by first | with_reducible assumption | (refine within_trans (by assumption) ?_; exact rfl) | rfl) :
    ∃ t, execBar4Write a1 a2 a3 s = .next t ∧ Keeps L s0 t := by
  unfold execBar4Write
  refine ⟨_, rfl, ?_⟩
  with_reducible repeat' first | assumption | intro _ | apply keeps_ite | exact has_ok m rfl | exact within_trans m rfl | apply State.bar4Write_keeps | apply keeps_snd_ite | dsimp only | split

theorem State.offer_keeps (h : Keeps L s0 s) (a2 : ℕ) (a3 : ℕ) (a4 : CapItem) (lr64 : L.r64 = true := by first | assumption | rfl) (lfree : L.free = true := by first | assumption | rfl) (lhost : L.host = true := by first | assumption | rfl) (lhalo : L.halo = true := by first | assumption | rfl) (m : within 0x400000000000000000000000000000000000000000000000000000000000000000000000000000000000 L.regs = true := by first | with_reducible assumption | (refine within_trans (by assumption) ?_; exact rfl) | rfl) :
    Keeps L s0 (State.offer s a2 a3 a4) := by
  unfold State.offer
  with_reducible repeat' first | assumption | intro _ | apply keeps_ite | exact has_ok m rfl | exact within_trans m rfl | apply State.draw_keeps | apply State.setHt_keeps | apply State.ringLost_keeps | apply State.bump_keeps | apply keeps_snd_ite | (refine keeps_of_eq (by assumption) ?_) | dsimp only | split

theorem State.offerIngress_keeps (h : Keeps L s0 s) (a2 : ℕ) (a3 : CapItem) (lr64 : L.r64 = true := by first | assumption | rfl) (lfree : L.free = true := by first | assumption | rfl) (lhost : L.host = true := by first | assumption | rfl) (lhalo : L.halo = true := by first | assumption | rfl) (m : within 0x400000000000000000000000000000000000000000000000000000000000000000000000000000000000 L.regs = true := by first | with_reducible assumption | (refine within_trans (by assumption) ?_; exact rfl) | rfl) :
    Keeps L s0 (State.offerIngress s a2 a3) := by
  unfold State.offerIngress
  with_reducible repeat' first | assumption | intro _ | apply keeps_ite | exact has_ok m rfl | exact within_trans m rfl | apply State.offer_keeps | apply keeps_snd_ite | dsimp only | split

theorem State.offerEgress_keeps (h : Keeps L s0 s) (a2 : ℕ) (a3 : ℕ) (a4 : CapItem) (lr64 : L.r64 = true := by first | assumption | rfl) (lfree : L.free = true := by first | assumption | rfl) (lhost : L.host = true := by first | assumption | rfl) (lhalo : L.halo = true := by first | assumption | rfl) (m : within 0x400000000000000000000000000000000000000000000000000000000000000000000000000000000000 L.regs = true := by first | with_reducible assumption | (refine within_trans (by assumption) ?_; exact rfl) | rfl) :
    Keeps L s0 (State.offerEgress s a2 a3 a4) := by
  unfold State.offerEgress
  with_reducible repeat' first | assumption | intro _ | apply keeps_ite | exact has_ok m rfl | exact within_trans m rfl | apply State.offer_keeps | apply keeps_snd_ite | dsimp only | split

theorem State.ioam_keeps (h : Keeps L s0 s) (a2 : IoamCtx) (a3 : List Byte) (lr64 : L.r64 = true := by first | assumption | rfl) (lhalo : L.halo = true := by first | assumption | rfl) (m : within 0x2000000000000000000000000000000000000000000000000000000000000000000000000000000000000 L.regs = true := by first | with_reducible assumption | (refine within_trans (by assumption) ?_; exact rfl) | rfl) :
    Keeps L s0 (State.ioam s a2 a3).2 := by
  unfold State.ioam
  with_reducible repeat' first | assumption | intro _ | apply keeps_ite | exact has_ok m rfl | exact within_trans m rfl | apply State.bump_keeps | apply keeps_snd_ite | dsimp only | split | exact Or.inl (by assumption) | exact Or.inr rfl | refine keeps_mk ?_ rfl rfl ?_ ?_ ?_ ?_ ?_ ?_ ?_ ?_ ?_ ?_ ?_ ?_ ?_ ?_

end Sys2Proof.Machine
end

