-- ==== Sys2Proof/Laws/KeepsTrust.lean ====
section
/-!
SUPPORT. What each operation and each command of `Machine/Trust.lean` (signatures and measurements) leaves alone, in the terms of `Laws/Keeps.lean`.
-/

set_option Elab.async false

set_option linter.unusedTactic false
set_option linter.unreachableTactic false
set_option linter.unusedVariables false
namespace Sys2Proof.Machine

variable {L : Touch} {s0 s : State}

theorem State.setMeas_keeps (h : Keeps L s0 s) (a2 : ℕ) (a3 : List Byte) (lr32 : L.r32 = true := by first | assumption | rfl) (m : within 0x20000000000000000000000000000000000 L.regs = true := by first | with_reducible assumption | (refine within_trans (by assumption) ?_; exact rfl) | rfl) :
    Keeps L s0 (State.setMeas s a2 a3) := by
  unfold State.setMeas
  with_reducible repeat' first | assumption | intro _ | apply keeps_ite | exact has_ok m rfl | exact within_trans m rfl | apply State.wr_keeps | apply forN_keeps | apply keeps_snd_ite | dsimp only | split

theorem State.setArb_keeps (h : Keeps L s0 s) (a2 : ℕ) (a3 : ℕ) (lr32 : L.r32 = true := by first | assumption | rfl) (m : within 0x40000000000000000000000000000000000 L.regs = true := by first | with_reducible assumption | (refine within_trans (by assumption) ?_; exact rfl) | rfl) :
    Keeps L s0 (State.setArb s a2 a3) := by
  unfold State.setArb
  with_reducible repeat' first | assumption | intro _ | apply keeps_ite | exact has_ok m rfl | exact within_trans m rfl | apply State.wr_keeps | apply keeps_snd_ite | dsimp only | split

theorem State.measureOp_keeps (h : Keeps L s0 s) (a2 : TeOp) (ltrust : L.trust = true := by first | assumption | rfl) :
    Keeps L s0 (State.measureOp s a2) := by
  unfold State.measureOp
  with_reducible repeat' first | assumption | intro _ | apply keeps_ite | apply keeps_snd_ite | dsimp only | split | exact Or.inl (by assumption) | exact Or.inr rfl | refine keeps_mk ?_ rfl rfl ?_ ?_ ?_ ?_ ?_ ?_ ?_ ?_ ?_ ?_ ?_ ?_ ?_ ?_

theorem State.measureRestart_keeps (h : Keeps L s0 s) (ltrust : L.trust = true := by first | assumption | rfl) :
    Keeps L s0 (State.measureRestart s) := by
  unfold State.measureRestart
  with_reducible repeat' first | assumption | intro _ | apply keeps_ite | apply keeps_snd_ite | dsimp only | split | exact Or.inl (by assumption) | exact Or.inr rfl | refine keeps_mk ?_ rfl rfl ?_ ?_ ?_ ?_ ?_ ?_ ?_ ?_ ?_ ?_ ?_ ?_ ?_ ?_

theorem State.measureCommit_keeps (h : Keeps L s0 s) (a2 : ℕ) (lr32 : L.r32 = true := by first | assumption | rfl) (ltrust : L.trust = true := by first | assumption | rfl) (m : within 0x420000000000000000000000000000000000 L.regs = true := by first | with_reducible assumption | (refine within_trans (by assumption) ?_; exact rfl) | rfl) :
    Keeps L s0 (State.measureCommit s a2) := by
  unfold State.measureCommit
  with_reducible repeat' first | assumption | intro _ | apply keeps_ite | exact has_ok m rfl | exact within_trans m rfl | apply State.measureRestart_keeps | apply State.wr_keeps | apply State.setMeas_keeps | apply keeps_snd_ite | dsimp only | split

theorem State.bnCfgWrite_keeps (h : Keeps L s0 s) (a2 : Word) (lr32 : L.r32 = true := by first | assumption | rfl) (m : within 0x4000000000000000000000000000000000 L.regs = true := by first | with_reducible assumption | (refine within_trans (by assumption) ?_; exact rfl) | rfl) :
    Keeps L s0 (State.bnCfgWrite s a2) := by
  unfold State.bnCfgWrite
  with_reducible repeat' first | assumption | intro _ | apply keeps_ite | exact has_ok m rfl | exact within_trans m rfl | apply State.wr_keeps | apply keeps_snd_ite | dsimp only | split

end Sys2Proof.Machine
end

