-- ==== Sys2Proof/Laws/KeepsEngine.lean ====
section
/-!
SUPPORT. What each operation and each command of `Machine/Engine.lean` (the microword engine) leaves alone, in the terms of `Laws/Keeps.lean`.
-/

set_option Elab.async false

set_option linter.unusedTactic false
set_option linter.unreachableTactic false
set_option linter.unusedVariables false
namespace Sys2Proof.Machine

variable {L : Touch} {s0 s : State}

theorem State.emSet_keeps (h : Keeps L s0 s) (a2 : ℕ) (a3 : Option EmEntry) (lte : L.te = true := by first | assumption | rfl) :
    Keeps L s0 (State.emSet s a2 a3) := by
  unfold State.emSet
  with_reducible repeat' first | assumption | intro _ | apply keeps_ite | apply keeps_snd_ite | dsimp only | split | exact Or.inl (by assumption) | exact Or.inr rfl | refine keeps_mk ?_ rfl rfl ?_ ?_ ?_ ?_ ?_ ?_ ?_ ?_ ?_ ?_ ?_ ?_ ?_ ?_

theorem State.mend_keeps (h : Keeps L s0 s) (a2 : ℕ) (a3 : ℕ) (lte : L.te = true := by first | assumption | rfl) :
    Keeps L s0 (State.mend s a2 a3) := by
  unfold State.mend
  with_reducible repeat' first | assumption | intro _ | apply keeps_ite | apply keeps_snd_ite | dsimp only | split | exact Or.inl (by assumption) | exact Or.inr rfl | refine keeps_mk ?_ rfl rfl ?_ ?_ ?_ ?_ ?_ ?_ ?_ ?_ ?_ ?_ ?_ ?_ ?_ ?_

theorem State.emPut_keeps (h : Keeps L s0 s) (a2 : ℕ) (a3 : Option EmEntry) (lte : L.te = true := by first | assumption | rfl) :
    Keeps L s0 (State.emPut s a2 a3) := by
  unfold State.emPut
  with_reducible repeat' first | assumption | intro _ | apply keeps_ite | apply State.mend_keeps | apply State.emSet_keeps | apply keeps_snd_ite | dsimp only | split

theorem State.ageFollows_keeps (h : Keeps L s0 s) (a2 : ℕ) (a3 : ℕ) (lte : L.te = true := by first | assumption | rfl) :
    Keeps L s0 (State.ageFollows s a2 a3) := by
  unfold State.ageFollows
  with_reducible repeat' first | assumption | intro _ | apply keeps_ite | apply keeps_snd_ite | dsimp only | split | exact Or.inl (by assumption) | exact Or.inr rfl | refine keeps_mk ?_ rfl rfl ?_ ?_ ?_ ?_ ?_ ?_ ?_ ?_ ?_ ?_ ?_ ?_ ?_ ?_

theorem State.emMoves_keeps (h : Keeps L s0 s) (a2 : List ℕ) (lte : L.te = true := by first | assumption | rfl) : Keeps L s0 (State.emMoves s a2) := by
  induction s, a2 using State.emMoves.induct with
  | case1 s d i rest ih =>
    unfold State.emMoves
    exact ih (State.ageFollows_keeps (State.emPut_keeps (State.emPut_keeps h _ _) _ _) _ _)
  | case2 s l hl =>
    unfold State.emMoves
    split
    · exact absurd rfl (hl _ _ _)
    · exact h

theorem State.emPlace_keeps (h : Keeps L s0 s) (a2 : ℕ) (a3 : List Byte) {a : ℕ} {t : State}
    (e : State.emPlace s a2 a3 = some (a, t)) (lte : L.te = true := by first | assumption | rfl) : Keeps L s0 t := by
  unfold State.emPlace at e
  split at e
  · cases e; exact h
  · split at e
    · cases e
      with_reducible repeat' first | exact State.emMoves_keeps h _ | exact Or.inl (by assumption) | exact Or.inr rfl | refine keeps_mk ?_ rfl rfl ?_ ?_ ?_ ?_ ?_ ?_ ?_ ?_ ?_ ?_ ?_ ?_ ?_ ?_
    · cases e

theorem State.touch_keeps (h : Keeps L s0 s) (a2 : ℕ) (a3 : ℕ) (lte : L.te = true := by first | assumption | rfl) :
    Keeps L s0 (State.touch s a2 a3) := by
  unfold State.touch
  with_reducible repeat' first | assumption | intro _ | apply keeps_ite | apply State.emSet_keeps | apply keeps_snd_ite | dsimp only | split

theorem State.emOp_keeps (h : Keeps L s0 s) (a2 : TeOp) (lte : L.te = true := by first | assumption | rfl) : Keeps L s0 (State.emOp s a2).2 := by
  unfold State.emOp
  dsimp only
  split <;> (try exact h)
  · split
    · next hp => exact State.emPut_keeps (State.emPlace_keeps h _ _ hp) _ _
    · exact h
  · split
    · exact State.emPut_keeps h _ _
    · exact h
  · split
    · split
      · next hp =>
        refine State.emPut_keeps (State.emPlace_keeps ?_ _ _ hp) _ _
        split
        · exact State.emSet_keeps h _ _
        · exact h
      · exact h
    · exact h
  all_goals
    repeat' first | with_reducible assumption | with_reducible apply State.emPut_keeps | with_reducible apply State.emSet_keeps | with_reducible exact State.emSet_keeps (by assumption) _ _ |  split

theorem State.setLpm_keeps (h : Keeps L s0 s) (a2 : List LpmEntry) (lte : L.te = true := by first | assumption | rfl) :
    Keeps L s0 (State.setLpm s a2) := by
  unfold State.setLpm
  with_reducible repeat' first | assumption | intro _ | apply keeps_ite | apply keeps_snd_ite | dsimp only | split | exact Or.inl (by assumption) | exact Or.inr rfl | refine keeps_mk ?_ rfl rfl ?_ ?_ ?_ ?_ ?_ ?_ ?_ ?_ ?_ ?_ ?_ ?_ ?_ ?_

theorem State.lpmOp_keeps (h : Keeps L s0 s) (a2 : TeOp) (lte : L.te = true := by first | assumption | rfl) :
    Keeps L s0 (State.lpmOp s a2).2 := by
  unfold State.lpmOp
  with_reducible repeat' first | assumption | intro _ | apply keeps_ite | apply State.mend_keeps | apply State.setLpm_keeps | apply keeps_snd_ite | dsimp only | split

theorem State.aclSet_keeps (h : Keeps L s0 s) (a2 : ℕ) (a3 : Option AclEntry) (lte : L.te = true := by first | assumption | rfl) :
    Keeps L s0 (State.aclSet s a2 a3) := by
  unfold State.aclSet
  with_reducible repeat' first | assumption | intro _ | apply keeps_ite | apply keeps_snd_ite | dsimp only | split | exact Or.inl (by assumption) | exact Or.inr rfl | refine keeps_mk ?_ rfl rfl ?_ ?_ ?_ ?_ ?_ ?_ ?_ ?_ ?_ ?_ ?_ ?_ ?_ ?_

theorem State.aclOp_keeps (h : Keeps L s0 s) (a2 : TeOp) (lte : L.te = true := by first | assumption | rfl) :
    Keeps L s0 (State.aclOp s a2).2 := by
  unfold State.aclOp
  with_reducible repeat' first | assumption | intro _ | apply keeps_ite | apply State.mend_keeps | apply State.aclSet_keeps | apply keeps_snd_ite | dsimp only | split

theorem State.setMember_keeps (h : Keeps L s0 s) (a2 : ℕ) (a3 : BitVec 64) (lte : L.te = true := by first | assumption | rfl) :
    Keeps L s0 (State.setMember s a2 a3) := by
  unfold State.setMember
  with_reducible repeat' first | assumption | intro _ | apply keeps_ite | apply keeps_snd_ite | dsimp only | split | exact Or.inl (by assumption) | exact Or.inr rfl | refine keeps_mk ?_ rfl rfl ?_ ?_ ?_ ?_ ?_ ?_ ?_ ?_ ?_ ?_ ?_ ?_ ?_ ?_

theorem State.badClean_keeps (h : Keeps L s0 s) (lte : L.te = true := by first | assumption | rfl) :
    Keeps L s0 (State.badClean s) := by
  unfold State.badClean
  with_reducible repeat' first | assumption | intro _ | apply keeps_ite | apply keeps_snd_ite | dsimp only | split | exact Or.inl (by assumption) | exact Or.inr rfl | refine keeps_mk ?_ rfl rfl ?_ ?_ ?_ ?_ ?_ ?_ ?_ ?_ ?_ ?_ ?_ ?_ ?_ ?_

theorem State.setLive_keeps (h : Keeps L s0 s) (a2 : ℕ) (a3 : Bool) (lte : L.te = true := by first | assumption | rfl) :
    Keeps L s0 (State.setLive s a2 a3) := by
  unfold State.setLive
  with_reducible repeat' first | assumption | intro _ | apply keeps_ite | apply State.setMember_keeps | apply keeps_snd_ite | dsimp only | split

theorem State.emFlush_keeps (h : Keeps L s0 s) (a2 : ℕ) (a3 : ℕ) (lte : L.te = true := by first | assumption | rfl) :
    Keeps L s0 (State.emFlush s a2 a3).2 := by
  unfold State.emFlush
  with_reducible repeat' first | assumption | intro _ | apply keeps_ite | apply State.badClean_keeps | apply keeps_snd_ite | dsimp only | split | exact Or.inl (by assumption) | exact Or.inr rfl | refine keeps_mk ?_ rfl rfl ?_ ?_ ?_ ?_ ?_ ?_ ?_ ?_ ?_ ?_ ?_ ?_ ?_ ?_

theorem State.teDo_keeps (h : Keeps L s0 s) (a2 : TeOp) (lte : L.te = true := by first | assumption | rfl) :
    Keeps L s0 (State.teDo s a2).2.2 := by
  unfold State.teDo
  with_reducible repeat' first | assumption | intro _ | apply keeps_ite | apply State.emFlush_keeps | apply State.emOp_keeps | apply State.lpmOp_keeps | apply State.aclOp_keeps | apply State.mend_keeps | apply State.setLive_keeps | apply State.setMember_keeps | apply keeps_snd_ite | (refine keeps_of_eq (by assumption) ?_) | dsimp only | split | exact Or.inl (by assumption) | exact Or.inr rfl | refine keeps_mk ?_ rfl rfl ?_ ?_ ?_ ?_ ?_ ?_ ?_ ?_ ?_ ?_ ?_ ?_ ?_ ?_

theorem State.teAccept_keeps (h : Keeps L s0 s) (a2 : TeSrc) (a3 : TeOp) (lte : L.te = true := by first | assumption | rfl) :
    Keeps L s0 (State.teAccept s a2 a3) := by
  unfold State.teAccept
  with_reducible repeat' first | assumption | intro _ | apply keeps_ite | apply keeps_snd_ite | dsimp only | split | exact Or.inl (by assumption) | exact Or.inr rfl | refine keeps_mk ?_ rfl rfl ?_ ?_ ?_ ?_ ?_ ?_ ?_ ?_ ?_ ?_ ?_ ?_ ?_ ?_

theorem State.teGo_keeps (h : Keeps L s0 s) (lr32 : L.r32 = true := by first | assumption | rfl) (lte : L.te = true := by first | assumption | rfl) (m : within 0x200000000000000000000000000000000000000000000000000000000000000000000000000000000000000000 L.regs = true := by first | with_reducible assumption | (refine within_trans (by assumption) ?_; exact rfl) | rfl) :
    Keeps L s0 (State.teGo s) := by
  unfold State.teGo
  with_reducible repeat' first | assumption | intro _ | apply keeps_ite | exact has_ok m rfl | exact within_trans m rfl | apply State.fset_keeps | apply State.teAccept_keeps | apply keeps_snd_ite | dsimp only | split

theorem State.teFinish_keeps (h : Keeps L s0 s) (a2 : TeSrc) (a3 : TeOp) (a4 : ℕ) (a5 : List Byte) (lr32 : L.r32 = true := by first | assumption | rfl) (lr64 : L.r64 = true := by first | assumption | rfl) (lmem : L.mem = true := by first | assumption | rfl) (lhost : L.host = true := by first | assumption | rfl) (lsquall : L.squall = true := by first | assumption | rfl) (lte : L.te = true := by first | assumption | rfl) (m : within 0x2200000000000000000000000000380000000000000000000000000000000822801b80000000000000001082000 L.regs = true := by first | with_reducible assumption | (refine within_trans (by assumption) ?_; exact rfl) | rfl) :
    Keeps L s0 (State.teFinish s a2 a3 a4 a5) := by
  unfold State.teFinish
  with_reducible repeat' first | assumption | intro _ | apply keeps_ite | exact has_ok m rfl | exact within_trans m rfl | apply State.wr_keeps | apply State.fset_keeps | apply State.complete_keeps | apply State.hostPut_keeps | apply State.violation_keeps | apply forN_keeps | apply keeps_snd_ite | dsimp only | split | exact Or.inl (by assumption) | exact Or.inr rfl | refine keeps_mk ?_ rfl rfl ?_ ?_ ?_ ?_ ?_ ?_ ?_ ?_ ?_ ?_ ?_ ?_ ?_ ?_

theorem State.slotTaken_keeps (h : Keeps L s0 s) (a2 : TeSlot) (lte : L.te = true := by first | assumption | rfl) :
    Keeps L s0 (State.slotTaken s a2) := by
  unfold State.slotTaken
  with_reducible repeat' first | assumption | intro _ | apply keeps_ite | apply keeps_snd_ite | dsimp only | split | exact Or.inl (by assumption) | exact Or.inr rfl | refine keeps_mk ?_ rfl rfl ?_ ?_ ?_ ?_ ?_ ?_ ?_ ?_ ?_ ?_ ?_ ?_ ?_ ?_

theorem State.teStaged_keeps (h : Keeps L s0 s) (a2 : TeOp) (a3 : ℕ) (lr32 : L.r32 = true := by first | assumption | rfl) (ltrust : L.trust = true := by first | assumption | rfl) (m : within 0x4000000000000000000000000000000000000000000000000000000000000000000000000000000000000000 L.regs = true := by first | with_reducible assumption | (refine within_trans (by assumption) ?_; exact rfl) | rfl) :
    Keeps L s0 (State.teStaged s a2 a3) := by
  unfold State.teStaged
  with_reducible repeat' first | assumption | intro _ | apply keeps_ite | exact has_ok m rfl | exact within_trans m rfl | apply State.measureOp_keeps | apply State.fset_keeps | apply keeps_snd_ite | dsimp only | split

theorem State.teApply_keeps (h : Keeps L s0 s) (a2 : TeSrc) (a3 : ℕ) (lr32 : L.r32 = true := by first | assumption | rfl) (lr64 : L.r64 = true := by first | assumption | rfl) (lmem : L.mem = true := by first | assumption | rfl) (lhost : L.host = true := by first | assumption | rfl) (lsquall : L.squall = true := by first | assumption | rfl) (lte : L.te = true := by first | assumption | rfl) (ltrust : L.trust = true := by first | assumption | rfl) (m : within 0x2204000000000000000000000000380000000000000000000000000000000822801b80000000000000001082000 L.regs = true := by first | with_reducible assumption | (refine within_trans (by assumption) ?_; exact rfl) | rfl) :
    Keeps L s0 (State.teApply s a2 a3) := by
  unfold State.teApply
  with_reducible repeat' first | assumption | intro _ | apply keeps_ite | exact has_ok m rfl | exact within_trans m rfl | apply State.teDo_keeps | apply State.slotTaken_keeps | apply State.teFinish_keeps | apply State.teStaged_keeps | apply keeps_snd_ite | (refine keeps_of_eq (by assumption) ?_) | (refine keeps_of_eq2 (by assumption) ?_) | dsimp only | split

theorem State.mcDo_keeps (h : Keeps L s0 s) (a2 : TeOp) (lte : L.te = true := by first | assumption | rfl) :
    Keeps L s0 (State.mcDo s a2).2.2 := by
  unfold State.mcDo
  with_reducible repeat' first | assumption | intro _ | apply keeps_ite | apply State.mend_keeps | apply keeps_snd_ite | dsimp only | split | exact Or.inl (by assumption) | exact Or.inr rfl | refine keeps_mk ?_ rfl rfl ?_ ?_ ?_ ?_ ?_ ?_ ?_ ?_ ?_ ?_ ?_ ?_ ?_ ?_

theorem State.mcRun_keeps (h : Keeps L s0 s) (lr32 : L.r32 = true := by first | assumption | rfl) (lr64 : L.r64 = true := by first | assumption | rfl) (lmem : L.mem = true := by first | assumption | rfl) (lhost : L.host = true := by first | assumption | rfl) (lsquall : L.squall = true := by first | assumption | rfl) (lte : L.te = true := by first | assumption | rfl) (ltrust : L.trust = true := by first | assumption | rfl) (m : within 0x2204000000000000000000000000380000000000000000000000000000000822801b80000000000000001082000 L.regs = true := by first | with_reducible assumption | (refine within_trans (by assumption) ?_; exact rfl) | rfl) :
    Keeps L s0 (State.mcRun s) := by
  unfold State.mcRun
  with_reducible repeat' first | assumption | intro _ | apply keeps_ite | exact has_ok m rfl | exact within_trans m rfl | apply State.mcDo_keeps | apply State.slotTaken_keeps | apply State.teFinish_keeps | apply State.teStaged_keeps | apply keeps_snd_ite | (refine keeps_of_eq (by assumption) ?_) | (refine keeps_of_eq2 (by assumption) ?_) | dsimp only | split

theorem State.mcCmdWrite_keeps (h : Keeps L s0 s) (a2 : Word) (lr32 : L.r32 = true := by first | assumption | rfl) (lr64 : L.r64 = true := by first | assumption | rfl) (lmem : L.mem = true := by first | assumption | rfl) (lhost : L.host = true := by first | assumption | rfl) (lsquall : L.squall = true := by first | assumption | rfl) (lte : L.te = true := by first | assumption | rfl) (ltrust : L.trust = true := by first | assumption | rfl) (m : within 0x22040000000000000000000000003a0000000000000000000000000000000822801b80000000000000001082000 L.regs = true := by first | with_reducible assumption | (refine within_trans (by assumption) ?_; exact rfl) | rfl) :
    Keeps L s0 (State.mcCmdWrite s a2) := by
  unfold State.mcCmdWrite
  with_reducible repeat' first | assumption | intro _ | apply keeps_ite | exact has_ok m rfl | exact within_trans m rfl | apply State.wr_keeps | apply State.fset_keeps | apply State.mcRun_keeps | apply State.teAccept_keeps | apply keeps_snd_ite | dsimp only | split

theorem State.mcCmdOp_keeps (h : Keeps L s0 s) (a2 : ℕ) (a3 : Word) (lr32 : L.r32 = true := by first | assumption | rfl) (lr64 : L.r64 = true := by first | assumption | rfl) (lmem : L.mem = true := by first | assumption | rfl) (lhost : L.host = true := by first | assumption | rfl) (lsquall : L.squall = true := by first | assumption | rfl) (lte : L.te = true := by first | assumption | rfl) (ltrust : L.trust = true := by first | assumption | rfl) (m : within 0x22040000000000000000000000003a0000000000000000000000000000000822801b80000000000000001082000 L.regs = true := by first | with_reducible assumption | (refine within_trans (by assumption) ?_; exact rfl) | rfl) :
    Keeps L s0 (State.mcCmdOp s a2 a3) := by
  unfold State.mcCmdOp
  with_reducible repeat' first | assumption | intro _ | apply keeps_ite | exact has_ok m rfl | exact within_trans m rfl | apply State.mcCmdWrite_keeps | apply keeps_snd_ite | dsimp only | split

theorem execMcInsert_keeps (h : Keeps L s0 s) (a1 : Word) (lr32 : L.r32 = true := by first | assumption | rfl) (lr64 : L.r64 = true := by first | assumption | rfl) (lmem : L.mem = true := by first | assumption | rfl) (lhost : L.host = true := by first | assumption | rfl) (lsquall : L.squall = true := by first | assumption | rfl) (lte : L.te = true := by first | assumption | rfl) (ltrust : L.trust = true := by first | assumption | rfl) (m : within 0x22040000000000000000000000003a0000000000000000000000000000000822801b80000000000000001082000 L.regs = true := by first | with_reducible assumption | (refine within_trans (by assumption) ?_; exact rfl) | rfl) :
    ∃ t, execMcInsert a1 s = .next t ∧ Keeps L s0 t := by
  unfold execMcInsert
  refine ⟨_, rfl, ?_⟩
  with_reducible repeat' first | assumption | intro _ | apply keeps_ite | exact has_ok m rfl | exact within_trans m rfl | apply State.mcCmdOp_keeps | apply keeps_snd_ite | dsimp only | split

theorem execMcModify_keeps (h : Keeps L s0 s) (a1 : Word) (lr32 : L.r32 = true := by first | assumption | rfl) (lr64 : L.r64 = true := by first | assumption | rfl) (lmem : L.mem = true := by first | assumption | rfl) (lhost : L.host = true := by first | assumption | rfl) (lsquall : L.squall = true := by first | assumption | rfl) (lte : L.te = true := by first | assumption | rfl) (ltrust : L.trust = true := by first | assumption | rfl) (m : within 0x22040000000000000000000000003a0000000000000000000000000000000822801b80000000000000001082000 L.regs = true := by first | with_reducible assumption | (refine within_trans (by assumption) ?_; exact rfl) | rfl) :
    ∃ t, execMcModify a1 s = .next t ∧ Keeps L s0 t := by
  unfold execMcModify
  refine ⟨_, rfl, ?_⟩
  with_reducible repeat' first | assumption | intro _ | apply keeps_ite | exact has_ok m rfl | exact within_trans m rfl | apply State.mcCmdOp_keeps | apply keeps_snd_ite | dsimp only | split

theorem execMcDelete_keeps (h : Keeps L s0 s) (a1 : Word) (lr32 : L.r32 = true := by first | assumption | rfl) (lr64 : L.r64 = true := by first | assumption | rfl) (lmem : L.mem = true := by first | assumption | rfl) (lhost : L.host = true := by first | assumption | rfl) (lsquall : L.squall = true := by first | assumption | rfl) (lte : L.te = true := by first | assumption | rfl) (ltrust : L.trust = true := by first | assumption | rfl) (m : within 0x22040000000000000000000000003a0000000000000000000000000000000822801b80000000000000001082000 L.regs = true := by first | with_reducible assumption | (refine within_trans (by assumption) ?_; exact rfl) | rfl) :
    ∃ t, execMcDelete a1 s = .next t ∧ Keeps L s0 t := by
  unfold execMcDelete
  refine ⟨_, rfl, ?_⟩
  with_reducible repeat' first | assumption | intro _ | apply keeps_ite | exact has_ok m rfl | exact within_trans m rfl | apply State.mcCmdOp_keeps | apply keeps_snd_ite | dsimp only | split

theorem execMcRead_keeps (h : Keeps L s0 s) (a1 : Word) (lr32 : L.r32 = true := by first | assumption | rfl) (lr64 : L.r64 = true := by first | assumption | rfl) (lmem : L.mem = true := by first | assumption | rfl) (lhost : L.host = true := by first | assumption | rfl) (lsquall : L.squall = true := by first | assumption | rfl) (lte : L.te = true := by first | assumption | rfl) (ltrust : L.trust = true := by first | assumption | rfl) (m : within 0x22040000000000000000000000003a0000000000000000000000000000000822801b80000000000000001082000 L.regs = true := by first | with_reducible assumption | (refine within_trans (by assumption) ?_; exact rfl) | rfl) :
    ∃ t, execMcRead a1 s = .next t ∧ Keeps L s0 t := by
  unfold execMcRead
  refine ⟨_, rfl, ?_⟩
  with_reducible repeat' first | assumption | intro _ | apply keeps_ite | exact has_ok m rfl | exact within_trans m rfl | apply State.mcCmdOp_keeps | apply keeps_snd_ite | dsimp only | split

theorem execMcMemberWrite_keeps (h : Keeps L s0 s) (a1 : Word) (lr32 : L.r32 = true := by first | assumption | rfl) (lr64 : L.r64 = true := by first | assumption | rfl) (lmem : L.mem = true := by first | assumption | rfl) (lhost : L.host = true := by first | assumption | rfl) (lsquall : L.squall = true := by first | assumption | rfl) (lte : L.te = true := by first | assumption | rfl) (ltrust : L.trust = true := by first | assumption | rfl) (m : within 0x22040000000000000000000000003a0000000000000000000000000000000822801b80000000000000001082000 L.regs = true := by first | with_reducible assumption | (refine within_trans (by assumption) ?_; exact rfl) | rfl) :
    ∃ t, execMcMemberWrite a1 s = .next t ∧ Keeps L s0 t := by
  unfold execMcMemberWrite
  refine ⟨_, rfl, ?_⟩
  with_reducible repeat' first | assumption | intro _ | apply keeps_ite | exact has_ok m rfl | exact within_trans m rfl | apply State.mcCmdOp_keeps | apply keeps_snd_ite | dsimp only | split

theorem execInsert_keeps (h : Keeps L s0 s) (a1 : Option RingIx) (lr32 : L.r32 = true := by first | assumption | rfl) (lr64 : L.r64 = true := by first | assumption | rfl) (lmem : L.mem = true := by first | assumption | rfl) (lhost : L.host = true := by first | assumption | rfl) (lsquall : L.squall = true := by first | assumption | rfl) (lte : L.te = true := by first | assumption | rfl) (ltrust : L.trust = true := by first | assumption | rfl) (m : within 0x2204000000000000000000000000380000000000000000000000000000000822801b80000000000000001082000 L.regs = true := by first | with_reducible assumption | (refine within_trans (by assumption) ?_; exact rfl) | rfl) :
    ∃ t, execInsert a1 s = .next t ∧ Keeps L s0 t := by
  unfold execInsert
  refine ⟨_, rfl, ?_⟩
  with_reducible repeat' first | assumption | intro _ | apply keeps_ite | exact has_ok m rfl | exact within_trans m rfl | apply State.mcRun_keeps | apply State.teApply_keeps | apply keeps_snd_ite | dsimp only | split

theorem execModify_keeps (h : Keeps L s0 s) (a1 : Option RingIx) (lr32 : L.r32 = true := by first | assumption | rfl) (lr64 : L.r64 = true := by first | assumption | rfl) (lmem : L.mem = true := by first | assumption | rfl) (lhost : L.host = true := by first | assumption | rfl) (lsquall : L.squall = true := by first | assumption | rfl) (lte : L.te = true := by first | assumption | rfl) (ltrust : L.trust = true := by first | assumption | rfl) (m : within 0x2204000000000000000000000000380000000000000000000000000000000822801b80000000000000001082000 L.regs = true := by first | with_reducible assumption | (refine within_trans (by assumption) ?_; exact rfl) | rfl) :
    ∃ t, execModify a1 s = .next t ∧ Keeps L s0 t := by
  unfold execModify
  refine ⟨_, rfl, ?_⟩
  with_reducible repeat' first | assumption | intro _ | apply keeps_ite | exact has_ok m rfl | exact within_trans m rfl | apply State.mcRun_keeps | apply State.teApply_keeps | apply keeps_snd_ite | dsimp only | split

theorem execDelete_keeps (h : Keeps L s0 s) (a1 : Option RingIx) (lr32 : L.r32 = true := by first | assumption | rfl) (lr64 : L.r64 = true := by first | assumption | rfl) (lmem : L.mem = true := by first | assumption | rfl) (lhost : L.host = true := by first | assumption | rfl) (lsquall : L.squall = true := by first | assumption | rfl) (lte : L.te = true := by first | assumption | rfl) (ltrust : L.trust = true := by first | assumption | rfl) (m : within 0x2204000000000000000000000000380000000000000000000000000000000822801b80000000000000001082000 L.regs = true := by first | with_reducible assumption | (refine within_trans (by assumption) ?_; exact rfl) | rfl) :
    ∃ t, execDelete a1 s = .next t ∧ Keeps L s0 t := by
  unfold execDelete
  refine ⟨_, rfl, ?_⟩
  with_reducible repeat' first | assumption | intro _ | apply keeps_ite | exact has_ok m rfl | exact within_trans m rfl | apply State.mcRun_keeps | apply State.teApply_keeps | apply keeps_snd_ite | dsimp only | split

theorem execRead_keeps (h : Keeps L s0 s) (a1 : Option RingIx) (lr32 : L.r32 = true := by first | assumption | rfl) (lr64 : L.r64 = true := by first | assumption | rfl) (lmem : L.mem = true := by first | assumption | rfl) (lhost : L.host = true := by first | assumption | rfl) (lsquall : L.squall = true := by first | assumption | rfl) (lte : L.te = true := by first | assumption | rfl) (ltrust : L.trust = true := by first | assumption | rfl) (m : within 0x2204000000000000000000000000380000000000000000000000000000000822801b80000000000000001082000 L.regs = true := by first | with_reducible assumption | (refine within_trans (by assumption) ?_; exact rfl) | rfl) :
    ∃ t, execRead a1 s = .next t ∧ Keeps L s0 t := by
  unfold execRead
  refine ⟨_, rfl, ?_⟩
  with_reducible repeat' first | assumption | intro _ | apply keeps_ite | exact has_ok m rfl | exact within_trans m rfl | apply State.mcRun_keeps | apply State.teApply_keeps | apply keeps_snd_ite | dsimp only | split

theorem execSetLive_keeps (h : Keeps L s0 s) (a1 : Option RingIx) (lr32 : L.r32 = true := by first | assumption | rfl) (lr64 : L.r64 = true := by first | assumption | rfl) (lmem : L.mem = true := by first | assumption | rfl) (lhost : L.host = true := by first | assumption | rfl) (lsquall : L.squall = true := by first | assumption | rfl) (lte : L.te = true := by first | assumption | rfl) (ltrust : L.trust = true := by first | assumption | rfl) (m : within 0x2204000000000000000000000000380000000000000000000000000000000822801b80000000000000001082000 L.regs = true := by first | with_reducible assumption | (refine within_trans (by assumption) ?_; exact rfl) | rfl) :
    ∃ t, execSetLive a1 s = .next t ∧ Keeps L s0 t := by
  unfold execSetLive
  refine ⟨_, rfl, ?_⟩
  with_reducible repeat' first | assumption | intro _ | apply keeps_ite | exact has_ok m rfl | exact within_trans m rfl | apply State.mcRun_keeps | apply State.teApply_keeps | apply keeps_snd_ite | dsimp only | split

theorem execMember_keeps (h : Keeps L s0 s) (a1 : Option RingIx) (lr32 : L.r32 = true := by first | assumption | rfl) (lr64 : L.r64 = true := by first | assumption | rfl) (lmem : L.mem = true := by first | assumption | rfl) (lhost : L.host = true := by first | assumption | rfl) (lsquall : L.squall = true := by first | assumption | rfl) (lte : L.te = true := by first | assumption | rfl) (ltrust : L.trust = true := by first | assumption | rfl) (m : within 0x2204000000000000000000000000380000000000000000000000000000000822801b80000000000000001082000 L.regs = true := by first | with_reducible assumption | (refine within_trans (by assumption) ?_; exact rfl) | rfl) :
    ∃ t, execMember a1 s = .next t ∧ Keeps L s0 t := by
  unfold execMember
  refine ⟨_, rfl, ?_⟩
  with_reducible repeat' first | assumption | intro _ | apply keeps_ite | exact has_ok m rfl | exact within_trans m rfl | apply State.mcRun_keeps | apply State.teApply_keeps | apply keeps_snd_ite | dsimp only | split

theorem execFlush_keeps (h : Keeps L s0 s) (a1 : Option RingIx) (lr32 : L.r32 = true := by first | assumption | rfl) (lr64 : L.r64 = true := by first | assumption | rfl) (lmem : L.mem = true := by first | assumption | rfl) (lhost : L.host = true := by first | assumption | rfl) (lsquall : L.squall = true := by first | assumption | rfl) (lte : L.te = true := by first | assumption | rfl) (ltrust : L.trust = true := by first | assumption | rfl) (m : within 0x2204000000000000000000000000380000000000000000000000000000000822801b80000000000000001082000 L.regs = true := by first | with_reducible assumption | (refine within_trans (by assumption) ?_; exact rfl) | rfl) :
    ∃ t, execFlush a1 s = .next t ∧ Keeps L s0 t := by
  unfold execFlush
  refine ⟨_, rfl, ?_⟩
  with_reducible repeat' first | assumption | intro _ | apply keeps_ite | exact has_ok m rfl | exact within_trans m rfl | apply State.mcRun_keeps | apply State.teApply_keeps | apply keeps_snd_ite | dsimp only | split

theorem execCommit_keeps (h : Keeps L s0 s) (a1 : Option RingIx) (lte : L.te = true := by first | assumption | rfl) :
    ∃ t, execCommit a1 s = .next t ∧ Keeps L s0 t := by
  unfold execCommit
  refine ⟨_, rfl, ?_⟩
  with_reducible repeat' first | assumption | intro _ | apply keeps_ite | apply keeps_snd_ite | dsimp only | split | exact Or.inl (by assumption) | exact Or.inr rfl | refine keeps_mk ?_ rfl rfl ?_ ?_ ?_ ?_ ?_ ?_ ?_ ?_ ?_ ?_ ?_ ?_ ?_ ?_

theorem State.commitNow_keeps (h : Keeps L s0 s) (a2 : TeSrc) (a3 : TeOp) (lr32 : L.r32 = true := by first | assumption | rfl) (lr64 : L.r64 = true := by first | assumption | rfl) (lmem : L.mem = true := by first | assumption | rfl) (lhost : L.host = true := by first | assumption | rfl) (lsquall : L.squall = true := by first | assumption | rfl) (lte : L.te = true := by first | assumption | rfl) (ltrust : L.trust = true := by first | assumption | rfl) (m : within 0x8002204000000000000000000000000380000000008000000000000000420000822801b80000000000000001082000 L.regs = true := by first | with_reducible assumption | (refine within_trans (by assumption) ?_; exact rfl) | rfl) :
    Keeps L s0 (State.commitNow s a2 a3) := by
  unfold State.commitNow
  with_reducible repeat' first | assumption | intro _ | apply keeps_ite | exact has_ok m rfl | exact within_trans m rfl | apply State.bump_keeps | apply State.fset_keeps | apply State.measureCommit_keeps | apply State.each_keeps | apply State.teFinish_keeps | apply keeps_snd_ite | dsimp only | split | exact Or.inl (by assumption) | exact Or.inr rfl | refine keeps_mk ?_ rfl rfl ?_ ?_ ?_ ?_ ?_ ?_ ?_ ?_ ?_ ?_ ?_ ?_ ?_ ?_

theorem execDiscard_keeps (h : Keeps L s0 s) (a1 : Option RingIx) (lr32 : L.r32 = true := by first | assumption | rfl) (lr64 : L.r64 = true := by first | assumption | rfl) (lmem : L.mem = true := by first | assumption | rfl) (lhost : L.host = true := by first | assumption | rfl) (lsquall : L.squall = true := by first | assumption | rfl) (lte : L.te = true := by first | assumption | rfl) (ltrust : L.trust = true := by first | assumption | rfl) (m : within 0x2204000000000000000000000000380000000000000000000000000000000822801b80000000000000001082000 L.regs = true := by first | with_reducible assumption | (refine within_trans (by assumption) ?_; exact rfl) | rfl) :
    ∃ t, execDiscard a1 s = .next t ∧ Keeps L s0 t := by
  unfold execDiscard
  refine ⟨_, rfl, ?_⟩
  with_reducible repeat' first | assumption | intro _ | apply keeps_ite | exact has_ok m rfl | exact within_trans m rfl | apply State.measureRestart_keeps | apply State.fset_keeps | apply State.mcRun_keeps | apply State.teFinish_keeps | apply keeps_snd_ite | dsimp only | split | exact Or.inl (by assumption) | exact Or.inr rfl | refine keeps_mk ?_ rfl rfl ?_ ?_ ?_ ?_ ?_ ?_ ?_ ?_ ?_ ?_ ?_ ?_ ?_ ?_

theorem execInflightDrained_keeps (h : Keeps L s0 s) (lr32 : L.r32 = true := by first | assumption | rfl) (m : within 0x4000000000000000000000000000000000000000000000000000000000000000000000000000000000000000 L.regs = true := by first | with_reducible assumption | (refine within_trans (by assumption) ?_; exact rfl) | rfl) :
    ∃ t, execInflightDrained s = .next t ∧ Keeps L s0 t := by
  unfold execInflightDrained
  refine ⟨_, rfl, ?_⟩
  with_reducible repeat' first | assumption | intro _ | apply keeps_ite | exact has_ok m rfl | exact within_trans m rfl | apply State.fset_keeps | apply keeps_snd_ite | dsimp only | split

theorem State.sweepCopies_keeps (h : Keeps L s0 s) (a2 : ℕ) (lte : L.te = true := by first | assumption | rfl) :
    Keeps L s0 (State.sweepCopies s a2) := by
  unfold State.sweepCopies
  with_reducible repeat' first | assumption | intro _ | apply keeps_ite | apply State.badClean_keeps | apply keeps_snd_ite | dsimp only | split | exact Or.inl (by assumption) | exact Or.inr rfl | refine keeps_mk ?_ rfl rfl ?_ ?_ ?_ ?_ ?_ ?_ ?_ ?_ ?_ ?_ ?_ ?_ ?_ ?_

theorem execRetireSweepEnd_keeps (h : Keeps L s0 s) (lr32 : L.r32 = true := by first | assumption | rfl) (lr64 : L.r64 = true := by first | assumption | rfl) (lmem : L.mem = true := by first | assumption | rfl) (lhost : L.host = true := by first | assumption | rfl) (lsquall : L.squall = true := by first | assumption | rfl) (lte : L.te = true := by first | assumption | rfl) (ltrust : L.trust = true := by first | assumption | rfl) (m : within 0x2204000000000000000000000000380000000000000000000000000000000822801b80000000000000001082000 L.regs = true := by first | with_reducible assumption | (refine within_trans (by assumption) ?_; exact rfl) | rfl) :
    ∃ t, execRetireSweepEnd s = .next t ∧ Keeps L s0 t := by
  unfold execRetireSweepEnd
  refine ⟨_, rfl, ?_⟩
  with_reducible repeat' first | assumption | intro _ | apply keeps_ite | exact has_ok m rfl | exact within_trans m rfl | apply State.mcRun_keeps | apply State.post_keeps | apply State.fset_keeps | apply State.sweepCopies_keeps | apply keeps_snd_ite | dsimp only | split

theorem execDiscardSweepEnd_keeps (h : Keeps L s0 s) (lr32 : L.r32 = true := by first | assumption | rfl) (lr64 : L.r64 = true := by first | assumption | rfl) (lmem : L.mem = true := by first | assumption | rfl) (lhost : L.host = true := by first | assumption | rfl) (lsquall : L.squall = true := by first | assumption | rfl) (lte : L.te = true := by first | assumption | rfl) (ltrust : L.trust = true := by first | assumption | rfl) (m : within 0x2204000000000000000000000000380000000000000000000000000000000822801b80000000000000001082000 L.regs = true := by first | with_reducible assumption | (refine within_trans (by assumption) ?_; exact rfl) | rfl) :
    ∃ t, execDiscardSweepEnd s = .next t ∧ Keeps L s0 t := by
  unfold execDiscardSweepEnd
  refine ⟨_, rfl, ?_⟩
  with_reducible repeat' first | assumption | intro _ | apply keeps_ite | exact has_ok m rfl | exact within_trans m rfl | apply State.fset_keeps | apply State.sweepCopies_keeps | apply State.mcRun_keeps | apply State.teFinish_keeps | apply keeps_snd_ite | dsimp only | split | exact Or.inl (by assumption) | exact Or.inr rfl | refine keeps_mk ?_ rfl rfl ?_ ?_ ?_ ?_ ?_ ?_ ?_ ?_ ?_ ?_ ?_ ?_ ?_ ?_

theorem State.dpPush_keeps (h : Keeps L s0 s) (a2 : DpOp) (lr64 : L.r64 = true := by first | assumption | rfl) (lte : L.te = true := by first | assumption | rfl) (m : within 0x2000000000000000000000000000000000000000000000000000000000000000000000000000000000000000000000 L.regs = true := by first | with_reducible assumption | (refine within_trans (by assumption) ?_; exact rfl) | rfl) :
    Keeps L s0 (State.dpPush s a2) := by
  unfold State.dpPush
  with_reducible repeat' first | assumption | intro _ | apply keeps_ite | exact has_ok m rfl | exact within_trans m rfl | apply State.bump_keeps | apply keeps_snd_ite | dsimp only | split | exact Or.inl (by assumption) | exact Or.inr rfl | refine keeps_mk ?_ rfl rfl ?_ ?_ ?_ ?_ ?_ ?_ ?_ ?_ ?_ ?_ ?_ ?_ ?_ ?_

theorem State.dpPop_keeps (h : Keeps L s0 s) (lte : L.te = true := by first | assumption | rfl) :
    Keeps L s0 (State.dpPop s) := by
  unfold State.dpPop
  with_reducible repeat' first | assumption | intro _ | apply keeps_ite | apply keeps_snd_ite | dsimp only | split | exact Or.inl (by assumption) | exact Or.inr rfl | refine keeps_mk ?_ rfl rfl ?_ ?_ ?_ ?_ ?_ ?_ ?_ ?_ ?_ ?_ ?_ ?_ ?_ ?_

theorem execTwriteApply_keeps (h : Keeps L s0 s) (lr32 : L.r32 = true := by first | assumption | rfl) (lr64 : L.r64 = true := by first | assumption | rfl) (lmem : L.mem = true := by first | assumption | rfl) (lhost : L.host = true := by first | assumption | rfl) (lsquall : L.squall = true := by first | assumption | rfl) (lte : L.te = true := by first | assumption | rfl) (ltrust : L.trust = true := by first | assumption | rfl) (m : within 0x2002204000000000000000000000000380000000000000000000000000000000822801b80000000000000001082000 L.regs = true := by first | with_reducible assumption | (refine within_trans (by assumption) ?_; exact rfl) | rfl) :
    ∃ t, execTwriteApply s = .next t ∧ Keeps L s0 t := by
  unfold execTwriteApply
  refine ⟨_, rfl, ?_⟩
  with_reducible repeat' first | assumption | intro _ | apply keeps_ite | exact has_ok m rfl | exact within_trans m rfl | apply State.dpPop_keeps | apply State.slotTaken_keeps | apply State.mcRun_keeps | apply State.bump_keeps | apply State.teDo_keeps | apply keeps_snd_ite | (refine keeps_of_eq (by assumption) ?_) | (refine keeps_of_eq2 (by assumption) ?_) | dsimp only | split

theorem State.learn_keeps (h : Keeps L s0 s) (a2 : DpOp) (lr64 : L.r64 = true := by first | assumption | rfl) (lte : L.te = true := by first | assumption | rfl) (m : within 0x3f00000000000000000000000000000000000000000000000000000000000000000000000000000000000000000000 L.regs = true := by first | with_reducible assumption | (refine within_trans (by assumption) ?_; exact rfl) | rfl) :
    Keeps L s0 (State.learn s a2) := by
  unfold State.learn
  with_reducible repeat' first | assumption | intro _ | apply keeps_ite | exact has_ok m rfl | exact within_trans m rfl | apply State.bump_keeps | apply State.emPut_keeps | apply keeps_snd_ite | dsimp only | split

theorem execLearnApply_keeps (h : Keeps L s0 s) (lr32 : L.r32 = true := by first | assumption | rfl) (lr64 : L.r64 = true := by first | assumption | rfl) (lmem : L.mem = true := by first | assumption | rfl) (lhost : L.host = true := by first | assumption | rfl) (lsquall : L.squall = true := by first | assumption | rfl) (lte : L.te = true := by first | assumption | rfl) (ltrust : L.trust = true := by first | assumption | rfl) (m : within 0x3f02204000000000000000000000000380000000000000000000000000000000822801b80000000000000001082000 L.regs = true := by first | with_reducible assumption | (refine within_trans (by assumption) ?_; exact rfl) | rfl) :
    ∃ t, execLearnApply s = .next t ∧ Keeps L s0 t := by
  unfold execLearnApply
  refine ⟨_, rfl, ?_⟩
  with_reducible repeat' first | assumption | intro _ | apply keeps_ite | exact has_ok m rfl | exact within_trans m rfl | apply State.mcRun_keeps | apply State.learn_keeps | apply State.dpPop_keeps | apply State.slotTaken_keeps | apply keeps_snd_ite | dsimp only | split

theorem execAgeTick_keeps (h : Keeps L s0 s) (lr32 : L.r32 = true := by first | assumption | rfl) (m : within 0x20000000000000000000000000000000000000000000000000000000000000000000000000000000000000000 L.regs = true := by first | with_reducible assumption | (refine within_trans (by assumption) ?_; exact rfl) | rfl) :
    ∃ t, execAgeTick s = .next t ∧ Keeps L s0 t := by
  unfold execAgeTick
  refine ⟨_, rfl, ?_⟩
  with_reducible repeat' first | assumption | intro _ | apply keeps_ite | exact has_ok m rfl | exact within_trans m rfl | apply State.fset_keeps | apply keeps_snd_ite | dsimp only | split

theorem State.ageTickWrite_keeps (h : Keeps L s0 s) (a2 : Word) (lr32 : L.r32 = true := by first | assumption | rfl) (lte : L.te = true := by first | assumption | rfl) (m : within 0x10000000000000000000000000000000000000000000000000000000000000000000000000000000000000000 L.regs = true := by first | with_reducible assumption | (refine within_trans (by assumption) ?_; exact rfl) | rfl) :
    Keeps L s0 (State.ageTickWrite s a2) := by
  unfold State.ageTickWrite
  with_reducible repeat' first | assumption | intro _ | apply keeps_ite | exact has_ok m rfl | exact within_trans m rfl | apply State.wr_keeps | apply keeps_snd_ite | dsimp only | split | exact Or.inl (by assumption) | exact Or.inr rfl | refine keeps_mk ?_ rfl rfl ?_ ?_ ?_ ?_ ?_ ?_ ?_ ?_ ?_ ?_ ?_ ?_ ?_ ?_

theorem execAgeTickWrite_keeps (h : Keeps L s0 s) (a1 : Word) (lr32 : L.r32 = true := by first | assumption | rfl) (lte : L.te = true := by first | assumption | rfl) (m : within 0x10000000000000000000000000000000000000000000000000000000000000000000000000000000000000000 L.regs = true := by first | with_reducible assumption | (refine within_trans (by assumption) ?_; exact rfl) | rfl) :
    ∃ t, execAgeTickWrite a1 s = .next t ∧ Keeps L s0 t := by
  unfold execAgeTickWrite
  refine ⟨_, rfl, ?_⟩
  with_reducible repeat' first | assumption | intro _ | apply keeps_ite | exact has_ok m rfl | exact within_trans m rfl | apply State.ageTickWrite_keeps | apply keeps_snd_ite | dsimp only | split

theorem execAgeScanVisit_keeps (h : Keeps L s0 s) (a1 : ℕ) (lte : L.te = true := by first | assumption | rfl) :
    ∃ t, execAgeScanVisit a1 s = .next t ∧ Keeps L s0 t := by
  unfold execAgeScanVisit
  refine ⟨_, rfl, ?_⟩
  with_reducible repeat' first | assumption | intro _ | apply keeps_ite | apply State.emSet_keeps | apply keeps_snd_ite | dsimp only | split | exact Or.inl (by assumption) | exact Or.inr rfl | refine keeps_mk ?_ rfl rfl ?_ ?_ ?_ ?_ ?_ ?_ ?_ ?_ ?_ ?_ ?_ ?_ ?_ ?_

theorem State.agePop_keeps (h : Keeps L s0 s) (lte : L.te = true := by first | assumption | rfl) :
    Keeps L s0 (State.agePop s) := by
  unfold State.agePop
  with_reducible repeat' first | assumption | intro _ | apply keeps_ite | apply keeps_snd_ite | dsimp only | split | exact Or.inl (by assumption) | exact Or.inr rfl | refine keeps_mk ?_ rfl rfl ?_ ?_ ?_ ?_ ?_ ?_ ?_ ?_ ?_ ?_ ?_ ?_ ?_ ?_

theorem execAgeCompareDelete_keeps (h : Keeps L s0 s) (lr32 : L.r32 = true := by first | assumption | rfl) (lr64 : L.r64 = true := by first | assumption | rfl) (lmem : L.mem = true := by first | assumption | rfl) (lhost : L.host = true := by first | assumption | rfl) (lsquall : L.squall = true := by first | assumption | rfl) (lte : L.te = true := by first | assumption | rfl) (ltrust : L.trust = true := by first | assumption | rfl) (m : within 0x4002204000000000000000000000000380000000000000000000000000000000822801b80000000000000001082000 L.regs = true := by first | with_reducible assumption | (refine within_trans (by assumption) ?_; exact rfl) | rfl) :
    ∃ t, execAgeCompareDelete s = .next t ∧ Keeps L s0 t := by
  unfold execAgeCompareDelete
  refine ⟨_, rfl, ?_⟩
  with_reducible repeat' first | assumption | intro _ | apply keeps_ite | exact has_ok m rfl | exact within_trans m rfl | apply State.slotTaken_keeps | apply State.agePop_keeps | apply State.mcRun_keeps | apply State.bump_keeps | apply State.emPut_keeps | apply State.post_keeps | apply keeps_snd_ite | dsimp only | split | exact Or.inl (by assumption) | exact Or.inr rfl | refine keeps_mk ?_ rfl rfl ?_ ?_ ?_ ?_ ?_ ?_ ?_ ?_ ?_ ?_ ?_ ?_ ?_ ?_

theorem execAgeStampRewrite_keeps (h : Keeps L s0 s) (lr32 : L.r32 = true := by first | assumption | rfl) (lr64 : L.r64 = true := by first | assumption | rfl) (lmem : L.mem = true := by first | assumption | rfl) (lhost : L.host = true := by first | assumption | rfl) (lsquall : L.squall = true := by first | assumption | rfl) (lte : L.te = true := by first | assumption | rfl) (ltrust : L.trust = true := by first | assumption | rfl) (m : within 0x2204000000000000000000000000380000000000000000000000000000000822801b80000000000000001082000 L.regs = true := by first | with_reducible assumption | (refine within_trans (by assumption) ?_; exact rfl) | rfl) :
    ∃ t, execAgeStampRewrite s = .next t ∧ Keeps L s0 t := by
  unfold execAgeStampRewrite
  refine ⟨_, rfl, ?_⟩
  with_reducible repeat' first | assumption | intro _ | apply keeps_ite | exact has_ok m rfl | exact within_trans m rfl | apply State.slotTaken_keeps | apply State.agePop_keeps | apply State.mcRun_keeps | apply State.emSet_keeps | apply keeps_snd_ite | dsimp only | split | exact Or.inl (by assumption) | exact Or.inr rfl | refine keeps_mk ?_ rfl rfl ?_ ?_ ?_ ?_ ?_ ?_ ?_ ?_ ?_ ?_ ?_ ?_ ?_ ?_

theorem State.tblBad_keeps (h : Keeps L s0 s) (a2 : ℕ) (a3 : ℕ) (a4 : ℕ) (lr32 : L.r32 = true := by first | assumption | rfl) (lr64 : L.r64 = true := by first | assumption | rfl) (lsquall : L.squall = true := by first | assumption | rfl) (lte : L.te = true := by first | assumption | rfl) (m : within 0x20000000000000000000000000000000000000000000001082000 L.regs = true := by first | with_reducible assumption | (refine within_trans (by assumption) ?_; exact rfl) | rfl) :
    Keeps L s0 (State.tblBad s a2 a3 a4) := by
  unfold State.tblBad
  with_reducible repeat' first | assumption | intro _ | apply keeps_ite | exact has_ok m rfl | exact within_trans m rfl | apply State.report_keeps | apply State.bump_keeps | apply keeps_snd_ite | dsimp only | split | exact Or.inl (by assumption) | exact Or.inr rfl | refine keeps_mk ?_ rfl rfl ?_ ?_ ?_ ?_ ?_ ?_ ?_ ?_ ?_ ?_ ?_ ?_ ?_ ?_

theorem State.tblDrop_keeps (h : Keeps L s0 s) (a2 : ℕ) (a3 : ℕ) (lte : L.te = true := by first | assumption | rfl) :
    Keeps L s0 (State.tblDrop s a2 a3) := by
  unfold State.tblDrop
  with_reducible repeat' first | assumption | intro _ | apply keeps_ite | apply State.emPut_keeps | apply State.mend_keeps | apply State.setLpm_keeps | apply State.aclSet_keeps | apply State.setMember_keeps | apply keeps_snd_ite | dsimp only | split | exact Or.inl (by assumption) | exact Or.inr rfl | refine keeps_mk ?_ rfl rfl ?_ ?_ ?_ ?_ ?_ ?_ ?_ ?_ ?_ ?_ ?_ ?_ ?_ ?_

theorem execTableWordRepair_keeps (h : Keeps L s0 s) (a1 : ℕ) (lr32 : L.r32 = true := by first | assumption | rfl) (lr64 : L.r64 = true := by first | assumption | rfl) (lsquall : L.squall = true := by first | assumption | rfl) (lte : L.te = true := by first | assumption | rfl) (m : within 0x40000000000000000000000000000000000000000000001082000 L.regs = true := by first | with_reducible assumption | (refine within_trans (by assumption) ?_; exact rfl) | rfl) :
    ∃ t, execTableWordRepair a1 s = .next t ∧ Keeps L s0 t := by
  unfold execTableWordRepair
  refine ⟨_, rfl, ?_⟩
  with_reducible repeat' first | assumption | intro _ | apply keeps_ite | exact has_ok m rfl | exact within_trans m rfl | apply State.bump_keeps | apply State.touch_keeps | apply State.report_keeps | apply State.tblDrop_keeps | apply keeps_snd_ite | dsimp only | split | exact Or.inl (by assumption) | exact Or.inr rfl | refine keeps_mk ?_ rfl rfl ?_ ?_ ?_ ?_ ?_ ?_ ?_ ?_ ?_ ?_ ?_ ?_ ?_ ?_

theorem execTcamScrubVisit_keeps (h : Keeps L s0 s) (a1 : ℕ) (a2 : ℕ) (a3 : Bool) (lr32 : L.r32 = true := by first | assumption | rfl) (lr64 : L.r64 = true := by first | assumption | rfl) (lsquall : L.squall = true := by first | assumption | rfl) (lte : L.te = true := by first | assumption | rfl) (m : within 0x20000000000000000000000000000000000000000000001082000 L.regs = true := by first | with_reducible assumption | (refine within_trans (by assumption) ?_; exact rfl) | rfl) :
    ∃ t, execTcamScrubVisit a1 a2 a3 s = .next t ∧ Keeps L s0 t := by
  unfold execTcamScrubVisit
  refine ⟨_, rfl, ?_⟩
  with_reducible repeat' first | assumption | intro _ | apply keeps_ite | exact has_ok m rfl | exact within_trans m rfl | apply State.tblBad_keeps | apply keeps_snd_ite | dsimp only | split

theorem State.spareUsed_keeps (h : Keeps L s0 s) (a2 : ℕ) (a3 : ℕ) (a4 : ℕ) (lr32 : L.r32 = true := by first | assumption | rfl) (lr64 : L.r64 = true := by first | assumption | rfl) (lhost : L.host = true := by first | assumption | rfl) (lsquall : L.squall = true := by first | assumption | rfl) (m : within 0x1800000000000000001082000 L.regs = true := by first | with_reducible assumption | (refine within_trans (by assumption) ?_; exact rfl) | rfl) :
    Keeps L s0 (State.spareUsed s a2 a3 a4) := by
  unfold State.spareUsed
  with_reducible repeat' first | assumption | intro _ | apply keeps_ite | exact has_ok m rfl | exact within_trans m rfl | apply State.report_keeps | apply State.post_keeps | apply keeps_snd_ite | dsimp only | split

theorem State.bankFix_keeps (h : Keeps L s0 s) (a2 : ℕ) (a3 : ℕ) (a4 : ℕ) (lr32 : L.r32 = true := by first | assumption | rfl) (lr64 : L.r64 = true := by first | assumption | rfl) (lhost : L.host = true := by first | assumption | rfl) (lsquall : L.squall = true := by first | assumption | rfl) (lte : L.te = true := by first | assumption | rfl) (m : within 0x10000000000000000000000000001800000000000000001082000 L.regs = true := by first | with_reducible assumption | (refine within_trans (by assumption) ?_; exact rfl) | rfl) :
    Keeps L s0 (State.bankFix s a2 a3 a4) := by
  unfold State.bankFix
  with_reducible repeat' first | assumption | intro _ | apply keeps_ite | exact has_ok m rfl | exact within_trans m rfl | apply State.spareUsed_keeps | apply State.fset_keeps | apply keeps_snd_ite | dsimp only | split | exact Or.inl (by assumption) | exact Or.inr rfl | refine keeps_mk ?_ rfl rfl ?_ ?_ ?_ ?_ ?_ ?_ ?_ ?_ ?_ ?_ ?_ ?_ ?_ ?_

theorem State.loadSpare_keeps (h : Keeps L s0 s) (a2 : ℕ) (a3 : ℕ) (a4 : ℕ) (lr32 : L.r32 = true := by first | assumption | rfl) (lr64 : L.r64 = true := by first | assumption | rfl) (lsquall : L.squall = true := by first | assumption | rfl) (lte : L.te = true := by first | assumption | rfl) (m : within 0x1082000 L.regs = true := by first | with_reducible assumption | (refine within_trans (by assumption) ?_; exact rfl) | rfl) :
    Keeps L s0 (State.loadSpare s a2 a3 a4) := by
  unfold State.loadSpare
  with_reducible repeat' first | assumption | intro _ | apply keeps_ite | exact has_ok m rfl | exact within_trans m rfl | apply State.each_keeps | apply State.report_keeps | apply State.tblDrop_keeps | apply keeps_snd_ite | dsimp only | split | exact Or.inl (by assumption) | exact Or.inr rfl | refine keeps_mk ?_ rfl rfl ?_ ?_ ?_ ?_ ?_ ?_ ?_ ?_ ?_ ?_ ?_ ?_ ?_ ?_

theorem execSpareBankLoadDone_keeps (h : Keeps L s0 s) (a1 : ℕ) (lr32 : L.r32 = true := by first | assumption | rfl) (lr64 : L.r64 = true := by first | assumption | rfl) (lhost : L.host = true := by first | assumption | rfl) (lsquall : L.squall = true := by first | assumption | rfl) (lte : L.te = true := by first | assumption | rfl) (m : within 0x10000000000000000000000000001800000000000000001082000 L.regs = true := by first | with_reducible assumption | (refine within_trans (by assumption) ?_; exact rfl) | rfl) :
    ∃ t, execSpareBankLoadDone a1 s = .next t ∧ Keeps L s0 t := by
  unfold execSpareBankLoadDone
  refine ⟨_, rfl, ?_⟩
  with_reducible repeat' first | assumption | intro _ | apply keeps_ite | exact has_ok m rfl | exact within_trans m rfl | apply State.bankFix_keeps | apply State.loadSpare_keeps | apply keeps_snd_ite | dsimp only | split

theorem execBankCopyOutDone_keeps (h : Keeps L s0 s) (a1 : ℕ) (lte : L.te = true := by first | assumption | rfl) :
    ∃ t, execBankCopyOutDone a1 s = .next t ∧ Keeps L s0 t := by
  unfold execBankCopyOutDone
  refine ⟨_, rfl, ?_⟩
  with_reducible repeat' first | assumption | intro _ | apply keeps_ite | apply keeps_snd_ite | dsimp only | split | exact Or.inl (by assumption) | exact Or.inr rfl | refine keeps_mk ?_ rfl rfl ?_ ?_ ?_ ?_ ?_ ?_ ?_ ?_ ?_ ?_ ?_ ?_ ?_ ?_

theorem execBankCopyBackDone_keeps (h : Keeps L s0 s) (a1 : ℕ) (lr32 : L.r32 = true := by first | assumption | rfl) (lte : L.te = true := by first | assumption | rfl) (m : within 0x10000000000000000000000000000000000000000000000000000 L.regs = true := by first | with_reducible assumption | (refine within_trans (by assumption) ?_; exact rfl) | rfl) :
    ∃ t, execBankCopyBackDone a1 s = .next t ∧ Keeps L s0 t := by
  unfold execBankCopyBackDone
  refine ⟨_, rfl, ?_⟩
  with_reducible repeat' first | assumption | intro _ | apply keeps_ite | exact has_ok m rfl | exact within_trans m rfl | apply State.fset_keeps | apply keeps_snd_ite | dsimp only | split | exact Or.inl (by assumption) | exact Or.inr rfl | refine keeps_mk ?_ rfl rfl ?_ ?_ ?_ ?_ ?_ ?_ ?_ ?_ ?_ ?_ ?_ ?_ ?_ ?_

theorem State.emSeedWrite_keeps (h : Keeps L s0 s) (a2 : Word) (lr32 : L.r32 = true := by first | assumption | rfl) (m : within 0x8000000000000000000000000000000000000000000000000000000000000000000000000000000000000000 L.regs = true := by first | with_reducible assumption | (refine within_trans (by assumption) ?_; exact rfl) | rfl) :
    Keeps L s0 (State.emSeedWrite s a2) := by
  unfold State.emSeedWrite
  with_reducible repeat' first | assumption | intro _ | apply keeps_ite | exact has_ok m rfl | exact within_trans m rfl | apply State.wr_keeps | apply keeps_snd_ite | dsimp only | split

theorem execEmSeedWrite_keeps (h : Keeps L s0 s) (a1 : Word) (lr32 : L.r32 = true := by first | assumption | rfl) (m : within 0x8000000000000000000000000000000000000000000000000000000000000000000000000000000000000000 L.regs = true := by first | with_reducible assumption | (refine within_trans (by assumption) ?_; exact rfl) | rfl) :
    ∃ t, execEmSeedWrite a1 s = .next t ∧ Keeps L s0 t := by
  unfold execEmSeedWrite
  refine ⟨_, rfl, ?_⟩
  with_reducible repeat' first | assumption | intro _ | apply keeps_ite | exact has_ok m rfl | exact within_trans m rfl | apply State.emSeedWrite_keeps | apply keeps_snd_ite | dsimp only | split

theorem State.lpmCfgWrite_keeps (h : Keeps L s0 s) (a2 : Word) (lr32 : L.r32 = true := by first | assumption | rfl) (m : within 0x40000000000000000000000000000000000000000000000000000000000000000000000000000000000000000 L.regs = true := by first | with_reducible assumption | (refine within_trans (by assumption) ?_; exact rfl) | rfl) :
    Keeps L s0 (State.lpmCfgWrite s a2) := by
  unfold State.lpmCfgWrite
  with_reducible repeat' first | assumption | intro _ | apply keeps_ite | exact has_ok m rfl | exact within_trans m rfl | apply State.wr_keeps | apply keeps_snd_ite | dsimp only | split

theorem execLpmCfgWrite_keeps (h : Keeps L s0 s) (a1 : Word) (lr32 : L.r32 = true := by first | assumption | rfl) (m : within 0x40000000000000000000000000000000000000000000000000000000000000000000000000000000000000000 L.regs = true := by first | with_reducible assumption | (refine within_trans (by assumption) ?_; exact rfl) | rfl) :
    ∃ t, execLpmCfgWrite a1 s = .next t ∧ Keeps L s0 t := by
  unfold execLpmCfgWrite
  refine ⟨_, rfl, ?_⟩
  with_reducible repeat' first | assumption | intro _ | apply keeps_ite | exact has_ok m rfl | exact within_trans m rfl | apply State.lpmCfgWrite_keeps | apply keeps_snd_ite | dsimp only | split

theorem State.tblCfgWrite_keeps (h : Keeps L s0 s) (a2 : ℕ) (a3 : Word) (lr32 : L.r32 = true := by first | assumption | rfl) (m : within 0x4000000000000000000000000000000000000000000000000000000000000000000000000000000000000000000 L.regs = true := by first | with_reducible assumption | (refine within_trans (by assumption) ?_; exact rfl) | rfl) :
    Keeps L s0 (State.tblCfgWrite s a2 a3) := by
  unfold State.tblCfgWrite
  with_reducible repeat' first | assumption | intro _ | apply keeps_ite | exact has_ok m rfl | exact within_trans m rfl | apply State.wr_keeps | apply keeps_snd_ite | dsimp only | split

theorem execTblCfgWrite_keeps (h : Keeps L s0 s) (a1 : ℕ) (a2 : Word) (lr32 : L.r32 = true := by first | assumption | rfl) (m : within 0x4000000000000000000000000000000000000000000000000000000000000000000000000000000000000000000 L.regs = true := by first | with_reducible assumption | (refine within_trans (by assumption) ?_; exact rfl) | rfl) :
    ∃ t, execTblCfgWrite a1 a2 s = .next t ∧ Keeps L s0 t := by
  unfold execTblCfgWrite
  refine ⟨_, rfl, ?_⟩
  with_reducible repeat' first | assumption | intro _ | apply keeps_ite | exact has_ok m rfl | exact within_trans m rfl | apply State.tblCfgWrite_keeps | apply keeps_snd_ite | dsimp only | split

theorem State.tcamCfgWrite_keeps (h : Keeps L s0 s) (a2 : ℕ) (a3 : Word) (lr32 : L.r32 = true := by first | assumption | rfl) (m : within 0x20000000000000000000000000000000000000000000000000000000000000000000000000000000000000000000 L.regs = true := by first | with_reducible assumption | (refine within_trans (by assumption) ?_; exact rfl) | rfl) :
    Keeps L s0 (State.tcamCfgWrite s a2 a3) := by
  unfold State.tcamCfgWrite
  with_reducible repeat' first | assumption | intro _ | apply keeps_ite | exact has_ok m rfl | exact within_trans m rfl | apply State.wr_keeps | apply keeps_snd_ite | dsimp only | split

theorem execTcamCfgWrite_keeps (h : Keeps L s0 s) (a1 : ℕ) (a2 : Word) (lr32 : L.r32 = true := by first | assumption | rfl) (m : within 0x20000000000000000000000000000000000000000000000000000000000000000000000000000000000000000000 L.regs = true := by first | with_reducible assumption | (refine within_trans (by assumption) ?_; exact rfl) | rfl) :
    ∃ t, execTcamCfgWrite a1 a2 s = .next t ∧ Keeps L s0 t := by
  unfold execTcamCfgWrite
  refine ⟨_, rfl, ?_⟩
  with_reducible repeat' first | assumption | intro _ | apply keeps_ite | exact has_ok m rfl | exact within_trans m rfl | apply State.tcamCfgWrite_keeps | apply keeps_snd_ite | dsimp only | split

end Sys2Proof.Machine
end

