-- ==== Sys2Proof/Laws/KeepsCirrus.lean ====
section
/-!
SUPPORT. What each operation and each command of `Machine/Cirrus.lean` (the pipes) leaves alone, in the terms of `Laws/Keeps.lean`.
-/

set_option Elab.async false

set_option linter.unusedTactic false
set_option linter.unreachableTactic false
set_option linter.unusedVariables false
namespace Sys2Proof.Machine

variable {L : Touch} {s0 s : State}

theorem State.viol_keeps (h : Keeps L s0 s) (a2 : ℕ) (a3 : ℕ) (a4 : ℕ) (a5 : ℕ) (lr32 : L.r32 = true := by first | assumption | rfl) (lr64 : L.r64 = true := by first | assumption | rfl) (lsquall : L.squall = true := by first | assumption | rfl) (m : within 0x400000000000000000000000000000000000000001082000 L.regs = true := by first | with_reducible assumption | (refine within_trans (by assumption) ?_; exact rfl) | rfl) :
    Keeps L s0 (State.viol s a2 a3 a4 a5) := by
  unfold State.viol
  with_reducible repeat' first | assumption | intro _ | apply keeps_ite | exact has_ok m rfl | exact within_trans m rfl | apply State.bump_keeps | apply State.report_keeps | apply forN_keeps | apply keeps_snd_ite | dsimp only | split

theorem State.setThread_keeps (h : Keeps L s0 s) (a2 : ℕ) (a3 : ℕ) (a4 : Pkt) (a5 : Thread) (lcirrus : L.cirrus = true := by first | assumption | rfl) :
    Keeps L s0 (State.setThread s a2 a3 a4 a5) := by
  unfold State.setThread
  with_reducible repeat' first | assumption | intro _ | apply keeps_ite | apply State.setPkt_keeps | apply keeps_snd_ite | dsimp only | split

theorem State.leavePipe_keeps (h : Keeps L s0 s) (a2 : ℕ) (a3 : ℕ) (lcirrus : L.cirrus = true := by first | assumption | rfl) :
    Keeps L s0 (State.leavePipe s a2 a3) := by
  unfold State.leavePipe
  with_reducible repeat' first | assumption | intro _ | apply keeps_ite | apply State.setPkt_keeps | apply State.finishPkt_keeps | apply keeps_snd_ite | dsimp only | split

theorem State.threadFails_keeps (h : Keeps L s0 s) (a2 : ℕ) (a3 : ℕ) (a4 : ℕ) (lr32 : L.r32 = true := by first | assumption | rfl) (lr64 : L.r64 = true := by first | assumption | rfl) (lsquall : L.squall = true := by first | assumption | rfl) (lcirrus : L.cirrus = true := by first | assumption | rfl) (m : within 0x14000000000000000000000000000005000003e0000000000000000000000000000000001082000 L.regs = true := by first | with_reducible assumption | (refine within_trans (by assumption) ?_; exact rfl) | rfl) :
    Keeps L s0 (State.threadFails s a2 a3 a4) := by
  unfold State.threadFails
  with_reducible repeat' first | assumption | intro _ | apply keeps_ite | exact has_ok m rfl | exact within_trans m rfl | apply State.leavePipe_keeps | apply State.viol_keeps | apply State.excPkt_keeps | apply keeps_snd_ite | dsimp only | split

theorem State.abandon_keeps (h : Keeps L s0 s) (a2 : ℕ) (a3 : ℕ) (a4 : ℕ) (lr32 : L.r32 = true := by first | assumption | rfl) (lr64 : L.r64 = true := by first | assumption | rfl) (lcirrus : L.cirrus = true := by first | assumption | rfl) (m : within 0x14000000000000000000000000000001800003e0000000000000000000000000000000000000000 L.regs = true := by first | with_reducible assumption | (refine within_trans (by assumption) ?_; exact rfl) | rfl) :
    Keeps L s0 (State.abandon s a2 a3 a4) := by
  unfold State.abandon
  with_reducible repeat' first | assumption | intro _ | apply keeps_ite | exact has_ok m rfl | exact within_trans m rfl | apply State.perf_keeps | apply State.bump_keeps | apply State.excPkt_keeps | apply State.setPkt_keeps | apply keeps_snd_ite | dsimp only | split

theorem State.deliver_keeps (h : Keeps L s0 s) (a2 : ℕ) (a3 : ℕ) (lr32 : L.r32 = true := by first | assumption | rfl) (lr64 : L.r64 = true := by first | assumption | rfl) (lsquall : L.squall = true := by first | assumption | rfl) (lcirrus : L.cirrus = true := by first | assumption | rfl) (lte : L.te = true := by first | assumption | rfl) (m : within 0x400000000000000000000000000000000000000001082000 L.regs = true := by first | with_reducible assumption | (refine within_trans (by assumption) ?_; exact rfl) | rfl) :
    Keeps L s0 (State.deliver s a2 a3) := by
  unfold State.deliver
  with_reducible repeat' first | assumption | intro _ | apply keeps_ite | exact has_ok m rfl | exact within_trans m rfl | apply State.touch_keeps | apply State.viol_keeps | apply State.setThread_keeps | apply keeps_snd_ite | dsimp only | split

theorem State.resultBad_keeps (h : Keeps L s0 s) (a2 : ℕ) (a3 : ℕ) (a4 : Pkt) (a5 : TblOp) (a6 : List TblOp) (a7 : ℕ × ℕ) (lr32 : L.r32 = true := by first | assumption | rfl) (lr64 : L.r64 = true := by first | assumption | rfl) (lsquall : L.squall = true := by first | assumption | rfl) (lcirrus : L.cirrus = true := by first | assumption | rfl) (lte : L.te = true := by first | assumption | rfl) (m : within 0x14000000000000000000000000200005800003e0000000000000000000000000000000001082000 L.regs = true := by first | with_reducible assumption | (refine within_trans (by assumption) ?_; exact rfl) | rfl) :
    Keeps L s0 (State.resultBad s a2 a3 a4 a5 a6 a7) := by
  unfold State.resultBad
  with_reducible repeat' first | assumption | intro _ | apply keeps_ite | exact has_ok m rfl | exact within_trans m rfl | apply State.tblBad_keeps | apply State.viol_keeps | apply State.setThread_keeps | apply State.abandon_keeps | apply keeps_snd_ite | dsimp only | split

theorem State.resultIn_keeps (h : Keeps L s0 s) (a2 : ℕ) (a3 : ℕ) (a4 : ℕ) (lr32 : L.r32 = true := by first | assumption | rfl) (lr64 : L.r64 = true := by first | assumption | rfl) (lsquall : L.squall = true := by first | assumption | rfl) (lcirrus : L.cirrus = true := by first | assumption | rfl) (lte : L.te = true := by first | assumption | rfl) (m : within 0x14000000000000000000000000200005800003e0000000000000000000000000000000001082000 L.regs = true := by first | with_reducible assumption | (refine within_trans (by assumption) ?_; exact rfl) | rfl) :
    Keeps L s0 (State.resultIn s a2 a3 a4) := by
  unfold State.resultIn
  with_reducible repeat' first | assumption | intro _ | apply keeps_ite | exact has_ok m rfl | exact within_trans m rfl | apply State.resultBad_keeps | apply State.setThread_keeps | apply State.abandon_keeps | apply State.deliver_keeps | apply keeps_snd_ite | dsimp only | split

theorem State.deliverDue_keeps (h : Keeps L s0 s) (a2 a3 a4 : ℕ) (lr32 : L.r32 = true := by first | assumption | rfl) (lr64 : L.r64 = true := by first | assumption | rfl) (lsquall : L.squall = true := by first | assumption | rfl) (lcirrus : L.cirrus = true := by first | assumption | rfl) (lte : L.te = true := by first | assumption | rfl) (m : within 0x14000000000000000000000000200005800003e0000000000000000000000000000000001082000 L.regs = true := by first | with_reducible assumption | (refine within_trans (by assumption) ?_; exact rfl) | rfl) : Keeps L s0 (State.deliverDue s a2 a3 a4) := by
  induction a4 generalizing s with
  | zero => exact h
  | succ n ih =>
    unfold State.deliverDue
    repeat' first | with_reducible assumption | with_reducible apply keeps_ite | with_reducible apply ih | with_reducible apply State.resultIn_keeps | split

theorem execTableResultArrival_keeps (h : Keeps L s0 s) (a1 : ℕ) (a2 : ℕ) (a3 : ℕ) (lr32 : L.r32 = true := by first | assumption | rfl) (lr64 : L.r64 = true := by first | assumption | rfl) (lsquall : L.squall = true := by first | assumption | rfl) (lcirrus : L.cirrus = true := by first | assumption | rfl) (lte : L.te = true := by first | assumption | rfl) (m : within 0x14000000000000000000000000200005800003e0000000000000000000000000000000001082000 L.regs = true := by first | with_reducible assumption | (refine within_trans (by assumption) ?_; exact rfl) | rfl) :
    ∃ t, execTableResultArrival a1 a2 a3 s = .next t ∧ Keeps L s0 t := by
  unfold execTableResultArrival
  refine ⟨_, rfl, ?_⟩
  with_reducible repeat' first | assumption | intro _ | apply keeps_ite | exact has_ok m rfl | exact within_trans m rfl | apply State.resultIn_keeps | apply keeps_snd_ite | dsimp only | split

theorem State.meterAll_keeps (h : Keeps L s0 s) (a2 a3 : ℕ) (a4 : List Effect) (a5 : ℕ) (a6 : Option Disp) (lcirrus : L.cirrus = true := by first | assumption | rfl) :
    Keeps L s0 (State.meterAll s a2 a3 a4 a5 a6).2.2 := by
  induction a4 generalizing s a5 a6 with
  | nil => exact h
  | cons e r ih => exact ih (State.meter_keeps h _ _ _ _) _ _

theorem State.applyLog_keeps (h : Keeps L s0 s) (a2 : ℕ) (a3 : ℕ) (a4 : Pkt) (lr32 : L.r32 = true := by first | assumption | rfl) (lr64 : L.r64 = true := by first | assumption | rfl) (lcirrus : L.cirrus = true := by first | assumption | rfl) (lte : L.te = true := by first | assumption | rfl) (m : within 0x2000000001000109400000000000000000000000000000100000000000000000000000000000000000000000000000 L.regs = true := by first | with_reducible assumption | (refine within_trans (by assumption) ?_; exact rfl) | rfl) :
    Keeps L s0 (State.applyLog s a2 a3 a4) := by
  unfold State.applyLog
  with_reducible repeat' first | assumption | intro _ | apply keeps_ite | exact has_ok m rfl | exact within_trans m rfl | apply State.meterAll_keeps | apply State.each_keeps | apply State.countEffect_keeps | apply State.dpPush_keeps | apply State.perf_keeps | apply State.bump_keeps | apply State.setPkt_keeps | apply keeps_snd_ite | (refine keeps_of_eq (by assumption) ?_) | (refine keeps_of_eq2 (by assumption) ?_) | dsimp only | split

theorem State.commitThread_keeps (h : Keeps L s0 s) (a2 : ℕ) (a3 : ℕ) (lr32 : L.r32 = true := by first | assumption | rfl) (lr64 : L.r64 = true := by first | assumption | rfl) (ltm : L.tm = true := by first | assumption | rfl) (lcirrus : L.cirrus = true := by first | assumption | rfl) (lte : L.te = true := by first | assumption | rfl) (m : within 0x2000000001000109400000000000000000000000000000100000000000000000000000000000000000000000000000 L.regs = true := by first | with_reducible assumption | (refine within_trans (by assumption) ?_; exact rfl) | rfl) :
    Keeps L s0 (State.commitThread s a2 a3) := by
  unfold State.commitThread
  with_reducible repeat' first | assumption | intro _ | apply keeps_ite | exact has_ok m rfl | exact within_trans m rfl | apply State.setFrame_keeps | apply State.setPkt_keeps | apply State.applyLog_keeps | apply keeps_snd_ite | dsimp only | split

theorem State.deferred_keeps (h : Keeps L s0 s) (a2 : ℕ) (a3 : ℕ) (lr32 : L.r32 = true := by first | assumption | rfl) (lr64 : L.r64 = true := by first | assumption | rfl) (lcirrus : L.cirrus = true := by first | assumption | rfl) (lte : L.te = true := by first | assumption | rfl) (m : within 0x2000000001000109400000000000000000000000000000100000000000000000000000000000000000000000000000 L.regs = true := by first | with_reducible assumption | (refine within_trans (by assumption) ?_; exact rfl) | rfl) :
    Keeps L s0 (State.deferred s a2 a3) := by
  unfold State.deferred
  with_reducible repeat' first | assumption | intro _ | apply keeps_ite | exact has_ok m rfl | exact within_trans m rfl | apply State.applyLog_keeps | apply State.finishPkt_keeps | apply keeps_snd_ite | dsimp only | split

theorem execDeferredLogApply_keeps (h : Keeps L s0 s) (a1 : ℕ) (a2 : ℕ) (lr32 : L.r32 = true := by first | assumption | rfl) (lr64 : L.r64 = true := by first | assumption | rfl) (lcirrus : L.cirrus = true := by first | assumption | rfl) (lte : L.te = true := by first | assumption | rfl) (m : within 0x2000000001000109400000000000000000000000000000100000000000000000000000000000000000000000000000 L.regs = true := by first | with_reducible assumption | (refine within_trans (by assumption) ?_; exact rfl) | rfl) :
    ∃ t, execDeferredLogApply a1 a2 s = .next t ∧ Keeps L s0 t := by
  unfold execDeferredLogApply
  refine ⟨_, rfl, ?_⟩
  with_reducible repeat' first | assumption | intro _ | apply keeps_ite | exact has_ok m rfl | exact within_trans m rfl | apply State.deferred_keeps | apply keeps_snd_ite | dsimp only | split

theorem State.advance_keeps (h : Keeps L s0 s) (a2 : ℕ) (a3 : ℕ) (a4 : ℕ) (a5 : List ℕ) (lr32 : L.r32 = true := by first | assumption | rfl) (lr64 : L.r64 = true := by first | assumption | rfl) (lsquall : L.squall = true := by first | assumption | rfl) (lcirrus : L.cirrus = true := by first | assumption | rfl) (m : within 0x14000000000000000000000000000007000003e0000000000000000000000000000000001082000 L.regs = true := by first | with_reducible assumption | (refine within_trans (by assumption) ?_; exact rfl) | rfl) :
    Keeps L s0 (State.advance s a2 a3 a4 a5) := by
  unfold State.advance
  with_reducible repeat' first | assumption | intro _ | apply keeps_ite | exact has_ok m rfl | exact within_trans m rfl | apply State.setThread_keeps | apply State.bump_keeps | apply State.threadFails_keeps | apply keeps_snd_ite | dsimp only | split

theorem State.runWord_keeps (h : Keeps L s0 s) (a2 : ℕ) (a3 : ℕ) (a4 : ℕ) (a5 : ℕ) (a6 : Pkt) (lr32 : L.r32 = true := by first | assumption | rfl) (lr64 : L.r64 = true := by first | assumption | rfl) (lsquall : L.squall = true := by first | assumption | rfl) (ltm : L.tm = true := by first | assumption | rfl) (lcirrus : L.cirrus = true := by first | assumption | rfl) (lte : L.te = true := by first | assumption | rfl) (m : within 0x20000000010001094000000000000000000000000000007000003e0000000000000000000000000000000001082000 L.regs = true := by first | with_reducible assumption | (refine within_trans (by assumption) ?_; exact rfl) | rfl) :
    Keeps L s0 (State.runWord s a2 a3 a4 a5 a6) := by
  unfold State.runWord
  with_reducible repeat' first | assumption | intro _ | apply keeps_ite | exact has_ok m rfl | exact within_trans m rfl | apply State.viol_keeps | apply State.setThread_keeps | apply State.commitThread_keeps | apply State.leavePipe_keeps | apply State.advance_keeps | apply keeps_snd_ite | dsimp only | split

theorem State.runCommitted_keeps (h : Keeps L s0 s) (a2 : ℕ) (a3 : ℕ) (a4 : ℕ) (a5 : ℕ) (a6 : Pkt) (lr32 : L.r32 = true := by first | assumption | rfl) (lr64 : L.r64 = true := by first | assumption | rfl) (lsquall : L.squall = true := by first | assumption | rfl) (lcirrus : L.cirrus = true := by first | assumption | rfl) (m : within 0x14000000000000000000000000000007000003e0000000000000000000000000000000001082000 L.regs = true := by first | with_reducible assumption | (refine within_trans (by assumption) ?_; exact rfl) | rfl) :
    Keeps L s0 (State.runCommitted s a2 a3 a4 a5 a6) := by
  unfold State.runCommitted
  with_reducible repeat' first | assumption | intro _ | apply keeps_ite | exact has_ok m rfl | exact within_trans m rfl | apply State.viol_keeps | apply State.setThread_keeps | apply State.leavePipe_keeps | apply State.threadFails_keeps | apply State.advance_keeps | apply keeps_snd_ite | dsimp only | split

theorem State.bridge_keeps (h : Keeps L s0 s) (a2 : ℕ) (a3 : ℕ) (a4 : List Byte) (lr64 : L.r64 = true := by first | assumption | rfl) (lte : L.te = true := by first | assumption | rfl) (m : within 0x2000000000000000000000000000000000000000000000000000000000000000000000000000000000000000000000 L.regs = true := by first | with_reducible assumption | (refine within_trans (by assumption) ?_; exact rfl) | rfl) :
    Keeps L s0 (State.bridge s a2 a3 a4).2 := by
  unfold State.bridge
  with_reducible repeat' first | assumption | intro _ | apply keeps_ite | exact has_ok m rfl | exact within_trans m rfl | apply State.touch_keeps | apply State.dpPush_keeps | apply keeps_snd_ite | dsimp only | split

theorem State.runRom_keeps (h : Keeps L s0 s) (a2 : ℕ) (a3 : ℕ) (a4 : Pkt) (lr64 : L.r64 = true := by first | assumption | rfl) (lcirrus : L.cirrus = true := by first | assumption | rfl) (lte : L.te = true := by first | assumption | rfl) (m : within 0x2000000000000000000000000000000000000000000000000000000000000000000000000000000000000000000000 L.regs = true := by first | with_reducible assumption | (refine within_trans (by assumption) ?_; exact rfl) | rfl) :
    Keeps L s0 (State.runRom s a2 a3 a4) := by
  unfold State.runRom
  with_reducible repeat' first | assumption | intro _ | apply keeps_ite | exact has_ok m rfl | exact within_trans m rfl | apply State.bridge_keeps | apply State.finishPkt_keeps | apply keeps_snd_ite | (refine keeps_of_eq (by assumption) ?_) | dsimp only | split

theorem State.execWord_keeps (h : Keeps L s0 s) (a2 : ℕ) (a3 : ℕ) (a4 : ℕ) (lr32 : L.r32 = true := by first | assumption | rfl) (lr64 : L.r64 = true := by first | assumption | rfl) (lsquall : L.squall = true := by first | assumption | rfl) (ltm : L.tm = true := by first | assumption | rfl) (lcirrus : L.cirrus = true := by first | assumption | rfl) (lte : L.te = true := by first | assumption | rfl) (m : within 0x20000000010001094000000000000000000000000200007800003e0000000000000000000000000000000001082000 L.regs = true := by first | with_reducible assumption | (refine within_trans (by assumption) ?_; exact rfl) | rfl) :
    Keeps L s0 (State.execWord s a2 a3 a4) := by
  unfold State.execWord
  with_reducible repeat' first | assumption | intro _ | apply keeps_ite | exact has_ok m rfl | exact within_trans m rfl | apply State.runRom_keeps | apply State.abandon_keeps | apply State.deliverDue_keeps | apply State.setPipe_keeps | apply State.report_keeps | apply State.threadFails_keeps | apply State.runCommitted_keeps | apply State.runWord_keeps | apply keeps_snd_ite | dsimp only | split

theorem execMicrowordExecute_keeps (h : Keeps L s0 s) (a1 : ℕ) (a2 : ℕ) (a3 : ℕ) (lr32 : L.r32 = true := by first | assumption | rfl) (lr64 : L.r64 = true := by first | assumption | rfl) (lsquall : L.squall = true := by first | assumption | rfl) (ltm : L.tm = true := by first | assumption | rfl) (lcirrus : L.cirrus = true := by first | assumption | rfl) (lte : L.te = true := by first | assumption | rfl) (m : within 0x20000000010001094000000000000000000000000200007800003e0000000000000000000000000000000001082000 L.regs = true := by first | with_reducible assumption | (refine within_trans (by assumption) ?_; exact rfl) | rfl) :
    ∃ t, execMicrowordExecute a1 a2 a3 s = .next t ∧ Keeps L s0 t := by
  unfold execMicrowordExecute
  refine ⟨_, rfl, ?_⟩
  with_reducible repeat' first | assumption | intro _ | apply keeps_ite | exact has_ok m rfl | exact within_trans m rfl | apply State.execWord_keeps | apply keeps_snd_ite | dsimp only | split

theorem execThreadReentry_keeps (h : Keeps L s0 s) (a1 : ℕ) (a2 : ℕ) (lcirrus : L.cirrus = true := by first | assumption | rfl) :
    ∃ t, execThreadReentry a1 a2 s = .next t ∧ Keeps L s0 t := by
  unfold execThreadReentry
  refine ⟨_, rfl, ?_⟩
  with_reducible repeat' first | assumption | intro _ | apply keeps_ite | apply State.setThread_keeps | apply keeps_snd_ite | dsimp only | split

theorem execThreadRestart_keeps (h : Keeps L s0 s) (a1 : ℕ) (a2 : ℕ) (lr32 : L.r32 = true := by first | assumption | rfl) (lr64 : L.r64 = true := by first | assumption | rfl) (lcirrus : L.cirrus = true := by first | assumption | rfl) (lte : L.te = true := by first | assumption | rfl) (m : within 0x14000000000000000000000000000001000003e0000000000000000000000000000000000000000 L.regs = true := by first | with_reducible assumption | (refine within_trans (by assumption) ?_; exact rfl) | rfl) :
    ∃ t, execThreadRestart a1 a2 s = .next t ∧ Keeps L s0 t := by
  unfold execThreadRestart
  refine ⟨_, rfl, ?_⟩
  with_reducible repeat' first | assumption | intro _ | apply keeps_ite | exact has_ok m rfl | exact within_trans m rfl | apply State.excPkt_keeps | apply State.setPkt_keeps | apply keeps_snd_ite | dsimp only | split | exact Or.inl (by assumption) | exact Or.inr rfl | refine keeps_mk ?_ rfl rfl ?_ ?_ ?_ ?_ ?_ ?_ ?_ ?_ ?_ ?_ ?_ ?_ ?_ ?_

theorem State.excDrop_keeps (h : Keeps L s0 s) (a2 : ℕ) (a3 : ℕ) (lr32 : L.r32 = true := by first | assumption | rfl) (lr64 : L.r64 = true := by first | assumption | rfl) (lfree : L.free = true := by first | assumption | rfl) (lmem : L.mem = true := by first | assumption | rfl) (lhost : L.host = true := by first | assumption | rfl) (lsquall : L.squall = true := by first | assumption | rfl) (ltm : L.tm = true := by first | assumption | rfl) (lcirrus : L.cirrus = true := by first | assumption | rfl) (m : within 0x1400000000000001000580130080000800000000000000000822801b80000000000000001082000 L.regs = true := by first | with_reducible assumption | (refine within_trans (by assumption) ?_; exact rfl) | rfl) :
    Keeps L s0 (State.excDrop s a2 a3) := by
  unfold State.excDrop
  with_reducible repeat' first | assumption | intro _ | apply keeps_ite | exact has_ok m rfl | exact within_trans m rfl | apply State.killFrame_keeps | apply State.bump_keeps | apply keeps_snd_ite | dsimp only | split

theorem State.excEnqueue_keeps (h : Keeps L s0 s) (a2 : ℕ) (a3 : ExcItem) (lr32 : L.r32 = true := by first | assumption | rfl) (lr64 : L.r64 = true := by first | assumption | rfl) (lfree : L.free = true := by first | assumption | rfl) (lmem : L.mem = true := by first | assumption | rfl) (lhost : L.host = true := by first | assumption | rfl) (lsquall : L.squall = true := by first | assumption | rfl) (ltm : L.tm = true := by first | assumption | rfl) (lcirrus : L.cirrus = true := by first | assumption | rfl) (m : within 0x1400000000000001000580130080000800000000000000000822801b80000000000000001082000 L.regs = true := by first | with_reducible assumption | (refine within_trans (by assumption) ?_; exact rfl) | rfl) :
    Keeps L s0 (State.excEnqueue s a2 a3) := by
  unfold State.excEnqueue
  with_reducible repeat' first | assumption | intro _ | apply keeps_ite | exact has_ok m rfl | exact within_trans m rfl | apply State.excDrop_keeps | apply State.setPipe_keeps | apply keeps_snd_ite | dsimp only | split

theorem execExcQueueDeliver_keeps (h : Keeps L s0 s) (a1 : ℕ) (a2 : ℕ) (lr32 : L.r32 = true := by first | assumption | rfl) (lr64 : L.r64 = true := by first | assumption | rfl) (lfree : L.free = true := by first | assumption | rfl) (lmem : L.mem = true := by first | assumption | rfl) (lhost : L.host = true := by first | assumption | rfl) (lsquall : L.squall = true := by first | assumption | rfl) (ltm : L.tm = true := by first | assumption | rfl) (lcirrus : L.cirrus = true := by first | assumption | rfl) (m : within 0x1400000000000001000580130080000800000000000000000823801b80000000000000001082000 L.regs = true := by first | with_reducible assumption | (refine within_trans (by assumption) ?_; exact rfl) | rfl) :
    ∃ t, execExcQueueDeliver a1 a2 s = .next t ∧ Keeps L s0 t := by
  unfold execExcQueueDeliver
  refine ⟨_, rfl, ?_⟩
  with_reducible repeat' first | assumption | intro _ | apply keeps_ite | exact has_ok m rfl | exact within_trans m rfl | apply State.setPipe_keeps | apply State.excDrop_keeps | apply State.rxWrite_keeps | apply State.endRef_keeps | apply keeps_snd_ite | (refine keeps_of_eq (by assumption) ?_) | dsimp only | split

theorem execCsWordRewrite_keeps (h : Keeps L s0 s) (a1 : ℕ) (a2 : ℕ) (lcirrus : L.cirrus = true := by first | assumption | rfl) :
    ∃ t, execCsWordRewrite a1 a2 s = .next t ∧ Keeps L s0 t := by
  unfold execCsWordRewrite
  refine ⟨_, rfl, ?_⟩
  with_reducible repeat' first | assumption | intro _ | apply keeps_ite | apply State.setPipe_keeps | apply keeps_snd_ite | dsimp only | split

theorem State.csRead_keeps (h : Keeps L s0 s) (a2 : ℕ) (a3 : Word) (a4 : Bool) (lr32 : L.r32 = true := by first | assumption | rfl) (lr64 : L.r64 = true := by first | assumption | rfl) (lsquall : L.squall = true := by first | assumption | rfl) (lcirrus : L.cirrus = true := by first | assumption | rfl) (m : within 0x780000000000000000000000000000000000000000001082000 L.regs = true := by first | with_reducible assumption | (refine within_trans (by assumption) ?_; exact rfl) | rfl) :
    Keeps L s0 (State.csRead s a2 a3 a4) := by
  unfold State.csRead
  with_reducible repeat' first | assumption | intro _ | apply keeps_ite | exact has_ok m rfl | exact within_trans m rfl | apply State.wr_keeps | apply State.fset_keeps | apply State.report_keeps | apply State.setPipe_keeps | apply forN_keeps | apply keeps_snd_ite | dsimp only | split

theorem execCsRead_keeps (h : Keeps L s0 s) (a1 : ℕ) (a2 : Word) (a3 : Bool) (lr32 : L.r32 = true := by first | assumption | rfl) (lr64 : L.r64 = true := by first | assumption | rfl) (lsquall : L.squall = true := by first | assumption | rfl) (lcirrus : L.cirrus = true := by first | assumption | rfl) (m : within 0x780000000000000000000000000000000000000000001082000 L.regs = true := by first | with_reducible assumption | (refine within_trans (by assumption) ?_; exact rfl) | rfl) :
    ∃ t, execCsRead a1 a2 a3 s = .next t ∧ Keeps L s0 t := by
  unfold execCsRead
  refine ⟨_, rfl, ?_⟩
  with_reducible repeat' first | assumption | intro _ | apply keeps_ite | exact has_ok m rfl | exact within_trans m rfl | apply State.when_keeps | apply State.csRead_keeps | apply keeps_snd_ite | dsimp only | split

theorem execCsReadDone_keeps (h : Keeps L s0 s) (a1 : ℕ) (lr32 : L.r32 = true := by first | assumption | rfl) (m : within 0x100000000000000000000000000000000000000000000000000 L.regs = true := by first | with_reducible assumption | (refine within_trans (by assumption) ?_; exact rfl) | rfl) :
    ∃ t, execCsReadDone a1 s = .next t ∧ Keeps L s0 t := by
  unfold execCsReadDone
  refine ⟨_, rfl, ?_⟩
  with_reducible repeat' first | assumption | intro _ | apply keeps_ite | exact has_ok m rfl | exact within_trans m rfl | apply State.fset_keeps | apply keeps_snd_ite | dsimp only | split

theorem State.imgRefuse_keeps (h : Keeps L s0 s) (a2 : ℕ) (lr32 : L.r32 = true := by first | assumption | rfl) (m : within 0x2000000000000000000000000000000000000000000000000 L.regs = true := by first | with_reducible assumption | (refine within_trans (by assumption) ?_; exact rfl) | rfl) :
    Keeps L s0 (State.imgRefuse s a2) := by
  unfold State.imgRefuse
  with_reducible repeat' first | assumption | intro _ | apply keeps_ite | exact has_ok m rfl | exact within_trans m rfl | apply State.fset_keeps | apply keeps_snd_ite | dsimp only | split

theorem State.imgFields_keeps (h : Keeps L s0 s) (a2 : Word) (lr32 : L.r32 = true := by first | assumption | rfl) (m : within 0x1000000000000000000000000000000000000000000000000 L.regs = true := by first | with_reducible assumption | (refine within_trans (by assumption) ?_; exact rfl) | rfl) :
    Keeps L s0 (State.imgFields s a2) := by
  unfold State.imgFields
  with_reducible repeat' first | assumption | intro _ | apply keeps_ite | exact has_ok m rfl | exact within_trans m rfl | apply State.wr_keeps | apply keeps_snd_ite | dsimp only | split

theorem State.imgBusy_keeps (h : Keeps L s0 s) (lr32 : L.r32 = true := by first | assumption | rfl) (m : within 0x2000000000000000000000000000000000000000000000000 L.regs = true := by first | with_reducible assumption | (refine within_trans (by assumption) ?_; exact rfl) | rfl) :
    Keeps L s0 (State.imgBusy s) := by
  unfold State.imgBusy
  with_reducible repeat' first | assumption | intro _ | apply keeps_ite | exact has_ok m rfl | exact within_trans m rfl | apply State.fset_keeps | apply keeps_snd_ite | dsimp only | split

theorem State.imgLoad_keeps (h : Keeps L s0 s) (a2 : ℕ) (a3 : Word) (a4 : List Byte) (a5 : Bool) (lr32 : L.r32 = true := by first | assumption | rfl) (lr64 : L.r64 = true := by first | assumption | rfl) (lhost : L.host = true := by first | assumption | rfl) (lsquall : L.squall = true := by first | assumption | rfl) (lcirrus : L.cirrus = true := by first | assumption | rfl) (m : within 0x3000000000000000000800801b80000000000000001082000 L.regs = true := by first | with_reducible assumption | (refine within_trans (by assumption) ?_; exact rfl) | rfl) :
    Keeps L s0 (State.imgLoad s a2 a3 a4 a5) := by
  unfold State.imgLoad
  with_reducible repeat' first | assumption | intro _ | apply keeps_ite | exact has_ok m rfl | exact within_trans m rfl | apply State.imgFields_keeps | apply State.imgRefuse_keeps | apply State.fset_keeps | apply State.violation_keeps | apply keeps_snd_ite | dsimp only | split | exact Or.inl (by assumption) | exact Or.inr rfl | refine keeps_mk ?_ rfl rfl ?_ ?_ ?_ ?_ ?_ ?_ ?_ ?_ ?_ ?_ ?_ ?_ ?_ ?_

theorem execImgLoad_keeps (h : Keeps L s0 s) (a1 : ℕ) (a2 : Word) (a3 : List Byte) (a4 : Bool) (lr32 : L.r32 = true := by first | assumption | rfl) (lr64 : L.r64 = true := by first | assumption | rfl) (lhost : L.host = true := by first | assumption | rfl) (lsquall : L.squall = true := by first | assumption | rfl) (lcirrus : L.cirrus = true := by first | assumption | rfl) (m : within 0x3000000000000000000800801b80000000000000001082000 L.regs = true := by first | with_reducible assumption | (refine within_trans (by assumption) ?_; exact rfl) | rfl) :
    ∃ t, execImgLoad a1 a2 a3 a4 s = .next t ∧ Keeps L s0 t := by
  unfold execImgLoad
  refine ⟨_, rfl, ?_⟩
  with_reducible repeat' first | assumption | intro _ | apply keeps_ite | exact has_ok m rfl | exact within_trans m rfl | apply State.imgLoad_keeps | apply State.violation_keeps | apply keeps_snd_ite | dsimp only | split

theorem execImgLoadDone_keeps (h : Keeps L s0 s) (lr32 : L.r32 = true := by first | assumption | rfl) (lcirrus : L.cirrus = true := by first | assumption | rfl) (m : within 0x2000000000000000000000000000000000000000000000000 L.regs = true := by first | with_reducible assumption | (refine within_trans (by assumption) ?_; exact rfl) | rfl) :
    ∃ t, execImgLoadDone s = .next t ∧ Keeps L s0 t := by
  unfold execImgLoadDone
  refine ⟨_, rfl, ?_⟩
  with_reducible repeat' first | assumption | intro _ | apply keeps_ite | exact has_ok m rfl | exact within_trans m rfl | apply State.fset_keeps | apply State.imgBusy_keeps | apply keeps_snd_ite | dsimp only | split | exact Or.inl (by assumption) | exact Or.inr rfl | refine keeps_mk ?_ rfl rfl ?_ ?_ ?_ ?_ ?_ ?_ ?_ ?_ ?_ ?_ ?_ ?_ ?_ ?_

theorem State.abandonIn_keeps (h : Keeps L s0 s) (a2 : ℕ) (a3 : Bool) (lr32 : L.r32 = true := by first | assumption | rfl) (lr64 : L.r64 = true := by first | assumption | rfl) (lcirrus : L.cirrus = true := by first | assumption | rfl) (m : within 0x14000000000000000000000000000001800003e0000000000000000000000000000000000000000 L.regs = true := by first | with_reducible assumption | (refine within_trans (by assumption) ?_; exact rfl) | rfl) :
    Keeps L s0 (State.abandonIn s a2 a3) := by
  unfold State.abandonIn
  with_reducible repeat' first | assumption | intro _ | apply keeps_ite | exact has_ok m rfl | exact within_trans m rfl | apply State.each_keeps | apply State.abandon_keeps | apply keeps_snd_ite | dsimp only | split

theorem State.actStart_keeps (h : Keeps L s0 s) (a2 : Bool) (a3 : Bool) (lr32 : L.r32 = true := by first | assumption | rfl) (lr64 : L.r64 = true := by first | assumption | rfl) (lcirrus : L.cirrus = true := by first | assumption | rfl) (m : within 0x14000000000000000000000000000021880003e0000000000000000000000000000000000000000 L.regs = true := by first | with_reducible assumption | (refine within_trans (by assumption) ?_; exact rfl) | rfl) :
    Keeps L s0 (State.actStart s a2 a3) := by
  unfold State.actStart
  with_reducible repeat' first | assumption | intro _ | apply keeps_ite | exact has_ok m rfl | exact within_trans m rfl | apply State.fset_keeps | apply State.each_keeps | apply State.abandonIn_keeps | apply keeps_snd_ite | dsimp only | split | exact Or.inl (by assumption) | exact Or.inr rfl | refine keeps_mk ?_ rfl rfl ?_ ?_ ?_ ?_ ?_ ?_ ?_ ?_ ?_ ?_ ?_ ?_ ?_ ?_

theorem State.imgActivate_keeps (h : Keeps L s0 s) (a2 : Word) (lr32 : L.r32 = true := by first | assumption | rfl) (lr64 : L.r64 = true := by first | assumption | rfl) (lcirrus : L.cirrus = true := by first | assumption | rfl) (m : within 0x14000000000000000000000000000031880003e0000000000000000000000000000000000000000 L.regs = true := by first | with_reducible assumption | (refine within_trans (by assumption) ?_; exact rfl) | rfl) :
    Keeps L s0 (State.imgActivate s a2) := by
  unfold State.imgActivate
  with_reducible repeat' first | assumption | intro _ | apply keeps_ite | exact has_ok m rfl | exact within_trans m rfl | apply State.imgFields_keeps | apply State.imgRefuse_keeps | apply State.fset_keeps | apply State.actStart_keeps | apply keeps_snd_ite | dsimp only | split | exact Or.inl (by assumption) | exact Or.inr rfl | refine keeps_mk ?_ rfl rfl ?_ ?_ ?_ ?_ ?_ ?_ ?_ ?_ ?_ ?_ ?_ ?_ ?_ ?_

theorem execImgActivate_keeps (h : Keeps L s0 s) (a1 : Word) (lr32 : L.r32 = true := by first | assumption | rfl) (lr64 : L.r64 = true := by first | assumption | rfl) (lcirrus : L.cirrus = true := by first | assumption | rfl) (m : within 0x14000000000000000000000000000031880003e0000000000000000000000000000000000000000 L.regs = true := by first | with_reducible assumption | (refine within_trans (by assumption) ?_; exact rfl) | rfl) :
    ∃ t, execImgActivate a1 s = .next t ∧ Keeps L s0 t := by
  unfold execImgActivate
  refine ⟨_, rfl, ?_⟩
  with_reducible repeat' first | assumption | intro _ | apply keeps_ite | exact has_ok m rfl | exact within_trans m rfl | apply State.imgActivate_keeps | apply keeps_snd_ite | dsimp only | split

theorem State.imgDeactivate_keeps (h : Keeps L s0 s) (a2 : Word) (lr32 : L.r32 = true := by first | assumption | rfl) (lr64 : L.r64 = true := by first | assumption | rfl) (lcirrus : L.cirrus = true := by first | assumption | rfl) (m : within 0x14000000000000000000000000000031880003e0000000000000000000000000000000000000000 L.regs = true := by first | with_reducible assumption | (refine within_trans (by assumption) ?_; exact rfl) | rfl) :
    Keeps L s0 (State.imgDeactivate s a2) := by
  unfold State.imgDeactivate
  with_reducible repeat' first | assumption | intro _ | apply keeps_ite | exact has_ok m rfl | exact within_trans m rfl | apply State.imgRefuse_keeps | apply State.actStart_keeps | apply State.imgFields_keeps | apply keeps_snd_ite | dsimp only | split

theorem execImgDeactivate_keeps (h : Keeps L s0 s) (a1 : Word) (lr32 : L.r32 = true := by first | assumption | rfl) (lr64 : L.r64 = true := by first | assumption | rfl) (lcirrus : L.cirrus = true := by first | assumption | rfl) (m : within 0x14000000000000000000000000000031880003e0000000000000000000000000000000000000000 L.regs = true := by first | with_reducible assumption | (refine within_trans (by assumption) ?_; exact rfl) | rfl) :
    ∃ t, execImgDeactivate a1 s = .next t ∧ Keeps L s0 t := by
  unfold execImgDeactivate
  refine ⟨_, rfl, ?_⟩
  with_reducible repeat' first | assumption | intro _ | apply keeps_ite | exact has_ok m rfl | exact within_trans m rfl | apply State.imgDeactivate_keeps | apply keeps_snd_ite | dsimp only | split

theorem State.imgCancel_keeps (h : Keeps L s0 s) (lr32 : L.r32 = true := by first | assumption | rfl) (m : within 0x2000000000000000000000000000000000000000000000000 L.regs = true := by first | with_reducible assumption | (refine within_trans (by assumption) ?_; exact rfl) | rfl) :
    Keeps L s0 (State.imgCancel s) := by
  unfold State.imgCancel
  with_reducible repeat' first | assumption | intro _ | apply keeps_ite | exact has_ok m rfl | exact within_trans m rfl | apply State.fset_keeps | apply keeps_snd_ite | dsimp only | split

theorem execImgCancel_keeps (h : Keeps L s0 s) (lr32 : L.r32 = true := by first | assumption | rfl) (m : within 0x2000000000000000000000000000000000000000000000000 L.regs = true := by first | with_reducible assumption | (refine within_trans (by assumption) ?_; exact rfl) | rfl) :
    ∃ t, execImgCancel s = .next t ∧ Keeps L s0 t := by
  unfold execImgCancel
  refine ⟨_, rfl, ?_⟩
  with_reducible repeat' first | assumption | intro _ | apply keeps_ite | exact has_ok m rfl | exact within_trans m rfl | apply State.imgCancel_keeps | apply keeps_snd_ite | dsimp only | split

theorem execActivationDrained_keeps (h : Keeps L s0 s) (lr32 : L.r32 = true := by first | assumption | rfl) (lr64 : L.r64 = true := by first | assumption | rfl) (lcirrus : L.cirrus = true := by first | assumption | rfl) (m : within 0x14000000000000000000000000000001800003e0000000000000000000000000000000000000000 L.regs = true := by first | with_reducible assumption | (refine within_trans (by assumption) ?_; exact rfl) | rfl) :
    ∃ t, execActivationDrained s = .next t ∧ Keeps L s0 t := by
  unfold execActivationDrained
  refine ⟨_, rfl, ?_⟩
  with_reducible repeat' first | assumption | intro _ | apply keeps_ite | exact has_ok m rfl | exact within_trans m rfl | apply State.each_keeps | apply State.abandonIn_keeps | apply keeps_snd_ite | dsimp only | split | exact Or.inl (by assumption) | exact Or.inr rfl | refine keeps_mk ?_ rfl rfl ?_ ?_ ?_ ?_ ?_ ?_ ?_ ?_ ?_ ?_ ?_ ?_ ?_ ?_

theorem State.custClear_keeps (h : Keeps L s0 s) (lr32 : L.r32 = true := by first | assumption | rfl) (lcirrus : L.cirrus = true := by first | assumption | rfl) (m : within 0x62000000000000020000000000000000000000000000000000 L.regs = true := by first | with_reducible assumption | (refine within_trans (by assumption) ?_; exact rfl) | rfl) :
    Keeps L s0 (State.custClear s) := by
  unfold State.custClear
  with_reducible repeat' first | assumption | intro _ | apply keeps_ite | exact has_ok m rfl | exact within_trans m rfl | apply State.setMeas_keeps | apply State.wr_keeps | apply State.fset_keeps | apply keeps_snd_ite | dsimp only | split | exact Or.inl (by assumption) | exact Or.inr rfl | refine keeps_mk ?_ rfl rfl ?_ ?_ ?_ ?_ ?_ ?_ ?_ ?_ ?_ ?_ ?_ ?_ ?_ ?_

theorem State.install_keeps (h : Keeps L s0 s) (a2 : Image) (lr32 : L.r32 = true := by first | assumption | rfl) (lcirrus : L.cirrus = true := by first | assumption | rfl) (m : within 0x72000000000000020000000000000000000000000000000000 L.regs = true := by first | with_reducible assumption | (refine within_trans (by assumption) ?_; exact rfl) | rfl) :
    Keeps L s0 (State.install s a2) := by
  unfold State.install
  with_reducible repeat' first | assumption | intro _ | apply keeps_ite | exact has_ok m rfl | exact within_trans m rfl | apply State.each_keeps | apply State.setPipe_keeps | apply State.setMeas_keeps | apply State.wr_keeps | apply State.fset_keeps | apply keeps_snd_ite | dsimp only | split | exact Or.inl (by assumption) | exact Or.inr rfl | refine keeps_mk ?_ rfl rfl ?_ ?_ ?_ ?_ ?_ ?_ ?_ ?_ ?_ ?_ ?_ ?_ ?_ ?_

theorem State.dispatchHeld_keeps (h : Keeps L s0 s) (a2 : ℕ) (lcirrus : L.cirrus = true := by first | assumption | rfl) :
    Keeps L s0 (State.dispatchHeld s a2) := by
  unfold State.dispatchHeld
  with_reducible repeat' first | assumption | intro _ | apply keeps_ite | apply State.each_keeps | apply State.dispatch_keeps | apply keeps_snd_ite | dsimp only | split

theorem execActivationComplete_keeps (h : Keeps L s0 s) (lr32 : L.r32 = true := by first | assumption | rfl) (lcirrus : L.cirrus = true := by first | assumption | rfl) (m : within 0x72008000000000020000000000000000000000000000000000 L.regs = true := by first | with_reducible assumption | (refine within_trans (by assumption) ?_; exact rfl) | rfl) :
    ∃ t, execActivationComplete s = .next t ∧ Keeps L s0 t := by
  unfold execActivationComplete
  refine ⟨_, rfl, ?_⟩
  with_reducible repeat' first | assumption | intro _ | apply keeps_ite | exact has_ok m rfl | exact within_trans m rfl | apply State.custClear_keeps | apply State.install_keeps | apply State.fset_keeps | apply State.imgBusy_keeps | apply State.each_keeps | apply State.dispatchHeld_keeps | apply keeps_snd_ite | dsimp only | split | exact Or.inl (by assumption) | exact Or.inr rfl | refine keeps_mk ?_ rfl rfl ?_ ?_ ?_ ?_ ?_ ?_ ?_ ?_ ?_ ?_ ?_ ?_ ?_ ?_

theorem execVersionChange_keeps (h : Keeps L s0 s) (lr32 : L.r32 = true := by first | assumption | rfl) (lr64 : L.r64 = true := by first | assumption | rfl) (lmem : L.mem = true := by first | assumption | rfl) (lhost : L.host = true := by first | assumption | rfl) (lsquall : L.squall = true := by first | assumption | rfl) (lcirrus : L.cirrus = true := by first | assumption | rfl) (lte : L.te = true := by first | assumption | rfl) (ltrust : L.trust = true := by first | assumption | rfl) (m : within 0x80022040000000014000000000000003800000000080021880003e0000420000822801b80000000000000001082000 L.regs = true := by first | with_reducible assumption | (refine within_trans (by assumption) ?_; exact rfl) | rfl) :
    ∃ t, execVersionChange s = .next t ∧ Keeps L s0 t := by
  unfold execVersionChange
  refine ⟨_, rfl, ?_⟩
  with_reducible repeat' first | assumption | intro _ | apply keeps_ite | exact has_ok m rfl | exact within_trans m rfl | apply State.commitNow_keeps | apply State.mcRun_keeps | apply State.actStart_keeps | apply keeps_snd_ite | dsimp only | split

end Sys2Proof.Machine
end

