-- ==== Sys2Proof/Laws/KeepsRelease.lean ====
section
/-!
SUPPORT. What each operation and each command of `Machine/Release.lean` (release of packets) leaves alone, in the terms of `Laws/Keeps.lean`.
-/

set_option Elab.async false

set_option linter.unusedTactic false
set_option linter.unreachableTactic false
set_option linter.unusedVariables false
namespace Sys2Proof.Machine

variable {L : Touch} {s0 s : State}

theorem State.growCell_keeps (h : Keeps L s0 s) (a2 : ℕ) (a3 : ℕ) (lr32 : L.r32 = true := by first | assumption | rfl) (lr64 : L.r64 = true := by first | assumption | rfl) (lsquall : L.squall = true := by first | assumption | rfl) (ltm : L.tm = true := by first | assumption | rfl) (m : within 0x580000080000000000000000000000000000000000000000000001082000 L.regs = true := by first | with_reducible assumption | (refine within_trans (by assumption) ?_; exact rfl) | rfl) :
    Keeps L s0 (State.growCell s a2 a3).2 := by
  unfold State.growCell
  with_reducible repeat' first | assumption | intro _ | apply keeps_ite | exact has_ok m rfl | exact within_trans m rfl | apply State.admitCell_keeps | apply State.pgScan_keeps | apply State.setFrame_keeps | apply keeps_snd_ite | (refine keeps_of_eq (by assumption) ?_) | dsimp only | split

theorem State.linkUnicast_keeps (h : Keeps L s0 s) (a2 : ℕ) (a3 : ℕ) (lr32 : L.r32 = true := by first | assumption | rfl) (lr64 : L.r64 = true := by first | assumption | rfl) (lfree : L.free = true := by first | assumption | rfl) (lmem : L.mem = true := by first | assumption | rfl) (lhost : L.host = true := by first | assumption | rfl) (lsquall : L.squall = true := by first | assumption | rfl) (ltm : L.tm = true := by first | assumption | rfl) (lcirrus : L.cirrus = true := by first | assumption | rfl) (m : within 0x1400000000000001000580330080000000000000000000000822801b80000000000000001082000 L.regs = true := by first | with_reducible assumption | (refine within_trans (by assumption) ?_; exact rfl) | rfl) :
    Keeps L s0 (State.linkUnicast s a2 a3) := by
  unfold State.linkUnicast
  with_reducible repeat' first | assumption | intro _ | apply keeps_ite | exact has_ok m rfl | exact within_trans m rfl | apply State.growCell_keeps | apply State.killFrame_keeps | apply State.setFrame_keeps | apply State.enqueue_keeps | apply State.when_keeps | apply State.perf_keeps | apply State.bump_keeps | apply keeps_snd_ite | (refine keeps_of_eq (by assumption) ?_) | dsimp only | split

theorem State.linkFwd_keeps (h : Keeps L s0 s) (a2 : ℕ) (a3 : ℕ) (a4 : ℕ) (a5 : ℕ) (a6 : List Byte) (lr32 : L.r32 = true := by first | assumption | rfl) (lr64 : L.r64 = true := by first | assumption | rfl) (lfree : L.free = true := by first | assumption | rfl) (lmem : L.mem = true := by first | assumption | rfl) (lhost : L.host = true := by first | assumption | rfl) (lsquall : L.squall = true := by first | assumption | rfl) (ltm : L.tm = true := by first | assumption | rfl) (lcirrus : L.cirrus = true := by first | assumption | rfl) (m : within 0x1400000000000001000580330080000000000000000000000822801b80000000000000001082000 L.regs = true := by first | with_reducible assumption | (refine within_trans (by assumption) ?_; exact rfl) | rfl) :
    Keeps L s0 (State.linkFwd s a2 a3 a4 a5 a6) := by
  unfold State.linkFwd
  with_reducible repeat' first | assumption | intro _ | apply keeps_ite | exact has_ok m rfl | exact within_trans m rfl | apply State.linkUnicast_keeps | apply State.setFrame_keeps | apply keeps_snd_ite | dsimp only | split

theorem State.linkMc_keeps (h : Keeps L s0 s) (a2 : ℕ) (a3 : ℕ) (a4 : ℕ) (a5 : List ℕ) (a6 : List Byte) (lr32 : L.r32 = true := by first | assumption | rfl) (lr64 : L.r64 = true := by first | assumption | rfl) (lfree : L.free = true := by first | assumption | rfl) (lmem : L.mem = true := by first | assumption | rfl) (lhost : L.host = true := by first | assumption | rfl) (lsquall : L.squall = true := by first | assumption | rfl) (ltm : L.tm = true := by first | assumption | rfl) (lcirrus : L.cirrus = true := by first | assumption | rfl) (m : within 0x1400000000000001000580130080000000000000000000000822801b80000000000000001082000 L.regs = true := by first | with_reducible assumption | (refine within_trans (by assumption) ?_; exact rfl) | rfl) :
    Keeps L s0 (State.linkMc s a2 a3 a4 a5 a6) := by
  unfold State.linkMc
  with_reducible repeat' first | assumption | intro _ | apply keeps_ite | exact has_ok m rfl | exact within_trans m rfl | apply State.killFrame_keeps | apply State.setFrame_keeps | apply State.growCell_keeps | apply State.each_keeps | apply State.endRef_keeps | apply State.discard_keeps | apply State.enqueue_keeps | apply keeps_snd_ite | (refine keeps_of_eq (by assumption) ?_) | dsimp only | split

theorem State.deliverDisp_keeps (h : Keeps L s0 s) (a2 : ℕ) (a3 : ℕ) (a4 : Pkt) (a5 : Disp) (lr32 : L.r32 = true := by first | assumption | rfl) (lr64 : L.r64 = true := by first | assumption | rfl) (lfree : L.free = true := by first | assumption | rfl) (lmem : L.mem = true := by first | assumption | rfl) (lhost : L.host = true := by first | assumption | rfl) (lsquall : L.squall = true := by first | assumption | rfl) (ltm : L.tm = true := by first | assumption | rfl) (lcirrus : L.cirrus = true := by first | assumption | rfl) (m : within 0x1400000000000001000580330080000800000000000000000822801b80000000000000001082000 L.regs = true := by first | with_reducible assumption | (refine within_trans (by assumption) ?_; exact rfl) | rfl) :
    Keeps L s0 (State.deliverDisp s a2 a3 a4 a5) := by
  unfold State.deliverDisp
  with_reducible repeat' first | assumption | intro _ | apply keeps_ite | exact has_ok m rfl | exact within_trans m rfl | apply State.excEnqueue_keeps | apply State.linkFwd_keeps | apply State.linkMc_keeps | apply State.killFrame_keeps | apply State.setFrame_keeps | apply keeps_snd_ite | dsimp only | split

theorem State.release_keeps (h : Keeps L s0 s) (a2 : ℕ) (a3 : ℕ) (a4 : Pkt) (lr32 : L.r32 = true := by first | assumption | rfl) (lr64 : L.r64 = true := by first | assumption | rfl) (lfree : L.free = true := by first | assumption | rfl) (lmem : L.mem = true := by first | assumption | rfl) (lhost : L.host = true := by first | assumption | rfl) (lsquall : L.squall = true := by first | assumption | rfl) (ltm : L.tm = true := by first | assumption | rfl) (lhalo : L.halo = true := by first | assumption | rfl) (lcirrus : L.cirrus = true := by first | assumption | rfl) (m : within 0x700001400000000000001000580330084000800000000000000000822801b80000000000000001082000 L.regs = true := by first | with_reducible assumption | (refine within_trans (by assumption) ?_; exact rfl) | rfl) :
    Keeps L s0 (State.release s a2 a3 a4) := by
  unfold State.release
  with_reducible repeat' first | assumption | intro _ | apply keeps_ite | exact has_ok m rfl | exact within_trans m rfl | apply State.perf_keeps | apply State.setInflight_keeps | apply State.setPkt_keeps | apply State.flowRelease_keeps | apply State.each_keeps | apply State.offer_keeps | apply State.offerIngress_keeps | apply State.setFrame_keeps | apply State.sweep_keeps | apply State.deliverDisp_keeps | apply keeps_snd_ite | (refine keeps_of_eq (by assumption) ?_) | dsimp only | split

theorem execReorderRelease_keeps (h : Keeps L s0 s) (a1 : ℕ) (a2 : ℕ) (lr32 : L.r32 = true := by first | assumption | rfl) (lr64 : L.r64 = true := by first | assumption | rfl) (lfree : L.free = true := by first | assumption | rfl) (lmem : L.mem = true := by first | assumption | rfl) (lhost : L.host = true := by first | assumption | rfl) (lsquall : L.squall = true := by first | assumption | rfl) (ltm : L.tm = true := by first | assumption | rfl) (lhalo : L.halo = true := by first | assumption | rfl) (lcirrus : L.cirrus = true := by first | assumption | rfl) (m : within 0x700001400000000000001000580330084000800000000000000000822801b80000000000000001082000 L.regs = true := by first | with_reducible assumption | (refine within_trans (by assumption) ?_; exact rfl) | rfl) :
    ∃ t, execReorderRelease a1 a2 s = .next t ∧ Keeps L s0 t := by
  unfold execReorderRelease
  refine ⟨_, rfl, ?_⟩
  with_reducible repeat' first | assumption | intro _ | apply keeps_ite | exact has_ok m rfl | exact within_trans m rfl | apply State.release_keeps | apply keeps_snd_ite | dsimp only | split

theorem State.frameWhole_keeps (h : Keeps L s0 s) (a2 : ℕ) (a3 : ℕ) (a4 : Bool) (lr32 : L.r32 = true := by first | assumption | rfl) (lr64 : L.r64 = true := by first | assumption | rfl) (lfree : L.free = true := by first | assumption | rfl) (lmem : L.mem = true := by first | assumption | rfl) (lhost : L.host = true := by first | assumption | rfl) (lsquall : L.squall = true := by first | assumption | rfl) (ltm : L.tm = true := by first | assumption | rfl) (lhalo : L.halo = true := by first | assumption | rfl) (lcirrus : L.cirrus = true := by first | assumption | rfl) (lte : L.te = true := by first | assumption | rfl) (m : within 0x20000000010001094000000000000010005801700800001000003e0000000000822801b80000000000000001082000 L.regs = true := by first | with_reducible assumption | (refine within_trans (by assumption) ?_; exact rfl) | rfl) :
    Keeps L s0 (State.frameWhole s a2 a3 a4) := by
  unfold State.frameWhole
  with_reducible repeat' first | assumption | intro _ | apply keeps_ite | exact has_ok m rfl | exact within_trans m rfl | apply State.deferred_keeps | apply State.lastBeatFor_keeps | apply State.rxVerdict_keeps | apply State.flowBytes_keeps | apply keeps_snd_ite | dsimp only | split

theorem State.lastBeat_keeps (h : Keeps L s0 s) (a2 : ℕ) (a3 : List Byte) (a4 : Bool) (lr32 : L.r32 = true := by first | assumption | rfl) (lr64 : L.r64 = true := by first | assumption | rfl) (lfree : L.free = true := by first | assumption | rfl) (lmem : L.mem = true := by first | assumption | rfl) (lhost : L.host = true := by first | assumption | rfl) (lsquall : L.squall = true := by first | assumption | rfl) (ltm : L.tm = true := by first | assumption | rfl) (lhalo : L.halo = true := by first | assumption | rfl) (lcirrus : L.cirrus = true := by first | assumption | rfl) (lte : L.te = true := by first | assumption | rfl) (m : within 0x20000000010001094000000000000010005801700800001000003e0000000000822801b80000000000000001082000 L.regs = true := by first | with_reducible assumption | (refine within_trans (by assumption) ?_; exact rfl) | rfl) :
    Keeps L s0 (State.lastBeat s a2 a3 a4) := by
  unfold State.lastBeat
  with_reducible repeat' first | assumption | intro _ | apply keeps_ite | exact has_ok m rfl | exact within_trans m rfl | apply State.pauseReceive_keeps | apply State.setRxCtl_keeps | apply State.rxBeat_keeps | apply State.frameWhole_keeps | apply State.setRx_keeps | apply keeps_snd_ite | dsimp only | split

theorem State.frameIn_keeps (h : Keeps L s0 s) (a2 : ℕ) (llink : L.link = true := by first | assumption | rfl) :
    Keeps L s0 (State.frameIn s a2) := by
  unfold State.frameIn
  with_reducible repeat' first | assumption | intro _ | apply keeps_ite | apply State.setPort_keeps | apply keeps_snd_ite | dsimp only | split

theorem execLastBeatArrival_keeps (h : Keeps L s0 s) (a1 : ℕ) (a2 : List Byte) (a3 : Bool) (a4 : List FecUnit) (lr32 : L.r32 = true := by first | assumption | rfl) (lr64 : L.r64 = true := by first | assumption | rfl) (lfree : L.free = true := by first | assumption | rfl) (lmem : L.mem = true := by first | assumption | rfl) (lhost : L.host = true := by first | assumption | rfl) (llink : L.link = true := by first | assumption | rfl) (lsquall : L.squall = true := by first | assumption | rfl) (ltm : L.tm = true := by first | assumption | rfl) (lhalo : L.halo = true := by first | assumption | rfl) (lcirrus : L.cirrus = true := by first | assumption | rfl) (lte : L.te = true := by first | assumption | rfl) (m : within 0x20000000010001094000000070000010005801700800001000003e0000000000822801b80000000000000001082000 L.regs = true := by first | with_reducible assumption | (refine within_trans (by assumption) ?_; exact rfl) | rfl) :
    ∃ t, execLastBeatArrival a1 a2 a3 a4 s = .next t ∧ Keeps L s0 t := by
  unfold execLastBeatArrival
  refine ⟨_, rfl, ?_⟩
  with_reducible repeat' first | assumption | intro _ | apply keeps_ite | exact has_ok m rfl | exact within_trans m rfl | apply State.lastBeat_keeps | apply State.frameIn_keeps | apply State.fecReceive_keeps | apply keeps_snd_ite | dsimp only | split

theorem execPauseFrameReceive_keeps (h : Keeps L s0 s) (a1 : ℕ) (a2 : List Byte) (a3 : Bool) (lr32 : L.r32 = true := by first | assumption | rfl) (lr64 : L.r64 = true := by first | assumption | rfl) (lfree : L.free = true := by first | assumption | rfl) (lmem : L.mem = true := by first | assumption | rfl) (lhost : L.host = true := by first | assumption | rfl) (llink : L.link = true := by first | assumption | rfl) (lsquall : L.squall = true := by first | assumption | rfl) (ltm : L.tm = true := by first | assumption | rfl) (lhalo : L.halo = true := by first | assumption | rfl) (lcirrus : L.cirrus = true := by first | assumption | rfl) (lte : L.te = true := by first | assumption | rfl) (m : within 0x20000000010001094000000000000010005801700800001000003e0000000000822801b80000000000000001082000 L.regs = true := by first | with_reducible assumption | (refine within_trans (by assumption) ?_; exact rfl) | rfl) :
    ∃ t, execPauseFrameReceive a1 a2 a3 s = .next t ∧ Keeps L s0 t := by
  unfold execPauseFrameReceive
  refine ⟨_, rfl, ?_⟩
  with_reducible repeat' first | assumption | intro _ | apply keeps_ite | exact has_ok m rfl | exact within_trans m rfl | apply State.pauseReceive_keeps | apply State.lastBeat_keeps | apply State.each_keeps | apply State.frameIn_keeps | apply State.rxBeat_keeps | apply keeps_snd_ite | dsimp only | split

theorem State.tapAdd_keeps (h : Keeps L s0 s) (a2 : ℕ) (a3 : ℕ) (a4 : ℕ) (a5 : Bool) (lzen : L.zen = true := by first | assumption | rfl) :
    Keeps L s0 (State.tapAdd s a2 a3 a4 a5) := by
  unfold State.tapAdd
  with_reducible repeat' first | assumption | intro _ | apply keeps_ite | apply keeps_snd_ite | dsimp only | split | exact Or.inl (by assumption) | exact Or.inr rfl | refine keeps_mk ?_ rfl rfl ?_ ?_ ?_ ?_ ?_ ?_ ?_ ?_ ?_ ?_ ?_ ?_ ?_ ?_

theorem State.sentBytes_keeps (h : Keeps L s0 s) (a2 : ℕ) (a3 : Staged) (a4 : ℕ) (a5 : ℕ) (lr64 : L.r64 = true := by first | assumption | rfl) (lhalo : L.halo = true := by first | assumption | rfl) (m : within 0x2000000000000000000000000000000000000000000000000000000000000000000000000000000000000 L.regs = true := by first | with_reducible assumption | (refine within_trans (by assumption) ?_; exact rfl) | rfl) :
    Keeps L s0 (State.sentBytes s a2 a3 a4 a5).2 := by
  unfold State.sentBytes
  with_reducible repeat' first | assumption | intro _ | apply keeps_ite | exact has_ok m rfl | exact within_trans m rfl | apply State.ioam_keeps | apply keeps_snd_ite | (refine keeps_of_eq (by assumption) ?_) | dsimp only | split

theorem State.frameSent_keeps (h : Keeps L s0 s) (a2 : ℕ) (a3 : ℕ) (a4 : Staged) (a5 : ℕ) (lr32 : L.r32 = true := by first | assumption | rfl) (lr64 : L.r64 = true := by first | assumption | rfl) (lfree : L.free = true := by first | assumption | rfl) (lmem : L.mem = true := by first | assumption | rfl) (lhost : L.host = true := by first | assumption | rfl) (llink : L.link = true := by first | assumption | rfl) (lsquall : L.squall = true := by first | assumption | rfl) (lhalo : L.halo = true := by first | assumption | rfl) (lzen : L.zen = true := by first | assumption | rfl) (m : within 0x24000f1400000000000000000000000000000000000000000000000822801b80000000000000001082000 L.regs = true := by first | with_reducible assumption | (refine within_trans (by assumption) ?_; exact rfl) | rfl) :
    Keeps L s0 (State.frameSent s a2 a3 a4 a5) := by
  unfold State.frameSent
  with_reducible repeat' first | assumption | intro _ | apply keeps_ite | exact has_ok m rfl | exact within_trans m rfl | apply State.sentBytes_keeps | apply State.when_keeps | apply State.perf_keeps | apply State.sendReport_keeps | apply State.histLat_keeps | apply State.offerEgress_keeps | apply State.frameOut_keeps | apply State.tapAdd_keeps | apply State.complete_keeps | apply keeps_snd_ite | (refine keeps_of_eq (by assumption) ?_) | dsimp only | split

theorem State.txEnd_keeps (h : Keeps L s0 s) (a2 : ℕ) (a3 : ℕ) (lr32 : L.r32 = true := by first | assumption | rfl) (lr64 : L.r64 = true := by first | assumption | rfl) (lfree : L.free = true := by first | assumption | rfl) (lmem : L.mem = true := by first | assumption | rfl) (lhost : L.host = true := by first | assumption | rfl) (llink : L.link = true := by first | assumption | rfl) (lsquall : L.squall = true := by first | assumption | rfl) (ltm : L.tm = true := by first | assumption | rfl) (lhalo : L.halo = true := by first | assumption | rfl) (lzen : L.zen = true := by first | assumption | rfl) (m : within 0x24000f1400000000000000000000000000000000000000000000000822801b80000000000000001082000 L.regs = true := by first | with_reducible assumption | (refine within_trans (by assumption) ?_; exact rfl) | rfl) :
    Keeps L s0 (State.txEnd s a2 a3) := by
  unfold State.txEnd
  with_reducible repeat' first | assumption | intro _ | apply keeps_ite | exact has_ok m rfl | exact within_trans m rfl | apply State.perf_keeps | apply State.frameOut_keeps | apply State.setNp_keeps | apply State.frameSent_keeps | apply keeps_snd_ite | dsimp only | split

theorem execTxFrameEnd_keeps (h : Keeps L s0 s) (a1 : ℕ) (a2 : ℕ) (lr32 : L.r32 = true := by first | assumption | rfl) (lr64 : L.r64 = true := by first | assumption | rfl) (lfree : L.free = true := by first | assumption | rfl) (lmem : L.mem = true := by first | assumption | rfl) (lhost : L.host = true := by first | assumption | rfl) (llink : L.link = true := by first | assumption | rfl) (lsquall : L.squall = true := by first | assumption | rfl) (ltm : L.tm = true := by first | assumption | rfl) (lhalo : L.halo = true := by first | assumption | rfl) (lzen : L.zen = true := by first | assumption | rfl) (m : within 0x24000f1400000000000000000000000000000000000000000000000822801b80000000000000001082000 L.regs = true := by first | with_reducible assumption | (refine within_trans (by assumption) ?_; exact rfl) | rfl) :
    ∃ t, execTxFrameEnd a1 a2 s = .next t ∧ Keeps L s0 t := by
  unfold execTxFrameEnd
  refine ⟨_, rfl, ?_⟩
  with_reducible repeat' first | assumption | intro _ | apply keeps_ite | exact has_ok m rfl | exact within_trans m rfl | apply State.txEnd_keeps | apply keeps_snd_ite | dsimp only | split

end Sys2Proof.Machine
end

