-- ==== Sys2Proof/Laws/KeepsPower.lean ====
section
/-!
SUPPORT. What each operation and each command of `Machine/Power.lean` (power) leaves alone, in the terms of `Laws/Keeps.lean`.
-/

set_option Elab.async false

set_option linter.unusedTactic false
set_option linter.unreachableTactic false
set_option linter.unusedVariables false
namespace Sys2Proof.Machine

variable {L : Touch} {s0 s : State}

theorem State.requestReset_keeps (h : Keeps L s0 s) (a2 : ℕ) (a3 : ℕ) (lboot : L.boot = true := by first | assumption | rfl) :
    Keeps L s0 (State.requestReset s a2 a3) := by
  unfold State.requestReset
  with_reducible repeat' first | assumption | intro _ | apply keeps_ite | apply keeps_snd_ite | dsimp only | split | exact Or.inl (by assumption) | exact Or.inr rfl | refine keeps_mk ?_ rfl rfl ?_ ?_ ?_ ?_ ?_ ?_ ?_ ?_ ?_ ?_ ?_ ?_ ?_ ?_

theorem State.setMv_keeps (h : Keeps L s0 s) (a2 : ℕ) (lr32 : L.r32 = true := by first | assumption | rfl) (m : within 0x1000000000000 L.regs = true := by first | with_reducible assumption | (refine within_trans (by assumption) ?_; exact rfl) | rfl) :
    Keeps L s0 (State.setMv s a2) := by
  unfold State.setMv
  with_reducible repeat' first | assumption | intro _ | apply keeps_ite | exact has_ok m rfl | exact within_trans m rfl | apply State.fset_keeps | apply keeps_snd_ite | dsimp only | split

theorem State.throttle_keeps (h : Keeps L s0 s) (a2 : Bool) (lr32 : L.r32 = true := by first | assumption | rfl) (lr64 : L.r64 = true := by first | assumption | rfl) (lhost : L.host = true := by first | assumption | rfl) (m : within 0x1800000000000008000000000 L.regs = true := by first | with_reducible assumption | (refine within_trans (by assumption) ?_; exact rfl) | rfl) :
    Keeps L s0 (State.throttle s a2) := by
  unfold State.throttle
  with_reducible repeat' first | assumption | intro _ | apply keeps_ite | exact has_ok m rfl | exact within_trans m rfl | apply State.fset_keeps | apply State.post_keeps | apply keeps_snd_ite | dsimp only | split

theorem State.throttleNow_keeps (h : Keeps L s0 s) (lr32 : L.r32 = true := by first | assumption | rfl) (lr64 : L.r64 = true := by first | assumption | rfl) (lhost : L.host = true := by first | assumption | rfl) (m : within 0x1800000000000008000000000 L.regs = true := by first | with_reducible assumption | (refine within_trans (by assumption) ?_; exact rfl) | rfl) :
    Keeps L s0 (State.throttleNow s) := by
  unfold State.throttleNow
  with_reducible repeat' first | assumption | intro _ | apply keeps_ite | exact has_ok m rfl | exact within_trans m rfl | apply State.throttle_keeps | apply keeps_snd_ite | dsimp only | split

theorem State.stepDown_keeps (h : Keeps L s0 s) (a2 : ℕ) (lr32 : L.r32 = true := by first | assumption | rfl) (lr64 : L.r64 = true := by first | assumption | rfl) (lpower : L.power = true := by first | assumption | rfl) (m : within 0x80008000000000 L.regs = true := by first | with_reducible assumption | (refine within_trans (by assumption) ?_; exact rfl) | rfl) :
    Keeps L s0 (State.stepDown s a2) := by
  unfold State.stepDown
  with_reducible repeat' first | assumption | intro _ | apply keeps_ite | exact has_ok m rfl | exact within_trans m rfl | apply State.bump_keeps | apply State.fset_keeps | apply keeps_snd_ite | dsimp only | split | exact Or.inl (by assumption) | exact Or.inr rfl | refine keeps_mk ?_ rfl rfl ?_ ?_ ?_ ?_ ?_ ?_ ?_ ?_ ?_ ?_ ?_ ?_ ?_ ?_

theorem State.stepUp_keeps (h : Keeps L s0 s) (a2 : ℕ) (lr32 : L.r32 = true := by first | assumption | rfl) (lpower : L.power = true := by first | assumption | rfl) (m : within 0x1008000000000 L.regs = true := by first | with_reducible assumption | (refine within_trans (by assumption) ?_; exact rfl) | rfl) :
    Keeps L s0 (State.stepUp s a2) := by
  unfold State.stepUp
  with_reducible repeat' first | assumption | intro _ | apply keeps_ite | exact has_ok m rfl | exact within_trans m rfl | apply State.setMv_keeps | apply State.fset_keeps | apply keeps_snd_ite | dsimp only | split | exact Or.inl (by assumption) | exact Or.inr rfl | refine keeps_mk ?_ rfl rfl ?_ ?_ ?_ ?_ ?_ ?_ ?_ ?_ ?_ ?_ ?_ ?_ ?_ ?_

theorem State.abandonUp_keeps (h : Keeps L s0 s) (lpower : L.power = true := by first | assumption | rfl) :
    Keeps L s0 (State.abandonUp s) := by
  unfold State.abandonUp
  with_reducible repeat' first | assumption | intro _ | apply keeps_ite | apply keeps_snd_ite | dsimp only | split | exact Or.inl (by assumption) | exact Or.inr rfl | refine keeps_mk ?_ rfl rfl ?_ ?_ ?_ ?_ ?_ ?_ ?_ ?_ ?_ ?_ ?_ ?_ ?_ ?_

theorem State.toOp7_keeps (h : Keeps L s0 s) (lr32 : L.r32 = true := by first | assumption | rfl) (lr64 : L.r64 = true := by first | assumption | rfl) (lpower : L.power = true := by first | assumption | rfl) (m : within 0x80008000000000 L.regs = true := by first | with_reducible assumption | (refine within_trans (by assumption) ?_; exact rfl) | rfl) :
    Keeps L s0 (State.toOp7 s) := by
  unfold State.toOp7
  with_reducible repeat' first | assumption | intro _ | apply keeps_ite | exact has_ok m rfl | exact within_trans m rfl | apply State.stepDown_keeps | apply keeps_snd_ite | dsimp only | split

theorem execVoltageReached_keeps (h : Keeps L s0 s) (lpower : L.power = true := by first | assumption | rfl) :
    ∃ t, execVoltageReached s = .next t ∧ Keeps L s0 t := by
  unfold execVoltageReached
  refine ⟨_, rfl, ?_⟩
  with_reducible repeat' first | assumption | intro _ | apply keeps_ite | apply keeps_snd_ite | dsimp only | split | exact Or.inl (by assumption) | exact Or.inr rfl | refine keeps_mk ?_ rfl rfl ?_ ?_ ?_ ?_ ?_ ?_ ?_ ?_ ?_ ?_ ?_ ?_ ?_ ?_

theorem execSettleDone_keeps (h : Keeps L s0 s) (lr32 : L.r32 = true := by first | assumption | rfl) (lr64 : L.r64 = true := by first | assumption | rfl) (lhost : L.host = true := by first | assumption | rfl) (lpower : L.power = true := by first | assumption | rfl) (m : within 0x1800000000080008000000000 L.regs = true := by first | with_reducible assumption | (refine within_trans (by assumption) ?_; exact rfl) | rfl) :
    ∃ t, execSettleDone s = .next t ∧ Keeps L s0 t := by
  unfold execSettleDone
  refine ⟨_, rfl, ?_⟩
  with_reducible repeat' first | assumption | intro _ | apply keeps_ite | exact has_ok m rfl | exact within_trans m rfl | apply State.throttleNow_keeps | apply State.bump_keeps | apply State.fset_keeps | apply keeps_snd_ite | dsimp only | split | exact Or.inl (by assumption) | exact Or.inr rfl | refine keeps_mk ?_ rfl rfl ?_ ?_ ?_ ?_ ?_ ?_ ?_ ?_ ?_ ?_ ?_ ?_ ?_ ?_

theorem execVoltageLowered_keeps (h : Keeps L s0 s) (lr32 : L.r32 = true := by first | assumption | rfl) (m : within 0x1008000000000 L.regs = true := by first | with_reducible assumption | (refine within_trans (by assumption) ?_; exact rfl) | rfl) :
    ∃ t, execVoltageLowered s = .next t ∧ Keeps L s0 t := by
  unfold execVoltageLowered
  refine ⟨_, rfl, ?_⟩
  with_reducible repeat' first | assumption | intro _ | apply keeps_ite | exact has_ok m rfl | exact within_trans m rfl | apply State.fset_keeps | apply State.setMv_keeps | apply keeps_snd_ite | dsimp only | split

theorem State.moveTo_keeps (h : Keeps L s0 s) (a2 : ℕ) (lr32 : L.r32 = true := by first | assumption | rfl) (lr64 : L.r64 = true := by first | assumption | rfl) (lpower : L.power = true := by first | assumption | rfl) (m : within 0x81008000000000 L.regs = true := by first | with_reducible assumption | (refine within_trans (by assumption) ?_; exact rfl) | rfl) :
    Keeps L s0 (State.moveTo s a2) := by
  unfold State.moveTo
  with_reducible repeat' first | assumption | intro _ | apply keeps_ite | exact has_ok m rfl | exact within_trans m rfl | apply State.stepDown_keeps | apply State.when_keeps | apply State.abandonUp_keeps | apply State.stepUp_keeps | apply keeps_snd_ite | dsimp only | split

theorem State.measure_keeps (h : Keeps L s0 s) (a2 : ℕ) (a3 : ℕ) (a4 : ℕ) (a5 : ℕ) (lr32 : L.r32 = true := by first | assumption | rfl) (lr64 : L.r64 = true := by first | assumption | rfl) (lpower : L.power = true := by first | assumption | rfl) (m : within 0x7c0000000000 L.regs = true := by first | with_reducible assumption | (refine within_trans (by assumption) ?_; exact rfl) | rfl) :
    Keeps L s0 (State.measure s a2 a3 a4 a5) := by
  unfold State.measure
  with_reducible repeat' first | assumption | intro _ | apply keeps_ite | exact has_ok m rfl | exact within_trans m rfl | apply State.fset_keeps | apply State.bump_keeps | apply keeps_snd_ite | dsimp only | split | exact Or.inl (by assumption) | exact Or.inr rfl | refine keeps_mk ?_ rfl rfl ?_ ?_ ?_ ?_ ?_ ?_ ?_ ?_ ?_ ?_ ?_ ?_ ?_ ?_

theorem State.raiseUnmet_keeps (h : Keeps L s0 s) (a2 : ℕ) (lr32 : L.r32 = true := by first | assumption | rfl) (lr64 : L.r64 = true := by first | assumption | rfl) (lhost : L.host = true := by first | assumption | rfl) (lpower : L.power = true := by first | assumption | rfl) (m : within 0x1800000000280008000000000 L.regs = true := by first | with_reducible assumption | (refine within_trans (by assumption) ?_; exact rfl) | rfl) :
    Keeps L s0 (State.raiseUnmet s a2) := by
  unfold State.raiseUnmet
  with_reducible repeat' first | assumption | intro _ | apply keeps_ite | exact has_ok m rfl | exact within_trans m rfl | apply State.post_keeps | apply State.bump_keeps | apply State.fset_keeps | apply State.toOp7_keeps | apply keeps_snd_ite | dsimp only | split | exact Or.inl (by assumption) | exact Or.inr rfl | refine keeps_mk ?_ rfl rfl ?_ ?_ ?_ ?_ ?_ ?_ ?_ ?_ ?_ ?_ ?_ ?_ ?_ ?_

theorem State.graceEnd_keeps (h : Keeps L s0 s) (lr32 : L.r32 = true := by first | assumption | rfl) (lr64 : L.r64 = true := by first | assumption | rfl) (lpower : L.power = true := by first | assumption | rfl) (lboot : L.boot = true := by first | assumption | rfl) (lsquall : L.squall = true := by first | assumption | rfl) (m : within 0x1082000 L.regs = true := by first | with_reducible assumption | (refine within_trans (by assumption) ?_; exact rfl) | rfl) :
    Keeps L s0 (State.graceEnd s) := by
  unfold State.graceEnd
  with_reducible repeat' first | assumption | intro _ | apply keeps_ite | exact has_ok m rfl | exact within_trans m rfl | apply State.report_keeps | apply State.requestReset_keeps | apply keeps_snd_ite | dsimp only | split | exact Or.inl (by assumption) | exact Or.inr rfl | refine keeps_mk ?_ rfl rfl ?_ ?_ ?_ ?_ ?_ ?_ ?_ ?_ ?_ ?_ ?_ ?_ ?_ ?_

theorem State.windowEnd_keeps (h : Keeps L s0 s) (a2 : ℕ) (a3 : ℕ) (a4 : ℕ) (a5 : ℕ) (lr32 : L.r32 = true := by first | assumption | rfl) (lr64 : L.r64 = true := by first | assumption | rfl) (lhost : L.host = true := by first | assumption | rfl) (lpower : L.power = true := by first | assumption | rfl) (lboot : L.boot = true := by first | assumption | rfl) (lsquall : L.squall = true := by first | assumption | rfl) (m : within 0x18000000006817c8001082000 L.regs = true := by first | with_reducible assumption | (refine within_trans (by assumption) ?_; exact rfl) | rfl) :
    Keeps L s0 (State.windowEnd s a2 a3 a4 a5) := by
  unfold State.windowEnd
  with_reducible repeat' first | assumption | intro _ | apply keeps_ite | exact has_ok m rfl | exact within_trans m rfl | apply State.measure_keeps | apply State.post_keeps | apply State.fset_keeps | apply State.throttle_keeps | apply State.toOp7_keeps | apply State.raiseUnmet_keeps | apply State.graceEnd_keeps | apply State.moveTo_keeps | apply State.when_keeps | apply State.bump_keeps | apply keeps_snd_ite | dsimp only | split | exact Or.inl (by assumption) | exact Or.inr rfl | refine keeps_mk ?_ rfl rfl ?_ ?_ ?_ ?_ ?_ ?_ ?_ ?_ ?_ ?_ ?_ ?_ ?_ ?_

theorem execPowerWindowEnd_keeps (h : Keeps L s0 s) (a1 : ℕ) (a2 : ℕ) (a3 : ℕ) (a4 : ℕ) (lr32 : L.r32 = true := by first | assumption | rfl) (lr64 : L.r64 = true := by first | assumption | rfl) (lhost : L.host = true := by first | assumption | rfl) (lpower : L.power = true := by first | assumption | rfl) (lboot : L.boot = true := by first | assumption | rfl) (lsquall : L.squall = true := by first | assumption | rfl) (m : within 0x18000000006817c8001082000 L.regs = true := by first | with_reducible assumption | (refine within_trans (by assumption) ?_; exact rfl) | rfl) :
    ∃ t, execPowerWindowEnd a1 a2 a3 a4 s = .next t ∧ Keeps L s0 t := by
  unfold execPowerWindowEnd
  refine ⟨_, rfl, ?_⟩
  with_reducible repeat' first | assumption | intro _ | apply keeps_ite | exact has_ok m rfl | exact within_trans m rfl | apply State.windowEnd_keeps | apply keeps_snd_ite | dsimp only | split

theorem execCapGraceExpire_keeps (h : Keeps L s0 s) (lr32 : L.r32 = true := by first | assumption | rfl) (lr64 : L.r64 = true := by first | assumption | rfl) (lpower : L.power = true := by first | assumption | rfl) (lboot : L.boot = true := by first | assumption | rfl) (lsquall : L.squall = true := by first | assumption | rfl) (m : within 0x1082000 L.regs = true := by first | with_reducible assumption | (refine within_trans (by assumption) ?_; exact rfl) | rfl) :
    ∃ t, execCapGraceExpire s = .next t ∧ Keeps L s0 t := by
  unfold execCapGraceExpire
  refine ⟨_, rfl, ?_⟩
  with_reducible repeat' first | assumption | intro _ | apply keeps_ite | exact has_ok m rfl | exact within_trans m rfl | apply State.graceEnd_keeps | apply keeps_snd_ite | dsimp only | split

theorem execCurrentLimitCrossing_keeps (h : Keeps L s0 s) (a1 : ℕ) (lr32 : L.r32 = true := by first | assumption | rfl) (lr64 : L.r64 = true := by first | assumption | rfl) (lhost : L.host = true := by first | assumption | rfl) (lpower : L.power = true := by first | assumption | rfl) (lsquall : L.squall = true := by first | assumption | rfl) (m : within 0x1800000000180008001082000 L.regs = true := by first | with_reducible assumption | (refine within_trans (by assumption) ?_; exact rfl) | rfl) :
    ∃ t, execCurrentLimitCrossing a1 s = .next t ∧ Keeps L s0 t := by
  unfold execCurrentLimitCrossing
  refine ⟨_, rfl, ?_⟩
  with_reducible repeat' first | assumption | intro _ | apply keeps_ite | exact has_ok m rfl | exact within_trans m rfl | apply State.throttleNow_keeps | apply State.fset_keeps | apply State.toOp7_keeps | apply State.post_keeps | apply State.report_keeps | apply State.bump_keeps | apply keeps_snd_ite | dsimp only | split

theorem execCurrentLimitStage2_keeps (h : Keeps L s0 s) (lboot : L.boot = true := by first | assumption | rfl) :
    ∃ t, execCurrentLimitStage2 s = .next t ∧ Keeps L s0 t := by
  unfold execCurrentLimitStage2
  refine ⟨_, rfl, ?_⟩
  with_reducible repeat' first | assumption | intro _ | apply keeps_ite | apply State.requestReset_keeps | apply keeps_snd_ite | dsimp only | split

theorem execLimitHoldExpire_keeps (h : Keeps L s0 s) (lr32 : L.r32 = true := by first | assumption | rfl) (lr64 : L.r64 = true := by first | assumption | rfl) (lhost : L.host = true := by first | assumption | rfl) (m : within 0x1800000000000008000000000 L.regs = true := by first | with_reducible assumption | (refine within_trans (by assumption) ?_; exact rfl) | rfl) :
    ∃ t, execLimitHoldExpire s = .next t ∧ Keeps L s0 t := by
  unfold execLimitHoldExpire
  refine ⟨_, rfl, ?_⟩
  with_reducible repeat' first | assumption | intro _ | apply keeps_ite | exact has_ok m rfl | exact within_trans m rfl | apply State.throttleNow_keeps | apply State.fset_keeps | apply keeps_snd_ite | dsimp only | split

theorem execStartupHoldExpire_keeps (h : Keeps L s0 s) (lr32 : L.r32 = true := by first | assumption | rfl) (lr64 : L.r64 = true := by first | assumption | rfl) (lhost : L.host = true := by first | assumption | rfl) (m : within 0x1800000000000008000000000 L.regs = true := by first | with_reducible assumption | (refine within_trans (by assumption) ?_; exact rfl) | rfl) :
    ∃ t, execStartupHoldExpire s = .next t ∧ Keeps L s0 t := by
  unfold execStartupHoldExpire
  refine ⟨_, rfl, ?_⟩
  with_reducible repeat' first | assumption | intro _ | apply keeps_ite | exact has_ok m rfl | exact within_trans m rfl | apply State.throttleNow_keeps | apply State.fset_keeps | apply keeps_snd_ite | dsimp only | split

theorem State.loopStart_keeps (h : Keeps L s0 s) (a2 : ℕ) (lr32 : L.r32 = true := by first | assumption | rfl) (lr64 : L.r64 = true := by first | assumption | rfl) (lhost : L.host = true := by first | assumption | rfl) (lpower : L.power = true := by first | assumption | rfl) (m : within 0x1800000000001008000000000 L.regs = true := by first | with_reducible assumption | (refine within_trans (by assumption) ?_; exact rfl) | rfl) :
    Keeps L s0 (State.loopStart s a2) := by
  unfold State.loopStart
  with_reducible repeat' first | assumption | intro _ | apply keeps_ite | exact has_ok m rfl | exact within_trans m rfl | apply State.throttle_keeps | apply State.setMv_keeps | apply State.fset_keeps | apply keeps_snd_ite | dsimp only | split | exact Or.inl (by assumption) | exact Or.inr rfl | refine keeps_mk ?_ rfl rfl ?_ ?_ ?_ ?_ ?_ ?_ ?_ ?_ ?_ ?_ ?_ ?_ ?_ ?_

theorem State.bandUpdate_keeps (h : Keeps L s0 s) (lr32 : L.r32 = true := by first | assumption | rfl) (m : within 0x1000000000000 L.regs = true := by first | with_reducible assumption | (refine within_trans (by assumption) ?_; exact rfl) | rfl) :
    Keeps L s0 (State.bandUpdate s) := by
  unfold State.bandUpdate
  with_reducible repeat' first | assumption | intro _ | apply keeps_ite | exact has_ok m rfl | exact within_trans m rfl | apply State.setMv_keeps | apply State.fset_keeps | apply keeps_snd_ite | dsimp only | split

theorem State.evTherm_keeps (h : Keeps L s0 s) (a2 : ℕ) (lr64 : L.r64 = true := by first | assumption | rfl) (lhost : L.host = true := by first | assumption | rfl) (m : within 0x1800000000000000000000000 L.regs = true := by first | with_reducible assumption | (refine within_trans (by assumption) ?_; exact rfl) | rfl) :
    Keeps L s0 (State.evTherm s a2) := by
  unfold State.evTherm
  with_reducible repeat' first | assumption | intro _ | apply keeps_ite | exact has_ok m rfl | exact within_trans m rfl | apply State.post_keeps | apply keeps_snd_ite | dsimp only | split

theorem State.thermal_keeps (h : Keeps L s0 s) (lr32 : L.r32 = true := by first | assumption | rfl) (lr64 : L.r64 = true := by first | assumption | rfl) (lhost : L.host = true := by first | assumption | rfl) (lpower : L.power = true := by first | assumption | rfl) (lsquall : L.squall = true := by first | assumption | rfl) (m : within 0x1800000000004008001082000 L.regs = true := by first | with_reducible assumption | (refine within_trans (by assumption) ?_; exact rfl) | rfl) :
    Keeps L s0 (State.thermal s) := by
  unfold State.thermal
  with_reducible repeat' first | assumption | intro _ | apply keeps_ite | exact has_ok m rfl | exact within_trans m rfl | apply State.evTherm_keeps | apply State.fset_keeps | apply State.report_keeps | apply State.throttleNow_keeps | apply keeps_snd_ite | dsimp only | split | exact Or.inl (by assumption) | exact Or.inr rfl | refine keeps_mk ?_ rfl rfl ?_ ?_ ?_ ?_ ?_ ?_ ?_ ?_ ?_ ?_ ?_ ?_ ?_ ?_

theorem execSensorRead_keeps (h : Keeps L s0 s) (a1 : ℕ) (a2 : ℕ) (lr32 : L.r32 = true := by first | assumption | rfl) (lr64 : L.r64 = true := by first | assumption | rfl) (lhost : L.host = true := by first | assumption | rfl) (lpower : L.power = true := by first | assumption | rfl) (lsquall : L.squall = true := by first | assumption | rfl) (m : within 0x1800000002005008001082000 L.regs = true := by first | with_reducible assumption | (refine within_trans (by assumption) ?_; exact rfl) | rfl) :
    ∃ t, execSensorRead a1 a2 s = .next t ∧ Keeps L s0 t := by
  unfold execSensorRead
  refine ⟨_, rfl, ?_⟩
  with_reducible repeat' first | assumption | intro _ | apply keeps_ite | exact has_ok m rfl | exact within_trans m rfl | apply State.fset_keeps | apply State.thermal_keeps | apply State.bandUpdate_keeps | apply keeps_snd_ite | dsimp only | split | exact Or.inl (by assumption) | exact Or.inr rfl | refine keeps_mk ?_ rfl rfl ?_ ?_ ?_ ?_ ?_ ?_ ?_ ?_ ?_ ?_ ?_ ?_ ?_ ?_

theorem execThermalTrip_keeps (h : Keeps L s0 s) (a1 : ℕ) (lr32 : L.r32 = true := by first | assumption | rfl) (lr64 : L.r64 = true := by first | assumption | rfl) (lhost : L.host = true := by first | assumption | rfl) (lpower : L.power = true := by first | assumption | rfl) (lsquall : L.squall = true := by first | assumption | rfl) (m : within 0x1800000000084008001082000 L.regs = true := by first | with_reducible assumption | (refine within_trans (by assumption) ?_; exact rfl) | rfl) :
    ∃ t, execThermalTrip a1 s = .next t ∧ Keeps L s0 t := by
  unfold execThermalTrip
  refine ⟨_, rfl, ?_⟩
  with_reducible repeat' first | assumption | intro _ | apply keeps_ite | exact has_ok m rfl | exact within_trans m rfl | apply State.toOp7_keeps | apply State.report_keeps | apply State.throttleNow_keeps | apply State.fset_keeps | apply keeps_snd_ite | dsimp only | split | exact Or.inl (by assumption) | exact Or.inr rfl | refine keeps_mk ?_ rfl rfl ?_ ?_ ?_ ?_ ?_ ?_ ?_ ?_ ?_ ?_ ?_ ?_ ?_ ?_

theorem State.socStart_keeps (h : Keeps L s0 s) (lr32 : L.r32 = true := by first | assumption | rfl) (m : within 0x10000000000000 L.regs = true := by first | with_reducible assumption | (refine within_trans (by assumption) ?_; exact rfl) | rfl) :
    Keeps L s0 (State.socStart s) := by
  unfold State.socStart
  with_reducible repeat' first | assumption | intro _ | apply keeps_ite | exact has_ok m rfl | exact within_trans m rfl | apply State.fset_keeps | apply keeps_snd_ite | dsimp only | split

theorem execSocConversionDone_keeps (h : Keeps L s0 s) (a1 : ℕ) (a2 : ℕ) (lr32 : L.r32 = true := by first | assumption | rfl) (m : within 0x70000000000000 L.regs = true := by first | with_reducible assumption | (refine within_trans (by assumption) ?_; exact rfl) | rfl) :
    ∃ t, execSocConversionDone a1 a2 s = .next t ∧ Keeps L s0 t := by
  unfold execSocConversionDone
  refine ⟨_, rfl, ?_⟩
  with_reducible repeat' first | assumption | intro _ | apply keeps_ite | exact has_ok m rfl | exact within_trans m rfl | apply State.fset_keeps | apply keeps_snd_ite | dsimp only | split

theorem execAnvilPowerUpDone_keeps (h : Keeps L s0 s) (lr32 : L.r32 = true := by first | assumption | rfl) (ltm : L.tm = true := by first | assumption | rfl) (m : within 0x2800000000000000000000000000000000000000000000000000000000000000000000000000 L.regs = true := by first | with_reducible assumption | (refine within_trans (by assumption) ?_; exact rfl) | rfl) :
    ∃ t, execAnvilPowerUpDone s = .next t ∧ Keeps L s0 t := by
  unfold execAnvilPowerUpDone
  refine ⟨_, rfl, ?_⟩
  with_reducible repeat' first | assumption | intro _ | apply keeps_ite | exact has_ok m rfl | exact within_trans m rfl | apply State.anvilTrained_keeps | apply keeps_snd_ite | dsimp only | split

theorem State.anvilCtlWrite_keeps (h : Keeps L s0 s) (a2 : Word) (lr32 : L.r32 = true := by first | assumption | rfl) (lr64 : L.r64 = true := by first | assumption | rfl) (lhost : L.host = true := by first | assumption | rfl) (lpower : L.power = true := by first | assumption | rfl) (ltm : L.tm = true := by first | assumption | rfl) (m : within 0xc00000000000000000000000000000000000000000000000001800000000000008000000000 L.regs = true := by first | with_reducible assumption | (refine within_trans (by assumption) ?_; exact rfl) | rfl) :
    Keeps L s0 (State.anvilCtlWrite s a2) := by
  unfold State.anvilCtlWrite
  with_reducible repeat' first | assumption | intro _ | apply keeps_ite | exact has_ok m rfl | exact within_trans m rfl | apply State.anvilStart_keeps | apply State.anvilStop_keeps | apply keeps_snd_ite | dsimp only | split

theorem execAnvilEnClear_keeps (h : Keeps L s0 s) (lr32 : L.r32 = true := by first | assumption | rfl) (lr64 : L.r64 = true := by first | assumption | rfl) (lhost : L.host = true := by first | assumption | rfl) (lpower : L.power = true := by first | assumption | rfl) (ltm : L.tm = true := by first | assumption | rfl) (m : within 0xc00000000000000000000000000000000000000000000000001800000000000008000000000 L.regs = true := by first | with_reducible assumption | (refine within_trans (by assumption) ?_; exact rfl) | rfl) :
    ∃ t, execAnvilEnClear s = .next t ∧ Keeps L s0 t := by
  unfold execAnvilEnClear
  refine ⟨_, rfl, ?_⟩
  with_reducible repeat' first | assumption | intro _ | apply keeps_ite | exact has_ok m rfl | exact within_trans m rfl | apply State.anvilCtlWrite_keeps | apply keeps_snd_ite | dsimp only | split

theorem execAnvilEnSet_keeps (h : Keeps L s0 s) (lr32 : L.r32 = true := by first | assumption | rfl) (lr64 : L.r64 = true := by first | assumption | rfl) (lhost : L.host = true := by first | assumption | rfl) (lpower : L.power = true := by first | assumption | rfl) (ltm : L.tm = true := by first | assumption | rfl) (m : within 0xc00000000000000000000000000000000000000000000000001800000000000008000000000 L.regs = true := by first | with_reducible assumption | (refine within_trans (by assumption) ?_; exact rfl) | rfl) :
    ∃ t, execAnvilEnSet s = .next t ∧ Keeps L s0 t := by
  unfold execAnvilEnSet
  refine ⟨_, rfl, ?_⟩
  with_reducible repeat' first | assumption | intro _ | apply keeps_ite | exact has_ok m rfl | exact within_trans m rfl | apply State.anvilCtlWrite_keeps | apply keeps_snd_ite | dsimp only | split

theorem State.pwrCfgWrite_keeps (h : Keeps L s0 s) (a2 : Word) (lr32 : L.r32 = true := by first | assumption | rfl) (lr64 : L.r64 = true := by first | assumption | rfl) (lhost : L.host = true := by first | assumption | rfl) (lpower : L.power = true := by first | assumption | rfl) (m : within 0x800000000000000000000000000000000000000000000000001800000000000018000000000 L.regs = true := by first | with_reducible assumption | (refine within_trans (by assumption) ?_; exact rfl) | rfl) :
    Keeps L s0 (State.pwrCfgWrite s a2) := by
  unfold State.pwrCfgWrite
  with_reducible repeat' first | assumption | intro _ | apply keeps_ite | exact has_ok m rfl | exact within_trans m rfl | apply State.anvilOff_keeps | apply State.throttleNow_keeps | apply State.wr_keeps | apply keeps_snd_ite | dsimp only | split

theorem State.showHours_keeps (h : Keeps L s0 s) (lr32 : L.r32 = true := by first | assumption | rfl) (m : within 0x1800000000000 L.regs = true := by first | with_reducible assumption | (refine within_trans (by assumption) ?_; exact rfl) | rfl) :
    Keeps L s0 (State.showHours s) := by
  unfold State.showHours
  with_reducible repeat' first | assumption | intro _ | apply keeps_ite | exact has_ok m rfl | exact within_trans m rfl | apply State.wr_keeps | apply State.setMv_keeps | apply State.fset_keeps | apply keeps_snd_ite | dsimp only | split

theorem execPoweredMinute_keeps (h : Keeps L s0 s) (a1 : Bool) (lr32 : L.r32 = true := by first | assumption | rfl) (lpower : L.power = true := by first | assumption | rfl) (lboot : L.boot = true := by first | assumption | rfl) (m : within 0x1800000000000 L.regs = true := by first | with_reducible assumption | (refine within_trans (by assumption) ?_; exact rfl) | rfl) :
    ∃ t, execPoweredMinute a1 s = .next t ∧ Keeps L s0 t := by
  unfold execPoweredMinute
  refine ⟨_, rfl, ?_⟩
  with_reducible repeat' first | assumption | intro _ | apply keeps_ite | exact has_ok m rfl | exact within_trans m rfl | apply State.showHours_keeps | apply keeps_snd_ite | dsimp only | split | exact Or.inl (by assumption) | exact Or.inr rfl | refine keeps_mk ?_ rfl rfl ?_ ?_ ?_ ?_ ?_ ?_ ?_ ?_ ?_ ?_ ?_ ?_ ?_ ?_

end Sys2Proof.Machine
end

