-- ==== Sys2Proof/Laws/KeepsRings.lean ====
section
/-!
SUPPORT. What each operation and each command of `Machine/Rings.lean` (the ring commands) leaves alone, in the terms of `Laws/Keeps.lean`.
-/

set_option Elab.async false

set_option linter.unusedTactic false
set_option linter.unreachableTactic false
set_option linter.unusedVariables false
namespace Sys2Proof.Machine

variable {L : Touch} {s0 s : State}

theorem State.startEntry_keeps (h : Keeps L s0 s) (a2 : ℕ) (a3 : ℕ) (a4 : List Byte) (lr32 : L.r32 = true := by first | assumption | rfl) (lr64 : L.r64 = true := by first | assumption | rfl) (lhost : L.host = true := by first | assumption | rfl) (m : within 0x8801800000000000000000000000 L.regs = true := by first | with_reducible assumption | (refine within_trans (by assumption) ?_; exact rfl) | rfl) :
    Keeps L s0 (State.startEntry s a2 a3 a4) := by
  unfold State.startEntry
  with_reducible repeat' first | assumption | intro _ | apply keeps_ite | exact has_ok m rfl | exact within_trans m rfl | apply State.reserve_keeps | apply State.putRing_keeps | apply keeps_snd_ite | dsimp only | split

theorem State.startTx_keeps (h : Keeps L s0 s) (a2 : ℕ) (a3 : ℕ) (a4 : List Byte) (lr32 : L.r32 = true := by first | assumption | rfl) (lr64 : L.r64 = true := by first | assumption | rfl) (lhost : L.host = true := by first | assumption | rfl) (lsquall : L.squall = true := by first | assumption | rfl) (m : within 0x809801b80000000000000001082000 L.regs = true := by first | with_reducible assumption | (refine within_trans (by assumption) ?_; exact rfl) | rfl) :
    Keeps L s0 (State.startTx s a2 a3 a4) := by
  unfold State.startTx
  with_reducible repeat' first | assumption | intro _ | apply keeps_ite | exact has_ok m rfl | exact within_trans m rfl | apply State.ringError_keeps | apply State.violation_keeps | apply State.startEntry_keeps | apply keeps_snd_ite | dsimp only | split

theorem State.startTable_keeps (h : Keeps L s0 s) (a2 : ℕ) (a3 : ℕ) (a4 : List Byte) (a5 : List Byte) (lr32 : L.r32 = true := by first | assumption | rfl) (lr64 : L.r64 = true := by first | assumption | rfl) (lhost : L.host = true := by first | assumption | rfl) (lsquall : L.squall = true := by first | assumption | rfl) (lte : L.te = true := by first | assumption | rfl) (m : within 0x809801b80000000000000001082000 L.regs = true := by first | with_reducible assumption | (refine within_trans (by assumption) ?_; exact rfl) | rfl) :
    Keeps L s0 (State.startTable s a2 a3 a4 a5) := by
  unfold State.startTable
  with_reducible repeat' first | assumption | intro _ | apply keeps_ite | exact has_ok m rfl | exact within_trans m rfl | apply State.ringError_keeps | apply State.violation_keeps | apply State.teAccept_keeps | apply State.startEntry_keeps | apply keeps_snd_ite | dsimp only | split

theorem State.startProg_keeps (h : Keeps L s0 s) (a2 : ℕ) (a3 : ℕ) (a4 : List Byte) (lr32 : L.r32 = true := by first | assumption | rfl) (lr64 : L.r64 = true := by first | assumption | rfl) (lmem : L.mem = true := by first | assumption | rfl) (lhost : L.host = true := by first | assumption | rfl) (ldma : L.dma = true := by first | assumption | rfl) (lsquall : L.squall = true := by first | assumption | rfl) (m : within 0x21823801b80000000000000001082000 L.regs = true := by first | with_reducible assumption | (refine within_trans (by assumption) ?_; exact rfl) | rfl) :
    Keeps L s0 (State.startProg s a2 a3 a4) := by
  unfold State.startProg
  with_reducible repeat' first | assumption | intro _ | apply keeps_ite | exact has_ok m rfl | exact within_trans m rfl | apply State.ringError_keeps | apply State.finishEntry_keeps | apply State.chRun_keeps | apply State.putRing_keeps | apply keeps_snd_ite | dsimp only | split

theorem execDescriptorStart_keeps (h : Keeps L s0 s) (a1 : ℕ) (a2 : List Byte) (lr32 : L.r32 = true := by first | assumption | rfl) (lr64 : L.r64 = true := by first | assumption | rfl) (lmem : L.mem = true := by first | assumption | rfl) (lhost : L.host = true := by first | assumption | rfl) (ldma : L.dma = true := by first | assumption | rfl) (lsquall : L.squall = true := by first | assumption | rfl) (lte : L.te = true := by first | assumption | rfl) (m : within 0x2182b801b80000000000000001082000 L.regs = true := by first | with_reducible assumption | (refine within_trans (by assumption) ?_; exact rfl) | rfl) :
    ∃ t, execDescriptorStart a1 a2 s = .next t ∧ Keeps L s0 t := by
  unfold execDescriptorStart
  refine ⟨_, rfl, ?_⟩
  with_reducible repeat' first | assumption | intro _ | apply keeps_ite | exact has_ok m rfl | exact within_trans m rfl | apply State.ringError_keeps | apply State.startTx_keeps | apply State.startTable_keeps | apply State.startProg_keeps | apply keeps_snd_ite | dsimp only | split

theorem State.rxWhole_keeps (h : Keeps L s0 s) (a2 a3 : ℕ) (a4 : List Byte) (a5 : ℕ) (lr32 : L.r32 = true := by first | assumption | rfl) (lr64 : L.r64 = true := by first | assumption | rfl) (lfree : L.free = true := by first | assumption | rfl) (lmem : L.mem = true := by first | assumption | rfl) (lhost : L.host = true := by first | assumption | rfl) (lsquall : L.squall = true := by first | assumption | rfl) (ltm : L.tm = true := by first | assumption | rfl) (lcirrus : L.cirrus = true := by first | assumption | rfl) (m : within 0x1400000000000001000580170080000000000000000000000822801b80000000000000001082000 L.regs = true := by first | with_reducible assumption | (refine within_trans (by assumption) ?_; exact rfl) | rfl) : Keeps L s0 (State.rxWhole s a2 a3 a4 a5) := by
  induction a5 generalizing s a4 with
  | zero => exact h
  | succ n ih =>
    unfold State.rxWhole
    split
    · exact h
    · exact ih (State.rxBytes_keeps h _ _ _) _

theorem State.newFrame_keeps (h : Keeps L s0 s) (a2 : ℕ) (a3 : Frame) (ltm : L.tm = true := by first | assumption | rfl) :
    Keeps L s0 (State.newFrame s a2 a3).2 := by
  unfold State.newFrame
  with_reducible repeat' first | assumption | intro _ | apply keeps_ite | apply State.setFrame_keeps | apply State.setBuf_keeps | apply keeps_snd_ite | dsimp only | split

theorem State.txDirect_keeps (h : Keeps L s0 s) (a2 : ℕ) (a3 : ℕ) (a4 : List Byte) (a5 : List Byte) (lr32 : L.r32 = true := by first | assumption | rfl) (lr64 : L.r64 = true := by first | assumption | rfl) (lfree : L.free = true := by first | assumption | rfl) (lmem : L.mem = true := by first | assumption | rfl) (lhost : L.host = true := by first | assumption | rfl) (lsquall : L.squall = true := by first | assumption | rfl) (ltm : L.tm = true := by first | assumption | rfl) (lcirrus : L.cirrus = true := by first | assumption | rfl) (m : within 0x1400000000000001000580370080000000000000000000000822801b80000000000000001082000 L.regs = true := by first | with_reducible assumption | (refine within_trans (by assumption) ?_; exact rfl) | rfl) :
    Keeps L s0 (State.txDirect s a2 a3 a4 a5) := by
  unfold State.txDirect
  with_reducible repeat' first | assumption | intro _ | apply keeps_ite | exact has_ok m rfl | exact within_trans m rfl | apply State.draw_keeps | apply State.discard_keeps | apply State.newFrame_keeps | apply State.rxWhole_keeps | apply State.sweep_keeps | apply State.linkUnicast_keeps | apply keeps_snd_ite | (refine keeps_of_eq (by assumption) ?_) | dsimp only | split

theorem State.txInject_keeps (h : Keeps L s0 s) (a2 : ℕ) (a3 : ℕ) (a4 : List Byte) (a5 : List Byte) (lr32 : L.r32 = true := by first | assumption | rfl) (lr64 : L.r64 = true := by first | assumption | rfl) (lfree : L.free = true := by first | assumption | rfl) (lmem : L.mem = true := by first | assumption | rfl) (lhost : L.host = true := by first | assumption | rfl) (lsquall : L.squall = true := by first | assumption | rfl) (ltm : L.tm = true := by first | assumption | rfl) (lhalo : L.halo = true := by first | assumption | rfl) (lcirrus : L.cirrus = true := by first | assumption | rfl) (lte : L.te = true := by first | assumption | rfl) (m : within 0x20000000010001094000000000000010005801700800001000003e0000000000822801b80000000000000001082000 L.regs = true := by first | with_reducible assumption | (refine within_trans (by assumption) ?_; exact rfl) | rfl) :
    Keeps L s0 (State.txInject s a2 a3 a4 a5) := by
  unfold State.txInject
  with_reducible repeat' first | assumption | intro _ | apply keeps_ite | exact has_ok m rfl | exact within_trans m rfl | apply State.complete_keeps | apply State.draw_keeps | apply State.dropCount_keeps | apply State.newFrame_keeps | apply State.rxWhole_keeps | apply State.frameWhole_keeps | apply keeps_snd_ite | (refine keeps_of_eq (by assumption) ?_) | dsimp only | split

theorem execTxBufferReadDone_keeps (h : Keeps L s0 s) (a1 : ℕ) (a2 : List Byte) (a3 : Bool) (lr32 : L.r32 = true := by first | assumption | rfl) (lr64 : L.r64 = true := by first | assumption | rfl) (lfree : L.free = true := by first | assumption | rfl) (lmem : L.mem = true := by first | assumption | rfl) (lhost : L.host = true := by first | assumption | rfl) (lsquall : L.squall = true := by first | assumption | rfl) (ltm : L.tm = true := by first | assumption | rfl) (lhalo : L.halo = true := by first | assumption | rfl) (lcirrus : L.cirrus = true := by first | assumption | rfl) (lte : L.te = true := by first | assumption | rfl) (m : within 0x20000000010001094000000000000010005803700800001000003e0000000000823801b80000000000000001082000 L.regs = true := by first | with_reducible assumption | (refine within_trans (by assumption) ?_; exact rfl) | rfl) :
    ∃ t, execTxBufferReadDone a1 a2 a3 s = .next t ∧ Keeps L s0 t := by
  unfold execTxBufferReadDone
  refine ⟨_, rfl, ?_⟩
  with_reducible repeat' first | assumption | intro _ | apply keeps_ite | exact has_ok m rfl | exact within_trans m rfl | apply State.ringError_keeps | apply State.fset_keeps | apply State.setRing_keeps | apply State.txDirect_keeps | apply State.txInject_keeps | apply keeps_snd_ite | dsimp only | split

theorem State.nextRec_keeps (h : Keeps L s0 s) (a2 : ℕ) {a : List Byte} {t : State} (e : State.nextRec s a2 = some (a, t)) (lhalo : L.halo = true := by first | assumption | rfl) :
    Keeps L s0 t := by
  unfold State.nextRec at e
  obtain ⟨g, -, hg⟩ := List.exists_of_findSome?_eq_some e
  dsimp only at hg
  split at hg
  · cases hg; exact State.setHt_keeps h _ _
  · obtain ⟨x, -, hx⟩ := Option.map_eq_some_iff.1 hg
    cases hx; exact State.setHt_keeps h _ _

theorem State.telemClose_keeps (h : Keeps L s0 s) (a2 : ℕ) (lr32 : L.r32 = true := by first | assumption | rfl) (lr64 : L.r64 = true := by first | assumption | rfl) (lmem : L.mem = true := by first | assumption | rfl) (lhost : L.host = true := by first | assumption | rfl) (lsquall : L.squall = true := by first | assumption | rfl) (m : within 0x822801b80000000000000001082000 L.regs = true := by first | with_reducible assumption | (refine within_trans (by assumption) ?_; exact rfl) | rfl) :
    Keeps L s0 (State.telemClose s a2) := by
  unfold State.telemClose
  with_reducible repeat' first | assumption | intro _ | apply keeps_ite | exact has_ok m rfl | exact within_trans m rfl | apply State.finishEntry_keeps | apply State.setRing_keeps | apply keeps_snd_ite | dsimp only | split

theorem State.telemOpen_keeps (h : Keeps L s0 s) (a2 : ℕ) (lr32 : L.r32 = true := by first | assumption | rfl) (lr64 : L.r64 = true := by first | assumption | rfl) (lhost : L.host = true := by first | assumption | rfl) (lsquall : L.squall = true := by first | assumption | rfl) (m : within 0x801801b80000000000000001082000 L.regs = true := by first | with_reducible assumption | (refine within_trans (by assumption) ?_; exact rfl) | rfl) :
    Keeps L s0 (State.telemOpen s a2) := by
  unfold State.telemOpen
  with_reducible repeat' first | assumption | intro _ | apply keeps_ite | exact has_ok m rfl | exact within_trans m rfl | apply State.takeEntry_keeps | apply State.ringError_keeps | apply State.violation_keeps | apply State.setRing_keeps | apply keeps_snd_ite | (refine keeps_of_eq (by assumption) ?_) | dsimp only | split

theorem State.telemPack_keeps (h : Keeps L s0 s) (a2 : ℕ) (a3 : List Byte) (lr32 : L.r32 = true := by first | assumption | rfl) (lr64 : L.r64 = true := by first | assumption | rfl) (lmem : L.mem = true := by first | assumption | rfl) (lhost : L.host = true := by first | assumption | rfl) (lsquall : L.squall = true := by first | assumption | rfl) (m : within 0x823801b80000000000000001082000 L.regs = true := by first | with_reducible assumption | (refine within_trans (by assumption) ?_; exact rfl) | rfl) :
    Keeps L s0 (State.telemPack s a2 a3).2 := by
  unfold State.telemPack
  with_reducible repeat' first | assumption | intro _ | apply keeps_ite | exact has_ok m rfl | exact within_trans m rfl | apply State.telemClose_keeps | apply State.telemOpen_keeps | apply State.setRing_keeps | apply State.hostPut_keeps | apply keeps_snd_ite | dsimp only | split

theorem execTelemRecordWrite_keeps (h : Keeps L s0 s) (a1 : ℕ) (lr32 : L.r32 = true := by first | assumption | rfl) (lr64 : L.r64 = true := by first | assumption | rfl) (lmem : L.mem = true := by first | assumption | rfl) (lhost : L.host = true := by first | assumption | rfl) (lsquall : L.squall = true := by first | assumption | rfl) (lhalo : L.halo = true := by first | assumption | rfl) (m : within 0x823801b80000000000000001082000 L.regs = true := by first | with_reducible assumption | (refine within_trans (by assumption) ?_; exact rfl) | rfl) :
    ∃ t, execTelemRecordWrite a1 s = .next t ∧ Keeps L s0 t := by
  unfold execTelemRecordWrite
  refine ⟨_, rfl, ?_⟩
  with_reducible repeat' first | assumption | intro _ | apply keeps_ite | exact has_ok m rfl | exact within_trans m rfl | apply State.telemPack_keeps | apply keeps_snd_ite | (refine State.nextRec_keeps ?_ _ (by assumption)) | (refine keeps_of_eq (by assumption) ?_) | dsimp only | split

theorem execTelemBufferClose_keeps (h : Keeps L s0 s) (a1 : ℕ) (lr32 : L.r32 = true := by first | assumption | rfl) (lr64 : L.r64 = true := by first | assumption | rfl) (lmem : L.mem = true := by first | assumption | rfl) (lhost : L.host = true := by first | assumption | rfl) (lsquall : L.squall = true := by first | assumption | rfl) (m : within 0x822801b80000000000000001082000 L.regs = true := by first | with_reducible assumption | (refine within_trans (by assumption) ?_; exact rfl) | rfl) :
    ∃ t, execTelemBufferClose a1 s = .next t ∧ Keeps L s0 t := by
  unfold execTelemBufferClose
  refine ⟨_, rfl, ?_⟩
  with_reducible repeat' first | assumption | intro _ | apply keeps_ite | exact has_ok m rfl | exact within_trans m rfl | apply State.telemClose_keeps | apply keeps_snd_ite | dsimp only | split

theorem State.flrEngine_keeps (h : Keeps L s0 s) (a2 : ℕ) (lte : L.te = true := by first | assumption | rfl) :
    Keeps L s0 (State.flrEngine s a2) := by
  unfold State.flrEngine
  with_reducible repeat' first | assumption | intro _ | apply keeps_ite | apply keeps_snd_ite | dsimp only | split | exact Or.inl (by assumption) | exact Or.inr rfl | refine keeps_mk ?_ rfl rfl ?_ ?_ ?_ ?_ ?_ ?_ ?_ ?_ ?_ ?_ ?_ ?_ ?_ ?_

theorem State.flr_keeps (h : Keeps L s0 s) (a2 : ℕ) (lr32 : L.r32 = true := by first | assumption | rfl) (lhost : L.host = true := by first | assumption | rfl) (ldma : L.dma = true := by first | assumption | rfl) (lte : L.te = true := by first | assumption | rfl) (m : within 0x800000000000000000000000000000000000000000000000000000030837a00080000000000000000000000 L.regs = true := by first | with_reducible assumption | (refine within_trans (by assumption) ?_; exact rfl) | rfl) :
    Keeps L s0 (State.flr s a2) := by
  unfold State.flr
  with_reducible repeat' first | assumption | intro _ | apply keeps_ite | exact has_ok m rfl | exact within_trans m rfl | apply State.clearMsix_keeps | apply State.flrRings_keeps | apply State.flrEngine_keeps | apply State.fset_keeps | apply forN_keeps | apply keeps_snd_ite | dsimp only | split

theorem execFunctionLevelReset_keeps (h : Keeps L s0 s) (a1 : ℕ) (lr32 : L.r32 = true := by first | assumption | rfl) (lhost : L.host = true := by first | assumption | rfl) (ldma : L.dma = true := by first | assumption | rfl) (lte : L.te = true := by first | assumption | rfl) (m : within 0x800000000000000000000000000000000000000000000000000000030837a00080000000000000000000000 L.regs = true := by first | with_reducible assumption | (refine within_trans (by assumption) ?_; exact rfl) | rfl) :
    ∃ t, execFunctionLevelReset a1 s = .next t ∧ Keeps L s0 t := by
  unfold execFunctionLevelReset
  refine ⟨_, rfl, ?_⟩
  with_reducible repeat' first | assumption | intro _ | apply keeps_ite | exact has_ok m rfl | exact within_trans m rfl | apply State.flr_keeps | apply keeps_snd_ite | dsimp only | split

end Sys2Proof.Machine
end

