-- ==== Sys2Proof/Laws/KeepsBennidan.lean ====
section
/-!
SUPPORT. What each operation and each command of `Machine/Bennidan.lean` (Bennidan) leaves alone, in the terms of `Laws/Keeps.lean`.
-/

set_option Elab.async false

set_option linter.unusedTactic false
set_option linter.unreachableTactic false
set_option linter.unusedVariables false
namespace Sys2Proof.Machine

variable {L : Touch} {s0 s : State}

theorem State.setOut_keeps (h : Keeps L s0 s) (a2 : List Byte) (lr32 : L.r32 = true := by first | assumption | rfl) (m : within 0x1002000000000000000000000000000000000 L.regs = true := by first | with_reducible assumption | (refine within_trans (by assumption) ?_; exact rfl) | rfl) :
    Keeps L s0 (State.setOut s a2) := by
  unfold State.setOut
  with_reducible repeat' first | assumption | intro _ | apply keeps_ite | exact has_ok m rfl | exact within_trans m rfl | apply State.fset_keeps | apply State.wr_keeps | apply forN_keeps | apply keeps_snd_ite | dsimp only | split

theorem State.bnRun_keeps (h : Keeps L s0 s) (a2 : BnRun) (lr32 : L.r32 = true := by first | assumption | rfl) (ltrust : L.trust = true := by first | assumption | rfl) (m : within 0x400000000000000000000000000000000 L.regs = true := by first | with_reducible assumption | (refine within_trans (by assumption) ?_; exact rfl) | rfl) :
    Keeps L s0 (State.bnRun s a2) := by
  unfold State.bnRun
  with_reducible repeat' first | assumption | intro _ | apply keeps_ite | exact has_ok m rfl | exact within_trans m rfl | apply State.fset_keeps | apply keeps_snd_ite | dsimp only | split | exact Or.inl (by assumption) | exact Or.inr rfl | refine keeps_mk ?_ rfl rfl ?_ ?_ ?_ ?_ ?_ ?_ ?_ ?_ ?_ ?_ ?_ ?_ ?_ ?_

theorem State.bnStart_keeps (h : Keeps L s0 s) (a2 : ℕ) {a3 : State → State} (ha3 : ∀ s, Keeps L s0 s → Keeps L s0 (a3 s)) (lr32 : L.r32 = true := by first | assumption | rfl) (lr64 : L.r64 = true := by first | assumption | rfl) (ltrust : L.trust = true := by first | assumption | rfl) (m : within 0x8400000000000000000000000000000000 L.regs = true := by first | with_reducible assumption | (refine within_trans (by assumption) ?_; exact rfl) | rfl) :
    Keeps L s0 (State.bnStart s a2 a3) := by
  unfold State.bnStart
  with_reducible repeat' first | assumption | intro _ | apply keeps_ite | exact has_ok m rfl | exact within_trans m rfl | apply ha3 | apply State.bump_keeps | apply State.bnRun_keeps | apply keeps_snd_ite | dsimp only | split

theorem State.bnQuote_keeps (h : Keeps L s0 s) (lr32 : L.r32 = true := by first | assumption | rfl) (ltrust : L.trust = true := by first | assumption | rfl) (m : within 0x400000000000000000000000000000000 L.regs = true := by first | with_reducible assumption | (refine within_trans (by assumption) ?_; exact rfl) | rfl) :
    Keeps L s0 (State.bnQuote s) := by
  unfold State.bnQuote
  with_reducible repeat' first | assumption | intro _ | apply keeps_ite | exact has_ok m rfl | exact within_trans m rfl | apply State.bnRun_keeps | apply keeps_snd_ite | dsimp only | split

theorem State.bnExtend_keeps (h : Keeps L s0 s) (lr32 : L.r32 = true := by first | assumption | rfl) (ltrust : L.trust = true := by first | assumption | rfl) (m : within 0x400000000000000000000000000000000 L.regs = true := by first | with_reducible assumption | (refine within_trans (by assumption) ?_; exact rfl) | rfl) :
    Keeps L s0 (State.bnExtend s) := by
  unfold State.bnExtend
  with_reducible repeat' first | assumption | intro _ | apply keeps_ite | exact has_ok m rfl | exact within_trans m rfl | apply State.bnRun_keeps | apply keeps_snd_ite | dsimp only | split

theorem State.bnEnroll_keeps (h : Keeps L s0 s) (lr32 : L.r32 = true := by first | assumption | rfl) (ltrust : L.trust = true := by first | assumption | rfl) (m : within 0x80400000000000000000000000000000000 L.regs = true := by first | with_reducible assumption | (refine within_trans (by assumption) ?_; exact rfl) | rfl) :
    Keeps L s0 (State.bnEnroll s) := by
  unfold State.bnEnroll
  with_reducible repeat' first | assumption | intro _ | apply keeps_ite | exact has_ok m rfl | exact within_trans m rfl | apply State.fset_keeps | apply State.bnRun_keeps | apply keeps_snd_ite | dsimp only | split | exact Or.inl (by assumption) | exact Or.inr rfl | refine keeps_mk ?_ rfl rfl ?_ ?_ ?_ ?_ ?_ ?_ ?_ ?_ ?_ ?_ ?_ ?_ ?_ ?_

theorem State.bnArb_keeps (h : Keeps L s0 s) (lr32 : L.r32 = true := by first | assumption | rfl) (lboot : L.boot = true := by first | assumption | rfl) (ltrust : L.trust = true := by first | assumption | rfl) (m : within 0x400000000000000000000000000000000 L.regs = true := by first | with_reducible assumption | (refine within_trans (by assumption) ?_; exact rfl) | rfl) :
    Keeps L s0 (State.bnArb s) := by
  unfold State.bnArb
  with_reducible repeat' first | assumption | intro _ | apply keeps_ite | exact has_ok m rfl | exact within_trans m rfl | apply State.bnRun_keeps | apply keeps_snd_ite | dsimp only | split | exact Or.inl (by assumption) | exact Or.inr rfl | refine keeps_mk ?_ rfl rfl ?_ ?_ ?_ ?_ ?_ ?_ ?_ ?_ ?_ ?_ ?_ ?_ ?_ ?_

theorem State.bnCert_keeps (h : Keeps L s0 s) (lr32 : L.r32 = true := by first | assumption | rfl) (ltrust : L.trust = true := by first | assumption | rfl) (m : within 0x400000000000000000000000000000000 L.regs = true := by first | with_reducible assumption | (refine within_trans (by assumption) ?_; exact rfl) | rfl) :
    Keeps L s0 (State.bnCert s) := by
  unfold State.bnCert
  with_reducible repeat' first | assumption | intro _ | apply keeps_ite | exact has_ok m rfl | exact within_trans m rfl | apply State.bnRun_keeps | apply keeps_snd_ite | dsimp only | split

theorem State.bnZcert_keeps (h : Keeps L s0 s) (lr32 : L.r32 = true := by first | assumption | rfl) (ltrust : L.trust = true := by first | assumption | rfl) (m : within 0x400000000000000000000000000000000 L.regs = true := by first | with_reducible assumption | (refine within_trans (by assumption) ?_; exact rfl) | rfl) :
    Keeps L s0 (State.bnZcert s) := by
  unfold State.bnZcert
  with_reducible repeat' first | assumption | intro _ | apply keeps_ite | exact has_ok m rfl | exact within_trans m rfl | apply State.bnRun_keeps | apply keeps_snd_ite | dsimp only | split

theorem State.bnZcmd_keeps (h : Keeps L s0 s) (lr32 : L.r32 = true := by first | assumption | rfl) (ltrust : L.trust = true := by first | assumption | rfl) (m : within 0x400000000000000000000000000000000 L.regs = true := by first | with_reducible assumption | (refine within_trans (by assumption) ?_; exact rfl) | rfl) :
    Keeps L s0 (State.bnZcmd s) := by
  unfold State.bnZcmd
  with_reducible repeat' first | assumption | intro _ | apply keeps_ite | exact has_ok m rfl | exact within_trans m rfl | apply State.bnRun_keeps | apply keeps_snd_ite | dsimp only | split | exact Or.inl (by assumption) | exact Or.inr rfl | refine keeps_mk ?_ rfl rfl ?_ ?_ ?_ ?_ ?_ ?_ ?_ ?_ ?_ ?_ ?_ ?_ ?_ ?_

theorem State.bnCmdWrite_keeps (h : Keeps L s0 s) (a2 : ℕ) (lr32 : L.r32 = true := by first | assumption | rfl) (lr64 : L.r64 = true := by first | assumption | rfl) (lboot : L.boot = true := by first | assumption | rfl) (ltrust : L.trust = true := by first | assumption | rfl) (m : within 0x88400000000000000000000000000000000 L.regs = true := by first | with_reducible assumption | (refine within_trans (by assumption) ?_; exact rfl) | rfl) :
    Keeps L s0 (State.bnCmdWrite s a2) := by
  unfold State.bnCmdWrite
  with_reducible repeat' first | assumption | intro _ | apply keeps_ite | exact has_ok m rfl | exact within_trans m rfl | apply State.bnStart_keeps | apply State.bnQuote_keeps | apply State.bnExtend_keeps | apply State.bnEnroll_keeps | apply State.bnArb_keeps | apply State.bnCert_keeps | apply State.bnZcert_keeps | apply State.bnZcmd_keeps | apply keeps_snd_ite | dsimp only | split

theorem execBnQuote_keeps (h : Keeps L s0 s) (lr32 : L.r32 = true := by first | assumption | rfl) (lr64 : L.r64 = true := by first | assumption | rfl) (lboot : L.boot = true := by first | assumption | rfl) (ltrust : L.trust = true := by first | assumption | rfl) (m : within 0x88400000000000000000000000000000000 L.regs = true := by first | with_reducible assumption | (refine within_trans (by assumption) ?_; exact rfl) | rfl) :
    ∃ t, execBnQuote s = .next t ∧ Keeps L s0 t := by
  unfold execBnQuote
  refine ⟨_, rfl, ?_⟩
  with_reducible repeat' first | assumption | intro _ | apply keeps_ite | exact has_ok m rfl | exact within_trans m rfl | apply State.bnCmdWrite_keeps | apply keeps_snd_ite | dsimp only | split

theorem execBnExtend_keeps (h : Keeps L s0 s) (lr32 : L.r32 = true := by first | assumption | rfl) (lr64 : L.r64 = true := by first | assumption | rfl) (lboot : L.boot = true := by first | assumption | rfl) (ltrust : L.trust = true := by first | assumption | rfl) (m : within 0x88400000000000000000000000000000000 L.regs = true := by first | with_reducible assumption | (refine within_trans (by assumption) ?_; exact rfl) | rfl) :
    ∃ t, execBnExtend s = .next t ∧ Keeps L s0 t := by
  unfold execBnExtend
  refine ⟨_, rfl, ?_⟩
  with_reducible repeat' first | assumption | intro _ | apply keeps_ite | exact has_ok m rfl | exact within_trans m rfl | apply State.bnCmdWrite_keeps | apply keeps_snd_ite | dsimp only | split

theorem execBnEnroll_keeps (h : Keeps L s0 s) (lr32 : L.r32 = true := by first | assumption | rfl) (lr64 : L.r64 = true := by first | assumption | rfl) (lboot : L.boot = true := by first | assumption | rfl) (ltrust : L.trust = true := by first | assumption | rfl) (m : within 0x88400000000000000000000000000000000 L.regs = true := by first | with_reducible assumption | (refine within_trans (by assumption) ?_; exact rfl) | rfl) :
    ∃ t, execBnEnroll s = .next t ∧ Keeps L s0 t := by
  unfold execBnEnroll
  refine ⟨_, rfl, ?_⟩
  with_reducible repeat' first | assumption | intro _ | apply keeps_ite | exact has_ok m rfl | exact within_trans m rfl | apply State.bnCmdWrite_keeps | apply keeps_snd_ite | dsimp only | split

theorem execBnArb_keeps (h : Keeps L s0 s) (lr32 : L.r32 = true := by first | assumption | rfl) (lr64 : L.r64 = true := by first | assumption | rfl) (lboot : L.boot = true := by first | assumption | rfl) (ltrust : L.trust = true := by first | assumption | rfl) (m : within 0x88400000000000000000000000000000000 L.regs = true := by first | with_reducible assumption | (refine within_trans (by assumption) ?_; exact rfl) | rfl) :
    ∃ t, execBnArb s = .next t ∧ Keeps L s0 t := by
  unfold execBnArb
  refine ⟨_, rfl, ?_⟩
  with_reducible repeat' first | assumption | intro _ | apply keeps_ite | exact has_ok m rfl | exact within_trans m rfl | apply State.bnCmdWrite_keeps | apply keeps_snd_ite | dsimp only | split

theorem execBnCert_keeps (h : Keeps L s0 s) (lr32 : L.r32 = true := by first | assumption | rfl) (lr64 : L.r64 = true := by first | assumption | rfl) (lboot : L.boot = true := by first | assumption | rfl) (ltrust : L.trust = true := by first | assumption | rfl) (m : within 0x88400000000000000000000000000000000 L.regs = true := by first | with_reducible assumption | (refine within_trans (by assumption) ?_; exact rfl) | rfl) :
    ∃ t, execBnCert s = .next t ∧ Keeps L s0 t := by
  unfold execBnCert
  refine ⟨_, rfl, ?_⟩
  with_reducible repeat' first | assumption | intro _ | apply keeps_ite | exact has_ok m rfl | exact within_trans m rfl | apply State.bnCmdWrite_keeps | apply keeps_snd_ite | dsimp only | split

theorem execBnZcert_keeps (h : Keeps L s0 s) (lr32 : L.r32 = true := by first | assumption | rfl) (lr64 : L.r64 = true := by first | assumption | rfl) (lboot : L.boot = true := by first | assumption | rfl) (ltrust : L.trust = true := by first | assumption | rfl) (m : within 0x88400000000000000000000000000000000 L.regs = true := by first | with_reducible assumption | (refine within_trans (by assumption) ?_; exact rfl) | rfl) :
    ∃ t, execBnZcert s = .next t ∧ Keeps L s0 t := by
  unfold execBnZcert
  refine ⟨_, rfl, ?_⟩
  with_reducible repeat' first | assumption | intro _ | apply keeps_ite | exact has_ok m rfl | exact within_trans m rfl | apply State.bnCmdWrite_keeps | apply keeps_snd_ite | dsimp only | split

theorem execBnZcmd_keeps (h : Keeps L s0 s) (lr32 : L.r32 = true := by first | assumption | rfl) (lr64 : L.r64 = true := by first | assumption | rfl) (lboot : L.boot = true := by first | assumption | rfl) (ltrust : L.trust = true := by first | assumption | rfl) (m : within 0x88400000000000000000000000000000000 L.regs = true := by first | with_reducible assumption | (refine within_trans (by assumption) ?_; exact rfl) | rfl) :
    ∃ t, execBnZcmd s = .next t ∧ Keeps L s0 t := by
  unfold execBnZcmd
  refine ⟨_, rfl, ?_⟩
  with_reducible repeat' first | assumption | intro _ | apply keeps_ite | exact has_ok m rfl | exact within_trans m rfl | apply State.bnCmdWrite_keeps | apply keeps_snd_ite | dsimp only | split

theorem State.dropCustomer_keeps (h : Keeps L s0 s) (lr32 : L.r32 = true := by first | assumption | rfl) (lr64 : L.r64 = true := by first | assumption | rfl) (lcirrus : L.cirrus = true := by first | assumption | rfl) (m : within 0x14000000000000000000000000000621880003e0000020000000000000000000000000000000000 L.regs = true := by first | with_reducible assumption | (refine within_trans (by assumption) ?_; exact rfl) | rfl) :
    Keeps L s0 (State.dropCustomer s) := by
  unfold State.dropCustomer
  with_reducible repeat' first | assumption | intro _ | apply keeps_ite | exact has_ok m rfl | exact within_trans m rfl | apply State.fset_keeps | apply State.custClear_keeps | apply State.actStart_keeps | apply keeps_snd_ite | dsimp only | split | exact Or.inl (by assumption) | exact Or.inr rfl | refine keeps_mk ?_ rfl rfl ?_ ?_ ?_ ?_ ?_ ?_ ?_ ?_ ?_ ?_ ?_ ?_ ?_ ?_

theorem State.ownerActive_keeps (h : Keeps L s0 s) (lr32 : L.r32 = true := by first | assumption | rfl) (lr64 : L.r64 = true := by first | assumption | rfl) (lcirrus : L.cirrus = true := by first | assumption | rfl) (ltrust : L.trust = true := by first | assumption | rfl) (m : within 0x14000000000000000000000000000621880003e00000a0000000000000000000000000000000000 L.regs = true := by first | with_reducible assumption | (refine within_trans (by assumption) ?_; exact rfl) | rfl) :
    Keeps L s0 (State.ownerActive s) := by
  unfold State.ownerActive
  with_reducible repeat' first | assumption | intro _ | apply keeps_ite | exact has_ok m rfl | exact within_trans m rfl | apply State.dropCustomer_keeps | apply State.fset_keeps | apply keeps_snd_ite | dsimp only | split | exact Or.inl (by assumption) | exact Or.inr rfl | refine keeps_mk ?_ rfl rfl ?_ ?_ ?_ ?_ ?_ ?_ ?_ ?_ ?_ ?_ ?_ ?_ ?_ ?_

theorem State.arbBlow_keeps (h : Keeps L s0 s) (lr32 : L.r32 = true := by first | assumption | rfl) (lboot : L.boot = true := by first | assumption | rfl) (m : within 0x40000000000000000000000000000000000 L.regs = true := by first | with_reducible assumption | (refine within_trans (by assumption) ?_; exact rfl) | rfl) :
    Keeps L s0 (State.arbBlow s) := by
  unfold State.arbBlow
  with_reducible repeat' first | assumption | intro _ | apply keeps_ite | exact has_ok m rfl | exact within_trans m rfl | apply State.each_keeps | apply State.setArb_keeps | apply keeps_snd_ite | dsimp only | split | exact Or.inl (by assumption) | exact Or.inr rfl | refine keeps_mk ?_ rfl rfl ?_ ?_ ?_ ?_ ?_ ?_ ?_ ?_ ?_ ?_ ?_ ?_ ?_ ?_

theorem State.zenReplyOut_keeps (h : Keeps L s0 s) (lr32 : L.r32 = true := by first | assumption | rfl) (lfree : L.free = true := by first | assumption | rfl) (m : within 0x1002000000000000000000000000000000000 L.regs = true := by first | with_reducible assumption | (refine within_trans (by assumption) ?_; exact rfl) | rfl) :
    Keeps L s0 (State.zenReplyOut s) := by
  unfold State.zenReplyOut
  with_reducible repeat' first | assumption | intro _ | apply keeps_ite | exact has_ok m rfl | exact within_trans m rfl | apply State.fset_keeps | apply State.wr_keeps | apply State.draw_keeps | apply forN_keeps | apply keeps_snd_ite | (refine keeps_of_eq (by assumption) ?_) | dsimp only | split

theorem State.bnEffect_keeps (h : Keeps L s0 s) (a2 : BnRun) (lr32 : L.r32 = true := by first | assumption | rfl) (lr64 : L.r64 = true := by first | assumption | rfl) (lfree : L.free = true := by first | assumption | rfl) (lboot : L.boot = true := by first | assumption | rfl) (lcirrus : L.cirrus = true := by first | assumption | rfl) (ltrust : L.trust = true := by first | assumption | rfl) (m : within 0x14000000000000000000000000000621880003e00010e2000000000000000000000000000000000 L.regs = true := by first | with_reducible assumption | (refine within_trans (by assumption) ?_; exact rfl) | rfl) :
    Keeps L s0 (State.bnEffect s a2) := by
  unfold State.bnEffect
  with_reducible repeat' first | assumption | intro _ | apply keeps_ite | exact has_ok m rfl | exact within_trans m rfl | apply State.setMeas_keeps | apply State.ownerActive_keeps | apply State.arbBlow_keeps | apply State.zenReplyOut_keeps | apply State.setOut_keeps | apply keeps_snd_ite | dsimp only | split

theorem execBnCommandDone_keeps (h : Keeps L s0 s) (lr32 : L.r32 = true := by first | assumption | rfl) (lr64 : L.r64 = true := by first | assumption | rfl) (lfree : L.free = true := by first | assumption | rfl) (lhost : L.host = true := by first | assumption | rfl) (lboot : L.boot = true := by first | assumption | rfl) (lcirrus : L.cirrus = true := by first | assumption | rfl) (ltrust : L.trust = true := by first | assumption | rfl) (m : within 0x14000000000000000000000000000621880003e00010e2400000001800000000000000000000000 L.regs = true := by first | with_reducible assumption | (refine within_trans (by assumption) ?_; exact rfl) | rfl) :
    ∃ t, execBnCommandDone s = .next t ∧ Keeps L s0 t := by
  unfold execBnCommandDone
  refine ⟨_, rfl, ?_⟩
  with_reducible repeat' first | assumption | intro _ | apply keeps_ite | exact has_ok m rfl | exact within_trans m rfl | apply State.fset_keeps | apply State.wr_keeps | apply State.bnEffect_keeps | apply State.zenReplyOut_keeps | apply State.post_keeps | apply keeps_snd_ite | dsimp only | split | exact Or.inl (by assumption) | exact Or.inr rfl | refine keeps_mk ?_ rfl rfl ?_ ?_ ?_ ?_ ?_ ?_ ?_ ?_ ?_ ?_ ?_ ?_ ?_ ?_

end Sys2Proof.Machine
end

