-- ==== Sys2Proof/Laws/KeepsZenith.lean ====
section
/-!
SUPPORT. What each operation and each command of `Machine/Zenith.lean` (Zenith) leaves alone, in the terms of `Laws/Keeps.lean`.
-/

set_option Elab.async false

set_option linter.unusedTactic false
set_option linter.unreachableTactic false
set_option linter.unusedVariables false
namespace Sys2Proof.Machine

variable {L : Touch} {s0 s : State}

theorem State.setZen_keeps (h : Keeps L s0 s) (a2 : ZenSt) (lzen : L.zen = true := by first | assumption | rfl) :
    Keeps L s0 (State.setZen s a2) := by
  unfold State.setZen
  with_reducible repeat' first | assumption | intro _ | apply keeps_ite | apply keeps_snd_ite | dsimp only | split | exact Or.inl (by assumption) | exact Or.inr rfl | refine keeps_mk ?_ rfl rfl ?_ ?_ ?_ ?_ ?_ ?_ ?_ ?_ ?_ ?_ ?_ ?_ ?_ ?_

theorem State.zclkOn_keeps (h : Keeps L s0 s) (a2 : ℕ) (lzen : L.zen = true := by first | assumption | rfl) :
    Keeps L s0 (State.zclkOn s a2) := by
  unfold State.zclkOn
  with_reducible repeat' first | assumption | intro _ | apply keeps_ite | apply State.setZen_keeps | apply keeps_snd_ite | dsimp only | split

theorem execZenTapTotals_keeps (h : Keeps L s0 s) (a1 : ℕ) (a2 : Bool) (a3 : ℕ) (lzen : L.zen = true := by first | assumption | rfl) :
    ∃ t, execZenTapTotals a1 a2 a3 s = .next t ∧ Keeps L s0 t := by
  unfold execZenTapTotals
  refine ⟨_, rfl, ?_⟩
  with_reducible repeat' first | assumption | intro _ | apply keeps_ite | apply State.zclkOn_keeps | apply State.setZen_keeps | apply keeps_snd_ite | dsimp only | split

theorem State.zenEdge_keeps (h : Keeps L s0 s) (a2 : ZEdge) (a3 : List ZEdge) (lzen : L.zen = true := by first | assumption | rfl) :
    Keeps L s0 (State.zenEdge s a2 a3) := by
  unfold State.zenEdge
  with_reducible repeat' first | assumption | intro _ | apply keeps_ite | apply State.setZen_keeps | apply keeps_snd_ite | dsimp only | split

theorem execZenEdge_keeps (h : Keeps L s0 s) (a1 : ℕ) (lzen : L.zen = true := by first | assumption | rfl) :
    ∃ t, execZenEdge a1 s = .next t ∧ Keeps L s0 t := by
  unfold execZenEdge
  refine ⟨_, rfl, ?_⟩
  with_reducible repeat' first | assumption | intro _ | apply keeps_ite | apply State.zclkOn_keeps | apply State.zenEdge_keeps | apply keeps_snd_ite | dsimp only | split

theorem execZenEdgeTimeout_keeps (h : Keeps L s0 s) (a1 : ℕ) (lzen : L.zen = true := by first | assumption | rfl) :
    ∃ t, execZenEdgeTimeout a1 s = .next t ∧ Keeps L s0 t := by
  unfold execZenEdgeTimeout
  refine ⟨_, rfl, ?_⟩
  with_reducible repeat' first | assumption | intro _ | apply keeps_ite | apply State.zclkOn_keeps | apply State.setZen_keeps | apply keeps_snd_ite | dsimp only | split

theorem execZenRecordCommit_keeps (h : Keeps L s0 s) (lzen : L.zen = true := by first | assumption | rfl) :
    ∃ t, execZenRecordCommit s = .next t ∧ Keeps L s0 t := by
  unfold execZenRecordCommit
  refine ⟨_, rfl, ?_⟩
  with_reducible repeat' first | assumption | intro _ | apply keeps_ite | apply State.setZen_keeps | apply keeps_snd_ite | dsimp only | split

theorem State.lastRseq_keeps (h : Keeps L s0 s) (lfree : L.free = true := by first | assumption | rfl) :
    Keeps L s0 (State.lastRseq s).2 := by
  unfold State.lastRseq
  with_reducible repeat' first | assumption | intro _ | apply keeps_ite | apply State.draw_keeps | apply keeps_snd_ite | (refine keeps_of_eq (by assumption) ?_) | dsimp only | split

theorem State.tamperEvent_keeps (h : Keeps L s0 s) (a2 : ℕ) (lr32 : L.r32 = true := by first | assumption | rfl) (lr64 : L.r64 = true := by first | assumption | rfl) (lfree : L.free = true := by first | assumption | rfl) (lhost : L.host = true := by first | assumption | rfl) (lsquall : L.squall = true := by first | assumption | rfl) (lzen : L.zen = true := by first | assumption | rfl) (m : within 0x1800000000000000001082000 L.regs = true := by first | with_reducible assumption | (refine within_trans (by assumption) ?_; exact rfl) | rfl) :
    Keeps L s0 (State.tamperEvent s a2) := by
  unfold State.tamperEvent
  with_reducible repeat' first | assumption | intro _ | apply keeps_ite | exact has_ok m rfl | exact within_trans m rfl | apply State.lastRseq_keeps | apply State.post_keeps | apply State.report_keeps | apply State.setZen_keeps | apply keeps_snd_ite | (refine keeps_of_eq (by assumption) ?_) | dsimp only | split

theorem execZenTamper_keeps (h : Keeps L s0 s) (a1 : ℕ) (lr32 : L.r32 = true := by first | assumption | rfl) (lr64 : L.r64 = true := by first | assumption | rfl) (lfree : L.free = true := by first | assumption | rfl) (lhost : L.host = true := by first | assumption | rfl) (lsquall : L.squall = true := by first | assumption | rfl) (lzen : L.zen = true := by first | assumption | rfl) (m : within 0x1800000000000000001082000 L.regs = true := by first | with_reducible assumption | (refine within_trans (by assumption) ?_; exact rfl) | rfl) :
    ∃ t, execZenTamper a1 s = .next t ∧ Keeps L s0 t := by
  unfold execZenTamper
  refine ⟨_, rfl, ?_⟩
  with_reducible repeat' first | assumption | intro _ | apply keeps_ite | exact has_ok m rfl | exact within_trans m rfl | apply State.tamperEvent_keeps | apply keeps_snd_ite | dsimp only | split

theorem State.zvddLoss_keeps (h : Keeps L s0 s) (lr32 : L.r32 = true := by first | assumption | rfl) (lr64 : L.r64 = true := by first | assumption | rfl) (lsquall : L.squall = true := by first | assumption | rfl) (lzen : L.zen = true := by first | assumption | rfl) (m : within 0x1082000 L.regs = true := by first | with_reducible assumption | (refine within_trans (by assumption) ?_; exact rfl) | rfl) :
    Keeps L s0 (State.zvddLoss s) := by
  unfold State.zvddLoss
  with_reducible repeat' first | assumption | intro _ | apply keeps_ite | exact has_ok m rfl | exact within_trans m rfl | apply State.report_keeps | apply State.setZen_keeps | apply keeps_snd_ite | dsimp only | split

theorem execZvddLoss_keeps (h : Keeps L s0 s) (lr32 : L.r32 = true := by first | assumption | rfl) (lr64 : L.r64 = true := by first | assumption | rfl) (lsquall : L.squall = true := by first | assumption | rfl) (lzen : L.zen = true := by first | assumption | rfl) (m : within 0x1082000 L.regs = true := by first | with_reducible assumption | (refine within_trans (by assumption) ?_; exact rfl) | rfl) :
    ∃ t, execZvddLoss s = .next t ∧ Keeps L s0 t := by
  unfold execZvddLoss
  refine ⟨_, rfl, ?_⟩
  with_reducible repeat' first | assumption | intro _ | apply keeps_ite | exact has_ok m rfl | exact within_trans m rfl | apply State.zvddLoss_keeps | apply keeps_snd_ite | dsimp only | split

theorem State.zvddUp_keeps (h : Keeps L s0 s) (a2 : Bool) (lr32 : L.r32 = true := by first | assumption | rfl) (lr64 : L.r64 = true := by first | assumption | rfl) (lfree : L.free = true := by first | assumption | rfl) (lhost : L.host = true := by first | assumption | rfl) (lsquall : L.squall = true := by first | assumption | rfl) (lzen : L.zen = true := by first | assumption | rfl) (m : within 0x1800000000000000001082000 L.regs = true := by first | with_reducible assumption | (refine within_trans (by assumption) ?_; exact rfl) | rfl) :
    Keeps L s0 (State.zvddUp s a2) := by
  unfold State.zvddUp
  with_reducible repeat' first | assumption | intro _ | apply keeps_ite | exact has_ok m rfl | exact within_trans m rfl | apply State.setZen_keeps | apply State.tamperEvent_keeps | apply keeps_snd_ite | dsimp only | split

theorem execZvddPowerUp_keeps (h : Keeps L s0 s) (a1 : Bool) (lr32 : L.r32 = true := by first | assumption | rfl) (lr64 : L.r64 = true := by first | assumption | rfl) (lfree : L.free = true := by first | assumption | rfl) (lhost : L.host = true := by first | assumption | rfl) (lsquall : L.squall = true := by first | assumption | rfl) (lzen : L.zen = true := by first | assumption | rfl) (m : within 0x1800000000000000001082000 L.regs = true := by first | with_reducible assumption | (refine within_trans (by assumption) ?_; exact rfl) | rfl) :
    ∃ t, execZvddPowerUp a1 s = .next t ∧ Keeps L s0 t := by
  unfold execZvddPowerUp
  refine ⟨_, rfl, ?_⟩
  with_reducible repeat' first | assumption | intro _ | apply keeps_ite | exact has_ok m rfl | exact within_trans m rfl | apply State.zvddUp_keeps | apply keeps_snd_ite | dsimp only | split

theorem execZenCommand_keeps (h : Keeps L s0 s) (lr64 : L.r64 = true := by first | assumption | rfl) (lhost : L.host = true := by first | assumption | rfl) (ltrust : L.trust = true := by first | assumption | rfl) (lzen : L.zen = true := by first | assumption | rfl) (m : within 0x1800000000000000000000000 L.regs = true := by first | with_reducible assumption | (refine within_trans (by assumption) ?_; exact rfl) | rfl) :
    ∃ t, execZenCommand s = .next t ∧ Keeps L s0 t := by
  unfold execZenCommand
  refine ⟨_, rfl, ?_⟩
  with_reducible repeat' first | assumption | intro _ | apply keeps_ite | exact has_ok m rfl | exact within_trans m rfl | apply State.setZen_keeps | apply State.post_keeps | apply keeps_snd_ite | dsimp only | split | exact Or.inl (by assumption) | exact Or.inr rfl | refine keeps_mk ?_ rfl rfl ?_ ?_ ?_ ?_ ?_ ?_ ?_ ?_ ?_ ?_ ?_ ?_ ?_ ?_

theorem State.zenPut_keeps (h : Keeps L s0 s) (a2 : ℕ) (a3 : ℕ) (a4 : List Byte) (lr32 : L.r32 = true := by first | assumption | rfl) (lr64 : L.r64 = true := by first | assumption | rfl) (lmem : L.mem = true := by first | assumption | rfl) (lhost : L.host = true := by first | assumption | rfl) (lsquall : L.squall = true := by first | assumption | rfl) (lzen : L.zen = true := by first | assumption | rfl) (m : within 0x822801b80000000000000001082000 L.regs = true := by first | with_reducible assumption | (refine within_trans (by assumption) ?_; exact rfl) | rfl) :
    Keeps L s0 (State.zenPut s a2 a3 a4) := by
  unfold State.zenPut
  with_reducible repeat' first | assumption | intro _ | apply keeps_ite | exact has_ok m rfl | exact within_trans m rfl | apply State.telemClose_keeps | apply State.setRing_keeps | apply State.hostPut_keeps | apply State.setZen_keeps | apply keeps_snd_ite | dsimp only | split

theorem execZenRecordDeliver_keeps (h : Keeps L s0 s) (lr32 : L.r32 = true := by first | assumption | rfl) (lr64 : L.r64 = true := by first | assumption | rfl) (lmem : L.mem = true := by first | assumption | rfl) (lhost : L.host = true := by first | assumption | rfl) (lsquall : L.squall = true := by first | assumption | rfl) (lzen : L.zen = true := by first | assumption | rfl) (m : within 0x823801b80000000000000001082000 L.regs = true := by first | with_reducible assumption | (refine within_trans (by assumption) ?_; exact rfl) | rfl) :
    ∃ t, execZenRecordDeliver s = .next t ∧ Keeps L s0 t := by
  unfold execZenRecordDeliver
  refine ⟨_, rfl, ?_⟩
  with_reducible repeat' first | assumption | intro _ | apply keeps_ite | exact has_ok m rfl | exact within_trans m rfl | apply State.telemClose_keeps | apply State.zenPut_keeps | apply State.telemOpen_keeps | apply keeps_snd_ite | dsimp only | split

end Sys2Proof.Machine
end

