-- ==== Sys2Proof/Laws/KeepsSquall.lean ====
section
/-!
SUPPORT. What each operation and each command of `Machine/Squall.lean` (Squall) leaves alone, in the terms of `Laws/Keeps.lean`.
-/

set_option Elab.async false

set_option linter.unusedTactic false
set_option linter.unreachableTactic false
set_option linter.unusedVariables false
namespace Sys2Proof.Machine

variable {L : Touch} {s0 s : State}

theorem State.setSlice_keeps (h : Keeps L s0 s) (a2 : ℕ) (a3 : Option Slice) (lr32 : L.r32 = true := by first | assumption | rfl) (lsquall : L.squall = true := by first | assumption | rfl) (m : within 0x10000000 L.regs = true := by first | with_reducible assumption | (refine within_trans (by assumption) ?_; exact rfl) | rfl) :
    Keeps L s0 (State.setSlice s a2 a3) := by
  unfold State.setSlice
  with_reducible repeat' first | assumption | intro _ | apply keeps_ite | exact has_ok m rfl | exact within_trans m rfl | apply State.wr_keeps | apply keeps_snd_ite | dsimp only | split | exact Or.inl (by assumption) | exact Or.inr rfl | refine keeps_mk ?_ rfl rfl ?_ ?_ ?_ ?_ ?_ ?_ ?_ ?_ ?_ ?_ ?_ ?_ ?_ ?_

theorem State.setRole_keeps (h : Keeps L s0 s) (a2 : ℕ) (a3 : ℕ) (a4 : ℕ) (a5 : ℕ) (lr32 : L.r32 = true := by first | assumption | rfl) (m : within 0x48000000000000000000000000000000000000000000000 L.regs = true := by first | with_reducible assumption | (refine within_trans (by assumption) ?_; exact rfl) | rfl) :
    Keeps L s0 (State.setRole s a2 a3 a4 a5) := by
  unfold State.setRole
  with_reducible repeat' first | assumption | intro _ | apply keeps_ite | exact has_ok m rfl | exact within_trans m rfl | apply State.fset_keeps | apply keeps_snd_ite | dsimp only | split

theorem State.blow_keeps (h : Keeps L s0 s) (a2 : ℕ) (a3 : ℕ) (lboot : L.boot = true := by first | assumption | rfl) :
    Keeps L s0 (State.blow s a2 a3) := by
  unfold State.blow
  with_reducible repeat' first | assumption | intro _ | apply keeps_ite | apply keeps_snd_ite | dsimp only | split | exact Or.inl (by assumption) | exact Or.inr rfl | refine keeps_mk ?_ rfl rfl ?_ ?_ ?_ ?_ ?_ ?_ ?_ ?_ ?_ ?_ ?_ ?_ ?_ ?_

theorem State.sayRetired_keeps (h : Keeps L s0 s) (a2 : ℕ) (a3 : ℕ) (a4 : ℕ) (lr32 : L.r32 = true := by first | assumption | rfl) (lr64 : L.r64 = true := by first | assumption | rfl) (lhost : L.host = true := by first | assumption | rfl) (lsquall : L.squall = true := by first | assumption | rfl) (m : within 0x1800000000000000001082000 L.regs = true := by first | with_reducible assumption | (refine within_trans (by assumption) ?_; exact rfl) | rfl) :
    Keeps L s0 (State.sayRetired s a2 a3 a4) := by
  unfold State.sayRetired
  with_reducible repeat' first | assumption | intro _ | apply keeps_ite | exact has_ok m rfl | exact within_trans m rfl | apply State.post_keeps | apply State.report_keeps | apply keeps_snd_ite | dsimp only | split

theorem State.restoreUnit_keeps (h : Keeps L s0 s) (a2 : ℕ) (a3 : Slice) (lr32 : L.r32 = true := by first | assumption | rfl) (ltm : L.tm = true := by first | assumption | rfl) (lte : L.te = true := by first | assumption | rfl) (m : within 0x2000000000000000400000080000048000000000000000000000000000000000000000000000 L.regs = true := by first | with_reducible assumption | (refine within_trans (by assumption) ?_; exact rfl) | rfl) :
    Keeps L s0 (State.restoreUnit s a2 a3) := by
  unfold State.restoreUnit
  with_reducible repeat' first | assumption | intro _ | apply keeps_ite | exact has_ok m rfl | exact within_trans m rfl | apply State.setRole_keeps | apply State.pgScan_keeps | apply State.fset_keeps | apply keeps_snd_ite | dsimp only | split | exact Or.inl (by assumption) | exact Or.inr rfl | refine keeps_mk ?_ rfl rfl ?_ ?_ ?_ ?_ ?_ ?_ ?_ ?_ ?_ ?_ ?_ ?_ ?_ ?_

theorem State.showSlice_keeps (h : Keeps L s0 s) (a2 : ℕ) (a3 : Slice) (a4 : ℕ) (lr32 : L.r32 = true := by first | assumption | rfl) (m : within 0x60000000 L.regs = true := by first | with_reducible assumption | (refine within_trans (by assumption) ?_; exact rfl) | rfl) :
    Keeps L s0 (State.showSlice s a2 a3 a4) := by
  unfold State.showSlice
  with_reducible repeat' first | assumption | intro _ | apply keeps_ite | exact has_ok m rfl | exact within_trans m rfl | apply State.wr_keeps | apply keeps_snd_ite | dsimp only | split

theorem State.planCheck_keeps (h : Keeps L s0 s) (lr32 : L.r32 = true := by first | assumption | rfl) (lr64 : L.r64 = true := by first | assumption | rfl) (lhost : L.host = true := by first | assumption | rfl) (m : within 0x1800000000000000010000000 L.regs = true := by first | with_reducible assumption | (refine within_trans (by assumption) ?_; exact rfl) | rfl) :
    Keeps L s0 (State.planCheck s) := by
  unfold State.planCheck
  with_reducible repeat' first | assumption | intro _ | apply keeps_ite | exact has_ok m rfl | exact within_trans m rfl | apply State.post_keeps | apply State.fset_keeps | apply keeps_snd_ite | dsimp only | split

theorem State.endSlice_keeps (h : Keeps L s0 s) (a2 : ℕ) (a3 : ℕ) (lr32 : L.r32 = true := by first | assumption | rfl) (lr64 : L.r64 = true := by first | assumption | rfl) (lhost : L.host = true := by first | assumption | rfl) (lsquall : L.squall = true := by first | assumption | rfl) (ltm : L.tm = true := by first | assumption | rfl) (lte : L.te = true := by first | assumption | rfl) (m : within 0x20000000000000004000000800000480000000000000000000018000000000000000f0000000 L.regs = true := by first | with_reducible assumption | (refine within_trans (by assumption) ?_; exact rfl) | rfl) :
    Keeps L s0 (State.endSlice s a2 a3) := by
  unfold State.endSlice
  with_reducible repeat' first | assumption | intro _ | apply keeps_ite | exact has_ok m rfl | exact within_trans m rfl | apply State.planCheck_keeps | apply State.bump_keeps | apply State.showSlice_keeps | apply State.setSlice_keeps | apply State.restoreUnit_keeps | apply keeps_snd_ite | dsimp only | split

theorem State.abortIf_keeps (h : Keeps L s0 s) (a2 : ℕ) (a3 : Slice → Bool) (lr32 : L.r32 = true := by first | assumption | rfl) (lr64 : L.r64 = true := by first | assumption | rfl) (lhost : L.host = true := by first | assumption | rfl) (lsquall : L.squall = true := by first | assumption | rfl) (ltm : L.tm = true := by first | assumption | rfl) (lte : L.te = true := by first | assumption | rfl) (m : within 0x20000000000000004000000800000480000000000000000000018000000000000000f0000000 L.regs = true := by first | with_reducible assumption | (refine within_trans (by assumption) ?_; exact rfl) | rfl) :
    Keeps L s0 (State.abortIf s a2 a3) := by
  unfold State.abortIf
  with_reducible repeat' first | assumption | intro _ | apply keeps_ite | exact has_ok m rfl | exact within_trans m rfl | apply State.endSlice_keeps | apply keeps_snd_ite | dsimp only | split

theorem State.pipeOut_keeps (h : Keeps L s0 s) (a2 : ℕ) (a3 : ℕ) (lr32 : L.r32 = true := by first | assumption | rfl) (lr64 : L.r64 = true := by first | assumption | rfl) (lhost : L.host = true := by first | assumption | rfl) (lboot : L.boot = true := by first | assumption | rfl) (lsquall : L.squall = true := by first | assumption | rfl) (m : within 0x48000000000000000000001800000000000000401082000 L.regs = true := by first | with_reducible assumption | (refine within_trans (by assumption) ?_; exact rfl) | rfl) :
    Keeps L s0 (State.pipeOut s a2 a3).2 := by
  unfold State.pipeOut
  with_reducible repeat' first | assumption | intro _ | apply keeps_ite | exact has_ok m rfl | exact within_trans m rfl | apply State.fset_keeps | apply State.blow_keeps | apply State.setRole_keeps | apply State.spareUsed_keeps | apply keeps_snd_ite | dsimp only | split

theorem State.linkOut_keeps (h : Keeps L s0 s) (a2 : ℕ) (a3 : ℕ) (lr32 : L.r32 = true := by first | assumption | rfl) (lr64 : L.r64 = true := by first | assumption | rfl) (lhost : L.host = true := by first | assumption | rfl) (lboot : L.boot = true := by first | assumption | rfl) (lsquall : L.squall = true := by first | assumption | rfl) (m : within 0x1800000000000000c01082000 L.regs = true := by first | with_reducible assumption | (refine within_trans (by assumption) ?_; exact rfl) | rfl) :
    Keeps L s0 (State.linkOut s a2 a3) := by
  unfold State.linkOut
  with_reducible repeat' first | assumption | intro _ | apply keeps_ite | exact has_ok m rfl | exact within_trans m rfl | apply State.spareUsed_keeps | apply State.blow_keeps | apply State.fset_keeps | apply State.sayRetired_keeps | apply State.wr_keeps | apply keeps_snd_ite | dsimp only | split

theorem State.laneRetire_keeps (h : Keeps L s0 s) (a2 : ℕ) (lr32 : L.r32 = true := by first | assumption | rfl) (lr64 : L.r64 = true := by first | assumption | rfl) (lfree : L.free = true := by first | assumption | rfl) (lmem : L.mem = true := by first | assumption | rfl) (lhost : L.host = true := by first | assumption | rfl) (llink : L.link = true := by first | assumption | rfl) (lpower : L.power = true := by first | assumption | rfl) (lboot : L.boot = true := by first | assumption | rfl) (lsquall : L.squall = true := by first | assumption | rfl) (ltm : L.tm = true := by first | assumption | rfl) (lcirrus : L.cirrus = true := by first | assumption | rfl) (m : within 0x1502800100100001000580170080000000000000000000000822801b8000000000000a001082000 L.regs = true := by first | with_reducible assumption | (refine within_trans (by assumption) ?_; exact rfl) | rfl) :
    Keeps L s0 (State.laneRetire s a2) := by
  unfold State.laneRetire
  with_reducible repeat' first | assumption | intro _ | apply keeps_ite | exact has_ok m rfl | exact within_trans m rfl | apply State.blow_keeps | apply State.wr_keeps | apply State.sayRetired_keeps | apply State.laneSafe_keeps | apply keeps_snd_ite | dsimp only | split

theorem State.chRetire_keeps (h : Keeps L s0 s) (a2 : ℕ) (lr32 : L.r32 = true := by first | assumption | rfl) (lr64 : L.r64 = true := by first | assumption | rfl) (lfree : L.free = true := by first | assumption | rfl) (lmem : L.mem = true := by first | assumption | rfl) (lhost : L.host = true := by first | assumption | rfl) (lpower : L.power = true := by first | assumption | rfl) (lboot : L.boot = true := by first | assumption | rfl) (lsquall : L.squall = true := by first | assumption | rfl) (ltm : L.tm = true := by first | assumption | rfl) (m : within 0x1507800000000001000400030000000000000000000000000822801b8000000000000c001082000 L.regs = true := by first | with_reducible assumption | (refine within_trans (by assumption) ?_; exact rfl) | rfl) :
    Keeps L s0 (State.chRetire s a2) := by
  unfold State.chRetire
  with_reducible repeat' first | assumption | intro _ | apply keeps_ite | exact has_ok m rfl | exact within_trans m rfl | apply State.sayRetired_keeps | apply State.blow_keeps | apply State.channelLost_keeps | apply State.fset_keeps | apply keeps_snd_ite | dsimp only | split

theorem State.tileDrop_keeps (h : Keeps L s0 s) (a2 : ℕ) (lr32 : L.r32 = true := by first | assumption | rfl) (lr64 : L.r64 = true := by first | assumption | rfl) (lfree : L.free = true := by first | assumption | rfl) (lmem : L.mem = true := by first | assumption | rfl) (lhost : L.host = true := by first | assumption | rfl) (lpower : L.power = true := by first | assumption | rfl) (lsquall : L.squall = true := by first | assumption | rfl) (ltm : L.tm = true := by first | assumption | rfl) (lcirrus : L.cirrus = true := by first | assumption | rfl) (m : within 0x1502800000000001000580130080000000000000000000000822801b80000000000008001082000 L.regs = true := by first | with_reducible assumption | (refine within_trans (by assumption) ?_; exact rfl) | rfl) :
    Keeps L s0 (State.tileDrop s a2) := by
  unfold State.tileDrop
  with_reducible repeat' first | assumption | intro _ | apply keeps_ite | exact has_ok m rfl | exact within_trans m rfl | apply State.each_keeps | apply State.flushQueue_keeps | apply State.killFrame_keeps | apply keeps_snd_ite | dsimp only | split

theorem State.tileRetire_keeps (h : Keeps L s0 s) (a2 : ℕ) (lr32 : L.r32 = true := by first | assumption | rfl) (lr64 : L.r64 = true := by first | assumption | rfl) (lfree : L.free = true := by first | assumption | rfl) (lmem : L.mem = true := by first | assumption | rfl) (lhost : L.host = true := by first | assumption | rfl) (llink : L.link = true := by first | assumption | rfl) (lpower : L.power = true := by first | assumption | rfl) (lboot : L.boot = true := by first | assumption | rfl) (lsquall : L.squall = true := by first | assumption | rfl) (ltm : L.tm = true := by first | assumption | rfl) (lcirrus : L.cirrus = true := by first | assumption | rfl) (lte : L.te = true := by first | assumption | rfl) (m : within 0x1502800100100001000580170080000048000000000000000822801b800000000000084f1082000 L.regs = true := by first | with_reducible assumption | (refine within_trans (by assumption) ?_; exact rfl) | rfl) :
    Keeps L s0 (State.tileRetire s a2) := by
  unfold State.tileRetire
  with_reducible repeat' first | assumption | intro _ | apply keeps_ite | exact has_ok m rfl | exact within_trans m rfl | apply State.blow_keeps | apply State.requestReset_keeps | apply State.fset_keeps | apply State.each_keeps | apply State.portSafe_keeps | apply State.abortIf_keeps | apply State.tileDrop_keeps | apply State.sayRetired_keeps | apply keeps_snd_ite | dsimp only | split

theorem State.voqSafe_keeps (h : Keeps L s0 s) (a2 : ℕ) (a3 : ℕ) (lr32 : L.r32 = true := by first | assumption | rfl) (lr64 : L.r64 = true := by first | assumption | rfl) (lfree : L.free = true := by first | assumption | rfl) (lmem : L.mem = true := by first | assumption | rfl) (lhost : L.host = true := by first | assumption | rfl) (lpower : L.power = true := by first | assumption | rfl) (lsquall : L.squall = true := by first | assumption | rfl) (ltm : L.tm = true := by first | assumption | rfl) (m : within 0x1502800000000001000580130080000000000000000000000822801b80000000000008001082000 L.regs = true := by first | with_reducible assumption | (refine within_trans (by assumption) ?_; exact rfl) | rfl) :
    Keeps L s0 (State.voqSafe s a2 a3) := by
  unfold State.voqSafe
  with_reducible repeat' first | assumption | intro _ | apply keeps_ite | exact has_ok m rfl | exact within_trans m rfl | apply State.pgScan_keeps | apply State.flushQueue_keeps | apply State.setVoq_keeps | apply keeps_snd_ite | dsimp only | split

theorem State.cellOut_keeps (h : Keeps L s0 s) (a2 : ℕ) (a3 : ℕ) (lr32 : L.r32 = true := by first | assumption | rfl) (ltm : L.tm = true := by first | assumption | rfl) (m : within 0x400000080000000000000000000000000000000000000000001000000000 L.regs = true := by first | with_reducible assumption | (refine within_trans (by assumption) ?_; exact rfl) | rfl) :
    Keeps L s0 (State.cellOut s a2 a3) := by
  unfold State.cellOut
  with_reducible repeat' first | assumption | intro _ | apply keeps_ite | exact has_ok m rfl | exact within_trans m rfl | apply State.setBuf_keeps | apply State.when_keeps | apply State.fset_keeps | apply State.pgScan_keeps | apply keeps_snd_ite | dsimp only | split

theorem State.bankSafe_keeps (h : Keeps L s0 s) (a2 : ℕ) (a3 : ℕ) (a4 : ℕ) (lr32 : L.r32 = true := by first | assumption | rfl) (lr64 : L.r64 = true := by first | assumption | rfl) (lhost : L.host = true := by first | assumption | rfl) (lsquall : L.squall = true := by first | assumption | rfl) (ltm : L.tm = true := by first | assumption | rfl) (lte : L.te = true := by first | assumption | rfl) (m : within 0x20000000000000004000000800000480000000000000000000018000000000000000f0000000 L.regs = true := by first | with_reducible assumption | (refine within_trans (by assumption) ?_; exact rfl) | rfl) :
    Keeps L s0 (State.bankSafe s a2 a3 a4) := by
  unfold State.bankSafe
  with_reducible repeat' first | assumption | intro _ | apply keeps_ite | exact has_ok m rfl | exact within_trans m rfl | apply State.abortIf_keeps | apply keeps_snd_ite | dsimp only | split | exact Or.inl (by assumption) | exact Or.inr rfl | refine keeps_mk ?_ rfl rfl ?_ ?_ ?_ ?_ ?_ ?_ ?_ ?_ ?_ ?_ ?_ ?_ ?_ ?_

theorem State.pcieFault_keeps (h : Keeps L s0 s) (lhost : L.host = true := by first | assumption | rfl) :
    Keeps L s0 (State.pcieFault s) := by
  unfold State.pcieFault
  with_reducible repeat' first | assumption | intro _ | apply keeps_ite | apply keeps_snd_ite | dsimp only | split | exact Or.inl (by assumption) | exact Or.inr rfl | refine keeps_mk ?_ rfl rfl ?_ ?_ ?_ ?_ ?_ ?_ ?_ ?_ ?_ ?_ ?_ ?_ ?_ ?_

theorem State.chSafe_keeps (h : Keeps L s0 s) (a2 : ℕ) (lr32 : L.r32 = true := by first | assumption | rfl) (lr64 : L.r64 = true := by first | assumption | rfl) (lfree : L.free = true := by first | assumption | rfl) (lmem : L.mem = true := by first | assumption | rfl) (lhost : L.host = true := by first | assumption | rfl) (lpower : L.power = true := by first | assumption | rfl) (lsquall : L.squall = true := by first | assumption | rfl) (ltm : L.tm = true := by first | assumption | rfl) (lte : L.te = true := by first | assumption | rfl) (m : within 0x1507800000000001000400030080000048000000000000000822801b800000000000080f1082000 L.regs = true := by first | with_reducible assumption | (refine within_trans (by assumption) ?_; exact rfl) | rfl) :
    Keeps L s0 (State.chSafe s a2) := by
  unfold State.chSafe
  with_reducible repeat' first | assumption | intro _ | apply keeps_ite | exact has_ok m rfl | exact within_trans m rfl | apply State.channelLost_keeps | apply State.abortIf_keeps | apply State.fset_keeps | apply keeps_snd_ite | dsimp only | split

theorem State.recLost_keeps (h : Keeps L s0 s) (a2 : ℕ) (a3 : ℕ) (a4 : ℕ) (lr32 : L.r32 = true := by first | assumption | rfl) (lr64 : L.r64 = true := by first | assumption | rfl) (lfree : L.free = true := by first | assumption | rfl) (lmem : L.mem = true := by first | assumption | rfl) (lhost : L.host = true := by first | assumption | rfl) (lsquall : L.squall = true := by first | assumption | rfl) (ltm : L.tm = true := by first | assumption | rfl) (m : within 0x1400000000000001000000030000000000000000000000000822801b80000000000000001082000 L.regs = true := by first | with_reducible assumption | (refine within_trans (by assumption) ?_; exact rfl) | rfl) :
    Keeps L s0 (State.recLost s a2 a3 a4) := by
  unfold State.recLost
  with_reducible repeat' first | assumption | intro _ | apply keeps_ite | exact has_ok m rfl | exact within_trans m rfl | apply State.discard_keeps | apply State.setVoq_keeps | apply State.setAnvUsed_keeps | apply keeps_snd_ite | dsimp only | split

theorem State.pageFails_keeps (h : Keeps L s0 s) (a2 : ℕ) (a3 : ℕ) (a4 : ℕ) (lr32 : L.r32 = true := by first | assumption | rfl) (lr64 : L.r64 = true := by first | assumption | rfl) (lfree : L.free = true := by first | assumption | rfl) (lmem : L.mem = true := by first | assumption | rfl) (lhost : L.host = true := by first | assumption | rfl) (lpower : L.power = true := by first | assumption | rfl) (lsquall : L.squall = true := by first | assumption | rfl) (ltm : L.tm = true := by first | assumption | rfl) (m : within 0x1582800000000001000400030000000000000000000000000822801b8000000000000c001082000 L.regs = true := by first | with_reducible assumption | (refine within_trans (by assumption) ?_; exact rfl) | rfl) :
    Keeps L s0 (State.pageFails s a2 a3 a4) := by
  unfold State.pageFails
  with_reducible repeat' first | assumption | intro _ | apply keeps_ite | exact has_ok m rfl | exact within_trans m rfl | apply State.each_keeps | apply State.recLost_keeps | apply State.loseFrom_keeps | apply State.pgScan_keeps | apply State.voqNorm_keeps | apply State.settlePages_keeps | apply State.drainCheck_keeps | apply State.retirePage_keeps | apply State.bump_keeps | apply keeps_snd_ite | dsimp only | split

theorem State.unitSafe_keeps (h : Keeps L s0 s) (a2 : ℕ) (a3 : ℕ) (a4 : ℕ) (lr32 : L.r32 = true := by first | assumption | rfl) (lr64 : L.r64 = true := by first | assumption | rfl) (lfree : L.free = true := by first | assumption | rfl) (lmem : L.mem = true := by first | assumption | rfl) (lhost : L.host = true := by first | assumption | rfl) (llink : L.link = true := by first | assumption | rfl) (lpower : L.power = true := by first | assumption | rfl) (lboot : L.boot = true := by first | assumption | rfl) (lsquall : L.squall = true := by first | assumption | rfl) (ltm : L.tm = true := by first | assumption | rfl) (lhalo : L.halo = true := by first | assumption | rfl) (lcirrus : L.cirrus = true := by first | assumption | rfl) (lte : L.te = true := by first | assumption | rfl) (m : within 0x1587800100100001000580170080000048000000000000400822801b8000000000000dcf1082000 L.regs = true := by first | with_reducible assumption | (refine within_trans (by assumption) ?_; exact rfl) | rfl) :
    Keeps L s0 (State.unitSafe s a2 a3 a4) := by
  unfold State.unitSafe
  with_reducible repeat' first | assumption | intro _ | apply keeps_ite | exact has_ok m rfl | exact within_trans m rfl | apply State.when_keeps | apply State.setLane_keeps | apply State.abortIf_keeps | apply State.laneSafe_keeps | apply State.portSafe_keeps | apply State.voqSafe_keeps | apply State.cellOut_keeps | apply State.bump_keeps | apply State.tblDrop_keeps | apply State.bankSafe_keeps | apply State.setPipe_keeps | apply State.linkOut_keeps | apply State.flowFree_keeps | apply State.chSafe_keeps | apply State.pageFails_keeps | apply State.pcieFault_keeps | apply State.fset_keeps | apply keeps_snd_ite | dsimp only | split | exact Or.inl (by assumption) | exact Or.inr rfl | refine keeps_mk ?_ rfl rfl ?_ ?_ ?_ ?_ ?_ ?_ ?_ ?_ ?_ ?_ ?_ ?_ ?_ ?_

theorem execFaultDetect_keeps (h : Keeps L s0 s) (a1 : ℕ) (a2 : ℕ) (a3 : BitVec 48) (lr32 : L.r32 = true := by first | assumption | rfl) (lr64 : L.r64 = true := by first | assumption | rfl) (lfree : L.free = true := by first | assumption | rfl) (lmem : L.mem = true := by first | assumption | rfl) (lhost : L.host = true := by first | assumption | rfl) (llink : L.link = true := by first | assumption | rfl) (lpower : L.power = true := by first | assumption | rfl) (lboot : L.boot = true := by first | assumption | rfl) (lsquall : L.squall = true := by first | assumption | rfl) (ltm : L.tm = true := by first | assumption | rfl) (lhalo : L.halo = true := by first | assumption | rfl) (lcirrus : L.cirrus = true := by first | assumption | rfl) (lte : L.te = true := by first | assumption | rfl) (m : within 0x15878001001000010005801700a0000048000000000000400822801b8000000000000dcf1082000 L.regs = true := by first | with_reducible assumption | (refine within_trans (by assumption) ?_; exact rfl) | rfl) :
    ∃ t, execFaultDetect a1 a2 a3 s = .next t ∧ Keeps L s0 t := by
  unfold execFaultDetect
  refine ⟨_, rfl, ?_⟩
  with_reducible repeat' first | assumption | intro _ | apply keeps_ite | exact has_ok m rfl | exact within_trans m rfl | apply State.tblBad_keeps | apply State.unitSafe_keeps | apply State.report_keeps | apply keeps_snd_ite | dsimp only | split

theorem State.tileReset_keeps (h : Keeps L s0 s) (a2 : ℕ) (a3 : ℕ) (lr32 : L.r32 = true := by first | assumption | rfl) (lr64 : L.r64 = true := by first | assumption | rfl) (lhost : L.host = true := by first | assumption | rfl) (lsquall : L.squall = true := by first | assumption | rfl) (ltm : L.tm = true := by first | assumption | rfl) (lcirrus : L.cirrus = true := by first | assumption | rfl) (lte : L.te = true := by first | assumption | rfl) (m : within 0x20000000000000004000000800000480000000000000000000018000000000000000f0002000 L.regs = true := by first | with_reducible assumption | (refine within_trans (by assumption) ?_; exact rfl) | rfl) :
    Keeps L s0 (State.tileReset s a2 a3) := by
  unfold State.tileReset
  with_reducible repeat' first | assumption | intro _ | apply keeps_ite | exact has_ok m rfl | exact within_trans m rfl | apply State.startMask_keeps | apply State.abortIf_keeps | apply State.setPipe_keeps | apply keeps_snd_ite | dsimp only | split | exact Or.inl (by assumption) | exact Or.inr rfl | refine keeps_mk ?_ rfl rfl ?_ ?_ ?_ ?_ ?_ ?_ ?_ ?_ ?_ ?_ ?_ ?_ ?_ ?_

theorem execBlockResetDrained_keeps (h : Keeps L s0 s) (a1 : ℕ) (lr32 : L.r32 = true := by first | assumption | rfl) (lr64 : L.r64 = true := by first | assumption | rfl) (lsquall : L.squall = true := by first | assumption | rfl) (lcirrus : L.cirrus = true := by first | assumption | rfl) (m : within 0x14000000000000000000000000000001800003e0000000000000000000000000000000000000000 L.regs = true := by first | with_reducible assumption | (refine within_trans (by assumption) ?_; exact rfl) | rfl) :
    ∃ t, execBlockResetDrained a1 s = .next t ∧ Keeps L s0 t := by
  unfold execBlockResetDrained
  refine ⟨_, rfl, ?_⟩
  with_reducible repeat' first | assumption | intro _ | apply keeps_ite | exact has_ok m rfl | exact within_trans m rfl | apply State.each_keeps | apply State.abandon_keeps | apply keeps_snd_ite | dsimp only | split | exact Or.inl (by assumption) | exact Or.inr rfl | refine keeps_mk ?_ rfl rfl ?_ ?_ ?_ ?_ ?_ ?_ ?_ ?_ ?_ ?_ ?_ ?_ ?_ ?_

theorem State.release516_keeps (h : Keeps L s0 s) (a2 : ℕ) (lsquall : L.squall = true := by first | assumption | rfl) :
    Keeps L s0 (State.release516 s a2) := by
  unfold State.release516
  with_reducible repeat' first | assumption | intro _ | apply keeps_ite | apply keeps_snd_ite | dsimp only | split | exact Or.inl (by assumption) | exact Or.inr rfl | refine keeps_mk ?_ rfl rfl ?_ ?_ ?_ ?_ ?_ ?_ ?_ ?_ ?_ ?_ ?_ ?_ ?_ ?_

theorem State.standIn_keeps (h : Keeps L s0 s) (a2 : ℕ) (a3 : ℕ) (lr32 : L.r32 = true := by first | assumption | rfl) (m : within 0x48000000000000000000000000000000000000400000000 L.regs = true := by first | with_reducible assumption | (refine within_trans (by assumption) ?_; exact rfl) | rfl) :
    Keeps L s0 (State.standIn s a2 a3) := by
  unfold State.standIn
  with_reducible repeat' first | assumption | intro _ | apply keeps_ite | exact has_ok m rfl | exact within_trans m rfl | apply State.fset_keeps | apply State.setRole_keeps | apply keeps_snd_ite | dsimp only | split

theorem execBlockResetDone_keeps (h : Keeps L s0 s) (a1 : ℕ) (lr32 : L.r32 = true := by first | assumption | rfl) (lsquall : L.squall = true := by first | assumption | rfl) (lcirrus : L.cirrus = true := by first | assumption | rfl) (m : within 0x48000000000000000000000000000000000000400000000 L.regs = true := by first | with_reducible assumption | (refine within_trans (by assumption) ?_; exact rfl) | rfl) :
    ∃ t, execBlockResetDone a1 s = .next t ∧ Keeps L s0 t := by
  unfold execBlockResetDone
  refine ⟨_, rfl, ?_⟩
  with_reducible repeat' first | assumption | intro _ | apply keeps_ite | exact has_ok m rfl | exact within_trans m rfl | apply State.release516_keeps | apply State.setPipe_keeps | apply State.dispatchHeld_keeps | apply State.when_keeps | apply State.standIn_keeps | apply keeps_snd_ite | dsimp only | split | exact Or.inl (by assumption) | exact Or.inr rfl | refine keeps_mk ?_ rfl rfl ?_ ?_ ?_ ?_ ?_ ?_ ?_ ?_ ?_ ?_ ?_ ?_ ?_ ?_

theorem State.anvilReset_keeps (h : Keeps L s0 s) (lr32 : L.r32 = true := by first | assumption | rfl) (lr64 : L.r64 = true := by first | assumption | rfl) (lfree : L.free = true := by first | assumption | rfl) (lmem : L.mem = true := by first | assumption | rfl) (lhost : L.host = true := by first | assumption | rfl) (lsquall : L.squall = true := by first | assumption | rfl) (ltm : L.tm = true := by first | assumption | rfl) (m : within 0x1502800000000001000400030000000000000000000000000822801b80000000000000001082000 L.regs = true := by first | with_reducible assumption | (refine within_trans (by assumption) ?_; exact rfl) | rfl) :
    Keeps L s0 (State.anvilReset s) := by
  unfold State.anvilReset
  with_reducible repeat' first | assumption | intro _ | apply keeps_ite | exact has_ok m rfl | exact within_trans m rfl | apply State.fset_keeps | apply State.each_keeps | apply State.pgScan_keeps | apply State.voqNorm_keeps | apply State.settlePages_keeps | apply State.loseFrom_keeps | apply keeps_snd_ite | dsimp only | split

theorem State.privReset_keeps (h : Keeps L s0 s) (a2 : ℕ) (lr32 : L.r32 = true := by first | assumption | rfl) (lr64 : L.r64 = true := by first | assumption | rfl) (lfree : L.free = true := by first | assumption | rfl) (lmem : L.mem = true := by first | assumption | rfl) (lhost : L.host = true := by first | assumption | rfl) (lpower : L.power = true := by first | assumption | rfl) (lsquall : L.squall = true := by first | assumption | rfl) (ltm : L.tm = true := by first | assumption | rfl) (ltrust : L.trust = true := by first | assumption | rfl) (m : within 0x1502800000000001000400030000000000000000000000400822801b80000002080008001082000 L.regs = true := by first | with_reducible assumption | (refine within_trans (by assumption) ?_; exact rfl) | rfl) :
    Keeps L s0 (State.privReset s a2) := by
  unfold State.privReset
  with_reducible repeat' first | assumption | intro _ | apply keeps_ite | exact has_ok m rfl | exact within_trans m rfl | apply State.startMask_keeps | apply State.throttleNow_keeps | apply State.fset_keeps | apply State.toOp7_keeps | apply State.anvilReset_keeps | apply forN_keeps | apply keeps_snd_ite | dsimp only | split | exact Or.inl (by assumption) | exact Or.inr rfl | refine keeps_mk ?_ rfl rfl ?_ ?_ ?_ ?_ ?_ ?_ ?_ ?_ ?_ ?_ ?_ ?_ ?_ ?_

theorem execPrivBlockResetDone_keeps (h : Keeps L s0 s) (a1 : ℕ) (a2 : Bool) (lr32 : L.r32 = true := by first | assumption | rfl) (lr64 : L.r64 = true := by first | assumption | rfl) (lhost : L.host = true := by first | assumption | rfl) (lpower : L.power = true := by first | assumption | rfl) (lsquall : L.squall = true := by first | assumption | rfl) (ltm : L.tm = true := by first | assumption | rfl) (m : within 0x2800000000000000000000000000000000000000000400000001800000000001008000000000 L.regs = true := by first | with_reducible assumption | (refine within_trans (by assumption) ?_; exact rfl) | rfl) :
    ∃ t, execPrivBlockResetDone a1 a2 s = .next t ∧ Keeps L s0 t := by
  unfold execPrivBlockResetDone
  refine ⟨_, rfl, ?_⟩
  with_reducible repeat' first | assumption | intro _ | apply keeps_ite | exact has_ok m rfl | exact within_trans m rfl | apply State.release516_keeps | apply State.loopStart_keeps | apply State.fset_keeps | apply State.anvilTrained_keeps | apply keeps_snd_ite | dsimp only | split | exact Or.inl (by assumption) | exact Or.inr rfl | refine keeps_mk ?_ rfl rfl ?_ ?_ ?_ ?_ ?_ ?_ ?_ ?_ ?_ ?_ ?_ ?_ ?_ ?_

theorem execMaskSetExpire_keeps (h : Keeps L s0 s) (lr32 : L.r32 = true := by first | assumption | rfl) (lsquall : L.squall = true := by first | assumption | rfl) (m : within 0x2000 L.regs = true := by first | with_reducible assumption | (refine within_trans (by assumption) ?_; exact rfl) | rfl) :
    ∃ t, execMaskSetExpire s = .next t ∧ Keeps L s0 t := by
  unfold execMaskSetExpire
  refine ⟨_, rfl, ?_⟩
  with_reducible repeat' first | assumption | intro _ | apply keeps_ite | exact has_ok m rfl | exact within_trans m rfl | apply State.fset_keeps | apply keeps_snd_ite | dsimp only | split | exact Or.inl (by assumption) | exact Or.inr rfl | refine keeps_mk ?_ rfl rfl ?_ ?_ ?_ ?_ ?_ ?_ ?_ ?_ ?_ ?_ ?_ ?_ ?_ ?_

theorem State.retire_keeps (h : Keeps L s0 s) (a2 : ℕ × ℕ) (lr32 : L.r32 = true := by first | assumption | rfl) (lr64 : L.r64 = true := by first | assumption | rfl) (lfree : L.free = true := by first | assumption | rfl) (lmem : L.mem = true := by first | assumption | rfl) (lhost : L.host = true := by first | assumption | rfl) (llink : L.link = true := by first | assumption | rfl) (lpower : L.power = true := by first | assumption | rfl) (lboot : L.boot = true := by first | assumption | rfl) (lsquall : L.squall = true := by first | assumption | rfl) (ltm : L.tm = true := by first | assumption | rfl) (lcirrus : L.cirrus = true := by first | assumption | rfl) (lte : L.te = true := by first | assumption | rfl) (m : within 0x1507800100100001000580170080000048000000000000000822801b8000000000000e4f1082000 L.regs = true := by first | with_reducible assumption | (refine within_trans (by assumption) ?_; exact rfl) | rfl) :
    Keeps L s0 (State.retire s a2) := by
  unfold State.retire
  with_reducible repeat' first | assumption | intro _ | apply keeps_ite | exact has_ok m rfl | exact within_trans m rfl | apply State.sayRetired_keeps | apply State.pipeOut_keeps | apply State.laneRetire_keeps | apply State.chRetire_keeps | apply State.tileRetire_keeps | apply keeps_snd_ite | (refine keeps_of_eq (by assumption) ?_) | dsimp only | split

theorem State.countAct_keeps (h : Keeps L s0 s) (a2 : Msg) (lr32 : L.r32 = true := by first | assumption | rfl) (lr64 : L.r64 = true := by first | assumption | rfl) (lfree : L.free = true := by first | assumption | rfl) (lmem : L.mem = true := by first | assumption | rfl) (lhost : L.host = true := by first | assumption | rfl) (llink : L.link = true := by first | assumption | rfl) (lpower : L.power = true := by first | assumption | rfl) (lboot : L.boot = true := by first | assumption | rfl) (lsquall : L.squall = true := by first | assumption | rfl) (ltm : L.tm = true := by first | assumption | rfl) (lcirrus : L.cirrus = true := by first | assumption | rfl) (lte : L.te = true := by first | assumption | rfl) (m : within 0x1507800100100001000580170080000048000000000000000822801b8000000000000e4f1082000 L.regs = true := by first | with_reducible assumption | (refine within_trans (by assumption) ?_; exact rfl) | rfl) :
    Keeps L s0 (State.countAct s a2) := by
  unfold State.countAct
  with_reducible repeat' first | assumption | intro _ | apply keeps_ite | exact has_ok m rfl | exact within_trans m rfl | apply State.retire_keeps | apply keeps_snd_ite | dsimp only | split | exact Or.inl (by assumption) | exact Or.inr rfl | refine keeps_mk ?_ rfl rfl ?_ ?_ ?_ ?_ ?_ ?_ ?_ ?_ ?_ ?_ ?_ ?_ ?_ ?_

theorem State.sqVector_keeps (h : Keeps L s0 s) (lr32 : L.r32 = true := by first | assumption | rfl) (lhost : L.host = true := by first | assumption | rfl) (m : within 0x20000000000000000000000000000 L.regs = true := by first | with_reducible assumption | (refine within_trans (by assumption) ?_; exact rfl) | rfl) :
    Keeps L s0 (State.sqVector s) := by
  unfold State.sqVector
  with_reducible repeat' first | assumption | intro _ | apply keeps_ite | exact has_ok m rfl | exact within_trans m rfl | apply State.sendVec_keeps | apply keeps_snd_ite | dsimp only | split

theorem State.capture_keeps (h : Keeps L s0 s) (a2 : Msg) (a3 : ℕ) (lr32 : L.r32 = true := by first | assumption | rfl) (lr64 : L.r64 = true := by first | assumption | rfl) (lhost : L.host = true := by first | assumption | rfl) (m : within 0x2000000000000000000000002a000 L.regs = true := by first | with_reducible assumption | (refine within_trans (by assumption) ?_; exact rfl) | rfl) :
    Keeps L s0 (State.capture s a2 a3) := by
  unfold State.capture
  with_reducible repeat' first | assumption | intro _ | apply keeps_ite | exact has_ok m rfl | exact within_trans m rfl | apply State.bump_keeps | apply State.fset_keeps | apply State.sqVector_keeps | apply State.wr_keeps | apply forN_keeps | apply keeps_snd_ite | dsimp only | split

theorem State.react_keeps (h : Keeps L s0 s) (a2 : Msg) (a3 : ℕ) (lr32 : L.r32 = true := by first | assumption | rfl) (lr64 : L.r64 = true := by first | assumption | rfl) (lfree : L.free = true := by first | assumption | rfl) (lmem : L.mem = true := by first | assumption | rfl) (lhost : L.host = true := by first | assumption | rfl) (lpower : L.power = true := by first | assumption | rfl) (lboot : L.boot = true := by first | assumption | rfl) (lsquall : L.squall = true := by first | assumption | rfl) (ltm : L.tm = true := by first | assumption | rfl) (lcirrus : L.cirrus = true := by first | assumption | rfl) (lte : L.te = true := by first | assumption | rfl) (ltrust : L.trust = true := by first | assumption | rfl) (m : within 0x1502800000000001000400030080000048000000000000400822801b800000020800080f1382000 L.regs = true := by first | with_reducible assumption | (refine within_trans (by assumption) ?_; exact rfl) | rfl) :
    Keeps L s0 (State.react s a2 a3) := by
  unfold State.react
  with_reducible repeat' first | assumption | intro _ | apply keeps_ite | exact has_ok m rfl | exact within_trans m rfl | apply State.when_keeps | apply State.sqVector_keeps | apply State.fset_keeps | apply State.sendVec_keeps | apply State.privReset_keeps | apply State.requestReset_keeps | apply State.tileReset_keeps | apply keeps_snd_ite | dsimp only | split

theorem execSquallAccept_keeps (h : Keeps L s0 s) (lr32 : L.r32 = true := by first | assumption | rfl) (lr64 : L.r64 = true := by first | assumption | rfl) (lfree : L.free = true := by first | assumption | rfl) (lmem : L.mem = true := by first | assumption | rfl) (lhost : L.host = true := by first | assumption | rfl) (llink : L.link = true := by first | assumption | rfl) (lpower : L.power = true := by first | assumption | rfl) (lboot : L.boot = true := by first | assumption | rfl) (lsquall : L.squall = true := by first | assumption | rfl) (ltm : L.tm = true := by first | assumption | rfl) (lcirrus : L.cirrus = true := by first | assumption | rfl) (lte : L.te = true := by first | assumption | rfl) (ltrust : L.trust = true := by first | assumption | rfl) (m : within 0x1507800100100001000580170080000048000000000000400822801b8000000208000e4f13ea000 L.regs = true := by first | with_reducible assumption | (refine within_trans (by assumption) ?_; exact rfl) | rfl) :
    ∃ t, execSquallAccept s = .next t ∧ Keeps L s0 t := by
  unfold execSquallAccept
  refine ⟨_, rfl, ?_⟩
  with_reducible repeat' first | assumption | intro _ | apply keeps_ite | exact has_ok m rfl | exact within_trans m rfl | apply State.setPend_keeps | apply State.bump_keeps | apply State.countAct_keeps | apply State.react_keeps | apply State.capture_keeps | apply keeps_snd_ite | dsimp only | split | exact Or.inl (by assumption) | exact Or.inr rfl | refine keeps_mk ?_ rfl rfl ?_ ?_ ?_ ?_ ?_ ?_ ?_ ?_ ?_ ?_ ?_ ?_ ?_ ?_

theorem State.rearm_keeps (h : Keeps L s0 s) (a2 : ℕ) (lr32 : L.r32 = true := by first | assumption | rfl) (m : within 0x2000 L.regs = true := by first | with_reducible assumption | (refine within_trans (by assumption) ?_; exact rfl) | rfl) :
    Keeps L s0 (State.rearm s a2) := by
  unfold State.rearm
  with_reducible repeat' first | assumption | intro _ | apply keeps_ite | exact has_ok m rfl | exact within_trans m rfl | apply State.fset_keeps | apply keeps_snd_ite | dsimp only | split

theorem execFirstRearm_keeps (h : Keeps L s0 s) (lr32 : L.r32 = true := by first | assumption | rfl) (m : within 0x2000 L.regs = true := by first | with_reducible assumption | (refine within_trans (by assumption) ?_; exact rfl) | rfl) :
    ∃ t, execFirstRearm s = .next t ∧ Keeps L s0 t := by
  unfold execFirstRearm
  refine ⟨_, rfl, ?_⟩
  with_reducible repeat' first | assumption | intro _ | apply keeps_ite | exact has_ok m rfl | exact within_trans m rfl | apply State.rearm_keeps | apply keeps_snd_ite | dsimp only | split

theorem execRootPllRelock_keeps (h : Keeps L s0 s) (lr32 : L.r32 = true := by first | assumption | rfl) (lboot : L.boot = true := by first | assumption | rfl) (m : within 0x2000 L.regs = true := by first | with_reducible assumption | (refine within_trans (by assumption) ?_; exact rfl) | rfl) :
    ∃ t, execRootPllRelock s = .next t ∧ Keeps L s0 t := by
  unfold execRootPllRelock
  refine ⟨_, rfl, ?_⟩
  with_reducible repeat' first | assumption | intro _ | apply keeps_ite | exact has_ok m rfl | exact within_trans m rfl | apply State.fset_keeps | apply keeps_snd_ite | dsimp only | split | exact Or.inl (by assumption) | exact Or.inr rfl | refine keeps_mk ?_ rfl rfl ?_ ?_ ?_ ?_ ?_ ?_ ?_ ?_ ?_ ?_ ?_ ?_ ?_ ?_

end Sys2Proof.Machine
end

