-- ==== Sys2Proof/Laws/KeepsBist.lean ====
section
/-!
SUPPORT. What each operation and each command of `Machine/Bist.lean` (BIST) leaves alone, in the terms of `Laws/Keeps.lean`.
-/

set_option Elab.async false

set_option linter.unusedTactic false
set_option linter.unreachableTactic false
set_option linter.unusedVariables false
namespace Sys2Proof.Machine

variable {L : Touch} {s0 s : State}

theorem State.claimUnit_keeps (h : Keeps L s0 s) (a2 : ℕ) (a3 : Slice) (lr32 : L.r32 = true := by first | assumption | rfl) (lr64 : L.r64 = true := by first | assumption | rfl) (ltm : L.tm = true := by first | assumption | rfl) (lcirrus : L.cirrus = true := by first | assumption | rfl) (lte : L.te = true := by first | assumption | rfl) (m : within 0x14020000000000000004000000900001c80003e0000000000000000000000000000000000000000 L.regs = true := by first | with_reducible assumption | (refine within_trans (by assumption) ?_; exact rfl) | rfl) :
    Keeps L s0 (State.claimUnit s a2 a3) := by
  unfold State.claimUnit
  with_reducible repeat' first | assumption | intro _ | apply keeps_ite | exact has_ok m rfl | exact within_trans m rfl | apply State.each_keeps | apply State.abandon_keeps | apply State.setRole_keeps | apply State.fset_keeps | apply State.pgScan_keeps | apply keeps_snd_ite | dsimp only | split | exact Or.inl (by assumption) | exact Or.inr rfl | refine keeps_mk ?_ rfl rfl ?_ ?_ ?_ ?_ ?_ ?_ ?_ ?_ ?_ ?_ ?_ ?_ ?_ ?_

theorem State.claim_keeps (h : Keeps L s0 s) (a2 : ℕ) (a3 : Slice) (lr32 : L.r32 = true := by first | assumption | rfl) (lr64 : L.r64 = true := by first | assumption | rfl) (lsquall : L.squall = true := by first | assumption | rfl) (ltm : L.tm = true := by first | assumption | rfl) (lcirrus : L.cirrus = true := by first | assumption | rfl) (lte : L.te = true := by first | assumption | rfl) (m : within 0x14020000000000000004000000900001c80003e0000000000000000000000000000000010000000 L.regs = true := by first | with_reducible assumption | (refine within_trans (by assumption) ?_; exact rfl) | rfl) :
    Keeps L s0 (State.claim s a2 a3) := by
  unfold State.claim
  with_reducible repeat' first | assumption | intro _ | apply keeps_ite | exact has_ok m rfl | exact within_trans m rfl | apply State.setSlice_keeps | apply State.claimUnit_keeps | apply keeps_snd_ite | dsimp only | split

theorem State.takeUnit_keeps (h : Keeps L s0 s) (a2 : ℕ) (a3 : Slice) {a4 : State → State} (ha4 : ∀ s, Keeps L s0 s → Keeps L s0 (a4 s)) (lr32 : L.r32 = true := by first | assumption | rfl) (lr64 : L.r64 = true := by first | assumption | rfl) (lhost : L.host = true := by first | assumption | rfl) (lsquall : L.squall = true := by first | assumption | rfl) (ltm : L.tm = true := by first | assumption | rfl) (lcirrus : L.cirrus = true := by first | assumption | rfl) (lte : L.te = true := by first | assumption | rfl) (m : within 0x14020000000000000004000000900001c80003e0000000000000001800000000000000270000000 L.regs = true := by first | with_reducible assumption | (refine within_trans (by assumption) ?_; exact rfl) | rfl) :
    Keeps L s0 (State.takeUnit s a2 a3 a4) := by
  unfold State.takeUnit
  with_reducible repeat' first | assumption | intro _ | apply keeps_ite | exact has_ok m rfl | exact within_trans m rfl | apply ha4 | apply State.planCheck_keeps | apply State.bump_keeps | apply State.showSlice_keeps | apply State.setSlice_keeps | apply State.claim_keeps | apply keeps_snd_ite | dsimp only | split

theorem State.nextSlice_keeps (h : Keeps L s0 s) (a2 : ℕ) (lr32 : L.r32 = true := by first | assumption | rfl) (lr64 : L.r64 = true := by first | assumption | rfl) (lhost : L.host = true := by first | assumption | rfl) (lsquall : L.squall = true := by first | assumption | rfl) (ltm : L.tm = true := by first | assumption | rfl) (lcirrus : L.cirrus = true := by first | assumption | rfl) (lte : L.te = true := by first | assumption | rfl) (m : within 0x14020000000000000004000000900001c80003e0000000000000001800000000000000270000000 L.regs = true := by first | with_reducible assumption | (refine within_trans (by assumption) ?_; exact rfl) | rfl) :
    Keeps L s0 (State.nextSlice s a2) := by
  unfold State.nextSlice
  with_reducible repeat' first | assumption | intro _ | apply keeps_ite | exact has_ok m rfl | exact within_trans m rfl | apply State.takeUnit_keeps | apply keeps_snd_ite | dsimp only | split | exact Or.inl (by assumption) | exact Or.inr rfl | refine keeps_mk ?_ rfl rfl ?_ ?_ ?_ ?_ ?_ ?_ ?_ ?_ ?_ ?_ ?_ ?_ ?_ ?_

theorem execBistSliceStart_keeps (h : Keeps L s0 s) (a1 : ℕ) (lr32 : L.r32 = true := by first | assumption | rfl) (lr64 : L.r64 = true := by first | assumption | rfl) (lhost : L.host = true := by first | assumption | rfl) (lsquall : L.squall = true := by first | assumption | rfl) (ltm : L.tm = true := by first | assumption | rfl) (lcirrus : L.cirrus = true := by first | assumption | rfl) (lte : L.te = true := by first | assumption | rfl) (m : within 0x14020000000000000004000000900001c80003e0000000000000001800000000000000270000000 L.regs = true := by first | with_reducible assumption | (refine within_trans (by assumption) ?_; exact rfl) | rfl) :
    ∃ t, execBistSliceStart a1 s = .next t ∧ Keeps L s0 t := by
  unfold execBistSliceStart
  refine ⟨_, rfl, ?_⟩
  with_reducible repeat' first | assumption | intro _ | apply keeps_ite | exact has_ok m rfl | exact within_trans m rfl | apply State.claim_keeps | apply State.nextSlice_keeps | apply keeps_snd_ite | dsimp only | split

theorem State.bistFiring_keeps (h : Keeps L s0 s) (a2 : ℕ) (lr32 : L.r32 = true := by first | assumption | rfl) (lr64 : L.r64 = true := by first | assumption | rfl) (lhost : L.host = true := by first | assumption | rfl) (lsquall : L.squall = true := by first | assumption | rfl) (ltm : L.tm = true := by first | assumption | rfl) (lcirrus : L.cirrus = true := by first | assumption | rfl) (lte : L.te = true := by first | assumption | rfl) (m : within 0x14020000000000000004000000900001c80003e0000000000000001800000000000000270000000 L.regs = true := by first | with_reducible assumption | (refine within_trans (by assumption) ?_; exact rfl) | rfl) :
    Keeps L s0 (State.bistFiring s a2) := by
  unfold State.bistFiring
  with_reducible repeat' first | assumption | intro _ | apply keeps_ite | exact has_ok m rfl | exact within_trans m rfl | apply State.nextSlice_keeps | apply forN_keeps | apply keeps_snd_ite | dsimp only | split

theorem State.runPlan_keeps (h : Keeps L s0 s) (lr32 : L.r32 = true := by first | assumption | rfl) (lr64 : L.r64 = true := by first | assumption | rfl) (lhost : L.host = true := by first | assumption | rfl) (lsquall : L.squall = true := by first | assumption | rfl) (m : within 0x1800000000000000010000000 L.regs = true := by first | with_reducible assumption | (refine within_trans (by assumption) ?_; exact rfl) | rfl) :
    Keeps L s0 (State.runPlan s) := by
  unfold State.runPlan
  with_reducible repeat' first | assumption | intro _ | apply keeps_ite | exact has_ok m rfl | exact within_trans m rfl | apply State.planCheck_keeps | apply State.fset_keeps | apply forN_keeps | apply keeps_snd_ite | dsimp only | split | exact Or.inl (by assumption) | exact Or.inr rfl | refine keeps_mk ?_ rfl rfl ?_ ?_ ?_ ?_ ?_ ?_ ?_ ?_ ?_ ?_ ?_ ?_ ?_ ?_

theorem State.runOne_keeps (h : Keeps L s0 s) (lr32 : L.r32 = true := by first | assumption | rfl) (lr64 : L.r64 = true := by first | assumption | rfl) (lhost : L.host = true := by first | assumption | rfl) (lsquall : L.squall = true := by first | assumption | rfl) (ltm : L.tm = true := by first | assumption | rfl) (lcirrus : L.cirrus = true := by first | assumption | rfl) (lte : L.te = true := by first | assumption | rfl) (m : within 0x14020000000000000004000000900001c80003e0000000000000001800000000000000270000000 L.regs = true := by first | with_reducible assumption | (refine within_trans (by assumption) ?_; exact rfl) | rfl) : Keeps L s0 (State.runOne s) :=
  keeps_ite h (State.takeUnit_keeps h _ _ (fun _ h => h))

theorem State.bistStop_keeps (h : Keeps L s0 s) (lr32 : L.r32 = true := by first | assumption | rfl) (lr64 : L.r64 = true := by first | assumption | rfl) (lhost : L.host = true := by first | assumption | rfl) (lsquall : L.squall = true := by first | assumption | rfl) (ltm : L.tm = true := by first | assumption | rfl) (lte : L.te = true := by first | assumption | rfl) (m : within 0x20000000000000004000000800000480000000000000000000018000000000000000f0000000 L.regs = true := by first | with_reducible assumption | (refine within_trans (by assumption) ?_; exact rfl) | rfl) :
    Keeps L s0 (State.bistStop s) := by
  unfold State.bistStop
  with_reducible repeat' first | assumption | intro _ | apply keeps_ite | exact has_ok m rfl | exact within_trans m rfl | apply State.endSlice_keeps | apply State.fset_keeps | apply forN_keeps | apply keeps_snd_ite | dsimp only | split | exact Or.inl (by assumption) | exact Or.inr rfl | refine keeps_mk ?_ rfl rfl ?_ ?_ ?_ ?_ ?_ ?_ ?_ ?_ ?_ ?_ ?_ ?_ ?_ ?_

theorem State.bistCtlWrite_keeps (h : Keeps L s0 s) (a2 : Word) (lr32 : L.r32 = true := by first | assumption | rfl) (lr64 : L.r64 = true := by first | assumption | rfl) (lhost : L.host = true := by first | assumption | rfl) (lsquall : L.squall = true := by first | assumption | rfl) (ltm : L.tm = true := by first | assumption | rfl) (lcirrus : L.cirrus = true := by first | assumption | rfl) (lte : L.te = true := by first | assumption | rfl) (m : within 0x14020000000000000004000000900001c80003e00000000000000018000000000000002f2000000 L.regs = true := by first | with_reducible assumption | (refine within_trans (by assumption) ?_; exact rfl) | rfl) :
    Keeps L s0 (State.bistCtlWrite s a2) := by
  unfold State.bistCtlWrite
  with_reducible repeat' first | assumption | intro _ | apply keeps_ite | exact has_ok m rfl | exact within_trans m rfl | apply State.wr_keeps | apply State.runPlan_keeps | apply State.runOne_keeps | apply State.bistStop_keeps | apply keeps_snd_ite | dsimp only | split

theorem execBistRunPlan_keeps (h : Keeps L s0 s) (a1 : Word) (lr32 : L.r32 = true := by first | assumption | rfl) (lr64 : L.r64 = true := by first | assumption | rfl) (lhost : L.host = true := by first | assumption | rfl) (lsquall : L.squall = true := by first | assumption | rfl) (ltm : L.tm = true := by first | assumption | rfl) (lcirrus : L.cirrus = true := by first | assumption | rfl) (lte : L.te = true := by first | assumption | rfl) (m : within 0x14020000000000000004000000900001c80003e00000000000000018000000000000002f2000000 L.regs = true := by first | with_reducible assumption | (refine within_trans (by assumption) ?_; exact rfl) | rfl) :
    ∃ t, execBistRunPlan a1 s = .next t ∧ Keeps L s0 t := by
  unfold execBistRunPlan
  refine ⟨_, rfl, ?_⟩
  with_reducible repeat' first | assumption | intro _ | apply keeps_ite | exact has_ok m rfl | exact within_trans m rfl | apply State.bistCtlWrite_keeps | apply keeps_snd_ite | dsimp only | split

theorem execBistRunOne_keeps (h : Keeps L s0 s) (a1 : Word) (lr32 : L.r32 = true := by first | assumption | rfl) (lr64 : L.r64 = true := by first | assumption | rfl) (lhost : L.host = true := by first | assumption | rfl) (lsquall : L.squall = true := by first | assumption | rfl) (ltm : L.tm = true := by first | assumption | rfl) (lcirrus : L.cirrus = true := by first | assumption | rfl) (lte : L.te = true := by first | assumption | rfl) (m : within 0x14020000000000000004000000900001c80003e00000000000000018000000000000002f2000000 L.regs = true := by first | with_reducible assumption | (refine within_trans (by assumption) ?_; exact rfl) | rfl) :
    ∃ t, execBistRunOne a1 s = .next t ∧ Keeps L s0 t := by
  unfold execBistRunOne
  refine ⟨_, rfl, ?_⟩
  with_reducible repeat' first | assumption | intro _ | apply keeps_ite | exact has_ok m rfl | exact within_trans m rfl | apply State.bistCtlWrite_keeps | apply keeps_snd_ite | dsimp only | split

theorem execBistStop_keeps (h : Keeps L s0 s) (a1 : Word) (lr32 : L.r32 = true := by first | assumption | rfl) (lr64 : L.r64 = true := by first | assumption | rfl) (lhost : L.host = true := by first | assumption | rfl) (lsquall : L.squall = true := by first | assumption | rfl) (ltm : L.tm = true := by first | assumption | rfl) (lcirrus : L.cirrus = true := by first | assumption | rfl) (lte : L.te = true := by first | assumption | rfl) (m : within 0x14020000000000000004000000900001c80003e00000000000000018000000000000002f2000000 L.regs = true := by first | with_reducible assumption | (refine within_trans (by assumption) ?_; exact rfl) | rfl) :
    ∃ t, execBistStop a1 s = .next t ∧ Keeps L s0 t := by
  unfold execBistStop
  refine ⟨_, rfl, ?_⟩
  with_reducible repeat' first | assumption | intro _ | apply keeps_ite | exact has_ok m rfl | exact within_trans m rfl | apply State.bistCtlWrite_keeps | apply keeps_snd_ite | dsimp only | split

theorem State.repairRow_keeps (h : Keeps L s0 s) (a2 : ℕ) (a3 : ℕ) (a4 : ℕ) (a5 : ℕ) (lr32 : L.r32 = true := by first | assumption | rfl) (lr64 : L.r64 = true := by first | assumption | rfl) (lhost : L.host = true := by first | assumption | rfl) (lsquall : L.squall = true := by first | assumption | rfl) (m : within 0x1800000000000000401082000 L.regs = true := by first | with_reducible assumption | (refine within_trans (by assumption) ?_; exact rfl) | rfl) :
    Keeps L s0 (State.repairRow s a2 a3 a4 a5).2 := by
  unfold State.repairRow
  with_reducible repeat' first | assumption | intro _ | apply keeps_ite | exact has_ok m rfl | exact within_trans m rfl | apply State.spareUsed_keeps | apply State.fset_keeps | apply keeps_snd_ite | dsimp only | split | exact Or.inl (by assumption) | exact Or.inr rfl | refine keeps_mk ?_ rfl rfl ?_ ?_ ?_ ?_ ?_ ?_ ?_ ?_ ?_ ?_ ?_ ?_ ?_ ?_

theorem State.rowOut_keeps (h : Keeps L s0 s) (a2 : ℕ) (a3 : ℕ) (lr32 : L.r32 = true := by first | assumption | rfl) (ltm : L.tm = true := by first | assumption | rfl) (m : within 0x400000080000000000000000000000000000000000000000001000000000 L.regs = true := by first | with_reducible assumption | (refine within_trans (by assumption) ?_; exact rfl) | rfl) :
    Keeps L s0 (State.rowOut s a2 a3) := by
  unfold State.rowOut
  with_reducible repeat' first | assumption | intro _ | apply keeps_ite | exact has_ok m rfl | exact within_trans m rfl | apply State.cellOut_keeps | apply forN_keeps | apply keeps_snd_ite | dsimp only | split

theorem State.unitFails_keeps (h : Keeps L s0 s) (a2 : ℕ) (a3 : Slice) (a4 : ℕ) (lr32 : L.r32 = true := by first | assumption | rfl) (lr64 : L.r64 = true := by first | assumption | rfl) (lfree : L.free = true := by first | assumption | rfl) (lmem : L.mem = true := by first | assumption | rfl) (lhost : L.host = true := by first | assumption | rfl) (llink : L.link = true := by first | assumption | rfl) (lpower : L.power = true := by first | assumption | rfl) (lboot : L.boot = true := by first | assumption | rfl) (lsquall : L.squall = true := by first | assumption | rfl) (ltm : L.tm = true := by first | assumption | rfl) (lcirrus : L.cirrus = true := by first | assumption | rfl) (lte : L.te = true := by first | assumption | rfl) (m : within 0x1507800100100001000580170090000048000000000000000822801b8000000000000fcf1082000 L.regs = true := by first | with_reducible assumption | (refine within_trans (by assumption) ?_; exact rfl) | rfl) :
    Keeps L s0 (State.unitFails s a2 a3 a4) := by
  unfold State.unitFails
  with_reducible repeat' first | assumption | intro _ | apply keeps_ite | exact has_ok m rfl | exact within_trans m rfl | apply State.pipeOut_keeps | apply State.sayRetired_keeps | apply State.repairRow_keeps | apply State.bankFix_keeps | apply State.fset_keeps | apply State.rowOut_keeps | apply State.linkOut_keeps | apply State.retirePage_keeps | apply State.chRetire_keeps | apply State.tileRetire_keeps | apply State.laneRetire_keeps | apply keeps_snd_ite | (refine keeps_of_eq (by assumption) ?_) | dsimp only | split | exact Or.inl (by assumption) | exact Or.inr rfl | refine keeps_mk ?_ rfl rfl ?_ ?_ ?_ ?_ ?_ ?_ ?_ ?_ ?_ ?_ ?_ ?_ ?_ ?_

theorem State.csFixed_keeps (h : Keeps L s0 s) (a2 : ℕ) (a3 : ℕ) (lr32 : L.r32 = true := by first | assumption | rfl) (lr64 : L.r64 = true := by first | assumption | rfl) (lsquall : L.squall = true := by first | assumption | rfl) (lcirrus : L.cirrus = true := by first | assumption | rfl) (m : within 0x1082000 L.regs = true := by first | with_reducible assumption | (refine within_trans (by assumption) ?_; exact rfl) | rfl) :
    Keeps L s0 (State.csFixed s a2 a3) := by
  unfold State.csFixed
  with_reducible repeat' first | assumption | intro _ | apply keeps_ite | exact has_ok m rfl | exact within_trans m rfl | apply State.report_keeps | apply State.setPipe_keeps | apply keeps_snd_ite | dsimp only | split

theorem execBistSliceEnd_keeps (h : Keeps L s0 s) (a1 : ℕ) (a2 : Bool) (a3 : ℕ) (a4 : List (Fin 1024)) (lr32 : L.r32 = true := by first | assumption | rfl) (lr64 : L.r64 = true := by first | assumption | rfl) (lfree : L.free = true := by first | assumption | rfl) (lmem : L.mem = true := by first | assumption | rfl) (lhost : L.host = true := by first | assumption | rfl) (llink : L.link = true := by first | assumption | rfl) (lpower : L.power = true := by first | assumption | rfl) (lboot : L.boot = true := by first | assumption | rfl) (lsquall : L.squall = true := by first | assumption | rfl) (ltm : L.tm = true := by first | assumption | rfl) (lcirrus : L.cirrus = true := by first | assumption | rfl) (lte : L.te = true := by first | assumption | rfl) (m : within 0x1507800100100001000580170090000048000000000000000822801b8000000000000fdf1082000 L.regs = true := by first | with_reducible assumption | (refine within_trans (by assumption) ?_; exact rfl) | rfl) :
    ∃ t, execBistSliceEnd a1 a2 a3 a4 s = .next t ∧ Keeps L s0 t := by
  unfold execBistSliceEnd
  refine ⟨_, rfl, ?_⟩
  with_reducible repeat' first | assumption | intro _ | apply keeps_ite | exact has_ok m rfl | exact within_trans m rfl | apply State.each_keeps | apply State.csFixed_keeps | apply State.endSlice_keeps | apply State.bump_keeps | apply State.showSlice_keeps | apply State.setSlice_keeps | apply State.restoreUnit_keeps | apply State.planCheck_keeps | apply State.unitFails_keeps | apply State.report_keeps | apply keeps_snd_ite | dsimp only | split

theorem execBistSliceTimeout_keeps (h : Keeps L s0 s) (a1 : ℕ) (lr32 : L.r32 = true := by first | assumption | rfl) (lr64 : L.r64 = true := by first | assumption | rfl) (lhost : L.host = true := by first | assumption | rfl) (lsquall : L.squall = true := by first | assumption | rfl) (ltm : L.tm = true := by first | assumption | rfl) (lte : L.te = true := by first | assumption | rfl) (m : within 0x20000000000000004000000800000480000000000000000000018000000000000000f0000000 L.regs = true := by first | with_reducible assumption | (refine within_trans (by assumption) ?_; exact rfl) | rfl) :
    ∃ t, execBistSliceTimeout a1 s = .next t ∧ Keeps L s0 t := by
  unfold execBistSliceTimeout
  refine ⟨_, rfl, ?_⟩
  with_reducible repeat' first | assumption | intro _ | apply keeps_ite | exact has_ok m rfl | exact within_trans m rfl | apply State.endSlice_keeps | apply keeps_snd_ite | dsimp only | split

end Sys2Proof.Machine
end

