-- ==== Sys2Proof/Laws/KeepsTime.lean ====
section
/-!
SUPPORT. What each operation and each command of `Machine/Time.lean` (time) leaves alone, in the terms of `Laws/Keeps.lean`.
-/

set_option Elab.async false

set_option linter.unusedTactic false
set_option linter.unreachableTactic false
set_option linter.unusedVariables false
namespace Sys2Proof.Machine

variable {L : Touch} {s0 s : State}

theorem State.countCycle_keeps (h : Keeps L s0 s) (lr32 : L.r32 = true := by first | assumption | rfl) (lr64 : L.r64 = true := by first | assumption | rfl) (ltime : L.time = true := by first | assumption | rfl) (m : within 0x1400000000000000000000000000000000000000000000000000000000000000000000000000000 L.regs = true := by first | with_reducible assumption | (refine within_trans (by assumption) ?_; exact rfl) | rfl) :
    Keeps L s0 (State.countCycle s) := by
  unfold State.countCycle
  with_reducible repeat' first | assumption | intro _ | apply keeps_ite | exact has_ok m rfl | exact within_trans m rfl | apply State.each_keeps | apply State.perf_keeps | apply State.when_keeps | apply forN_keeps | apply keeps_snd_ite | dsimp only | split | exact Or.inl (by assumption) | exact Or.inr rfl | refine keeps_mk ?_ rfl rfl ?_ ?_ ?_ ?_ ?_ ?_ ?_ ?_ ?_ ?_ ?_ ?_ ?_ ?_

theorem State.setClock_keeps (h : Keeps L s0 s) (a2 : ℕ) (a3 : ℕ) (ltime : L.time = true := by first | assumption | rfl) :
    Keeps L s0 (State.setClock s a2 a3) := by
  unfold State.setClock
  with_reducible repeat' first | assumption | intro _ | apply keeps_ite | apply keeps_snd_ite | dsimp only | split | exact Or.inl (by assumption) | exact Or.inr rfl | refine keeps_mk ?_ rfl rfl ?_ ?_ ?_ ?_ ?_ ?_ ?_ ?_ ?_ ?_ ?_ ?_ ?_ ?_

theorem State.trigStep_keeps (h : Keeps L s0 s) (a2 : ℕ) (a3 : ℕ) (lr32 : L.r32 = true := by first | assumption | rfl) (lr64 : L.r64 = true := by first | assumption | rfl) (lhost : L.host = true := by first | assumption | rfl) (ltime : L.time = true := by first | assumption | rfl) (m : within 0x1800020000000000000000000 L.regs = true := by first | with_reducible assumption | (refine within_trans (by assumption) ?_; exact rfl) | rfl) :
    Keeps L s0 (State.trigStep s a2 a3) := by
  unfold State.trigStep
  with_reducible repeat' first | assumption | intro _ | apply keeps_ite | exact has_ok m rfl | exact within_trans m rfl | apply State.setTrig_keeps | apply State.post_keeps | apply State.fset_keeps | apply keeps_snd_ite | dsimp only | split

theorem State.applyStep_keeps (h : Keeps L s0 s) (a2 : ClkStep) (lr32 : L.r32 = true := by first | assumption | rfl) (lr64 : L.r64 = true := by first | assumption | rfl) (lhost : L.host = true := by first | assumption | rfl) (ltime : L.time = true := by first | assumption | rfl) (m : within 0x1800020008000000000000000 L.regs = true := by first | with_reducible assumption | (refine within_trans (by assumption) ?_; exact rfl) | rfl) :
    Keeps L s0 (State.applyStep s a2) := by
  unfold State.applyStep
  with_reducible repeat' first | assumption | intro _ | apply keeps_ite | exact has_ok m rfl | exact within_trans m rfl | apply State.setClock_keeps | apply State.post_keeps | apply State.fset_keeps | apply State.trigStep_keeps | apply forN_keeps | apply keeps_snd_ite | dsimp only | split

theorem State.tick_keeps (h : Keeps L s0 s) (lr32 : L.r32 = true := by first | assumption | rfl) (lr64 : L.r64 = true := by first | assumption | rfl) (lhost : L.host = true := by first | assumption | rfl) (ltime : L.time = true := by first | assumption | rfl) (m : within 0x1400000000000000000000000000000000000000000000000000001800020008000000000000000 L.regs = true := by first | with_reducible assumption | (refine within_trans (by assumption) ?_; exact rfl) | rfl) :
    Keeps L s0 (State.tick s) := by
  unfold State.tick
  with_reducible repeat' first | assumption | intro _ | apply keeps_ite | exact has_ok m rfl | exact within_trans m rfl | apply State.countCycle_keeps | apply State.applyStep_keeps | apply keeps_snd_ite | dsimp only | split | exact Or.inl (by assumption) | exact Or.inr rfl | refine keeps_mk ?_ rfl rfl ?_ ?_ ?_ ?_ ?_ ?_ ?_ ?_ ?_ ?_ ?_ ?_ ?_ ?_

theorem execClockTick_keeps (h : Keeps L s0 s) (lr32 : L.r32 = true := by first | assumption | rfl) (lr64 : L.r64 = true := by first | assumption | rfl) (lhost : L.host = true := by first | assumption | rfl) (ltime : L.time = true := by first | assumption | rfl) (m : within 0x1400000000000000000000000000000000000000000000000000001800020008000000000000000 L.regs = true := by first | with_reducible assumption | (refine within_trans (by assumption) ?_; exact rfl) | rfl) :
    ∃ t, execClockTick s = .next t ∧ Keeps L s0 t := by
  unfold execClockTick
  refine ⟨_, rfl, ?_⟩
  with_reducible repeat' first | assumption | intro _ | apply keeps_ite | exact has_ok m rfl | exact within_trans m rfl | apply State.tick_keeps | apply keeps_snd_ite | dsimp only | split

theorem State.adjCmd_keeps (h : Keeps L s0 s) (a2 : ℕ) (ltime : L.time = true := by first | assumption | rfl) :
    Keeps L s0 (State.adjCmd s a2) := by
  unfold State.adjCmd
  with_reducible repeat' first | assumption | intro _ | apply keeps_ite | apply keeps_snd_ite | dsimp only | split | exact Or.inl (by assumption) | exact Or.inr rfl | refine keeps_mk ?_ rfl rfl ?_ ?_ ?_ ?_ ?_ ?_ ?_ ?_ ?_ ?_ ?_ ?_ ?_ ?_

theorem execAdjSet_keeps (h : Keeps L s0 s) (ltime : L.time = true := by first | assumption | rfl) :
    ∃ t, execAdjSet s = .next t ∧ Keeps L s0 t := by
  unfold execAdjSet
  refine ⟨_, rfl, ?_⟩
  with_reducible repeat' first | assumption | intro _ | apply keeps_ite | apply State.adjCmd_keeps | apply keeps_snd_ite | dsimp only | split

theorem execAdjAdd_keeps (h : Keeps L s0 s) (ltime : L.time = true := by first | assumption | rfl) :
    ∃ t, execAdjAdd s = .next t ∧ Keeps L s0 t := by
  unfold execAdjAdd
  refine ⟨_, rfl, ?_⟩
  with_reducible repeat' first | assumption | intro _ | apply keeps_ite | apply State.adjCmd_keeps | apply keeps_snd_ite | dsimp only | split

theorem State.setLatch_keeps (h : Keeps L s0 s) (a2 : ℕ) (a3 : RName) (a4 : ℕ) (a5 : ℕ) (a6 : Option Word) (lhost : L.host = true := by first | assumption | rfl) :
    Keeps L s0 (State.setLatch s a2 a3 a4 a5 a6) := by
  unfold State.setLatch
  with_reducible repeat' first | assumption | intro _ | apply keeps_ite | apply keeps_snd_ite | dsimp only | split | exact Or.inl (by assumption) | exact Or.inr rfl | refine keeps_mk ?_ rfl rfl ?_ ?_ ?_ ?_ ?_ ?_ ?_ ?_ ?_ ?_ ?_ ?_ ?_ ?_

theorem State.nowRead_keeps (h : Keeps L s0 s) (a2 : ℕ) (lhost : L.host = true := by first | assumption | rfl) :
    Keeps L s0 (State.nowRead s a2) := by
  unfold State.nowRead
  with_reducible repeat' first | assumption | intro _ | apply keeps_ite | apply State.setLatch_keeps | apply keeps_snd_ite | dsimp only | split | exact Or.inl (by assumption) | exact Or.inr rfl | refine keeps_mk ?_ rfl rfl ?_ ?_ ?_ ?_ ?_ ?_ ?_ ?_ ?_ ?_ ?_ ?_ ?_ ?_

theorem execNowRead_keeps (h : Keeps L s0 s) (a1 : ℕ) (lhost : L.host = true := by first | assumption | rfl) :
    ∃ t, execNowRead a1 s = .next t ∧ Keeps L s0 t := by
  unfold execNowRead
  refine ⟨_, rfl, ?_⟩
  with_reducible repeat' first | assumption | intro _ | apply keeps_ite | apply State.nowRead_keeps | apply keeps_snd_ite | dsimp only | split

theorem State.zenFiring_keeps (h : Keeps L s0 s) (a2 : ℕ) (a3 : ℕ) (a4 : Trig) (lzen : L.zen = true := by first | assumption | rfl) :
    Keeps L s0 (State.zenFiring s a2 a3 a4) := by
  unfold State.zenFiring
  with_reducible repeat' first | assumption | intro _ | apply keeps_ite | apply keeps_snd_ite | dsimp only | split | exact Or.inl (by assumption) | exact Or.inr rfl | refine keeps_mk ?_ rfl rfl ?_ ?_ ?_ ?_ ?_ ?_ ?_ ?_ ?_ ?_ ?_ ?_ ?_ ?_

theorem State.ppsRise_keeps (h : Keeps L s0 s) (ltime : L.time = true := by first | assumption | rfl) :
    Keeps L s0 (State.ppsRise s) := by
  unfold State.ppsRise
  with_reducible repeat' first | assumption | intro _ | apply keeps_ite | apply keeps_snd_ite | dsimp only | split | exact Or.inl (by assumption) | exact Or.inr rfl | refine keeps_mk ?_ rfl rfl ?_ ?_ ?_ ?_ ?_ ?_ ?_ ?_ ?_ ?_ ?_ ?_ ?_ ?_

theorem State.fire_keeps (h : Keeps L s0 s) (a2 : ℕ) (lr32 : L.r32 = true := by first | assumption | rfl) (lr64 : L.r64 = true := by first | assumption | rfl) (lfree : L.free = true := by first | assumption | rfl) (lmem : L.mem = true := by first | assumption | rfl) (lhost : L.host = true := by first | assumption | rfl) (ldma : L.dma = true := by first | assumption | rfl) (ltime : L.time = true := by first | assumption | rfl) (lsquall : L.squall = true := by first | assumption | rfl) (ltm : L.tm = true := by first | assumption | rfl) (lhalo : L.halo = true := by first | assumption | rfl) (lcirrus : L.cirrus = true := by first | assumption | rfl) (lte : L.te = true := by first | assumption | rfl) (lzen : L.zen = true := by first | assumption | rfl) (m : within 0x8080f74020000000001030004000300900001c80003e0000000000822801b80020000010000271082000 L.regs = true := by first | with_reducible assumption | (refine within_trans (by assumption) ?_; exact rfl) | rfl) :
    Keeps L s0 (State.fire s a2) := by
  unfold State.fire
  with_reducible repeat' first | assumption | intro _ | apply keeps_ite | exact has_ok m rfl | exact within_trans m rfl | apply State.fset_keeps | apply State.setTrig_keeps | apply State.gateTrigger_keeps | apply State.epochEdge_keeps | apply State.bistFiring_keeps | apply State.socStart_keeps | apply State.ppsRise_keeps | apply State.dmaPulse_keeps | apply State.zenFiring_keeps | apply keeps_snd_ite | dsimp only | split

theorem State.trigWrite_keeps (h : Keeps L s0 s) (a2 : ℕ) (a3 : Word) (lr32 : L.r32 = true := by first | assumption | rfl) (lr64 : L.r64 = true := by first | assumption | rfl) (lfree : L.free = true := by first | assumption | rfl) (lmem : L.mem = true := by first | assumption | rfl) (lhost : L.host = true := by first | assumption | rfl) (ldma : L.dma = true := by first | assumption | rfl) (ltime : L.time = true := by first | assumption | rfl) (lsquall : L.squall = true := by first | assumption | rfl) (ltm : L.tm = true := by first | assumption | rfl) (lhalo : L.halo = true := by first | assumption | rfl) (lcirrus : L.cirrus = true := by first | assumption | rfl) (lte : L.te = true := by first | assumption | rfl) (lzen : L.zen = true := by first | assumption | rfl) (m : within 0x8080f74020000000001030004000300900001c80003e0000000000822801b80030000010000271082000 L.regs = true := by first | with_reducible assumption | (refine within_trans (by assumption) ?_; exact rfl) | rfl) :
    Keeps L s0 (State.trigWrite s a2 a3) := by
  unfold State.trigWrite
  with_reducible repeat' first | assumption | intro _ | apply keeps_ite | exact has_ok m rfl | exact within_trans m rfl | apply State.setTrig_keeps | apply State.fset_keeps | apply State.fire_keeps | apply keeps_snd_ite | dsimp only | split

theorem execTriggerArm_keeps (h : Keeps L s0 s) (a1 : ℕ) (a2 : ℕ) (lr32 : L.r32 = true := by first | assumption | rfl) (lr64 : L.r64 = true := by first | assumption | rfl) (lfree : L.free = true := by first | assumption | rfl) (lmem : L.mem = true := by first | assumption | rfl) (lhost : L.host = true := by first | assumption | rfl) (ldma : L.dma = true := by first | assumption | rfl) (ltime : L.time = true := by first | assumption | rfl) (lsquall : L.squall = true := by first | assumption | rfl) (ltm : L.tm = true := by first | assumption | rfl) (lhalo : L.halo = true := by first | assumption | rfl) (lcirrus : L.cirrus = true := by first | assumption | rfl) (lte : L.te = true := by first | assumption | rfl) (lzen : L.zen = true := by first | assumption | rfl) (m : within 0x8080f74020000000001030004000300900001c80003e0000000000822801b80030000010000271082000 L.regs = true := by first | with_reducible assumption | (refine within_trans (by assumption) ?_; exact rfl) | rfl) :
    ∃ t, execTriggerArm a1 a2 s = .next t ∧ Keeps L s0 t := by
  unfold execTriggerArm
  refine ⟨_, rfl, ?_⟩
  with_reducible repeat' first | assumption | intro _ | apply keeps_ite | exact has_ok m rfl | exact within_trans m rfl | apply State.trigWrite_keeps | apply keeps_snd_ite | dsimp only | split

theorem execTriggerDisarm_keeps (h : Keeps L s0 s) (a1 : ℕ) (lr32 : L.r32 = true := by first | assumption | rfl) (lr64 : L.r64 = true := by first | assumption | rfl) (lfree : L.free = true := by first | assumption | rfl) (lmem : L.mem = true := by first | assumption | rfl) (lhost : L.host = true := by first | assumption | rfl) (ldma : L.dma = true := by first | assumption | rfl) (ltime : L.time = true := by first | assumption | rfl) (lsquall : L.squall = true := by first | assumption | rfl) (ltm : L.tm = true := by first | assumption | rfl) (lhalo : L.halo = true := by first | assumption | rfl) (lcirrus : L.cirrus = true := by first | assumption | rfl) (lte : L.te = true := by first | assumption | rfl) (lzen : L.zen = true := by first | assumption | rfl) (m : within 0x8080f74020000000001030004000300900001c80003e0000000000822801b80030000010000271082000 L.regs = true := by first | with_reducible assumption | (refine within_trans (by assumption) ?_; exact rfl) | rfl) :
    ∃ t, execTriggerDisarm a1 s = .next t ∧ Keeps L s0 t := by
  unfold execTriggerDisarm
  refine ⟨_, rfl, ?_⟩
  with_reducible repeat' first | assumption | intro _ | apply keeps_ite | exact has_ok m rfl | exact within_trans m rfl | apply State.trigWrite_keeps | apply keeps_snd_ite | dsimp only | split

theorem execTriggerFire_keeps (h : Keeps L s0 s) (a1 : ℕ) (lr32 : L.r32 = true := by first | assumption | rfl) (lr64 : L.r64 = true := by first | assumption | rfl) (lfree : L.free = true := by first | assumption | rfl) (lmem : L.mem = true := by first | assumption | rfl) (lhost : L.host = true := by first | assumption | rfl) (ldma : L.dma = true := by first | assumption | rfl) (ltime : L.time = true := by first | assumption | rfl) (lsquall : L.squall = true := by first | assumption | rfl) (ltm : L.tm = true := by first | assumption | rfl) (lhalo : L.halo = true := by first | assumption | rfl) (lcirrus : L.cirrus = true := by first | assumption | rfl) (lte : L.te = true := by first | assumption | rfl) (lzen : L.zen = true := by first | assumption | rfl) (m : within 0x8080f74020000000001030004000300900001c80003e0000000000822801b80020000010000271082000 L.regs = true := by first | with_reducible assumption | (refine within_trans (by assumption) ?_; exact rfl) | rfl) :
    ∃ t, execTriggerFire a1 s = .next t ∧ Keeps L s0 t := by
  unfold execTriggerFire
  refine ⟨_, rfl, ?_⟩
  with_reducible repeat' first | assumption | intro _ | apply keeps_ite | exact has_ok m rfl | exact within_trans m rfl | apply State.fire_keeps | apply keeps_snd_ite | dsimp only | split

theorem execPpsPulseEnd_keeps (h : Keeps L s0 s) (ltime : L.time = true := by first | assumption | rfl) :
    ∃ t, execPpsPulseEnd s = .next t ∧ Keeps L s0 t := by
  unfold execPpsPulseEnd
  refine ⟨_, rfl, ?_⟩
  with_reducible repeat' first | assumption | intro _ | apply keeps_ite | apply keeps_snd_ite | dsimp only | split | exact Or.inl (by assumption) | exact Or.inr rfl | refine keeps_mk ?_ rfl rfl ?_ ?_ ?_ ?_ ?_ ?_ ?_ ?_ ?_ ?_ ?_ ?_ ?_ ?_

theorem State.setFifo_keeps (h : Keeps L s0 s) (a2 : ℕ) (a3 : List Stamp) (lr32 : L.r32 = true := by first | assumption | rfl) (ltime : L.time = true := by first | assumption | rfl) (m : within 0x400000000000000000000 L.regs = true := by first | with_reducible assumption | (refine within_trans (by assumption) ?_; exact rfl) | rfl) :
    Keeps L s0 (State.setFifo s a2 a3) := by
  unfold State.setFifo
  with_reducible repeat' first | assumption | intro _ | apply keeps_ite | exact has_ok m rfl | exact within_trans m rfl | apply State.fset_keeps | apply keeps_snd_ite | dsimp only | split | exact Or.inl (by assumption) | exact Or.inr rfl | refine keeps_mk ?_ rfl rfl ?_ ?_ ?_ ?_ ?_ ?_ ?_ ?_ ?_ ?_ ?_ ?_ ?_ ?_

theorem execCaptureEdge_keeps (h : Keeps L s0 s) (a1 : ℕ) (a2 : Bool) (a3 : Bool) (a4 : ℕ) (lr32 : L.r32 = true := by first | assumption | rfl) (lr64 : L.r64 = true := by first | assumption | rfl) (lhost : L.host = true := by first | assumption | rfl) (ldma : L.dma = true := by first | assumption | rfl) (ltime : L.time = true := by first | assumption | rfl) (m : within 0x1800400000000000000000000 L.regs = true := by first | with_reducible assumption | (refine within_trans (by assumption) ?_; exact rfl) | rfl) :
    ∃ t, execCaptureEdge a1 a2 a3 a4 s = .next t ∧ Keeps L s0 t := by
  unfold execCaptureEdge
  refine ⟨_, rfl, ?_⟩
  with_reducible repeat' first | assumption | intro _ | apply keeps_ite | exact has_ok m rfl | exact within_trans m rfl | apply State.dmaPulse_keeps | apply State.setFifo_keeps | apply State.post_keeps | apply State.fset_keeps | apply keeps_snd_ite | dsimp only | split

theorem State.capRead_keeps (h : Keeps L s0 s) (a2 : ℕ) (a3 : ℕ) (lr32 : L.r32 = true := by first | assumption | rfl) (lhost : L.host = true := by first | assumption | rfl) (ltime : L.time = true := by first | assumption | rfl) (m : within 0x400000000000000000000 L.regs = true := by first | with_reducible assumption | (refine within_trans (by assumption) ?_; exact rfl) | rfl) :
    Keeps L s0 (State.capRead s a2 a3) := by
  unfold State.capRead
  with_reducible repeat' first | assumption | intro _ | apply keeps_ite | exact has_ok m rfl | exact within_trans m rfl | apply State.setLatch_keeps | apply State.setFifo_keeps | apply keeps_snd_ite | dsimp only | split | exact Or.inl (by assumption) | exact Or.inr rfl | refine keeps_mk ?_ rfl rfl ?_ ?_ ?_ ?_ ?_ ?_ ?_ ?_ ?_ ?_ ?_ ?_ ?_ ?_

theorem execCapturePop_keeps (h : Keeps L s0 s) (a1 : ℕ) (a2 : ℕ) (lr32 : L.r32 = true := by first | assumption | rfl) (lhost : L.host = true := by first | assumption | rfl) (ltime : L.time = true := by first | assumption | rfl) (m : within 0x400000000000000000000 L.regs = true := by first | with_reducible assumption | (refine within_trans (by assumption) ?_; exact rfl) | rfl) :
    ∃ t, execCapturePop a1 a2 s = .next t ∧ Keeps L s0 t := by
  unfold execCapturePop
  refine ⟨_, rfl, ?_⟩
  with_reducible repeat' first | assumption | intro _ | apply keeps_ite | exact has_ok m rfl | exact within_trans m rfl | apply State.capRead_keeps | apply keeps_snd_ite | dsimp only | split

end Sys2Proof.Machine
end

