-- ==== Sys2Proof/Laws/KeepsBoot.lean ====
section
/-!
SUPPORT. What each operation and each command of `Machine/Boot.lean` (reset and boot) leaves alone, in the terms of `Laws/Keeps.lean`.
-/

set_option Elab.async false

set_option linter.unusedTactic false
set_option linter.unreachableTactic false
set_option linter.unusedVariables false
namespace Sys2Proof.Machine

variable {L : Touch} {s0 s : State}

theorem State.flashUndefined_keeps (h : Keeps L s0 s) (a2 : ℕ) (a3 : ℕ) (lfree : L.free = true := by first | assumption | rfl) (lboot : L.boot = true := by first | assumption | rfl) :
    Keeps L s0 (State.flashUndefined s a2 a3) := by
  unfold State.flashUndefined
  with_reducible repeat' first | assumption | intro _ | apply keeps_ite | apply keeps_snd_ite | dsimp only | split | exact Or.inl (by assumption) | exact Or.inr rfl | refine keeps_mk ?_ rfl rfl ?_ ?_ ?_ ?_ ?_ ?_ ?_ ?_ ?_ ?_ ?_ ?_ ?_ ?_

theorem State.horizonFor_keeps (h : Keeps L s0 s) (a2 : ℕ) (lr32 : L.r32 = true := by first | assumption | rfl) (m : within 0x2 L.regs = true := by first | with_reducible assumption | (refine within_trans (by assumption) ?_; exact rfl) | rfl) :
    Keeps L s0 (State.horizonFor s a2) := by
  unfold State.horizonFor
  with_reducible repeat' first | assumption | intro _ | apply keeps_ite | exact has_ok m rfl | exact within_trans m rfl | apply State.fset_keeps | apply keeps_snd_ite | dsimp only | split

theorem State.dawnTo_keeps (h : Keeps L s0 s) (a2 : ℕ) (a3 : ℕ) (lr32 : L.r32 = true := by first | assumption | rfl) (lboot : L.boot = true := by first | assumption | rfl) (m : within 0x2 L.regs = true := by first | with_reducible assumption | (refine within_trans (by assumption) ?_; exact rfl) | rfl) :
    Keeps L s0 (State.dawnTo s a2 a3) := by
  unfold State.dawnTo
  with_reducible repeat' first | assumption | intro _ | apply keeps_ite | exact has_ok m rfl | exact within_trans m rfl | apply State.fset_keeps | apply keeps_snd_ite | dsimp only | split | exact Or.inl (by assumption) | exact Or.inr rfl | refine keeps_mk ?_ rfl rfl ?_ ?_ ?_ ?_ ?_ ?_ ?_ ?_ ?_ ?_ ?_ ?_ ?_ ?_

theorem execInrushDone_keeps (h : Keeps L s0 s) (lboot : L.boot = true := by first | assumption | rfl) :
    ∃ t, execInrushDone s = .next t ∧ Keeps L s0 t := by
  unfold execInrushDone
  refine ⟨_, rfl, ?_⟩
  with_reducible repeat' first | assumption | intro _ | apply keeps_ite | apply keeps_snd_ite | dsimp only | split | exact Or.inl (by assumption) | exact Or.inr rfl | refine keeps_mk ?_ rfl rfl ?_ ?_ ?_ ?_ ?_ ?_ ?_ ?_ ?_ ?_ ?_ ?_ ?_ ?_

theorem State.linkStart_keeps (h : Keeps L s0 s) (lhost : L.host = true := by first | assumption | rfl) :
    Keeps L s0 (State.linkStart s) := by
  unfold State.linkStart
  with_reducible repeat' first | assumption | intro _ | apply keeps_ite | apply keeps_snd_ite | dsimp only | split | exact Or.inl (by assumption) | exact Or.inr rfl | refine keeps_mk ?_ rfl rfl ?_ ?_ ?_ ?_ ?_ ?_ ?_ ?_ ?_ ?_ ?_ ?_ ?_ ?_

theorem execDawnStandbyReady_keeps (h : Keeps L s0 s) (lr32 : L.r32 = true := by first | assumption | rfl) (lhost : L.host = true := by first | assumption | rfl) (lboot : L.boot = true := by first | assumption | rfl) (m : within 0x2 L.regs = true := by first | with_reducible assumption | (refine within_trans (by assumption) ?_; exact rfl) | rfl) :
    ∃ t, execDawnStandbyReady s = .next t ∧ Keeps L s0 t := by
  unfold execDawnStandbyReady
  refine ⟨_, rfl, ?_⟩
  with_reducible repeat' first | assumption | intro _ | apply keeps_ite | exact has_ok m rfl | exact within_trans m rfl | apply State.linkStart_keeps | apply State.dawnTo_keeps | apply keeps_snd_ite | dsimp only | split | exact Or.inl (by assumption) | exact Or.inr rfl | refine keeps_mk ?_ rfl rfl ?_ ?_ ?_ ?_ ?_ ?_ ?_ ?_ ?_ ?_ ?_ ?_ ?_ ?_

theorem State.takeHzReq_keeps (h : Keeps L s0 s) (lr32 : L.r32 = true := by first | assumption | rfl) (lboot : L.boot = true := by first | assumption | rfl) (m : within 0x82 L.regs = true := by first | with_reducible assumption | (refine within_trans (by assumption) ?_; exact rfl) | rfl) :
    Keeps L s0 (State.takeHzReq s) := by
  unfold State.takeHzReq
  with_reducible repeat' first | assumption | intro _ | apply keeps_ite | exact has_ok m rfl | exact within_trans m rfl | apply State.horizonFor_keeps | apply State.fset_keeps | apply keeps_snd_ite | dsimp only | split | exact Or.inl (by assumption) | exact Or.inr rfl | refine keeps_mk ?_ rfl rfl ?_ ?_ ?_ ?_ ?_ ?_ ?_ ?_ ?_ ?_ ?_ ?_ ?_ ?_

theorem State.bootSlot_keeps (h : Keeps L s0 s) (a2 : ℕ) (a3 : BootPass) (lr32 : L.r32 = true := by first | assumption | rfl) (lboot : L.boot = true := by first | assumption | rfl) (m : within 0xa000000000000000000000000000000000e L.regs = true := by first | with_reducible assumption | (refine within_trans (by assumption) ?_; exact rfl) | rfl) :
    Keeps L s0 (State.bootSlot s a2 a3) := by
  unfold State.bootSlot
  with_reducible repeat' first | assumption | intro _ | apply keeps_ite | exact has_ok m rfl | exact within_trans m rfl | apply State.wr_keeps | apply State.fset_keeps | apply State.setMeas_keeps | apply keeps_snd_ite | dsimp only | split | exact Or.inl (by assumption) | exact Or.inr rfl | refine keeps_mk ?_ rfl rfl ?_ ?_ ?_ ?_ ?_ ?_ ?_ ?_ ?_ ?_ ?_ ?_ ?_ ?_

theorem State.bootRom_keeps (h : Keeps L s0 s) (lr32 : L.r32 = true := by first | assumption | rfl) (lboot : L.boot = true := by first | assumption | rfl) (m : within 0x20000000000000000000000000000000002 L.regs = true := by first | with_reducible assumption | (refine within_trans (by assumption) ?_; exact rfl) | rfl) :
    Keeps L s0 (State.bootRom s) := by
  unfold State.bootRom
  with_reducible repeat' first | assumption | intro _ | apply keeps_ite | exact has_ok m rfl | exact within_trans m rfl | apply State.setMeas_keeps | apply State.horizonFor_keeps | apply keeps_snd_ite | dsimp only | split | exact Or.inl (by assumption) | exact Or.inr rfl | refine keeps_mk ?_ rfl rfl ?_ ?_ ?_ ?_ ?_ ?_ ?_ ?_ ?_ ?_ ?_ ?_ ?_ ?_

theorem execBootSlotCheck_keeps (h : Keeps L s0 s) (lr32 : L.r32 = true := by first | assumption | rfl) (lhost : L.host = true := by first | assumption | rfl) (lboot : L.boot = true := by first | assumption | rfl) (m : within 0xe000000000000000000000000000000008e L.regs = true := by first | with_reducible assumption | (refine within_trans (by assumption) ?_; exact rfl) | rfl) :
    ∃ t, execBootSlotCheck s = .next t ∧ Keeps L s0 t := by
  unfold execBootSlotCheck
  refine ⟨_, rfl, ?_⟩
  with_reducible repeat' first | assumption | intro _ | apply keeps_ite | exact has_ok m rfl | exact within_trans m rfl | apply State.takeHzReq_keeps | apply State.arbBlow_keeps | apply State.each_keeps | apply State.fset_keeps | apply State.bootSlot_keeps | apply State.bootRom_keeps | apply State.linkStart_keeps | apply State.dawnTo_keeps | apply keeps_snd_ite | dsimp only | split

theorem execServiceCoreStart_keeps (h : Keeps L s0 s) (lr32 : L.r32 = true := by first | assumption | rfl) (lboot : L.boot = true := by first | assumption | rfl) (m : within 0x2 L.regs = true := by first | with_reducible assumption | (refine within_trans (by assumption) ?_; exact rfl) | rfl) :
    ∃ t, execServiceCoreStart s = .next t ∧ Keeps L s0 t := by
  unfold execServiceCoreStart
  refine ⟨_, rfl, ?_⟩
  with_reducible repeat' first | assumption | intro _ | apply keeps_ite | exact has_ok m rfl | exact within_trans m rfl | apply State.dawnTo_keeps | apply keeps_snd_ite | dsimp only | split | exact Or.inl (by assumption) | exact Or.inr rfl | refine keeps_mk ?_ rfl rfl ?_ ?_ ?_ ?_ ?_ ?_ ?_ ?_ ?_ ?_ ?_ ?_ ?_ ?_

theorem execDawnBistDone_keeps (h : Keeps L s0 s) (a1 : ℕ) (lr32 : L.r32 = true := by first | assumption | rfl) (lboot : L.boot = true := by first | assumption | rfl) (m : within 0x200002 L.regs = true := by first | with_reducible assumption | (refine within_trans (by assumption) ?_; exact rfl) | rfl) :
    ∃ t, execDawnBistDone a1 s = .next t ∧ Keeps L s0 t := by
  unfold execDawnBistDone
  refine ⟨_, rfl, ?_⟩
  with_reducible repeat' first | assumption | intro _ | apply keeps_ite | exact has_ok m rfl | exact within_trans m rfl | apply State.fset_keeps | apply State.dawnTo_keeps | apply keeps_snd_ite | dsimp only | split | exact Or.inl (by assumption) | exact Or.inr rfl | refine keeps_mk ?_ rfl rfl ?_ ?_ ?_ ?_ ?_ ?_ ?_ ?_ ?_ ?_ ?_ ?_ ?_ ?_

theorem State.dawnReport_keeps (h : Keeps L s0 s) (a2 : ℕ) (a3 : ℕ) (a4 : ℕ) (lr32 : L.r32 = true := by first | assumption | rfl) (lr64 : L.r64 = true := by first | assumption | rfl) (lsquall : L.squall = true := by first | assumption | rfl) (m : within 0x1082000 L.regs = true := by first | with_reducible assumption | (refine within_trans (by assumption) ?_; exact rfl) | rfl) :
    Keeps L s0 (State.dawnReport s a2 a3 a4) := by
  unfold State.dawnReport
  with_reducible repeat' first | assumption | intro _ | apply keeps_ite | exact has_ok m rfl | exact within_trans m rfl | apply State.report_keeps | apply keeps_snd_ite | dsimp only | split

theorem State.dawnOut_keeps (h : Keeps L s0 s) (a2 : ℕ) (a3 : ℕ) (a4 : ℕ) (a5 : ℕ) (lr32 : L.r32 = true := by first | assumption | rfl) (lr64 : L.r64 = true := by first | assumption | rfl) (lhost : L.host = true := by first | assumption | rfl) (lboot : L.boot = true := by first | assumption | rfl) (lsquall : L.squall = true := by first | assumption | rfl) (m : within 0x1800000000000000001082000 L.regs = true := by first | with_reducible assumption | (refine within_trans (by assumption) ?_; exact rfl) | rfl) :
    Keeps L s0 (State.dawnOut s a2 a3 a4 a5) := by
  unfold State.dawnOut
  with_reducible repeat' first | assumption | intro _ | apply keeps_ite | exact has_ok m rfl | exact within_trans m rfl | apply State.sayRetired_keeps | apply State.blow_keeps | apply keeps_snd_ite | dsimp only | split

theorem State.dawnLane_keeps (h : Keeps L s0 s) (a2 : ℕ) (lr32 : L.r32 = true := by first | assumption | rfl) (lr64 : L.r64 = true := by first | assumption | rfl) (lhost : L.host = true := by first | assumption | rfl) (lboot : L.boot = true := by first | assumption | rfl) (lsquall : L.squall = true := by first | assumption | rfl) (m : within 0x1800000000000002001082000 L.regs = true := by first | with_reducible assumption | (refine within_trans (by assumption) ?_; exact rfl) | rfl) :
    Keeps L s0 (State.dawnLane s a2) := by
  unfold State.dawnLane
  with_reducible repeat' first | assumption | intro _ | apply keeps_ite | exact has_ok m rfl | exact within_trans m rfl | apply State.dawnOut_keeps | apply State.wr_keeps | apply State.dawnReport_keeps | apply keeps_snd_ite | dsimp only | split

theorem execChipletCalibrated_keeps (h : Keeps L s0 s) (a1 : List LaneIx) (lr32 : L.r32 = true := by first | assumption | rfl) (lr64 : L.r64 = true := by first | assumption | rfl) (lhost : L.host = true := by first | assumption | rfl) (lpower : L.power = true := by first | assumption | rfl) (lboot : L.boot = true := by first | assumption | rfl) (lsquall : L.squall = true := by first | assumption | rfl) (lzen : L.zen = true := by first | assumption | rfl) (m : within 0x1800000000000002001082002 L.regs = true := by first | with_reducible assumption | (refine within_trans (by assumption) ?_; exact rfl) | rfl) :
    ∃ t, execChipletCalibrated a1 s = .next t ∧ Keeps L s0 t := by
  unfold execChipletCalibrated
  refine ⟨_, rfl, ?_⟩
  with_reducible repeat' first | assumption | intro _ | apply keeps_ite | exact has_ok m rfl | exact within_trans m rfl | apply State.dawnTo_keeps | apply State.each_keeps | apply State.dawnLane_keeps | apply forN_keeps | apply keeps_snd_ite | dsimp only | split | exact Or.inl (by assumption) | exact Or.inr rfl | refine keeps_mk ?_ rfl rfl ?_ ?_ ?_ ?_ ?_ ?_ ?_ ?_ ?_ ?_ ?_ ?_ ?_ ?_

theorem State.dawnUnit_keeps (h : Keeps L s0 s) (a2 : ℕ) (a3 : ℕ) (a4 : ℕ) (lr32 : L.r32 = true := by first | assumption | rfl) (lr64 : L.r64 = true := by first | assumption | rfl) (lhost : L.host = true := by first | assumption | rfl) (lboot : L.boot = true := by first | assumption | rfl) (lsquall : L.squall = true := by first | assumption | rfl) (ltm : L.tm = true := by first | assumption | rfl) (lte : L.te = true := by first | assumption | rfl) (m : within 0x6000000000000000400000090000048000000000000000000001800000000000005cf1082000 L.regs = true := by first | with_reducible assumption | (refine within_trans (by assumption) ?_; exact rfl) | rfl) :
    Keeps L s0 (State.dawnUnit s a2 a3 a4) := by
  unfold State.dawnUnit
  with_reducible repeat' first | assumption | intro _ | apply keeps_ite | exact has_ok m rfl | exact within_trans m rfl | apply State.dawnReport_keeps | apply State.pipeOut_keeps | apply State.sayRetired_keeps | apply State.setRole_keeps | apply State.fset_keeps | apply State.repairRow_keeps | apply State.bankSafe_keeps | apply State.bankFix_keeps | apply State.rowOut_keeps | apply State.linkOut_keeps | apply State.wr_keeps | apply State.dawnOut_keeps | apply keeps_snd_ite | (refine keeps_of_eq (by assumption) ?_) | dsimp only | split

theorem State.parserDefaults_keeps (h : Keeps L s0 s) (a2 : ℕ) (lr32 : L.r32 = true := by first | assumption | rfl) (m : within 0x7800008000000000000000000000000000000000000000 L.regs = true := by first | with_reducible assumption | (refine within_trans (by assumption) ?_; exact rfl) | rfl) :
    Keeps L s0 (State.parserDefaults s a2) := by
  unfold State.parserDefaults
  with_reducible repeat' first | assumption | intro _ | apply keeps_ite | exact has_ok m rfl | exact within_trans m rfl | exact ptypeReg_has (has_ok m rfl) (has_ok m rfl) _ | exact entryReg_has (has_ok m rfl) (has_ok m rfl) _ | apply State.fset_keeps | apply State.each_keeps | apply State.wr_keeps | apply forN_keeps | apply keeps_snd_ite | dsimp only | split

theorem State.anvilDawn_keeps (h : Keeps L s0 s) (lr32 : L.r32 = true := by first | assumption | rfl) (lpower : L.power = true := by first | assumption | rfl) (ltm : L.tm = true := by first | assumption | rfl) (m : within 0x7800000000000000000000000000000000000000000000000000000000000000000000000000 L.regs = true := by first | with_reducible assumption | (refine within_trans (by assumption) ?_; exact rfl) | rfl) :
    Keeps L s0 (State.anvilDawn s) := by
  unfold State.anvilDawn
  with_reducible repeat' first | assumption | intro _ | apply keeps_ite | exact has_ok m rfl | exact within_trans m rfl | apply State.each_keeps | apply State.fset_keeps | apply State.anvilTrained_keeps | apply State.wr_keeps | apply keeps_snd_ite | dsimp only | split | exact Or.inl (by assumption) | exact Or.inr rfl | refine keeps_mk ?_ rfl rfl ?_ ?_ ?_ ?_ ?_ ?_ ?_ ?_ ?_ ?_ ?_ ?_ ?_ ?_

theorem State.fullMode_keeps (h : Keeps L s0 s) (a2 : ℕ) (lr32 : L.r32 = true := by first | assumption | rfl) (lr64 : L.r64 = true := by first | assumption | rfl) (lhost : L.host = true := by first | assumption | rfl) (lpower : L.power = true := by first | assumption | rfl) (ltm : L.tm = true := by first | assumption | rfl) (lcirrus : L.cirrus = true := by first | assumption | rfl) (m : within 0x7800000000000000000000000072007800008000020000000001800000000001008000000000 L.regs = true := by first | with_reducible assumption | (refine within_trans (by assumption) ?_; exact rfl) | rfl) :
    Keeps L s0 (State.fullMode s a2) := by
  unfold State.fullMode
  with_reducible repeat' first | assumption | intro _ | apply keeps_ite | exact has_ok m rfl | exact within_trans m rfl | apply State.loopStart_keeps | apply State.install_keeps | apply State.anvilDawn_keeps | apply State.each_keeps | apply State.parserDefaults_keeps | apply keeps_snd_ite | dsimp only | split

theorem State.romImage_keeps (h : Keeps L s0 s) (lr32 : L.r32 = true := by first | assumption | rfl) (lcirrus : L.cirrus = true := by first | assumption | rfl) (m : within 0x50000000000000020000000000000000000000000000000000 L.regs = true := by first | with_reducible assumption | (refine within_trans (by assumption) ?_; exact rfl) | rfl) :
    Keeps L s0 (State.romImage s) := by
  unfold State.romImage
  with_reducible repeat' first | assumption | intro _ | apply keeps_ite | exact has_ok m rfl | exact within_trans m rfl | apply State.setMeas_keeps | apply State.wr_keeps | apply keeps_snd_ite | dsimp only | split | exact Or.inl (by assumption) | exact Or.inr rfl | refine keeps_mk ?_ rfl rfl ?_ ?_ ?_ ?_ ?_ ?_ ?_ ?_ ?_ ?_ ?_ ?_ ?_ ?_

theorem State.hzGeometry_keeps (h : Keeps L s0 s) (lr32 : L.r32 = true := by first | assumption | rfl) (m : within 0x4000000000000000000000000000000000000000000000000000000000000000000000000000000000000000000 L.regs = true := by first | with_reducible assumption | (refine within_trans (by assumption) ?_; exact rfl) | rfl) :
    Keeps L s0 (State.hzGeometry s) := by
  unfold State.hzGeometry
  with_reducible repeat' first | assumption | intro _ | apply keeps_ite | exact has_ok m rfl | exact within_trans m rfl | apply State.fset_keeps | apply keeps_snd_ite | dsimp only | split

theorem State.hzFlood_keeps (h : Keeps L s0 s) (a2 : List Byte) (a3 : List Byte) (lte : L.te = true := by first | assumption | rfl) :
    Keeps L s0 (State.hzFlood s a2 a3) := by
  unfold State.hzFlood
  with_reducible repeat' first | assumption | intro _ | apply keeps_ite | apply State.emPut_keeps | apply keeps_snd_ite | (refine State.emPlace_keeps ?_ _ _ (by assumption)) | dsimp only | split

theorem State.hzTables_keeps (h : Keeps L s0 s) (lr32 : L.r32 = true := by first | assumption | rfl) (lte : L.te = true := by first | assumption | rfl) (m : within 0x4000000000000000000000000000000000000000000000000000000000000000000000000000000000000000000 L.regs = true := by first | with_reducible assumption | (refine within_trans (by assumption) ?_; exact rfl) | rfl) :
    Keeps L s0 (State.hzTables s) := by
  unfold State.hzTables
  with_reducible repeat' first | assumption | intro _ | apply keeps_ite | exact has_ok m rfl | exact within_trans m rfl | apply State.hzFlood_keeps | apply State.hzGeometry_keeps | apply keeps_snd_ite | dsimp only | split

theorem State.hzPorts_keeps (h : Keeps L s0 s) (lr32 : L.r32 = true := by first | assumption | rfl) (lr64 : L.r64 = true := by first | assumption | rfl) (lfree : L.free = true := by first | assumption | rfl) (lmem : L.mem = true := by first | assumption | rfl) (lhost : L.host = true := by first | assumption | rfl) (llink : L.link = true := by first | assumption | rfl) (lpower : L.power = true := by first | assumption | rfl) (lsquall : L.squall = true := by first | assumption | rfl) (ltm : L.tm = true := by first | assumption | rfl) (lcirrus : L.cirrus = true := by first | assumption | rfl) (m : within 0x150280413fd80001000580170080000000000000000000000822801b80000000000008001082000 L.regs = true := by first | with_reducible assumption | (refine within_trans (by assumption) ?_; exact rfl) | rfl) :
    Keeps L s0 (State.hzPorts s) := by
  unfold State.hzPorts
  with_reducible repeat' first | assumption | intro _ | apply keeps_ite | exact has_ok m rfl | exact within_trans m rfl | apply State.each_keeps | apply State.portCfgWrite_keeps | apply keeps_snd_ite | dsimp only | split

theorem State.horizonMode_keeps (h : Keeps L s0 s) (lr32 : L.r32 = true := by first | assumption | rfl) (lr64 : L.r64 = true := by first | assumption | rfl) (lfree : L.free = true := by first | assumption | rfl) (lmem : L.mem = true := by first | assumption | rfl) (lhost : L.host = true := by first | assumption | rfl) (llink : L.link = true := by first | assumption | rfl) (lpower : L.power = true := by first | assumption | rfl) (lsquall : L.squall = true := by first | assumption | rfl) (ltm : L.tm = true := by first | assumption | rfl) (lcirrus : L.cirrus = true := by first | assumption | rfl) (lte : L.te = true := by first | assumption | rfl) (m : within 0x400000000000150280413fd80001000580170080050007800008000020000822801b80000000001008001082002 L.regs = true := by first | with_reducible assumption | (refine within_trans (by assumption) ?_; exact rfl) | rfl) :
    Keeps L s0 (State.horizonMode s) := by
  unfold State.horizonMode
  with_reducible repeat' first | assumption | intro _ | apply keeps_ite | exact has_ok m rfl | exact within_trans m rfl | apply State.throttle_keeps | apply State.setMv_keeps | apply State.fset_keeps | apply State.hzTables_keeps | apply State.parserDefaults_keeps | apply State.romImage_keeps | apply State.hzPorts_keeps | apply keeps_snd_ite | dsimp only | split | exact Or.inl (by assumption) | exact Or.inr rfl | refine keeps_mk ?_ rfl rfl ?_ ?_ ?_ ?_ ?_ ?_ ?_ ?_ ?_ ?_ ?_ ?_ ?_ ?_

theorem execCoreBringupDone_keeps (h : Keeps L s0 s) (a1 : ℕ) (a2 : List (Fin 11 × TileIx × Fin 65536)) (lr32 : L.r32 = true := by first | assumption | rfl) (lr64 : L.r64 = true := by first | assumption | rfl) (lfree : L.free = true := by first | assumption | rfl) (lmem : L.mem = true := by first | assumption | rfl) (lhost : L.host = true := by first | assumption | rfl) (llink : L.link = true := by first | assumption | rfl) (lpower : L.power = true := by first | assumption | rfl) (lboot : L.boot = true := by first | assumption | rfl) (lsquall : L.squall = true := by first | assumption | rfl) (ltm : L.tm = true := by first | assumption | rfl) (lcirrus : L.cirrus = true := by first | assumption | rfl) (lte : L.te = true := by first | assumption | rfl) (m : within 0x400000000000150780413fd8000100058017009007204f800008000020000822801b8000000000100dcf1082002 L.regs = true := by first | with_reducible assumption | (refine within_trans (by assumption) ?_; exact rfl) | rfl) :
    ∃ t, execCoreBringupDone a1 a2 s = .next t ∧ Keeps L s0 t := by
  unfold execCoreBringupDone
  refine ⟨_, rfl, ?_⟩
  with_reducible repeat' first | assumption | intro _ | apply keeps_ite | exact has_ok m rfl | exact within_trans m rfl | apply State.each_keeps | apply State.dawnUnit_keeps | apply State.horizonFor_keeps | apply State.dawnTo_keeps | apply State.horizonMode_keeps | apply State.fullMode_keeps | apply keeps_snd_ite | dsimp only | split | exact Or.inl (by assumption) | exact Or.inr rfl | refine keeps_mk ?_ rfl rfl ?_ ?_ ?_ ?_ ?_ ?_ ?_ ?_ ?_ ?_ ?_ ?_ ?_ ?_

theorem execDawnReady_keeps (h : Keeps L s0 s) (a1 : ℕ) (lr32 : L.r32 = true := by first | assumption | rfl) (lboot : L.boot = true := by first | assumption | rfl) (m : within 0x12 L.regs = true := by first | with_reducible assumption | (refine within_trans (by assumption) ?_; exact rfl) | rfl) :
    ∃ t, execDawnReady a1 s = .next t ∧ Keeps L s0 t := by
  unfold execDawnReady
  refine ⟨_, rfl, ?_⟩
  with_reducible repeat' first | assumption | intro _ | apply keeps_ite | exact has_ok m rfl | exact within_trans m rfl | apply State.fset_keeps | apply State.dawnTo_keeps | apply keeps_snd_ite | dsimp only | split

theorem execButtonPress_keeps (h : Keeps L s0 s) (lboot : L.boot = true := by first | assumption | rfl) :
    ∃ t, execButtonPress s = .next t ∧ Keeps L s0 t := by
  unfold execButtonPress
  refine ⟨_, rfl, ?_⟩
  with_reducible repeat' first | assumption | intro _ | apply keeps_ite | apply keeps_snd_ite | dsimp only | split | exact Or.inl (by assumption) | exact Or.inr rfl | refine keeps_mk ?_ rfl rfl ?_ ?_ ?_ ?_ ?_ ?_ ?_ ?_ ?_ ?_ ?_ ?_ ?_ ?_

theorem execButtonHold_keeps (h : Keeps L s0 s) (lr32 : L.r32 = true := by first | assumption | rfl) (m : within 0x80 L.regs = true := by first | with_reducible assumption | (refine within_trans (by assumption) ?_; exact rfl) | rfl) :
    ∃ t, execButtonHold s = .next t ∧ Keeps L s0 t := by
  unfold execButtonHold
  refine ⟨_, rfl, ?_⟩
  with_reducible repeat' first | assumption | intro _ | apply keeps_ite | exact has_ok m rfl | exact within_trans m rfl | apply State.fset_keeps | apply keeps_snd_ite | dsimp only | split

theorem execButtonRelease_keeps (h : Keeps L s0 s) (lboot : L.boot = true := by first | assumption | rfl) :
    ∃ t, execButtonRelease s = .next t ∧ Keeps L s0 t := by
  unfold execButtonRelease
  refine ⟨_, rfl, ?_⟩
  with_reducible repeat' first | assumption | intro _ | apply keeps_ite | apply State.requestReset_keeps | apply keeps_snd_ite | dsimp only | split | exact Or.inl (by assumption) | exact Or.inr rfl | refine keeps_mk ?_ rfl rfl ?_ ?_ ?_ ?_ ?_ ?_ ?_ ?_ ?_ ?_ ?_ ?_ ?_ ?_

theorem execWatchdogExpire_keeps (h : Keeps L s0 s) (lboot : L.boot = true := by first | assumption | rfl) :
    ∃ t, execWatchdogExpire s = .next t ∧ Keeps L s0 t := by
  unfold execWatchdogExpire
  refine ⟨_, rfl, ?_⟩
  with_reducible repeat' first | assumption | intro _ | apply keeps_ite | apply State.requestReset_keeps | apply keeps_snd_ite | dsimp only | split

theorem State.resetCtlWrite_keeps (h : Keeps L s0 s) (a2 : ℕ) (a3 : Word) (lr32 : L.r32 = true := by first | assumption | rfl) (lr64 : L.r64 = true := by first | assumption | rfl) (lhost : L.host = true := by first | assumption | rfl) (lboot : L.boot = true := by first | assumption | rfl) (lsquall : L.squall = true := by first | assumption | rfl) (m : within 0x800803b80000000000000001082000 L.regs = true := by first | with_reducible assumption | (refine within_trans (by assumption) ?_; exact rfl) | rfl) :
    Keeps L s0 (State.resetCtlWrite s a2 a3) := by
  unfold State.resetCtlWrite
  with_reducible repeat' first | assumption | intro _ | apply keeps_ite | exact has_ok m rfl | exact within_trans m rfl | apply State.requestReset_keeps | apply State.bump_keeps | apply State.violation_keeps | apply keeps_snd_ite | dsimp only | split

theorem execChipResetRequest_keeps (h : Keeps L s0 s) (a1 : ℕ) (a2 : BitVec 8) (lr32 : L.r32 = true := by first | assumption | rfl) (lr64 : L.r64 = true := by first | assumption | rfl) (lhost : L.host = true := by first | assumption | rfl) (lboot : L.boot = true := by first | assumption | rfl) (lsquall : L.squall = true := by first | assumption | rfl) (m : within 0x800803b80000000000000001082000 L.regs = true := by first | with_reducible assumption | (refine within_trans (by assumption) ?_; exact rfl) | rfl) :
    ∃ t, execChipResetRequest a1 a2 s = .next t ∧ Keeps L s0 t := by
  unfold execChipResetRequest
  refine ⟨_, rfl, ?_⟩
  with_reducible repeat' first | assumption | intro _ | apply keeps_ite | exact has_ok m rfl | exact within_trans m rfl | apply State.resetCtlWrite_keeps | apply keeps_snd_ite | dsimp only | split

theorem execHorizonResetRequest_keeps (h : Keeps L s0 s) (a1 : ℕ) (a2 : BitVec 8) (lr32 : L.r32 = true := by first | assumption | rfl) (lr64 : L.r64 = true := by first | assumption | rfl) (lhost : L.host = true := by first | assumption | rfl) (lboot : L.boot = true := by first | assumption | rfl) (lsquall : L.squall = true := by first | assumption | rfl) (m : within 0x800803b80000000000000001082000 L.regs = true := by first | with_reducible assumption | (refine within_trans (by assumption) ?_; exact rfl) | rfl) :
    ∃ t, execHorizonResetRequest a1 a2 s = .next t ∧ Keeps L s0 t := by
  unfold execHorizonResetRequest
  refine ⟨_, rfl, ?_⟩
  with_reducible repeat' first | assumption | intro _ | apply keeps_ite | exact has_ok m rfl | exact within_trans m rfl | apply State.resetCtlWrite_keeps | apply keeps_snd_ite | dsimp only | split

theorem State.applyFuses_keeps (h : Keeps L s0 s) (lr32 : L.r32 = true := by first | assumption | rfl) (m : within 0x4000000000000000000000000000048000000000000000000000000000000000006c00000000 L.regs = true := by first | with_reducible assumption | (refine within_trans (by assumption) ?_; exact rfl) | rfl) :
    Keeps L s0 (State.applyFuses s) := by
  unfold State.applyFuses
  with_reducible repeat' first | assumption | intro _ | apply keeps_ite | exact has_ok m rfl | exact within_trans m rfl | apply State.each_keeps | apply State.setRole_keeps | apply State.fset_keeps | apply State.wr_keeps | apply keeps_snd_ite | dsimp only | split

theorem State.afterReset_keeps (h : Keeps L s0 s) (lr32 : L.r32 = true := by first | assumption | rfl) (lr64 : L.r64 = true := by first | assumption | rfl) (lfree : L.free = true := by first | assumption | rfl) (lmem : L.mem = true := by first | assumption | rfl) (lhost : L.host = true := by first | assumption | rfl) (lloc : L.loc = true := by first | assumption | rfl) (ldma : L.dma = true := by first | assumption | rfl) (ltime : L.time = true := by first | assumption | rfl) (llink : L.link = true := by first | assumption | rfl) (lpower : L.power = true := by first | assumption | rfl) (lboot : L.boot = true := by first | assumption | rfl) (lsquall : L.squall = true := by first | assumption | rfl) (ltm : L.tm = true := by first | assumption | rfl) (lhalo : L.halo = true := by first | assumption | rfl) (lcirrus : L.cirrus = true := by first | assumption | rfl) (lte : L.te = true := by first | assumption | rfl) (ltrust : L.trust = true := by first | assumption | rfl) (lzen : L.zen = true := by first | assumption | rfl) (m : within everyReg L.regs = true := by first | with_reducible assumption | (refine within_trans (by assumption) ?_; exact rfl) | rfl) : Keeps L s0 (State.afterReset s) := by
  unfold State.afterReset
  extract_lets b r w
  have hw : Keeps L s0 w := by
    refine h.step rfl (fun c => ⟨rfl, rfl, c.2.2.1, rfl⟩) ?_ ?_ ?_ ?_ ?_ ?_ ?_ ?_ ?_ ?_ ?_ ?_ ?_ ?_ ?_ ?_ ?_ ?_
      (fun _ _ _ => .inl (has_all m _)) <;> first | exact Or.inl (by assumption) | exact Or.inr rfl
  clear_value w
  repeat first | with_reducible assumption | with_reducible apply State.flashUndefined_keeps | split

theorem State.chipReset_keeps (h : Keeps L s0 s) (lr32 : L.r32 = true := by first | assumption | rfl) (lr64 : L.r64 = true := by first | assumption | rfl) (lfree : L.free = true := by first | assumption | rfl) (lmem : L.mem = true := by first | assumption | rfl) (lhost : L.host = true := by first | assumption | rfl) (lloc : L.loc = true := by first | assumption | rfl) (ldma : L.dma = true := by first | assumption | rfl) (ltime : L.time = true := by first | assumption | rfl) (llink : L.link = true := by first | assumption | rfl) (lpower : L.power = true := by first | assumption | rfl) (lboot : L.boot = true := by first | assumption | rfl) (lsquall : L.squall = true := by first | assumption | rfl) (ltm : L.tm = true := by first | assumption | rfl) (lhalo : L.halo = true := by first | assumption | rfl) (lcirrus : L.cirrus = true := by first | assumption | rfl) (lte : L.te = true := by first | assumption | rfl) (ltrust : L.trust = true := by first | assumption | rfl) (lzen : L.zen = true := by first | assumption | rfl) (m : within everyReg L.regs = true := by first | with_reducible assumption | (refine within_trans (by assumption) ?_; exact rfl) | rfl) : Keeps L s0 (State.chipReset s) := by
  unfold State.chipReset
  extract_lets w keep s1 s2
  have hk : Keeps L s0 keep := by
    refine (State.afterReset_keeps h).step' rfl (fun c => ⟨twf_filter _ (h.canon c).1, twf_filter _ (h.canon c).2.1,
      ((State.afterReset_keeps h).canon c).2.2⟩) ?_ ?_ ?_ ?_ ?_ ?_ ?_ ?_ ?_ ?_ ?_ ?_ ?_ ?_ ?_ ?_ ?_ ?_
      (fun _ _ _ => .inl (has_all m _)) <;> first | exact Or.inl (by assumption) | exact Or.inr rfl
  clear_value keep
  repeat first | with_reducible assumption | with_reducible apply State.fset_keeps | exact has_all m _ | exact within_trans m rfl | with_reducible apply State.applyFuses_keeps

theorem execChipReset_keeps (h : Keeps L s0 s) (lr32 : L.r32 = true := by first | assumption | rfl) (lr64 : L.r64 = true := by first | assumption | rfl) (lfree : L.free = true := by first | assumption | rfl) (lmem : L.mem = true := by first | assumption | rfl) (lhost : L.host = true := by first | assumption | rfl) (lloc : L.loc = true := by first | assumption | rfl) (ldma : L.dma = true := by first | assumption | rfl) (ltime : L.time = true := by first | assumption | rfl) (llink : L.link = true := by first | assumption | rfl) (lpower : L.power = true := by first | assumption | rfl) (lboot : L.boot = true := by first | assumption | rfl) (lsquall : L.squall = true := by first | assumption | rfl) (ltm : L.tm = true := by first | assumption | rfl) (lhalo : L.halo = true := by first | assumption | rfl) (lcirrus : L.cirrus = true := by first | assumption | rfl) (lte : L.te = true := by first | assumption | rfl) (ltrust : L.trust = true := by first | assumption | rfl) (lzen : L.zen = true := by first | assumption | rfl) (m : within everyReg L.regs = true := by first | with_reducible assumption | (refine within_trans (by assumption) ?_; exact rfl) | rfl) :
    ∃ t, execChipReset s = .next t ∧ Keeps L s0 t := by
  unfold execChipReset
  refine ⟨_, rfl, ?_⟩
  with_reducible repeat' first | assumption | intro _ | apply keeps_ite | exact has_all m _ | exact within_trans m rfl | apply State.chipReset_keeps | apply keeps_snd_ite | dsimp only | split

theorem State.vinReset_keeps (h : Keeps L s0 s) (lr32 : L.r32 = true := by first | assumption | rfl) (lr64 : L.r64 = true := by first | assumption | rfl) (lfree : L.free = true := by first | assumption | rfl) (lmem : L.mem = true := by first | assumption | rfl) (lhost : L.host = true := by first | assumption | rfl) (lloc : L.loc = true := by first | assumption | rfl) (ldma : L.dma = true := by first | assumption | rfl) (ltime : L.time = true := by first | assumption | rfl) (llink : L.link = true := by first | assumption | rfl) (lpower : L.power = true := by first | assumption | rfl) (lboot : L.boot = true := by first | assumption | rfl) (lsquall : L.squall = true := by first | assumption | rfl) (ltm : L.tm = true := by first | assumption | rfl) (lhalo : L.halo = true := by first | assumption | rfl) (lcirrus : L.cirrus = true := by first | assumption | rfl) (lte : L.te = true := by first | assumption | rfl) (ltrust : L.trust = true := by first | assumption | rfl) (lzen : L.zen = true := by first | assumption | rfl) (m : within everyReg L.regs = true := by first | with_reducible assumption | (refine within_trans (by assumption) ?_; exact rfl) | rfl) : Keeps L s0 (State.vinReset s) := by
  unfold State.vinReset
  extract_lets w keep
  have hk : Keeps L s0 keep := by
    refine (State.afterReset_keeps h).step' rfl (fun c => ⟨twf_filter _ (h.canon c).1, ((State.afterReset_keeps h).canon c).2⟩)
      ?_ ?_ ?_ ?_ ?_ ?_ ?_ ?_ ?_ ?_ ?_ ?_ ?_ ?_ ?_ ?_ ?_ ?_
      (fun _ _ _ => .inl (has_all m _)) <;> first | exact Or.inl (by assumption) | exact Or.inr rfl
  clear_value keep
  repeat first | with_reducible assumption | with_reducible apply State.fset_keeps | with_reducible apply State.wr_keeps | exact has_all m _ | exact within_trans m rfl | with_reducible apply State.applyFuses_keeps

theorem execVinInvalid_keeps (h : Keeps L s0 s) (lr32 : L.r32 = true := by first | assumption | rfl) (lr64 : L.r64 = true := by first | assumption | rfl) (lfree : L.free = true := by first | assumption | rfl) (lmem : L.mem = true := by first | assumption | rfl) (lhost : L.host = true := by first | assumption | rfl) (lloc : L.loc = true := by first | assumption | rfl) (ldma : L.dma = true := by first | assumption | rfl) (ltime : L.time = true := by first | assumption | rfl) (llink : L.link = true := by first | assumption | rfl) (lpower : L.power = true := by first | assumption | rfl) (lboot : L.boot = true := by first | assumption | rfl) (lsquall : L.squall = true := by first | assumption | rfl) (ltm : L.tm = true := by first | assumption | rfl) (lhalo : L.halo = true := by first | assumption | rfl) (lcirrus : L.cirrus = true := by first | assumption | rfl) (lte : L.te = true := by first | assumption | rfl) (ltrust : L.trust = true := by first | assumption | rfl) (lzen : L.zen = true := by first | assumption | rfl) (m : within everyReg L.regs = true := by first | with_reducible assumption | (refine within_trans (by assumption) ?_; exact rfl) | rfl) :
    ∃ t, execVinInvalid s = .next t ∧ Keeps L s0 t := by
  unfold execVinInvalid
  refine ⟨_, rfl, ?_⟩
  with_reducible repeat' first | assumption | intro _ | apply keeps_ite | exact has_all m _ | exact within_trans m rfl | apply State.vinReset_keeps | apply keeps_snd_ite | dsimp only | split

theorem execVinValid_keeps (h : Keeps L s0 s) (lboot : L.boot = true := by first | assumption | rfl) :
    ∃ t, execVinValid s = .next t ∧ Keeps L s0 t := by
  unfold execVinValid
  refine ⟨_, rfl, ?_⟩
  with_reducible repeat' first | assumption | intro _ | apply keeps_ite | apply keeps_snd_ite | dsimp only | split | exact Or.inl (by assumption) | exact Or.inr rfl | refine keeps_mk ?_ rfl rfl ?_ ?_ ?_ ?_ ?_ ?_ ?_ ?_ ?_ ?_ ?_ ?_ ?_ ?_

theorem execPerstAssert_keeps (h : Keeps L s0 s) (lr32 : L.r32 = true := by first | assumption | rfl) (lr64 : L.r64 = true := by first | assumption | rfl) (lhost : L.host = true := by first | assumption | rfl) (ldma : L.dma = true := by first | assumption | rfl) (lte : L.te = true := by first | assumption | rfl) (m : within 0x800000000000000000000000000000000000000000000000000000030837a00380000000000000000000020 L.regs = true := by first | with_reducible assumption | (refine within_trans (by assumption) ?_; exact rfl) | rfl) : ∃ t, execPerstAssert s = .next t ∧ Keeps L s0 t := by
  unfold execPerstAssert
  extract_lets s1 s2
  have h1 : Keeps L s0 s1 := forN_keeps h (fun k s h => State.flrDone_keeps (State.flr_keeps h _) _)
  clear_value s1
  have h2 : Keeps L s0 s2 := keeps_ite (State.fset_keeps (State.fset_keeps h1 _ _ _ _) _ _ _ _) h1
  exact ⟨_, rfl, keeps_perst h2 _ _ _⟩

theorem execPerstRelease_keeps (h : Keeps L s0 s) (lhost : L.host = true := by first | assumption | rfl) :
    ∃ t, execPerstRelease s = .next t ∧ Keeps L s0 t := by
  unfold execPerstRelease
  refine ⟨_, rfl, ?_⟩
  with_reducible repeat' first | assumption | intro _ | apply keeps_ite | apply keeps_snd_ite | dsimp only | split | exact Or.inl (by assumption) | exact Or.inr rfl | refine keeps_mk ?_ rfl rfl ?_ ?_ ?_ ?_ ?_ ?_ ?_ ?_ ?_ ?_ ?_ ?_ ?_ ?_

theorem State.flashCtlWrite_keeps (h : Keeps L s0 s) (a2 : Word) (lr32 : L.r32 = true := by first | assumption | rfl) (lboot : L.boot = true := by first | assumption | rfl) (m : within 0x500 L.regs = true := by first | with_reducible assumption | (refine within_trans (by assumption) ?_; exact rfl) | rfl) :
    Keeps L s0 (State.flashCtlWrite s a2) := by
  unfold State.flashCtlWrite
  with_reducible repeat' first | assumption | intro _ | apply keeps_ite | exact has_ok m rfl | exact within_trans m rfl | apply State.wr_keeps | apply State.fset_keeps | apply keeps_snd_ite | dsimp only | split | exact Or.inl (by assumption) | exact Or.inr rfl | refine keeps_mk ?_ rfl rfl ?_ ?_ ?_ ?_ ?_ ?_ ?_ ?_ ?_ ?_ ?_ ?_ ?_ ?_

theorem execFlashRead_keeps (h : Keeps L s0 s) (lr32 : L.r32 = true := by first | assumption | rfl) (lboot : L.boot = true := by first | assumption | rfl) (m : within 0x500 L.regs = true := by first | with_reducible assumption | (refine within_trans (by assumption) ?_; exact rfl) | rfl) :
    ∃ t, execFlashRead s = .next t ∧ Keeps L s0 t := by
  unfold execFlashRead
  refine ⟨_, rfl, ?_⟩
  with_reducible repeat' first | assumption | intro _ | apply keeps_ite | exact has_ok m rfl | exact within_trans m rfl | apply State.flashCtlWrite_keeps | apply keeps_snd_ite | dsimp only | split

theorem execFlashProgram_keeps (h : Keeps L s0 s) (lr32 : L.r32 = true := by first | assumption | rfl) (lboot : L.boot = true := by first | assumption | rfl) (m : within 0x500 L.regs = true := by first | with_reducible assumption | (refine within_trans (by assumption) ?_; exact rfl) | rfl) :
    ∃ t, execFlashProgram s = .next t ∧ Keeps L s0 t := by
  unfold execFlashProgram
  refine ⟨_, rfl, ?_⟩
  with_reducible repeat' first | assumption | intro _ | apply keeps_ite | exact has_ok m rfl | exact within_trans m rfl | apply State.flashCtlWrite_keeps | apply keeps_snd_ite | dsimp only | split

theorem execFlashErase_keeps (h : Keeps L s0 s) (lr32 : L.r32 = true := by first | assumption | rfl) (lboot : L.boot = true := by first | assumption | rfl) (m : within 0x500 L.regs = true := by first | with_reducible assumption | (refine within_trans (by assumption) ?_; exact rfl) | rfl) :
    ∃ t, execFlashErase s = .next t ∧ Keeps L s0 t := by
  unfold execFlashErase
  refine ⟨_, rfl, ?_⟩
  with_reducible repeat' first | assumption | intro _ | apply keeps_ite | exact has_ok m rfl | exact within_trans m rfl | apply State.flashCtlWrite_keeps | apply keeps_snd_ite | dsimp only | split

theorem execFlashOpDone_keeps (h : Keeps L s0 s) (a1 : Bool) (lr32 : L.r32 = true := by first | assumption | rfl) (lfree : L.free = true := by first | assumption | rfl) (lboot : L.boot = true := by first | assumption | rfl) (m : within 0x1400 L.regs = true := by first | with_reducible assumption | (refine within_trans (by assumption) ?_; exact rfl) | rfl) :
    ∃ t, execFlashOpDone a1 s = .next t ∧ Keeps L s0 t := by
  unfold execFlashOpDone
  refine ⟨_, rfl, ?_⟩
  with_reducible repeat' first | assumption | intro _ | apply keeps_ite | exact has_ok m rfl | exact within_trans m rfl | apply State.fset_keeps | apply State.wr_keeps | apply State.flashUndefined_keeps | apply forN_keeps | apply keeps_snd_ite | dsimp only | split | exact Or.inl (by assumption) | exact Or.inr rfl | refine keeps_mk ?_ rfl rfl ?_ ?_ ?_ ?_ ?_ ?_ ?_ ?_ ?_ ?_ ?_ ?_ ?_ ?_

end Sys2Proof.Machine
end

