-- ==== Sys2Proof/Laws/KeepsBar0.lean ====
section
/-!
SUPPORT. What each operation and each command of `Machine/Bar0.lean` (BAR0 accesses) leaves alone, in the terms of `Laws/Keeps.lean`.
-/

set_option Elab.async false

set_option linter.unusedTactic false
set_option linter.unreachableTactic false
set_option linter.unusedVariables false
namespace Sys2Proof.Machine

variable {L : Touch} {s0 s : State}

theorem State.answer_keeps (h : Keeps L s0 s) (a2 : ℕ) (lhost : L.host = true := by first | assumption | rfl) :
    Keeps L s0 (State.answer s a2) := by
  unfold State.answer
  with_reducible repeat' first | assumption | intro _ | apply keeps_ite | apply keeps_snd_ite | dsimp only | split | exact Or.inl (by assumption) | exact Or.inr rfl | refine keeps_mk ?_ rfl rfl ?_ ?_ ?_ ?_ ?_ ?_ ?_ ?_ ?_ ?_ ?_ ?_ ?_ ?_

theorem State.unsupported_keeps (h : Keeps L s0 s) (lhost : L.host = true := by first | assumption | rfl) :
    Keeps L s0 (State.unsupported s) := by
  unfold State.unsupported
  with_reducible repeat' first | assumption | intro _ | apply keeps_ite | apply keeps_snd_ite | dsimp only | split | exact Or.inl (by assumption) | exact Or.inr rfl | refine keeps_mk ?_ rfl rfl ?_ ?_ ?_ ?_ ?_ ?_ ?_ ?_ ?_ ?_ ?_ ?_ ?_ ?_

theorem State.lowRead_keeps (h : Keeps L s0 s) (a2 : ℕ) (a3 : RName) (a4 : ℕ) (a5 : ℕ) (lhost : L.host = true := by first | assumption | rfl) (lhalo : L.halo = true := by first | assumption | rfl) :
    Keeps L s0 (State.lowRead s a2 a3 a4 a5) := by
  unfold State.lowRead
  with_reducible repeat' first | assumption | intro _ | apply keeps_ite | apply State.setLatch_keeps | apply State.answer_keeps | apply keeps_snd_ite | dsimp only | split | exact Or.inl (by assumption) | exact Or.inr rfl | refine keeps_mk ?_ rfl rfl ?_ ?_ ?_ ?_ ?_ ?_ ?_ ?_ ?_ ?_ ?_ ?_ ?_ ?_

theorem State.highRead_keeps (h : Keeps L s0 s) (a2 : ℕ) (a3 : RName) (a4 : ℕ) (a5 : ℕ) (lhost : L.host = true := by first | assumption | rfl) :
    Keeps L s0 (State.highRead s a2 a3 a4 a5) := by
  unfold State.highRead
  with_reducible repeat' first | assumption | intro _ | apply keeps_ite | apply State.answer_keeps | apply State.setLatch_keeps | apply keeps_snd_ite | dsimp only | split

theorem State.latched_keeps (h : Keeps L s0 s) (a2 : ℕ) (a3 : RName) (a4 : ℕ) (lhost : L.host = true := by first | assumption | rfl) :
    Keeps L s0 (State.latched s a2 a3 a4) := by
  unfold State.latched
  with_reducible repeat' first | assumption | intro _ | apply keeps_ite | apply State.answer_keeps | apply keeps_snd_ite | dsimp only | split

theorem State.bar0Read_keeps (h : Keeps L s0 s) (a2 : ℕ) (a3 : ℕ) (lr32 : L.r32 = true := by first | assumption | rfl) (lhost : L.host = true := by first | assumption | rfl) (ltime : L.time = true := by first | assumption | rfl) (lhalo : L.halo = true := by first | assumption | rfl) (m : within 0x400000000000000000000 L.regs = true := by first | with_reducible assumption | (refine within_trans (by assumption) ?_; exact rfl) | rfl) :
    Keeps L s0 (State.bar0Read s a2 a3) := by
  unfold State.bar0Read
  with_reducible repeat' first | assumption | intro _ | apply keeps_ite | exact has_ok m rfl | exact within_trans m rfl | apply State.unsupported_keeps | apply State.answer_keeps | apply State.highRead_keeps | apply State.lowRead_keeps | apply State.nowRead_keeps | apply State.latched_keeps | apply State.capRead_keeps | apply keeps_snd_ite | dsimp only | split

theorem State.plainWrite_keeps (h : Keeps L s0 s) (a2 : RName) (a3 : ℕ) (a4 : ℕ) (a5 : Word) (lr32 : L.r32 = true := by first | assumption | rfl) (m : within everyReg L.regs = true := by first | with_reducible assumption | (refine within_trans (by assumption) ?_; exact rfl) | rfl) :
    Keeps L s0 (State.plainWrite s a2 a3 a4 a5) := by
  unfold State.plainWrite
  with_reducible repeat' first | assumption | intro _ | apply keeps_ite | exact has_all m _ | exact within_trans m rfl | apply State.wr_keeps | apply keeps_snd_ite | dsimp only | split

theorem State.imgCtlWrite_keeps (h : Keeps L s0 s) (a2 : ℕ) (a3 : Word) (lr32 : L.r32 = true := by first | assumption | rfl) (lr64 : L.r64 = true := by first | assumption | rfl) (lhost : L.host = true := by first | assumption | rfl) (lsquall : L.squall = true := by first | assumption | rfl) (lcirrus : L.cirrus = true := by first | assumption | rfl) (m : within 0x14000000000000000000000000000031880003e0000000000800801b80000000000000001082000 L.regs = true := by first | with_reducible assumption | (refine within_trans (by assumption) ?_; exact rfl) | rfl) :
    Keeps L s0 (State.imgCtlWrite s a2 a3) := by
  unfold State.imgCtlWrite
  with_reducible repeat' first | assumption | intro _ | apply keeps_ite | exact has_ok m rfl | exact within_trans m rfl | apply State.imgCancel_keeps | apply State.imgLoad_keeps | apply State.imgActivate_keeps | apply State.imgDeactivate_keeps | apply State.wr_keeps | apply keeps_snd_ite | dsimp only | split

theorem State.chCtlWrite_keeps (h : Keeps L s0 s) (a2 : ℕ) (a3 : Word) (lr32 : L.r32 = true := by first | assumption | rfl) (lr64 : L.r64 = true := by first | assumption | rfl) (ldma : L.dma = true := by first | assumption | rfl) (m : within 0x31a00000000000000000000000000000 L.regs = true := by first | with_reducible assumption | (refine within_trans (by assumption) ?_; exact rfl) | rfl) :
    Keeps L s0 (State.chCtlWrite s a2 a3) := by
  unfold State.chCtlWrite
  with_reducible repeat' first | assumption | intro _ | apply keeps_ite | exact has_ok m rfl | exact within_trans m rfl | apply State.chCmd_keeps | apply State.fset_keeps | apply keeps_snd_ite | dsimp only | split

theorem State.chOwnerWrite_keeps (h : Keeps L s0 s) (a2 : ℕ) (a3 : Word) (lr32 : L.r32 = true := by first | assumption | rfl) (m : within 0x100000000000000000000000000000 L.regs = true := by first | with_reducible assumption | (refine within_trans (by assumption) ?_; exact rfl) | rfl) :
    Keeps L s0 (State.chOwnerWrite s a2 a3) := by
  unfold State.chOwnerWrite
  with_reducible repeat' first | assumption | intro _ | apply keeps_ite | exact has_ok m rfl | exact within_trans m rfl | apply State.wr_keeps | apply keeps_snd_ite | dsimp only | split

theorem State.msixWrite_keeps (h : Keeps L s0 s) (a2 : ℕ) (a3 : ℕ) (a4 : Word) (lr32 : L.r32 = true := by first | assumption | rfl) (lhost : L.host = true := by first | assumption | rfl) (m : within 0x30000000000000000000000000000 L.regs = true := by first | with_reducible assumption | (refine within_trans (by assumption) ?_; exact rfl) | rfl) :
    Keeps L s0 (State.msixWrite s a2 a3 a4) := by
  unfold State.msixWrite
  with_reducible repeat' first | assumption | intro _ | apply keeps_ite | exact has_ok m rfl | exact within_trans m rfl | apply State.wr_keeps | apply State.sendVec_keeps | apply State.clearBit_keeps | apply keeps_snd_ite | dsimp only | split

theorem State.laneCtlWrite_keeps (h : Keeps L s0 s) (a2 : ℕ) (a3 : Word) (lr32 : L.r32 = true := by first | assumption | rfl) (lr64 : L.r64 = true := by first | assumption | rfl) (lfree : L.free = true := by first | assumption | rfl) (lmem : L.mem = true := by first | assumption | rfl) (lhost : L.host = true := by first | assumption | rfl) (llink : L.link = true := by first | assumption | rfl) (lpower : L.power = true := by first | assumption | rfl) (lsquall : L.squall = true := by first | assumption | rfl) (ltm : L.tm = true := by first | assumption | rfl) (lcirrus : L.cirrus = true := by first | assumption | rfl) (m : within 0x1502800f38d00001000580170080000000000000000000000822801b80000000000008001082000 L.regs = true := by first | with_reducible assumption | (refine within_trans (by assumption) ?_; exact rfl) | rfl) :
    Keeps L s0 (State.laneCtlWrite s a2 a3) := by
  unfold State.laneCtlWrite
  with_reducible repeat' first | assumption | intro _ | apply keeps_ite | exact has_ok m rfl | exact within_trans m rfl | apply State.wr_keeps | apply State.testSet_keeps | apply keeps_snd_ite | dsimp only | split

theorem State.prbsCtlWrite_keeps (h : Keeps L s0 s) (a2 : ℕ) (a3 : Word) (lr32 : L.r32 = true := by first | assumption | rfl) (lr64 : L.r64 = true := by first | assumption | rfl) (lfree : L.free = true := by first | assumption | rfl) (lmem : L.mem = true := by first | assumption | rfl) (lhost : L.host = true := by first | assumption | rfl) (llink : L.link = true := by first | assumption | rfl) (lpower : L.power = true := by first | assumption | rfl) (lsquall : L.squall = true := by first | assumption | rfl) (ltm : L.tm = true := by first | assumption | rfl) (lcirrus : L.cirrus = true := by first | assumption | rfl) (m : within 0x1502800f38d00001000580170080000000000000000000000822801b80000000000008001082000 L.regs = true := by first | with_reducible assumption | (refine within_trans (by assumption) ?_; exact rfl) | rfl) :
    Keeps L s0 (State.prbsCtlWrite s a2 a3) := by
  unfold State.prbsCtlWrite
  with_reducible repeat' first | assumption | intro _ | apply keeps_ite | exact has_ok m rfl | exact within_trans m rfl | apply State.wr_keeps | apply State.testSet_keeps | apply State.injectOne_keeps | apply keeps_snd_ite | dsimp only | split

theorem State.gclWrite_keeps (h : Keeps L s0 s) (a2 : ℕ) (a3 : ℕ) (a4 : Word) (lr32 : L.r32 = true := by first | assumption | rfl) (m : within 0x10000000000000000000000000000000000000000000000000000000000000000000 L.regs = true := by first | with_reducible assumption | (refine within_trans (by assumption) ?_; exact rfl) | rfl) :
    Keeps L s0 (State.gclWrite s a2 a3 a4) := by
  unfold State.gclWrite
  with_reducible repeat' first | assumption | intro _ | apply keeps_ite | exact has_ok m rfl | exact within_trans m rfl | apply State.wr_keeps | apply keeps_snd_ite | dsimp only | split

theorem State.ringOwnerWrite_keeps (h : Keeps L s0 s) (a2 : ℕ) (a3 : Word) (lr32 : L.r32 = true := by first | assumption | rfl) (m : within 0x80000000000000000000000000 L.regs = true := by first | with_reducible assumption | (refine within_trans (by assumption) ?_; exact rfl) | rfl) :
    Keeps L s0 (State.ringOwnerWrite s a2 a3) := by
  unfold State.ringOwnerWrite
  with_reducible repeat' first | assumption | intro _ | apply keeps_ite | exact has_ok m rfl | exact within_trans m rfl | apply State.wr_keeps | apply keeps_snd_ite | dsimp only | split

theorem State.ppsCfgWrite_keeps (h : Keeps L s0 s) (a2 : Word) (lr32 : L.r32 = true := by first | assumption | rfl) (ltime : L.time = true := by first | assumption | rfl) (m : within 0x8000000000000000000 L.regs = true := by first | with_reducible assumption | (refine within_trans (by assumption) ?_; exact rfl) | rfl) :
    Keeps L s0 (State.ppsCfgWrite s a2) := by
  unfold State.ppsCfgWrite
  with_reducible repeat' first | assumption | intro _ | apply keeps_ite | exact has_ok m rfl | exact within_trans m rfl | apply State.wr_keeps | apply keeps_snd_ite | dsimp only | split | exact Or.inl (by assumption) | exact Or.inr rfl | refine keeps_mk ?_ rfl rfl ?_ ?_ ?_ ?_ ?_ ?_ ?_ ?_ ?_ ?_ ?_ ?_ ?_ ?_

theorem State.regWrite_keeps (h : Keeps L s0 s) (a2 : ℕ) (a3 : RName) (a4 : ℕ) (a5 : ℕ) (a6 : Word) (lr32 : L.r32 = true := by first | assumption | rfl) (lr64 : L.r64 = true := by first | assumption | rfl) (lfree : L.free = true := by first | assumption | rfl) (lmem : L.mem = true := by first | assumption | rfl) (lhost : L.host = true := by first | assumption | rfl) (ldma : L.dma = true := by first | assumption | rfl) (ltime : L.time = true := by first | assumption | rfl) (llink : L.link = true := by first | assumption | rfl) (lpower : L.power = true := by first | assumption | rfl) (lboot : L.boot = true := by first | assumption | rfl) (lsquall : L.squall = true := by first | assumption | rfl) (ltm : L.tm = true := by first | assumption | rfl) (lhalo : L.halo = true := by first | assumption | rfl) (lcirrus : L.cirrus = true := by first | assumption | rfl) (lte : L.te = true := by first | assumption | rfl) (ltrust : L.trust = true := by first | assumption | rfl) (lzen : L.zen = true := by first | assumption | rfl) (m : within everyReg L.regs = true := by first | with_reducible assumption | (refine within_trans (by assumption) ?_; exact rfl) | rfl) (cp2 : L.has a3 = true := by first | with_reducible assumption | (refine has_ok (by assumption) ?_; exact rfl) | rfl) :
    Keeps L s0 (State.regWrite s a2 a3 a4 a5 a6) := by
  unfold State.regWrite
  with_reducible repeat' first | assumption | intro _ | apply keeps_ite | exact has_all m _ | exact within_trans m rfl | apply State.resetCtlWrite_keeps | apply State.flashCtlWrite_keeps | apply State.rearm_keeps | apply State.plainWrite_keeps | apply State.bistCtlWrite_keeps | apply State.pwrCfgWrite_keeps | apply State.adjCmd_keeps | apply State.ppsCfgWrite_keeps | apply State.trigWrite_keeps | apply State.ringOwnerWrite_keeps | apply State.ringCtlWrite_keeps | apply State.msixWrite_keeps | apply State.swreqWrite_keeps | apply State.chOwnerWrite_keeps | apply State.chCtlWrite_keeps | apply State.bnCmdWrite_keeps | apply State.bnCfgWrite_keeps | apply State.polCmd_keeps | apply State.stateTabWrite_keeps | apply State.tcamWrite_keeps | apply State.ptypeWrite_keeps | apply State.imgCtlWrite_keeps | apply State.csRead_keeps | apply State.pgScan_keeps | apply State.voqCtlWrite_keeps | apply State.pfcCfgWrite_keeps | apply State.pgCfgWrite_keeps | apply State.mcCmdWrite_keeps | apply State.shaperWrite_keeps | apply State.gateCfgWrite_keeps | apply State.gclWrite_keeps | apply State.txgrpWrite_keeps | apply State.portCfgWrite_keeps | apply State.portLpsWrite_keeps | apply State.laneCtlWrite_keeps | apply State.eyeWrite_keeps | apply State.prbsCtlWrite_keeps | apply State.mailboxGo_keeps | apply State.anvilCtlWrite_keeps | apply State.pcCfgWrite_keeps | apply State.flowSeedWrite_keeps | apply State.flowFlush_keeps | apply State.histClear_keeps | apply State.statCmd_keeps | apply State.grpCtlWrite_keeps | apply State.emSeedWrite_keeps | apply State.ageTickWrite_keeps | apply State.lpmCfgWrite_keeps | apply State.teGo_keeps | apply State.tblCfgWrite_keeps | apply State.tcamCfgWrite_keeps | apply keeps_snd_ite | dsimp only | split

theorem State.wideWrite_keeps (h : Keeps L s0 s) (a2 : RName) (a3 : ℕ) (a4 : ℕ) (a5 : DWord) (lr64 : L.r64 = true := by first | assumption | rfl) (m : within everyReg L.regs = true := by first | with_reducible assumption | (refine within_trans (by assumption) ?_; exact rfl) | rfl) :
    Keeps L s0 (State.wideWrite s a2 a3 a4 a5) := by
  unfold State.wideWrite
  with_reducible repeat' first | assumption | intro _ | apply keeps_ite | exact has_all m _ | exact within_trans m rfl | apply State.wrw_keeps | apply keeps_snd_ite | dsimp only | split

theorem State.setHold_keeps (h : Keeps L s0 s) (a2 : ℕ) (a3 : RName) (a4 : ℕ) (a5 : ℕ) (a6 : Option Word) (lhost : L.host = true := by first | assumption | rfl) :
    Keeps L s0 (State.setHold s a2 a3 a4 a5 a6) := by
  unfold State.setHold
  with_reducible repeat' first | assumption | intro _ | apply keeps_ite | apply keeps_snd_ite | dsimp only | split | exact Or.inl (by assumption) | exact Or.inr rfl | refine keeps_mk ?_ rfl rfl ?_ ?_ ?_ ?_ ?_ ?_ ?_ ?_ ?_ ?_ ?_ ?_ ?_ ?_

theorem State.highWrite_keeps (h : Keeps L s0 s) (a2 : ℕ) (a3 : RName) (a4 : ℕ) (a5 : ℕ) (a6 : Word) (lr64 : L.r64 = true := by first | assumption | rfl) (lhost : L.host = true := by first | assumption | rfl) (m : within everyReg L.regs = true := by first | with_reducible assumption | (refine within_trans (by assumption) ?_; exact rfl) | rfl) :
    Keeps L s0 (State.highWrite s a2 a3 a4 a5 a6) := by
  unfold State.highWrite
  with_reducible repeat' first | assumption | intro _ | apply keeps_ite | exact has_all m _ | exact within_trans m rfl | apply State.wideWrite_keeps | apply State.setHold_keeps | apply keeps_snd_ite | dsimp only | split

theorem State.apply4_keeps (h : Keeps L s0 s) (a2 : ℕ) (a3 : ℕ) (a4 : Word) (lr32 : L.r32 = true := by first | assumption | rfl) (lr64 : L.r64 = true := by first | assumption | rfl) (lfree : L.free = true := by first | assumption | rfl) (lmem : L.mem = true := by first | assumption | rfl) (lhost : L.host = true := by first | assumption | rfl) (ldma : L.dma = true := by first | assumption | rfl) (ltime : L.time = true := by first | assumption | rfl) (llink : L.link = true := by first | assumption | rfl) (lpower : L.power = true := by first | assumption | rfl) (lboot : L.boot = true := by first | assumption | rfl) (lsquall : L.squall = true := by first | assumption | rfl) (ltm : L.tm = true := by first | assumption | rfl) (lhalo : L.halo = true := by first | assumption | rfl) (lcirrus : L.cirrus = true := by first | assumption | rfl) (lte : L.te = true := by first | assumption | rfl) (ltrust : L.trust = true := by first | assumption | rfl) (lzen : L.zen = true := by first | assumption | rfl) (m : within everyReg L.regs = true := by first | with_reducible assumption | (refine within_trans (by assumption) ?_; exact rfl) | rfl) :
    Keeps L s0 (State.apply4 s a2 a3 a4) := by
  unfold State.apply4
  with_reducible repeat' first | assumption | intro _ | apply keeps_ite | exact has_all m _ | exact within_trans m rfl | apply State.highWrite_keeps | apply State.setHold_keeps | apply State.regWrite_keeps | apply keeps_snd_ite | dsimp only | split

theorem State.apply8_keeps (h : Keeps L s0 s) (a2 : ℕ) (a3 : ℕ) (a4 : DWord) (lr32 : L.r32 = true := by first | assumption | rfl) (lr64 : L.r64 = true := by first | assumption | rfl) (lfree : L.free = true := by first | assumption | rfl) (lmem : L.mem = true := by first | assumption | rfl) (lhost : L.host = true := by first | assumption | rfl) (ldma : L.dma = true := by first | assumption | rfl) (ltime : L.time = true := by first | assumption | rfl) (llink : L.link = true := by first | assumption | rfl) (lpower : L.power = true := by first | assumption | rfl) (lboot : L.boot = true := by first | assumption | rfl) (lsquall : L.squall = true := by first | assumption | rfl) (ltm : L.tm = true := by first | assumption | rfl) (lhalo : L.halo = true := by first | assumption | rfl) (lcirrus : L.cirrus = true := by first | assumption | rfl) (lte : L.te = true := by first | assumption | rfl) (ltrust : L.trust = true := by first | assumption | rfl) (lzen : L.zen = true := by first | assumption | rfl) (m : within everyReg L.regs = true := by first | with_reducible assumption | (refine within_trans (by assumption) ?_; exact rfl) | rfl) :
    Keeps L s0 (State.apply8 s a2 a3 a4) := by
  unfold State.apply8
  with_reducible repeat' first | assumption | intro _ | apply keeps_ite | exact has_all m _ | exact within_trans m rfl | apply State.wideWrite_keeps | apply State.apply4_keeps | apply keeps_snd_ite | dsimp only | split

theorem State.writeUnder_keeps (h : Keeps L s0 s) (a2 : ℕ) (a3 : ℕ) (a4 : ℕ) {a5 : State → State} (ha5 : ∀ s, Keeps L s0 s → Keeps L s0 (a5 s)) (lr32 : L.r32 = true := by first | assumption | rfl) (lr64 : L.r64 = true := by first | assumption | rfl) (lhost : L.host = true := by first | assumption | rfl) (lsquall : L.squall = true := by first | assumption | rfl) (m : within 0x800803b80000000000000001082000 L.regs = true := by first | with_reducible assumption | (refine within_trans (by assumption) ?_; exact rfl) | rfl) :
    Keeps L s0 (State.writeUnder s a2 a3 a4 a5) := by
  unfold State.writeUnder
  with_reducible repeat' first | assumption | intro _ | apply keeps_ite | exact has_ok m rfl | exact within_trans m rfl | apply ha5 | apply State.bump_keeps | apply State.violation_keeps | apply keeps_snd_ite | dsimp only | split

theorem State.bar0Write_keeps (h : Keeps L s0 s) (a2 : ℕ) (a3 : ℕ) (a4 : Word) (lr32 : L.r32 = true := by first | assumption | rfl) (lr64 : L.r64 = true := by first | assumption | rfl) (lfree : L.free = true := by first | assumption | rfl) (lmem : L.mem = true := by first | assumption | rfl) (lhost : L.host = true := by first | assumption | rfl) (ldma : L.dma = true := by first | assumption | rfl) (ltime : L.time = true := by first | assumption | rfl) (llink : L.link = true := by first | assumption | rfl) (lpower : L.power = true := by first | assumption | rfl) (lboot : L.boot = true := by first | assumption | rfl) (lsquall : L.squall = true := by first | assumption | rfl) (ltm : L.tm = true := by first | assumption | rfl) (lhalo : L.halo = true := by first | assumption | rfl) (lcirrus : L.cirrus = true := by first | assumption | rfl) (lte : L.te = true := by first | assumption | rfl) (ltrust : L.trust = true := by first | assumption | rfl) (lzen : L.zen = true := by first | assumption | rfl) (m : within everyReg L.regs = true := by first | with_reducible assumption | (refine within_trans (by assumption) ?_; exact rfl) | rfl) :
    Keeps L s0 (State.bar0Write s a2 a3 a4) := by
  unfold State.bar0Write
  with_reducible repeat' first | assumption | intro _ | apply keeps_ite | exact has_all m _ | exact within_trans m rfl | apply State.answer_keeps | apply State.writeUnder_keeps | apply State.apply4_keeps | apply State.unsupported_keeps | apply keeps_snd_ite | dsimp only | split

theorem execRegisterWrite_keeps (h : Keeps L s0 s) (a1 : ℕ) (a2 : ℕ) (a3 : Word) (lr32 : L.r32 = true := by first | assumption | rfl) (lr64 : L.r64 = true := by first | assumption | rfl) (lfree : L.free = true := by first | assumption | rfl) (lmem : L.mem = true := by first | assumption | rfl) (lhost : L.host = true := by first | assumption | rfl) (ldma : L.dma = true := by first | assumption | rfl) (ltime : L.time = true := by first | assumption | rfl) (llink : L.link = true := by first | assumption | rfl) (lpower : L.power = true := by first | assumption | rfl) (lboot : L.boot = true := by first | assumption | rfl) (lsquall : L.squall = true := by first | assumption | rfl) (ltm : L.tm = true := by first | assumption | rfl) (lhalo : L.halo = true := by first | assumption | rfl) (lcirrus : L.cirrus = true := by first | assumption | rfl) (lte : L.te = true := by first | assumption | rfl) (ltrust : L.trust = true := by first | assumption | rfl) (lzen : L.zen = true := by first | assumption | rfl) (m : within everyReg L.regs = true := by first | with_reducible assumption | (refine within_trans (by assumption) ?_; exact rfl) | rfl) :
    ∃ t, execRegisterWrite a1 a2 a3 s = .next t ∧ Keeps L s0 t := by
  unfold execRegisterWrite
  refine ⟨_, rfl, ?_⟩
  with_reducible repeat' first | assumption | intro _ | apply keeps_ite | exact has_all m _ | exact within_trans m rfl | apply State.bar0Write_keeps | apply keeps_snd_ite | dsimp only | split

theorem execLowWordWrite_keeps (h : Keeps L s0 s) (a1 : ℕ) (a2 : ℕ) (a3 : Word) (lr32 : L.r32 = true := by first | assumption | rfl) (lr64 : L.r64 = true := by first | assumption | rfl) (lfree : L.free = true := by first | assumption | rfl) (lmem : L.mem = true := by first | assumption | rfl) (lhost : L.host = true := by first | assumption | rfl) (ldma : L.dma = true := by first | assumption | rfl) (ltime : L.time = true := by first | assumption | rfl) (llink : L.link = true := by first | assumption | rfl) (lpower : L.power = true := by first | assumption | rfl) (lboot : L.boot = true := by first | assumption | rfl) (lsquall : L.squall = true := by first | assumption | rfl) (ltm : L.tm = true := by first | assumption | rfl) (lhalo : L.halo = true := by first | assumption | rfl) (lcirrus : L.cirrus = true := by first | assumption | rfl) (lte : L.te = true := by first | assumption | rfl) (ltrust : L.trust = true := by first | assumption | rfl) (lzen : L.zen = true := by first | assumption | rfl) (m : within everyReg L.regs = true := by first | with_reducible assumption | (refine within_trans (by assumption) ?_; exact rfl) | rfl) :
    ∃ t, execLowWordWrite a1 a2 a3 s = .next t ∧ Keeps L s0 t := by
  unfold execLowWordWrite
  refine ⟨_, rfl, ?_⟩
  with_reducible repeat' first | assumption | intro _ | apply keeps_ite | exact has_all m _ | exact within_trans m rfl | apply State.bar0Write_keeps | apply keeps_snd_ite | dsimp only | split

theorem execHighWordWrite_keeps (h : Keeps L s0 s) (a1 : ℕ) (a2 : ℕ) (a3 : Word) (lr32 : L.r32 = true := by first | assumption | rfl) (lr64 : L.r64 = true := by first | assumption | rfl) (lfree : L.free = true := by first | assumption | rfl) (lmem : L.mem = true := by first | assumption | rfl) (lhost : L.host = true := by first | assumption | rfl) (ldma : L.dma = true := by first | assumption | rfl) (ltime : L.time = true := by first | assumption | rfl) (llink : L.link = true := by first | assumption | rfl) (lpower : L.power = true := by first | assumption | rfl) (lboot : L.boot = true := by first | assumption | rfl) (lsquall : L.squall = true := by first | assumption | rfl) (ltm : L.tm = true := by first | assumption | rfl) (lhalo : L.halo = true := by first | assumption | rfl) (lcirrus : L.cirrus = true := by first | assumption | rfl) (lte : L.te = true := by first | assumption | rfl) (ltrust : L.trust = true := by first | assumption | rfl) (lzen : L.zen = true := by first | assumption | rfl) (m : within everyReg L.regs = true := by first | with_reducible assumption | (refine within_trans (by assumption) ?_; exact rfl) | rfl) :
    ∃ t, execHighWordWrite a1 a2 a3 s = .next t ∧ Keeps L s0 t := by
  unfold execHighWordWrite
  refine ⟨_, rfl, ?_⟩
  with_reducible repeat' first | assumption | intro _ | apply keeps_ite | exact has_all m _ | exact within_trans m rfl | apply State.bar0Write_keeps | apply keeps_snd_ite | dsimp only | split

theorem execLowWordRead_keeps (h : Keeps L s0 s) (a1 : ℕ) (a2 : ℕ) (lr32 : L.r32 = true := by first | assumption | rfl) (lhost : L.host = true := by first | assumption | rfl) (ltime : L.time = true := by first | assumption | rfl) (lhalo : L.halo = true := by first | assumption | rfl) (m : within 0x400000000000000000000 L.regs = true := by first | with_reducible assumption | (refine within_trans (by assumption) ?_; exact rfl) | rfl) :
    ∃ t, execLowWordRead a1 a2 s = .next t ∧ Keeps L s0 t := by
  unfold execLowWordRead
  refine ⟨_, rfl, ?_⟩
  with_reducible repeat' first | assumption | intro _ | apply keeps_ite | exact has_ok m rfl | exact within_trans m rfl | apply State.bar0Read_keeps | apply keeps_snd_ite | dsimp only | split

theorem State.bar0Read8_keeps (h : Keeps L s0 s) (a2 : ℕ) (a3 : ℕ) (lr32 : L.r32 = true := by first | assumption | rfl) (lhost : L.host = true := by first | assumption | rfl) (ltime : L.time = true := by first | assumption | rfl) (lhalo : L.halo = true := by first | assumption | rfl) (m : within 0x400000000000000000000 L.regs = true := by first | with_reducible assumption | (refine within_trans (by assumption) ?_; exact rfl) | rfl) :
    Keeps L s0 (State.bar0Read8 s a2 a3) := by
  unfold State.bar0Read8
  with_reducible repeat' first | assumption | intro _ | apply keeps_ite | exact has_ok m rfl | exact within_trans m rfl | apply State.bar0Read_keeps | apply State.answer_keeps | apply State.unsupported_keeps | apply keeps_snd_ite | dsimp only | split

theorem State.bar0Access_keeps (h : Keeps L s0 s) (a2 : ℕ) (a3 : ℕ) (a4 : ℕ) (a5 : Bool) (a6 : DWord) (lr32 : L.r32 = true := by first | assumption | rfl) (lr64 : L.r64 = true := by first | assumption | rfl) (lfree : L.free = true := by first | assumption | rfl) (lmem : L.mem = true := by first | assumption | rfl) (lhost : L.host = true := by first | assumption | rfl) (ldma : L.dma = true := by first | assumption | rfl) (ltime : L.time = true := by first | assumption | rfl) (llink : L.link = true := by first | assumption | rfl) (lpower : L.power = true := by first | assumption | rfl) (lboot : L.boot = true := by first | assumption | rfl) (lsquall : L.squall = true := by first | assumption | rfl) (ltm : L.tm = true := by first | assumption | rfl) (lhalo : L.halo = true := by first | assumption | rfl) (lcirrus : L.cirrus = true := by first | assumption | rfl) (lte : L.te = true := by first | assumption | rfl) (ltrust : L.trust = true := by first | assumption | rfl) (lzen : L.zen = true := by first | assumption | rfl) (m : within everyReg L.regs = true := by first | with_reducible assumption | (refine within_trans (by assumption) ?_; exact rfl) | rfl) :
    Keeps L s0 (State.bar0Access s a2 a3 a4 a5 a6) := by
  unfold State.bar0Access
  with_reducible repeat' first | assumption | intro _ | apply keeps_ite | exact has_all m _ | exact within_trans m rfl | apply State.bar0Write_keeps | apply State.bar0Read_keeps | apply State.unsupported_keeps | apply State.answer_keeps | apply State.writeUnder_keeps | apply State.apply8_keeps | apply State.bar0Read8_keeps | apply keeps_snd_ite | dsimp only | split

theorem State.bar2Access_keeps (h : Keeps L s0 s) (a2 : ℕ) (a3 : ℕ) (a4 : ℕ) (a5 : Bool) (a6 : DWord) (lr32 : L.r32 = true := by first | assumption | rfl) (lr64 : L.r64 = true := by first | assumption | rfl) (lhost : L.host = true := by first | assumption | rfl) (lsquall : L.squall = true := by first | assumption | rfl) (m : within 0x805805b80000000000000001082000 L.regs = true := by first | with_reducible assumption | (refine within_trans (by assumption) ?_; exact rfl) | rfl) :
    Keeps L s0 (State.bar2Access s a2 a3 a4 a5 a6) := by
  unfold State.bar2Access
  with_reducible repeat' first | assumption | intro _ | apply keeps_ite | exact has_ok m rfl | exact within_trans m rfl | apply State.unsupported_keeps | apply State.answer_keeps | apply State.pageWordWrite_keeps | apply keeps_snd_ite | dsimp only | split

theorem State.bar4Access_keeps (h : Keeps L s0 s) (a2 : ℕ) (a3 : ℕ) (a4 : ℕ) (a5 : Bool) (lr64 : L.r64 = true := by first | assumption | rfl) (lhost : L.host = true := by first | assumption | rfl) (m : within 0x4000000000000000000000000000000000000000000000000000000000000000000000000000000000000 L.regs = true := by first | with_reducible assumption | (refine within_trans (by assumption) ?_; exact rfl) | rfl) :
    Keeps L s0 (State.bar4Access s a2 a3 a4 a5) := by
  unfold State.bar4Access
  with_reducible repeat' first | assumption | intro _ | apply keeps_ite | exact has_ok m rfl | exact within_trans m rfl | apply State.unsupported_keeps | apply State.answer_keeps | apply State.bar4Write_keeps | apply keeps_snd_ite | dsimp only | split

theorem execEightByteAccess_keeps (h : Keeps L s0 s) (a1 : ℕ) (a2 : Fin 3) (a3 : ℕ) (a4 : ℕ) (a5 : Bool) (a6 : DWord) (lr32 : L.r32 = true := by first | assumption | rfl) (lr64 : L.r64 = true := by first | assumption | rfl) (lfree : L.free = true := by first | assumption | rfl) (lmem : L.mem = true := by first | assumption | rfl) (lhost : L.host = true := by first | assumption | rfl) (ldma : L.dma = true := by first | assumption | rfl) (ltime : L.time = true := by first | assumption | rfl) (llink : L.link = true := by first | assumption | rfl) (lpower : L.power = true := by first | assumption | rfl) (lboot : L.boot = true := by first | assumption | rfl) (lsquall : L.squall = true := by first | assumption | rfl) (ltm : L.tm = true := by first | assumption | rfl) (lhalo : L.halo = true := by first | assumption | rfl) (lcirrus : L.cirrus = true := by first | assumption | rfl) (lte : L.te = true := by first | assumption | rfl) (ltrust : L.trust = true := by first | assumption | rfl) (lzen : L.zen = true := by first | assumption | rfl) (m : within everyReg L.regs = true := by first | with_reducible assumption | (refine within_trans (by assumption) ?_; exact rfl) | rfl) :
    ∃ t, execEightByteAccess a1 a2 a3 a4 a5 a6 s = .next t ∧ Keeps L s0 t := by
  unfold execEightByteAccess
  refine ⟨_, rfl, ?_⟩
  with_reducible repeat' first | assumption | intro _ | apply keeps_ite | exact has_all m _ | exact within_trans m rfl | apply State.bar0Access_keeps | apply State.bar2Access_keeps | apply State.bar4Access_keeps | apply keeps_snd_ite | dsimp only | split

end Sys2Proof.Machine
end

