-- ==== Sys2Proof/Laws/KeepsDma.lean ====
section
/-!
SUPPORT. What each operation and each command of `Machine/Dma.lean` (the DMA engine) leaves alone, in the terms of `Laws/Keeps.lean`.
-/

set_option Elab.async false

set_option linter.unusedTactic false
set_option linter.unreachableTactic false
set_option linter.unusedVariables false
namespace Sys2Proof.Machine

variable {L : Touch} {s0 s : State}

theorem State.execIns_keeps (h : Keeps L s0 s) (a2 : ℕ) (a3 : List Byte) {f : DmaOp → State → Option State}
    (hf : ∀ o s u, Keeps L s0 s → f o s = some u → Keeps L s0 u) (lr32 : L.r32 = true := by first | assumption | rfl) (lr64 : L.r64 = true := by first | assumption | rfl) (lhost : L.host = true := by first | assumption | rfl) (ldma : L.dma = true := by first | assumption | rfl) (lsquall : L.squall = true := by first | assumption | rfl) (m : within 0x800001800000000000000001082000 L.regs = true := by first | with_reducible assumption | (refine within_trans (by assumption) ?_; exact rfl) | rfl) : Keeps L s0 (State.execIns s a2 a3 f) := by
  unfold State.execIns
  split
  · exact h
  · split
    · exact State.chViolation_keeps h _ _ _
    · cases e : f (s.insAt a2 a3) s with
      | none => exact h
      | some u => exact hf _ _ _ h e

theorem State.chGo_keeps (h : Keeps L s0 s) (a2 : ℕ) (a3 : ℕ) (lr64 : L.r64 = true := by first | assumption | rfl) (ldma : L.dma = true := by first | assumption | rfl) (m : within 0x1000000000000000000000000000000 L.regs = true := by first | with_reducible assumption | (refine within_trans (by assumption) ?_; exact rfl) | rfl) :
    Keeps L s0 (State.chGo s a2 a3) := by
  unfold State.chGo
  with_reducible repeat' first | assumption | intro _ | apply keeps_ite | exact has_ok m rfl | exact within_trans m rfl | apply State.setDmaCh_keeps | apply State.wrw_keeps | apply keeps_snd_ite | dsimp only | split

theorem State.chNext_keeps (h : Keeps L s0 s) (a2 : ℕ) (lr64 : L.r64 = true := by first | assumption | rfl) (ldma : L.dma = true := by first | assumption | rfl) (m : within 0x1000000000000000000000000000000 L.regs = true := by first | with_reducible assumption | (refine within_trans (by assumption) ?_; exact rfl) | rfl) :
    Keeps L s0 (State.chNext s a2) := by
  unfold State.chNext
  with_reducible repeat' first | assumption | intro _ | apply keeps_ite | exact has_ok m rfl | exact within_trans m rfl | apply State.chGo_keeps | apply keeps_snd_ite | dsimp only | split

theorem State.moveStart_keeps (h : Keeps L s0 s) (a2 : ℕ) (a3 : ℕ) (a4 : ℕ) (a5 : Bool) (a6 : Bool) (a7 : Bool) (a8 : ℕ) (a9 : ℕ) (a10 : ℕ) (lr32 : L.r32 = true := by first | assumption | rfl) (lr64 : L.r64 = true := by first | assumption | rfl) (ldma : L.dma = true := by first | assumption | rfl) (m : within 0xf800000000000000000000000000000 L.regs = true := by first | with_reducible assumption | (refine within_trans (by assumption) ?_; exact rfl) | rfl) :
    Keeps L s0 (State.moveStart s a2 a3 a4 a5 a6 a7 a8 a9 a10) := by
  unfold State.moveStart
  with_reducible repeat' first | assumption | intro _ | apply keeps_ite | exact has_ok m rfl | exact within_trans m rfl | apply State.wrw_keeps | apply State.wr_keeps | apply State.fset_keeps | apply State.chNext_keeps | apply State.setDmaCh_keeps | apply keeps_snd_ite | dsimp only | split

theorem execDmaMove_keeps (h : Keeps L s0 s) (a1 : ℕ) (a2 : List Byte) (lr32 : L.r32 = true := by first | assumption | rfl) (lr64 : L.r64 = true := by first | assumption | rfl) (lhost : L.host = true := by first | assumption | rfl) (ldma : L.dma = true := by first | assumption | rfl) (lsquall : L.squall = true := by first | assumption | rfl) (m : within 0xf800001800000000000000001082000 L.regs = true := by first | with_reducible assumption | (refine within_trans (by assumption) ?_; exact rfl) | rfl) : ∃ t, execDmaMove a1 a2 s = .next t ∧ Keeps L s0 t := by
  unfold execDmaMove
  refine ⟨_, rfl, State.execIns_keeps h _ _ ?_⟩
  intro o s u h e
  try dsimp only at e
  split at e
  all_goals first
    | (cases e; done)
    | (injection e with e
       rw [← e]
       first
         | with_reducible apply State.moveStart_keeps
         | with_reducible apply State.loopDo_keeps
         | skip
       repeat' first | with_reducible assumption | with_reducible apply State.signalDo_keeps | with_reducible apply State.endDo_keeps | with_reducible apply State.chFault_keeps | with_reducible apply State.waitEnd_keeps | with_reducible apply State.setDmaCh_keeps | with_reducible apply State.fset_keeps | exact has_ok m rfl | exact within_trans m rfl | split)

theorem State.moveEnd_keeps (h : Keeps L s0 s) (a2 : ℕ) (a3 : Bool) (a4 : Bool) (a5 : ℕ) (a6 : ℕ) (a7 : ℕ) (lr32 : L.r32 = true := by first | assumption | rfl) (lr64 : L.r64 = true := by first | assumption | rfl) (ldma : L.dma = true := by first | assumption | rfl) (m : within 0x7800000000000000000000000000000 L.regs = true := by first | with_reducible assumption | (refine within_trans (by assumption) ?_; exact rfl) | rfl) :
    Keeps L s0 (State.moveEnd s a2 a3 a4 a5 a6 a7) := by
  unfold State.moveEnd
  with_reducible repeat' first | assumption | intro _ | apply keeps_ite | exact has_ok m rfl | exact within_trans m rfl | apply State.chNext_keeps | apply State.fset_keeps | apply State.wrw_keeps | apply keeps_snd_ite | dsimp only | split

theorem State.setChBuf_keeps (h : Keeps L s0 s) (a2 : ℕ) (a3 : List Byte) (lr32 : L.r32 = true := by first | assumption | rfl) (ldma : L.dma = true := by first | assumption | rfl) (m : within 0x800000000000000000000000000000 L.regs = true := by first | with_reducible assumption | (refine within_trans (by assumption) ?_; exact rfl) | rfl) :
    Keeps L s0 (State.setChBuf s a2 a3) := by
  unfold State.setChBuf
  with_reducible repeat' first | assumption | intro _ | apply keeps_ite | exact has_ok m rfl | exact within_trans m rfl | apply State.fset_keeps | apply State.setDmaCh_keeps | apply keeps_snd_ite | dsimp only | split

theorem execDmaReadCompletion_keeps (h : Keeps L s0 s) (a1 : ℕ) (a2 : List Byte) (a3 : Bool) (lr32 : L.r32 = true := by first | assumption | rfl) (lr64 : L.r64 = true := by first | assumption | rfl) (lhost : L.host = true := by first | assumption | rfl) (ldma : L.dma = true := by first | assumption | rfl) (lsquall : L.squall = true := by first | assumption | rfl) (m : within 0x20800001800000000000000001082000 L.regs = true := by first | with_reducible assumption | (refine within_trans (by assumption) ?_; exact rfl) | rfl) :
    ∃ t, execDmaReadCompletion a1 a2 a3 s = .next t ∧ Keeps L s0 t := by
  unfold execDmaReadCompletion
  refine ⟨_, rfl, ?_⟩
  with_reducible repeat' first | assumption | intro _ | apply keeps_ite | exact has_ok m rfl | exact within_trans m rfl | apply State.chViolation_keeps | apply State.chFault_keeps | apply State.setChBuf_keeps | apply keeps_snd_ite | dsimp only | split

theorem State.regFetch_keeps (h : Keeps L s0 s) (a2 : ℕ) (a3 : ℕ) (a4 : ℕ) (lr32 : L.r32 = true := by first | assumption | rfl) (lhost : L.host = true := by first | assumption | rfl) (ltime : L.time = true := by first | assumption | rfl) (lhalo : L.halo = true := by first | assumption | rfl) (m : within 0x400000000000000000000 L.regs = true := by first | with_reducible assumption | (refine within_trans (by assumption) ?_; exact rfl) | rfl) :
    Keeps L s0 (State.regFetch s a2 a3 a4).2 := by
  unfold State.regFetch
  with_reducible repeat' first | assumption | intro _ | apply keeps_ite | exact has_ok m rfl | exact within_trans m rfl | apply State.bar0Read8_keeps | apply State.bar0Read_keeps | apply keeps_snd_ite | dsimp only | split | exact Or.inl (by assumption) | exact Or.inr rfl | refine keeps_mk ?_ rfl rfl ?_ ?_ ?_ ?_ ?_ ?_ ?_ ?_ ?_ ?_ ?_ ?_ ?_ ?_

theorem State.regStore_keeps (h : Keeps L s0 s) (a2 : ℕ) (a3 : ℕ) (a4 : List Byte) (lr32 : L.r32 = true := by first | assumption | rfl) (lr64 : L.r64 = true := by first | assumption | rfl) (lfree : L.free = true := by first | assumption | rfl) (lmem : L.mem = true := by first | assumption | rfl) (lhost : L.host = true := by first | assumption | rfl) (ldma : L.dma = true := by first | assumption | rfl) (ltime : L.time = true := by first | assumption | rfl) (llink : L.link = true := by first | assumption | rfl) (lpower : L.power = true := by first | assumption | rfl) (lboot : L.boot = true := by first | assumption | rfl) (lsquall : L.squall = true := by first | assumption | rfl) (ltm : L.tm = true := by first | assumption | rfl) (lhalo : L.halo = true := by first | assumption | rfl) (lcirrus : L.cirrus = true := by first | assumption | rfl) (lte : L.te = true := by first | assumption | rfl) (ltrust : L.trust = true := by first | assumption | rfl) (lzen : L.zen = true := by first | assumption | rfl) (m : within everyReg L.regs = true := by first | with_reducible assumption | (refine within_trans (by assumption) ?_; exact rfl) | rfl) :
    Keeps L s0 (State.regStore s a2 a3 a4) := by
  unfold State.regStore
  with_reducible repeat' first | assumption | intro _ | apply keeps_ite | exact has_all m _ | exact within_trans m rfl | apply State.writeUnder_keeps | apply State.apply8_keeps | apply State.apply4_keeps | apply keeps_snd_ite | dsimp only | split

theorem State.beatRead_keeps (h : Keeps L s0 s) (a2 : ℕ) (a3 : ℕ) (a4 : ℕ) (a5 : ℕ) (lr32 : L.r32 = true := by first | assumption | rfl) (lhost : L.host = true := by first | assumption | rfl) (ldma : L.dma = true := by first | assumption | rfl) (ltime : L.time = true := by first | assumption | rfl) (lhalo : L.halo = true := by first | assumption | rfl) (m : within 0x800000000400000000000000000000 L.regs = true := by first | with_reducible assumption | (refine within_trans (by assumption) ?_; exact rfl) | rfl) :
    Keeps L s0 (State.beatRead s a2 a3 a4 a5).2 := by
  unfold State.beatRead
  with_reducible repeat' first | assumption | intro _ | apply keeps_ite | exact has_ok m rfl | exact within_trans m rfl | apply State.setChBuf_keeps | apply State.regFetch_keeps | apply keeps_snd_ite | (refine keeps_of_eq (by assumption) ?_) | dsimp only | split

theorem State.chStore_keeps (h : Keeps L s0 s) (a2 a3 a4 : ℕ) (a5 : List Byte) (lr32 : L.r32 = true := by first | assumption | rfl) (lr64 : L.r64 = true := by first | assumption | rfl) (lfree : L.free = true := by first | assumption | rfl) (lmem : L.mem = true := by first | assumption | rfl) (lhost : L.host = true := by first | assumption | rfl) (lloc : L.loc = true := by first | assumption | rfl) (ldma : L.dma = true := by first | assumption | rfl) (ltime : L.time = true := by first | assumption | rfl) (llink : L.link = true := by first | assumption | rfl) (lpower : L.power = true := by first | assumption | rfl) (lboot : L.boot = true := by first | assumption | rfl) (lsquall : L.squall = true := by first | assumption | rfl) (ltm : L.tm = true := by first | assumption | rfl) (lhalo : L.halo = true := by first | assumption | rfl) (lcirrus : L.cirrus = true := by first | assumption | rfl) (lte : L.te = true := by first | assumption | rfl) (ltrust : L.trust = true := by first | assumption | rfl) (lzen : L.zen = true := by first | assumption | rfl) (m : within everyReg L.regs = true := by first | with_reducible assumption | (refine within_trans (by assumption) ?_; exact rfl) | rfl) : Keeps L s0 (State.chStore s a2 a3 a4 a5) := by
  unfold State.chStore
  split
  · exact State.hostPut_keeps h _ _
  · exact keeps_loc h _ _
  · exact State.regStore_keeps h _ _ _

theorem State.beatStep_keeps (h : Keeps L s0 s) (a2 : ℕ) (a3 : ℕ) (lr32 : L.r32 = true := by first | assumption | rfl) (lr64 : L.r64 = true := by first | assumption | rfl) (ldma : L.dma = true := by first | assumption | rfl) (m : within 0xf800000000000000000000000000000 L.regs = true := by first | with_reducible assumption | (refine within_trans (by assumption) ?_; exact rfl) | rfl) :
    Keeps L s0 (State.beatStep s a2 a3) := by
  unfold State.beatStep
  with_reducible repeat' first | assumption | intro _ | apply keeps_ite | exact has_ok m rfl | exact within_trans m rfl | apply State.wr_keeps | apply State.wrw_keeps | apply State.moveEnd_keeps | apply keeps_snd_ite | dsimp only | split

theorem State.beat_keeps (h : Keeps L s0 s) (a2 : ℕ) (a3 : ℕ × ℕ × ℕ × ℕ × ℕ) (lr32 : L.r32 = true := by first | assumption | rfl) (lr64 : L.r64 = true := by first | assumption | rfl) (lfree : L.free = true := by first | assumption | rfl) (lmem : L.mem = true := by first | assumption | rfl) (lhost : L.host = true := by first | assumption | rfl) (lloc : L.loc = true := by first | assumption | rfl) (ldma : L.dma = true := by first | assumption | rfl) (ltime : L.time = true := by first | assumption | rfl) (llink : L.link = true := by first | assumption | rfl) (lpower : L.power = true := by first | assumption | rfl) (lboot : L.boot = true := by first | assumption | rfl) (lsquall : L.squall = true := by first | assumption | rfl) (ltm : L.tm = true := by first | assumption | rfl) (lhalo : L.halo = true := by first | assumption | rfl) (lcirrus : L.cirrus = true := by first | assumption | rfl) (lte : L.te = true := by first | assumption | rfl) (ltrust : L.trust = true := by first | assumption | rfl) (lzen : L.zen = true := by first | assumption | rfl) (m : within everyReg L.regs = true := by first | with_reducible assumption | (refine within_trans (by assumption) ?_; exact rfl) | rfl) :
    Keeps L s0 (State.beat s a2 a3) := by
  unfold State.beat
  with_reducible repeat' first | assumption | intro _ | apply keeps_ite | exact has_all m _ | exact within_trans m rfl | apply State.chViolation_keeps | apply State.beatRead_keeps | apply State.chFault_keeps | apply State.beatStep_keeps | apply State.chStore_keeps | apply keeps_snd_ite | (refine keeps_of_eq (by assumption) ?_) | dsimp only | split

theorem execDmaBeat_keeps (h : Keeps L s0 s) (lr32 : L.r32 = true := by first | assumption | rfl) (lr64 : L.r64 = true := by first | assumption | rfl) (lfree : L.free = true := by first | assumption | rfl) (lmem : L.mem = true := by first | assumption | rfl) (lhost : L.host = true := by first | assumption | rfl) (lloc : L.loc = true := by first | assumption | rfl) (ldma : L.dma = true := by first | assumption | rfl) (ltime : L.time = true := by first | assumption | rfl) (llink : L.link = true := by first | assumption | rfl) (lpower : L.power = true := by first | assumption | rfl) (lboot : L.boot = true := by first | assumption | rfl) (lsquall : L.squall = true := by first | assumption | rfl) (ltm : L.tm = true := by first | assumption | rfl) (lhalo : L.halo = true := by first | assumption | rfl) (lcirrus : L.cirrus = true := by first | assumption | rfl) (lte : L.te = true := by first | assumption | rfl) (ltrust : L.trust = true := by first | assumption | rfl) (lzen : L.zen = true := by first | assumption | rfl) (m : within everyReg L.regs = true := by first | with_reducible assumption | (refine within_trans (by assumption) ?_; exact rfl) | rfl) :
    ∃ t, execDmaBeat s = .next t ∧ Keeps L s0 t := by
  unfold execDmaBeat
  refine ⟨_, rfl, ?_⟩
  with_reducible repeat' first | assumption | intro _ | apply keeps_ite | exact has_all m _ | exact within_trans m rfl | apply State.fset_keeps | apply State.beat_keeps | apply forN_keeps | apply keeps_snd_ite | dsimp only | split

theorem execDmaPauseDrained_keeps (h : Keeps L s0 s) (a1 : ℕ) (lr32 : L.r32 = true := by first | assumption | rfl) (m : within 0x800000000000000000000000000000 L.regs = true := by first | with_reducible assumption | (refine within_trans (by assumption) ?_; exact rfl) | rfl) :
    ∃ t, execDmaPauseDrained a1 s = .next t ∧ Keeps L s0 t := by
  unfold execDmaPauseDrained
  refine ⟨_, rfl, ?_⟩
  with_reducible repeat' first | assumption | intro _ | apply keeps_ite | exact has_ok m rfl | exact within_trans m rfl | apply State.fset_keeps | apply keeps_snd_ite | dsimp only | split

theorem State.loopDo_keeps (h : Keeps L s0 s) (a2 : ℕ) (a3 : ℕ) (a4 : ℕ) (a5 : ℕ) (a6 : ℕ) (a7 : ℕ) (lr32 : L.r32 = true := by first | assumption | rfl) (lr64 : L.r64 = true := by first | assumption | rfl) (ldma : L.dma = true := by first | assumption | rfl) (lsquall : L.squall = true := by first | assumption | rfl) (m : within 0x37800000000000000000000001082000 L.regs = true := by first | with_reducible assumption | (refine within_trans (by assumption) ?_; exact rfl) | rfl) :
    Keeps L s0 (State.loopDo s a2 a3 a4 a5 a6 a7) := by
  unfold State.loopDo
  with_reducible repeat' first | assumption | intro _ | apply keeps_ite | exact has_ok m rfl | exact within_trans m rfl | apply State.chFault_keeps | apply State.setDmaCh_keeps | apply State.fset_keeps | apply State.wr_keeps | apply State.chGo_keeps | apply State.wrw_keeps | apply State.chNext_keeps | apply keeps_snd_ite | dsimp only | split

theorem execDmaLoop_keeps (h : Keeps L s0 s) (a1 : ℕ) (a2 : List Byte) (lr32 : L.r32 = true := by first | assumption | rfl) (lr64 : L.r64 = true := by first | assumption | rfl) (lhost : L.host = true := by first | assumption | rfl) (ldma : L.dma = true := by first | assumption | rfl) (lsquall : L.squall = true := by first | assumption | rfl) (m : within 0x37800001800000000000000001082000 L.regs = true := by first | with_reducible assumption | (refine within_trans (by assumption) ?_; exact rfl) | rfl) : ∃ t, execDmaLoop a1 a2 s = .next t ∧ Keeps L s0 t := by
  unfold execDmaLoop
  refine ⟨_, rfl, State.execIns_keeps h _ _ ?_⟩
  intro o s u h e
  try dsimp only at e
  split at e
  all_goals first
    | (cases e; done)
    | (injection e with e
       rw [← e]
       first
         | with_reducible apply State.moveStart_keeps
         | with_reducible apply State.loopDo_keeps
         | skip
       repeat' first | with_reducible assumption | with_reducible apply State.signalDo_keeps | with_reducible apply State.endDo_keeps | with_reducible apply State.chFault_keeps | with_reducible apply State.waitEnd_keeps | with_reducible apply State.setDmaCh_keeps | with_reducible apply State.fset_keeps | exact has_ok m rfl | exact within_trans m rfl | split)

theorem State.waitEnd_keeps (h : Keeps L s0 s) (a2 : ℕ) (a3 : ℕ) (a4 : Bool) (lr32 : L.r32 = true := by first | assumption | rfl) (lr64 : L.r64 = true := by first | assumption | rfl) (ldma : L.dma = true := by first | assumption | rfl) (m : within 0x1800000000000000000000000000000 L.regs = true := by first | with_reducible assumption | (refine within_trans (by assumption) ?_; exact rfl) | rfl) :
    Keeps L s0 (State.waitEnd s a2 a3 a4) := by
  unfold State.waitEnd
  with_reducible repeat' first | assumption | intro _ | apply keeps_ite | exact has_ok m rfl | exact within_trans m rfl | apply State.setDmaCh_keeps | apply State.chNext_keeps | apply State.fset_keeps | apply keeps_snd_ite | dsimp only | split

theorem execDmaWait_keeps (h : Keeps L s0 s) (a1 : ℕ) (a2 : List Byte) (lr32 : L.r32 = true := by first | assumption | rfl) (lr64 : L.r64 = true := by first | assumption | rfl) (lhost : L.host = true := by first | assumption | rfl) (ldma : L.dma = true := by first | assumption | rfl) (lsquall : L.squall = true := by first | assumption | rfl) (m : within 0x1800001800000000000000001082000 L.regs = true := by first | with_reducible assumption | (refine within_trans (by assumption) ?_; exact rfl) | rfl) : ∃ t, execDmaWait a1 a2 s = .next t ∧ Keeps L s0 t := by
  unfold execDmaWait
  refine ⟨_, rfl, State.execIns_keeps h _ _ ?_⟩
  intro o s u h e
  try dsimp only at e
  split at e
  all_goals first
    | (cases e; done)
    | (injection e with e
       rw [← e]
       first
         | with_reducible apply State.moveStart_keeps
         | with_reducible apply State.loopDo_keeps
         | skip
       repeat' first | with_reducible assumption | with_reducible apply State.signalDo_keeps | with_reducible apply State.endDo_keeps | with_reducible apply State.chFault_keeps | with_reducible apply State.waitEnd_keeps | with_reducible apply State.setDmaCh_keeps | with_reducible apply State.fset_keeps | exact has_ok m rfl | exact within_trans m rfl | split)

theorem execDmaWaitSatisfied_keeps (h : Keeps L s0 s) (a1 : ℕ) (lr32 : L.r32 = true := by first | assumption | rfl) (lr64 : L.r64 = true := by first | assumption | rfl) (ldma : L.dma = true := by first | assumption | rfl) (m : within 0x1800000000000000000000000000000 L.regs = true := by first | with_reducible assumption | (refine within_trans (by assumption) ?_; exact rfl) | rfl) :
    ∃ t, execDmaWaitSatisfied a1 s = .next t ∧ Keeps L s0 t := by
  unfold execDmaWaitSatisfied
  refine ⟨_, rfl, ?_⟩
  with_reducible repeat' first | assumption | intro _ | apply keeps_ite | exact has_ok m rfl | exact within_trans m rfl | apply State.waitEnd_keeps | apply keeps_snd_ite | dsimp only | split

theorem execDmaWaitTimeout_keeps (h : Keeps L s0 s) (a1 : ℕ) (lr32 : L.r32 = true := by first | assumption | rfl) (lr64 : L.r64 = true := by first | assumption | rfl) (lsquall : L.squall = true := by first | assumption | rfl) (m : within 0x20800000000000000000000001082000 L.regs = true := by first | with_reducible assumption | (refine within_trans (by assumption) ?_; exact rfl) | rfl) :
    ∃ t, execDmaWaitTimeout a1 s = .next t ∧ Keeps L s0 t := by
  unfold execDmaWaitTimeout
  refine ⟨_, rfl, ?_⟩
  with_reducible repeat' first | assumption | intro _ | apply keeps_ite | exact has_ok m rfl | exact within_trans m rfl | apply State.chFault_keeps | apply keeps_snd_ite | dsimp only | split

theorem State.signalDo_keeps (h : Keeps L s0 s) (a2 : ℕ) (a3 : ℕ) (a4 : Bool) (a5 : ℕ) (a6 : ℕ) (lr32 : L.r32 = true := by first | assumption | rfl) (lr64 : L.r64 = true := by first | assumption | rfl) (lfree : L.free = true := by first | assumption | rfl) (lmem : L.mem = true := by first | assumption | rfl) (lhost : L.host = true := by first | assumption | rfl) (lloc : L.loc = true := by first | assumption | rfl) (ldma : L.dma = true := by first | assumption | rfl) (ltime : L.time = true := by first | assumption | rfl) (llink : L.link = true := by first | assumption | rfl) (lpower : L.power = true := by first | assumption | rfl) (lboot : L.boot = true := by first | assumption | rfl) (lsquall : L.squall = true := by first | assumption | rfl) (ltm : L.tm = true := by first | assumption | rfl) (lhalo : L.halo = true := by first | assumption | rfl) (lcirrus : L.cirrus = true := by first | assumption | rfl) (lte : L.te = true := by first | assumption | rfl) (ltrust : L.trust = true := by first | assumption | rfl) (lzen : L.zen = true := by first | assumption | rfl) (m : within everyReg L.regs = true := by first | with_reducible assumption | (refine within_trans (by assumption) ?_; exact rfl) | rfl) :
    Keeps L s0 (State.signalDo s a2 a3 a4 a5 a6) := by
  unfold State.signalDo
  with_reducible repeat' first | assumption | intro _ | apply keeps_ite | exact has_all m _ | exact within_trans m rfl | apply State.chFault_keeps | apply State.chViolation_keeps | apply State.chNext_keeps | apply State.chStore_keeps | apply keeps_snd_ite | dsimp only | split

theorem execDmaSignal_keeps (h : Keeps L s0 s) (a1 : ℕ) (a2 : List Byte) (lr32 : L.r32 = true := by first | assumption | rfl) (lr64 : L.r64 = true := by first | assumption | rfl) (lfree : L.free = true := by first | assumption | rfl) (lmem : L.mem = true := by first | assumption | rfl) (lhost : L.host = true := by first | assumption | rfl) (lloc : L.loc = true := by first | assumption | rfl) (ldma : L.dma = true := by first | assumption | rfl) (ltime : L.time = true := by first | assumption | rfl) (llink : L.link = true := by first | assumption | rfl) (lpower : L.power = true := by first | assumption | rfl) (lboot : L.boot = true := by first | assumption | rfl) (lsquall : L.squall = true := by first | assumption | rfl) (ltm : L.tm = true := by first | assumption | rfl) (lhalo : L.halo = true := by first | assumption | rfl) (lcirrus : L.cirrus = true := by first | assumption | rfl) (lte : L.te = true := by first | assumption | rfl) (ltrust : L.trust = true := by first | assumption | rfl) (lzen : L.zen = true := by first | assumption | rfl) (m : within everyReg L.regs = true := by first | with_reducible assumption | (refine within_trans (by assumption) ?_; exact rfl) | rfl) : ∃ t, execDmaSignal a1 a2 s = .next t ∧ Keeps L s0 t := by
  unfold execDmaSignal
  refine ⟨_, rfl, State.execIns_keeps h _ _ ?_⟩
  intro o s u h e
  try dsimp only at e
  split at e
  all_goals first
    | (cases e; done)
    | (injection e with e
       rw [← e]
       first
         | with_reducible apply State.moveStart_keeps
         | with_reducible apply State.loopDo_keeps
         | skip
       repeat' first | with_reducible assumption | with_reducible apply State.signalDo_keeps | with_reducible apply State.endDo_keeps | with_reducible apply State.chFault_keeps | with_reducible apply State.waitEnd_keeps | with_reducible apply State.setDmaCh_keeps | with_reducible apply State.fset_keeps | exact has_ok m rfl | exact within_trans m rfl | split)

theorem State.endDo_keeps (h : Keeps L s0 s) (a2 : ℕ) (a3 : ℕ) (a4 : ℕ) (a5 : ℕ) (lr32 : L.r32 = true := by first | assumption | rfl) (lr64 : L.r64 = true := by first | assumption | rfl) (lhost : L.host = true := by first | assumption | rfl) (ldma : L.dma = true := by first | assumption | rfl) (lsquall : L.squall = true := by first | assumption | rfl) (lte : L.te = true := by first | assumption | rfl) (m : within 0x805805b80000000000000001082000 L.regs = true := by first | with_reducible assumption | (refine within_trans (by assumption) ?_; exact rfl) | rfl) :
    Keeps L s0 (State.endDo s a2 a3 a4 a5) := by
  unfold State.endDo
  with_reducible repeat' first | assumption | intro _ | apply keeps_ite | exact has_ok m rfl | exact within_trans m rfl | apply State.chViolation_keeps | apply State.dmaPulse_keeps | apply State.teAccept_keeps | apply State.ringPageWrite_keeps | apply State.setTail_keeps | apply State.fset_keeps | apply State.setDmaCh_keeps | apply keeps_snd_ite | dsimp only | split

theorem execDmaEnd_keeps (h : Keeps L s0 s) (a1 : ℕ) (a2 : List Byte) (lr32 : L.r32 = true := by first | assumption | rfl) (lr64 : L.r64 = true := by first | assumption | rfl) (lhost : L.host = true := by first | assumption | rfl) (ldma : L.dma = true := by first | assumption | rfl) (lsquall : L.squall = true := by first | assumption | rfl) (lte : L.te = true := by first | assumption | rfl) (m : within 0x805805b80000000000000001082000 L.regs = true := by first | with_reducible assumption | (refine within_trans (by assumption) ?_; exact rfl) | rfl) : ∃ t, execDmaEnd a1 a2 s = .next t ∧ Keeps L s0 t := by
  unfold execDmaEnd
  refine ⟨_, rfl, State.execIns_keeps h _ _ ?_⟩
  intro o s u h e
  try dsimp only at e
  split at e
  all_goals first
    | (cases e; done)
    | (injection e with e
       rw [← e]
       first
         | with_reducible apply State.moveStart_keeps
         | with_reducible apply State.loopDo_keeps
         | skip
       repeat' first | with_reducible assumption | with_reducible apply State.signalDo_keeps | with_reducible apply State.endDo_keeps | with_reducible apply State.chFault_keeps | with_reducible apply State.waitEnd_keeps | with_reducible apply State.setDmaCh_keeps | with_reducible apply State.fset_keeps | exact has_ok m rfl | exact within_trans m rfl | split)

theorem execDmaIllegalOpcode_keeps (h : Keeps L s0 s) (a1 : ℕ) (a2 : List Byte) (lr32 : L.r32 = true := by first | assumption | rfl) (lr64 : L.r64 = true := by first | assumption | rfl) (lhost : L.host = true := by first | assumption | rfl) (ldma : L.dma = true := by first | assumption | rfl) (lsquall : L.squall = true := by first | assumption | rfl) (m : within 0x20800001800000000000000001082000 L.regs = true := by first | with_reducible assumption | (refine within_trans (by assumption) ?_; exact rfl) | rfl) : ∃ t, execDmaIllegalOpcode a1 a2 s = .next t ∧ Keeps L s0 t := by
  unfold execDmaIllegalOpcode
  refine ⟨_, rfl, State.execIns_keeps h _ _ ?_⟩
  intro o s u h e
  try dsimp only at e
  split at e
  all_goals first
    | (cases e; done)
    | (injection e with e
       rw [← e]
       first
         | with_reducible apply State.moveStart_keeps
         | with_reducible apply State.loopDo_keeps
         | skip
       repeat' first | with_reducible assumption | with_reducible apply State.signalDo_keeps | with_reducible apply State.endDo_keeps | with_reducible apply State.chFault_keeps | with_reducible apply State.waitEnd_keeps | with_reducible apply State.setDmaCh_keeps | with_reducible apply State.fset_keeps | exact has_ok m rfl | exact within_trans m rfl | split)

end Sys2Proof.Machine
end

