-- ==== Sys2Proof/Laws/Ports.lean ====
section
/-!
SUPPORT. What the shared operations on ports do to PORT_STATUS: training and negotiation, the end of a link, going down.
-/

set_option Elab.async false

namespace Sys2Proof.Machine

/-- A register that an operation does not write. -/
theorem Keeps.fget {L : Touch} {s t : State} (h : Keeps L s t) (f : Fld) (i j : Nat) (e : L.has f.reg = false) :
    t.fget f i j = s.fget f i j := by
  unfold State.fget; rw [(h.regs f.reg i j e).1]

theorem Keeps.flag {L : Touch} {s t : State} (h : Keeps L s t) (f : Fld) (i j : Nat) (e : L.has f.reg = false) :
    t.flag f i j = s.flag f i j := by
  unfold State.flag; rw [h.fget f i j e]

/-- What the lane chapter's registers and the port records are to the operations of other chapters. -/
def Touch.noLanes : Touch := ⟨true, true, true, true, true, true, true, true, false, true, true, true, true, true, true, true, true, true,
  0xfffffffffffffffffffc0000001fffffffffffffffffffffffffffffffffffffffffffffffffffffffffffffffffff⟩

theorem State.portTo_state (s : State) (p st : Nat) (h : st < 16) : (s.portTo p st).fget F.portStatus_STATE p = st := by
  unfold State.portTo
  simp (disch := decide) only [fget_fset_apart, fget_fset_same]
  exact Nat.mod_eq_of_lt h

theorem State.each_ind {α : Type} {P : State → Prop} {l : List α} {f : α → State → State} {s : State} (h : P s)
    (hf : ∀ a s, P s → P (f a s)) : P (s.each l f) := by
  unfold State.each
  induction l generalizing s with
  | nil => exact h
  | cons a r ih => exact ih (hf a s h)

theorem State.driveLanes_rd (s : State) (ls : List Nat) (on : LineSig) (n : RName) (i j : Nat) : (s.driveLanes ls on).rd n i j = s.rd n i j := by
  unfold State.driveLanes
  exact State.each_ind (P := fun t => t.rd n i j = s.rd n i j) rfl (fun a t h => h)

theorem State.abortEyes_rd (s : State) (ls : List Nat) (n : RName) (i j : Nat) (h : n ≠ .eyeResult) :
    (s.abortEyes ls).rd n i j = s.rd n i j := by
  unfold State.abortEyes
  refine State.each_ind (P := fun t => t.rd n i j = s.rd n i j) rfl (fun a t ht => ?_)
  dsimp only
  split
  · rw [rd_fset_reg _ _ _ _ _ _ h, rd_fset_reg _ _ _ _ _ _ h]; exact ht
  · exact ht


theorem State.driveLanes_fget (s : State) (ls : List Nat) (on : LineSig) (f : Fld) (i j : Nat) : (s.driveLanes ls on).fget f i j = s.fget f i j := by
  unfold State.fget; rw [State.driveLanes_rd]

theorem State.driveLanes_flag (s : State) (ls : List Nat) (on : LineSig) (f : Fld) (i j : Nat) : (s.driveLanes ls on).flag f i j = s.flag f i j := by
  unfold State.flag; rw [State.driveLanes_fget]

theorem State.abortEyes_fget (s : State) (ls : List Nat) (f : Fld) (i j : Nat) (h : f.reg ≠ .eyeResult) :
    (s.abortEyes ls).fget f i j = s.fget f i j := by
  unfold State.fget; rw [State.abortEyes_rd _ _ _ _ _ h]

theorem State.setPort_reads (s : State) (p : Nat) (v : PortSt) (f : Fld) (i j : Nat) : (s.setPort p v).fget f i j = s.fget f i j := rfl
theorem State.setPort_readsFlag (s : State) (p : Nat) (v : PortSt) (f : Fld) (i j : Nat) : (s.setPort p v).flag f i j = s.flag f i j := rfl

theorem State.trainStart_state (s : State) (p r : Nat) (a : Bool) : (s.trainStart p r a).fget F.portStatus_STATE p = 3 := by
  unfold State.trainStart
  dsimp only
  rw [State.abortEyes_fget _ _ _ _ _ (by decide), State.setPort_reads]
  simp (disch := decide) only [fget_fset_apart]
  exact State.portTo_state _ _ _ (by decide)

theorem State.trainStart_rate (s : State) (p r : Nat) (a : Bool) (h : r < 8) : (s.trainStart p r a).fget F.portStatus_RATE_RES p = r := by
  unfold State.trainStart
  dsimp only
  rw [State.abortEyes_fget _ _ _ _ _ (by decide), State.setPort_reads]
  simp (disch := decide) only [fget_fset_apart, fget_fset_same]
  exact Nat.mod_eq_of_lt h

theorem State.restart_state (s : State) (p : Nat) :
    (s.restart p).fget F.portStatus_STATE p = if s.flag F.portCfg_AN p = true then 2 else 3 := by
  unfold State.restart
  split
  · rw [State.driveLanes_fget, State.driveLanes_fget, State.setPort_reads, State.abortEyes_fget _ _ _ _ _ (by decide),
      fget_wr_reg _ _ _ _ _ _ _ (by decide)]
    exact State.portTo_state _ _ _ (by decide)
  · exact State.trainStart_state _ _ _ _

theorem State.egressDown_noLanes (s : State) (p : Nat) : Keeps .noLanes s (s.egressDown p) :=
  State.egressDown_keeps (Keeps.rfl' _ _) p

theorem State.ingressLinkLost_noLanes (s : State) (p : Nat) : Keeps .noLanes s (s.ingressLinkLost p) :=
  State.ingressLinkLost_keeps (Keeps.rfl' _ _) p

theorem State.linkEnds_fget (s : State) (p : Nat) (f : Fld) (i j : Nat) (h : Touch.noLanes.has f.reg = false)
    (hf : f.reg = .portStatus → f.hi < 10 ∨ 11 < f.lo) : (s.linkEnds p).fget f i j = s.fget f i j := by
  unfold State.linkEnds
  dsimp only
  rw [(State.egressDown_noLanes _ p).fget f i j h, (State.ingressLinkLost_noLanes _ p).fget f i j h]
  refine State.each_ind (P := fun t => t.fget f i j = s.fget f i j) ?_ (fun a t h => h)
  rw [State.setPort_reads]
  rw [fget_fset_off _ _ _ _ _ _ (by decide) (by decide) (fun e => by have := hf e; simp only [F.portStatus_RX_EI]; omega),
    fget_fset_off _ _ _ _ _ _ (by decide) (by decide) (fun e => by have := hf e; simp only [F.portStatus_TX_EI]; omega)]


theorem State.postLane_noLanes (s : State) (a b c : Nat) : Keeps .noLanes s (s.postLane a b c) :=
  State.postLane_keeps (Keeps.rfl' _ _) a b c

theorem State.leaveUp_cause (s : State) (p c : Nat) (h : s.fget F.portStatus_STATE p = 5) (hc : c < 16) :
    (s.leaveUp p c).fget F.portStatus_DOWN_CAUSE p = c := by
  unfold State.leaveUp
  rw [if_pos h, State.linkEnds_fget _ _ _ _ _ rfl (fun _ => by decide), (State.postLane_noLanes _ _ _ _).fget _ _ _ rfl,
    fget_fset_same _ _ _ _ _ (by decide) (by decide)]
  exact Nat.mod_eq_of_lt hc

theorem State.leaveUp_cfg (s : State) (p c : Nat) : (s.leaveUp p c).flag F.portCfg_AN p = s.flag F.portCfg_AN p := by
  unfold State.leaveUp State.flag
  split
  · rw [State.linkEnds_fget _ _ _ _ _ rfl (fun h => by cases h), (State.postLane_noLanes _ _ _ _).fget _ _ _ rfl,
      fget_fset_reg _ _ _ _ _ _ (by decide)]
  · rfl

theorem State.laneTrain_fget (s : State) (l r : Nat) (a : Bool) (f : Fld) (i j : Nat) (h : f.reg ≠ .txFfe) (h' : f.reg ≠ .laneStatus) :
    (s.laneTrain l r a).fget f i j = s.fget f i j := by
  unfold State.laneTrain
  dsimp only
  rw [fget_fset_reg _ _ _ _ _ _ h']
  split
  · exact fget_wr_reg _ _ _ _ _ _ _ h
  · exact fget_wr_reg _ _ _ _ _ _ _ h

theorem State.trainStart_cause (s : State) (p r : Nat) (a : Bool) (q : Nat) :
    (s.trainStart p r a).fget F.portStatus_DOWN_CAUSE q = s.fget F.portStatus_DOWN_CAUSE q := by
  unfold State.trainStart
  dsimp only
  rw [State.abortEyes_fget _ _ _ _ _ (by decide), State.setPort_reads]
  unfold State.portTo
  simp (disch := decide) only [fget_fset_off]
  refine State.each_ind (P := fun t => t.fget F.portStatus_DOWN_CAUSE q = s.fget F.portStatus_DOWN_CAUSE q) ?_
    (fun a t h => (State.laneTrain_fget _ _ _ _ _ _ _ (by decide) (by decide)).trans h)
  refine State.each_ind (P := fun t => t.fget F.portStatus_DOWN_CAUSE q = s.fget F.portStatus_DOWN_CAUSE q) ?_ (fun a t h => ?_)
  · unfold State.when
    split
    · refine State.each_ind (P := fun t => t.fget F.portStatus_DOWN_CAUSE q = s.fget F.portStatus_DOWN_CAUSE q) rfl (fun a t h => ?_)
      split
      · exact h
      · rw [fget_fset_reg _ _ _ _ _ _ (by decide)]; exact h
    · rfl
  · split
    · exact h
    · rw [fget_fset_reg _ _ _ _ _ _ (by decide)]; exact h

theorem State.restart_cause (s : State) (p q : Nat) : (s.restart p).fget F.portStatus_DOWN_CAUSE q = s.fget F.portStatus_DOWN_CAUSE q := by
  unfold State.restart
  split
  · rw [State.driveLanes_fget, State.driveLanes_fget, State.setPort_reads, State.abortEyes_fget _ _ _ _ _ (by decide),
      fget_wr_reg _ _ _ _ _ _ _ (by decide)]
    unfold State.portTo
    simp (disch := decide) only [fget_fset_off]
    rfl
  · rw [State.trainStart_cause, fget_wr_reg _ _ _ _ _ _ _ (by decide), fget_wr_reg _ _ _ _ _ _ _ (by decide)]

theorem State.linkDown_spec (s : State) (p c : Nat) (h : s.fget F.portStatus_STATE p = 5) (hc : c < 16) :
    (s.linkDown p c).fget F.portStatus_DOWN_CAUSE p = c ∧
      (s.linkDown p c).fget F.portStatus_STATE p = if s.flag F.portCfg_AN p = true then 2 else 3 := by
  unfold State.linkDown
  rw [if_pos h, State.restart_cause, State.restart_state, State.leaveUp_cfg]
  exact ⟨State.leaveUp_cause s p c h hc, rfl⟩

end Sys2Proof.Machine
end

