-- ==== Sys2Proof/Laws/State.lean ====
section
/-!
SUPPORT. Each update of the state, seen from each field: an update leaves every field but its own as it was, and the registers read the same
after an update of anything else. True by unfolding, so that no later proof unfolds a record update.
-/

set_option Elab.async false

namespace Sys2Proof.Machine

@[simp] theorem State.wr_pending (s : State) (a1 : RName) (a2 : Sys2Proof.Word) (a3 : ℕ) (a4 : ℕ) : (s.wr a1 a2 a3 a4).pending = s.pending := rfl
@[simp] theorem State.wr_free (s : State) (a1 : RName) (a2 : Sys2Proof.Word) (a3 : ℕ) (a4 : ℕ) : (s.wr a1 a2 a3 a4).free = s.free := rfl
@[simp] theorem State.wr_r64 (s : State) (a1 : RName) (a2 : Sys2Proof.Word) (a3 : ℕ) (a4 : ℕ) : (s.wr a1 a2 a3 a4).r64 = s.r64 := rfl
@[simp] theorem State.wr_host (s : State) (a1 : RName) (a2 : Sys2Proof.Word) (a3 : ℕ) (a4 : ℕ) : (s.wr a1 a2 a3 a4).host = s.host := rfl
@[simp] theorem State.wr_dma (s : State) (a1 : RName) (a2 : Sys2Proof.Word) (a3 : ℕ) (a4 : ℕ) : (s.wr a1 a2 a3 a4).dma = s.dma := rfl
@[simp] theorem State.wr_time (s : State) (a1 : RName) (a2 : Sys2Proof.Word) (a3 : ℕ) (a4 : ℕ) : (s.wr a1 a2 a3 a4).time = s.time := rfl
@[simp] theorem State.wr_link (s : State) (a1 : RName) (a2 : Sys2Proof.Word) (a3 : ℕ) (a4 : ℕ) : (s.wr a1 a2 a3 a4).link = s.link := rfl
@[simp] theorem State.wr_power (s : State) (a1 : RName) (a2 : Sys2Proof.Word) (a3 : ℕ) (a4 : ℕ) : (s.wr a1 a2 a3 a4).power = s.power := rfl
@[simp] theorem State.wr_boot (s : State) (a1 : RName) (a2 : Sys2Proof.Word) (a3 : ℕ) (a4 : ℕ) : (s.wr a1 a2 a3 a4).boot = s.boot := rfl
@[simp] theorem State.wr_squall (s : State) (a1 : RName) (a2 : Sys2Proof.Word) (a3 : ℕ) (a4 : ℕ) : (s.wr a1 a2 a3 a4).squall = s.squall := rfl
@[simp] theorem State.wr_tm (s : State) (a1 : RName) (a2 : Sys2Proof.Word) (a3 : ℕ) (a4 : ℕ) : (s.wr a1 a2 a3 a4).tm = s.tm := rfl
@[simp] theorem State.wr_halo (s : State) (a1 : RName) (a2 : Sys2Proof.Word) (a3 : ℕ) (a4 : ℕ) : (s.wr a1 a2 a3 a4).halo = s.halo := rfl
@[simp] theorem State.wr_cirrus (s : State) (a1 : RName) (a2 : Sys2Proof.Word) (a3 : ℕ) (a4 : ℕ) : (s.wr a1 a2 a3 a4).cirrus = s.cirrus := rfl
@[simp] theorem State.wr_te (s : State) (a1 : RName) (a2 : Sys2Proof.Word) (a3 : ℕ) (a4 : ℕ) : (s.wr a1 a2 a3 a4).te = s.te := rfl
@[simp] theorem State.wr_trust (s : State) (a1 : RName) (a2 : Sys2Proof.Word) (a3 : ℕ) (a4 : ℕ) : (s.wr a1 a2 a3 a4).trust = s.trust := rfl
@[simp] theorem State.wr_zen (s : State) (a1 : RName) (a2 : Sys2Proof.Word) (a3 : ℕ) (a4 : ℕ) : (s.wr a1 a2 a3 a4).zen = s.zen := rfl

@[simp] theorem State.wrw_pending (s : State) (a1 : RName) (a2 : Sys2Proof.DWord) (a3 : ℕ) (a4 : ℕ) : (s.wrw a1 a2 a3 a4).pending = s.pending := rfl
@[simp] theorem State.wrw_free (s : State) (a1 : RName) (a2 : Sys2Proof.DWord) (a3 : ℕ) (a4 : ℕ) : (s.wrw a1 a2 a3 a4).free = s.free := rfl
@[simp] theorem State.wrw_r32 (s : State) (a1 : RName) (a2 : Sys2Proof.DWord) (a3 : ℕ) (a4 : ℕ) : (s.wrw a1 a2 a3 a4).r32 = s.r32 := rfl
@[simp] theorem State.wrw_host (s : State) (a1 : RName) (a2 : Sys2Proof.DWord) (a3 : ℕ) (a4 : ℕ) : (s.wrw a1 a2 a3 a4).host = s.host := rfl
@[simp] theorem State.wrw_dma (s : State) (a1 : RName) (a2 : Sys2Proof.DWord) (a3 : ℕ) (a4 : ℕ) : (s.wrw a1 a2 a3 a4).dma = s.dma := rfl
@[simp] theorem State.wrw_time (s : State) (a1 : RName) (a2 : Sys2Proof.DWord) (a3 : ℕ) (a4 : ℕ) : (s.wrw a1 a2 a3 a4).time = s.time := rfl
@[simp] theorem State.wrw_link (s : State) (a1 : RName) (a2 : Sys2Proof.DWord) (a3 : ℕ) (a4 : ℕ) : (s.wrw a1 a2 a3 a4).link = s.link := rfl
@[simp] theorem State.wrw_power (s : State) (a1 : RName) (a2 : Sys2Proof.DWord) (a3 : ℕ) (a4 : ℕ) : (s.wrw a1 a2 a3 a4).power = s.power := rfl
@[simp] theorem State.wrw_boot (s : State) (a1 : RName) (a2 : Sys2Proof.DWord) (a3 : ℕ) (a4 : ℕ) : (s.wrw a1 a2 a3 a4).boot = s.boot := rfl
@[simp] theorem State.wrw_squall (s : State) (a1 : RName) (a2 : Sys2Proof.DWord) (a3 : ℕ) (a4 : ℕ) : (s.wrw a1 a2 a3 a4).squall = s.squall := rfl
@[simp] theorem State.wrw_tm (s : State) (a1 : RName) (a2 : Sys2Proof.DWord) (a3 : ℕ) (a4 : ℕ) : (s.wrw a1 a2 a3 a4).tm = s.tm := rfl
@[simp] theorem State.wrw_halo (s : State) (a1 : RName) (a2 : Sys2Proof.DWord) (a3 : ℕ) (a4 : ℕ) : (s.wrw a1 a2 a3 a4).halo = s.halo := rfl
@[simp] theorem State.wrw_cirrus (s : State) (a1 : RName) (a2 : Sys2Proof.DWord) (a3 : ℕ) (a4 : ℕ) : (s.wrw a1 a2 a3 a4).cirrus = s.cirrus := rfl
@[simp] theorem State.wrw_te (s : State) (a1 : RName) (a2 : Sys2Proof.DWord) (a3 : ℕ) (a4 : ℕ) : (s.wrw a1 a2 a3 a4).te = s.te := rfl
@[simp] theorem State.wrw_trust (s : State) (a1 : RName) (a2 : Sys2Proof.DWord) (a3 : ℕ) (a4 : ℕ) : (s.wrw a1 a2 a3 a4).trust = s.trust := rfl
@[simp] theorem State.wrw_zen (s : State) (a1 : RName) (a2 : Sys2Proof.DWord) (a3 : ℕ) (a4 : ℕ) : (s.wrw a1 a2 a3 a4).zen = s.zen := rfl

@[simp] theorem State.fset_pending (s : State) (a1 : Fld) (a2 : ℕ) (a3 : ℕ) (a4 : ℕ) : (s.fset a1 a2 a3 a4).pending = s.pending := rfl
@[simp] theorem State.fset_free (s : State) (a1 : Fld) (a2 : ℕ) (a3 : ℕ) (a4 : ℕ) : (s.fset a1 a2 a3 a4).free = s.free := rfl
@[simp] theorem State.fset_r64 (s : State) (a1 : Fld) (a2 : ℕ) (a3 : ℕ) (a4 : ℕ) : (s.fset a1 a2 a3 a4).r64 = s.r64 := rfl
@[simp] theorem State.fset_host (s : State) (a1 : Fld) (a2 : ℕ) (a3 : ℕ) (a4 : ℕ) : (s.fset a1 a2 a3 a4).host = s.host := rfl
@[simp] theorem State.fset_dma (s : State) (a1 : Fld) (a2 : ℕ) (a3 : ℕ) (a4 : ℕ) : (s.fset a1 a2 a3 a4).dma = s.dma := rfl
@[simp] theorem State.fset_time (s : State) (a1 : Fld) (a2 : ℕ) (a3 : ℕ) (a4 : ℕ) : (s.fset a1 a2 a3 a4).time = s.time := rfl
@[simp] theorem State.fset_link (s : State) (a1 : Fld) (a2 : ℕ) (a3 : ℕ) (a4 : ℕ) : (s.fset a1 a2 a3 a4).link = s.link := rfl
@[simp] theorem State.fset_power (s : State) (a1 : Fld) (a2 : ℕ) (a3 : ℕ) (a4 : ℕ) : (s.fset a1 a2 a3 a4).power = s.power := rfl
@[simp] theorem State.fset_boot (s : State) (a1 : Fld) (a2 : ℕ) (a3 : ℕ) (a4 : ℕ) : (s.fset a1 a2 a3 a4).boot = s.boot := rfl
@[simp] theorem State.fset_squall (s : State) (a1 : Fld) (a2 : ℕ) (a3 : ℕ) (a4 : ℕ) : (s.fset a1 a2 a3 a4).squall = s.squall := rfl
@[simp] theorem State.fset_tm (s : State) (a1 : Fld) (a2 : ℕ) (a3 : ℕ) (a4 : ℕ) : (s.fset a1 a2 a3 a4).tm = s.tm := rfl
@[simp] theorem State.fset_halo (s : State) (a1 : Fld) (a2 : ℕ) (a3 : ℕ) (a4 : ℕ) : (s.fset a1 a2 a3 a4).halo = s.halo := rfl
@[simp] theorem State.fset_cirrus (s : State) (a1 : Fld) (a2 : ℕ) (a3 : ℕ) (a4 : ℕ) : (s.fset a1 a2 a3 a4).cirrus = s.cirrus := rfl
@[simp] theorem State.fset_te (s : State) (a1 : Fld) (a2 : ℕ) (a3 : ℕ) (a4 : ℕ) : (s.fset a1 a2 a3 a4).te = s.te := rfl
@[simp] theorem State.fset_trust (s : State) (a1 : Fld) (a2 : ℕ) (a3 : ℕ) (a4 : ℕ) : (s.fset a1 a2 a3 a4).trust = s.trust := rfl
@[simp] theorem State.fset_zen (s : State) (a1 : Fld) (a2 : ℕ) (a3 : ℕ) (a4 : ℕ) : (s.fset a1 a2 a3 a4).zen = s.zen := rfl

@[simp] theorem State.bump_pending (s : State) (a1 : RName) (a2 : ℕ) (a3 : ℕ) (a4 : ℕ) : (s.bump a1 a2 a3 a4).pending = s.pending := rfl
@[simp] theorem State.bump_free (s : State) (a1 : RName) (a2 : ℕ) (a3 : ℕ) (a4 : ℕ) : (s.bump a1 a2 a3 a4).free = s.free := rfl
@[simp] theorem State.bump_r32 (s : State) (a1 : RName) (a2 : ℕ) (a3 : ℕ) (a4 : ℕ) : (s.bump a1 a2 a3 a4).r32 = s.r32 := rfl
@[simp] theorem State.bump_host (s : State) (a1 : RName) (a2 : ℕ) (a3 : ℕ) (a4 : ℕ) : (s.bump a1 a2 a3 a4).host = s.host := rfl
@[simp] theorem State.bump_dma (s : State) (a1 : RName) (a2 : ℕ) (a3 : ℕ) (a4 : ℕ) : (s.bump a1 a2 a3 a4).dma = s.dma := rfl
@[simp] theorem State.bump_time (s : State) (a1 : RName) (a2 : ℕ) (a3 : ℕ) (a4 : ℕ) : (s.bump a1 a2 a3 a4).time = s.time := rfl
@[simp] theorem State.bump_link (s : State) (a1 : RName) (a2 : ℕ) (a3 : ℕ) (a4 : ℕ) : (s.bump a1 a2 a3 a4).link = s.link := rfl
@[simp] theorem State.bump_power (s : State) (a1 : RName) (a2 : ℕ) (a3 : ℕ) (a4 : ℕ) : (s.bump a1 a2 a3 a4).power = s.power := rfl
@[simp] theorem State.bump_boot (s : State) (a1 : RName) (a2 : ℕ) (a3 : ℕ) (a4 : ℕ) : (s.bump a1 a2 a3 a4).boot = s.boot := rfl
@[simp] theorem State.bump_squall (s : State) (a1 : RName) (a2 : ℕ) (a3 : ℕ) (a4 : ℕ) : (s.bump a1 a2 a3 a4).squall = s.squall := rfl
@[simp] theorem State.bump_tm (s : State) (a1 : RName) (a2 : ℕ) (a3 : ℕ) (a4 : ℕ) : (s.bump a1 a2 a3 a4).tm = s.tm := rfl
@[simp] theorem State.bump_halo (s : State) (a1 : RName) (a2 : ℕ) (a3 : ℕ) (a4 : ℕ) : (s.bump a1 a2 a3 a4).halo = s.halo := rfl
@[simp] theorem State.bump_cirrus (s : State) (a1 : RName) (a2 : ℕ) (a3 : ℕ) (a4 : ℕ) : (s.bump a1 a2 a3 a4).cirrus = s.cirrus := rfl
@[simp] theorem State.bump_te (s : State) (a1 : RName) (a2 : ℕ) (a3 : ℕ) (a4 : ℕ) : (s.bump a1 a2 a3 a4).te = s.te := rfl
@[simp] theorem State.bump_trust (s : State) (a1 : RName) (a2 : ℕ) (a3 : ℕ) (a4 : ℕ) : (s.bump a1 a2 a3 a4).trust = s.trust := rfl
@[simp] theorem State.bump_zen (s : State) (a1 : RName) (a2 : ℕ) (a3 : ℕ) (a4 : ℕ) : (s.bump a1 a2 a3 a4).zen = s.zen := rfl
@[simp] theorem State.bump_rd (s : State) (a1 : RName) (a2 : ℕ) (a3 : ℕ) (a4 : ℕ) (n : RName) (i j : Nat) : (s.bump a1 a2 a3 a4).rd n i j = s.rd n i j := rfl
@[simp] theorem State.bump_fget (s : State) (a1 : RName) (a2 : ℕ) (a3 : ℕ) (a4 : ℕ) (f : Fld) (i j : Nat) : (s.bump a1 a2 a3 a4).fget f i j = s.fget f i j := rfl
@[simp] theorem State.bump_flag (s : State) (a1 : RName) (a2 : ℕ) (a3 : ℕ) (a4 : ℕ) (f : Fld) (i j : Nat) : (s.bump a1 a2 a3 a4).flag f i j = s.flag f i j := rfl

@[simp] theorem State.hostPut_pending (s : State) (a1 : ℕ) (a2 : List Sys2Proof.Byte) : (s.hostPut a1 a2).pending = s.pending := rfl
@[simp] theorem State.hostPut_free (s : State) (a1 : ℕ) (a2 : List Sys2Proof.Byte) : (s.hostPut a1 a2).free = s.free := rfl
@[simp] theorem State.hostPut_r32 (s : State) (a1 : ℕ) (a2 : List Sys2Proof.Byte) : (s.hostPut a1 a2).r32 = s.r32 := rfl
@[simp] theorem State.hostPut_r64 (s : State) (a1 : ℕ) (a2 : List Sys2Proof.Byte) : (s.hostPut a1 a2).r64 = s.r64 := rfl
@[simp] theorem State.hostPut_dma (s : State) (a1 : ℕ) (a2 : List Sys2Proof.Byte) : (s.hostPut a1 a2).dma = s.dma := rfl
@[simp] theorem State.hostPut_time (s : State) (a1 : ℕ) (a2 : List Sys2Proof.Byte) : (s.hostPut a1 a2).time = s.time := rfl
@[simp] theorem State.hostPut_link (s : State) (a1 : ℕ) (a2 : List Sys2Proof.Byte) : (s.hostPut a1 a2).link = s.link := rfl
@[simp] theorem State.hostPut_power (s : State) (a1 : ℕ) (a2 : List Sys2Proof.Byte) : (s.hostPut a1 a2).power = s.power := rfl
@[simp] theorem State.hostPut_boot (s : State) (a1 : ℕ) (a2 : List Sys2Proof.Byte) : (s.hostPut a1 a2).boot = s.boot := rfl
@[simp] theorem State.hostPut_squall (s : State) (a1 : ℕ) (a2 : List Sys2Proof.Byte) : (s.hostPut a1 a2).squall = s.squall := rfl
@[simp] theorem State.hostPut_tm (s : State) (a1 : ℕ) (a2 : List Sys2Proof.Byte) : (s.hostPut a1 a2).tm = s.tm := rfl
@[simp] theorem State.hostPut_halo (s : State) (a1 : ℕ) (a2 : List Sys2Proof.Byte) : (s.hostPut a1 a2).halo = s.halo := rfl
@[simp] theorem State.hostPut_cirrus (s : State) (a1 : ℕ) (a2 : List Sys2Proof.Byte) : (s.hostPut a1 a2).cirrus = s.cirrus := rfl
@[simp] theorem State.hostPut_te (s : State) (a1 : ℕ) (a2 : List Sys2Proof.Byte) : (s.hostPut a1 a2).te = s.te := rfl
@[simp] theorem State.hostPut_trust (s : State) (a1 : ℕ) (a2 : List Sys2Proof.Byte) : (s.hostPut a1 a2).trust = s.trust := rfl
@[simp] theorem State.hostPut_zen (s : State) (a1 : ℕ) (a2 : List Sys2Proof.Byte) : (s.hostPut a1 a2).zen = s.zen := rfl
@[simp] theorem State.hostPut_rd (s : State) (a1 : ℕ) (a2 : List Sys2Proof.Byte) (n : RName) (i j : Nat) : (s.hostPut a1 a2).rd n i j = s.rd n i j := rfl
@[simp] theorem State.hostPut_rdw (s : State) (a1 : ℕ) (a2 : List Sys2Proof.Byte) (n : RName) (i j : Nat) : (s.hostPut a1 a2).rdw n i j = s.rdw n i j := rfl
@[simp] theorem State.hostPut_fget (s : State) (a1 : ℕ) (a2 : List Sys2Proof.Byte) (f : Fld) (i j : Nat) : (s.hostPut a1 a2).fget f i j = s.fget f i j := rfl
@[simp] theorem State.hostPut_flag (s : State) (a1 : ℕ) (a2 : List Sys2Proof.Byte) (f : Fld) (i j : Nat) : (s.hostPut a1 a2).flag f i j = s.flag f i j := rfl

@[simp] theorem State.setRing_pending (s : State) (a1 : ℕ) (a2 : RingSt) : (s.setRing a1 a2).pending = s.pending := rfl
@[simp] theorem State.setRing_free (s : State) (a1 : ℕ) (a2 : RingSt) : (s.setRing a1 a2).free = s.free := rfl
@[simp] theorem State.setRing_r32 (s : State) (a1 : ℕ) (a2 : RingSt) : (s.setRing a1 a2).r32 = s.r32 := rfl
@[simp] theorem State.setRing_r64 (s : State) (a1 : ℕ) (a2 : RingSt) : (s.setRing a1 a2).r64 = s.r64 := rfl
@[simp] theorem State.setRing_dma (s : State) (a1 : ℕ) (a2 : RingSt) : (s.setRing a1 a2).dma = s.dma := rfl
@[simp] theorem State.setRing_time (s : State) (a1 : ℕ) (a2 : RingSt) : (s.setRing a1 a2).time = s.time := rfl
@[simp] theorem State.setRing_link (s : State) (a1 : ℕ) (a2 : RingSt) : (s.setRing a1 a2).link = s.link := rfl
@[simp] theorem State.setRing_power (s : State) (a1 : ℕ) (a2 : RingSt) : (s.setRing a1 a2).power = s.power := rfl
@[simp] theorem State.setRing_boot (s : State) (a1 : ℕ) (a2 : RingSt) : (s.setRing a1 a2).boot = s.boot := rfl
@[simp] theorem State.setRing_squall (s : State) (a1 : ℕ) (a2 : RingSt) : (s.setRing a1 a2).squall = s.squall := rfl
@[simp] theorem State.setRing_tm (s : State) (a1 : ℕ) (a2 : RingSt) : (s.setRing a1 a2).tm = s.tm := rfl
@[simp] theorem State.setRing_halo (s : State) (a1 : ℕ) (a2 : RingSt) : (s.setRing a1 a2).halo = s.halo := rfl
@[simp] theorem State.setRing_cirrus (s : State) (a1 : ℕ) (a2 : RingSt) : (s.setRing a1 a2).cirrus = s.cirrus := rfl
@[simp] theorem State.setRing_te (s : State) (a1 : ℕ) (a2 : RingSt) : (s.setRing a1 a2).te = s.te := rfl
@[simp] theorem State.setRing_trust (s : State) (a1 : ℕ) (a2 : RingSt) : (s.setRing a1 a2).trust = s.trust := rfl
@[simp] theorem State.setRing_zen (s : State) (a1 : ℕ) (a2 : RingSt) : (s.setRing a1 a2).zen = s.zen := rfl
@[simp] theorem State.setRing_rd (s : State) (a1 : ℕ) (a2 : RingSt) (n : RName) (i j : Nat) : (s.setRing a1 a2).rd n i j = s.rd n i j := rfl
@[simp] theorem State.setRing_rdw (s : State) (a1 : ℕ) (a2 : RingSt) (n : RName) (i j : Nat) : (s.setRing a1 a2).rdw n i j = s.rdw n i j := rfl
@[simp] theorem State.setRing_fget (s : State) (a1 : ℕ) (a2 : RingSt) (f : Fld) (i j : Nat) : (s.setRing a1 a2).fget f i j = s.fget f i j := rfl
@[simp] theorem State.setRing_flag (s : State) (a1 : ℕ) (a2 : RingSt) (f : Fld) (i j : Nat) : (s.setRing a1 a2).flag f i j = s.flag f i j := rfl

@[simp] theorem State.setHold_pending (s : State) (a1 : ℕ) (a2 : RName) (a3 : ℕ) (a4 : ℕ) (a5 : Option Sys2Proof.Word) : (s.setHold a1 a2 a3 a4 a5).pending = s.pending := rfl
@[simp] theorem State.setHold_free (s : State) (a1 : ℕ) (a2 : RName) (a3 : ℕ) (a4 : ℕ) (a5 : Option Sys2Proof.Word) : (s.setHold a1 a2 a3 a4 a5).free = s.free := rfl
@[simp] theorem State.setHold_r32 (s : State) (a1 : ℕ) (a2 : RName) (a3 : ℕ) (a4 : ℕ) (a5 : Option Sys2Proof.Word) : (s.setHold a1 a2 a3 a4 a5).r32 = s.r32 := rfl
@[simp] theorem State.setHold_r64 (s : State) (a1 : ℕ) (a2 : RName) (a3 : ℕ) (a4 : ℕ) (a5 : Option Sys2Proof.Word) : (s.setHold a1 a2 a3 a4 a5).r64 = s.r64 := rfl
@[simp] theorem State.setHold_dma (s : State) (a1 : ℕ) (a2 : RName) (a3 : ℕ) (a4 : ℕ) (a5 : Option Sys2Proof.Word) : (s.setHold a1 a2 a3 a4 a5).dma = s.dma := rfl
@[simp] theorem State.setHold_time (s : State) (a1 : ℕ) (a2 : RName) (a3 : ℕ) (a4 : ℕ) (a5 : Option Sys2Proof.Word) : (s.setHold a1 a2 a3 a4 a5).time = s.time := rfl
@[simp] theorem State.setHold_link (s : State) (a1 : ℕ) (a2 : RName) (a3 : ℕ) (a4 : ℕ) (a5 : Option Sys2Proof.Word) : (s.setHold a1 a2 a3 a4 a5).link = s.link := rfl
@[simp] theorem State.setHold_power (s : State) (a1 : ℕ) (a2 : RName) (a3 : ℕ) (a4 : ℕ) (a5 : Option Sys2Proof.Word) : (s.setHold a1 a2 a3 a4 a5).power = s.power := rfl
@[simp] theorem State.setHold_boot (s : State) (a1 : ℕ) (a2 : RName) (a3 : ℕ) (a4 : ℕ) (a5 : Option Sys2Proof.Word) : (s.setHold a1 a2 a3 a4 a5).boot = s.boot := rfl
@[simp] theorem State.setHold_squall (s : State) (a1 : ℕ) (a2 : RName) (a3 : ℕ) (a4 : ℕ) (a5 : Option Sys2Proof.Word) : (s.setHold a1 a2 a3 a4 a5).squall = s.squall := rfl
@[simp] theorem State.setHold_tm (s : State) (a1 : ℕ) (a2 : RName) (a3 : ℕ) (a4 : ℕ) (a5 : Option Sys2Proof.Word) : (s.setHold a1 a2 a3 a4 a5).tm = s.tm := rfl
@[simp] theorem State.setHold_halo (s : State) (a1 : ℕ) (a2 : RName) (a3 : ℕ) (a4 : ℕ) (a5 : Option Sys2Proof.Word) : (s.setHold a1 a2 a3 a4 a5).halo = s.halo := rfl
@[simp] theorem State.setHold_cirrus (s : State) (a1 : ℕ) (a2 : RName) (a3 : ℕ) (a4 : ℕ) (a5 : Option Sys2Proof.Word) : (s.setHold a1 a2 a3 a4 a5).cirrus = s.cirrus := rfl
@[simp] theorem State.setHold_te (s : State) (a1 : ℕ) (a2 : RName) (a3 : ℕ) (a4 : ℕ) (a5 : Option Sys2Proof.Word) : (s.setHold a1 a2 a3 a4 a5).te = s.te := rfl
@[simp] theorem State.setHold_trust (s : State) (a1 : ℕ) (a2 : RName) (a3 : ℕ) (a4 : ℕ) (a5 : Option Sys2Proof.Word) : (s.setHold a1 a2 a3 a4 a5).trust = s.trust := rfl
@[simp] theorem State.setHold_zen (s : State) (a1 : ℕ) (a2 : RName) (a3 : ℕ) (a4 : ℕ) (a5 : Option Sys2Proof.Word) : (s.setHold a1 a2 a3 a4 a5).zen = s.zen := rfl
@[simp] theorem State.setHold_rd (s : State) (a1 : ℕ) (a2 : RName) (a3 : ℕ) (a4 : ℕ) (a5 : Option Sys2Proof.Word) (n : RName) (i j : Nat) : (s.setHold a1 a2 a3 a4 a5).rd n i j = s.rd n i j := rfl
@[simp] theorem State.setHold_rdw (s : State) (a1 : ℕ) (a2 : RName) (a3 : ℕ) (a4 : ℕ) (a5 : Option Sys2Proof.Word) (n : RName) (i j : Nat) : (s.setHold a1 a2 a3 a4 a5).rdw n i j = s.rdw n i j := rfl
@[simp] theorem State.setHold_fget (s : State) (a1 : ℕ) (a2 : RName) (a3 : ℕ) (a4 : ℕ) (a5 : Option Sys2Proof.Word) (f : Fld) (i j : Nat) : (s.setHold a1 a2 a3 a4 a5).fget f i j = s.fget f i j := rfl
@[simp] theorem State.setHold_flag (s : State) (a1 : ℕ) (a2 : RName) (a3 : ℕ) (a4 : ℕ) (a5 : Option Sys2Proof.Word) (f : Fld) (i j : Nat) : (s.setHold a1 a2 a3 a4 a5).flag f i j = s.flag f i j := rfl

@[simp] theorem State.setLatch_pending (s : State) (a1 : ℕ) (a2 : RName) (a3 : ℕ) (a4 : ℕ) (a5 : Option Sys2Proof.Word) : (s.setLatch a1 a2 a3 a4 a5).pending = s.pending := rfl
@[simp] theorem State.setLatch_free (s : State) (a1 : ℕ) (a2 : RName) (a3 : ℕ) (a4 : ℕ) (a5 : Option Sys2Proof.Word) : (s.setLatch a1 a2 a3 a4 a5).free = s.free := rfl
@[simp] theorem State.setLatch_r32 (s : State) (a1 : ℕ) (a2 : RName) (a3 : ℕ) (a4 : ℕ) (a5 : Option Sys2Proof.Word) : (s.setLatch a1 a2 a3 a4 a5).r32 = s.r32 := rfl
@[simp] theorem State.setLatch_r64 (s : State) (a1 : ℕ) (a2 : RName) (a3 : ℕ) (a4 : ℕ) (a5 : Option Sys2Proof.Word) : (s.setLatch a1 a2 a3 a4 a5).r64 = s.r64 := rfl
@[simp] theorem State.setLatch_dma (s : State) (a1 : ℕ) (a2 : RName) (a3 : ℕ) (a4 : ℕ) (a5 : Option Sys2Proof.Word) : (s.setLatch a1 a2 a3 a4 a5).dma = s.dma := rfl
@[simp] theorem State.setLatch_time (s : State) (a1 : ℕ) (a2 : RName) (a3 : ℕ) (a4 : ℕ) (a5 : Option Sys2Proof.Word) : (s.setLatch a1 a2 a3 a4 a5).time = s.time := rfl
@[simp] theorem State.setLatch_link (s : State) (a1 : ℕ) (a2 : RName) (a3 : ℕ) (a4 : ℕ) (a5 : Option Sys2Proof.Word) : (s.setLatch a1 a2 a3 a4 a5).link = s.link := rfl
@[simp] theorem State.setLatch_power (s : State) (a1 : ℕ) (a2 : RName) (a3 : ℕ) (a4 : ℕ) (a5 : Option Sys2Proof.Word) : (s.setLatch a1 a2 a3 a4 a5).power = s.power := rfl
@[simp] theorem State.setLatch_boot (s : State) (a1 : ℕ) (a2 : RName) (a3 : ℕ) (a4 : ℕ) (a5 : Option Sys2Proof.Word) : (s.setLatch a1 a2 a3 a4 a5).boot = s.boot := rfl
@[simp] theorem State.setLatch_squall (s : State) (a1 : ℕ) (a2 : RName) (a3 : ℕ) (a4 : ℕ) (a5 : Option Sys2Proof.Word) : (s.setLatch a1 a2 a3 a4 a5).squall = s.squall := rfl
@[simp] theorem State.setLatch_tm (s : State) (a1 : ℕ) (a2 : RName) (a3 : ℕ) (a4 : ℕ) (a5 : Option Sys2Proof.Word) : (s.setLatch a1 a2 a3 a4 a5).tm = s.tm := rfl
@[simp] theorem State.setLatch_halo (s : State) (a1 : ℕ) (a2 : RName) (a3 : ℕ) (a4 : ℕ) (a5 : Option Sys2Proof.Word) : (s.setLatch a1 a2 a3 a4 a5).halo = s.halo := rfl
@[simp] theorem State.setLatch_cirrus (s : State) (a1 : ℕ) (a2 : RName) (a3 : ℕ) (a4 : ℕ) (a5 : Option Sys2Proof.Word) : (s.setLatch a1 a2 a3 a4 a5).cirrus = s.cirrus := rfl
@[simp] theorem State.setLatch_te (s : State) (a1 : ℕ) (a2 : RName) (a3 : ℕ) (a4 : ℕ) (a5 : Option Sys2Proof.Word) : (s.setLatch a1 a2 a3 a4 a5).te = s.te := rfl
@[simp] theorem State.setLatch_trust (s : State) (a1 : ℕ) (a2 : RName) (a3 : ℕ) (a4 : ℕ) (a5 : Option Sys2Proof.Word) : (s.setLatch a1 a2 a3 a4 a5).trust = s.trust := rfl
@[simp] theorem State.setLatch_zen (s : State) (a1 : ℕ) (a2 : RName) (a3 : ℕ) (a4 : ℕ) (a5 : Option Sys2Proof.Word) : (s.setLatch a1 a2 a3 a4 a5).zen = s.zen := rfl
@[simp] theorem State.setLatch_rd (s : State) (a1 : ℕ) (a2 : RName) (a3 : ℕ) (a4 : ℕ) (a5 : Option Sys2Proof.Word) (n : RName) (i j : Nat) : (s.setLatch a1 a2 a3 a4 a5).rd n i j = s.rd n i j := rfl
@[simp] theorem State.setLatch_rdw (s : State) (a1 : ℕ) (a2 : RName) (a3 : ℕ) (a4 : ℕ) (a5 : Option Sys2Proof.Word) (n : RName) (i j : Nat) : (s.setLatch a1 a2 a3 a4 a5).rdw n i j = s.rdw n i j := rfl
@[simp] theorem State.setLatch_fget (s : State) (a1 : ℕ) (a2 : RName) (a3 : ℕ) (a4 : ℕ) (a5 : Option Sys2Proof.Word) (f : Fld) (i j : Nat) : (s.setLatch a1 a2 a3 a4 a5).fget f i j = s.fget f i j := rfl
@[simp] theorem State.setLatch_flag (s : State) (a1 : ℕ) (a2 : RName) (a3 : ℕ) (a4 : ℕ) (a5 : Option Sys2Proof.Word) (f : Fld) (i j : Nat) : (s.setLatch a1 a2 a3 a4 a5).flag f i j = s.flag f i j := rfl

@[simp] theorem State.setTrig_pending (s : State) (a1 : ℕ) (a2 : Trig) : (s.setTrig a1 a2).pending = s.pending := rfl
@[simp] theorem State.setTrig_free (s : State) (a1 : ℕ) (a2 : Trig) : (s.setTrig a1 a2).free = s.free := rfl
@[simp] theorem State.setTrig_r32 (s : State) (a1 : ℕ) (a2 : Trig) : (s.setTrig a1 a2).r32 = s.r32 := rfl
@[simp] theorem State.setTrig_r64 (s : State) (a1 : ℕ) (a2 : Trig) : (s.setTrig a1 a2).r64 = s.r64 := rfl
@[simp] theorem State.setTrig_host (s : State) (a1 : ℕ) (a2 : Trig) : (s.setTrig a1 a2).host = s.host := rfl
@[simp] theorem State.setTrig_dma (s : State) (a1 : ℕ) (a2 : Trig) : (s.setTrig a1 a2).dma = s.dma := rfl
@[simp] theorem State.setTrig_link (s : State) (a1 : ℕ) (a2 : Trig) : (s.setTrig a1 a2).link = s.link := rfl
@[simp] theorem State.setTrig_power (s : State) (a1 : ℕ) (a2 : Trig) : (s.setTrig a1 a2).power = s.power := rfl
@[simp] theorem State.setTrig_boot (s : State) (a1 : ℕ) (a2 : Trig) : (s.setTrig a1 a2).boot = s.boot := rfl
@[simp] theorem State.setTrig_squall (s : State) (a1 : ℕ) (a2 : Trig) : (s.setTrig a1 a2).squall = s.squall := rfl
@[simp] theorem State.setTrig_tm (s : State) (a1 : ℕ) (a2 : Trig) : (s.setTrig a1 a2).tm = s.tm := rfl
@[simp] theorem State.setTrig_halo (s : State) (a1 : ℕ) (a2 : Trig) : (s.setTrig a1 a2).halo = s.halo := rfl
@[simp] theorem State.setTrig_cirrus (s : State) (a1 : ℕ) (a2 : Trig) : (s.setTrig a1 a2).cirrus = s.cirrus := rfl
@[simp] theorem State.setTrig_te (s : State) (a1 : ℕ) (a2 : Trig) : (s.setTrig a1 a2).te = s.te := rfl
@[simp] theorem State.setTrig_trust (s : State) (a1 : ℕ) (a2 : Trig) : (s.setTrig a1 a2).trust = s.trust := rfl
@[simp] theorem State.setTrig_zen (s : State) (a1 : ℕ) (a2 : Trig) : (s.setTrig a1 a2).zen = s.zen := rfl
@[simp] theorem State.setTrig_rd (s : State) (a1 : ℕ) (a2 : Trig) (n : RName) (i j : Nat) : (s.setTrig a1 a2).rd n i j = s.rd n i j := rfl
@[simp] theorem State.setTrig_rdw (s : State) (a1 : ℕ) (a2 : Trig) (n : RName) (i j : Nat) : (s.setTrig a1 a2).rdw n i j = s.rdw n i j := rfl
@[simp] theorem State.setTrig_fget (s : State) (a1 : ℕ) (a2 : Trig) (f : Fld) (i j : Nat) : (s.setTrig a1 a2).fget f i j = s.fget f i j := rfl
@[simp] theorem State.setTrig_flag (s : State) (a1 : ℕ) (a2 : Trig) (f : Fld) (i j : Nat) : (s.setTrig a1 a2).flag f i j = s.flag f i j := rfl

@[simp] theorem State.setClock_pending (s : State) (a1 : ℕ) (a2 : ℕ) : (s.setClock a1 a2).pending = s.pending := rfl
@[simp] theorem State.setClock_free (s : State) (a1 : ℕ) (a2 : ℕ) : (s.setClock a1 a2).free = s.free := rfl
@[simp] theorem State.setClock_r32 (s : State) (a1 : ℕ) (a2 : ℕ) : (s.setClock a1 a2).r32 = s.r32 := rfl
@[simp] theorem State.setClock_r64 (s : State) (a1 : ℕ) (a2 : ℕ) : (s.setClock a1 a2).r64 = s.r64 := rfl
@[simp] theorem State.setClock_host (s : State) (a1 : ℕ) (a2 : ℕ) : (s.setClock a1 a2).host = s.host := rfl
@[simp] theorem State.setClock_dma (s : State) (a1 : ℕ) (a2 : ℕ) : (s.setClock a1 a2).dma = s.dma := rfl
@[simp] theorem State.setClock_link (s : State) (a1 : ℕ) (a2 : ℕ) : (s.setClock a1 a2).link = s.link := rfl
@[simp] theorem State.setClock_power (s : State) (a1 : ℕ) (a2 : ℕ) : (s.setClock a1 a2).power = s.power := rfl
@[simp] theorem State.setClock_boot (s : State) (a1 : ℕ) (a2 : ℕ) : (s.setClock a1 a2).boot = s.boot := rfl
@[simp] theorem State.setClock_squall (s : State) (a1 : ℕ) (a2 : ℕ) : (s.setClock a1 a2).squall = s.squall := rfl
@[simp] theorem State.setClock_tm (s : State) (a1 : ℕ) (a2 : ℕ) : (s.setClock a1 a2).tm = s.tm := rfl
@[simp] theorem State.setClock_halo (s : State) (a1 : ℕ) (a2 : ℕ) : (s.setClock a1 a2).halo = s.halo := rfl
@[simp] theorem State.setClock_cirrus (s : State) (a1 : ℕ) (a2 : ℕ) : (s.setClock a1 a2).cirrus = s.cirrus := rfl
@[simp] theorem State.setClock_te (s : State) (a1 : ℕ) (a2 : ℕ) : (s.setClock a1 a2).te = s.te := rfl
@[simp] theorem State.setClock_trust (s : State) (a1 : ℕ) (a2 : ℕ) : (s.setClock a1 a2).trust = s.trust := rfl
@[simp] theorem State.setClock_zen (s : State) (a1 : ℕ) (a2 : ℕ) : (s.setClock a1 a2).zen = s.zen := rfl
@[simp] theorem State.setClock_rd (s : State) (a1 : ℕ) (a2 : ℕ) (n : RName) (i j : Nat) : (s.setClock a1 a2).rd n i j = s.rd n i j := rfl
@[simp] theorem State.setClock_rdw (s : State) (a1 : ℕ) (a2 : ℕ) (n : RName) (i j : Nat) : (s.setClock a1 a2).rdw n i j = s.rdw n i j := rfl
@[simp] theorem State.setClock_fget (s : State) (a1 : ℕ) (a2 : ℕ) (f : Fld) (i j : Nat) : (s.setClock a1 a2).fget f i j = s.fget f i j := rfl
@[simp] theorem State.setClock_flag (s : State) (a1 : ℕ) (a2 : ℕ) (f : Fld) (i j : Nat) : (s.setClock a1 a2).flag f i j = s.flag f i j := rfl

@[simp] theorem State.setLpm_pending (s : State) (a1 : List LpmEntry) : (s.setLpm a1).pending = s.pending := rfl
@[simp] theorem State.setLpm_free (s : State) (a1 : List LpmEntry) : (s.setLpm a1).free = s.free := rfl
@[simp] theorem State.setLpm_r32 (s : State) (a1 : List LpmEntry) : (s.setLpm a1).r32 = s.r32 := rfl
@[simp] theorem State.setLpm_r64 (s : State) (a1 : List LpmEntry) : (s.setLpm a1).r64 = s.r64 := rfl
@[simp] theorem State.setLpm_host (s : State) (a1 : List LpmEntry) : (s.setLpm a1).host = s.host := rfl
@[simp] theorem State.setLpm_dma (s : State) (a1 : List LpmEntry) : (s.setLpm a1).dma = s.dma := rfl
@[simp] theorem State.setLpm_time (s : State) (a1 : List LpmEntry) : (s.setLpm a1).time = s.time := rfl
@[simp] theorem State.setLpm_link (s : State) (a1 : List LpmEntry) : (s.setLpm a1).link = s.link := rfl
@[simp] theorem State.setLpm_power (s : State) (a1 : List LpmEntry) : (s.setLpm a1).power = s.power := rfl
@[simp] theorem State.setLpm_boot (s : State) (a1 : List LpmEntry) : (s.setLpm a1).boot = s.boot := rfl
@[simp] theorem State.setLpm_squall (s : State) (a1 : List LpmEntry) : (s.setLpm a1).squall = s.squall := rfl
@[simp] theorem State.setLpm_tm (s : State) (a1 : List LpmEntry) : (s.setLpm a1).tm = s.tm := rfl
@[simp] theorem State.setLpm_halo (s : State) (a1 : List LpmEntry) : (s.setLpm a1).halo = s.halo := rfl
@[simp] theorem State.setLpm_cirrus (s : State) (a1 : List LpmEntry) : (s.setLpm a1).cirrus = s.cirrus := rfl
@[simp] theorem State.setLpm_trust (s : State) (a1 : List LpmEntry) : (s.setLpm a1).trust = s.trust := rfl
@[simp] theorem State.setLpm_zen (s : State) (a1 : List LpmEntry) : (s.setLpm a1).zen = s.zen := rfl
@[simp] theorem State.setLpm_rd (s : State) (a1 : List LpmEntry) (n : RName) (i j : Nat) : (s.setLpm a1).rd n i j = s.rd n i j := rfl
@[simp] theorem State.setLpm_rdw (s : State) (a1 : List LpmEntry) (n : RName) (i j : Nat) : (s.setLpm a1).rdw n i j = s.rdw n i j := rfl
@[simp] theorem State.setLpm_fget (s : State) (a1 : List LpmEntry) (f : Fld) (i j : Nat) : (s.setLpm a1).fget f i j = s.fget f i j := rfl
@[simp] theorem State.setLpm_flag (s : State) (a1 : List LpmEntry) (f : Fld) (i j : Nat) : (s.setLpm a1).flag f i j = s.flag f i j := rfl

@[simp] theorem State.setMember_pending (s : State) (a1 : ℕ) (a2 : BitVec 64) : (s.setMember a1 a2).pending = s.pending := rfl
@[simp] theorem State.setMember_free (s : State) (a1 : ℕ) (a2 : BitVec 64) : (s.setMember a1 a2).free = s.free := rfl
@[simp] theorem State.setMember_r32 (s : State) (a1 : ℕ) (a2 : BitVec 64) : (s.setMember a1 a2).r32 = s.r32 := rfl
@[simp] theorem State.setMember_r64 (s : State) (a1 : ℕ) (a2 : BitVec 64) : (s.setMember a1 a2).r64 = s.r64 := rfl
@[simp] theorem State.setMember_host (s : State) (a1 : ℕ) (a2 : BitVec 64) : (s.setMember a1 a2).host = s.host := rfl
@[simp] theorem State.setMember_dma (s : State) (a1 : ℕ) (a2 : BitVec 64) : (s.setMember a1 a2).dma = s.dma := rfl
@[simp] theorem State.setMember_time (s : State) (a1 : ℕ) (a2 : BitVec 64) : (s.setMember a1 a2).time = s.time := rfl
@[simp] theorem State.setMember_link (s : State) (a1 : ℕ) (a2 : BitVec 64) : (s.setMember a1 a2).link = s.link := rfl
@[simp] theorem State.setMember_power (s : State) (a1 : ℕ) (a2 : BitVec 64) : (s.setMember a1 a2).power = s.power := rfl
@[simp] theorem State.setMember_boot (s : State) (a1 : ℕ) (a2 : BitVec 64) : (s.setMember a1 a2).boot = s.boot := rfl
@[simp] theorem State.setMember_squall (s : State) (a1 : ℕ) (a2 : BitVec 64) : (s.setMember a1 a2).squall = s.squall := rfl
@[simp] theorem State.setMember_tm (s : State) (a1 : ℕ) (a2 : BitVec 64) : (s.setMember a1 a2).tm = s.tm := rfl
@[simp] theorem State.setMember_halo (s : State) (a1 : ℕ) (a2 : BitVec 64) : (s.setMember a1 a2).halo = s.halo := rfl
@[simp] theorem State.setMember_cirrus (s : State) (a1 : ℕ) (a2 : BitVec 64) : (s.setMember a1 a2).cirrus = s.cirrus := rfl
@[simp] theorem State.setMember_trust (s : State) (a1 : ℕ) (a2 : BitVec 64) : (s.setMember a1 a2).trust = s.trust := rfl
@[simp] theorem State.setMember_zen (s : State) (a1 : ℕ) (a2 : BitVec 64) : (s.setMember a1 a2).zen = s.zen := rfl
@[simp] theorem State.setMember_rd (s : State) (a1 : ℕ) (a2 : BitVec 64) (n : RName) (i j : Nat) : (s.setMember a1 a2).rd n i j = s.rd n i j := rfl
@[simp] theorem State.setMember_rdw (s : State) (a1 : ℕ) (a2 : BitVec 64) (n : RName) (i j : Nat) : (s.setMember a1 a2).rdw n i j = s.rdw n i j := rfl
@[simp] theorem State.setMember_fget (s : State) (a1 : ℕ) (a2 : BitVec 64) (f : Fld) (i j : Nat) : (s.setMember a1 a2).fget f i j = s.fget f i j := rfl
@[simp] theorem State.setMember_flag (s : State) (a1 : ℕ) (a2 : BitVec 64) (f : Fld) (i j : Nat) : (s.setMember a1 a2).flag f i j = s.flag f i j := rfl

@[simp] theorem State.setBuf_pending (s : State) (a1 : ℕ) (a2 : BufSt) : (s.setBuf a1 a2).pending = s.pending := rfl
@[simp] theorem State.setBuf_free (s : State) (a1 : ℕ) (a2 : BufSt) : (s.setBuf a1 a2).free = s.free := rfl
@[simp] theorem State.setBuf_r32 (s : State) (a1 : ℕ) (a2 : BufSt) : (s.setBuf a1 a2).r32 = s.r32 := rfl
@[simp] theorem State.setBuf_r64 (s : State) (a1 : ℕ) (a2 : BufSt) : (s.setBuf a1 a2).r64 = s.r64 := rfl
@[simp] theorem State.setBuf_host (s : State) (a1 : ℕ) (a2 : BufSt) : (s.setBuf a1 a2).host = s.host := rfl
@[simp] theorem State.setBuf_dma (s : State) (a1 : ℕ) (a2 : BufSt) : (s.setBuf a1 a2).dma = s.dma := rfl
@[simp] theorem State.setBuf_time (s : State) (a1 : ℕ) (a2 : BufSt) : (s.setBuf a1 a2).time = s.time := rfl
@[simp] theorem State.setBuf_link (s : State) (a1 : ℕ) (a2 : BufSt) : (s.setBuf a1 a2).link = s.link := rfl
@[simp] theorem State.setBuf_power (s : State) (a1 : ℕ) (a2 : BufSt) : (s.setBuf a1 a2).power = s.power := rfl
@[simp] theorem State.setBuf_boot (s : State) (a1 : ℕ) (a2 : BufSt) : (s.setBuf a1 a2).boot = s.boot := rfl
@[simp] theorem State.setBuf_squall (s : State) (a1 : ℕ) (a2 : BufSt) : (s.setBuf a1 a2).squall = s.squall := rfl
@[simp] theorem State.setBuf_halo (s : State) (a1 : ℕ) (a2 : BufSt) : (s.setBuf a1 a2).halo = s.halo := rfl
@[simp] theorem State.setBuf_cirrus (s : State) (a1 : ℕ) (a2 : BufSt) : (s.setBuf a1 a2).cirrus = s.cirrus := rfl
@[simp] theorem State.setBuf_te (s : State) (a1 : ℕ) (a2 : BufSt) : (s.setBuf a1 a2).te = s.te := rfl
@[simp] theorem State.setBuf_trust (s : State) (a1 : ℕ) (a2 : BufSt) : (s.setBuf a1 a2).trust = s.trust := rfl
@[simp] theorem State.setBuf_zen (s : State) (a1 : ℕ) (a2 : BufSt) : (s.setBuf a1 a2).zen = s.zen := rfl
@[simp] theorem State.setBuf_rd (s : State) (a1 : ℕ) (a2 : BufSt) (n : RName) (i j : Nat) : (s.setBuf a1 a2).rd n i j = s.rd n i j := rfl
@[simp] theorem State.setBuf_rdw (s : State) (a1 : ℕ) (a2 : BufSt) (n : RName) (i j : Nat) : (s.setBuf a1 a2).rdw n i j = s.rdw n i j := rfl
@[simp] theorem State.setBuf_fget (s : State) (a1 : ℕ) (a2 : BufSt) (f : Fld) (i j : Nat) : (s.setBuf a1 a2).fget f i j = s.fget f i j := rfl
@[simp] theorem State.setBuf_flag (s : State) (a1 : ℕ) (a2 : BufSt) (f : Fld) (i j : Nat) : (s.setBuf a1 a2).flag f i j = s.flag f i j := rfl

@[simp] theorem State.setNp_pending (s : State) (a1 : ℕ) (a2 : NPort) : (s.setNp a1 a2).pending = s.pending := rfl
@[simp] theorem State.setNp_free (s : State) (a1 : ℕ) (a2 : NPort) : (s.setNp a1 a2).free = s.free := rfl
@[simp] theorem State.setNp_r32 (s : State) (a1 : ℕ) (a2 : NPort) : (s.setNp a1 a2).r32 = s.r32 := rfl
@[simp] theorem State.setNp_r64 (s : State) (a1 : ℕ) (a2 : NPort) : (s.setNp a1 a2).r64 = s.r64 := rfl
@[simp] theorem State.setNp_host (s : State) (a1 : ℕ) (a2 : NPort) : (s.setNp a1 a2).host = s.host := rfl
@[simp] theorem State.setNp_dma (s : State) (a1 : ℕ) (a2 : NPort) : (s.setNp a1 a2).dma = s.dma := rfl
@[simp] theorem State.setNp_time (s : State) (a1 : ℕ) (a2 : NPort) : (s.setNp a1 a2).time = s.time := rfl
@[simp] theorem State.setNp_link (s : State) (a1 : ℕ) (a2 : NPort) : (s.setNp a1 a2).link = s.link := rfl
@[simp] theorem State.setNp_power (s : State) (a1 : ℕ) (a2 : NPort) : (s.setNp a1 a2).power = s.power := rfl
@[simp] theorem State.setNp_boot (s : State) (a1 : ℕ) (a2 : NPort) : (s.setNp a1 a2).boot = s.boot := rfl
@[simp] theorem State.setNp_squall (s : State) (a1 : ℕ) (a2 : NPort) : (s.setNp a1 a2).squall = s.squall := rfl
@[simp] theorem State.setNp_halo (s : State) (a1 : ℕ) (a2 : NPort) : (s.setNp a1 a2).halo = s.halo := rfl
@[simp] theorem State.setNp_cirrus (s : State) (a1 : ℕ) (a2 : NPort) : (s.setNp a1 a2).cirrus = s.cirrus := rfl
@[simp] theorem State.setNp_te (s : State) (a1 : ℕ) (a2 : NPort) : (s.setNp a1 a2).te = s.te := rfl
@[simp] theorem State.setNp_trust (s : State) (a1 : ℕ) (a2 : NPort) : (s.setNp a1 a2).trust = s.trust := rfl
@[simp] theorem State.setNp_zen (s : State) (a1 : ℕ) (a2 : NPort) : (s.setNp a1 a2).zen = s.zen := rfl
@[simp] theorem State.setNp_rd (s : State) (a1 : ℕ) (a2 : NPort) (n : RName) (i j : Nat) : (s.setNp a1 a2).rd n i j = s.rd n i j := rfl
@[simp] theorem State.setNp_rdw (s : State) (a1 : ℕ) (a2 : NPort) (n : RName) (i j : Nat) : (s.setNp a1 a2).rdw n i j = s.rdw n i j := rfl
@[simp] theorem State.setNp_fget (s : State) (a1 : ℕ) (a2 : NPort) (f : Fld) (i j : Nat) : (s.setNp a1 a2).fget f i j = s.fget f i j := rfl
@[simp] theorem State.setNp_flag (s : State) (a1 : ℕ) (a2 : NPort) (f : Fld) (i j : Nat) : (s.setNp a1 a2).flag f i j = s.flag f i j := rfl

@[simp] theorem State.setFrame_pending (s : State) (a1 : ℕ) (a2 : ℕ) (a3 : Frame) : (s.setFrame a1 a2 a3).pending = s.pending := rfl
@[simp] theorem State.setFrame_free (s : State) (a1 : ℕ) (a2 : ℕ) (a3 : Frame) : (s.setFrame a1 a2 a3).free = s.free := rfl
@[simp] theorem State.setFrame_r32 (s : State) (a1 : ℕ) (a2 : ℕ) (a3 : Frame) : (s.setFrame a1 a2 a3).r32 = s.r32 := rfl
@[simp] theorem State.setFrame_r64 (s : State) (a1 : ℕ) (a2 : ℕ) (a3 : Frame) : (s.setFrame a1 a2 a3).r64 = s.r64 := rfl
@[simp] theorem State.setFrame_host (s : State) (a1 : ℕ) (a2 : ℕ) (a3 : Frame) : (s.setFrame a1 a2 a3).host = s.host := rfl
@[simp] theorem State.setFrame_dma (s : State) (a1 : ℕ) (a2 : ℕ) (a3 : Frame) : (s.setFrame a1 a2 a3).dma = s.dma := rfl
@[simp] theorem State.setFrame_time (s : State) (a1 : ℕ) (a2 : ℕ) (a3 : Frame) : (s.setFrame a1 a2 a3).time = s.time := rfl
@[simp] theorem State.setFrame_link (s : State) (a1 : ℕ) (a2 : ℕ) (a3 : Frame) : (s.setFrame a1 a2 a3).link = s.link := rfl
@[simp] theorem State.setFrame_power (s : State) (a1 : ℕ) (a2 : ℕ) (a3 : Frame) : (s.setFrame a1 a2 a3).power = s.power := rfl
@[simp] theorem State.setFrame_boot (s : State) (a1 : ℕ) (a2 : ℕ) (a3 : Frame) : (s.setFrame a1 a2 a3).boot = s.boot := rfl
@[simp] theorem State.setFrame_squall (s : State) (a1 : ℕ) (a2 : ℕ) (a3 : Frame) : (s.setFrame a1 a2 a3).squall = s.squall := rfl
@[simp] theorem State.setFrame_halo (s : State) (a1 : ℕ) (a2 : ℕ) (a3 : Frame) : (s.setFrame a1 a2 a3).halo = s.halo := rfl
@[simp] theorem State.setFrame_cirrus (s : State) (a1 : ℕ) (a2 : ℕ) (a3 : Frame) : (s.setFrame a1 a2 a3).cirrus = s.cirrus := rfl
@[simp] theorem State.setFrame_te (s : State) (a1 : ℕ) (a2 : ℕ) (a3 : Frame) : (s.setFrame a1 a2 a3).te = s.te := rfl
@[simp] theorem State.setFrame_trust (s : State) (a1 : ℕ) (a2 : ℕ) (a3 : Frame) : (s.setFrame a1 a2 a3).trust = s.trust := rfl
@[simp] theorem State.setFrame_zen (s : State) (a1 : ℕ) (a2 : ℕ) (a3 : Frame) : (s.setFrame a1 a2 a3).zen = s.zen := rfl
@[simp] theorem State.setFrame_rd (s : State) (a1 : ℕ) (a2 : ℕ) (a3 : Frame) (n : RName) (i j : Nat) : (s.setFrame a1 a2 a3).rd n i j = s.rd n i j := rfl
@[simp] theorem State.setFrame_rdw (s : State) (a1 : ℕ) (a2 : ℕ) (a3 : Frame) (n : RName) (i j : Nat) : (s.setFrame a1 a2 a3).rdw n i j = s.rdw n i j := rfl
@[simp] theorem State.setFrame_fget (s : State) (a1 : ℕ) (a2 : ℕ) (a3 : Frame) (f : Fld) (i j : Nat) : (s.setFrame a1 a2 a3).fget f i j = s.fget f i j := rfl
@[simp] theorem State.setFrame_flag (s : State) (a1 : ℕ) (a2 : ℕ) (a3 : Frame) (f : Fld) (i j : Nat) : (s.setFrame a1 a2 a3).flag f i j = s.flag f i j := rfl

@[simp] theorem State.setVoq_pending (s : State) (a1 : ℕ) (a2 : ℕ) (a3 : Voq) : (s.setVoq a1 a2 a3).pending = s.pending := rfl
@[simp] theorem State.setVoq_free (s : State) (a1 : ℕ) (a2 : ℕ) (a3 : Voq) : (s.setVoq a1 a2 a3).free = s.free := rfl
@[simp] theorem State.setVoq_r32 (s : State) (a1 : ℕ) (a2 : ℕ) (a3 : Voq) : (s.setVoq a1 a2 a3).r32 = s.r32 := rfl
@[simp] theorem State.setVoq_r64 (s : State) (a1 : ℕ) (a2 : ℕ) (a3 : Voq) : (s.setVoq a1 a2 a3).r64 = s.r64 := rfl
@[simp] theorem State.setVoq_host (s : State) (a1 : ℕ) (a2 : ℕ) (a3 : Voq) : (s.setVoq a1 a2 a3).host = s.host := rfl
@[simp] theorem State.setVoq_dma (s : State) (a1 : ℕ) (a2 : ℕ) (a3 : Voq) : (s.setVoq a1 a2 a3).dma = s.dma := rfl
@[simp] theorem State.setVoq_time (s : State) (a1 : ℕ) (a2 : ℕ) (a3 : Voq) : (s.setVoq a1 a2 a3).time = s.time := rfl
@[simp] theorem State.setVoq_link (s : State) (a1 : ℕ) (a2 : ℕ) (a3 : Voq) : (s.setVoq a1 a2 a3).link = s.link := rfl
@[simp] theorem State.setVoq_power (s : State) (a1 : ℕ) (a2 : ℕ) (a3 : Voq) : (s.setVoq a1 a2 a3).power = s.power := rfl
@[simp] theorem State.setVoq_boot (s : State) (a1 : ℕ) (a2 : ℕ) (a3 : Voq) : (s.setVoq a1 a2 a3).boot = s.boot := rfl
@[simp] theorem State.setVoq_squall (s : State) (a1 : ℕ) (a2 : ℕ) (a3 : Voq) : (s.setVoq a1 a2 a3).squall = s.squall := rfl
@[simp] theorem State.setVoq_halo (s : State) (a1 : ℕ) (a2 : ℕ) (a3 : Voq) : (s.setVoq a1 a2 a3).halo = s.halo := rfl
@[simp] theorem State.setVoq_cirrus (s : State) (a1 : ℕ) (a2 : ℕ) (a3 : Voq) : (s.setVoq a1 a2 a3).cirrus = s.cirrus := rfl
@[simp] theorem State.setVoq_te (s : State) (a1 : ℕ) (a2 : ℕ) (a3 : Voq) : (s.setVoq a1 a2 a3).te = s.te := rfl
@[simp] theorem State.setVoq_trust (s : State) (a1 : ℕ) (a2 : ℕ) (a3 : Voq) : (s.setVoq a1 a2 a3).trust = s.trust := rfl
@[simp] theorem State.setVoq_zen (s : State) (a1 : ℕ) (a2 : ℕ) (a3 : Voq) : (s.setVoq a1 a2 a3).zen = s.zen := rfl
@[simp] theorem State.setVoq_rd (s : State) (a1 : ℕ) (a2 : ℕ) (a3 : Voq) (n : RName) (i j : Nat) : (s.setVoq a1 a2 a3).rd n i j = s.rd n i j := rfl
@[simp] theorem State.setVoq_rdw (s : State) (a1 : ℕ) (a2 : ℕ) (a3 : Voq) (n : RName) (i j : Nat) : (s.setVoq a1 a2 a3).rdw n i j = s.rdw n i j := rfl
@[simp] theorem State.setVoq_fget (s : State) (a1 : ℕ) (a2 : ℕ) (a3 : Voq) (f : Fld) (i j : Nat) : (s.setVoq a1 a2 a3).fget f i j = s.fget f i j := rfl
@[simp] theorem State.setVoq_flag (s : State) (a1 : ℕ) (a2 : ℕ) (a3 : Voq) (f : Fld) (i j : Nat) : (s.setVoq a1 a2 a3).flag f i j = s.flag f i j := rfl

@[simp] theorem State.setNc_pending (s : State) (a1 : ℕ) (a2 : ℕ) (a3 : NClass) : (s.setNc a1 a2 a3).pending = s.pending := rfl
@[simp] theorem State.setNc_free (s : State) (a1 : ℕ) (a2 : ℕ) (a3 : NClass) : (s.setNc a1 a2 a3).free = s.free := rfl
@[simp] theorem State.setNc_r32 (s : State) (a1 : ℕ) (a2 : ℕ) (a3 : NClass) : (s.setNc a1 a2 a3).r32 = s.r32 := rfl
@[simp] theorem State.setNc_r64 (s : State) (a1 : ℕ) (a2 : ℕ) (a3 : NClass) : (s.setNc a1 a2 a3).r64 = s.r64 := rfl
@[simp] theorem State.setNc_host (s : State) (a1 : ℕ) (a2 : ℕ) (a3 : NClass) : (s.setNc a1 a2 a3).host = s.host := rfl
@[simp] theorem State.setNc_dma (s : State) (a1 : ℕ) (a2 : ℕ) (a3 : NClass) : (s.setNc a1 a2 a3).dma = s.dma := rfl
@[simp] theorem State.setNc_time (s : State) (a1 : ℕ) (a2 : ℕ) (a3 : NClass) : (s.setNc a1 a2 a3).time = s.time := rfl
@[simp] theorem State.setNc_link (s : State) (a1 : ℕ) (a2 : ℕ) (a3 : NClass) : (s.setNc a1 a2 a3).link = s.link := rfl
@[simp] theorem State.setNc_power (s : State) (a1 : ℕ) (a2 : ℕ) (a3 : NClass) : (s.setNc a1 a2 a3).power = s.power := rfl
@[simp] theorem State.setNc_boot (s : State) (a1 : ℕ) (a2 : ℕ) (a3 : NClass) : (s.setNc a1 a2 a3).boot = s.boot := rfl
@[simp] theorem State.setNc_squall (s : State) (a1 : ℕ) (a2 : ℕ) (a3 : NClass) : (s.setNc a1 a2 a3).squall = s.squall := rfl
@[simp] theorem State.setNc_halo (s : State) (a1 : ℕ) (a2 : ℕ) (a3 : NClass) : (s.setNc a1 a2 a3).halo = s.halo := rfl
@[simp] theorem State.setNc_cirrus (s : State) (a1 : ℕ) (a2 : ℕ) (a3 : NClass) : (s.setNc a1 a2 a3).cirrus = s.cirrus := rfl
@[simp] theorem State.setNc_te (s : State) (a1 : ℕ) (a2 : ℕ) (a3 : NClass) : (s.setNc a1 a2 a3).te = s.te := rfl
@[simp] theorem State.setNc_trust (s : State) (a1 : ℕ) (a2 : ℕ) (a3 : NClass) : (s.setNc a1 a2 a3).trust = s.trust := rfl
@[simp] theorem State.setNc_zen (s : State) (a1 : ℕ) (a2 : ℕ) (a3 : NClass) : (s.setNc a1 a2 a3).zen = s.zen := rfl
@[simp] theorem State.setNc_rd (s : State) (a1 : ℕ) (a2 : ℕ) (a3 : NClass) (n : RName) (i j : Nat) : (s.setNc a1 a2 a3).rd n i j = s.rd n i j := rfl
@[simp] theorem State.setNc_rdw (s : State) (a1 : ℕ) (a2 : ℕ) (a3 : NClass) (n : RName) (i j : Nat) : (s.setNc a1 a2 a3).rdw n i j = s.rdw n i j := rfl
@[simp] theorem State.setNc_fget (s : State) (a1 : ℕ) (a2 : ℕ) (a3 : NClass) (f : Fld) (i j : Nat) : (s.setNc a1 a2 a3).fget f i j = s.fget f i j := rfl
@[simp] theorem State.setNc_flag (s : State) (a1 : ℕ) (a2 : ℕ) (a3 : NClass) (f : Fld) (i j : Nat) : (s.setNc a1 a2 a3).flag f i j = s.flag f i j := rfl

@[simp] theorem State.setHt_pending (s : State) (a1 : ℕ) (a2 : HaloTile) : (s.setHt a1 a2).pending = s.pending := rfl
@[simp] theorem State.setHt_free (s : State) (a1 : ℕ) (a2 : HaloTile) : (s.setHt a1 a2).free = s.free := rfl
@[simp] theorem State.setHt_r32 (s : State) (a1 : ℕ) (a2 : HaloTile) : (s.setHt a1 a2).r32 = s.r32 := rfl
@[simp] theorem State.setHt_r64 (s : State) (a1 : ℕ) (a2 : HaloTile) : (s.setHt a1 a2).r64 = s.r64 := rfl
@[simp] theorem State.setHt_host (s : State) (a1 : ℕ) (a2 : HaloTile) : (s.setHt a1 a2).host = s.host := rfl
@[simp] theorem State.setHt_dma (s : State) (a1 : ℕ) (a2 : HaloTile) : (s.setHt a1 a2).dma = s.dma := rfl
@[simp] theorem State.setHt_time (s : State) (a1 : ℕ) (a2 : HaloTile) : (s.setHt a1 a2).time = s.time := rfl
@[simp] theorem State.setHt_link (s : State) (a1 : ℕ) (a2 : HaloTile) : (s.setHt a1 a2).link = s.link := rfl
@[simp] theorem State.setHt_power (s : State) (a1 : ℕ) (a2 : HaloTile) : (s.setHt a1 a2).power = s.power := rfl
@[simp] theorem State.setHt_boot (s : State) (a1 : ℕ) (a2 : HaloTile) : (s.setHt a1 a2).boot = s.boot := rfl
@[simp] theorem State.setHt_squall (s : State) (a1 : ℕ) (a2 : HaloTile) : (s.setHt a1 a2).squall = s.squall := rfl
@[simp] theorem State.setHt_tm (s : State) (a1 : ℕ) (a2 : HaloTile) : (s.setHt a1 a2).tm = s.tm := rfl
@[simp] theorem State.setHt_cirrus (s : State) (a1 : ℕ) (a2 : HaloTile) : (s.setHt a1 a2).cirrus = s.cirrus := rfl
@[simp] theorem State.setHt_te (s : State) (a1 : ℕ) (a2 : HaloTile) : (s.setHt a1 a2).te = s.te := rfl
@[simp] theorem State.setHt_trust (s : State) (a1 : ℕ) (a2 : HaloTile) : (s.setHt a1 a2).trust = s.trust := rfl
@[simp] theorem State.setHt_zen (s : State) (a1 : ℕ) (a2 : HaloTile) : (s.setHt a1 a2).zen = s.zen := rfl
@[simp] theorem State.setHt_rd (s : State) (a1 : ℕ) (a2 : HaloTile) (n : RName) (i j : Nat) : (s.setHt a1 a2).rd n i j = s.rd n i j := rfl
@[simp] theorem State.setHt_rdw (s : State) (a1 : ℕ) (a2 : HaloTile) (n : RName) (i j : Nat) : (s.setHt a1 a2).rdw n i j = s.rdw n i j := rfl
@[simp] theorem State.setHt_fget (s : State) (a1 : ℕ) (a2 : HaloTile) (f : Fld) (i j : Nat) : (s.setHt a1 a2).fget f i j = s.fget f i j := rfl
@[simp] theorem State.setHt_flag (s : State) (a1 : ℕ) (a2 : HaloTile) (f : Fld) (i j : Nat) : (s.setHt a1 a2).flag f i j = s.flag f i j := rfl

@[simp] theorem State.setFlow_pending (s : State) (a1 : ℕ) (a2 : ℕ) (a3 : Flow) : (s.setFlow a1 a2 a3).pending = s.pending := rfl
@[simp] theorem State.setFlow_free (s : State) (a1 : ℕ) (a2 : ℕ) (a3 : Flow) : (s.setFlow a1 a2 a3).free = s.free := rfl
@[simp] theorem State.setFlow_r32 (s : State) (a1 : ℕ) (a2 : ℕ) (a3 : Flow) : (s.setFlow a1 a2 a3).r32 = s.r32 := rfl
@[simp] theorem State.setFlow_r64 (s : State) (a1 : ℕ) (a2 : ℕ) (a3 : Flow) : (s.setFlow a1 a2 a3).r64 = s.r64 := rfl
@[simp] theorem State.setFlow_host (s : State) (a1 : ℕ) (a2 : ℕ) (a3 : Flow) : (s.setFlow a1 a2 a3).host = s.host := rfl
@[simp] theorem State.setFlow_dma (s : State) (a1 : ℕ) (a2 : ℕ) (a3 : Flow) : (s.setFlow a1 a2 a3).dma = s.dma := rfl
@[simp] theorem State.setFlow_time (s : State) (a1 : ℕ) (a2 : ℕ) (a3 : Flow) : (s.setFlow a1 a2 a3).time = s.time := rfl
@[simp] theorem State.setFlow_link (s : State) (a1 : ℕ) (a2 : ℕ) (a3 : Flow) : (s.setFlow a1 a2 a3).link = s.link := rfl
@[simp] theorem State.setFlow_power (s : State) (a1 : ℕ) (a2 : ℕ) (a3 : Flow) : (s.setFlow a1 a2 a3).power = s.power := rfl
@[simp] theorem State.setFlow_boot (s : State) (a1 : ℕ) (a2 : ℕ) (a3 : Flow) : (s.setFlow a1 a2 a3).boot = s.boot := rfl
@[simp] theorem State.setFlow_squall (s : State) (a1 : ℕ) (a2 : ℕ) (a3 : Flow) : (s.setFlow a1 a2 a3).squall = s.squall := rfl
@[simp] theorem State.setFlow_tm (s : State) (a1 : ℕ) (a2 : ℕ) (a3 : Flow) : (s.setFlow a1 a2 a3).tm = s.tm := rfl
@[simp] theorem State.setFlow_cirrus (s : State) (a1 : ℕ) (a2 : ℕ) (a3 : Flow) : (s.setFlow a1 a2 a3).cirrus = s.cirrus := rfl
@[simp] theorem State.setFlow_te (s : State) (a1 : ℕ) (a2 : ℕ) (a3 : Flow) : (s.setFlow a1 a2 a3).te = s.te := rfl
@[simp] theorem State.setFlow_trust (s : State) (a1 : ℕ) (a2 : ℕ) (a3 : Flow) : (s.setFlow a1 a2 a3).trust = s.trust := rfl
@[simp] theorem State.setFlow_zen (s : State) (a1 : ℕ) (a2 : ℕ) (a3 : Flow) : (s.setFlow a1 a2 a3).zen = s.zen := rfl
@[simp] theorem State.setFlow_rd (s : State) (a1 : ℕ) (a2 : ℕ) (a3 : Flow) (n : RName) (i j : Nat) : (s.setFlow a1 a2 a3).rd n i j = s.rd n i j := rfl
@[simp] theorem State.setFlow_rdw (s : State) (a1 : ℕ) (a2 : ℕ) (a3 : Flow) (n : RName) (i j : Nat) : (s.setFlow a1 a2 a3).rdw n i j = s.rdw n i j := rfl
@[simp] theorem State.setFlow_fget (s : State) (a1 : ℕ) (a2 : ℕ) (a3 : Flow) (f : Fld) (i j : Nat) : (s.setFlow a1 a2 a3).fget f i j = s.fget f i j := rfl
@[simp] theorem State.setFlow_flag (s : State) (a1 : ℕ) (a2 : ℕ) (a3 : Flow) (f : Fld) (i j : Nat) : (s.setFlow a1 a2 a3).flag f i j = s.flag f i j := rfl

@[simp] theorem State.setDmaCh_pending (s : State) (a1 : ℕ) (a2 : DmaCh) : (s.setDmaCh a1 a2).pending = s.pending := rfl
@[simp] theorem State.setDmaCh_free (s : State) (a1 : ℕ) (a2 : DmaCh) : (s.setDmaCh a1 a2).free = s.free := rfl
@[simp] theorem State.setDmaCh_r32 (s : State) (a1 : ℕ) (a2 : DmaCh) : (s.setDmaCh a1 a2).r32 = s.r32 := rfl
@[simp] theorem State.setDmaCh_r64 (s : State) (a1 : ℕ) (a2 : DmaCh) : (s.setDmaCh a1 a2).r64 = s.r64 := rfl
@[simp] theorem State.setDmaCh_host (s : State) (a1 : ℕ) (a2 : DmaCh) : (s.setDmaCh a1 a2).host = s.host := rfl
@[simp] theorem State.setDmaCh_time (s : State) (a1 : ℕ) (a2 : DmaCh) : (s.setDmaCh a1 a2).time = s.time := rfl
@[simp] theorem State.setDmaCh_link (s : State) (a1 : ℕ) (a2 : DmaCh) : (s.setDmaCh a1 a2).link = s.link := rfl
@[simp] theorem State.setDmaCh_power (s : State) (a1 : ℕ) (a2 : DmaCh) : (s.setDmaCh a1 a2).power = s.power := rfl
@[simp] theorem State.setDmaCh_boot (s : State) (a1 : ℕ) (a2 : DmaCh) : (s.setDmaCh a1 a2).boot = s.boot := rfl
@[simp] theorem State.setDmaCh_squall (s : State) (a1 : ℕ) (a2 : DmaCh) : (s.setDmaCh a1 a2).squall = s.squall := rfl
@[simp] theorem State.setDmaCh_tm (s : State) (a1 : ℕ) (a2 : DmaCh) : (s.setDmaCh a1 a2).tm = s.tm := rfl
@[simp] theorem State.setDmaCh_halo (s : State) (a1 : ℕ) (a2 : DmaCh) : (s.setDmaCh a1 a2).halo = s.halo := rfl
@[simp] theorem State.setDmaCh_cirrus (s : State) (a1 : ℕ) (a2 : DmaCh) : (s.setDmaCh a1 a2).cirrus = s.cirrus := rfl
@[simp] theorem State.setDmaCh_te (s : State) (a1 : ℕ) (a2 : DmaCh) : (s.setDmaCh a1 a2).te = s.te := rfl
@[simp] theorem State.setDmaCh_trust (s : State) (a1 : ℕ) (a2 : DmaCh) : (s.setDmaCh a1 a2).trust = s.trust := rfl
@[simp] theorem State.setDmaCh_zen (s : State) (a1 : ℕ) (a2 : DmaCh) : (s.setDmaCh a1 a2).zen = s.zen := rfl
@[simp] theorem State.setDmaCh_rd (s : State) (a1 : ℕ) (a2 : DmaCh) (n : RName) (i j : Nat) : (s.setDmaCh a1 a2).rd n i j = s.rd n i j := rfl
@[simp] theorem State.setDmaCh_rdw (s : State) (a1 : ℕ) (a2 : DmaCh) (n : RName) (i j : Nat) : (s.setDmaCh a1 a2).rdw n i j = s.rdw n i j := rfl
@[simp] theorem State.setDmaCh_fget (s : State) (a1 : ℕ) (a2 : DmaCh) (f : Fld) (i j : Nat) : (s.setDmaCh a1 a2).fget f i j = s.fget f i j := rfl
@[simp] theorem State.setDmaCh_flag (s : State) (a1 : ℕ) (a2 : DmaCh) (f : Fld) (i j : Nat) : (s.setDmaCh a1 a2).flag f i j = s.flag f i j := rfl

@[simp] theorem State.setLane_pending (s : State) (a1 : ℕ) (a2 : LaneSt) : (s.setLane a1 a2).pending = s.pending := rfl
@[simp] theorem State.setLane_free (s : State) (a1 : ℕ) (a2 : LaneSt) : (s.setLane a1 a2).free = s.free := rfl
@[simp] theorem State.setLane_r32 (s : State) (a1 : ℕ) (a2 : LaneSt) : (s.setLane a1 a2).r32 = s.r32 := rfl
@[simp] theorem State.setLane_r64 (s : State) (a1 : ℕ) (a2 : LaneSt) : (s.setLane a1 a2).r64 = s.r64 := rfl
@[simp] theorem State.setLane_host (s : State) (a1 : ℕ) (a2 : LaneSt) : (s.setLane a1 a2).host = s.host := rfl
@[simp] theorem State.setLane_dma (s : State) (a1 : ℕ) (a2 : LaneSt) : (s.setLane a1 a2).dma = s.dma := rfl
@[simp] theorem State.setLane_time (s : State) (a1 : ℕ) (a2 : LaneSt) : (s.setLane a1 a2).time = s.time := rfl
@[simp] theorem State.setLane_power (s : State) (a1 : ℕ) (a2 : LaneSt) : (s.setLane a1 a2).power = s.power := rfl
@[simp] theorem State.setLane_boot (s : State) (a1 : ℕ) (a2 : LaneSt) : (s.setLane a1 a2).boot = s.boot := rfl
@[simp] theorem State.setLane_squall (s : State) (a1 : ℕ) (a2 : LaneSt) : (s.setLane a1 a2).squall = s.squall := rfl
@[simp] theorem State.setLane_tm (s : State) (a1 : ℕ) (a2 : LaneSt) : (s.setLane a1 a2).tm = s.tm := rfl
@[simp] theorem State.setLane_halo (s : State) (a1 : ℕ) (a2 : LaneSt) : (s.setLane a1 a2).halo = s.halo := rfl
@[simp] theorem State.setLane_cirrus (s : State) (a1 : ℕ) (a2 : LaneSt) : (s.setLane a1 a2).cirrus = s.cirrus := rfl
@[simp] theorem State.setLane_te (s : State) (a1 : ℕ) (a2 : LaneSt) : (s.setLane a1 a2).te = s.te := rfl
@[simp] theorem State.setLane_trust (s : State) (a1 : ℕ) (a2 : LaneSt) : (s.setLane a1 a2).trust = s.trust := rfl
@[simp] theorem State.setLane_zen (s : State) (a1 : ℕ) (a2 : LaneSt) : (s.setLane a1 a2).zen = s.zen := rfl
@[simp] theorem State.setLane_rd (s : State) (a1 : ℕ) (a2 : LaneSt) (n : RName) (i j : Nat) : (s.setLane a1 a2).rd n i j = s.rd n i j := rfl
@[simp] theorem State.setLane_rdw (s : State) (a1 : ℕ) (a2 : LaneSt) (n : RName) (i j : Nat) : (s.setLane a1 a2).rdw n i j = s.rdw n i j := rfl
@[simp] theorem State.setLane_fget (s : State) (a1 : ℕ) (a2 : LaneSt) (f : Fld) (i j : Nat) : (s.setLane a1 a2).fget f i j = s.fget f i j := rfl
@[simp] theorem State.setLane_flag (s : State) (a1 : ℕ) (a2 : LaneSt) (f : Fld) (i j : Nat) : (s.setLane a1 a2).flag f i j = s.flag f i j := rfl

@[simp] theorem State.setPort_pending (s : State) (a1 : ℕ) (a2 : PortSt) : (s.setPort a1 a2).pending = s.pending := rfl
@[simp] theorem State.setPort_free (s : State) (a1 : ℕ) (a2 : PortSt) : (s.setPort a1 a2).free = s.free := rfl
@[simp] theorem State.setPort_r32 (s : State) (a1 : ℕ) (a2 : PortSt) : (s.setPort a1 a2).r32 = s.r32 := rfl
@[simp] theorem State.setPort_r64 (s : State) (a1 : ℕ) (a2 : PortSt) : (s.setPort a1 a2).r64 = s.r64 := rfl
@[simp] theorem State.setPort_host (s : State) (a1 : ℕ) (a2 : PortSt) : (s.setPort a1 a2).host = s.host := rfl
@[simp] theorem State.setPort_dma (s : State) (a1 : ℕ) (a2 : PortSt) : (s.setPort a1 a2).dma = s.dma := rfl
@[simp] theorem State.setPort_time (s : State) (a1 : ℕ) (a2 : PortSt) : (s.setPort a1 a2).time = s.time := rfl
@[simp] theorem State.setPort_power (s : State) (a1 : ℕ) (a2 : PortSt) : (s.setPort a1 a2).power = s.power := rfl
@[simp] theorem State.setPort_boot (s : State) (a1 : ℕ) (a2 : PortSt) : (s.setPort a1 a2).boot = s.boot := rfl
@[simp] theorem State.setPort_squall (s : State) (a1 : ℕ) (a2 : PortSt) : (s.setPort a1 a2).squall = s.squall := rfl
@[simp] theorem State.setPort_tm (s : State) (a1 : ℕ) (a2 : PortSt) : (s.setPort a1 a2).tm = s.tm := rfl
@[simp] theorem State.setPort_halo (s : State) (a1 : ℕ) (a2 : PortSt) : (s.setPort a1 a2).halo = s.halo := rfl
@[simp] theorem State.setPort_cirrus (s : State) (a1 : ℕ) (a2 : PortSt) : (s.setPort a1 a2).cirrus = s.cirrus := rfl
@[simp] theorem State.setPort_te (s : State) (a1 : ℕ) (a2 : PortSt) : (s.setPort a1 a2).te = s.te := rfl
@[simp] theorem State.setPort_trust (s : State) (a1 : ℕ) (a2 : PortSt) : (s.setPort a1 a2).trust = s.trust := rfl
@[simp] theorem State.setPort_zen (s : State) (a1 : ℕ) (a2 : PortSt) : (s.setPort a1 a2).zen = s.zen := rfl
@[simp] theorem State.setPort_rd (s : State) (a1 : ℕ) (a2 : PortSt) (n : RName) (i j : Nat) : (s.setPort a1 a2).rd n i j = s.rd n i j := rfl
@[simp] theorem State.setPort_rdw (s : State) (a1 : ℕ) (a2 : PortSt) (n : RName) (i j : Nat) : (s.setPort a1 a2).rdw n i j = s.rdw n i j := rfl
@[simp] theorem State.setPort_fget (s : State) (a1 : ℕ) (a2 : PortSt) (f : Fld) (i j : Nat) : (s.setPort a1 a2).fget f i j = s.fget f i j := rfl
@[simp] theorem State.setPort_flag (s : State) (a1 : ℕ) (a2 : PortSt) (f : Fld) (i j : Nat) : (s.setPort a1 a2).flag f i j = s.flag f i j := rfl

@[simp] theorem State.setCage_pending (s : State) (a1 : ℕ) (a2 : CageSt) : (s.setCage a1 a2).pending = s.pending := rfl
@[simp] theorem State.setCage_free (s : State) (a1 : ℕ) (a2 : CageSt) : (s.setCage a1 a2).free = s.free := rfl
@[simp] theorem State.setCage_r32 (s : State) (a1 : ℕ) (a2 : CageSt) : (s.setCage a1 a2).r32 = s.r32 := rfl
@[simp] theorem State.setCage_r64 (s : State) (a1 : ℕ) (a2 : CageSt) : (s.setCage a1 a2).r64 = s.r64 := rfl
@[simp] theorem State.setCage_host (s : State) (a1 : ℕ) (a2 : CageSt) : (s.setCage a1 a2).host = s.host := rfl
@[simp] theorem State.setCage_dma (s : State) (a1 : ℕ) (a2 : CageSt) : (s.setCage a1 a2).dma = s.dma := rfl
@[simp] theorem State.setCage_time (s : State) (a1 : ℕ) (a2 : CageSt) : (s.setCage a1 a2).time = s.time := rfl
@[simp] theorem State.setCage_power (s : State) (a1 : ℕ) (a2 : CageSt) : (s.setCage a1 a2).power = s.power := rfl
@[simp] theorem State.setCage_boot (s : State) (a1 : ℕ) (a2 : CageSt) : (s.setCage a1 a2).boot = s.boot := rfl
@[simp] theorem State.setCage_squall (s : State) (a1 : ℕ) (a2 : CageSt) : (s.setCage a1 a2).squall = s.squall := rfl
@[simp] theorem State.setCage_tm (s : State) (a1 : ℕ) (a2 : CageSt) : (s.setCage a1 a2).tm = s.tm := rfl
@[simp] theorem State.setCage_halo (s : State) (a1 : ℕ) (a2 : CageSt) : (s.setCage a1 a2).halo = s.halo := rfl
@[simp] theorem State.setCage_cirrus (s : State) (a1 : ℕ) (a2 : CageSt) : (s.setCage a1 a2).cirrus = s.cirrus := rfl
@[simp] theorem State.setCage_te (s : State) (a1 : ℕ) (a2 : CageSt) : (s.setCage a1 a2).te = s.te := rfl
@[simp] theorem State.setCage_trust (s : State) (a1 : ℕ) (a2 : CageSt) : (s.setCage a1 a2).trust = s.trust := rfl
@[simp] theorem State.setCage_zen (s : State) (a1 : ℕ) (a2 : CageSt) : (s.setCage a1 a2).zen = s.zen := rfl
@[simp] theorem State.setCage_rd (s : State) (a1 : ℕ) (a2 : CageSt) (n : RName) (i j : Nat) : (s.setCage a1 a2).rd n i j = s.rd n i j := rfl
@[simp] theorem State.setCage_rdw (s : State) (a1 : ℕ) (a2 : CageSt) (n : RName) (i j : Nat) : (s.setCage a1 a2).rdw n i j = s.rdw n i j := rfl
@[simp] theorem State.setCage_fget (s : State) (a1 : ℕ) (a2 : CageSt) (f : Fld) (i j : Nat) : (s.setCage a1 a2).fget f i j = s.fget f i j := rfl
@[simp] theorem State.setCage_flag (s : State) (a1 : ℕ) (a2 : CageSt) (f : Fld) (i j : Nat) : (s.setCage a1 a2).flag f i j = s.flag f i j := rfl

@[simp] theorem State.setI2c_pending (s : State) (a1 : ℕ) (a2 : I2cSt) : (s.setI2c a1 a2).pending = s.pending := rfl
@[simp] theorem State.setI2c_free (s : State) (a1 : ℕ) (a2 : I2cSt) : (s.setI2c a1 a2).free = s.free := rfl
@[simp] theorem State.setI2c_r32 (s : State) (a1 : ℕ) (a2 : I2cSt) : (s.setI2c a1 a2).r32 = s.r32 := rfl
@[simp] theorem State.setI2c_r64 (s : State) (a1 : ℕ) (a2 : I2cSt) : (s.setI2c a1 a2).r64 = s.r64 := rfl
@[simp] theorem State.setI2c_host (s : State) (a1 : ℕ) (a2 : I2cSt) : (s.setI2c a1 a2).host = s.host := rfl
@[simp] theorem State.setI2c_dma (s : State) (a1 : ℕ) (a2 : I2cSt) : (s.setI2c a1 a2).dma = s.dma := rfl
@[simp] theorem State.setI2c_time (s : State) (a1 : ℕ) (a2 : I2cSt) : (s.setI2c a1 a2).time = s.time := rfl
@[simp] theorem State.setI2c_power (s : State) (a1 : ℕ) (a2 : I2cSt) : (s.setI2c a1 a2).power = s.power := rfl
@[simp] theorem State.setI2c_boot (s : State) (a1 : ℕ) (a2 : I2cSt) : (s.setI2c a1 a2).boot = s.boot := rfl
@[simp] theorem State.setI2c_squall (s : State) (a1 : ℕ) (a2 : I2cSt) : (s.setI2c a1 a2).squall = s.squall := rfl
@[simp] theorem State.setI2c_tm (s : State) (a1 : ℕ) (a2 : I2cSt) : (s.setI2c a1 a2).tm = s.tm := rfl
@[simp] theorem State.setI2c_halo (s : State) (a1 : ℕ) (a2 : I2cSt) : (s.setI2c a1 a2).halo = s.halo := rfl
@[simp] theorem State.setI2c_cirrus (s : State) (a1 : ℕ) (a2 : I2cSt) : (s.setI2c a1 a2).cirrus = s.cirrus := rfl
@[simp] theorem State.setI2c_te (s : State) (a1 : ℕ) (a2 : I2cSt) : (s.setI2c a1 a2).te = s.te := rfl
@[simp] theorem State.setI2c_trust (s : State) (a1 : ℕ) (a2 : I2cSt) : (s.setI2c a1 a2).trust = s.trust := rfl
@[simp] theorem State.setI2c_zen (s : State) (a1 : ℕ) (a2 : I2cSt) : (s.setI2c a1 a2).zen = s.zen := rfl
@[simp] theorem State.setI2c_rd (s : State) (a1 : ℕ) (a2 : I2cSt) (n : RName) (i j : Nat) : (s.setI2c a1 a2).rd n i j = s.rd n i j := rfl
@[simp] theorem State.setI2c_rdw (s : State) (a1 : ℕ) (a2 : I2cSt) (n : RName) (i j : Nat) : (s.setI2c a1 a2).rdw n i j = s.rdw n i j := rfl
@[simp] theorem State.setI2c_fget (s : State) (a1 : ℕ) (a2 : I2cSt) (f : Fld) (i j : Nat) : (s.setI2c a1 a2).fget f i j = s.fget f i j := rfl
@[simp] theorem State.setI2c_flag (s : State) (a1 : ℕ) (a2 : I2cSt) (f : Fld) (i j : Nat) : (s.setI2c a1 a2).flag f i j = s.flag f i j := rfl

@[simp] theorem State.setPipe_pending (s : State) (a1 : ℕ) (a2 : PipeTile) : (s.setPipe a1 a2).pending = s.pending := rfl
@[simp] theorem State.setPipe_free (s : State) (a1 : ℕ) (a2 : PipeTile) : (s.setPipe a1 a2).free = s.free := rfl
@[simp] theorem State.setPipe_r32 (s : State) (a1 : ℕ) (a2 : PipeTile) : (s.setPipe a1 a2).r32 = s.r32 := rfl
@[simp] theorem State.setPipe_r64 (s : State) (a1 : ℕ) (a2 : PipeTile) : (s.setPipe a1 a2).r64 = s.r64 := rfl
@[simp] theorem State.setPipe_host (s : State) (a1 : ℕ) (a2 : PipeTile) : (s.setPipe a1 a2).host = s.host := rfl
@[simp] theorem State.setPipe_dma (s : State) (a1 : ℕ) (a2 : PipeTile) : (s.setPipe a1 a2).dma = s.dma := rfl
@[simp] theorem State.setPipe_time (s : State) (a1 : ℕ) (a2 : PipeTile) : (s.setPipe a1 a2).time = s.time := rfl
@[simp] theorem State.setPipe_link (s : State) (a1 : ℕ) (a2 : PipeTile) : (s.setPipe a1 a2).link = s.link := rfl
@[simp] theorem State.setPipe_power (s : State) (a1 : ℕ) (a2 : PipeTile) : (s.setPipe a1 a2).power = s.power := rfl
@[simp] theorem State.setPipe_boot (s : State) (a1 : ℕ) (a2 : PipeTile) : (s.setPipe a1 a2).boot = s.boot := rfl
@[simp] theorem State.setPipe_squall (s : State) (a1 : ℕ) (a2 : PipeTile) : (s.setPipe a1 a2).squall = s.squall := rfl
@[simp] theorem State.setPipe_tm (s : State) (a1 : ℕ) (a2 : PipeTile) : (s.setPipe a1 a2).tm = s.tm := rfl
@[simp] theorem State.setPipe_halo (s : State) (a1 : ℕ) (a2 : PipeTile) : (s.setPipe a1 a2).halo = s.halo := rfl
@[simp] theorem State.setPipe_te (s : State) (a1 : ℕ) (a2 : PipeTile) : (s.setPipe a1 a2).te = s.te := rfl
@[simp] theorem State.setPipe_trust (s : State) (a1 : ℕ) (a2 : PipeTile) : (s.setPipe a1 a2).trust = s.trust := rfl
@[simp] theorem State.setPipe_zen (s : State) (a1 : ℕ) (a2 : PipeTile) : (s.setPipe a1 a2).zen = s.zen := rfl
@[simp] theorem State.setPipe_rd (s : State) (a1 : ℕ) (a2 : PipeTile) (n : RName) (i j : Nat) : (s.setPipe a1 a2).rd n i j = s.rd n i j := rfl
@[simp] theorem State.setPipe_rdw (s : State) (a1 : ℕ) (a2 : PipeTile) (n : RName) (i j : Nat) : (s.setPipe a1 a2).rdw n i j = s.rdw n i j := rfl
@[simp] theorem State.setPipe_fget (s : State) (a1 : ℕ) (a2 : PipeTile) (f : Fld) (i j : Nat) : (s.setPipe a1 a2).fget f i j = s.fget f i j := rfl
@[simp] theorem State.setPipe_flag (s : State) (a1 : ℕ) (a2 : PipeTile) (f : Fld) (i j : Nat) : (s.setPipe a1 a2).flag f i j = s.flag f i j := rfl

@[simp] theorem State.setPkt_pending (s : State) (a1 : ℕ) (a2 : ℕ) (a3 : Option Pkt) : (s.setPkt a1 a2 a3).pending = s.pending := rfl
@[simp] theorem State.setPkt_free (s : State) (a1 : ℕ) (a2 : ℕ) (a3 : Option Pkt) : (s.setPkt a1 a2 a3).free = s.free := rfl
@[simp] theorem State.setPkt_r32 (s : State) (a1 : ℕ) (a2 : ℕ) (a3 : Option Pkt) : (s.setPkt a1 a2 a3).r32 = s.r32 := rfl
@[simp] theorem State.setPkt_r64 (s : State) (a1 : ℕ) (a2 : ℕ) (a3 : Option Pkt) : (s.setPkt a1 a2 a3).r64 = s.r64 := rfl
@[simp] theorem State.setPkt_host (s : State) (a1 : ℕ) (a2 : ℕ) (a3 : Option Pkt) : (s.setPkt a1 a2 a3).host = s.host := rfl
@[simp] theorem State.setPkt_dma (s : State) (a1 : ℕ) (a2 : ℕ) (a3 : Option Pkt) : (s.setPkt a1 a2 a3).dma = s.dma := rfl
@[simp] theorem State.setPkt_time (s : State) (a1 : ℕ) (a2 : ℕ) (a3 : Option Pkt) : (s.setPkt a1 a2 a3).time = s.time := rfl
@[simp] theorem State.setPkt_link (s : State) (a1 : ℕ) (a2 : ℕ) (a3 : Option Pkt) : (s.setPkt a1 a2 a3).link = s.link := rfl
@[simp] theorem State.setPkt_power (s : State) (a1 : ℕ) (a2 : ℕ) (a3 : Option Pkt) : (s.setPkt a1 a2 a3).power = s.power := rfl
@[simp] theorem State.setPkt_boot (s : State) (a1 : ℕ) (a2 : ℕ) (a3 : Option Pkt) : (s.setPkt a1 a2 a3).boot = s.boot := rfl
@[simp] theorem State.setPkt_squall (s : State) (a1 : ℕ) (a2 : ℕ) (a3 : Option Pkt) : (s.setPkt a1 a2 a3).squall = s.squall := rfl
@[simp] theorem State.setPkt_tm (s : State) (a1 : ℕ) (a2 : ℕ) (a3 : Option Pkt) : (s.setPkt a1 a2 a3).tm = s.tm := rfl
@[simp] theorem State.setPkt_halo (s : State) (a1 : ℕ) (a2 : ℕ) (a3 : Option Pkt) : (s.setPkt a1 a2 a3).halo = s.halo := rfl
@[simp] theorem State.setPkt_te (s : State) (a1 : ℕ) (a2 : ℕ) (a3 : Option Pkt) : (s.setPkt a1 a2 a3).te = s.te := rfl
@[simp] theorem State.setPkt_trust (s : State) (a1 : ℕ) (a2 : ℕ) (a3 : Option Pkt) : (s.setPkt a1 a2 a3).trust = s.trust := rfl
@[simp] theorem State.setPkt_zen (s : State) (a1 : ℕ) (a2 : ℕ) (a3 : Option Pkt) : (s.setPkt a1 a2 a3).zen = s.zen := rfl
@[simp] theorem State.setPkt_rd (s : State) (a1 : ℕ) (a2 : ℕ) (a3 : Option Pkt) (n : RName) (i j : Nat) : (s.setPkt a1 a2 a3).rd n i j = s.rd n i j := rfl
@[simp] theorem State.setPkt_rdw (s : State) (a1 : ℕ) (a2 : ℕ) (a3 : Option Pkt) (n : RName) (i j : Nat) : (s.setPkt a1 a2 a3).rdw n i j = s.rdw n i j := rfl
@[simp] theorem State.setPkt_fget (s : State) (a1 : ℕ) (a2 : ℕ) (a3 : Option Pkt) (f : Fld) (i j : Nat) : (s.setPkt a1 a2 a3).fget f i j = s.fget f i j := rfl
@[simp] theorem State.setPkt_flag (s : State) (a1 : ℕ) (a2 : ℕ) (a3 : Option Pkt) (f : Fld) (i j : Nat) : (s.setPkt a1 a2 a3).flag f i j = s.flag f i j := rfl

@[simp] theorem State.setThread_pending (s : State) (a1 : ℕ) (a2 : ℕ) (a3 : Pkt) (a4 : Thread) : (s.setThread a1 a2 a3 a4).pending = s.pending := rfl
@[simp] theorem State.setThread_free (s : State) (a1 : ℕ) (a2 : ℕ) (a3 : Pkt) (a4 : Thread) : (s.setThread a1 a2 a3 a4).free = s.free := rfl
@[simp] theorem State.setThread_r32 (s : State) (a1 : ℕ) (a2 : ℕ) (a3 : Pkt) (a4 : Thread) : (s.setThread a1 a2 a3 a4).r32 = s.r32 := rfl
@[simp] theorem State.setThread_r64 (s : State) (a1 : ℕ) (a2 : ℕ) (a3 : Pkt) (a4 : Thread) : (s.setThread a1 a2 a3 a4).r64 = s.r64 := rfl
@[simp] theorem State.setThread_host (s : State) (a1 : ℕ) (a2 : ℕ) (a3 : Pkt) (a4 : Thread) : (s.setThread a1 a2 a3 a4).host = s.host := rfl
@[simp] theorem State.setThread_dma (s : State) (a1 : ℕ) (a2 : ℕ) (a3 : Pkt) (a4 : Thread) : (s.setThread a1 a2 a3 a4).dma = s.dma := rfl
@[simp] theorem State.setThread_time (s : State) (a1 : ℕ) (a2 : ℕ) (a3 : Pkt) (a4 : Thread) : (s.setThread a1 a2 a3 a4).time = s.time := rfl
@[simp] theorem State.setThread_link (s : State) (a1 : ℕ) (a2 : ℕ) (a3 : Pkt) (a4 : Thread) : (s.setThread a1 a2 a3 a4).link = s.link := rfl
@[simp] theorem State.setThread_power (s : State) (a1 : ℕ) (a2 : ℕ) (a3 : Pkt) (a4 : Thread) : (s.setThread a1 a2 a3 a4).power = s.power := rfl
@[simp] theorem State.setThread_boot (s : State) (a1 : ℕ) (a2 : ℕ) (a3 : Pkt) (a4 : Thread) : (s.setThread a1 a2 a3 a4).boot = s.boot := rfl
@[simp] theorem State.setThread_squall (s : State) (a1 : ℕ) (a2 : ℕ) (a3 : Pkt) (a4 : Thread) : (s.setThread a1 a2 a3 a4).squall = s.squall := rfl
@[simp] theorem State.setThread_tm (s : State) (a1 : ℕ) (a2 : ℕ) (a3 : Pkt) (a4 : Thread) : (s.setThread a1 a2 a3 a4).tm = s.tm := rfl
@[simp] theorem State.setThread_halo (s : State) (a1 : ℕ) (a2 : ℕ) (a3 : Pkt) (a4 : Thread) : (s.setThread a1 a2 a3 a4).halo = s.halo := rfl
@[simp] theorem State.setThread_te (s : State) (a1 : ℕ) (a2 : ℕ) (a3 : Pkt) (a4 : Thread) : (s.setThread a1 a2 a3 a4).te = s.te := rfl
@[simp] theorem State.setThread_trust (s : State) (a1 : ℕ) (a2 : ℕ) (a3 : Pkt) (a4 : Thread) : (s.setThread a1 a2 a3 a4).trust = s.trust := rfl
@[simp] theorem State.setThread_zen (s : State) (a1 : ℕ) (a2 : ℕ) (a3 : Pkt) (a4 : Thread) : (s.setThread a1 a2 a3 a4).zen = s.zen := rfl
@[simp] theorem State.setThread_rd (s : State) (a1 : ℕ) (a2 : ℕ) (a3 : Pkt) (a4 : Thread) (n : RName) (i j : Nat) : (s.setThread a1 a2 a3 a4).rd n i j = s.rd n i j := rfl
@[simp] theorem State.setThread_rdw (s : State) (a1 : ℕ) (a2 : ℕ) (a3 : Pkt) (a4 : Thread) (n : RName) (i j : Nat) : (s.setThread a1 a2 a3 a4).rdw n i j = s.rdw n i j := rfl
@[simp] theorem State.setThread_fget (s : State) (a1 : ℕ) (a2 : ℕ) (a3 : Pkt) (a4 : Thread) (f : Fld) (i j : Nat) : (s.setThread a1 a2 a3 a4).fget f i j = s.fget f i j := rfl
@[simp] theorem State.setThread_flag (s : State) (a1 : ℕ) (a2 : ℕ) (a3 : Pkt) (a4 : Thread) (f : Fld) (i j : Nat) : (s.setThread a1 a2 a3 a4).flag f i j = s.flag f i j := rfl

@[simp] theorem State.setPolicer_pending (s : State) (a1 : ℕ) (a2 : ℕ) (a3 : Policer) : (s.setPolicer a1 a2 a3).pending = s.pending := rfl
@[simp] theorem State.setPolicer_free (s : State) (a1 : ℕ) (a2 : ℕ) (a3 : Policer) : (s.setPolicer a1 a2 a3).free = s.free := rfl
@[simp] theorem State.setPolicer_r32 (s : State) (a1 : ℕ) (a2 : ℕ) (a3 : Policer) : (s.setPolicer a1 a2 a3).r32 = s.r32 := rfl
@[simp] theorem State.setPolicer_r64 (s : State) (a1 : ℕ) (a2 : ℕ) (a3 : Policer) : (s.setPolicer a1 a2 a3).r64 = s.r64 := rfl
@[simp] theorem State.setPolicer_host (s : State) (a1 : ℕ) (a2 : ℕ) (a3 : Policer) : (s.setPolicer a1 a2 a3).host = s.host := rfl
@[simp] theorem State.setPolicer_dma (s : State) (a1 : ℕ) (a2 : ℕ) (a3 : Policer) : (s.setPolicer a1 a2 a3).dma = s.dma := rfl
@[simp] theorem State.setPolicer_time (s : State) (a1 : ℕ) (a2 : ℕ) (a3 : Policer) : (s.setPolicer a1 a2 a3).time = s.time := rfl
@[simp] theorem State.setPolicer_link (s : State) (a1 : ℕ) (a2 : ℕ) (a3 : Policer) : (s.setPolicer a1 a2 a3).link = s.link := rfl
@[simp] theorem State.setPolicer_power (s : State) (a1 : ℕ) (a2 : ℕ) (a3 : Policer) : (s.setPolicer a1 a2 a3).power = s.power := rfl
@[simp] theorem State.setPolicer_boot (s : State) (a1 : ℕ) (a2 : ℕ) (a3 : Policer) : (s.setPolicer a1 a2 a3).boot = s.boot := rfl
@[simp] theorem State.setPolicer_squall (s : State) (a1 : ℕ) (a2 : ℕ) (a3 : Policer) : (s.setPolicer a1 a2 a3).squall = s.squall := rfl
@[simp] theorem State.setPolicer_tm (s : State) (a1 : ℕ) (a2 : ℕ) (a3 : Policer) : (s.setPolicer a1 a2 a3).tm = s.tm := rfl
@[simp] theorem State.setPolicer_halo (s : State) (a1 : ℕ) (a2 : ℕ) (a3 : Policer) : (s.setPolicer a1 a2 a3).halo = s.halo := rfl
@[simp] theorem State.setPolicer_te (s : State) (a1 : ℕ) (a2 : ℕ) (a3 : Policer) : (s.setPolicer a1 a2 a3).te = s.te := rfl
@[simp] theorem State.setPolicer_trust (s : State) (a1 : ℕ) (a2 : ℕ) (a3 : Policer) : (s.setPolicer a1 a2 a3).trust = s.trust := rfl
@[simp] theorem State.setPolicer_zen (s : State) (a1 : ℕ) (a2 : ℕ) (a3 : Policer) : (s.setPolicer a1 a2 a3).zen = s.zen := rfl
@[simp] theorem State.setPolicer_rd (s : State) (a1 : ℕ) (a2 : ℕ) (a3 : Policer) (n : RName) (i j : Nat) : (s.setPolicer a1 a2 a3).rd n i j = s.rd n i j := rfl
@[simp] theorem State.setPolicer_rdw (s : State) (a1 : ℕ) (a2 : ℕ) (a3 : Policer) (n : RName) (i j : Nat) : (s.setPolicer a1 a2 a3).rdw n i j = s.rdw n i j := rfl
@[simp] theorem State.setPolicer_fget (s : State) (a1 : ℕ) (a2 : ℕ) (a3 : Policer) (f : Fld) (i j : Nat) : (s.setPolicer a1 a2 a3).fget f i j = s.fget f i j := rfl
@[simp] theorem State.setPolicer_flag (s : State) (a1 : ℕ) (a2 : ℕ) (a3 : Policer) (f : Fld) (i j : Nat) : (s.setPolicer a1 a2 a3).flag f i j = s.flag f i j := rfl

@[simp] theorem State.setZen_pending (s : State) (a1 : ZenSt) : (s.setZen a1).pending = s.pending := rfl
@[simp] theorem State.setZen_free (s : State) (a1 : ZenSt) : (s.setZen a1).free = s.free := rfl
@[simp] theorem State.setZen_r32 (s : State) (a1 : ZenSt) : (s.setZen a1).r32 = s.r32 := rfl
@[simp] theorem State.setZen_r64 (s : State) (a1 : ZenSt) : (s.setZen a1).r64 = s.r64 := rfl
@[simp] theorem State.setZen_host (s : State) (a1 : ZenSt) : (s.setZen a1).host = s.host := rfl
@[simp] theorem State.setZen_dma (s : State) (a1 : ZenSt) : (s.setZen a1).dma = s.dma := rfl
@[simp] theorem State.setZen_time (s : State) (a1 : ZenSt) : (s.setZen a1).time = s.time := rfl
@[simp] theorem State.setZen_link (s : State) (a1 : ZenSt) : (s.setZen a1).link = s.link := rfl
@[simp] theorem State.setZen_power (s : State) (a1 : ZenSt) : (s.setZen a1).power = s.power := rfl
@[simp] theorem State.setZen_boot (s : State) (a1 : ZenSt) : (s.setZen a1).boot = s.boot := rfl
@[simp] theorem State.setZen_squall (s : State) (a1 : ZenSt) : (s.setZen a1).squall = s.squall := rfl
@[simp] theorem State.setZen_tm (s : State) (a1 : ZenSt) : (s.setZen a1).tm = s.tm := rfl
@[simp] theorem State.setZen_halo (s : State) (a1 : ZenSt) : (s.setZen a1).halo = s.halo := rfl
@[simp] theorem State.setZen_cirrus (s : State) (a1 : ZenSt) : (s.setZen a1).cirrus = s.cirrus := rfl
@[simp] theorem State.setZen_te (s : State) (a1 : ZenSt) : (s.setZen a1).te = s.te := rfl
@[simp] theorem State.setZen_trust (s : State) (a1 : ZenSt) : (s.setZen a1).trust = s.trust := rfl
@[simp] theorem State.setZen_rd (s : State) (a1 : ZenSt) (n : RName) (i j : Nat) : (s.setZen a1).rd n i j = s.rd n i j := rfl
@[simp] theorem State.setZen_rdw (s : State) (a1 : ZenSt) (n : RName) (i j : Nat) : (s.setZen a1).rdw n i j = s.rdw n i j := rfl
@[simp] theorem State.setZen_fget (s : State) (a1 : ZenSt) (f : Fld) (i j : Nat) : (s.setZen a1).fget f i j = s.fget f i j := rfl
@[simp] theorem State.setZen_flag (s : State) (a1 : ZenSt) (f : Fld) (i j : Nat) : (s.setZen a1).flag f i j = s.flag f i j := rfl

@[simp] theorem State.emSet_pending (s : State) (a1 : ℕ) (a2 : Option EmEntry) : (s.emSet a1 a2).pending = s.pending := rfl
@[simp] theorem State.emSet_free (s : State) (a1 : ℕ) (a2 : Option EmEntry) : (s.emSet a1 a2).free = s.free := rfl
@[simp] theorem State.emSet_r32 (s : State) (a1 : ℕ) (a2 : Option EmEntry) : (s.emSet a1 a2).r32 = s.r32 := rfl
@[simp] theorem State.emSet_r64 (s : State) (a1 : ℕ) (a2 : Option EmEntry) : (s.emSet a1 a2).r64 = s.r64 := rfl
@[simp] theorem State.emSet_host (s : State) (a1 : ℕ) (a2 : Option EmEntry) : (s.emSet a1 a2).host = s.host := rfl
@[simp] theorem State.emSet_dma (s : State) (a1 : ℕ) (a2 : Option EmEntry) : (s.emSet a1 a2).dma = s.dma := rfl
@[simp] theorem State.emSet_time (s : State) (a1 : ℕ) (a2 : Option EmEntry) : (s.emSet a1 a2).time = s.time := rfl
@[simp] theorem State.emSet_link (s : State) (a1 : ℕ) (a2 : Option EmEntry) : (s.emSet a1 a2).link = s.link := rfl
@[simp] theorem State.emSet_power (s : State) (a1 : ℕ) (a2 : Option EmEntry) : (s.emSet a1 a2).power = s.power := rfl
@[simp] theorem State.emSet_boot (s : State) (a1 : ℕ) (a2 : Option EmEntry) : (s.emSet a1 a2).boot = s.boot := rfl
@[simp] theorem State.emSet_squall (s : State) (a1 : ℕ) (a2 : Option EmEntry) : (s.emSet a1 a2).squall = s.squall := rfl
@[simp] theorem State.emSet_tm (s : State) (a1 : ℕ) (a2 : Option EmEntry) : (s.emSet a1 a2).tm = s.tm := rfl
@[simp] theorem State.emSet_halo (s : State) (a1 : ℕ) (a2 : Option EmEntry) : (s.emSet a1 a2).halo = s.halo := rfl
@[simp] theorem State.emSet_cirrus (s : State) (a1 : ℕ) (a2 : Option EmEntry) : (s.emSet a1 a2).cirrus = s.cirrus := rfl
@[simp] theorem State.emSet_trust (s : State) (a1 : ℕ) (a2 : Option EmEntry) : (s.emSet a1 a2).trust = s.trust := rfl
@[simp] theorem State.emSet_zen (s : State) (a1 : ℕ) (a2 : Option EmEntry) : (s.emSet a1 a2).zen = s.zen := rfl
@[simp] theorem State.emSet_rd (s : State) (a1 : ℕ) (a2 : Option EmEntry) (n : RName) (i j : Nat) : (s.emSet a1 a2).rd n i j = s.rd n i j := rfl
@[simp] theorem State.emSet_rdw (s : State) (a1 : ℕ) (a2 : Option EmEntry) (n : RName) (i j : Nat) : (s.emSet a1 a2).rdw n i j = s.rdw n i j := rfl
@[simp] theorem State.emSet_fget (s : State) (a1 : ℕ) (a2 : Option EmEntry) (f : Fld) (i j : Nat) : (s.emSet a1 a2).fget f i j = s.fget f i j := rfl
@[simp] theorem State.emSet_flag (s : State) (a1 : ℕ) (a2 : Option EmEntry) (f : Fld) (i j : Nat) : (s.emSet a1 a2).flag f i j = s.flag f i j := rfl

@[simp] theorem State.mend_pending (s : State) (a1 : ℕ) (a2 : ℕ) : (s.mend a1 a2).pending = s.pending := rfl
@[simp] theorem State.mend_free (s : State) (a1 : ℕ) (a2 : ℕ) : (s.mend a1 a2).free = s.free := rfl
@[simp] theorem State.mend_r32 (s : State) (a1 : ℕ) (a2 : ℕ) : (s.mend a1 a2).r32 = s.r32 := rfl
@[simp] theorem State.mend_r64 (s : State) (a1 : ℕ) (a2 : ℕ) : (s.mend a1 a2).r64 = s.r64 := rfl
@[simp] theorem State.mend_host (s : State) (a1 : ℕ) (a2 : ℕ) : (s.mend a1 a2).host = s.host := rfl
@[simp] theorem State.mend_dma (s : State) (a1 : ℕ) (a2 : ℕ) : (s.mend a1 a2).dma = s.dma := rfl
@[simp] theorem State.mend_time (s : State) (a1 : ℕ) (a2 : ℕ) : (s.mend a1 a2).time = s.time := rfl
@[simp] theorem State.mend_link (s : State) (a1 : ℕ) (a2 : ℕ) : (s.mend a1 a2).link = s.link := rfl
@[simp] theorem State.mend_power (s : State) (a1 : ℕ) (a2 : ℕ) : (s.mend a1 a2).power = s.power := rfl
@[simp] theorem State.mend_boot (s : State) (a1 : ℕ) (a2 : ℕ) : (s.mend a1 a2).boot = s.boot := rfl
@[simp] theorem State.mend_squall (s : State) (a1 : ℕ) (a2 : ℕ) : (s.mend a1 a2).squall = s.squall := rfl
@[simp] theorem State.mend_tm (s : State) (a1 : ℕ) (a2 : ℕ) : (s.mend a1 a2).tm = s.tm := rfl
@[simp] theorem State.mend_halo (s : State) (a1 : ℕ) (a2 : ℕ) : (s.mend a1 a2).halo = s.halo := rfl
@[simp] theorem State.mend_cirrus (s : State) (a1 : ℕ) (a2 : ℕ) : (s.mend a1 a2).cirrus = s.cirrus := rfl
@[simp] theorem State.mend_trust (s : State) (a1 : ℕ) (a2 : ℕ) : (s.mend a1 a2).trust = s.trust := rfl
@[simp] theorem State.mend_zen (s : State) (a1 : ℕ) (a2 : ℕ) : (s.mend a1 a2).zen = s.zen := rfl
@[simp] theorem State.mend_rd (s : State) (a1 : ℕ) (a2 : ℕ) (n : RName) (i j : Nat) : (s.mend a1 a2).rd n i j = s.rd n i j := rfl
@[simp] theorem State.mend_rdw (s : State) (a1 : ℕ) (a2 : ℕ) (n : RName) (i j : Nat) : (s.mend a1 a2).rdw n i j = s.rdw n i j := rfl
@[simp] theorem State.mend_fget (s : State) (a1 : ℕ) (a2 : ℕ) (f : Fld) (i j : Nat) : (s.mend a1 a2).fget f i j = s.fget f i j := rfl
@[simp] theorem State.mend_flag (s : State) (a1 : ℕ) (a2 : ℕ) (f : Fld) (i j : Nat) : (s.mend a1 a2).flag f i j = s.flag f i j := rfl

@[simp] theorem State.aclSet_pending (s : State) (a1 : ℕ) (a2 : Option AclEntry) : (s.aclSet a1 a2).pending = s.pending := rfl
@[simp] theorem State.aclSet_free (s : State) (a1 : ℕ) (a2 : Option AclEntry) : (s.aclSet a1 a2).free = s.free := rfl
@[simp] theorem State.aclSet_r32 (s : State) (a1 : ℕ) (a2 : Option AclEntry) : (s.aclSet a1 a2).r32 = s.r32 := rfl
@[simp] theorem State.aclSet_r64 (s : State) (a1 : ℕ) (a2 : Option AclEntry) : (s.aclSet a1 a2).r64 = s.r64 := rfl
@[simp] theorem State.aclSet_host (s : State) (a1 : ℕ) (a2 : Option AclEntry) : (s.aclSet a1 a2).host = s.host := rfl
@[simp] theorem State.aclSet_dma (s : State) (a1 : ℕ) (a2 : Option AclEntry) : (s.aclSet a1 a2).dma = s.dma := rfl
@[simp] theorem State.aclSet_time (s : State) (a1 : ℕ) (a2 : Option AclEntry) : (s.aclSet a1 a2).time = s.time := rfl
@[simp] theorem State.aclSet_link (s : State) (a1 : ℕ) (a2 : Option AclEntry) : (s.aclSet a1 a2).link = s.link := rfl
@[simp] theorem State.aclSet_power (s : State) (a1 : ℕ) (a2 : Option AclEntry) : (s.aclSet a1 a2).power = s.power := rfl
@[simp] theorem State.aclSet_boot (s : State) (a1 : ℕ) (a2 : Option AclEntry) : (s.aclSet a1 a2).boot = s.boot := rfl
@[simp] theorem State.aclSet_squall (s : State) (a1 : ℕ) (a2 : Option AclEntry) : (s.aclSet a1 a2).squall = s.squall := rfl
@[simp] theorem State.aclSet_tm (s : State) (a1 : ℕ) (a2 : Option AclEntry) : (s.aclSet a1 a2).tm = s.tm := rfl
@[simp] theorem State.aclSet_halo (s : State) (a1 : ℕ) (a2 : Option AclEntry) : (s.aclSet a1 a2).halo = s.halo := rfl
@[simp] theorem State.aclSet_cirrus (s : State) (a1 : ℕ) (a2 : Option AclEntry) : (s.aclSet a1 a2).cirrus = s.cirrus := rfl
@[simp] theorem State.aclSet_trust (s : State) (a1 : ℕ) (a2 : Option AclEntry) : (s.aclSet a1 a2).trust = s.trust := rfl
@[simp] theorem State.aclSet_zen (s : State) (a1 : ℕ) (a2 : Option AclEntry) : (s.aclSet a1 a2).zen = s.zen := rfl
@[simp] theorem State.aclSet_rd (s : State) (a1 : ℕ) (a2 : Option AclEntry) (n : RName) (i j : Nat) : (s.aclSet a1 a2).rd n i j = s.rd n i j := rfl
@[simp] theorem State.aclSet_rdw (s : State) (a1 : ℕ) (a2 : Option AclEntry) (n : RName) (i j : Nat) : (s.aclSet a1 a2).rdw n i j = s.rdw n i j := rfl
@[simp] theorem State.aclSet_fget (s : State) (a1 : ℕ) (a2 : Option AclEntry) (f : Fld) (i j : Nat) : (s.aclSet a1 a2).fget f i j = s.fget f i j := rfl
@[simp] theorem State.aclSet_flag (s : State) (a1 : ℕ) (a2 : Option AclEntry) (f : Fld) (i j : Nat) : (s.aclSet a1 a2).flag f i j = s.flag f i j := rfl

@[simp] theorem State.slotTaken_pending (s : State) (a1 : TeSlot) : (s.slotTaken a1).pending = s.pending := rfl
@[simp] theorem State.slotTaken_free (s : State) (a1 : TeSlot) : (s.slotTaken a1).free = s.free := rfl
@[simp] theorem State.slotTaken_r32 (s : State) (a1 : TeSlot) : (s.slotTaken a1).r32 = s.r32 := rfl
@[simp] theorem State.slotTaken_r64 (s : State) (a1 : TeSlot) : (s.slotTaken a1).r64 = s.r64 := rfl
@[simp] theorem State.slotTaken_host (s : State) (a1 : TeSlot) : (s.slotTaken a1).host = s.host := rfl
@[simp] theorem State.slotTaken_dma (s : State) (a1 : TeSlot) : (s.slotTaken a1).dma = s.dma := rfl
@[simp] theorem State.slotTaken_time (s : State) (a1 : TeSlot) : (s.slotTaken a1).time = s.time := rfl
@[simp] theorem State.slotTaken_link (s : State) (a1 : TeSlot) : (s.slotTaken a1).link = s.link := rfl
@[simp] theorem State.slotTaken_power (s : State) (a1 : TeSlot) : (s.slotTaken a1).power = s.power := rfl
@[simp] theorem State.slotTaken_boot (s : State) (a1 : TeSlot) : (s.slotTaken a1).boot = s.boot := rfl
@[simp] theorem State.slotTaken_squall (s : State) (a1 : TeSlot) : (s.slotTaken a1).squall = s.squall := rfl
@[simp] theorem State.slotTaken_tm (s : State) (a1 : TeSlot) : (s.slotTaken a1).tm = s.tm := rfl
@[simp] theorem State.slotTaken_halo (s : State) (a1 : TeSlot) : (s.slotTaken a1).halo = s.halo := rfl
@[simp] theorem State.slotTaken_cirrus (s : State) (a1 : TeSlot) : (s.slotTaken a1).cirrus = s.cirrus := rfl
@[simp] theorem State.slotTaken_trust (s : State) (a1 : TeSlot) : (s.slotTaken a1).trust = s.trust := rfl
@[simp] theorem State.slotTaken_zen (s : State) (a1 : TeSlot) : (s.slotTaken a1).zen = s.zen := rfl
@[simp] theorem State.slotTaken_rd (s : State) (a1 : TeSlot) (n : RName) (i j : Nat) : (s.slotTaken a1).rd n i j = s.rd n i j := rfl
@[simp] theorem State.slotTaken_rdw (s : State) (a1 : TeSlot) (n : RName) (i j : Nat) : (s.slotTaken a1).rdw n i j = s.rdw n i j := rfl
@[simp] theorem State.slotTaken_fget (s : State) (a1 : TeSlot) (f : Fld) (i j : Nat) : (s.slotTaken a1).fget f i j = s.fget f i j := rfl
@[simp] theorem State.slotTaken_flag (s : State) (a1 : TeSlot) (f : Fld) (i j : Nat) : (s.slotTaken a1).flag f i j = s.flag f i j := rfl

@[simp] theorem State.setGroup_pending (s : State) (a1 : ℕ) (a2 : AnvGroup) : (s.setGroup a1 a2).pending = s.pending := rfl
@[simp] theorem State.setGroup_free (s : State) (a1 : ℕ) (a2 : AnvGroup) : (s.setGroup a1 a2).free = s.free := rfl
@[simp] theorem State.setGroup_r32 (s : State) (a1 : ℕ) (a2 : AnvGroup) : (s.setGroup a1 a2).r32 = s.r32 := rfl
@[simp] theorem State.setGroup_r64 (s : State) (a1 : ℕ) (a2 : AnvGroup) : (s.setGroup a1 a2).r64 = s.r64 := rfl
@[simp] theorem State.setGroup_host (s : State) (a1 : ℕ) (a2 : AnvGroup) : (s.setGroup a1 a2).host = s.host := rfl
@[simp] theorem State.setGroup_dma (s : State) (a1 : ℕ) (a2 : AnvGroup) : (s.setGroup a1 a2).dma = s.dma := rfl
@[simp] theorem State.setGroup_time (s : State) (a1 : ℕ) (a2 : AnvGroup) : (s.setGroup a1 a2).time = s.time := rfl
@[simp] theorem State.setGroup_link (s : State) (a1 : ℕ) (a2 : AnvGroup) : (s.setGroup a1 a2).link = s.link := rfl
@[simp] theorem State.setGroup_power (s : State) (a1 : ℕ) (a2 : AnvGroup) : (s.setGroup a1 a2).power = s.power := rfl
@[simp] theorem State.setGroup_boot (s : State) (a1 : ℕ) (a2 : AnvGroup) : (s.setGroup a1 a2).boot = s.boot := rfl
@[simp] theorem State.setGroup_squall (s : State) (a1 : ℕ) (a2 : AnvGroup) : (s.setGroup a1 a2).squall = s.squall := rfl
@[simp] theorem State.setGroup_halo (s : State) (a1 : ℕ) (a2 : AnvGroup) : (s.setGroup a1 a2).halo = s.halo := rfl
@[simp] theorem State.setGroup_cirrus (s : State) (a1 : ℕ) (a2 : AnvGroup) : (s.setGroup a1 a2).cirrus = s.cirrus := rfl
@[simp] theorem State.setGroup_te (s : State) (a1 : ℕ) (a2 : AnvGroup) : (s.setGroup a1 a2).te = s.te := rfl
@[simp] theorem State.setGroup_trust (s : State) (a1 : ℕ) (a2 : AnvGroup) : (s.setGroup a1 a2).trust = s.trust := rfl
@[simp] theorem State.setGroup_zen (s : State) (a1 : ℕ) (a2 : AnvGroup) : (s.setGroup a1 a2).zen = s.zen := rfl
@[simp] theorem State.setGroup_rd (s : State) (a1 : ℕ) (a2 : AnvGroup) (n : RName) (i j : Nat) : (s.setGroup a1 a2).rd n i j = s.rd n i j := rfl
@[simp] theorem State.setGroup_rdw (s : State) (a1 : ℕ) (a2 : AnvGroup) (n : RName) (i j : Nat) : (s.setGroup a1 a2).rdw n i j = s.rdw n i j := rfl
@[simp] theorem State.setGroup_fget (s : State) (a1 : ℕ) (a2 : AnvGroup) (f : Fld) (i j : Nat) : (s.setGroup a1 a2).fget f i j = s.fget f i j := rfl
@[simp] theorem State.setGroup_flag (s : State) (a1 : ℕ) (a2 : AnvGroup) (f : Fld) (i j : Nat) : (s.setGroup a1 a2).flag f i j = s.flag f i j := rfl

@[simp] theorem State.modPut_pending (s : State) (a1 : ℕ) (a2 : ℕ) (a3 : ℕ) (a4 : ℕ) (a5 : List Sys2Proof.Byte) : (s.modPut a1 a2 a3 a4 a5).pending = s.pending := rfl
@[simp] theorem State.modPut_free (s : State) (a1 : ℕ) (a2 : ℕ) (a3 : ℕ) (a4 : ℕ) (a5 : List Sys2Proof.Byte) : (s.modPut a1 a2 a3 a4 a5).free = s.free := rfl
@[simp] theorem State.modPut_r32 (s : State) (a1 : ℕ) (a2 : ℕ) (a3 : ℕ) (a4 : ℕ) (a5 : List Sys2Proof.Byte) : (s.modPut a1 a2 a3 a4 a5).r32 = s.r32 := rfl
@[simp] theorem State.modPut_r64 (s : State) (a1 : ℕ) (a2 : ℕ) (a3 : ℕ) (a4 : ℕ) (a5 : List Sys2Proof.Byte) : (s.modPut a1 a2 a3 a4 a5).r64 = s.r64 := rfl
@[simp] theorem State.modPut_host (s : State) (a1 : ℕ) (a2 : ℕ) (a3 : ℕ) (a4 : ℕ) (a5 : List Sys2Proof.Byte) : (s.modPut a1 a2 a3 a4 a5).host = s.host := rfl
@[simp] theorem State.modPut_dma (s : State) (a1 : ℕ) (a2 : ℕ) (a3 : ℕ) (a4 : ℕ) (a5 : List Sys2Proof.Byte) : (s.modPut a1 a2 a3 a4 a5).dma = s.dma := rfl
@[simp] theorem State.modPut_time (s : State) (a1 : ℕ) (a2 : ℕ) (a3 : ℕ) (a4 : ℕ) (a5 : List Sys2Proof.Byte) : (s.modPut a1 a2 a3 a4 a5).time = s.time := rfl
@[simp] theorem State.modPut_power (s : State) (a1 : ℕ) (a2 : ℕ) (a3 : ℕ) (a4 : ℕ) (a5 : List Sys2Proof.Byte) : (s.modPut a1 a2 a3 a4 a5).power = s.power := rfl
@[simp] theorem State.modPut_boot (s : State) (a1 : ℕ) (a2 : ℕ) (a3 : ℕ) (a4 : ℕ) (a5 : List Sys2Proof.Byte) : (s.modPut a1 a2 a3 a4 a5).boot = s.boot := rfl
@[simp] theorem State.modPut_squall (s : State) (a1 : ℕ) (a2 : ℕ) (a3 : ℕ) (a4 : ℕ) (a5 : List Sys2Proof.Byte) : (s.modPut a1 a2 a3 a4 a5).squall = s.squall := rfl
@[simp] theorem State.modPut_tm (s : State) (a1 : ℕ) (a2 : ℕ) (a3 : ℕ) (a4 : ℕ) (a5 : List Sys2Proof.Byte) : (s.modPut a1 a2 a3 a4 a5).tm = s.tm := rfl
@[simp] theorem State.modPut_halo (s : State) (a1 : ℕ) (a2 : ℕ) (a3 : ℕ) (a4 : ℕ) (a5 : List Sys2Proof.Byte) : (s.modPut a1 a2 a3 a4 a5).halo = s.halo := rfl
@[simp] theorem State.modPut_cirrus (s : State) (a1 : ℕ) (a2 : ℕ) (a3 : ℕ) (a4 : ℕ) (a5 : List Sys2Proof.Byte) : (s.modPut a1 a2 a3 a4 a5).cirrus = s.cirrus := rfl
@[simp] theorem State.modPut_te (s : State) (a1 : ℕ) (a2 : ℕ) (a3 : ℕ) (a4 : ℕ) (a5 : List Sys2Proof.Byte) : (s.modPut a1 a2 a3 a4 a5).te = s.te := rfl
@[simp] theorem State.modPut_trust (s : State) (a1 : ℕ) (a2 : ℕ) (a3 : ℕ) (a4 : ℕ) (a5 : List Sys2Proof.Byte) : (s.modPut a1 a2 a3 a4 a5).trust = s.trust := rfl
@[simp] theorem State.modPut_zen (s : State) (a1 : ℕ) (a2 : ℕ) (a3 : ℕ) (a4 : ℕ) (a5 : List Sys2Proof.Byte) : (s.modPut a1 a2 a3 a4 a5).zen = s.zen := rfl
@[simp] theorem State.modPut_rd (s : State) (a1 : ℕ) (a2 : ℕ) (a3 : ℕ) (a4 : ℕ) (a5 : List Sys2Proof.Byte) (n : RName) (i j : Nat) : (s.modPut a1 a2 a3 a4 a5).rd n i j = s.rd n i j := rfl
@[simp] theorem State.modPut_rdw (s : State) (a1 : ℕ) (a2 : ℕ) (a3 : ℕ) (a4 : ℕ) (a5 : List Sys2Proof.Byte) (n : RName) (i j : Nat) : (s.modPut a1 a2 a3 a4 a5).rdw n i j = s.rdw n i j := rfl
@[simp] theorem State.modPut_fget (s : State) (a1 : ℕ) (a2 : ℕ) (a3 : ℕ) (a4 : ℕ) (a5 : List Sys2Proof.Byte) (f : Fld) (i j : Nat) : (s.modPut a1 a2 a3 a4 a5).fget f i j = s.fget f i j := rfl
@[simp] theorem State.modPut_flag (s : State) (a1 : ℕ) (a2 : ℕ) (a3 : ℕ) (a4 : ℕ) (a5 : List Sys2Proof.Byte) (f : Fld) (i j : Nat) : (s.modPut a1 a2 a3 a4 a5).flag f i j = s.flag f i j := rfl

@[simp] theorem State.tapAdd_pending (s : State) (a1 : ℕ) (a2 : ℕ) (a3 : ℕ) (a4 : Bool) : (s.tapAdd a1 a2 a3 a4).pending = s.pending := rfl
@[simp] theorem State.tapAdd_free (s : State) (a1 : ℕ) (a2 : ℕ) (a3 : ℕ) (a4 : Bool) : (s.tapAdd a1 a2 a3 a4).free = s.free := rfl
@[simp] theorem State.tapAdd_r32 (s : State) (a1 : ℕ) (a2 : ℕ) (a3 : ℕ) (a4 : Bool) : (s.tapAdd a1 a2 a3 a4).r32 = s.r32 := rfl
@[simp] theorem State.tapAdd_r64 (s : State) (a1 : ℕ) (a2 : ℕ) (a3 : ℕ) (a4 : Bool) : (s.tapAdd a1 a2 a3 a4).r64 = s.r64 := rfl
@[simp] theorem State.tapAdd_host (s : State) (a1 : ℕ) (a2 : ℕ) (a3 : ℕ) (a4 : Bool) : (s.tapAdd a1 a2 a3 a4).host = s.host := rfl
@[simp] theorem State.tapAdd_dma (s : State) (a1 : ℕ) (a2 : ℕ) (a3 : ℕ) (a4 : Bool) : (s.tapAdd a1 a2 a3 a4).dma = s.dma := rfl
@[simp] theorem State.tapAdd_time (s : State) (a1 : ℕ) (a2 : ℕ) (a3 : ℕ) (a4 : Bool) : (s.tapAdd a1 a2 a3 a4).time = s.time := rfl
@[simp] theorem State.tapAdd_link (s : State) (a1 : ℕ) (a2 : ℕ) (a3 : ℕ) (a4 : Bool) : (s.tapAdd a1 a2 a3 a4).link = s.link := rfl
@[simp] theorem State.tapAdd_power (s : State) (a1 : ℕ) (a2 : ℕ) (a3 : ℕ) (a4 : Bool) : (s.tapAdd a1 a2 a3 a4).power = s.power := rfl
@[simp] theorem State.tapAdd_boot (s : State) (a1 : ℕ) (a2 : ℕ) (a3 : ℕ) (a4 : Bool) : (s.tapAdd a1 a2 a3 a4).boot = s.boot := rfl
@[simp] theorem State.tapAdd_squall (s : State) (a1 : ℕ) (a2 : ℕ) (a3 : ℕ) (a4 : Bool) : (s.tapAdd a1 a2 a3 a4).squall = s.squall := rfl
@[simp] theorem State.tapAdd_tm (s : State) (a1 : ℕ) (a2 : ℕ) (a3 : ℕ) (a4 : Bool) : (s.tapAdd a1 a2 a3 a4).tm = s.tm := rfl
@[simp] theorem State.tapAdd_halo (s : State) (a1 : ℕ) (a2 : ℕ) (a3 : ℕ) (a4 : Bool) : (s.tapAdd a1 a2 a3 a4).halo = s.halo := rfl
@[simp] theorem State.tapAdd_cirrus (s : State) (a1 : ℕ) (a2 : ℕ) (a3 : ℕ) (a4 : Bool) : (s.tapAdd a1 a2 a3 a4).cirrus = s.cirrus := rfl
@[simp] theorem State.tapAdd_te (s : State) (a1 : ℕ) (a2 : ℕ) (a3 : ℕ) (a4 : Bool) : (s.tapAdd a1 a2 a3 a4).te = s.te := rfl
@[simp] theorem State.tapAdd_trust (s : State) (a1 : ℕ) (a2 : ℕ) (a3 : ℕ) (a4 : Bool) : (s.tapAdd a1 a2 a3 a4).trust = s.trust := rfl
@[simp] theorem State.tapAdd_rd (s : State) (a1 : ℕ) (a2 : ℕ) (a3 : ℕ) (a4 : Bool) (n : RName) (i j : Nat) : (s.tapAdd a1 a2 a3 a4).rd n i j = s.rd n i j := rfl
@[simp] theorem State.tapAdd_rdw (s : State) (a1 : ℕ) (a2 : ℕ) (a3 : ℕ) (a4 : Bool) (n : RName) (i j : Nat) : (s.tapAdd a1 a2 a3 a4).rdw n i j = s.rdw n i j := rfl
@[simp] theorem State.tapAdd_fget (s : State) (a1 : ℕ) (a2 : ℕ) (a3 : ℕ) (a4 : Bool) (f : Fld) (i j : Nat) : (s.tapAdd a1 a2 a3 a4).fget f i j = s.fget f i j := rfl
@[simp] theorem State.tapAdd_flag (s : State) (a1 : ℕ) (a2 : ℕ) (a3 : ℕ) (a4 : Bool) (f : Fld) (i j : Nat) : (s.tapAdd a1 a2 a3 a4).flag f i j = s.flag f i j := rfl

@[simp] theorem State.badClean_pending (s : State)  : (s.badClean).pending = s.pending := rfl
@[simp] theorem State.badClean_free (s : State)  : (s.badClean).free = s.free := rfl
@[simp] theorem State.badClean_r32 (s : State)  : (s.badClean).r32 = s.r32 := rfl
@[simp] theorem State.badClean_r64 (s : State)  : (s.badClean).r64 = s.r64 := rfl
@[simp] theorem State.badClean_host (s : State)  : (s.badClean).host = s.host := rfl
@[simp] theorem State.badClean_dma (s : State)  : (s.badClean).dma = s.dma := rfl
@[simp] theorem State.badClean_time (s : State)  : (s.badClean).time = s.time := rfl
@[simp] theorem State.badClean_link (s : State)  : (s.badClean).link = s.link := rfl
@[simp] theorem State.badClean_power (s : State)  : (s.badClean).power = s.power := rfl
@[simp] theorem State.badClean_boot (s : State)  : (s.badClean).boot = s.boot := rfl
@[simp] theorem State.badClean_squall (s : State)  : (s.badClean).squall = s.squall := rfl
@[simp] theorem State.badClean_tm (s : State)  : (s.badClean).tm = s.tm := rfl
@[simp] theorem State.badClean_halo (s : State)  : (s.badClean).halo = s.halo := rfl
@[simp] theorem State.badClean_cirrus (s : State)  : (s.badClean).cirrus = s.cirrus := rfl
@[simp] theorem State.badClean_trust (s : State)  : (s.badClean).trust = s.trust := rfl
@[simp] theorem State.badClean_zen (s : State)  : (s.badClean).zen = s.zen := rfl
@[simp] theorem State.badClean_rd (s : State)  (n : RName) (i j : Nat) : (s.badClean).rd n i j = s.rd n i j := rfl
@[simp] theorem State.badClean_rdw (s : State)  (n : RName) (i j : Nat) : (s.badClean).rdw n i j = s.rdw n i j := rfl
@[simp] theorem State.badClean_fget (s : State)  (f : Fld) (i j : Nat) : (s.badClean).fget f i j = s.fget f i j := rfl
@[simp] theorem State.badClean_flag (s : State)  (f : Fld) (i j : Nat) : (s.badClean).flag f i j = s.flag f i j := rfl

@[simp] theorem State.setRing_ring (s : State) (k : Nat) (v : RingSt) : (s.setRing k v).ring k = v := tget_tset_same _ _ _ _
theorem State.setRing_ring_ne (s : State) (k k' : Nat) (v : RingSt) (h : k' ≠ k) : (s.setRing k v).ring k' = s.ring k' := tget_tset_ne _ _ _ _ h
@[simp] theorem State.setPort_port (s : State) (k : Nat) (v : PortSt) : (s.setPort k v).port k = v := tget_tset_same _ _ _ _
theorem State.setPort_port_ne (s : State) (k k' : Nat) (v : PortSt) (h : k' ≠ k) : (s.setPort k v).port k' = s.port k' := tget_tset_ne _ _ _ _ h
@[simp] theorem State.setLane_lane (s : State) (k : Nat) (v : LaneSt) : (s.setLane k v).lane k = v := tget_tset_same _ _ _ _
theorem State.setLane_lane_ne (s : State) (k k' : Nat) (v : LaneSt) (h : k' ≠ k) : (s.setLane k v).lane k' = s.lane k' := tget_tset_ne _ _ _ _ h
@[simp] theorem State.setCage_cage (s : State) (k : Nat) (v : CageSt) : (s.setCage k v).cage k = v := tget_tset_same _ _ _ _
theorem State.setCage_cage_ne (s : State) (k k' : Nat) (v : CageSt) (h : k' ≠ k) : (s.setCage k v).cage k' = s.cage k' := tget_tset_ne _ _ _ _ h
@[simp] theorem State.setNp_np (s : State) (k : Nat) (v : NPort) : (s.setNp k v).np k = v := tget_tset_same _ _ _ _
theorem State.setNp_np_ne (s : State) (k k' : Nat) (v : NPort) (h : k' ≠ k) : (s.setNp k v).np k' = s.np k' := tget_tset_ne _ _ _ _ h
@[simp] theorem State.setBuf_buf (s : State) (k : Nat) (v : BufSt) : (s.setBuf k v).buf k = v := tget_tset_same _ _ _ _
theorem State.setBuf_buf_ne (s : State) (k k' : Nat) (v : BufSt) (h : k' ≠ k) : (s.setBuf k v).buf k' = s.buf k' := tget_tset_ne _ _ _ _ h
@[simp] theorem State.setHt_ht (s : State) (k : Nat) (v : HaloTile) : (s.setHt k v).ht k = v := tget_tset_same _ _ _ _
theorem State.setHt_ht_ne (s : State) (k k' : Nat) (v : HaloTile) (h : k' ≠ k) : (s.setHt k v).ht k' = s.ht k' := tget_tset_ne _ _ _ _ h
@[simp] theorem State.setDmaCh_dmaCh (s : State) (k : Nat) (v : DmaCh) : (s.setDmaCh k v).dmaCh k = v := tget_tset_same _ _ _ _
theorem State.setDmaCh_dmaCh_ne (s : State) (k k' : Nat) (v : DmaCh) (h : k' ≠ k) : (s.setDmaCh k v).dmaCh k' = s.dmaCh k' := tget_tset_ne _ _ _ _ h
@[simp] theorem State.setPipe_pipe (s : State) (k : Nat) (v : PipeTile) : (s.setPipe k v).pipe k = v := tget_tset_same _ _ _ _
theorem State.setPipe_pipe_ne (s : State) (k k' : Nat) (v : PipeTile) (h : k' ≠ k) : (s.setPipe k v).pipe k' = s.pipe k' := tget_tset_ne _ _ _ _ h

end Sys2Proof.Machine
end

