-- ==== Sys2Proof/WellFormed.lean ====
section
/-!
DEFINITION. The checks on a command's operands that their types do not carry.
-/

namespace Sys2Proof

/-- A command is well formed: a beat carries 64 bytes and a frame's last one 1 to 64 (R14), an instruction of a DMA program and a ring
entry have 32 bytes (R381, R407), at most 32 entries are fetched at once (R388), a mailbox holds 128 bytes (R73), a port has 1 to 8 lanes
(R35), and a BAR4 offset lies in its 1 MiB (R372). -/
def Instr.wf (i : Instr) : Bool :=
  match i with
  | .beatArrival _ bytes => decide (bytes.length = 64)
  | .lastBeatArrival _ bytes _ _ => decide (0 < bytes.length) && decide (bytes.length ≤ 64)
  | .dmaMove _ ins => decide (ins.length = 32)
  | .dmaLoop _ ins => decide (ins.length = 32)
  | .dmaWait _ ins => decide (ins.length = 32)
  | .dmaSignal _ ins => decide (ins.length = 32)
  | .dmaEnd _ ins => decide (ins.length = 32)
  | .dmaIllegalOpcode _ ins => decide (ins.length = 32)
  | .descriptorFetch _ entries _ => decide (entries.length ≤ 32) && entries.all (fun e => decide (e.length = 32))
  | .mailboxDone _ _ data _ => decide (data.length ≤ 128)
  | .trainComplete _ lanes => decide (lanes.length ≤ 8)
  | .bar4Write _ off _ => decide (off < 0x100000)
  | _ => true

end Sys2Proof
end

