-- ==== Sys2Proof/Tests/Slice0.lean ====
section
/-!
SUPPORT. Tests: for each check of well-formedness a term it refuses, single commands against what the spec gives, and for the statements with
hypotheses concrete states and operands that meet them, clause by clause.
-/

set_option Elab.async false

set_option maxRecDepth 20000
set_option exponentiation.threshold 4096
namespace Sys2Proof.Machine
open Sys2Proof

/-! ### Lanes, ports and the front panel -/

/-- A port (first lane `p`) in state `st`, EN at 1, one lane, AN at `an`. -/
def portAt (p st an : Nat) : State :=
  ((State.reset.fset F.portCfg_EN 1 p).fset F.portCfg_AN an p).fset F.portStatus_STATE st p

theorem test_w_PortNegotiationAndTraining :
    (let s := portAt 3 2 1; s.fget F.portStatus_STATE 3 = 2 ∧ s.resolveMode 3 0x3F 0 = some 1 ∧ s.resolveMode 3 0 0 = none) ∧
    (let s := (portAt 3 2 1).setPort 3 { anWait := true }; s.fget F.portStatus_STATE 3 = 2 ∧ (s.port 3).anWait = true ∧ s.flag F.portCfg_AN 3 = true) ∧
    ((portAt 3 3 1).fget F.portStatus_STATE 3 = 3 ∧ (portAt 3 3 1).flag F.portCfg_AN 3 = true) ∧
    ((portAt 3 3 0).fget F.portStatus_STATE 3 = 3 ∧ (portAt 3 3 0).flag F.portCfg_AN 3 = false) ∧
    (let s := (portAt 3 3 0).setPort 3 { fromHist := true }; s.fget F.portStatus_STATE 3 = 3 ∧ (s.port 3).fromHist = true) ∧
    (let s := (portAt 3 4 0).fset F.portStatus_RATE_RES 1 3; s.fget F.portStatus_STATE 3 = 4 ∧ s.fget F.portStatus_RATE_RES 3 ≠ 0) := by decide

theorem test_w_PortNegotiation_page : ((portAt 3 2 1).port 3).anWait = false ∧
    (let s := (portAt 3 4 0).setLane 3 { tx := {}, markAt := some 0 }; s.fget F.portStatus_STATE 3 = 4 ∧
      (s.fset F.laneStatus_MARK_LOCK 1 3).aligned 3 = true) := by decide

theorem test_w_PortEnableFirstRow :
    (State.reset.flag F.portCfg_EN 511 = false ∧ (State.reset.wr .portCfg 3#32 511).cfgCause 511 = 1) ∧
    (let a := State.reset.wr .portCfg 1#32 511; a.cfgCause 511 = 5 ∨ a.cfgCause 511 = 0) := by decide

theorem test_w_PortConfigurationCauses :
    (portAt 511 5 1).flag F.portCfg_EN 511 = true ∧
    (511 % 2 ^ (State.reset.fset F.portCfg_WIDTH 3 511).fget F.portCfg_WIDTH 511 ≠ 0) ∧
    (let s := (portAt 1 2 1).fset F.portCfg_WIDTH 1 0; 0 % 2 ^ s.fget F.portCfg_WIDTH 0 = 0 ∧ s.flag F.portCfg_EN 1 = true ∧
      s.fget F.portStatus_STATE 1 ≠ 9 ∧ 0 < 1 + 2 ^ s.fget F.portCfg_WIDTH 1 ∧ 1 < 0 + 2 ^ s.fget F.portCfg_WIDTH 0) ∧
    ((portAt 4 0 0).cfgCause 4 = 0 ∧ (portAt 4 0 0).flag F.portCfg_AN 4 = false) ∧
    ((portAt 4 0 1).cfgCause 4 = 0 ∧ (portAt 4 0 1).flag F.portCfg_AN 4 = true ∧ (portAt 4 0 1).flag F.dawnStatus_HORIZON = false) := by decide

theorem test_w_LinkDownConditions :
    (portAt 7 5 1).portOfLane 7 = some (7, 1) ∧ (portAt 7 5 1).fget F.portStatus_STATE 7 = 5 ∧
    (portAt 7 5 1).flag F.portStatus_RX_EI 7 = false ∧ (portAt 7 5 1).fget F.portStatus_RATE_RES 7 = 0 ∧
    (let s := ((portAt 7 5 1).fset F.laneStatus_MARK_LOCK 1 7).setLane 7 { missed := 2 };
      s.portOfLane 7 = some (7, 1) ∧ s.flag F.laneStatus_MARK_LOCK 7 = true ∧ (s.lane 7).missed = 2) ∧
    ((portAt 7 5 1).fset F.portStatus_RATE_RES 1 7).fget F.portStatus_RATE_RES 7 ≠ 0 := by decide

theorem test_w_LinkDownConditions_edges :
    ((portAt 7 5 1).fset F.portStatus_RX_EI 1 7).flag F.portStatus_RX_EI 7 = true ∧
    (let s := ((portAt 7 5 1).fset F.laneStatus_MARK_LOCK 1 7).setLane 7 { missed := 2, serSyms := 5000 };
      s.flag F.laneStatus_MARK_LOCK 7 = true ∧ s.flag F.portStatus_RX_EI 7 = false ∧ 5560 < (s.lane 7).serSyms + 561 ∧
      s.fget F.portStatus_RATE_RES 7 = 0 ∧ (s.lane 7).serSyms + 560 ≤ 5560) := by decide

theorem test_w_MarkerLock :
    ((State.reset.setLane 511 { markAt := some 0 }).lane 511).markAt = some (16384 - 16384) ∧
    (let s := (State.reset.fset F.laneStatus_MARK_LOCK 1 511).setLane 511 { missed := 1 };
      s.flag F.laneStatus_MARK_LOCK 511 = true ∧ (s.lane 511).missed < 2) := by decide

theorem test_w_MarkerLock_port : (portAt 511 5 1).portOfLane 511 = some (511, 1) ∧ (portAt 511 5 1).flag F.portStatus_RX_EI 511 = false := by decide

theorem test_w_LowPowerStates :
    (let s := ((((portAt 2 5 1).fset F.portLps_EI_EN 1 2).wr .anLocal 0x80#32 2).wr .anPartner 0x180#32 2);
      s.fget F.portStatus_STATE 2 = 5 ∧ s.flag F.portLps_EI_EN 2 = true ∧ s.eiAllowed 2 = true ∧ s.flag F.portStatus_TX_EI 2 = false ∧
      s.portHasFrame 2 = false) ∧
    (portAt 2 5 1).flag F.portLps_EI_EN 2 = false ∧
    (let s := (portAt 2 5 1).setLane 2 { announced := true }; (s.portLanes 2).all (fun l => (s.lane l).announced) = true) ∧
    ((portAt 2 5 1).fset F.portStatus_TX_EI 1 2).flag F.portStatus_TX_EI 2 = true ∧
    ((portAt 2 5 1).fset F.portStatus_RX_EI 1 2).flag F.portStatus_RX_EI 2 = true ∧
    (let s := ((portAt 2 5 1).wr .anLocal 0x100#32 2).wr .anPartner 0x100#32 2; s.deepAllowed 2 = true ∧ s.fget F.portStatus_STATE 2 = 5) ∧
    (portAt 2 6 1).fget F.portStatus_STATE 2 = 6 := by decide

theorem test_w_LowPowerStates_busy :
    ((portAt 2 5 1).setNc 2 0 { q := [{ tile := 0, fid := 0, data := [1], m := {} }] }).portHasFrame 2 = true ∧
      (portAt 2 5 1).fget F.portStatus_STATE 2 = 5 := by decide

theorem test_w_LaneTestsAndScans :
    (let s := ((portAt 6 5 1).setLane 6 { eyeRun := true, taps := List.replicate 25 0 }).fset F.laneStatus_SIG_DET 1 6;
      s.portOfLane 6 = some (6, 1) ∧ (s.lane 6).eyeRun = true ∧ s.fget F.portStatus_STATE 6 = 5 ∧ s.flag F.laneStatus_SIG_DET 6 = true ∧
      6 ∈ s.portLanes 6 ∧ s.flag F.adaptCtl_FREEZE 6 = false ∧ s.flag F.portStatus_RX_EI 6 = false ∧ 24 < (s.lane 6).taps.length) ∧
    (let s := (portAt 6 5 1).setLane 6 { eyeRun := true }; s.portOfLane 6 = some (6, 1) ∧ (s.lane 6).eyeRun = true ∧
      s.flag F.laneStatus_SIG_DET 6 = false) ∧
    (let s := (((portAt 6 7 1).fset F.prbsCtl_GEN_EN 1 6).fset F.prbsCtl_CHK_EN 1 6).fset F.prbsCtl_INJ_MODE 1 6;
      s.portOfLane 6 = some (6, 1) ∧ s.flag F.prbsCtl_GEN_EN 6 = true ∧ s.fget F.prbsCtl_INJ_MODE 6 = 1 ∧ s.flag F.prbsCtl_CHK_EN 6 = true) ∧
    (let s := (((portAt 6 7 1).fset F.prbsCtl_GEN_EN 1 6).fset F.prbsCtl_CHK_EN 1 6).fset F.prbsCtl_INJ_MODE 2 6;
      s.portOfLane 6 = some (6, 1) ∧ s.flag F.prbsCtl_GEN_EN 6 = true ∧ s.fget F.prbsCtl_INJ_MODE 6 = 2) ∧
    (let s := ((portAt 6 7 1).fset F.prbsCtl_CHK_EN 1 6).fset F.prbsStatus_CHK_LOCK 1 6;
      s.portOfLane 6 = some (6, 1) ∧ s.flag F.prbsCtl_CHK_EN 6 = true ∧ s.flag F.prbsStatus_CHK_LOCK 6 = true) ∧
    ((portAt 6 5 1).fset F.adaptCtl_FREEZE 1 6).flag F.adaptCtl_FREEZE 6 = true := by decide

/-- Lane 6 of a port in TEST, with a checker. -/
def chkLane (locked : Nat) (c : Checker) : State :=
  (((portAt 6 7 1).fset F.prbsCtl_CHK_EN 1 6).fset F.prbsStatus_CHK_LOCK locked 6).setLane 6 { chk := c }

theorem test_w_LaneTests_checker :
    (let s := chkLane 0 { hist := List.replicate 31 false, run := 63 }
     let taps := prbsTaps (s.fget F.prbsCtl_POLY 6)
     s.portOfLane 6 = some (6, 1) ∧ s.flag F.prbsCtl_CHK_EN 6 = true ∧ s.fget F.laneCtl_LOOP 6 = 0 ∧ s.flag F.laneCtl_RX_POL 6 = false ∧
       s.flag F.prbsStatus_CHK_LOCK 6 = false ∧ taps.headD 7 ≤ (s.lane 6).chk.hist.length ∧
       prbsPredict taps (s.lane 6).chk.hist = xor false (s.flag F.prbsCtl_INV 6) ∧ 63 ≤ (s.lane 6).chk.run) ∧
    (let s := chkLane 1 { errs := List.replicate 31 true }
     let taps := prbsTaps (s.fget F.prbsCtl_POLY 6)
     s.flag F.prbsStatus_CHK_LOCK 6 = true ∧ (prbsStep taps (s.lane 6).chk.reg).1 ≠ xor true (s.flag F.prbsCtl_INV 6) ∧
       31 ≤ (((s.lane 6).chk.errs.take 63).filter id).length) ∧
    ((((chkLane 1 {}).lane 6).chk.errs.take 63).filter id).length < 31 ∧ (portAt 6 5 1).flag F.prbsCtl_CHK_EN 6 = false ∧
    ((portAt 6 2 1).portOfLane 6 = some (6, 1) ∧ 2 ≤ (portAt 6 2 1).fget F.portStatus_STATE 6 ∧ 6 ∈ (portAt 6 2 1).portLanes 6) := by decide

theorem test_w_TestExitAndGroupFamily :
    (portAt 8 7 0).fget F.portStatus_STATE 8 = 7 ∧ (portAt 8 7 0).portLanes 8 = [8] ∧ (portAt 8 7 0).portOfLane 8 = some (8, 1) := by decide

theorem test_w_CageBringUp :
    (let s := (State.reset.fset F.cageCfg_VALID 1 127).setCage 127 { debouncing := true, activating := true };
      s.flag F.cageCfg_VALID 127 = true ∧ (s.cage 127).debouncing = true ∧ s.flag F.cageCfg_AUTO 127 = true ∧ (s.cage 127).activating = true) ∧
    (let s := (State.reset.fset F.cageCfg_VALID 1 127).fset F.cageStatus_MSTATE 2 127;
      s.flag F.cageCfg_AUTO 127 = true ∧ s.fget F.cageStatus_MSTATE 127 = 2) ∧
    (let s := (State.reset.fset F.cageCfg_VALID 1 127).fset F.cageStatus_MSTATE 3 127;
      s.fget F.cageStatus_MSTATE 127 = 3 ∧ s.cagePorts 127 = [] ∧ 0 ≤ s.fget F.cageCfg_PWR_MAX 127 ∧ s.fget F.cageCfg_PWR_MAX 127 < 1) ∧
    ((State.reset.fset F.cageCfg_VALID 1 0).fset F.cageCfg_AUTO 0 0).flag F.cageCfg_AUTO 0 = false := by decide

theorem test_w_CageBringUp_master :
    (let s := (State.reset.fset F.cageCfg_VALID 1 127).fset F.cageStatus_MSTATE 3 127
     s.flag F.cageCfg_AUTO 127 = true ∧ s.flag F.modAccStatus_BUSY (s.fget F.cageCfg_MASTER 127) = false ∧
       (s.i2cOf (s.fget F.cageCfg_MASTER 127)).own = []) := by decide

theorem test_w_MailboxAndLedStream :
    State.reset.flag F.modAccStatus_BUSY 3 = false ∧
    (let s := State.reset.fset F.cageStatus_PRESENT 1 5; s.flag F.cageStatus_PRESENT (bits 5 6 0) = true ∧ s.flag F.cageCfg_AUTO (bits 5 6 0) = true ∧
      bits 0x1005 15 8 = 0x10 ∧ s.flag F.cageStatus_PRESENT (bits 0x1005 6 0) = true) ∧
    (let s := (State.reset.fset F.cageStatus_PRESENT 1 5).fset F.cageCfg_AUTO 0 5; s.flag F.cageStatus_PRESENT (bits 5 6 0) = true ∧
      s.flag F.cageCfg_AUTO (bits 5 6 0) = false) ∧
    State.reset.flag F.cageStatus_PRESENT (bits 5 6 0) = false ∧
    (State.reset.fset F.modAccStatus_BUSY 1 3).flag F.modAccStatus_BUSY 3 = true ∧
    (State.reset.fset F.ledCfg_EN 1).flag F.ledCfg_EN = true := by decide

/-! ### Parsing, classification and policers -/

/-- A tile 0 with a whole frame of 64 bytes from port 2, not yet parsed. -/
def parseState : State :=
  State.reset.setBuf 0 { frames := [(0, { data := List.replicate 64 0, rxLen := 64, done := true, m := { iport := 2 } })], nextFid := 1 }

theorem test_w_ParserTakesPacket :
    (parseState.pipe 0).stopped = false ∧ parseState.tileOn 0 = true ∧ (parseState.pipe 0).pkts.length < 512 ∧
      parseState.parseNext 0 2 = some 0 := by decide

theorem test_w_ClassifierSendsPacket :
    State.reset.hz = false ∧ State.reset.flag F.portCls_POL_EN 5 = false ∧
      (State.reset.fset F.portCls_POL_EN 1 5).flag F.portCls_POL_EN 5 = true := by decide

theorem test_w_MultiWordEntries : (192 ≤ (254 : Nat) ∧ (254 : Nat) < 255) ∧ (191 : Nat) < 192 := by decide

/-- In Horizon mode only some tiles have their clock. -/
theorem test_w_tile_clock : State.reset.tileOn 15 = true ∧ (State.reset.fset F.dawnStatus_HORIZON 1).tileOn 5 = false := by decide

theorem test_w_PolicerAccess :
    State.reset.flag F.polStatus_BUSY 15 = false ∧ (State.reset.fset F.polStatus_BUSY 1 15).flag F.polStatus_BUSY 15 = true := by decide

theorem test_w_TwoRatePolicerColours :
    (let v : Policer := { cfg := [0x400001, 2, 100, 200], tc := 64 * 2 ^ 32, tp := 128 * 2 ^ 32 }
     v.mode = 1 ∧ v.tp < 129 * 2 ^ 32 ∧ (65 * 2 ^ 32 ≤ v.tp ∧ v.tc < 65 * 2 ^ 32) ∧ 64 * 2 ^ 32 ≤ v.tc) := by decide

/-- An IPv4 frame with source and destination addresses and its reply; the header at byte 14. -/
def ipWin (a b : Nat) : List Byte := List.replicate 12 0 ++ beBytes 2 0x0800 ++ beBytes 4 0x45000000 ++ beBytes 8 0x0000000040060000 ++
  beBytes 4 a ++ beBytes 4 b
def ipWalk : Walk := { hdr := 0x11, offs := [255, 14, 255, 255, 255, 255, 255, 255], info := { first := [0, 4, 0, 0, 0, 0, 0, 0] } }

theorem test_w_SymmetricHash :
    State.reset.flag F.hashCfg_SYM 0 = true ∧ State.reset.flag F.hashCfg_INNER 0 = false ∧ State.reset.flag F.hashCfg_USE_VID 0 = false ∧
    (let x := keyFields (ipWin 0x0A140105 0x0A140911) ipWalk.hdr ipWalk.flags ipWalk.offs ipWalk.info false
     let y := keyFields (ipWin 0x0A140911 0x0A140105) ipWalk.hdr ipWalk.flags ipWalk.offs ipWalk.info false
     x.kind = 4 ∧ x.kind = y.kind ∧ x.proto = y.proto ∧ x.etype = y.etype ∧ x.src = y.dst ∧ x.dst = y.src ∧ x.src ≠ x.dst ∧
       x.sport = y.dport ∧ x.dport = y.sport) := by decide

/-! ### Cirrus -/

/-- A packet of tile 3 at word 0x6000 of a customer image, whose words are given. -/
def thr : Thread := { pipe := 2, pc := 0x6000, phv := List.replicate 512 0 }
def cirrusState (ws : List (BitVec 576)) (k : Pkt) : State :=
  let s := (State.reset.setPipe 3 { pkts := [(7, some k)] }).fset F.imgStatus_CUST_ACTIVE 1
  { s with cirrus := { s.cirrus with cs := ws.zipIdx.map (fun x => (0x6000 + x.2, x.1)), entry := [(0x6000, true)] } }
def pkt0 : Pkt := { stage := .running, thread := thr, phv := phvPut (List.replicate 512 0) 48 2 0x6000 }
/-- A word with a sequencer group and an effect slot. -/
def wordOf (seq eff : Nat) : BitVec 576 := BitVec.ofNat 576 (seq + eff <<< 512)

theorem test_w_AluArithmetic : (255 : Nat) < 2 ^ 64 ∧ (2 ^ 64 - 1 : Nat) < 2 ^ 64 ∧ (64 : Nat) ≤ 64 := by decide

theorem test_w_SequencerNextAddress :
    (bits 0x6001 31 30 = 0 ∧ bitAt 0x6001 32 = false ∧ inCust (bits 0x6001 14 0) = inCust 0x6000) ∧
    (let w := 2 ^ 32 + 0x6001 + 0x7FFF * 2 ^ 15; bits w 31 30 = 0 ∧ bitAt w 32 = true ∧ bits w 29 15 = 0x7FFF) ∧
    (let w := 2 ^ 30 + 63 * 2 ^ 33 + 0x6005 * 2 ^ 15; bits w 31 30 = 1 ∧ bits w 38 33 = 63 ∧ bitAt w 39 = false ∧ bits w 29 15 = 0x6005) ∧
    (let w := 2 ^ 30 + 3 * 2 ^ 33 + 0x6005; bits w 31 30 = 1 ∧ bits w 38 33 = 3 ∧ thr.mf.getLsbD 3 = bitAt w 39 ∧ thr.ops = []) ∧
    bits (3 * 2 ^ 30) 31 30 = 3 ∧ (inCust 0x6000 = true ∧ inCust (bits 5 14 0) = false) ∧ (inCust 5 = false ∧ inCust (bits 0x6000 14 0) = true) := by
  decide

theorem test_w_MicrowordStep :
    (let s := cirrusState [wordOf 0x6001 3] pkt0
     s.hz = false ∧ s.pkt 3 7 = some pkt0 ∧ pkt0.stage = .running ∧ thr.reenter = false ∧ thr.ops = [] ∧ tget (s.pipe 3).csErr 0x6000 0 = 0 ∧
       thr.committed = false ∧ thr.stage < 23 ∧ thr.phv.length = 512 ∧
       (let w := (s.csWord 0x6000).toNat
        bitAt w 44 = false ∧ bitAt w 45 = false ∧ s.wordFails 0x6000 w pkt0 = none ∧ (s.sequence 0x6000 w pkt0).toOption = some (0x6001, []))) := by
  decide

theorem test_w_Runs : (let s := cirrusState [wordOf 0x6001 3] pkt0
    s.pipeHeld 3 pkt0.thread.pipe = false ∧ s.inReload pkt0 = false ∧ Runs s 3 7 pkt0) := by
  refine ⟨by decide, by decide, by decide, by decide, rfl, rfl, rfl, by decide, by decide, by decide⟩

theorem test_w_MicrowordFailure :
    (let s := cirrusState [wordOf (2 ^ 46 + 5 * 2 ^ 48) 0] pkt0
     s.pkt 3 7 = some pkt0 ∧ (let w := (s.csWord 0x6000).toNat; bitAt w 46 = true ∧ s.wordFails 0x6000 w pkt0 = some 0x0305)) ∧
    (let s := cirrusState [wordOf 0x6001 11] pkt0
     (let w := (s.csWord 0x6000).toNat; bitAt w 46 = false ∧ 11 ≤ bits (effField w) 3 0)) := by decide

theorem test_w_CommitDisposition :
    (let s := cirrusState [wordOf (2 ^ 45) 0] { pkt0 with thread := { thr with log := [⟨1, 0, [2, 3]⟩] } }
     (let w := (s.csWord 0x6000).toNat
      bitAt w 45 = true ∧ bits (effField w) 3 0 = 0 ∧ s.wordFails 0x6000 w pkt0 = none)) := by decide

theorem test_w_ThreadEvents :
    (let k := { pkt0 with thread := { thr with ops := [⟨1, 0x10, [], 448, 15, 4⟩] }, restarts := 2 }
     (cirrusState [] k).pkt 3 7 = some k ∧ k.stage = .running ∧ k.thread.committed = false ∧ k.restarts < 3) ∧
    3 ≤ ({ pkt0 with restarts := 3 } : Pkt).restarts ∧ ({ thr with committed := true } : Thread).committed = true ∧
    (let k := { pkt0 with stage := .restart 1 }
     let s := cirrusState [] k
     s.pkt 3 7 = some k ∧ (s.pipe 3).stopped = false ∧ s.regionHeld (phvEntry k.phv) = false ∧ s.isEntry (phvEntry k.phv) = true) ∧
    (let k := { pkt0 with stage := .restart 1, phv := List.replicate 512 0 }
     let s := cirrusState [] k
     s.hz = false ∧ s.isEntry (phvEntry k.phv) = false ∧ s.regionHeld (phvEntry k.phv) = false) ∧
    ({ thr with reenter := true } : Thread).reenter = true ∧
    (let s := (cirrusState [] { pkt0 with pend := true }).setFrame 3 7 { done := true }
     (s.pkt 3 7).map (fun k => k.pend) = some true ∧ (s.frame 3 7).done = true) := by decide

theorem test_w_ThreadEvents_held :
    (let k := { pkt0 with thread := { thr with ops := [⟨1, 0x10, [], 448, 15, 4⟩] } }
     let s := cirrusState [] k
     s.pkt 3 7 = some k ∧ ∀ w ∈ s.readWords 3 k ⟨1, 0x10, [], 448, 15, 4⟩, s.wordBad 3 w.1 w.2 = false) ∧
    (let k := { pkt0 with thread := { thr with reenter := true } }
     (cirrusState [] k).pkt 3 7 = some k ∧ (cirrusState [] k).pipeHeld 3 k.thread.pipe = false) ∧
    (let k := { pkt0 with thread := { thr with reenter := true, committed := true } }
     (cirrusState [] k).pkt 3 7 = some k) := by decide

def excState (en : Nat) : State :=
  let s := State.reset.setPipe 1 { exc := [⟨4, 2, 0x0305, List.replicate 512 0, 9⟩] }
  (((s.setFrame 1 4 { data := List.replicate 64 0, done := true }).fset F.excRing_EN en 1 2).fset F.ringStatus_STATE 1 0).fset F.ringOwner_TYPE 2 0

theorem test_w_ExceptionDelivery :
    (((excState 0).pipe 1).exc.find? (fun y => decide (y.cls = 2))).isSome = true ∧ ((excState 0).frame 1 4).dead = none ∧
    (excState 0).flag F.excRing_EN 1 2 = false ∧
    ((excState 1).flag F.excRing_EN 1 2 = true ∧ (excState 1).ringState 0 = 1 ∧ (excState 1).ringTypeOf 0 = 2 ∧
      ((excState 1).frame 1 4).done = true ∧ (excState 1).takeEntry ((excState 1).fget F.excRing_RING 1 2) = (none, excState 1)) := by decide

theorem test_w_ExceptionDelivery_writes :
    (let s := (excState 1).setFrame 1 4 { data := List.replicate 64 0 }
     s.flag F.excRing_EN 1 2 = true ∧ s.ringState 0 = 1 ∧ s.ringTypeOf 0 = 2 ∧ (s.frame 1 4).dead = none ∧ (s.frame 1 4).done = false) ∧
    (let s := (excState 1).putRing 0 { (excState 1).ring 0 with fetched := [(0, leBytes 8 0x5000 ++ leBytes 4 4096 ++ List.replicate 19 0 ++ [0x80#8])] }
     (s.rxWrite (s.fget F.excRing_RING 1 2) (s.excRx 1 ⟨4, 2, 0x0305, List.replicate 512 0, 9⟩)).1 = true) := by decide

def img0 : Image := ⟨false, 77, 1, [0x6000], [], [], [], [5#576, 6#576], 0x6000, []⟩

theorem test_w_ImageCommands :
    (State.reset.fset F.imgStatus_BUSY 1).flag F.imgStatus_BUSY = true ∧ (State.reset.fset F.imgStatus_ARMED 1).flag F.imgStatus_ARMED = true ∧
    (State.reset.flag F.imgStatus_BUSY = false ∧ State.reset.hz = false ∧ (State.reset.rd .imgLen).toNat = 0) ∧
    (let s : State := { State.reset with cirrus := { State.reset.cirrus with load := some ⟨0, some img0⟩ } }
     s.cirrus.load = some ⟨0, some img0⟩) := by decide

/-- A buffer with a header of length `n`, and the state of a LOAD of it. The clauses of a good signature rest on `Config.falconVerify`, a free
constant: no closed state shows that it holds of one. -/
def loadSt (n : Nat) : State := (State.reset.wr .imgLen (BitVec.ofNat 32 n)).wrw .imgSrc (0x4000#64)

theorem test_w_ImageCommands_load :
    ((loadSt 64).hasRight 0 2 = true ∧ (loadSt 64).hasRight 1 2 = false ∧ (loadSt 64).flag F.fnStatus_FROZEN 1 = false ∧
      (loadSt 64).flag F.imgStatus_BUSY = false ∧ (loadSt 64).hz = false ∧ (loadSt 64).cirrus.act = none ∧
      (loadSt 64).flag F.imgStatus_ARMED = false ∧ ((loadSt 64).rd .imgLen).toNat = 64 ∧
      (loadSt 64).hostOk 0 ((loadSt 64).rdw .imgSrc).toNat 64 false = true) ∧
    0x400000 < ((loadSt 0x400001).rd .imgLen).toNat ∧ ((loadSt 0x400000).rd .imgLen).toNat = 0x400000 ∧
    imgHeaderOk (List.replicate 64 0) 64 = false ∧ ((loadSt 64).fset F.bnStatus_FAULT 1).flag F.bnStatus_FAULT = true ∧
    (State.reset.fset F.dawnStatus_HORIZON 1).hz = true := by decide

theorem test_w_imgHeader : imgHeaderOk (leBytes 4 0x52434746 ++ leBytes 2 1 ++ [2] ++ List.replicate (57 + sigLen) 0) (64 + sigLen) = true := by decide

theorem test_w_ImageActivation :
    (let s : State := { State.reset with cirrus := { State.reset.cirrus with stagedCust := some img0 } }
     s.flag F.imgStatus_BUSY = false ∧ s.hz = false ∧ s.flag F.imgStatus_ARMED = false ∧
       (if bitAt (0xC#32).toNat 2 then s.cirrus.stagedCust else s.cirrus.stagedBase).isSome = true ∧ s.tileOn 5 = true) ∧
    (let s : State := { State.reset with cirrus := { State.reset.cirrus with act := some (false, false), drained := true, stagedCust := some img0 } }
     s.cirrus.act = some (false, false) ∧ s.cirrus.drained = true ∧ s.cirrus.stagedCust = some img0 ∧ img0.base = false ∧ img0.first = 0x6000 ∧
       img0.words.length ≤ 0x2000 ∧ img0.entries.all (fun a => decide (0x6000 ≤ a) && decide (a < 0x8000)) = true) := by decide

theorem test_w_ImageActivation_busy :
    (let s : State := { State.reset with cirrus := { State.reset.cirrus with act := some (false, true), drained := true } }
     s.cirrus.act = some (false, true) ∧ s.cirrus.drained = true ∧ s.regionBusy false = false ∧ s.cirrus.load = none) ∧
    (let s := cirrusState [] { pkt0 with thread := { thr with committed := true } }
     s.regionBusy false = true) ∧ bitAt (0xC#32).toNat 3 = true ∧ bitAt (4#32).toNat 3 = false := by decide

theorem test_w_ControlStoreRead :
    State.reset.flag F.csRdStatus_BUSY 0 = false ∧ tget (State.reset.pipe 0).csErr ((0x7FFF#32).toNat % 32768) 0 = 0 ∧
    (State.reset.fset F.csRdStatus_BUSY 1 0).flag F.csRdStatus_BUSY 0 = true := by decide

/-! ### Tables -/

/-- Partition 3 enabled over the whole memory with 4-byte keys. -/
def tblState : State := State.reset.wr .tblCfg0 (0x00108000#32) 3
def teOp0 (op tid : Nat) : TeOp := { op := op, stage := false, par := 0, tid := tid, lport := 0, learned := false, static := false, index := 5,
                                     data := [1, 2, 3, 4, 9, 9, 9, 9, 9, 9, 9, 9, 9, 9, 9, 9] }
def withOp (s : State) (o : TeOp) : State := { s with te := { s.te with ops := [(.reg, o)] } }
def emE (k : Nat) (p0 p1 : Bool) : EmEntry := { part := k, p0 := p0, p1 := p1, key := [1, 2, 3, 4], action := List.replicate 12 7, stamps := List.replicate 16 0 }
def emPlaceOf : Nat := (tblState.emCands 3 [1, 2, 3, 4]).headD 0

theorem test_w_ExactMatchOperations :
    (let s := withOp tblState (teOp0 1 0x13)
     s.teDenied 0x13 = false ∧ s.emKeyLen 3 = 4 ∧ s.emCopies 3 [1, 2, 3, 4] = [] ∧ s.emFree 3 [1, 2, 3, 4] = some emPlaceOf) ∧
    (let s := (withOp tblState (teOp0 2 0x13)).emSet emPlaceOf (some (emE 3 true true))
     s.emCopies 3 [1, 2, 3, 4] = [(emPlaceOf, emE 3 true true)] ∧ s.badWord 0x13 emPlaceOf = false) ∧
    (let s := (withOp tblState (teOp0 2 0x13)).emSet emPlaceOf (some (emE 3 true false))
     (s.emCopies 3 [1, 2, 3, 4]).any (fun c => c.2.p0 != c.2.p1) = true) ∧
    (let s := (withOp tblState (teOp0 9 0x13)).emSet emPlaceOf (some { emE 3 true true with learned := true, lport := 5 })
     s.te.ops = [(.reg, teOp0 9 0x13)] ∧ (teOp0 9 0x13).gen = 0 ∧ s.te.em = [(emPlaceOf, some { emE 3 true true with learned := true, lport := 5 })]) := by decide

theorem test_w_RegOp : RegOp (withOp tblState (teOp0 4 0x13)) (teOp0 4 0x13) ∧
    (let s := (withOp tblState (teOp0 4 0x13)).emSet emPlaceOf (some (emE 3 true true))
     s.emCopies 3 [1, 2, 3, 4] = [(emPlaceOf, emE 3 true true)] ∧ pbit true true (teOp0 4 0x13).par = true ∧ s.badWord 0x13 emPlaceOf = false ∧
       (emE 3 true true).p0 = (emE 3 true true).p1) := ⟨⟨rfl, rfl, by decide⟩, by decide⟩

theorem test_w_GroupsUnderVersions :
    (State.reset.vstate = 0 ∧ ({ teOp0 1 0x40 with stage := true }).index < 16384) ∧ (teOp0 7 0x41).index % 2 ^ 31 < 262144 := by decide

theorem test_w_SelectionAndLongestPrefix :
    (let s : State := { State.reset with te := { State.reset.te with groups := [(0, 3)], lpm := [⟨0, false, 0, 8, [10, 0, 0, 0], true, true, []⟩] } }
     grpSlot s.te.groups 0 1 = some (0, 3) ∧ (s.lpmFind false 1 [10, 1, 2, 3, 0, 0]).isSome = true ∧ s.lpmFind false 1 [11, 1, 2, 3, 0, 0] = none) := by
  decide

theorem test_w_VersionCourse :
    (let s := withOp State.reset (teOp0 5 0)
     s.teHead .reg = some (teOp0 5 0) ∧ s.te.commits = [] ∧ s.vstate = 0) ∧
    (let s := withOp State.reset (teOp0 5 0)
     ({ s with te := { s.te with commits := [.reg] } } : State).commitReady = some (.reg, teOp0 5 0)) ∧
    State.reset.commitReady = none ∧
    (let s := State.reset.fset F.verStatus_VSTATE 2
     s.vstate = 2 ∧ (∀ ti : TileIx, s.inflight ti s.next = 0) ∧ (s.setInflight 15 s.next 1).inflight 15 s.next ≠ 0 ∧ s.tileOn 15 = true) ∧
    ((State.reset.fset F.verStatus_VSTATE 3).vstate = 3 ∧ State.reset.te.ops = []) ∧
    (let s := (withOp State.reset (teOp0 6 0)).fset F.verStatus_VSTATE 1
     s.teHead .reg = some (teOp0 6 0) ∧ s.te.discard = none ∧ s.vstate = 1) ∧
    (let s := (withOp State.reset (teOp0 6 0)).fset F.verStatus_VSTATE 4
     ({ s with te := { s.te with discard := some .reg } } : State).vstate = 4) ∧
    (let s := State.reset.emSet 9 (some (emE 0 true false))
     s.emAt 9 = some (emE 0 true false) ∧ pbit true false s.cur = true) ∧
    (let s := State.reset.aclSet 9 (some ⟨true, true, [], [], []⟩)
     s.aclAt 9 = some ⟨true, true, [], [], []⟩) := by decide

theorem test_w_VersionCourse_heads :
    ((withOp State.reset (teOp0 5 0)).te.commits.contains .reg = false) ∧
    (({ State.reset with te := { State.reset.te with commits := [.reg] } } : State).te.commits ≠ []) ∧
    (let s := withOp State.reset (teOp0 6 0)
     RegOp s (teOp0 6 0) ∧ s.te.discard = none ∧ s.vstate = 0) := ⟨by decide, by decide, ⟨rfl, rfl, by decide⟩, by decide, by decide⟩

theorem test_w_DataPathWrites :
    (let s := tblState.fset F.tblCfg0_LEARN_EN 1 3
     tidKind 0x13 = 1 ∧ s.flag F.tblCfg0_LEARN_EN 3 = true ∧ s.emWidth 3 ≠ 2 ∧ (s.emRange 3).2 ≠ 0 ∧ s.emCopies 3 (s.emKey 3 [1, 2, 3, 4]) = [] ∧
       s.overLimit 6 = false ∧ (s.emFree 3 (s.emKey 3 [1, 2, 3, 4])).isSome = true ∧
       (s.fset F.learnCfg_LIMIT_EN 1 6).overLimit 6 = true) ∧
    (byteAt [7, 0x41] 0 = 7 ∧ byteAt [7, 0x41] 1 = 0x41 ∧ (State.reset.fset F.teCtl_DP_LIVE_EN 1).flag F.teCtl_DP_LIVE_EN = true) ∧
    8 ≤ byteAt [8] 0 := by decide

/-- A LEARN at the head of the data-path queue. -/
def dpState (d : DpOp) : State := { tblState.fset F.tblCfg0_LEARN_EN 1 3 with te := { tblState.te with dpq := [d] } }

theorem test_w_DataPathWrites_turn :
    (let s := dpState ⟨true, 6, [], none, none⟩
     s.te.dpq = [⟨true, 6, [], none, none⟩] ∧ s.teTurn .dp = true) ∧
    (let s := dpState ⟨true, 6, [], some (0x13, [1, 2, 3, 4]), none⟩
     s.te.dpq = [⟨true, 6, [], some (0x13, [1, 2, 3, 4]), none⟩] ∧ s.teTurn .dp = true ∧ s.overLimit 6 = false ∧
       s.emCopies 3 (s.emKey 3 [1, 2, 3, 4]) = []) ∧ (dpState ⟨false, 6, [7, 0x41], none, none⟩).teTurn .dp = true := by decide

/-- A full table: no place is free for a key whose two ways hold other entries. -/
theorem test_w_DataPathWrites_full :
    (let s0 := dpState ⟨true, 6, [], some (0x13, [1, 2, 3, 4]), none⟩
     let l := s0.emCands 3 [1, 2, 3, 4]
     let s := l.foldl (fun s i => s.emSet i (some { emE 3 true true with key := [9, 9, 9, BitVec.ofNat 8 i] })) s0
     s.te.dpq = s0.te.dpq ∧ s.emCopies 3 (s.emKey 3 [1, 2, 3, 4]) = [] ∧ s.emFree 3 (s.emKey 3 [1, 2, 3, 4]) = none) := by decide +kernel

theorem test_w_Aging :
    (let s := (((State.reset.fset F.tblCfg0_AGE_EN 1 0).fset F.ageNow_V 1000).emSet 524287 (some (emE 0 true true)))
     s.emAt 524287 = some (emE 0 true true) ∧ s.flag F.teCtl_AGE_RUN = true ∧ s.ages (emE 0 true true) = true ∧ s.te.refresh = [] ∧
       (∀ ti : TileIx, max 1 (s.fget F.tblCfg1_AGE_LIMIT 0) < s.age (nth (emE 0 true true).stamps ti 0)) ∧
       nth (emE 0 true true).stamps 15 0 ≠ nth (List.replicate 16 1) 15 0 ∧ 15 < (emE 0 true true).stamps.length) := by decide

theorem test_w_Aging_turns :
    (let s := ((State.reset.fset F.tblCfg0_AGE_EN 1 0).fset F.ageNow_V 1000).emSet 5 (some (emE 0 true true))
     (∀ ti : TileIx, s.wordBad ti (0x10 + (emE 0 true true).part) 5 = false) ∧ (emE 0 true true).static = false ∧
     (let c : State := { s with te := { s.te with cands := [(5, (emE 0 true true).stamps)] } }
      c.teTurn .age = true ∧ c.refreshing = false ∧ c.te.cands = [(5, (emE 0 true true).stamps)] ∧ c.emAt 5 = some (emE 0 true true)) ∧
     (let c : State := { s with te := { s.te with refresh := [5] } }
      5 ∈ c.te.refresh ∧ c.emAt 5 = some (emE 0 true true) ∧ c.ages (emE 0 true true) = true) ∧
     (let c : State := { s with te := { s.te with rewrites := [(5, 15, 0)] } }
      c.te.rewrites = [(5, 15, 0)] ∧ c.teTurn .age = true ∧ 15 < (emE 0 true true).stamps.length ∧ nth (emE 0 true true).stamps 15 0 = 0)) ∧
    ({ emE 0 true true with static := true } : EmEntry).static = true := by decide

theorem test_w_ParityAndBanks :
    (let s : State := { State.reset with te := { State.reset.te with bad := [(3, 0x41, 7)] } }
     s.te.bad.find? (fun b => decide (b.1 = 3)) = some (3, 0x41, 7) ∧ s.tileOn 2 = true ∧ (2, 0x41, 7) ∉ s.te.bad) ∧
    (let s : State := { State.reset with te := { State.reset.te with bad := (List.range 16).map (fun u => (u, 0x41, 7)) } }
     s.te.bad.find? (fun b => decide (b.1 = 3)) = some (3, 0x41, 7) ∧ ∀ u, u < 16 → (u, 0x41, 7) ∈ s.te.bad) ∧
    (let s := (State.reset.wr .tcamCfg 0x0100#32 2).aclSet 255 (some ⟨true, true, [], [], []⟩)
     (s.aclRange 2).1 ≤ 255 ∧ 255 < (s.aclRange 2).1 + (s.aclRange 2).2 ∧ s.te.acl = [(255, some ⟨true, true, [], [], []⟩)] ∧
       ∀ j : Fin 4, j < 2 → ¬ ((s.aclRange j).1 ≤ 255 ∧ 255 < (s.aclRange j).1 + (s.aclRange j).2)) ∧
    bitAt (State.reset.fget F.ttBank_SPARE_FIXED 4) 3 = false := by decide

/-- Tile 0 alone is clocked, and its bank of memory 3 with member 7 is in safe state. -/
def lastBank : State :=
  let s := State.reset.fset F.dawnStatus_HORIZON 1
  { s with te := { s.te with safeBanks := [(0, 3, Config.bankOf 3 7)], members := [(7, 9)] } }

theorem test_w_ParityAndBanks_safe :
    (let s : State := { State.reset with te := { State.reset.te with bad := [(3, 0x41, 7)] } }
     s.tileOn 2 = true ∧ s.wordBad 2 0x41 7 = false ∧ s.wordBad 3 0x41 7 = true) ∧
    (let s : State := { State.reset with te := { State.reset.te with bad := (List.range 16).map (fun u => (u, 0x41, 7)) } }
     ∀ u, u < 16 → s.wordBad u 0x41 7 = true) ∧
    tget ({ State.reset with te := { State.reset.te with claims := [(4, 1)] } }).te.claims 4 0 = 1 ∧
    tget ({ State.reset with te := { State.reset.te with claims := [(4, 3)] } }).te.claims 4 0 = 3 ∧ memOf 0x41 = some 3 ∧
    bitAt (lastBank.fget F.ttBank_SPARE_FIXED 0) 3 = false := by decide

theorem test_w_ParityAndBanks_last : lastBank.te.safeBanks = [(0, 3, Config.bankOf 3 7)] ∧ (∀ u, u < 16 → lastBank.tileOn u = true → u = 0) ∧ (0x41, 7) ∈ lastBank.bankWords 3 (Config.bankOf 3 7) := by
  refine ⟨rfl, by decide, ?_⟩
  simp [State.bankWords, lastBank, memOf, tidKind]

theorem test_w_TableConfiguration :
    State.reset.te.em = [] ∧ State.reset.te.lpm = [] ∧ (State.reset.emSet 0 (some (emE 0 true true))).emUsed 0 ≠ 0 ∧
    (∀ j : Fin 4, State.reset.fget F.tcamCfg_SIZE j = 0) ∧
    (let s := (State.reset.wr .tcamCfg 0x0100#32 2).aclSet 255 (some ⟨true, true, [], [], []⟩)
     (255, some ⟨true, true, [], [], []⟩) ∈ s.te.acl ∧ (s.aclRange 2).1 ≤ 255 ∧ 255 < (s.aclRange 2).1 + (s.aclRange 2).2) := by decide

theorem test_w_TableConfiguration_used : State.reset.emUsed 3 = 0 ∧ bits (0x1E0000FF#32).toNat 15 8 = 0 ∧
    ({ State.reset with te := { State.reset.te with lpm := [⟨0, false, 0, 8, [10, 0, 0, 0], true, true, []⟩] } }).te.lpm ≠ [] := by decide

theorem test_w_MulticastRegisters :
    State.reset.flag F.mcStatus_BUSY = false ∧ State.reset.te.ops = [] ∧ State.reset.vstate = 0 ∧ State.reset.fget F.mcIndex_INDEX < 16384 ∧
    (let s : State := { State.reset with te := { State.reset.te with mcGroups := [(0, 3)] } }
     (tget s.te.mcGroups 0 0).toNat % 4 = 3 ∧ tget s.te.mcGroups 1 0 = 0) ∧ bitAt (0#32).toNat 4 = false ∧
    bits (State.reset.rd .mcData0).toNat 31 15 + bits (State.reset.rd .mcData0).toNat 10 2 < 131072 := by decide

theorem test_w_MulticastRegisters_engine : State.reset.slotDue = none ∧
    (let s : State := { State.reset with te := { State.reset.te with mcGroups := [(32766, 3)] } }
     s.badWord 0x50 16383 = false ∧ (s.fset F.mcIndex_INDEX 16383).fget F.mcIndex_INDEX = 16383 ∧ (tget s.te.mcGroups 32766 0).toNat % 4 = 3) := by decide

/-! ### Queues, credit, Anvil and egress -/

/-- Port `p` enabled and UP. -/
def upPort (p : Nat) : State := (State.reset.fset F.portCfg_EN 1 p).fset F.portStatus_STATE 5 p
/-- A frame of `n` bytes of ingress port 1, whole, in tile 0's buffer as frame 0, with its cells. -/
def frameOf (n : Nat) (done : Bool) : Frame := { data := List.replicate n 7, rxLen := n, m := { iport := 1, eport := 0, cls := 2 }, done := done, cells := [0], linked := true }
def withFrame (s : State) (f : Frame) : State := s.setFrame 0 0 f
def withVoq (s : State) (q : Nat) (v : Voq) : State := s.setVoq 0 q v
def staged (n : Nat) (last : Bool) : Staged := { tile := 0, fid := 0, data := List.replicate n 7, m := { cls := 2 }, last := last }
def withStaged (s : State) (c n : Nat) : State := s.setNc 0 c { s.nc 0 c with q := [staged n true] }

theorem test_w_GrantsAndBalances :
    (let s := withVoq (withFrame (upPort 0) (frameOf 64 true)) 2 { head := [⟨0, 0, false⟩], inflight := [2048] }
     0 ∈ s.tilePorts 0 ∧ s.grantable 0 2 = true ∧ s.hasBacklog 0 (8 * 0 + 2) = true ∧ (s.voq 0 2).inflight = [2048] ∧ (s.voq 0 2).safe = false) ∧
    (withVoq State.reset 2 { inflight := [2048], safe := true }).voq 0 2 = { inflight := [2048], safe := true } := by decide

theorem test_w_CrossingStarts :
    (let s := withVoq (withFrame (upPort 0) (frameOf 64 true)) 2 { head := [⟨0, 0, false⟩], balance := 1 }
     (s.voq 0 2).head = [⟨0, 0, false⟩] ∧ (s.voq 0 2).crossing = none ∧ (s.voq 0 2).safe = false ∧ (s.frame 0 0).done = true ∧ 0 < (s.voq 0 2).balance ∧
       s.portEnabled 0 = true ∧ (s.np 0).downHeld = false ∧ s.gateEn 0 = false ∧ (s.frame 0 0).m.mc = false ∧ (s.frame 0 0).ct = false ∧
       tget s.squall.blockReset 0 0 = 0 ∧ tget (s.tileReset 0 0).squall.blockReset 0 0 ≠ 0) ∧
    (withVoq State.reset 2 { head := [⟨0, 0, false⟩] }).voq 0 2 = { head := [⟨0, 0, false⟩], balance := 0 } ∧
    (let s := withVoq (withFrame (upPort 0) (frameOf 64 true)) 4098 { head := [⟨0, 1, false⟩], granted := 1 }
     (s.voq 0 4098).granted ≠ 0 ∧ (s.frame 0 0).done = true) := by decide

theorem test_w_Crossings_cells :
    (let f := { frameOf 300 true with ct := true }
     let s := withVoq (withFrame (upPort 0) f) 2 { head := [⟨0, 0, false⟩], balance := 1 }
     (s.frame 0 0).ct = true ∧ (s.frame 0 0).bad = false ∧ 256 * (1 : Fin 64).val < (s.frame 0 0).data.length ∧ (s.frame 0 0).done = true ∧
       (s.voq 0 2).crossing = none ∧ 0 < (s.voq 0 2).balance) ∧
    (let f := { frameOf 300 true with ct := true, refs := 2 }
     let s := withVoq (withFrame (upPort 0) f) 2 { crossing := some ⟨0, 0, false⟩ }
     (s.voq 0 2).crossing = some ⟨0, 0, false⟩ ∧ (s.frame 0 0).ct = true ∧ (s.frame 0 0).bad = false ∧ 1 < (s.frame 0 0).refs ∧
       256 * (1 : Fin 64).val < (s.frame 0 0).data.length) := by decide

theorem test_w_CrossingCompletes :
    (let s := withVoq (withFrame State.reset (frameOf 64 true)) 2 { head := [⟨1, 0, false⟩], crossing := some ⟨0, 0, false⟩, owes := true }
     (s.voq 0 2).crossing = some ⟨0, 0, false⟩ ∧ (s.frame 0 0).done = true ∧ (s.voq 0 2).head ≠ [] ∧ (s.frame 0 0).refs ≤ 1) ∧
    (withFrame State.reset (frameOf 64 false)).frame 0 0 = frameOf 64 false ∧
    1 < ((withFrame State.reset { frameOf 64 true with refs := 2 }).frame 0 0).refs := by decide

theorem test_w_TransmitChoice :
    State.reset.txReady 0 = false ∧
    (let s := (upPort 0).setNp 0 { (upPort 0).np 0 with ctl := [[1]] }
     s.txReady 0 = true ∧ (s.np 0).ctl = [[1]]) ∧
    ((upPort 0).txReady 0 = true ∧ ((upPort 0).np 0).ctl = [] ∧ ∀ c : Fin 8, (upPort 0).candidate 0 c = false) ∧
    (let s := (withStaged (withStaged (upPort 0) 2 64) 5 64).fset F.qsched_STRICT 1 0 5
     s.txReady 0 = true ∧ s.candidate 0 5 = true ∧ s.strict 0 5 = true ∧ s.candidate 0 2 = true ∧ ∀ d : Fin 8, 5 < d → s.candidate 0 d = true → s.strict 0 d = false) ∧
    (let s := withStaged (withStaged (upPort 0) 2 64) 5 64
     s.candidate 0 2 = true ∧ s.candidate 0 5 = true ∧ (∀ c : Fin 8, s.strict 0 c = false) ∧
       ∀ c : Fin 8, ((((s.giveTags 0).nc 0 c).tag.getD 0) - 0#64).toNat < 2 ^ 62) := by decide

theorem test_w_FinishTags :
    (let s := withStaged (upPort 0) 2 64
     s.candidate 0 2 = true ∧ s.strict 0 2 = false ∧ (s.nc 0 2).tag = none ∧ (s.nc 0 2).q = [staged 64 true]) ∧
    (withStaged (upPort 0) 2 64).setNc 0 2 { q := [staged 64 true], paused := 5 } ≠ State.reset ∧
    ((withStaged (upPort 0) 2 64).setNc 0 2 { q := [staged 64 true], paused := 5 }).candidate 0 2 = false ∧
    ((upPort 0).setNc 0 2 { q := [staged 64 true], tag := some 9 }).candidate 0 2 = true := by decide

/-- A PFC frame of 64 bytes that pauses class 3. -/
def pfcBytes : List Byte :=
  beBytes 6 0x0180C2000001 ++ beBytes 6 2 ++ beBytes 2 0x8808 ++ beBytes 2 0x0101 ++ beBytes 2 8 ++ List.replicate 6 0 ++ beBytes 2 100 ++
    List.replicate 38 0
/-- Port 0 with priority 3 lossless and in XOFF, in pause mode `m`. -/
def xoffPort (m : Nat) : State :=
  (((upPort 0).fset F.pfcCfg_MODE m 0).fset F.pfcCfg_LOSSLESS 8 0).fset F.pgStatus3_XOFF 1 0 3

theorem test_w_PauseAndFrameEnd :
    (let s := (upPort 0).fset F.pfcCfg_RX_EN 1 0
     s.isUp 0 = true ∧ s.tileOn (s.tileOf 0) = true ∧ s.rxPauseEn 0 = true ∧ isPause pfcBytes = true ∧ 64 ≤ pfcBytes.length) ∧
    ((xoffPort 1).xoffPris 0 = [3] ∧ (xoffPort 1).pauseMode 0 = 1 ∧ (xoffPort 2).xoffPris 0 = [3] ∧ (xoffPort 2).pauseMode 0 = 2) ∧
    State.reset.isUp 0 = false ∧
    (let s := ((upPort 0).fset F.egrCfg2_WD_MS 5 0).setNc 0 3 { paused := 7 }
     s.fget F.egrCfg2_WD_MS 0 ≠ 0 ∧ s.isPaused 0 3 = true ∧ (s.nc 0 3).wd = false ∧ s.flag F.egrCfg2_WD_DROP 0 = false ∧
       (s.fset F.egrCfg2_WD_DROP 1 0).flag F.egrCfg2_WD_DROP 0 = true) ∧
    (let s := State.reset.setNc 0 3 { wd := true }
     (s.nc 0 3).wd = true ∧ s.isPaused 0 3 = false) ∧
    (let s := State.reset.setNp 0 { cur := some (staged 64 true) }
     (s.np 0).curCtl = none ∧ (s.np 0).cur = some (staged 64 true)) ∧
    ((State.reset.setNp 0 { cur := some (staged 64 false) }).np 0).cur = some (staged 64 false) ∧
    ((State.reset.setNp 0 { curCtl := some pfcBytes }).np 0).curCtl = some pfcBytes := by decide

/-- Anvil in service with its free rings built. -/
def anvilUp : State := ((State.reset.fset F.anvilStatus_READY 1).wr .chActive (0xFFFFFFFF#32)).anvilTrained
/-- A record of frame bytes at the start of its segment. -/
def recOf : Rec := { raw := List.replicate 128 7, m := { iport := 1 }, mask := 0, pos := 0 }

theorem test_w_SpillAndRefill :
    (let s := withVoq (withFrame anvilUp (frameOf 64 true)) 2 { spill := true, due := [⟨0, 0, false⟩], pages := [5, 3145733], wrPos := 0, seg := [recOf] }
     (s.voq 0 2).due = [⟨0, 0, false⟩] ∧ s.anvilOpen = true ∧ (s.voq 0 2).writing = none ∧ (s.frame 0 0).done = true ∧ (s.voq 0 2).pages ≠ [] ∧
       ceilDiv ((s.voq 0 2).wrPos + recBytes (s.frame 0 0).len) 4080 + 1 ≤ (s.voq 0 2).gone + (s.voq 0 2).pages.length) ∧
    State.reset.anvilOpen = false ∧
    ((withVoq anvilUp 2 { spill := true, writing := some ⟨0, 0, false⟩ }).voq 0 2).writing = some ⟨0, 0, false⟩ ∧
    (let s := withVoq anvilUp 2 { spill := true, seg := [recOf], pages := [5] }
     s.refillOk 0 2 = true ∧ State.reset.refillOk 0 2 = false) ∧
    (let s := withVoq anvilUp 2 { spill := true, seg := [recOf], pages := [5], reading := true }
     (s.voq 0 2).reading = true ∧ (s.voq 0 2).seg = [recOf] ∧ (s.voq 0 2).spill = true) := by decide

theorem test_w_SpillAndRefill_room :
    (let v : Voq := { spill := true, due := [⟨0, 0, false⟩], pages := [5, 3145733], wrPos := 0, seg := [recOf] }
     let s := withVoq (withFrame anvilUp (frameOf 64 true)) 2 v
     s.slotRoom (s.voq 0 2) (slotNo 0) (slotNo (0 + recBytes (s.frame 0 0).len)) = true ∧ (s.frame 0 0).len < 2 ^ 14) ∧
    (let s := withVoq anvilUp 2 { spill := true, seg := [recOf], pages := [5], reading := true }
     recOf.cells ≤ s.freeCells 0 ∧ (s.fset F.bpmStatus_FREE_CELLS 0 0).freeCells 0 < recOf.cells) := by decide

theorem test_w_AnvilControl :
    (State.reset.group 0).count < 1024 ∧ (State.reset.group 0).ring = [] ∧ (anvilUp.group 0).count ≤ 3072 ∧ 1024 ≤ (anvilUp.group 0).count ∧
    State.reset.flag F.anvilCtl_EN = true ∧ (State.reset.fset F.anvilCtl_EN 0).flag F.anvilCtl_EN = false ∧
    (let s := { State.reset with power := { State.reset.power with gddrOn := true } }
     s.power.gddrOn = true ∧ s.flag F.anvilStatus_READY = false ∧ State.reset.power.gddrOn = false) := by decide

theorem test_w_AnvilControl_caches :
    (let s := State.reset.setGroup 7 { ring := [⟨9, [1, 2]⟩] }
     (s.group 7).count < 1024 ∧ (s.group 7).ring = [⟨9, [1, 2]⟩]) ∧
    (let s := State.reset.setGroup 7 { cache := List.range 1023, lo := 0, hi := 2050 }
     3072 < (s.group 7).count ∧ 1023 ≤ (s.group 7).cache.length) ∧
    (let s := State.reset.setGroup 7 { cache := [9], lo := 0, hi := 3072 }
     3072 < (s.group 7).count ∧ (s.group 7).cache.length < 1023 ∧ (s.group 7).ring = []) := by decide +kernel

theorem test_w_HeldQueues :
    (let s := withVoq (withFrame (upPort 0) (frameOf 64 true)) 4098 { head := [⟨0, 3, false⟩] }
     (s.voq 0 (4096 + 2)).head = [⟨0, 3, false⟩] ∧ (s.voq 0 4098).granted = 0 ∧ (s.voq 0 4098).crossing = none ∧ s.canTake 0 2 64 = true ∧
       s.canTake 1 2 64 = false ∧ s.anvilOpen = false ∧ (s.voq 0 4098).spill = false) ∧
    (let s := withVoq (withFrame State.reset (frameOf 64 true)) 4098 { head := [⟨0, 3, false⟩] }
     s.canTake 0 2 64 = false ∧ s.canTake 1 2 64 = false ∧ (s.voq 0 4098).ready = 0) ∧
    (let s := State.reset.fset F.portCfg_EN 1 0
     s.isUp 0 = false ∧ s.portEnabled 0 = true ∧ (s.np 0).downHeld = false) := by decide

theorem test_w_HeldQueues_takers :
    (let s := withVoq (withFrame (upPort 0) (frameOf 64 true)) 4098 { head := [⟨0, 3, false⟩] }
     s.takers 2 (s.frame 0 0).len (maskPorts 0 3) = [0] ∧ (State.reset).takers 2 64 (maskPorts 0 3) = [] ∧ s.isUp 0 = true ∧ s.tileOn 15 = true) := by decide

theorem test_w_CellsAndVerdicts :
    (let s := upPort 0
     s.isUp 0 = true ∧ s.tileOn (s.tileOf 0) = true ∧ s.rxFid (s.tileOf 0) 0 = none ∧ s.rxPauseEn 0 = false ∧
       s.lossless 0 (s.ipriOf 0 (List.replicate 64 7)) = false ∧ 0 < s.sharedFree 0 ∧ s.sharedUsed 0 0 < s.pgLimit 0 0 ∧
       (s.fset F.pgCfg2_LIMIT 0 0 0).pgLimit 0 0 = 0 ∧ (s.fset F.bpmStatus_FREE_CELLS 0 0).sharedFree 0 = 0) ∧
    (let s := withFrame ((upPort 0).setRx 0 0 1) { frameOf 64 false with m := { iport := 0 } }
     s.rxFid 0 0 = some 0 ∧ (s.frame 0 0).dead = none ∧ (s.frame 0 0).bad = false ∧ (s.frame 0 0).ct = false ∧ (s.frame 0 0).m.iport = 0 ∧
       64 + 1 ≤ 256 * (s.frame 0 0).cells.length ∧ 64 + 1 ≤ s.maxFrame 0 ∧ (s.fset F.maxFrame_BYTES 64 0).maxFrame 0 < 64 + 1) := by decide

theorem test_w_CellAtHand : CellAtHand (upPort 0) 0 ∧ CellAtHand ((upPort 0).setBuf 0 { freed := [7], fresh := 9 }) 0 :=
  ⟨.inr (by decide), .inl ⟨7, [], by decide⟩⟩

theorem test_w_CellsAndVerdicts_mac :
    ((upPort 0).rxCtl 0).isEmpty = true ∧ ((upPort 0).fset F.pfcCfg_RX_EN 1 0).rxPauseEn 0 = true ∧ (upPort 0).fecGood 0 [] = true ∧
    (let s := withFrame ((upPort 0).setRx 0 0 1) { frameOf 63 false with m := { iport := 0 } }
     (s.frame 0 0).rxLen + 1 ≤ s.maxFrame 0 ∧ 64 ≤ (s.frame 0 0).rxLen + 1 ∧ (s.frame 0 0).rxLen + 0 < 64) ∧
    (let s := State.reset.fset F.spareTile_UNUSABLE 1 0
     s.tileOn (s.tileOf 0) = false) := by decide

theorem test_w_GatesAndShapers :
    (let s := (((State.reset.fset F.gateCfg_GATE_EN 1 0).fset F.gateStatus_STARTED 1 0).wr .gcl (0x107#32) 0 0).wr .gcl (0x103#32) 0 1
     s.hz = false ∧ s.flag F.gateCfg_GATE_EN 0 = true ∧ s.flag F.gateStatus_STARTED 0 = true ∧
       s.fget F.gateStatus_CUR_ENTRY 0 + 1 < (s.operList 0).length ∧
       (({ s with time := { s.time with ns := 9 } } : State).np 0).cycle + entryStart (s.operList 0) 1 ≤ ({ s with time := { s.time with ns := 9 } } : State).ptpNs ∧
       (s.fset F.gateStatus_CUR_ENTRY 1 0).fget F.gateStatus_CUR_ENTRY 0 + 1 = (s.operList 0).length) ∧
    State.reset.flag F.gateCfg_GATE_EN 0 = false := by decide

theorem test_w_GatesAndShapers_clock : State.reset.tileOn (State.reset.tileOf 511) = true ∧
    (let s := State.reset.fset F.spareTile_UNUSABLE 1 15
     s.tileOn (s.tileOf 511) = false) := by decide

/-- A packet of frame 0 in tile 0 that is ready with a DROP disposition. -/
def readyPkt : Pkt := { iport := 0, stage := .ready, disp := some (.drop 0x0601) }

theorem test_w_ReorderRelease :
    (let s := State.reset.setPkt 0 0 (some readyPkt)
     s.oldestPkt 0 0 = some (0, readyPkt) ∧ readyPkt.stage = .ready ∧ (s.frame 0 0).dead = none) ∧
    State.reset.oldestPkt 0 0 = none ∧
    (State.reset.setPkt 0 0 (some { readyPkt with stage := .running })).oldestPkt 0 0 = some (0, { readyPkt with stage := .running }) := by decide

/-! ### Halo -/

/-- A valid flow entry in way 0 of tile 0, last seen at 0. -/
def flowState (fresh : Bool) : State := State.reset.setFlow 0 0 { valid := true, lastNs := 0, firstNs := 0, fresh := fresh, gen := 3 }
def atSec (s : State) (n : Nat) : State := { s with time := { s.time with sec := BitVec.ofNat 48 n } }

theorem test_w_FlowCache :
    (let s := (flowState false).setHt 0 { (flowState false).ht 0 with reports := [(0, 3, 99)] }
     (s.ht 0).reports = [(0, 3, 99)] ∧ (s.flow 0 0).valid = true ∧ ((s.fset F.flowCfg_EN 1).flag F.flowCfg_EN = true)) ∧
    (State.reset.flow 0 0).valid = false ∧
    ((flowState false).fset F.haloStatus_FLUSHING 1).flag F.haloStatus_FLUSHING = true ∧
    (let s := atSec (flowState false) 100
     s.flag F.haloStatus_FLUSHING = false ∧ (s.flow 0 0).lastNs + max 1 (s.fget F.flowTmo_IDLE_MS) * 1000000 < s.ptpNs) ∧
    (let s := (atSec (flowState false) 100).setFlow 0 0 { valid := true, lastNs := 100000000000, firstNs := 0 }
     ¬ (s.flow 0 0).lastNs + max 1 (s.fget F.flowTmo_IDLE_MS) * 1000000 < s.ptpNs ∧
       (s.flow 0 0).firstNs + max 1 (s.fget F.flowTmo_ACTIVE_S) * 1000000000 < s.ptpNs ∧ (s.flow 0 0).fresh = false) ∧
    ((flowState true).flow 0 0).fresh = true ∧
    (flowState true).flag F.flowCfg_EXPORT = true ∧ ((flowState true).fset F.flowCfg_EXPORT 0).flag F.flowCfg_EXPORT = false ∧
    ((flowState true).setHt 0 { (flowState true).ht 0 with exports := List.replicate 1024 (0, []) }).flow 0 0 = (flowState true).flow 0 0 ∧
    twf (fun _ => ({} : HaloTile)) State.reset.halo.tiles = true := by decide

theorem test_w_SamplesAndHistograms :
    State.reset.flag F.sampleCfg_EN 0 = false ∧
    (let s := State.reset.fset F.sampleCfg_EN 1 0
     s.flag F.sampleCfg_EN 0 = true ∧ s.tileOn 0 = true ∧ 3 ∈ s.tilePorts 0 ∧ (s.wr .histClass (0xFFFFFFFF#32) 3 32).rd .histClass 3 32 = 0xFFFFFFFF#32) := by
  decide

theorem test_w_CountersAndGroups :
    State.reset.fget F.grpCtl_OWNER 0 = 0 ∧ (State.reset.fset F.grpCtl_OWNER 2 0).fget F.grpCtl_OWNER 0 = 2 ∧
    State.reset.flag F.grpCtl_USER_EN 0 = false := by decide

/-! ### Rings, windows and DMA -/

/-- 32 bytes with OWN at 1, of which `l` are the first. -/
def descOf (l : List Byte) : List Byte := bytesAt l 0 31 ++ [0x80#8]
/-- Ring 7 of PF0 of a type, ACTIVE, of 64 entries at host address 0x10000, with T at 32. -/
def ringAct (ty : Nat) : State :=
  ((State.reset.fset F.ringOwner_TYPE ty 7).fset F.ringStatus_STATE 1 7).fset F.ringTail_IDX 32 7 |>.wrw .ringBase (0x10000#64) 7
def fetchedOf (s : State) (d : List Byte) : State := s.putRing 7 { s.ring 7 with fetched := [(0, d)] }
/-- The first bytes of a TX entry: 64 bytes at 0x5000, of port 0, mode `m`. -/
def txDesc (m : Nat) : List Byte := leBytes 8 0x5000 ++ leBytes 2 64 ++ leBytes 2 0 ++ leBytes 1 (8 * m)

theorem test_w_RingEnable :
    (let s := State.reset.fset F.ringOwner_TYPE 5 7
     s.ringState 7 = 0 ∧ s.ringRightOk 7 = true ∧ s.hostOk 0 0 (32 * 2 ^ 6) false = true ∧ s.hostOk 0 0 (32 * 2 ^ 6) true = true ∧
       (s.wr .hwinW3 0 0 0).hostOk 0 0 (32 * 2 ^ 6) true = false ∧ s.flag F.fnStatus_FROZEN 0 = false) ∧
    State.reset.ringRightOk 7 = false ∧ (ringAct 5).ringState 7 ≠ 0 := by decide

theorem test_w_DoorbellAndInvalidate :
    (State.reset.fset F.fnStatus_FROZEN 1 0).flag F.fnStatus_FROZEN 0 = true ∧ State.reset.ringOwnerOf 7 ≠ 1 ∧ State.reset.ringState 7 ≠ 1 ∧
    (let s := ringAct 5
     s.ringOwnerOf 7 = 0 ∧ s.ringState 7 = 1 ∧ s.flag F.fnStatus_FROZEN 0 = false ∧ s.ringSize 7 = 64 ∧ s.ringN 7 = 32 ∧
       (40 + 2 * 64 - s.ringT 7) % (2 * 64) ≤ 64 - s.ringN 7 ∧ 64 - s.ringN 7 < (20 + 2 * 64 - s.ringT 7) % (2 * 64)) ∧
    (State.reset.ring 7).invBusy = false := by decide

theorem test_w_DescriptorsStart :
    (let s := ringAct 1
     s.ringState 7 = 1 ∧ s.blocked (s.ringOwnerOf 7) = false ∧ min (32 - (s.ring 7).fetched.length) (s.ringN 7 - 0) ≠ 0 ∧
       s.hostOk 0 (s.entryAddr 7 0) 32 false = true ∧ (s.wr .ringTail 0 7).ringN 7 = 0) ∧
    (let s := fetchedOf (ringAct 1) (descOf (txDesc 0))
     (s.ring 7).fetched = [(0, descOf (txDesc 0))] ∧ OwnSet (descOf (txDesc 0)) ∧ s.ringTypeOf 7 = 1 ∧ s.fget F.ringStatus_HOLD 7 < 64 ∧
       s.hostOk 0 0x5000 64 false = true ∧ (s.fset F.ringStatus_HOLD 64 7).fget F.ringStatus_HOLD 7 = 64) ∧
    ¬ OwnSet (txDesc 0) ∧ 2 ≤ byteAt (descOf (txDesc 2)) 12 / 8 % 4 ∧
    (let d := descOf (leBytes 4 5)
     (fetchedOf (ringAct 3) d).teCheck (teOpOf (leNat (bytesAt d 0 4)) 0 []).op 0 0 = none ∧
       ((fetchedOf (ringAct 3) d).teCheck 1 0 0).isSome = true) ∧
    (let s := (fetchedOf (ringAct 7) (descOf (leBytes 8 0x4000))).fset F.chOwner_VALID 1 0
     s.chOwned 0 0 = true ∧ s.fget F.chStatus_STATE 0 = 0 ∧ (s.fset F.chStatus_STATE 1 0).fget F.chStatus_STATE 0 ≠ 0 ∧ s.ringSize 7 ≤ 65536 ∧
       s.hostOk 0 (s.entryAddr 7 0) 32 true = true ∧ (ringAct 7).chOwned 0 0 = false) := by decide

theorem test_w_TxBufferRead :
    (let s := (ringAct 1).setRing 7 { (ringAct 1).ring 7 with started := [{ pos := 0, desc := descOf (txDesc 0) }] }
     s.ringTypeOf 7 = 1 ∧ (s.ring 7).started.find? (fun x => !x.read) = some { pos := 0, desc := descOf (txDesc 0) } ∧ s.tileOn (s.tileOf 0) = true ∧
       s.portEnabled 0 = false) ∧
    byteAt (descOf (txDesc 0)) 12 / 8 % 4 = 0 ∧ byteAt (descOf (txDesc 1)) 12 / 8 % 4 ≠ 0 ∧
    (let s := State.reset.fset F.portCfg_EN 1 0
     s.portEnabled 0 = true ∧ s.fget F.portStatus_STATE 0 ≠ 8) := by decide

theorem test_w_CompletionAndEventWrites :
    (let s := (ringAct 6).putRing 7 { (ringAct 6).ring 7 with fetched := [(0, descOf [])], ready := [⟨9, 3, 1, 0, 5, 0, 68⟩], events := [⟨1, 2, 3, false⟩] }
     s.ringState 7 = 1 ∧ s.blocked (s.ringOwnerOf 7) = false ∧ (s.ring 7).fetched = [(0, descOf [])] ∧ OwnSet (descOf []) ∧ s.ringSize 7 ≤ 65536 ∧
       s.hostOk 0 (s.entryAddr 7 (s.ringH 7)) 32 true = true ∧ (s.ring 7).ready = [⟨9, 3, 1, 0, 5, 0, 68⟩] ∧ (s.ring 7).events = [⟨1, 2, 3, false⟩] ∧
       s.fget F.ringStatus_HOLD 9 ≤ 64) ∧
    (State.reset.ring 7).fetched = [] := by decide

theorem test_w_TelemetryBuffers :
    (let s0 := (ringAct 4).setHt 0 { (ringAct 4).ht 0 with exports := [(7, [1, 2, 3])] }
     let s := s0.setRing 7 { s0.ring 7 with started := [{ pos := 0, desc := descOf (leBytes 8 0x5000 ++ leBytes 4 4096) }], capBytes := 96, capRecords := 1 }
     s.ringState 7 = 1 ∧ s.ringTypeOf 7 = 4 ∧ s.blocked (s.ringOwnerOf 7) = false ∧ (s.nextRec 7).isSome = true ∧ (s.ring 7).capRecords ≠ 0 ∧
       (s.ring 7).capBytes + 3 ≤ leNat (bytesAt (descOf (leBytes 8 0x5000 ++ leBytes 4 4096)) 8 4) ∧
       s.hostOk (s.ringOwnerOf 7) (s.entryAddr 7 0) 32 true = true) ∧
    (ringAct 4).nextRec 7 = none ∧ ((ringAct 4).ring 7).started = [] ∧ ((ringAct 4).ring 7).capRecords = 0 := by decide

theorem test_w_FunctionReset :
    State.reset.ringOwnerOf 7 = 0 ∧ State.reset.ringOwnerOf 7 ≠ 1 ∧ (State.reset.fset F.chOwner_VALID 1 0).chOwned 0 0 = true ∧
    State.reset.chOwned 0 0 = false ∧ State.reset.flag F.fnStatus_FLR_BUSY 0 = false ∧
    (State.reset.fset F.fnStatus_FLR_BUSY 1 0).flag F.fnStatus_FLR_BUSY 0 = true ∧ (State.reset.ring 7).flips = 0 ∧
    (let s := ((ringAct 5).fset F.ringIrq_EN 1 7).setRing 7 { (ringAct 5).ring 7 with flips := 2 }
     (s.ring 7).flips ≠ 0 ∧ s.flag F.ringIrq_EN 7 = true ∧ s.blocked (s.ringOwnerOf 7) = false ∧
       s.fget F.ringIrq_VECTOR 7 < vectorsOf (s.ringOwnerOf 7) ∧ (s.rd .msixTable 0 (4 * 0 + 3)).getLsbD 0 = true ∧
       ((s.wr .msixTable 0 0 3).rd .msixTable 0 (4 * 0 + 3)).getLsbD 0 = false) := by decide

/-- Channel 0 of PF0 in a state, with windows 0 over host memory from 0x4000 on. -/
def chSt (st : Nat) : State :=
  ((((State.reset.fset F.chOwner_VALID 1 0).fset F.chStatus_STATE st 0).wr .chWinW0 (0x4000#32) 0 0).wr .chWinW2 (64#32) 0 0).wr .chWinW3 (0xC#32) 0 0

theorem test_w_ChannelCommands :
    (∀ st : Fin 7, (chSt st).fget F.chStatus_STATE 0 = st) ∧ ((chSt 3).dmaCh 0).buf = [] ∧ (chSt 0).chOwned 0 0 = true ∧
    (∀ k : ChIx, State.reset.chOwned 0 k = false) := by decide

/-- Instruction bytes from their first eight-byte words (R407's own example). -/
def insOf (q0 q1 q2 : Nat) : List Byte := leBytes 8 q0 ++ leBytes 8 q1 ++ leBytes 8 q2 ++ leBytes 8 0

theorem test_w_ProgramInstructions :
    (let s := chSt 1
     s.chIdle 0 = true ∧ s.fetchOk 0 = true ∧ (chSt 0).chIdle 0 = false ∧ ((s.wr .hwinW3 0 0 0).fetchOk 0) = false ∧
       s.insAt 0 (insOf 0x1201 0x3008000 0x1040001000) = .move 2 0 true false false 0 0x3008000 0x1040001000 ∧
       s.insAt 0 (insOf 0x40000006201 0 0) = .move 2 0 false true true 1024 0 0 ∧
       s.insAt 0 (insOf 0x1000010002 0x5FC00 0) = .loop 0 1 16 0x5FC00 0 ∧
       s.insAt 0 (insOf 0x0503 0 0) = .wait 5 false 0 ∧ s.insAt 0 (insOf 0x0404 0x1040005000 1) = .signal 0 true 0x1040005000 1 ∧
       s.insAt 0 (insOf 5 0 0) = .endp 0 0 0 ∧ s.insAt 0 (insOf 9 0 0) = .illegal ∧
       s.chAccess 0 0 0x4008 8 true = 0 ∧ s.chAccess 0 0 0x3000 8 true ≠ 0 ∧ s.dmaLine 0 5 = false ∧
       ((s.dmaPulse 5).dmaLine 0 5 = true) ∧ s.ringOwnerOf 0 = s.chFn 0 ∧ (s.fset F.ringOwner_OWNER 1 0).ringOwnerOf 0 ≠ s.chFn 0) ∧
    (let s := (chSt 1).wrw .chPc (0x4040#64) 0
     ¬ (s.rdw .chPc 0).toNat < (s.dmaCh 0).progBase + 32 * 1 ∧ ((chSt 1).rdw .chPc 0).toNat < ((chSt 1).dmaCh 0).progBase + 32 * 1) ∧
    (let s := (chSt 2).setDmaCh 0 { cur := some (.wait 5 false 7) }
     (s.dmaCh 0).cur = some (.wait 5 false 7) ∧ s.fget F.chStatus_STATE 0 = 2 ∧ s.dmaLine 0 5 = false ∧ (s.dmaPulse 5).dmaLine 0 5 ≠ false) := by
  decide

theorem test_w_ReadsAndBeats :
    (let s0 := (((chSt 1).wrw .chSrc (0x4000#64) 0).wrw .chDst (0x4100#64) 0).wr .chLen (64#32) 0
     let s := s0.setDmaCh 0 { cur := some (.move 0 0 false true true 64 0x4000 0x4100) }
     let b := s.setDmaCh 0 { s.dmaCh 0 with buf := List.replicate 64 7 }
     (s.dmaCh 0).cur = some (.move 0 0 false true true 64 0x4000 0x4100) ∧ s.flag F.chStatus_DOWN 0 = false ∧ s.fget F.chStatus_STATE 0 = 1 ∧
       s.chAccess 0 0 0x4000 64 false = 0 ∧ s.chAccess 0 0 0x3000 64 false ≠ 0 ∧ s.beatOf 0 = none ∧ b.beatOf 0 = some (0, 0, 0x4000, 0x4100, 64) ∧
       s.chAccess 0 0 0x4100 64 true = 0 ∧ s.chAccess 0 0 0x40000 64 true ≠ 0) ∧
    (∀ k : ChIx, State.reset.beatOf k = none) := by decide

/-- After READY. -/
def readyState : State := State.reset.fset F.dawnStatus_READY 1

theorem test_w_Bar0Accesses :
    (readyState.flag F.dawnStatus_READY = true ∧ readyState.flag F.fnStatus_FROZEN 2 = false ∧ readyState.leave 2 0x500000 = .violates ∧
      readyState.leave 1 0x440000 = .foreign ∧ readyState.hasRight 2 3 = true ∧ State.reset.flag F.dawnStatus_READY = false) ∧
    (locate 0x3600018 = some (.epochNum, 0, 0, false) ∧ locate 0x360001C = some (.epochNum, 0, 0, true) ∧ (regInfo .epochNum).wide = true ∧
      readyState.hidden 1 0x3600018 = false ∧ readyState.hidden 1 0x360001C = false) := by decide

theorem test_w_Bar0_leaves :
    readyState.leave 3 0x100000 = .violates ∧ locate 0x3FFFFFC = none ∧ readyState.leave 3 0x3FFFFFC ≠ .yes ∧ (locate 0x500000).isSome = true ∧
    readyState.leave 2 0x500000 = .violates ∧ (locate 0x440000).isSome = true ∧ readyState.leave 1 0x440000 = .foreign ∧
    readyState.leave 0 0x3600018 = .yes ∧ readyState.leave 0 0x360001C = .yes ∧ (0x7FF : Nat) % 8 ≠ 0 ∧ (16 : Nat) ≠ 4 ∧
    (let s := readyState
     s.leave 0 0x300020 = .yes ∧ s.leave 0 0x300024 = .yes) := by decide

/-- PF1 with the telemetry right, after READY. -/
def telState : State := readyState.wr .fnRights 0x1F 1

theorem test_w_Counters_rights :
    MayWrite readyState 0 3 ∧ MayWrite telState 1 3 ∧ MayWrite readyState 0 4 ∧ telState.hasRight 2 3 = telState.hasRight 2 3 ∧
    (let s := readyState.wr .fnRights 0 1
     s.hasRight 1 3 = false ∧ s.hasRight 1 4 = false ∧ s.flag F.fnStatus_FROZEN 1 = false ∧ (s.fset F.fnStatus_FROZEN 1 1).flag F.fnStatus_FROZEN 1 = true) ∧
    (telState.fget F.grpCtl_OWNER 0 ≠ (1 : FnIx).val ∧ (telState.fset F.grpCtl_OWNER 1 255).fget F.grpCtl_OWNER 255 = (1 : FnIx).val) ∧
    (readyState.fget F.grpCtl_OWNER 0 = (0 : FnIx).val ∧ bits (2#32).toNat 1 0 ≠ readyState.fget F.grpCtl_OWNER 0 ∧
      bits (4#32).toNat 1 0 = readyState.fget F.grpCtl_OWNER 0) ∧
    ((0 : FnIx).val ≠ (telState.fset F.grpCtl_OWNER 1 255).fget F.grpCtl_OWNER 255 ∧
      bits (1#32).toNat 1 0 = (telState.fset F.grpCtl_OWNER 1 255).fget F.grpCtl_OWNER 255) ∧
    readyState.tileOn 15 = true ∧ (readyState.fset F.spareTile_UNUSABLE 1 15).tileOn 15 = false ∧ State.reset.flag F.dawnStatus_READY = false := by
  refine ⟨⟨by decide, by decide, by decide⟩, ⟨by decide, by decide, by decide⟩, ⟨by decide, by decide, by decide⟩, ?_⟩
  decide

theorem test_w_RingEnable_cases :
    (let s := readyState.fset F.ringOwner_TYPE 5 1023
     s.ringState 1023 = 0 ∧ s.flag F.dawnStatus_READY = true ∧ s.flag F.fnStatus_FROZEN (s.ringOwnerOf 1023) = false ∧ s.ringRightOk 1023 = true ∧
       s.ringTypeOf 1023 = 5 ∧ bits (6#32).toNat 4 0 = 6 ∧ bits (16#32).toNat 4 0 = 16 ∧ bits (17#32).toNat 4 0 = 17 ∧
       s.hostOk 0 0 (32 * 2 ^ 16) false = true ∧ s.hostOk 0 0 (32 * 2 ^ 16) true = true ∧ (s.wr .hwinW3 0 0 0).hostOk 0 0 (32 * 2 ^ 6) true = false) := by
  decide

theorem test_w_Doorbells_ready :
    (let s := (ringAct 5).fset F.dawnStatus_READY 1
     s.flag F.dawnStatus_READY = true ∧ s.flag F.fnStatus_FROZEN 0 = false ∧ s.ringOwnerOf 7 = 0 ∧ s.ringState 7 = 1 ∧ s.ringState 8 ≠ 1 ∧
       s.ringOwnerOf 7 ≠ 1 ∧ s.flag F.fnStatus_FROZEN 1 = false ∧ (63 : Nat) < s.ringSize 7 ∧ s.ringSize 7 ≤ 64) := by decide

theorem test_w_Descriptors_windows :
    (let s := (ringAct 1).wr .ringTail 33 7
     min (32 - (s.ring 7).fetched.length) (s.ringN 7 - 0) = 32 ∧ (∀ k, k < 32 → s.hostOk 0 (s.entryAddr 7 (s.ringH 7 + k)) 32 false = true)) ∧
    (let s := (ringAct 1).wr .hwinW3 0 0 0
     s.ringState 7 = 1 ∧ s.blocked (s.ringOwnerOf 7) = false ∧ s.hostOk 0 (s.entryAddr 7 (s.ringH 7 + 0)) 32 false = false ∧
       min (32 - (s.ring 7).fetched.length) (s.ringN 7 - 0) ≠ 0) ∧
    State.reset.unusableBlk 4 = false ∧ ({ State.reset with boot := { State.reset.boot with unusable := 16 } }).unusableBlk 4 = true ∧
    (let s := fetchedOf ((ringAct 2).wr .ringTail 0 7) []
     (s.ring 7).fetched.length = 1) := by decide

theorem test_w_Programs_viol :
    ((chSt 1).dmaCh 0).viol = none ∧ (chSt 1).unusableBlk 4 = false ∧
    (let s := chSt 1
     s.insAt 0 (insOf 0x0404 0x1040005000 1) = .signal 0 true 0x1040005000 1 ∧ 0x1040005000 % 8 = 0 ∧ 0x4004 % 8 ≠ 0 ∧
       s.hasRight (s.chFn 0) 1 = true ∧ (s.wr .fnRights 0 0).hasRight 0 1 = false) := by decide

theorem test_w_clock_usable : State.reset.unusableBlk 5 = false ∧ State.reset.unusableBlk 6 = false ∧
    ({ State.reset with boot := { State.reset.boot with unusable := 64 } }).unusableBlk 6 = true := by decide

def trigSt (mode next : Nat) : State :=
  (State.reset.fset F.trigStatus_ARMED 1 3).setTrig 3 { mode := mode, start := 0, period := 1000, next := next, late := false }

theorem test_w_ClockAndSteps :
    State.reset.time.ns < 1000000000 ∧ State.reset.time.steps = [] ∧
    (let s := State.reset.adjCmd 1
     s.time.steps = [.set 0 0 0]) ∧
    (let s := (State.reset.wrw .adjOff (-5#64)).adjCmd 2
     s.time.steps = [.add (2 ^ 64 - 5)] ∧ (s.ptpNs : Int) + toSigned 64 (2 ^ 64 - 5) < 0 ∧ (0 : Int) ≤ (s.ptpNs : Int) + toSigned 64 7) ∧
    (let s := State.reset.fset F.dawnStatus_READY 1
     s.hidden 0 0x300014 = false ∧ s.hidden 0 0x300018 = false ∧ s.hidden 0 0x30001C = false) := by decide

theorem test_w_StepsAndTriggers :
    (let s : State := { trigSt 2 1000 with time := { (trigSt 2 1000).time with steps := [.set 1 0 0] } }
     s.time.steps = .set 1 0 0 :: [] ∧ s.flag F.trigStatus_ARMED 3 = true ∧ (s.trig 3).mode = 2 ∧ 0 < (s.trig 3).period ∧
       s.flag F.trigStatus_ARMED 4 = false) ∧
    (let s : State := { trigSt 1 0 with time := { (trigSt 1 0).time with steps := [.set 1 0 0] } }
     (s.trig 3).mode = 1 ∧ clockOf s ≤ (s.trig 3).start * 2 ^ 32 ∧ (s.trig 3).start * 2 ^ 32 < clockOf (s.setClock 1000000000 0)) := by decide

theorem test_w_TriggersFire :
    State.reset.trigDue 3 = false ∧ (trigSt 1 0).trigDue 3 = true ∧ (trigSt 2 0).trigDue 3 = true ∧ (trigSt 2 1000).trigDue 3 = false ∧
    (let s := (((trigSt 2 0).fset F.ppsCfg_EN 1).fset F.ppsCfg_TRIG 3).fset F.socCfg_EN 1
     s.flag F.ppsCfg_EN = true ∧ s.fget F.ppsCfg_TRIG = 3 ∧ s.fget F.socCfg_TRIG ≠ 3 ∧ (s.fset F.socCfg_TRIG 3).fget F.socCfg_TRIG = 3 ∧
       ((s.fset F.epochCfg_EN 1).fset F.epochCfg_TRIG 3).fget F.epochCfg_TRIG = 3 ∧ s.flag F.epochCfg_EN = false) := by decide

theorem test_w_CaptureUnits :
    (let s := State.reset.fset F.capCfg_EN 1 2
     s.flag F.capCfg_EN 2 = true ∧ s.flag F.capCfg_SRC 2 = false ∧ bitAt (s.fget F.capCfg_EDGE 2) 0 = true ∧ (s.fifo 2).length < 16 ∧
       16 ≤ ((s.setFifo 2 (List.replicate 16 ⟨0, 0, 0⟩)).fifo 2).length ∧ s.fifo 2 = [] ∧
       (s.setFifo 2 [⟨1, 2, 3⟩]).fifo 2 = ⟨1, 2, 3⟩ :: []) ∧
    State.reset.flag F.capCfg_EN 2 = false := by decide

def coreOnSt (op : Nat) : State := { State.reset.fset F.pwrStatus_CUR_OP op with power := { coreOn := true } }

theorem test_w_PowerWindow :
    State.reset.power.coreOn = false ∧
    (let s := coreOnSt 0
     s.hz = false ∧ s.power.coreOn = true ∧ s.flag F.pwrStatus_CAP_UNMET = false ∧ s.curOp = 0 ∧ s.otherDemand = 0 ∧
       520 ≤ min (max 1 (min 1600 (s.fget F.pcap_WATTS))) (min 1600 (48000 * 40 / 1000)) ∧
       max 0 (s.fset F.pwrCfg_OP_MAX 3).otherDemand = 3) ∧
    (let s := coreOnSt 4
     max 4 s.otherDemand = 4 ∧ max 3 s.otherDemand = 3 ∧ s.flag F.pwrStatus_TRANSITION = false ∧
       (s.fset F.pwrStatus_TRANSITION 1).flag F.pwrStatus_TRANSITION = true) := by decide

theorem test_w_Transitions :
    State.reset.power.up = none ∧ State.reset.flag F.pwrStatus_TRANSITION = false ∧
    (State.reset.fset F.pwrStatus_TRANSITION 1).flag F.pwrStatus_TRANSITION = true ∧
    (let s := { coreOnSt 4 with power := { (coreOnSt 4).power with up := some 3, settling := true } }
     s.power.up = some 3 ∧ s.power.settling = true ∧ s.hz = false) := by decide

theorem test_w_CapUnmetAndLimiter :
    (let s := coreOnSt 7
     s.hz = false ∧ s.power.coreOn = true ∧ s.flag F.pwrStatus_CAP_UNMET = false ∧ s.capEff 9000 < 520 ∧ 520 ≤ s.capEff 13000 ∧ s.curOp = 7 ∧
       s.capEff 13000 < 600 ∧ s.fget F.pwrCfg_GRACE_MS ≠ 0 ∧ (s.fset F.pwrCfg_GRACE_MS 0).fget F.pwrCfg_GRACE_MS = 0 ∧
       s.flag F.pwrCfg_UNMET_ACT = false ∧ (s.fset F.pwrCfg_UNMET_ACT 1).flag F.pwrCfg_UNMET_ACT = true ∧ s.power.grace = false ∧
       s.flag F.pwrStatus_LIMIT_HOLD = false ∧ (s.fset F.pwrStatus_LIMIT_HOLD 1).flag F.pwrStatus_LIMIT_HOLD = true ∧
       (s.squall.flight.filter (fun m => decide (m.source = srcPwr))).length < 4) ∧
    (let s := { (coreOnSt 7).fset F.pwrStatus_CAP_UNMET 1 with power := { (coreOnSt 7).power with grace := true } }
     s.flag F.pwrStatus_CAP_UNMET = true ∧ s.power.grace = true ∧ s.power.coreOn = true) := by decide

theorem test_w_CapUnmet_stays :
    (let s := (coreOnSt 7).fset F.pwrStatus_CAP_UNMET 1
     s.flag F.pwrStatus_CAP_UNMET = true ∧ s.power.grace = false ∧ s.hz = false ∧ s.power.coreOn = true ∧ s.unusableBlk 6 = false) := by decide

theorem test_w_SensorsAndTrip :
    (let s := (State.reset.fset F.temp_VALID 1 5).fset F.temp_DEG_C 104 5
     s.flag F.temp_VALID 5 = true ∧ toSigned 8 (s.fget F.temp_DEG_C 5) = 104 ∧ min 105 (s.fget F.thermCfg_CRIT_C) = 105 ∧
       min (s.fget F.thermCfg_THROTTLE_C) 105 = 100 ∧ s.hz = false ∧ s.fget F.vcore_BAND = 0 ∧
       (s.fset F.vcore_BAND 6).fget F.vcore_BAND = 6) ∧
    (State.reset.squall.flight.filter (fun m => decide (m.source = srcThermal))).length < 4 := by decide

theorem test_w_ConversionsAndHours :
    State.reset.flag F.socStatus_BUSY = false ∧ (State.reset.fset F.socStatus_BUSY 1).flag F.socStatus_BUSY = true ∧
    State.reset.boot.vinValid = true ∧ State.reset.fget F.vcore_AGE_COL ≤ 4 ∧
    ({ State.reset with boot := { State.reset.boot with vinValid := false } }).boot.vinValid = false := by decide

def bootAt (st : Nat) : State := { State.reset with boot := { State.reset.boot with inrush := true, rootLocked := st != 1, stage := st } }
def readySt : State := State.reset.fset F.dawnStatus_READY 1

theorem test_w_ResetRequests :
    (let s : State := { readySt with boot := { readySt.boot with pressed := true, serviceCore := true } }
     s.boot.vinValid = true ∧ s.boot.pressed = true ∧ s.boot.serviceCore = true ∧ s.flag F.dawnStatus_READY = true ∧
       s.flag F.fnStatus_FROZEN 1 = false ∧ (s.hasRight 1 0 = true ∨ s.hasRight 1 0 = false) ∧
       (s.wr .fnRights 0 1).hasRight 1 0 = false ∧ (s.wr .fnRights 1 1).hasRight 1 0 = true) ∧
    State.reset.boot.pressed = false ∧ State.reset.boot.serviceCore = false ∧ State.reset.flag F.dawnStatus_READY = false ∧
    ({ State.reset with boot := { State.reset.boot with vinValid := false } }).boot.vinValid = false := by decide

theorem test_w_ResetsKeepAndClear :
    State.reset.boot.resetDue = false ∧ (State.reset.requestReset 2 0).boot.resetDue = true ∧ (State.reset.requestReset 2 0).boot.vinValid = true ∧
    (State.reset.wr .reactCfg 0x80000000#32 2).flag F.reactCfg_LOCK 2 = (State.reset.wr .reactCfg 0x80000000#32 2).flag F.reactCfg_LOCK 2 ∧
    (State.reset.fset F.reactCfg_LOCK 1 2).flag F.reactCfg_LOCK 2 = true ∧ State.reset.flag F.reactCfg_LOCK 2 = false ∧
    (bootAt 7).boot.stage ≠ 1 ∧ ({ State.reset with boot := { State.reset.boot with vinValid := false } }).boot.vinValid = false := by decide

theorem test_w_PerstScope : State.reset.boot.vinValid = true := by decide

/-- The first bytes of two slots read as other than the header's magic number, slot B's SEQ as later. -/
def badSlots : State :=
  let s := bootAt 2
  { s with boot := { s.boot with flash := flashPut (flashPut [] 0 (List.replicate 12 0)) 0x400000 ((List.replicate 8 0) ++ [1, 0, 0, 0]) } }

theorem test_w_DawnToStepFive :
    ({ State.reset with boot := { State.reset.boot with vinValid := false } }).boot.vinValid = false ∧ State.reset.boot.vinValid = true ∧
    State.reset.boot.inrush = false ∧ (bootAt 1).boot.inrush = true ∧ (bootAt 1).boot.stage = 1 ∧ (bootAt 2).dawnAt 2 = true ∧
    State.reset.dawnAt 2 = false ∧ (bootAt 3).dawnAt 3 = true ∧ (bootAt 3).dawnAt 4 = false ∧ (bootAt 4).dawnAt 4 = true ∧
    (bootAt 4).dawnAt 3 = false ∧ (7 : Fin 128).val % 16 ≠ 0 ∧ (64 : Fin 128).val % 16 = 0 := by decide

theorem test_w_bootSlots : badSlots.dawnAt 2 = true ∧ badSlots.arbBlow.slotCheck 0 = none ∧ badSlots.arbBlow.slotCheck 1 = none := by decide

theorem test_w_DawnToReady :
    (bootAt 5).dawnAt 5 = true ∧ (bootAt 5).hz = false ∧ (bootAt 6).dawnAt 5 = false ∧ (bootAt 6).dawnAt 6 = true ∧ (bootAt 6).noForward = false ∧
    (bootAt 6).rd .spareXlink 0 = 0#32 ∧ (bootAt 6).hz = false ∧ (13000 : Nat) ≤ (48000 : Fin 65536).val ∧ (bootAt 6).tileOn 3 = true ∧
    ((bootAt 6).fset F.dawnStatus_HORIZON 1).hz = true ∧ (bootAt 6).fget F.dawnStatus_HZ_CAUSE = 0 ∧ (bootAt 7).dawnAt 7 = true ∧
    (bootAt 7).dawnAt 6 = false ∧ (bootAt 6).dawnAt 7 = false := by decide

theorem test_w_FlashOperations :
    (let s := State.reset
     s.flag F.flashStatus_BUSY = false ∧ s.fget F.flashAddr_V = 0 ∧ s.boot.romFirmware = false ∧ s.boot.flashOp = none ∧
       (s.fset F.flashAddr_V 0x400000).fget F.flashAddr_V = 0x400000 ∧ (s.fset F.flashAddr_V 5).fget F.flashAddr_V % 256 ≠ 0 ∧
       (s.fset F.flashStatus_BUSY 1).flag F.flashStatus_BUSY = true) ∧
    ({ State.reset with boot := { State.reset.boot with flashOp := some ⟨2, 0, 0, [1]⟩ } }).boot.flashOp = some ⟨2, 0, 0, [1]⟩ := by decide

def msgOf (src kind sev : Nat) : Msg := ⟨src, kind, sev, 0, 0, false, none⟩
def inFlight (l : List Msg) : State := { State.reset with squall := { State.reset.squall with flight := l } }
def sliceAt (d : Nat) (x : Slice) : State := State.reset.setSlice d (some x)
/-- Pipe 3 of tile 0 under a slice, the spare standing in for it. -/
def pipeSlice : State := ((sliceAt 0 { cls := 0, index := 3 }).setRole 0 3 3 0).setRole 0 8 2 3

theorem test_w_FaultDetection :
    (kindsOf 0).contains 0x30 = false ∧ (kindsOf 0x425).contains 4 = true ∧ (kindsOf 0x205).contains 3 = true ∧ (kindsOf 0x205).contains 2 = true ∧
    (kindsOf 0x401).contains 0x0C = true ∧ (kindsOf 0x410).contains 0x0A = true ∧ (kindsOf 0x47F).contains 0x0F = true ∧
    (kindsOf 0x44F).contains 0x13 = true ∧ (kindsOf 0x802).contains 1 = true ∧
    ((inFlight []).squall.flight.filter (fun m => decide (m.source = 0x205))).length < 4 ∧
    4 ≤ ((inFlight (List.replicate 4 (msgOf 0x205 2 0))).squall.flight.filter (fun m => decide (m.source = 0x205))).length ∧
    State.reset.fget F.portStatus_STATE 5 = 0 ∧
    (let s := (State.reset.fset F.portCfg_EN 1 5).fset F.portStatus_STATE 5 5
     s.fget F.portStatus_STATE 5 ∉ [0, 9] ∧ s.portOfLane 5 = some (5, 1)) ∧
    State.reset.fget F.spareTile_XLINK_LEFT 15 ≠ 0 := by decide

theorem test_w_FaultDetection_units :
    (kindsOf 0x41F).contains 0x0B = true ∧ ((inFlight []).fset F.bpmCtl_DF_REPORT 0 15).flag F.bpmCtl_DF_REPORT (0x41F % 16) = false ∧
    ((inFlight []).fset F.bpmCtl_DF_REPORT 1 15).flag F.bpmCtl_DF_REPORT (0x41F % 16) = true ∧ (kindsOf 0x4A0).contains 1 = true ∧
    (kindsOf 0x4A0).contains 3 = true ∧ (kindsOf 0x1FF).contains 1 = true ∧ (kindsOf 0x42F).contains 5 = true ∧ (kindsOf 0x42F).contains 6 = true ∧
    (kindsOf 0x43F).contains 7 = true ∧ (kindsOf 0x460).contains 0x0D = true ∧ (kindsOf 0x47F).contains 0x0E = true ∧
    (kindsOf 0x47F).contains 1 = true ∧ (inFlight []).fget F.spareAnvil_PAGES_RETIRED (0x47F - 0x460) < 16384 ∧
    tidKind ((inFlight []).namedTid 0x17 5) = 1 ∧
    (let s := (inFlight []).emSet 5 (some (emE 7 true true))
     s.emAt 5 = some (emE 7 true true) ∧ (emE 7 true true).p0 = (emE 7 true true).p1) ∧ (portAt 5 5 0).portOfLane 5 = some (5, 1) := by decide

theorem test_w_SquallAcceptance :
    (inFlight []).squall.flight = [] ∧ (inFlight [msgOf 0x801 0x33 3]).nextMsg = some (msgOf 0x801 0x33 3) ∧
    (inFlight [msgOf 0x440 0x14 3]).nextMsg = some (msgOf 0x440 0x14 3) ∧ (inFlight []).tileOn 0 = true ∧ tget (inFlight []).squall.blockReset 0 0 = 0 ∧
    (inFlight []).fget F.sqCtl_LATCH_SEV = 1 ∧ (inFlight []).flag F.sqStatus_FIRST_VALID = false ∧
    ((inFlight []).fset F.sqStatus_FIRST_VALID 1).flag F.sqStatus_FIRST_VALID = true ∧ sevOf 0x205 2 < 1 ∧ sevOf 0x802 1 = 4 ∧
    (∀ i : Fin 6, bitAt ((inFlight []).fget F.reactCfg_ACT i) 4 = decide (i ≠ 5)) ∧ bitAt ((inFlight []).fget F.reactCfg_ACT 1) 1 = true ∧
    bitAt ((inFlight []).fget F.reactCfg_ACT 2) 3 = true ∧ bitAt ((inFlight []).fget F.reactCfg_ACT 5) 2 = true ∧
    (let s := (inFlight [msgOf 0x446 0x14 3]).startMask (tileMask 6) (srcTile 6)
     ∃ k ∈ s.squall.masks, (msgOf 0x446 0x14 3).own ≠ some k.id ∧ k.lo ≤ 0x446 ∧ 0x446 ≤ k.hi ∧ (k.kind = none ∨ k.kind = some 0x14)) := by
  decide

theorem test_w_BlockResets :
    (let s := State.reset.tileReset 0 (2 ^ 32 + 3)
     tget s.squall.blockReset 0 0 = 1 ∧ ((s.runningIn 0).any (fun e => e.2.thread.committed) || (s.buf 0).voqs.any (fun v => v.2.crossing.isSome)) = false ∧
       tget s.squall.blockPipe 0 0 = 3 + 1 ∧ s.fget F.pipeStatus_ROLE 0 8 = 1 ∧ s.fget F.pipeStatus_ROLE 0 3 = 0) ∧
    tget ({ State.reset with squall := { State.reset.squall with blockReset := [(0, 2)] } }).squall.blockReset 0 0 = 2 ∧
    tget State.reset.squall.blockReset 0 0 ≠ 1 ∧ State.reset.squall.privReset.contains (0x800 + 3) = false ∧
    ((State.reset.privReset 3).squall.privReset.contains (0x800 + 3)) = true ∧
    (let s := State.reset.startMask [(5, 5, none)] 0
     s.squall.masks = [] ++ (⟨0, 5, 5, none, 0⟩ : Mask) :: [] ∧ (⟨0, 5, 5, none, 0⟩ : Mask).held = 0) ∧ (∀ k ∈ State.reset.squall.masks, k.held ≠ 0) := by
  decide

theorem test_w_BistSlices :
    (∀ e : Fin 25, State.reset.planOf e 0 = []) ∧ State.reset.flag F.bistStatus_PLAN = false ∧ (State.reset.fset F.bistStatus_PLAN 1).flag F.bistStatus_PLAN = true ∧
    State.reset.unitOk (domOf 0 0) 0 0 = true ∧ State.reset.slice 0 = none ∧ State.reset.skips 0 { cls := 0, index := 0 } = false ∧
    State.reset.mustWait 0 { cls := 0, index := 0 } = false ∧ (State.reset.fset F.bistUnit_CLASS 8).unitOk 0 8 0 = false ∧
    ((State.reset.setRole 0 2 4 0).fset F.bistIndex_INDEX 2).skips 0 { cls := 0, index := 2 } = true ∧ (pipeSlice.slice 0).isSome = true ∧
    (let s := { State.reset with squall := { State.reset.squall with plan := [(0, [{ cls := 0, index := 3 }])] } }
     tget s.squall.plan 0 [] = { cls := 0, index := 3 } :: [] ∧ s.fget F.pipeStatus_ROLE 0 8 = 1 ∧ s.fget F.pipeStatus_ROLE 0 3 = 0) ∧
    { State.reset with te := { State.reset.te with claims := [(0, 3)] } }.mustWait 0 { cls := 1, index := 0 } = true ∧
    pipeSlice.slice 0 = some { cls := 0, index := 3 } ∧ pipeSlice.fget F.pipeStatus_ROLE 0 8 = 2 ∧ pipeSlice.fget F.pipeStatus_STANDIN 0 8 = 3 := by decide

/-- Tile 3's bank is being copied back while a claim of another waits. -/
def waitBank (n : Nat) : State := { sliceAt 3 { cls := 1, index := 70, wait := true } with te := { State.reset.te with claims := [(3, n)] } }
def planSt (x : Slice) : State := { State.reset with squall := { State.reset.squall with plan := [(2, [x])] } }

theorem test_w_BistSlices_waits :
    ((waitBank 3).slice 3 = some { cls := 1, index := 70, wait := true } ∧ (waitBank 3).mustWait 3 { cls := 1, index := 70, wait := true } = true ∧
      (waitBank 0).mustWait 3 { cls := 1, index := 70, wait := true } = false) ∧
    (let s := ({ State.reset with te := { State.reset.te with claims := [(0, 3)] } } : State).fset F.bistUnit_CLASS 1
     s.slice 0 = none ∧ s.unitOk 0 1 0 = true ∧ s.skips 0 { cls := 1, index := 0 } = false ∧ s.mustWait 0 { cls := 1, index := 0 } = true) ∧
    (State.reset.fset F.bistCtl_TRIG_EN 1).flag F.bistCtl_TRIG_EN = true ∧ State.reset.flag F.bistCtl_TRIG_EN = false ∧
    (let s := (planSt { cls := 0, index := 2 }).setRole 2 2 4 0
     tget s.squall.plan 2 [] = [{ cls := 0, index := 2 }] ∧ s.slice 2 = none ∧ s.skips 2 { cls := 0, index := 2 } = true) ∧
    (let s := planSt { cls := 0, index := 2 }
     s.skips 2 { cls := 0, index := 2 } = false ∧ s.mustWait 2 { cls := 0, index := 2 } = false ∧ s.flag F.bistCtl_TRIG_EN = false) := by decide

theorem test_w_BistFailures :
    State.reset.slice 3 = none ∧ (sliceAt 3 { cls := 1, index := 70 }).slice 3 = some { cls := 1, index := 70 } ∧ tget (sliceAt 3 { cls := 1, index := 70 }).te.claims 3 0 ≠ 1 ∧
    tget ({ sliceAt 3 { cls := 1, index := 70 } with te := { State.reset.te with claims := [(3, 1)] } }).te.claims 3 0 = 1 ∧
    (sliceAt 3 { cls := 2, index := 1024 }).fget F.spareTile_REPAIR_LEFT 3 ≠ 0 ∧
    ((sliceAt 3 { cls := 2, index := 1024 }).fset F.spareTile_REPAIR_LEFT 0 3).fget F.spareTile_REPAIR_LEFT 3 = 0 ∧
    (sliceAt 3 { cls := 3, index := 25 }).fget F.spareTile_XLINK_LEFT 3 ≠ 0 ∧ (sliceAt 16 { cls := 4, index := 31 }).fget F.spareAnvil_PAGES_RETIRED 31 < 16384 ∧
    (sliceAt 24 { cls := 6, index := 63 }).slice 24 = some { cls := 6, index := 63 } ∧ (sliceAt 24 { cls := 6, index := 63 }).flag F.retireCfg_RETIRE_EN = true := by decide

def usedRows (cls mac n : Nat) (x : Slice) : State :=
  { sliceAt 3 x with squall := { (sliceAt 3 x).squall with repairs := [((3 * 16 + cls) * 65536 + mac, n)] } }

theorem test_w_BistFailures_rows :
    (waitBank 3).slice 3 = some { cls := 1, index := 70, wait := true } ∧
    rowsUsed (usedRows 1 70 4 { cls := 1, index := 70 }) 1 3 70 = 4 ∧ rowsUsed (usedRows 1 70 3 { cls := 1, index := 70 }) 1 3 70 < 4 ∧
    rowsUsed (usedRows 2 3 4 { cls := 2, index := 64512 }) 2 3 ((64512 + 1023 % 1024) / 16384) = 4 ∧
    rowsUsed (usedRows 5 31 4 { cls := 5, index := 31744 }) 5 3 (31744 / 1024) = 4 ∧ (usedRows 5 31 4 { cls := 5, index := 31744 }).flag F.retireCfg_RETIRE_EN = true ∧
    (usedRows 5 31 4 { cls := 5, index := 31744 }).slice 3 = some { cls := 5, index := 31744 } ∧
    ((usedRows 5 31 4 { cls := 5, index := 31744 }).squall.flight.filter (fun m => decide (m.source = srcCirrus 3))).length < 4 := by decide

/-! ### Bennidan and Zenith -/

def bnBusy (r : BnRun) : State := State.reset.bnRun r
def zenOn : State := (State.reset.setZen { State.reset.zen with present := true })
def zenUp : State := { zenOn with power := { zenOn.power with chipletOn := true } }
def zenEdgeOf (k : Nat) : ZEdge := ⟨k, 5, [], []⟩
def zenRecOf : ZRec := { rkind := 0, startNs := 1, endNs := 2, ticks := 3, entries := [], n := 0, flags := 0, mapDigest := [], detail := List.replicate 16 0,
                         bytes := [], frames := [] }

theorem test_w_BennidanStarts :
    (bnBusy ⟨1, 0, 0, []⟩).flag F.bnStatus_BUSY = true ∧
    (State.reset.fset F.bnStatus_FAULT 1).flag F.bnStatus_BUSY = false ∧ (State.reset.fset F.bnStatus_FAULT 1).flag F.bnStatus_FAULT = true ∧
    State.reset.flag F.bnStatus_BUSY = false ∧ State.reset.flag F.bnStatus_FAULT = false ∧ (State.reset.rd .bnArg).toNat % 8192 = 0 ∧
    ((State.reset.wr .bnArg 4097).rd .bnArg).toNat % 8192 = 4097 ∧ ((State.reset.wr .bnArg 4096).rd .bnArg).toNat % 8192 = 4096 ∧
    (State.reset.fset F.ownerStatus_ENROLLMENTS 4).fget F.ownerStatus_ENROLLMENTS = 4 ∧ State.reset.fget F.ownerStatus_ENROLLMENTS < 4 ∧
    (let s := State.reset.wr .bootSvn 5
     s.runningSvn 0 = some 5 ∧ s.arbOf 0 < 5 ∧ State.reset.runningSvn 2 = none) := by decide

/-- Whatever the device's key ID, one of two buffers names another. -/
theorem test_w_BennidanStarts_key : ∃ s : State, s.flag F.bnStatus_BUSY = false ∧ s.flag F.bnStatus_FAULT = false ∧ s.fget F.ownerStatus_ENROLLMENTS < 4 ∧
    bytesAt s.inBytes 1793 8 ≠ keyId Config.devKey := by
  by_cases h : bytesAt State.reset.inBytes 1793 8 = keyId Config.devKey
  · refine ⟨State.reset.wr .inBuf 0xFFFFFFFF 449, by decide, by decide, by decide, ?_⟩
    rw [← h]; decide +kernel
  · exact ⟨State.reset, by decide, by decide, by decide, h⟩

theorem test_w_BennidanEnds :
    State.reset.trust.run = none ∧ (bnBusy ⟨2, 3, 0, []⟩).trust.run = some ⟨2, 3, 0, []⟩ ∧
    (let s := { zenOn with trust := { zenOn.trust with run := some ⟨7, 0, 0, []⟩ } }
     s.zenPort = true ∧ s.trust.zreply = none) ∧
    (bnBusy ⟨5, 0, 0, [1]⟩).trust.run = some ⟨5, 0, 0, [1]⟩ ∧ (bnBusy ⟨3, 0, 0, []⟩).trust.run = some ⟨3, 0, 0, []⟩ ∧
    (let s := bnBusy ⟨4, 0, 0, []⟩
     ({ s with boot := { s.boot with journal := [.arb 0 255] } }).boot.journal = [.arb 0 255]) ∧
    (bnBusy ⟨7, 0, 0, []⟩).zenPort = false ∧
    (let s := { zenOn with trust := { zenOn.trust with run := some ⟨7, 0, 0, []⟩, zreply := some 255 } }
     s.zenPort = true ∧ s.trust.zreply = some 255) := by decide

theorem test_w_ZenithCounting :
    State.reset.zen.present = false ∧ zenUp.zen.present = true ∧ (∀ c : Fin 8, zenUp.tapUp c = true) ∧ zenUp.zen.edges = [] ∧
    tget zenUp.zen.bad 0 0 < 2 ^ 32 := by decide

theorem test_w_ZenithCounting_lost :
    State.reset.tapUp 0 = false ∧ (zenUp.setZen { zenUp.zen with edges := [zenEdgeOf 1] }).zen.edges ≠ [] ∧
    (zenUp.setZen { zenUp.zen with edges := [zenEdgeOf 1] }).zen.present = true := by decide

theorem test_w_ZenithIntervals :
    (let s := zenOn.setZen { zenOn.zen with edges := [zenEdgeOf 3], openAt := some (1, 0), cfg := zenOn.zen.cfg + 0x10, zc := 7 }
     s.zen.present = true ∧ s.zen.edges = [zenEdgeOf 3] ∧ s.zen.openAt = some (1, 0) ∧ (zenEdgeOf 3).k % max 1 (bits s.zen.cfg 15 4) ≠ 0 ∧
       (zenEdgeOf 4).k % max 1 (bits s.zen.cfg 15 4) = 0 ∧ s.zen.zc + 24999992 - 0 < 25000000 ∧ 25000000 ≤ s.zen.zc + 24999993 - 0) ∧
    zenOn.zen.openAt = none ∧ zenOn.zen.edges = [] ∧ bitAt zenOn.zen.flags 3 = false ∧
    (let s := zenOn.setZen { zenOn.zen with openAt := some (1, 0), cfg := 0x00010010 }
     s.zen.zc + 24999999 - 0 < bits s.zen.cfg 27 16 * 25000000 ∧ bits s.zen.cfg 27 16 * 25000000 ≤ s.zen.zc + 25000000 - 0) := by decide

theorem test_w_ZenithRecords :
    State.reset.zen.appends = [] ∧
    (let s := zenOn.setZen { zenOn.zen with appends := [zenRecOf] }
     s.zen.appends = [zenRecOf] ∧ s.zen.rseq < 2 ^ 64) ∧ zenRecOf.startNs < 2 ^ 64 ∧ zenRecOf.endNs < 2 ^ 64 ∧ zenRecOf.detail.length = 16 ∧
    zenRecOf.entries.length ≤ 98304 ∧ zenOn.zen.present = true ∧ State.reset.zen.present = false ∧
    (zenOn.squall.flight.filter (fun m => decide (m.source = srcZenith))).length < 4 := by decide

theorem test_w_ZenithCommands :
    zenOn.trust.zcmd = none ∧
    (let s := { zenOn with trust := { zenOn.trust with zcmd := some (leBytes 4 0x444D435A) } }
     s.trust.zcmd = some (leBytes 4 0x444D435A) ∧ s.zenPort = true ∧ s.trust.zreply = none ∧ s.zen.auth = [] ∧ leNat (bytesAt (leBytes 4 0x444D435A) 16 4) ≤ s.zen.seq)  ∧
    (let s := { zenOn with zen := { zenOn.zen with authSlots := 2 }, trust := { zenOn.trust with zcmd := some [0, 0, 0, 0, 3] } }
     s.trust.zcmd = some [0, 0, 0, 0, 3] ∧ s.zenPort = true ∧ s.trust.zreply = none ∧ byteAt [0, 0, 0, 0, 3] 4 = 3 ∧ 2 ≤ s.zen.authSlots) := by
  decide

/-- Ring 7, ACTIVE, a telemetry ring of PF3 with a buffer of `n` bytes at 0x40000, and a record in the journal. -/
def zenRingOf (n : Nat) : State :=
  let s := ((((State.reset.fset F.ringOwner_TYPE 4 7).fset F.ringOwner_OWNER 3 7).fset F.ringStatus_STATE 1 7).wrw .ringBase (0x10000#64) 7).wr .hwinW3 7 3 0
  let s1 := s.setZen { s.zen with present := true, journal := [(4, [1, 2, 3])], deliver := 4 }
  s1.setRing 7 { s1.ring 7 with fetched := [(0, bytesAt (leBytes 8 0x40000 ++ leBytes 4 n) 0 31 ++ [0x80#8])] }

theorem test_w_ZenithDelivery :
    (∀ n ∈ [131072, 4096], let s := zenRingOf n
     let d := bytesAt (leBytes 8 0x40000 ++ leBytes 4 n) 0 31 ++ [0x80#8]
     s.ringOwnerOf 7 = 3 ∧ s.ringTypeOf 7 = 4 ∧ s.ringState 7 = 1 ∧ s.blocked 3 = false ∧ s.zenPort = true ∧ s.zen.journal = [] ++ (4, [1, 2, 3]) :: [] ∧
     s.zen.deliver ≤ 4 ∧ (s.ring 7).started = [] ∧ (s.ring 7).capBytes = 0 ∧ (s.ring 7).capRecords = 0 ∧ (s.ring 7).fetched = [(0, d)] ∧
     bitAt (byteAt d 31) 7 = true ∧ s.hostOk 3 (s.entryAddr 7 (s.ringH 7)) 32 true = true ∧ leNat (bytesAt d 0 8) = 0x40000 ∧ leNat (bytesAt d 8 4) = n ∧
     s.hostOk 3 0x40000 n true = true ∧ s.entryAddr 7 (s.ringH 7) + 32 ≤ 0x40000) ∧
    (∀ q : RingIx, q < 7 → ¬ ((zenRingOf 4096).ringOwnerOf q = 3 ∧ (zenRingOf 4096).ringTypeOf q = 4 ∧ (zenRingOf 4096).ringState q = 1)) ∧
    State.reset.zenPort = false := by decide

/-! ### Reset, steps and the start of routines -/

theorem test_w_ResetState : State.reset.canonical ∧ State.reset.pending = [] ∧ State.reset.fget F.spareTile_REPAIR_LEFT 15 = 4 ∧
    State.reset.fget F.spareTile_XLINK_LEFT 15 = 2 ∧ State.reset.flag F.clsCtl_CSUM_EN 3 = true ∧ State.reset.flag F.cirrusCtl_VIOL_REPORT 3 = true ∧
    State.reset.fget F.qsched_WEIGHT 511 7 = 1 ∧ State.reset.fget F.gateCfg_LEAD_NS 511 = 0x64 ∧ State.reset.fget F.fpI2cCfg_SPEED 15 = 1 ∧
    State.reset.fget F.fpI2cCfg_MOD_READY_TMO 15 = 10 ∧ State.reset.fget F.sqCtl_LATCH_SEV = 1 ∧ State.reset.flag F.retireCfg_RETIRE_EN = true ∧
    State.reset.rd .ageTick = 0x3E8#32 ∧ State.reset.fget F.pwrCfg_OP_MAX = 0 ∧ State.reset.fget F.pcap_WATTS = 1600 ∧
    State.reset.rdw .incr = 0x280000000#64 ∧ State.reset.zen.cfg = 0x0E100010 := by
  refine ⟨⟨rfl, rfl, rfl, rfl⟩, ?_⟩
  decide

theorem test_w_StepsKeepTheCanonicalForm : State.reset.canonical ∧ step State.reset = .next State.reset := ⟨⟨rfl, rfl, rfl, rfl⟩, rfl⟩

/-- A packet of tile 0 that waits for its routine, and one that restarts. -/
def pktIn (st : PStage) : State := State.reset.setPkt 0 3 (some { phv := List.replicate 512 0, stage := st })

theorem test_w_RoutinesStartAndRestart :
    ((pktIn .held).pkt 0 3).isSome = true ∧ ((pktIn .held).pipe 0).stopped = false ∧ (pktIn .held).regionHeld 0 = false ∧
    ((pktIn .held).wr .cirrusStatus 0xFF 0).nextPipe 0 = some 0 ∧ (pktIn (.restart 1)).cirrus.act = none ∧
    ((pktIn (.restart 1)).fset F.dawnStatus_HORIZON 1).hz = true ∧ (((pktIn (.restart 1)).fset F.dawnStatus_HORIZON 1).pkt 0 3).map (fun k => k.stage) =
      some (.restart 1) := by decide

/-- PF0 owns group 0 at reset, and PF1 none. -/
theorem test_w_FunctionResetLeavesCounters : State.reset.fget F.grpCtl_OWNER 0 = 0 ∧ State.reset.fget F.grpCtl_OWNER 0 ≠ 1 := by decide

/-- The state a command answers. -/
def after (c : Instr) (s : State) : State := match exec c s with
  | .next t => t
  | _ => s

/-! ### Well-formedness: for each check a term that it refuses -/

theorem test_wf_beat : (Instr.beatArrival 0 (List.replicate 63 0)).wf = false ∧ (Instr.beatArrival 0 (List.replicate 64 0)).wf = true := by decide
theorem test_wf_last_beat : (Instr.lastBeatArrival 0 [] true []).wf = false ∧ (Instr.lastBeatArrival 0 (List.replicate 65 0) true []).wf = false ∧
    (Instr.lastBeatArrival 0 [0] true []).wf = true := by decide
theorem test_wf_dma : (Instr.dmaMove 0 (List.replicate 31 0)).wf = false ∧ (Instr.dmaLoop 0 []).wf = false ∧ (Instr.dmaWait 0 [0]).wf = false ∧
    (Instr.dmaSignal 0 []).wf = false ∧ (Instr.dmaEnd 0 (List.replicate 33 0)).wf = false ∧ (Instr.dmaIllegalOpcode 0 []).wf = false ∧
    (Instr.dmaEnd 0 (List.replicate 32 0)).wf = true := by decide
theorem test_wf_fetch : (Instr.descriptorFetch 0 [[0]] true).wf = false ∧ (Instr.descriptorFetch 0 (List.replicate 33 (List.replicate 32 0)) true).wf = false := by
  decide
theorem test_wf_mailbox : (Instr.mailboxDone 0 0 (List.replicate 129 0) true).wf = false := by decide
theorem test_wf_train : (Instr.trainComplete 0 (List.replicate 9 ⟨[], false, 0, 0, [], 0⟩)).wf = false := by decide
theorem test_wf_bar4 : (Instr.bar4Write 0 0x100000 0).wf = false ∧ (Instr.bar4Write 0 0xFFFF8 0).wf = true := by decide

/-! ### Single commands, with what the spec's tables and rules give -/

/-- AGE_NOW has 16 bits, and wraps. -/
theorem test_ageTick_wraps : (after .ageTick (State.reset.wr .ageNow 0xFFFF)).rd .ageNow = 0 := by decide
/-- R501: an erase off its 64 KiB alignment is refused with RESULT 2. -/
theorem test_flashErase_misaligned : (after .flashErase (State.reset.fset F.flashAddr_V 0x100)).fget F.flashStatus_RESULT = 2 := by decide
/-- CANCEL of IMG_CTL disarms an activation that waits for its trigger. -/
theorem test_imgCancel_disarms : (after .imgCancel (State.reset.fset F.imgStatus_ARMED 1)).flag F.imgStatus_ARMED = false := by decide
/-- R209 and R210: SET_LIVE sets EN of a member, bit 9, and nothing else. -/
theorem test_setLive_bit : tget (after (.setLive none) (withOp State.reset { teOp0 7 0x41 with index := 2 ^ 31 + 5 })).te.members 5 0 = 0x200#64 := by decide
/-- R384: position 2S − 1 is followed by position 0. -/
theorem test_ring_wraps : (State.reset.wr .ringHead (posWord 64 127) 7).ringH 7 = 127 ∧
    ((State.reset.wr .ringHead (posWord 64 127) 7).advanceH 7).ringH 7 = 0 := by decide
/-- R428: an addition waits for the next tick, and the clock then carries it. -/
theorem test_adjAdd_next_tick :
    (let s := State.reset.wrw .adjOff (5#64)
     (after .adjAdd s).time.ns = 0 ∧ (after .adjAdd s).time.steps.length = 1 ∧ (after .clockTick (after .adjAdd s)).time.steps = []) := by decide
/-- R562: a reserved code of Bennidan's command register takes no action. -/
theorem test_bnCmd_reserved : State.reset.bnCmdWrite 9 = State.reset ∧ State.reset.bnCmdWrite 0 = State.reset := by decide
/-- R542: ARB to a value above the running SVN ends with RESULT 3. -/
theorem test_arb_above_svn : State.reset.arbCheck 0 1 = 3 ∧ (State.reset.wr .bootSvn 1).arbCheck 0 1 = 0 := by decide
/-- R554: an interval record names only accounts that changed, ascending. -/
theorem test_zen_entries : ({ State.reset.zen with changed := [7, 2], frames := [(2, 1), (7, 3)] } : ZenSt).entries.length = 48 := by decide +kernel

end Sys2Proof.Machine
end

section
/-!
PROOF. The state in which a routine starts and restarts (R148): the dispatch of a held packet and the restart of an abandoned one both put the
same thread in a pipe, the one of `Pkt.startedOn`.
-/

namespace Sys2Proof.Machine

/-- A packet read after it was set. -/
@[simp] theorem State.setPkt_pkt (s : State) (t fid : Nat) (v : Option Pkt) : (s.setPkt t fid v).pkt t fid = v := by
  simp [State.setPkt, State.pkt, tget_tset_same]

/-- The packet as its routine starts, or restarts, in pipe `p`. -/
def Pkt.startedOn (k : Pkt) (p : Nat) : Pkt := { k with stage := .running, thread := freshThread p (phvEntry k.phv) k.phv }

theorem Pkt.startedOn_stage (k : Pkt) (p : Nat) : (k.startedOn p).stage = .running := rfl

theorem Pkt.startedOn_pipe (k : Pkt) (p : Nat) : (k.startedOn p).thread.pipe = p := rfl

theorem Pkt.startedOn_phv (k : Pkt) (p : Nat) : (k.startedOn p).phv = k.phv := rfl

/-- The thread of `Pkt.startedOn` is in the state of R148, whichever pipe it takes. -/
theorem Pkt.startedOn_startsRoutine (k : Pkt) (p : Nat) : StartsRoutine k (k.startedOn p).thread :=
  ⟨rfl, rfl, rfl, rfl, rfl, rfl, rfl, rfl, rfl⟩

/-- R16: the dispatch of a held packet that nothing withholds puts it in the next active pipe. -/
theorem State.dispatch_pkt_of_held {s : State} {t fid p : Nat} {k : Pkt} (hk : s.pkt t fid = some k) (hheld : k.stage = .held)
    (hgo : (s.pipe t).stopped = false) (hreg : s.regionHeld (phvEntry k.phv) = false) (hp : s.nextPipe t = some p) :
    (s.dispatch t fid).pkt t fid = some (k.startedOn p) := by
  have hfree : ¬(k.stage ≠ .held ∨ (s.pipe t).stopped = true ∨ s.regionHeld (phvEntry k.phv) = true) := by
    simp [hheld, hgo, hreg]
  simp only [State.dispatch, hk, if_neg hfree, hp, State.setPkt_pkt, Pkt.startedOn]

/-- The state a restart goes on from: after a relocation, `why` 2, no bucket is busy with it any longer (R233). -/
def State.restartBase (s : State) (why : Nat) : State := if why = 2 then { s with te := { s.te with busy := [] } } else s

/-- What decides whether a packet restarts lies in Cirrus and the registers, which `restartBase` leaves alone. -/
theorem State.restartBase_gates (s : State) (why t a : Nat) :
    (s.restartBase why).cirrus.act = s.cirrus.act ∧ (s.restartBase why).pipe t = s.pipe t ∧
      (s.restartBase why).regionHeld a = s.regionHeld a ∧ (s.restartBase why).hz = s.hz ∧ (s.restartBase why).isEntry a = s.isEntry a := by
  unfold State.restartBase
  split <;> exact ⟨rfl, rfl, rfl, rfl, rfl⟩

/-- R171: THREAD_RESTART of a packet whose wait is over and whose entry stands puts it back in a pipe. -/
theorem execThreadRestart_of_waitOver {s : State} {t fid why : Nat} {k : Pkt} (hk : s.pkt t fid = some k) (hst : k.stage = .restart why)
    (hwait : why = 3 → s.cirrus.act = none) (hgo : (s.pipe t).stopped = false) (hreg : s.regionHeld (phvEntry k.phv) = false)
    (hentry : s.hz = true ∨ s.isEntry (phvEntry k.phv) = true) :
    execThreadRestart t fid s =
      .next ((s.restartBase why).setPkt t fid (some (k.startedOn ((s.restartBase why).restartPipe t k.thread.pipe)))) := by
  obtain ⟨hact, hpipe, hheld, hhz, hisEntry⟩ := s.restartBase_gates why t (phvEntry k.phv)
  have hover : ¬((why = 3 ∧ (s.restartBase why).cirrus.act.isSome = true) ∨ ((s.restartBase why).pipe t).stopped = true ∨
      (s.restartBase why).regionHeld (phvEntry k.phv) = true) := by
    rw [hact, hpipe, hheld]
    rintro (⟨h3, hloading⟩ | hstop | hregion)
    · simp [hwait h3] at hloading
    · simp [hgo] at hstop
    · simp [hreg] at hregion
  have hstands : ¬((s.restartBase why).hz = false ∧ (s.restartBase why).isEntry (phvEntry k.phv) = false) := by
    rw [hhz, hisEntry]
    rintro ⟨h1, h2⟩
    simp [h1, h2] at hentry
  unfold State.restartBase at hover hstands
  simp only [execThreadRestart, hk, hst, if_neg hover, if_neg hstands, Pkt.startedOn, State.restartBase]

/-- Settles O5: at a dispatch and at a restart alike the packet becomes `Pkt.startedOn` of some pipe. -/
theorem routinesStartAndRestart : Obligations.RoutinesStartAndRestart := by
  intro s ti fid k hk hgo hreg
  constructor
  · intro p hheld hp
    exact ⟨k.startedOn p, State.dispatch_pkt_of_held hk hheld hgo hreg hp, k.startedOn_stage p, k.startedOn_pipe p, k.startedOn_phv p,
      k.startedOn_startsRoutine p⟩
  · intro why hst hwait hentry
    let p := (s.restartBase why).restartPipe ti k.thread.pipe
    have hexec : exec (.threadRestart ti fid) s = .next ((s.restartBase why).setPkt ti fid (some (k.startedOn p))) :=
      execThreadRestart_of_waitOver hk hst hwait hgo hreg hentry
    exact ⟨_, k.startedOn p, hexec, State.setPkt_pkt _ _ _ _, k.startedOn_stage p, k.startedOn_phv p, k.startedOn_startsRoutine p⟩

end Sys2Proof.Machine
end

section
/-!
PROOF. A function-level reset and the counter groups (R363): the reset writes GRP_CTL in its walk over the groups only, and that walk gives
each group's word the value that `State.dropUserEn` gives it alone.
-/

namespace Sys2Proof.Machine

/-- A walk over the indices below `n`, seen through a view that only the step at `g` changes, and changes by what the view shows: the view sees
that one step. -/
theorem forN_view {α β : Type} (view : α → β) {op : Nat → α → α} (g : Nat) {n : Nat} (a : α)
    (hother : ∀ k b, k < n → k ≠ g → view (op k b) = view b) (hsame : ∀ b c, view b = view c → view (op g b) = view (op g c)) :
    view (forN n op a) = if g < n then view (op g a) else view a := by
  induction n with
  | zero => rfl
  | succ n ih =>
    have hpre := ih fun k b hk => hother k b (by omega)
    have hlast : forN (n + 1) op a = op n (forN n op a) := by simp [forN, List.range_succ]
    rw [hlast]
    by_cases hg : n = g
    · subst hg
      simpa using hsame _ _ (by simpa using hpre)
    · rw [hother n _ (by omega) hg, hpre]
      exact if_congr (by omega) rfl rfl

/-! ## One group -/

/-- USER_EN of group `g` clears if function `f` owns the group (R363). -/
def State.dropUserEn (s : State) (f g : Nat) : State := if s.fget F.grpCtl_OWNER g = f then s.fset F.grpCtl_USER_EN 0 g else s

theorem State.dropUserEn_of_owner {s : State} {f g : Nat} (h : s.fget F.grpCtl_OWNER g = f) :
    s.dropUserEn f g = s.fset F.grpCtl_USER_EN 0 g := if_pos h

theorem State.dropUserEn_of_ne {s : State} {f g : Nat} (h : s.fget F.grpCtl_OWNER g ≠ f) : s.dropUserEn f g = s := if_neg h

theorem State.dropUserEn_userEn {s : State} {f g : Nat} (h : s.fget F.grpCtl_OWNER g = f) :
    (s.dropUserEn f g).flag F.grpCtl_USER_EN g = false := by
  rw [State.dropUserEn_of_owner h]
  exact flag_fset_same s F.grpCtl_USER_EN 0 g 0 rfl (by decide)

/-- OWNER lies apart from USER_EN. -/
theorem State.dropUserEn_owner (s : State) (f g : Nat) : (s.dropUserEn f g).fget F.grpCtl_OWNER g = s.fget F.grpCtl_OWNER g := by
  by_cases h : s.fget F.grpCtl_OWNER g = f
  · rw [State.dropUserEn_of_owner h]
    exact fget_fset_apart s 0 g 0 rfl (by decide) (by decide) (by decide)
  · rw [State.dropUserEn_of_ne h]

theorem State.dropUserEn_rd_inst (s : State) (f : Nat) {g k : Nat} (h : g % 65536 ≠ k % 65536) :
    (s.dropUserEn f k).rd .grpCtl g = s.rd .grpCtl g := by
  unfold State.dropUserEn
  split
  · exact rd_fset_inst s 0 0 0 h
  · rfl

/-- What the group's word becomes depends on that word only. -/
theorem State.dropUserEn_rd_congr {s t : State} (f g : Nat) (h : s.rd .grpCtl g = t.rd .grpCtl g) :
    (s.dropUserEn f g).rd .grpCtl g = (t.dropUserEn f g).rd .grpCtl g := by
  have howner : s.fget F.grpCtl_OWNER g = t.fget F.grpCtl_OWNER g := congrArg (fun w : Word => bits w.toNat 1 0) h
  by_cases hf : t.fget F.grpCtl_OWNER g = f
  · rw [State.dropUserEn_of_owner (howner.trans hf), State.dropUserEn_of_owner hf]
    have hword (u : State) : (u.fset F.grpCtl_USER_EN 0 g).rd .grpCtl g = BitVec.ofNat 32 (setBits (u.rd .grpCtl g).toNat 2 2 0) :=
      rd_wr_same u .grpCtl _ g 0
    rw [hword, hword, h]
  · rw [State.dropUserEn_of_ne (howner ▸ hf), State.dropUserEn_of_ne hf, h]

/-! ## The whole reset -/

/-- What a function-level reset may change, of the registers those whose bits are set in the mask (as in `Touch.regs`): no 64-bit register, and
nothing of Halo. -/
def Touch.flr (regs : Nat) : Touch := { r32 := true, host := true, dma := true, te := true, regs := regs }

/-- What the reset does before it walks over the groups leaves GRP_CTL alone: the mask has the registers of rings, channels and MSI-X only. -/
theorem State.flr_rings_msix_rd_grpCtl (s : State) (f g : Nat) :
    (((s.flrEngine f).flrRings f).clearMsix f).rd .grpCtl g = s.rd .grpCtl g := by
  have h : Keeps (.flr 0x30837a00000000000000000000000000) s (((s.flrEngine f).flrRings f).clearMsix f) :=
    State.clearMsix_keeps (State.flrRings_keeps (State.flrEngine_keeps (.rfl' _ s) f) f) f
  exact (h.regs .grpCtl g 0 (by decide)).1

/-- The word of each group after the reset. -/
theorem State.flr_rd_grpCtl (s : State) (f : Nat) {g : Nat} (hg : g < 256) : (s.flr f).rd .grpCtl g = (s.dropUserEn f g).rd .grpCtl g := by
  set u := ((s.flrEngine f).flrRings f).clearMsix f
  calc (s.flr f).rd .grpCtl g
      = (forN 256 (fun k t => t.dropUserEn f k) u).rd .grpCtl g := rd_fset_reg _ _ _ _ _ _ (by decide)
    _ = (u.dropUserEn f g).rd .grpCtl g := by
        rw [forN_view (op := fun k t => t.dropUserEn f k) (fun t : State => t.rd .grpCtl g) g u
          (fun k t hk hne => t.dropUserEn_rd_inst f (by omega)) (fun _ _ => State.dropUserEn_rd_congr f g), if_pos hg]
    _ = (s.dropUserEn f g).rd .grpCtl g := State.dropUserEn_rd_congr f g (s.flr_rings_msix_rd_grpCtl f g)

/-- A field of a group's word after the reset. -/
theorem State.flr_fget_grpCtl (s : State) (f : Nat) {g : Nat} (hg : g < 256) {d : Fld} (hd : d.reg = .grpCtl) :
    (s.flr f).fget d g = (s.dropUserEn f g).fget d g := by
  unfold State.fget
  rw [hd, s.flr_rd_grpCtl f hg]

/-- The counters, their overflow bits and Halo are outside what the reset may change: the mask adds GRP_CTL and FN_STATUS. -/
theorem State.flr_keeps_counters (s : State) (f : Nat) :
    Keeps (.flr 0x800000000000000000000000000000000000000000000000000000030837a00080000000000000000000000) s (s.flr f) :=
  State.flr_keeps (.rfl' _ s) f

/-- Settles O6: each group's word is that of `State.dropUserEn`, and the rest is what the reset may not change. -/
theorem functionResetLeavesCounters : Obligations.FunctionResetLeavesCounters := by
  intro s f
  have hkeep := s.flr_keeps_counters f
  refine ⟨s.flr f, rfl, fun g => ⟨fun howned => ?_, fun hother => ?_, ?_⟩, ?_, hkeep.halo rfl,
    fun i j => ⟨(hkeep.regs .pcOvf i j (by decide)).1, (hkeep.regs .statOvf i j (by decide)).1⟩⟩
  · unfold State.flag
    rw [s.flr_fget_grpCtl f g.isLt rfl]
    exact State.dropUserEn_userEn howned
  · rw [s.flr_rd_grpCtl f g.isLt, State.dropUserEn_of_ne hother]
  · rw [s.flr_fget_grpCtl f g.isLt rfl, s.dropUserEn_owner]
  · intro n i j _
    unfold State.rdw
    rw [hkeep.r64 rfl]

end Sys2Proof.Machine
end

section
/-!
PROOF. Every command completes within its footprint, and so keeps the canonical form: the laws of the commands (`exec…_keeps`), gathered once.
-/

set_option Elab.async false

set_option exponentiation.threshold 4096
set_option maxRecDepth 20000

namespace Sys2Proof.Machine

/-- What every command keeps: all but the parts and the registers of its footprint. -/
theorem exec_keeps (c : Instr) (s : State) : ∃ t, exec c s = .next t ∧ Keeps (touchOf (footprint c)) s t := by
  cases c <;> dsimp only [footprint]
  case registerWrite f a v => exact execRegisterWrite_keeps (.rfl' _ s) _ _ _
  case lowWordRead f a => exact execLowWordRead_keeps (.rfl' _ s) _ _
  case lowWordWrite f a v => exact execLowWordWrite_keeps (.rfl' _ s) _ _ _
  case highWordWrite f a v => exact execHighWordWrite_keeps (.rfl' _ s) _ _ _
  case eightByteAccess f bar a len write v => exact execEightByteAccess_keeps (.rfl' _ s) _ _ _ _ _ _
  case beatArrival p bytes => exact execBeatArrival_keeps (.rfl' _ s) _ _
  case lastBeatArrival p bytes good fec => exact execLastBeatArrival_keeps (.rfl' _ s) _ _ _ _
  case parseStart t p => exact execParseStart_keeps (.rfl' _ s) _ _
  case microwordExecute t fid ecc => exact execMicrowordExecute_keeps (.rfl' _ s) _ _ _
  case threadReentry t fid => exact execThreadReentry_keeps (.rfl' _ s) _ _
  case tableResultArrival t fid res => exact execTableResultArrival_keeps (.rfl' _ s) _ _ _
  case threadRestart t fid => exact execThreadRestart_keeps (.rfl' _ s) _ _
  case deferredLogApply t fid => exact execDeferredLogApply_keeps (.rfl' _ s) _ _
  case reorderRelease t p => exact execReorderRelease_keeps (.rfl' _ s) _ _
  case excQueueDeliver t c => exact execExcQueueDeliver_keeps (.rfl' _ s) _ _
  case csWordRewrite t a => exact execCsWordRewrite_keeps (.rfl' _ s) _ _
  case imgLoad f v d ok => exact execImgLoad_keeps (.rfl' _ s) _ _ _ _
  case imgLoadDone => exact execImgLoadDone_keeps (.rfl' _ s)
  case imgActivate v => exact execImgActivate_keeps (.rfl' _ s) _
  case imgDeactivate v => exact execImgDeactivate_keeps (.rfl' _ s) _
  case imgCancel => exact execImgCancel_keeps (.rfl' _ s)
  case activationDrained => exact execActivationDrained_keeps (.rfl' _ s)
  case activationComplete => exact execActivationComplete_keeps (.rfl' _ s)
  case csRead t v ecc => exact execCsRead_keeps (.rfl' _ s) _ _ _
  case csReadDone t => exact execCsReadDone_keeps (.rfl' _ s) _
  case stateEntryCommit t e v => exact execStateEntryCommit_keeps (.rfl' _ s) _ _ _
  case parserTcamCommit t b e v => exact execParserTcamCommit_keeps (.rfl' _ s) _ _ _ _
  case ptypeEntryCommit t b e v => exact execPtypeEntryCommit_keeps (.rfl' _ s) _ _ _ _
  case entryWordWrite t tab e w v => exact execEntryWordWrite_keeps (.rfl' _ s) _ _ _ _ _
  case policerWriteConfig t => exact execPolicerWriteConfig_keeps (.rfl' _ s) _
  case policerReadConfig t => exact execPolicerReadConfig_keeps (.rfl' _ s) _
  case policerReadBucket t => exact execPolicerReadBucket_keeps (.rfl' _ s) _
  case policerCmdDone t => exact execPolicerCmdDone_keeps (.rfl' _ s) _
  case insert src => exact execInsert_keeps (.rfl' _ s) _
  case modify src => exact execModify_keeps (.rfl' _ s) _
  case delete src => exact execDelete_keeps (.rfl' _ s) _
  case read src => exact execRead_keeps (.rfl' _ s) _
  case commit src => exact execCommit_keeps (.rfl' _ s) _
  case versionChange => exact execVersionChange_keeps (.rfl' _ s)
  case discard src => exact execDiscard_keeps (.rfl' _ s) _
  case setLive src => exact execSetLive_keeps (.rfl' _ s) _
  case member src => exact execMember_keeps (.rfl' _ s) _
  case flush src => exact execFlush_keeps (.rfl' _ s) _
  case inflightDrained => exact execInflightDrained_keeps (.rfl' _ s)
  case retireSweepEnd => exact execRetireSweepEnd_keeps (.rfl' _ s)
  case discardSweepEnd => exact execDiscardSweepEnd_keeps (.rfl' _ s)
  case twriteApply => exact execTwriteApply_keeps (.rfl' _ s)
  case learnApply => exact execLearnApply_keeps (.rfl' _ s)
  case ageTick => exact execAgeTick_keeps (.rfl' _ s)
  case ageTickWrite v => exact execAgeTickWrite_keeps (.rfl' _ s) _
  case ageScanVisit slot => exact execAgeScanVisit_keeps (.rfl' _ s) _
  case ageCompareDelete => exact execAgeCompareDelete_keeps (.rfl' _ s)
  case ageStampRewrite => exact execAgeStampRewrite_keeps (.rfl' _ s)
  case tableWordRepair t => exact execTableWordRepair_keeps (.rfl' _ s) _
  case spareBankLoadDone t => exact execSpareBankLoadDone_keeps (.rfl' _ s) _
  case bankCopyOutDone t => exact execBankCopyOutDone_keeps (.rfl' _ s) _
  case bankCopyBackDone t => exact execBankCopyBackDone_keeps (.rfl' _ s) _
  case tcamScrubVisit t e err => exact execTcamScrubVisit_keeps (.rfl' _ s) _ _ _
  case emSeedWrite v => exact execEmSeedWrite_keeps (.rfl' _ s) _
  case lpmCfgWrite v => exact execLpmCfgWrite_keeps (.rfl' _ s) _
  case tblCfgWrite k v => exact execTblCfgWrite_keeps (.rfl' _ s) _ _
  case tcamCfgWrite k v => exact execTcamCfgWrite_keeps (.rfl' _ s) _ _
  case portEnable p v => exact execPortEnable_keeps (.rfl' _ s) _ _
  case portDisable p => exact execPortDisable_keeps (.rfl' _ s) _
  case txgrpCfgWrite c v => exact execTxgrpCfgWrite_keeps (.rfl' _ s) _ _
  case anPageReceived p base ability => exact execAnPageReceived_keeps (.rfl' _ s) _ _ _
  case anRetryTimer p => exact execAnRetryTimer_keeps (.rfl' _ s) _
  case trainComplete p lanes => exact execTrainComplete_keeps (.rfl' _ s) _ _
  case trainTimeout p => exact execTrainTimeout_keeps (.rfl' _ s) _
  case histTrainTimeout p => exact execHistTrainTimeout_keeps (.rfl' _ s) _
  case alignLock p idle => exact execAlignLock_keeps (.rfl' _ s) _ _
  case alignTimeout p => exact execAlignTimeout_keeps (.rfl' _ s) _
  case markerReceive l diffs cw time laneIdx width ei wake seq => exact execMarkerReceive_keeps (.rfl' _ s) _ _ _ _ _ _ _ _ _
  case markerMiss l => exact execMarkerMiss_keeps (.rfl' _ s) _
  case lossOfSignal l => exact execLossOfSignal_keeps (.rfl' _ s) _
  case hiSer l syms cws bad => exact execHiSer_keeps (.rfl' _ s) _ _ _ _
  case faultOrderedSet p kind => exact execFaultOrderedSet_keeps (.rfl' _ s) _ _
  case eiHoldExpire p idle => exact execEiHoldExpire_keeps (.rfl' _ s) _ _
  case rxEiEntry p => exact execRxEiEntry_keeps (.rfl' _ s) _
  case eiWake p => exact execEiWake_keeps (.rfl' _ s) _
  case wakeMarker p => exact execWakeMarker_keeps (.rfl' _ s) _
  case wakeTimeout p => exact execWakeTimeout_keeps (.rfl' _ s) _
  case deepEnter p => exact execDeepEnter_keeps (.rfl' _ s) _
  case deepWake p => exact execDeepWake_keeps (.rfl' _ s) _
  case partnerDeepEntry p => exact execPartnerDeepEntry_keeps (.rfl' _ s) _
  case deepSignalDetect p => exact execDeepSignalDetect_keeps (.rfl' _ s) _
  case eyeStart l v => exact execEyeStart_keeps (.rfl' _ s) _ _
  case eyePointDone l errors => exact execEyePointDone_keeps (.rfl' _ s) _ _
  case loopbackEnable l loop gen chk => exact execLoopbackEnable_keeps (.rfl' _ s) _ _ _ _
  case testExit p => exact execTestExit_keeps (.rfl' _ s) _
  case prbsInject l => exact execPrbsInject_keeps (.rfl' _ s) _
  case prbsPeriodicInject l => exact execPrbsPeriodicInject_keeps (.rfl' _ s) _
  case prbsCheckLock l rx => exact execPrbsCheckLock_keeps (.rfl' _ s) _ _
  case prbsLockLost l rx => exact execPrbsLockLost_keeps (.rfl' _ s) _ _
  case cagePrsFall k => exact execCagePrsFall_keeps (.rfl' _ s) _
  case cageDebounceDone k => exact execCageDebounceDone_keeps (.rfl' _ s) _
  case cageResetRelease k => exact execCageResetRelease_keeps (.rfl' _ s) _
  case modReadyPoll k ready ident apps power => exact execModReadyPoll_keeps (.rfl' _ s) _ _ _ _ _
  case modReadyTimeout k => exact execModReadyTimeout_keeps (.rfl' _ s) _
  case moduleDataPathActive k => exact execModuleDataPathActive_keeps (.rfl' _ s) _
  case cagePrsRise k sdaLow => exact execCagePrsRise_keeps (.rfl' _ s) _ _
  case cageIntFall k flags => exact execCageIntFall_keeps (.rfl' _ s) _ _
  case mailboxRead m v => exact execMailboxRead_keeps (.rfl' _ s) _ _
  case mailboxWrite m v => exact execMailboxWrite_keeps (.rfl' _ s) _ _
  case mailboxDone m result data intN => exact execMailboxDone_keeps (.rfl' _ s) _ _ _ _
  case ledFrame blink => exact execLedFrame_keeps (.rfl' _ s) _
  case nimbusGrant t => exact execNimbusGrant_keeps (.rfl' _ s) _
  case grantReceive t q => exact execGrantReceive_keeps (.rfl' _ s) _ _
  case crossingStart t q err => exact execCrossingStart_keeps (.rfl' _ s) _ _ _
  case crossingComplete t q err => exact execCrossingComplete_keeps (.rfl' _ s) _ _ _
  case txDecision p => exact execTxDecision_keeps (.rfl' _ s) _
  case txFrameEnd p idle => exact execTxFrameEnd_keeps (.rfl' _ s) _ _
  case pauseResendTimer p => exact execPauseResendTimer_keeps (.rfl' _ s) _
  case pauseFrameReceive p bytes good => exact execPauseFrameReceive_keeps (.rfl' _ s) _ _ _
  case pauseTimerExpire p c => exact execPauseTimerExpire_keeps (.rfl' _ s) _ _
  case pfcWdExpire p c => exact execPfcWdExpire_keeps (.rfl' _ s) _ _
  case pfcWdRestore p c => exact execPfcWdRestore_keeps (.rfl' _ s) _ _
  case spillWriteStart t q limited => exact execSpillWriteStart_keeps (.rfl' _ s) _ _ _
  case spillWriteComplete t q retries => exact execSpillWriteComplete_keeps (.rfl' _ s) _ _ _
  case refillReadStart t q => exact execRefillReadStart_keeps (.rfl' _ s) _ _
  case refillComplete t q verdict retries => exact execRefillComplete_keeps (.rfl' _ s) _ _ _ _
  case freeCacheRefill g => exact execFreeCacheRefill_keeps (.rfl' _ s) _
  case freeCacheWriteback g => exact execFreeCacheWriteback_keeps (.rfl' _ s) _
  case anvilEnClear => exact execAnvilEnClear_keeps (.rfl' _ s)
  case anvilEnSet => exact execAnvilEnSet_keeps (.rfl' _ s)
  case mcHoldExpire t q => exact execMcHoldExpire_keeps (.rfl' _ s) _ _
  case downHoldExpire p => exact execDownHoldExpire_keeps (.rfl' _ s) _
  case voqQuery t v => exact execVoqQuery_keeps (.rfl' _ s) _ _
  case voqLeaveSafe t v => exact execVoqLeaveSafe_keeps (.rfl' _ s) _ _
  case mcInsert v => exact execMcInsert_keeps (.rfl' _ s) _
  case mcModify v => exact execMcModify_keeps (.rfl' _ s) _
  case mcDelete v => exact execMcDelete_keeps (.rfl' _ s) _
  case mcRead v => exact execMcRead_keeps (.rfl' _ s) _
  case mcMemberWrite v => exact execMcMemberWrite_keeps (.rfl' _ s) _
  case pgCfgWrite p pri w v => exact execPgCfgWrite_keeps (.rfl' _ s) _ _ _ _
  case pfcCfgWrite p v => exact execPfcCfgWrite_keeps (.rfl' _ s) _ _
  case gateEdge p => exact execGateEdge_keeps (.rfl' _ s) _
  case gateSwapRequest p => exact execGateSwapRequest_keeps (.rfl' _ s) _
  case gateEnable p => exact execGateEnable_keeps (.rfl' _ s) _
  case gateDisable p => exact execGateDisable_keeps (.rfl' _ s) _
  case shaperWrite p k r v => exact execShaperWrite_keeps (.rfl' _ s) _ _ _ _
  case sampleInstant t => exact execSampleInstant_keeps (.rfl' _ s) _
  case residenceReport t => exact execResidenceReport_keeps (.rfl' _ s) _
  case flowScanVisit t k => exact execFlowScanVisit_keeps (.rfl' _ s) _ _
  case flowFlush => exact execFlowFlush_keeps (.rfl' _ s)
  case flowFlushDone => exact execFlowFlushDone_keeps (.rfl' _ s)
  case histClear => exact execHistClear_keeps (.rfl' _ s)
  case statClear ix t all => exact execStatClear_keeps (.rfl' _ s) _ _ _
  case pcCfgWrite f t k v => exact execPcCfgWrite_keeps (.rfl' _ s) _ _ _ _
  case grpCtlWrite f g v => exact execGrpCtlWrite_keeps (.rfl' _ s) _ _ _
  case flowSeedWrite v => exact execFlowSeedWrite_keeps (.rfl' _ s) _
  case bar4Write f off v => exact execBar4Write_keeps (.rfl' _ s) f off v
  case ringEnable r v => exact execRingEnable_keeps (.rfl' _ s) _ _
  case doorbellWrite f r v => exact execDoorbellWrite_keeps (.rfl' _ s) _ _ _
  case invalidate f r v => exact execInvalidate_keeps (.rfl' _ s) f r v
  case invalidateDone r => exact execInvalidateDone_keeps (.rfl' _ s) _
  case descriptorFetch r entries ok => exact execDescriptorFetch_keeps (.rfl' _ s) _ _ _
  case descriptorStart r data => exact execDescriptorStart_keeps (.rfl' _ s) _ _
  case txBufferReadDone r data ok => exact execTxBufferReadDone_keeps (.rfl' _ s) _ _ _
  case completionWrite c => exact execCompletionWrite_keeps (.rfl' _ s) _
  case eventWrite r => exact execEventWrite_keeps (.rfl' _ s) _
  case telemRecordWrite r => exact execTelemRecordWrite_keeps (.rfl' _ s) _
  case telemBufferClose r => exact execTelemBufferClose_keeps (.rfl' _ s) _
  case functionLevelReset f => exact execFunctionLevelReset_keeps (.rfl' _ s) _
  case flrComplete f => exact execFlrComplete_keeps (.rfl' _ s) _
  case msixModerationExpire r => exact execMsixModerationExpire_keeps (.rfl' _ s) _
  case dmaStart n => exact execDmaStart_keeps (.rfl' _ s) _
  case dmaPause n => exact execDmaPause_keeps (.rfl' _ s) _
  case dmaPauseDrained n => exact execDmaPauseDrained_keeps (.rfl' _ s) _
  case dmaResume n => exact execDmaResume_keeps (.rfl' _ s) _
  case dmaAbort n => exact execDmaAbort_keeps (.rfl' _ s) _
  case dmaMove n ins => exact execDmaMove_keeps (.rfl' _ s) _ _
  case dmaLoop n ins => exact execDmaLoop_keeps (.rfl' _ s) _ _
  case dmaWait n ins => exact execDmaWait_keeps (.rfl' _ s) _ _
  case dmaWaitSatisfied n => exact execDmaWaitSatisfied_keeps (.rfl' _ s) _
  case dmaWaitTimeout n => exact execDmaWaitTimeout_keeps (.rfl' _ s) _
  case dmaSignal n ins => exact execDmaSignal_keeps (.rfl' _ s) _ _
  case dmaEnd n ins => exact execDmaEnd_keeps (.rfl' _ s) _ _
  case dmaIllegalOpcode n ins => exact execDmaIllegalOpcode_keeps (.rfl' _ s) _ _
  case dmaBeat => exact execDmaBeat_keeps (.rfl' _ s)
  case dmaReadCompletion n data ok => exact execDmaReadCompletion_keeps (.rfl' _ s) _ _ _
  case dmaSwreqWrite f v => exact execDmaSwreqWrite_keeps (.rfl' _ s) _ _
  case clockTick => exact execClockTick_keeps (.rfl' _ s)
  case adjSet => exact execAdjSet_keeps (.rfl' _ s)
  case adjAdd => exact execAdjAdd_keeps (.rfl' _ s)
  case nowRead f => exact execNowRead_keeps (.rfl' _ s) _
  case triggerArm k mode => exact execTriggerArm_keeps (.rfl' _ s) _ _
  case triggerDisarm k => exact execTriggerDisarm_keeps (.rfl' _ s) _
  case triggerFire k => exact execTriggerFire_keeps (.rfl' _ s) _
  case ppsPulseEnd => exact execPpsPulseEnd_keeps (.rfl' _ s)
  case captureEdge k rising pps quarter => exact execCaptureEdge_keeps (.rfl' _ s) _ _ _ _
  case capturePop f k => exact execCapturePop_keeps (.rfl' _ s) _ _
  case powerWindowEnd vin iin p uj => exact execPowerWindowEnd_keeps (.rfl' _ s) _ _ _ _
  case voltageReached => exact execVoltageReached_keeps (.rfl' _ s)
  case settleDone => exact execSettleDone_keeps (.rfl' _ s)
  case voltageLowered => exact execVoltageLowered_keeps (.rfl' _ s)
  case currentLimitCrossing peak => exact execCurrentLimitCrossing_keeps (.rfl' _ s) _
  case currentLimitStage2 => exact execCurrentLimitStage2_keeps (.rfl' _ s)
  case limitHoldExpire => exact execLimitHoldExpire_keeps (.rfl' _ s)
  case startupHoldExpire => exact execStartupHoldExpire_keeps (.rfl' _ s)
  case capGraceExpire => exact execCapGraceExpire_keeps (.rfl' _ s)
  case sensorRead sensor deg => exact execSensorRead_keeps (.rfl' _ s) _ _
  case thermalTrip sensor => exact execThermalTrip_keeps (.rfl' _ s) _
  case socConversionDone vin iin => exact execSocConversionDone_keeps (.rfl' _ s) _ _
  case anvilPowerUpDone => exact execAnvilPowerUpDone_keeps (.rfl' _ s)
  case poweredMinute good => exact execPoweredMinute_keeps (.rfl' _ s) _
  case vinValid => exact execVinValid_keeps (.rfl' _ s)
  case vinInvalid => exact execVinInvalid_keeps (.rfl' _ s)
  case inrushDone => exact execInrushDone_keeps (.rfl' _ s)
  case buttonPress => exact execButtonPress_keeps (.rfl' _ s)
  case buttonHold => exact execButtonHold_keeps (.rfl' _ s)
  case buttonRelease => exact execButtonRelease_keeps (.rfl' _ s)
  case watchdogExpire => exact execWatchdogExpire_keeps (.rfl' _ s)
  case chipResetRequest f key => exact execChipResetRequest_keeps (.rfl' _ s) _ _
  case horizonResetRequest f key => exact execHorizonResetRequest_keeps (.rfl' _ s) _ _
  case chipReset => exact execChipReset_keeps (.rfl' _ s)
  case perstAssert => exact execPerstAssert_keeps (.rfl' _ s)
  case perstRelease => exact execPerstRelease_keeps (.rfl' _ s)
  case dawnStandbyReady => exact execDawnStandbyReady_keeps (.rfl' _ s)
  case bootSlotCheck => exact execBootSlotCheck_keeps (.rfl' _ s)
  case serviceCoreStart => exact execServiceCoreStart_keeps (.rfl' _ s)
  case dawnBistDone failed => exact execDawnBistDone_keeps (.rfl' _ s) _
  case chipletCalibrated bad => exact execChipletCalibrated_keeps (.rfl' _ s) _
  case coreBringupDone vin bad => exact execCoreBringupDone_keeps (.rfl' _ s) _ _
  case dawnReady ms => exact execDawnReady_keeps (.rfl' _ s) _
  case flashRead => exact execFlashRead_keeps (.rfl' _ s)
  case flashProgram => exact execFlashProgram_keeps (.rfl' _ s)
  case flashErase => exact execFlashErase_keeps (.rfl' _ s)
  case flashOpDone ok => exact execFlashOpDone_keeps (.rfl' _ s) _
  case faultDetect src kind addr => exact execFaultDetect_keeps (.rfl' _ s) _ _ _
  case squallAccept => exact execSquallAccept_keeps (.rfl' _ s)
  case firstRearm => exact execFirstRearm_keeps (.rfl' _ s)
  case blockResetDrained t => exact execBlockResetDrained_keeps (.rfl' _ s) _
  case blockResetDone t => exact execBlockResetDone_keeps (.rfl' _ s) _
  case privBlockResetDone ix ok => exact execPrivBlockResetDone_keeps (.rfl' _ s) _ _
  case maskSetExpire => exact execMaskSetExpire_keeps (.rfl' _ s)
  case rootPllRelock => exact execRootPllRelock_keeps (.rfl' _ s)
  case bistRunPlan v => exact execBistRunPlan_keeps (.rfl' _ s) _
  case bistRunOne v => exact execBistRunOne_keeps (.rfl' _ s) _
  case bistStop v => exact execBistStop_keeps (.rfl' _ s) _
  case bistSliceStart d => exact execBistSliceStart_keeps (.rfl' _ s) _
  case bistSliceEnd d ok loc fixed => exact execBistSliceEnd_keeps (.rfl' _ s) _ _ _ _
  case bistSliceTimeout d => exact execBistSliceTimeout_keeps (.rfl' _ s) _
  case bnQuote => exact execBnQuote_keeps (.rfl' _ s)
  case bnExtend => exact execBnExtend_keeps (.rfl' _ s)
  case bnEnroll => exact execBnEnroll_keeps (.rfl' _ s)
  case bnArb => exact execBnArb_keeps (.rfl' _ s)
  case bnCert => exact execBnCert_keeps (.rfl' _ s)
  case bnZcert => exact execBnZcert_keeps (.rfl' _ s)
  case bnZcmd => exact execBnZcmd_keeps (.rfl' _ s)
  case bnCommandDone => exact execBnCommandDone_keeps (.rfl' _ s)
  case zenTapTotals c ok zclk => exact execZenTapTotals_keeps (.rfl' _ s) _ _ _
  case zenEdge zclk => exact execZenEdge_keeps (.rfl' _ s) _
  case zenEdgeTimeout zclk => exact execZenEdgeTimeout_keeps (.rfl' _ s) _
  case zenRecordCommit => exact execZenRecordCommit_keeps (.rfl' _ s)
  case zenCommand => exact execZenCommand_keeps (.rfl' _ s)
  case zenTamper cause => exact execZenTamper_keeps (.rfl' _ s) _
  case zvddPowerUp ok => exact execZvddPowerUp_keeps (.rfl' _ s) _
  case zenRecordDeliver => exact execZenRecordDeliver_keeps (.rfl' _ s)
  case zvddLoss => exact execZvddLoss_keeps (.rfl' _ s)
  case lossOfLock l => exact execLossOfLock_keeps (.rfl' _ s) _
  case adaptationUpdate l tap up => exact execAdaptationUpdate_keeps (.rfl' _ s) _ _ _

/-- Settles O4: what a command keeps is what its footprint allows. -/
theorem commandsCompleteWithinTheirFootprint : Obligations.CommandsCompleteWithinTheirFootprint := by
  intro c s
  obtain ⟨t, hexec, hkeep⟩ := exec_keeps c s
  exact ⟨t, hexec, hkeep.only⟩

/-- Settles O3: the command in front keeps the canonical form, and taking it off the queue does not bear on it. -/
theorem stepsKeepTheCanonicalForm : Obligations.StepsKeepTheCanonicalForm := by
  intro s t hs hstep
  unfold step at hstep
  split at hstep
  · cases hstep
    exact hs
  · next c rest _ =>
    obtain ⟨u, hexec, hkeep⟩ := exec_keeps c { s with pending := rest }
    cases hexec.symm.trans hstep
    exact hkeep.canon hs

/-- Settles O1: `step` is a match on the queue. -/
theorem stepRunsTheFrontCommand : Obligations.StepRunsTheFrontCommand := by
  refine ⟨fun s c rest => rfl, fun s hempty => ?_⟩
  unfold step
  rw [hempty]

/-- The key of a register word gives its register and its indices back. -/
theorem keyReset_regKey (n : RName) (i j : Nat) : keyReset (regKey n i j) = regReset n (i % 65536) (j % 65536) := by
  unfold keyReset regKey
  generalize hn : n.ctorIdx = c
  have hinst : ((c * 65536 + i % 65536) * 65536 + j % 65536) / 65536 % 65536 = i % 65536 := by omega
  have hname : ((c * 65536 + i % 65536) * 65536 + j % 65536) / 65536 / 65536 = c := by omega
  have hword : ((c * 65536 + i % 65536) * 65536 + j % 65536) % 65536 = j % 65536 := by omega
  rw [hinst, hname, hword, ← hn, RName.ofNat_ctorIdx]

/-- A field at reset, of a register whose words all have the one value of its table. -/
theorem State.reset_fget {f : Fld} (i j : Nat) (h : ∀ i j, regReset f.reg i j = (regInfo f.reg).rst) :
    State.reset.fget f i j = bits (BitVec.ofNat 32 (regInfo f.reg).rst).toNat f.hi f.lo := by
  rw [← h (i % 65536) (j % 65536), ← keyReset_regKey]
  rfl

theorem State.reset_flag {f : Fld} (i j : Nat) (h : ∀ i j, regReset f.reg i j = (regInfo f.reg).rst) :
    State.reset.flag f i j = decide (bits (BitVec.ofNat 32 (regInfo f.reg).rst).toNat f.hi f.lo = 1) := by
  rw [State.flag, State.reset_fget i j h]

/-- Settles O2: at reset the register files and memories list nothing, so that a register reads what its key does. -/
theorem resetState : Obligations.ResetState :=
  ⟨⟨rfl, rfl, rfl, rfl⟩, rfl, rfl, rfl, fun _ _ _ => rfl, fun _ _ _ => rfl,
    fun t => ⟨State.reset_flag t 0 fun _ _ => rfl, State.reset_flag t 0 fun _ _ => rfl, State.reset_fget t 0 fun _ _ => rfl,
      State.reset_fget t 0 fun _ _ => rfl⟩,
    fun p c => ⟨State.reset_fget p c fun _ _ => rfl, State.reset_fget p 0 fun _ _ => rfl⟩,
    fun m => ⟨State.reset_fget m 0 fun _ _ => rfl, State.reset_fget m 0 fun _ _ => rfl⟩, by decide⟩

end Sys2Proof.Machine
end

section
/-!
PROOF. Laws that the statements share: what a footprint of registers allows, a field after a write wherever it is, and what a walk over a list
leaves as it was.
-/

set_option Elab.async false

namespace Sys2Proof.Machine

/-- Every part of the state, and of the registers those of a list. -/
def Touch.onRegs (l : List RName) : Touch := { Touch.all with regs := regBits l }

theorem Touch.onRegs_has {l : List RName} {n : RName} (h : n ∉ l) : (Touch.onRegs l).has n = false := by
  rw [Bool.eq_false_iff]
  exact fun e => h (regBits_mem e)

theorem Keeps.onlyRegs {l : List RName} {s t : State} (h : Keeps (.onRegs l) s t) : OnlyRegs l s t :=
  fun n i j hn => (h.regs n i j (Touch.onRegs_has hn)).1

theorem Keeps.onlyWide {l : List RName} {s t : State} (h : Keeps (.onRegs l) s t) : OnlyWide l s t :=
  fun n i j hn => (h.regs n i j (Touch.onRegs_has hn)).2

/-- Every part of the state, and of the registers all but those of a list. -/
def Touch.avoid (l : List RName) : Touch := { Touch.all with regs := everyReg ^^^ regBits l }

theorem Keeps.rd {L : Touch} {s t : State} (h : Keeps L s t) (n : RName) (i j : Nat) (e : L.has n = false) : t.rd n i j = s.rd n i j :=
  (h.regs n i j e).1

theorem Keeps.rdw {L : Touch} {s t : State} (h : Keeps L s t) (n : RName) (i j : Nat) (e : L.has n = false) : t.rdw n i j = s.rdw n i j :=
  (h.regs n i j e).2

theorem OnlyRegs.refl (l : List RName) (s : State) : OnlyRegs l s s := fun _ _ _ _ => rfl

theorem OnlyRegs.trans {l : List RName} {s t u : State} (h : OnlyRegs l s t) (h' : OnlyRegs l t u) : OnlyRegs l s u :=
  fun n i j hn => (h' n i j hn).trans (h n i j hn)

theorem OnlyWide.trans {l : List RName} {s t u : State} (h : OnlyWide l s t) (h' : OnlyWide l t u) : OnlyWide l s u :=
  fun n i j hn => (h' n i j hn).trans (h n i j hn)

theorem OnlyRegs.wr {l : List RName} {s t : State} {n : RName} (h : OnlyRegs l s t) (v : Word) (i j : Nat) (hn : n ∈ l) :
    OnlyRegs l s (t.wr n v i j) :=
  fun m k q hm => (rd_wr_reg t v i j k q (ne_of_mem_of_not_mem hn hm).symm).trans (h m k q hm)

theorem OnlyRegs.fset {l : List RName} {s t : State} {f : Fld} (h : OnlyRegs l s t) (v i j : Nat) (hf : f.reg ∈ l) :
    OnlyRegs l s (t.fset f v i j) :=
  h.wr _ i j hf

theorem OnlyRegs.wrw {l : List RName} {s t : State} (h : OnlyRegs l s t) (n : RName) (v : DWord) (i j : Nat) : OnlyRegs l s (t.wrw n v i j) :=
  fun m k q hm => h m k q hm

theorem OnlyWide.refl (l : List RName) (s : State) : OnlyWide l s s := fun _ _ _ _ => rfl

theorem OnlyWide.wr {l : List RName} {s t : State} (h : OnlyWide l s t) (n : RName) (v : Word) (i j : Nat) : OnlyWide l s (t.wr n v i j) :=
  fun m k q hm => h m k q hm

theorem OnlyWide.fset {l : List RName} {s t : State} (h : OnlyWide l s t) (f : Fld) (v i j : Nat) : OnlyWide l s (t.fset f v i j) :=
  fun m k q hm => h m k q hm

theorem OnlyWide.wrw {l : List RName} {s t : State} {n : RName} (h : OnlyWide l s t) (v : DWord) (i j : Nat) (hn : n ∈ l) :
    OnlyWide l s (t.wrw n v i j) :=
  fun m k q hm => (rdw_wrw_reg t v i j k q (ne_of_mem_of_not_mem hn hm).symm).trans (h m k q hm)

/-- The footprint that a command's law gives, seen from the state it ends in. -/
theorem only_footprint {c : Instr} {s t : State} (h : exec c s = .next t) : Only (footprint c) s t := by
  obtain ⟨u, hexec, hkeep⟩ := exec_keeps c s
  cases hexec.symm.trans h
  exact hkeep.only

/-- A field of the same register, written where the word read lies or elsewhere. -/
theorem fget_fset (s : State) (f : Fld) (v i j i' j' : Nat) (h : f.lo ≤ f.hi) (h' : f.hi < 32) :
    (s.fset f v i j).fget f i' j' = if regKey f.reg i' j' = regKey f.reg i j then v % 2 ^ (f.hi + 1 - f.lo) else s.fget f i' j' := by
  split
  · next he =>
    have hword (t : State) : t.fget f i' j' = t.fget f i j := by unfold State.fget State.rd; rw [he]
    rw [hword, fget_fset_same s f v i j h h']
  · next hne =>
    unfold State.fget State.fset
    rw [rd_wr_key s _ hne]

theorem flag_fset_one (s : State) (f : Fld) (i j : Nat) (h : f.lo = f.hi) (h' : f.hi < 32) : (s.fset f 1 i j).flag f i j = true :=
  flag_fset_same s f 1 i j h h'

theorem flag_fset_none (s : State) (f : Fld) (i j : Nat) (h : f.lo = f.hi) (h' : f.hi < 32) : (s.fset f 0 i j).flag f i j = false :=
  flag_fset_same s f 0 i j h h'

/-- A flag that is 0 stays 0 when 0 is written, wherever it is. -/
theorem flag_fset_zero {s : State} {f : Fld} {i j : Nat} (i' j' : Nat) (h : f.lo ≤ f.hi) (h' : f.hi < 32) (hs : s.flag f i j = false) :
    (s.fset f 0 i' j').flag f i j = false := by
  unfold State.flag at hs ⊢
  rw [fget_fset s f 0 i' j' i j h h']
  split
  · simp
  · exact hs

/-- A field of a word that is the same in two states. -/
theorem fget_of_rd {s t : State} {i j : Nat} (f : Fld) (h : t.rd f.reg i j = s.rd f.reg i j) : t.fget f i j = s.fget f i j := by
  unfold State.fget
  rw [h]

theorem flag_of_rd {s t : State} {i j : Nat} (f : Fld) (h : t.rd f.reg i j = s.rd f.reg i j) : t.flag f i j = s.flag f i j := by
  unfold State.flag
  rw [fget_of_rd f h]

theorem flag_of_fget {s : State} {f : Fld} {i j n : Nat} (h : s.fget f i j = n) : s.flag f i j = decide (n = 1) := by
  rw [State.flag, h]

/-- A walk that leaves a view alone at each step. -/
theorem State.each_view {α β : Type} (view : State → β) {l : List α} {f : α → State → State} {s : State}
    (hf : ∀ a t, view (f a t) = view t) : view (s.each l f) = view s :=
  State.each_ind (P := fun t => view t = view s) rfl fun a t h => (hf a t).trans h

@[simp] theorem State.each_nil {α : Type} (s : State) (f : α → State → State) : s.each [] f = s := rfl

@[simp] theorem State.each_cons {α : Type} (s : State) (a : α) (l : List α) (f : α → State → State) : s.each (a :: l) f = (f a s).each l f := rfl

@[simp] theorem State.when_true (s : State) (f : State → State) : s.when true f = f s := rfl

@[simp] theorem State.when_false (s : State) (f : State → State) : s.when false f = s := rfl

/-- A walk over lanes that changes each by itself. -/
theorem State.each_setLane_lane {ls : List Nat} {f : Nat → LaneSt → LaneSt} (s : State) (hl : ls.Nodup) (k : Nat) :
    (s.each ls fun l t => t.setLane l (f l (t.lane l))).lane k = if k ∈ ls then f k (s.lane k) else s.lane k := by
  induction ls generalizing s with
  | nil => simp
  | cons a r ih =>
    obtain ⟨ha, hr⟩ := List.nodup_cons.1 hl
    rw [State.each_cons, ih _ hr]
    by_cases hk : k = a
    · subst hk
      simp [ha]
    · simp [hk, State.setLane_lane_ne s a k _ hk]

theorem State.portLanes_nodup (s : State) (p : Nat) : (s.portLanes p).Nodup := List.nodup_range'

theorem State.driveLanes_lane {ls : List Nat} (s : State) (sig : LineSig) (hl : ls.Nodup) (k : Nat) :
    (s.driveLanes ls sig).lane k = if k ∈ ls then { s.lane k with line := sig } else s.lane k :=
  State.each_setLane_lane (f := fun _ q => { q with line := sig }) s hl k

theorem State.flag_abortEyes (s : State) (ls : List Nat) (f : Fld) (i j : Nat) (h : f.reg ≠ .eyeResult) :
    (s.abortEyes ls).flag f i j = s.flag f i j :=
  flag_of_rd f (State.abortEyes_rd _ _ _ _ _ h)

theorem State.driveLanes_port (s : State) (ls : List Nat) (sig : LineSig) (p : Nat) : (s.driveLanes ls sig).port p = s.port p :=
  State.each_view (fun t => t.port p) fun _ _ => rfl

end Sys2Proof.Machine
end

section
/-!
PROOF. Negotiation, training and lock (R48, R53, R54, R56).
-/

set_option Elab.async false

set_option exponentiation.threshold 4096
set_option maxRecDepth 20000

namespace Sys2Proof.Machine

/-- R53: training that may not use its history starts from presets. -/
theorem State.trainStart_firstTrain (s : State) (p r : Nat) : (s.trainStart p r false).flag F.portStatus_FIRST_TRAIN p = true := by
  unfold State.trainStart State.flag
  dsimp only
  rw [State.abortEyes_fget _ _ _ _ _ (by decide), State.setPort_reads, fget_fset_same _ F.portStatus_FIRST_TRAIN _ _ _ (by decide) (by decide)]
  rfl

theorem State.anRates_lt {s : State} {p r : Nat} (h : r ∈ s.anRates p) : r < 6 := by
  have := (List.mem_filter.1 h).1
  simpa using this

/-- R48: what two ability sets resolve to is one of the port's rates. -/
theorem State.resolveMode_lt {s : State} {p base r : Nat} {ability : Word} (h : s.resolveMode p base ability = some r) : r < 6 := by
  unfold State.resolveMode at h
  dsimp only at h
  split at h
  · cases h
    decide
  · exact State.anRates_lt (List.mem_of_mem_filter (List.mem_of_mem_head? h))

/-- R48: the pages received, as the port keeps them. -/
def State.pagesTaken (s : State) (p : Nat) (base : BitVec 6) (ability : Word) : State :=
  let q := s.port p
  let changed := decide (q.base ≠ base.toNat) || decide (s.rd .anPartner p ≠ ability)
  ((s.setPort p { q with base := base.toNat, anPosted := q.anPosted && !changed }).wr .anPartner ability p).fset
    F.portStatus_LP_FUGRANUM (b2n (decide (ability ≠ 0))) p

theorem State.pagesTaken_keeps (s : State) (p : Nat) (base : BitVec 6) (ability : Word) :
    Keeps (.onRegs [.anPartner, .portStatus]) s (s.pagesTaken p base ability) :=
  State.fset_keeps (State.wr_keeps (State.setPort_keeps (.rfl' _ s) _ _) _ _ _ _) _ _ _ _

/-- Taking the pages leaves what the rates depend on. -/
theorem State.pagesTaken_resolveMode (s : State) (p : Nat) (base : BitVec 6) (ability : Word) (b : Nat) (a : Word) :
    (s.pagesTaken p base ability).resolveMode p b a = s.resolveMode p b a := by
  have hk := s.pagesTaken_keeps p base ability
  have hrates : (s.pagesTaken p base ability).anRates p = s.anRates p := by
    unfold State.anRates State.groupFamily
    simp only [hk.fget F.portCfg_ALLOW p 0 rfl, hk.fget F.txgrpCfg_FAMILY (p / 64) 0 rfl, hk.fget F.portCfg_WIDTH p 0 rfl,
      hk.flag F.dawnStatus_HORIZON 0 0 rfl]
  unfold State.resolveMode
  rw [hrates, hk.fget F.portCfg_WIDTH p 0 rfl]

theorem State.pagesTaken_state (s : State) (p : Nat) (base : BitVec 6) (ability : Word) :
    (s.pagesTaken p base ability).fget F.portStatus_STATE p = s.fget F.portStatus_STATE p := by
  unfold State.pagesTaken
  dsimp only
  rw [fget_fset_apart _ _ _ _ (by decide) (by decide) (by decide) (by decide), fget_wr_reg _ _ _ _ _ _ _ (by decide), State.setPort_reads]

section
variable {s : State} {p : Nat}

/-- R48: a resolved rate starts training. -/
theorem execAnPageReceived_of_some {base : BitVec 6} {ability : Word} {r : Nat} (hst : s.fget F.portStatus_STATE p = 2)
    (hwait : (s.port p).anWait = false) (hr : s.resolveMode p base.toNat ability = some r) :
    ∃ u : State, execAnPageReceived p base ability s = .next (u.trainStart p r true) := by
  have h : (s.pagesTaken p base ability).resolveMode p base.toNat ability = some r := by rw [State.pagesTaken_resolveMode, hr]
  unfold State.pagesTaken at h
  unfold execAnPageReceived
  rw [if_neg (by simp [hst, hwait])]
  dsimp only at h ⊢
  rw [h]
  exact ⟨_, rfl⟩

/-- R48: without a common rate the port waits, and posts the failure once for each partner. -/
theorem execAnPageReceived_of_none {base : BitVec 6} {ability : Word} (hst : s.fget F.portStatus_STATE p = 2)
    (hwait : (s.port p).anWait = false) (hr : s.resolveMode p base.toNat ability = none) :
    ∃ t u : State, execAnPageReceived p base ability s = .next t ∧
      u = (s.pagesTaken p base ability).setPort p { (s.pagesTaken p base ability).port p with anPosted := true, anWait := true } ∧
      (t = u ∨ t = u.postLane 0x0112 p 0) := by
  have h : (s.pagesTaken p base ability).resolveMode p base.toNat ability = none := by rw [State.pagesTaken_resolveMode, hr]
  refine ⟨_, _, rfl, rfl, ?_⟩
  rw [if_neg (by simp [hst, hwait])]
  unfold State.pagesTaken at h ⊢
  dsimp only at h ⊢
  rw [h]
  dsimp only
  split
  · exact .inl rfl
  · exact .inr rfl

/-- R45, R56: alignment and lock bring the port to UP, and what follows leaves PORT_STATUS as it was. -/
theorem execAlignLock_portStatus (idle : Nat) (hst : s.fget F.portStatus_STATE p = 4)
    (hal : s.fget F.portStatus_RATE_RES p ≠ 0 ∨ s.aligned p = true) :
    ∃ t, execAlignLock p idle s = .next t ∧ ∀ i, t.rd .portStatus i = ((s.portTo p 5).fset F.portStatus_HI_SER 0 p).rd .portStatus i := by
  let up := (s.portTo p 5).fset F.portStatus_HI_SER 0 p
  have hkeep := State.pauseAtUp_keeps (State.sendBlks_keeps (State.postLane_keeps (State.histRecord_keeps (.rfl' (.avoid [.portStatus]) up) p)
    0x0110 p (s.fget F.portStatus_RATE_RES p)) p (List.replicate idle idleBlk)) p
  refine ⟨_, rfl, fun i => ?_⟩
  rw [if_pos ⟨hst, hal⟩]
  exact hkeep.rd .portStatus i 0 rfl

theorem State.portTo_linkUp (s : State) (p st : Nat) : (s.portTo p st).flag F.portStatus_LINK_UP p = decide (st = 5) := by
  unfold State.portTo
  rw [flag_fset_same _ _ _ _ _ (by decide) (by decide)]
  by_cases h : st = 5 <;> simp [h, b2n]

theorem State.postLane_state (s : State) (a b c p : Nat) :
    (s.postLane a b c).fget F.portStatus_STATE p = s.fget F.portStatus_STATE p :=
  (s.postLane_noLanes a b c).fget _ p 0 rfl

theorem State.postLane_port (s : State) (a b c p : Nat) : (s.postLane a b c).port p = s.port p := by
  unfold State.port
  rw [(s.postLane_noLanes a b c).link rfl]

end

/-- Settles O7: each command is taken in the state it is for; where it trains or negotiates again the port is where `trainStart` or `restart`
leaves it. -/
theorem portNegotiationAndTraining : Obligations.PortNegotiationAndTraining := by
  intro s p
  refine ⟨?_, ?_, ?_, ?_, ?_, ?_, ?_, ?_, ?_, ?_⟩
  · intro base ability r hst hwait hr
    obtain ⟨u, hu⟩ := execAnPageReceived_of_some hst hwait hr
    exact ⟨_, hu, u.trainStart_state p r true, u.trainStart_rate p r true (by have := State.resolveMode_lt hr; omega)⟩
  · intro base ability hst hwait hr
    obtain ⟨t, u, ht, rfl, hu⟩ := execAnPageReceived_of_none hst hwait hr
    refine ⟨t, ht, ?_⟩
    rcases hu with rfl | rfl
    · rw [State.setPort_fget, State.setPort_port]
      exact ⟨(s.pagesTaken_state p base ability).trans hst, rfl⟩
    · rw [State.postLane_state, State.postLane_port, State.setPort_fget, State.setPort_port]
      exact ⟨(s.pagesTaken_state p base ability).trans hst, rfl⟩
  · intro base ability hwait
    show execAnPageReceived p base ability s = .next s
    unfold execAnPageReceived
    rw [if_pos (.inr hwait)]
  · intro hst hwait han
    refine ⟨_, rfl, ?_⟩
    rw [if_pos ⟨hst, hwait⟩]
    refine ⟨by rw [State.restart_state, if_pos han], ?_⟩
    unfold State.restart
    rw [if_pos han]
    simp only [State.driveLanes_port, State.setPort_port]
  · intro lanes hst
    obtain ⟨t, ht, hk⟩ := execTrainComplete_keeps (.rfl' (.onRegs [.txFfe, .laneStatus, .portStatus]) s) p lanes
    refine ⟨t, ht, ?_, hk.onlyRegs⟩
    unfold execTrainComplete at ht
    rw [if_neg (not_not.2 hst)] at ht
    cases ht
    exact State.portTo_state _ _ _ (by decide)
  · intro hst han
    refine ⟨_, rfl, ?_⟩
    rw [if_pos (.inl hst), State.restart_state, (State.postLane_noLanes _ _ _ _).flag F.portCfg_AN p 0 rfl, if_pos han]
  · intro hst han
    refine ⟨_, rfl, ?_⟩
    rw [if_pos (.inl hst), State.restart_state, (State.postLane_noLanes _ _ _ _).flag F.portCfg_AN p 0 rfl, han]
    rfl
  · intro hst hhist
    refine ⟨_, rfl, ?_⟩
    rw [if_pos ⟨.inl hst, hhist⟩]
    exact ⟨State.trainStart_state _ _ _ _, State.trainStart_firstTrain _ _ _, State.trainStart_rate _ _ _ _ (Nat.mod_lt _ (by decide))⟩
  · intro idle hst hal
    obtain ⟨t, ht, hstatus⟩ := execAlignLock_portStatus idle hst hal
    refine ⟨t, ht, ?_, ?_⟩
    · rw [fget_of_rd F.portStatus_STATE (hstatus p), fget_fset_off _ _ _ _ _ _ (by decide) (by decide) (by decide)]
      exact s.portTo_state p 5 (by decide)
    · rw [flag_of_rd F.portStatus_LINK_UP (hstatus p), flag_fset_off _ _ _ _ _ _ (by decide) (by decide) (by decide)]
      exact s.portTo_linkUp p 5
  · intro hst
    refine ⟨_, rfl, ?_⟩
    rw [if_pos hst, State.restart_state]

end Sys2Proof.Machine
end

section
/-!
PROOF. Ports enabled and disabled (R36, R37, R56), and the family of a transmit group (R77).
-/

set_option Elab.async false

set_option exponentiation.threshold 4096
set_option maxRecDepth 20000

namespace Sys2Proof.Machine

/-- What the check of R36 depends on: the configurations, the group's family, and the other ports' states. -/
theorem State.cfgCause_congr {s t : State} {p : Nat} (hcfg : ∀ q, t.rd .portCfg q = s.rd .portCfg q)
    (hfam : t.rd .txgrpCfg (p / 64) = s.rd .txgrpCfg (p / 64))
    (hst : ∀ q < 512, q ≠ p → t.fget F.portStatus_STATE q = s.fget F.portStatus_STATE q) : t.cfgCause p = s.cfgCause p := by
  have hoverlap : (List.range 512).any (fun q => decide (q ≠ p) && t.flag F.portCfg_EN q && decide (t.fget F.portStatus_STATE q ≠ 9) &&
        rangesMeet p (2 ^ t.fget F.portCfg_WIDTH p) q (2 ^ t.fget F.portCfg_WIDTH q)) =
      (List.range 512).any (fun q => decide (q ≠ p) && s.flag F.portCfg_EN q && decide (s.fget F.portStatus_STATE q ≠ 9) &&
        rangesMeet p (2 ^ s.fget F.portCfg_WIDTH p) q (2 ^ s.fget F.portCfg_WIDTH q)) := by
    rw [Bool.eq_iff_iff, List.any_eq_true, List.any_eq_true]
    refine exists_congr fun q => and_congr_right fun hq => ?_
    rw [flag_of_rd F.portCfg_EN (hcfg q), fget_of_rd F.portCfg_WIDTH (hcfg p), fget_of_rd F.portCfg_WIDTH (hcfg q)]
    by_cases hp : q = p
    · simp [hp]
    · rw [hst q (List.mem_range.1 hq) hp]
  unfold State.cfgCause State.groupFamily
  dsimp only
  rw [hoverlap, fget_of_rd F.portCfg_WIDTH (hcfg p), fget_of_rd F.portCfg_RATE (hcfg p), flag_of_rd F.portCfg_AN (hcfg p),
    fget_of_rd F.portCfg_ALLOW (hcfg p), fget_of_rd F.portCfg_NRZ_FEC (hcfg p), fget_of_rd F.txgrpCfg_FAMILY hfam]

theorem State.cfgCause_lt (s : State) (p : Nat) : s.cfgCause p < 8 := by
  unfold State.cfgCause
  dsimp only
  repeat' split
  all_goals decide

/-- A port whose EN goes to 1, before its configuration is checked (R36, R37). -/
def State.portPrepared (s : State) (p : Nat) : State :=
  let s0 := ((((s.wr .portStatus (s.rd .portStatus p &&& 0xF0000#32) p).wrw .fecCwCorr 0 p).wrw .fecCwUncorr 0 p).wrw .fecSymCorr 0 p).setPort p
    { lastFrame := (s.port p).lastFrame }
  let sL := s0.each (s0.portLanes p) (fun l s => s.setLane (l / 8 * 8) { s.lane (l / 8 * 8) with pllLost := false })
  (sL.wr .anPartner 0 p).nimbusPortReset p

theorem State.portPrepared_keeps (s : State) (p : Nat) :
    Keeps (.onRegs [.portStatus, .fecCwCorr, .fecCwUncorr, .fecSymCorr, .anPartner]) s (s.portPrepared p) :=
  State.nimbusPortReset_keeps (State.wr_keeps (State.each_keeps (State.setPort_keeps (State.wrw_keeps (State.wrw_keeps (State.wrw_keeps
    (State.wr_keeps (.rfl' _ s) _ _ _ _) _ _ _ _) _ _ _ _) _ _ _ _) _ _) fun _ _ h => State.setLane_keeps h _ _) _ _ _ _) _

/-- The preparation clears the port's own status only. -/
theorem State.portPrepared_status (s : State) {p q : Nat} (h : q % 65536 ≠ p % 65536) :
    (s.portPrepared p).rd .portStatus q = s.rd .portStatus q := by
  unfold State.portPrepared
  dsimp only
  rw [(State.nimbusPortReset_keeps (.rfl' (.avoid [.portStatus]) _) p).rd .portStatus q 0 rfl, rd_wr_reg _ _ _ _ _ _ (by decide)]
  refine (State.each_view (fun t => t.rd .portStatus q) fun _ _ => by rfl).trans ?_
  rw [State.setPort_rd, rd_wrw, rd_wrw, rd_wrw, rd_wr_inst _ _ _ _ h]

theorem State.portPrepared_cfgCause (s : State) (p : PortIx) : (s.portPrepared p).cfgCause p = s.cfgCause p :=
  State.cfgCause_congr (fun q => (s.portPrepared_keeps p).rd .portCfg q 0 rfl) ((s.portPrepared_keeps p).rd .txgrpCfg _ 0 rfl)
    fun q hq hne => fget_of_rd _ (s.portPrepared_status (by omega))

theorem State.portPrepared_portLanes (s : State) (p q : Nat) : (s.portPrepared p).portLanes q = s.portLanes q := by
  unfold State.portLanes
  rw [(s.portPrepared_keeps p).fget F.portCfg_WIDTH q 0 rfl]

theorem State.portPrepared_laneOut (s : State) (p l : Nat) : (s.portPrepared p).laneOut l = s.laneOut l := by
  have hk := s.portPrepared_keeps p
  unfold State.laneOut State.tileOn
  rw [hk.rd .spareLane _ 0 rfl, hk.flag F.dawnStatus_HORIZON 0 0 rfl, hk.flag F.dawnStatus_NOFWD 0 0 rfl,
    hk.flag F.spareTile_TILE_RETIRED _ 0 rfl, hk.flag F.spareTile_UNUSABLE _ 0 rfl]

theorem State.portPrepared_cagesOf (s : State) (p q : Nat) : (s.portPrepared p).cagesOf q = s.cagesOf q := by
  have hk := s.portPrepared_keeps p
  unfold State.cagesOf
  simp only [hk.flag F.cageCfg_VALID _ 0 rfl, hk.fget F.cageCfg_FIRST_LANE _ 0 rfl, hk.fget F.portCfg_WIDTH q 0 rfl,
    hk.fget F.cageCfg_LANES _ 0 rfl]

/-- R36, R56: the first row of the table whose condition holds, for a port without a module in the way. -/
theorem State.portStart_state (s : State) (p : PortIx) :
    (s.cfgCause p ≠ 0 → (s.portStart p).fget F.portStatus_STATE p = 9 ∧ (s.portStart p).fget F.portStatus_CFG_CAUSE p = s.cfgCause p) ∧
    (s.cfgCause p = 0 → (s.portLanes p).any s.laneOut = true → (s.portStart p).fget F.portStatus_STATE p = 8) ∧
    (s.cfgCause p = 0 → (s.portLanes p).any s.laneOut = false → s.cagesOf p = [] →
      (s.portStart p).fget F.portStatus_STATE p = if s.flag F.portCfg_AN p then 2 else 3) := by
  have hlanes : ((s.portPrepared p).portLanes p).any (s.portPrepared p).laneOut = (s.portLanes p).any s.laneOut := by
    rw [State.portPrepared_portLanes, funext (s.portPrepared_laneOut p)]
  have heq : s.portStart p =
      if s.cfgCause p ≠ 0 then ((s.portPrepared p).fset F.portStatus_CFG_CAUSE (s.cfgCause p) p).portTo p 9
      else if (s.portLanes p).any s.laneOut then ((s.portPrepared p).portTo p 8).driveLanes (s.portLanes p) .off
      else
        let auto := (s.cagesOf p).filter (fun k => (s.portPrepared p).flag F.cageCfg_AUTO k)
        let s2 := if auto.any (fun k => decide ((s.portPrepared p).fget F.cageStatus_MSTATE k ≠ 5)) then (s.portPrepared p).portTo p 1
          else (s.portPrepared p).restart p
        s2.each auto (fun k s => s.ownAccess k (.select k)) := by
    rw [← hlanes, ← s.portPrepared_cfgCause p, ← s.portPrepared_portLanes p p, ← s.portPrepared_cagesOf p p]
    rfl
  refine ⟨fun hc => ?_, fun hc hout => ?_, fun hc hout hcages => ?_⟩
  · rw [heq, if_pos hc]
    refine ⟨State.portTo_state _ _ _ (by decide), ?_⟩
    unfold State.portTo
    rw [fget_fset_off _ _ _ _ _ _ (by decide) (by decide) (by decide), fget_fset_off _ _ _ _ _ _ (by decide) (by decide) (by decide),
      fget_fset_same _ _ _ _ _ (by decide) (by decide)]
    exact Nat.mod_eq_of_lt (s.cfgCause_lt p)
  · rw [heq, if_neg (not_not.2 hc), if_pos hout, State.driveLanes_fget]
    exact State.portTo_state _ _ _ (by decide)
  · rw [heq, if_neg (not_not.2 hc), hout, hcages]
    simp only [Bool.false_eq_true, if_false, List.filter_nil, List.any_nil, State.each_nil]
    rw [State.restart_state, (s.portPrepared_keeps p).flag F.portCfg_AN p 0 rfl]

theorem portEnableFirstRow : Claims.PortEnableFirstRow := by
  intro s p v hen
  have hbit : bitAt (v ||| 1#32).toNat 0 = true := by simp [bitAt]
  have hexec : exec (.portEnable p v) s = .next ((s.wr .portCfg ((v ||| 1#32) &&& 0xFFFFFF#32) p).portStart p) := by
    show execPortEnable p v s = _
    unfold execPortEnable State.portCfgWrite
    rw [hen, hbit]
    rfl
  obtain ⟨hbad, hout, hfree⟩ := (s.wr .portCfg ((v ||| 1#32) &&& 0xFFFFFF#32) p).portStart_state p
  refine ⟨_, hexec, ?_, hbad, hout, hfree⟩
  rw [(State.portStart_keeps (.rfl' (.avoid [.portCfg]) _) p).rd .portCfg p 0 rfl, rd_wr_same]

/-- R37: EN going to 0. -/
theorem State.portStop_spec (s : State) (p : Nat) :
    (s.portStop p).fget F.portStatus_STATE p = 0 ∧ (s.portStop p).flag F.portCfg_EN p = false := by
  unfold State.portStop
  dsimp only
  rw [(State.flushPort_keeps (.rfl' (.avoid [.portStatus, .portCfg]) _) p 0x050A).fget F.portStatus_STATE p 0 rfl,
    (State.flushPort_keeps (.rfl' (.avoid [.portStatus, .portCfg]) _) p 0x050A).flag F.portCfg_EN p 0 rfl, State.setPort_fget,
    State.setPort_flag]
  refine ⟨State.portTo_state _ _ _ (by decide), ?_⟩
  unfold State.portTo
  rw [flag_fset_reg _ _ _ _ _ _ (by decide), flag_fset_reg _ _ _ _ _ _ (by decide), flag_fset_same _ _ _ _ _ (by decide) (by decide)]
  rfl

theorem execPortDisable_eq {s : State} {p : Nat} (hen : s.flag F.portCfg_EN p = true) : execPortDisable p s = .next (s.portStop p) := by
  have hbit : bitAt (s.rd .portCfg p &&& 0xFFFFFFFE#32).toNat 0 = false := by simp [bitAt]
  unfold execPortDisable State.portCfgWrite
  rw [hen, hbit]
  rfl

section
variable {s : State} {p : Nat}

theorem State.cfgCause_of_misaligned (h : p % 2 ^ s.fget F.portCfg_WIDTH p ≠ 0) : s.cfgCause p = 1 := if_pos h

theorem State.cfgCause_of_overlap {q : Nat} (hq : q < 512) (hal : p % 2 ^ s.fget F.portCfg_WIDTH p = 0) (hne : q ≠ p)
    (hen : s.flag F.portCfg_EN q = true) (hst : s.fget F.portStatus_STATE q ≠ 9)
    (h1 : p < q + 2 ^ s.fget F.portCfg_WIDTH q) (h2 : q < p + 2 ^ s.fget F.portCfg_WIDTH p) : s.cfgCause p = 2 := by
  have hmeet : (List.range 512).any (fun q => decide (q ≠ p) && s.flag F.portCfg_EN q && decide (s.fget F.portStatus_STATE q ≠ 9) &&
      rangesMeet p (2 ^ s.fget F.portCfg_WIDTH p) q (2 ^ s.fget F.portCfg_WIDTH q)) = true :=
    List.any_eq_true.2 ⟨q, List.mem_range.2 hq, by simp [hne, hen, hst, rangesMeet, h1, h2]⟩
  unfold State.cfgCause
  dsimp only
  rw [if_neg (not_not.2 hal), if_pos hmeet]

/-- A list of five causes from which none is taken. -/
theorem cause_none {a b c d e : Prop} [Decidable a] [Decidable b] [Decidable c] [Decidable d] [Decidable e]
    (h : (if a then 1 else if b then 2 else if c then 3 else if d then 4 else if e then 5 else 0) = 0) : ¬a ∧ ¬b ∧ ¬c ∧ ¬d ∧ ¬e := by
  split_ifs at h
  exact ⟨‹_›, ‹_›, ‹_›, ‹_›, ‹_›⟩

/-- R36: a configuration without a cause passes every check of the list. -/
theorem State.cfgCause_eq_zero (h : s.cfgCause p = 0) :
    let allowed := (List.range 6).filter (fun k => bitAt (s.fget F.portCfg_ALLOW p) k && decide (familyOf k = s.groupFamily p))
    (if s.flag F.portCfg_AN p then allowed.isEmpty
      else decide (s.fget F.portCfg_RATE p < 6) && decide (familyOf (s.fget F.portCfg_RATE p) ≠ s.groupFamily p)) = false ∧
    s.fget F.portCfg_RATE p < 6 ∧
    (if s.flag F.portCfg_AN p then allowed.all (fun k => badPair k (s.fget F.portCfg_WIDTH p))
      else badPair (s.fget F.portCfg_RATE p) (s.fget F.portCfg_WIDTH p)) = false := by
  obtain ⟨-, -, hfam, hrate, hpair⟩ := cause_none h
  exact ⟨Bool.eq_false_iff.2 hfam, by omega, Bool.eq_false_iff.2 hpair⟩

/-- R36: a forced rate that passes is a rate of the family and a pair of R35. -/
theorem State.cfgCause_forced (h : s.cfgCause p = 0) (han : s.flag F.portCfg_AN p = false) :
    s.fget F.portCfg_RATE p < 6 ∧ familyOf (s.fget F.portCfg_RATE p) = s.groupFamily p ∧
      badPair (s.fget F.portCfg_RATE p) (s.fget F.portCfg_WIDTH p) = false := by
  obtain ⟨hfam, hrate, hpair⟩ := State.cfgCause_eq_zero h
  simp only [han, Bool.false_eq_true, if_false] at hfam hpair
  simpa [hrate, hpair] using hfam

/-- R36: where a negotiated configuration passes, negotiation has a rate to use. -/
theorem State.cfgCause_negotiated (h : s.cfgCause p = 0) (han : s.flag F.portCfg_AN p = true) (hhz : s.flag F.dawnStatus_HORIZON = false) :
    s.anRates p ≠ [] := by
  obtain ⟨-, -, hpair⟩ := State.cfgCause_eq_zero h
  simp only [han, if_true] at hpair
  obtain ⟨k, hk, hgood⟩ := List.all_eq_false.1 hpair
  obtain ⟨hrange, hallow⟩ := List.mem_filter.1 hk
  refine List.ne_nil_of_mem (a := k) (List.mem_filter.2 ⟨hrange, ?_⟩)
  rw [hhz]
  simp only [Bool.not_eq_true] at hgood
  simp [hgood] at hallow ⊢
  exact hallow

end

theorem portConfigurationCauses : Claims.PortConfigurationCauses := by
  intro s p
  refine ⟨fun hen => ?_, State.cfgCause_of_misaligned, ?_, State.cfgCause_forced, State.cfgCause_negotiated⟩
  · obtain ⟨hst, hoff⟩ := s.portStop_spec p
    refine ⟨_, execPortDisable_eq hen, hst, hoff, fun v => ?_⟩
    have hbit : bitAt (v ||| 1#32).toNat 0 = true := by simp [bitAt]
    show execPortEnable p v s = _
    unfold execPortEnable State.portCfgWrite
    rw [hen, hbit]
    rfl
  · intro q hal hne hen hst h1 h2
    exact State.cfgCause_of_overlap q.isLt hal (fun e => hne (Fin.ext e)) hen hst h1 h2

/-! ## The family of a transmit group -/

/-- The number whose bits below `n` are those that hold. -/
theorem testBit_foldl_add_two_pow (P : Nat → Bool) (n g : Nat) :
    ((List.range n).foldl (fun m k => if P k then m + 2 ^ k else m) 0 < 2 ^ n) ∧
      ((List.range n).foldl (fun m k => if P k then m + 2 ^ k else m) 0).testBit g = (decide (g < n) && P g) := by
  induction n with
  | zero => simp
  | succ n ih =>
    obtain ⟨hlt, hbit⟩ := ih
    rw [List.range_succ, List.foldl_append, List.foldl_cons, List.foldl_nil]
    generalize (List.range n).foldl (fun m k => if P k then m + 2 ^ k else m) 0 = m at hlt hbit
    have hpow : 2 ^ (n + 1) = 2 ^ n + 2 ^ n := by ring
    by_cases hp : P n = true
    · rw [if_pos hp]
      refine ⟨by omega, ?_⟩
      rcases Nat.lt_trichotomy g n with h | h | h
      · rw [Nat.add_comm, Nat.testBit_two_pow_add_gt h, hbit]
        simp [h, show g < n + 1 by omega]
      · subst h
        rw [Nat.add_comm, Nat.testBit_two_pow_add_eq, Nat.testBit_lt_two_pow hlt]
        simp [hp]
      · rw [Nat.testBit_lt_two_pow (Nat.lt_of_lt_of_le (show m + 2 ^ n < 2 ^ (n + 1) by omega) (Nat.pow_le_pow_right (by omega) h))]
        simp [show ¬g < n + 1 by omega]
    · rw [if_neg hp]
      refine ⟨by omega, ?_⟩
      rw [hbit]
      rcases Nat.lt_trichotomy g n with h | h | h
      · simp [h, show g < n + 1 by omega]
      · subst h
        simp [hp]
      · simp [show ¬g < n by omega, show ¬g < n + 1 by omega]

/-- R77: the bits of FAMILY that a write leaves alone. -/
theorem State.txgrpWrite_family (s : State) (c : Nat) (v : Word) {g : Nat} (hg : g < 8) :
    bitAt ((s.txgrpWrite c v).fget F.txgrpCfg_FAMILY c) g =
      if (List.range 8).any (fun k => s.flag F.portCfg_EN (64 * c + 8 * g + k)) then bitAt (s.fget F.txgrpCfg_FAMILY c) g
      else bitAt v.toNat g := by
  obtain ⟨hlt, hbit⟩ := testBit_foldl_add_two_pow (fun g => (List.range 8).any (fun k => s.flag F.portCfg_EN (64 * c + 8 * g + k))) 8 g
  unfold State.txgrpWrite bitAt
  dsimp only at hlt hbit ⊢
  generalize (List.range 8).foldl _ 0 = keep at hlt hbit ⊢
  rw [fget_fset_same _ _ _ _ _ (by decide) (by decide), show 255 - keep = 2 ^ 8 - (keep + 1) by omega]
  show Nat.testBit (_ % 2 ^ 8) g = _
  rw [Nat.testBit_mod_two_pow, Nat.testBit_or, Nat.testBit_and, Nat.testBit_and, Nat.testBit_two_pow_sub_succ hlt, hbit,
    show (256 : Nat) = 2 ^ 8 from rfl, Nat.testBit_mod_two_pow]
  by_cases hany : (List.range 8).any (fun k => s.flag F.portCfg_EN (64 * c + 8 * g + k)) = true
  · simp [hg, hany]
  · simp [hg, hany]

theorem txgrpCfgWrite_spec (s : State) (c : ChipletIx) (v : Word) (g : Fin 8) : ∃ t, exec (.txgrpCfgWrite c v) s = .next t ∧
    bitAt (t.fget F.txgrpCfg_FAMILY c) g =
      (if ∃ k : Fin 8, s.flag F.portCfg_EN (64 * c + 8 * g + k) = true then bitAt (s.fget F.txgrpCfg_FAMILY c) g else bitAt v.toNat g) ∧
    OnlyRegs [.txgrpCfg] s t := by
  refine ⟨_, rfl, ?_, (OnlyRegs.refl _ s).fset _ _ _ (by decide)⟩
  rw [State.txgrpWrite_family s c v g.isLt]
  refine if_congr ?_ rfl rfl
  rw [List.any_eq_true]
  exact ⟨fun ⟨k, hk, h⟩ => ⟨⟨k, List.mem_range.1 hk⟩, h⟩, fun ⟨k, h⟩ => ⟨k, List.mem_range.2 k.isLt, h⟩⟩

/-! ## The end of TEST -/

/-- What decides which port holds a lane: the configurations, and which ports are in CFG_ERR. -/
theorem State.portOfLane_congr {s t : State} (l : Nat) (hcfg : ∀ q, t.rd .portCfg q = s.rd .portCfg q)
    (hst : ∀ q, t.fget F.portStatus_STATE q = 9 ↔ s.fget F.portStatus_STATE q = 9) : t.portOfLane l = s.portOfLane l := by
  unfold State.portOfLane
  refine congrArg (fun f => List.find? f _) (funext fun pw => ?_)
  rw [flag_of_rd F.portCfg_EN (hcfg pw.1), fget_of_rd F.portCfg_WIDTH (hcfg pw.1), decide_eq_decide.2 (not_congr (hst pw.1))]

theorem State.portTo_state_at (s : State) (p st q : Nat) (h : st < 16) :
    (s.portTo p st).fget F.portStatus_STATE q = if regKey .portStatus q 0 = regKey .portStatus p 0 then st else s.fget F.portStatus_STATE q := by
  unfold State.portTo
  rw [fget_fset_off _ _ _ _ _ _ (by decide) (by decide) (by decide), fget_fset _ _ _ _ _ _ _ (by decide) (by decide)]
  exact if_congr Iff.rfl (Nat.mod_eq_of_lt h) rfl

/-- Training writes HIST_VALID of LANE_CTL only, and of PORT_STATUS the port's own. -/
theorem State.trainStart_laneCtl (s : State) (p r : Nat) (hist : Bool) (f : Fld) (i j : Nat) (hf : f.reg = .laneCtl) (hlo : 1 < f.lo) :
    (s.trainStart p r hist).fget f i j = s.fget f i j := by
  have hne {n : RName} (h : n ≠ .laneCtl) : f.reg ≠ n := fun e => h (e.symm.trans hf)
  have hclear (ls : List Nat) (c : Nat → State → Prop) [∀ l t, Decidable (c l t)] (t : State) :
      (t.each ls fun l u => if c l u then u else u.fset F.laneCtl_HIST_VALID 0 l).fget f i j = t.fget f i j := by
    refine State.each_view (fun u => u.fget f i j) fun l u => ?_
    split
    · rfl
    · exact fget_fset_off _ _ _ _ _ _ (by decide) (by decide) fun _ => .inl hlo
  unfold State.trainStart
  dsimp only
  rw [State.abortEyes_fget _ _ _ _ _ (hne (by decide)), State.setPort_fget, fget_fset_reg _ _ _ _ _ _ (hne (by decide)),
    fget_fset_reg _ _ _ _ _ _ (hne (by decide))]
  unfold State.portTo
  rw [fget_fset_reg _ _ _ _ _ _ (hne (by decide)), fget_fset_reg _ _ _ _ _ _ (hne (by decide))]
  refine (State.each_view (fun u => u.fget f i j) fun l u =>
    State.laneTrain_fget _ _ _ _ _ _ _ (hne (by decide)) (hne (by decide))).trans ((hclear _ _ _).trans ?_)
  unfold State.when
  split
  · exact hclear _ _ _
  · rfl

theorem State.trainStart_state_at (s : State) (p r : Nat) (hist : Bool) (q : Nat) :
    (s.trainStart p r hist).fget F.portStatus_STATE q =
      if regKey .portStatus q 0 = regKey .portStatus p 0 then 3 else s.fget F.portStatus_STATE q := by
  have hclear (ls : List Nat) (c : Nat → State → Prop) [∀ l t, Decidable (c l t)] (t : State) :
      (t.each ls fun l u => if c l u then u else u.fset F.laneCtl_HIST_VALID 0 l).fget F.portStatus_STATE q = t.fget F.portStatus_STATE q := by
    refine State.each_view (fun u => u.fget F.portStatus_STATE q) fun l u => ?_
    split
    · rfl
    · exact fget_fset_reg _ _ _ _ _ _ (by decide)
  unfold State.trainStart
  dsimp only
  rw [State.abortEyes_fget _ _ _ _ _ (by decide), State.setPort_fget, fget_fset_off _ _ _ _ _ _ (by decide) (by decide) (by decide),
    fget_fset_off _ _ _ _ _ _ (by decide) (by decide) (by decide), State.portTo_state_at _ _ _ _ (by decide)]
  refine if_congr Iff.rfl rfl ?_
  refine (State.each_view (fun u => u.fget F.portStatus_STATE q) fun l u =>
    State.laneTrain_fget _ _ _ _ _ _ _ (by decide) (by decide)).trans ((hclear _ _ _).trans ?_)
  unfold State.when
  split
  · exact hclear _ _ _
  · rfl

theorem State.restart_laneCtl (s : State) (p : Nat) (f : Fld) (i j : Nat) (hf : f.reg = .laneCtl) (hlo : 1 < f.lo) :
    (s.restart p).fget f i j = s.fget f i j := by
  have hne {n : RName} (h : n ≠ .laneCtl) : f.reg ≠ n := fun e => h (e.symm.trans hf)
  unfold State.restart
  split
  · rw [State.driveLanes_fget, State.driveLanes_fget, State.setPort_fget, State.abortEyes_fget _ _ _ _ _ (hne (by decide)),
      fget_wr_reg _ _ _ _ _ _ _ (hne (by decide))]
    unfold State.portTo
    rw [fget_fset_reg _ _ _ _ _ _ (hne (by decide)), fget_fset_reg _ _ _ _ _ _ (hne (by decide))]
    rfl
  · rw [State.trainStart_laneCtl _ _ _ _ _ _ _ hf hlo, fget_wr_reg _ _ _ _ _ _ _ (hne (by decide)),
      fget_wr_reg _ _ _ _ _ _ _ (hne (by decide))]

theorem State.restart_state_at (s : State) (p q : Nat) :
    (s.restart p).fget F.portStatus_STATE q =
      if regKey .portStatus q 0 = regKey .portStatus p 0 then (if s.flag F.portCfg_AN p = true then 2 else 3)
      else s.fget F.portStatus_STATE q := by
  unfold State.restart
  split
  · next han =>
    rw [State.driveLanes_fget, State.driveLanes_fget, State.setPort_fget, State.abortEyes_fget _ _ _ _ _ (by decide),
      fget_wr_reg _ _ _ _ _ _ _ (by decide), State.portTo_state_at _ _ _ _ (by decide)]
    rfl
  · rw [State.trainStart_state_at, fget_wr_reg _ _ _ _ _ _ _ (by decide), fget_wr_reg _ _ _ _ _ _ _ (by decide)]

theorem State.restart_testOn (s : State) (p k : Nat) : (s.restart p).testOn k = s.testOn k := by
  have hk := State.restart_keeps (.rfl' (.avoid [.prbsCtl]) s) p
  unfold State.testOn
  rw [State.restart_laneCtl _ _ _ _ _ rfl (by decide), hk.flag F.prbsCtl_GEN_EN k 0 rfl, hk.flag F.prbsCtl_CHK_EN k 0 rfl]

/-- Every test function of a lane off. -/
def State.testOff (s : State) (l : Nat) : State :=
  ((s.fset F.laneCtl_LOOP 0 l).fset F.prbsCtl_GEN_EN 0 l).fset F.prbsCtl_CHK_EN 0 l

theorem State.testSet_off (s : State) (l : Nat) : s.testSet l 0 false false = (s.testOff l).testUpdate l := by
  unfold State.testSet State.testOff
  simp [b2n]

theorem State.testOff_testOn_same (s : State) (l : Nat) : (s.testOff l).testOn l = false := by
  unfold State.testOff State.testOn
  rw [fget_fset_reg _ _ _ _ _ _ (by decide), fget_fset_reg _ _ _ _ _ _ (by decide), fget_fset_same _ _ _ _ _ (by decide) (by decide),
    flag_fset_off _ _ _ _ _ _ (by decide) (by decide) (by decide), flag_fset_same _ _ _ _ _ (by decide) (by decide),
    flag_fset_same _ _ _ _ _ (by decide) (by decide)]
  decide

theorem State.testOff_testOn_ne (s : State) {k l : Nat} (h : k % 65536 ≠ l % 65536) : (s.testOff l).testOn k = s.testOn k := by
  unfold State.testOff State.testOn
  simp only [fget_fset_inst _ _ _ _ h, flag_fset_inst _ _ _ _ h]

theorem State.testOff_onlyRegs (s : State) (l : Nat) : OnlyRegs [.laneCtl, .prbsCtl] s (s.testOff l) :=
  (((OnlyRegs.refl _ s).fset _ _ _ (by decide)).fset _ _ _ (by decide)).fset _ _ _ (by decide)

/-- A port on its way out of TEST: still there, or gone on with every test function off. -/
structure LeavesTest (s : State) (p : Nat) (u : State) : Prop where
  lanes : u.portLanes p = s.portLanes p
  held : ∀ l ∈ s.portLanes p, ∃ w, u.portOfLane l = some (p, w)
  an : u.flag F.portCfg_AN p = s.flag F.portCfg_AN p
  place : u.fget F.portStatus_STATE p = 7 ∨
    (u.fget F.portStatus_STATE p = if s.flag F.portCfg_AN p then 2 else 3) ∧ ∀ l ∈ s.portLanes p, u.testOn l = false

theorem LeavesTest.testOff {s u : State} {p : Nat} (h : LeavesTest s p u) (l : Nat) (hdist : ∀ k ∈ s.portLanes p, k ≠ l → k % 65536 ≠ l % 65536) :
    LeavesTest s p (u.testOff l) := by
  have hr := u.testOff_onlyRegs l
  have hcfg (q : Nat) : (u.testOff l).rd .portCfg q = u.rd .portCfg q := hr .portCfg q 0 (by decide)
  have hst (q : Nat) : (u.testOff l).fget F.portStatus_STATE q = u.fget F.portStatus_STATE q := fget_of_rd _ (hr .portStatus q 0 (by decide))
  refine ⟨?_, fun k hk => ?_, (flag_of_rd F.portCfg_AN (hcfg p)).trans h.an, ?_⟩
  · unfold State.portLanes
    rw [fget_of_rd F.portCfg_WIDTH (hcfg p)]
    exact h.lanes
  · obtain ⟨w, hw⟩ := h.held k hk
    exact ⟨w, (State.portOfLane_congr k hcfg fun q => by rw [hst q]).trans hw⟩
  · rw [hst]
    refine h.place.imp id fun ⟨hgone, hoff⟩ => ⟨hgone, fun k hk => ?_⟩
    by_cases hkl : k = l
    · rw [hkl, State.testOff_testOn_same]
    · rw [State.testOff_testOn_ne _ (hdist k hk hkl), hoff k hk]

theorem LeavesTest.restart {s u : State} {p : Nat} (h : LeavesTest s p u) (hst : u.fget F.portStatus_STATE p = 7)
    (hoff : ∀ l ∈ s.portLanes p, u.testOn l = false) : LeavesTest s p (u.restart p) := by
  have hk := State.restart_keeps (.rfl' (.avoid [.portCfg]) u) p
  have hcfg (q : Nat) : (u.restart p).rd .portCfg q = u.rd .portCfg q := hk.rd .portCfg q 0 rfl
  refine ⟨?_, fun k hkl => ?_, (flag_of_rd F.portCfg_AN (hcfg p)).trans h.an, .inr ⟨?_, fun k hkl => ?_⟩⟩
  · unfold State.portLanes
    rw [fget_of_rd F.portCfg_WIDTH (hcfg p)]
    exact h.lanes
  · obtain ⟨w, hw⟩ := h.held k hkl
    refine ⟨w, (State.portOfLane_congr k hcfg fun q => ?_).trans hw⟩
    rw [State.restart_state_at]
    split
    · next he =>
      have hq : u.fget F.portStatus_STATE q = u.fget F.portStatus_STATE p := by
        unfold State.fget State.rd
        rw [show F.portStatus_STATE.reg = .portStatus from rfl, he]
      rw [hq, hst]
      split <;> decide
    · rfl
  · rw [State.restart_state, h.an]
  · rw [State.restart_testOn, hoff k hkl]

/-- R56: a lane's test functions off, and the port goes on when they were the last. -/
theorem LeavesTest.testSet {s u : State} {p : Nat} (h : LeavesTest s p u) {l : Nat} (hl : l ∈ s.portLanes p)
    (hdist : ∀ k ∈ s.portLanes p, k ≠ l → k % 65536 ≠ l % 65536) :
    LeavesTest s p (u.testSet l 0 false false) ∧ (∀ k ∈ s.portLanes p, u.testOn k = false ∨ k = l → (u.testSet l 0 false false).testOn k = false) ∧
      ((∀ k ∈ s.portLanes p, (u.testSet l 0 false false).testOn k = false) → (u.testSet l 0 false false).fget F.portStatus_STATE p ≠ 7) := by
  have hv := h.testOff l hdist
  have hoffs (k : Nat) (hk : k ∈ s.portLanes p) (hor : u.testOn k = false ∨ k = l) : (u.testOff l).testOn k = false := by
    by_cases hkl : k = l
    · rw [hkl, State.testOff_testOn_same]
    · rw [State.testOff_testOn_ne _ (hdist k hk hkl)]
      exact hor.resolve_right hkl
  obtain ⟨w, hw⟩ := hv.held l hl
  rw [State.testSet_off]
  unfold State.testUpdate
  rw [hw]
  dsimp only
  rw [hv.lanes]
  by_cases hany : (s.portLanes p).any (u.testOff l).testOn = true
  · obtain ⟨k, hk, hon⟩ := List.any_eq_true.1 hany
    rw [if_pos hany]
    rcases hv.place with h7 | ⟨-, hoff⟩
    · rw [if_neg (by omega)]
      exact ⟨hv, hoffs, fun hall => absurd hon (by simp [hall k hk])⟩
    · exact absurd hon (by simp [hoff k hk])
  · have hoff : ∀ k ∈ s.portLanes p, (u.testOff l).testOn k = false := by simpa using hany
    rw [if_neg hany]
    split
    · next h7 =>
      refine ⟨hv.restart h7 hoff, fun k hk hor => ?_, fun _ => ?_⟩
      · rw [State.restart_testOn, hoffs k hk hor]
      · rw [State.restart_state]
        split <;> decide
    · next h7 => exact ⟨hv, hoffs, fun _ => h7⟩

/-- The walk over the lanes that are left. -/
theorem LeavesTest.each {s : State} {p : Nat} (hdist : ∀ l ∈ s.portLanes p, ∀ k ∈ s.portLanes p, k ≠ l → k % 65536 ≠ l % 65536)
    (r : List Nat) (hr : ∀ l ∈ r, l ∈ s.portLanes p) (u : State) (h : LeavesTest s p u)
    (hdone : ∀ k ∈ s.portLanes p, k ∉ r → u.testOn k = false)
    (hlast : (∀ k ∈ s.portLanes p, u.testOn k = false) → r = [] → u.fget F.portStatus_STATE p ≠ 7) :
    ((u.each r fun l t => t.testSet l 0 false false).fget F.portStatus_STATE p = if s.flag F.portCfg_AN p then 2 else 3) ∧
      ∀ k ∈ s.portLanes p, (u.each r fun l t => t.testSet l 0 false false).testOn k = false := by
  induction r generalizing u with
  | nil =>
    have hoff : ∀ k ∈ s.portLanes p, u.testOn k = false := fun k hk => hdone k hk (by simp)
    exact ⟨(h.place.resolve_left (hlast hoff rfl)).1, hoff⟩
  | cons l r ih =>
    obtain ⟨hnext, hoffs, h7⟩ := h.testSet (hr l (by simp)) (hdist l (hr l (by simp)))
    rw [State.each_cons]
    refine ih (fun k hk => hr k (by simp [hk])) _ hnext (fun k hk hkr => hoffs k hk ?_) fun hall _ => h7 hall
    by_cases hkl : k = l
    · exact .inr hkl
    · exact .inl (hdone k hk (by simp [hkl, hkr]))

theorem State.mem_portLanes_lt {s : State} {p l : Nat} (h : l ∈ s.portLanes p) : p ≤ l ∧ l < p + 8 := by
  have hw : s.fget F.portCfg_WIDTH p < 4 := Nat.mod_lt _ (by decide)
  have hpow : 2 ^ s.fget F.portCfg_WIDTH p ≤ 2 ^ 3 := Nat.pow_le_pow_right (by decide) (by omega)
  obtain ⟨i, hi, rfl⟩ := List.mem_range'.1 h
  omega

/-- R56: turning off every test function of a port ends TEST. -/
theorem testExit_spec (s : State) (p : PortIx) (hst : s.fget F.portStatus_STATE p = 7)
    (hheld : ∀ l ∈ s.portLanes p, ∃ w, s.portOfLane l = some (p.val, w)) :
    ∃ t, exec (.testExit p) s = .next t ∧ (t.fget F.portStatus_STATE p = if s.flag F.portCfg_AN p then 2 else 3) ∧
      ∀ l ∈ s.portLanes p, t.testOn l = false := by
  have hdist : ∀ l ∈ s.portLanes p, ∀ k ∈ s.portLanes p, k ≠ l → k % 65536 ≠ l % 65536 := by
    intro l hl k hk hne
    have := State.mem_portLanes_lt hl
    have := State.mem_portLanes_lt hk
    omega
  refine ⟨_, rfl, LeavesTest.each hdist _ (fun _ h => h) s ⟨rfl, hheld, rfl, .inl hst⟩ (fun k hk hn => absurd hk hn) fun _ hnil => ?_⟩
  have := Nat.two_pow_pos (s.fget F.portCfg_WIDTH p)
  simp only [State.portLanes, List.range'_eq_nil_iff] at hnil
  omega

/-- Settles O8: enabling by the first row of the table, the causes by the order of the check, and TEST by the walk over the port's lanes. -/
theorem portsEnableAndDisable : Obligations.PortsEnableAndDisable :=
  ⟨portEnableFirstRow, portConfigurationCauses, testExit_spec, txgrpCfgWrite_spec⟩

end Sys2Proof.Machine
end

section
/-!
PROOF. What takes a link down, and how lanes lock on markers (R45, R57).
-/

set_option Elab.async false

set_option exponentiation.threshold 4096
set_option maxRecDepth 20000

namespace Sys2Proof.Machine

theorem rdw_bump_same (s : State) (n : RName) (i j k : Nat) : (s.bump n i j k).rdw n i j = s.rdw n i j + BitVec.ofNat 64 k :=
  rdw_wrw_same _ _ _ _ _

theorem rdw_bump_reg (s : State) {n m : RName} (i j k i' j' : Nat) (h : m ≠ n) : (s.bump n i j k).rdw m i' j' = s.rdw m i' j' :=
  rdw_wrw_reg _ _ _ _ _ _ h

/-- A lane out of lock is out of lock when its port trains or negotiates again. -/
theorem State.restart_markLock {s : State} {l : Nat} (p : Nat) (h : s.flag F.laneStatus_MARK_LOCK l = false) :
    (s.restart p).flag F.laneStatus_MARK_LOCK l = false := by
  have hclear (ls : List Nat) (c : Nat → State → Prop) [∀ l t, Decidable (c l t)] (t : State) :
      (t.each ls fun l u => if c l u then u else u.fset F.laneCtl_HIST_VALID 0 l).flag F.laneStatus_MARK_LOCK l =
        t.flag F.laneStatus_MARK_LOCK l := by
    refine State.each_view (fun u => u.flag F.laneStatus_MARK_LOCK l) fun l u => ?_
    split
    · rfl
    · exact flag_fset_reg _ _ _ _ _ _ (by decide)
  have hreg (t : State) (ls : List Nat) : (t.abortEyes ls).flag F.laneStatus_MARK_LOCK l = t.flag F.laneStatus_MARK_LOCK l :=
    flag_of_rd F.laneStatus_MARK_LOCK (State.abortEyes_rd _ _ _ _ _ (by decide))
  unfold State.restart
  split
  · rw [State.driveLanes_flag, State.driveLanes_flag, State.setPort_flag, hreg, flag_wr_reg _ _ _ _ _ _ _ (by decide)]
    unfold State.portTo
    rw [flag_fset_reg _ _ _ _ _ _ (by decide), flag_fset_reg _ _ _ _ _ _ (by decide)]
    exact h
  · unfold State.trainStart State.portTo
    dsimp only
    rw [hreg, State.setPort_flag, flag_fset_reg _ _ _ _ _ _ (by decide), flag_fset_reg _ _ _ _ _ _ (by decide),
      flag_fset_reg _ _ _ _ _ _ (by decide), flag_fset_reg _ _ _ _ _ _ (by decide)]
    refine State.each_ind (P := fun u => u.flag F.laneStatus_MARK_LOCK l = false) ?_ fun k u hu => ?_
    · rw [hclear]
      unfold State.when
      split
      · rw [hclear, flag_wr_reg _ _ _ _ _ _ _ (by decide), flag_wr_reg _ _ _ _ _ _ _ (by decide), h]
      · rw [flag_wr_reg _ _ _ _ _ _ _ (by decide), flag_wr_reg _ _ _ _ _ _ _ (by decide), h]
    · unfold State.laneTrain
      dsimp only
      refine flag_fset_zero _ _ (by decide) (by decide) ?_
      split
      · rw [State.setLane_flag, flag_wr_reg _ _ _ _ _ _ _ (by decide), hu]
      · rw [State.setLane_flag, flag_wr_reg _ _ _ _ _ _ _ (by decide), hu]

theorem State.linkDown_markLock {s : State} {l : Nat} (p c : Nat) (h : s.flag F.laneStatus_MARK_LOCK l = false) :
    (s.linkDown p c).flag F.laneStatus_MARK_LOCK l = false := by
  unfold State.linkDown
  split
  · refine State.restart_markLock p ?_
    rw [(State.leaveUp_keeps (.rfl' (.avoid [.laneStatus]) s) p c).flag F.laneStatus_MARK_LOCK l 0 rfl, h]
  · exact h

section
variable {s : State} {l p w : Nat}

/-- A state that differs in the lanes' status only has the same link to bring down. -/
theorem State.linkDown_spec_of_laneStatus {t : State} (h : OnlyRegs [.laneStatus] s t) (c : Nat) (hst : s.fget F.portStatus_STATE p = 5)
    (hc : c < 16) : (t.linkDown p c).fget F.portStatus_DOWN_CAUSE p = c ∧
      (t.linkDown p c).fget F.portStatus_STATE p = if s.flag F.portCfg_AN p then 2 else 3 := by
  have hst' : t.fget F.portStatus_STATE p = 5 := (fget_of_rd F.portStatus_STATE (h .portStatus p 0 (by decide))).trans hst
  rw [← flag_of_rd F.portCfg_AN (h .portCfg p 0 (by decide))]
  exact State.linkDown_spec t p c hst' hc

theorem State.portOfLane_of_laneStatus {t : State} (h : OnlyRegs [.laneStatus] s t) (l : Nat) : t.portOfLane l = s.portOfLane l :=
  State.portOfLane_congr l (fun q => h .portCfg q 0 (by decide)) fun q => by rw [fget_of_rd F.portStatus_STATE (h .portStatus q 0 (by decide))]

/-- R57: the third missed marker in a row. -/
theorem execMarkerMiss_third (hport : s.portOfLane l = some (p, w)) (hst : s.fget F.portStatus_STATE p = 5)
    (hlock : s.flag F.laneStatus_MARK_LOCK l = true) (hei : s.flag F.portStatus_RX_EI p = false) (hmiss : (s.lane l).missed = 2) :
    ∃ t, execMarkerMiss l s = .next t ∧ t.fget F.portStatus_DOWN_CAUSE p = 2 ∧ t.flag F.laneStatus_MARK_LOCK l = false ∧
      t.fget F.portStatus_STATE p = if s.flag F.portCfg_AN p then 2 else 3 := by
  let u := ((s.setLane l { s.lane l with missed := 3 }).fset F.laneStatus_MARK_LOCK 0 l).setLane l
    { (s.setLane l { s.lane l with missed := 3 }).lane l with markAt := none, missed := 0 }
  have hu : OnlyRegs [.laneStatus] s u := ((OnlyRegs.refl _ s).fset (f := F.laneStatus_MARK_LOCK) 0 l 0 (by decide))
  have hexec : execMarkerMiss l s = .next (u.linkDown p 2) := by
    have hportu : u.portOfLane l = some (p, w) := (State.portOfLane_of_laneStatus hu l).trans hport
    unfold execMarkerMiss
    rw [if_pos ⟨hlock, by rw [hport]; exact hei⟩]
    dsimp only
    rw [hmiss, if_neg (by decide), hportu]
  have hoff : u.flag F.laneStatus_MARK_LOCK l = false := by
    show (State.setLane _ _ _).flag _ _ = _
    rw [State.setLane_flag, flag_fset_same _ _ _ _ _ (by decide) (by decide)]
    rfl
  obtain ⟨hcause, hgone⟩ := State.linkDown_spec_of_laneStatus hu 2 hst (by decide)
  exact ⟨_, hexec, hcause, State.linkDown_markLock p 2 hoff, hgone⟩

/-- What the counters of HI_SER and the window leave: the counts, and a lane's window that starts again (R57). -/
def State.serCounted (s : State) (l p n cws bad : Nat) : State :=
  let s1 := ((s.bump .fecSymCorr p 0 n).bump .fecCwCorr p 0 cws).bump .fecCwUncorr p 0 bad
  s1.setLane l { s1.lane l with serCws := 0, serSyms := 0 }

theorem State.serCounted_onlyRegs (s : State) (l p n cws bad : Nat) : OnlyRegs [.laneStatus] s (s.serCounted l p n cws bad) :=
  fun _ _ _ _ => rfl

theorem execHiSer_eq (hport : s.portOfLane l = some (p, w)) (n cws bad : Nat) : execHiSer l n cws bad s = .next
    (if s.fget F.portStatus_STATE p = 5 ∧ (s.fget F.portStatus_RATE_RES p ≠ 0 ∨ 5560 < (s.lane l).serSyms + n) then
      ((s.serCounted l p n cws bad).linkDown p 3).fset F.portStatus_HI_SER 1 p else s.serCounted l p n cws bad) := by
  unfold execHiSer State.serCounted
  rw [hport]

theorem execLossOfSignal_up (hport : s.portOfLane l = some (p, w)) (hei : s.flag F.portStatus_RX_EI p = false) :
    execLossOfSignal l s = .next (((s.fset F.laneStatus_SIG_DET 0 l).fset F.laneStatus_CDR_LOCK 0 l).linkDown p 1) := by
  unfold execLossOfSignal
  rw [hport]
  dsimp only
  rw [hei]
  rfl

theorem execLossOfLock_up (hport : s.portOfLane l = some (p, w)) (hrate : s.fget F.portStatus_RATE_RES p ≠ 0) :
    execLossOfLock l s = .next (s.linkDown p 2) := by
  unfold execLossOfLock
  rw [hport]
  dsimp only
  rw [if_pos hrate]

end

theorem linkDownConditions : Claims.LinkDownConditions := by
  intro s l p w hport hst
  refine ⟨fun hei => ?_, fun hlock hei hmiss => ?_, fun hrate => ?_, fun hei => ?_, fun n cws bad hser => ?_, fun n cws bad hrate hsyms => ?_⟩
  · refine ⟨_, execLossOfSignal_up hport hei, ?_⟩
    exact State.linkDown_spec_of_laneStatus (((OnlyRegs.refl _ s).fset _ _ _ (by decide)).fset _ _ _ (by decide)) 1 hst (by decide)
  · exact execMarkerMiss_third hport hst hlock hei hmiss
  · exact ⟨_, execLossOfLock_up hport hrate, State.linkDown_spec s p 2 hst (by decide)⟩
  · show execMarkerMiss l s = _
    unfold execMarkerMiss
    rw [hport]
    dsimp only [Option.any_some]
    rw [hei, if_neg (by simp)]
  · obtain ⟨hcause, hgone⟩ := State.linkDown_spec_of_laneStatus (s.serCounted_onlyRegs l p n cws bad) 3 hst (by decide)
    refine ⟨_, execHiSer_eq hport n cws bad, ?_⟩
    rw [if_pos ⟨hst, hser⟩, fget_fset_off _ _ _ _ _ _ (by decide) (by decide) (by decide),
      fget_fset_off _ _ _ _ _ _ (by decide) (by decide) (by decide), flag_fset_same _ _ _ _ _ (by decide) (by decide)]
    exact ⟨hcause, by decide, hgone⟩
  · refine ⟨_, execHiSer_eq hport n cws bad, ?_⟩
    rw [if_neg (by omega)]
    refine ⟨(fget_of_rd F.portStatus_STATE (s.serCounted_onlyRegs l p n cws bad .portStatus p 0 (by decide))).trans hst, ?_, ?_⟩
    · unfold State.serCounted
      rw [State.setLane_lane]
    · unfold State.serCounted
      rw [State.setLane_rdw, rdw_bump_reg _ _ _ _ _ _ (by decide), rdw_bump_reg _ _ _ _ _ _ (by decide), rdw_bump_same]

/-- R45: a second marker 16,384 codewords after the first locks the lane and is kept. -/
theorem execMarkerReceive_locks {s : State} {l diffs cw : Nat} (time ix w : Nat) (ei : Bool) (seq : BitVec 16) (hd : diffs ≤ 6) (hcw : 16384 ≤ cw)
    (hat : (s.lane l).markAt = some (cw - 16384)) :
    ∃ t, execMarkerReceive l diffs cw time ix w ei false seq s = .next t ∧ t.flag F.laneStatus_MARK_LOCK l = true ∧
      (t.lane l).laneIdx = ix ∧ (t.lane l).markSeq = seq.toNat ∧ (t.lane l).markTime = time ∧ OnlyRegs [.laneStatus] s t := by
  let u := (s.setLane l { s.lane l with markAt := some cw, missed := 0, laneIdx := ix, markSeq := seq.toNat, markTime := time, markWidth := w,
                                        announced := (s.lane l).announced || ei }).fset F.laneStatus_MARK_LOCK 1 l
  have hexec : ∃ t, execMarkerReceive l diffs cw time ix w ei false seq s = .next t ∧ (t = u ∨ ∃ p v, t = u.setPort p v) := by
    refine ⟨_, rfl, ?_⟩
    rw [if_neg (by omega)]
    dsimp only
    rw [hat, decide_eq_true rfl, decide_eq_true hcw, Bool.true_and, if_pos rfl]
    split
    · exact .inr ⟨_, _, rfl⟩
    · exact .inl rfl
  have hlock : u.flag F.laneStatus_MARK_LOCK l = true := flag_fset_same _ _ _ _ _ (by decide) (by decide)
  have hlane : u.lane l = { s.lane l with markAt := some cw, missed := 0, laneIdx := ix, markSeq := seq.toNat, markTime := time, markWidth := w,
                                          announced := (s.lane l).announced || ei } := State.setLane_lane _ _ _
  have honly : OnlyRegs [.laneStatus] s u := (OnlyRegs.refl _ s).fset (f := F.laneStatus_MARK_LOCK) 1 l 0 (by decide)
  obtain ⟨t, ht, rfl | ⟨p, v, rfl⟩⟩ := hexec
  · exact ⟨_, ht, hlock, by rw [hlane], by rw [hlane], by rw [hlane], honly⟩
  · have hport : (u.setPort p v).lane l = u.lane l := rfl
    exact ⟨_, ht, hlock, by rw [hport, hlane], by rw [hport, hlane], by rw [hport, hlane], honly⟩

theorem markerLock : Claims.MarkerLock := by
  intro s l
  refine ⟨fun diffs cw time ix w ei seq hd hcw hat => execMarkerReceive_locks time ix w ei seq hd hcw hat, ?_, fun hlock hei hmiss => ?_⟩
  · intro diffs cw time ix w ei wake seq hd
    exact congrArg _ (if_pos hd)
  · have hidle : (s.portOfLane l).any (fun x => s.flag F.portStatus_RX_EI x.1) = false := by
      cases hport : s.portOfLane l with
      | none => rfl
      | some x => exact hei x.1 x.2 hport
    show execMarkerMiss l s = _
    unfold execMarkerMiss
    rw [if_pos ⟨hlock, hidle⟩]
    dsimp only
    rw [if_pos (by omega)]

/-- Settles O9: a link-down condition is `State.linkDown`, and the lock follows the last two markers. -/
theorem linksGoDownAndLanesLock : Obligations.LinksGoDownAndLanesLock :=
  ⟨linkDownConditions, markerLock⟩

end Sys2Proof.Machine
end

section
/-!
PROOF. Electrical idle, the deep state, received faults (R57 to R60), and the tests of a lane (R55, R63 to R67).
-/

set_option Elab.async false

set_option exponentiation.threshold 4096
set_option maxRecDepth 20000

namespace Sys2Proof.Machine

/-- Each lane's next marker announces electrical idle (R58). -/
def State.announceIdle (s : State) (p : Nat) : State :=
  s.each (s.portLanes p) (fun l s => s.setLane l { s.lane l with tx := { (s.lane l).tx with ei := true } })

/-- Electrical idle entered (R58). -/
def State.eiEntered (s : State) (p idle : Nat) : State :=
  (((s.announceIdle p).sendBlks p (List.replicate idle idleBlk)).fset F.portStatus_TX_EI 1 p).driveLanes (s.portLanes p) .off

theorem execEiHoldExpire_eq (s : State) (p idle : Nat) : execEiHoldExpire p idle s = .next
    (if s.fget F.portStatus_STATE p = 5 ∧ s.flag F.portLps_EI_EN p = true ∧ s.eiAllowed p = true ∧
        s.flag F.portStatus_TX_EI p = false ∧ s.portHasFrame p = false then s.eiEntered p idle else s) := rfl

theorem State.sendBlks_nil (s : State) (p : Nat) : s.sendBlks p [] = s := by
  unfold State.sendBlks
  rw [List.foldl_nil, ite_self]

theorem State.announceIdle_keeps (s : State) (p : Nat) : Keeps (.onRegs []) s (s.announceIdle p) :=
  State.each_keeps (.rfl' _ s) fun _ _ h => State.setLane_keeps h _ _

theorem State.eiEntered_keeps (s : State) (p idle : Nat) : Keeps (.onRegs [.portStatus]) s (s.eiEntered p idle) :=
  State.driveLanes_keeps (State.fset_keeps (State.sendBlks_keeps (State.each_keeps (.rfl' _ s) fun _ _ h => State.setLane_keeps h _ _) _ _)
    _ _ _ _) _ _

theorem State.eiEntered_fields (s : State) (p idle : Nat) : (s.eiEntered p idle).flag F.portStatus_TX_EI p = true ∧
    (s.eiEntered p idle).fget F.portStatus_STATE p = s.fget F.portStatus_STATE p := by
  have hk : Keeps (.onRegs []) s ((s.announceIdle p).sendBlks p (List.replicate idle idleBlk)) := State.sendBlks_keeps (s.announceIdle_keeps p) _ _
  unfold State.eiEntered
  rw [State.driveLanes_flag, State.driveLanes_fget, flag_fset_same _ _ _ _ _ (by decide) (by decide),
    fget_fset_off _ _ _ _ _ _ (by decide) (by decide) (by decide), hk.fget F.portStatus_STATE p 0 rfl]
  exact ⟨rfl, rfl⟩

/-- R58: the transmitters squelch; where nothing more had to go out, the last marker announces it. -/
theorem State.eiEntered_lanes (s : State) (p idle : Nat) : ∀ l ∈ s.portLanes p, ((s.eiEntered p idle).lane l).line = .off ∧
    (idle = 0 → ((s.eiEntered p idle).lane l).tx.ei = true) := by
  intro l hl
  unfold State.eiEntered
  rw [State.driveLanes_lane _ _ (s.portLanes_nodup p), if_pos hl]
  refine ⟨rfl, ?_⟩
  rintro rfl
  rw [List.replicate_zero, State.sendBlks_nil]
  show ((s.announceIdle p).lane l).tx.ei = true
  unfold State.announceIdle
  rw [State.each_setLane_lane (f := fun _ q => { q with tx := { q.tx with ei := true } }) s (s.portLanes_nodup p), if_pos hl]

section
variable {s : State} {p : Nat}

theorem State.each_statusLanes (s : State) (ls : List Nat) (d : Fld) (v : Nat) (g : LaneSt → LaneSt) (f : Fld) (i j : Nat) (h : f.reg ≠ d.reg) :
    (s.each ls fun l t => (t.fset d v l).setLane l (g (t.lane l))).fget f i j = s.fget f i j :=
  State.each_view (fun t => t.fget f i j) fun l t => by rw [State.setLane_fget, fget_fset_reg _ _ _ _ _ _ h]

theorem execRxEiEntry_spec (hst : s.fget F.portStatus_STATE p = 5) (hann : (s.portLanes p).all (fun l => (s.lane l).announced) = true) :
    ∃ t, execRxEiEntry p s = .next t ∧ t.flag F.portStatus_RX_EI p = true ∧ t.fget F.portStatus_STATE p = 5 ∧
      OnlyRegs [.portStatus, .laneStatus] s t := by
  obtain ⟨t, ht, hk⟩ := execRxEiEntry_keeps (.rfl' (.onRegs [.portStatus, .laneStatus]) s) p
  refine ⟨t, ht, ?_⟩
  unfold execRxEiEntry at ht
  rw [if_pos ⟨hst, hann⟩] at ht
  cases ht
  refine ⟨?_, ?_, hk.onlyRegs⟩
  · rw [flag_of_fget (State.each_statusLanes _ _ _ _ (fun q => { q with announced := false }) F.portStatus_RX_EI p 0 (by decide))]
    exact flag_fset_same _ _ _ _ _ (by decide) (by decide)
  · rw [State.each_statusLanes _ _ _ _ (fun q => { q with announced := false }) _ _ _ (by decide),
      fget_fset_off _ _ _ _ _ _ (by decide) (by decide) (by decide), hst]

theorem execWakeMarker_spec (hst : s.fget F.portStatus_STATE p = 5) (hei : s.flag F.portStatus_RX_EI p = true) :
    ∃ t, execWakeMarker p s = .next t ∧ t.flag F.portStatus_RX_EI p = false ∧ t.fget F.portStatus_STATE p = 5 ∧
      OnlyRegs [.portStatus, .laneStatus] s t := by
  obtain ⟨t, ht, hk⟩ := execWakeMarker_keeps (.rfl' (.onRegs [.portStatus, .laneStatus]) s) p
  refine ⟨t, ht, ?_⟩
  unfold execWakeMarker at ht
  rw [if_pos hei] at ht
  cases ht
  refine ⟨?_, ?_, hk.onlyRegs⟩
  · rw [flag_of_fget (State.each_statusLanes _ _ _ _ (fun q => { q with markAt := some 0, missed := 0 }) F.portStatus_RX_EI p 0 (by decide))]
    exact flag_fset_same _ _ _ _ _ (by decide) (by decide)
  · rw [State.each_statusLanes _ _ _ _ (fun q => { q with markAt := some 0, missed := 0 }) _ _ _ (by decide),
      fget_fset_off _ _ _ _ _ _ (by decide) (by decide) (by decide), hst]

/-- R59: the wake burst goes out on every lane, and the next marker carries WAKE. -/
theorem State.wakeBurst_lane (s : State) {ls : List Nat} (hl : ls.Nodup) {l : Nat} (h : l ∈ ls) : ((s.wakeBurst ls).lane l).tx.wake = true := by
  let out := innerEncode 0 (burstPairs (prbsBits (prbsTaps 1) (s.draw.1.toNat % 8191 + 1) 131072).1)
  unfold State.wakeBurst
  dsimp only
  rw [State.each_setLane_lane (f := fun _ q => { q with tx := { q.tx with
    cws := [], pos := 0, ei := false, wake := true, p := out.getLastD 0, out := out } }) _ hl, if_pos h]

theorem State.eiExit_of_idle (h : s.flag F.portStatus_TX_EI p = true) :
    s.eiExit p = ((s.fset F.portStatus_TX_EI 0 p).wakeBurst (s.portLanes p)).driveLanes (s.portLanes p) .data := if_pos h

theorem execEiWake_spec (hst : s.fget F.portStatus_STATE p = 5) (hei : s.flag F.portStatus_TX_EI p = true) :
    ∃ t, execEiWake p s = .next t ∧ t.flag F.portStatus_TX_EI p = false ∧ t.fget F.portStatus_STATE p = 5 ∧ OnlyRegs [.portStatus] s t ∧
      ∀ l ∈ s.portLanes p, (t.lane l).line = .data ∧ (t.lane l).tx.wake = true := by
  have hburst := State.wakeBurst_keeps (.rfl' (.onRegs []) (s.fset F.portStatus_TX_EI 0 p)) (s.portLanes p)
  refine ⟨_, rfl, ?_, ?_, (State.eiExit_keeps (.rfl' (.onRegs [.portStatus]) s) p).onlyRegs, fun l hl => ?_⟩
  · rw [State.eiExit_of_idle hei, State.driveLanes_flag, hburst.flag F.portStatus_TX_EI p 0 rfl, flag_fset_same _ _ _ _ _ (by decide) (by decide)]
    rfl
  · rw [State.eiExit_of_idle hei, State.driveLanes_fget, hburst.fget F.portStatus_STATE p 0 rfl,
      fget_fset_off _ _ _ _ _ _ (by decide) (by decide) (by decide), hst]
  · rw [State.eiExit_of_idle hei, State.driveLanes_lane _ _ (s.portLanes_nodup p), if_pos hl]
    exact ⟨rfl, State.wakeBurst_lane _ (s.portLanes_nodup p) hl⟩

/-- R60: the port moves to DEEP, its link reported down. -/
theorem State.toDeep_status (enters : Bool) (hst : s.fget F.portStatus_STATE p = 5) (hdeep : s.deepAllowed p = true) :
    (s.toDeep p enters).fget F.portStatus_STATE p = 6 ∧ (s.toDeep p enters).flag F.portStatus_LINK_UP p = false := by
  have hrd : (s.toDeep p enters).rd .portStatus p = ((s.linkEnds p).portTo p 6).rd .portStatus p := by
    unfold State.toDeep
    rw [if_pos ⟨hst, hdeep⟩]
    have hk := State.each_keeps (State.driveLanes_keeps (State.abortEyes_keeps (.rfl' (.avoid [.portStatus]) ((s.linkEnds p).portTo p 6))
      (s.portLanes p)) (s.portLanes p) .off) (l := s.portLanes p) (f := fun l s => s.fset F.laneStatus_CDR_LOCK 0 l)
      fun _ _ h => State.fset_keeps h _ _ _ _
    dsimp only
    split
    · rw [State.setPort_rd, hk.rd .portStatus p 0 rfl]
    · rw [hk.rd .portStatus p 0 rfl]
  rw [fget_of_rd F.portStatus_STATE hrd, flag_of_rd F.portStatus_LINK_UP hrd, State.portTo_state _ _ _ (by decide), State.portTo_linkUp]
  exact ⟨rfl, rfl⟩

/-- R60: out of DEEP the port trains at the rate it had. -/
theorem State.fromDeep_status (hst : s.fget F.portStatus_STATE p = 6) :
    (s.fromDeep p).fget F.portStatus_STATE p = 3 ∧ (s.fromDeep p).fget F.portStatus_RATE_RES p = s.fget F.portStatus_RATE_RES p := by
  unfold State.fromDeep
  rw [if_pos hst]
  exact ⟨State.trainStart_state _ _ _ _, State.trainStart_rate _ _ _ _ (Nat.mod_lt _ (by decide))⟩

end

/-- Settles O10: each command of an UP port, and the two ways out of DEEP. -/
theorem lowPowerStates : Obligations.LowPowerStates := by
  intro s p hst
  refine ⟨fun idle hen hok htx hframe => ?_, fun idle hnot => ?_, fun hann => execRxEiEntry_spec hst hann, fun hei => execEiWake_spec hst hei,
    fun hei => execWakeMarker_spec hst hei, fun hei => ?_, fun hdeep => ?_, fun k => ?_, fun u hu => ?_⟩
  · obtain ⟨hflag, hstate⟩ := s.eiEntered_fields p idle
    refine ⟨s.eiEntered p idle, ?_, hflag, hstate.trans hst, (s.eiEntered_keeps p idle).onlyRegs, s.eiEntered_lanes p idle⟩
    exact (execEiHoldExpire_eq s p idle).trans (congrArg _ (if_pos ⟨hst, hen, hok, htx, hframe⟩))
  · refine (execEiHoldExpire_eq s p idle).trans (congrArg _ (if_neg ?_))
    rintro ⟨-, hen, -, -, hframe⟩
    rcases hnot with h | h
    · exact absurd (hen.symm.trans h) (by decide)
    · exact absurd (h.symm.trans hframe) (by decide)
  · refine ⟨s.linkDown p 2, ?_, (State.linkDown_spec s p 2 hst (by decide)).2⟩
    exact congrArg _ (if_pos hei)
  · exact ⟨⟨_, rfl, State.toDeep_status true hst hdeep⟩, _, rfl, State.toDeep_status false hst hdeep⟩
  · exact congrArg _ (if_pos hst)
  · exact ⟨⟨_, rfl, State.fromDeep_status hu⟩, _, rfl, State.fromDeep_status hu⟩

end Sys2Proof.Machine
end

section
/-!
PROOF. Eye scans, loopbacks, generators, checkers and adaptation of a lane (R55, R63 to R67).
-/

set_option Elab.async false

set_option exponentiation.threshold 4096
set_option maxRecDepth 20000

namespace Sys2Proof.Machine

theorem eyeStart_spec (s : State) (l : Nat) (v : Word) :
    ∃ t, execEyeStart l v s = .next t ∧ t.rd .eyeResult l = 0 ∧ (t.lane l).eyeRun = true := by
  have hbit : bitAt (v ||| 1#32).toNat 0 = true := by simp [bitAt]
  refine ⟨_, rfl, ?_⟩
  unfold State.eyeWrite
  dsimp only
  rw [hbit, if_pos rfl, State.setLane_rd, rd_wr_same, State.setLane_lane]
  exact ⟨rfl, rfl⟩

section
variable {s : State} {l p w : Nat}

theorem execEyePointDone_eq (n : Nat) (hrun : (s.lane l).eyeRun = true) (hport : s.portOfLane l = some (p, w)) :
    let s1 := (s.setLane l { s.lane l with eyeRun := false }).fset F.eyeResult_DONE 1 l
    execEyePointDone l n s = .next
      (if ((decide (s.fget F.portStatus_STATE p = 5) || decide (s.fget F.portStatus_STATE p = 7)) && s.flag F.laneStatus_SIG_DET l) = true then
        (s1.fset F.eyeResult_STATUS 0 l).fset F.eyeResult_ERRORS (min n 0x1FFFFFFF) l else s1.fset F.eyeResult_STATUS 1 l) := by
  unfold execEyePointDone
  rw [hrun, hport]
  rfl

/-- R63: a point of a lane that is up or under test ends with its count. -/
theorem eyePointDone_live (n : Nat) (hport : s.portOfLane l = some (p, w)) (hrun : (s.lane l).eyeRun = true)
    (hst : s.fget F.portStatus_STATE p = 5 ∨ s.fget F.portStatus_STATE p = 7) (hsig : s.flag F.laneStatus_SIG_DET l = true) :
    ∃ t, execEyePointDone l n s = .next t ∧ t.flag F.eyeResult_DONE l = true ∧
      t.fget F.eyeResult_STATUS l = 0 ∧ t.fget F.eyeResult_ERRORS l = min n 0x1FFFFFFF ∧ OnlyRegs [.eyeResult] s t := by
  refine ⟨_, execEyePointDone_eq n hrun hport, ?_⟩
  rw [if_pos (by rw [hsig, Bool.and_true, Bool.or_eq_true, decide_eq_true_iff, decide_eq_true_iff]; exact hst)]
  refine ⟨?_, ?_, ?_, ?_⟩
  · rw [flag_fset_off _ _ _ _ _ _ (by decide) (by decide) (by decide), flag_fset_off _ _ _ _ _ _ (by decide) (by decide) (by decide),
      flag_fset_same _ _ _ _ _ (by decide) (by decide)]
    rfl
  · rw [fget_fset_off _ _ _ _ _ _ (by decide) (by decide) (by decide), fget_fset_same _ _ _ _ _ (by decide) (by decide)]
    rfl
  · rw [fget_fset_same _ _ _ _ _ (by decide) (by decide)]
    exact Nat.mod_eq_of_lt (Nat.lt_of_le_of_lt (Nat.min_le_right _ _) (by decide))
  · exact (((OnlyRegs.refl _ s).fset _ _ _ (by decide)).fset _ _ _ (by decide)).fset _ _ _ (by decide)

/-- R63: without a signal the point ends with NOSIG. -/
theorem eyePointDone_noSignal (n : Nat) (hport : s.portOfLane l = some (p, w)) (hrun : (s.lane l).eyeRun = true)
    (hsig : s.flag F.laneStatus_SIG_DET l = false) :
    ∃ t, execEyePointDone l n s = .next t ∧ t.flag F.eyeResult_DONE l = true ∧ t.fget F.eyeResult_STATUS l = 1 ∧ OnlyRegs [.eyeResult] s t := by
  refine ⟨_, execEyePointDone_eq n hrun hport, ?_⟩
  rw [if_neg (by rw [hsig, Bool.and_false]; decide)]
  refine ⟨?_, ?_, ?_⟩
  · rw [flag_fset_off _ _ _ _ _ _ (by decide) (by decide) (by decide), flag_fset_same _ _ _ _ _ (by decide) (by decide)]
    rfl
  · rw [fget_fset_same _ _ _ _ _ (by decide) (by decide)]
    rfl
  · exact ((OnlyRegs.refl _ s).fset _ _ _ (by decide)).fset _ _ _ (by decide)

/-- The test functions as written, with a checker that starts reset and a generator that starts given its state (R64). -/
def State.testWritten (s : State) (l loop : Nat) (gen chk : Bool) : State :=
  let start := chk && !s.flag F.prbsCtl_CHK_EN l
  let run := gen && !s.flag F.prbsCtl_GEN_EN l
  let s1 := ((s.fset F.laneCtl_LOOP loop l).fset F.prbsCtl_GEN_EN (b2n gen) l).fset F.prbsCtl_CHK_EN (b2n chk) l
  let s2 := if start then ((s1.wrw .prbsErr 0 l).fset F.prbsStatus_CHK_LOCK 0 l).setLane l { s1.lane l with chk := {} } else s1
  s2.when run (fun s => s.genStart l)

theorem State.testSet_eq (s : State) (l loop : Nat) (gen chk : Bool) : s.testSet l loop gen chk = (s.testWritten l loop gen chk).testUpdate l := rfl

theorem State.testWritten_keeps (s : State) (l loop : Nat) (gen chk : Bool) :
    Keeps (.onRegs [.laneCtl, .prbsCtl, .prbsStatus, .prbsErr]) s (s.testWritten l loop gen chk) := by
  have hset := State.fset_keeps (State.fset_keeps (State.fset_keeps (.rfl' (.onRegs [.laneCtl, .prbsCtl, .prbsStatus, .prbsErr]) s)
    F.laneCtl_LOOP loop l 0) F.prbsCtl_GEN_EN (b2n gen) l 0) F.prbsCtl_CHK_EN (b2n chk) l 0
  unfold State.testWritten
  dsimp only
  refine State.when_keeps ?_ fun _ h => State.genStart_keeps h l
  split
  · exact State.setLane_keeps (State.fset_keeps (State.wrw_keeps hset _ _ _ _) _ _ _ _) _ _
  · exact hset

theorem State.testWritten_chkEn (s : State) (l loop : Nat) (gen : Bool) : (s.testWritten l loop gen true).flag F.prbsCtl_CHK_EN l = true := by
  have hset (t : State) : (t.fset F.prbsCtl_CHK_EN (b2n true) l).flag F.prbsCtl_CHK_EN l = true :=
    flag_fset_same _ _ _ _ _ (by decide) (by decide)
  have hgen (t : State) : (t.genStart l).flag F.prbsCtl_CHK_EN l = t.flag F.prbsCtl_CHK_EN l :=
    (State.genStart_keeps (.rfl' (.onRegs []) t) l).flag F.prbsCtl_CHK_EN l 0 rfl
  unfold State.testWritten State.when
  dsimp only
  split
  · rw [hgen]
    split
    · rw [State.setLane_flag, flag_fset_reg _ _ _ _ _ _ (by decide), flag_wrw, hset]
    · exact hset _
  · split
    · rw [State.setLane_flag, flag_fset_reg _ _ _ _ _ _ (by decide), flag_wrw, hset]
    · exact hset _

/-- R56, R67: a test function that starts takes the port to TEST. -/
theorem loopbackEnable_spec (loop : Nat) (gen : Bool) (hport : s.portOfLane l = some (p, w)) (hlo : 2 ≤ s.fget F.portStatus_STATE p)
    (hhi : s.fget F.portStatus_STATE p ≤ 5) (hl : l ∈ s.portLanes p) :
    ∃ t, execLoopbackEnable l loop gen true s = .next t ∧ t.fget F.portStatus_STATE p = 7 ∧ t.flag F.portStatus_LINK_UP p = false := by
  have hk := s.testWritten_keeps l loop gen true
  have hst (q : Nat) := hk.fget F.portStatus_STATE q 0 rfl
  have hportu : (s.testWritten l loop gen true).portOfLane l = some (p, w) :=
    (State.portOfLane_congr l (fun q => hk.rd .portCfg q 0 rfl) fun q => by rw [hst]).trans hport
  have hlanes : (s.testWritten l loop gen true).portLanes p = s.portLanes p := by
    unfold State.portLanes
    rw [hk.fget F.portCfg_WIDTH p 0 rfl]
  have hany : ((s.testWritten l loop gen true).portLanes p).any (s.testWritten l loop gen true).testOn = true := by
    rw [hlanes, List.any_eq_true]
    refine ⟨l, hl, ?_⟩
    unfold State.testOn
    rw [State.testWritten_chkEn, Bool.or_true]
  refine ⟨_, rfl, ?_⟩
  rw [State.testSet_eq]
  unfold State.testUpdate
  rw [hportu]
  dsimp only
  rw [if_pos hany, if_pos (by rw [hst]; exact ⟨hlo, hhi⟩), State.driveLanes_fget, State.abortEyes_fget _ _ _ _ _ (by decide),
    State.driveLanes_flag, State.flag_abortEyes _ _ _ _ _ (by decide), State.portTo_state _ _ _ (by decide), State.portTo_linkUp]
  exact ⟨rfl, rfl⟩

/-! ## Patterns -/

theorem injectOne_spec (mode : Nat) (hgen : s.flag F.prbsCtl_GEN_EN l = true) (hmode : s.fget F.prbsCtl_INJ_MODE l = mode) :
    s.injectOne l mode = s.setLane l { s.lane l with
      injDue := (s.lane l).injDue + 1, injected := (s.lane l).injected + 1, genBits := if mode = 2 then 0 else (s.lane l).genBits } :=
  if_pos ⟨hgen, hmode⟩

theorem State.patternIn_off (hoff : s.flag F.prbsCtl_CHK_EN l = false) (rx : List Bool) : s.patternIn l rx = s := by
  unfold State.patternIn
  rw [hoff, if_neg (by decide)]

/-- R64, R66: without a loop and with the polarity as received, a bit at the pins is the checker's. -/
theorem State.patternIn_bit (hchk : s.flag F.prbsCtl_CHK_EN l = true) (hloop : s.fget F.laneCtl_LOOP l = 0)
    (hpol : s.flag F.laneCtl_RX_POL l = false) (b : Bool) : s.patternIn l [b] = s.checkBit l b := by
  have hbits : s.rxBits l [b] = ([b], s) := by
    unfold State.rxBits
    simp [hloop, hpol]
  unfold State.patternIn
  rw [if_pos hchk, hbits]
  rfl

/-- What a bit does to a checker out of lock whose prediction was right for the 64th time (R64). -/
theorem Checker.bit_locks {c : Checker} {taps : List Nat} {x : Bool} (hlen : taps.headD 7 ≤ c.hist.length) (hp : prbsPredict taps c.hist = x)
    (hrun : 63 ≤ c.run) : (c.bit taps false x).2 = (false, true) := by
  unfold Checker.bit
  simp only [Bool.false_eq_true, if_false]
  rw [if_neg (by omega), if_pos hp, if_pos (by omega)]

/-- What an error does to a checker in lock: it is counted, and the 32nd of 64 loses the lock (R64). -/
theorem Checker.bit_error {c : Checker} {taps : List Nat} {x : Bool} (herr : (prbsStep taps c.reg).1 ≠ x) :
    (c.bit taps true x).2 = (true, decide (((c.errs.take 63).filter id).length < 31)) := by
  unfold Checker.bit
  simp only [if_true, decide_eq_true herr]
  rw [show (true :: c.errs).take 64 = true :: c.errs.take 63 from rfl, List.filter_cons_of_pos (by rfl), List.length_cons]
  split
  · rw [decide_eq_false (by omega)]
  · rw [decide_eq_true (by omega)]

/-- What a bit leaves of the lane's test registers, by what the checker answers. -/
theorem State.checkBit_eq (b : Bool) {e k : Bool} (hc : ((s.lane l).chk.bit (prbsTaps (s.fget F.prbsCtl_POLY l))
      (s.flag F.prbsStatus_CHK_LOCK l) (xor b (s.flag F.prbsCtl_INV l))).2 = (e, k)) :
    ∃ c, s.checkBit l b =
      let s1 := (s.setLane l { s.lane l with chk := c }).fset F.prbsStatus_CHK_LOCK (b2n k) l
      let s2 := if e then s1.wrw .prbsErr (BitVec.ofNat 64 (min ((s.rdw .prbsErr l).toNat + 1) (2 ^ 64 - 1))) l else s1
      if s.flag F.prbsStatus_CHK_LOCK l && !k then s2.fset F.prbsStatus_LOCK_LOST 1 l else s2 := by
  unfold State.checkBit
  dsimp only
  rw [hc]
  exact ⟨_, rfl⟩

/-- R64: a checker out of lock that locks. -/
theorem checkBit_locks {b : Bool} (hlock : s.flag F.prbsStatus_CHK_LOCK l = false)
    (hlen : (prbsTaps (s.fget F.prbsCtl_POLY l)).headD 7 ≤ (s.lane l).chk.hist.length)
    (hp : prbsPredict (prbsTaps (s.fget F.prbsCtl_POLY l)) (s.lane l).chk.hist = xor b (s.flag F.prbsCtl_INV l)) (hrun : 63 ≤ (s.lane l).chk.run) :
    (s.checkBit l b).flag F.prbsStatus_CHK_LOCK l = true ∧ OnlyRegs [.prbsStatus] s (s.checkBit l b) ∧ OnlyWide [] s (s.checkBit l b) := by
  have hbit := Checker.bit_locks hlen hp hrun
  obtain ⟨c, hc⟩ := State.checkBit_eq (e := false) (k := true) b (by rw [hlock]; exact hbit)
  rw [hc]
  dsimp only
  rw [if_neg (by simp), if_neg (by decide)]
  exact ⟨flag_fset_same _ _ _ _ _ (by decide) (by decide), (OnlyRegs.refl _ s).fset (f := F.prbsStatus_CHK_LOCK) _ _ _ (by decide),
    fun _ _ _ _ => rfl⟩

/-- R64, R82, R89: an error of a checker in lock is counted; the 32nd of 64 bits ends the lock. -/
theorem checkBit_error {b : Bool} (hlock : s.flag F.prbsStatus_CHK_LOCK l = true)
    (herr : (prbsStep (prbsTaps (s.fget F.prbsCtl_POLY l)) (s.lane l).chk.reg).1 ≠ xor b (s.flag F.prbsCtl_INV l)) :
    (s.checkBit l b).flag F.prbsStatus_CHK_LOCK l = decide ((((s.lane l).chk.errs.take 63).filter id).length < 31) ∧
    ((s.checkBit l b).rdw .prbsErr l).toNat = min ((s.rdw .prbsErr l).toNat + 1) (2 ^ 64 - 1) ∧
    (31 ≤ (((s.lane l).chk.errs.take 63).filter id).length → (s.checkBit l b).flag F.prbsStatus_LOCK_LOST l = true) ∧
    OnlyRegs [.prbsStatus] s (s.checkBit l b) ∧ OnlyWide [.prbsErr] s (s.checkBit l b) := by
  have hbit := Checker.bit_error (c := (s.lane l).chk) herr
  have hmin : min ((s.rdw .prbsErr l).toNat + 1) (2 ^ 64 - 1) < 2 ^ 64 := Nat.lt_of_le_of_lt (Nat.min_le_right _ _) (by decide)
  have hset (t : State) (k : Bool) : (t.fset F.prbsStatus_CHK_LOCK (b2n k) l).flag F.prbsStatus_CHK_LOCK l = k := by
    rw [flag_fset_same _ _ _ _ _ (by decide) (by decide)]
    cases k <;> rfl
  have hwide (q : LaneSt) (k : Bool) (v : DWord) :
      OnlyWide [.prbsErr] s (((s.setLane l q).fset F.prbsStatus_CHK_LOCK (b2n k) l).wrw .prbsErr v l) :=
    fun n i j hn => rdw_wrw_reg _ _ _ _ _ _ (by simpa using hn)
  have honly (q : LaneSt) (k : Bool) (v : DWord) :
      OnlyRegs [.prbsStatus] s (((s.setLane l q).fset F.prbsStatus_CHK_LOCK (b2n k) l).wrw .prbsErr v l) :=
    (OnlyRegs.refl _ (s.setLane l q)).fset (f := F.prbsStatus_CHK_LOCK) _ _ _ (by decide)
  obtain ⟨c, hc⟩ := State.checkBit_eq (e := true) (k := decide ((((s.lane l).chk.errs.take 63).filter id).length < 31)) b
    (by rw [hlock]; exact hbit)
  rw [hc]
  dsimp only
  rw [if_pos rfl, hlock, Bool.true_and]
  generalize hk : decide ((((s.lane l).chk.errs.take 63).filter id).length < 31) = k
  cases k with
  | true =>
    rw [if_neg (by decide)]
    refine ⟨by rw [flag_wrw, hset], ?_, fun h => absurd (of_decide_eq_true hk) (by omega), honly _ _ _, hwide _ _ _⟩
    rw [rdw_wrw_same, BitVec.toNat_ofNat, Nat.mod_eq_of_lt hmin]
  | false =>
    rw [if_pos (by decide)]
    refine ⟨?_, ?_, fun _ => flag_fset_one _ _ _ _ (by decide) (by decide), (honly _ _ _).fset _ _ _ (by decide), (hwide _ _ _).fset _ _ _ _⟩
    · rw [flag_fset_off _ _ _ _ _ _ (by decide) (by decide) (by decide), flag_wrw, hset]
    · rw [rdw_fset, rdw_wrw_same, BitVec.toNat_ofNat, Nat.mod_eq_of_lt hmin]

/-! ## Adaptation -/

theorem State.adapting_of_up (hport : s.portOfLane l = some (p, w)) (hst : s.fget F.portStatus_STATE p = 5)
    (hfree : s.flag F.adaptCtl_FREEZE l = false) (hei : s.flag F.portStatus_RX_EI p = false) : s.adapting l = true := by
  unfold State.adapting
  rw [hport]
  dsimp only
  rw [hst, hfree, hei]
  rfl

theorem State.adapting_of_frozen (hfreeze : s.flag F.adaptCtl_FREEZE l = true) : s.adapting l = false := by
  unfold State.adapting
  split
  · rw [hfreeze, Bool.not_true, Bool.and_false, Bool.false_and]
  · rfl

/-- R55: one step of the CTLE setting or of one tap. -/
theorem adaptationUpdate_spec (k : Nat) (up : Bool) (hrun : s.adapting l = true) :
    ∃ t, execAdaptationUpdate l k up s = .next t ∧
      (k = 0 → (t.lane l).ctle = ((s.lane l).ctle + if up then 1 else -1 : Int).toNat ∧ (t.lane l).taps = (s.lane l).taps) ∧
      (k ≠ 0 → k ≤ (s.lane l).taps.length →
        (t.lane l).taps.getD (k - 1) 0 = (s.lane l).taps.getD (k - 1) 0 + if up then 1 else -1) := by
  refine ⟨_, rfl, ?_⟩
  rw [hrun, if_pos rfl]
  dsimp only
  refine ⟨fun hk => ?_, fun hk hlen => ?_⟩
  · rw [if_pos hk, State.setLane_lane]
    exact ⟨rfl, rfl⟩
  · rw [if_neg hk, State.setLane_lane]
    dsimp only
    unfold putNth nth
    rw [List.getD_eq_getElem?_getD, List.getElem?_set_self (by omega), Option.getD_some]

end

/-- Settles O11: each command of a lane that a port holds. -/
theorem laneTestsAndScans : Obligations.LaneTestsAndScans := by
  intro s l p w hport
  refine ⟨fun v => eyeStart_spec s l v, fun n hrun hst hsig => eyePointDone_live n hport hrun hst hsig,
    fun n hrun hsig => eyePointDone_noSignal n hport hrun hsig, fun loop gen hlo hhi hl => loopbackEnable_spec loop gen hport hlo hhi hl,
    fun hgen hmode => congrArg _ (injectOne_spec 1 hgen hmode), fun hgen hmode => congrArg _ (injectOne_spec 2 hgen hmode),
    fun hoff rx => ⟨congrArg _ (State.patternIn_off hoff rx), congrArg _ (State.patternIn_off hoff rx)⟩, fun b hchk hloop hpol => ?_,
    fun k up hst hfree hei => adaptationUpdate_spec k up (State.adapting_of_up hport hst hfree hei), fun k up hfreeze => ?_⟩
  · have hbit : s.patternIn l [b] = s.checkBit l b := State.patternIn_bit hchk hloop hpol b
    have hcheck : exec (.prbsCheckLock l [b]) s = .next (s.checkBit l b) := congrArg _ hbit
    have hlost : exec (.prbsLockLost l [b]) s = .next (s.checkBit l b) := congrArg _ hbit
    refine ⟨fun hlock hlen hp hrun => ⟨_, hcheck, checkBit_locks hlock hlen hp hrun⟩, fun hlock herr => ?_⟩
    obtain ⟨hstays, hcount, hends, hregs, hwide⟩ := checkBit_error hlock herr
    refine ⟨fun hmany => ⟨_, hlost, ?_, hends hmany, hcount, hregs, hwide⟩, fun hfew => ⟨_, hlost, ?_, hcount⟩⟩
    · rw [hstays, decide_eq_false (by omega)]
    · rw [hstays, decide_eq_true hfew]
  · refine congrArg Host.Outcome.next (if_neg ?_)
    rw [State.adapting_of_frozen hfreeze]
    decide

end Sys2Proof.Machine
end

section
/-!
PROOF. The front panel: cages (R70 to R72), the module mailboxes (R73, R94) and the LED stream (R74).
-/

set_option Elab.async false

set_option exponentiation.threshold 4096
set_option maxRecDepth 20000

namespace Sys2Proof.Machine

/-! ## Events leave everything but the event rings and their counters -/

/-- What the posting of an event may change. -/
def Touch.posts : Touch := { r64 := true, host := true, regs := regBits [.cntEvLost, .cntEvDiscard] }

theorem rd_of_r32 {s t : State} (h : t.r32 = s.r32) (n : RName) (i j : Nat) : t.rd n i j = s.rd n i j := by
  unfold State.rd
  rw [h]

theorem State.post_posts (s : State) (a b : Nat) : Keeps .posts s (s.post a b) := State.post_keeps (.rfl' _ s) a b

theorem State.postLane_posts (s : State) (a b c : Nat) : Keeps .posts s (s.postLane a b c) := State.postLane_keeps (.rfl' _ s) a b c

theorem State.postLane_rd (s : State) (a b c : Nat) (n : RName) (i j : Nat) : (s.postLane a b c).rd n i j = s.rd n i j :=
  rd_of_r32 ((s.postLane_posts a b c).r32 rfl) n i j

theorem State.postLane_fget (s : State) (a b c : Nat) (f : Fld) (i j : Nat) : (s.postLane a b c).fget f i j = s.fget f i j :=
  fget_of_rd f (s.postLane_rd a b c f.reg i j)

theorem State.postLane_flag (s : State) (a b c : Nat) (f : Fld) (i j : Nat) : (s.postLane a b c).flag f i j = s.flag f i j :=
  flag_of_rd f (s.postLane_rd a b c f.reg i j)

theorem State.postLane_link (s : State) (a b c : Nat) : (s.postLane a b c).link = s.link := (s.postLane_posts a b c).link rfl

theorem State.postLane_cage (s : State) (a b c k : Nat) : (s.postLane a b c).cage k = s.cage k := by
  unfold State.cage
  rw [State.postLane_link]

theorem State.fset_cage (s : State) (f : Fld) (v i j k : Nat) : (s.fset f v i j).cage k = s.cage k := rfl

/-! ## Bits of a masked word -/

theorem bits_and (a b hi lo : Nat) : bits (a &&& b) hi lo = bits a hi lo &&& bits b hi lo := by
  apply Nat.eq_of_testBit_eq
  intro k
  simp only [testBit_bits, Nat.testBit_and]
  cases decide (k < hi + 1 - lo) <;> simp

theorem bits_or (a b hi lo : Nat) : bits (a ||| b) hi lo = bits a hi lo ||| bits b hi lo := by
  apply Nat.eq_of_testBit_eq
  intro k
  simp only [testBit_bits, Nat.testBit_or]
  cases decide (k < hi + 1 - lo) <;> simp

/-- A field that a mask leaves whole. -/
theorem bits_and_mask {m : Word} {hi lo : Nat} (v : Word) (h : bits m.toNat hi lo = 2 ^ (hi + 1 - lo) - 1) :
    bits (v &&& m).toNat hi lo = bits v.toNat hi lo := by
  rw [BitVec.toNat_and, bits_and, h, Nat.and_two_pow_sub_one_eq_mod]
  exact Nat.mod_eq_of_lt (Nat.mod_lt _ (Nat.two_pow_pos _))

/-- A field that a set of bits lies apart from. -/
theorem bits_or_mask {m : Word} {hi lo : Nat} (v : Word) (h : bits m.toNat hi lo = 0) : bits (v ||| m).toNat hi lo = bits v.toNat hi lo := by
  rw [BitVec.toNat_or, bits_or, h, Nat.or_zero]

/-! ## Cages -/

section
variable {s : State} {k : Nat}

theorem cagePrsFall_spec (hv : s.flag F.cageCfg_VALID k = true) :
    ∃ t, execCagePrsFall k s = .next t ∧ (t.cage k).debouncing = true ∧ t.fget F.cageStatus_MSTATE k = 1 := by
  refine ⟨_, rfl, ?_⟩
  rw [if_pos hv, State.fset_cage, State.setCage_cage, fget_fset_same _ _ _ _ _ (by decide) (by decide)]
  exact ⟨rfl, rfl⟩

theorem cageDebounceDone_spec (hv : s.flag F.cageCfg_VALID k = true) (hdeb : (s.cage k).debouncing = true)
    (hauto : s.flag F.cageCfg_AUTO k = true) : ∃ t, execCageDebounceDone k s = .next t ∧
      t.flag F.cageStatus_PRESENT k = true ∧ t.fget F.cageStatus_MSTATE k = 2 ∧ (t.cage k).lpm = true ∧ (t.cage k).rstN = false := by
  refine ⟨_, rfl, ?_⟩
  rw [if_pos ⟨hdeb, hv⟩]
  dsimp only
  rw [State.postLane_flag, State.postLane_fget, State.postLane_cage, State.fset_cage, State.setCage_cage, hauto,
    fget_fset_same _ _ _ _ _ (by decide) (by decide), flag_fset_off _ _ _ _ _ _ (by decide) (by decide) (by decide), State.setCage_flag,
    flag_fset_one _ _ _ _ (by decide) (by decide)]
  exact ⟨rfl, rfl, rfl, rfl⟩

theorem cageResetRelease_spec (hv : s.flag F.cageCfg_VALID k = true) (hauto : s.flag F.cageCfg_AUTO k = true)
    (hst : s.fget F.cageStatus_MSTATE k = 2) :
    ∃ t, execCageResetRelease k s = .next t ∧ (t.cage k).rstN = true ∧ t.fget F.cageStatus_MSTATE k = 3 := by
  refine ⟨_, rfl, ?_⟩
  rw [if_pos ⟨hauto, hv, hst⟩, State.fset_cage, State.setCage_cage, fget_fset_same _ _ _ _ _ (by decide) (by decide)]
  exact ⟨rfl, rfl⟩

theorem State.modPut_cage (s : State) (k b p o : Nat) (bs : List Byte) (i : Nat) : (s.modPut k b p o bs).cage i = s.cage i := rfl

/-- What the device tells a module leaves the cage but for the application and the data paths. -/
theorem State.dataPaths_cage (s : State) (k : Nat) : ∃ sel mask, (s.dataPaths k).cage k = { s.cage k with appSel := sel, paths := mask } := by
  have hset (u : State) (hu : u.cage k = s.cage k) (sel : List (Nat × Nat)) (mask : Nat) : ∃ sel' mask',
      (u.setCage k { u.cage k with appSel := sel, paths := mask }).cage k = { s.cage k with appSel := sel', paths := mask' } :=
    ⟨sel, mask, by rw [State.setCage_cage, hu]⟩
  unfold State.dataPaths
  dsimp only
  refine hset _ ?_ _ _
  rw [State.modPut_cage, State.modPut_cage]
  exact State.each_view (fun t => t.cage k) fun x t => State.modPut_cage _ _ _ _ _ _ _

theorem State.dataPaths_fget (s : State) (k : Nat) (f : Fld) (i j : Nat) : (s.dataPaths k).fget f i j = s.fget f i j :=
  fget_of_rd f (rd_of_r32 ((State.dataPaths_keeps (.rfl' { link := true } s) k).r32 rfl) f.reg i j)

theorem State.muxSelect_cage (s : State) (k i : Nat) : (s.muxSelect k).cage i = s.cage i := by
  unfold State.muxSelect
  dsimp only
  split <;> rfl

theorem State.muxSelect_rd (s : State) (k : Nat) (n : RName) (i j : Nat) : (s.muxSelect k).rd n i j = s.rd n i j :=
  rd_of_r32 ((State.muxSelect_keeps (.rfl' { link := true } s) k).r32 rfl) n i j

theorem State.muxSelect_fget (s : State) (k : Nat) (f : Fld) (i j : Nat) : (s.muxSelect k).fget f i j = s.fget f i j :=
  fget_of_rd f (s.muxSelect_rd k f.reg i j)

/-- The ports of a cage follow from the configurations. -/
theorem State.cagePorts_congr {s t : State} (k : Nat) (hc : ∀ i, t.rd .cageCfg i = s.rd .cageCfg i) (hp : ∀ i, t.rd .portCfg i = s.rd .portCfg i) :
    t.cagePorts k = s.cagePorts k := by
  unfold State.cagePorts State.cagesOf
  simp only [fget_of_rd F.cageCfg_FIRST_LANE (hc _), fget_of_rd F.cageCfg_LANES (hc _), flag_of_rd F.cageCfg_VALID (hc _),
    flag_of_rd F.portCfg_EN (hp _), fget_of_rd F.portCfg_WIDTH (hp _)]

/-- R70 step 5, for a cage that no enabled port uses: the power check alone decides. -/
theorem State.moduleSelect_noPorts (hports : s.cagePorts k = []) (hst : s.fget F.cageStatus_MSTATE k = 4) :
    ((s.cage k).power ≤ s.fget F.cageCfg_PWR_MAX k → (s.moduleSelect k).fget F.cageStatus_MSTATE k = 4 ∧
      ((s.moduleSelect k).cage k).activating = true ∧ ((s.moduleSelect k).cage k).lpm = false ∧
      ((s.moduleSelect k).cage k).apps = (s.cage k).apps) ∧
    (s.fget F.cageCfg_PWR_MAX k < (s.cage k).power → (s.moduleSelect k).fget F.cageStatus_MSTATE k = 6) := by
  have hports' : (s.muxSelect k).cagePorts k = [] :=
    (State.cagePorts_congr k (fun i => s.muxSelect_rd k _ i 0) fun i => s.muxSelect_rd k _ i 0).trans hports
  unfold State.moduleSelect
  dsimp only
  rw [hports', List.all_nil, Bool.not_true, if_neg (by decide), State.muxSelect_fget, State.muxSelect_fget, State.muxSelect_cage,
    hst, if_neg (show ¬decide (4 = 5) = true by decide), if_neg (show ¬decide (4 = 5) = true by decide)]
  refine ⟨fun hle => ?_, fun hlt => ?_⟩
  · obtain ⟨sel, mask, hpaths⟩ := State.dataPaths_cage ((s.muxSelect k).setCage k { s.cage k with lpm := false, activating := true }) k
    rw [if_neg (by omega), fget_fset_same _ _ _ _ _ (by decide) (by decide), State.fset_cage, hpaths, State.setCage_cage]
    exact ⟨rfl, rfl, rfl, rfl⟩
  · rw [if_pos hlt, State.postLane_fget, fget_fset_same _ _ _ _ _ (by decide) (by decide)]
    rfl

/-- R70 step 4: a ready module's poll whose turn it is. -/
theorem modReadyPoll_ready (hv : s.flag F.cageCfg_VALID k = true) (hauto : s.flag F.cageCfg_AUTO k = true)
    (hst : s.fget F.cageStatus_MSTATE k = 3) (hbusy : s.flag F.modAccStatus_BUSY (s.fget F.cageCfg_MASTER k) = false)
    (hown : (s.i2cOf (s.fget F.cageCfg_MASTER k)).own = []) (hports : s.cagePorts k = []) (ident : Byte) (apps : List (Nat × Nat)) (power : Nat) :
    ∃ u : State, execModReadyPoll k true ident apps power s = .next (u.moduleSelect k) ∧ u.cagePorts k = [] ∧ u.fget F.cageStatus_MSTATE k = 4 ∧
      u.fget F.cageCfg_PWR_MAX k = s.fget F.cageCfg_PWR_MAX k ∧ (u.cage k).power = power ∧ (u.cage k).apps = apps := by
  have hexec : execModReadyPoll k true ident apps power s =
      .next ((s.setI2c (s.fget F.cageCfg_MASTER k) { s.i2cOf (s.fget F.cageCfg_MASTER k) with own := [] }).ownRun
        (.poll k true ident.toNat apps power)) := by
    unfold execModReadyPoll State.ownAccess
    dsimp only
    rw [if_pos ⟨hauto, hv, hst⟩, hbusy, if_neg (by decide), hown, List.nil_append, State.each_cons, State.each_nil]
  set v := s.setI2c (s.fget F.cageCfg_MASTER k) { s.i2cOf (s.fget F.cageCfg_MASTER k) with own := [] } with hv
  have hvst : v.fget F.cageStatus_MSTATE k = 3 := hst
  refine ⟨_, hexec.trans (congrArg _ (if_pos ⟨rfl, hvst⟩)), ?_⟩
  dsimp only
  have hrd (n : RName) (hn : n ≠ .cageStatus) (i : Nat) :
      (((((v.muxSelect k).setCage k { v.cage k with ident := ident.toNat, apps := apps, power := power }).fset F.cageStatus_MSTATE 4 k).postLane
        0x0103 k 0).rd n i) = s.rd n i := by
    rw [State.postLane_rd, rd_fset_reg _ _ _ _ _ _ hn, State.setCage_rd, State.muxSelect_rd, hv, State.setI2c_rd]
  refine ⟨?_, ?_, ?_, ?_, ?_⟩
  · rw [State.cagePorts_congr k (fun i => hrd .cageCfg (by decide) i) fun i => hrd .portCfg (by decide) i, hports]
  · rw [State.postLane_fget, fget_fset_same _ _ _ _ _ (by decide) (by decide)]
    rfl
  · exact fget_of_rd F.cageCfg_PWR_MAX (hrd .cageCfg (by decide) k)
  · rw [State.postLane_cage, State.fset_cage, State.setCage_cage]
  · rw [State.postLane_cage, State.fset_cage, State.setCage_cage]

theorem modReadyTimeout_spec (hv : s.flag F.cageCfg_VALID k = true) (hst : s.fget F.cageStatus_MSTATE k = 3) :
    ∃ t, execModReadyTimeout k s = .next t ∧ t.fget F.cageStatus_MSTATE k = 7 := by
  refine ⟨_, rfl, ?_⟩
  rw [if_pos ⟨hv, hst⟩, State.postLane_fget, fget_fset_same _ _ _ _ _ (by decide) (by decide)]
  rfl

theorem State.wr_cage (s : State) (n : RName) (v : Word) (i j k : Nat) : (s.wr n v i j).cage k = s.cage k := rfl

theorem State.setPort_cage (s : State) (p k : Nat) (v : PortSt) : (s.setPort p v).cage k = s.cage k := rfl

theorem State.setLane_cage (s : State) (l k : Nat) (v : LaneSt) : (s.setLane l v).cage k = s.cage k := rfl

theorem State.portTo_cage (s : State) (p st k : Nat) : (s.portTo p st).cage k = s.cage k := by
  rw [State.portTo, State.fset_cage, State.fset_cage]

theorem State.driveLanes_cage (s : State) (ls : List Nat) (sig : LineSig) (k : Nat) : (s.driveLanes ls sig).cage k = s.cage k :=
  State.each_view (fun u => u.cage k) fun _ _ => State.setLane_cage _ _ _ _

theorem State.abortEyes_cage (s : State) (ls : List Nat) (k : Nat) : (s.abortEyes ls).cage k = s.cage k :=
  State.each_view (fun u => u.cage k) fun _ _ => by
    split
    · rw [State.fset_cage, State.fset_cage, State.setLane_cage]
    · rfl

theorem State.laneTrain_cage (s : State) (l r : Nat) (hist : Bool) (k : Nat) : (s.laneTrain l r hist).cage k = s.cage k := by
  unfold State.laneTrain
  dsimp only
  rw [State.fset_cage]
  split
  · rw [State.setLane_cage, State.wr_cage]
  · rw [State.setLane_cage, State.wr_cage]

theorem State.trainStart_cage (s : State) (p r : Nat) (hist : Bool) (k : Nat) : (s.trainStart p r hist).cage k = s.cage k := by
  have hclear (c : Nat → State → Prop) [∀ l t, Decidable (c l t)] (t : State) (ls : List Nat) :
      (t.each ls fun l u => if c l u then u else u.fset F.laneCtl_HIST_VALID 0 l).cage k = t.cage k :=
    State.each_view (fun u => u.cage k) fun _ _ => by split <;> rfl
  unfold State.trainStart
  dsimp only
  rw [State.abortEyes_cage, State.setPort_cage, State.fset_cage, State.fset_cage, State.portTo_cage,
    State.each_view (fun u => u.cage k) fun l t => State.laneTrain_cage t l r _ k, hclear]
  unfold State.when
  split
  · exact hclear _ _ _
  · rfl

/-- A port that negotiates or trains again leaves the cages. -/
theorem State.restart_cage (s : State) (p k : Nat) : (s.restart p).cage k = s.cage k := by
  unfold State.restart
  split
  · dsimp only
    rw [State.driveLanes_cage, State.driveLanes_cage, State.setPort_cage, State.abortEyes_cage, State.wr_cage, State.portTo_cage]
    rfl
  · rw [State.trainStart_cage, State.wr_cage, State.wr_cage]

theorem moduleDataPathActive_spec (hv : s.flag F.cageCfg_VALID k = true) (hact : (s.cage k).activating = true) :
    ∃ t, execModuleDataPathActive k s = .next t ∧ t.fget F.cageStatus_MSTATE k = 5 ∧ (t.cage k).activating = false := by
  refine ⟨_, rfl, ?_⟩
  rw [if_pos ⟨hact, hv⟩]
  dsimp only
  constructor
  · refine (State.each_view (fun u => u.fget F.cageStatus_MSTATE k) fun p t => ?_).trans ?_
    · split
      · exact (State.restart_keeps (.rfl' (.avoid [.cageStatus]) t) p).fget F.cageStatus_MSTATE k 0 rfl
      · rfl
    · exact fget_fset_same _ _ _ _ _ (by decide) (by decide)
  · rw [State.each_view (fun u => u.cage k) fun p t => by split; exacts [State.restart_cage t p k, rfl], State.fset_cage, State.setCage_cage]

theorem State.each_fset_zero {f : Fld} (h : f.lo ≤ f.hi) (h' : f.hi < 32) (ls : List Nat) (s : State) {l : Nat} (hl : l ∈ ls) :
    (s.each ls fun l t => t.fset f 0 l).flag f l = false := by
  induction ls generalizing s with
  | nil => cases hl
  | cons a r ih =>
    rw [State.each_cons]
    by_cases hr : l ∈ r
    · exact ih _ hr
    · have hla : l = a := (List.mem_cons.1 hl).resolve_right hr
      subst hla
      refine State.each_ind (P := fun t => t.flag f l = false) ?_ fun k t ht => flag_fset_zero k 0 h h' ht
      unfold State.flag
      rw [fget_fset_same _ _ _ _ _ h h']
      simp

/-- What a removal ends with: the cage and its status empty, its module's memory gone, EV_CAGE_REMOVE posted (R71). -/
def State.cageCleared (s : State) (k : Nat) : State :=
  { (s.setCage k {}).wr .cageStatus 0 k with link := { ((s.setCage k {}).wr .cageStatus 0 k).link with
    modMem := tdrop ((s.setCage k {}).wr .cageStatus 0 k).link.modMem (k * 2 ^ 24) ((k + 1) * 2 ^ 24) } }.postLane 0x0102 k 0

theorem State.cageCleared_spec (s : State) (k : Nat) : (s.cageCleared k).rd .cageStatus k = 0 ∧ (s.cageCleared k).cage k = {} ∧
    ∀ l, (s.cageCleared k).flag F.laneCtl_HIST_VALID l = s.flag F.laneCtl_HIST_VALID l := by
  unfold State.cageCleared
  rw [State.postLane_rd, State.postLane_cage]
  refine ⟨rd_wr_same (s.setCage k {}) .cageStatus 0 k 0, State.setCage_cage s k {}, fun l => ?_⟩
  rw [State.postLane_flag]
  exact flag_wr_reg (s.setCage k {}) F.laneCtl_HIST_VALID 0 k 0 l 0 (by decide)

/-- R71: the cage after a removal. -/
theorem cagePrsRise_spec (hv : s.flag F.cageCfg_VALID k = true) (sda : Bool) :
    ∃ t, execCagePrsRise k sda s = .next t ∧ t.rd .cageStatus k = 0 ∧ t.cage k = {} ∧
      ∀ l ∈ s.cageLanes k, t.flag F.laneCtl_HIST_VALID l = false := by
  obtain ⟨u, hu⟩ : ∃ u : State, execCagePrsRise k sda s =
      .next ((u.each (s.cageLanes k) fun l t => t.fset F.laneCtl_HIST_VALID 0 l).cageCleared k) :=
    ⟨_, congrArg Host.Outcome.next (if_pos hv)⟩
  obtain ⟨hstatus, hcage, hhist⟩ := State.cageCleared_spec (u.each (s.cageLanes k) fun l t => t.fset F.laneCtl_HIST_VALID 0 l) k
  exact ⟨_, hu, hstatus, hcage, fun l hl => (hhist l).trans (State.each_fset_zero (by decide) (by decide) _ _ hl)⟩

theorem cageIntFall_spec (hv : s.flag F.cageCfg_VALID k = true) (hauto : s.flag F.cageCfg_AUTO k = false) (flags : List (Bool × Bool)) :
    ∃ t, execCageIntFall k flags s = .next t ∧ t.flag F.cageStatus_INT k = true ∧ OnlyRegs [.cageStatus] s t := by
  refine ⟨_, rfl, ?_⟩
  rw [if_pos hv]
  dsimp only
  rw [hauto, if_neg (by decide)]
  refine ⟨by rw [State.postLane_flag, flag_fset_one _ _ _ _ (by decide) (by decide)], fun n i j hn => ?_⟩
  rw [State.postLane_rd]
  exact (OnlyRegs.refl _ s).fset (f := F.cageStatus_INT) 1 k 0 (by decide) n i j hn

end

theorem cageBringUp : Claims.CageBringUp := by
  intro s k hv
  refine ⟨cagePrsFall_spec hv, cageDebounceDone_spec hv, cageResetRelease_spec hv, fun ident apps power hauto hst hports hbusy hown => ?_,
    modReadyTimeout_spec hv, moduleDataPathActive_spec hv, cagePrsRise_spec hv, fun flags hauto => cageIntFall_spec hv hauto flags⟩
  obtain ⟨u, hexec, huports, hust, hupwr, hupower, huapps⟩ := modReadyPoll_ready hv hauto hst hbusy hown hports ident apps power
  have hsel := State.moduleSelect_noPorts huports hust
  rw [hupwr, hupower, huapps] at hsel
  exact ⟨fun hle => ⟨_, hexec, hsel.1 hle⟩, fun hlt => ⟨_, hexec, hsel.2 hlt⟩⟩

/-! ## Module mailboxes and the LED stream -/

section
variable {s : State} {m : Nat}

theorem State.setI2c_i2cOf (s : State) (m : Nat) (q : I2cSt) : (s.setI2c m q).i2cOf m = q := tget_tset_same _ _ _ _

theorem State.mailboxGo_starts {v : Word} (hbusy : s.flag F.modAccStatus_BUSY m = false)
    (hpres : s.flag F.cageStatus_PRESENT (bits v.toNat 6 0) = true)
    (hfree : ¬(bitAt v.toNat 7 = true ∧ s.flag F.cageCfg_AUTO (bits v.toNat 6 0) = true ∧ (bits v.toNat 15 8 = 0x10 ∨ bits v.toNat 15 8 = 0x11))) :
    (s.mailboxGo m v).flag F.modAccStatus_BUSY m = true ∧ ((s.mailboxGo m v).i2cOf m).write = bitAt v.toNat 7 ∧
      ((s.mailboxGo m v).i2cOf m).cage = bits v.toNat 6 0 ∧ ((s.mailboxGo m v).i2cOf m).page = bits v.toNat 15 8 ∧
      ((s.mailboxGo m v).i2cOf m).offset = bits v.toNat 23 16 ∧
      ((s.mailboxGo m v).i2cOf m).len = min (bits v.toNat 30 24 + 1) (256 - bits v.toNat 23 16) := by
  unfold State.mailboxGo
  dsimp only
  rw [if_neg (by rw [hbusy]; decide), if_neg (by rw [hpres]; decide), if_neg hfree, State.setI2c_flag,
    flag_fset_one _ _ _ _ (by decide) (by decide), State.setI2c_i2cOf]
  exact ⟨rfl, rfl, rfl, rfl, rfl, rfl⟩

theorem State.mailboxGo_noModule {v : Word} (hbusy : s.flag F.modAccStatus_BUSY m = false)
    (hpres : s.flag F.cageStatus_PRESENT (bits v.toNat 6 0) = false) :
    s.mailboxGo m v = (s.wr .modAccCtl (v &&& 0x7FFFFFFF#32) m).fset F.modAccStatus_RESULT 1 m := by
  unfold State.mailboxGo
  dsimp only
  rw [if_neg (by rw [hbusy]; decide), if_pos hpres]

theorem State.mailboxGo_owned {v : Word} (hbusy : s.flag F.modAccStatus_BUSY m = false)
    (hpres : s.flag F.cageStatus_PRESENT (bits v.toNat 6 0) = true) (hw : bitAt v.toNat 7 = true)
    (hauto : s.flag F.cageCfg_AUTO (bits v.toNat 6 0) = true) (hpage : bits v.toNat 15 8 = 0x10) :
    s.mailboxGo m v = (s.wr .modAccCtl (v &&& 0x7FFFFFFF#32) m).fset F.modAccStatus_RESULT 3 m := by
  unfold State.mailboxGo
  dsimp only
  rw [if_neg (by rw [hbusy]; decide), if_neg (by rw [hpres]; decide), if_pos ⟨hw, hauto, Or.inl hpage⟩]

/-- An access that ends at once shows its RESULT and starts nothing. -/
theorem State.mailboxEnds (hbusy : s.flag F.modAccStatus_BUSY m = false) (w : Word) (r : Nat) (hr : r < 8) :
    ((s.wr .modAccCtl w m).fset F.modAccStatus_RESULT r m).fget F.modAccStatus_RESULT m = r ∧
      ((s.wr .modAccCtl w m).fset F.modAccStatus_RESULT r m).flag F.modAccStatus_BUSY m = false := by
  rw [fget_fset_same _ _ _ _ _ (by decide) (by decide), flag_fset_off _ _ _ _ _ _ (by decide) (by decide) (by decide),
    flag_wr_reg _ _ _ _ _ _ _ (by decide), hbusy]
  exact ⟨Nat.mod_eq_of_lt hr, rfl⟩

/-- After an access's own status is set, nothing that its end does writes that status again. -/
theorem mailboxDone_rd (r : Nat) (data : List Byte) (pin : Bool) (hbusy : s.flag F.modAccStatus_BUSY m = true) :
    ∃ t, execMailboxDone m r data pin s = .next t ∧
      t.rd .modAccStatus m = ((s.fset F.modAccStatus_BUSY 0 m).fset F.modAccStatus_RESULT r m).rd .modAccStatus m := by
  refine ⟨_, congrArg Host.Outcome.next (if_pos hbusy), ?_⟩
  dsimp only
  set u := (s.fset F.modAccStatus_BUSY 0 m).fset F.modAccStatus_RESULT r m with hu
  have hint (v : Nat) (k : Nat) : (u.fset F.cageStatus_INT v k).rd .modAccStatus m = u.rd .modAccStatus m := rd_fset_reg _ _ _ _ _ _ (by decide)
  have hdata (d : State) (hd : d.rd .modAccStatus m = u.rd .modAccStatus m) (b : Bool) (k bank page off : Nat) (bs bs' : List Byte) :
      (if r ≠ 0 then d else if b = true then d.modPut k bank page off bs else d.setMailBytes m bs').rd .modAccStatus m =
        u.rd .modAccStatus m := by
    split
    · exact hd
    · split
      · exact hd
      · exact ((State.setMailBytes_keeps (.rfl' (.avoid [.modAccStatus]) d) m bs').rd .modAccStatus m 0 rfl).trans hd
  split
  · rw [(State.ownRun_keeps (.rfl' (.avoid [.modAccStatus]) _) _).rd .modAccStatus m 0 rfl, State.setI2c_rd]
    exact hdata _ (hint _ _) _ _ _ _ _ _ _
  · exact hdata _ (hint _ _) _ _ _ _ _ _ _

theorem mailboxDone_spec (r : Nat) (hr : r < 8) (data : List Byte) (pin : Bool) (hbusy : s.flag F.modAccStatus_BUSY m = true) :
    ∃ t, execMailboxDone m r data pin s = .next t ∧ t.flag F.modAccStatus_BUSY m = false ∧ t.fget F.modAccStatus_RESULT m = r := by
  obtain ⟨t, hexec, hrd⟩ := mailboxDone_rd r data pin hbusy
  refine ⟨t, hexec, ?_, ?_⟩
  · rw [flag_of_rd F.modAccStatus_BUSY hrd, flag_fset_off _ _ _ _ _ _ (by decide) (by decide) (by decide),
      flag_fset_none _ _ _ _ (by decide) (by decide)]
  · rw [fget_of_rd F.modAccStatus_RESULT hrd, fget_fset_same _ _ _ _ _ (by decide) (by decide)]
    exact Nat.mod_eq_of_lt hr

end

/-- The command word of a read and of a write: the bits of the access but for the direction are the ones written. -/
theorem bits_mailboxRead (v : Word) {hi lo : Nat} (h : bits (0xFFFFFF7F#32).toNat hi lo = 2 ^ (hi + 1 - lo) - 1) :
    bits (v &&& 0xFFFFFF7F#32).toNat hi lo = bits v.toNat hi lo := bits_and_mask v h

theorem bits_mailboxWrite (v : Word) {hi lo : Nat} (h : bits (0x80#32).toNat hi lo = 0) :
    bits (v ||| 0x80#32).toNat hi lo = bits v.toNat hi lo := bits_or_mask v h

theorem bitAt_mailboxRead (v : Word) : bitAt (v &&& 0xFFFFFF7F#32).toNat 7 = false := by
  rw [bitAt, BitVec.toNat_and, Nat.testBit_and, show ((0xFFFFFF7F#32).toNat).testBit 7 = false by decide, Bool.and_false]

theorem bitAt_mailboxWrite (v : Word) : bitAt (v ||| 0x80#32).toNat 7 = true := by
  rw [bitAt, BitVec.toNat_or, Nat.testBit_or, show ((0x80#32).toNat).testBit 7 = true by decide, Bool.or_true]

theorem mailboxAndLedStream : Claims.MailboxAndLedStream := by
  intro s m hbusy
  refine ⟨fun v hpres => ?_, fun v hpres hauto => ?_, fun v hpres hauto hpage => ?_, fun v hpres => ?_, fun u r data pin hu => ?_, fun blink hen => ?_⟩
  · have hk := bits_mailboxRead v (hi := 6) (lo := 0) (by decide)
    have hstart := State.mailboxGo_starts (v := v &&& 0xFFFFFF7F#32) hbusy (by rw [hk, hpres]) fun h => by
      rw [bitAt_mailboxRead] at h
      exact Bool.noConfusion h.1
    rw [hk, bitAt_mailboxRead, bits_mailboxRead v (hi := 15) (lo := 8) (by decide), bits_mailboxRead v (hi := 23) (lo := 16) (by decide),
      bits_mailboxRead v (hi := 30) (lo := 24) (by decide)] at hstart
    exact ⟨_, rfl, hstart⟩
  · have hk := bits_mailboxWrite v (hi := 6) (lo := 0) (by decide)
    have hstart := State.mailboxGo_starts (v := v ||| 0x80#32) hbusy (by rw [hk, hpres]) fun h => by
      rw [hk, hauto] at h
      exact Bool.noConfusion h.2.1
    exact ⟨_, rfl, hstart.1, hstart.2.1.trans (bitAt_mailboxWrite v)⟩
  · have hk := bits_mailboxWrite v (hi := 6) (lo := 0) (by decide)
    have howned := State.mailboxGo_owned (v := v ||| 0x80#32) hbusy (by rw [hk, hpres]) (bitAt_mailboxWrite v) (by rw [hk, hauto])
      (by rw [bits_mailboxWrite v (hi := 15) (lo := 8) (by decide), hpage])
    obtain ⟨hresult, hend⟩ := State.mailboxEnds hbusy ((v ||| 0x80#32) &&& 0x7FFFFFFF#32) 3 (by decide)
    exact ⟨_, congrArg Host.Outcome.next howned, hresult, hend, rfl⟩
  · have hk := bits_mailboxRead v (hi := 6) (lo := 0) (by decide)
    have hnone := State.mailboxGo_noModule (v := v &&& 0xFFFFFF7F#32) hbusy (by rw [hk, hpres])
    exact ⟨_, congrArg Host.Outcome.next hnone, State.mailboxEnds hbusy ((v &&& 0xFFFFFF7F#32) &&& 0x7FFFFFFF#32) 1 (by decide)⟩
  · exact mailboxDone_spec r (by omega) data pin hu
  · exact ⟨_, congrArg Host.Outcome.next (if_pos hen), rfl, rfl⟩

/-- Settles O12: each command of the cages, the mailboxes and the LED stream, in the state it is for. -/
theorem frontPanelCommands : Obligations.FrontPanelCommands :=
  ⟨cageBringUp, mailboxAndLedStream⟩

end Sys2Proof.Machine
end

section
/-!
PROOF. Policers (R132, R143, R144, R315, R316).
-/

set_option Elab.async false

namespace Sys2Proof.Machine

theorem State.setPolicer_policer (s : State) (t k : Nat) (v : Policer) : (s.setPolicer t k v).policer t k = v := by
  rw [State.policer, State.setPolicer, State.setPipe_pipe, tget_tset_same]

theorem State.setPolicer_policer_ne (s : State) (t : Nat) {k k' : Nat} (v : Policer) (h : k' ≠ k) :
    (s.setPolicer t k v).policer t k' = s.policer t k' := by
  rw [State.policer, State.setPolicer, State.setPipe_pipe, tget_tset_ne _ _ _ _ h]
  rfl

theorem State.fset_policer (s : State) (f : Fld) (v i j t k : Nat) : (s.fset f v i j).policer t k = s.policer t k := rfl

/-- A block of words of one register, written from a list. -/
theorem rd_forN_wr (s : State) (n : RName) (g : Nat → Word) (i : Nat) {c j : Nat} (hc : c ≤ 65536) (hj : j < c) :
    (forN c (fun j s => s.wr n (g j) i j) s).rd n i j = g j := by
  rw [forN_view (fun u : State => u.rd n i j) j s (fun k b hk hne => rd_wr_word b _ i i (by omega)) fun b d _ => by
    simp only [rd_wr_same], if_pos hj, rd_wr_same]

theorem forN_wr_onlyRegs (s : State) (n : RName) (g : Nat → Word) (i c : Nat) : OnlyRegs [n] s (forN c (fun j s => s.wr n (g j) i j) s) :=
  fun m i' j' hm => by
    rw [forN_view (fun u : State => u.rd m i' j') c s (fun k b _ _ => rd_wr_reg b _ _ _ _ _ (ne_of_mem_of_not_mem (List.mem_singleton_self n) hm).symm)
      fun b d h => by rw [rd_wr_reg _ _ _ _ _ _ (ne_of_mem_of_not_mem (List.mem_singleton_self n) hm).symm,
        rd_wr_reg _ _ _ _ _ _ (ne_of_mem_of_not_mem (List.mem_singleton_self n) hm).symm, h], if_neg (Nat.lt_irrefl c)]

theorem forN_wr_policer (s : State) (n : RName) (g : Nat → Word) (i c t k : Nat) :
    (forN c (fun j s => s.wr n (g j) i j) s).policer t k = s.policer t k := by
  have h := forN_view (fun u : State => u.policer t k) (op := fun j s => s.wr n (g j) i j) c (n := c) s (fun _ _ _ _ => rfl) fun _ _ h => h
  rwa [if_neg (Nat.lt_irrefl c)] at h

theorem State.polCmd_busy {s : State} {t : Nat} (op : Nat) (h : s.flag F.polStatus_BUSY t = true) : s.polCmd t op = s := if_pos h

/-- The configuration that POL_DATA holds, as a policer keeps it. -/
def State.polCfg (s : State) (t : Nat) : List Nat :=
  [(s.rd .polData t 0).toNat % 2 ^ 26, (s.rd .polData t 1).toNat % 2 ^ 22, (s.rd .polData t 2).toNat % 2 ^ 24, (s.rd .polData t 3).toNat % 2 ^ 24]

/-- The policer that a written configuration makes: both buckets full (R143). -/
def State.polFull (s : State) (t : Nat) : Policer :=
  { cfg := s.polCfg t, tc := nth (s.polCfg t) 2 0 * 2 ^ 32, tp := nth (s.polCfg t) 3 0 * 2 ^ 32, edge := s.time.ticks }

theorem State.polFull_mode (s : State) (t : Nat) :
    (s.polFull t).mode = if bits (s.rd .polData t 0).toNat 23 22 = 3 then 0 else bits (s.rd .polData t 0).toNat 23 22 := by
  have hb : bits ((s.rd .polData t 0).toNat % 2 ^ 26) 23 22 = bits (s.rd .polData t 0).toNat 23 22 := by
    unfold bits
    rw [Nat.shiftRight_eq_div_pow, Nat.shiftRight_eq_div_pow]
    omega
  show (if bits ((s.rd .polData t 0).toNat % 2 ^ 26) 23 22 = 3 then 0 else bits ((s.rd .polData t 0).toNat % 2 ^ 26) 23 22) = _
  rw [hb]

theorem bits_full (n k : Nat) : bits (n % 2 ^ (k + 1)) k 0 = n % 2 ^ (k + 1) := by
  rw [bits, Nat.shiftRight_zero, Nat.sub_zero, Nat.mod_mod]

theorem State.polFull_tc (s : State) (t : Nat) : (s.polFull t).tc = (s.polFull t).cbs * 2 ^ 32 :=
  congrArg (· * 2 ^ 32) (bits_full (s.rd .polData t 2).toNat 23).symm

theorem State.polFull_tp (s : State) (t : Nat) : (s.polFull t).tp = (s.polFull t).pbs * 2 ^ 32 :=
  congrArg (· * 2 ^ 32) (bits_full (s.rd .polData t 3).toNat 23).symm

/-- What a read of the buckets shows: whole tokens. -/
def State.polTokens (s : State) (t : Nat) : List Nat :=
  [(s.policerNow t (s.fget F.polIdx_IDX t)).tc / 2 ^ 32, (s.policerNow t (s.fget F.polIdx_IDX t)).tp / 2 ^ 32, 0, 0]

section
variable {s : State} {t : Nat}

theorem State.polCmd_write (h : s.flag F.polStatus_BUSY t = false) : s.polCmd t 1 =
    (s.setPolicer t (s.fget F.polIdx_IDX t) (s.polFull t)).fset F.polStatus_BUSY 1 t :=
  if_neg (by rw [h]; decide)

theorem State.polCmd_read (h : s.flag F.polStatus_BUSY t = false) : s.polCmd t 2 =
    (forN 4 (fun j s' => s'.wr .polData (BitVec.ofNat 32 (nth (s.policer t (s.fget F.polIdx_IDX t)).cfg j 0)) t j) s).fset F.polStatus_BUSY 1 t :=
  if_neg (by rw [h]; decide)

theorem State.polCmd_bucket (h : s.flag F.polStatus_BUSY t = false) : s.polCmd t 3 =
    (forN 4 (fun j s' => s'.wr .polData (BitVec.ofNat 32 (nth (s.polTokens t) j 0)) t j) s).fset F.polStatus_BUSY 1 t :=
  if_neg (by rw [h]; decide)

theorem ofNat_mod_eq_and (v : Word) (k : Nat) (hk : k ≤ 32) : BitVec.ofNat 32 (v.toNat % 2 ^ k) = v &&& BitVec.ofNat 32 (2 ^ k - 1) := by
  apply BitVec.eq_of_toNat_eq
  have hp : 2 ^ k ≤ 2 ^ 32 := Nat.pow_le_pow_right (by decide) hk
  have h0 : 0 < 2 ^ k := Nat.two_pow_pos k
  rw [BitVec.toNat_ofNat, BitVec.toNat_and, BitVec.toNat_ofNat, Nat.mod_eq_of_lt (show 2 ^ k - 1 < 2 ^ 32 by omega),
    Nat.and_two_pow_sub_one_eq_mod]
  exact Nat.mod_eq_of_lt (lt_of_lt_of_le (Nat.mod_lt _ h0) hp)

theorem polCmd_read_words (h : s.flag F.polStatus_BUSY t = false) {j : Nat} (hj : j < 4) :
    (s.polCmd t 2).rd .polData t j = BitVec.ofNat 32 (nth (s.policer t (s.fget F.polIdx_IDX t)).cfg j 0) := by
  rw [State.polCmd_read h, rd_fset_reg _ _ _ _ _ _ (by decide), rd_forN_wr s .polData _ t (by decide) hj]

theorem polCmd_bucket_words (h : s.flag F.polStatus_BUSY t = false) {j : Nat} (hj : j < 4) :
    (s.polCmd t 3).rd .polData t j = BitVec.ofNat 32 (nth (s.polTokens t) j 0) := by
  rw [State.polCmd_bucket h, rd_fset_reg _ _ _ _ _ _ (by decide), rd_forN_wr s .polData _ t (by decide) hj]

end

theorem policerAccess : Claims.PolicerAccess := by
  intro s ti
  have hon {u : State} (n : Nat) (h : u.tileOn ti = true) : u.when (u.tileOn ti) (fun s => s.polCmd ti n) = u.polCmd ti n := if_pos h
  have hidle (n : Nat) (h : s.flag F.polStatus_BUSY ti = true ∨ s.tileOn ti = false) : s.when (s.tileOn ti) (fun s => s.polCmd ti n) = s := by
    unfold State.when
    split
    · next htile => exact State.polCmd_busy n (h.resolve_right (by rw [htile]; decide))
    · rfl
  refine ⟨fun htile hbusy => ?_, fun htile hbusy => ?_, fun h => ⟨congrArg Host.Outcome.next (hidle 1 h), congrArg Host.Outcome.next (hidle 2 h),
    congrArg Host.Outcome.next (hidle 3 h)⟩, _, rfl, flag_fset_none _ _ _ _ (by decide) (by decide),
    (OnlyRegs.refl _ s).fset (f := F.polStatus_BUSY) 0 ti 0 (by decide)⟩
  · have hw := State.polCmd_write hbusy
    set t := s.polCmd ti 1 with ht
    have hpol : t.policer ti (s.fget F.polIdx_IDX ti) = s.polFull ti := by rw [hw, State.fset_policer, State.setPolicer_policer]
    have hregs : OnlyRegs [.polStatus] s t := by
      rw [hw]
      exact OnlyRegs.fset (f := F.polStatus_BUSY) (fun _ _ _ _ => rfl) 1 ti 0 (by decide)
    refine ⟨t, congrArg Host.Outcome.next (hon 1 htile), ?_, ?_, ?_, ?_, fun k hk => ?_, hregs, ?_⟩
    · rw [hw, flag_fset_one _ _ _ _ (by decide) (by decide)]
    · rw [hpol, State.polFull_mode]
    · rw [hpol, State.polFull_tc]
    · rw [hpol, State.polFull_tp]
    · rw [hw, State.fset_policer, State.setPolicer_policer_ne _ _ _ hk]
    · set u := t.fset F.polStatus_BUSY 0 ti with hu
      have hregs' : OnlyRegs [.polStatus] s u := hregs.fset (f := F.polStatus_BUSY) 0 ti 0 (by decide)
      have htile' : u.tileOn ti = true := by
        rw [← htile]
        unfold State.tileOn
        rw [flag_of_rd F.dawnStatus_HORIZON (hregs' _ _ _ (by decide)), flag_of_rd F.spareTile_TILE_RETIRED (hregs' _ _ _ (by decide)),
          flag_of_rd F.spareTile_UNUSABLE (hregs' _ _ _ (by decide))]
      have hcfg : (u.policer ti (u.fget F.polIdx_IDX ti)).cfg = s.polCfg ti := by
        rw [fget_of_rd F.polIdx_IDX (hregs' _ _ _ (by decide)), hu, State.fset_policer, hpol]
        rfl
      have hread {j : Nat} (hj : j < 4) := polCmd_read_words (t := ti) (flag_fset_none t F.polStatus_BUSY ti 0 (by decide) (by decide)) hj
      rw [← hu, hcfg] at hread
      refine ⟨u, _, rfl, congrArg Host.Outcome.next (hon 2 htile'), ?_, ?_, ?_, ?_⟩
      · exact (hread (j := 0) (by decide)).trans (ofNat_mod_eq_and _ 26 (by decide))
      · exact (hread (j := 1) (by decide)).trans (ofNat_mod_eq_and _ 22 (by decide))
      · exact (hread (j := 2) (by decide)).trans (ofNat_mod_eq_and _ 24 (by decide))
      · exact (hread (j := 3) (by decide)).trans (ofNat_mod_eq_and _ 24 (by decide))
  · refine ⟨_, congrArg Host.Outcome.next (hon 3 htile), ?_, ?_, ?_, polCmd_bucket_words hbusy (by decide),
      polCmd_bucket_words hbusy (by decide), ?_⟩
    · rw [State.polCmd_bucket hbusy, flag_fset_one _ _ _ _ (by decide) (by decide)]
    · rw [polCmd_bucket_words hbusy (by decide), State.polTokens, nth, List.getD_cons_zero]
    · rw [polCmd_bucket_words hbusy (by decide), State.polTokens, nth, List.getD_cons_succ, List.getD_cons_zero]
    · rw [State.polCmd_bucket hbusy]
      exact OnlyRegs.fset (f := F.polStatus_BUSY)
        (fun n i j hn => forN_wr_onlyRegs s .polData _ ti 4 n i j (fun hm => hn (List.mem_cons_of_mem _ hm))) 1 ti 0 (by decide)

/-- The rows of mode 1 for a green frame (R316). -/
theorem Policer.colour_twoRate {v : Policer} (len : Nat) (hmode : v.mode = 1) : v.colour 0 len =
    if v.tp < len * 2 ^ 32 then (2, v) else if v.tc < len * 2 ^ 32 then (1, { v with tp := v.tp - len * 2 ^ 32 })
    else (0, { v with tp := v.tp - len * 2 ^ 32, tc := v.tc - len * 2 ^ 32 }) := by
  unfold Policer.colour
  generalize len * 2 ^ 32 = b
  dsimp only
  rw [ite_self, if_pos hmode]
  exact if_congr (by simp) rfl (if_congr (by simp) rfl rfl)

theorem twoRatePolicerColours : Claims.TwoRatePolicerColours := by
  intro v len hmode
  have hyellow (b : Nat) (h : b ≤ v.tp) : (1, { v with tp := v.tp - b }).1 = 1 ∧ (1, { v with tp := v.tp - b }).2.tp + b = v.tp ∧
      (1, { v with tp := v.tp - b }).2.tc = v.tc := ⟨rfl, Nat.sub_add_cancel h, rfl⟩
  have hgreen (b : Nat) (h : b ≤ v.tp) (h' : b ≤ v.tc) : (0, { v with tp := v.tp - b, tc := v.tc - b }).1 = 0 ∧
      (0, { v with tp := v.tp - b, tc := v.tc - b }).2.tp + b = v.tp ∧ (0, { v with tp := v.tp - b, tc := v.tc - b }).2.tc + b = v.tc :=
    ⟨rfl, Nat.sub_add_cancel h, Nat.sub_add_cancel h'⟩
  rw [Policer.colour_twoRate len hmode]
  refine ⟨fun htp => if_pos htp, fun htp htc => ?_, fun htp htc => ?_⟩
  · rw [if_neg (Nat.not_lt.2 htp), if_pos htc]
    exact hyellow _ htp
  · rw [if_neg (Nat.not_lt.2 htp), if_neg (Nat.not_lt.2 htc)]
    exact hgreen _ htp htc

/-- Settles O14: the operations of POL_CMD by their code, and the rows of mode 1 by how full the buckets are. -/
theorem policersAndColours : Obligations.PolicersAndColours :=
  ⟨policerAccess, twoRatePolicerColours⟩

end Sys2Proof.Machine
end

section
/-!
PROOF. What happens to a packet's thread besides its words (R148, R157, R162, R166, R171 to R173, R184).
-/

set_option Elab.async false

namespace Sys2Proof.Machine

/-! ## What leaves the packets as they were -/

/-- Every part of the state but Cirrus. -/
def Touch.butCirrus : Touch := { Touch.all with cirrus := false }

theorem Keeps.pkt {L : Touch} {s u : State} (h : Keeps L s u) (e : L.cirrus = false) (t fid : Nat) : u.pkt t fid = s.pkt t fid := by
  unfold State.pkt State.pipe
  rw [h.cirrus e]

theorem State.viol_pkt (s : State) (t pipe a n t' fid : Nat) : (s.viol t pipe a n).pkt t' fid = s.pkt t' fid :=
  (State.viol_keeps (.rfl' .butCirrus s) t pipe a n).pkt rfl t' fid

theorem State.tblBad_pkt (s : State) (t tid i t' fid : Nat) : (s.tblBad t tid i).pkt t' fid = s.pkt t' fid :=
  (State.tblBad_keeps (.rfl' .butCirrus s) t tid i).pkt rfl t' fid

theorem State.setThread_pkt (s : State) (t fid : Nat) (k : Pkt) (th : Thread) :
    (s.setThread t fid k th).pkt t fid = some { k with thread := th } := State.setPkt_pkt _ _ _ _

theorem State.excPkt_pkt (s : State) (t fid : Nat) (k : Pkt) (r : Nat) : (s.excPkt t fid k r).pkt t fid =
    some { k with stage := .ready, disp := some (.exc r), thread := {}, log := [], dirty := 0, outPhv := k.phv } := State.setPkt_pkt _ _ _ _

/-- The packet's disposition is known once its log has been applied (R164, R166). -/
theorem State.applyLog_pkt (s : State) (t fid : Nat) (k : Pkt) :
    ∃ d, (s.applyLog t fid k).pkt t fid = some { k with disp := some d, pend := false } := ⟨_, State.setPkt_pkt _ _ _ _⟩

/-! ## Table results -/

section
variable {s : State} {t fid : Nat} {k : Pkt} {o : TblOp} {ops : List TblOp}

theorem State.abandon_restarts (why : Nat) (hk : s.pkt t fid = some k) (hst : k.stage = .running) (hcom : k.thread.committed = false)
    (hr : k.restarts < 3) : (s.abandon t fid why).pkt t fid =
      some { k with stage := .restart why, restarts := k.restarts + 1, thread := { pipe := k.thread.pipe } } := by
  unfold State.abandon
  rw [hk]
  dsimp only
  rw [if_neg (by rw [hst, hcom]; decide), if_neg (by omega), State.setPkt_pkt]

theorem State.abandon_exception (why : Nat) (hk : s.pkt t fid = some k) (hst : k.stage = .running) (hcom : k.thread.committed = false)
    (hr : 3 ≤ k.restarts) : (s.abandon t fid why).pkt t fid =
      some { k with stage := .ready, disp := some (.exc (0x0200 + why)), thread := {}, log := [], dirty := 0, outPhv := k.phv } := by
  unfold State.abandon
  rw [hk]
  dsimp only
  rw [if_neg (by rw [hst, hcom]; decide), if_pos hr, State.excPkt_pkt]

/-- A result without an error in its words is delivered (R157). -/
theorem State.resultIn_good (hk : s.pkt t fid = some k) (hops : k.thread.ops = o :: ops)
    (hgood : ∀ w ∈ s.readWords t k o, s.wordBad t w.1 w.2 = false) : s.resultIn t fid 0 = s.deliver t fid := by
  have hnone : (s.readWords t k o).find? (fun w => s.wordBad t w.1 w.2) = none := List.find?_eq_none.2 fun w hw => by rw [hgood w hw]; decide
  unfold State.resultIn
  rw [hk]
  dsimp only
  rw [hops]
  dsimp only
  rw [if_neg (by decide), if_neg (by simp), hnone]
  exact if_neg (by simp)

/-- A result with a parity error in its first word (R171, R172). -/
theorem State.resultIn_bad (hk : s.pkt t fid = some k) (hops : k.thread.ops = o :: ops) :
    ∃ w, s.resultIn t fid 1 = s.resultBad t fid k o ops w := by
  unfold State.resultIn
  rw [hk]
  dsimp only
  rw [hops]
  dsimp only
  rw [if_pos rfl]
  exact ⟨_, rfl⟩

/-- Delivery takes the oldest operation off the thread and touches nothing else of the packet but the thread's PHV, flags and place. -/
theorem State.deliver_pkt (hk : s.pkt t fid = some k) (hops : k.thread.ops = o :: ops) :
    ∃ th : Thread, (s.deliver t fid).pkt t fid = some { k with thread := th } ∧ th.ops = ops := by
  unfold State.deliver
  rw [hk]
  dsimp only
  rw [hops]
  dsimp only
  rw [State.viol_pkt, State.setThread_pkt]
  refine ⟨_, rfl, ?_⟩
  split <;> rfl

theorem putResult_miss (th : Thread) (o : TblOp) (data : List Byte) (h : o.mf < 16) :
    (putResult th o false data).1.mf.getLsbD o.mf = false := by
  have hbit : (BitVec.ofNat 16 (2 ^ o.mf)).getLsbD o.mf = true := by
    rw [BitVec.getLsbD_ofNat, Nat.testBit_two_pow_self, decide_eq_true h, Bool.and_self]
  show (th.mf &&& ~~~(BitVec.ofNat 16 (2 ^ o.mf))).getLsbD o.mf = false
  rw [BitVec.getLsbD_and, BitVec.getLsbD_not, hbit, Bool.not_true, Bool.and_false, Bool.and_false]

theorem State.resultBad_committed (w : Nat × Nat) (hcom : k.thread.committed = true) (hmf : o.mf < 16) :
    ∃ th : Thread, (s.resultBad t fid k o ops w).pkt t fid = some { k with thread := th } ∧ th.mf.getLsbD o.mf = false ∧ th.committed = true := by
  unfold State.resultBad
  dsimp only
  rw [if_pos hcom, State.viol_pkt, State.setThread_pkt]
  exact ⟨_, rfl, putResult_miss _ _ _ hmf, hcom⟩

theorem State.resultBad_running (w : Nat × Nat) (hcom : k.thread.committed = false) :
    s.resultBad t fid k o ops w = (s.tblBad t w.1 w.2).abandon t fid 1 := if_neg (by rw [hcom]; decide)

/-! ## Restarts, recirculation and deferred logs -/

/-- A restart whose wait is over (R171): after a relocation its buckets are free, and the entry decides. -/
theorem execThreadRestart_due {why : Nat} (hk : s.pkt t fid = some k) (hst : k.stage = .restart why) (hact : why = 3 → s.cirrus.act = none)
    (hstop : (s.pipe t).stopped = false) (hheld : s.regionHeld (phvEntry k.phv) = false) :
    ∃ u : State, u.r32 = s.r32 ∧ execThreadRestart t fid s =
      .next (if s.hz = false ∧ s.isEntry (phvEntry k.phv) = false then u.excPkt t fid k 0x020D
        else u.setPkt t fid (some { k with stage := .running, thread := freshThread (u.restartPipe t k.thread.pipe) (phvEntry k.phv) k.phv })) := by
  have hdue (u : State) (hc : u.cirrus = s.cirrus) : ¬((why = 3 ∧ u.cirrus.act.isSome = true) ∨ (u.pipe t).stopped = true ∨
      u.regionHeld (phvEntry k.phv) = true) := by
    unfold State.pipe State.regionHeld
    rw [hc]
    rintro (⟨hw, hsome⟩ | hs | hh)
    · rw [hact hw] at hsome
      exact Bool.noConfusion hsome
    · exact Bool.noConfusion (hstop.symm.trans hs)
    · exact Bool.noConfusion (hheld.symm.trans hh)
  unfold execThreadRestart
  rw [hk]
  dsimp only
  rw [hst]
  dsimp only
  by_cases hw : why = 2
  · rw [if_pos hw, if_neg (hdue _ (by rfl))]
    exact ⟨{ s with te := { s.te with busy := [] } }, rfl, rfl⟩
  · rw [if_neg hw, if_neg (hdue s rfl)]
    exact ⟨s, rfl, rfl⟩

/-- The frame's last beat is there: the deferred log applies (R166). -/
theorem State.deferred_pkt (hk : s.pkt t fid = some k) (hpend : k.pend = true) (hdone : (s.frame t fid).done = true) :
    ∃ k2, (s.deferred t fid).pkt t fid = some k2 ∧ k2.pend = false ∧ k2.disp.isSome = true := by
  unfold State.deferred
  rw [hk]
  dsimp only
  rw [if_neg (by rw [hpend, hdone]; decide)]
  obtain ⟨d, hd⟩ := s.applyLog_pkt t fid { k with
    phv := setLen k.phv (s.frame t fid).rxLen, outPhv := setLen k.outPhv (s.frame t fid).rxLen, thread := { k.thread with phv := setLen k.thread.phv (s.frame t fid).rxLen } }
  rw [hd]
  dsimp only
  split
  · exact ⟨_, State.setPkt_pkt _ _ _ _, rfl, rfl⟩
  · exact ⟨_, hd, rfl, rfl⟩

end

/-- Settles O16: each event of a thread on a packet in the state it is for. -/
theorem threadEvents : Obligations.ThreadEvents := by
  intro s ti fid k o ops hk
  refine ⟨fun hops hgood => ?_, fun hops hst hcom hr => ?_, fun hops hst hcom hr => ?_, fun hops hcom hmf => ?_,
    fun why hst hact hstop hheld => ⟨fun hentry => ?_, fun hhz hentry => ?_⟩, fun hre hrun => ?_, fun hpend hdone => ?_⟩
  · obtain ⟨th, hpkt, hths⟩ := State.deliver_pkt hk hops
    exact ⟨_, _, congrArg Host.Outcome.next (State.resultIn_good hk hops hgood), hpkt, hths, rfl, rfl⟩
  · obtain ⟨w, hw⟩ := State.resultIn_bad hk hops
    exact ⟨_, _, congrArg Host.Outcome.next (hw.trans (State.resultBad_running w hcom)),
      State.abandon_restarts 1 ((State.tblBad_pkt _ _ _ _ _ _).trans hk) hst hcom hr, rfl, rfl, rfl, rfl, rfl, rfl, rfl⟩
  · obtain ⟨w, hw⟩ := State.resultIn_bad hk hops
    exact ⟨_, _, congrArg Host.Outcome.next (hw.trans (State.resultBad_running w hcom)),
      State.abandon_exception 1 ((State.tblBad_pkt _ _ _ _ _ _).trans hk) hst hcom hr, rfl, rfl⟩
  · obtain ⟨w, hw⟩ := State.resultIn_bad hk hops
    obtain ⟨th, hpkt, hth, hthc⟩ := State.resultBad_committed (s := s) (t := ti) (fid := fid) (ops := ops) w hcom hmf
    exact ⟨_, _, congrArg Host.Outcome.next hw, hpkt, rfl, hth, hthc⟩
  · obtain ⟨u, hu, hexec⟩ := execThreadRestart_due hk hst hact hstop hheld
    rw [if_neg (by rw [hentry]; simp)] at hexec
    exact ⟨_, _, hexec, State.setPkt_pkt _ _ _ _, rfl, rfl, rfl, rfl, rfl, rfl, rfl, rfl, rfl, rfl, rfl, fun n i j _ => rd_of_r32 hu n i j⟩
  · obtain ⟨u, hu, hexec⟩ := execThreadRestart_due hk hst hact hstop hheld
    rw [if_pos ⟨hhz, hentry⟩] at hexec
    exact ⟨_, _, hexec, State.excPkt_pkt _ _ _ _ _, rfl, rfl⟩
  · have hexec : execThreadReentry ti fid s =
        .next (s.setThread ti fid k { k.thread with reenter := false, stage := 0, pass := 2, cycle := k.thread.cycle + 2 }) := by
      unfold execThreadReentry
      rw [hk]
      dsimp only
      rw [if_pos ⟨hre, hrun⟩]
    exact ⟨_, _, hexec, State.setThread_pkt _ _ _ _ _, rfl, rfl, rfl, rfl, rfl, rfl, rfl, rfl, fun _ _ _ _ => rfl⟩
  · obtain ⟨k2, hpkt, hp, hd⟩ := State.deferred_pkt hk hpend hdone
    exact ⟨_, k2, rfl, hpkt, hp, hd⟩

end Sys2Proof.Machine
end

section
/-!
PROOF. The image commands (R180, R183), and reads and rewrites of control-store words (R178, R197).
-/

set_option Elab.async false

namespace Sys2Proof.Machine

/-! ## The first violation of a function -/

/-- A violation by a function that is not frozen freezes it with its kind (R377, R378). -/
theorem State.violation_freezes {s : State} {f kind : Nat} (addr ring : Nat) (h : s.flag F.fnStatus_FROZEN f = false) (hk : kind < 8) :
    (s.violation f kind addr ring).flag F.fnStatus_FROZEN f = true ∧ (s.violation f kind addr ring).fget F.fnStatus_KIND f = kind := by
  set s1 := ((s.wrw .violAddr (BitVec.ofNat 64 addr) f).fset F.fnStatus_KIND kind f).fset F.fnStatus_FROZEN 1 f with hs1
  have hkeep : Keeps (.avoid [.fnStatus]) s1 (s.violation f kind addr ring) := by
    unfold State.violation
    rw [if_neg (by rw [h]; decide)]
    refine State.postFn_keeps (State.report_keeps (forN_keeps (forN_keeps (.rfl' _ s1) fun r u hu => ?_) fun n u hu => ?_) _ _ _) _ _ _
    · split
      · exact State.fset_keeps (State.clearRing_keeps hu r) F.ringStatus_STATE 3 r 0
      · exact hu
    · split
      · exact State.chFreeze_keeps hu n
      · exact hu
  rw [hkeep.flag F.fnStatus_FROZEN f 0 rfl, hkeep.fget F.fnStatus_KIND f 0 rfl, hs1, flag_fset_one _ _ _ _ (by decide) (by decide),
    fget_fset_off _ _ _ _ _ _ (by decide) (by decide) (by decide), fget_fset_same _ _ _ _ _ (by decide) (by decide)]
  exact ⟨rfl, Nat.mod_eq_of_lt hk⟩

/-- Windows are registers. -/
theorem State.hostOk_congr {s t : State} (f a n : Nat) (w : Bool) (h0 : ∀ i j, t.rd .hwinW0 i j = s.rd .hwinW0 i j)
    (h1 : ∀ i j, t.rd .hwinW1 i j = s.rd .hwinW1 i j) (h2 : ∀ i j, t.rd .hwinW2 i j = s.rd .hwinW2 i j)
    (h3 : ∀ i j, t.rd .hwinW3 i j = s.rd .hwinW3 i j) : t.hostOk f a n w = s.hostOk f a n w := by
  unfold State.hostOk State.inWindow
  simp only [h0, h1, h2, h3]

/-! ## Loads -/

/-- A load under way (R180): IMG_CTL keeps its fields, the load's end is known to the model, BUSY is set. -/
def State.imgLoading (s : State) (v : Word) (l : ImgLoad) : State :=
  { s.imgFields v with cirrus := { s.cirrus with load := some l } }.fset F.imgStatus_BUSY 1

section
variable {s : State} {f : Nat} {v : Word} {d : List Byte} {ok : Bool}

theorem State.imgFields_rd (n : RName) (i j : Nat) (h : n ≠ .imgCtl) : (s.imgFields v).rd n i j = s.rd n i j := rd_wr_reg _ _ _ _ _ _ h

theorem State.imgFields_hostOk (f a n : Nat) (w : Bool) : (s.imgFields v).hostOk f a n w = s.hostOk f a n w :=
  State.hostOk_congr f a n w (fun i j => State.imgFields_rd _ i j (by decide)) (fun i j => State.imgFields_rd _ i j (by decide))
    (fun i j => State.imgFields_rd _ i j (by decide)) fun i j => State.imgFields_rd _ i j (by decide)

/-- The keys and counters that judge an image do not lie in IMG_CTL. -/
theorem State.imgFields_imgCheck (d : List Byte) (n : Nat) : (s.imgFields v).imgCheck d n = s.imgCheck d n := by
  have hrd (n : RName) (i j : Nat) (h : n ≠ .imgCtl) : (s.imgFields v).rd n i j = s.rd n i j := State.imgFields_rd n i j h
  unfold State.imgCheck State.dereagorKeys State.ownerKeys State.arbOf
  rw [flag_of_rd F.bnStatus_FAULT (hrd _ _ _ (by decide)), fget_of_rd F.ownerStatus_DEREAGOR_REVOKED (hrd _ _ _ (by decide)),
    flag_of_rd F.ownerStatus_ENROLLED (hrd _ _ _ (by decide)), hrd .arbCtr _ _ (by decide)]
  rfl

theorem State.imgLoad_idle (hbusy : s.flag F.imgStatus_BUSY = false) (hhz : s.hz = false) : s.imgLoad f v d ok =
    if (s.rd .imgLen).toNat = 0 ∨ 0x400000 < (s.rd .imgLen).toNat then s.imgLoading v ⟨3, none⟩
    else if s.hostOk f (s.rdw .imgSrc).toNat (s.rd .imgLen).toNat false = false then (s.imgFields v).violation f 3 (s.rdw .imgSrc).toNat 0
    else if ok = false then s.imgLoading v ⟨4, none⟩
    else if (s.flag F.imgStatus_ARMED && decide (decide (byteAt d 6 = 1) = s.cirrus.armedBase)) = true then s.imgRefuse 5
    else s.imgLoading v (s.imgCheck (d.take (s.rd .imgLen).toNat) (s.rd .imgLen).toNat) := by
  unfold State.imgLoad
  dsimp only
  rw [if_neg (by rw [hbusy, hhz]; decide), State.imgFields_hostOk, State.imgFields_imgCheck, State.imgFields_rd .imgLen _ _ (by decide),
    flag_of_rd F.imgStatus_ARMED (State.imgFields_rd _ _ _ (by decide))]
  rfl

/-- An image command while another is in progress, or in Horizon mode, is refused with code 5 (R183). -/
theorem State.imgLoad_refused (h : s.flag F.imgStatus_BUSY = true ∨ s.hz = true) : s.imgLoad f v d ok = s.fset F.imgStatus_RESULT 5 := if_pos h

theorem State.imgActivate_refused (h : s.flag F.imgStatus_BUSY = true ∨ s.hz = true ∨ s.flag F.imgStatus_ARMED = true) :
    s.imgActivate v = s.fset F.imgStatus_RESULT 5 := if_pos h

theorem State.imgDeactivate_refused (h : s.flag F.imgStatus_BUSY = true ∨ s.hz = true ∨ s.flag F.imgStatus_ARMED = true) :
    s.imgDeactivate v = s.fset F.imgStatus_RESULT 5 := if_pos h

theorem State.imgLoading_spec (l : ImgLoad) : (s.imgLoading v l).flag F.imgStatus_BUSY = true ∧ (s.imgLoading v l).cirrus.load = some l ∧
    ((s.imgLoading v l).cirrus.stagedBase = s.cirrus.stagedBase ∧ (s.imgLoading v l).cirrus.stagedCust = s.cirrus.stagedCust) ∧
    (s.imgLoading v l).cirrus.act = s.cirrus.act ∧ (s.imgLoading v l).rd .imgCtl = v &&& 0xC#32 ∧
    OnlyRegs [.imgCtl, .imgStatus] s (s.imgLoading v l) := by
  refine ⟨flag_fset_one _ _ _ _ (by decide) (by decide), rfl, ⟨rfl, rfl⟩, rfl, ?_, ?_⟩
  · rw [State.imgLoading, rd_fset_reg _ _ _ _ _ _ (by decide)]
    exact rd_wr_same s .imgCtl (v &&& 0xC#32) 0 0
  · exact OnlyRegs.fset (f := F.imgStatus_BUSY) (t := { s.imgFields v with cirrus := { s.cirrus with load := some l } })
      ((OnlyRegs.refl _ s).wr (v &&& 0xC#32) 0 0 (by decide)) 1 0 0 (by decide)

/-- The end of a load, before what it staged (R180). -/
def State.imgEnded (s : State) (r : Nat) : State :=
  ({ s with cirrus := { s.cirrus with load := none } } : State).imgBusy.fset F.imgStatus_RESULT r

/-- The end of a load that stages an image. -/
def State.imgStaged (s : State) (x : Image) : State :=
  if x.base then ({ s with cirrus := { s.cirrus with stagedBase := some x } } : State).fset F.imgStatus_STAGED_BASE 1
  else ({ s with cirrus := { s.cirrus with stagedCust := some x } } : State).fset F.imgStatus_STAGED_CUST 1

theorem execImgLoadDone_none {r : Nat} (h : s.cirrus.load = some ⟨r, none⟩) : execImgLoadDone s = .next (s.imgEnded r) := by
  unfold execImgLoadDone
  rw [h]
  rfl

theorem execImgLoadDone_some {r : Nat} {x : Image} (h : s.cirrus.load = some ⟨r, some x⟩) :
    execImgLoadDone s = .next ((s.imgEnded r).imgStaged x) := by
  unfold execImgLoadDone
  rw [h]
  rfl

theorem State.imgEnded_spec {r : Nat} (hr : r < 8) : (s.imgEnded r).flag F.imgStatus_BUSY = s.cirrus.act.isSome ∧
    (s.imgEnded r).fget F.imgStatus_RESULT = r ∧ OnlyRegs [.imgStatus] s (s.imgEnded r) := by
  refine ⟨?_, ?_, ?_⟩
  · rw [State.imgEnded, flag_fset_off _ _ _ _ _ _ (by decide) (by decide) (by decide), State.imgBusy,
      flag_fset_same _ _ _ _ _ (by decide) (by decide)]
    cases s.cirrus.act <;> rfl
  · rw [State.imgEnded, fget_fset_same _ _ _ _ _ (by decide) (by decide)]
    exact Nat.mod_eq_of_lt hr
  · exact OnlyRegs.fset (f := F.imgStatus_RESULT) (OnlyRegs.fset (f := F.imgStatus_BUSY) (t := { s with cirrus := { s.cirrus with load := none } })
      (fun _ _ _ _ => rfl) _ 0 0 (by decide)) _ 0 0 (by decide)

theorem State.imgStaged_spec (x : Image) : (s.imgStaged x).flag F.imgStatus_BUSY = s.flag F.imgStatus_BUSY ∧
    (s.imgStaged x).fget F.imgStatus_RESULT = s.fget F.imgStatus_RESULT ∧ OnlyRegs [.imgStatus] s (s.imgStaged x) ∧
    (if x.base then (s.imgStaged x).cirrus.stagedBase else (s.imgStaged x).cirrus.stagedCust) = some x ∧
    (x.base = true → (s.imgStaged x).cirrus.stagedBase = some x ∧ (s.imgStaged x).flag F.imgStatus_STAGED_BASE = true ∧
      (s.imgStaged x).cirrus.stagedCust = s.cirrus.stagedCust) ∧
    (x.base = false → (s.imgStaged x).cirrus.stagedCust = some x ∧ (s.imgStaged x).flag F.imgStatus_STAGED_CUST = true ∧
      (s.imgStaged x).cirrus.stagedBase = s.cirrus.stagedBase) := by
  cases hx : x.base with
  | true =>
    rw [show s.imgStaged x = _ from if_pos hx]
    refine ⟨?_, ?_, OnlyRegs.fset (f := F.imgStatus_STAGED_BASE) (fun _ _ _ _ => rfl) 1 0 0 (by decide), rfl, fun _ => ⟨rfl, ?_, rfl⟩, fun h => nomatch h⟩
    · exact flag_fset_off _ _ _ _ _ _ (by decide) (by decide) (by decide)
    · exact fget_fset_off _ _ _ _ _ _ (by decide) (by decide) (by decide)
    · exact flag_fset_one _ _ _ _ (by decide) (by decide)
  | false =>
    rw [show s.imgStaged x = _ from if_neg (by rw [hx]; decide)]
    refine ⟨?_, ?_, OnlyRegs.fset (f := F.imgStatus_STAGED_CUST) (fun _ _ _ _ => rfl) 1 0 0 (by decide), rfl, (fun h => nomatch h), fun _ => ⟨rfl, ?_, rfl⟩⟩
    · exact flag_fset_off _ _ _ _ _ _ (by decide) (by decide) (by decide)
    · exact fget_fset_off _ _ _ _ _ _ (by decide) (by decide) (by decide)
    · exact flag_fset_one _ _ _ _ (by decide) (by decide)

/-- The judgement of fetched bytes (R180), by its steps. -/
theorem State.imgCheck_steps (d : List Byte) (len : Nat) :
    (imgHeaderOk d len = false → s.imgCheck d len = ⟨3, none⟩) ∧ (imgHeaderOk d len = true →
      (let x := imgParts d
       let n := d.length - sigLen
       let keys := if x.base then s.dereagorKeys else s.ownerKeys
       let signed := s.flag F.bnStatus_FAULT = false ∧ sigOk (if x.base then 0 else 1) keys (d.take n) (d.drop n) = true
       (¬signed → s.imgCheck d len = ⟨1, none⟩) ∧
       (signed → ¬s.arbOf (if x.base then 1 else 2) ≤ x.svn → s.imgCheck d len = ⟨2, none⟩) ∧
       (signed → s.arbOf (if x.base then 1 else 2) ≤ x.svn → ¬imgStructOk x (leNat (bytesAt d 22 2)) = true → s.imgCheck d len = ⟨3, none⟩) ∧
       (signed → s.arbOf (if x.base then 1 else 2) ≤ x.svn → imgStructOk x (leNat (bytesAt d 22 2)) = true → s.imgCheck d len = ⟨0, some x⟩))) := by
  refine ⟨fun h => if_pos h, fun h => ?_⟩
  have hsign {p q : Bool} (hs : p = false ∧ q = true) : ¬(p = true ∨ q = false) := by
    rw [hs.1, hs.2]
    decide
  dsimp only
  have hc : ¬imgHeaderOk d len = false := by
    rw [h]
    decide
  unfold State.imgCheck
  rw [if_neg hc]
  dsimp only
  refine ⟨fun hn => if_pos ?_, fun hs hv => ?_, fun hs hv hf => ?_, fun hs hv hf => ?_⟩
  · by_contra hc
    rw [not_or, Bool.not_eq_true, Bool.not_eq_false] at hc
    exact hn hc
  · rw [if_neg (hsign hs), if_pos (by omega)]
  · rw [if_neg (hsign hs), if_neg (by omega), if_pos (Bool.eq_false_iff.2 hf)]
  · rw [if_neg (hsign hs), if_neg (by omega), if_neg (by rw [hf]; decide)]

/-- A load that starts and later ends with a code and nothing to stage. -/
def LoadEnds (s : State) (f : Nat) (v : Word) (d : List Byte) (ok : Bool) (r : Nat) : Prop :=
  ∃ t u, .next (s.imgLoad f v d ok) = (.next t : Host.Outcome State Fault Refusal) ∧ t.flag F.imgStatus_BUSY = true ∧
    (t.cirrus.stagedBase = s.cirrus.stagedBase ∧ t.cirrus.stagedCust = s.cirrus.stagedCust) ∧ t.rd .imgCtl = v &&& 0xC#32 ∧
    OnlyRegs [.imgCtl, .imgStatus] s t ∧ execImgLoadDone t = .next u ∧ u.flag F.imgStatus_BUSY = false ∧ u.fget F.imgStatus_RESULT = r ∧
    (r ≠ 0 → u.cirrus.stagedBase = s.cirrus.stagedBase ∧ u.cirrus.stagedCust = s.cirrus.stagedCust)

theorem loadEnds_none {r : Nat} (hact : s.cirrus.act = none) (hr : r < 8) (h : s.imgLoad f v d ok = s.imgLoading v ⟨r, none⟩) :
    LoadEnds s f v d ok r := by
  obtain ⟨hbusy, hload, hstaged, hact', hctl, hregs⟩ := State.imgLoading_spec (s := s) (v := v) ⟨r, none⟩
  obtain ⟨hend, hres, _⟩ := State.imgEnded_spec (s := s.imgLoading v ⟨r, none⟩) hr
  rw [hact', hact] at hend
  exact ⟨_, _, congrArg _ h, hbusy, hstaged, hctl, hregs, execImgLoadDone_none hload, hend, hres, fun _ => hstaged⟩

theorem loadEnds_some {x : Image} (hact : s.cirrus.act = none) (h : s.imgLoad f v d ok = s.imgLoading v ⟨0, some x⟩) :
    LoadEnds s f v d ok 0 ∧ ∃ t u, .next (s.imgLoad f v d ok) = (.next t : Host.Outcome State Fault Refusal) ∧ execImgLoadDone t = .next u ∧
      (if x.base then u.cirrus.stagedBase else u.cirrus.stagedCust) = some x := by
  obtain ⟨hbusy, hload, hstaged, hact', hctl, hregs⟩ := State.imgLoading_spec (s := s) (v := v) ⟨0, some x⟩
  obtain ⟨hend, hres, _⟩ := State.imgEnded_spec (s := s.imgLoading v ⟨0, some x⟩) (r := 0) (by decide)
  obtain ⟨hsb, hsr, _, himg, _⟩ := State.imgStaged_spec (s := (s.imgLoading v ⟨0, some x⟩).imgEnded 0) x
  rw [hact', hact] at hend
  exact ⟨⟨_, _, congrArg _ h, hbusy, hstaged, hctl, hregs, execImgLoadDone_some hload, hsb.trans hend, hsr.trans hres, fun h => absurd rfl h⟩,
    _, _, congrArg _ h, execImgLoadDone_some hload, himg⟩

end

theorem imageCommandsLoad : Claims.ImageCommands := by
  intro s
  refine ⟨fun h => ⟨fun f v d ok hright => ?_, fun v => ?_, fun v => ?_⟩, fun harmed => ⟨fun v => ?_, fun v => ?_, ?_⟩, fun f v d ok hright hfree => ?_,
    fun f v d ok hright hbusy harmed hhz hor => ?_, fun f v d ok hright hbusy hhz hact => ?_, fun r x hload hr => ?_⟩
  · exact congrArg Host.Outcome.next ((if_pos hright).trans (State.imgLoad_refused h))
  · exact congrArg Host.Outcome.next (State.imgActivate_refused (h.imp_right Or.inl))
  · exact congrArg Host.Outcome.next (State.imgDeactivate_refused (h.imp_right Or.inl))
  · exact congrArg Host.Outcome.next (State.imgActivate_refused (Or.inr (Or.inr harmed)))
  · exact congrArg Host.Outcome.next (State.imgDeactivate_refused (Or.inr (Or.inr harmed)))
  · exact ⟨_, rfl, flag_fset_none _ _ _ _ (by decide) (by decide), rfl, (OnlyRegs.refl _ s).fset (f := F.imgStatus_ARMED) 0 0 0 (by decide)⟩
  · obtain ⟨hfrozen, hkind⟩ := State.violation_freezes (s := s) (f := f) (kind := 1) 0x1020100 0 hfree (by decide)
    exact ⟨_, congrArg Host.Outcome.next (if_neg (by rw [hright]; decide)), hfrozen, hkind,
      (State.violation_keeps (.rfl' .butCirrus s) f 1 0x1020100 0).cirrus rfl⟩
  · have hload : ∃ l, s.imgLoad f v d ok = s.imgLoading v l := by
      rw [State.imgLoad_idle hbusy hhz]
      split
      · exact ⟨_, rfl⟩
      · next hlen =>
        have hwin := (hor.resolve_left fun h => hlen (Or.inl h)).resolve_left fun h => hlen (Or.inr h)
        rw [if_neg (by rw [hwin]; decide), if_neg (show ¬(s.flag F.imgStatus_ARMED && _) = true by rw [harmed, Bool.false_and]; decide)]
        split
        · exact ⟨_, rfl⟩
        · exact ⟨_, rfl⟩
    obtain ⟨l, hl⟩ := hload
    obtain ⟨hb, hlo, ⟨hsb, hsc⟩, _, hctl, hregs⟩ := State.imgLoading_spec (s := s) (v := v) l
    exact ⟨_, congrArg Host.Outcome.next ((if_pos hright).trans hl), hb, by rw [hlo]; rfl, hsb, hsc, hctl, hregs⟩
  · have hexec : exec (.imgLoad f v d ok) s = .next (s.imgLoad f v d ok) := congrArg Host.Outcome.next (if_pos hright)
    have hidle := State.imgLoad_idle (f := f) (v := v) (d := d) (ok := ok) hbusy hhz
    dsimp only
    rw [hexec]
    refine ⟨fun hlen => loadEnds_none hact (by decide) (hidle.trans (if_pos hlen)), fun h0 h1 hwin hok => ?_, fun h0 h1 hwin hok harmed => ?_⟩
    · rw [if_neg (by omega), if_neg (by rw [hwin]; decide), if_pos hok] at hidle
      exact loadEnds_none hact (by decide) hidle
    · rw [if_neg (by omega), if_neg (by rw [hwin]; decide), if_neg (by rw [hok]; decide), harmed, Bool.false_and, if_neg (by decide)] at hidle
      obtain ⟨hbad, hgood⟩ := State.imgCheck_steps (s := s) (d.take (s.rd .imgLen).toNat) (s.rd .imgLen).toNat
      refine ⟨fun hh => ?_, fun hh hs => ?_, fun hh hs hv => ?_, fun hh hs hv hf => ?_, fun hh hs hv hf => ?_⟩
      · exact loadEnds_none hact (by decide) (hidle.trans (congrArg _ (hbad hh)))
      · exact loadEnds_none hact (by decide) (hidle.trans (congrArg _ ((hgood hh).1 hs)))
      · exact loadEnds_none hact (by decide) (hidle.trans (congrArg _ ((hgood hh).2.1 hs hv)))
      · exact loadEnds_none hact (by decide) (hidle.trans (congrArg _ ((hgood hh).2.2.1 hs hv hf)))
      · exact loadEnds_some hact (hidle.trans (congrArg _ ((hgood hh).2.2.2 hs hv hf)))
  · obtain ⟨hend, hres, hregs⟩ := State.imgEnded_spec (s := s) hr
    obtain ⟨hsb, hsr, hso, _, hbase, hcust⟩ := State.imgStaged_spec (s := s.imgEnded r) x
    exact ⟨_, execImgLoadDone_some hload, hsb.trans hend, hsr.trans hres, hbase, hcust, hregs.trans hso⟩

/-! ## Control-store words -/

/-- A read of a control-store word that starts and finds no error (R197). -/
def State.csReadStarted (s : State) (t a : Nat) : State :=
  ((((forN 18 (fun i s' => s'.wr .csRdData (BitVec.ofNat 32 ((s.csWord a).toNat >>> (32 * i))) t i) (s.wr .csRdCtl (BitVec.ofNat 32 a) t)).wr
    .csRdMark (BitVec.ofNat 32 (s.marks a)) t).fset F.csRdStatus_BUSY 1 t).fset F.csRdStatus_ECC_FIXED 0 t)

section
variable {s : State} {t : Nat} {v : Word}

theorem csRd_ctl (v : Word) : (v ||| 0x80000000#32) &&& 0x7FFF#32 = v &&& 0x7FFF#32 := by
  rw [BitVec.and_or_distrib_right]
  exact BitVec.or_zero

theorem csRd_addr (v : Word) : (v ||| 0x80000000#32).toNat % 32768 = v.toNat % 32768 := by
  have h : bits (v ||| 0x80000000#32).toNat 14 0 = bits v.toNat 14 0 := bits_or_mask v (by decide)
  exact h

theorem csRd_word (v : Word) : v &&& 0x7FFF#32 = BitVec.ofNat 32 (v.toNat % 32768) := (ofNat_mod_eq_and v 15 (by decide)).symm

theorem csRd_go (v : Word) : bitAt (v ||| 0x80000000#32).toNat 31 = true := by
  rw [bitAt, BitVec.toNat_or, Nat.testBit_or, show ((0x80000000#32).toNat).testBit 31 = true by decide, Bool.or_true]

theorem State.csRead_busy (hbusy : s.flag F.csRdStatus_BUSY t = true) :
    s.csRead t (v ||| 0x80000000#32) false = s.wr .csRdCtl (v &&& 0x7FFF#32) t := by
  unfold State.csRead
  dsimp only
  rw [if_neg (by rw [csRd_go]; decide), if_pos hbusy, csRd_ctl]

theorem State.csRead_starts (hbusy : s.flag F.csRdStatus_BUSY t = false) (herr : tget (s.pipe t).csErr (v.toNat % 32768) 0 = 0) :
    s.csRead t (v ||| 0x80000000#32) false = s.csReadStarted t (v.toNat % 32768) := by
  unfold State.csRead
  dsimp only
  rw [if_neg (by rw [csRd_go]; decide), if_neg (by rw [hbusy]; decide), csRd_addr, herr, csRd_ctl, csRd_word]
  rfl

theorem State.csReadStarted_spec (s : State) (t a : Nat) : (s.csReadStarted t a).rd .csRdCtl t = BitVec.ofNat 32 a ∧
    (s.csReadStarted t a).flag F.csRdStatus_BUSY t = true ∧ (s.csReadStarted t a).flag F.csRdStatus_ECC_FIXED t = false ∧
    (∀ i, i < 18 → (s.csReadStarted t a).rd .csRdData t i = BitVec.ofNat 32 ((s.csWord a).toNat >>> (32 * i))) ∧
    (s.csReadStarted t a).rd .csRdMark t = BitVec.ofNat 32 (s.marks a) ∧
    OnlyRegs [.csRdCtl, .csRdStatus, .csRdData, .csRdMark] s (s.csReadStarted t a) := by
  set u := s.wr .csRdCtl (BitVec.ofNat 32 a) t with hu
  set w := forN 18 (fun i s' => s'.wr .csRdData (BitVec.ofNat 32 ((s.csWord a).toNat >>> (32 * i))) t i) u with hw
  have hwu : OnlyRegs [.csRdData] u w := forN_wr_onlyRegs u .csRdData _ t 18
  have hs : s.csReadStarted t a = ((w.wr .csRdMark (BitVec.ofNat 32 (s.marks a)) t).fset F.csRdStatus_BUSY 1 t).fset F.csRdStatus_ECC_FIXED 0 t := rfl
  rw [hs]
  refine ⟨?_, ?_, flag_fset_none _ _ _ _ (by decide) (by decide), fun i hi => ?_, ?_, ?_⟩
  · rw [rd_fset_reg _ _ _ _ _ _ (by decide), rd_fset_reg _ _ _ _ _ _ (by decide), rd_wr_reg _ _ _ _ _ _ (by decide), hwu _ _ _ (by decide),
      hu, rd_wr_same]
  · rw [flag_fset_off _ _ _ _ _ _ (by decide) (by decide) (by decide), flag_fset_one _ _ _ _ (by decide) (by decide)]
  · rw [rd_fset_reg _ _ _ _ _ _ (by decide), rd_fset_reg _ _ _ _ _ _ (by decide), rd_wr_reg _ _ _ _ _ _ (by decide), hw,
      rd_forN_wr u .csRdData _ t (by decide) hi]
  · rw [rd_fset_reg _ _ _ _ _ _ (by decide), rd_fset_reg _ _ _ _ _ _ (by decide), rd_wr_same]
  · have hsw : OnlyRegs [.csRdCtl, .csRdStatus, .csRdData, .csRdMark] s w := fun n i j hn =>
      (hwu n i j fun h => hn (by rw [List.mem_singleton.1 h]; decide)).trans ((OnlyRegs.refl _ s).wr _ t 0 (by decide) n i j hn)
    exact ((hsw.wr _ t 0 (by decide)).fset (f := F.csRdStatus_BUSY) 1 t 0 (by decide)).fset (f := F.csRdStatus_ECC_FIXED) 0 t 0 (by decide)

end

theorem controlStoreRead : Claims.ControlStoreRead := by
  intro s ti v
  have hon (ecc : Bool) (h : s.tileOn ti = true) : exec (.csRead ti v ecc) s = .next (s.csRead ti (v ||| 0x80000000#32) ecc) :=
    congrArg Host.Outcome.next (if_pos h)
  refine ⟨fun htile ecc => congrArg Host.Outcome.next (if_neg (by rw [htile]; decide)), fun htile hbusy herr => ?_, fun htile hbusy => ?_,
    ⟨_, rfl, flag_fset_none _ _ _ _ (by decide) (by decide), (OnlyRegs.refl _ s).fset (f := F.csRdStatus_BUSY) 0 ti 0 (by decide)⟩, fun a => ?_⟩
  · have hspec := s.csReadStarted_spec ti (v.toNat % 32768)
    rw [← csRd_word] at hspec
    exact ⟨_, (hon false htile).trans (congrArg _ (State.csRead_starts hbusy herr)), hspec⟩
  · exact (hon false htile).trans (congrArg _ (State.csRead_busy hbusy))
  · refine ⟨s.setPipe ti { s.pipe ti with csErr := tset (s.pipe ti).csErr a 0 0 }, rfl, ?_, fun _ _ _ _ => rfl, fun _ => rfl⟩
    rw [State.setPipe_pipe, tget_tset_same]

/-- Settles O18: the image commands by what stands in their way, and control-store words read and rewritten. -/
theorem imageCommands : Obligations.ImageCommands :=
  ⟨imageCommandsLoad, controlStoreRead⟩

end Sys2Proof.Machine
end

section
/-!
PROOF. Activation and deactivation of images (R181, R182, R184).
-/

set_option Elab.async false

namespace Sys2Proof.Machine

/-! ## Walks -/

/-- A walk over a list that holds `a`, where the step at `a` brings about what the other steps keep. -/
theorem State.each_sets {α : Type} {P : State → Prop} {l : List α} {a : α} {f : α → State → State} (s : State) (ha : a ∈ l)
    (hset : ∀ t, P (f a t)) (hkeep : ∀ b t, P t → P (f b t)) : P (s.each l f) := by
  induction l generalizing s with
  | nil => cases ha
  | cons b r ih =>
    rw [State.each_cons]
    by_cases hr : a ∈ r
    · exact ih _ hr
    · rw [(List.mem_cons.1 ha).resolve_right hr] at hset
      exact State.each_ind (hset s) hkeep

/-- A flag that is 1 stays 1 when 1 is written, wherever it is. -/
theorem flag_fset_true {s : State} {f : Fld} {i j : Nat} (i' j' : Nat) (h : f.lo = f.hi) (h' : f.hi < 32) (hs : s.flag f i j = true) :
    (s.fset f 1 i' j').flag f i j = true := by
  unfold State.flag at hs ⊢
  rw [fget_fset s f 1 i' j' i j h.le h']
  split
  · simp [h]
  · exact hs

/-! ## Threads abandoned -/

/-- Cirrus without the tiles' pipes: the store, the marks and the images. -/
def State.store (s : State) : CirrusSt := { s.cirrus with tiles := [] }

theorem State.setPkt_store (s : State) (t fid : Nat) (v : Option Pkt) : (s.setPkt t fid v).store = s.store := rfl

theorem State.setPipe_store (s : State) (t : Nat) (v : PipeTile) : (s.setPipe t v).store = s.store := rfl

theorem State.fset_store (s : State) (f : Fld) (v i j : Nat) : (s.fset f v i j).store = s.store := rfl

theorem Keeps.store {L : Touch} {s u : State} (h : Keeps L s u) (e : L.cirrus = false) : u.store = s.store := by
  unfold State.store
  rw [h.cirrus e]

/-- A part of Cirrus that is not the tiles' pipes. -/
theorem cirrus_of_store {β : Type} (g : CirrusSt → β) {t : State} {c : CirrusSt} (hg : ∀ c l, g { c with tiles := l } = g c) (h : t.store = c) :
    g t.cirrus = g c := by
  rw [← h]
  exact (hg t.cirrus []).symm

theorem rd_setBit (s : State) (n m : RName) (i k i' j' : Nat) (h : m ≠ n) : (s.setBit n i k).rd m i' j' = s.rd m i' j' := rd_wr_reg _ _ _ _ _ _ h

/-- Events of a tile change no 32-bit register but the overflow bits. -/
theorem State.perf_onlyRegs (s : State) (t ev : Nat) (slot : Option Nat) (classes : Option (List Nat)) (code : Option Nat) (n : Nat) :
    OnlyRegs [.pcOvf] s (s.perf t ev slot classes code n) := fun m i j hm =>
  State.each_view (fun u => u.rd m i j) fun kw u => by
    split
    · unfold State.addOvf
      dsimp only
      split
      · rw [rd_setBit _ _ _ _ _ _ _ (ne_of_mem_of_not_mem (List.mem_singleton_self _) hm).symm, rd_wrw]
      · rw [rd_wrw]
    · rfl

theorem State.countReason_rd (s : State) (t r : Nat) (n : RName) (i j : Nat) : (s.countReason t r).rd n i j = s.rd n i j := by
  unfold State.countReason
  split <;> rfl

theorem State.excPkt_onlyRegs (s : State) (t fid : Nat) (k : Pkt) (r : Nat) : OnlyRegs [.pcOvf] s (s.excPkt t fid k r) := by
  have hcount : OnlyRegs [.pcOvf] s (s.countReason t r) := fun n i j _ => s.countReason_rd t r n i j
  unfold State.excPkt State.finishPkt
  dsimp only
  intro n i j hn
  rw [State.setPkt_rd]
  refine Eq.trans ?_ ((hcount.trans (State.perf_onlyRegs _ t 13 (some (s.slotOf k.iport)) none none 1)) n i j hn)
  split <;> rfl

theorem State.abandon_onlyRegs (s : State) (t fid why : Nat) : OnlyRegs [.pcOvf] s (s.abandon t fid why) := by
  unfold State.abandon
  split
  · exact .refl _ _
  · split
    · exact .refl _ _
    · have hperf : OnlyRegs [.pcOvf] s ((s.bump .cntRestart t (why - 1)).perf t 12 none none none 1) := fun n i j hn =>
        State.perf_onlyRegs _ t 12 none none none 1 n i j hn
      dsimp only
      split
      · exact hperf.trans (State.excPkt_onlyRegs _ _ _ _ _)
      · exact hperf

theorem State.abandon_store (s : State) (t fid why : Nat) : (s.abandon t fid why).store = s.store := by
  unfold State.abandon
  split
  · rfl
  · split
    · rfl
    · have hperf : ((s.bump .cntRestart t (why - 1)).perf t 12 none none none 1).store = s.store :=
        (State.perf_keeps (.rfl' .butCirrus (s.bump .cntRestart t (why - 1))) t 12 none none none 1).store rfl
      dsimp only
      split
      · unfold State.excPkt State.finishPkt
        dsimp only
        rw [State.setPkt_store]
        refine Eq.trans ?_ hperf
        have hcount (u : State) (r : Nat) (sl : Option Nat) : ((u.countReason t r).perf t 13 sl none none 1).store = u.store :=
          (State.perf_keeps (State.countReason_keeps (.rfl' .butCirrus u) t r) t 13 sl none none 1).store rfl
        split
        · exact hcount _ _ _
        · exact hcount _ _ _
      · rw [State.setPkt_store, hperf]

theorem State.abandonIn_onlyRegs (s : State) (t : Nat) (base : Bool) : OnlyRegs [.pcOvf] s (s.abandonIn t base) := fun n i j hn =>
  State.each_view (fun u => u.rd n i j) fun e u => by
    split
    · exact State.abandon_onlyRegs u t e.1 3 n i j hn
    · rfl

theorem State.abandonIn_store (s : State) (t : Nat) (base : Bool) : (s.abandonIn t base).store = s.store :=
  State.each_view State.store fun e u => by
    split
    · exact State.abandon_store u t e.1 3
    · rfl

/-! ## Step 1 -/

theorem State.imgFields_clocked (s : State) (v : Word) : (s.imgFields v).clocked = s.clocked := by
  have hon (t : Nat) : (s.imgFields v).tileOn t = s.tileOn t := by
    unfold State.tileOn
    rw [flag_of_rd F.dawnStatus_HORIZON (State.imgFields_rd _ _ _ (by decide)), flag_of_rd F.spareTile_TILE_RETIRED (State.imgFields_rd _ _ _ (by decide)),
      flag_of_rd F.spareTile_UNUSABLE (State.imgFields_rd _ _ _ (by decide))]
  unfold State.clocked
  rw [funext hon]

theorem State.mem_clocked {s : State} {t : Nat} (ht : t < 16) (h : s.tileOn t = true) : t ∈ s.clocked :=
  List.mem_filter.2 ⟨List.mem_range.2 ht, h⟩

/-- A tile whose region comes under reload. -/
def State.reloadTile (s : State) (base : Bool) (t : Nat) : State := (s.fset F.cirrusStatus_RELOADING 1 t).abandonIn t base

theorem State.reloadTile_onlyRegs (s : State) (base : Bool) (t : Nat) : OnlyRegs [.cirrusStatus, .pcOvf] s (s.reloadTile base t) :=
  ((OnlyRegs.refl _ s).fset (f := F.cirrusStatus_RELOADING) 1 t 0 (by decide)).trans fun n i j hn =>
    State.abandonIn_onlyRegs _ t base n i j fun h => hn (List.mem_cons_of_mem _ h)

theorem State.reloadTile_store (s : State) (base : Bool) (t : Nat) : (s.reloadTile base t).store = s.store :=
  (State.abandonIn_store _ _ _).trans (State.fset_store _ _ _ _ _)

theorem State.reloadTile_reloading (s : State) (base : Bool) (t b : Nat) (h : b = t ∨ s.flag F.cirrusStatus_RELOADING t = true) :
    (s.reloadTile base b).flag F.cirrusStatus_RELOADING t = true := by
  rw [State.reloadTile, flag_of_rd F.cirrusStatus_RELOADING (State.abandonIn_onlyRegs _ b base _ _ _ (by decide))]
  obtain rfl | h := h
  · exact flag_fset_one _ _ _ _ (by decide) (by decide)
  · exact flag_fset_true _ _ (by decide) (by decide) h

/-- What an activation or DEACTIVATE notes at its start (R181). -/
def State.actNoted (s : State) (base off : Bool) : State :=
  (({ s with cirrus := { s.cirrus with act := some (base, off), drained := false } } : State).fset F.imgStatus_BUSY 1).fset F.imgStatus_ARMED 0

theorem State.actStart_eq (s : State) (base off : Bool) :
    s.actStart base off = (s.actNoted base off).each s.clocked fun t u => u.reloadTile base t := rfl

/-- An activation or DEACTIVATE that starts: what it notes, BUSY, and RELOADING of each tile in use (R181). -/
theorem State.actStart_spec (s : State) (base off : Bool) : (s.actStart base off).cirrus.act = some (base, off) ∧
    (s.actStart base off).flag F.imgStatus_BUSY = true ∧ ∀ t ∈ s.clocked, (s.actStart base off).flag F.cirrusStatus_RELOADING t = true := by
  rw [State.actStart_eq]
  refine ⟨?_, ?_, fun t ht => State.each_sets (P := fun u => u.flag F.cirrusStatus_RELOADING t = true) _ ht
    (fun u => u.reloadTile_reloading base t t (Or.inl rfl)) fun b u hu => u.reloadTile_reloading base t b (Or.inr hu)⟩
  · exact congrArg CirrusSt.act (State.each_view State.store fun t u => u.reloadTile_store base t)
  · rw [flag_of_rd F.imgStatus_BUSY (State.each_view (fun u => u.rd .imgStatus) fun t u => u.reloadTile_onlyRegs base t _ _ _ (by decide)),
      State.actNoted, flag_fset_off _ _ _ _ _ _ (by decide) (by decide) (by decide), flag_fset_one _ _ _ _ (by decide) (by decide)]

section
variable {s : State} {v : Word}

theorem State.imgActivate_idle (hbusy : s.flag F.imgStatus_BUSY = false) (hhz : s.hz = false) (harmed : s.flag F.imgStatus_ARMED = false)
    (hstaged : (if bitAt v.toNat 2 then s.cirrus.stagedCust else s.cirrus.stagedBase).isSome = true) : s.imgActivate v =
    if bitAt v.toNat 3 then { (s.imgFields v).fset F.imgStatus_ARMED 1 with cirrus := { s.cirrus with armedBase := !bitAt v.toNat 2 } }
    else (s.imgFields v).actStart (!bitAt v.toNat 2) false := by
  have hhas : ¬(if (!bitAt v.toNat 2) = true then s.cirrus.stagedBase.isSome else s.cirrus.stagedCust.isSome) = false := by
    cases hb : bitAt v.toNat 2 with
    | true =>
      rw [hb, if_pos rfl] at hstaged
      simp [hstaged]
    | false =>
      rw [hb, if_neg (by decide)] at hstaged
      simp [hstaged]
  unfold State.imgActivate
  dsimp only
  rw [if_neg (by rw [hbusy, hhz, harmed]; decide), if_neg hhas]
  rfl

theorem State.imgArmed_regs {u : State} (h : u.r32 = ((s.imgFields v).fset F.imgStatus_ARMED 1).r32) :
    u.flag F.imgStatus_ARMED = true ∧ OnlyRegs [.imgStatus, .imgCtl] s u := by
  refine ⟨?_, fun n i j hn => ?_⟩
  · rw [flag_of_rd F.imgStatus_ARMED (rd_of_r32 h .imgStatus 0 0), flag_fset_one _ _ _ _ (by decide) (by decide)]
  · rw [rd_of_r32 h n i j]
    exact ((OnlyRegs.refl _ s).wr (v &&& 0xC#32) 0 0 (by decide)).fset (f := F.imgStatus_ARMED) 1 0 0 (by decide) n i j hn

theorem State.imgDeactivate_idle (hbusy : s.flag F.imgStatus_BUSY = false) (hhz : s.hz = false) (harmed : s.flag F.imgStatus_ARMED = false) :
    s.imgDeactivate v = (s.imgFields v).actStart false true := if_neg (by rw [hbusy, hhz, harmed]; decide)

/-! ## Drained -/

theorem execActivationDrained_busy {b off : Bool} (hact : s.cirrus.act = some (b, off)) (h : s.regionBusy b = true) :
    execActivationDrained s = .next s := by
  unfold execActivationDrained
  rw [hact]
  exact congrArg _ (if_pos h)

theorem execActivationDrained_free {b off : Bool} (hact : s.cirrus.act = some (b, off)) (h : s.regionBusy b = false) :
    ∃ t, execActivationDrained s = .next t ∧ t.cirrus.drained = true ∧ t.cirrus.act = some (b, off) ∧ OnlyRegs [.pcOvf] s t ∧ t.te = s.te := by
  set s1 : State := { s with cirrus := { s.cirrus with drained := true } } with hs1
  have hexec : execActivationDrained s = .next (s1.each s1.clocked (fun t u => u.abandonIn t b)) := by
    unfold execActivationDrained
    rw [hact]
    exact congrArg _ (if_neg (by rw [h]; decide))
  have hstore : (s1.each s1.clocked (fun t u => u.abandonIn t b)).store = s1.store := State.each_view State.store fun t u => u.abandonIn_store t b
  refine ⟨_, hexec, ?_, ?_, fun n i j hn => ?_, ?_⟩
  · exact congrArg CirrusSt.drained hstore
  · exact (congrArg CirrusSt.act hstore).trans hact
  · exact State.each_view (fun u => u.rd n i j) fun t u => u.abandonIn_onlyRegs t b n i j hn
  · exact State.each_view State.te fun t u => (State.abandonIn_keeps (.rfl' { Touch.all with te := false } u) t b).te rfl

end

/-! ## Tables filled from lists -/

section
variable {α : Type}

theorem tget_filter_drop {t : Tab α} {k : Nat} (d : α) (p : Nat × α → Bool) (h : ∀ v, p (k, v) = false) : tget (t.filter p) k d = d := by
  induction t with
  | nil => rfl
  | cons e r ih =>
    obtain ⟨k', v⟩ := e
    rw [List.filter_cons]
    split
    · next hp =>
      have hne : k' ≠ k := by
        rintro rfl
        exact Bool.noConfusion ((h v).symm.trans hp)
      rw [tget, if_neg hne, ih]
    · exact ih

variable [DecidableEq α]

/-- Words put at successive keys. -/
theorem tget_tputs_words (ws : List α) (f m : Nat) (t : Tab α) (k : Nat) (d : α) :
    tget (tputs t ((ws.zipIdx m).map fun w => (f + w.2, w.1)) d) k d =
      if f + m ≤ k ∧ k < f + m + ws.length then ws.getD (k - (f + m)) d else tget t k d := by
  induction ws generalizing m t with
  | nil =>
    rw [if_neg (by simp)]
    rfl
  | cons w r ih =>
    have hstep : tputs t (((w :: r).zipIdx m).map fun w => (f + w.2, w.1)) d =
        tputs (tset t (f + m) d w) ((r.zipIdx (m + 1)).map fun w => (f + w.2, w.1)) d := rfl
    rw [hstep, ih, tget_tset]
    by_cases hk : k = f + m
    · rw [if_neg (by omega), if_pos hk, if_pos (by simp; omega), hk, Nat.sub_self]
      rfl
    · by_cases hr : f + (m + 1) ≤ k ∧ k < f + (m + 1) + r.length
      · rw [if_pos hr, if_pos (by simp; omega), show k - (f + m) = (k - (f + (m + 1))) + 1 by omega]
        rfl
      · rw [if_neg hr, if_neg hk, if_neg (by simp; omega)]

/-- Marks put at the keys of a list. -/
theorem tget_tputs_marks (l : List Nat) (t : Tab Bool) (k : Nat) :
    tget (tputs t (l.map fun a => (a, true)) false) k false = (decide (k ∈ l) || tget t k false) := by
  induction l generalizing t with
  | nil => rfl
  | cons a r ih =>
    have hstep : tputs t ((a :: r).map fun a => (a, true)) false = tputs (tset t a false true) (r.map fun a => (a, true)) false := rfl
    rw [hstep, ih, tget_tset]
    by_cases hk : k = a
    · simp [hk]
    · simp [hk]

end

/-! ## Step 4 -/

theorem State.dispatch_store (s : State) (t fid : Nat) : (s.dispatch t fid).store = s.store := by
  unfold State.dispatch
  split
  · rfl
  · dsimp only
    split
    · rfl
    · split <;> rfl

theorem dispatchHeld_store (s : State) (t : Nat) : (s.dispatchHeld t).store = s.store :=
  State.each_view State.store fun e w => w.dispatch_store t e.1

/-- What follows the region's write (R181): BUSY, RESULT, RELOADING of each tile, and held packets. -/
def State.actEnded (s : State) (ts : List Nat) : State :=
  (s.imgBusy.fset F.imgStatus_RESULT 0).each ts fun t u => (u.fset F.cirrusStatus_RELOADING 0 t).dispatchHeld t

theorem State.actEnded_store (s : State) (ts : List Nat) : (s.actEnded ts).store = s.store :=
  State.each_view State.store fun t _ => (dispatchHeld_store _ t).trans (State.fset_store _ _ _ _ _)

theorem State.actEnded_onlyRegs (s : State) (ts : List Nat) : OnlyRegs [.cirrusStatus] (s.imgBusy.fset F.imgStatus_RESULT 0) (s.actEnded ts) :=
  fun n i j hn => State.each_view (fun u => u.rd n i j) fun t u =>
    ((State.dispatchHeld_keeps (.rfl' (.onRegs []) _) t).onlyRegs n i j (by simp)).trans
      ((OnlyRegs.refl [.cirrusStatus] u).fset (f := F.cirrusStatus_RELOADING) 0 t 0 (by decide) n i j hn)

theorem State.actEnded_idle {s : State} (ts : List Nat) (hload : s.cirrus.load = none) (hact : s.cirrus.act = none) :
    (s.actEnded ts).flag F.imgStatus_BUSY = false ∧ (s.actEnded ts).fget F.imgStatus_RESULT = 0 := by
  have hidle : (s.cirrus.load.isSome || s.cirrus.act.isSome) = false := by
    rw [hload, hact]
    rfl
  have hrd := (s.actEnded_onlyRegs ts) .imgStatus 0 0 (by decide)
  rw [flag_of_rd F.imgStatus_BUSY hrd, fget_of_rd F.imgStatus_RESULT hrd, State.imgBusy, hidle]
  constructor
  · rw [flag_fset_off _ _ _ _ _ _ (by decide) (by decide) (by decide)]
    exact flag_fset_none _ _ _ _ (by decide) (by decide)
  · exact fget_fset_same _ _ _ _ _ (by decide) (by decide)

theorem State.actEnded_cust (s : State) (ts : List Nat) : (s.actEnded ts).flag F.imgStatus_CUST_ACTIVE = s.flag F.imgStatus_CUST_ACTIVE ∧
    (s.actEnded ts).rd .custImageId = s.rd .custImageId := by
  rw [flag_of_rd F.imgStatus_CUST_ACTIVE ((s.actEnded_onlyRegs ts) .imgStatus 0 0 (by decide)),
    (s.actEnded_onlyRegs ts) .custImageId 0 0 (by decide), State.imgBusy]
  constructor
  · rw [flag_fset_off _ _ _ _ _ _ (by decide) (by decide) (by decide), flag_fset_off _ _ _ _ _ _ (by decide) (by decide) (by decide)]
  · rw [rd_fset_reg _ _ _ _ _ _ (by decide), rd_fset_reg _ _ _ _ _ _ (by decide)]

theorem csWord_of_store {s t : State} (h : t.store = s.store) (a : Nat) : t.csWord a = s.csWord a := by
  have hcs : t.cirrus.cs = s.cirrus.cs := (cirrus_of_store CirrusSt.cs (fun _ _ => rfl) h).trans rfl
  have hboot : t.cirrus.bootBase = s.cirrus.bootBase := (cirrus_of_store CirrusSt.bootBase (fun _ _ => rfl) h).trans rfl
  unfold State.csWord
  rw [hcs, hboot]

theorem isEntry_of_store {s t : State} (h : t.store = s.store) (hf : t.flag F.imgStatus_CUST_ACTIVE = s.flag F.imgStatus_CUST_ACTIVE) (a : Nat) :
    t.isEntry a = s.isEntry a := by
  have hentry : t.cirrus.entry = s.cirrus.entry := (cirrus_of_store CirrusSt.entry (fun _ _ => rfl) h).trans rfl
  have hboot : t.cirrus.bootBase = s.cirrus.bootBase := (cirrus_of_store CirrusSt.bootBase (fun _ _ => rfl) h).trans rfl
  unfold State.isEntry
  rw [hentry, hboot, hf]

/-- The state in which an activation's image takes its region. -/
def State.actOver (s : State) : State := { s with cirrus := { s.cirrus with act := none, drained := false } }

section
variable {s : State}

theorem execActivationComplete_image {x : Image} (hact : s.cirrus.act = some (false, false)) (hdr : s.cirrus.drained = true)
    (hfree : s.regionBusy false = false) (hx : s.cirrus.stagedCust = some x) :
    execActivationComplete s = .next ((s.actOver.install x).actEnded s.clocked) := by
  unfold execActivationComplete
  rw [hact]
  dsimp only
  rw [if_neg (by rw [hdr, hfree]; decide), if_neg (by decide), if_neg (by decide)]
  show Host.Outcome.next (State.actEnded (match s.cirrus.stagedCust with
    | some x => s.actOver.install x
    | none => s.actOver) s.clocked) = _
  rw [hx]

theorem execActivationComplete_off (hact : s.cirrus.act = some (false, true)) (hdr : s.cirrus.drained = true)
    (hfree : s.regionBusy false = false) : execActivationComplete s = .next (s.actOver.custClear.actEnded s.clocked) := by
  unfold execActivationComplete
  rw [hact]
  dsimp only
  rw [if_neg (by rw [hdr, hfree]; decide)]
  rfl

theorem State.setMeas_rd (m : Nat) (d : List Byte) (n : RName) (i j : Nat) (h : n ≠ .bnMeas) : (s.setMeas m d).rd n i j = s.rd n i j :=
  (State.setMeas_keeps (.rfl' (.onRegs [.bnMeas]) s) m d).onlyRegs n i j (by simpa using h)

theorem State.setMeas_store (m : Nat) (d : List Byte) : (s.setMeas m d).store = s.store :=
  (State.setMeas_keeps (.rfl' .butCirrus s) m d).store rfl

/-- A word or mark of an image's own region (R179). -/
def Image.owns (x : Image) (a : Nat) : Bool := decide (inCust a = !x.base)

/-- What an image leaves in the store (R181). -/
def State.installed (s : State) (x : Image) : CirrusSt :=
  { s.store with
    bootBase := s.cirrus.bootBase && !x.base
    cs := tputs (s.cirrus.cs.filter (fun e => !x.owns e.1)) (x.words.zipIdx.map (fun w => (x.first + w.2, w.1))) 0
    entry := tputs (s.cirrus.entry.filter (fun e => !x.owns e.1)) (x.entries.map (fun a => (a, true))) false
    callable := tputs (s.cirrus.callable.filter (fun e => !x.owns e.1)) (x.callable.map (fun a => (a, true))) false
    dtab := tputs (s.cirrus.dtab.filter (fun e => !decide (decide (e.1 < 2048) = x.base))) x.dtab 0
    kprof := tputs (s.cirrus.kprof.filter (fun e => !decide (decide (e.1 < 32) = x.base))) x.kprof 0 }

theorem State.install_cust {x : Image} (hb : x.base = false) : (s.install x).store = s.installed x ∧
    (s.install x).flag F.imgStatus_CUST_ACTIVE = true ∧ (s.install x).rd .custImageId = BitVec.ofNat 32 x.id := by
  unfold State.install
  dsimp only
  rw [if_neg (by rw [hb]; decide)]
  refine ⟨?_, ?_, ?_⟩
  · rw [State.setMeas_store, State.fset_store]
    exact State.each_view State.store fun t u => State.setPipe_store _ _ _
  · rw [flag_of_rd F.imgStatus_CUST_ACTIVE (State.setMeas_rd _ _ _ _ _ (by decide)), flag_fset_one _ _ _ _ (by decide) (by decide)]
  · rw [State.setMeas_rd _ _ _ _ _ (by decide), rd_fset_reg _ _ _ _ _ _ (by decide), rd_wr_reg _ _ _ _ _ _ (by decide), rd_wr_same]

/-- The store once the customer region is empty (R182). -/
def State.emptied (s : State) : CirrusSt :=
  { s.store with
    entry := s.cirrus.entry.filter (fun e => !inCust e.1)
    callable := s.cirrus.callable.filter (fun e => !inCust e.1)
    dtab := s.cirrus.dtab.filter (fun e => decide (e.1 < 2048))
    kprof := s.cirrus.kprof.filter (fun e => decide (e.1 < 32))
    custDigest := [] }

theorem State.custClear_spec : s.custClear.store = s.emptied ∧ s.custClear.flag F.imgStatus_CUST_ACTIVE = false ∧
    s.custClear.rd .custImageId = 0 := by
  unfold State.custClear
  dsimp only
  rw [State.setMeas_store, flag_of_rd F.imgStatus_CUST_ACTIVE (State.setMeas_rd _ _ _ _ _ (by decide)), State.setMeas_rd _ _ _ _ _ (by decide)]
  refine ⟨rfl, ?_, ?_⟩
  · rw [flag_wr_reg _ _ _ _ _ _ _ (by decide), flag_wr_reg _ _ _ _ _ _ _ (by decide), flag_fset_none _ _ _ _ (by decide) (by decide)]
  · rw [rd_wr_reg _ _ _ _ _ _ (by decide), rd_wr_same]

end

theorem inCust_of_le {a : Nat} (h : 0x6000 ≤ a) : inCust a = true := decide_eq_true h

theorem inCust_of_lt {a : Nat} (h : a < 0x6000) : inCust a = false := decide_eq_false (by omega)

/-- The store once a customer image is in place (R181). -/
theorem State.installed_store {s t : State} {x : Image} (hb : x.base = false) (hfirst : x.first = 0x6000) 
    (ht : t.store = s.installed x) (hflag : t.flag F.imgStatus_CUST_ACTIVE = true) :
    (∀ a, 0x6000 ≤ a → t.csWord a = x.words.getD (a - 0x6000) 0 ∧ (t.isEntry a = true ↔ a ∈ x.entries)) ∧
    (∀ a, a < 0x6000 → t.csWord a = s.csWord a) := by
  have hcs : t.cirrus.cs = (s.installed x).cs := cirrus_of_store CirrusSt.cs (fun _ _ => rfl) ht
  have hentry : t.cirrus.entry = (s.installed x).entry := cirrus_of_store CirrusSt.entry (fun _ _ => rfl) ht
  have hboot : t.cirrus.bootBase = s.cirrus.bootBase := by
    have h : t.cirrus.bootBase = (s.cirrus.bootBase && !x.base) := cirrus_of_store CirrusSt.bootBase (fun _ _ => rfl) ht
    rw [h, hb, Bool.not_false, Bool.and_true]
  have hword (a : Nat) : tget t.cirrus.cs a 0 = if 0x6000 ≤ a ∧ a < 0x6000 + x.words.length then x.words.getD (a - 0x6000) 0
      else tget (s.cirrus.cs.filter (fun e => !x.owns e.1)) a 0 := by
    rw [hcs]
    show tget (tputs (s.cirrus.cs.filter (fun e => !x.owns e.1)) (x.words.zipIdx.map (fun w => (x.first + w.2, w.1))) 0) a 0 = _
    rw [tget_tputs_words, hfirst]
  have howns (a : Nat) (h : 0x6000 ≤ a) : x.owns a = true := by rw [Image.owns, inCust_of_le h, hb]; decide
  have hnot (a : Nat) (h : a < 0x6000) : x.owns a = false := by rw [Image.owns, inCust_of_lt h, hb]; decide
  refine ⟨fun a ha => ⟨?_, ?_⟩, fun a ha => ?_⟩
  · rw [State.csWord, inCust_of_le ha, if_neg (by simp), hword]
    split
    · rfl
    · next hout =>
      rw [tget_filter_drop _ _ fun v => by rw [howns a ha]; rfl, List.getD_eq_default _ _ (by omega)]
  · rw [State.isEntry, if_pos (inCust_of_le ha), hflag, Bool.true_and, hentry]
    show tget (tputs _ (x.entries.map (fun a => (a, true))) false) a false = true ↔ _
    rw [tget_tputs_marks, tget_filter_drop _ _ fun v => by rw [howns a ha]; rfl, Bool.or_false, decide_eq_true_eq]
  · rw [State.csWord, State.csWord, hboot, hword, if_neg (show ¬(0x6000 ≤ a ∧ a < 0x6000 + x.words.length) by omega),
      tget_filter _ _ fun v => by rw [hnot a ha]; rfl]

/-- Settles O19: a start, a drained region and the end of an activation and of a DEACTIVATE. -/
theorem imageActivation : Obligations.ImageActivation := by
  intro s
  refine ⟨fun v hbusy hhz harmed hstaged => ⟨fun hcommit => ?_, fun hcommit => ?_⟩, fun v hbusy hhz harmed => ?_,
    fun b off hact => ⟨execActivationDrained_busy hact, execActivationDrained_free hact⟩,
    fun x hact hdr hfree hload hx hb hfirst hlen hentries => ?_, fun hact hdr hfree => ?_⟩
  · exact ⟨_, congrArg Host.Outcome.next ((State.imgActivate_idle hbusy hhz harmed hstaged).trans (if_pos hcommit)),
      (State.imgArmed_regs (s := s) (v := v) rfl).1, rfl, (State.imgArmed_regs (s := s) (v := v) rfl).2⟩
  · obtain ⟨ha, hb, hr⟩ := (s.imgFields v).actStart_spec (!bitAt v.toNat 2) false
    rw [State.imgFields_clocked] at hr
    exact ⟨_, congrArg Host.Outcome.next ((State.imgActivate_idle hbusy hhz harmed hstaged).trans (if_neg (by rw [hcommit]; decide))), ha, hb,
      fun ti hti => hr ti (State.mem_clocked ti.isLt hti)⟩
  · obtain ⟨ha, hb, _⟩ := (s.imgFields v).actStart_spec false true
    exact ⟨_, congrArg Host.Outcome.next (State.imgDeactivate_idle hbusy hhz harmed), ha, hb⟩
  · obtain ⟨hstore, hcust, hid⟩ := s.actOver.install_cust hb
    set t := (s.actOver.install x).actEnded s.clocked with ht
    have hst : t.store = s.actOver.installed x := ((s.actOver.install x).actEnded_store s.clocked).trans hstore
    obtain ⟨hbusy, hres⟩ := State.actEnded_idle (s := s.actOver.install x) s.clocked
      ((cirrus_of_store CirrusSt.load (fun _ _ => rfl) hstore).trans hload) ((cirrus_of_store CirrusSt.act (fun _ _ => rfl) hstore).trans rfl)
    obtain ⟨hcust', hid'⟩ := (s.actOver.install x).actEnded_cust s.clocked
    obtain ⟨hin, hout⟩ := State.installed_store hb hfirst hst (hcust'.trans hcust)
    exact ⟨t, execActivationComplete_image hact hdr hfree hx, (cirrus_of_store CirrusSt.act (fun _ _ => rfl) hst).trans rfl, hbusy, hres,
      hcust'.trans hcust, hid'.trans hid, (cirrus_of_store CirrusSt.stagedCust (fun _ _ => rfl) hst).trans hx, fun a ha _ => hin a ha, hout⟩
  · obtain ⟨hstore, hcust, hid⟩ := s.actOver.custClear_spec
    set t := s.actOver.custClear.actEnded s.clocked with ht
    have hst : t.store = s.actOver.emptied := (State.actEnded_store _ _).trans hstore
    obtain ⟨hcust', hid'⟩ := s.actOver.custClear.actEnded_cust s.clocked
    have hoff : t.flag F.imgStatus_CUST_ACTIVE = false := hcust'.trans hcust
    refine ⟨t, execActivationComplete_off hact hdr hfree, hoff, hid'.trans hid, (cirrus_of_store CirrusSt.stagedCust (fun _ _ => rfl) hst).trans rfl,
      (cirrus_of_store CirrusSt.act (fun _ _ => rfl) hst).trans rfl, fun a ha => ?_, fun a => ?_⟩
    · rw [State.isEntry, if_pos (inCust_of_le ha), hoff, Bool.false_and]
    · rw [State.csWord, cirrus_of_store CirrusSt.cs (fun _ _ => rfl) hst, cirrus_of_store CirrusSt.bootBase (fun _ _ => rfl) hst]
      rfl

end Sys2Proof.Machine
end

section
/-!
PROOF. The table engine's command register (R212 to R216), and immediate operations on exact-match tables (R201, R213, R218, R222).
-/

set_option Elab.async false

namespace Sys2Proof.Machine

/-! ## Bytes -/

theorem bytesAt_length (bs : List Byte) (off n : Nat) : (bytesAt bs off n).length = n := by
  simp [bytesAt]

theorem bytesAt_self {bs : List Byte} {n : Nat} (h : bs.length = n) : bytesAt bs 0 n = bs := by
  simp [bytesAt, ← h]

theorem leBytes_length (n v : Nat) : (leBytes n v).length = n := by
  induction n generalizing v with
  | zero => rfl
  | succ n ih => simp [leBytes, ih]

theorem leNat_leBytes (n v : Nat) : leNat (leBytes n v) = v % 256 ^ n := by
  induction n generalizing v with
  | zero => simp [leBytes, leNat, Nat.mod_one]
  | succ n ih =>
    rw [leBytes, leNat, ih, BitVec.toNat_ofNat, show 256 ^ (n + 1) = 256 * 256 ^ n by ring, Nat.mod_mul]

theorem bytesAt_append {bs : List Byte} {n : Nat} (r : List Byte) (h : bs.length = n) : bytesAt (bs ++ r) 0 n = bs := by
  simp [bytesAt, ← h]

/-! ## Operations of the command register -/

/-- The operation at a source's head leaves, and the register's data words take what a READ returns. -/
def State.teLeft (s : State) (d : List Byte) : State :=
  if d.isEmpty then { s with te := { s.te with ops := dropFirst s.te.ops .reg } }
  else forN 64 (fun i w => w.wr .teData (BitVec.ofNat 32 (leNat (bytesAt d (4 * i) 4))) i)
    { s with te := { s.te with ops := dropFirst s.te.ops .reg } }

theorem State.teFinish_reg (s : State) {o : TeOp} (r : Nat) (d : List Byte) (hgen : o.gen = 0) :
    s.teFinish .reg o r d = ((s.teLeft d).fset F.teCmdStatus_BUSY 0).fset F.teCmdStatus_RESULT r := if_pos hgen

theorem State.teLeft_te (s : State) (d : List Byte) : (s.teLeft d).te = { s.te with ops := dropFirst s.te.ops .reg } := by
  unfold State.teLeft
  split
  · rfl
  · have h := forN_view (fun w : State => w.te) (op := fun i w => w.wr .teData (BitVec.ofNat 32 (leNat (bytesAt d (4 * i) 4))) i) 64 (n := 64)
      { s with te := { s.te with ops := dropFirst s.te.ops .reg } } (fun _ _ _ _ => rfl) fun _ _ h => h
    exact h.trans (if_neg (Nat.lt_irrefl 64))

theorem State.teLeft_onlyRegs (s : State) (d : List Byte) : OnlyRegs [.teData] s (s.teLeft d) := by
  intro n i j hn
  have hne : n ≠ .teData := fun h => hn (by rw [h]; decide)
  unfold State.teLeft
  split
  · rfl
  · have h := forN_view (fun w : State => w.rd n i j) (op := fun i w => w.wr .teData (BitVec.ofNat 32 (leNat (bytesAt d (4 * i) 4))) i) 64 (n := 64)
      { s with te := { s.te with ops := dropFirst s.te.ops .reg } } (fun k b _ _ => rd_wr_reg b _ _ _ _ _ hne)
      fun b c h => by rw [rd_wr_reg _ _ _ _ _ _ hne, rd_wr_reg _ _ _ _ _ _ hne, h]
    exact h.trans (if_neg (Nat.lt_irrefl 64))

theorem State.teLeft_data (s : State) {d : List Byte} (hd : d ≠ []) : (s.teLeft d).rd .teData 0 = BitVec.ofNat 32 (leNat (bytesAt d 0 4)) := by
  have h := forN_view (fun w : State => w.rd .teData 0) (op := fun i w => w.wr .teData (BitVec.ofNat 32 (leNat (bytesAt d (4 * i) 4))) i) 0 (n := 64)
    { s with te := { s.te with ops := dropFirst s.te.ops .reg } } (fun k b hk hne => rd_wr_inst b _ 0 0 (by omega))
    fun b c _ => by rw [rd_wr_same, rd_wr_same]
  unfold State.teLeft
  rw [if_neg fun h => hd (List.isEmpty_iff.1 h)]
  refine h.trans ?_
  rw [if_pos (by decide)]
  exact rd_wr_same _ _ _ _ _

section
variable {s : State} {o : TeOp}

theorem State.teFinish_te (r : Nat) (d : List Byte) (hgen : o.gen = 0) :
    (s.teFinish .reg o r d).te = { s.te with ops := dropFirst s.te.ops .reg } := by
  rw [State.teFinish_reg s r d hgen, State.fset_te, State.fset_te, State.teLeft_te]

theorem State.teFinish_status {r : Nat} (d : List Byte) (hgen : o.gen = 0) (hr : r < 16) :
    (s.teFinish .reg o r d).flag F.teCmdStatus_BUSY = false ∧ (s.teFinish .reg o r d).fget F.teCmdStatus_RESULT = r := by
  rw [State.teFinish_reg s r d hgen]
  constructor
  · rw [flag_fset_off _ _ _ _ _ _ (by decide) (by decide) (by decide), flag_fset_none _ _ _ _ (by decide) (by decide)]
  · rw [fget_fset_same _ _ _ _ _ (by decide) (by decide)]
    exact Nat.mod_eq_of_lt hr

theorem State.teFinish_onlyRegs (r : Nat) (d : List Byte) (hgen : o.gen = 0) : OnlyRegs [.teCmdStatus, .teData] s (s.teFinish .reg o r d) := by
  rw [State.teFinish_reg s r d hgen]
  exact OnlyRegs.fset (f := F.teCmdStatus_RESULT) (OnlyRegs.fset (f := F.teCmdStatus_BUSY)
    (fun n i j hn => s.teLeft_onlyRegs d n i j fun h => hn (List.mem_cons_of_mem _ h)) 0 0 0 (by decide)) r 0 0 (by decide)

theorem State.teFinish_data (r : Nat) {d : List Byte} (hgen : o.gen = 0) (hd : d ≠ []) :
    (s.teFinish .reg o r d).rd .teData 0 = BitVec.ofNat 32 (leNat (bytesAt d 0 4)) := by
  rw [State.teFinish_reg s r d hgen, rd_fset_reg _ _ _ _ _ _ (by decide), rd_fset_reg _ _ _ _ _ _ (by decide), State.teLeft_data s hd]

end

section
variable {s : State} {o : TeOp}

/-- The only waiting operation is the command register's: it has the engine's slot. -/
theorem RegOp.turn (h : RegOp s o) (hhold : s.teHolds o = false) (h5 : o.op ≠ 5) (h6 : o.op ≠ 6) : s.teTurn (.src 0) = true := by
  obtain ⟨hops, _, hslot⟩ := h
  have hrr : s.rrNext = some 0 := by
    unfold State.rrNext
    rw [hops]
    simp [headsOf, hhold, h5, h6, srcCode]
  unfold State.teTurn
  rw [hslot]
  simp [hrr]

/-- The command register's operation runs (R213, R214). -/
theorem RegOp.apply (h : RegOp s o) (hhold : s.teHolds o = false) (h5 : o.op ≠ 5) (h6 : o.op ≠ 6) : s.teApply .reg o.op =
    (((s.slotTaken (.src 0)).teDo o).2.2.teStaged o ((s.slotTaken (.src 0)).teDo o).1).teFinish .reg o ((s.slotTaken (.src 0)).teDo o).1
      ((s.slotTaken (.src 0)).teDo o).2.1 := by
  have hhead : s.teHead .reg = some o := by
    unfold State.teHead
    rw [h.1]
    rfl
  unfold State.teApply
  rw [hhead]
  dsimp only
  rw [if_neg (by rw [hhold]; simp [h.turn hhold h5 h6, srcCode])]
  rfl

theorem State.mcRun_of_empty (h : s.te.ops = []) : s.mcRun = s := by
  unfold State.mcRun State.teHead
  rw [h]
  rfl

/-- An immediate operation of the command register, from what `teDo` gives in its slot. -/
theorem RegOp.run {r : Nat} {d : List Byte} {u : State} (h : RegOp s o) (hst : o.stage = false) (h5 : o.op ≠ 5) (h6 : o.op ≠ 6)
    (hdo : (s.slotTaken (.src 0)).teDo o = (r, d, u)) (hops : u.te.ops = s.te.ops) : (s.teApply .reg o.op).mcRun = u.teFinish .reg o r d := by
  have hhold : s.teHolds o = false := by simp [State.teHolds, hst, h5, h6]
  have hempty : (u.teFinish .reg o r d).te.ops = [] := by
    rw [State.teFinish_te r d h.2.1]
    show dropFirst u.te.ops .reg = []
    rw [hops, h.1]
    rfl
  rw [h.apply hhold h5 h6, hdo]
  dsimp only
  rw [State.teStaged, if_neg (by rw [hst]; simp), State.mcRun_of_empty hempty]

end

/-! ## Exact-match tables -/

/-- The registers that place exact-match keys are the same. -/
def SameEmRegs (s t : State) : Prop := (∀ i j, t.rd .tblCfg0 i j = s.rd .tblCfg0 i j) ∧ ∀ i j, t.rd .emSeed i j = s.rd .emSeed i j

theorem OnlyRegs.sameEmRegs {l : List RName} {s t : State} (h : OnlyRegs l s t) (h0 : .tblCfg0 ∉ l) (h1 : .emSeed ∉ l) : SameEmRegs s t :=
  ⟨fun i j => h _ i j h0, fun i j => h _ i j h1⟩

section
variable {s t : State}

theorem State.emRange_congr (h : SameEmRegs s t) (k : Nat) : t.emRange k = s.emRange k := by
  unfold State.emRange
  rw [fget_of_rd F.tblCfg0_BASE (h.1 k 0), fget_of_rd F.tblCfg0_SIZE (h.1 k 0)]

theorem State.emWidth_congr (h : SameEmRegs s t) (k : Nat) : t.emWidth k = s.emWidth k := by
  unfold State.emWidth
  rw [fget_of_rd F.tblCfg0_WIDTH (h.1 k 0)]

theorem State.emKeyLen_congr (h : SameEmRegs s t) (k : Nat) : t.emKeyLen k = s.emKeyLen k := by
  unfold State.emKeyLen
  rw [State.emWidth_congr h, fget_of_rd F.tblCfg0_KEY_LEN (h.1 k 0)]

theorem State.emCands_congr (h : SameEmRegs s t) (k : Nat) (key : List Byte) : t.emCands k key = s.emCands k key := by
  unfold State.emCands State.emBucket
  rw [State.emWidth_congr h, State.emRange_congr h, h.2 0 0]

theorem State.mem_emCopies {k : Nat} {key : List Byte} {i : Nat} {e : EmEntry} :
    (i, e) ∈ s.emCopies k key ↔ i ∈ s.emCands k key ∧ s.emAt i = some e ∧ e.part = k ∧ e.key = key := by
  unfold State.emCopies
  rw [List.mem_filterMap]
  constructor
  · rintro ⟨j, hj, hs⟩
    split at hs
    · next f hf =>
      split at hs
      · next hfk =>
        obtain ⟨rfl, rfl⟩ := Prod.mk.inj (Option.some.inj hs)
        exact ⟨hj, hf, hfk⟩
      · cases hs
    · cases hs
  · rintro ⟨hi, he, hfk⟩
    refine ⟨i, hi, ?_⟩
    rw [he]
    exact if_pos hfk

theorem State.emCopies_congr (h : SameEmRegs s t) (hem : t.te.em = s.te.em) (k : Nat) (key : List Byte) : t.emCopies k key = s.emCopies k key := by
  unfold State.emCopies State.emAt
  rw [State.emCands_congr h, hem]

/-- What a LOOKUP of an exact-match table finds, where each place with the key answers alike. -/
theorem State.tblLookup_em {k : Nat} {key act : List Byte} (ti par : Nat) (hk : k < 8) (hrange : (s.emRange k).2 ≠ 0)
    (hkey : key.length = s.emKeyLen k) (hne : s.emCopies k key ≠ [])
    (hall : ∀ i e, (i, e) ∈ s.emCopies k key → e.action = act ∧ e.p0 = true ∧ e.p1 = true) :
    (s.tblLookup ti par (0x10 + k) key).map (fun x => x.1) = some act := by
  unfold State.tblLookup
  rw [if_pos (by omega), Nat.add_sub_cancel_left]
  dsimp only
  rw [if_neg hrange, State.emKey, bytesAt_self hkey]
  cases hc : s.emCopies k key with
  | nil => exact absurd hc hne
  | cons c r =>
    obtain ⟨hact, h0, h1⟩ := hall c.1 c.2 (by rw [hc]; exact List.mem_cons_self)
    have hp : pbit c.2.p0 c.2.p1 par = true := by
      rw [pbit, h0, h1, ite_self]
    rw [List.find?_cons_of_pos (p := fun e : Nat × EmEntry => pbit e.2.p0 e.2.p1 par) hp, Option.map_some, Option.map_some, hact]

theorem State.tblLookup_em_none {k : Nat} {key : List Byte} (ti par : Nat) (hk : k < 8)
    (hkey : key.length = s.emKeyLen k) (hnil : s.emCopies k key = []) : s.tblLookup ti par (0x10 + k) key = none := by
  unfold State.tblLookup
  rw [if_pos (by omega), Nat.add_sub_cancel_left]
  dsimp only
  rw [State.emKey, bytesAt_self hkey, hnil]
  exact ite_self _

theorem State.emPut_emAt (i : Nat) (e : Option EmEntry) : (s.emPut i e).emAt i = e := tget_tset_same _ _ _ _

theorem State.emPut_emAt_ne {i j : Nat} (e : Option EmEntry) (h : j ≠ i) : (s.emPut i e).emAt j = s.emAt j := tget_tset_ne _ _ _ _ h

/-! ### One operation -/

/-- The entry that an INSERT makes (R201, R221). -/
def State.emEntry (s : State) (o : TeOp) (k : Nat) : EmEntry :=
  { part := k, p0 := newP o.stage s.next 0, p1 := newP o.stage s.next 1, learned := o.learned, static := o.static, lport := o.lport, key := bytesAt o.data 0 (s.emKeyLen k), action := bytesAt o.data (s.emKeyLen k) (s.emAct k), stamps := s.newStamps }

/-- The copies of a key as the version rule sees them. -/
def copyBits (l : List (Nat × EmEntry)) : List (Nat × Bool × Bool) := l.map (fun e => (e.1, e.2.p0, e.2.p1))

section
variable {o : TeOp} {k : Nat}

theorem State.emOp_same {r : Nat} (htid : o.tid = 0x10 + k)
    (hv : (verAct o.op o.stage s.next (copyBits (s.emCopies k (bytesAt o.data 0 (s.emKeyLen k)))) = .exist ∧ r = 1) ∨
      (verAct o.op o.stage s.next (copyBits (s.emCopies k (bytesAt o.data 0 (s.emKeyLen k)))) = .missing ∧ r = 2) ∨
      (verAct o.op o.stage s.next (copyBits (s.emCopies k (bytesAt o.data 0 (s.emKeyLen k)))) = .conflict ∧ r = 5)) :
    s.emOp o = (r, s) := by
  unfold State.emOp
  rw [htid, Nat.add_sub_cancel_left]
  dsimp only
  obtain ⟨hv, rfl⟩ | ⟨hv, rfl⟩ | ⟨hv, rfl⟩ := hv <;>
  · rw [copyBits] at hv
    rw [hv]

theorem State.emOp_fresh {i : Nat} (htid : o.tid = 0x10 + k)
    (hv : verAct o.op o.stage s.next (copyBits (s.emCopies k (bytesAt o.data 0 (s.emKeyLen k)))) = .fresh)
    (hfree : s.emFree k (bytesAt o.data 0 (s.emKeyLen k)) = some i) : s.emOp o = (0, s.emPut i (some (s.emEntry o k))) := by
  unfold State.emOp
  rw [htid, Nat.add_sub_cancel_left]
  dsimp only
  rw [copyBits] at hv
  rw [hv]
  dsimp only
  rw [State.emPlace, hfree]
  rfl

theorem State.emOp_rewrite {i : Nat} {e : EmEntry} (htid : o.tid = 0x10 + k)
    (hv : verAct o.op o.stage s.next (copyBits (s.emCopies k (bytesAt o.data 0 (s.emKeyLen k)))) = .rewrite i) (he : s.emAt i = some e) :
    s.emOp o = (0, s.emPut i (some { e with action := bytesAt o.data (s.emKeyLen k) (s.emAct k) })) := by
  unfold State.emOp
  rw [htid, Nat.add_sub_cancel_left]
  dsimp only
  rw [copyBits] at hv
  rw [hv]
  dsimp only
  rw [he]

theorem State.emOp_free {i : Nat} (htid : o.tid = 0x10 + k)
    (hv : verAct o.op o.stage s.next (copyBits (s.emCopies k (bytesAt o.data 0 (s.emKeyLen k)))) = .free i) :
    s.emOp o = (0, s.emPut i none) := by
  unfold State.emOp
  rw [htid, Nat.add_sub_cancel_left]
  dsimp only
  rw [copyBits] at hv
  rw [hv]

theorem tidKind_em (hk : k < 8) (htid : o.tid = 0x10 + k) : tidKind o.tid = 1 := by
  unfold tidKind
  rw [htid, if_pos (by omega)]

theorem State.teDo_em (hk : k < 8) (htid : o.tid = 0x10 + k) (hden : s.teDenied o.tid = false) (h4 : o.op ≠ 4) (h9 : o.op ≠ 9) :
    s.teDo o = ((s.emOp o).1, [], (s.emOp o).2) := by
  unfold State.teDo
  dsimp only
  rw [if_neg (by rw [hden]; decide), if_neg h4, tidKind_em hk htid]
  exact if_neg h9

theorem State.teDo_flush (hk : k < 8) (htid : o.tid = 0x10 + k) (hden : s.teDenied o.tid = false) (h9 : o.op = 9) :
    s.teDo o = ((s.emFlush k o.index).1, [], (s.emFlush k o.index).2) := by
  unfold State.teDo
  dsimp only
  rw [if_neg (by rw [hden]; decide), if_neg (by omega), tidKind_em hk htid, htid, Nat.add_sub_cancel_left]
  exact if_pos h9

theorem State.teDo_read (hden : s.teDenied o.tid = false) (h4 : o.op = 4) : s.teDo o = ((s.teRead o).1, (s.teRead o).2, s) := by
  unfold State.teDo
  dsimp only
  rw [if_neg (by rw [hden]; decide), if_pos h4]

theorem State.teDenied_em (hk : k < 8) (htid : o.tid = 0x10 + k) (hden : s.teDenied o.tid = false) : (s.emRange k).2 ≠ 0 := by
  unfold State.teDenied at hden
  dsimp only at hden
  rw [tidKind_em hk htid, htid, Nat.add_sub_cancel_left] at hden
  simpa using (Bool.or_eq_false_iff.1 hden).1

end

/-! ### The slot that an operation takes changes no table -/

theorem State.slotTaken_sameEmRegs (x : TeSlot) : SameEmRegs s (s.slotTaken x) := ⟨fun _ _ => rfl, fun _ _ => rfl⟩

theorem State.slotTaken_emCopies (x : TeSlot) (k : Nat) (key : List Byte) : (s.slotTaken x).emCopies k key = s.emCopies k key :=
  State.emCopies_congr (s.slotTaken_sameEmRegs x) rfl k key

theorem State.slotTaken_emKeyLen (x : TeSlot) (k : Nat) : (s.slotTaken x).emKeyLen k = s.emKeyLen k :=
  State.emKeyLen_congr (s.slotTaken_sameEmRegs x) k

theorem State.slotTaken_emAct (x : TeSlot) (k : Nat) : (s.slotTaken x).emAct k = s.emAct k := rfl

theorem State.slotTaken_emFree (x : TeSlot) (k : Nat) (key : List Byte) : (s.slotTaken x).emFree k key = s.emFree k key := by
  unfold State.emFree
  rw [State.emCands_congr (s.slotTaken_sameEmRegs x)]
  rfl

theorem State.slotTaken_teDenied (x : TeSlot) (tid : Nat) : (s.slotTaken x).teDenied tid = s.teDenied tid := rfl

/-- An immediate operation on an exact-match key, from what `emOp` gives. -/
theorem RegOp.emRun {o : TeOp} {k r : Nat} {v : State} (h : RegOp s o) (hst : o.stage = false) (hk : k < 8) (htid : o.tid = 0x10 + k)
    (hden : s.teDenied o.tid = false) (hop : o.op = 1 ∨ o.op = 2 ∨ o.op = 3) (hem : (s.slotTaken (.src 0)).emOp o = (r, v))
    (hops : v.te.ops = s.te.ops) (hregs : v.r32 = s.r32) (hr : r < 16) :
    (s.teApply .reg o.op).mcRun.flag F.teCmdStatus_BUSY = false ∧ (s.teApply .reg o.op).mcRun.fget F.teCmdStatus_RESULT = r ∧
    (s.teApply .reg o.op).mcRun.te.em = v.te.em ∧ SameEmRegs s (s.teApply .reg o.op).mcRun ∧ (s.teApply .reg o.op).mcRun.te.ops = [] := by
  have hdo : (s.slotTaken (.src 0)).teDo o = (r, [], v) := by
    rw [State.teDo_em (s := s.slotTaken (.src 0)) hk htid hden (by omega) (by omega), hem]
  rw [h.run hst (by omega) (by omega) hdo hops]
  obtain ⟨hbusy, hres⟩ := State.teFinish_status (s := v) [] h.2.1 hr
  have hregs' : OnlyRegs [.teCmdStatus, .teData] s (v.teFinish .reg o r []) := fun n i j hn =>
    (State.teFinish_onlyRegs (s := v) r [] h.2.1 n i j hn).trans (rd_of_r32 hregs n i j)
  refine ⟨hbusy, hres, ?_, hregs'.sameEmRegs (by decide) (by decide), ?_⟩
  · rw [State.teFinish_te r [] h.2.1]
  · rw [State.teFinish_te r [] h.2.1]
    show dropFirst v.te.ops .reg = []
    rw [hops, h.1]
    rfl

/-! ### The version rule, immediate (R222) -/

theorem copyBits_mixed (l : List (Nat × EmEntry)) : (copyBits l).any (fun c => c.2.1 != c.2.2) = l.any (fun c => c.2.p0 != c.2.p1) := by
  rw [copyBits, List.any_map]
  rfl

theorem verAct_mixed {op nx : Nat} {l : List (Nat × EmEntry)} (h : l.any (fun c => c.2.p0 != c.2.p1) = true) :
    verAct op false nx (copyBits l) = .conflict := by
  rw [verAct.eq_def, if_neg (by decide), copyBits_mixed, if_pos h]

theorem verAct_none {op nx : Nat} : verAct op false nx (copyBits []) = if op = 1 then .fresh else .missing := by
  rw [verAct.eq_def, if_neg (by decide), copyBits_mixed, if_neg (by decide)]
  match op with
  | 0 => rfl
  | 1 => rfl
  | 2 => rfl
  | n + 3 => rfl

theorem verAct_some {op nx : Nat} {c : Nat × EmEntry} {l : List (Nat × EmEntry)} (h : (c :: l).any (fun c => c.2.p0 != c.2.p1) = false) :
    verAct op false nx (copyBits (c :: l)) = if op = 1 then .exist else if op = 2 then .rewrite c.1 else .free c.1 := by
  rw [verAct.eq_def, if_neg (by decide), copyBits_mixed, if_neg (by rw [h]; decide)]
  match op with
  | 0 => rfl
  | 1 => rfl
  | 2 => rfl
  | n + 3 => rfl

end

/-! ### FLUSH and READ -/

/-- The learned entries of a partition that a FLUSH names (R213). -/
def flushHit (k index : Nat) (e : EmEntry) : Bool := decide (e.part = k) && e.learned && (bitAt index 31 || decide (e.lport = index % 512))

theorem flushHit_iff {k index : Nat} {e : EmEntry} : flushHit k index e = true ↔
    e.part = k ∧ e.learned = true ∧ (bitAt index 31 = true ∨ e.lport = index % 512) := by
  simp [flushHit, and_assoc]

theorem State.emFlush_em {s : State} {k index i : Nat} {e : EmEntry} :
    (i, some e) ∈ (s.emFlush k index).2.te.em ↔ (i, some e) ∈ s.te.em ∧ ¬(flushHit k index e = true ∧ e.p0 = e.p1) := by
  show (i, some e) ∈ s.te.em.filter (fun x => match x.2 with
    | some e => !(flushHit k index e && (e.p0 == e.p1))
    | none => true) ↔ _
  rw [List.mem_filter]
  refine and_congr_right fun _ => ?_
  show (!(flushHit k index e && (e.p0 == e.p1))) = true ↔ _
  rw [Bool.not_eq_true', ← Bool.not_eq_true, Bool.and_eq_true, beq_iff_eq]

/-- FLUSH passes over an entry whose copies differ, and tells so (R213, R222). -/
theorem State.emFlush_left {s : State} {k index : Nat} : s.te.em.any (fun x => match x.2 with
    | some e => flushHit k index e && (e.p0 != e.p1)
    | none => false) = true ↔ ∃ i e, (i, some e) ∈ s.te.em ∧ flushHit k index e = true ∧ e.p0 ≠ e.p1 := by
  rw [List.any_eq_true]
  constructor
  · rintro ⟨⟨i, x⟩, hmem, hx⟩
    cases x with
    | none => cases hx
    | some e => exact ⟨i, e, hmem, by simpa using hx⟩
  · rintro ⟨i, e, hmem, hx⟩
    exact ⟨(i, some e), hmem, by simpa using hx⟩

theorem State.emFlush_result {s : State} {k index : Nat} : ((s.emFlush k index).1 = 0 ∨ (s.emFlush k index).1 = 5) ∧
    ((s.emFlush k index).1 = 5 ↔ ∃ i e, (i, some e) ∈ s.te.em ∧ flushHit k index e = true ∧ e.p0 ≠ e.p1) := by
  have hres : (s.emFlush k index).1 = if (s.te.em.any (fun x => match x.2 with
    | some e => flushHit k index e && (e.p0 != e.p1)
    | none => false)) = true then 5 else 0 := rfl
  rw [hres, ← State.emFlush_left]
  split
  · next h => exact ⟨Or.inr rfl, fun _ => h, fun _ => rfl⟩
  · next h => exact ⟨Or.inl rfl, (fun h0 => nomatch h0), fun h' => absurd h' h⟩

theorem State.emRead_found {s : State} {o : TeOp} {k i : Nat} {e : EmEntry} (hk : k < 8) (htid : o.tid = 0x10 + k)
    (hc : s.emCopies k (bytesAt o.data 0 (s.emKeyLen k)) = [(i, e)]) (hp : pbit e.p0 e.p1 o.par = true) (hbad : s.badWord o.tid i = false) :
    ∃ r, s.teRead o =
      (0, leBytes 4 (b2n e.p0 + b2n e.p1 * 2 + b2n e.learned * 4 + b2n e.static * 8 + e.lport * 32 + o.tid * 2 ^ 24) ++ r) := by
  unfold State.teRead
  dsimp only
  rw [if_pos (by omega), show o.tid - 0x10 = k by omega, hc, List.find?_cons_of_pos (p := fun e : Nat × EmEntry => pbit e.2.p0 e.2.p1 o.par) hp]
  dsimp only
  rw [hbad, if_neg (by decide), List.append_assoc]
  exact ⟨_, rfl⟩

/-- Settles O20: each operation by the copies that the key has. -/
theorem exactMatchOperations : Obligations.ExactMatchOperations := by
  intro s o k key act h htid hst hden hkey hact
  have hk := k.isLt
  have hlen : key.length = s.emKeyLen k := by rw [hkey, bytesAt_length]
  have hrange := State.teDenied_em hk htid hden
  set u := s.slotTaken (.src 0) with hu
  have hucopies : u.emCopies k (bytesAt o.data 0 (u.emKeyLen k)) = s.emCopies k key := by
    rw [hu, State.slotTaken_emCopies, State.slotTaken_emKeyLen, hkey]
  have hrun {n r : Nat} {v : State} (hop : o.op = n) (hn : n = 1 ∨ n = 2 ∨ n = 3) (hem : u.emOp o = (r, v))
      (hops : v.te.ops = s.te.ops) (hregs : v.r32 = s.r32) (hr : r < 16) := h.emRun hst hk htid hden (by rw [hop]; exact hn) hem hops hregs hr
  have hsame {n r : Nat} (hop : o.op = n) (hn : n = 1 ∨ n = 2 ∨ n = 3) (hem : u.emOp o = (r, u)) (hr : r < 16) := hrun hop hn hem rfl rfl hr
  have hva {w : VAct} (hv : verAct o.op false u.next (copyBits (s.emCopies k key)) = w) :
      verAct o.op o.stage u.next (copyBits (u.emCopies k (bytesAt o.data 0 (u.emKeyLen k)))) = w := by rw [hucopies, hst, hv]
  have hput {n i : Nat} {x : Option EmEntry} (hop : o.op = n) (hn : n = 1 ∨ n = 2 ∨ n = 3) (hem : u.emOp o = (0, u.emPut i x)) :=
    hrun hop hn hem rfl rfl (by decide)
  have hmem {t : State} {i : Nat} {x : Option EmEntry} (hte : t.te.em = (u.emPut i x).te.em) (hr : SameEmRegs s t) {j : Nat} {e : EmEntry}
      (hj : (j, e) ∈ t.emCopies k key) : (j = i ∧ x = some e) ∨ (j ≠ i ∧ (j, e) ∈ s.emCopies k key) := by
    obtain ⟨hcand, hat, hfk⟩ := State.mem_emCopies.1 hj
    rw [State.emCands_congr hr] at hcand
    have hat' : (u.emPut i x).emAt j = some e := by rw [State.emAt, ← hte]; exact hat
    by_cases hji : j = i
    · subst hji
      exact Or.inl ⟨rfl, (State.emPut_emAt j x).symm.trans hat'⟩
    · rw [State.emPut_emAt_ne x hji] at hat'
      exact Or.inr ⟨hji, State.mem_emCopies.2 ⟨hcand, hat', hfk⟩⟩
  have hkept {t : State} {i : Nat} {x : Option EmEntry} (hte : t.te.em = (u.emPut i x).te.em) (j : Nat) (hj : j ≠ i) : t.emAt j = s.emAt j := by
    rw [State.emAt, hte]
    exact State.emPut_emAt_ne x hj
  refine ⟨fun i hop hnil hfree => ?_, fun x r hop hc hmix => ?_, fun i e hop hc h0 h1 => ?_, fun i e hop hc hpp => ?_, ?_,
    fun hop hnil => ?_, fun hop hmix => ?_, fun i e hop hc hp hbad => ?_⟩
  · have hem := State.emOp_fresh (s := u) (i := i) htid (hva (by rw [hnil, verAct_none, if_pos hop])) (by
      rw [hu, State.slotTaken_emFree, State.slotTaken_emKeyLen, ← hkey, hfree])
    obtain ⟨hbusy, hres, hte, hr, hops⟩ := hput hop (by decide) hem
    rw [hop] at hbusy hres hte hr hops
    have hcand : i ∈ s.emCands k key := List.mem_of_find?_eq_some hfree
    set t := (s.teApply .reg 1).mcRun with ht
    have hent : (i, u.emEntry o k) ∈ t.emCopies k key := State.mem_emCopies.2 ⟨by rwa [State.emCands_congr hr], by
      rw [State.emAt, hte]
      exact State.emPut_emAt i _, rfl, hkey.symm⟩
    refine ⟨t, rfl, hbusy, hres, hkept hte, fun ti par => ?_, hops⟩
    rw [htid]
    refine State.tblLookup_em ti par hk (by rwa [State.emRange_congr hr]) (by rwa [State.emKeyLen_congr hr]) (List.ne_nil_of_mem hent) fun j e hj => ?_
    obtain ⟨_, hx⟩ | ⟨_, hj⟩ := hmem hte hr hj
    · cases hx
      have hp (par : Nat) : newP o.stage u.next par = true := by rw [newP, hst, Bool.not_false, Bool.true_or]
      exact ⟨hact.symm, hp 0, hp 1⟩
    · rw [hnil] at hj
      cases hj
  · have hem := State.emOp_same (s := u) htid (Or.inl ⟨hva (by rw [hc, verAct_some hmix, if_pos hop]), rfl⟩)
    obtain ⟨hbusy, hres, hte, _⟩ := hsame hop (by decide) hem (by decide)
    rw [hop] at hbusy hres hte
    exact ⟨_, rfl, hbusy, hres, hte⟩
  · obtain ⟨hcand, hat, hpart, hek⟩ := State.mem_emCopies.1 (show (i, e) ∈ s.emCopies k key by rw [hc]; exact List.mem_singleton_self _)
    have hem := State.emOp_rewrite (s := u) (e := e) htid (hva (by
      rw [hc, verAct_some (by simp [h0, h1]), if_neg (by omega), if_pos hop])) hat
    obtain ⟨hbusy, hres, hte, hr, _⟩ := hput hop (by decide) hem
    rw [hop] at hbusy hres hte hr
    set t := (s.teApply .reg 2).mcRun with ht
    have hent : (i, { e with action := bytesAt o.data (u.emKeyLen k) (u.emAct k) }) ∈ t.emCopies k key :=
      State.mem_emCopies.2 ⟨by rwa [State.emCands_congr hr], by
        rw [State.emAt, hte]
        exact State.emPut_emAt i _, hpart, hek⟩
    refine ⟨t, rfl, hbusy, hres, hkept hte, fun ti par => ?_⟩
    rw [htid]
    refine State.tblLookup_em ti par hk (by rwa [State.emRange_congr hr]) (by rwa [State.emKeyLen_congr hr]) (List.ne_nil_of_mem hent) fun j f hj => ?_
    obtain ⟨_, hx⟩ | ⟨hji, hj⟩ := hmem hte hr hj
    · cases hx
      exact ⟨hact.symm, h0, h1⟩
    · rw [hc] at hj
      cases List.mem_singleton.1 hj
      exact absurd rfl hji
  · have hem := State.emOp_free (s := u) (i := i) htid (hva (by
      rw [hc, verAct_some (by simp [hpp]), if_neg (by omega), if_neg (by omega)]))
    obtain ⟨hbusy, hres, hte, hr, _⟩ := hput hop (by decide) hem
    rw [hop] at hbusy hres hte hr
    set t := (s.teApply .reg 3).mcRun with ht
    refine ⟨t, rfl, hbusy, hres, hkept hte, fun ti par => ?_⟩
    rw [htid]
    refine State.tblLookup_em_none ti par hk (by rwa [State.emKeyLen_congr hr]) (List.eq_nil_iff_forall_not_mem.2 fun x hj => ?_)
    obtain ⟨_, hx⟩ | ⟨hji, hj⟩ := hmem hte hr (j := x.1) (e := x.2) hj
    · cases hx
    · rw [hc] at hj
      exact hji (congrArg Prod.fst (List.mem_singleton.1 hj))
  · intro hit hop
    have hdo := State.teDo_flush (s := u) hk htid hden hop
    have hgo := h.run (d := []) hst (by omega) (by omega) hdo rfl
    rw [hop] at hgo
    obtain ⟨h05, h5⟩ := State.emFlush_result (s := u) (k := k) (index := o.index)
    obtain ⟨hbusy, hres⟩ := State.teFinish_status (s := (u.emFlush k o.index).2) (r := (u.emFlush k o.index).1) [] h.2.1 (by omega)
    have hte := State.teFinish_te (s := (u.emFlush k o.index).2) (u.emFlush k o.index).1 [] h.2.1
    refine ⟨_, congrArg Host.Outcome.next hgo, hbusy, ?_, fun i e => ?_, ?_, ?_⟩
    · rw [hte]
      show dropFirst s.te.ops .reg = []
      rw [h.1]
      rfl
    · rw [hte]
      exact State.emFlush_em.trans (and_congr_right fun _ => not_congr (and_congr_left fun _ => flushHit_iff))
    · rw [hres]
      exact h05
    · rw [hres, h5]
      exact exists_congr fun i => exists_congr fun e => and_congr_right fun _ => and_congr_left fun _ => flushHit_iff
  · have hem := State.emOp_same (s := u) htid (Or.inr (Or.inl ⟨hva (by
      rw [hnil, verAct_none, if_neg (by omega)]), rfl⟩))
    obtain hop2 | hop3 := hop
    · obtain ⟨_, hres, hte, _⟩ := hsame hop2 (by decide) hem (by decide)
      rw [hop2] at hres hte
      exact ⟨_, if_pos hop2, hres, hte⟩
    · obtain ⟨_, hres, hte, _⟩ := hsame hop3 (by decide) hem (by decide)
      rw [hop3] at hres hte
      exact ⟨_, if_neg (by omega), hres, hte⟩
  · have hem := State.emOp_same (s := u) htid (Or.inr (Or.inr ⟨hva (verAct_mixed hmix), rfl⟩))
    obtain hop1 | hop2 | hop3 := hop
    · obtain ⟨_, hres, hte, _⟩ := hsame hop1 (by decide) hem (by decide)
      rw [hop1] at hres hte
      exact ⟨_, if_pos hop1, hres, hte⟩
    · obtain ⟨_, hres, hte, _⟩ := hsame hop2 (by decide) hem (by decide)
      rw [hop2] at hres hte
      exact ⟨_, (if_neg (by omega)).trans (if_pos hop2), hres, hte⟩
    · obtain ⟨_, hres, hte, _⟩ := hsame hop3 (by decide) hem (by decide)
      rw [hop3] at hres hte
      exact ⟨_, (if_neg (by omega)).trans (if_neg (by omega)), hres, hte⟩
  · obtain ⟨d, hread⟩ := State.emRead_found (s := u) hk htid (hucopies.trans hc) hp hbad
    have hdo := State.teDo_read (s := u) hden hop
    rw [hread] at hdo
    have hgo := h.run hst (by omega) (by omega) hdo rfl
    rw [hop] at hgo
    obtain ⟨hbusy, hres⟩ := State.teFinish_status (s := u) (r := 0)
      (leBytes 4 (b2n e.p0 + b2n e.p1 * 2 + b2n e.learned * 4 + b2n e.static * 8 + e.lport * 32 + o.tid * 2 ^ 24) ++ d) h.2.1 (by decide)
    refine ⟨_, congrArg Host.Outcome.next hgo, hbusy, hres, ?_, ?_⟩
    · rw [State.teFinish_te 0 _ h.2.1]
      rfl
    · rw [State.teFinish_data 0 h.2.1 (by simp [leBytes]), bytesAt_append _ (leBytes_length _ _), leNat_leBytes]
      exact BitVec.eq_of_toNat_eq (by rw [BitVec.toNat_ofNat, BitVec.toNat_ofNat]; exact Nat.mod_mod _ _)

end Sys2Proof.Machine
end

section
/-!
PROOF. ECMP groups and members (R210, R221, R228), the symmetric hash (R123, R124), and what SELECT and an LPM lookup choose (R126, R127, R207).
-/

set_option Elab.async false

namespace Sys2Proof.Machine

/-! ## The symmetric hash -/

theorem leNat_inj {a b : List Byte} (hl : a.length = b.length) (h : leNat a = leNat b) : a = b := by
  induction a generalizing b with
  | nil => exact (List.length_eq_zero_iff.1 hl.symm).symm
  | cons x r ih =>
    cases b with
    | nil => cases hl
    | cons y q =>
      rw [leNat, leNat] at h
      have hx := x.isLt
      have hy := y.isLt
      rw [BitVec.eq_of_toNat_eq (show x.toNat = y.toNat by omega), ih (Nat.succ.inj hl) (by omega)]

theorem beNat_inj {a b : List Byte} (hl : a.length = b.length) (h : beNat a = beNat b) : a = b :=
  List.reverse_injective (leNat_inj (by simpa using hl) h)

/-- Two byte strings of one length come in one order (R124). -/
theorem ordered_comm {a b : List Byte} (hl : a.length = b.length) : ordered a b = ordered b a := by
  unfold ordered
  by_cases h : beNat a = beNat b
  · rw [beNat_inj hl h]
  · split
    · rw [if_neg (by omega)]
    · rw [if_pos (by omega)]

/-- The two addresses of a frame have one length. -/
theorem keyFields_length (win : List Byte) (hdr flags : Nat) (offs : List Nat) (info : ParseInfo) (inner : Bool) :
    (keyFields win hdr flags offs info inner).src.length = (keyFields win hdr flags offs info inner).dst.length := by
  unfold keyFields
  dsimp only
  generalize nth info.first (if inner then 5 else 1) 0 = kind
  by_cases h4 : kind = 4 ∨ kind = 19
  · rw [if_pos h4]
    simp only [bytesAt_length]
  · rw [if_neg h4]
    by_cases h6 : kind = 5 ∨ kind = 20
    · rw [if_pos h6]
      simp only [bytesAt_length]
    · rw [if_neg h6]
      generalize (if inner = true then nth offs 4 255 else 0) = l2
      by_cases h2 : l2 = 255
      · rw [if_pos h2]
      · rw [if_neg h2]
        simp only [bytesAt_length]

theorem symmetricHash : Claims.SymmetricHash := by
  intro s ti p q win win2 w w2 hsym hinner hvid h
  obtain ⟨hkind, hproto, hetype, hsrc, hdst, hsport, hdport⟩ := h
  unfold State.hashKey
  dsimp only
  rw [hsym, hinner, hvid, Bool.false_and, Bool.false_and]
  simp only [if_true, Bool.not_true, Bool.and_false, true_and]
  rw [hkind, hproto, hetype, hsrc, hdst, hsport, hdport, ordered_comm (keyFields_length win2 w2.hdr w2.flags w2.offs w2.info false).symm]
  set a := keyFields win2 w2.hdr w2.flags w2.offs w2.info false
  have hports : (if a.sport < a.dport then (a.sport, a.dport) else (a.dport, a.sport)) =
      if a.dport < a.sport then (a.dport, a.sport) else (a.sport, a.dport) := by
    by_cases h : a.sport = a.dport
    · rw [h]
    · split
      · rw [if_neg (by omega)]
      · rw [if_pos (by omega)]
  rw [hports]
  rfl

/-! ## Longest match -/

/-- The entry that a lookup keeps so far. -/
def longer (best : Option LpmEntry) (e : LpmEntry) : Option LpmEntry :=
  match best with
  | none => some e
  | some b => if b.len < e.len then some e else some b

theorem foldl_longer (l : List LpmEntry) (b : LpmEntry) : ∃ e, l.foldl longer (some b) = some e ∧ (e = b ∨ e ∈ l) ∧ b.len ≤ e.len ∧
    ∀ f ∈ l, f.len ≤ e.len := by
  induction l generalizing b with
  | nil => exact ⟨b, rfl, Or.inl rfl, le_rfl, fun f hf => nomatch hf⟩
  | cons a r ih =>
    have hstep : (a :: r).foldl longer (some b) = r.foldl longer (if b.len < a.len then some a else some b) := rfl
    rw [hstep]
    by_cases hlt : b.len < a.len
    · rw [if_pos hlt]
      obtain ⟨e, he, hmem, hle, hall⟩ := ih a
      refine ⟨e, he, Or.inr ?_, by omega, fun f hf => ?_⟩
      · obtain rfl | hm := hmem
        · exact List.mem_cons_self
        · exact List.mem_cons_of_mem _ hm
      · obtain rfl | hf := List.mem_cons.1 hf
        · exact hle
        · exact hall f hf
    · rw [if_neg hlt]
      obtain ⟨e, he, hmem, hle, hall⟩ := ih b
      refine ⟨e, he, hmem.imp_right (List.mem_cons_of_mem _), hle, fun f hf => ?_⟩
      obtain rfl | hf := List.mem_cons.1 hf
      · omega
      · exact hall f hf

/-- The prefixes that match a lookup (R207). -/
def State.lpmHits (s : State) (v6 : Bool) (par : Nat) (key : List Byte) : List LpmEntry :=
  s.te.lpm.filter (fun e => decide (e.v6 = v6) &&
    decide (e.vrf = if (if v6 then s.flag F.lpmCfg_VRF6_EN else s.flag F.lpmCfg_VRF4_EN) then beNat (bytesAt key 0 2) % 4096 else 0) &&
    pbit e.p0 e.p1 par &&
    prefixEq e.addr (bytesAt key (if (if v6 then s.flag F.lpmCfg_VRF6_EN else s.flag F.lpmCfg_VRF4_EN) then 2 else 0) (if v6 then 16 else 4)) e.len)

theorem State.lpmFind_eq (s : State) (v6 : Bool) (par : Nat) (key : List Byte) : s.lpmFind v6 par key = (s.lpmHits v6 par key).foldl longer none := rfl

theorem lpmFind_longest {l : List LpmEntry} :
    (∀ e, l.foldl longer none = some e → e ∈ l ∧ ∀ f ∈ l, f.len ≤ e.len) ∧ (l.foldl longer none = none → ∀ f, f ∉ l) := by
  cases l with
  | nil => exact ⟨(fun e he => nomatch he), fun _ f hf => nomatch hf⟩
  | cons a r =>
    obtain ⟨e, he, hmem, hle, hall⟩ := foldl_longer r a
    have hfold : (a :: r).foldl longer none = some e := he
    rw [hfold]
    refine ⟨fun x hx => ?_, fun hx => nomatch hx⟩
    obtain rfl := Option.some.inj hx
    refine ⟨?_, fun f hf => ?_⟩
    · obtain rfl | hm := hmem
      · exact List.mem_cons_self
      · exact List.mem_cons_of_mem _ hm
    · obtain rfl | hf := List.mem_cons.1 hf
      · exact hle
      · exact hall f hf

theorem longestPrefix (s : State) (v6 : Bool) (par : Nat) (key : List Byte) :
    let en := if v6 then s.flag F.lpmCfg_VRF6_EN else s.flag F.lpmCfg_VRF4_EN
    let hit (e : LpmEntry) : Prop := e ∈ s.te.lpm ∧ e.v6 = v6 ∧ e.vrf = (if en then beNat (bytesAt key 0 2) % 4096 else 0) ∧
      pbit e.p0 e.p1 par = true ∧ prefixEq e.addr (bytesAt key (if en then 2 else 0) (if v6 then 16 else 4)) e.len = true
    (∀ e, s.lpmFind v6 par key = some e → hit e ∧ ∀ f, hit f → f.len ≤ e.len) ∧ (s.lpmFind v6 par key = none → ∀ f, ¬hit f) := by
  intro en hit
  have hmem (e : LpmEntry) : e ∈ s.lpmHits v6 par key ↔ hit e := by
    rw [State.lpmHits, List.mem_filter, Bool.and_eq_true, Bool.and_eq_true, Bool.and_eq_true, decide_eq_true_eq, decide_eq_true_eq, and_assoc, and_assoc]
  obtain ⟨hsome, hnone⟩ := lpmFind_longest (l := s.lpmHits v6 par key)
  rw [State.lpmFind_eq]
  refine ⟨fun e he => ?_, fun he f hf => hnone he f ((hmem f).2 hf)⟩
  obtain ⟨hin, hlong⟩ := hsome e he
  exact ⟨(hmem e).1 hin, fun f hf => hlong f ((hmem f).2 hf)⟩

/-! ## SELECT -/

theorem scaled_lt {a n : Nat} (ha : a < 65536) (hn : 0 < n) : a * n / 65536 < n := by
  rw [Nat.div_lt_iff_lt_mul (by decide), Nat.mul_comm]
  exact Nat.mul_lt_mul_of_pos_left ha hn

theorem State.mem_liveMembers {s : State} {base n i : Nat} {track : Bool} :
    i ∈ s.liveMembers base n track ↔ ∃ j, j < n ∧ i = base + j ∧ s.isLive track i = true := by
  simp only [State.liveMembers, List.mem_filter, List.mem_map, List.mem_range]
  constructor
  · rintro ⟨⟨j, hj, rfl⟩, hl⟩
    exact ⟨j, hj, rfl, hl⟩
  · rintro ⟨j, hj, rfl, hl⟩
    exact ⟨⟨j, hj, rfl⟩, hl⟩

/-- The choice among members: the primary one while it is live, else a live one picked by a second hash (R127). -/
def State.pickMember (s : State) (base n S T : Nat) (track : Bool) : Option Nat :=
  if s.isLive track (base + S * n / 65536) then some (base + S * n / 65536)
  else (s.liveMembers base n track)[T * (s.liveMembers base n track).length / 65536]?

theorem State.pickMember_spec {s : State} {base n S T : Nat} {track : Bool} (hn : 0 < n) (hS : S < 65536) (hT : T < 65536) :
    (s.isLive track (base + S * n / 65536) = true → s.pickMember base n S T track = some (base + S * n / 65536)) ∧
    (∀ i, s.pickMember base n S T track = some i → s.isLive track i = true ∧ ∃ j, j < n ∧ i = base + j) ∧
    (s.pickMember base n S T track = none → ∀ j, j < n → ¬s.isLive track (base + j) = true) := by
  unfold State.pickMember
  refine ⟨fun h => if_pos h, fun i hi => ?_, fun hnone j hj hlive => ?_⟩
  · split at hi
    · next hp =>
      obtain rfl := Option.some.inj hi
      exact ⟨hp, _, scaled_lt hS hn, rfl⟩
    · obtain ⟨j, hj, hij, hlive⟩ := State.mem_liveMembers.1 (List.mem_of_getElem? hi)
      exact ⟨hlive, j, hj, hij⟩
  · split at hnone
    · cases hnone
    · have hmem := State.mem_liveMembers.2 ⟨j, hj, rfl, hlive⟩
      have hlt := scaled_lt hT (List.length_pos_of_mem hmem)
      exact absurd (List.getElem?_eq_none_iff.1 hnone) (by omega)

/-- The hashes of a SELECT and the bits of a group that choose between them. -/
def hashOfPrimary (v hashA hashB : Nat) : Nat :=
  match bits v 12 11 with
  | 0 => hashA % 65536
  | 1 => hashA / 65536
  | 2 => hashB
  | _ => hashB ^^^ hashA % 65536

def hashOfBackup (v hashA : Nat) : Nat :=
  match bits v 12 11 with
  | 0 => hashA / 65536
  | 1 => hashA % 65536
  | 2 => hashA % 65536
  | _ => hashA / 65536

theorem hashOfPrimary_lt {hashA hashB : Nat} (v : Nat) (hA : hashA < 2 ^ 32) (hB : hashB < 2 ^ 16) : hashOfPrimary v hashA hashB < 65536 := by
  unfold hashOfPrimary
  split
  · omega
  · omega
  · exact hB
  · exact Nat.xor_lt_two_pow (n := 16) hB (Nat.mod_lt _ (by decide))

theorem hashOfBackup_lt {hashA : Nat} (v : Nat) (hA : hashA < 2 ^ 32) : hashOfBackup v hashA < 65536 := by
  unfold hashOfBackup
  split <;> omega

theorem State.selectIx_eq (s : State) (idx par hashA hashB : Nat) : s.selectIx idx par hashA hashB =
    match grpSlot s.te.groups idx par with
    | none => none
    | some (_, g) => s.pickMember (bits g.toNat 31 14) (bits g.toNat 10 2 + 1) (hashOfPrimary g.toNat hashA hashB) (hashOfBackup g.toNat hashA)
        (bitAt g.toNat 13) := rfl

theorem selectionAndLongestPrefix : Claims.SelectionAndLongestPrefix := by
  refine ⟨fun s idx par hashA hashB i g hA hB hslot => ?_, longestPrefix⟩
  have hselect : s.selectMember idx par hashA hashB = (s.pickMember (bits g.toNat 31 14) (bits g.toNat 10 2 + 1)
      (hashOfPrimary g.toNat hashA hashB) (hashOfBackup g.toNat hashA) (bitAt g.toNat 13)).map (fun i => tget s.te.members i 0) := by
    rw [State.selectMember, State.selectIx_eq, hslot]
  have hS := hashOfPrimary_lt g.toNat hA hB
  obtain ⟨hprim, hsome, hnone⟩ := State.pickMember_spec (s := s) (base := bits g.toNat 31 14) (track := bitAt g.toNat 13)
    (Nat.succ_pos (bits g.toNat 10 2)) hS (hashOfBackup_lt g.toNat hA)
  have hlive (i : Nat) : s.isLive (bitAt g.toNat 13) i = true ↔ (tget s.te.members i 0).getLsbD 9 = true ∧
      (bitAt g.toNat 13 = true → s.isUp ((tget s.te.members i 0).toNat % 512) = true) := by
    unfold State.isLive
    rw [Bool.and_eq_true]
    refine and_congr_right fun _ => ?_
    cases bitAt g.toNat 13 <;> simp
  dsimp only
  rw [hselect]
  refine ⟨scaled_lt hS (Nat.succ_pos _), fun hl => ?_, fun x hx => ?_, fun hno j hj hl => ?_⟩
  · rw [hprim ((hlive _).2 hl)]
    rfl
  · obtain ⟨i, hi, rfl⟩ := Option.map_eq_some_iff.1 hx
    obtain ⟨hl, j, hj, rfl⟩ := hsome i hi
    exact ⟨(hlive _).1 hl, j, hj, rfl⟩
  · exact hnone (Option.map_eq_none_iff.1 hno) j hj ((hlive _).2 hl)

/-! ## Groups under versions -/

/-- What a group word shows to a SELECT under a parity: nothing, or the bits above its presence bits. -/
def wordShown (w : BitVec 64) (c : Nat) : Option Nat := if grpBit w c then some (w.toNat >>> 2) else none

/-- What a group slot shows to a SELECT under a parity. -/
def slotShown (tab : Tab (BitVec 64)) (c k : Nat) : Option Nat := wordShown (tget tab k 0) c

theorem grpSlot_shown (tab : Tab (BitVec 64)) (i c : Nat) :
    (grpSlot tab i c).map (fun x => x.2.toNat >>> 2) = (slotShown tab c (2 * i)).or (slotShown tab c (2 * i + 1)) := by
  unfold grpSlot slotShown wordShown
  simp only [List.map_cons, List.map_nil]
  by_cases h0 : grpBit (tget tab (2 * i) 0) c = true
  · rw [List.find?_cons_of_pos (by exact h0), if_pos h0]
    rfl
  · rw [List.find?_cons_of_neg (by exact h0), if_neg h0]
    by_cases h1 : grpBit (tget tab (2 * i + 1) 0) c = true
    · rw [List.find?_cons_of_pos (by exact h1), if_pos h1]
      rfl
    · rw [List.find?_cons_of_neg (by exact h1), if_neg h1]
      rfl

/-- Fields above the presence bits. -/
theorem bits_of_shift {v w hi lo : Nat} (h : v >>> 2 = w >>> 2) (hlo : 2 ≤ lo) : bits v hi lo = bits w hi lo := by
  unfold bits
  rw [show lo = 2 + (lo - 2) by omega, Nat.shiftRight_add, Nat.shiftRight_add, h]

theorem bitAt_of_shift {v w k : Nat} (h : v >>> 2 = w >>> 2) (hk : 2 ≤ k) : bitAt v k = bitAt w k := by
  unfold bitAt
  rw [show k = 2 + (k - 2) by omega, ← Nat.testBit_shiftRight, ← Nat.testBit_shiftRight, h]

theorem State.selectMember_congr {s t : State} {c : Nat} (hm : t.te.members = s.te.members) (hup : ∀ p, t.isUp p = s.isUp p)
    (hshown : ∀ k, slotShown t.te.groups c k = slotShown s.te.groups c k) (idx hashA hashB : Nat) :
    t.selectMember idx c hashA hashB = s.selectMember idx c hashA hashB := by
  have hlive (track : Bool) (i : Nat) : t.isLive track i = s.isLive track i := by
    unfold State.isLive
    rw [hm]
    dsimp only
    rw [hup]
  have hpick (base n S T : Nat) (track : Bool) : t.pickMember base n S T track = s.pickMember base n S T track := by
    unfold State.pickMember State.liveMembers
    rw [hlive, funext (hlive track)]
  have hslots : (grpSlot t.te.groups idx c).map (fun x => x.2.toNat >>> 2) = (grpSlot s.te.groups idx c).map (fun x => x.2.toNat >>> 2) := by
    rw [grpSlot_shown, grpSlot_shown, hshown, hshown]
  unfold State.selectMember
  rw [State.selectIx_eq, State.selectIx_eq, hm]
  refine congrArg _ ?_
  cases ht : grpSlot t.te.groups idx c with
  | none =>
    cases hs : grpSlot s.te.groups idx c with
    | none => rfl
    | some x => rw [ht, hs] at hslots; cases hslots
  | some y =>
    cases hs : grpSlot s.te.groups idx c with
    | none => rw [ht, hs] at hslots; cases hslots
    | some x =>
      rw [ht, hs] at hslots
      have hw : y.2.toNat >>> 2 = x.2.toNat >>> 2 := Option.some.inj hslots
      obtain ⟨i, g⟩ := y
      obtain ⟨j, g'⟩ := x
      dsimp only at hw ⊢
      unfold hashOfPrimary hashOfBackup
      rw [hpick, bits_of_shift hw (hi := 31) (lo := 14) (by decide), bits_of_shift hw (hi := 10) (lo := 2) (by decide),
        bits_of_shift hw (hi := 12) (lo := 11) (by decide), bitAt_of_shift hw (k := 13) (by decide)]

theorem slotShown_tset (tab : Tab (BitVec 64)) (c k j : Nat) (w : BitVec 64) :
    slotShown (tset tab k 0 w) c j = if j = k then wordShown w c else slotShown tab c j := by
  unfold slotShown
  rw [tget_tset]
  split <;> rfl

theorem wordShown_none {w : BitVec 64} {c : Nat} (h : grpBit w c = false) : wordShown w c = none := if_neg (by rw [h]; decide)

/-- A slot that takes a word which shows the same. -/
theorem slotShown_same {tab : Tab (BitVec 64)} {c k : Nat} {w : BitVec 64} (h : wordShown w c = wordShown (tget tab k 0) c) (j : Nat) :
    slotShown (tset tab k 0 w) c j = slotShown tab c j := by
  rw [slotShown_tset]
  split
  · next hj => rw [h, slotShown, hj]
  · rfl

theorem grpBit_pbit (w : BitVec 64) (c : Nat) : pbit (grpBit w 0) (grpBit w 1) c = grpBit w c := by
  unfold pbit grpBit
  obtain h | h := Nat.mod_two_eq_zero_or_one c <;> rw [h] <;> rfl

theorem grpBit_clear_self (w : BitVec 64) {c : Nat} (hc : c < 2) : grpBit (grpClear w c) c = false := by
  unfold grpBit grpClear
  rw [Nat.mod_eq_of_lt hc, BitVec.getLsbD_and, BitVec.getLsbD_not, BitVec.getLsbD_ofNat, Nat.testBit_two_pow_self]
  simp

theorem getLsbD_clear (w : BitVec 64) {c k : Nat} (h : k ≠ c) : (grpClear w c).getLsbD k = w.getLsbD k := by
  unfold grpClear
  rw [BitVec.getLsbD_and, BitVec.getLsbD_not, BitVec.getLsbD_ofNat, Nat.testBit_two_pow_of_ne (Ne.symm h), Bool.and_false, Bool.not_false,
    Bool.and_true]
  by_cases hk : k < 64
  · simp [hk]
  · simp [BitVec.getLsbD_of_ge w k (by omega)]

theorem wordShown_clear (w : BitVec 64) {c nx : Nat} (hc : c < 2) (hnx : nx < 2) (h : c ≠ nx) : wordShown (grpClear w nx) c = wordShown w c := by
  have hbit : grpBit (grpClear w nx) c = grpBit w c := by
    unfold grpBit
    rw [Nat.mod_eq_of_lt hc, getLsbD_clear w h]
  have hshift : (grpClear w nx).toNat >>> 2 = w.toNat >>> 2 := by
    apply Nat.eq_of_testBit_eq
    intro k
    rw [Nat.testBit_shiftRight, Nat.testBit_shiftRight, BitVec.testBit_toNat, BitVec.testBit_toNat, getLsbD_clear w (by omega)]
  unfold wordShown
  rw [hbit, hshift]

theorem grpBit_word (d : List Byte) (p0 p1 : Bool) {c : Nat} (hc : c < 2) : grpBit (grpWord d grpMask p0 p1) c = if c = 0 then p0 else p1 := by
  have hmask : grpMask.getLsbD c = false := by
    obtain rfl | rfl : c = 0 ∨ c = 1 := by omega
    · decide
    · decide
  unfold grpBit grpWord
  rw [Nat.mod_eq_of_lt hc, BitVec.getLsbD_or, BitVec.getLsbD_and, hmask, Bool.and_false, Bool.false_or]
  obtain rfl | rfl : c = 0 ∨ c = 1 := by omega
  · cases p0 <;> cases p1 <;> decide
  · cases p0 <;> cases p1 <;> decide

/-- A new copy of the next version shows nothing under the current one. -/
theorem wordShown_new (d : List Byte) {c : Nat} (hc : c < 2) : wordShown (grpWord d grpMask (newP true (1 - c) 0) (newP true (1 - c) 1)) c = none := by
  refine wordShown_none ?_
  rw [grpBit_word d _ _ hc]
  obtain rfl | rfl : c = 0 ∨ c = 1 := by omega
  · decide
  · decide

/-- The staged rule of R221, by what it answers. -/
theorem verAct_staged {op nx : Nat} {l : List (Nat × Bool × Bool)} {a : VAct} (h : verAct op true nx l = a) :
    (a = .fresh ∨ a = .exist ∨ a = .missing) ∨ ∃ x ∈ l, pbit x.2.1 x.2.2 nx = true ∧
      ((pbit x.2.1 x.2.2 (1 - nx) = false ∧ (a = .rewrite x.1 ∨ a = .free x.1)) ∨ a = .split x.1 ∨ a = .clearNext x.1) := by
  rw [verAct.eq_def, if_pos rfl] at h
  cases hf : l.find? (fun c => pbit c.2.1 c.2.2 nx) with
  | none =>
    rw [hf] at h
    split at h <;> simp_all
  | some x =>
    have hmem := List.mem_of_find?_eq_some hf
    have hp : pbit x.2.1 x.2.2 nx = true := List.find?_some (p := fun c : Nat × Bool × Bool => pbit c.2.1 c.2.2 nx) hf
    rw [hf] at h
    have hcase {b c : VAct} (hb : b = .split x.1 ∨ b = .clearNext x.1) (hc : c = .rewrite x.1 ∨ c = .free x.1)
        (h : (if pbit x.2.1 x.2.2 (1 - nx) = true then b else c) = a) :
        (pbit x.2.1 x.2.2 (1 - nx) = false ∧ (a = .rewrite x.1 ∨ a = .free x.1)) ∨ a = .split x.1 ∨ a = .clearNext x.1 := by
      split at h
      · exact Or.inr (h ▸ hb)
      · next hn => exact Or.inl ⟨Bool.eq_false_iff.2 hn, h ▸ hc⟩
    match op with
    | 1 => exact Or.inl (Or.inr (Or.inl h.symm))
    | 2 => exact Or.inr ⟨x, hmem, hp, hcase (Or.inl rfl) (Or.inl rfl) h⟩
    | 0 | n + 3 => exact Or.inr ⟨x, hmem, hp, hcase (Or.inr rfl) (Or.inr rfl) h⟩

/-- The copies of a group, by slot and parity. -/
def grpCopies (tab : Tab (BitVec 64)) (ix : Nat) : List (Nat × Bool × Bool) :=
  ([2 * ix, 2 * ix + 1].filter (fun i => grpBit (tget tab i 0) 0 || grpBit (tget tab i 0) 1)).map
    (fun i => (i, grpBit (tget tab i 0) 0, grpBit (tget tab i 0) 1))

/-- The slot of a group that holds no copy. -/
def grpEmpty (tab : Tab (BitVec 64)) (ix : Nat) : Option Nat :=
  [2 * ix, 2 * ix + 1].find? (fun i => !grpBit (tget tab i 0) 0 && !grpBit (tget tab i 0) 1)

/-- What a staged operation does to the table of groups, by the action of R221. -/
def grpDo (tab : Tab (BitVec 64)) (o : TeOp) (nx : Nat) : VAct → Nat × Tab (BitVec 64)
  | .exist => (1, tab)
  | .missing => (2, tab)
  | .conflict => (5, tab)
  | .fresh => match grpEmpty tab o.index with
    | some i => (0, tset tab i 0 (grpWord o.data grpMask (newP true nx 0) (newP true nx 1)))
    | none => (3, tab)
  | .rewrite i => (0, tset tab i 0 (grpWord o.data grpMask (grpBit (tget tab i 0) 0) (grpBit (tget tab i 0) 1)))
  | .split i => match grpEmpty tab o.index with
    | some k => (0, tset (tset tab i 0 (grpClear (tget tab i 0) nx)) k 0 (grpWord o.data grpMask (newP true nx 0) (newP true nx 1)))
    | none => (3, tab)
  | .clearNext i => (0, tset tab i 0 (grpClear (tget tab i 0) nx))
  | .free i => (0, tset tab i 0 0)

theorem grpOp_eq (tab : Tab (BitVec 64)) (o : TeOp) (nx : Nat) (hst : o.stage = true) :
    grpOp tab o nx = grpDo tab o nx (verAct o.op true nx (grpCopies tab o.index)) := by
  unfold grpOp
  rw [hst]
  rfl

theorem grpCopies_bit {tab : Tab (BitVec 64)} {ix : Nat} {x : Nat × Bool × Bool} (hx : x ∈ grpCopies tab ix) (q : Nat) :
    pbit x.2.1 x.2.2 q = grpBit (tget tab x.1 0) q := by
  obtain ⟨i, _, rfl⟩ := List.mem_map.1 hx
  exact grpBit_pbit _ _

theorem grpEmpty_bit {tab : Tab (BitVec 64)} {ix i : Nat} (h : grpEmpty tab ix = some i) (q : Nat) : grpBit (tget tab i 0) q = false := by
  have hb := List.find?_some h
  rw [Bool.and_eq_true, Bool.not_eq_true', Bool.not_eq_true'] at hb
  rw [← grpBit_pbit, pbit, hb.1, hb.2, ite_self]

theorem wordShown_rewrite (d : List Byte) {w : BitVec 64} {c : Nat} (hc : c < 2) (h : grpBit w c = false) :
    wordShown (grpWord d grpMask (grpBit w 0) (grpBit w 1)) c = none := by
  refine wordShown_none ?_
  rw [grpBit_word d _ _ hc]
  rw [← grpBit_pbit, pbit] at h
  obtain rfl | rfl : c = 0 ∨ c = 1 := by omega
  · simpa using h
  · simpa using h

/-- A staged operation on a group shows nothing of itself under the current version (R221, R228). -/
theorem grpOp_shown (tab : Tab (BitVec 64)) (o : TeOp) {c : Nat} (hc : c < 2) (hst : o.stage = true) (j : Nat) :
    slotShown (grpOp tab o (1 - c)).2 c j = slotShown tab c j := by
  have hcc : 1 - (1 - c) = c := by omega
  have hclear (i j : Nat) : slotShown (tset tab i 0 (grpClear (tget tab i 0) (1 - c))) c j = slotShown tab c j :=
    slotShown_same (wordShown_clear _ hc (by omega) (by omega)) j
  rw [grpOp_eq tab o _ hst]
  obtain (hv | hv | hv) | ⟨x, hx, hnext, (⟨hcur, hv | hv⟩ | hv | hv)⟩ :=
    verAct_staged (op := o.op) (nx := 1 - c) (l := grpCopies tab o.index) rfl
  · rw [hv, grpDo]
    split
    · next i hi => exact slotShown_same (by rw [wordShown_new _ hc, wordShown_none (grpEmpty_bit hi c)]) j
    · rfl
  · rw [hv, grpDo]
  · rw [hv, grpDo]
  · rw [hcc, grpCopies_bit hx] at hcur
    rw [hv, grpDo]
    exact slotShown_same (by rw [wordShown_none hcur, wordShown_rewrite _ hc hcur]) j
  · rw [hcc, grpCopies_bit hx] at hcur
    rw [hv, grpDo]
    exact slotShown_same (w := 0) (by rw [wordShown_none hcur, wordShown_none (by unfold grpBit; simp)]) j
  · rw [hv, grpDo]
    split
    · next k hk =>
      rw [slotShown_tset]
      split
      · next hjk => rw [hjk, wordShown_new _ hc, slotShown, wordShown_none (grpEmpty_bit hk c)]
      · exact hclear x.1 j
    · rfl
  · rw [hv, grpDo]
    exact hclear x.1 j

theorem State.teStaged_te (s : State) (o : TeOp) (r : Nat) : (s.teStaged o r).te = s.te := by
  have hmeas : (s.measureOp o).te = s.te := by
    unfold State.measureOp
    split <;> rfl
  unfold State.teStaged
  split
  · dsimp only
    split
    · rw [State.fset_te, hmeas]
    · exact hmeas
  · rfl

/-- A staged operation moves no register but VSTATE, which STAGED it leaves where it is applied with RESULT 0 (R227). -/
theorem State.teStaged_regs (s : State) {o : TeOp} (r : Nat) (hst : o.stage = true) :
    OnlyRegs [.verStatus] s (s.teStaged o r) ∧ (s.teStaged o r).fget F.verStatus_CUR_VERSION = s.fget F.verStatus_CUR_VERSION ∧
    (r = 0 → s.vstate = 0 ∨ s.vstate = 1 → (s.teStaged o r).vstate = 1) := by
  have hmeas : (s.measureOp o).r32 = s.r32 := by
    unfold State.measureOp
    split <;> rfl
  have hregs : OnlyRegs [.verStatus] s (s.measureOp o) := fun n i j _ => rd_of_r32 hmeas n i j
  have hrd : (s.measureOp o).rd .verStatus = s.rd .verStatus := rd_of_r32 hmeas _ _ _
  have hvs : (s.measureOp o).vstate = s.vstate := fget_of_rd _ hrd
  unfold State.teStaged
  by_cases hr : r = 0
  · rw [if_pos ⟨hst, hr⟩]
    dsimp only
    split
    · refine ⟨OnlyRegs.fset (f := F.verStatus_VSTATE) hregs 1 0 0 (by decide), ?_, fun _ _ => ?_⟩
      · rw [fget_fset_off _ _ _ _ _ _ (by decide) (by decide) (by decide)]
        exact fget_of_rd _ hrd
      · exact fget_fset_same _ _ _ _ _ (by decide) (by decide)
    · next hv => exact ⟨hregs, fget_of_rd _ hrd, fun _ h => hvs.trans (h.resolve_left (hvs ▸ hv))⟩
  · rw [if_neg (fun h => hr h.2)]
    exact ⟨OnlyRegs.refl _ _, rfl, fun h => absurd h hr⟩

theorem grpOp_result (tab : Tab (BitVec 64)) (o : TeOp) (nx : Nat) (hst : o.stage = true) : (grpOp tab o nx).1 ≤ 5 := by
  rw [grpOp_eq tab o nx hst]
  unfold grpDo
  split
  case h_4 => split <;> simp
  case h_6 => split <;> simp
  all_goals simp

theorem State.teDo_group_eq {s : State} {o : TeOp} (htid : o.tid = 0x40) (h4 : o.op ≠ 4) : s.teDo o =
    if 16384 ≤ o.index ∨ (o.op ≠ 3 ∧ 262144 < bits (leNat (bytesAt o.data 0 8)) 31 14 + bits (leNat (bytesAt o.data 0 8)) 10 2 + 1) then (4, [], s)
    else ((grpOp s.te.groups o s.next).1, [], if (grpOp s.te.groups o s.next).1 = 0 then
      ({ s with te := { s.te with groups := (grpOp s.te.groups o s.next).2 } } : State).mend 0x40 o.index else s) := by
  have hden : s.teDenied o.tid = false := by
    rw [htid]
    rfl
  have hkind : tidKind o.tid = 4 := by
    rw [htid]
    rfl
  unfold State.teDo
  dsimp only
  rw [if_neg (by rw [hden]; decide), if_neg h4, hkind]
  rfl

/-- What `teDo` gives for a staged operation on an ECMP group. -/
theorem State.teDo_group {s : State} {o : TeOp} (htid : o.tid = 0x40) (h4 : o.op ≠ 4) (hst : o.stage = true) :
    ∃ r u, s.teDo o = (r, [], u) ∧ r < 16 ∧ u.r32 = s.r32 ∧ u.te.ops = s.te.ops ∧ u.te.members = s.te.members ∧
      ∀ k, slotShown u.te.groups s.cur k = slotShown s.te.groups s.cur k := by
  rw [State.teDo_group_eq htid h4]
  split
  · exact ⟨4, s, rfl, by decide, rfl, rfl, rfl, fun _ => rfl⟩
  · refine ⟨_, _, rfl, (grpOp_result s.te.groups o s.next hst).trans_lt (by decide), ?_⟩
    split
    · exact ⟨rfl, rfl, rfl, grpOp_shown s.te.groups o (Nat.mod_lt _ (by decide)) hst⟩
    · exact ⟨rfl, rfl, rfl, fun _ => rfl⟩

/-- A staged operation on an ECMP group (R221, R228). -/
theorem RegOp.group {s : State} {o : TeOp} (h : RegOp s o) (hvs : s.vstate = 0 ∨ s.vstate = 1) (htid : o.tid = 0x40) (hst : o.stage = true)
    (hop : o.op = 1 ∨ o.op = 2 ∨ o.op = 3) :
    let t := (s.teApply .reg o.op).mcRun
    t.flag F.teCmdStatus_BUSY = false ∧ t.fget F.verStatus_CUR_VERSION = s.fget F.verStatus_CUR_VERSION ∧
    (t.fget F.teCmdStatus_RESULT = 0 → t.vstate = 1) ∧ ∀ idx hashA hashB, t.selectMember idx s.cur hashA hashB = s.selectMember idx s.cur hashA hashB := by
  have hhold : s.teHolds o = false := by
    unfold State.teHolds
    obtain h | h := hvs <;> rw [h] <;> simp
  obtain ⟨r, u, hdo, hr, hregs, hops, hmem, hshown⟩ := State.teDo_group (s := s.slotTaken (.src 0)) htid (by omega) hst
  obtain ⟨hvo, hvc, hv1⟩ := u.teStaged_regs r hst
  have hrd (n : RName) (i j : Nat) : u.rd n i j = s.rd n i j := rd_of_r32 hregs n i j
  have hte := State.teFinish_te (s := u.teStaged o r) r [] h.2.1
  have hempty : ((u.teStaged o r).teFinish .reg o r []).te.ops = [] := by
    rw [hte, State.teStaged_te]
    dsimp only
    rw [hops]
    show dropFirst s.te.ops .reg = []
    rw [h.1]
    rfl
  have hfin := State.teFinish_onlyRegs (s := u.teStaged o r) r [] h.2.1
  obtain ⟨hbusy, hres⟩ := State.teFinish_status (s := u.teStaged o r) [] h.2.1 hr
  have hver (f : Fld) (hf : f.reg = .verStatus) : ((u.teStaged o r).teFinish .reg o r []).fget f = (u.teStaged o r).fget f :=
    fget_of_rd f (hfin f.reg _ _ (by rw [hf]; decide))
  dsimp only
  rw [h.apply hhold (by omega) (by omega), hdo]
  dsimp only
  rw [State.mcRun_of_empty hempty]
  refine ⟨hbusy, ?_, fun h0 => ?_, State.selectMember_congr ?_ (fun p => ?_) fun k => ?_⟩
  · rw [hver _ rfl, hvc]
    exact fget_of_rd _ (hrd _ _ _)
  · rw [hres] at h0
    exact (hver F.verStatus_VSTATE rfl).trans (hv1 h0 (hvs.imp (fget_of_rd F.verStatus_VSTATE (hrd _ _ _)).trans
      (fget_of_rd F.verStatus_VSTATE (hrd _ _ _)).trans))
  · rw [hte, State.teStaged_te]
    exact hmem
  · unfold State.isUp
    rw [fget_of_rd F.portStatus_STATE ((hfin _ _ _ (by decide)).trans ((hvo _ _ _ (by decide)).trans (hrd _ _ _)))]
  · rw [hte, State.teStaged_te]
    exact hshown k

/-- SET_LIVE and MEMBER through the command register (R210). -/
theorem RegOp.member {s : State} {o : TeOp} {u : State} (h : RegOp s o) (hst : o.stage = false) (hop : o.op = 7 ∨ o.op = 8)
    (hdo : (s.slotTaken (.src 0)).teDo o = (0, [], u)) (hops : u.te.ops = s.te.ops) :
    (s.teApply .reg o.op).mcRun.fget F.teCmdStatus_RESULT = 0 ∧ (s.teApply .reg o.op).mcRun.te.members = u.te.members := by
  rw [h.run hst (by omega) (by omega) hdo hops]
  refine ⟨(State.teFinish_status (s := u) [] h.2.1 (by decide)).2, ?_⟩
  rw [State.teFinish_te 0 [] h.2.1]

theorem State.teDo_setLive {s : State} {o : TeOp} (htid : o.tid = 0x41) (hop : o.op = 7) (hix : o.index % 2 ^ 31 < 262144) :
    s.teDo o = (0, [], s.setLive (o.index % 2 ^ 31) (bitAt o.index 31)) := by
  have hden : s.teDenied o.tid = false := by
    rw [htid]
    rfl
  have hkind : tidKind o.tid = 5 := by
    rw [htid]
    rfl
  unfold State.teDo
  dsimp only
  rw [if_neg (by rw [hden]; decide), if_neg (by omega), hkind]
  exact (if_pos hop).trans (if_neg (by omega))

theorem State.teDo_member {s : State} {o : TeOp} (htid : o.tid = 0x41) (hop : o.op = 8) (hix : o.index < 262144) :
    s.teDo o = (0, [], (s.setMember o.index (BitVec.ofNat 64 (leNat (bytesAt o.data 0 8)) &&& mbrMask)).mend 0x41 o.index) := by
  have hden : s.teDenied o.tid = false := by
    rw [htid]
    rfl
  have hkind : tidKind o.tid = 5 := by
    rw [htid]
    rfl
  unfold State.teDo
  dsimp only
  rw [if_neg (by rw [hden]; decide), if_neg (by omega), hkind]
  exact (if_neg (by omega)).trans (if_neg (by omega))

theorem getLsbD_setLive (w : BitVec 64) (en : Bool) (b : Nat) :
    (if en then w ||| 0x200#64 else w &&& 0xFFFFFFFFFFFFFDFF#64).getLsbD b = if b = 9 then en else w.getLsbD b := by
  by_cases hb : b < 64
  · have hone : (0x200#64).getLsbD b = decide (b = 9) := by
      rw [show (0x200#64) = BitVec.ofNat 64 (2 ^ 9) from rfl, BitVec.getLsbD_ofNat, Nat.testBit_two_pow]
      simp [hb, eq_comm]
    have hmask : (0xFFFFFFFFFFFFFDFF#64).getLsbD b = !decide (b = 9) := by
      rw [show (0xFFFFFFFFFFFFFDFF#64) = ~~~(0x200#64) from by decide, BitVec.getLsbD_not, hone]
      simp [hb]
    cases en
    · by_cases h9 : b = 9 <;> simp [BitVec.getLsbD_and, hmask, h9]
    · by_cases h9 : b = 9 <;> simp [BitVec.getLsbD_or, hone, h9]
  · rw [BitVec.getLsbD_of_ge _ _ (by omega), BitVec.getLsbD_of_ge _ _ (by omega), if_neg (by omega)]

theorem groupsUnderVersions : Claims.GroupsUnderVersions := by
  intro s o h hvs
  refine ⟨fun htid hst _ hop => ?_, fun htid hst hop hix => ?_, fun htid hst hop hix => ?_⟩
  · have hgrp := h.group hvs htid hst hop
    have hexec : (if o.op = 1 then exec (.insert none) s else if o.op = 2 then exec (.modify none) s else exec (.delete none) s) =
        .next (s.teApply .reg o.op).mcRun := by
      obtain h | h | h := hop <;> rw [h] <;> rfl
    exact ⟨_, hexec, hgrp⟩
  · obtain ⟨hres, hmem⟩ := h.member hst (Or.inl hop) (State.teDo_setLive htid hop hix) rfl
    rw [hop] at hres hmem
    refine ⟨_, rfl, hres, ?_, fun b hb => ?_, fun j hj => ?_⟩
    · show (tget (s.teApply .reg 7).mcRun.te.members _ 0).getLsbD 9 = _
      rw [hmem, State.setLive, State.setMember, tget_tset_same, getLsbD_setLive, if_pos rfl]
    · show (tget (s.teApply .reg 7).mcRun.te.members _ 0).getLsbD b = _
      rw [hmem, State.setLive, State.setMember, tget_tset_same, getLsbD_setLive, if_neg hb]
      rfl
    · show tget (s.teApply .reg 7).mcRun.te.members _ 0 = _
      rw [hmem, State.setLive, State.setMember, tget_tset_ne _ _ _ _ hj]
      rfl
  · obtain ⟨hres, hmem⟩ := h.member hst (Or.inr hop) (State.teDo_member htid hop hix) rfl
    rw [hop] at hres hmem
    refine ⟨_, rfl, hres, ?_, fun j hj => ?_⟩
    · show tget (s.teApply .reg 8).mcRun.te.members _ 0 = _
      rw [hmem]
      exact tget_tset_same _ _ _ _
    · show tget (s.teApply .reg 8).mcRun.te.members _ 0 = _
      rw [hmem]
      exact tget_tset_ne _ _ _ _ hj

/-- Settles O21: what a staged operation writes carries no presence bit of the current version, the fields of a packet and its reply swap in the key,
and the folds over members and prefixes keep what they look for. -/
theorem groupsHashesAndSelection : Obligations.GroupsHashesAndSelection :=
  ⟨groupsUnderVersions, symmetricHash, selectionAndLongestPrefix⟩

end Sys2Proof.Machine
end

section
/-!
PROOF. The course of a table version (R224 to R227): COMMIT and its cycle, draining, the sweeps of retirement and DISCARD.
-/

set_option Elab.async false
set_option exponentiation.threshold 4096
set_option maxRecDepth 20000

namespace Sys2Proof.Machine

/-! ## What a sweep leaves -/

section
variable {α : Type}

theorem mem_of_tget {t : Tab (Option α)} {k : Nat} {e : α} (h : tget t k none = some e) : (k, some e) ∈ t := by
  induction t with
  | nil => cases h
  | cons x r ih =>
    obtain ⟨j, v⟩ := x
    rw [tget] at h
    split at h
    · next hj => exact hj ▸ h ▸ List.mem_cons_self
    · exact List.mem_cons_of_mem _ (ih h)

/-- A table whose values are changed and partly dropped, at a key whose first value stays. -/
theorem tget_map_filter {t : Tab (Option α)} {k : Nat} {e : α} {f : Option α → Option α} {keep : Option α → Bool} (h : tget t k none = some e)
    (hk : keep (f (some e)) = true) : tget ((t.map (fun x => (x.1, f x.2))).filter (fun x => keep x.2)) k none = f (some e) := by
  induction t with
  | nil => cases h
  | cons x r ih =>
    obtain ⟨j, v⟩ := x
    rw [tget] at h
    rw [List.map_cons, List.filter_cons]
    split at h
    · next hj =>
      rw [h, if_pos hk, tget, if_pos hj]
    · next hj =>
      split
      · rw [tget, if_neg hj, ih h]
      · exact ih h

end

/-- An exact-match entry with P[dst] as the other bit is. -/
def sweptE (dst : Nat) (x : EmEntry) : EmEntry := if dst = 0 then { x with p0 := x.p1 } else { x with p1 := x.p0 }

/-- A TCAM entry with P[dst] as the other bit is. -/
def sweptA (dst : Nat) (x : AclEntry) : AclEntry := if dst = 0 then { x with p0 := x.p1 } else { x with p1 := x.p0 }

def keptE (e : Option EmEntry) : Bool := match e with
  | some x => x.p0 || x.p1
  | none => false

def keptA (e : Option AclEntry) : Bool := match e with
  | some x => x.p0 || x.p1
  | none => false

theorem State.sweepCopies_em (s : State) (dst : Nat) :
    (s.sweepCopies dst).te.em = (s.te.em.map (fun e => (e.1, e.2.map (sweptE dst)))).filter (fun e => keptE e.2) := rfl

theorem State.sweepCopies_acl (s : State) (dst : Nat) :
    (s.sweepCopies dst).te.acl = (s.te.acl.map (fun e => (e.1, e.2.map (sweptA dst)))).filter (fun e => keptA e.2) := rfl

theorem sweptE_kept {dst : Nat} {x : EmEntry} (h : keptE (some (sweptE dst x)) = true) : (sweptE dst x).p0 = true ∧ (sweptE dst x).p1 = true := by
  unfold sweptE at h ⊢
  unfold keptE at h
  split
  · next h0 => simpa [h0] using h
  · next h0 => simpa [h0] using h

theorem sweptA_kept {dst : Nat} {x : AclEntry} (h : keptA (some (sweptA dst x)) = true) : (sweptA dst x).p0 = true ∧ (sweptA dst x).p1 = true := by
  unfold sweptA at h ⊢
  unfold keptA at h
  split
  · next h0 => simpa [h0] using h
  · next h0 => simpa [h0] using h

/-- After the sweep every copy stands in both versions (R225). -/
theorem State.sweepCopies_emAt {s : State} {dst i : Nat} {e : EmEntry} (h : (s.sweepCopies dst).emAt i = some e) : e.p0 = true ∧ e.p1 = true := by
  have hmem := mem_of_tget h
  rw [State.sweepCopies_em] at hmem
  obtain ⟨hmap, hkept⟩ := List.mem_filter.1 hmem
  obtain ⟨⟨j, v⟩, _, heq⟩ := List.mem_map.1 hmap
  cases v with
  | none => cases heq
  | some x =>
    cases heq
    exact sweptE_kept hkept

theorem State.sweepCopies_aclAt {s : State} {dst i : Nat} {e : AclEntry} (h : (s.sweepCopies dst).aclAt i = some e) : e.p0 = true ∧ e.p1 = true := by
  have hmem := mem_of_tget h
  rw [State.sweepCopies_acl] at hmem
  obtain ⟨hmap, hkept⟩ := List.mem_filter.1 hmem
  obtain ⟨⟨j, v⟩, _, heq⟩ := List.mem_map.1 hmap
  cases v with
  | none => cases heq
  | some x =>
    cases heq
    exact sweptA_kept hkept

theorem State.sweepCopies_lpm {s : State} {dst : Nat} {e : LpmEntry} (h : e ∈ (s.sweepCopies dst).te.lpm) : e.p0 = true ∧ e.p1 = true := by
  obtain ⟨hmap, hkept⟩ := List.mem_filter.1 h
  obtain ⟨x, _, rfl⟩ := List.mem_map.1 hmap
  split
  · next h0 => simpa [h0] using hkept
  · next h0 => simpa [h0] using hkept

/-- A copy of the version that stays keeps its key and action (R225). -/
theorem State.sweepCopies_emAt_cur {s : State} {i : Nat} {e : EmEntry} (h : s.emAt i = some e) (hp : pbit e.p0 e.p1 s.cur = true) :
    ((s.sweepCopies s.next).emAt i).map (fun x => (x.key, x.action)) = some (e.key, e.action) := by
  have hcur : s.cur = 0 ∨ s.cur = 1 := by
    unfold State.cur
    omega
  have hkept : keptE (some (sweptE s.next e)) = true := by
    unfold keptE sweptE State.next pbit at *
    obtain h | h := hcur <;> rw [h] at hp ⊢ <;> simp_all
  unfold State.emAt
  rw [State.sweepCopies_em, tget_map_filter (f := Option.map (sweptE s.next)) h hkept]
  unfold sweptE
  split <;> rfl

theorem State.sweepCopies_aclAt_cur {s : State} {i : Nat} {e : AclEntry} (h : s.aclAt i = some e) (hp : pbit e.p0 e.p1 s.cur = true) :
    ((s.sweepCopies s.next).aclAt i).map (fun x => (x.key, x.mask, x.action)) = some (e.key, e.mask, e.action) := by
  have hcur : s.cur = 0 ∨ s.cur = 1 := by
    unfold State.cur
    omega
  have hkept : keptA (some (sweptA s.next e)) = true := by
    unfold keptA sweptA State.next pbit at *
    obtain h | h := hcur <;> rw [h] at hp ⊢ <;> simp_all
  unfold State.aclAt
  rw [State.sweepCopies_acl, tget_map_filter (f := Option.map (sweptA s.next)) h hkept]
  unfold sweptA
  split <;> rfl

/-! ## The commit cycle -/

/-- The engine's state but what an operation of the MC registers and the answer to an operation may change. -/
def TableSt.rest (x : TableSt) : TableSt := { x with mcGroups := [], mcMembers := [], ops := [], arb := {}, busy := [], bad := [] }

theorem TableSt.em_of_rest {x y : TableSt} (h : x.rest = y.rest) : x.em = y.em := show x.rest.em = y.rest.em from congrArg _ h

theorem TableSt.lpm_of_rest {x y : TableSt} (h : x.rest = y.rest) : x.lpm = y.lpm := show x.rest.lpm = y.rest.lpm from congrArg _ h

theorem TableSt.acl_of_rest {x y : TableSt} (h : x.rest = y.rest) : x.acl = y.acl := show x.rest.acl = y.rest.acl from congrArg _ h

theorem TableSt.groups_of_rest {x y : TableSt} (h : x.rest = y.rest) : x.groups = y.groups := show x.rest.groups = y.rest.groups from congrArg _ h

theorem TableSt.members_of_rest {x y : TableSt} (h : x.rest = y.rest) : x.members = y.members := show x.rest.members = y.rest.members from congrArg _ h

theorem TableSt.dpq_of_rest {x y : TableSt} (h : x.rest = y.rest) : x.dpq = y.dpq := show x.rest.dpq = y.rest.dpq from congrArg _ h

theorem TableSt.commits_of_rest {x y : TableSt} (h : x.rest = y.rest) : x.commits = y.commits := show x.rest.commits = y.rest.commits from congrArg _ h

theorem TableSt.cands_of_rest {x y : TableSt} (h : x.rest = y.rest) : x.cands = y.cands := show x.rest.cands = y.rest.cands from congrArg _ h

theorem TableSt.rewrites_of_rest {x y : TableSt} (h : x.rest = y.rest) : x.rewrites = y.rewrites := show x.rest.rewrites = y.rest.rewrites from congrArg _ h

theorem TableSt.refresh_of_rest {x y : TableSt} (h : x.rest = y.rest) : x.refresh = y.refresh := show x.rest.refresh = y.rest.refresh from congrArg _ h

/-- Where the outcome of an operation that left its source's queue is told (R214, R215). -/
def State.told (s : State) (src : TeSrc) (o : TeOp) (result : Nat) (data : List Byte) : State :=
  match src with
  | .reg =>
    let s2 := if data.isEmpty then s else forN 64 (fun i s => s.wr .teData (BitVec.ofNat 32 (leNat (bytesAt data (4 * i) 4))) i) s
    if o.gen = 0 then (s2.fset F.teCmdStatus_BUSY 0).fset F.teCmdStatus_RESULT result else s2
  | .mc =>
    let s2 := if data.isEmpty then s else
      (s.wr .mcData0 (BitVec.ofNat 32 (leNat (bytesAt data 0 4)))).wr .mcData1 (BitVec.ofNat 32 (leNat (bytesAt data 4 4)))
    (s2.fset F.mcStatus_BUSY 0).fset F.mcStatus_RESULT result
  | .ring r =>
    if data.isEmpty then s.complete r o.gen o.pos result 0 0
    else if (s.ring r).gen ≠ o.gen then s
    else if s.hostOk (s.ringOwnerOf r) o.addr data.length true then
      (s.hostPut o.addr data).complete r o.gen o.pos result 0 data.length
    else s.violation (s.ringOwnerOf r) 3 o.addr r

theorem State.teFinish_told (s : State) (src : TeSrc) (o : TeOp) (r : Nat) (d : List Byte) :
    s.teFinish src o r d = ({ s with te := { s.te with ops := dropFirst s.te.ops src } } : State).told src o r d := by
  cases src <;> rfl

/-- Every part but the table engine's. -/
def Touch.butTe : Touch := { Touch.all with te := false }

theorem State.told_keeps (s : State) (src : TeSrc) (o : TeOp) (r : Nat) (d : List Byte) : Keeps .butTe s (s.told src o r d) := by
  have h := Keeps.rfl' .butTe s
  unfold State.told
  cases src with
  | reg =>
    have hdata : Keeps .butTe s (if d.isEmpty then s else
        forN 64 (fun i s => s.wr .teData (BitVec.ofNat 32 (leNat (bytesAt d (4 * i) 4))) i) s) :=
      keeps_ite h (forN_keeps h fun _ _ hu => State.wr_keeps hu _ _ _ _)
    exact keeps_ite (State.fset_keeps (State.fset_keeps hdata _ _ _ _) _ _ _ _) hdata
  | mc =>
    have hdata : Keeps .butTe s (if d.isEmpty then s else
        (s.wr .mcData0 (BitVec.ofNat 32 (leNat (bytesAt d 0 4)))).wr .mcData1 (BitVec.ofNat 32 (leNat (bytesAt d 4 4)))) :=
      keeps_ite h (State.wr_keeps (State.wr_keeps h _ _ _ _) _ _ _ _)
    exact State.fset_keeps (State.fset_keeps hdata _ _ _ _) _ _ _ _
  | ring q =>
    exact keeps_ite (State.complete_keeps h _ _ _ _ _ _) (keeps_ite h (keeps_ite (State.complete_keeps (State.hostPut_keeps h _ _) _ _ _ _ _ _)
      (State.violation_keeps h _ _ _ _)))

/-- The outcome of an operation leaves every entry. -/
theorem State.teFinish_rest (s : State) (x : TeSrc) (o : TeOp) (r : Nat) (d : List Byte) : (s.teFinish x o r d).te.rest = s.te.rest := by
  rw [State.teFinish_told, (State.told_keeps _ x o r d).te rfl]
  rfl

/-- An operation of the MC registers is about multicast groups and members alone. -/
theorem State.mcDo_only (s : State) (o : TeOp) : (s.mcDo o).2.2.te.rest = s.te.rest ∧ (s.mcDo o).2.2.r32 = s.r32 := by
  unfold State.mcDo
  dsimp only
  split
  · split <;> exact ⟨rfl, rfl⟩
  · split
    · exact ⟨rfl, rfl⟩
    · split
      · split <;> exact ⟨rfl, rfl⟩
      · exact ⟨rfl, rfl⟩
  · split
    · exact ⟨rfl, rfl⟩
    · dsimp only
      split <;> exact ⟨rfl, rfl⟩

theorem State.mcRun_rest (s : State) : s.mcRun.te.rest = s.te.rest := by
  unfold State.mcRun
  split
  · split
    · rfl
    · rw [State.teFinish_rest, State.teStaged_te, (State.mcDo_only _ _).1]
      rfl
  · rfl

/-- Outside QUIET and STAGED no operation of the MC registers moves VER_STATUS. -/
theorem State.mcRun_verStatus (s : State) (h : s.vstate = 2) (i j : Nat) : s.mcRun.rd .verStatus i j = s.rd .verStatus i j := by
  unfold State.mcRun
  split
  · next o _ =>
    split
    · rfl
    · next hn =>
      have hst : o.stage = false := by
        have hholds : ¬s.teHolds o = true := fun hh => hn (Or.inl hh)
        unfold State.teHolds at hholds
        rw [h] at hholds
        simp at hholds
        exact hholds.1.1
      dsimp only
      rw [(State.teFinish_keeps (.rfl' (.avoid [.verStatus]) _) _ _ _ _).rd .verStatus i j rfl, State.teStaged, if_neg (by rw [hst]; simp),
        rd_of_r32 (State.mcDo_only _ _).2]
      rfl
  · rfl

theorem State.commitReady_some {s : State} {x : TeSrc × TeOp} (h : s.commitReady = some x) : s.vstate = 0 ∨ s.vstate = 1 := by
  unfold State.commitReady at h
  split at h
  · split at h
    · next hc => exact hc.2.2.2.2
    · cases h
  · cases h

/-- The commit cycle to version `v` before its operation is answered (R224). -/
def State.risen (s : State) (v : Nat) : State :=
  (((s.fset F.verStatus_CUR_VERSION v).fset F.verStatus_VSTATE 2).bump .cntCommits).each s.clocked (fun t u => u.fset F.ttVersion_VERSION v t)

theorem State.risen_regs (s : State) {v : Nat} (hv : v < 2 ^ 16) : (s.risen v).fget F.verStatus_CUR_VERSION = v ∧
    (s.risen v).vstate = 2 ∧ (s.risen v).rdw .cntCommits = s.rdw .cntCommits + 1#64 ∧
    (∀ ti : TileIx, s.tileOn ti = true → (s.risen v).fget F.ttVersion_VERSION ti = v) ∧ (s.risen v).te = s.te := by
  have hrd : (s.risen v).rd .verStatus = (((s.fset F.verStatus_CUR_VERSION v).fset F.verStatus_VSTATE 2).bump .cntCommits).rd .verStatus :=
    State.each_view (fun w : State => w.rd .verStatus) fun t u => rd_fset_reg _ _ _ _ _ _ (by decide)
  have hset (t i : Nat) (u : State) : (u.fset F.ttVersion_VERSION v t).fget F.ttVersion_VERSION i =
      if regKey .ttVersion i 0 = regKey .ttVersion t 0 then v else u.fget F.ttVersion_VERSION i := by
    have h := fget_fset u F.ttVersion_VERSION v t 0 i 0 (by decide) (by decide)
    rw [show v % 2 ^ (F.ttVersion_VERSION.hi + 1 - F.ttVersion_VERSION.lo) = v from Nat.mod_eq_of_lt hv] at h
    exact h
  refine ⟨?_, ?_, ?_, fun ti hti => ?_, ?_⟩
  · rw [fget_of_rd F.verStatus_CUR_VERSION hrd, State.bump_fget, fget_fset_off _ _ _ _ _ _ (by decide) (by decide) (by decide),
      fget_fset_same _ _ _ _ _ (by decide) (by decide)]
    exact Nat.mod_eq_of_lt hv
  · rw [State.vstate, fget_of_rd F.verStatus_VSTATE hrd, State.bump_fget, fget_fset_same _ _ _ _ _ (by decide) (by decide)]
    rfl
  · unfold State.risen
    rw [State.each_view (fun w : State => w.rdw .cntCommits) fun t u => rdw_fset u _ _ _ _ _ _ _, rdw_bump_same, rdw_fset, rdw_fset]
  · refine State.each_sets (P := fun u => u.fget F.ttVersion_VERSION ti = v) _ (State.mem_clocked ti.isLt hti)
      (fun u => ?_) fun b u hu => ?_
    · rw [hset, if_pos rfl]
    · rw [hset, hu, ite_self]
  · unfold State.risen
    rw [State.each_view (fun w : State => w.te) fun t u => State.fset_te u _ _ _ _]
    rw [State.bump_te, State.fset_te, State.fset_te]

/-- The commit cycle keeps the registers that its later steps do not name. -/
theorem State.commitNow_after (s : State) (x : TeSrc) (o : TeOp) :
    let v := (s.fget F.verStatus_CUR_VERSION + 1) % 65536
    (∀ n i j, n ∈ [RName.verStatus, .ttVersion] → (s.commitNow x o).rd n i j = (s.risen v).rd n i j) ∧
    (s.commitNow x o).rdw .cntCommits = (s.risen v).rdw .cntCommits ∧
    (s.commitNow x o).te.rest = TableSt.rest { s.te with commits := s.te.commits.filter (fun y => decide (y ≠ x)) } := by
  intro v
  have hm := State.measureCommit_keeps (.rfl' (.avoid [.verStatus, .ttVersion, .cntCommits]) (s.risen v)) v
  have hmte := (State.measureCommit_keeps (.rfl' .butTe (s.risen v)) v).te rfl
  have hf (u : State) := State.teFinish_keeps (.rfl' (.avoid [.verStatus, .ttVersion, .cntCommits]) u) x o 0 []
  have heq : s.commitNow x o = ({ (s.risen v).measureCommit v with te := { ((s.risen v).measureCommit v).te with
      commits := ((s.risen v).measureCommit v).te.commits.filter (fun y => decide (y ≠ x)) } } : State).teFinish x o 0 [] := rfl
  rw [heq]
  refine ⟨fun n i j hn => ?_, ?_, ?_⟩
  · have hn' : (Touch.avoid [.verStatus, .ttVersion, .cntCommits]).has n = false := by
      simp only [List.mem_cons, List.not_mem_nil, or_false] at hn
      obtain rfl | rfl := hn <;> rfl
    rw [(hf _).rd n i j hn']
    exact hm.rd n i j hn'
  · rw [(hf _).rdw .cntCommits 0 0 rfl]
    exact hm.rdw .cntCommits 0 0 rfl
  · rw [State.teFinish_rest, hmte, (s.risen_regs (Nat.mod_lt _ (by decide) : v < 2 ^ 16)).2.2.2.2]

/-- What follows the commit cycle at its edge: an armed image activation starts, and an MC operation may have its turn. -/
def State.commitTail (u : State) : State := (if u.flag F.imgStatus_ARMED then u.actStart u.cirrus.armedBase false else u).mcRun

theorem State.commitTail_keeps {u : State} (h : u.vstate = 2) : u.commitTail.rd .verStatus = u.rd .verStatus ∧
    (∀ i, u.commitTail.rd .ttVersion i = u.rd .ttVersion i) ∧ u.commitTail.rdw .cntCommits = u.rdw .cntCommits ∧
    u.commitTail.te.rest = u.te.rest := by
  have hact : Keeps { (Touch.avoid [.verStatus, .ttVersion, .cntCommits]) with te := false } u
      (if u.flag F.imgStatus_ARMED then u.actStart u.cirrus.armedBase false else u) :=
    keeps_ite (State.actStart_keeps (.rfl' _ u) _ _) (.rfl' _ u)
  have hvs : (if u.flag F.imgStatus_ARMED then u.actStart u.cirrus.armedBase false else u).vstate = 2 :=
    (fget_of_rd F.verStatus_VSTATE (hact.rd _ _ _ rfl)).trans h
  have hmc (w : State) : Keeps (.avoid [.ttVersion, .cntCommits]) w w.mcRun := State.mcRun_keeps (.rfl' _ w)
  unfold State.commitTail
  refine ⟨?_, fun i => ?_, ?_, ?_⟩
  · rw [State.mcRun_verStatus _ hvs, hact.rd .verStatus 0 0 rfl]
  · rw [(hmc _).rd .ttVersion i 0 rfl, hact.rd .ttVersion i 0 rfl]
  · rw [(hmc _).rdw .cntCommits 0 0 rfl, hact.rdw .cntCommits 0 0 rfl]
  · rw [State.mcRun_rest, hact.te rfl]

theorem execVersionChange_next {s : State} {x : TeSrc × TeOp} (h : s.commitReady = some x) :
    exec .versionChange s = .next (s.commitNow x.1 x.2).commitTail := by
  show execVersionChange s = _
  unfold execVersionChange
  rw [h]
  rfl

/-- The commit cycle (R224, R225). -/
theorem execVersionChange_some {s : State} {x : TeSrc × TeOp} (h : s.commitReady = some x) : ∃ t, exec .versionChange s = .next t ∧
    t.fget F.verStatus_CUR_VERSION = (s.fget F.verStatus_CUR_VERSION + 1) % 65536 ∧ t.vstate = 2 ∧
    t.te.commits = s.te.commits.filter (fun y => decide (y ≠ x.1)) ∧ t.rdw .cntCommits = s.rdw .cntCommits + 1#64 ∧
    (∀ ti : TileIx, s.tileOn ti = true → t.fget F.ttVersion_VERSION ti = (s.fget F.verStatus_CUR_VERSION + 1) % 65536) ∧
    t.te.em = s.te.em ∧ t.te.lpm = s.te.lpm ∧ t.te.acl = s.te.acl ∧ t.te.groups = s.te.groups := by
  obtain ⟨hregs, hcnt, hshelf⟩ := s.commitNow_after x.1 x.2
  obtain ⟨hcur, hvs, hrise, htiles, -⟩ := s.risen_regs (v := (s.fget F.verStatus_CUR_VERSION + 1) % 65536) (Nat.mod_lt _ (by decide))
  have hver := hregs .verStatus 0 0 (by decide)
  obtain ⟨htv, htt, htc, hts⟩ := (s.commitNow x.1 x.2).commitTail_keeps ((fget_of_rd F.verStatus_VSTATE hver).trans hvs)
  rw [hshelf] at hts
  have hem := TableSt.em_of_rest hts
  have hlpm := TableSt.lpm_of_rest hts
  have hacl := TableSt.acl_of_rest hts
  have hgroups := TableSt.groups_of_rest hts
  refine ⟨_, execVersionChange_next h, ?_, ?_, TableSt.commits_of_rest hts, (htc.trans hcnt).trans hrise, fun ti hti => ?_, hem,
    hlpm, hacl, hgroups⟩
  · rw [fget_of_rd F.verStatus_CUR_VERSION (htv.trans hver), hcur]
  · exact (fget_of_rd F.verStatus_VSTATE (htv.trans hver)).trans hvs
  · rw [fget_of_rd F.ttVersion_VERSION ((htt ti).trans (hregs .ttVersion ti 0 (by decide))), htiles ti hti]

/-! ## DISCARD, draining and the sweeps -/

theorem State.teHolds_quiet {s : State} {o : TeOp} (h : s.vstate = 0 ∨ s.vstate = 1) : s.teHolds o = false := by
  unfold State.teHolds
  obtain h | h := h <;> rw [h] <;> simp

theorem RegOp.head {s : State} {o : TeOp} (h : RegOp s o) : s.teHead .reg = some o := by
  unfold State.teHead
  rw [h.1]
  rfl

/-- An operation that is answered in its register's order leaves the queue empty. -/
theorem RegOp.finish_ops {s : State} {o : TeOp} (h : RegOp s o) {u : State} (hu : u.te.ops = s.te.ops) (r : Nat) :
    (u.teFinish .reg o r []).te.ops = [] := by
  rw [State.teFinish_te r [] h.2.1]
  show dropFirst u.te.ops .reg = []
  rw [hu, h.1]
  rfl

/-- The end of the retirement sweep (R225). -/
theorem execRetireSweepEnd_swept {s : State} (h3 : s.vstate = 3) (hops : s.te.ops = []) : ∃ t, exec .retireSweepEnd s = .next t ∧ t.vstate = 0 ∧
    t.te = (s.sweepCopies s.next).te := by
  have hpost := State.post_posts ((s.sweepCopies s.next).fset F.verStatus_VSTATE 0) 0x0201 (s.fget F.verStatus_CUR_VERSION)
  have hte := hpost.te rfl
  rw [State.fset_te] at hte
  refine ⟨_, congrArg Host.Outcome.next (if_pos h3), ?_⟩
  rw [State.mcRun_of_empty (by rw [hte]; exact hops)]
  refine ⟨?_, hte⟩
  rw [State.vstate, hpost.fget F.verStatus_VSTATE 0 0 rfl]
  exact fget_fset_same _ _ _ _ _ (by decide) (by decide)

theorem State.withTe (v : State) (x : TableSt) : ∃ u : State, u = { v with te := x } ∧ u.r32 = v.r32 ∧ u.te = x := ⟨_, rfl, rfl, rfl⟩

/-- The end of the discard sweep (R226). -/
theorem execDiscardSweepEnd_swept {s : State} {o : TeOp} (h : RegOp s o) (hd : s.te.discard = some .reg) (h4 : s.vstate = 4) :
    ∃ t, exec .discardSweepEnd s = .next t ∧ t.vstate = 0 ∧ t.te.discard = none ∧ t.flag F.teCmdStatus_BUSY = false ∧
      t.fget F.teCmdStatus_RESULT = 0 ∧ t.te.em = (s.sweepCopies s.next).te.em := by
  obtain ⟨u, hu, hr, hte⟩ := ((s.sweepCopies s.next).fset F.verStatus_VSTATE 0).withTe
    { ((s.sweepCopies s.next).fset F.verStatus_VSTATE 0).te with discard := none }
  rw [State.fset_te] at hte
  have hops : u.te.ops = s.te.ops := by
    rw [hte]
    rfl
  have hhead : u.teHead .reg = some o := by
    unfold State.teHead
    rw [hops]
    exact h.head
  have hexec : exec .discardSweepEnd s = .next (u.teFinish .reg o 0 []).mcRun := by
    show execDiscardSweepEnd s = _
    unfold execDiscardSweepEnd
    rw [if_neg (by rw [h4]; decide), hd]
    dsimp only
    rw [← hu, hhead]
  have hfin := State.teFinish_te (s := u) 0 [] h.2.1
  obtain ⟨hbusy, hres⟩ := State.teFinish_status (s := u) [] h.2.1 (r := 0) (by decide)
  refine ⟨_, hexec, ?_⟩
  rw [State.mcRun_of_empty (h.finish_ops hops 0)]
  refine ⟨?_, by rw [hfin, hte], hbusy, hres, by rw [hfin, hte]⟩
  rw [State.vstate, fget_of_rd F.verStatus_VSTATE ((State.teFinish_onlyRegs (s := u) 0 [] h.2.1 _ _ _ (by decide)).trans (rd_of_r32 hr _ _ _))]
  exact fget_fset_same _ F.verStatus_VSTATE 0 0 0 (by decide) (by decide)

/-- A DISCARD in STAGED (R226). -/
theorem execDiscard_staged {s : State} {o : TeOp} (hh : s.teHead .reg = some o) (h6 : o.op = 6) (hd : s.te.discard = none) (h1 : s.vstate = 1) :
    ∃ t, exec (.discard none) s = .next t ∧ t.vstate = 4 ∧ t.te.discard = some .reg ∧ t.te.em = s.te.em := by
  refine ⟨(({ s with te := { s.te with discard := some .reg } }).fset F.verStatus_VSTATE 4).measureRestart, ?_, ?_, ?_, ?_⟩
  · show execDiscard none s = _
    unfold execDiscard srcOf
    dsimp only
    rw [hh]
    dsimp only
    rw [if_neg (by rw [h6, s.teHolds_quiet (Or.inr h1), hd]; decide), if_pos h1]
  · rw [State.vstate, (State.measureRestart_keeps (.rfl' (.avoid [.verStatus]) _)).fget F.verStatus_VSTATE 0 0 rfl]
    exact fget_fset_same _ F.verStatus_VSTATE 4 0 0 (by decide) (by decide)
  · rw [State.measureRestart, State.fset_te]
  · rw [State.measureRestart, State.fset_te]

/-- A DISCARD in QUIET (R226). -/
theorem execDiscard_quiet {s : State} {o : TeOp} (h : RegOp s o) (h6 : o.op = 6) (hd : s.te.discard = none) (h0 : s.vstate = 0) :
    ∃ t, exec (.discard none) s = .next t ∧ t.vstate = 0 ∧ t.flag F.teCmdStatus_BUSY = false ∧ t.fget F.teCmdStatus_RESULT = 0 ∧
      t.te.em = s.te.em ∧ t.te.lpm = s.te.lpm := by
  have hexec : exec (.discard none) s = .next (s.teFinish .reg o 0 []).mcRun := by
    show execDiscard none s = _
    unfold execDiscard srcOf
    dsimp only
    rw [h.head]
    dsimp only
    rw [if_neg (by rw [h6, s.teHolds_quiet (Or.inl h0), hd]; decide), if_neg (by omega)]
  have hte := State.teFinish_te (s := s) 0 [] h.2.1
  obtain ⟨hbusy, hres⟩ := State.teFinish_status (s := s) [] h.2.1 (r := 0) (by decide)
  refine ⟨_, hexec, ?_⟩
  rw [State.mcRun_of_empty (h.finish_ops rfl 0)]
  refine ⟨?_, hbusy, hres, by rw [hte], by rw [hte]⟩
  exact (fget_of_rd F.verStatus_VSTATE (State.teFinish_onlyRegs (s := s) 0 [] h.2.1 _ _ _ (by decide))).trans h0

theorem execInflightDrained_clear {s : State} (h2 : s.vstate = 2) (h : ∀ ti : TileIx, s.tileOn ti = true → s.inflight ti s.next = 0) :
    exec .inflightDrained s = .next (s.fset F.verStatus_VSTATE 3) := by
  refine congrArg Host.Outcome.next (if_pos ⟨h2, List.all_eq_true.2 fun t ht => decide_eq_true ?_⟩)
  obtain ⟨hr, hon⟩ := List.mem_filter.1 ht
  exact h ⟨t, List.mem_range.1 hr⟩ hon

theorem execInflightDrained_waits {s : State} (ti : TileIx) (hon : s.tileOn ti = true) (h : s.inflight ti s.next ≠ 0) :
    exec .inflightDrained s = .next s := by
  refine congrArg Host.Outcome.next (if_neg fun hc => h ?_)
  exact of_decide_eq_true (List.all_eq_true.1 hc.2 ti (State.mem_clocked ti.isLt hon))

/-- Settles O22: the registers and tables after each step of a version's course. -/
theorem versionCourse : Obligations.VersionCourse := by
  intro s
  refine ⟨fun o hh h5 hc => ?_, fun hc => ?_, fun x hx => execVersionChange_some hx, fun hx => ?_, fun h2 h => ?_,
    fun ti => execInflightDrained_waits ti, fun h3 hops => ?_, fun o hh h6 hd h1 => execDiscard_staged hh h6 hd h1,
    fun o h h6 hd h0 => execDiscard_quiet h h6 hd h0, fun o h hd h4 => ?_⟩
  · show execCommit none s = _
    unfold execCommit srcOf
    dsimp only
    rw [hh]
    dsimp only
    rw [if_pos ⟨h5, hc⟩]
  · unfold State.teHeld
    rw [List.isEmpty_eq_false_iff.2 hc]
    rfl
  · show execVersionChange s = _
    unfold execVersionChange
    rw [hx]
  · exact ⟨_, execInflightDrained_clear h2 h, fget_fset_same _ _ _ _ _ (by decide) (by decide),
      OnlyRegs.fset (f := F.verStatus_VSTATE) (OnlyRegs.refl _ s) 3 0 0 (by decide), State.fset_te s _ _ _ _⟩
  · obtain ⟨t, hexec, hvs, hte⟩ := execRetireSweepEnd_swept h3 hops
    refine ⟨t, hexec, hvs, ?_⟩
    unfold State.emAt State.aclAt
    rw [hte]
    exact ⟨fun i e he => State.sweepCopies_emAt he, fun e he => State.sweepCopies_lpm he, fun i e he => State.sweepCopies_aclAt he,
      fun i e he hp => State.sweepCopies_emAt_cur he hp, fun i e he hp => State.sweepCopies_aclAt_cur he hp⟩
  · obtain ⟨t, hexec, hvs, hdis, hbusy, hres, hem⟩ := execDiscardSweepEnd_swept h hd h4
    refine ⟨t, hexec, hvs, hdis, hbusy, hres, ?_⟩
    unfold State.emAt
    rw [hem]
    exact ⟨fun i e he => State.sweepCopies_emAt he, fun i e he hp => State.sweepCopies_emAt_cur he hp⟩

end Sys2Proof.Machine
end

section
/-!
PROOF. Writes of the data path (R234 to R237) and aging (R238 to R240).
-/

set_option Elab.async false
set_option exponentiation.threshold 4096
set_option maxRecDepth 20000

namespace Sys2Proof.Machine

/-! ## Learning -/

/-- The entry that a learning effect makes of a key (R234). -/
def State.learnt (s : State) (d : DpOp) (k : Nat) (key : List Byte) : EmEntry :=
  { part := k, p0 := true, p1 := true, learned := true, static := bitAt (byteAt d.arg 12) 1, lport := d.iport, key := key,
    action := bytesAt d.arg 0 12, stamps := s.newStamps }

section
variable {s : State} {d : DpOp} {tid : Nat} {key : List Byte}

theorem State.learn_none (hp : d.probe = none) : s.learn d = s.bump .cntDpDiscard := by
  unfold State.learn
  rw [hp]

/-- A learning effect on a partition that learns and holds no copy of its key (R234). -/
theorem State.learn_new (hp : d.probe = some (tid, key)) (hkind : tidKind tid = 1) (hen : s.flag F.tblCfg0_LEARN_EN (tid - 0x10) = true)
    (hw : s.emWidth (tid - 0x10) ≠ 2) (hr : (s.emRange (tid - 0x10)).2 ≠ 0) (hc : s.emCopies (tid - 0x10) (s.emKey (tid - 0x10) key) = [])
    (hplace : s.overLimit d.iport = false → d.place = none) : s.learn d =
    if s.overLimit d.iport then s.bump .cntLearnLimit
    else match s.emFree (tid - 0x10) (s.emKey (tid - 0x10) key) with
      | none => s.bump .cntLearnNospace
      | some i => (s.emPut i (some (s.learnt d (tid - 0x10) (s.emKey (tid - 0x10) key)))).bump .cntLearned := by
  unfold State.learn
  rw [hp]
  dsimp only
  rw [if_neg (by rw [hkind, hen]; simp [hw, hr]), hc, if_neg (by decide)]
  dsimp only
  split
  · rfl
  · next hl =>
    rw [hplace (Bool.eq_false_iff.2 hl)]
    rfl

end

/-- The engine with the head of its data-path queue taken (R212). -/
def State.dpTaken (s : State) : State := (s.slotTaken .dp).dpPop

theorem State.dpTaken_sameEmRegs (s : State) : SameEmRegs s s.dpTaken := ⟨fun _ _ => rfl, fun _ _ => rfl⟩

theorem execLearnApply_head {s : State} {d : DpOp} {q : List DpOp} (hq : s.te.dpq = d :: q) (hturn : s.teTurn .dp = true) (hl : d.learn = true) :
    exec .learnApply s = .next (s.dpTaken.learn d).mcRun := by
  show execLearnApply s = _
  unfold execLearnApply
  rw [hq]
  dsimp only
  rw [if_pos ⟨hl, hturn⟩]
  rfl

theorem execTwriteApply_head {s : State} {d : DpOp} {q : List DpOp} (hq : s.te.dpq = d :: q) (hturn : s.teTurn .dp = true) (hl : d.learn = false) :
    exec .twriteApply s = .next (match s.dpTaken.twriteOp d.arg with
        | none => s.dpTaken.bump .cntDpDiscard
        | some o => if (s.dpTaken.teDo o).1 = 0 then (s.dpTaken.teDo o).2.2 else s.dpTaken.bump .cntDpDiscard : State).mcRun := by
  show execTwriteApply s = _
  unfold execTwriteApply
  rw [hq]
  dsimp only
  rw [if_neg (by rw [hl, hturn]; decide)]
  rfl

/-- A TWRITE of SET_LIVE where the data path may write it (R237). -/
theorem State.twriteOp_live {s : State} {arg : List Byte} (h7 : byteAt arg 0 = 7) (h41 : byteAt arg 1 = 0x41)
    (hlive : s.flag F.teCtl_DP_LIVE_EN = true) : ∃ o, s.twriteOp arg = some o ∧ o.tid = 0x41 ∧ o.op = 7 ∧
      o.index = beNat (bytesAt arg 4 4) % 2 ^ 18 + beNat (bytesAt arg 4 4) / 2 ^ 31 * 2 ^ 31 := by
  unfold State.twriteOp
  dsimp only
  rw [if_pos h7, if_pos ⟨h41, hlive⟩]
  exact ⟨_, rfl, h41, h7, rfl⟩

theorem live_index (x : Nat) : (x % 2 ^ 18 + x / 2 ^ 31 * 2 ^ 31) % 2 ^ 31 = x % 2 ^ 18 ∧
    bitAt (x % 2 ^ 18 + x / 2 ^ 31 * 2 ^ 31) 31 = bitAt x 31 := by
  refine ⟨by omega, ?_⟩
  unfold bitAt
  rw [Nat.testBit_eq_decide_div_mod_eq, Nat.testBit_eq_decide_div_mod_eq, show (x % 2 ^ 18 + x / 2 ^ 31 * 2 ^ 31) / 2 ^ 31 = x / 2 ^ 31 by omega]

theorem State.emKey_congr {s t : State} (h : SameEmRegs s t) (k : Nat) (key : List Byte) : t.emKey k key = s.emKey k key := by
  unfold State.emKey
  rw [State.emKeyLen_congr h]

theorem State.emFree_congr {s t : State} (h : SameEmRegs s t) (hem : t.te.em = s.te.em) (k : Nat) (key : List Byte) :
    t.emFree k key = s.emFree k key := by
  unfold State.emFree State.emAt
  rw [State.emCands_congr h, hem]

/-- An MC operation that has its turn moves none of the data path's counters. -/
theorem State.mcRun_counter (s : State) {n : RName} (h : (Touch.avoid [.cntDpDiscard, .cntLearned, .cntLearnLimit, .cntLearnNospace, .cntAged]).has n = false) :
    s.mcRun.rdw n = s.rdw n := (State.mcRun_keeps (.rfl' (.avoid [.cntDpDiscard, .cntLearned, .cntLearnLimit, .cntLearnNospace, .cntAged]) s)).rdw n 0 0 h

theorem dataPathWrites : Claims.DataPathWrites := by
  intro s d q tid key hq hturn
  have hdpq : s.dpTaken.te.dpq = q := by
    show s.te.dpq.drop 1 = q
    rw [hq]
    rfl
  have hregs := s.dpTaken_sameEmRegs
  have hbump {u : State} (n : RName) (hu : u = s.dpTaken.bump n)
      (hn : (Touch.avoid [.cntDpDiscard, .cntLearned, .cntLearnLimit, .cntLearnNospace, .cntAged]).has n = false) :
      u.mcRun.te.dpq = q ∧ u.mcRun.te.em = s.te.em ∧ u.mcRun.te.members = s.te.members ∧ u.mcRun.rdw n = s.rdw n + 1#64 := by
    have hte : u.te = s.dpTaken.te := by
      rw [hu, State.bump_te]
    refine ⟨?_, ?_, ?_, ?_⟩
    · rw [TableSt.dpq_of_rest u.mcRun_rest, hte, hdpq]
    · rw [TableSt.em_of_rest u.mcRun_rest, hte]
      rfl
    · rw [TableSt.members_of_rest u.mcRun_rest, hte]
      rfl
    · rw [u.mcRun_counter hn, hu, rdw_bump_same]
      rfl
  refine ⟨fun hl hp => ?_, fun hl hp hkind hen hw hr hc => ?_, fun hl h7 h41 hlive => ?_, fun hl hop => ?_⟩
  · obtain ⟨h1, h2, -, h4⟩ := hbump .cntDpDiscard (State.learn_none hp) rfl
    exact ⟨_, execLearnApply_head hq hturn hl, h1, h2, h4⟩
  · have hnew (hplace : s.overLimit d.iport = false → d.place = none) := State.learn_new (s := s.dpTaken) hp hkind hen hw hr
      ((State.emCopies_congr hregs rfl _ _).trans hc) hplace
    refine ⟨fun hover => ?_, fun i hover hplace hfree => ?_, fun hover hplace hfree => ?_⟩
    · obtain ⟨-, h2, -, h4⟩ := hbump .cntLearnLimit ((hnew (fun h => absurd (hover.symm.trans h) (by decide))).trans (if_pos hover)) rfl
      exact ⟨_, execLearnApply_head hq hturn hl, h2, h4⟩
    · have hfree' : s.dpTaken.emFree (tid - 0x10) (s.dpTaken.emKey (tid - 0x10) key) = some i :=
        (State.emFree_congr hregs rfl _ _).trans hfree
      obtain ⟨u, hu⟩ : ∃ u, u = s.dpTaken.emPut i (some (s.dpTaken.learnt d (tid - 0x10) (s.dpTaken.emKey (tid - 0x10) key))) := ⟨_, rfl⟩
      have hlearn : s.dpTaken.learn d = u.bump .cntLearned := by
        rw [hnew (fun _ => hplace), if_neg (by rw [show s.dpTaken.overLimit d.iport = false from hover]; decide), hfree', hu]
      have hte : (u.bump .cntLearned).mcRun.te.em = u.te.em := by
        rw [TableSt.em_of_rest (State.mcRun_rest _), State.bump_te]
      have hat (j : Nat) : (u.bump .cntLearned).mcRun.emAt j = u.emAt j := by
        unfold State.emAt
        rw [hte]
      refine ⟨_, s.dpTaken.learnt d (tid - 0x10) (s.dpTaken.emKey (tid - 0x10) key), execLearnApply_head hq hturn hl, ?_, ?_, rfl, rfl, rfl, rfl,
        rfl, rfl, rfl, fun j hj => ?_, ?_⟩
      · rw [hlearn, hat, hu, State.emPut_emAt]
      · exact State.emKey_congr hregs _ _
      · rw [hlearn, hat, hu, State.emPut_emAt_ne _ hj]
        rfl
      · rw [hlearn, State.mcRun_counter _ rfl, rdw_bump_same, hu]
        rfl
    · have hfree' : s.dpTaken.emFree (tid - 0x10) (s.dpTaken.emKey (tid - 0x10) key) = none :=
        (State.emFree_congr hregs rfl _ _).trans hfree
      have hlearn : s.dpTaken.learn d = s.dpTaken.bump .cntLearnNospace := by
        rw [hnew (fun _ => hplace), if_neg (by rw [show s.dpTaken.overLimit d.iport = false from hover]; decide), hfree']
      obtain ⟨-, h2, -, h4⟩ := hbump .cntLearnNospace hlearn rfl
      exact ⟨_, execLearnApply_head hq hturn hl, h2, h4⟩
  · obtain ⟨o, ho, htid, hop, hix⟩ := State.twriteOp_live (s := s.dpTaken) h7 h41 hlive
    have hlt : beNat (bytesAt d.arg 4 4) % 2 ^ 18 < 262144 := Nat.mod_lt _ (by decide)
    obtain ⟨hmod, hbit⟩ := live_index (beNat (bytesAt d.arg 4 4))
    have hdo := State.teDo_setLive (s := s.dpTaken) htid hop (by rw [hix, hmod]; exact hlt)
    rw [hix, hmod, hbit] at hdo
    obtain ⟨u, hu⟩ : ∃ u, u = s.dpTaken.setLive (beNat (bytesAt d.arg 4 4) % 2 ^ 18) (bitAt (beNat (bytesAt d.arg 4 4)) 31) := ⟨_, rfl⟩
    have hexec : exec .twriteApply s = .next u.mcRun := by
      rw [execTwriteApply_head hq hturn hl, ho]
      dsimp only
      rw [hdo, hu]
      rfl
    refine ⟨_, hexec, ?_, ?_⟩
    · rw [TableSt.dpq_of_rest u.mcRun_rest, hu]
      exact hdpq
    · rw [TableSt.members_of_rest u.mcRun_rest, hu, State.setLive, State.setMember, tget_tset_same, getLsbD_setLive, if_pos rfl]
  · have hnone : s.dpTaken.twriteOp d.arg = none := by
      unfold State.twriteOp
      dsimp only
      rw [if_neg (by omega), if_neg (by omega)]
    obtain ⟨h1, h2, h3, h4⟩ := hbump .cntDpDiscard rfl rfl
    refine ⟨_, execTwriteApply_head hq hturn hl, ?_⟩
    rw [hnone]
    exact ⟨h1, h2, h3, h4⟩

/-! ## Aging -/

section
variable {s : State} {i : Nat} {e : EmEntry}

theorem State.refreshing_nil (h : s.te.refresh = []) : s.refreshing = false := by
  unfold State.refreshing
  rw [h]
  rfl

theorem State.clocked_all {p : Nat → Bool} (h : ∀ ti : TileIx, s.tileOn ti = true → p ti = true) : s.clocked.all p = true :=
  List.all_eq_true.2 fun t ht => h ⟨t, List.mem_range.1 (List.mem_filter.1 ht).1⟩ (List.mem_filter.1 ht).2

theorem State.clocked_any_false {p : Nat → Bool} (h : ∀ ti : TileIx, s.tileOn ti = true → p ti = false) : s.clocked.any p = false :=
  List.any_eq_false.2 fun t ht => by
    rw [h ⟨t, List.mem_range.1 (List.mem_filter.1 ht).1⟩ (List.mem_filter.1 ht).2]
    decide

/-- The scanner's visit of an entry that every clocked tile reads well (R239). -/
theorem execAgeScanVisit_eq (he : s.emAt i = some e) (hrun : s.flag F.teCtl_AGE_RUN = true) (hages : s.ages e = true)
    (hbad : ∀ ti : TileIx, s.tileOn ti = true → s.wordBad ti (0x10 + e.part) i = false) : execAgeScanVisit i s = .next (
      if s.te.refresh.contains i then
        let s1 := s.emSet i (some { e with stamps := s.newStamps })
        { s1 with te := { s1.te with refresh := s1.te.refresh.filter (fun j => decide (j ≠ i)) } }
      else
        let old := s.clocked.filter (fun t => decide (32768 < s.age (nth e.stamps t 0)))
        let cand := !s.refreshing && e.p0 && e.p1 && !e.static &&
          s.clocked.all (fun t => decide (max 1 (s.fget F.tblCfg1_AGE_LIMIT e.part) < s.age (nth e.stamps t 0)))
        let cands := if cand then s.te.cands ++ [(i, e.stamps)] else s.te.cands
        let rewrites := s.te.rewrites ++ old.map (fun t => (i, t, nth e.stamps t 0))
        { s with te := { s.te with cands := cands, rewrites := rewrites } }) := by
  unfold execAgeScanVisit
  rw [he]
  dsimp only
  rw [if_neg (by rw [hrun, hages, s.clocked_any_false hbad]; decide)]

/-- The engine in an aging slot with the oldest candidate taken. -/
def State.candTaken (s : State) (r : List (Nat × List Nat)) : State :=
  State.agePop { s.slotTaken .age with te := { (s.slotTaken .age).te with cands := r } }

/-- The engine in an aging slot with the oldest rewrite taken. -/
def State.rewriteTaken (s : State) (r : List (Nat × Nat × Nat)) : State :=
  State.agePop { s.slotTaken .age with te := { (s.slotTaken .age).te with rewrites := r } }

/-- The compare-and-delete of an entry, and the notice of it. -/
def State.ageOut (s : State) (i : Nat) (e : EmEntry) : State :=
  let u := (s.emPut i none).bump .cntAged
  if u.flag F.tblCfg0_AGE_NOTIFY e.part then u.post 0x0202 (i + e.part * 2 ^ 19) else u

theorem State.ageOut_te (s : State) (i : Nat) (e : EmEntry) : (s.ageOut i e).te = (s.emPut i none).te ∧
    (s.ageOut i e).rdw .cntAged = s.rdw .cntAged + 1#64 := by
  obtain ⟨u, hu⟩ : ∃ u, u = (s.emPut i none).bump .cntAged := ⟨_, rfl⟩
  have hcnt : u.rdw .cntAged = s.rdw .cntAged + 1#64 := by
    rw [hu, rdw_bump_same]
    rfl
  have hte : u.te = (s.emPut i none).te := by
    rw [hu, State.bump_te]
  unfold State.ageOut
  dsimp only
  rw [← hu]
  split
  · exact ⟨((u.post_posts _ _).te rfl).trans hte, ((u.post_posts _ _).rdw .cntAged 0 0 rfl).trans hcnt⟩
  · exact ⟨hte, hcnt⟩

/-- The compare-and-delete of the oldest candidate (R239). -/
theorem execAgeCompareDelete_eq {st : List Nat} {r : List (Nat × List Nat)} (hc : s.te.cands = (i, st) :: r) (hturn : s.teTurn .age = true)
    (he : s.emAt i = some e) : execAgeCompareDelete s = .next (if s.refreshing = false ∧ e.p0 = true ∧ e.p1 = true ∧
      s.clocked.all (fun t => decide (nth e.stamps t 0 = nth st t 0)) = true then (s.candTaken r).ageOut i e else s.candTaken r).mcRun := by
  have he' : (s.candTaken r).emAt i = some e := he
  unfold execAgeCompareDelete
  rw [hc]
  dsimp only
  rw [if_neg (by rw [hturn]; decide)]
  unfold State.candTaken at he'
  dsimp only at he'
  rw [he']
  rfl

/-- The rewrite of the oldest stamp that is too old (R239). -/
theorem execAgeStampRewrite_eq {t st : Nat} {r : List (Nat × Nat × Nat)} (hc : s.te.rewrites = (i, t, st) :: r) (hturn : s.teTurn .age = true)
    (he : s.emAt i = some e) (hst : nth e.stamps t 0 = st) : execAgeStampRewrite s =
    .next ((s.rewriteTaken r).emSet i (some { e with stamps := putNth e.stamps t ((s.ageNow + 32768) % 65536) })).mcRun := by
  have he' : (s.rewriteTaken r).emAt i = some e := he
  unfold execAgeStampRewrite
  rw [hc]
  dsimp only
  rw [if_neg (by rw [hturn]; decide)]
  unfold State.rewriteTaken at he'
  dsimp only at he'
  rw [he']
  dsimp only
  rw [if_pos hst]
  rfl

end

theorem aging : Claims.Aging := by
  intro s i e he
  refine ⟨⟨s.fset F.ageNow_V (s.ageNow + 1), rfl, ?_, OnlyRegs.fset (f := F.ageNow_V) (OnlyRegs.refl _ s) _ 0 0 (by decide)⟩,
    fun v => ⟨s.ageTickWrite v, rfl, ?_, ?_, ?_⟩, fun hrun hages hnil hbad => ⟨fun hst => ?_, fun hst h0 h1 hold => ?_⟩,
    fun st r hc hturn href => ⟨fun h0 h1 hst => ?_, fun ti hon hne => ?_⟩, fun hrun hages hmem hbad => ?_, fun ti st r hc hturn hlen hst => ?_⟩
  · exact fget_fset_same _ F.ageNow_V _ 0 0 (by decide) (by decide)
  · exact rd_wr_same _ _ _ _ _
  · exact OnlyRegs.wr (OnlyRegs.refl _ s) _ _ _ (by decide)
  · rfl
  · refine ⟨_, execAgeScanVisit_eq he hrun hages hbad, ?_⟩
    rw [if_neg (by rw [hnil]; simp), hst]
    simp
  · refine ⟨_, execAgeScanVisit_eq he hrun hages hbad, ?_⟩
    rw [if_neg (by rw [hnil]; simp), s.refreshing_nil hnil, h0, h1, hst, s.clocked_all fun ti hti => decide_eq_true (hold ti hti)]
    exact ⟨rfl, rfl⟩
  · have hall : s.clocked.all (fun t => decide (nth e.stamps t 0 = nth st t 0)) = true := s.clocked_all fun _ _ => by rw [hst]; simp
    obtain ⟨hte, hcnt⟩ := (s.candTaken r).ageOut_te i e
    have hat (j : Nat) : ((s.candTaken r).ageOut i e).mcRun.emAt j = ((s.candTaken r).emPut i none).emAt j := by
      unfold State.emAt
      rw [TableSt.em_of_rest (State.mcRun_rest _), hte]
    refine ⟨_, execAgeCompareDelete_eq hc hturn he, ?_⟩
    rw [if_pos ⟨href, h0, h1, hall⟩]
    refine ⟨?_, ?_, ?_, fun j hj => ?_⟩
    · rw [hat, State.emPut_emAt]
    · rw [TableSt.cands_of_rest (State.mcRun_rest _), hte]
      rfl
    · rw [State.mcRun_counter _ rfl, hcnt]
      rfl
    · rw [hat, State.emPut_emAt_ne _ hj]
      rfl
  · have hall : ¬ s.clocked.all (fun t => decide (nth e.stamps t 0 = nth st t 0)) = true := fun h =>
      hne (of_decide_eq_true (List.all_eq_true.1 h ti (State.mem_clocked ti.isLt hon)))
    refine ⟨_, execAgeCompareDelete_eq hc hturn he, ?_⟩
    rw [if_neg fun h => hall h.2.2.2, TableSt.em_of_rest (State.mcRun_rest _), TableSt.cands_of_rest (State.mcRun_rest _)]
    exact ⟨rfl, rfl⟩
  · refine ⟨_, execAgeScanVisit_eq he hrun hages hbad, ?_⟩
    rw [if_pos (List.contains_iff_mem.2 hmem)]
    refine ⟨?_, ?_, rfl⟩
    · show (tget (tset s.te.em i none (some { e with stamps := s.newStamps })) i none).map _ = _
      rw [tget_tset_same]
      rfl
    · intro h
      exact of_decide_eq_true (List.mem_filter.1 h).2 rfl
  · obtain ⟨u, hu⟩ : ∃ u, u = (s.rewriteTaken r).emSet i (some { e with stamps := putNth e.stamps ti ((s.ageNow + 32768) % 65536) }) := ⟨_, rfl⟩
    refine ⟨_, execAgeStampRewrite_eq hc hturn he hst, ?_⟩
    rw [← hu]
    unfold State.emAt
    rw [TableSt.em_of_rest u.mcRun_rest, TableSt.rewrites_of_rest u.mcRun_rest, hu]
    refine ⟨?_, rfl⟩
    unfold State.emSet
    dsimp only
    rw [tget_tset_same]
    unfold putNth nth
    simp [hlen]

/-- Settles O23: what the head of the data-path queue and the aging scanner's queues become, which an MC operation's turn leaves. -/
theorem dataPathWritesAndAging : Obligations.DataPathWritesAndAging := ⟨dataPathWrites, aging⟩

end Sys2Proof.Machine
end

section
/-!
PROOF. Words in error (R203 to R206): their repair or loss, the scrubber, and the spare banks.
-/

set_option Elab.async false
set_option exponentiation.threshold 4096
set_option maxRecDepth 20000

namespace Sys2Proof.Machine

/-! ## What a loss leaves -/

theorem State.tblDrop_safeBanks (s : State) (tid i : Nat) : (s.tblDrop tid i).te.safeBanks = s.te.safeBanks := by
  unfold State.tblDrop
  dsimp only
  split
  · split
    · split <;> rfl
    · rfl
  · split
    · split <;> rfl
    · rfl
  · split
    · split <;> rfl
    · rfl
  · split <;> rfl
  · rfl
  · split
    · rfl
    · split <;> rfl

/-- A member that is clear stays so. -/
theorem State.tblDrop_member_zero {s : State} {j : Nat} (tid i : Nat) (h : tget s.te.members j 0 = 0) : tget (s.tblDrop tid i).te.members j 0 = 0 := by
  unfold State.tblDrop
  dsimp only
  split
  · split
    · split <;> exact h
    · exact h
  · split
    · split <;> exact h
    · exact h
  · split
    · split <;> exact h
    · exact h
  · split <;> exact h
  · show tget (tset s.te.members i 0 0) j 0 = 0
    rw [tget_tset, h, ite_self]
  · split
    · exact h
    · split <;> exact h

theorem State.tblDrop_member (s : State) (i : Nat) : s.tblDrop 0x41 i = (s.setMember i 0).mend 0x41 i := rfl

theorem State.report_te (s : State) (a b c : Nat) : (s.report a b c).te = s.te := (State.report_keeps (.rfl' .butTe s) a b c).te rfl

/-! ## Repair -/

/-- A clocked tile but `t` has a good copy of the word. -/
def State.goodCopy (s : State) (t tid i : Nat) : Bool := s.clocked.any (fun u => decide (u ≠ t) && !s.wordBad u tid i)

theorem State.goodCopy_true {s : State} {t tid i : Nat} (h : ∃ u, u < 16 ∧ s.tileOn u = true ∧ u ≠ t ∧ s.wordBad u tid i = false) :
    s.goodCopy t tid i = true := by
  obtain ⟨u, hu, hon, hne, hgood⟩ := h
  exact List.any_eq_true.2 ⟨u, State.mem_clocked hu hon, by rw [hgood, decide_eq_true hne]; rfl⟩

theorem State.goodCopy_false {s : State} {t tid i : Nat} (h : ∀ u, u < 16 → s.tileOn u = true → u ≠ t → s.wordBad u tid i = true) :
    s.goodCopy t tid i = false := by
  refine List.any_eq_false.2 fun u hu hg => ?_
  obtain ⟨hr, hon⟩ := List.mem_filter.1 hu
  rw [Bool.and_eq_true, Bool.not_eq_true', decide_eq_true_eq] at hg
  rw [h u (List.mem_range.1 hr) hon hg.1] at hg
  exact Bool.noConfusion hg.2

/-- The repaired word: its error is gone and the repair counted. -/
def State.repaired (s : State) (t tid i : Nat) : State :=
  ({ s with te := { s.te with bad := s.te.bad.filter (fun b => decide (b ≠ (t, tid, i))) } }).bump .ttRepairCnt t

theorem execTableWordRepair_eq {s : State} {t tid i : Nat} (h : s.te.bad.find? (fun b => decide (b.1 = t)) = some (t, tid, i)) :
    execTableWordRepair t s = .next (if s.goodCopy t tid i then if tidKind tid = 1 then (s.repaired t tid i).touch t i else s.repaired t tid i
      else (s.tblDrop tid i).report (srcTable t) 0x05 (tblAddr t tid i)) := by
  unfold execTableWordRepair
  rw [h]
  rfl

/-- A stamp that is set changes exact-match entries alone. -/
theorem State.touch_only (s : State) (t i : Nat) : (s.touch t i).te = { s.te with em := (s.touch t i).te.em } ∧ (s.touch t i).r64 = s.r64 := by
  unfold State.touch
  split <;> exact ⟨rfl, rfl⟩

theorem tableWordRepair_copy {s : State} {t tid i : Nat} (h : s.te.bad.find? (fun b => decide (b.1 = t)) = some (t, tid, i))
    (hgood : s.goodCopy t tid i = true) : ∃ u, execTableWordRepair t s = .next u ∧ (t, tid, i) ∉ u.te.bad ∧
      u.rdw .ttRepairCnt t = s.rdw .ttRepairCnt t + 1#64 ∧ u.te.members = s.te.members ∧ u.te.groups = s.te.groups ∧ u.te.lpm = s.te.lpm := by
  have hbad : (t, tid, i) ∉ (s.repaired t tid i).te.bad := fun hm => of_decide_eq_true (List.mem_filter.1 hm).2 rfl
  have hcnt : (s.repaired t tid i).rdw .ttRepairCnt t = s.rdw .ttRepairCnt t + 1#64 := rdw_bump_same _ _ _ _ _
  refine ⟨_, execTableWordRepair_eq h, ?_⟩
  rw [if_pos hgood]
  split
  · obtain ⟨hte, hr64⟩ := (s.repaired t tid i).touch_only t i
    rw [hte]
    refine ⟨hbad, ?_, rfl, rfl, rfl⟩
    unfold State.rdw at hcnt ⊢
    rw [hr64]
    exact hcnt
  · exact ⟨hbad, hcnt, rfl, rfl, rfl⟩

theorem tableWordRepair_lost {s : State} {t i : Nat} (h : s.te.bad.find? (fun b => decide (b.1 = t)) = some (t, 0x41, i))
    (hgood : s.goodCopy t 0x41 i = false) : ∃ u, execTableWordRepair t s = .next u ∧ tget u.te.members i 0 = 0 ∧ ∀ v, (v, 0x41, i) ∉ u.te.bad := by
  refine ⟨_, execTableWordRepair_eq h, ?_⟩
  rw [if_neg (by rw [hgood]; decide), State.report_te, State.tblDrop_member]
  refine ⟨?_, fun v hm => ?_⟩
  · show tget (tset s.te.members i 0 0) i 0 = 0
    exact tget_tset_same _ _ _ _
  have hb := (List.mem_filter.1 hm).2
  simp [sameMem, tidKind] at hb

/-! ## The scrubber -/

theorem State.wordBad_of_mem {s : State} {t tid i : Nat} (h : (t, tid, i) ∈ s.te.bad) : s.wordBad t tid i = true := by
  unfold State.wordBad
  rw [List.contains_iff_mem.2 h]
  rfl

theorem State.tblBad_wordBad (s : State) (t tid i : Nat) : (s.tblBad t tid i).wordBad t tid i = true ∧ (s.tblBad t tid i).te.acl = s.te.acl := by
  obtain ⟨u, hu⟩ : ∃ u, u = if s.wordBad t tid i then s else { s with te := { s.te with bad := s.te.bad ++ [(t, tid, i)] } } := ⟨_, rfl⟩
  have hte : (s.tblBad t tid i).te = u.te := by
    unfold State.tblBad
    rw [← hu, State.report_te, State.bump_te]
  have hbad : u.wordBad t tid i = true ∧ u.te.acl = s.te.acl := by
    rw [hu]
    split
    · next hb => exact ⟨hb, rfl⟩
    · exact ⟨State.wordBad_of_mem (List.mem_append_right _ (List.mem_singleton.2 rfl)), rfl⟩
  unfold State.wordBad
  rw [hte]
  exact hbad

theorem State.aclFind_bad {s : State} {t k i : Nat} {x : AclEntry} (par : Nat) (key : List Byte) (hacl : s.te.acl = [(i, some x)])
    (hbad : s.wordBad t (0x30 + k) i = true) : s.aclFind t k par key = none := by
  unfold State.aclFind
  rw [hacl]
  dsimp only
  rw [List.findSome?_cons, List.findSome?_nil, hbad]
  simp

/-- The range of a TCAM entry is the first that holds it. -/
theorem State.aclRange_first {s : State} {e : Nat} {k : Fin 4} (h : (s.aclRange k).1 ≤ e ∧ e < (s.aclRange k).1 + (s.aclRange k).2)
    (hfirst : ∀ j : Fin 4, j < k → ¬ ((s.aclRange j).1 ≤ e ∧ e < (s.aclRange j).1 + (s.aclRange j).2)) :
    (List.range 4).find? (fun k => decide ((s.aclRange k).1 ≤ e) && decide (e < (s.aclRange k).1 + (s.aclRange k).2)) = some k.val := by
  rw [List.find?_range_eq_some]
  refine ⟨by simpa using h, List.mem_range.2 k.isLt, fun j hj => ?_⟩
  have hn := hfirst ⟨j, hj.trans k.isLt⟩ hj
  rw [Bool.not_eq_true', Bool.and_eq_false_imp, decide_eq_true_eq, decide_eq_false_iff_not]
  exact fun h1 h2 => hn ⟨h1, h2⟩

/-! ## Spare banks -/

/-- A word of a bank that its spare takes: from a good copy, or lost (R205). -/
def State.loadWord (t : Nat) (w : Nat × Nat) (s : State) : State :=
  if s.goodCopy t w.1 w.2 then
    { s with te := { s.te with bad := s.te.bad.filter (fun b => !(decide (b.1 = t) && sameMem b.2.1 w.1 && decide (b.2.2 = w.2))) } }
  else (s.tblDrop w.1 w.2).report (srcTable t) 0x05 (tblAddr t w.1 w.2)

theorem State.loadSpare_eq (s : State) (t m b : Nat) : s.loadSpare t m b = s.each (s.bankWords m b) (State.loadWord t) := rfl

section
variable {s : State} {t : Nat} (w : Nat × Nat)

theorem State.loadWord_onlyRegs : OnlyRegs [.sqStatus, .pend, .cntMsgLost] s (s.loadWord t w) := by
  unfold State.loadWord
  split
  · exact fun _ _ _ _ => rfl
  · exact (State.report_keeps (State.tblDrop_keeps (.rfl' (.onRegs [.sqStatus, .pend, .cntMsgLost]) s) _ _) _ _ _).onlyRegs

theorem State.loadWord_tileOn : (s.loadWord t w).tileOn = s.tileOn := by
  have hrd (n : RName) (k : Nat) (h : n ∉ [.sqStatus, .pend, .cntMsgLost]) : (s.loadWord t w).rd n k = s.rd n k :=
    State.loadWord_onlyRegs w n k 0 h
  unfold State.tileOn
  funext v
  rw [flag_of_rd F.dawnStatus_HORIZON (hrd _ 0 (by decide)), flag_of_rd F.spareTile_TILE_RETIRED (hrd _ v (by decide)),
    flag_of_rd F.spareTile_UNUSABLE (hrd _ v (by decide))]

theorem State.loadWord_safeBanks : (s.loadWord t w).te.safeBanks = s.te.safeBanks := by
  unfold State.loadWord
  split
  · rfl
  · rw [State.report_te, State.tblDrop_safeBanks]

theorem State.loadWord_member_zero {j : Nat} (h : tget s.te.members j 0 = 0) : tget (s.loadWord t w).te.members j 0 = 0 := by
  unfold State.loadWord
  split
  · exact h
  · rw [State.report_te]
    exact State.tblDrop_member_zero _ _ h

theorem State.loadWord_member_lost {j : Nat} (h : s.goodCopy t 0x41 j = false) : tget (s.loadWord t (0x41, j)).te.members j 0 = 0 := by
  unfold State.loadWord
  rw [if_neg (by rw [h]; decide), State.report_te, State.tblDrop_member]
  exact tget_tset_same s.te.members j 0 0

end

theorem State.each_ind_mem {α : Type} {P : State → Prop} {l : List α} {f : α → State → State} {s : State} (h : P s)
    (hf : ∀ a ∈ l, ∀ u, P u → P (f a u)) : P (s.each l f) := by
  induction l generalizing s with
  | nil => exact h
  | cons a r ih => exact ih (hf a List.mem_cons_self s h) fun b hb => hf b (List.mem_cons_of_mem _ hb)

/-- What one element of a list sets, under what every element keeps. -/
theorem State.each_sets_under {α : Type} {I P : State → Prop} {l : List α} {a : α} {f : α → State → State} {s : State} (ha : a ∈ l) (h : I s)
    (hinv : ∀ b u, I u → I (f b u)) (hset : ∀ u, I u → P (f a u)) (hkeep : ∀ b u, P u → P (f b u)) : P (s.each l f) := by
  induction l generalizing s with
  | nil => cases ha
  | cons b r ih =>
    rw [State.each_cons]
    by_cases hr : a ∈ r
    · exact ih hr (hinv b s h)
    · rw [(List.mem_cons.1 ha).resolve_right hr] at hset
      exact State.each_ind (hset s h) hkeep

/-- The state differs from another by errors that are gone. -/
def Mended (s u : State) : Prop := (∃ l, l ⊆ s.te.bad ∧ u.te = { s.te with bad := l }) ∧ u.tileOn = s.tileOn

theorem Mended.goodCopy {s u : State} (h : Mended s u) {t tid i : Nat} (hg : s.goodCopy t tid i = true) : u.goodCopy t tid i = true := by
  obtain ⟨⟨l, hl, hte⟩, hon⟩ := h
  obtain ⟨v, hv, hgood⟩ := List.any_eq_true.1 hg
  rw [Bool.and_eq_true, Bool.not_eq_true'] at hgood
  refine List.any_eq_true.2 ⟨v, ?_, ?_⟩
  · unfold State.clocked
    rw [hon]
    exact hv
  · rw [Bool.and_eq_true, Bool.not_eq_true']
    refine ⟨hgood.1, ?_⟩
    have hs := hgood.2
    unfold State.wordBad at hs ⊢
    rw [hte]
    rw [Bool.or_eq_false_iff] at hs ⊢
    refine ⟨?_, hs.2⟩
    rw [← Bool.not_eq_true, List.contains_iff_mem] at hs ⊢
    exact fun hm => hs.1 (hl hm)

theorem Mended.loadWord {s u : State} (h : Mended s u) {t : Nat} {w : Nat × Nat} (hg : s.goodCopy t w.1 w.2 = true) : Mended s (u.loadWord t w) := by
  have hgood := h.goodCopy hg
  obtain ⟨⟨l, hl, hte⟩, hon⟩ := h
  unfold State.loadWord
  rw [if_pos hgood]
  dsimp only
  rw [hte]
  exact ⟨⟨_, fun x hx => hl (List.mem_filter.1 hx).1, rfl⟩, hon⟩

theorem State.bankFix_regs (s : State) {t m b : Nat} (hm : m < 4) : (s.bankFix t m b).te =
    { s.te with safeBanks := s.te.safeBanks.filter (fun x => decide (x ≠ (t, m, b))), fixedBanks := s.te.fixedBanks ++ [(t, m, b)] } ∧
    bitAt ((s.bankFix t m b).fget F.ttBank_SPARE_FIXED t) m = true := by
  obtain ⟨u, hu, hte⟩ : ∃ u : State, u = { s with te := { s.te with
      safeBanks := s.te.safeBanks.filter (fun x => decide (x ≠ (t, m, b))), fixedBanks := s.te.fixedBanks ++ [(t, m, b)] } } ∧ u.te =
      { s.te with safeBanks := s.te.safeBanks.filter (fun x => decide (x ≠ (t, m, b))), fixedBanks := s.te.fixedBanks ++ [(t, m, b)] } :=
    ⟨_, rfl, rfl⟩
  have heq : s.bankFix t m b = (u.fset F.ttBank_SPARE_FIXED (u.fget F.ttBank_SPARE_FIXED t ||| 2 ^ m) t).spareUsed 1 t (bankIx m b) := by
    rw [hu]
    rfl
  have hk (v : State) := State.spareUsed_keeps (.rfl' { (Touch.avoid [.ttBank]) with te := false } v) 1 t (bankIx m b)
  rw [heq]
  constructor
  · rw [(hk _).te rfl, State.fset_te, hte]
  · rw [(hk _).fget F.ttBank_SPARE_FIXED t 0 rfl, fget_fset_same _ _ _ _ _ (by decide) (by decide)]
    unfold bitAt
    rw [Nat.testBit_mod_two_pow, Nat.testBit_or, Nat.testBit_two_pow_self, Bool.or_true, Bool.and_true]
    exact decide_eq_true hm

theorem execSpareBankLoadDone_eq {s : State} {t m b : Nat} (hsafe : s.te.safeBanks = [(t, m, b)])
    (hfree : bitAt (s.fget F.ttBank_SPARE_FIXED t) m = false) : execSpareBankLoadDone t s = .next ((s.loadSpare t m b).bankFix t m b) := by
  unfold execSpareBankLoadDone
  rw [hsafe, List.find?_cons_of_pos (by rw [hfree]; simp)]

/-- Settles O24: a repair takes the word from a good copy or drops it, and a load of a spare bank does so for each of its words. -/
theorem parityAndBanks : Obligations.ParityAndBanks := by
  intro s ti
  refine ⟨fun tid i hfind => ⟨fun hg => tableWordRepair_copy hfind (State.goodCopy_true hg), fun hg htid => ?_⟩,
    fun e k x par key hx hlo hhi hfirst hacl => ?_, fun e => ?_, fun hc => ⟨_, congrArg Host.Outcome.next (if_pos hc), tget_tset_same s.te.claims ti.val 0 2, OnlyRegs.refl _ _⟩,
    fun hc => ⟨_, congrArg Host.Outcome.next (if_pos hc), ?_, ?_⟩, fun m b tid i hmem hm hb => ?_, fun m b hsafe hm hfree => ?_,
    fun m b hsafe hm hfree hone i hi => ?_⟩
  · subst htid
    exact tableWordRepair_lost hfind (State.goodCopy_false hg)
  · refine ⟨s.tblBad ti (0x30 + k) e, ?_, (s.tblBad_wordBad ti (0x30 + k) e).2, ?_⟩
    · show execTcamScrubVisit ti e true s = _
      unfold execTcamScrubVisit
      rw [State.aclRange_first ⟨hlo, hhi⟩ hfirst]
      exact congrArg Host.Outcome.next (if_pos ⟨rfl, by rw [hx]; rfl⟩)
    · exact State.aclFind_bad par key ((s.tblBad_wordBad ti (0x30 + k) e).2.trans hacl) (s.tblBad_wordBad ti (0x30 + k) e).1
  · exact congrArg Host.Outcome.next (if_neg fun h => Bool.noConfusion h.1)
  · rw [State.fset_te]
    exact tget_tset_same s.te.claims ti.val 0 0
  · exact flag_fset_none _ F.ttBank_CLAIMED ti 0 (by decide) (by decide)
  · unfold State.wordBad
    rw [List.any_eq_true.2 ⟨_, hmem, by simp [hm, hb]⟩, Bool.or_true]
  · obtain ⟨hte, hbit⟩ := (s.loadSpare ti m b).bankFix_regs (t := ti) (b := b) hm
    have hsafe' : (s.loadSpare ti m b).te.safeBanks = s.te.safeBanks := State.each_view (fun u : State => u.te.safeBanks) fun w u => u.loadWord_safeBanks w
    refine ⟨_, execSpareBankLoadDone_eq hsafe hfree, ?_, ?_, hbit, fun hgood => ?_⟩
    · rw [hte]
      show (s.loadSpare ti m b).te.safeBanks.filter _ = []
      rw [hsafe', hsafe]
      simp
    · rw [hte]
      exact List.mem_append_right _ (List.mem_singleton.2 rfl)
    · obtain ⟨⟨l, -, hl⟩, -⟩ : Mended s (s.loadSpare ti m b) := State.each_ind_mem ⟨⟨s.te.bad, fun _ h => h, rfl⟩, rfl⟩
        fun w hw u hu => hu.loadWord (State.goodCopy_true (hgood w hw))
      rw [hte, hl]
      exact ⟨rfl, rfl, rfl, rfl, rfl⟩
  · subst hm
    obtain ⟨hte, -⟩ := (s.loadSpare ti 3 b).bankFix_regs (t := ti) (b := b) (show 3 < 4 by decide)
    refine ⟨_, execSpareBankLoadDone_eq hsafe hfree, ?_⟩
    rw [hte]
    refine State.each_sets_under (I := fun u => u.tileOn = s.tileOn) (P := fun u => tget u.te.members i 0 = 0) hi rfl (fun w u hu => ?_) (fun u hu => ?_)
      fun w u hu => State.loadWord_member_zero w hu
    · exact (u.loadWord_tileOn w).trans hu
    · refine State.loadWord_member_lost (State.goodCopy_false fun v hv hon hne => ?_)
      rw [hu] at hon
      exact absurd (hone v hv hon) hne

end Sys2Proof.Machine
end

section
/-!
PROOF. The configuration registers of the tables (R243 to R245) and the multicast registers (R279, R280).
-/

set_option Elab.async false
set_option exponentiation.threshold 4096
set_option maxRecDepth 20000

namespace Sys2Proof.Machine

/-! ## Table configuration -/

theorem and_or_and_left (a b m n : Word) (h : n &&& m = 0#32) : (a &&& m ||| b &&& n) &&& m = a &&& m := by
  rw [BitVec.and_or_distrib_right, BitVec.and_assoc, BitVec.and_self, BitVec.and_assoc, h, BitVec.and_zero, BitVec.or_zero]

theorem and_or_and_right (a b m n : Word) (h : m &&& n = 0#32) : (a &&& m ||| b &&& n) &&& n = b &&& n := by
  rw [BitVec.or_comm, and_or_and_left b a n m h]

/-- No range meets one of size 0. -/
theorem cfgMeet_zero (top b b' z : Nat) : cfgMeet top b 0 b' z = false ∧ cfgMeet top b z b' 0 = false := by
  unfold cfgMeet
  simp

theorem tableConfiguration : Claims.TableConfiguration := by
  intro s v
  refine ⟨fun h => ⟨s.wr .emSeed v, ?_, rd_wr_same _ _ _ _ _, OnlyRegs.wr (OnlyRegs.refl _ s) _ _ _ (by decide)⟩, fun h => ?_,
    fun h => ⟨s.wr .lpmCfg (v &&& 3#32), ?_, rd_wr_same _ _ _ _ _, OnlyRegs.wr (OnlyRegs.refl _ s) _ _ _ (by decide)⟩, fun h => ?_,
    fun k => ⟨s.tblCfgWrite k v, rfl, ?_, fun hk => ?_, fun hk hz => ?_, fun j hj => ?_, OnlyRegs.wr (OnlyRegs.refl _ s) _ _ _ (by decide)⟩,
    fun k hothers hfree => ⟨s.wr .tcamCfg (v &&& 0x7F3F#32) k, ?_, rd_wr_same _ _ _ _ _, OnlyRegs.wr (OnlyRegs.refl _ s) _ _ _ (by decide)⟩,
    fun k e he hlo hhi => ?_⟩
  · exact congrArg Host.Outcome.next (if_pos (by rw [h]; rfl))
  · exact congrArg Host.Outcome.next (if_neg (by simpa using h))
  · exact congrArg Host.Outcome.next (if_pos (by rw [h]; rfl))
  · exact congrArg Host.Outcome.next (if_neg (by simpa using h))
  · unfold State.tblCfgWrite
    rw [rd_wr_same]
    split
    · exact and_or_and_left _ _ _ _ (by decide)
    · exact and_or_and_left _ _ _ _ (by decide)
  · unfold State.tblCfgWrite
    rw [rd_wr_same, if_pos (by rw [decide_eq_true (Nat.pos_of_ne_zero hk)]; rfl)]
    exact and_or_and_right _ _ _ _ (by decide)
  · have hmeet : (List.range 8).any (fun j => decide (j ≠ k.val) && cfgMeet 128 (bits v.toNat 6 0) (bits v.toNat 15 8) (s.fget F.tblCfg0_BASE j)
        (s.fget F.tblCfg0_SIZE j)) = false := List.any_eq_false.2 fun j _ => by rw [hz, (cfgMeet_zero _ _ _ _).1, Bool.and_false]; decide
    unfold State.tblCfgWrite
    dsimp only
    rw [rd_wr_same, hmeet, hk, if_neg (by decide)]
    exact and_or_and_right _ _ _ _ (by decide)
  · exact rd_wr_inst s _ _ _ (by omega)
  · have hused : s.te.acl.any (fun e => decide ((s.aclRange k).1 ≤ e.1) && decide (e.1 < (s.aclRange k).1 + (s.aclRange k).2)) = false :=
      List.any_eq_false.2 fun e he h => hfree e he (by simpa using h)
    have hmeet : (List.range 4).any (fun j => decide (j ≠ k.val) && cfgMeet 64 (bits v.toNat 5 0) (bits v.toNat 14 8) (s.fget F.tcamCfg_BASE j)
        (s.fget F.tcamCfg_SIZE j)) = false := List.any_eq_false.2 fun j hj h => by
      rw [Bool.and_eq_true, decide_eq_true_eq] at h
      obtain ⟨hne, hm⟩ := h
      rw [hothers ⟨j, List.mem_range.1 hj⟩ (fun he => hne (congrArg Fin.val he)), (cfgMeet_zero _ _ _ _).2] at hm
      exact Bool.noConfusion hm
    refine congrArg Host.Outcome.next (if_neg ?_)
    rw [hused, hmeet]
    decide
  · refine congrArg Host.Outcome.next (if_pos ?_)
    rw [List.any_eq_true.2 ⟨e, he, by rw [decide_eq_true hlo, decide_eq_true hhi]; rfl⟩]
    rfl

/-! ## Groups in both versions -/

theorem grpBit_both {g : BitVec 64} (h : g.toNat % 4 = 3) (c : Nat) : grpBit g c = true := by
  unfold grpBit
  rw [← BitVec.testBit_toNat, Nat.testBit_eq_decide_div_mod_eq, decide_eq_true_eq]
  obtain hc | hc := Nat.mod_two_eq_zero_or_one c <;> rw [hc] <;> omega

theorem grpBit_zero (c : Nat) : grpBit 0 c = false := by
  unfold grpBit
  simp

section
variable {tab : Tab (BitVec 64)} {o : TeOp} {nx : Nat}

theorem grpOp_absent (hst : o.stage = false) (h0 : tget tab (2 * o.index) 0 = 0) (h1 : tget tab (2 * o.index + 1) 0 = 0) :
    (o.op = 1 → grpOp tab o nx = (0, tset tab (2 * o.index) 0 (grpWord o.data grpMask true true))) ∧
    (o.op = 2 ∨ o.op = 3 → grpOp tab o nx = (2, tab)) := by
  have hc : ([2 * o.index, 2 * o.index + 1].filter (fun i => grpBit (tget tab i 0) 0 || grpBit (tget tab i 0) 1)) = [] := by
    simp only [List.filter_cons, List.filter_nil, h0, h1, grpBit_zero, Bool.or_self, Bool.false_eq_true, if_false]
  have hf : [2 * o.index, 2 * o.index + 1].find? (fun i => !grpBit (tget tab i 0) 0 && !grpBit (tget tab i 0) 1) = some (2 * o.index) := by
    simp only [List.find?_cons, h0, grpBit_zero, Bool.not_false, Bool.and_self]
  unfold grpOp
  dsimp only
  rw [hc, hf, hst]
  constructor
  · intro h
    rw [h]
    rfl
  · rintro (h | h) <;> rw [h] <;> rfl

theorem grpOp_both (hst : o.stage = false) (h0 : (tget tab (2 * o.index) 0).toNat % 4 = 3) (h1 : tget tab (2 * o.index + 1) 0 = 0) :
    (o.op = 2 → grpOp tab o nx = (0, tset tab (2 * o.index) 0 (grpWord o.data grpMask true true))) ∧
    (o.op = 3 → grpOp tab o nx = (0, tset tab (2 * o.index) 0 0)) := by
  have hc : ([2 * o.index, 2 * o.index + 1].filter (fun i => grpBit (tget tab i 0) 0 || grpBit (tget tab i 0) 1)) = [2 * o.index] := by
    simp only [List.filter_cons, List.filter_nil, h1, grpBit_zero, grpBit_both h0, Bool.or_self, Bool.false_eq_true, if_false, if_true]
  unfold grpOp
  dsimp only
  rw [hc, hst, List.map_cons, List.map_nil, grpBit_both h0, grpBit_both h0]
  constructor
  · intro h
    rw [h]
    show (0, tset tab (2 * o.index) 0 (grpWord o.data grpMask (grpBit (tget tab (2 * o.index) 0) 0) (grpBit (tget tab (2 * o.index) 0) 1))) = _
    rw [grpBit_both h0, grpBit_both h0]
  · intro h
    rw [h]
    rfl

end

/-- A group word written with both presence bits (R279). -/
theorem grpWord_both (d : List Byte) : (grpWord d grpMask true true).toNat = leNat (bytesAt d 0 8) % 2 ^ 32 / 4 * 4 + 3 := by
  have hmask (x : Nat) : x &&& 0xFFFFFFFC = x % 2 ^ 32 / 4 * 4 := by
    apply Nat.eq_of_testBit_eq
    intro k
    rw [show x % 2 ^ 32 / 4 * 4 = (x % 2 ^ 32) >>> 2 <<< 2 by rw [Nat.shiftLeft_eq, Nat.shiftRight_eq_div_pow],
      show (0xFFFFFFFC : Nat) = (2 ^ 30 - 1) <<< 2 by decide, Nat.testBit_and, Nat.testBit_shiftLeft, Nat.testBit_shiftLeft, Nat.testBit_shiftRight,
      Nat.testBit_two_pow_sub_one, Nat.testBit_mod_two_pow]
    by_cases hk : 2 ≤ k
    · rw [Nat.add_sub_cancel' hk]
      by_cases hk' : k < 32
      · simp [hk, hk', show k - 2 < 30 by omega]
      · simp [hk, hk', show ¬ k - 2 < 30 by omega]
    · simp [hk]
  have hor (x : Nat) : x / 4 * 4 ||| 3 = x / 4 * 4 + 3 := by
    rw [show x / 4 * 4 = x / 4 * 2 ^ 2 by rfl, Nat.mul_comm, ← Nat.two_pow_add_eq_or_of_lt (by decide)]
  unfold grpWord grpMask
  rw [BitVec.toNat_or, BitVec.toNat_and, BitVec.toNat_ofNat, BitVec.toNat_ofNat, BitVec.toNat_ofNat]
  show (leNat (bytesAt d 0 8) % 2 ^ 64 &&& 0xFFFFFFFC) ||| 3 = _
  rw [hmask, hor]
  omega

/-! ## The multicast registers -/

/-- MC_CMD's word of an operation. -/
def mcWord (v : Word) (op : Nat) : Word := (v &&& 0x30#32) ||| 0x80000000#32 ||| BitVec.ofNat 32 op

theorem mcWord_fields (v : Word) {op : Nat} (hop : op = 1 ∨ op = 2 ∨ op = 3 ∨ op = 4 ∨ op = 8) (h4 : bitAt v.toNat 4 = false) :
    bits (mcWord v op).toNat 3 0 = op ∧ bitAt (mcWord v op).toNat 31 = true ∧ bitAt (mcWord v op).toNat 4 = false := by
  have hlow : bits (BitVec.ofNat 32 op).toNat 3 0 = op ∧ bitAt (BitVec.ofNat 32 op).toNat 4 = false := by
    obtain rfl | rfl | rfl | rfl | rfl := hop <;> decide
  unfold mcWord
  rw [BitVec.toNat_or, BitVec.toNat_or, BitVec.toNat_and, bits_or, bits_or, bits_and, hlow.1]
  refine ⟨?_, ?_, ?_⟩
  · rw [show bits (0x30#32).toNat 3 0 = 0 by decide, show bits (0x80000000#32).toNat 3 0 = 0 by decide]
    simp
  · unfold bitAt
    rw [Nat.testBit_or, Nat.testBit_or, show (0x80000000#32).toNat.testBit 31 = true by decide]
    simp
  · have h := hlow.2
    unfold bitAt at h h4 ⊢
    rw [Nat.testBit_or, Nat.testBit_or, Nat.testBit_and, h, h4, show (0x80000000#32).toNat.testBit 4 = false by decide]
    rfl

/-- The operation that MC_CMD starts (R280). -/
def State.mcOpOf (s : State) (v : Word) (op : Nat) : TeOp :=
  { op := op, stage := false, par := bits (mcWord v op).toNat 5 5, tid := 0x50, lport := 0, learned := false, static := false
    index := s.fget F.mcIndex_INDEX
    data := leBytes 4 (s.rd .mcData0).toNat ++ leBytes 4 (s.rd .mcData1).toNat }

/-- The state in which an MC operation has been taken. -/
def State.mcAsked (s : State) (v : Word) (op : Nat) : State :=
  ((s.wr .mcCmd (mcWord v op &&& 0x3F#32)).fset F.mcStatus_BUSY 1).teAccept .mc (s.mcOpOf v op)

theorem State.mcCmdOp_eq {s : State} {v : Word} {op : Nat} (hop : op = 1 ∨ op = 2 ∨ op = 3 ∨ op = 4 ∨ op = 8) (h4 : bitAt v.toNat 4 = false)
    (hbusy : s.flag F.mcStatus_BUSY = false) : s.mcCmdOp op v = (s.mcAsked v op).mcRun := by
  obtain ⟨hbits, hgo, hstage⟩ := mcWord_fields v hop h4
  unfold State.mcCmdOp
  rw [← mcWord]
  unfold State.mcCmdWrite State.mcAsked State.mcOpOf
  dsimp only
  rw [if_neg (by rw [hgo, hbusy]; decide), hbits, if_neg (by omega), hstage]
  rfl

/-- What stands in the engine when an MC operation has been taken and no other waits. -/
structure McAsked (s u : State) (x : TeOp) : Prop where
  te : u.te = { s.te with ops := [(.mc, x)] }
  regs : OnlyRegs [.mcCmd, .mcStatus] s u

theorem State.mcAsked_asked (s : State) (v : Word) (op : Nat) (hops : s.te.ops = []) :
    ∃ x, McAsked s (s.mcAsked v op) x ∧ x.op = op ∧ x.stage = false ∧ x.index = s.fget F.mcIndex_INDEX ∧ x.data = (s.mcOpOf v op).data := by
  refine ⟨{ s.mcOpOf v op with ahead := s.te.dpq.length, aheadAge := s.te.cands.length + s.te.rewrites.length }, ⟨?_, ?_⟩, rfl, rfl, rfl, rfl⟩
  · have h : (s.mcAsked v op).te = { s.te with ops := s.te.ops ++
      [(.mc, { s.mcOpOf v op with ahead := s.te.dpq.length, aheadAge := s.te.cands.length + s.te.rewrites.length })] } := rfl
    rw [h, hops]
    rfl
  · exact OnlyRegs.fset (f := F.mcStatus_BUSY) (OnlyRegs.wr (OnlyRegs.refl _ s) _ _ _ (by decide)) 1 0 0 (by decide)

section
variable {s u : State} {x : TeOp}

theorem McAsked.run (h : McAsked s u x) (hslot : s.slotDue = none) (hvs : s.vstate = 0 ∨ s.vstate = 1) (hst : x.stage = false) (hop : x.op ≠ 5)
    (hop6 : x.op ≠ 6) : u.mcRun = ((u.slotTaken (.src 0)).mcDo x).2.2.teFinish .mc x ((u.slotTaken (.src 0)).mcDo x).1
      ((u.slotTaken (.src 0)).mcDo x).2.1 := by
  obtain ⟨hte, hregs⟩ := h
  have hvs' : u.vstate = s.vstate := fget_of_rd F.verStatus_VSTATE (hregs _ _ _ (by decide))
  have hhold : u.teHolds x = false := u.teHolds_quiet (hvs' ▸ hvs)
  have hturn : u.teTurn (.src 0) = true := by
    have hdue : u.slotDue = none := by
      unfold State.slotDue at hslot ⊢
      rw [hte]
      exact hslot
    have hrr : u.rrNext = some 0 := by
      unfold State.rrNext
      rw [hte]
      simp [headsOf, hhold, hop, hop6, srcCode]
    unfold State.teTurn
    rw [hdue, hrr]
    rfl
  have hhead : u.teHead .mc = some x := by
    unfold State.teHead
    rw [hte]
    rfl
  unfold State.mcRun
  rw [hhead]
  dsimp only
  rw [if_neg (by rw [hhold, hturn]; decide), State.teStaged, if_neg (by rw [hst]; simp)]

end

theorem State.teFinish_mc (s : State) (x : TeOp) {r : Nat} (d : List Byte) (hr : r < 16) :
    (s.teFinish .mc x r d).flag F.mcStatus_BUSY = false ∧ (s.teFinish .mc x r d).fget F.mcStatus_RESULT = r ∧
    (s.teFinish .mc x r d).te = { s.te with ops := dropFirst s.te.ops .mc } ∧
    (d ≠ [] → (s.teFinish .mc x r d).rd .mcData0 = BitVec.ofNat 32 (leNat (bytesAt d 0 4))) := by
  have hfin : s.teFinish .mc x r d = (((if d.isEmpty then { s with te := { s.te with ops := dropFirst s.te.ops .mc } } else
      (({ s with te := { s.te with ops := dropFirst s.te.ops .mc } } : State).wr .mcData0 (BitVec.ofNat 32 (leNat (bytesAt d 0 4)))).wr .mcData1
        (BitVec.ofNat 32 (leNat (bytesAt d 4 4))) : State).fset F.mcStatus_BUSY 0).fset F.mcStatus_RESULT r) := rfl
  rw [hfin]
  refine ⟨?_, ?_, ?_, fun hd => ?_⟩
  · rw [flag_fset_off _ _ _ _ _ _ (by decide) (by decide) (by decide), flag_fset_none _ _ _ _ (by decide) (by decide)]
  · rw [fget_fset_same _ _ _ _ _ (by decide) (by decide)]
    exact Nat.mod_eq_of_lt hr
  · rw [State.fset_te, State.fset_te]
    split <;> rfl
  · rw [rd_fset_reg _ _ _ _ _ _ (by decide), rd_fset_reg _ _ _ _ _ _ (by decide), if_neg (by simpa using hd), rd_wr_reg _ _ _ _ _ _ (by decide),
      rd_wr_same]

theorem State.mcDo_group {s : State} {o : TeOp} (hop : o.op = 1 ∨ o.op = 2 ∨ o.op = 3) (hix : o.index < 16384)
    (hw : o.op ≠ 3 → bits (leNat (bytesAt o.data 0 8)) 31 15 + bits (leNat (bytesAt o.data 0 8)) 10 2 < 131072) :
    s.mcDo o = ((grpOp s.te.mcGroups o s.next).1, [], if (grpOp s.te.mcGroups o s.next).1 = 0 then
      ({ s with te := { s.te with mcGroups := (grpOp s.te.mcGroups o s.next).2 } } : State).mend 0x50 o.index else s) := by
  have hcond : ¬(16384 ≤ o.index ∨ (o.op ≠ 3 ∧ 131072 ≤ bits (leNat (bytesAt o.data 0 8)) 31 15 + bits (leNat (bytesAt o.data 0 8)) 10 2)) := by
    rintro (h | ⟨h3, h⟩)
    · omega
    · have := hw h3
      omega
  unfold State.mcDo
  dsimp only
  split
  · omega
  · omega
  · exact if_neg hcond

/-! ## The data of an MC operation -/

theorem leNat_append (a b : List Byte) : leNat (a ++ b) = leNat a + 256 ^ a.length * leNat b := by
  induction a with
  | nil => simp [leNat]
  | cons x r ih => rw [List.cons_append, leNat, leNat, ih, List.length_cons, Nat.pow_succ]; ring

theorem State.mcOpOf_data (s : State) (v : Word) (op : Nat) :
    leNat (bytesAt (s.mcOpOf v op).data 0 8) = (s.rd .mcData0).toNat + 2 ^ 32 * (s.rd .mcData1).toNat := by
  have h0 := (s.rd .mcData0).isLt
  have h1 := (s.rd .mcData1).isLt
  unfold State.mcOpOf
  rw [bytesAt_self (by rw [List.length_append, leBytes_length, leBytes_length]), leNat_append, leNat_leBytes, leNat_leBytes, leBytes_length,
    show (256 : Nat) ^ 4 = 2 ^ 32 by decide, Nat.mod_eq_of_lt h0, Nat.mod_eq_of_lt h1]

theorem bits_add_high {x y hi lo : Nat} (h : hi < 32) : bits (x + 2 ^ 32 * y) hi lo = bits x hi lo := by
  apply Nat.eq_of_testBit_eq
  intro k
  rw [testBit_bits, testBit_bits]
  by_cases hk : k < hi + 1 - lo
  · rw [← Nat.mod_add_div x (2 ^ 32), show x % 2 ^ 32 + 2 ^ 32 * (x / 2 ^ 32) + 2 ^ 32 * y = x % 2 ^ 32 + 2 ^ 32 * (x / 2 ^ 32 + y) by ring,
      Nat.add_comm (x % 2 ^ 32), Nat.add_comm (x % 2 ^ 32), Nat.testBit_two_pow_mul_add _ (Nat.mod_lt _ (by decide)),
      Nat.testBit_two_pow_mul_add _ (Nat.mod_lt _ (by decide)), if_pos (by omega), if_pos (by omega)]
  · simp [hk]

/-- The engine in the slot of an MC operation that MC_CMD has just started (R280). -/
structure McSlot (s u : State) (x : TeOp) (v : Word) (op : Nat) : Prop where
  groups : u.te.mcGroups = s.te.mcGroups
  members : u.te.mcMembers = s.te.mcMembers
  bad : ∀ tid i, u.badWord tid i = s.badWord tid i
  opcode : x.op = op
  stage : x.stage = false
  index : x.index = s.fget F.mcIndex_INDEX
  data : x.data = (s.mcOpOf v op).data
  run : s.mcCmdOp op v = (u.mcDo x).2.2.teFinish .mc x (u.mcDo x).1 (u.mcDo x).2.1

theorem State.mcSlot {s : State} {v : Word} {op : Nat} (hop : op = 1 ∨ op = 2 ∨ op = 3 ∨ op = 4 ∨ op = 8) (h4 : bitAt v.toNat 4 = false)
    (hbusy : s.flag F.mcStatus_BUSY = false) (hops : s.te.ops = []) (hslot : s.slotDue = none) (hvs : s.vstate = 0 ∨ s.vstate = 1) :
    ∃ u x, McSlot s u x v op := by
  obtain ⟨x, hask, hxop, hst, hix, hdata⟩ := s.mcAsked_asked v op hops
  have hrun := hask.run hslot hvs hst (by omega) (by omega)
  obtain ⟨hte, hregs⟩ := hask
  refine ⟨(s.mcAsked v op).slotTaken (.src 0), x, ?_, ?_, fun tid i => ?_, hxop, hst, hix, hdata, (State.mcCmdOp_eq hop h4 hbusy).trans hrun⟩
  · show (s.mcAsked v op).te.mcGroups = _
    rw [hte]
  · show (s.mcAsked v op).te.mcMembers = _
    rw [hte]
  · have hclock : ((s.mcAsked v op).slotTaken (.src 0)).clocked = s.clocked := by
      show (s.mcAsked v op).clocked = _
      unfold State.clocked State.tileOn
      simp only [flag_of_rd F.dawnStatus_HORIZON (hregs _ _ _ (by decide)), flag_of_rd F.spareTile_TILE_RETIRED (hregs _ _ _ (by decide)),
        flag_of_rd F.spareTile_UNUSABLE (hregs _ _ _ (by decide))]
    unfold State.badWord State.wordBad
    rw [hclock]
    show ((s.mcAsked v op).te.bad.contains _ || (s.mcAsked v op).te.safeBanks.any _) = _
    rw [hte]

/-- What an MC operation answers, and what it leaves, from what `mcDo` gives. -/
theorem McSlot.answers {s u w : State} {x : TeOp} {v : Word} {op r : Nat} {d : List Byte} (h : McSlot s u x v op) (hdo : u.mcDo x = (r, d, w))
    (hr : r < 16) : (s.mcCmdOp op v).flag F.mcStatus_BUSY = false ∧ (s.mcCmdOp op v).fget F.mcStatus_RESULT = r ∧
      (s.mcCmdOp op v).te.mcGroups = w.te.mcGroups ∧ (s.mcCmdOp op v).te.mcMembers = w.te.mcMembers ∧
      (d ≠ [] → (s.mcCmdOp op v).rd .mcData0 = BitVec.ofNat 32 (leNat (bytesAt d 0 4))) := by
  obtain ⟨hbusy, hres, hte, hdata⟩ := w.teFinish_mc x d hr
  rw [h.run, hdo]
  exact ⟨hbusy, hres, by rw [hte], by rw [hte], hdata⟩

section
variable {s u : State} {x : TeOp} {v : Word} {op : Nat}

/-- An operation on a multicast group whose members lie in the table. -/
theorem McSlot.group {r : Nat} {tab : Tab (BitVec 64)} (h : McSlot s u x v op) (hop : op = 1 ∨ op = 2 ∨ op = 3) (hix : s.fget F.mcIndex_INDEX < 16384)
    (hw : op ≠ 3 → bits ((s.rd .mcData0).toNat) 31 15 + bits ((s.rd .mcData0).toNat) 10 2 < 131072)
    (hgrp : grpOp s.te.mcGroups x u.next = (r, tab)) (hr : r < 16) (htab : r ≠ 0 → tab = s.te.mcGroups) :
    (s.mcCmdOp op v).flag F.mcStatus_BUSY = false ∧ (s.mcCmdOp op v).fget F.mcStatus_RESULT = r ∧ (s.mcCmdOp op v).te.mcGroups = tab ∧
    (s.mcCmdOp op v).te.mcMembers = s.te.mcMembers := by
  have hdo := State.mcDo_group (s := u) (o := x) (by rw [h.opcode]; exact hop) (by rw [h.index]; exact hix) (by
    rw [h.opcode, h.data, State.mcOpOf_data, bits_add_high (by decide), bits_add_high (by decide)]
    exact hw)
  rw [h.groups, hgrp] at hdo
  obtain ⟨hbusy, hres, hgroups, hmembers, -⟩ := h.answers hdo hr
  refine ⟨hbusy, hres, ?_, ?_⟩
  · rw [hgroups]
    split
    · rfl
    · next h0 => rw [h.groups, htab h0]
  · rw [hmembers]
    split
    · exact h.members
    · exact h.members

/-- The word of a group that INSERT or MODIFY writes (R279). -/
theorem McSlot.word (h : McSlot s u x v op) : (grpWord x.data grpMask true true).toNat % 2 ^ 32 = (s.rd .mcData0).toNat / 4 * 4 + 3 := by
  have h0 := (s.rd .mcData0).isLt
  rw [grpWord_both, h.data, State.mcOpOf_data]
  omega

end

theorem State.mcDo_read {s : State} {o : TeOp} (hop : o.op = 4) (hix : o.index < 16384) : s.mcDo o =
    match grpSlot s.te.mcGroups o.index o.par with
    | some (_, g) => if s.badWord 0x50 o.index then (6, [], s) else (0, leBytes 8 g.toNat, s)
    | none => (2, [], s) := by
  unfold State.mcDo
  rw [hop]
  exact if_neg (by omega)

theorem State.mcDo_member {s : State} {o : TeOp} (hop : o.op = 8) (hix : o.index < 131072) : s.mcDo o =
    (0, [], ({ s with te := { s.te with mcMembers := tset s.te.mcMembers o.index 0 (BitVec.ofNat 64 (leNat (bytesAt o.data 0 8) % 1024)) } } :
      State).mend mcMbrTid o.index) := by
  unfold State.mcDo
  rw [hop]
  exact if_neg (by omega)

theorem grpSlot_absent {tab : Tab (BitVec 64)} {i par : Nat} (h0 : tget tab (2 * i) 0 = 0) (h1 : tget tab (2 * i + 1) 0 = 0) :
    grpSlot tab i par = none := by
  unfold grpSlot
  simp only [List.map_cons, List.map_nil, List.find?_cons, List.find?_nil, h0, h1, grpBit_zero]

theorem grpSlot_both {tab : Tab (BitVec 64)} {i par : Nat} (h0 : (tget tab (2 * i) 0).toNat % 4 = 3) :
    grpSlot tab i par = some (2 * i, tget tab (2 * i) 0) := by
  unfold grpSlot
  simp only [List.map_cons, List.map_nil, List.find?_cons, grpBit_both h0]

theorem multicastRegisters : Claims.MulticastRegisters := by
  intro s v i hbusy hops hslot hvs hi h4
  have hstart {op : Nat} (hop : op = 1 ∨ op = 2 ∨ op = 3 ∨ op = 4 ∨ op = 8) := State.mcSlot hop h4 hbusy hops hslot hvs
  obtain ⟨u1, x1, h1⟩ := hstart (op := 1) (by decide)
  obtain ⟨u2, x2, h2⟩ := hstart (op := 2) (by decide)
  obtain ⟨u3, x3, h3⟩ := hstart (op := 3) (by decide)
  obtain ⟨u4, x4, h4'⟩ := hstart (op := 4) (by decide)
  obtain ⟨u8, x8, h8⟩ := hstart (op := 8) (by decide)
  subst hi
  refine ⟨fun hix hz0 hz1 hw => ⟨?_, ?_, ?_, ?_⟩, fun g hix hg hg3 hz1 => ⟨?_, fun hw => ?_, fun hbad => ?_⟩, fun hix => ?_⟩
  · obtain ⟨hb, hr, hgr, hm⟩ := h1.group (by decide) hix (fun _ => hw) ((grpOp_absent h1.stage (h1.index ▸ hz0) (h1.index ▸ hz1)).1 h1.opcode) (by decide)
      (fun h => absurd rfl h)
    refine ⟨_, rfl, hb, hr, ?_, hm⟩
    rw [hgr, h1.index, tget_tset_same]
    exact h1.word
  · obtain ⟨-, hr, hgr, -⟩ := h2.group (by decide) hix (fun _ => hw)
      ((grpOp_absent h2.stage (h2.index ▸ hz0) (h2.index ▸ hz1)).2 (Or.inl h2.opcode)) (by decide) (fun _ => rfl)
    exact ⟨_, rfl, hr, hgr⟩
  · obtain ⟨-, hr, hgr, -⟩ := h3.group (by decide) hix (fun _ => hw)
      ((grpOp_absent h3.stage (h3.index ▸ hz0) (h3.index ▸ hz1)).2 (Or.inr h3.opcode)) (by decide) (fun _ => rfl)
    exact ⟨_, rfl, hr, hgr⟩
  · have hdo := State.mcDo_read (s := u4) h4'.opcode (h4'.index ▸ hix)
    rw [h4'.groups, h4'.index, grpSlot_absent hz0 hz1] at hdo
    obtain ⟨-, hr, hgr, hm, -⟩ := h4'.answers hdo (by decide)
    exact ⟨_, rfl, hr, hgr.trans h4'.groups, hm.trans h4'.members⟩
  · subst hg
    obtain ⟨-, hr, hgr, -⟩ := h3.group (by decide) hix (fun h => absurd rfl h)
      ((grpOp_both h3.stage (h3.index ▸ hg3) (h3.index ▸ hz1)).2 h3.opcode) (by decide) (fun h => absurd rfl h)
    refine ⟨_, rfl, hr, ?_⟩
    rw [hgr, h3.index, tget_tset_same]
  · subst hg
    obtain ⟨-, hr, hgr, -⟩ := h2.group (by decide) hix (fun _ => hw)
      ((grpOp_both h2.stage (h2.index ▸ hg3) (h2.index ▸ hz1)).1 h2.opcode) (by decide) (fun h => absurd rfl h)
    refine ⟨_, rfl, hr, ?_⟩
    rw [hgr, h2.index, tget_tset_same]
    exact h2.word
  · subst hg
    have hdo := State.mcDo_read (s := u4) h4'.opcode (h4'.index ▸ hix)
    rw [h4'.groups, h4'.index, grpSlot_both hg3] at hdo
    dsimp only at hdo
    rw [h4'.bad, hbad] at hdo
    obtain ⟨-, hr, -, -, hd⟩ := h4'.answers hdo (by decide)
    refine ⟨_, rfl, hr, (hd (by simp [leBytes])).trans ?_⟩
    have hlow (n : Nat) : bytesAt (leBytes 8 n) 0 4 = leBytes 4 n := by simp [leBytes, bytesAt]
    apply BitVec.eq_of_toNat_eq
    rw [hlow, leNat_leBytes, BitVec.toNat_ofNat, BitVec.toNat_ofNat, show (256 : Nat) ^ 4 = 2 ^ 32 by decide, Nat.mod_mod]
  · have hdo := State.mcDo_member (s := u8) h8.opcode (h8.index ▸ hix)
    obtain ⟨-, hr, hgr, hm, -⟩ := h8.answers hdo (by decide)
    have hmem : (s.mcCmdOp 8 v).te.mcMembers = tset s.te.mcMembers (s.fget F.mcIndex_INDEX) 0 (BitVec.ofNat 64 ((s.rd .mcData0).toNat % 1024)) := by
      rw [hm, ← h8.members, ← h8.index, show (s.rd .mcData0).toNat % 1024 = leNat (bytesAt x8.data 0 8) % 1024 by
        rw [h8.data, State.mcOpOf_data]
        omega]
      rfl
    refine ⟨_, rfl, hr, ?_, fun j hj => ?_, hgr.trans h8.groups⟩
    · rw [hmem, tget_tset_same]
    · rw [hmem, tget_tset_ne _ _ _ _ hj]

/-- Settles O25: each configuration register under its guard, and each MC operation through the slot that it has at once. -/
theorem tableAndMulticastRegisters : Obligations.TableAndMulticastRegisters := ⟨tableConfiguration, multicastRegisters⟩

end Sys2Proof.Machine
end

section
/-!
PROOF. The buffers' state: what a write of a queue, a frame or a class reads back, and what the operations on cells, pause and staging leave of the
tiles (06_buffering_anvil_backpressure.md).
-/

set_option Elab.async false
set_option exponentiation.threshold 4096
set_option maxRecDepth 20000

namespace Sys2Proof.Machine

/-! ## Reads after writes -/

section
variable (s : State) (t q : Nat)

theorem State.setBuf_np (v : BufSt) (p : Nat) : (s.setBuf t v).np p = s.np p := rfl

theorem State.setVoq_voq (v : Voq) : (s.setVoq t q v).voq t q = v := by
  unfold State.setVoq State.voq
  rw [State.setBuf_buf]
  exact tget_tset_same _ _ _ _

theorem State.setVoq_voq_ne {t' q' : Nat} (v : Voq) (h : ¬(t' = t ∧ q' = q)) : (s.setVoq t q v).voq t' q' = s.voq t' q' := by
  unfold State.setVoq State.voq
  by_cases ht : t' = t
  · rw [ht, State.setBuf_buf]
    exact tget_tset_ne _ _ _ _ fun hq => h ⟨ht, hq⟩
  · rw [State.setBuf_buf_ne _ _ _ _ ht]

theorem State.setVoq_frame (v : Voq) (t' fid : Nat) : (s.setVoq t q v).frame t' fid = s.frame t' fid := by
  unfold State.setVoq State.frame
  by_cases ht : t' = t
  · rw [ht, State.setBuf_buf]
  · rw [State.setBuf_buf_ne _ _ _ _ ht]

theorem State.setVoq_np (v : Voq) (p : Nat) : (s.setVoq t q v).np p = s.np p := rfl

theorem State.setFrame_frame (fid : Nat) (f : Frame) : (s.setFrame t fid f).frame t fid = f := by
  unfold State.setFrame State.frame
  rw [State.setBuf_buf]
  exact tget_tset_same _ _ _ _

theorem State.setFrame_frame_ne {t' fid fid' : Nat} (f : Frame) (h : ¬(t' = t ∧ fid' = fid)) :
    (s.setFrame t fid f).frame t' fid' = s.frame t' fid' := by
  unfold State.setFrame State.frame
  by_cases ht : t' = t
  · rw [ht, State.setBuf_buf]
    exact tget_tset_ne _ _ _ _ fun hq => h ⟨ht, hq⟩
  · rw [State.setBuf_buf_ne _ _ _ _ ht]

theorem State.setFrame_voq (fid : Nat) (f : Frame) (t' q' : Nat) : (s.setFrame t fid f).voq t' q' = s.voq t' q' := by
  unfold State.setFrame State.voq
  by_cases ht : t' = t
  · rw [ht, State.setBuf_buf]
  · rw [State.setBuf_buf_ne _ _ _ _ ht]

theorem State.setFrame_np (fid : Nat) (f : Frame) (p : Nat) : (s.setFrame t fid f).np p = s.np p := rfl

variable (p c : Nat)

theorem State.setNc_nc (v : NClass) : (s.setNc p c v).nc p c = v := by
  unfold State.setNc State.nc
  rw [State.setNp_np]
  exact tget_tset_same _ _ _ _

theorem State.setNc_nc_ne {p' c' : Nat} (v : NClass) (h : ¬(p' = p ∧ c' = c)) : (s.setNc p c v).nc p' c' = s.nc p' c' := by
  unfold State.setNc State.nc
  by_cases hp : p' = p
  · rw [hp, State.setNp_np]
    exact tget_tset_ne _ _ _ _ fun hc => h ⟨hp, hc⟩
  · rw [State.setNp_np_ne _ _ _ _ hp]

end

/-! ## The tiles' buffers -/

/-- What every step of a loop leaves, the loop leaves. -/
theorem forN_keeps_view {α β : Type} (view : α → β) {op : Nat → α → α} {n : Nat} {a : α} (h : ∀ k b, view (op k b) = view b) :
    view (forN n op a) = view a := by
  unfold forN
  generalize List.range n = l
  induction l generalizing a with
  | nil => rfl
  | cons k r ih => exact ih.trans (h k a)

/-- The tiles' buffers. -/
def State.tiles (s : State) : Tab BufSt := s.tm.tiles

theorem State.buf_of_tiles {s u : State} (h : u.tiles = s.tiles) (t : Nat) : u.buf t = s.buf t := by
  unfold State.buf
  rw [show u.tm.tiles = s.tm.tiles from h]

theorem State.voq_of_tiles {s u : State} (h : u.tiles = s.tiles) (t q : Nat) : u.voq t q = s.voq t q := by
  unfold State.voq
  rw [State.buf_of_tiles h]

theorem State.frame_of_tiles {s u : State} (h : u.tiles = s.tiles) (t fid : Nat) : u.frame t fid = s.frame t fid := by
  unfold State.frame
  rw [State.buf_of_tiles h]

theorem State.tiles_of_tm {s u : State} (h : u.tm = s.tm) : u.tiles = s.tiles := by
  unfold State.tiles
  rw [h]

/-- Every part but the buffers' and Nimbus's. -/
def Touch.butTm : Touch := { Touch.all with tm := false }

theorem State.discardAt_tm (s : State) (p code : Nat) (m : FMeta) : (s.discardAt p code m).tm = s.tm :=
  (State.discardAt_keeps (.rfl' .butTm s) p code m).tm rfl

theorem State.discard_tm (s : State) (t code : Nat) (m : FMeta) : (s.discard t code m).tm = s.tm :=
  (State.discard_keeps (.rfl' .butTm s) t code m).tm rfl

theorem State.headCheck_tiles (s : State) (p c n : Nat) : (s.headCheck p c n).tiles = s.tiles := by
  induction n generalizing s with
  | zero => rfl
  | succ n ih =>
    simp only [State.headCheck]
    split
    · rfl
    · split
      · rw [ih, State.tiles_of_tm (State.discardAt_tm _ _ _ _)]
        rfl
      · rfl

/-- Without gates no head is compared (R322). -/
theorem State.headCheck_ungated {s : State} {p : Nat} (c n : Nat) (h : s.gateEn p = false) : s.headCheck p c n = s := by
  cases n with
  | zero => rfl
  | succ n =>
    simp only [State.headCheck]
    split
    · rfl
    · rw [if_neg fun hc => Bool.noConfusion (h.symm.trans hc.1)]

theorem State.headChecks_tiles (s : State) (p : Nat) : (s.headChecks p).tiles = s.tiles :=
  forN_keeps_view State.tiles fun c u => State.headCheck_tiles u p c _

theorem State.stage_tiles (s : State) (p : Nat) (x : Staged) : (s.stage p x).tiles = s.tiles := by
  unfold State.stage
  split
  · exact State.tiles_of_tm (State.discardAt_tm _ _ _ _)
  · split
    · exact State.tiles_of_tm (State.discardAt_tm _ _ _ _)
    · exact State.headCheck_tiles _ _ _ _

theorem State.bucketTake_tiles (s : State) (p k : Nat) (n : Int) : (s.bucketTake p k n).tiles = s.tiles := by
  unfold State.bucketTake
  split <;> rfl

theorem State.correctLen_tiles (s : State) (p : Nat) (x : Staged) (n : Nat) : (s.correctLen p x n).tiles = s.tiles := by
  have hbuckets (ls : Nat) (diff : Int) : ((((s.bucketTake p (2 * ls) diff).bucketTake p (2 * ls + 1) diff).bucketTake p 16 diff).bucketTake p 17
      diff).tiles = s.tiles := by
    rw [State.bucketTake_tiles, State.bucketTake_tiles, State.bucketTake_tiles, State.bucketTake_tiles]
  unfold State.correctLen
  split
  · rfl
  · dsimp only
    split
    · exact hbuckets _ _
    · split
      · exact hbuckets _ _
      · exact hbuckets _ _

theorem State.finishStaged_tiles (s : State) (p t fid mask : Nat) (f : Frame) : (s.finishStaged p t fid mask f).tiles = s.tiles := by
  unfold State.finishStaged
  dsimp only
  split
  · exact State.correctLen_tiles _ _ _ _
  · exact State.headCheck_tiles _ _ _ _

theorem State.queueCtl_tiles (s : State) (p : Nat) (f : List Byte) : (s.queueCtl p f).tiles = s.tiles := by
  unfold State.queueCtl
  split <;> rfl

theorem State.pauseChange_tiles (s : State) (p : Nat) (l : List Nat) : (s.pauseChange p l).tiles = s.tiles := by
  unfold State.pauseChange
  dsimp only
  split
  · rfl
  · split
    · exact State.queueCtl_tiles _ _ _
    · split
      · exact State.queueCtl_tiles _ _ _
      · split
        · exact State.queueCtl_tiles _ _ _
        · rfl
    · rfl

theorem State.setXoff_tiles (s : State) (p i c : Nat) (on : Bool) : (s.setXoff p i c on).tiles = s.tiles := rfl

theorem State.pgScan_tiles (s : State) (t : Nat) : (s.pgScan t).tiles = s.tiles := by
  unfold State.pgScan
  refine State.each_view State.tiles fun p u => ?_
  dsimp only
  rw [State.pauseChange_tiles]
  refine forN_keeps_view State.tiles fun i w => ?_
  split
  · split
    · split
      · exact State.setXoff_tiles _ _ _ _ _
      · rfl
    · split
      · exact State.setXoff_tiles _ _ _ _ _
      · rfl
  · split
    · exact State.setXoff_tiles _ _ _ _ _
    · rfl

/-! ## Cells and frames -/

/-- The queues and the frames of a tile. -/
def State.cargo (s : State) (t : Nat) : Tab Voq × Tab Frame := ((s.buf t).voqs, (s.buf t).frames)

theorem State.cargo_of_tiles {s u : State} (h : u.tiles = s.tiles) (t : Nat) : u.cargo t = s.cargo t := by
  unfold State.cargo
  rw [State.buf_of_tiles h]

theorem State.cargo_setBuf (s : State) {t : Nat} {v : BufSt} (t' : Nat) (hv : v.voqs = (s.buf t).voqs) (hf : v.frames = (s.buf t).frames) :
    (s.setBuf t v).cargo t' = s.cargo t' := by
  unfold State.cargo
  by_cases ht : t' = t
  · rw [ht, State.setBuf_buf, hv, hf]
  · rw [State.setBuf_buf_ne _ _ _ _ ht]

theorem State.voq_of_cargo {s u : State} {t : Nat} (h : u.cargo t = s.cargo t) (q : Nat) : u.voq t q = s.voq t q := by
  unfold State.voq
  rw [show (u.buf t).voqs = (s.buf t).voqs from congrArg Prod.fst h]

theorem State.frame_of_cargo {s u : State} {t : Nat} (h : u.cargo t = s.cargo t) (fid : Nat) : u.frame t fid = s.frame t fid := by
  unfold State.frame
  rw [show (u.buf t).frames = (s.buf t).frames from congrArg Prod.snd h]

theorem State.report_tm (s : State) (a b c : Nat) : (s.report a b c).tm = s.tm := (State.report_keeps (.rfl' .butTm s) a b c).tm rfl

/-- A cell that goes back leaves every queue and frame (R254). -/
theorem State.freeCellList_cargo (s : State) (t : Nat) (cs : List Nat) (t' : Nat) : (s.freeCellList t cs).cargo t' = s.cargo t' := by
  unfold State.freeCellList
  refine State.each_view (fun w : State => w.cargo t') fun c u => ?_
  dsimp only
  split
  · split
    · rw [State.cargo_of_tiles (State.tiles_of_tm (State.report_tm _ _ _ _))]
      rfl
    · rfl
  · split
    · exact u.cargo_setBuf t' rfl rfl
    · exact u.cargo_setBuf t' rfl rfl

section
variable (s : State) (t fid : Nat)

/-- The frame whose cells go back keeps everything else, and the other frames and the queues stay (R256, R258). -/
theorem State.freeFrameCells_cargo (t' : Nat) :
    (s.freeFrameCells t fid).cargo t' = ((s.freeCellList t (s.frame t fid).cells).setFrame t fid { s.frame t fid with cells := [] }).cargo t' := by
  unfold State.freeFrameCells
  dsimp only
  rw [State.cargo_of_tiles (State.pgScan_tiles _ _)]
  split
  · exact State.cargo_setBuf _ t' rfl rfl
  · rfl

theorem State.freeFrameCells_frame : (s.freeFrameCells t fid).frame t fid = { s.frame t fid with cells := [] } := by
  rw [State.frame_of_cargo (s.freeFrameCells_cargo t fid t), State.setFrame_frame]

theorem State.freeFrameCells_voq (t' q : Nat) : (s.freeFrameCells t fid).voq t' q = s.voq t' q := by
  rw [State.voq_of_cargo (s.freeFrameCells_cargo t fid t'), State.setFrame_voq, State.voq_of_cargo (s.freeCellList_cargo t _ t')]

theorem State.forget_voq (t' q : Nat) : (s.forget t fid).voq t' q = s.voq t' q := by
  unfold State.forget State.voq
  by_cases ht : t' = t
  · rw [ht, State.setBuf_buf]
  · rw [State.setBuf_buf_ne _ _ _ _ ht]

theorem State.sweep_voq (t' q : Nat) : (s.sweep t fid).voq t' q = s.voq t' q := by
  unfold State.sweep
  dsimp only
  split
  · exact State.forget_voq _ _ _ _ _
  · rfl

/-- A frame that is forgotten has no cells, and one that stays is as it was. -/
theorem State.sweep_cells (h : (s.frame t fid).cells = []) : ((s.sweep t fid).frame t fid).cells = [] := by
  unfold State.sweep
  dsimp only
  split
  · unfold State.forget State.frame
    rw [State.setBuf_buf]
    exact congrArg Frame.cells (tget_tdel_same _ _ _)
  · exact h

theorem State.endRef_voq (t' q : Nat) : (s.endRef t fid).voq t' q = s.voq t' q := by
  unfold State.endRef
  dsimp only
  split
  · rw [State.sweep_voq, State.freeFrameCells_voq, State.setFrame_voq]
  · exact State.setFrame_voq _ _ _ _ _ _

/-- The last reference of a frame frees its cells (R255). -/
theorem State.endRef_last (h : (s.frame t fid).refs ≤ 1) : ((s.endRef t fid).frame t fid).cells = [] := by
  unfold State.endRef
  dsimp only
  rw [if_pos h]
  refine State.sweep_cells _ _ _ ?_
  rw [State.freeFrameCells_frame]

/-- Any other reference is counted down (R255). -/
theorem State.endRef_more (h : 1 < (s.frame t fid).refs) :
    s.endRef t fid = s.setFrame t fid { s.frame t fid with refs := (s.frame t fid).refs - 1, linked := decide (1 < (s.frame t fid).refs) } := by
  unfold State.endRef
  dsimp only
  exact if_neg (by omega)

end

/-! ## Queues -/

section
variable (s : State) (t q : Nat)

/-- The SPILL rule moves frames between a queue's head and its other parts, and nothing else of it (R262, R264). -/
theorem State.voqNorm_eq : ∃ v : Voq, s.voqNorm t q = s.setVoq t q v ∧ v.crossing = (s.voq t q).crossing ∧ v.balance = (s.voq t q).balance ∧
    v.inflight = (s.voq t q).inflight ∧ v.safe = (s.voq t q).safe ∨ s.voqNorm t q = s := by
  unfold State.voqNorm
  dsimp only
  split
  · split
    · exact ⟨_, Or.inl ⟨rfl, rfl, rfl, rfl, rfl⟩⟩
    · exact ⟨{}, Or.inr rfl⟩
  · split
    · exact ⟨_, Or.inl ⟨rfl, rfl, rfl, rfl, rfl⟩⟩
    · exact ⟨{}, Or.inr rfl⟩

theorem State.voqNorm_voq : ((s.voqNorm t q).voq t q).crossing = (s.voq t q).crossing ∧ ((s.voqNorm t q).voq t q).balance = (s.voq t q).balance := by
  obtain ⟨v, ⟨heq, hc, hb, -, -⟩ | heq⟩ := s.voqNorm_eq t q
  · rw [heq, State.setVoq_voq]
    exact ⟨hc, hb⟩
  · rw [heq]
    exact ⟨rfl, rfl⟩

theorem State.voqNorm_frame (t' fid : Nat) : (s.voqNorm t q).frame t' fid = s.frame t' fid := by
  obtain ⟨v, ⟨heq, -⟩ | heq⟩ := s.voqNorm_eq t q
  · rw [heq, State.setVoq_frame]
  · rw [heq]

end

end Sys2Proof.Machine
end

section
/-!
PROOF. Credits, grants and crossings of the crossbar (R252, R255, R256, R272, R273, R282, R287, R296, R297, R510).
-/

set_option Elab.async false
set_option exponentiation.threshold 4096
set_option maxRecDepth 20000

namespace Sys2Proof.Machine

/-! ## Grants -/

section
variable {s : State} {p c x : Nat}

theorem State.pickSource_some {rr : Nat} (h : s.pickSource p c rr = some x) :
    (x < 16 → s.hasBacklog x (8 * p + c) = true) ∧ (16 ≤ x → s.mcWaiting (p / 32) c p ≠ []) := by
  have hx := List.find?_some h
  refine ⟨fun hlt => ?_, fun hge hnil => ?_⟩
  · rwa [if_pos hlt] at hx
  · rw [if_neg (by omega), hnil] at hx
    exact Bool.noConfusion hx

/-- Turns from a start reach every place. -/
theorem turn_reaches (rr : Nat) {n x : Nat} (h : x < n) : ∃ k, k < n ∧ (rr + k) % n = x := by
  refine ⟨(x + n - rr % n) % n, Nat.mod_lt _ (by omega), ?_⟩
  have hr := Nat.mod_lt rr (show 0 < n by omega)
  rw [Nat.add_mod, Nat.mod_mod, ← Nat.add_mod_mod, Nat.mod_mod]
  rw [Nat.add_mod_mod, show rr % n + (x + n - rr % n) = x + n by omega, Nat.add_mod_right, Nat.mod_eq_of_lt h]

theorem State.pickSource_exists (rr : Nat) (hx : x < 16) (hb : s.hasBacklog x (8 * p + c) = true) : ∃ y, s.pickSource p c rr = some y := by
  obtain ⟨k, hk, hkx⟩ := turn_reaches rr (show x < 17 by omega)
  refine Option.isSome_iff_exists.1 (List.find?_isSome.2 ⟨x, List.mem_map.2 ⟨k, List.mem_range.2 hk, hkx⟩, ?_⟩)
  rw [if_pos hx]
  exact hb

theorem State.mem_classTurns (hc : c < 8) : c ∈ s.classTurns p := by
  obtain ⟨k, hk, hkc⟩ := turn_reaches (s.np p).rr hc
  have hturn : c ∈ (List.range 8).map (fun k => ((s.np p).rr + k) % 8) := List.mem_map.2 ⟨k, List.mem_range.2 hk, hkc⟩
  unfold State.classTurns
  rw [List.mem_append, List.mem_filter, List.mem_filter]
  cases (s.nc p c).q.isEmpty
  · exact Or.inr ⟨hturn, rfl⟩
  · exact Or.inl ⟨hturn, rfl⟩

/-- The ports and classes before a grant changes its queue. -/
def State.turned (s : State) (p c x : Nat) : State :=
  let s1 := s.setNp p { s.np p with rr := (c + 1) % 8 }
  s1.setNc p c { s1.nc p c with rr := (x + 1) % 17 }

theorem State.turned_voq (s : State) (p c x y q : Nat) : (s.turned p c x).voq y q = s.voq y q := State.voq_of_tiles rfl y q

/-- A queue with one more grant on its way (R296). -/
def State.grantOn (s : State) (p : Nat) (v : Voq) : Voq :=
  let g := s.grantBytes p
  { v with inflight := v.inflight ++ [g], debt := v.debt - g, res := if g - v.debt = 0 then v.res else v.res ++ [(g - v.debt, g + s.maxFrame p)] }

theorem State.grantTo_source (hx : x < 16) :
    s.grantTo p c x = (s.turned p c x).setVoq x (8 * p + c) (s.grantOn p ((s.turned p c x).voq x (8 * p + c))) := if_pos hx

theorem State.mcGrant_voq (s : State) (t q y k : Nat) : ((s.mcGrant t q).voq y k).inflight = (s.voq y k).inflight ∧
    ((s.mcGrant t q).voq y k).balance = (s.voq y k).balance ∧ ((s.mcGrant t q).voq y k).head = (s.voq y k).head := by
  have hset {v : Voq} (h1 : v.inflight = (s.voq t q).inflight) (h2 : v.balance = (s.voq t q).balance) (h3 : v.head = (s.voq t q).head) :
      ((s.setVoq t q v).voq y k).inflight = (s.voq y k).inflight ∧ ((s.setVoq t q v).voq y k).balance = (s.voq y k).balance ∧
      ((s.setVoq t q v).voq y k).head = (s.voq y k).head := by
    by_cases h : y = t ∧ k = q
    · rw [h.1, h.2, State.setVoq_voq]
      exact ⟨h1, h2, h3⟩
    · rw [State.setVoq_voq_ne _ _ _ _ h]
      exact ⟨rfl, rfl, rfl⟩
  unfold State.mcGrant
  dsimp only
  split
  · split
    · split
      · exact hset rfl rfl rfl
      · exact hset rfl rfl rfl
    · exact ⟨rfl, rfl, rfl⟩
  · exact ⟨rfl, rfl, rfl⟩

/-- A grant adds to one unicast queue what is on its way, or marks a multicast queue ready; no balance and no head moves (R252, R297). -/
theorem State.grantTo_voq (s : State) (p c x y q : Nat) :
    ((s.grantTo p c x).voq y q).inflight = (if x < 16 ∧ y = x ∧ q = 8 * p + c then (s.voq y q).inflight ++ [s.grantBytes p] else (s.voq y q).inflight) ∧
    ((s.grantTo p c x).voq y q).balance = (s.voq y q).balance ∧ ((s.grantTo p c x).voq y q).head = (s.voq y q).head := by
  by_cases hx : x < 16
  · rw [State.grantTo_source hx]
    by_cases h : y = x ∧ q = 8 * p + c
    · rw [if_pos ⟨hx, h.1, h.2⟩, h.1, h.2, State.setVoq_voq, State.turned_voq]
      exact ⟨rfl, rfl, rfl⟩
    · rw [if_neg fun hh => h hh.2, State.setVoq_voq_ne _ _ _ _ h, State.turned_voq]
      exact ⟨rfl, rfl, rfl⟩
  · rw [if_neg fun hh => hx hh.1]
    unfold State.grantTo
    dsimp only
    rw [if_neg hx]
    split
    · next t rest _ =>
      obtain ⟨h1, h2, h3⟩ := State.mcGrant_voq ((s.turned p c x).setVoq t (4096 + 8 * (p / 32) + c)
        { (s.turned p c x).voq t (4096 + 8 * (p / 32) + c) with ready := ((s.turned p c x).voq t (4096 + 8 * (p / 32) + c)).ready ||| slotBit p })
        t (4096 + 8 * (p / 32) + c) y q
      refine ⟨h1.trans ?_, h2.trans ?_, h3.trans ?_⟩
      all_goals
        by_cases h : y = t ∧ q = 4096 + 8 * (p / 32) + c
        · rw [h.1, h.2, State.setVoq_voq, State.turned_voq]
        · rw [State.setVoq_voq_ne _ _ _ _ h, State.turned_voq]
    · exact ⟨congrArg Voq.inflight (s.turned_voq p c x y q), congrArg Voq.balance (s.turned_voq p c x y q), congrArg Voq.head (s.turned_voq p c x y q)⟩

end

/-- The port, class and source that tile `t`'s Nimbus serves next (R297). -/
def State.grantPick (s : State) (t : Nat) : Option (Nat × Nat × Nat) :=
  ((List.range (s.tilePorts t).length).map (fun k => nth (s.tilePorts t) ((tget s.tm.rrPort t 0 + k) % (s.tilePorts t).length) 0)).findSome?
    (fun p => (s.classTurns p).findSome? (fun c =>
      if s.grantable p c then (s.pickSource p c (s.nc p c).rr).map (fun x => (p, c, x)) else none))

theorem State.grantPick_some {s : State} {t p c x : Nat} (h : s.grantPick t = some (p, c, x)) :
    p ∈ s.tilePorts t ∧ s.grantable p c = true ∧ (x < 16 → s.hasBacklog x (8 * p + c) = true) ∧ (16 ≤ x → s.mcWaiting (p / 32) c p ≠ []) := by
  obtain ⟨p', hp', hc'⟩ := List.exists_of_findSome?_eq_some h
  obtain ⟨k, hk, rfl⟩ := List.mem_map.1 hp'
  obtain ⟨c', -, hx'⟩ := List.exists_of_findSome?_eq_some hc'
  split at hx'
  · next hg =>
    obtain ⟨y, hy, hyx⟩ := Option.map_eq_some_iff.1 hx'
    cases hyx
    have hlt := Nat.mod_lt (tget s.tm.rrPort t 0 + k) (show 0 < (s.tilePorts t).length by have := List.mem_range.1 hk; omega)
    refine ⟨?_, hg, State.pickSource_some hy⟩
    unfold nth
    rw [List.getD_eq_getElem _ _ hlt]
    exact List.getElem_mem _
  · cases hx'

theorem State.grantPick_exists {s : State} {t p c x : Nat} (hp : p ∈ s.tilePorts t) (hc : c < 8) (hx : x < 16) (hg : s.grantable p c = true)
    (hb : s.hasBacklog x (8 * p + c) = true) : ∃ y, s.grantPick t = some y := by
  obtain ⟨y, hy⟩ := State.pickSource_exists (s.nc p c).rr hx hb
  obtain ⟨i, hi, hip⟩ := List.getElem_of_mem hp
  obtain ⟨k, hk, hki⟩ := turn_reaches (tget s.tm.rrPort t 0) hi
  refine Option.isSome_iff_exists.1 (List.findSome?_isSome_iff.2 ⟨p, List.mem_map.2 ⟨k, List.mem_range.2 hk, ?_⟩,
    List.findSome?_isSome_iff.2 ⟨c, State.mem_classTurns hc, ?_⟩⟩)
  · unfold nth
    rw [hki, List.getD_eq_getElem _ _ hi, hip]
  · rw [if_pos hg, hy]
    rfl

theorem execNimbusGrant_eq (t : Nat) (s : State) : execNimbusGrant t s = .next (match s.grantPick t with
    | some (p, c, x) =>
      { s.grantTo p c x with tm := { (s.grantTo p c x).tm with rrPort := tset (s.grantTo p c x).tm.rrPort t 0 ((s.slotOf p + 1) % (s.tilePorts t).length) } }
    | none => s) := rfl

section
variable {s : State} {t q g : Nat} {rest : List Nat}

theorem execGrantReceive_safe (hg : (s.voq t q).inflight = g :: rest) (h : (s.voq t q).safe = true) :
    execGrantReceive t q s = .next (s.setVoq t q { s.voq t q with inflight := rest, res := (s.voq t q).res.drop 1 }) := by
  unfold execGrantReceive
  dsimp only
  rw [hg]
  exact congrArg Host.Outcome.next (if_pos h)

theorem execGrantReceive_open (hg : (s.voq t q).inflight = g :: rest) (h : (s.voq t q).safe = false) : execGrantReceive t q s =
    .next (s.setVoq t q (({ s.voq t q with inflight := rest, balance := (s.voq t q).balance + g } : Voq).capBalance g)) := by
  unfold execGrantReceive
  dsimp only
  rw [hg]
  exact congrArg Host.Outcome.next (if_neg (by rw [h]; decide))

/-- A queue capped at one grant (R252). -/
theorem Voq.capBalance_rest (v : Voq) (g : Nat) : (v.capBalance g).inflight = v.inflight ∧ (v.capBalance g).head = v.head ∧
    (v.capBalance g).balance = if v.isEmpty = true ∧ v.crossing = none then min (g : Int) v.balance else v.balance := by
  unfold Voq.capBalance
  by_cases he : v.isEmpty = true ∧ v.crossing = none
  · rw [if_pos he, he.1, he.2]
    by_cases hb : (g : Int) < v.balance
    · rw [decide_eq_true hb]
      exact ⟨rfl, rfl, (min_eq_left hb.le).symm⟩
    · rw [decide_eq_false hb]
      exact ⟨rfl, rfl, (min_eq_right (not_lt.1 hb)).symm⟩
  · rw [if_neg he, if_neg fun h => he ?_]
    · exact ⟨rfl, rfl, rfl⟩
    · rw [Bool.and_eq_true, Bool.and_eq_true] at h
      exact ⟨h.1.1, by simpa using h.1.2⟩

end

theorem grantsAndBalances : Claims.GrantsAndBalances := by
  intro s t
  refine ⟨⟨_, execNimbusGrant_eq t s, ?_⟩, fun q => ?_, fun q g rest hg => ⟨fun hsafe => ?_, fun hsafe => ?_⟩⟩
  · cases hpick : s.grantPick t with
    | none =>
      refine ⟨OnlyRegs.refl _ _, fun x q h => absurd rfl h, fun x q => ⟨rfl, rfl⟩, fun p c x hp hc hx hgr hb _ => ?_⟩
      obtain ⟨y, hy⟩ := State.grantPick_exists hp hc hx hgr hb
      rw [hpick] at hy
      cases hy
    | some y =>
      obtain ⟨p, c, x⟩ := y
      obtain ⟨hp, hgr, hback, hmc⟩ := State.grantPick_some hpick
      have hvoq (w : State) (r : Tab Nat) (a b : Nat) : ({ w with tm := { w.tm with rrPort := r } } : State).voq a b = w.voq a b := rfl
      dsimp only
      refine ⟨(State.grantTo_keeps (.rfl' (.onRegs []) s) p c x).onlyRegs, fun y q hne => ?_, fun y q => ?_, fun p' c' x' _ _ _ _ _ hno => ?_⟩
      · rw [hvoq, (s.grantTo_voq p c x y q).1] at hne ⊢
        split at hne
        · next h =>
          obtain ⟨hx, rfl, rfl⟩ := h
          exact ⟨p, c, hp, hgr, rfl, hx, hback hx, if_pos ⟨hx, rfl, rfl⟩⟩
        · exact absurd rfl hne
      · rw [hvoq]
        exact (s.grantTo_voq p c x y q).2
      · have hx : x < 16 := Nat.lt_of_not_le fun h => hmc h (hno _ _ _)
        refine ⟨x, 8 * p + c, ?_⟩
        rw [hvoq, (s.grantTo_voq p c x x (8 * p + c)).1, if_pos ⟨hx, rfl, rfl⟩]
        simp
  · rfl
  · refine ⟨_, execGrantReceive_safe hg hsafe, ?_⟩
    rw [State.setVoq_voq]
    exact ⟨rfl, rfl, hsafe, OnlyRegs.refl _ _, rfl⟩
  · obtain ⟨hi, hh, hb⟩ := Voq.capBalance_rest { s.voq t q with inflight := rest, balance := (s.voq t q).balance + g } g
    refine ⟨_, execGrantReceive_open hg hsafe, ?_⟩
    rw [State.setVoq_voq]
    exact ⟨hi, OnlyRegs.refl _ _, rfl, hh, hb⟩

/-! ## A frame dropped whole -/

theorem mem_keys_of_tget {α : Type} {t : Tab α} {k : Nat} {d : α} (h : tget t k d ≠ d) : k ∈ t.map (fun e => e.1) := by
  induction t with
  | nil => exact absurd rfl h
  | cons e r ih =>
    obtain ⟨j, v⟩ := e
    rw [tget] at h
    by_cases hj : j = k
    · exact hj ▸ List.mem_cons_self
    · rw [if_neg hj] at h
      exact List.mem_cons_of_mem _ (ih h)

section
variable {s : State} {t q fid : Nat}

/-- The counters of one discard (R286). -/
theorem State.discard_counts {code : Nat} (m : FMeta) (h : 0x0501 ≤ code ∧ code ≤ 0x0512) :
    (s.discard t code m).rdw .dropCnt t (code - 0x0501) = s.rdw .dropCnt t (code - 0x0501) + 1#64 := by
  unfold State.discard
  rw [(State.txDrop_keeps (.rfl' (.avoid [.dropCnt]) _) code m).rdw .dropCnt t (code - 0x0501) rfl]
  unfold State.dropCount
  dsimp only
  rw [(State.perf_keeps (.rfl' (.avoid [.dropCnt]) _) t 5 _ _ _ 1).rdw .dropCnt t (code - 0x0501) rfl, if_pos h, rdw_bump_same]

/-- A queue without a frame that is dropped. -/
def Voq.rid (fid : Nat) (v : Voq) : Voq := { v with
  ready := if (v.head.head?.map Ref.fid) = some fid then 0 else v.ready
  granted := if (v.head.head?.map Ref.fid) = some fid then 0 else v.granted
  head := v.head.filter (fun r => decide (r.fid ≠ fid))
  due := v.due.filter (fun r => decide (r.fid ≠ fid))
  behind := v.behind.filter (fun r => decide (r.fid ≠ fid)) }

/-- The queues of a tile without a frame that is dropped. -/
def State.ridQueues (s : State) (t fid : Nat) : State :=
  s.each ((s.buf t).voqs.map (fun e => e.1)) (fun q s => s.setVoq t q ((s.voq t q).rid fid))

/-- The references of a frame that cross or are being written. -/
def State.heldRefs (s : State) (t fid : Nat) : Nat :=
  ((s.buf t).voqs.map (fun e => (e.2.crossing.toList ++ e.2.writing.toList).countP (fun r => decide (r.fid = fid)))).sum

theorem State.killFrame_eq (s : State) (t fid code : Nat) : s.killFrame t fid code =
    let s1 := (s.discard t code (s.frame t fid).m).excForget t fid
    let held := s1.heldRefs t fid
    let s3 := (s1.ridQueues t fid).setFrame t fid { s.frame t fid with dead := some code, linked := decide (0 < held), refs := held }
    if held = 0 then (s3.freeFrameCells t fid).sweep t fid else s3 := rfl

theorem State.killFrame_counts {code : Nat} (h : 0x0501 ≤ code ∧ code ≤ 0x0512) :
    (s.killFrame t fid code).rdw .dropCnt t (code - 0x0501) = s.rdw .dropCnt t (code - 0x0501) + 1#64 := by
  have hrid (u : State) : Keeps (.avoid [.dropCnt]) u (u.ridQueues t fid) := State.each_keeps (.rfl' _ u) fun _ _ hw => State.setVoq_keeps hw _ _ _
  rw [← s.discard_counts (s.frame t fid).m h, State.killFrame_eq]
  dsimp only
  split
  · rw [(State.sweep_keeps (.rfl' (.avoid [.dropCnt]) _) t fid).rdw .dropCnt _ _ rfl,
      (State.freeFrameCells_keeps (.rfl' (.avoid [.dropCnt]) _) t fid).rdw .dropCnt _ _ rfl, State.setFrame_rdw, (hrid _).rdw .dropCnt _ _ rfl]
    rfl
  · rw [State.setFrame_rdw, (hrid _).rdw .dropCnt _ _ rfl]
    rfl

/-- The queue of a frame that is dropped names it no more, and what crosses goes on (R255). -/
theorem State.killFrame_voq (code : Nat) (hne : (s.voq t q).head ≠ []) : ((s.killFrame t fid code).voq t q).crossing = (s.voq t q).crossing ∧
    ∀ x ∈ ((s.killFrame t fid code).voq t q).head, x.fid ≠ fid := by
  obtain ⟨u, hu⟩ : ∃ u, u = (s.discard t code (s.frame t fid).m).excForget t fid := ⟨_, rfl⟩
  have htiles : u.tiles = s.tiles := by
    rw [hu]
    exact State.tiles_of_tm (State.discard_tm _ _ _ _)
  have hq : q ∈ (u.buf t).voqs.map (fun e => e.1) := by
    rw [State.buf_of_tiles htiles]
    refine mem_keys_of_tget (d := ({} : Voq)) fun h => hne ?_
    rw [State.voq, h]
  have hrid : ((u.ridQueues t fid).voq t q).crossing = (s.voq t q).crossing ∧ ∀ x ∈ ((u.ridQueues t fid).voq t q).head, x.fid ≠ fid := by
    refine State.each_sets_under (I := fun w => (w.voq t q).crossing = (s.voq t q).crossing)
      (P := fun w => (w.voq t q).crossing = (s.voq t q).crossing ∧ ∀ x ∈ (w.voq t q).head, x.fid ≠ fid) hq ?_ (fun b w hw => ?_) (fun w hw => ?_)
      fun b w hw => ?_
    · rw [State.voq_of_tiles htiles]
    · by_cases hb : q = b
      · rw [← hb, State.setVoq_voq]
        exact hw
      · rw [State.setVoq_voq_ne _ _ _ _ fun h => hb h.2]
        exact hw
    · rw [State.setVoq_voq]
      exact ⟨hw, fun x hx => of_decide_eq_true (List.mem_filter.1 hx).2⟩
    · by_cases hb : q = b
      · rw [← hb, State.setVoq_voq]
        exact ⟨hw.1, fun x hx => of_decide_eq_true (List.mem_filter.1 hx).2⟩
      · rw [State.setVoq_voq_ne _ _ _ _ fun h => hb h.2]
        exact hw
  rw [State.killFrame_eq, ← hu]
  dsimp only
  split
  · rw [State.sweep_voq, State.freeFrameCells_voq, State.setFrame_voq]
    exact hrid
  · rw [State.setFrame_voq]
    exact hrid

end

/-! ## Crossings -/

section
variable {s : State} {t q : Nat} {r : Ref} {rest : List Ref} {err : Option (Fin 64)}

/-- The head frame of a queue may start (R252, R282, R510). -/
def State.mayCross (s : State) (t q : Nat) (r : Ref) : Bool :=
  (s.voq t q).crossing.isNone && !(s.voq t q).safe && ((s.frame t r.fid).done || (s.frame t r.fid).ct) && decide (tget s.squall.blockReset t 0 = 0) &&
    (if 4096 ≤ q then decide ((s.voq t q).granted ≠ 0) else decide (0 < (s.voq t q).balance))

/-- The queue once its head frame has started. -/
def Voq.started (v : Voq) (q : Nat) (f : Frame) (r : Ref) (rest : List Ref) : Voq := { v with
  head := rest
  crossing := some (if 4096 ≤ q then { r with mask := v.granted } else r)
  granted := 0
  balance := if 4096 ≤ q then v.balance else v.balance - (if f.done then f.len else 0)
  uses := decide (q < 4096)
  owes := decide (q < 4096) && !f.done }

/-- The frame as its first cells are staged (R248). -/
def State.stagedOf (s : State) (t fid mask : Nat) : Staged :=
  let f := s.frame t fid
  { tile := t, fid := fid, data := f.data, m := f.m, ct := f.ct && !f.done, bad := f.bad, hdrs := cellHdrs t f mask }

/-- The state once a head frame has started, before it is staged. -/
def State.leftHead (s : State) (t q : Nat) (r : Ref) (rest : List Ref) (err : Option (Fin 64)) : State :=
  (s.setVoq t q ((s.voq t q).started q (s.frame t r.fid) r rest)).cellErr t r.fid err

/-- The egress ports of a frame that starts. -/
def State.startPorts (s : State) (t q : Nat) (r : Ref) : List Nat :=
  if 4096 ≤ q then maskPorts (destOf q) (s.voq t q).granted else [(s.frame t r.fid).m.eport]

theorem execCrossingStart_eq (hh : (s.voq t q).head = r :: rest) : execCrossingStart t q err s = .next (
    if s.mayCross t q r = false then s
    else if err.isSome = true ∧ ((s.frame t r.fid).ct = false ∨ err = some 0) then s.killFrame t r.fid 0x050F
    else (s.leftHead t q r rest err).each (s.startPorts t q r) (fun p u => u.stage p
      ((s.leftHead t q r rest err).stagedOf t r.fid (if 4096 ≤ q then (s.voq t q).granted else 0)))) := by
  unfold execCrossingStart
  dsimp only
  rw [hh]
  rfl

theorem execCrossingStart_not (hh : (s.voq t q).head = r :: rest) (h : s.mayCross t q r = false) : execCrossingStart t q err s = .next s := by
  rw [execCrossingStart_eq hh, if_pos h]

/-- What a start leaves in the tile: its queue and, with a failed cell read, its frame (R252, R273). -/
theorem State.started_tiles (u : State) (l : List Nat) (x : Staged) : (u.each l (fun p w => w.stage p x)).tiles = u.tiles :=
  State.each_view State.tiles fun p w => w.stage_tiles p x

theorem State.mayCross_of (hc : (s.voq t q).crossing = none) (hs : (s.voq t q).safe = false) (hd : (s.frame t r.fid).done = true)
    (hb : tget s.squall.blockReset t 0 = 0) (hu : q < 4096 → 0 < (s.voq t q).balance) (hm : 4096 ≤ q → (s.voq t q).granted ≠ 0) :
    s.mayCross t q r = true := by
  unfold State.mayCross
  rw [hc, hs, hd, hb]
  by_cases hq : 4096 ≤ q
  · rw [if_pos hq, decide_eq_true (hm hq)]
    rfl
  · rw [if_neg hq, decide_eq_true (hu (Nat.lt_of_not_le hq))]
    rfl

theorem State.stomp_voq (s : State) (t fid n t' q : Nat) : (s.stomp t fid n).voq t' q = s.voq t' q := State.setFrame_voq _ _ _ _ _ _

theorem State.stomp_frame (s : State) (t fid n : Nat) : (s.stomp t fid n).frame t fid =
    { s.frame t fid with data := (s.frame t fid).data.take n, bad := true, done := true } := State.setFrame_frame _ _ _ _

theorem State.stomp_counts (s : State) (t fid n : Nat) : (s.stomp t fid n).rdw .cntStomp t = s.rdw .cntStomp t + 1#64 := by
  unfold State.stomp
  rw [rdw_bump_same, State.setFrame_rdw]

theorem State.cellErr_stomps {fid : Nat} {k : Fin 64} (hct : (s.frame t fid).ct = true) (hbad : (s.frame t fid).bad = false) (hk : 0 < k.val)
    (hlen : 256 * k.val < (s.frame t fid).data.length) : s.cellErr t fid (some k) = s.stomp t fid (256 * k.val) :=
  if_pos ⟨hct, hbad, hk, hlen⟩

/-- The frame's first cells join its class at the egress port (R295). -/
theorem State.stage_joins {p : Nat} (x : Staged) (hen : s.portEnabled p = true) (hdown : (s.np p).downHeld = false) (hgate : s.gateEn p = false) :
    ∃ y, ((s.stage p x).nc p x.m.cls).q = (s.nc p x.m.cls).q ++ [y] ∧ y.fid = x.fid ∧ y.last = x.last := by
  unfold State.stage
  rw [if_neg (by rw [hen]; decide), if_neg (by rw [hdown]; simp)]
  dsimp only
  rw [State.headCheck_ungated (s := s.setNc p x.m.cls _) _ _ hgate, State.setNc_nc]
  exact ⟨_, rfl, rfl, rfl⟩

end

theorem crossingStarts : Claims.CrossingStarts := by
  intro s t q r rest hh
  refine ⟨fun h err => execCrossingStart_not hh ?_, fun h err => execCrossingStart_not hh ?_, fun hc hs hd hb hu hm => ?_⟩
  · unfold State.mayCross
    by_cases hq : 4096 ≤ q.val
    · rw [if_pos hq, h.2 hq]
      simp
    · rw [if_neg hq, decide_eq_false (not_lt.2 (h.1 (Nat.lt_of_not_le hq)))]
      simp
  · unfold State.mayCross
    rw [decide_eq_false h]
    simp
  have hgo := State.mayCross_of hc hs hd hb hu hm
  refine ⟨?_, fun k hk => ⟨_, (execCrossingStart_eq hh).trans (by rw [if_neg (by rw [hgo]; decide), if_pos ⟨rfl, hk.imp id (congrArg some)⟩]), ?_, ?_, ?_⟩,
    fun k hct hbad hk hlen => ?_⟩
  · have hex : exec (.crossingStart t q none) s = .next ((s.leftHead t q r rest none).each (s.startPorts t q r) (fun p u => u.stage p
        ((s.leftHead t q r rest none).stagedOf t r.fid (if 4096 ≤ q.val then (s.voq t q).granted else 0)))) :=
      (execCrossingStart_eq hh).trans (by rw [if_neg (by rw [hgo]; decide), if_neg fun h => Bool.noConfusion h.1])
    refine ⟨_, if 4096 ≤ q.val then { r with mask := (s.voq t q).granted } else r, hex, ?_⟩
    rw [State.voq_of_tiles (State.started_tiles _ _ _)]
    have hv : (s.leftHead t q r rest none).voq t q = (s.voq t q).started q (s.frame t r.fid) r rest := State.setVoq_voq _ _ _ _
    rw [hv]
    refine ⟨rfl, rfl, by split <;> rfl, fun hq => ?_, fun hq => ⟨if_pos hq, by rw [if_pos hq]⟩, fun hq hen hdown hgate hmc => ?_⟩
    · show (if 4096 ≤ q.val then _ else _) = _
      rw [if_neg (by omega), if_pos hd]
    · have hports : s.startPorts t q r = [(s.frame t r.fid).m.eport] := if_neg (by omega)
      have hm : ((s.leftHead t q r rest none).stagedOf t r.fid (if 4096 ≤ q.val then (s.voq t q).granted else 0)).m = (s.frame t r.fid).m := by
        show ((s.leftHead t q r rest none).frame t r.fid).m = _
        rw [State.leftHead]
        exact congrArg Frame.m (State.setVoq_frame _ _ _ _ _ _)
      obtain ⟨y, hy, hfid, hlast⟩ := State.stage_joins (s := s.leftHead t q r rest none) ((s.leftHead t q r rest none).stagedOf t r.fid
        (if 4096 ≤ q.val then (s.voq t q).granted else 0)) hen hdown hgate
      rw [hm] at hy
      rw [hports]
      exact ⟨y, hy, hfid, hlast⟩
  · exact State.killFrame_counts (by decide)
  · rw [(State.killFrame_voq 0x050F (by rw [hh]; exact List.cons_ne_nil _ _)).1, hc]
  · exact (State.killFrame_voq 0x050F (by rw [hh]; exact List.cons_ne_nil _ _)).2
  · have hne : ¬(some k = some (0 : Fin 64)) := fun h => by
      rw [Option.some.inj h] at hk
      exact absurd hk (by decide)
    have hex : exec (.crossingStart t q (some k)) s = .next ((s.leftHead t q r rest (some k)).each (s.startPorts t q r) (fun p u => u.stage p
        ((s.leftHead t q r rest (some k)).stagedOf t r.fid (if 4096 ≤ q.val then (s.voq t q).granted else 0)))) :=
      (execCrossingStart_eq hh).trans (by
        rw [if_neg (by rw [hgo]; decide), if_neg fun h => h.2.elim (fun h => Bool.noConfusion (hct.symm.trans h)) hne])
    have hfr : (s.setVoq t q ((s.voq t q).started q (s.frame t r.fid) r rest)).frame t r.fid = s.frame t r.fid := State.setVoq_frame _ _ _ _ _ _
    have hst : s.leftHead t q r rest (some k) = (s.setVoq t q ((s.voq t q).started q (s.frame t r.fid) r rest)).stomp t r.fid (256 * k.val) :=
      State.cellErr_stomps (by rw [hfr]; exact hct) (by rw [hfr]; exact hbad) hk (by rw [hfr]; exact hlen)
    have hkeep (u : State) (l : List Nat) (x : Staged) : Keeps (.avoid [.cntStomp]) u (u.each l (fun p w => w.stage p x)) :=
      State.each_keeps (.rfl' _ u) fun _ _ hw => State.stage_keeps hw _ _
    refine ⟨_, hex, ?_, ?_, ?_, ?_⟩
    · rw [State.frame_of_tiles (State.started_tiles _ _ _), hst, State.stomp_frame, hfr]
    · rw [State.frame_of_tiles (State.started_tiles _ _ _), hst, State.stomp_frame]
    · rw [(hkeep _ _ _).rdw .cntStomp t 0 rfl, hst, State.stomp_counts, State.setVoq_rdw]
    · rw [State.voq_of_tiles (State.started_tiles _ _ _), hst, State.stomp_voq, State.setVoq_voq]
      rfl

/-! ## The end of a crossing -/

section
variable {s : State} {t q : Nat} {r : Ref}

/-- The queue once its crossing has ended (R252, R296). -/
def State.settled (s : State) (t q : Nat) (r : Ref) : Voq :=
  let v := s.voq t q
  let f := s.frame t r.fid
  let u := if v.uses then useRes v.res f.len else (v.res, 0)
  let v1 : Voq := { v with
    crossing := none
    uses := false
    owes := false
    res := u.1
    debt := v.debt + u.2
    balance := v.balance - (if v.owes then (f.len : Int) else 0) }
  if 4096 ≤ q then v1 else v1.capBalance (s.grantBytes (q / 8))

/-- The state once the last beat has crossed, before the reference ends. -/
def State.crossed (s : State) (t q : Nat) (r : Ref) : State :=
  (s.setVoq t q (s.settled t q r)).each (if 4096 ≤ q then maskPorts (destOf q) r.mask else [(s.frame t r.fid).m.eport])
    (fun p u => u.finishStaged p t r.fid (if 4096 ≤ q then r.mask else 0) (s.frame t r.fid))

theorem execCrossingComplete_eq (err : Option (Fin 64)) (hc : (s.voq t q).crossing = some r) : execCrossingComplete t q err s = .next (
    if ((s.cellErr t r.fid err).frame t r.fid).done = false then s.cellErr t r.fid err
    else (((((s.cellErr t r.fid err).crossed t q r).endRef t r.fid).voqNorm t q).pgScan t)) := by
  unfold execCrossingComplete
  dsimp only
  rw [hc]
  rfl

theorem State.crossed_tiles (s : State) (t q : Nat) (r : Ref) : (s.crossed t q r).tiles = (s.setVoq t q (s.settled t q r)).tiles :=
  State.each_view State.tiles fun p u => u.finishStaged_tiles p t r.fid _ _

theorem Voq.capBalance_crossing (v : Voq) (g : Nat) : (v.capBalance g).crossing = v.crossing := by
  unfold Voq.capBalance
  split <;> rfl

theorem State.settled_rest (s : State) (t q : Nat) (r : Ref) : (s.settled t q r).crossing = none ∧ ((s.voq t q).head ≠ [] →
    (s.settled t q r).balance = (s.voq t q).balance - ((if (s.voq t q).owes then (s.frame t r.fid).len else 0 : Nat) : Int)) := by
  have hcast : ((if (s.voq t q).owes then (s.frame t r.fid).len else 0 : Nat) : Int) = if (s.voq t q).owes then ((s.frame t r.fid).len : Int) else 0 := by
    split <;> rfl
  rw [hcast]
  unfold State.settled
  dsimp only
  split
  · exact ⟨rfl, fun _ => rfl⟩
  · refine ⟨Voq.capBalance_crossing _ _, fun hne => ?_⟩
    rw [(Voq.capBalance_rest _ _).2.2, if_neg fun h => hne ?_]
    have he := h.1
    unfold Voq.isEmpty at he
    simp only [Bool.and_eq_true, List.isEmpty_iff] at he
    exact he.1.1.1.1

/-- The queue after the end of a crossing. -/
theorem State.completed_voq (s : State) (t q : Nat) (r : Ref) :
    let u := ((((s.crossed t q r).endRef t r.fid).voqNorm t q).pgScan t)
    (u.voq t q).crossing = none ∧ (u.voq t q).balance = (s.settled t q r).balance := by
  have hv : ((s.crossed t q r).endRef t r.fid).voq t q = s.settled t q r := by
    rw [State.endRef_voq, State.voq_of_tiles (s.crossed_tiles t q r), State.setVoq_voq]
  obtain ⟨h1, h2⟩ := ((s.crossed t q r).endRef t r.fid).voqNorm_voq t q
  rw [hv] at h1 h2
  dsimp only
  rw [State.voq_of_tiles (State.pgScan_tiles _ _)]
  exact ⟨h1.trans (s.settled_rest t q r).1, h2⟩

theorem State.completed_frame (s : State) (t q : Nat) (r : Ref) :
    let u := ((((s.crossed t q r).endRef t r.fid).voqNorm t q).pgScan t)
    ((s.frame t r.fid).refs ≤ 1 → (u.frame t r.fid).cells = []) ∧
    (1 < (s.frame t r.fid).refs → u.frame t r.fid =
      { s.frame t r.fid with refs := (s.frame t r.fid).refs - 1, linked := decide (1 < (s.frame t r.fid).refs) }) := by
  have hf : (s.crossed t q r).frame t r.fid = s.frame t r.fid := by
    rw [State.frame_of_tiles (s.crossed_tiles t q r), State.setVoq_frame]
  dsimp only
  rw [State.frame_of_tiles (State.pgScan_tiles _ _), State.voqNorm_frame]
  refine ⟨fun h => State.endRef_last _ _ _ (by rw [hf]; exact h), fun h => ?_⟩
  rw [State.endRef_more _ _ _ (by rw [hf]; exact h), State.setFrame_frame, hf]

end

theorem execCrossingComplete_done {s : State} {t q : Nat} {r : Ref} (hc : (s.voq t q).crossing = some r) (hd : (s.frame t r.fid).done = true) :
    execCrossingComplete t q none s = .next ((((s.crossed t q r).endRef t r.fid).voqNorm t q).pgScan t) := by
  rw [execCrossingComplete_eq none hc, show s.cellErr t r.fid none = s from rfl, if_neg (by rw [hd]; decide)]

theorem crossingCompletes : Claims.CrossingCompletes := by
  intro s t q r hc
  refine ⟨fun hd => ?_, fun hd => ⟨_, execCrossingComplete_done hc hd, ?_, fun hne => ?_, ?_, fun hr => ⟨?_, ?_, ?_⟩⟩, fun k hct hbad hk hlen hr => ?_⟩
  · exact (execCrossingComplete_eq none hc).trans (by rw [show s.cellErr t r.fid none = s from rfl, if_pos hd])
  · exact (s.completed_voq t q r).1
  · rw [(s.completed_voq t q r).2, (s.settled_rest t q r).2 hne]
  · exact (s.completed_frame t q r).1
  · rw [(s.completed_frame t q r).2 hr]
  · rw [(s.completed_frame t q r).2 hr]
  · have hf : (s.crossed t q r).frame t r.fid = s.frame t r.fid := by
      rw [State.frame_of_tiles (s.crossed_tiles t q r), State.setVoq_frame]
    have hrd : (s.crossed t q r).rd .bpmStatus t = s.rd .bpmStatus t :=
      (State.each_keeps (.rfl' (.avoid [.bpmStatus]) (s.setVoq t q (s.settled t q r))) fun _ _ hw => State.finishStaged_keeps hw _ _ _ _ _).rd _ _ _ rfl
    rw [State.endRef_more _ _ _ (by rw [hf]; exact hr)]
    exact (fget_of_rd F.bpmStatus_FREE_CELLS ((State.pgScan_keeps (State.voqNorm_keeps (.rfl' (.avoid [.bpmStatus]) _) _ _) _).rd _ _ _ rfl)).trans
      (fget_of_rd F.bpmStatus_FREE_CELLS hrd)
  · have hst : s.cellErr t r.fid (some k) = s.stomp t r.fid (256 * k.val) := State.cellErr_stomps hct hbad hk hlen
    have hex : exec (.crossingComplete t q (some k)) s =
        .next (((((s.stomp t r.fid (256 * k.val)).crossed t q r).endRef t r.fid).voqNorm t q).pgScan t) := by
      refine (execCrossingComplete_eq (some k) hc).trans ?_
      rw [hst, State.stomp_frame, if_neg (by simp)]
    have hfr := ((s.stomp t r.fid (256 * k.val)).completed_frame t q r).2 (by rw [State.stomp_frame]; exact hr)
    rw [State.stomp_frame] at hfr
    refine ⟨_, hex, ((s.stomp t r.fid (256 * k.val)).completed_voq t q r).1, ?_, ?_, ?_⟩
    · rw [hfr]
    · rw [hfr]
    · have hcross (u : State) : Keeps (.avoid [.cntStomp]) (u.setVoq t q (u.settled t q r)) (u.crossed t q r) :=
        State.each_keeps (.rfl' _ _) fun _ _ hw => State.finishStaged_keeps hw _ _ _ _ _
      rw [(State.pgScan_keeps (State.voqNorm_keeps (State.endRef_keeps (hcross _) _ _) _ _) _).rdw .cntStomp t 0 rfl, State.setVoq_rdw,
        State.stomp_counts]

/-- Settles O26: a grant is traced to the queue it is for, a start and an end of a crossing to the queue and the frame they name, and what they do at the
egress leaves the tiles' buffers. -/
theorem grantsAndCrossings : Obligations.GrantsAndCrossings := ⟨grantsAndBalances, crossingStarts, crossingCompletes⟩

end Sys2Proof.Machine
end

section
/-!
PROOF. The transmit stage: finish tags (R303 to R305) and the choice among the classes (R301, R302, R306).
-/

set_option Elab.async false
set_option exponentiation.threshold 4096
set_option maxRecDepth 20000

namespace Sys2Proof.Machine

/-! ## A class written back with its frames and its pause -/

section
variable {s : State} {p c : Nat} {v : NClass}

theorem State.setNc_np (s : State) (p c : Nat) (v : NClass) : (s.setNc p c v).np p = { s.np p with cls := tset (s.np p).cls c {} v } :=
  State.setNp_np _ _ _

theorem State.setNc_bucketLevel (s : State) (p c : Nat) (v : NClass) (b : Nat) : (s.setNc p c v).bucketLevel p b = s.bucketLevel p b := by
  unfold State.bucketLevel
  rw [State.setNc_np]
  rfl

theorem State.setNc_bucketOk (s : State) (p c : Nat) (v : NClass) (b : Nat) : (s.setNc p c v).bucketOk p b = s.bucketOk p b := by
  unfold State.bucketOk
  rw [State.setNc_bucketLevel]
  rfl

theorem State.setNc_gateAdmits (s : State) (p c : Nat) (v : NClass) (d len : Nat) : (s.setNc p c v).gateAdmits p d len = s.gateAdmits p d len := by
  have hper : (s.setNc p c v).cyclePeriod p = s.cyclePeriod p := by
    unfold State.cyclePeriod
    rw [State.setNc_np]
    rfl
  have hend (k : Nat) (l : List (Nat × Nat)) : (s.setNc p c v).runEnd p d k l = s.runEnd p d k l := by
    unfold State.runEnd
    rw [hper]
  have hclose : (s.setNc p c v).windowClose p d = s.windowClose p d := by
    unfold State.windowClose
    dsimp only
    rw [hend, State.setNc_np]
    rfl
  unfold State.gateAdmits
  rw [hclose]
  rfl

/-- A class that keeps its frames and its pause leaves every class's candidacy (R301). -/
theorem State.setNc_candidate (hq : v.q = (s.nc p c).q) (hp : v.paused = (s.nc p c).paused) (d : Nat) :
    (s.setNc p c v).candidate p d = s.candidate p d := by
  have hnc : ((s.setNc p c v).nc p d).q = (s.nc p d).q ∧ ((s.setNc p c v).nc p d).paused = (s.nc p d).paused := by
    by_cases h : d = c
    · rw [h, State.setNc_nc]
      exact ⟨hq, hp⟩
    · rw [State.setNc_nc_ne _ _ _ _ fun hh => h hh.2]
      exact ⟨rfl, rfl⟩
  have helig : (s.setNc p c v).eligible p d = s.eligible p d := by
    unfold State.eligible
    rw [hnc.1]
    rfl
  have hpause : (s.setNc p c v).isPaused p d = s.isPaused p d := by
    unfold State.isPaused
    rw [hnc.2]
  unfold State.candidate
  rw [helig, hpause]
  simp only [State.setNc_gateAdmits, State.setNc_bucketOk]

end

/-! ## The tags before a decision -/

/-- A class before a decision (R304, R305), by its candidacy, its strictness, what its head is charged, its weight and V. -/
def NClass.tagged (v : NClass) (cand strict : Bool) (charge : Staged → Nat) (w : Nat) (pv : BitVec 64) : NClass :=
  match v.q with
  | [] => v
  | x :: _ =>
    if cand = false then { v with tag := none }
    else if v.tag.isSome ∨ strict = true then v
    else
      let n := charge x * 65536 + v.rem
      let base := if later v.fLast pv then v.fLast else pv
      { v with tag := some (base + BitVec.ofNat 64 (n / w)), rem := n % w }

/-- The class `c` of port `p` as `giveTags` leaves it. -/
def State.tagged (s : State) (p c : Nat) : NClass := (s.nc p c).tagged (s.candidate p c) (s.strict p c) (s.chargeOf p) (s.weight p c) (s.np p).v

theorem NClass.tagged_rest (v : NClass) (cand strict : Bool) (charge : Staged → Nat) (w : Nat) (pv : BitVec 64) :
    (v.tagged cand strict charge w pv).q = v.q ∧ (v.tagged cand strict charge w pv).paused = v.paused ∧
    (v.tagged cand strict charge w pv).fLast = v.fLast := by
  unfold NClass.tagged
  split
  · exact ⟨rfl, rfl, rfl⟩
  · split
    · exact ⟨rfl, rfl, rfl⟩
    · split <;> exact ⟨rfl, rfl, rfl⟩

/-- What `giveTags` does to one class. -/
def State.giveTag (p c : Nat) (s : State) : State :=
  let v := s.nc p c
  match v.q with
  | [] => s
  | x :: _ =>
    if s.candidate p c = false then s.setNc p c { v with tag := none }
    else if v.tag.isSome ∨ s.strict p c = true then s
    else
      let n := s.chargeOf p x * 65536 + v.rem
      let w := s.weight p c
      let base := if later v.fLast (s.np p).v then v.fLast else (s.np p).v
      s.setNc p c { v with tag := some (base + BitVec.ofNat 64 (n / w)), rem := n % w }

theorem State.giveTags_eq (s : State) (p : Nat) : s.giveTags p = forN 8 (State.giveTag p) s := rfl

theorem State.giveTag_or (s : State) (p c : Nat) : (s.giveTag p c = s ∧ s.tagged p c = s.nc p c) ∨ s.giveTag p c = s.setNc p c (s.tagged p c) := by
  unfold State.giveTag State.tagged NClass.tagged
  dsimp only
  split
  · exact Or.inl ⟨rfl, rfl⟩
  · split
    · exact Or.inr rfl
    · split
      · exact Or.inl ⟨rfl, rfl⟩
      · exact Or.inr rfl

/-- A port of Nimbus but its classes, and but its buckets. -/
def NPort.body (n : NPort) : NPort := { n with cls := [] }
def NPort.dry (n : NPort) : NPort := { n with buckets := [] }

section
variable {a b : NPort}

theorem NPort.v_of_body (h : a.body = b.body) : a.v = b.v := show a.body.v = b.body.v from congrArg _ h
theorem NPort.cur_of_body (h : a.body = b.body) : a.cur = b.cur := show a.body.cur = b.body.cur from congrArg _ h
theorem NPort.v_of_dry (h : a.dry = b.dry) : a.v = b.v := show a.dry.v = b.dry.v from congrArg _ h
theorem NPort.cur_of_dry (h : a.dry = b.dry) : a.cur = b.cur := show a.dry.cur = b.dry.cur from congrArg _ h
theorem NPort.cls_of_dry (h : a.dry = b.dry) : a.cls = b.cls := show a.dry.cls = b.dry.cls from congrArg _ h

end

/-- Two states agree on all of a port's transmit stage but the tags and remainders of its classes. -/
structure Tagging (s u : State) (p : Nat) : Prop where
  cand : ∀ d, u.candidate p d = s.candidate p d
  level : ∀ b, u.bucketLevel p b = s.bucketLevel p b
  r32 : u.r32 = s.r32
  np : (u.np p).body = (s.np p).body

section
variable {s u : State} {p : Nat}

theorem Tagging.refl (s : State) (p : Nat) : Tagging s s p := ⟨fun _ => rfl, fun _ => rfl, rfl, rfl⟩

theorem Tagging.setNc (h : Tagging s u p) {c : Nat} {v : NClass} (hq : v.q = (u.nc p c).q) (hp : v.paused = (u.nc p c).paused) :
    Tagging s (u.setNc p c v) p :=
  ⟨fun d => (State.setNc_candidate hq hp d).trans (h.cand d), fun b => (State.setNc_bucketLevel u p c v b).trans (h.level b), h.r32, by
    rw [State.setNc_np]
    exact h.np⟩

theorem Tagging.giveTag (h : Tagging s u p) (c : Nat) : Tagging s (u.giveTag p c) p := by
  obtain ⟨heq, -⟩ | heq := u.giveTag_or p c
  · rw [heq]
    exact h
  · obtain ⟨hq, hp, -⟩ := (u.nc p c).tagged_rest (u.candidate p c) (u.strict p c) (u.chargeOf p) (u.weight p c) (u.np p).v
    rw [heq]
    exact h.setNc hq hp

theorem Tagging.strict (h : Tagging s u p) (c : Nat) : u.strict p c = s.strict p c := by
  unfold State.strict State.hz State.flag State.fget State.rd
  rw [h.r32]

theorem Tagging.weight (h : Tagging s u p) (c : Nat) : u.weight p c = s.weight p c := by
  unfold State.weight State.hz State.flag State.fget State.rd
  rw [h.r32]

theorem Tagging.chargeOf (h : Tagging s u p) : u.chargeOf p = s.chargeOf p := by
  funext x
  unfold State.chargeOf State.schedLen State.maxFrame State.ovh State.hz State.flag State.fget State.rd
  rw [h.r32]

theorem Tagging.bucketCfg (h : Tagging s u p) (b : Nat) : u.bucketCfg p b = s.bucketCfg p b := by
  unfold State.bucketCfg State.hz State.flag State.fget State.rd
  rw [h.r32]

theorem Tagging.v (h : Tagging s u p) : (u.np p).v = (s.np p).v := NPort.v_of_body h.np

/-- A class that is as it was is tagged as it would have been. -/
theorem Tagging.tagged (h : Tagging s u p) {c : Nat} (hc : u.nc p c = s.nc p c) : u.tagged p c = s.tagged p c := by
  unfold State.tagged
  rw [hc, h.cand, h.strict, h.chargeOf, h.weight, h.v]

theorem State.giveTag_nc (u : State) (p c : Nat) : (u.giveTag p c).nc p c = u.tagged p c := by
  obtain ⟨heq, ht⟩ | heq := u.giveTag_or p c
  · rw [heq, ht]
  · rw [heq, State.setNc_nc]

theorem State.giveTag_nc_ne (u : State) {p c d : Nat} (h : d ≠ c) : (u.giveTag p c).nc p d = u.nc p d := by
  obtain ⟨heq, -⟩ | heq := u.giveTag_or p c
  · rw [heq]
  · rw [heq, State.setNc_nc_ne _ _ _ _ fun hh => h hh.2]

theorem forN_succ {α : Type} (n : Nat) (f : Nat → α → α) (a : α) : forN (n + 1) f a = f n (forN n f a) := by
  unfold forN
  rw [List.range_succ, List.foldl_append]
  rfl

theorem State.giveTags_upto (s : State) (p n : Nat) : Tagging s (forN n (State.giveTag p) s) p ∧
    ∀ d, (forN n (State.giveTag p) s).nc p d = if d < n then s.tagged p d else s.nc p d := by
  induction n with
  | zero => exact ⟨Tagging.refl s p, fun d => rfl⟩
  | succ n ih =>
    obtain ⟨ht, hn⟩ := ih
    rw [forN_succ]
    refine ⟨ht.giveTag n, fun d => ?_⟩
    by_cases hd : d = n
    · rw [hd, State.giveTag_nc, if_pos (Nat.lt_succ_self n), ht.tagged]
      rw [hn, if_neg (Nat.lt_irrefl n)]
    · rw [State.giveTag_nc_ne _ hd, hn]
      by_cases hlt : d < n
      · rw [if_pos hlt, if_pos (by omega)]
      · rw [if_neg hlt, if_neg (by omega)]

theorem State.giveTags_tagging (s : State) (p : Nat) : Tagging s (s.giveTags p) p := (s.giveTags_upto p 8).1

theorem State.giveTags_nc (s : State) (p : Nat) {c : Nat} (hc : c < 8) : (s.giveTags p).nc p c = s.tagged p c := by
  rw [State.giveTags_eq, (s.giveTags_upto p 8).2, if_pos hc]

end

theorem later_iff (a b : BitVec 64) : later a b = true ↔ 0 < (a - b).toInt := decide_eq_true_iff

theorem NClass.tagged_cons {v : NClass} {x : Staged} {r : List Staged} (hq : v.q = x :: r) (cand strict : Bool) (charge : Staged → Nat) (w : Nat)
    (pv : BitVec 64) : v.tagged cand strict charge w pv = if cand = false then { v with tag := none }
      else if v.tag.isSome ∨ strict = true then v
      else { v with
        tag := some ((if later v.fLast pv then v.fLast else pv) + BitVec.ofNat 64 ((charge x * 65536 + v.rem) / w))
        rem := (charge x * 65536 + v.rem) % w } := by
  cases v
  cases hq
  rfl

theorem finishTags : Claims.FinishTags := by
  intro s p c x r hc hq
  have htag := NClass.tagged_cons hq (s.candidate p c) (s.strict p c) (s.chargeOf p) (s.weight p c) (s.np p).v
  rw [← State.tagged] at htag
  obtain ⟨hqq, -, hlast⟩ := (s.nc p c).tagged_rest (s.candidate p c) (s.strict p c) (s.chargeOf p) (s.weight p c) (s.np p).v
  rw [State.giveTags_nc s p hc]
  refine ⟨fun hn => ?_, fun hcand hst htn => ?_, fun tag hcand ht => ?_, hlast, hqq⟩
  · rw [htag, if_pos hn]
  · rw [if_neg (by rw [hcand]; decide), if_neg (by rw [htn, hst]; decide)] at htag
    simp only [later_iff] at htag
    intro n base
    rw [htag]
    exact ⟨rfl, rfl⟩
  · rw [htag, if_neg (by rw [hcand]; decide), if_pos (Or.inl (by rw [ht]; rfl)), ht]

/-! ## The smallest tag -/

/-- Tags of one range compare as their distances from its start (R306). -/
theorem later_range {a b c : BitVec 64} (ha : (a - c).toNat < 2 ^ 62) (hb : (b - c).toNat < 2 ^ 62) :
    0 < (a - b).toInt ↔ (b - c).toNat < (a - c).toNat := by
  have heq : a - b = (a - c) - (b - c) := (sub_sub_sub_cancel_right a b c).symm
  rw [heq]
  generalize a - c = x at *
  generalize b - c = y at *
  rw [BitVec.toInt_eq_toNat_cond, BitVec.toNat_sub]
  split <;> omega

/-- The tag of a class, 0 where it has none. -/
def State.tagOf (s : State) (p c : Nat) : BitVec 64 := (s.nc p c).tag.getD 0

/-- Class `c` goes before class `d`: an earlier tag, or the same and a higher number (R302, R306). -/
def State.before (s : State) (p c d : Nat) : Prop := 0 < (s.tagOf p d - s.tagOf p c).toInt ∨ (s.tagOf p d = s.tagOf p c ∧ d < c)

/-- One comparison of `smallestTag`. -/
def State.firstOf (s : State) (p : Nat) (best : Option Nat) (c : Nat) : Option Nat :=
  match best with
  | none => some c
  | some b => if later (s.tagOf p c) (s.tagOf p b) then some b else some c

theorem State.smallestTag_eq (s : State) (p : Nat) (cs : List Nat) : s.smallestTag p cs = cs.foldl (s.firstOf p) none := rfl

section
variable {s : State} {p : Nat} {b : BitVec 64} {Q : Nat → Prop}

theorem State.before_iff (hrange : ∀ c, Q c → (s.tagOf p c - b).toNat < 2 ^ 62) {c d : Nat} (hc : Q c) (hd : Q d) : s.before p c d ↔
    (s.tagOf p c - b).toNat < (s.tagOf p d - b).toNat ∨ ((s.tagOf p c - b).toNat = (s.tagOf p d - b).toNat ∧ d < c) := by
  have heq : s.tagOf p d = s.tagOf p c ↔ (s.tagOf p c - b).toNat = (s.tagOf p d - b).toNat :=
    ⟨fun h => by rw [h], fun h => (sub_left_injective (BitVec.eq_of_toNat_eq h)).symm⟩
  unfold State.before
  rw [later_range (hrange d hd) (hrange c hc), heq]

theorem State.firstOf_fold (hrange : ∀ c, Q c → (s.tagOf p c - b).toNat < 2 ^ 62) {cs : List Nat} (hcs : ∀ c ∈ cs, Q c) (hsort : cs.Pairwise (· < ·))
    {m : Nat} (hm : Q m) (hlt : ∀ c ∈ cs, m < c) : ∃ c, cs.foldl (s.firstOf p) (some m) = some c ∧ (c = m ∨ c ∈ cs) ∧
      (c ≠ m → s.before p c m) ∧ ∀ d ∈ cs, d ≠ c → s.before p c d := by
  induction cs generalizing m with
  | nil => exact ⟨m, rfl, Or.inl rfl, fun h => absurd rfl h, fun d hd => absurd hd (List.not_mem_nil)⟩
  | cons a r ih =>
    obtain ⟨har, hr⟩ := List.pairwise_cons.1 hsort
    have ha := hcs a List.mem_cons_self
    have hma := hlt a List.mem_cons_self
    have hr8 : ∀ c ∈ r, Q c := fun c hc => hcs c (List.mem_cons_of_mem _ hc)
    have hiff {c d : Nat} (hc : Q c) (hd : Q d) := State.before_iff hrange hc hd
    have htrans {c d e : Nat} (hc : Q c) (hd : Q d) (he : Q e) (h1 : s.before p c d) (h2 : s.before p d e) : s.before p c e := by
      rw [hiff hc hd] at h1
      rw [hiff hd he] at h2
      rw [hiff hc he]
      omega
    rw [List.foldl_cons]
    by_cases hl : later (s.tagOf p a) (s.tagOf p m) = true
    · have hba : s.before p m a := Or.inl ((later_iff _ _).1 hl)
      obtain ⟨c, hc, hmem, hbm, hbd⟩ := ih hr8 hr hm fun c hc => hlt c (List.mem_cons_of_mem _ hc)
      refine ⟨c, ?_, hmem.imp id (List.mem_cons_of_mem _), hbm, fun d hd hdc => ?_⟩
      · rw [State.firstOf, if_pos hl]
        exact hc
      · obtain rfl | hd := List.mem_cons.1 hd
        · by_cases hcm : c = m
          · exact hcm ▸ hba
          · exact htrans (hmem.elim (fun h => h ▸ hm) (hr8 c)) hm ha (hbm hcm) hba
        · exact hbd d hd hdc
    · have hbm : s.before p a m := by
        rw [later_iff, later_range (hrange a ha) (hrange m hm)] at hl
        rw [hiff ha hm]
        omega
      obtain ⟨c, hc, hmem, hba, hbd⟩ := ih hr8 hr ha har
      refine ⟨c, ?_, Or.inr (hmem.elim (fun h => h ▸ List.mem_cons_self) (List.mem_cons_of_mem _)), fun _ => ?_, fun d hd hdc => ?_⟩
      · rw [State.firstOf, if_neg hl]
        exact hc
      · by_cases hca : c = a
        · exact hca ▸ hbm
        · exact htrans (hmem.elim (fun h => h ▸ ha) (hr8 c)) ha hm (hba hca) hbm
      · obtain rfl | hd := List.mem_cons.1 hd
        · exact hba (Ne.symm hdc)
        · exact hbd d hd hdc

/-- The class with the smallest tag goes before every other of the list. -/
theorem State.smallestTag_spec (hrange : ∀ c, Q c → (s.tagOf p c - b).toNat < 2 ^ 62) {cs : List Nat} (hcs : ∀ c ∈ cs, Q c)
    (hsort : cs.Pairwise (· < ·)) (hne : cs ≠ []) : ∃ c, s.smallestTag p cs = some c ∧ c ∈ cs ∧ ∀ d ∈ cs, d ≠ c → s.before p c d := by
  cases cs with
  | nil => exact absurd rfl hne
  | cons a r =>
    obtain ⟨hlt, hr⟩ := List.pairwise_cons.1 hsort
    obtain ⟨c, hc, hmem, hbm, hbd⟩ := State.firstOf_fold hrange (fun c hc => hcs c (List.mem_cons_of_mem _ hc)) hr (hcs a List.mem_cons_self) hlt
    refine ⟨c, hc, hmem.elim (fun h => h ▸ List.mem_cons_self) (List.mem_cons_of_mem _), fun d hd hdc => ?_⟩
    obtain rfl | hd := List.mem_cons.1 hd
    · exact hbm (Ne.symm hdc)
    · exact hbd d hd hdc

end

/-! ## The choice -/

section
variable {s : State} {p c : Nat}

theorem getLast?_of_max {l : List Nat} (hsort : l.Pairwise (· < ·)) (hmem : c ∈ l) (hmax : ∀ d ∈ l, d ≤ c) : l.getLast? = some c := by
  have hne := List.ne_nil_of_mem hmem
  have hle : ∀ d ∈ l, d ≤ l.getLast hne := by
    intro d hd
    obtain ⟨i, hi, rfl⟩ := List.getElem_of_mem hd
    rw [List.getLast_eq_getElem]
    rcases Nat.lt_or_ge i (l.length - 1) with h | h
    · exact (List.pairwise_iff_getElem.1 hsort i (l.length - 1) hi (by omega) h).le
    · exact le_of_eq (by congr 1; omega)
  rw [List.getLast?_eq_some_getLast hne]
  exact congrArg some (le_antisymm (hmax _ (List.getLast_mem hne)) (hle c hmem))

/-- The candidates among the classes, in order. -/
def State.candidates (s : State) (p : Nat) : List Nat := (List.range 8).filter (s.candidate p)

theorem State.mem_candidates : c ∈ s.candidates p ↔ c < 8 ∧ s.candidate p c = true := by
  unfold State.candidates
  rw [List.mem_filter, List.mem_range]

theorem State.candidates_sorted (q : Nat → Bool) : ((s.candidates p).filter q).Pairwise (· < ·) :=
  (List.pairwise_lt_range.filter _).filter _

/-- The candidates of the committed tier: a shaper that is on, at 0 or above (R302). -/
def State.inCommitted (s : State) (p c : Nat) : Bool := (s.bucketCfg p (2 * c)).2.2 && decide (0 ≤ s.bucketLevel p (2 * c))

theorem State.choose_eq (s : State) (p : Nat) : s.choose p = match ((s.candidates p).filter (s.strict p)).getLast? with
    | some c => some c
    | none =>
      if (((s.candidates p).filter (fun c => !s.strict p c)).filter (s.inCommitted p)).isEmpty then
        s.smallestTag p ((s.candidates p).filter (fun c => !s.strict p c))
      else s.smallestTag p (((s.candidates p).filter (fun c => !s.strict p c)).filter (s.inCommitted p)) := rfl

theorem State.choose_none (h : ∀ c, c < 8 → s.candidate p c = false) : s.choose p = none := by
  have hnil : s.candidates p = [] := List.filter_eq_nil_iff.2 fun c hc => by
    rw [h c (List.mem_range.1 hc)]
    decide
  rw [State.choose_eq, hnil]
  rfl

theorem State.choose_strict (hc : c < 8) (hcand : s.candidate p c = true) (hst : s.strict p c = true)
    (hmax : ∀ d, c < d → d < 8 → s.candidate p d = true → s.strict p d = false) : s.choose p = some c := by
  rw [State.choose_eq, getLast?_of_max (s.candidates_sorted _) (List.mem_filter.2 ⟨State.mem_candidates.2 ⟨hc, hcand⟩, hst⟩) fun d hd => ?_]
  obtain ⟨hd, hds⟩ := List.mem_filter.1 hd
  obtain ⟨hd8, hdc⟩ := State.mem_candidates.1 hd
  by_contra hlt
  rw [hmax d (by omega) hd8 hdc] at hds
  exact Bool.noConfusion hds

/-- Among candidates of which none is strict, the tier's first (R302). -/
theorem State.choose_tagged {b : BitVec 64} (hst : ∀ c, c < 8 → s.candidate p c = true → s.strict p c = false)
    (hrange : ∀ c, c < 8 ∧ s.candidate p c = true → (s.tagOf p c - b).toNat < 2 ^ 62) (hex : ∃ c, c < 8 ∧ s.candidate p c = true) :
    ∃ c, s.choose p = some c ∧ c < 8 ∧ s.candidate p c = true ∧ ∀ d, d < 8 → d ≠ c → s.candidate p d = true →
      (s.inCommitted p d = true → s.inCommitted p c = true) ∧ ((s.inCommitted p c = true → s.inCommitted p d = true) → s.before p c d) := by
  have hnost : (s.candidates p).filter (s.strict p) = [] := List.filter_eq_nil_iff.2 fun c hc => by
    obtain ⟨h8, hcand⟩ := State.mem_candidates.1 hc
    rw [hst c h8 hcand]
    decide
  have hall : (s.candidates p).filter (fun c => !s.strict p c) = s.candidates p := List.filter_eq_self.2 fun c hc => by
    obtain ⟨h8, hcand⟩ := State.mem_candidates.1 hc
    rw [hst c h8 hcand]
    rfl
  rw [State.choose_eq, hnost, hall]
  dsimp only [List.getLast?_nil]
  by_cases hnil : (s.candidates p).filter (s.inCommitted p) = []
  · obtain ⟨e, he, hecand⟩ := hex
    obtain ⟨c, hc, hmem, hb⟩ := State.smallestTag_spec hrange (cs := s.candidates p) (fun c hc => State.mem_candidates.1 hc)
      (List.pairwise_lt_range.filter _) (List.ne_nil_of_mem (State.mem_candidates.2 ⟨he, hecand⟩))
    obtain ⟨h8, hcand⟩ := State.mem_candidates.1 hmem
    have hno (d : Nat) (hd : d < 8) (hdc : s.candidate p d = true) : ¬ s.inCommitted p d = true :=
      List.filter_eq_nil_iff.1 hnil d (State.mem_candidates.2 ⟨hd, hdc⟩)
    refine ⟨c, by rw [hnil]; exact hc, h8, hcand, fun d hd hdc hdcand => ⟨fun h => absurd h (hno d hd hdcand), fun _ => ?_⟩⟩
    exact hb d (State.mem_candidates.2 ⟨hd, hdcand⟩) hdc
  · obtain ⟨c, hc, hmem, hb⟩ := State.smallestTag_spec hrange (cs := (s.candidates p).filter (s.inCommitted p))
      (fun c hc => State.mem_candidates.1 (List.mem_filter.1 hc).1) (s.candidates_sorted _) hnil
    obtain ⟨hmem, hcom⟩ := List.mem_filter.1 hmem
    obtain ⟨h8, hcand⟩ := State.mem_candidates.1 hmem
    refine ⟨c, ?_, h8, hcand, fun d hd hdc hdcand => ⟨fun _ => hcom, fun h => ?_⟩⟩
    · rw [if_neg (by simpa using hnil)]
      exact hc
    · exact hb d (List.mem_filter.2 ⟨State.mem_candidates.2 ⟨hd, hdcand⟩, h hcom⟩) hdc

end

/-! ## The head that is sent -/

theorem State.np_of_tm {s u : State} (h : u.tm = s.tm) (p : Nat) : u.np p = s.np p := by
  unfold State.np
  rw [h]

/-- Comparing heads leaves the port and F_last of the class (R322). -/
theorem State.headCheck_np (s : State) (p c n : Nat) : ((s.headCheck p c n).np p).body = (s.np p).body ∧
    ((s.headCheck p c n).nc p c).fLast = (s.nc p c).fLast := by
  induction n generalizing s with
  | zero => exact ⟨rfl, rfl⟩
  | succ n ih =>
    simp only [State.headCheck]
    split
    · exact ⟨rfl, rfl⟩
    · split
      · obtain ⟨h1, h2⟩ := ih (((s.setNc p c { s.nc p c with q := _, tag := none }).discardAt p 0x0513 _))
        refine ⟨h1.trans ?_, h2.trans ?_⟩
        · rw [State.np_of_tm (State.discardAt_tm _ _ _ _), State.setNc_np]
          rfl
        · rw [State.nc, State.np_of_tm (State.discardAt_tm _ _ _ _), ← State.nc, State.setNc_nc]
      · exact ⟨rfl, rfl⟩

theorem State.bucketTake_np (s : State) (p k : Nat) (n : Int) : ((s.bucketTake p k n).np p).dry = (s.np p).dry := by
  unfold State.bucketTake
  split
  · dsimp only
    rw [State.setNp_np]
    rfl
  · rfl

section
variable {s : State} {p c : Nat} {x : Staged} {rest : List Staged}

/-- A head that is chosen is being sent, and V and F_last follow it unless its class is strict (R302 to R304). -/
theorem State.sendHead_spec (hq : (s.nc p c).q = x :: rest) : ∃ y, ((s.sendHead p c).np p).cur = some y ∧ y.m = x.m ∧ y.data = x.data ∧
    ((s.sendHead p c).np p).v = (if s.strict p c then (s.np p).v else (s.nc p c).tag.getD 0) ∧
    ((s.sendHead p c).nc p c).fLast = if s.strict p c then (s.nc p c).fLast else (s.nc p c).tag.getD 0 := by
  obtain ⟨ls, hls⟩ : ∃ ls, ls = s.chargeOf p x := ⟨_, rfl⟩
  obtain ⟨s1, hs1⟩ : ∃ s1, s1 = s.setNc p c
    { s.nc p c with q := rest, tag := none, fLast := if s.strict p c then (s.nc p c).fLast else (s.nc p c).tag.getD 0 } := ⟨_, rfl⟩
  obtain ⟨y, hy⟩ : ∃ y : Staged, y = { x with charged := if x.last || !x.ct then none else some ls } := ⟨_, rfl⟩
  obtain ⟨s2, hs2⟩ : ∃ s2, s2 = s1.setNp p { s1.np p with
    v := (if s.strict p c then (s1.np p).v else (s.nc p c).tag.getD 0), curNs := s.txStamp p, cur := some y } := ⟨_, rfl⟩
  obtain ⟨s3, hs3⟩ : ∃ s3, s3 = (((s2.bucketTake p (2 * c) ls).bucketTake p (2 * c + 1) ls).bucketTake p 16 ls).bucketTake p 17 ls := ⟨_, rfl⟩
  have hsend : s.sendHead p c = s3.headCheck p c rest.length := by
    unfold State.sendHead
    dsimp only
    split
    · next h => cases hq.symm.trans h
    · next x' rest' h =>
      obtain ⟨rfl, rfl⟩ := List.cons.inj (hq.symm.trans h)
      rw [hs3, hs2, hy, hs1, hls]
  have hb : (s3.np p).dry = (s2.np p).dry := by
    rw [hs3, State.bucketTake_np, State.bucketTake_np, State.bucketTake_np, State.bucketTake_np]
  obtain ⟨hnp, hlast⟩ := s3.headCheck_np p c rest.length
  have hcur : ((s3.headCheck p c rest.length).np p).cur = (s3.np p).cur := NPort.cur_of_body hnp
  have hv : ((s3.headCheck p c rest.length).np p).v = (s3.np p).v := NPort.v_of_body hnp
  have hcur3 : (s3.np p).cur = (s2.np p).cur := NPort.cur_of_dry hb
  have hv3 : (s3.np p).v = (s2.np p).v := NPort.v_of_dry hb
  have hcls3 : (s3.np p).cls = (s2.np p).cls := NPort.cls_of_dry hb
  have hv1 : (s1.np p).v = (s.np p).v := by rw [hs1, State.setNc_np]
  rw [hsend, hcur, hv, hlast, hcur3, hv3]
  refine ⟨y, by rw [hs2, State.setNp_np], by rw [hy], by rw [hy], by rw [hs2, State.setNp_np, hv1], ?_⟩
  rw [State.nc, hcls3, hs2, State.setNp_np]
  dsimp only
  rw [← State.nc, hs1, State.setNc_nc]

theorem State.candidate_head (h : s.candidate p c = true) : ∃ x rest, (s.nc p c).q = x :: rest := by
  unfold State.candidate State.eligible at h
  cases hq : (s.nc p c).q with
  | nil =>
    rw [hq] at h
    exact Bool.noConfusion h
  | cons x rest => exact ⟨x, rest, rfl⟩

end

section
variable {s : State} {p : Nat}

theorem execTxDecision_none (hr : s.txReady p = true) (hc : (s.np p).ctl = []) (hch : (s.giveTags p).choose p = none) :
    execTxDecision p s = .next (s.giveTags p) := by
  unfold execTxDecision State.txDecide
  rw [if_neg (by rw [hr]; decide), hc]
  dsimp only
  rw [hch]

theorem execTxDecision_choice {c : Nat} (hr : s.txReady p = true) (hc : (s.np p).ctl = []) (hch : (s.giveTags p).choose p = some c) :
    execTxDecision p s = .next ((s.giveTags p).sendHead p c) := by
  unfold execTxDecision State.txDecide
  rw [if_neg (by rw [hr]; decide), hc]
  dsimp only
  rw [hch]

theorem State.giveTags_q {c : Nat} (hc : c < 8) : ((s.giveTags p).nc p c).q = (s.nc p c).q ∧ ((s.giveTags p).nc p c).fLast = (s.nc p c).fLast := by
  rw [s.giveTags_nc p hc]
  obtain ⟨h1, -, h3⟩ := (s.nc p c).tagged_rest (s.candidate p c) (s.strict p c) (s.chargeOf p) (s.weight p c) (s.np p).v
  exact ⟨h1, h3⟩

/-- A candidate that is not strict has a tag before the decision (R304). -/
theorem State.giveTags_tag {c : Nat} (hc : c < 8) (hcand : s.candidate p c = true) (hst : s.strict p c = false) :
    ∃ tag, ((s.giveTags p).nc p c).tag = some tag := by
  obtain ⟨x, rest, hq⟩ := State.candidate_head hcand
  rw [s.giveTags_nc p hc, State.tagged, NClass.tagged_cons hq, if_neg (by rw [hcand]; decide), hst]
  cases ht : (s.nc p c).tag with
  | none => exact ⟨_, rfl⟩
  | some tag => exact ⟨tag, by simp [ht]⟩

theorem State.txReady_cur (h : s.txReady p = true) : (s.np p).cur = none := by
  unfold State.txReady at h
  simp only [Bool.and_eq_true, Option.isNone_iff_eq_none] at h
  exact h.1.1.1.2

end

theorem transmitChoices : Claims.TransmitChoice := by
  intro s p
  have ht := s.giveTags_tagging p
  refine ⟨fun hr => ?_, fun hr f r hc => ?_, fun hr hc hno => ?_, fun c hr hc h8 hcand hst hmax => ?_, fun b hr hc hst hrange hex => ?_⟩
  · show execTxDecision p s = _
    unfold execTxDecision State.txDecide
    rw [if_pos hr]
  · have hexec : exec (.txDecision p) s = .next (s.setNp p { s.np p with ctl := r, curCtl := some f }) := by
      show execTxDecision p s = _
      unfold execTxDecision State.txDecide
      rw [if_neg (by rw [hr]; decide), hc]
    refine ⟨_, hexec, ?_⟩
    unfold State.nc
    rw [State.setNp_np]
    exact ⟨rfl, rfl, State.txReady_cur hr, fun c => rfl, OnlyRegs.refl _ _⟩
  · have hnone : (s.giveTags p).choose p = none := State.choose_none fun c h8 => (ht.cand c).trans (hno c h8)
    refine ⟨s.giveTags p, execTxDecision_none hr hc hnone, ?_, ht.v, fun c h8 => ⟨(State.giveTags_q h8).1, fun hq => ?_⟩⟩
    · exact (NPort.cur_of_body ht.np).trans (State.txReady_cur hr)
    · obtain ⟨x, r, hxr⟩ := List.exists_cons_of_ne_nil hq
      exact (finishTags s p c x r h8 hxr).1 (hno c h8)
  · have hch : (s.giveTags p).choose p = some c := State.choose_strict h8 ((ht.cand c).trans hcand) ((ht.strict c).trans hst)
      fun d h1 h2 h3 => (ht.strict d).trans (hmax d h1 h2 ((ht.cand d).symm.trans h3))
    obtain ⟨x, rest, hq⟩ := State.candidate_head hcand
    obtain ⟨y, hcur, hm, hd, hv, hl⟩ := State.sendHead_spec (s := s.giveTags p) ((State.giveTags_q h8).1.trans hq)
    rw [ht.strict, hst] at hv hl
    exact ⟨_, x, y, execTxDecision_choice hr hc hch, by rw [hq]; rfl, hcur, hm, hd, hv.trans ht.v, hl.trans (State.giveTags_q h8).2⟩
  · have hst' : ∀ c, c < 8 → (s.giveTags p).candidate p c = true → (s.giveTags p).strict p c = false := fun c h8 h =>
      (ht.strict c).trans (hst c h8 ((ht.cand c).symm.trans h))
    have htag : ∀ c, c < 8 → s.candidate p c = true → ((s.giveTags p).nc p c).tag = some ((s.giveTags p).tagOf p c) := fun c h8 h => by
      obtain ⟨tag, htag⟩ := State.giveTags_tag h8 h (hst c h8 h)
      rw [State.tagOf, htag]
      rfl
    obtain ⟨e, he, hecand⟩ := hex
    obtain ⟨c, hch, h8, hcand, hfirst⟩ := State.choose_tagged (s := s.giveTags p) (b := b) hst'
      (fun c h => hrange c _ h.1 (htag c h.1 ((ht.cand c).symm.trans h.2))) ⟨e, he, (ht.cand e).trans hecand⟩
    have hcand := (ht.cand c).symm.trans hcand
    have hcom (d : Nat) : (s.giveTags p).inCommitted p d = true ↔ (s.bucketCfg p (2 * d)).2.2 = true ∧ 0 ≤ s.bucketLevel p (2 * d) := by
      rw [State.inCommitted, ht.bucketCfg, ht.level, Bool.and_eq_true, decide_eq_true_iff]
    obtain ⟨x, rest, hq⟩ := State.candidate_head hcand
    obtain ⟨y, hcur, hm, -, hv, hl⟩ := State.sendHead_spec (s := s.giveTags p) ((State.giveTags_q h8).1.trans hq)
    simp only [ht.strict, hst c h8 hcand, htag c h8 hcand, Bool.false_eq_true, if_false, Option.getD_some] at hv hl
    refine ⟨_, c, x, y, (s.giveTags p).tagOf p c, execTxDecision_choice hr hc hch, h8, hcand, by rw [hq]; rfl, hcur, hm, htag c h8 hcand, hv, hl,
      fun d hd hdc hdcand => ?_⟩
    obtain ⟨h1, h2⟩ := hfirst d hd hdc ((ht.cand d).trans hdcand)
    rw [hcom, hcom] at h1 h2
    exact ⟨h1, fun h => ⟨_, htag d hd hdcand, h2 h⟩⟩

/-- Settles O27: the tags of a decision by class, then the first of the tier by R306's order, which is linear on tags of one range. -/
theorem transmitChoice : Obligations.TransmitChoice := ⟨transmitChoices, finishTags⟩

end Sys2Proof.Machine
end

section
/-!
PROOF. Pause in both directions, the watchdog, and the end of what a port sends (R274, R275, R278, R335, R550).
-/

set_option Elab.async false
set_option exponentiation.threshold 4096
set_option maxRecDepth 20000

namespace Sys2Proof.Machine

/-! ## What leaves the egress ports -/

/-- The egress ports but their waiting control frames. -/
def State.lines (s : State) (p : Nat) : NPort := { s.np p with ctl := [] }

theorem State.lines_of_tm {s u : State} (h : u.tm = s.tm) : u.lines = s.lines := by
  unfold State.lines State.np
  rw [h]

theorem State.nc_of_lines {s u : State} (h : u.lines = s.lines) : u.nc = s.nc := by
  funext p c
  show tget (u.lines p).cls c {} = tget (s.lines p).cls c {}
  rw [h]

theorem State.nc_of_tm {s u : State} (h : u.tm = s.tm) : u.nc = s.nc := State.nc_of_lines (State.lines_of_tm h)

theorem State.queueCtl_lines (s : State) (p : Nat) (f : List Byte) : (s.queueCtl p f).lines = s.lines := by
  unfold State.queueCtl
  split
  · funext p'
    unfold State.lines
    by_cases hp : p' = p
    · rw [hp, State.setNp_np]
    · rw [State.setNp_np_ne _ _ _ _ hp]
  · rfl

theorem State.pauseChange_lines (s : State) (p : Nat) (l : List Nat) : (s.pauseChange p l).lines = s.lines := by
  unfold State.pauseChange
  dsimp only
  split
  · rfl
  · split
    · exact State.queueCtl_lines _ _ _
    · split
      · exact State.queueCtl_lines _ _ _
      · split
        · exact State.queueCtl_lines _ _ _
        · rfl
    · rfl

theorem State.setXoff_lines (s : State) (p i c : Nat) (on : Bool) : (s.setXoff p i c on).lines = s.lines := State.lines_of_tm rfl

theorem State.pgScan_lines (s : State) (t : Nat) : (s.pgScan t).lines = s.lines := by
  unfold State.pgScan
  refine State.each_view State.lines fun p u => ?_
  dsimp only
  rw [State.pauseChange_lines]
  refine forN_keeps_view State.lines fun i w => ?_
  split
  · split
    · split
      · exact State.setXoff_lines _ _ _ _ _
      · rfl
    · split
      · exact State.setXoff_lines _ _ _ _ _
      · rfl
  · split
    · exact State.setXoff_lines _ _ _ _ _
    · rfl

theorem State.setBuf_lines (s : State) (t : Nat) (v : BufSt) : (s.setBuf t v).lines = s.lines := rfl

theorem State.freeCellList_lines (s : State) (t : Nat) (cs : List Nat) : (s.freeCellList t cs).lines = s.lines := by
  unfold State.freeCellList
  refine State.each_view State.lines fun c u => ?_
  dsimp only
  split
  · split
    · exact State.lines_of_tm (State.report_tm _ _ _ _)
    · rfl
  · split <;> rfl

theorem State.setFrame_lines (s : State) (t fid : Nat) (f : Frame) : (s.setFrame t fid f).lines = s.lines := State.setBuf_lines _ _ _

theorem State.uncharge_lines (s : State) (p i n : Nat) : (s.uncharge p i n).lines = s.lines := State.lines_of_tm rfl

theorem State.freeFrameCells_lines (s : State) (t fid : Nat) : (s.freeFrameCells t fid).lines = s.lines := by
  unfold State.freeFrameCells
  dsimp only
  rw [State.pgScan_lines]
  split
  · rw [State.setBuf_lines, State.setFrame_lines, State.freeCellList_lines]
  · rw [State.uncharge_lines, State.setFrame_lines, State.freeCellList_lines]

theorem State.sweep_lines (s : State) (t fid : Nat) : (s.sweep t fid).lines = s.lines := by
  unfold State.sweep
  dsimp only
  split
  · exact State.setBuf_lines _ _ _
  · rfl

theorem State.endRef_lines (s : State) (t fid : Nat) : (s.endRef t fid).lines = s.lines := by
  unfold State.endRef
  dsimp only
  split
  · rw [State.sweep_lines, State.freeFrameCells_lines, State.setFrame_lines]
  · exact State.setFrame_lines _ _ _ _

/-! ## A queue flushed (R252) -/

section
variable (s : State)

theorem State.dropRefs_lines (t code : Nat) (l : List Ref) : (s.dropRefs t code l).lines = s.lines :=
  State.each_view State.lines fun _ u => (State.endRef_lines _ _ _).trans (State.lines_of_tm (u.discard_tm _ _ _))

theorem State.dropRefs_voq (t code : Nat) (l : List Ref) (t' q : Nat) : (s.dropRefs t code l).voq t' q = s.voq t' q :=
  State.each_view (fun u => u.voq t' q) fun _ u =>
    (State.endRef_voq _ _ _ _ _).trans (State.voq_of_tiles (State.tiles_of_tm (u.discard_tm _ _ _)) _ _)

theorem State.dropRecs_lines (t code : Nat) (l : List Rec) : (s.dropRecs t code l).lines = s.lines :=
  (State.pgScan_lines _ _).trans (State.each_view State.lines fun _ _ => (State.lines_of_tm (State.discard_tm _ _ _ _)).trans (State.setBuf_lines _ _ _))

theorem State.setAnvUsed_cargo (t p i v t' : Nat) : (s.setAnvUsed t p i v).cargo t' = s.cargo t' := s.cargo_setBuf t' rfl rfl

theorem State.dropRecs_cargo (t code : Nat) (l : List Rec) (t' : Nat) : (s.dropRecs t code l).cargo t' = s.cargo t' := by
  unfold State.dropRecs
  rw [State.cargo_of_tiles (State.pgScan_tiles _ _)]
  exact State.each_view (fun u => u.cargo t') fun r u =>
    (State.cargo_of_tiles (State.tiles_of_tm (State.discard_tm _ _ _ _)) t').trans (u.setAnvUsed_cargo t _ _ _ t')

theorem State.freePages_tiles (ps : List Nat) : (s.freePages ps).tiles = s.tiles := by
  unfold State.freePages
  refine State.each_view State.tiles fun p u => ?_
  dsimp only
  split
  · exact State.tiles_of_tm (State.report_tm _ _ _ _)
  · split <;> rfl

theorem State.freePages_lines (ps : List Nat) : (s.freePages ps).lines = s.lines := by
  unfold State.freePages
  refine State.each_view State.lines fun p u => ?_
  dsimp only
  split
  · exact State.lines_of_tm (State.report_tm _ _ _ _)
  · split <;> rfl

theorem State.drainCheck_tm : s.drainCheck.tm = s.tm := (State.drainCheck_keeps (.rfl' .butTm s)).tm rfl

/-- What a flush leaves of a queue: the frame that crosses goes on. -/
def Voq.flushed (v : Voq) : Voq := { crossing := v.crossing, safe := v.safe, rot := v.rot }

theorem State.flushQueue_lines (t q code : Nat) : (s.flushQueue t q code).lines = s.lines := by
  unfold State.flushQueue
  dsimp only
  rw [State.lines_of_tm (State.drainCheck_tm _), State.freePages_lines, State.dropRecs_lines, State.dropRefs_lines]
  rfl

theorem State.flushQueue_voq (t q code t' q' : Nat) :
    (s.flushQueue t q code).voq t' q' = if t' = t ∧ q' = q then (s.voq t q).flushed else s.voq t' q' := by
  unfold State.flushQueue
  dsimp only
  rw [State.voq_of_tiles (State.tiles_of_tm (State.drainCheck_tm _)), State.voq_of_tiles (State.freePages_tiles _ _),
    State.voq_of_cargo (State.dropRecs_cargo _ _ _ _ t'), State.dropRefs_voq]
  split
  · next h =>
    rw [h.1, h.2, State.setVoq_voq]
    rfl
  · next h => exact State.setVoq_voq_ne _ _ _ _ h

end

/-! ## Bytes of a control frame -/

section
variable {a b : List Byte}

theorem byteAt_append_left {k : Nat} (h : k < a.length) : byteAt (a ++ b) k = byteAt a k := by
  unfold byteAt nth
  rw [List.getD_append _ _ _ _ h]

theorem byteAt_append_right (k : Nat) : byteAt (a ++ b) (a.length + k) = byteAt b k := by
  unfold byteAt nth
  rw [List.getD_append_right _ _ _ _ (Nat.le_add_right _ _), Nat.add_sub_cancel_left]

theorem half_append_left {k : Nat} (h : k + 1 < a.length) : half (a ++ b) k = half a k := by
  unfold half
  rw [byteAt_append_left h, byteAt_append_left (by omega)]

theorem half_append_right {n k : Nat} (h : a.length = n) : half (a ++ b) (n + k) = half b k := by
  subst h
  unfold half
  rw [byteAt_append_right, Nat.add_assoc, byteAt_append_right]

theorem beBytes_length (n v : Nat) : (beBytes n v).length = n := by
  unfold beBytes
  rw [List.length_reverse, leBytes_length]

theorem half_beBytes {v : Nat} (h : v < 2 ^ 16) : half (beBytes 2 v ++ b) 0 = v := by
  rw [half_append_left (by rw [beBytes_length]; omega)]
  show (BitVec.ofNat 8 (v / 256)).toNat * 256 + (BitVec.ofNat 8 v).toNat = v
  rw [BitVec.toNat_ofNat, BitVec.toNat_ofNat]
  omega

theorem half_times {l : List Nat} (h : ∀ v ∈ l, v < 2 ^ 16) {i : Nat} (hi : i < l.length) : half (l.flatMap (beBytes 2) ++ b) (2 * i) = l[i] := by
  induction l generalizing i with
  | nil => exact absurd hi (Nat.not_lt_zero _)
  | cons v r ih =>
    rw [List.flatMap_cons, List.append_assoc]
    cases i with
    | zero => exact half_beBytes (h v List.mem_cons_self)
    | succ i =>
      rw [show 2 * (i + 1) = 2 + 2 * i by omega, half_append_right (beBytes_length 2 v)]
      exact ih (fun w hw => h w (List.mem_cons_of_mem _ hw)) (Nat.lt_of_succ_lt_succ hi)

theorem flatMap_beBytes_length (l : List Nat) : (l.flatMap (beBytes 2)).length = 2 * l.length := by
  induction l with
  | nil => rfl
  | cons v r ih =>
    rw [List.flatMap_cons, List.length_append, ih, beBytes_length, List.length_cons]
    omega

/-- A short frame is padded, and its FCS added. -/
theorem withFcs_short (h : a.length ≤ 60) : ∃ r, withFcs a = a ++ r ∧ (withFcs a).length = 64 := by
  have hbytes : bytesAt a 0 60 = a ++ List.replicate (60 - a.length) 0 := by
    unfold bytesAt
    rw [List.drop_zero, List.take_of_length_le h]
  unfold withFcs
  rw [max_eq_left h]
  refine ⟨_, by rw [hbytes, List.append_assoc], ?_⟩
  rw [List.length_append, bytesAt_length, leBytes_length]

/-- A frame to the pause address with the EtherType of pause frames. -/
def ctlHead (mac : Nat) : List Byte := beBytes 6 0x0180C2000001 ++ beBytes 6 mac ++ beBytes 2 0x8808

theorem ctlHead_length (mac : Nat) : (ctlHead mac).length = 14 := by
  unfold ctlHead
  rw [List.length_append, List.length_append, beBytes_length, beBytes_length, beBytes_length]

theorem isPause_ctlHead {mac op : Nat} (h : op = 1 ∨ op = 0x0101) (r : List Byte) : isPause (ctlHead mac ++ (beBytes 2 op ++ r)) = true := by
  have hop : half (ctlHead mac ++ (beBytes 2 op ++ r)) 14 = op := by
    rw [half_append_right (k := 0) (ctlHead_length mac), half_beBytes (by omega)]
  have hty : half (ctlHead mac ++ (beBytes 2 op ++ r)) 12 = 0x8808 := by
    rw [half_append_left (by rw [ctlHead_length]; omega)]
    exact half_append_right (n := 12) (k := 0) (by rw [List.length_append, beBytes_length, beBytes_length])
  have hda : bytesAt (ctlHead mac ++ (beBytes 2 op ++ r)) 0 6 = beBytes 6 0x0180C2000001 := by
    unfold ctlHead
    rw [List.append_assoc, List.append_assoc]
    exact bytesAt_append _ (beBytes_length _ _)
  unfold isPause
  rw [hop, hty, hda]
  obtain rfl | rfl := h <;> decide

end

/-! ## The frames of R274 -/

theorem State.quanta_lt (s : State) (p : Nat) : s.quanta p < 2 ^ 16 := by
  have hreg : s.fget F.pfcTimer_QUANTA p < 2 ^ 16 := Nat.mod_lt _ (by decide)
  have hhz : Config.horizonQuanta.toNat < 2 ^ 16 := Config.horizonQuanta.isLt
  unfold State.quanta
  split <;> omega

theorem State.pauseFrame_spec (s : State) (p : Nat) {time : Nat} (h : time < 2 ^ 16) : (s.pauseFrame p time).length = 64 ∧
    isPause (s.pauseFrame p time) = true ∧ half (s.pauseFrame p time) 14 = 1 ∧ half (s.pauseFrame p time) 16 = time := by
  have hlen := ctlHead_length (s.portMac p)
  have heq : s.pauseFrame p time = withFcs (ctlHead (s.portMac p) ++ (beBytes 2 1 ++ beBytes 2 time)) := by
    unfold State.pauseFrame ctlHead
    simp only [List.append_assoc]
  obtain ⟨r, hr, h64⟩ := withFcs_short (a := ctlHead (s.portMac p) ++ (beBytes 2 1 ++ beBytes 2 time)) (by
    rw [List.length_append, List.length_append, hlen, beBytes_length, beBytes_length]
    omega)
  rw [List.append_assoc, List.append_assoc] at hr
  rw [heq]
  refine ⟨h64, ?_, ?_, ?_⟩
  · rw [hr]
    exact isPause_ctlHead (Or.inl rfl) _
  · rw [hr, half_append_right (k := 0) hlen, half_beBytes (by omega)]
  · rw [hr, half_append_right (k := 2) hlen, half_append_right (k := 0) (beBytes_length 2 1), half_beBytes h]

/-- The class-enable vector of a list of classes has the bits of its members. -/
theorem bitAt_vector {l : List Nat} (h : l.Pairwise (· < ·)) (i : Nat) : bitAt (l.map (fun i => 2 ^ i)).sum i = l.contains i := by
  rw [Bool.eq_iff_iff, bitAt, ← Nat.mem_bitIndices, Nat.bitIndices_sum_map_two_pow h.sortedLT, List.contains_iff_mem]

theorem State.pfcFrame_spec (s : State) (p : Nat) {vec : Nat} {times : List Nat} (hv : vec < 2 ^ 16) (ht : times.length = 8)
    (h : ∀ v ∈ times, v < 2 ^ 16) : (s.pfcFrame p vec times).length = 64 ∧ isPause (s.pfcFrame p vec times) = true ∧
    half (s.pfcFrame p vec times) 14 = 0x0101 ∧ half (s.pfcFrame p vec times) 16 = vec ∧
    ∀ i (hi : i < 8), half (s.pfcFrame p vec times) (18 + 2 * i) = times[i] := by
  have hlen := ctlHead_length (s.portMac p)
  obtain ⟨a, ha⟩ : ∃ a, a = ctlHead (s.portMac p) ++ (beBytes 2 0x0101 ++ (beBytes 2 vec ++ times.flatMap (beBytes 2))) := ⟨_, rfl⟩
  have heq : s.pfcFrame p vec times = withFcs a := by
    rw [ha]
    unfold State.pfcFrame ctlHead
    simp only [List.append_assoc]
  obtain ⟨r, hr, h64⟩ := withFcs_short (a := a) (by
    rw [ha, List.length_append, List.length_append, List.length_append, hlen, beBytes_length, beBytes_length, flatMap_beBytes_length]
    omega)
  rw [ha, List.append_assoc, List.append_assoc, List.append_assoc, ← ha] at hr
  rw [heq]
  refine ⟨h64, ?_, ?_, ?_, fun i hi => ?_⟩
  · rw [hr]
    exact isPause_ctlHead (Or.inr rfl) _
  · rw [hr, half_append_right (k := 0) hlen, half_beBytes (by omega)]
  · rw [hr, half_append_right (k := 2) hlen, half_append_right (k := 0) (beBytes_length 2 _), half_beBytes hv]
  · rw [hr, show 18 + 2 * i = 14 + (2 + (2 + 2 * i)) by omega, half_append_right hlen, half_append_right (beBytes_length 2 _),
      half_append_right (beBytes_length 2 _), half_times h (by omega)]

section
variable {s : State} {p c : Nat}

theorem State.xoffPris_sorted (s : State) (p : Nat) : (s.xoffPris p).Pairwise (· < ·) := List.pairwise_lt_range.filter _

theorem State.xoffVector_lt (s : State) (p : Nat) : ((s.xoffPris p).map (fun i => 2 ^ i)).sum < 2 ^ 16 := by
  refine Nat.lt_pow_two_of_testBit _ fun i hi => ?_
  have hbit := bitAt_vector (s.xoffPris_sorted p) i
  have hno : (s.xoffPris p).contains i = false := by
    by_contra hc
    rw [Bool.not_eq_false, List.contains_iff_mem] at hc
    have h8 := List.mem_range.1 (List.mem_filter.1 hc).1
    omega
  exact hbit.trans hno

theorem State.queueCtl_np {f : List Byte} (hup : s.isUp p = true) : (s.queueCtl p f).np p = { s.np p with ctl := (s.np p).ctl ++ [f] } := by
  unfold State.queueCtl
  rw [if_pos hup, State.setNp_np]

/-- The frame of R274's mode 1 and of its mode 2. -/
theorem State.pauseAgain_one (hne : s.xoffPris p ≠ []) (hm : s.pauseMode p = 1) : s.pauseAgain p = s.queueCtl p (s.pauseFrame p (s.quanta p)) := by
  unfold State.pauseAgain
  rw [if_neg (by simpa using hne), hm]
  rfl

theorem State.pauseAgain_two (hne : s.xoffPris p ≠ []) (hm : s.pauseMode p = 2) : s.pauseAgain p = s.queueCtl p
    (s.pfcFrame p ((s.xoffPris p).map (fun i => 2 ^ i)).sum ((List.range 8).map (fun i => if (s.xoffPris p).contains i then s.quanta p else 0))) := by
  unfold State.pauseAgain
  rw [if_neg (by simpa using hne), hm]
  rfl

theorem State.pauseAgain_quiet (h : s.isUp p = false ∨ s.xoffPris p = []) : s.pauseAgain p = s := by
  have hq (f : List Byte) (hup : s.isUp p = false) : s.queueCtl p f = s := by
    unfold State.queueCtl
    rw [if_neg (by rw [hup]; decide)]
  unfold State.pauseAgain
  dsimp only
  obtain h | h := h
  · split
    · rfl
    · split
      · exact hq _ h
      · exact hq _ h
      · rfl
  · rw [h]
    rfl

/-! ## Received pause (R275) -/

/-- The classes of a list take their times, once each. -/
theorem State.each_paused {l : List Nat} (g : Nat → Nat) (s : State) (h : l.Nodup) :
    (s.each (l.map (fun c => (c, g c))) (fun ct s => s.setNc p ct.1 { s.nc p ct.1 with paused := ct.2 })).nc p c =
      if c ∈ l then { s.nc p c with paused := g c } else s.nc p c := by
  induction l generalizing s with
  | nil => rfl
  | cons d r ih =>
    obtain ⟨hd, hr⟩ := List.nodup_cons.1 h
    rw [List.map_cons, State.each_cons, ih _ hr]
    by_cases hcd : c = d
    · rw [if_neg (hcd ▸ hd), if_pos (hcd ▸ List.mem_cons_self), hcd, State.setNc_nc]
    · rw [State.setNc_nc_ne _ _ _ _ fun hh => hcd hh.2]
      by_cases hc : c ∈ r
      · rw [if_pos hc, if_pos (List.mem_cons_of_mem _ hc)]
      · rw [if_neg hc, if_neg fun h => (List.mem_cons.1 h).elim hcd hc]

/-- The state with the times of a received pause frame taken. -/
def State.paused (s : State) (p : Nat) (bs : List Byte) : State :=
  s.each (pauseTimes bs) (fun ct s => s.setNc p ct.1 { s.nc p ct.1 with paused := ct.2 })

theorem State.paused_nc (bs : List Byte) (hc : c < 8) : (s.paused p bs).nc p c = { s.nc p c with
    paused := if half bs 14 = 1 then half bs 16 else if bitAt (half bs 16) c then half bs (18 + 2 * c) else (s.nc p c).paused } := by
  have hr : c ∈ List.range 8 := List.mem_range.2 hc
  unfold State.paused pauseTimes
  split
  · next h => rw [State.each_paused (fun _ => half bs 16) s List.nodup_range, if_pos hr]
  · next h =>
    rw [State.each_paused (fun c => half bs (18 + 2 * c)) s (List.nodup_range.filter _)]
    by_cases hb : bitAt (half bs 16) c = true
    · rw [if_pos (List.mem_filter.2 ⟨hr, hb⟩), if_pos hb]
    · rw [if_neg fun h => hb (List.mem_filter.1 h).2, if_neg hb]

theorem State.paused_r64 (bs : List Byte) : (s.paused p bs).r64 = s.r64 := State.each_view State.r64 fun _ _ => rfl

theorem execPauseFrameReceive_eq (bs : List Byte) (good : Bool) (hup : s.isUp p = true) (ht : s.tileOn (s.tileOf p) = true)
    (hrx : s.rxPauseEn p = true) (hp : isPause bs = true) : execPauseFrameReceive p bs good s = .next (s.pauseReceive p bs good) := by
  unfold execPauseFrameReceive
  rw [if_neg (by rw [hup, ht]; decide), if_pos ⟨hrx, hp⟩]

theorem State.dropCount_counts (t cls k : Nat) {code : Nat} (h : 0x0501 ≤ code ∧ code ≤ 0x0512) :
    (s.dropCount t code k cls).rdw .dropCnt t (code - 0x0501) = s.rdw .dropCnt t (code - 0x0501) + 1#64 := by
  unfold State.dropCount
  dsimp only
  rw [(State.perf_keeps (.rfl' (.avoid [.dropCnt]) _) t 5 _ _ _ 1).rdw .dropCnt t (code - 0x0501) rfl, if_pos h, rdw_bump_same]

theorem State.pauseReceive_good {bs : List Byte} {good : Bool} (h : good = true ∧ 64 ≤ bs.length) : s.pauseReceive p bs good =
    (s.paused p bs).perf (s.tileOf p) 7 (some (s.slotOf p)) (some ((pauseTimes bs).map (fun x => x.1))) none 1 := if_pos h

theorem State.pauseReceive_bad {bs : List Byte} {good : Bool} (h : ¬(good = true ∧ 64 ≤ bs.length)) : s.pauseReceive p bs good =
    s.dropCount (s.tileOf p) 0x0501 (s.slotOf p) (s.ipriOf p bs) := if_neg h

theorem State.perf_nc (t ev : Nat) (slot : Option Nat) (cls : Option (List Nat)) (code : Option Nat) (n : Nat) : (s.perf t ev slot cls code n).nc = s.nc :=
  State.nc_of_tm ((State.perf_keeps (.rfl' .butTm s) t ev slot cls code n).tm rfl)

/-! ## The watchdog (R278) -/

theorem execPfcWdExpire_eq (hms : s.fget F.egrCfg2_WD_MS p ≠ 0) (hpause : s.isPaused p c = true) (hwd : (s.nc p c).wd = false) :
    execPfcWdExpire p c s = .next (
      let s1 := (s.setNc p c { s.nc p c with wd := true }).post 0x0301 (p + c * 65536)
      if s.flag F.egrCfg2_WD_DROP p then forN 16 (fun t s => s.flushQueue t (8 * p + c) 0x050E) s1 else s1) := by
  unfold execPfcWdExpire
  rw [if_neg (by rw [hpause, hwd]; simp [hms])]

/-- The same queue of the first `n` tiles is flushed. -/
theorem State.flushTiles_voq (q code n : Nat) (t q' : Nat) : (forN n (fun t s => s.flushQueue t q code) s).voq t q' =
    if t < n ∧ q' = q then (s.voq t q).flushed else s.voq t q' := by
  induction n generalizing t q' with
  | zero => rfl
  | succ n ih =>
    rw [forN_succ, State.flushQueue_voq, ih, ih]
    by_cases hq : q' = q
    · subst hq
      by_cases ht : t = n
      · subst ht
        rw [if_pos ⟨rfl, rfl⟩, if_neg (by omega), if_pos ⟨by omega, rfl⟩]
      · rw [if_neg fun h => ht h.1]
        by_cases hlt : t < n
        · rw [if_pos ⟨hlt, rfl⟩, if_pos ⟨by omega, rfl⟩]
        · rw [if_neg fun h => hlt h.1, if_neg fun h => by omega]
    · rw [if_neg fun h => hq h.2, if_neg fun h => hq h.2, if_neg fun h => hq h.2]

theorem State.flushTiles_nc (q code n : Nat) : (forN n (fun t s => s.flushQueue t q code) s).nc = s.nc :=
  State.nc_of_lines (forN_keeps_view State.lines fun _ _ => State.flushQueue_lines _ _ _ _)

/-! ## The end of a transmission (R335, R550) -/

/-- The port with its frame sent. -/
def State.sent (s : State) (p : Nat) : State := s.setNp p { s.np p with cur := none }

theorem execTxFrameEnd_cur {x : Staged} (idle : Nat) (hctl : (s.np p).curCtl = none) (hcur : (s.np p).cur = some x) : execTxFrameEnd p idle s =
    .next (if x.last then (s.sent p).frameSent p idle x (s.np p).curNs else s) := by
  unfold execTxFrameEnd State.txEnd State.sent
  dsimp only
  rw [hctl, hcur]

theorem execTxFrameEnd_ctl {f : List Byte} (idle : Nat) (hctl : (s.np p).curCtl = some f) : ∃ cs, execTxFrameEnd p idle s =
    .next (((s.setNp p { s.np p with curCtl := none }).frameOut p idle f).perf (s.tileOf p) 6 (some (s.slotOf p)) (some cs) none 1) := by
  unfold execTxFrameEnd State.txEnd
  dsimp only
  rw [hctl]
  dsimp only
  exact ⟨_, rfl⟩

/-- The place of a class's total that counts a frame: of good ones, or of bad ones (R550). -/
theorem State.tapAdd_taps (s : State) (p c len : Nat) (bad : Bool) : tget (s.tapAdd p c len bad).zen.taps (3 * (8 * p + c) + if bad then 2 else 0) 0 =
    (tget s.zen.taps (3 * (8 * p + c) + if bad then 2 else 0) 0 + 1) % 2 ^ 48 := by
  unfold State.tapAdd
  cases bad
  · exact (tget_tset_ne _ _ _ _ (show 3 * (8 * p + c) ≠ 3 * (8 * p + c) + 1 by omega)).trans (tget_tset_same _ _ _ _)
  · exact tget_tset_same _ _ _ _

theorem State.tapAdd_zen {s u : State} (h : u.zen = s.zen) (p c len : Nat) (bad : Bool) : (u.tapAdd p c len bad).zen = (s.tapAdd p c len bad).zen := by
  unfold State.tapAdd
  rw [h]

/-- Every part but Zenith's. -/
def Touch.butZen : Touch := { Touch.all with zen := false }

/-- A transmission reaches Zenith through its tap alone (R550). -/
theorem State.frameSent_zen (s : State) (p idle : Nat) (x : Staged) (ns : Nat) : ∃ len, (s.frameSent p idle x ns).zen = (s.tapAdd p x.m.cls len x.bad).zen := by
  have hcomplete (u : State) (r gen pos a b len : Nat) : (u.complete r gen pos a b len).zen = u.zen :=
    (State.complete_keeps (.rfl' .butZen u) r gen pos a b len).zen rfl
  have hout (u : State) (i : Nat) (bs : List Byte) : (u.frameOut p i bs).zen = u.zen := (State.frameOut_keeps (.rfl' .butZen u) p i bs).zen rfl
  unfold State.frameSent
  dsimp only
  have hbase (t : Nat) (slot : Option Nat) (cls : Option (List Nat)) (len res : Nat) (item : CapItem) :
      (((((((s.sentBytes p x ns res).2.perf t 3 slot cls none 1).perf t 4 slot cls none len).when x.bad (fun s => s.perf t 15 slot none none 1)).histLat p
        x.m.cls res).sendReport x.tile x.m.flow res).offerEgress t p item).zen = s.zen :=
    (State.offerEgress_keeps (State.sendReport_keeps (State.histLat_keeps (State.when_keeps (State.perf_keeps (State.perf_keeps (State.sentBytes_keeps
      (.rfl' .butZen s) p x ns res) t 3 slot cls none 1) t 4 slot cls none len) fun _ h => State.perf_keeps h t 15 slot none none 1) p x.m.cls res) x.tile
      x.m.flow res) t p item).zen rfl
  split
  · rw [hcomplete, hout]
    exact ⟨_, State.tapAdd_zen (hbase _ _ _ _ _ _) _ _ _ _⟩
  · rw [hout]
    exact ⟨_, State.tapAdd_zen (hbase _ _ _ _ _ _) _ _ _ _⟩

end

/-- Settles O28: received and sent pause, the watchdog and a frame's end, each by what its one operation writes. -/
theorem pauseAndFrameEnd : Obligations.PauseAndFrameEnd := by
  intro s p c
  refine ⟨fun bs good hup ht hrx hp => ⟨fun hg => ?_, fun hg => ?_⟩, ?_, fun hup hne hm => ?_, fun h => congrArg Host.Outcome.next (State.pauseAgain_quiet h),
    fun hms hpause hwd => ?_, fun hwd hpause => ?_, fun x hctl hcur hl idle => ?_, fun x hctl hcur hl idle => ?_, fun f idle hctl => ?_⟩
  · have hnc := s.paused_nc (p := p) bs c.isLt
    refine ⟨_, execPauseFrameReceive_eq bs good hup ht hrx hp, ?_⟩
    rw [State.pauseReceive_good hg, State.perf_nc, hnc]
    refine ⟨rfl, rfl, ?_⟩
    rw [(State.perf_keeps (.rfl' (.avoid [.dropCnt]) _) _ _ _ _ _ _).rdw .dropCnt _ _ rfl, State.rdw, State.paused_r64, ← State.rdw]
  · refine ⟨_, execPauseFrameReceive_eq bs good hup ht hrx hp, ?_⟩
    rw [State.pauseReceive_bad hg]
    exact ⟨(State.dropCount_keeps (.rfl' .butTm s) _ 0x0501 _ _).tm rfl, State.dropCount_counts _ _ _ (by decide)⟩
  · refine ⟨s.setNc p c { s.nc p c with paused := 0 }, rfl, ?_, ?_, OnlyRegs.refl _ _, OnlyWide.refl _ _⟩
    · unfold State.isPaused
      rw [State.setNc_nc]
      rfl
    · rw [State.setNc_nc]
  · obtain hm | hm := hm
    · obtain ⟨hlen, hpause, hop, htime⟩ := s.pauseFrame_spec p (s.quanta_lt p)
      refine ⟨_, _, congrArg Host.Outcome.next (State.pauseAgain_one hne hm), by rw [State.queueCtl_np hup], hlen, hpause,
        fun c => by rw [State.nc_of_lines (State.queueCtl_lines _ _ _)], fun _ => ⟨hop, htime⟩, fun h => ?_⟩
      rw [hm] at h
      exact absurd h (by decide)
    · obtain ⟨times, htimes⟩ : ∃ times, times = (List.range 8).map (fun i => if (s.xoffPris p).contains i then s.quanta p else 0) := ⟨_, rfl⟩
      have hlt : ∀ v ∈ times, v < 2 ^ 16 := by
        intro v hv
        obtain ⟨i, -, rfl⟩ := List.mem_map.1 (htimes ▸ hv)
        split
        · exact s.quanta_lt p
        · decide
      have h8 : times.length = 8 := by rw [htimes, List.length_map, List.length_range]
      obtain ⟨hlen, hpause, hop, hvec, htime⟩ := s.pfcFrame_spec p (s.xoffVector_lt p) h8 hlt
      refine ⟨_, _, congrArg Host.Outcome.next ((State.pauseAgain_two hne hm).trans (by rw [← htimes])), by rw [State.queueCtl_np hup], hlen, hpause,
        fun c => by rw [State.nc_of_lines (State.queueCtl_lines _ _ _)], fun h => ?_, fun _ => ⟨hop, fun i => ⟨?_, ?_⟩⟩⟩
      · rw [hm] at h
        exact absurd h (by decide)
      · rw [hvec, bitAt_vector (s.xoffPris_sorted p)]
      · rw [htime i i.isLt]
        simp only [htimes, List.getElem_map, List.getElem_range]
  · obtain ⟨s1, hs1⟩ : ∃ s1, s1 = (s.setNc p c { s.nc p c with wd := true }).post 0x0301 (p + c * 65536) := ⟨_, rfl⟩
    have htm : s1.tm = (s.setNc p c { s.nc p c with wd := true }).tm := by
      rw [hs1]
      exact (State.post_keeps (.rfl' .butTm _) _ _).tm rfl
    have hnc : (s1.nc p c).wd = true := by rw [State.nc_of_tm htm, State.setNc_nc]
    have hexec := execPfcWdExpire_eq hms hpause hwd
    rw [← hs1] at hexec
    by_cases hdrop : s.flag F.egrCfg2_WD_DROP p = true
    · refine ⟨_, hexec.trans (by rw [if_pos hdrop]), ?_, fun _ t => ?_, fun h => Bool.noConfusion (hdrop.symm.trans h)⟩
      · rw [State.flushTiles_nc]
        exact hnc
      · rw [State.flushTiles_voq, if_pos ⟨t.isLt, rfl⟩]
        exact ⟨rfl, rfl, rfl, rfl⟩
    · refine ⟨_, hexec.trans (by rw [if_neg hdrop]), hnc, fun h => absurd h hdrop, fun _ t q => ?_⟩
      exact (State.voq_of_tiles (State.tiles_of_tm htm) t q).trans (State.voq_of_tiles rfl t q)
  · refine ⟨_, congrArg Host.Outcome.next (if_pos ⟨hwd, hpause⟩), ?_⟩
    rw [State.nc_of_tm ((State.post_keeps (.rfl' .butTm _) _ _).tm rfl), State.setNc_nc]
  · exact (execTxFrameEnd_cur idle hctl hcur).trans (by rw [hl]; rfl)
  · obtain ⟨len, hzen⟩ := (s.sent p).frameSent_zen p idle x (s.np p).curNs
    have htm : ((s.sent p).frameSent p idle x (s.np p).curNs).tm = (s.sent p).tm := (State.frameSent_keeps (.rfl' .butTm _) _ _ _ _).tm rfl
    refine ⟨_, (execTxFrameEnd_cur idle hctl hcur).trans (congrArg Host.Outcome.next (if_pos hl)), ?_, fun c => ?_, ?_⟩
    · rw [State.np_of_tm htm, State.sent, State.setNp_np]
    · rw [State.nc_of_tm htm, State.nc, State.sent, State.setNp_np]
      rfl
    · rw [hzen]
      exact (s.sent p).tapAdd_taps p x.m.cls len x.bad
  · obtain ⟨cs, hexec⟩ := execTxFrameEnd_ctl idle hctl
    obtain ⟨s1, hs1⟩ : ∃ s1, s1 = s.setNp p { s.np p with curCtl := none } := ⟨_, rfl⟩
    rw [← hs1] at hexec
    refine ⟨_, hexec, ?_, ?_, ?_⟩
    · rw [State.np_of_tm ((State.perf_keeps (State.frameOut_keeps (.rfl' .butTm s1) p idle f) _ _ _ _ _ _).tm rfl), hs1, State.setNp_np]
    · rw [State.np_of_tm ((State.perf_keeps (State.frameOut_keeps (.rfl' .butTm s1) p idle f) _ _ _ _ _ _).tm rfl), hs1, State.setNp_np]
    · exact ((State.perf_keeps (State.frameOut_keeps (.rfl' .butZen s1) p idle f) _ _ _ _ _ _).zen rfl).trans (by rw [hs1]; rfl)

end Sys2Proof.Machine
end

section
/-!
PROOF. Spill to Anvil, refill, the free caches and ANVIL_CTL (R261 to R269, R458).
-/

set_option Elab.async false
set_option exponentiation.threshold 4096
set_option maxRecDepth 20000

namespace Sys2Proof.Machine

/-! ## The books of a tile (R256, R272) -/

/-- The bytes of each PG's records in Anvil, and the frame each port is receiving. -/
def State.books (s : State) (t : Nat) : Tab Nat × Tab Nat := ((s.buf t).anvUsed, (s.buf t).rx)

section
variable (s : State) (t : Nat)

theorem State.anvUsed_of_books {s u : State} {t : Nat} (h : u.books t = s.books t) (p i : Nat) : u.anvUsed t p i = s.anvUsed t p i := by
  unfold State.anvUsed
  rw [show (u.buf t).anvUsed = (s.buf t).anvUsed from congrArg Prod.fst h]

theorem State.rxFid_of_books {s u : State} {t : Nat} (h : u.books t = s.books t) (p : Nat) : u.rxFid t p = s.rxFid t p := by
  unfold State.rxFid
  rw [show (u.buf t).rx = (s.buf t).rx from congrArg Prod.snd h]

theorem State.books_of_tiles {s u : State} (h : u.tiles = s.tiles) (t : Nat) : u.books t = s.books t := by
  unfold State.books
  rw [State.buf_of_tiles h]

theorem State.books_setBuf {v : BufSt} (t' : Nat) (h : v.anvUsed = (s.buf t).anvUsed) (h' : v.rx = (s.buf t).rx) :
    (s.setBuf t v).books t' = s.books t' := by
  unfold State.books
  by_cases ht : t' = t
  · rw [ht, State.setBuf_buf, h, h']
  · rw [State.setBuf_buf_ne _ _ _ _ ht]

theorem State.setRefill_books (n t' : Nat) : (s.setBuf t { s.buf t with refill := n }).books t' = s.books t' := s.books_setBuf t t' rfl rfl

theorem State.setVoq_books (q : Nat) (v : Voq) (t' : Nat) : (s.setVoq t q v).books t' = s.books t' := s.books_setBuf t t' rfl rfl

theorem State.setFrame_books (fid : Nat) (f : Frame) (t' : Nat) : (s.setFrame t fid f).books t' = s.books t' := s.books_setBuf t t' rfl rfl

theorem State.freeCellList_books (cs : List Nat) (t' : Nat) : (s.freeCellList t cs).books t' = s.books t' := by
  unfold State.freeCellList
  refine State.each_view (fun w : State => w.books t') fun c u => ?_
  dsimp only
  split
  · split
    · rw [State.books_of_tiles (State.tiles_of_tm (State.report_tm _ _ _ _))]
      rfl
    · rfl
  · split
    · exact u.books_setBuf t t' rfl rfl
    · exact u.books_setBuf t t' rfl rfl

theorem State.freeFrameCells_books (fid t' : Nat) : (s.freeFrameCells t fid).books t' = s.books t' := by
  unfold State.freeFrameCells
  dsimp only
  rw [State.books_of_tiles (State.pgScan_tiles _ _)]
  split
  · rw [State.setRefill_books, State.setFrame_books, State.freeCellList_books]
  · exact (State.setFrame_books _ _ _ _ _).trans (State.freeCellList_books _ _ _ _)

theorem State.forget_books (fid t' : Nat) : (s.forget t fid).books t' = s.books t' := s.books_setBuf t t' rfl rfl

theorem State.endRef_books (fid t' : Nat) : (s.endRef t fid).books t' = s.books t' := by
  unfold State.endRef
  dsimp only
  split
  · unfold State.sweep
    dsimp only
    split
    · exact (State.forget_books _ _ _ _).trans ((State.freeFrameCells_books _ _ _ _).trans (State.setFrame_books _ _ _ _ _))
    · exact (State.freeFrameCells_books _ _ _ _).trans (State.setFrame_books _ _ _ _ _)
  · exact State.setFrame_books _ _ _ _ _

theorem State.setAnvUsed_anvUsed (p i v : Nat) : (s.setAnvUsed t p i v).anvUsed t p i = v := by
  unfold State.setAnvUsed State.anvUsed
  rw [State.setBuf_buf]
  exact tget_tset_same _ _ _ _

theorem State.setAnvUsed_voq (p i v t' q : Nat) : (s.setAnvUsed t p i v).voq t' q = s.voq t' q :=
  State.voq_of_cargo (State.setAnvUsed_cargo s t p i v t') q

/-! ## Cells taken -/

/-- Two states have the same queues, frames and books in every tile, and agree on the wide registers but two. -/
structure Stocked (s u : State) : Prop where
  cargo : ∀ t, u.cargo t = s.cargo t
  books : ∀ t, u.books t = s.books t
  wide : OnlyWide [.sqStatus, .cntMsgLost, .pend] s u

theorem Stocked.refl (s : State) : Stocked s s := ⟨fun _ => rfl, fun _ => rfl, OnlyWide.refl _ _⟩

theorem Stocked.trans {s u w : State} (h : Stocked s u) (h' : Stocked u w) : Stocked s w :=
  ⟨fun t => (h'.cargo t).trans (h.cargo t), fun t => (h'.books t).trans (h.books t), h.wide.trans h'.wide⟩

theorem Stocked.setBuf {s u : State} (h : Stocked s u) {v : BufSt} (hv : v.voqs = (s.buf t).voqs) (hf : v.frames = (s.buf t).frames)
    (ha : v.anvUsed = (s.buf t).anvUsed) (hr : v.rx = (s.buf t).rx) : Stocked s (u.setBuf t v) := by
  have hc (t' : Nat) : ((u.setBuf t v).cargo t', (u.setBuf t v).books t') = (s.cargo t', s.books t') := by
    by_cases ht : t' = t
    · unfold State.cargo State.books
      rw [ht, State.setBuf_buf, hv, hf, ha, hr]
    · have hu : ((u.setBuf t v).cargo t', (u.setBuf t v).books t') = (u.cargo t', u.books t') := by
        unfold State.cargo State.books
        rw [State.setBuf_buf_ne _ _ _ _ ht]
      rw [hu, h.cargo, h.books]
  exact ⟨fun t' => congrArg Prod.fst (hc t'), fun t' => congrArg Prod.snd (hc t'), h.wide⟩

theorem Stocked.fset {s u : State} (h : Stocked s u) (f : Fld) (v i j : Nat) : Stocked s (u.fset f v i j) :=
  ⟨fun t => (State.cargo_of_tiles rfl t).trans (h.cargo t), fun t => (State.books_of_tiles rfl t).trans (h.books t),
    h.wide.fset f v i j⟩

theorem Stocked.report (s : State) (a b c : Nat) : Stocked s (s.report a b c) :=
  have htiles := State.tiles_of_tm (s.report_tm a b c)
  ⟨fun t => State.cargo_of_tiles htiles t, fun t => State.books_of_tiles htiles t,
    (State.report_keeps (.rfl' (.onRegs [.sqStatus, .cntMsgLost, .pend]) s) a b c).onlyWide⟩

theorem State.takeCell_stocked : Stocked s (s.takeCell t).2 := by
  obtain ⟨out, hout⟩ : ∃ out, out = (let b := s.buf t
    let x := firstFree b.inUse b.freed
    let y := if x.2.1.isSome then ([], none, []) else firstFree b.inUse b.freshCells
    x.1 ++ y.1) := ⟨_, rfl⟩
  have h1 : Stocked s (s.each out (fun c s => s.report (srcBpm t) 0x0A c)) :=
    State.each_ind (P := Stocked s) (Stocked.refl s) fun c u h => h.trans (Stocked.report u _ _ _)
  rw [hout] at h1
  unfold State.takeCell
  dsimp only at h1 ⊢
  split
  · refine (h1.setBuf t ?_ ?_ ?_ ?_).fset _ _ _ _ <;> rfl
  · refine (h1.setBuf t ?_ ?_ ?_ ?_).fset _ _ _ _ <;> rfl
  · refine (h1.setBuf t ?_ ?_ ?_ ?_).fset _ _ _ _ <;> rfl

theorem State.takeCells_stocked (n : Nat) : Stocked s (s.takeCells t n).2 := by
  induction n generalizing s with
  | zero => exact Stocked.refl s
  | succ n ih => exact (s.takeCell_stocked t).trans (ih _)

end

/-! ## A queue's parts in Anvil -/

/-- A queue but its frames in SRAM and its place in SPILL. -/
def Voq.cold (v : Voq) : Voq := { v with head := [], due := [], behind := [], spill := false }

section
variable {v w : Voq}

theorem Voq.writing_of_cold (h : w.cold = v.cold) : w.writing = v.writing := show w.cold.writing = v.cold.writing from congrArg _ h
theorem Voq.seg_of_cold (h : w.cold = v.cold) : w.seg = v.seg := show w.cold.seg = v.cold.seg from congrArg _ h
theorem Voq.reading_of_cold (h : w.cold = v.cold) : w.reading = v.reading := show w.cold.reading = v.cold.reading from congrArg _ h

end

section
variable (s : State) (t q : Nat)

/-- The SPILL rule leaves what a queue has in Anvil (R262, R264). -/
theorem State.voqNorm_cold (t' q' : Nat) : ((s.voqNorm t q).voq t' q').cold = (s.voq t' q').cold := by
  have hset (v : Voq) (h : v.cold = (s.voq t q).cold) : ((s.setVoq t q v).voq t' q').cold = (s.voq t' q').cold := by
    by_cases hq : t' = t ∧ q' = q
    · rw [hq.1, hq.2, State.setVoq_voq, h]
    · rw [State.setVoq_voq_ne _ _ _ _ hq]
  unfold State.voqNorm
  dsimp only
  split
  · split
    · exact hset _ rfl
    · rfl
  · split
    · exact hset _ rfl
    · rfl

/-- In SPILL the rule can only end it, and what waits joins the head (R264). -/
theorem State.voqNorm_spill (h : (s.voq t q).spill = true) : ∃ l, ((s.voqNorm t q).voq t q).head = (s.voq t q).head ++ l := by
  unfold State.voqNorm
  dsimp only
  rw [if_pos h]
  split
  · rw [State.setVoq_voq]
    exact ⟨(s.voq t q).due ++ (s.voq t q).behind, List.append_assoc _ _ _⟩
  · exact ⟨[], (List.append_nil _).symm⟩

theorem State.voqNorm_books (t' : Nat) : (s.voqNorm t q).books t' = s.books t' := by
  obtain ⟨v, ⟨heq, -⟩ | heq⟩ := s.voqNorm_eq t q
  · rw [heq, State.setVoq_books]
  · rw [heq]

/-! ## Pages taken and freed -/

theorem State.takePage_kept {s u : State} {rot p r : Nat} (h : s.takePage rot = some (p, r, u)) :
    u.tiles = s.tiles ∧ u.rdw .cntSpillWait = s.rdw .cntSpillWait := by
  unfold State.takePage at h
  obtain ⟨g, -, hg⟩ := List.exists_of_findSome?_eq_some h
  split at hg
  · exact absurd hg nofun
  · obtain ⟨x, -, hx⟩ := Option.map_eq_some_iff.1 hg
    cases hx
    exact ⟨rfl, (rdw_bump_reg _ _ _ _ _ _ (by decide)).trans (rdw_fset _ _ _ _ _ _ _ _)⟩

/-- A queue but its pages and their rotation. -/
def Voq.unpaged (v : Voq) : Voq := { v with pages := [], rot := 0 }

theorem State.takePages_kept {s u : State} {n fuel : Nat} {v w : Voq} (h : s.takePages n v fuel = some (w, u)) :
    u.tiles = s.tiles ∧ u.rdw .cntSpillWait = s.rdw .cntSpillWait ∧ w.unpaged = v.unpaged := by
  induction fuel generalizing s v with
  | zero => exact absurd h nofun
  | succ fuel ih =>
    rw [State.takePages] at h
    split at h
    · cases h
      exact ⟨rfl, rfl, rfl⟩
    · split at h
      · exact absurd h nofun
      · next p rot s1 hp =>
        obtain ⟨h1, h2, h3⟩ := ih h
        obtain ⟨h4, h5⟩ := State.takePage_kept hp
        exact ⟨h1.trans h4, h2.trans h5, h3⟩

/-! ## The spill write (R262, R265 to R267) -/

end

section
variable {s : State} {t q : Nat} {r : Ref} {rest : List Ref}

/-- A queue whose next record starts a segment begins it at the queue's own group (R265). -/
def Voq.segStart (v : Voq) (q : Nat) : Voq :=
  if v.pages.isEmpty && v.seg.isEmpty then { v with rot := q % 8, wrPos := 0, rdPos := 0, gone := 0, tail := [] } else v

/-- The stream position after the next record. -/
def State.spillEnd (s : State) (t q : Nat) (r : Ref) : Nat := ((s.voq t q).segStart q).wrPos + recBytes (s.frame t r.fid).len

/-- The pages of the next record, as far as the tile's rate allows one (R265, R266). -/
def State.spillPages (s : State) (t q : Nat) (r : Ref) (limited : Bool) : Option (Voq × State) :=
  if limited then none else s.takePages (ceilDiv (s.spillEnd t q r) 4080 + 1) ((s.voq t q).segStart q) 8

/-- The oldest frame due goes to the pages it can have, or waits. -/
def State.spillOldest (s : State) (t q : Nat) (r : Ref) (rest : List Ref) (limited : Bool) : State :=
  match s.spillPages t q r limited with
  | none => s.spillWaits t q
  | some (v, u) =>
    if s.slotRoom v (slotNo ((s.voq t q).segStart q).wrPos) (slotNo (s.spillEnd t q r)) then
      u.setVoq t q { v with due := rest, writing := some r, wrPos := s.spillEnd t q r }
    else s.spillWaits t q

theorem execSpillWriteStart_eq (s : State) (t q : Nat) (limited : Bool) : execSpillWriteStart t q limited s = .next (match (s.voq t q).due with
    | [] => s
    | r :: rest =>
      if s.anvilOpen = false ∨ (s.voq t q).writing.isSome = true ∨ (s.frame t r.fid).done = false then s else s.spillOldest t q r rest limited) := rfl

theorem execSpillWriteStart_not (limited : Bool) (hdue : (s.voq t q).due = r :: rest)
    (h : s.anvilOpen = false ∨ (s.voq t q).writing.isSome = true ∨ (s.frame t r.fid).done = false) : execSpillWriteStart t q limited s = .next s := by
  rw [execSpillWriteStart_eq, hdue]
  exact congrArg Host.Outcome.next (if_pos h)

theorem execSpillWriteStart_due (limited : Bool) (hdue : (s.voq t q).due = r :: rest) (hopen : s.anvilOpen = true) (hw : (s.voq t q).writing = none)
    (hd : (s.frame t r.fid).done = true) : execSpillWriteStart t q limited s = .next (s.spillOldest t q r rest limited) := by
  rw [execSpillWriteStart_eq, hdue]
  exact congrArg Host.Outcome.next (if_neg (by rw [hopen, hw, hd]; decide))

/-- Frames that wait are each counted once (R266). -/
theorem State.spillWaits_spec (s : State) (t q : Nat) : ((s.spillWaits t q).voq t q).writing = (s.voq t q).writing ∧
    ((s.spillWaits t q).voq t q).seg = (s.voq t q).seg ∧ (s.spillWaits t q).rdw .cntSpillWait = s.rdw .cntSpillWait +
      BitVec.ofNat 64 (((s.voq t q).due.filter (fun x => !x.waited)).length) := by
  obtain ⟨u, hu⟩ : ∃ u, u = (s.setVoq t q { s.voq t q with due := (s.voq t q).due.map (fun r => { r with waited := true }) }).bump .cntSpillWait 0 0
    ((s.voq t q).due.countP (fun r => !r.waited)) := ⟨_, rfl⟩
  have heq : s.spillWaits t q = u.voqNorm t q := by rw [hu]; rfl
  have hcold : (u.voq t q).cold = (s.voq t q).cold := by
    rw [hu]
    show ((s.setVoq t q _).voq t q).cold = _
    rw [State.setVoq_voq]
    rfl
  have hcold' := (u.voqNorm_cold t q t q).trans hcold
  rw [heq]
  refine ⟨Voq.writing_of_cold hcold', Voq.seg_of_cold hcold', ?_⟩
  rw [(State.voqNorm_keeps (.rfl' (.avoid [.cntSpillWait]) u) t q).rdw .cntSpillWait 0 0 rfl, hu, rdw_bump_same, List.countP_eq_length_filter]
  rfl

/-- The two ways in which the oldest frame due leaves (R265, R266). -/
theorem State.spillOldest_spec (s : State) (t q : Nat) (r : Ref) (rest : List Ref) (limited : Bool) :
    s.spillOldest t q r rest limited = s.spillWaits t q ∨ (limited = false ∧ ((s.spillOldest t q r rest limited).voq t q).writing = some r ∧
      ((s.spillOldest t q r rest limited).voq t q).due = rest ∧ (s.spillOldest t q r rest limited).rdw .cntSpillWait = s.rdw .cntSpillWait) := by
  unfold State.spillOldest
  split
  · exact Or.inl rfl
  · next v u h =>
    split
    · cases limited
      · rw [State.setVoq_voq]
        exact Or.inr ⟨rfl, rfl, rfl, (State.takePages_kept h).2.1⟩
      · exact absurd h nofun
    · exact Or.inl rfl

theorem Voq.segStart_of_pages {v : Voq} (h : v.pages ≠ []) (q : Nat) : v.segStart q = v := by
  unfold Voq.segStart
  rw [if_neg (by simp [h])]

/-- A record that its segment's pages have room for takes none (R265). -/
theorem State.spillOldest_fits (s : State) (t q : Nat) (r : Ref) (rest : List Ref) (hpages : (s.voq t q).pages ≠ [])
    (hroom : ceilDiv ((s.voq t q).wrPos + recBytes (s.frame t r.fid).len) 4080 + 1 ≤ (s.voq t q).gone + (s.voq t q).pages.length)
    (hslot : s.slotRoom (s.voq t q) (slotNo (s.voq t q).wrPos) (slotNo ((s.voq t q).wrPos + recBytes (s.frame t r.fid).len)) = true) :
    ((s.spillOldest t q r rest false).voq t q).writing = some r ∧ ((s.spillOldest t q r rest false).voq t q).pages = (s.voq t q).pages := by
  have hstart := Voq.segStart_of_pages hpages q
  have hend : s.spillEnd t q r = (s.voq t q).wrPos + recBytes (s.frame t r.fid).len := by rw [State.spillEnd, hstart]
  have hp : s.spillPages t q r false = some (s.voq t q, s) := by
    unfold State.spillPages
    rw [hend, hstart, if_neg Bool.false_ne_true, State.takePages, if_pos hroom]
  unfold State.spillOldest
  rw [hp]
  dsimp only
  rw [hend, hstart, if_pos hslot, State.setVoq_voq]
  exact ⟨rfl, rfl⟩

end

/-! ## The end of a spill write (R255, R262, R266) -/

theorem recordBytes_head (bs : List Byte) (m : FMeta) (mask : Nat) : ∃ r, recordBytes bs m mask =
    leBytes 2 (bs.length % 16384 + b2n m.mc * 16384) ++ r := by
  unfold recordBytes
  simp only [List.append_assoc]
  exact ⟨_, rfl⟩

theorem recordBytes_tail (bs : List Byte) (m : FMeta) (mask : Nat) : ∃ r, r.length = 16 ∧ recordBytes bs m mask =
    r ++ bytesAt bs 0 (ceilDiv bs.length 16 * 16) := by
  refine ⟨_, ?_, rfl⟩
  simp only [List.length_append, leBytes_length]

theorem recordBytes_length (bs : List Byte) (m : FMeta) (mask : Nat) : (recordBytes bs m mask).length = recBytes bs.length := by
  obtain ⟨r, hr, heq⟩ := recordBytes_tail bs m mask
  rw [heq, List.length_append, hr, bytesAt_length]
  rfl

/-- A record holds its frame (R265). -/
theorem recFrame_recordBytes {bs : List Byte} (m : FMeta) (mask : Nat) (h : bs.length < 2 ^ 14) : recFrame (recordBytes bs m mask) = bs := by
  have hlen : leNat (bytesAt (recordBytes bs m mask) 0 2) % 16384 = bs.length := by
    obtain ⟨r, hr⟩ := recordBytes_head bs m mask
    rw [hr, bytesAt_append _ (leBytes_length _ _), leNat_leBytes]
    unfold b2n
    split <;> omega
  obtain ⟨r, hr, heq⟩ := recordBytes_tail bs m mask
  have hle : bs.length ≤ ceilDiv bs.length 16 * 16 := by
    unfold ceilDiv
    omega
  unfold recFrame
  rw [hlen, heq]
  unfold bytesAt
  rw [List.drop_append_of_le_length (by omega), List.drop_of_length_le (by omega), List.nil_append, List.drop_zero, List.take_of_length_le hle,
    List.take_append_of_le_length (le_refl _), List.take_length]
  simp

section
variable {s : State} {t q : Nat} {r : Ref}

/-- The record of the write under way. -/
def State.writtenRec (s : State) (t q : Nat) (r : Ref) : Rec :=
  ⟨recordBytes (s.frame t r.fid).data (s.frame t r.fid).m r.mask, (s.frame t r.fid).m, r.mask, (s.voq t q).wrPos - recBytes (s.frame t r.fid).len⟩

/-- The queue with that record in its segment. -/
def State.writtenVoq (s : State) (t q : Nat) (r : Ref) : Voq :=
  let v := s.voq t q
  let all := v.tail ++ (s.writtenRec t q r).raw
  { v with writing := none, seg := v.seg ++ [s.writtenRec t q r], tail := all.drop (all.length - tailLen v.wrPos) }

/-- That queue, and the charge of the record's PG. -/
def State.written (s : State) (t q : Nat) (r : Ref) : State :=
  let f := s.frame t r.fid
  let s1 := s.setVoq t q (s.writtenVoq t q r)
  s1.setAnvUsed t f.m.iport f.m.ipri (s1.anvUsed t f.m.iport f.m.ipri + recBytes f.len)

theorem execSpillWriteComplete_eq (s : State) (t q n : Nat) : execSpillWriteComplete t q n s = .next (match (s.voq t q).writing with
    | none => s
    | some r => (((((s.written t q r).bump .cntSpillBytes 0 0 (recBytes (s.frame t r.fid).len)).bump .cntEdcRetry 0 0 n).perf t 9 none
        (some [q % 8]) none (recBytes (s.frame t r.fid).len)).endRef t r.fid).pgScan t) := rfl

theorem State.written_charges (s : State) (t q : Nat) (r : Ref) : (s.written t q r).anvUsed t (s.frame t r.fid).m.iport (s.frame t r.fid).m.ipri =
    s.anvUsed t (s.frame t r.fid).m.iport (s.frame t r.fid).m.ipri + recBytes (s.frame t r.fid).len := by
  unfold State.written
  dsimp only
  rw [State.setAnvUsed_anvUsed, State.anvUsed_of_books (State.setVoq_books _ _ _ _ _)]

theorem State.written_voq (s : State) (t q : Nat) (r : Ref) : (s.written t q r).voq t q = s.writtenVoq t q r := by
  unfold State.written
  dsimp only
  rw [State.setAnvUsed_voq, State.setVoq_voq]

/-- What is counted of a record, and the reference that ends, leave the queues and the books. -/
theorem State.recordCounted (u : State) (t fid q n k : Nat) :
    let w := ((((u.bump .cntSpillBytes 0 0 n).bump .cntEdcRetry 0 0 k).perf t 9 none (some [q % 8]) none n).endRef t fid).pgScan t
    w.voq t q = u.voq t q ∧ w.books t = u.books t ∧ w.rdw .cntSpillBytes = u.rdw .cntSpillBytes + BitVec.ofNat 64 n ∧
      w.rdw .cntEdcRetry = u.rdw .cntEdcRetry + BitVec.ofNat 64 k := by
  intro w
  obtain ⟨a, ha⟩ : ∃ a, a = (u.bump .cntSpillBytes 0 0 n).bump .cntEdcRetry 0 0 k := ⟨_, rfl⟩
  have hw : w = ((a.perf t 9 none (some [q % 8]) none n).endRef t fid).pgScan t := by rw [ha]
  have htm : (a.perf t 9 none (some [q % 8]) none n).tm = a.tm := (State.perf_keeps (.rfl' .butTm a) _ _ _ _ _ _).tm rfl
  have hta : a.tiles = u.tiles := by
    rw [ha]
    rfl
  have htiles := (State.tiles_of_tm htm).trans hta
  have hkeep : Keeps (.avoid [.cntSpillBytes, .cntEdcRetry]) a w := by
    rw [hw]
    exact State.pgScan_keeps (State.endRef_keeps (State.perf_keeps (.rfl' _ a) _ _ _ _ _ _) _ _) _
  refine ⟨?_, ?_, ?_, ?_⟩
  · rw [hw, State.voq_of_tiles (State.pgScan_tiles _ _), State.endRef_voq, State.voq_of_tiles htiles]
  · rw [hw, State.books_of_tiles (State.pgScan_tiles _ _), State.endRef_books, State.books_of_tiles htiles]
  · rw [hkeep.rdw .cntSpillBytes 0 0 rfl, ha, rdw_bump_reg _ _ _ _ _ _ (by decide), rdw_bump_same]
  · rw [hkeep.rdw .cntEdcRetry 0 0 rfl, ha, rdw_bump_same, rdw_bump_reg _ _ _ _ _ _ (by decide)]

end

/-! ## The end of a refill (R263 to R268) -/

section
variable {s : State} {t q : Nat} {r : Rec} {rest : List Rec}

/-- What follows every end of a read. -/
def State.readEnds (s : State) (t q : Nat) : State := (((s.settlePages t q).voqNorm t q).pgScan t).drainCheck

/-- The page of the record that is read. -/
def State.readPage (s : State) (t q : Nat) (r : Rec) : Nat := nth (s.voq t q).pages (r.pos / 4080 - (s.voq t q).gone) 0

/-- The charge of a record that leaves the segment, and the counts of its read. -/
def State.readOut (s : State) (t : Nat) (r : Rec) (retries : Nat) : State :=
  ((s.setAnvUsed t r.m.iport r.m.ipri (s.anvUsed t r.m.iport r.m.ipri - r.raw.length)).bump .cntRefillBytes 0 0 r.raw.length).bump
    .cntEdcRetry 0 0 retries

/-- The queue without its oldest record. -/
def Voq.readDone (v : Voq) (r : Rec) (rest : List Rec) : Voq :=
  { v with seg := rest, reading := false, rdPos := r.pos + r.raw.length, tail := if rest.isEmpty then [] else v.tail }

/-- The frame that a good record becomes. -/
def Rec.frame (r : Rec) (cells : List Nat) : Frame :=
  { data := r.data, rxLen := r.data.length, m := r.m, done := true, parsed := true, released := true, cells := cells, refilled := true, linked := true }

/-- A buffer with a refilled frame. -/
def BufSt.withFrame (b : BufSt) (f : Frame) : BufSt :=
  { b with nextFid := b.nextFid + 1, frames := tset b.frames b.nextFid {} f, refill := b.refill + f.cells.length }

/-- A good record joins the SRAM head. -/
def State.readGood (s : State) (t q : Nat) (r : Rec) (rest : List Rec) (retries : Nat) : State :=
  let x := (s.readOut t r retries).takeCells t r.cells
  (x.2.setBuf t ((x.2.buf t).withFrame (r.frame x.1))).setVoq t q
    { (s.voq t q).readDone r rest with head := ((s.voq t q).readDone r rest).head ++ [{ fid := (x.2.buf t).nextFid, mask := r.mask }] }

/-- A record with a bad CRC is dropped. -/
def State.readBad (s : State) (t q : Nat) (r : Rec) (rest : List Rec) (retries : Nat) : State :=
  (((((s.readOut t r retries).setVoq t q ((s.voq t q).readDone r rest)).discard t 0x0510 r.m).bump .cntDataErr).report (srcAnvilCh (s.readPage t q r / 786432)) 0x0D
    (s.readPage t q r % 786432)).retirePage (s.readPage t q r)

/-- A bad page trailer ends the segment. -/
def State.readLost (s : State) (t q : Nat) (r : Rec) : State :=
  ((((s.bump .cntEdcRetry 0 0 3).loseFrom t q ((r.pos / 4080 + 1) * 4080)).bump .cntDataErr).report (srcAnvilCh (s.readPage t q r / 786432)) 0x0E
    (s.readPage t q r % 786432)).retirePage (s.readPage t q r)

theorem execRefillComplete_eq (s : State) (t q verdict n : Nat) : execRefillComplete t q verdict n s =
    .next (match (s.voq t q).reading, (s.voq t q).seg with
      | true, r :: rest =>
        if verdict = 0 ∧ s.freeCells t < r.cells then s
        else (if verdict = 0 then s.readGood t q r rest (if verdict = 0 then n else 3)
          else if verdict = 1 then s.readBad t q r rest (if verdict = 0 then n else 3) else s.readLost t q r).readEnds t q
      | _, _ => s) := rfl

/-- Freed pages leave a queue's frames and records (R265). -/
theorem State.settlePages_eq (s : State) (t q : Nat) : ∃ v ps, s.settlePages t q = (s.setVoq t q v).freePages ps ∧ v.seg = (s.voq t q).seg ∧
    v.reading = (s.voq t q).reading ∧ v.head = (s.voq t q).head ∧ v.spill = (s.voq t q).spill := by
  unfold State.settlePages
  dsimp only
  split
  · exact ⟨_, _, rfl, rfl, rfl, rfl, rfl⟩
  · exact ⟨_, _, rfl, rfl, rfl, rfl, rfl⟩

/-- The end of a read leaves the records, frees pages, and may end SPILL (R264, R265). -/
theorem State.readEnds_spec (h : (s.voq t q).spill = true) : ((s.readEnds t q).voq t q).seg = (s.voq t q).seg ∧
    ((s.readEnds t q).voq t q).reading = (s.voq t q).reading ∧ (∃ l, ((s.readEnds t q).voq t q).head = (s.voq t q).head ++ l) ∧
    (∀ fid, (s.readEnds t q).frame t fid = s.frame t fid) ∧ (s.readEnds t q).books t = s.books t := by
  obtain ⟨v, ps, heq, hseg, hread, hhead, hsp⟩ := s.settlePages_eq t q
  obtain ⟨u, hu⟩ : ∃ u, u = s.settlePages t q := ⟨_, rfl⟩
  have hut : u.tiles = (s.setVoq t q v).tiles := by rw [hu, heq, State.freePages_tiles]
  have huv : u.voq t q = v := by rw [State.voq_of_tiles hut, State.setVoq_voq]
  have hend : (s.readEnds t q).tiles = (u.voqNorm t q).tiles := by
    rw [hu]
    exact (State.tiles_of_tm (State.drainCheck_tm _)).trans (State.pgScan_tiles _ _)
  have hcold := u.voqNorm_cold t q t q
  obtain ⟨l, hl⟩ := u.voqNorm_spill t q (by rw [huv, hsp, h])
  rw [huv] at hcold hl
  rw [State.voq_of_tiles hend, State.books_of_tiles hend, State.voqNorm_books, State.books_of_tiles hut, State.setVoq_books]
  refine ⟨(Voq.seg_of_cold hcold).trans hseg, (Voq.reading_of_cold hcold).trans hread, ⟨l, by rw [hl, hhead]⟩, fun fid => ?_, rfl⟩
  rw [State.frame_of_tiles hend, State.voqNorm_frame, State.frame_of_tiles hut, State.setVoq_frame]

theorem State.readEnds_wide (s : State) (t q : Nat) :
    OnlyWide [.sqStatus, .cntMsgLost, .pend, .grpFree, .cntPageDoubleFree, .pgStatus3, .pwrStatus, .cntEvLost, .cntEvDiscard, .anvilStatus] s
      (s.readEnds t q) :=
  (State.drainCheck_keeps (State.pgScan_keeps (State.voqNorm_keeps (State.settlePages_keeps (.rfl' (.onRegs _) s) t q) t q) t)).onlyWide

theorem State.retirePage_tiles (s : State) (page : Nat) : (s.retirePage page).tiles = s.tiles := by
  have hrep (u : State) (a b c : Nat) : (u.report a b c).tiles = u.tiles := State.tiles_of_tm (u.report_tm a b c)
  have hpost (u : State) (a b : Nat) : (u.post a b).tiles = u.tiles := State.tiles_of_tm ((State.post_keeps (.rfl' .butTm u) a b).tm rfl)
  unfold State.retirePage
  dsimp only
  split
  · rfl
  · rw [hrep, hpost]
    unfold State.when
    split <;> rfl

theorem State.readOut_kept (s : State) (t : Nat) (r : Rec) (n : Nat) : (s.readOut t r n).cargo t = s.cargo t ∧
    (s.readOut t r n).anvUsed t r.m.iport r.m.ipri = s.anvUsed t r.m.iport r.m.ipri - r.raw.length ∧
    (s.readOut t r n).rdw .cntRefillBytes = s.rdw .cntRefillBytes + BitVec.ofNat 64 r.raw.length ∧
    OnlyWide [.cntRefillBytes, .cntEdcRetry] s (s.readOut t r n) := by
  unfold State.readOut
  refine ⟨?_, ?_, ?_, ?_⟩
  · exact (State.cargo_of_tiles rfl t).trans (s.setAnvUsed_cargo t _ _ _ t)
  · exact (State.anvUsed_of_books (State.books_of_tiles rfl t) _ _).trans (s.setAnvUsed_anvUsed t _ _ _)
  · rw [rdw_bump_reg _ _ _ _ _ _ (by decide), rdw_bump_same]
    rfl
  · have h : OnlyWide [.cntRefillBytes, .cntEdcRetry] s (s.setAnvUsed t r.m.iport r.m.ipri (s.anvUsed t r.m.iport r.m.ipri - r.raw.length)) :=
      OnlyWide.refl _ _
    exact OnlyWide.wrw (OnlyWide.wrw h _ 0 0 (by decide)) _ 0 0 (by decide)

theorem State.readGood_spec (s : State) (t q : Nat) (r : Rec) (rest : List Rec) (n : Nat) : ∃ x cs,
    (s.readGood t q r rest n).voq t q = { (s.voq t q).readDone r rest with head := (s.voq t q).head ++ [x] } ∧ x.mask = r.mask ∧
    (s.readGood t q r rest n).frame t x.fid = r.frame cs ∧
    (s.readGood t q r rest n).anvUsed t r.m.iport r.m.ipri = s.anvUsed t r.m.iport r.m.ipri - r.raw.length ∧
    (s.readGood t q r rest n).rdw .cntRefillBytes = s.rdw .cntRefillBytes + BitVec.ofNat 64 r.raw.length := by
  obtain ⟨hcargo, hused, hbytes, -⟩ := s.readOut_kept t r n
  obtain ⟨y, hy⟩ : ∃ y, y = (s.readOut t r n).takeCells t r.cells := ⟨_, rfl⟩
  have hstock : Stocked (s.readOut t r n) y.2 := hy ▸ State.takeCells_stocked _ _ _
  obtain ⟨u, hu⟩ : ∃ u, u = y.2.setBuf t ((y.2.buf t).withFrame (r.frame y.1)) := ⟨_, rfl⟩
  have heq : s.readGood t q r rest n = u.setVoq t q
      { (s.voq t q).readDone r rest with head := (s.voq t q).head ++ [{ fid := (y.2.buf t).nextFid, mask := r.mask }] } := by
    rw [hu, hy]
    rfl
  have hframe : u.frame t (y.2.buf t).nextFid = r.frame y.1 := by
    rw [hu]
    unfold State.frame
    rw [State.setBuf_buf]
    exact tget_tset_same _ _ _ _
  have hcharge : u.books t = (s.readOut t r n).books t := by
    rw [hu]
    exact (State.books_setBuf (v := (y.2.buf t).withFrame (r.frame y.1)) y.2 t t rfl rfl).trans (hstock.books t)
  have hwide : u.rdw .cntRefillBytes = (s.readOut t r n).rdw .cntRefillBytes := by
    rw [hu]
    exact hstock.wide .cntRefillBytes 0 0 (by decide)
  refine ⟨_, y.1, by rw [heq, State.setVoq_voq], rfl, ?_, ?_, ?_⟩
  · rw [heq, State.setVoq_frame, hframe]
  · rw [heq, State.anvUsed_of_books (State.setVoq_books _ _ _ _ _), State.anvUsed_of_books hcharge, hused]
  · rw [← hbytes, ← hwide, heq]
    rfl

theorem State.readBad_spec (s : State) (t q : Nat) (r : Rec) (rest : List Rec) (n : Nat) :
    (s.readBad t q r rest n).voq t q = (s.voq t q).readDone r rest ∧ (s.readBad t q r rest n).rdw .dropCnt t 15 = s.rdw .dropCnt t 15 + 1#64 ∧
    (s.readBad t q r rest n).rdw .cntDataErr = s.rdw .cntDataErr + 1#64 := by
  obtain ⟨-, -, -, hout⟩ := s.readOut_kept t r n
  obtain ⟨a, ha⟩ : ∃ a, a = (s.readOut t r n).setVoq t q ((s.voq t q).readDone r rest) := ⟨_, rfl⟩
  obtain ⟨b, hb⟩ : ∃ b, b = a.discard t 0x0510 r.m := ⟨_, rfl⟩
  obtain ⟨c, hc⟩ : ∃ c, c = b.bump .cntDataErr := ⟨_, rfl⟩
  have heq : s.readBad t q r rest n = (c.report (srcAnvilCh (s.readPage t q r / 786432)) 0x0D (s.readPage t q r % 786432)).retirePage
      (s.readPage t q r) := by
    rw [hc, hb, ha]
    rfl
  have hend : Keeps (.avoid [.dropCnt, .cntDataErr]) c (s.readBad t q r rest n) := by
    rw [heq]
    exact State.retirePage_keeps (State.report_keeps (.rfl' _ c) _ _ _) _
  have htiles : (s.readBad t q r rest n).tiles = a.tiles := by
    rw [heq, State.retirePage_tiles, State.tiles_of_tm (State.report_tm _ _ _ _), hc, State.tiles_of_tm (State.bump_tm _ _ _ _ _), hb,
      State.tiles_of_tm (a.discard_tm _ _ _)]
  refine ⟨?_, ?_, ?_⟩
  · rw [State.voq_of_tiles htiles, ha, State.setVoq_voq]
  · rw [hend.rdw .dropCnt t 15 rfl, hc, rdw_bump_reg _ _ _ _ _ _ (by decide), hb]
    refine (State.discard_counts (s := a) (t := t) (code := 0x0510) r.m (by decide)).trans ?_
    rw [ha]
    exact congrArg (· + 1#64) (hout .dropCnt t 15 (by decide))
  · rw [hend.rdw .cntDataErr 0 0 rfl, hc, rdw_bump_same, hb, (State.discard_keeps (.rfl' (.avoid [.cntDataErr]) a) _ _ _).rdw .cntDataErr 0 0 rfl, ha]
    exact congrArg (· + 1#64) (hout .cntDataErr 0 0 (by decide))

/-- The records of a list are each counted (R286). -/
theorem State.dropRecs_counts (s : State) (t : Nat) {code : Nat} (h : 0x0501 ≤ code ∧ code ≤ 0x0512) (l : List Rec) :
    (s.dropRecs t code l).rdw .dropCnt t (code - 0x0501) = s.rdw .dropCnt t (code - 0x0501) + BitVec.ofNat 64 l.length := by
  unfold State.dropRecs
  rw [(State.pgScan_keeps (.rfl' (.avoid [.dropCnt]) _) t).rdw .dropCnt t _ rfl]
  induction l generalizing s with
  | nil => exact (BitVec.add_zero _).symm
  | cons r rest ih =>
    rw [State.each_cons, ih, State.discard_counts r.m h, List.length_cons, BitVec.add_assoc, Nat.add_comm, BitVec.ofNat_add]
    rfl

/-- The records that reach beyond a position. -/
def Rec.beyond (last : Nat) (r : Rec) : Bool := decide (last < r.pos + r.raw.length)

theorem State.loseFrom_spec (s : State) (t q last : Nat) : ((s.loseFrom t q last).voq t q).seg = (s.voq t q).seg.filter (fun x => !x.beyond last) ∧
    ((s.loseFrom t q last).voq t q).reading = ((s.voq t q).reading && !((s.voq t q).seg.head?.map (Rec.beyond last)).getD true) ∧
    ((s.loseFrom t q last).voq t q).spill = (s.voq t q).spill ∧
    (s.loseFrom t q last).rdw .dropCnt t 16 = s.rdw .dropCnt t 16 + BitVec.ofNat 64 ((s.voq t q).seg.filter (Rec.beyond last)).length := by
  obtain ⟨w, hw⟩ : ∃ w : Voq, w = { s.voq t q with
    seg := (s.voq t q).seg.filter (fun x => !x.beyond last)
    reading := (s.voq t q).reading && !((s.voq t q).seg.head?.map (Rec.beyond last)).getD true
    writing := none
    due := (s.voq t q).writing.toList ++ (s.voq t q).due
    pages := (s.voq t q).pages.take (last / 4080 - (s.voq t q).gone)
    wrPos := last
    tail := [] } := ⟨_, rfl⟩
  obtain ⟨a, ha⟩ : ∃ a, a = (s.setVoq t q w).dropRecs t 0x0511 ((s.voq t q).seg.filter (Rec.beyond last)) := ⟨_, rfl⟩
  obtain ⟨b, hb⟩ : ∃ b, b = a.freePages ((s.voq t q).pages.drop (last / 4080 - (s.voq t q).gone)) := ⟨_, rfl⟩
  have heq : s.loseFrom t q last = if ((s.voq t q).seg.filter (Rec.beyond last)).isEmpty then b
      else b.post 0x0305 (q % 4096 + q / 4096 * 4096 + t * 65536) := by
    rw [hb, ha, hw]
    rfl
  have hbv : b.voq t q = w := by
    rw [hb, State.voq_of_tiles (State.freePages_tiles _ _), ha, State.voq_of_cargo (State.dropRecs_cargo _ _ _ _ t), State.setVoq_voq]
  have hbc : b.rdw .dropCnt t 16 = s.rdw .dropCnt t 16 + BitVec.ofNat 64 ((s.voq t q).seg.filter (Rec.beyond last)).length := by
    rw [hb, (State.freePages_keeps (.rfl' (.avoid [.dropCnt]) a) _).rdw .dropCnt t 16 rfl, ha]
    exact State.dropRecs_counts (s.setVoq t q w) t (code := 0x0511) (by decide) _
  have hv : (s.loseFrom t q last).voq t q = w := by
    rw [heq]
    split
    · exact hbv
    · exact (State.voq_of_tiles (State.tiles_of_tm ((State.post_keeps (.rfl' .butTm b) _ _).tm rfl)) t q).trans hbv
  have hc : (s.loseFrom t q last).rdw .dropCnt t 16 = b.rdw .dropCnt t 16 := by
    rw [heq]
    split
    · rfl
    · exact (State.post_keeps (.rfl' (.avoid [.dropCnt]) b) _ _).rdw .dropCnt t 16 rfl
  rw [hv, hc, hbc, hw]
  exact ⟨rfl, rfl, rfl, rfl⟩

theorem State.loseFrom_dataErr (s : State) (t q last : Nat) : (s.loseFrom t q last).rdw .cntDataErr = s.rdw .cntDataErr :=
  (State.loseFrom_keeps (.rfl' (.avoid [.cntDataErr]) s) t q last).rdw .cntDataErr 0 0 rfl

theorem State.retired_kept (s : State) (a b c page : Nat) : Keeps (.avoid [.dropCnt, .cntDataErr]) s ((s.report a b c).retirePage page) :=
  State.retirePage_keeps (State.report_keeps (.rfl' _ s) a b c) page

theorem State.readLost_spec (s : State) (t q : Nat) (r : Rec) (hs : (s.voq t q).spill = true) {last : Nat} (hlast : (r.pos / 4080 + 1) * 4080 = last) :
    ((s.readLost t q r).voq t q).seg = (s.voq t q).seg.filter (fun x => !x.beyond last) ∧
    ((s.readLost t q r).voq t q).reading = ((s.voq t q).reading && !((s.voq t q).seg.head?.map (Rec.beyond last)).getD true) ∧
    ((s.readLost t q r).voq t q).spill = true ∧ (s.readLost t q r).rdw .cntDataErr = s.rdw .cntDataErr + 1#64 ∧
    (s.readLost t q r).rdw .dropCnt t 16 = s.rdw .dropCnt t 16 + BitVec.ofNat 64 ((s.voq t q).seg.filter (Rec.beyond last)).length := by
  obtain ⟨a, ha⟩ : ∃ a, a = s.bump .cntEdcRetry 0 0 3 := ⟨_, rfl⟩
  obtain ⟨b, hb⟩ : ∃ b, b = a.loseFrom t q last := ⟨_, rfl⟩
  obtain ⟨c, hc⟩ : ∃ c, c = b.bump .cntDataErr := ⟨_, rfl⟩
  have heq : s.readLost t q r = (c.report (srcAnvilCh (s.readPage t q r / 786432)) 0x0E (s.readPage t q r % 786432)).retirePage
      (s.readPage t q r) := by
    rw [hc, hb, ha, ← hlast]
    rfl
  have hend : Keeps (.avoid [.dropCnt, .cntDataErr]) c (s.readLost t q r) := by
    rw [heq]
    exact c.retired_kept _ _ _ _
  have htiles : (s.readLost t q r).tiles = b.tiles := by
    rw [heq, State.retirePage_tiles, State.tiles_of_tm (State.report_tm _ _ _ _), hc, State.tiles_of_tm (State.bump_tm _ _ _ _ _)]
  have hav : a.voq t q = s.voq t q := by
    rw [ha]
    exact State.voq_of_tiles rfl t q
  obtain ⟨h1, h2, h3, h4⟩ := a.loseFrom_spec t q last
  rw [hav, ← hb] at h1 h2 h3 h4
  rw [State.voq_of_tiles htiles, hend.rdw .dropCnt t 16 rfl, hend.rdw .cntDataErr 0 0 rfl, hc, rdw_bump_same, rdw_bump_reg _ _ _ _ _ _ (by decide), h4]
  refine ⟨h1, h2, h3.trans hs, ?_, ?_⟩
  · rw [hb, State.loseFrom_dataErr, ha, rdw_bump_reg _ _ _ _ _ _ (by decide)]
  · rw [ha, rdw_bump_reg _ _ _ _ _ _ (by decide)]

section
variable (n : Nat) (hread : (s.voq t q).reading = true) (hseg : (s.voq t q).seg = r :: rest)
include hread hseg

theorem execRefillComplete_few (h : s.freeCells t < r.cells) : execRefillComplete t q 0 n s = .next s := by
  rw [execRefillComplete_eq, hread, hseg]
  dsimp only
  rw [if_pos ⟨rfl, h⟩]

theorem execRefillComplete_good (h : r.cells ≤ s.freeCells t) : execRefillComplete t q 0 n s = .next ((s.readGood t q r rest n).readEnds t q) := by
  rw [execRefillComplete_eq, hread, hseg]
  dsimp only
  rw [if_neg fun hh => absurd hh.2 (by omega), if_pos rfl, if_pos rfl]

theorem execRefillComplete_bad : execRefillComplete t q 1 n s = .next ((s.readBad t q r rest 3).readEnds t q) := by
  rw [execRefillComplete_eq, hread, hseg]
  dsimp only
  rw [if_neg fun hh => absurd hh.1 (by decide), if_neg (by decide), if_pos rfl, if_neg (by decide)]

theorem execRefillComplete_lost : execRefillComplete t q 2 n s = .next ((s.readLost t q r).readEnds t q) := by
  rw [execRefillComplete_eq, hread, hseg]
  dsimp only
  rw [if_neg fun hh => absurd hh.1 (by decide), if_neg (by decide), if_neg (by decide)]

end

end

/-- A claim's clause on a record with a good CRC, a bad one and a bad page trailer. -/
theorem refillCompletes {s : State} {t q : Nat} {r : Rec} {rest : List Rec} (n : Nat) (hread : (s.voq t q).reading = true)
    (hseg : (s.voq t q).seg = r :: rest) (hspill : (s.voq t q).spill = true) :
    (r.cells ≤ s.freeCells t → ∃ u x l, execRefillComplete t q 0 n s = .next u ∧ (u.voq t q).reading = false ∧ (u.voq t q).seg = rest ∧
      (u.voq t q).head = (s.voq t q).head ++ x :: l ∧ x.mask = r.mask ∧ (u.frame t x.fid).data = r.data ∧ (u.frame t x.fid).refilled = true ∧
      (u.frame t x.fid).refs = 1 ∧ u.anvUsed t r.m.iport r.m.ipri = s.anvUsed t r.m.iport r.m.ipri - r.raw.length ∧
      u.rdw .cntRefillBytes = s.rdw .cntRefillBytes + BitVec.ofNat 64 r.raw.length) ∧
    (∃ u l, execRefillComplete t q 1 n s = .next u ∧ (u.voq t q).seg = rest ∧ (u.voq t q).head = (s.voq t q).head ++ l ∧
      u.rdw .dropCnt t 15 = s.rdw .dropCnt t 15 + 1#64 ∧ u.rdw .cntDataErr = s.rdw .cntDataErr + 1#64) ∧
    (let last := (r.pos / 4080 + 1) * 4080
     ∃ u, execRefillComplete t q 2 n s = .next u ∧ (last < r.pos + r.raw.length → (u.voq t q).reading = false) ∧
      u.rdw .cntDataErr = s.rdw .cntDataErr + 1#64 ∧ u.rdw .dropCnt t 16 = s.rdw .dropCnt t 16 +
        BitVec.ofNat 64 (((s.voq t q).seg.filter (fun x => decide (last < x.pos + x.raw.length))).length) ∧
      ∀ x, x ∈ (u.voq t q).seg ↔ x ∈ (s.voq t q).seg ∧ x.pos + x.raw.length ≤ last) := by
  refine ⟨fun hroom => ?_, ?_, ?_⟩
  · obtain ⟨x, cs, hv, hmask, hframe, hused, hbytes⟩ := s.readGood_spec t q r rest n
    obtain ⟨h1, h2, ⟨l, h3⟩, h4, h5⟩ := State.readEnds_spec (s := s.readGood t q r rest n) (t := t) (q := q) (by rw [hv]; exact hspill)
    rw [hv] at h1 h2 h3
    refine ⟨_, x, l, execRefillComplete_good n hread hseg hroom, h2, h1, ?_, hmask, ?_⟩
    · rw [h3, List.append_assoc]
      rfl
    · rw [h4, hframe, State.anvUsed_of_books h5, hused]
      exact ⟨rfl, rfl, rfl, rfl, ((s.readGood t q r rest n).readEnds_wide t q .cntRefillBytes 0 0 (by decide)).trans hbytes⟩
  · obtain ⟨hv, hdrop, herr⟩ := s.readBad_spec t q r rest 3
    obtain ⟨h1, -, ⟨l, h3⟩, -⟩ := State.readEnds_spec (s := s.readBad t q r rest 3) (t := t) (q := q) (by rw [hv]; exact hspill)
    rw [hv] at h1 h3
    refine ⟨_, l, execRefillComplete_bad n hread hseg, h1, h3, ?_, ?_⟩
    · exact ((s.readBad t q r rest 3).readEnds_wide t q .dropCnt t 15 (by decide)).trans hdrop
    · exact ((s.readBad t q r rest 3).readEnds_wide t q .cntDataErr 0 0 (by decide)).trans herr
  · obtain ⟨last, hlast⟩ : ∃ last, (r.pos / 4080 + 1) * 4080 = last := ⟨_, rfl⟩
    obtain ⟨hs, hr, hsp, herr, hdrop⟩ := s.readLost_spec t q r hspill hlast
    obtain ⟨h1, h2, -⟩ := State.readEnds_spec (s := s.readLost t q r) (t := t) (q := q) hsp
    rw [hlast]
    refine ⟨_, execRefillComplete_lost n hread hseg, fun hl => ?_, ?_, ?_, fun x => ?_⟩
    · have hout : ((s.voq t q).seg.head?.map (Rec.beyond last)).getD true = true := by
        rw [hseg]
        exact decide_eq_true hl
      rw [h2, hr, hout, hread]
      rfl
    · exact ((s.readLost t q r).readEnds_wide t q .cntDataErr 0 0 (by decide)).trans herr
    · exact ((s.readLost t q r).readEnds_wide t q .dropCnt t 16 (by decide)).trans hdrop
    · rw [h1, hs, List.mem_filter, Rec.beyond, Bool.not_eq_true', decide_eq_false_iff_not, Nat.not_lt]

theorem spillAndRefill : Claims.SpillAndRefill := by
  intro s t q
  refine ⟨fun r rest limited hdue h => execSpillWriteStart_not limited hdue h, fun r rest limited hdue hopen hw hd => ?_, fun r n hw hlen => ?_,
    ⟨fun h => ?_, fun h => ?_⟩, fun r rest n hread hseg hspill => ?_⟩
  · refine ⟨_, execSpillWriteStart_due limited hdue hopen hw hd, ?_, fun hl hpages hroom hslot => ?_⟩
    · obtain heq | ⟨hl, h1, h2, h3⟩ := s.spillOldest_spec t q r rest limited
      · obtain ⟨h1, h2, h3⟩ := s.spillWaits_spec t q
        rw [heq]
        exact Or.inr ⟨h1.trans hw, h2, h3⟩
      · exact Or.inl ⟨hl, h1, h2, h3⟩
    · subst hl
      exact s.spillOldest_fits t q r rest hpages hroom hslot
  · have hdata : (s.writtenRec t q r).data = (s.frame t r.fid).data := recFrame_recordBytes _ _ hlen
    have hraw : (s.writtenRec t q r).raw.length = recBytes (s.frame t r.fid).data.length := recordBytes_length _ _ _
    have hexec := execSpillWriteComplete_eq s t q n
    rw [hw] at hexec
    obtain ⟨hv, hc, hb, he⟩ := (s.written t q r).recordCounted t r.fid q (recBytes (s.frame t r.fid).len) n
    refine ⟨_, s.writtenRec t q r, hexec, ?_⟩
    dsimp only
    rw [hv, hb, he, State.written_voq, State.anvUsed_of_books hc, hdata]
    refine ⟨rfl, rfl, rfl, rfl, rfl, rfl, rfl, s.written_charges t q r, ?_, rfl, rfl⟩
    unfold State.writtenVoq
    dsimp only
    rw [List.length_drop, List.length_append, hraw]
    omega
  · refine ⟨_, congrArg Host.Outcome.next (if_pos h), ?_⟩
    rw [State.setVoq_voq]
    exact ⟨rfl, rfl, OnlyRegs.refl _ _, OnlyWide.refl _ _⟩
  · exact congrArg Host.Outcome.next (if_neg (by rw [h]; decide))
  · exact ⟨execRefillComplete_few n hread hseg, refillCompletes n hread hseg hspill⟩

end Sys2Proof.Machine
end

section
/-!
PROOF. The free caches, ANVIL_CTL and the power-up of Anvil (R261, R269, R458).
-/

set_option Elab.async false
set_option exponentiation.threshold 4096
set_option maxRecDepth 20000

namespace Sys2Proof.Machine

/-! ## The free caches (R261) -/

section
variable {s : State} {g : Nat}

theorem State.setGroup_group (s : State) (g : Nat) (v : AnvGroup) : (s.setGroup g v).group g = v := tget_tset_same _ _ _ _

theorem AnvGroup.refill_ring {v : AnvGroup} {x : RingPage} {l : List RingPage} (h : v.ring = x :: l) :
    v.refill = { v with cache := v.cache ++ x.page :: x.idx, ring := l } := by
  cases v
  cases h
  rfl

theorem AnvGroup.refill_none {v : AnvGroup} (h : v.ring = []) : v.refill = { v with hi := min (v.hi + 1023) 3145728 } := by
  cases v
  cases h
  rfl

/-- The page that a full enough cache gives back. -/
def AnvGroup.given (v : AnvGroup) : RingPage := ⟨v.cache.headD 0, (v.cache.drop 1).take 1022⟩

theorem AnvGroup.given_cache {v : AnvGroup} (h : 1023 ≤ v.cache.length) : v.cache = v.given.page :: v.given.idx ++ v.cache.drop 1023 := by
  unfold AnvGroup.given
  cases hc : v.cache with
  | nil =>
    rw [hc] at h
    exact absurd h (by decide)
  | cons a r => exact congrArg (a :: ·) (List.take_append_drop 1022 r).symm

theorem AnvGroup.writeback_cache {v : AnvGroup} (h : 1023 ≤ v.cache.length) :
    v.writeback = { v with cache := v.cache.drop 1023, ring := v.given :: v.ring } := if_pos h

theorem AnvGroup.writeback_fresh {v : AnvGroup} (hc : v.cache.length < 1023) (hn : 3072 < v.count) (hr : v.ring = []) :
    v.writeback = { v with hi := v.hi - 1023 } := by
  unfold AnvGroup.count at hn
  unfold AnvGroup.writeback
  rw [if_neg (by omega), if_pos ⟨by omega, hr⟩]

theorem execFreeCacheRefill_few (h : (s.group g).count < 1024) : execFreeCacheRefill g s = .next (s.setGroup g (s.group g).refill) :=
  congrArg Host.Outcome.next (if_pos h)

theorem execFreeCacheWriteback_many (h : 3072 < (s.group g).count) : execFreeCacheWriteback g s = .next (s.setGroup g (s.group g).writeback) :=
  congrArg Host.Outcome.next (if_pos h)

end

/-! ## The SPILL rule over every queue (R269) -/

theorem State.normAll_ind {P : State → Prop} {s : State} (h : P s) (hstep : ∀ u t q, P u → P (u.voqNorm t q)) : P s.normAll := by
  unfold State.normAll
  refine State.each_ind h fun t u hu => ?_
  exact State.each_ind hu fun q w hw => hstep w t q hw

/-- What a change of EN leaves of a queue: its segment, and no queue but one in SPILL has any. -/
def Voq.quiet (v w : Voq) : Prop := w.seg = v.seg ∧ (v.spill = false → w.spill = false) ∧ (v.due = [] → w.due = [])

theorem Voq.quiet_refl (v : Voq) : v.quiet v := ⟨rfl, id, id⟩

theorem Voq.quiet_trans {u v w : Voq} (h : u.quiet v) (h' : v.quiet w) : u.quiet w :=
  ⟨h'.1.trans h.1, fun hs => h'.2.1 (h.2.1 hs), fun hd => h'.2.2 (h.2.2 hd)⟩

/-- With Anvil closed the SPILL rule only ends SPILL (R269). -/
theorem State.voqNorm_closed {s : State} (hc : s.anvilOpen = false) (t q t' q' : Nat) : (s.voq t' q').quiet ((s.voqNorm t q).voq t' q') := by
  have hset (v : Voq) (h : (s.voq t q).quiet v) : (s.voq t' q').quiet ((s.setVoq t q v).voq t' q') := by
    by_cases hq : t' = t ∧ q' = q
    · rw [hq.1, hq.2, State.setVoq_voq]
      exact h
    · rw [State.setVoq_voq_ne _ _ _ _ hq]
      exact Voq.quiet_refl _
  unfold State.voqNorm
  dsimp only
  split
  · split
    · exact hset _ ⟨rfl, fun _ => rfl, fun _ => rfl⟩
    · exact Voq.quiet_refl _
  · rw [if_neg fun h => Bool.noConfusion (hc.symm.trans h.2.1)]
    exact Voq.quiet_refl _

theorem State.anvilOpen_of_r32 {s u : State} (h : u.r32 = s.r32) : u.anvilOpen = s.anvilOpen := by
  unfold State.anvilOpen State.hz State.flag State.fget State.rd
  rw [h]

theorem State.voqNorm_r32 (s : State) (t q : Nat) : (s.voqNorm t q).r32 = s.r32 :=
  (State.voqNorm_keeps (.rfl' { Touch.all with r32 := false } s) t q).r32 rfl

theorem State.normAll_closed {s : State} (hc : s.anvilOpen = false) (t q : Nat) : (s.voq t q).quiet (s.normAll.voq t q) :=
  (State.normAll_ind (P := fun u => u.anvilOpen = false ∧ (s.voq t q).quiet (u.voq t q)) ⟨hc, Voq.quiet_refl _⟩ fun u t' q' h =>
    ⟨(State.anvilOpen_of_r32 (u.voqNorm_r32 t' q')).trans h.1, Voq.quiet_trans h.2 (State.voqNorm_closed h.1 t' q' t q)⟩).2

theorem State.normAll_seg (s : State) (t q : Nat) : (s.normAll.voq t q).seg = (s.voq t q).seg :=
  Voq.seg_of_cold (State.normAll_ind (P := fun u => (u.voq t q).cold = (s.voq t q).cold) rfl fun u t' q' h => (u.voqNorm_cold t' q' t q).trans h)

theorem State.voqNorm_anvil (s : State) (t q : Nat) : (s.voqNorm t q).tm.anvil = s.tm.anvil := by
  obtain ⟨v, ⟨heq, -⟩ | heq⟩ := s.voqNorm_eq t q
  · rw [heq]
    rfl
  · rw [heq]

theorem State.normAll_anvil (s : State) : s.normAll.tm.anvil = s.tm.anvil :=
  State.normAll_ind (P := fun u => u.tm.anvil = s.tm.anvil) rfl fun u t q h => (u.voqNorm_anvil t q).trans h

/-! ## EN goes to 0 (R269) -/

theorem tget_map {α : Type} {f : α → α} (d : α) (hd : f d = d) (t : Tab α) (k : Nat) : tget (t.map (fun e => (e.1, f e.2))) k d = f (tget t k d) := by
  induction t with
  | nil => exact hd.symm
  | cons e r ih =>
    obtain ⟨j, v⟩ := e
    rw [List.map_cons, tget, tget]
    split
    · rfl
    · exact ih

/-- A queue in SPILL writes no more: what is due stays behind its segment. -/
def Voq.stopped (v : Voq) : Voq := if v.spill then { v with due := [], behind := v.due ++ v.behind } else v

def BufSt.stopped (b : BufSt) : BufSt := { b with voqs := b.voqs.map (fun e => (e.1, e.2.stopped)) }

def State.spillStopped (s : State) : State := { s with tm := { s.tm with tiles := s.tm.tiles.map (fun b => (b.1, b.2.stopped)) } }

theorem State.anvilStop_eq (s : State) : s.anvilStop = ((s.spillStopped.fset F.anvilCtl_EN 0).normAll).drainCheck := rfl

theorem State.spillStopped_voq (s : State) (t q : Nat) : s.spillStopped.voq t q = (s.voq t q).stopped := by
  unfold State.voq State.buf State.spillStopped
  dsimp only
  rw [tget_map ({} : BufSt) rfl]
  exact tget_map ({} : Voq) rfl _ _

theorem State.anvilStop_spec (s : State) (t q : Nat) : (s.voq t q).stopped.quiet (s.anvilStop.voq t q) ∧ s.anvilStop.flag F.anvilCtl_EN = false := by
  obtain ⟨u, hu⟩ : ∃ u, u = s.spillStopped.fset F.anvilCtl_EN 0 := ⟨_, rfl⟩
  have hen : u.flag F.anvilCtl_EN = false := by
    rw [hu]
    exact flag_fset_none _ _ _ _ rfl (by decide)
  have hv : u.voq t q = (s.voq t q).stopped := by
    rw [hu, ← State.spillStopped_voq]
    exact State.voq_of_tiles rfl t q
  have hclosed : u.anvilOpen = false := by
    unfold State.anvilOpen
    rw [hen]
    rfl
  have heq : s.anvilStop = u.normAll.drainCheck := by rw [hu, State.anvilStop_eq]
  rw [heq, State.voq_of_tiles (State.tiles_of_tm (State.drainCheck_tm _)), ← hv]
  refine ⟨State.normAll_closed hclosed t q, ?_⟩
  exact (flag_of_rd F.anvilCtl_EN ((State.drainCheck_keeps (State.normAll_keeps (.rfl' (.avoid [.anvilCtl]) u))).rd .anvilCtl 0 0 rfl)).trans hen

/-! ## EN goes to 1, and Anvil powers up (R269, R458) -/

theorem State.anvilStart_spec (s : State) : s.anvilStart.flag F.anvilCtl_EN = true ∧ s.anvilStart.flag F.anvilStatus_DRAINED = false ∧
    (∀ t q, (s.anvilStart.voq t q).seg = (s.voq t q).seg) ∧ s.anvilStart.tm.anvil = s.tm.anvil ∧
    OnlyRegs [.anvilCtl, .anvilStatus, .pwrStatus] s s.anvilStart := by
  obtain ⟨a, ha⟩ : ∃ a, a = ((s.fset F.anvilCtl_EN 1).fset F.anvilStatus_DRAINED 0).fset F.pwrStatus_ANVIL_OFF 0 := ⟨_, rfl⟩
  obtain ⟨u, hu⟩ : ∃ u : State, u = { a with power := { a.power with gddrOn := a.power.gddrOn || s.flag F.pwrStatus_ANVIL_OFF } } := ⟨_, rfl⟩
  have heq : s.anvilStart = u.normAll := by
    rw [hu, ha]
    rfl
  have hr : u.normAll.r32 = a.r32 := by
    rw [(State.normAll_keeps (.rfl' { Touch.all with r32 := false } u)).r32 rfl, hu]
  have htm : u.tm = s.tm := by
    rw [hu, ha]
    rfl
  have hrd (n : RName) (i j : Nat) : u.normAll.rd n i j = a.rd n i j := rd_of_r32 hr n i j
  have hregs : OnlyRegs [.anvilCtl, .anvilStatus, .pwrStatus] s a := by
    rw [ha]
    exact (((OnlyRegs.refl _ s).fset 1 0 0 (by decide)).fset 0 0 0 (by decide)).fset 0 0 0 (by decide)
  have hen : a.flag F.anvilCtl_EN = true := by
    rw [ha, flag_of_rd F.anvilCtl_EN (rd_fset_reg _ _ _ _ _ _ (by decide)), flag_of_rd F.anvilCtl_EN (rd_fset_reg _ _ _ _ _ _ (by decide))]
    exact flag_fset_one _ _ _ _ rfl (by decide)
  have hdr : a.flag F.anvilStatus_DRAINED = false := by
    rw [ha, flag_of_rd F.anvilStatus_DRAINED (rd_fset_reg _ _ _ _ _ _ (by decide))]
    exact flag_fset_none _ _ _ _ rfl (by decide)
  rw [heq]
  refine ⟨(flag_of_rd _ (hrd _ _ _)).trans hen, (flag_of_rd _ (hrd _ _ _)).trans hdr, fun t q => ?_, ?_, fun n i j hn => (hrd n i j).trans (hregs n i j hn)⟩
  · rw [State.normAll_seg, State.voq_of_tiles (State.tiles_of_tm htm)]
  · rw [State.normAll_anvil, htm]

theorem tget_map_key {α : Type} (f : Nat → α) (d : α) {l : List Nat} {k : Nat} (h : k ∈ l) : tget (l.map (fun k => (k, f k))) k d = f k := by
  induction l with
  | nil => exact absurd h List.not_mem_nil
  | cons a r ih =>
    rw [List.map_cons, tget]
    by_cases hk : a = k
    · rw [if_pos hk, hk]
    · rw [if_neg hk]
      exact ih ((List.mem_cons.1 h).resolve_left (Ne.symm hk))

/-- The free rings as they are built. -/
def State.ringsBuilt (s : State) : State := { s with tm := { s.tm with anvil := { s.tm.anvil with
  groups := (List.range 8).map (fun g => (g, ({ hi := 3069 } : AnvGroup))) } } }

theorem State.ringsBuilt_group (s : State) {g : Nat} (h : g < 8) : s.ringsBuilt.group g = { hi := 3069 } :=
  tget_map_key (fun _ => ({ hi := 3069 } : AnvGroup)) {} (List.mem_range.2 h)

theorem State.groupPages_congr {s u : State} (h : u.rd .chActive = s.rd .chActive) (hr : u.tm.anvil.retired = s.tm.anvil.retired) (g : Nat) :
    u.groupPages g = s.groupPages g := by
  unfold State.groupPages State.chInService
  rw [h, hr]

/-- GRP_FREE shows every group's pages. -/
theorem State.pagesShown (s : State) {n : Nat} (hn : n ≤ 8) : let u := forN n (fun g s => s.fset F.grpFree_V (s.groupPages g) 0 g) s
    u.tm = s.tm ∧ OnlyRegs [.grpFree] s u ∧ u.r64 = s.r64 ∧ ∀ g, g < n → u.fget F.grpFree_V 0 g = s.groupPages g % 2 ^ 22 := by
  induction n with
  | zero => exact ⟨rfl, OnlyRegs.refl _ _, rfl, fun g h => absurd h (Nat.not_lt_zero g)⟩
  | succ n ih =>
    obtain ⟨htm, hregs, h64, hv⟩ := ih (by omega)
    intro u
    obtain ⟨w, hw⟩ : ∃ w, w = forN n (fun g s => s.fset F.grpFree_V (s.groupPages g) 0 g) s := ⟨_, rfl⟩
    rw [← hw] at htm hregs h64 hv
    have hu : u = w.fset F.grpFree_V (w.groupPages n) 0 n := by
      rw [hw]
      exact forN_succ n (fun g s => s.fset F.grpFree_V (s.groupPages g) 0 g) s
    have hpages : w.groupPages n = s.groupPages n := State.groupPages_congr (hregs .chActive 0 0 (by decide)) (by rw [htm]) n
    rw [hu]
    refine ⟨(State.fset_tm _ _ _ _ _).trans htm, hregs.fset _ _ _ (by decide), h64, fun g hg => ?_⟩
    rw [fget_fset _ _ _ _ _ _ _ (by decide) (by decide), hpages]
    by_cases hgn : g = n
    · rw [hgn, if_pos rfl]
      rfl
    · have hkey : regKey F.grpFree_V.reg 0 g ≠ regKey F.grpFree_V.reg 0 n := fun h => by
        obtain ⟨-, -, hj⟩ := regKey_inj h
        omega
      rw [if_neg hkey, hv g (by omega)]

theorem State.anvilTrained_spec (s : State) : s.anvilTrained.flag F.anvilStatus_READY = true ∧ OnlyRegs [.anvilStatus, .grpFree] s s.anvilTrained ∧
    OnlyWide [] s s.anvilTrained ∧ ∀ g, g < 8 → s.anvilTrained.group g = { hi := 3069 } ∧ s.anvilTrained.fget F.grpFree_V 0 g = s.groupPages g % 2 ^ 22 := by
  obtain ⟨a, ha⟩ : ∃ a, a = forN 8 (fun g s => s.fset F.grpFree_V (s.groupPages g) 0 g) s.ringsBuilt := ⟨_, rfl⟩
  obtain ⟨u, hu⟩ : ∃ u, u = a.fset F.anvilStatus_READY 1 := ⟨_, rfl⟩
  have heq : s.anvilTrained = u.normAll := by
    rw [hu, ha]
    rfl
  obtain ⟨htm, hregs, h64, hpages⟩ := s.ringsBuilt.pagesShown (Nat.le_refl 8)
  rw [← ha] at htm hregs h64 hpages
  have hk := State.normAll_keeps (.rfl' (.onRegs []) u)
  have hu32 : OnlyRegs [.anvilStatus, .grpFree] s u := by
    rw [hu]
    exact OnlyRegs.fset (fun n i j hn => hregs n i j fun h => hn (List.mem_cons_of_mem _ h)) _ _ _ (by decide)
  rw [heq]
  refine ⟨?_, fun n i j hn => (hk.onlyRegs n i j nofun).trans (hu32 n i j hn), fun n i j hn => (hk.onlyWide n i j hn).trans ?_, fun g hg => ⟨?_, ?_⟩⟩
  · rw [flag_of_rd F.anvilStatus_READY (hk.onlyRegs _ _ _ nofun), hu]
    exact flag_fset_one _ _ _ _ rfl (by decide)
  · rw [hu, rdw_fset, State.rdw, h64]
    rfl
  · unfold State.group
    rw [State.normAll_anvil, hu, State.fset_tm, htm]
    exact s.ringsBuilt_group hg
  · rw [fget_of_rd F.grpFree_V (hk.onlyRegs _ _ _ nofun), hu, fget_of_rd F.grpFree_V (rd_fset_reg _ _ _ _ _ _ (by decide)), hpages g hg]
    rfl

section
variable {s : State}

theorem execAnvilEnSet_eq (s : State) : execAnvilEnSet s = .next (if s.flag F.anvilCtl_EN = true then s else s.anvilStart) := by
  unfold execAnvilEnSet State.anvilCtlWrite
  rw [show bitAt (1 : Word).toNat 0 = true from rfl]
  by_cases h : s.flag F.anvilCtl_EN = true
  · rw [if_pos h.symm, if_pos h]
  · rw [if_neg (Ne.symm h), if_neg h, if_pos rfl]

theorem execAnvilEnClear_eq (s : State) : execAnvilEnClear s = .next (if s.flag F.anvilCtl_EN = true then s.anvilStop else s) := by
  unfold execAnvilEnClear State.anvilCtlWrite
  rw [show bitAt (0 : Word).toNat 0 = false from rfl]
  by_cases h : s.flag F.anvilCtl_EN = true
  · rw [if_neg (by rw [h]; decide), if_pos h, if_neg (by decide)]
  · rw [if_pos (by simpa using h), if_neg h]

end

theorem anvilControl : Claims.AnvilControl := by
  refine ⟨fun s g => ?_, fun s => ⟨fun hen => ⟨?_, ?_⟩, fun hen => ⟨?_, ?_⟩, fun h => ?_, fun h1 h2 h3 => ?_⟩⟩
  · intro v
    refine ⟨fun x l hn hr => ?_, fun hn hr => ?_, fun hn => ?_, fun hn hc => ?_, fun hn hc hr => ?_, fun hn => ?_⟩
    · exact ⟨_, execFreeCacheRefill_few hn, OnlyRegs.refl _ _, OnlyWide.refl _ _, (State.setGroup_group _ _ _).trans (AnvGroup.refill_ring hr)⟩
    · exact ⟨_, execFreeCacheRefill_few hn, OnlyRegs.refl _ _, OnlyWide.refl _ _, (State.setGroup_group _ _ _).trans (AnvGroup.refill_none hr)⟩
    · exact congrArg Host.Outcome.next (if_neg (Nat.not_lt.2 hn))
    · exact ⟨_, v.given, execFreeCacheWriteback_many hn, OnlyRegs.refl _ _, OnlyWide.refl _ _,
        (State.setGroup_group _ _ _).trans (AnvGroup.writeback_cache hc), AnvGroup.given_cache hc⟩
    · exact ⟨_, execFreeCacheWriteback_many hn, OnlyRegs.refl _ _, (State.setGroup_group _ _ _).trans (AnvGroup.writeback_fresh hc hn hr)⟩
    · exact congrArg Host.Outcome.next (if_neg (Nat.not_lt.2 hn))
  · exact (execAnvilEnSet_eq s).trans (congrArg Host.Outcome.next (if_pos hen))
  · refine ⟨_, (execAnvilEnClear_eq s).trans (congrArg Host.Outcome.next (if_pos hen)), (s.anvilStop_spec 0 0).2, fun t q hs => ?_, fun t q hs => ?_⟩
    · obtain ⟨hseg, -, hdue⟩ := (s.anvilStop_spec t q).1
      have hst : (s.voq t q).stopped = { s.voq t q with due := [], behind := (s.voq t q).due ++ (s.voq t q).behind } := if_pos hs
      rw [hst] at hseg hdue
      exact ⟨hdue rfl, hseg⟩
    · obtain ⟨-, hspill, -⟩ := (s.anvilStop_spec t q).1
      have hst : (s.voq t q).stopped = s.voq t q := if_neg (by rw [hs]; decide)
      rw [hst] at hspill
      exact hspill hs
  · exact (execAnvilEnClear_eq s).trans (congrArg Host.Outcome.next (if_neg (by rw [hen]; decide)))
  · exact ⟨_, (execAnvilEnSet_eq s).trans (congrArg Host.Outcome.next (if_neg (by rw [hen]; decide))), s.anvilStart_spec⟩
  · refine congrArg Host.Outcome.next (if_neg fun ⟨hen, hr, hg⟩ => ?_)
    rw [hen, hr, hg] at h
    simp at h
  · obtain ⟨hr, hregs, hwide, hgroups⟩ := s.anvilTrained_spec
    exact ⟨_, congrArg Host.Outcome.next (if_pos ⟨h1, h2, h3⟩), hr, hregs, hwide, fun g => hgroups g g.isLt⟩

/-- Settles O29: spill and refill by the queue's parts in Anvil, ANVIL_CTL by the SPILL rule over every queue. -/
theorem spillRefillAndAnvilControl : Obligations.SpillRefillAndAnvilControl := ⟨spillAndRefill, anvilControl⟩

end Sys2Proof.Machine
end

section
/-!
PROOF. Heads held for multicast, ports held down, and VOQ_CTL (R282, R283, R285, R287, R290).
-/

set_option Elab.async false
set_option exponentiation.threshold 4096
set_option maxRecDepth 20000

namespace Sys2Proof.Machine

/-! ## The ports that take a multicast copy (R282, R283) -/

section
variable {s : State} {c len d m : Nat}

theorem mem_maskPorts {p : Nat} : p ∈ maskPorts d m ↔ p / 32 = d ∧ bitAt m (p % 32) = true := by
  unfold maskPorts
  rw [List.mem_map]
  constructor
  · rintro ⟨j, hj, rfl⟩
    obtain ⟨hj, hb⟩ := List.mem_filter.1 hj
    have h32 := List.mem_range.1 hj
    exact ⟨by omega, by rw [show (32 * d + j) % 32 = j by omega]; exact hb⟩
  · rintro ⟨hd, hb⟩
    exact ⟨p % 32, List.mem_filter.2 ⟨List.mem_range.2 (by omega), hb⟩, by omega⟩

theorem maskPorts_sorted (d m : Nat) : (maskPorts d m).Pairwise (· < ·) := by
  unfold maskPorts
  refine List.Pairwise.map _ (fun a b h => ?_) (List.pairwise_lt_range.filter _)
  omega

/-- The takers are ports of the list in its order, and each has room for one copy at least. -/
theorem State.takers_from (s : State) (c len : Nat) (ports acc : List Nat) : ∃ l,
    ports.foldl (fun l p => if s.canTake p c (len * (l.length + 1)) then l ++ [p] else l) acc = acc ++ l ∧ l.Sublist ports ∧
      ∀ p ∈ l, ∃ k, s.canTake p c (len * (k + 1)) = true := by
  induction ports generalizing acc with
  | nil => exact ⟨[], (List.append_nil _).symm, List.Sublist.refl _, fun p hp => absurd hp List.not_mem_nil⟩
  | cons a r ih =>
    rw [List.foldl_cons]
    by_cases ha : s.canTake a c (len * (acc.length + 1)) = true
    · obtain ⟨l, heq, hsub, htake⟩ := ih (acc ++ [a])
      rw [if_pos ha, heq, List.append_assoc]
      refine ⟨a :: l, rfl, hsub.cons_cons a, fun p hp => ?_⟩
      obtain rfl | hp := List.mem_cons.1 hp
      · exact ⟨_, ha⟩
      · exact htake p hp
    · obtain ⟨l, heq, hsub, htake⟩ := ih acc
      rw [if_neg ha, heq]
      exact ⟨l, rfl, hsub.cons a, htake⟩

theorem State.canTake_less {p n : Nat} (h : s.canTake p c n = true) (hle : len ≤ n) : s.canTake p c len = true := by
  unfold State.canTake State.stgSpace at h ⊢
  simp only [Bool.and_eq_true, decide_eq_true_iff] at h ⊢
  exact ⟨h.1, by omega⟩

theorem State.takers_spec (s : State) (c len : Nat) (ports : List Nat) : (s.takers c len ports).Sublist ports ∧
    ∀ p ∈ s.takers c len ports, s.canTake p c len = true := by
  obtain ⟨l, heq, hsub, htake⟩ := s.takers_from c len ports []
  rw [show s.takers c len ports = l from heq]
  refine ⟨hsub, fun p hp => ?_⟩
  obtain ⟨k, hk⟩ := htake p hp
  exact State.canTake_less hk (Nat.le_mul_of_pos_right _ (Nat.succ_pos k))

/-- The mask of a list of ports of one tile names them. -/
theorem mem_maskPorts_slots {l : List Nat} (hd : ∀ p ∈ l, p / 32 = d) (hs : l.Pairwise (· < ·)) {p : Nat} :
    p ∈ maskPorts d (l.map slotBit).sum ↔ p ∈ l := by
  have hslots : l.map slotBit = (l.map (· % 32)).map (fun j => 2 ^ j) := by rw [List.map_map]; rfl
  have hsort : (l.map (· % 32)).Pairwise (· < ·) := by
    rw [List.pairwise_map]
    refine hs.imp_of_mem fun {a b} ha hb h => ?_
    have h1 := hd a ha
    have h2 := hd b hb
    omega
  rw [mem_maskPorts, hslots, bitAt_vector hsort, List.contains_iff_mem, List.mem_map]
  constructor
  · rintro ⟨hp, a, ha, he⟩
    have h1 := hd a ha
    rwa [show p = a by omega]
  · exact fun hp => ⟨hd p hp, p, hp, rfl⟩

end

section
variable {s : State} {t q : Nat} {r : Ref} {rest : List Ref}

/-- The ports of a multicast head that take its copy. -/
def State.heldTakers (s : State) (t q : Nat) (r : Ref) : List Nat := s.takers (q % 8) (s.frame t r.fid).len (maskPorts (q / 8) r.mask)

/-- The skipped ports counted at the egress tile. -/
def State.heldSkips (s : State) (t q : Nat) (r : Ref) : State :=
  s.bump .cntMcSkip (s.tileOf (32 * (q / 8))) 0 ((maskPorts (q / 8) r.mask).length - (s.heldTakers t q r).length)

theorem State.heldSkips_counts (s : State) (t q : Nat) (r : Ref) : (s.heldSkips t q r).rdw .cntMcSkip (s.tileOf (32 * (q / 8))) =
    s.rdw .cntMcSkip (s.tileOf (32 * (q / 8))) + BitVec.ofNat 64 ((maskPorts (q / 8) r.mask).length - (s.heldTakers t q r).length) :=
  rdw_bump_same _ _ _ _ _

section
variable (hh : (s.voq t (4096 + q)).head = r :: rest) (hg : (s.voq t (4096 + q)).granted = 0) (hc : (s.voq t (4096 + q)).crossing = none)
include hh hg hc

theorem execMcHoldExpire_eq : execMcHoldExpire t q s = .next (
    if ((s.heldTakers t q r).map slotBit).sum = 0 then
      (((s.heldSkips t q r).setVoq t (4096 + q) { s.voq t (4096 + q) with head := rest, ready := 0 }).endRef t r.fid).voqNorm t (4096 + q)
    else (s.heldSkips t q r).setVoq t (4096 + q) { s.voq t (4096 + q) with
      head := { r with mask := ((s.heldTakers t q r).map slotBit).sum } :: rest, granted := ((s.heldTakers t q r).map slotBit).sum, ready := 0 }) := by
  unfold execMcHoldExpire
  dsimp only
  rw [hh]
  dsimp only
  rw [if_neg (by rw [hg, hc]; decide)]
  rfl

end

theorem slots_zero {l : List Nat} : (l.map slotBit).sum = 0 ↔ l = [] := by
  cases l with
  | nil => exact ⟨fun _ => rfl, fun _ => rfl⟩
  | cons a r =>
    have hpos : 0 < slotBit a := Nat.two_pow_pos _
    refine ⟨fun h => ?_, nofun⟩
    rw [List.map_cons, List.sum_cons] at h
    omega

end

/-- With Anvil closed a queue outside SPILL stays as it is (R262). -/
theorem State.voqNorm_closed_head {u : State} {t q : Nat} (hc : u.anvilOpen = false) (hs : (u.voq t q).spill = false) :
    ((u.voqNorm t q).voq t q).head = (u.voq t q).head := by
  unfold State.voqNorm
  dsimp only
  rw [if_neg (by rw [hs]; decide), if_neg fun h => Bool.noConfusion (hc.symm.trans h.2.1)]

/-! ## A port flushed (R285) -/

/-- A queue without frames and records. -/
def Voq.bare (v : Voq) : Prop := v.head = [] ∧ v.due = [] ∧ v.seg = [] ∧ v.behind = []

theorem State.flushQueue_bare (s : State) (t q code : Nat) : ((s.flushQueue t q code).voq t q).bare ∧
    ∀ t' q', (s.voq t' q').bare → ((s.flushQueue t q code).voq t' q').bare := by
  have hv (t' q' : Nat) := s.flushQueue_voq t q code t' q'
  refine ⟨?_, fun t' q' h => ?_⟩
  · rw [hv, if_pos ⟨rfl, rfl⟩]
    exact ⟨rfl, rfl, rfl, rfl⟩
  · rw [hv]
    split
    · exact ⟨rfl, rfl, rfl, rfl⟩
    · exact h

/-- One queue of the flush of a port. -/
def State.flushOne (p code t c : Nat) (s : State) : State := if s.voq t (8 * p + c) = {} then s else s.flushQueue t (8 * p + c) code

theorem State.flushOne_bare (s : State) (p code t c : Nat) : ((s.flushOne p code t c).voq t (8 * p + c)).bare ∧
    ∀ t' q', (s.voq t' q').bare → ((s.flushOne p code t c).voq t' q').bare := by
  unfold State.flushOne
  split
  · next h =>
    rw [h]
    exact ⟨⟨rfl, rfl, rfl, rfl⟩, fun _ _ h => h⟩
  · exact s.flushQueue_bare _ _ _

theorem State.flushVoqs_eq (s : State) (p code : Nat) :
    s.flushVoqs p code = s.each (List.range 16) (fun t s => s.each (List.range 8) (fun c s => s.flushOne p code t c)) := rfl

theorem State.flushVoqs_bare (s : State) (p code : Nat) {x c : Nat} (hx : x < 16) (hc : c < 8) :
    ((s.flushVoqs p code).voq x (8 * p + c)).bare := by
  have hkeep (t : Nat) (u : State) (h : (u.voq x (8 * p + c)).bare) :
      ((u.each (List.range 8) (fun c s => s.flushOne p code t c)).voq x (8 * p + c)).bare :=
    State.each_ind (P := fun u => (u.voq x (8 * p + c)).bare) h fun c' w hw => (w.flushOne_bare p code t c').2 _ _ hw
  rw [State.flushVoqs_eq]
  refine State.each_sets (P := fun u => (u.voq x (8 * p + c)).bare) s (List.mem_range.2 hx) (fun u => ?_) hkeep
  exact State.each_sets (P := fun u => (u.voq x (8 * p + c)).bare) u (List.mem_range.2 hc) (fun w => (w.flushOne_bare p code x c).1)
    fun c' w hw => (w.flushOne_bare p code x c').2 _ _ hw

theorem State.flushVoqs_lines (s : State) (p code : Nat) : (s.flushVoqs p code).lines = s.lines := by
  rw [State.flushVoqs_eq]
  refine State.each_view State.lines fun t u => ?_
  refine State.each_view State.lines fun c w => ?_
  unfold State.flushOne
  split
  · rfl
  · exact State.flushQueue_lines _ _ _ _

theorem State.setNc_tiles (s : State) (p c : Nat) (v : NClass) : (s.setNc p c v).tiles = s.tiles := rfl

theorem State.downHeld_of_lines {s u : State} (h : u.lines = s.lines) (p : Nat) : (u.np p).downHeld = (s.np p).downHeld := by
  show (u.lines p).downHeld = (s.lines p).downHeld
  rw [h]

/-- A class queue emptied. -/
def State.flushClass (p code c : Nat) (s : State) : State :=
  (s.each (s.nc p c).q (fun x s => s.discardAt p code x.m)).setNc p c { s.nc p c with q := [], tag := none }

theorem State.flushStaged_eq (s : State) (p code : Nat) : s.flushStaged p code = s.each (List.range 8) (State.flushClass p code) := rfl

theorem State.flushClass_spec (s : State) (p code c : Nat) : (s.flushClass p code c).tiles = s.tiles ∧
    ((s.flushClass p code c).np p).downHeld = (s.np p).downHeld ∧ ((s.flushClass p code c).nc p c).q = [] ∧
    ∀ d, (s.nc p d).q = [] → ((s.flushClass p code c).nc p d).q = [] := by
  obtain ⟨u, hu⟩ : ∃ u, u = s.each (s.nc p c).q (fun x s => s.discardAt p code x.m) := ⟨_, rfl⟩
  have htm : u.tm = s.tm := by
    rw [hu]
    exact State.each_view State.tm fun x w => w.discardAt_tm _ _ _
  have heq : s.flushClass p code c = u.setNc p c { s.nc p c with q := [], tag := none } := by
    rw [hu]
    rfl
  rw [heq]
  refine ⟨(State.setNc_tiles _ _ _ _).trans (State.tiles_of_tm htm), ?_, by rw [State.setNc_nc], fun d hd => ?_⟩
  · rw [State.setNc_np, State.np_of_tm htm]
  · by_cases h : d = c
    · rw [h, State.setNc_nc]
    · rw [State.setNc_nc_ne _ _ _ _ fun hh => h hh.2, State.nc_of_tm htm, hd]

theorem State.flushStaged_spec (s : State) (p code : Nat) : (s.flushStaged p code).tiles = s.tiles ∧
    ((s.flushStaged p code).np p).downHeld = (s.np p).downHeld ∧ ∀ c, c < 8 → ((s.flushStaged p code).nc p c).q = [] := by
  rw [State.flushStaged_eq]
  refine ⟨State.each_view State.tiles fun c u => (u.flushClass_spec p code c).1,
    State.each_view (fun u : State => (u.np p).downHeld) fun c u => (u.flushClass_spec p code c).2.1, fun c hc => ?_⟩
  exact State.each_sets (P := fun u => (u.nc p c).q = []) s (List.mem_range.2 hc) (fun u => (u.flushClass_spec p code c).2.2.1)
    fun d u hu => (u.flushClass_spec p code d).2.2.2 c hu

theorem State.downFlush_spec (s : State) (p : Nat) : ((s.downFlush p).np p).downHeld = true ∧ (∀ c, c < 8 → ((s.downFlush p).nc p c).q = []) ∧
    ∀ x c, x < 16 → c < 8 → ((s.downFlush p).voq x (8 * p + c)).bare := by
  obtain ⟨a, ha⟩ : ∃ a, a = s.setNp p { s.np p with downHeld := true } := ⟨_, rfl⟩
  obtain ⟨b, hb⟩ : ∃ b, b = a.flushVoqs p 0x050B := ⟨_, rfl⟩
  obtain ⟨u, hu⟩ : ∃ u, u = b.flushStaged p 0x050B := ⟨_, rfl⟩
  have heq : s.downFlush p = u.post 0x0303 p := by
    rw [hu, hb, ha]
    rfl
  have htm : (u.post 0x0303 p).tm = u.tm := (State.post_keeps (.rfl' .butTm u) _ _).tm rfl
  obtain ⟨htiles, hheld, hq⟩ := b.flushStaged_spec p 0x050B
  rw [← hu] at htiles hheld hq
  have hba : (b.np p).downHeld = (a.np p).downHeld := by
    rw [hb]
    exact State.downHeld_of_lines (a.flushVoqs_lines p 0x050B) p
  rw [heq, State.np_of_tm htm, State.nc_of_tm htm]
  refine ⟨?_, hq, fun x c hx hc => ?_⟩
  · rw [hheld, hba, ha, State.setNp_np]
  · rw [State.voq_of_tiles (State.tiles_of_tm htm), State.voq_of_tiles htiles, hb]
    exact a.flushVoqs_bare p 0x050B hx hc

/-! ## VOQ_CTL (R287, R290) -/

section
variable {s : State} {t : Nat}

/-- The queue that VOQ_CTL names. -/
def voqNamed (v : Word) : Nat := if bitAt v.toNat 12 then 4096 + bits v.toNat 11 0 % 128 else bits v.toNat 11 0

/-- What GO and OP add to INDEX and MC leaves them, and is read back. -/
theorem voqCtl_word (v : Word) {op : Nat} {m : Word} (h11 : bits m.toNat 11 0 = 0) (h12 : bitAt m.toNat 12 = false) (h31 : bitAt m.toNat 31 = true)
    (hop : bits m.toNat 14 13 = op) : let n := ((v &&& 0x1FFF#32) ||| m).toNat
    bits n 11 0 = bits v.toNat 11 0 ∧ bitAt n 12 = bitAt v.toNat 12 ∧ bitAt n 31 = true ∧ bits n 14 13 = op := by
  have hbit (k : Nat) : bitAt ((v &&& 0x1FFF#32) ||| m).toNat k = (bitAt v.toNat k && bitAt (0x1FFF#32).toNat k || bitAt m.toNat k) := by
    unfold bitAt
    rw [BitVec.toNat_or, BitVec.toNat_and, Nat.testBit_or, Nat.testBit_and]
  refine ⟨?_, ?_, ?_, ?_⟩
  · exact (bits_or_mask _ h11).trans (bits_and_mask v (by decide))
  · rw [hbit, h12, show bitAt (0x1FFF#32).toNat 12 = true by decide, Bool.and_true, Bool.or_false]
  · rw [hbit, h31, Bool.or_true]
  · rw [BitVec.toNat_or, bits_or, hop, BitVec.toNat_and, bits_and, show bits (0x1FFF#32).toNat 14 13 = 0 by decide, Nat.and_zero, Nat.zero_or]

section
variable {v w : Word} (h11 : bits w.toNat 11 0 = bits v.toNat 11 0) (h12 : bitAt w.toNat 12 = bitAt v.toNat 12)
include h11 h12

theorem voqNamed_eq : (if bitAt w.toNat 12 then 4096 + bits w.toNat 11 0 % 128
    else bits w.toNat 11 0 % 4096 + if bitAt w.toNat 12 then 4096 else 0) = voqNamed v := by
  have hlt : bits v.toNat 11 0 < 4096 := Nat.mod_lt _ (by decide)
  rw [h11, h12]
  unfold voqNamed
  split
  · rfl
  · rw [Nat.add_zero, Nat.mod_eq_of_lt hlt]

/-- What a query shows of a queue (R290). -/
def State.voqShown (s : State) (t q : Nat) : Nat :=
  s.refCells t (s.voq t q).sram % 2 ^ 17 + b2n (s.voq t q).spill * 2 ^ 17 + b2n (s.voq t q).safe * 2 ^ 18

theorem State.voqCtlWrite_query (h31 : bitAt w.toNat 31 = true) (hop : bits w.toNat 14 13 = 1) : s.voqCtlWrite t w =
    ((s.wr .voqCtl (w &&& 0x7FFF#32) t).wr .voqData0 (BitVec.ofNat 32 (s.voqShown t (voqNamed v))) t).wr .voqData1
      (BitVec.ofNat 32 (ceilDiv (s.voq t (voqNamed v)).anvBytes 1024)) t := by
  unfold State.voqCtlWrite
  dsimp only
  rw [voqNamed_eq h11 h12, if_neg (by rw [h31]; decide), hop]
  rfl

theorem State.voqCtlWrite_leave (h31 : bitAt w.toNat 31 = true) (hop : bits w.toNat 14 13 = 2) : s.voqCtlWrite t w =
    (s.wr .voqCtl (w &&& 0x7FFF#32) t).setVoq t (voqNamed v) { s.voq t (voqNamed v) with safe := false } := by
  unfold State.voqCtlWrite
  dsimp only
  rw [voqNamed_eq h11 h12, if_neg (by rw [h31]; decide), hop]
  rfl

end

/-- SPILL and SAFE stand above the cells. -/
theorem State.voqShown_bits (s : State) (t q : Nat) : bits (BitVec.ofNat 32 (s.voqShown t q)).toNat 17 17 = b2n (s.voq t q).spill ∧
    bits (BitVec.ofNat 32 (s.voqShown t q)).toNat 18 18 = b2n (s.voq t q).safe := by
  have hb (b : Bool) : b2n b < 2 := by cases b <;> decide
  have h1 := hb (s.voq t q).spill
  have h2 := hb (s.voq t q).safe
  have h3 : s.refCells t (s.voq t q).sram % 2 ^ 17 < 2 ^ 17 := Nat.mod_lt _ (by decide)
  unfold State.voqShown bits
  rw [BitVec.toNat_ofNat, Nat.shiftRight_eq_div_pow, Nat.shiftRight_eq_div_pow]
  omega

end

/-- Settles O30: the takers as a mask of the port list, a port's flush queue by queue, VOQ_CTL by its fields. -/
theorem heldQueues : Obligations.HeldQueues := by
  intro s t
  refine ⟨fun q r rest hh hg hc => ⟨?_, fun hok => ?_, fun hok hsp hopen => ?_⟩, fun p hup hen hheld => ?_, fun p hup => ?_, fun v hon => ⟨?_, ?_⟩⟩
  · intro p hp
    obtain ⟨hsub, htake⟩ := s.takers_spec (q.val % 8) (s.frame t r.fid).len (maskPorts (q.val / 8) r.mask)
    exact ⟨hsub.subset hp, htake p hp⟩
  · obtain ⟨hsub, -⟩ := s.takers_spec (q.val % 8) (s.frame t r.fid).len (maskPorts (q.val / 8) r.mask)
    have hm : ((s.heldTakers t q r).map slotBit).sum ≠ 0 := fun h => hok (slots_zero.1 h)
    refine ⟨_, { r with mask := ((s.heldTakers t q r).map slotBit).sum },
      (execMcHoldExpire_eq hh hg hc).trans (congrArg Host.Outcome.next (if_neg hm)), ?_⟩
    rw [State.setVoq_voq, State.setVoq_rdw]
    refine ⟨rfl, rfl, hm, rfl, fun p => ?_, s.heldSkips_counts t q r⟩
    exact mem_maskPorts_slots (fun p hp => (mem_maskPorts.1 (hsub.subset hp)).1) ((maskPorts_sorted _ _).sublist hsub)
  · have hnil : s.heldTakers t q r = [] := hok
    obtain ⟨a, ha⟩ : ∃ a, a = (s.heldSkips t q r).setVoq t (4096 + q) { s.voq t (4096 + q) with head := rest, ready := 0 } := ⟨_, rfl⟩
    have hexec := (execMcHoldExpire_eq hh hg hc).trans (congrArg Host.Outcome.next (if_pos (slots_zero.2 hnil)))
    rw [← ha] at hexec
    have hv : (a.endRef t r.fid).voq t (4096 + q) = { s.voq t (4096 + q) with head := rest, ready := 0 } := by
      rw [State.endRef_voq, ha, State.setVoq_voq]
    have hclosed : (a.endRef t r.fid).anvilOpen = false := by
      have hk := State.endRef_keeps (.rfl' (.avoid [.anvilCtl, .anvilStatus, .dawnStatus, .pwrStatus]) a) t r.fid
      unfold State.anvilOpen State.hz at hopen ⊢
      rw [flag_of_rd F.anvilCtl_EN (hk.rd _ _ _ rfl), flag_of_rd F.anvilStatus_READY (hk.rd _ _ _ rfl), flag_of_rd F.dawnStatus_HORIZON (hk.rd _ _ _ rfl),
        flag_of_rd F.pwrStatus_ANVIL_OFF (hk.rd _ _ _ rfl), ha]
      exact hopen
    refine ⟨_, hexec, ?_, ?_⟩
    · rw [State.voqNorm_closed_head hclosed (by rw [hv]; exact hsp), hv]
    · rw [(State.voqNorm_keeps (State.endRef_keeps (.rfl' (.avoid [.cntMcSkip]) a) t r.fid) t (4096 + q)).rdw .cntMcSkip _ 0 rfl, ha, State.setVoq_rdw,
        s.heldSkips_counts t q r, hnil]
      rfl
  · obtain ⟨h1, h2, h3⟩ := s.downFlush_spec p
    exact ⟨_, congrArg Host.Outcome.next (if_neg (by rw [hup, hen, hheld]; decide)), h1, fun c => h2 c c.isLt, fun x c => h3 x c x.isLt c.isLt⟩
  · exact congrArg Host.Outcome.next (if_pos (Or.inl hup))
  · obtain ⟨h11, h12, h31, hop⟩ := voqCtl_word v (op := 1) (m := 0x80002000#32) (by decide) (by decide) (by decide) (by decide)
    have hctl := State.voqCtlWrite_query (s := s) (t := t) h11 h12 h31 hop
    obtain ⟨hsp, hsafe⟩ := s.voqShown_bits t (voqNamed v)
    obtain ⟨a, ha⟩ : ∃ a, a = s.wr .voqCtl (((v &&& 0x1FFF#32) ||| 0x80002000#32) &&& 0x7FFF#32) t := ⟨_, rfl⟩
    obtain ⟨b, hb⟩ : ∃ b, b = a.wr .voqData0 (BitVec.ofNat 32 (s.voqShown t (voqNamed v))) t := ⟨_, rfl⟩
    rw [← ha, ← hb] at hctl
    refine ⟨_, congrArg Host.Outcome.next ((if_pos hon).trans hctl), ?_, ?_, rd_wr_same _ _ _ _ _, ?_, ?_⟩
    · rw [fget_of_rd F.voqData0_SPILL (rd_wr_reg _ _ _ _ _ _ (by decide)), hb]
      exact (congrArg (fun w : Word => bits w.toNat 17 17) (rd_wr_same a .voqData0 _ t 0)).trans hsp
    · rw [fget_of_rd F.voqData0_SAFE (rd_wr_reg _ _ _ _ _ _ (by decide)), hb]
      exact (congrArg (fun w : Word => bits w.toNat 18 18) (rd_wr_same a .voqData0 _ t 0)).trans hsafe
    · rw [hb, ha]
      rfl
    · rw [hb, ha]
      exact (((OnlyRegs.refl _ s).wr _ _ _ (by decide)).wr _ _ _ (by decide)).wr _ _ _ (by decide)
  · obtain ⟨h11, h12, h31, hop⟩ := voqCtl_word v (op := 2) (m := 0x80004000#32) (by decide) (by decide) (by decide) (by decide)
    have hctl := State.voqCtlWrite_leave (s := s) (t := t) h11 h12 h31 hop
    obtain ⟨a, ha⟩ : ∃ a, a = s.wr .voqCtl (((v &&& 0x1FFF#32) ||| 0x80004000#32) &&& 0x7FFF#32) t := ⟨_, rfl⟩
    have hva (x y : Nat) : a.voq x y = s.voq x y := by
      rw [ha]
      exact State.voq_of_tiles rfl x y
    rw [← ha] at hctl
    refine ⟨_, congrArg Host.Outcome.next ((if_pos hon).trans hctl), State.setVoq_voq _ _ _ _, fun x y hxy => ?_, ?_⟩
    · have hne : ¬(x = t ∧ y = voqNamed v) := fun h => hxy (Prod.ext h.1 h.2)
      rw [State.setVoq_voq_ne _ _ _ _ hne, hva]
    · have h : OnlyRegs [.voqCtl] s a := by
        rw [ha]
        exact (OnlyRegs.refl _ s).wr _ _ _ (by decide)
      exact h

end Sys2Proof.Machine
end

section
/-!
PROOF. Cells of an arriving frame, its verdict, and the priority-group registers (R44, R247, R254, R257, R258, R272).
-/

set_option Elab.async false
set_option exponentiation.threshold 4096
set_option maxRecDepth 20000

namespace Sys2Proof.Machine

/-! ## The reserved total (R257) -/

section
variable {s u : State}

theorem State.reserved_congr (hhz : u.hz = s.hz) (hmode : u.pauseMode = s.pauseMode) (hmask : u.losslessMask = s.losslessMask)
    (hhead : u.pgHeadroom = s.pgHeadroom) (t : Nat) : u.reserved t = s.reserved t := by
  have hports : u.tilePorts t = s.tilePorts t := by
    unfold State.tilePorts
    rw [show u.flag F.dawnStatus_HORIZON = s.flag F.dawnStatus_HORIZON from hhz]
  have hll : u.lossless = s.lossless := by
    funext p i
    unfold State.lossless
    rw [hmode, hmask]
  unfold State.reserved State.losslessPgs
  rw [hports, hll, hmode, hhead]

theorem State.pauseMode_congr (hhz : u.hz = s.hz) (h1 : ∀ p, u.fget F.hzPort_PAUSE_MODE p = s.fget F.hzPort_PAUSE_MODE p)
    (h2 : ∀ p, u.fget F.pfcCfg_MODE p = s.fget F.pfcCfg_MODE p) : u.pauseMode = s.pauseMode := by
  funext p
  unfold State.pauseMode
  rw [hhz, h1, h2]

theorem State.losslessMask_congr (hhz : u.hz = s.hz) (h : u.rd .hzCfg = s.rd .hzCfg) (h2 : ∀ p, u.fget F.pfcCfg_LOSSLESS p = s.fget F.pfcCfg_LOSSLESS p) :
    u.losslessMask = s.losslessMask := by
  funext p
  unfold State.losslessMask
  rw [hhz, flag_of_rd F.hzCfg_LL_EN h, fget_of_rd F.hzCfg_LL_PRI h, h2]

theorem State.pgHeadroom_congr (hhz : u.hz = s.hz) (h1 : ∀ p, u.fget F.portCfg_WIDTH p = s.fget F.portCfg_WIDTH p)
    (h2 : ∀ p i, u.fget F.pgCfg1_HEADROOM p i = s.fget F.pgCfg1_HEADROOM p i) : u.pgHeadroom = s.pgHeadroom := by
  funext p i
  unfold State.pgHeadroom State.widthOf
  rw [hhz, h1, h2]

/-- Registers that the reserved total does not look at. -/
theorem State.reserved_of_onlyRegs {l : List RName} (h : OnlyRegs l s u)
    (hl : ∀ n ∈ [RName.dawnStatus, .hzPort, .pfcCfg, .hzCfg, .portCfg, .pgCfg1], n ∉ l) (t : Nat) : u.reserved t = s.reserved t := by
  have hhz : u.hz = s.hz := flag_of_rd F.dawnStatus_HORIZON (h _ _ _ (hl _ (by decide)))
  refine State.reserved_congr hhz (State.pauseMode_congr hhz ?_ ?_) (State.losslessMask_congr hhz ?_ ?_) (State.pgHeadroom_congr hhz ?_ ?_) t
  · exact fun p => fget_of_rd _ (h _ _ _ (hl _ (by decide)))
  · exact fun p => fget_of_rd _ (h _ _ _ (hl _ (by decide)))
  · exact h _ _ _ (hl _ (by decide))
  · exact fun p => fget_of_rd _ (h _ _ _ (hl _ (by decide)))
  · exact fun p => fget_of_rd _ (h _ _ _ (hl _ (by decide)))
  · exact fun p i => fget_of_rd _ (h _ _ _ (hl _ (by decide)))

theorem State.reserved_rxEn (s : State) (p v t : Nat) : (s.fset F.pfcCfg_RX_EN v p).reserved t = s.reserved t := by
  have hreg {n : RName} (i j : Nat) (hn : n ≠ .pfcCfg) : (s.fset F.pfcCfg_RX_EN v p).rd n i j = s.rd n i j := rd_fset_reg _ _ _ _ _ _ hn
  have hhz : (s.fset F.pfcCfg_RX_EN v p).hz = s.hz := flag_of_rd F.dawnStatus_HORIZON (hreg _ _ (by decide))
  refine State.reserved_congr hhz (State.pauseMode_congr hhz ?_ ?_) (State.losslessMask_congr hhz ?_ ?_) (State.pgHeadroom_congr hhz ?_ ?_) t
  · exact fun p => fget_of_rd _ (hreg _ _ (by decide))
  · exact fun p' => fget_fset_off _ _ _ _ _ _ (by decide) (by decide) fun _ => by decide
  · exact hreg _ _ (by decide)
  · exact fun p' => fget_fset_off _ _ _ _ _ _ (by decide) (by decide) fun _ => by decide
  · exact fun p => fget_of_rd _ (hreg _ _ (by decide))
  · exact fun p i => fget_of_rd _ (hreg _ _ (by decide))

theorem State.pgScan_onlyRegs (s : State) (t : Nat) : OnlyRegs [.pgStatus3] s (s.pgScan t) := (State.pgScan_keeps (.rfl' (.onRegs _) s) t).onlyRegs

/-- The PGs of a port looked at again after a register write. -/
theorem State.reserved_pgScan (s : State) (t : Nat) : (s.pgScan t).reserved t = s.reserved t :=
  State.reserved_of_onlyRegs (s.pgScan_onlyRegs t) (by decide) t

end

/-! ## PG_CFG and PFC_CFG (R257) -/

theorem State.pgCfgWrite_spec (s : State) (p i : Nat) (w : Fin 4) (v : Word) :
    (s.pgCfgWrite p i w v).reserved (s.tileOf p) ≤ max 61440 (s.reserved (s.tileOf p)) ∧
    (w = 1 → ((s.pgCfgWrite p i w v).fget F.pgCfg1_HEADROOM p i = bits v.toNat 15 0 ∨ s.pgCfgWrite p i w v = s)) ∧
    (w = 0 → (s.pgCfgWrite p i w v).rd .pgCfg0 p i = v) := by
  obtain ⟨t, ht⟩ : ∃ t, t = s.tileOf p := ⟨_, rfl⟩
  have hscan (n : RName) (x : Word) (hn : ∀ m ∈ [RName.dawnStatus, .hzPort, .pfcCfg, .hzCfg, .portCfg, .pgCfg1], m ∉ [n]) :
      ((s.wr n x p i).pgScan t).reserved t = s.reserved t := by
    rw [State.reserved_pgScan]
    exact State.reserved_of_onlyRegs ((OnlyRegs.refl [n] s).wr x p i (List.mem_singleton_self n)) hn t
  rw [← ht]
  match w with
  | 0 =>
    have heq : s.pgCfgWrite p i 0 v = (s.wr .pgCfg0 v p i).pgScan t := by rw [ht]; rfl
    refine ⟨?_, fun h => absurd h (by decide), fun _ => ?_⟩
    · show (s.pgCfgWrite p i 0 v).reserved t ≤ _
      rw [heq, hscan .pgCfg0 v (by decide)]
      exact Nat.le_max_right _ _
    · show (s.pgCfgWrite p i 0 v).rd .pgCfg0 p i = v
      rw [heq, State.pgScan_onlyRegs _ _ .pgCfg0 p i (by decide), rd_wr_same]
  | 1 =>
    obtain ⟨a, ha⟩ : ∃ a, a = s.wr .pgCfg1 (v &&& 0xFFFF#32) p i := ⟨_, rfl⟩
    have heq : s.pgCfgWrite p i 1 v = if 61440 < a.reserved t ∧ s.reserved t < a.reserved t then s else a.pgScan t := by rw [ha, ht]; rfl
    refine ⟨?_, fun _ => ?_, fun h => absurd h (by decide)⟩
    · show (s.pgCfgWrite p i 1 v).reserved t ≤ _
      rw [heq]
      split
      · exact Nat.le_max_right _ _
      · next h =>
        rw [State.reserved_pgScan]
        omega
    · show (s.pgCfgWrite p i 1 v).fget F.pgCfg1_HEADROOM p i = _ ∨ s.pgCfgWrite p i 1 v = s
      rw [heq]
      split
      · exact Or.inr rfl
      · refine Or.inl ?_
        rw [fget_of_rd F.pgCfg1_HEADROOM (a.pgScan_onlyRegs t .pgCfg1 p i (by decide)), ha]
        exact (congrArg (fun x : Word => bits x.toNat 15 0) (rd_wr_same s .pgCfg1 _ p i)).trans (bits_and_mask v (by decide))
  | 2 =>
    refine ⟨?_, fun h => absurd h (by decide), fun h => absurd h (by decide)⟩
    show (s.wr .pgCfg2 (v &&& 0x1FFFF#32) p i).reserved t ≤ _
    rw [State.reserved_of_onlyRegs ((OnlyRegs.refl [.pgCfg2] s).wr _ p i (by decide)) (by decide) t]
    exact Nat.le_max_right _ _
  | 3 =>
    have heq : s.pgCfgWrite p i 3 v = (s.wr .pgCfg3 v p i).pgScan t := by rw [ht]; rfl
    refine ⟨?_, fun h => absurd h (by decide), fun h => absurd h (by decide)⟩
    show (s.pgCfgWrite p i 3 v).reserved t ≤ _
    rw [heq, hscan .pgCfg3 v (by decide)]
    exact Nat.le_max_right _ _

theorem State.pfcCfgWrite_spec (s : State) (p : Nat) (v : Word) :
    (s.pfcCfgWrite p v).reserved (s.tileOf p) ≤ max 61440 (s.reserved (s.tileOf p)) ∧
    (s.pfcCfgWrite p v).fget F.pfcCfg_RX_EN p = bits v.toNat 10 10 ∧
    ((s.pfcCfgWrite p v).fget F.pfcCfg_MODE p = bits v.toNat 1 0 ∨ (s.pfcCfgWrite p v).fget F.pfcCfg_MODE p = s.fget F.pfcCfg_MODE p) := by
  obtain ⟨t, ht⟩ : ∃ t, t = s.tileOf p := ⟨_, rfl⟩
  obtain ⟨a, ha⟩ : ∃ a, a = s.wr .pfcCfg (v &&& 0x7FF#32) p := ⟨_, rfl⟩
  obtain ⟨b, hb⟩ : ∃ b, b = ((a.each ((s.xoffPris p).filter (fun i => !a.lossless p i)) (fun i s => s.setXoff p i 0 false)).pauseChange p
    (s.xoffPris p)).pgScan t := ⟨_, rfl⟩
  have heq : s.pfcCfgWrite p v = if 61440 < a.reserved t ∧ s.reserved t < a.reserved t then s.fset F.pfcCfg_RX_EN (bits v.toNat 10 10) p else b := by
    rw [hb, ha, ht]
    rfl
  have hregs : OnlyRegs [.pgStatus3] a b := by
    rw [hb]
    exact (State.pgScan_keeps (State.pauseChange_keeps (State.each_keeps (.rfl' (.onRegs _) a) fun i u h => State.setXoff_keeps h p i 0 false) p _) t).onlyRegs
  have hfld {hi lo : Nat} (h : bits (0x7FF#32).toNat hi lo = 2 ^ (hi + 1 - lo) - 1) : bits (b.rd .pfcCfg p).toNat hi lo = bits v.toNat hi lo := by
    rw [hregs .pfcCfg p 0 (by decide), ha, rd_wr_same]
    exact bits_and_mask v h
  rw [← ht, heq]
  split
  · rw [State.reserved_rxEn]
    refine ⟨Nat.le_max_right _ _, ?_, Or.inr ?_⟩
    · rw [fget_fset_same _ _ _ _ _ (by decide) (by decide)]
      exact Nat.mod_eq_of_lt (Nat.mod_lt _ (by decide))
    · exact fget_fset_off _ _ _ _ _ _ (by decide) (by decide) fun _ => by decide
  · next h =>
    rw [State.reserved_of_onlyRegs hregs (by decide) t]
    exact ⟨by omega, hfld (by decide), Or.inl (hfld (by decide))⟩

/-! ## A cell at hand (R254, R258) -/

section
variable {s : State} {t : Nat}

/-- A buffer with its free list and its cells in use as given. -/
def BufSt.celled (b : BufSt) (freed : List Nat) (fresh : Nat) (inUse : List Nat) : BufSt := { b with freed := freed, fresh := fresh, inUse := inUse }

theorem State.takeCell_hand (h : CellAtHand s t) : ∃ c freed fresh, s.takeCell t =
    (some c, (s.setBuf t ((s.buf t).celled freed fresh (c :: (s.buf t).inUse))).fset F.bpmStatus_FREE_CELLS (s.freeCells t - 1) t) := by
  obtain ⟨c, l, hf, hu⟩ | ⟨hf, hlt, hu, hw⟩ := h
  · have hfirst : firstFree (s.buf t).inUse (s.buf t).freed = ([], some c, l) := by
      rw [hf, firstFree, if_neg (by rw [hu]; decide)]
    refine ⟨c, l, (s.buf t).fresh, ?_⟩
    unfold State.takeCell
    dsimp only
    rw [hfirst]
    rfl
  · have hfirst : firstFree (s.buf t).inUse (s.buf t).freed = ([], none, []) := by rw [hf, firstFree]
    obtain ⟨n, hn⟩ : ∃ n, min ((s.buf t).withdrawn.length + (s.buf t).inUse.length + 1) (65536 - (s.buf t).fresh) = n + 1 :=
      Nat.exists_eq_add_one.2 (by omega)
    obtain ⟨l, hl⟩ : ∃ l, (s.buf t).freshCells = (s.buf t).fresh :: l := by
      unfold BufSt.freshCells
      rw [hn, List.range_succ_eq_map, List.map_cons, Nat.add_zero, List.filter_cons, if_pos (by rw [hw]; decide)]
      exact ⟨_, rfl⟩
    have hfresh : firstFree (s.buf t).inUse (s.buf t).freshCells = ([], some (s.buf t).fresh, l) := by
      rw [hl, firstFree, if_neg (by rw [hu]; decide)]
    refine ⟨(s.buf t).fresh, [], (s.buf t).fresh + 1, ?_⟩
    unfold State.takeCell
    dsimp only
    rw [hfirst]
    dsimp only
    rw [if_neg (by decide), hfresh]
    rfl

/-- What a lossy PG's cell does (R258). -/
theorem State.admitCell_lossy {p i : Nat} (hl : s.lossless p i = false) : s.admitCell t p i =
    if s.sharedFree t = 0 then (.error 0x0505, s)
    else if s.sharedUsed p i < s.pgLimit p i then s.chargedCell t p i 0x0505 false
    else (.error 0x0504, s) := by
  unfold State.admitCell
  rw [if_neg (by rw [hl]; decide)]

/-- A cell of the shared pool, for a PG below its limit. -/
theorem State.admitCell_room {p i : Nat} (hl : s.lossless p i = false) (hc : CellAtHand s t) (hfree : 0 < s.sharedFree t)
    (hlim : s.sharedUsed p i < s.pgLimit p i) : ∃ c u, s.admitCell t p i = (.ok c, u) ∧ u.cargo t = s.cargo t ∧ u.books t = s.books t ∧
      u.sharedUsed p i = s.sharedUsed p i + 1 ∧ u.freeCells t + 1 = s.freeCells t := by
  obtain ⟨c, freed, fresh, htake⟩ := State.takeCell_hand hc
  obtain ⟨a, ha⟩ : ∃ a, a = s.setBuf t ((s.buf t).celled freed fresh (c :: (s.buf t).inUse)) := ⟨_, rfl⟩
  obtain ⟨b, hb⟩ : ∃ b, b = a.fset F.bpmStatus_FREE_CELLS (s.freeCells t - 1) t := ⟨_, rfl⟩
  have hused : b.sharedUsed p i = s.sharedUsed p i := by
    rw [hb, ha]
    exact fget_of_rd F.pgStatus0_SHARED_USED (rd_fset_reg _ _ _ _ _ _ (by decide))
  have hpos : 0 < s.freeCells t := by
    unfold State.sharedFree at hfree
    omega
  have hlt : s.freeCells t < 2 ^ 17 := Nat.mod_lt _ (by decide)
  have hlimit : s.pgLimit p i < 2 ^ 17 := by
    have h : s.fget F.pgCfg2_LIMIT p i < 2 ^ 17 := Nat.mod_lt _ (by decide)
    unfold State.pgLimit
    split <;> omega
  have hadmit : s.admitCell t p i = (.ok c, b.fset F.pgStatus0_SHARED_USED (b.sharedUsed p i + 1) p i) := by
    rw [State.admitCell_lossy hl, if_neg (by omega), if_pos hlim]
    unfold State.chargedCell
    rw [htake, ← ha, ← hb]
    rfl
  rw [hused] at hadmit
  refine ⟨c, _, hadmit, ?_, ?_, ?_, ?_⟩
  · rw [hb, ha]
    exact State.cargo_setBuf s t rfl rfl
  · rw [hb, ha]
    exact State.books_setBuf s t t rfl rfl
  · have hsmall : s.sharedUsed p i + 1 < 2 ^ 17 := by omega
    exact (fget_fset_same _ _ _ _ _ (by decide) (by decide)).trans (Nat.mod_eq_of_lt hsmall)
  · have h : (b.fset F.pgStatus0_SHARED_USED (s.sharedUsed p i + 1) p i).freeCells t = (s.freeCells t - 1) % 2 ^ 17 := by
      refine (fget_of_rd F.bpmStatus_FREE_CELLS (rd_fset_reg _ _ _ _ _ _ (by decide))).trans ?_
      rw [hb]
      exact fget_fset_same _ _ _ _ _ (by decide) (by decide)
    rw [h, Nat.mod_eq_of_lt (by omega)]
    omega

/-! ## The first beat of a frame (R247, R249) -/

/-- The frame that a first beat starts. -/
def State.firstFrame (s : State) (p : Nat) (bs : List Byte) : Frame := { data := [], m := { iport := p, ipri := s.ipriOf p bs, arrivalNs := s.rxStamp p } }

/-- A buffer that receives a new frame of a port. -/
def BufSt.receiving (b : BufSt) (p : Nat) : BufSt := { b with nextFid := b.nextFid + 1, rx := tset b.rx p 0 (b.nextFid + 1) }

/-- The tile with that frame. -/
def State.rxStart (s : State) (p : Nat) (bs : List Byte) : State :=
  (s.setBuf (s.tileOf p) ((s.buf (s.tileOf p)).receiving p)).setFrame (s.tileOf p) (s.buf (s.tileOf p)).nextFid (s.firstFrame p bs)

section
variable {p : Nat} {bs : List Byte} (hup : s.isUp p = true) (hon : s.tileOn (s.tileOf p) = true) (hrx : s.rxFid (s.tileOf p) p = none)
include hup hon hrx

theorem State.rxBeat_first (hctl : (s.rxCtl p).isEmpty = true) (hp : s.rxPauseEn p = false ∨ isPause bs = false) :
    s.rxBeat p bs = (s.rxStart p bs).rxBytes (s.tileOf p) (s.buf (s.tileOf p)).nextFid bs := by
  unfold State.rxBeat
  dsimp only
  rw [if_neg (by rw [hup, hon]; decide), hrx]
  dsimp only
  rw [if_neg (by rw [hctl]; rcases hp with h | h <;> simp [h])]
  rfl

theorem State.rxBeat_pause (hctl : (s.rxCtl p).isEmpty = true) (hen : s.rxPauseEn p = true) (hp : isPause bs = true) :
    s.rxBeat p bs = s.setRxCtl p bs := by
  unfold State.rxBeat
  dsimp only
  rw [if_neg (by rw [hup, hon]; decide), hrx]
  dsimp only
  rw [if_pos (Or.inr ⟨hen, hp⟩), List.isEmpty_iff.1 hctl]
  rfl

end

theorem State.rxStart_rxFid (s : State) (p : Nat) (bs : List Byte) : (s.rxStart p bs).rxFid (s.tileOf p) p = some (s.buf (s.tileOf p)).nextFid := by
  have hb : (s.rxStart p bs).rxFid (s.tileOf p) p = (s.setBuf (s.tileOf p) ((s.buf (s.tileOf p)).receiving p)).rxFid (s.tileOf p) p :=
    State.rxFid_of_books (State.setFrame_books _ _ _ _ _) p
  rw [hb]
  unfold State.rxFid
  rw [State.setBuf_buf, BufSt.receiving]
  dsimp only
  rw [tget_tset_same]

theorem State.rxStart_frame (s : State) (p : Nat) (bs : List Byte) :
    (s.rxStart p bs).frame (s.tileOf p) (s.buf (s.tileOf p)).nextFid = s.firstFrame p bs := State.setFrame_frame _ _ _ _

theorem State.rxStart_hand (p : Nat) (bs : List Byte) (h : CellAtHand s (s.tileOf p)) : CellAtHand (s.rxStart p bs) (s.tileOf p) := by
  obtain ⟨b, hb, hf⟩ : ∃ b, (s.rxStart p bs).buf (s.tileOf p) = { (s.buf (s.tileOf p)).receiving p with frames := b } ∧ True :=
    ⟨_, (State.setBuf_buf _ _ _).trans (by rw [State.setBuf_buf]), trivial⟩
  unfold CellAtHand
  rw [hb]
  exact h

/-! ## Bytes of a frame (R258, R272) -/

section
variable {fid : Nat} {bs : List Byte}

/-- A frame with bytes received. -/
def Frame.longer (f : Frame) (bs : List Byte) : Frame := { f with rxLen := f.rxLen + bs.length, data := f.data ++ bs }

theorem State.rxBytes_fits (hdead : (s.frame t fid).dead = none) (hbad : (s.frame t fid).bad = false)
    (hfit : (s.frame t fid).data.length + bs.length ≤ 256 * (s.frame t fid).cells.length) :
    s.rxBytes t fid bs = s.setFrame t fid ((s.frame t fid).longer bs) := by
  unfold State.rxBytes
  dsimp only
  rw [if_neg (by rw [hdead, hbad]; decide), if_pos hfit]
  rfl

section
variable (hdead : (s.frame t fid).dead = none) (hbad : (s.frame t fid).bad = false) (hct : (s.frame t fid).ct = false)
  (hfull : 256 * (s.frame t fid).cells.length < (s.frame t fid).data.length + bs.length)
include hdead hbad hct hfull

theorem State.rxBytes_cell {c : Nat} {u : State} (hlink : (s.frame t fid).linked = false)
    (hadmit : s.admitCell t (s.frame t fid).m.iport (s.frame t fid).m.ipri = (.ok c, u)) : s.rxBytes t fid bs =
      (u.setFrame t fid { (s.frame t fid).longer bs with cells := (s.frame t fid).cells ++ [c] }).pgScan t := by
  have hwhen (w : State) (f : State → State) : w.when (s.frame t fid).linked f = w := by
    rw [State.when, hlink]
    rfl
  unfold State.rxBytes
  dsimp only
  rw [if_neg (by rw [hdead, hbad]; decide), if_neg (by omega), hadmit]
  dsimp only
  rw [hwhen, if_neg (by rw [hct]; simp)]
  rfl

theorem State.rxBytes_refused {code : Nat} {u : State}
    (hadmit : s.admitCell t (s.frame t fid).m.iport (s.frame t fid).m.ipri = (.error code, u)) : s.rxBytes t fid bs =
      (u.setFrame t fid { s.frame t fid with rxLen := (s.frame t fid).rxLen + bs.length }).killFrame t fid code := by
  unfold State.rxBytes
  dsimp only
  rw [if_neg (by rw [hdead, hbad]; decide), if_neg (by omega), hadmit]
  dsimp only
  rw [if_neg (by rw [hct]; decide)]

end

/-- A frame that is dropped before it has a cell gives none back. -/
theorem State.killFrame_freeCells (code : Nat) (h : (s.frame t fid).cells = []) : (s.killFrame t fid code).freeCells t = s.freeCells t := by
  have hrid (u : State) : (u.ridQueues t fid).freeCells t = u.freeCells t :=
    State.each_view (fun w : State => w.freeCells t) fun _ _ => rfl
  have hdis (m : FMeta) : (s.discard t code m).freeCells t = s.freeCells t :=
    (State.discard_keeps (.rfl' (.avoid [.bpmStatus]) s) t code m).fget F.bpmStatus_FREE_CELLS t 0 rfl
  have hfree {u : State} (hu : (u.frame t fid).cells = []) : (u.freeFrameCells t fid).freeCells t = u.freeCells t := by
    unfold State.freeFrameCells
    dsimp only
    rw [hu]
    refine ((State.pgScan_keeps (.rfl' (.avoid [.bpmStatus]) _) t).fget F.bpmStatus_FREE_CELLS t 0 rfl).trans ?_
    split
    · rfl
    · exact (State.uncharge_keeps (.rfl' (.avoid [.bpmStatus]) _) _ _ _).fget F.bpmStatus_FREE_CELLS t 0 rfl
  have hsweep (u : State) : (u.sweep t fid).freeCells t = u.freeCells t :=
    (State.sweep_keeps (.rfl' (.avoid [.bpmStatus]) u) t fid).fget F.bpmStatus_FREE_CELLS t 0 rfl
  have hset (u : State) (f : Frame) : (u.setFrame t fid f).freeCells t = u.freeCells t := rfl
  have hforget (u : State) : (u.excForget t fid).freeCells t = u.freeCells t :=
    (State.excForget_keeps (.rfl' (.avoid [.bpmStatus]) u) t fid).fget F.bpmStatus_FREE_CELLS t 0 rfl
  rw [State.killFrame_eq]
  dsimp only
  split
  · rw [hsweep, hfree (by rw [State.setFrame_frame]; exact h), hset, hrid, hforget, hdis]
  · rw [hset, hrid, hforget, hdis]

theorem State.killFrame_books (code t' : Nat) : (s.killFrame t fid code).books t' = s.books t' := by
  have hrid (u : State) : (u.ridQueues t fid).books t' = u.books t' :=
    State.each_view (fun w : State => w.books t') fun _ w => w.setVoq_books t _ _ t'
  have hdis (m : FMeta) : ((s.discard t code m).excForget t fid).books t' = s.books t' :=
    State.books_of_tiles (State.tiles_of_tm ((State.excForget_keeps (State.discard_keeps (.rfl' .butTm s) t code m) t fid).tm rfl)) t'
  have hsweep (u : State) : (u.sweep t fid).books t' = u.books t' := by
    unfold State.sweep
    dsimp only
    split
    · exact u.forget_books t fid t'
    · rfl
  rw [State.killFrame_eq]
  dsimp only
  split
  · rw [hsweep, State.freeFrameCells_books, State.setFrame_books, hrid, hdis]
  · rw [State.setFrame_books, hrid, hdis]

theorem State.killFrame_dropCnt (code k : Nat) : (s.killFrame t fid code).rdw .dropCnt t k = (s.discard t code (s.frame t fid).m).rdw .dropCnt t k := by
  have hrid (u : State) : Keeps (.avoid [.dropCnt]) u (u.ridQueues t fid) := State.each_keeps (.rfl' _ u) fun _ _ hw => State.setVoq_keeps hw _ _ _
  rw [State.killFrame_eq]
  dsimp only
  split
  · rw [(State.sweep_keeps (.rfl' (.avoid [.dropCnt]) _) t fid).rdw .dropCnt _ _ rfl,
      (State.freeFrameCells_keeps (.rfl' (.avoid [.dropCnt]) _) t fid).rdw .dropCnt _ _ rfl, State.setFrame_rdw, (hrid _).rdw .dropCnt _ _ rfl]
    rfl
  · rw [State.setFrame_rdw, (hrid _).rdw .dropCnt _ _ rfl]
    rfl

/-- A discard is counted under its own code alone (R286). -/
theorem State.killFrame_others {code k : Nat} (h : 0x0501 ≤ code ∧ code ≤ 0x0512) (hk : k < 2) (hne : k ≠ code - 0x0501) :
    (s.killFrame t fid code).rdw .dropCnt t k = s.rdw .dropCnt t k := by
  have hkey : regKey .dropCnt t k ≠ regKey .dropCnt t (code - 0x0501) := fun hh => by
    obtain ⟨-, -, hj⟩ := regKey_inj hh
    omega
  rw [State.killFrame_dropCnt]
  unfold State.discard
  rw [(State.txDrop_keeps (.rfl' (.avoid [.dropCnt]) _) code _).rdw .dropCnt t k rfl]
  unfold State.dropCount
  dsimp only
  rw [(State.perf_keeps (.rfl' (.avoid [.dropCnt]) _) t 5 _ _ _ 1).rdw .dropCnt t k rfl, if_pos h]
  exact rdw_wrw_key _ _ hkey

end

/-! ## The verdict (R44, R272) -/

section
variable {fid : Nat}

/-- A whole frame that is still good, by its length and its FCS. -/
theorem State.rxVerdict_drops (good : Bool) (hdead : (s.frame t fid).dead = none) (hbad : (s.frame t fid).bad = false)
    (hct : (s.frame t fid).ct = false) : (s.rxVerdict t fid good).books t = s.books t ∧
    (s.maxFrame (s.frame t fid).m.iport < (s.frame t fid).rxLen → (s.rxVerdict t fid good).rdw .dropCnt t 1 = s.rdw .dropCnt t 1 + 1#64 ∧
      (s.rxVerdict t fid good).rdw .dropCnt t 0 = s.rdw .dropCnt t 0) ∧
    ((s.frame t fid).rxLen ≤ s.maxFrame (s.frame t fid).m.iport → (good = false ∨ (s.frame t fid).rxLen < 64) →
      (s.rxVerdict t fid good).rdw .dropCnt t 0 = s.rdw .dropCnt t 0 + 1#64 ∧ (s.rxVerdict t fid good).rdw .dropCnt t 1 = s.rdw .dropCnt t 1) ∧
    ((s.frame t fid).rxLen ≤ s.maxFrame (s.frame t fid).m.iport → good = true → 64 ≤ (s.frame t fid).rxLen →
      (s.rxVerdict t fid good).rdw .dropCnt t 0 = s.rdw .dropCnt t 0 ∧ (s.rxVerdict t fid good).rdw .dropCnt t 1 = s.rdw .dropCnt t 1) := by
  obtain ⟨ok, hok⟩ : ∃ ok, ok = (good && decide (64 ≤ (s.frame t fid).rxLen)) := ⟨_, rfl⟩
  obtain ⟨a, ha⟩ : ∃ a, a = s.setFrame t fid { s.frame t fid with done := true, good := ok } := ⟨_, rfl⟩
  obtain ⟨b, hb⟩ : ∃ b, b = if ok then ((a.perf t 1 (some (s.slotOf (s.frame t fid).m.iport)) none none 1).perf t 2
    (some (s.slotOf (s.frame t fid).m.iport)) none none (s.frame t fid).rxLen) else a := ⟨_, rfl⟩
  have heq : s.rxVerdict t fid good = if s.maxFrame (s.frame t fid).m.iport < (s.frame t fid).rxLen then b.killFrame t fid 0x0502
      else if ok = false then b.killFrame t fid 0x0501
      else if (s.frame t fid).linked = true ∧ (s.frame t fid).m.mc = false ∧ s.maxFrame (s.frame t fid).m.eport < (s.frame t fid).data.length then
        b.killFrame t fid 0x050C
      else b := by
    rw [hb, ha, hok]
    unfold State.rxVerdict
    dsimp only
    rw [if_neg (by rw [hdead, hbad]; decide), if_neg (by rw [hct]; decide)]
  have hcnt (k : Nat) : b.rdw .dropCnt t k = s.rdw .dropCnt t k := by
    rw [hb]
    split
    · rw [(State.perf_keeps (State.perf_keeps (.rfl' (.avoid [.dropCnt]) a) _ _ _ _ _ _) _ _ _ _ _ _).rdw .dropCnt _ _ rfl, ha, State.setFrame_rdw]
    · rw [ha, State.setFrame_rdw]
  have hbooks : b.books t = s.books t := by
    have hab : a.books t = s.books t := by rw [ha, State.setFrame_books]
    rw [hb]
    split
    · exact (State.books_of_tiles (State.tiles_of_tm ((State.perf_keeps (State.perf_keeps (.rfl' .butTm a) _ _ _ _ _ _) _ _ _ _ _ _).tm rfl)) t).trans hab
    · exact hab
  rw [heq]
  refine ⟨?_, fun hlong => ?_, fun hshort hv => ?_, fun hshort hg h64 => ?_⟩
  · split
    · exact (b.killFrame_books _ t).trans hbooks
    · split
      · exact (b.killFrame_books _ t).trans hbooks
      · split
        · exact (b.killFrame_books _ t).trans hbooks
        · exact hbooks
  · rw [if_pos hlong]
    exact ⟨(State.killFrame_counts (code := 0x0502) (by decide)).trans (congrArg (· + 1#64) (hcnt 1)),
      (b.killFrame_others (by decide) (by decide) (by decide)).trans (hcnt 0)⟩
  · have hno : ok = false := by
      rw [hok]
      obtain h | h := hv
      · rw [h]
        rfl
      · rw [Bool.and_eq_false_iff]
        exact Or.inr (decide_eq_false (by omega))
    rw [if_neg (by omega), if_pos hno]
    exact ⟨(State.killFrame_counts (code := 0x0501) (by decide)).trans (congrArg (· + 1#64) (hcnt 0)),
      (b.killFrame_others (by decide) (by decide) (by decide)).trans (hcnt 1)⟩
  · have hyes : ok = true := by
      rw [hok, hg]
      exact decide_eq_true h64
    rw [if_neg (by omega), if_neg (by rw [hyes]; decide)]
    split
    · rw [b.killFrame_others (by decide) (by decide) (by decide), b.killFrame_others (by decide) (by decide) (by decide)]
      exact ⟨hcnt 0, hcnt 1⟩
    · exact ⟨hcnt 0, hcnt 1⟩

/-- What waited for a frame's last beat leaves the discards and what the ports receive. -/
theorem State.frameWhole_rest (s : State) (t fid : Nat) (good : Bool) : (s.frameWhole t fid good).books t = (s.rxVerdict t fid good).books t ∧
    ∀ k, (s.frameWhole t fid good).rdw .dropCnt t k = (s.rxVerdict t fid good).rdw .dropCnt t k := by
  obtain ⟨a, ha⟩ : ∃ a, a = s.rxVerdict t fid good := ⟨_, rfl⟩
  have hlast : (a.lastBeatFor t fid).books t = a.books t := by
    unfold State.lastBeatFor
    split
    · split
      · exact (State.books_of_tiles (State.tiles_of_tm ((State.classifyEnd_keeps (.rfl' .butTm _) _ _ _ _ _ _).tm rfl)) t).trans
          (a.setFrame_books t fid _ t)
      · rfl
    · rfl
  have hdef (u : State) : (u.deferred t fid).books t = u.books t :=
    State.books_of_tiles (State.tiles_of_tm ((State.deferred_keeps (.rfl' .butTm u) t fid).tm rfl)) t
  have hflow (u : State) (fl : Option (Nat × Nat)) (n : Nat) : (u.flowBytes t fl n).books t = u.books t :=
    State.books_of_tiles (State.tiles_of_tm ((State.flowBytes_keeps (.rfl' .butTm u) t fl n).tm rfl)) t
  have hcnt : Keeps (.avoid [.dropCnt]) a ((a.lastBeatFor t fid).deferred t fid) := State.deferred_keeps (State.lastBeatFor_keeps (.rfl' _ a) t fid) t fid
  unfold State.frameWhole
  dsimp only
  rw [← ha]
  split
  · exact ⟨(hflow _ _ _).trans ((hdef _).trans hlast), fun k => (State.flowBytes_keeps hcnt _ _ _).rdw .dropCnt t k rfl⟩
  · exact ⟨(hdef _).trans hlast, fun k => hcnt.rdw .dropCnt t k rfl⟩

end

end

/-! ## The last beat (R130, R272) -/

section
variable {s : State} {p fid : Nat} {bs : List Byte} {fec : List FecUnit}

/-- A port whose FEC has decoded what carried a frame. -/
def State.fecTaken (s : State) (p : Nat) (fec : List FecUnit) : State := (s.fecReceive p fec).frameIn p

theorem State.fecTaken_kept (s : State) (p : Nat) (fec : List FecUnit) : (s.fecTaken p fec).r32 = s.r32 ∧ (s.fecTaken p fec).tm = s.tm ∧
    ∀ i j, (s.fecTaken p fec).rdw .dropCnt i j = s.rdw .dropCnt i j := by
  refine ⟨?_, ?_, ?_⟩
  · exact (State.frameIn_keeps (State.fecReceive_keeps (.rfl' { Touch.all with r32 := false } s) p fec) p).r32 rfl
  · exact (State.frameIn_keeps (State.fecReceive_keeps (.rfl' .butTm s) p fec) p).tm rfl
  · exact fun i j => (State.frameIn_keeps (State.fecReceive_keeps (.rfl' (.avoid [.dropCnt]) s) p fec) p).rdw .dropCnt i j rfl

/-- The tile with a frame's last bytes in, and the port free for the next. -/
def State.lastIn (s : State) (p fid : Nat) (bs : List Byte) : State :=
  (s.setFrame (s.tileOf p) fid ((s.frame (s.tileOf p) fid).longer bs)).setRx (s.tileOf p) p 0

theorem State.lastBeat_fits (good : Bool) (hup : s.isUp p = true) (hon : s.tileOn (s.tileOf p) = true) (hrx : s.rxFid (s.tileOf p) p = some fid)
    (hctl : (s.rxCtl p).isEmpty = true) (hdead : (s.frame (s.tileOf p) fid).dead = none) (hbad : (s.frame (s.tileOf p) fid).bad = false)
    (hfit : (s.frame (s.tileOf p) fid).data.length + bs.length ≤ 256 * (s.frame (s.tileOf p) fid).cells.length) :
    s.lastBeat p bs good = (s.lastIn p fid bs).frameWhole (s.tileOf p) fid good := by
  have hbeat : s.rxBeat p bs = s.setFrame (s.tileOf p) fid ((s.frame (s.tileOf p) fid).longer bs) := by
    unfold State.rxBeat
    dsimp only
    rw [if_neg (by rw [hup, hon]; decide), hrx]
    exact State.rxBytes_fits hdead hbad hfit
  have hrx' : (s.setFrame (s.tileOf p) fid ((s.frame (s.tileOf p) fid).longer bs)).rxFid (s.tileOf p) p = some fid :=
    (State.rxFid_of_books (State.setFrame_books _ _ _ _ _) p).trans hrx
  unfold State.lastBeat
  dsimp only
  rw [if_neg (by rw [hup, hon]; decide), if_neg (by rw [hctl]; decide), if_neg (by rw [hrx]; simp), hbeat, hrx']
  rfl

theorem State.setRx_cargo (s : State) (t p n t' : Nat) : (s.setRx t p n).cargo t' = s.cargo t' := s.cargo_setBuf t' rfl rfl

theorem State.lastIn_spec (s : State) (p fid : Nat) (bs : List Byte) : (s.lastIn p fid bs).rxFid (s.tileOf p) p = none ∧
    (s.lastIn p fid bs).frame (s.tileOf p) fid = (s.frame (s.tileOf p) fid).longer bs ∧ (s.lastIn p fid bs).r64 = s.r64 ∧
    (s.lastIn p fid bs).maxFrame = s.maxFrame := by
  obtain ⟨a, ha⟩ : ∃ a, a = s.setFrame (s.tileOf p) fid ((s.frame (s.tileOf p) fid).longer bs) := ⟨_, rfl⟩
  have heq : s.lastIn p fid bs = a.setRx (s.tileOf p) p 0 := by rw [ha]; rfl
  refine ⟨?_, ?_, rfl, rfl⟩
  · rw [heq]
    unfold State.setRx State.rxFid
    rw [State.setBuf_buf]
    dsimp only
    rw [tget_tset_same]
  · rw [heq, ← State.setFrame_frame s (s.tileOf p) fid ((s.frame (s.tileOf p) fid).longer bs), ← ha]
    exact State.frame_of_cargo (a.setRx_cargo _ p 0 _) fid

end

theorem execLastBeatArrival_up {s : State} {p : Nat} {bs : List Byte} (good : Bool) (fec : List FecUnit) (hup : s.isUp p = true) (hlen : bs.length ≤ 64) :
    execLastBeatArrival p bs good fec s = .next ((s.fecTaken p fec).lastBeat p bs (good && s.fecGood p fec)) := by
  unfold execLastBeatArrival
  rw [if_pos hup, List.take_of_length_le hlen]
  rfl

/-- The last beat of a frame that is still good (R44, R272). -/
theorem lastBeatArrival_verdict {s : State} {p fid : Nat} {bs : List Byte} (good : Bool) (fec : List FecUnit) (hup : s.isUp p = true)
    (hon : s.tileOn (s.tileOf p) = true) (hrx : s.rxFid (s.tileOf p) p = some fid) (hctl : (s.rxCtl p).isEmpty = true) (hlen : bs.length ≤ 64)
    (hdead : (s.frame (s.tileOf p) fid).dead = none) (hbad : (s.frame (s.tileOf p) fid).bad = false) (hct : (s.frame (s.tileOf p) fid).ct = false)
    (hfit : (s.frame (s.tileOf p) fid).data.length + bs.length ≤ 256 * (s.frame (s.tileOf p) fid).cells.length) :
    ∃ u w : State, execLastBeatArrival p bs good fec s = .next u ∧ u.rxFid (s.tileOf p) p = none ∧ w.frame (s.tileOf p) fid = (s.frame (s.tileOf p) fid).longer bs ∧
      w.maxFrame = s.maxFrame ∧ (∀ k, w.rdw .dropCnt (s.tileOf p) k = s.rdw .dropCnt (s.tileOf p) k) ∧
      ∀ k, u.rdw .dropCnt (s.tileOf p) k = (w.rxVerdict (s.tileOf p) fid (good && s.fecGood p fec)).rdw .dropCnt (s.tileOf p) k := by
  obtain ⟨a, ha⟩ : ∃ a, a = s.fecTaken p fec := ⟨_, rfl⟩
  obtain ⟨hr32, htm, hcnt⟩ := s.fecTaken_kept p fec
  rw [← ha] at hr32 htm hcnt
  have htile : a.tileOf p = s.tileOf p := by
    unfold State.tileOf
    rw [flag_of_rd F.dawnStatus_HORIZON (rd_of_r32 hr32 _ _ _)]
  have hup' : a.isUp p = true := by
    rw [← hup]
    unfold State.isUp
    rw [fget_of_rd F.portStatus_STATE (rd_of_r32 hr32 _ _ _)]
  have hon' : a.tileOn (a.tileOf p) = true := by
    rw [htile, ← hon]
    unfold State.tileOn
    rw [flag_of_rd F.dawnStatus_HORIZON (rd_of_r32 hr32 _ _ _), flag_of_rd F.spareTile_TILE_RETIRED (rd_of_r32 hr32 _ _ _),
      flag_of_rd F.spareTile_UNUSABLE (rd_of_r32 hr32 _ _ _)]
  have hbuf (t : Nat) : a.buf t = s.buf t := State.buf_of_tiles (State.tiles_of_tm htm) t
  have hframe : a.frame (s.tileOf p) fid = s.frame (s.tileOf p) fid := State.frame_of_tiles (State.tiles_of_tm htm) _ _
  have hrx' : a.rxFid (a.tileOf p) p = some fid := by
    rw [htile, State.rxFid, hbuf, ← State.rxFid, hrx]
  have hctl' : (a.rxCtl p).isEmpty = true := by
    rw [State.rxCtl, htile, hbuf, ← State.rxCtl, hctl]
  have hmax : a.maxFrame = s.maxFrame := by
    funext q
    unfold State.maxFrame State.hz
    rw [flag_of_rd F.dawnStatus_HORIZON (rd_of_r32 hr32 _ _ _), fget_of_rd F.maxFrame_BYTES (rd_of_r32 hr32 _ _ _)]
  obtain ⟨h1, h2, h3, h4⟩ := a.lastIn_spec p fid bs
  have hbeat := a.lastBeat_fits (bs := bs) (good && s.fecGood p fec) hup' hon' hrx' hctl' (by rw [htile, hframe]; exact hdead)
    (by rw [htile, hframe]; exact hbad) (by rw [htile, hframe]; exact hfit)
  obtain ⟨hbooks, hdrops⟩ := (a.lastIn p fid bs).frameWhole_rest (a.tileOf p) fid (good && s.fecGood p fec)
  rw [htile] at h1 h2 hbeat hbooks hdrops
  rw [hframe] at h2
  obtain ⟨hv, -⟩ := State.rxVerdict_drops (s := a.lastIn p fid bs) (t := s.tileOf p) (fid := fid) (good && s.fecGood p fec) (by rw [h2]; exact hdead)
    (by rw [h2]; exact hbad) (by rw [h2]; exact hct)
  refine ⟨_, a.lastIn p fid bs, (execLastBeatArrival_up good fec hup hlen).trans (by rw [← ha, hbeat]), ?_, h2, h4.trans hmax, fun k => ?_, hdrops⟩
  · rw [State.rxFid_of_books (hbooks.trans hv), h1]
  · rw [State.rdw, h3, ← State.rdw, hcnt]

section
variable {s : State} {p : Nat} {bs : List Byte}

theorem State.setRxCtl_rxCtl (s : State) (p : Nat) (bs : List Byte) : (s.setRxCtl p bs).rxCtl p = bs := by
  unfold State.rxCtl
  rw [show (s.setRxCtl p bs).tileOf p = s.tileOf p from rfl]
  unfold State.setRxCtl
  dsimp only
  rw [State.setBuf_buf]
  exact tget_tset_same _ _ _ _

theorem State.setRxCtl_rxFid (s : State) (p : Nat) (bs : List Byte) (t q : Nat) : (s.setRxCtl p bs).rxFid t q = s.rxFid t q :=
  State.rxFid_of_books (u := s.setRxCtl p bs) (by
    unfold State.setRxCtl
    exact s.books_setBuf (s.tileOf p) t rfl rfl) q

/-- The start of a frame writes no register. -/
theorem State.rxStart_regs (s : State) (p : Nat) (bs : List Byte) : (s.rxStart p bs).r32 = s.r32 ∧ (s.rxStart p bs).r64 = s.r64 := ⟨rfl, rfl⟩

theorem State.sharedFree_of_r32 {s u : State} (h : u.r32 = s.r32) (t : Nat) : u.sharedFree t = s.sharedFree t := by
  unfold State.sharedFree State.losslessPgs State.tilePorts State.lossless State.losslessMask State.pauseMode State.pgHeadroom State.widthOf State.hdrmUsed
    State.freeCells State.hz State.flag State.fget State.rd
  rw [h]

theorem State.pgLimit_of_r32 {s u : State} (h : u.r32 = s.r32) (p i : Nat) : u.pgLimit p i = s.pgLimit p i := by
  unfold State.pgLimit State.hz State.flag State.fget State.rd
  rw [h]

theorem State.lossless_of_r32 {s u : State} (h : u.r32 = s.r32) (p i : Nat) : u.lossless p i = s.lossless p i := by
  unfold State.lossless State.losslessMask State.pauseMode State.hz State.flag State.fget State.rd
  rw [h]

theorem State.sharedUsed_of_r32 {s u : State} (h : u.r32 = s.r32) (p i : Nat) : u.sharedUsed p i = s.sharedUsed p i := by
  unfold State.sharedUsed State.fget State.rd
  rw [h]

/-- The first bytes of a frame, by what the cell buffer answers. -/
theorem rxBytes_first {a : State} {t fid : Nat} (hf : a.frame t fid = s.firstFrame p bs) (hne : bs ≠ []) :
    (∀ c u, a.admitCell t p (s.ipriOf p bs) = (.ok c, u) → u.books t = a.books t → (a.rxBytes t fid bs).books t = a.books t ∧
      ((a.rxBytes t fid bs).frame t fid).data = bs ∧ ((a.rxBytes t fid bs).frame t fid).m.iport = p ∧
      ((a.rxBytes t fid bs).frame t fid).cells.length = 1 ∧ OnlyRegs [.pgStatus3] u (a.rxBytes t fid bs)) ∧
    ∀ code, a.admitCell t p (s.ipriOf p bs) = (.error code, a) → 0x0501 ≤ code ∧ code ≤ 0x0512 →
      (a.rxBytes t fid bs).rdw .dropCnt t (code - 0x0501) = a.rdw .dropCnt t (code - 0x0501) + 1#64 ∧ (a.rxBytes t fid bs).freeCells t = a.freeCells t := by
  have hfull : 256 * (a.frame t fid).cells.length < (a.frame t fid).data.length + bs.length := by
    rw [hf]
    exact Nat.lt_add_left _ (List.length_pos_iff.2 hne)
  refine ⟨fun c u hadmit hbooks => ?_, fun code hadmit hcode => ?_⟩
  · obtain ⟨b, hb⟩ : ∃ b, b = u.setFrame t fid { (a.frame t fid).longer bs with cells := (a.frame t fid).cells ++ [c] } := ⟨_, rfl⟩
    have heq : a.rxBytes t fid bs = b.pgScan t := by
      rw [hb]
      exact State.rxBytes_cell (by rw [hf]; rfl) (by rw [hf]; rfl) (by rw [hf]; rfl) hfull (by rw [hf]; rfl) (by rw [hf]; exact hadmit)
    have hregs : OnlyRegs [.pgStatus3] b (b.pgScan t) := b.pgScan_onlyRegs t
    have hub : OnlyRegs [.pgStatus3] u b := by
      rw [hb]
      exact OnlyRegs.refl _ _
    rw [heq]
    refine ⟨?_, ?_, ?_, ?_, hub.trans hregs⟩
    · rw [State.books_of_tiles (b.pgScan_tiles t), hb, State.setFrame_books, hbooks]
    all_goals
      rw [State.frame_of_tiles (b.pgScan_tiles t), hb, State.setFrame_frame, hf]
      rfl
  · have heq : a.rxBytes t fid bs = (a.setFrame t fid { a.frame t fid with rxLen := (a.frame t fid).rxLen + bs.length }).killFrame t fid code :=
      State.rxBytes_refused (by rw [hf]; rfl) (by rw [hf]; rfl) (by rw [hf]; rfl) hfull (by rw [hf]; exact hadmit)
    rw [heq]
    refine ⟨State.killFrame_counts hcode, State.killFrame_freeCells code ?_⟩
    rw [State.setFrame_frame, hf]
    rfl

end

/-- Settles O31: a first cell by R258's rule for lossy PGs, the verdict's three ends, and the reserved total under every write. -/
theorem cellsAndVerdicts : Obligations.CellsAndVerdicts := by
  intro s p
  refine ⟨fun bs hup hon hrx hctl hp hcell hne hlen hll => ?_, fun bs hup => ⟨?_, fun g l => ?_⟩,
    fun bs hup hon hrx hctl hen hp hlen => ?_, fun fid bs good fec hup hon hrx hctl hlen hdead hbad hct hiport hfit => ?_,
    fun hoff => ⟨fun i w v => ?_, fun v => ?_⟩, fun i w v hon => ?_, fun v hon => ?_⟩
  · obtain ⟨a, ha⟩ : ∃ a, a = s.rxStart p bs := ⟨_, rfl⟩
    obtain ⟨fid, hfid⟩ : ∃ fid, fid = (s.buf (s.tileOf p)).nextFid := ⟨_, rfl⟩
    have hexec : exec (.beatArrival p bs) s = .next (a.rxBytes (s.tileOf p) fid bs) := by
      rw [ha, hfid, ← State.rxBeat_first hup hon hrx hctl hp]
      exact congrArg (fun l => Host.Outcome.next (s.rxBeat p l)) (List.take_of_length_le hlen)
    have hframe : a.frame (s.tileOf p) fid = s.firstFrame p bs := by rw [ha, hfid, State.rxStart_frame]
    have hr32 : a.r32 = s.r32 := by rw [ha, (s.rxStart_regs p bs).1]
    have hr64 : a.r64 = s.r64 := by rw [ha, (s.rxStart_regs p bs).2]
    have hlossy : a.lossless p (s.ipriOf p bs) = false := (State.lossless_of_r32 hr32 _ _).trans hll
    have hhand : CellAtHand a (s.tileOf p) := by
      rw [ha]
      exact State.rxStart_hand p bs hcell
    have hfree' := State.sharedFree_of_r32 hr32 (s.tileOf p)
    have hlim' := State.pgLimit_of_r32 hr32 p (s.ipriOf p bs)
    have hused' := State.sharedUsed_of_r32 hr32 p (s.ipriOf p bs)
    have hcells' : a.freeCells (s.tileOf p) = s.freeCells (s.tileOf p) := fget_of_rd F.bpmStatus_FREE_CELLS (rd_of_r32 hr32 _ _ _)
    have hdrop (k : Nat) : a.rdw .dropCnt (s.tileOf p) k = s.rdw .dropCnt (s.tileOf p) k := by rw [State.rdw, hr64, ← State.rdw]
    obtain ⟨hok, herr⟩ := rxBytes_first hframe hne
    refine ⟨fun hfree hlim => ?_, fun hfree hlim => ?_, fun hfree => ?_⟩
    · obtain ⟨c, u, hadmit, -, hbooks, hu, hf⟩ := State.admitCell_room hlossy hhand (by rw [hfree']; exact hfree) (by rw [hused', hlim']; exact hlim)
      obtain ⟨h1, h2, h3, h4, h5⟩ := hok c u hadmit hbooks
      refine ⟨_, fid, hexec, (State.rxFid_of_books h1 p).trans ?_, h2, h3, h4, ?_, ?_⟩
      · rw [ha, hfid, State.rxStart_rxFid]
      · exact (fget_of_rd F.pgStatus0_SHARED_USED (h5 _ _ _ (by decide))).trans (hu.trans (by rw [hused']))
      · rw [← hcells', ← hf]
        exact congrArg (· + 1) (fget_of_rd F.bpmStatus_FREE_CELLS (h5 _ _ _ (by decide)))
    · obtain ⟨h1, h2⟩ := herr 0x0504 (by
        rw [State.admitCell_lossy hlossy, hfree', hused', hlim', if_neg (Nat.ne_of_gt hfree), if_neg (Nat.not_lt.2 hlim)]) (by decide)
      exact ⟨_, hexec, h1.trans (by rw [hdrop]), h2.trans hcells'⟩
    · obtain ⟨h1, h2⟩ := herr 0x0505 (by rw [State.admitCell_lossy hlossy, hfree', if_pos hfree]) (by decide)
      exact ⟨_, hexec, h1.trans (by rw [hdrop]), h2.trans hcells'⟩
  · exact congrArg Host.Outcome.next (if_pos (Or.inl hup))
  · exact congrArg Host.Outcome.next (if_neg (by rw [hup]; decide))
  · refine ⟨s.setRxCtl p bs, ?_, ?_, ?_, OnlyRegs.refl _ _, OnlyWide.refl _ _⟩
    · rw [← State.rxBeat_pause hup hon hrx hctl hen hp]
      exact congrArg (fun l => Host.Outcome.next (s.rxBeat p l)) (List.take_of_length_le hlen)
    · exact s.setRxCtl_rxCtl p bs
    · exact (s.setRxCtl_rxFid p bs _ _).trans hrx
  · obtain ⟨u, w, hexec, hnone, hframe, hmax, hcnt, hdrops⟩ := lastBeatArrival_verdict good fec hup hon hrx hctl hlen hdead hbad hct hfit
    obtain ⟨-, hlong, hbadv, hgood⟩ := State.rxVerdict_drops (s := w) (t := s.tileOf p) (fid := fid) (good && s.fecGood p fec)
      (by rw [hframe]; exact hdead) (by rw [hframe]; exact hbad) (by rw [hframe]; exact hct)
    rw [hframe, hmax, ← hdrops 0, ← hdrops 1, hcnt 0, hcnt 1] at hlong hbadv hgood
    rw [show ((s.frame (s.tileOf p) fid).longer bs).m.iport = p from hiport] at hlong hbadv hgood
    refine ⟨fun hn => ⟨u, hexec, hnone, hlong hn⟩, fun hn hv => ⟨u, hexec, hnone, hbadv hn ?_⟩,
      fun hn hg hf h64 => ⟨u, hexec, hnone, hgood hn (by rw [hg, hf]; rfl) h64⟩⟩
    obtain h | h | h := hv
    · exact Or.inl (by rw [h]; rfl)
    · exact Or.inl (by rw [h, Bool.and_false])
    · exact Or.inr h
  · exact congrArg Host.Outcome.next (if_neg (by rw [hoff]; decide))
  · exact congrArg Host.Outcome.next (if_neg (by rw [hoff]; decide))
  · exact ⟨_, congrArg Host.Outcome.next (if_pos hon), s.pgCfgWrite_spec p i w v⟩
  · exact ⟨_, congrArg Host.Outcome.next (if_pos hon), s.pfcCfgWrite_spec p v⟩

end Sys2Proof.Machine
end

section
/-!
PROOF. Gates and shapers (R313, R317, R318, R319, R324).
-/

set_option Elab.async false
set_option exponentiation.threshold 4096
set_option maxRecDepth 20000

namespace Sys2Proof.Machine

/-! ## Gates (R317 to R319, R324) -/

section
variable {s : State} {p : Nat}

theorem State.gateEn_of (hz : s.hz = false) : s.gateEn p = s.flag F.gateCfg_GATE_EN p := by
  unfold State.gateEn
  rw [hz]
  simp

theorem State.gateList_entry (s : State) (p b : Nat) : (s.gateList p b).length ≤ 256 ∧ ∀ e ∈ s.gateList p b, e.1 < 256 := by
  unfold State.gateList
  refine ⟨?_, fun e he => ?_⟩
  · rw [List.length_map]
    exact ((List.takeWhile_sublist _).length_le).trans (by simp)
  · obtain ⟨w, -, rfl⟩ := List.mem_map.1 he
    exact Nat.mod_lt _ (by decide)

theorem nth_mem {α : Type} {l : List α} {k : Nat} (d : α) (h : k < l.length) : nth l k d ∈ l := by
  unfold nth
  rw [List.getD_eq_getElem _ _ h]
  exact List.getElem_mem h

/-- The next entry in force. -/
def State.entryTaken (s : State) (p k : Nat) : State := (s.fset F.gateStatus_CUR_ENTRY k p).fset F.gateStatus_GATES (nth (s.operList p) k (0, 0)).1 p

theorem State.entryTaken_tm (s : State) (p k : Nat) : (s.entryTaken p k).tm = s.tm :=
  (State.fset_tm _ _ _ _ _).trans (State.fset_tm _ _ _ _ _)

theorem State.entryTaken_spec (s : State) (p : Nat) {k : Nat} (hk : k < (s.operList p).length) :
    (s.entryTaken p k).fget F.gateStatus_CUR_ENTRY p = k ∧ (s.entryTaken p k).fget F.gateStatus_GATES p = (nth (s.operList p) k (0, 0)).1 ∧
    OnlyRegs [.gateStatus] s (s.entryTaken p k) := by
  obtain ⟨hlen, hgates⟩ := s.gateList_entry p (s.fget F.gateStatus_OPER p)
  have hk' : k < 256 := Nat.lt_of_lt_of_le hk hlen
  have hg : (nth (s.operList p) k (0, 0)).1 < 256 := hgates _ (nth_mem _ hk)
  unfold State.entryTaken
  refine ⟨?_, ?_, ((OnlyRegs.refl _ s).fset _ _ _ (by decide)).fset _ _ _ (by decide)⟩
  · rw [fget_fset_off _ _ _ _ _ _ (by decide) (by decide) fun _ => by decide]
    exact (fget_fset_same _ _ _ _ _ (by decide) (by decide)).trans (Nat.mod_eq_of_lt hk')
  · exact (fget_fset_same _ _ _ _ _ (by decide) (by decide)).trans (Nat.mod_eq_of_lt hg)

theorem State.headChecked_kept (s : State) (p c v : Nat) : Keeps (.avoid [.gateStatus]) s ((s.post c v).headChecks p) :=
  State.headChecks_keeps (State.post_keeps (.rfl' _ s) c v) p

theorem State.gateSwap_spec (s : State) (p : Nat) : (s.gateSwap p).flag F.gateStatus_PENDING p = false ∧
    (s.gateSwap p).fget F.gateStatus_OPER p = 1 - s.fget F.gateStatus_OPER p := by
  obtain ⟨b, hb⟩ : ∃ b, b = 1 - s.fget F.gateStatus_OPER p := ⟨_, rfl⟩
  obtain ⟨a, ha⟩ : ∃ a, a = (s.fset F.gateStatus_OPER b p).fset F.gateStatus_PENDING 0 p := ⟨_, rfl⟩
  have heq : s.gateSwap p = (a.post 0x0401 (p + b * 65536)).headChecks p := by rw [ha, hb]; rfl
  have hk : Keeps (.avoid [.gateStatus]) a (s.gateSwap p) := by
    rw [heq]
    exact a.headChecked_kept _ _ _
  rw [flag_of_rd F.gateStatus_PENDING (hk.rd _ _ _ rfl), hk.fget F.gateStatus_OPER p 0 rfl, ← hb, ha]
  refine ⟨flag_fset_none _ _ _ _ rfl (by decide), ?_⟩
  rw [fget_fset_off _ _ _ _ _ _ (by decide) (by decide) fun _ => by decide]
  exact (fget_fset_same _ _ _ _ _ (by decide) (by decide)).trans (Nat.mod_eq_of_lt (show b < 2 by omega))

/-- A change of GATE_EN opens every gate (R318, R324). -/
theorem State.gateEnable_change (s : State) (p : Nat) (on : Bool) (h : s.flag F.gateCfg_GATE_EN p ≠ on) :
    (s.gateEnable p on).flag F.gateCfg_GATE_EN p = on ∧ (s.gateEnable p on).flag F.gateStatus_STARTED p = false ∧
    (s.gateEnable p on).fget F.gateStatus_GATES p = 0xFF ∧ OnlyRegs [.gateCfg, .gateStatus] s (s.gateEnable p on) := by
  obtain ⟨a, ha⟩ : ∃ a, a = s.fset F.gateCfg_GATE_EN (b2n on) p := ⟨_, rfl⟩
  have heq : s.gateEnable p on = ((a.fset F.gateStatus_GATES 0xFF p).fset F.gateStatus_STARTED 0 p).fset F.gateStatus_CUR_ENTRY 0 p := by
    rw [ha]
    exact if_neg h
  have hen : a.flag F.gateCfg_GATE_EN p = on := by
    rw [ha]
    cases on
    · exact flag_fset_none _ _ _ _ rfl (by decide)
    · exact flag_fset_one _ _ _ _ rfl (by decide)
  have hregs : OnlyRegs [.gateCfg, .gateStatus] s a := by
    rw [ha]
    exact (OnlyRegs.refl _ s).fset _ _ _ (by decide)
  rw [heq]
  refine ⟨?_, ?_, ?_, ((hregs.fset _ _ _ (by decide)).fset _ _ _ (by decide)).fset _ _ _ (by decide)⟩
  · rw [flag_of_rd F.gateCfg_GATE_EN (rd_fset_reg _ _ _ _ _ _ (by decide)), flag_of_rd F.gateCfg_GATE_EN (rd_fset_reg _ _ _ _ _ _ (by decide)),
      flag_of_rd F.gateCfg_GATE_EN (rd_fset_reg _ _ _ _ _ _ (by decide)), hen]
  · rw [flag_of_fget (fget_fset_off _ _ _ _ _ _ (by decide) (by decide) fun _ => by decide), fget_fset_same _ _ _ _ _ (by decide) (by decide)]
    rfl
  · rw [fget_fset_off _ _ _ _ _ _ (by decide) (by decide) fun _ => by decide, fget_fset_off _ _ _ _ _ _ (by decide) (by decide) fun _ => by decide,
      fget_fset_same _ _ _ _ _ (by decide) (by decide)]
    rfl

theorem State.gateOpen_all (h : s.flag F.gateCfg_GATE_EN p = false) (c : Nat) : s.gateOpen p c = true := by
  unfold State.gateOpen State.gateEn
  rw [h]
  simp

theorem State.gateOpen_gates (h : s.fget F.gateStatus_GATES p = 0xFF) (c : ClassIx) : s.gateOpen p c = true := by
  have hc : bitAt 0xFF c = true := by
    revert c
    decide
  unfold State.gateOpen
  rw [h, hc, Bool.or_true]

end

/-! ## Shapers (R313) -/

/-- The register and its column that hold a bucket's rate, and its burst. -/
def rateReg (b : Nat) : RName × Nat :=
  if b < 16 then (if b % 2 = 0 then (.qshpCir, b / 2) else (.qshpPir, b / 2)) else if b = 16 then (.pshpCir, 0) else (.pshpPir, 0)

def burstReg (b : Nat) : RName × Nat :=
  if b < 16 then (if b % 2 = 0 then (.qshpCbs, b / 2) else (.qshpPbs, b / 2)) else if b = 16 then (.pshpCbs, 0) else (.pshpPbs, 0)

theorem rateReg_inj : ∀ b c : Fin 18, rateReg b = rateReg c → b = c := by decide
theorem burstReg_inj : ∀ b c : Fin 18, burstReg b = burstReg c → b = c := by decide
theorem rateReg_ne_burstReg : ∀ b c : Fin 18, rateReg b ≠ burstReg c ∧ (rateReg b).2 < 65536 ∧ (burstReg b).2 < 65536 := by decide

section
variable (s : State) (p : Nat)

theorem State.bucketCfg_eq (b : Nat) : s.bucketCfg p b =
    (max 1 (min 3200000 (bits (s.rd (rateReg b).1 p (rateReg b).2).toNat 21 0)), bits (s.rd (burstReg b).1 p (burstReg b).2).toNat 23 0,
      bitAt (s.rd (rateReg b).1 p (rateReg b).2).toNat 31 && !s.hz) := by
  unfold State.bucketCfg rateReg burstReg
  dsimp only
  split
  · split <;> rfl
  · split <;> rfl

/-- A register that is neither a bucket's rate nor its burst. -/
theorem State.bucketCfg_wr {n : RName} {j : Nat} (v : Word) (b : Nat) (h1 : regKey (rateReg b).1 p (rateReg b).2 ≠ regKey n p j)
    (h2 : regKey (burstReg b).1 p (burstReg b).2 ≠ regKey n p j) (h3 : n ≠ .dawnStatus) : (s.wr n v p j).bucketCfg p b = s.bucketCfg p b := by
  have hz : (s.wr n v p j).hz = s.hz := flag_of_rd F.dawnStatus_HORIZON (rd_wr_reg _ _ _ _ _ _ (Ne.symm h3))
  rw [State.bucketCfg_eq, State.bucketCfg_eq, rd_wr_key _ _ h1, rd_wr_key _ _ h2, hz]

theorem State.bucketFill_same (b : Nat) : (s.bucketFill p b).bucketLevel p b = ((s.bucketCfg p b).2.1 * 2 ^ 32 : Nat) := by
  unfold State.bucketLevel State.bucketFill
  rw [State.setNp_np]
  dsimp only
  rw [tget_tset_same]
  rfl

theorem State.bucketFill_other {b b' : Nat} (h : b' ≠ b) : (s.bucketFill p b).bucketLevel p b' = s.bucketLevel p b' := by
  unfold State.bucketLevel State.bucketFill
  rw [State.setNp_np]
  dsimp only
  rw [tget_tset_ne _ _ _ _ h]
  rfl

theorem State.wr_bucketLevel {n : RName} {j b : Nat} (v : Word) (h : (s.wr n v p j).bucketCfg p b = s.bucketCfg p b) :
    (s.wr n v p j).bucketLevel p b = s.bucketLevel p b := by
  unfold State.bucketLevel
  rw [h]
  rfl

/-- The register that register `r` of shaper `k` stands for. -/
def shaperReg (k : Fin 9) (r : Fin 4) : RName × Nat := if r.val < 2 then rateReg (2 * k + r % 2) else burstReg (2 * k + r % 2)

/-- The value that a write of it leaves. -/
def shaperWord (r : Fin 4) (v : Word) : Word := if r.val < 2 then v &&& 0x803FFFFF#32 else v &&& 0xFFFFFF#32

theorem shaperReg_class : ∀ k : Fin 9, k.val < 8 → shaperReg k 0 = (.qshpCir, k.val) ∧ shaperReg k 1 = (.qshpPir, k.val) ∧
    shaperReg k 2 = (.qshpCbs, k.val) ∧ shaperReg k 3 = (.qshpPbs, k.val) := by decide

theorem State.shaperWrite_eq (k : Fin 9) (r : Fin 4) (v : Word) : s.shaperWrite p k r v =
    (s.wr (shaperReg k r).1 (shaperWord r v) p (shaperReg k r).2).bucketFill p (2 * k + r % 2) := by
  by_cases hk : k.val < 8
  · obtain ⟨h0, h1, h2, h3⟩ := shaperReg_class k hk
    unfold State.shaperWrite
    dsimp only
    rw [if_pos hk]
    match r with
    | 0 => rw [h0]; rfl
    | 1 => rw [h1]; rfl
    | 2 => rw [h2]; rfl
    | 3 => rw [h3]; rfl
  · have h8 : k = 8 := Fin.ext (by have := k.isLt; simp; omega)
    subst h8
    match r with
    | 0 | 1 | 2 | 3 => rfl

theorem shaperReg_spec : ∀ (k : Fin 9) (r : Fin 4), (shaperReg k r).1 ∈
    [RName.qshpCir, .qshpPir, .qshpCbs, .qshpPbs, .pshpCir, .pshpPir, .pshpCbs, .pshpPbs] ∧ ∀ b : Fin 18, b.val ≠ 2 * k + r % 2 →
      rateReg b ≠ shaperReg k r ∧ burstReg b ≠ shaperReg k r ∧ (shaperReg k r).2 < 65536 := by
  decide

end


theorem State.shaperWrite_spec (s : State) (p : Nat) (k : Fin 9) (r : Fin 4) (v : Word) :
    (s.shaperWrite p k r v).bucketLevel p (2 * k + r % 2) = (((s.shaperWrite p k r v).bucketCfg p (2 * k + r % 2)).2.1 * 2 ^ 32 : Nat) ∧
    (∀ b, b < 18 → b ≠ 2 * k.val + r.val % 2 → (s.shaperWrite p k r v).bucketLevel p b = s.bucketLevel p b) ∧
    OnlyRegs [.qshpCir, .qshpPir, .qshpCbs, .qshpPbs, .pshpCir, .pshpPir, .pshpCbs, .pshpPbs] s (s.shaperWrite p k r v) ∧
    (s.shaperWrite p k r v).rd (shaperReg k r).1 p (shaperReg k r).2 = shaperWord r v := by
  obtain ⟨hmem, hne⟩ := shaperReg_spec k r
  obtain ⟨a, ha⟩ : ∃ a, a = s.wr (shaperReg k r).1 (shaperWord r v) p (shaperReg k r).2 := ⟨_, rfl⟩
  have hregs : OnlyRegs [.qshpCir, .qshpPir, .qshpCbs, .qshpPbs, .pshpCir, .pshpPir, .pshpCbs, .pshpPbs] s a := by
    rw [ha]
    exact (OnlyRegs.refl _ s).wr _ _ _ hmem
  have hdawn : (shaperReg k r).1 ≠ .dawnStatus := fun h => by
    rw [h] at hmem
    exact absurd hmem (by decide)
  rw [State.shaperWrite_eq, ← ha]
  refine ⟨a.bucketFill_same p _, fun b hb hbne => ?_, hregs, ?_⟩
  · obtain ⟨hr, hu, hsmall⟩ := hne ⟨b, hb⟩ hbne
    obtain ⟨-, hrs, hus⟩ := rateReg_ne_burstReg ⟨b, hb⟩ ⟨b, hb⟩
    have hkey {x y : RName × Nat} (hx : x.2 < 65536) (hy : y.2 < 65536) (h : x ≠ y) : regKey x.1 p x.2 ≠ regKey y.1 p y.2 := fun hh => by
      obtain ⟨h1, -, h2⟩ := regKey_inj hh
      exact h (Prod.ext h1 (by omega))
    rw [a.bucketFill_other p hbne, ha]
    exact s.wr_bucketLevel p _ (s.bucketCfg_wr p _ b (hkey hrs hsmall hr) (hkey hus hsmall hu) hdawn)
  · rw [ha]
    exact rd_wr_same _ _ _ _ _

/-- Settles O32: gates by their status fields, shapers by the registers that hold each bucket's rate and burst. -/
theorem gatesAndShapers : Obligations.GatesAndShapers := by
  intro s p
  refine ⟨fun hz hen hst => ⟨fun hk ht => ?_, fun hk => ?_⟩, fun hoff => ⟨?_, ?_, ?_, fun k r v => ?_⟩, fun hon hz hen => ?_, fun hon hen => ?_,
    fun hon => ?_, fun hon => ?_, fun k r v hon => ?_⟩
  · obtain ⟨h1, h2, h3⟩ := s.entryTaken_spec p hk
    exact ⟨s.entryTaken p _, congrArg Host.Outcome.next (if_pos ⟨(State.gateEn_of hz).trans hen, hst, hk, ht⟩), h1, h2, h3, s.entryTaken_tm p _⟩
  · exact congrArg Host.Outcome.next (if_neg fun h => Nat.not_lt.2 hk h.2.2.1)
  · exact congrArg Host.Outcome.next (if_neg (by rw [hoff]; decide))
  · exact congrArg Host.Outcome.next (if_neg (by rw [hoff]; decide))
  · exact congrArg Host.Outcome.next (if_neg (by rw [hoff]; decide))
  · exact congrArg Host.Outcome.next (if_neg (by rw [hoff]; decide))
  · refine ⟨s.fset F.gateStatus_PENDING 1 p, congrArg Host.Outcome.next ((if_pos hon).trans (if_pos ((State.gateEn_of hz).trans hen))),
      flag_fset_one _ _ _ _ rfl (by decide), fget_fset_off _ _ _ _ _ _ (by decide) (by decide) fun _ => by decide,
      (OnlyRegs.refl _ s).fset _ _ _ (by decide), rfl⟩
  · have hno : ¬s.gateEn p = true := by
      unfold State.gateEn
      rw [hen]
      simp
    exact ⟨_, congrArg Host.Outcome.next ((if_pos hon).trans (if_neg hno)), s.gateSwap_spec p⟩
  · by_cases h : s.flag F.gateCfg_GATE_EN p = false
    · exact ⟨s, congrArg Host.Outcome.next ((if_pos hon).trans (if_pos h)), h, State.gateOpen_all h, OnlyRegs.refl _ _⟩
    · obtain ⟨h1, -, -, h4⟩ := s.gateEnable_change p false h
      exact ⟨_, congrArg Host.Outcome.next (if_pos hon), h1, State.gateOpen_all h1, h4⟩
  · by_cases h : s.flag F.gateCfg_GATE_EN p = true
    · exact ⟨s, congrArg Host.Outcome.next ((if_pos hon).trans (if_pos h)), h, OnlyRegs.refl _ _, fun hf => Bool.noConfusion (hf.symm.trans h)⟩
    · obtain ⟨h1, h2, h3, h4⟩ := s.gateEnable_change p true h
      exact ⟨_, congrArg Host.Outcome.next (if_pos hon), h1, h4, fun _ => ⟨h2, State.gateOpen_gates h3⟩⟩
  · obtain ⟨h1, h2, h3, h4⟩ := s.shaperWrite_spec p k r v
    refine ⟨_, congrArg Host.Outcome.next (if_pos hon), h1, h2, h3, fun hk hr => ?_, fun hk hr => ?_⟩
    · obtain rfl : r = 0 := Fin.ext hr
      rw [(shaperReg_class k hk).1] at h4
      exact h4
    · obtain rfl : r = 3 := Fin.ext hr
      obtain rfl : k = 8 := Fin.ext hk
      exact h4

end Sys2Proof.Machine
end

section
/-!
PROOF. The flow cache and its exports (R343 to R346, R366, R368).
-/

set_option Elab.async false
set_option exponentiation.threshold 4096
set_option maxRecDepth 20000

namespace Sys2Proof.Machine

theorem tget_key_lt {α : Type} {lo k : Nat} {t : Tab α} {v : α} (h : tsorted lo t = true) (hm : (k, v) ∈ t) : lo ≤ k := by
  induction t generalizing lo with
  | nil => cases hm
  | cons e r ih =>
    obtain ⟨j, w⟩ := e
    simp only [tsorted, Bool.and_eq_true, decide_eq_true_eq] at h
    rcases List.mem_cons.1 hm with he | he
    · cases he
      exact h.1
    · have := ih h.2 he
      omega

theorem tget_of_sorted {α : Type} {lo k : Nat} {t : Tab α} {v : α} (d : α) (h : tsorted lo t = true) (hm : (k, v) ∈ t) : tget t k d = v := by
  induction t generalizing lo with
  | nil => cases hm
  | cons e r ih =>
    obtain ⟨j, w⟩ := e
    simp only [tsorted, Bool.and_eq_true, decide_eq_true_eq] at h
    unfold tget
    rcases List.mem_cons.1 hm with he | he
    · cases he
      exact if_pos rfl
    · have := tget_key_lt h.2 he
      rw [if_neg (by omega)]
      exact ih h.2 he

theorem tget_of_twf {α : Type} [DecidableEq α] {d : Nat → α} {k : Nat} {t : Tab α} {v : α} (d' : α) (h : twf d t = true) (hm : (k, v) ∈ t) :
    tget t k d' = v := by
  unfold twf at h
  rw [Bool.and_eq_true] at h
  exact tget_of_sorted d' h.1 hm

theorem mem_of_tget_ne {α : Type} {t : Tab α} {k : Nat} {d : α} (h : tget t k d ≠ d) : (k, tget t k d) ∈ t := by
  induction t with
  | nil => exact absurd rfl h
  | cons e r ih =>
    obtain ⟨j, w⟩ := e
    unfold tget at h ⊢
    split
    case isTrue hj => rw [hj]; exact List.mem_cons_self
    case isFalse hj =>
      rw [if_neg hj] at h
      exact List.mem_cons_of_mem _ (ih h)

/-! ## Reading the flow cache -/

section
variable (s : State) (t k : Nat)

theorem State.ht_setHt (t' : Nat) (v : HaloTile) : (s.setHt t v).ht t' = if t' = t then v else s.ht t' := by
  split
  case isTrue h => rw [h]; exact s.setHt_ht t v
  case isFalse h => exact s.setHt_ht_ne t t' v h

theorem State.flow_setHt (t' k' : Nat) (v : HaloTile) (h : v.flows = (s.ht t).flows) : (s.setHt t v).flow t' k' = s.flow t' k' := by
  unfold State.flow
  rw [s.ht_setHt]
  split
  case isTrue he => rw [h, he]
  case isFalse => rfl

theorem State.flow_setFlow (t' k' : Nat) (v : Flow) : (s.setFlow t k v).flow t' k' = if t' = t ∧ k' = k then v else s.flow t' k' := by
  unfold State.setFlow State.flow
  rw [s.ht_setHt]
  by_cases ht : t' = t
  · subst ht
    rw [if_pos rfl]
    refine (tget_tset _ _ _ _ _).trans ?_
    simp
  · rw [if_neg ht, if_neg fun h => ht h.1]

@[simp] theorem State.setFlow_flow (v : Flow) : (s.setFlow t k v).flow t k = v := by
  rw [s.flow_setFlow, if_pos ⟨rfl, rfl⟩]

theorem State.setFlow_ht (t' : Nat) (v : Flow) : ((s.setFlow t k v).ht t').exports = (s.ht t').exports ∧
    ((s.setFlow t k v).ht t').reports = (s.ht t').reports := by
  unfold State.setFlow
  rw [s.ht_setHt]
  split
  case isTrue h => rw [h]; exact ⟨rfl, rfl⟩
  case isFalse => exact ⟨rfl, rfl⟩

theorem State.ht_of_halo {s u : State} (h : u.halo = s.halo) (t : Nat) : u.ht t = s.ht t := congrArg (fun x : HaloSt => tget x.tiles t {}) h
theorem State.flow_of_halo {s u : State} (h : u.halo = s.halo) (t k : Nat) : u.flow t k = s.flow t k := by
  unfold State.flow
  rw [State.ht_of_halo h]

theorem State.ringLost_halo (r : Nat) : (s.ringLost r).halo = s.halo := rfl
theorem State.ringLost_rdw (r : Nat) (n : RName) (i j : Nat) : (s.ringLost r).rdw n i j = s.rdw n i j := rfl
end

/-! ## Exports (R345, R346) -/

section
variable (s : State) (t k : Nat)

theorem State.exportRec_room (ring : Nat) (bs : List Byte) (lost : RName) (h : (s.ht t).exports.length < 1024) :
    s.exportRec t ring bs lost = s.setHt t { s.ht t with exports := (s.ht t).exports ++ [(ring, bs)] } := if_pos h

theorem State.exportRec_full (ring : Nat) (bs : List Byte) (lost : RName) (h : ¬ (s.ht t).exports.length < 1024) :
    s.exportRec t ring bs lost = (s.bump lost).ringLost ring := if_neg h

theorem State.exportRec_flow (ring : Nat) (bs : List Byte) (lost : RName) (t' k' : Nat) :
    (s.exportRec t ring bs lost).flow t' k' = s.flow t' k' := by
  by_cases h : (s.ht t).exports.length < 1024
  · rw [s.exportRec_room t ring bs lost h]
    exact s.flow_setHt t t' k' _ rfl
  · rw [s.exportRec_full t ring bs lost h]
    exact State.flow_of_halo ((State.ringLost_halo _ _).trans (s.bump_halo lost 0 0 _)) t' k'

theorem State.flowExport_off (reason : Nat) (h : s.flag F.flowCfg_EXPORT = false) : s.flowExport t k reason = s :=
  if_neg (by rw [h]; exact Bool.false_ne_true)

theorem State.flowExport_room (reason : Nat) (h : s.flag F.flowCfg_EXPORT = true) (hn : (s.ht t).exports.length < 1024) :
    s.flowExport t k reason =
      (s.exportRec t (s.fget F.flowCfg_RING) (flowRec t reason (s.flow t k)) .cntFlowLost).bump .cntFlowExported := by
  unfold State.flowExport
  rw [if_pos h]
  dsimp only
  rw [decide_eq_true hn]
  rfl

theorem State.flowExport_full (reason : Nat) (h : s.flag F.flowCfg_EXPORT = true) (hn : ¬ (s.ht t).exports.length < 1024) :
    s.flowExport t k reason = s.exportRec t (s.fget F.flowCfg_RING) (flowRec t reason (s.flow t k)) .cntFlowLost := by
  unfold State.flowExport
  rw [if_pos h]
  dsimp only
  rw [decide_eq_false hn]
  rfl

theorem State.flowExport_flow (reason t' k' : Nat) : (s.flowExport t k reason).flow t' k' = s.flow t' k' := by
  cases he : s.flag F.flowCfg_EXPORT
  · rw [s.flowExport_off t k reason he]
  · by_cases hn : (s.ht t).exports.length < 1024
    · rw [s.flowExport_room t k reason he hn]
      exact (State.flow_of_halo (State.bump_halo _ _ _ _ _) t' k').trans (s.exportRec_flow t _ _ _ t' k')
    · rw [s.flowExport_full t k reason he hn]
      exact s.exportRec_flow t _ _ _ t' k'

/-- What a state holds once an entry has left with a reason: its record with EXPORT at 1 and room in the queue, a count where there is none. -/
def State.Sent (s : State) (t reason : Nat) (v : Flow) (u : State) : Prop :=
  (s.flag F.flowCfg_EXPORT = false → (u.ht t).exports = (s.ht t).exports) ∧
  (s.flag F.flowCfg_EXPORT = true → (s.ht t).exports.length < 1024 →
    (u.ht t).exports = (s.ht t).exports ++ [(s.fget F.flowCfg_RING, flowRec t reason v)]) ∧
  (s.flag F.flowCfg_EXPORT = true → 1024 ≤ (s.ht t).exports.length → (u.ht t).exports = (s.ht t).exports ∧
    u.rdw .cntFlowLost = s.rdw .cntFlowLost + 1#64)

theorem State.flowExport_sent (reason : Nat) : s.Sent t reason (s.flow t k) (s.flowExport t k reason) := by
  refine ⟨fun he => ?_, fun he hn => ?_, fun he hn => ?_⟩
  · rw [s.flowExport_off t k reason he]
  · rw [s.flowExport_room t k reason he hn, State.ht_of_halo (State.bump_halo _ _ _ _ _), s.exportRec_room t _ _ _ hn, State.setHt_ht]
  · rw [s.flowExport_full t k reason he (by omega), s.exportRec_full t _ _ _ (by omega)]
    refine ⟨?_, ?_⟩
    · rw [State.ht_of_halo ((State.ringLost_halo _ _).trans (s.bump_halo _ 0 0 _))]
    · rw [State.ringLost_rdw]
      exact rdw_bump_same s _ 0 0 1

/-- Writing an entry after it is sent leaves what was sent. -/
theorem State.Sent.setFlow {s u : State} {t reason : Nat} {v : Flow} (h : s.Sent t reason v u) (k : Nat) (w : Flow) :
    s.Sent t reason v (u.setFlow t k w) := by
  obtain ⟨hoff, hroom, hfull⟩ := h
  have hx := (u.setFlow_ht t k t w).1
  refine ⟨fun he => hx.trans (hoff he), fun he hn => hx.trans (hroom he hn), fun he hn => ⟨hx.trans (hfull he hn).1, ?_⟩⟩
  rw [u.setFlow_rdw]
  exact (hfull he hn).2

/-- An entry exported and then freed. -/
def State.flowLeave (s : State) (t k reason : Nat) : State := (s.flowExport t k reason).flowFree t k

theorem State.flowLeave_flow (reason : Nat) : (s.flowLeave t k reason).flow t k = { gen := (s.flow t k).gen } := by
  unfold State.flowLeave State.flowFree
  rw [State.setFlow_flow, s.flowExport_flow]

theorem State.flowLeave_sent (reason : Nat) : s.Sent t reason (s.flow t k) (s.flowLeave t k reason) :=
  (s.flowExport_sent t k reason).setFlow k _

/-- No entry becomes valid when another leaves. -/
theorem State.flowLeave_free (reason t' k' : Nat) (h : (s.flow t' k').valid = false) : ((s.flowLeave t k reason).flow t' k').valid = false := by
  unfold State.flowLeave State.flowFree
  rw [State.flow_setFlow]
  split
  case isTrue => rfl
  case isFalse => rwa [s.flowExport_flow]

theorem State.flowLeave_others (reason t' k' : Nat) (h : ¬ (t' = t ∧ k' = k)) : (s.flowLeave t k reason).flow t' k' = s.flow t' k' := by
  unfold State.flowLeave State.flowFree
  rw [State.flow_setFlow, if_neg h, s.flowExport_flow]
end

/-! ## The scanner's visit (R344) -/

section
variable {s : State} {t k : Nat}

/-- The scanner's comparisons of R344. -/
def State.flowIdle (s : State) (v : Flow) : Prop := v.lastNs + max 1 (s.fget F.flowTmo_IDLE_MS) * 1000000 < s.ptpNs
def State.flowActive (s : State) (v : Flow) : Prop := v.firstNs + max 1 (s.fget F.flowTmo_ACTIVE_S) * 1000000000 < s.ptpNs ∧ v.fresh = false

/-- What of an entry that leaves with reason ACTIVE stays. -/
def Flow.active (v : Flow) : Flow := { v with packets := 0, bytes := 0, peakRes := 0, dropPkts := 0, fresh := true }

theorem execFlowScanVisit_free (h : (s.flow t k).valid = false) : execFlowScanVisit t k s = .next s :=
  congrArg Host.Outcome.next (if_pos h)

theorem execFlowScanVisit_flushing (h : (s.flow t k).valid = true) (hf : s.flag F.haloStatus_FLUSHING = true) :
    execFlowScanVisit t k s = .next (s.flowLeave t k 3) :=
  congrArg Host.Outcome.next ((if_neg (by rw [h]; simp)).trans (if_pos hf))

theorem execFlowScanVisit_idle (h : (s.flow t k).valid = true) (hf : s.flag F.haloStatus_FLUSHING = false) (hi : s.flowIdle (s.flow t k)) :
    execFlowScanVisit t k s = .next (s.flowLeave t k 0) :=
  congrArg Host.Outcome.next ((if_neg (by rw [h]; simp)).trans ((if_neg (by rw [hf]; simp)).trans (if_pos hi)))

theorem execFlowScanVisit_active (h : (s.flow t k).valid = true) (hf : s.flag F.haloStatus_FLUSHING = false) (hi : ¬ s.flowIdle (s.flow t k))
    (ha : s.flowActive (s.flow t k)) : execFlowScanVisit t k s = .next ((s.flowExport t k 2).setFlow t k (s.flow t k).active) :=
  congrArg Host.Outcome.next ((if_neg (by rw [h]; simp)).trans ((if_neg (by rw [hf]; simp)).trans ((if_neg hi).trans (if_pos ⟨ha.2, ha.1⟩))))

theorem execFlowScanVisit_stays (h : (s.flow t k).valid = true) (hf : s.flag F.haloStatus_FLUSHING = false) (hi : ¬ s.flowIdle (s.flow t k))
    (ha : ¬ s.flowActive (s.flow t k)) : execFlowScanVisit t k s = .next s :=
  congrArg Host.Outcome.next
    ((if_neg (by rw [h]; simp)).trans ((if_neg (by rw [hf]; simp)).trans ((if_neg hi).trans (if_neg fun hx => ha ⟨hx.2, hx.1⟩))))
end

/-! ## Residence reports (R343) -/

/-- A report taken by the entry it names. -/
def State.reportTaken (s : State) (t k gen res : Nat) (rest : List (Nat × Nat × Nat)) : State :=
  let s1 := s.setHt t { s.ht t with reports := rest }
  let v := s1.flow t k
  if v.valid = true ∧ v.gen = gen ∧ s.flag F.flowCfg_EN = true then s1.setFlow t k { v with peakRes := max v.peakRes res } else s1

theorem execResidenceReport_eq {s : State} {t k gen res : Nat} {rest : List (Nat × Nat × Nat)} (h : (s.ht t).reports = (k, gen, res) :: rest) :
    execResidenceReport t s = .next (s.reportTaken t k gen res rest) := by
  have : execResidenceReport t s = .next (match (s.ht t).reports with
    | [] => s
    | (k, gen, res) :: rest => s.reportTaken t k gen res rest) := rfl
  rw [this, h]

theorem State.reportTaken_spec (s : State) (t k gen res : Nat) (rest : List (Nat × Nat × Nat)) :
    ((s.reportTaken t k gen res rest).ht t).reports = rest ∧ OnlyRegs [] s (s.reportTaken t k gen res rest) ∧
    (if (s.flow t k).valid = true ∧ (s.flow t k).gen = gen ∧ s.flag F.flowCfg_EN = true
      then (s.reportTaken t k gen res rest).flow t k = { s.flow t k with peakRes := max (s.flow t k).peakRes res }
      else (s.reportTaken t k gen res rest).flow t k = s.flow t k) := by
  obtain ⟨u, hu⟩ : ∃ u, u = s.setHt t { s.ht t with reports := rest } := ⟨_, rfl⟩
  have hflow : u.flow t k = s.flow t k := by rw [hu]; exact s.flow_setHt t t k _ rfl
  have hrep : (u.ht t).reports = rest := by rw [hu, State.setHt_ht]
  have hregs : OnlyRegs [] s u := by rw [hu]; exact fun n i j _ => s.setHt_rd t _ n i j
  have heq : s.reportTaken t k gen res rest = if (u.flow t k).valid = true ∧ (u.flow t k).gen = gen ∧ s.flag F.flowCfg_EN = true then
      u.setFlow t k { u.flow t k with peakRes := max (u.flow t k).peakRes res } else u := by rw [hu]; rfl
  rw [heq, hflow]
  split
  case isTrue => exact ⟨(u.setFlow_ht t k t _).2.trans hrep, fun n i j h => (u.setFlow_rd t k _ n i j).trans (hregs n i j h), u.setFlow_flow t k _⟩
  case isFalse => exact ⟨hrep, hregs, hflow⟩

/-! ## FLOW_CMD FLUSH and FLOW_SEED (R344, R366, R368) -/

/-- The valid entries of a tile leave with reason FLUSH. -/
def State.flushTileFlows (s : State) (e : Nat × HaloTile) : State :=
  s.each (e.2.flows.filter (fun f => f.2.valid)) fun f s => s.flowLeave e.1 f.1 3

def State.flushFlows (s : State) (l : List (Nat × HaloTile)) : State := s.each l fun e s => s.flushTileFlows e

theorem State.flushTileFlows_free {s : State} (e : Nat × HaloTile) {t k : Nat} (h : (s.flow t k).valid = false) :
    ((s.flushTileFlows e).flow t k).valid = false :=
  State.each_ind (P := fun u => (u.flow t k).valid = false) h fun f u hu => u.flowLeave_free e.1 f.1 3 t k hu

theorem State.flushFlows_keeps_free {s : State} (l : List (Nat × HaloTile)) {t k : Nat} (h : (s.flow t k).valid = false) :
    ((s.flushFlows l).flow t k).valid = false :=
  State.each_ind (P := fun u => (u.flow t k).valid = false) h fun e _ hu => State.flushTileFlows_free e hu

/-- A listed valid entry leaves with its tile. -/
theorem State.flushTileFlows_listed (s : State) {t k : Nat} {h : HaloTile} {v : Flow} (hk : (k, v) ∈ h.flows) (hv : v.valid = true) :
    ((s.flushTileFlows (t, h)).flow t k).valid = false :=
  State.each_sets (P := fun u => (u.flow t k).valid = false) s (List.mem_filter.2 ⟨hk, hv⟩)
    (fun u => by rw [u.flowLeave_flow]) fun f u hu => u.flowLeave_free t f.1 3 t k hu

theorem State.flushFlows_listed (s : State) {l : List (Nat × HaloTile)} {t k : Nat} {h : HaloTile} {v : Flow} (ht : (t, h) ∈ l)
    (hk : (k, v) ∈ h.flows) (hv : v.valid = true) : ((s.flushFlows l).flow t k).valid = false :=
  State.each_sets (P := fun u => (u.flow t k).valid = false) s ht (fun u => u.flushTileFlows_listed hk hv) fun e _ hu => State.flushTileFlows_free e hu

/-- A valid entry is listed, in a listed tile. -/
theorem State.flow_listed {s : State} {t k : Nat} (h : (s.flow t k).valid = true) : (t, s.ht t) ∈ s.halo.tiles ∧ (k, s.flow t k) ∈ (s.ht t).flows := by
  have hk : s.flow t k ≠ {} := fun he => by rw [he] at h; cases h
  have ht : s.ht t ≠ {} := fun he => hk (by unfold State.flow; rw [he]; rfl)
  exact ⟨mem_of_tget_ne ht, mem_of_tget_ne hk⟩

theorem State.flushFlows_all (s : State) (t k : Nat) : ((s.flushFlows s.halo.tiles).flow t k).valid = false := by
  cases hv : (s.flow t k).valid
  · exact State.flushFlows_keeps_free _ hv
  · exact s.flushFlows_listed (State.flow_listed hv).1 (State.flow_listed hv).2 hv

/-- FLUSH has ended. -/
def State.flushEnd (s : State) : State := ((s.flushFlows s.halo.tiles).fset F.haloStatus_FLUSHING 0).post 0x0502 0

theorem execFlowFlushDone_eq (s : State) : execFlowFlushDone s = .next (if s.flag F.haloStatus_FLUSHING then s.flushEnd else s) := rfl

/-- Parts that a flush writes. -/
def Touch.flush : Touch := { Touch.all with tm := false, te := false }

theorem execFlowFlushDone_parts (s : State) : ∃ t, execFlowFlushDone s = .next t ∧ t.tm = s.tm ∧ t.te = s.te := by
  obtain ⟨u, hu, hk⟩ := execFlowFlushDone_keeps (.rfl' .flush s)
  exact ⟨u, hu, hk.tm rfl, hk.te rfl⟩

theorem State.post_halo (s : State) (a b : Nat) : (s.post a b).halo = s.halo := (s.post_posts a b).halo rfl

theorem State.flushEnd_spec {s : State} (h : s.flag F.haloStatus_FLUSHING = true) : s.flushEnd.flag F.haloStatus_FLUSHING = false ∧
    (∀ t k, (s.flushEnd.flow t k).valid = false) ∧ s.flushEnd.tm = s.tm ∧ s.flushEnd.te = s.te := by
  obtain ⟨a, ha⟩ : ∃ a, a = s.flushFlows s.halo.tiles := ⟨_, rfl⟩
  have heq : s.flushEnd = (a.fset F.haloStatus_FLUSHING 0).post 0x0502 0 := by rw [ha]; rfl
  refine ⟨?_, fun t k => ?_, ?_⟩
  · rw [heq, ((a.fset F.haloStatus_FLUSHING 0).post_posts 0x0502 0).flag _ 0 0 rfl]
    exact flag_fset_none a F.haloStatus_FLUSHING 0 0 rfl (by decide)
  · rw [heq, State.flow_of_halo ((State.post_halo _ _ _).trans (a.fset_halo _ _ _ _)), ha]
    exact s.flushFlows_all t k
  · obtain ⟨u, hu, htm, hte⟩ := execFlowFlushDone_parts s
    rw [execFlowFlushDone_eq, if_pos h] at hu
    cases hu
    exact ⟨htm, hte⟩

/-- The flow cache holds a valid entry. -/
def State.anyFlow (s : State) : Bool := s.halo.tiles.any fun e => e.2.flows.any fun f => f.2.valid

theorem State.flowSeedWrite_eq (s : State) (v : Word) : s.flowSeedWrite v = if s.anyFlow then s else s.wr .flowSeed v := rfl

theorem State.anyFlow_of_valid {s : State} {t k : Nat} (h : (s.flow t k).valid = true) : s.anyFlow = true :=
  List.any_eq_true.2 ⟨_, (State.flow_listed h).1, List.any_eq_true.2 ⟨_, (State.flow_listed h).2, h⟩⟩

theorem State.anyFlow_none {s : State} (h : ∀ t k, (s.flow t k).valid = false) (ht : twf (fun _ => ({} : HaloTile)) s.halo.tiles = true)
    (hf : ∀ e ∈ s.halo.tiles, twf (fun _ => ({} : Flow)) e.2.flows = true) : s.anyFlow = false := by
  rw [Bool.eq_false_iff]
  intro hany
  obtain ⟨⟨t, w⟩, he, hw⟩ := List.any_eq_true.1 hany
  obtain ⟨⟨k, v⟩, hk, hv⟩ := List.any_eq_true.1 hw
  have hht : s.ht t = w := tget_of_twf _ ht he
  have hfl : s.flow t k = v := by
    unfold State.flow
    rw [hht]
    exact tget_of_twf _ (hf _ he) hk
  have := h t k
  rw [hfl, hv] at this
  cases this

/-- Settles O33: each branch of the scanner and of a report by its own equation; a flush visits every listed entry, and a valid entry is listed. -/
theorem flowCache : Obligations.FlowCache := by
  intro s t k
  refine ⟨fun gen res rest h => ?_, fun h => execFlowScanVisit_free h, fun h => ⟨fun hf => ?_, fun hf hi => ?_, fun hf hi ha => ?_, fun hf hi ha => ?_⟩,
    ⟨s.fset F.haloStatus_FLUSHING 1, rfl, flag_fset_one s F.haloStatus_FLUSHING 0 0 rfl (by decide), rfl, ?_⟩, fun h => ?_, fun h => ?_, fun v => ⟨fun hv ht hf => ?_, fun hv => ?_⟩⟩
  · exact ⟨_, execResidenceReport_eq h, s.reportTaken_spec t k gen res rest⟩
  · exact ⟨_, execFlowScanVisit_flushing h hf, s.flowLeave_sent t k 3, s.flowLeave_flow t k 3⟩
  · exact ⟨_, execFlowScanVisit_idle h hf hi, s.flowLeave_sent t k 0, s.flowLeave_flow t k 0⟩
  · exact ⟨_, execFlowScanVisit_active h hf hi ha, (s.flowExport_sent t k 2).setFlow k _, State.setFlow_flow _ _ _ _⟩
  · exact execFlowScanVisit_stays h hf hi ha
  · exact (OnlyRegs.refl _ s).fset _ _ _ List.mem_cons_self
  · exact (execFlowFlushDone_eq s).trans (congrArg Host.Outcome.next (if_neg (by rw [h]; exact Bool.false_ne_true)))
  · exact ⟨_, (execFlowFlushDone_eq s).trans (congrArg Host.Outcome.next (if_pos h)), State.flushEnd_spec h⟩
  · refine ⟨_, congrArg Host.Outcome.next ((s.flowSeedWrite_eq v).trans (if_neg ?_)), rd_wr_same _ _ _ _ _, (OnlyRegs.refl _ s).wr _ _ _ List.mem_cons_self, rfl⟩
    rw [State.anyFlow_none hv ht hf]
    exact Bool.false_ne_true
  · exact congrArg Host.Outcome.next ((s.flowSeedWrite_eq v).trans (if_pos (State.anyFlow_of_valid hv)))

end Sys2Proof.Machine
end

section
/-!
PROOF. Sample instants and histograms (R327, R338 to R340).
-/

set_option Elab.async false
set_option exponentiation.threshold 4096
set_option maxRecDepth 20000

namespace Sys2Proof.Machine

/-! ## Loops in which one index writes a view -/

/-- Where only index `a` of a list without repetitions writes a view, the view ends as one run of `a` leaves it, from a state that `I` holds of. -/
theorem State.each_once {α β : Type} {I : State → Prop} {view : State → β} {l : List α} {a : α} {f : α → State → State} {s : State} (hnd : l.Nodup)
    (ha : a ∈ l) (h : I s) (hinv : ∀ b u, I u → I (f b u)) (hkeep : ∀ b ∈ l, b ≠ a → ∀ u, view (f b u) = view u) :
    ∃ w, I w ∧ view w = view s ∧ view (s.each l f) = view (f a w) := by
  induction l generalizing s with
  | nil => cases ha
  | cons b r ih =>
    obtain ⟨hb, hr⟩ := List.nodup_cons.1 hnd
    rw [State.each_cons]
    by_cases hab : a = b
    · subst hab
      refine ⟨s, h, rfl, ?_⟩
      exact State.each_ind_mem (P := fun u => view u = view (f a s)) rfl fun c hc u hu =>
        (hkeep c (List.mem_cons_of_mem _ hc) (ne_of_mem_of_not_mem hc hb) u).trans hu
    · obtain ⟨w, hw, hview, hend⟩ := ih hr ((List.mem_cons.1 ha).resolve_left hab) (hinv b s h) fun c hc => hkeep c (List.mem_cons_of_mem _ hc)
      exact ⟨w, hw, hview.trans (hkeep b List.mem_cons_self (Ne.symm hab) s), hend⟩

/-! ## The bins of R339 -/

theorem histBin_of_ne {v scale : Nat} (h : v / 2 ^ scale ≠ 0) : histBin v scale = min 31 (Nat.log2 (v / 2 ^ scale) + 1) := if_neg h

theorem histBin_le (v scale : Nat) : histBin v scale ≤ 31 := by
  by_cases h : v / 2 ^ scale = 0
  · rw [show histBin v scale = 0 from if_pos h]
    omega
  · rw [histBin_of_ne h]
    exact Nat.min_le_left _ _

theorem histBin_zero (v scale : Nat) : histBin v scale = 0 ↔ v < 2 ^ scale := by
  have hpos : 0 < 2 ^ scale := Nat.two_pow_pos scale
  by_cases h : v / 2 ^ scale = 0
  · rw [show histBin v scale = 0 from if_pos h]
    exact iff_of_true rfl ((Nat.div_eq_zero_iff_lt hpos).1 h)
  · rw [histBin_of_ne h]
    exact iff_of_false (by omega) fun hv => h ((Nat.div_eq_zero_iff_lt hpos).2 hv)

theorem histBin_iff (v scale : Nat) {b : Nat} (h1 : 1 ≤ b) (h30 : b ≤ 30) :
    histBin v scale = b ↔ 2 ^ (b - 1) * 2 ^ scale ≤ v ∧ v < 2 ^ b * 2 ^ scale := by
  have hpos : 0 < 2 ^ scale := Nat.two_pow_pos scale
  have hlow : 2 ^ (b - 1) * 2 ^ scale ≤ v ↔ 2 ^ (b - 1) ≤ v / 2 ^ scale := (Nat.le_div_iff_mul_le hpos).symm
  have hhigh : v < 2 ^ b * 2 ^ scale ↔ v / 2 ^ scale < 2 ^ b := (Nat.div_lt_iff_lt_mul hpos).symm
  rw [hlow, hhigh]
  by_cases h : v / 2 ^ scale = 0
  · rw [show histBin v scale = 0 from if_pos h, h]
    exact iff_of_false (by omega) fun hb => by have := Nat.two_pow_pos (b - 1); omega
  · rw [histBin_of_ne h]
    have hlog : Nat.log2 (v / 2 ^ scale) = b - 1 ↔ 2 ^ (b - 1) ≤ v / 2 ^ scale ∧ v / 2 ^ scale < 2 ^ (b - 1 + 1) := Nat.log2_eq_iff h
    rw [show b - 1 + 1 = b by omega] at hlog
    rw [← hlog]
    omega

/-! ## One value added -/

section
variable (s : State)

/-- The 128 bins and four WRAP words of a class. -/
def State.classHist (s : State) (p c : Nat) : (Fin 128 → Word) × (Fin 4 → Word) :=
  (fun x => s.rd .histClass p (c * 128 + x.val), fun k => s.rd .wrapClass p (c * 4 + k.val))

/-- The state but its 32-bit registers. -/
def State.bare32 (s : State) : State := { s with r32 := [] }

theorem State.wr_bare32 (n : RName) (v : Word) (i j : Nat) : (s.wr n v i j).bare32 = s.bare32 := rfl

theorem State.histAdd_bare32 (n : RName) (p j : Nat) (w : RName) (wj v scale : Nat) : (s.histAdd n p j w wj v scale).bare32 = s.bare32 := by
  unfold State.histAdd
  dsimp only
  split
  case isTrue => exact (State.wr_bare32 _ _ _ _ _).trans (s.wr_bare32 _ _ _ _)
  case isFalse => exact s.wr_bare32 _ _ _ _

theorem State.histAdd_onlyRegs (n : RName) (p j : Nat) (w : RName) (wj v scale : Nat) : OnlyRegs [n, w] s (s.histAdd n p j w wj v scale) := by
  unfold State.histAdd
  dsimp only
  split
  case isTrue => exact ((OnlyRegs.refl _ s).wr _ _ _ List.mem_cons_self).wr _ _ _ (List.mem_cons_of_mem _ List.mem_cons_self)
  case isFalse => exact (OnlyRegs.refl _ s).wr _ _ _ List.mem_cons_self

/-- A word of the histogram after a value. -/
theorem State.histAdd_bin {n w : RName} (hnw : n ≠ w) (p j wj v scale p' j' : Nat) :
    (s.histAdd n p j w wj v scale).rd n p' j' = (s.wr n (s.rd n p (j + histBin v scale) + 1) p (j + histBin v scale)).rd n p' j' := by
  unfold State.histAdd
  dsimp only
  split
  case isTrue => exact rd_wr_reg _ _ _ _ _ _ hnw
  case isFalse => rfl

/-- WRAP words other than the value's own stay. -/
theorem State.histAdd_wrap {n w : RName} (hnw : n ≠ w) (p j wj v scale p' j' : Nat) (h : regKey w p' j' ≠ regKey w p wj) :
    (s.histAdd n p j w wj v scale).rd w p' j' = s.rd w p' j' := by
  unfold State.histAdd
  dsimp only
  split
  case isTrue => exact (rd_wr_key _ _ h).trans (rd_wr_reg s _ _ _ _ _ hnw.symm)
  case isFalse => exact rd_wr_reg s _ _ _ _ _ hnw.symm

/-- A bin that wraps sets its bit of the WRAP word. -/
theorem State.histAdd_wraps {n w : RName} (p j wj v scale : Nat) (h : s.rd n p (j + histBin v scale) = 0xFFFFFFFF#32) :
    ((s.histAdd n p j w wj v scale).rd w p wj).getLsbD (histBin v scale) = true := by
  have hle := histBin_le v scale
  unfold State.histAdd
  dsimp only
  rw [if_pos h, rd_wr_same, BitVec.getLsbD_or, BitVec.getLsbD_ofNat, Nat.testBit_two_pow_self]
  simp only [Bool.and_true, Bool.or_eq_true, decide_eq_true_eq]
  exact Or.inr (by omega)

theorem regKey_small {n : RName} {i j i' j' : Nat} (hi : i < 65536) (hi' : i' < 65536) (hj : j < 65536) (hj' : j' < 65536)
    (h : ¬ (i' = i ∧ j' = j)) : regKey n i' j' ≠ regKey n i j := by
  intro he
  obtain ⟨-, h1, h2⟩ := regKey_inj he
  rw [Nat.mod_eq_of_lt hi', Nat.mod_eq_of_lt hi] at h1
  rw [Nat.mod_eq_of_lt hj', Nat.mod_eq_of_lt hj] at h2
  exact h ⟨h1, h2⟩

/-- A bin of a class histogram after a value in kind `k` of class `c` of port `p`. -/
theorem State.histC_bin {p c k p' c' : Nat} (hp : p < 512) (hc : c < 8) (hk : k < 3) (hp' : p' < 512) (hc' : c' < 8) (v scale : Nat) (x : Fin 128) :
    (s.histC p c k v scale).rd .histClass p' (c' * 128 + x.val) =
      if p' = p ∧ c' = c ∧ x.val = k * 32 + histBin v scale then s.rd .histClass p' (c' * 128 + x.val) + 1 else s.rd .histClass p' (c' * 128 + x.val) := by
  have hle := histBin_le v scale
  have hx := x.isLt
  unfold State.histC
  rw [s.histAdd_bin (by decide)]
  split
  case isTrue h =>
    obtain ⟨rfl, rfl, hx⟩ := h
    rw [show (c' * 4 + k) * 32 + histBin v scale = c' * 128 + x.val by omega]
    exact rd_wr_same _ _ _ _ _
  case isFalse h =>
    refine rd_wr_key s _ (regKey_small (by omega) (by omega) (by omega) (by omega) fun he => h ⟨he.1, ?_⟩)
    omega

/-- A WRAP word of another class or kind stays. -/
theorem State.histC_wrap {p c k p' c' k' : Nat} (hp : p < 512) (hc : c < 8) (hk : k < 3) (hp' : p' < 512) (hc' : c' < 8) (hk' : k' < 4) (v scale : Nat)
    (h : ¬ (p' = p ∧ c' = c ∧ k' = k)) : (s.histC p c k v scale).rd .wrapClass p' (c' * 4 + k') = s.rd .wrapClass p' (c' * 4 + k') := by
  refine s.histAdd_wrap (by decide) _ _ _ _ _ _ _ (regKey_small (by omega) (by omega) (by omega) (by omega) fun he => h ⟨he.1, ?_⟩)
  omega

/-- What a value of another class leaves of a class's histograms. -/
theorem State.histC_classHist {p c p' c' : Nat} (hp : p < 512) (hc : c < 8) (hp' : p' < 512) (hc' : c' < 8) {k : Nat} (hk : k < 3) (v scale : Nat)
    (h : ¬ (p' = p ∧ c' = c)) : (s.histC p c k v scale).classHist p' c' = s.classHist p' c' := by
  unfold State.classHist
  refine Prod.ext (funext fun x => ?_) (funext fun k' => ?_)
  · dsimp only
    rw [s.histC_bin hp hc hk hp' hc', if_neg fun he => h ⟨he.1, he.2.1⟩]
  · exact s.histC_wrap hp hc hk hp' hc' k'.isLt v scale fun he => h ⟨he.1, he.2.1⟩

theorem State.histP_classHist (p k v scale p' c' : Nat) : (s.histP p k v scale).classHist p' c' = s.classHist p' c' := by
  have h := s.histAdd_onlyRegs .histPort p (k * 32) .wrapPort k v scale
  exact Prod.ext (funext fun x => h _ _ _ (by decide)) (funext fun k' => h _ _ _ (by decide))
end

/-! ## A sample instant (R327) -/

section
variable {s u : State}

theorem State.headSojourn_congr (h : u.bare32 = s.bare32) (p c : Nat) : u.headSojourn p c = s.headSojourn p c :=
  (show u.bare32.headSojourn p c = s.bare32.headSojourn p c by rw [h])

theorem State.depth_congr (h : u.bare32 = s.bare32) (p c : Nat) : u.depth p c = s.depth p c :=
  (show u.bare32.depth p c = s.bare32.depth p c by rw [h])

/-- A class's two values of a sample instant. -/
def State.sampleClass (s : State) (p ls ds c : Nat) : State := (s.histC p c 1 (s.headSojourn p c) ls).histC p c 2 (s.depth p c) ds

/-- A port's class values. -/
def State.sampleClasses (s : State) (p ls ds : Nat) : State := s.each (List.range 8) fun c s => s.sampleClass p ls ds c

/-- The port's own value, from the depths of its classes. -/
def State.samplePortDepth (s : State) (p ds : Nat) : State := s.histP p 1 ((List.range 8).map (s.depth p)).sum ds

/-- A port's values of a sample instant. -/
def State.samplePort (s : State) (ls ds p : Nat) : State := (s.sampleClasses p ls ds).samplePortDepth p ds

/-- A sample instant of an enabled tile. -/
def State.sampled (s : State) (t : Nat) : State :=
  s.each (s.tilePorts t) fun p u => u.samplePort (s.fget F.histCfg_LAT_SCALE) (s.fget F.histCfg_DEPTH_SCALE) p

theorem execSampleInstant_on {t : Nat} (hen : s.flag F.sampleCfg_EN t = true) (hon : s.tileOn t = true) :
    execSampleInstant t s = .next (s.sampled t) :=
  congrArg Host.Outcome.next (if_neg (by rw [hen, hon]; simp))

theorem State.histC_bare32 (s : State) (p c k v scale : Nat) : (s.histC p c k v scale).bare32 = s.bare32 := by
  unfold State.histC
  exact s.histAdd_bare32 _ _ _ _ _ _ _

theorem State.sampleClass_bare32 (p ls ds c : Nat) : (s.sampleClass p ls ds c).bare32 = s.bare32 :=
  (State.histC_bare32 _ _ _ _ _ _).trans (s.histC_bare32 _ _ _ _ _)

theorem State.sampleClasses_bare32 (p ls ds : Nat) : (s.sampleClasses p ls ds).bare32 = s.bare32 :=
  State.each_ind (P := fun u => u.bare32 = s.bare32) rfl fun c w hw => (w.sampleClass_bare32 p ls ds c).trans hw

theorem State.samplePortDepth_bare32 (s : State) (p ds : Nat) : (s.samplePortDepth p ds).bare32 = s.bare32 := by
  unfold State.samplePortDepth State.histP
  exact s.histAdd_bare32 _ _ _ _ _ _ _

theorem State.samplePort_bare32 (ls ds p : Nat) : (s.samplePort ls ds p).bare32 = s.bare32 :=
  ((s.sampleClasses p ls ds).samplePortDepth_bare32 p ds).trans (s.sampleClasses_bare32 p ls ds)

theorem State.sampleClass_classHist {p c p' c' : Nat} (hp : p < 512) (hc : c < 8) (hp' : p' < 512) (hc' : c' < 8) (ls ds : Nat)
    (h : ¬ (p' = p ∧ c' = c)) : (s.sampleClass p ls ds c).classHist p' c' = s.classHist p' c' :=
  (State.histC_classHist _ hp hc hp' hc' (by decide) _ _ h).trans (s.histC_classHist hp hc hp' hc' (by decide) _ _ h)

theorem State.samplePortDepth_classHist (s : State) (p ds p' c' : Nat) : (s.samplePortDepth p ds).classHist p' c' = s.classHist p' c' :=
  s.histP_classHist _ _ _ _ _ _

/-- The ports of a sample instant but `p'` leave its class histograms. -/
theorem State.samplePort_classHist {p p' c' : Nat} (hp : p < 512) (hp' : p' < 512) (hc' : c' < 8) (ls ds : Nat) (h : p ≠ p') :
    (s.samplePort ls ds p).classHist p' c' = s.classHist p' c' :=
  (State.samplePortDepth_classHist _ _ _ _ _).trans
    (State.each_ind_mem (P := fun u => u.classHist p' c' = s.classHist p' c') rfl fun _ hc w hw =>
      (w.sampleClass_classHist hp (List.mem_range.1 hc) hp' hc' ls ds fun he => h he.1.symm).trans hw)

/-- What a port's values leave of a class's histograms: one run of its two values. -/
theorem State.samplePort_once {p c : Nat} (hp : p < 512) (hc : c < 8) (ls ds : Nat) :
    ∃ w : State, w.bare32 = s.bare32 ∧ w.classHist p c = s.classHist p c ∧ (s.samplePort ls ds p).classHist p c = (w.sampleClass p ls ds c).classHist p c := by
  obtain ⟨w, hw, hview, hend⟩ := State.each_once (I := fun u => u.bare32 = s.bare32) (view := fun u => u.classHist p c)
    (f := fun c' (s : State) => s.sampleClass p ls ds c') (s := s) List.nodup_range (List.mem_range.2 hc) rfl
    (fun b u hu => (u.sampleClass_bare32 p ls ds b).trans hu)
    (fun b hb hne u => u.sampleClass_classHist hp (List.mem_range.1 hb) hp hc ls ds fun he => hne he.2.symm)
  exact ⟨w, hw, hview, (State.samplePortDepth_classHist _ _ _ _ _).trans hend⟩

theorem State.tilePorts_lt {t : Nat} (ht : t < 16) {p : Nat} (h : p ∈ s.tilePorts t) : p < 512 := by
  unfold State.tilePorts at h
  split at h
  · split at h
    · exact (List.mem_range.1 h).trans (by decide)
    · cases h
  · obtain ⟨hlo, hhi⟩ := List.mem_range'_1.1 h
    omega

theorem State.tilePorts_nodup (s : State) (t : Nat) : (s.tilePorts t).Nodup := by
  unfold State.tilePorts
  split
  · split
    · exact List.nodup_range
    · exact List.nodup_nil
  · exact List.nodup_range'

/-- What a sample instant leaves of the histograms of a class of the tile: one run of its two values. -/
theorem State.sampled_once {t p c : Nat} (ht : t < 16) (hp : p ∈ s.tilePorts t) (hc : c < 8) :
    ∃ w : State, w.bare32 = s.bare32 ∧ w.classHist p c = s.classHist p c ∧
      (s.sampled t).classHist p c = (w.sampleClass p (s.fget F.histCfg_LAT_SCALE) (s.fget F.histCfg_DEPTH_SCALE) c).classHist p c := by
  have hp512 := State.tilePorts_lt ht hp
  obtain ⟨a, ha, hview, hend⟩ := State.each_once (I := fun u => u.bare32 = s.bare32) (view := fun u => u.classHist p c)
    (f := fun q (u : State) => u.samplePort (s.fget F.histCfg_LAT_SCALE) (s.fget F.histCfg_DEPTH_SCALE) q) (s := s) (s.tilePorts_nodup t) hp rfl
    (fun b u hu => (u.samplePort_bare32 _ _ b).trans hu)
    (fun b hb hne u => u.samplePort_classHist (State.tilePorts_lt ht hb) hp512 hc _ _ hne)
  obtain ⟨w, hw, hwview, hwend⟩ := a.samplePort_once hp512 hc (s.fget F.histCfg_LAT_SCALE) (s.fget F.histCfg_DEPTH_SCALE)
  exact ⟨w, hw.trans ha, hwview.trans hview, hend.trans hwend⟩

/-- The bin of a class histogram, from the class's view. -/
theorem State.classHist_bin {u w : State} {p c : Nat} (h : u.classHist p c = w.classHist p c) {x : Nat} (hx : x < 128) :
    u.rd .histClass p (c * 128 + x) = w.rd .histClass p (c * 128 + x) := congrFun (congrArg Prod.fst h) ⟨x, hx⟩

theorem State.classHist_wrap {u w : State} {p c : Nat} (h : u.classHist p c = w.classHist p c) {k : Nat} (hk : k < 4) :
    u.rd .wrapClass p (c * 4 + k) = w.rd .wrapClass p (c * 4 + k) := congrFun (congrArg Prod.snd h) ⟨k, hk⟩

/-- The bins of a class after its two values. -/
theorem State.sampleClass_bin (w : State) {p c : Nat} (hp : p < 512) (hc : c < 8) (ls ds : Nat) {x : Nat} (hx : x < 128) :
    (w.sampleClass p ls ds c).rd .histClass p (c * 128 + x) = w.rd .histClass p (c * 128 + x) +
      if x = 32 + histBin (w.headSojourn p c) ls ∨ x = 64 + histBin (w.depth p c) ds then 1 else 0 := by
  have hb := histBin_le (w.headSojourn p c) ls
  unfold State.sampleClass
  refine (State.histC_bin _ hp hc (by decide) hp hc _ _ ⟨x, hx⟩).trans ?_
  rw [State.histC_bin w hp hc (k := 1) (by decide) hp hc (w.headSojourn p c) ls ⟨x, hx⟩]
  by_cases h1 : x = 32 + histBin (w.headSojourn p c) ls
  · rw [if_neg (fun h => by have := h.2.2; dsimp only at this; omega), if_pos ⟨rfl, rfl, by omega⟩, if_pos (Or.inl h1)]
  · rw [if_neg (c := p = p ∧ c = c ∧ x = 1 * 32 + histBin (w.headSojourn p c) ls) fun h => h1 (by omega)]
    by_cases h2 : x = 64 + histBin (w.depth p c) ds
    · rw [if_pos ⟨rfl, rfl, by omega⟩, if_pos (Or.inr h2)]
    · rw [if_neg (fun h => h2 (by have := h.2.2; dsimp only at this; omega)), if_neg fun h => h.elim h1 h2]
      exact (BitVec.add_zero _).symm

/-- The delay bin that wraps sets its bit; the depth value writes another WRAP word. -/
theorem State.sampleClass_wraps (w : State) {p c : Nat} (hp : p < 512) (hc : c < 8) (ls ds : Nat)
    (h : w.rd .histClass p ((c * 4 + 1) * 32 + histBin (w.headSojourn p c) ls) = 0xFFFFFFFF#32) :
    ((w.sampleClass p ls ds c).rd .wrapClass p (c * 4 + 1)).getLsbD (histBin (w.headSojourn p c) ls) = true := by
  unfold State.sampleClass
  rw [State.histC_wrap _ hp hc (by decide) hp hc (by decide) _ _ fun he => absurd he.2.2 (by decide)]
  exact w.histAdd_wraps _ _ _ _ _ h

/-- A sample instant in the terms of R339 and R340. -/
theorem State.sampled_bins {t p c : Nat} (ht : t < 16) (hp : p ∈ s.tilePorts t) (hc : c < 8) :
    (∀ x, x < 128 → (s.sampled t).rd .histClass p (c * 128 + x) = s.rd .histClass p (c * 128 + x) +
      if x = 32 + histBin (s.headSojourn p c) (s.fget F.histCfg_LAT_SCALE) ∨ x = 64 + histBin (s.depth p c) (s.fget F.histCfg_DEPTH_SCALE) then 1 else 0) ∧
    (s.rd .histClass p ((c * 4 + 1) * 32 + histBin (s.headSojourn p c) (s.fget F.histCfg_LAT_SCALE)) = 0xFFFFFFFF#32 →
      ((s.sampled t).rd .wrapClass p (c * 4 + 1)).getLsbD (histBin (s.headSojourn p c) (s.fget F.histCfg_LAT_SCALE)) = true) := by
  have hp512 := State.tilePorts_lt ht hp
  obtain ⟨w, hw, hview, hend⟩ := State.sampled_once ht hp hc
  have hso := State.headSojourn_congr hw p c
  have hde := State.depth_congr hw p c
  refine ⟨fun x hx => ?_, fun h => ?_⟩
  · rw [State.classHist_bin hend hx, w.sampleClass_bin hp512 hc _ _ hx, State.classHist_bin hview hx, hso, hde]
  · rw [State.classHist_wrap hend (k := 1) (by decide), ← hso]
    refine w.sampleClass_wraps hp512 hc _ _ ?_
    have hb := histBin_le (s.headSojourn p c) (s.fget F.histCfg_LAT_SCALE)
    rw [hso]
    rw [show (c * 4 + 1) * 32 + histBin (s.headSojourn p c) (s.fget F.histCfg_LAT_SCALE) =
      c * 128 + (32 + histBin (s.headSojourn p c) (s.fget F.histCfg_LAT_SCALE)) by omega] at h ⊢
    rw [State.classHist_bin hview (by omega)]
    exact h

/-! ## HIST_CMD CLEAR (R340) -/

theorem State.clearArr_rd (s : State) (n : RName) (i j : Nat) : (s.clearArr n).rd n i j = BitVec.ofNat 32 (keyReset (regKey n i j)) := by
  refine tget_filter_drop _ _ fun v => ?_
  have hi : i % 65536 < 65536 := Nat.mod_lt _ (by decide)
  have hj : j % 65536 < 65536 := Nat.mod_lt _ (by decide)
  rw [Bool.or_eq_false_iff, decide_eq_false_iff_not, decide_eq_false_iff_not]
  unfold regKey
  omega

theorem State.clearArr_zero (s : State) {n : RName} (h : ∀ i j, regReset n i j = 0) (i j : Nat) : (s.clearArr n).rd n i j = 0 := by
  rw [s.clearArr_rd, keyReset_regKey, h]
  rfl

theorem State.clearArr_others (s : State) {n m : RName} (h : m ≠ n) (i j : Nat) : (s.clearArr n).rd m i j = s.rd m i j := by
  refine tget_filter _ _ fun v => ?_
  have hne : m.ctorIdx ≠ n.ctorIdx := fun e => h (RName.ctorIdx_inj e)
  have hi : i % 65536 < 65536 := Nat.mod_lt _ (by decide)
  have hj : j % 65536 < 65536 := Nat.mod_lt _ (by decide)
  rw [Bool.or_eq_true, decide_eq_true_iff, decide_eq_true_iff]
  unfold regKey
  omega

theorem State.histClear_zero (s : State) (p j : Nat) : s.histClear.rd .histClass p j = 0 ∧ s.histClear.rd .histPort p j = 0 ∧
    s.histClear.rd .wrapClass p j = 0 ∧ s.histClear.rd .wrapPort p j = 0 := by
  unfold State.histClear
  refine ⟨?_, ?_, ?_, State.clearArr_zero _ (fun _ _ => rfl) p j⟩
  · rw [State.clearArr_others _ (by decide), State.clearArr_others _ (by decide), State.clearArr_others _ (by decide)]
    exact State.clearArr_zero _ (fun _ _ => rfl) p j
  · rw [State.clearArr_others _ (by decide), State.clearArr_others _ (by decide)]
    exact State.clearArr_zero _ (fun _ _ => rfl) p j
  · rw [State.clearArr_others _ (by decide)]
    exact State.clearArr_zero _ (fun _ _ => rfl) p j

/-- The histogram registers. -/
def histRegs : List RName := [.histClass, .histPort, .wrapClass, .wrapPort]

theorem State.histClear_only (s : State) : OnlyRegs histRegs s s.histClear ∧ OnlyWide histRegs s s.histClear ∧ s.histClear.halo = s.halo :=
  have h := State.histClear_keeps (.rfl' (.onRegs histRegs) s)
  ⟨h.onlyRegs, h.onlyWide, rfl⟩

theorem execSampleInstant_only (s : State) (t : Nat) : ∃ u, execSampleInstant t s = .next u ∧ OnlyRegs histRegs s u ∧ u.tm = s.tm := by
  obtain ⟨u, hu, hk⟩ := execSampleInstant_keeps (.rfl' (.onRegs histRegs) s) t
  obtain ⟨w, hw, hkw⟩ := execSampleInstant_keeps (.rfl' .butTm s) t
  rw [hu] at hw
  cases hw
  exact ⟨u, hu, hk.onlyRegs, hkw.tm rfl⟩

theorem samplesAndHistograms : Claims.SamplesAndHistograms := by
  refine ⟨fun v scale => ⟨histBin_zero v scale, histBin_le v scale, fun b h1 h30 => histBin_iff v scale h1 h30⟩, fun s t => ⟨fun h => ?_, fun hen hon => ?_,
    s.histClear, rfl, s.histClear_zero, s.histClear_only⟩⟩
  · exact congrArg Host.Outcome.next (if_pos h)
  · obtain ⟨u, hu, honly, htm⟩ := execSampleInstant_only s t.val
    rw [execSampleInstant_on hen hon] at hu
    cases hu
    refine ⟨_, execSampleInstant_on hen hon, honly, htm, fun p c hp => ?_⟩
    obtain ⟨hbin, hwrap⟩ := State.sampled_bins t.isLt hp c.isLt
    have hb := histBin_le (s.headSojourn p c) (s.fget F.histCfg_LAT_SCALE)
    have hd := histBin_le (s.depth p c) (s.fget F.histCfg_DEPTH_SCALE)
    dsimp only
    obtain ⟨b, hbe⟩ : ∃ b, b = histBin (s.headSojourn p c) (s.fget F.histCfg_LAT_SCALE) := ⟨_, rfl⟩
    obtain ⟨d, hde⟩ : ∃ d, d = histBin (s.depth p c) (s.fget F.histCfg_DEPTH_SCALE) := ⟨_, rfl⟩
    rw [← hbe] at hbin hwrap hb ⊢
    rw [← hde] at hbin hd ⊢
    have hone : ∀ x, x < 128 → (x = 32 + b ∨ x = 64 + d) → (s.sampled t).rd .histClass p (c.val * 128 + x) = s.rd .histClass p (c.val * 128 + x) + 1 :=
      fun x hx h => (hbin x hx).trans (by rw [if_pos h])
    have hnone : ∀ x, x < 128 → ¬ (x = 32 + b ∨ x = 64 + d) → (s.sampled t).rd .histClass p (c.val * 128 + x) = s.rd .histClass p (c.val * 128 + x) :=
      fun x hx h => (hbin x hx).trans (by rw [if_neg h]; exact BitVec.add_zero _)
    refine ⟨?_, hwrap, ?_, fun j hj hne => ?_, fun j hj => ?_⟩
    · rw [show (c.val * 4 + 1) * 32 + b = c.val * 128 + (32 + b) by omega]
      exact hone _ (by omega) (Or.inl rfl)
    · rw [show (c.val * 4 + 2) * 32 + d = c.val * 128 + (64 + d) by omega]
      exact hone _ (by omega) (Or.inr rfl)
    · rw [show (c.val * 4 + 2) * 32 + j = c.val * 128 + (64 + j) by omega]
      exact hnone _ (by omega) (by omega)
    · rw [show c.val * 4 * 32 + j = c.val * 128 + j by omega]
      exact hnone _ (by omega) (by omega)
end

end Sys2Proof.Machine
end

section
/-!
PROOF. Statistics counters, counter groups and BAR4 (R354, R358, R361, R362, R373).
-/

set_option Elab.async false
set_option exponentiation.threshold 4096
set_option maxRecDepth 20000

namespace Sys2Proof.Machine

/-! ## Sticky bits -/

section
variable (s : State)

/-- `clearBit` leaves the bit at 0. -/
theorem State.clearBit_same (n : RName) (i k : Nat) : ((s.clearBit n i k).rd n i (k / 32)).getLsbD (k % 32) = false := by
  unfold State.clearBit
  rw [rd_wr_same, BitVec.getLsbD_and, BitVec.getLsbD_not, BitVec.getLsbD_ofNat, Nat.testBit_two_pow_self]
  have : k % 32 < 32 := Nat.mod_lt _ (by decide)
  simp [this]

/-- A bit at 0 stays at 0 where another is cleared. -/
theorem State.clearBit_stays {n : RName} {i j b : Nat} (i' k : Nat) (h : (s.rd n i j).getLsbD b = false) :
    ((s.clearBit n i' k).rd n i j).getLsbD b = false := by
  unfold State.clearBit
  by_cases hk : regKey n i j = regKey n i' (k / 32)
  · have heq : ∀ u : State, u.rd n i j = u.rd n i' (k / 32) := fun u => by unfold State.rd; rw [hk]
    rw [heq, rd_wr_same, BitVec.getLsbD_and, ← heq, h]
    rfl
  · rw [rd_wr_key s _ hk]
    exact h

theorem State.clearBit_inst {n : RName} {i i' : Nat} (k j : Nat) (h : i' % 65536 ≠ i % 65536) : (s.clearBit n i k).rd n i' j = s.rd n i' j :=
  rd_wr_inst s _ _ _ h

theorem State.clearBit_rdw (n m : RName) (i k i' j : Nat) : (s.clearBit n i k).rdw m i' j = s.rdw m i' j := rfl

/-! ## STAT_CMD (R354, R358) -/

/-- A counter pair and its sticky bits cleared in tile `t`. -/
def State.statZero (i t : Nat) : State :=
  (((s.wrw .statCnt 0 t (2 * i)).wrw .statCnt 0 t (2 * i + 1)).clearBit .statOvf t (2 * i)).clearBit .statOvf t (2 * i + 1)

/-- The pair of a tile is clear. -/
def State.StatClear (u : State) (i t : Nat) : Prop :=
  u.rdw .statCnt t (2 * i) = 0 ∧ u.rdw .statCnt t (2 * i + 1) = 0 ∧
    (u.rd .statOvf t (2 * i / 32)).getLsbD (2 * i % 32) = false ∧ (u.rd .statOvf t (2 * i / 32)).getLsbD (2 * i % 32 + 1) = false

theorem State.statZero_rdw (i t t' j : Nat) :
    (s.statZero i t).rdw .statCnt t' j = ((s.wrw .statCnt 0 t (2 * i)).wrw .statCnt 0 t (2 * i + 1)).rdw .statCnt t' j := rfl

theorem State.statZero_clear (i t : Nat) : (s.statZero i t).StatClear i t := by
  refine ⟨?_, ?_, ?_, ?_⟩
  · rw [State.statZero_rdw, rdw_wrw_word _ _ _ _ (by omega)]
    exact rdw_wrw_same _ _ _ _ _
  · rw [State.statZero_rdw]
    exact rdw_wrw_same _ _ _ _ _
  · exact State.clearBit_stays _ _ _ (State.clearBit_same _ _ _ _)
  · have h := State.clearBit_same (((s.wrw .statCnt 0 t (2 * i)).wrw .statCnt 0 t (2 * i + 1)).clearBit .statOvf t (2 * i)) .statOvf t (2 * i + 1)
    rwa [show (2 * i + 1) / 32 = 2 * i / 32 by omega, show (2 * i + 1) % 32 = 2 * i % 32 + 1 by omega] at h

/-- A pair at 0 stays at 0 where any tile's is cleared. -/
theorem State.statZero_stays {i t : Nat} (t' : Nat) (h : s.StatClear i t) : (s.statZero i t').StatClear i t := by
  obtain ⟨h0, h1, b0, b1⟩ := h
  have hcnt : ∀ j, s.rdw .statCnt t j = 0 → (s.statZero i t').rdw .statCnt t j = 0 := by
    intro j hj
    rw [State.statZero_rdw]
    have hw : ∀ (u : State) (k : Nat), u.rdw .statCnt t j = 0 → (u.wrw .statCnt 0 t' k).rdw .statCnt t j = 0 := by
      intro u k hu
      by_cases hk : regKey .statCnt t j = regKey .statCnt t' k
      · have : (u.wrw .statCnt 0 t' k).rdw .statCnt t j = (u.wrw .statCnt 0 t' k).rdw .statCnt t' k := by unfold State.rdw; rw [hk]
        rw [this]
        exact rdw_wrw_same _ _ _ _ _
      · rw [rdw_wrw_key u _ hk]
        exact hu
    exact hw _ _ (hw _ _ hj)
  exact ⟨hcnt _ h0, hcnt _ h1, State.clearBit_stays _ _ _ (State.clearBit_stays _ _ _ b0), State.clearBit_stays _ _ _ (State.clearBit_stays _ _ _ b1)⟩

/-- Another tile's counters and sticky bits. -/
theorem State.statZero_tile {i t x : Nat} (h : x % 65536 ≠ t % 65536) (j : Nat) :
    (s.statZero i t).rdw .statCnt x j = s.rdw .statCnt x j ∧ (s.statZero i t).rd .statOvf x j = s.rd .statOvf x j := by
  refine ⟨?_, ?_⟩
  · rw [State.statZero_rdw, rdw_wrw_inst _ _ _ _ h, rdw_wrw_inst _ _ _ _ h]
  · unfold State.statZero
    rw [State.clearBit_inst _ _ _ h, State.clearBit_inst _ _ _ h]
    rfl

theorem State.statZero_pair {i j : Nat} (hi : i < 8192) (hj : j < 16384) (h : j / 2 ≠ i) (t x : Nat) :
    (s.statZero i t).rdw .statCnt x j = s.rdw .statCnt x j := by
  rw [State.statZero_rdw, rdw_wrw_word _ _ _ _ (by omega), rdw_wrw_word _ _ _ _ (by omega)]

/-- The tiles a STAT_CMD names. -/
def statTiles (t : Nat) (all : Bool) : List Nat := if all then List.range 16 else [t]

/-- What STAT_CMD with GO does. -/
def State.statZeros (i t : Nat) (all : Bool) : State := s.each (statTiles t all) fun x u => u.statZero i x

/-- The word of a STAT_CMD with GO (R358). -/
def statWord (i t : Nat) (all : Bool) : Nat := i + t * 2 ^ 13 + b2n all * 2 ^ 17 + 2 ^ 31

theorem statWord_fields {i t : Nat} (hi : i < 8192) (ht : t < 16) (all : Bool) :
    (BitVec.ofNat 32 (statWord i t all)).toNat = statWord i t all ∧ bits (statWord i t all) 12 0 = i ∧ bits (statWord i t all) 16 13 = t ∧
      bitAt (statWord i t all) 17 = all ∧ bitAt (statWord i t all) 31 = true := by
  have hb : b2n all ≤ 1 := by cases all <;> decide
  unfold bits bitAt
  rw [Nat.testBit_eq_decide_div_mod_eq, Nat.testBit_eq_decide_div_mod_eq, BitVec.toNat_ofNat, Nat.shiftRight_eq_div_pow, Nat.shiftRight_eq_div_pow,
    decide_eq_true_eq]
  unfold statWord
  refine ⟨by omega, by omega, by omega, ?_, by omega⟩
  cases all
  · exact decide_eq_false (by rw [show b2n false = 0 from rfl]; omega)
  · exact decide_eq_true (by rw [show b2n true = 1 from rfl]; omega)

theorem State.statCmd_word {i t : Nat} (hi : i < 8192) (ht : t < 16) (all : Bool) :
    s.statCmd (BitVec.ofNat 32 (statWord i t all)) = s.statZeros i t all := by
  obtain ⟨hn, hidx, htile, hall, hgo⟩ := statWord_fields hi ht all
  unfold State.statCmd
  dsimp only
  rw [hn, hidx, htile, hall, if_pos hgo]
  rfl

theorem execStatClear_eq {i t : Nat} (hi : i < 8192) (ht : t < 16) (all : Bool) : execStatClear i t all s = .next (s.statZeros i t all) :=
  congrArg Host.Outcome.next (s.statCmd_word hi ht all)

theorem State.statZeros_clear {i t : Nat} (all : Bool) {x : Nat} (hx : x < 16) (h : all = true ∨ x = t) : (s.statZeros i t all).StatClear i x := by
  have hmem : x ∈ statTiles t all := by
    unfold statTiles
    split
    case isTrue => exact List.mem_range.2 hx
    case isFalse hall => exact List.mem_singleton.2 (h.resolve_left hall)
  exact State.each_sets (P := fun u => u.StatClear i x) s hmem (fun u => u.statZero_clear i x) fun b u hu => u.statZero_stays b hu

theorem State.statZeros_others {i t x : Nat} (ht : t < 16) (hx : x < 16) (h : x ≠ t) (j : Nat) :
    (s.statZeros i t false).rdw .statCnt x j = s.rdw .statCnt x j ∧ (s.statZeros i t false).rd .statOvf x j = s.rd .statOvf x j :=
  s.statZero_tile (by omega) j

theorem State.statZeros_pair {i j : Nat} (t : Nat) (all : Bool) (hi : i < 8192) (hj : j < 16384) (h : j / 2 ≠ i) (x : Nat) :
    (s.statZeros i t all).rdw .statCnt x j = s.rdw .statCnt x j :=
  State.each_view (fun u => u.rdw .statCnt x j) fun b u => u.statZero_pair hi hj h b x

theorem State.statZeros_only (i t : Nat) (all : Bool) : OnlyRegs [.statOvf] s (s.statZeros i t all) ∧ OnlyWide [.statCnt] s (s.statZeros i t all) :=
  State.each_ind (P := fun u => OnlyRegs [.statOvf] s u ∧ OnlyWide [.statCnt] s u) ⟨.refl _ s, .refl _ s⟩ fun _ _ hu =>
    ⟨((hu.1.wrw _ _ _ _).wrw _ _ _ _ |>.wr _ _ _ List.mem_cons_self).wr _ _ _ List.mem_cons_self,
      ((hu.2.wrw _ _ _ List.mem_cons_self).wrw _ _ _ List.mem_cons_self |>.wr _ _ _ _).wr _ _ _ _⟩

/-! ## PC_CFG and GRP_CTL (R358, R361, R373) -/

theorem State.underRight_shut {f bit a : Nat} (act : State → State) (h : s.flag F.dawnStatus_READY = false ∨ s.flag F.fnStatus_FROZEN f = true) :
    s.underRight f bit a act = s := if_pos h

theorem State.underRight_without {f bit a : Nat} (act : State → State) (hr : s.flag F.dawnStatus_READY = true)
    (hf : s.flag F.fnStatus_FROZEN f = false) (hb : s.hasRight f bit = false) : s.underRight f bit a act = s.violation f 1 a 0 :=
  (if_neg (by rw [hr, hf]; decide)).trans (if_neg (by rw [hb]; decide))

theorem State.underRight_may {f bit a : Nat} (act : State → State) (h : MayWrite s f bit) : s.underRight f bit a act = act s := by
  obtain ⟨hr, hf, hb⟩ := h
  exact (if_neg (by rw [hr, hf]; decide)).trans (if_pos hb)

theorem State.violation_rd_pc (f a t j : Nat) : (s.violation f 1 a 0).rd .pcCfg t j = s.rd .pcCfg t j :=
  (State.violation_keeps (.rfl' (.avoid [.pcCfg]) s) f 1 a 0).rd .pcCfg t j rfl

theorem State.violation_rd_grp (f a g : Nat) : (s.violation f 1 a 0).rd .grpCtl g = s.rd .grpCtl g :=
  (State.violation_keeps (.rfl' (.avoid [.grpCtl]) s) f 1 a 0).rd .grpCtl g 0 rfl

/-- PC_CFG by its group's owner. -/
def State.pcOwned (s : State) (t k : Nat) (v : Word) : State :=
  if bitAt v.toNat 31 then ((s.wr .pcCfg (v &&& 0xFFFFFF#32) t k).wrw .pcVal 0 t k).clearBit .pcOvf t k else s.wr .pcCfg (v &&& 0xFFFFFF#32) t k

theorem State.pcCfgWrite_owner {f t k : Nat} (v : Word) (h : s.fget F.grpCtl_OWNER (groupOf t k) = f) :
    s.pcCfgWrite f t k v = s.pcOwned t k v := if_neg (fun hn => hn h)

theorem State.pcCfgWrite_foreign {f t k : Nat} (v : Word) (h : s.fget F.grpCtl_OWNER (groupOf t k) ≠ f) :
    s.pcCfgWrite f t k v = s.bump .cntForeignWr := if_pos h

theorem State.pcOwned_spec (t : Nat) {k : Nat} (hk : k < 2048) (v : Word) : (s.pcOwned t k v).rd .pcCfg t k = v &&& 0xFFFFFF#32 ∧
    OnlyRegs [.pcCfg, .pcOvf] s (s.pcOwned t k v) ∧ OnlyWide [.pcVal] s (s.pcOwned t k v) ∧
    (∀ j : Fin 2048, j.val ≠ k → (s.pcOwned t k v).rdw .pcVal t j = s.rdw .pcVal t j) ∧
    (v.getLsbD 31 = true → (s.pcOwned t k v).rdw .pcVal t k = 0 ∧ ((s.pcOwned t k v).rd .pcOvf t (k / 32)).getLsbD (k % 32) = false) ∧
    (v.getLsbD 31 = false → (s.pcOwned t k v).rdw .pcVal t k = s.rdw .pcVal t k ∧ ∀ j, (s.pcOwned t k v).rd .pcOvf t j = s.rd .pcOvf t j) := by
  have hbit : bitAt v.toNat 31 = v.getLsbD 31 := rfl
  unfold State.pcOwned
  rw [hbit]
  cases hv : v.getLsbD 31
  · rw [if_neg Bool.false_ne_true]
    exact ⟨rd_wr_same _ _ _ _ _, (OnlyRegs.refl _ s).wr _ _ _ List.mem_cons_self, (OnlyWide.refl _ s).wr _ _ _ _, fun _ _ => rfl,
      fun h => absurd h Bool.false_ne_true, fun _ => ⟨rfl, fun j => rd_wr_reg s _ _ _ _ _ (by decide)⟩⟩
  · rw [if_pos rfl]
    refine ⟨?_, ?_, ?_, fun j hj => ?_, fun _ => ⟨rdw_wrw_same _ _ _ _ _, State.clearBit_same _ _ _ _⟩, fun h => absurd h.symm Bool.false_ne_true⟩
    · exact (rd_wr_reg _ _ _ _ _ _ (by decide)).trans (rd_wr_same s _ _ _ _)
    · exact (((OnlyRegs.refl _ s).wr _ _ _ List.mem_cons_self).wrw _ _ _ _).wr _ _ _ (by decide)
    · exact (((OnlyWide.refl _ s).wr _ _ _ _).wrw _ _ _ List.mem_cons_self).wr _ _ _ _
    · have := j.isLt
      exact rdw_wrw_word _ _ _ _ (by omega)

section
variable (f g : Nat) (v : Word)

/-- A foreign write counted. -/
def State.grpCounted : State := if f ≠ 0 ∧ f ≠ s.fget F.grpCtl_OWNER g then s.bump .cntForeignWr else s

/-- PF0 gives a group another owner. -/
def State.grpGiven : State :=
  if f = 0 ∧ bits v.toNat 1 0 ≠ s.fget F.grpCtl_OWNER g then
    ((s.grpCounted f g).fset F.grpCtl_OWNER (bits v.toNat 1 0) g).fset F.grpCtl_USER_EN 0 g
  else s.grpCounted f g

theorem State.grpCtlWrite_eq : s.grpCtlWrite f g v =
    if f = s.fget F.grpCtl_OWNER g ∧ (s.grpGiven f g v).fget F.grpCtl_OWNER g = s.fget F.grpCtl_OWNER g then
      (s.grpGiven f g v).fset F.grpCtl_USER_EN (bits v.toNat 2 2) g
    else s.grpGiven f g v := rfl

theorem bits_two_bit (n k : Nat) : bits n k k % 2 = 1 ↔ bitAt n k = true := by
  unfold bits bitAt
  rw [Nat.add_sub_cancel_left, Nat.shiftRight_eq_div_pow, Nat.testBit_eq_decide_div_mod_eq, decide_eq_true_eq]
  omega

variable {f g}

theorem State.grpGiven_change (h0 : f = 0) (h : bits v.toNat 1 0 ≠ s.fget F.grpCtl_OWNER g) :
    s.grpGiven f g v = (s.fset F.grpCtl_OWNER (bits v.toNat 1 0) g).fset F.grpCtl_USER_EN 0 g := by
  unfold State.grpGiven State.grpCounted
  rw [if_pos ⟨h0, h⟩, if_neg fun hx => hx.1 h0]

theorem State.grpGiven_same (h : ¬ (f = 0 ∧ bits v.toNat 1 0 ≠ s.fget F.grpCtl_OWNER g)) : s.grpGiven f g v = s.grpCounted f g := if_neg h

theorem State.grpCounted_native (h : f = 0 ∨ f = s.fget F.grpCtl_OWNER g) : s.grpCounted f g = s := if_neg fun hx => h.elim hx.1 hx.2

/-- PF0 gives a group another owner. -/
theorem State.grpCtlWrite_change (h0 : f = 0) (h : bits v.toNat 1 0 ≠ s.fget F.grpCtl_OWNER g) :
    s.grpCtlWrite f g v = (s.fset F.grpCtl_OWNER (bits v.toNat 1 0) g).fset F.grpCtl_USER_EN 0 g := by
  rw [s.grpCtlWrite_eq, s.grpGiven_change v h0 h]
  refine if_neg fun hx => h (Eq.trans ?_ hx.2)
  rw [fget_fset_off _ _ _ _ _ _ (by decide) (by decide) (by decide), fget_fset_same _ _ _ _ _ (by decide) (by decide)]
  exact (Nat.mod_mod _ _).symm

/-- The group's owner writes USER_EN. -/
theorem State.grpCtlWrite_owner (hf : f = s.fget F.grpCtl_OWNER g) (h : f = 0 → bits v.toNat 1 0 = s.fget F.grpCtl_OWNER g) :
    s.grpCtlWrite f g v = s.fset F.grpCtl_USER_EN (bits v.toNat 2 2) g := by
  rw [s.grpCtlWrite_eq, s.grpGiven_same v fun hx => hx.2 (h hx.1), s.grpCounted_native (Or.inr hf)]
  exact if_pos ⟨hf, rfl⟩

theorem State.grpCtlWrite_foreign (hf : f ≠ s.fget F.grpCtl_OWNER g) (h : f ≠ 0) : s.grpCtlWrite f g v = s.bump .cntForeignWr := by
  rw [s.grpCtlWrite_eq, s.grpGiven_same v fun hx => h hx.1, if_neg fun hx => hf hx.1]
  exact if_pos ⟨h, hf⟩

theorem State.grpCtlWrite_none (hf : f ≠ s.fget F.grpCtl_OWNER g) (h0 : f = 0) (h : bits v.toNat 1 0 = s.fget F.grpCtl_OWNER g) :
    s.grpCtlWrite f g v = s := by
  rw [s.grpCtlWrite_eq, s.grpGiven_same v fun hx => hx.2 h, if_neg fun hx => hf hx.1]
  exact s.grpCounted_native (Or.inl h0)

/-- A write of GRP_CTL writes its own group's word alone. -/
theorem State.grpCtlWrite_only (hg : g < 256) : OnlyRegs [.grpCtl] s (s.grpCtlWrite f g v) ∧
    ∀ x : Fin 256, x.val ≠ g → (s.grpCtlWrite f g v).rd .grpCtl x = s.rd .grpCtl x := by
  have hset : ∀ (u : State) (n : Nat) (x : Fin 256), x.val ≠ g → (u.wr .grpCtl n g).rd .grpCtl x = u.rd .grpCtl x := fun u n x hx => by
    have := x.isLt
    exact rd_wr_inst u _ _ _ (by omega)
  have hgiven : ∀ n, OnlyRegs [.grpCtl] s ((s.fset F.grpCtl_OWNER n g).fset F.grpCtl_USER_EN 0 g) ∧
      ∀ x : Fin 256, x.val ≠ g → ((s.fset F.grpCtl_OWNER n g).fset F.grpCtl_USER_EN 0 g).rd .grpCtl x = s.rd .grpCtl x := fun n =>
    ⟨((OnlyRegs.refl _ s).fset (f := F.grpCtl_OWNER) _ _ _ List.mem_cons_self).fset (f := F.grpCtl_USER_EN) _ _ _ List.mem_cons_self,
      fun x hx => (hset _ _ x hx).trans (hset _ _ x hx)⟩
  by_cases hf : f = s.fget F.grpCtl_OWNER g
  · by_cases hw : f = 0 → bits v.toNat 1 0 = s.fget F.grpCtl_OWNER g
    · rw [s.grpCtlWrite_owner v hf hw]
      exact ⟨(OnlyRegs.refl _ s).fset _ _ _ List.mem_cons_self, fun x hx => hset _ _ x hx⟩
    · rw [Classical.not_imp] at hw
      rw [s.grpCtlWrite_change v hw.1 hw.2]
      exact hgiven _
  · by_cases h0 : f = 0
    · by_cases hw : bits v.toNat 1 0 = s.fget F.grpCtl_OWNER g
      · rw [s.grpCtlWrite_none v hf h0 hw]
        exact ⟨.refl _ s, fun _ _ => rfl⟩
      · rw [s.grpCtlWrite_change v h0 hw]
        exact hgiven _
    · rw [s.grpCtlWrite_foreign v hf h0]
      exact ⟨fun _ _ _ _ => rfl, fun _ _ => rfl⟩
end

theorem State.bar4Write_ready (h : s.flag F.dawnStatus_READY = true) : s.bar4Write = s.bump .cntBar4Wr := by
  unfold State.bar4Write
  rw [h]
  rfl

theorem State.bar4Write_early (h : s.flag F.dawnStatus_READY = false) : s.bar4Write = s := by
  unfold State.bar4Write
  rw [h]
  rfl
end

theorem countersAndGroups : Claims.CountersAndGroups := by
  intro s f
  refine ⟨fun i t all => ?_, fun t k g v => ⟨fun h => ?_, fun hr hf hb => ?_⟩, fun t k v hmay => ⟨fun hoff => ?_, fun hon ho => ?_, fun hon ho => ?_⟩,
    fun g v hmay => ?_, fun off v h => ?_, fun off v h => ?_, fun g off h => ?_⟩
  · obtain ⟨hregs, hwide⟩ := s.statZeros_only i t all
    refine ⟨_, execStatClear_eq s i.isLt t.isLt all, hregs, hwide, fun x => ⟨fun h => ?_, fun hall hx j => ?_, fun j hj => ?_⟩⟩
    · exact s.statZeros_clear all x.isLt (h.imp_right fun he => congrArg Fin.val he)
    · subst hall
      exact s.statZeros_others t.isLt x.isLt (fun he => hx (Fin.ext he)) j
    · exact s.statZeros_pair t all i.isLt j.isLt hj x
  · exact ⟨congrArg Host.Outcome.next (s.underRight_shut _ h), congrArg Host.Outcome.next (s.underRight_shut _ h)⟩
  · obtain ⟨hpf, hpk⟩ := State.violation_freezes (s := s) (f := f) (kind := 1) (haloBase t + 0x4000 + 4 * k) 0 hf (by decide)
    obtain ⟨hgf, hgk⟩ := State.violation_freezes (s := s) (f := f) (kind := 1) (0x3603000 + 4 * g) 0 hf (by decide)
    exact ⟨⟨_, congrArg Host.Outcome.next (s.underRight_without _ hr hf hb), hpf, hpk, fun j => s.violation_rd_pc _ _ _ _⟩,
      _, congrArg Host.Outcome.next (s.underRight_without _ hr hf hb), hgf, hgk, s.violation_rd_grp _ _ _⟩
  · refine congrArg Host.Outcome.next ((s.underRight_may _ hmay).trans ?_)
    rw [hoff]
    rfl
  · refine ⟨_, congrArg Host.Outcome.next ((s.underRight_may _ hmay).trans (Eq.trans ?_ (s.pcCfgWrite_owner v ho))), ?_⟩
    · rw [hon]
      rfl
    · obtain ⟨hcfg, hregs, hwide, hval, hclr, hkeep⟩ := s.pcOwned_spec t k.isLt v
      exact ⟨hcfg, hregs, hwide, fun j hj => hval j fun he => hj (Fin.ext he), hclr, hkeep⟩
  · refine congrArg Host.Outcome.next ((s.underRight_may _ hmay).trans (Eq.trans ?_ (s.pcCfgWrite_foreign v ho)))
    rw [hon]
    rfl
  · obtain ⟨hregs, hother⟩ := s.grpCtlWrite_only (f := f) v g.isLt
    have hzero : f = 0 ↔ f.val = 0 := Fin.ext_iff
    refine ⟨_, congrArg Host.Outcome.next (s.underRight_may _ hmay), hregs, fun x hx => hother x fun he => hx (Fin.ext he), fun h0 hne => ?_,
      fun hf h => ?_, fun hf h0 => ?_, fun hf h0 h => ?_⟩
    · rw [s.grpCtlWrite_change v (hzero.1 h0) hne]
      refine ⟨?_, flag_fset_none _ _ _ _ rfl (by decide)⟩
      rw [fget_fset_off _ _ _ _ _ _ (by decide) (by decide) (by decide), fget_fset_same _ _ _ _ _ (by decide) (by decide)]
      exact Nat.mod_mod _ _
    · rw [s.grpCtlWrite_owner v hf fun h0 => h (hzero.2 h0)]
      refine ⟨fget_fset_off _ _ _ _ _ _ (by decide) (by decide) (by decide), ?_⟩
      rw [flag_fset_same _ _ _ _ _ rfl (by decide)]
      exact Bool.eq_iff_iff.2 (decide_eq_true_iff.trans (bits_two_bit _ _))
    · rw [s.grpCtlWrite_foreign v hf fun h => h0 (hzero.2 h)]
      exact ⟨rfl, rdw_bump_same s _ 0 0 1⟩
    · rw [s.grpCtlWrite_none v hf (hzero.1 h0) h]
  · exact congrArg Host.Outcome.next (s.bar4Write_early h)
  · exact ⟨_, congrArg Host.Outcome.next (s.bar4Write_ready h), rdw_bump_same s _ 0 0 1, fun _ _ _ _ => rfl,
      (OnlyWide.refl _ s).wrw _ _ _ List.mem_cons_self, rfl, rfl⟩
  · exact if_pos h

/-- Settles O34: each class's bins by the one run of its two values among the ports and classes of the tile; the counter and group commands by
their writers. -/
theorem samplesCountersAndGroups : Obligations.SamplesCountersAndGroups := ⟨samplesAndHistograms, countersAndGroups⟩

end Sys2Proof.Machine
end

section
/-!
PROOF. Enabling rings, doorbells and INVALIDATE (R377, R378, R380, R382, R384, R385, R389 to R391, R402, R484).
-/

set_option Elab.async false
set_option exponentiation.threshold 4096
set_option maxRecDepth 20000

namespace Sys2Proof.Machine

/-! ## Ring errors (R391, R402) -/

/-- Everything but host memory. -/
def Touch.butMem : Touch := { Touch.all with mem := false }

section
variable (s : State)

/-- A ring's error in the registers, before it is posted and reported. -/
def State.ringErrored (s : State) (r cause : Nat) (idx : Word) : State :=
  ((s.wr .ringErr idx r).fset F.ringErr_CAUSE cause r).fset F.ringStatus_STATE 2 r

theorem State.ringError_keeps_errored (r cause : Nat) (idx : Word) :
    Keeps (.avoid [.ringStatus, .ringErr]) (s.ringErrored r cause idx) (s.ringError r cause idx) :=
  State.report_keeps (State.postFn_keeps (.rfl' _ _) _ _ _) _ _ _

theorem State.ringError_mem (r cause : Nat) (idx : Word) : (s.ringError r cause idx).host.mem = s.host.mem :=
  (State.ringError_keeps (.rfl' .butMem s) r cause idx).mem rfl

/-- What a ring's error leaves in its registers. -/
theorem State.ringError_spec (r : Nat) {cause : Nat} (idx : Word) (hc : cause < 8) : (s.ringError r cause idx).ringState r = 2 ∧
    (s.ringError r cause idx).fget F.ringErr_CAUSE r = cause ∧ (s.ringError r cause idx).fget F.ringErr_INDEX r = bits idx.toNat 15 0 := by
  have hk := s.ringError_keeps_errored r cause idx
  unfold State.ringState
  rw [hk.fget F.ringStatus_STATE r 0 rfl, hk.fget F.ringErr_CAUSE r 0 rfl, hk.fget F.ringErr_INDEX r 0 rfl]
  unfold State.ringErrored
  refine ⟨fget_fset_same _ _ _ _ _ (by decide) (by decide), ?_, ?_⟩
  · rw [fget_fset_reg _ _ _ _ _ _ (by decide), fget_fset_same _ _ _ _ _ (by decide) (by decide)]
    exact Nat.mod_eq_of_lt hc
  · rw [fget_fset_reg _ _ _ _ _ _ (by decide), fget_fset_off _ _ _ _ _ _ (by decide) (by decide) (by decide)]
    exact congrArg (fun w : Word => bits w.toNat 15 0) (rd_wr_same s .ringErr idx r 0)

theorem State.ringError_ringT (r q cause : Nat) (idx : Word) : (s.ringError r cause idx).ringT q = s.ringT q := by
  have h := State.ringError_keeps (.rfl' (.avoid [.ringTail, .ringCtl]) s) r cause idx
  unfold State.ringT State.ringSize
  rw [h.fget F.ringTail_IDX q 0 rfl, h.fget F.ringTail_WRAP q 0 rfl, h.fget F.ringCtl_SIZE_LOG2 q 0 rfl]

/-! ## The first violation (R377 to R379) -/

/-- The violation in the function's registers. -/
def State.violLogged (s : State) (f kind addr : Nat) : State :=
  ((s.wrw .violAddr (BitVec.ofNat 64 addr) f).fset F.fnStatus_KIND kind f).fset F.fnStatus_FROZEN 1 f

/-- A ring of a frozen function. -/
def State.ringFreeze (s : State) (f r : Nat) : State :=
  if s.ringOwnerOf r = f ∧ (s.ringState r = 1 ∨ s.ringState r = 2) then (s.clearRing r).fset F.ringStatus_STATE 3 r else s

def State.ringsFreeze (s : State) (f : Nat) : State := forN 1024 (fun r s => s.ringFreeze f r) s
def State.channelsFreeze (s : State) (f : Nat) : State := forN 32 (fun n s => if s.chOwned f n then s.chFreeze n else s) s

theorem State.violation_first {f kind addr ring : Nat} (h : s.flag F.fnStatus_FROZEN f = false) : s.violation f kind addr ring =
    ((((s.violLogged f kind addr).ringsFreeze f).channelsFreeze f).report (srcRing f) 0x11 (ring + kind * 65536)).postFn 0 0x0603 (f + kind * 256) :=
  if_neg (by rw [h]; exact Bool.false_ne_true)

theorem State.violation_mem (f kind addr ring : Nat) : (s.violation f kind addr ring).host.mem = s.host.mem :=
  (State.violation_keeps (.rfl' .butMem s) f kind addr ring).mem rfl

theorem State.channelsFreeze_keeps (f : Nat) : Keeps (.avoid [.ringStatus, .violAddr]) s (s.channelsFreeze f) :=
  forN_keeps (.rfl' _ s) fun n u hu => keeps_ite (State.chFreeze_keeps hu n) hu

/-- The rings' part in a view of the status of one ring. -/
theorem State.violation_ringStatus {f kind addr ring : Nat} (h : s.flag F.fnStatus_FROZEN f = false) (q : Nat) :
    (s.violation f kind addr ring).ringState q = ((s.violLogged f kind addr).ringsFreeze f).ringState q := by
  rw [s.violation_first h]
  exact (State.postFn_keeps (State.report_keeps (State.channelsFreeze_keeps _ f) _ _ _) _ _ _).fget F.ringStatus_STATE q 0 rfl

theorem State.violation_violAddr {f kind addr ring : Nat} (h : s.flag F.fnStatus_FROZEN f = false) :
    (s.violation f kind addr ring).rdw .violAddr f = BitVec.ofNat 64 addr := by
  have hrings : Keeps (.avoid [.violAddr]) (s.violLogged f kind addr) ((s.violLogged f kind addr).ringsFreeze f) :=
    forN_keeps (.rfl' _ _) fun r u hu => keeps_ite (State.fset_keeps (State.clearRing_keeps hu r) F.ringStatus_STATE 3 r 0) hu
  have hchannels : Keeps (.avoid [.violAddr]) (s.violLogged f kind addr) (((s.violLogged f kind addr).ringsFreeze f).channelsFreeze f) :=
    forN_keeps hrings fun n u hu => keeps_ite (State.chFreeze_keeps hu n) hu
  rw [s.violation_first h, (State.postFn_keeps (State.report_keeps hchannels _ _ _) _ _ _).rdw .violAddr f 0 rfl]
  exact rdw_wrw_same s _ _ _ _

theorem State.clearRing_ringState (r q : Nat) : (s.clearRing r).ringState q = s.ringState q := by
  unfold State.clearRing State.putRing State.ringState
  dsimp only
  rw [State.setRing_fget, fget_fset_off _ _ _ _ _ _ (by decide) (by decide) (by decide), fget_fset_off _ _ _ _ _ _ (by decide) (by decide) (by decide)]
  rfl

/-- The owner and state of a ring. -/
def State.ringPart (s : State) (q : Nat) : Nat × Nat := (s.ringOwnerOf q, s.ringState q)

theorem State.ringFreeze_part (f r q : Nat) (hr : r < 1024) (hq : q < 1024) : (s.ringFreeze f r).ringPart q =
    if r = q ∧ s.ringOwnerOf q = f ∧ (s.ringState q = 1 ∨ s.ringState q = 2) then (s.ringOwnerOf q, 3) else s.ringPart q := by
  have hown : (s.ringFreeze f r).ringOwnerOf q = s.ringOwnerOf q :=
    (keeps_ite (State.fset_keeps (State.clearRing_keeps (.rfl' (.avoid [.ringOwner]) s) r) F.ringStatus_STATE 3 r 0) (.rfl' _ s)).fget F.ringOwner_OWNER q 0 rfl
  refine Prod.ext ?_ ?_
  · exact hown.trans (by split <;> rfl)
  · by_cases hrq : r = q
    · subst hrq
      unfold State.ringFreeze
      by_cases hx : s.ringOwnerOf r = f ∧ (s.ringState r = 1 ∨ s.ringState r = 2)
      · rw [if_pos hx, if_pos ⟨rfl, hx⟩]
        exact fget_fset_same _ _ _ _ _ (by decide) (by decide)
      · rw [if_neg hx, if_neg fun h => hx h.2]
    · rw [if_neg fun h => hrq h.1]
      unfold State.ringFreeze
      split
      · exact (fget_fset_inst _ _ _ _ (by omega)).trans (s.clearRing_ringState r q)
      · rfl

theorem State.ringsFreeze_state (f : Nat) {q : Nat} (hq : q < 1024) : (s.ringsFreeze f).ringState q =
    if s.ringOwnerOf q = f ∧ (s.ringState q = 1 ∨ s.ringState q = 2) then 3 else s.ringState q := by
  have hview : (s.ringsFreeze f).ringPart q = if q < 1024 then (s.ringFreeze f q).ringPart q else s.ringPart q :=
    forN_view (fun u : State => u.ringPart q) q s (fun k u hk hne => (u.ringFreeze_part f k q hk hq).trans (if_neg fun h => hne h.1)) fun u w huw => by
      obtain ⟨ho, hs⟩ := Prod.mk.inj huw
      rw [u.ringFreeze_part f q q hq hq, w.ringFreeze_part f q q hq hq, ho, hs, huw]
  rw [if_pos hq, s.ringFreeze_part f q q hq hq] at hview
  refine (congrArg Prod.snd hview).trans ?_
  by_cases h : s.ringOwnerOf q = f ∧ (s.ringState q = 1 ∨ s.ringState q = 2)
  · rw [if_pos ⟨rfl, h⟩, if_pos h]
  · rw [if_neg fun hx => h hx.2, if_neg h]
    rfl

/-- Logging a violation writes the function's registers alone. -/
theorem State.violLogged_fget (f kind addr : Nat) {g : Fld} (hg : g.reg ≠ .fnStatus) (i j : Nat) :
    (s.violLogged f kind addr).fget g i j = s.fget g i j := by
  unfold State.violLogged
  rw [fget_fset_reg _ _ _ _ _ _ hg, fget_fset_reg _ _ _ _ _ _ hg]
  rfl

/-- After a first violation: the function's ACTIVE and ERROR rings are FROZEN, every other ring's state stands. -/
theorem State.violation_state {f kind addr ring : Nat} (h : s.flag F.fnStatus_FROZEN f = false) {q : Nat} (hq : q < 1024) :
    (s.violation f kind addr ring).ringState q = if s.ringOwnerOf q = f ∧ (s.ringState q = 1 ∨ s.ringState q = 2) then 3 else s.ringState q := by
  rw [s.violation_ringStatus h q, State.ringsFreeze_state _ f hq]
  unfold State.ringOwnerOf State.ringState
  rw [s.violLogged_fget f kind addr (by decide), s.violLogged_fget f kind addr (by decide)]

/-! ## The enable of a ring (R380, R382, R391) -/

theorem State.ring_of_host {s u : State} (h : u.host = s.host) (r : Nat) : u.ring r = s.ring r := congrArg (fun x : HostSt => tget x.rings r {}) h

theorem State.putRing_ring (r : Nat) (q : RingSt) : (s.putRing r q).ring r = q :=
  (State.ring_of_host (State.fset_host _ _ _ _ _) r).trans (s.setRing_ring r q)

theorem State.clearRing_ring (r : Nat) : ((s.clearRing r).ring r).fetched = [] ∧ ((s.clearRing r).ring r).started = [] := by
  obtain ⟨u, hu⟩ : ∃ u, u = (s.putRing r { gen := (s.ring r).gen + 1 }).fset F.ringStatus_HOLD 0 r := ⟨_, rfl⟩
  have hr : u.ring r = { gen := (s.ring r).gen + 1 } := by
    rw [hu, State.ring_of_host (State.fset_host _ _ _ _ _)]
    exact s.putRing_ring r _
  have heq : s.clearRing r = u.setRing (s.fget F.ringCtl_CQ r)
      { u.ring (s.fget F.ringCtl_CQ r) with ready := (u.ring (s.fget F.ringCtl_CQ r)).ready.filter (fun e => decide (e.src ≠ r)) } := by rw [hu]; rfl
  rw [heq]
  by_cases hc : r = s.fget F.ringCtl_CQ r
  · rw [← hc, State.setRing_ring, hr]
    exact ⟨rfl, rfl⟩
  · rw [State.setRing_ring_ne _ _ _ _ hc, hr]
    exact ⟨rfl, rfl⟩

theorem State.clearRing_onlyRegs (r : Nat) : OnlyRegs [.ringStatus] s (s.clearRing r) := (State.clearRing_keeps (.rfl' (.onRegs [.ringStatus]) s) r).onlyRegs
theorem State.clearRing_mem (r : Nat) : (s.clearRing r).host.mem = s.host.mem := (State.clearRing_keeps (.rfl' .butMem s) r).mem rfl

/-- RING_CTL as an enable leaves it. -/
def State.ringCtlEnabled (s : State) (r : Nat) (v : Word) : State := s.wr .ringCtl ((v ||| 0x80000000#32) &&& 0x83FFFFFF#32) r

/-- A ring made ACTIVE. -/
def State.ringActive (s : State) (r : Nat) : State :=
  ((((s.clearRing r).wr .ringHead 0 r).wr .ringTail 0 r).wr .ringErr 0 r).fset F.ringStatus_STATE 1 r

/-- An enable that R378, R382 and R484 let through. -/
def State.ringEnabled (s : State) (r : Nat) (v : Word) : State :=
  let s1 := s.ringCtlEnabled r v
  let f := s1.ringOwnerOf r
  let base := (s1.rdw .ringBase r).toNat
  if !s1.ringCfgOk r then s1.ringError r 5 0
  else if s1.hostOk f base (32 * s1.ringSize r) false ∧ s1.hostOk f base (32 * s1.ringSize r) true = true then s1.ringActive r
  else s1.violation f 4 base r

theorem bitAt_enable (v : Word) : bitAt (v ||| 0x80000000#32).toNat 31 = true := by
  have : (v ||| 0x80000000#32).getLsbD 31 = true := by
    rw [BitVec.getLsbD_or]
    exact Bool.or_eq_true_iff.2 (Or.inr (by decide))
  exact this

theorem State.ringCtlWrite_enable {r : Nat} (v : Word) (h : s.ringState r = 0) : s.ringCtlWrite r (v ||| 0x80000000#32) = s.ringEnabled r v := by
  unfold State.ringCtlWrite
  rw [if_neg fun hx => hx h, if_pos (bitAt_enable v)]
  rfl

theorem State.ringCtlWrite_busy {r : Nat} (v : Word) (h : s.ringState r ≠ 0) : s.ringCtlWrite r v = s := if_pos h

/-- A field of RING_CTL that the enable keeps. -/
theorem State.ringCtlEnabled_fget (r : Nat) (v : Word) {f : Fld} (hr : f.reg = .ringCtl)
    (hand : bits (0x83FFFFFF#32).toNat f.hi f.lo = 2 ^ (f.hi + 1 - f.lo) - 1) (hor : bits (0x80000000#32).toNat f.hi f.lo = 0) :
    (s.ringCtlEnabled r v).fget f r = bits v.toNat f.hi f.lo := by
  unfold State.ringCtlEnabled State.fget
  rw [hr, rd_wr_same, bits_and_mask _ hand, bits_or_mask _ hor]

theorem State.ringCtlEnabled_rd (r : Nat) (v : Word) {n : RName} (h : n ≠ .ringCtl) (i j : Nat) : (s.ringCtlEnabled r v).rd n i j = s.rd n i j :=
  rd_wr_reg s _ _ _ _ _ h

theorem State.ringCtlEnabled_other (r : Nat) (v : Word) {f : Fld} (h : f.reg ≠ .ringCtl) (i j : Nat) :
    (s.ringCtlEnabled r v).fget f i j = s.fget f i j := fget_of_rd f (s.ringCtlEnabled_rd r v h i j)

theorem State.ringCtlEnabled_rightOk (r : Nat) (v : Word) : (s.ringCtlEnabled r v).ringRightOk r = s.ringRightOk r := by
  have hrights : ∀ f, (s.ringCtlEnabled r v).rights f = s.rights f := fun f => s.ringCtlEnabled_other r v (by decide) f 0
  unfold State.ringRightOk State.hasRight State.ringOwnerOf State.ringTypeOf
  simp only [hrights, s.ringCtlEnabled_other r v (f := F.ringOwner_OWNER) (by decide), s.ringCtlEnabled_other r v (f := F.ringOwner_TYPE) (by decide)]

/-- The table command rings that are ACTIVE (R380). -/
def State.tableRings (s : State) : Nat := ((List.range 1024).filter (fun q => decide (s.ringTypeOf q = 3) && decide (s.ringState q = 1))).length

/-- The checks of an enable that end in cause CFG (R382), for a written SIZE_LOG2 and CQ. -/
def State.EnableBad (s : State) (r z c : Nat) : Prop :=
  s.ringRightOk r = false ∨ z < 6 ∨ 16 < z ∨ ((s.ringTypeOf r = 1 ∨ s.ringTypeOf r = 3) ∧ (s.ringTypeOf c ≠ 6 ∨ s.ringOwnerOf c ≠ s.ringOwnerOf r)) ∨
    (s.ringTypeOf r = 3 ∧ 4 ≤ s.tableRings)

theorem State.ringCtlEnabled_cfgOk (r : Nat) (v : Word) :
    (s.ringCtlEnabled r v).ringCfgOk r = false ↔ s.EnableBad r (bits v.toNat 4 0) (bits v.toNat 14 5) := by
  have hz : (s.ringCtlEnabled r v).fget F.ringCtl_SIZE_LOG2 r = bits v.toNat 4 0 := s.ringCtlEnabled_fget r v rfl (by decide) (by decide)
  have hc : (s.ringCtlEnabled r v).fget F.ringCtl_CQ r = bits v.toNat 14 5 := s.ringCtlEnabled_fget r v rfl (by decide) (by decide)
  have hty : ∀ q, (s.ringCtlEnabled r v).ringTypeOf q = s.ringTypeOf q := fun q => s.ringCtlEnabled_other r v (by decide) q 0
  have how : ∀ q, (s.ringCtlEnabled r v).ringOwnerOf q = s.ringOwnerOf q := fun q => s.ringCtlEnabled_other r v (by decide) q 0
  have hst : ∀ q, (s.ringCtlEnabled r v).ringState q = s.ringState q := fun q => s.ringCtlEnabled_other r v (by decide) q 0
  have hact : ((List.range 1024).filter (fun q => decide ((s.ringCtlEnabled r v).ringTypeOf q = 3) &&
      decide ((s.ringCtlEnabled r v).ringState q = 1))).length = s.tableRings := by
    simp only [hty, hst]
    rfl
  unfold State.ringCfgOk State.EnableBad
  dsimp only
  rw [hact, hz, hc, hty, hty, how, how, s.ringCtlEnabled_rightOk r v]
  generalize s.tableRings = n
  generalize s.ringTypeOf r = ty
  simp only [Bool.and_eq_false_iff, decide_eq_false_iff_not, Bool.or_eq_false_iff, not_le, not_lt, not_not, Bool.not_eq_eq_eq_not,
    Bool.not_false, Bool.or_eq_true, decide_eq_true_eq, or_assoc]

theorem State.ringCtlEnabled_hostOk (r : Nat) (v : Word) (f a n : Nat) (w : Bool) : (s.ringCtlEnabled r v).hostOk f a n w = s.hostOk f a n w :=
  State.hostOk_congr f a n w (fun i j => s.ringCtlEnabled_rd r v (by decide) i j) (fun i j => s.ringCtlEnabled_rd r v (by decide) i j)
    (fun i j => s.ringCtlEnabled_rd r v (by decide) i j) fun i j => s.ringCtlEnabled_rd r v (by decide) i j

/-- The descriptor area lies in the owner's windows for both directions (R377). -/
def State.areaOk (s : State) (r z : Nat) : Prop :=
  s.hostOk (s.ringOwnerOf r) (s.rdw .ringBase r).toNat (32 * 2 ^ z) false = true ∧
    s.hostOk (s.ringOwnerOf r) (s.rdw .ringBase r).toNat (32 * 2 ^ z) true = true

theorem State.ringCtlEnabled_owner (r : Nat) (v : Word) (q : Nat) : (s.ringCtlEnabled r v).ringOwnerOf q = s.ringOwnerOf q :=
  s.ringCtlEnabled_other r v (by decide) q 0

theorem State.ringCtlEnabled_size (r : Nat) (v : Word) : (s.ringCtlEnabled r v).ringSize r = 2 ^ bits v.toNat 4 0 :=
  congrArg (fun z => 2 ^ z) (s.ringCtlEnabled_fget r v rfl (by decide) (by decide))

theorem State.ringEnabled_bad {r : Nat} {v : Word} (h : s.EnableBad r (bits v.toNat 4 0) (bits v.toNat 14 5)) :
    s.ringEnabled r v = (s.ringCtlEnabled r v).ringError r 5 0 :=
  if_pos (by rw [(s.ringCtlEnabled_cfgOk r v).2 h]; rfl)

theorem State.ringEnabled_good {r : Nat} {v : Word} (h : ¬ s.EnableBad r (bits v.toNat 4 0) (bits v.toNat 14 5)) :
    (s.areaOk r (bits v.toNat 4 0) → s.ringEnabled r v = (s.ringCtlEnabled r v).ringActive r) ∧
    (¬ s.areaOk r (bits v.toNat 4 0) → s.ringEnabled r v = (s.ringCtlEnabled r v).violation (s.ringOwnerOf r) 4 (s.rdw .ringBase r).toNat r) := by
  have hcfg : (s.ringCtlEnabled r v).ringCfgOk r = true := by
    rw [← Bool.not_eq_false]
    exact fun hx => h ((s.ringCtlEnabled_cfgOk r v).1 hx)
  have harea : ((s.ringCtlEnabled r v).hostOk (s.ringOwnerOf r) (s.rdw .ringBase r).toNat (32 * 2 ^ bits v.toNat 4 0) false ∧
      (s.ringCtlEnabled r v).hostOk (s.ringOwnerOf r) (s.rdw .ringBase r).toNat (32 * 2 ^ bits v.toNat 4 0) true = true) ↔
      s.areaOk r (bits v.toNat 4 0) := by
    rw [s.ringCtlEnabled_hostOk, s.ringCtlEnabled_hostOk]
    rfl
  unfold State.ringEnabled
  dsimp only
  rw [hcfg, s.ringCtlEnabled_owner, s.ringCtlEnabled_size]
  exact ⟨fun hx => (if_neg (by decide)).trans (if_pos (harea.2 hx)), fun hx => (if_neg (by decide)).trans (if_neg fun hy => hx (harea.1 hy))⟩

/-- A ring made ACTIVE in its registers. -/
theorem State.ringActive_spec (r : Nat) : (s.ringActive r).ringState r = 1 ∧ (s.ringActive r).ringH r = 0 ∧ (s.ringActive r).ringT r = 0 ∧
    (s.ringActive r).ringSize r = s.ringSize r ∧ ((s.ringActive r).ring r).fetched = [] ∧ ((s.ringActive r).ring r).started = [] ∧
    (s.ringActive r).host.mem = s.host.mem ∧ OnlyRegs [.ringStatus, .ringHead, .ringTail, .ringErr] s (s.ringActive r) := by
  obtain ⟨a, ha⟩ : ∃ a, a = s.clearRing r := ⟨_, rfl⟩
  have heq : s.ringActive r = (((a.wr .ringHead 0 r).wr .ringTail 0 r).wr .ringErr 0 r).fset F.ringStatus_STATE 1 r := by rw [ha]; rfl
  have hhost : (s.ringActive r).host = a.host := by rw [heq]; exact State.fset_host _ _ _ _ _
  have honly : OnlyRegs [.ringStatus, .ringHead, .ringTail, .ringErr] s (s.ringActive r) := by
    rw [heq, ha]
    have h0 : OnlyRegs [.ringStatus, .ringHead, .ringTail, .ringErr] s (s.clearRing r) := (State.clearRing_keeps (.rfl' (.onRegs _) s) r).onlyRegs
    exact (((h0.wr _ _ _ (by decide)).wr _ _ _ (by decide)).wr _ _ _ (by decide)).fset (f := F.ringStatus_STATE) _ _ _ (by decide)
  have hhead : (s.ringActive r).rd .ringHead r = 0 := by
    rw [heq]
    exact (rd_fset_reg _ _ _ _ _ _ (by decide)).trans ((rd_wr_reg _ _ _ _ _ _ (by decide)).trans ((rd_wr_reg _ _ _ _ _ _ (by decide)).trans (rd_wr_same _ _ _ _ _)))
  have htail : (s.ringActive r).rd .ringTail r = 0 := by
    rw [heq]
    exact (rd_fset_reg _ _ _ _ _ _ (by decide)).trans ((rd_wr_reg _ _ _ _ _ _ (by decide)).trans (rd_wr_same _ _ _ _ _))
  have hpos : ∀ f : Fld, (s.ringActive r).rd f.reg r = 0 → (s.ringActive r).fget f r = 0 := fun f hf => by
    unfold State.fget
    rw [hf]
    unfold bits
    simp
  refine ⟨?_, ?_, ?_, ?_, ?_, ?_, ?_, honly⟩
  · rw [heq]
    exact fget_fset_same _ _ _ _ _ (by decide) (by decide)
  · unfold State.ringH
    rw [hpos F.ringHead_IDX hhead, hpos F.ringHead_WRAP hhead]
    omega
  · unfold State.ringT
    rw [hpos F.ringTail_IDX htail, hpos F.ringTail_WRAP htail]
    omega
  · unfold State.ringSize
    rw [fget_of_rd F.ringCtl_SIZE_LOG2 (honly _ r 0 (by decide))]
  · rw [State.ring_of_host hhost, ha]
    exact (s.clearRing_ring r).1
  · rw [State.ring_of_host hhost, ha]
    exact (s.clearRing_ring r).2
  · rw [hhost, ha]
    exact s.clearRing_mem r
end

theorem execRingEnable_shut {s : State} {r : Nat} (v : Word) (h : s.flag F.dawnStatus_READY = false ∨ s.flag F.fnStatus_FROZEN (s.ringOwnerOf r) = true) :
    execRingEnable r v s = .next s := congrArg Host.Outcome.next (if_pos h)

theorem execRingEnable_open {s : State} {r : Nat} (v : Word) (hr : s.flag F.dawnStatus_READY = true)
    (hf : s.flag F.fnStatus_FROZEN (s.ringOwnerOf r) = false) : execRingEnable r v s = .next (s.ringCtlWrite r (v ||| 0x80000000#32)) :=
  congrArg Host.Outcome.next (if_neg (by rw [hr, hf]; decide))

theorem execRingEnable_free {s : State} {r : Nat} (v : Word) (h : s.ringState r = 0) (hr : s.flag F.dawnStatus_READY = true)
    (hf : s.flag F.fnStatus_FROZEN (s.ringOwnerOf r) = false) : execRingEnable r v s = .next (s.ringEnabled r v) := by
  rw [execRingEnable_open v hr hf, s.ringCtlWrite_enable v h]

theorem ringEnable : Claims.RingEnable := by
  intro s r v
  refine ⟨fun h => ?_, fun h => execRingEnable_shut v h, fun h hr hf => ⟨fun hbad => ?_, fun hgood harea => ?_, fun hgood harea => ?_⟩⟩
  · by_cases hs : s.flag F.dawnStatus_READY = false ∨ s.flag F.fnStatus_FROZEN (s.ringOwnerOf r) = true
    · exact execRingEnable_shut v hs
    · rw [not_or, Bool.not_eq_false, Bool.not_eq_true] at hs
      exact (execRingEnable_open v hs.1 hs.2).trans (congrArg _ (s.ringCtlWrite_busy _ h))
  · obtain ⟨hst, hcause, -⟩ := (s.ringCtlEnabled r v).ringError_spec r (cause := 5) 0 (by decide)
    exact ⟨_, (execRingEnable_free v h hr hf).trans (congrArg _ (s.ringEnabled_bad hbad)), hst, hcause, State.ringError_mem _ _ _ _⟩
  · obtain ⟨hst, hh, ht, hsize, hfetched, hstarted, hmem, honly⟩ := (s.ringCtlEnabled r v).ringActive_spec r
    refine ⟨_, (execRingEnable_free v h hr hf).trans (congrArg _ ((s.ringEnabled_good hgood).1 harea)), hst, hh, ht, hsize.trans (s.ringCtlEnabled_size r v),
      hfetched, hstarted, hmem, fun n i j hn => ?_⟩
    rw [List.mem_cons, not_or] at hn
    exact (honly n i j hn.2).trans (s.ringCtlEnabled_rd r v hn.1 i j)
  · have hfz : (s.ringCtlEnabled r v).flag F.fnStatus_FROZEN (s.ringOwnerOf r) = false := by
      rw [flag_of_rd F.fnStatus_FROZEN (s.ringCtlEnabled_rd r v (by decide) _ _)]
      exact hf
    have hst : (s.ringCtlEnabled r v).ringState r = 0 := (s.ringCtlEnabled_other r v (by decide) r 0).trans h
    obtain ⟨hfrozen, hkind⟩ := State.violation_freezes (kind := 4) (s.rdw .ringBase r).toNat r hfz (by decide)
    refine ⟨_, (execRingEnable_free v h hr hf).trans (congrArg _ ((s.ringEnabled_good hgood).2 harea)), ?_, hfrozen, hkind, State.violation_mem _ _ _ _ _⟩
    rw [State.violation_state _ hfz r.isLt, if_neg (by rw [hst]; omega)]
    exact hst

/-! ## Doorbells and INVALIDATE (R384, R385, R389, R390, R402) -/

section
variable (s : State)

theorem State.ringPageWrite_shut {f r : Nat} (act : State → State) (h : s.flag F.dawnStatus_READY = false ∨ s.flag F.fnStatus_FROZEN f = true) :
    s.ringPageWrite f r act = s := if_pos h

section
variable {f r : Nat} (act : State → State) (hr : s.flag F.dawnStatus_READY = true) (hf : s.flag F.fnStatus_FROZEN f = false)
include hr hf

theorem State.ringPageWrite_foreign (ho : s.ringOwnerOf r ≠ f) : s.ringPageWrite f r act = s.violation f 2 (r * 4096) r :=
  (if_neg (by rw [hr, hf]; decide)).trans (if_pos ho)

theorem State.ringPageWrite_active (ho : s.ringOwnerOf r = f) (hs : s.ringState r = 1) : s.ringPageWrite f r act = act s :=
  (if_neg (by rw [hr, hf]; decide)).trans ((if_neg fun hx => hx ho).trans (if_pos hs))

theorem State.ringPageWrite_idle (ho : s.ringOwnerOf r = f) (hs : s.ringState r ≠ 1) : s.ringPageWrite f r act = s.bump .cntDbIgnored :=
  (if_neg (by rw [hr, hf]; decide)).trans ((if_neg fun hx => hx ho).trans (if_neg hs))
end

/-- The position a doorbell names, and the entries it would add (R385). -/
def State.dbPos (s : State) (r : Nat) (v : Word) : Nat := v.toNat % 65536 + bits v.toNat 16 16 * s.ringSize r
def State.dbAdd (s : State) (r : Nat) (v : Word) : Nat := (s.dbPos r v + 2 * s.ringSize r - s.ringT r) % (2 * s.ringSize r)

theorem State.setTail_bad {r : Nat} {v : Word} (h : s.ringSize r ≤ v.toNat % 65536 ∨ s.ringSize r - s.ringN r < s.dbAdd r v) :
    s.setTail r v = s.ringError r 3 (v &&& 0x1FFFF#32) := if_pos h

theorem State.setTail_good {r : Nat} {v : Word} (h : v.toNat % 65536 < s.ringSize r) (h' : s.dbAdd r v ≤ s.ringSize r - s.ringN r) :
    s.setTail r v = s.wr .ringTail (posWord (s.ringSize r) (s.dbPos r v)) r := if_neg (by rintro (hx | hx) <;> unfold State.dbAdd State.dbPos at * <;> omega)

theorem bits_one_lt (n k : Nat) : bits n k k < 2 := by
  unfold bits
  rw [Nat.add_sub_cancel_left]
  exact Nat.mod_lt _ (by decide)

/-- The fields of a position word. -/
theorem posWord_fields {S i w : Nat} (hi : i < S) (hi' : i < 65536) (hw : w < 2) :
    bits (posWord S (i + w * S)).toNat 15 0 = i ∧ bits (posWord S (i + w * S)).toNat 16 16 = w := by
  have hmod : (i + w * S) % S = i := by rw [Nat.add_mul_mod_self_right, Nat.mod_eq_of_lt hi]
  have hdiv : (i + w * S) / S = w := by rw [Nat.add_mul_div_right _ _ (by omega), Nat.div_eq_of_lt hi, Nat.zero_add]
  unfold posWord bits
  rw [hmod, hdiv, BitVec.toNat_ofNat, Nat.shiftRight_eq_div_pow, Nat.shiftRight_eq_div_pow]
  omega

theorem posWord_top (S p : Nat) (h : p % S < 65536) : (posWord S p).getLsbD 31 = false := by
  unfold posWord
  rw [BitVec.getLsbD_ofNat, Nat.testBit_eq_decide_div_mod_eq, Bool.and_eq_false_iff]
  right
  rw [decide_eq_false_iff_not]
  omega

theorem State.ringH_mod (r : Nat) : s.ringH r % s.ringSize r < 65536 := by
  have hi : s.fget F.ringHead_IDX r < 65536 := Nat.mod_lt _ (by decide)
  unfold State.ringH
  rw [Nat.add_mul_mod_self_right]
  exact (Nat.mod_le _ _).trans_lt hi

theorem State.setTail_ringT {r : Nat} {v : Word} (h : v.toNat % 65536 < s.ringSize r) :
    (s.wr .ringTail (posWord (s.ringSize r) (s.dbPos r v)) r).ringT r = s.dbPos r v := by
  obtain ⟨hi, hw⟩ := posWord_fields h (Nat.mod_lt _ (by decide)) (bits_one_lt v.toNat 16)
  have hsize : (s.wr .ringTail (posWord (s.ringSize r) (s.dbPos r v)) r).ringSize r = s.ringSize r :=
    congrArg (fun z => 2 ^ z) (fget_of_rd F.ringCtl_SIZE_LOG2 (rd_wr_reg s _ _ _ _ _ (by decide)))
  have hrd := rd_wr_same s .ringTail (posWord (s.ringSize r) (s.dbPos r v)) r 0
  unfold State.ringT
  rw [hsize]
  have h1 : (s.wr .ringTail (posWord (s.ringSize r) (s.dbPos r v)) r).fget F.ringTail_IDX r = v.toNat % 65536 :=
    (congrArg (fun w : Word => bits w.toNat 15 0) hrd).trans hi
  have h2 : (s.wr .ringTail (posWord (s.ringSize r) (s.dbPos r v)) r).fget F.ringTail_WRAP r = bits v.toNat 16 16 :=
    (congrArg (fun w : Word => bits w.toNat 16 16) hrd).trans hw
  rw [h1, h2]
  rfl

theorem State.wr_tail_ringH (r : Nat) (w : Word) : (s.wr .ringTail w r).ringH r = s.ringH r := by
  unfold State.ringH State.ringSize
  rw [fget_of_rd F.ringHead_IDX (rd_wr_reg s _ _ _ _ _ (by decide)), fget_of_rd F.ringHead_WRAP (rd_wr_reg s _ _ _ _ _ (by decide)),
    fget_of_rd F.ringCtl_SIZE_LOG2 (rd_wr_reg s _ _ _ _ _ (by decide))]

/-- What INVALIDATE leaves of the ring beside its registers. -/
def State.ringInvalid (s : State) (r : Nat) : RingSt := { s.ring r with fetched := [], invPos := s.ringH r, invBusy := true, invDone := false }

theorem State.invalidate_ring (r : Nat) : (s.invalidate r).ring r = s.ringInvalid r := s.putRing_ring r _

theorem State.invalidate_onlyRegs (r : Nat) : OnlyRegs [.ringStatus] s (s.invalidate r) := (State.invalidate_keeps (.rfl' (.onRegs _) s) r).onlyRegs

theorem State.positions_of_rd {s u : State} (h : OnlyRegs [.ringStatus] s u) (r : Nat) :
    u.ringH r = s.ringH r ∧ u.ringT r = s.ringT r ∧ u.ringSize r = s.ringSize r := by
  unfold State.ringH State.ringT State.ringSize
  rw [fget_of_rd F.ringHead_IDX (h _ _ _ (by decide)), fget_of_rd F.ringHead_WRAP (h _ _ _ (by decide)), fget_of_rd F.ringTail_IDX (h _ _ _ (by decide)),
    fget_of_rd F.ringTail_WRAP (h _ _ _ (by decide)), fget_of_rd F.ringCtl_SIZE_LOG2 (h _ _ _ (by decide))]
  exact ⟨rfl, rfl, rfl⟩

theorem execInvalidateDone_idle {r : Nat} (h : (s.ring r).invBusy = false) : execInvalidateDone r s = .next s :=
  congrArg Host.Outcome.next (if_neg (by rw [h]; exact Bool.false_ne_true))

theorem execInvalidateDone_busy {r : Nat} (h : (s.ring r).invBusy = true) :
    execInvalidateDone r s = .next (s.setRing r { s.ring r with invBusy := false, invDone := true }) := congrArg Host.Outcome.next (if_pos h)

theorem bits_and_low (v : Word) : bits (v &&& 0x1FFFF#32).toNat 15 0 = v.toNat % 65536 := bits_and_mask (m := 0x1FFFF#32) (hi := 15) (lo := 0) v (by decide)
end

theorem doorbellAndInvalidate : Claims.DoorbellAndInvalidate := by
  intro s f r v
  refine ⟨fun h => ?_, fun hr hf ho => ?_, fun hr hf ho hs => ?_, fun hr hf ho hs => ⟨fun hidx hadd => ?_, fun hbad => ?_, ?_⟩, fun h => ?_⟩
  · exact ⟨congrArg Host.Outcome.next (s.ringPageWrite_shut _ h), congrArg Host.Outcome.next (s.ringPageWrite_shut _ h)⟩
  · obtain ⟨hfrozen, hkind⟩ := State.violation_freezes (kind := 2) (r * 4096) r hf (by decide)
    refine ⟨_, congrArg Host.Outcome.next (s.ringPageWrite_foreign _ hr hf ho), hfrozen, hkind, s.violation_violAddr hf, fun q hq hst => ?_, ?_⟩
    · rw [s.violation_state hf q.isLt, if_pos ⟨hq, hst⟩]
    · exact (State.violation_keeps (.rfl' (.avoid [.ringTail]) s) _ _ _ _).rd .ringTail r 0 rfl
  · exact ⟨congrArg Host.Outcome.next (s.ringPageWrite_idle _ hr hf ho hs), congrArg Host.Outcome.next (s.ringPageWrite_idle _ hr hf ho hs)⟩
  · refine ⟨_, congrArg Host.Outcome.next ((s.ringPageWrite_active _ hr hf ho hs).trans (s.setTail_good hidx hadd)), s.setTail_ringT hidx, s.wr_tail_ringH r _,
      (OnlyRegs.refl _ s).wr _ _ _ List.mem_cons_self, fun _ _ _ _ => rfl, rfl⟩
  · obtain ⟨hst, hcause, hindex⟩ := s.ringError_spec r (cause := 3) (v &&& 0x1FFFF#32) (by decide)
    exact ⟨_, congrArg Host.Outcome.next ((s.ringPageWrite_active _ hr hf ho hs).trans (s.setTail_bad hbad)), hst, hcause, hindex.trans (bits_and_low v),
      s.ringError_ringT _ _ _ _, s.ringError_mem _ _ _⟩
  · obtain ⟨hh, ht, hsize⟩ := State.positions_of_rd (s.invalidate_onlyRegs r) r
    have hring := s.invalidate_ring r
    have hbusy : ((s.invalidate r).ring r).invBusy = true := by rw [hring]; rfl
    refine ⟨_, _, congrArg Host.Outcome.next (s.ringPageWrite_active _ hr hf ho hs), ?_, ?_, ?_, hh, ht, execInvalidateDone_busy _ hbusy, ?_⟩
    · rw [hring]
      rfl
    · rw [hring]
      rfl
    · unfold State.ringPageRead
      rw [hring, hsize]
      refine Eq.trans ?_ (posWord_top (s.ringSize r) (s.ringH r) (s.ringH_mod r))
      exact congrArg (fun w : Word => w.getLsbD 31) (BitVec.or_zero)
    · unfold State.ringPageRead
      dsimp only
      rw [State.setRing_ring, hring]
      refine Eq.trans (congrArg₂ (fun a b : Word => a ||| b) (congrArg (fun S => posWord S (s.ringH r)) ?_) (if_pos rfl)) rfl
      exact hsize
  · exact execInvalidateDone_idle s h

/-- Settles O35: an enable by its checks, its windows and what it leaves; a doorbell by the position it names; INVALIDATE by the ring it leaves. -/
theorem ringSetUpAndDoorbells : Obligations.RingSetUpAndDoorbells := ⟨ringEnable, doorbellAndInvalidate⟩

end Sys2Proof.Machine
end

section
/-!
PROOF. Bytes of host memory, entries written back, and descriptors fetched and started (R377, R381, R383, R386 to R388, R391, R397 to R400).
-/

set_option Elab.async false
set_option exponentiation.threshold 4096
set_option maxRecDepth 20000

namespace Sys2Proof.Machine

/-! ## Bytes of a memory -/

theorem tget_memPut_below {m : Tab Byte} {a x : Nat} {bs : List Byte} (h : x < a) : tget (memPut m a bs) x 0 = tget m x 0 := by
  induction bs generalizing m a with
  | nil => rfl
  | cons b r ih =>
    unfold memPut
    rw [ih (by omega), tget_tset_ne _ _ _ _ (by omega)]

theorem tget_memPut_above {m : Tab Byte} {a x : Nat} {bs : List Byte} (h : a + bs.length ≤ x) : tget (memPut m a bs) x 0 = tget m x 0 := by
  induction bs generalizing m a with
  | nil => rfl
  | cons b r ih =>
    rw [List.length_cons] at h
    unfold memPut
    rw [ih (by omega), tget_tset_ne _ _ _ _ (by omega)]

theorem tget_memPut_outside {m : Tab Byte} {a n x : Nat} {bs : List Byte} (hn : bs.length = n) (h : x < a ∨ a + n ≤ x) :
    tget (memPut m a bs) x 0 = tget m x 0 := h.elim tget_memPut_below fun h => tget_memPut_above (by omega)

theorem memGet_succ (m : Tab Byte) (a n : Nat) : memGet m a (n + 1) = tget m a 0 :: memGet m (a + 1) n := by
  unfold memGet
  rw [List.range_succ_eq_map, List.map_cons, List.map_map]
  exact congrArg (fun l => tget m a 0 :: l) (List.map_congr_left fun k _ => by rw [Function.comp_apply, show a + k.succ = a + 1 + k by omega])

/-- What was written is read back. -/
theorem memGet_memPut {m : Tab Byte} {a : Nat} {bs : List Byte} : memGet (memPut m a bs) a bs.length = bs := by
  induction bs generalizing m a with
  | nil => rfl
  | cons b r ih =>
    rw [List.length_cons, memGet_succ]
    unfold memPut
    rw [ih, tget_memPut_below (by omega), tget_tset_same]

/-! ## Entries written back (R383, R384, R387) -/

/-- The 32 bytes of a finished entry: OWN is 0. -/
def entryBytes (entry : List Byte) : List Byte := bytesAt entry 0 31 ++ [(nth entry 31 0) &&& 0x7F#8]

theorem entryBytes_length (entry : List Byte) : (entryBytes entry).length = 32 := by
  unfold entryBytes
  rw [List.length_append, bytesAt_length]
  rfl

theorem entryBytes_own (entry : List Byte) : ¬ OwnSet (entryBytes entry) := by
  have hnth : nth (entryBytes entry) 31 0 = (nth entry 31 0) &&& 0x7F#8 := by
    unfold entryBytes
    have h := bytesAt_length entry 0 31
    unfold nth
    rw [List.getD_eq_getElem?_getD, List.getElem?_append_right (by omega), h]
    rfl
  unfold OwnSet byteAt bitAt
  rw [hnth, Bool.not_eq_true]
  have hbit : ((nth entry 31 0) &&& 0x7F#8).getLsbD 7 = false := by
    rw [BitVec.getLsbD_and]
    exact Bool.and_eq_false_iff.2 (Or.inr (by decide))
  exact hbit

section
variable (s : State)

/-- An entry written back inside the owner's windows. -/
def State.entryDone (s : State) (r pos : Nat) (entry : List Byte) : State := ((s.hostPut (s.entryAddr r pos) (entryBytes entry)).advanceH r).ringFlip r

theorem State.finishEntry_ok {r pos : Nat} (entry : List Byte) (h : s.hostOk (s.ringOwnerOf r) (s.entryAddr r pos) 32 true = true) :
    s.finishEntry r pos entry = s.entryDone r pos entry := if_pos h

theorem State.ringFlip_mem (r : Nat) : (s.ringFlip r).host.mem = s.host.mem := (State.ringFlip_keeps (.rfl' .butMem s) r).mem rfl
theorem State.advanceH_host (r : Nat) : (s.advanceH r).host = s.host := rfl

theorem State.entryDone_mem (r pos : Nat) (entry : List Byte) :
    (s.entryDone r pos entry).host.mem = memPut s.host.mem (s.entryAddr r pos) (entryBytes entry) := by
  unfold State.entryDone
  rw [State.ringFlip_mem, State.advanceH_host]
  rfl

/-- The entry in host memory, with OWN at 0, and nothing else. -/
theorem State.entryDone_written (r pos : Nat) (entry : List Byte) :
    memGet (s.entryDone r pos entry).host.mem (s.entryAddr r pos) 32 = entryBytes entry ∧
    ∀ a, (a < s.entryAddr r pos ∨ s.entryAddr r pos + 32 ≤ a) → tget (s.entryDone r pos entry).host.mem a 0 = tget s.host.mem a 0 := by
  rw [s.entryDone_mem]
  refine ⟨?_, fun a ha => tget_memPut_outside (entryBytes_length entry) ha⟩
  have h := memGet_memPut (m := s.host.mem) (a := s.entryAddr r pos) (bs := entryBytes entry)
  rwa [entryBytes_length] at h

/-- H has moved one entry on. -/
theorem State.entryDone_ringH {r : Nat} (pos : Nat) (entry : List Byte) (h : s.ringSize r ≤ 65536) :
    (s.entryDone r pos entry).ringH r = (s.ringH r + 1) % (2 * s.ringSize r) := by
  obtain ⟨u, hu⟩ : ∃ u, u = s.hostPut (s.entryAddr r pos) (entryBytes entry) := ⟨_, rfl⟩
  have hH : u.ringH r = s.ringH r := by rw [hu]; rfl
  have hS : u.ringSize r = s.ringSize r := by rw [hu]; rfl
  have hpos : 0 < s.ringSize r := Nat.two_pow_pos _
  have heq : s.entryDone r pos entry = (u.advanceH r).ringFlip r := by rw [hu]; rfl
  have hflip := State.ringFlip_keeps (.rfl' (.avoid [.ringHead, .ringCtl]) (u.advanceH r)) r
  obtain ⟨p, hp⟩ : ∃ p, p = (s.ringH r + 1) % (2 * s.ringSize r) := ⟨_, rfl⟩
  have hplt : p < 2 * s.ringSize r := by rw [hp]; exact Nat.mod_lt _ (by omega)
  have hadv : u.advanceH r = u.wr .ringHead (posWord (s.ringSize r) p) r := by unfold State.advanceH; rw [hH, hS, hp]
  have hsplit : p = p % s.ringSize r + p / s.ringSize r * s.ringSize r := by rw [Nat.mul_comm]; exact (Nat.mod_add_div _ _).symm
  obtain ⟨hi, hw⟩ := posWord_fields (S := s.ringSize r) (i := p % s.ringSize r) (w := p / s.ringSize r) (Nat.mod_lt _ hpos)
    ((Nat.mod_lt _ hpos).trans_le h) (Nat.div_lt_of_lt_mul (by omega))
  rw [← hsplit] at hi hw
  have hrd := rd_wr_same u .ringHead (posWord (s.ringSize r) p) r 0
  have hidx : (s.entryDone r pos entry).fget F.ringHead_IDX r = p % s.ringSize r := by
    rw [heq, hflip.fget F.ringHead_IDX r 0 rfl, hadv]
    exact (congrArg (fun w : Word => bits w.toNat 15 0) hrd).trans hi
  have hwrap : (s.entryDone r pos entry).fget F.ringHead_WRAP r = p / s.ringSize r := by
    rw [heq, hflip.fget F.ringHead_WRAP r 0 rfl, hadv]
    exact (congrArg (fun w : Word => bits w.toNat 16 16) hrd).trans hw
  have hsize : (s.entryDone r pos entry).ringSize r = s.ringSize r := by
    rw [← hS, heq]
    refine congrArg (fun z => 2 ^ z) ((hflip.fget F.ringCtl_SIZE_LOG2 r 0 rfl).trans ?_)
    rw [hadv]
    exact fget_of_rd F.ringCtl_SIZE_LOG2 (rd_wr_reg u _ _ _ _ _ (by decide))
  unfold State.ringH at hp ⊢
  rw [hidx, hwrap, hsize, ← hsplit]
  exact hp
end

/-! ## Fetches (R388, R391) -/

section
variable {s : State} {r : Nat}

/-- Entries that may be fetched, the position of the first, and how many are looked at (R388). -/
def State.fetchCan (s : State) (r : Nat) : Nat :=
  min (32 - (s.ring r).fetched.length) (s.ringN r - ((s.ring r).started.length + (s.ring r).fetched.length))
def State.fetchFirst (s : State) (r : Nat) : Nat := s.ringH r + ((s.ring r).started.length + (s.ring r).fetched.length)
def State.fetchN (s : State) (r : Nat) (es : List (List Byte)) : Nat := max 1 (min (s.fetchCan r) es.length)

/-- The `k`-th entry looked at lies inside the owner's windows. -/
def State.entryOk (s : State) (r k : Nat) : Bool := s.hostOk (s.ringOwnerOf r) (s.entryAddr r (s.fetchFirst r + k)) 32 false

/-- The copies a fetch brings. -/
def State.fetchGot (s : State) (r : Nat) (es : List (List Byte)) : List (List Byte) := (es.take (s.fetchCan r)).map (fun e => bytesAt e 0 32)

def State.fetchTaken (s : State) (r : Nat) (es : List (List Byte)) : State :=
  s.putRing r { s.ring r with fetched := (s.ring r).fetched ++ (s.fetchGot r es).zipIdx.map (fun e => ((s.fetchFirst r + e.2) % (2 * s.ringSize r), e.1)) }

/-- A fetch of some entry, by the first that lies outside the windows. -/
def State.fetched (s : State) (r : Nat) (es : List (List Byte)) (ok : Bool) (out : Option Nat) : State :=
  match out with
  | some k => s.violation (s.ringOwnerOf r) 4 (s.entryAddr r (s.fetchFirst r + k)) r
  | none => if ok = false then s.ringError r 4 (posWord (s.ringSize r) (s.fetchFirst r)) else s.fetchTaken r es

theorem State.fetched_error (es : List (List Byte)) : s.fetched r es false none = s.ringError r 4 (posWord (s.ringSize r) (s.fetchFirst r)) := by
  unfold State.fetched
  exact if_pos rfl

theorem State.fetched_taken (es : List (List Byte)) : s.fetched r es true none = s.fetchTaken r es := by
  unfold State.fetched
  exact if_neg Bool.noConfusion

theorem execDescriptorFetch_eq (es : List (List Byte)) (ok : Bool) : execDescriptorFetch r es ok s = .next (
    if s.ringState r ≠ 1 ∨ s.blocked (s.ringOwnerOf r) = true ∨ s.fetchCan r = 0 then s
    else s.fetched r es ok ((List.range (max 1 (s.fetchGot r es).length)).find? (fun k => !s.entryOk r k))) := rfl

theorem State.fetchGot_length (es : List (List Byte)) : (s.fetchGot r es).length = min (s.fetchCan r) es.length := by
  unfold State.fetchGot
  rw [List.length_map, List.length_take]

theorem execDescriptorFetch_none (h : s.fetchCan r = 0) (es : List (List Byte)) (ok : Bool) : execDescriptorFetch r es ok s = .next s :=
  (execDescriptorFetch_eq es ok).trans (congrArg Host.Outcome.next (if_pos (Or.inr (Or.inr h))))

section
variable (hs : s.ringState r = 1) (hb : s.blocked (s.ringOwnerOf r) = false) (hc : s.fetchCan r ≠ 0) (es : List (List Byte))
include hs hb hc

theorem execDescriptorFetch_inside (hok : ∀ k, k < s.fetchN r es → s.entryOk r k = true) (ok : Bool) :
    execDescriptorFetch r es ok s = .next (s.fetched r es ok none) := by
  rw [execDescriptorFetch_eq, if_neg (by rw [hb]; simp [hs, hc]), State.fetchGot_length]
  refine congrArg (fun x => Host.Outcome.next (s.fetched r es ok x)) (List.find?_eq_none.2 fun k hk => ?_)
  rw [hok k (List.mem_range.1 hk)]
  decide

theorem execDescriptorFetch_outside {k : Nat} (hk : k < s.fetchN r es) (hout : ¬ s.entryOk r k = true) (hfirst : ∀ j, j < k → s.entryOk r j = true) (ok : Bool) :
    execDescriptorFetch r es ok s = .next (s.fetched r es ok (some k)) := by
  rw [execDescriptorFetch_eq, if_neg (by rw [hb]; simp [hs, hc]), State.fetchGot_length]
  refine congrArg (fun x => Host.Outcome.next (s.fetched r es ok x)) ?_
  rw [List.find?_range_eq_some]
  refine ⟨?_, List.mem_range.2 hk, fun j hj => ?_⟩
  · rw [Bool.not_eq_true] at hout
    rw [hout]
    rfl
  · rw [hfirst j hj]
    rfl
end

theorem State.fetchTaken_ring (es : List (List Byte)) : ((s.fetchTaken r es).ring r).fetched.map Prod.snd =
    (s.ring r).fetched.map Prod.snd ++ s.fetchGot r es := by
  unfold State.fetchTaken
  rw [State.putRing_ring, List.map_append, List.map_map]
  refine congrArg (fun l => (s.ring r).fetched.map Prod.snd ++ l) (Eq.trans ?_ (List.zipIdx_map_fst 0 (s.fetchGot r es)))
  rfl

theorem State.fetchTaken_room (es : List (List Byte)) (h : (s.ring r).fetched.length ≤ 32) : ((s.fetchTaken r es).ring r).fetched.length ≤ 32 := by
  have hl := congrArg List.length (State.fetchTaken_ring (s := s) (r := r) es)
  rw [List.length_map, List.length_append, List.length_map, State.fetchGot_length] at hl
  have : s.fetchCan r ≤ 32 - (s.ring r).fetched.length := Nat.min_le_left _ _
  omega

theorem State.fetchTaken_regs (es : List (List Byte)) : OnlyRegs [.ringStatus] s (s.fetchTaken r es) ∧ (s.fetchTaken r es).host.mem = s.host.mem :=
  ⟨(State.putRing_keeps (.rfl' (.onRegs [.ringStatus]) s) r _).onlyRegs, (State.putRing_keeps (.rfl' .butMem s) r _).mem rfl⟩
end

/-! ## What a start leaves of the rings -/

section
variable (s : State)

/-- The copies and started entries of a ring. -/
def State.waits (s : State) (r : Nat) : List (Nat × List Byte) × List Slot := ((s.ring r).fetched, (s.ring r).started)

theorem State.ring_setRing (r q : Nat) (v : RingSt) : (s.setRing r v).ring q = if q = r then v else s.ring q := by
  split
  case isTrue h => rw [h]; exact s.setRing_ring r v
  case isFalse h => exact s.setRing_ring_ne r q v h

theorem State.setRing_waits {r : Nat} {v : RingSt} (hf : v.fetched = (s.ring r).fetched) (hs : v.started = (s.ring r).started) (q : Nat) :
    (s.setRing r v).waits q = s.waits q := by
  unfold State.waits
  rw [s.ring_setRing]
  split
  case isTrue he => rw [he, hf, hs]
  case isFalse => rfl

theorem State.waits_of_host {s u : State} (h : u.host = s.host) (r : Nat) : u.waits r = s.waits r := by
  unfold State.waits
  rw [State.ring_of_host h]

theorem State.bump_waits (n : RName) (i q : Nat) : (s.bump n i).waits q = s.waits q := State.waits_of_host (s.bump_host n i 0 1) q

theorem State.eventTo_waits (r code param q : Nat) : (s.eventTo r code param).waits q = s.waits q := by
  unfold State.eventTo
  split
  · dsimp only
    split
    · exact s.setRing_waits (by exact rfl) (by exact rfl) q
    · exact (State.bump_waits _ _ _ _).trans (s.setRing_waits (by exact rfl) (by exact rfl) q)
  · exact s.bump_waits _ _ q

theorem State.postFn_waits (f code param q : Nat) : (s.postFn f code param).waits q = s.waits q := by
  unfold State.postFn
  split
  · exact s.eventTo_waits _ _ _ q
  · exact s.bump_waits _ _ q

/-- A stop for want of completion entries, as it is shown. -/
def State.stalled (s : State) (r : Nat) : State := (s.bump .cntCqFull r).fset F.ringStatus_CQ_STALL 1 r

theorem State.stallCheck_eq (r : Nat) : s.stallCheck r =
    if s.fget F.ringStatus_HOLD r = 64 ∧ s.ringN (s.fget F.ringCtl_CQ r) = 0 ∧ s.flag F.ringStatus_CQ_STALL r = false ∧ s.ringState r = 1 then
      (s.stalled r).postFn (s.ringOwnerOf r) 0x0602 (r + s.fget F.ringCtl_CQ r * 65536)
    else s := rfl

theorem State.stallCheck_waits (r q : Nat) : (s.stallCheck r).waits q = s.waits q := by
  rw [s.stallCheck_eq]
  split
  · exact (State.postFn_waits _ _ _ _ _).trans (State.waits_of_host ((State.fset_host _ _ _ _ _).trans (s.bump_host _ _ _ _)) q)
  · rfl

theorem State.stallCheck_hold (r : Nat) : (s.stallCheck r).fget F.ringStatus_HOLD r = s.fget F.ringStatus_HOLD r := by
  rw [s.stallCheck_eq]
  split
  · rw [(State.postFn_keeps (.rfl' (.avoid [.ringStatus]) (s.stalled r)) _ _ _).fget F.ringStatus_HOLD r 0 rfl]
    exact (fget_fset_off _ _ _ _ _ _ (by decide) (by decide) (by decide)).trans (s.bump_fget _ _ _ _ _ _ _)
  · rfl

/-- The slot of an entry that starts. -/
def startSlot (pos : Nat) (d : List Byte) : Slot := { pos := pos, desc := d }

theorem State.reserve_spec (r pos : Nat) (d : List Byte) (h : s.fget F.ringStatus_HOLD r < 64) :
    (s.reserve r pos d).waits r = ((s.ring r).fetched, (s.ring r).started ++ [startSlot pos d]) ∧
    (s.reserve r pos d).fget F.ringStatus_HOLD r = s.fget F.ringStatus_HOLD r + 1 := by
  obtain ⟨u, hu⟩ : ∃ u, u = s.setRing r { s.ring r with started := (s.ring r).started ++ [startSlot pos d] } := ⟨_, rfl⟩
  have heq : s.reserve r pos d = (u.fset F.ringStatus_HOLD (s.fget F.ringStatus_HOLD r + 1) r).stallCheck r := by rw [hu]; rfl
  rw [heq, State.stallCheck_waits, State.stallCheck_hold, fget_fset_same _ _ _ _ _ (by decide) (by decide)]
  refine ⟨?_, Nat.mod_eq_of_lt (show _ < 2 ^ 7 by omega)⟩
  rw [State.waits_of_host (State.fset_host _ _ _ _ _), hu]
  unfold State.waits
  rw [State.setRing_ring]

/-- The head copy out of the prefetch buffer. -/
def State.copyTaken (s : State) (r : Nat) : State := s.putRing r { s.ring r with fetched := (s.ring r).fetched.drop 1 }

theorem State.startEntry_eq (r pos : Nat) (d : List Byte) : s.startEntry r pos d = (s.copyTaken r).reserve r pos d := rfl

theorem State.copyTaken_ring (r : Nat) : (s.copyTaken r).ring r = { s.ring r with fetched := (s.ring r).fetched.drop 1 } := s.putRing_ring r _

theorem State.copyTaken_hold (r : Nat) : (s.copyTaken r).fget F.ringStatus_HOLD r = s.fget F.ringStatus_HOLD r := by
  unfold State.copyTaken State.putRing
  rw [fget_fset_off _ _ _ _ _ _ (by decide) (by decide) (by decide)]
  rfl

theorem State.startEntry_spec (r pos : Nat) (d : List Byte) (h : s.fget F.ringStatus_HOLD r < 64) :
    (s.startEntry r pos d).waits r = ((s.ring r).fetched.drop 1, (s.ring r).started ++ [startSlot pos d]) ∧
    (s.startEntry r pos d).fget F.ringStatus_HOLD r = s.fget F.ringStatus_HOLD r + 1 := by
  have hhold := s.copyTaken_hold r
  obtain ⟨hw, hh⟩ := (s.copyTaken r).reserve_spec r pos d (by rw [hhold]; exact h)
  rw [s.copyTaken_ring] at hw
  rw [hhold] at hh
  exact ⟨hw, hh⟩

theorem State.startEntry_mem (r pos : Nat) (d : List Byte) : (s.startEntry r pos d).host.mem = s.host.mem :=
  (State.startEntry_keeps (.rfl' .butMem s) r pos d).mem rfl

theorem State.startEntry_te (r pos : Nat) (d : List Byte) : (s.startEntry r pos d).te = s.te := (State.startEntry_keeps (.rfl' .butTe s) r pos d).te rfl
end

/-! ## Starts (R386, R391, R392, R397 to R399) -/

section
variable {s : State} {r pos : Nat} {d : List Byte} {rest : List (Nat × List Byte)}

/-- What starting an entry does, by the ring's type. -/
def State.startOf (s : State) (r pos : Nat) (d data : List Byte) : State :=
  if s.ringTypeOf r ≠ 1 ∧ s.ringTypeOf r ≠ 3 ∧ s.ringTypeOf r ≠ 7 then s
  else if bitAt (byteAt d 31) 7 = false then s.ringError r 2 (posWord (s.ringSize r) pos)
  else if s.ringTypeOf r = 1 then s.startTx r pos d
  else if s.ringTypeOf r = 3 then s.startTable r pos d data
  else s.startProg r pos d

section
variable (hs : s.ringState r = 1) (hb : s.blocked (s.ringOwnerOf r) = false) (hq : (s.ring r).fetched = (pos, d) :: rest) (data : List Byte)
include hs hb hq

theorem execDescriptorStart_eq : execDescriptorStart r data s = .next (s.startOf r pos d data) := by
  have h : execDescriptorStart r data s = .next (if s.ringState r ≠ 1 ∨ s.blocked (s.ringOwnerOf r) = true then s else
    match (s.ring r).fetched with
    | [] => s
    | (pos, d) :: _ => s.startOf r pos d data) := rfl
  rw [h, hq, if_neg (by rw [hs, hb]; decide)]

theorem execDescriptorStart_unowned (ho : ¬ OwnSet d) (ht : s.ringTypeOf r = 1 ∨ s.ringTypeOf r = 3 ∨ s.ringTypeOf r = 7) :
    execDescriptorStart r data s = .next (s.ringError r 2 (posWord (s.ringSize r) pos)) :=
  (execDescriptorStart_eq hs hb hq data).trans
    (congrArg Host.Outcome.next ((if_neg fun hx => by obtain ⟨h1, h3, h7⟩ := hx; omega).trans (if_pos (Bool.not_eq_true _ ▸ ho))))

theorem execDescriptorStart_tx (ho : OwnSet d) (ht : s.ringTypeOf r = 1) : execDescriptorStart r data s = .next (s.startTx r pos d) := by
  rw [execDescriptorStart_eq hs hb hq data]
  unfold State.startOf
  rw [if_neg (by omega), if_neg (by rw [ho]; decide), if_pos ht]

theorem execDescriptorStart_table (ho : OwnSet d) (ht : s.ringTypeOf r = 3) : execDescriptorStart r data s = .next (s.startTable r pos d data) := by
  rw [execDescriptorStart_eq hs hb hq data]
  unfold State.startOf
  rw [if_neg (by omega), if_neg (by rw [ho]; decide), if_neg (by omega), if_pos ht]

theorem execDescriptorStart_prog (ho : OwnSet d) (ht : s.ringTypeOf r = 7) : execDescriptorStart r data s = .next (s.startProg r pos d) := by
  rw [execDescriptorStart_eq hs hb hq data]
  unfold State.startOf
  rw [if_neg (by omega), if_neg (by rw [ho]; decide), if_neg (by omega), if_neg (by omega)]
end

/-- A TX descriptor is malformed (R392). -/
def TxBad (d : List Byte) : Prop :=
  2 ≤ byteAt d 12 / 8 % 4 ∨ leNat (bytesAt d 8 2) % 16384 = 0 ∨ (bitAt (byteAt d 12) 6 = true ∧ leNat (bytesAt d 8 2) % 16384 < 64)

theorem txMalformed_iff (d : List Byte) : txMalformed d = true ↔ TxBad d := by
  unfold txMalformed TxBad
  simp only [Bool.or_eq_true, Bool.and_eq_true, decide_eq_true_eq, or_assoc]

theorem State.startTx_full (h : 64 ≤ s.fget F.ringStatus_HOLD r) : s.startTx r pos d = s := if_pos h

theorem State.startTx_bad (h : s.fget F.ringStatus_HOLD r < 64) (hbad : TxBad d) : s.startTx r pos d = s.ringError r 1 (posWord (s.ringSize r) pos) :=
  (if_neg (by omega)).trans (if_pos ((txMalformed_iff d).2 hbad))

theorem State.startTx_good (h : s.fget F.ringStatus_HOLD r < 64) (hbad : ¬ TxBad d)
    (hok : s.hostOk (s.ringOwnerOf r) (leNat (bytesAt d 0 8)) (leNat (bytesAt d 8 2) % 16384) false = true) : s.startTx r pos d = s.startEntry r pos d :=
  (if_neg (by omega)).trans ((if_neg fun hx => hbad ((txMalformed_iff d).1 hx)).trans (if_neg (by rw [hok]; decide)))

/-- The operation of a table command (R215). -/
def tableOp (d data : List Byte) : TeOp := teOpOf (leNat (bytesAt d 0 4)) (leNat (bytesAt d 4 4)) (bytesAt data 0 (leNat (bytesAt d 16 2)))

section
variable (data : List Byte) (h : s.fget F.ringStatus_HOLD r < 64)
include h

theorem State.startTable_bad (hbad : (s.teCheck (tableOp d data).op (tableOp d data).tid (leNat (bytesAt d 16 2))).isSome = true) :
    s.startTable r pos d data = s.ringError r 1 (posWord (s.ringSize r) pos) := (if_neg (by omega)).trans (if_pos hbad)

theorem State.startTable_good (hgood : s.teCheck (tableOp d data).op (tableOp d data).tid (leNat (bytesAt d 16 2)) = none)
    (hok : leNat (bytesAt d 16 2) = 0 ∨ s.hostOk (s.ringOwnerOf r) (leNat (bytesAt d 8 8)) (leNat (bytesAt d 16 2)) false = true) :
    s.startTable r pos d data = (s.startEntry r pos d).teAccept (.ring r)
      { tableOp d data with addr := leNat (bytesAt d 8 8), gen := (s.ring r).gen, pos := pos } := by
  refine (if_neg (by omega)).trans ((if_neg ?_).trans (if_neg fun hx => ?_))
  · unfold tableOp at hgood
    rw [hgood]
    exact Bool.false_ne_true
  · rcases hok with hl | hl
    · exact hx.1 hl
    · rw [hl] at hx
      cases hx.2
end

/-! A program descriptor. -/

/-- Its channel, and its program's address. -/
def progCh (d : List Byte) : Nat := byteAt d 8 % 32
def progPc (d : List Byte) : Nat := leNat (bytesAt d 0 8) / 32 * 32

/-- A channel accepts a program descriptor. -/
def State.progAccepted (s : State) (r : Nat) (d : List Byte) : State := (s.copyTaken r).chRun (progCh d) (progPc d) (byteAt d 8 / 32 % 4)

theorem State.startProg_eq : s.startProg r pos d =
    if 2 ≤ byteAt d 8 / 32 % 4 ∨ s.chOwned (s.ringOwnerOf r) (progCh d) = false then s.ringError r 1 (posWord (s.ringSize r) pos)
    else if s.fget F.chStatus_STATE (progCh d) ≠ 0 ∨ s.unusableBlk 4 = true then s
    else (s.progAccepted r d).finishEntry r pos d := rfl

theorem State.progAccepted_only : OnlyRegs [.ringStatus, .chStatus, .chFault, .chPc] s (s.progAccepted r d) :=
  (State.chRun_keeps (State.putRing_keeps (.rfl' (.onRegs _) s) r _) _ _ _).onlyRegs

theorem State.progAccepted_base : (s.progAccepted r d).rdw .ringBase r = s.rdw .ringBase r :=
  (State.chRun_keeps (State.putRing_keeps (.rfl' (.avoid [.ringBase]) s) r _) _ _ _).rdw .ringBase r 0 rfl

theorem State.progAccepted_mem : (s.progAccepted r d).host.mem = s.host.mem :=
  (State.chRun_keeps (State.putRing_keeps (.rfl' .butMem s) r _) _ _ _).mem rfl

theorem State.progAccepted_hostOk (f a n : Nat) (w : Bool) : (s.progAccepted r d).hostOk f a n w = s.hostOk f a n w :=
  State.hostOk_congr f a n w (fun i j => State.progAccepted_only _ i j (by decide)) (fun i j => State.progAccepted_only _ i j (by decide))
    (fun i j => State.progAccepted_only _ i j (by decide)) fun i j => State.progAccepted_only _ i j (by decide)

theorem State.progAccepted_ring : (s.progAccepted r d).ringH r = s.ringH r ∧ (s.progAccepted r d).ringSize r = s.ringSize r ∧
    (s.progAccepted r d).ringOwnerOf r = s.ringOwnerOf r := by
  have h : ∀ f : Fld, f.reg ∉ [RName.ringStatus, .chStatus, .chFault, .chPc] → (s.progAccepted r d).fget f r = s.fget f r := fun f hf =>
    fget_of_rd f (State.progAccepted_only _ r 0 hf)
  unfold State.ringH State.ringSize State.ringOwnerOf
  rw [h F.ringHead_IDX (by decide), h F.ringHead_WRAP (by decide), h F.ringCtl_SIZE_LOG2 (by decide), h F.ringOwner_OWNER (by decide)]
  exact ⟨rfl, rfl, rfl⟩

theorem State.progAccepted_addr (p : Nat) : (s.progAccepted r d).entryAddr r p = s.entryAddr r p := by
  unfold State.entryAddr
  rw [State.progAccepted_base, State.progAccepted_ring.2.1]

/-- A channel that accepts a program runs it from its address. -/
theorem State.chRun_spec (s : State) (n addr space : Nat) : (s.chRun n addr space).fget F.chStatus_STATE n = 1 ∧
    (s.chRun n addr space).rdw .chPc n = BitVec.ofNat 64 addr := by
  obtain ⟨u, hu⟩ : ∃ u, u = (s.wrw .chPc (BitVec.ofNat 64 addr) n).setDmaCh n
    { s.dmaCh n with progBase := addr, space := space, cur := none, backs := [0, 0, 0, 0], buf := [] } := ⟨_, rfl⟩
  have heq : s.chRun n addr space = (((u.fset F.chStatus_STATE 1 n).fset F.chStatus_DOWN 0 n).fset F.chStatus_BUFFERED 0 n).wr .chFault 0 n := by
    rw [hu]; rfl
  refine ⟨?_, ?_⟩
  · rw [heq, fget_of_rd F.chStatus_STATE (rd_wr_reg _ _ _ _ _ _ (by decide)), fget_fset_off _ _ _ _ _ _ (by decide) (by decide) (by decide),
      fget_fset_off _ _ _ _ _ _ (by decide) (by decide) (by decide), fget_fset_same _ _ _ _ _ (by decide) (by decide)]
    rfl
  · have hk : Keeps (.avoid [.chPc]) u (s.chRun n addr space) := by
      rw [heq]
      exact State.wr_keeps (State.fset_keeps (State.fset_keeps (State.fset_keeps (.rfl' _ u) _ _ _ _) _ _ _ _) _ _ _ _) _ _ _ _
    rw [hk.rdw .chPc n 0 rfl, hu]
    exact rdw_wrw_same s _ _ _ _

theorem State.startProg_bad (h : 2 ≤ byteAt d 8 / 32 % 4 ∨ s.chOwned (s.ringOwnerOf r) (progCh d) = false) :
    s.startProg r pos d = s.ringError r 1 (posWord (s.ringSize r) pos) := if_pos h

section
variable (hsp : byteAt d 8 / 32 % 4 < 2) (hown : s.chOwned (s.ringOwnerOf r) (progCh d) = true)
include hsp hown

theorem State.startProg_waits (h : s.fget F.chStatus_STATE (progCh d) ≠ 0 ∨ s.unusableBlk 4 = true) : s.startProg r pos d = s := by
  rw [State.startProg_eq, if_neg (by rw [hown]; simp; omega), if_pos h]

theorem State.startProg_accepts (hidle : s.fget F.chStatus_STATE (progCh d) = 0) (hblk : s.unusableBlk 4 = false)
    (hok : s.hostOk (s.ringOwnerOf r) (s.entryAddr r pos) 32 true = true) : s.startProg r pos d = (s.progAccepted r d).entryDone r pos d := by
  rw [State.startProg_eq, if_neg (by rw [hown]; simp; omega), if_neg (by rw [hblk]; simp [hidle])]
  refine State.finishEntry_ok _ d ?_
  rw [State.progAccepted_hostOk, State.progAccepted_addr, State.progAccepted_ring.2.2]
  exact hok
end

theorem State.entryDone_keeps_ch (s : State) (r pos : Nat) (entry : List Byte) : Keeps (.avoid [.chStatus, .chPc]) s (s.entryDone r pos entry) :=
  State.ringFlip_keeps (State.advanceH_keeps (State.hostPut_keeps (.rfl' _ s) _ _) r) r

/-- A program descriptor accepted: the channel runs, the entry goes back with OWN at 0. -/
theorem State.progDone_spec (hsize : s.ringSize r ≤ 65536) : ((s.progAccepted r d).entryDone r pos d).fget F.chStatus_STATE (progCh d) = 1 ∧
    ((s.progAccepted r d).entryDone r pos d).rdw .chPc (progCh d) = BitVec.ofNat 64 (progPc d) ∧
    ((s.progAccepted r d).entryDone r pos d).ringH r = (s.ringH r + 1) % (2 * s.ringSize r) ∧
    ¬ OwnSet (memGet ((s.progAccepted r d).entryDone r pos d).host.mem (s.entryAddr r pos) 32) ∧
    ∀ a, (a < s.entryAddr r pos ∨ s.entryAddr r pos + 32 ≤ a) → tget ((s.progAccepted r d).entryDone r pos d).host.mem a 0 = tget s.host.mem a 0 := by
  have hk := State.entryDone_keeps_ch (s.progAccepted r d) r pos d
  obtain ⟨hst, hpc⟩ := (s.copyTaken r).chRun_spec (progCh d) (progPc d) (byteAt d 8 / 32 % 4)
  obtain ⟨hH, hS, -⟩ := State.progAccepted_ring (s := s) (r := r) (d := d)
  obtain ⟨hget, hout⟩ := (s.progAccepted r d).entryDone_written r pos d
  rw [State.progAccepted_addr] at hget hout
  refine ⟨(hk.fget F.chStatus_STATE (progCh d) 0 rfl).trans hst, (hk.rdw .chPc (progCh d) 0 rfl).trans hpc, ?_, ?_, fun a ha => (hout a ha).trans ?_⟩
  · rw [State.entryDone_ringH _ pos d (by rw [hS]; exact hsize), hH, hS]
  · rw [hget]
    exact entryBytes_own d
  · rw [State.progAccepted_mem]

/-- The INDEX of a ring's error at a position. -/
theorem posWord_index (S p : Nat) : bits (posWord S p).toNat 15 0 = p % S % 65536 := by
  unfold posWord bits
  rw [BitVec.toNat_ofNat, Nat.shiftRight_zero]
  omega

/-- A ring's error at a descriptor. -/
theorem State.ringError_at (s : State) (r pos : Nat) {cause : Nat} (hc : cause < 8) : (s.ringError r cause (posWord (s.ringSize r) pos)).ringState r = 2 ∧
    (s.ringError r cause (posWord (s.ringSize r) pos)).fget F.ringErr_CAUSE r = cause ∧
    (s.ringError r cause (posWord (s.ringSize r) pos)).fget F.ringErr_INDEX r = pos % s.ringSize r % 65536 := by
  obtain ⟨h1, h2, h3⟩ := s.ringError_spec r (posWord (s.ringSize r) pos) hc
  exact ⟨h1, h2, h3.trans (posWord_index _ _)⟩

theorem State.unblocked {s : State} {f : Nat} (h : s.blocked f = false) : s.flag F.fnStatus_FROZEN f = false := (Bool.or_eq_false_iff.1 h).1

theorem State.waits_fetched {u : State} {r : Nat} {l : List (Nat × List Byte)} {k : List Slot} (h : u.waits r = (l, k)) :
    (u.ring r).fetched = l ∧ (u.ring r).started = k := ⟨congrArg Prod.fst h, congrArg Prod.snd h⟩

theorem State.teAccept_host (s : State) (src : TeSrc) (o : TeOp) : (s.teAccept src o).host = s.host := rfl

theorem State.teAccept_ops (s : State) (src : TeSrc) (o : TeOp) :
    ∃ x, (s.teAccept src o).te.ops = s.te.ops ++ [(src, x)] ∧ x.op = o.op ∧ x.tid = o.tid ∧ x.data = o.data := ⟨_, rfl, rfl, rfl, rfl⟩

/-- Settles O36: a fetch by the first entry that lies outside the windows; a start by the ring's type and what is wrong with the entry. -/
theorem descriptorsStart : Obligations.DescriptorsStart := by
  intro s r hs hb
  refine ⟨fun es => ⟨fun hc ok => execDescriptorFetch_none hc es ok, fun hc hok => ?_, fun hc hok => ?_, fun k good hc hk hout hfirst => ?_⟩,
    fun pos d data rest hq => ⟨fun ho ht => ?_, fun ho ht h => ?_, fun ho ht h => ⟨fun hbad => ?_, fun hbad hok => ?_⟩,
      fun ho ht h => ⟨fun hbad => ?_, fun hgood hok => ?_⟩, fun ho ht => ⟨fun hbad => ?_, fun hsp hown h => ?_, fun hsp hown hidle hblk hsize hok => ?_⟩⟩⟩
  · obtain ⟨honly, hmem⟩ := State.fetchTaken_regs (s := s) (r := r) es
    exact ⟨_, (execDescriptorFetch_inside hs hb hc es hok true).trans (congrArg Host.Outcome.next (State.fetched_taken es)), State.fetchTaken_ring es, State.fetchTaken_room es, honly, hmem⟩
  · obtain ⟨hst, hcause, -⟩ := s.ringError_at r (s.fetchFirst r) (cause := 4) (by decide)
    exact ⟨_, (execDescriptorFetch_inside hs hb hc es hok false).trans (congrArg Host.Outcome.next (State.fetched_error es)), hst, hcause⟩
  · have hfz := State.unblocked hb
    obtain ⟨hfrozen, hkind⟩ := State.violation_freezes (kind := 4) (s.entryAddr r (s.fetchFirst r + k)) r hfz (by decide)
    exact ⟨_, execDescriptorFetch_outside hs hb hc es hk hout hfirst good, hfrozen, hkind, s.violation_violAddr hfz, s.violation_mem _ _ _ _⟩
  · obtain ⟨hst, hcause, hidx⟩ := s.ringError_at r pos (cause := 2) (by decide)
    exact ⟨_, execDescriptorStart_unowned hs hb hq data ho ht, hst, hcause, hidx⟩
  · exact (execDescriptorStart_tx hs hb hq data ho ht).trans (congrArg Host.Outcome.next (State.startTx_full h))
  · obtain ⟨hst, hcause, -⟩ := s.ringError_at r pos (cause := 1) (by decide)
    exact ⟨_, (execDescriptorStart_tx hs hb hq data ho ht).trans (congrArg Host.Outcome.next (State.startTx_bad h hbad)), hst, hcause⟩
  · obtain ⟨hw, hhold⟩ := s.startEntry_spec r pos d h
    obtain ⟨hfetched, hstarted⟩ := State.waits_fetched hw
    rw [hq] at hfetched
    exact ⟨_, startSlot pos d, (execDescriptorStart_tx hs hb hq data ho ht).trans (congrArg Host.Outcome.next (State.startTx_good h hbad hok)), hstarted, rfl, rfl, rfl,
      hfetched, hhold, s.startEntry_mem _ _ _⟩
  · obtain ⟨hst, hcause, -⟩ := s.ringError_at r pos (cause := 1) (by decide)
    exact ⟨_, (execDescriptorStart_table hs hb hq data ho ht).trans (congrArg Host.Outcome.next (State.startTable_bad data h hbad)), hst, hcause⟩
  · obtain ⟨hw, -⟩ := s.startEntry_spec r pos d h
    obtain ⟨y, hops, hop, htid, hdata⟩ := (s.startEntry r pos d).teAccept_ops (.ring r)
      { tableOp d data with addr := leNat (bytesAt d 8 8), gen := (s.ring r).gen, pos := pos }
    rw [State.startEntry_te] at hops
    refine ⟨_, startSlot pos d, y, (execDescriptorStart_table hs hb hq data ho ht).trans (congrArg Host.Outcome.next (State.startTable_good data h hgood hok)),
      ?_, rfl, hops, hop, htid, hdata⟩
    rw [State.ring_of_host (State.teAccept_host _ _ _)]
    exact (State.waits_fetched hw).2
  · obtain ⟨hst, hcause, -⟩ := s.ringError_at r pos (cause := 1) (by decide)
    exact ⟨_, (execDescriptorStart_prog hs hb hq data ho ht).trans (congrArg Host.Outcome.next (State.startProg_bad hbad)), hst, hcause⟩
  · exact (execDescriptorStart_prog hs hb hq data ho ht).trans (congrArg Host.Outcome.next (State.startProg_waits hsp hown h))
  · obtain ⟨hst, hpc, hH, hmem, hout⟩ := State.progDone_spec (s := s) (r := r) (pos := pos) (d := d) hsize
    exact ⟨_, (execDescriptorStart_prog hs hb hq data ho ht).trans (congrArg Host.Outcome.next (State.startProg_accepts hsp hown hidle hblk hok)), hst, hpc, hH,
      hmem, hout⟩
end

end Sys2Proof.Machine
end

section
/-!
PROOF. Function-level reset and interrupt moderation (R363, R379, R403, R405).
-/

set_option Elab.async false
set_option exponentiation.threshold 4096
set_option maxRecDepth 20000

namespace Sys2Proof.Machine

/-- Everything but the host interface and its memory. -/
def Touch.butHost : Touch := { Touch.all with host := false, mem := false }

theorem Keeps.hostAll {L : Touch} {s t : State} (h : Keeps L s t) (hh : L.host = false) (hm : L.mem = false) : t.host = s.host := by
  have h1 := h.host hh
  rwa [← h.mem hm] at h1

section
variable (s : State)

/-! ## One ring (R403) -/

/-- A ring cleared by its owner's reset. -/
def State.ringReset (s : State) (r : Nat) : State :=
  (((((s.clearRing r).wr .ringStatus 0 r).wr .ringHead 0 r).wr .ringTail 0 r).wr .ringErr 0 r).fset F.ringCtl_EN 0 r

/-- What a reset shows of a ring: its owner, its registers, its copies and started entries. -/
structure RingFace where
  owner : Nat
  status : Word
  head : Word
  tail : Word
  ctl : Word
  waits : List (Nat × List Byte) × List Slot

def State.face (s : State) (r : Nat) : RingFace :=
  ⟨s.ringOwnerOf r, s.rd .ringStatus r, s.rd .ringHead r, s.rd .ringTail r, s.rd .ringCtl r, s.waits r⟩

theorem State.face_waits (r : Nat) : (s.face r).waits = s.waits r := rfl

/-- The face of a ring after its reset. -/
def RingFace.reset (x : RingFace) : RingFace := ⟨x.owner, 0, 0, 0, BitVec.ofNat 32 (setBits x.ctl.toNat 31 31 0), ([], [])⟩

theorem State.clearRing_waits_other {r q : Nat} (h : q ≠ r) : (s.clearRing r).waits q = s.waits q := by
  obtain ⟨u, hu⟩ : ∃ u, u = (s.putRing r { gen := (s.ring r).gen + 1 }).fset F.ringStatus_HOLD 0 r := ⟨_, rfl⟩
  have hwaits : u.waits q = s.waits q := by
    rw [hu, State.waits_of_host (State.fset_host _ _ _ _ _)]
    unfold State.putRing
    rw [State.waits_of_host (State.fset_host _ _ _ _ _)]
    unfold State.waits
    rw [s.setRing_ring_ne _ _ _ h]
  have heq : s.clearRing r = u.setRing (s.fget F.ringCtl_CQ r)
      { u.ring (s.fget F.ringCtl_CQ r) with ready := (u.ring (s.fget F.ringCtl_CQ r)).ready.filter (fun e => decide (e.src ≠ r)) } := by rw [hu]; rfl
  rw [heq, u.setRing_waits (by exact rfl) (by exact rfl), hwaits]

theorem State.ringReset_host (r : Nat) : (s.ringReset r).host = (s.clearRing r).host := State.fset_host _ _ _ _ _

theorem State.ringReset_onlyRegs (r : Nat) : OnlyRegs [.ringStatus, .ringHead, .ringTail, .ringErr, .ringCtl] s (s.ringReset r) :=
  (State.fset_keeps (State.wr_keeps (State.wr_keeps (State.wr_keeps (State.wr_keeps (State.clearRing_keeps (.rfl' (.onRegs _) s) r)
    .ringStatus 0 r 0) .ringHead 0 r 0) .ringTail 0 r 0) .ringErr 0 r 0) F.ringCtl_EN 0 r 0).onlyRegs

theorem State.clearRing_status_other {r q : Nat} (h : q % 65536 ≠ r % 65536) : (s.clearRing r).rd .ringStatus q = s.rd .ringStatus q := by
  unfold State.clearRing State.putRing
  dsimp only
  rw [State.setRing_rd, rd_fset_inst _ _ _ _ h, rd_fset_inst _ _ _ _ h]
  rfl

theorem State.ringReset_face_other {r q : Nat} (hr : r < 1024) (hq : q < 1024) (h : q ≠ r) : (s.ringReset r).face q = s.face q := by
  have hm : q % 65536 ≠ r % 65536 := by omega
  obtain ⟨a, ha⟩ : ∃ a, a = s.clearRing r := ⟨_, rfl⟩
  have heq : s.ringReset r = ((((a.wr .ringStatus 0 r).wr .ringHead 0 r).wr .ringTail 0 r).wr .ringErr 0 r).fset F.ringCtl_EN 0 r := by rw [ha]; rfl
  have hrd : ∀ n, (s.ringReset r).rd n q = a.rd n q := fun n => by
    have hw : ∀ (u : State) (m : RName) (w : Word), (u.wr m w r).rd n q = u.rd n q := fun u m w => rd_wr_key u w fun e => hm (regKey_inj e).2.1
    rw [heq]
    exact (hw _ _ _).trans ((hw _ _ _).trans ((hw _ _ _).trans ((hw _ _ _).trans (hw _ _ _))))
  have hclear := s.clearRing_onlyRegs r
  have hown : (s.ringReset r).ringOwnerOf q = s.ringOwnerOf q := fget_of_rd F.ringOwner_OWNER (s.ringReset_onlyRegs r _ _ _ (by decide))
  unfold State.face
  rw [hown, hrd, hrd, hrd, hrd, State.waits_of_host (s.ringReset_host r), s.clearRing_waits_other h, ha, s.clearRing_status_other hm,
    hclear .ringHead q 0 (by decide), hclear .ringTail q 0 (by decide), hclear .ringCtl q 0 (by decide)]

theorem State.ringReset_face_same (r : Nat) : (s.ringReset r).face r = (s.face r).reset := by
  obtain ⟨a, ha⟩ : ∃ a, a = s.clearRing r := ⟨_, rfl⟩
  have heq : s.ringReset r = ((((a.wr .ringStatus 0 r).wr .ringHead 0 r).wr .ringTail 0 r).wr .ringErr 0 r).fset F.ringCtl_EN 0 r := by rw [ha]; rfl
  have hclear := s.clearRing_onlyRegs r
  have hown : (s.ringReset r).ringOwnerOf r = s.ringOwnerOf r := fget_of_rd F.ringOwner_OWNER (s.ringReset_onlyRegs r _ _ _ (by decide))
  have hst : (s.ringReset r).rd .ringStatus r = 0 := by
    rw [heq, rd_fset_reg _ _ _ _ _ _ (by decide), rd_wr_reg _ _ _ _ _ _ (by decide), rd_wr_reg _ _ _ _ _ _ (by decide), rd_wr_reg _ _ _ _ _ _ (by decide),
      rd_wr_same]
  have hhd : (s.ringReset r).rd .ringHead r = 0 := by
    rw [heq, rd_fset_reg _ _ _ _ _ _ (by decide), rd_wr_reg _ _ _ _ _ _ (by decide), rd_wr_reg _ _ _ _ _ _ (by decide), rd_wr_same]
  have htl : (s.ringReset r).rd .ringTail r = 0 := by
    rw [heq, rd_fset_reg _ _ _ _ _ _ (by decide), rd_wr_reg _ _ _ _ _ _ (by decide), rd_wr_same]
  have hctl : (s.ringReset r).rd .ringCtl r = BitVec.ofNat 32 (setBits (s.rd .ringCtl r).toNat 31 31 0) := by
    rw [heq]
    refine (rd_wr_same _ .ringCtl _ r 0).trans (congrArg (fun w : Word => BitVec.ofNat 32 (setBits w.toNat 31 31 0)) ?_)
    refine (rd_wr_reg _ _ _ _ _ _ (by decide)).trans ((rd_wr_reg _ _ _ _ _ _ (by decide)).trans ((rd_wr_reg _ _ _ _ _ _ (by decide)).trans
      ((rd_wr_reg _ _ _ _ _ _ (by decide)).trans ?_)))
    rw [ha]
    exact hclear .ringCtl r 0 (by decide)
  have hwaits : (s.ringReset r).waits r = ([], []) := by
    rw [State.waits_of_host (s.ringReset_host r)]
    exact Prod.ext (s.clearRing_ring r).1 (s.clearRing_ring r).2
  unfold State.face RingFace.reset
  rw [hown, hst, hhd, htl, hctl, hwaits]

/-- A ring in the walk over a function's rings. -/
def State.ringOf (s : State) (f r : Nat) : State := if s.ringOwnerOf r = f then s.ringReset r else s
def State.ringsReset (s : State) (f : Nat) : State := forN 1024 (fun r s => s.ringOf f r) s

theorem State.ringsReset_face (f : Nat) {q : Nat} (hq : q < 1024) :
    (s.ringsReset f).face q = if s.ringOwnerOf q = f then (s.face q).reset else s.face q := by
  have hsame : ∀ u : State, (u.ringOf f q).face q = if (u.face q).owner = f then (u.face q).reset else u.face q := fun u => by
    unfold State.ringOf
    by_cases h : u.ringOwnerOf q = f
    · rw [if_pos h, if_pos (show (u.face q).owner = f from h)]
      exact u.ringReset_face_same q
    · rw [if_neg h, if_neg (show ¬ (u.face q).owner = f from h)]
  have hview : (s.ringsReset f).face q = if q < 1024 then (s.ringOf f q).face q else s.face q :=
    forN_view (fun u : State => u.face q) q s (fun k u hk hne => by
      show (u.ringOf f k).face q = u.face q
      unfold State.ringOf
      split
      · exact u.ringReset_face_other hk hq (Ne.symm hne)
      · rfl) fun u w huw => (hsame u).trans (Eq.trans (by rw [show u.face q = w.face q from huw]) (hsame w).symm)
  rw [if_pos hq] at hview
  exact hview.trans (hsame s)

/-! ## One channel (R403) -/

/-- A channel cleared by its owner's reset. -/
def State.chReset (s : State) (n : Nat) : State :=
  (forN 4 (fun k s => s.wr .chLoop 0 n k) ((s.setDmaCh n { lines := (s.dmaCh n).lines }).wr .chStatus 0 n)).wr .chFault 0 n

def State.chOf (s : State) (f n : Nat) : State := if s.chOwned f n then s.chReset n else s
def State.channelsReset (s : State) (f : Nat) : State := forN 32 (fun n s => s.chOf f n) s

theorem State.chReset_only (n : Nat) : OnlyRegs [.chStatus, .chLoop, .chFault] s (s.chReset n) :=
  (State.wr_keeps (forN_keeps (State.wr_keeps (State.setDmaCh_keeps (.rfl' (.onRegs _) s) _ _) .chStatus 0 n 0) fun k u hu =>
    State.wr_keeps hu .chLoop 0 n k) .chFault 0 n 0).onlyRegs

theorem State.chReset_status (n q : Nat) : (s.chReset n).rd .chStatus q = (s.wr .chStatus 0 n).rd .chStatus q := by
  unfold State.chReset
  rw [rd_wr_reg _ _ _ _ _ _ (by decide)]
  exact forN_keeps_view (fun u : State => u.rd .chStatus q) fun k u => rd_wr_reg u _ _ _ _ _ (by decide)

/-- A channel's owner and status. -/
def State.chPart (s : State) (f q : Nat) : Bool × Word := (s.chOwned f q, s.rd .chStatus q)

theorem State.chOwned_of_rd {s u : State} {f n : Nat} (h : u.rd .chOwner n = s.rd .chOwner n) : u.chOwned f n = s.chOwned f n := by
  unfold State.chOwned
  rw [flag_of_rd F.chOwner_VALID h, fget_of_rd F.chOwner_OWNER h]

theorem State.chOf_same (f q : Nat) : (s.chOf f q).chPart f q = if (s.chPart f q).1 then (true, 0) else s.chPart f q := by
  unfold State.chOf
  by_cases h : s.chOwned f q = true
  · rw [if_pos h, if_pos (show (s.chPart f q).1 = true from h)]
    unfold State.chPart
    rw [State.chOwned_of_rd (s.chReset_only q .chOwner q 0 (by decide)), h, s.chReset_status, rd_wr_same]
  · rw [if_neg h, if_neg (show ¬ (s.chPart f q).1 = true from h)]

theorem State.chOf_other (f : Nat) {n q : Nat} (hn : n < 32) (hq : q < 32) (h : q ≠ n) : (s.chOf f n).chPart f q = s.chPart f q := by
  unfold State.chOf
  split
  · unfold State.chPart
    rw [State.chOwned_of_rd (s.chReset_only n .chOwner q 0 (by decide)), s.chReset_status, rd_wr_inst s _ _ _ (by omega)]
  · rfl

theorem State.channelsReset_part (f : Nat) {q : Nat} (hq : q < 32) :
    (s.channelsReset f).chPart f q = if (s.chPart f q).1 then (true, 0) else s.chPart f q := by
  have hview : (s.channelsReset f).chPart f q = if q < 32 then (s.chOf f q).chPart f q else s.chPart f q :=
    forN_view (fun u : State => u.chPart f q) q s (fun k u hk hne => u.chOf_other f hk hq (Ne.symm hne)) fun u w huw =>
      (u.chOf_same f q).trans (Eq.trans (by rw [show u.chPart f q = w.chPart f q from huw]) (w.chOf_same f q).symm)
  rw [if_pos hq] at hview
  exact hview.trans (s.chOf_same f q)

/-! ## The whole reset -/

/-- What a reset discards of held and latched words (R9). -/
def State.flrHolds (s : State) (f : Nat) : State :=
  let mine (k : Nat) : Bool := decide (k / 2 ^ 44 = f)
  { s with host := { s.host with lowHold := s.host.lowHold.filter (fun e => !mine e.1), latch := s.host.latch.filter (fun e => !mine e.1) } }

theorem State.flrRings_eq (f : Nat) : s.flrRings f = ((s.ringsReset f).channelsReset f).flrHolds f := rfl

theorem State.flrHolds_waits (f q : Nat) : (s.flrHolds f).waits q = s.waits q := rfl

/-- What comes after the rings and channels of a reset. -/
def State.flrEnd (s : State) (f : Nat) : State := (forN 256 (fun g s => s.dropUserEn f g) (s.clearMsix f)).fset F.fnStatus_FLR_BUSY 1 f

theorem State.flr_eq (f : Nat) : s.flr f = ((s.flrEngine f).flrRings f).flrEnd f := rfl

theorem State.flrEnd_keeps (f : Nat) : Keeps (.onRegs [.msixTable, .msixPba, .grpCtl, .fnStatus]) s (s.flrEnd f) :=
  State.fset_keeps (forN_keeps (State.clearMsix_keeps (.rfl' _ s) f) fun g u hu => keeps_ite (State.fset_keeps hu F.grpCtl_USER_EN 0 g 0) hu)
    F.fnStatus_FLR_BUSY 1 f 0

theorem State.flrEnd_host (f : Nat) : (s.flrEnd f).host = s.host := by
  have hk : Keeps .butHost s (s.flrEnd f) :=
    State.fset_keeps (forN_keeps (State.clearMsix_keeps (.rfl' _ s) f) fun g u hu => keeps_ite (State.fset_keeps hu F.grpCtl_USER_EN 0 g 0) hu)
      F.fnStatus_FLR_BUSY 1 f 0
  exact hk.hostAll rfl rfl

theorem State.channelsReset_waits (f q : Nat) : (s.channelsReset f).waits q = s.waits q := by
  refine forN_keeps_view (fun u : State => u.waits q) fun n u => ?_
  unfold State.chOf
  split
  · refine State.waits_of_host ?_ q
    unfold State.chReset
    rw [State.wr_host, forN_keeps_view (n := 4) State.host fun k u => State.wr_host u _ _ _ _, State.wr_host, State.setDmaCh_host]
  · rfl

theorem State.channelsReset_only (f : Nat) : OnlyRegs [.chStatus, .chLoop, .chFault] s (s.channelsReset f) := fun n i j h =>
  forN_keeps_view (fun u : State => u.rd n i j) fun m u => by
    unfold State.chOf
    split
    · exact u.chReset_only m n i j h
    · rfl

theorem State.ringsReset_only (f : Nat) : OnlyRegs [.ringStatus, .ringHead, .ringTail, .ringErr, .ringCtl] s (s.ringsReset f) := fun n i j h =>
  forN_keeps_view (fun u : State => u.rd n i j) fun m u => by
    unfold State.ringOf
    split
    · exact u.ringReset_onlyRegs m n i j h
    · rfl

theorem State.face_of {s u : State} {q : Nat} (h : ∀ n, n ∈ [RName.ringOwner, .ringStatus, .ringHead, .ringTail, .ringCtl] → u.rd n q = s.rd n q)
    (hw : u.waits q = s.waits q) : u.face q = s.face q := by
  have hown : u.ringOwnerOf q = s.ringOwnerOf q := fget_of_rd F.ringOwner_OWNER (h _ (by decide))
  unfold State.face
  rw [hown, h .ringStatus (by decide), h .ringHead (by decide), h .ringTail (by decide), h .ringCtl (by decide), hw]

/-- What a reset leaves of a ring. -/
theorem State.flr_face (f : Nat) {q : Nat} (hq : q < 1024) : (s.flr f).face q = if s.ringOwnerOf q = f then (s.face q).reset else s.face q := by
  rw [s.flr_eq, State.flrRings_eq]
  refine Eq.trans (State.face_of (fun n hn => ?_) ?_) ((s.flrEngine f).ringsReset_face f hq)
  · have hnot : n ∉ [RName.msixTable, .msixPba, .grpCtl, .fnStatus] := fun hm => absurd hn (by
      simp only [List.mem_cons, List.not_mem_nil, or_false] at hm
      rcases hm with rfl | rfl | rfl | rfl <;> decide)
    have hnot' : n ∉ [RName.chStatus, .chLoop, .chFault] := fun hm => absurd hn (by
      simp only [List.mem_cons, List.not_mem_nil, or_false] at hm
      rcases hm with rfl | rfl | rfl <;> decide)
    exact ((State.flrEnd_keeps _ f).onlyRegs n q 0 hnot).trans (State.channelsReset_only _ f n q 0 hnot')
  · rw [State.waits_of_host (State.flrEnd_host _ f), State.flrHolds_waits, State.channelsReset_waits]

/-- What a reset leaves of a channel. -/
theorem State.flr_chPart (f : Nat) {q : Nat} (hq : q < 32) : (s.flr f).rd .chStatus q = if s.chOwned f q then 0 else s.rd .chStatus q := by
  have hrd : ∀ n, n ∈ [RName.chOwner, .chStatus] → (((s.flrEngine f)).ringsReset f).rd n q = s.rd n q := fun n hn =>
    State.ringsReset_only (s.flrEngine f) f n q 0 fun hm => absurd hn (by
      simp only [List.mem_cons, List.not_mem_nil, or_false] at hm
      rcases hm with rfl | rfl | rfl | rfl | rfl <;> decide)
  have hown : ((s.flrEngine f).ringsReset f).chOwned f q = s.chOwned f q := State.chOwned_of_rd (hrd _ (by decide))
  rw [s.flr_eq, State.flrRings_eq]
  refine ((State.flrEnd_keeps _ f).onlyRegs .chStatus q 0 (by decide)).trans ?_
  have hpart := congrArg Prod.snd (((s.flrEngine f).ringsReset f).channelsReset_part f hq)
  refine hpart.trans ?_
  unfold State.chPart
  dsimp only
  rw [hown, hrd .chStatus (by decide)]
  split <;> rfl

theorem bits_clearEn (w : Word) {hi lo : Nat} (h : hi < 31) : bits (BitVec.ofNat 32 (setBits w.toNat 31 31 0)).toNat hi lo = bits w.toNat hi lo := by
  rw [BitVec.toNat_ofNat, Nat.mod_eq_of_lt (setBits_lt _ _ _ _ _ (by decide) (by decide) w.isLt), bits_setBits_apart _ _ _ _ _ _ (by decide) (Or.inr h)]

theorem bits_zero_word (hi lo : Nat) : bits (0 : Word).toNat hi lo = 0 := by
  unfold bits
  simp

/-- A ring of the function after its reset. -/
theorem State.flr_ring {f r : Nat} (hr : r < 1024) (h : s.ringOwnerOf r = f) : (s.flr f).ringState r = 0 ∧ (s.flr f).ringH r = 0 ∧ (s.flr f).ringT r = 0 ∧
    (s.flr f).ringOwnerOf r = f ∧ (s.flr f).ringSize r = s.ringSize r ∧ ((s.flr f).ring r).fetched = [] ∧ ((s.flr f).ring r).started = [] := by
  have hface := s.flr_face f hr
  rw [if_pos h] at hface
  have hst : (s.flr f).rd .ringStatus r = 0 := congrArg RingFace.status hface
  have hhd : (s.flr f).rd .ringHead r = 0 := congrArg RingFace.head hface
  have htl : (s.flr f).rd .ringTail r = 0 := congrArg RingFace.tail hface
  have hctl : (s.flr f).rd .ringCtl r = BitVec.ofNat 32 (setBits (s.rd .ringCtl r).toNat 31 31 0) := congrArg RingFace.ctl hface
  have hw : (s.flr f).waits r = ([], []) := by
    rw [← State.face_waits, hface]
    rfl
  have hpos : ∀ fld : Fld, (s.flr f).rd fld.reg r = 0 → (s.flr f).fget fld r = 0 := fun fld hf => by
    unfold State.fget
    rw [hf]
    exact bits_zero_word _ _
  refine ⟨hpos F.ringStatus_STATE hst, ?_, ?_, (congrArg RingFace.owner hface).trans h, ?_, (State.waits_fetched hw).1, (State.waits_fetched hw).2⟩
  · unfold State.ringH
    rw [hpos F.ringHead_IDX hhd, hpos F.ringHead_WRAP hhd, Nat.zero_mul]
  · unfold State.ringT
    rw [hpos F.ringTail_IDX htl, hpos F.ringTail_WRAP htl, Nat.zero_mul]
  · refine congrArg (fun z => 2 ^ z) ((congrArg (fun w : Word => bits w.toNat 4 0) hctl).trans ?_)
    exact bits_clearEn _ (by decide)

theorem State.flr_other {f r : Nat} (hr : r < 1024) (h : s.ringOwnerOf r ≠ f) : (s.flr f).rd .ringStatus r = s.rd .ringStatus r ∧
    (s.flr f).rd .ringHead r = s.rd .ringHead r ∧ (s.flr f).rd .ringCtl r = s.rd .ringCtl r := by
  have hface := s.flr_face f hr
  rw [if_neg h] at hface
  exact ⟨congrArg RingFace.status hface, congrArg RingFace.head hface, congrArg RingFace.ctl hface⟩

theorem State.flr_busy (f : Nat) : (s.flr f).flag F.fnStatus_FLR_BUSY f = true := flag_fset_one _ F.fnStatus_FLR_BUSY f 0 rfl (by decide)
theorem State.flr_mem (f : Nat) : (s.flr f).host.mem = s.host.mem := (State.flr_keeps (.rfl' .butMem s) f).mem rfl
theorem State.flr_tm (f : Nat) : (s.flr f).tm = s.tm := (State.flr_keeps (.rfl' .butTm s) f).tm rfl
theorem State.flr_base (f r : Nat) : (s.flr f).rdw .ringBase r = s.rdw .ringBase r :=
  (State.flr_keeps (.rfl' (.avoid [.ringBase]) s) f).rdw .ringBase r 0 rfl

/-! ## The end of a reset (R379, R403) -/

theorem State.flrDone_spec (f : Nat) : (s.flrDone f).rd .fnStatus f = 0 ∧ (s.flrDone f).rdw .violAddr f = 0 ∧ (s.flrDone f).rd .violCnt f = 0 ∧
    OnlyRegs [.fnStatus, .violCnt] s (s.flrDone f) ∧ (s.flrDone f).host = s.host := by
  unfold State.flrDone
  refine ⟨?_, ?_, rd_wr_same _ _ _ _ _, ?_, (State.wr_host _ _ _ _ _).trans ((State.wrw_host _ _ _ _ _).trans (s.wr_host _ _ _ _))⟩
  · rw [rd_wr_reg _ _ _ _ _ _ (by decide)]
    exact rd_wr_same s _ _ _ _
  · rw [rdw_wr]
    exact rdw_wrw_same _ _ _ _ _
  · exact (((OnlyRegs.refl _ s).wr _ _ _ List.mem_cons_self).wrw _ _ _ _).wr _ _ _ (by decide)

/-! ## Moderated vectors (R405) -/

theorem State.sendVec_sent {f v : Nat} (hb : s.blocked f = false) (hv : v < vectorsOf f) (hm : (s.rd .msixTable f (4 * v + 3)).getLsbD 0 = false) :
    s.sendVec f v = { s with host := { s.host with msix := s.host.msix ++ [(f, v)] } } := by
  unfold State.sendVec
  rw [hb, decide_eq_true hv]
  exact (if_neg (by decide)).trans (if_neg (by rw [show bitAt _ 0 = false from hm]; decide))

theorem State.sendVec_pends {f v : Nat} (hb : s.blocked f = false) (hv : v < vectorsOf f) (hm : (s.rd .msixTable f (4 * v + 3)).getLsbD 0 = true) :
    s.sendVec f v = s.wr .msixPba (s.rd .msixPba f (v / 32) ||| BitVec.ofNat 32 (2 ^ (v % 32))) f (v / 32) := by
  unfold State.sendVec
  rw [hb, decide_eq_true hv]
  exact (if_neg (by decide)).trans (if_pos hm)

/-- A ring whose flips are signalled. -/
def State.flipsTaken (s : State) (r : Nat) : State := s.setRing r { s.ring r with flips := 0 }

theorem execMsix_eq (r : Nat) : execMsixModerationExpire r s = .next (if (s.ring r).flips = 0 ∨ s.flag F.ringIrq_EN r = false then s
    else (s.flipsTaken r).sendVec (s.ringOwnerOf r) (s.fget F.ringIrq_VECTOR r)) := rfl

theorem State.flipsTaken_flips (r : Nat) : ((s.flipsTaken r).ring r).flips = 0 := by
  unfold State.flipsTaken
  rw [State.setRing_ring]
end

/-- Settles O38: a ring and a channel after the reset by what the walk over each does to the one of its owner; the groups by the law of the reset's
walk over them. -/
theorem functionReset : Obligations.FunctionReset := by
  intro s f r
  refine ⟨⟨s.flr f, rfl, s.flr_busy f, s.flr_mem f, fun h => ?_, fun h => s.flr_other r.isLt h, fun n => ⟨fun h => ?_, fun h => ?_⟩,
      fun g => ⟨fun h => ?_, ?_⟩, s.flr_tm f⟩, fun h => ?_, fun h => ?_, fun h => ?_, fun hfl hen hb hv => ⟨fun hm => ?_, fun hm => ?_⟩⟩
  · obtain ⟨hst, hh, ht, hown, hsize, hfetched, hstarted⟩ := s.flr_ring r.isLt h
    exact ⟨hst, hh, ht, s.flr_base f r, hown, hsize, hfetched, hstarted⟩
  · have hrd := s.flr_chPart f n.isLt
    rw [if_pos h] at hrd
    exact (congrArg (fun w : Word => bits w.toNat 2 0) hrd).trans (bits_zero_word _ _)
  · exact (s.flr_chPart f n.isLt).trans (if_neg (by rw [h]; exact Bool.false_ne_true))
  · unfold State.flag
    rw [s.flr_fget_grpCtl f g.isLt rfl]
    exact State.dropUserEn_userEn h
  · rw [s.flr_fget_grpCtl f g.isLt rfl, s.dropUserEn_owner]
  · exact congrArg Host.Outcome.next (if_neg (by rw [h]; exact Bool.false_ne_true))
  · obtain ⟨hst, hva, hvc, honly, hhost⟩ := s.flrDone_spec f
    have hpos : ∀ fld : Fld, fld.reg = .fnStatus → (s.flrDone f).flag fld f = false := fun fld hf => by
      unfold State.flag State.fget
      rw [hf, hst, bits_zero_word]
      rfl
    exact ⟨_, congrArg Host.Outcome.next (if_pos h), hpos _ rfl, hpos _ rfl, hva, hvc, honly, hhost⟩
  · exact (execMsix_eq s r).trans (congrArg Host.Outcome.next (if_pos h))
  · have hexec := (execMsix_eq s r).trans (congrArg Host.Outcome.next (if_neg (by rw [hen]; simp [hfl])))
    rw [State.sendVec_sent (s.flipsTaken r) hb hv hm] at hexec
    exact ⟨_, hexec, rfl, s.flipsTaken_flips r, fun _ _ _ _ => rfl⟩
  · have hexec := (execMsix_eq s r).trans (congrArg Host.Outcome.next (if_neg (by rw [hen]; simp [hfl])))
    rw [State.sendVec_pends (s.flipsTaken r) hb hv hm] at hexec
    refine ⟨_, hexec, rfl, ?_, s.flipsTaken_flips r⟩
    rw [rd_wr_same, BitVec.getLsbD_or, BitVec.getLsbD_ofNat, Nat.testBit_two_pow_self]
    have : s.fget F.ringIrq_VECTOR r % 32 < 32 := Nat.mod_lt _ (by decide)
    simp [this]

end Sys2Proof.Machine
end

section
/-!
PROOF. The DMA channel commands and the request bits (R373, R414, R416, R423).
-/

set_option Elab.async false
set_option exponentiation.threshold 4096
set_option maxRecDepth 20000

namespace Sys2Proof.Machine

section
variable (s : State) (n : Nat)

/-! ## START and PAUSE (R414) -/

/-- A program started. -/
def State.chStarted (s : State) (n : Nat) : State := s.chRun n (s.rdw .chProg n).toNat (s.fget F.chCtl_PROG_SPACE n)

theorem execDmaStart_idle (h : s.fget F.chStatus_STATE n = 0) (hb : s.unusableBlk 4 = false) : execDmaStart n s = .next (s.chStarted n) :=
  congrArg Host.Outcome.next (if_pos ⟨h, hb⟩)

theorem execDmaStart_ignored (h : s.fget F.chStatus_STATE n ≠ 0 ∨ s.unusableBlk 4 = true) : execDmaStart n s = .next s :=
  congrArg Host.Outcome.next (if_neg fun hx => h.elim (fun h => h hx.1) fun h => by rw [h] at hx; cases hx.2)

theorem State.chStarted_only : OnlyRegs [.chStatus, .chFault] s (s.chStarted n) ∧ OnlyWide [.chPc] s (s.chStarted n) := by
  obtain ⟨u, hu⟩ : ∃ u, u = (s.wrw .chPc (BitVec.ofNat 64 (s.rdw .chProg n).toNat) n).setDmaCh n
    { s.dmaCh n with progBase := (s.rdw .chProg n).toNat, space := s.fget F.chCtl_PROG_SPACE n, cur := none, backs := [0, 0, 0, 0], buf := [] } := ⟨_, rfl⟩
  have heq : s.chStarted n = (((u.fset F.chStatus_STATE 1 n).fset F.chStatus_DOWN 0 n).fset F.chStatus_BUFFERED 0 n).wr .chFault 0 n := by rw [hu]; rfl
  have hregs : OnlyRegs [.chStatus, .chFault] s u := by rw [hu]; exact fun _ _ _ _ => rfl
  have hwide : OnlyWide [.chPc] s u := by
    rw [hu]
    exact (OnlyWide.refl _ s).wrw _ _ _ List.mem_cons_self
  rw [heq]
  exact ⟨(((hregs.fset (f := F.chStatus_STATE) _ _ _ (by decide)).fset (f := F.chStatus_DOWN) _ _ _ (by decide)).fset (f := F.chStatus_BUFFERED) _ _ _
    (by decide)).wr _ _ _ (by decide), (((hwide.fset _ _ _ _).fset _ _ _ _).fset _ _ _ _).wr _ _ _ _⟩

theorem State.chStarted_spec : (s.chStarted n).fget F.chStatus_STATE n = 1 ∧ (s.chStarted n).rdw .chPc n = s.rdw .chProg n ∧
    (s.chStarted n).fget F.chFault_LOOP_ACTIVE n = 0 ∧ (s.chStarted n).host = s.host := by
  obtain ⟨hst, hpc⟩ := s.chRun_spec n (s.rdw .chProg n).toNat (s.fget F.chCtl_PROG_SPACE n)
  refine ⟨hst, hpc.trans (BitVec.ofNat_toNat _ _ |>.trans (BitVec.setWidth_eq _)), ?_, (State.chRun_keeps (.rfl' .butHost s) _ _ _).hostAll rfl rfl⟩
  exact (congrArg (fun w : Word => bits w.toNat 7 4) (rd_wr_same _ .chFault 0 n 0)).trans (bits_zero_word _ _)

/-- A channel's state set. -/
def State.chSet (s : State) (n st : Nat) : State := s.fset F.chStatus_STATE st n

theorem State.chSet_spec {st : Nat} (h : st < 8) : (s.chSet n st).fget F.chStatus_STATE n = st ∧ OnlyRegs [.chStatus] s (s.chSet n st) ∧ (s.chSet n st).dma = s.dma :=
  ⟨(fget_fset_same s F.chStatus_STATE st n 0 (by decide) (by decide)).trans (Nat.mod_eq_of_lt h),
    (OnlyRegs.refl _ s).fset (f := F.chStatus_STATE) _ _ _ List.mem_cons_self, s.fset_dma _ _ _ _⟩

theorem execDmaPause_runs (h : s.fget F.chStatus_STATE n = 1) : execDmaPause n s = .next (s.chSet n 3) := congrArg Host.Outcome.next (if_pos h)

theorem execDmaPause_waits (h : s.fget F.chStatus_STATE n = 2) : execDmaPause n s = .next (s.chSet n 4) :=
  congrArg Host.Outcome.next ((if_neg (by omega)).trans (if_pos h))

theorem execDmaPause_ignored (h1 : s.fget F.chStatus_STATE n ≠ 1) (h2 : s.fget F.chStatus_STATE n ≠ 2) : execDmaPause n s = .next s :=
  congrArg Host.Outcome.next ((if_neg h1).trans (if_neg h2))

theorem execDmaPauseDrained_done (h : s.fget F.chStatus_STATE n = 3) (hb : (s.dmaCh n).buf = []) : execDmaPauseDrained n s = .next (s.chSet n 4) :=
  congrArg Host.Outcome.next (if_pos ⟨h, by rw [hb]; rfl⟩)

theorem execDmaPauseDrained_ignored (h : s.fget F.chStatus_STATE n ≠ 3 ∨ (s.dmaCh n).buf ≠ []) : execDmaPauseDrained n s = .next s :=
  congrArg Host.Outcome.next (if_neg fun hx => h.elim (fun h => h hx.1) fun h => h (List.isEmpty_iff.1 hx.2))

/-! ## RESUME and ABORT (R414) -/

/-- A channel resumed, and one aborted. -/
def State.chResumed (s : State) (n : Nat) : State := (s.fset F.chStatus_STATE 1 n).fset F.chFault_CAUSE 0 n

def State.chCleared (s : State) (n : Nat) : State :=
  (s.setDmaCh n { s.dmaCh n with cur := none, backs := [0, 0, 0, 0], buf := [] }).fset F.chStatus_STATE 0 n
def State.loopsCleared (s : State) (n : Nat) : State := forN 4 (fun k s => s.wr .chLoop 0 n k) s
def State.chAborted (s : State) (n : Nat) : State := ((s.chCleared n).loopsCleared n).wr .chFault 0 n

theorem execDmaResume_stopped (h : s.fget F.chStatus_STATE n = 4 ∨ s.fget F.chStatus_STATE n = 5) : execDmaResume n s = .next (s.chResumed n) :=
  congrArg Host.Outcome.next (if_pos h)

theorem execDmaAbort_stopped (h : s.fget F.chStatus_STATE n = 4 ∨ s.fget F.chStatus_STATE n = 5) : execDmaAbort n s = .next (s.chAborted n) :=
  congrArg Host.Outcome.next (if_pos h)

theorem execDmaResume_ignored (h4 : s.fget F.chStatus_STATE n ≠ 4) (h5 : s.fget F.chStatus_STATE n ≠ 5) : execDmaResume n s = .next s :=
  congrArg Host.Outcome.next (if_neg fun hx => hx.elim h4 h5)

theorem execDmaAbort_ignored (h4 : s.fget F.chStatus_STATE n ≠ 4) (h5 : s.fget F.chStatus_STATE n ≠ 5) : execDmaAbort n s = .next s :=
  congrArg Host.Outcome.next (if_neg fun hx => hx.elim h4 h5)

theorem State.chResumed_spec : (s.chResumed n).fget F.chStatus_STATE n = 1 ∧ OnlyRegs [.chStatus, .chFault] s (s.chResumed n) ∧
    OnlyWide [] s (s.chResumed n) ∧ (s.chResumed n).dma = s.dma :=
  ⟨(fget_fset_reg _ _ _ _ _ _ (by decide)).trans (fget_fset_same s F.chStatus_STATE 1 n 0 (by decide) (by decide)),
    ((OnlyRegs.refl _ s).fset (f := F.chStatus_STATE) _ _ _ (by decide)).fset (f := F.chFault_CAUSE) _ _ _ (by decide),
    ((OnlyWide.refl _ s).fset _ _ _ _).fset _ _ _ _, (State.fset_dma _ _ _ _ _).trans (s.fset_dma _ _ _ _)⟩

theorem State.loopsCleared_loop (k : Fin 4) : (s.loopsCleared n).rd .chLoop n k = 0 := by
  have h : (s.loopsCleared n).rd .chLoop n k = if k.val < 4 then (s.wr .chLoop 0 n k).rd .chLoop n k else s.rd .chLoop n k :=
    forN_view (fun u : State => u.rd .chLoop n k) k.val s (fun j u hj hne => rd_wr_word u _ _ _ (by omega)) fun u w _ =>
      (rd_wr_same u _ _ _ _).trans (rd_wr_same w _ _ _ _).symm
  rw [if_pos k.isLt] at h
  exact h.trans (rd_wr_same s _ _ _ _)

theorem State.loopsCleared_rd {m : RName} (h : m ≠ .chLoop) (i j : Nat) : (s.loopsCleared n).rd m i j = s.rd m i j :=
  forN_keeps_view (fun u : State => u.rd m i j) fun _ u => rd_wr_reg u _ _ _ _ _ h

theorem State.chCleared_only : OnlyRegs [.chStatus] s (s.chCleared n) :=
  (State.fset_keeps (State.setDmaCh_keeps (.rfl' (.onRegs _) s) _ _) F.chStatus_STATE 0 n 0).onlyRegs

theorem State.chAborted_spec : (s.chAborted n).fget F.chStatus_STATE n = 0 ∧ (s.chAborted n).rd .chFault n = 0 ∧
    (∀ k : Fin 4, (s.chAborted n).rd .chLoop n k = 0) ∧ OnlyRegs [.chStatus, .chFault, .chLoop] s (s.chAborted n) ∧ (s.chAborted n).host = s.host := by
  have hst : (s.chCleared n).fget F.chStatus_STATE n = 0 := fget_fset_same _ F.chStatus_STATE 0 n 0 (by decide) (by decide)
  refine ⟨?_, rd_wr_same _ _ _ _ _, fun k => ?_, fun m i j hm => ?_, ?_⟩
  · refine (fget_of_rd F.chStatus_STATE ?_).trans hst
    exact (rd_wr_reg _ _ _ _ _ _ (by decide)).trans (State.loopsCleared_rd _ n (by decide) n 0)
  · exact (rd_wr_reg _ _ _ _ _ _ (by decide)).trans (State.loopsCleared_loop _ n k)
  · rw [List.mem_cons, List.mem_cons, List.mem_singleton, not_or, not_or] at hm
    exact (rd_wr_reg _ _ _ _ _ _ hm.2.1).trans ((State.loopsCleared_rd _ n hm.2.2 i j).trans (s.chCleared_only n m i j (by simpa using hm.1)))
  · unfold State.chAborted State.loopsCleared
    rw [State.wr_host, forN_keeps_view State.host fun k u => State.wr_host u _ _ _ _]
    exact (State.fset_host _ _ _ _ _).trans (s.setDmaCh_host _ _)
end

/-! ## Request bits (R423) -/

theorem State.swreqWrite_owner {s : State} {f : Nat} (v : Word) {k : Nat} (hk : k < 32) (h : s.chOwned f k = true) : s.swreqWrite f v = s.wr .dmaSwreq (v &&& 0xFF#32) :=
  if_pos (List.any_eq_true.2 ⟨k, List.mem_range.2 hk, h⟩)

theorem State.swreqWrite_foreign {s : State} {f : Nat} (v : Word) (h : ∀ k, k < 32 → s.chOwned f k = false) : s.swreqWrite f v = s.bump .cntForeignWr :=
  if_neg fun hx => by
    obtain ⟨k, hk, ho⟩ := List.any_eq_true.1 hx
    rw [h k (List.mem_range.1 hk)] at ho
    cases ho

/-- Settles O39: each command by the states that accept it, and what it leaves; the request bits by the owner of a channel. -/
theorem channelCommands : Obligations.ChannelCommands := by
  intro s n
  refine ⟨⟨fun h hb => ?_, fun h => execDmaStart_ignored s n h, fun h => ?_, fun h => ?_, fun h1 h2 => execDmaPause_ignored s n h1 h2, fun h hb => ?_,
    fun h => execDmaPauseDrained_ignored s n h, fun h => ?_, fun h4 h5 => ⟨execDmaResume_ignored s n h4 h5, execDmaAbort_ignored s n h4 h5⟩⟩,
    fun f v => ⟨fun h => ?_, fun hr hf hb => ?_, fun hm hk => ?_, fun hm hk => ?_⟩⟩
  · obtain ⟨hst, hpc, hloop, hhost⟩ := s.chStarted_spec n
    obtain ⟨hregs, hwide⟩ := s.chStarted_only n
    exact ⟨_, execDmaStart_idle s n h hb, hst, hpc, hloop, hregs, hwide, hhost⟩
  · exact ⟨_, execDmaPause_runs s n h, s.chSet_spec n (by decide)⟩
  · exact ⟨_, execDmaPause_waits s n h, s.chSet_spec n (by decide)⟩
  · exact ⟨_, execDmaPauseDrained_done s n h hb, s.chSet_spec n (by decide)⟩
  · obtain ⟨hst, hregs, hwide, hdma⟩ := s.chResumed_spec n
    obtain ⟨hst', hfault, hloop, hregs', hhost⟩ := s.chAborted_spec n
    exact ⟨_, _, execDmaResume_stopped s n h, hst, hregs, hwide, hdma, execDmaAbort_stopped s n h, hst', hfault, hloop, hregs', hhost⟩
  · exact congrArg Host.Outcome.next (s.underRight_shut _ h)
  · obtain ⟨hfrozen, hkind⟩ := State.violation_freezes (kind := 1) 0x500004 0 hf (by decide)
    exact ⟨_, congrArg Host.Outcome.next (s.underRight_without _ hr hf hb), hfrozen, hkind,
      (State.violation_keeps (.rfl' (.avoid [.dmaSwreq]) s) _ _ _ _).rd .dmaSwreq 0 0 rfl⟩
  · obtain ⟨k, hk⟩ := hk
    exact ⟨_, congrArg Host.Outcome.next ((s.underRight_may _ hm).trans (State.swreqWrite_owner v k.isLt hk)), rd_wr_same _ _ _ _ _,
      (OnlyRegs.refl _ s).wr _ _ _ List.mem_cons_self, fun _ _ _ _ => rfl⟩
  · exact congrArg Host.Outcome.next ((s.underRight_may _ hm).trans (State.swreqWrite_foreign v fun k hk' => hk ⟨k, hk'⟩))

end Sys2Proof.Machine
end

section
/-!
PROOF. The instructions of DMA programs (R407 to R412, R415).
-/

set_option Elab.async false
set_option exponentiation.threshold 4096
set_option maxRecDepth 20000

namespace Sys2Proof.Machine

/-! ## A channel's own state -/

section
variable (s : State) (n : Nat)

theorem State.dmaCh_of_dma {s u : State} (h : u.dma = s.dma) (k : Nat) : u.dmaCh k = s.dmaCh k := congrArg (fun x : DmaSt => tget x.ch k {}) h

theorem Keeps.dmaAll {L : Touch} {s t : State} (h : Keeps L s t) (hd : L.dma = false) (hl : L.loc = false) : t.dma = s.dma := by
  have h1 := h.dma hd
  rwa [← h.loc hl] at h1

/-- Everything but the DMA channels and their local memory. -/
def Touch.butDma : Touch := { Touch.all with dma := false, loc := false }

/-- A channel's first violation, before it is reported and posted. -/
def State.chViolated (s : State) (n kind addr : Nat) : State := (s.setDmaCh n { s.dmaCh n with viol := some (kind, addr) }).chFreeze n

theorem State.chViolation_first (kind addr : Nat) (h : (s.dmaCh n).viol = none) :
    s.chViolation n kind addr = ((s.chViolated n kind addr).report srcDma 0x11 n).postFn 0 0x0603 (n + 128 + kind * 256) :=
  if_neg (by rw [h]; exact Bool.false_ne_true)

theorem State.chViolated_ch (kind addr k : Nat) : (s.chViolated n kind addr).dmaCh k = (s.setDmaCh n { s.dmaCh n with viol := some (kind, addr) }).dmaCh k :=
  State.dmaCh_of_dma (State.fset_dma _ _ _ _ _) k

theorem State.dmaCh_setDmaCh (k : Nat) (v : DmaCh) : (s.setDmaCh n v).dmaCh k = if k = n then v else s.dmaCh k := by
  split
  case isTrue h => rw [h]; exact s.setDmaCh_dmaCh n v
  case isFalse h => exact s.setDmaCh_dmaCh_ne n k v h

theorem State.chViolation_dma (kind addr : Nat) (h : (s.dmaCh n).viol = none) : (s.chViolation n kind addr).dma = (s.chViolated n kind addr).dma := by
  rw [s.chViolation_first n kind addr h]
  exact (State.postFn_keeps (State.report_keeps (.rfl' .butDma _) _ _ _) _ _ _).dmaAll rfl rfl

theorem State.chViolation_state (kind addr : Nat) (h : (s.dmaCh n).viol = none) : (s.chViolation n kind addr).fget F.chStatus_STATE n = 6 := by
  rw [s.chViolation_first n kind addr h, (State.postFn_keeps (State.report_keeps (.rfl' (.avoid [.chStatus]) _) _ _ _) _ _ _).fget F.chStatus_STATE n 0 rfl]
  exact fget_fset_same _ F.chStatus_STATE 6 n 0 (by decide) (by decide)

theorem State.chViolation_viol (kind addr : Nat) (h : (s.dmaCh n).viol = none) : ((s.chViolation n kind addr).dmaCh n).viol = some (kind, addr) := by
  rw [State.dmaCh_of_dma (s.chViolation_dma n kind addr h), s.chViolated_ch, State.setDmaCh_dmaCh]

theorem State.chViolation_lines (kind addr k : Nat) (h : (s.dmaCh n).viol = none) : ((s.chViolation n kind addr).dmaCh k).lines = (s.dmaCh k).lines := by
  rw [State.dmaCh_of_dma (s.chViolation_dma n kind addr h), s.chViolated_ch, State.dmaCh_setDmaCh]
  split
  case isTrue hk => rw [hk]
  case isFalse => rfl

theorem State.chViolation_mem (kind addr : Nat) : (s.chViolation n kind addr).host.mem = s.host.mem := (State.chViolation_keeps (.rfl' .butMem s) n kind addr).mem rfl
theorem State.chFault_mem (cause : Nat) : (s.chFault n cause).host.mem = s.host.mem := (State.chFault_keeps (.rfl' .butMem s) n cause).mem rfl

/-- A channel in FAULT with its cause (R415). -/
theorem State.chFault_spec {cause : Nat} (h : cause < 8) : (s.chFault n cause).fget F.chStatus_STATE n = 5 ∧ (s.chFault n cause).fget F.chFault_CAUSE n = cause := by
  obtain ⟨u, hu⟩ : ∃ u, u = (s.fset F.chFault_CAUSE cause n).fset F.chStatus_STATE 5 n := ⟨_, rfl⟩
  have hk : Keeps (.avoid [.chStatus, .chFault]) u (s.chFault n cause) := by
    rw [hu]
    exact State.report_keeps (.rfl' _ _) _ _ _
  rw [hk.fget F.chStatus_STATE n 0 rfl, hk.fget F.chFault_CAUSE n 0 rfl, hu]
  refine ⟨fget_fset_same _ _ _ _ _ (by decide) (by decide), ?_⟩
  rw [fget_fset_reg _ _ _ _ _ _ (by decide), fget_fset_same _ _ _ _ _ (by decide) (by decide)]
  exact Nat.mod_eq_of_lt h

/-! ## How an instruction is reached (R407) -/

theorem State.execIns_busy (ins : List Byte) (f : DmaOp → State → Option State) (h : s.chIdle n = false) : s.execIns n ins f = s := if_pos h

theorem State.execIns_outside (ins : List Byte) (f : DmaOp → State → Option State) (h : s.chIdle n = true) (hf : s.fetchOk n = false) :
    s.execIns n ins f = s.chViolation n 5 (s.rdw .chPc n).toNat := (if_neg (by rw [h]; decide)).trans (if_pos hf)

theorem State.execIns_ready {ins : List Byte} {f : DmaOp → State → Option State} {o : DmaOp} (h : s.chIdle n = true) (hf : s.fetchOk n = true)
    (ho : s.insAt n ins = o) : s.execIns n ins f = (f o s).getD s :=
  ((if_neg (by rw [h]; decide)).trans (if_neg (by rw [hf]; decide))).trans (by rw [ho])

/-! ## The program counter -/

theorem State.chGo_pc (pc : Nat) : (s.chGo n pc).rdw .chPc n = BitVec.ofNat 64 pc := rdw_wrw_same s _ _ _ _

theorem ofNat_add_32 (w : DWord) : BitVec.ofNat 64 (w.toNat + 32) = w + 32#64 := by
  rw [BitVec.ofNat_add, BitVec.ofNat_toNat, BitVec.setWidth_eq]

theorem State.chNext_pc : (s.chNext n).rdw .chPc n = s.rdw .chPc n + 32#64 := (s.chGo_pc n _).trans (ofNat_add_32 _)

theorem State.chGo_ch (pc : Nat) : (s.chGo n pc).dmaCh n = { s.dmaCh n with cur := none } := State.setDmaCh_dmaCh _ _ _

theorem State.chGo_only (pc : Nat) : OnlyRegs [] s (s.chGo n pc) ∧ OnlyWide [.chPc] s (s.chGo n pc) ∧ (s.chGo n pc).host = s.host :=
  ⟨fun _ _ _ _ => rfl, (OnlyWide.refl _ s).wrw _ _ _ List.mem_cons_self, rfl⟩

/-! ## MOVE (R408) -/

/-- The address registers of a MOVE that loads them. -/
def State.moveLoaded (s : State) (n : Nat) (load : Bool) (src dst : Nat) : State :=
  if load then (s.wrw .chSrc (BitVec.ofNat 64 src) n).wrw .chDst (BitVec.ofNat 64 dst) n else s

/-- A MOVE with its length and direction set. -/
def State.moveSet (s : State) (n ssp dsp : Nat) (load sinc dinc : Bool) (len src dst : Nat) : State :=
  let s1 := s.moveLoaded n load src dst
  (s1.fset F.chStatus_DOWN (b2n (copiesDown ssp dsp sinc dinc (s1.rdw .chSrc n).toNat (s1.rdw .chDst n).toNat len)) n).wr .chLen (BitVec.ofNat 32 len) n

/-- The MOVE a channel holds. -/
def State.moveHeld (s : State) (n ssp dsp : Nat) (load sinc dinc : Bool) (len a b : Nat) : State :=
  s.setDmaCh n { s.dmaCh n with cur := some (.move ssp dsp load sinc dinc len a b), buf := [] }

section
variable (ssp dsp : Nat) (load sinc dinc : Bool) (len src dst : Nat)

theorem State.moveStart_zero (h : len = 0) :
    s.moveStart n ssp dsp load sinc dinc len src dst = (s.moveSet n ssp dsp load sinc dinc len src dst).chNext n := if_pos h

theorem State.moveStart_some (h : len ≠ 0) : s.moveStart n ssp dsp load sinc dinc len src dst =
    (s.moveSet n ssp dsp load sinc dinc len src dst).moveHeld n ssp dsp load sinc dinc len ((s.moveLoaded n load src dst).rdw .chSrc n).toNat
      ((s.moveLoaded n load src dst).rdw .chDst n).toNat := if_neg h

theorem State.moveLoaded_spec : (s.moveLoaded n load src dst).rdw .chSrc n = (if load then BitVec.ofNat 64 src else s.rdw .chSrc n) ∧
    (s.moveLoaded n load src dst).rdw .chDst n = (if load then BitVec.ofNat 64 dst else s.rdw .chDst n) ∧
    (s.moveLoaded n load src dst).rdw .chPc n = s.rdw .chPc n ∧ (s.moveLoaded n load src dst).host = s.host ∧
    (s.moveLoaded n load src dst).rd .chStatus n = s.rd .chStatus n := by
  unfold State.moveLoaded
  cases load
  · exact ⟨rfl, rfl, rfl, rfl, rfl⟩
  · refine ⟨?_, rdw_wrw_same _ _ _ _ _, ?_, rfl, rfl⟩
    · exact (rdw_wrw_reg _ _ _ _ _ _ (by decide)).trans (rdw_wrw_same s _ _ _ _)
    · exact (rdw_wrw_reg _ _ _ _ _ _ (by decide)).trans (rdw_wrw_reg s _ _ _ _ _ (by decide))

theorem State.moveSet_rdw (m : RName) : (s.moveSet n ssp dsp load sinc dinc len src dst).rdw m n = (s.moveLoaded n load src dst).rdw m n := rfl

theorem State.moveSet_spec : (s.moveSet n ssp dsp load sinc dinc len src dst).rd .chLen n = BitVec.ofNat 32 len ∧
    (s.moveSet n ssp dsp load sinc dinc len src dst).host = s.host ∧
    (s.moveSet n ssp dsp load sinc dinc len src dst).fget F.chStatus_STATE n = s.fget F.chStatus_STATE n := by
  refine ⟨rd_wr_same _ _ _ _ _, ?_, ?_⟩
  · exact (State.wr_host _ _ _ _ _).trans ((State.fset_host _ _ _ _ _).trans (s.moveLoaded_spec n load src dst).2.2.2.1)
  · unfold State.moveSet
    dsimp only
    rw [fget_of_rd F.chStatus_STATE (rd_wr_reg _ _ _ _ _ _ (by decide)), fget_fset_off _ _ _ _ _ _ (by decide) (by decide) (by decide)]
    exact fget_of_rd F.chStatus_STATE (s.moveLoaded_spec n load src dst).2.2.2.2

/-- What a MOVE leaves as it starts. -/
theorem State.moveStart_spec : (s.moveStart n ssp dsp load sinc dinc len src dst).rdw .chSrc n = (if load then BitVec.ofNat 64 src else s.rdw .chSrc n) ∧
    (s.moveStart n ssp dsp load sinc dinc len src dst).rdw .chDst n = (if load then BitVec.ofNat 64 dst else s.rdw .chDst n) ∧
    (s.moveStart n ssp dsp load sinc dinc len src dst).rd .chLen n = BitVec.ofNat 32 len ∧
    (s.moveStart n ssp dsp load sinc dinc len src dst).host = s.host ∧
    (len = 0 → (s.moveStart n ssp dsp load sinc dinc len src dst).rdw .chPc n = s.rdw .chPc n + 32#64 ∧
      ((s.moveStart n ssp dsp load sinc dinc len src dst).dmaCh n).cur = none) ∧
    (len ≠ 0 → (s.moveStart n ssp dsp load sinc dinc len src dst).rdw .chPc n = s.rdw .chPc n ∧
      (s.moveStart n ssp dsp load sinc dinc len src dst).chIdle n = false) := by
  obtain ⟨hsrc, hdst, hpc, -, -⟩ := s.moveLoaded_spec n load src dst
  obtain ⟨hlen, hhost, -⟩ := s.moveSet_spec n ssp dsp load sinc dinc len src dst
  have hm := s.moveSet_rdw n ssp dsp load sinc dinc len src dst
  by_cases h : len = 0
  · rw [s.moveStart_zero n ssp dsp load sinc dinc len src dst h]
    obtain ⟨hregs, hwide, hh⟩ := (s.moveSet n ssp dsp load sinc dinc len src dst).chGo_only n
      (((s.moveSet n ssp dsp load sinc dinc len src dst).rdw .chPc n).toNat + 32)
    refine ⟨(hwide .chSrc n 0 (by decide)).trans ((hm _).trans hsrc), (hwide .chDst n 0 (by decide)).trans ((hm _).trans hdst),
      (hregs .chLen n 0 (by decide)).trans hlen, hh.trans hhost, fun _ => ⟨?_, ?_⟩, fun hx => absurd h hx⟩
    · rw [State.chNext_pc, hm, hpc]
    · exact congrArg DmaCh.cur (State.chGo_ch _ n _)
  · rw [s.moveStart_some n ssp dsp load sinc dinc len src dst h]
    refine ⟨(hm _).trans hsrc, (hm _).trans hdst, hlen, hhost, fun hx => absurd hx h, fun _ => ⟨(hm _).trans hpc, ?_⟩⟩
    unfold State.chIdle State.moveHeld
    rw [State.setDmaCh_dmaCh]
    exact Bool.and_false _
end

/-! ## LOOP (R409) -/

/-- A loop that goes back, and one that ends. -/
def State.loopOn (s : State) (n level : Nat) : Bool := bitAt (s.fget F.chFault_LOOP_ACTIVE n) level
def State.loopLeft (s : State) (n level count : Nat) : Nat := if s.loopOn n level then (s.rd .chLoop n level).toNat else max 1 count - 1
def State.LoopBad (s : State) (n level back : Nat) : Prop :=
  back = 0 ∨ (s.rdw .chPc n).toNat < (s.dmaCh n).progBase + 32 * back ∨ (s.loopOn n level = true ∧ nth (s.dmaCh n).backs level 0 ≠ back)

def State.loopKept (s : State) (n level back left bit : Nat) : State :=
  ((s.setDmaCh n { s.dmaCh n with backs := putNth (s.dmaCh n).backs level back }).wr .chLoop (BitVec.ofNat 32 left) n level).fset F.chFault_LOOP_ACTIVE
    (setBits (s.fget F.chFault_LOOP_ACTIVE n) level level bit) n

/-- The address registers stepped. -/
def State.loopStepped (s : State) (n ss ds : Nat) : State :=
  (s.wrw .chSrc (stepAddr (s.rdw .chSrc n) ss) n).wrw .chDst (stepAddr (s.rdw .chDst n) ds) n

section
variable (level back count ss ds : Nat)

theorem State.loopDo_eq : s.loopDo n level back count ss ds =
    if back = 0 ∨ (s.rdw .chPc n).toNat < (s.dmaCh n).progBase + 32 * back ∨ (s.loopOn n level = true ∧ nth (s.dmaCh n).backs level 0 ≠ back) then
      s.chFault n 2
    else if 0 < s.loopLeft n level count then
      ((s.loopKept n level back (s.loopLeft n level count - 1) 1).loopStepped n ss ds).chGo n ((s.rdw .chPc n).toNat - 32 * back)
    else (s.loopKept n level back 0 0).chNext n := rfl

theorem State.loopDo_bad (h : s.LoopBad n level back) : s.loopDo n level back count ss ds = s.chFault n 2 := if_pos h

theorem State.loopDo_back (h : ¬ s.LoopBad n level back) (hl : 0 < s.loopLeft n level count) : s.loopDo n level back count ss ds =
    ((s.loopKept n level back (s.loopLeft n level count - 1) 1).loopStepped n ss ds).chGo n ((s.rdw .chPc n).toNat - 32 * back) :=
  (s.loopDo_eq n level back count ss ds).trans ((if_neg h).trans (if_pos hl))

theorem State.loopDo_end (h : ¬ s.LoopBad n level back) (hl : s.loopLeft n level count = 0) :
    s.loopDo n level back count ss ds = (s.loopKept n level back 0 0).chNext n :=
  (s.loopDo_eq n level back count ss ds).trans ((if_neg h).trans (if_neg (by omega)))

theorem bitAt_setBits_same (v : Nat) {level bit : Nat} (hb : bit < 2) (hl : level < 4) : bitAt (setBits v level level bit % 2 ^ 4) level = decide (bit = 1) := by
  unfold bitAt
  rw [Nat.testBit_mod_two_pow, testBit_setBits _ _ _ _ _ (le_refl _), decide_eq_true hl, Bool.true_and]
  have : bit = 0 ∨ bit = 1 := by omega
  rcases this with rfl | rfl <;> simp

theorem State.loopKept_spec (left : Nat) {bit : Nat} (hb : bit < 2) (hl : level < 4) : (s.loopKept n level back left bit).rd .chLoop n level = BitVec.ofNat 32 left ∧
    bitAt ((s.loopKept n level back left bit).fget F.chFault_LOOP_ACTIVE n) level = decide (bit = 1) ∧
    (∀ m i j, (s.loopKept n level back left bit).rdw m i j = s.rdw m i j) ∧ (s.loopKept n level back left bit).host = s.host := by
  unfold State.loopKept
  refine ⟨?_, ?_, fun _ _ _ => rfl, (State.fset_host _ _ _ _ _).trans ((State.wr_host _ _ _ _ _).trans (s.setDmaCh_host _ _))⟩
  · rw [rd_fset_reg _ _ _ _ _ _ (by decide)]
    exact rd_wr_same _ _ _ _ _
  · rw [fget_fset_same _ _ _ _ _ (by decide) (by decide)]
    exact bitAt_setBits_same _ hb hl

theorem State.loopStepped_spec : (s.loopStepped n ss ds).rdw .chSrc n = stepAddr (s.rdw .chSrc n) ss ∧
    (s.loopStepped n ss ds).rdw .chDst n = stepAddr (s.rdw .chDst n) ds ∧ (∀ m i j, (s.loopStepped n ss ds).rd m i j = s.rd m i j) ∧
    (s.loopStepped n ss ds).host = s.host := by
  unfold State.loopStepped
  refine ⟨?_, ?_, fun _ _ _ => rfl, rfl⟩
  · rw [rdw_wrw_reg _ _ _ _ _ _ (by decide), rdw_wrw_same]
  · rw [rdw_wrw_same]

theorem State.loopDo_back_spec (hlev : level < 4) (h : ¬ s.LoopBad n level back) (hl : 0 < s.loopLeft n level count) :
    (s.loopDo n level back count ss ds).rdw .chPc n = BitVec.ofNat 64 ((s.rdw .chPc n).toNat - 32 * back) ∧
    (s.loopDo n level back count ss ds).rd .chLoop n level = BitVec.ofNat 32 (s.loopLeft n level count - 1) ∧
    bitAt ((s.loopDo n level back count ss ds).fget F.chFault_LOOP_ACTIVE n) level = true ∧
    (s.loopDo n level back count ss ds).rdw .chSrc n = stepAddr (s.rdw .chSrc n) ss ∧
    (s.loopDo n level back count ss ds).rdw .chDst n = stepAddr (s.rdw .chDst n) ds ∧ (s.loopDo n level back count ss ds).host = s.host := by
  obtain ⟨a, ha⟩ : ∃ a, a = s.loopKept n level back (s.loopLeft n level count - 1) 1 := ⟨_, rfl⟩
  obtain ⟨b, hb⟩ : ∃ b, b = a.loopStepped n ss ds := ⟨_, rfl⟩
  obtain ⟨hloop, hact, hw, hah⟩ := s.loopKept_spec n level back (s.loopLeft n level count - 1) (bit := 1) (by decide) hlev
  rw [← ha] at hloop hact hw hah
  obtain ⟨hsrc, hdst, hr, hbh⟩ := a.loopStepped_spec n ss ds
  rw [← hb] at hsrc hdst hr hbh
  obtain ⟨hregs, hwide, hgh⟩ := b.chGo_only n ((s.rdw .chPc n).toNat - 32 * back)
  rw [s.loopDo_back n level back count ss ds h hl, ← ha, ← hb]
  refine ⟨b.chGo_pc n _, (hregs _ _ _ (by decide)).trans ((hr _ _ _).trans hloop), ?_, (hwide _ _ _ (by decide)).trans (hsrc.trans (by rw [hw])),
    (hwide _ _ _ (by decide)).trans (hdst.trans (by rw [hw])), hgh.trans (hbh.trans hah)⟩
  rw [fget_of_rd F.chFault_LOOP_ACTIVE ((hregs _ n 0 (by decide)).trans (hr _ n 0))]
  exact hact

theorem State.loopDo_end_spec (hlev : level < 4) (h : ¬ s.LoopBad n level back) (hl : s.loopLeft n level count = 0) :
    (s.loopDo n level back count ss ds).rdw .chPc n = s.rdw .chPc n + 32#64 ∧
    bitAt ((s.loopDo n level back count ss ds).fget F.chFault_LOOP_ACTIVE n) level = false ∧
    (s.loopDo n level back count ss ds).rdw .chSrc n = s.rdw .chSrc n ∧ (s.loopDo n level back count ss ds).host = s.host := by
  obtain ⟨a, ha⟩ : ∃ a, a = s.loopKept n level back 0 0 := ⟨_, rfl⟩
  obtain ⟨-, hact, hw, hah⟩ := s.loopKept_spec n level back 0 (bit := 0) (by decide) hlev
  rw [← ha] at hact hw hah
  obtain ⟨hregs, hwide, hgh⟩ := a.chGo_only n ((a.rdw .chPc n).toNat + 32)
  rw [s.loopDo_end n level back count ss ds h hl, ← ha]
  refine ⟨(a.chNext_pc n).trans (by rw [hw]), ?_, (hwide _ _ _ (by decide)).trans (hw _ _ _), hgh.trans hah⟩
  refine Eq.trans ?_ hact
  rw [← fget_of_rd F.chFault_LOOP_ACTIVE (hregs _ n 0 (by decide))]
  rfl
end

/-! ## WAIT (R410) -/

/-- A WAIT that is put to sleep. -/
def State.waitSleeps (s : State) (n line : Nat) (pol : Bool) (tmo : Nat) : State :=
  (s.fset F.chStatus_STATE 2 n).setDmaCh n { s.dmaCh n with cur := some (.wait line pol tmo) }

/-- The pulse line cleared with POL 0. -/
def State.waitCleared (s : State) (n line : Nat) (pol : Bool) : State :=
  if pol then s else s.setDmaCh n { s.dmaCh n with lines := (s.dmaCh n).lines &&& ~~~(BitVec.ofNat 64 (2 ^ line)) }

theorem State.waitEnd_eq (line : Nat) (pol : Bool) : s.waitEnd n line pol = ((s.waitCleared n line pol).fset F.chStatus_STATE 1 n).chNext n := rfl

theorem State.waitCleared_spec (line : Nat) (pol : Bool) : (s.waitCleared n line pol).rdw .chPc n = s.rdw .chPc n ∧
    (pol = false → line < 64 → ((s.waitCleared n line pol).dmaCh n).lines.getLsbD line = false) := by
  unfold State.waitCleared
  cases pol
  · refine ⟨rfl, fun _ hl => ?_⟩
    rw [if_neg Bool.false_ne_true, State.setDmaCh_dmaCh]
    dsimp only
    rw [BitVec.getLsbD_and, BitVec.getLsbD_not, BitVec.getLsbD_ofNat, Nat.testBit_two_pow_self]
    simp [hl]
  · exact ⟨rfl, fun h => absurd h.symm Bool.false_ne_true⟩

theorem State.waitEnd_spec (line : Nat) (pol : Bool) : (s.waitEnd n line pol).fget F.chStatus_STATE n = 1 ∧
    (s.waitEnd n line pol).rdw .chPc n = s.rdw .chPc n + 32#64 ∧
    (pol = false → line < 64 → ((s.waitEnd n line pol).dmaCh n).lines.getLsbD line = false) := by
  obtain ⟨hpc, hline⟩ := s.waitCleared_spec n line pol
  obtain ⟨a, ha⟩ : ∃ a, a = s.waitCleared n line pol := ⟨_, rfl⟩
  obtain ⟨u, hu⟩ : ∃ u, u = a.fset F.chStatus_STATE 1 n := ⟨_, rfl⟩
  have heq : s.waitEnd n line pol = u.chNext n := by rw [hu, ha]; rfl
  have hst : u.fget F.chStatus_STATE n = 1 := by
    rw [hu]
    exact fget_fset_same _ F.chStatus_STATE 1 n 0 (by decide) (by decide)
  have hdma : u.dmaCh n = a.dmaCh n := by
    rw [hu]
    exact State.dmaCh_of_dma (State.fset_dma _ _ _ _ _) n
  have hupc : u.rdw .chPc n = s.rdw .chPc n := by
    rw [hu, ← hpc, ha]
    exact rdw_fset _ _ _ _ _ _ _ _
  rw [heq]
  refine ⟨(fget_of_rd F.chStatus_STATE ((u.chGo_only n _).1 _ _ _ (by decide))).trans hst, (u.chNext_pc n).trans (by rw [hupc]), fun hp hl => ?_⟩
  have hl' : ((u.chNext n).dmaCh n).lines = (u.dmaCh n).lines := by
    unfold State.chNext
    rw [u.chGo_ch]
  rw [hl', hdma, ha]
  exact hline hp hl

theorem State.waitSleeps_spec (line : Nat) (pol : Bool) (tmo : Nat) : (s.waitSleeps n line pol tmo).fget F.chStatus_STATE n = 2 ∧
    (s.waitSleeps n line pol tmo).rdw .chPc n = s.rdw .chPc n ∧ ((s.waitSleeps n line pol tmo).dmaCh n).cur = some (.wait line pol tmo) := by
  unfold State.waitSleeps
  refine ⟨?_, ?_, ?_⟩
  · rw [State.setDmaCh_fget]
    exact fget_fset_same _ F.chStatus_STATE 2 n 0 (by decide) (by decide)
  · rw [State.setDmaCh_rdw]
    exact rdw_fset _ _ _ _ _ _ _ _
  · rw [State.setDmaCh_dmaCh]

/-! ## SIGNAL (R411) -/

/-- The bytes a SIGNAL writes. -/
def sigBytes (size8 : Bool) : Nat := if size8 then 8 else 4

section
variable (space : Nat) (size8 : Bool) (addr value : Nat)

theorem State.signalDo_misaligned (h : addr % sigBytes size8 ≠ 0) : s.signalDo n space size8 addr value = s.chFault n 4 := if_pos h

theorem State.signalDo_refused (h : addr % sigBytes size8 = 0) (ha : s.chAccess n space addr (sigBytes size8) true ≠ 0) :
    s.signalDo n space size8 addr value = s.chViolation n (s.chAccess n space addr (sigBytes size8) true) addr :=
  (if_neg (fun hx => hx h)).trans (if_pos ha)

theorem State.signalDo_host (h : addr % sigBytes size8 = 0) (ha : s.chAccess n 0 addr (sigBytes size8) true = 0) :
    s.signalDo n 0 size8 addr value = (s.hostPut addr (leBytes (sigBytes size8) value)).chNext n :=
  (if_neg (fun hx => hx h)).trans (if_neg (fun hx => hx ha))

theorem State.signalHost_spec : memGet ((s.hostPut addr (leBytes (sigBytes size8) value)).chNext n).host.mem addr (sigBytes size8) = leBytes (sigBytes size8) value ∧
    ((s.hostPut addr (leBytes (sigBytes size8) value)).chNext n).rdw .chPc n = s.rdw .chPc n + 32#64 ∧
    ∀ a, (a < addr ∨ addr + sigBytes size8 ≤ a) → tget ((s.hostPut addr (leBytes (sigBytes size8) value)).chNext n).host.mem a 0 = tget s.host.mem a 0 := by
  have hlen := leBytes_length (sigBytes size8) value
  have hmem : ((s.hostPut addr (leBytes (sigBytes size8) value)).chNext n).host.mem = memPut s.host.mem addr (leBytes (sigBytes size8) value) := rfl
  rw [hmem]
  refine ⟨?_, (State.chNext_pc _ n).trans rfl, fun a ha => tget_memPut_outside hlen ha⟩
  have h := memGet_memPut (m := s.host.mem) (a := addr) (bs := leBytes (sigBytes size8) value)
  rwa [hlen] at h
end

/-! ## END (R412) -/

theorem State.dmaPulse_line {line k : Nat} (hk : k < 32) (hl : line < 64) : ((s.dmaPulse line).dmaCh k).lines.getLsbD line = true := by
  have h : (s.dmaPulse line).dmaCh k = if k < 32 then
      (s.setDmaCh k { s.dmaCh k with lines := (s.dmaCh k).lines ||| BitVec.ofNat 64 (2 ^ line) }).dmaCh k else s.dmaCh k :=
    forN_view (fun u : State => u.dmaCh k) k s (fun j u _ hne => u.setDmaCh_dmaCh_ne j k _ (Ne.symm hne)) fun u w huw => by
      have huw' : u.dmaCh k = w.dmaCh k := huw
      dsimp only
      rw [State.setDmaCh_dmaCh, State.setDmaCh_dmaCh, huw']
  rw [h, if_pos hk, State.setDmaCh_dmaCh]
  dsimp only
  rw [BitVec.getLsbD_or, BitVec.getLsbD_ofNat, Nat.testBit_two_pow_self]
  simp [hl]

/-- What an END does to its target, and the channel at rest. -/
def State.endTarget (s : State) (f target ring dbval : Nat) : State :=
  match target with
  | 1 => s.teAccept .reg { teOpOf 5 0 [] with gen := 1 }
  | 2 => s.ringPageWrite f ring (fun s => s.setTail ring (BitVec.ofNat 32 dbval))
  | _ => s

def State.endRest (s : State) (n : Nat) : State := (s.setDmaCh n { s.dmaCh n with cur := none }).fset F.chStatus_STATE 0 n

section
variable (target ring dbval : Nat)

/-- The owner may not do what the END asks for. -/
def State.EndRefused (s : State) (n target ring : Nat) : Prop :=
  (target = 1 ∧ s.hasRight (s.chFn n) 1 = false) ∨ (target = 2 ∧ s.ringOwnerOf ring ≠ s.chFn n)

theorem State.endDo_refused (h : s.EndRefused n target ring) :
    s.endDo n target ring dbval = s.chViolation n 6 (if target = 2 then ring * 4096 else 0) := if_pos h

theorem State.endDo_done (h : ¬ s.EndRefused n target ring) :
    s.endDo n target ring dbval = ((s.dmaPulse (24 + n)).endTarget (s.chFn n) target ring dbval).endRest n := if_neg h

theorem State.doorbell_dma (f : Nat) (v : Word) : (s.ringPageWrite f ring (fun s => s.setTail ring v)).dma = s.dma := by
  have hk : Keeps .butDma s (s.ringPageWrite f ring (fun s => s.setTail ring v)) :=
    State.ringPageWrite_keeps (.rfl' _ s) f ring fun u hu => State.setTail_keeps hu ring v
  exact hk.dmaAll rfl rfl

theorem State.endTarget_dma (f : Nat) : (s.endTarget f target ring dbval).dma = s.dma := by
  unfold State.endTarget
  split
  · rfl
  · exact s.doorbell_dma ring f _
  · rfl

theorem State.endRest_spec : (s.endRest n).fget F.chStatus_STATE n = 0 ∧ (∀ k, ((s.endRest n).dmaCh k).lines = (s.dmaCh k).lines) ∧ (s.endRest n).te = s.te := by
  unfold State.endRest
  refine ⟨fget_fset_same _ F.chStatus_STATE 0 n 0 (by decide) (by decide), fun k => ?_, (State.fset_te _ _ _ _ _).trans rfl⟩
  rw [State.dmaCh_of_dma (State.fset_dma _ _ _ _ _), State.dmaCh_setDmaCh]
  split
  case isTrue h => rw [h]
  case isFalse => rfl
end

theorem State.dmaPulse_te (line : Nat) : (s.dmaPulse line).te = s.te := (State.dmaPulse_keeps (.rfl' .butTe s) line).te rfl

theorem State.endTarget_ops (f ring dbval : Nat) : (s.endTarget f 1 ring dbval).te.ops.length = s.te.ops.length + 1 := by
  obtain ⟨x, hx, -⟩ := s.teAccept_ops .reg { teOpOf 5 0 [] with gen := 1 }
  refine (congrArg List.length hx).trans ?_
  rw [List.length_append]
  rfl

/-- A program's END done. -/
theorem State.endDone_spec (target ring dbval : Nat) (hn : n < 32) (h : ¬ s.EndRefused n target ring) :
    (s.endDo n target ring dbval).fget F.chStatus_STATE n = 0 ∧
    (∀ k : ChIx, ((s.endDo n target ring dbval).dmaCh k).lines.getLsbD (24 + n) = true) ∧
    (target = 1 → (s.endDo n target ring dbval).te.ops.length = s.te.ops.length + 1) := by
  obtain ⟨a, ha⟩ : ∃ a, a = (s.dmaPulse (24 + n)).endTarget (s.chFn n) target ring dbval := ⟨_, rfl⟩
  obtain ⟨hst, hlines, hte⟩ := a.endRest_spec n
  have heq := (s.endDo_done n target ring dbval h).trans (congrArg (fun u : State => u.endRest n) ha.symm)
  rw [heq]
  refine ⟨hst, fun k => ?_, fun ht => ?_⟩
  · have hdma : a.dma = (s.dmaPulse (24 + n)).dma := by
      rw [ha]
      exact State.endTarget_dma _ target ring dbval _
    rw [hlines, State.dmaCh_of_dma hdma]
    exact s.dmaPulse_line k.isLt (by omega)
  · rw [hte, ha, ht, State.endTarget_ops, State.dmaPulse_te]

end


/-! ## The instructions as commands -/

section
variable {s : State} {n : Nat} {ins : List Byte}

/-- The six instruction commands, in a channel that does not take one. -/
theorem execInstructions_all {u : State} (h : ∀ f, s.execIns n ins f = u) : execDmaMove n ins s = .next u ∧ execDmaLoop n ins s = .next u ∧
    execDmaWait n ins s = .next u ∧ execDmaSignal n ins s = .next u ∧ execDmaEnd n ins s = .next u ∧ execDmaIllegalOpcode n ins s = .next u :=
  ⟨congrArg Host.Outcome.next (h _), congrArg Host.Outcome.next (h _), congrArg Host.Outcome.next (h _), congrArg Host.Outcome.next (h _),
    congrArg Host.Outcome.next (h _), congrArg Host.Outcome.next (h _)⟩

section
variable (hi : s.chIdle n = true) (hf : s.fetchOk n = true)
include hi hf

theorem execDmaMove_of {ssp dsp len src dst : Nat} {load sinc dinc : Bool} (h : s.insAt n ins = .move ssp dsp load sinc dinc len src dst) :
    execDmaMove n ins s = .next (s.moveStart n ssp dsp load sinc dinc len src dst) := congrArg Host.Outcome.next (s.execIns_ready n hi hf h)

theorem execDmaLoop_of {level back count ss ds : Nat} (h : s.insAt n ins = .loop level back count ss ds) :
    execDmaLoop n ins s = .next (s.loopDo n level back count ss ds) := congrArg Host.Outcome.next (s.execIns_ready n hi hf h)

theorem execDmaWait_of {line tmo : Nat} {pol : Bool} (h : s.insAt n ins = .wait line pol tmo) :
    execDmaWait n ins s = .next (if s.dmaLine n line ≠ pol then s.waitEnd n line pol else s.waitSleeps n line pol tmo) :=
  congrArg Host.Outcome.next (s.execIns_ready n hi hf h)

theorem execDmaSignal_of {space addr value : Nat} {size8 : Bool} (h : s.insAt n ins = .signal space size8 addr value) :
    execDmaSignal n ins s = .next (s.signalDo n space size8 addr value) := congrArg Host.Outcome.next (s.execIns_ready n hi hf h)

theorem execDmaEnd_of {target ring dbval : Nat} (h : s.insAt n ins = .endp target ring dbval) :
    execDmaEnd n ins s = .next (s.endDo n target ring dbval) := congrArg Host.Outcome.next (s.execIns_ready n hi hf h)

theorem execDmaIllegal_of (h : s.insAt n ins = .illegal) : execDmaIllegalOpcode n ins s = .next (s.chFault n 1) :=
  congrArg Host.Outcome.next (s.execIns_ready n hi hf h)
end

/-- What the end of a WAIT and its timeout look at. -/
theorem execDmaWaitSatisfied_eq {line tmo : Nat} {pol : Bool} (h : (s.dmaCh n).cur = some (.wait line pol tmo)) :
    execDmaWaitSatisfied n s = .next (if s.fget F.chStatus_STATE n = 2 ∧ s.dmaLine n line ≠ pol then s.waitEnd n line pol else s) := by
  unfold execDmaWaitSatisfied
  rw [h]

theorem execDmaWaitTimeout_eq {line tmo : Nat} {pol : Bool} (h : (s.dmaCh n).cur = some (.wait line pol tmo)) :
    execDmaWaitTimeout n s = .next (if s.fget F.chStatus_STATE n = 2 ∧ tmo ≠ 0 then s.chFault n 3 else s) := by
  unfold execDmaWaitTimeout
  rw [h]
end

/-- Settles O40: each instruction by the state its branch leaves the channel in. -/
theorem programInstructions : Obligations.ProgramInstructions := by
  intro s n ins
  refine ⟨fun h => execInstructions_all fun f => s.execIns_busy n ins f h, fun h hf hv => ?_, fun h hf => ⟨?_, ?_, ?_, ?_, ?_, ?_⟩, fun line pol tmo hc hs => ?_⟩
  · obtain ⟨h1, h2, h3, h4, h5, h6⟩ := execInstructions_all fun f => s.execIns_outside n ins f h hf
    exact ⟨_, h1, h2, h3, h4, h5, h6, s.chViolation_state n _ _ hv, s.chViolation_viol n _ _ hv⟩
  · intro ssp dsp load sinc dinc len src dst hins
    exact ⟨_, execDmaMove_of h hf hins, s.moveStart_spec n ssp dsp load sinc dinc len src dst⟩
  · intro level back count ss ds hins hlev
    refine ⟨fun hbad => ?_, fun hbad hlc => ?_, fun hbad hlc => ?_⟩
    · exact ⟨_, (execDmaLoop_of h hf hins).trans (congrArg Host.Outcome.next (s.loopDo_bad n level back count ss ds hbad)), s.chFault_spec n (by decide)⟩
    · exact ⟨_, execDmaLoop_of h hf hins, s.loopDo_back_spec n level back count ss ds hlev hbad hlc⟩
    · exact ⟨_, execDmaLoop_of h hf hins, s.loopDo_end_spec n level back count ss ds hlev hbad hlc⟩
  · intro line pol tmo hins
    refine ⟨fun hl => ?_, fun hl => ?_⟩
    · exact ⟨_, (execDmaWait_of h hf hins).trans (congrArg Host.Outcome.next (if_pos hl)), s.waitEnd_spec n line pol⟩
    · exact ⟨_, (execDmaWait_of h hf hins).trans (congrArg Host.Outcome.next (if_neg fun hx => hx hl)), s.waitSleeps_spec n line pol tmo⟩
  · intro space size8 addr value hins
    refine ⟨fun ha => ?_, fun ha hacc hv => ?_, fun ha hsp hacc => ?_⟩
    · obtain ⟨hst, hcause⟩ := s.chFault_spec n (cause := 4) (by decide)
      exact ⟨_, (execDmaSignal_of h hf hins).trans (congrArg Host.Outcome.next (s.signalDo_misaligned n space size8 addr value ha)), hst, hcause, s.chFault_mem n 4⟩
    · exact ⟨_, (execDmaSignal_of h hf hins).trans (congrArg Host.Outcome.next (s.signalDo_refused n space size8 addr value ha hacc)),
        s.chViolation_state n _ _ hv, s.chViolation_viol n _ _ hv, s.chViolation_mem n _ _⟩
    · rw [hsp] at hins
      exact ⟨_, (execDmaSignal_of h hf hins).trans (congrArg Host.Outcome.next (s.signalDo_host n size8 addr value ha hacc)),
        s.signalHost_spec n size8 addr value⟩
  · intro target ring dbval hins
    refine ⟨fun href hv => ?_, fun href => ?_⟩
    · refine ⟨_, (execDmaEnd_of h hf hins).trans (congrArg Host.Outcome.next (s.endDo_refused n target ring dbval href)), s.chViolation_state n _ _ hv, ?_,
        fun k => s.chViolation_lines n _ _ k hv⟩
      rw [s.chViolation_viol n _ _ hv]
      rfl
    · exact ⟨_, execDmaEnd_of h hf hins, s.endDone_spec n target ring dbval n.isLt href⟩
  · exact fun hins => ⟨_, execDmaIllegal_of h hf hins, s.chFault_spec n (by decide)⟩
  · refine ⟨fun hl => ?_, fun hl => ?_, fun ht => ?_, fun ht => ?_⟩
    · obtain ⟨hst, hpc, -⟩ := s.waitEnd_spec n line pol
      exact ⟨_, (execDmaWaitSatisfied_eq hc).trans (congrArg Host.Outcome.next (if_pos ⟨hs, hl⟩)), hst, hpc⟩
    · exact (execDmaWaitSatisfied_eq hc).trans (congrArg Host.Outcome.next (if_neg fun hx => hx.2 hl))
    · exact ⟨_, (execDmaWaitTimeout_eq hc).trans (congrArg Host.Outcome.next (if_pos ⟨hs, ht⟩)), s.chFault_spec n (by decide)⟩
    · exact (execDmaWaitTimeout_eq hc).trans (congrArg Host.Outcome.next (if_neg fun hx => hx.2 ht))

end Sys2Proof.Machine
end

section
/-!
PROOF. DMA beats and read completions (R376, R377, R408, R413, R415).
-/

set_option Elab.async false
set_option exponentiation.threshold 4096
set_option maxRecDepth 20000

namespace Sys2Proof.Machine

section
variable {s : State} {n dsp len src dst : Nat} {load sinc dinc : Bool}

/-! ## Read completions (R413, R415) -/

/-- Bytes a completion brings to a MOVE from host memory, and the address they come from, copied upward. -/
def State.readTake (s : State) (n : Nat) (data : List Byte) : Nat :=
  min data.length (min ((s.rd .chLen n).toNat - (s.dmaCh n).buf.length) (8192 - (s.dmaCh n).buf.length))
def State.readFrom (s : State) (n : Nat) : Nat := (s.rdw .chSrc n).toNat + (s.dmaCh n).buf.length

/-- A read completion for a MOVE copied upward. -/
def State.readDone (s : State) (n : Nat) (data : List Byte) (ok : Bool) : State :=
  if s.chAccess n 0 (s.readFrom n) (s.readTake n data) false ≠ 0 then s.chViolation n 5 (s.readFrom n)
  else if ok = false then s.chFault n 5
  else s.setChBuf n ((s.dmaCh n).buf ++ data.take (s.readTake n data))

/-- A read completion, whichever way the MOVE copies. -/
def State.readArrives (s : State) (n : Nat) (data : List Byte) (ok : Bool) : State :=
  let st := s.fget F.chStatus_STATE n
  let c := s.dmaCh n
  let left := (s.rd .chLen n).toNat - c.buf.length
  let k := min data.length (min left (8192 - c.buf.length))
  if ¬(st = 1 ∨ st = 3) ∨ k = 0 then s
  else
    let down := s.flag F.chStatus_DOWN n
    let a := (s.rdw .chSrc n).toNat + (if down then left - k else c.buf.length)
    if s.chAccess n 0 a k false ≠ 0 then s.chViolation n 5 a
    else if ok = false then s.chFault n 5
    else s.setChBuf n (if down then data.take k ++ c.buf else c.buf ++ data.take k)

theorem execDmaReadCompletion_eq (hc : (s.dmaCh n).cur = some (.move 0 dsp load sinc dinc len src dst)) (data : List Byte) (ok : Bool) :
    execDmaReadCompletion n data ok s = .next (s.readArrives n data ok) := by
  have h : execDmaReadCompletion n data ok s = .next (match (s.dmaCh n).cur with
    | some (.move 0 _ _ _ _ _ _ _) => s.readArrives n data ok
    | _ => s) := rfl
  rw [h, hc]
  rfl

theorem State.readArrives_none {data : List Byte} (h : s.readTake n data = 0) (ok : Bool) : s.readArrives n data ok = s := if_pos (Or.inr h)

theorem State.readArrives_some {data : List Byte} (hd : s.flag F.chStatus_DOWN n = false)
    (hst : s.fget F.chStatus_STATE n = 1 ∨ s.fget F.chStatus_STATE n = 3) (h : s.readTake n data ≠ 0) (ok : Bool) :
    s.readArrives n data ok = s.readDone n data ok := by
  have heq : s.readArrives n data ok = if ¬(s.fget F.chStatus_STATE n = 1 ∨ s.fget F.chStatus_STATE n = 3) ∨ s.readTake n data = 0 then s else
    let a := (s.rdw .chSrc n).toNat + (if s.flag F.chStatus_DOWN n then (s.rd .chLen n).toNat - (s.dmaCh n).buf.length - s.readTake n data else (s.dmaCh n).buf.length)
    if s.chAccess n 0 a (s.readTake n data) false ≠ 0 then s.chViolation n 5 a
    else if ok = false then s.chFault n 5
    else s.setChBuf n (if s.flag F.chStatus_DOWN n then data.take (s.readTake n data) ++ (s.dmaCh n).buf else (s.dmaCh n).buf ++ data.take (s.readTake n data)) := rfl
  rw [heq, if_neg (fun hx => hx.elim (fun hy => hy hst) h), hd]
  rfl

/-- The buffer and BUFFERED set. -/
theorem State.setChBuf_spec (s : State) (n : Nat) (b : List Byte) : (s.setChBuf n b).dmaCh n = { s.dmaCh n with buf := b } ∧ (s.setChBuf n b).host = s.host ∧
    OnlyRegs [.chStatus] s (s.setChBuf n b) ∧ (∀ m i j, (s.setChBuf n b).rdw m i j = s.rdw m i j) := by
  unfold State.setChBuf
  refine ⟨?_, (State.fset_host _ _ _ _ _).trans (s.setDmaCh_host _ _), ?_, fun _ _ _ => rfl⟩
  · rw [State.dmaCh_of_dma (State.fset_dma _ _ _ _ _), State.setDmaCh_dmaCh]
  · exact OnlyRegs.fset (f := F.chStatus_BUFFERED) (fun _ _ _ _ => rfl) _ _ _ List.mem_cons_self

theorem State.readDone_buffered (data : List Byte) (h : s.chAccess n 0 (s.readFrom n) (s.readTake n data) false = 0) :
    s.readDone n data true = s.setChBuf n ((s.dmaCh n).buf ++ data.take (s.readTake n data)) :=
  (if_neg fun hx => hx h).trans (if_neg Bool.noConfusion)

theorem State.readDone_error (data : List Byte) (h : s.chAccess n 0 (s.readFrom n) (s.readTake n data) false = 0) :
    s.readDone n data false = s.chFault n 5 := by
  unfold State.readDone
  rw [if_neg fun hx => hx h, if_pos rfl]

theorem State.readDone_outside (data : List Byte) (ok : Bool) (h : s.chAccess n 0 (s.readFrom n) (s.readTake n data) false ≠ 0) :
    s.readDone n data ok = s.chViolation n 5 (s.readFrom n) := if_pos h

/-! ## The channel a beat slot goes to (R413) -/

/-- PREEMPTED of every channel as a beat slot leaves it. -/
def State.preempt (s : State) (n k : Nat) : State :=
  let p := b2n (decide (k ≠ n) && (s.beatOf k).isSome)
  if s.fget F.chStatus_PREEMPTED k = p then s else s.fset F.chStatus_PREEMPTED p k
def State.slotGiven (s : State) (n : Nat) : State := forN 32 (fun k s => s.preempt n k) s

theorem execDmaBeat_none (h : ∀ k, k < 32 → s.beatOf k = none) : execDmaBeat s = .next s := by
  have hf : (List.range 32).find? (fun n => (s.beatOf n).isSome) = none := List.find?_eq_none.2 fun k hk => by
    rw [h k (List.mem_range.1 hk)]
    exact Bool.false_ne_true
  unfold execDmaBeat
  rw [hf]

theorem execDmaBeat_some {b : Nat × Nat × Nat × Nat × Nat} (hn : n < 32) (h : s.beatOf n = some b) (hlow : ∀ k, k < n → s.beatOf k = none) :
    execDmaBeat s = .next ((s.slotGiven n).beat n b) := by
  have hf : (List.range 32).find? (fun n => (s.beatOf n).isSome) = some n := List.find?_range_eq_some.2
    ⟨by rw [h]; rfl, List.mem_range.2 hn, fun j hj => by rw [hlow j hj]; rfl⟩
  have heq : execDmaBeat s = .next (match (List.range 32).find? (fun n => (s.beatOf n).isSome) with
    | none => s
    | some n => match s.beatOf n with
      | some b => (s.slotGiven n).beat n b
      | none => s.slotGiven n) := rfl
  rw [heq, hf]
  dsimp only
  rw [h]

theorem State.slotGiven_view {β : Type} (view : State → β) (h : ∀ (u : State) p k, view (u.fset F.chStatus_PREEMPTED p k) = view u) :
    view (s.slotGiven n) = view s :=
  forN_keeps_view view fun k u => by
    unfold State.preempt
    dsimp only
    split
    · rfl
    · exact h u _ k

theorem State.slotGiven_host : (s.slotGiven n).host = s.host := State.slotGiven_view State.host fun u _ _ => u.fset_host _ _ _ _
theorem State.slotGiven_dma : (s.slotGiven n).dma = s.dma := State.slotGiven_view State.dma fun u _ _ => u.fset_dma _ _ _ _
theorem State.slotGiven_rdw (m : RName) (i j : Nat) : (s.slotGiven n).rdw m i j = s.rdw m i j :=
  State.slotGiven_view (fun u => u.rdw m i j) fun u _ _ => rdw_fset u _ _ _ _ _ _ _
theorem State.slotGiven_rd {m : RName} (h : m ≠ .chStatus) (i j : Nat) : (s.slotGiven n).rd m i j = s.rd m i j :=
  State.slotGiven_view (fun u => u.rd m i j) fun u _ _ => rd_fset_reg u _ _ _ _ _ h
theorem State.slotGiven_down (i : Nat) : (s.slotGiven n).flag F.chStatus_DOWN i = s.flag F.chStatus_DOWN i :=
  State.slotGiven_view (fun u => u.flag F.chStatus_DOWN i) fun u _ _ => flag_fset_off u _ _ _ _ _ (by decide) (by decide) (by decide)

/-- A host access of a channel is judged by its windows and its owner's. -/
theorem State.chAccess_congr {s u : State} (h : OnlyRegs [.chStatus] s u) (n a k : Nat) (w : Bool) : u.chAccess n 0 a k w = s.chAccess n 0 a k w := by
  have hok : ∀ f, u.hostOk f a k w = s.hostOk f a k w := fun f =>
    State.hostOk_congr f a k w (fun i j => h _ i j (by decide)) (fun i j => h _ i j (by decide)) (fun i j => h _ i j (by decide)) fun i j => h _ i j (by decide)
  have hwin : ∀ x, u.chWinHas n x 0 a k w = s.chWinHas n x 0 a k w := fun x => by
    unfold State.chWinHas
    rw [h .chWinW0 n x (by decide), h .chWinW1 n x (by decide), h .chWinW2 n x (by decide), h .chWinW3 n x (by decide)]
  have hfn : u.chFn n = s.chFn n := fget_of_rd F.chOwner_OWNER (h _ n 0 (by decide))
  unfold State.chAccess
  simp only [hok, hwin, hfn, if_true]

theorem State.slotGiven_access (a k : Nat) (w : Bool) : (s.slotGiven n).chAccess n 0 a k w = s.chAccess n 0 a k w :=
  State.chAccess_congr (fun _ i j h => State.slotGiven_rd (List.ne_of_not_mem_cons h) i j) n a k w

/-! ## A beat from host memory to host memory (R408, R413) -/

/-- The bytes of the beat taken from the buffer and written. -/
def State.beatMoved (s : State) (n b k : Nat) : State := (s.setChBuf n ((s.dmaCh n).buf.drop k)).hostPut b ((s.dmaCh n).buf.take k)

theorem State.beat_outside {a b k : Nat} (h : s.chAccess n 0 b k true ≠ 0) : s.beat n (0, 0, a, b, k) = s.chViolation n (s.chAccess n 0 b k true) b := by
  unfold State.beat
  dsimp only
  rw [if_pos rfl, if_neg fun hx => hx rfl, if_pos h]

theorem State.beat_inside {a b k : Nat} (hd : s.flag F.chStatus_DOWN n = false) (h : s.chAccess n 0 b k true = 0) :
    s.beat n (0, 0, a, b, k) = (s.beatMoved n b k).beatStep n k := by
  have hread : s.beatRead n 0 a k = (some ((s.dmaCh n).buf.take k), s.setChBuf n ((s.dmaCh n).buf.drop k)) := by
    unfold State.beatRead
    dsimp only
    rw [hd]
    rfl
  unfold State.beat
  dsimp only
  rw [if_pos rfl, if_neg fun hx => hx rfl, if_neg fun hx => hx h, hread]
  dsimp only
  rw [if_neg fun hx => absurd hx.1 (by decide)]
  rfl

/-- What a beat copied upward leaves of its MOVE, before the end of the MOVE. -/
def State.beatCounted (s : State) (n k : Nat) : State :=
  let s1 := s.wr .chLen (BitVec.ofNat 32 ((s.rd .chLen n).toNat - k)) n
  (s1.wrw .chSrc (s1.rdw .chSrc n + BitVec.ofNat 64 k) n).wrw .chDst (s1.rdw .chDst n + BitVec.ofNat 64 k) n

section
variable {ssp k : Nat} (hc : (s.dmaCh n).cur = some (.move ssp dsp load sinc dinc len src dst)) (hd : s.flag F.chStatus_DOWN n = false)
include hc hd

theorem State.beatStep_eq : s.beatStep n k = if (s.rd .chLen n).toNat - k = 0 then (s.beatCounted n k).moveEnd n sinc dinc len src dst else s.beatCounted n k := by
  unfold State.beatStep
  dsimp only
  rw [hd, hc]
  rfl
end

theorem State.beatCounted_spec (s : State) (n k : Nat) : (s.beatCounted n k).rd .chLen n = BitVec.ofNat 32 ((s.rd .chLen n).toNat - k) ∧
    (s.beatCounted n k).rdw .chSrc n = s.rdw .chSrc n + BitVec.ofNat 64 k ∧ (s.beatCounted n k).rdw .chDst n = s.rdw .chDst n + BitVec.ofNat 64 k ∧
    (s.beatCounted n k).rdw .chPc n = s.rdw .chPc n ∧ (s.beatCounted n k).dma = s.dma ∧ (s.beatCounted n k).host = s.host := by
  unfold State.beatCounted
  refine ⟨rd_wr_same _ _ _ _ _, ?_, ?_, ?_, rfl, rfl⟩
  · rw [rdw_wrw_reg _ _ _ _ _ _ (by decide), rdw_wrw_same, rdw_wr]
  · rw [rdw_wrw_same, rdw_wr]
  · rw [rdw_wrw_reg _ _ _ _ _ _ (by decide), rdw_wrw_reg _ _ _ _ _ _ (by decide), rdw_wr]

/-- The address registers as the end of a MOVE leaves them. -/
def State.moveAt (s : State) (n : Nat) (sinc dinc : Bool) (len src dst : Nat) : State :=
  let down := s.flag F.chStatus_DOWN n
  let at_ (r : RName) (inc : Bool) (a : Nat) : DWord :=
    if inc then (if down then s.rdw r n + BitVec.ofNat 64 len else s.rdw r n) else BitVec.ofNat 64 a
  ((s.wrw .chSrc (at_ .chSrc sinc src) n).wrw .chDst (at_ .chDst dinc dst) n).fset F.chStatus_DOWN 0 n

theorem State.moveEnd_eq (s : State) (n : Nat) (sinc dinc : Bool) (len src dst : Nat) :
    s.moveEnd n sinc dinc len src dst = (s.moveAt n sinc dinc len src dst).chNext n := rfl

theorem State.moveAt_spec (s : State) (n : Nat) (sinc dinc : Bool) (len src dst : Nat) :
    (sinc = false → (s.moveAt n sinc dinc len src dst).rdw .chSrc n = BitVec.ofNat 64 src) ∧
    (dinc = false → (s.moveAt n sinc dinc len src dst).rdw .chDst n = BitVec.ofNat 64 dst) ∧
    (s.moveAt n sinc dinc len src dst).rdw .chPc n = s.rdw .chPc n ∧ (s.moveAt n sinc dinc len src dst).rd .chLen n = s.rd .chLen n ∧
    (s.moveAt n sinc dinc len src dst).dma = s.dma ∧ (s.moveAt n sinc dinc len src dst).host = s.host := by
  unfold State.moveAt
  dsimp only
  refine ⟨fun h => ?_, fun h => ?_, ?_, ?_, State.fset_dma _ _ _ _ _, State.fset_host _ _ _ _ _⟩
  · rw [rdw_fset, rdw_wrw_reg _ _ _ _ _ _ (by decide), rdw_wrw_same, h]
    rfl
  · rw [rdw_fset, rdw_wrw_same, h]
    rfl
  · rw [rdw_fset, rdw_wrw_reg _ _ _ _ _ _ (by decide), rdw_wrw_reg _ _ _ _ _ _ (by decide)]
  · exact rd_fset_reg _ _ _ _ _ _ (by decide)

/-- The end of a MOVE. -/
theorem State.moveEnd_spec (s : State) (n : Nat) (sinc dinc : Bool) (len src dst : Nat) :
    (s.moveEnd n sinc dinc len src dst).rdw .chPc n = s.rdw .chPc n + 32#64 ∧ (s.moveEnd n sinc dinc len src dst).dmaCh n = { s.dmaCh n with cur := none } ∧
    (sinc = false → (s.moveEnd n sinc dinc len src dst).rdw .chSrc n = BitVec.ofNat 64 src) ∧
    (dinc = false → (s.moveEnd n sinc dinc len src dst).rdw .chDst n = BitVec.ofNat 64 dst) ∧
    (s.moveEnd n sinc dinc len src dst).rd .chLen n = s.rd .chLen n ∧ (s.moveEnd n sinc dinc len src dst).host = s.host := by
  obtain ⟨a, ha⟩ : ∃ a, a = s.moveAt n sinc dinc len src dst := ⟨_, rfl⟩
  obtain ⟨hsrc, hdst, hpc, hlen, hdma, hhost⟩ := s.moveAt_spec n sinc dinc len src dst
  rw [← ha] at hsrc hdst hpc hlen hdma hhost
  obtain ⟨hregs, hwide, hgh⟩ := a.chGo_only n ((a.rdw .chPc n).toNat + 32)
  rw [s.moveEnd_eq, ← ha]
  refine ⟨(a.chNext_pc n).trans (by rw [hpc]), ?_, fun h => (hwide .chSrc n 0 (by decide)).trans (hsrc h), fun h => (hwide .chDst n 0 (by decide)).trans (hdst h),
    (hregs .chLen n 0 (by decide)).trans hlen, hgh.trans hhost⟩
  unfold State.chNext
  rw [a.chGo_ch, State.dmaCh_of_dma hdma]

/-- The bytes of a beat in host memory, and what is left in the buffer. -/
theorem State.beatMoved_spec (s : State) (n b k : Nat) (h : k ≤ (s.dmaCh n).buf.length) :
    memGet (s.beatMoved n b k).host.mem b k = (s.dmaCh n).buf.take k ∧
    (∀ a, (a < b ∨ b + k ≤ a) → tget (s.beatMoved n b k).host.mem a 0 = tget s.host.mem a 0) ∧
    (s.beatMoved n b k).dmaCh n = { s.dmaCh n with buf := (s.dmaCh n).buf.drop k } ∧
    OnlyRegs [.chStatus] s (s.beatMoved n b k) ∧ ∀ m i j, (s.beatMoved n b k).rdw m i j = s.rdw m i j := by
  obtain ⟨hch, hhost, hregs, hw⟩ := s.setChBuf_spec n ((s.dmaCh n).buf.drop k)
  obtain ⟨u, hu⟩ : ∃ u, u = s.setChBuf n ((s.dmaCh n).buf.drop k) := ⟨_, rfl⟩
  rw [← hu] at hch hhost hregs hw
  have hlen : ((s.dmaCh n).buf.take k).length = k := by rw [List.length_take]; omega
  have heq : s.beatMoved n b k = u.hostPut b ((s.dmaCh n).buf.take k) := by rw [hu]; rfl
  have hmem : (s.beatMoved n b k).host.mem = memPut s.host.mem b ((s.dmaCh n).buf.take k) := by
    rw [heq, ← hhost]
    rfl
  rw [hmem]
  refine ⟨?_, fun a ha => tget_memPut_outside hlen ha, ?_, ?_, ?_⟩
  · have hg := memGet_memPut (m := s.host.mem) (a := b) (bs := (s.dmaCh n).buf.take k)
    rwa [hlen] at hg
  · rw [heq]
    exact hch
  · rw [heq]
    exact fun m i j hm => hregs m i j hm
  · rw [heq]
    exact fun m i j => hw m i j

theorem State.beatMoved_down (s : State) (n b k : Nat) : (s.beatMoved n b k).flag F.chStatus_DOWN n = s.flag F.chStatus_DOWN n := by
  unfold State.beatMoved State.setChBuf
  rw [State.hostPut_flag, flag_fset_off _ _ _ _ _ _ (by decide) (by decide) (by decide), State.setDmaCh_flag]

/-- What a beat of `k` bytes to `b` leaves, from the state `s` to `u`. -/
def State.BeatLeaves (s u : State) (n b k : Nat) (sinc dinc : Bool) (src dst : Nat) : Prop :=
  memGet u.host.mem b k = (s.dmaCh n).buf.take k ∧ (∀ a, (a < b ∨ b + k ≤ a) → tget u.host.mem a 0 = tget s.host.mem a 0) ∧
  (u.dmaCh n).buf = (s.dmaCh n).buf.drop k ∧ u.rd .chLen n = BitVec.ofNat 32 ((s.rd .chLen n).toNat - k) ∧
  ((s.rd .chLen n).toNat - k ≠ 0 →
    u.rdw .chSrc n = s.rdw .chSrc n + BitVec.ofNat 64 k ∧ u.rdw .chDst n = s.rdw .chDst n + BitVec.ofNat 64 k ∧ u.rdw .chPc n = s.rdw .chPc n) ∧
  ((s.rd .chLen n).toNat - k = 0 → u.rdw .chPc n = s.rdw .chPc n + 32#64 ∧ (u.dmaCh n).cur = none ∧
    (sinc = false → u.rdw .chSrc n = BitVec.ofNat 64 src) ∧ (dinc = false → u.rdw .chDst n = BitVec.ofNat 64 dst))

/-- A beat inside the windows, from the state the slot leaves. -/
theorem State.beat_done {b k : Nat} (hc : (s.dmaCh n).cur = some (.move 0 dsp load sinc dinc len src dst)) (hd : s.flag F.chStatus_DOWN n = false)
    (hk : k ≤ (s.dmaCh n).buf.length) : s.BeatLeaves ((s.beatMoved n b k).beatStep n k) n b k sinc dinc src dst := by
  unfold State.BeatLeaves
  obtain ⟨hget, hout, hch, hregs, hw⟩ := s.beatMoved_spec n b k hk
  obtain ⟨v, hv⟩ : ∃ v, v = s.beatMoved n b k := ⟨_, rfl⟩
  have hdv : v.flag F.chStatus_DOWN n = false := by rw [hv, s.beatMoved_down, hd]
  rw [← hv] at hget hout hch hregs hw
  rw [← hv]
  have hcv : (v.dmaCh n).cur = some (.move 0 dsp load sinc dinc len src dst) := by rw [hch]; exact hc
  have hlen : (v.rd .chLen n).toNat = (s.rd .chLen n).toNat := congrArg BitVec.toNat (hregs .chLen n 0 (by decide))
  obtain ⟨hl, hs, hdst, hpc, hdma, hhost⟩ := v.beatCounted_spec n k
  obtain ⟨w, hwq⟩ : ∃ w, w = v.beatCounted n k := ⟨_, rfl⟩
  rw [← hwq] at hl hs hdst hpc hdma hhost
  rw [State.beatStep_eq hcv hdv, ← hwq]
  rw [hlen] at hl ⊢
  by_cases h0 : (s.rd .chLen n).toNat - k = 0
  · obtain ⟨epc, ech, esrc, edst, elen, ehost⟩ := w.moveEnd_spec n sinc dinc len src dst
    rw [if_pos h0, ehost, hhost]
    refine ⟨hget, hout, ?_, elen.trans hl, fun hx => absurd h0 hx, fun _ => ⟨epc.trans (by rw [hpc, hw]), ?_, esrc, edst⟩⟩
    · rw [ech, State.dmaCh_of_dma hdma, hch]
    · rw [ech]
  · rw [if_neg h0, hhost]
    refine ⟨hget, hout, ?_, hl, fun _ => ⟨hs.trans (by rw [hw]), hdst.trans (by rw [hw]), hpc.trans (hw _ _ _)⟩, fun hx => absurd hx h0⟩
    rw [State.dmaCh_of_dma hdma, hch]
end

/-- Settles O41: a completion by the way its bytes take into the buffer; a beat by what the slot leaves, what is written, and what is left of the MOVE. -/
theorem readsAndBeats : Obligations.ReadsAndBeats := by
  intro s n dsp load sinc dinc len src dst hc
  refine ⟨fun data hd hst => ⟨fun hk ok => ?_, fun hk ha => ?_, fun hk ha => ?_, fun hk ha hv ok => ?_⟩, fun h => ?_,
    fun k hb hlow hdsp hd hk => ⟨fun ha => ?_, fun ha hv => ?_⟩⟩
  · exact (execDmaReadCompletion_eq hc data ok).trans (congrArg Host.Outcome.next (State.readArrives_none hk ok))
  · obtain ⟨hch, hhost, hregs, -⟩ := s.setChBuf_spec n ((s.dmaCh n).buf ++ data.take (s.readTake n data))
    exact ⟨_, (execDmaReadCompletion_eq hc data true).trans (congrArg Host.Outcome.next ((State.readArrives_some hd hst hk true).trans (State.readDone_buffered data ha))),
      congrArg DmaCh.buf hch, hhost, hregs⟩
  · exact ⟨_, (execDmaReadCompletion_eq hc data false).trans (congrArg Host.Outcome.next ((State.readArrives_some hd hst hk false).trans (State.readDone_error data ha))),
      s.chFault_spec n (by decide)⟩
  · exact ⟨_, (execDmaReadCompletion_eq hc data ok).trans (congrArg Host.Outcome.next ((State.readArrives_some hd hst hk ok).trans (State.readDone_outside data ok ha))),
      s.chViolation_state n _ _ hv⟩
  · exact execDmaBeat_none fun k hk => h ⟨k, hk⟩
  · have hexec := execDmaBeat_some n.isLt hb fun k hk => hlow ⟨k, hk.trans n.isLt⟩ hk
    rw [State.beat_inside ((State.slotGiven_down _).trans hd) ((State.slotGiven_access _ _ _).trans ha)] at hexec
    have hch : (s.slotGiven n).dmaCh n = s.dmaCh n := State.dmaCh_of_dma State.slotGiven_dma _
    obtain ⟨hget, hout, hbuf, hlen, hmore, hend⟩ := State.beat_done (s := s.slotGiven n) (n := n) (b := (s.rdw .chDst n).toNat) (k := k)
      ((congrArg DmaCh.cur hch).trans hc) ((State.slotGiven_down _).trans hd) (by rw [hch]; exact hk)
    rw [hch] at hget hbuf
    rw [State.slotGiven_rd (by decide)] at hlen hmore hend
    rw [State.slotGiven_rdw, State.slotGiven_rdw, State.slotGiven_rdw] at hmore
    rw [State.slotGiven_rdw] at hend
    refine ⟨_, hexec, hget, fun a ha => (hout a ha).trans ?_, hbuf, hlen, hmore, hend⟩
    rw [State.slotGiven_host]
  · have hexec := execDmaBeat_some n.isLt hb fun k hk => hlow ⟨k, hk.trans n.isLt⟩ hk
    rw [State.beat_outside (by rw [State.slotGiven_access]; exact ha)] at hexec
    have hch : (s.slotGiven n).dmaCh n = s.dmaCh n := State.dmaCh_of_dma State.slotGiven_dma _
    exact ⟨_, hexec, State.chViolation_state _ n _ _ (by rw [hch]; exact hv), (State.chViolation_mem _ n _ _).trans (congrArg HostSt.mem State.slotGiven_host)⟩

end Sys2Proof.Machine
end

section
/-!
PROOF. Accesses to the set-up registers (R8, R9, R31, R372–R374, R378, R484).
-/

set_option Elab.async false
set_option exponentiation.threshold 4096
set_option maxRecDepth 20000

namespace Sys2Proof.Machine

section
variable (s : State) {f a n : Nat}

/-! ## Requests that end with Unsupported Request status (R31, R372) -/

theorem okAddr_misaligned (h : a % n ≠ 0) : okAddr a n = false := by
  rw [okAddr, decide_eq_false h, Bool.false_and]

theorem okAddr_aligned (h : a % n = 0) (ha : a < 67108864) : okAddr a n = true := by
  rw [okAddr, decide_eq_true h, decide_eq_true ha, Bool.and_self]

theorem State.bar0Write_misaligned (v : Word) (h : a % 4 ≠ 0) : s.bar0Write f a v = s.unsupported :=
  if_neg (by rw [okAddr_misaligned h]; decide)

theorem State.bar0Read_misaligned (h : a % 4 ≠ 0) : s.bar0Read f a = s.unsupported :=
  if_pos (okAddr_misaligned h)

theorem State.bar0Access_length {len : Nat} (wr : Bool) (w : DWord) (h : len ≠ 4) (h' : len ≠ 8) : s.bar0Access f a len wr w = s.unsupported :=
  (if_neg h).trans (if_pos (.inl h'))

theorem State.bar0Access_misaligned (wr : Bool) (w : DWord) (h : a % 8 ≠ 0) : s.bar0Access f a 8 wr w = s.unsupported :=
  (if_neg (by decide)).trans (if_pos (.inr (okAddr_misaligned h)))

theorem State.bar2Access_length {len : Nat} (wr : Bool) (w : DWord) (h : len ≠ 4) : s.bar2Access f a len wr w = s.unsupported :=
  if_pos (.inl h)

theorem State.bar4Access_length {len : Nat} (wr : Bool) (h : len ≠ 4) (h' : len ≠ 8) : s.bar4Access f a len wr = s.unsupported :=
  if_pos (.inl (not_or.mpr ⟨h, h'⟩))

theorem State.bar4Access_misaligned (wr : Bool) (h : a % 8 ≠ 0) : s.bar4Access f a 8 wr = s.unsupported :=
  if_pos (.inr (.inl h))

theorem State.bar0Access_word (v : Word) : s.bar0Access f a 4 true (v.setWidth 64) = s.bar0Write f a v :=
  congrArg (s.bar0Write f a) (by rw [BitVec.setWidth_setWidth_of_le v (by decide), BitVec.setWidth_eq])

/-! ## Who may write (R373, R374, R377, R378, R484) -/

/-- A write ends with no answer of its own: the value returned last stays. -/
theorem State.bar0Write_eq (v : Word) (h : a % 4 = 0) (ha : a < 67108864) :
    s.bar0Write f a v = (s.writeUnder f a 4 (fun s => s.apply4 f a v)).answer s.host.readData.toNat :=
  if_pos (okAddr_aligned h ha)

theorem State.bar0Access_whole (w : DWord) (h : a % 8 = 0) (ha : a < 67108864) :
    s.bar0Access f a 8 true w = (s.writeUnder f a 8 (fun s => s.apply8 f a w)).answer s.host.readData.toNat :=
  (if_neg (by decide)).trans ((if_neg (by rw [okAddr_aligned h ha]; decide)).trans (if_pos rfl))

theorem mapped_word (a : Nat) : mapped a 4 = (locate a).isSome := by
  rw [mapped, show decide (4 = 8) = false from rfl, Bool.false_and, Bool.or_false]

theorem State.writeUnder_closed (act : State → State) (h : s.flag F.dawnStatus_READY = false ∨ s.flag F.fnStatus_FROZEN f = true) :
    s.writeUnder f a n act = s := if_pos h

section
variable {s} (hr : s.flag F.dawnStatus_READY = true) (hf : s.flag F.fnStatus_FROZEN f = false)
include hr hf

theorem State.writeUnder_open (act : State → State) : s.writeUnder f a n act = if a = 0x18 then act s
    else match s.leave f a with
      | .yes => act s
      | .foreign => if mapped a n then s.bump .cntForeignWr else s
      | .violates => if mapped a n then s.violation f 1 a 0 else s
      | .ignored => s :=
  if_neg (by rw [hr, hf]; decide)

theorem State.writeUnder_may (act : State → State) (h : s.leave f a = .yes) : s.writeUnder f a n act = act s := by
  rw [State.writeUnder_open hr hf, h, ite_self]

theorem State.writeUnder_foreign (act : State → State) (h18 : a ≠ 0x18) (h : s.leave f a = .foreign) (hm : mapped a n = true) :
    s.writeUnder f a n act = s.bump .cntForeignWr := by
  rw [State.writeUnder_open hr hf, if_neg h18, h]
  exact if_pos hm

theorem State.writeUnder_violates (act : State → State) (h18 : a ≠ 0x18) (h : s.leave f a = .violates) (hm : mapped a n = true) :
    s.writeUnder f a n act = s.violation f 1 a 0 := by
  rw [State.writeUnder_open hr hf, if_neg h18, h]
  exact if_pos hm

theorem State.writeUnder_unmapped (act : State → State) (h18 : a ≠ 0x18) (h : s.leave f a ≠ .yes) (hm : mapped a n = false) :
    s.writeUnder f a n act = s := by
  rw [State.writeUnder_open hr hf, if_neg h18]
  have hno : ¬mapped a n = true := by rw [hm]; decide
  cases hl : s.leave f a with
  | yes => exact absurd hl h
  | foreign => exact if_neg hno
  | violates => exact if_neg hno
  | ignored => rfl
end

/-! ## What an answer leaves (R31) -/

theorem State.answer_onlyRegs {t : State} {l : List RName} (h : OnlyRegs l s t) (v : Nat) : OnlyRegs l s (t.answer v) := fun m i j hm => h m i j hm
theorem State.answer_onlyWide {t : State} {l : List RName} (h : OnlyWide l s t) (v : Nat) : OnlyWide l s (t.answer v) := fun m i j hm => h m i j hm

/-! ## A 64-bit register by halves and whole (R9, R31) -/

theorem State.flag_congr {t : State} (hregs : t.r32 = s.r32) (F : Fld) (i : Nat) : t.flag F i = s.flag F i := by
  unfold State.flag State.fget State.rd
  rw [hregs]

theorem State.deadTile_congr {t : State} (hregs : t.r32 = s.r32) (a : Nat) : t.deadTile a = s.deadTile a := by
  unfold State.deadTile State.tileOn State.flag State.fget State.rd
  rw [hregs]

theorem State.hidden_congr {t : State} (hregs : t.r32 = s.r32) (hsq : t.squall = s.squall) (f a : Nat) : t.hidden f a = s.hidden f a := by
  unfold State.hidden State.deadTile State.tileOn State.hasRight State.rights State.flag State.fget State.rd
  rw [hregs, hsq]

theorem State.leave_congr {t : State} (hregs : t.r32 = s.r32) (hsq : t.squall = s.squall) (f a : Nat) : t.leave f a = s.leave f a := by
  unfold State.leave State.leaveRing State.leaveDma State.needs State.hasRight State.rights State.ringOwnerOf State.chOwned State.flag State.fget State.rd
  rw [hregs, hsq]

variable {s}
variable {n' : RName} {i j : Nat}

theorem State.lowRead_latches (f : Nat) (n : RName) (i j : Nat) :
    (s.lowRead f n i j).r32 = s.r32 ∧ (s.lowRead f n i j).squall = s.squall ∧
      (s.lowRead f n i j).host.readData = BitVec.ofNat 64 ((s.viewWide n i j).toNat % 2 ^ 32) ∧
      tget (s.lowRead f n i j).host.latch (fnKey f n i j) none = some (BitVec.ofNat 32 ((s.viewWide n i j).toNat / 2 ^ 32)) := by
  unfold State.lowRead
  split <;> exact ⟨rfl, rfl, rfl, tget_tset_same s.host.latch (fnKey f n i j) none (some _)⟩

theorem State.highRead_latched {t : State} {w : Word} (h : tget t.host.latch (fnKey f n' i j) none = some w) :
    t.highRead f n' i j = (t.setLatch f n' i j none).answer w.toNat := by
  unfold State.highRead
  rw [h]

theorem State.bar0Read_wide {hi : Bool} (h : a % 4 = 0) (ha : a < 67108864) (hh : s.hidden f a = false) (hloc : locate a = some (n', i, j, hi))
    (hw : (regInfo n').wide = true) : s.bar0Read f a = if hi then s.highRead f n' i j else s.lowRead f n' i j := by
  unfold State.bar0Read
  rw [if_neg (by rw [okAddr_aligned h ha]; decide), if_neg (by rw [hh]; decide), hloc]
  exact if_pos hw

theorem State.bar0Read8_wide (h : a % 8 = 0) (ha : a < 67108864) (hh : s.hidden f a = false) (hloc : locate a = some (n', i, j, false))
    (hw : (regInfo n').wide = true) : s.bar0Access f a 8 false 0 = s.answer (s.viewWide n' i j).toNat := by
  have hok := okAddr_aligned h ha
  unfold State.bar0Access
  rw [if_neg (by decide), if_neg (by rw [hok]; decide), if_neg (by decide)]
  unfold State.bar0Read8
  dsimp only
  rw [if_neg (by rw [hok]; decide), if_neg (by rw [hh]; decide), hloc]
  exact if_pos hw

theorem State.apply4_wide {hi : Bool} {t : State} (v : Word) (hd : t.deadTile a = false) (hloc : locate a = some (n', i, j, hi))
    (hw : (regInfo n').wide = true) (hrw : (regInfo n').rw ≠ 0) :
    t.apply4 f a v = if hi then t.highWrite f n' i j v else t.setHold f n' i j (some v) := by
  unfold State.apply4
  rw [if_neg (by rw [hd]; decide), hloc]
  exact (if_pos hw).trans (if_neg hrw)

theorem State.apply8_wide (w : DWord) (hd : s.deadTile a = false) (hloc : locate a = some (n', i, j, false)) (hw : (regInfo n').wide = true) :
    s.apply8 f a w = s.wideWrite n' i j w := by
  unfold State.apply8
  rw [hloc]
  exact (if_pos hw).trans (if_neg (by rw [hd]; decide))

/-- A wide write under the register's mask, for the registers that no state closes. -/
theorem State.wideWrite_open {t : State} (v : DWord) (hb : n' ≠ .ringBase) (hs : n' ≠ .chSrc) (hd : n' ≠ .chDst) :
    t.wideWrite n' i j v =
      t.wrw n' ((t.rdw n' i j &&& ~~~BitVec.ofNat 64 (regInfo n').rw) ||| (v &&& BitVec.ofNat 64 (regInfo n').rw)) i j := by
  unfold State.wideWrite
  split
  · exact absurd rfl hb
  · exact absurd rfl hs
  · exact absurd rfl hd
  · exact if_pos rfl

theorem State.highWrite_held {t : State} {lo : Word} (v : Word) (h : tget t.host.lowHold (fnKey f n' i j) none = some lo) :
    t.highWrite f n' i j v = (t.setHold f n' i j none).wideWrite n' i j (BitVec.ofNat 64 (v.toNat * 2 ^ 32 + lo.toNat)) := by
  unfold State.highWrite
  rw [h]

/-! ## A 32-bit register with no action of its own (R6) -/

theorem locate_flowTmo : locate 0x3600008 = some (.flowTmo, 0, 0, false) := by decide

theorem State.leave_halo (h : s.hasRight f 3 = true) (h3 : f ≠ 3) : s.leave f 0x3600008 = .yes := by
  have : s.leave f 0x3600008 = if f = 3 then .violates else s.needs f 3 := rfl
  rw [this, if_neg h3]
  exact if_pos h

theorem State.plainWrite_flowTmo (v : Word) : s.plainWrite .flowTmo 0 0 v = s.wr .flowTmo v := by
  have hmask : ∀ x : Word, ((x &&& ~~~4294967295#32) ||| (v &&& 4294967295#32)) &&& ~~~(v &&& 0#32) = v := fun x => by
    rw [show (4294967295#32) = BitVec.allOnes 32 from rfl, BitVec.not_allOnes, BitVec.and_zero, BitVec.zero_or, BitVec.and_zero, BitVec.not_zero,
      BitVec.and_allOnes, BitVec.and_allOnes]
  exact congrArg (s.wr .flowTmo ·) (hmask _)

theorem State.apply4_flowTmo (v : Word) : s.apply4 f 0x3600008 v = s.wr .flowTmo v := by
  unfold State.apply4
  rw [if_neg (by unfold State.deadTile; simp), locate_flowTmo]
  exact (if_neg (by decide)).trans (s.plainWrite_flowTmo v)

/-! ## The clauses -/

/-- A write with no effect completes. -/
theorem State.bar0Write_discards {v : Word} (h : a % 4 = 0) (ha : a < 67108864) (hu : s.writeUnder f a 4 (fun s => s.apply4 f a v) = s) :
    OnlyRegs [] s (s.bar0Write f a v) ∧ OnlyWide [] s (s.bar0Write f a v) ∧ (s.bar0Write f a v).host.mem = s.host.mem := by
  rw [s.bar0Write_eq v h ha, hu]
  exact ⟨s.answer_onlyRegs (.refl _ s) _, s.answer_onlyWide (.refl _ s) _, rfl⟩

/-- A 64-bit register reads the same by halves and whole (R9). -/
theorem State.wide_reads {f : FnIx} {a b : Fin 67108864} (h8 : a.val % 8 = 0) (hb : b.val = a.val + 4)
    (hla : locate a = some (n', i, j, false)) (hlb : locate b = some (n', i, j, true)) (hw : (regInfo n').wide = true)
    (hha : s.hidden f a = false) (hhb : s.hidden f b = false) :
    ∃ u x y, exec (.lowWordRead f a) s = .next u ∧
      u.host.readData = BitVec.ofNat 64 ((s.viewWide n' i j).toNat % 2 ^ 32) ∧ exec (.lowWordRead f b) u = .next x ∧
      x.host.readData = BitVec.ofNat 64 ((s.viewWide n' i j).toNat / 2 ^ 32) ∧ exec (.eightByteAccess f 0 a 8 false 0) s = .next y ∧
      y.host.readData = s.viewWide n' i j ∧ OnlyRegs [] s y := by
  obtain ⟨hr32, hsq, hdata, hlatch⟩ := State.lowRead_latches (s := s) f n' i j
  have hlow : s.bar0Read f a = s.lowRead f n' i j := State.bar0Read_wide (by omega) a.isLt hha hla hw
  have hhigh : (s.lowRead f n' i j).bar0Read f b = ((s.lowRead f n' i j).setLatch f n' i j none).answer
      (BitVec.ofNat 32 ((s.viewWide n' i j).toNat / 2 ^ 32)).toNat :=
    (State.bar0Read_wide (by omega) b.isLt ((s.hidden_congr hr32 hsq f b).trans hhb) hlb hw).trans (State.highRead_latched hlatch)
  have hfit : (BitVec.ofNat 32 ((s.viewWide n' i j).toNat / 2 ^ 32)).toNat = (s.viewWide n' i j).toNat / 2 ^ 32 := by
    rw [BitVec.toNat_ofNat]
    exact Nat.mod_eq_of_lt (by have := (s.viewWide n' i j).isLt; omega)
  exact ⟨_, _, _, congrArg Host.Outcome.next hlow, hdata, congrArg Host.Outcome.next hhigh, congrArg (BitVec.ofNat 64) hfit,
    congrArg Host.Outcome.next (State.bar0Read8_wide h8 a.isLt hha hla hw), BitVec.ofNat_toNat .. |>.trans (BitVec.setWidth_eq _),
    s.answer_onlyRegs (.refl _ s) _⟩

/-- A 64-bit register written by halves takes both with the high word, and written whole takes the value at once (R9, R31). -/
theorem State.wide_writes {f : FnIx} {a b : Fin 67108864} {lo hi : Word} {w : DWord} (h8 : a.val % 8 = 0) (hb : b.val = a.val + 4)
    (hla : locate a = some (n', i, j, false)) (hlb : locate b = some (n', i, j, true)) (hw : (regInfo n').wide = true)
    (hr : s.flag F.dawnStatus_READY = true) (hf : s.flag F.fnStatus_FROZEN f = false) (hya : s.leave f a = .yes) (hyb : s.leave f b = .yes)
    (hda : s.deadTile a = false) (hdb : s.deadTile b = false) (hrw : (regInfo n').rw ≠ 0) (hbase : n' ≠ .ringBase) (hsrc : n' ≠ .chSrc)
    (hdst : n' ≠ .chDst) {m : DWord} (hm : m = BitVec.ofNat 64 (regInfo n').rw) :
    ∃ u x y, exec (.lowWordWrite f a lo) s = .next u ∧ u.rdw n' i j = s.rdw n' i j ∧ exec (.highWordWrite f b hi) u = .next x ∧
      x.rdw n' i j = (s.rdw n' i j &&& ~~~m) ||| (BitVec.ofNat 64 (hi.toNat * 2 ^ 32 + lo.toNat) &&& m) ∧ OnlyWide [n'] s x ∧ OnlyRegs [] s x ∧
      exec (.eightByteAccess f 0 a 8 true w) s = .next y ∧ y.rdw n' i j = (s.rdw n' i j &&& ~~~m) ||| (w &&& m) ∧ OnlyWide [n'] s y := by
  subst hm
  obtain ⟨u, hu⟩ : ∃ u, u = (s.setHold f n' i j (some lo)).answer s.host.readData.toNat := ⟨_, rfl⟩
  have hlow : s.bar0Write f a lo = u := by
    rw [s.bar0Write_eq lo (by omega) a.isLt, State.writeUnder_may hr hf _ hya, State.apply4_wide lo hda hla hw hrw, hu]
    rfl
  obtain ⟨hur, huq, huw, huh⟩ : u.r32 = s.r32 ∧ u.squall = s.squall ∧ u.r64 = s.r64 ∧ tget u.host.lowHold (fnKey f n' i j) none = some lo := by
    rw [hu]
    exact ⟨rfl, rfl, rfl, tget_tset_same s.host.lowHold (fnKey f n' i j) none (some lo)⟩
  have hrdw : ∀ k p q, u.rdw k p q = s.rdw k p q := fun k p q => by unfold State.rdw; rw [huw]
  have hrd : ∀ k p q, u.rd k p q = s.rd k p q := fun k p q => by unfold State.rd; rw [hur]
  have hhigh : u.bar0Write f b hi = (((u.setHold f n' i j none).wrw n' ((u.rdw n' i j &&& ~~~BitVec.ofNat 64 (regInfo n').rw) |||
      (BitVec.ofNat 64 (hi.toNat * 2 ^ 32 + lo.toNat) &&& BitVec.ofNat 64 (regInfo n').rw)) i j).answer u.host.readData.toNat) := by
    rw [u.bar0Write_eq hi (by omega) b.isLt, State.writeUnder_may ((s.flag_congr hur _ _).trans hr) ((s.flag_congr hur _ _).trans hf) _
      ((s.leave_congr hur huq f b).trans hyb), State.apply4_wide hi ((s.deadTile_congr hur b).trans hdb) hlb hw hrw, if_pos rfl,
      State.highWrite_held hi huh, State.wideWrite_open _ hbase hsrc hdst]
    rfl
  have hwhole : s.bar0Access f a 8 true w = (s.wrw n' ((s.rdw n' i j &&& ~~~BitVec.ofNat 64 (regInfo n').rw) |||
      (w &&& BitVec.ofNat 64 (regInfo n').rw)) i j).answer s.host.readData.toNat := by
    rw [s.bar0Access_whole w h8 a.isLt, State.writeUnder_may hr hf _ hya, State.apply8_wide w hda hla hw, State.wideWrite_open _ hbase hsrc hdst]
  refine ⟨_, _, _, congrArg Host.Outcome.next hlow, hrdw n' i j, congrArg Host.Outcome.next hhigh, ?_, ?_, ?_,
    congrArg Host.Outcome.next hwhole, rdw_wrw_same s n' _ i j, s.answer_onlyWide ((OnlyWide.refl _ s).wrw _ i j List.mem_cons_self) _⟩
  · exact (rdw_wrw_same (u.setHold f n' i j none) n' _ i j).trans (by rw [hrdw])
  · have hother : OnlyWide [n'] s (u.setHold f n' i j none) := fun k p q _ => hrdw k p q
    exact s.answer_onlyWide (hother.wrw _ i j List.mem_cons_self) _
  · exact fun k p q _ => hrd k p q

end

/-- Settles O42: each access takes the branch of its alignment, length, right and register. -/
theorem bar0Accesses : Obligations.Bar0Accesses := by
  unfold Obligations.Bar0Accesses
  intro s f a b v lo hi w
  refine ⟨fun h => ?_, fun h wr => congrArg Host.Outcome.next (s.bar0Access_misaligned wr w h), fun bar len wr h4 h8 => ?_,
    fun wr => congrArg Host.Outcome.next (s.bar2Access_length wr w (by decide)), fun wr h => congrArg Host.Outcome.next (s.bar4Access_misaligned wr h),
    fun v _ => congrArg Host.Outcome.next (s.bar0Access_word v), fun h hr hf h18 => ⟨fun hl hn => ?_, fun hl hm => ?_, fun hl hm => ?_⟩,
    fun h hc => ⟨_, rfl, State.bar0Write_discards h a.isLt (s.writeUnder_closed _ hc)⟩, fun hr hf hright h3 => ?_,
    fun n i j h8 hb hla hlb hw => ⟨fun hha hhb => State.wide_reads h8 hb hla hlb hw hha hhb,
      fun hr hf hya hyb hda hdb hrw hbase hsrc hdst => State.wide_writes h8 hb hla hlb hw hr hf hya hyb hda hdb hrw hbase hsrc hdst rfl⟩⟩
  · exact ⟨congrArg Host.Outcome.next (s.bar0Write_misaligned v h), congrArg Host.Outcome.next (s.bar0Read_misaligned h),
      congrArg Host.Outcome.next (s.bar0Write_misaligned v h), congrArg Host.Outcome.next (s.bar0Write_misaligned v h)⟩
  · match bar with
    | 0 => exact congrArg Host.Outcome.next (s.bar0Access_length wr w h4 h8)
    | 1 => exact congrArg Host.Outcome.next (s.bar2Access_length wr w h4)
    | 2 => exact congrArg Host.Outcome.next (s.bar4Access_length wr h4 h8)
  · exact ⟨_, rfl, State.bar0Write_discards h a.isLt (State.writeUnder_unmapped hr hf _ h18 hl (by rw [mapped_word, hn]; rfl))⟩
  · obtain ⟨hfrozen, hkind⟩ := State.violation_freezes a 0 hf (show 1 < 8 by decide)
    exact ⟨_, congrArg Host.Outcome.next ((s.bar0Write_eq v h a.isLt).trans
      (congrArg (State.answer · _) (State.writeUnder_violates hr hf _ h18 hl (by rw [mapped_word, hm])))), hfrozen, hkind, s.violation_violAddr hf⟩
  · exact ⟨_, congrArg Host.Outcome.next ((s.bar0Write_eq v h a.isLt).trans
      (congrArg (State.answer · _) (State.writeUnder_foreign hr hf _ h18 hl (by rw [mapped_word, hm])))), rdw_bump_same s _ 0 0 1,
      fun _ _ _ _ => rfl, s.answer_onlyWide ((OnlyWide.refl _ s).wrw _ 0 0 List.mem_cons_self) _⟩
  · have hwrite : s.bar0Write f 0x3600008 v = (s.wr .flowTmo v).answer s.host.readData.toNat := by
      rw [s.bar0Write_eq v (by decide) (by decide), State.writeUnder_may hr hf _ (State.leave_halo hright fun h => h3 (Fin.ext h)),
        State.apply4_flowTmo]
    exact ⟨_, congrArg Host.Outcome.next hwrite, rd_wr_same s .flowTmo v 0 0,
      s.answer_onlyRegs ((OnlyRegs.refl _ s).wr _ 0 0 List.mem_cons_self) _, fun _ _ _ _ => rfl, rfl⟩

end Sys2Proof.Machine
end

section
/-!
PROOF. The clock, its steps and what they do to triggers (R426–R428, R431, R436–R438).
-/

set_option Elab.async false
set_option exponentiation.threshold 4096
set_option maxRecDepth 20000

namespace Sys2Proof.Machine

def Touch.butTime : Touch := { Touch.all with time := false }

section
variable (s : State)

/-! ## The clock's reading -/

/-- The time unit's state without its triggers. -/
def State.clock (s : State) : TimeSt := { s.time with trigs := [] }

theorem clockOf_eq : clockOf s = s.ptpNs * 2 ^ 32 + s.time.frac.toNat := rfl

variable {s} in
theorem clock_reads {t : State} (h : t.clock = s.clock) :
    t.time.sec = s.time.sec ∧ t.time.ns = s.time.ns ∧ t.time.frac = s.time.frac ∧ t.time.steps = s.time.steps :=
  ⟨show t.clock.sec = s.clock.sec by rw [h], show t.clock.ns = s.clock.ns by rw [h], show t.clock.frac = s.clock.frac by rw [h],
    show t.clock.steps = s.clock.steps by rw [h]⟩

variable {s} in
theorem ptpCeil_of_clock {t : State} (h : t.clock = s.clock) : t.ptpCeil = s.ptpCeil := by
  obtain ⟨hsec, hns, hfrac, -⟩ := clock_reads h
  unfold State.ptpCeil State.ptpNs
  rw [hsec, hns, hfrac]

variable {s} in
theorem clockOf_of_clock {t : State} (h : t.clock = s.clock) : clockOf t = clockOf s := by
  obtain ⟨hsec, hns, hfrac, -⟩ := clock_reads h
  unfold clockOf
  rw [hsec, hns, hfrac]

/-- The first whole nanosecond at or after the reading, against a time in nanoseconds. -/
theorem ptpCeil_le_iff (x : Nat) : s.ptpCeil ≤ x ↔ clockOf s ≤ x * 2 ^ 32 := by
  rw [clockOf_eq]
  unfold State.ptpCeil
  have hfrac := s.time.frac.isLt
  split
  · next h =>
    have hzero : s.time.frac.toNat = 0 := congrArg BitVec.toNat h
    omega
  · next h =>
    have hpos : s.time.frac.toNat ≠ 0 := fun hz => h (BitVec.eq_of_toNat_eq hz)
    omega

theorem lt_ptpCeil_iff (x : Nat) : x < s.ptpCeil ↔ x * 2 ^ 32 < clockOf s := by
  rw [← not_le, ptpCeil_le_iff, not_le]

theorem State.post_time (a b : Nat) : (s.post a b).time = s.time := (State.post_keeps (.rfl' .butTime s) a b).time rfl

/-! ## Firing times (R436) -/

theorem firstFiring_multiple (start period now : Nat) : ∃ j, firstFiring start period now = start + j * period := by
  unfold firstFiring
  split
  · exact ⟨0, by omega⟩
  · exact ⟨_, rfl⟩

theorem le_firstFiring (start now : Nat) {period : Nat} (h : 0 < period) : now ≤ firstFiring start period now := by
  unfold firstFiring ceilDiv
  split
  · assumption
  · have hdiv := Nat.div_add_mod (now - start + period - 1) period
    have hmod := Nat.mod_lt (now - start + period - 1) h
    rw [Nat.mul_comm] at hdiv
    omega

theorem firstFiring_first {start now period : Nat} (h : 0 < period) (hs : firstFiring start period now ≠ start) :
    firstFiring start period now - period < now := by
  unfold firstFiring ceilDiv at hs ⊢
  split at hs
  · exact absurd rfl hs
  · next hlt =>
    rw [if_neg hlt]
    have hdiv := Nat.div_add_mod (now - start + period - 1) period
    rw [Nat.mul_comm] at hdiv
    omega

/-! ## An edge (R426, R428) -/

theorem State.perf_only (t ev : Nat) (slot : Option Nat) (classes : Option (List Nat)) (code : Option Nat) (n : Nat) :
    OnlyRegs [.pcOvf] s (s.perf t ev slot classes code n) ∧ OnlyWide [.pcVal] s (s.perf t ev slot classes code n) := by
  unfold State.perf
  refine State.each_ind (P := fun u => OnlyRegs [.pcOvf] s u ∧ OnlyWide [.pcVal] s u) ⟨.refl _ s, .refl _ s⟩ fun kw u hu => ?_
  obtain ⟨hr, hw⟩ := hu
  unfold State.addOvf State.setBit
  split
  · dsimp only
    have hbump := hw.wrw (n := .pcVal) (BitVec.ofNat 64 ((u.rdw .pcVal t kw.1).toNat + n)) t kw.1 List.mem_cons_self
    split
    · exact ⟨(hr.wrw _ _ _ _).wr _ _ _ List.mem_cons_self, hbump.wr _ _ _ _⟩
    · exact ⟨hr.wrw _ _ _ _, hbump⟩
  · exact ⟨hr, hw⟩

/-- What no performance counter changes, the count of a cycle leaves, the phase of CLK_CORE aside. -/
theorem State.countCycle_view {β : Type} (view : State → β) (hview : ∀ t ev slot classes code n u, view (State.perf u t ev slot classes code n) = view u) :
    view s.countCycle =
      view { s with time := { s.time with corePhase := (s.time.corePhase + if s.hz then 400 else coreMhz s.power.clkOp) % 400 } } := by
  unfold State.countCycle
  dsimp only
  refine (forN_keeps_view view fun t u => ?_).trans (State.each_view view fun pc t => hview ..)
  unfold State.when
  split
  · exact hview ..
  · rfl

theorem State.countCycle_time : ∃ p, s.countCycle.time = { s.time with corePhase := p } :=
  ⟨_, s.countCycle_view State.time fun _ _ _ _ _ _ u => (State.perf_keeps (.rfl' .butTime u) ..).time rfl⟩

theorem State.countCycle_rd {n : RName} (i j : Nat) (hn : n ≠ .pcOvf) : s.countCycle.rd n i j = s.rd n i j :=
  s.countCycle_view (fun u => u.rd n i j) fun _ _ _ _ _ _ u => (u.perf_only ..).1 n i j (by simpa using hn)

theorem State.countCycle_rdw {n : RName} (i j : Nat) (hn : n ≠ .pcVal) : s.countCycle.rdw n i j = s.rdw n i j :=
  s.countCycle_view (fun u => u.rdw n i j) fun _ _ _ _ _ _ u => (u.perf_only ..).2 n i j (by simpa using hn)

/-- The state an edge finds once its cycle is counted, with `rest` of the steps left. -/
def State.edge (s : State) (rest : List ClkStep) : State :=
  { s.countCycle with time := { s.countCycle.time with ticks := s.countCycle.time.ticks + 1, steps := rest } }

/-- The time unit at an edge: the clock as it was, and the triggers. -/
theorem State.edge_time (rest : List ClkStep) : (s.edge rest).time.sec = s.time.sec ∧ (s.edge rest).time.ns = s.time.ns ∧
    (s.edge rest).time.frac = s.time.frac ∧ (s.edge rest).time.steps = rest ∧ (s.edge rest).time.trigs = s.time.trigs := by
  obtain ⟨p, hp⟩ := s.countCycle_time
  unfold State.edge
  rw [hp]
  exact ⟨rfl, rfl, rfl, rfl, rfl⟩

theorem State.edge_reading (rest : List ClkStep) : (s.edge rest).ptpNs = s.ptpNs ∧ (s.edge rest).ptpCeil = s.ptpCeil ∧ clockOf (s.edge rest) = clockOf s := by
  obtain ⟨hsec, hns, hfrac, -, -⟩ := s.edge_time rest
  unfold State.ptpCeil clockOf State.ptpNs
  rw [hsec, hns, hfrac]
  exact ⟨rfl, rfl, rfl⟩

theorem State.edge_rd (rest : List ClkStep) {n : RName} (i j : Nat) (hn : n ≠ .pcOvf) : (s.edge rest).rd n i j = s.rd n i j :=
  s.countCycle_rd i j hn

theorem State.edge_rdw (rest : List ClkStep) {n : RName} (i j : Nat) (hn : n ≠ .pcVal) : (s.edge rest).rdw n i j = s.rdw n i j :=
  s.countCycle_rdw i j hn

theorem State.edge_host (rest : List ClkStep) : (s.edge rest).host = s.host :=
  s.countCycle_view State.host fun _ _ _ _ _ _ u => (State.perf_keeps (.rfl' .butHost u) ..).hostAll rfl rfl

theorem State.countCycle_unusable (b : Nat) : s.countCycle.unusableBlk b = s.unusableBlk b :=
  s.countCycle_view (State.unusableBlk · b) fun _ _ _ _ _ _ u =>
    congrArg (fun z : BootSt => bitAt z.unusable b) ((State.perf_keeps (.rfl' { Touch.all with boot := false } u) ..).boot rfl)

variable {s}

theorem State.tick_step {c : ClkStep} {rest : List ClkStep} (hu : s.unusableBlk 5 = false) (hs : s.time.steps = c :: rest) :
    s.tick = (s.edge rest).applyStep c := by
  obtain ⟨p, hp⟩ := s.countCycle_time
  have hs' : s.countCycle.time.steps = c :: rest := by rw [hp]; exact hs
  unfold State.tick
  dsimp only
  rw [if_neg (by rw [show State.unusableBlk _ 5 = s.countCycle.unusableBlk 5 from rfl, s.countCycle_unusable, hu]; decide), hs']
  rfl

/-- The clock's fields after an edge with no step pending. -/
def State.clockAdvanced (s : State) (total : Nat) : State :=
  { s with time := { s.time with
      sec := s.time.sec + (if 1000000000 ≤ total / 2 ^ 32 then 1 else 0)
      ns := if 1000000000 ≤ total / 2 ^ 32 then total / 2 ^ 32 - 1000000000 else total / 2 ^ 32
      frac := BitVec.ofNat 32 total } }

theorem State.tick_plain (hu : s.unusableBlk 5 = false) (hs : s.time.steps = []) :
    s.tick = (s.edge []).clockAdvanced (s.time.ns * 2 ^ 32 + s.time.frac.toNat + s.incrNow) := by
  obtain ⟨p, hp⟩ := s.countCycle_time
  have hs' : s.countCycle.time.steps = [] := by rw [hp]; exact hs
  have hincr : s.countCycle.incrNow = s.incrNow := by unfold State.incrNow; rw [s.countCycle_rdw 0 0 (by decide)]
  have hns : s.countCycle.time.ns = s.time.ns := by rw [hp]
  have hfrac : s.countCycle.time.frac = s.time.frac := by rw [hp]
  unfold State.tick
  dsimp only
  rw [if_neg (by rw [show State.unusableBlk _ 5 = s.countCycle.unusableBlk 5 from rfl, s.countCycle_unusable, hu]; decide), hs']
  dsimp only
  rw [hincr, hns, hfrac]
  unfold State.clockAdvanced State.edge
  rw [← hs']

theorem State.clockAdvanced_frame (e : State) (total : Nat) : (e.clockAdvanced total).time.trigs = e.time.trigs ∧
    (∀ n i j, (e.clockAdvanced total).rd n i j = e.rd n i j) ∧ (∀ n i j, (e.clockAdvanced total).rdw n i j = e.rdw n i j) ∧
    (e.clockAdvanced total).host = e.host :=
  ⟨rfl, fun _ _ _ => rfl, fun _ _ _ => rfl, rfl⟩

theorem clockAdvanced_clock {e : State} {incr : Nat} (hns : e.time.ns < 1000000000) (hincr : incr ≤ 0x2FFFFFFFF) :
    (e.clockAdvanced (e.time.ns * 2 ^ 32 + e.time.frac.toNat + incr)).time.ns < 1000000000 ∧
      clockOf (e.clockAdvanced (e.time.ns * 2 ^ 32 + e.time.frac.toNat + incr)) = (clockOf e + incr) % (2 ^ 48 * 1000000000 * 2 ^ 32) := by
  obtain ⟨total, htotal⟩ : ∃ t, t = e.time.ns * 2 ^ 32 + e.time.frac.toNat + incr := ⟨_, rfl⟩
  have hfrac := e.time.frac.isLt
  have hsec := e.time.sec.isLt
  rw [← htotal]
  have hread : clockOf (e.clockAdvanced total) = ((e.time.sec.toNat + (if 1000000000 ≤ total / 2 ^ 32 then 1 else 0)) % 2 ^ 48 * 1000000000 +
      (if 1000000000 ≤ total / 2 ^ 32 then total / 2 ^ 32 - 1000000000 else total / 2 ^ 32)) * 2 ^ 32 + total % 2 ^ 32 := by
    unfold clockOf State.clockAdvanced
    dsimp only
    rw [BitVec.toNat_add, BitVec.toNat_ofNat]
    split <;> rfl
  refine ⟨?_, hread.trans ?_⟩
  · show (if 1000000000 ≤ total / 2 ^ 32 then total / 2 ^ 32 - 1000000000 else total / 2 ^ 32) < 1000000000
    split <;> omega
  · rw [clockOf_eq]
    unfold State.ptpNs
    split <;> omega

/-! ## A step (R428, R438) -/

/-- What a step does to a trigger and its status word: `old` and `new` are the clock's first whole nanoseconds. -/
def trigStepped (t : Trig) (w : Word) (old new : Nat) : Trig × Word :=
  if bits w.toNat 0 0 = 1 then
    if t.mode = 2 then
      ({ t with next := firstFiring t.start t.period new }, if t.next < firstFiring t.start t.period new then
        BitVec.ofNat 32 (setBits w.toNat 31 16 (min 0xFFFF (bits w.toNat 31 16 + (firstFiring t.start t.period new - t.next) / t.period))) else w)
    else if t.mode = 1 ∧ old ≤ t.start ∧ t.start < new then ({ t with late := true }, w)
    else (t, w)
  else (t, w)

/-- A trigger with its status word, and the clock. -/
def State.trigView (s : State) (k : Nat) : TimeSt × Trig × Word := (s.clock, s.trig k, s.rd .trigStatus k)

theorem State.setTrig_view (k : Nat) (t : Trig) : (s.setTrig k t).trigView k = (s.clock, t, s.rd .trigStatus k) := by
  unfold State.trigView State.trig State.setTrig
  dsimp only
  rw [tget_tset_same]
  rfl

theorem State.trigView_of {t u : State} {k : Nat} (ht : u.time = t.time) (hr : u.rd .trigStatus k = t.rd .trigStatus k) :
    u.trigView k = t.trigView k := by
  unfold State.trigView State.clock State.trig
  rw [ht, hr]

theorem State.post_trigView (a b k : Nat) : (s.post a b).trigView k = s.trigView k :=
  State.trigView_of (s.post_time a b) ((State.post_keeps (.rfl' (.avoid [.trigStatus]) s) a b).rd _ _ _ rfl)

theorem State.trigView_of_fset (v k : Nat) : (s.fset F.trigStatus_SKIPPED v k).trigView k =
    ((s.trigView k).1, (s.trigView k).2.1, BitVec.ofNat 32 (setBits (s.rd .trigStatus k).toNat 31 16 v)) := by
  have hword : (s.fset F.trigStatus_SKIPPED v k).rd .trigStatus k = BitVec.ofNat 32 (setBits (s.rd .trigStatus k).toNat 31 16 v) :=
    rd_wr_same s .trigStatus _ k 0
  unfold State.trigView State.clock State.trig
  rw [hword, State.fset_time]

theorem State.trigStep_view (old k : Nat) :
    (s.trigStep old k).trigView k = (s.clock, trigStepped (s.trig k) (s.rd .trigStatus k) old s.ptpCeil) := by
  unfold State.trigStep trigStepped
  dsimp only
  by_cases harmed : s.flag F.trigStatus_ARMED k = true
  · have hbit : bits (s.rd .trigStatus k).toNat 0 0 = 1 := of_decide_eq_true harmed
    rw [if_pos harmed, if_pos hbit]
    by_cases h2 : (s.trig k).mode = 2
    · rw [if_pos h2, if_pos h2]
      split
      · rw [State.post_trigView]
        refine (State.trigView_of_fset ..).trans ?_
        rw [State.setTrig_view]
        rfl
      · exact s.setTrig_view k _
    · rw [if_neg h2, if_neg h2]
      split
      · exact s.setTrig_view k _
      · rfl
  · have hbit : ¬bits (s.rd .trigStatus k).toNat 0 0 = 1 := fun h => harmed (decide_eq_true h)
    rw [if_neg harmed, if_neg hbit]
    rfl

theorem State.setTrig_trigView_ne {j k : Nat} (t : Trig) (h : j ≠ k) : (s.setTrig j t).trigView k = s.trigView k := by
  unfold State.trigView State.trig State.setTrig
  dsimp only
  rw [tget_tset_ne _ _ _ _ h.symm]
  rfl

theorem State.fset_trigView_ne {j k v : Nat} (F : Fld) (hj : j < 16) (hk : k < 16) (h : j ≠ k) : (s.fset F v j).trigView k = s.trigView k :=
  State.trigView_of (s.fset_time F v j 0) (rd_fset_inst s v 0 0 (by omega))

theorem State.trigStep_view_ne (old : Nat) {j k : Nat} (hj : j < 16) (hk : k < 16) (h : j ≠ k) : (s.trigStep old j).trigView k = s.trigView k := by
  unfold State.trigStep
  dsimp only
  split
  · split
    · split
      · rw [State.post_trigView, State.fset_trigView_ne _ hj hk h, State.setTrig_trigView_ne _ h]
      · exact State.setTrig_trigView_ne _ h
    · split
      · exact State.setTrig_trigView_ne _ h
      · rfl
  · rfl

theorem State.trigStep_congr {t : State} {old k : Nat} (h : s.trigView k = t.trigView k) : (s.trigStep old k).trigView k = (t.trigStep old k).trigView k := by
  have hclock : s.clock = t.clock := congrArg Prod.fst h
  have htrig : s.trig k = t.trig k := congrArg (·.2.1) h
  have hword : s.rd .trigStatus k = t.rd .trigStatus k := congrArg (·.2.2) h
  rw [State.trigStep_view, State.trigStep_view, hclock, htrig, hword, ptpCeil_of_clock hclock]

/-- A step's clock, before its triggers are moved. -/
def State.stepped (s : State) (c : ClkStep) : State :=
  match c with
  | .set sec ns frac => s.setClock (sec * 1000000000 + ns) frac
  | .add off => if (s.ptpNs : Int) + toSigned 64 off < 0 then s.setClock 0 0
    else s.setClock (((s.ptpNs : Int) + toSigned 64 off).toNat % (2 ^ 48 * 1000000000)) s.time.frac.toNat

theorem State.applyStep_eq (c : ClkStep) : ∃ code, s.applyStep c =
    forN 16 (fun k u => u.trigStep s.ptpCeil k) (((s.stepped c).fset F.timeStatus_SET 1).post 0x0701 code) := by
  cases c <;> exact ⟨_, rfl⟩

theorem State.trigSteps_clock (old : Nat) : (forN 16 (fun k u => State.trigStep u old k) s).clock = s.clock :=
  forN_keeps_view State.clock fun k u => congrArg Prod.fst (u.trigStep_view old k)

theorem State.applyStep_clock (c : ClkStep) : (s.applyStep c).clock = (s.stepped c).clock := by
  obtain ⟨code, hcode⟩ := s.applyStep_eq c
  rw [hcode, State.trigSteps_clock]
  unfold State.clock
  rw [State.post_time, State.fset_time]

/-- A step moves each trigger by the clock's readings before and after it. -/
theorem State.applyStep_trig (c : ClkStep) {k : Nat} (hk : k < 16) :
    ((s.applyStep c).trig k, (s.applyStep c).rd .trigStatus k) =
      trigStepped ((s.stepped c).trig k) ((s.stepped c).rd .trigStatus k) s.ptpCeil (s.stepped c).ptpCeil := by
  obtain ⟨code, hcode⟩ := s.applyStep_eq c
  obtain ⟨u, hu⟩ : ∃ u, u = ((s.stepped c).fset F.timeStatus_SET 1).post 0x0701 code := ⟨_, rfl⟩
  have hview : u.trigView k = (s.stepped c).trigView k := by
    rw [hu, State.post_trigView]
    exact State.trigView_of ((s.stepped c).fset_time F.timeStatus_SET 1 0 0) (rd_fset_reg _ _ _ _ _ _ (by decide))
  have hclock : u.clock = (s.stepped c).clock := congrArg Prod.fst hview
  have htrig : u.trig k = (s.stepped c).trig k := congrArg (·.2.1) hview
  have hword : u.rd .trigStatus k = (s.stepped c).rd .trigStatus k := congrArg (·.2.2) hview
  have hloop := forN_view (fun v : State => v.trigView k) (op := fun k u => State.trigStep u s.ptpCeil k) k (n := 16) u
    (fun j v hj hne => v.trigStep_view_ne _ hj hk hne) fun v w hvw => State.trigStep_congr hvw
  have hpair := congrArg Prod.snd ((hloop.trans (if_pos hk)).trans (u.trigStep_view s.ptpCeil k))
  rw [htrig, hword, ptpCeil_of_clock hclock] at hpair
  rw [hcode, ← hu]
  exact hpair

theorem State.trigStep_flag (s : State) (old k : Nat) : (s.trigStep old k).flag F.timeStatus_SET = s.flag F.timeStatus_SET :=
  (State.trigStep_keeps (.rfl' (.avoid [.timeStatus]) s) old k).flag F.timeStatus_SET 0 0 rfl

theorem State.post_flag (s : State) (a b : Nat) : (s.post a b).flag F.timeStatus_SET = s.flag F.timeStatus_SET :=
  (State.post_keeps (.rfl' (.avoid [.timeStatus]) s) a b).flag F.timeStatus_SET 0 0 rfl

theorem State.applyStep_set (c : ClkStep) : (s.applyStep c).flag F.timeStatus_SET = true := by
  obtain ⟨code, hcode⟩ := s.applyStep_eq c
  rw [hcode]
  have hsteps : ∀ v : State, (forN 16 (fun k u => State.trigStep u s.ptpCeil k) v).flag F.timeStatus_SET = v.flag F.timeStatus_SET := fun v =>
    forN_keeps_view (fun u : State => u.flag F.timeStatus_SET) fun k u => u.trigStep_flag s.ptpCeil k
  exact (hsteps _).trans ((State.post_flag _ _ _).trans (flag_fset_one _ F.timeStatus_SET 0 0 rfl (by decide)))

/-- What a step loads leaves the triggers and the registers. -/
theorem State.stepped_frame (c : ClkStep) : (s.stepped c).time.trigs = s.time.trigs ∧ (s.stepped c).r32 = s.r32 ∧
    (s.stepped c).time.steps = s.time.steps := by
  have hset : ∀ ns frac, (s.setClock ns frac).time.trigs = s.time.trigs ∧ (s.setClock ns frac).r32 = s.r32 ∧
      (s.setClock ns frac).time.steps = s.time.steps := fun ns frac => ⟨rfl, rfl, rfl⟩
  unfold State.stepped
  split
  · exact hset _ _
  · split
    · exact hset _ _
    · exact hset _ _

theorem setClock_clock {ns frac : Nat} (hns : ns < 2 ^ 48 * 1000000000) : clockOf (s.setClock ns frac) = ns * 2 ^ 32 + frac % 2 ^ 32 := by
  show ((BitVec.ofNat 48 (ns / 1000000000)).toNat * 1000000000 + ns % 1000000000) * 2 ^ 32 + (BitVec.ofNat 32 frac).toNat = _
  rw [BitVec.toNat_ofNat, BitVec.toNat_ofNat]
  omega

theorem stepped_set_fields {sec ns frac : Nat} (hsec : sec < 2 ^ 48) (hns : ns < 1000000000) (hfrac : frac < 2 ^ 32) :
    (s.stepped (.set sec ns frac)).time.sec.toNat = sec ∧ (s.stepped (.set sec ns frac)).time.ns = ns ∧
      (s.stepped (.set sec ns frac)).time.frac.toNat = frac := by
  show (BitVec.ofNat 48 ((sec * 1000000000 + ns) / 1000000000)).toNat = sec ∧ (sec * 1000000000 + ns) % 1000000000 = ns ∧
    (BitVec.ofNat 32 frac).toNat = frac
  rw [BitVec.toNat_ofNat, BitVec.toNat_ofNat]
  omega

theorem stepped_add_below {off : Nat} (h : (s.ptpNs : Int) + toSigned 64 off < 0) : clockOf (s.stepped (.add off)) = 0 := by
  have hzero : clockOf (s.setClock 0 0) = 0 := by rw [setClock_clock (by norm_num), Nat.zero_mul, Nat.zero_mod]
  exact (congrArg clockOf (if_pos h)).trans hzero

theorem stepped_add_clock {off : Nat} (h : 0 ≤ (s.ptpNs : Int) + toSigned 64 off) (hlt : (s.ptpNs : Int) + toSigned 64 off < 2 ^ 48 * 1000000000) :
    (clockOf (s.stepped (.add off)) : Int) = ((s.ptpNs : Int) + toSigned 64 off) * 2 ^ 32 + s.time.frac.toNat := by
  have hfrac := s.time.frac.isLt
  obtain ⟨z, hz⟩ : ∃ z, z = (s.ptpNs : Int) + toSigned 64 off := ⟨_, rfl⟩
  have hread : clockOf (s.stepped (.add off)) = z.toNat % (2 ^ 48 * 1000000000) * 2 ^ 32 + s.time.frac.toNat % 2 ^ 32 := by
    refine (congrArg clockOf (if_neg (not_lt.mpr h))).trans ?_
    rw [← hz]
    exact setClock_clock (Nat.mod_lt _ (by decide))
  rw [hread, ← hz]
  rw [← hz] at h hlt
  omega

/-! ## The claims -/

theorem tick_advances (hns : s.time.ns < 1000000000) (hu : s.unusableBlk 5 = false) (hs : s.time.steps = []) :
    s.tick.time.ns < 1000000000 ∧
      clockOf s.tick = (clockOf s + max 0x200000000 (min 0x2FFFFFFFF (s.rdw .incr).toNat)) % (2 ^ 48 * 1000000000 * 2 ^ 32) ∧
      s.tick.time.trigs = s.time.trigs ∧ OnlyRegs [.pcOvf] s s.tick ∧ OnlyWide [.pcVal] s s.tick ∧ s.tick.host = s.host := by
  obtain ⟨-, hns', hfrac, -, htrigs⟩ := s.edge_time []
  obtain ⟨-, -, hclock⟩ := s.edge_reading []
  obtain ⟨hlt, hread⟩ := clockAdvanced_clock (e := s.edge []) (incr := s.incrNow) (by rw [hns']; exact hns) (by unfold State.incrNow; omega)
  rw [hns', hfrac] at hlt hread
  rw [State.tick_plain hu hs]
  rw [hclock, State.incrNow] at hread
  obtain ⟨hft, hfr, hfw, hfh⟩ := (s.edge []).clockAdvanced_frame (s.time.ns * 2 ^ 32 + s.time.frac.toNat + s.incrNow)
  exact ⟨hlt, hread, hft.trans htrigs, fun n i j hn => (hfr n i j).trans (s.edge_rd [] i j (by simpa using hn)),
    fun n i j hn => (hfw n i j).trans (s.edge_rdw [] i j (by simpa using hn)), hfh.trans (s.edge_host [])⟩

/-- What an edge that takes a step leaves in the clock. -/
theorem tick_takes {c : ClkStep} {rest : List ClkStep} (hu : s.unusableBlk 5 = false) (hs : s.time.steps = c :: rest) :
    s.tick.clock = ((s.edge rest).stepped c).clock ∧ s.tick.time.steps = rest ∧ s.tick.flag F.timeStatus_SET = true := by
  obtain ⟨-, -, -, hsteps, -⟩ := s.edge_time rest
  have hclock := State.applyStep_clock (s := s.edge rest) c
  rw [State.tick_step hu hs]
  exact ⟨hclock, (clock_reads hclock).2.2.2.trans ((State.stepped_frame c).2.2.trans hsteps), State.applyStep_set c⟩

/-- One of the clock's upper fields, as the last read of NOW_FRAC latched it. -/
theorem bar0Read_latched {t : State} {f a : Nat} {n : RName} {w : Word} (hok : okAddr a 4 = true) (hh : t.hidden f a = false)
    (hloc : locate a = some (n, 0, 0, false)) (hn : n = .nowNs ∨ n = .nowSecLo ∨ n = .nowSecHi)
    (hl : tget t.host.latch (fnKey f n 0 0) none = some w) : (t.bar0Read f a).host.readData = BitVec.ofNat 64 w.toNat := by
  have hread : t.bar0Read f a = t.latched f n 0 := by
    unfold State.bar0Read
    rw [if_neg (by rw [hok]; decide), if_neg (by rw [hh]; decide), hloc]
    rcases hn with rfl | rfl | rfl <;> rfl
  rw [hread]
  unfold State.latched
  rw [hl]
  rfl

theorem nowRead_latches (f : Nat) : tget (s.nowRead f).host.latch (fnKey f .nowNs 0 0) none = some (BitVec.ofNat 32 s.time.ns) ∧
    tget (s.nowRead f).host.latch (fnKey f .nowSecLo 0 0) none = some (BitVec.ofNat 32 s.time.sec.toNat) ∧
    tget (s.nowRead f).host.latch (fnKey f .nowSecHi 0 0) none = some (BitVec.ofNat 32 (s.time.sec.toNat / 2 ^ 32)) := by
  have hkey : ∀ m n : RName, regKey m 0 0 ≠ regKey n 0 0 → fnKey f m 0 0 ≠ fnKey f n 0 0 := fun m n h e => h (Nat.add_left_cancel e)
  have h1 := hkey .nowNs .nowSecLo (by decide)
  have h2 := hkey .nowNs .nowSecHi (by decide)
  have h3 := hkey .nowSecLo .nowSecHi (by decide)
  unfold State.nowRead State.setLatch
  dsimp only
  exact ⟨(tget_tset_ne _ _ _ _ h2).trans ((tget_tset_ne _ _ _ _ h1).trans (tget_tset_same _ _ _ _)),
    (tget_tset_ne _ _ _ _ h3).trans (tget_tset_same _ _ _ _), tget_tset_same _ _ _ _⟩

theorem clockAndSteps : Claims.ClockAndSteps := by
  unfold Claims.ClockAndSteps
  intro s f
  refine ⟨fun hns hu => ⟨fun hs => ⟨_, rfl, tick_advances hns hu hs⟩, fun sec ns frac rest hs hsec hns' hfrac => ?_, fun off rest hs => ?_⟩,
    ⟨_, rfl, rfl, rfl, .refl _ s, .refl _ s, rfl⟩, ⟨_, rfl, rfl, rfl, .refl _ s, .refl _ s, rfl⟩, ?_⟩
  · obtain ⟨hclock, hsteps, hset⟩ := tick_takes hu hs
    obtain ⟨hs1, hn1, hf1, -⟩ := clock_reads hclock
    obtain ⟨hs2, hn2, hf2⟩ := stepped_set_fields (s := s.edge rest) hsec hns' hfrac
    exact ⟨_, rfl, (congrArg BitVec.toNat hs1).trans hs2, hn1.trans hn2, (congrArg BitVec.toNat hf1).trans hf2, hsteps, hset⟩
  · obtain ⟨hclock, hsteps, hset⟩ := tick_takes hu hs
    obtain ⟨hptp, -, -⟩ := s.edge_reading rest
    obtain ⟨-, -, hfrac, -, -⟩ := s.edge_time rest
    refine ⟨_, rfl, hsteps, hset, fun hz => ?_, fun hz hlt => ?_⟩
    · exact (clockOf_of_clock hclock).trans (stepped_add_below (by rw [hptp]; exact hz))
    · have hread := stepped_add_clock (s := s.edge rest) (off := off) (by rw [hptp]; exact hz) (by rw [hptp]; exact hlt)
      rw [hptp, hfrac] at hread
      exact (congrArg Nat.cast (clockOf_of_clock hclock)).trans hread
  · obtain ⟨hns, hlo, hhi⟩ := nowRead_latches (s := s) f
    have hsec := s.time.sec.isLt
    refine ⟨_, rfl, rfl, rfl, .refl _ s, .refl _ s, fun hh => ⟨_, rfl, ?_⟩, fun hh => ⟨_, rfl, ?_⟩, fun hh => ⟨_, rfl, ?_⟩⟩
    · exact (bar0Read_latched (by decide) ((s.hidden_congr (t := s.nowRead f) rfl rfl _ _).trans hh) (by decide) (.inl rfl) hns).trans (by rw [BitVec.toNat_ofNat])
    · exact (bar0Read_latched (by decide) ((s.hidden_congr (t := s.nowRead f) rfl rfl _ _).trans hh) (by decide) (.inr (.inl rfl)) hlo).trans (by rw [BitVec.toNat_ofNat])
    · exact (bar0Read_latched (by decide) ((s.hidden_congr (t := s.nowRead f) rfl rfl _ _).trans hh) (by decide) (.inr (.inr rfl)) hhi).trans
        (by rw [BitVec.toNat_ofNat, Nat.mod_eq_of_lt (by omega)])

theorem trigStepped_armed_periodic {t : Trig} {w : Word} {old new : Nat} (harm : bits w.toNat 0 0 = 1) (h2 : t.mode = 2) :
    trigStepped t w old new = ({ t with next := firstFiring t.start t.period new }, if t.next < firstFiring t.start t.period new then
        BitVec.ofNat 32 (setBits w.toNat 31 16 (min 0xFFFF (bits w.toNat 31 16 + (firstFiring t.start t.period new - t.next) / t.period))) else w) :=
  (if_pos harm).trans (if_pos h2)

theorem trigStepped_one_shot {t : Trig} {w : Word} {old new : Nat} (harm : bits w.toNat 0 0 = 1) (h1 : t.mode = 1) (ho : old ≤ t.start)
    (hn : t.start < new) : trigStepped t w old new = ({ t with late := true }, w) :=
  (if_pos harm).trans ((if_neg (by rw [h1]; decide)).trans (if_pos ⟨h1, ho, hn⟩))

theorem trigStepped_disarmed {t : Trig} {w : Word} {old new : Nat} (harm : bits w.toNat 0 0 ≠ 1) : trigStepped t w old new = (t, w) := if_neg harm

/-- An edge that takes a step moves each trigger from its reading before the edge to the one after it. -/
theorem tick_trig {c : ClkStep} {rest : List ClkStep} (hu : s.unusableBlk 5 = false) (hs : s.time.steps = c :: rest) {k : Nat} (hk : k < 16) :
    (s.tick.trig k, s.tick.rd .trigStatus k) = trigStepped (s.trig k) (s.rd .trigStatus k) s.ptpCeil s.tick.ptpCeil := by
  obtain ⟨hclock, -, -⟩ := tick_takes hu hs
  obtain ⟨-, -, -, -, htrigs⟩ := s.edge_time rest
  obtain ⟨-, hceil, -⟩ := s.edge_reading rest
  obtain ⟨hft, hfr, -⟩ := State.stepped_frame (s := s.edge rest) c
  have htrig : ((s.edge rest).stepped c).trig k = s.trig k := congrArg (fun l : Tab Trig => tget l k {}) (hft.trans htrigs)
  have hword : ((s.edge rest).stepped c).rd .trigStatus k = s.rd .trigStatus k := by
    rw [← s.edge_rd rest (n := .trigStatus) k 0 (by decide)]
    unfold State.rd
    rw [hfr]
  rw [ptpCeil_of_clock hclock, State.tick_step hu hs, State.applyStep_trig c hk, htrig, hword, hceil]

/-- The fields of a status word in which a step has counted the firing times passed over. -/
theorem skipped_fields {v w : Word} {c : Prop} [Decidable c] {d : Nat}
    (h : v = if c then BitVec.ofNat 32 (setBits w.toNat 31 16 (min 0xFFFF (bits w.toNat 31 16 + d))) else w) :
    bits v.toNat 31 16 = (if c then min 0xFFFF (bits w.toNat 31 16 + d) else bits w.toNat 31 16) ∧ bits v.toNat 15 2 = bits w.toNat 15 2 ∧
      bits v.toNat 0 0 = bits w.toNat 0 0 := by
  subst h
  split
  · rw [BitVec.toNat_ofNat, Nat.mod_eq_of_lt (setBits_lt _ _ _ _ _ (by decide) (by decide) w.isLt), bits_setBits_same _ _ _ _ (by decide),
      bits_setBits_apart _ _ _ _ _ _ (by decide) (by decide), bits_setBits_apart _ _ _ _ _ _ (by decide) (by decide)]
    exact ⟨Nat.mod_eq_of_lt (by omega), rfl, rfl⟩
  · exact ⟨rfl, rfl, rfl⟩

theorem stepsAndTriggers : Claims.StepsAndTriggers := by
  unfold Claims.StepsAndTriggers
  intro s k c rest hs hu
  have hpair := tick_trig hu hs k.isLt
  obtain ⟨v, hv⟩ : ∃ v, v = s.tick := ⟨_, rfl⟩
  rw [← hv] at hpair
  have htrig := congrArg Prod.fst hpair
  have hword := congrArg Prod.snd hpair
  refine ⟨_, congrArg Host.Outcome.next hv.symm, fun harm => ?_, fun harm h2 hp => ?_, fun harm h1 ho hn => ?_⟩
  · have harm' : bits (s.rd .trigStatus k).toNat 0 0 ≠ 1 := of_decide_eq_false harm
    rw [trigStepped_disarmed harm'] at htrig hword
    exact ⟨htrig, hword⟩
  · have harm' : bits (s.rd .trigStatus k).toNat 0 0 = 1 := of_decide_eq_true harm
    rw [trigStepped_armed_periodic harm' h2] at htrig hword
    dsimp only at htrig hword ⊢
    have hnext : (v.trig k).next = firstFiring (s.trig k).start (s.trig k).period v.ptpCeil := congrArg Trig.next htrig
    obtain ⟨hskip, hfired, harmed⟩ := skipped_fields hword
    rw [hnext]
    refine ⟨(congrArg Trig.mode htrig).trans h2, by rw [htrig], by rw [htrig], firstFiring_multiple _ _ _,
      (ptpCeil_le_iff v _).mp (le_firstFiring _ _ hp), fun hne => (lt_ptpCeil_iff v _).mp (firstFiring_first hp hne), hskip, hfired,
      decide_eq_true (harmed.trans harm')⟩
  · have harm' : bits (s.rd .trigStatus k).toNat 0 0 = 1 := of_decide_eq_true harm
    rw [trigStepped_one_shot harm' h1 ((ptpCeil_le_iff s _).mpr ho) ((lt_ptpCeil_iff v _).mpr hn)] at htrig hword
    refine ⟨congrArg Trig.late htrig, decide_eq_true ?_⟩
    unfold State.fget
    exact (congrArg (fun w : Word => bits w.toNat 0 0) hword).trans harm'

end

/-- Settles O43: an edge is its counted cycle and then the clock's increment or its oldest step, which moves each trigger on its own. -/
theorem clockStepsAndTriggers : Obligations.ClockStepsAndTriggers := by
  unfold Obligations.ClockStepsAndTriggers
  exact ⟨clockAndSteps, stepsAndTriggers⟩

end Sys2Proof.Machine
end

section
/-!
PROOF. Arming, firing and disarming triggers, and what their consumers do (R436, R437, R439, R440).
-/

set_option Elab.async false
set_option exponentiation.threshold 4096
set_option maxRecDepth 20000

namespace Sys2Proof.Machine

section
variable (s : State) (k : Nat)

/-! ## The trigger's own part of a firing -/

/-- The firing is counted, and a late one-shot marked. -/
def State.firingCounted (s : State) (k : Nat) : State :=
  if (s.trig k).late then (s.fset F.trigStatus_FIRED (s.fget F.trigStatus_FIRED k + 1) k).fset F.trigStatus_LATE 1 k
  else s.fset F.trigStatus_FIRED (s.fget F.trigStatus_FIRED k + 1) k

/-- The trigger after a firing: a one-shot disarms, another names its next firing time. -/
def State.firedOnce (s : State) (k : Nat) : State :=
  if (s.trig k).mode = 1 then ((s.firingCounted k).fset F.trigStatus_ARMED 0 k).setTrig k { s.trig k with late := false }
  else (s.firingCounted k).setTrig k { s.trig k with next := (s.trig k).next + (s.trig k).period }

/-! ## The consumers -/

def State.epochFire (s : State) (k : Nat) : State := if s.flag F.epochCfg_EN ∧ s.fget F.epochCfg_TRIG = k then s.epochEdge else s
def State.socFire (s : State) (k : Nat) : State := if s.flag F.socCfg_EN ∧ s.fget F.socCfg_TRIG = k then s.socStart else s
def State.ppsFire (s : State) (k : Nat) : State := if s.flag F.ppsCfg_EN ∧ s.fget F.ppsCfg_TRIG = k then s.ppsRise else s

/-- The time a firing is taken at. -/
def State.firingTime (s : State) (k : Nat) : Nat := if (s.trig k).late then s.ptpNs else (s.trig k).next

theorem State.fire_eq : s.fire k = (((((((s.firedOnce k).gateTrigger k (s.firingTime k)).epochFire k).bistFiring k).socFire k).ppsFire k).zenFiring k
    (s.firingTime k) (s.trig k)).dmaPulse k := rfl

theorem State.firingCounted_time : (s.firingCounted k).time = s.time := by
  unfold State.firingCounted
  split
  · rw [State.fset_time, State.fset_time]
  · rw [State.fset_time]

theorem State.firedOnce_time : ∃ t, (s.firedOnce k).time = { s.time with trigs := tset s.time.trigs k {} t } ∧
    ((s.trig k).mode = 2 → t.next = (s.trig k).next + (s.trig k).period) := by
  unfold State.firedOnce
  split
  · next h =>
    refine ⟨{ s.trig k with late := false }, ?_, fun h2 => absurd (h.symm.trans h2) (by decide)⟩
    unfold State.setTrig
    dsimp only
    rw [State.fset_time, State.firingCounted_time]
  · refine ⟨{ s.trig k with next := (s.trig k).next + (s.trig k).period }, ?_, fun _ => rfl⟩
    unfold State.setTrig
    dsimp only
    rw [State.firingCounted_time]

section
variable {s : State} {k : Nat} {L : Touch} {s0 : State}

theorem State.firingCounted_keeps (h : Keeps L s0 s) (hr : L.r32 = true) (hn : L.has .trigStatus = true) : Keeps L s0 (s.firingCounted k) := by
  have hcount := State.fset_keeps h F.trigStatus_FIRED (s.fget F.trigStatus_FIRED k + 1) k 0 hr hn
  exact keeps_ite (State.fset_keeps hcount F.trigStatus_LATE 1 k 0 hr hn) hcount

/-- A trigger's own part of a firing writes its status word and its record only. -/
theorem State.firedOnce_keeps (h : Keeps L s0 s) (hr : L.r32 = true) (ht : L.time = true) (hn : L.has .trigStatus = true) :
    Keeps L s0 (s.firedOnce k) :=
  keeps_ite (State.setTrig_keeps (State.fset_keeps (State.firingCounted_keeps h hr hn) F.trigStatus_ARMED 0 k 0 hr hn) _ _ ht)
    (State.setTrig_keeps (State.firingCounted_keeps h hr hn) _ _ ht)
end

theorem State.firingCounted_fired : (s.firingCounted k).fget F.trigStatus_FIRED k = (s.fget F.trigStatus_FIRED k + 1) % 2 ^ 14 := by
  unfold State.firingCounted
  split
  · rw [fget_fset_off _ _ _ _ _ _ (by decide) (by decide) fun _ => .inl (by decide)]
    exact fget_fset_same _ F.trigStatus_FIRED _ _ _ (by decide) (by decide)
  · exact fget_fset_same _ F.trigStatus_FIRED _ _ _ (by decide) (by decide)

theorem State.firingCounted_armed : (s.firingCounted k).flag F.trigStatus_ARMED k = s.flag F.trigStatus_ARMED k := by
  unfold State.firingCounted State.flag
  split
  · rw [fget_fset_off _ _ _ _ _ _ (by decide) (by decide) fun _ => .inr (by decide), fget_fset_off _ _ _ _ _ _ (by decide) (by decide) fun _ => .inr (by decide)]
  · rw [fget_fset_off _ _ _ _ _ _ (by decide) (by decide) fun _ => .inr (by decide)]

theorem State.firingCounted_late : (s.firingCounted k).flag F.trigStatus_LATE k = (s.flag F.trigStatus_LATE k || (s.trig k).late) := by
  unfold State.firingCounted
  split
  · next h => rw [h, Bool.or_true, flag_fset_one _ F.trigStatus_LATE _ _ rfl (by decide)]
  · next h =>
    rw [Bool.not_eq_true _ |>.mp h, Bool.or_false]
    unfold State.flag
    rw [fget_fset_off _ _ _ _ _ _ (by decide) (by decide) fun _ => .inr (by decide)]

theorem State.firedOnce_fired : (s.firedOnce k).fget F.trigStatus_FIRED k = (s.fget F.trigStatus_FIRED k + 1) % 2 ^ 14 := by
  have hoff : ((s.firingCounted k).fset F.trigStatus_ARMED 0 k).fget F.trigStatus_FIRED k = (s.firingCounted k).fget F.trigStatus_FIRED k :=
    fget_fset_off _ _ _ _ _ _ (by decide) (by decide) fun _ => .inl (by decide)
  unfold State.firedOnce
  split
  · rw [State.setTrig_fget, hoff, s.firingCounted_fired]
  · rw [State.setTrig_fget, s.firingCounted_fired]

theorem State.firedOnce_one_shot (h : (s.trig k).mode = 1) : (s.firedOnce k).flag F.trigStatus_ARMED k = false ∧
    (s.firedOnce k).flag F.trigStatus_LATE k = (s.flag F.trigStatus_LATE k || (s.trig k).late) := by
  unfold State.firedOnce
  rw [if_pos h, State.setTrig_flag, State.setTrig_flag]
  have hoff : ((s.firingCounted k).fset F.trigStatus_ARMED 0 k).flag F.trigStatus_LATE k = (s.firingCounted k).flag F.trigStatus_LATE k := by
    unfold State.flag
    rw [fget_fset_off _ _ _ _ _ _ (by decide) (by decide) fun _ => .inl (by decide)]
  exact ⟨flag_fset_none _ F.trigStatus_ARMED k 0 rfl (by decide), hoff.trans (s.firingCounted_late k)⟩

theorem State.firedOnce_periodic (h : (s.trig k).mode ≠ 1) : (s.firedOnce k).flag F.trigStatus_ARMED k = s.flag F.trigStatus_ARMED k := by
  unfold State.firedOnce
  rw [if_neg h]
  exact s.firingCounted_armed k

/-! ## The consumers' part (R439) -/

/-- The consumers ahead of the converters. -/
def State.fireQueues (s : State) (k t : Nat) : State := ((s.gateTrigger k t).epochFire k).bistFiring k

theorem State.fire_queues : s.fire k =
    (((((s.firedOnce k).fireQueues k (s.firingTime k)).socFire k).ppsFire k).zenFiring k (s.firingTime k) (s.trig k)).dmaPulse k := rfl

/-- What the consumers ahead of the converters leave of the other consumers' registers. -/
theorem State.fireQueues_regs (t : Nat) : Keeps (.avoid [.ppsCfg, .socCfg, .socStatus]) s ((s.firedOnce k).fireQueues k t) := by
  have hown : Keeps (.avoid [.ppsCfg, .socCfg, .socStatus]) s (s.firedOnce k) := State.firedOnce_keeps (.rfl' _ s) rfl rfl rfl
  exact State.bistFiring_keeps (keeps_ite (State.epochEdge_keeps (State.gateTrigger_keeps hown k t)) (State.gateTrigger_keeps hown k t)) k

theorem State.fireQueues_time (t : Nat) : (s.fireQueues k t).time = s.time :=
  Keeps.time (State.bistFiring_keeps (keeps_ite (State.epochEdge_keeps (State.gateTrigger_keeps (.rfl' .butTime s) k t))
    (State.gateTrigger_keeps (.rfl' .butTime s) k t)) k) rfl

theorem State.fireQueues_zen (t : Nat) : (s.fireQueues k t).zen = s.zen :=
  Keeps.zen (State.bistFiring_keeps (keeps_ite (State.epochEdge_keeps (State.gateTrigger_keeps (.rfl' .butZen s) k t))
    (State.gateTrigger_keeps (.rfl' .butZen s) k t)) k) rfl

theorem State.epochPosted (v : State) (code old : Nat) :
    (if (v.post 0x0501 code).flag F.histCfg_EXPORT then ((v.post 0x0501 code).histExports old).histClear else v.post 0x0501 code).rdw .epochNum =
      v.rdw .epochNum :=
  Keeps.rdw (keeps_ite (State.histClear_keeps (State.histExports_keeps (State.post_keeps (.rfl' (.avoid [.epochNum]) v) 0x0501 code) old))
    (State.post_keeps (.rfl' _ v) 0x0501 code)) .epochNum 0 0 rfl

/-- The snapshot that an epoch's edge takes of the counters. -/
def State.snapTaken (s : State) : State :=
  let s1 := (s.clearArr .snapVal).clearArr .snapOvf
  let s2 := s1.each (listedOf s.r64 .pcVal) (fun e s => s.wrw .snapVal e.2 (e.1 / 65536) (e.1 % 65536))
  s2.each (listedOf s.r32 .pcOvf) (fun e s => s.wr .snapOvf e.2 (e.1 / 65536) (e.1 % 65536))

theorem State.snapTaken_epoch : s.snapTaken.rdw .epochNum = s.rdw .epochNum := by
  unfold State.snapTaken
  dsimp only
  refine (State.each_view (fun u : State => u.rdw .epochNum) fun e u => rdw_wr u .snapOvf .epochNum _ _ _ 0 0).trans ?_
  refine (State.each_view (fun u : State => u.rdw .epochNum) fun e u => rdw_wrw_reg _ _ _ _ _ _ (by decide)).trans ?_
  exact (State.clearArr_keeps (State.clearArr_keeps (.rfl' (.avoid [.epochNum]) s) .snapVal) .snapOvf).rdw .epochNum 0 0 rfl

theorem State.epochEdge_count : s.epochEdge.rdw .epochNum = s.rdw .epochNum + 1#64 := by
  obtain ⟨code, hcode⟩ : ∃ code, s.epochEdge = if ((s.snapTaken.bump .epochNum).post 0x0501 code).flag F.histCfg_EXPORT then
      (((s.snapTaken.bump .epochNum).post 0x0501 code).histExports (s.rdw .epochNum).toNat).histClear
    else (s.snapTaken.bump .epochNum).post 0x0501 code := ⟨_, rfl⟩
  have hcount : (s.snapTaken.bump .epochNum).rdw .epochNum = s.rdw .epochNum + 1#64 := by
    rw [rdw_bump_same, s.snapTaken_epoch]
  obtain ⟨v, hv⟩ : ∃ v, v = s.snapTaken.bump .epochNum := ⟨_, rfl⟩
  rw [← hv] at hcode hcount
  rw [hcode, ← hcount]
  exact State.epochPosted v _ _

theorem State.epochFire_count (h : s.flag F.epochCfg_EN = true ∧ s.fget F.epochCfg_TRIG = k) : (s.epochFire k).rdw .epochNum = s.rdw .epochNum + 1#64 :=
  (congrArg (State.rdw · .epochNum 0 0) (if_pos h)).trans s.epochEdge_count

theorem State.epochFire_unnamed (h : ¬(s.flag F.epochCfg_EN = true ∧ s.fget F.epochCfg_TRIG = k)) : s.epochFire k = s := if_neg h

theorem State.fireQueues_epoch (t : Nat) : (s.fireQueues k t).rdw .epochNum = ((s.gateTrigger k t).epochFire k).rdw .epochNum :=
  (State.bistFiring_keeps (.rfl' (.avoid [.epochNum]) ((s.gateTrigger k t).epochFire k)) k).rdw .epochNum 0 0 rfl

theorem State.gateTrigger_epoch (t : Nat) : Keeps (.avoid [.epochNum, .epochCfg]) s (s.gateTrigger k t) := State.gateTrigger_keeps (.rfl' _ s) k t

theorem State.firedOnce_regs : Keeps (.onRegs [.trigStatus]) s (s.firedOnce k) := State.firedOnce_keeps (.rfl' _ s) rfl rfl rfl

/-- What the consumers behind the BIST engines leave: they write SOC_STATUS, PPS_OUT, Zenith's edges and the DMA lines. -/
theorem State.fireLast_keeps {L : Touch} {s0 : State} (t : Nat) (x : Trig) (h : Keeps L s0 s) (hr : L.r32 = true) (ht : L.time = true) (hz : L.zen = true)
    (hd : L.dma = true) (hn : L.has .socStatus = true) : Keeps L s0 ((((s.socFire k).ppsFire k).zenFiring k t x).dmaPulse k) := by
  have hsoc : Keeps L s0 (s.socFire k) := keeps_ite (State.fset_keeps h F.socStatus_BUSY 1 0 0 hr hn) h
  exact State.dmaPulse_keeps (State.zenFiring_keeps (keeps_ite (State.ppsRise_keeps hsoc ht) hsoc) k t x hz) k hd

theorem State.fireAfterSoc (t : Nat) (x : Trig) : Keeps (.avoid [.socStatus]) s (((s.ppsFire k).zenFiring k t x).dmaPulse k) :=
  State.dmaPulse_keeps (State.zenFiring_keeps (keeps_ite (State.ppsRise_keeps (.rfl' _ s)) (.rfl' _ s)) k t x) k

theorem State.fire_status : Keeps (.avoid [.trigStatus]) (s.firedOnce k) (s.fire k) := by
  rw [s.fire_queues]
  have hq : Keeps (.avoid [.trigStatus]) (s.firedOnce k) ((s.firedOnce k).fireQueues k (s.firingTime k)) :=
    State.bistFiring_keeps (keeps_ite (State.epochEdge_keeps (State.gateTrigger_keeps (.rfl' _ _) k _)) (State.gateTrigger_keeps (.rfl' _ _) k _)) k
  exact State.fireLast_keeps _ k _ _ hq rfl rfl rfl rfl rfl

theorem State.socFire_named (h : s.flag F.socCfg_EN = true ∧ s.fget F.socCfg_TRIG = k) : s.socFire k = s.fset F.socStatus_BUSY 1 := if_pos h
theorem State.socFire_unnamed (h : ¬(s.flag F.socCfg_EN = true ∧ s.fget F.socCfg_TRIG = k)) : s.socFire k = s := if_neg h

theorem State.socFire_ppsCfg (F' : Fld) (h : F'.reg = .ppsCfg) : (s.socFire k).fget F' = s.fget F' :=
  (keeps_ite (c := s.flag F.socCfg_EN = true ∧ s.fget F.socCfg_TRIG = k) (State.fset_keeps (.rfl' (.avoid [.ppsCfg]) s) F.socStatus_BUSY 1 0 0 rfl rfl)
    (.rfl' _ s)).fget F' 0 0 (by rw [h]; rfl)

theorem State.socFire_time : (s.socFire k).time = s.time := by
  by_cases h : s.flag F.socCfg_EN = true ∧ s.fget F.socCfg_TRIG = k
  · rw [s.socFire_named k h, State.fset_time]
  · rw [s.socFire_unnamed k h]

/-- The time unit behind the pulse, the edge link and the request lines. -/
theorem State.firePulse_time (t : Nat) (x : Trig) : ∃ v, (((s.ppsFire k).zenFiring k t x).dmaPulse k).time =
    if s.flag F.ppsCfg_EN = true ∧ s.fget F.ppsCfg_TRIG = k then { s.time with pps := true, ppsNs := v } else s.time := by
  refine ⟨s.ppsWidthNs, (Keeps.time (State.dmaPulse_keeps (State.zenFiring_keeps (.rfl' .butTime (s.ppsFire k)) k t x) k) rfl).trans ?_⟩
  unfold State.ppsFire
  by_cases h : s.flag F.ppsCfg_EN = true ∧ s.fget F.ppsCfg_TRIG = k
  · rw [if_pos h, if_pos h]
    rfl
  · rw [if_neg h, if_neg h]

/-- The time unit after a firing: the trigger's record, and the pulse that starts where PPS_OUT names the trigger. -/
theorem State.fire_time : ∃ v, (s.fire k).time = if s.flag F.ppsCfg_EN = true ∧ s.fget F.ppsCfg_TRIG = k then
    { (s.firedOnce k).time with pps := true, ppsNs := v } else (s.firedOnce k).time := by
  obtain ⟨q, hq⟩ : ∃ q, q = (s.firedOnce k).fireQueues k (s.firingTime k) := ⟨_, rfl⟩
  have hregs : Keeps (.avoid [.ppsCfg, .socCfg, .socStatus]) s q := hq ▸ s.fireQueues_regs k _
  have htime : (q.socFire k).time = (s.firedOnce k).time := by
    rw [State.socFire_time, hq, State.fireQueues_time]
  have hpps : ∀ F' : Fld, F'.reg = .ppsCfg → (q.socFire k).fget F' = s.fget F' := fun F' h =>
    (q.socFire_ppsCfg k F' h).trans (hregs.fget F' 0 0 (by rw [h]; rfl))
  obtain ⟨v, hv⟩ := (q.socFire k).firePulse_time k (s.firingTime k) (s.trig k)
  rw [htime, State.flag, hpps F.ppsCfg_EN rfl, hpps F.ppsCfg_TRIG rfl] at hv
  rw [s.fire_queues, ← hq]
  exact ⟨v, hv⟩

theorem State.fire_soc_named (h : s.flag F.socCfg_EN = true ∧ s.fget F.socCfg_TRIG = k) : (s.fire k).flag F.socStatus_BUSY = true := by
  obtain ⟨q, hq⟩ : ∃ q, q = (s.firedOnce k).fireQueues k (s.firingTime k) := ⟨_, rfl⟩
  have hregs : Keeps (.avoid [.ppsCfg, .socCfg, .socStatus]) s q := hq ▸ s.fireQueues_regs k _
  have hnamed : q.flag F.socCfg_EN = true ∧ q.fget F.socCfg_TRIG = k := by
    rw [hregs.flag F.socCfg_EN 0 0 rfl, hregs.fget F.socCfg_TRIG 0 0 rfl]
    exact h
  have hlast := (q.socFire k).fireAfterSoc k (s.firingTime k) (s.trig k)
  rw [s.fire_queues, ← hq, hlast.flag F.socStatus_BUSY 0 0 rfl, q.socFire_named k hnamed]
  exact flag_fset_one q F.socStatus_BUSY 0 0 rfl (by decide)

theorem State.fire_soc_unnamed (h : ¬(s.flag F.socCfg_EN = true ∧ s.fget F.socCfg_TRIG = k)) : (s.fire k).rd .socStatus = s.rd .socStatus := by
  obtain ⟨q, hq⟩ : ∃ q, q = (s.firedOnce k).fireQueues k (s.firingTime k) := ⟨_, rfl⟩
  have hregs : Keeps (.avoid [.ppsCfg, .socCfg, .socStatus]) s q := hq ▸ s.fireQueues_regs k _
  have hnamed : ¬(q.flag F.socCfg_EN = true ∧ q.fget F.socCfg_TRIG = k) := by
    rw [hregs.flag F.socCfg_EN 0 0 rfl, hregs.fget F.socCfg_TRIG 0 0 rfl]
    exact h
  have hlast := (q.socFire k).fireAfterSoc k (s.firingTime k) (s.trig k)
  rw [s.fire_queues, ← hq, hlast.rd .socStatus 0 0 rfl, q.socFire_unnamed k hnamed, hregs.rd .socStatus 0 0 rfl]

/-- The epochs' counter is as the edge of the epochs leaves it. -/
theorem State.fire_epoch : (s.fire k).rdw .epochNum = (((s.firedOnce k).gateTrigger k (s.firingTime k)).epochFire k).rdw .epochNum := by
  rw [s.fire_queues, (State.fireLast_keeps _ k _ _ (.rfl' (.avoid [.epochNum]) _) rfl rfl rfl rfl rfl).rdw .epochNum 0 0 rfl, State.fireQueues_epoch]

theorem State.gate_epoch (t : Nat) : Keeps (.avoid [.epochNum, .epochCfg]) s ((s.firedOnce k).gateTrigger k t) :=
  State.gateTrigger_keeps (State.firedOnce_keeps (.rfl' _ s) rfl rfl rfl) k t

theorem State.fire_epoch_named (h : s.flag F.epochCfg_EN = true ∧ s.fget F.epochCfg_TRIG = k) : (s.fire k).rdw .epochNum = s.rdw .epochNum + 1#64 := by
  have hgate := s.gate_epoch k (s.firingTime k)
  rw [s.fire_epoch, State.epochFire_count, hgate.rdw .epochNum 0 0 rfl]
  rw [hgate.flag F.epochCfg_EN 0 0 rfl, hgate.fget F.epochCfg_TRIG 0 0 rfl]
  exact h

theorem State.fire_epoch_unnamed (h : ¬(s.flag F.epochCfg_EN = true ∧ s.fget F.epochCfg_TRIG = k)) : (s.fire k).rdw .epochNum = s.rdw .epochNum := by
  have hgate := s.gate_epoch k (s.firingTime k)
  rw [s.fire_epoch, State.epochFire_unnamed, hgate.rdw .epochNum 0 0 rfl]
  rw [hgate.flag F.epochCfg_EN 0 0 rfl, hgate.fget F.epochCfg_TRIG 0 0 rfl]
  exact h

/-! ## Zenith's edge link and the request lines -/

theorem State.zenFiring_edge (t : Nat) (x : Trig) (h : s.zen.present = true ∧ s.zen.cfg % 16 = k) :
    (s.zenFiring k t x).zen.edges.length = s.zen.edges.length + 1 :=
  (congrArg (fun u : State => u.zen.edges.length) (if_pos h)).trans (List.length_append ..)

theorem State.zenFiring_unnamed (t : Nat) (x : Trig) (h : ¬(s.zen.present = true ∧ s.zen.cfg % 16 = k)) : s.zenFiring k t x = s := if_neg h

theorem State.fire_zen : (s.fire k).zen = (State.zenFiring ((((s.firedOnce k).fireQueues k (s.firingTime k)).socFire k).ppsFire k) k (s.firingTime k)
    (s.trig k)).zen := by
  rw [s.fire_queues]
  exact Keeps.zen (State.dmaPulse_keeps (.rfl' .butZen _) k) rfl

theorem State.firedQueues_zen (t : Nat) : ((((s.firedOnce k).fireQueues k t).socFire k).ppsFire k).zen = s.zen := by
  have hown : (s.firedOnce k).zen = s.zen := Keeps.zen (State.firedOnce_keeps (.rfl' .butZen s) rfl rfl rfl) rfl
  have hsoc : ∀ u : State, ((u.socFire k).ppsFire k).zen = u.zen := fun u =>
    Keeps.zen (keeps_ite (State.ppsRise_keeps (keeps_ite (State.socStart_keeps (.rfl' .butZen u)) (.rfl' _ u)))
      (keeps_ite (State.socStart_keeps (.rfl' .butZen u)) (.rfl' _ u))) rfl
  rw [hsoc, State.fireQueues_zen, hown]

theorem State.fire_line {n : Nat} (hn : n < 32) (hk : k < 16) : (s.fire k).dmaLine n k = true := by
  unfold State.dmaLine
  rw [if_neg (by omega), if_neg (by omega), if_neg (by omega), if_neg (by omega), s.fire_queues]
  exact State.dmaPulse_line _ hn (by omega)

/-! ## Arming and disarming (R437) -/

/-- A trigger as ARM latches it. -/
def State.armedTrig (s : State) (k m : Nat) : Trig :=
  let mode := if m = 3 then 0 else m
  let start := (s.rdw .startSec k).toNat % 2 ^ 48 * 1000000000 + (s.rd .startNs k).toNat % 2 ^ 30
  let period := max 1000 (min 1000000000 (s.fget F.periodNs_PERIOD k))
  ⟨mode, start, period, if mode = 2 then firstFiring start period s.ptpCeil else start, decide (mode = 1) && decide (start < s.ptpCeil)⟩

/-- The registers of an armed trigger. -/
def State.armedRegs (s : State) (k m : Nat) (t : Trig) : State :=
  (((((s.fset F.trigCtl_MODE m k).fset F.trigCtl_ARM 1 k).setTrig k t).fset F.trigStatus_ARMED 1 k).fset F.trigStatus_FIRED 0 k).fset
    F.trigStatus_SKIPPED 0 k

theorem trigCtl_arm : ∀ m : Fin 4, bitAt (BitVec.ofNat 32 (4 + m.val)).toNat 2 = true ∧ bits (BitVec.ofNat 32 (4 + m.val)).toNat 1 0 = m.val := by
  decide

theorem trigCtl_disarm : ∀ m : Fin 4, bitAt (BitVec.ofNat 32 m.val).toNat 2 = false := by
  decide

theorem State.trigWrite_arm (m : Fin 4) : s.trigWrite k (BitVec.ofNat 32 (4 + m.val)) = s.armedRegs k m (s.armedTrig k m) := by
  obtain ⟨harm, hmode⟩ := trigCtl_arm m
  unfold State.trigWrite
  dsimp only
  rw [if_pos harm, hmode]
  rfl

theorem State.armedRegs_status (m : Nat) (t : Trig) : (s.armedRegs k m t).flag F.trigStatus_ARMED k = true ∧
    (s.armedRegs k m t).fget F.trigStatus_FIRED k = 0 ∧ (s.armedRegs k m t).fget F.trigStatus_SKIPPED k = 0 ∧
    (s.armedRegs k m t).flag F.trigStatus_LATE k = s.flag F.trigStatus_LATE k := by
  obtain ⟨u, hu⟩ : ∃ u, u = ((s.fset F.trigCtl_MODE m k).fset F.trigCtl_ARM 1 k).setTrig k t := ⟨_, rfl⟩
  have hlate : u.flag F.trigStatus_LATE k = s.flag F.trigStatus_LATE k := by
    rw [hu, State.setTrig_flag]
    unfold State.flag
    rw [fget_fset_reg _ _ _ _ _ _ (by decide), fget_fset_reg _ _ _ _ _ _ (by decide)]
  have hregs : s.armedRegs k m t = ((u.fset F.trigStatus_ARMED 1 k).fset F.trigStatus_FIRED 0 k).fset F.trigStatus_SKIPPED 0 k := by
    rw [hu]
    rfl
  rw [hregs, ← hlate]
  unfold State.flag
  rw [fget_fset_same _ F.trigStatus_SKIPPED _ _ _ (by decide) (by decide), fget_fset_off _ _ _ _ _ _ (by decide) (by decide) fun _ => .inr (by decide),
    fget_fset_off _ _ _ _ _ _ (by decide) (by decide) fun _ => .inr (by decide), fget_fset_same _ F.trigStatus_ARMED _ _ _ (by decide) (by decide),
    fget_fset_off _ _ _ _ _ _ (by decide) (by decide) fun _ => .inr (by decide), fget_fset_same _ F.trigStatus_FIRED _ _ _ (by decide) (by decide),
    fget_fset_off _ _ _ _ _ _ (by decide) (by decide) fun _ => .inr (by decide), fget_fset_off _ _ _ _ _ _ (by decide) (by decide) fun _ => .inr (by decide),
    fget_fset_off _ _ _ _ _ _ (by decide) (by decide) fun _ => .inl (by decide)]
  exact ⟨rfl, rfl, rfl, rfl⟩

theorem State.armedRegs_frame (m : Nat) (t : Trig) : OnlyRegs [.trigCtl, .trigStatus] s (s.armedRegs k m t) ∧ OnlyWide [] s (s.armedRegs k m t) ∧
    (s.armedRegs k m t).time = { s.time with trigs := tset s.time.trigs k {} t } ∧ (s.armedRegs k m t).host = s.host := by
  obtain ⟨u, hu⟩ : ∃ u, u = (s.fset F.trigCtl_MODE m k).fset F.trigCtl_ARM 1 k := ⟨_, rfl⟩
  have hur : OnlyRegs [.trigCtl, .trigStatus] s u := by
    rw [hu]
    exact ((OnlyRegs.refl _ s).fset m k 0 (f := F.trigCtl_MODE) (by decide)).fset 1 k 0 (f := F.trigCtl_ARM) (by decide)
  have huw : OnlyWide [] s u := by
    rw [hu]
    exact ((OnlyWide.refl _ s).fset F.trigCtl_MODE m k 0).fset F.trigCtl_ARM 1 k 0
  have hut : u.time = s.time := by rw [hu, State.fset_time, State.fset_time]
  have huh : u.host = s.host := by rw [hu, State.fset_host, State.fset_host]
  have hsr : OnlyRegs [.trigCtl, .trigStatus] s (u.setTrig k t) := fun n i j hn => hur n i j hn
  have hsw : OnlyWide [] s (u.setTrig k t) := fun n i j hn => huw n i j hn
  have hregs : s.armedRegs k m t = (((u.setTrig k t).fset F.trigStatus_ARMED 1 k).fset F.trigStatus_FIRED 0 k).fset F.trigStatus_SKIPPED 0 k := by
    rw [hu]
    rfl
  rw [hregs]
  refine ⟨((hsr.fset 1 k 0 (f := F.trigStatus_ARMED) (by decide)).fset 0 k 0 (f := F.trigStatus_FIRED) (by decide)).fset 0 k 0
    (f := F.trigStatus_SKIPPED) (by decide), ((hsw.fset F.trigStatus_ARMED 1 k 0).fset F.trigStatus_FIRED 0 k 0).fset F.trigStatus_SKIPPED 0 k 0, ?_, ?_⟩
  · rw [State.fset_time, State.fset_time, State.fset_time]
    unfold State.setTrig
    dsimp only
    rw [hut]
  · rw [State.fset_host, State.fset_host, State.fset_host, State.setTrig_host, huh]

theorem State.trigWrite_disarm : s.trigWrite k (BitVec.ofNat 32 (s.fget F.trigCtl_MODE k)) =
    ((((if s.trigDue k then s.fire k else s).fset F.trigCtl_MODE (bits (BitVec.ofNat 32 (s.fget F.trigCtl_MODE k)).toNat 1 0) k).fset F.trigCtl_ARM 0 k).fset
      F.trigStatus_ARMED 0 k) := by
  have hmode : s.fget F.trigCtl_MODE k < 4 := Nat.mod_lt _ (by decide)
  exact if_neg (by rw [trigCtl_disarm ⟨_, hmode⟩]; decide)

theorem State.trigDue_iff : s.trigDue k = true ↔ s.flag F.trigStatus_ARMED k = true ∧ s.unusableBlk 5 = false ∧
    ((s.trig k).mode = 1 ∨ (s.trig k).mode = 2) ∧ ((s.trig k).late = true ∨ (s.trig k).next * 2 ^ 32 ≤ clockOf s) := by
  have hnext : (s.trig k).next ≤ s.ptpNs ↔ (s.trig k).next * 2 ^ 32 ≤ clockOf s := by
    have hfrac := s.time.frac.isLt
    rw [clockOf_eq]
    omega
  unfold State.trigDue
  simp only [Bool.and_eq_true, Bool.or_eq_true, decide_eq_true_eq, Bool.not_eq_true', hnext, and_assoc]

/-! ## The clauses -/

theorem State.trig_of_tset {u : State} {t : Trig} {x : TimeSt} (h : u.time = { x with trigs := tset s.time.trigs k {} t }) :
    u.trig k = t ∧ ∀ j, j ≠ k → u.trig j = s.trig j := by
  unfold State.trig
  rw [h]
  exact ⟨tget_tset_same _ _ _ _, fun j hj => tget_tset_ne _ _ _ _ hj⟩

theorem clockOf_of_time {u : State} {x : Tab Trig} (h : u.time = { s.time with trigs := x }) : clockOf u = clockOf s := by
  unfold clockOf
  rw [h]

/-- A trigger as armed: where it fires next and whether late. -/
theorem State.armedTrig_next (m : Fin 4) :
    (s.armedTrig k m).mode = (if m = 3 then 0 else m.val) ∧
    (m.val = 1 → (s.armedTrig k m).next = (s.armedTrig k m).start ∧
      ((s.armedTrig k m).late = true ↔ (s.armedTrig k m).start * 2 ^ 32 < clockOf s)) ∧
    (m.val = 2 → (s.armedTrig k m).late = false ∧ (∃ j, (s.armedTrig k m).next = (s.armedTrig k m).start + j * (s.armedTrig k m).period) ∧
      clockOf s ≤ (s.armedTrig k m).next * 2 ^ 32 ∧
      ((s.armedTrig k m).next ≠ (s.armedTrig k m).start → ((s.armedTrig k m).next - (s.armedTrig k m).period) * 2 ^ 32 < clockOf s)) := by
  obtain ⟨start, hstart⟩ : ∃ x, x = (s.rdw .startSec k).toNat % 2 ^ 48 * 1000000000 + (s.rd .startNs k).toNat % 2 ^ 30 := ⟨_, rfl⟩
  obtain ⟨period, hperiod⟩ : ∃ x, x = max 1000 (min 1000000000 (s.fget F.periodNs_PERIOD k)) := ⟨_, rfl⟩
  have hpos : 0 < period := by omega
  have hval : ∀ mode, (if m.val = 3 then 0 else m.val) = mode → s.armedTrig k m =
      ⟨mode, start, period, if mode = 2 then firstFiring start period s.ptpCeil else start, decide (mode = 1) && decide (start < s.ptpCeil)⟩ := by
    intro mode hm
    unfold State.armedTrig
    rw [← hstart, ← hperiod, ← hm]
  refine ⟨?_, fun h1 => ?_, fun h2 => ?_⟩
  · rw [hval _ rfl]
    exact if_congr ⟨fun h => Fin.ext h, fun h => congrArg Fin.val h⟩ rfl rfl
  · rw [hval 1 (by rw [h1]; rfl), if_neg (by decide)]
    refine ⟨rfl, ?_⟩
    simp only [decide_true, Bool.true_and, decide_eq_true_eq]
    exact lt_ptpCeil_iff s start
  · rw [hval 2 (by rw [h2]; rfl), if_pos rfl, show decide (2 = 1) = false from rfl, Bool.false_and]
    exact ⟨rfl, firstFiring_multiple _ _ _, (ptpCeil_le_iff s _).mp (le_firstFiring _ _ hpos),
      fun hne => (lt_ptpCeil_iff s _).mp (firstFiring_first hpos hne)⟩

/-- What a firing leaves of the trigger and of the clock. -/
theorem State.fire_own : (s.fire k).fget F.trigStatus_FIRED k = (s.fget F.trigStatus_FIRED k + 1) % 2 ^ 14 ∧
    clockOf (s.fire k) = clockOf s ∧ (∀ j, j ≠ k → (s.fire k).trig j = s.trig j) ∧
    ((s.trig k).mode = 1 → (s.fire k).flag F.trigStatus_ARMED k = false ∧
      (s.fire k).flag F.trigStatus_LATE k = (s.flag F.trigStatus_LATE k || (s.trig k).late)) ∧
    ((s.trig k).mode = 2 → (s.fire k).flag F.trigStatus_ARMED k = s.flag F.trigStatus_ARMED k ∧
      ((s.fire k).trig k).next = (s.trig k).next + (s.trig k).period) := by
  have hstatus := s.fire_status k
  obtain ⟨t, ht, hnext⟩ := s.firedOnce_time k
  obtain ⟨v, hv⟩ := s.fire_time k
  rw [ht] at hv
  have hclock : clockOf (s.fire k) = clockOf s := by
    unfold clockOf
    rw [hv]
    split <;> rfl
  have htrig : (s.fire k).trig k = t ∧ ∀ j, j ≠ k → (s.fire k).trig j = s.trig j := by
    by_cases h : s.flag F.ppsCfg_EN = true ∧ s.fget F.ppsCfg_TRIG = k
    · rw [if_pos h] at hv
      exact s.trig_of_tset k (x := { s.time with pps := true, ppsNs := v }) hv
    · rw [if_neg h] at hv
      exact s.trig_of_tset k hv
  obtain ⟨hown, hothers⟩ := htrig
  refine ⟨(hstatus.fget F.trigStatus_FIRED k 0 rfl).trans (s.firedOnce_fired k), hclock, hothers, fun h1 => ?_, fun h2 => ?_⟩
  · obtain ⟨harmed, hlate⟩ := s.firedOnce_one_shot k h1
    exact ⟨(hstatus.flag F.trigStatus_ARMED k 0 rfl).trans harmed, (hstatus.flag F.trigStatus_LATE k 0 rfl).trans hlate⟩
  · exact ⟨(hstatus.flag F.trigStatus_ARMED k 0 rfl).trans (s.firedOnce_periodic k (by rw [h2]; decide)), by rw [hown, hnext h2]⟩

theorem State.fire_pps : ((s.flag F.ppsCfg_EN = true ∧ s.fget F.ppsCfg_TRIG = k) → (s.fire k).time.pps = true) ∧
    (¬(s.flag F.ppsCfg_EN = true ∧ s.fget F.ppsCfg_TRIG = k) → (s.fire k).time.pps = s.time.pps) := by
  obtain ⟨t, ht, -⟩ := s.firedOnce_time k
  obtain ⟨v, hv⟩ := s.fire_time k
  refine ⟨fun h => ?_, fun h => ?_⟩
  · rw [hv, if_pos h]
  · rw [hv, if_neg h, ht]

theorem State.fire_edges : ((s.zen.present = true ∧ s.zen.cfg % 16 = k) → (s.fire k).zen.edges.length = s.zen.edges.length + 1) ∧
    (¬(s.zen.present = true ∧ s.zen.cfg % 16 = k) → (s.fire k).zen = s.zen) := by
  obtain ⟨q, hq⟩ : ∃ q, q = (((s.firedOnce k).fireQueues k (s.firingTime k)).socFire k).ppsFire k := ⟨_, rfl⟩
  have hzen : q.zen = s.zen := hq ▸ s.firedQueues_zen k _
  have hfire : (s.fire k).zen = (q.zenFiring k (s.firingTime k) (s.trig k)).zen := hq ▸ s.fire_zen k
  refine ⟨fun h => ?_, fun h => ?_⟩
  · rw [hfire, q.zenFiring_edge k _ _ (by rw [hzen]; exact h), hzen]
  · rw [hfire, q.zenFiring_unnamed k _ _ (by rw [hzen]; exact h), hzen]

theorem State.disarmed_fields (m : Nat) : (((s.fset F.trigCtl_MODE m k).fset F.trigCtl_ARM 0 k).fset F.trigStatus_ARMED 0 k).flag F.trigStatus_ARMED k = false ∧
    (((s.fset F.trigCtl_MODE m k).fset F.trigCtl_ARM 0 k).fset F.trigStatus_ARMED 0 k).flag F.trigCtl_ARM k = false ∧
    (((s.fset F.trigCtl_MODE m k).fset F.trigCtl_ARM 0 k).fset F.trigStatus_ARMED 0 k).fget F.trigStatus_FIRED k = s.fget F.trigStatus_FIRED k := by
  refine ⟨flag_fset_none _ F.trigStatus_ARMED k 0 rfl (by decide), ?_, ?_⟩
  · unfold State.flag
    rw [fget_fset_reg _ _ _ _ _ _ (by decide)]
    exact flag_fset_none _ F.trigCtl_ARM k 0 rfl (by decide)
  · rw [fget_fset_off _ _ _ _ _ _ (by decide) (by decide) fun _ => .inl (by decide), fget_fset_reg _ _ _ _ _ _ (by decide),
      fget_fset_reg _ _ _ _ _ _ (by decide)]

end

/-- Settles O44: a firing is the trigger's own part, and then each consumer's, which leaves what another one writes. -/
theorem triggersFire : Obligations.TriggersFire := by
  unfold Obligations.TriggersFire
  intro s k
  refine ⟨fun m => ?_, ?_, s.trigDue_iff k, fun h => congrArg Host.Outcome.next (if_neg (by rw [h]; decide)), fun h => ?_,
    ⟨_, rfl, rfl, rfl, .refl _ s, .refl _ s⟩⟩
  · obtain ⟨harmed, hfired, hskip, hlate⟩ := s.armedRegs_status k m (s.armedTrig k m)
    obtain ⟨hregs, hwide, htime, hhost⟩ := s.armedRegs_frame k m (s.armedTrig k m)
    obtain ⟨hmode, hone, hper⟩ := s.armedTrig_next k m
    obtain ⟨htrig, -⟩ := s.trig_of_tset k htime
    refine ⟨_, congrArg Host.Outcome.next (s.trigWrite_arm k m), harmed, hfired, hskip, hlate, hregs, hwide, clockOf_of_time s htime, hhost, ?_⟩
    dsimp only
    rw [htrig]
    exact ⟨hmode.trans (by split <;> rfl), rfl, rfl, hone, hper⟩
  · obtain ⟨v, hv⟩ : ∃ v, v = if s.trigDue k then s.fire k else s := ⟨_, rfl⟩
    obtain ⟨harmed, harm, hfired⟩ := v.disarmed_fields k (bits (BitVec.ofNat 32 (s.fget F.trigCtl_MODE k)).toNat 1 0)
    refine ⟨_, congrArg Host.Outcome.next ((s.trigWrite_disarm k).trans (by rw [← hv])), harmed, harm, hfired.trans ?_, fun h => ?_⟩
    · rw [hv]
      by_cases h : s.trigDue k = true
      · rw [if_pos h, h]
        exact (s.fire_own k).1
      · have hlt : s.fget F.trigStatus_FIRED k < 2 ^ 14 := Nat.mod_lt _ (by decide)
        rw [if_neg h, Bool.not_eq_true _ |>.mp h]
        exact (Nat.mod_eq_of_lt hlt).symm
    · rw [hv, if_neg (by rw [h]; decide)]
      refine ⟨(((OnlyRegs.refl _ s).fset _ k 0 (f := F.trigCtl_MODE) (by decide)).fset 0 k 0 (f := F.trigCtl_ARM) (by decide)).fset 0 k 0
        (f := F.trigStatus_ARMED) (by decide), (((OnlyWide.refl _ s).fset F.trigCtl_MODE _ k 0).fset F.trigCtl_ARM 0 k 0).fset F.trigStatus_ARMED 0 k 0, ?_⟩
      rw [State.fset_host, State.fset_host, State.fset_host]
  · obtain ⟨hfired, hclock, hothers, hone, hper⟩ := s.fire_own k
    obtain ⟨hpps, hppsNot⟩ := s.fire_pps k
    obtain ⟨hedge, hzen⟩ := s.fire_edges k
    obtain ⟨harmed, -, -, -⟩ := (s.trigDue_iff k).mp h
    exact ⟨_, congrArg Host.Outcome.next (if_pos h), hfired, hclock, hothers, hone, fun h2 => ⟨(hper h2).1.trans harmed, (hper h2).2⟩,
      fun n => s.fire_line k n.isLt k.isLt, ⟨hpps, hppsNot, s.fire_soc_named k, s.fire_soc_unnamed k, s.fire_epoch_named k, s.fire_epoch_unnamed k⟩,
      hedge, hzen⟩

end Sys2Proof.Machine
end

section
/-!
PROOF. The capture units (R441).
-/

set_option Elab.async false
set_option exponentiation.threshold 4096
set_option maxRecDepth 20000

namespace Sys2Proof.Machine

section
variable (s : State) (k : Nat)

/-! ## The FIFO -/

theorem State.fset_fifo (F : Fld) (v i j : Nat) : (s.fset F v i j).fifo k = s.fifo k :=
  congrArg (fun x : TimeSt => tget x.fifos k []) (s.fset_time F v i j)

theorem State.setFifo_spec (q : List Stamp) : (s.setFifo k q).fifo k = q ∧ (s.setFifo k q).fget F.capStatus_LEVEL k = q.length % 32 ∧
    OnlyRegs [.capStatus] s (s.setFifo k q) ∧ OnlyWide [] s (s.setFifo k q) := by
  obtain ⟨u, hu⟩ : ∃ u, u = ({ s with time := { s.time with fifos := tset s.time.fifos k [] q } } : State) := ⟨_, rfl⟩
  have hregs : OnlyRegs [.capStatus] s u := fun n i j _ => by rw [hu]; rfl
  have hwide : OnlyWide [] s u := fun n i j _ => by rw [hu]; rfl
  have hset : s.setFifo k q = u.fset F.capStatus_LEVEL q.length k := by rw [hu]; rfl
  rw [hset]
  refine ⟨?_, fget_fset_same u F.capStatus_LEVEL _ _ _ (by decide) (by decide), hregs.fset _ k 0 (f := F.capStatus_LEVEL) (by decide),
    hwide.fset F.capStatus_LEVEL _ k 0⟩
  rw [State.fset_fifo, hu]
  exact tget_tset_same s.time.fifos k [] q

/-- A stamp counts quarters of a nanosecond. -/
theorem State.stampAt_value (quarter : Nat) :
    ((s.stampAt quarter).sec * 1000000000 + (s.stampAt quarter).ns) * 4 + (s.stampAt quarter).frac =
      (clockOf s / 2 ^ 30 + quarter) % (2 ^ 48 * 4000000000) ∧ (s.stampAt quarter).ns < 1000000000 ∧ (s.stampAt quarter).frac < 4 := by
  obtain ⟨q, hq⟩ : ∃ q, q = s.ptpNs * 4 + s.time.frac.toNat / 2 ^ 30 + quarter := ⟨_, rfl⟩
  have hclock : clockOf s / 2 ^ 30 + quarter = q := by
    rw [clockOf_eq, hq]
    omega
  have hstamp : s.stampAt quarter = ⟨q / 4 / 1000000000 % 2 ^ 48, q / 4 % 1000000000, q % 4⟩ := by
    unfold State.stampAt
    rw [← hq]
  rw [hclock, hstamp]
  refine ⟨?_, Nat.mod_lt _ (by norm_num), Nat.mod_lt _ (by norm_num)⟩
  dsimp only
  omega

/-! ## An edge on a capture input -/

variable {s k} {rising pps : Bool} {quarter : Nat}

theorem execCaptureEdge_untaken (h : ¬(s.flag F.capCfg_EN k = true ∧ s.flag F.capCfg_SRC k = pps ∧
    bitAt (s.fget F.capCfg_EDGE k) (if rising then 0 else 1) = true)) : execCaptureEdge k rising pps quarter s = .next s :=
  congrArg Host.Outcome.next (if_neg h)

theorem execCaptureEdge_stamped (h : s.flag F.capCfg_EN k = true ∧ s.flag F.capCfg_SRC k = pps ∧
    bitAt (s.fget F.capCfg_EDGE k) (if rising then 0 else 1) = true) (hroom : (s.fifo k).length < 16) :
    execCaptureEdge k rising pps quarter s = .next ((s.setFifo k (s.fifo k ++ [s.stampAt quarter])).dmaPulse (16 + k)) :=
  congrArg Host.Outcome.next ((if_pos h).trans (if_pos hroom))

theorem execCaptureEdge_lost (h : s.flag F.capCfg_EN k = true ∧ s.flag F.capCfg_SRC k = pps ∧
    bitAt (s.fget F.capCfg_EDGE k) (if rising then 0 else 1) = true) (hfull : 16 ≤ (s.fifo k).length) :
    execCaptureEdge k rising pps quarter s = .next ((s.fset F.capStatus_OVF 1 k).post 0x0703 k) :=
  congrArg Host.Outcome.next ((if_pos h).trans (if_neg (not_lt.mpr hfull)))

variable (s k) in
/-- A stamp's pulse on the unit's request line. -/
theorem State.capturePulse_spec (hk : k < 4) : (s.dmaPulse (16 + k)).fifo k = s.fifo k ∧
    (s.dmaPulse (16 + k)).fget F.capStatus_LEVEL k = s.fget F.capStatus_LEVEL k ∧ OnlyRegs [] s (s.dmaPulse (16 + k)) ∧
    ∀ n : ChIx, (s.dmaPulse (16 + k)).dmaLine n (16 + k) = true := by
  have hkeep : Keeps (.onRegs []) s (s.dmaPulse (16 + k)) := State.dmaPulse_keeps (.rfl' _ s) _
  refine ⟨congrArg (fun x : TimeSt => tget x.fifos k []) (Keeps.time (State.dmaPulse_keeps (.rfl' .butTime s) (16 + k)) rfl),
    hkeep.fget F.capStatus_LEVEL k 0 rfl, hkeep.onlyRegs, fun n => ?_⟩
  unfold State.dmaLine
  rw [if_neg (by omega), if_neg (by omega), if_neg (by omega), if_neg (by omega)]
  exact State.dmaPulse_line _ n.isLt (by omega)

variable (s) in
theorem State.post_rd (a b : Nat) (n : RName) (i j : Nat) : (s.post a b).rd n i j = s.rd n i j := by
  unfold State.rd
  rw [(State.post_keeps (.rfl' { Touch.all with r32 := false } s) a b).r32 rfl]

variable (s k) in
theorem State.captureLost_spec : ((s.fset F.capStatus_OVF 1 k).post 0x0703 k).flag F.capStatus_OVF k = true ∧
    ((s.fset F.capStatus_OVF 1 k).post 0x0703 k).fifo k = s.fifo k ∧ OnlyRegs [.capStatus] s ((s.fset F.capStatus_OVF 1 k).post 0x0703 k) := by
  have hkeep : ∀ v : State, Keeps (.onRegs [.cntEvLost, .cntEvDiscard]) v (v.post 0x0703 k) := fun v => State.post_keeps (.rfl' _ v) _ _
  obtain ⟨u, hu⟩ : ∃ u, u = s.fset F.capStatus_OVF 1 k := ⟨_, rfl⟩
  have hovf : u.flag F.capStatus_OVF k = true := hu ▸ flag_fset_one s F.capStatus_OVF k 0 rfl (by decide)
  have hfifo : u.fifo k = s.fifo k := hu ▸ s.fset_fifo k F.capStatus_OVF 1 k 0
  have hregs : OnlyRegs [.capStatus] s u := hu ▸ (OnlyRegs.refl _ s).fset 1 k 0 (f := F.capStatus_OVF) (by decide)
  rw [← hu]
  refine ⟨((hkeep u).flag F.capStatus_OVF k 0 rfl).trans hovf, (congrArg (fun x : TimeSt => tget x.fifos k []) (u.post_time _ _)).trans hfifo, ?_⟩
  exact fun n i j hn => (u.post_rd 0x0703 k n i j).trans (hregs n i j hn)

/-! ## A pop -/

variable (s) in
theorem State.answer_readData (v : Nat) : (s.answer v).host.readData = BitVec.ofNat 64 v := rfl

variable (s) in
theorem State.answer_latch (v : Nat) : (s.answer v).host.latch = s.host.latch := rfl

variable (s k) in
/-- The stamp a pop answers, with its other fields latched for the function. -/
def State.popped (s : State) (f k : Nat) (st : Stamp) (r : List Stamp) : State :=
  (((s.setFifo k r).setLatch f .capNs k 0 (some (BitVec.ofNat 32 st.ns))).setLatch f .capSecLo k 0
    (some (BitVec.ofNat 32 st.sec))).setLatch f .capSecHi k 0 (some (BitVec.ofNat 32 (st.sec / 2 ^ 32)))

theorem capRead_empty (f : Nat) (h : s.fifo k = []) : s.capRead f k = { s with host := { s.host with readData := 0, unsupported := false } } := by
  unfold State.capRead
  rw [h]

theorem capRead_pops (f : Nat) {st : Stamp} {r : List Stamp} (h : s.fifo k = st :: r) :
    s.capRead f k = (s.popped f k st r).answer (st.frac % 4 + 2 ^ 31) := by
  unfold State.capRead
  rw [h]
  rfl

theorem popped_latches (f : Nat) (st : Stamp) (r : List Stamp) :
    tget (s.popped f k st r).host.latch (fnKey f .capNs k 0) none = some (BitVec.ofNat 32 st.ns) ∧
    tget (s.popped f k st r).host.latch (fnKey f .capSecLo k 0) none = some (BitVec.ofNat 32 st.sec) ∧
    tget (s.popped f k st r).host.latch (fnKey f .capSecHi k 0) none = some (BitVec.ofNat 32 (st.sec / 2 ^ 32)) := by
  have hkey : ∀ m n : RName, m ≠ n → fnKey f m k 0 ≠ fnKey f n k 0 := fun m n h e => h (regKey_inj (Nat.add_left_cancel e)).1
  unfold State.popped State.setLatch
  dsimp only
  exact ⟨(tget_tset_ne _ _ _ _ (hkey _ _ (by decide))).trans ((tget_tset_ne _ _ _ _ (hkey _ _ (by decide))).trans (tget_tset_same _ _ _ _)),
    (tget_tset_ne _ _ _ _ (hkey _ _ (by decide))).trans (tget_tset_same _ _ _ _), tget_tset_same _ _ _ _⟩

theorem popped_frame (f : Nat) (st : Stamp) (r : List Stamp) : (s.popped f k st r).time = (s.setFifo k r).time ∧
    (∀ n i j, (s.popped f k st r).rd n i j = (s.setFifo k r).rd n i j) ∧ (∀ n i j, (s.popped f k st r).rdw n i j = (s.setFifo k r).rdw n i j) :=
  ⟨rfl, fun _ _ _ => rfl, fun _ _ _ => rfl⟩

end

/-- Settles O45: an edge joins the FIFO while it has room, and a pop takes its oldest stamp. -/
theorem captureUnits : Obligations.CaptureUnits := by
  unfold Obligations.CaptureUnits
  intro s f k
  refine ⟨fun rising pps quarter => ⟨execCaptureEdge_untaken, fun h hroom => ?_, fun h hfull => ?_⟩, fun h => ?_, fun x r h => ?_⟩
  · obtain ⟨hfifo, hlevel, hregs, -⟩ := s.setFifo_spec k (s.fifo k ++ [s.stampAt quarter])
    obtain ⟨v, hv⟩ : ∃ v, v = s.setFifo k (s.fifo k ++ [s.stampAt quarter]) := ⟨_, rfl⟩
    rw [← hv] at hfifo hlevel hregs
    obtain ⟨hpf, hpl, hpr, hline⟩ := v.capturePulse_spec k k.isLt
    obtain ⟨hvalue, hns, hfrac⟩ := s.stampAt_value quarter
    refine ⟨_, s.stampAt quarter, (execCaptureEdge_stamped h hroom).trans (by rw [← hv]), hpf.trans hfifo, hvalue, hns, hfrac, ?_, hline,
      fun n i j hn => (hpr n i j List.not_mem_nil).trans (hregs n i j hn)⟩
    rw [hpl, hlevel, List.length_append]
    exact Nat.mod_eq_of_lt (by rw [List.length_singleton]; omega)
  · exact ⟨_, execCaptureEdge_lost h hfull, s.captureLost_spec k⟩
  · exact ⟨_, congrArg Host.Outcome.next (capRead_empty f h), rfl, rfl, .refl _ s⟩
  · obtain ⟨hfifo, hlevel, hregs, hwide⟩ := s.setFifo_spec k r
    obtain ⟨htime, hrd, hrdw⟩ := popped_frame (s := s) (k := k) f x r
    obtain ⟨hns, hlo, hhi⟩ := popped_latches (s := s) (k := k) f x r
    obtain ⟨v, hv⟩ : ∃ v, v = s.popped f k x r := ⟨_, rfl⟩
    rw [← hv] at htime hrd hrdw hns hlo hhi
    have hvr : OnlyRegs [.capStatus] s v := fun n i j hn => (hrd n i j).trans (hregs n i j hn)
    have hvw : OnlyWide [] s v := fun n i j hn => (hrdw n i j).trans (hwide n i j hn)
    have hvl : v.fget F.capStatus_LEVEL k = r.length % 32 := by
      rw [← hlevel]
      unfold State.fget
      rw [hrd]
    obtain ⟨n, hn⟩ : ∃ n, n = x.frac % 4 + 2 ^ 31 := ⟨_, rfl⟩
    rw [← hn]
    exact ⟨v.answer n, congrArg Host.Outcome.next ((capRead_pops f h).trans (by rw [hv, hn])),
      (congrArg (fun y : TimeSt => tget y.fifos k []) htime).trans hfifo, hvl, v.answer_readData _, s.answer_onlyRegs hvr _, s.answer_onlyWide hvw _, by rw [State.answer_latch, hns], by rw [State.answer_latch, hlo],
      by rw [State.answer_latch, hhi]⟩

end Sys2Proof.Machine
end

section
/-!
PROOF. The operations of the power chapter, and the control window (R449, R455, R456, R462, R464).
-/

set_option Elab.async false
set_option exponentiation.threshold 4096
set_option maxRecDepth 20000

namespace Sys2Proof.Machine

section
variable (s : State)

/-! ## THROTTLED and SLOW_CAUSE (R462) -/

/-- SLOW_CAUSE as a change leaves it, before THROTTLED is compared. -/
def State.caused (s : State) (cap : Bool) : State := s.fset F.pwrStatus_SLOW_CAUSE (s.slowCause cap)

/-- THROTTLED as it is to read. -/
def State.slowed (s : State) : Nat := b2n (decide (s.fget F.pwrCfg_OP_MAX < s.curOp))

theorem State.throttle_eq (cap : Bool) : ∃ code, s.throttle cap = if s.slowed = s.fget F.pwrStatus_THROTTLED then s.caused cap
    else ((s.caused cap).fset F.pwrStatus_THROTTLED s.slowed).post 0x0801 code := ⟨_, rfl⟩

theorem State.post_fget (a b : Nat) (f : Fld) (i j : Nat) : (s.post a b).fget f i j = s.fget f i j :=
  congrArg (fun w : Word => bits w.toNat f.hi f.lo) (s.post_rd a b f.reg i j)

theorem State.throttle_fget (cap : Bool) (f : Fld) (i j : Nat) (h : f.hi < 3 ∨ (3 < f.lo ∧ f.hi < 8) ∨ 11 < f.lo) :
    (s.throttle cap).fget f i j = s.fget f i j := by
  obtain ⟨code, hcode⟩ := s.throttle_eq cap
  have hcaused : (s.caused cap).fget f i j = s.fget f i j :=
    fget_fset_off s (f := F.pwrStatus_SLOW_CAUSE) _ 0 0 i j (by decide) (by decide) fun _ => by
      show 11 < f.lo ∨ f.hi < 8
      omega
  rw [hcode]
  split
  · exact hcaused
  · rw [State.post_fget, ← hcaused]
    exact fget_fset_off (s.caused cap) (f := F.pwrStatus_THROTTLED) _ 0 0 i j (by decide) (by decide) fun _ => by
      show 3 < f.lo ∨ f.hi < 3
      omega

theorem State.throttle_flag (cap : Bool) (f : Fld) (i j : Nat) (h : f.hi < 3 ∨ (3 < f.lo ∧ f.hi < 8) ∨ 11 < f.lo) :
    (s.throttle cap).flag f i j = s.flag f i j := by
  unfold State.flag
  rw [s.throttle_fget cap f i j h]

theorem State.throttle_onlyRegs (cap : Bool) : OnlyRegs [.pwrStatus] s (s.throttle cap) := by
  obtain ⟨code, hcode⟩ := s.throttle_eq cap
  have hcaused : OnlyRegs [.pwrStatus] s (s.caused cap) := (OnlyRegs.refl _ s).fset _ 0 0 (f := F.pwrStatus_SLOW_CAUSE) (by decide)
  rw [hcode]
  split
  · exact hcaused
  · exact fun n i j hn => (State.post_rd _ _ _ n i j).trans ((hcaused.fset _ 0 0 (f := F.pwrStatus_THROTTLED) (by decide)) n i j hn)

theorem State.throttle_shown (cap : Bool) : (s.throttle cap).flag F.pwrStatus_THROTTLED = decide (s.fget F.pwrCfg_OP_MAX < s.curOp) := by
  obtain ⟨code, hcode⟩ := s.throttle_eq cap
  have hbit : ∀ b : Bool, decide (b2n b = 1) = b := by decide
  rw [hcode]
  split
  · next h =>
    have hcaused : (s.caused cap).fget F.pwrStatus_THROTTLED = s.fget F.pwrStatus_THROTTLED :=
      fget_fset_off s (f := F.pwrStatus_SLOW_CAUSE) _ 0 0 0 0 (by decide) (by decide) fun _ => .inr (by decide)
    unfold State.flag
    rw [hcaused, ← h]
    exact hbit _
  · have hset : ((s.caused cap).fset F.pwrStatus_THROTTLED s.slowed).flag F.pwrStatus_THROTTLED = decide (s.slowed % 2 = 1) :=
      congrArg (fun x : Nat => decide (x = 1)) (fget_fset_same (s.caused cap) F.pwrStatus_THROTTLED _ 0 0 (by decide) (by decide))
    unfold State.flag at hset ⊢
    rw [State.post_fget, hset]
    unfold State.slowed
    cases decide (s.fget F.pwrCfg_OP_MAX < s.curOp) <;> rfl

theorem State.throttle_power (cap : Bool) : (s.throttle cap).power = s.power :=
  (State.throttle_keeps (.rfl' { Touch.all with power := false } s) cap).power rfl

theorem State.throttle_curOp (cap : Bool) : (s.throttle cap).curOp = s.curOp := s.throttle_fget cap F.pwrStatus_CUR_OP 0 0 (.inl (by decide))

/-! ## Moves between operating points (R455, R456) -/

theorem State.curOp_lt : s.curOp < 8 := Nat.mod_lt _ (by decide)

/-- A step down sets the clock's ratio and CUR_OP with it. -/
theorem State.stepDown_spec {k : Nat} (hk : k < 8) : (s.stepDown k).curOp = k ∧ (s.stepDown k).flag F.pwrStatus_TRANSITION = true ∧
    OnlyRegs [.pwrStatus] s (s.stepDown k) ∧ (∀ f : Fld, 2 < f.lo → f.hi < 7 ∨ 7 < f.lo → ∀ i j, (s.stepDown k).fget f i j = s.fget f i j) ∧
    (s.stepDown k).power = { s.power with clkOp := k, up := none, settling := false, sinceDown := 0 } := by
  obtain ⟨u, hu⟩ : ∃ u, u = ({ s with power := { s.power with clkOp := k, up := none, settling := false, sinceDown := 0 } } : State) := ⟨_, rfl⟩
  have hrd : ∀ n i j, u.rd n i j = s.rd n i j := fun n i j => by rw [hu]; rfl
  have hstep : s.stepDown k = ((u.fset F.pwrStatus_CUR_OP k).fset F.pwrStatus_TRANSITION 1).bump .cntOpChange := by rw [hu]; rfl
  have hregs : OnlyRegs [.pwrStatus] s u := fun n i j _ => hrd n i j
  have hop : ((u.fset F.pwrStatus_CUR_OP k).fset F.pwrStatus_TRANSITION 1).curOp = k :=
    (fget_fset_off _ (f := F.pwrStatus_TRANSITION) (g := F.pwrStatus_CUR_OP) 1 0 0 0 0 (by decide) (by decide) fun _ => .inr (by decide)).trans
      ((fget_fset_same u F.pwrStatus_CUR_OP k 0 0 (by decide) (by decide)).trans (Nat.mod_eq_of_lt hk))
  have hother : ∀ f : Fld, 2 < f.lo → f.hi < 7 ∨ 7 < f.lo → ∀ i j,
      ((u.fset F.pwrStatus_CUR_OP k).fset F.pwrStatus_TRANSITION 1).fget f i j = s.fget f i j := fun f hlo hhi i j => by
    rw [fget_fset_off _ _ _ _ _ _ (by decide) (by decide) fun _ => hhi.symm, fget_fset_off _ _ _ _ _ _ (by decide) (by decide) fun _ => .inl hlo]
    unfold State.fget
    rw [hrd]
  obtain ⟨v, hv⟩ : ∃ v, v = (u.fset F.pwrStatus_CUR_OP k).fset F.pwrStatus_TRANSITION 1 := ⟨_, rfl⟩
  have htr : v.flag F.pwrStatus_TRANSITION = true := hv ▸ flag_fset_one (u.fset F.pwrStatus_CUR_OP k) F.pwrStatus_TRANSITION 0 0 rfl (by decide)
  have hvr : OnlyRegs [.pwrStatus] s v :=
    hv ▸ (hregs.fset k 0 0 (f := F.pwrStatus_CUR_OP) (by decide)).fset 1 0 0 (f := F.pwrStatus_TRANSITION) (by decide)
  have hvp : v.power = u.power := by rw [hv, State.fset_power, State.fset_power]
  rw [← hv] at hstep hop hother
  rw [hstep]
  refine ⟨hop, htr, hvr.wrw _ _ _ _, hother, ?_⟩
  rw [State.bump_power, hvp, hu]

/-- The voltage set for an operating point. -/
theorem State.setMv_spec (k : Nat) : (s.setMv k).fget F.vcore_MV = s.setSteps k * 5 / 2 % 4096 ∧ OnlyRegs [.vcore] s (s.setMv k) ∧
    (s.setMv k).power = s.power :=
  ⟨fget_fset_same s F.vcore_MV _ 0 0 (by decide) (by decide), (OnlyRegs.refl _ s).fset _ 0 0 (f := F.vcore_MV) (by decide), s.fset_power ..⟩

/-- The set voltage of a point depends on VCORE's band and ageing column only. -/
theorem State.setSteps_congr {u : State} (hb : u.fget F.vcore_BAND = s.fget F.vcore_BAND) (ha : u.fget F.vcore_AGE_COL = s.fget F.vcore_AGE_COL)
    (k : Nat) : u.setSteps k = s.setSteps k := by
  unfold State.setSteps
  rw [hb, ha]

/-- A step up raises the regulator's target and leaves the clock. -/
theorem State.stepUp_spec (k : Nat) : (s.stepUp k).curOp = s.curOp ∧ (s.stepUp k).flag F.pwrStatus_TRANSITION = true ∧
    OnlyRegs [.pwrStatus, .vcore] s (s.stepUp k) ∧ (s.stepUp k).fget F.vcore_MV = s.setSteps k * 5 / 2 % 4096 ∧
    (s.stepUp k).power = { s.power with up := some k, settling := false } ∧
    (s.stepUp k).flag F.pwrStatus_CAP_UNMET = s.flag F.pwrStatus_CAP_UNMET := by
  obtain ⟨u, hu⟩ : ∃ u, u = ({ s with power := { s.power with up := some k, settling := false } } : State).fset F.pwrStatus_TRANSITION 1 := ⟨_, rfl⟩
  have hregs : OnlyRegs [.pwrStatus] s u := hu ▸ (show OnlyRegs [.pwrStatus] s { s with power := { s.power with up := some k, settling := false } } from
    fun _ _ _ _ => rfl).fset 1 0 0 (f := F.pwrStatus_TRANSITION) (by decide)
  have hop : u.curOp = s.curOp := hu ▸ fget_fset_off _ (f := F.pwrStatus_TRANSITION) (g := F.pwrStatus_CUR_OP) 1 0 0 0 0 (by decide) (by decide)
    fun _ => .inr (by decide)
  have hcap : u.fget F.pwrStatus_CAP_UNMET = s.fget F.pwrStatus_CAP_UNMET := hu ▸ fget_fset_off _ (f := F.pwrStatus_TRANSITION)
    (g := F.pwrStatus_CAP_UNMET) 1 0 0 0 0 (by decide) (by decide) fun _ => .inr (by decide)
  have htr : u.flag F.pwrStatus_TRANSITION = true := hu ▸ flag_fset_one _ F.pwrStatus_TRANSITION 0 0 rfl (by decide)
  have hpower : u.power = { s.power with up := some k, settling := false } := by rw [hu, State.fset_power]
  have hstep : s.stepUp k = u.setMv k := by rw [hu]; rfl
  have hsteps : u.setSteps k = s.setSteps k := by
    refine s.setSteps_congr ?_ ?_ k
    · exact congrArg (fun w : Word => bits w.toNat 14 12) (hregs .vcore 0 0 (by decide))
    · exact congrArg (fun w : Word => bits w.toNat 17 15) (hregs .vcore 0 0 (by decide))
  obtain ⟨hmv, hmr, hmp⟩ := u.setMv_spec k
  have hstatus : (u.setMv k).rd .pwrStatus = u.rd .pwrStatus := hmr .pwrStatus 0 0 (by decide)
  rw [hstep]
  refine ⟨(congrArg (fun w : Word => bits w.toNat 2 0) hstatus).trans hop, (congrArg (fun w : Word => decide (bits w.toNat 7 7 = 1)) hstatus).trans htr,
    fun n i j hn => ?_, hmv.trans (by rw [hsteps]), hmp.trans hpower, congrArg (fun x : Nat => decide (x = 1))
    ((congrArg (fun w : Word => bits w.toNat 4 4) hstatus).trans hcap)⟩
  exact (hmr n i j fun h => hn (List.mem_cons_of_mem _ h)).trans (hregs n i j fun h => hn (List.mem_cons.mpr (.inl (List.mem_singleton.mp h))))

/-! ## What a window measures (R449, R464) -/

/-- The measured registers. -/
def State.measuredRegs (s : State) (vin iin p : Nat) : State :=
  (((s.fset F.vinMv_V vin).fset F.iinMa_V iin).fset F.pinW_V p).fset F.pcapEff_V (s.capEff vin)

theorem State.measuredRegs_onlyRegs (vin iin p : Nat) : OnlyRegs [.vinMv, .iinMa, .pinW, .pcapEff] s (s.measuredRegs vin iin p) :=
  ((((OnlyRegs.refl _ s).fset vin 0 0 (f := F.vinMv_V) (by decide)).fset iin 0 0 (f := F.iinMa_V) (by decide)).fset p 0 0 (f := F.pinW_V) (by decide)).fset
    (s.capEff vin) 0 0 (f := F.pcapEff_V) (by decide)

theorem State.measuredRegs_fields {vin iin p : Nat} (hv : vin < 65536) (hi : iin < 65536) (hp : p < 4096) :
    (s.measuredRegs vin iin p).fget F.vinMv_V = vin ∧ (s.measuredRegs vin iin p).fget F.iinMa_V = iin ∧ (s.measuredRegs vin iin p).fget F.pinW_V = p ∧
      (s.measuredRegs vin iin p).fget F.pcapEff_V = s.capEff vin := by
  have heff : s.capEff vin < 2048 := by unfold State.capEff; omega
  unfold State.measuredRegs
  rw [fget_fset_reg _ _ _ _ _ _ (by decide), fget_fset_reg _ _ _ _ _ _ (by decide), fget_fset_reg _ _ _ _ _ _ (by decide),
    fget_fset_same _ F.vinMv_V _ _ _ (by decide) (by decide), fget_fset_reg _ _ _ _ _ _ (by decide), fget_fset_reg _ _ _ _ _ _ (by decide),
    fget_fset_same _ F.iinMa_V _ _ _ (by decide) (by decide), fget_fset_reg _ _ _ _ _ _ (by decide),
    fget_fset_same _ F.pinW_V _ _ _ (by decide) (by decide), fget_fset_same _ F.pcapEff_V _ _ _ (by decide) (by decide)]
  exact ⟨Nat.mod_eq_of_lt hv, Nat.mod_eq_of_lt hi, Nat.mod_eq_of_lt hp, Nat.mod_eq_of_lt heff⟩

/-- What a window's measurement leaves. -/
structure Measured (s u : State) (vin iin p uj : Nat) : Prop where
  regs : OnlyRegs [.vinMv, .iinMa, .pinW, .pcapEff] s u
  wide : OnlyWide [.energyMj] s u
  energy : u.rdw .energyMj = s.rdw .energyMj + BitVec.ofNat 64 ((s.power.energyUj + uj) / 1000)
  fields : u.fget F.vinMv_V = vin ∧ u.fget F.iinMa_V = iin ∧ u.fget F.pinW_V = p ∧ u.fget F.pcapEff_V = s.capEff vin
  power : u.power = { s.power with energyUj := (s.power.energyUj + uj) % 1000, sinceDown := min 100 (s.power.sinceDown + s.winMs) }
  boot : u.boot = s.boot
  squall : u.squall = s.squall

theorem State.measured {vin iin p : Nat} (uj : Nat) (hv : vin < 65536) (hi : iin < 65536) (hp : p < 4096) : Measured s (s.measure vin iin p uj) vin iin p uj := by
  obtain ⟨v, hvv⟩ : ∃ v, v = s.measuredRegs vin iin p := ⟨_, rfl⟩
  have hregs : OnlyRegs [.vinMv, .iinMa, .pinW, .pcapEff] s v := hvv ▸ s.measuredRegs_onlyRegs vin iin p
  have hwide : ∀ n i j, v.rdw n i j = s.rdw n i j := fun n i j => by
    rw [hvv]
    unfold State.measuredRegs
    rw [rdw_fset, rdw_fset, rdw_fset, rdw_fset]
  have hfields := s.measuredRegs_fields hv hi hp
  rw [← hvv] at hfields
  obtain ⟨w, hw⟩ : ∃ w, w = v.bump .energyMj 0 0 ((s.power.energyUj + uj) / 1000) := ⟨_, rfl⟩
  have hwr : ∀ n i j, w.rd n i j = v.rd n i j := fun n i j => by rw [hw, State.bump_rd]
  have hww : ∀ n i j, n ≠ .energyMj → w.rdw n i j = s.rdw n i j := fun n i j hn => by rw [hw, rdw_bump_reg _ _ _ _ _ _ hn, hwide]
  have hwe : w.rdw .energyMj = s.rdw .energyMj + BitVec.ofNat 64 ((s.power.energyUj + uj) / 1000) := by rw [hw, rdw_bump_same, hwide]
  have hwf : ∀ f : Fld, w.fget f = v.fget f := fun f => by rw [hw, State.bump_fget]
  have heq : s.measure vin iin p uj = { w with
      power := { s.power with energyUj := (s.power.energyUj + uj) % 1000, sinceDown := min 100 (s.power.sinceDown + s.winMs) } } := by
    rw [hw, hvv]
    rfl
  have hkeep : Keeps { Touch.all with boot := false, squall := false } s (s.measure vin iin p uj) := State.measure_keeps (.rfl' _ s) ..
  obtain ⟨hfv, hfi, hfp, hfe⟩ := hfields
  rw [heq] at hkeep ⊢
  exact ⟨fun n i j hn => (hwr n i j).trans (hregs n i j hn), fun n i j hn => hww n i j (by simpa using hn), hwe,
    ⟨(hwf _).trans hfv, (hwf _).trans hfi, (hwf _).trans hfp, (hwf _).trans hfe⟩, rfl, hkeep.boot rfl, hkeep.squall rfl⟩

variable {s} in
theorem OnlyRegs.fget {l : List RName} {u : State} (h : OnlyRegs l s u) (f : Fld) (i j : Nat) (hf : f.reg ∉ l) : u.fget f i j = s.fget f i j := by
  unfold State.fget
  rw [h f.reg i j hf]

variable {s} in
theorem OnlyRegs.flag {l : List RName} {u : State} (h : OnlyRegs l s u) (f : Fld) (i j : Nat) (hf : f.reg ∉ l) : u.flag f i j = s.flag f i j := by
  unfold State.flag
  rw [h.fget f i j hf]

/-! ## The move to a target (R455, R456) -/

theorem State.moveTo_down {k : Nat} (h : s.curOp < k) : s.moveTo k = s.stepDown k := if_pos h

theorem State.moveTo_stay : s.moveTo s.curOp = s.when s.power.up.isSome State.abandonUp := (if_neg (lt_irrefl _)).trans (if_pos rfl)

theorem State.moveTo_held {k : Nat} (h : k < s.curOp) (ht : s.flag F.pwrStatus_TRANSITION = true) : s.moveTo k = s :=
  (if_neg (by omega)).trans ((if_neg (by omega)).trans (if_pos ht))

theorem State.moveTo_up {k : Nat} (h : k < s.curOp) (ht : s.flag F.pwrStatus_TRANSITION = false) : s.moveTo k = s.stepUp (s.curOp - 1) :=
  (if_neg (by omega)).trans ((if_neg (by omega)).trans (if_neg (by rw [ht]; decide)))

theorem State.stay_spec : (s.when s.power.up.isSome State.abandonUp).r32 = s.r32 ∧ (s.when s.power.up.isSome State.abandonUp).power.up = none ∧
    (s.when s.power.up.isSome State.abandonUp).power.clkOp = s.power.clkOp ∧ (s.when s.power.up.isSome State.abandonUp).power.energyUj = s.power.energyUj := by
  unfold State.when
  split
  · exact ⟨rfl, rfl, rfl, rfl⟩
  · next h => exact ⟨rfl, by simpa using h, rfl, rfl⟩

theorem State.moveTo_frame {k : Nat} (hk : k < 8) : OnlyRegs [.pwrStatus, .vcore] s (s.moveTo k) ∧
    (s.moveTo k).flag F.pwrStatus_CAP_UNMET = s.flag F.pwrStatus_CAP_UNMET ∧ (s.moveTo k).power.energyUj = s.power.energyUj := by
  rcases Nat.lt_trichotomy s.curOp k with h | rfl | h
  · obtain ⟨-, -, hregs, hother, hpower⟩ := s.stepDown_spec hk
    rw [s.moveTo_down h]
    exact ⟨fun n i j hn => hregs n i j fun h => hn (List.mem_cons.mpr (.inl (List.mem_singleton.mp h))),
      congrArg (fun x : Nat => decide (x = 1)) (hother F.pwrStatus_CAP_UNMET (by decide) (by decide) 0 0), by rw [hpower]⟩
  · obtain ⟨hr, -, -, he⟩ := s.stay_spec
    rw [s.moveTo_stay]
    exact ⟨fun n i j _ => by unfold State.rd; rw [hr], s.flag_congr hr _ 0, he⟩
  · cases ht : s.flag F.pwrStatus_TRANSITION with
    | true =>
      rw [s.moveTo_held h ht]
      exact ⟨.refl _ s, rfl, rfl⟩
    | false =>
      obtain ⟨-, -, hregs, -, hpower, hcap⟩ := s.stepUp_spec (s.curOp - 1)
      rw [s.moveTo_up h ht]
      exact ⟨hregs, hcap, by rw [hpower]⟩

/-! ## The window's decision (R455) -/

/-- A window with the controller at work and no cap unmet. -/
def State.decided (s : State) (p eff : Nat) : State :=
  let cap := s.capDemand p eff
  let k := max cap s.otherDemand
  let hot := s.flag F.thermStatus_THROTTLING && decide (s.curOp < k) && decide (k = min 7 (s.curOp + 1)) && decide (cap < k)
  ((s.when hot (fun s => s.bump .cntThermStep)).moveTo k).throttle (decide (s.fget F.pwrCfg_OP_MAX < cap))

variable {s} {vin iin p uj : Nat} {u : State}

theorem State.windowEnd_quiet (hm : Measured s (s.measure vin iin p uj) vin iin p uj) (h : s.hz = true ∨ s.power.coreOn = false ∨ s.unusableBlk 6 = true) :
    s.windowEnd vin iin p uj = s.measure vin iin p uj := by
  refine if_pos (h.imp (fun h => ?_) (.imp (fun h => ?_) fun h => ?_))
  · exact (hm.regs.flag F.dawnStatus_HORIZON 0 0 (by decide)).trans h
  · rw [hm.power]
    exact h
  · rw [State.unusableBlk, hm.boot]
    exact h

/-- The conditions under which a window decides, seen from the measurement. -/
theorem Measured.active (hm : Measured s u vin iin p uj) (hz : s.hz = false) (hc : s.power.coreOn = true) (hu : s.unusableBlk 6 = false) :
    ¬(u.hz = true ∨ u.power.coreOn = false ∨ u.unusableBlk 6 = true) := by
  have h1 : u.hz = false := (hm.regs.flag F.dawnStatus_HORIZON 0 0 (by decide)).trans hz
  have h2 : u.power.coreOn = true := by rw [hm.power]; exact hc
  have h3 : u.unusableBlk 6 = false := by rw [State.unusableBlk, hm.boot]; exact hu
  rw [h1, h2, h3]
  decide

theorem Measured.capEff (hm : Measured s u vin iin p uj) : u.capEff vin = s.capEff vin := by
  unfold State.capEff
  rw [hm.regs.fget F.pcap_WATTS 0 0 (by decide)]

theorem Measured.curOp (hm : Measured s u vin iin p uj) : u.curOp = s.curOp := hm.regs.fget F.pwrStatus_CUR_OP 0 0 (by decide)

theorem Measured.unmet (hm : Measured s u vin iin p uj) (eff : Nat) : u.unmet p eff = s.unmet p eff := by
  unfold State.unmet
  rw [hm.curOp]

theorem Measured.setSteps (hm : Measured s u vin iin p uj) (k : Nat) : u.setSteps k = s.setSteps k :=
  s.setSteps_congr (hm.regs.fget F.vcore_BAND 0 0 (by decide)) (hm.regs.fget F.vcore_AGE_COL 0 0 (by decide)) k

theorem Measured.predicts (hm : Measured s u vin iin p uj) (q eff pct k : Nat) : u.predicts q eff pct k = s.predicts q eff pct k := by
  unfold State.predicts
  rw [hm.curOp, hm.regs.fget F.vcore_BAND 0 0 (by decide)]
  simp only [hm.setSteps]

theorem Measured.otherDemand (hm : Measured s u vin iin p uj) : u.otherDemand = s.otherDemand := by
  unfold State.otherDemand
  rw [hm.curOp, hm.regs.flag F.pwrStatus_STARTUP 0 0 (by decide), hm.regs.flag F.thermStatus_THROTTLING 0 0 (by decide),
    hm.regs.flag F.pwrStatus_LIMIT_HOLD 0 0 (by decide), hm.regs.fget F.pwrCfg_OP_MAX 0 0 (by decide), hm.power]

theorem State.otherDemand_lt (s : State) : s.otherDemand < 8 := by
  have hop := s.curOp_lt
  have hmax : s.fget F.pwrCfg_OP_MAX < 8 := Nat.mod_lt _ (by decide)
  unfold State.otherDemand
  dsimp only
  split <;> split <;> split <;> omega

theorem State.windowEnd_decides (hm : Measured s (s.measure vin iin p uj) vin iin p uj) (hz : s.hz = false) (hc : s.power.coreOn = true)
    (hu : s.unusableBlk 6 = false) (hcap : s.flag F.pwrStatus_CAP_UNMET = false) (hmet : s.unmet p (s.capEff vin) = false) :
    s.windowEnd vin iin p uj = (s.measure vin iin p uj).decided p (s.capEff vin) := by
  have h1 : (s.measure vin iin p uj).flag F.pwrStatus_CAP_UNMET = false := (hm.regs.flag F.pwrStatus_CAP_UNMET 0 0 (by decide)).trans hcap
  have h2 : (s.measure vin iin p uj).unmet p ((s.measure vin iin p uj).capEff vin) = false := by rw [hm.capEff, hm.unmet, hmet]
  refine (if_neg (hm.active hz hc hu)).trans ((if_neg (by rw [h1]; decide)).trans ((if_neg (by rw [h2]; decide)).trans ?_))
  rw [← hm.capEff]
  rfl

theorem Measured.capDemand_met (hm : Measured s u vin iin p uj) {eff : Nat} (h : p ≤ eff) : u.capDemand p eff =
    if 0 < s.curOp ∧ 100 ≤ s.power.sinceDown + s.winMs ∧ s.predicts p eff (100 - s.fget F.pwrCfg_HYST_PCT) (s.curOp - 1) = true then s.curOp - 1
    else s.curOp := by
  have hdown : u.power.sinceDown = 100 ↔ 100 ≤ s.power.sinceDown + s.winMs := by
    rw [hm.power]
    dsimp only
    omega
  unfold State.capDemand
  dsimp only
  rw [if_neg (not_lt.mpr h), hm.curOp, hm.predicts, hm.regs.fget F.pwrCfg_HYST_PCT 0 0 (by decide)]
  exact if_congr (and_congr_right fun _ => and_congr_left fun _ => hdown) rfl rfl

theorem Measured.capDemand_over (hm : Measured s u vin iin p uj) {eff cap : Nat} (h : eff < p) (hcap : cap ≤ 7) (hne : cap ≠ s.curOp)
    (hfits : cap = 7 ∨ s.predicts p eff 100 cap = true) (hfirst : ∀ j, j < cap → j ≠ s.curOp → s.predicts p eff 100 j = false) :
    u.capDemand p eff = cap := by
  unfold State.capDemand
  dsimp only
  rw [if_pos h, hm.curOp]
  simp only [hm.predicts]
  have hbefore : ∀ j, j < cap → (!(decide (j ≠ s.curOp) && s.predicts p eff 100 j)) = true := fun j hj => by
    by_cases hc : j = s.curOp
    · rw [decide_eq_false (not_not.mpr hc)]
      rfl
    · rw [hfirst j hj hc, Bool.and_false]
      rfl
  cases hp : s.predicts p eff 100 cap with
  | true =>
    rw [List.find?_range_eq_some.mpr ⟨by rw [hp, decide_eq_true hne]; rfl, List.mem_range.mpr (by omega), hbefore⟩]
  | false =>
    have h7 : cap = 7 := hfits.resolve_right (by rw [hp]; decide)
    subst h7
    rw [List.find?_range_eq_none.mpr fun j hj => ?_]
    rcases Nat.lt_or_ge j 7 with hlt | hge
    · exact hbefore j hlt
    · have : j = 7 := by omega
      rw [this, hp, Bool.and_false]
      rfl

/-- What a decision leaves beside the move: SLOW_CAUSE and THROTTLED. -/
theorem State.decided_eq (s : State) (p eff : Nat) : ∃ (w : State) (b : Bool), s.decided p eff = (w.moveTo (max (s.capDemand p eff) s.otherDemand)).throttle b ∧
    (∀ n i j, w.rd n i j = s.rd n i j) ∧ w.power = s.power ∧ w.curOp = s.curOp := by
  refine ⟨_, _, rfl, fun n i j => ?_, ?_, ?_⟩
  all_goals
    unfold State.when
    split <;> rfl

/-! ## What every window end leaves of the measurement -/

/-- What follows the measurement. -/
def State.windowRest (s : State) (p eff : Nat) : State :=
  if s.hz = true ∨ s.power.coreOn = false ∨ s.unusableBlk 6 = true then s
  else if s.flag F.pwrStatus_CAP_UNMET then
    if s.power.grace = true ∧ s.unmet p eff = false then
      let s1 := (s.fset F.pwrStatus_CAP_UNMET 0).post 0x0802 (eff * 65536)
      { s1 with power := { s1.power with grace := false } }
    else (s.toOp7).throttle true
  else if s.unmet p eff then
    let s1 := (s.raiseUnmet eff).throttle true
    if s.fget F.pwrCfg_GRACE_MS = 0 then s1.graceEnd else s1
  else s.decided p eff

theorem State.windowEnd_rest (s : State) (vin iin p uj : Nat) :
    s.windowEnd vin iin p uj = (s.measure vin iin p uj).windowRest p ((s.measure vin iin p uj).capEff vin) := rfl

theorem State.toOp7_energyUj (s : State) : s.toOp7.power.energyUj = s.power.energyUj := by
  obtain ⟨-, -, -, -, hpower⟩ := s.stepDown_spec (k := 7) (by decide)
  unfold State.toOp7
  split
  · rfl
  · rw [hpower]

theorem State.post_power (s : State) (a b : Nat) : (s.post a b).power = s.power :=
  (State.post_keeps (.rfl' { Touch.all with power := false } s) a b).power rfl

theorem State.report_power (s : State) (a b c : Nat) : (s.report a b c).power = s.power :=
  (State.report_keeps (.rfl' { Touch.all with power := false } s) a b c).power rfl

theorem State.raiseUnmet_power (s : State) (eff : Nat) : (s.raiseUnmet eff).power = { s.toOp7.power with grace := true } := by
  obtain ⟨v, hv⟩ : ∃ v, v = (((s.toOp7.fset F.pwrStatus_CAP_UNMET 1).bump .cntCapUnmet).post 0x0802 (1 + eff * 65536)) := ⟨_, rfl⟩
  have heq : s.raiseUnmet eff = { v with power := { v.power with grace := true } } := by rw [hv]; rfl
  rw [heq, hv]
  dsimp only
  rw [State.post_power, State.bump_power, State.fset_power]

theorem State.graceEnd_power (s : State) : ∃ b, s.graceEnd.power = { s.power with grace := false, unmetStay := b } := by
  unfold State.graceEnd
  dsimp only
  split
  · refine ⟨true, ?_⟩
    dsimp only
  · exact ⟨s.power.unmetStay, rfl⟩

theorem State.decided_energyUj (s : State) (p eff : Nat) (hk : max (s.capDemand p eff) s.otherDemand < 8) :
    (s.decided p eff).power.energyUj = s.power.energyUj := by
  obtain ⟨w, b, hw, -, hpower, -⟩ := s.decided_eq p eff
  obtain ⟨-, -, he⟩ := w.moveTo_frame hk
  rw [hw, State.throttle_power, he, hpower]

theorem State.capDemand_lt (s : State) (p eff : Nat) : s.capDemand p eff < 8 := by
  have hop := s.curOp_lt
  unfold State.capDemand
  dsimp only
  split
  · split
    · next h => exact List.mem_range.mp (List.mem_of_find?_eq_some h)
    · decide
  · split <;> omega

theorem State.windowRest_energyUj (s : State) (p eff : Nat) : (s.windowRest p eff).power.energyUj = s.power.energyUj := by
  unfold State.windowRest
  split
  · rfl
  · split
    · split
      · dsimp only
        rw [State.post_power, State.fset_power]
      · rw [State.throttle_power, State.toOp7_energyUj]
    · split
      · have hraise : ((s.raiseUnmet eff).throttle true).power.energyUj = s.power.energyUj := by
          rw [State.throttle_power, State.raiseUnmet_power]
          exact s.toOp7_energyUj
        dsimp only
        split
        · obtain ⟨b, hb⟩ := ((s.raiseUnmet eff).throttle true).graceEnd_power
          rw [hb]
          exact hraise
        · exact hraise
      · exact s.decided_energyUj p eff (Nat.max_lt.mpr ⟨s.capDemand_lt p eff, s.otherDemand_lt⟩)

/-- The registers a window measures. -/
def Touch.unmeasured : Touch := .avoid [.vinMv, .iinMa, .pinW, .pcapEff, .energyMj]

theorem State.decided_unmeasured (s : State) (p eff : Nat) : Keeps .unmeasured s (s.decided p eff) :=
  State.throttle_keeps (State.moveTo_keeps (State.when_keeps (.rfl' .unmeasured s) fun u hu => State.bump_keeps hu .cntThermStep 0 0 1) _) _

theorem State.raised_unmeasured (s : State) (eff : Nat) : Keeps .unmeasured s ((s.raiseUnmet eff).throttle true) :=
  State.throttle_keeps (State.raiseUnmet_keeps (.rfl' .unmeasured s) eff) true

theorem State.graceEnd_unmeasured {s u : State} (h : Keeps .unmeasured s u) : Keeps .unmeasured s u.graceEnd := State.graceEnd_keeps h

theorem State.windowRest_reads (s : State) (p eff : Nat) {n : RName} (i j : Nat) (hn : Touch.unmeasured.has n = false) :
    (s.windowRest p eff).rd n i j = s.rd n i j ∧ (s.windowRest p eff).rdw n i j = s.rdw n i j := by
  unfold State.windowRest
  split
  · exact ⟨rfl, rfl⟩
  · split
    · split
      · have hpost : Keeps .unmeasured s ((s.fset F.pwrStatus_CAP_UNMET 0).post 0x0802 (eff * 65536)) :=
          State.post_keeps (State.fset_keeps (.rfl' .unmeasured s) F.pwrStatus_CAP_UNMET 0 0 0) _ _
        exact ⟨hpost.rd n i j hn, hpost.rdw n i j hn⟩
      · have hstay : Keeps .unmeasured s (s.toOp7.throttle true) := State.throttle_keeps (State.toOp7_keeps (.rfl' .unmeasured s)) true
        exact ⟨hstay.rd n i j hn, hstay.rdw n i j hn⟩
    · split
      · have hraise := s.raised_unmeasured eff
        dsimp only
        split
        · have hend := State.graceEnd_unmeasured hraise
          exact ⟨hend.rd n i j hn, hend.rdw n i j hn⟩
        · exact ⟨hraise.rd n i j hn, hraise.rdw n i j hn⟩
      · have hdec := s.decided_unmeasured p eff
        exact ⟨hdec.rd n i j hn, hdec.rdw n i j hn⟩

/-- Every window end leaves its measurement. -/
theorem State.windowEnd_measured (hv : vin < 65536) (hi : iin < 65536) (hp : p < 4096) :
    (s.windowEnd vin iin p uj).fget F.vinMv_V = vin ∧ (s.windowEnd vin iin p uj).fget F.iinMa_V = iin ∧ (s.windowEnd vin iin p uj).fget F.pinW_V = p ∧
      (s.windowEnd vin iin p uj).fget F.pcapEff_V = s.capEff vin ∧
      (s.windowEnd vin iin p uj).rdw .energyMj = s.rdw .energyMj + BitVec.ofNat 64 ((s.power.energyUj + uj) / 1000) ∧
      (s.windowEnd vin iin p uj).power.energyUj = (s.power.energyUj + uj) % 1000 := by
  have hm := s.measured uj hv hi hp
  obtain ⟨hfv, hfi, hfp, hfe⟩ := hm.fields
  have hread := fun (n : RName) hn => (s.measure vin iin p uj).windowRest_reads p ((s.measure vin iin p uj).capEff vin) (n := n) 0 0 hn
  rw [s.windowEnd_rest]
  unfold State.fget at hfv hfi hfp hfe ⊢
  rw [(hread _ rfl).1, (hread _ rfl).1, (hread _ rfl).1, (hread _ rfl).1, (hread _ rfl).2, State.windowRest_energyUj, hm.power]
  exact ⟨hfv, hfi, hfp, hfe, hm.energy, rfl⟩

/-! ## The clauses of a decision -/

/-- What a window's decision leaves, by the target's place against the current point. -/
theorem State.decided_moves (hm : Measured s u vin iin p uj) {eff k : Nat} (hk : k = max (u.capDemand p eff) u.otherDemand) :
    (s.curOp < k → (u.decided p eff).curOp = k ∧ (u.decided p eff).power.clkOp = k ∧ (u.decided p eff).flag F.pwrStatus_TRANSITION = true ∧
      (u.decided p eff).power.up = none ∧ (u.decided p eff).rd .vcore = s.rd .vcore) ∧
    (k = s.curOp → (u.decided p eff).curOp = s.curOp ∧ (u.decided p eff).power.clkOp = s.power.clkOp ∧ (u.decided p eff).power.up = none ∧
      (u.decided p eff).rd .vcore = s.rd .vcore) ∧
    (k < s.curOp → s.flag F.pwrStatus_TRANSITION = true → (u.decided p eff).curOp = s.curOp ∧ (u.decided p eff).power.up = s.power.up) ∧
    (k < s.curOp → s.flag F.pwrStatus_TRANSITION = false → (u.decided p eff).curOp = s.curOp ∧ (u.decided p eff).power.clkOp = s.power.clkOp ∧
      (u.decided p eff).power.up = some (s.curOp - 1) ∧ (u.decided p eff).flag F.pwrStatus_TRANSITION = true ∧
      (u.decided p eff).fget F.vcore_MV = s.setSteps (s.curOp - 1) * 5 / 2 % 4096) := by
  have hlt : k < 8 := hk ▸ Nat.max_lt.mpr ⟨u.capDemand_lt p eff, u.otherDemand_lt⟩
  obtain ⟨w, b, hw, hwr, hwp, hwo⟩ := u.decided_eq p eff
  rw [← hk] at hw
  have hop : w.curOp = s.curOp := hwo.trans hm.curOp
  have htr : w.flag F.pwrStatus_TRANSITION = s.flag F.pwrStatus_TRANSITION := by
    rw [← hm.regs.flag F.pwrStatus_TRANSITION 0 0 (by decide)]
    unfold State.flag State.fget
    rw [hwr]
  have hvc : w.rd .vcore = s.rd .vcore := (hwr _ _ _).trans (hm.regs .vcore 0 0 (by decide))
  have hclk : w.power.clkOp = s.power.clkOp := by rw [hwp, hm.power]
  have hup : w.power.up = s.power.up := by rw [hwp, hm.power]
  obtain ⟨v, hv⟩ : ∃ v, v = w.moveTo k := ⟨_, rfl⟩
  have hshow : ∀ f : Fld, (f.hi < 3 ∨ (3 < f.lo ∧ f.hi < 8) ∨ 11 < f.lo) → (u.decided p eff).fget f = v.fget f := fun f hf => by
    rw [hw, ← hv]
    exact v.throttle_fget b f 0 0 hf
  have hpow : (u.decided p eff).power = v.power := by rw [hw, ← hv, State.throttle_power]
  have hvcore : (u.decided p eff).rd .vcore = v.rd .vcore := by
    rw [hw, ← hv]
    exact v.throttle_onlyRegs b .vcore 0 0 (by decide)
  have hcur : (u.decided p eff).curOp = v.curOp := hshow F.pwrStatus_CUR_OP (.inl (by decide))
  have htrans : (u.decided p eff).flag F.pwrStatus_TRANSITION = v.flag F.pwrStatus_TRANSITION := by
    unfold State.flag
    rw [hshow F.pwrStatus_TRANSITION (.inr (.inl (by decide)))]
  have hmv : (u.decided p eff).fget F.vcore_MV = v.fget F.vcore_MV := congrArg (fun x : Word => bits x.toNat 11 0) hvcore
  rw [hcur, htrans, hpow, hvcore, hmv]
  refine ⟨fun h => ?_, fun h => ?_, fun h ht => ?_, fun h ht => ?_⟩
  · obtain ⟨h1, h2, h3, -, h5⟩ := w.stepDown_spec hlt
    rw [hv, w.moveTo_down (by rw [hop]; exact h)]
    exact ⟨h1, by rw [h5], h2, by rw [h5], (h3 .vcore 0 0 (by decide)).trans hvc⟩
  · obtain ⟨h1, h2, h3, -⟩ := w.stay_spec
    have hv' : v = w.when w.power.up.isSome State.abandonUp := by rw [hv, h, ← hop, w.moveTo_stay]
    rw [← hv'] at h1 h2 h3
    have hrd : ∀ n, v.rd n = w.rd n := fun n => by unfold State.rd; rw [h1]
    exact ⟨(congrArg (fun x : Word => bits x.toNat 2 0) (hrd .pwrStatus)).trans hop, h3.trans hclk, h2, (hrd .vcore).trans hvc⟩
  · rw [hv, w.moveTo_held (by rw [hop]; exact h) (htr.trans ht)]
    exact ⟨hop, hup⟩
  · obtain ⟨h1, h2, h3, h4, h5, -⟩ := w.stepUp_spec (s.curOp - 1)
    have hsteps : w.setSteps (s.curOp - 1) = s.setSteps (s.curOp - 1) := s.setSteps_congr (congrArg (fun x : Word => bits x.toNat 14 12) hvc)
      (congrArg (fun x : Word => bits x.toNat 17 15) hvc) _
    rw [hv, w.moveTo_up (by rw [hop]; exact h) (htr.trans ht), hop]
    exact ⟨h1.trans hop, by rw [h5]; exact hclk, by rw [h5], h2, h4.trans (by rw [hsteps])⟩

/-- A decision writes PWR_STATUS and VCORE beside the measurement, and shows THROTTLED. -/
theorem State.decided_frame (hm : Measured s u vin iin p uj) (eff : Nat) :
    OnlyRegs [.vinMv, .iinMa, .pinW, .pcapEff, .pwrStatus, .vcore] s (u.decided p eff) ∧
    (u.decided p eff).flag F.pwrStatus_CAP_UNMET = s.flag F.pwrStatus_CAP_UNMET ∧
    (u.decided p eff).flag F.pwrStatus_THROTTLED = decide (s.fget F.pwrCfg_OP_MAX < (u.decided p eff).curOp) := by
  obtain ⟨w, b, hw, hwr, -, -⟩ := u.decided_eq p eff
  obtain ⟨hregs, hcap, -⟩ := w.moveTo_frame (k := max (u.capDemand p eff) u.otherDemand) (Nat.max_lt.mpr ⟨u.capDemand_lt p eff, u.otherDemand_lt⟩)
  obtain ⟨v, hv⟩ : ∃ v, v = w.moveTo (max (u.capDemand p eff) u.otherDemand) := ⟨_, rfl⟩
  rw [← hv] at hregs hcap hw
  have hsub : OnlyRegs [.vinMv, .iinMa, .pinW, .pcapEff, .pwrStatus, .vcore] s v := fun n i j hn => by
    simp only [List.mem_cons, List.not_mem_nil, or_false, not_or] at hn
    obtain ⟨h1, h2, h3, h4, h5, h6⟩ := hn
    exact (hregs n i j (by simp [h5, h6])).trans ((hwr n i j).trans (hm.regs n i j (by simp [h1, h2, h3, h4])))
  have hcap' : w.flag F.pwrStatus_CAP_UNMET = s.flag F.pwrStatus_CAP_UNMET := by
    rw [← hm.regs.flag F.pwrStatus_CAP_UNMET 0 0 (by decide)]
    unfold State.flag State.fget
    rw [hwr]
  rw [hw]
  refine ⟨fun n i j hn => (v.throttle_onlyRegs b n i j fun h => hn ?_).trans (hsub n i j hn), ?_, ?_⟩
  · rw [List.mem_singleton.mp h]
    decide
  · rw [State.throttle_flag _ _ _ _ _ (.inr (.inl (by decide))), hcap, hcap']
  · rw [State.throttle_shown, State.throttle_curOp, hsub.fget F.pwrCfg_OP_MAX 0 0 (by decide)]

end

/-- Settles O46: a window end is its measurement and then, where the controller works and no cap is unmet, the move to the slowest demand. -/
theorem powerWindow : Obligations.PowerWindow := by
  unfold Obligations.PowerWindow
  intro s vin iin p uj
  obtain ⟨hfv, hfi, hfp, hfe, hmj, huj⟩ := s.windowEnd_measured (uj := uj) vin.isLt iin.isLt p.isLt
  have hm := s.measured uj vin.isLt iin.isLt p.isLt
  refine ⟨_, rfl, hfv, hfi, hfp, hfe, hmj, huj, fun h => ?_, fun hz hc hu hcap h520 h7 => ?_⟩
  · rw [State.windowEnd_quiet hm h]
    exact ⟨hm.regs, hm.wide⟩
  · have hmet : s.unmet p (s.capEff vin) = false := by
      change 520 ≤ s.capEff vin at h520
      change s.curOp = 7 → p.val ≤ s.capEff vin at h7
      unfold State.unmet
      rw [decide_eq_false (not_lt.mpr h520), Bool.false_or]
      by_cases hop : s.curOp = 7
      · rw [decide_eq_false (not_lt.mpr (h7 hop)), Bool.and_false]
      · rw [decide_eq_false hop, Bool.false_and]
    obtain ⟨hregs, hunmet, hslow⟩ := State.decided_frame hm (s.capEff vin)
    rw [State.windowEnd_decides hm hz hc hu hcap hmet]
    refine ⟨hregs, hunmet.trans hcap, hslow, fun cap k hle hgt hk => ?_⟩
    have hdemand : (s.measure vin iin p uj).capDemand p (s.capEff vin) = cap := by
      rcases Nat.lt_or_ge (s.capEff vin) p with h | h
      · obtain ⟨h1, h2, h3, h4⟩ := hgt h
        exact hm.capDemand_over h h1 h2 h3 h4
      · exact (hm.capDemand_met h).trans (hle h).symm
    exact State.decided_moves hm (by rw [hdemand, hm.otherDemand]; exact hk)

end Sys2Proof.Machine
end

section
/-!
PROOF. Operating-point transitions, triggered conversions and powered hours (R454, R456, R462, R464, R465, R487).
-/

set_option Elab.async false
set_option exponentiation.threshold 4096
set_option maxRecDepth 20000

namespace Sys2Proof.Machine

section
variable {s : State} {k : Nat}

/-! ## The steps of a transition (R456) -/

/-- The clock at the point a step up moves to. -/
def State.raised (s : State) (k : Nat) : State :=
  ((({ s with power := { s.power with clkOp := k, up := none, settling := false } } : State).fset F.pwrStatus_CUR_OP k).fset F.pwrStatus_TRANSITION 0).bump
    .cntOpChange

theorem execSettleDone_settled (h : s.power.up = some k) (hs : s.power.settling = true) : execSettleDone s = .next (s.raised k).throttleNow := by
  unfold execSettleDone
  rw [h]
  exact congrArg Host.Outcome.next (if_pos hs)

theorem execSettleDone_unsettled (h : s.power.up = some k) (hs : s.power.settling = false) : execSettleDone s = .next s := by
  unfold execSettleDone
  rw [h]
  exact congrArg Host.Outcome.next (if_neg (by rw [hs]; decide))

theorem execSettleDone_none (h : s.power.up = none) : execSettleDone s = .next s := by
  unfold execSettleDone
  rw [h]

theorem State.raised_spec (hk : k < 8) : (s.raised k).curOp = k ∧ (s.raised k).flag F.pwrStatus_TRANSITION = false ∧
    OnlyRegs [.pwrStatus] s (s.raised k) ∧ (s.raised k).power = { s.power with clkOp := k, up := none, settling := false } ∧
    (s.raised k).rdw .cntOpChange = s.rdw .cntOpChange + 1#64 := by
  obtain ⟨u, hu⟩ : ∃ u, u = ({ s with power := { s.power with clkOp := k, up := none, settling := false } } : State) := ⟨_, rfl⟩
  have hregs : OnlyRegs [.pwrStatus] s u := fun n i j _ => by rw [hu]; rfl
  have hrdw : u.rdw .cntOpChange = s.rdw .cntOpChange := by rw [hu]; rfl
  obtain ⟨v, hv⟩ : ∃ v, v = (u.fset F.pwrStatus_CUR_OP k).fset F.pwrStatus_TRANSITION 0 := ⟨_, rfl⟩
  have hop : v.curOp = k := hv ▸
    (fget_fset_off _ (f := F.pwrStatus_TRANSITION) (g := F.pwrStatus_CUR_OP) 0 0 0 0 0 (by decide) (by decide) fun _ => .inr (by decide)).trans
      ((fget_fset_same u F.pwrStatus_CUR_OP k 0 0 (by decide) (by decide)).trans (Nat.mod_eq_of_lt hk))
  have htr : v.flag F.pwrStatus_TRANSITION = false := hv ▸ flag_fset_none _ F.pwrStatus_TRANSITION 0 0 rfl (by decide)
  have hvr : OnlyRegs [.pwrStatus] s v :=
    hv ▸ (hregs.fset k 0 0 (f := F.pwrStatus_CUR_OP) (by decide)).fset 0 0 0 (f := F.pwrStatus_TRANSITION) (by decide)
  have hvp : v.power = u.power := by rw [hv, State.fset_power, State.fset_power]
  have hvw : v.rdw .cntOpChange = s.rdw .cntOpChange := by rw [hv, rdw_fset, rdw_fset, hrdw]
  have heq : s.raised k = v.bump .cntOpChange := by rw [hv, hu]; rfl
  rw [heq]
  exact ⟨hop, htr, hvr.wrw _ _ _ _, by rw [State.bump_power, hvp, hu], (rdw_bump_same v _ 0 0 1).trans (by rw [hvw])⟩

theorem State.throttle_rdw (c : Bool) : (s.throttle c).rdw .cntOpChange = s.rdw .cntOpChange :=
  (State.throttle_keeps (.rfl' (.avoid [.cntOpChange]) s) c).rdw .cntOpChange 0 0 rfl

/-- The voltage of the slower point. -/
theorem State.lowered_spec : ((s.setMv k).fset F.pwrStatus_TRANSITION 0).flag F.pwrStatus_TRANSITION = false ∧
    ((s.setMv k).fset F.pwrStatus_TRANSITION 0).curOp = s.curOp ∧
    ((s.setMv k).fset F.pwrStatus_TRANSITION 0).fget F.vcore_MV = s.setSteps k * 5 / 2 % 4096 ∧
    OnlyRegs [.pwrStatus, .vcore] s ((s.setMv k).fset F.pwrStatus_TRANSITION 0) ∧ OnlyWide [] s ((s.setMv k).fset F.pwrStatus_TRANSITION 0) := by
  obtain ⟨hmv, hregs, -⟩ := s.setMv_spec k
  have hwide : OnlyWide [] s (s.setMv k) := (OnlyWide.refl _ s).fset F.vcore_MV _ 0 0
  obtain ⟨v, hv⟩ : ∃ v, v = s.setMv k := ⟨_, rfl⟩
  rw [← hv] at hmv hregs hwide ⊢
  have hop : (v.fset F.pwrStatus_TRANSITION 0).curOp = v.curOp :=
    fget_fset_off v (f := F.pwrStatus_TRANSITION) (g := F.pwrStatus_CUR_OP) 0 0 0 0 0 (by decide) (by decide) fun _ => .inr (by decide)
  have hvr : OnlyRegs [.pwrStatus, .vcore] s v := fun n i j hn => hregs n i j fun h => hn (List.mem_cons_of_mem _ h)
  exact ⟨flag_fset_none v F.pwrStatus_TRANSITION 0 0 rfl (by decide), hop.trans (hregs.fget F.pwrStatus_CUR_OP 0 0 (by decide)),
    (fget_fset_reg v 0 0 0 0 0 (by decide)).trans hmv, hvr.fset 0 0 0 (f := F.pwrStatus_TRANSITION) (by decide), hwide.fset F.pwrStatus_TRANSITION 0 0 0⟩

theorem transitions : Claims.Transitions := by
  unfold Claims.Transitions
  intro s
  refine ⟨fun h => ⟨congrArg Host.Outcome.next (if_neg (by rw [h]; decide)), execSettleDone_none h⟩, fun k h hk => ⟨?_, execSettleDone_unsettled h,
    fun hs => ?_, congrArg Host.Outcome.next (if_neg (by rw [h]; simp))⟩, fun h => congrArg Host.Outcome.next (if_neg (by rw [h]; simp)), fun h hn => ?_⟩
  · exact ⟨_, congrArg Host.Outcome.next (if_pos (by rw [h]; rfl)), rfl, h, rfl, rfl, .refl _ s, .refl _ s⟩
  · obtain ⟨hop, htr, hregs, hpower, hcnt⟩ := State.raised_spec (s := s) hk
    obtain ⟨v, hv⟩ : ∃ v, v = s.raised k := ⟨_, rfl⟩
    rw [← hv] at hop htr hregs hpower hcnt
    refine ⟨v.throttleNow, (execSettleDone_settled h hs).trans (by rw [hv]), ?_, (v.throttle_curOp _).trans hop, ?_,
      (v.throttle_flag _ _ 0 0 (.inr (.inl (by decide)))).trans htr, State.throttle_rdw _ |>.trans hcnt,
      fun n i j hn => (v.throttle_onlyRegs _ n i j hn).trans (hregs n i j hn), ?_⟩
    · rw [State.throttleNow, State.throttle_power, hpower]
    · rw [State.throttleNow, State.throttle_power, hpower]
    · rw [State.throttleNow, State.throttle_shown, hop, hregs.fget F.pwrCfg_OP_MAX 0 0 (by decide)]
  · exact ⟨_, congrArg Host.Outcome.next (if_pos ⟨h, hn⟩), State.lowered_spec⟩

/-! ## Triggered conversions (R465) -/

/-- A conversion's registers. -/
def State.converted (s : State) (vin iin : Nat) : State :=
  (((s.fset F.socVinMv_V vin).fset F.socIinMa_V iin).fset F.socStatus_SEQ (s.fget F.socStatus_SEQ + 1)).fset F.socStatus_BUSY 0

theorem State.converted_spec {vin iin : Nat} (hv : vin < 65536) (hi : iin < 65536) : (s.converted vin iin).fget F.socVinMv_V = vin ∧
    (s.converted vin iin).fget F.socIinMa_V = iin ∧ (s.converted vin iin).fget F.socStatus_SEQ = (s.fget F.socStatus_SEQ + 1) % 65536 ∧
    (s.converted vin iin).flag F.socStatus_BUSY = false ∧ OnlyRegs [.socVinMv, .socIinMa, .socStatus] s (s.converted vin iin) ∧
    OnlyWide [] s (s.converted vin iin) := by
  unfold State.converted
  refine ⟨?_, ?_, ?_, flag_fset_none _ F.socStatus_BUSY 0 0 rfl (by decide), ?_, ?_⟩
  · rw [fget_fset_reg _ _ _ _ _ _ (by decide), fget_fset_reg _ _ _ _ _ _ (by decide), fget_fset_reg _ _ _ _ _ _ (by decide),
      fget_fset_same _ F.socVinMv_V _ _ _ (by decide) (by decide)]
    exact Nat.mod_eq_of_lt hv
  · rw [fget_fset_reg _ _ _ _ _ _ (by decide), fget_fset_reg _ _ _ _ _ _ (by decide), fget_fset_same _ F.socIinMa_V _ _ _ (by decide) (by decide)]
    exact Nat.mod_eq_of_lt hi
  · rw [fget_fset_off _ _ _ _ _ _ (by decide) (by decide) fun _ => .inr (by decide)]
    exact fget_fset_same _ F.socStatus_SEQ _ _ _ (by decide) (by decide)
  · exact ((((OnlyRegs.refl _ s).fset vin 0 0 (f := F.socVinMv_V) (by decide)).fset iin 0 0 (f := F.socIinMa_V) (by decide)).fset
      _ 0 0 (f := F.socStatus_SEQ) (by decide)).fset 0 0 0 (f := F.socStatus_BUSY) (by decide)
  · exact ((((OnlyWide.refl _ s).fset F.socVinMv_V _ 0 0).fset F.socIinMa_V _ 0 0).fset F.socStatus_SEQ _ 0 0).fset F.socStatus_BUSY _ 0 0

/-! ## Powered time (R454, R487) -/

theorem foldl_max_ge (l : List Nat) (a : Nat) : a ≤ l.foldl max a ∧ ∀ b ∈ l, b ≤ l.foldl max a := by
  induction l generalizing a with
  | nil => exact ⟨le_rfl, fun _ h => absurd h List.not_mem_nil⟩
  | cons x r ih =>
    obtain ⟨h1, h2⟩ := ih (max a x)
    refine ⟨(le_max_left a x).trans h1, fun b hb => ?_⟩
    rcases List.mem_cons.mp hb with rfl | hb
    · exact (le_max_right a b).trans h1
    · exact h2 b hb

theorem foldl_max_le {l : List Nat} {a c : Nat} (ha : a ≤ c) (hl : ∀ b ∈ l, b ≤ c) : l.foldl max a ≤ c := by
  induction l generalizing a with
  | nil => exact ha
  | cons x r ih => exact ih (max_le ha (hl x List.mem_cons_self)) fun b hb => hl b (List.mem_cons_of_mem _ hb)

/-- The ageing column rises to the milestones that the powered hours have reached. -/
theorem State.ageColumn_spec : s.fget F.vcore_AGE_COL ≤ s.ageColumn ∧ (s.fget F.vcore_AGE_COL ≤ 4 → s.ageColumn ≤ 4) ∧ s.ageColumn < 8 ∧
    ∀ a, 1 ≤ a → a ≤ 4 → (Config.ageMilestone a).toNat ≤ s.power.minutes / 60 → a ≤ s.ageColumn := by
  have hcol : s.fget F.vcore_AGE_COL < 8 := Nat.mod_lt _ (by decide)
  have hlist : ∀ c, 4 ≤ c → ∀ b ∈ (List.range 5).filter (fun a => decide (a = 0) || decide ((Config.ageMilestone a).toNat ≤ s.power.minutes / 60)), b ≤ c :=
    fun c hc b hb => by
      have := List.mem_range.mp (List.mem_filter.mp hb).1
      omega
  refine ⟨(foldl_max_ge _ _).1, fun h => foldl_max_le h (hlist 4 le_rfl), Nat.lt_succ_of_le (foldl_max_le (by omega) (hlist 7 (by omega))),
    fun a _ ha hm => (foldl_max_ge _ _).2 a (List.mem_filter.mpr ⟨List.mem_range.mpr (by omega), ?_⟩)⟩
  rw [decide_eq_true hm, Bool.or_true]

/-- POWERED_HOURS and the column, as a count of minutes shows them. -/
theorem State.showHours_spec (s : State) : s.showHours.rd .poweredHours = BitVec.ofNat 32 (s.power.minutes / 60) ∧
    OnlyRegs [.poweredHours, .vcore] s s.showHours ∧ s.showHours.fget F.vcore_AGE_COL = s.ageColumn ∧
    (s.ageColumn ≠ s.fget F.vcore_AGE_COL → s.showHours.fget F.vcore_MV = s.showHours.setSteps s.voltOp * 5 / 2 % 4096) := by
  obtain ⟨v, hv⟩ : ∃ v, v = s.wr .poweredHours (BitVec.ofNat 32 (s.power.minutes / 60)) := ⟨_, rfl⟩
  have hhours : v.rd .poweredHours = BitVec.ofNat 32 (s.power.minutes / 60) := hv ▸ rd_wr_same s .poweredHours _ 0 0
  have hregs : OnlyRegs [.poweredHours] s v := hv ▸ (OnlyRegs.refl _ s).wr _ 0 0 List.mem_cons_self
  have hpower : v.power = s.power := hv ▸ s.wr_power ..
  have hcol : v.fget F.vcore_AGE_COL = s.fget F.vcore_AGE_COL := hregs.fget F.vcore_AGE_COL 0 0 (by decide)
  have hage : v.ageColumn = s.ageColumn := by
    unfold State.ageColumn
    rw [hcol, hpower]
  have hvolt : v.voltOp = s.voltOp := by
    unfold State.voltOp State.curOp
    rw [hpower, hregs.fget F.pwrStatus_CUR_OP 0 0 (by decide)]
  have hshow : s.showHours = if s.ageColumn = s.fget F.vcore_AGE_COL then v else (v.fset F.vcore_AGE_COL s.ageColumn).setMv s.voltOp := by
    rw [← hage, ← hcol, ← hvolt, hv]
    rfl
  have hsub : OnlyRegs [.poweredHours, .vcore] s v := fun n i j hn => hregs n i j fun h => hn (List.mem_cons.mpr (.inl (List.mem_singleton.mp h)))
  rw [hshow]
  by_cases h : s.ageColumn = s.fget F.vcore_AGE_COL
  · rw [if_pos h]
    exact ⟨hhours, hsub, hcol.trans h.symm, fun hne => absurd h hne⟩
  · rw [if_neg h]
    obtain ⟨w, hw⟩ : ∃ w, w = v.fset F.vcore_AGE_COL s.ageColumn := ⟨_, rfl⟩
    have hwa : w.fget F.vcore_AGE_COL = s.ageColumn :=
      hw ▸ (fget_fset_same v F.vcore_AGE_COL _ 0 0 (by decide) (by decide)).trans (Nat.mod_eq_of_lt s.ageColumn_spec.2.2.1)
    have hwr : OnlyRegs [.poweredHours, .vcore] s w := hw ▸ hsub.fset _ 0 0 (f := F.vcore_AGE_COL) (by decide)
    have hwh : w.rd .poweredHours = v.rd .poweredHours := hw ▸ rd_fset_reg v _ 0 0 0 0 (by decide)
    obtain ⟨hmv, hmr, -⟩ := w.setMv_spec s.voltOp
    have hma : (w.setMv s.voltOp).fget F.vcore_AGE_COL = w.fget F.vcore_AGE_COL :=
      fget_fset_off w (f := F.vcore_MV) (g := F.vcore_AGE_COL) _ 0 0 0 0 (by decide) (by decide) fun _ => .inl (by decide)
    have hmb : (w.setMv s.voltOp).fget F.vcore_BAND = w.fget F.vcore_BAND :=
      fget_fset_off w (f := F.vcore_MV) (g := F.vcore_BAND) _ 0 0 0 0 (by decide) (by decide) fun _ => .inl (by decide)
    rw [← hw]
    refine ⟨(hmr .poweredHours 0 0 (by decide)).trans (hwh.trans hhours), fun n i j hn => ?_, hma.trans hwa, fun _ => ?_⟩
    · exact (hmr n i j fun h => hn (List.mem_cons_of_mem _ h)).trans (hwr n i j hn)
    · rw [hmv, w.setSteps_congr hmb hma]

/-- The record of a minute, and the count behind it. -/
def State.minuteKept (s : State) (good : Bool) : State :=
  let seq := ((newestNvs s.boot.nvs).map (fun r => (r.1 + 1) % 2 ^ 32)).getD 0
  let slots := s.boot.nvs ++ (if good then [(seq, s.power.minutes + 1)] else [])
  { s with power := { s.power with minutes := s.power.minutes + 1 }, boot := { s.boot with nvs := slots.drop (slots.length - 4096) } }

theorem execPoweredMinute_valid {good : Bool} (h : s.boot.vinValid = true) : execPoweredMinute good s = .next (s.minuteKept good).showHours :=
  congrArg Host.Outcome.next (if_neg (by rw [h]; decide))

theorem mem_drop_of_last {α : Type} (l : List α) (x : α) {n : Nat} (h : n ≤ l.length) : x ∈ (l ++ [x]).drop n := by
  rw [List.drop_append_of_le_length h]
  exact List.mem_append_right _ (List.mem_singleton_self x)

theorem State.minuteKept_nvs (s : State) (good : Bool) :
    (good = true → ∃ q, (q, s.power.minutes + 1) ∈ (s.minuteKept good).boot.nvs) ∧ (s.minuteKept good).boot.nvs.length ≤ 4096 := by
  obtain ⟨seq, hseq⟩ : ∃ q, q = ((newestNvs s.boot.nvs).map (fun r => (r.1 + 1) % 2 ^ 32)).getD 0 := ⟨_, rfl⟩
  have hnvs : (s.minuteKept good).boot.nvs = (s.boot.nvs ++ (if good then [(seq, s.power.minutes + 1)] else [])).drop
      ((s.boot.nvs ++ (if good then [(seq, s.power.minutes + 1)] else [])).length - 4096) := by
    rw [hseq]
    rfl
  rw [hnvs]
  refine ⟨fun hg => ⟨seq, ?_⟩, ?_⟩
  · subst hg
    exact mem_drop_of_last _ _ (by rw [List.length_append]; simp)
  · rw [List.length_drop]
    omega

theorem conversionsAndHours : Claims.ConversionsAndHours := by
  unfold Claims.ConversionsAndHours
  intro s vin iin good
  refine ⟨fun h => congrArg Host.Outcome.next (if_neg (by rw [h]; decide)),
    fun h => ⟨_, congrArg Host.Outcome.next (if_pos h), State.converted_spec vin.isLt iin.isLt⟩, fun h => congrArg Host.Outcome.next (if_pos h), fun h => ?_⟩
  obtain ⟨v, hv⟩ : ∃ v, v = s.minuteKept good := ⟨_, rfl⟩
  have hregs : OnlyRegs [.poweredHours, .vcore] s v := fun n i j _ => by rw [hv]; rfl
  have hminutes : v.power.minutes = s.power.minutes + 1 := by rw [hv]; rfl
  have hup : v.voltOp = s.voltOp := by rw [hv]; rfl
  have hcol : v.fget F.vcore_AGE_COL = s.fget F.vcore_AGE_COL := by rw [hv]; rfl
  obtain ⟨hnvs, hlen⟩ := s.minuteKept_nvs good
  rw [← hv] at hnvs hlen
  obtain ⟨hhours, hshow, hage, hmv⟩ := v.showHours_spec
  obtain ⟨hge, hle, -, hmile⟩ := v.ageColumn_spec
  have hpow : v.showHours.power = v.power := Keeps.power (State.showHours_keeps (.rfl' { Touch.all with power := false } v)) rfl
  have hboot : v.showHours.boot = v.boot := Keeps.boot (State.showHours_keeps (.rfl' { Touch.all with boot := false } v)) rfl
  refine ⟨_, (execPoweredMinute_valid h).trans (by rw [← hv]), by rw [hpow, hminutes], by rw [hhours, hminutes],
    fun n i j hn => (hshow n i j hn).trans (hregs n i j hn), fun hg => by rw [hboot]; exact hnvs hg, by rw [hboot]; exact hlen, fun h4 => ?_, fun hne => ?_⟩
  · rw [hage, ← hcol]
    refine ⟨hge, hle (by rw [hcol]; exact h4), fun a ha1 ha4 hm => hmile a ha1 ha4 ?_⟩
    rw [hminutes]
    exact hm
  · rw [hmv (by rw [← hage, hcol]; exact hne), hup]

end

/-- Settles O47: each step of a transition acts in its place, and a minute of powered time moves the hours and the ageing column. -/
theorem transitionsConversionsAndHours : Obligations.TransitionsConversionsAndHours := by
  unfold Obligations.TransitionsConversionsAndHours
  exact ⟨transitions, conversionsAndHours⟩

end Sys2Proof.Machine
end

section
/-!
PROOF. Fault messages as units send them (R502), and a cap that cannot be met, with the input limiter (R459, R460).
-/

set_option Elab.async false
set_option exponentiation.threshold 4096
set_option maxRecDepth 20000

namespace Sys2Proof.Machine

section
variable (s : State)

/-! ## Fault messages (R502, R516) -/

/-- A report once its unit's mask set has started, where its severity asks for one. -/
def State.masked (s : State) (src kind : Nat) : State :=
  let masks := decide (sevOf src kind = 2) && (privIx src).isNone && decide (src ≠ srcBist) && !s.squall.masks.any (fun m => m.covers src kind)
  s.when masks (fun s => s.startMask (safeMask src kind ((s.portOfLane src).getD (src, 1)).1 ((s.portOfLane src).getD (src, 1)).2))

theorem State.masked_flight (src kind : Nat) : (s.masked src kind).squall.flight = s.squall.flight := by
  unfold State.masked State.when
  dsimp only
  split <;> rfl

/-- Messages of a source in flight. -/
def State.inFlight (s : State) (src : Nat) : Nat := (s.squall.flight.filter (fun m => decide (m.source = src))).length

theorem State.report_sent {src : Nat} (kind addr : Nat) (h : s.inFlight src < 4) :
    ∃ own, (s.report src kind addr).squall.flight = s.squall.flight ++
      [{ source := src, kind := kind, sev := sevOf src kind, addr := addr % 2 ^ 48, stamp := s.stamp, safe := decide (sevOf src kind = 2), own := own }] := by
  obtain ⟨v, hv⟩ : ∃ v, v = s.masked src kind := ⟨_, rfl⟩
  have hflight : v.squall.flight = s.squall.flight := hv ▸ s.masked_flight src kind
  have hroom : (v.squall.flight.filter (fun m => decide (m.source = src))).length < 4 := by rw [hflight]; exact h
  obtain ⟨own, hown⟩ : ∃ own, s.report src kind addr = if (v.squall.flight.filter (fun m => decide (m.source = src))).length < 4 then
      { v with squall := { v.squall with flight := v.squall.flight ++
        [{ source := src, kind := kind, sev := sevOf src kind, addr := addr % 2 ^ 48, stamp := s.stamp, safe := decide (sevOf src kind = 2), own := own }] } }
      else (v.bump .cntMsgLost).setPend src := by
    rw [hv]
    exact ⟨_, rfl⟩
  refine ⟨own, ?_⟩
  rw [hown, if_pos hroom, ← hflight]

/-- A message that meets four of its source in flight is lost and counted, and PEND is set. -/
theorem State.report_lost {src : Nat} (kind addr : Nat) (h : 4 ≤ s.inFlight src) :
    s.report src kind addr = ((s.masked src kind).bump .cntMsgLost).setPend src := by
  have hfull : ¬((s.masked src kind).squall.flight.filter (fun m => decide (m.source = src))).length < 4 := by
    rw [s.masked_flight]
    exact not_lt.mpr h
  exact if_neg hfull

/-! ## The clock at OP7 (R459, R460, R463) -/

theorem State.toOp7_spec : s.toOp7.curOp = 7 ∧ s.toOp7.power.up = none ∧ OnlyRegs [.pwrStatus] s s.toOp7 ∧
    (∀ f : Fld, 2 < f.lo → f.hi < 7 ∨ 7 < f.lo → ∀ i j, s.toOp7.fget f i j = s.fget f i j) ∧ s.toOp7.power.grace = s.power.grace ∧
    s.toOp7.power.unmetStay = s.power.unmetStay := by
  unfold State.toOp7
  split
  · next h =>
    obtain ⟨h7, hup⟩ := h
    exact ⟨h7, hup, .refl _ s, fun _ _ _ _ _ => rfl, rfl, rfl⟩
  · obtain ⟨hop, -, hregs, hother, hpower⟩ := s.stepDown_spec (k := 7) (by decide)
    exact ⟨hop, by rw [hpower], hregs, hother, by rw [hpower], by rw [hpower]⟩

/-! ## The grace period's end (R459) -/

/-- The state at the grace period's end. -/
def State.graceOver (s : State) : State := { s with power := { s.power with grace := false } }

theorem State.graceEnd_stays (h : s.flag F.pwrCfg_UNMET_ACT = true) : s.graceEnd =
    { s.graceOver.report srcPwr 0x31 0 with power := { s.graceOver.power with unmetStay := true } } := if_pos h

theorem State.graceEnd_resets (h : s.flag F.pwrCfg_UNMET_ACT = false) : s.graceEnd = s.graceOver.requestReset 5 2 := if_neg (by rw [h]; decide)

/-- The grace period's end leaves PWR_STATUS. -/
theorem State.graceEnd_status : s.graceEnd.rd .pwrStatus = s.rd .pwrStatus :=
  (State.graceEnd_keeps (.rfl' (.avoid [.pwrStatus]) s)).rd .pwrStatus 0 0 rfl

theorem State.report_boot (a b c : Nat) : (s.report a b c).boot = s.boot :=
  (State.report_keeps (.rfl' { Touch.all with boot := false } s) a b c).boot rfl

theorem State.graceEnd_unmetAct (h : s.flag F.pwrCfg_UNMET_ACT = true) : s.graceEnd.boot = s.boot ∧ s.graceEnd.power.unmetStay = true ∧
    s.graceEnd.power.grace = false ∧ (s.inFlight srcPwr < 4 → ∃ m, s.graceEnd.squall.flight = s.squall.flight ++ [m] ∧ m.source = srcPwr) := by
  rw [s.graceEnd_stays h]
  refine ⟨s.graceOver.report_boot _ _ _, rfl, rfl, fun hroom => ?_⟩
  obtain ⟨own, hown⟩ := s.graceOver.report_sent 0x31 0 (src := srcPwr) hroom
  exact ⟨_, hown, rfl⟩

theorem State.graceEnd_reset (h : s.flag F.pwrCfg_UNMET_ACT = false) : s.graceEnd.boot.resetDue = true ∧ s.graceEnd.boot.hzNext = 2 ∧
    s.graceEnd.squall = s.squall ∧ s.graceEnd.power.grace = false := by
  rw [s.graceEnd_resets h]
  exact ⟨rfl, rfl, rfl, rfl⟩

/-! ## CAP_UNMET (R459) -/

/-- CAP_UNMET is raised, and counted. -/
theorem State.raiseUnmet_spec (eff : Nat) : (s.raiseUnmet eff).curOp = 7 ∧ (s.raiseUnmet eff).flag F.pwrStatus_CAP_UNMET = true ∧
    (s.raiseUnmet eff).rdw .cntCapUnmet = s.rdw .cntCapUnmet + 1#64 ∧ (s.raiseUnmet eff).power.grace = true ∧
    OnlyRegs [.pwrStatus] s (s.raiseUnmet eff) ∧ (s.raiseUnmet eff).boot = s.boot ∧ (s.raiseUnmet eff).squall = s.squall := by
  obtain ⟨hop, -, hregs, -, -, -⟩ := s.toOp7_spec
  have hcnt : s.toOp7.rdw .cntCapUnmet = s.rdw .cntCapUnmet := (State.toOp7_keeps (.rfl' (.avoid [.cntCapUnmet]) s)).rdw .cntCapUnmet 0 0 rfl
  obtain ⟨w, hw⟩ : ∃ w, w = s.toOp7.fset F.pwrStatus_CAP_UNMET 1 := ⟨_, rfl⟩
  have hwo : w.curOp = 7 := hw ▸ (fget_fset_off s.toOp7 (f := F.pwrStatus_CAP_UNMET) (g := F.pwrStatus_CUR_OP) 1 0 0 0 0 (by decide) (by decide)
    fun _ => .inr (by decide)).trans hop
  have hwc : w.flag F.pwrStatus_CAP_UNMET = true := hw ▸ flag_fset_one s.toOp7 F.pwrStatus_CAP_UNMET 0 0 rfl (by decide)
  have hwr : OnlyRegs [.pwrStatus] s w := hw ▸ hregs.fset 1 0 0 (f := F.pwrStatus_CAP_UNMET) (by decide)
  have hww : w.rdw .cntCapUnmet = s.rdw .cntCapUnmet := by rw [hw, rdw_fset, hcnt]
  have heq : s.raiseUnmet eff = { (w.bump .cntCapUnmet).post 0x0802 (1 + eff * 65536) with
      power := { ((w.bump .cntCapUnmet).post 0x0802 (1 + eff * 65536)).power with grace := true } } := by rw [hw]; rfl
  obtain ⟨x, hx⟩ : ∃ x, x = (w.bump .cntCapUnmet).post 0x0802 (1 + eff * 65536) := ⟨_, rfl⟩
  have hxr : ∀ n i j, x.rd n i j = w.rd n i j := fun n i j => by rw [hx, State.post_rd, State.bump_rd]
  have hxw : x.rdw .cntCapUnmet = w.rdw .cntCapUnmet + 1#64 := by
    rw [hx, (State.post_keeps (.rfl' (.avoid [.cntCapUnmet]) _) _ _).rdw .cntCapUnmet 0 0 rfl, rdw_bump_same]
  have hkeep : Keeps { Touch.all with boot := false, squall := false } s (s.raiseUnmet eff) := State.raiseUnmet_keeps (.rfl' _ s) eff
  refine ⟨?_, ?_, ?_, ?_, ?_, hkeep.boot rfl, hkeep.squall rfl⟩
  all_goals rw [heq, ← hx]
  · exact (congrArg (fun y : Word => bits y.toNat 2 0) (hxr .pwrStatus 0 0)).trans hwo
  · exact (congrArg (fun y : Word => decide (bits y.toNat 4 4 = 1)) (hxr .pwrStatus 0 0)).trans hwc
  · exact hxw.trans (by rw [hww])
  · exact fun n i j hn => (hxr n i j).trans (hwr n i j hn)

/-! ## A window end with a cap that cannot be met -/

/-- OP7 with CAP_UNMET just raised, and SLOW_CAUSE and THROTTLED shown. -/
def State.unmetRaised (s : State) (eff : Nat) : State := (s.raiseUnmet eff).throttle true

theorem State.unmetRaised_spec (eff : Nat) : (s.unmetRaised eff).curOp = 7 ∧ (s.unmetRaised eff).flag F.pwrStatus_CAP_UNMET = true ∧
    (s.unmetRaised eff).rdw .cntCapUnmet = s.rdw .cntCapUnmet + 1#64 ∧ (s.unmetRaised eff).power.grace = true ∧
    OnlyRegs [.pwrStatus] s (s.unmetRaised eff) ∧ (s.unmetRaised eff).boot = s.boot ∧ (s.unmetRaised eff).squall = s.squall := by
  obtain ⟨hop, hcap, hcnt, hgrace, hregs, hboot, hsq⟩ := s.raiseUnmet_spec eff
  have hkeep : Keeps { Touch.all with boot := false, squall := false } (s.raiseUnmet eff) (s.unmetRaised eff) := State.throttle_keeps (.rfl' _ _) true
  have hcount : (s.unmetRaised eff).rdw .cntCapUnmet = (s.raiseUnmet eff).rdw .cntCapUnmet :=
    (State.throttle_keeps (.rfl' (.avoid [.cntCapUnmet]) (s.raiseUnmet eff)) true).rdw .cntCapUnmet 0 0 rfl
  have hpow : (s.unmetRaised eff).power = (s.raiseUnmet eff).power := State.throttle_power _ _
  exact ⟨(State.throttle_curOp _ _).trans hop, (State.throttle_flag _ _ _ 0 0 (.inr (.inl (by decide)))).trans hcap, hcount.trans hcnt,
    by rw [hpow, hgrace], fun n i j hn => (State.throttle_onlyRegs _ _ n i j hn).trans (hregs n i j hn), (hkeep.boot rfl).trans hboot,
    (hkeep.squall rfl).trans hsq⟩

variable {s} {vin iin p uj : Nat}

section
variable (hm : Measured s (s.measure vin iin p uj) vin iin p uj) (hz : s.hz = false) (hc : s.power.coreOn = true) (hu : s.unusableBlk 6 = false)
include hm hz hc hu

theorem State.windowEnd_raises (hcap : s.flag F.pwrStatus_CAP_UNMET = false) (h : s.unmet p (s.capEff vin) = true) : s.windowEnd vin iin p uj =
    if s.fget F.pwrCfg_GRACE_MS = 0 then ((s.measure vin iin p uj).unmetRaised (s.capEff vin)).graceEnd
    else (s.measure vin iin p uj).unmetRaised (s.capEff vin) := by
  have h1 : (s.measure vin iin p uj).flag F.pwrStatus_CAP_UNMET = false := (hm.regs.flag F.pwrStatus_CAP_UNMET 0 0 (by decide)).trans hcap
  have h2 : (s.measure vin iin p uj).unmet p ((s.measure vin iin p uj).capEff vin) = true := by rw [hm.capEff, hm.unmet, h]
  refine (if_neg (hm.active hz hc hu)).trans ((if_neg (by rw [h1]; decide)).trans ((if_pos h2).trans ?_))
  rw [← hm.capEff, ← hm.regs.fget F.pwrCfg_GRACE_MS 0 0 (by decide)]
  rfl

theorem State.windowEnd_recovers (hcap : s.flag F.pwrStatus_CAP_UNMET = true) (hg : s.power.grace = true) (h : s.unmet p (s.capEff vin) = false) :
    ∃ code, s.windowEnd vin iin p uj = (((s.measure vin iin p uj).fset F.pwrStatus_CAP_UNMET 0).post 0x0802 code).graceOver := by
  have h1 : (s.measure vin iin p uj).flag F.pwrStatus_CAP_UNMET = true := (hm.regs.flag F.pwrStatus_CAP_UNMET 0 0 (by decide)).trans hcap
  have h2 : (s.measure vin iin p uj).unmet p ((s.measure vin iin p uj).capEff vin) = false := by rw [hm.capEff, hm.unmet, h]
  have h3 : (s.measure vin iin p uj).power.grace = true := by rw [hm.power]; exact hg
  exact ⟨_, (if_neg (hm.active hz hc hu)).trans ((if_pos h1).trans (if_pos ⟨h3, h2⟩))⟩

theorem State.windowEnd_stays (hcap : s.flag F.pwrStatus_CAP_UNMET = true) (hg : s.power.grace = false) :
    s.windowEnd vin iin p uj = (s.measure vin iin p uj).toOp7.throttle true := by
  have h1 : (s.measure vin iin p uj).flag F.pwrStatus_CAP_UNMET = true := (hm.regs.flag F.pwrStatus_CAP_UNMET 0 0 (by decide)).trans hcap
  have h3 : ¬(s.measure vin iin p uj).power.grace = true := by rw [hm.power, hg]; decide
  exact (if_neg (hm.active hz hc hu)).trans ((if_pos h1).trans (if_neg fun h => h3 h.1))
end

theorem State.unmet_iff (eff : Nat) : s.unmet p eff = true ↔ eff < 520 ∨ (s.curOp = 7 ∧ eff < p) := by
  unfold State.unmet
  rw [Bool.or_eq_true, Bool.and_eq_true, decide_eq_true_iff, decide_eq_true_iff, decide_eq_true_iff]

theorem State.met_of {eff : Nat} (h : 520 ≤ eff) (h7 : s.curOp = 7 → p ≤ eff) : s.unmet p eff = false :=
  Bool.eq_false_iff.mpr fun hu => ((s.unmet_iff eff).mp hu).elim (fun h' => by omega) fun h' => by have := h7 h'.1; omega

/-- The recovered cap. -/
theorem State.recovered_spec (m : State) (code : Nat) :
    ((m.fset F.pwrStatus_CAP_UNMET 0).post 0x0802 code).graceOver.flag F.pwrStatus_CAP_UNMET = false ∧
    ((m.fset F.pwrStatus_CAP_UNMET 0).post 0x0802 code).graceOver.power.grace = false ∧
    ((m.fset F.pwrStatus_CAP_UNMET 0).post 0x0802 code).graceOver.curOp = m.curOp := by
  obtain ⟨w, hw⟩ : ∃ w, w = m.fset F.pwrStatus_CAP_UNMET 0 := ⟨_, rfl⟩
  have hcap : w.flag F.pwrStatus_CAP_UNMET = false := hw ▸ flag_fset_none m F.pwrStatus_CAP_UNMET 0 0 rfl (by decide)
  have hop : w.curOp = m.curOp := hw ▸ fget_fset_off m (f := F.pwrStatus_CAP_UNMET) (g := F.pwrStatus_CUR_OP) 0 0 0 0 0 (by decide) (by decide)
    fun _ => .inr (by decide)
  rw [← hw]
  refine ⟨?_, rfl, (w.post_fget 0x0802 code F.pwrStatus_CUR_OP 0 0).trans hop⟩
  refine Eq.trans ?_ hcap
  exact congrArg (fun x : Nat => decide (x = 1)) (w.post_fget 0x0802 code F.pwrStatus_CAP_UNMET 0 0)

/-- OP7 kept while the cap stays unmet. -/
theorem State.kept_spec (m : State) : (m.toOp7.throttle true).flag F.pwrStatus_CAP_UNMET = m.flag F.pwrStatus_CAP_UNMET ∧ (m.toOp7.throttle true).curOp = 7 := by
  obtain ⟨hop, -, -, hother, -, -⟩ := m.toOp7_spec
  refine ⟨(State.throttle_flag _ _ _ 0 0 (.inr (.inl (by decide)))).trans ?_, (State.throttle_curOp _ _).trans hop⟩
  exact congrArg (fun x : Nat => decide (x = 1)) (hother F.pwrStatus_CAP_UNMET (by decide) (by decide) 0 0)

theorem windowEnd_unmet {vin iin : Fin 65536} {p : Fin 4096} (hz : s.hz = false) (hc : s.power.coreOn = true) (hu : s.unusableBlk 6 = false) :
    (s.flag F.pwrStatus_CAP_UNMET = false → s.capEff vin < 520 ∨ (s.curOp = 7 ∧ s.capEff vin < p.val) → ∃ u, exec (.powerWindowEnd vin iin p uj) s = .next u ∧
       u.curOp = 7 ∧ u.flag F.pwrStatus_CAP_UNMET = true ∧ u.rdw .cntCapUnmet = s.rdw .cntCapUnmet + 1#64 ∧
       (s.fget F.pwrCfg_GRACE_MS ≠ 0 → u.power.grace = true ∧ u.boot = s.boot ∧ u.squall = s.squall) ∧
       (s.fget F.pwrCfg_GRACE_MS = 0 → s.flag F.pwrCfg_UNMET_ACT = false → u.boot.resetDue = true ∧ u.boot.hzNext = 2)) ∧
     (s.flag F.pwrStatus_CAP_UNMET = true → s.power.grace = true → 520 ≤ s.capEff vin → (s.curOp = 7 → p.val ≤ s.capEff vin) →
       ∃ u, exec (.powerWindowEnd vin iin p uj) s = .next u ∧ u.flag F.pwrStatus_CAP_UNMET = false ∧ u.power.grace = false ∧ u.curOp = s.curOp) ∧
     (s.flag F.pwrStatus_CAP_UNMET = true → s.power.grace = false → ∃ u, exec (.powerWindowEnd vin iin p uj) s = .next u ∧
       u.flag F.pwrStatus_CAP_UNMET = true ∧ u.curOp = 7) := by
  have hm := s.measured uj vin.isLt iin.isLt p.isLt
  refine ⟨fun hcap h => ?_, fun hcap hg h520 h7 => ?_, fun hcap hg => ?_⟩
  · obtain ⟨hop, hunmet, hcnt, hgrace, hregs, hboot, hsq⟩ := (s.measure vin iin p uj).unmetRaised_spec (s.capEff vin)
    have hcnt' := hm.wide .cntCapUnmet 0 0 (by decide)
    have hend := State.windowEnd_raises hm hz hc hu hcap ((s.unmet_iff _).mpr h)
    obtain ⟨v, hv⟩ : ∃ v, v = (s.measure vin iin p uj).unmetRaised (s.capEff vin) := ⟨_, rfl⟩
    rw [← hv] at hop hunmet hcnt hgrace hregs hboot hsq hend
    by_cases hg : s.fget F.pwrCfg_GRACE_MS = 0
    · rw [if_pos hg] at hend
      have hact : v.flag F.pwrCfg_UNMET_ACT = s.flag F.pwrCfg_UNMET_ACT :=
        (hregs.flag F.pwrCfg_UNMET_ACT 0 0 (by decide)).trans (hm.regs.flag F.pwrCfg_UNMET_ACT 0 0 (by decide))
      have hcount : v.graceEnd.rdw .cntCapUnmet = v.rdw .cntCapUnmet :=
        (State.graceEnd_keeps (.rfl' (.avoid [.cntCapUnmet]) v)).rdw .cntCapUnmet 0 0 rfl
      refine ⟨_, congrArg Host.Outcome.next hend, (congrArg (fun w : Word => bits w.toNat 2 0) v.graceEnd_status).trans hop,
        (congrArg (fun w : Word => decide (bits w.toNat 4 4 = 1)) v.graceEnd_status).trans hunmet, hcount.trans (hcnt.trans (by rw [hcnt'])),
        fun hne => absurd hg hne, fun _ ha => ?_⟩
      obtain ⟨hdue, hnext, -, -⟩ := v.graceEnd_reset (hact.trans ha)
      exact ⟨hdue, hnext⟩
    · rw [if_neg hg] at hend
      exact ⟨_, congrArg Host.Outcome.next hend, hop, hunmet, hcnt.trans (by rw [hcnt']), fun _ => ⟨hgrace, hboot.trans hm.boot, hsq.trans hm.squall⟩,
        fun hz' => absurd hz' hg⟩
  · obtain ⟨code, hcode⟩ := State.windowEnd_recovers hm hz hc hu hcap hg (s.met_of h520 h7)
    obtain ⟨h1, h2, h3⟩ := (s.measure vin iin p uj).recovered_spec code
    exact ⟨_, congrArg Host.Outcome.next hcode, h1, h2, h3.trans hm.curOp⟩
  · obtain ⟨h1, h2⟩ := (s.measure vin iin p uj).kept_spec
    exact ⟨_, congrArg Host.Outcome.next (State.windowEnd_stays hm hz hc hu hcap hg),
      h1.trans ((hm.regs.flag F.pwrStatus_CAP_UNMET 0 0 (by decide)).trans hcap), h2⟩

/-! ## The limiter and the holds (R457, R460) -/

/-- OP7 and the hold of the limiter. -/
def State.limited (s : State) : State := (s.toOp7.fset F.pwrStatus_LIMIT_HOLD 1).throttleNow

theorem State.limited_spec : s.limited.curOp = 7 ∧ s.limited.power.up = none ∧ s.limited.flag F.pwrStatus_LIMIT_HOLD = true ∧
    s.limited.rdw .cntLimit = s.rdw .cntLimit ∧ s.limited.squall = s.squall := by
  obtain ⟨hop, hup, -, -, -, -⟩ := s.toOp7_spec
  obtain ⟨w, hw⟩ : ∃ w, w = s.toOp7.fset F.pwrStatus_LIMIT_HOLD 1 := ⟨_, rfl⟩
  have hwo : w.curOp = 7 := hw ▸ (fget_fset_off s.toOp7 (f := F.pwrStatus_LIMIT_HOLD) (g := F.pwrStatus_CUR_OP) 1 0 0 0 0 (by decide) (by decide)
    fun _ => .inr (by decide)).trans hop
  have hwh : w.flag F.pwrStatus_LIMIT_HOLD = true := hw ▸ flag_fset_one s.toOp7 F.pwrStatus_LIMIT_HOLD 0 0 rfl (by decide)
  have hwp : w.power = s.toOp7.power := hw ▸ s.toOp7.fset_power ..
  have hkeep : Keeps { Touch.avoid [.cntLimit] with squall := false } s s.limited :=
    State.throttleNow_keeps (State.fset_keeps (State.toOp7_keeps (.rfl' _ s)) F.pwrStatus_LIMIT_HOLD 1 0 0)
  have heq : s.limited = w.throttleNow := by rw [hw]; rfl
  refine ⟨?_, ?_, ?_, hkeep.rdw .cntLimit 0 0 rfl, hkeep.squall rfl⟩
  all_goals rw [heq, State.throttleNow]
  · exact (w.throttle_curOp _).trans hwo
  · rw [State.throttle_power, hwp, hup]
  · exact (w.throttle_flag _ _ 0 0 (.inr (.inl (by decide)))).trans hwh

theorem execCurrentLimitCrossing_limits (peak : Nat) (hz : s.hz = false) (hc : s.power.coreOn = true) :
    execCurrentLimitCrossing peak s = .next (((s.limited.bump .cntLimit).report srcPwr 0x30 0).post 0x0803 (peak % 65536)) := by
  have hif : (if s.hz || !s.power.coreOn then s else (s.toOp7.fset F.pwrStatus_LIMIT_HOLD 1).throttleNow) = s.limited :=
    if_neg (by rw [hz, hc]; decide)
  rw [← hif]
  rfl

/-- The message and the event of a crossing leave the controller. -/
theorem State.crossed_keeps (m : State) (e : Nat) :
    Keeps { Touch.avoid [.pwrStatus, .cntLimit] with power := false } m ((m.report srcPwr 0x30 0).post 0x0803 e) :=
  State.post_keeps (State.report_keeps (.rfl' _ m) _ _ _) _ _

theorem State.post_squall (m : State) (a b : Nat) : (m.post a b).squall = m.squall :=
  (State.post_keeps (.rfl' { Touch.all with squall := false } m) a b).squall rfl

/-- A hold's end shows THROTTLED anew. -/
theorem State.holdEnds_spec (F' : Fld) (hreg : F'.reg = .pwrStatus) (hlo : F'.lo = F'.hi) (hrange : 4 ≤ F'.lo ∧ F'.hi < 8) :
    (s.fset F' 0).throttleNow.flag F' = false ∧ (s.fset F' 0).throttleNow.curOp = s.curOp ∧ OnlyRegs [.pwrStatus] s (s.fset F' 0).throttleNow := by
  have hlow : (s.fset F' 0).flag F' = false := flag_fset_none s F' 0 0 hlo (by omega)
  have hop : (s.fset F' 0).curOp = s.curOp := fget_fset_off s (f := F') (g := F.pwrStatus_CUR_OP) 0 0 0 0 0 (by omega) (by omega) fun _ => .inr (by
    show 2 < F'.lo
    omega)
  have hregs : OnlyRegs [.pwrStatus] s (s.fset F' 0) := (OnlyRegs.refl _ s).fset 0 0 0 (f := F') (by rw [hreg]; decide)
  exact ⟨((s.fset F' 0).throttle_flag _ F' 0 0 (.inr (.inl ⟨by omega, hrange.2⟩))).trans hlow, (State.throttle_curOp _ _).trans hop,
    fun n i j hn => (State.throttle_onlyRegs _ _ n i j hn).trans (hregs n i j hn)⟩

theorem capUnmetAndLimiter : Claims.CapUnmetAndLimiter := by
  unfold Claims.CapUnmetAndLimiter
  intro s vin iin peak p uj hz hc
  refine ⟨fun hu => windowEnd_unmet hz hc hu, fun h => congrArg Host.Outcome.next (if_neg (by rw [h]; decide)), fun h => ?_, ?_,
    fun h => congrArg Host.Outcome.next (if_neg (by rw [h]; decide)), fun h => ⟨_, congrArg Host.Outcome.next (if_pos h), rfl, rfl⟩,
    ⟨_, rfl, State.holdEnds_spec F.pwrStatus_LIMIT_HOLD rfl rfl (by decide)⟩, ⟨_, rfl, State.holdEnds_spec F.pwrStatus_STARTUP rfl rfl (by decide)⟩⟩
  · refine ⟨_, congrArg Host.Outcome.next (if_pos h), ?_, s.graceEnd_status, fun ha => ?_, fun ha => ?_⟩
    · cases ha : s.flag F.pwrCfg_UNMET_ACT with
      | true => exact (s.graceEnd_unmetAct ha).2.2.1
      | false => exact (s.graceEnd_reset ha).2.2.2
    · obtain ⟨hdue, hnext, hsq, -⟩ := s.graceEnd_reset ha
      exact ⟨hdue, hnext, hsq⟩
    · obtain ⟨hboot, hstay, -, hmsg⟩ := s.graceEnd_unmetAct ha
      exact ⟨hboot, hstay, hmsg⟩
  · obtain ⟨hop, hup, hhold, hcnt, hsq⟩ := s.limited_spec
    obtain ⟨v, hv⟩ : ∃ v, v = s.limited.bump .cntLimit := ⟨_, rfl⟩
    have hvr : ∀ n i j, v.rd n i j = s.limited.rd n i j := fun n i j => by rw [hv, State.bump_rd]
    have hvc : v.rdw .cntLimit = s.rdw .cntLimit + 1#64 := by rw [hv, rdw_bump_same, hcnt]
    have hvp : v.power = s.limited.power := by rw [hv, State.bump_power]
    have hvs : v.squall = s.squall := by rw [hv, State.bump_squall, hsq]
    have hkeep := v.crossed_keeps (peak.val % 65536)
    refine ⟨_, (execCurrentLimitCrossing_limits peak hz hc).trans (by rw [← hv]), ?_, by rw [hkeep.power rfl, hvp, hup], ?_,
      (hkeep.rdw .cntLimit 0 0 rfl).trans hvc, fun hroom => ?_⟩
    · exact (hkeep.fget F.pwrStatus_CUR_OP 0 0 rfl).trans ((congrArg (fun w : Word => bits w.toNat 2 0) (hvr .pwrStatus 0 0)).trans hop)
    · exact (hkeep.flag F.pwrStatus_LIMIT_HOLD 0 0 rfl).trans ((congrArg (fun w : Word => decide (bits w.toNat 6 6 = 1)) (hvr .pwrStatus 0 0)).trans hhold)
    · obtain ⟨own, hown⟩ := v.report_sent 0x30 0 (src := srcPwr) (by rw [State.inFlight, hvs]; exact hroom)
      exact ⟨_, by rw [State.post_squall, hown, hvs], rfl⟩

end
end Sys2Proof.Machine
end

section
/-!
PROOF. Sensors, the thermal conditions and the trip (R453, R463).
-/

set_option Elab.async false
set_option exponentiation.threshold 4096
set_option maxRecDepth 20000

namespace Sys2Proof.Machine

/-! ## The band of a temperature (R452, R453) -/

theorem bandOf_le {t : Int} {b : Nat} (h : t < 15 * ((b : Int) + 1) ∨ b = 6) : bandOf t ≤ b := by
  unfold bandOf
  split <;> omega

theorem lt_bandOf {t : Int} {b : Nat} (h6 : b < 6) (h : 15 * ((b : Int) + 1) ≤ t) : b < bandOf t := by
  unfold bandOf
  split <;> omega

theorem bandOf_le_six (t : Int) : bandOf t ≤ 6 := by
  unfold bandOf
  split <;> omega

/-- A reading leaves the band no higher than it was or than the temperature's own. -/
theorem bandNext_le (t : Int) (b : Nat) : bandNext t b ≤ max b (bandOf t) := by
  induction b with
  | zero => exact le_max_right _ _
  | succ b ih =>
    unfold bandNext
    split
    · exact le_max_right _ _
    · split
      · omega
      · exact le_max_left _ _

theorem bandOf_le_bandNext (t : Int) (b : Nat) : bandOf t ≤ bandNext t b := by
  induction b with
  | zero => exact le_rfl
  | succ b ih =>
    unfold bandNext
    split
    · exact le_rfl
    · split
      · exact ih
      · omega

theorem bandNext_spec (t : Int) (b : Nat) : ((t < 15 * ((b : Int) + 1) ∨ b = 6) → bandNext t b ≤ b) ∧
    (b < 6 → 15 * ((b : Int) + 1) ≤ t → b < bandNext t b) ∧
    (0 < b → b < 7 → (15 * (b : Int) - 3 < t → b ≤ bandNext t b) ∧ (t ≤ 15 * (b : Int) - 3 → bandNext t b < b)) := by
  have hle := bandNext_le t b
  have hge := bandOf_le_bandNext t b
  refine ⟨fun h => ?_, fun h6 h => (lt_bandOf h6 h).trans_le hge, fun hpos h7 => ?_⟩
  · have := bandOf_le h
    omega
  · obtain ⟨a, rfl⟩ : ∃ a, b = a + 1 := ⟨b - 1, by omega⟩
    refine ⟨fun h => ?_, fun h => ?_⟩
    · unfold bandNext
      split
      · assumption
      · rw [if_neg (by push_cast at h ⊢; omega)]
    · have hlow : bandOf t ≤ a := bandOf_le (.inl (by push_cast at h; omega))
      have hdown := bandNext_le t a
      unfold bandNext
      rw [if_neg (by omega), if_pos (by push_cast at h ⊢; omega)]
      omega

/-! ## The hottest sensor (R463) -/

/-- One sensor in the search for the hottest: `read` answers a valid sensor's temperature. -/
def hotterOf (read : Nat → Option Int) (b : Option (Nat × Int)) (k : Nat) : Option (Nat × Int) :=
  match read k with
  | some t => (match b with
    | some (_, u) => if u < t then some (k, t) else b
    | none => some (k, t))
  | none => b

/-- The hottest of the first `n` sensors. -/
def hottestOf (read : Nat → Option Int) (n : Nat) : Option (Nat × Int) := (List.range n).foldl (hotterOf read) none

theorem hottestOf_succ (read : Nat → Option Int) (n : Nat) : hottestOf read (n + 1) = hotterOf read (hottestOf read n) n := by
  unfold hottestOf
  rw [List.range_succ, List.foldl_append]
  rfl

theorem hottestOf_spec (read : Nat → Option Int) (n : Nat) :
    (hottestOf read n = none → ∀ i < n, read i = none) ∧
    ∀ k t, hottestOf read n = some (k, t) → k < n ∧ read k = some t ∧ ∀ i < n, ∀ v, read i = some v → v ≤ t := by
  induction n with
  | zero => exact ⟨fun _ i h => absurd h (Nat.not_lt_zero i), fun k t h => Option.noConfusion rfl (heq_of_eq h)⟩
  | succ n ih =>
    obtain ⟨ihn, ihs⟩ := ih
    rw [hottestOf_succ]
    unfold hotterOf
    cases hr : read n with
    | none =>
      refine ⟨fun h i hi => ?_, fun k t h => ?_⟩
      · rcases Nat.lt_succ_iff_lt_or_eq.mp hi with hlt | rfl
        · exact ihn h i hlt
        · exact hr
      · obtain ⟨h1, h2, h3⟩ := ihs k t h
        refine ⟨by omega, h2, fun i hi v hv => ?_⟩
        rcases Nat.lt_succ_iff_lt_or_eq.mp hi with hlt | rfl
        · exact h3 i hlt v hv
        · rw [hr] at hv
          cases hv
    | some x =>
      dsimp only
      cases hb : hottestOf read n with
      | none =>
        refine ⟨fun h => (nomatch h), fun k t h => ?_⟩
        cases h
        refine ⟨by omega, hr, fun i hi v hv => ?_⟩
        rcases Nat.lt_succ_iff_lt_or_eq.mp hi with hlt | rfl
        · rw [ihn hb i hlt] at hv
          cases hv
        · rw [hr] at hv
          cases hv
          exact le_rfl
      | some y =>
        obtain ⟨k0, t0⟩ := y
        obtain ⟨h1, h2, h3⟩ := ihs k0 t0 hb
        dsimp only
        split
        · next hlt =>
          refine ⟨fun h => (nomatch h), fun k t h => ?_⟩
          cases h
          refine ⟨by omega, hr, fun i hi v hv => ?_⟩
          rcases Nat.lt_succ_iff_lt_or_eq.mp hi with hi' | rfl
          · exact (h3 i hi' v hv).trans (le_of_lt hlt)
          · rw [hr] at hv
            cases hv
            exact le_rfl
        · next hnlt =>
          refine ⟨fun h => (nomatch h), fun k t h => ?_⟩
          cases h
          refine ⟨by omega, h2, fun i hi v hv => ?_⟩
          rcases Nat.lt_succ_iff_lt_or_eq.mp hi with hi' | rfl
          · exact h3 i hi' v hv
          · rw [hr] at hv
            cases hv
            exact not_lt.mp hnlt

section
variable (s : State)

/-- A valid sensor's temperature. -/
def State.sensorRead (s : State) (k : Nat) : Option Int := if s.flag F.temp_VALID k then some (toSigned 8 (s.fget F.temp_DEG_C k)) else none

theorem State.hottest_eq : s.hottest = hottestOf s.sensorRead 72 := by
  unfold State.hottest hottestOf
  congr 1
  funext b k
  unfold hotterOf State.sensorRead
  cases s.flag F.temp_VALID k with
  | true => rfl
  | false => rfl

/-! ## The thermal conditions (R463) -/

/-- THROTTLING after a reading. -/
def State.throttled (s : State) : State :=
  if s.throttleC ≤ s.tjHot ∧ s.flag F.thermStatus_THROTTLING = false then (s.fset F.thermStatus_THROTTLING 1).evTherm 1
  else if decide (s.tjHot < s.throttleC - 5) = true ∧ s.flag F.thermStatus_THROTTLING = true then (s.fset F.thermStatus_THROTTLING 0).evTherm 0
  else s

theorem State.evTherm_fget (e : Nat) (f : Fld) (i j : Nat) : (s.evTherm e).fget f i j = s.fget f i j := State.post_fget s _ _ f i j

theorem State.throttled_fget (f : Fld) (h : f.reg ≠ .thermStatus ∨ f.hi < 15 ∨ 15 < f.lo) (i j : Nat) : s.throttled.fget f i j = s.fget f i j := by
  have hset : ∀ v, (s.fset F.thermStatus_THROTTLING v).fget f i j = s.fget f i j := fun v =>
    fget_fset_off s (f := F.thermStatus_THROTTLING) v 0 0 i j (by decide) (by decide) fun hr => by
      show 15 < f.lo ∨ f.hi < 15
      rcases h with h | h | h
      · exact absurd hr h
      · exact .inr h
      · exact .inl h
  unfold State.throttled
  split
  · rw [State.evTherm_fget, hset]
  · split
    · rw [State.evTherm_fget, hset]
    · rfl

theorem State.throttled_flag : (s.throttleC ≤ s.tjHot → s.throttled.flag F.thermStatus_THROTTLING = true) ∧
    (s.tjHot < s.throttleC - 5 → s.throttled.flag F.thermStatus_THROTTLING = false) ∧
    (s.throttleC - 5 ≤ s.tjHot → s.tjHot < s.throttleC → s.throttled.flag F.thermStatus_THROTTLING = s.flag F.thermStatus_THROTTLING) := by
  have hev : ∀ (v : State) (e : Nat), (v.evTherm e).flag F.thermStatus_THROTTLING = v.flag F.thermStatus_THROTTLING := fun v e => by
    unfold State.flag
    rw [State.evTherm_fget]
  have hone := flag_fset_one s F.thermStatus_THROTTLING 0 0 rfl (by decide)
  have hnone := flag_fset_none s F.thermStatus_THROTTLING 0 0 rfl (by decide)
  unfold State.throttled
  refine ⟨fun h => ?_, fun h => ?_, fun h1 h2 => ?_⟩
  · cases ht : s.flag F.thermStatus_THROTTLING with
    | false => rw [if_pos ⟨h, rfl⟩, hev, hone]
    | true => rw [if_neg (by simp), if_neg (by rw [decide_eq_true_iff]; omega), ht]
  · rw [if_neg (by omega)]
    cases ht : s.flag F.thermStatus_THROTTLING with
    | false => rw [if_neg (by simp), ht]
    | true => rw [if_pos ⟨decide_eq_true h, rfl⟩, hev, hnone]
  · rw [if_neg (by omega), if_neg (by rw [decide_eq_true_iff]; omega)]

/-- The message of a temperature that has become critical. -/
def State.critSent (s : State) : State :=
  if decide (s.critC ≤ s.tjHot) && !s.flag F.thermStatus_CRIT then s.throttled.report srcThermal 0x33 (s.fget F.thermStatus_SENSOR) else s.throttled

/-- The conditions as THERM_STATUS and the trip's hold show them. -/
def State.thermShown (s : State) : State :=
  let s3 := s.critSent.fset F.thermStatus_CRIT (b2n (decide (s.critC ≤ s.tjHot)))
  { s3 with power := { s3.power with tripHold := s3.power.tripHold && !decide (s.tjHot < s.throttleC - 5) } }

theorem State.withPower_fget (x : PowerSt) (f : Fld) : ({ s with power := x } : State).fget f = s.fget f := rfl

theorem State.thermShown_fget (f : Fld) : s.thermShown.fget f = (s.critSent.fset F.thermStatus_CRIT (b2n (decide (s.critC ≤ s.tjHot)))).fget f := by
  unfold State.thermShown
  exact State.withPower_fget _ _ f

theorem State.thermal_eq : s.thermal = s.thermShown.throttleNow := rfl

theorem State.critSent_fget (f : Fld) (i j : Nat) (h : (Touch.avoid [.thermStatus, .vcore, .temp]).has f.reg = false) :
    s.critSent.fget f i j = s.throttled.fget f i j :=
  (keeps_ite (State.report_keeps (.rfl' _ s.throttled) srcThermal 0x33 (s.fget F.thermStatus_SENSOR)) (.rfl' _ _)).fget f i j h

theorem State.throttleNow_fget (f : Fld) (i j : Nat) (h : f.reg ≠ .pwrStatus) : s.throttleNow.fget f i j = s.fget f i j :=
  (s.throttle_onlyRegs _).fget f i j (by simpa using h)

theorem State.thermal_spec : s.thermal.fget F.thermStatus_TJ_HOT = s.fget F.thermStatus_TJ_HOT ∧ s.thermal.fget F.thermStatus_SENSOR = s.fget F.thermStatus_SENSOR ∧
    s.thermal.flag F.thermStatus_CRIT = decide (s.critC ≤ s.tjHot) ∧
    s.thermal.flag F.thermStatus_THROTTLING = s.throttled.flag F.thermStatus_THROTTLING ∧
    (s.tjHot < s.throttleC - 5 → s.thermal.power.tripHold = false) ∧ (∀ n, (n = .vcore ∨ n = .temp) → ∀ i j, s.thermal.rd n i j = s.rd n i j) := by
  have hkeep : Keeps (.avoid [.vcore, .temp]) s s.thermal := State.thermal_keeps (.rfl' _ s)
  have hshow : ∀ f : Fld, f.reg = .thermStatus → s.thermal.fget f = (s.critSent.fset F.thermStatus_CRIT (b2n (decide (s.critC ≤ s.tjHot)))).fget f :=
    fun f hf => (s.thermShown.throttleNow_fget f 0 0 (by rw [hf]; decide)).trans (s.thermShown_fget f)
  have hold : ∀ f : Fld, f.reg = .thermStatus → f.hi < 16 ∨ 16 < f.lo → s.thermal.fget f = s.throttled.fget f := fun f hf h => by
    rw [hshow f hf, fget_fset_off _ _ _ _ _ _ (by decide) (by decide) fun _ => h.symm, s.critSent_fget f 0 0 (by rw [hf]; rfl)]
  have hbit : ∀ b : Bool, decide (b2n b % 2 = 1) = b := by decide
  refine ⟨?_, ?_, ?_, ?_, fun h => ?_, fun n hn i j => ?_⟩
  · rw [hold F.thermStatus_TJ_HOT rfl (.inl (by decide)), s.throttled_fget F.thermStatus_TJ_HOT (.inr (.inl (by decide)))]
  · rw [hold F.thermStatus_SENSOR rfl (.inl (by decide)), s.throttled_fget F.thermStatus_SENSOR (.inr (.inl (by decide)))]
  · rw [State.flag, hshow F.thermStatus_CRIT rfl, fget_fset_same _ F.thermStatus_CRIT _ _ _ (by decide) (by decide)]
    exact hbit _
  · unfold State.flag
    rw [hold F.thermStatus_THROTTLING rfl (.inl (by decide))]
  · rw [s.thermal_eq, State.throttleNow, State.throttle_power]
    show (_ && !decide (s.tjHot < s.throttleC - 5)) = false
    rw [decide_eq_true h, Bool.not_true, Bool.and_false]
  · rcases hn with rfl | rfl
    · exact hkeep.rd .vcore i j rfl
    · exact hkeep.rd .temp i j rfl

/-! ## A change of band (R453) -/

theorem State.bandUpdate_spec : s.bandUpdate.fget F.vcore_BAND = bandNext s.tjHot (s.fget F.vcore_BAND) ∧ OnlyRegs [.vcore] s s.bandUpdate ∧
    s.bandUpdate.power = s.power ∧
    (bandNext s.tjHot (s.fget F.vcore_BAND) = s.fget F.vcore_BAND → s.bandUpdate.fget F.vcore_MV = s.fget F.vcore_MV) ∧
    (bandNext s.tjHot (s.fget F.vcore_BAND) ≠ s.fget F.vcore_BAND →
      s.bandUpdate.fget F.vcore_MV = s.bandUpdate.setSteps s.voltOp * 5 / 2 % 4096) := by
  have hband : s.fget F.vcore_BAND < 8 := Nat.mod_lt _ (by decide)
  obtain ⟨b, hb⟩ : ∃ b, b = bandNext s.tjHot (s.fget F.vcore_BAND) := ⟨_, rfl⟩
  have hlt : b < 8 := by
    have := bandNext_le s.tjHot (s.fget F.vcore_BAND)
    have := bandOf_le_six s.tjHot
    omega
  have heq : s.bandUpdate = if b = s.fget F.vcore_BAND then s else (s.fset F.vcore_BAND b).setMv s.voltOp := by rw [hb]; rfl
  rw [← hb, heq]
  by_cases h : b = s.fget F.vcore_BAND
  · rw [if_pos h]
    exact ⟨h.symm, .refl _ s, rfl, fun _ => rfl, fun hne => absurd h hne⟩
  · rw [if_neg h]
    obtain ⟨w, hw⟩ : ∃ w, w = s.fset F.vcore_BAND b := ⟨_, rfl⟩
    have hwb : w.fget F.vcore_BAND = b := hw ▸ (fget_fset_same s F.vcore_BAND _ 0 0 (by decide) (by decide)).trans (Nat.mod_eq_of_lt hlt)
    have hwr : OnlyRegs [.vcore] s w := hw ▸ (OnlyRegs.refl _ s).fset _ 0 0 (f := F.vcore_BAND) (by decide)
    have hwp : w.power = s.power := hw ▸ s.fset_power ..
    obtain ⟨hmv, hmr, hmp⟩ := w.setMv_spec s.voltOp
    have hma : (w.setMv s.voltOp).fget F.vcore_AGE_COL = w.fget F.vcore_AGE_COL :=
      fget_fset_off w (f := F.vcore_MV) (g := F.vcore_AGE_COL) _ 0 0 0 0 (by decide) (by decide) fun _ => .inl (by decide)
    have hmb : (w.setMv s.voltOp).fget F.vcore_BAND = w.fget F.vcore_BAND :=
      fget_fset_off w (f := F.vcore_MV) (g := F.vcore_BAND) _ 0 0 0 0 (by decide) (by decide) fun _ => .inl (by decide)
    rw [← hw]
    refine ⟨hmb.trans hwb, fun n i j hn => (hmr n i j hn).trans (hwr n i j hn), hmp.trans hwp, fun he => absurd he h, fun _ => ?_⟩
    rw [hmv, w.setSteps_congr hmb hma]

/-! ## A reading (R463, R512) -/

/-- A sensor's register, as a reading leaves it. -/
def State.tempSet (s : State) (k deg : Nat) : State := (s.fset F.temp_DEG_C deg k).fset F.temp_VALID 1 k

/-- A reading, before the hottest sensor is looked for: OP7 held for the sensor array may end. -/
def State.sensed (s : State) (k deg : Nat) : State :=
  if (List.range 73).all (fun j => (s.tempSet k deg).flag F.temp_VALID j) && (s.tempSet k deg).power.resetHold &&
      !(s.tempSet k deg).squall.privReset.contains srcThermal && !(s.tempSet k deg).squall.privReset.contains srcPwr then
    { s.tempSet k deg with power := { (s.tempSet k deg).power with resetHold := false } } else s.tempSet k deg

/-- What follows a reading: TJ_HOT, the band and the thermal conditions. -/
def State.tempShown (s : State) (k : Nat) (t : Int) : State :=
  ((s.fset F.thermStatus_TJ_HOT (ofSigned 8 t)).fset F.thermStatus_SENSOR k).bandUpdate.thermal

theorem execSensorRead_eq (k deg : Nat) : execSensorRead k deg s = .next (match (s.sensed k deg).hottest with
    | none => s.sensed k deg
    | some (j, t) => (s.sensed k deg).tempShown j t) := rfl

theorem State.tempSet_spec {k deg : Nat} (hd : deg < 256) : (s.tempSet k deg).fget F.temp_DEG_C k = deg ∧ (s.tempSet k deg).flag F.temp_VALID k = true ∧
    (∀ j, k < 65536 → j < 65536 → j ≠ k → (s.tempSet k deg).rd .temp j = s.rd .temp j) ∧ OnlyRegs [.temp] s (s.tempSet k deg) ∧
    (s.tempSet k deg).power = s.power := by
  unfold State.tempSet
  refine ⟨?_, flag_fset_one _ F.temp_VALID k 0 rfl (by decide), fun j hk hj hne => ?_,
    ((OnlyRegs.refl _ s).fset deg k 0 (f := F.temp_DEG_C) (by decide)).fset 1 k 0 (f := F.temp_VALID) (by decide), ?_⟩
  · rw [fget_fset_off _ _ _ _ _ _ (by decide) (by decide) fun _ => .inr (by decide), fget_fset_same _ F.temp_DEG_C _ _ _ (by decide) (by decide)]
    exact Nat.mod_eq_of_lt hd
  · rw [rd_fset_inst _ _ 0 0 (by omega), rd_fset_inst _ _ 0 0 (by omega)]
  · rw [State.fset_power, State.fset_power]

theorem State.sensed_spec (k deg : Nat) : (∀ n i j, (s.sensed k deg).rd n i j = (s.tempSet k deg).rd n i j) ∧
    (s.sensed k deg).power.up = (s.tempSet k deg).power.up := by
  unfold State.sensed
  split
  · exact ⟨fun _ _ _ => rfl, rfl⟩
  · exact ⟨fun _ _ _ => rfl, rfl⟩

theorem ofSigned_toSigned_byte (v : Fin 256) : ofSigned 8 (toSigned 8 v) = v.val := by
  have hv := v.isLt
  unfold ofSigned toSigned
  norm_num
  split <;> omega

/-- A byte's field as a signed number keeps the byte. -/
theorem ofSigned_temp (k : Nat) : ofSigned 8 (toSigned 8 (s.fget F.temp_DEG_C k)) = s.fget F.temp_DEG_C k :=
  ofSigned_toSigned_byte ⟨_, Nat.mod_lt _ (by decide)⟩

/-- What follows the search for the hottest sensor: its reading in TJ_HOT, and every rule on that. -/
theorem State.tempShown_spec {k : Nat} {t : Int} (hk : k < 72) (ht : t = toSigned 8 (s.fget F.temp_DEG_C k)) :
    (s.tempShown k t).fget F.thermStatus_SENSOR = k ∧ (s.tempShown k t).fget F.thermStatus_TJ_HOT = s.fget F.temp_DEG_C k ∧
    (s.tempShown k t).flag F.thermStatus_CRIT = decide (s.critC ≤ t) ∧
    (s.throttleC ≤ t → (s.tempShown k t).flag F.thermStatus_THROTTLING = true) ∧
    (t < s.throttleC - 5 → (s.tempShown k t).flag F.thermStatus_THROTTLING = false ∧ (s.tempShown k t).power.tripHold = false) ∧
    (s.throttleC - 5 ≤ t → t < s.throttleC → (s.tempShown k t).flag F.thermStatus_THROTTLING = s.flag F.thermStatus_THROTTLING) ∧
    (∀ j, (s.tempShown k t).rd .temp j = s.rd .temp j) ∧
    (s.tempShown k t).fget F.vcore_BAND = bandNext t (s.fget F.vcore_BAND) ∧
    (bandNext t (s.fget F.vcore_BAND) = s.fget F.vcore_BAND → (s.tempShown k t).fget F.vcore_MV = s.fget F.vcore_MV) ∧
    (bandNext t (s.fget F.vcore_BAND) ≠ s.fget F.vcore_BAND →
      (s.tempShown k t).fget F.vcore_MV = (s.tempShown k t).setSteps s.voltOp * 5 / 2 % 4096) := by
  obtain ⟨x, hx⟩ : ∃ x, x = (s.fset F.thermStatus_TJ_HOT (ofSigned 8 t)).fset F.thermStatus_SENSOR k := ⟨_, rfl⟩
  have hdeg : s.fget F.temp_DEG_C k < 2 ^ 8 := Nat.mod_lt _ (by decide)
  have hraw : x.fget F.thermStatus_TJ_HOT = s.fget F.temp_DEG_C k := by
    rw [hx, fget_fset_off _ _ _ _ _ _ (by decide) (by decide) fun _ => .inr (by decide), fget_fset_same _ F.thermStatus_TJ_HOT _ _ _ (by decide) (by decide),
      ht, ofSigned_temp]
    exact Nat.mod_eq_of_lt hdeg
  have hsensor : x.fget F.thermStatus_SENSOR = k := by
    rw [hx, fget_fset_same _ F.thermStatus_SENSOR _ _ _ (by decide) (by decide)]
    exact Nat.mod_eq_of_lt (by show k < 128; omega)
  have hflag : x.flag F.thermStatus_THROTTLING = s.flag F.thermStatus_THROTTLING := by
    unfold State.flag
    rw [hx, fget_fset_off _ _ _ _ _ _ (by decide) (by decide) fun _ => .inl (by decide), fget_fset_off _ _ _ _ _ _ (by decide) (by decide) fun _ => .inl (by decide)]
  have hxr : OnlyRegs [.thermStatus] s x :=
    hx ▸ ((OnlyRegs.refl _ s).fset _ 0 0 (f := F.thermStatus_TJ_HOT) (by decide)).fset _ 0 0 (f := F.thermStatus_SENSOR) (by decide)
  have hxp : x.power = s.power := by rw [hx, State.fset_power, State.fset_power]
  have hxt : x.tjHot = t := by rw [ht, State.tjHot, hraw]
  obtain ⟨hbb, hbr, hbp, hbs, hbm⟩ := x.bandUpdate_spec
  rw [hxt, hxr.fget F.vcore_BAND 0 0 (by decide)] at hbb hbs hbm
  obtain ⟨y, hy⟩ : ∃ y, y = x.bandUpdate := ⟨_, rfl⟩
  rw [← hy] at hbb hbr hbp hbs hbm
  have hyt : y.tjHot = t := by rw [← hxt, State.tjHot, hbr.fget F.thermStatus_TJ_HOT 0 0 (by decide), State.tjHot]
  have hcrit : y.critC = s.critC := by
    unfold State.critC
    rw [hbr.fget F.thermCfg_CRIT_C 0 0 (by decide), hxr.fget F.thermCfg_CRIT_C 0 0 (by decide)]
  have hthr : y.throttleC = s.throttleC := by
    unfold State.throttleC
    rw [hcrit, hbr.fget F.thermCfg_THROTTLE_C 0 0 (by decide), hxr.fget F.thermCfg_THROTTLE_C 0 0 (by decide)]
  have hyf : y.flag F.thermStatus_THROTTLING = s.flag F.thermStatus_THROTTLING := (hbr.flag F.thermStatus_THROTTLING 0 0 (by decide)).trans hflag
  obtain ⟨h1, h2, h3, h4, h5, h6⟩ := y.thermal_spec
  obtain ⟨t1, t2, t3⟩ := y.throttled_flag
  rw [hyt] at h3 h5 t1 t2 t3
  rw [hcrit] at h3
  rw [hthr] at h5 t1 t2 t3
  have hvolt : x.voltOp = s.voltOp := by
    unfold State.voltOp State.curOp
    rw [hxp, hxr.fget F.pwrStatus_CUR_OP 0 0 (by decide)]
  have hvc : ∀ f : Fld, f.reg = .vcore → y.thermal.fget f = y.fget f := fun f hf => by
    unfold State.fget
    rw [hf, h6 .vcore (.inl rfl)]
  have hshown : s.tempShown k t = y.thermal := by rw [hy, hx]; rfl
  rw [hshown]
  refine ⟨h2.trans ((hbr.fget F.thermStatus_SENSOR 0 0 (by decide)).trans hsensor), h1.trans ((hbr.fget F.thermStatus_TJ_HOT 0 0 (by decide)).trans hraw), h3,
    fun h => h4.trans (t1 h), fun h => ⟨h4.trans (t2 h), h5 h⟩, fun ha hb => h4.trans ((t3 ha hb).trans hyf), fun j => ?_, ?_, fun h => ?_, fun h => ?_⟩
  · rw [h6 .temp (.inr rfl), hbr .temp j 0 (by decide), hxr .temp j 0 (by decide)]
  · rw [hvc _ rfl, hbb]
  · rw [hvc _ rfl, hbs h, hxr.fget F.vcore_MV 0 0 (by decide)]
  · rw [hvc _ rfl, hbm h, hvolt, y.setSteps_congr (hvc F.vcore_BAND rfl) (hvc F.vcore_AGE_COL rfl)]

/-! ## The trip (R463) -/

/-- The comparator's effect on the controller. -/
def State.tripped (s : State) : State :=
  let s1 := if s.hz || !s.power.coreOn then s else s.toOp7
  (({ s1 with power := { s1.power with tripHold := true } } : State).fset F.thermStatus_TRIP 1).throttleNow

theorem execThermalTrip_eq (k : Nat) : execThermalTrip k s = .next (s.tripped.report srcThermal 0x34 k) := rfl

theorem State.toOp7_squall : s.toOp7.squall = s.squall := Keeps.squall (State.toOp7_keeps (.rfl' { Touch.all with squall := false } s)) rfl

theorem State.tripShown_squall : (s.fset F.thermStatus_TRIP 1).throttleNow.squall = s.squall :=
  Keeps.squall (State.throttleNow_keeps (State.fset_keeps (.rfl' { Touch.all with squall := false } s) F.thermStatus_TRIP 1 0 0)) rfl

theorem State.tripped_spec : s.tripped.flag F.thermStatus_TRIP = true ∧ s.tripped.power.tripHold = true ∧
    (s.hz = false → s.power.coreOn = true → s.tripped.curOp = 7 ∧ s.tripped.power.up = none) ∧ s.tripped.squall = s.squall := by
  obtain ⟨v, hv⟩ : ∃ v, v = if s.hz || !s.power.coreOn then s else s.toOp7 := ⟨_, rfl⟩
  obtain ⟨w, hw⟩ : ∃ w, w = ({ v with power := { v.power with tripHold := true } } : State) := ⟨_, rfl⟩
  have heq : s.tripped = (w.fset F.thermStatus_TRIP 1).throttleNow := by rw [hw, hv]; rfl
  have hwp : w.power = { v.power with tripHold := true } := by rw [hw]
  have hwo : w.curOp = v.curOp := by rw [hw]; rfl
  have hvs : v.squall = s.squall := by
    rw [hv]
    split
    · rfl
    · exact s.toOp7_squall
  have hws : w.squall = s.squall := by rw [hw, ← hvs]
  have hks : (w.fset F.thermStatus_TRIP 1).throttleNow.squall = w.squall :=
    w.tripShown_squall
  have hop : (w.fset F.thermStatus_TRIP 1).throttleNow.curOp = v.curOp :=
    (State.throttle_curOp _ _).trans ((fget_fset_reg w 1 0 0 0 0 (by decide)).trans hwo)
  have hpow : (w.fset F.thermStatus_TRIP 1).throttleNow.power = { v.power with tripHold := true } := by
    rw [State.throttleNow, State.throttle_power, State.fset_power, hwp]
  rw [heq]
  refine ⟨?_, by rw [hpow], fun hz hc => ?_, hks.trans hws⟩
  · rw [State.throttleNow, State.throttle_flag _ _ _ 0 0 (.inr (.inr (by decide)))]
    exact flag_fset_one w F.thermStatus_TRIP 0 0 rfl (by decide)
  · have h7 : v = s.toOp7 := by rw [hv, hz, hc]; rfl
    obtain ⟨h1, h2, -, -, -, -⟩ := s.toOp7_spec
    rw [hop, hpow, h7]
    exact ⟨h1, h2⟩

theorem State.report_thermal (m : State) (a b c : Nat) : Keeps { Touch.avoid [.thermStatus, .pwrStatus] with power := false } m (m.report a b c) :=
  State.report_keeps (.rfl' _ m) a b c

theorem State.thermalTrip_spec (k : Fin 73) : ∃ u, exec (.thermalTrip k) s = .next u ∧ u.flag F.thermStatus_TRIP = true ∧ u.power.tripHold = true ∧
    (s.hz = false → s.power.coreOn = true → u.curOp = 7 ∧ u.power.up = none) ∧
    ((s.squall.flight.filter (fun m => decide (m.source = srcThermal))).length < 4 → ∃ m, u.squall.flight = s.squall.flight ++ [m] ∧
      m.source = srcThermal ∧ m.addr = (k : Nat)) := by
  obtain ⟨htrip, hhold, hop, hsq⟩ := s.tripped_spec
  have hkeep := s.tripped.report_thermal srcThermal 0x34 k
  have hpow := hkeep.power rfl
  refine ⟨_, execThermalTrip_eq s k, (hkeep.flag F.thermStatus_TRIP 0 0 rfl).trans htrip, by rw [hpow, hhold], fun hz hc => ?_, fun hroom => ?_⟩
  · obtain ⟨h1, h2⟩ := hop hz hc
    exact ⟨(hkeep.fget F.pwrStatus_CUR_OP 0 0 rfl).trans h1, by rw [hpow, h2]⟩
  · obtain ⟨own, hown⟩ := s.tripped.report_sent 0x34 k (src := srcThermal) (by rw [State.inFlight, hsq]; exact hroom)
    have haddr : k.val % 2 ^ 48 = k.val := Nat.mod_eq_of_lt (k.isLt.trans (by norm_num))
    exact ⟨_, by rw [hown, hsq], rfl, haddr⟩

/-! ## The claims -/

/-- The rules of a reading, read off the state it leaves. -/
theorem State.sensorShown {w u : State} {k : Nat} {t : Int} (hk : k < 72) (hread : w.sensorRead k = some t)
    (hmax : ∀ i < 72, ∀ v, w.sensorRead i = some v → v ≤ t) (hu : u = w.tempShown k t)
    (hregs : OnlyRegs [.temp] s w) (hup : w.power.up = s.power.up) :
    (∃ j : Fin 72, u.flag F.temp_VALID j = true ∧ u.fget F.thermStatus_SENSOR = j ∧ u.fget F.thermStatus_TJ_HOT = u.fget F.temp_DEG_C j ∧
      ∀ i : Fin 72, u.flag F.temp_VALID i = true → toSigned 8 (u.fget F.temp_DEG_C i) ≤ toSigned 8 (u.fget F.temp_DEG_C j)) ∧
    (let t := toSigned 8 (u.fget F.thermStatus_TJ_HOT)
     let crit := min 105 (s.fget F.thermCfg_CRIT_C)
     let thr := min (s.fget F.thermCfg_THROTTLE_C) crit
     (u.flag F.thermStatus_CRIT = true ↔ (crit : Int) ≤ t) ∧
     ((thr : Int) ≤ t → u.flag F.thermStatus_THROTTLING = true) ∧ (t < (thr : Int) - 5 → u.flag F.thermStatus_THROTTLING = false ∧
       u.power.tripHold = false) ∧
     ((thr : Int) - 5 ≤ t → t < thr → u.flag F.thermStatus_THROTTLING = s.flag F.thermStatus_THROTTLING) ∧
     (let b := s.fget F.vcore_BAND
      let d := u.fget F.vcore_BAND
      (t < 15 * ((b : Int) + 1) ∨ b = 6 → d ≤ b) ∧ (b < 6 → 15 * ((b : Int) + 1) ≤ t → b < d) ∧
      (0 < b → b < 7 → (15 * (b : Int) - 3 < t → b ≤ d) ∧ (t ≤ 15 * (b : Int) - 3 → d < b)) ∧
      (d = b → u.fget F.vcore_MV = s.fget F.vcore_MV) ∧ (d ≠ b → u.fget F.vcore_MV = u.setSteps s.voltOp * 5 / 2 % 4096))) := by
  have hvalid : w.flag F.temp_VALID k = true ∧ t = toSigned 8 (w.fget F.temp_DEG_C k) := by
    unfold State.sensorRead at hread
    split at hread
    · next h => exact ⟨h, (Option.some.inj hread).symm⟩
    · cases hread
  obtain ⟨hv, ht⟩ := hvalid
  obtain ⟨h1, h2, h3, h4, h5, h6, h7, h8, h9, h10⟩ := w.tempShown_spec hk ht
  rw [← hu] at h1 h2 h3 h4 h5 h6 h7 h8 h9 h10
  have hdeg : ∀ j, u.fget F.temp_DEG_C j = w.fget F.temp_DEG_C j := fun j => congrArg (fun x : Word => bits x.toNat 7 0) (h7 j)
  have hval : ∀ j, u.flag F.temp_VALID j = w.flag F.temp_VALID j := fun j => congrArg (fun x : Word => decide (bits x.toNat 8 8 = 1)) (h7 j)
  have hcrit : w.critC = ((min 105 (s.fget F.thermCfg_CRIT_C) : Nat) : Int) := by
    unfold State.critC
    rw [hregs.fget F.thermCfg_CRIT_C 0 0 (by decide)]
  have hthr : w.throttleC = ((min (s.fget F.thermCfg_THROTTLE_C) (min 105 (s.fget F.thermCfg_CRIT_C)) : Nat) : Int) := by
    unfold State.throttleC
    rw [hcrit, hregs.fget F.thermCfg_THROTTLE_C 0 0 (by decide)]
    exact (Nat.cast_min ..).symm
  have hvolt : w.voltOp = s.voltOp := by
    unfold State.voltOp State.curOp
    rw [hup, hregs.fget F.pwrStatus_CUR_OP 0 0 (by decide)]
  have htj : toSigned 8 (u.fget F.thermStatus_TJ_HOT) = t := by rw [h2, ht]
  rw [hregs.fget F.vcore_BAND 0 0 (by decide)] at h8 h9 h10
  rw [hregs.fget F.vcore_MV 0 0 (by decide)] at h9
  rw [hregs.flag F.thermStatus_THROTTLING 0 0 (by decide)] at h6
  rw [hcrit] at h3
  rw [hthr] at h4 h5 h6
  rw [hvolt] at h10
  dsimp only
  rw [htj, h8]
  obtain ⟨b1, b2, b3⟩ := bandNext_spec t (s.fget F.vcore_BAND)
  refine ⟨⟨⟨k, hk⟩, (hval k).trans hv, h1, h2.trans (hdeg k).symm, fun i hi => ?_⟩, ?_, h4, h5, h6, b1, b2, b3, h9, h10⟩
  · rw [hdeg, hdeg, ← ht]
    exact hmax i i.isLt _ (if_pos ((hval i).symm.trans hi))
  · rw [h3, decide_eq_true_iff]

theorem sensorsAndTrip : Claims.SensorsAndTrip := by
  unfold Claims.SensorsAndTrip
  intro s k deg
  refine ⟨?_, s.thermalTrip_spec k⟩
  obtain ⟨hd, hv, hothers, hregs, hpow⟩ := s.tempSet_spec (k := k) deg.isLt
  obtain ⟨hsr, hsp⟩ := s.sensed_spec k deg
  obtain ⟨w, hw⟩ : ∃ w, w = s.sensed k deg := ⟨_, rfl⟩
  rw [← hw] at hsr hsp
  have hwd : w.fget F.temp_DEG_C k = deg := (congrArg (fun x : Word => bits x.toNat 7 0) (hsr .temp k 0)).trans hd
  have hwv : w.flag F.temp_VALID k = true := (congrArg (fun x : Word => decide (bits x.toNat 8 8 = 1)) (hsr .temp k 0)).trans hv
  have hwo : ∀ j : Fin 73, j ≠ k → w.rd .temp j = s.rd .temp j := fun j hj =>
    (hsr _ _ _).trans (hothers j (by omega) (by omega) fun h => hj (Fin.ext h))
  have hwr : OnlyRegs [.temp] s w := fun n i j hn => (hsr n i j).trans (hregs n i j hn)
  have hwu : w.power.up = s.power.up := by rw [hsp, hpow]
  obtain ⟨hnone, hsome⟩ := hottestOf_spec w.sensorRead 72
  have hexec : exec (.sensorRead k deg) s = .next (match hottestOf w.sensorRead 72 with
      | none => w
      | some (j, t) => w.tempShown j t) := by
    rw [← State.hottest_eq, hw]
    exact execSensorRead_eq s k deg
  cases hh : hottestOf w.sensorRead 72 with
  | none =>
    rw [hh] at hexec
    refine ⟨w, hexec, hwd, hwv, hwo, fun ⟨j, hj⟩ => ?_⟩
    have hno := hnone hh j j.isLt
    rw [State.sensorRead, if_pos hj] at hno
    cases hno
  | some x =>
    obtain ⟨j, t⟩ := x
    rw [hh] at hexec
    obtain ⟨hj, hread, hmax⟩ := hsome j t hh
    obtain ⟨u, hu⟩ : ∃ u, u = w.tempShown j t := ⟨_, rfl⟩
    have htj : t = toSigned 8 (w.fget F.temp_DEG_C j) := by
      unfold State.sensorRead at hread
      split at hread
      · exact (Option.some.inj hread).symm
      · cases hread
    obtain ⟨-, -, -, -, -, -, htemp, -, -, -⟩ := w.tempShown_spec hj htj
    rw [← hu] at htemp
    refine ⟨u, hexec.trans (by rw [hu]), (congrArg (fun x : Word => bits x.toNat 7 0) (htemp k)).trans hwd,
      (congrArg (fun x : Word => decide (bits x.toNat 8 8 = 1)) (htemp k)).trans hwv, fun i hi => (htemp i).trans (hwo i hi), fun _ => ?_⟩
    exact s.sensorShown hj hread hmax hu hwr hwu

end

/-- Settles O48: the cap, the limiter and the sensors each act on the operating point through the same few moves. -/
theorem capsLimiterAndSensors : Obligations.CapsLimiterAndSensors := by
  unfold Obligations.CapsLimiterAndSensors
  exact ⟨capUnmetAndLimiter, sensorsAndTrip⟩

end Sys2Proof.Machine
end

section
/-!
PROOF. What resets keep and clear (R7, R364, R470–R476, R483–R486).
-/

set_option Elab.async false
set_option exponentiation.threshold 4096
set_option maxRecDepth 20000

namespace Sys2Proof.Machine

section
variable (s : State)

/-! ## The device before Dawn starts (R475, R485) -/

/-- The device as every reset leaves it, with the free values drawn and the flash given. -/
def State.resetBase (s : State) (fr : Nat) (fl : Tab (Option Byte)) : State :=
  { State.reset with
    pending := s.pending, free := fr
    host := { mem := s.host.mem, msix := s.host.msix, perst := s.host.perst }
    time := { ticks := s.time.ticks }
    link := { modMem := s.link.modMem }
    power := { minutes := s.power.minutes, energyUj := s.power.energyUj }
    boot := { vinValid := s.boot.vinValid, inrush := s.boot.inrush, rootLocked := s.boot.rootLocked, pressed := s.boot.pressed,
              hzNext := s.boot.hzNext, stage := if s.boot.stage = 1 then 1 else 2, flash := fl, journal := s.boot.journal, nvs := s.boot.nvs,
              fuses := s.boot.fuses }
    trust := { owner := s.trust.owner, slots := s.trust.slots, active := s.trust.active }
    zen := s.zen }

theorem State.afterReset_eq : ∃ fr fl, s.afterReset = s.resetBase fr fl := by
  unfold State.afterReset
  dsimp only
  split
  · split
    · exact ⟨_, _, rfl⟩
    · split
      · exact ⟨_, _, rfl⟩
      · exact ⟨_, _, rfl⟩
  · exact ⟨_, _, rfl⟩

/-- What a chip reset keeps, before Dawn's registers are set. -/
def State.warmKept (s : State) : State :=
  { s.afterReset with r32 := s.r32.filter (fun e => s.warmKeeps e.1), r64 := s.r64.filter (fun e => keyIs e.1 .energyMj) }

/-- What a loss of VIN keeps. -/
def State.coldKept (s : State) : State :=
  { s.afterReset with
    r32 := s.r32.filter (fun e => keyIs e.1 .arbCtr || keyIs e.1 .ownerStatus)
    power := { minutes := ((newestNvs s.boot.nvs).map (fun r => r.2)).getD 0 }
    boot := { vinValid := false, stage := 1, flash := s.afterReset.boot.flash, journal := s.afterReset.boot.journal, nvs := s.afterReset.boot.nvs,
              fuses := s.afterReset.boot.fuses } }

/-- The parts of the state that both resets clear or keep alike. -/
structure ResetParts (s u : State) : Prop where
  host : u.host = { mem := s.host.mem, msix := s.host.msix, perst := s.host.perst }
  dma : u.dma = {}
  tm : u.tm = {}
  te : u.te = {}
  halo : u.halo = {}
  time : u.time = { ticks := s.time.ticks }
  squall : u.squall = {}
  nvs : u.boot.nvs = s.boot.nvs
  journal : u.boot.journal = s.boot.journal
  fuses : u.boot.fuses = s.boot.fuses
  zen : u.zen = s.zen
  core : u.power.coreOn = false
  chiplet : u.power.chipletOn = false
  gddr : u.power.gddrOn = false

theorem State.warmKept_parts : ResetParts s s.warmKept := by
  obtain ⟨fr, fl, h⟩ := s.afterReset_eq
  unfold State.warmKept
  rw [h]
  exact ⟨rfl, rfl, rfl, rfl, rfl, rfl, rfl, rfl, rfl, rfl, rfl, rfl, rfl, rfl⟩

theorem State.coldKept_parts : ResetParts s s.coldKept := by
  obtain ⟨fr, fl, h⟩ := s.afterReset_eq
  unfold State.coldKept
  rw [h]
  exact ⟨rfl, rfl, rfl, rfl, rfl, rfl, rfl, rfl, rfl, rfl, rfl, rfl, rfl, rfl⟩

theorem State.warmKept_boot : s.warmKept.boot.resetDue = false ∧ s.warmKept.boot.rootLocked = s.boot.rootLocked ∧
    s.warmKept.boot.stage = (if s.boot.stage = 1 then 1 else 2) ∧ s.warmKept.power.minutes = s.power.minutes := by
  obtain ⟨fr, fl, h⟩ := s.afterReset_eq
  unfold State.warmKept
  rw [h]
  exact ⟨rfl, rfl, rfl, rfl⟩

/-! ## The registers that resets keep -/

theorem keyIs_regKey (n m : RName) (i j : Nat) : keyIs (regKey n i j) m = decide (n = m) := by
  have hdiv : regKey n i j / 2 ^ 32 = n.ctorIdx := by unfold regKey; omega
  unfold keyIs
  rw [hdiv]
  exact decide_eq_decide.mpr ⟨fun h => RName.ctorIdx_inj h, fun h => congrArg _ h⟩

/-- A register file with some keys dropped reads a register as it was, or at reset. -/
theorem rd_filter {p : Nat → Bool} {u : State} (h : u.r32 = s.r32.filter (fun e => p e.1)) (n : RName) (i j : Nat) :
    u.rd n i j = if p (regKey n i j) then s.rd n i j else State.reset.rd n i j := by
  unfold State.rd
  rw [h]
  cases hp : p (regKey n i j) with
  | true => exact tget_filter _ _ fun _ => hp
  | false => exact tget_filter_drop _ _ fun _ => hp

theorem rdw_filter {p : Nat → Bool} {u : State} (h : u.r64 = s.r64.filter (fun e => p e.1)) (n : RName) (i j : Nat) :
    u.rdw n i j = if p (regKey n i j) then s.rdw n i j else State.reset.rdw n i j := by
  unfold State.rdw
  rw [h]
  cases hp : p (regKey n i j) with
  | true => exact tget_filter _ _ fun _ => hp
  | false => exact tget_filter_drop _ _ fun _ => hp

/-- The registers kept whole by a warm reset. -/
def warmRegs : List RName := [.resetCause, .hzCfg, .hzPort, .firstMsg, .errnStatus, .arbCtr, .ownerStatus, .poweredHours]

theorem State.warmKeeps_regKey (n : RName) (i j : Nat) : s.warmKeeps (regKey n i j) =
    (decide (n ∈ warmRegs) || (List.range 6).any (fun k => decide (regKey n i j = regKey .reactCfg k 0) && s.flag F.reactCfg_LOCK k)) := by
  have hlist : ∀ l : List RName, l.any (keyIs (regKey n i j)) = decide (n ∈ l) := fun l => by
    rw [Bool.eq_iff_iff, List.any_eq_true, decide_eq_true_iff]
    refine ⟨fun ⟨m, hm, hk⟩ => ?_, fun h => ⟨n, h, by rw [keyIs_regKey, decide_eq_true rfl]⟩⟩
    rw [keyIs_regKey, decide_eq_true_iff] at hk
    exact hk ▸ hm
  unfold State.warmKeeps
  rw [hlist]
  rfl

theorem State.warmKept_rd (n : RName) (i j : Nat) : (n ∈ warmRegs → s.warmKept.rd n i j = s.rd n i j) ∧
    (n ∉ warmRegs → n ≠ .reactCfg → s.warmKept.rd n i j = State.reset.rd n i j) := by
  have hrd := rd_filter s (u := s.warmKept) (p := s.warmKeeps) rfl n i j
  rw [s.warmKeeps_regKey] at hrd
  refine ⟨fun h => ?_, fun h hr => ?_⟩
  · rw [hrd, decide_eq_true h, Bool.true_or, if_pos rfl]
  · have hany : (List.range 6).any (fun k => decide (regKey n i j = regKey .reactCfg k 0) && s.flag F.reactCfg_LOCK k) = false := by
      rw [List.any_eq_false]
      intro k _
      rw [decide_eq_false fun e => hr (regKey_inj e).1, Bool.false_and]
      decide
    rw [hrd, decide_eq_false h, hany]
    rfl

theorem State.warmKept_reactCfg {i : Nat} (hi : i < 6) :
    s.warmKept.rd .reactCfg i = if s.flag F.reactCfg_LOCK i then s.rd .reactCfg i else State.reset.rd .reactCfg i := by
  have hrd := rd_filter s (u := s.warmKept) (p := s.warmKeeps) rfl .reactCfg i 0
  have hany : (List.range 6).any (fun k => decide (regKey .reactCfg i 0 = regKey .reactCfg k 0) && s.flag F.reactCfg_LOCK k) = s.flag F.reactCfg_LOCK i := by
    rw [Bool.eq_iff_iff, List.any_eq_true]
    refine ⟨fun ⟨k, hk, he⟩ => ?_, fun h => ⟨i, List.mem_range.mpr hi, by rw [decide_eq_true rfl, h]; rfl⟩⟩
    rw [Bool.and_eq_true, decide_eq_true_iff] at he
    obtain ⟨hkey, hlock⟩ := he
    have hk6 := List.mem_range.mp hk
    have hik : i = k := by
      have := (regKey_inj hkey).2.1
      omega
    exact hik ▸ hlock
  rw [s.warmKeeps_regKey, hany, decide_eq_false (by decide), Bool.false_or] at hrd
  exact hrd

theorem State.warmKept_rdw (n : RName) (i j : Nat) : s.warmKept.rdw n i j = if n = .energyMj then s.rdw n i j else State.reset.rdw n i j := by
  have hrd := rdw_filter s (u := s.warmKept) (p := fun k => keyIs k .energyMj) rfl n i j
  rw [keyIs_regKey] at hrd
  rw [hrd]
  exact if_congr decide_eq_true_iff rfl rfl

theorem State.coldKept_rd {n : RName} (i j : Nat) (h : n ≠ .arbCtr) (h' : n ≠ .ownerStatus) : s.coldKept.rd n i j = State.reset.rd n i j := by
  have hrd := rd_filter s (u := s.coldKept) (p := fun k => keyIs k .arbCtr || keyIs k .ownerStatus) rfl n i j
  rw [keyIs_regKey, keyIs_regKey, decide_eq_false h, decide_eq_false h'] at hrd
  exact hrd

theorem State.coldKept_r64 : s.coldKept.r64 = [] := by
  obtain ⟨fr, fl, h⟩ := s.afterReset_eq
  unfold State.coldKept
  rw [h]
  rfl

/-! ## A chip reset (R475, R476) -/

/-- The fuses' units, the ageing column and Squall's sticky flags. -/
def State.warmFused (s : State) : State :=
  ((((s.warmKept.fset F.sqStatus_FIRST_VALID (s.fget F.sqStatus_FIRST_VALID)).fset F.sqStatus_OVERFLOW (s.fget F.sqStatus_OVERFLOW)).fset
    F.sqStatus_OSC_FALLBACK (s.fget F.sqStatus_OSC_FALLBACK)).fset F.vcore_AGE_COL (s.fget F.vcore_AGE_COL)).applyFuses

/-- RESET_CAUSE names the sources of the reset. -/
def State.warmCaused (s : State) : State :=
  (s.warmFused.fset F.resetCause_CAUSES (s.warmFused.fget F.resetCause_CAUSES ||| s.boot.dueCauses)).fset F.resetCause_LAST
    (lastSource s.boot.dueCauses s.boot.hzNext)

theorem State.chipReset_eq : s.chipReset = s.warmCaused.fset F.dawnStatus_STEP (if s.boot.stage = 1 then 2 else 3) := rfl

/-- The 32-bit registers alone, of a list. -/
def Touch.words (l : List RName) : Touch := { r32 := true, regs := regBits l }

def fuseRegs : List RName := [.spareTile, .spareXlink, .spareLane, .spareAnvil, .anvChStatus, .pipeStatus, .cirrusStatus]

theorem State.warmFused_keeps : Keeps (.words (fuseRegs ++ [.sqStatus, .vcore])) s.warmKept s.warmFused :=
  State.applyFuses_keeps (State.fset_keeps (State.fset_keeps (State.fset_keeps (State.fset_keeps (.rfl' _ s.warmKept) F.sqStatus_FIRST_VALID _ 0 0)
    F.sqStatus_OVERFLOW _ 0 0) F.sqStatus_OSC_FALLBACK _ 0 0) F.vcore_AGE_COL _ 0 0)

theorem State.warmCaused_keeps {L : Touch} {s0 : State} (h : Keeps L s0 s.warmFused) (hr : L.r32 = true) (hn : L.has .resetCause = true) :
    Keeps L s0 s.warmCaused :=
  State.fset_keeps (State.fset_keeps h F.resetCause_CAUSES _ 0 0 hr hn) F.resetCause_LAST _ 0 0 hr hn

/-- What a chip reset writes over what it keeps. -/
def warmWrites : List RName := fuseRegs ++ [.sqStatus, .vcore, .resetCause, .dawnStatus]

theorem State.chipReset_words : Keeps (.words warmWrites) s.warmKept s.chipReset := by
  have hfused : Keeps (.words warmWrites) s.warmKept s.warmFused :=
    State.applyFuses_keeps (State.fset_keeps (State.fset_keeps (State.fset_keeps (State.fset_keeps (.rfl' _ s.warmKept) F.sqStatus_FIRST_VALID _ 0 0)
      F.sqStatus_OVERFLOW _ 0 0) F.sqStatus_OSC_FALLBACK _ 0 0) F.vcore_AGE_COL _ 0 0)
  exact State.fset_keeps (s.warmCaused_keeps hfused rfl rfl) F.dawnStatus_STEP _ 0 0

theorem Touch.words_has {l : List RName} {n : RName} (h : n ∉ l) : (Touch.words l).has n = false := Touch.onRegs_has h

/-- The parts that only the register file's words change. -/
theorem ResetParts.of_words {k u : State} {l : List RName} (h : ResetParts s k) (hk : Keeps (.words l) k u) : ResetParts s u where
  host := (hk.hostAll rfl rfl).trans h.host
  dma := (hk.dmaAll rfl rfl).trans h.dma
  tm := (hk.tm rfl).trans h.tm
  te := (hk.te rfl).trans h.te
  halo := (hk.halo rfl).trans h.halo
  time := (hk.time rfl).trans h.time
  squall := (hk.squall rfl).trans h.squall
  nvs := (congrArg BootSt.nvs (hk.boot rfl)).trans h.nvs
  journal := (congrArg BootSt.journal (hk.boot rfl)).trans h.journal
  fuses := (congrArg BootSt.fuses (hk.boot rfl)).trans h.fuses
  zen := (hk.zen rfl).trans h.zen
  core := (congrArg PowerSt.coreOn (hk.power rfl)).trans h.core
  chiplet := (congrArg PowerSt.chipletOn (hk.power rfl)).trans h.chiplet
  gddr := (congrArg PowerSt.gddrOn (hk.power rfl)).trans h.gddr

theorem State.chipReset_ready : s.chipReset.flag F.dawnStatus_READY = false ∧
    (s.boot.stage ≠ 1 → s.chipReset.fget F.dawnStatus_STEP = 3) := by
  have hdawn : s.warmCaused.rd .dawnStatus = State.reset.rd .dawnStatus := by
    have hkeep := s.warmCaused_keeps (L := .words (fuseRegs ++ [.sqStatus, .vcore, .resetCause])) (s0 := s.warmKept)
      (State.applyFuses_keeps (State.fset_keeps (State.fset_keeps (State.fset_keeps (State.fset_keeps (.rfl' _ s.warmKept) F.sqStatus_FIRST_VALID _ 0 0)
        F.sqStatus_OVERFLOW _ 0 0) F.sqStatus_OSC_FALLBACK _ 0 0) F.vcore_AGE_COL _ 0 0)) rfl rfl
    exact (hkeep.rd .dawnStatus 0 0 rfl).trans ((s.warmKept_rd .dawnStatus 0 0).2 (by decide) (by decide))
  rw [s.chipReset_eq]
  refine ⟨?_, fun h => ?_⟩
  · unfold State.flag
    rw [fget_fset_off _ _ _ _ _ _ (by decide) (by decide) fun _ => .inl (by decide)]
    exact congrArg (fun w : Word => decide (bits w.toNat 4 4 = 1)) hdawn
  · rw [if_neg h]
    exact fget_fset_same s.warmCaused F.dawnStatus_STEP 3 0 0 (by decide) (by decide)

theorem State.chipReset_causes {b : Nat} (hb : b < 7) :
    bitAt (s.chipReset.fget F.resetCause_CAUSES) b = (bitAt (s.fget F.resetCause_CAUSES) b || bitAt s.boot.dueCauses b) := by
  have hkept : s.warmFused.fget F.resetCause_CAUSES = s.fget F.resetCause_CAUSES :=
    (s.warmFused_keeps.fget F.resetCause_CAUSES 0 0 rfl).trans
      (congrArg (fun w : Word => bits w.toNat 6 0) ((s.warmKept_rd .resetCause 0 0).1 (by decide)))
  have hset : s.chipReset.fget F.resetCause_CAUSES = (s.warmFused.fget F.resetCause_CAUSES ||| s.boot.dueCauses) % 2 ^ 7 := by
    rw [s.chipReset_eq, fget_fset_reg _ _ _ _ _ _ (by decide)]
    unfold State.warmCaused
    rw [fget_fset_off _ _ _ _ _ _ (by decide) (by decide) fun _ => .inr (by decide)]
    exact fget_fset_same _ F.resetCause_CAUSES _ 0 0 (by decide) (by decide)
  rw [hset, hkept]
  unfold bitAt
  rw [Nat.testBit_mod_two_pow, Nat.testBit_or, decide_eq_true hb, Bool.true_and]

theorem State.applyFuses_vcore : s.applyFuses.fget F.vcore_AGE_COL = s.fget F.vcore_AGE_COL :=
  (State.applyFuses_keeps (.rfl' (.words fuseRegs) s)).fget F.vcore_AGE_COL 0 0 rfl

/-- The ageing column stands when the fuses are applied after it. -/
theorem State.fset_applyFuses_vcore (col : Nat) : (s.fset F.vcore_AGE_COL col).applyFuses.fget F.vcore_AGE_COL = col % 2 ^ 3 :=
  (s.fset F.vcore_AGE_COL col).applyFuses_vcore.trans (fget_fset_same s F.vcore_AGE_COL col 0 0 (by decide) (by decide))

theorem State.warmFused_ageCol : s.warmFused.fget F.vcore_AGE_COL = s.fget F.vcore_AGE_COL := by
  unfold State.warmFused
  rw [State.fset_applyFuses_vcore]
  exact Nat.mod_eq_of_lt (Nat.mod_lt _ (by decide))

theorem State.chipReset_ageCol : s.chipReset.fget F.vcore_AGE_COL = s.fget F.vcore_AGE_COL := by
  have hkeep : s.warmCaused.fget F.vcore_AGE_COL = s.warmFused.fget F.vcore_AGE_COL :=
    (s.warmCaused_keeps (L := .words [.resetCause]) (.rfl' _ s.warmFused) rfl rfl).fget F.vcore_AGE_COL 0 0 rfl
  rw [s.chipReset_eq, fget_fset_reg _ _ _ _ _ _ (by decide), hkeep, s.warmFused_ageCol]

/-! ## What both resets clear -/

theorem rdw_of_r64 {u t : State} (h : u.r64 = t.r64) (n : RName) (i j : Nat) : u.rdw n i j = t.rdw n i j := by
  unfold State.rdw
  rw [h]

def resetKept : List RName := [.resetCause, .hzCfg, .hzPort, .firstMsg, .errnStatus, .arbCtr, .ownerStatus, .poweredHours, .reactCfg, .sqStatus,
  .vcore, .dawnStatus]

/-- What both resets clear, of a state u left by a reset of s. -/
def State.ClearedTo (s u : State) : Prop :=
  u.host.rings = [] ∧ u.host.mem = s.host.mem ∧ u.host.linkUp = false ∧ u.dma = {} ∧ u.tm = {} ∧ u.te = {} ∧
    u.halo = {} ∧ clockOf u = 0 ∧ u.time.trigs = [] ∧ u.time.fifos = [] ∧ u.time.steps = [] ∧ u.squall.flight = [] ∧ u.squall.masks = [] ∧
    u.boot.nvs = s.boot.nvs ∧ u.boot.journal = s.boot.journal ∧ u.boot.fuses = s.boot.fuses ∧ u.zen = s.zen ∧
    u.power.coreOn = false ∧ u.power.chipletOn = false ∧ u.power.gddrOn = false ∧
    (∀ n i j, n ∉ resetKept → n ∉ fuseRegs → u.rd n i j = State.reset.rd n i j) ∧
    (∀ n i j, n ≠ .energyMj → u.rdw n i j = State.reset.rdw n i j) ∧ u.flag F.dawnStatus_READY = false

variable {s} in
theorem ResetParts.clears {u : State} (h : ResetParts s u)
    (hrd : ∀ n i j, n ∉ resetKept → n ∉ fuseRegs → u.rd n i j = State.reset.rd n i j)
    (hrdw : ∀ n i j, n ≠ .energyMj → u.rdw n i j = State.reset.rdw n i j) (hready : u.flag F.dawnStatus_READY = false) : s.ClearedTo u := by
  have hclock : clockOf u = 0 := by
    rw [clockOf_eq]
    unfold State.ptpNs
    rw [h.time]
    simp
  exact ⟨by rw [h.host], by rw [h.host], by rw [h.host], h.dma, h.tm, h.te, h.halo, hclock, by rw [h.time], by rw [h.time], by rw [h.time],
    by rw [h.squall], by rw [h.squall], h.nvs, h.journal, h.fuses, h.zen, h.core, h.chiplet, h.gddr, hrd, hrdw, hready⟩

theorem State.chipReset_rd {n : RName} (i j : Nat) (h : n ∉ warmWrites) : (n ∈ warmRegs → s.chipReset.rd n i j = s.rd n i j) ∧
    (n ∉ warmRegs → n ≠ .reactCfg → s.chipReset.rd n i j = State.reset.rd n i j) := by
  have hw : s.chipReset.rd n i j = s.warmKept.rd n i j := s.chipReset_words.rd n i j (Touch.words_has h)
  exact ⟨fun hm => hw.trans ((s.warmKept_rd n i j).1 hm), fun hm hr => hw.trans ((s.warmKept_rd n i j).2 hm hr)⟩

/-- The registers of a list are apart from those of another. -/
theorem not_mem_of_subset {l k : List RName} {n : RName} (h : n ∉ k) (hs : ∀ m ∈ l, m ∈ k) : n ∉ l := fun hm => h (hs n hm)

theorem State.chipReset_cleared : s.ClearedTo s.chipReset := by
  refine (ResetParts.of_words s s.warmKept_parts s.chipReset_words).clears (fun n i j hk hf => ?_) (fun n i j h => ?_) s.chipReset_ready.1
  · have hboth : n ∉ fuseRegs ++ resetKept := fun h => (List.mem_append.mp h).elim hf hk
    exact (s.chipReset_rd i j (not_mem_of_subset hboth (by decide))).2 (not_mem_of_subset hk (by decide)) fun h => hk (h ▸ by decide)
  · rw [rdw_of_r64 (s.chipReset_words.r64 rfl), s.warmKept_rdw, if_neg h]

theorem State.chipReset_boot : s.chipReset.boot = s.warmKept.boot := s.chipReset_words.boot rfl

theorem State.chipReset_reactCfg {i : Nat} (hi : i < 6) :
    s.chipReset.rd .reactCfg i = if s.flag F.reactCfg_LOCK i then s.rd .reactCfg i else State.reset.rd .reactCfg i :=
  (s.chipReset_words.rd .reactCfg i 0 rfl).trans (s.warmKept_reactCfg hi)

/-! ## A loss of VIN (R471, R475, R487) -/

def vinWrites : List RName := fuseRegs ++ [.vcore, .poweredHours]

theorem State.vinReset_words : Keeps (.words vinWrites) s.coldKept s.vinReset :=
  State.applyFuses_keeps (State.wr_keeps (State.fset_keeps (.rfl' _ s.coldKept) F.vcore_AGE_COL _ 0 0) .poweredHours _ 0 0)

theorem State.vinReset_rd {n : RName} (i j : Nat) (h : n ∉ [RName.arbCtr, .ownerStatus] ++ vinWrites) : s.vinReset.rd n i j = State.reset.rd n i j := by
  rw [List.mem_append, not_or] at h
  obtain ⟨hkept, hw⟩ := h
  exact (s.vinReset_words.rd n i j (Touch.words_has hw)).trans
    (s.coldKept_rd i j (fun e => hkept (e.symm ▸ List.mem_cons_self)) fun e => hkept (e.symm ▸ List.mem_cons_of_mem _ List.mem_cons_self))

theorem State.vinReset_rdw (n : RName) (i j : Nat) : s.vinReset.rdw n i j = State.reset.rdw n i j := by
  rw [rdw_of_r64 (s.vinReset_words.r64 rfl)]
  unfold State.rdw
  rw [s.coldKept_r64]
  rfl

theorem State.vinReset_boot : s.vinReset.boot.vinValid = false ∧ s.vinReset.boot.stage = 1 ∧ s.vinReset.boot.rootLocked = false := by
  have hb : s.vinReset.boot = s.coldKept.boot := s.vinReset_words.boot rfl
  rw [hb]
  exact ⟨rfl, rfl, rfl⟩

theorem State.vinReset_cleared : s.ClearedTo s.vinReset := by
  refine (ResetParts.of_words s s.coldKept_parts s.vinReset_words).clears (fun n i j hk hf => ?_) (fun n i j _ => s.vinReset_rdw n i j) ?_
  · have hboth : n ∉ fuseRegs ++ resetKept := fun h => (List.mem_append.mp h).elim hf hk
    exact s.vinReset_rd i j (not_mem_of_subset hboth (by decide))
  · exact congrArg (fun w : Word => decide (bits w.toNat 4 4 = 1)) (s.vinReset_rd 0 0 (n := .dawnStatus) (by decide))

/-! ## The commands -/

theorem execChipReset_due (h : s.boot.resetDue = true) (hv : s.boot.vinValid = true) : exec .chipReset s = .next s.chipReset :=
  congrArg Host.Outcome.next (if_pos (by rw [h, hv]; rfl))

theorem execChipReset_idle (h : s.boot.resetDue = false ∨ s.boot.vinValid = false) : exec .chipReset s = .next s :=
  congrArg Host.Outcome.next (if_neg (by rw [Bool.and_eq_true]; rintro ⟨h1, h2⟩; rcases h with h | h <;> simp_all))

theorem resetsKeepAndClear_holds : Claims.ResetsKeepAndClear := by
  intro s
  obtain ⟨hdue, hlocked, hstage, hminutes⟩ := s.warmKept_boot
  have hkeep : ∀ {n : RName} (i j : Nat), n ∈ warmRegs → n ∉ warmWrites → s.chipReset.rd n i j = s.rd n i j := fun i j h h' =>
    (s.chipReset_rd i j h').1 h
  refine ⟨execChipReset_idle s, fun h hv => ⟨s.chipReset, execChipReset_due s h hv, s.chipReset_cleared, ?_⟩, fun h => ?_, fun h => ?_⟩
  · refine ⟨(congrArg BootSt.resetDue s.chipReset_boot).trans hdue, ?_, hkeep 0 0 (by decide) (by decide), fun p => hkeep p 0 (by decide) (by decide),
      fun k => hkeep k 0 (by decide) (by decide), hkeep 0 0 (by decide) (by decide),
      (congrArg PowerSt.minutes (s.chipReset_words.power rfl)).trans hminutes, hkeep 0 0 (by decide) (by decide), s.chipReset_ageCol,
      fun i hl => (s.chipReset_reactCfg i.isLt).trans (if_pos hl), fun i hl => (s.chipReset_reactCfg i.isLt).trans (if_neg (by rw [hl]; decide)),
      fun b hb => s.chipReset_causes hb, fun hs => ⟨s.chipReset_ready.2 hs, ?_⟩, (congrArg BootSt.rootLocked s.chipReset_boot).trans hlocked⟩
    · exact (s.chipReset_words.rdw .energyMj 0 0 rfl).trans (s.warmKept_rdw .energyMj 0 0)
    · exact (congrArg BootSt.stage s.chipReset_boot).trans (hstage.trans (if_neg hs))
  · exact ⟨congrArg Host.Outcome.next (if_neg (by rw [h]; decide)), { s with boot := { s.boot with vinValid := true } },
      congrArg Host.Outcome.next (if_neg (by rw [h]; decide)), rfl, rfl, OnlyRegs.refl _ s, OnlyWide.refl _ s⟩
  · obtain ⟨hvin, hst, hlock⟩ := s.vinReset_boot
    refine ⟨congrArg Host.Outcome.next (if_pos h), s.vinReset, congrArg Host.Outcome.next (if_pos h), s.vinReset_cleared, hvin, hst, hlock,
      s.vinReset_rdw .energyMj 0 0, s.vinReset_rd 0 0 (by decide), fun n i j hn => s.vinReset_rd i j fun hm => ?_⟩
    have hapart : ∀ m ∈ [RName.hzCfg, .hzPort, .firstMsg, .errnStatus, .reactCfg, .sqStatus], m ∉ [RName.arbCtr, .ownerStatus] ++ vinWrites := by decide
    exact hapart n hn hm

end
end Sys2Proof.Machine
end

section
/-!
PROOF. PERST_N resets the PCI Express interface and the functions (R473, R483, R484).
-/

set_option Elab.async false
set_option exponentiation.threshold 4096
set_option maxRecDepth 20000

namespace Sys2Proof.Machine

section
variable (s : State)

/-- A function reset, begun and complete. -/
def State.fnReset (s : State) (f : Nat) : State := (s.flr f).flrDone f

/-- The reset of each function. -/
def State.fnResets (s : State) (n : Nat) : State := forN n (fun f s => s.fnReset f) s

theorem State.fnResets_succ (n : Nat) : s.fnResets (n + 1) = (s.fnResets n).fnReset n := forN_succ n _ s

/-! ## One function -/

theorem State.fnReset_face (f : Nat) {q : Nat} (hq : q < 1024) : (s.fnReset f).face q = if s.ringOwnerOf q = f then (s.face q).reset else s.face q := by
  obtain ⟨-, -, -, honly, hhost⟩ := (s.flr f).flrDone_spec f
  refine Eq.trans (State.face_of (fun n hn => honly n q 0 fun hm => absurd hn ?_) (State.waits_of_host hhost q)) (s.flr_face f hq)
  simp only [List.mem_cons, List.not_mem_nil, or_false] at hm
  rcases hm with rfl | rfl <;> decide

/-- A function's reset up to its busy bit. -/
def State.flrDrops (s : State) (f : Nat) : State := forN 256 (fun g s => s.dropUserEn f g) (((s.flrEngine f).flrRings f).clearMsix f)

theorem State.flrDrops_fnStatus (f g : Nat) : (s.flrDrops f).rd .fnStatus g = s.rd .fnStatus g := by
  have hk : Keeps (.avoid [.fnStatus]) s (s.flrDrops f) :=
    forN_keeps (State.clearMsix_keeps (State.flrRings_keeps (State.flrEngine_keeps (.rfl' _ s) f) f) f) fun g u hu =>
      keeps_ite (State.fset_keeps hu F.grpCtl_USER_EN 0 g 0) hu
  exact hk.rd .fnStatus g 0 rfl

theorem State.fnReset_eq (f : Nat) :
    s.fnReset f = (((((s.flrDrops f).fset F.fnStatus_FLR_BUSY 1 f).wr .fnStatus 0 f).wrw .violAddr 0 f).wr .violCnt 0 f) := rfl

theorem State.fnReset_fnStatus (f : Nat) : (s.fnReset f).rd .fnStatus f = 0 := ((s.flr f).flrDone_spec f).1

theorem State.fnReset_fnStatus_other {f g : Nat} (hf : f < 4) (hg : g < 4) (h : g ≠ f) : (s.fnReset f).rd .fnStatus g = s.rd .fnStatus g := by
  have hne : g % 65536 ≠ f % 65536 := by omega
  rw [s.fnReset_eq, rd_wr_reg _ _ _ _ _ _ (by decide), rd_wrw, rd_wr_inst _ _ _ _ hne, rd_fset_inst _ _ _ _ hne, s.flrDrops_fnStatus]

/-! ## The mask bits of the vectors (R364, R403) -/

theorem State.clearMsix_msix {f j : Nat} (hj : j < 1024) : (s.clearMsix f).rd .msixTable f j = BitVec.ofNat 32 (regReset .msixTable f j) := by
  have hpba : ∀ u : State, (forN 8 (fun j s => s.wr .msixPba 0 f j) u).rd .msixTable f j = u.rd .msixTable f j := fun u =>
    forN_keeps_view (fun u : State => u.rd .msixTable f j) fun k u => rd_wr_reg u _ _ _ _ _ (by decide)
  unfold State.clearMsix
  dsimp only
  rw [hpba, forN_view (fun u : State => u.rd .msixTable f j) (op := fun j s => s.wr .msixTable (BitVec.ofNat 32 (regReset .msixTable f j)) f j) j s
    (fun k b hk hne => rd_wr_key b _ fun e => hne (by have := (regKey_inj e).2.2; omega)) fun b c _ => by rw [rd_wr_same, rd_wr_same], if_pos hj]
  exact rd_wr_same _ _ _ _ _

theorem State.clearMsix_msix_other {f g : Nat} (j : Nat) (h : g % 65536 ≠ f % 65536) : (s.clearMsix f).rd .msixTable g j = s.rd .msixTable g j := by
  unfold State.clearMsix
  dsimp only
  rw [forN_keeps_view (fun u : State => u.rd .msixTable g j) fun k u => rd_wr_reg u _ _ _ _ _ (by decide)]
  exact forN_keeps_view (fun u : State => u.rd .msixTable g j) fun k u => rd_wr_key u _ fun e => h (regKey_inj e).2.1

theorem State.fnReset_msix (f i j : Nat) : (s.fnReset f).rd .msixTable i j = (((s.flrEngine f).flrRings f).clearMsix f).rd .msixTable i j := by
  rw [s.fnReset_eq, rd_wr_reg _ _ _ _ _ _ (by decide), rd_wrw, rd_wr_reg _ _ _ _ _ _ (by decide), rd_fset_reg _ _ _ _ _ _ (by decide)]
  unfold State.flrDrops
  refine forN_keeps_view (fun u : State => u.rd .msixTable i j) fun k u => ?_
  unfold State.dropUserEn
  split
  · exact rd_fset_reg _ _ _ _ _ _ (by decide)
  · rfl

theorem State.flrRings_msix (f i j : Nat) : ((s.flrEngine f).flrRings f).rd .msixTable i j = s.rd .msixTable i j :=
  (State.flrRings_keeps (State.flrEngine_keeps (.rfl' (.avoid [.msixTable]) s) f) f).rd .msixTable i j rfl

theorem State.fnReset_msix_same {f j : Nat} (hj : j < 1024) : (s.fnReset f).rd .msixTable f j = BitVec.ofNat 32 (regReset .msixTable f j) :=
  (s.fnReset_msix f f j).trans (State.clearMsix_msix _ hj)

theorem State.fnReset_msix_other {f g : Nat} (j : Nat) (hf : f < 4) (hg : g < 4) (h : g ≠ f) : (s.fnReset f).rd .msixTable g j = s.rd .msixTable g j :=
  (s.fnReset_msix f g j).trans ((State.clearMsix_msix_other _ j (by omega)).trans (s.flrRings_msix f g j))

/-- The third word of a vector's row is masked at reset. -/
theorem msixReset_masked {f v : Nat} (hv : v < 64) : (BitVec.ofNat 32 (regReset .msixTable f (4 * v + 3))).getLsbD 0 = true := by
  have hone : regReset .msixTable f (4 * v + 3) = 1 := if_pos ⟨by omega, by split <;> omega⟩
  rw [hone]
  decide

/-! ## All four -/

theorem State.fnResets_face {q : Nat} (hq : q < 1024) (n : Nat) :
    (s.fnResets n).face q = if s.ringOwnerOf q < n then (s.face q).reset else s.face q := by
  induction n with
  | zero => rfl
  | succ n ih =>
    have howner : (s.fnResets n).ringOwnerOf q = s.ringOwnerOf q :=
      (congrArg RingFace.owner ih).trans (by split <;> rfl)
    rw [s.fnResets_succ, State.fnReset_face _ _ hq, howner, ih]
    by_cases h : s.ringOwnerOf q = n
    · rw [if_pos h, if_neg (by omega), if_pos (by omega)]
    · rw [if_neg h]
      exact if_congr (by omega) rfl rfl

theorem State.fnResets_ringState {q : Nat} (hq : q < 1024) : (s.fnResets 4).ringState q = 0 := by
  have hface := s.fnResets_face hq 4
  rw [if_pos (show s.ringOwnerOf q < 4 from Nat.mod_lt _ (by decide))] at hface
  have hst : (s.fnResets 4).rd .ringStatus q = 0 := congrArg RingFace.status hface
  unfold State.ringState State.fget
  rw [show (F.ringStatus_STATE).reg = .ringStatus from rfl, hst]
  exact bits_zero_word _ _

theorem State.fnResets_fnStatus {f : Nat} (hf : f < 4) : (s.fnResets 4).rd .fnStatus f = 0 := by
  have hview := forN_view (fun u : State => u.rd .fnStatus f) (op := fun f s => s.fnReset f) (n := 4) f s
    (fun k b hk hne => b.fnReset_fnStatus_other hk hf (Ne.symm hne)) fun b c _ => (b.fnReset_fnStatus f).trans (c.fnReset_fnStatus f).symm
  rw [if_pos hf] at hview
  exact hview.trans (s.fnReset_fnStatus f)

theorem State.fnResets_msix {f j : Nat} (hf : f < 4) (hj : j < 1024) :
    (s.fnResets 4).rd .msixTable f j = BitVec.ofNat 32 (regReset .msixTable f j) := by
  have hview := forN_view (fun u : State => u.rd .msixTable f j) (op := fun f s => s.fnReset f) (n := 4) f s
    (fun k b hk hne => b.fnReset_msix_other j hk hf (Ne.symm hne)) fun b c _ => (b.fnReset_msix_same hj).trans (c.fnReset_msix_same hj).symm
  rw [if_pos hf] at hview
  exact hview.trans (s.fnReset_msix_same hj)

/-! ## PERST_N -/

/-- RESET_CAUSE names PERST_N, while VIN is valid. -/
def State.perstCause (s : State) : State :=
  if s.boot.vinValid then (s.fset F.resetCause_CAUSES (s.fget F.resetCause_CAUSES ||| 0x40)).fset F.resetCause_LAST 6 else s

/-- The PCI Express interface in reset. -/
def State.perstDown (s : State) : State := { s with host := { s.host with perst := true, linkUp := false, aerInternal := false } }

def State.perstReset (s : State) : State := (s.fnResets 4).perstCause.perstDown

theorem State.fnResets_eq : s.fnResets 4 = forN 4 (fun f s => (s.flr f).flrDone f) s := rfl

theorem execPerstAssert_eq : exec .perstAssert s = .next s.perstReset := by
  unfold State.perstReset
  rw [s.fnResets_eq]
  show execPerstAssert s = _
  unfold execPerstAssert
  generalize forN 4 (fun f s => (s.flr f).flrDone f) s = t
  rfl

theorem State.perstCause_bit (h : s.boot.vinValid = true) : bitAt (s.perstCause.fget F.resetCause_CAUSES) 6 = true := by
  unfold State.perstCause
  rw [if_pos h, fget_fset_off _ _ _ _ _ _ (by decide) (by decide) fun _ => .inr (by decide),
    fget_fset_same s F.resetCause_CAUSES _ 0 0 (by decide) (by decide)]
  unfold bitAt
  rw [Nat.testBit_mod_two_pow, Nat.testBit_or, show Nat.testBit 0x40 6 = true by decide, Bool.or_true]
  rfl

theorem State.perstCause_rd {n : RName} (i j : Nat) (h : n ≠ .resetCause) : s.perstCause.rd n i j = s.rd n i j := by
  unfold State.perstCause
  split
  · exact (rd_fset_reg _ _ _ _ _ _ h).trans (rd_fset_reg _ _ _ _ _ _ h)
  · rfl

/-- What PERST_N changes at most: the registers, the host interface, the engines of the DMA channels and the queue of table operations. -/
def Touch.perst : Touch := { Touch.all with tm := false, time := false, cirrus := false, zen := false, link := false, power := false, boot := false, mem := false }

theorem State.fnReset_keeps {s0 s : State} (h : Keeps .perst s0 s) (f : Nat) : Keeps .perst s0 (s.fnReset f) := by
  unfold State.fnReset
  exact State.flrDone_keeps (State.flr_keeps h f) f

theorem State.fnResets_keeps (n : Nat) : Keeps .perst s (s.fnResets n) := by
  unfold State.fnResets
  exact forN_keeps (.rfl' _ s) fun f u hu => State.fnReset_keeps hu f

theorem State.perstCause_keeps : Keeps .perst s s.perstCause := by
  unfold State.perstCause
  exact keeps_ite (State.fset_keeps (State.fset_keeps (.rfl' _ s) F.resetCause_CAUSES _ 0 0) F.resetCause_LAST _ 0 0) (.rfl' _ s)

/-- The parts that PERST_N leaves. -/
structure PerstParts (s u : State) : Prop where
  tm : u.tm = s.tm
  time : u.time = s.time
  cirrus : u.cirrus = s.cirrus
  zen : u.zen = s.zen
  link : u.link = s.link
  power : u.power = s.power
  boot : u.boot = s.boot
  mem : u.host.mem = s.host.mem

theorem Keeps.perstParts {s u : State} (h : Keeps .perst s u) : PerstParts s u :=
  ⟨h.tm rfl, h.time rfl, h.cirrus rfl, h.zen rfl, h.link rfl, h.power rfl, h.boot rfl, h.mem rfl⟩

theorem State.perstDown_parts : PerstParts s s.perstDown := ⟨rfl, rfl, rfl, rfl, rfl, rfl, rfl, rfl⟩

theorem PerstParts.trans {s u v : State} (h : PerstParts s u) (k : PerstParts u v) : PerstParts s v :=
  ⟨k.tm.trans h.tm, k.time.trans h.time, k.cirrus.trans h.cirrus, k.zen.trans h.zen, k.link.trans h.link, k.power.trans h.power,
    k.boot.trans h.boot, k.mem.trans h.mem⟩

theorem State.perstReset_parts : PerstParts s s.perstReset := by
  unfold State.perstReset
  exact (s.fnResets_keeps 4).perstParts.trans ((State.perstCause_keeps _).perstParts.trans (State.perstDown_parts _))

theorem State.perstReset_host : s.perstReset.host.linkUp = false ∧ s.perstReset.host.perst = true := ⟨rfl, rfl⟩

theorem State.perstDown_rd (n : RName) (i j : Nat) : s.perstDown.rd n i j = s.rd n i j := rfl
theorem State.perstDown_fget (f : Fld) : s.perstDown.fget f = s.fget f := rfl

theorem State.perstReset_rd {n : RName} (i j : Nat) (h : n ≠ .resetCause) : s.perstReset.rd n i j = (s.fnResets 4).rd n i j := by
  unfold State.perstReset
  exact (State.perstDown_rd _ n i j).trans (State.perstCause_rd _ i j h)

theorem State.perstReset_bit (h : s.boot.vinValid = true) : bitAt (s.perstReset.fget F.resetCause_CAUSES) 6 = true := by
  unfold State.perstReset
  rw [State.perstDown_fget]
  exact State.perstCause_bit _ ((congrArg BootSt.vinValid (s.fnResets_keeps 4).perstParts.boot).trans h)

theorem perstScope_holds : Claims.PerstScope := by
  intro s
  obtain ⟨htm, htime, hcirrus, hzen, hlink, hpower, hboot, hmem⟩ := s.perstReset_parts
  obtain ⟨hdown, hpin⟩ := s.perstReset_host
  refine ⟨⟨s.perstReset, execPerstAssert_eq s, hdown, hpin, fun r => ?_, fun f => ⟨?_, fun v hv => ?_⟩, htm, htime, hcirrus, hzen, hlink, hpower,
    hboot, hmem, s.perstReset_bit⟩,
    { s with host := { s.host with perst := false, linkUp := s.boot.vinValid && decide (s.boot.stage ≠ 1) } }, rfl, rfl, rfl,
    OnlyRegs.refl _ s, OnlyWide.refl _ s⟩
  · exact (fget_of_rd F.ringStatus_STATE (s.perstReset_rd r 0 (by decide))).trans (s.fnResets_ringState r.isLt)
  · exact congrArg (fun w : Word => decide (bits w.toNat F.fnStatus_FROZEN.hi F.fnStatus_FROZEN.lo = 1))
      ((s.perstReset_rd f 0 (by decide)).trans (s.fnResets_fnStatus f.isLt))
  · rw [s.perstReset_rd f (4 * v + 3) (by decide), s.fnResets_msix f.isLt (by omega)]
    exact msixReset_masked hv

end

/-- Settles O50: what a reset keeps is the file it starts from, with the fuses' units over it, and PERST_N is the function reset of each of the
four functions. -/
theorem resetsKeepAndClear : Obligations.ResetsKeepAndClear := ⟨resetsKeepAndClear_holds, perstScope_holds⟩

end Sys2Proof.Machine
end

section
/-!
PROOF. The steps of Dawn to step 5 (R472, R477, R478, R481, R488, R571).
-/

set_option Elab.async false
set_option exponentiation.threshold 4096
set_option maxRecDepth 20000

namespace Sys2Proof.Machine

section
variable (s : State)

/-! ## The causes of Horizon mode (R488) -/

theorem State.horizonFor_zero : s.horizonFor 0 = s := rfl

theorem State.horizonFor_some {cause : Nat} (h : cause ≠ 0) : s.horizonFor cause = (s.fset F.dawnStatus_HORIZON 1).fset F.dawnStatus_HZ_CAUSE
    (if s.fget F.dawnStatus_HZ_CAUSE = 0 then cause else min (s.fget F.dawnStatus_HZ_CAUSE) cause) := if_neg h

theorem State.horizonFor_shows {cause : Nat} (h : cause ≠ 0) : (s.horizonFor cause).flag F.dawnStatus_HORIZON = true := by
  rw [s.horizonFor_some h, flag_fset_off _ _ _ _ _ _ (by decide) (by decide) fun _ => .inr (by decide)]
  exact flag_fset_one _ _ _ _ (by decide) (by decide)

theorem State.horizonFor_stays {cause : Nat} (h : s.flag F.dawnStatus_HORIZON = true) : (s.horizonFor cause).flag F.dawnStatus_HORIZON = true := by
  by_cases hc : cause = 0
  · rw [hc]
    exact h
  · exact s.horizonFor_shows hc

theorem State.horizonFor_cause {cause : Nat} (h : cause ≠ 0) (hc : cause < 8) : (s.horizonFor cause).fget F.dawnStatus_HZ_CAUSE =
    if s.fget F.dawnStatus_HZ_CAUSE = 0 then cause else min (s.fget F.dawnStatus_HZ_CAUSE) cause := by
  rw [s.horizonFor_some h, fget_fset_same _ F.dawnStatus_HZ_CAUSE _ 0 0 (by decide) (by decide)]
  refine Nat.mod_eq_of_lt (show _ < 8 from ?_)
  split <;> omega

/-- The bits of DAWN_STATUS above the cause are not the cause's. -/
theorem State.horizonFor_fget (cause : Nat) {f : Fld} (h : 8 < f.lo ∨ f.hi < 5) : (s.horizonFor cause).fget f = s.fget f := by
  by_cases hc : cause = 0
  · rw [hc, s.horizonFor_zero]
  · have hlast : f.reg = .dawnStatus → (F.dawnStatus_HZ_CAUSE).hi < f.lo ∨ f.hi < (F.dawnStatus_HZ_CAUSE).lo := fun _ =>
      h.imp (fun h => h) fun h => Nat.lt_trans h (by decide)
    have hbit : f.reg = .dawnStatus → (F.dawnStatus_HORIZON).hi < f.lo ∨ f.hi < (F.dawnStatus_HORIZON).lo := fun _ =>
      h.imp (fun h => Nat.lt_trans (by decide) h) fun h => h
    rw [s.horizonFor_some hc, fget_fset_off _ _ _ _ _ _ (by decide) (by decide) hlast, fget_fset_off _ _ _ _ _ _ (by decide) (by decide) hbit]

theorem State.horizonFor_boot (cause : Nat) : (s.horizonFor cause).boot = s.boot := by
  have hk : Keeps { Touch.all with boot := false } s (s.horizonFor cause) := State.horizonFor_keeps (.rfl' _ s) cause
  exact hk.boot rfl

theorem State.horizonFor_rd (cause : Nat) {n : RName} (i j : Nat) (h : n ≠ .dawnStatus) : (s.horizonFor cause).rd n i j = s.rd n i j := by
  by_cases hc : cause = 0
  · rw [hc, s.horizonFor_zero]
  · rw [s.horizonFor_some hc]
    exact (rd_fset_reg _ _ _ _ _ _ h).trans (rd_fset_reg _ _ _ _ _ _ h)

/-! ## The request that a press left (R472) -/

/-- HZ_REQ as Dawn takes it. -/
def State.hzReq (s : State) : State := if s.flag F.hzCfg_HZ_REQ then (s.fset F.hzCfg_HZ_REQ 0).horizonFor 3 else s

theorem State.takeHzReq_eq : s.takeHzReq =
    { (s.horizonFor s.boot.hzNext).hzReq with boot := { (s.horizonFor s.boot.hzNext).hzReq.boot with hzNext := 0 } } := rfl

theorem State.hzReq_taken : s.hzReq.flag F.hzCfg_HZ_REQ = false := by
  unfold State.hzReq
  cases h : s.flag F.hzCfg_HZ_REQ with
  | false => exact (congrArg (fun x : State => x.flag F.hzCfg_HZ_REQ) (if_neg (by decide))).trans h
  | true =>
    rw [if_pos rfl]
    exact (flag_of_rd F.hzCfg_HZ_REQ (State.horizonFor_rd _ 3 0 0 (by decide))).trans (flag_fset_none _ _ _ _ rfl (by decide))

theorem State.hzReq_stays (h : s.flag F.dawnStatus_HORIZON = true) : s.hzReq.flag F.dawnStatus_HORIZON = true := by
  unfold State.hzReq
  split
  · exact State.horizonFor_shows _ (by decide)
  · exact h

theorem State.hzReq_shows (h : s.flag F.hzCfg_HZ_REQ = true) : s.hzReq.flag F.dawnStatus_HORIZON = true := by
  unfold State.hzReq
  rw [if_pos h]
  exact State.horizonFor_shows _ (by decide)

theorem State.hzReq_fget {f : Fld} (hf : f.reg = .dawnStatus) (h : 8 < f.lo ∨ f.hi < 5) : s.hzReq.fget f = s.fget f := by
  unfold State.hzReq
  split
  · rw [State.horizonFor_fget _ 3 h]
    exact fget_fset_reg _ _ _ _ _ _ (by rw [hf]; decide)
  · rfl

theorem State.hzReq_boot : s.hzReq.boot = s.boot := by
  unfold State.hzReq
  split
  · exact State.horizonFor_boot _ 3
  · rfl

/-- Whether something asks for Horizon mode. -/
def State.hzAsked (s : State) : Prop := s.boot.hzNext ≠ 0 ∨ s.flag F.hzCfg_HZ_REQ = true

theorem State.horizonFor_hzReq (cause : Nat) : (s.horizonFor cause).flag F.hzCfg_HZ_REQ = s.flag F.hzCfg_HZ_REQ :=
  flag_of_rd F.hzCfg_HZ_REQ (s.horizonFor_rd cause 0 0 (by decide))

theorem State.takeHzReq_req : s.takeHzReq.flag F.hzCfg_HZ_REQ = false := State.hzReq_taken _

theorem State.takeHzReq_shows (h : s.hzAsked) : s.takeHzReq.flag F.dawnStatus_HORIZON = true := by
  rw [s.takeHzReq_eq]
  rcases h with h | h
  · exact State.hzReq_stays _ (s.horizonFor_shows h)
  · exact State.hzReq_shows _ ((s.horizonFor_hzReq _).trans h)

theorem State.takeHzReq_idle (h : ¬ s.hzAsked) : s.takeHzReq = { s with boot := { s.boot with hzNext := 0 } } := by
  obtain ⟨hn, hr⟩ := not_or.mp h
  have hnone : s.hzReq = s := if_neg hr
  rw [s.takeHzReq_eq, not_not.mp hn, s.horizonFor_zero, hnone]

theorem State.takeHzReq_fget {f : Fld} (hf : f.reg = .dawnStatus) (h : 8 < f.lo ∨ f.hi < 5) : s.takeHzReq.fget f = s.fget f := by
  rw [s.takeHzReq_eq]
  exact (State.hzReq_fget _ hf h).trans (s.horizonFor_fget _ h)

theorem State.takeHzReq_boot : s.takeHzReq.boot = { s.boot with hzNext := 0 } := by
  rw [s.takeHzReq_eq]
  exact congrArg (fun b : BootSt => { b with hzNext := 0 }) ((State.hzReq_boot _).trans (s.horizonFor_boot _))

/-! ## The slots (R481) -/

/-- What the checks of a slot read. -/
structure SameBoot (s u : State) : Prop where
  flash : u.boot.flash = s.boot.flash
  owner : u.trust.owner = s.trust.owner
  keys : u.rd .ownerStatus = s.rd .ownerStatus
  arb : u.rd .arbCtr = s.rd .arbCtr
  fault : u.rd .bnStatus = s.rd .bnStatus

theorem flashBytes_congr {s u : State} (h : u.boot.flash = s.boot.flash) (a n : Nat) : u.flashBytes a n = s.flashBytes a n := by
  unfold State.flashBytes State.flashAt
  rw [h]

theorem SameBoot.slotCheck {s u : State} (h : SameBoot s u) (slot : Nat) : u.slotCheck slot = s.slotCheck slot := by
  obtain ⟨hflash, howner, hkeys, harb, hfault⟩ := h
  have hd : u.dereagorKeys = s.dereagorKeys := by
    unfold State.dereagorKeys
    rw [fget_of_rd F.ownerStatus_DEREAGOR_REVOKED hkeys]
  have ho : u.ownerKeys = s.ownerKeys := by
    unfold State.ownerKeys
    rw [flag_of_rd F.ownerStatus_ENROLLED hkeys, howner]
  have ha : ∀ k, u.arbOf k = s.arbOf k := fun k => by
    unfold State.arbOf
    rw [harb]
  have hi : ∀ d n, u.imgCheck d n = s.imgCheck d n := fun d n => by
    unfold State.imgCheck
    rw [hd, ho, flag_of_rd F.bnStatus_FAULT hfault]
    simp only [ha]
  unfold State.slotCheck
  simp only [flashBytes_congr hflash, hd, ho, ha, hi]

theorem slotSeq_congr {s u : State} (h : u.boot.flash = s.boot.flash) (k : Nat) : u.slotSeq k = s.slotSeq k := by
  unfold State.slotSeq
  rw [flashBytes_congr h]

/-- The slot tried first, of the two. -/
def State.firstSlot (s : State) : Nat :=
  if 0 < (s.slotSeq 1 + 2 ^ 32 - s.slotSeq 0) % 2 ^ 32 ∧ (s.slotSeq 1 + 2 ^ 32 - s.slotSeq 0) % 2 ^ 32 < 2 ^ 31 then 1 else 0

theorem State.firstSlot_le : s.firstSlot ≤ 1 := by
  unfold State.firstSlot
  split <;> decide

theorem State.slotOrder_eq : s.slotOrder = [s.firstSlot, 1 - s.firstSlot] := by
  unfold State.slotOrder State.firstSlot
  dsimp only
  split <;> rfl

theorem State.trySlots_first {k : Nat} {x : BootPass} (l : List Nat) (h : s.slotCheck k = some x) : s.trySlots (k :: l) = ([], some (k, x)) := by
  rw [State.trySlots, h]

theorem State.trySlots_next {k : Nat} (l : List Nat) (h : s.slotCheck k = none) :
    s.trySlots (k :: l) = (k :: (s.trySlots l).1, (s.trySlots l).2) := by
  rw [State.trySlots, h]

/-! ## A slot boots, or the ROM does -/

/-- DAWN_STATUS's bit for a slot that failed. -/
def slotBad (k : Nat) : Fld := if k = 0 then F.dawnStatus_SLOT_A_BAD else F.dawnStatus_SLOT_B_BAD

theorem slotBad_fld (k : Nat) : (slotBad k).reg = .dawnStatus ∧ 10 < (slotBad k).lo ∧ (slotBad k).lo = (slotBad k).hi ∧ (slotBad k).hi < 32 := by
  unfold slotBad
  split <;> decide

def State.markBad (s : State) (k : Nat) : State := s.fset (slotBad k) 1

theorem State.markBad_shows (k : Nat) : (s.markBad k).flag (slotBad k) = true := by
  obtain ⟨-, -, hone, hhi⟩ := slotBad_fld k
  exact flag_fset_one s (slotBad k) 0 0 hone hhi

theorem State.markBad_stays {k : Nat} (k' : Nat) (h : s.flag (slotBad k) = true) : (s.markBad k').flag (slotBad k) = true := by
  unfold State.markBad slotBad at *
  obtain rfl | hk := eq_or_ne k' 0
  · rw [if_pos rfl]
    split
    · exact flag_fset_one s _ 0 0 rfl (by decide)
    · rw [flag_fset_off _ _ _ _ _ _ (by decide) (by decide) fun _ => .inl (by decide)]
      rwa [if_neg ‹_›] at h
  · rw [if_neg hk]
    split
    · rw [flag_fset_off _ _ _ _ _ _ (by decide) (by decide) fun _ => .inr (by decide)]
      rwa [if_pos ‹_›] at h
    · exact flag_fset_one s _ 0 0 rfl (by decide)

theorem State.markBad_fget (k : Nat) {f : Fld} (h : f.hi < 11) : (s.markBad k).fget f = s.fget f := by
  obtain ⟨-, hlo, hone, hhi⟩ := slotBad_fld k
  exact fget_fset_off _ _ _ _ _ _ hone.le hhi fun _ => .inr (by omega)

theorem State.markBad_rd (k : Nat) {n : RName} (i j : Nat) (h : n ≠ .dawnStatus) : (s.markBad k).rd n i j = s.rd n i j :=
  rd_fset_reg _ _ _ _ _ _ (by rw [(slotBad_fld k).1]; exact h)

theorem State.markBad_boot (k : Nat) : (s.markBad k).boot = s.boot := rfl

/-- The slot that boots, by number, security version and sequence. -/
def State.slotNamed (s : State) (slot : Nat) (x : BootPass) : State :=
  ((s.fset F.dawnStatus_SLOT slot).fset F.bootSvn_V x.svn).wr .bootSeq (BitVec.ofNat 32 x.seq)

/-- What the firmware's bytes leave in the measurements, and the key slots it revokes. -/
def State.slotMeasured (s : State) (x : BootPass) : State :=
  let s2 := (s.setMeas 0 (Config.shake256 x.covered 32)).setMeas 3 (Config.shake256 (Config.boardConfig x.covered) 32)
  if x.dereagor then
    s2.fset F.ownerStatus_DEREAGOR_REVOKED (s2.fget F.ownerStatus_DEREAGOR_REVOKED ||| (Config.revokes x.covered).toNat)
  else s2

theorem State.slotMeasured_keeps (x : BootPass) : Keeps (.words [.bnMeas, .ownerStatus]) s (s.slotMeasured x) :=
  keeps_ite (State.fset_keeps (State.setMeas_keeps (State.setMeas_keeps (.rfl' _ s) 0 _) 3 _) F.ownerStatus_DEREAGOR_REVOKED _ 0 0)
    (State.setMeas_keeps (State.setMeas_keeps (.rfl' _ s) 0 _) 3 _)

theorem State.slotMeasured_boot (x : BootPass) : (s.slotMeasured x).boot = s.boot := (s.slotMeasured_keeps x).boot rfl

theorem State.bootSlot_eq (slot : Nat) (x : BootPass) : s.bootSlot slot x =
    { (s.slotNamed slot x).slotMeasured x with
      boot := { ((s.slotNamed slot x).slotMeasured x).boot with image := some x.img, romFirmware := false } } := rfl

theorem State.bootSlot_boot (slot : Nat) (x : BootPass) : (s.bootSlot slot x).boot = { s.boot with image := some x.img, romFirmware := false } := by
  rw [s.bootSlot_eq]
  exact congrArg (fun b : BootSt => { b with image := some x.img, romFirmware := false }) (State.slotMeasured_boot _ x)

theorem State.bootSlot_rd (slot : Nat) (x : BootPass) {n : RName} (i j : Nat) (h : n ∉ [RName.bnMeas, .ownerStatus]) :
    (s.bootSlot slot x).rd n i j = (s.slotNamed slot x).rd n i j := by
  rw [s.bootSlot_eq]
  exact ((s.slotNamed slot x).slotMeasured_keeps x).rd n i j (Touch.words_has h)

theorem State.bootSlot_dawn (slot : Nat) (x : BootPass) : (s.bootSlot slot x).rd .dawnStatus = (s.fset F.dawnStatus_SLOT slot).rd .dawnStatus :=
  (s.bootSlot_rd slot x 0 0 (by decide)).trans ((rd_wr_reg _ _ _ _ _ _ (by decide)).trans (rd_fset_reg _ _ _ _ _ _ (by decide)))

theorem State.bootSlot_fget (slot : Nat) (x : BootPass) {f : Fld} (hf : f.reg = .dawnStatus) (h : 10 < f.lo ∨ f.hi < 10) :
    (s.bootSlot slot x).fget f = s.fget f :=
  (fget_of_rd f (by rw [hf]; exact s.bootSlot_dawn slot x)).trans (fget_fset_off _ _ _ _ _ _ (by decide) (by decide) fun _ => h)

theorem State.bootSlot_slot {slot : Nat} (x : BootPass) (h : slot ≤ 1) : (s.bootSlot slot x).fget F.dawnStatus_SLOT = slot :=
  (fget_of_rd F.dawnStatus_SLOT (s.bootSlot_dawn slot x)).trans
    ((fget_fset_same s F.dawnStatus_SLOT slot 0 0 (by decide) (by decide)).trans (Nat.mod_eq_of_lt (Nat.lt_succ_of_le h)))

theorem State.bootSlot_svn (slot : Nat) (x : BootPass) : (s.bootSlot slot x).fget F.bootSvn_V = x.svn % 256 :=
  (fget_of_rd F.bootSvn_V ((s.bootSlot_rd slot x 0 0 (by decide)).trans (rd_wr_reg _ _ _ _ _ _ (by decide)))).trans
    (fget_fset_same _ F.bootSvn_V x.svn 0 0 (by decide) (by decide))

theorem State.bootSlot_hzCfg (slot : Nat) (x : BootPass) : (s.bootSlot slot x).rd .hzCfg = s.rd .hzCfg :=
  (s.bootSlot_rd slot x 0 0 (by decide)).trans ((rd_wr_reg _ _ _ _ _ _ (by decide)).trans
    ((rd_fset_reg _ _ _ _ _ _ (by decide)).trans (rd_fset_reg _ _ _ _ _ _ (by decide))))

theorem State.withBoot_rd (b : BootSt) (n : RName) (i j : Nat) : ({ s with boot := b } : State).rd n i j = s.rd n i j := rfl

/-- The ROM's measurements. -/
def State.romMeasured (s : State) : State :=
  (s.setMeas 0 (Config.shake256 Config.romFirmware 32)).setMeas 3 (Config.shake256 (Config.boardConfig []) 32)

/-- The ROM runs, without an image. -/
def State.romRuns (s : State) : State := { s.romMeasured with boot := { s.romMeasured.boot with image := none, romFirmware := true } }

theorem State.bootRom_eq : s.bootRom = s.romRuns.horizonFor 1 := rfl

theorem State.romMeasured_keeps : Keeps (.words [.bnMeas]) s s.romMeasured := State.setMeas_keeps (State.setMeas_keeps (.rfl' _ s) 0 _) 3 _

theorem State.romRuns_rd {n : RName} (i j : Nat) (h : n ∉ [RName.bnMeas]) : s.romRuns.rd n i j = s.rd n i j := by
  unfold State.romRuns
  rw [State.withBoot_rd]
  exact s.romMeasured_keeps.rd n i j (Touch.words_has h)

theorem State.bootRom_boot : s.bootRom.boot = { s.boot with image := none, romFirmware := true } := by
  rw [s.bootRom_eq, State.horizonFor_boot]
  exact congrArg (fun b : BootSt => { b with image := none, romFirmware := true }) (s.romMeasured_keeps.boot rfl)

theorem State.bootRom_shows : s.bootRom.flag F.dawnStatus_HORIZON = true ∧ s.bootRom.fget F.dawnStatus_HZ_CAUSE = 1 := by
  rw [s.bootRom_eq]
  refine ⟨State.horizonFor_shows _ (by decide), ?_⟩
  rw [State.horizonFor_cause _ (by decide) (by decide)]
  split
  · rfl
  · exact Nat.min_eq_right (Nat.one_le_iff_ne_zero.mpr ‹_›)

theorem State.bootRom_fget {f : Fld} (hf : f.reg = .dawnStatus) (h : 8 < f.lo ∨ f.hi < 5) : s.bootRom.fget f = s.fget f := by
  rw [s.bootRom_eq, State.horizonFor_fget _ 1 h]
  exact fget_of_rd f (s.romRuns_rd 0 0 (by rw [hf]; decide))

theorem State.bootRom_hzCfg : s.bootRom.rd .hzCfg = s.rd .hzCfg := by
  rw [s.bootRom_eq]
  exact (State.horizonFor_rd _ 1 0 0 (by decide)).trans (s.romRuns_rd 0 0 (by decide))

/-! ## Dawn's next step -/

theorem State.dawnTo_fget (k step : Nat) {f : Fld} (h : f.reg = .dawnStatus → 3 < f.lo) : (s.dawnTo k step).fget f = s.fget f :=
  fget_fset_off _ _ _ _ _ _ (by decide) (by decide) fun hf => .inl (h hf)

theorem State.dawnTo_step (k : Nat) {step : Nat} (h : step < 16) : (s.dawnTo k step).fget F.dawnStatus_STEP = step :=
  (fget_fset_same _ F.dawnStatus_STEP step 0 0 (by decide) (by decide)).trans (Nat.mod_eq_of_lt h)

theorem State.dawnTo_rd (k step : Nat) {n : RName} (i j : Nat) (h : n ≠ .dawnStatus) : (s.dawnTo k step).rd n i j = s.rd n i j :=
  rd_fset_reg _ _ _ _ _ _ h

theorem State.dawnTo_boot (k step : Nat) : (s.dawnTo k step).boot = { s.boot with stage := k } := rfl

theorem State.linkStart_fget (f : Fld) (i j : Nat) : s.linkStart.fget f i j = s.fget f i j := rfl

/-! ## The boot of a slot (R481) -/

/-- The slots tried, and what comes of them. -/
def State.slotOutcome (s : State) (r : List Nat × Option (Nat × BootPass)) : State :=
  match r.2 with
  | some (k, x) => (s.each r.1 (fun k s => s.markBad k)).bootSlot k x
  | none => (s.each r.1 (fun k s => s.markBad k)).bootRom

/-- Dawn goes on to step 4. -/
def State.slotStep (s : State) : State := (s.dawnTo 3 4).linkStart

theorem execBootSlotCheck_at (h : s.dawnAt 2 = true) {b : State} (hb : s.arbBlow.takeHzReq = b) {r : List Nat × Option (Nat × BootPass)}
    (hr : b.trySlots b.slotOrder = r) : execBootSlotCheck s = .next (b.slotOutcome r).slotStep := by
  unfold execBootSlotCheck
  rw [if_neg (by rw [h]; decide), hb]
  simp only [hr]
  obtain ⟨l, _ | ⟨k, x⟩⟩ := r
  · rfl
  · rfl

/-- What any outcome of the slots leaves. -/
structure SlotsLeave (s u : State) : Prop where
  journal : u.boot.journal = s.boot.journal
  hzCfg : u.rd .hzCfg = s.rd .hzCfg
  horizon : s.flag F.dawnStatus_HORIZON = true → u.flag F.dawnStatus_HORIZON = true

variable {s} in
theorem SlotsLeave.trans {u v : State} (h : SlotsLeave s u) (k : SlotsLeave u v) : SlotsLeave s v :=
  ⟨k.journal.trans h.journal, k.hzCfg.trans h.hzCfg, fun e => k.horizon (h.horizon e)⟩

theorem flag_eq_of_fget {s u : State} {f : Fld} (h : u.fget f = s.fget f) : u.flag f = s.flag f := congrArg (fun x => decide (x = 1)) h

theorem State.markBad_leaves (k : Nat) : SlotsLeave s (s.markBad k) :=
  ⟨rfl, s.markBad_rd k 0 0 (by decide), fun h => (flag_eq_of_fget (s.markBad_fget k (by decide))).trans h⟩

theorem State.markBads_leave (l : List Nat) : SlotsLeave s (s.each l (fun k s => s.markBad k)) :=
  State.each_ind (P := SlotsLeave s) ⟨rfl, rfl, id⟩ fun k u hu => hu.trans (u.markBad_leaves k)

theorem State.bootSlot_leaves (slot : Nat) (x : BootPass) : SlotsLeave s (s.bootSlot slot x) :=
  ⟨by rw [s.bootSlot_boot], s.bootSlot_hzCfg slot x,
    fun h => (flag_eq_of_fget (s.bootSlot_fget slot x rfl (.inr (by decide)))).trans h⟩

theorem State.bootRom_leaves : SlotsLeave s s.bootRom :=
  ⟨by rw [s.bootRom_boot], s.bootRom_hzCfg, fun _ => s.bootRom_shows.1⟩

theorem State.slotOutcome_leaves (r : List Nat × Option (Nat × BootPass)) : SlotsLeave s (s.slotOutcome r) := by
  unfold State.slotOutcome
  split
  · exact (s.markBads_leave _).trans (State.bootSlot_leaves _ _ _)
  · exact (s.markBads_leave _).trans (State.bootRom_leaves _)

theorem State.slotStep_boot : s.slotStep.boot = { s.boot with stage := 3 } := rfl

theorem State.slotStep_fget {f : Fld} (h : f.reg = .dawnStatus → 3 < f.lo) : s.slotStep.fget f = s.fget f := s.dawnTo_fget 3 4 h

theorem State.slotStep_leaves : SlotsLeave s s.slotStep :=
  ⟨rfl, s.dawnTo_rd 3 4 0 0 (by decide), fun h => (flag_eq_of_fget (s.slotStep_fget fun _ => by decide)).trans h⟩

/-! ### Before the slots -/

/-- One increment that the journal holds. -/
def State.arbEntry (j : Journal) (s : State) : State := match j with
  | .arb cls v => s.setArb cls (max v (s.arbOf cls))

theorem State.arbBlow_words : s.arbBlow.boot = { s.boot with journal := [] } ∧ s.arbBlow.rd .dawnStatus = s.rd .dawnStatus ∧
    s.arbBlow.rd .hzCfg = s.rd .hzCfg := by
  have hk : Keeps (.onRegs [.arbCtr]) s s.arbBlow := State.arbBlow_keeps (.rfl' _ s)
  refine ⟨?_, hk.onlyRegs .dawnStatus 0 0 (by decide), hk.onlyRegs .hzCfg 0 0 (by decide)⟩
  have hboot : (s.each s.boot.journal State.arbEntry).boot = s.boot := State.each_view State.boot fun j u => by cases j; rfl
  exact congrArg (fun b : BootSt => { b with journal := [] }) hboot

theorem State.arbBlow_asked : s.arbBlow.hzAsked ↔ s.hzAsked := by
  obtain ⟨hboot, -, hcfg⟩ := s.arbBlow_words
  unfold State.hzAsked
  rw [hboot, flag_of_rd F.hzCfg_HZ_REQ hcfg]

theorem State.takeHzReq_same : SameBoot s s.takeHzReq := by
  have hk : Keeps { Touch.avoid [.ownerStatus, .arbCtr, .bnStatus] with trust := false } s s.takeHzReq := State.takeHzReq_keeps (.rfl' _ s)
  exact ⟨by rw [s.takeHzReq_boot], congrArg TrustSt.owner (hk.trust rfl), hk.rd _ 0 0 rfl, hk.rd _ 0 0 rfl, hk.rd _ 0 0 rfl⟩

/-- The state that the slots are tried in. -/
structure BeforeSlots (s u : State) : Prop where
  same : ∀ k, u.slotCheck k = s.arbBlow.slotCheck k
  order : u.slotOrder = [s.firstSlot, 1 - s.firstSlot]
  journal : u.boot.journal = []
  req : u.flag F.hzCfg_HZ_REQ = false
  asked : s.hzAsked → u.flag F.dawnStatus_HORIZON = true
  idle : ¬ s.hzAsked → u.flag F.dawnStatus_HORIZON = s.flag F.dawnStatus_HORIZON
  bad : ∀ f : Fld, f.reg = .dawnStatus → 8 < f.lo → u.fget f = s.fget f

theorem State.beforeSlots : BeforeSlots s s.arbBlow.takeHzReq := by
  obtain ⟨hboot, hdawn, -⟩ := s.arbBlow_words
  have htaken := s.arbBlow.takeHzReq_boot
  refine ⟨fun k => s.arbBlow.takeHzReq_same.slotCheck k, ?_, ?_, s.arbBlow.takeHzReq_req, fun h => ?_, fun h => ?_, fun f hf hlo => ?_⟩
  · have hflash : s.arbBlow.takeHzReq.boot.flash = s.boot.flash := by rw [htaken, hboot]
    rw [State.slotOrder_eq]
    unfold State.firstSlot
    rw [slotSeq_congr hflash, slotSeq_congr hflash]
  · rw [htaken, hboot]
  · exact State.takeHzReq_shows _ (s.arbBlow_asked.mpr h)
  · rw [State.takeHzReq_idle _ fun e => h (s.arbBlow_asked.mp e)]
    exact flag_of_rd F.dawnStatus_HORIZON hdawn
  · exact (State.takeHzReq_fget _ hf (.inl hlo)).trans (fget_of_rd f (by rw [hf]; exact hdawn))

end

/-! ### The three outcomes -/

section
variable {s u : State}

theorem BeforeSlots.first (h : BeforeSlots s u) {x : BootPass} (hx : s.arbBlow.slotCheck s.firstSlot = some x) :
    u.slotOutcome (u.trySlots u.slotOrder) = u.bootSlot s.firstSlot x := by
  rw [h.order, u.trySlots_first _ ((h.same _).trans hx)]
  rfl

theorem BeforeSlots.second (h : BeforeSlots s u) {x : BootPass} (hn : s.arbBlow.slotCheck s.firstSlot = none)
    (hx : s.arbBlow.slotCheck (1 - s.firstSlot) = some x) :
    u.slotOutcome (u.trySlots u.slotOrder) = (u.markBad s.firstSlot).bootSlot (1 - s.firstSlot) x := by
  rw [h.order, u.trySlots_next _ ((h.same _).trans hn), u.trySlots_first _ ((h.same _).trans hx)]
  rfl

theorem BeforeSlots.neither (h : BeforeSlots s u) (hn : s.arbBlow.slotCheck s.firstSlot = none)
    (hn' : s.arbBlow.slotCheck (1 - s.firstSlot) = none) :
    u.slotOutcome (u.trySlots u.slotOrder) = ((u.markBad s.firstSlot).markBad (1 - s.firstSlot)).bootRom := by
  rw [h.order, u.trySlots_next _ ((h.same _).trans hn), u.trySlots_next _ ((h.same _).trans hn')]
  rfl

end

section
variable (s : State)

theorem State.markBad_both (k : Nat) : ((s.markBad k).markBad (1 - k)).flag F.dawnStatus_SLOT_A_BAD = true ∧
    ((s.markBad k).markBad (1 - k)).flag F.dawnStatus_SLOT_B_BAD = true := by
  by_cases hk : k = 0
  · subst hk
    exact ⟨State.markBad_stays (k := 0) _ 1 (s.markBad_shows 0), State.markBad_shows _ 1⟩
  · have hb : slotBad k = F.dawnStatus_SLOT_B_BAD := if_neg hk
    have ha : slotBad (1 - k) = F.dawnStatus_SLOT_A_BAD := if_pos (by omega)
    exact ⟨ha ▸ State.markBad_shows _ _, hb ▸ State.markBad_stays _ _ (s.markBad_shows k)⟩

/-- What the boot of slots leaves in each outcome (R481). -/
def State.SlotResult (s u : State) : Prop :=
  match s.arbBlow.slotCheck s.firstSlot, s.arbBlow.slotCheck (1 - s.firstSlot) with
  | some x, _ => u.fget F.dawnStatus_SLOT = s.firstSlot ∧ u.fget F.bootSvn_V = x.svn % 256 ∧ u.boot.image = some x.img ∧
    u.boot.romFirmware = false ∧ u.flag F.dawnStatus_SLOT_A_BAD = s.flag F.dawnStatus_SLOT_A_BAD ∧
    u.flag F.dawnStatus_SLOT_B_BAD = s.flag F.dawnStatus_SLOT_B_BAD ∧
    (¬ s.hzAsked → u.flag F.dawnStatus_HORIZON = s.flag F.dawnStatus_HORIZON)
  | none, some x => u.fget F.dawnStatus_SLOT = 1 - s.firstSlot ∧ u.boot.image = some x.img ∧ u.boot.romFirmware = false ∧
    u.flag (slotBad s.firstSlot) = true
  | none, none => u.boot.romFirmware = true ∧ u.boot.image = none ∧ u.flag F.dawnStatus_SLOT_A_BAD = true ∧
    u.flag F.dawnStatus_SLOT_B_BAD = true ∧ u.flag F.dawnStatus_HORIZON = true ∧ u.fget F.dawnStatus_HZ_CAUSE = 1

theorem State.slotOutcome_result {b : State} (h : BeforeSlots s b) : s.SlotResult (b.slotOutcome (b.trySlots b.slotOrder)).slotStep := by
  obtain ⟨t, ht⟩ : ∃ t, t = b.slotOutcome (b.trySlots b.slotOrder) := ⟨_, rfl⟩
  have hstep : ∀ f : Fld, 3 < f.lo → t.slotStep.fget f = t.fget f := fun f hf => t.slotStep_fget fun _ => hf
  have hflag : ∀ f : Fld, 3 < f.lo → t.slotStep.flag f = t.flag f := fun f hf => flag_eq_of_fget (hstep f hf)
  have hboot := t.slotStep_boot
  rw [← ht]
  unfold State.SlotResult
  cases hx : s.arbBlow.slotCheck s.firstSlot with
  | some x =>
    rw [h.first hx] at ht
    have hkeep : ∀ f : Fld, f.reg = .dawnStatus → 10 < f.lo → t.slotStep.flag f = s.flag f := fun f hf hlo => by
      rw [hflag f (by omega), ht]
      exact flag_eq_of_fget ((b.bootSlot_fget _ x hf (.inl hlo)).trans (h.bad f hf (by omega)))
    refine ⟨?_, ?_, ?_, ?_, hkeep _ rfl (by decide), hkeep _ rfl (by decide), fun hn => ?_⟩
    · rw [hstep _ (by decide), ht]
      exact b.bootSlot_slot x s.firstSlot_le
    · rw [t.slotStep_fget fun e => by simp [F.bootSvn_V] at e, ht]
      exact b.bootSlot_svn _ x
    · rw [hboot, ht, b.bootSlot_boot]
    · rw [hboot, ht, b.bootSlot_boot]
    · rw [hflag _ (by decide), ht]
      exact (flag_eq_of_fget (b.bootSlot_fget _ x rfl (.inr (by decide)))).trans (h.idle hn)
  | none =>
    cases hx' : s.arbBlow.slotCheck (1 - s.firstSlot) with
    | some x =>
      rw [h.second hx hx'] at ht
      obtain ⟨hreg, hlo, -, -⟩ := slotBad_fld s.firstSlot
      refine ⟨?_, ?_, ?_, ?_⟩
      · rw [hstep _ (by decide), ht]
        exact State.bootSlot_slot _ x (Nat.sub_le 1 _)
      · rw [hboot, ht, State.bootSlot_boot]
      · rw [hboot, ht, State.bootSlot_boot]
      · rw [hflag _ (by omega), ht]
        exact (flag_eq_of_fget (State.bootSlot_fget _ _ x hreg (.inl hlo))).trans (b.markBad_shows _)
    | none =>
      rw [h.neither hx hx'] at ht
      obtain ⟨ha, hb⟩ := b.markBad_both s.firstSlot
      refine ⟨?_, ?_, ?_, ?_, ?_, ?_⟩
      · rw [hboot, ht, State.bootRom_boot]
      · rw [hboot, ht, State.bootRom_boot]
      · rw [hflag _ (by decide), ht]
        exact (flag_eq_of_fget (State.bootRom_fget _ rfl (.inl (by decide)))).trans ha
      · rw [hflag _ (by decide), ht]
        exact (flag_eq_of_fget (State.bootRom_fget _ rfl (.inl (by decide)))).trans hb
      · rw [hflag _ (by decide), ht]
        exact (State.bootRom_shows _).1
      · rw [hstep _ (by decide), ht]
        exact (State.bootRom_shows _).2

theorem execBootSlotCheck_spec (h : s.dawnAt 2 = true) : ∃ t : State, exec .bootSlotCheck s = .next t.slotStep ∧
    t.slotStep.flag F.hzCfg_HZ_REQ = false ∧ t.slotStep.boot.journal = [] ∧
    (s.hzAsked → t.slotStep.flag F.dawnStatus_HORIZON = true) ∧ s.SlotResult t.slotStep := by
  have hb := s.beforeSlots
  obtain ⟨b, hbe⟩ : ∃ b, b = s.arbBlow.takeHzReq := ⟨_, rfl⟩
  rw [← hbe] at hb
  obtain ⟨hjournal, hcfg, hhz⟩ := (b.slotOutcome_leaves (b.trySlots b.slotOrder)).trans (State.slotStep_leaves _)
  have hexec := execBootSlotCheck_at s h hbe.symm rfl
  have hresult := s.slotOutcome_result hb
  obtain ⟨t, ht⟩ : ∃ t, t = b.slotOutcome (b.trySlots b.slotOrder) := ⟨_, rfl⟩
  rw [← ht] at hexec hresult hjournal hcfg hhz
  exact ⟨t, hexec, (flag_of_rd F.hzCfg_HZ_REQ hcfg).trans hb.req, hjournal.trans hb.journal,
    fun ha => hhz (hb.asked ha), hresult⟩

/-! ## The other steps -/

theorem State.dawnTo_onlyRegs (k step : Nat) : OnlyRegs [.dawnStatus] s (s.dawnTo k step) := fun _ i j h =>
  s.dawnTo_rd k step i j fun e => h (e ▸ List.mem_cons_self)

/-- Dawn halted by a block that failed (R478). -/
def State.dawnHalted (s : State) : State := (({ s with boot := { s.boot with stage := 0 } }).fset F.dawnStatus_HALT 1).fset F.errnStatus_HALT 1

theorem State.dawnHalted_spec : s.dawnHalted.flag F.dawnStatus_HALT = true ∧ s.dawnHalted.flag F.errnStatus_HALT = true ∧
    (∀ k, k ≠ 0 → s.dawnHalted.dawnAt k = false) ∧ OnlyRegs [.dawnStatus, .errnStatus] s s.dawnHalted := by
  refine ⟨?_, flag_fset_one _ F.errnStatus_HALT 0 0 rfl (by decide), fun k hk => ?_,
    ((OnlyRegs.refl _ s).fset (f := F.dawnStatus_HALT) 1 0 0 (by decide)).fset (f := F.errnStatus_HALT) 1 0 0 (by decide)⟩
  · unfold State.dawnHalted
    rw [flag_fset_off _ _ _ _ _ _ (by decide) (by decide) (by decide)]
    exact flag_fset_one _ F.dawnStatus_HALT 0 0 rfl (by decide)
  · unfold State.dawnAt
    rw [decide_eq_false (show ¬ s.dawnHalted.boot.stage = k from Ne.symm hk), Bool.and_false]

/-- Dawn goes on with the blocks that failed noted. -/
def State.dawnTested (s : State) (failed : Nat) : State := ({ s with boot := { s.boot with unusable := failed } }).dawnTo 5 6

theorem State.dawnTested_spec (failed : Nat) : (s.dawnTested failed).boot.stage = 5 ∧
    (s.dawnTested failed).flag F.dawnStatus_HALT = s.flag F.dawnStatus_HALT ∧ OnlyRegs [.dawnStatus] s (s.dawnTested failed) := by
  unfold State.dawnTested
  have hother : ∀ u : State, (u.dawnTo 5 6).flag F.dawnStatus_HALT = u.flag F.dawnStatus_HALT := fun u =>
    flag_eq_of_fget (u.dawnTo_fget 5 6 fun _ => by decide)
  exact ⟨rfl, (hother _).trans rfl, State.dawnTo_onlyRegs _ 5 6⟩

theorem dawnToStepFive_holds : Claims.DawnToStepFive := by
  intro s failed
  have hnot : ∀ {b : Bool}, b = false → ¬ b = true := fun h e => Bool.false_ne_true (h.symm.trans e)
  refine ⟨fun h => congrArg Host.Outcome.next (if_neg (hnot h)), fun h => ?_, fun h => congrArg Host.Outcome.next (if_neg ?_), fun hv hi hs => ?_,
    fun h => congrArg Host.Outcome.next (if_pos h), fun h => ?_, fun h => congrArg Host.Outcome.next (if_neg (hnot h)), fun h => ?_,
    fun h => congrArg Host.Outcome.next (if_pos h), fun h hf => ?_, fun h hf => ?_⟩
  · exact ⟨{ s with boot := { s.boot with inrush := true } }, congrArg Host.Outcome.next (if_pos h), rfl, rfl, OnlyRegs.refl _ s⟩
  · rintro ⟨h1, h2, h3⟩
    rcases h with h | h | h
    · exact hnot h h1
    · exact hnot h h2
    · exact h h3
  · exact ⟨(({ s with boot := { s.boot with rootLocked := true } }).dawnTo 2 2).linkStart, congrArg Host.Outcome.next (if_pos ⟨hv, hi, hs⟩),
      (State.linkStart_fget _ F.dawnStatus_STEP 0 0).trans (State.dawnTo_step _ 2 (by decide)), rfl, rfl, rfl, State.dawnTo_onlyRegs _ 2 2⟩
  · obtain ⟨t, hexec, hreq, hjournal, hasked, hresult⟩ := execBootSlotCheck_spec s h
    unfold State.SlotResult at hresult
    refine ⟨t.slotStep, hexec, rfl, hreq, hjournal, hasked, ?_⟩
    unfold State.firstSlot at hresult
    generalize s.arbBlow.slotCheck _ = first at hresult ⊢
    generalize s.arbBlow.slotCheck _ = second at hresult ⊢
    exact hresult
  · exact ⟨({ s with boot := { s.boot with serviceCore := true } }).dawnTo 4 5, congrArg Host.Outcome.next (if_pos h), rfl, rfl,
      State.dawnTo_onlyRegs _ 4 5⟩
  · obtain ⟨h1, h2, h3, h4⟩ := s.dawnHalted_spec
    exact ⟨s.dawnHalted, congrArg Host.Outcome.next ((if_neg (by rw [h]; decide)).trans (if_pos hf)), h1, h2, h3, h4⟩
  · obtain ⟨h1, h2, h3⟩ := s.dawnTested_spec failed
    exact ⟨s.dawnTested failed, congrArg Host.Outcome.next ((if_neg (by rw [h]; decide)).trans (if_neg (not_not.mpr hf))), h1, h2, h3⟩

end
end Sys2Proof.Machine
end

section
/-!
PROOF. Dawn from step 6 to READY (R450, R451, R457, R477, R488, R489, R495).
-/

set_option Elab.async false
set_option exponentiation.threshold 4096
set_option maxRecDepth 20000

namespace Sys2Proof.Machine

section
variable (s : State)

/-! ## Failed lanes (R451, R477) -/

/-- SPARE_LANE shows a lane. -/
def State.laneSpared (s : State) (l : Nat) : Prop := (s.rd .spareLane (l / 32)).getLsbD (l % 32) = true

/-- A failed lane reported and shown. -/
def State.laneShown (s : State) (l : Nat) : State :=
  (s.dawnReport 6 (l / 64) (l % 64)).wr .spareLane ((s.dawnReport 6 (l / 64) (l % 64)).rd .spareLane (l / 32) ||| BitVec.ofNat 32 (2 ^ (l % 32))) (l / 32)

theorem State.dawnReport_rd (cls dom ix : Nat) (i : Nat) : (s.dawnReport cls dom ix).rd .spareLane i = s.rd .spareLane i :=
  (State.report_keeps (.rfl' (.avoid [.spareLane]) s) _ _ _).rd .spareLane i 0 rfl

theorem State.dawnLane_rd (l i : Nat) : (s.dawnLane l).rd .spareLane i =
    (s.wr .spareLane (s.rd .spareLane (l / 32) ||| BitVec.ofNat 32 (2 ^ (l % 32))) (l / 32)).rd .spareLane i := by
  have hreport := fun i => s.dawnReport_rd 6 (l / 64) (l % 64) i
  obtain ⟨r, hr⟩ : ∃ r, r = s.dawnReport 6 (l / 64) (l % 64) := ⟨_, rfl⟩
  have heq : s.dawnLane l = (r.wr .spareLane (s.rd .spareLane (l / 32) ||| BitVec.ofNat 32 (2 ^ (l % 32))) (l / 32)).dawnOut 6 (l / 64) (l % 64) l := by
    rw [hr]
    rfl
  rw [← hr] at hreport
  rw [heq, (State.dawnOut_keeps (.rfl' (.avoid [.spareLane]) (r.wr .spareLane _ (l / 32))) 6 (l / 64) (l % 64) l).rd .spareLane i 0 rfl]
  by_cases h : regKey .spareLane i 0 = regKey .spareLane (l / 32) 0
  · have hkey : ∀ u : State, u.rd .spareLane i = u.rd .spareLane (l / 32) := fun u => by
      unfold State.rd
      rw [h]
    rw [hkey, hkey, rd_wr_same, rd_wr_same]
  · rw [rd_wr_key _ _ h, rd_wr_key _ _ h, hreport]

theorem State.dawnLane_spares (l : Nat) : (s.dawnLane l).laneSpared l := by
  unfold State.laneSpared
  rw [s.dawnLane_rd, rd_wr_same, BitVec.getLsbD_or, BitVec.getLsbD_ofNat, Nat.testBit_two_pow_self, decide_eq_true (Nat.mod_lt l (by decide)), Bool.and_true,
    Bool.or_true]

theorem State.dawnLane_stays (k : Nat) {l : Nat} (h : s.laneSpared l) : (s.dawnLane k).laneSpared l := by
  unfold State.laneSpared at h ⊢
  rw [s.dawnLane_rd]
  by_cases hk : regKey .spareLane (l / 32) 0 = regKey .spareLane (k / 32) 0
  · have hkey : ∀ u : State, u.rd .spareLane (l / 32) = u.rd .spareLane (k / 32) := fun u => by
      unfold State.rd
      rw [hk]
    rw [hkey, rd_wr_same, BitVec.getLsbD_or, ← hkey, h, Bool.true_or]
  · rw [rd_wr_key _ _ hk, h]

/-- The chiplets that are in use. -/
def State.chipletUsed (s : State) (c : Nat) : Bool := !s.hz || decide (c = 0)

/-- The chiplets powered, with their tap front ends at the start. -/
def State.chipletsOn (s : State) : State :=
  { s with
    power := { s.power with chipletOn := true }
    zen := { s.zen with
      taps := s.zen.taps.filter (fun e => !s.chipletUsed (e.1 / 1536))
      epochs := forN 8 (fun c t => if s.chipletUsed c then tset t c 0 (tget t c 0 + 1) else t) s.zen.epochs } }

/-- The failed lanes of the chiplets in use. -/
def State.lanesOut (s : State) (used : Nat → Bool) (bad : List LaneIx) : State :=
  s.each bad (fun l s => if used (l.val / 64) then s.dawnLane l else s)

theorem execChipletCalibrated_eq (h : s.dawnAt 5 = true) (bad : List LaneIx) :
    exec (.chipletCalibrated bad) s = .next ((s.chipletsOn.lanesOut s.chipletUsed bad).dawnTo 6 7) :=
  congrArg Host.Outcome.next (if_neg (by rw [h]; decide))

theorem State.lanesOut_power (used : Nat → Bool) (bad : List LaneIx) : (s.lanesOut used bad).power = s.power :=
  State.each_view State.power fun l u => by
    split
    · exact (State.dawnLane_keeps (.rfl' { Touch.all with power := false } u) l).power rfl
    · rfl

theorem State.lanesOut_spares {used : Nat → Bool} {bad : List LaneIx} {l : LaneIx} (h : l ∈ bad) (hu : used (l.val / 64) = true) :
    (s.lanesOut used bad).laneSpared l :=
  State.each_sets (P := fun u => u.laneSpared l) s h (fun t => by
    rw [if_pos hu]
    exact t.dawnLane_spares l) fun b t ht => by
    split
    · exact t.dawnLane_stays b ht
    · exact ht

theorem chipletCalibrated_spec (h : s.dawnAt 5 = true) (bad : List LaneIx) : ∃ u, exec (.chipletCalibrated bad) s = .next u ∧ u.boot.stage = 6 ∧
    u.power.chipletOn = true ∧ ∀ l ∈ bad, (s.hz = true → l.val / 64 = 0) → (u.rd .spareLane (l / 32)).getLsbD (l % 32) = true := by
  refine ⟨_, execChipletCalibrated_eq s h bad, rfl, congrArg PowerSt.chipletOn (State.lanesOut_power _ _ bad), fun l hl hused => ?_⟩
  have hu : s.chipletUsed (l.val / 64) = true := by
    unfold State.chipletUsed
    cases hz : s.hz with
    | false => rfl
    | true => exact decide_eq_true (hused hz)
  rw [State.dawnTo_rd _ 6 7 _ _ (by decide)]
  exact State.lanesOut_spares _ hl hu

/-! ## READY -/

theorem dawnReady_spec (h : s.dawnAt 7 = true) (ms : Fin 65536) : ∃ u, exec (.dawnReady ms) s = .next u ∧ u.flag F.dawnStatus_READY = true ∧
    u.fget F.dawnStatus_STEP = 8 ∧ u.fget F.dawnMs_V = ms ∧ OnlyRegs [.dawnStatus, .dawnMs] s u ∧ OnlyWide [] s u := by
  obtain ⟨t, ht⟩ : ∃ t, t = s.dawnTo 8 8 := ⟨_, rfl⟩
  have hready : ∀ f : Fld, f.reg ≠ .dawnMs → ((t.fset F.dawnStatus_READY 1).fset F.dawnMs_V ms).fget f = (t.fset F.dawnStatus_READY 1).fget f :=
    fun f hf => fget_fset_reg _ _ _ _ _ _ hf
  refine ⟨(t.fset F.dawnStatus_READY 1).fset F.dawnMs_V ms, congrArg Host.Outcome.next ((if_pos h).trans (by rw [ht])),
    (flag_eq_of_fget (hready _ (by decide))).trans (flag_fset_one t _ 0 0 rfl (by decide)), (hready _ (by decide)).trans ?_, ?_, ?_, ?_⟩
  · rw [fget_fset_off _ _ _ _ _ _ (by decide) (by decide) fun _ => .inr (by decide), ht]
    exact s.dawnTo_step 8 (by decide)
  · exact (fget_fset_same _ F.dawnMs_V ms 0 0 (by decide) (by decide)).trans (Nat.mod_eq_of_lt ms.isLt)
  · rw [ht]
    exact ((OnlyRegs.trans (fun n i j hn => s.dawnTo_onlyRegs 8 8 n i j fun e => hn (List.mem_cons.mpr (.inl (List.mem_singleton.mp e))))
      (OnlyRegs.refl _ _)).fset (f := F.dawnStatus_READY) 1 0 0 (by decide)).fset (f := F.dawnMs_V) ms 0 0 (by decide)
  · rw [ht]
    exact ((OnlyWide.refl [] s).fset F.dawnStatus_STEP 8 0 0 |>.fset F.dawnStatus_READY 1 0 0).fset F.dawnMs_V ms 0 0

end
end Sys2Proof.Machine
end

section
/-!
PROOF. Step 7 of Dawn: full mode and Horizon mode (R457, R488, R489, R495).
-/

set_option Elab.async false
set_option exponentiation.threshold 4096
set_option maxRecDepth 20000

namespace Sys2Proof.Machine

section
variable (s : State)

/-- A low input is a cause of Horizon mode. -/
def State.causeLow (s : State) (vin : Nat) : State := if vin < 13000 then s.horizonFor 2 else s

/-- The core die powered. -/
def State.corePowered (s : State) : State := { s with power := { s.power with coreOn := true } }

/-- The mode that step 7 brings up. -/
def State.bringMode (s : State) (vin : Nat) : State := (if s.hz then s.horizonMode else s.fullMode vin).dawnTo 7 7

/-- Step 7 after its failed units. -/
def State.bringup (s : State) (vin : Nat) (u10 : Bool) : State :=
  ((if (s.causeLow vin).noForward || decide ((s.causeLow vin).rd .spareXlink 0 ≠ 0) || u10 then (s.causeLow vin).horizonFor 4
    else s.causeLow vin).corePowered).bringMode vin

/-- The failed units taken out. -/
def State.unitsOut (s : State) (bad : List (Fin 11 × TileIx × Fin 65536)) : State :=
  s.each bad (fun e s => if dawnUnitOk e.1 e.2.2 then s.dawnUnit e.1 e.2.1 e.2.2 else s)

theorem execCoreBringupDone_eq (h : s.dawnAt 6 = true) (vin : Fin 65536) (bad : List (Fin 11 × TileIx × Fin 65536)) :
    exec (.coreBringupDone vin bad) s = .next ((s.unitsOut bad).bringup vin (bad.any (fun e => decide (e.1.val = 10)))) :=
  congrArg Host.Outcome.next (if_neg (by rw [h]; decide))

/-! ## Tile 0 -/

theorem noForward_congr {s u : State} (hspare : u.rd .spareTile 0 = s.rd .spareTile 0) (hpipe : ∀ k, u.rd .pipeStatus 0 k = s.rd .pipeStatus 0 k) :
    u.noForward = s.noForward := by
  have hrole : ∀ k, u.fget F.pipeStatus_ROLE 0 k = s.fget F.pipeStatus_ROLE 0 k := fun k => fget_of_rd F.pipeStatus_ROLE (hpipe k)
  unfold State.noForward
  rw [flag_of_rd F.spareTile_UNUSABLE hspare, flag_of_rd F.spareTile_TILE_RETIRED hspare]
  simp only [hrole]

theorem State.causeLow_rd (vin : Nat) {n : RName} (i j : Nat) (h : n ≠ .dawnStatus) : (s.causeLow vin).rd n i j = s.rd n i j := by
  unfold State.causeLow
  split
  · exact s.horizonFor_rd 2 i j h
  · rfl

theorem State.causeLow_noForward (vin : Nat) : (s.causeLow vin).noForward = s.noForward :=
  noForward_congr (s.causeLow_rd vin 0 0 (by decide)) fun k => s.causeLow_rd vin 0 k (by decide)

theorem State.bringup_sound (vin : Nat) (hf : s.noForward = false) (hx : s.rd .spareXlink 0 = 0#32) :
    s.bringup vin false = (s.causeLow vin).corePowered.bringMode vin := by
  unfold State.bringup
  rw [s.causeLow_noForward, hf, s.causeLow_rd vin 0 0 (by decide), hx, if_neg (by decide)]

theorem State.bringup_failed (vin : Nat) (u10 : Bool) (hf : s.noForward = true) :
    s.bringup vin u10 = ((s.causeLow vin).horizonFor 4).corePowered.bringMode vin := by
  unfold State.bringup
  rw [s.causeLow_noForward, hf, Bool.true_or, Bool.true_or, if_pos rfl]

theorem State.bringMode_full (vin : Nat) (h : s.hz = false) : s.bringMode vin = (s.fullMode vin).dawnTo 7 7 := by
  unfold State.bringMode
  rw [if_neg (by rw [h]; decide)]

theorem State.bringMode_horizon (vin : Nat) (h : s.hz = true) : s.bringMode vin = s.horizonMode.dawnTo 7 7 := by
  unfold State.bringMode
  rw [if_pos h]

/-! ## The start of the control loop (R457) -/

/-- The operating point at which the loop starts. -/
def State.firstOp (s : State) (vin : Nat) : Nat :=
  if s.flag F.pwrStatus_LIMIT_HOLD || s.power.tripHold || s.power.resetHold || decide (vin < 15500) then 7
  else if vin < 18500 then 6 else if vin < 20750 then 5 else 4

theorem State.firstOp_eq (vin : Nat) :
    (if s.flag F.pwrStatus_LIMIT_HOLD || s.power.tripHold || s.power.resetHold then 7 else startOp vin) = s.firstOp vin := by
  unfold State.firstOp startOp
  cases s.flag F.pwrStatus_LIMIT_HOLD || s.power.tripHold || s.power.resetHold with
  | true => rw [Bool.true_or, if_pos rfl, if_pos rfl]
  | false =>
    rw [Bool.false_or, if_neg Bool.false_ne_true]
    exact if_congr decide_eq_true_iff.symm rfl rfl

theorem State.firstOp_lt (vin : Nat) : s.firstOp vin < 8 := by
  unfold State.firstOp
  repeat' split
  all_goals decide

/-- The loop at its first point, before the flags of throttling. -/
def State.loopAt (s : State) (k : Nat) : State :=
  (((({ s with power := { s.power with clkOp := k, up := none, settling := false, sinceDown := 100, grace := false, unmetStay := false } }
    ).fset F.pwrStatus_CUR_OP k).fset F.pwrStatus_STARTUP 1).fset F.pwrStatus_TRANSITION 0).setMv k

theorem State.loopStart_eq (vin : Nat) : s.loopStart vin = (s.loopAt (s.firstOp vin)).throttle false := by
  rw [← s.firstOp_eq]
  rfl

theorem State.loopAt_rd (k : Nat) : (s.loopAt k).rd .pwrStatus =
    (((s.fset F.pwrStatus_CUR_OP k).fset F.pwrStatus_STARTUP 1).fset F.pwrStatus_TRANSITION 0).rd .pwrStatus :=
  rd_fset_reg _ _ _ _ _ _ (by decide)

theorem State.loopAt_flags {k : Nat} (h : k < 8) : (s.loopAt k).curOp = k ∧ (s.loopAt k).flag F.pwrStatus_STARTUP = true ∧
    (s.loopAt k).fget F.pwrCfg_OP_MAX = s.fget F.pwrCfg_OP_MAX := by
  refine ⟨(fget_of_rd F.pwrStatus_CUR_OP (s.loopAt_rd k)).trans ?_, (flag_of_rd F.pwrStatus_STARTUP (s.loopAt_rd k)).trans ?_, ?_⟩
  · rw [fget_fset_off _ _ _ _ _ _ (by decide) (by decide) fun _ => .inr (by decide),
      fget_fset_off _ _ _ _ _ _ (by decide) (by decide) fun _ => .inr (by decide)]
    exact (fget_fset_same s F.pwrStatus_CUR_OP k 0 0 (by decide) (by decide)).trans (Nat.mod_eq_of_lt h)
  · rw [flag_fset_off _ _ _ _ _ _ (by decide) (by decide) fun _ => .inr (by decide)]
    exact flag_fset_one _ _ 0 0 rfl (by decide)
  · unfold State.loopAt
    rw [State.setMv_spec _ k |>.2.1.fget F.pwrCfg_OP_MAX 0 0 (by decide), fget_fset_reg _ _ _ _ _ _ (by decide), fget_fset_reg _ _ _ _ _ _ (by decide),
      fget_fset_reg _ _ _ _ _ _ (by decide)]
    rfl

/-- What full mode shows of the operating point. -/
theorem State.loopStart_flags (vin : Nat) : (s.loopStart vin).curOp = s.firstOp vin ∧ (s.loopStart vin).flag F.pwrStatus_STARTUP = true ∧
    (s.loopStart vin).flag F.pwrStatus_THROTTLED = decide (s.fget F.pwrCfg_OP_MAX < s.firstOp vin) := by
  obtain ⟨hop, hstart, hmax⟩ := s.loopAt_flags (s.firstOp_lt vin)
  rw [s.loopStart_eq]
  refine ⟨(State.throttle_curOp _ _).trans hop, (State.throttle_flag _ _ _ 0 0 (.inr (.inl (by decide)))).trans hstart, ?_⟩
  rw [State.throttle_shown, hop, hmax]

/-! ## Full mode -/

/-- Tile parsers with their defaults. -/
def State.parsersReady (s : State) (l : List Nat) : State := s.each l (fun t s => s.parserDefaults t)

/-- The base image of the firmware, in the control store. -/
def State.imageIn (s : State) : State := match s.boot.image with
  | some x => s.install x
  | none => s

theorem State.fullMode_eq (vin : Nat) :
    s.fullMode vin = ((s.loopStart vin).imageIn.parsersReady (s.loopStart vin).imageIn.clocked).anvilDawn := rfl

theorem State.imageIn_keeps : Keeps (.onRegs [.bnMeas, .imgStatus, .baseImageId, .custImageId, .imgSvn]) s s.imageIn := by
  unfold State.imageIn
  split
  · exact State.install_keeps (.rfl' _ s) _
  · exact .rfl' _ s

/-- The default entries of both banks of a tile's parser. -/
def State.parserEntries (s : State) (t : Nat) : State :=
  forN 2 (fun b s => s.each ptypeDefaults (fun e s =>
    let fl := e.2.2.1
    let s2 := ((s.wr (ptypeReg b) (BitVec.ofNat 32 e.2.2.2) t (4 * e.1)).wr (ptypeReg b) (BitVec.ofNat 32 e.2.2.2) t (4 * e.1 + 1)).wr
      (ptypeReg b) (BitVec.ofNat 32 (fl + fl * 65536)) t (4 * e.1 + 2)
    (s2.wr (ptypeReg b) (BitVec.ofNat 32 (e.2.1 * 256 + 2 ^ 16 + b2n (decide (fl = 0x1F)) * 2 ^ 17)) t (4 * e.1 + 3)).wr (entryReg b)
      (BitVec.ofNat 32 ((Config.baseEntryAddr e.2.1).toNat + 2 ^ 15 + b2n (decide (e.2.1 = 0x0E)) * 2 ^ 16)) t e.2.1)) s

theorem State.parserDefaults_eq (t : Nat) : s.parserDefaults t =
    ((s.fset F.parseStatus_BASE_LOADED 1 t).fset F.parseStatus_GRAPH_ID Config.graphId.toNat t).parserEntries t := rfl

theorem State.parserEntries_rd (t i : Nat) : (s.parserEntries t).rd .parseStatus i = s.rd .parseStatus i := by
  have hp : ∀ b, RName.parseStatus ≠ ptypeReg b := fun b => by
    unfold ptypeReg
    split <;> decide
  have he : ∀ b, RName.parseStatus ≠ entryReg b := fun b => by
    unfold entryReg
    split <;> decide
  refine forN_keeps_view (fun u : State => u.rd .parseStatus i) fun b u => State.each_view (fun u : State => u.rd .parseStatus i) fun e v => ?_
  exact (rd_wr_reg _ _ _ _ _ _ (he b)).trans ((rd_wr_reg _ _ _ _ _ _ (hp b)).trans ((rd_wr_reg _ _ _ _ _ _ (hp b)).trans
    ((rd_wr_reg _ _ _ _ _ _ (hp b)).trans (rd_wr_reg _ _ _ _ _ _ (hp b)))))

theorem State.parserDefaults_flag (t i : Nat) : (s.parserDefaults t).flag F.parseStatus_BASE_LOADED i =
    (s.fset F.parseStatus_BASE_LOADED 1 t).flag F.parseStatus_BASE_LOADED i := by
  rw [s.parserDefaults_eq, flag_of_rd F.parseStatus_BASE_LOADED (State.parserEntries_rd _ t i)]
  exact flag_fset_off _ _ _ _ _ _ (by decide) (by decide) fun _ => .inl (by decide)

theorem State.parsersReady_loaded {l : List Nat} {t : Nat} (h : t ∈ l) : (s.parsersReady l).flag F.parseStatus_BASE_LOADED t = true :=
  State.each_sets (P := fun u => u.flag F.parseStatus_BASE_LOADED t = true) s h
    (fun u => (u.parserDefaults_flag t t).trans (flag_fset_one u _ t 0 rfl (by decide)))
    fun b u hu => (u.parserDefaults_flag b t).trans (flag_fset_true b 0 rfl (by decide) hu)

def parserRegs : List RName := [.parseStatus, .ptypeTcam0, .ptypeTcam1, .entryTab0, .entryTab1]

theorem State.parsersReady_keeps (l : List Nat) : Keeps (.onRegs parserRegs) s (s.parsersReady l) := by
  unfold State.parsersReady
  exact State.each_keeps (.rfl' _ s) fun t u hu => State.parserDefaults_keeps hu t

theorem State.anvilDawn_keeps' : Keeps (.onRegs [.anvilStatus, .chActive, .grpFree, .anvChStatus]) s s.anvilDawn := State.anvilDawn_keeps (.rfl' _ s)

theorem State.anvilTrained_ready : s.anvilTrained.flag F.anvilStatus_READY = true := by
  unfold State.anvilTrained
  rw [flag_of_rd F.anvilStatus_READY ((State.normAll_keeps (.rfl' (.onRegs []) _)).rd .anvilStatus 0 0 rfl)]
  exact flag_fset_one _ F.anvilStatus_READY 0 0 rfl (by decide)

theorem State.anvilDawn_ready : s.anvilDawn.flag F.anvilStatus_READY = true := by
  unfold State.anvilDawn
  exact State.anvilTrained_ready _

/-- What full mode leaves. -/
theorem State.fullMode_regs (vin : Nat) {n : RName}
    (h : n ∉ [RName.bnMeas, .imgStatus, .baseImageId, .custImageId, .imgSvn] ++ parserRegs ++ [.anvilStatus, .chActive, .grpFree, .anvChStatus]) (i j : Nat) :
    (s.fullMode vin).rd n i j = (s.loopStart vin).rd n i j := by
  rw [List.mem_append, List.mem_append, not_or, not_or] at h
  obtain ⟨⟨himg, hparse⟩, hanvil⟩ := h
  rw [s.fullMode_eq]
  exact ((State.anvilDawn_keeps' _).onlyRegs n i j hanvil).trans (((State.parsersReady_keeps _ _).onlyRegs n i j hparse).trans
    ((State.imageIn_keeps _).onlyRegs n i j himg))

theorem tileOn_congr {s u : State} {t : Nat} (hd : u.rd .dawnStatus = s.rd .dawnStatus) (ht : u.rd .spareTile t = s.rd .spareTile t) :
    u.tileOn t = s.tileOn t := by
  unfold State.tileOn
  rw [flag_of_rd F.dawnStatus_HORIZON hd, flag_of_rd F.spareTile_TILE_RETIRED ht, flag_of_rd F.spareTile_UNUSABLE ht]

theorem State.loopStart_loop (vin : Nat) : Keeps (.onRegs [.pwrStatus, .vcore, .cntEvLost, .cntEvDiscard]) s (s.loopStart vin) :=
  State.loopStart_keeps (.rfl' _ s) vin

theorem State.fullMode_loaded (vin : Nat) {t : Nat} (ht : t < 16) (h : s.tileOn t = true) :
    (s.fullMode vin).flag F.parseStatus_BASE_LOADED t = true := by
  obtain ⟨a, ha⟩ : ∃ a, a = (s.loopStart vin).imageIn := ⟨_, rfl⟩
  have hkeep : ∀ n i, n ∈ [RName.dawnStatus, .spareTile] → a.rd n i = s.rd n i := fun n i hn => by
    have hnot : n ∉ [RName.pwrStatus, .vcore, .cntEvLost, .cntEvDiscard] ∧ n ∉ [RName.bnMeas, .imgStatus, .baseImageId, .custImageId, .imgSvn] := by
      simp only [List.mem_cons, List.not_mem_nil, or_false] at hn
      rcases hn with rfl | rfl <;> exact ⟨by decide, by decide⟩
    have hk := s.loopStart_loop vin
    rw [ha]
    exact ((State.imageIn_keeps _).onlyRegs n i 0 hnot.2).trans (hk.onlyRegs n i 0 hnot.1)
  have hon : a.tileOn t = true := (tileOn_congr (hkeep _ 0 (by decide)) (hkeep _ t (by decide))).trans h
  have hmem : t ∈ a.clocked := List.mem_filter.mpr ⟨List.mem_range.mpr ht, hon⟩
  rw [s.fullMode_eq, ← ha, flag_of_rd F.parseStatus_BASE_LOADED ((State.anvilDawn_keeps' _).onlyRegs .parseStatus t 0 (by decide))]
  exact State.parsersReady_loaded _ hmem

/-! ## Horizon mode (R489–R495) -/

/-- Tile 0 at the slowest point, in Horizon mode. -/
def State.hzLoop (s : State) : State :=
  (((({ s with power := { s.power with clkOp := 7, up := none, settling := false } } : State).fset F.pwrStatus_HORIZON 1).fset
    F.pwrStatus_CUR_OP 7).setMv 7).throttle false

/-- The ROM image, tile 0's parser and the bridge's tables. -/
def State.hzBridge (s : State) : State := (s.romImage.parserDefaults 0).hzTables

theorem State.horizonMode_eq : s.horizonMode =
    if s.hzLoop.hzBridge.noForward then s.hzLoop.hzBridge.fset F.dawnStatus_NOFWD 1 else s.hzLoop.hzBridge.hzPorts := rfl

/-- The point and its voltage. -/
def State.hzPoint (s : State) : State := (((s.fset F.pwrStatus_HORIZON 1).fset F.pwrStatus_CUR_OP 7).setMv 7).throttle false

theorem State.hzPoint_keeps : Keeps (.onRegs [.pwrStatus, .vcore, .cntEvLost, .cntEvDiscard]) s s.hzPoint :=
  State.throttle_keeps (State.setMv_keeps (State.fset_keeps (State.fset_keeps (.rfl' _ s) F.pwrStatus_HORIZON 1 0 0) F.pwrStatus_CUR_OP 7 0 0) 7) false

theorem State.hzLoop_eq : s.hzLoop = ({ s with power := { s.power with clkOp := 7, up := none, settling := false } } : State).hzPoint := rfl

theorem State.hzLoop_only : OnlyRegs [.pwrStatus, .vcore, .cntEvLost, .cntEvDiscard] s s.hzLoop := fun n i j h => by
  rw [s.hzLoop_eq]
  exact (State.hzPoint_keeps _).onlyRegs n i j h

theorem State.hzLoop_flags : s.hzLoop.flag F.pwrStatus_HORIZON = true ∧ s.hzLoop.curOp = 7 := by
  obtain ⟨a, ha⟩ : ∃ a : State, a = { s with power := { s.power with clkOp := 7, up := none, settling := false } } := ⟨_, rfl⟩
  have heq : s.hzLoop = (((a.fset F.pwrStatus_HORIZON 1).fset F.pwrStatus_CUR_OP 7).setMv 7).throttle false := by
    rw [s.hzLoop_eq, ← ha]
    rfl
  have hmv : ∀ u : State, (u.setMv 7).rd .pwrStatus = u.rd .pwrStatus := fun u => (u.setMv_spec 7).2.1 .pwrStatus 0 0 (by decide)
  rw [heq]
  refine ⟨(State.throttle_flag _ _ _ 0 0 (.inr (.inr (by decide)))).trans ((flag_of_rd F.pwrStatus_HORIZON (hmv _)).trans ?_),
    (State.throttle_curOp _ _).trans ((fget_of_rd F.pwrStatus_CUR_OP (hmv _)).trans ?_)⟩
  · rw [flag_fset_off _ _ _ _ _ _ (by decide) (by decide) fun _ => .inl (by decide)]
    exact flag_fset_one a _ 0 0 rfl (by decide)
  · exact fget_fset_same _ F.pwrStatus_CUR_OP 7 0 0 (by decide) (by decide)

def bridgeRegs : List RName := [.bnMeas, .baseImageId, .imgSvn] ++ parserRegs ++ [.tblCfg0]

theorem State.hzBridge_keeps : Keeps (.onRegs bridgeRegs) s s.hzBridge := by
  unfold State.hzBridge
  exact State.hzTables_keeps (State.parserDefaults_keeps (State.romImage_keeps (.rfl' _ s)) 0)

/-- A port is enabled, and starts. -/
theorem State.portCfgWrite_enables {s0 u : State} (h : Keeps (.avoid [.pwrStatus, .dawnStatus]) s0 u) (p : Nat) {v : Word}
    (hv : bitAt v.toNat 0 = true) : Keeps (.avoid [.pwrStatus, .dawnStatus]) s0 (u.portCfgWrite p v) := by
  unfold State.portCfgWrite
  rw [if_pos hv]
  dsimp only
  rw [if_pos hv]
  exact keeps_ite h (State.portStart_keeps (State.wr_keeps h .portCfg _ p 0) p)

/-- The word that HZ_PORT stands for has EN at 1. -/
theorem hzPortWord_en (v w : Nat) : bitAt (BitVec.ofNat 32 (setBits (setBits (setBits (setBits v 0 0 1) 2 1 w) 6 6 1) 12 7 0x38)).toNat 0 = true := by
  unfold bitAt
  rw [BitVec.toNat_ofNat, Nat.testBit_mod_two_pow, testBit_setBits _ _ _ _ _ (by decide), testBit_setBits _ _ _ _ _ (by decide),
    testBit_setBits _ _ _ _ _ (by decide), testBit_setBits _ _ _ _ _ (by decide)]
  rfl

theorem State.hzPorts_status : Keeps (.avoid [.pwrStatus, .dawnStatus]) s s.hzPorts := by
  unfold State.hzPorts
  exact State.each_keeps (.rfl' _ s) fun p u hu => State.portCfgWrite_enables hu p (hzPortWord_en _ _)

theorem State.hzBridge_noForward : s.hzLoop.hzBridge.noForward = s.noForward :=
  noForward_congr (((State.hzBridge_keeps _).onlyRegs _ 0 0 (by decide)).trans (s.hzLoop_only _ 0 0 (by decide))) fun k =>
    ((State.hzBridge_keeps _).onlyRegs _ 0 k (by decide)).trans (s.hzLoop_only _ 0 k (by decide))

theorem State.hzBridge_dawn : s.hzLoop.hzBridge.rd .dawnStatus = s.rd .dawnStatus :=
  ((State.hzBridge_keeps _).onlyRegs _ 0 0 (by decide)).trans (s.hzLoop_only _ 0 0 (by decide))

theorem State.hzBridge_pwr : s.hzLoop.hzBridge.rd .pwrStatus = s.hzLoop.rd .pwrStatus := (State.hzBridge_keeps _).onlyRegs _ 0 0 (by decide)

theorem State.horizonMode_sound (h : s.noForward = false) :
    s.horizonMode.rd .dawnStatus = s.rd .dawnStatus ∧ s.horizonMode.rd .pwrStatus = s.hzLoop.rd .pwrStatus := by
  rw [s.horizonMode_eq, if_neg (by rw [s.hzBridge_noForward, h]; decide)]
  have hports := State.hzPorts_status s.hzLoop.hzBridge
  exact ⟨(hports.rd .dawnStatus 0 0 rfl).trans s.hzBridge_dawn, (hports.rd .pwrStatus 0 0 rfl).trans s.hzBridge_pwr⟩

theorem State.horizonMode_failed (h : s.noForward = true) : s.horizonMode.flag F.dawnStatus_NOFWD = true ∧
    s.horizonMode.flag F.dawnStatus_HORIZON = s.flag F.dawnStatus_HORIZON := by
  rw [s.horizonMode_eq, if_pos (by rw [s.hzBridge_noForward, h])]
  refine ⟨flag_fset_one _ _ 0 0 rfl (by decide), ?_⟩
  rw [flag_fset_off _ _ _ _ _ _ (by decide) (by decide) fun _ => .inr (by decide)]
  exact flag_of_rd F.dawnStatus_HORIZON s.hzBridge_dawn

/-! ## The outcomes of step 7 -/

theorem State.corePowered_flags : s.corePowered.noForward = s.noForward ∧ s.corePowered.hz = s.hz ∧
    s.corePowered.rd .dawnStatus = s.rd .dawnStatus ∧ (∀ vin, s.corePowered.firstOp vin = s.firstOp vin) ∧
    (∀ t, s.corePowered.tileOn t = s.tileOn t) ∧ s.corePowered.fget F.pwrCfg_OP_MAX = s.fget F.pwrCfg_OP_MAX ∧ s.corePowered.power.coreOn = true :=
  ⟨rfl, rfl, rfl, fun _ => rfl, fun _ => rfl, rfl, rfl⟩

/-- What full mode shows. -/
structure FullModeShows (s u : State) (vin : Nat) : Prop where
  stage : u.boot.stage = 7
  core : u.power.coreOn = true
  horizon : u.flag F.dawnStatus_HORIZON = false
  startup : u.flag F.pwrStatus_STARTUP = true
  throttled : u.flag F.pwrStatus_THROTTLED = decide (s.fget F.pwrCfg_OP_MAX < u.curOp)
  op : u.curOp = s.firstOp vin
  anvil : u.flag F.anvilStatus_READY = true
  loaded : ∀ t : TileIx, s.tileOn t = true → u.flag F.parseStatus_BASE_LOADED t = true

/-- The channels that are not retired, trained. -/
def State.chansTrained (s : State) : State :=
  s.each ((List.range 32).filter (fun n => !s.flag F.anvChStatus_RETIRED n)) (fun n s => s.fset F.anvChStatus_TRAINED 1 n)

theorem State.chansTrained_power : s.chansTrained.power = s.power :=
  State.each_view State.power fun n v => v.fset_power F.anvChStatus_TRAINED 1 n 0

theorem State.anvilDawn_eq : ∃ w, s.anvilDawn =
    (({ s.chansTrained with power := { s.chansTrained.power with gddrOn := true } } : State).wr .chActive w).anvilTrained := ⟨_, rfl⟩

theorem State.fullMode_core (vin : Nat) : (s.fullMode vin).power.coreOn = s.power.coreOn := by
  have himg : ∀ u : State, u.imageIn.power = u.power := fun u => by
    unfold State.imageIn
    split
    · exact (State.install_keeps (.rfl' { Touch.all with power := false } u) _).power rfl
    · rfl
  have hparse : ∀ (u : State) (l : List Nat), (u.parsersReady l).power = u.power := fun u l =>
    State.each_view State.power fun t v => (State.parserDefaults_keeps (.rfl' { Touch.all with power := false } v) t).power rfl
  have hanvil : ∀ u : State, u.anvilDawn.power.coreOn = u.power.coreOn := fun u => by
    obtain ⟨w, hw⟩ := u.anvilDawn_eq
    rw [hw, (State.anvilTrained_keeps (.rfl' { Touch.all with power := false } _)).power rfl, State.wr_power]
    exact (show _ = u.chansTrained.power.coreOn from rfl).trans (congrArg PowerSt.coreOn u.chansTrained_power)
  have hloop : (s.loopStart vin).power.coreOn = s.power.coreOn := by
    rw [s.loopStart_eq, State.throttle_power]
    unfold State.loopAt
    rw [State.setMv_spec _ _ |>.2.2, State.fset_power, State.fset_power, State.fset_power]
  rw [s.fullMode_eq, hanvil, hparse, himg, hloop]

theorem State.fullMode_shows (vin : Nat) (hz : s.hz = false) (hc : s.power.coreOn = true) : FullModeShows s ((s.fullMode vin).dawnTo 7 7) vin := by
  obtain ⟨hop, hstart, hthr⟩ := s.loopStart_flags vin
  have hpwr : ((s.fullMode vin).dawnTo 7 7).rd .pwrStatus = (s.loopStart vin).rd .pwrStatus :=
    (State.dawnTo_rd _ 7 7 0 0 (by decide)).trans (s.fullMode_regs vin (by decide) 0 0)
  have hcur : ((s.fullMode vin).dawnTo 7 7).curOp = s.firstOp vin := (fget_of_rd F.pwrStatus_CUR_OP hpwr).trans hop
  have hk := s.loopStart_loop vin
  refine ⟨rfl, (s.fullMode_core vin).trans hc, ?_, (flag_of_rd F.pwrStatus_STARTUP hpwr).trans hstart, ?_, hcur, ?_, fun t ht => ?_⟩
  · rw [flag_eq_of_fget (State.dawnTo_fget _ 7 7 fun _ => by decide), flag_of_rd F.dawnStatus_HORIZON (s.fullMode_regs vin (by decide) 0 0),
      flag_of_rd F.dawnStatus_HORIZON (hk.onlyRegs .dawnStatus 0 0 (by decide))]
    exact hz
  · rw [hcur]
    exact (flag_of_rd F.pwrStatus_THROTTLED hpwr).trans hthr
  · rw [flag_of_rd F.anvilStatus_READY (State.dawnTo_rd _ 7 7 0 0 (by decide)), s.fullMode_eq]
    exact State.anvilDawn_ready _
  · rw [flag_of_rd F.parseStatus_BASE_LOADED (State.dawnTo_rd _ 7 7 t 0 (by decide))]
    exact s.fullMode_loaded vin t.isLt ht

/-- Horizon mode with a tile that forwards. -/
theorem State.horizonMode_shows (h : s.noForward = false) :
    (∀ f : Fld, f.reg = .dawnStatus → 3 < f.lo → (s.horizonMode.dawnTo 7 7).fget f = s.fget f) ∧
    (s.horizonMode.dawnTo 7 7).flag F.pwrStatus_HORIZON = true ∧ (s.horizonMode.dawnTo 7 7).curOp = 7 := by
  obtain ⟨hdawn, hpwr⟩ := s.horizonMode_sound h
  obtain ⟨hhz, hop⟩ := s.hzLoop_flags
  have hp : (s.horizonMode.dawnTo 7 7).rd .pwrStatus = s.hzLoop.rd .pwrStatus := (State.dawnTo_rd _ 7 7 0 0 (by decide)).trans hpwr
  exact ⟨fun f hf hlo => (State.dawnTo_fget _ 7 7 fun _ => hlo).trans (fget_of_rd f (by rw [hf]; exact hdawn)),
    (flag_of_rd F.pwrStatus_HORIZON hp).trans hhz, (fget_of_rd F.pwrStatus_CUR_OP hp).trans hop⟩

theorem State.causeLow_fget (vin : Nat) {f : Fld} (h : 8 < f.lo) : (s.causeLow vin).fget f = s.fget f := by
  unfold State.causeLow
  split
  · exact s.horizonFor_fget 2 (.inl h)
  · rfl

theorem State.causeLow_horizon {vin : Nat} (h : s.hz = true ∨ vin < 13000) : (s.causeLow vin).hz = true := by
  unfold State.causeLow
  split
  · exact s.horizonFor_shows (by decide)
  · exact h.resolve_right ‹_›

theorem State.causeLow_high {vin : Nat} (h : 13000 ≤ vin) : s.causeLow vin = s := if_neg (Nat.not_lt.mpr h)

/-- A tile that fails as a whole is unusable. -/
theorem State.dawnOut_unusable (cls dom ix fuse : Nat) (h : s.flag F.spareTile_UNUSABLE 0 = true) :
    (s.dawnOut cls dom ix fuse).flag F.spareTile_UNUSABLE 0 = true :=
  (flag_of_rd F.spareTile_UNUSABLE ((State.dawnOut_keeps (.rfl' (.avoid [.spareTile]) s) cls dom ix fuse).rd .spareTile 0 0 rfl)).trans h

theorem State.dawnUnit_tile (ix : Nat) : (s.dawnUnit 9 0 ix).flag F.spareTile_UNUSABLE 0 = true := by
  have heq : s.dawnUnit 9 0 ix = ((s.dawnReport 9 0 ix).fset F.spareTile_UNUSABLE 1 0).dawnOut 9 0 0 0 := rfl
  rw [heq]
  exact State.dawnOut_unusable _ 9 0 0 0 (flag_fset_one _ F.spareTile_UNUSABLE 0 0 rfl (by decide))

theorem State.unitsOut_tile : (s.unitsOut [(9, 0, 0)]).noForward = true := by
  have heq : s.unitsOut [(9, 0, 0)] = s.dawnUnit 9 0 0 := by
    unfold State.unitsOut
    rw [State.each_cons, State.each_nil]
    exact if_pos (by decide)
  rw [heq]
  unfold State.noForward
  rw [s.dawnUnit_tile 0, Bool.true_or, Bool.true_or]

theorem State.bringup_noForward (vin : Nat) (u10 : Bool) (h : s.noForward = true) : (s.bringup vin u10).flag F.dawnStatus_HORIZON = true ∧
    (s.bringup vin u10).flag F.dawnStatus_NOFWD = true := by
  obtain ⟨t, ht⟩ : ∃ t, t = (s.causeLow vin).horizonFor 4 := ⟨_, rfl⟩
  have hhz : t.hz = true := by
    rw [ht]
    exact State.horizonFor_shows _ (by decide)
  have hnf : t.corePowered.noForward = true := by
    rw [t.corePowered_flags.1, ht, noForward_congr (State.horizonFor_rd _ 4 0 0 (by decide)) fun k => State.horizonFor_rd _ 4 0 k (by decide),
      s.causeLow_noForward, h]
  obtain ⟨hno, hsame⟩ := t.corePowered.horizonMode_failed hnf
  rw [s.bringup_failed vin u10 h, ← ht, State.bringMode_horizon _ vin (t.corePowered_flags.2.1.trans hhz)]
  exact ⟨(flag_eq_of_fget (State.dawnTo_fget _ 7 7 fun _ => by decide)).trans (hsame.trans hhz),
    (flag_eq_of_fget (State.dawnTo_fget _ 7 7 fun _ => by decide)).trans hno⟩

/-- What Horizon mode shows, of a tile 0 that forwards. -/
structure HorizonModeShows (s u : State) (vin : Nat) : Prop where
  stage : u.boot.stage = 7
  horizon : u.flag F.dawnStatus_HORIZON = true
  power : u.flag F.pwrStatus_HORIZON = true
  op : u.curOp = 7
  noFwd : u.flag F.dawnStatus_NOFWD = s.flag F.dawnStatus_NOFWD
  low : s.fget F.dawnStatus_HZ_CAUSE = 0 → vin < 13000 → u.fget F.dawnStatus_HZ_CAUSE = 2
  high : 13000 ≤ vin → u.fget F.dawnStatus_HZ_CAUSE = s.fget F.dawnStatus_HZ_CAUSE

theorem State.bringup_horizon {vin : Nat} (hf : s.noForward = false) (hx : s.rd .spareXlink 0 = 0#32) (h : s.hz = true ∨ vin < 13000) :
    HorizonModeShows s (s.bringup vin false) vin := by
  obtain ⟨t, ht⟩ : ∃ t, t = (s.causeLow vin).corePowered := ⟨_, rfl⟩
  have hdawn : ∀ f : Fld, f.reg = .dawnStatus → t.fget f = (s.causeLow vin).fget f := fun f hf => by
    rw [ht]
    exact fget_of_rd f (by rw [hf]; exact (s.causeLow vin).corePowered_flags.2.2.1)
  have hhz : t.hz = true := by
    rw [ht, (s.causeLow vin).corePowered_flags.2.1]
    exact s.causeLow_horizon h
  have hnf : t.noForward = false := by rw [ht, (s.causeLow vin).corePowered_flags.1, s.causeLow_noForward, hf]
  obtain ⟨hkeep, hpwr, hop⟩ := t.horizonMode_shows hnf
  rw [s.bringup_sound vin hf hx, ← ht, t.bringMode_horizon vin hhz]
  refine ⟨rfl, (flag_eq_of_fget (hkeep _ rfl (by decide))).trans hhz, hpwr, hop, ?_, fun hc hlow => ?_, fun hv => ?_⟩
  · exact flag_eq_of_fget ((hkeep F.dawnStatus_NOFWD rfl (by decide)).trans ((hdawn _ rfl).trans (s.causeLow_fget vin (by decide))))
  · rw [hkeep F.dawnStatus_HZ_CAUSE rfl (by decide), hdawn _ rfl, show s.causeLow vin = s.horizonFor 2 from if_pos hlow,
      s.horizonFor_cause (by decide) (by decide), if_pos hc]
  · rw [hkeep F.dawnStatus_HZ_CAUSE rfl (by decide), hdawn _ rfl, s.causeLow_high hv]

theorem FullModeShows.of_core {s u : State} {vin : Nat} (h : FullModeShows s.corePowered u vin) : FullModeShows s u vin := by
  obtain ⟨-, -, -, hop, hon, hmax, -⟩ := s.corePowered_flags
  obtain ⟨hst, hcore, hhz, hstart, hthr, hcur, hanv, hload⟩ := h
  exact ⟨hst, hcore, hhz, hstart, hmax ▸ hthr, (hop vin) ▸ hcur, hanv, fun t ht => hload t ((hon t).trans ht)⟩

theorem State.bringup_full {vin : Nat} (hf : s.noForward = false) (hx : s.rd .spareXlink 0 = 0#32) (hz : s.hz = false) (hv : 13000 ≤ vin) :
    FullModeShows s (s.bringup vin false) vin := by
  obtain ⟨-, hsame, -, -, -, -, hcore⟩ := s.corePowered_flags
  rw [s.bringup_sound vin hf hx, s.causeLow_high hv, s.corePowered.bringMode_full vin (hsame.trans hz)]
  exact (s.corePowered.fullMode_shows vin (hsame.trans hz) hcore).of_core

theorem State.unitsOut_nil : s.unitsOut [] = s := State.each_nil _ _

theorem execCoreBringupDone_nil (h : s.dawnAt 6 = true) (vin : Fin 65536) :
    exec (.coreBringupDone vin []) s = .next (s.bringup vin false) := by
  rw [execCoreBringupDone_eq s h, s.unitsOut_nil]
  rfl

theorem dawnToReady_holds : Claims.DawnToReady := by
  intro s bad vin ms
  have hnot : ∀ {b : Bool}, b = false → ¬ b = true := fun h e => Bool.false_ne_true (h.symm.trans e)
  refine ⟨fun h => congrArg Host.Outcome.next (if_pos h), fun h => chipletCalibrated_spec s h bad, fun units h => congrArg Host.Outcome.next (if_pos h),
    fun h hf hx => ⟨fun hz hv => ?_, fun hh => ?_⟩, fun h => ?_, fun h => congrArg Host.Outcome.next (if_neg (hnot h)), fun h => dawnReady_spec s h ms⟩
  · obtain ⟨hst, hcore, hhz, hstart, hthr, hcur, hanv, hload⟩ := s.bringup_full hf hx hz hv
    exact ⟨s.bringup vin false, execCoreBringupDone_nil s h vin, hst, hcore, hhz, hstart, hthr, hcur, hanv, hload⟩
  · obtain ⟨hst, hhz, hpwr, hcur, hno, hlow, hhigh⟩ := s.bringup_horizon hf hx hh
    exact ⟨s.bringup vin false, execCoreBringupDone_nil s h vin, hst, hhz, hpwr, hcur, hno, hlow, hhigh⟩
  · obtain ⟨hhz, hno⟩ := (s.unitsOut [(9, 0, 0)]).bringup_noForward vin (([(9, 0, 0)] : List (Fin 11 × TileIx × Fin 65536)).any fun e => decide (e.1.val = 10))
      s.unitsOut_tile
    exact ⟨_, execCoreBringupDone_eq s h vin _, hhz, hno⟩

end

/-- Settles O51: each step of Dawn by the state it is for, the slots by the order of their SEQ, and step 7 by the mode it brings up. -/
theorem dawnSteps : Obligations.DawnSteps := ⟨dawnToStepFive_holds, dawnToReady_holds⟩

end Sys2Proof.Machine
end

section
/-!
PROOF. The flash operations (R482, R485, R501).
-/

set_option Elab.async false
set_option exponentiation.threshold 4096
set_option maxRecDepth 20000

namespace Sys2Proof.Machine

/-! ## Bytes of the flash -/

theorem tget_flashPut (bs : List Byte) (t : Tab (Option Byte)) (a k : Nat) :
    tget (flashPut t a bs) k none = if a ≤ k ∧ k < a + bs.length then some (nth bs (k - a) 0) else tget t k none := by
  induction bs generalizing t a with
  | nil => exact (if_neg (by rw [List.length_nil]; omega)).symm
  | cons b r ih =>
    have hstep : flashPut t a (b :: r) = flashPut (tset t a none (some b)) (a + 1) r := rfl
    rw [hstep, ih, List.length_cons]
    obtain rfl | hk := eq_or_ne k a
    · rw [if_neg (by omega), if_pos (by omega), tget_tset_same, Nat.sub_self]
      rfl
    · by_cases hin : a + 1 ≤ k ∧ k < a + 1 + r.length
      · rw [if_pos hin, if_pos (by omega), show k - a = (k - (a + 1)) + 1 by omega]
        rfl
      · rw [if_neg hin, if_neg (by omega), tget_tset_ne _ _ _ _ hk]

section
variable (s : State)

theorem flashAt_put {u : State} {a : Nat} {bs : List Byte} (h : u.boot.flash = flashPut s.boot.flash a bs) (k : Nat) :
    u.flashAt k = if a ≤ k ∧ k < a + bs.length then nth bs (k - a) 0 else s.flashAt k := by
  unfold State.flashAt
  rw [h, tget_flashPut]
  split <;> rfl

theorem flashAt_congr {u : State} (h : u.boot.flash = s.boot.flash) (k : Nat) : u.flashAt k = s.flashAt k := by
  unfold State.flashAt
  rw [h]

/-! ## A write of FLASH_CTL (R501) -/

/-- The operation asked for, by its number. -/
def flashWord (op : Nat) : Word := BitVec.ofNat 32 (0x80000000 + op)

/-- OP stored. -/
def State.flashAsked (s : State) (op : Nat) : State := s.wr .flashCtl (flashWord op &&& 3#32)

/-- The refusal shown. -/
def State.flashAnswered (s : State) (op : Nat) : State :=
  (s.flashAsked op).fset F.flashStatus_RESULT (s.flashRefusal op (s.fget F.flashAddr_V))

/-- The operation under way. -/
def State.flashUnder (s : State) (op : Nat) : State :=
  ({ s.flashAnswered op with boot := { (s.flashAnswered op).boot with flashOp := some ⟨op, s.fget F.flashAddr_V, 0, s.flashData⟩ } }).fset
    F.flashStatus_BUSY 1

theorem State.flashAsked_only (op : Nat) : OnlyRegs [.flashCtl] s (s.flashAsked op) := (OnlyRegs.refl _ s).wr _ 0 0 List.mem_cons_self

theorem State.flashAnswered_only (op : Nat) : OnlyRegs [.flashCtl, .flashStatus] s (s.flashAnswered op) :=
  ((OnlyRegs.refl _ s).wr _ 0 0 List.mem_cons_self).fset (f := F.flashStatus_RESULT) _ 0 0 (by decide)

theorem flashWord_bits {op : Nat} (h : op < 4) : bits (flashWord op).toNat 1 0 = op ∧ bitAt (flashWord op).toNat 31 = true := by
  obtain rfl | rfl | rfl | rfl : op = 0 ∨ op = 1 ∨ op = 2 ∨ op = 3 := by omega
  all_goals decide

section
variable {op : Nat}

theorem State.flashCtlWrite_busy (h : s.flag F.flashStatus_BUSY = true) : s.flashCtlWrite (flashWord op) = s.flashAsked op :=
  if_pos (.inr (.inl h))

theorem State.flashCtlWrite_idle (ho : 0 < op ∧ op < 4) (h : s.flag F.flashStatus_BUSY = false) : s.flashCtlWrite (flashWord op) =
    if s.flashRefusal op (s.fget F.flashAddr_V) ≠ 0 then s.flashAnswered op else s.flashUnder op := by
  obtain ⟨hop, hgo⟩ := flashWord_bits ho.2
  unfold State.flashCtlWrite
  rw [hop, hgo, h]
  exact if_neg (by rintro (h | h | h); exact absurd h (by decide); exact absurd h (by decide); omega)

end

/-- How an operation that is refused ends. -/
structure FlashRefused (s u : State) (result : Nat) : Prop where
  busy : u.flag F.flashStatus_BUSY = false
  result : u.fget F.flashStatus_RESULT = result
  boot : u.boot = s.boot
  only : OnlyRegs [.flashCtl, .flashStatus] s u

theorem State.flashAnswered_refused {op r : Nat} (h : s.flag F.flashStatus_BUSY = false) (hr : s.flashRefusal op (s.fget F.flashAddr_V) = r) (hlt : r < 8) :
    FlashRefused s (s.flashAnswered op) r := by
  refine ⟨?_, ?_, rfl, s.flashAnswered_only op⟩
  · unfold State.flashAnswered
    rw [flag_fset_off _ _ _ _ _ _ (by decide) (by decide) fun _ => .inr (by decide)]
    exact (flag_of_rd F.flashStatus_BUSY (s.flashAsked_only op _ 0 0 (by decide))).trans h
  · unfold State.flashAnswered
    rw [hr, fget_fset_same _ F.flashStatus_RESULT r 0 0 (by decide) (by decide)]
    exact Nat.mod_eq_of_lt hlt

/-- BUSY sets over an operation that has been taken. -/
theorem flashStarts_of {a : State} {op : Nat} {o : FlashOp} (htaken : a.boot.flashOp = some o) (hop : o.op = op) (haddr : o.addr = s.fget F.flashAddr_V)
    (hflash : a.boot.flash = s.boot.flash) (hres : a.fget F.flashStatus_RESULT = 0) (honly : OnlyRegs [.flashCtl, .flashStatus] s a)
    (hwide : OnlyWide [] s a) : FlashStarts s (a.fset F.flashStatus_BUSY 1) op := by
  refine ⟨flag_fset_one a _ 0 0 rfl (by decide), ?_, ⟨o, htaken, hop, haddr⟩, hflash, honly.fset (f := F.flashStatus_BUSY) 1 0 0 (by decide),
    hwide.fset F.flashStatus_BUSY 1 0 0⟩
  rw [fget_fset_off _ _ _ _ _ _ (by decide) (by decide) fun _ => .inl (by decide)]
  exact hres

/-- The operation taken, before BUSY. -/
def State.flashTaken (s : State) (o : FlashOp) : State := { s with boot := { s.boot with flashOp := some o } }

theorem State.flashTaken_only {l : List RName} {t : State} (h : OnlyRegs l s t) (o : FlashOp) : OnlyRegs l s (t.flashTaken o) := h
theorem State.flashTaken_wide {l : List RName} {t : State} (h : OnlyWide l s t) (o : FlashOp) : OnlyWide l s (t.flashTaken o) := h
theorem State.flashTaken_fget (o : FlashOp) (f : Fld) : (s.flashTaken o).fget f = s.fget f := rfl
theorem State.flashTaken_boot (o : FlashOp) : (s.flashTaken o).boot.flashOp = some o ∧ (s.flashTaken o).boot.flash = s.boot.flash := ⟨rfl, rfl⟩

theorem State.flashUnder_eq (op : Nat) : s.flashUnder op =
    ((s.flashAnswered op).flashTaken ⟨op, s.fget F.flashAddr_V, 0, s.flashData⟩).fset F.flashStatus_BUSY 1 := rfl

theorem State.flashUnder_starts {op : Nat} (hr : s.flashRefusal op (s.fget F.flashAddr_V) = 0) : FlashStarts s (s.flashUnder op) op := by
  have hres : (s.flashAnswered op).fget F.flashStatus_RESULT = 0 := by
    unfold State.flashAnswered
    rw [hr]
    exact fget_fset_same _ F.flashStatus_RESULT 0 0 0 (by decide) (by decide)
  have hwide : OnlyWide [] s (s.flashAnswered op) := ((OnlyWide.refl [] s).wr .flashCtl _ 0 0).fset F.flashStatus_RESULT _ 0 0
  obtain ⟨htaken, hflash⟩ := (s.flashAnswered op).flashTaken_boot ⟨op, s.fget F.flashAddr_V, 0, s.flashData⟩
  rw [s.flashUnder_eq]
  exact flashStarts_of s htaken rfl rfl (hflash.trans rfl) hres (s.flashTaken_only (s.flashAnswered_only op) _) (s.flashTaken_wide hwide _)

/-! ## Refusals (R482) -/

theorem State.hitsBooted_iff (addr n : Nat) : s.hitsBooted addr n = true ↔
    s.boot.romFirmware = false ∧ addr < s.fget F.dawnStatus_SLOT * 0x400000 + 0x400000 ∧ s.fget F.dawnStatus_SLOT * 0x400000 < addr + n := by
  unfold State.hitsBooted slotBase
  rw [Bool.and_eq_true, Bool.and_eq_true, decide_eq_true_iff, decide_eq_true_iff, Bool.not_eq_true']
  exact and_assoc

/-- The size that an operation's address is aligned to. -/
def flashSize (op : Nat) : Nat := if op = 3 then 65536 else 256

theorem State.flashRefusal_eq (op addr : Nat) : s.flashRefusal op addr =
    if addr % flashSize op ≠ 0 then 2 else if op ≠ 1 ∧ s.hitsBooted addr (flashSize op) = true then 1 else 0 := rfl

/-- An operation as its command gives it. -/
def flashInstr (op : Nat) : Instr := if op = 1 then .flashRead else if op = 2 then .flashProgram else .flashErase

theorem exec_flashInstr {op : Nat} (h : 0 < op ∧ op < 4) : exec (flashInstr op) s = .next (s.flashCtlWrite (flashWord op)) := by
  obtain rfl | rfl | rfl : op = 1 ∨ op = 2 ∨ op = 3 := by omega
  all_goals rfl

theorem exec_flashRefused {op r : Nat} (ho : 0 < op ∧ op < 4) (h : s.flag F.flashStatus_BUSY = false) (hr : s.flashRefusal op (s.fget F.flashAddr_V) = r)
    (hr0 : 0 < r) (hlt : r < 8) : ∃ u, exec (flashInstr op) s = .next u ∧ u.flag F.flashStatus_BUSY = false ∧ u.fget F.flashStatus_RESULT = r ∧
      u.boot = s.boot ∧ OnlyRegs [.flashCtl, .flashStatus] s u := by
  obtain ⟨h1, h2, h3, h4⟩ := s.flashAnswered_refused h hr hlt
  refine ⟨s.flashAnswered op, (exec_flashInstr s ho).trans (congrArg Host.Outcome.next ((s.flashCtlWrite_idle ho h).trans (if_pos ?_))), h1, h2, h3, h4⟩
  rw [hr]
  exact hr0.ne'

theorem exec_flashStarts {op : Nat} (ho : 0 < op ∧ op < 4) (h : s.flag F.flashStatus_BUSY = false) (hr : s.flashRefusal op (s.fget F.flashAddr_V) = 0) :
    ∃ u, exec (flashInstr op) s = .next u ∧ FlashStarts s u op :=
  ⟨s.flashUnder op, (exec_flashInstr s ho).trans (congrArg Host.Outcome.next ((s.flashCtlWrite_idle ho h).trans (if_neg (not_not.mpr hr)))),
    s.flashUnder_starts hr⟩

theorem State.flashRefusal_misaligned {op addr : Nat} (h : addr % flashSize op ≠ 0) : s.flashRefusal op addr = 2 := if_pos h

theorem State.flashRefusal_read {addr : Nat} (h : addr % 256 = 0) : s.flashRefusal 1 addr = 0 :=
  (if_neg (not_not.mpr h)).trans (if_neg fun e => e.1 rfl)

theorem State.flashRefusal_booted {op addr : Nat} (h : addr % flashSize op = 0) (ho : op ≠ 1) (hb : s.hitsBooted addr (flashSize op) = true) :
    s.flashRefusal op addr = 1 := (if_neg (not_not.mpr h)).trans (if_pos ⟨ho, hb⟩)

theorem State.flashRefusal_free {op addr : Nat} (h : addr % flashSize op = 0) (hb : ¬ s.hitsBooted addr (flashSize op) = true) :
    s.flashRefusal op addr = 0 := (if_neg (not_not.mpr h)).trans (if_neg fun e => hb e.2)

/-! ## The end of an operation (R485, R501) -/

/-- The operation ended: BUSY clears and RESULT shows how. -/
def State.flashEnded (s : State) (ok : Bool) : State :=
  (({ s with boot := { s.boot with flashOp := none } } : State).fset F.flashStatus_BUSY 0).fset F.flashStatus_RESULT (if ok then 0 else 3)

/-- The bytes that a read leaves in FLASH_DATA. -/
def State.flashShown (s : State) (addr : Nat) : State :=
  forN 64 (fun j s => s.wr .flashData (BitVec.ofNat 32 (leNat (s.flashBytes (addr + 4 * j) 4))) j) s

/-- Bytes put into the flash of the state. -/
def State.flashStored (s : State) (a : Nat) (bs : List Byte) : State := { s with boot := { s.boot with flash := flashPut s.boot.flash a bs } }

/-- What an operation that ends does to the flash. -/
def State.flashEffect (s : State) (o : FlashOp) (ok : Bool) : State :=
  match o.op, ok with
  | 1, true => s.flashShown o.addr
  | 2, true => s.flashStored o.addr o.data
  | 3, true => s.flashStored o.addr (List.replicate 65536 0xFF#8)
  | 2, false => s.flashUndefined o.addr 256
  | 3, false => s.flashUndefined o.addr 65536
  | _, _ => s

theorem execFlashOpDone_some {o : FlashOp} (h : s.boot.flashOp = some o) (ok : Bool) : exec (.flashOpDone ok) s = .next ((s.flashEnded ok).flashEffect o ok) := by
  show execFlashOpDone ok s = _
  unfold execFlashOpDone
  rw [h]
  rfl

theorem State.flashEnded_spec (ok : Bool) : (s.flashEnded ok).flag F.flashStatus_BUSY = false ∧
    (s.flashEnded ok).fget F.flashStatus_RESULT = (if ok then 0 else 3) ∧ OnlyRegs [.flashStatus, .flashData] s (s.flashEnded ok) ∧
    (s.flashEnded ok).boot = { s.boot with flashOp := none } := by
  obtain ⟨a, ha⟩ : ∃ a : State, a = { s with boot := { s.boot with flashOp := none } } := ⟨_, rfl⟩
  have heq : s.flashEnded ok = (a.fset F.flashStatus_BUSY 0).fset F.flashStatus_RESULT (if ok then 0 else 3) := by
    rw [ha]
    rfl
  have hbase : OnlyRegs [.flashStatus, .flashData] s a := by
    rw [ha]
    exact OnlyRegs.refl _ s
  refine ⟨?_, ?_, ?_, rfl⟩
  · rw [heq, flag_fset_off _ _ _ _ _ _ (by decide) (by decide) fun _ => .inr (by decide)]
    exact flag_fset_none _ _ _ _ rfl (by decide)
  · rw [heq, fget_fset_same _ F.flashStatus_RESULT _ 0 0 (by decide) (by decide)]
    cases ok <;> rfl
  · rw [heq]
    exact (hbase.fset (f := F.flashStatus_BUSY) 0 0 0 (by decide)).fset (f := F.flashStatus_RESULT) _ 0 0 (by decide)

/-- What an effect leaves: all registers but FLASH_DATA, and the operation that has ended. -/
structure FlashEffect (s u : State) : Prop where
  only : OnlyRegs [.flashData] s u
  op : u.boot.flashOp = s.boot.flashOp

theorem State.flashShown_flash (addr : Nat) : (s.flashShown addr).boot = s.boot :=
  forN_keeps_view State.boot fun _ _ => rfl

theorem State.flashShown_effect (addr : Nat) : FlashEffect s (s.flashShown addr) :=
  ⟨fun n i j hn => forN_keeps_view (fun u : State => u.rd n i j) fun _ u => rd_wr_reg u _ _ _ _ _ fun e => hn (e ▸ List.mem_singleton.mpr rfl),
    congrArg BootSt.flashOp (s.flashShown_flash addr)⟩

/-- One word of FLASH_DATA taken from the flash. -/
def State.flashWordIn (s : State) (addr j : Nat) : State := s.wr .flashData (BitVec.ofNat 32 (leNat (s.flashBytes (addr + 4 * j) 4))) j

/-- The flash and one word of FLASH_DATA. -/
def State.flashFace (s : State) (j : Nat) : Tab (Option Byte) × Word := (s.boot.flash, s.rd .flashData j)

theorem State.flashWordIn_face (addr j : Nat) : (s.flashWordIn addr j).flashFace j =
    (s.boot.flash, BitVec.ofNat 32 (leNat (s.flashBytes (addr + 4 * j) 4))) := Prod.ext rfl (rd_wr_same s .flashData _ j 0)

theorem State.flashWordIn_face_other (addr : Nat) {j k : Nat} (hj : j < 64) (hk : k < 64) (h : k ≠ j) : (s.flashWordIn addr k).flashFace j = s.flashFace j :=
  Prod.ext rfl (rd_wr_inst s _ _ _ (by omega))

theorem State.flashFace_data (j : Nat) : (s.flashFace j).2 = s.rd .flashData j := rfl

theorem State.flashShown_words (addr : Nat) : s.flashShown addr = forN 64 (fun j s => s.flashWordIn addr j) s := rfl

theorem State.flashShown_data (addr : Nat) {j : Nat} (hj : j < 64) :
    (s.flashShown addr).rd .flashData j = BitVec.ofNat 32 (leNat (s.flashBytes (addr + 4 * j) 4)) := by
  have hview := forN_view (fun u : State => u.flashFace j) (op := fun j s => s.flashWordIn addr j) (n := 64) j s
    (fun k b hk hne => b.flashWordIn_face_other addr hj hk hne) fun b c hbc => by
      have hflash : b.boot.flash = c.boot.flash := congrArg Prod.fst hbc
      rw [b.flashWordIn_face, c.flashWordIn_face, flashBytes_congr hflash, hflash]
  rw [if_pos hj, s.flashWordIn_face] at hview
  rw [s.flashShown_words, ← State.flashFace_data, hview]

theorem State.flashStored_effect (a : Nat) (bs : List Byte) : FlashEffect s (s.flashStored a bs) := ⟨OnlyRegs.refl _ s, rfl⟩
theorem State.flashUndefined_effect (a n : Nat) : FlashEffect s (s.flashUndefined a n) := ⟨OnlyRegs.refl _ s, rfl⟩

theorem State.flashEffect_leaves (o : FlashOp) (ok : Bool) : FlashEffect s (s.flashEffect o ok) := by
  unfold State.flashEffect
  split
  · exact s.flashShown_effect _
  · exact s.flashStored_effect _ _
  · exact s.flashStored_effect _ _
  · exact s.flashUndefined_effect _ _
  · exact s.flashUndefined_effect _ _
  · exact ⟨OnlyRegs.refl _ s, rfl⟩

theorem State.flashUndefined_out {a n k : Nat} (h : k < a ∨ a + n ≤ k) : (s.flashUndefined a n).flashAt k = s.flashAt k := by
  rw [flashAt_put s (u := s.flashUndefined a n) rfl k, if_neg]
  rw [List.length_map, List.length_range]
  omega

theorem State.flashStored_out {a k : Nat} {bs : List Byte} (h : k < a ∨ a + bs.length ≤ k) : (s.flashStored a bs).flashAt k = s.flashAt k := by
  rw [flashAt_put s (u := s.flashStored a bs) rfl k, if_neg (by omega)]

theorem State.flashStored_in {a k : Nat} {bs : List Byte} (h : k < bs.length) : (s.flashStored a bs).flashAt (a + k) = nth bs k 0 := by
  rw [flashAt_put s (u := s.flashStored a bs) rfl (a + k), if_pos (by omega), Nat.add_sub_cancel_left]

/-! ### By operation -/

section
variable {o : FlashOp} (ok : Bool)

theorem State.flashEffect_read (h : o.op = 1) : s.flashEffect o ok = if ok then s.flashShown o.addr else s := by
  unfold State.flashEffect
  rw [h]
  cases ok <;> rfl

theorem State.flashEffect_program (h : o.op = 2) : s.flashEffect o ok = if ok then s.flashStored o.addr o.data else s.flashUndefined o.addr 256 := by
  unfold State.flashEffect
  rw [h]
  cases ok <;> rfl

theorem State.flashEffect_erase (h : o.op = 3) :
    s.flashEffect o ok = if ok then s.flashStored o.addr (List.replicate 65536 0xFF#8) else s.flashUndefined o.addr 65536 := by
  unfold State.flashEffect
  rw [h]
  cases ok <;> rfl

theorem State.flashEffect_flash (h : o.op = 1) : (s.flashEffect o ok).boot.flash = s.boot.flash := by
  rw [s.flashEffect_read ok h]
  split
  · exact congrArg BootSt.flash (s.flashShown_flash _)
  · rfl

theorem State.flashEffect_page (h : o.op = 2) {a : Nat} (ha : a < o.addr ∨ o.addr + max 256 o.data.length ≤ a) :
    (s.flashEffect o ok).flashAt a = s.flashAt a := by
  rw [s.flashEffect_program ok h]
  split
  · exact s.flashStored_out (by omega)
  · exact s.flashUndefined_out (by omega)

theorem State.flashEffect_block (h : o.op = 3) {a : Nat} (ha : a < o.addr ∨ o.addr + 65536 ≤ a) :
    (s.flashEffect o ok).flashAt a = s.flashAt a := by
  rw [s.flashEffect_erase ok h]
  split
  · exact s.flashStored_out (by rw [List.length_replicate]; exact ha)
  · exact s.flashUndefined_out ha

theorem nth_replicate {α : Type} (n : Nat) (v d : α) {k : Nat} (h : k < n) : nth (List.replicate n v) k d = v := by
  unfold nth
  rw [List.getD_eq_getElem _ _ (by rw [List.length_replicate]; exact h), List.getElem_replicate]

end

end

/-- Settles O52: how a write of FLASH_CTL is refused or starts, and what the end of each operation leaves in the flash. -/
theorem flashOperations : Obligations.FlashOperations := by
  intro s
  have hb := s.hitsBooted_iff (s.fget F.flashAddr_V)
  refine ⟨⟨fun h c hc => ?_, fun h => ⟨fun ha => ⟨?_, ?_⟩, fun ha => ?_, fun ha => ⟨?_, fun hbt => ?_, fun hbt => ?_⟩, fun ha => ⟨fun hbt => ?_, fun hbt => ?_⟩⟩⟩,
    fun h ok => ?_, fun o ho ok => ?_⟩
  · obtain ⟨op, hop, rfl⟩ : ∃ op, (0 < op ∧ op < 4) ∧ c = flashInstr op := by
      simp only [List.mem_cons, List.not_mem_nil, or_false] at hc
      rcases hc with rfl | rfl | rfl
      · exact ⟨1, by decide, rfl⟩
      · exact ⟨2, by decide, rfl⟩
      · exact ⟨3, by decide, rfl⟩
    exact ⟨s.flashAsked op, (exec_flashInstr s hop).trans (congrArg Host.Outcome.next (s.flashCtlWrite_busy h)), rfl, s.flashAsked_only op⟩
  · exact exec_flashRefused s (op := 1) (by decide) h (s.flashRefusal_misaligned ha) (by decide) (by decide)
  · exact exec_flashRefused s (op := 2) (by decide) h (s.flashRefusal_misaligned ha) (by decide) (by decide)
  · exact exec_flashRefused s (op := 3) (by decide) h (s.flashRefusal_misaligned ha) (by decide) (by decide)
  · exact exec_flashStarts s (op := 1) (by decide) h (s.flashRefusal_read ha)
  · exact exec_flashRefused s (op := 2) (by decide) h (s.flashRefusal_booted ha (by decide) ((hb 256).mpr hbt)) (by decide) (by decide)
  · exact exec_flashStarts s (op := 2) (by decide) h (s.flashRefusal_free ha fun e => hbt ((hb 256).mp e))
  · exact exec_flashRefused s (op := 3) (by decide) h (s.flashRefusal_booted ha (by decide) ((hb 65536).mpr hbt)) (by decide) (by decide)
  · exact exec_flashStarts s (op := 3) (by decide) h (s.flashRefusal_free ha fun e => hbt ((hb 65536).mp e))
  · show execFlashOpDone ok s = _
    unfold execFlashOpDone
    rw [h]
  · obtain ⟨hbusy, hresult, honly, hboot⟩ := s.flashEnded_spec ok
    have hat : ∀ a, (s.flashEnded ok).flashAt a = s.flashAt a := fun a => flashAt_congr s (by rw [hboot]) a
    obtain ⟨e, he⟩ : ∃ e, e = s.flashEnded ok := ⟨_, rfl⟩
    have hexec := execFlashOpDone_some s ho ok
    rw [← he] at hbusy hresult honly hboot hat hexec
    obtain ⟨heff, hop⟩ := e.flashEffect_leaves o ok
    refine ⟨e.flashEffect o ok, hexec, (flag_of_rd F.flashStatus_BUSY (heff _ 0 0 (by decide))).trans hbusy, ?_,
      (fget_of_rd F.flashStatus_RESULT (heff _ 0 0 (by decide))).trans hresult, fun n i j hn => ?_, fun h1 => ⟨?_, fun hok j => ?_⟩,
      fun h2 a ha => (e.flashEffect_page ok h2 ha).trans (hat a), fun h2 hok k hk => ?_, fun h3 a ha => (e.flashEffect_block ok h3 ha).trans (hat a),
      fun h3 hok k hk => ?_⟩
    · rw [hop, hboot]
    · exact (heff n i j fun h => hn (List.mem_cons_of_mem _ h)).trans (honly n i j hn)
    · rw [e.flashEffect_flash ok h1, hboot]
    · rw [e.flashEffect_read ok h1, if_pos hok, e.flashShown_data _ j.isLt, flashBytes_congr (s := s) (by rw [hboot])]
    · rw [e.flashEffect_program ok h2, if_pos hok]
      exact e.flashStored_in hk
    · rw [e.flashEffect_erase ok h3, if_pos hok, e.flashStored_in (by rw [List.length_replicate]; exact hk)]
      exact nth_replicate _ _ _ hk

end Sys2Proof.Machine
end

section
/-!
PROOF. Block resets and mask sets (R510, R512, R516, R517).
-/

set_option Elab.async false
set_option exponentiation.threshold 4096
set_option maxRecDepth 20000

namespace Sys2Proof.Machine

section
variable (s : State)

/-! ## Step 2 of a tile's block reset: threads abandoned (R510, R174) -/

theorem State.setPkt_pkt_ne {t fid f : Nat} (v : Option Pkt) (h : f ≠ fid) : (s.setPkt t fid v).pkt t f = s.pkt t f := by
  unfold State.pkt State.setPkt State.setPipe State.pipe
  dsimp only
  rw [tget_tset_same, tget_tset_ne _ _ _ _ h]

theorem State.countReason_pkt (t r f : Nat) : (s.countReason t r).pkt t f = s.pkt t f := (State.countReason_keeps (.rfl' .butCirrus s) t r).pkt rfl t f

theorem State.perf_pkt (t c : Nat) (sl : Option Nat) (f : Nat) : (s.perf t c sl none none 1).pkt t f = s.pkt t f :=
  (State.perf_keeps (.rfl' .butCirrus s) t c sl none none 1).pkt rfl t f

theorem State.bump_pkt (n : RName) (i t f : Nat) : (s.bump n i).pkt t f = s.pkt t f := rfl

/-- The packet's record is stored, in another stage than running. -/
def State.StoresIdle (s u : State) (t fid : Nat) : Prop :=
  ∃ w v, u = State.setPkt w t fid (some v) ∧ v.stage ≠ .running ∧ ∀ f, w.pkt t f = s.pkt t f

theorem State.excPkt_stores (t fid : Nat) (k : Pkt) (r : Nat) : s.StoresIdle (s.excPkt t fid k r) t fid := by
  have hcount : ∀ f, ((s.countReason t r).perf t 13 (some (s.slotOf k.iport)) none none 1).pkt t f = s.pkt t f := fun f =>
    (State.perf_pkt _ _ _ _ f).trans (s.countReason_pkt t r f)
  refine ⟨_, _, rfl, show PStage.ready ≠ .running by decide, fun f => ?_⟩
  split
  · exact (State.bump_pkt _ _ _ _ _).trans (hcount f)
  · exact hcount f

/-- A packet abandoned is stored in another stage, or left as it is. -/
theorem State.abandon_form (t fid why : Nat) : s.abandon t fid why = s ∨ s.StoresIdle (s.abandon t fid why) t fid := by
  have hcount : ∀ f, ((s.bump .cntRestart t (why - 1)).perf t 12 none none none 1).pkt t f = s.pkt t f := fun f => State.perf_pkt _ _ _ _ f
  unfold State.abandon
  split
  · exact .inl rfl
  · split
    · exact .inl rfl
    · generalize (s.bump .cntRestart t (why - 1)).perf t 12 none none none 1 = a at hcount ⊢
      dsimp only
      split
      · obtain ⟨w, v, he, hv, hw⟩ := a.excPkt_stores t fid _ (0x0200 + why)
        exact .inr ⟨w, v, he, hv, fun f => (hw f).trans (hcount f)⟩
      · exact .inr ⟨a, _, rfl, by simp, hcount⟩

/-- No thread of the packet runs. -/
def State.stopped (s : State) (t fid : Nat) : Prop := ∀ k, s.pkt t fid = some k → k.stage ≠ .running

/-- No thread that runs is committed. -/
def State.uncommitted (s : State) (t : Nat) : Prop := ∀ fid k, s.pkt t fid = some k → k.stage = .running → k.thread.committed = false

variable {s}

theorem State.stopped.abandon {t fid : Nat} (h : s.stopped t fid) (f why : Nat) : (s.abandon t f why).stopped t fid := by
  obtain he | ⟨w, v, he, hv, hw⟩ := s.abandon_form t f why
  · rw [he]
    exact h
  · rw [he]
    intro k hk
    by_cases hf : fid = f
    · subst hf
      rw [State.setPkt_pkt] at hk
      exact Option.some.inj hk ▸ hv
    · rw [State.setPkt_pkt_ne _ _ hf, hw] at hk
      exact h k hk

theorem State.uncommitted.abandon {t : Nat} (h : s.uncommitted t) (f why : Nat) : (s.abandon t f why).uncommitted t := by
  obtain he | ⟨w, v, he, hv, hw⟩ := s.abandon_form t f why
  · rw [he]
    exact h
  · rw [he]
    intro fid k hk hrun
    by_cases hf : fid = f
    · subst hf
      rw [State.setPkt_pkt] at hk
      exact absurd hrun (Option.some.inj hk ▸ hv)
    · rw [State.setPkt_pkt_ne _ _ hf, hw] at hk
      exact h fid k hk hrun

theorem State.uncommitted.abandon_stopped {t : Nat} (h : s.uncommitted t) (f why : Nat) : (s.abandon t f why).stopped t f := by
  intro k hk
  cases hp : s.pkt t f with
  | none =>
    have he : s.abandon t f why = s := by
      unfold State.abandon
      rw [hp]
    rw [he, hp] at hk
    exact absurd hk (by simp)
  | some k0 =>
    by_cases hrun : k0.stage = .running
    · by_cases hr : k0.restarts < 3
      · rw [State.abandon_restarts why hp hrun (h f k0 hp hrun) hr] at hk
        exact Option.some.inj hk ▸ (by simp)
      · rw [State.abandon_exception why hp hrun (h f k0 hp hrun) (by omega)] at hk
        exact Option.some.inj hk ▸ (by simp)
    · have he : s.abandon t f why = s := by
        unfold State.abandon
        rw [hp]
        exact if_pos (.inl hrun)
      rw [he, hp] at hk
      exact Option.some.inj hk ▸ hrun

theorem mem_runningIn {t fid : Nat} {k : Pkt} (h : s.pkt t fid = some k) (hrun : k.stage = .running) : ∃ e ∈ s.runningIn t, e.1 = fid ∧ e.2 = k := by
  have hmem : (fid, some k) ∈ (s.pipe t).pkts := by
    rw [← h]
    exact mem_of_tget_ne (by rw [show tget (s.pipe t).pkts fid none = s.pkt t fid from rfl, h]; simp)
  refine ⟨(fid, k), List.mem_filterMap.mpr ⟨(fid, some k), hmem, ?_⟩, rfl, rfl⟩
  exact if_pos hrun

variable (s)

/-- The running threads of a tile abandoned. -/
def State.threadsOut (s : State) (t : Nat) : State := s.each (s.runningIn t) (fun e s => s.abandon t e.1 5)

theorem State.threadsOut_stopped {t : Nat} (h : s.uncommitted t) (fid : Nat) : (s.threadsOut t).stopped t fid := by
  by_cases hrun : ∃ k, s.pkt t fid = some k ∧ k.stage = .running
  · obtain ⟨k, hk, hst⟩ := hrun
    obtain ⟨e, he, rfl, -⟩ := mem_runningIn hk hst
    exact State.each_sets_under (I := fun u => u.uncommitted t) (P := fun u => u.stopped t e.1) he h (fun b u hu => hu.abandon b.1 5)
      (fun u hu => hu.abandon_stopped e.1 5) fun b u hu => hu.abandon b.1 5
  · exact State.each_ind (P := fun u => u.stopped t fid) (fun k hk hst => hrun ⟨k, hk, hst⟩) fun e u hu => hu.abandon e.1 5

/-- Step 2 is done. -/
def State.resetDrained (s : State) (t : Nat) : State :=
  { s.threadsOut t with squall := { (s.threadsOut t).squall with blockReset := tset (s.threadsOut t).squall.blockReset t 0 2 } }

/-- A committed thread runs, or a frame crosses. -/
def State.resetBusy (s : State) (t : Nat) : Bool :=
  (s.runningIn t).any (fun e => e.2.thread.committed) || (s.buf t).voqs.any (fun v => v.2.crossing.isSome)

theorem State.uncommitted_of_idle {t : Nat} (h : s.resetBusy t = false) : s.uncommitted t := by
  intro fid k hk hrun
  obtain ⟨e, he, -, rfl⟩ := mem_runningIn hk hrun
  unfold State.resetBusy at h
  rw [Bool.or_eq_false_iff] at h
  exact Bool.eq_false_iff.mpr (List.any_eq_false.mp h.1 e he)

theorem execBlockResetDrained_idle {t : TileIx} (h : tget s.squall.blockReset t 0 ≠ 1 ∨ s.resetBusy t = true) :
    exec (.blockResetDrained t) s = .next s := congrArg Host.Outcome.next (if_pos h)

theorem execBlockResetDrained_at {t : TileIx} (h : tget s.squall.blockReset t 0 = 1) (hb : s.resetBusy t = false) :
    exec (.blockResetDrained t) s = .next (s.resetDrained t) :=
  congrArg Host.Outcome.next (if_neg (by rintro (e | e); exact e h; exact Bool.false_ne_true (hb.symm.trans e)))

theorem State.resetDrained_spec {t : Nat} (hb : s.resetBusy t = false) : tget (s.resetDrained t).squall.blockReset t 0 = 2 ∧
    ∀ fid k, (s.resetDrained t).pkt t fid = some k → k.stage ≠ .running :=
  ⟨tget_tset_same (s.threadsOut t).squall.blockReset t 0 2, fun fid k hk => s.threadsOut_stopped (s.uncommitted_of_idle hb) fid k hk⟩

/-! ## Steps 3 and 4 (R510, R516) -/

theorem State.release516_masks {src : Nat} (h : src ≠ 0) : ∀ k ∈ (s.release516 src).squall.masks, k.held ≠ src := by
  intro k hk
  obtain ⟨m, -, rfl⟩ := List.mem_map.mp hk
  split
  · exact Ne.symm h
  · assumption

/-- A tile in which dispatch resumes. -/
def State.tileGoes (s : State) (t : Nat) : State :=
  let s1 : State := { s with squall := { s.squall with blockReset := tset s.squall.blockReset t 0 0, blockPipe := tset s.squall.blockPipe t 0 0 } }
  (s1.setPipe t { s1.pipe t with stopped := false }).release516 (srcTile t)

def State.resetEnded (s : State) (t : Nat) : State :=
  (((s.tileGoes t).when (decide (tget s.squall.blockPipe t 0 ≠ 0)) (fun u => u.standIn t (tget s.squall.blockPipe t 0 - 1)))).dispatchHeld t

theorem State.tileGoes_spec (t : Nat) : tget (s.tileGoes t).squall.blockReset t 0 = 0 ∧ ((s.tileGoes t).pipe t).stopped = false ∧
    (∀ k ∈ (s.tileGoes t).squall.masks, k.held ≠ srcTile t) ∧ ∀ n i j, (s.tileGoes t).rd n i j = s.rd n i j := by
  refine ⟨tget_tset_same s.squall.blockReset t 0 0, congrArg PipeTile.stopped (State.setPipe_pipe _ t _), State.release516_masks _ ?_, fun n i j => rfl⟩
  unfold srcTile
  omega

theorem State.dispatch_stopped (t fid : Nat) : ((s.dispatch t fid).pipe t).stopped = (s.pipe t).stopped := by
  unfold State.dispatch
  split
  · rfl
  · dsimp only
    split
    · rfl
    · split
      · rfl
      · unfold State.setPkt
        rw [State.setPipe_pipe, State.setPipe_pipe]

theorem State.dispatchHeld_stopped (t : Nat) : ((s.dispatchHeld t).pipe t).stopped = (s.pipe t).stopped :=
  State.each_view (fun u : State => (u.pipe t).stopped) fun e u => u.dispatch_stopped t e.1

theorem State.dispatchHeld_rest (t : Nat) : Keeps { Touch.onRegs [] with squall := false } s (s.dispatchHeld t) := State.dispatchHeld_keeps (.rfl' _ s) t

theorem State.standIn_parts (t k : Nat) : (s.standIn t k).squall = s.squall ∧ (s.standIn t k).cirrus = s.cirrus := by
  have hk : Keeps { Touch.all with squall := false, cirrus := false } s (s.standIn t k) := State.standIn_keeps (.rfl' _ s) t k
  exact ⟨hk.squall rfl, hk.cirrus rfl⟩

/-! ### The spare stands in (R510, R525) -/

theorem State.setRole_rd (t k role standin i j : Nat) : (s.setRole t k role standin).rd .pipeStatus i j =
    ((s.fset F.pipeStatus_ROLE role t k).fset F.pipeStatus_STANDIN standin t k).rd .pipeStatus i j :=
  (rd_fset_reg _ _ _ _ _ _ (by decide)).trans (rd_fset_reg _ _ _ _ _ _ (by decide))

theorem State.setRole_role (t k standin : Nat) {role : Nat} (h : role < 8) : (s.setRole t k role standin).fget F.pipeStatus_ROLE t k = role := by
  rw [fget_of_rd F.pipeStatus_ROLE (s.setRole_rd t k role standin t k), fget_fset_off _ _ _ _ _ _ (by decide) (by decide) fun _ => .inr (by decide)]
  exact (fget_fset_same s F.pipeStatus_ROLE role t k (by decide) (by decide)).trans (Nat.mod_eq_of_lt h)

theorem State.setRole_standin (t k role : Nat) {standin : Nat} (h : standin < 16) :
    (s.setRole t k role standin).fget F.pipeStatus_STANDIN t k = standin := by
  rw [fget_of_rd F.pipeStatus_STANDIN (s.setRole_rd t k role standin t k)]
  exact (fget_fset_same _ F.pipeStatus_STANDIN standin t k (by decide) (by decide)).trans (Nat.mod_eq_of_lt h)

theorem State.setRole_other {t k i j : Nat} (role standin : Nat) (h : regKey .pipeStatus i j ≠ regKey .pipeStatus t k) :
    (s.setRole t k role standin).rd .pipeStatus i j = s.rd .pipeStatus i j :=
  (s.setRole_rd t k role standin i j).trans ((rd_wr_key _ _ h).trans (rd_wr_key _ _ h))

theorem State.standIn_spec {t k : Nat} (hk : k < 8) (h8 : s.fget F.pipeStatus_ROLE t 8 = 1) (hr : s.fget F.pipeStatus_ROLE t k = 0) :
    (s.standIn t k).fget F.pipeStatus_ROLE t k = 5 ∧ (s.standIn t k).fget F.pipeStatus_ROLE t 8 = 2 ∧ (s.standIn t k).fget F.pipeStatus_STANDIN t 8 = k ∧
      (s.standIn t k).flag F.spareTile_PIPE_STANDIN t = true := by
  have heq : s.standIn t k = ((s.setRole t k 5 0).setRole t 8 2 k).fset F.spareTile_PIPE_STANDIN 1 t := if_pos ⟨decide_eq_true h8, hk, hr⟩
  have hrd : ∀ f : Fld, f.reg = .pipeStatus → ∀ j, (s.standIn t k).fget f t j = ((s.setRole t k 5 0).setRole t 8 2 k).fget f t j := fun f hf j => by
    rw [heq]
    exact fget_fset_reg _ _ _ _ _ _ (by rw [hf]; decide)
  have hapart : regKey .pipeStatus t k ≠ regKey .pipeStatus t 8 := fun e => by
    have := (regKey_inj e).2.2
    omega
  refine ⟨?_, ?_, ?_, ?_⟩
  · rw [hrd _ rfl, fget_of_rd F.pipeStatus_ROLE (State.setRole_other _ 2 k hapart)]
    exact s.setRole_role t k 0 (by decide)
  · rw [hrd _ rfl]
    exact State.setRole_role _ t 8 k (by decide)
  · rw [hrd _ rfl]
    exact State.setRole_standin _ t 8 2 (by omega)
  · rw [heq]
    exact flag_fset_one _ _ _ _ rfl (by decide)

theorem execBlockResetDone_at {t : TileIx} (h : tget s.squall.blockReset t 0 = 2) : exec (.blockResetDone t) s = .next (s.resetEnded t) := by
  show execBlockResetDone t s = _
  unfold execBlockResetDone
  rw [if_neg (not_not.mpr h)]
  rfl

theorem State.resetEnded_spec (t : Nat) : tget (s.resetEnded t).squall.blockReset t 0 = 0 ∧ ((s.resetEnded t).pipe t).stopped = false ∧
    (∀ k ∈ (s.resetEnded t).squall.masks, k.held ≠ srcTile t) ∧
    (∀ k, tget s.squall.blockPipe t 0 = k + 1 → ∀ n i j, (s.resetEnded t).rd n i j = ((s.tileGoes t).standIn t k).rd n i j) := by
  obtain ⟨hreset, hstop, hmasks, -⟩ := s.tileGoes_spec t
  obtain ⟨g, hg⟩ : ∃ g, g = (s.tileGoes t).when (decide (tget s.squall.blockPipe t 0 ≠ 0)) (fun u => u.standIn t (tget s.squall.blockPipe t 0 - 1)) := ⟨_, rfl⟩
  have heq : s.resetEnded t = g.dispatchHeld t := by
    rw [hg]
    rfl
  have hparts : g.squall = (s.tileGoes t).squall ∧ g.cirrus = (s.tileGoes t).cirrus := by
    rw [hg]
    unfold State.when
    split
    · exact State.standIn_parts _ t _
    · exact ⟨rfl, rfl⟩
  have hpipe : (g.pipe t).stopped = ((s.tileGoes t).pipe t).stopped := by
    unfold State.pipe
    rw [hparts.2]
  rw [heq]
  have hsq : (g.dispatchHeld t).squall = (s.tileGoes t).squall := ((g.dispatchHeld_rest t).squall rfl).trans hparts.1
  refine ⟨by rw [hsq, hreset], (g.dispatchHeld_stopped t).trans (hpipe.trans hstop), by rw [hsq]; exact hmasks, fun k hk n i j => ?_⟩
  have hstand : g = (s.tileGoes t).standIn t k := by
    rw [hg]
    unfold State.when
    rw [if_pos (decide_eq_true (by rw [hk]; exact Nat.succ_ne_zero k)), hk, Nat.add_sub_cancel]
  rw [← hstand]
  exact (g.dispatchHeld_rest t).rd n i j (Touch.onRegs_has (by simp))

/-! ## The end of a privileged source's reset (R512) -/

/-- The source out of reset, its masks let go. -/
def State.privOut (s : State) (src : Nat) : State :=
  { s.release516 src with squall := { (s.release516 src).squall with privReset := (s.release516 src).squall.privReset.filter (fun x => decide (x ≠ src)) } }

theorem State.privOut_spec {src : Nat} (h : src ≠ 0) : (s.privOut src).squall.privReset.contains src = false ∧
    ∀ k ∈ (s.privOut src).squall.masks, k.held ≠ src := by
  refine ⟨?_, s.release516_masks h⟩
  rw [Bool.eq_false_iff]
  intro hc
  have hm := List.mem_filter.mp (List.contains_iff_mem.mp hc)
  exact of_decide_eq_true hm.2 rfl

/-- The power controller's hold, as its reset ends. -/
def State.powerHeld (s : State) : Bool := s.squall.privReset.contains srcThermal || (List.range 73).any (fun k => !s.flag F.temp_VALID k)
def State.holdSet (s : State) (held : Bool) : State := { s with power := { s.power with resetHold := held } }

/-- What the end of its reset does to a source. -/
def State.privBack (s : State) (i : Nat) (ok : Bool) : State :=
  match i with
  | 0 => (s.holdSet s.powerHeld).loopStart (s.fget F.vinMv_V)
  | 3 => s.fset F.bnStatus_FAULT (b2n (!ok))
  | 5 => if s.flag F.anvilCtl_EN = true ∧ s.power.gddrOn = true then s.anvilTrained else s
  | _ => s

theorem execPrivBlockResetDone_at {i : Fin 6} (ok : Bool) (h : s.squall.privReset.contains (0x800 + i.val) = true) :
    exec (.privBlockResetDone i ok) s = .next ((s.privOut (0x800 + i.val)).privBack i ok) := by
  show execPrivBlockResetDone i ok s = _
  unfold execPrivBlockResetDone
  rw [if_neg (by rw [h]; decide)]
  rfl

theorem State.privBack_squall (i : Nat) (ok : Bool) : (s.privBack i ok).squall = s.squall := by
  unfold State.privBack
  split
  · exact (State.loopStart_keeps (.rfl' { Touch.all with squall := false } (s.holdSet s.powerHeld)) _).squall rfl
  · rfl
  · split
    · exact (State.anvilTrained_keeps (.rfl' { Touch.all with squall := false } s)).squall rfl
    · rfl
  · rfl

theorem State.privOut_keeps (src : Nat) : (∀ f, (s.privOut src).flag f = s.flag f) ∧ (s.privOut src).power = s.power := ⟨fun _ => rfl, rfl⟩

theorem execPrivBlockResetDone_spec {i : Fin 6} (ok : Bool) (h : s.squall.privReset.contains (0x800 + i.val) = true) :
    ∃ u, exec (.privBlockResetDone i ok) s = .next u ∧ u.squall.privReset.contains (0x800 + i.val) = false ∧
      (∀ k ∈ u.squall.masks, k.held ≠ 0x800 + i.val) ∧ (i = 0 → u.flag F.pwrStatus_STARTUP = true) ∧ (i = 3 → u.flag F.bnStatus_FAULT = !ok) ∧
      (i = 5 → s.flag F.anvilCtl_EN = true → s.power.gddrOn = true → u.flag F.anvilStatus_READY = true) := by
  obtain ⟨hout, hmasks⟩ := s.privOut_spec (src := 0x800 + i.val) (by omega)
  obtain ⟨hflag, hpower⟩ := s.privOut_keeps (0x800 + i.val)
  have hexec := execPrivBlockResetDone_at s ok h
  obtain ⟨p, hp⟩ : ∃ p, p = s.privOut (0x800 + i.val) := ⟨_, rfl⟩
  rw [← hp] at hout hmasks hflag hpower hexec
  refine ⟨p.privBack i ok, hexec, by rw [p.privBack_squall, hout], by rw [p.privBack_squall]; exact hmasks, ?_, ?_, ?_⟩
  · rintro rfl
    exact ((p.holdSet p.powerHeld).loopStart_flags (p.fget F.vinMv_V)).2.1
  · rintro rfl
    cases ok
    · exact flag_fset_one p F.bnStatus_FAULT 0 0 rfl (by decide)
    · exact flag_fset_none p F.bnStatus_FAULT 0 0 rfl (by decide)
  · rintro rfl hen hg
    have heq : p.privBack (5 : Fin 6).val ok = p.anvilTrained := if_pos ⟨(hflag _).trans hen, by rw [hpower, hg]⟩
    rw [heq]
    exact p.anvilTrained_ready

/-! ## The end of a mask set (R516, R517) -/

/-- The masks of other sets. -/
def State.masksWithout (s : State) (k : Mask) : List Mask := s.squall.masks.filter (fun x => decide (x.id ≠ k.id))

/-- A mask set gone. -/
def State.maskGone (s : State) (k : Mask) : State :=
  ({ s with squall := { s.squall with masks := s.masksWithout k } } : State).fset F.sqStatus_MASK_ACTIVE (b2n (!(s.masksWithout k).isEmpty))

theorem find?_of_split {α : Type} {p : α → Bool} {pre post : List α} {a : α} (hpre : ∀ x ∈ pre, p x = false) (ha : p a = true) :
    (pre ++ a :: post).find? p = some a := by
  rw [List.find?_append, List.find?_eq_none.mpr fun x hx => by rw [hpre x hx]; decide, Option.none_or, List.find?_cons_of_pos ha]

theorem State.maskGone_spec (k : Mask) : (s.maskGone k).squall.masks = s.masksWithout k ∧
    (s.maskGone k).flag F.sqStatus_MASK_ACTIVE = decide (s.masksWithout k ≠ []) ∧ OnlyRegs [.sqStatus] s (s.maskGone k) ∧ OnlyWide [] s (s.maskGone k) := by
  obtain ⟨a, ha⟩ : ∃ a : State, a = { s with squall := { s.squall with masks := s.masksWithout k } } := ⟨_, rfl⟩
  have heq : s.maskGone k = a.fset F.sqStatus_MASK_ACTIVE (b2n (!(s.masksWithout k).isEmpty)) := by
    rw [ha]
    rfl
  have hbase : OnlyRegs [.sqStatus] s a ∧ OnlyWide [] s a := by
    rw [ha]
    exact ⟨OnlyRegs.refl _ s, OnlyWide.refl _ s⟩
  refine ⟨rfl, ?_, ?_, ?_⟩
  · rw [heq]
    cases s.masksWithout k with
    | nil => exact flag_fset_none _ _ _ _ rfl (by decide)
    | cons x xs => exact flag_fset_one a _ 0 0 rfl (by decide)
  · rw [heq]
    exact hbase.1.fset (f := F.sqStatus_MASK_ACTIVE) _ 0 0 (by decide)
  · rw [heq]
    exact hbase.2.fset F.sqStatus_MASK_ACTIVE _ 0 0

theorem execMaskSetExpire_none (h : ∀ k ∈ s.squall.masks, k.held ≠ 0) : exec .maskSetExpire s = .next s := by
  show execMaskSetExpire s = _
  unfold execMaskSetExpire
  rw [List.find?_eq_none.mpr fun k hk => by rw [decide_eq_true_iff]; exact h k hk]

theorem execMaskSetExpire_some {pre post : List Mask} {k : Mask} (h : s.squall.masks = pre ++ k :: post) (hk : k.held = 0) (hpre : ∀ x ∈ pre, x.held ≠ 0) :
    exec .maskSetExpire s = .next (s.maskGone k) := by
  have hfind : s.squall.masks.find? (fun m => decide (m.held = 0)) = some k := by
    rw [h]
    exact find?_of_split (fun x hx => decide_eq_false (hpre x hx)) (decide_eq_true hk)
  show execMaskSetExpire s = _
  unfold execMaskSetExpire
  rw [hfind]
  rfl

end

/-- Settles O55: each step of a block reset by what it leaves of the tile's threads, pipes and masks. -/
theorem blockResets : Obligations.BlockResets := by
  intro s t i ok
  refine ⟨⟨fun h => execBlockResetDrained_idle s h, fun h hb => ?_⟩, fun h => congrArg Host.Outcome.next (if_pos h), fun h => ?_,
    fun h => congrArg Host.Outcome.next (if_pos (by rw [h]; rfl)), fun h => execPrivBlockResetDone_spec s ok h, execMaskSetExpire_none s,
    fun pre k post h hk hpre => ?_⟩
  · obtain ⟨h2, hstop⟩ := s.resetDrained_spec (t := t) hb
    exact ⟨s.resetDrained t, execBlockResetDrained_at s h hb, h2, hstop⟩
  · obtain ⟨h0, hstop, hmasks, hrd⟩ := s.resetEnded_spec t
    refine ⟨s.resetEnded t, execBlockResetDone_at s h, h0, hstop, hmasks, fun k hk hlt h8 hr => ?_⟩
    have hsame : ∀ j, (s.tileGoes t).fget F.pipeStatus_ROLE t j = s.fget F.pipeStatus_ROLE t j := fun j =>
      fget_of_rd F.pipeStatus_ROLE ((s.tileGoes_spec t).2.2.2 _ _ _)
    obtain ⟨h1, h2, h3, h4⟩ := (s.tileGoes t).standIn_spec hlt ((hsame 8).trans h8) ((hsame k).trans hr)
    exact ⟨(fget_of_rd F.pipeStatus_ROLE (hrd k hk _ _ _)).trans h1, (fget_of_rd F.pipeStatus_ROLE (hrd k hk _ _ _)).trans h2,
      (fget_of_rd F.pipeStatus_STANDIN (hrd k hk _ _ _)).trans h3, (flag_of_rd F.spareTile_PIPE_STANDIN (hrd k hk _ _ _)).trans h4⟩
  · obtain ⟨hm, hactive, honly, hwide⟩ := s.maskGone_spec k
    exact ⟨s.maskGone k, execMaskSetExpire_some s h hk hpre, hm, by rw [hm]; exact hactive, honly, hwide⟩

end Sys2Proof.Machine
end

section
/-!
PROOF. How Bennidan's commands start (R540–R547).
-/

set_option Elab.async false
set_option exponentiation.threshold 4096
set_option maxRecDepth 20000

namespace Sys2Proof.Machine

/-! ## Bytes of a layout -/

theorem bytesAt_flatten {ps : List (List Byte)} {L : List Nat} (hL : ps.map List.length = L) {k off n : Nat} {p : List Byte} (hp : ps[k]? = some p)
    (hoff : (L.take k).sum = off) (hn : p.length = n) : bytesAt ps.flatten off n = p := by
  obtain ⟨hk, hget⟩ := List.getElem?_eq_some_iff.mp hp
  have hpre : (ps.take k).flatten.length = off := by rw [List.length_flatten, List.map_take, hL, hoff]
  have hsplit : ps.flatten = (ps.take k).flatten ++ (p ++ (ps.drop (k + 1)).flatten) := by
    conv_lhs => rw [← List.take_append_drop k ps, List.drop_eq_getElem_cons hk, hget]
    rw [List.flatten_append, List.flatten_cons]
  unfold bytesAt
  dsimp only
  rw [hsplit, List.drop_append_of_le_length hpre.ge, ← hpre, List.drop_length, List.nil_append, ← hn, List.take_left, Nat.sub_self]
  exact List.append_nil p

theorem byteAt_eq {l : List Byte} {k : Nat} (h : k < l.length) : byteAt l k = leNat (bytesAt l k 1) := by
  have hone : (l.drop k).take 1 = [l[k]] := by rw [List.drop_eq_getElem_cons h]; rfl
  unfold bytesAt byteAt nth
  rw [hone, List.getD_eq_getElem _ _ h]
  simp [leNat]

theorem shake256_length (m : List Byte) (n : Nat) : (Config.shake256 m n).length = n := by
  unfold Config.shake256
  rw [List.length_map, List.length_range]

theorem keyId_length (key : List Byte) : (keyId key).length = 8 := shake256_length key 8

section
variable (s : State)

theorem State.meas_length (m : Nat) : (s.meas m).length = 32 := by
  unfold State.meas
  simp [leBytes_length]

/-! ## The quote (R546) -/

/-- The key ID of the owner, or zeros. -/
def State.ownerId (s : State) : List Byte := match s.ownerKeys with
  | k :: _ => keyId k
  | [] => List.replicate 8 0

theorem State.ownerId_length : s.ownerId.length = 8 := by
  unfold State.ownerId
  split
  · exact keyId_length _
  · exact List.length_replicate

/-- The flags of a quote. -/
def State.quoteFlags (s : State) : Nat := b2n s.hz + b2n (s.flag F.ownerStatus_ENROLLED) * 2 + b2n (s.flag F.bnCfg_TBL_MEAS) * 4 +
  b2n (s.flag F.sqStatus_FACTORY) * 8 + b2n s.boot.romFirmware * 16

/-- Zenith's key ID, or zeros. -/
def State.zenId (s : State) : List Byte := if s.zenPort then keyId Config.zenKey else List.replicate 8 0

theorem State.zenId_length : s.zenId.length = 8 := by
  unfold State.zenId
  split
  · exact keyId_length _
  · exact List.length_replicate

/-- The quote's fields, in order. -/
def State.quoteFields (s : State) : List (List Byte) :=
  [leBytes 4 0x51544F51, leBytes 2 1, leBytes 2 s.quoteFlags] ++ (List.range 8).map (fun j => leBytes 4 (s.rd .nonce j).toNat) ++
    [keyId Config.devKey, s.ownerId, leBytes 1 (s.fget F.ownerStatus_ENROLLMENTS), leBytes 3 (s.rd .arbCtr).toNat, leBytes 4 0] ++
    (List.range 5).map s.meas ++
    [leBytes 2 (s.fget F.verStatus_CUR_VERSION), leBytes 2 0, leBytes 4 (s.rd .tblCommits).toNat, leBytes 8 s.ns64,
      leBytes 4 (s.rd .poweredHours).toNat, leBytes 4 (s.rd .bootSeq).toNat, s.zenId]

theorem State.quoteBody_fields : s.quoteBody = s.quoteFields.flatten := by
  unfold State.quoteBody State.quoteFields
  simp only [List.flatten_append, List.flatten_cons, List.flatten_nil, List.append_nil, List.append_assoc, List.flatMap_def]
  rfl

/-- The fields of a signature block. -/
def sigFields (cls key : Nat) (pub covered : List Byte) : List (List Byte) :=
  let head := leBytes 4 0x4B424753 ++ leBytes 2 1 ++ leBytes 1 cls ++ leBytes 1 0 ++ keyId pub ++ Config.shake256 covered 64 ++
    List.replicate 16 0
  [leBytes 4 0x4B424753, leBytes 2 1, leBytes 1 cls, leBytes 1 0, keyId pub, Config.shake256 covered 64, List.replicate 16 0,
    bytesAt (Config.falconSign key head) 0 1280]

theorem sigMake_fields (cls key : Nat) (pub covered : List Byte) : sigMake cls key pub covered = (sigFields cls key pub covered).flatten := by
  unfold sigMake sigFields
  simp only [List.flatten_cons, List.flatten_nil, List.append_nil, List.append_assoc]

/-- The lengths of the fields. -/
def quoteLens : List Nat := [4, 2, 2, 4, 4, 4, 4, 4, 4, 4, 4, 8, 8, 1, 3, 4, 32, 32, 32, 32, 32, 2, 2, 4, 8, 4, 4, 8]
def sigLens : List Nat := [4, 2, 1, 1, 8, 64, 16, 1280]

theorem State.quoteFields_lens : s.quoteFields.map List.length = quoteLens := by
  unfold State.quoteFields
  simp only [List.map_append, List.map_cons, List.map_nil, List.map_map, Function.comp_def, leBytes_length, keyId_length, s.ownerId_length,
    s.meas_length, s.zenId_length]
  rfl

theorem sigFields_lens (cls key : Nat) (pub covered : List Byte) : (sigFields cls key pub covered).map List.length = sigLens := by
  unfold sigFields
  simp only [List.map_cons, List.map_nil, leBytes_length, keyId_length, shake256_length, bytesAt_length, List.length_replicate]
  rfl

theorem State.quoteBody_length : s.quoteBody.length = 256 := by
  rw [s.quoteBody_fields, List.length_flatten, s.quoteFields_lens]
  rfl

/-- What QUOTE answers. -/
def State.quote (s : State) : List Byte := s.quoteBody ++ sigMake 2 0 Config.devKey s.quoteBody

/-- All fields of the answer. -/
def State.allFields (s : State) : List (List Byte) := s.quoteFields ++ sigFields 2 0 Config.devKey s.quoteBody

theorem State.quote_fields : s.quote = s.allFields.flatten := by
  unfold State.quote State.allFields
  rw [sigMake_fields, List.flatten_append, ← s.quoteBody_fields]

theorem State.allFields_lens : s.allFields.map List.length = quoteLens ++ sigLens := by
  unfold State.allFields
  rw [List.map_append, s.quoteFields_lens, sigFields_lens]

theorem State.quote_length : s.quote.length = 1632 := by
  rw [s.quote_fields, List.length_flatten, s.allFields_lens]
  rfl

/-- A field of the answer, by its place. -/
theorem State.quote_field (k : Nat) {off n : Nat} {p : List Byte} (hp : s.allFields[k]? = some p) (hoff : ((quoteLens ++ sigLens).take k).sum = off)
    (hn : p.length = n) : bytesAt s.quote off n = p := by
  rw [s.quote_fields]
  exact bytesAt_flatten s.allFields_lens hp hoff hn

theorem State.quote_nonce {j : Nat} (hj : j < 8) : bytesAt s.quote (8 + 4 * j) 4 = leBytes 4 (s.rd .nonce j).toNat := by
  have hp : s.allFields[3 + j]? = some (leBytes 4 (s.rd .nonce j).toNat) := by interval_cases j <;> rfl
  have hoff : ((quoteLens ++ sigLens).take (3 + j)).sum = 8 + 4 * j := by interval_cases j <;> rfl
  exact s.quote_field (3 + j) hp hoff (leBytes_length _ _)

theorem State.quote_meas {m : Nat} (hm : m < 5) : bytesAt s.quote (64 + 32 * m) 32 = s.meas m := by
  have hp : s.allFields[16 + m]? = some (s.meas m) := by interval_cases m <;> rfl
  have hoff : ((quoteLens ++ sigLens).take (16 + m)).sum = 64 + 32 * m := by interval_cases m <;> rfl
  exact s.quote_field (16 + m) hp hoff (s.meas_length m)

theorem State.quote_digest : bytesAt s.quote 272 64 = Config.shake256 (s.quote.take 256) 64 := by
  have htake : s.quote.take 256 = s.quoteBody := List.take_left' s.quoteBody_length
  rw [htake]
  exact s.quote_field 33 rfl rfl (shake256_length _ _)

theorem State.quote_class : byteAt s.quote 262 = 2 := by
  rw [byteAt_eq (by rw [s.quote_length]; decide), s.quote_field (off := 262) 30 rfl rfl (leBytes_length _ _), leNat_leBytes]
  rfl

theorem State.quote_magic : leNat (bytesAt s.quote 0 4) = 0x51544F51 ∧ leNat (bytesAt s.quote 256 4) = 0x4B424753 := by
  rw [s.quote_field (off := 0) 0 rfl rfl (leBytes_length _ _), s.quote_field (off := 256) 28 rfl rfl (leBytes_length _ _), leNat_leBytes, leNat_leBytes]
  norm_num

theorem State.quote_version : leNat (bytesAt s.quote 224 2) = s.fget F.verStatus_CUR_VERSION := by
  rw [s.quote_field (off := 224) 21 rfl rfl (leBytes_length _ _), leNat_leBytes]
  exact Nat.mod_eq_of_lt (Nat.mod_lt _ (by decide))

theorem State.quote_time : leNat (bytesAt s.quote 232 8) = s.ns64 := by
  rw [s.quote_field (off := 232) 24 rfl rfl (leBytes_length _ _), leNat_leBytes]
  exact Nat.mod_eq_of_lt (lt_of_lt_of_eq (Nat.mod_lt _ (by decide)) (by norm_num))

theorem State.quote_nonceWord {j : Nat} (hj : j < 8) : leNat (bytesAt s.quote (8 + 4 * j) 4) = (s.rd .nonce j).toNat := by
  rw [s.quote_nonce hj, leNat_leBytes]
  exact Nat.mod_eq_of_lt (lt_of_lt_of_eq (BitVec.isLt _) (by norm_num))

/-! ## The start of a command (R547) -/

/-- What each command does when it starts. -/
def bnGo : Nat → State → State
  | 1 => State.bnQuote
  | 2 => State.bnExtend
  | 3 => State.bnEnroll
  | 4 => State.bnArb
  | 5 => State.bnCert
  | 6 => State.bnZcert
  | _ => State.bnZcmd

theorem exec_bnCommand {c : Instr × Nat} (h : c ∈ bnCommands) : exec c.1 s = .next (s.bnStart c.2 (bnGo c.2)) := by
  simp only [bnCommands, List.mem_cons, List.not_mem_nil, or_false] at h
  rcases h with rfl | rfl | rfl | rfl | rfl | rfl | rfl
  all_goals rfl

theorem State.bnStart_busy (cmd : Nat) (go : State → State) (h : s.flag F.bnStatus_BUSY = true) : s.bnStart cmd go = s.bump .bnIgnored := if_pos h

theorem State.bnStart_fault (cmd : Nat) (go : State → State) (h : s.flag F.bnStatus_BUSY = false) (hf : s.flag F.bnStatus_FAULT = true) :
    s.bnStart cmd go = s.bnRun { cmd := cmd, result := 4 } := (if_neg (by rw [h]; decide)).trans (if_pos hf)

theorem State.bnStart_go (cmd : Nat) (go : State → State) (h : s.flag F.bnStatus_BUSY = false) (hf : s.flag F.bnStatus_FAULT = false) :
    s.bnStart cmd go = go s := (if_neg (by rw [h]; decide)).trans (if_neg (by rw [hf]; decide))

/-- The command in progress, before BUSY. -/
def State.runTaken (s : State) (r : BnRun) : State := { s with trust := { s.trust with run := some r } }

theorem State.bnRun_eq (r : BnRun) : s.bnRun r = (s.runTaken r).fset F.bnStatus_BUSY 1 := rfl

theorem State.bnRun_trust (r : BnRun) : (s.bnRun r).trust = { s.trust with run := some r } := rfl
theorem State.bnRun_boot (r : BnRun) : (s.bnRun r).boot = s.boot := rfl
theorem State.bnRun_zen (r : BnRun) : (s.bnRun r).zen = s.zen := rfl

theorem State.bnRun_starts (r : BnRun) {code result : Nat} (hc : r.cmd = code) (hr : r.result = result) : BnStarts (s.bnRun r) r code result :=
  ⟨congrArg TrustSt.run (s.bnRun_trust r), hc, hr, flag_fset_one _ F.bnStatus_BUSY 0 0 rfl (by decide)⟩

theorem State.bnRun_only (r : BnRun) : OnlyRegs [.bnStatus] s (s.bnRun r) :=
  (show OnlyRegs [.bnStatus] s (s.runTaken r) from OnlyRegs.refl _ s).fset (f := F.bnStatus_BUSY) 1 0 0 (by decide)

theorem State.bnRun_wide (r : BnRun) : OnlyWide [] s (s.bnRun r) :=
  (show OnlyWide [] s (s.runTaken r) from OnlyWide.refl _ s).fset F.bnStatus_BUSY 1 0 0

/-! ## The commands -/

section
variable (hb : s.flag F.bnStatus_BUSY = false) (hf : s.flag F.bnStatus_FAULT = false)
include hb hf

theorem exec_bnGo {c : Instr × Nat} (h : c ∈ bnCommands) : exec c.1 s = .next (bnGo c.2 s) := by
  rw [exec_bnCommand s h, s.bnStart_go c.2 _ hb hf]

theorem exec_bnQuote : ∃ u r, exec .bnQuote s = .next u ∧ BnStarts u r 1 0 ∧ r.out = s.quote ∧ OnlyRegs [.bnStatus] s u ∧ OnlyWide [] s u :=
  ⟨s.bnRun { cmd := 1, result := 0, out := s.quote }, { cmd := 1, result := 0, out := s.quote }, exec_bnGo s hb hf (c := (.bnQuote, 1)) (by decide),
    s.bnRun_starts _ rfl rfl, rfl, s.bnRun_only _, s.bnRun_wide _⟩

theorem exec_bnExtend_refused (h : (s.rd .bnArg).toNat % 8192 = 0 ∨ 4096 < (s.rd .bnArg).toNat % 8192) :
    ∃ u r, exec .bnExtend s = .next u ∧ BnStarts u r 2 3 ∧ OnlyRegs [.bnStatus] s u :=
  ⟨s.bnRun { cmd := 2, result := 3 }, { cmd := 2, result := 3 },
    (exec_bnGo s hb hf (c := (.bnExtend, 2)) (by decide)).trans (congrArg Host.Outcome.next (if_pos h)), s.bnRun_starts _ rfl rfl, s.bnRun_only _⟩

theorem exec_bnExtend_taken (h0 : (s.rd .bnArg).toNat % 8192 ≠ 0) (h1 : (s.rd .bnArg).toNat % 8192 ≤ 4096) :
    ∃ u r, exec .bnExtend s = .next u ∧ BnStarts u r 2 0 ∧
      (r.out = Config.shake256 (s.meas 3 ++ s.inBytes.take ((s.rd .bnArg).toNat % 8192)) 32 ∧ OnlyRegs [.bnStatus] s u) := by
  obtain ⟨r, hr⟩ : ∃ r : BnRun, r = { cmd := 2, result := 0, out := Config.shake256 (s.meas 3 ++ s.inBytes.take ((s.rd .bnArg).toNat % 8192)) 32 } := ⟨_, rfl⟩
  refine ⟨s.bnRun r, r, (exec_bnGo s hb hf (c := (.bnExtend, 2)) (by decide)).trans (congrArg Host.Outcome.next ?_),
    s.bnRun_starts _ (by rw [hr]) (by rw [hr]), by rw [hr], s.bnRun_only _⟩
  rw [hr]
  exact if_neg (by omega)

end

/-- The new key in the NVS, and its slot fused (R541). -/
def State.keyStored (s : State) : State :=
  { s with trust := { s.trust with newOwner := enrolKey s.inBytes, slots := s.trust.slots ++ [Config.shake256 (enrolKey s.inBytes) 32] } }

/-- The new key taken, and counted. -/
def State.keyTaken (s : State) : State := s.keyStored.fset F.ownerStatus_ENROLLMENTS (s.fget F.ownerStatus_ENROLLMENTS + 1)

/-- The state that ENROLL starts in, by its result. -/
def State.enrolBase (s : State) : State := if s.enrolCheck s.inBytes = 0 then s.keyTaken else s

theorem State.bnEnroll_eq : s.bnEnroll = s.enrolBase.bnRun { cmd := 3, result := s.enrolCheck s.inBytes } := rfl

theorem State.enrolCheck_full {d : List Byte} (h : 4 ≤ s.fget F.ownerStatus_ENROLLMENTS) : s.enrolCheck d = 2 := if_pos h

theorem State.enrolCheck_alien {d : List Byte} (h : s.fget F.ownerStatus_ENROLLMENTS < 4) (hd : bytesAt d 1793 8 ≠ keyId Config.devKey) : s.enrolCheck d = 1 :=
  (if_neg (by omega)).trans (if_neg fun e => hd e.1)

theorem State.enrolCheck_ok {d : List Byte} (h : s.enrolCheck d = 0) : s.fget F.ownerStatus_ENROLLMENTS < 4 := by
  by_contra hn
  rw [s.enrolCheck_full (Nat.not_lt.mp hn)] at h
  exact absurd h (by decide)

theorem State.enrolBase_refused (h : s.enrolCheck s.inBytes ≠ 0) : s.enrolBase = s := if_neg h

theorem State.keyTaken_spec (h : s.fget F.ownerStatus_ENROLLMENTS < 4) : s.keyTaken.trust.owner = s.trust.owner ∧
    s.keyTaken.trust.slots = s.trust.slots ++ [Config.shake256 (bytesAt s.inBytes 0 1793) 32] ∧
    s.keyTaken.flag F.ownerStatus_ENROLLED = s.flag F.ownerStatus_ENROLLED ∧
    s.keyTaken.fget F.ownerStatus_ENROLLMENTS = s.fget F.ownerStatus_ENROLLMENTS + 1 := by
  obtain ⟨a, ha⟩ : ∃ a, a = s.keyStored := ⟨_, rfl⟩
  have heq : s.keyTaken = a.fset F.ownerStatus_ENROLLMENTS (s.fget F.ownerStatus_ENROLLMENTS + 1) := by
    rw [ha]
    rfl
  have hflag : a.flag F.ownerStatus_ENROLLED = s.flag F.ownerStatus_ENROLLED := by
    rw [ha]
    rfl
  refine ⟨rfl, rfl, ?_, ?_⟩
  · rw [heq, flag_fset_off _ _ _ _ _ _ (by decide) (by decide) fun _ => .inl (by decide)]
    exact hflag
  · rw [heq]
    exact (fget_fset_same a F.ownerStatus_ENROLLMENTS _ 0 0 (by decide) (by decide)).trans (Nat.mod_eq_of_lt (show _ < 8 by omega))

/-- What ENROLL leaves from its start on. -/
theorem State.enrolBase_spec : s.enrolBase.trust.owner = s.trust.owner ∧ s.enrolBase.flag F.ownerStatus_ENROLLED = s.flag F.ownerStatus_ENROLLED ∧
    s.enrolBase.fget F.ownerStatus_ENROLLMENTS = s.fget F.ownerStatus_ENROLLMENTS + (if s.enrolCheck s.inBytes = 0 then 1 else 0) ∧
    s.enrolBase.trust.slots = s.trust.slots ++ (if s.enrolCheck s.inBytes = 0 then [Config.shake256 (bytesAt s.inBytes 0 1793) 32] else []) := by
  by_cases h : s.enrolCheck s.inBytes = 0
  · obtain ⟨howner, hslots, hen, hcount⟩ := s.keyTaken_spec (s.enrolCheck_ok h)
    rw [show s.enrolBase = s.keyTaken from if_pos h, if_pos h, if_pos h]
    exact ⟨howner, hen, hcount, hslots⟩
  · rw [s.enrolBase_refused h, if_neg h, if_neg h, List.append_nil]
    exact ⟨rfl, rfl, rfl, rfl⟩

/-- The check of an anti-rollback increment passes (R542). -/
def State.arbPasses (s : State) (cls v : Nat) : Prop := ∃ n, s.runningSvn cls = some n ∧ s.arbOf cls < v ∧ v ≤ n

theorem State.arbCheck_pass {cls v : Nat} (h : s.arbPasses cls v) : s.arbCheck cls v = 0 := by
  obtain ⟨n, hn, hlt, hle⟩ := h
  unfold State.arbCheck
  rw [hn]
  exact if_pos ⟨hlt, hle⟩

theorem State.arbCheck_fail {cls v : Nat} (h : ¬ s.arbPasses cls v) : s.arbCheck cls v = 3 := by
  unfold State.arbCheck
  cases hn : s.runningSvn cls with
  | none => rfl
  | some n => exact if_neg fun e => h ⟨n, hn, e.1, e.2⟩

/-- The intent of an increment recorded (R486). -/
def State.arbNoted (s : State) (cls v : Nat) : State := { s with boot := { s.boot with journal := s.boot.journal ++ [.arb cls v] } }

theorem State.bnArb_eq (cls v : Nat) (hc : bits (s.rd .bnArg).toNat 1 0 = cls) (hv : bits (s.rd .bnArg).toNat 15 8 = v) :
    s.bnArb = (if s.arbCheck cls v = 0 then s.arbNoted cls v else s).bnRun { cmd := 4, result := s.arbCheck cls v } := by
  subst hc hv
  rfl

/-- A buffer passed to Zenith's verifier. -/
def State.zcmdTaken (s : State) : State := { s with trust := { s.trust with zcmd := some s.inBytes, zreply := none } }

section
variable {cls v : Nat} (hb : s.flag F.bnStatus_BUSY = false) (hf : s.flag F.bnStatus_FAULT = false)
  (hc : bits (s.rd .bnArg).toNat 1 0 = cls) (hv : bits (s.rd .bnArg).toNat 15 8 = v)
include hb hf hc hv

theorem exec_bnArb_taken (h : s.arbPasses cls v) : ∃ u r, exec .bnArb s = .next u ∧ BnStarts u r 4 0 ∧
    u.boot.journal = s.boot.journal ++ [.arb cls v] ∧ u.rd .arbCtr = s.rd .arbCtr := by
  have hcheck := s.arbCheck_pass h
  refine ⟨(s.arbNoted cls v).bnRun { cmd := 4, result := s.arbCheck cls v }, { cmd := 4, result := s.arbCheck cls v }, ?_,
    State.bnRun_starts _ _ rfl hcheck, rfl, State.bnRun_only (s.arbNoted cls v) _ _ 0 0 (by decide)⟩
  rw [exec_bnGo s hb hf (c := (.bnArb, 4)) (by decide)]
  exact congrArg Host.Outcome.next ((s.bnArb_eq cls v hc hv).trans (congrArg (fun u : State => u.bnRun { cmd := 4, result := s.arbCheck cls v }) (if_pos hcheck)))

theorem exec_bnArb_refused (h : ¬ s.arbPasses cls v) : ∃ u r, exec .bnArb s = .next u ∧ BnStarts u r 4 3 ∧ u.boot = s.boot ∧
    u.rd .arbCtr = s.rd .arbCtr := by
  have hcheck := s.arbCheck_fail h
  refine ⟨s.bnRun { cmd := 4, result := s.arbCheck cls v }, { cmd := 4, result := s.arbCheck cls v }, ?_, s.bnRun_starts _ rfl hcheck, rfl,
    s.bnRun_only _ _ 0 0 (by decide)⟩
  rw [exec_bnGo s hb hf (c := (.bnArb, 4)) (by decide)]
  exact congrArg Host.Outcome.next ((s.bnArb_eq cls v hc hv).trans
    (congrArg (fun u : State => u.bnRun { cmd := 4, result := s.arbCheck cls v }) (if_neg (by rw [hcheck]; decide))))

end

theorem bnArg_fields (a : Nat) : bits a 1 0 = a % 4 ∧ bits a 15 8 = a / 256 % 256 := ⟨rfl, by
  unfold bits
  rw [Nat.shiftRight_eq_div_pow]
  rfl⟩

end

theorem bennidanStarts_holds : Claims.BennidanStarts := by
  intro s
  refine ⟨fun h c hc => ?_, fun h hf c hc => ?_, fun h hf => ?_⟩
  · rw [exec_bnCommand s hc, s.bnStart_busy c.2 _ h]
  · refine ⟨s.bnRun { cmd := c.2, result := 4 }, { cmd := c.2, result := 4 }, ?_, rfl, rfl, rfl, (s.bnRun_starts _ rfl rfl).2.2.2, s.bnRun_only _,
      s.bnRun_wide _⟩
    rw [exec_bnCommand s hc, s.bnStart_fault c.2 _ h hf]
  · obtain ⟨hclsBits, hvBits⟩ := bnArg_fields (s.rd .bnArg).toNat
    refine ⟨?_, fun ha => exec_bnExtend_refused s h hf ha, fun h0 h1 => exec_bnExtend_taken s h hf h0 h1,
      ⟨fun hn => ?_, fun hn hd => ?_, ?_⟩, ⟨fun hok => ?_, fun hok => ?_⟩, ?_, ?_, ?_⟩
    · obtain ⟨u, r, hexec, hstart, hout, honly, hwide⟩ := exec_bnQuote s h hf
      refine ⟨u, r, hexec, hstart, ?_⟩
      rw [hout]
      obtain ⟨hq, hsig⟩ := s.quote_magic
      exact ⟨s.quote_length, hq, fun j hj => s.quote_nonceWord hj, fun m hm => s.quote_meas hm, s.quote_version, s.quote_time, hsig, s.quote_class,
        s.quote_digest, honly, hwide⟩
    · have hcheck := s.enrolCheck_full (d := s.inBytes) hn
      refine ⟨s.bnEnroll, _, exec_bnGo s h hf (c := (.bnEnroll, 3)) (by decide), s.enrolBase.bnRun_starts _ rfl hcheck, ?_⟩
      rw [s.bnEnroll_eq, s.enrolBase_refused (by rw [hcheck]; decide)]
      exact ⟨rfl, s.bnRun_only _⟩
    · have hcheck := s.enrolCheck_alien (d := s.inBytes) hn hd
      refine ⟨s.bnEnroll, _, exec_bnGo s h hf (c := (.bnEnroll, 3)) (by decide), s.enrolBase.bnRun_starts _ rfl hcheck, ?_⟩
      rw [s.bnEnroll_eq, s.enrolBase_refused (by rw [hcheck]; decide)]
      exact ⟨rfl, s.bnRun_only _⟩
    · obtain ⟨howner, hen, hcount, hslots⟩ := s.enrolBase_spec
      refine ⟨s.bnEnroll, { cmd := 3, result := s.enrolCheck s.inBytes }, exec_bnGo s h hf (c := (.bnEnroll, 3)) (by decide),
        s.enrolBase.bnRun_starts _ rfl rfl, howner, ?_, ?_, hslots⟩
      · exact (flag_of_rd F.ownerStatus_ENROLLED (s.enrolBase.bnRun_only _ _ 0 0 (by decide))).trans hen
      · exact (fget_of_rd F.ownerStatus_ENROLLMENTS (s.enrolBase.bnRun_only _ _ 0 0 (by decide))).trans hcount
    · exact exec_bnArb_taken s h hf hclsBits hvBits hok
    · exact exec_bnArb_refused s h hf hclsBits hvBits hok
    · exact ⟨s.bnRun { cmd := 5, result := 0, out := Config.devCert.take 4095 }, _, exec_bnGo s h hf (c := (.bnCert, 5)) (by decide),
        s.bnRun_starts _ rfl rfl, rfl, s.bnRun_only _⟩
    · refine ⟨s.bnZcert, if s.zenPort then { cmd := 6, result := 0, out := Config.zenCert.take 4095 } else { cmd := 6, result := 6 },
        exec_bnGo s h hf (c := (.bnZcert, 6)) (by decide), ?_⟩
      unfold State.bnZcert
      split
      · exact ⟨s.bnRun_starts _ rfl rfl, s.bnRun_only _⟩
      · exact ⟨s.bnRun_starts _ rfl rfl, s.bnRun_only _⟩
    · refine ⟨s.bnZcmd, { cmd := 7, result := if s.zenPort then 0 else 6 }, exec_bnGo s h hf (c := (.bnZcmd, 7)) (by decide), ?_⟩
      unfold State.bnZcmd
      split
      · exact ⟨State.bnRun_starts _ _ rfl rfl, fun _ => ⟨rfl, rfl⟩, rfl, State.bnRun_only (s.zcmdTaken) _⟩
      · exact ⟨s.bnRun_starts _ rfl rfl, fun e => absurd e ‹_›, rfl, s.bnRun_only _⟩

end Sys2Proof.Machine
end

section
/-!
PROOF. How Bennidan's commands end (R486, R541, R542, R544, R547, R562).
-/

set_option Elab.async false
set_option exponentiation.threshold 4096
set_option maxRecDepth 20000

namespace Sys2Proof.Machine

section
variable (s : State)

/-- A run of writes at one index each. -/
theorem rd_forN_wr_inst (n : RName) (g : Nat → Word) {c j : Nat} (hc : c ≤ 65536) (hj : j < c) :
    (forN c (fun j s => s.wr n (g j) j) s).rd n j = g j := by
  have hview := forN_view (fun u : State => u.rd n j) (op := fun j (s : State) => s.wr n (g j) j) (n := c) j s
    (fun k b hk hne => rd_wr_inst b _ _ _ (by omega)) fun b d _ => by rw [rd_wr_same, rd_wr_same]
  rw [if_pos hj, rd_wr_same] at hview
  exact hview

/-! ## RESULT (R547) -/

/-- The word of BN_RESULT at a command's end. -/
def bnWord (r : BnRun) : Word := BitVec.ofNat 32 (r.result + r.reason * 16)

theorem bnWord_result {r : BnRun} (h : r.result < 16) : bits (bnWord r).toNat 3 0 = r.result := by
  unfold bnWord
  rw [BitVec.toNat_ofNat]
  show (r.result + r.reason * 16) % 2 ^ 32 % 16 = r.result
  rw [Nat.mod_mod_of_dvd _ (by norm_num), Nat.add_mul_mod_self_right, Nat.mod_eq_of_lt h]

theorem bnWord_reason {r : BnRun} (h : r.result < 16) (hr : r.reason < 256) : bits (bnWord r).toNat 11 4 = r.reason := by
  have hsmall : r.result + r.reason * 16 < 2 ^ 32 := by omega
  unfold bnWord bits
  rw [BitVec.toNat_ofNat, Nat.mod_eq_of_lt hsmall, Nat.shiftRight_eq_div_pow]
  omega

/-- No command is in progress. -/
def State.bnIdle (s : State) : State := { s with trust := { s.trust with run := none, zcmd := none, zreply := none } }

/-- The command closed: RESULT, and BUSY clear. -/
def State.bnClosed (s : State) (r : BnRun) : State := (s.bnIdle.wr .bnResult (bnWord r)).fset F.bnStatus_BUSY 0

/-- The effect of a command on what it has closed over. -/
def State.bnDone (s : State) (r : BnRun) : State :=
  if r.result = 0 then s.bnEffect r else if r.result = 5 then s.zenReplyOut else s

def State.bnFinished (s : State) (r : BnRun) : State := ((s.bnClosed r).bnDone r).post 0x0A03 (r.cmd + r.result * 16)

theorem execBnCommandDone_ends {r q : BnRun} (h : s.trust.run = some r) (hz : s.zcmdEnd r = some q) : exec .bnCommandDone s = .next (s.bnFinished q) := by
  show execBnCommandDone s = _
  unfold execBnCommandDone
  rw [h]
  dsimp only
  rw [hz]
  rfl

theorem execBnCommandDone_waits {r : BnRun} (h : s.trust.run = some r) (hz : s.zcmdEnd r = none) : exec .bnCommandDone s = .next s := by
  show execBnCommandDone s = _
  unfold execBnCommandDone
  rw [h]
  dsimp only
  rw [hz]

/-- What a closed command leaves. -/
structure BnClosed (s u : State) (r : BnRun) : Prop where
  run : u.trust.run = none
  word : u.rd .bnResult = bnWord r
  busy : u.flag F.bnStatus_BUSY = false
  only : OnlyRegs [.bnResult, .bnStatus] s u
  boot : u.boot = s.boot
  zen : u.zen = s.zen
  owner : u.trust.newOwner = s.trust.newOwner
  cirrus : u.cirrus = s.cirrus

theorem State.bnClosed_spec (r : BnRun) : BnClosed s (s.bnClosed r) r := by
  have hidle : OnlyRegs [.bnResult, .bnStatus] s s.bnIdle := OnlyRegs.refl _ s
  refine ⟨rfl, ?_, flag_fset_none _ F.bnStatus_BUSY 0 0 rfl (by decide),
    (hidle.wr _ 0 0 List.mem_cons_self).fset (f := F.bnStatus_BUSY) 0 0 0 (by decide), rfl, rfl, rfl, rfl⟩
  exact (rd_fset_reg _ _ _ _ _ _ (by decide)).trans (rd_wr_same _ _ _ _ _)

theorem BnClosed.result {u : State} {r : BnRun} (h : BnClosed s u r) (hr : r.result < 16) : u.fget F.bnResult_RESULT = r.result :=
  (congrArg (fun w : Word => bits w.toNat 3 0) h.word).trans (bnWord_result hr)

theorem BnClosed.reason {u : State} {r : BnRun} (h : BnClosed s u r) (hr : r.result < 16) (hw : r.reason < 256) : u.fget F.bnResult_ZEN_REASON = r.reason :=
  (congrArg (fun w : Word => bits w.toNat 11 4) h.word).trans (bnWord_reason hr hw)

/-! ## Outputs -/

/-- An effect that leaves RESULT and ZEN_REASON, BUSY, and the registers outside a list. -/
structure BnShows (l : List RName) (s u : State) : Prop where
  low : ∀ f : Fld, f.reg = .bnResult → f.hi < 16 → u.fget f = s.fget f
  only : OnlyRegs l s u
  trust : u.trust = s.trust
  zen : u.zen = s.zen

theorem BnShows.busy {l : List RName} {s u : State} (h : BnShows l s u) (hn : .bnStatus ∉ l) : u.flag F.bnStatus_BUSY = s.flag F.bnStatus_BUSY :=
  flag_of_rd F.bnStatus_BUSY (h.only _ 0 0 hn)

/-- An output's words. -/
def State.outWords (s : State) (bs : List Byte) : State :=
  forN (ceilDiv bs.length 4) (fun j s => s.wr .outBuf (BitVec.ofNat 32 (leNat (bytesAt bs (4 * j) 4))) j) s

theorem State.setOut_eq (bs : List Byte) : s.setOut bs = (s.outWords bs).fset F.bnResult_OUT_LEN bs.length := rfl

theorem State.outWords_rd (bs : List Byte) {n : RName} (i j : Nat) (h : n ≠ .outBuf) : (s.outWords bs).rd n i j = s.rd n i j :=
  forN_keeps_view (fun u : State => u.rd n i j) fun _ u => rd_wr_reg u _ _ _ _ _ h

theorem fset_trust (f : Fld) (v i j : Nat) : (s.fset f v i j).trust = s.trust := rfl

theorem fset_zen (f : Fld) (v i j : Nat) : (s.fset f v i j).zen = s.zen := rfl

/-- OUT_LEN over a state that differs in OUT_BUF alone. -/
theorem outLen_only {s a : State} (h : ∀ n i j, n ≠ .outBuf → a.rd n i j = s.rd n i j) (len : Nat) :
    OnlyRegs [.bnResult, .outBuf] s (a.fset F.bnResult_OUT_LEN len) := fun n i j hn =>
  (rd_fset_reg a (f := F.bnResult_OUT_LEN) len 0 0 i j fun e => hn (by rw [e]; exact List.mem_cons_self)).trans
    (h n i j fun e => hn (e ▸ List.mem_cons_of_mem _ List.mem_cons_self))

theorem outLen_shows {s a : State} (h : ∀ n i j, n ≠ .outBuf → a.rd n i j = s.rd n i j) (ht : a.trust = s.trust) (hz : a.zen = s.zen) (len : Nat) :
    BnShows [.bnResult, .outBuf] s (a.fset F.bnResult_OUT_LEN len) := by
  refine ⟨fun f hf hlt => ?_, outLen_only h len, (fset_trust a _ _ _ _).trans ht, (fset_zen a _ _ _ _).trans hz⟩
  have hoff := fget_fset_off a (f := F.bnResult_OUT_LEN) (g := f) len 0 0 0 0 (by decide) (by decide) fun _ => .inr hlt
  exact hoff.trans (fget_of_rd f (h _ 0 0 (by rw [hf]; decide)))

theorem State.outWords_parts (bs : List Byte) : (s.outWords bs).trust = s.trust ∧ (s.outWords bs).zen = s.zen :=
  ⟨forN_keeps_view State.trust fun _ _ => rfl, forN_keeps_view State.zen fun _ _ => rfl⟩

theorem State.setOut_shows (bs : List Byte) : BnShows [.bnResult, .outBuf] s (s.setOut bs) :=
  outLen_shows (fun _ i j h => s.outWords_rd bs i j h) (s.outWords_parts bs).1 (s.outWords_parts bs).2 bs.length

theorem State.setOut_len (bs : List Byte) : (s.setOut bs).fget F.bnResult_OUT_LEN = bs.length % 4096 :=
  fget_fset_same _ F.bnResult_OUT_LEN _ 0 0 (by decide) (by decide)

theorem State.setOut_word {bs : List Byte} {j : Nat} (hl : bs.length ≤ 4096) (h : 4 * j < bs.length) :
    (s.setOut bs).rd .outBuf j = BitVec.ofNat 32 (leNat (bytesAt bs (4 * j) 4)) := by
  have hc : ceilDiv bs.length 4 ≤ 65536 ∧ j < ceilDiv bs.length 4 := by
    unfold ceilDiv
    omega
  rw [s.setOut_eq]
  exact (rd_fset_reg _ _ _ _ _ _ (by decide)).trans (rd_forN_wr_inst s .outBuf _ hc.1 hc.2)

/-- A word of Zenith's reply, drawn. -/
def State.replyWord (s : State) (j : Nat) : State := s.draw.2.wr .outBuf (s.draw.1.setWidth 32) j

/-- All words of Zenith's reply. -/
def State.replyWords (s : State) : State := forN 1024 (fun j s => s.replyWord j) s

theorem State.zenReplyOut_eq : s.zenReplyOut = s.draw.2.replyWords.fset F.bnResult_OUT_LEN s.draw.1.toNat := rfl

theorem State.replyWords_rd {n : RName} (i j : Nat) (h : n ≠ .outBuf) : s.replyWords.rd n i j = s.rd n i j :=
  forN_keeps_view (fun u : State => u.rd n i j) fun _ u => rd_wr_reg u.draw.2 _ _ _ _ _ h

theorem State.replyWords_parts : s.replyWords.trust = s.trust ∧ s.replyWords.zen = s.zen :=
  ⟨forN_keeps_view State.trust fun _ _ => rfl, forN_keeps_view State.zen fun _ _ => rfl⟩

theorem State.zenReplyOut_shows : BnShows [.bnResult, .outBuf] s s.zenReplyOut := by
  obtain ⟨ht, hz⟩ := s.draw.2.replyWords_parts
  have hrd : ∀ n i j, n ≠ .outBuf → s.draw.2.replyWords.rd n i j = s.rd n i j := fun _ i j h => s.draw.2.replyWords_rd i j h
  exact outLen_shows hrd ht hz s.draw.1.toNat

/-! ## Effects -/

theorem State.setMeas_word (m : Nat) (v : List Byte) {j : Nat} (hj : j < 8) :
    (s.setMeas m v).rd .bnMeas m j = BitVec.ofNat 32 (leNat (bytesAt v (4 * j) 4)) :=
  rd_forN_wr s .bnMeas _ m (by decide) hj

theorem State.setMeas_other {m m' : Nat} (v : List Byte) (j : Nat) (hm : m < 65536) (hm' : m' < 65536) (h : m' ≠ m) :
    (s.setMeas m v).rd .bnMeas m' j = s.rd .bnMeas m' j :=
  forN_keeps_view (fun u : State => u.rd .bnMeas m' j) fun _ u => rd_wr_key u _ fun e => h (by have := (regKey_inj e).2.1; omega)

theorem State.setMeas_shows (m : Nat) (v : List Byte) : BnShows [.bnMeas] s (s.setMeas m v) := by
  have hk : Keeps { Touch.onRegs [.bnMeas] with trust := false, zen := false } s (s.setMeas m v) := State.setMeas_keeps (.rfl' _ s) m v
  have hrd : ∀ n i j, n ∉ [RName.bnMeas] → (s.setMeas m v).rd n i j = s.rd n i j := fun n i j hn => hk.rd n i j (Touch.onRegs_has hn)
  exact ⟨fun f hf _ => fget_of_rd f (hrd _ 0 0 (by rw [hf]; decide)), hrd, hk.trust rfl, hk.zen rfl⟩

/-! ### An increment's fuses (R486, R542) -/

theorem State.setArb_of (cls v : Nat) {c : Nat} (hcls : cls < 3) (hv : v < 256) : (s.setArb cls v).arbOf c = if c = cls then v else s.arbOf c := by
  have hword : (BitVec.ofNat 32 (setBits (s.rd .arbCtr).toNat (8 * cls + 7) (8 * cls) v)).toNat = setBits (s.rd .arbCtr).toNat (8 * cls + 7) (8 * cls) v := by
    rw [BitVec.toNat_ofNat]
    exact Nat.mod_eq_of_lt (setBits_lt _ _ _ _ _ (by omega) (by omega) (s.rd .arbCtr).isLt)
  unfold State.arbOf State.setArb
  rw [rd_wr_same, hword]
  by_cases h : c = cls
  · subst h
    rw [if_pos rfl, bits_setBits_same _ _ _ _ (by omega), show 8 * c + 7 + 1 - 8 * c = 8 by omega]
    exact Nat.mod_eq_of_lt hv
  · rw [if_neg h, bits_setBits_apart _ _ _ _ _ _ (by omega) (by omega)]

theorem State.arbOf_lt (c : Nat) : s.arbOf c < 256 := by
  unfold State.arbOf bits
  rw [show 8 * c + 7 + 1 - 8 * c = 8 by omega]
  exact Nat.mod_lt _ (by decide)

theorem State.arbBlow_one {cls v : Nat} (h : s.boot.journal = [.arb cls v]) :
    s.arbBlow = { s.setArb cls (max v (s.arbOf cls)) with boot := { (s.setArb cls (max v (s.arbOf cls))).boot with journal := [] } } := by
  unfold State.arbBlow
  rw [h]
  rfl

theorem State.arbBlow_spec {cls v : Nat} (hcls : cls < 3) (hv : v < 256) (h : s.boot.journal = [.arb cls v]) : s.arbBlow.boot.journal = [] ∧
    s.arbBlow.arbOf cls = max v (s.arbOf cls) ∧ (∀ c, c < 3 → c ≠ cls → s.arbBlow.arbOf c = s.arbOf c) ∧ BnShows [.arbCtr] s s.arbBlow := by
  have hmax : max v (s.arbOf cls) < 256 := max_lt hv (s.arbOf_lt cls)
  have hof : ∀ c, s.arbBlow.arbOf c = (s.setArb cls (max v (s.arbOf cls))).arbOf c := fun c => by
    rw [s.arbBlow_one h]
    rfl
  have hk : Keeps { Touch.onRegs [.arbCtr] with trust := false, zen := false } s s.arbBlow := State.arbBlow_keeps (.rfl' _ s)
  have hrd : ∀ n i j, n ∉ [RName.arbCtr] → s.arbBlow.rd n i j = s.rd n i j := fun n i j hn => hk.rd n i j (Touch.onRegs_has hn)
  refine ⟨?_, ?_, fun c hlt hne => ?_, fun f hf _ => fget_of_rd f (hrd _ 0 0 (by rw [hf]; decide)), hrd, hk.trust rfl, hk.zen rfl⟩
  · rw [s.arbBlow_one h]
  · rw [hof cls, s.setArb_of _ _ hcls hmax, if_pos rfl]
  · rw [hof c, s.setArb_of _ _ hcls hmax, if_neg hne]

/-! ### A new owner (R541) -/

/-- The customer image's staging and load given up. -/
def State.custDropped (s : State) : State :=
  ({ s with cirrus := { s.cirrus with stagedCust := none, load := s.cirrus.load.map (fun l => match l.img with
    | some x => if x.base then l else ⟨1, none⟩
    | none => l) } } : State).fset F.imgStatus_STAGED_CUST 0

/-- What stays of a staged customer image. -/
def State.noCust (s : State) : Prop := s.cirrus.stagedCust = none ∧ s.flag F.imgStatus_STAGED_CUST = false

theorem State.custDropped_noCust : s.custDropped.noCust := ⟨rfl, flag_fset_none _ F.imgStatus_STAGED_CUST 0 0 rfl (by decide)⟩

variable {s}

/-- The flag of a staged customer image stays where CUST_ACTIVE, BUSY or ARMED is written. -/
theorem State.stagedCust_flag_fset (s : State) (f : Fld) (v : Nat) (hw : f.lo ≤ f.hi) (hw' : f.hi < 32) (h : f.hi < 5 ∨ 5 < f.lo) :
    (s.fset f v).flag F.imgStatus_STAGED_CUST = s.flag F.imgStatus_STAGED_CUST :=
  flag_fset_off _ _ _ _ _ _ hw hw' fun _ => h

/-- The customer image gone, all but its measurement. -/
def State.custBare (s : State) : State :=
  ((({ s with cirrus := { s.cirrus with
      entry := s.cirrus.entry.filter (fun e => !inCust e.1)
      callable := s.cirrus.callable.filter (fun e => !inCust e.1)
      dtab := s.cirrus.dtab.filter (fun e => decide (e.1 < 2048))
      kprof := s.cirrus.kprof.filter (fun e => decide (e.1 < 32))
      custDigest := [] } } : State).fset F.imgStatus_CUST_ACTIVE 0).wr .custImageId 0).wr .imgSvn (s.rd .imgSvn &&& 0xFF#32)

theorem State.noCust.custBare (h : s.noCust) : s.custBare.noCust := by
  refine ⟨h.1, ?_⟩
  unfold State.custBare
  rw [flag_of_rd F.imgStatus_STAGED_CUST (rd_wr_reg _ _ _ _ _ _ (by decide)), flag_of_rd F.imgStatus_STAGED_CUST (rd_wr_reg _ _ _ _ _ _ (by decide)),
    State.stagedCust_flag_fset _ _ _ (by decide) (by decide) (by decide)]
  exact h.2

theorem State.noCust.setMeas (h : s.noCust) (m : Nat) (v : List Byte) : (s.setMeas m v).noCust := by
  have hk : Keeps { Touch.onRegs [.bnMeas] with cirrus := false } s (s.setMeas m v) := State.setMeas_keeps (.rfl' _ s) m v
  exact ⟨(congrArg CirrusSt.stagedCust (hk.cirrus rfl)).trans h.1, (flag_of_rd F.imgStatus_STAGED_CUST (hk.rd _ 0 0 rfl)).trans h.2⟩

theorem State.noCust.custClear (h : s.noCust) : s.custClear.noCust := h.custBare.setMeas 2 (List.replicate 32 0)

theorem State.noCust.reloadTile (h : s.noCust) (base : Bool) (t : Nat) : (s.reloadTile base t).noCust :=
  ⟨(congrArg CirrusSt.stagedCust (s.reloadTile_store base t)).trans h.1,
    (flag_of_rd F.imgStatus_STAGED_CUST (s.reloadTile_onlyRegs base t _ _ _ (by decide))).trans h.2⟩

theorem State.noCust.actStart (h : s.noCust) (base off : Bool) : (s.actStart base off).noCust := by
  have hnoted : (s.actNoted base off).noCust := by
    refine ⟨h.1, ?_⟩
    unfold State.actNoted
    rw [State.stagedCust_flag_fset _ _ _ (by decide) (by decide) (by decide), State.stagedCust_flag_fset _ _ _ (by decide) (by decide) (by decide)]
    exact h.2
  rw [State.actStart_eq]
  exact State.each_ind (P := State.noCust) hnoted fun t u hu => hu.reloadTile base t

variable (s)

theorem State.dropCustomer_noCust : s.dropCustomer.noCust := by
  have hdrop := s.custDropped_noCust
  have heq : s.dropCustomer = match s.cirrus.act with
      | some (true, _) => s.custDropped.custClear
      | some (false, _) => { s.custDropped with cirrus := { s.custDropped.cirrus with act := some (false, true) } }
      | none => if s.custDropped.flag F.imgStatus_CUST_ACTIVE then s.custDropped.actStart false true else s.custDropped := rfl
  rw [heq]
  cases s.cirrus.act with
  | some a =>
    obtain ⟨base, off⟩ := a
    cases base with
    | true => exact hdrop.custClear
    | false => exact ⟨hdrop.1, hdrop.2⟩
  | none =>
    dsimp only
    split
    · exact hdrop.actStart false true
    · exact hdrop

/-- The owner of the slot enrolled last, before its predecessor's image is dropped. -/
def State.ownerTaken (s : State) : State :=
  ({ s with trust := { s.trust with owner := s.trust.newOwner, newOwner := [], active := some (s.trust.slots.length - 1) } } : State).fset F.ownerStatus_ENROLLED 1

theorem State.ownerActive_spec : s.ownerActive.noCust ∧ s.ownerActive.flag F.ownerStatus_ENROLLED = true ∧
    s.ownerActive.trust.owner = s.trust.newOwner ∧ s.ownerActive.rd .bnResult = s.rd .bnResult := by
  have heq : s.ownerActive = s.ownerTaken.dropCustomer := rfl
  obtain ⟨a, ha⟩ : ∃ a : State, a = s.ownerTaken := ⟨_, rfl⟩
  have hk : Keeps { Touch.avoid [.ownerStatus, .bnResult] with trust := false } a a.dropCustomer := State.dropCustomer_keeps (.rfl' _ a)
  rw [heq, ← ha]
  refine ⟨a.dropCustomer_noCust, ?_, ?_, ?_⟩
  · rw [flag_of_rd F.ownerStatus_ENROLLED (hk.rd _ 0 0 rfl), ha]
    exact flag_fset_one _ F.ownerStatus_ENROLLED 0 0 rfl (by decide)
  · rw [hk.trust rfl, ha]
    rfl
  · rw [hk.rd _ 0 0 rfl, ha]
    exact rd_fset_reg _ _ _ _ _ _ (by decide)

/-! ## The end -/

theorem zcmdEnd_other {r : BnRun} (h : r.cmd ≠ 7 ∨ r.result ≠ 0) : s.zcmdEnd r = some r := if_pos h

theorem zcmdEnd_zcmd {r : BnRun} (hc : r.cmd = 7) (hr : r.result = 0) : s.zcmdEnd r = if s.zenPort = false then some { r with result := 6 }
    else match s.trust.zreply with
      | none => none
      | some 0 => some r
      | some why => some { r with result := 5, reason := why } := if_neg (by rw [hc, hr]; decide)

/-- What the end of a command shows besides its effect. -/
structure BnEnd (l : List RName) (s u : State) (r : BnRun) : Prop where
  result : u.fget F.bnResult_RESULT = r.result
  reason : r.reason < 256 → u.fget F.bnResult_ZEN_REASON = r.reason
  busy : u.flag F.bnStatus_BUSY = false
  run : u.trust.run = none
  zen : u.zen = s.zen
  only : OnlyRegs l s u

/-- An event's posting over a state. -/
theorem post_only {l : List RName} {s a : State} (h : OnlyRegs l s a) (x y : Nat) : OnlyRegs l s (a.post x y) := fun n i j hn =>
  (a.post_rd x y n i j).trans (h n i j hn)

theorem post_trust_zen_boot (x y : Nat) : (s.post x y).trust = s.trust ∧ (s.post x y).zen = s.zen ∧ (s.post x y).boot = s.boot ∧
    (s.post x y).cirrus = s.cirrus := by
  have hk : Keeps { Touch.all with trust := false, zen := false, boot := false, cirrus := false } s (s.post x y) := State.post_keeps (.rfl' _ s) x y
  exact ⟨hk.trust rfl, hk.zen rfl, hk.boot rfl, hk.cirrus rfl⟩

theorem bnEnd_of {l l' : List RName} {r : BnRun} {a : State} (hr : r.result < 16) (h : BnShows l (s.bnClosed r) a) (hst : .bnStatus ∉ l)
    (hl : ∀ n, n ∈ l → n ∈ l') (hres : .bnResult ∈ l') (hstat : .bnStatus ∈ l') (x y : Nat) : BnEnd l' s (a.post x y) r := by
  obtain ⟨ht, hz, _, _⟩ := post_trust_zen_boot a x y
  have hc := s.bnClosed_spec r
  refine ⟨?_, fun hw => ?_, ?_, ?_, ?_, post_only (fun n i j hn => ?_) x y⟩
  · rw [State.post_fget, h.low F.bnResult_RESULT rfl (by decide)]
    exact hc.result s hr
  · rw [State.post_fget, h.low F.bnResult_ZEN_REASON rfl (by decide)]
    exact hc.reason s hr hw
  · rw [flag_of_rd F.bnStatus_BUSY (a.post_rd x y _ _ _), h.busy hst]
    exact hc.busy
  · rw [ht, h.trust]
    exact hc.run
  · rw [hz, h.zen]
    exact hc.zen
  · rw [h.only n i j fun e => hn (hl n e)]
    refine hc.only n i j fun e => hn ?_
    obtain rfl | e := List.mem_cons.mp e
    · exact hres
    · rw [List.mem_singleton.mp e]
      exact hstat

theorem BnShows.refl : BnShows [] s s := ⟨fun _ _ _ => rfl, OnlyRegs.refl _ s, rfl, rfl⟩

theorem bnDone_ok {r : BnRun} (a : State) (h : r.result = 0) : a.bnDone r = a.bnEffect r := if_pos h

theorem bnDone_reply {r : BnRun} (a : State) (h : r.result = 5) : a.bnDone r = a.zenReplyOut := by
  unfold State.bnDone
  rw [h]
  rfl

theorem bnDone_none {r : BnRun} (a : State) (h : r.result ≠ 0) (h5 : r.result ≠ 5) : a.bnDone r = a := by
  unfold State.bnDone
  rw [if_neg h, if_neg h5]

theorem bnEffect_out {r : BnRun} (a : State) (h : r.cmd = 1 ∨ r.cmd = 5 ∨ r.cmd = 6) : a.bnEffect r = a.setOut r.out := by
  obtain h | h | h := h <;> (unfold State.bnEffect; rw [h]; rfl)

/-- A command that ends with Zenith's reply. -/
theorem bnFinished_reply {r : BnRun} (hr : r.result < 16) (hdone : ∀ a : State, a.bnDone r = a.zenReplyOut) :
    BnEnd [.bnResult, .bnStatus, .outBuf] s (s.bnFinished r) r := by
  unfold State.bnFinished
  rw [hdone]
  exact bnEnd_of s hr (s.bnClosed r).zenReplyOut_shows (by decide) (fun n hn => by simp at hn ⊢; tauto) (by decide) (by decide) _ _

/-- A command that ends without an effect. -/
theorem bnFinished_none {r : BnRun} (hr : r.result < 16) (h : r.result ≠ 0) (h5 : r.result ≠ 5) :
    BnEnd [.bnResult, .bnStatus] s (s.bnFinished r) r ∧ (s.bnFinished r).boot = s.boot := by
  unfold State.bnFinished
  rw [bnDone_none _ h h5]
  exact ⟨bnEnd_of s hr (BnShows.refl _) (by decide) (fun n hn => by cases hn) (by decide) (by decide) _ _,
    (post_trust_zen_boot _ _ _).2.2.1.trans (s.bnClosed_spec r).boot⟩

theorem bnEnds_failed {r : BnRun} (h : s.trust.run = some r) (hr : r.result < 16) (hne : r.result ≠ 0) : ∃ u, exec .bnCommandDone s = .next u ∧
    u.trust.run = none ∧ u.flag F.bnStatus_BUSY = false ∧ u.fget F.bnResult_RESULT = r.result ∧
    (r.result ≠ 5 → OnlyRegs [.bnResult, .bnStatus] s u ∧ u.boot = s.boot) := by
  refine ⟨_, execBnCommandDone_ends s h (zcmdEnd_other s (.inr hne)), ?_⟩
  by_cases h5 : r.result = 5
  · have hend := bnFinished_reply s hr fun a => bnDone_reply a h5
    exact ⟨hend.run, hend.busy, hend.result, fun hc => absurd h5 hc⟩
  · obtain ⟨hend, hboot⟩ := bnFinished_none s hr hne h5
    exact ⟨hend.run, hend.busy, hend.result, fun _ => ⟨hend.only, hboot⟩⟩

theorem bnEnds_output {r : BnRun} (h : s.trust.run = some r) (h0 : r.result = 0) (hlen : r.out.length ≤ 4096) (hcmd : r.cmd = 1 ∨ r.cmd = 5 ∨ r.cmd = 6) :
    ∃ u, exec .bnCommandDone s = .next u ∧ u.flag F.bnStatus_BUSY = false ∧
      u.fget F.bnResult_RESULT = 0 ∧ u.fget F.bnResult_OUT_LEN = r.out.length % 4096 ∧
      (∀ j, 4 * j < r.out.length → j < 1024 → u.rd .outBuf j = BitVec.ofNat 32 (leNat (bytesAt r.out (4 * j) 4))) ∧
      OnlyRegs [.bnResult, .bnStatus, .outBuf] s u := by
  refine ⟨_, execBnCommandDone_ends s h (zcmdEnd_other s (.inl (by omega))), ?_⟩
  unfold State.bnFinished
  rw [bnDone_ok _ h0, bnEffect_out _ hcmd]
  have hend : BnEnd [.bnResult, .bnStatus, .outBuf] s (((s.bnClosed r).setOut r.out).post 0x0A03 (r.cmd + r.result * 16)) r :=
    bnEnd_of s (by omega) ((s.bnClosed r).setOut_shows r.out) (by decide) (fun n hn => by simp at hn ⊢; tauto) (by decide) (by decide) _ _
  refine ⟨hend.busy, hend.result.trans h0, ?_, fun j hj _ => ?_, hend.only⟩
  · exact (State.post_fget _ _ _ _ _ _).trans ((s.bnClosed r).setOut_len r.out)
  · exact (State.post_rd _ _ _ _ _ _).trans ((s.bnClosed r).setOut_word hlen hj)

theorem bnEnds_extend {r : BnRun} (h : s.trust.run = some r) (h0 : r.result = 0) (hcmd : r.cmd = 2) : ∃ u, exec .bnCommandDone s = .next u ∧
    u.fget F.bnResult_RESULT = 0 ∧ (∀ j, j < 8 → u.rd .bnMeas 3 j = BitVec.ofNat 32 (leNat (bytesAt r.out (4 * j) 4))) ∧
    (∀ m j, m < 5 → m ≠ 3 → u.rd .bnMeas m j = s.rd .bnMeas m j) ∧ OnlyRegs [.bnResult, .bnStatus, .bnMeas] s u := by
  refine ⟨_, execBnCommandDone_ends s h (zcmdEnd_other s (.inl (by omega))), ?_⟩
  have heff : (s.bnClosed r).bnEffect r = (s.bnClosed r).setMeas 3 r.out := by
    unfold State.bnEffect
    rw [hcmd]
    rfl
  unfold State.bnFinished
  rw [bnDone_ok _ h0, heff]
  have hend : BnEnd [.bnResult, .bnStatus, .bnMeas] s (((s.bnClosed r).setMeas 3 r.out).post 0x0A03 (r.cmd + r.result * 16)) r :=
    bnEnd_of s (by omega) ((s.bnClosed r).setMeas_shows 3 r.out) (by decide) (fun n hn => by simp at hn ⊢; tauto) (by decide) (by decide) _ _
  refine ⟨hend.result.trans h0, fun j hj => ?_, fun m j hm hne => ?_, hend.only⟩
  · exact (State.post_rd _ _ _ _ _ _).trans ((s.bnClosed r).setMeas_word 3 r.out hj)
  · rw [State.post_rd, State.setMeas_other _ r.out j (by omega) (by omega) hne]
    exact (s.bnClosed_spec r).only _ _ _ (by decide)

theorem bnEnds_enroll {r : BnRun} (h : s.trust.run = some r) (h0 : r.result = 0) (hcmd : r.cmd = 3) : ∃ u, exec .bnCommandDone s = .next u ∧
    u.fget F.bnResult_RESULT = 0 ∧ u.flag F.ownerStatus_ENROLLED = true ∧ u.trust.owner = s.trust.newOwner ∧ u.cirrus.stagedCust = none ∧
    u.flag F.imgStatus_STAGED_CUST = false := by
  refine ⟨_, execBnCommandDone_ends s h (zcmdEnd_other s (.inl (by omega))), ?_⟩
  have heff : (s.bnClosed r).bnEffect r = (s.bnClosed r).ownerActive := by
    unfold State.bnEffect
    rw [hcmd]
    rfl
  have hc := s.bnClosed_spec r
  obtain ⟨⟨hst, hflag⟩, henr, how, hres⟩ := (s.bnClosed r).ownerActive_spec
  unfold State.bnFinished
  rw [bnDone_ok _ h0, heff]
  obtain ⟨ht, _, _, hcir⟩ := post_trust_zen_boot (s.bnClosed r).ownerActive 0x0A03 (r.cmd + r.result * 16)
  refine ⟨?_, ?_, ?_, ?_, ?_⟩
  · rw [State.post_fget, fget_of_rd F.bnResult_RESULT hres, hc.result _ (by omega), h0]
  · exact (flag_of_rd F.ownerStatus_ENROLLED (State.post_rd _ _ _ _ _ _)).trans henr
  · rw [ht, how]
    exact hc.owner
  · rw [hcir]
    exact hst
  · exact (flag_of_rd F.imgStatus_STAGED_CUST (State.post_rd _ _ _ _ _ _)).trans hflag

theorem bnEnds_arb {r : BnRun} (h : s.trust.run = some r) (h0 : r.result = 0) (hcmd : r.cmd = 4) {cls v : Nat} (hcls : cls < 3) (hv : v < 256)
    (hj : s.boot.journal = [.arb cls v]) : ∃ u, exec .bnCommandDone s = .next u ∧ u.fget F.bnResult_RESULT = 0 ∧ u.boot.journal = [] ∧
    u.arbOf cls = max v (s.arbOf cls) ∧ (∀ c, c < 3 → c ≠ cls → u.arbOf c = s.arbOf c) ∧ OnlyRegs [.bnResult, .bnStatus, .arbCtr] s u := by
  refine ⟨_, execBnCommandDone_ends s h (zcmdEnd_other s (.inl (by omega))), ?_⟩
  have heff : (s.bnClosed r).bnEffect r = (s.bnClosed r).arbBlow := by
    unfold State.bnEffect
    rw [hcmd]
    rfl
  have hc := s.bnClosed_spec r
  have harb : ∀ c, (s.bnClosed r).arbOf c = s.arbOf c := fun c =>
    congrArg (fun w : Word => bits w.toNat (8 * c + 7) (8 * c)) (hc.only .arbCtr 0 0 (by decide))
  obtain ⟨hjour, hof, hother, hshow⟩ := (s.bnClosed r).arbBlow_spec hcls hv ((congrArg BootSt.journal hc.boot).trans hj)
  unfold State.bnFinished
  rw [bnDone_ok _ h0, heff]
  have hend : BnEnd [.bnResult, .bnStatus, .arbCtr] s ((s.bnClosed r).arbBlow.post 0x0A03 (r.cmd + r.result * 16)) r :=
    bnEnd_of s (by omega) hshow (by decide) (fun n hn => by simp at hn ⊢; tauto) (by decide) (by decide) _ _
  have hpost : ∀ c, ((s.bnClosed r).arbBlow.post 0x0A03 (r.cmd + r.result * 16)).arbOf c = (s.bnClosed r).arbBlow.arbOf c := fun c =>
    congrArg (fun w : Word => bits w.toNat (8 * c + 7) (8 * c)) (State.post_rd _ _ _ .arbCtr 0 0)
  refine ⟨hend.result.trans h0, ?_, ?_, fun c hlt hne => ?_, hend.only⟩
  · rw [(post_trust_zen_boot _ _ _).2.2.1]
    exact hjour
  · rw [hpost, hof, harb]
  · rw [hpost, hother c hlt hne, harb]

theorem bnEnds_zcmd_off {r : BnRun} (h : s.trust.run = some r) (h0 : r.result = 0) (hcmd : r.cmd = 7) (hp : s.zenPort = false) :
    ∃ u, exec .bnCommandDone s = .next u ∧ u.fget F.bnResult_RESULT = 6 := by
  refine ⟨_, execBnCommandDone_ends s h ((zcmdEnd_zcmd s hcmd h0).trans (if_pos hp)), ?_⟩
  exact (bnFinished_none s (r := { r with result := 6 }) (by decide : (6 : Nat) < 16) (by decide : (6 : Nat) ≠ 0) (by decide : (6 : Nat) ≠ 5)).1.result

theorem bnEnds_zcmd {r : BnRun} (h : s.trust.run = some r) (h0 : r.result = 0) (hcmd : r.cmd = 7) {why : Nat} (hp : s.zenPort = true)
    (hz : s.trust.zreply = some why) (hw : why < 256) : ∃ u, exec .bnCommandDone s = .next u ∧
    u.fget F.bnResult_RESULT = (if why = 0 then 0 else 5) ∧ (why ≠ 0 → u.fget F.bnResult_ZEN_REASON = why) ∧ u.zen = s.zen ∧
    OnlyRegs [.bnResult, .bnStatus, .outBuf] s u := by
  have hend := (zcmdEnd_zcmd s hcmd h0).trans (if_neg (by rw [hp]; decide))
  rw [hz] at hend
  cases why with
  | zero =>
    have heff : ∀ a : State, a.bnDone r = a.zenReplyOut := fun a => by
      rw [bnDone_ok a h0]
      unfold State.bnEffect
      rw [hcmd]
      rfl
    have hfin := bnFinished_reply s (by omega) heff
    exact ⟨_, execBnCommandDone_ends s h hend, hfin.result.trans h0, fun hc => absurd rfl hc, hfin.zen, hfin.only⟩
  | succ n =>
    have hfin := bnFinished_reply s (r := { r with result := 5, reason := n + 1 }) (by decide : (5 : Nat) < 16) fun a => bnDone_reply a rfl
    exact ⟨_, execBnCommandDone_ends s h hend, hfin.result, fun _ => hfin.reason hw, hfin.zen, hfin.only⟩

end

theorem bennidanEnds_holds : Claims.BennidanEnds := by
  intro s
  refine ⟨fun h => ?_, fun r h hr => ⟨fun hc h0 hp hz => ?_, bnEnds_failed s h hr, bnEnds_output s h, bnEnds_extend s h, bnEnds_enroll s h,
    fun h0 hc cls v hcls hv hj => bnEnds_arb s h h0 hc hcls hv hj,
    fun h0 hc => ⟨bnEnds_zcmd_off s h h0 hc, fun why hp hz hw => bnEnds_zcmd s h h0 hc hp hz hw⟩⟩⟩
  · show execBnCommandDone s = _
    unfold execBnCommandDone
    rw [h]
  · refine execBnCommandDone_waits s h ((zcmdEnd_zcmd s hc h0).trans ((if_neg (by rw [hp]; decide)).trans ?_))
    rw [hz]

/-- Settles O57: a command is closed before its effect, and each effect leaves RESULT and BUSY as closing set them. -/
theorem bennidanCommands : Obligations.BennidanCommands := ⟨bennidanStarts_holds, bennidanEnds_holds⟩

end Sys2Proof.Machine
end

section
/-!
PROOF. Zenith's counts and intervals (R550 to R554, R560).
-/

set_option Elab.async false
set_option exponentiation.threshold 4096
set_option maxRecDepth 20000

namespace Sys2Proof.Machine

/-! ## Keys, each once -/

theorem nodup_eraseDups_of_length (n : Nat) (l : List Nat) (h : l.length ≤ n) : l.eraseDups.Nodup := by
  induction n generalizing l with
  | zero => rw [List.length_eq_zero_iff.mp (Nat.le_zero.mp h)]; exact List.nodup_nil
  | succ n ih =>
    cases l with
    | nil => exact List.nodup_nil
    | cons a r =>
      rw [List.eraseDups_cons]
      have hlen := List.length_filter_le (fun b => !b == a) r
      refine List.nodup_cons.mpr ⟨fun hm => ?_, ih _ (by rw [List.length_cons] at h; omega)⟩
      simpa using (List.mem_filter.mp (List.mem_eraseDups.mp hm)).2

theorem nodup_eraseDups (l : List Nat) : l.eraseDups.Nodup := nodup_eraseDups_of_length _ l le_rfl

theorem tget_unlisted {α : Type} {t : Tab α} {k : Nat} (d : α) (h : k ∉ t.map (fun e => e.1)) : tget t k d = d := by
  by_contra hne
  exact h (List.mem_map.mpr ⟨_, mem_of_tget_ne hne, rfl⟩)

/-! ## One key of a transmission (R550, R551) -/

/-- What a key's total adds. -/
def ZenSt.tapDelta (z : ZenSt) (totals : Tab Nat) (anew : Bool) (k : Nat) : Nat :=
  if anew then tget totals k 0 else (tget totals k 0 + 2 ^ 48 - tget z.seen k 0) % 2 ^ 48

/-- A key's total taken. -/
def ZenSt.tapKey (totals : Tab Nat) (anew : Bool) (z : ZenSt) (k : Nat) : ZenSt :=
  { z.count k (z.tapDelta totals anew k) with seen := tset (z.count k (z.tapDelta totals anew k)).seen k 0 (tget totals k 0) }

/-- The keys of chiplet `c` that a transmission or Zenith lists. -/
def ZenSt.tapKeys (z : ZenSt) (c : Nat) (totals : Tab Nat) : List Nat :=
  (((totals ++ z.seen).map (fun e => e.1)).filter (fun k => decide (k / 1536 = c))).eraseDups

/-- A transmission's counts taken, before its marks. -/
def ZenSt.tapped (z : ZenSt) (c : Nat) (totals epochs : Tab Nat) : ZenSt :=
  (z.tapKeys c totals).foldl (ZenSt.tapKey totals (decide (tget epochs c 0 ≠ tget z.seenEpoch c 0))) z

/-- The flags after a transmission. -/
def ZenSt.tapFlags (z : ZenSt) (c : Nat) (flags : Nat) : Nat := if decide (25000 ≤ z.zc - tget z.seenTick c 0) then flags ||| 2 else flags

theorem ZenSt.absorb_eq (z : ZenSt) (c : Nat) (totals epochs : Tab Nat) : z.absorb c totals epochs =
    { z.tapped c totals epochs with flags := z.tapFlags c (z.tapped c totals epochs).flags,
                                    seenEpoch := tset (z.tapped c totals epochs).seenEpoch c 0 (tget epochs c 0),
                                    seenTick := tset (z.tapped c totals epochs).seenTick c 0 z.zc } := rfl

/-- Counts added by account and kind, and what stays. -/
structure Counted (z w : ZenSt) (m : Nat → Nat → Nat) : Prop where
  frames : ∀ a, tget w.frames a 0 % 2 ^ 64 = (tget z.frames a 0 + m a 0) % 2 ^ 64
  bytes : ∀ a, tget w.bytes a 0 % 2 ^ 64 = (tget z.bytes a 0 + m a 1) % 2 ^ 64
  bad : ∀ a, tget z.bad a 0 < 2 ^ 32 → tget w.bad a 0 = min (2 ^ 32 - 1) (tget z.bad a 0 + m a 2)
  changed : ∀ a, a ∈ z.changed ∨ m a 0 + m a 1 + m a 2 ≠ 0 → a ∈ w.changed
  frame : w = { z with frames := w.frames, bytes := w.bytes, bad := w.bad, changed := w.changed, seen := w.seen }

theorem Counted.refl (z : ZenSt) : Counted z z fun _ _ => 0 where
  frames := fun _ => rfl
  bytes := fun _ => rfl
  bad := fun a h => by omega
  changed := fun _ h => h.elim id fun h => absurd rfl h
  frame := rfl

theorem Counted.trans {z w x : ZenSt} {m n : Nat → Nat → Nat} (h : Counted z w m) (h' : Counted w x n) : Counted z x fun a k => m a k + n a k where
  frames := fun a => by
    have h1 := h.frames a
    have h2 := h'.frames a
    omega
  bytes := fun a => by
    have h1 := h.bytes a
    have h2 := h'.bytes a
    omega
  bad := fun a hlt => by
    have h1 := h.bad a hlt
    have h2 := h'.bad a (by omega)
    omega
  changed := fun a hor => by
    refine h'.changed a ?_
    by_cases hm : m a 0 + m a 1 + m a 2 = 0
    · exact hor.elim (fun hz => .inl (h.changed a (.inl hz))) fun hne => .inr (by omega)
    · exact .inl (h.changed a (.inr hm))
  frame := by
    rw [h'.frame]
    conv_lhs => rw [h.frame]

theorem mem_changed (l : List Nat) (a : Nat) : a ∈ (if l.contains a then l else l ++ [a]) ∧ ∀ b ∈ l, b ∈ (if l.contains a then l else l ++ [a]) := by
  split
  · next h => exact ⟨List.contains_iff_mem.mp h, fun b hb => hb⟩
  · exact ⟨by simp, fun b hb => List.mem_append_left _ hb⟩

/-- An amount at one account and kind. -/
def amountAt (a0 k0 d a k : Nat) : Nat := if a0 = a ∧ k0 = k then d else 0

theorem amountAt_zero (a0 k0 a k : Nat) : amountAt a0 k0 0 a k = 0 := ite_self 0

theorem amountAt_kind {a0 k0 d a k : Nat} (h : k0 ≠ k) : amountAt a0 k0 d a k = 0 := if_neg fun e => h e.2

theorem amountAt_self (a0 k0 d : Nat) : amountAt a0 k0 d a0 k0 = d := if_pos ⟨rfl, rfl⟩

theorem amountAt_account {a0 k0 d a k : Nat} (h : a ≠ a0) : amountAt a0 k0 d a k = 0 := if_neg fun e => h e.1.symm

theorem tget_tset_wrapped (t : Tab Nat) (a0 k0 d a : Nat) :
    tget (tset t a0 0 ((tget t a0 0 + d) % 2 ^ 64)) a 0 % 2 ^ 64 = (tget t a 0 + amountAt a0 k0 d a k0) % 2 ^ 64 := by
  by_cases h : a = a0
  · rw [h, tget_tset_same, amountAt_self, Nat.mod_mod]
  · rw [tget_tset_ne t _ _ _ h, amountAt_account h, Nat.add_zero]

theorem tget_tset_capped (t : Tab Nat) (a0 k0 d a : Nat) (hlt : tget t a 0 < 2 ^ 32) :
    tget (tset t a0 0 (min (2 ^ 32 - 1) (tget t a0 0 + d))) a 0 = min (2 ^ 32 - 1) (tget t a 0 + amountAt a0 k0 d a k0) := by
  by_cases h : a = a0
  · rw [h, tget_tset_same, amountAt_self]
  · rw [tget_tset_ne t _ _ _ h, amountAt_account h]
    omega

/-- A table that a kind other than its own leaves. -/
theorem tget_wrapped_off (t : Tab Nat) {a0 k0 d a k : Nat} (h : k0 ≠ k) : tget t a 0 % 2 ^ 64 = (tget t a 0 + amountAt a0 k0 d a k) % 2 ^ 64 := by
  rw [amountAt_kind h, Nat.add_zero]

theorem tget_capped_off (t : Tab Nat) {a0 k0 d a k : Nat} (h : k0 ≠ k) (hlt : tget t a 0 < 2 ^ 32) :
    tget t a 0 = min (2 ^ 32 - 1) (tget t a 0 + amountAt a0 k0 d a k) := by
  rw [amountAt_kind h]
  omega

theorem changed_of_amount (l : List Nat) (a0 k0 d a : Nat)
    (h : a ∈ l ∨ amountAt a0 k0 d a 0 + amountAt a0 k0 d a 1 + amountAt a0 k0 d a 2 ≠ 0) : a ∈ (if l.contains a0 then l else l ++ [a0]) := by
  obtain h | h := h
  · exact (mem_changed l a0).2 a h
  · by_cases ha : a = a0
    · exact ha ▸ (mem_changed l a0).1
    · rw [amountAt_account ha, amountAt_account ha, amountAt_account ha] at h
      exact absurd rfl h

theorem ZenSt.count_counted (z : ZenSt) (k d : Nat) (sn : Tab Nat) :
    Counted z { z.count k d with seen := sn } (amountAt (z.acct (k / 3)) (k % 3) d) := by
  by_cases hd : d = 0
  · have hz : z.count k d = z := if_pos hd
    rw [hz, hd]
    have hnone : amountAt (z.acct (k / 3)) (k % 3) 0 = fun _ _ => 0 := funext fun a => funext fun kind => amountAt_zero _ _ a kind
    rw [hnone]
    obtain ⟨hf, hb, hbad, hch, _⟩ := Counted.refl z
    exact ⟨hf, hb, hbad, hch, rfl⟩
  · obtain ⟨a0, ha0⟩ : ∃ a0, a0 = z.acct (k / 3) := ⟨_, rfl⟩
    have hk : k % 3 = 0 ∨ k % 3 = 1 ∨ k % 3 = 2 := by omega
    unfold ZenSt.count
    rw [if_neg hd, ← ha0]
    obtain hk | hk | hk := hk <;> rw [hk]
    · exact ⟨fun a => tget_tset_wrapped _ _ _ _ a, fun _ => tget_wrapped_off _ (by decide), fun _ h => tget_capped_off _ (by decide) h,
        fun a h => changed_of_amount _ _ _ _ a h, rfl⟩
    · exact ⟨fun _ => tget_wrapped_off _ (by decide), fun a => tget_tset_wrapped _ _ _ _ a, fun _ h => tget_capped_off _ (by decide) h,
        fun a h => changed_of_amount _ _ _ _ a h, rfl⟩
    · exact ⟨fun _ => tget_wrapped_off _ (by decide), fun _ => tget_wrapped_off _ (by decide), fun a h => tget_tset_capped _ _ _ _ a h,
        fun a h => changed_of_amount _ _ _ _ a h, rfl⟩

/-- What a list of keys adds, by account and kind. -/
def ZenSt.movedBy (z : ZenSt) (totals : Tab Nat) (anew : Bool) (l : List Nat) (a k : Nat) : Nat :=
  (l.map (fun key => amountAt (z.acct (key / 3)) (key % 3) (z.tapDelta totals anew key) a k)).sum

theorem ZenSt.tapKey_counted (z : ZenSt) (totals : Tab Nat) (anew : Bool) (key : Nat) :
    Counted z (z.tapKey totals anew key) (amountAt (z.acct (key / 3)) (key % 3) (z.tapDelta totals anew key)) := z.count_counted key _ _

theorem ZenSt.count_seen (z : ZenSt) (k d : Nat) : (z.count k d).seen = z.seen := by
  unfold ZenSt.count
  split
  · rfl
  · dsimp only
    split <;> rfl

theorem ZenSt.tapKey_seen (z : ZenSt) (totals : Tab Nat) (anew : Bool) (key k : Nat) :
    tget (z.tapKey totals anew key).seen k 0 = if k = key then tget totals k 0 else tget z.seen k 0 := by
  show tget (tset (z.count key _).seen key 0 (tget totals key 0)) k 0 = _
  rw [ZenSt.count_seen]
  split
  · next h => rw [h, tget_tset_same]
  · next h => rw [tget_tset_ne _ _ _ _ h]

/-- A fold over keys, each once. -/
theorem ZenSt.taps_counted (totals : Tab Nat) (anew : Bool) (l : List Nat) (hnd : l.Nodup) (z : ZenSt) :
    Counted z (l.foldl (ZenSt.tapKey totals anew) z) (z.movedBy totals anew l) ∧
      ∀ k, tget (l.foldl (ZenSt.tapKey totals anew) z).seen k 0 = if k ∈ l then tget totals k 0 else tget z.seen k 0 := by
  induction l generalizing z with
  | nil => exact ⟨Counted.refl z, fun k => rfl⟩
  | cons key r ih =>
    obtain ⟨hnot, hr⟩ := List.nodup_cons.mp hnd
    obtain ⟨hc, hs⟩ := ih hr (z.tapKey totals anew key)
    have hstep := z.tapKey_counted totals anew key
    have hmoved : (z.tapKey totals anew key).movedBy totals anew r = z.movedBy totals anew r := by
      funext a k
      refine congrArg List.sum (List.map_congr_left fun key' hm => ?_)
      have hne : key' ≠ key := fun e => hnot (e ▸ hm)
      have hseen := z.tapKey_seen totals anew key key'
      rw [if_neg hne] at hseen
      have hmap : (z.tapKey totals anew key).map = z.map := by rw [hstep.frame]
      unfold ZenSt.tapDelta ZenSt.acct
      rw [hseen, hmap]
    rw [hmoved] at hc
    refine ⟨hstep.trans hc, fun k => ?_⟩
    rw [List.foldl_cons, hs k, z.tapKey_seen]
    by_cases hk : k = key
    · rw [if_pos hk, ite_self, if_pos (List.mem_cons.mpr (.inl hk))]
    · rw [if_neg hk]
      exact if_congr (by simp [hk]) rfl rfl

/-- The amount that a key of the transmission adds. -/
def keyAmount (s : State) (c a kind key : Nat) : Nat := amountAt (s.zen.acct (key / 3)) (key % 3) (tapDiff s c key) a kind

theorem tapDelta_tapDiff (s : State) (c key : Nat) :
    s.zen.tapDelta s.zen.taps (decide (tget s.zen.epochs c 0 ≠ tget s.zen.seenEpoch c 0)) key = tapDiff s c key := by
  unfold ZenSt.tapDelta tapDiff
  by_cases h : tget s.zen.epochs c 0 = tget s.zen.seenEpoch c 0
  · rw [if_pos h, if_neg (by simp [h])]
  · rw [if_neg h, if_pos (by simp [h])]

theorem mem_tapKeys (z : ZenSt) (c : Nat) (totals : Tab Nat) (k : Nat) :
    k ∈ z.tapKeys c totals ↔ k ∈ (totals ++ z.seen).map (fun e => e.1) ∧ k / 1536 = c := by
  unfold ZenSt.tapKeys
  rw [List.mem_eraseDups, List.mem_filter, decide_eq_true_iff]

theorem tapKeys_nodup (z : ZenSt) (c : Nat) (totals : Tab Nat) : (z.tapKeys c totals).Nodup := nodup_eraseDups _

theorem tapKeys_unlisted {z : ZenSt} {c : Nat} {totals : Tab Nat} {k : Nat} (hc : k / 1536 = c) (h : k ∉ z.tapKeys c totals) :
    tget totals k 0 = 0 ∧ tget z.seen k 0 = 0 := by
  rw [mem_tapKeys, List.map_append, List.mem_append] at h
  exact ⟨tget_unlisted 0 fun hm => h ⟨.inl hm, hc⟩, tget_unlisted 0 fun hm => h ⟨.inr hm, hc⟩⟩

theorem keyAmount_unlisted {s : State} {c a kind k : Nat} (hc : k / 1536 = c) (h : k ∉ s.zen.tapKeys c s.zen.taps) : keyAmount s c a kind k = 0 := by
  obtain ⟨ht, hs⟩ := tapKeys_unlisted hc h
  have hdiff : tapDiff s c k = 0 := by
    unfold tapDiff
    rw [ht, hs]
    exact ite_self 0
  unfold keyAmount
  rw [hdiff, amountAt_zero]

/-- What the pairs of chiplet `c` add to account `a`. -/
def addedTo (s : State) (c a kind : Nat) : Nat :=
  (((List.range 512).filter (fun i => decide (s.zen.acct (512 * c + i) = a))).map (fun i => tapDiff s c (3 * (512 * c + i) + kind))).sum

theorem addedTo_eq_sum (s : State) (c a : Nat) {kind : Nat} (hk : kind < 3) :
    addedTo s c a kind = ∑ i ∈ Finset.range 512, keyAmount s c a kind (3 * (512 * c + i) + kind) := by
  unfold addedTo
  rw [← List.sum_toFinset _ (List.nodup_range.filter _), List.toFinset_filter, List.toFinset_range, Finset.sum_filter]
  refine Finset.sum_congr rfl fun i _ => ?_
  have hdiv : (3 * (512 * c + i) + kind) / 3 = 512 * c + i := by omega
  have hmod : (3 * (512 * c + i) + kind) % 3 = kind := by omega
  unfold keyAmount amountAt
  rw [hdiv, hmod]
  exact if_congr (by simp) rfl rfl

/-- The keys of a transmission add what the pairs of the chiplet add. -/
theorem movedBy_tapKeys (s : State) (c a : Nat) {kind : Nat} (hk : kind < 3) :
    s.zen.movedBy s.zen.taps (decide (tget s.zen.epochs c 0 ≠ tget s.zen.seenEpoch c 0)) (s.zen.tapKeys c s.zen.taps) a kind = addedTo s c a kind := by
  have hsum : s.zen.movedBy s.zen.taps (decide (tget s.zen.epochs c 0 ≠ tget s.zen.seenEpoch c 0)) (s.zen.tapKeys c s.zen.taps) a kind =
      ((s.zen.tapKeys c s.zen.taps).map (keyAmount s c a kind)).sum :=
    congrArg List.sum (List.map_congr_left fun key _ => by rw [tapDelta_tapDiff]; rfl)
  have hsub : (s.zen.tapKeys c s.zen.taps).toFinset ⊆ Finset.Ico (1536 * c) (1536 * c + 1536) := fun k hm => by
    have hc := ((mem_tapKeys _ _ _ _).mp (List.mem_toFinset.mp hm)).2
    rw [Finset.mem_Ico]
    omega
  rw [hsum, ← List.sum_toFinset _ (tapKeys_nodup _ _ _), addedTo_eq_sum s c a hk]
  rw [Finset.sum_subset hsub fun k hm hnot => keyAmount_unlisted (by rw [Finset.mem_Ico] at hm; omega) fun h => hnot (List.mem_toFinset.mpr h)]
  symm
  refine Finset.sum_of_injOn (fun i => 3 * (512 * c + i) + kind) (fun i _ j _ he => by dsimp only at he; omega) (fun i hi => ?_) (fun k hk' hnot => ?_)
    fun i _ => rfl
  · rw [Finset.coe_range, Set.mem_Iio] at hi
    rw [Finset.coe_Ico, Set.mem_Ico]
    dsimp only
    omega
  · rw [Finset.mem_Ico] at hk'
    refine amountAt_kind fun he => hnot ⟨(k - 1536 * c) / 3, ?_, ?_⟩
    · rw [Finset.coe_range, Set.mem_Iio]
      omega
    · dsimp only
      omega

/-- What a transmission leaves of Zenith. -/
structure Absorbed (z w : ZenSt) : Prop where
  frame : w = { z with frames := w.frames, bytes := w.bytes, bad := w.bad, changed := w.changed, seen := w.seen,
                       flags := w.flags, seenEpoch := w.seenEpoch, seenTick := w.seenTick }
  flags : ∀ k, k ≠ 1 → bitAt w.flags k = bitAt z.flags k

theorem Absorbed.refl (z : ZenSt) : Absorbed z z := ⟨rfl, fun _ _ => rfl⟩

theorem Absorbed.trans {z w x : ZenSt} (h : Absorbed z w) (h' : Absorbed w x) : Absorbed z x where
  frame := by
    rw [h'.frame]
    conv_lhs => rw [h.frame]
  flags := fun k hk => (h'.flags k hk).trans (h.flags k hk)

theorem bitAt_or (a b k : Nat) : bitAt (a ||| b) k = (bitAt a k || bitAt b k) := Nat.testBit_or a b k

theorem bitAt_two {k : Nat} (h : k ≠ 1) : bitAt 2 k = false := Nat.testBit_two_pow_of_ne (n := 1) h.symm

theorem bitAt_marked (c : Prop) [Decidable c] (n : Nat) {k : Nat} (h : k ≠ 1) : bitAt (if c then n ||| 2 else n) k = bitAt n k := by
  split
  · rw [bitAt_or, bitAt_two h, Bool.or_false]
  · rfl

theorem ZenSt.tapped_counted (z : ZenSt) (c : Nat) (totals epochs : Tab Nat) :
    Counted z (z.tapped c totals epochs) (z.movedBy totals (decide (tget epochs c 0 ≠ tget z.seenEpoch c 0)) (z.tapKeys c totals)) :=
  (ZenSt.taps_counted totals _ _ (tapKeys_nodup z c totals) z).1

theorem ZenSt.tapped_seen (z : ZenSt) (c : Nat) (totals epochs : Tab Nat) (k : Nat) :
    tget (z.tapped c totals epochs).seen k 0 = if k ∈ z.tapKeys c totals then tget totals k 0 else tget z.seen k 0 :=
  (ZenSt.taps_counted totals _ _ (tapKeys_nodup z c totals) z).2 k

theorem ZenSt.absorb_absorbed (z : ZenSt) (c : Nat) (totals epochs : Tab Nat) : Absorbed z (z.absorb c totals epochs) := by
  have hframe := (z.tapped_counted c totals epochs).frame
  rw [ZenSt.absorb_eq]
  obtain ⟨w, hw⟩ : ∃ w, w = z.tapped c totals epochs := ⟨_, rfl⟩
  rw [← hw] at hframe ⊢
  refine ⟨?_, fun k hk => ?_⟩
  · exact congrArg (fun x : ZenSt => { x with flags := z.tapFlags c w.flags, seenEpoch := tset w.seenEpoch c 0 (tget epochs c 0), seenTick := tset w.seenTick c 0 z.zc }) hframe
  · have hfl : w.flags = z.flags := by rw [hframe]
    exact (bitAt_marked _ _ hk).trans (by rw [hfl])

theorem ZenSt.absorbAll_absorbed (l : List Nat) (totals epochs : Tab Nat) (z : ZenSt) :
    Absorbed z (l.foldl (fun z c => z.absorb c totals epochs) z) := by
  induction l generalizing z with
  | nil => exact Absorbed.refl z
  | cons c r ih => exact (z.absorb_absorbed c totals epochs).trans (ih _)

/-! ## Transmissions -/

section
variable (s : State)

/-- Zenith's clock moved while it is supplied. -/
def State.zenOn (s : State) (cycles : Nat) : State := { s with zen := { s.zen with zc := s.zen.zc + cycles } }

theorem zclkOn_absent {cycles : Nat} (h : s.zen.present = false) : s.zclkOn cycles = s := if_neg (by rw [h]; decide)

theorem zclkOn_present {cycles : Nat} (h : s.zen.present = true) : s.zclkOn cycles = s.zenOn cycles := if_pos h

theorem zenTapTotals_eq (c : Fin 8) (ok : Bool) (cycles : Nat) : exec (.zenTapTotals c ok cycles) s = .next
    (if (s.zclkOn cycles).zen.present && ok && (s.zclkOn cycles).tapUp c && (s.zclkOn cycles).zen.edges.isEmpty then
      (s.zclkOn cycles).setZen ((s.zclkOn cycles).zen.absorb c (s.zclkOn cycles).zen.taps (s.zclkOn cycles).zen.epochs) else s.zclkOn cycles) := rfl

theorem zenTapTotals_absent (c : Fin 8) (ok : Bool) {cycles : Nat} (h : s.zen.present = false) : exec (.zenTapTotals c ok cycles) s = .next s := by
  rw [zenTapTotals_eq, zclkOn_absent s h, if_neg (by rw [h]; simp)]

theorem zenTapTotals_lost (c : Fin 8) (ok : Bool) {cycles : Nat} (h : s.zen.present = true)
    (hno : ok = false ∨ s.tapUp c = false ∨ s.zen.edges ≠ []) : exec (.zenTapTotals c ok cycles) s = .next (s.zenOn cycles) := by
  rw [zenTapTotals_eq, zclkOn_present s h]
  refine congrArg Host.Outcome.next (if_neg ?_)
  have hup : (s.zenOn cycles).tapUp c = s.tapUp c := rfl
  have hed : (s.zenOn cycles).zen.edges = s.zen.edges := rfl
  rw [hup, hed]
  obtain h | h | h := hno
  · simp [h]
  · simp [h]
  · simp [h]

theorem zenTapTotals_taken (c : Fin 8) {cycles : Nat} (h : s.zen.present = true) (hup : s.tapUp c = true) (hed : s.zen.edges = []) :
    exec (.zenTapTotals c true cycles) s = .next (s.setZen ((s.zenOn cycles).zen.absorb c s.zen.taps s.zen.epochs)) := by
  rw [zenTapTotals_eq, zclkOn_present s h]
  refine congrArg Host.Outcome.next (if_pos ?_)
  have hp : (s.zenOn cycles).zen.present = s.zen.present := rfl
  have hup' : (s.zenOn cycles).tapUp c = s.tapUp c := rfl
  have hed' : (s.zenOn cycles).zen.edges = s.zen.edges := rfl
  rw [hp, hup', hed', h, hup, hed]
  rfl

/-- The counts of a transmission that arrives. -/
theorem zenTap_counted (c cycles : Nat) :
    Counted (s.zenOn cycles).zen ((s.zenOn cycles).zen.tapped c s.zen.taps s.zen.epochs)
      ((s.zenOn cycles).zen.movedBy s.zen.taps (decide (tget s.zen.epochs c 0 ≠ tget s.zen.seenEpoch c 0)) (s.zen.tapKeys c s.zen.taps)) :=
  (s.zenOn cycles).zen.tapped_counted c s.zen.taps s.zen.epochs

theorem zenTap_moved (c cycles a : Nat) {kind : Nat} (hk : kind < 3) :
    (s.zenOn cycles).zen.movedBy s.zen.taps (decide (tget s.zen.epochs c 0 ≠ tget s.zen.seenEpoch c 0)) (s.zen.tapKeys c s.zen.taps) a kind =
      addedTo s c a kind := movedBy_tapKeys s c a hk

theorem zenTap_seen (c cycles k : Nat) : tget ((s.zenOn cycles).zen.absorb c s.zen.taps s.zen.epochs).seen k 0 =
    if k / 1536 = c then tget s.zen.taps k 0 else tget s.zen.seen k 0 := by
  refine ((s.zenOn cycles).zen.tapped_seen c s.zen.taps s.zen.epochs k).trans ?_
  show (if k ∈ s.zen.tapKeys c s.zen.taps then tget s.zen.taps k 0 else tget s.zen.seen k 0) = _
  by_cases hk : k / 1536 = c
  · rw [if_pos hk]
    split
    · rfl
    · next hnot => exact (tapKeys_unlisted hk hnot).2.trans (tapKeys_unlisted hk hnot).1.symm
  · rw [if_neg hk, if_neg fun hm => hk ((mem_tapKeys _ _ _ _).mp hm).2]

end

/-- The claim's keys are numbers below 8, whose quotient by 1,536 is 0 in either reading. -/
theorem pairOf_fin : ∀ k c : Fin 8, k / 1536 = c ↔ k.val / 1536 = c.val := by decide

theorem zenithCounting_holds : Claims.ZenithCounting := by
  intro s c cycles
  refine ⟨fun ok h => zenTapTotals_absent s c ok h, fun ok h hno => zenTapTotals_lost s c ok h hno, fun h hup hed => ?_⟩
  have hc := zenTap_counted s c cycles
  have hm := fun a {kind : Nat} (hk : kind < 3) => zenTap_moved s c cycles a hk
  have hfr := ((s.zenOn cycles).zen.absorb_absorbed c s.zen.taps s.zen.epochs).frame
  have hseen := zenTap_seen s c cycles
  refine ⟨_, zenTapTotals_taken s c h hup hed, ?_⟩
  obtain ⟨w, hw⟩ : ∃ w, w = (s.zenOn cycles).zen.absorb c s.zen.taps s.zen.epochs := ⟨_, rfl⟩
  have hwf : w.frames = ((s.zenOn cycles).zen.tapped c s.zen.taps s.zen.epochs).frames := by rw [hw]; rfl
  have hwb : w.bytes = ((s.zenOn cycles).zen.tapped c s.zen.taps s.zen.epochs).bytes := by rw [hw]; rfl
  have hwd : w.bad = ((s.zenOn cycles).zen.tapped c s.zen.taps s.zen.epochs).bad := by rw [hw]; rfl
  have hwc : w.changed = ((s.zenOn cycles).zen.tapped c s.zen.taps s.zen.epochs).changed := by rw [hw]; rfl
  rw [← hw] at hfr hseen ⊢
  have hadd : ∀ a, (tget w.frames a 0 % 2 ^ 64 = (tget s.zen.frames a 0 + addedTo s c a 0) % 2 ^ 64) ∧
      (tget w.bytes a 0 % 2 ^ 64 = (tget s.zen.bytes a 0 + addedTo s c a 1) % 2 ^ 64) ∧
      (tget s.zen.bad a 0 < 2 ^ 32 → tget w.bad a 0 = min (2 ^ 32 - 1) (tget s.zen.bad a 0 + addedTo s c a 2)) ∧
      (addedTo s c a 0 + addedTo s c a 1 + addedTo s c a 2 ≠ 0 → a ∈ w.changed) := fun a => by
    rw [hwf, hwb, hwd, hwc, ← hm a (show 0 < 3 by decide), ← hm a (show 1 < 3 by decide), ← hm a (show 2 < 3 by decide)]
    exact ⟨hc.frames a, hc.bytes a, hc.bad a, fun hne => hc.changed a (.inr hne)⟩
  refine ⟨?_, hadd, fun k hk => (hseen k).trans (if_pos ((pairOf_fin k c).mp hk)),
    fun k hk => (hseen k).trans (if_neg fun e => hk ((pairOf_fin k c).mpr e)), ?_, ?_, ?_, ?_, OnlyRegs.refl _ s,
    OnlyWide.refl _ s, rfl⟩
  · show w.zc = _
    rw [hfr]
    rfl
  · show w.taps = _
    rw [hfr]
    rfl
  · show w.openAt = _
    rw [hfr]
    rfl
  · show w.appends = _
    rw [hfr]
    rfl
  · show w.ckBytes = _
    rw [hfr]
    rfl

/-! ## Intervals (R552, R553) -/

theorem ZenSt.openInterval_flags (z : ZenSt) (ns : Nat) : bitAt (z.openInterval ns).flags 2 = true ↔ z.pendMap ≠ [] := by
  have heq : (z.openInterval ns).flags = if z.pendMap.isEmpty then 0 else 4 := rfl
  rw [heq]
  cases z.pendMap with
  | nil => exact ⟨fun h => absurd h (by decide), fun h => absurd rfl h⟩
  | cons e r => exact ⟨fun _ => by simp, fun _ => show bitAt 4 2 = true by decide⟩

theorem ZenSt.openInterval_map (z : ZenSt) (ns : Nat) (h : z.pendMap = []) : (z.openInterval ns).map = z.map := by
  have heq : (z.openInterval ns).map = z.pendMap.foldl (fun m e => tset m e.1 e.1 e.2) z.map := rfl
  rw [heq, h]
  rfl

/-- The marks that closing adds to the interval's flags. -/
def ZenSt.closeFlags (z : ZenSt) (ns0 t0 ns1 more : Nat) : Nat :=
  z.flags ||| more ||| (if (List.range 8).any (fun c => decide (25000 ≤ z.zc - tget z.seenTick c 0)) then 2 else 0) |||
    (if clockMismatch ns0 ns1 (z.zc - t0) then 8 else 0)

/-- The record of a closed interval. -/
def ZenSt.closeRec (z : ZenSt) (ns0 t0 ns1 more : Nat) : ZRec :=
  { rkind := 0, startNs := ns0, endNs := ns1, ticks := z.zc - t0, entries := z.entries, n := z.changed.length,
    flags := z.closeFlags ns0 t0 ns1 more, mapDigest := z.mapDigest, detail := List.replicate 16 0, bytes := z.bytes, frames := z.frames }

theorem ZenSt.close_eq (z : ZenSt) (ns0 t0 ns1 more : Nat) : z.close ns0 t0 ns1 more = { z with appends := z.appends ++ [z.closeRec ns0 t0 ns1 more] } := rfl

theorem bitAt_ite (c : Bool) (n k : Nat) : bitAt (if c then n else 0) k = (c && bitAt n k) := by
  cases c
  · exact Nat.zero_testBit k
  · exact (Bool.true_and _).symm

theorem ZenSt.closeFlags_bit (z : ZenSt) (ns0 t0 ns1 more k : Nat) (h : k ≠ 1) : bitAt (z.closeFlags ns0 t0 ns1 more) k =
    (bitAt z.flags k || bitAt more k || (clockMismatch ns0 ns1 (z.zc - t0) && bitAt 8 k)) := by
  unfold ZenSt.closeFlags
  rw [bitAt_or, bitAt_or, bitAt_or, bitAt_ite, bitAt_ite, bitAt_two h, Bool.and_false, Bool.or_false]

section
variable (s : State)

theorem zenEdge_eq {cycles : Nat} (h : s.zen.present = true) {e : ZEdge} {rest : List ZEdge} (he : s.zen.edges = e :: rest) :
    exec (.zenEdge cycles) s = .next ((s.zenOn cycles).zenEdge e rest) := by
  show execZenEdge cycles s = _
  unfold execZenEdge
  rw [zclkOn_present s h]
  have hed : (s.zenOn cycles).zen.edges = e :: rest := he
  have hp : (s.zenOn cycles).zen.present = true := h
  dsimp only
  rw [hed]
  dsimp only
  rw [if_pos hp]

theorem zenEdge_none {cycles : Nat} (h : s.zen.present = true) (he : s.zen.edges = []) : exec (.zenEdge cycles) s = .next (s.zenOn cycles) := by
  show execZenEdge cycles s = _
  unfold execZenEdge
  rw [zclkOn_present s h]
  have hed : (s.zenOn cycles).zen.edges = [] := he
  dsimp only
  rw [hed]

theorem zenEdge_absent {cycles : Nat} (h : s.zen.present = false) : exec (.zenEdge cycles) s = .next s := by
  show execZenEdge cycles s = _
  unfold execZenEdge
  rw [zclkOn_absent s h]
  dsimp only
  split
  · rfl
  · rw [if_neg (by rw [h]; decide)]

theorem zenEdgeTimeout_absent {cycles : Nat} (h : s.zen.present = false) : exec (.zenEdgeTimeout cycles) s = .next s := by
  show execZenEdgeTimeout cycles s = _
  unfold execZenEdgeTimeout
  rw [zclkOn_absent s h]
  dsimp only
  split
  · rfl
  · rw [if_pos (.inl h)]

theorem zenEdgeTimeout_none {cycles : Nat} (h : s.zen.present = true) (ho : s.zen.openAt = none) :
    exec (.zenEdgeTimeout cycles) s = .next (s.zenOn cycles) := by
  show execZenEdgeTimeout cycles s = _
  unfold execZenEdgeTimeout
  rw [zclkOn_present s h]
  have hop : (s.zenOn cycles).zen.openAt = none := ho
  dsimp only
  rw [hop]

/-- The open interval's length at a command. -/
def State.zenLen (s : State) (cycles t0 : Nat) : Nat := s.zen.zc + cycles - t0

theorem zenEdgeTimeout_some {cycles ns0 t0 : Nat} (h : s.zen.present = true) (ho : s.zen.openAt = some (ns0, t0)) :
    exec (.zenEdgeTimeout cycles) s = .next (if s.zen.present = false ∨ s.zenLen cycles t0 < bits s.zen.cfg 27 16 * 25000000 then s.zenOn cycles
      else (s.zenOn cycles).setZen (((s.zenOn cycles).zen.close ns0 t0 (ns0 + s.zenLen cycles t0 * 40) 1).openInterval (ns0 + s.zenLen cycles t0 * 40))) := by
  show execZenEdgeTimeout cycles s = _
  unfold execZenEdgeTimeout
  rw [zclkOn_present s h]
  have hop : (s.zenOn cycles).zen.openAt = some (ns0, t0) := ho
  dsimp only
  rw [hop]
  rfl

/-- Zenith with the edge taken from the queue. -/
def State.zenTaken (s : State) (e : ZEdge) (rest : List ZEdge) : ZenSt := { s.zen with edges := rest, lastNs := e.ns }

/-- Zenith with the totals of the edge taken from each chiplet. -/
def State.zenSampled (s : State) (e : ZEdge) (rest : List ZEdge) : ZenSt :=
  ((List.range 8).filter s.tapUp).foldl (fun z c => z.absorb c e.totals e.epochs) (s.zenTaken e rest)

theorem zenSampled_absorbed (e : ZEdge) (rest : List ZEdge) : Absorbed (s.zenTaken e rest) (s.zenSampled e rest) :=
  ZenSt.absorbAll_absorbed _ _ _ _

theorem zenEdge_skip (e : ZEdge) (rest : List ZEdge) (h : e.k % max 1 (bits s.zen.cfg 15 4) ≠ 0) : s.zenEdge e rest = s.setZen (s.zenTaken e rest) := if_pos h

theorem zenEdge_open (e : ZEdge) (rest : List ZEdge) (h : e.k % max 1 (bits s.zen.cfg 15 4) = 0) : s.zenEdge e rest =
    match s.zen.openAt with
    | none => s.setZen ((s.zenSampled e rest).openInterval e.ns)
    | some (ns0, t0) =>
      if s.zen.zc - t0 < 25000000 then s.setZen { s.zenTaken e rest with ignored := ((s.zenTaken e rest).ignored + 1) % 2 ^ 32 }
      else s.setZen (((s.zenSampled e rest).close ns0 t0 e.ns 0).openInterval e.ns) := if_neg fun hne => hne h

/-- What sampling leaves for the interval's record and the next interval. -/
structure Sampled (z w : ZenSt) (e : ZEdge) (rest : List ZEdge) : Prop where
  zc : w.zc = z.zc
  appends : w.appends = z.appends
  edges : w.edges = rest
  map : w.map = z.map
  cfg : w.cfg = z.cfg
  pendMap : w.pendMap = z.pendMap
  pendCfg : w.pendCfg = z.pendCfg
  flags : ∀ k, k ≠ 1 → bitAt w.flags k = bitAt z.flags k

theorem zenSampled_sampled (e : ZEdge) (rest : List ZEdge) : Sampled s.zen (s.zenSampled e rest) e rest := by
  obtain ⟨hframe, hflags⟩ := zenSampled_absorbed s e rest
  obtain ⟨w, hw⟩ : ∃ w, w = s.zenSampled e rest := ⟨_, rfl⟩
  rw [← hw] at hframe hflags ⊢
  constructor
  case flags => exact hflags
  all_goals (rw [hframe]; rfl)

/-- The record of an interval closed by an edge, and what opens after it. -/
theorem zenClosed_spec {w : ZenSt} {e : ZEdge} {rest : List ZEdge} (hw : Sampled s.zen w e rest) (ns0 t0 : Nat) :
    let r := w.closeRec ns0 t0 e.ns 0
    let z := (w.close ns0 t0 e.ns 0).openInterval e.ns
    z.appends = s.zen.appends ++ [r] ∧ r.rkind = 0 ∧ r.startNs = ns0 ∧ r.endNs = e.ns ∧ r.ticks = s.zen.zc - t0 ∧
      bitAt r.flags 0 = bitAt s.zen.flags 0 ∧ bitAt r.flags 2 = bitAt s.zen.flags 2 ∧
      (bitAt s.zen.flags 3 = false → (bitAt r.flags 3 = true ↔
        (((s.zen.zc - t0) * 40 : Nat) : Int) < 1000 * ((((e.ns : Int) - ns0) - ((s.zen.zc - t0) * 40 : Nat)).natAbs : Int))) ∧
      r.bytes = z.bytes ∧ r.frames = z.frames ∧ r.mapDigest = s.zen.mapDigest ∧ z.openAt = some (e.ns, s.zen.zc) ∧ z.changed = [] ∧ z.bad = [] ∧
      z.edges = rest ∧ z.pendMap = [] ∧ z.cfg = s.zen.pendCfg.getD s.zen.cfg ∧ (s.zen.pendMap = [] → z.map = s.zen.map) ∧
      (bitAt z.flags 2 = true ↔ s.zen.pendMap ≠ []) := by
  obtain ⟨hzc, happ, hed, hmap, hcfg, hpm, hpc, hfl⟩ := hw
  have hbit : ∀ k, k ≠ 1 → bitAt (w.closeRec ns0 t0 e.ns 0).flags k =
      (bitAt s.zen.flags k || (clockMismatch ns0 e.ns (s.zen.zc - t0) && bitAt 8 k)) := fun k hk => by
    have hzero : bitAt 0 k = false := Nat.zero_testBit k
    refine (w.closeFlags_bit ns0 t0 e.ns 0 k hk).trans ?_
    rw [hfl k hk, hzero, Bool.or_false, hzc]
  have hmask : bitAt 8 0 = false ∧ bitAt 8 2 = false ∧ bitAt 8 3 = true := by decide
  dsimp only
  refine ⟨congrArg (· ++ [w.closeRec ns0 t0 e.ns 0]) happ, rfl, rfl, rfl, congrArg (· - t0) hzc, ?_, ?_, fun h3 => ?_, rfl, rfl, ?_,
    congrArg (fun n => some (e.ns, n)) hzc, rfl, rfl, hed, rfl, ?_, fun hp => ?_, ?_⟩
  · rw [hbit 0 (by decide), hmask.1, Bool.and_false, Bool.or_false]
  · rw [hbit 2 (by decide), hmask.2.1, Bool.and_false, Bool.or_false]
  · rw [hbit 3 (by decide), h3, hmask.2.2, Bool.and_true, Bool.false_or]
    exact decide_eq_true_iff
  · show w.mapDigest = _
    unfold ZenSt.mapDigest ZenSt.mapBytes ZenSt.acct
    rw [hmap]
  · show w.pendCfg.getD w.cfg = _
    rw [hpc, hcfg]
  · exact ((w.close ns0 t0 e.ns 0).openInterval_map e.ns (hpm.trans hp)).trans hmap
  · exact ((w.close ns0 t0 e.ns 0).openInterval_flags e.ns).trans (by show w.pendMap ≠ [] ↔ _; rw [hpm])

end

theorem zenithIntervals_holds : Claims.ZenithIntervals := by
  intro s cycles
  refine ⟨fun h => ⟨zenEdge_absent s h, zenEdgeTimeout_absent s h⟩, fun h he => zenEdge_none s h he, fun h e rest he => ⟨fun hk => ?_, fun hk => ⟨fun ho => ?_,
    fun ns0 t0 ho => ⟨fun hlt => ?_, fun hge => ?_⟩⟩⟩, fun h ho => zenEdgeTimeout_none s h ho, fun ns0 t0 h ho => ⟨fun hlt => ?_, fun hge => ?_⟩⟩
  · exact ⟨_, (zenEdge_eq s h he).trans (congrArg Host.Outcome.next (zenEdge_skip (s.zenOn cycles) e rest hk)), rfl⟩
  · have hop : (s.zenOn cycles).zen.openAt = none := ho
    have hrun := zenEdge_open (s.zenOn cycles) e rest hk
    rw [hop] at hrun
    have hw := zenSampled_sampled (s.zenOn cycles) e rest
    exact ⟨_, (zenEdge_eq s h he).trans (congrArg Host.Outcome.next hrun), congrArg (fun n => some (e.ns, n)) hw.zc, hw.appends, hw.edges, rfl, rfl⟩
  · have hop : (s.zenOn cycles).zen.openAt = some (ns0, t0) := ho
    have hrun := zenEdge_open (s.zenOn cycles) e rest hk
    rw [hop] at hrun
    exact ⟨_, (zenEdge_eq s h he).trans (congrArg Host.Outcome.next (hrun.trans (if_pos hlt))), rfl⟩
  · have hop : (s.zenOn cycles).zen.openAt = some (ns0, t0) := ho
    have hrun := zenEdge_open (s.zenOn cycles) e rest hk
    rw [hop] at hrun
    exact ⟨_, _, (zenEdge_eq s h he).trans (congrArg Host.Outcome.next (hrun.trans (if_neg (Nat.not_lt.mpr hge)))),
      zenClosed_spec (s.zenOn cycles) (zenSampled_sampled (s.zenOn cycles) e rest) ns0 t0⟩
  · exact (zenEdgeTimeout_some s h ho).trans (congrArg Host.Outcome.next (if_pos (.inr hlt)))
  · have hno : ¬ (s.zen.present = false ∨ s.zenLen cycles t0 < bits s.zen.cfg 27 16 * 25000000) := fun hor =>
      hor.elim (fun hp => by rw [h] at hp; cases hp) (Nat.not_lt.mpr hge)
    refine ⟨_, (s.zenOn cycles).zen.closeRec ns0 t0 (ns0 + s.zenLen cycles t0 * 40) 1,
      (zenEdgeTimeout_some s h ho).trans (congrArg Host.Outcome.next (if_neg hno)), rfl, rfl, rfl, rfl, ?_, rfl⟩
    refine (ZenSt.closeFlags_bit _ ns0 t0 _ 1 0 (by decide)).trans ?_
    have hone : bitAt 1 0 = true := by decide
    rw [hone, Bool.or_true, Bool.true_or]

/-- Settles O58: each key of a transmission is counted once, and an edge closes the interval over the counts sampled with it. -/
theorem zenithCountsAndIntervals : Obligations.ZenithCountsAndIntervals := ⟨zenithCounting_holds, zenithIntervals_holds⟩

end Sys2Proof.Machine
end

section
/-!
PROOF. Zenith's records, tamper and supply (R553, R555, R556).
-/

set_option Elab.async false
set_option exponentiation.threshold 4096
set_option maxRecDepth 20000

namespace Sys2Proof.Machine

/-! ## The bytes of a record (R553) -/

/-- A record's fields with its signature block. -/
def ZRec.fields (r : ZRec) (rseq : Nat) (prev : List Byte) : List (List Byte) :=
  [leBytes 1 4, leBytes 1 r.rkind, leBytes 2 0, leBytes 4 (128 + r.entries.length + sigLen), leBytes 8 rseq, leBytes 8 r.startNs, leBytes 8 r.endNs,
    leBytes 8 r.ticks, leBytes 4 r.n, leBytes 4 r.flags, bytesAt prev 0 32, bytesAt r.mapDigest 0 32, r.detail, r.entries] ++
  sigFields 3 1 Config.zenKey (r.body rseq prev)

/-- A record's bytes. -/
def ZRec.bytesOf (r : ZRec) (rseq : Nat) (prev : List Byte) : List Byte := r.body rseq prev ++ sigMake 3 1 Config.zenKey (r.body rseq prev)

/-- The lengths of a record's fields. -/
def ZRec.lens (r : ZRec) : List Nat := [1, 1, 2, 4, 8, 8, 8, 8, 4, 4, 32, 32, r.detail.length, r.entries.length] ++ sigLens

section
variable (r : ZRec) (rseq : Nat) (prev : List Byte)

theorem ZRec.bytesOf_fields : r.bytesOf rseq prev = (r.fields rseq prev).flatten := by
  unfold ZRec.bytesOf ZRec.fields
  rw [sigMake_fields, List.flatten_append]
  congr 1
  unfold ZRec.body
  simp only [List.flatten_cons, List.flatten_nil, List.append_nil, List.append_assoc]

theorem ZRec.fields_lens : (r.fields rseq prev).map List.length = r.lens := by
  unfold ZRec.fields ZRec.lens
  rw [List.map_append, sigFields_lens]
  simp only [List.map_cons, List.map_nil, leBytes_length, bytesAt_length]

theorem ZRec.bytesOf_length : (r.bytesOf rseq prev).length = 1488 + r.detail.length + r.entries.length := by
  rw [r.bytesOf_fields, List.length_flatten, r.fields_lens]
  unfold ZRec.lens sigLens
  simp only [List.sum_append, List.sum_cons, List.sum_nil]
  omega

theorem ZRec.field (k : Nat) {off n : Nat} {p : List Byte} (hp : (r.fields rseq prev)[k]? = some p) (hoff : (r.lens.take k).sum = off)
    (hn : p.length = n) : bytesAt (r.bytesOf rseq prev) off n = p := by
  rw [r.bytesOf_fields]
  exact bytesAt_flatten (r.fields_lens rseq prev) hp hoff hn

theorem ZRec.byte {k v : Nat} (hk : k < 1488) (h : bytesAt (r.bytesOf rseq prev) k 1 = leBytes 1 v) : byteAt (r.bytesOf rseq prev) k = v % 256 := by
  rw [byteAt_eq (by rw [r.bytesOf_length]; omega), h, leNat_leBytes, Nat.pow_one]

theorem ZRec.number (k n : Nat) {off v : Nat} (hp : (r.fields rseq prev)[k]? = some (leBytes n v)) (hoff : (r.lens.take k).sum = off)
    (hv : v < 256 ^ n) : leNat (bytesAt (r.bytesOf rseq prev) off n) = v := by
  rw [r.field rseq prev k hp hoff (leBytes_length n v), leNat_leBytes, Nat.mod_eq_of_lt hv]

/-- The record with DETAIL of 16 bytes. -/
theorem ZRec.tail (hd : r.detail.length = 16) (he : r.entries.length ≤ 98304) : (r.bytesOf rseq prev).length = 1504 + r.entries.length ∧
    leNat (bytesAt (r.bytesOf rseq prev) 4 4) = (r.bytesOf rseq prev).length ∧ bytesAt (r.bytesOf rseq prev) 128 r.entries.length = r.entries ∧
    byteAt (r.bytesOf rseq prev) (128 + r.entries.length + 6) = 3 := by
  have hlen : (r.bytesOf rseq prev).length = 1504 + r.entries.length := by rw [r.bytesOf_length, hd]
  have hoff : (r.lens.take 13).sum = 128 := by
    show [1, 1, 2, 4, 8, 8, 8, 8, 4, 4, 32, 32, r.detail.length].sum = 128
    rw [hd]
    rfl
  have hsig : (r.lens.take 16).sum = 128 + r.entries.length + 6 := by
    show [1, 1, 2, 4, 8, 8, 8, 8, 4, 4, 32, 32, r.detail.length, r.entries.length, 4, 2].sum = _
    rw [hd]
    simp only [List.sum_cons, List.sum_nil]
    omega
  refine ⟨hlen, ?_, r.field rseq prev 13 rfl hoff rfl, ?_⟩
  · have hnum : leNat (bytesAt (r.bytesOf rseq prev) 4 4) = 128 + r.entries.length + sigLen :=
      r.number rseq prev 3 4 rfl rfl (by unfold sigLen; omega)
    rw [hlen, hnum]
    unfold sigLen
    omega
  · have hb : bytesAt (r.bytesOf rseq prev) (128 + r.entries.length + 6) 1 = leBytes 1 3 := r.field rseq prev 16 rfl hsig rfl
    rw [byteAt_eq (by rw [hlen]; omega), hb, leNat_leBytes]
    rfl

end

/-! ## The journal (R555) -/

theorem trimJournal_sum (l : List (Nat × List Byte)) : ((trimJournal l).map (fun e => e.2.length)).sum ≤ 1048576 := by
  induction l with
  | nil => exact Nat.zero_le _
  | cons x rest ih =>
    unfold trimJournal
    split
    · exact ih
    · next h => exact Nat.not_lt.mp h

/-- The newest record stays where it fits. -/
theorem trimJournal_last (l : List (Nat × List Byte)) (x : Nat × List Byte) (h : x.2.length ≤ 1048576) : (trimJournal (l ++ [x])).getLast? = some x := by
  induction l with
  | nil =>
    show (trimJournal [x]).getLast? = _
    unfold trimJournal
    rw [if_neg (by simpa using h)]
    rfl
  | cons y rest ih =>
    show (trimJournal (y :: (rest ++ [x]))).getLast? = _
    unfold trimJournal
    split
    · exact ih
    · exact List.getLast?_concat (l := y :: rest)

/-! ## Tamper (R556) -/

/-- A detail's first byte. -/
theorem byteAt_detail {bs rest : List Byte} {op : Nat} (h : bs = leBytes 1 op ++ rest) (hlen : bs.length = 16) : byteAt (bytesAt bs 0 16) 0 = op % 256 := by
  rw [bytesAt_self hlen, byteAt_eq (by omega), h, bytesAt_append rest (leBytes_length 1 op), leNat_leBytes, Nat.pow_one]

theorem State.lastRseq_eq (s : State) : ∃ n f, s.lastRseq = (n, { s with free := f }) := by
  unfold State.lastRseq
  dsimp only
  split
  · exact ⟨_, _, rfl⟩
  · exact ⟨_, _, rfl⟩

/-- A record without entries. -/
def ZenSt.noteRec (z : ZenSt) (rkind : Nat) (detail : List Byte) : ZRec :=
  { rkind := rkind, startNs := z.lastNs, endNs := z.lastNs, ticks := 0, entries := [], n := 0, flags := 0,
    mapDigest := z.mapDigest, detail := bytesAt detail 0 16, bytes := z.bytes, frames := z.frames }

theorem ZenSt.note_eq (z : ZenSt) (rkind : Nat) (detail : List Byte) : z.note rkind detail = { z with appends := z.appends ++ [z.noteRec rkind detail] } := rfl

/-- Zenith after a tamper event. -/
def ZenSt.tampered (z : ZenSt) (cause n : Nat) : ZenSt :=
  { z.note 1 (leBytes 1 cause ++ leBytes 7 0 ++ leBytes 8 n) with tamper := true, lastTamper := cause }

theorem State.report_zen (s : State) (a b c : Nat) : (s.report a b c).zen = s.zen :=
  (State.report_keeps (.rfl' { Touch.all with zen := false } s) a b c).zen rfl

theorem State.post_zen (s : State) (a b : Nat) : (s.post a b).zen = s.zen := (post_trust_zen_boot s a b).2.1

theorem State.tamperEvent_zen (s : State) (cause : Nat) : ∃ n v, s.tamperEvent cause = (State.report v srcZenith 0x38 cause).post 0x0A01 cause ∧
    v.zen = s.zen.tampered cause n ∧ v.squall = s.squall := by
  obtain ⟨n, f, hn⟩ := s.lastRseq_eq
  refine ⟨n, ({ s with free := f } : State).setZen (s.zen.tampered cause n), ?_, rfl, rfl⟩
  unfold State.tamperEvent
  rw [hn]
  rfl

/-- The record of a tamper event. -/
theorem State.tamperEvent_spec (s : State) (cause : Nat) : ∃ r, r.rkind = 1 ∧ byteAt r.detail 0 = cause % 256 ∧
    (s.tamperEvent cause).zen = { s.zen with appends := s.zen.appends ++ [r], tamper := true, lastTamper := cause } ∧
    (s.inFlight srcZenith < 4 → ∃ m, (s.tamperEvent cause).squall.flight = s.squall.flight ++ [m] ∧ m.source = srcZenith ∧ m.kind = 0x38 ∧
      m.addr = cause % 2 ^ 48) := by
  obtain ⟨n, v, hv, hz, hq⟩ := s.tamperEvent_zen cause
  refine ⟨s.zen.noteRec 1 (leBytes 1 cause ++ leBytes 7 0 ++ leBytes 8 n), rfl, ?_, ?_, fun hroom => ?_⟩
  rotate_left
  · rw [hv, State.post_zen, State.report_zen, hz]
    rfl
  · have hroom' : v.inFlight srcZenith < 4 := by
      unfold State.inFlight
      rw [hq]
      exact hroom
    obtain ⟨own, hown⟩ := v.report_sent (src := srcZenith) 0x38 cause hroom'
    rw [hv, State.post_squall, hown, hq]
    exact ⟨_, rfl, rfl, rfl, rfl⟩
  · refine byteAt_detail (rest := leBytes 7 0 ++ leBytes 8 n) (List.append_assoc _ _ _) ?_
    rw [List.length_append, List.length_append, leBytes_length, leBytes_length, leBytes_length]

/-! ## Supply (R555, R556) -/

section
variable (s : State)

theorem zvddLoss_spec (h : s.zen.present = true) : ∃ u, exec .zvddLoss s = .next u ∧ u.zen.present = false ∧ u.zen.lost = true ∧
    u.zen.appends = [] ∧ u.zen.rseq = s.zen.rseq ∧ u.zen.journal = s.zen.journal ∧ u.zen.ckBytes = s.zen.ckBytes ∧ u.zen.taps = s.zen.taps := by
  refine ⟨_, congrArg Host.Outcome.next (if_pos h), ?_⟩
  rw [State.report_zen]
  exact ⟨rfl, rfl, rfl, rfl, rfl, rfl, rfl⟩

/-- Zenith as its checkpoint has it, at power-up. -/
def State.zvddWoken (s : State) (ok : Bool) : State := s.setZen { s.zen with
  present := true, lost := false, selfTest := ok, bytes := s.zen.ckBytes, frames := s.zen.ckFrames, seen := s.zen.taps, seenEpoch := s.zen.epochs
  seenTick := (List.range 8).foldl (fun t c => tset t c 0 s.zen.zc) [] }

/-- A tamper event that happens or not. -/
def State.tamperIf (s : State) (c : Bool) (cause : Nat) : State := if c then s.tamperEvent cause else s

/-- What power-up's events leave: records, the latch and the last cause alone change. -/
structure Latched (z w : ZenSt) (more : List ZRec) (any : Bool) : Prop where
  frame : w = { z with appends := z.appends ++ more, tamper := w.tamper, lastTamper := w.lastTamper }
  tamper : w.tamper = (z.tamper || any)

theorem tamperIf_latched (c : Bool) (cause : Nat) : ∃ more, more.length = b2n c ∧ Latched s.zen (s.tamperIf c cause).zen more c := by
  cases c with
  | false =>
    have happ : s.zen.appends ++ [] = s.zen.appends := List.append_nil _
    refine ⟨[], rfl, ?_, (Bool.or_false _).symm⟩
    rw [happ]
    rfl
  | true =>
    obtain ⟨r, _, _, hz, _⟩ := s.tamperEvent_spec cause
    have hrun : s.tamperIf true cause = s.tamperEvent cause := rfl
    refine ⟨[r], rfl, ?_, ?_⟩
    · rw [hrun, hz]
    · rw [hrun, hz, Bool.or_true]

theorem zvddUp_eq (h : s.zen.present = false) (ok : Bool) : s.zvddUp ok =
    (((s.zvddWoken ok).tamperIf s.zen.lost 1).tamperIf (!ok) 4).setZen
      ((((s.zvddWoken ok).tamperIf s.zen.lost 1).tamperIf (!ok) 4).zen.note 3 (leBytes 4 Config.zenRomVer.toNat)) := by
  unfold State.zvddUp
  rw [if_neg (by rw [h]; decide)]
  cases ok <;> rfl

theorem zvddUp_spec (h : s.zen.present = false) (ok : Bool) : ∃ u r more, exec (.zvddPowerUp ok) s = .next u ∧ u.zen.present = true ∧
    u.zen.lost = false ∧ u.zen.bytes = s.zen.ckBytes ∧ u.zen.frames = s.zen.ckFrames ∧ u.zen.selfTest = ok ∧
    u.zen.appends = s.zen.appends ++ more ++ [r] ∧ r.rkind = 3 ∧ u.zen.tamper = (s.zen.tamper || s.zen.lost || !ok) ∧
    more.length = b2n s.zen.lost + b2n (!ok) := by
  obtain ⟨a, ha⟩ : ∃ a, a = s.zvddWoken ok := ⟨_, rfl⟩
  obtain ⟨m1, hl1, hf1, ht1⟩ := tamperIf_latched a s.zen.lost 1
  obtain ⟨m2, hl2, hf2, ht2⟩ := tamperIf_latched (a.tamperIf s.zen.lost 1) (!ok) 4
  have hrun := zvddUp_eq s h ok
  rw [← ha] at hrun
  obtain ⟨w, hw⟩ : ∃ w, w = ((a.tamperIf s.zen.lost 1).tamperIf (!ok) 4).zen := ⟨_, rfl⟩
  obtain ⟨v, hv⟩ : ∃ v, v = (a.tamperIf s.zen.lost 1).zen := ⟨_, rfl⟩
  rw [← hv] at hf1 ht1 hf2 ht2
  rw [← hw] at hf2 ht2
  have haz : a.zen.appends = s.zen.appends := by rw [ha]; rfl
  have happ : w.appends = s.zen.appends ++ (m1 ++ m2) := by
    rw [hf2]
    show v.appends ++ m2 = _
    rw [hf1]
    show a.zen.appends ++ m1 ++ m2 = _
    rw [haz, List.append_assoc]
  refine ⟨_, w.noteRec 3 (leBytes 4 Config.zenRomVer.toNat), m1 ++ m2, congrArg Host.Outcome.next hrun, ?_⟩
  rw [← hw]
  refine ⟨?_, ?_, ?_, ?_, ?_, congrArg (· ++ _) happ, rfl, ?_, ?_⟩
  · show w.present = _
    rw [hf2, hf1, ha]
    rfl
  · show w.lost = _
    rw [hf2, hf1, ha]
    rfl
  · show w.bytes = _
    rw [hf2, hf1, ha]
    rfl
  · show w.frames = _
    rw [hf2, hf1, ha]
    rfl
  · show w.selfTest = _
    rw [hf2, hf1, ha]
    rfl
  · show w.tamper = _
    rw [ht2, ht1, ha]
    rfl
  · rw [List.length_append, hl1, hl2]

theorem zenTamper_none (cause : Fin 6) (h : s.zen.present = false ∨ cause = 0) : exec (.zenTamper cause) s = .next s := by
  refine congrArg Host.Outcome.next (if_neg fun hand => ?_)
  obtain ⟨hp, hc⟩ := hand
  obtain h | h := h
  · rw [h] at hp
    cases hp
  · exact hc (congrArg Fin.val h)

theorem zenTamper_spec (cause : Fin 6) (h : s.zen.present = true) (hc : cause ≠ 0) : ∃ u r, exec (.zenTamper cause) s = .next u ∧ u.zen.tamper = true ∧
    u.zen.lastTamper = cause ∧ u.zen.sealed = false ∧ u.zen.appends = s.zen.appends ++ [r] ∧ r.rkind = 1 ∧ byteAt r.detail 0 = cause ∧
    u.zen.bytes = s.zen.bytes ∧ u.zen.frames = s.zen.frames ∧
    ((s.squall.flight.filter (fun m => decide (m.source = srcZenith))).length < 4 → ∃ m, u.squall.flight = s.squall.flight ++ [m] ∧
      m.source = srcZenith ∧ m.kind = 0x38 ∧ m.addr = (cause : Nat)) := by
  obtain ⟨r, hkind, hdetail, hz, hmsg⟩ := s.tamperEvent_spec cause
  have hlt : cause.val < 6 := cause.isLt
  have hne : cause.val ≠ 0 := fun e => hc (Fin.ext e)
  refine ⟨_, r, congrArg Host.Outcome.next (if_pos ⟨h, hne⟩), ?_⟩
  rw [hz]
  refine ⟨rfl, rfl, ?_, rfl, hkind, ?_, rfl, rfl, fun hroom => ?_⟩
  · unfold ZenSt.sealed
    exact Bool.and_false _
  · rw [hdetail, Nat.mod_eq_of_lt (by omega)]
  · obtain ⟨m, hf, hs, hk, haddr⟩ := hmsg hroom
    exact ⟨m, hf, hs, hk, haddr.trans (Nat.mod_eq_of_lt (by omega))⟩

/-! ## Commit (R555) -/

theorem zenRecordCommit_spec (r : ZRec) (rest : List ZRec) (h : s.zen.appends = r :: rest) :
    ∃ u bs, exec .zenRecordCommit s = .next u ∧ u.zen.appends = rest ∧ u.zen.rseq = s.zen.rseq + 1 ∧
      u.zen.ckBytes = r.bytes ∧ u.zen.ckFrames = r.frames ∧ u.zen.prev = Config.shake256 bs 32 ∧ u.zen.openAt = s.zen.openAt ∧
      byteAt bs 0 = 4 ∧ byteAt bs 1 = r.rkind % 256 ∧ (s.zen.rseq < 2 ^ 64 → leNat (bytesAt bs 8 8) = s.zen.rseq) ∧
      (r.startNs < 2 ^ 64 → leNat (bytesAt bs 16 8) = r.startNs) ∧ (r.endNs < 2 ^ 64 → leNat (bytesAt bs 24 8) = r.endNs) ∧
      bytesAt bs 48 32 = bytesAt s.zen.prev 0 32 ∧
      (r.detail.length = 16 → r.entries.length ≤ 98304 → bs.length = 1504 + r.entries.length ∧ leNat (bytesAt bs 4 4) = bs.length ∧
        bytesAt bs 128 r.entries.length = r.entries ∧ byteAt bs (128 + r.entries.length + 6) = 3 ∧
        u.zen.journal.getLast? = some (s.zen.rseq, bs)) ∧ (u.zen.journal.map (fun e => e.2.length)).sum ≤ 1048576 ∧ OnlyRegs [] s u := by
  obtain ⟨bs, hbs⟩ : ∃ bs, bs = r.bytesOf s.zen.rseq s.zen.prev := ⟨_, rfl⟩
  have hrun : exec .zenRecordCommit s = .next (s.setZen { s.zen with appends := rest, journal := trimJournal (s.zen.journal ++ [(s.zen.rseq, bs)]), rseq := s.zen.rseq + 1, prev := Config.shake256 bs 32, ckBytes := r.bytes, ckFrames := r.frames }) := by
    show execZenRecordCommit s = _
    unfold execZenRecordCommit
    rw [h, hbs]
    rfl
  have htail := r.tail s.zen.rseq s.zen.prev
  have hbit : ∀ {v : Nat}, v < 2 ^ 64 → v < 256 ^ 8 := fun hv => hv
  refine ⟨_, bs, hrun, rfl, rfl, rfl, rfl, rfl, rfl, ?_, ?_, fun hv => ?_, fun hv => ?_, fun hv => ?_, ?_, fun hd he => ?_, trimJournal_sum _,
    OnlyRegs.refl _ s⟩
  · rw [hbs]
    exact r.byte (k := 0) (v := 4) _ _ (by decide) (r.field _ _ 0 rfl rfl rfl)
  · rw [hbs]
    exact r.byte (k := 1) _ _ (by decide) (r.field _ _ 1 rfl rfl (leBytes_length _ _))
  · rw [hbs]
    exact r.number _ _ 4 8 rfl rfl (hbit hv)
  · rw [hbs]
    exact r.number _ _ 5 8 rfl rfl (hbit hv)
  · rw [hbs]
    exact r.number _ _ 6 8 rfl rfl (hbit hv)
  · rw [hbs]
    exact r.field _ _ 10 rfl rfl (bytesAt_length _ _ _)
  · obtain ⟨hlen, hnum, hent, hsig⟩ := htail hd he
    rw [← hbs] at hlen hnum hent hsig
    exact ⟨hlen, hnum, hent, hsig, trimJournal_last _ _ (by show bs.length ≤ _; omega)⟩

theorem zenRecordCommit_none (h : s.zen.appends = []) : exec .zenRecordCommit s = .next s := by
  show execZenRecordCommit s = _
  unfold execZenRecordCommit
  rw [h]

end

/-- Settles O59: a record's bytes are its fields one after another, and each tamper event adds one record. -/
theorem zenithRecords : Obligations.ZenithRecords := by
  intro s
  refine ⟨zenRecordCommit_none s, zenRecordCommit_spec s, fun cause => ⟨zenTamper_none s cause, zenTamper_spec s cause⟩, fun h => ?_,
    fun h => ⟨fun ok => ?_, zvddLoss_spec s h⟩, fun h ok => zvddUp_spec s h ok⟩
  · exact congrArg Host.Outcome.next (if_neg (by rw [h]; decide))
  · exact congrArg Host.Outcome.next (if_pos h)

end Sys2Proof.Machine
end

section
/-!
PROOF. The authority's commands and the delivery of Zenith's records (R557 to R559).
-/

set_option Elab.async false
set_option exponentiation.threshold 4096
set_option maxRecDepth 20000

namespace Sys2Proof.Machine

/-! ## Bytes of bytes -/

theorem nth_bytesAt (l : List Byte) {off n k : Nat} (h : k < n) : nth (bytesAt l off n) k 0 = nth l (off + k) 0 := by
  unfold bytesAt nth
  dsimp only
  by_cases hk : k < ((l.drop off).take n).length
  · have hlt : off + k < l.length := by rw [List.length_take, List.length_drop] at hk; omega
    rw [List.getD_append _ _ _ _ hk, List.getD_eq_getElem _ _ hk, List.getElem_take, List.getElem_drop, List.getD_eq_getElem _ _ hlt]
  · have hge : l.length ≤ off + k := by rw [List.length_take, List.length_drop] at hk; omega
    rw [List.getD_append_right _ _ _ _ (Nat.not_lt.mp hk), List.getD_eq_default _ _ hge, List.getD_eq_getElem?_getD, List.getElem?_replicate]
    split <;> rfl

theorem bytesAt_eq_map (l : List Byte) (off n : Nat) : bytesAt l off n = (List.range n).map (fun k => nth l (off + k) 0) := by
  refine List.ext_getElem ?_ fun k h _ => ?_
  · rw [bytesAt_length, List.length_map, List.length_range]
  · have hnth : nth (bytesAt l off n) k 0 = (bytesAt l off n)[k] := List.getD_eq_getElem _ _ h
    rw [bytesAt_length] at h
    rw [List.getElem_map, List.getElem_range, ← hnth, nth_bytesAt l h]

/-- Bytes inside bytes. -/
theorem bytesAt_congr {l m : List Byte} {a b n : Nat} (h : ∀ k, k < n → nth l (a + k) 0 = nth m (b + k) 0) : bytesAt l a n = bytesAt m b n := by
  rw [bytesAt_eq_map, bytesAt_eq_map]
  exact List.map_congr_left fun k hk => h k (List.mem_range.mp hk)

theorem byteAt_bytesAt (l : List Byte) {off n k : Nat} (h : k < n) : byteAt (bytesAt l off n) k = byteAt l (off + k) := congrArg BitVec.toNat (nth_bytesAt l h)

theorem nth_memGet (m : Tab Byte) (e : Nat) {w k : Nat} (h : k < w) : nth (memGet m e w) k 0 = tget m (e + k) 0 := by
  unfold memGet nth
  rw [List.getD_eq_getElem _ _ (by rw [List.length_map, List.length_range]; exact h), List.getElem_map, List.getElem_range]

theorem memGet_inside (m : Tab Byte) (e : Nat) {n k w : Nat} (h : k + n ≤ w) : memGet m (e + k) n = bytesAt (memGet m e w) k n := by
  rw [bytesAt_eq_map]
  refine List.map_congr_left fun j hj => ?_
  have hlt := List.mem_range.mp hj
  rw [nth_memGet m e (by omega), Nat.add_assoc]

/-! ## Commands of the authority (R557, R558) -/

/-- What a command buffer must meet. -/
def ZenSt.good (z : ZenSt) (d : List Byte) : Prop :=
  leNat (bytesAt d 0 4) = 0x444D435A ∧ 1 ≤ byteAt d 4 ∧ byteAt d 4 ≤ 4 ∧ 24 + leNat (bytesAt d 20 4) + 1376 ≤ d.length ∧ (z.auth = [] → byteAt d 4 = 3) ∧
    sigOk 4 (if z.auth = [] then [bytesAt d 24 1793] else [z.auth]) (d.take (24 + leNat (bytesAt d 20 4))) (bytesAt d (24 + leNat (bytesAt d 20 4)) 1376) = true ∧
    bytesAt d 8 8 = keyId Config.zenKey ∧ z.seq < leNat (bytesAt d 16 4) ∧ z.payloadOk d = true

theorem ZenSt.signers_eq (z : ZenSt) (d : List Byte) : z.signers d = if z.auth = [] then [bytesAt d 24 1793] else [z.auth] := by
  unfold ZenSt.signers
  exact if_congr List.isEmpty_iff rfl rfl

theorem ZenSt.refuses_eq (z : ZenSt) (d : List Byte) : z.refuses d =
    if leNat (bytesAt d 0 4) ≠ 0x444D435A ∨ byteAt d 4 = 0 ∨ 4 < byteAt d 4 ∨ d.length < 24 + leNat (bytesAt d 20 4) + 1376 then 4
    else if z.auth.isEmpty = true ∧ byteAt d 4 ≠ 3 then 5
    else if sigOk 4 (z.signers d) (d.take (24 + leNat (bytesAt d 20 4))) (bytesAt d (24 + leNat (bytesAt d 20 4)) 1376) = false then 1
    else if bytesAt d 8 8 ≠ keyId Config.zenKey then 2
    else if leNat (bytesAt d 16 4) ≤ z.seq then 3
    else if z.payloadOk d = false then 4
    else 0 := rfl

/-- Zero after a check means that the check passes and the rest gives 0. -/
theorem check_zero {c : Prop} [Decidable c] {v w : Nat} (hv : v ≠ 0) : (if c then v else w) = 0 ↔ ¬ c ∧ w = 0 := by
  split
  · next h => exact ⟨fun e => absurd e hv, fun e => absurd h e.1⟩
  · next h => exact ⟨fun e => ⟨h, e⟩, fun e => e.2⟩

theorem ZenSt.refuses_zero (z : ZenSt) (d : List Byte) : z.refuses d = 0 ↔ z.good d := by
  rw [z.refuses_eq, check_zero (by decide), check_zero (by decide), check_zero (by decide), check_zero (by decide), check_zero (by decide),
    check_zero (by decide), z.signers_eq, List.isEmpty_iff, Bool.not_eq_false, Bool.not_eq_false]
  unfold ZenSt.good
  constructor
  · rintro ⟨h1, h2, h3, h4, h5, h6, -⟩
    push Not at h1 h2 h4 h5
    exact ⟨h1.1, by omega, h1.2.2.1, h1.2.2.2, h2, h3, h4, h5, h6⟩
  · rintro ⟨h1, h2, h3, h4, h5, h6, h7, h8, h9⟩
    refine ⟨?_, fun h => h.2 (h5 h.1), h6, fun h => h h7, by omega, h9, rfl⟩
    push Not
    exact ⟨h1, by omega, h3, h4⟩

/-! ### What an operation changes -/

/-- The operation of a verified command, before its record. -/
def ZenSt.operated (z : ZenSt) (d : List Byte) : ZenSt :=
  match byteAt d 4 with
  | 1 => { z with pendMap := z.pendMap ++ (List.range (leNat (bytesAt d 26 2))).map (fun k => (leNat (bytesAt d 24 2) + k, leNat (bytesAt d (28 + 2 * k) 2))) }
  | 2 => { z with pendCfg := some (byteAt d 24 + leNat (bytesAt d 26 2) * 16 + leNat (bytesAt d 28 2) * 65536) }
  | 3 => { z with auth := bytesAt d 24 1793, authSlots := z.authSlots + 1 }
  | _ => { z with tamper := false }

/-- The detail of a CONFIG record. -/
def configDetail (d : List Byte) : List Byte := leBytes 1 (byteAt d 4) ++ leBytes 3 0 ++ leBytes 4 (leNat (bytesAt d 16 4))

/-- An operation with the number it carries. -/
def ZenSt.numbered (z : ZenSt) (d : List Byte) : ZenSt := { z.operated d with seq := leNat (bytesAt d 16 4) }

theorem ZenSt.apply_eq (z : ZenSt) (d : List Byte) : z.apply d =
    { z.numbered d with appends := (z.operated d).appends ++ [(z.numbered d).noteRec 2 (configDetail d)] } := rfl

theorem configDetail_op (d : List Byte) : byteAt (bytesAt (configDetail d) 0 16) 0 = byteAt d 4 := by
  have hlt : byteAt d 4 < 256 := (nth d 4 0).isLt
  have hlen : 0 < (configDetail d).length := by
    unfold configDetail
    rw [List.length_append, List.length_append, leBytes_length, leBytes_length, leBytes_length]
    decide
  have hhead : bytesAt (configDetail d) 0 1 = leBytes 1 (byteAt d 4) := by
    unfold configDetail
    rw [List.append_assoc]
    exact bytesAt_append _ (leBytes_length 1 _)
  rw [byteAt_bytesAt _ (by decide), byteAt_eq hlen, hhead, leNat_leBytes, Nat.pow_one, Nat.mod_eq_of_lt hlt]

/-- What each operation changes, once its buffer is verified. -/
structure Operated (z w : ZenSt) (d : List Byte) : Prop where
  map : w.map = z.map
  cfg : w.cfg = z.cfg
  bytes : w.bytes = z.bytes
  frames : w.frames = z.frames
  appends : w.appends = z.appends
  pendMap : byteAt d 4 ≠ 1 → w.pendMap = z.pendMap
  pendCfg : byteAt d 4 ≠ 2 → w.pendCfg = z.pendCfg
  auth : byteAt d 4 ≠ 3 → w.auth = z.auth
  tamper : byteAt d 4 ≠ 4 → w.tamper = z.tamper
  resealed : byteAt d 4 = 4 → w.tamper = false
  enrolled : byteAt d 4 = 3 → w.auth = bytesAt d 24 1793 ∧ w.authSlots = z.authSlots + 1
  setCfg : byteAt d 4 = 2 → w.pendCfg = some (byteAt d 24 + leNat (bytesAt d 26 2) * 16 + leNat (bytesAt d 28 2) * 65536)
  setMap : byteAt d 4 = 1 → w.pendMap = z.pendMap ++ (List.range (leNat (bytesAt d 26 2))).map (fun k => (leNat (bytesAt d 24 2) + k, leNat (bytesAt d (28 + 2 * k) 2)))

theorem ZenSt.operated_spec (z : ZenSt) (d : List Byte) (h1 : 1 ≤ byteAt d 4) (h4 : byteAt d 4 ≤ 4) : Operated z (z.operated d) d := by
  have hop : byteAt d 4 = 1 ∨ byteAt d 4 = 2 ∨ byteAt d 4 = 3 ∨ byteAt d 4 = 4 := by omega
  unfold ZenSt.operated
  obtain hop | hop | hop | hop := hop <;> (constructor <;> simp [hop])

/-- The pieces of a SET_INTERVAL word. -/
theorem intervalWord_pieces {a b c : Nat} (ha : a < 16) (hb : b < 4096) : (a + b * 16 + c * 65536) % 16 = a ∧ (a + b * 16 + c * 65536) / 16 % 4096 = b ∧
    (a + b * 16 + c * 65536) / 65536 = c := by omega

theorem payloadOk_interval {z : ZenSt} {d : List Byte} (h : z.payloadOk d = true) (hop : byteAt d 4 = 2) : byteAt d 24 < 16 ∧ leNat (bytesAt d 26 2) < 4096 := by
  unfold ZenSt.payloadOk at h
  simp only [hop, Bool.and_eq_true, decide_eq_true_eq] at h
  omega

theorem payloadOk_enrol {z : ZenSt} {d : List Byte} (h : z.payloadOk d = true) (hop : byteAt d 4 = 3) : z.authSlots < 2 := by
  unfold ZenSt.payloadOk at h
  simp only [hop, Bool.and_eq_true, decide_eq_true_eq] at h
  exact h.1.2

/-- The entries of a SET_MAP. -/
theorem mapEntries_get (d : List Byte) (n : Nat) :
    ((List.range n).map (fun k => (leNat (bytesAt d 24 2) + k, leNat (bytesAt d (28 + 2 * k) 2)))).length = n ∧ ∀ k, k < n →
      ((List.range n).map (fun k => (leNat (bytesAt d 24 2) + k, leNat (bytesAt d (28 + 2 * k) 2))))[k]? =
        some (leNat (bytesAt d 24 2) + k, leNat (bytesAt d (28 + 2 * k) 2)) := by
  refine ⟨by rw [List.length_map, List.length_range], fun k hk => ?_⟩
  rw [List.getElem?_map, List.getElem?_range hk]
  rfl

/-! ### The command -/

section
variable (s : State)

/-- Zenith's answer to a buffer. -/
def State.zenAnswered (s : State) (d : List Byte) : State :=
  { (if s.zen.refuses d = 0 then s.setZen (s.zen.apply d) else s) with trust := { (if s.zen.refuses d = 0 then s.setZen (s.zen.apply d) else s).trust with zreply := some (s.zen.refuses d) } }

/-- The parameter of the answer's event. -/
def State.zenParam (s : State) (d : List Byte) : Nat := byteAt d 4 + b2n (decide (s.zen.refuses d = 0)) * 256 + s.zen.refuses d * 65536

theorem zenCommand_idle (h : s.trust.zcmd = none ∨ s.zenPort = false ∨ s.trust.zreply.isSome = true) : exec .zenCommand s = .next s := by
  show execZenCommand s = _
  unfold execZenCommand
  cases hc : s.trust.zcmd with
  | none => rfl
  | some d =>
    rw [hc] at h
    exact congrArg Host.Outcome.next (if_pos (h.resolve_left (Option.some_ne_none d)))

theorem zenCommand_runs {d : List Byte} (hc : s.trust.zcmd = some d) (hp : s.zenPort = true) (hz : s.trust.zreply = none) :
    exec .zenCommand s = .next ((s.zenAnswered d).post 0x0A02 (s.zenParam d)) := by
  show execZenCommand s = _
  unfold execZenCommand
  rw [hc]
  exact congrArg Host.Outcome.next (if_neg (by rw [hp, hz]; decide))

theorem zenAnswered_zen (d : List Byte) : (s.zenAnswered d).zen = if s.zen.refuses d = 0 then s.zen.apply d else s.zen := by
  unfold State.zenAnswered
  split <;> rfl

theorem zenAnswered_only (d : List Byte) : OnlyRegs [] s (s.zenAnswered d) := by
  unfold State.zenAnswered
  split <;> exact OnlyRegs.refl _ s

end

theorem zenithCommands_holds : Claims.ZenithCommands := by
  intro s
  refine ⟨zenCommand_idle s, fun d hc hp hz => ?_⟩
  have hzen : ((s.zenAnswered d).post 0x0A02 (s.zenParam d)).zen = if s.zen.refuses d = 0 then s.zen.apply d else s.zen :=
    (State.post_zen _ _ _).trans (zenAnswered_zen s d)
  refine ⟨_, s.zen.refuses d, zenCommand_runs s hc hp hz, ?_, post_only (zenAnswered_only s d) _ _, s.zen.refuses_zero d, fun hop hfull hzero => ?_,
    fun hne => hzen.trans (if_neg hne), fun hzero => ⟨(s.zen.numbered d).noteRec 2 (configDetail d), ?_⟩⟩
  · rw [(post_trust_zen_boot _ _ _).1]
    rfl
  · obtain ⟨_, _, _, _, _, _, _, _, hpay⟩ := (s.zen.refuses_zero d).mp hzero
    exact absurd (payloadOk_enrol hpay hop) (by omega)
  · obtain ⟨_, h1, h4, _, _, _, _, _, hpay⟩ := (s.zen.refuses_zero d).mp hzero
    obtain ⟨hmap, hcfg, hbytes, hframes, happ, hpm, hpc, hau, hta, hre, hen, hsc, hsm⟩ := s.zen.operated_spec d h1 h4
    rw [hzen, if_pos hzero, s.zen.apply_eq]
    refine ⟨rfl, congrArg (· ++ _) happ, rfl, configDetail_op d, hmap, hcfg, hbytes, hframes, hpm, hpc, hau, hta, hre, hen, fun hop => ?_, fun hop => ?_⟩
    · obtain ⟨ha, hb⟩ := payloadOk_interval hpay hop
      exact ⟨_, hsc hop, intervalWord_pieces ha hb⟩
    · obtain ⟨hlen, hget⟩ := mapEntries_get d (leNat (bytesAt d 26 2))
      exact ⟨_, hsm hop, hlen, fun k hk => hget k (by rw [← hlen]; exact hk)⟩

/-! ## Delivery (R559) -/

section
variable (s : State)

/-- An ACTIVE capture ring of PF3. -/
def State.zenRingAt (s : State) (r : Nat) : Prop := s.ringOwnerOf r = 3 ∧ s.ringTypeOf r = 4 ∧ s.ringState r = 1

theorem zenRing_test (r : Nat) : (decide (s.ringOwnerOf r = 3) && decide (s.ringTypeOf r = 4) && decide (s.ringState r = 1)) = true ↔ s.zenRingAt r := by
  unfold State.zenRingAt
  rw [Bool.and_eq_true, Bool.and_eq_true, decide_eq_true_iff, decide_eq_true_iff, decide_eq_true_iff, and_assoc]

theorem zenRing_none (h : ∀ r : RingIx, ¬ s.zenRingAt r) : s.zenRing = none := by
  unfold State.zenRing
  refine List.find?_eq_none.mpr fun r hr => ?_
  rw [zenRing_test]
  exact h ⟨r, List.mem_range.mp hr⟩

theorem zenRing_some {r : RingIx} (h : s.zenRingAt r) (hfirst : ∀ q : RingIx, q < r → ¬ s.zenRingAt q) : s.zenRing = some r.val := by
  unfold State.zenRing
  rw [List.find?_range_eq_some]
  refine ⟨(zenRing_test s r).mpr h, List.mem_range.mpr r.isLt, fun q hq => ?_⟩
  rw [Bool.not_eq_true', ← Bool.not_eq_true, zenRing_test]
  exact hfirst ⟨q, hq.trans r.isLt⟩ hq

/-- The record delivered next. -/
def State.zenNext (s : State) : Option (Nat × List Byte) := s.zen.journal.find? (fun e => decide (s.zen.deliver ≤ e.1))

theorem zenNext_none (h : ∀ e ∈ s.zen.journal, e.1 < s.zen.deliver) : s.zenNext = none :=
  List.find?_eq_none.mpr fun e he => by
    rw [decide_eq_true_iff]
    exact Nat.not_le.mpr (h e he)

theorem zenNext_some {pre post : List (Nat × List Byte)} {rseq : Nat} {rec : List Byte} (h : s.zen.journal = pre ++ (rseq, rec) :: post)
    (hpre : ∀ e ∈ pre, e.1 < s.zen.deliver) (hle : s.zen.deliver ≤ rseq) : s.zenNext = some (rseq, rec) := by
  unfold State.zenNext
  rw [h]
  exact find?_of_split (fun e he => decide_eq_false (Nat.not_le.mpr (hpre e he))) (decide_eq_true hle)

theorem zenRecordDeliver_eq : exec .zenRecordDeliver s = .next (match s.zenRing, s.zenNext with
    | some r, some (rseq, rec) =>
      if s.blocked 3 = true ∨ s.zenPort = false then s
      else ((if (s.ring r).started.isEmpty then s else s.telemClose r).telemOpen r).zenPut r rseq rec
    | _, _ => s) := rfl

theorem zenRecordDeliver_off (h : s.zenRing = none ∨ s.zenNext = none ∨ s.blocked 3 = true ∨ s.zenPort = false) :
    exec .zenRecordDeliver s = .next s := by
  rw [zenRecordDeliver_eq]
  cases hr : s.zenRing with
  | none => rfl
  | some r =>
    cases hn : s.zenNext with
    | none => rfl
    | some x =>
      rw [hr, hn] at h
      exact congrArg Host.Outcome.next (if_pos ((h.resolve_left (Option.some_ne_none r)).resolve_left (Option.some_ne_none x)))

/-! ### The buffer opened -/

/-- A state in which, of the registers, a ring's status alone may differ, with the same ring state and Zenith. -/
structure RingNear (s v : State) (r : Nat) : Prop where
  only : OnlyRegs [.ringStatus] s v
  wide : OnlyWide [] s v
  state : v.ringState r = s.ringState r
  zen : v.zen = s.zen

variable {s} in
theorem RingNear.hostOk {v : State} {r : Nat} (h : RingNear s v r) (f a n : Nat) (w : Bool) : v.hostOk f a n w = s.hostOk f a n w :=
  State.hostOk_congr f a n w (fun i j => h.only _ i j (by decide)) (fun i j => h.only _ i j (by decide)) (fun i j => h.only _ i j (by decide))
    fun i j => h.only _ i j (by decide)

variable {s} in
theorem RingNear.owner {v : State} {r : Nat} (h : RingNear s v r) : v.ringOwnerOf r = s.ringOwnerOf r := fget_of_rd F.ringOwner_OWNER (h.only _ r 0 (by decide))

variable {s} in
theorem RingNear.size {v : State} {r : Nat} (h : RingNear s v r) : v.ringSize r = s.ringSize r :=
  congrArg (2 ^ ·) (fget_of_rd F.ringCtl_SIZE_LOG2 (h.only _ r 0 (by decide)))

variable {s} in
theorem RingNear.head {v : State} {r : Nat} (h : RingNear s v r) : v.ringH r = s.ringH r := by
  unfold State.ringH
  rw [h.size, fget_of_rd F.ringHead_IDX (h.only _ r 0 (by decide)), fget_of_rd F.ringHead_WRAP (h.only _ r 0 (by decide))]

variable {s} in
theorem RingNear.entryAddr {v : State} {r : Nat} (h : RingNear s v r) (p : Nat) : v.entryAddr r p = s.entryAddr r p := by
  unfold State.entryAddr
  rw [h.size, h.wide .ringBase r 0 (by decide)]

theorem copyTaken_near (r : Nat) : RingNear s (s.copyTaken r) r where
  only := (State.putRing_keeps (.rfl' (.onRegs [.ringStatus]) s) r _).onlyRegs
  wide := fun n i j _ => rdw_of_r64 ((State.putRing_keeps (.rfl' { Touch.all with r64 := false } s) r _).r64 rfl) n i j
  state := by
    unfold State.ringState State.copyTaken State.putRing
    exact fget_fset_off _ _ _ _ _ _ (by decide) (by decide) (by decide)
  zen := rfl

/-- The buffer opened on a taken copy. -/
def State.capOpened (s : State) (r : Nat) (d : List Byte) : State :=
  (s.copyTaken r).setRing r { (s.copyTaken r).ring r with started := [{ pos := (s.copyTaken r).ringH r, desc := d }] }

variable {s} in
theorem RingNear.setRing {v : State} {r : Nat} (h : RingNear s v r) (q : RingSt) : RingNear s (v.setRing r q) r := ⟨h.only, h.wide, h.state, h.zen⟩

theorem capOpened_near (r : Nat) (d : List Byte) : RingNear s (s.capOpened r d) r := (copyTaken_near s r).setRing _

theorem copyTaken_mem (r : Nat) : (s.copyTaken r).host.mem = s.host.mem := (State.putRing_keeps (.rfl' .butMem s) r _).mem rfl

theorem capOpened_mem (r : Nat) (d : List Byte) : (s.capOpened r d).host.mem = s.host.mem := by
  have hset : ∀ (u : State) (q : RingSt), (u.setRing r q).host.mem = u.host.mem := fun _ _ => rfl
  unfold State.capOpened
  rw [hset, copyTaken_mem]

variable {s} in
theorem RingNear.hostPut {v : State} {r : Nat} (h : RingNear s v r) (a : Nat) (bs : List Byte) : RingNear s (v.hostPut a bs) r := ⟨h.only, h.wide, h.state, h.zen⟩

theorem capOpened_ring (r : Nat) (d : List Byte) : (s.capOpened r d).ring r =
    { s.ring r with fetched := (s.ring r).fetched.drop 1, started := [{ pos := s.ringH r, desc := d }] } := by
  unfold State.capOpened
  rw [State.setRing_ring, s.copyTaken_ring, (copyTaken_near s r).head]

theorem takeEntry_copy {r pos : Nat} {d : List Byte} {more : List (Nat × List Byte)} (hst : s.ringState r = 1) (hbl : s.blocked (s.ringOwnerOf r) = false)
    (hf : (s.ring r).fetched = (pos, d) :: more) (hown : bitAt (byteAt d 31) 7 = true) : s.takeEntry r = (some d, s.copyTaken r) := by
  unfold State.takeEntry State.copyTaken
  dsimp only
  rw [if_neg (by rw [hst, hbl]; decide), hf]
  exact if_pos hown

theorem telemOpen_opens {r pos : Nat} {d : List Byte} {more : List (Nat × List Byte)} (hst : s.ringState r = 1)
    (hbl : s.blocked (s.ringOwnerOf r) = false) (hf : (s.ring r).fetched = (pos, d) :: more) (hown : bitAt (byteAt d 31) 7 = true)
    (ha : leNat (bytesAt d 0 8) % 4096 = 0) (hn : leNat (bytesAt d 8 4) % 4096 = 0) (hlo : 4096 ≤ leNat (bytesAt d 8 4))
    (hhi : leNat (bytesAt d 8 4) ≤ 1048576) (hok : s.hostOk (s.ringOwnerOf r) (leNat (bytesAt d 0 8)) (leNat (bytesAt d 8 4)) true = true) :
    s.telemOpen r = s.capOpened r d := by
  have hnear := copyTaken_near s r
  unfold State.telemOpen
  rw [takeEntry_copy s hst hbl hf hown]
  dsimp only
  rw [if_neg (by omega), hnear.owner, hnear.hostOk, hok, if_neg (by decide)]
  rfl

/-! ### The buffer closed -/

/-- The fields of a capture entry that closes. -/
def closeFields (q : RingSt) (ns : Nat) : List (List Byte) :=
  [leBytes 4 q.capBytes, leBytes 4 q.capRecords, leBytes 8 ns, leBytes 1 (b2n q.capLost), leBytes 14 0, leBytes 1 0]

theorem closeFields_lens (q : RingSt) (ns : Nat) : (closeFields q ns).map List.length = [4, 4, 8, 1, 14, 1] := by
  unfold closeFields
  simp only [List.map_cons, List.map_nil, leBytes_length]

/-- What an entry with a capture buffer's result reads as. -/
structure CloseEntry (m : Tab Byte) (e bytes records : Nat) (lost : Bool) : Prop where
  bytes : leNat (memGet m e 4) = bytes % 2 ^ 32
  records : leNat (memGet m (e + 4) 4) = records % 2 ^ 32
  own : byteAt (memGet m e 32) 31 = 0
  lost : byteAt (memGet m e 32) 16 = b2n lost

theorem entryBytes_inside (w : List Byte) {k n : Nat} (h : k + n ≤ 31) : bytesAt (entryBytes w) k n = bytesAt w k n := by
  refine bytesAt_congr fun j hj => ?_
  have hin : nth (entryBytes w) (k + j) 0 = nth (bytesAt w 0 31) (k + j) 0 := by
    unfold entryBytes nth
    exact List.getD_append _ _ _ _ (by rw [bytesAt_length]; omega)
  rw [hin, nth_bytesAt w (by omega), Nat.zero_add]

/-- A last byte of 0 stays 0. -/
theorem entryBytes_last {w : List Byte} (h : byteAt w 31 = 0) : byteAt (entryBytes w) 31 = 0 := by
  have hnth : nth (entryBytes w) 31 0 = (nth w 31 0) &&& 0x7F#8 := by
    have hl := bytesAt_length w 0 31
    unfold entryBytes nth
    rw [List.getD_append_right _ _ _ _ (by omega), hl]
    rfl
  have hzero : nth w 31 0 = 0#8 := BitVec.eq_of_toNat_eq h
  unfold byteAt
  rw [hnth, hzero]
  rfl

theorem closeEntry_of {m : Tab Byte} {e : Nat} {q : RingSt} {ns : Nat} (h : memGet m e 32 = entryBytes (closeFields q ns).flatten) :
    CloseEntry m e q.capBytes q.capRecords q.capLost := by
  have hfield : ∀ (k : Nat) {off n : Nat} {p : List Byte}, (closeFields q ns)[k]? = some p → ([4, 4, 8, 1, 14, 1].take k).sum = off → p.length = n →
      bytesAt (closeFields q ns).flatten off n = p := fun k _ _ _ hp hoff hn => bytesAt_flatten (closeFields_lens q ns) hp hoff hn
  have hin : ∀ {k n : Nat}, k + n ≤ 31 → memGet m (e + k) n = bytesAt (closeFields q ns).flatten k n := fun {k n} hk => by
    rw [memGet_inside m e (show k + n ≤ 32 by omega), h, entryBytes_inside _ hk]
  have hlost : bytesAt (memGet m e 32) 16 1 = leBytes 1 (b2n q.capLost) := by
    rw [h, entryBytes_inside _ (by decide)]
    exact hfield 3 rfl rfl (leBytes_length 1 _)
  have hlast : bytesAt (closeFields q ns).flatten 31 1 = leBytes 1 0 := hfield 5 rfl rfl rfl
  have hlen : (memGet m e 32).length = 32 := by rw [h, entryBytes_length]
  refine ⟨?_, ?_, ?_, ?_⟩
  · have hb := hin (k := 0) (n := 4) (by decide)
    rw [Nat.add_zero] at hb
    have hv : bytesAt (closeFields q ns).flatten 0 4 = leBytes 4 q.capBytes := hfield 0 rfl rfl (leBytes_length 4 _)
    rw [hb, hv, leNat_leBytes]
    rfl
  · have hv : bytesAt (closeFields q ns).flatten 4 4 = leBytes 4 q.capRecords := hfield 1 rfl rfl (leBytes_length 4 _)
    rw [hin (by decide), hv, leNat_leBytes]
    rfl
  · have hw : byteAt (closeFields q ns).flatten 31 = 0 := by
      have hlong : 31 < (closeFields q ns).flatten.length := by rw [List.length_flatten, closeFields_lens]; decide
      rw [byteAt_eq hlong, hlast]
      rfl
    rw [h]
    exact entryBytes_last hw
  · rw [byteAt_eq (by omega), hlost, leNat_leBytes]
    cases q.capLost <;> rfl

/-- A capture buffer closes: its entry, and the rest as it was. -/
structure Closed (s v u : State) (r : Nat) (q : RingSt) : Prop where
  entry : CloseEntry u.host.mem (s.entryAddr r (s.ringH r)) q.capBytes q.capRecords q.capLost
  other : ∀ x, (x < s.entryAddr r (s.ringH r) ∨ s.entryAddr r (s.ringH r) + 32 ≤ x) → tget u.host.mem x 0 = tget v.host.mem x 0
  state : u.ringState r = s.ringState r
  zen : u.zen = v.zen

theorem entryDone_kept (r pos : Nat) (entry : List Byte) : (s.entryDone r pos entry).ringState r = s.ringState r ∧ (s.entryDone r pos entry).zen = s.zen := by
  obtain ⟨u, hu⟩ : ∃ u, u = s.hostPut (s.entryAddr r pos) (entryBytes entry) := ⟨_, rfl⟩
  have heq : s.entryDone r pos entry = (u.advanceH r).ringFlip r := by rw [hu]; rfl
  have hflip : Keeps { Touch.avoid [.ringStatus] with zen := false } (u.advanceH r) ((u.advanceH r).ringFlip r) := State.ringFlip_keeps (.rfl' _ _) r
  have hadv : (u.advanceH r).fget F.ringStatus_STATE r = u.fget F.ringStatus_STATE r := fget_of_rd F.ringStatus_STATE (rd_wr_reg u _ _ _ _ _ (by decide))
  rw [heq]
  refine ⟨(hflip.fget F.ringStatus_STATE r 0 rfl).trans (hadv.trans (by rw [hu]; rfl)), (hflip.zen rfl).trans (by rw [hu]; rfl)⟩

/-- The ring with its buffer closed. -/
def State.capClosed (v : State) (r : Nat) : State := v.setRing r { v.ring r with started := [], capBytes := 0, capRecords := 0, capLost := false }

theorem telemClose_finish {v : State} {r : Nat} {e : Slot} (h : (v.ring r).started = [e]) :
    v.telemClose r = (v.capClosed r).finishEntry r e.pos (closeFields (v.ring r) v.ns64).flatten := by
  have hzeros : leBytes 15 0 = leBytes 14 0 ++ leBytes 1 0 := by decide
  have hbytes : (closeFields (v.ring r) v.ns64).flatten = leBytes 4 (v.ring r).capBytes ++ leBytes 4 (v.ring r).capRecords ++ leBytes 8 v.ns64 ++
      leBytes 1 (b2n (v.ring r).capLost) ++ leBytes 15 0 := by
    unfold closeFields
    rw [hzeros]
    simp only [List.flatten_cons, List.flatten_nil, List.append_nil, List.append_assoc]
  unfold State.telemClose State.capClosed
  dsimp only
  rw [h, hbytes]

variable {s} in
theorem RingNear.closed {v : State} {r : Nat} (h : RingNear s v r) (hok : s.hostOk (s.ringOwnerOf r) (s.entryAddr r (s.ringH r)) 32 true = true)
    {e : Slot} (hpos : e.pos = s.ringH r) (hs : (v.ring r).started = [e]) : Closed s v (v.telemClose r) r (v.ring r) := by
  have hnear : RingNear s (v.capClosed r) r := h.setRing _
  have haddr := hnear.entryAddr (s.ringH r)
  have hfin : v.telemClose r = (v.capClosed r).entryDone r (s.ringH r) (closeFields (v.ring r) v.ns64).flatten := by
    rw [telemClose_finish hs, hpos]
    exact (v.capClosed r).finishEntry_ok _ (by rw [hnear.owner, haddr, hnear.hostOk]; exact hok)
  obtain ⟨hmem, hother⟩ := (v.capClosed r).entryDone_written r (s.ringH r) (closeFields (v.ring r) v.ns64).flatten
  obtain ⟨hst, hzen⟩ := entryDone_kept (v.capClosed r) r (s.ringH r) (closeFields (v.ring r) v.ns64).flatten
  rw [haddr] at hmem hother
  rw [hfin]
  exact ⟨closeEntry_of hmem, hother, hst.trans hnear.state, hzen⟩

/-! ### The record put -/

/-- The record in the buffer just opened. -/
def State.zenWritten (v : State) (r a rseq : Nat) (rec : List Byte) : State := (v.hostPut a rec).setRing r
  { v.ring r with capBytes := rec.length, capRecords := 1, capLost := (v.ring r).capLost || decide (v.zen.deliver < rseq) }

/-- What follows the close. -/
def State.zenCounted (u : State) (r rseq : Nat) : State := if u.ringState r = 1 then u.setZen { u.zen with deliver := rseq + 1 } else u

theorem zenPut_short {v : State} {r rseq : Nat} {rec : List Byte} {e : Slot} (h : (v.ring r).started = [e]) (hn : leNat (bytesAt e.desc 8 4) < 131072) :
    v.zenPut r rseq rec = v.telemClose r := by
  unfold State.zenPut
  rw [h]
  exact if_pos hn

theorem zenPut_long {v : State} {r rseq : Nat} {rec : List Byte} {e : Slot} (h : (v.ring r).started = [e]) (hn : 131072 ≤ leNat (bytesAt e.desc 8 4)) :
    v.zenPut r rseq rec = ((v.zenWritten r (leNat (bytesAt e.desc 0 8)) rseq rec).telemClose r).zenCounted r rseq := by
  unfold State.zenPut
  rw [h]
  exact if_neg (Nat.not_lt.mpr hn)

end

theorem zenithDelivery_holds : Claims.ZenithDelivery := by
  intro s
  refine ⟨fun hno => ?_, fun r pre post rseq rec d pos more howner htype hstate hfirst hbl hport hj hpre hle hstarted hcb hcr hfetched hown hok => ?_⟩
  · refine zenRecordDeliver_off s ?_
    obtain h | h | h | h := hno
    · exact .inl (zenRing_none s h)
    · exact .inr (.inr (.inl h))
    · exact .inr (.inr (.inr h))
    · exact .inr (.inl (zenNext_none s h))
  intro a n e ha hn hlo hhi hwin
  have hopen : s.telemOpen r = s.capOpened r d := telemOpen_opens s hstate (by rw [howner]; exact hbl) hfetched hown ha hn hlo hhi (by rw [howner]; exact hwin)
  have hnear := capOpened_near s r d
  have hring := capOpened_ring s r d
  have hrun : exec .zenRecordDeliver s = .next ((s.capOpened r d).zenPut r rseq rec) := by
    rw [zenRecordDeliver_eq, zenRing_some s ⟨howner, htype, hstate⟩ hfirst, zenNext_some s hj hpre hle, ← hopen]
    dsimp only
    rw [if_neg (by rw [hbl, hport]; decide), hstarted]
    rfl
  obtain ⟨v, hv⟩ : ∃ v, v = s.capOpened r d := ⟨_, rfl⟩
  have hmem : v.host.mem = s.host.mem := by rw [hv]; exact capOpened_mem s r d
  rw [← hv] at hrun hnear hring
  have hslot : (v.ring r).started = [{ pos := s.ringH r, desc := d }] := by rw [hring]
  have hok' : s.hostOk (s.ringOwnerOf r) (s.entryAddr r (s.ringH r)) 32 true = true := by rw [howner]; exact hok
  refine ⟨fun hlong hapart => ?_, fun hshort => ?_⟩
  · obtain ⟨w, hw⟩ : ∃ w, w = v.zenWritten r a rseq rec := ⟨_, rfl⟩
    have hwnear : RingNear s w r := hw ▸ (hnear.hostPut a rec).setRing _
    have hwring : w.ring r = { v.ring r with capBytes := rec.length, capRecords := 1, capLost := (v.ring r).capLost || decide (v.zen.deliver < rseq) } := by
      rw [hw]
      exact State.setRing_ring _ _ _
    have hwmem : w.host.mem = memPut s.host.mem a rec := by
      rw [hw, ← hmem]
      rfl
    obtain ⟨⟨hbytes, hrecords, hlast, hlost⟩, hother, hst, hzen⟩ := hwnear.closed hok' (e := { pos := s.ringH r, desc := d }) rfl (by rw [hwring]; exact hslot)
    have hput := (zenPut_long (rseq := rseq) (rec := rec) hslot hlong)
    have hcount : (w.telemClose r).zenCounted r rseq = (w.telemClose r).setZen { (w.telemClose r).zen with deliver := rseq + 1 } := if_pos (hst.trans hstate)
    refine ⟨(w.telemClose r).setZen { (w.telemClose r).zen with deliver := rseq + 1 }, ?_, ?_, ?_, ?_, rfl, hlast, ?_, fun x hx1 hx2 => ?_⟩
    · rw [hrun, hput, ← hcount, hw]
    · refine Eq.trans (List.map_congr_left fun k hk => ?_) (memGet_memPut (m := s.host.mem) (a := a) (bs := rec))
      have hlt := List.mem_range.mp hk
      rw [← hwmem]
      exact hother (a + k) (by omega)
    · rw [hwring] at hbytes
      exact hbytes
    · rw [hwring] at hrecords
      exact hrecords
    · rw [hwring, hring, hnear.zen] at hlost
      refine hlost.trans ?_
      rw [Bool.or_comm]
    · exact (hother x hx2).trans (by rw [hwmem]; exact tget_memPut_outside rfl hx1)
  · obtain ⟨⟨hbytes, hrecords, hlast, _⟩, hother, _, hzen⟩ := hnear.closed hok' (e := { pos := s.ringH r, desc := d }) rfl hslot
    rw [hring] at hbytes hrecords
    refine ⟨v.telemClose r, hrun.trans (by rw [zenPut_short hslot hshort]), ?_, ?_, hlast, hzen.trans hnear.zen, fun x hx => (hother x hx).trans (by rw [hmem])⟩
    · exact hbytes.trans (by show (s.ring r).capBytes % _ = 0; rw [hcb]; rfl)
    · exact hrecords.trans (by show (s.ring r).capRecords % _ = 0; rw [hcr]; rfl)

/-- Settles O60: a buffer is refused by the first check that fails, and a record is the one write beside its ring entry's. -/
theorem zenithCommandsAndDelivery : Obligations.ZenithCommandsAndDelivery := ⟨zenithCommands_holds, zenithDelivery_holds⟩

end Sys2Proof.Machine
end

section
/-!
PROOF. What the work of the units leaves of Squall (R502, R504, R506): messages are added and none is taken away, and PEND bits stay.
-/

set_option Elab.async false
set_option exponentiation.threshold 4096
set_option maxRecDepth 20000

namespace Sys2Proof.Machine

/-- Messages are added, PEND bits stay set, a domain without a slice stays so, and the repair rows used stay. -/
structure Grows (s u : State) : Prop where
  flight : s.squall.flight <+: u.squall.flight
  pend : ∀ i k, (s.rd .pend i).getLsbD k = true → (u.rd .pend i).getLsbD k = true
  idle : ∀ d, s.slice d = none → u.slice d = none
  repairs : u.squall.repairs = s.squall.repairs

theorem Grows.refl (s : State) : Grows s s := ⟨List.prefix_refl _, fun _ _ h => h, fun _ h => h, rfl⟩

theorem Grows.trans {s t u : State} (h : Grows s t) (h' : Grows t u) : Grows s u :=
  ⟨h.flight.trans h'.flight, fun i k e => h'.pend i k (h.pend i k e), fun d e => h'.idle d (h.idle d e), h'.repairs.trans h.repairs⟩

/-- Everything but Squall and PEND. -/
def Touch.quiet : Touch := { Touch.avoid [.pend] with squall := false }

section
variable {s0 s u : State}

/-- A step that leaves Squall's own state and PEND. -/
theorem Grows.still (h : Grows s0 s) (hq : u.squall = s.squall) (hp : ∀ i, u.rd .pend i = s.rd .pend i) : Grows s0 u := by
  obtain ⟨hf, hpend, hidle, hrep⟩ := h
  refine ⟨by rw [hq]; exact hf, fun i k e => by rw [hp]; exact hpend i k e, fun d e => ?_, by rw [hq]; exact hrep⟩
  unfold State.slice
  rw [hq]
  exact hidle d e

theorem Grows.quiet (h : Grows s0 s) (hk : Keeps .quiet s u) : Grows s0 u := h.still (hk.squall rfl) fun i => hk.rd .pend i 0 rfl

theorem Grows.fset {f : Fld} (v i j : Nat) (hf : f.reg ≠ .pend) (h : Grows s0 s) : Grows s0 (s.fset f v i j) :=
  h.still rfl fun _ => rd_fset_reg s v i j _ 0 (Ne.symm hf)

theorem Grows.wr {n : RName} (v : Word) (i j : Nat) (hn : n ≠ .pend) (h : Grows s0 s) : Grows s0 (s.wr n v i j) :=
  h.still rfl fun _ => rd_wr_reg s v i j _ 0 (Ne.symm hn)

theorem Grows.each {α : Type} {l : List α} {f : α → State → State} (h : Grows s0 s) (hf : ∀ a t, Grows s0 t → Grows s0 (f a t)) : Grows s0 (s.each l f) :=
  State.each_ind h hf

theorem Grows.forN {n : Nat} {f : Nat → State → State} (h : Grows s0 s) (hf : ∀ k t, Grows s0 t → Grows s0 (f k t)) : Grows s0 (forN n f s) :=
  State.each_ind (l := List.range n) h hf

theorem Grows.ite {c : Prop} [Decidable c] {a b : State} (ha : Grows s0 a) (hb : Grows s0 b) : Grows s0 (if c then a else b) := by
  split
  · exact ha
  · exact hb

theorem Grows.bump {n : RName} {i j k : Nat} (h : Grows s0 s) : Grows s0 (s.bump n i j k) := h.still rfl fun _ => rfl

theorem Grows.post (x y : Nat) (h : Grows s0 s) : Grows s0 (s.post x y) := h.quiet (State.post_keeps (.rfl' .quiet s) x y)

theorem Grows.setBuf {t : Nat} {b : BufSt} (h : Grows s0 s) : Grows s0 (s.setBuf t b) := h.still rfl fun _ => rfl
theorem Grows.setFrame {t fid : Nat} {f : Frame} (h : Grows s0 s) : Grows s0 (s.setFrame t fid f) := h.still rfl fun _ => rfl
theorem Grows.setVoq {t q : Nat} {v : Voq} (h : Grows s0 s) : Grows s0 (s.setVoq t q v) := h.still rfl fun _ => rfl
theorem Grows.setRing {r : Nat} {q : RingSt} (h : Grows s0 s) : Grows s0 (s.setRing r q) := h.still rfl fun _ => rfl
theorem Grows.setLane {l : Nat} {v : LaneSt} (h : Grows s0 s) : Grows s0 (s.setLane l v) := h.still rfl fun _ => rfl

/-! ## Messages (R502, R504) -/

theorem Grows.setPend (src : Nat) (h : Grows s0 s) : Grows s0 (s.setPend src) := by
  refine h.trans ⟨List.prefix_refl _, fun i k e => ?_, fun _ e => e, rfl⟩
  unfold State.setPend
  by_cases hi : regKey .pend i 0 = regKey .pend (src / 32) 0
  · have hw : ∀ t : State, t.rd .pend i = t.rd .pend (src / 32) := fun t => by unfold State.rd; rw [hi]
    rw [hw] at e ⊢
    rw [rd_wr_same, BitVec.getLsbD_or, e, Bool.true_or]
  · rw [rd_wr_key s _ hi]
    exact e

theorem Grows.startMask (ms : List (Nat × Nat × Option Nat)) (held : Nat) (h : Grows s0 s) : Grows s0 (s.startMask ms held) :=
  h.trans ⟨List.prefix_refl _, fun i k e => by
    unfold State.startMask
    rw [rd_fset_reg _ _ _ _ _ _ (by decide)]
    exact e, fun _ e => e, rfl⟩

theorem Grows.masked (src kind : Nat) (h : Grows s0 s) : Grows s0 (s.masked src kind) := by
  unfold State.masked State.when
  dsimp only
  split
  · exact h.startMask _ _
  · exact h

theorem Grows.report (src kind addr : Nat) (h : Grows s0 s) : Grows s0 (s.report src kind addr) := by
  have hm := h.masked src kind
  obtain ⟨v, hv⟩ : ∃ v, v = s.masked src kind := ⟨_, rfl⟩
  obtain ⟨own, hown⟩ : ∃ own, s.report src kind addr = if (v.squall.flight.filter (fun m => decide (m.source = src))).length < 4 then
      { v with squall := { v.squall with flight := v.squall.flight ++
        [{ source := src, kind := kind, sev := sevOf src kind, addr := addr % 2 ^ 48, stamp := s.stamp, safe := decide (sevOf src kind = 2), own := own }] } }
      else (v.bump .cntMsgLost).setPend src := by
    rw [hv]
    exact ⟨_, rfl⟩
  rw [← hv] at hm
  rw [hown]
  split
  · exact hm.trans ⟨List.prefix_append _ _, fun _ _ e => e, fun _ e => e, rfl⟩
  · exact hm.bump.setPend src

/-! ## Frames discarded (R258, R383, R384, R392) -/

theorem Grows.violation {f kind addr ring : Nat} (h : Grows s0 s) : Grows s0 (s.violation f kind addr ring) := by
  unfold State.violation
  refine Grows.ite (h.wr _ _ _ (by decide)) (Grows.quiet (Grows.report _ _ _ (Grows.forN (Grows.forN ?_ fun r t ht => ?_) fun n t ht => ?_))
    (State.postFn_keeps (.rfl' .quiet _) _ _ _))
  · exact Grows.fset _ _ _ (by decide) (Grows.fset _ _ _ (by decide) (h.still rfl fun _ => rfl))
  · exact Grows.ite (Grows.fset _ _ _ (by decide) (ht.quiet (State.clearRing_keeps (.rfl' .quiet t) r))) ht
  · exact Grows.ite (Grows.fset _ _ _ (by decide) ht) ht

theorem Grows.finishEntry {r pos : Nat} {entry : List Byte} (h : Grows s0 s) : Grows s0 (s.finishEntry r pos entry) := by
  unfold State.finishEntry
  refine Grows.ite (Grows.quiet (Grows.wr _ _ _ (by decide) (h.still (u := s.hostPut _ _) rfl fun _ => rfl)) (State.ringFlip_keeps (.rfl' .quiet _) r)) h.violation

theorem Grows.finishStarted {r n : Nat} (h : Grows s0 s) : Grows s0 (s.finishStarted r n) := by
  induction n generalizing s with
  | zero => exact h
  | succ n ih =>
    unfold State.finishStarted
    dsimp only
    split
    · exact h
    · split
      · exact h
      · exact Grows.ite (Grows.finishEntry h.setRing) (ih (Grows.setRing (Grows.finishEntry h.setRing)))

theorem Grows.complete {r gen pos status txNs info : Nat} (h : Grows s0 s) : Grows s0 (s.complete r gen pos status txNs info) := by
  unfold State.complete
  exact Grows.ite h (Grows.finishStarted (h.still rfl fun _ => rfl))

theorem Grows.txDrop {code : Nat} {m : FMeta} (h : Grows s0 s) : Grows s0 (s.txDrop code m) := by
  unfold State.txDrop
  split
  · exact h
  · exact Grows.complete (h.still rfl fun _ => rfl)

theorem Grows.dropCount {t code slot cls : Nat} (h : Grows s0 s) : Grows s0 (s.dropCount t code slot cls) :=
  h.quiet (State.dropCount_keeps (.rfl' .quiet s) t code slot cls)

theorem Grows.discardAt {p code : Nat} {m : FMeta} (h : Grows s0 s) : Grows s0 (s.discardAt p code m) := h.dropCount.txDrop

theorem Grows.discard {t code : Nat} {m : FMeta} (h : Grows s0 s) : Grows s0 (s.discard t code m) := h.dropCount.txDrop

/-! ## Cells and pages freed (R255, R261) -/

theorem Grows.pgScan {t : Nat} (h : Grows s0 s) : Grows s0 (s.pgScan t) := h.quiet (State.pgScan_keeps (.rfl' .quiet s) t)

theorem Grows.drainCheck (h : Grows s0 s) : Grows s0 s.drainCheck := h.quiet (State.drainCheck_keeps (.rfl' .quiet s))

theorem Grows.freeCellList {t : Nat} {cs : List Nat} (h : Grows s0 s) : Grows s0 (s.freeCellList t cs) :=
  h.each fun _ _ hv => Grows.ite (Grows.ite (Grows.report _ _ _ hv.bump) hv.bump)
    (Grows.ite (hv.still rfl fun _ => rfl) (Grows.fset _ _ _ (by decide) (hv.still rfl fun _ => rfl)))

theorem Grows.freePages {ps : List Nat} (h : Grows s0 s) : Grows s0 (s.freePages ps) :=
  h.each fun _ _ hv => Grows.ite (Grows.report _ _ _ hv.bump) (Grows.ite hv (Grows.fset _ _ _ (by decide) (hv.still rfl fun _ => rfl)))

theorem Grows.freeFrameCells {t fid : Nat} (h : Grows s0 s) : Grows s0 (s.freeFrameCells t fid) := by
  have hcells : ∀ f, Grows s0 ((s.freeCellList t (s.frame t fid).cells).setFrame t fid f) := fun _ => h.freeCellList.setFrame
  unfold State.freeFrameCells
  exact Grows.pgScan (Grows.ite (hcells _).setBuf (Grows.fset _ _ _ (by decide) (Grows.fset _ _ _ (by decide) (hcells _))))

theorem Grows.sweep {t fid : Nat} (h : Grows s0 s) : Grows s0 (s.sweep t fid) := h.quiet (State.sweep_keeps (.rfl' .quiet s) t fid)

theorem Grows.endRef {t fid : Nat} (h : Grows s0 s) : Grows s0 (s.endRef t fid) := by
  have hframe : ∀ f, Grows s0 (s.setFrame t fid f) := fun _ => h.still rfl fun _ => rfl
  unfold State.endRef
  exact Grows.ite (hframe _).freeFrameCells.sweep (hframe _)

theorem Grows.killFrame {t fid code : Nat} (h : Grows s0 s) : Grows s0 (s.killFrame t fid code) := by
  have hout : ∀ (l : List Nat) (f : Nat → State → Voq) (g : Frame),
      Grows s0 ((((s.discard t code (s.frame t fid).m).excForget t fid).each l fun q v => v.setVoq t q (f q v)).setFrame t fid g) := fun l f g =>
    Grows.setFrame (Grows.each (h.discard.still rfl fun _ => rfl) fun _ _ hv => hv.setVoq)
  unfold State.killFrame
  exact Grows.ite (Grows.sweep (Grows.freeFrameCells (hout _ (fun q v => _) _))) (hout _ (fun q v => _) _)

theorem Grows.setAnvUsed {t p i v : Nat} (h : Grows s0 s) : Grows s0 (s.setAnvUsed t p i v) := h.quiet (State.setAnvUsed_keeps (.rfl' .quiet s) t p i v)

theorem Grows.dropRecs {t code : Nat} {l : List Rec} (h : Grows s0 s) : Grows s0 (s.dropRecs t code l) :=
  Grows.pgScan (h.each fun _ _ hv => Grows.discard hv.setAnvUsed)

theorem Grows.dropRefs {t code : Nat} {l : List Ref} (h : Grows s0 s) : Grows s0 (s.dropRefs t code l) := h.each fun _ _ hv => hv.discard.endRef

theorem Grows.flushQueue {t q code : Nat} (h : Grows s0 s) : Grows s0 (s.flushQueue t q code) :=
  Grows.drainCheck (Grows.freePages (Grows.dropRecs (Grows.dropRefs h.setVoq)))

theorem Grows.voqSafe {t q : Nat} (h : Grows s0 s) : Grows s0 (s.voqSafe t q) := (Grows.flushQueue h.setVoq).pgScan

theorem Grows.voqNorm {t q : Nat} (h : Grows s0 s) : Grows s0 (s.voqNorm t q) := h.quiet (State.voqNorm_keeps (.rfl' .quiet s) t q)

theorem Grows.loseFrom {t q last : Nat} (h : Grows s0 s) : Grows s0 (s.loseFrom t q last) := by
  have hlost : ∀ w l ps, Grows s0 (((s.setVoq t q w).dropRecs t 0x0511 l).freePages ps) := fun _ _ _ => h.setVoq.dropRecs.freePages
  unfold State.loseFrom
  exact Grows.ite (hlost _ _ _) (Grows.post _ _ (hlost _ _ _))

theorem Grows.settlePages {t q : Nat} (h : Grows s0 s) : Grows s0 (s.settlePages t q) := by
  unfold State.settlePages
  exact Grows.ite h.setVoq.freePages h.setVoq.freePages

theorem Grows.recLost {t q k : Nat} (h : Grows s0 s) : Grows s0 (s.recLost t q k) := by
  unfold State.recLost
  dsimp only
  split
  · exact h
  · exact Grows.discard (Grows.setVoq h.setAnvUsed)

theorem Grows.tileDrop {t : Nat} (h : Grows s0 s) : Grows s0 (s.tileDrop t) := by
  unfold State.tileDrop
  exact Grows.each (h.each fun _ _ hv => hv.flushQueue) fun _ _ hv => hv.killFrame

theorem Grows.channelLost {n : Nat} (h : Grows s0 s) : Grows s0 (s.channelLost n) := by
  unfold State.channelLost
  refine Grows.drainCheck (Grows.each (h.wr _ _ _ (by decide)) fun _ _ hv => hv.each fun _ _ hv => ?_)
  dsimp only
  split
  · exact hv.loseFrom.settlePages.voqNorm.pgScan
  · exact hv

/-! ## Ports that leave UP (R57, R506) -/

theorem Grows.flushVoqs {p code : Nat} (h : Grows s0 s) : Grows s0 (s.flushVoqs p code) :=
  h.forN fun _ _ hv => hv.forN fun _ _ hv => Grows.ite hv hv.flushQueue

theorem Grows.flushStaged {p code : Nat} (h : Grows s0 s) : Grows s0 (s.flushStaged p code) :=
  h.forN fun _ _ hv => Grows.still (u := State.setNc _ _ _ _) (hv.each fun _ _ hw => hw.discardAt) rfl fun _ => rfl

theorem Grows.downFlush {p : Nat} (h : Grows s0 s) : Grows s0 (s.downFlush p) :=
  Grows.post _ _ (Grows.flushStaged (Grows.flushVoqs (h.still (u := s.setNp _ _) rfl fun _ => rfl)))

theorem Grows.setNp {p : Nat} {n : NPort} (h : Grows s0 s) : Grows s0 (s.setNp p n) := h.still rfl fun _ => rfl

/-- The frame under way at a port is completed toward its ring. -/
def State.curEnded (s : State) (p : Nat) : State :=
  match (s.np p).cur with
  | some x => match x.m.tx with
    | some (r, gen, pos) => s.complete r gen pos 0 (if x.m.tsReq then (s.np p).curNs % 2 ^ 64 else 0) x.data.length
    | none => s
  | none => s

theorem State.egressDown_eq (s : State) (p : Nat) : s.egressDown p =
    if s.fget F.egrCfg0_DOWN_HOLD p = 0 ∧ s.hz = false then
      ((s.curEnded p).setNp p { (s.curEnded p).np p with cur := none, curCtl := none, ctl := [] }).downFlush p
    else (s.curEnded p).setNp p { (s.curEnded p).np p with cur := none, curCtl := none, ctl := [] } := rfl

theorem Grows.curEnded {p : Nat} (h : Grows s0 s) : Grows s0 (s.curEnded p) := by
  unfold State.curEnded
  split
  · split
    · exact h.complete
    · exact h
  · exact h

theorem Grows.egressDown {p : Nat} (h : Grows s0 s) : Grows s0 (s.egressDown p) := by
  rw [State.egressDown_eq]
  exact Grows.ite h.curEnded.setNp.downFlush h.curEnded.setNp

theorem Grows.stomp {t fid n : Nat} (h : Grows s0 s) : Grows s0 (s.stomp t fid n) := h.quiet (State.stomp_keeps (.rfl' .quiet s) t fid n)

theorem Grows.perf {t ev : Nat} {slot : Option Nat} {classes : Option (List Nat)} {code : Option Nat} {n : Nat} (h : Grows s0 s) :
    Grows s0 (s.perf t ev slot classes code n) := h.quiet (State.perf_keeps (.rfl' .quiet s) t ev slot classes code n)

theorem Grows.rxVerdict {t fid : Nat} {good : Bool} (h : Grows s0 s) : Grows s0 (s.rxVerdict t fid good) := by
  unfold State.rxVerdict
  dsimp only
  obtain ⟨v, hv⟩ : ∃ v, v = s.setFrame t fid { s.frame t fid with done := true, good := good && decide (64 ≤ (s.frame t fid).rxLen) } := ⟨_, rfl⟩
  have hg : Grows s0 v := hv ▸ h.setFrame
  rw [← hv]
  obtain ⟨w, hw⟩ : ∃ w, w = if (good && decide (64 ≤ (s.frame t fid).rxLen)) = true then
      (v.perf t 1 (some (s.slotOf (s.frame t fid).m.iport)) none none 1).perf t 2 (some (s.slotOf (s.frame t fid).m.iport)) none none (s.frame t fid).rxLen else v := ⟨_, rfl⟩
  have hgw : Grows s0 w := hw ▸ Grows.ite hg.perf.perf hg
  rw [← hw]
  exact Grows.ite hgw.sweep (Grows.ite (Grows.ite hgw.stomp (Grows.ite hgw hgw.stomp))
    (Grows.ite hgw.killFrame (Grows.ite hgw.killFrame (Grows.ite hgw.killFrame hgw))))

theorem Grows.ingressLinkLost {p : Nat} (h : Grows s0 s) : Grows s0 (s.ingressLinkLost p) := by
  unfold State.ingressLinkLost
  dsimp only
  split
  · exact Grows.rxVerdict h.setBuf
  · exact Grows.ite h h.setBuf

theorem Grows.setPort {p : Nat} {v : PortSt} (h : Grows s0 s) : Grows s0 (s.setPort p v) := h.still rfl fun _ => rfl

theorem Grows.linkEnds {p : Nat} (h : Grows s0 s) : Grows s0 (s.linkEnds p) := by
  unfold State.linkEnds
  refine Grows.egressDown (Grows.ingressLinkLost (Grows.each ?_ fun _ _ hv => hv.setLane))
  exact Grows.setPort (Grows.fset _ _ _ (by decide) (Grows.fset _ _ _ (by decide) h))

theorem Grows.leaveUp {p cause : Nat} (h : Grows s0 s) : Grows s0 (s.leaveUp p cause) := by
  unfold State.leaveUp
  exact Grows.ite (Grows.linkEnds (Grows.post _ _ (Grows.fset _ _ _ (by decide) h))) h

theorem Grows.portSafe {p : Nat} (h : Grows s0 s) : Grows s0 (s.portSafe p) := by
  unfold State.portSafe
  refine Grows.ite h (Grows.each (Grows.each ?_ fun _ _ hv => hv.setLane) fun _ _ hv => Grows.ite ?_ hv)
  · exact Grows.fset _ _ _ (by decide) (Grows.fset _ _ _ (by decide) (Grows.fset _ _ _ (by decide) h.leaveUp))
  · exact Grows.fset _ _ _ (by decide) (Grows.fset _ _ _ (by decide) hv.setLane)

theorem Grows.laneSafe {l : Nat} (h : Grows s0 s) : Grows s0 (s.laneSafe l) := by
  unfold State.laneSafe
  split
  · exact h.portSafe
  · exact h

/-! ## Slices, spares and repair rows (R519 to R526) -/

theorem Grows.spareUsed {cls dom ix : Nat} (h : Grows s0 s) : Grows s0 (s.spareUsed cls dom ix) := Grows.report _ _ _ (h.post _ _)

theorem Grows.sayRetired {cls dom ix : Nat} (h : Grows s0 s) : Grows s0 (s.sayRetired cls dom ix) := Grows.post _ _ (h.report _ _ _)

theorem Grows.blow {cls unit : Nat} (h : Grows s0 s) : Grows s0 (s.blow cls unit) := h.quiet (State.blow_keeps (.rfl' .quiet s) cls unit)

theorem Grows.setRole {t k role standin : Nat} (h : Grows s0 s) : Grows s0 (s.setRole t k role standin) :=
  h.quiet (State.setRole_keeps (.rfl' .quiet s) t k role standin)

theorem Grows.setSlice {d : Nat} (h : Grows s0 s) : Grows s0 (s.setSlice d none) := by
  have hidle : ∀ (v : State) (e : Nat), s.slice e = none → v.squall.slices = tset s.squall.slices d none none → v.slice e = none := fun v e he hv => by
    unfold State.slice at he ⊢
    rw [hv]
    by_cases hd : e = d
    · rw [hd, tget_tset_same]
    · rw [tget_tset_ne _ _ _ _ hd, he]
  refine h.trans ⟨List.prefix_refl _, fun i k e => ?_, fun e he => hidle _ e he rfl, rfl⟩
  unfold State.setSlice
  rw [rd_wr_reg _ _ _ _ _ _ (by decide)]
  exact e

theorem Grows.endSlice {d res : Nat} (h : Grows s0 s) : Grows s0 (s.endSlice d res) := by
  have hshow : ∀ (v : State) (x : Slice), Grows s0 v → Grows s0 (v.showSlice d x res) := fun v x hv => Grows.wr _ _ _ (by decide) (Grows.wr _ _ _ (by decide) hv)
  have hplan : ∀ v : State, Grows s0 v → Grows s0 v.planCheck := fun v hv => hv.quiet (State.planCheck_keeps (.rfl' .quiet v))
  unfold State.endSlice
  split
  · exact h
  · exact hplan _ (Grows.bump (hshow _ _ (Grows.setSlice (h.quiet (State.restoreUnit_keeps (.rfl' .quiet s) d _)))))

theorem Grows.abortIf {d : Nat} {p : Slice → Bool} (h : Grows s0 s) : Grows s0 (s.abortIf d p) := by
  unfold State.abortIf
  split
  · exact Grows.ite h.endSlice h
  · exact h

theorem Grows.chSafe {n : Nat} (h : Grows s0 s) : Grows s0 (s.chSafe n) := (Grows.abortIf (h.fset _ _ _ (by decide))).channelLost

theorem Grows.bankSafe {t mem bank : Nat} (h : Grows s0 s) : Grows s0 (s.bankSafe t mem bank) := by
  unfold State.bankSafe
  exact Grows.ite h.abortIf (h.abortIf.still rfl fun _ => rfl)

theorem Grows.retirePage {page : Nat} (h : Grows s0 s) : Grows s0 (s.retirePage page) := by
  have hgroup : ∀ (g : Nat) (v : _), Grows s0 (({ s with tm := { s.tm with anvil := { s.tm.anvil with retired := s.tm.anvil.retired ++ [page] } } } : State).setGroup g v) :=
    fun _ _ => h.still rfl fun _ => rfl
  unfold State.retirePage State.when
  refine Grows.ite h (Grows.report _ _ _ (Grows.post _ _ (Grows.fset _ _ _ (by decide) (Grows.ite (Grows.fset _ _ _ (by decide) (hgroup _ _)) (hgroup _ _)))))

theorem Grows.pageFails {n page kind : Nat} (h : Grows s0 s) : Grows s0 (s.pageFails n page kind) := by
  unfold State.pageFails
  refine Grows.drainCheck (Grows.retirePage (Grows.bump (h.each fun _ _ hv => hv.each fun _ _ hv => ?_)))
  dsimp only
  split
  · exact hv
  · exact Grows.pgScan (Grows.voqNorm (Grows.settlePages (Grows.ite hv.recLost hv.loseFrom)))

theorem Grows.linkOut {t k : Nat} (h : Grows s0 s) : Grows s0 (s.linkOut t k) := by
  unfold State.linkOut
  exact Grows.ite (Grows.spareUsed (Grows.blow (h.fset _ _ _ (by decide)))) (Grows.ite (Grows.sayRetired (Grows.blow (h.wr _ _ _ (by decide)))) h)

theorem Grows.laneRetire {l : Nat} (h : Grows s0 s) : Grows s0 (s.laneRetire l) :=
  Grows.sayRetired (Grows.laneSafe (Grows.blow (h.wr _ _ _ (by decide))))

theorem Grows.chRetire {n : Nat} (h : Grows s0 s) : Grows s0 (s.chRetire n) :=
  Grows.sayRetired (Grows.blow (Grows.channelLost (Grows.fset _ _ _ (by decide) (h.fset _ _ _ (by decide)))))

theorem Grows.requestReset {bit hz : Nat} (h : Grows s0 s) : Grows s0 (s.requestReset bit hz) := h.still rfl fun _ => rfl

theorem Grows.tileRetire {t : Nat} (h : Grows s0 s) : Grows s0 (s.tileRetire t) := by
  unfold State.tileRetire
  refine Grows.ite h (Grows.sayRetired (Grows.ite ?_ ?_))
  · exact Grows.requestReset (Grows.fset _ _ _ (by decide) h.blow)
  · exact Grows.fset _ _ _ (by decide) (Grows.abortIf (Grows.tileDrop (h.blow.each fun _ _ hv => hv.portSafe)))

/-! ## The safe state of a unit (R504, R509) -/

theorem Grows.unitSafe {src kind addr : Nat} (h : Grows s0 s) : Grows s0 (s.unitSafe src kind addr) := by
  unfold State.unitSafe
  dsimp only
  split
  · refine Grows.ite h (Grows.abortIf (Grows.laneSafe ?_))
    unfold State.when
    exact Grows.ite h.setLane h
  · split
    · exact Grows.ite h h.portSafe
    · split
      · exact h.voqSafe
      · exact h.quiet (State.cellOut_keeps (.rfl' .quiet s) _ _)
      · exact h.bump
      · exact h.quiet (State.tblDrop_keeps (.rfl' .quiet s) _ _)
      · exact h.bankSafe
      · exact h.still rfl fun _ => rfl
      · exact h.linkOut
      · exact h.quiet (State.flowFree_keeps (.rfl' .quiet s) _ _)
      · exact h.chSafe
      · exact h.chSafe
      · exact h.bump
      · exact h.pageFails
      · exact h.pageFails
      · exact h.chSafe
      · exact h.chSafe
      · exact h.bump
      · exact h.pageFails
      · exact h.pageFails
      · exact h.still rfl fun _ => rfl
      · exact h.still rfl fun _ => rfl
      · split
        · exact Grows.still (h.fset _ _ _ (by decide)) rfl fun _ => rfl
        · exact h.fset _ _ _ (by decide)
        · exact h
      · exact h

end

end Sys2Proof.Machine
end

section
/-!
PROOF. Faults that units detect (R502, R504, R506, R509).
-/

set_option Elab.async false
set_option exponentiation.threshold 4096
set_option maxRecDepth 20000

namespace Sys2Proof.Machine

/-! ## Reports -/

section
variable (s : State)

theorem State.report_onlyRegs (src kind addr : Nat) : OnlyRegs [.sqStatus, .cntMsgLost, .pend] s (s.report src kind addr) :=
  (State.report_keeps (.rfl' (.onRegs _) s) src kind addr).onlyRegs

theorem State.report_onlyWide (src kind addr : Nat) : OnlyWide [.sqStatus, .cntMsgLost, .pend] s (s.report src kind addr) :=
  (State.report_keeps (.rfl' (.onRegs _) s) src kind addr).onlyWide

theorem State.setPend_bit (src : Nat) : ((s.setPend src).rd .pend (src / 32)).getLsbD (src % 32) = true := by
  have hlt : src % 32 < 32 := Nat.mod_lt _ (by decide)
  unfold State.setPend
  rw [rd_wr_same, BitVec.getLsbD_or, BitVec.getLsbD_ofNat, Nat.testBit_two_pow_self, decide_eq_true hlt]
  exact Bool.or_true _

/-- A message that is lost is counted and shows in PEND. -/
theorem State.report_lost_spec {src : Nat} (kind addr : Nat) (h : 4 ≤ s.inFlight src) :
    ((s.report src kind addr).rd .pend (src / 32)).getLsbD (src % 32) = true ∧
    (s.report src kind addr).rdw .cntMsgLost = s.rdw .cntMsgLost + 1#64 ∧ (s.report src kind addr).squall.flight = s.squall.flight := by
  have hwide : (s.masked src kind).rdw .cntMsgLost = s.rdw .cntMsgLost := by
    unfold State.masked State.when
    dsimp only
    split <;> rfl
  rw [s.report_lost kind addr h]
  refine ⟨State.setPend_bit _ src, ?_, s.masked_flight src kind⟩
  rw [← hwide]
  exact rdw_bump_same _ _ _ _ _

/-! ## What a detected fault does -/

/-- The unit in its safe state, with its message sent. -/
def State.faulted (s : State) (src kind addr : Nat) : State := (s.report src kind addr).unitSafe src kind addr

/-- A report that is only seen where a unit's own double frees are. -/
def State.freedTwice (s : State) (src kind : Nat) : Prop := src / 16 = 0x41 ∧ kind = 0x0B ∧ s.flag F.bpmCtl_DF_REPORT (src % 16) = false

theorem faultDetect_none {src : Fin 4096} {kind : Fin 256} {addr : BitVec 48} (h : (kindsOf src).contains kind.val = false) :
    exec (.faultDetect src kind addr) s = .next s := congrArg Host.Outcome.next (if_pos (by rw [h]; rfl))

variable {src : Fin 4096} {kind : Fin 256} {addr : BitVec 48} (hk : (kindsOf src).contains kind.val = true)
include hk

theorem faultDetect_table (h4 : kind = 4) : exec (.faultDetect src kind addr) s =
    .next (s.tblBad (src % 16) (s.namedTid (bits addr.toNat 43 36) (addr.toNat % 2 ^ 32)) (addr.toNat % 2 ^ 32)) :=
  (congrArg Host.Outcome.next (if_neg (by rw [hk]; decide))).trans (congrArg Host.Outcome.next (if_pos (by rw [h4]; rfl)))

theorem faultDetect_twice (h4 : kind ≠ 4) (hf : s.freedTwice src kind) : exec (.faultDetect src kind addr) s = .next (s.unitSafe src kind addr.toNat) := by
  have hne : kind.val ≠ 4 := fun e => h4 (Fin.ext e)
  exact ((congrArg Host.Outcome.next (if_neg (by rw [hk]; decide))).trans (congrArg Host.Outcome.next (if_neg hne))).trans
    (congrArg Host.Outcome.next (if_pos hf))

theorem faultDetect_unit (h4 : kind ≠ 4) (hf : ¬ s.freedTwice src kind) : exec (.faultDetect src kind addr) s = .next (s.faulted src kind addr.toNat) := by
  have hne : kind.val ≠ 4 := fun e => h4 (Fin.ext e)
  exact ((congrArg Host.Outcome.next (if_neg (by rw [hk]; decide))).trans (congrArg Host.Outcome.next (if_neg hne))).trans
    (congrArg Host.Outcome.next (if_neg hf))

end

/-! ## Ports and lanes (R57, R504) -/

section
variable (s : State)

/-- A port goes to SAFE, but from DISABLED and CFG_ERR. -/
theorem State.portSafe_stays {p : Nat} (h : s.fget F.portStatus_STATE p ∈ [0, 9]) : s.portSafe p = s := by
  refine if_pos ?_
  rcases List.mem_cons.mp h with h | h
  · exact .inl h
  · exact .inr (.inl (List.mem_singleton.mp h))

/-- The port out of UP with its lanes quiet. -/
def State.portLeft (s : State) (p : Nat) : State := (s.leaveUp p 5).fset F.portStatus_DOWN_CAUSE 5 p

theorem State.portSafe_state {p : Nat} (h : s.fget F.portStatus_STATE p ∉ [0, 9]) : (s.portSafe p).fget F.portStatus_STATE p = 8 := by
  have h0 : s.fget F.portStatus_STATE p ≠ 0 := fun e => h (by rw [e]; exact List.mem_cons_self)
  have h9 : s.fget F.portStatus_STATE p ≠ 9 := fun e => h (by rw [e]; exact List.mem_cons_of_mem _ (List.mem_singleton.mpr rfl))
  by_cases h8 : s.fget F.portStatus_STATE p = 8
  · have hstay : s.portSafe p = s := if_pos (.inr (.inr h8))
    rw [hstay, h8]
  · have hgo : s.portSafe p = ((((s.portLeft p).portTo p 8).driveLanes (s.portLanes p) .localFault).abortEyes (s.portLanes p)) :=
      if_neg fun hor => hor.elim h0 fun hor => hor.elim h9 h8
    have heyes : ∀ (v : State) (ls : List Nat), (v.abortEyes ls).fget F.portStatus_STATE p = v.fget F.portStatus_STATE p := fun v ls =>
      fget_of_rd F.portStatus_STATE (State.abortEyes_rd _ _ _ _ _ (by decide))
    have hdrive : ∀ (v : State) (ls : List Nat), (v.driveLanes ls .localFault).fget F.portStatus_STATE p = v.fget F.portStatus_STATE p := fun v ls =>
      State.each_view (fun u => u.fget F.portStatus_STATE p) fun _ _ => rfl
    rw [hgo, heyes, hdrive, State.portTo_state_at _ _ _ _ (by decide), if_pos rfl]

/-- A lane's PLL as its group has it. -/
def State.pllLost (s : State) (l : Nat) : Bool := (s.lane l).pllLost

theorem State.setLane_pll {k : Nat} {v : LaneSt} (l : Nat) (h : v.pllLost = (s.lane k).pllLost) : (s.setLane k v).pllLost l = s.pllLost l := by
  unfold State.pllLost
  by_cases hl : l = k
  · rw [hl, State.setLane_lane, h]
  · rw [State.setLane_lane_ne s k l v hl]

theorem pll_of_link {s u : State} (h : u.link = s.link) (l : Nat) : u.pllLost l = s.pllLost l := by
  unfold State.pllLost State.lane
  rw [h]

theorem State.fset_pll (f : Fld) (v i j l : Nat) : (s.fset f v i j).pllLost l = s.pllLost l := rfl

theorem State.setPort_pll (p : Nat) (v : PortSt) (l : Nat) : (s.setPort p v).pllLost l = s.pllLost l := rfl

/-- Lanes without what a link has announced. -/
def State.lanesQuiet (s : State) (ls : List Nat) : State :=
  s.each ls (fun l s => s.setLane l { s.lane l with announced := false, tx := { (s.lane l).tx with ei := false, wake := false } })

theorem State.lanesQuiet_pll (ls : List Nat) (l : Nat) : (s.lanesQuiet ls).pllLost l = s.pllLost l :=
  State.each_view (fun u => u.pllLost l) fun _ t => t.setLane_pll l rfl

/-- The port's own record of faults and idles cleared. -/
def State.portQuiet (s : State) (p : Nat) : State :=
  ((s.fset F.portStatus_TX_EI 0 p).fset F.portStatus_RX_EI 0 p).setPort p { s.port p with faultRx := 0 }

theorem State.linkEnds_eq (p : Nat) : s.linkEnds p = (((s.portQuiet p).lanesQuiet (s.portLanes p)).ingressLinkLost p).egressDown p := rfl

theorem State.portQuiet_pll (p l : Nat) : (s.portQuiet p).pllLost l = s.pllLost l := by
  unfold State.portQuiet
  rw [State.setPort_pll, State.fset_pll, State.fset_pll]

theorem State.linkEnds_pll (p l : Nat) : (s.linkEnds p).pllLost l = s.pllLost l := by
  have hin : ∀ v : State, (v.ingressLinkLost p).link = v.link := fun v => (State.ingressLinkLost_keeps (.rfl' { Touch.all with link := false } v) p).link rfl
  have hout : ∀ v : State, (v.egressDown p).link = v.link := fun v => (State.egressDown_keeps (.rfl' { Touch.all with link := false } v) p).link rfl
  rw [s.linkEnds_eq, pll_of_link (hout _), pll_of_link (hin _), State.lanesQuiet_pll, State.portQuiet_pll]

theorem State.leaveUp_pll (p cause l : Nat) : (s.leaveUp p cause).pllLost l = s.pllLost l := by
  unfold State.leaveUp
  split
  · have hpost : ∀ (v : State) (a b c : Nat), (v.postLane a b c).link = v.link := fun v a b c =>
      (State.postLane_keeps (.rfl' { Touch.all with link := false } v) a b c).link rfl
    rw [State.linkEnds_pll, pll_of_link (hpost _ _ _ _), State.fset_pll]
  · rfl

theorem State.portSafe_pll (p l : Nat) : (s.portSafe p).pllLost l = s.pllLost l := by
  have heyes : ∀ (v : State) (ls : List Nat), (v.abortEyes ls).pllLost l = v.pllLost l := fun v ls => State.each_view (fun u => u.pllLost l) fun k t => by
    split
    · exact t.setLane_pll l rfl
    · rfl
  have hdrive : ∀ (v : State) (ls : List Nat), (v.driveLanes ls .localFault).pllLost l = v.pllLost l := fun v ls =>
    State.each_view (fun u => u.pllLost l) fun k t => t.setLane_pll l rfl
  have hto : ∀ v : State, (v.portTo p 8).pllLost l = v.pllLost l := fun v => by
    unfold State.portTo
    rw [State.fset_pll, State.fset_pll]
  unfold State.portSafe
  dsimp only
  split
  · rfl
  · rw [heyes, hdrive, hto, State.fset_pll, State.leaveUp_pll]

theorem State.laneSafe_pll (k l : Nat) : (s.laneSafe k).pllLost l = s.pllLost l := by
  unfold State.laneSafe
  split
  · exact s.portSafe_pll _ l
  · rfl

end

/-! ## Units of the tiles (R203, R254, R282, R525) -/

section
variable (s : State)

theorem State.voqSafe_spec (t q : Nat) : ((s.voqSafe t q).voq t q).safe = true ∧ ((s.voqSafe t q).voq t q).bare := by
  have hvoq : (s.voqSafe t q).voq t q = ((s.setVoq t q { s.voq t q with safe := true }).voq t q).flushed := by
    unfold State.voqSafe
    rw [State.voq_of_tiles (State.pgScan_tiles _ _), State.flushQueue_voq, if_pos ⟨rfl, rfl⟩]
  rw [hvoq, State.setVoq_voq]
  exact ⟨rfl, rfl, rfl, rfl, rfl⟩

theorem State.cellOut_withdrawn (t c : Nat) : ((s.cellOut t c).buf t).withdrawn.contains c = true ∧
    ∀ x, (s.buf t).withdrawn.contains x = true → ((s.cellOut t c).buf t).withdrawn.contains x = true := by
  by_cases h : (s.buf t).withdrawn.contains c = true
  · have hstay : s.cellOut t c = s := if_pos h
    rw [hstay]
    exact ⟨h, fun _ hx => hx⟩
  · obtain ⟨v, hv⟩ : ∃ v, v = s.setBuf t { s.buf t with withdrawn := (s.buf t).withdrawn ++ [c], freed := (s.buf t).freed.filter (fun x => decide (x ≠ c)) } := ⟨_, rfl⟩
    obtain ⟨w, n, hout, hw⟩ : ∃ (w : State) (n : Nat), s.cellOut t c = (w.fset F.spareCells_WITHDRAWN n t).pgScan t ∧ w.tiles = v.tiles := by
      unfold State.cellOut State.when
      dsimp only
      rw [if_neg h, ← hv]
      refine ⟨_, _, rfl, ?_⟩
      split <;> rfl
    have hbuf : (s.cellOut t c).buf t = { s.buf t with withdrawn := (s.buf t).withdrawn ++ [c], freed := (s.buf t).freed.filter (fun x => decide (x ≠ c)) } := by
      have htiles : (w.fset F.spareCells_WITHDRAWN n t).tiles = w.tiles := rfl
      rw [hout, State.buf_of_tiles (State.pgScan_tiles _ _), State.buf_of_tiles htiles, State.buf_of_tiles hw, hv]
      exact tget_tset_same _ _ _ _
    rw [hbuf]
    refine ⟨List.contains_iff_mem.mpr (List.mem_append_right _ (List.mem_singleton.mpr rfl)), fun x hx => ?_⟩
    exact List.contains_iff_mem.mpr (List.mem_append_left _ (List.contains_iff_mem.mp hx))

theorem State.tblDrop_entry {tid i : Nat} {e : EmEntry} (hk : tidKind tid = 1) (he : s.emAt i = some e) (hp : e.p0 = e.p1) :
    (s.tblDrop tid i).emAt i = none := by
  have hrun : s.tblDrop tid i = s.emPut i none := by
    unfold State.tblDrop
    rw [hk]
    dsimp only
    rw [he]
    exact if_pos hp
  rw [hrun, State.emPut_emAt]

theorem State.bankSafe_spec (t mem bank : Nat) : (t, mem, bank) ∈ (s.bankSafe t mem bank).te.safeBanks ∨ (t, mem, bank) ∈ (s.bankSafe t mem bank).te.fixedBanks := by
  unfold State.bankSafe
  dsimp only
  split
  · next h =>
    rw [Bool.or_eq_true, List.contains_iff_mem, List.contains_iff_mem] at h
    exact h
  · exact .inl (List.mem_append_right _ (List.mem_singleton.mpr rfl))

/-- A link out with links left: one less, and the outs by name stay. -/
theorem State.linkOut_spec {t : Nat} (k : Nat) (h : s.fget F.spareTile_XLINK_LEFT t ≠ 0) :
    (s.linkOut t k).fget F.spareTile_XLINK_LEFT t = s.fget F.spareTile_XLINK_LEFT t - 1 ∧ (s.linkOut t k).rd .spareXlink t = s.rd .spareXlink t := by
  obtain ⟨v, hv⟩ : ∃ v, v = s.fset F.spareTile_XLINK_LEFT (s.fget F.spareTile_XLINK_LEFT t - 1) t := ⟨_, rfl⟩
  obtain ⟨c, n, hout⟩ : ∃ c n, s.linkOut t k = (v.blow c n).spareUsed 3 t k := by
    unfold State.linkOut
    dsimp only
    rw [if_pos (Nat.pos_of_ne_zero h), hv]
    exact ⟨_, _, rfl⟩
  have hblow : ∀ (w : State) (a b : Nat) (r : RName) (i j : Nat), (w.blow a b).rd r i j = w.rd r i j := fun w a b r i j => by
    unfold State.blow
    split <;> rfl
  have hused : Keeps (.avoid [.spareTile, .spareXlink]) (v.blow c n) ((v.blow c n).spareUsed 3 t k) := State.spareUsed_keeps (.rfl' _ _) 3 t k
  have hsmall : s.fget F.spareTile_XLINK_LEFT t < 4 := Nat.mod_lt _ (by decide)
  rw [hout]
  refine ⟨(hused.fget F.spareTile_XLINK_LEFT t 0 rfl).trans ((fget_of_rd F.spareTile_XLINK_LEFT (hblow _ _ _ _ _ _)).trans ?_),
    (hused.rd .spareXlink t 0 rfl).trans ((hblow _ _ _ _ _ _).trans ?_)⟩
  · rw [hv, fget_fset_same _ _ _ _ _ (by decide) (by decide)]
    exact Nat.mod_eq_of_lt (show _ < 2 ^ 2 by omega)
  · rw [hv]
    exact rd_fset_reg _ _ _ _ _ _ (by decide)

/-! ## Units of Anvil (R263, R268, R273) -/

theorem State.retirePage_retired {page : Nat} (h : s.fget F.spareAnvil_PAGES_RETIRED (page / 786432) < 16384) :
    (s.retirePage page).tm.anvil.retired.contains page = true := by
  by_cases hc : s.tm.anvil.retired.contains page = true
  · have hstay : s.retirePage page = s := if_pos (.inl hc)
    rw [hstay, hc]
  · obtain ⟨w, a, b, hw, hr⟩ : ∃ (w : State) (a b : Nat), s.retirePage page = (w.post 0x0901 a).report srcBist 0x21 b ∧ w.tm.anvil.retired = s.tm.anvil.retired ++ [page] := by
      unfold State.retirePage State.when
      dsimp only
      rw [if_neg (fun hor => hor.elim hc (Nat.not_le.mpr h))]
      refine ⟨_, _, _, rfl, ?_⟩
      split <;> rfl
    have htm : (s.retirePage page).tm = w.tm := by
      rw [hw, State.report_tm]
      exact (State.post_keeps (.rfl' .butTm w) _ _).tm rfl
    rw [htm, hr]
    exact List.contains_iff_mem.mpr (List.mem_append_right _ (List.mem_singleton.mpr rfl))

/-- What a failing page's frames lose, in one queue. -/
def State.pageHit (s : State) (t q pg kind : Nat) : State :=
  match (s.voq t q).pages.findIdx? (fun p => decide (p = pg)) with
  | none => s
  | some k =>
    let s1 := if kind = 0x0D then s.recLost t q ((s.voq t q).gone + k) else s.loseFrom t q (((s.voq t q).gone + k + 1) * 4080)
    ((s1.settlePages t q).voqNorm t q).pgScan t

theorem State.pageHit_spare (t q pg kind n : Nat) : (s.pageHit t q pg kind).rd .spareAnvil n = s.rd .spareAnvil n := by
  have htail : ∀ v : State, (((v.settlePages t q).voqNorm t q).pgScan t).rd .spareAnvil n = v.rd .spareAnvil n := fun v =>
    (State.pgScan_keeps (State.voqNorm_keeps (State.settlePages_keeps (.rfl' (.avoid [.spareAnvil]) v) t q) t q) t).rd .spareAnvil n 0 rfl
  have hrec : ∀ k, (s.recLost t q k).rd .spareAnvil n = s.rd .spareAnvil n := fun k =>
    (State.recLost_keeps (.rfl' (.avoid [.spareAnvil]) s) t q k).rd .spareAnvil n 0 rfl
  have hlose : ∀ k, (s.loseFrom t q k).rd .spareAnvil n = s.rd .spareAnvil n := fun k =>
    (State.loseFrom_keeps (.rfl' (.avoid [.spareAnvil]) s) t q k).rd .spareAnvil n 0 rfl
  unfold State.pageHit
  split
  · rfl
  · dsimp only
    rw [htail]
    split
    · exact hrec _
    · exact hlose _

theorem State.pageFails_retired {n kind : Nat} (addr : Nat) (h : s.fget F.spareAnvil_PAGES_RETIRED n < 16384) :
    (s.pageFails n addr kind).tm.anvil.retired.contains (n * 786432 + addr % 786432) = true := by
  obtain ⟨v, hv⟩ : ∃ v, v = s.each s.tm.tiles fun b s => s.each (s.buf b.1).voqs fun e s => s.pageHit b.1 e.1 (n * 786432 + addr % 786432) kind := ⟨_, rfl⟩
  have hspare : v.rd .spareAnvil n = s.rd .spareAnvil n := by
    rw [hv]
    exact State.each_view (fun u => u.rd .spareAnvil n) fun b u => State.each_view (fun u => u.rd .spareAnvil n) fun e u => u.pageHit_spare _ _ _ _ n
  have hrun : s.pageFails n addr kind = ((v.bump .cntDataErr).retirePage (n * 786432 + addr % 786432)).drainCheck := by rw [hv]; rfl
  have hchip : (n * 786432 + addr % 786432) / 786432 = n := by omega
  rw [hrun, State.drainCheck_tm]
  refine State.retirePage_retired _ ?_
  rw [hchip]
  have hbump : (v.bump .cntDataErr).fget F.spareAnvil_PAGES_RETIRED n = v.fget F.spareAnvil_PAGES_RETIRED n := rfl
  rw [hbump, fget_of_rd F.spareAnvil_PAGES_RETIRED hspare]
  exact h

/-- What a lost channel takes of one queue. -/
def State.channelHit (s : State) (t q n : Nat) : State :=
  match (s.voq t q).pages.findIdx? (fun p => decide (p / 786432 = n)) with
  | some k => (((s.loseFrom t q (((s.voq t q).gone + k) * 4080)).settlePages t q).voqNorm t q).pgScan t
  | none => s

theorem State.channelHit_active (t q n : Nat) : (s.channelHit t q n).rd .chActive = s.rd .chActive := by
  unfold State.channelHit
  split
  · exact (State.pgScan_keeps (State.voqNorm_keeps (State.settlePages_keeps (State.loseFrom_keeps (.rfl' (.avoid [.chActive]) s) _ _ _) _ _) _ _) _).rd .chActive 0 0 rfl
  · rfl

theorem State.channelLost_active {n : Nat} (hn : n < 32) : ((s.channelLost n).rd .chActive).getLsbD n = false := by
  obtain ⟨v, hv⟩ : ∃ v, v = s.wr .chActive (s.rd .chActive &&& ~~~(BitVec.ofNat 32 (2 ^ n))) := ⟨_, rfl⟩
  have hrun : s.channelLost n = (v.each v.tm.tiles fun b s => s.each (s.buf b.1).voqs fun e s => s.channelHit b.1 e.1 n).drainCheck := by rw [hv]; rfl
  have hdrain : ∀ w : State, w.drainCheck.rd .chActive = w.rd .chActive := fun w => (State.drainCheck_keeps (.rfl' (.avoid [.chActive]) w)).rd .chActive 0 0 rfl
  have heach : (v.each v.tm.tiles fun b s => s.each (s.buf b.1).voqs fun e s => s.channelHit b.1 e.1 n).rd .chActive = v.rd .chActive :=
    State.each_view (fun u => u.rd .chActive) fun b u => State.each_view (fun u => u.rd .chActive) fun e u => u.channelHit_active _ _ n
  have hbit : (BitVec.ofNat 32 (2 ^ n)).getLsbD n = true := by rw [BitVec.getLsbD_ofNat, Nat.testBit_two_pow_self, decide_eq_true hn]; rfl
  rw [hrun, hdrain, heach, hv, rd_wr_same, BitVec.getLsbD_and, BitVec.getLsbD_not, hbit]
  simp

theorem State.chSafe_spec {n : Nat} (hn : n < 32) : (s.chSafe n).flag F.anvChStatus_SAFE n = true ∧ ((s.chSafe n).rd .chActive).getLsbD n = false := by
  refine ⟨?_, State.channelLost_active _ hn⟩
  obtain ⟨v, hv⟩ : ∃ v, v = s.fset F.anvChStatus_SAFE 1 n := ⟨_, rfl⟩
  have hrun : s.chSafe n = (v.abortIf 16 (fun x => decide (x.index = n))).channelLost n := by rw [hv]; rfl
  have hk : Keeps (.avoid [.anvChStatus]) v ((v.abortIf 16 (fun x => decide (x.index = n))).channelLost n) :=
    State.channelLost_keeps (State.abortIf_keeps (.rfl' _ v) _ _) n
  rw [hrun, flag_of_rd F.anvChStatus_SAFE (hk.rd _ n 0 rfl), hv]
  exact flag_fset_one _ _ _ _ (by decide) (by decide)

end

/-! ## The safe state by source and kind -/

section
variable (s : State) {src kind : Nat} (addr : Nat)

theorem unitSafe_lane (h : src < 0x200) (hk : kind ≠ 2) : s.unitSafe src kind addr =
    ((s.when (decide (kind = 1)) (fun s => s.setLane (src / 8 * 8) { s.lane (src / 8 * 8) with pllLost := true })).laneSafe src).abortIf (17 + src / 64)
      (fun x => decide (x.cls = 6) && decide (x.index = src % 64)) := by
  unfold State.unitSafe
  dsimp only
  rw [if_pos h, if_neg hk]

theorem unitSafe_port (h : 0x200 ≤ src) (h' : src < 0x400) (hk : kind ≠ 2) : s.unitSafe src kind addr = s.portSafe (src - 0x200) := by
  unfold State.unitSafe
  dsimp only
  rw [if_neg (by omega), if_pos h', if_neg hk]

/-- The privileged sources have no corrected error of their own. -/
theorem kindsOf_privileged : ∀ k : Fin 16, (kindsOf (0x800 + k.val)).contains 2 = false := by decide

theorem block_of_corrected (h : (kindsOf src).contains 2 = true) : src / 16 ≠ 0x80 := fun hb => by
  have hk := kindsOf_privileged ⟨src - 0x800, by omega⟩
  rw [show 0x800 + (⟨src - 0x800, by omega⟩ : Fin 16).val = src by show 0x800 + (src - 0x800) = src; omega, h] at hk
  exact Bool.noConfusion hk

/-- A corrected error leaves the unit as it is. -/
theorem unitSafe_corrected (h : (kindsOf src).contains 2 = true) : s.unitSafe src 2 addr = s := by
  have hb := block_of_corrected h
  unfold State.unitSafe
  dsimp only
  rw [if_pos rfl, if_pos rfl]
  split
  · rfl
  · split
    · rfl
    · split
      case h_21 => contradiction
      case h_22 => rfl
      all_goals omega

/-! ### By the block of the source -/

theorem unitSafe_voq (h : src / 16 = 0x40) : s.unitSafe src 0x0C addr = s.voqSafe (src % 16) (if bitAt addr 12 then 4096 + addr % 128 else addr % 4096) := by
  unfold State.unitSafe
  dsimp only
  rw [if_neg (by omega), if_neg (by omega), h]
  rfl

theorem unitSafe_cell (h : src / 16 = 0x41) : s.unitSafe src 0x0A addr = s.cellOut (src % 16) (addr % 65536) := by
  unfold State.unitSafe
  dsimp only
  rw [if_neg (by omega), if_neg (by omega), h]
  rfl

theorem unitSafe_freed (h : src / 16 = 0x41) : s.unitSafe src 0x0B addr = s.bump .cntDoubleFree (src % 16) := by
  unfold State.unitSafe
  dsimp only
  rw [if_neg (by omega), if_neg (by omega), h]
  rfl

theorem unitSafe_table (h : src / 16 = 0x42) : s.unitSafe src 5 addr = s.tblDrop (s.namedTid (bits addr 43 36) (addr % 2 ^ 32)) (addr % 2 ^ 32) := by
  unfold State.unitSafe
  dsimp only
  rw [if_neg (by omega), if_neg (by omega), h]
  rfl

theorem unitSafe_bank (h : src / 16 = 0x42) : s.unitSafe src 6 addr = s.bankSafe (src % 16) (bits addr 37 36) (addr % 64) := by
  unfold State.unitSafe
  dsimp only
  rw [if_neg (by omega), if_neg (by omega), h]
  rfl

theorem unitSafe_word (h : src / 16 = 0x43) : s.unitSafe src 7 addr = s.setPipe (src % 16) { s.pipe (src % 16) with csErr := tset (s.pipe (src % 16)).csErr (addr % 32768) 0 2 } := by
  unfold State.unitSafe
  dsimp only
  rw [if_neg (by omega), if_neg (by omega), h]
  rfl

theorem unitSafe_link (h : src / 16 = 0x44) : s.unitSafe src 0x13 addr = s.linkOut (src % 16) (addr % 32) := by
  unfold State.unitSafe
  dsimp only
  rw [if_neg (by omega), if_neg (by omega), h]
  rfl

theorem unitSafe_pcie (h : src / 16 = 0x4A) : s.unitSafe src 1 addr = s.pcieFault := by
  unfold State.unitSafe
  dsimp only
  rw [if_neg (by omega), if_neg (by omega), h]
  rfl

theorem unitSafe_pcie_fatal (h : src / 16 = 0x4A) : s.unitSafe src 3 addr = s.pcieFault := by
  unfold State.unitSafe
  dsimp only
  rw [if_neg (by omega), if_neg (by omega), h]
  rfl

/-- A channel of Anvil by its source. -/
theorem channel_of_source (h : src / 16 = 0x46 ∨ src / 16 = 0x47) : (src / 16 = 0x46 ∧ src - 0x460 = src % 16) ∨ (src / 16 = 0x47 ∧ src - 0x460 = 16 + src % 16) := by
  omega

theorem unitSafe_page (h : src / 16 = 0x46 ∨ src / 16 = 0x47) (hk : kind = 0x0D ∨ kind = 0x0E) :
    s.unitSafe src kind addr = s.pageFails (src - 0x460) addr kind := by
  unfold State.unitSafe
  dsimp only
  rw [if_neg (by omega), if_neg (by omega)]
  obtain ⟨h, hn⟩ | ⟨h, hn⟩ := channel_of_source h
  · rw [h, hn]
    obtain rfl | rfl := hk <;> rfl
  · rw [h, hn]
    obtain rfl | rfl := hk <;> rfl

theorem unitSafe_channel (h : src / 16 = 0x46 ∨ src / 16 = 0x47) (hk : kind = 1 ∨ kind = 0x0F) : s.unitSafe src kind addr = s.chSafe (src - 0x460) := by
  unfold State.unitSafe
  dsimp only
  rw [if_neg (by omega), if_neg (by omega)]
  obtain ⟨h, hn⟩ | ⟨h, hn⟩ := channel_of_source h
  · rw [h, hn]
    obtain rfl | rfl := hk <;> rfl
  · rw [h, hn]
    obtain rfl | rfl := hk <;> rfl

theorem unitSafe_root : s.unitSafe 0x802 kind addr = { s.fset F.sqStatus_OSC_FALLBACK 1 with boot := { s.boot with rootLocked := false } } := by
  unfold State.unitSafe
  dsimp only
  rw [if_neg (by decide), if_neg (by decide)]
  rfl

end

/-! ## The clauses of a detected fault -/

section
variable {s : State} {src kind addr : Nat}

theorem faulted_sent (haddr : addr < 2 ^ 48) (h : s.inFlight src < 4) : ∃ m more, (s.faulted src kind addr).squall.flight = s.squall.flight ++ m :: more ∧
    m.source = src ∧ m.kind = kind ∧ m.sev = sevOf src kind ∧ m.addr = addr ∧ m.stamp = s.stamp := by
  obtain ⟨own, hown⟩ := s.report_sent kind addr h
  obtain ⟨more, hmore⟩ := ((Grows.refl (s.report src kind addr)).unitSafe (src := src) (kind := kind) (addr := addr)).flight
  refine ⟨{ source := src, kind := kind, sev := sevOf src kind, addr := addr % 2 ^ 48, stamp := s.stamp, safe := decide (sevOf src kind = 2), own := own },
    more, ?_, rfl, rfl, rfl, Nat.mod_eq_of_lt haddr, rfl⟩
  unfold State.faulted
  rw [← hmore, hown, List.append_assoc]
  rfl

theorem faulted_lost (h : 4 ≤ s.inFlight src) : ((s.faulted src kind addr).rd .pend (src / 32)).getLsbD (src % 32) = true :=
  ((Grows.refl (s.report src kind addr)).unitSafe (src := src) (kind := kind) (addr := addr)).pend _ _ (s.report_lost_spec kind addr h).1

theorem faulted_corrected (h : 4 ≤ s.inFlight src) (hk : (kindsOf src).contains 2 = true) :
    (s.faulted src 2 addr).rdw .cntMsgLost = s.rdw .cntMsgLost + 1#64 ∧ (s.faulted src 2 addr).squall.flight = s.squall.flight := by
  unfold State.faulted
  rw [unitSafe_corrected _ _ hk]
  exact (s.report_lost_spec 2 addr h).2

theorem report_portState (p : Nat) : (s.report src kind addr).fget F.portStatus_STATE p = s.fget F.portStatus_STATE p :=
  fget_of_rd F.portStatus_STATE (s.report_onlyRegs src kind addr _ p 0 (by decide))

theorem faulted_port (h : 0x200 ≤ src) (h' : src < 0x400) :
    (s.fget F.portStatus_STATE (src - 0x200) ∈ [0, 9] → (s.faulted src 3 addr).fget F.portStatus_STATE (src - 0x200) = s.fget F.portStatus_STATE (src - 0x200)) ∧
    (s.fget F.portStatus_STATE (src - 0x200) ∉ [0, 9] → (s.faulted src 3 addr).fget F.portStatus_STATE (src - 0x200) = 8) := by
  have hst := report_portState (s := s) (src := src) (kind := 3) (addr := addr) (src - 0x200)
  unfold State.faulted
  rw [unitSafe_port _ addr h h' (by decide)]
  refine ⟨fun hm => ?_, fun hm => State.portSafe_state _ (by rw [hst]; exact hm)⟩
  rw [State.portSafe_stays _ (by rw [hst]; exact hm), hst]

/-- A lane's PLL lost on kind 1. -/
def State.pllMarked (s : State) (src kind : Nat) : State :=
  s.when (decide (kind = 1)) (fun s => s.setLane (src / 8 * 8) { s.lane (src / 8 * 8) with pllLost := true })

theorem pllMarked_rd (v : State) (n : RName) (i j : Nat) : (v.pllMarked src kind).rd n i j = v.rd n i j := by
  unfold State.pllMarked State.when
  split <;> rfl

theorem faulted_lane (h : src < 0x200) (hk : kind ≠ 2) {p w : Nat} (hp : s.portOfLane src = some (p, w)) (h0 : s.fget F.portStatus_STATE p ≠ 0) :
    (s.faulted src kind addr).fget F.portStatus_STATE p = 8 := by
  obtain ⟨v, hv⟩ : ∃ v, v = (s.report src kind addr).pllMarked src kind := ⟨_, rfl⟩
  have hrd : ∀ n i j, n ∉ [RName.sqStatus, .cntMsgLost, .pend] → v.rd n i j = s.rd n i j := fun n i j hn => by
    rw [hv, pllMarked_rd]
    exact s.report_onlyRegs src kind addr n i j hn
  have hst : ∀ q, v.fget F.portStatus_STATE q = s.fget F.portStatus_STATE q := fun q => fget_of_rd F.portStatus_STATE (hrd _ _ _ (by decide))
  have hport : v.portOfLane src = some (p, w) := by
    rw [State.portOfLane_congr src (fun q => hrd _ _ _ (by decide)) fun q => by rw [hst q]]
    exact hp
  have h9 : s.fget F.portStatus_STATE p ≠ 9 := by
    have hfind := List.find?_some hp
    simp only [Bool.and_eq_true, decide_eq_true_eq] at hfind
    exact hfind.1.2
  have hsafe : v.laneSafe src = v.portSafe p := by
    unfold State.laneSafe
    rw [hport]
  have hrun : s.faulted src kind addr = (v.laneSafe src).abortIf (17 + src / 64) (fun x => decide (x.cls = 6) && decide (x.index = src % 64)) := by
    rw [hv]
    exact unitSafe_lane _ addr h hk
  have habort : ∀ (x : State) (d : Nat) (f : Slice → Bool), (x.abortIf d f).fget F.portStatus_STATE p = x.fget F.portStatus_STATE p := fun x d f =>
    (State.abortIf_keeps (.rfl' (.avoid [.portStatus]) x) d f).fget F.portStatus_STATE p 0 rfl
  rw [hrun, habort, hsafe]
  refine State.portSafe_state _ ?_
  rw [hst]
  intro hm
  rcases List.mem_cons.mp hm with e | e
  · exact h0 e
  · exact h9 (List.mem_singleton.mp e)

theorem faulted_pll (h : src < 0x200) : (s.faulted src 1 addr).pllLost (src / 8 * 8) = true := by
  obtain ⟨v, hv⟩ : ∃ v, v = (s.report src 1 addr).pllMarked src 1 := ⟨_, rfl⟩
  have hrun : s.faulted src 1 addr = (v.laneSafe src).abortIf (17 + src / 64) (fun x => decide (x.cls = 6) && decide (x.index = src % 64)) := by
    rw [hv]
    exact unitSafe_lane _ addr h (by decide)
  have habort : ∀ (x : State) (d : Nat) (f : Slice → Bool), (x.abortIf d f).link = x.link := fun x d f =>
    (State.abortIf_keeps (.rfl' { Touch.all with link := false } x) d f).link rfl
  have hmark : v.pllLost (src / 8 * 8) = true := by
    rw [hv]
    unfold State.pllMarked State.pllLost
    rw [decide_eq_true rfl, State.when_true, State.setLane_lane]
  rw [hrun, pll_of_link (habort _ _ _), State.laneSafe_pll, hmark]

theorem faulted_pcie (hk : kind = 1 ∨ kind = 3) : (s.faulted 0x4A0 kind addr).host.recoveries = s.host.recoveries + 1 ∧
    (s.faulted 0x4A0 kind addr).host.aerInternal = true := by
  have hrun : s.faulted 0x4A0 kind addr = (s.report 0x4A0 kind addr).pcieFault := by
    obtain rfl | rfl := hk
    · exact unitSafe_pcie _ addr (by decide)
    · exact unitSafe_pcie_fatal _ addr (by decide)
  have hhost : (s.report 0x4A0 kind addr).host = s.host := (State.report_keeps (.rfl' .butHost s) 0x4A0 kind addr).hostAll rfl rfl
  have hrec : (s.report 0x4A0 kind addr).pcieFault.host.recoveries = (s.report 0x4A0 kind addr).host.recoveries + 1 := rfl
  rw [hrun]
  exact ⟨by rw [hrec, hhost], rfl⟩

theorem faulted_freed (h : src / 16 = 0x41) : (s.faulted src 0x0B addr).rdw .cntDoubleFree (src % 16) = s.rdw .cntDoubleFree (src % 16) + 1#64 := by
  unfold State.faulted
  rw [unitSafe_freed _ addr h, rdw_bump_same, s.report_onlyWide src 0x0B addr .cntDoubleFree (src % 16) 0 (by decide)]

theorem report_namedTid (tid i : Nat) : (s.report src kind addr).namedTid tid i = s.namedTid tid i := by
  unfold State.namedTid
  rw [State.report_te]

theorem bits_tid (a : Nat) : bits a 43 36 = a / 2 ^ 36 % 256 := by
  unfold bits
  rw [Nat.shiftRight_eq_div_pow]
  rfl

theorem bits_mem (a : Nat) : bits a 37 36 = a / 2 ^ 36 % 4 := by
  unfold bits
  rw [Nat.shiftRight_eq_div_pow]
  rfl

theorem faulted_table (h : src / 16 = 0x42) (hk : tidKind (s.namedTid (addr / 2 ^ 36 % 256) (addr % 2 ^ 32)) = 1) {e : EmEntry}
    (he : s.emAt (addr % 2 ^ 32) = some e) (hp : e.p0 = e.p1) : (s.faulted src 5 addr).emAt (addr % 2 ^ 32) = none := by
  have hat : (s.report src 5 addr).emAt (addr % 2 ^ 32) = s.emAt (addr % 2 ^ 32) := by
    unfold State.emAt
    rw [State.report_te]
  unfold State.faulted
  rw [unitSafe_table _ addr h, report_namedTid, bits_tid]
  exact State.tblDrop_entry _ hk (hat.trans he) hp

theorem faulted_word (h : src / 16 = 0x43) : tget ((s.faulted src 7 addr).pipe (src % 16)).csErr (addr % 32768) 0 = 2 := by
  unfold State.faulted
  rw [unitSafe_word _ addr h]
  unfold State.pipe State.setPipe
  dsimp only
  rw [tget_tset_same, tget_tset_same]

theorem faulted_page (h : src / 16 = 0x46 ∨ src / 16 = 0x47) (hk : kind = 0x0D ∨ kind = 0x0E)
    (hroom : s.fget F.spareAnvil_PAGES_RETIRED (src - 0x460) < 16384) :
    (s.faulted src kind addr).tm.anvil.retired.contains ((src - 0x460) * 786432 + addr % 786432) = true := by
  unfold State.faulted
  rw [unitSafe_page _ addr h hk]
  refine State.pageFails_retired _ addr ?_
  rw [fget_of_rd F.spareAnvil_PAGES_RETIRED (s.report_onlyRegs src kind addr _ _ 0 (by decide))]
  exact hroom

theorem faulted_link (h : src / 16 = 0x44) (hleft : s.fget F.spareTile_XLINK_LEFT (src % 16) ≠ 0) :
    (s.faulted src 0x13 addr).fget F.spareTile_XLINK_LEFT (src % 16) = s.fget F.spareTile_XLINK_LEFT (src % 16) - 1 ∧
    (s.faulted src 0x13 addr).rd .spareXlink (src % 16) = s.rd .spareXlink (src % 16) := by
  have hx : (s.report src 0x13 addr).fget F.spareTile_XLINK_LEFT (src % 16) = s.fget F.spareTile_XLINK_LEFT (src % 16) :=
    fget_of_rd F.spareTile_XLINK_LEFT (s.report_onlyRegs src 0x13 addr _ _ 0 (by decide))
  obtain ⟨h1, h2⟩ := State.linkOut_spec (s.report src 0x13 addr) (addr % 32) (by rw [hx]; exact hleft)
  unfold State.faulted
  rw [unitSafe_link _ addr h]
  exact ⟨h1.trans (by rw [hx]), h2.trans (s.report_onlyRegs src 0x13 addr _ _ 0 (by decide))⟩

theorem faulted_root : (s.faulted 0x802 kind addr).flag F.sqStatus_OSC_FALLBACK = true ∧ (s.faulted 0x802 kind addr).boot.rootLocked = false := by
  unfold State.faulted
  rw [unitSafe_root]
  exact ⟨flag_fset_one (s.report 0x802 kind addr) F.sqStatus_OSC_FALLBACK 0 0 rfl (by decide), rfl⟩

end

/-! ## A failing table word, and the relock (R205, R515) -/

theorem tblBad_spec (s : State) (t tid i : Nat) : (s.tblBad t tid i).wordBad t tid i = true ∧
    (s.tblBad t tid i).rdw .ttParityCnt t = s.rdw .ttParityCnt t + 1#64 ∧ (s.tblBad t tid i).te.em = s.te.em ∧
    (s.inFlight (srcTable t) < 4 → ∃ m, (s.tblBad t tid i).squall.flight = s.squall.flight ++ [m] ∧ m.source = srcTable t ∧ m.kind = 4) := by
  obtain ⟨u, hu⟩ : ∃ u, u = if s.wordBad t tid i then s else { s with te := { s.te with bad := s.te.bad ++ [(t, tid, i)] } } := ⟨_, rfl⟩
  have hsame : u.te.em = s.te.em ∧ u.squall = s.squall ∧ u.rdw .ttParityCnt t = s.rdw .ttParityCnt t := by
    rw [hu]
    split <;> exact ⟨rfl, rfl, rfl⟩
  obtain ⟨hem, hq, hcnt⟩ := hsame
  have hrun : s.tblBad t tid i = (u.bump .ttParityCnt t).report (srcTable t) 0x04 (tblAddr t tid i) := by rw [hu]; rfl
  refine ⟨(s.tblBad_wordBad t tid i).1, ?_, ?_, fun h => ?_⟩
  · rw [hrun, State.report_onlyWide _ _ _ _ .ttParityCnt t 0 (by decide), rdw_bump_same, hcnt]
  · rw [hrun, State.report_te]
    exact hem
  · have hroom : (u.bump .ttParityCnt t).inFlight (srcTable t) < 4 := by
      unfold State.inFlight
      show (u.squall.flight.filter _).length < 4
      rw [hq]
      exact h
    obtain ⟨own, hown⟩ := (u.bump .ttParityCnt t).report_sent 4 (tblAddr t tid i) hroom
    refine ⟨{ source := srcTable t, kind := 4, sev := sevOf (srcTable t) 4, addr := tblAddr t tid i % 2 ^ 48, stamp := (u.bump .ttParityCnt t).stamp, safe := decide (sevOf (srcTable t) 4 = 2), own := own }, ?_, rfl, rfl⟩
    rw [hrun, hown]
    show u.squall.flight ++ _ = _
    rw [hq]

/-- A double free that the tile does not report, over the numbers of a command. -/
theorem freedTwice_iff {s : State} {src : Fin 4096} {kind : Fin 256} :
    s.freedTwice src kind ↔ src.val / 16 = 0x41 ∧ kind = 0x0B ∧ s.flag F.bpmCtl_DF_REPORT (src % 16) = false := by
  unfold State.freedTwice
  rw [Fin.ext_iff (a := kind)]
  rfl

theorem faultDetect_unseen {s : State} {src : Fin 4096} {kind : Fin 256} {addr : BitVec 48} (hk : (kindsOf src).contains kind.val = true)
    (hf : s.freedTwice src kind) : ∃ u, exec (.faultDetect src kind addr) s = .next u ∧
    u.rdw .cntDoubleFree (src % 16) = s.rdw .cntDoubleFree (src % 16) + 1#64 ∧ u.squall = s.squall ∧ OnlyRegs [] s u ∧ OnlyWide [.cntDoubleFree] s u := by
  have ⟨hb, h0b, _⟩ := hf
  have h4 : kind ≠ 4 := fun e => absurd (h0b.symm.trans (congrArg Fin.val e)) (by decide)
  refine ⟨_, faultDetect_twice s hk h4 hf, ?_⟩
  rw [h0b, unitSafe_freed s addr.toNat hb]
  exact ⟨rdw_bump_same _ _ _ _ _, rfl, OnlyRegs.refl _ s, (OnlyWide.refl _ s).wrw _ _ _ List.mem_cons_self⟩

/-- Settles O53: a unit's safe state adds messages and takes none away, and each kind's effect stands in it. -/
theorem faultDetection : Obligations.FaultDetection := by
  intro s src kind addr
  refine ⟨faultDetect_none s, fun hk h4 => ?_, fun hk hb h0b hdf => faultDetect_unseen hk (freedTwice_iff.mpr ⟨hb, h0b, hdf⟩), fun hk h4 hno => ⟨_,
    faultDetect_unit s hk h4 (freedTwice_iff.not.mpr hno), fun hroom => faulted_sent addr.isLt hroom, fun hfull => ⟨faulted_lost hfull, fun h2 => ?_⟩,
    fun hlo hhi h3 => ?_, fun p w hlt h2 hp h0 => ?_, fun hlt h1 => ?_, fun hsrc h13 => ?_, fun hb hc => ?_, fun hb ha => ?_, fun hb h0b => ?_,
    fun hb h5 ht e he hp => ?_, fun hb h6 => ?_, fun hb h7 => ?_, fun hb hde hroom => ?_, fun hb h1f => ?_, fun hb h13 hleft => ?_, fun hsrc => ?_⟩, ?_⟩
  · have hrun := faultDetect_table s (addr := addr) hk h4
    rw [bits_tid] at hrun
    obtain ⟨hbad, hcnt, hem, hmsg⟩ := tblBad_spec s (src.val % 16) (s.namedTid (addr.toNat / 2 ^ 36 % 256) (addr.toNat % 2 ^ 32)) (addr.toNat % 2 ^ 32)
    exact ⟨_, hrun, hbad, hcnt, hem, hmsg⟩
  · subst h2
    exact faulted_corrected hfull hk
  · subst h3
    exact faulted_port hlo hhi
  · exact faulted_lane hlt (fun e => h2 (Fin.ext e)) hp h0
  · subst h1
    exact faulted_pll hlt
  · subst hsrc
    exact faulted_pcie (h13.imp (congrArg Fin.val) (congrArg Fin.val))
  · subst hc
    have hq := State.voqSafe_spec (s.report src 0x0C addr.toNat) (src.val % 16) (if bitAt addr.toNat 12 then 4096 + addr.toNat % 128 else addr.toNat % 4096)
    rw [← unitSafe_voq _ addr.toNat hb] at hq
    exact hq
  · subst ha
    have hc := (State.cellOut_withdrawn (s.report src 0x0A addr.toNat) (src.val % 16) (addr.toNat % 65536)).1
    rw [← unitSafe_cell _ addr.toNat hb] at hc
    exact hc
  · subst h0b
    exact faulted_freed hb
  · subst h5
    exact faulted_table hb ht he hp
  · subst h6
    have hbank := State.bankSafe_spec (s.report src 6 addr.toNat) (src.val % 16) (bits addr.toNat 37 36) (addr.toNat % 64)
    rw [← unitSafe_bank _ addr.toNat hb, bits_mem] at hbank
    exact hbank
  · subst h7
    exact faulted_word hb
  · exact faulted_page hb (hde.imp (congrArg Fin.val) (congrArg Fin.val)) hroom
  · have hn : src.val - 0x460 < 32 := by omega
    have hch := State.chSafe_spec (s.report src kind addr.toNat) hn
    rw [← unitSafe_channel _ addr.toNat hb (h1f.imp (congrArg Fin.val) (congrArg Fin.val))] at hch
    exact hch
  · subst h13
    exact faulted_link hb hleft
  · subst hsrc
    exact faulted_root
  · exact ⟨_, rfl, flag_fset_none s F.sqStatus_OSC_FALLBACK 0 0 rfl (by decide), rfl, (OnlyRegs.refl _ s).fset (f := F.sqStatus_OSC_FALLBACK) 0 0 0 (by decide)⟩

end Sys2Proof.Machine
end

section
/-!
PROOF. BIST slices: plans, single units, starts and the ends that neither pass nor fail (R519 to R522, R533).
-/

set_option Elab.async false
set_option exponentiation.threshold 4096
set_option maxRecDepth 20000

namespace Sys2Proof.Machine

/-! ## A write of BIST_CTL (R533) -/

section
variable (s : State)

/-- BIST_CTL written with a command. -/
def State.ctlSet (s : State) (v : Word) : State := s.wr .bistCtl (v &&& 0x1FFFFFC#32)

/-- A command's value in BIST_CTL. -/
def bistCmd (v : Word) (k : Nat) : Word := (v &&& 0xFFFFFFFC#32) ||| BitVec.ofNat 32 k

theorem bistCmd_mod (v : Word) {k : Nat} (h : k < 4) : (bistCmd v k).toNat % 4 = k := by
  have hand : (v &&& 0xFFFFFFFC#32).toNat % 2 ^ 2 = 0 := by
    rw [BitVec.toNat_and, Nat.and_mod_two_pow]
    exact Nat.and_zero _
  have hk : (BitVec.ofNat 32 k).toNat % 2 ^ 2 = k := by
    rw [BitVec.toNat_ofNat]
    omega
  unfold bistCmd
  rw [BitVec.toNat_or, show (4 : Nat) = 2 ^ 2 from rfl, Nat.or_mod_two_pow, hand, hk, Nat.zero_or]

theorem State.ctlSet_mask (v : Word) {k : Nat} (h : k < 4) : (s.ctlSet (bistCmd v k)).fget F.bistCtl_CLASS_MASK = bits v.toNat 9 2 := by
  have hk : (BitVec.ofNat 32 k).toNat >>> 2 = 0 := by
    rw [BitVec.toNat_ofNat, Nat.shiftRight_eq_div_pow]
    omega
  have hall : v.toNat >>> 2 % 2 ^ 8 < 2 ^ 8 := Nat.mod_lt _ (by decide)
  show bits ((s.ctlSet (bistCmd v k)).rd .bistCtl).toNat 9 2 = _
  unfold State.ctlSet bistCmd bits
  rw [rd_wr_same, BitVec.toNat_and, BitVec.toNat_or, BitVec.toNat_and, Nat.shiftRight_and_distrib, Nat.shiftRight_or_distrib, Nat.shiftRight_and_distrib, hk,
    Nat.or_zero, Nat.and_mod_two_pow, Nat.and_mod_two_pow]
  show v.toNat >>> 2 % 2 ^ 8 &&& (2 ^ 8 - 1) &&& (2 ^ 8 - 1) = _
  rw [Nat.and_two_pow_sub_one_of_lt_two_pow hall, Nat.and_two_pow_sub_one_of_lt_two_pow hall]

theorem State.ctlSet_only (v : Word) : OnlyRegs [.bistCtl] s (s.ctlSet v) := (OnlyRegs.refl _ s).wr _ 0 0 List.mem_cons_self

theorem bistRunPlan_at (v : Word) : exec (.bistRunPlan v) s = .next (s.ctlSet (bistCmd v 1)).runPlan := by
  show Host.Outcome.next (s.bistCtlWrite (bistCmd v 1)) = _
  unfold State.bistCtlWrite
  rw [bistCmd_mod v (k := 1) (by decide)]
  rfl

theorem bistRunOne_at (v : Word) : exec (.bistRunOne v) s = .next (s.ctlSet (bistCmd v 2)).runOne := by
  show Host.Outcome.next (s.bistCtlWrite (bistCmd v 2)) = _
  unfold State.bistCtlWrite
  rw [bistCmd_mod v (k := 2) (by decide)]
  rfl

theorem bistStop_at (v : Word) : exec (.bistStop v) s = .next (s.ctlSet (bistCmd v 3)).bistStop := by
  show Host.Outcome.next (s.bistCtlWrite (bistCmd v 3)) = _
  unfold State.bistCtlWrite
  rw [bistCmd_mod v (k := 3) (by decide)]
  rfl

end

/-! ## What decides on a slice (R520) -/

section
variable {s u : State} (h : OnlyRegs [.bistCtl] s u)
include h

theorem fget_of_ctl (f : Fld) (i j : Nat) (hf : f.reg ≠ .bistCtl) : u.fget f i j = s.fget f i j :=
  fget_of_rd f (h f.reg i j fun e => hf (List.mem_singleton.mp e))

theorem sharedFree_of_ctl (t : Nat) : u.sharedFree t = s.sharedFree t := by
  unfold State.sharedFree State.losslessPgs State.tilePorts State.lossless State.losslessMask State.pauseMode State.pgHeadroom State.widthOf State.hdrmUsed
    State.freeCells State.hz State.flag
  simp (disch := decide) only [fget_of_ctl h]

theorem unitOk_of_ctl (d c i : Nat) : u.unitOk d c i = s.unitOk d c i := by
  unfold State.unitOk State.tileOn State.hz State.flag
  simp (disch := decide) only [fget_of_ctl h]

theorem planOf_of_ctl (d m : Nat) : u.planOf d m = s.planOf d m := by
  unfold State.planOf
  have hok : ∀ c, u.unitOk d c = s.unitOk d c := fun c => funext fun i => unitOk_of_ctl h d c i
  simp only [hok]

theorem skips_of_ctl (hte : u.te = s.te) (d : Nat) (x : Slice) : u.skips d x = s.skips d x := by
  have hport : ∀ l, u.portOfLane l = s.portOfLane l := fun l =>
    State.portOfLane_congr l (fun q => h .portCfg q 0 (by decide)) fun q => by rw [fget_of_ctl h F.portStatus_STATE q 0 (by decide)]
  unfold State.skips State.flag
  simp (disch := decide) only [fget_of_ctl h, sharedFree_of_ctl h, hport, hte]

end

theorem mustWait_of_parts {s u : State} (hc : u.cirrus = s.cirrus) (hte : u.te = s.te) (d : Nat) (x : Slice) : u.mustWait d x = s.mustWait d x := by
  unfold State.mustWait State.runningIn State.pipe
  rw [hc, hte]

/-! ## Slices, what they show and the plan -/

section
variable (s : State)

theorem State.setSlice_slice (d : Nat) (v : Option Slice) : (s.setSlice d v).slice d = v := tget_tset_same s.squall.slices d none v

theorem State.setSlice_slice_ne {d e : Nat} (v : Option Slice) (h : e ≠ d) : (s.setSlice d v).slice e = s.slice e := tget_tset_ne _ _ _ _ h

theorem State.setSlice_bit {d : Nat} (x : Slice) (h : d < 32) : ((s.setSlice d (some x)).rd .bistStatus).getLsbD d = true := by
  unfold State.setSlice
  rw [rd_wr_same, BitVec.getLsbD_ofNat, testBit_setBits _ _ _ _ _ (Nat.le_refl d), if_pos ⟨Nat.le_refl d, Nat.le_refl d⟩, Nat.sub_self, decide_eq_true h]
  exact (Bool.true_and _).trans Nat.testBit_one_zero

theorem State.setSlice_only (d : Nat) (v : Option Slice) : OnlyRegs [.bistStatus] s (s.setSlice d v) := fun _ _ _ hn =>
  rd_wr_reg _ _ _ _ _ _ (List.ne_of_not_mem_cons hn)

theorem State.showSlice_result (d : Nat) (x : Slice) {res : Nat} (h : res < 8) : (s.showSlice d x res).fget F.bistResult_RESULT = res ∧
    (s.showSlice d x res).fget F.bistResult_CLASS = x.cls % 16 := by
  have hrd : (s.showSlice d x res).rd .bistResult = BitVec.ofNat 32 (res + x.cls * 8 + domUnit d * 128) :=
    (rd_wr_reg _ _ _ _ _ _ (by decide)).trans (rd_wr_same _ _ _ _ _)
  constructor
  · show bits ((s.showSlice d x res).rd .bistResult).toNat 2 0 = _
    rw [hrd, BitVec.toNat_ofNat]
    unfold bits
    rw [Nat.shiftRight_eq_div_pow]
    omega
  · show bits ((s.showSlice d x res).rd .bistResult).toNat 6 3 = _
    rw [hrd, BitVec.toNat_ofNat]
    unfold bits
    rw [Nat.shiftRight_eq_div_pow]
    omega

theorem State.planCheck_squall : s.planCheck.squall = s.squall := (State.planCheck_keeps (.rfl' { Touch.all with squall := false } s)).squall rfl

theorem State.planCheck_slice (d : Nat) : s.planCheck.slice d = s.slice d := by
  unfold State.slice
  rw [s.planCheck_squall]

theorem State.planCheck_only : OnlyRegs [.bistStatus, .cntEvLost, .cntEvDiscard] s s.planCheck := (State.planCheck_keeps (.rfl' (.onRegs _) s)).onlyRegs

theorem State.planCheck_onlyWide : OnlyWide [.bistStatus, .cntEvLost, .cntEvDiscard] s s.planCheck := (State.planCheck_keeps (.rfl' (.onRegs _) s)).onlyWide

theorem State.planCheck_busy (h : s.flag F.bistStatus_PLAN = false) : s.planCheck = s := if_neg fun hc => Bool.false_ne_true (h.symm.trans hc.1)

theorem State.post_plan (x y : Nat) : (s.post x y).flag F.bistStatus_PLAN = s.flag F.bistStatus_PLAN :=
  (State.post_keeps (.rfl' (.avoid [.bistStatus]) s) x y).flag F.bistStatus_PLAN 0 0 rfl

theorem State.planCheck_over (hp : s.squall.plan = []) (hs : s.squall.slices = []) : s.planCheck.flag F.bistStatus_PLAN = false := by
  by_cases hf : s.flag F.bistStatus_PLAN = true
  · have hrun : s.planCheck = (s.fset F.bistStatus_PLAN 0).post 0x0903 (s.fget F.bistCtl_CLASS_MASK) := if_pos ⟨hf, by rw [hp]; rfl, by rw [hs]; rfl⟩
    rw [hrun, State.post_plan]
    exact flag_fset_none s F.bistStatus_PLAN 0 0 rfl (by decide)
  · rw [s.planCheck_busy (Bool.eq_false_iff.mpr hf)]
    exact Bool.eq_false_iff.mpr hf

end

/-! ## A slice starts (R519, R520) -/

section
variable (s : State)

theorem State.claimUnit_squall (d : Nat) (x : Slice) : (s.claimUnit d x).squall = s.squall :=
  (State.claimUnit_keeps (.rfl' { Touch.all with squall := false } s) d x).squall rfl

/-- A slice as it runs: the role its pipe had is kept. -/
def State.running (s : State) (d : Nat) (x : Slice) : Slice := { x with prior := if x.cls = 0 then s.fget F.pipeStatus_ROLE d x.index else 0 }

theorem State.claim_slice (d : Nat) (x : Slice) : (s.claim d x).slice d = some (s.running d x) := (s.claimUnit d x).setSlice_slice d _

theorem State.claim_plan (d : Nat) (x : Slice) : (s.claim d x).squall.plan = s.squall.plan := by
  show (s.claimUnit d x).squall.plan = s.squall.plan
  rw [s.claimUnit_squall d x]

theorem State.claim_bit {d : Nat} (x : Slice) (h : d < 32) : ((s.claim d x).rd .bistStatus).getLsbD d = true := (s.claimUnit d x).setSlice_bit _ h

/-- The threads of a pipe that is claimed are abandoned. -/
def State.pipeCleared (s : State) (d k : Nat) : State := s.each (s.runningIn d) (fun e s => if e.2.thread.pipe = k then s.abandon d e.1 4 else s)

theorem State.pipeCleared_rd (d k i j : Nat) : (s.pipeCleared d k).rd .pipeStatus i j = s.rd .pipeStatus i j :=
  State.each_view (fun v : State => v.rd .pipeStatus i j) fun e v => by
    split
    · exact (State.abandon_keeps (.rfl' (.avoid [.pipeStatus]) v) d e.1 4).rd .pipeStatus i j rfl
    · rfl

theorem regKey_pipe_ne {t k : Nat} (h : k < 8) : regKey .pipeStatus t k ≠ regKey .pipeStatus t 8 := fun e => by
  have := (regKey_inj e).2.2
  omega

/-- A pipe is claimed, and the free spare stands in. -/
theorem State.claim_pipe {d : Nat} {x : Slice} (hc : x.cls = 0) (h8 : s.fget F.pipeStatus_ROLE d 8 = 1) (hr : s.fget F.pipeStatus_ROLE d x.index = 0)
    (hk : x.index < 8) : (s.claim d x).fget F.pipeStatus_ROLE d x.index = 3 ∧ (s.claim d x).fget F.pipeStatus_ROLE d 8 = 2 ∧
      (s.claim d x).fget F.pipeStatus_STANDIN d 8 = x.index := by
  obtain ⟨w, hw⟩ : ∃ w, w = (s.pipeCleared d x.index).setRole d x.index 3 0 := ⟨_, rfl⟩
  have hunit : s.claimUnit d x = w.setRole d 8 2 x.index := by
    have hif : s.spareFree d = true ∧ x.index ≠ 8 ∧ s.fget F.pipeStatus_ROLE d x.index = 0 := ⟨decide_eq_true h8, by omega, hr⟩
    unfold State.claimUnit
    rw [hc, hw]
    exact if_pos hif
  have hrd : ∀ i j, (s.claim d x).rd .pipeStatus i j = (w.setRole d 8 2 x.index).rd .pipeStatus i j := fun i j => by
    unfold State.claim
    rw [State.setSlice_only _ _ _ _ i j (by decide), hunit]
  refine ⟨?_, ?_, ?_⟩
  · rw [fget_of_rd F.pipeStatus_ROLE (hrd _ _), fget_of_rd F.pipeStatus_ROLE (w.setRole_other 2 x.index (regKey_pipe_ne hk)), hw]
    exact State.setRole_role _ d x.index 0 (by decide)
  · rw [fget_of_rd F.pipeStatus_ROLE (hrd _ _)]
    exact w.setRole_role d 8 x.index (by decide)
  · rw [fget_of_rd F.pipeStatus_STANDIN (hrd _ _)]
    exact w.setRole_standin d 8 2 (by omega)

variable {s} {d : Nat} {x : Slice} {done : State → State}

theorem State.takeUnit_skips (h : s.skips d x = true) : s.takeUnit d x done = (done ((s.showSlice d x 2).bump .cntBistSkip)).planCheck := if_pos h

theorem State.takeUnit_waits (h : s.skips d x = false) (hw : s.mustWait d x = true) : s.takeUnit d x done = (done s).setSlice d (some { x with wait := true }) :=
  (if_neg (Bool.eq_false_iff.mp h)).trans (if_pos hw)

theorem State.takeUnit_claims (h : s.skips d x = false) (hw : s.mustWait d x = false) : s.takeUnit d x done = (done s).claim d x :=
  (if_neg (Bool.eq_false_iff.mp h)).trans (if_neg (Bool.eq_false_iff.mp hw))

/-- A unit that is skipped shows its result and is counted. -/
theorem State.takeUnit_skip_spec (hr : ∀ v n i j, (done v).rd n i j = v.rd n i j) (hw : ∀ v n i j, (done v).rdw n i j = v.rdw n i j)
    (h : s.skips d x = true) : (s.takeUnit d x done).fget F.bistResult_RESULT = 2 ∧ (s.takeUnit d x done).fget F.bistResult_CLASS = x.cls % 16 ∧
      (s.takeUnit d x done).rdw .cntBistSkip = s.rdw .cntBistSkip + 1#64 ∧
      (s.takeUnit d x done).squall = (done ((s.showSlice d x 2).bump .cntBistSkip)).squall := by
  obtain ⟨v, hv⟩ : ∃ v, v = (s.showSlice d x 2).bump .cntBistSkip := ⟨_, rfl⟩
  have hshow : v.rd .bistResult = (s.showSlice d x 2).rd .bistResult := by
    rw [hv]
    rfl
  have hrd : (done v).planCheck.rd .bistResult = (s.showSlice d x 2).rd .bistResult :=
    ((State.planCheck_only _ _ _ _ (by decide)).trans (hr v _ _ _)).trans hshow
  have hcnt : v.rdw .cntBistSkip = s.rdw .cntBistSkip + 1#64 := by
    rw [hv]
    exact rdw_bump_same (s.showSlice d x 2) .cntBistSkip 0 0 1
  obtain ⟨h1, h2⟩ := s.showSlice_result d x (res := 2) (by decide)
  rw [State.takeUnit_skips h, ← hv]
  exact ⟨(fget_of_rd F.bistResult_RESULT hrd).trans h1, (fget_of_rd F.bistResult_CLASS hrd).trans h2,
    (State.planCheck_onlyWide _ _ _ _ (by decide)).trans ((hw v _ _ _).trans hcnt), State.planCheck_squall _⟩

/-- A unit that is taken has its slice, which waits where its claim must. -/
theorem State.takeUnit_taken (h : s.skips d x = false) (hx : x.wait = false) : ∃ y, (s.takeUnit d x done).slice d = some y ∧ y.cls = x.cls ∧ y.index = x.index ∧
    y.wait = s.mustWait d x ∧ (s.takeUnit d x done).squall.plan = (done s).squall.plan ∧ (d < 32 → ((s.takeUnit d x done).rd .bistStatus).getLsbD d = true) := by
  cases hw : s.mustWait d x with
  | true =>
    rw [State.takeUnit_waits h hw]
    exact ⟨_, State.setSlice_slice _ d _, rfl, rfl, rfl, rfl, State.setSlice_bit _ _⟩
  | false =>
    rw [State.takeUnit_claims h hw]
    exact ⟨_, State.claim_slice _ d x, rfl, rfl, hx, State.claim_plan _ d x, State.claim_bit _ x⟩

end

/-! ## A slice ends (R519, R521) -/

section
variable (s : State)

/-- A slice's end before the plan is looked at. -/
def State.ended (s : State) (d : Nat) (x : Slice) (res : Nat) : State := (((s.restoreUnit d x).setSlice d none).showSlice d x res).bump .cntSlices

theorem State.endSlice_some {d : Nat} {x : Slice} (res : Nat) (h : s.slice d = some x) : s.endSlice d res = (s.ended d x res).planCheck := by
  unfold State.endSlice
  rw [h]
  rfl

theorem State.endSlice_none {d : Nat} (res : Nat) (h : s.slice d = none) : s.endSlice d res = s := by
  unfold State.endSlice
  rw [h]

theorem State.restoreUnit_squall (d : Nat) (x : Slice) : (s.restoreUnit d x).squall = s.squall :=
  (State.restoreUnit_keeps (.rfl' { Touch.all with squall := false } s) d x).squall rfl

theorem State.ended_squall (d : Nat) (x : Slice) (res : Nat) : (s.ended d x res).squall = { s.squall with slices := tset s.squall.slices d none none } := by
  rw [← s.restoreUnit_squall d x]
  rfl

theorem State.ended_slice (d : Nat) (x : Slice) (res : Nat) : (s.ended d x res).slice d = none := (s.restoreUnit d x).setSlice_slice d none

theorem State.ended_slice_ne {d e : Nat} (x : Slice) (res : Nat) (h : e ≠ d) : (s.ended d x res).slice e = s.slice e := by
  unfold State.slice
  rw [s.ended_squall d x res]
  exact tget_tset_ne s.squall.slices none none none h

/-- The registers that a slice's end writes. -/
def endRegs : List RName := [.bistStatus, .bistResult, .bistResIndex, .cirrusStatus, .pipeStatus, .bpmStatus, .pgStatus3, .grpFree]

theorem State.ended_rd (d : Nat) (x : Slice) (res : Nat) {n : RName} (i j : Nat) (hn : n ∉ [RName.bistStatus, .bistResult, .bistResIndex]) :
    (s.ended d x res).rd n i j = (s.restoreUnit d x).rd n i j := by
  have h2 := List.not_mem_of_not_mem_cons hn
  exact (rd_wr_reg _ _ _ _ _ _ (List.ne_of_not_mem_cons (List.not_mem_of_not_mem_cons h2))).trans
    ((rd_wr_reg _ _ _ _ _ _ (List.ne_of_not_mem_cons h2)).trans (rd_wr_reg _ _ _ _ _ _ (List.ne_of_not_mem_cons hn)))

theorem State.ended_only (d : Nat) (x : Slice) (res : Nat) : OnlyRegs endRegs s (s.ended d x res) := fun n i j hn =>
  (s.ended_rd d x res i j fun hm => hn (List.mem_append_left [RName.cirrusStatus, .pipeStatus, .bpmStatus, .pgStatus3, .grpFree] hm)).trans
    ((State.restoreUnit_keeps (.rfl' (.onRegs endRegs) s) d x).onlyRegs n i j hn)

theorem State.ended_result (d : Nat) (x : Slice) {res : Nat} (h : res < 8) : (s.ended d x res).fget F.bistResult_RESULT = res ∧
    (s.ended d x res).fget F.bistResult_CLASS = x.cls % 16 := State.showSlice_result _ d x h

theorem State.ended_counts (d : Nat) (x : Slice) (res : Nat) : (s.ended d x res).rdw .cntSlices = s.rdw .cntSlices + 1#64 ∧
    ∀ n i, n ≠ .cntSlices → n ∉ endRegs → (s.ended d x res).rdw n i = s.rdw n i := by
  obtain ⟨w, hw⟩ : ∃ w, w = (((s.restoreUnit d x).setSlice d none).showSlice d x res) := ⟨_, rfl⟩
  have hwide : ∀ n i, n ∉ endRegs → w.rdw n i = s.rdw n i := fun n i hn => by
    rw [hw]
    exact (State.restoreUnit_keeps (.rfl' (.onRegs endRegs) s) d x).onlyWide n i 0 hn
  unfold State.ended
  rw [← hw]
  exact ⟨(rdw_bump_same _ _ _ _ _).trans (by rw [hwide _ _ (by decide)]), fun n i h hn => (rdw_bump_reg _ _ _ _ _ _ h).trans (hwide n i hn)⟩

theorem State.ended_boot (d : Nat) (x : Slice) (res : Nat) : (s.ended d x res).boot = s.boot :=
  (State.restoreUnit_keeps (.rfl' { Touch.all with boot := false } s) d x).boot rfl

theorem State.planCheck_boot : s.planCheck.boot = s.boot := (State.planCheck_keeps (.rfl' { Touch.all with boot := false } s)).boot rfl

/-- The spare that stood in for a claimed pipe is free again. -/
theorem State.restore_pipe {d : Nat} {x : Slice} (hc : x.cls = 0) (hw : x.wait = false) (hp : x.prior = 0) (hk : x.index < 8)
    (h8 : s.fget F.pipeStatus_ROLE d 8 = 2) (hs : s.fget F.pipeStatus_STANDIN d 8 = x.index) :
    (s.restoreUnit d x).fget F.pipeStatus_ROLE d x.index = 0 ∧ (s.restoreUnit d x).fget F.pipeStatus_ROLE d 8 = 1 := by
  obtain ⟨w, hw'⟩ : ∃ w, w = s.setRole d x.index 0 0 := ⟨_, rfl⟩
  have hne : x.index ≠ 8 := by omega
  have hrd : w.rd .pipeStatus d 8 = s.rd .pipeStatus d 8 := by
    rw [hw']
    exact s.setRole_other 0 0 (regKey_pipe_ne hk).symm
  have hunit : s.restoreUnit d x = w.setRole d 8 1 0 := by
    have hif : x.prior = 0 ∧ w.fget F.pipeStatus_ROLE d 8 = 2 ∧ w.fget F.pipeStatus_STANDIN d 8 = x.index ∧ x.index ≠ 8 :=
      ⟨hp, (fget_of_rd F.pipeStatus_ROLE hrd).trans h8, (fget_of_rd F.pipeStatus_STANDIN hrd).trans hs, hne⟩
    have hfor : ∀ a : Nat, (if x.index = 8 ∧ x.prior = 2 then a else 0) = 0 := fun a => if_neg fun e => hne e.1
    unfold State.restoreUnit
    rw [hw, if_neg Bool.false_ne_true, hc]
    dsimp only
    rw [hfor, hp, ← hw']
    rw [hp] at hif
    exact if_pos hif
  rw [hunit]
  refine ⟨?_, w.setRole_role d 8 0 (by decide)⟩
  rw [fget_of_rd F.pipeStatus_ROLE (w.setRole_other 1 0 (regKey_pipe_ne hk)), hw']
  exact s.setRole_role d x.index 0 (by decide)

/-! ### STOP (R533) -/

theorem State.setSlice_plan {d : Nat} (v : Option Slice) (h : d < 25) : (s.setSlice d v).flag F.bistStatus_PLAN = s.flag F.bistStatus_PLAN := by
  obtain ⟨w, hw, hsame⟩ : ∃ w : State, s.setSlice d v = w.fset ⟨.bistStatus, d, d⟩ (b2n v.isSome) ∧ w.flag F.bistStatus_PLAN = s.flag F.bistStatus_PLAN :=
    ⟨{ s with squall := { s.squall with slices := tset s.squall.slices d none v } }, rfl, rfl⟩
  rw [hw, ← hsame]
  exact flag_fset_off w _ _ _ _ _ (Nat.le_refl d) (Nat.lt_trans h (by decide)) fun _ => .inl h

theorem State.ended_plan {d : Nat} (x : Slice) (res : Nat) (h : d < 25) : (s.ended d x res).flag F.bistStatus_PLAN = s.flag F.bistStatus_PLAN := by
  obtain ⟨w, hw⟩ : ∃ w, w = (s.restoreUnit d x).setSlice d none := ⟨_, rfl⟩
  have hshow : (s.ended d x res).flag F.bistStatus_PLAN = w.flag F.bistStatus_PLAN := by
    rw [hw]
    exact flag_of_rd F.bistStatus_PLAN ((rd_wr_reg _ _ _ _ _ _ (by decide)).trans (rd_wr_reg _ _ _ _ _ _ (by decide)))
  rw [hshow, hw, State.setSlice_plan _ none h]
  exact (State.restoreUnit_keeps (.rfl' (.avoid [.bistStatus]) s) d x).flag F.bistStatus_PLAN 0 0 rfl

/-- The plan is over. -/
def State.planOver (s : State) : Prop := s.flag F.bistStatus_PLAN = false ∧ s.squall.plan = []

variable {s}

theorem State.planOver.endSlice {d : Nat} (res : Nat) (hd : d < 25) (h : s.planOver) : (s.endSlice d res).planOver ∧ (s.endSlice d res).slice d = none ∧
    ∀ e, e ≠ d → (s.endSlice d res).slice e = s.slice e := by
  cases hx : s.slice d with
  | none =>
    rw [s.endSlice_none res hx]
    exact ⟨h, hx, fun _ _ => rfl⟩
  | some x =>
    have hflag := (s.ended_plan x res hd).trans h.1
    rw [s.endSlice_some res hx, State.planCheck_busy _ hflag]
    exact ⟨⟨hflag, by rw [s.ended_squall d x res]; exact h.2⟩, s.ended_slice d x res, fun e he => s.ended_slice_ne x res he⟩

theorem State.planOver.stopped (h : s.planOver) : ∀ n, n ≤ 25 → (forN n (fun d s => s.endSlice d 4) s).planOver ∧
    ∀ e, e < n → (forN n (fun d s => s.endSlice d 4) s).slice e = none
  | 0, _ => ⟨h, fun _ he => absurd he (Nat.not_lt_zero _)⟩
  | n + 1, hn => by
    obtain ⟨hover, hnone⟩ := State.planOver.stopped h n (Nat.le_of_succ_le hn)
    obtain ⟨hstep, hself, hother⟩ := hover.endSlice 4 (d := n) hn
    rw [forN_succ]
    refine ⟨hstep, fun e he => ?_⟩
    by_cases hen : e = n
    · rw [hen]
      exact hself
    · rw [hother e hen]
      exact hnone e (by omega)

variable (s)

theorem State.bistStop_spec : s.bistStop.planOver ∧ ∀ e, e < 25 → s.bistStop.slice e = none :=
  State.planOver.stopped (s := ({ s with squall := { s.squall with plan := [] } } : State).fset F.bistStatus_PLAN 0)
    ⟨flag_fset_none ({ s with squall := { s.squall with plan := [] } } : State) F.bistStatus_PLAN 0 0 rfl (by decide), rfl⟩ 25 (Nat.le_refl 25)

end

/-! ## Plans (R522, R533) -/

section
variable (s : State)

/-- A domain's plan set. -/
def State.planSet (s : State) (d : Nat) (l : List Slice) : State := { s with squall := { s.squall with plan := tset s.squall.plan d [] l } }

/-- The plans of the first `n` domains for a class mask. -/
def State.plansMade (s : State) (m n : Nat) : State := forN n (fun d t => t.planSet d (s.planOf d m)) s

theorem State.plansMade_succ (m n : Nat) : s.plansMade m (n + 1) = (s.plansMade m n).planSet n (s.planOf n m) := forN_succ _ _ _

theorem State.plansMade_rest (m : Nat) : ∀ n, (s.plansMade m n).squall.slices = s.squall.slices ∧ ∀ r i j, (s.plansMade m n).rd r i j = s.rd r i j
  | 0 => ⟨rfl, fun _ _ _ => rfl⟩
  | n + 1 => by
    rw [s.plansMade_succ m n]
    exact State.plansMade_rest m n

theorem State.plansMade_plan (m : Nat) : ∀ n d, d < n → tget (s.plansMade m n).squall.plan d [] = s.planOf d m
  | n + 1, d, h => by
    rw [s.plansMade_succ m n]
    unfold State.planSet
    by_cases hd : d = n
    · rw [hd]
      exact tget_tset_same _ _ _ _
    · exact (tget_tset_ne _ _ _ _ hd).trans (State.plansMade_plan m n d (by omega))

theorem State.plansMade_empty {m : Nat} (h : s.squall.plan = []) : ∀ n, (∀ d, d < n → s.planOf d m = []) → (s.plansMade m n).squall.plan = []
  | 0, _ => h
  | n + 1, hd => by
    have hplan : (s.plansMade m n).squall.plan = [] := State.plansMade_empty h n fun d hlt => hd d (Nat.lt_succ_of_lt hlt)
    rw [s.plansMade_succ m n]
    unfold State.planSet
    dsimp only
    rw [hplan, hd n (Nat.lt_succ_self n)]
    rfl

/-- A plan under way, made for the first `n` domains. -/
def State.planOn (s : State) (m n : Nat) : State := ((s.plansMade m n).fset F.bistStatus_PLAN 1).planCheck

variable {s}

theorem runPlan_busy (h : s.flag F.bistStatus_PLAN = true) : s.runPlan = s := if_pos h

theorem runPlan_idle (h : s.flag F.bistStatus_PLAN = false) :
    s.runPlan = s.planOn (s.fget F.bistCtl_CLASS_MASK) 25 := if_neg (Bool.eq_false_iff.mp h)

theorem planOn_spec (s : State) (m n : Nat) : (s.planOn m n).fget F.bistCtl_CLASS_MASK = s.fget F.bistCtl_CLASS_MASK ∧
    (∀ d, d < n → tget (s.planOn m n).squall.plan d [] = s.planOf d m) ∧ (s.planOn m n).squall.slices = s.squall.slices ∧
    ((∀ d, d < n → s.planOf d m = []) → s.squall.slices = [] → s.squall.plan = [] → (s.planOn m n).flag F.bistStatus_PLAN = false) := by
  obtain ⟨hslices, hrd⟩ := s.plansMade_rest m n
  have hplan := s.plansMade_plan m n
  have hempty := fun hp => s.plansMade_empty (m := m) hp n
  unfold State.planOn
  obtain ⟨w, hw⟩ : ∃ w, w = s.plansMade m n := ⟨_, rfl⟩
  rw [← hw] at hslices hrd hplan hempty ⊢
  obtain ⟨v, hv⟩ : ∃ v, v = w.fset F.bistStatus_PLAN 1 := ⟨_, rfl⟩
  have hvq : v.squall = w.squall := by rw [hv, State.fset_squall]
  have hvr : v.rd .bistCtl = w.rd .bistCtl := by
    rw [hv]
    exact rd_fset_reg w _ 0 0 0 0 (by decide)
  rw [← hv, State.planCheck_squall, hvq]
  refine ⟨?_, hplan, hslices, fun hd hs hp => v.planCheck_over (by rw [hvq]; exact hempty hp hd) (by rw [hvq, hslices]; exact hs)⟩
  exact (fget_of_rd F.bistCtl_CLASS_MASK (v.planCheck_only .bistCtl 0 0 (by decide))).trans
    ((fget_of_rd F.bistCtl_CLASS_MASK hvr).trans (fget_of_rd F.bistCtl_CLASS_MASK (hrd _ _ _)))

end

/-- A run of RUN_PLAN: the plan under way where none was. -/
theorem runPlan_spec {s : State} (h : s.flag F.bistStatus_PLAN = false) : s.runPlan.fget F.bistCtl_CLASS_MASK = s.fget F.bistCtl_CLASS_MASK ∧
    (∀ d, d < 25 → tget s.runPlan.squall.plan d [] = s.planOf d (s.fget F.bistCtl_CLASS_MASK)) ∧ s.runPlan.squall.slices = s.squall.slices ∧
    ((∀ d, d < 25 → s.planOf d (s.fget F.bistCtl_CLASS_MASK) = []) → s.squall.slices = [] → s.squall.plan = [] → s.runPlan.flag F.bistStatus_PLAN = false) := by
  rw [runPlan_idle h]
  exact planOn_spec s _ 25

/-! ## Single units (R522, R533) -/

section
variable (s : State)

/-- The unit that BIST_UNIT and BIST_INDEX name. -/
def State.oneCls (s : State) : Nat := s.fget F.bistUnit_CLASS
def State.oneDom (s : State) : Nat := domOf s.oneCls (s.fget F.bistUnit_DOMAIN)
def State.oneSlice (s : State) : Slice := { cls := s.oneCls, index := if s.oneCls = 7 then 0 else s.fget F.bistIndex_INDEX }

/-- The unit that is named is not tested: its domain runs a slice, or it is none. -/
def State.oneBarred (s : State) : Bool := (s.slice s.oneDom).isSome || !s.unitOk s.oneDom s.oneCls s.oneSlice.index

theorem runOne_eq : s.runOne = if s.oneBarred then s else s.takeUnit s.oneDom s.oneSlice id := rfl

theorem State.oneDom_lt : s.oneDom < 25 := by
  have hdom : s.fget F.bistUnit_DOMAIN < 16 := Nat.mod_lt _ (by decide)
  unfold State.oneDom domOf
  split
  · decide
  · split <;> omega

variable {s} {u : State} (h : OnlyRegs [.bistCtl] s u) (hq : u.squall = s.squall)
include h

theorem oneDom_of_ctl : u.oneDom = s.oneDom ∧ u.oneSlice = s.oneSlice ∧ u.oneCls = s.oneCls := by
  have hcls : u.oneCls = s.oneCls := fget_of_ctl h F.bistUnit_CLASS 0 0 (by decide)
  unfold State.oneDom State.oneSlice
  rw [hcls, fget_of_ctl h F.bistUnit_DOMAIN 0 0 (by decide), fget_of_ctl h F.bistIndex_INDEX 0 0 (by decide)]
  exact ⟨rfl, rfl, rfl⟩

include hq

theorem oneBarred_of_ctl : u.oneBarred = s.oneBarred := by
  obtain ⟨h1, h2, h3⟩ := oneDom_of_ctl h
  unfold State.oneBarred State.slice
  rw [h1, h2, h3, hq, unitOk_of_ctl h]

end

theorem runOne_barred {s : State} (h : s.oneBarred = true) : s.runOne = s := (runOne_eq s).trans (if_pos h)

theorem runOne_taken {s : State} (h : s.oneBarred = false) : s.runOne = s.takeUnit s.oneDom s.oneSlice id := (runOne_eq s).trans (if_neg (Bool.eq_false_iff.mp h))

theorem oneBarred_of {s : State} (h : s.slice s.oneDom = none) (hok : s.unitOk s.oneDom s.oneCls s.oneSlice.index = true) : s.oneBarred = false := by
  unfold State.oneBarred
  rw [h, hok]
  rfl

section
variable {s : State} (v : Word)

/-- RUN_ONE of a unit that cannot be taken. -/
theorem runOne_ignored (h : (s.slice s.oneDom).isSome = true ∨ s.unitOk s.oneDom s.oneCls s.oneSlice.index = false) :
    ∃ u, exec (.bistRunOne v) s = .next u ∧ u.squall = s.squall ∧ OnlyRegs [.bistCtl] s u := by
  have hbar : s.oneBarred = true := by
    unfold State.oneBarred
    obtain h | h := h <;> rw [h]
    · rfl
    · exact Bool.or_true _
  have honly := s.ctlSet_only (bistCmd v 2)
  refine ⟨s.ctlSet (bistCmd v 2), ?_, rfl, honly⟩
  rw [bistRunOne_at, runOne_barred ((oneBarred_of_ctl honly rfl).trans hbar)]

/-- RUN_ONE of a unit that can be taken. -/
theorem runOne_run (h : s.slice s.oneDom = none) (hok : s.unitOk s.oneDom s.oneCls s.oneSlice.index = true) :
    exec (.bistRunOne v) s = .next ((s.ctlSet (bistCmd v 2)).takeUnit s.oneDom s.oneSlice id) ∧
    (∀ x, (s.ctlSet (bistCmd v 2)).skips s.oneDom x = s.skips s.oneDom x) ∧ ∀ x, (s.ctlSet (bistCmd v 2)).mustWait s.oneDom x = s.mustWait s.oneDom x := by
  have honly := s.ctlSet_only (bistCmd v 2)
  obtain ⟨h1, h2, -⟩ := oneDom_of_ctl honly
  refine ⟨?_, skips_of_ctl honly rfl _, mustWait_of_parts rfl rfl _⟩
  rw [bistRunOne_at, runOne_taken ((oneBarred_of_ctl honly rfl).trans (oneBarred_of h hok)), h1, h2]

theorem runOne_starts (h : s.slice s.oneDom = none) (hok : s.unitOk s.oneDom s.oneCls s.oneSlice.index = true) (hs : s.skips s.oneDom s.oneSlice = false) :
    ∃ u x, exec (.bistRunOne v) s = .next u ∧ u.slice s.oneDom = some x ∧ x.cls = s.oneCls ∧ x.index = s.oneSlice.index ∧
      x.wait = s.mustWait s.oneDom s.oneSlice ∧ (u.rd .bistStatus).getLsbD s.oneDom = true ∧
      (s.mustWait s.oneDom s.oneSlice = true → u.te = s.te ∧ OnlyRegs [.bistCtl, .bistStatus] s u) := by
  obtain ⟨hrun, hskips, hwaits⟩ := runOne_run v h hok
  have honly := s.ctlSet_only (bistCmd v 2)
  obtain ⟨y, hy, hcls, hix, hwait, -, hbit⟩ := State.takeUnit_taken (done := id) ((hskips _).trans hs) rfl
  refine ⟨_, y, hrun, hy, hcls, hix, hwait.trans (hwaits _), hbit (Nat.lt_trans s.oneDom_lt (by decide)), fun hw => ?_⟩
  rw [State.takeUnit_waits ((hskips _).trans hs) ((hwaits _).trans hw)]
  refine ⟨rfl, fun n i j hn => ?_⟩
  exact (State.setSlice_only _ _ _ n i j (List.not_mem_of_not_mem_cons hn)).trans (honly n i j fun hm => hn (List.mem_append_left [RName.bistStatus] hm))

theorem runOne_skipped (h : s.slice s.oneDom = none) (hok : s.unitOk s.oneDom s.oneCls s.oneSlice.index = true) (hs : s.skips s.oneDom s.oneSlice = true) :
    ∃ u, exec (.bistRunOne v) s = .next u ∧ u.fget F.bistResult_RESULT = 2 ∧ u.fget F.bistResult_CLASS = s.oneCls ∧
      u.rdw .cntBistSkip = s.rdw .cntBistSkip + 1#64 ∧ u.slice s.oneDom = none := by
  obtain ⟨hrun, hskips, -⟩ := runOne_run v h hok
  obtain ⟨hres, hcls, hcnt, hq⟩ := State.takeUnit_skip_spec (done := id) (fun _ _ _ _ => rfl) (fun _ _ _ _ => rfl) ((hskips _).trans hs)
  have hlt : s.oneCls < 16 := Nat.mod_lt _ (by decide)
  refine ⟨_, hrun, hres, hcls.trans (Nat.mod_eq_of_lt hlt), hcnt, ?_⟩
  unfold State.slice
  rw [hq]
  exact h

/-! ## The next slice of a plan (R522) -/

variable {d : Fin 25}

theorem sliceStart_some {x : Slice} (h : s.slice d = some x) : exec (.bistSliceStart d) s =
    .next (if x.wait = true ∧ s.mustWait d x = false then s.claim d { x with wait := false } else s) := by
  show execBistSliceStart d s = _
  unfold execBistSliceStart
  rw [h]

theorem sliceStart_none (h : s.slice d = none) : exec (.bistSliceStart d) s = .next (if s.flag F.bistCtl_TRIG_EN then s else s.nextSlice d) := by
  show execBistSliceStart d s = _
  unfold execBistSliceStart
  rw [h]

theorem nextSlice_nil (h : tget s.squall.plan d [] = []) : s.nextSlice d = s := by
  unfold State.nextSlice
  rw [h]
  cases s.slice d <;> rfl

theorem nextSlice_cons {x : Slice} {rest : List Slice} (h : s.slice d = none) (hp : tget s.squall.plan d [] = x :: rest) :
    s.nextSlice d = s.takeUnit d x (fun s => s.planSet d rest) := by
  unfold State.nextSlice
  rw [h, hp]
  rfl

theorem sliceStart_next {x : Slice} {rest : List Slice} (h : s.slice d = none) (ht : s.flag F.bistCtl_TRIG_EN = false)
    (hp : tget s.squall.plan d [] = x :: rest) : exec (.bistSliceStart d) s = .next (s.takeUnit d x (fun s => s.planSet d rest)) := by
  rw [sliceStart_none h, ht, nextSlice_cons h hp]
  exact congrArg Host.Outcome.next (if_neg Bool.false_ne_true)

theorem planSet_plan (u : State) (k : Nat) (l : List Slice) : tget (u.planSet k l).squall.plan k [] = l := tget_tset_same _ _ _ _

theorem sliceStart_skipped {x : Slice} {rest : List Slice} (h : s.slice d = none) (ht : s.flag F.bistCtl_TRIG_EN = false)
    (hp : tget s.squall.plan d [] = x :: rest) (hs : s.skips d x = true) : ∃ u, exec (.bistSliceStart d) s = .next u ∧ u.slice d = none ∧
      u.fget F.bistResult_RESULT = 2 ∧ tget u.squall.plan d [] = rest ∧ u.rdw .cntBistSkip = s.rdw .cntBistSkip + 1#64 := by
  obtain ⟨hres, -, hcnt, hq⟩ := State.takeUnit_skip_spec (done := fun u => u.planSet d rest) (fun _ _ _ _ => rfl) (fun _ _ _ _ => rfl) hs
  refine ⟨_, sliceStart_next h ht hp, ?_, hres, ?_, hcnt⟩
  · unfold State.slice
    rw [hq]
    exact h
  · rw [hq]
    exact planSet_plan _ _ _

theorem sliceStart_taken {x : Slice} {rest : List Slice} (h : s.slice d = none) (ht : s.flag F.bistCtl_TRIG_EN = false)
    (hp : tget s.squall.plan d [] = x :: rest) (hx : x.wait = false) (hs : s.skips d x = false) :
    ∃ u y, exec (.bistSliceStart d) s = .next u ∧ u.slice d = some y ∧ y.cls = x.cls ∧ y.index = x.index ∧ y.wait = s.mustWait d x ∧
      tget u.squall.plan d [] = rest ∧
      (s.mustWait d x = false → x.cls = 0 → s.fget F.pipeStatus_ROLE d 8 = 1 → s.fget F.pipeStatus_ROLE d x.index = 0 → x.index < 8 →
        u.fget F.pipeStatus_ROLE d x.index = 3 ∧ u.fget F.pipeStatus_ROLE d 8 = 2 ∧ u.fget F.pipeStatus_STANDIN d 8 = x.index) := by
  obtain ⟨y, hy, hcls, hix, hwait, hplan, -⟩ := State.takeUnit_taken (done := fun u => u.planSet d rest) hs hx
  refine ⟨_, y, sliceStart_next h ht hp, hy, hcls, hix, hwait, by rw [hplan]; exact planSet_plan _ _ _, fun hw hc h8 hr hk => ?_⟩
  rw [State.takeUnit_claims hs hw]
  exact (s.planSet d rest).claim_pipe hc h8 hr hk

/-! ## A slice that times out (R521) -/

theorem sliceTimeout_spec {x : Slice} (h : s.slice d = some x) : ∃ u, exec (.bistSliceTimeout d) s = .next u ∧ u.slice d = none ∧
    u.fget F.bistResult_RESULT = 3 ∧ u.fget F.bistResult_CLASS = x.cls % 16 ∧ u.rdw .cntSlices = s.rdw .cntSlices + 1#64 ∧
    u.rdw .cntBistFail = s.rdw .cntBistFail ∧
    (x.cls = 0 → x.wait = false → x.prior = 0 → x.index < 8 → s.fget F.pipeStatus_ROLE d 8 = 2 → s.fget F.pipeStatus_STANDIN d 8 = x.index →
      u.fget F.pipeStatus_ROLE d x.index = 0 ∧ u.fget F.pipeStatus_ROLE d 8 = 1) := by
  have hrun : exec (.bistSliceTimeout d) s = .next (s.ended d x 3).planCheck := congrArg Host.Outcome.next (s.endSlice_some 3 h)
  have hrd : ∀ n i j, n ∉ [RName.bistStatus, .cntEvLost, .cntEvDiscard] → (s.ended d x 3).planCheck.rd n i j = (s.ended d x 3).rd n i j :=
    State.planCheck_only _
  have hrdw : ∀ n i j, n ∉ [RName.bistStatus, .cntEvLost, .cntEvDiscard] → (s.ended d x 3).planCheck.rdw n i j = (s.ended d x 3).rdw n i j :=
    State.planCheck_onlyWide _
  obtain ⟨hres, hcls⟩ := s.ended_result d x (res := 3) (by decide)
  obtain ⟨hcnt, hother⟩ := s.ended_counts d x 3
  refine ⟨_, hrun, (State.planCheck_slice _ _).trans (s.ended_slice d x 3), (fget_of_rd F.bistResult_RESULT (hrd _ _ _ (by decide))).trans hres,
    (fget_of_rd F.bistResult_CLASS (hrd _ _ _ (by decide))).trans hcls, (hrdw _ _ _ (by decide)).trans hcnt,
    (hrdw _ _ _ (by decide)).trans (hother _ _ (by decide) (by decide)), fun hc hw hp hk h8 hs => ?_⟩
  have hrole : ∀ j, (s.ended d x 3).planCheck.fget F.pipeStatus_ROLE d j = (s.restoreUnit d x).fget F.pipeStatus_ROLE d j := fun j =>
    fget_of_rd F.pipeStatus_ROLE ((hrd _ _ _ (by decide)).trans (s.ended_rd d x 3 _ _ (by decide)))
  rw [hrole, hrole]
  exact s.restore_pipe hc hw hp hk h8 hs

end

/-- What plans, single units, starts and time-outs do. -/
theorem bistSlices : Claims.BistSlices := by
  intro s v d
  refine ⟨fun hp => ⟨s.ctlSet (bistCmd v 1), ?_, rfl, s.ctlSet_only _⟩, fun hp => ?_, ⟨fun h => runOne_ignored v h, fun h hok hs => runOne_starts v h hok hs,
    fun h hok hs => runOne_skipped v h hok hs⟩, ?_, fun h ht => ?_, fun x h hw => ?_, fun x h hw hm => ?_, fun x rest h ht hp hx =>
    ⟨sliceStart_skipped h ht hp, sliceStart_taken h ht hp hx⟩, fun h => congrArg Host.Outcome.next (s.endSlice_none 3 h), fun x h => sliceTimeout_spec h⟩
  · rw [bistRunPlan_at, runPlan_busy]
    exact (flag_of_rd F.bistStatus_PLAN (s.ctlSet_only _ _ _ _ (by decide))).trans hp
  · have honly := s.ctlSet_only (bistCmd v 1)
    have hmask := s.ctlSet_mask v (k := 1) (by decide)
    obtain ⟨h1, h2, h3, h4⟩ := runPlan_spec ((flag_of_rd F.bistStatus_PLAN (honly _ _ _ (by decide))).trans hp)
    rw [hmask] at h1 h2 h4
    refine ⟨_, bistRunPlan_at s v, h1, (h2 d d.isLt).trans (planOf_of_ctl honly _ _), h3, fun hnone hs hpl => h4 (fun e he => ?_) hs hpl⟩
    exact (planOf_of_ctl honly _ _).trans (hnone ⟨e, he⟩)
  · obtain ⟨⟨hflag, hplan⟩, hnone⟩ := (s.ctlSet (bistCmd v 3)).bistStop_spec
    exact ⟨_, bistStop_at s v, hplan, fun e => hnone e e.isLt, hflag⟩
  · rw [sliceStart_none h]
    obtain ht | ht := ht
    · exact congrArg Host.Outcome.next (if_pos ht)
    · rw [nextSlice_nil ht, ite_self]
  · rw [sliceStart_some h]
    refine congrArg Host.Outcome.next (if_neg fun hand => ?_)
    obtain hw | hw := hw
    · exact Bool.false_ne_true (hw.symm.trans hand.1)
    · exact Bool.false_ne_true (hand.2.symm.trans hw)
  · rw [sliceStart_some h, if_pos ⟨hw, hm⟩]
    exact ⟨_, _, rfl, s.claim_slice d _, rfl, rfl, rfl, s.claim_plan d _⟩

end Sys2Proof.Machine
end

section
/-!
PROOF. BIST slices that end with a result: the words corrected, the unit's return, and what a failure does (R178, R519, R523 to R527).
-/

set_option Elab.async false
set_option exponentiation.threshold 4096
set_option maxRecDepth 20000

namespace Sys2Proof.Machine

/-! ## Words corrected in a control store (R178, R520) -/

section
variable (s : State)

/-- The state once the words that a control-store slice corrected are reported. -/
def State.checked (s : State) (d : Nat) (x : Slice) (fixed : List (Fin 1024)) : State :=
  if x.cls = 5 then s.each fixed (fun k s => s.csFixed d (x.index + k)) else s

variable {s} {d : Nat} {x : Slice} {fixed : List (Fin 1024)}

theorem checked_same (h : x.cls ≠ 5 ∨ fixed = []) : s.checked d x fixed = s := by
  unfold State.checked
  obtain h | h := h
  · exact if_neg h
  · rw [h, State.each_nil, ite_self]

variable (s d x fixed)

/-- What a report of corrected words leaves. -/
def Touch.wordsFixed : Touch := { Touch.onRegs [.sqStatus, .cntMsgLost, .pend] with te := false, tm := false, boot := false }

theorem State.checked_keeps : Keeps .wordsFixed s (s.checked d x fixed) := by
  unfold State.checked
  exact keeps_ite (State.each_keeps (.rfl' _ s) fun _ _ hv => State.csFixed_keeps hv d _) (.rfl' _ s)

theorem State.report_slices (src kind addr : Nat) : (s.report src kind addr).squall.slices = s.squall.slices := by
  obtain ⟨v, hv⟩ : ∃ v, v = s.masked src kind := ⟨_, rfl⟩
  have hsame : v.squall.slices = s.squall.slices := by
    rw [hv]
    unfold State.masked State.when
    dsimp only
    split <;> rfl
  obtain ⟨own, hown⟩ : ∃ own, s.report src kind addr = if (v.squall.flight.filter (fun m => decide (m.source = src))).length < 4 then
      { v with squall := { v.squall with flight := v.squall.flight ++
        [{ source := src, kind := kind, sev := sevOf src kind, addr := addr % 2 ^ 48, stamp := s.stamp, safe := decide (sevOf src kind = 2), own := own }] } }
      else (v.bump .cntMsgLost).setPend src := by
    rw [hv]
    exact ⟨_, rfl⟩
  rw [hown, ← hsame]
  split <;> rfl

/-- A word marked as corrected, before it is reported. -/
def State.csMarked (s : State) (t a : Nat) : State :=
  s.setPipe t { s.pipe t with csErr := tset (s.pipe t).csErr a 0 (max 1 (tget (s.pipe t).csErr a 0)) }

theorem csFixed_eq (t a : Nat) : s.csFixed t a = (s.csMarked t a).report (srcCirrus t) 0x02 (csAddr t 0xF a) := rfl

theorem State.csMarked_err (t a : Nat) : ((s.csMarked t a).pipe t).csErr = tset (s.pipe t).csErr a 0 (max 1 (tget (s.pipe t).csErr a 0)) := by
  unfold State.csMarked
  rw [State.setPipe_pipe]

theorem State.report_pipe (src kind addr t : Nat) : (s.report src kind addr).pipe t = s.pipe t := by
  have hc : (s.report src kind addr).cirrus = s.cirrus := (State.report_keeps (.rfl' .butCirrus s) src kind addr).cirrus rfl
  unfold State.pipe
  rw [hc]

theorem csFixed_err (t a : Nat) : ((s.csFixed t a).pipe t).csErr = tset (s.pipe t).csErr a 0 (max 1 (tget (s.pipe t).csErr a 0)) := by
  rw [csFixed_eq, State.report_pipe, State.csMarked_err]

theorem csFixed_marks (t a : Nat) : tget ((s.csFixed t a).pipe t).csErr a 0 ≠ 0 := by
  rw [csFixed_err, tget_tset_same]
  omega

theorem csFixed_holds (t a b : Nat) (h : tget (s.pipe t).csErr b 0 ≠ 0) : tget ((s.csFixed t a).pipe t).csErr b 0 ≠ 0 := by
  by_cases hb : b = a
  · rw [hb]
    exact csFixed_marks s t a
  · rw [csFixed_err, tget_tset_ne _ _ _ _ hb]
    exact h

theorem csFixed_rest (t a : Nat) : (s.csFixed t a).squall.slices = s.squall.slices ∧ (s.csFixed t a).squall.repairs = s.squall.repairs := by
  rw [csFixed_eq]
  exact ⟨(State.report_slices _ _ _ _).trans rfl, ((Grows.refl (s.csMarked t a)).report _ _ _).repairs.trans rfl⟩

theorem checked_rest : (s.checked d x fixed).squall.slices = s.squall.slices ∧ (s.checked d x fixed).squall.repairs = s.squall.repairs := by
  unfold State.checked
  split
  · exact State.each_ind (P := fun u => u.squall.slices = s.squall.slices ∧ u.squall.repairs = s.squall.repairs) ⟨rfl, rfl⟩ fun k u hu =>
      ⟨(csFixed_rest u d _).1.trans hu.1, (csFixed_rest u d _).2.trans hu.2⟩
  · exact ⟨rfl, rfl⟩

theorem checked_slice (e : Nat) : (s.checked d x fixed).slice e = s.slice e := by
  unfold State.slice
  rw [(checked_rest s d x fixed).1]

variable {s d x fixed}

theorem checked_marks (h : x.cls = 5) {k : Fin 1024} (hk : k ∈ fixed) : tget ((s.checked d x fixed).pipe d).csErr (x.index + k) 0 ≠ 0 := by
  unfold State.checked
  rw [if_pos h]
  exact State.each_sets (P := fun u => tget (u.pipe d).csErr (x.index + k) 0 ≠ 0) s hk (fun u => csFixed_marks u d _) fun b u hu => csFixed_holds u d _ _ hu

theorem bits_csAddr (t a : Nat) : bits (csAddr t 0xF a % 2 ^ 48) 43 40 = 0xF := by
  unfold bits csAddr
  rw [Nat.shiftRight_eq_div_pow]
  omega

theorem checked_report (h : x.cls = 5) {k : Fin 1024} (hf : fixed = [k]) (hroom : s.inFlight (srcCirrus d) < 4) :
    ∃ m, (s.checked d x fixed).squall.flight = s.squall.flight ++ [m] ∧ m.source = srcCirrus d ∧ m.kind = 2 ∧ bits m.addr 43 40 = 0xF := by
  have hrun : s.checked d x fixed = (s.csMarked d (x.index + k)).report (srcCirrus d) 0x02 (csAddr d 0xF (x.index + k)) := by
    unfold State.checked
    rw [if_pos h, hf]
    rfl
  obtain ⟨own, hown⟩ := (s.csMarked d (x.index + k)).report_sent 2 (csAddr d 0xF (x.index + k)) hroom
  rw [hrun, hown]
  exact ⟨_, rfl, rfl, rfl, bits_csAddr d _⟩

end

/-! ## The end of a slice's test (R519, R523) -/

section
variable {s : State} {d : Fin 25} {x : Slice} (ok : Bool) (loc : Nat) (fixed : List (Fin 1024))

/-- A failing slice's end, counted. -/
def State.failCounted (s : State) (d : Nat) (x : Slice) : State := (s.ended d x 1).bump .cntBistFail

/-- The same reported, before its unit's spare, repair or retirement. -/
def State.failed (s : State) (d : Nat) (x : Slice) : State :=
  (s.failCounted d x).report srcBist 0x20 (x.cls * 2 ^ 44 + domUnit d * 2 ^ 40 + x.index)

theorem sliceEnd_none (h : s.slice d = none) : exec (.bistSliceEnd d ok loc fixed) s = .next s := by
  show execBistSliceEnd d ok loc fixed s = _
  unfold execBistSliceEnd
  rw [h]

theorem sliceEnd_some (h : s.slice d = some x) : exec (.bistSliceEnd d ok loc fixed) s =
    .next (if x.wait = true ∨ (x.cls = 1 ∧ tget (s.checked d x fixed).te.claims d 0 = 1) then s.checked d x fixed
      else if ok then (s.checked d x fixed).endSlice d 0 else (((s.checked d x fixed).failed d x).unitFails d x loc).planCheck) := by
  show execBistSliceEnd d ok loc fixed s = _
  unfold execBistSliceEnd
  rw [h]
  rfl

theorem checked_te (d : Nat) : (s.checked d x fixed).te = s.te := (s.checked_keeps d x fixed).te rfl

theorem sliceEnd_held (h : s.slice d = some x) (hw : x.wait = true ∨ (x.cls = 1 ∧ tget s.te.claims d 0 = 1)) (hf : x.cls ≠ 5 ∨ fixed = []) :
    exec (.bistSliceEnd d ok loc fixed) s = .next s := by
  rw [sliceEnd_some ok loc fixed h, checked_same hf]
  exact congrArg Host.Outcome.next (if_pos hw)

variable (h : s.slice d = some x) (hw : x.wait = false) (hc : x.cls ≠ 1 ∨ tget s.te.claims d 0 ≠ 1)
include hw hc

theorem sliceEnd_runs : ¬ (x.wait = true ∨ (x.cls = 1 ∧ tget (s.checked d x fixed).te.claims d 0 = 1)) := by
  rw [checked_te fixed, hw]
  rintro (e | ⟨h1, h2⟩)
  · exact Bool.false_ne_true e
  · exact hc.elim (fun e => e h1) fun e => e h2

include h

theorem sliceEnd_pass : exec (.bistSliceEnd d true loc fixed) s = .next ((s.checked d x fixed).ended d x 0).planCheck := by
  have hx : (s.checked d x fixed).slice d = some x := (checked_slice s d x fixed d).trans h
  rw [sliceEnd_some true loc fixed h, if_neg (sliceEnd_runs fixed hw hc), if_pos rfl, State.endSlice_some _ 0 hx]

theorem sliceEnd_fail : exec (.bistSliceEnd d false loc fixed) s = .next (((s.checked d x fixed).failed d x).unitFails d x loc).planCheck := by
  rw [sliceEnd_some false loc fixed h, if_neg (sliceEnd_runs fixed hw hc), if_neg Bool.false_ne_true]

end

/-! ## PASS (R519) -/

section
variable {s : State} {d : Fin 25} {x : Slice} (fixed : List (Fin 1024))

theorem planCheck_keeps_pipe (s : State) (t : Nat) : s.planCheck.pipe t = s.pipe t := by
  have hc : s.planCheck.cirrus = s.cirrus := (State.planCheck_keeps (.rfl' .butCirrus s)).cirrus rfl
  unfold State.pipe
  rw [hc]

theorem ended_pipe (s : State) (d : Nat) (x : Slice) (res t : Nat) : (s.ended d x res).pipe t = s.pipe t := by
  have hc : (s.ended d x res).cirrus = s.cirrus := (State.restoreUnit_keeps (.rfl' .butCirrus s) d x).cirrus rfl
  unfold State.pipe
  rw [hc]

theorem ended_flight (s : State) (d : Nat) (x : Slice) (res : Nat) : (s.ended d x res).planCheck.squall.flight = s.squall.flight := by
  rw [State.planCheck_squall, s.ended_squall d x res]

theorem checked_wide (d : Nat) {n : RName} (hn : n ∉ [RName.sqStatus, .cntMsgLost, .pend]) (i j : Nat) : (s.checked d x fixed).rdw n i j = s.rdw n i j :=
  ((s.checked_keeps d x fixed).regs n i j (Touch.onRegs_has hn)).2

theorem checked_rd (d : Nat) {n : RName} (hn : n ∉ [RName.sqStatus, .cntMsgLost, .pend]) (i j : Nat) : (s.checked d x fixed).rd n i j = s.rd n i j :=
  ((s.checked_keeps d x fixed).regs n i j (Touch.onRegs_has hn)).1

/-- The end with PASS, of the state in which the words corrected are reported. -/
theorem passed_spec (c : State) (d : Nat) (x : Slice) : (c.ended d x 0).planCheck.slice d = none ∧ (c.ended d x 0).planCheck.fget F.bistResult_RESULT = 0 ∧
    (c.ended d x 0).planCheck.rdw .cntSlices = c.rdw .cntSlices + 1#64 ∧ (c.ended d x 0).planCheck.rdw .cntBistFail = c.rdw .cntBistFail ∧
    (c.ended d x 0).planCheck.boot = c.boot := by
  obtain ⟨hcnt, hother⟩ := c.ended_counts d x 0
  exact ⟨(State.planCheck_slice _ _).trans (c.ended_slice d x 0),
    (fget_of_rd F.bistResult_RESULT (State.planCheck_only _ _ _ _ (by decide))).trans (c.ended_result d x (res := 0) (by decide)).1,
    (State.planCheck_onlyWide _ _ _ _ (by decide)).trans hcnt,
    (State.planCheck_onlyWide _ _ _ _ (by decide)).trans (hother _ _ (by decide) (by decide)), (State.planCheck_boot _).trans (c.ended_boot d x 0)⟩

theorem sliceEnd_pass_spec (loc : Nat) (h : s.slice d = some x) (hw : x.wait = false) (hc : x.cls ≠ 1 ∨ tget s.te.claims d 0 ≠ 1) :
    ∃ u, exec (.bistSliceEnd d true loc fixed) s = .next u ∧ u.slice d = none ∧ u.fget F.bistResult_RESULT = 0 ∧
      u.rdw .cntSlices = s.rdw .cntSlices + 1#64 ∧ u.rdw .cntBistFail = s.rdw .cntBistFail ∧
      (x.cls ≠ 5 ∨ fixed = [] → u.squall.flight = s.squall.flight) ∧ u.boot.fuses = s.boot.fuses ∧
      (x.cls = 5 → ∀ k ∈ fixed, tget (u.pipe d).csErr (x.index + k) 0 ≠ 0) ∧
      (∀ k, x.cls = 5 → fixed = [k] → (s.squall.flight.filter (fun m => decide (m.source = srcCirrus d))).length < 4 →
        ∃ m, u.squall.flight = s.squall.flight ++ [m] ∧ m.source = srcCirrus d ∧ m.kind = 2 ∧ bits m.addr 43 40 = 0xF) := by
  obtain ⟨hslice, hres, hcnt, hfail, hboot⟩ := passed_spec (s.checked d x fixed) d x
  refine ⟨_, sliceEnd_pass loc fixed h hw hc, hslice, hres, hcnt.trans ?_, hfail.trans (checked_wide fixed d (by decide) 0 0), fun hf => ?_, ?_,
    fun h5 k hk => ?_, fun k h5 hf hroom => ?_⟩
  · rw [checked_wide fixed d (by decide)]
  · rw [ended_flight, checked_same hf]
  · rw [hboot, (s.checked_keeps d x fixed).boot rfl]
  · rw [planCheck_keeps_pipe, ended_pipe]
    exact checked_marks h5 hk
  · rw [ended_flight]
    exact checked_report h5 hf hroom

end

/-! ## FAIL: counted and reported (R523) -/

section
variable (s : State) (d : Nat) (x : Slice)

theorem State.bump_slice (n : RName) (e : Nat) : (s.bump n).slice e = s.slice e := rfl

theorem failCounted_rd (n : RName) (i j : Nat) : (s.failCounted d x).rd n i j = (s.ended d x 1).rd n i j := State.bump_rd _ _ _ _ _ n i j

theorem failCounted_slice : (s.failCounted d x).slice d = none := (State.bump_slice _ _ d).trans (s.ended_slice d x 1)

theorem failed_rd {n : RName} (i j : Nat) (hn : n ∉ [RName.sqStatus, .cntMsgLost, .pend]) : (s.failed d x).rd n i j = (s.ended d x 1).rd n i j := by
  rw [← failCounted_rd s d x]
  exact (s.failCounted d x).report_onlyRegs srcBist 0x20 _ n i j hn

theorem failed_rdw {n : RName} (i j : Nat) (hn : n ∉ [RName.sqStatus, .cntMsgLost, .pend]) : (s.failed d x).rdw n i j = (s.failCounted d x).rdw n i j :=
  (s.failCounted d x).report_onlyWide srcBist 0x20 _ n i j hn

/-- The registers that a failing slice's end writes. -/
def failRegs : List RName := endRegs ++ [.sqStatus, .cntMsgLost, .pend]

theorem failed_only : OnlyRegs failRegs s (s.failed d x) := fun n i j hn => by
  obtain ⟨hend, hrep⟩ := not_or.mp (mt List.mem_append.mpr hn)
  rw [failed_rd s d x i j hrep]
  exact s.ended_only d x 1 n i j hend

theorem failCounted_messages : (s.failCounted d x).squall.repairs = s.squall.repairs ∧ (s.failCounted d x).squall.flight = s.squall.flight := by
  unfold State.failCounted
  rw [State.bump_squall, s.ended_squall d x 1]
  exact ⟨rfl, rfl⟩

theorem failed_grows : Grows (s.failCounted d x) (s.failed d x) := (Grows.refl (s.failCounted d x)).report _ _ _

theorem failed_slice : (s.failed d x).slice d = none := (failed_grows s d x).idle d (failCounted_slice s d x)

theorem failed_repairs : (s.failed d x).squall.repairs = s.squall.repairs := (failed_grows s d x).repairs.trans (failCounted_messages s d x).1

theorem failed_result : (s.failed d x).fget F.bistResult_RESULT = 1 := by
  rw [fget_of_rd F.bistResult_RESULT (failed_rd s d x 0 0 (by decide))]
  exact (s.ended_result d x (res := 1) (by decide)).1

theorem failed_count : (s.failed d x).rdw .cntBistFail = s.rdw .cntBistFail + 1#64 := by
  rw [failed_rdw s d x 0 0 (by decide), ← (s.ended_counts d x 1).2 .cntBistFail 0 (by decide) (by decide)]
  exact rdw_bump_same (s.ended d x 1) .cntBistFail 0 0 1

theorem failed_sent (h : s.inFlight srcBist < 4) : ∃ m, (s.failed d x).squall.flight = s.squall.flight ++ [m] ∧ m.source = srcBist ∧ m.kind = 0x20 := by
  have hflight := (failCounted_messages s d x).2
  have hroom : (s.failCounted d x).inFlight srcBist < 4 := by
    unfold State.inFlight
    rw [hflight]
    exact h
  obtain ⟨own, hown⟩ := (s.failCounted d x).report_sent 0x20 (x.cls * 2 ^ 44 + domUnit d * 2 ^ 40 + x.index) hroom
  unfold State.failed
  rw [hown, hflight]
  exact ⟨_, rfl, rfl, rfl⟩

theorem failed_pipe (i j : Nat) : (s.failed d x).rd .pipeStatus i j = (s.restoreUnit d x).rd .pipeStatus i j := by
  rw [failed_rd s d x i j (by decide)]
  exact s.ended_rd d x 1 i j (by decide)

end

end Sys2Proof.Machine
end

section
/-!
PROOF. What the spare, the repair rows and the retirement of a failed unit do (R524 to R527).
-/

set_option Elab.async false
set_option exponentiation.threshold 4096
set_option maxRecDepth 20000

namespace Sys2Proof.Machine

/-! ## Messages, slices and the result stay -/

/-- Messages are added, the domain stays without a slice, and BIST_RESULT stays. -/
structure Acted (d : Nat) (s u : State) : Prop where
  flight : s.squall.flight <+: u.squall.flight
  idle : s.slice d = none → u.slice d = none
  result : u.rd .bistResult = s.rd .bistResult

theorem Acted.refl (d : Nat) (s : State) : Acted d s s := ⟨List.prefix_refl _, id, rfl⟩

theorem Acted.trans {d : Nat} {s t u : State} (h : Acted d s t) (h' : Acted d t u) : Acted d s u :=
  ⟨h.flight.trans h'.flight, fun e => h'.idle (h.idle e), h'.result.trans h.result⟩

theorem Grows.acted {s u : State} (d : Nat) (h : Grows s u) (hr : u.rd .bistResult = s.rd .bistResult) : Acted d s u := ⟨h.flight, h.idle d, hr⟩

theorem Acted.ite {d : Nat} {s a b : State} {c : Prop} [Decidable c] (ha : Acted d s a) (hb : Acted d s b) : Acted d s (if c then a else b) := by
  split
  · exact ha
  · exact hb

section
variable (s : State)

theorem Grows.pipeOut (t k : Nat) : Grows s (s.pipeOut t k).2 := by
  have hout : ∀ v : State, Grows s v → Grows s ((v.setRole t k 4 0).blow 0 (t * 16 + k)) := fun _ hv => hv.setRole.blow
  have hretired : Grows s (s.fset F.spareTile_PIPE_RETIRED (s.fget F.spareTile_PIPE_RETIRED t ||| 2 ^ k) t) := (Grows.refl s).fset _ _ _ (by decide)
  have hbase := hout _ (Grows.ite (c := k = 8) (hretired.fset (f := F.spareTile_PIPE_STANDIN) 0 t 0 (by decide)) hretired)
  unfold State.pipeOut
  dsimp only
  split
  · exact Grows.spareUsed (Grows.fset _ _ _ (by decide) hbase.setRole)
  · exact hbase

theorem Grows.bankFix (t mem bank : Nat) : Grows s (s.bankFix t mem bank) := by
  unfold State.bankFix
  exact Grows.spareUsed (Grows.fset _ _ _ (by decide) ((Grows.refl s).still rfl fun _ => rfl))

theorem Grows.rowOut (t cell : Nat) : Grows s (s.rowOut t cell) :=
  (Grows.refl s).forN fun k v hv => hv.quiet (State.cellOut_keeps (.rfl' .quiet v) t (cell / 16 * 16 + k))

/-! ## A tile leaves service (R527) -/

theorem State.abortIf_none {d : Nat} (p : Slice → Bool) (h : s.slice d = none) : s.abortIf d p = s := by
  unfold State.abortIf
  rw [h]

/-- A tile's ports and buffer as it leaves service. -/
def State.tileEmptied (s : State) (t : Nat) : State := ((s.blow 9 t).each ((s.blow 9 t).tilePorts t) (fun p s => s.portSafe p)).tileDrop t

theorem tileEmptied_keeps (t : Nat) : Keeps (.avoid [.bistResult]) s (s.tileEmptied t) :=
  State.tileDrop_keeps (State.each_keeps (State.blow_keeps (.rfl' _ s) 9 t) fun p _ hv => State.portSafe_keeps hv p) t

theorem tileEmptied_grows (t : Nat) : Grows s (s.tileEmptied t) :=
  Grows.tileDrop (Grows.each (Grows.blow (Grows.refl s)) fun _ _ hv => hv.portSafe)

variable {s}

theorem tileRetire_gone {t : Nat} (h : s.flag F.spareTile_TILE_RETIRED t = true) : s.tileRetire t = s := if_pos h

theorem tileRetire_first (h : s.flag F.spareTile_TILE_RETIRED 0 = false) :
    s.tileRetire 0 = (((s.blow 9 0).fset F.spareTile_TILE_RETIRED 1 0).requestReset 3 0).sayRetired 9 0 0 := if_neg (Bool.eq_false_iff.mp h)

theorem tileRetire_idle {t : Nat} (h : s.flag F.spareTile_TILE_RETIRED t = false) (h0 : t ≠ 0) (hs : s.slice t = none) :
    s.tileRetire t = ((s.tileEmptied t).fset F.spareTile_TILE_RETIRED 1 t).sayRetired 9 t 0 := by
  have hrun : s.tileRetire t = (if t = 0 then ((s.blow 9 t).fset F.spareTile_TILE_RETIRED 1 0).requestReset 3 0
      else ((s.tileEmptied t).abortIf t (fun _ => true)).fset F.spareTile_TILE_RETIRED 1 t).sayRetired 9 t 0 := if_neg (Bool.eq_false_iff.mp h)
  rw [hrun, if_neg h0, State.abortIf_none _ _ ((tileEmptied_grows s t).idle t hs)]

/-- What a retirement's report leaves. -/
theorem sayRetired_only (v : State) (c d i : Nat) : OnlyRegs [.sqStatus, .cntMsgLost, .pend, .cntEvLost, .cntEvDiscard] v (v.sayRetired c d i) :=
  (State.sayRetired_keeps (.rfl' (.onRegs _) v) c d i).onlyRegs

theorem State.requestReset_rd (v : State) (b hz : Nat) (n : RName) (i j : Nat) : (v.requestReset b hz).rd n i j = v.rd n i j := rfl

theorem tileRetire_spec {t : Nat} (hs : s.slice t = none) : (s.tileRetire t).rd .bistResult = s.rd .bistResult ∧
    (s.tileRetire t).flag F.spareTile_TILE_RETIRED t = true := by
  by_cases h : s.flag F.spareTile_TILE_RETIRED t = true
  · rw [tileRetire_gone h]
    exact ⟨rfl, h⟩
  · have h := Bool.eq_false_iff.mpr h
    by_cases h0 : t = 0
    · subst h0
      have hrd : ∀ n i j, n ∉ [RName.sqStatus, .cntMsgLost, .pend, .cntEvLost, .cntEvDiscard] →
          (s.tileRetire 0).rd n i j = ((s.blow 9 0).fset F.spareTile_TILE_RETIRED 1 0).rd n i j := fun n i j hn => by
        rw [tileRetire_first h, sayRetired_only _ 9 0 0 n i j hn, State.requestReset_rd]
      have hblow : (s.blow 9 0).rd .bistResult = s.rd .bistResult := (State.blow_keeps (.rfl' (.avoid [.bistResult]) s) 9 0).rd .bistResult 0 0 rfl
      exact ⟨(hrd _ _ _ (by decide)).trans ((rd_fset_reg _ _ _ _ _ _ (by decide)).trans hblow),
        (flag_of_rd F.spareTile_TILE_RETIRED (hrd _ _ _ (by decide))).trans (flag_fset_one _ F.spareTile_TILE_RETIRED 0 0 rfl (by decide))⟩
    · have hrd : ∀ n i j, n ∉ [RName.sqStatus, .cntMsgLost, .pend, .cntEvLost, .cntEvDiscard] →
          (s.tileRetire t).rd n i j = ((s.tileEmptied t).fset F.spareTile_TILE_RETIRED 1 t).rd n i j := fun n i j hn => by
        rw [tileRetire_idle h h0 hs, sayRetired_only _ 9 t 0 n i j hn]
      exact ⟨(hrd _ _ _ (by decide)).trans ((rd_fset_reg _ _ _ _ _ _ (by decide)).trans ((tileEmptied_keeps s t).rd .bistResult 0 0 rfl)),
        (flag_of_rd F.spareTile_TILE_RETIRED (hrd _ _ _ (by decide))).trans (flag_fset_one _ F.spareTile_TILE_RETIRED t 0 rfl (by decide))⟩

/-! ## Repair rows (R524) -/

variable (s)

/-- A row repaired, before its spare's use is reported. -/
def State.rowMended (s : State) (cls t mac : Nat) : State :=
  ({ s with squall := { s.squall with repairs := tset s.squall.repairs ((t * 16 + cls) * 65536 + mac) 0 (rowsUsed s cls t mac + 1) } } : State).fset
    F.spareTile_REPAIR_LEFT (min (s.fget F.spareTile_REPAIR_LEFT t) (3 - rowsUsed s cls t mac)) t

theorem repairRow_left {cls t mac : Nat} (ix : Nat) (h : rowsUsed s cls t mac < 4) :
    s.repairRow cls t mac ix = (true, (s.rowMended cls t mac).spareUsed cls t ix) := if_pos h

theorem repairRow_none {cls t mac : Nat} (ix : Nat) (h : 4 ≤ rowsUsed s cls t mac) : s.repairRow cls t mac ix = (false, s) := if_neg (Nat.not_lt.mpr h)

theorem rowMended_rd (cls t mac : Nat) {n : RName} (i j : Nat) (hn : n ≠ .spareTile) : (s.rowMended cls t mac).rd n i j = s.rd n i j :=
  rd_fset_reg _ _ _ _ _ _ hn

theorem rowMended_squall (cls t mac : Nat) : (s.rowMended cls t mac).squall =
    { s.squall with repairs := tset s.squall.repairs ((t * 16 + cls) * 65536 + mac) 0 (rowsUsed s cls t mac + 1) } := rfl

theorem rowMended_used (cls t mac : Nat) : rowsUsed (s.rowMended cls t mac) cls t mac = rowsUsed s cls t mac + 1 :=
  tget_tset_same s.squall.repairs ((t * 16 + cls) * 65536 + mac) 0 (rowsUsed s cls t mac + 1)

theorem rowMended_left (cls t mac : Nat) : (s.rowMended cls t mac).fget F.spareTile_REPAIR_LEFT t =
    min (s.fget F.spareTile_REPAIR_LEFT t) (3 - rowsUsed s cls t mac) := by
  unfold State.rowMended
  rw [fget_fset_same _ F.spareTile_REPAIR_LEFT _ _ _ (by decide) (by decide)]
  exact Nat.mod_eq_of_lt (Nat.lt_of_le_of_lt (Nat.min_le_right _ _) (show 3 - _ < 2 ^ 3 by omega))

/-- A row repaired. -/
def State.rowRepaired (s : State) (cls t mac ix : Nat) : State := (s.rowMended cls t mac).spareUsed cls t ix

theorem spareUsed_only (v : State) (c d i : Nat) : OnlyRegs [.sqStatus, .cntMsgLost, .pend, .cntEvLost, .cntEvDiscard] v (v.spareUsed c d i) :=
  (State.spareUsed_keeps (.rfl' (.onRegs _) v) c d i).onlyRegs

theorem rowRepaired_acted (d cls t mac ix : Nat) : Acted d s (s.rowRepaired cls t mac ix) := by
  have hg : Grows (s.rowMended cls t mac) (s.rowRepaired cls t mac ix) := (Grows.refl _).spareUsed
  have hflight := hg.flight
  rw [rowMended_squall] at hflight
  refine ⟨hflight, fun h => hg.idle d ?_, (spareUsed_only _ _ _ _ _ _ _ (by decide)).trans (rowMended_rd s cls t mac 0 0 (by decide))⟩
  unfold State.slice
  rw [rowMended_squall]
  exact h

theorem rowRepaired_spec (cls t mac ix : Nat) : rowsUsed (s.rowRepaired cls t mac ix) cls t mac = rowsUsed s cls t mac + 1 ∧
    (s.rowRepaired cls t mac ix).fget F.spareTile_REPAIR_LEFT t = min (s.fget F.spareTile_REPAIR_LEFT t) (3 - rowsUsed s cls t mac) ∧
    OnlyRegs [.spareTile, .sqStatus, .cntMsgLost, .pend, .cntEvLost, .cntEvDiscard] s (s.rowRepaired cls t mac ix) := by
  have hg : Grows (s.rowMended cls t mac) (s.rowRepaired cls t mac ix) := (Grows.refl _).spareUsed
  have honly := spareUsed_only (s.rowMended cls t mac) cls t ix
  refine ⟨?_, (fget_of_rd F.spareTile_REPAIR_LEFT (honly _ _ _ (by decide))).trans (rowMended_left s cls t mac), fun n i j hn =>
    (honly n i j (List.not_mem_of_not_mem_cons hn)).trans (rowMended_rd s cls t mac i j (List.ne_of_not_mem_cons hn))⟩
  rw [← rowMended_used]
  unfold rowsUsed
  rw [hg.repairs]

end

/-- A failing row takes a repair row, and with none left another course. -/
def State.rowOr (s : State) (cls t mac ix : Nat) (alt : State) : State := if (s.repairRow cls t mac ix).1 then (s.repairRow cls t mac ix).2 else alt

theorem rowOr_eq (s : State) (cls t mac ix : Nat) (alt : State) :
    s.rowOr cls t mac ix alt = if rowsUsed s cls t mac < 4 then s.rowRepaired cls t mac ix else alt := by
  unfold State.rowOr
  split
  · next hl =>
    by_cases h : rowsUsed s cls t mac < 4
    · rw [if_pos h, repairRow_left s ix h]
      rfl
    · rw [repairRow_none s ix (Nat.not_lt.mp h)] at hl
      exact absurd hl Bool.false_ne_true
  · next hl =>
    by_cases h : rowsUsed s cls t mac < 4
    · rw [repairRow_left s ix h] at hl
      exact absurd rfl hl
    · exact (if_neg h).symm

/-! ## What each class does (R524 to R527) -/

section
variable {s : State} {d : Nat} {x : Slice} (loc : Nat)

/-- A pipe's failure. -/
theorem unitFails_pipe (h : x.cls = 0) : s.unitFails d x loc = if (s.pipeOut d x.index).1 then (s.pipeOut d x.index).2
    else if s.flag F.retireCfg_RETIRE_EN then (s.pipeOut d x.index).2.sayRetired 0 d x.index else s := by
  unfold State.unitFails
  rw [h]
  rfl

/-- A bank's last row: the spare bank serves it. -/
def State.bankFailed (s : State) (d : Nat) (x : Slice) : State :=
  (({ s with te := { s.te with claims := tset s.te.claims d 0 0 } } : State).fset F.ttBank_CLAIMED 0 d).bankFix d (x.index / 64) (x.index % 64)

theorem unitFails_bank (h : x.cls = 1) : s.unitFails d x loc =
    if rowsUsed s 1 d x.index < 4 then s.rowRepaired 1 d x.index x.index else s.bankFailed d x := by
  have hrun : s.unitFails d x loc = s.rowOr 1 d x.index x.index (s.bankFailed d x) := by
    unfold State.unitFails
    rw [h]
    rfl
  rw [hrun, rowOr_eq]

theorem unitFails_cells (h : x.cls = 2) : s.unitFails d x loc =
    if rowsUsed s 2 d ((x.index + loc % 1024) / 16384) < 4 then s.rowRepaired 2 d ((x.index + loc % 1024) / 16384) x.index
    else s.rowOut d (x.index + loc % 1024) := by
  have hrun : s.unitFails d x loc = s.rowOr 2 d ((x.index + loc % 1024) / 16384) x.index (s.rowOut d (x.index + loc % 1024)) := by
    unfold State.unitFails
    rw [h]
    rfl
  rw [hrun, rowOr_eq]

theorem unitFails_link (h : x.cls = 3) : s.unitFails d x loc = s.linkOut d x.index := by
  unfold State.unitFails
  rw [h]
  rfl

theorem unitFails_page (h : x.cls = 4) : s.unitFails d x loc =
    if s.fget F.spareAnvil_PAGES_RETIRED x.index < 16384 then s.retirePage (x.index * 786432 + loc % 786432)
    else if s.flag F.retireCfg_RETIRE_EN then s.chRetire x.index else s := by
  unfold State.unitFails
  rw [h]
  rfl

theorem unitFails_store (h : x.cls = 5) : s.unitFails d x loc =
    if rowsUsed s 5 d (x.index / 1024) < 4 then s.rowRepaired 5 d (x.index / 1024) x.index
    else if s.flag F.retireCfg_RETIRE_EN then s.tileRetire d else s := by
  have hrun : s.unitFails d x loc = s.rowOr 5 d (x.index / 1024) x.index (if s.flag F.retireCfg_RETIRE_EN then s.tileRetire d else s) := by
    unfold State.unitFails
    rw [h]
    rfl
  rw [hrun, rowOr_eq]

theorem unitFails_lane (h : x.cls = 6) : s.unitFails d x loc =
    if s.flag F.retireCfg_RETIRE_EN then s.laneRetire ((d - 17) * 64 + x.index) else s := by
  unfold State.unitFails
  rw [h]
  rfl

theorem unitFails_other (h : 7 ≤ x.cls) : s.unitFails d x loc = s := by
  obtain ⟨n, hn⟩ : ∃ n, x.cls = n + 7 := ⟨x.cls - 7, by omega⟩
  unfold State.unitFails
  rw [hn]
  rfl

/-- The footprint of a step that leaves BIST_RESULT. -/
theorem Keeps.acted {u : State} (hg : Grows s u) (hk : Keeps (.avoid [.bistResult]) s u) : Acted d s u := hg.acted d (hk.rd .bistResult 0 0 rfl)

theorem unitFails_acted (hs : s.slice d = none) : Acted d s (s.unitFails d x loc) := by
  have hg := Grows.refl s
  have hk : Keeps (.avoid [.bistResult]) s s := .rfl' _ s
  have hpipe : Acted d s (s.pipeOut d x.index).2 := Keeps.acted (Grows.pipeOut s d x.index) (State.pipeOut_keeps hk d x.index)
  by_cases h7 : 7 ≤ x.cls
  · rw [unitFails_other loc h7]
    exact .refl d s
  · have hcls : x.cls = 0 ∨ x.cls = 1 ∨ x.cls = 2 ∨ x.cls = 3 ∨ x.cls = 4 ∨ x.cls = 5 ∨ x.cls = 6 := by omega
    obtain h | h | h | h | h | h | h := hcls
    · rw [unitFails_pipe loc h]
      exact .ite hpipe (.ite (hpipe.trans (Keeps.acted (Grows.refl _).sayRetired (State.sayRetired_keeps (.rfl' _ _) 0 d x.index))) (.refl d s))
    · rw [unitFails_bank loc h]
      refine .ite (rowRepaired_acted s d 1 d _ _) (Acted.trans ?_ (Keeps.acted (Grows.bankFix _ d _ _) (State.bankFix_keeps (.rfl' _ _) d _ _)))
      exact ⟨List.prefix_refl _, id, rd_fset_reg _ _ _ _ _ _ (by decide)⟩
    · rw [unitFails_cells loc h]
      exact .ite (rowRepaired_acted s d 2 d _ _) (Keeps.acted (Grows.rowOut s d _) (State.rowOut_keeps hk d _))
    · rw [unitFails_link loc h]
      exact Keeps.acted hg.linkOut (State.linkOut_keeps hk d _)
    · rw [unitFails_page loc h]
      exact .ite (Keeps.acted hg.retirePage (State.retirePage_keeps hk _)) (.ite (Keeps.acted hg.chRetire (State.chRetire_keeps hk _)) (.refl d s))
    · rw [unitFails_store loc h]
      exact .ite (rowRepaired_acted s d 5 d _ _) (.ite (hg.tileRetire.acted d (tileRetire_spec hs).1) (.refl d s))
    · rw [unitFails_lane loc h]
      exact .ite (Keeps.acted hg.laneRetire (State.laneRetire_keeps hk _)) (.refl d s)

end

/-! ## A pipe leaves service (R16, R526, R527) -/

section
variable (s : State)

theorem State.blow_rd (c k : Nat) (n : RName) (i j : Nat) : (s.blow c k).rd n i j = s.rd n i j := by
  unfold State.blow
  split <;> rfl

theorem State.blow_mem (c k : Nat) : (c, k) ∈ (s.blow c k).boot.fuses := by
  unfold State.blow
  split
  · next h => exact List.contains_iff_mem.mp h
  · exact List.mem_append_right _ (List.mem_singleton.mpr rfl)

/-- A pipe out of service, its fuse blown. -/
def State.pipeGone (s : State) (t k : Nat) : State :=
  ((s.fset F.spareTile_PIPE_RETIRED (s.fget F.spareTile_PIPE_RETIRED t ||| 2 ^ k) t).setRole t k 4 0).blow 0 (t * 16 + k)

/-- The spare serves for it. -/
def State.spareServes (s : State) (t k : Nat) : State := (((s.pipeGone t k).setRole t 8 0 0).fset F.spareTile_PIPE_STANDIN 0 t).spareUsed 0 t k

theorem pipeOut_spare {t k : Nat} (h8 : s.fget F.pipeStatus_ROLE t 8 = 1) (hk : k < 8) : s.pipeOut t k = (true, s.spareServes t k) := by
  have hne : k ≠ 8 := by omega
  have hfree : s.spareFree t = true := decide_eq_true h8
  unfold State.pipeOut
  dsimp only
  rw [if_neg hne, hfree, Bool.true_or, if_pos ⟨hne, rfl⟩]
  rfl

theorem State.setRole_rd_other (t k role standin : Nat) {n : RName} (i j : Nat) (hp : n ≠ .pipeStatus) (hc : n ≠ .cirrusStatus) :
    (s.setRole t k role standin).rd n i j = s.rd n i j :=
  ((rd_fset_reg _ _ _ _ _ _ hc).trans (rd_fset_reg _ _ _ _ _ _ hc)).trans ((rd_fset_reg _ _ _ _ _ _ hp).trans (rd_fset_reg _ _ _ _ _ _ hp))

theorem pipeGone_spec {t k : Nat} (hk : k < 8) : (s.pipeGone t k).fget F.pipeStatus_ROLE t k = 4 ∧
    bitAt ((s.pipeGone t k).fget F.spareTile_PIPE_RETIRED t) k = true ∧ (0, t * 16 + k) ∈ (s.pipeGone t k).boot.fuses := by
  obtain ⟨v, hv⟩ : ∃ v, v = s.fset F.spareTile_PIPE_RETIRED (s.fget F.spareTile_PIPE_RETIRED t ||| 2 ^ k) t := ⟨_, rfl⟩
  have hret : bitAt (v.fget F.spareTile_PIPE_RETIRED t) k = true := by
    rw [hv, fget_fset_same _ F.spareTile_PIPE_RETIRED _ _ _ (by decide) (by decide)]
    show Nat.testBit (_ % 2 ^ 9) k = true
    rw [Nat.testBit_mod_two_pow, Nat.testBit_or, Nat.testBit_two_pow_self, Bool.or_true, Bool.and_true]
    exact decide_eq_true (by omega)
  unfold State.pipeGone
  rw [← hv]
  refine ⟨(fget_of_rd F.pipeStatus_ROLE (State.blow_rd _ _ _ _ _ _)).trans (v.setRole_role t k 0 (by decide)), ?_, State.blow_mem _ _ _⟩
  rw [fget_of_rd F.spareTile_PIPE_RETIRED ((State.blow_rd _ _ _ _ _ _).trans (v.setRole_rd_other t k 4 0 _ _ (by decide) (by decide)))]
  exact hret

theorem State.setRole_boot (t k role standin : Nat) : (s.setRole t k role standin).boot = s.boot :=
  (State.setRole_keeps (.rfl' { Touch.all with boot := false } s) t k role standin).boot rfl

theorem State.spareUsed_boot (c d i : Nat) : (s.spareUsed c d i).boot = s.boot :=
  (State.spareUsed_keeps (.rfl' { Touch.all with boot := false } s) c d i).boot rfl

theorem spareServes_spec {t k : Nat} (hk : k < 8) : (s.spareServes t k).fget F.pipeStatus_ROLE t k = 4 ∧ (s.spareServes t k).fget F.pipeStatus_ROLE t 8 = 0 ∧
    bitAt ((s.spareServes t k).fget F.spareTile_PIPE_RETIRED t) k = true ∧ (0, t * 16 + k) ∈ (s.spareServes t k).boot.fuses := by
  obtain ⟨hrole, hret, hfuse⟩ := pipeGone_spec s (t := t) hk
  obtain ⟨v, hv⟩ : ∃ v, v = s.pipeGone t k := ⟨_, rfl⟩
  rw [← hv] at hrole hret hfuse
  have heq : s.spareServes t k = ((v.setRole t 8 0 0).fset F.spareTile_PIPE_STANDIN 0 t).spareUsed 0 t k := by
    rw [hv]
    rfl
  have honly := spareUsed_only ((v.setRole t 8 0 0).fset F.spareTile_PIPE_STANDIN 0 t) 0 t k
  have hpipe : ∀ j, (s.spareServes t k).rd .pipeStatus t j = (v.setRole t 8 0 0).rd .pipeStatus t j := fun j => by
    rw [heq, honly _ _ _ (by decide)]
    exact rd_fset_reg _ _ _ _ _ _ (by decide)
  refine ⟨?_, ?_, ?_, ?_⟩
  · rw [fget_of_rd F.pipeStatus_ROLE (hpipe k), fget_of_rd F.pipeStatus_ROLE (v.setRole_other 0 0 (regKey_pipe_ne hk))]
    exact hrole
  · rw [fget_of_rd F.pipeStatus_ROLE (hpipe 8)]
    exact v.setRole_role t 8 0 (by decide)
  · rw [heq, fget_of_rd F.spareTile_PIPE_RETIRED (honly _ _ _ (by decide)), fget_fset_off _ _ _ _ _ _ (by decide) (by decide) fun _ => .inr (by decide),
      fget_of_rd F.spareTile_PIPE_RETIRED (v.setRole_rd_other t 8 0 0 _ _ (by decide) (by decide))]
    exact hret
  · rw [heq, State.spareUsed_boot, State.fset_boot, State.setRole_boot]
    exact hfuse

/-! ## Banks, rows of cells and lanes (R205, R254, R527) -/

theorem bankFailed_spec (d : Nat) (x : Slice) :
    (bitAt ((s.bankFailed d x).fget F.ttBank_SPARE_FIXED d) (x.index / 64) = true ∨ 4 ≤ x.index / 64) ∧ tget (s.bankFailed d x).te.claims d 0 = 0 := by
  obtain ⟨v, n, heq, hn, hte⟩ : ∃ (v : State) (n : Nat), s.bankFailed d x = (v.fset F.ttBank_SPARE_FIXED (n ||| 2 ^ (x.index / 64)) d).spareUsed 1 d (bankIx (x.index / 64) (x.index % 64)) ∧
      n = v.fget F.ttBank_SPARE_FIXED d ∧ v.te.claims = tset s.te.claims d 0 0 := ⟨_, _, rfl, rfl, rfl⟩
  constructor
  · by_cases h : 4 ≤ x.index / 64
    · exact .inr h
    · refine .inl ?_
      rw [heq, fget_of_rd F.ttBank_SPARE_FIXED (spareUsed_only _ _ _ _ _ _ _ (by decide)),
        fget_fset_same _ F.ttBank_SPARE_FIXED _ _ _ (by decide) (by decide)]
      show Nat.testBit (_ % 2 ^ 4) (x.index / 64) = true
      rw [Nat.testBit_mod_two_pow, Nat.testBit_or, Nat.testBit_two_pow_self, Bool.or_true, Bool.and_true]
      exact decide_eq_true (by omega)
  · have hused : ∀ w : State, (w.spareUsed 1 d (bankIx (x.index / 64) (x.index % 64))).te = w.te := fun w =>
      (State.spareUsed_keeps (.rfl' .butTe w) 1 d _).te rfl
    rw [heq, hused, State.fset_te, hte]
    exact tget_tset_same _ _ _ _

theorem rowOut_withdrawn (t cell : Nat) : ∀ n k, k < n →
    ((forN n (fun k s => s.cellOut t (cell / 16 * 16 + k)) s).buf t).withdrawn.contains (cell / 16 * 16 + k) = true
  | n + 1, k, h => by
    obtain ⟨hself, hstay⟩ := State.cellOut_withdrawn (forN n (fun k s => s.cellOut t (cell / 16 * 16 + k)) s) t (cell / 16 * 16 + n)
    rw [forN_succ]
    by_cases hk : k = n
    · rw [hk]
      exact hself
    · exact hstay _ (rowOut_withdrawn t cell n k (by omega))

/-- A lane marked as retired, its fuse blown. -/
def State.laneMarked (s : State) (l : Nat) : State :=
  (s.wr .spareLane (s.rd .spareLane (l / 32) ||| BitVec.ofNat 32 (2 ^ (l % 32))) (l / 32)).blow 6 l

theorem laneRetire_spec (l : Nat) : ((s.laneRetire l).rd .spareLane (l / 32)).getLsbD (l % 32) = true ∧ (6, l) ∈ (s.laneRetire l).boot.fuses := by
  have hlt : l % 32 < 32 := Nat.mod_lt _ (by decide)
  have heq : s.laneRetire l = ((s.laneMarked l).laneSafe l).sayRetired 6 (l / 64) (l % 64) := rfl
  have hkeep : ∀ v : State, Keeps { Touch.avoid [.spareLane] with boot := false } v ((v.laneSafe l).sayRetired 6 (l / 64) (l % 64)) := fun v =>
    State.sayRetired_keeps (State.laneSafe_keeps (.rfl' _ v) l) 6 _ _
  rw [heq]
  constructor
  · rw [(hkeep _).rd .spareLane (l / 32) 0 rfl]
    unfold State.laneMarked
    rw [State.blow_rd, rd_wr_same, BitVec.getLsbD_or, BitVec.getLsbD_ofNat, Nat.testBit_two_pow_self, decide_eq_true hlt]
    exact Bool.or_true _
  · rw [(hkeep _).boot rfl]
    exact State.blow_mem _ 6 l

end

end Sys2Proof.Machine
end

section
/-!
PROOF. A BIST slice that ends with FAIL, and the whole of BIST (R523 to R527).
-/

set_option Elab.async false
set_option exponentiation.threshold 4096
set_option maxRecDepth 20000

namespace Sys2Proof.Machine

/-! ## The state in which a failure's effect starts -/

section
variable (s : State) (d : Nat) (x : Slice) (fixed : List (Fin 1024))

/-- The slice's end is counted and reported. -/
def State.failStart (s : State) (d : Nat) (x : Slice) (fixed : List (Fin 1024)) : State := (s.checked d x fixed).failed d x

theorem failStart_only : OnlyRegs failRegs s (s.failStart d x fixed) := fun n i j hn =>
  (failed_only _ d x n i j hn).trans (checked_rd fixed d (mt (List.mem_append_right endRegs) hn) i j)

theorem failStart_fget (f : Fld) (i j : Nat) (hf : f.reg ∉ failRegs) : (s.failStart d x fixed).fget f i j = s.fget f i j :=
  fget_of_rd f (failStart_only s d x fixed f.reg i j hf)

theorem failStart_flag (f : Fld) (hf : f.reg ∉ failRegs) : (s.failStart d x fixed).flag f = s.flag f :=
  flag_of_rd f (failStart_only s d x fixed f.reg 0 0 hf)

theorem failStart_used (cls mac : Nat) : rowsUsed (s.failStart d x fixed) cls d mac = rowsUsed s cls d mac := by
  unfold rowsUsed State.failStart
  rw [failed_repairs, (checked_rest s d x fixed).2]

theorem failStart_slice : (s.failStart d x fixed).slice d = none := failed_slice _ d x

theorem failStart_count : (s.failStart d x fixed).rdw .cntBistFail = s.rdw .cntBistFail + 1#64 :=
  (failed_count _ d x).trans (by rw [checked_wide fixed d (by decide)])

/-- What follows on the unit's spare, repair or retirement: the plan is looked at. -/
def State.failEnd (s : State) (d : Nat) (x : Slice) (fixed : List (Fin 1024)) (loc : Nat) : State := ((s.failStart d x fixed).unitFails d x loc).planCheck

theorem failEnd_rd (loc : Nat) {n : RName} (i j : Nat) (hn : n ∉ [RName.bistStatus, .cntEvLost, .cntEvDiscard]) :
    (s.failEnd d x fixed loc).rd n i j = ((s.failStart d x fixed).unitFails d x loc).rd n i j := State.planCheck_only _ n i j hn

theorem failEnd_squall (loc : Nat) : (s.failEnd d x fixed loc).squall = ((s.failStart d x fixed).unitFails d x loc).squall := State.planCheck_squall _

theorem failEnd_boot (loc : Nat) : (s.failEnd d x fixed loc).boot = ((s.failStart d x fixed).unitFails d x loc).boot := State.planCheck_boot _

theorem failEnd_te (loc : Nat) : (s.failEnd d x fixed loc).te = ((s.failStart d x fixed).unitFails d x loc).te :=
  (State.planCheck_keeps (.rfl' .butTe _)).te rfl

theorem failEnd_tm (loc : Nat) : (s.failEnd d x fixed loc).tm = ((s.failStart d x fixed).unitFails d x loc).tm :=
  (State.planCheck_keeps (.rfl' .butTm _)).tm rfl

/-! ## What every failure does (R523) -/

theorem failEnd_all (loc : Nat) : (s.failEnd d x fixed loc).slice d = none ∧ (s.failEnd d x fixed loc).fget F.bistResult_RESULT = 1 ∧
    (s.failEnd d x fixed loc).rdw .cntBistFail = s.rdw .cntBistFail + 1#64 := by
  have hact := unitFails_acted (x := x) loc (failStart_slice s d x fixed)
  have hwide : ((s.failStart d x fixed).unitFails d x loc).rdw .cntBistFail = (s.failStart d x fixed).rdw .cntBistFail :=
    (State.unitFails_keeps (.rfl' (.avoid [.cntBistFail]) _) d x loc).rdw .cntBistFail 0 0 rfl
  refine ⟨(State.planCheck_slice _ d).trans (hact.idle (failStart_slice s d x fixed)), ?_, ?_⟩
  · rw [fget_of_rd F.bistResult_RESULT ((failEnd_rd s d x fixed loc 0 0 (by decide)).trans hact.result)]
    exact failed_result _ d x
  · exact (State.planCheck_onlyWide _ _ _ _ (by decide)).trans (hwide.trans (failStart_count s d x fixed))

variable {s d x fixed}

theorem failEnd_sent (loc : Nat) (hf : x.cls ≠ 5 ∨ fixed = []) (hroom : s.inFlight srcBist < 4) :
    ∃ m more, (s.failEnd d x fixed loc).squall.flight = s.squall.flight ++ m :: more ∧ m.source = srcBist ∧ m.kind = 0x20 := by
  obtain ⟨m, hm, hsrc, hkind⟩ := failed_sent s d x hroom
  obtain ⟨more, hmore⟩ := (unitFails_acted (x := x) loc (failStart_slice s d x fixed)).flight
  have hstart : (s.failStart d x fixed).squall.flight = s.squall.flight ++ [m] := by
    unfold State.failStart
    rw [checked_same hf, hm]
  refine ⟨m, more, ?_, hsrc, hkind⟩
  rw [failEnd_squall, ← hmore, hstart, List.append_assoc]
  rfl

/-! ## What the failure of each class does (R524 to R527) -/

theorem failEnd_pipe (loc : Nat) (hc : x.cls = 0) (hw : x.wait = false) (hp : x.prior = 0) (hk : x.index < 8)
    (h8 : s.fget F.pipeStatus_ROLE d 8 = 2) (hst : s.fget F.pipeStatus_STANDIN d 8 = x.index) :
    (s.failEnd d x fixed loc).fget F.pipeStatus_ROLE d x.index = 4 ∧ (s.failEnd d x fixed loc).fget F.pipeStatus_ROLE d 8 = 0 ∧
      bitAt ((s.failEnd d x fixed loc).fget F.spareTile_PIPE_RETIRED d) x.index = true ∧ (0, d * 16 + x.index) ∈ (s.failEnd d x fixed loc).boot.fuses := by
  have hfree : (s.failStart d x fixed).fget F.pipeStatus_ROLE d 8 = 1 := by
    unfold State.failStart
    rw [checked_same (.inl (by rw [hc]; decide)), fget_of_rd F.pipeStatus_ROLE (failed_pipe s d x d 8)]
    exact (s.restore_pipe hc hw hp hk h8 hst).2
  have hrun : (s.failStart d x fixed).unitFails d x loc = (s.failStart d x fixed).spareServes d x.index := by
    rw [unitFails_pipe loc hc, pipeOut_spare _ hfree hk]
    rfl
  obtain ⟨h1, h2, h3, h4⟩ := spareServes_spec (s.failStart d x fixed) (t := d) hk
  rw [← hrun] at h1 h2 h3 h4
  rw [fget_of_rd F.pipeStatus_ROLE (failEnd_rd s d x fixed loc d x.index (by decide)), fget_of_rd F.pipeStatus_ROLE (failEnd_rd s d x fixed loc d 8 (by decide)),
    fget_of_rd F.spareTile_PIPE_RETIRED (failEnd_rd s d x fixed loc d 0 (by decide)), failEnd_boot]
  exact ⟨h1, h2, h3, h4⟩

/-- A failing row is repaired. -/
theorem failEnd_row {loc cls mac : Nat} (hrun : (s.failStart d x fixed).unitFails d x loc = (s.failStart d x fixed).rowRepaired cls d mac x.index) :
    rowsUsed (s.failEnd d x fixed loc) cls d mac = rowsUsed s cls d mac + 1 ∧
    (s.failEnd d x fixed loc).fget F.spareTile_REPAIR_LEFT d = min (s.fget F.spareTile_REPAIR_LEFT d) (3 - rowsUsed s cls d mac) ∧
    OnlyRegs ([.spareTile, .bistStatus, .cntEvLost, .cntEvDiscard] ++ failRegs) s (s.failEnd d x fixed loc) := by
  obtain ⟨hused, hleft, honly⟩ := rowRepaired_spec (t := d) (s.failStart d x fixed) cls mac x.index
  rw [← hrun] at hused hleft honly
  rw [failStart_used] at hused hleft
  refine ⟨?_, ?_, fun n i j hn => ?_⟩
  · rw [← hused]
    unfold rowsUsed
    rw [failEnd_squall]
  · rw [fget_of_rd F.spareTile_REPAIR_LEFT (failEnd_rd s d x fixed loc d 0 (by decide)), hleft, failStart_fget s d x fixed F.spareTile_REPAIR_LEFT d 0 (by decide)]
  · obtain ⟨hown, hfail⟩ := not_or.mp (mt List.mem_append.mpr hn)
    have hspare := List.ne_of_not_mem_cons hown
    have hrest := List.not_mem_of_not_mem_cons hown
    rw [failEnd_rd s d x fixed loc i j hrest, honly n i j ?_, failStart_only s d x fixed n i j hfail]
    intro hm
    simp only [List.mem_cons, List.not_mem_nil, or_false, failRegs, endRegs, List.mem_append, not_or] at hm hrest hfail
    tauto

theorem failEnd_bank (loc : Nat) (hc : x.cls = 1) (hused : rowsUsed s 1 d x.index < 4) :
    rowsUsed (s.failEnd d x fixed loc) 1 d x.index = rowsUsed s 1 d x.index + 1 ∧
    (s.failEnd d x fixed loc).fget F.spareTile_REPAIR_LEFT d = min (s.fget F.spareTile_REPAIR_LEFT d) (3 - rowsUsed s 1 d x.index) ∧
    (s.failEnd d x fixed loc).fget F.ttBank_SPARE_FIXED d = s.fget F.ttBank_SPARE_FIXED d := by
  obtain ⟨h1, h2, h3⟩ := failEnd_row (s := s) (d := d) (x := x) (fixed := fixed) (loc := loc) (cls := 1) (mac := x.index)
    (by rw [unitFails_bank loc hc, failStart_used, if_pos hused])
  exact ⟨h1, h2, fget_of_rd F.ttBank_SPARE_FIXED (h3 _ _ _ (by decide))⟩

theorem failEnd_bankSpare (loc : Nat) (hc : x.cls = 1) (hused : 4 ≤ rowsUsed s 1 d x.index) :
    (bitAt ((s.failEnd d x fixed loc).fget F.ttBank_SPARE_FIXED d) (x.index / 64) = true ∨ 4 ≤ x.index / 64) ∧
      tget (s.failEnd d x fixed loc).te.claims d 0 = 0 := by
  have hrun : (s.failStart d x fixed).unitFails d x loc = (s.failStart d x fixed).bankFailed d x := by
    rw [unitFails_bank loc hc, failStart_used, if_neg (Nat.not_lt.mpr hused)]
  rw [fget_of_rd F.ttBank_SPARE_FIXED (failEnd_rd s d x fixed loc d 0 (by decide)), failEnd_te, hrun]
  exact bankFailed_spec _ d x

theorem failEnd_cells (loc : Nat) (hc : x.cls = 2) (hused : rowsUsed s 2 d ((x.index + loc % 1024) / 16384) < 4) :
    rowsUsed (s.failEnd d x fixed loc) 2 d ((x.index + loc % 1024) / 16384) = rowsUsed s 2 d ((x.index + loc % 1024) / 16384) + 1 ∧
    (s.failEnd d x fixed loc).fget F.spareTile_REPAIR_LEFT d =
      min (s.fget F.spareTile_REPAIR_LEFT d) (3 - rowsUsed s 2 d ((x.index + loc % 1024) / 16384)) ∧
    (s.failEnd d x fixed loc).fget F.spareCells_WITHDRAWN d = s.fget F.spareCells_WITHDRAWN d := by
  obtain ⟨h1, h2, h3⟩ := failEnd_row (s := s) (d := d) (x := x) (fixed := fixed) (loc := loc) (cls := 2) (mac := (x.index + loc % 1024) / 16384)
    (by rw [unitFails_cells loc hc, failStart_used, if_pos hused])
  exact ⟨h1, h2, fget_of_rd F.spareCells_WITHDRAWN (h3 _ _ _ (by decide))⟩

theorem failEnd_cellsOut (loc : Nat) (hc : x.cls = 2) (hused : 4 ≤ rowsUsed s 2 d ((x.index + loc % 1024) / 16384)) (k : Nat) (hk : k < 16) :
    ((s.failEnd d x fixed loc).buf d).withdrawn.contains ((x.index + loc % 1024) / 16 * 16 + k) = true := by
  have hrun : (s.failStart d x fixed).unitFails d x loc = (s.failStart d x fixed).rowOut d (x.index + loc % 1024) := by
    rw [unitFails_cells loc hc, failStart_used, if_neg (Nat.not_lt.mpr hused)]
  have hbuf : (s.failEnd d x fixed loc).buf d = ((s.failStart d x fixed).unitFails d x loc).buf d := by
    unfold State.buf
    rw [failEnd_tm]
  rw [hbuf, hrun]
  exact rowOut_withdrawn _ d _ 16 k hk

theorem failEnd_store (loc : Nat) (hc : x.cls = 5) (hused : rowsUsed s 5 d (x.index / 1024) < 4) :
    rowsUsed (s.failEnd d x fixed loc) 5 d (x.index / 1024) = rowsUsed s 5 d (x.index / 1024) + 1 ∧
    (s.failEnd d x fixed loc).fget F.spareTile_REPAIR_LEFT d = min (s.fget F.spareTile_REPAIR_LEFT d) (3 - rowsUsed s 5 d (x.index / 1024)) := by
  obtain ⟨h1, h2, -⟩ := failEnd_row (s := s) (d := d) (x := x) (fixed := fixed) (loc := loc) (cls := 5) (mac := x.index / 1024)
    (by rw [unitFails_store loc hc, failStart_used, if_pos hused])
  exact ⟨h1, h2⟩

theorem failEnd_tile (loc : Nat) (hc : x.cls = 5) (hused : 4 ≤ rowsUsed s 5 d (x.index / 1024)) (hen : s.flag F.retireCfg_RETIRE_EN = true) :
    (s.failEnd d x fixed loc).flag F.spareTile_TILE_RETIRED d = true := by
  have hrun : (s.failStart d x fixed).unitFails d x loc = (s.failStart d x fixed).tileRetire d := by
    rw [unitFails_store loc hc, failStart_used, if_neg (Nat.not_lt.mpr hused), if_pos ((failStart_flag s d x fixed _ (by decide)).trans hen)]
  rw [flag_of_rd F.spareTile_TILE_RETIRED (failEnd_rd s d x fixed loc d 0 (by decide)), hrun]
  exact (tileRetire_spec (failStart_slice s d x fixed)).2

theorem failEnd_link (loc : Nat) (hc : x.cls = 3) (hleft : s.fget F.spareTile_XLINK_LEFT d ≠ 0) :
    (s.failEnd d x fixed loc).fget F.spareTile_XLINK_LEFT d = s.fget F.spareTile_XLINK_LEFT d - 1 := by
  have hsame := failStart_fget s d x fixed F.spareTile_XLINK_LEFT d 0 (by decide)
  rw [fget_of_rd F.spareTile_XLINK_LEFT (failEnd_rd s d x fixed loc d 0 (by decide)), unitFails_link loc hc, ← hsame]
  exact (State.linkOut_spec _ x.index (by rw [hsame]; exact hleft)).1

theorem failEnd_page (loc : Nat) (hc : x.cls = 4) (hroom : s.fget F.spareAnvil_PAGES_RETIRED x.index < 16384) :
    (s.failEnd d x fixed loc).tm.anvil.retired.contains (x.index * 786432 + loc % 786432) = true := by
  have hsame := failStart_fget s d x fixed F.spareAnvil_PAGES_RETIRED x.index 0 (by decide)
  have hpage : (x.index * 786432 + loc % 786432) / 786432 = x.index := by omega
  rw [failEnd_tm, unitFails_page loc hc, if_pos (by rw [hsame]; exact hroom)]
  exact State.retirePage_retired _ (by rw [hpage, hsame]; exact hroom)

theorem failEnd_lane (loc : Nat) (hc : x.cls = 6) (hen : s.flag F.retireCfg_RETIRE_EN = true) :
    ((s.failEnd d x fixed loc).rd .spareLane (((d - 17) * 64 + x.index) / 32)).getLsbD (((d - 17) * 64 + x.index) % 32) = true ∧
      (6, (d - 17) * 64 + x.index) ∈ (s.failEnd d x fixed loc).boot.fuses := by
  have hrun : (s.failStart d x fixed).unitFails d x loc = (s.failStart d x fixed).laneRetire ((d - 17) * 64 + x.index) := by
    rw [unitFails_lane loc hc, if_pos ((failStart_flag s d x fixed _ (by decide)).trans hen)]
  rw [failEnd_rd s d x fixed loc _ 0 (by decide), failEnd_boot, hrun]
  exact laneRetire_spec _ _

end

/-- What the end of a slice with a result does. -/
theorem bistFailures : Claims.BistFailures := by
  intro s d loc fixed
  refine ⟨fun h ok => sliceEnd_none ok loc fixed h, fun x h => ⟨fun hw hf ok => sliceEnd_held ok loc fixed h hw hf, fun hw hc =>
    ⟨sliceEnd_pass_spec fixed loc h hw hc, ?_⟩⟩⟩
  obtain ⟨hslice, hres, hcnt⟩ := failEnd_all s d x fixed loc
  exact ⟨s.failEnd d x fixed loc, sliceEnd_fail loc fixed h hw hc, hslice, hres, hcnt, failEnd_sent loc, fun h0 hp hk _ h8 hst => failEnd_pipe loc h0 hw hp hk h8 hst,
    ⟨failEnd_bank loc, failEnd_bankSpare loc, failEnd_cells loc, failEnd_cellsOut loc, failEnd_store loc, fun h5 hused _ hen => failEnd_tile loc h5 hused hen⟩,
    failEnd_link loc, failEnd_page loc, fun h6 hen _ _ => failEnd_lane loc h6 hen⟩

/-- Settles O56: plans, starts and ends of slices by what they leave of Squall, and each class's failure by its spare, rows or retirement. -/
theorem bistCommands : Obligations.BistCommands := ⟨bistSlices, bistFailures⟩

end Sys2Proof.Machine
end
